-- ==== Sys2Proof/Word.lean ====
section
/-! DEFINITION. The word types of the module and their plainest arithmetic (R11, R12, R18). -/

namespace Sys2Proof

/-- A register, or any other 32-bit word (R12). -/
abbrev Word32 := BitVec 32

/-- A byte of memory. -/
abbrev Byte := BitVec 8

/-- A 128-bit instruction word (R124). -/
abbrev InstrWord := BitVec 128

/-- A 41-bit device address (R155). -/
abbrev DevAddr := BitVec 41

/-- The largest value of a 32-bit saturating counter (R18). -/
def max32 : Nat := 0xFFFFFFFF

/-- R18: a saturating 32-bit counter after `n` more events. -/
def satAdd32 (a n : Nat) : Nat := min (a + n) max32

end Sys2Proof
end

