-- ==== Sys2Proof/Syntax.lean ====
section
/-! DEFINITION. The commands of the block and the types of their operands. -/

namespace Sys2Proof

/-- R107: a stream: its field, its furrow by physical number, its context and its index in the furrow. -/
structure StreamId where
  field : Fin 4
  furrow : Fin 26
  ctx : Fin 64
  strm : Fin 3
deriving DecidableEq, Repr

/-- A flit as it comes out of the FEC decoder: corrected symbols, uncorrectable codewords that have come whole with it, whether
one that could not be corrected touches it (R229), the 256 bytes, the body after decryption, and whether its tag verifies
(log 4). -/
structure FlitIn where
  fecCorr : Nat
  fecUnc : Nat
  fecHit : Bool
  raw : BitVec 2048
  body : BitVec 1920
  tagOk : Bool
deriving DecidableEq, Repr

/-- What the host's memory holds in the command rings of the queues that a command looks into: for each queue, the commands
from its start position on (log 15). -/
abbrev Rings := List (Nat × List (BitVec 512))

/-- What the sensors show for an entry of the fault log or the almanac (R400, R419, R420): die temperature in °C, core
voltage in mV, clock in MHz, and the array and HBM utilisation of the millisecond before, in units of 1/255. -/
structure Meas where
  temp : BitVec 8 := 0
  vcore : BitVec 16 := 0
  clk : BitVec 16 := 0
  util : BitVec 8 := 0
  hbm : BitVec 8 := 0
deriving DecidableEq, Repr

/-- R436: what can be fenced. -/
inductive Dom where
  | stream (f n c k : Nat)
  | queue (q : Nat)
  | dma (f e : Nat)
  | port (p : Nat)
  | field (f : Nat)
  | ctx (c : Nat)
deriving DecidableEq, Repr

/-- R164: who reads or writes a codeword: a stream's transfer or COL, its instruction fetch, the collective engine of a
field for a context, a function's BAR2 access, a command of a queue. -/
inductive Reader where
  | stream (x : StreamId)
  | fetch (x : StreamId)
  | engine (c : Fin 64) (f : Fin 4)
  | bar2 (u : Fin 64)
  | cmd (q : Fin 8192)
deriving DecidableEq, Repr

/-- R162, R163: what the controller's code finds in a codeword it reads: no error, one symbol, more than it corrects. -/
inductive Found where
  | clean | one | uncorrectable
deriving DecidableEq, Repr

/-- R169, R394: a find of the codes and checks inside the package that belongs to no other command: a corrected word of a furrow's
or a field's store, a retried or a failed segment of a field's headland ring, a corrected or an uncorrectable word of the
steading's store; an uncorrectable word of a context's seedbed quota, sheaf share or gleaning share or of a stream's buffer, each
numbered through its store in words of 8 bytes (log 66). -/
inductive ChipFind where
  | furrowStore (f : Fin 4) (n : Fin 26)
  | sheafStore (f : Fin 4)
  | ringRetried (f : Fin 4)
  | ringFailed (f : Fin 4)
  | steadingStore
  | steadingLost
  | seedWord (f : Fin 4) (n : Fin 26) (c : Fin 64) (w : Nat)
  | sheafWord (f : Fin 4) (c : Fin 64) (w : Nat)
  | gleanWord (f : Fin 4) (n : Fin 26) (c : Fin 64) (w : Nat)
  | bufferWord (i : StreamId) (w : Nat)
deriving DecidableEq, Repr

/-- R376: the kinds of on-chip quota. -/
inductive Quota where
  | seedbed | slots | gleaning
deriving DecidableEq, Repr

/-- R381: the ticks a window of a context counted: active, blocked, and blocked at each resource. -/
structure WinCounts where
  active : Nat
  blocked : Nat
  issue : Nat
  hbm : Nat
  ring : Nat
  port : Nat
deriving DecidableEq, Repr

/-- R454: the means of a 1 ms interval: input voltage in mV, input current in 10 mA, input power in W, and the rails of
fields, HBM, Mebenlink and steading in W. -/
structure PowerIn where
  mv : BitVec 16
  ca : BitVec 16
  w : BitVec 16
  fields : BitVec 16
  hbm : BitVec 16
  links : BitVec 16
  steading : BitVec 16
deriving DecidableEq, Repr

/-- R529: the data register of the test access port: `debug` stands for whatever an accepted token unlocks. -/
inductive TapReg where
  | idcode | bypass | debug
deriving DecidableEq, Repr

/-- R529: activity of the test access port: TRST_N driven low or high, an instruction that selects a register, bits shifted
in on TDI. -/
inductive TapOp where
  | trst (low : Bool)
  | select (r : TapReg)
  | shift (tdi : List Bool)
deriving DecidableEq, Repr

/-- R525: what holds the device in reset. -/
inductive ResetCause where
  | perst | flr | powerGood
deriving DecidableEq, Repr

/-- R531, R534: what takes PWR_GOOD away: a rail of the steading, the standby rail, the converter (R534). -/
inductive LossCause where
  | steadingRail | standbyRail | converter
deriving DecidableEq, Repr

/-- R342: the widths of the host link. -/
inductive LinkWidth where
  | x1 | x4 | x8 | x16
deriving DecidableEq, Repr

/-- R344, R346, R351: what a host write to configuration space changes: the number of virtual functions enabled, the sizes of
BAR2 as powers of two, MSI-X enable and function mask, the mask bit of a vector. -/
inductive ConfigWrite where
  | numVfs (n : Fin 64)
  | bar2Pf (log : Fin 42)
  | bar2Vf (log : Fin 42)
  | msixEnable (u : Fin 64) (on : Bool)
  | funcMask (u : Fin 64) (on : Bool)
  | vecMask (u : Fin 64) (vec : Fin 2048)
  | aerClear
deriving DecidableEq, Repr

/-- R349, R496: what comes in the DOE mailbox besides IDE key management: a DOE Discovery request for an index, or the bytes of
an attestation request. -/
inductive DoeRequest where
  | discovery (index : BitVec 8)
  | attest (b : List Byte)
deriving DecidableEq, Repr

/-- R487: a signature that verifies: the FIPS 204 context string, the public key, the 64-byte digest that is its message, and
the signature (log 4). A command that brings signatures brings the list of those that verify. -/
structure Verified where
  ctx : List Byte
  key : List Byte
  digest : List Byte
  sig : List Byte
deriving DecidableEq, Repr

/-- R508: MCTP control messages; `getVendor` names the vendor ID set selected. -/
inductive MctpReq where
  | getEid
  | setEid (eid : BitVec 8)
  | getVersion
  | getTypes
  | getVendor (sel : BitVec 8)
deriving DecidableEq, Repr

/-- R508, R511: PLDM base, monitoring and control commands; `getVersion` and `getCommands` name a PLDM type. -/
inductive PldmReq where
  | getTid
  | setTid (tid : BitVec 8)
  | getVersion (type : BitVec 8)
  | getTypes
  | getCommands (type : BitVec 8)
  | getPdrInfo
  | getPdr (record : BitVec 8)
  | getSensor (id : BitVec 16)
  | getState (sensor : Fin 3)
deriving DecidableEq, Repr

/-- R509: how the I3C bus owner assigns a dynamic address: to the holder of a static address, or in arbitration. -/
inductive I3cAssign where
  | setdasa (static : BitVec 7)
  | entdaa
deriving DecidableEq, Repr

/-- The commands of the block, one constructor for each row of the table of operations and events. -/
inductive Instr where
  /-- R126: Binds a weight port of the issuing stream to a seedbed operand; it retires at issue. -/
  | ldw (i : StreamId) (body : BitVec 120)
  /-- R126: Binds the activation operand of the issuing stream to a seedbed operand; it retires at issue. -/
  | lda (i : StreamId) (body : BitVec 120)
  /-- R177: Binds a turned operand whose MX scales are regrouped along the reduction axis. -/
  | trn (i : StreamId) (body : BitVec 120)
  /-- R138: Checks a seedbed, HBM or sheaf transfer at issue and hands it off to the field's DMA engines. -/
  | dma (i : StreamId) (body : BitVec 120)
  /-- R172: The field's full DMA hand-off queue gains room and accepts a waiting DMA instruction, which then retires. -/
  | dmaHandoffAccept (f : Fin 4)
  /-- R121: A DMA transfer completes and, if its signal flag is set, adds 1 to its semaphore. -/
  | dmaTransferDone (f : Fin 4) (i : Nat) (lost : List Nat)
  /-- R62: Issues a normal-layout matrix multiply-accumulate into a tile slot, with its issue checks and the latching of
  its bindings. -/
  | mma (i : StreamId) (body : BitVec 120)
  /-- R70: Issues a thin-layout matrix multiply-accumulate into consecutive tile slots. -/
  | mmt (i : StreamId) (body : BitVec 120)
  /-- R61: A weight-buffer bank completes its fill, becomes live and admits the rows of its pass. -/
  | weightBankFilled (f : Fin 4) (n : Fin 26) (lost : List Nat)
  /-- R90: An array-pass result enters every element it covers in the slot through the level stack, and updates q, t and
  P. -/
  | arrayPassEnter (f : Fin 4) (n : Fin 26) (lost : List Nat)
  /-- R95: Issues a drain of a tile slot through the scale, bias, activation, residual, conversion and check stages. -/
  | drn (i : StreamId) (body : BitVec 120)
  /-- R105: All four column groups of a drain have been written; the drain writes its record and adds its counters to
  the step totals. -/
  | drainRetire (f : Fin 4) (n : Fin 26)
  /-- R140: Copies a vector and converts it to the destination format. -/
  | vopCpy (i : StreamId) (body : BitVec 114)
  /-- R140: Adds two vectors element by element. -/
  | vopAdd (i : StreamId) (body : BitVec 114)
  /-- R140: Subtracts two vectors element by element. -/
  | vopSub (i : StreamId) (body : BitVec 114)
  /-- R140: Multiplies two vectors element by element. -/
  | vopMul (i : StreamId) (body : BitVec 114)
  /-- R140: Computes a fused multiply-add element by element with one rounding. -/
  | vopFma (i : StreamId) (body : BitVec 114)
  /-- R140: Divides two vectors element by element. -/
  | vopDiv (i : StreamId) (body : BitVec 114)
  /-- R140: Takes the square root of each element. -/
  | vopSqrt (i : StreamId) (body : BitVec 114)
  /-- R140: Takes the element-wise maximumNumber of two vectors. -/
  | vopMax (i : StreamId) (body : BitVec 114)
  /-- R140: Takes the element-wise minimumNumber of two vectors. -/
  | vopMin (i : StreamId) (body : BitVec 114)
  /-- R140: Takes the correctly rounded exp of each element. -/
  | vopExp (i : StreamId) (body : BitVec 114)
  /-- R140: Takes the correctly rounded tanh of each element. -/
  | vopTanh (i : StreamId) (body : BitVec 114)
  /-- R140: Takes the correctly rounded erf of each element. -/
  | vopErf (i : StreamId) (body : BitVec 114)
  /-- R140: Writes one value, the pairwise sum in index order of all elements. -/
  | rsum (i : StreamId) (body : BitVec 114)
  /-- R140: Writes one value, the pairwise maximumNumber of all elements. -/
  | rmax (i : StreamId) (body : BitVec 114)
  /-- R204: Applies the AdamW update to master weights and rewrites the MXFP8 moments. -/
  | adamw (i : StreamId) (body : BitVec 114)
  /-- R207: Writes the scaled squared gradient plus EPS1 for each element. -/
  | gsq (i : StreamId) (body : BitVec 114)
  /-- R208: Applies an Adafactor-style update to one row segment of master weights. -/
  | afapply (i : StreamId) (body : BitVec 114)
  /-- R136: Sets the value and compensation of every element of a gleaning region to +0. -/
  | glnInit (i : StreamId) (body : BitVec 118)
  /-- R182: Adds a seedbed tile into a gleaning region by the compensated update. -/
  | glnAcc (i : StreamId) (body : BitVec 118)
  /-- R183: Adds one gleaning region into another for tied weights. -/
  | glnAdd (i : StreamId) (body : BitVec 118)
  /-- R184: Writes the final values of a gleaning region to the seedbed, and clears the region if CLEAR is set. -/
  | glnFlush (i : StreamId) (body : BitVec 118)
  /-- R120: Waits until a semaphore reaches its threshold, and subtracts the threshold if DEC is set. -/
  | semw (i : StreamId) (body : BitVec 120)
  /-- R119: Adds its increment to a semaphore once every earlier instruction of its stream has retired. -/
  | sems (i : StreamId) (body : BitVec 120)
  /-- R122: Arrives at a barrier, which releases when the count of arrivals reaches COUNT. -/
  | bar (i : StreamId) (body : BitVec 120)
  /-- R258: Hands a collective descriptor to the field's collective engine. -/
  | col (i : StreamId) (body : BitVec 120) (host : List Byte)
  /-- R143: Adds a chosen value to C of one row and group of a slot at its next drain. -/
  | chkForce (i : StreamId) (body : BitVec 118)
  /-- R143: Writes the failure and skip masks of the slot's last drain to the seedbed. -/
  | chkRead (i : StreamId) (body : BitVec 118)
  /-- R144: Marks the stream as finished with the step and optionally posts a loss to the run watch. -/
  | step (i : StreamId) (body : BitVec 120)
  /-- R144: Ends the launch once every earlier instruction of the launch has retired. -/
  | endStream (i : StreamId) (body : BitVec 120)
  /-- R109: A queued launch starts once the previous END of its stream has retired; it loads the base registers and
  clears the bindings. -/
  | launchStart (i : StreamId)
  /-- R110: A 256 B program fetch returns to the stream buffer, or halts the stream on an uncorrected error. -/
  | streamFetchDone (i : StreamId)
  /-- R148: The field sequencer issues a forward launch once the backward launch it depends on has reached END. -/
  | seqForwardIssue (f : Fin 4)
  /-- R409: A shadow engine finishes repeating a sampled instruction and compares its results bit for bit. -/
  | shadowCompare (f : Fin 4) (i : Nat) (differs : Bool) (m : Meas)
  /-- R355: A write of QM_QDB advances the queue's command count, or puts the queue in ERROR. -/
  | doorbell (u : Fin 64) (q : Fin 8192) (v : Word32)
  /-- R359: The queue manager takes the next command at the head of a queue and makes its start checks. -/
  | commandStart (q : Fin 8192) (ring : Option (BitVec 512))
  /-- R359: Writes a ready completion once every earlier completion of its queue has been written. -/
  | completionWrite (q : Fin 8192) (ok : Bool)
  /-- R361: Completes OK once started. -/
  | nop (q : Fin 8192)
  /-- R363: Starts the launches named by per-field launch tables. -/
  | launch (q : Fin 8192)
  /-- R363: Starts the field sequencer on per-field sequencer run descriptors. -/
  | seqrun (q : Fin 8192)
  /-- R364: Copies bytes between host and device memory on a copy engine. -/
  | copy (q : Fin 8192)
  /-- R364: Fills device or host memory with a repeated 32-bit pattern. -/
  | fill (q : Fin 8192)
  /-- R364: A copy or fill finishes, or fails with UNCORRECTED. -/
  | copyDone (i : Fin 4) (host : List Byte) (ok : Bool)
  /-- R365: Starts a collective operation from a queue command. -/
  | coll (q : Fin 8192) (host : List Byte)
  /-- R292: Makes a step current, latches the per-step quantities and resets the per-step state. -/
  | begin (q : Fin 8192) (rings : Rings)
  /-- R296: Toggles every own region of the context, folds the loss and writes the step's completions. -/
  | commit (q : Fin 8192)
  /-- R297: Stops the step, discards its work and completes its commands ABORTED. -/
  | abort (q : Fin 8192) (rings : Rings)
  /-- R298: Toggles the regions back to the previous commit and restores the loss statistics. -/
  | rollback (q : Fin 8192)
  /-- R299: Takes fully written fallow windows as committed state of step N from RESET. -/
  | adopt (q : Fin 8192)
  /-- R295: The device finds every READY condition of the current step met, and the context becomes READY. -/
  | stepReady (c : Fin 64) (rings : Rings)
  /-- R378: Sets the field mask of a context at a step boundary. -/
  | lend (q : Fin 8192)
  /-- R81: Replaces a logical furrow's physical furrow with a spare. -/
  | remap (q : Fin 8192) (m : Meas)
  /-- R423: Fences and gates a physical furrow and shows it as retired. -/
  | retire (q : Fin 8192) (m : Meas)
  /-- R442: Fences, drains and clears a context and puts it in RESET. -/
  | resetCtx (q : Fin 8192) (rings : Rings)
  /-- R443: Fences, drains, clears and restarts a field. -/
  | resetField (q : Fin 8192) (rings : Rings) (m : Meas)
  /-- R445: Clears a port, ends its fence and leaves it DISABLED. -/
  | resetPort (q : Fin 8192)
  /-- R427: A quorum-signed body fences every port and marks the device expelled. -/
  | expel (q : Fin 8192) (host : Option (List Byte)) (sigs : List Verified) (m : Meas)
  /-- R427: A quorum-signed body clears the expelled mark. -/
  | rejoin (q : Fin 8192) (host : Option (List Byte)) (sigs : List Verified) (m : Meas)
  /-- R506: A quorum-signed body replaces the manager key table in flash. -/
  | managerKeys (q : Fin 8192) (host : Option (List Byte)) (sigs : List Verified) (flashOk : Bool) (m : Meas)
  /-- R325: Queues a new sequence, which the next BEGIN takes for admission. -/
  | join (q : Fin 8192)
  /-- R326: Ends a live sequence or a queued join, at once at a boundary or through the next BEGIN. -/
  | leave (q : Fin 8192)
  /-- R334: Starts a weight swap, sets the target epoch and closes or prepares the entry barrier. -/
  | swapClose (q : Fin 8192)
  /-- R335: Sows one layer of new weights under the target epoch. -/
  | swapLayer (q : Fin 8192) (host : List Byte)
  /-- R336: Opens the entry barrier, and advances the epoch or cancels the swap. -/
  | swapOpen (q : Fin 8192)
  /-- R276: A COLL packet arrives at its engine, is checked and feeds the canonical tree of its operation. -/
  | collPacket (p : Fin 12) (vc : Fin 2)
  /-- R273: A SOW chunk arrives and is stored in place and forwarded cut-through down its stripe. -/
  | sowPacket (p : Fin 12) (vc : Fin 2)
  /-- R239: A WRITE packet arrives and its bytes are stored in the destination context's partition. -/
  | writePacket (p : Fin 12) (vc : Fin 2)
  /-- R262: A collective operation ends; the engine writes its status and counters and signals or completes. -/
  | collectiveEnd (f : Fin 4) (c : Fin 64) (opid : BitVec 32)
  /-- R281: An operation not complete COL_CTRL.TIMEOUT after acceptance fails with TIMEOUT. -/
  | collectiveTimeout (f : Fin 4) (c : Fin 64) (opid : BitVec 32)
  /-- R272: Once this member has sent all it owes for an operation, the engine accepts the NEXT descriptor as a
  prefetch. -/
  | nextPrefetch (f : Fin 4) (c : Fin 64) (opid : BitVec 32) (host : List Byte)
  /-- R280: A MIRROR data packet is applied to the mirror's fallow copy, or discarded as stale. -/
  | mirrorData (p : Fin 12) (vc : Fin 2)
  /-- R308: A mirror BEGIN sets the kept step and run, and flips an undrained-but-drained previous step when implied. -/
  | mirrorBegin (p : Fin 12) (vc : Fin 2)
  /-- R280: The partner receives END and answers with ACK once every applied write is visible. -/
  | mirrorEnd (p : Fin 12) (vc : Fin 2)
  /-- R280: The source receives ACK and marks the region's mirror drained or failed by its count. -/
  | mirrorAck (p : Fin 12) (vc : Fin 2)
  /-- R280: No ACK arrives within COL_CTRL.TIMEOUT after END; the mirror fails and withholds READY. -/
  | mirrorTimeout (i : Fin 4096)
  /-- R303: A READY token from a child is checked and accepted; it may complete the subtree and trigger an automatic
  commit. -/
  | tokenReady (p : Fin 12) (vc : Fin 2)
  /-- R303: A COMMIT token from the parent commits the member and propagates down its subtree. -/
  | tokenCommit (p : Fin 12) (vc : Fin 2)
  /-- R297: An ABORT token from the parent aborts the step and is forwarded to the children. -/
  | tokenAbort (p : Fin 12) (vc : Fin 2) (rings : Rings)
  /-- R308: A MIRROR_COMMIT token flips the drained mirror regions of its source context. -/
  | tokenMirrorCommit (p : Fin 12) (vc : Fin 2)
  /-- R308: A MIRROR_ROLLBACK token toggles the mirror regions back. -/
  | tokenMirrorRollback (p : Fin 12) (vc : Fin 2)
  /-- R244: Routes a packet header to local delivery or an output port, or drops it. -/
  | packetRoute (p : Fin 8) (ns : Nat)
  /-- R241: An ABORT slot following a truncated packet discards that packet at the destination and is counted. -/
  | abortSlot (p : Fin 8) (ns : Nat)
  /-- R231: Receives a DATA flit, checks it, applies its ACK and credits, and adds its slots to the slot stream. -/
  | dataFlit (p : Fin 8) (x : FlitIn)
  /-- R228: Receives an IDLE flit, which carries only its ACK. -/
  | idleFlit (p : Fin 8) (x : FlitIn)
  /-- R232: A received NAK makes the transmitter resend every buffered flit after its ACK. -/
  | nak (p : Fin 8) (x : FlitIn)
  /-- R254: A KEYON flit's countdown fixes the flit at which decryption starts. -/
  | keyon (p : Fin 8) (x : FlitIn)
  /-- R232: The expected flit has not arrived 4 µs after a NAK, so another NAK is sent. -/
  | nakResendTimeout (p : Fin 8)
  /-- R253: At each non-zero multiple of 2^30 flit slots, each direction replaces its link key. -/
  | keyRatchet (p : Fin 8) (tx : Bool)
  /-- R224: The partner's lanes lose signal or lock and the port enters RETRAIN. -/
  | laneSignalLoss (p : Fin 8)
  /-- R222: The partner's signal appears on every lane in DETECT and the port enters TRAIN. -/
  | detectSignal (p : Fin 8)
  /-- R220: Equalisation completes and the port enters ALIGN. -/
  | trainComplete (p : Fin 8)
  /-- R220: Deskew, lane selection, FEC lock and delay measurement complete and the port enters IDENT. -/
  | alignComplete (p : Fin 8) (pass inv : BitVec 16) (rev : Bool) (delay : BitVec 16)
  /-- R222: A training state exceeds its time limit and the port goes to FAILED. -/
  | portStateTimeout (p : Fin 8)
  /-- R223: Receives the partner's IDENT, checks it and sets the replay position and credits. -/
  | ident (p : Fin 8) (kex1 : List Byte)
  /-- R251: Receives a key-exchange message, verifies it and derives the link keys. -/
  | kexMessage (p : Fin 8) (ok : Bool) (root key reply : List Byte)
  /-- R250: Every 100 µs an ACTIVE port sends a heartbeat packet. -/
  | hbSend (p : Fin 8)
  /-- R250: Stores the received heartbeat number and clears HB_LOST. -/
  | hbReceive (p : Fin 8)
  /-- R250: No heartbeat has arrived for HB_MISS intervals, so the port sets HB_LOST. -/
  | heartbeatLoss (p : Fin 8)
  /-- R504: A MGMT packet fragment of a signed object is reassembled and the object is checked. -/
  | mgmtPacket (p : Fin 12) (vc : Fin 2) (sigs : List Verified) (flashOk : Bool) (m : Meas)
  /-- R504: An object that has received no fragment for 10 ms is discarded. -/
  | mgmtReassemblyTimeout (i : Fin 4)
  /-- R157: A write of FLD_GRANg assigns or frees a granule, or is refused. -/
  | granuleWrite (u : Fin 64) (f : Fin 4) (g : Fin 480) (v : Word32)
  /-- R158: The last codeword of a newly assigned granule is written and CLEARING clears. -/
  | granuleClearDone (f : Fin 4) (m : Fin 5)
  /-- R170: A write of FLD_SHEAFc sets a context's sheaf share, or is refused. -/
  | sheafShareWrite (u : Fin 64) (f : Fin 4) (c : Fin 64) (v : Word32)
  /-- R175: A write of CTX_MEM sets encryption and layout, or is refused. -/
  | ctxMemWrite (u c : Fin 64) (v : Word32)
  /-- R163: Serves a codeword read, correcting a single symbol with write-back or delivering zeros on an uncorrectable
  codeword. -/
  | hbmRead (w : Reader) (a : BitVec 41) (x : Found) (onDie : Bool)
  /-- R165: Merges a partial codeword write by read-modify-write. -/
  | hbmPartialWrite (w : Reader) (a : BitVec 41) (bs : List Byte) (x : Found) (onDie : Bool)
  /-- R166: The scrubber reads the next codeword in its period and writes back or reports it. -/
  | scrubRead (f : Fin 4) (m : Fin 5) (x : Found) (onDie : Bool)
  /-- R375: A write of CTX_BINDc.VALID 1 creates the context and applies a context reset. -/
  | contextCreate (u c : Fin 64) (v : Word32)
  /-- R375: A write of CTX_BINDc.VALID 0 destroys an idle context that owns nothing. -/
  | contextDestroy (u c : Fin 64) (v : Word32)
  /-- R377: A write of FLD_SBQf, FLD_ACQf or FLD_GLQf sets an on-chip quota, or is refused. -/
  | quotaWrite (u c : Fin 64) (f : Fin 4) (k : Quota) (v : Word32)
  /-- R288: A write of CMT_RCTL.VALID 1 validates a commit region, or is refused. -/
  | regionValidate (u : Fin 64) (v : Word32)
  /-- R288: A write of CMT_RCTL.VALID 0 removes a commit region, or is refused. -/
  | regionInvalidate (u : Fin 64) (v : Word32)
  /-- R357: A write of QM_QCFG.EN 1 resets the queue's counters and makes the queue ACTIVE. -/
  | queueEnable (u : Fin 64) (q : Fin 8192) (v : Word32)
  /-- R357: A write of QM_QCFG.EN 0 disables an idle or errored queue, or is refused. -/
  | queueDisable (u : Fin 64) (q : Fin 8192) (v : Word32)
  /-- R353: A write of QM_QBIND binds a queue to a function, context and class, or is refused. -/
  | queueBind (u : Fin 64) (v : Word32)
  /-- R499: SEC_KCMD.LOAD loads a memory-encryption key slot, or is refused. -/
  | keyLoad (u : Fin 64) (v : Word32)
  /-- R499: SEC_KCMD.CLEAR empties a memory-encryption key slot, or is refused. -/
  | keyClear (u : Fin 64) (v : Word32)
  /-- R497: Checks the staged header and erases the header sector to begin a firmware update. -/
  | updateBegin (u : Fin 64) (v : Word32) (sigs : List Verified) (flashOk : Bool)
  /-- R497: Programs one part of the firmware body into flash. -/
  | updateData (u : Fin 64) (v : Word32)
  /-- R497: Checks the body, writes the header and marker, and completes the update. -/
  | updateFinish (u : Fin 64) (v : Word32) (flashOk : Bool)
  /-- R497: Ends the update session. -/
  | updateCancel (u : Fin 64) (v : Word32)
  /-- R494: Burns the security version counter and revocation fuses of the running image. -/
  | svnCommit (u : Fin 64) (v : Word32)
  /-- R494: A fuse burn completes or fails. -/
  | fuseBurnDone (ok : Bool)
  /-- R501: Checks a debug token and, if it is accepted, unlocks JTAG and clears every key slot. -/
  | debugToken (u : Fin 64) (v : Word32) (sigs : List Verified)
  /-- R390: A write of ERR_FORCE injects one forced event of a source. -/
  | errorForce (u : Fin 64) (a : BitVec 27) (v : Word32)
  /-- R393: FCOL_WTEST.GO holds one pair at equal readings for three ticks to test WIRE detection. -/
  | wireTest (u : Fin 64) (v : Word32)
  /-- R412: Starts a harrow run in a field, or refuses it. -/
  | harrowGo (u : Fin 64) (f : Fin 4) (v : Word32) (m : Meas)
  /-- R416: Ends a harrow run with STATE 4. -/
  | harrowStop (u : Fin 64) (f : Fin 4) (v : Word32) (m : Meas)
  /-- R414: Runs one tile on both furrows in self-check mode, compares them and attributes a mismatch. -/
  | harrowTile (f : Fin 4) (m : Meas) (differs eqA eqB : Bool)
  /-- R415: No tile has been compared TWAIT seconds after GO, so the run ends with STATE 6. -/
  | harrowTimeout (f : Fin 4) (m : Meas)
  /-- R429: A write of ALM_RSEL reads one almanac entry into ALM_RDATA. -/
  | almanacRead (u : Fin 64) (v : Word32) (got : Option (List Byte))
  /-- R421: A write of ALM_QSEL computes the classification of a page and bit. -/
  | almanacClassify (u : Fin 64) (v : Word32)
  /-- R422: Writes a staged almanac entry to flash, retrying once on failure. -/
  | almanacFlashWrite (ok : Bool)
  /-- R455: A write of PWR_ALLOT sets the allotment and recomputes the unfrozen ceilings. -/
  | allotWrite (u : Fin 64) (v : Word32)
  /-- R462: A write of PWR_PLAN_CAP sets the cap of a forecast minute, or is refused. -/
  | planCapWrite (u : Fin 64) (v : Word32)
  /-- R463: A write of PWR_FC_ALIGN moves the minute grid and merges the ceilings and caps. -/
  | fcAlignWrite (u : Fin 64) (v : Word32)
  /-- R464: A read of PWR_FC_MIN latches the eight ceilings and PWR_FC_LEFT. -/
  | forecastLatch (u : Fin 64)
  /-- R382: A read of CTX_IF_SEQc latches the window's slowdown and counts for the reading function. -/
  | interferenceLatch (u c : Fin 64)
  /-- R13: A read of the low word of a 64-bit quantity latches the high word for the same function. -/
  | lowWordRead (u : Fin 64) (off : BitVec 27) (log : Fin 4)
  /-- R14: Stages a low-word write of a 64-bit quantity for the writing function. -/
  | lowWordWrite (u : Fin 64) (off : BitVec 27) (v : Word32)
  /-- R14: Commits the staged low word and the written high word together. -/
  | highWordWrite (u : Fin 64) (off : BitVec 27) (v : Word32)
  /-- R245: A write of MBL_RT_HIj commits a routing-table entry. -/
  | routeEntryCommit (u j : Fin 64) (v : Word32)
  /-- R15: A read of an RC field returns its value and clears it. -/
  | rcRead (u : Fin 64) (off : BitVec 27) (log : Fin 4)
  /-- R12: Discards a write that is not an aligned 32-bit write and sets the access-error status. -/
  | misalignedWrite (u : Fin 64) (off : BitVec 27)
  /-- R15: A register write with no behaviour of its own applies the access codes and the reserved-encoding rules. -/
  | registerWrite (u : Fin 64) (off : BitVec 27) (v : Word32)
  /-- R222: A write of MBL_CTRL.EN lets a DISABLED port begin DETECT, or disables a FAILED port. -/
  | portEnableWrite (u : Fin 64) (p : Fin 8) (v : Word32)
  /-- R224: A write of 1 to MBL_CTRL.RETRAIN sends an ACTIVE port to RETRAIN or a FAILED port to DETECT. -/
  | portRetrainWrite (u : Fin 64) (p : Fin 8) (v : Word32)
  /-- R243: A write of MBL_DEVID sets the device ID, or is refused while a port is up. -/
  | devidWrite (u : Fin 64) (v : Word32)
  /-- R234: A write of MBL_RXALLOCc sets receive allocations, or is refused. -/
  | rxallocWrite (u : Fin 64) (p : Fin 8) (c : Fin 4) (v : Word32)
  /-- R481: A write of CLK_GATE forces clocks off or on, or is refused. -/
  | clkGateWrite (u : Fin 64) (a : BitVec 27) (v : Word32)
  /-- R482: A write of CLK_OUT changes spread or enable at the next point where the frequency is 100 MHz. -/
  | clkOutWrite (u : Fin 64) (v : Word32)
  /-- R382: A write of CTX_IF_CTRLc ends the current interference window without a report. -/
  | ifCtrlWrite (u c : Fin 64) (v : Word32)
  /-- R339: A write of SRV_CTRL, SRV_LIMITS, the table addresses or the pool registers, or its refusal. -/
  | servingConfigWrite (u c : Fin 64) (o : BitVec 12) (v : Word32)
  /-- R346: Reads device memory through BAR2 under the partition, encryption and window rules. -/
  | bar2Read (u : Fin 64) (off : BitVec 41) (n : Fin 4097)
  /-- R346: Writes device memory through BAR2 under the partition, encryption and window rules. -/
  | bar2Write (u : Fin 64) (off : BitVec 41) (bs : List Byte)
  /-- R344: A Function Level Reset of a virtual function disables its queues and resets its contexts. -/
  | functionLevelReset (u : Fin 64)
  /-- R525: PERST_N low, a physical-function FLR or the loss of PWR_GOOD holds the device in reset. -/
  | deviceReset (why : ResetCause)
  /-- R492: Release of reset with PWR_GOOD asserted starts the boot sequence. -/
  | bootStart (slot : BitVec 5)
  /-- R491: Verifies the firmware image at stage 3 and continues to INIT or enters RECOVERY. -/
  | bootVerify (sigs : List Verified) (flashOk : Bool)
  /-- R518: Stage 5 is reached; the I3C endpoint raises its in-band reset interrupt. -/
  | bootReady
  /-- R534: A steading or standby rail leaves regulation, or the converter stops, so PWR_GOOD deasserts. -/
  | powerLoss (why : LossCause)
  /-- R534: A field or HBM rail fails while the input is in range, so the device enters the device-fatal state. -/
  | regulatorFailure
  /-- R458: Assertion of PWR_BRAKE_N drives issue duty to 0 until the draw falls to 600 W. -/
  | pwrBrakeAssert
  /-- R458: Release of PWR_BRAKE_N returns E to R456. -/
  | pwrBrakeRelease
  /-- R342: The host port trains to the widest width and highest speed both ends support. -/
  | hostLinkTrain (speed : Fin 6) (w : LinkWidth) (flit : Bool)
  /-- R351: The host unmasks a vector and the device sends the pending message. -/
  | msixUnmask (u : Fin 64) (vec : Fin 2048)
  /-- R454: Forms the 1 ms mean input power and tests the 1 s and 20 ms windows and the input voltage. -/
  | powerSample (x : PowerIn)
  /-- R466: Every 10 µs compares the expected draw with E and lowers or restores clock level and duty. -/
  | throttleEval (draw : BitVec 16) (k : Fin 40)
  /-- R477: Each microsecond moves a field's arithmetic clock one level towards its target. -/
  | clockLevelStep (f : Fin 4)
  /-- R461: At a forecast minute boundary the forecast shifts, a minute freezes and a new minute enters. -/
  | minuteBoundary
  /-- R468: A field or stack reaches its trip temperature; the device applies the thermal brake and asserts
  THERM_TRIP_N. -/
  | thermalTrip (d : Fin 24) (t : BitVec 8)
  /-- R468: A tripped die cools to its release temperature and the trip ends. -/
  | thermalTripEnd (d : Fin 24) (t : BitVec 8)
  /-- R538: An analog sensor crosses its threshold and asserts or releases THERM_TRIP_N. -/
  | analogTrip (d : Fin 24) (on : Bool)
  /-- R451: An array idle for 64 clocks is clock-gated. -/
  | arraySleep (f : Fin 4) (n : Fin 26) (j : Fin 4)
  /-- R451: A furrow idle for FUR_US is power-gated with its stores in retention. -/
  | furrowSleep (f : Fin 4) (n : Fin 26)
  /-- R451: An idle field turns off its logic and PLLs and puts its stacks in self-refresh. -/
  | fieldSleep (f : Fin 4)
  /-- R452: A request wakes a sleeping furrow, which becomes awake within 4 µs. -/
  | furrowWake (f : Fin 4) (n : Fin 26)
  /-- R452: A request wakes a sleeping field; its PLLs lock and its stacks leave self-refresh. -/
  | fieldWake (f : Fin 4) (failing : List (Fin 5)) (rings : Rings)
  /-- R478: A REFCLK monitor window ends and passes or fails. -/
  | monitorWindow (n : BitVec 16) (ao osc : BitVec 15)
  /-- R475: A PLL judgement window ends and moves the PLL towards LOCKED or LOST. -/
  | pllWindow (i : Fin 18) (n meter : BitVec 15)
  /-- R475: A PLL not locked within 1 ms of its start goes LOST. -/
  | pllLockTimeout (i : Fin 18)
  /-- R398: Samples every dual-rail pair each tick, logs new events and WIREs, and enters FAULTED. -/
  | collectorTick (faulty : List (Nat × Nat)) (l : List (Nat × Meas)) (finds : List ChipFind)
  /-- R398: qtime reaches the quiet period and the collector returns to NORMAL. -/
  | quietPeriodExpiry
  /-- R434: A stream issues nothing for its limit; it is fenced and logged. -/
  | streamWatchdog (x : StreamId)
  /-- R434: A queue's head waits or a started command runs past the limit; the queue is fenced and logged. -/
  | queueWatchdog (q : Fin 8192)
  /-- R434: A DMA engine moves no byte for its limit; it is fenced and logged. -/
  | dmaWatchdog (f : Fin 4) (e : Fin 8)
  /-- R434: A port's packet waits past the limit; the port is fenced and logged. -/
  | portWatchdog (p : Fin 8) (who : Option (Fin 64))
  /-- R435: A draining domain has nothing outstanding and enters the fenced phase. -/
  | fenceDrained (d : Dom)
  /-- R435: The drain time passes and the device abandons the outstanding requests with TIMEOUT. -/
  | fenceDrainTimeout (d : Dom)
  /-- R382: An interference window ends, and the device stores its counts and the slowdown. -/
  | interferenceWindowEnd (c : Fin 64) (w : WinCounts)
  /-- R383: A 1 ms window ends and the per-unit slowdown ratios are updated. -/
  | slowdownWindowEnd (l : List (Nat × Nat))
  /-- R500: Handles one message of the IDE key exchange through DOE. -/
  | ideKeyMessage (req : List Byte)
  /-- R496: Answers a DOE attestation request with a signed report or the certificate chain. -/
  | doeAttest (req : DoeRequest)
  /-- R514: Returns the module status over management. -/
  | getStatus (head : BitVec 32) (p : List Byte)
  /-- R515: Writes the allotment over management. -/
  | setAllot (head : BitVec 32) (p : List Byte)
  /-- R515: Returns the eight ceilings from one latch over management. -/
  | getForecast (head : BitVec 32) (p : List Byte)
  /-- R515: Writes a plan cap for a named minute over management. -/
  | setPlanCap (head : BitVec 32) (p : List Byte)
  /-- R515: Writes the forecast grid offset over management. -/
  | setAlign (head : BitVec 32) (p : List Byte)
  /-- R516: Returns up to 8 fault-log entries from a sequence number. -/
  | readFaultlog (head : BitVec 32) (p : List Byte)
  /-- R516: Returns one almanac entry over management. -/
  | readAlmanac (head : BitVec 32) (p : List Byte) (got : Option (List Byte)) (busy : Bool)
  /-- R516: Returns the classification of a page and bit over management. -/
  | classify (head : BitVec 32) (p : List Byte) (busy : Bool)
  /-- R514: Returns an attestation report or chain over management. -/
  | attest (head : BitVec 32) (p : List Byte)
  /-- R516: Checks and applies a whole signed object received over management. -/
  | signedObject (head : BitVec 32) (p : List Byte) (sigs : List Verified) (flashOk : Bool) (m : Meas)
  /-- R517: Sets or cancels the event subscription of a binding. -/
  | subscribe (b : Fin 2) (head : BitVec 32) (p : List Byte)
  /-- R508: Answers an MCTP control message such as Set Endpoint ID. -/
  | mctpControl (b : Fin 2) (r : MctpReq)
  /-- R511: Answers a PLDM base or monitoring command such as GetSensorReading. -/
  | pldmMonitor (r : PldmReq)
  /-- R512: Opens a PLDM firmware-update session, or refuses it. -/
  | requestUpdate (b : Fin 2) (src : BitVec 8) (size : BitVec 32)
  /-- R512: Starts the management-owned update session, requesting the header and body in pieces. -/
  | updateComponent (cls id : BitVec 16)
  /-- R512: Cancels the PLDM update session. -/
  | cancelUpdate
  /-- R512: Answers with a pending device reset. -/
  | activateFirmware
  /-- R73: A vector or element-wise operation finishes its last element and retires, freeing its array or vector unit
  and its footprint. -/
  | vopRetire (f : Fin 4) (n : Fin 26) (unit : Fin 8)
  /-- R136: A gleaning-buffer operation finishes its region at 64 elements per clock and retires. -/
  | glnRetire (f : Fin 4) (n : Fin 26)
  /-- R124: An instruction word whose opcode, or whose VOP operation code, names no instruction reaches issue and halts
  its stream with cause 1 or 3. -/
  | unknownOpcode (i : StreamId) (w : InstrWord)
  /-- R237: At each flit slot an ACTIVE port sends the next DATA, IDLE, NAK or resent flit, filling it with slots of
  packets granted by R236 within their credits. -/
  | flitSlotTransmit (p : Fin 8)
  /-- R348: A received host-link TLP fails its IDE integrity check, raising the link-security source and AER. -/
  | ideIntegrityFailure
  /-- R533: VIN_52 rises through 42 V, or is held in range for 100 ms after an overvoltage stop, and the converter
  starts, bringing up the standby rail, sensors and PWR_GOOD. -/
  | converterStart
  /-- R468: A field or stack junction crosses its control-onset or over-limit temperature, beginning or ending thermal
  control and raising or releasing its over-limit source. -/
  | thermalControl (d : Fin 24) (t : BitVec 8) (lvl : Fin 33) (tin tout : BitVec 8)
  /-- R394: The steading control processor's watchdog expires, raising a device-fatal source. -/
  | controlProcessorWatchdog
  /-- R344: A host write to PCI Express configuration space enables virtual functions through SR-IOV, resizes BAR2 or
  programs MSI-X. -/
  | configurationWrite (w : ConfigWrite)
  /-- R509: The I3C bus owner assigns the endpoint a dynamic address by SETDASA or ENTDAA. -/
  | dynamicAddressAssign (how : I3cAssign) (a : BitVec 7)
  /-- R517: A subscriber's response to an event message arrives and reduces the count of unanswered events on its
  binding. -/
  | eventAnswer (b : Fin 2)
  /-- R512: The update agent's response carrying a requested piece of the header or body arrives and is written as BEGIN
  or DATA of the management-owned session. -/
  | firmwareDataResponse (d : List Byte) (sigs : List Verified) (flashOk : Bool)
  /-- R497: Flash programming of an update part finishes and the session state returns from busy to receiving. -/
  | flashProgramDone (flashOk : Bool)
  /-- R529: Activity on TCK, TMS, TDI or TRST_N drives the test access port, which answers only IDCODE and BYPASS until
  a debug token is accepted. -/
  | jtagAccess (op : TapOp)
deriving DecidableEq, Repr

end Sys2Proof
end

