-- ==== Sys2Proof/Config.lean ====
section
/-! DEFINITION. What the module's implementation fixes and the manual leaves open. Each constant is opaque: nothing
can evaluate it, so a statement that mentions it holds whatever its value is. -/

namespace Sys2Proof

/-- FREE VALUE (log 3): a byte of memory whose contents the manual calls undefined, by the event that made it undefined
(an index drawn from `State.freeCtr`) and its address (R161, R168, R185, R193, R377). -/
opaque Config.freeByte : Nat → Nat → Byte

/-- FREE VALUE (log 3): a 32-bit word the manual calls undefined, such as an accumulator or checksum word after ABORT
(R297), or does not fix: a verdict that no operand brings (log 45), a register that counts clocks (log 84). -/
opaque Config.freeWord : Nat → Nat → Word32

/-- FREE VALUE (log 88): vendor ID (two bytes) and object type of the two vendor objects of the DOE mailbox (R349). -/
opaque Config.doeType : Nat → BitVec 24

/-- FREE VALUE (log 4): output bytes of a cryptographic or random operation whose algorithm stands outside the manual
(ML-DSA, ML-KEM, KMAC, hashes, random draws): by operation tag, inputs and length. -/
opaque Config.crypto : Nat → List Byte → Nat → List Byte

end Sys2Proof
end

