-- ==== Sys2Proof/Machine/Store.lean ====
section
/-! DEFINITION. Sparse tables in one canonical form (keys strictly rising), and byte memories built on them. -/

namespace Sys2Proof.Machine

/-- A sparse table: key and value pairs, keys strictly rising. -/
abbrev Store (α : Type) := List (Nat × α)

/-- The value of key `k`. -/
def sget? {α : Type} : Store α → Nat → Option α
  | [], _ => none
  | (j, a) :: t, k => if j = k then some a else sget? t k

/-- Key `k` set to `a`. -/
def sput {α : Type} : Store α → Nat → α → Store α
  | [], k, a => [(k, a)]
  | (j, b) :: t, k, a =>
    if k < j then (k, a) :: (j, b) :: t
    else if k = j then (k, a) :: t
    else (j, b) :: sput t k a

/-- Key `k` removed. -/
def sdel {α : Type} : Store α → Nat → Store α
  | [], _ => []
  | (j, b) :: t, k => if j = k then t else (j, b) :: sdel t k

/-- The value of key `k`, `d` where unlisted. -/
def sgetD {α : Type} (t : Store α) (k : Nat) (d : α) : α := (sget? t k).getD d

/-- Key `k` set to `a`; the entry is removed when `a` is the value `d` of an unlisted key. -/
def sputD {α : Type} [DecidableEq α] (t : Store α) (k : Nat) (a d : α) : Store α :=
  if a = d then sdel t k else sput t k a

/-- Keys in `lo ≤ k < hi` removed. -/
def sclear {α : Type} (t : Store α) (lo hi : Nat) : Store α := t.filter fun e => e.1 < lo || hi ≤ e.1

/-- The entries with `lo ≤ k < hi`. -/
def srange {α : Type} (t : Store α) (lo hi : Nat) : Store α := t.filter fun e => lo ≤ e.1 && e.1 < hi

/-- The canonical form: keys strictly rising. -/
abbrev Store.Sorted {α : Type} (t : Store α) : Prop := List.Pairwise (fun a b => a.1 < b.1) t

/-- A byte memory. `cells` lists written bytes; `base` marks by number the units whose unlisted bytes the manual calls
undefined, with the event that made them so (log 3). The unlisted bytes of any other unit read 0 (R440). -/
structure Memory where
  cells : List Host.Cell := []
  base : Store Nat := []
deriving DecidableEq, Repr

/-- The event that left unit `u` undefined; none where its unlisted bytes read 0. -/
def Memory.undef (m : Memory) (u : Nat) : Option Nat := sget? m.base u

/-- What an unlisted byte reads as; `unit` is the size of the units that become undefined together. -/
def Memory.unlisted (unit : Nat) (m : Memory) (a : Nat) : Byte :=
  match m.undef (a / unit) with
  | none => 0
  | some i => Config.freeByte i a

/-- One byte read. -/
def Memory.read (unit : Nat) (m : Memory) (a : Nat) : Byte :=
  match sget? m.cells a with
  | some b => b
  | none => m.unlisted unit a

/-- One byte written. A zero in a unit that is not undefined is kept unlisted. -/
def Memory.write (unit : Nat) (m : Memory) (a : Nat) (b : Byte) : Memory :=
  if b = 0 ∧ m.undef (a / unit) = none then { m with cells := sdel m.cells a }
  else { m with cells := sput m.cells a b }

/-- `n` bytes read from `a` up. -/
def Memory.readN (unit : Nat) (m : Memory) (a n : Nat) : List Byte :=
  (List.range n).map fun i => m.read unit (a + i)

/-- Bytes written from `a` up. -/
def Memory.writeN (unit : Nat) : Memory → Nat → List Byte → Memory
  | m, _, [] => m
  | m, a, b :: t => Memory.writeN unit (m.write unit a b) (a + 1) t

/-- Marks `n` units from `lo` with `i`. -/
def markUnits (i : Nat) : Nat → Nat → Store Nat → Store Nat
  | 0, _, b => b
  | n + 1, lo, b => markUnits i n (lo + 1) (sput b lo i)

/-- Units `lo ≤ u < hi` cleared to zero. -/
def Memory.clearUnits (unit : Nat) (m : Memory) (lo hi : Nat) : Memory :=
  { m with cells := sclear m.cells (lo * unit) (hi * unit), base := sclear m.base lo hi }

/-- Units `lo ≤ u < hi` become undefined by event `i` (log 3). -/
def Memory.undefUnits (unit : Nat) (m : Memory) (lo hi i : Nat) : Memory :=
  { m with
    cells := sclear m.cells (lo * unit) (hi * unit)
    base := markUnits i (hi - lo) lo (sclear m.base lo hi) }

/-- The canonical form of a byte memory: addresses strictly rising, units strictly rising, and no listed zero outside an
undefined unit. -/
abbrev Memory.wf (unit : Nat) (m : Memory) : Prop :=
  Store.Sorted m.cells ∧ Store.Sorted m.base ∧
    ∀ c ∈ m.cells, c.2 = 0 → m.undef (c.1 / unit) ≠ none

/-- A little-endian number from bytes (R11). -/
def leNat : List Byte → Nat
  | [] => 0
  | b :: t => b.toNat + 256 * leNat t

/-- The `n` little-endian bytes of a number (R11). -/
def leBytes : Nat → Nat → List Byte
  | 0, _ => []
  | n + 1, x => BitVec.ofNat 8 x :: leBytes n (x / 256)

/-- Bits `[lo + wid − 1 : lo]` of a number. -/
def bitsOf (x lo wid : Nat) : Nat := (x >>> lo) % 2 ^ wid

/-- Bytes `[o, o + n)` of a list, as a little-endian number. -/
def leAt (l : List Byte) (o n : Nat) : Nat := leNat ((l.drop o).take n)

/-- Every byte of `[o, o + n)` is 0. -/
def zeroAt (l : List Byte) (o n : Nat) : Bool := ((l.drop o).take n).all (· == 0)

/-- Ceiling division. -/
def ceilDiv (a b : Nat) : Nat := (a + b - 1) / b

end Sys2Proof.Machine
end

