-- ==== Sys2Proof/Machine/Crypto.lean ====
section
/-! DEFINITION. Cryptographic operations whose algorithm stands outside the manual, with what they are bound to: digests,
signatures and their context strings (R487), key derivation (R253, R495, R500), certificate chains (R252, R495). -/

namespace Sys2Proof.Machine

/-- SHA3-512 (log 4). -/
def sha3 (b : List Byte) : List Byte := Config.crypto 3 b 64

/-- The bytes of an ASCII string. -/
def ascii (x : String) : List Byte := x.toList.map fun c => BitVec.ofNat 8 c.toNat

/-- R253, R495, R500: KMAC256 with a key, data, a length in bytes and a customisation string (log 4). -/
def kmac (key data : List Byte) (n : Nat) (custom : List Byte) : List Byte :=
  Config.crypto 1 (leBytes 8 key.length ++ key ++ leBytes 8 data.length ++ data ++ custom) n

/-- R487: the context string of a firmware image. -/
def ctxFirmware : List Byte := ascii "EKX-FW"
/-- R487: the context string of an attestation report. -/
def ctxAttest : List Byte := ascii "EKX-ATTEST"
/-- R487: the context string of an IDE key offer. -/
def ctxIde : List Byte := ascii "EKX-IDE"
/-- R487: the context string of a debug token. -/
def ctxDebug : List Byte := ascii "EKX-DEBUG"
/-- R487: the context string of a quorum-signed object. -/
def ctxQuorum : List Byte := ascii "EKX-QUORUM"

/-- R487: signature `sig` of `msg` verifies under `key` for the purpose `ctx`: `l` lists the signatures that verify. -/
def verifies (l : List Verified) (ctx key msg sig : List Byte) : Bool := l.contains ⟨ctx, key, sha3 msg, sig⟩

/-- R495: the bytes that `n` certificates take, each a 4-byte length and its DER bytes; `none` where one is missing or
longer than 8 KiB. -/
def chainLen : Nat → List Byte → Option Nat
  | 0, _ => some 0
  | n + 1, b =>
    let m := leAt b 0 4
    if m = 0 ∨ 8192 < m ∨ b.length < 4 + m then none else (chainLen n (b.drop (4 + m))).map (· + 4 + m)

/-- R252, R495: a chain of one to three certificates, in the form of R496 (log 4), whose last certificate verifies under the
root key `root`, one of the two whose hashes the fuses hold; the bytes it takes. -/
def chainValid (roots : List (List Byte)) (root b : List Byte) : Option Nat :=
  if 1 ≤ leAt b 0 4 ∧ leAt b 0 4 ≤ 3 ∧ roots.contains (sha3 root) then (chainLen (leAt b 0 4) (b.drop 4)).map (· + 4) else none

end Sys2Proof.Machine
end

