-- ==== Sys2Proof/Machine/Registers.lean ====
section
/-! DEFINITION. The register map: page bases (R541), every register and field of the register tables, its access code
(R15), reset value and legal encodings (R16). A name `A.REG` is a register's BAR0 offset, `R.REG_FIELD` a field; the
parameters are the page's indices (field f, furrow n, HBM stack m, port p, context c, queue q) and the register's own i. -/

namespace Sys2Proof.Machine

/-- One field of one register: BAR0 offset, lowest bit, width. -/
structure Loc where
  addr : Nat
  lo : Nat
  wid : Nat
deriving DecidableEq, Repr

/-- R15: access codes. -/
inductive Access where
  | ro | rw | w1c | w1s | wo | rc
deriving DecidableEq, Repr

/-- R16: which encodings of a field are not reserved. -/
inductive Legal where
  | any
  | range (lo hi : Nat)
  | zeroOr (lo hi : Nat)
deriving DecidableEq, Repr

/-- The encoding `v` is not reserved. -/
def Legal.ok : Legal → Nat → Bool
  | .any, _ => true
  | .range lo hi, v => lo ≤ v && v ≤ hi
  | .zeroOr lo hi, v => v == 0 || (lo ≤ v && v ≤ hi)

/-- One field of a register table: the offset of its register in the page, the register's stride and count, the field's
bits, access, reset value and legal encodings. -/
structure FieldRow where
  off : Nat
  stride : Nat
  count : Nat
  lo : Nat
  wid : Nat
  acc : Access
  reset : Nat
  legal : Legal
deriving DecidableEq, Repr

/-- The row's register stands at page offset `o`. -/
def FieldRow.covers (r : FieldRow) (o : Nat) : Bool :=
  if r.stride = 0 then o == r.off
  else r.off ≤ o && (o - r.off) % r.stride == 0 && (o - r.off) / r.stride < r.count

/-! ### Page bases (R541) -/

def Page.steadingBase : Nat := 0
def Page.hostifBase : Nat := 0x10000
def Page.qmBase : Nat := 0x11000
def Page.collectorBase : Nat := 0x20000
def Page.almanacBase : Nat := 0x30000
def Page.hangBase : Nat := 0x40000
def Page.powerBase : Nat := 0x50000
def Page.clockBase : Nat := 0x58000
def Page.securityBase : Nat := 0x5C000
def Page.mgmtBase : Nat := 0x5E000
def Page.fabricBase : Nat := 0x60000
def Page.commitBase : Nat := 0x70000
def Page.servingBase (c : Nat) : Nat := 0x80000 + c * 0x1000
def Page.contextBase (c : Nat) : Nat := 0xC0000 + c * 0x1000
/-- R4: the register base of field f. -/
def Page.fieldBase (f : Nat) : Nat := 0x1000000 * (f + 1)
def Page.hbmBase (f m : Nat) : Nat := Page.fieldBase f + 0x20000 + m * 0x1000
def Page.fieldmemBase (f : Nat) : Nat := Page.fieldBase f + 0x28000
/-- Port p = 2f + i (R4). -/
def Page.portBase (p : Nat) : Nat := Page.fieldBase (p / 2) + 0x30000 + (p % 2) * 0x1000
def Page.collengBase (f : Nat) : Nat := Page.fieldBase f + 0x40000
def Page.furrowBase (f n : Nat) : Nat := Page.fieldBase f + 0x100000 + n * 0x10000
def Page.doorbellBase (q : Nat) : Nat := 0x5000000 + q * 0x1000

/-- R541: a page of BAR0. -/
inductive Page where
  | steading | hostif | qm | collector | almanac | hang | power | clock | security | mgmt | fabric | commit
  | serving (c : Nat) | context (c : Nat) | mailbox (i : Nat) | field (f : Nat) | hbm (f m : Nat) | fieldmem (f : Nat)
  | port (p : Nat) | colleng (f : Nat) | furrow (f n : Nat) | doorbell (q : Nat)
deriving DecidableEq, Repr

/-- R541: the page of the page index within field f's range. -/
def fieldPageAt (f i : Nat) : Option Page :=
  if i = 0 then some (.field f)
  else if 0x20 ≤ i ∧ i < 0x25 then some (.hbm f (i - 0x20))
  else if i = 0x28 then some (.fieldmem f)
  else if 0x30 ≤ i ∧ i < 0x32 then some (.port (2 * f + (i - 0x30)))
  else if i = 0x40 then some (.colleng f)
  else if 0x100 ≤ i ∧ i < 0x100 + 26 * 16 ∧ i % 16 = 0 then some (.furrow f ((i - 0x100) / 16))
  else none

/-- R541: the page that a BAR0 offset lies in; `none` where the table has none. -/
def pageAt (a : Nat) : Option Page :=
  let i := a / 0x1000
  if 0x5000 ≤ i ∧ i < 0x7000 then some (.doorbell (i - 0x5000))
  else if 0x1000 ≤ i ∧ i < 0x5000 then fieldPageAt (i / 0x1000 - 1) (i % 0x1000)
  else if 0x80 ≤ i ∧ i < 0xC0 then some (.serving (i - 0x80))
  else if 0xC0 ≤ i ∧ i < 0x100 then some (.context (i - 0xC0))
  else if 0x200 ≤ i ∧ i < 0x210 then some (.mailbox (i - 0x200))
  else match i with
    | 0x0 => some .steading | 0x10 => some .hostif | 0x11 => some .qm | 0x20 => some .collector
    | 0x30 => some .almanac | 0x40 => some .hang | 0x50 => some .power | 0x58 => some .clock
    | 0x5C => some .security | 0x5E => some .mgmt | 0x60 => some .fabric | 0x70 => some .commit
    | _ => none

/-- R541: `BLK_ID` of a page: type and instance; 0 for a page without a common layout. -/
def Page.blkId : Page → Nat
  | .steading => 0x00010000 | .hostif => 0x00020000 | .qm => 0x00030000 | .collector => 0x00040000
  | .almanac => 0x00050000 | .hang => 0x00060000 | .power => 0x00070000 | .clock => 0x00080000
  | .security => 0x00090000 | .mgmt => 0x000A0000 | .fabric => 0x000B0000 | .commit => 0x000C0000
  | .serving c => 0x000D0000 + c | .context c => 0x000E0000 + c
  | .field f => 0x00100000 + f * 256 | .hbm f m => 0x00110000 + f * 256 + m
  | .fieldmem f => 0x00120000 + f * 256 | .port p => 0x00130000 + (p / 2) * 256 + p
  | .colleng f => 0x00140000 + f * 256 | .furrow f n => 0x00150000 + f * 256 + n
  | .mailbox _ => 0 | .doorbell _ => 0

/-- R542: the page has the common layout. -/
def Page.hasCommon : Page → Bool
  | .mailbox _ | .doorbell _ => false
  | _ => true

/-! ### Register offsets and fields -/

/-! ### common -/

/-- `ERR_STAT` (R387). -/
def A.ERR_STAT (pg : Nat) : Nat := pg + 0x10
def R.ERR_STAT_STAT (pg : Nat) : Loc := ⟨A.ERR_STAT pg, 0, 32⟩
/-- `ERR_MASK` (R387). -/
def A.ERR_MASK (pg : Nat) : Nat := pg + 0x14
def R.ERR_MASK_MASK (pg : Nat) : Loc := ⟨A.ERR_MASK pg, 0, 32⟩
/-- `ERR_FORCE` (R387). -/
def A.ERR_FORCE (pg : Nat) : Nat := pg + 0x18
def R.ERR_FORCE_FORCE (pg : Nat) : Loc := ⟨A.ERR_FORCE pg, 0, 32⟩
/-- `ERR_SEV` (R387). -/
def A.ERR_SEV (pg : Nat) : Nat := pg + 0x1c
def R.ERR_SEV_SEV (pg : Nat) : Loc := ⟨A.ERR_SEV pg, 0, 32⟩
/-- `ERR_CNT` (R387). -/
def A.ERR_CNT (pg : Nat) : Nat := pg + 0x20
def R.ERR_CNT_COUNT (pg : Nat) : Loc := ⟨A.ERR_CNT pg, 0, 32⟩
/-- `ERR_FIRST` (R387). -/
def A.ERR_FIRST (pg : Nat) : Nat := pg + 0x24
def R.ERR_FIRST_BIT (pg : Nat) : Loc := ⟨A.ERR_FIRST pg, 0, 5⟩
def R.ERR_FIRST_VALID (pg : Nat) : Loc := ⟨A.ERR_FIRST pg, 31, 1⟩

/-! ### steading -/

/-- `STD_STRAP` (R540). -/
def A.STD_STRAP : Nat := Page.steadingBase + 0x100
def R.STD_STRAP_SLOT_ID : Loc := ⟨A.STD_STRAP, 0, 5⟩
/-- `STD_PINS` (R540). -/
def A.STD_PINS : Nat := Page.steadingBase + 0x104
def R.STD_PINS_BRAKE : Loc := ⟨A.STD_PINS, 0, 1⟩
def R.STD_PINS_ALERT : Loc := ⟨A.STD_PINS, 1, 1⟩
def R.STD_PINS_FAULT : Loc := ⟨A.STD_PINS, 2, 1⟩
def R.STD_PINS_TTRIP : Loc := ⟨A.STD_PINS, 3, 1⟩
def R.STD_PINS_ANALOG : Loc := ⟨A.STD_PINS, 4, 1⟩
/-- `STD_MODID` (R540). -/
def A.STD_MODID : Nat := Page.steadingBase + 0x108
def R.STD_MODID_PRODUCT : Loc := ⟨A.STD_MODID, 0, 16⟩
def R.STD_MODID_STEPPING : Loc := ⟨A.STD_MODID, 16, 8⟩
/-- `STD_TTRIP_CNT` (R540). -/
def A.STD_TTRIP_CNT : Nat := Page.steadingBase + 0x10c
def R.STD_TTRIP_CNT_COUNT : Loc := ⟨A.STD_TTRIP_CNT, 0, 32⟩

/-! ### hostif -/

/-- `HIF_LINK` (R371). -/
def A.HIF_LINK : Nat := Page.hostifBase + 0x100
def R.HIF_LINK_SPEED : Loc := ⟨A.HIF_LINK, 0, 3⟩
def R.HIF_LINK_WIDTH : Loc := ⟨A.HIF_LINK, 3, 5⟩
def R.HIF_LINK_FLIT : Loc := ⟨A.HIF_LINK, 8, 1⟩
def R.HIF_LINK_IDE : Loc := ⟨A.HIF_LINK, 9, 1⟩
/-- `HIF_ACC_CNT` (R371). -/
def A.HIF_ACC_CNT : Nat := Page.hostifBase + 0x110
def R.HIF_ACC_CNT_COUNT : Loc := ⟨A.HIF_ACC_CNT, 0, 32⟩
/-- `HIF_ACC_INFO` (R371). -/
def A.HIF_ACC_INFO : Nat := Page.hostifBase + 0x114
def R.HIF_ACC_INFO_FUNC : Loc := ⟨A.HIF_ACC_INFO, 0, 6⟩
def R.HIF_ACC_INFO_BAR : Loc := ⟨A.HIF_ACC_INFO, 6, 1⟩
def R.HIF_ACC_INFO_WRITE : Loc := ⟨A.HIF_ACC_INFO, 7, 1⟩
def R.HIF_ACC_INFO_KIND : Loc := ⟨A.HIF_ACC_INFO, 8, 3⟩
def R.HIF_ACC_INFO_VALID : Loc := ⟨A.HIF_ACC_INFO, 31, 1⟩
/-- `HIF_ACC_ADDR_LO` (R371). -/
def A.HIF_ACC_ADDR_LO : Nat := Page.hostifBase + 0x118
def R.HIF_ACC_ADDR_LO_OFFSET : Loc := ⟨A.HIF_ACC_ADDR_LO, 0, 32⟩
/-- `HIF_ACC_ADDR_HI` (R371). -/
def A.HIF_ACC_ADDR_HI : Nat := Page.hostifBase + 0x11c
def R.HIF_ACC_ADDR_HI_OFFSET : Loc := ⟨A.HIF_ACC_ADDR_HI, 0, 9⟩
/-- `HIF_B2BASE_LO` (R371). -/
def A.HIF_B2BASE_LO (i : Nat) : Nat := Page.hostifBase + 0x400 + 8 * i
def R.HIF_B2BASE_LO_BASE (i : Nat) : Loc := ⟨A.HIF_B2BASE_LO i, 0, 32⟩
/-- `HIF_B2BASE_HI` (R371). -/
def A.HIF_B2BASE_HI (i : Nat) : Nat := Page.hostifBase + 0x404 + 8 * i
def R.HIF_B2BASE_HI_BASE (i : Nat) : Loc := ⟨A.HIF_B2BASE_HI i, 0, 9⟩
/-- `HIF_CEVT` (R371). -/
def A.HIF_CEVT (i : Nat) : Nat := Page.hostifBase + 0x800 + 8 * i
def R.HIF_CEVT_VEC (i : Nat) : Loc := ⟨A.HIF_CEVT i, 0, 11⟩
def R.HIF_CEVT_READY (i : Nat) : Loc := ⟨A.HIF_CEVT i, 16, 1⟩
def R.HIF_CEVT_RW (i : Nat) : Loc := ⟨A.HIF_CEVT i, 17, 1⟩
def R.HIF_CEVT_SRV (i : Nat) : Loc := ⟨A.HIF_CEVT i, 18, 1⟩
def R.HIF_CEVT_SUBTREE (i : Nat) : Loc := ⟨A.HIF_CEVT i, 19, 1⟩
/-- `HIF_CEVTS` (R371). -/
def A.HIF_CEVTS (i : Nat) : Nat := Page.hostifBase + 0x804 + 8 * i
def R.HIF_CEVTS_CAUSE (i : Nat) : Loc := ⟨A.HIF_CEVTS i, 0, 4⟩
/-- `HIF_JOB_LO` (R386). -/
def A.HIF_JOB_LO (i : Nat) : Nat := Page.hostifBase + 0xa00 + 8 * i
def R.HIF_JOB_LO_COUNT (i : Nat) : Loc := ⟨A.HIF_JOB_LO i, 0, 32⟩
/-- `HIF_JOB_HI` (R386). -/
def A.HIF_JOB_HI (i : Nat) : Nat := Page.hostifBase + 0xa04 + 8 * i
def R.HIF_JOB_HI_COUNT (i : Nat) : Loc := ⟨A.HIF_JOB_HI i, 0, 32⟩

/-! ### qm -/

/-- `QM_QSEL` (R372). -/
def A.QM_QSEL : Nat := Page.qmBase + 0x100
def R.QM_QSEL_QUEUE : Loc := ⟨A.QM_QSEL, 0, 13⟩
/-- `QM_QBIND` (R372). -/
def A.QM_QBIND : Nat := Page.qmBase + 0x104
def R.QM_QBIND_FUNC : Loc := ⟨A.QM_QBIND, 0, 6⟩
def R.QM_QBIND_CTX : Loc := ⟨A.QM_QBIND, 8, 6⟩
def R.QM_QBIND_CLASS : Loc := ⟨A.QM_QBIND, 16, 3⟩
/-- `QM_STAT` (R372). -/
def A.QM_STAT : Nat := Page.qmBase + 0x108
def R.QM_STAT_REFUSED : Loc := ⟨A.QM_STAT, 0, 1⟩
/-- `QM_QERR_FIRST` (R372). -/
def A.QM_QERR_FIRST : Nat := Page.qmBase + 0x10c
def R.QM_QERR_FIRST_QUEUE : Loc := ⟨A.QM_QERR_FIRST, 0, 13⟩
def R.QM_QERR_FIRST_VALID : Loc := ⟨A.QM_QERR_FIRST, 31, 1⟩

/-! ### collector -/

/-- `FCOL_CTRL` (R405). -/
def A.FCOL_CTRL : Nat := Page.collectorBase + 0x100
def R.FCOL_CTRL_ALERT_EN : Loc := ⟨A.FCOL_CTRL, 0, 1⟩
def R.FCOL_CTRL_VEC : Loc := ⟨A.FCOL_CTRL, 16, 11⟩
/-- `FCOL_QUIET` (R405). -/
def A.FCOL_QUIET : Nat := Page.collectorBase + 0x104
def R.FCOL_QUIET_MS : Loc := ⟨A.FCOL_QUIET, 0, 16⟩
/-- `FCOL_STAT` (R405). -/
def A.FCOL_STAT : Nat := Page.collectorBase + 0x108
def R.FCOL_STAT_STATE : Loc := ⟨A.FCOL_STAT, 0, 1⟩
def R.FCOL_STAT_DEVFATAL : Loc := ⟨A.FCOL_STAT, 1, 1⟩
def R.FCOL_STAT_FALLBACK : Loc := ⟨A.FCOL_STAT, 2, 1⟩
def R.FCOL_STAT_SEVPEND : Loc := ⟨A.FCOL_STAT, 3, 1⟩
def R.FCOL_STAT_FAULT : Loc := ⟨A.FCOL_STAT, 4, 1⟩
def R.FCOL_STAT_ALERT : Loc := ⟨A.FCOL_STAT, 5, 1⟩
/-- `FCOL_QTIME` (R405). -/
def A.FCOL_QTIME : Nat := Page.collectorBase + 0x10c
def R.FCOL_QTIME_TICKS : Loc := ⟨A.FCOL_QTIME, 0, 32⟩
/-- `FCOL_RECOVERIES` (R405). -/
def A.FCOL_RECOVERIES : Nat := Page.collectorBase + 0x110
def R.FCOL_RECOVERIES_COUNT : Loc := ⟨A.FCOL_RECOVERIES, 0, 32⟩
/-- `FCOL_ENTRIES` (R405). -/
def A.FCOL_ENTRIES : Nat := Page.collectorBase + 0x114
def R.FCOL_ENTRIES_COUNT : Loc := ⟨A.FCOL_ENTRIES, 0, 32⟩
/-- `FCOL_EVENTS` (R405). -/
def A.FCOL_EVENTS : Nat := Page.collectorBase + 0x118
def R.FCOL_EVENTS_COUNT : Loc := ⟨A.FCOL_EVENTS, 0, 32⟩
/-- `FCOL_EVT` (R405). -/
def A.FCOL_EVT : Nat := Page.collectorBase + 0x11c
def R.FCOL_EVT_CAUSE : Loc := ⟨A.FCOL_EVT, 0, 4⟩
/-- `FCOL_EVTEN` (R405). -/
def A.FCOL_EVTEN : Nat := Page.collectorBase + 0x120
def R.FCOL_EVTEN_EN : Loc := ⟨A.FCOL_EVTEN, 0, 4⟩
/-- `FCOL_LOG_WR` (R405). -/
def A.FCOL_LOG_WR : Nat := Page.collectorBase + 0x124
def R.FCOL_LOG_WR_SEQ : Loc := ⟨A.FCOL_LOG_WR, 0, 16⟩
/-- `FCOL_LOG_RD` (R405). -/
def A.FCOL_LOG_RD : Nat := Page.collectorBase + 0x128
def R.FCOL_LOG_RD_SEQ : Loc := ⟨A.FCOL_LOG_RD, 0, 16⟩
/-- `FCOL_LOG_LOST` (R405). -/
def A.FCOL_LOG_LOST : Nat := Page.collectorBase + 0x12c
def R.FCOL_LOG_LOST_COUNT : Loc := ⟨A.FCOL_LOG_LOST, 0, 32⟩
/-- `FCOL_WIRE_INFO` (R405). -/
def A.FCOL_WIRE_INFO : Nat := Page.collectorBase + 0x130
def R.FCOL_WIRE_INFO_PAGE : Loc := ⟨A.FCOL_WIRE_INFO, 0, 15⟩
def R.FCOL_WIRE_INFO_BIT : Loc := ⟨A.FCOL_WIRE_INFO, 15, 5⟩
def R.FCOL_WIRE_INFO_TEST : Loc := ⟨A.FCOL_WIRE_INFO, 20, 1⟩
def R.FCOL_WIRE_INFO_VALID : Loc := ⟨A.FCOL_WIRE_INFO, 31, 1⟩
/-- `FCOL_WIRE_CNT` (R405). -/
def A.FCOL_WIRE_CNT : Nat := Page.collectorBase + 0x134
def R.FCOL_WIRE_CNT_COUNT : Loc := ⟨A.FCOL_WIRE_CNT, 0, 32⟩
/-- `FCOL_WTEST` (R405). -/
def A.FCOL_WTEST : Nat := Page.collectorBase + 0x140
def R.FCOL_WTEST_PAGE : Loc := ⟨A.FCOL_WTEST, 0, 15⟩
def R.FCOL_WTEST_BIT : Loc := ⟨A.FCOL_WTEST, 15, 5⟩
def R.FCOL_WTEST_GO : Loc := ⟨A.FCOL_WTEST, 31, 1⟩
/-- `FCOL_LOG` (R405). -/
def A.FCOL_LOG (i w : Nat) : Nat := Page.collectorBase + 0x800 + 32 * i + 4 * w

/-! ### almanac -/

/-- `ALM_CTRL` (R429). -/
def A.ALM_CTRL : Nat := Page.almanacBase + 0x100
def R.ALM_CTRL_EN : Loc := ⟨A.ALM_CTRL, 0, 1⟩
def R.ALM_CTRL_HOLDOFF : Loc := ⟨A.ALM_CTRL, 4, 12⟩
def R.ALM_CTRL_WINDOW : Loc := ⟨A.ALM_CTRL, 16, 8⟩
/-- `ALM_STAT` (R429). -/
def A.ALM_STAT : Nat := Page.almanacBase + 0x104
def R.ALM_STAT_STAGED : Loc := ⟨A.ALM_STAT, 0, 9⟩
def R.ALM_STAT_BUSY : Loc := ⟨A.ALM_STAT, 16, 1⟩
/-- `ALM_LOST` (R429). -/
def A.ALM_LOST : Nat := Page.almanacBase + 0x108
def R.ALM_LOST_COUNT : Loc := ⟨A.ALM_LOST, 0, 32⟩
/-- `ALM_POM` (R429). -/
def A.ALM_POM : Nat := Page.almanacBase + 0x10c
def R.ALM_POM_MIN : Loc := ⟨A.ALM_POM, 0, 32⟩
/-- `ALM_HEAD` (R429). -/
def A.ALM_HEAD (i : Nat) : Nat := Page.almanacBase + 0x120 + 4 * i
def R.ALM_HEAD_SEQ (i : Nat) : Loc := ⟨A.ALM_HEAD i, 0, 32⟩
/-- `ALM_RSEL` (R429). -/
def A.ALM_RSEL : Nat := Page.almanacBase + 0x140
def R.ALM_RSEL_CLASS : Loc := ⟨A.ALM_RSEL, 0, 3⟩
def R.ALM_RSEL_INDEX : Loc := ⟨A.ALM_RSEL, 8, 16⟩
def R.ALM_RSEL_READY : Loc := ⟨A.ALM_RSEL, 31, 1⟩
/-- `ALM_QSEL` (R429). -/
def A.ALM_QSEL : Nat := Page.almanacBase + 0x144
def R.ALM_QSEL_PAGE : Loc := ⟨A.ALM_QSEL, 0, 15⟩
def R.ALM_QSEL_BIT : Loc := ⟨A.ALM_QSEL, 15, 5⟩
def R.ALM_QSEL_READY : Loc := ⟨A.ALM_QSEL, 31, 1⟩
/-- `ALM_QRES` (R429). -/
def A.ALM_QRES : Nat := Page.almanacBase + 0x148
def R.ALM_QRES_CLASSIFY : Loc := ⟨A.ALM_QRES, 0, 2⟩
def R.ALM_QRES_N : Loc := ⟨A.ALM_QRES, 8, 8⟩
def R.ALM_QRES_BAND : Loc := ⟨A.ALM_QRES, 16, 1⟩
def R.ALM_QRES_BUCKET : Loc := ⟨A.ALM_QRES, 17, 1⟩
/-- `ALM_RDATA` (R429). -/
def A.ALM_RDATA (i : Nat) : Nat := Page.almanacBase + 0x180 + 4 * i
def R.ALM_RDATA_DATA (i : Nat) : Loc := ⟨A.ALM_RDATA i, 0, 32⟩
/-- `ALM_HRW_CTRL` (R430). -/
def A.ALM_HRW_CTRL (i : Nat) : Nat := Page.almanacBase + 0x400 + 64 * i
def R.ALM_HRW_CTRL_GO (i : Nat) : Loc := ⟨A.ALM_HRW_CTRL i, 0, 1⟩
def R.ALM_HRW_CTRL_STOP (i : Nat) : Loc := ⟨A.ALM_HRW_CTRL i, 1, 1⟩
def R.ALM_HRW_CTRL_THIN (i : Nat) : Loc := ⟨A.ALM_HRW_CTRL i, 2, 1⟩
def R.ALM_HRW_CTRL_FURA (i : Nat) : Loc := ⟨A.ALM_HRW_CTRL i, 4, 5⟩
def R.ALM_HRW_CTRL_FURB (i : Nat) : Loc := ⟨A.ALM_HRW_CTRL i, 9, 5⟩
def R.ALM_HRW_CTRL_FURR (i : Nat) : Loc := ⟨A.ALM_HRW_CTRL i, 14, 5⟩
def R.ALM_HRW_CTRL_FMTA (i : Nat) : Loc := ⟨A.ALM_HRW_CTRL i, 24, 4⟩
def R.ALM_HRW_CTRL_FMTB (i : Nat) : Loc := ⟨A.ALM_HRW_CTRL i, 28, 4⟩
/-- `ALM_HRW_COND` (R430). -/
def A.ALM_HRW_COND (i : Nat) : Nat := Page.almanacBase + 0x404 + 64 * i
def R.ALM_HRW_COND_KB (i : Nat) : Loc := ⟨A.ALM_HRW_COND i, 0, 9⟩
def R.ALM_HRW_COND_TLO (i : Nat) : Loc := ⟨A.ALM_HRW_COND i, 16, 8⟩
def R.ALM_HRW_COND_THI (i : Nat) : Loc := ⟨A.ALM_HRW_COND i, 24, 8⟩
/-- `ALM_HRW_TILES` (R430). -/
def A.ALM_HRW_TILES (i : Nat) : Nat := Page.almanacBase + 0x408 + 64 * i
def R.ALM_HRW_TILES_TILES (i : Nat) : Loc := ⟨A.ALM_HRW_TILES i, 0, 32⟩
/-- `ALM_HRW_POWER` (R430). -/
def A.ALM_HRW_POWER (i : Nat) : Nat := Page.almanacBase + 0x40c + 64 * i
def R.ALM_HRW_POWER_ALLOT (i : Nat) : Loc := ⟨A.ALM_HRW_POWER i, 0, 9⟩
def R.ALM_HRW_POWER_TWAIT (i : Nat) : Loc := ⟨A.ALM_HRW_POWER i, 16, 16⟩
/-- `ALM_HRW_SEED_LO` (R430). -/
def A.ALM_HRW_SEED_LO (i : Nat) : Nat := Page.almanacBase + 0x410 + 64 * i
def R.ALM_HRW_SEED_LO_K0 (i : Nat) : Loc := ⟨A.ALM_HRW_SEED_LO i, 0, 32⟩
/-- `ALM_HRW_SEED_HI` (R430). -/
def A.ALM_HRW_SEED_HI (i : Nat) : Nat := Page.almanacBase + 0x414 + 64 * i
def R.ALM_HRW_SEED_HI_K1 (i : Nat) : Loc := ⟨A.ALM_HRW_SEED_HI i, 0, 32⟩
/-- `ALM_HRW_STAT` (R430). -/
def A.ALM_HRW_STAT (i : Nat) : Nat := Page.almanacBase + 0x418 + 64 * i
def R.ALM_HRW_STAT_STATE (i : Nat) : Loc := ⟨A.ALM_HRW_STAT i, 0, 3⟩
/-- `ALM_HRW_RUN` (R430). -/
def A.ALM_HRW_RUN (i : Nat) : Nat := Page.almanacBase + 0x41c + 64 * i
def R.ALM_HRW_RUN_RUN (i : Nat) : Loc := ⟨A.ALM_HRW_RUN i, 0, 32⟩
/-- `ALM_HRW_DONE` (R430). -/
def A.ALM_HRW_DONE (i : Nat) : Nat := Page.almanacBase + 0x420 + 64 * i
def R.ALM_HRW_DONE_TILES (i : Nat) : Loc := ⟨A.ALM_HRW_DONE i, 0, 32⟩
/-- `ALM_HRW_MIS` (R430). -/
def A.ALM_HRW_MIS (i : Nat) : Nat := Page.almanacBase + 0x424 + 64 * i
def R.ALM_HRW_MIS_TILES (i : Nat) : Loc := ⟨A.ALM_HRW_MIS i, 0, 32⟩
/-- `ALM_HRW_FIRST` (R430). -/
def A.ALM_HRW_FIRST (i : Nat) : Nat := Page.almanacBase + 0x428 + 64 * i
def R.ALM_HRW_FIRST_TILE (i : Nat) : Loc := ⟨A.ALM_HRW_FIRST i, 0, 32⟩
/-- `ALM_HRW_FIRSTP` (R430). -/
def A.ALM_HRW_FIRSTP (i : Nat) : Nat := Page.almanacBase + 0x42c + 64 * i
def R.ALM_HRW_FIRSTP_A (i : Nat) : Loc := ⟨A.ALM_HRW_FIRSTP i, 0, 5⟩
def R.ALM_HRW_FIRSTP_B (i : Nat) : Loc := ⟨A.ALM_HRW_FIRSTP i, 5, 5⟩
def R.ALM_HRW_FIRSTP_ATTR (i : Nat) : Loc := ⟨A.ALM_HRW_FIRSTP i, 10, 5⟩
def R.ALM_HRW_FIRSTP_VALID (i : Nat) : Loc := ⟨A.ALM_HRW_FIRSTP i, 31, 1⟩

/-! ### hang -/

/-- `STD_WD_CTRL` (R447). -/
def A.STD_WD_CTRL : Nat := Page.hangBase + 0x100
def R.STD_WD_CTRL_DMA : Loc := ⟨A.STD_WD_CTRL, 0, 8⟩
def R.STD_WD_CTRL_PORT : Loc := ⟨A.STD_WD_CTRL, 8, 8⟩
def R.STD_WD_CTRL_DRAIN : Loc := ⟨A.STD_WD_CTRL, 16, 8⟩
/-- `STD_FENCE` (R447). -/
def A.STD_FENCE : Nat := Page.hangBase + 0x104
def R.STD_FENCE_FIELD : Loc := ⟨A.STD_FENCE, 0, 4⟩
def R.STD_FENCE_PORT : Loc := ⟨A.STD_FENCE, 4, 8⟩
def R.STD_FENCE_FRESET : Loc := ⟨A.STD_FENCE, 12, 4⟩
/-- `STD_DMA_FENCE` (R447). -/
def A.STD_DMA_FENCE : Nat := Page.hangBase + 0x108
def R.STD_DMA_FENCE_ENGINE : Loc := ⟨A.STD_DMA_FENCE, 0, 32⟩
/-- `STD_HANG_WR` (R447). -/
def A.STD_HANG_WR : Nat := Page.hangBase + 0x10c
def R.STD_HANG_WR_SEQ : Loc := ⟨A.STD_HANG_WR, 0, 16⟩
/-- `STD_HANG_RD` (R447). -/
def A.STD_HANG_RD : Nat := Page.hangBase + 0x110
def R.STD_HANG_RD_SEQ : Loc := ⟨A.STD_HANG_RD, 0, 16⟩
/-- `STD_HANG_LOST` (R447). -/
def A.STD_HANG_LOST : Nat := Page.hangBase + 0x114
def R.STD_HANG_LOST_COUNT : Loc := ⟨A.STD_HANG_LOST, 0, 32⟩
/-- `STD_HANG` (R447). -/
def A.STD_HANG (i w : Nat) : Nat := Page.hangBase + 0x800 + 32 * i + 4 * w

/-! ### power -/

/-- `PWR_ALLOT` (R471). -/
def A.PWR_ALLOT : Nat := Page.powerBase + 0x100
def R.PWR_ALLOT_ALLOT : Loc := ⟨A.PWR_ALLOT, 0, 9⟩
/-- `PWR_LIMIT` (R471). -/
def A.PWR_LIMIT : Nat := Page.powerBase + 0x104
def R.PWR_LIMIT_AEFF : Loc := ⟨A.PWR_LIMIT, 0, 9⟩
def R.PWR_LIMIT_E : Loc := ⟨A.PWR_LIMIT, 16, 9⟩
/-- `PWR_STAT` (R471). -/
def A.PWR_STAT : Nat := Page.powerBase + 0x108
def R.PWR_STAT_BRAKE : Loc := ⟨A.PWR_STAT, 0, 1⟩
def R.PWR_STAT_LIMIT : Loc := ⟨A.PWR_STAT, 1, 1⟩
def R.PWR_STAT_CEIL : Loc := ⟨A.PWR_STAT, 2, 1⟩
def R.PWR_STAT_TFLD : Loc := ⟨A.PWR_STAT, 3, 4⟩
def R.PWR_STAT_THBM : Loc := ⟨A.PWR_STAT, 7, 1⟩
def R.PWR_STAT_TRIP : Loc := ⟨A.PWR_STAT, 8, 1⟩
def R.PWR_STAT_REFUSED : Loc := ⟨A.PWR_STAT, 31, 1⟩
/-- `PWR_SLEEP` (R471). -/
def A.PWR_SLEEP : Nat := Page.powerBase + 0x10c
def R.PWR_SLEEP_FUR_US : Loc := ⟨A.PWR_SLEEP, 0, 8⟩
def R.PWR_SLEEP_AWAKE : Loc := ⟨A.PWR_SLEEP, 8, 1⟩
def R.PWR_SLEEP_FLD_MS : Loc := ⟨A.PWR_SLEEP, 16, 16⟩
/-- `PWR_IN_V` (R471). -/
def A.PWR_IN_V : Nat := Page.powerBase + 0x110
def R.PWR_IN_V_MV : Loc := ⟨A.PWR_IN_V, 0, 16⟩
/-- `PWR_IN_I` (R471). -/
def A.PWR_IN_I : Nat := Page.powerBase + 0x114
def R.PWR_IN_I_CA : Loc := ⟨A.PWR_IN_I, 0, 16⟩
/-- `PWR_IN_P` (R471). -/
def A.PWR_IN_P : Nat := Page.powerBase + 0x118
def R.PWR_IN_P_W : Loc := ⟨A.PWR_IN_P, 0, 16⟩
/-- `PWR_AVG20` (R471). -/
def A.PWR_AVG20 : Nat := Page.powerBase + 0x11c
def R.PWR_AVG20_W : Loc := ⟨A.PWR_AVG20, 0, 16⟩
def R.PWR_AVG20_PEAK : Loc := ⟨A.PWR_AVG20, 16, 16⟩
/-- `PWR_AVG1S` (R471). -/
def A.PWR_AVG1S : Nat := Page.powerBase + 0x120
def R.PWR_AVG1S_W : Loc := ⟨A.PWR_AVG1S, 0, 16⟩
def R.PWR_AVG1S_PEAK : Loc := ⟨A.PWR_AVG1S, 16, 16⟩
/-- `PWR_ENERGY_LO` (R471). -/
def A.PWR_ENERGY_LO : Nat := Page.powerBase + 0x124
def R.PWR_ENERGY_LO_MJ : Loc := ⟨A.PWR_ENERGY_LO, 0, 32⟩
/-- `PWR_ENERGY_HI` (R471). -/
def A.PWR_ENERGY_HI : Nat := Page.powerBase + 0x128
def R.PWR_ENERGY_HI_MJ : Loc := ⟨A.PWR_ENERGY_HI, 0, 32⟩
/-- `PWR_THR_MS` (R471). -/
def A.PWR_THR_MS : Nat := Page.powerBase + 0x12c
def R.PWR_THR_MS_COUNT : Loc := ⟨A.PWR_THR_MS, 0, 32⟩
/-- `PWR_BRAKE_CNT` (R471). -/
def A.PWR_BRAKE_CNT : Nat := Page.powerBase + 0x130
def R.PWR_BRAKE_CNT_COUNT : Loc := ⟨A.PWR_BRAKE_CNT, 0, 32⟩
/-- `PWR_FLD` (R471). -/
def A.PWR_FLD (i : Nat) : Nat := Page.powerBase + 0x140 + 4 * i
def R.PWR_FLD_STATE (i : Nat) : Loc := ⟨A.PWR_FLD i, 0, 2⟩
def R.PWR_FLD_LEVEL (i : Nat) : Loc := ⟨A.PWR_FLD i, 8, 6⟩
def R.PWR_FLD_DUTY (i : Nat) : Loc := ⟨A.PWR_FLD i, 16, 5⟩
def R.PWR_FLD_TJ (i : Nat) : Loc := ⟨A.PWR_FLD i, 24, 8⟩
/-- `PWR_RAIL` (R471). -/
def A.PWR_RAIL (i : Nat) : Nat := Page.powerBase + 0x150 + 4 * i
def R.PWR_RAIL_W (i : Nat) : Loc := ⟨A.PWR_RAIL i, 0, 16⟩
/-- `PWR_COOL` (R471). -/
def A.PWR_COOL : Nat := Page.powerBase + 0x164
def R.PWR_COOL_TIN : Loc := ⟨A.PWR_COOL, 0, 8⟩
def R.PWR_COOL_TOUT : Loc := ⟨A.PWR_COOL, 8, 8⟩
/-- `PWR_FC_ALIGN` (R471). -/
def A.PWR_FC_ALIGN : Nat := Page.powerBase + 0x180
def R.PWR_FC_ALIGN_MS : Loc := ⟨A.PWR_FC_ALIGN, 0, 16⟩
/-- `PWR_FC_MIN` (R471). -/
def A.PWR_FC_MIN : Nat := Page.powerBase + 0x184
def R.PWR_FC_MIN_MIN : Loc := ⟨A.PWR_FC_MIN, 0, 32⟩
/-- `PWR_FC_LEFT` (R471). -/
def A.PWR_FC_LEFT : Nat := Page.powerBase + 0x188
def R.PWR_FC_LEFT_MS : Loc := ⟨A.PWR_FC_LEFT, 0, 16⟩
/-- `PWR_PLAN_MIN` (R471). -/
def A.PWR_PLAN_MIN : Nat := Page.powerBase + 0x18c
def R.PWR_PLAN_MIN_MIN : Loc := ⟨A.PWR_PLAN_MIN, 0, 32⟩
/-- `PWR_PLAN_CAP` (R471). -/
def A.PWR_PLAN_CAP : Nat := Page.powerBase + 0x190
def R.PWR_PLAN_CAP_CAP : Loc := ⟨A.PWR_PLAN_CAP, 0, 9⟩
/-- `PWR_FC` (R471). -/
def A.PWR_FC (i : Nat) : Nat := Page.powerBase + 0x1a0 + 4 * i
def R.PWR_FC_CEIL (i : Nat) : Loc := ⟨A.PWR_FC i, 0, 9⟩
def R.PWR_FC_CAP (i : Nat) : Loc := ⟨A.PWR_FC i, 16, 9⟩
def R.PWR_FC_FROZEN (i : Nat) : Loc := ⟨A.PWR_FC i, 31, 1⟩

/-! ### clock -/

/-- `CLK_STAT` (R486). -/
def A.CLK_STAT : Nat := Page.clockBase + 0x100
def R.CLK_STAT_REF_OK : Loc := ⟨A.CLK_STAT, 0, 1⟩
def R.CLK_STAT_FALLBACK : Loc := ⟨A.CLK_STAT, 1, 1⟩
def R.CLK_STAT_AO_REF : Loc := ⟨A.CLK_STAT, 2, 1⟩
/-- `CLK_MON` (R486). -/
def A.CLK_MON : Nat := Page.clockBase + 0x104
def R.CLK_MON_COUNT : Loc := ⟨A.CLK_MON, 0, 11⟩
/-- `CLK_MON_BAD` (R486). -/
def A.CLK_MON_BAD : Nat := Page.clockBase + 0x108
def R.CLK_MON_BAD_COUNT : Loc := ⟨A.CLK_MON_BAD, 0, 32⟩
/-- `CLK_OUT` (R486). -/
def A.CLK_OUT : Nat := Page.clockBase + 0x110
def R.CLK_OUT_EN : Loc := ⟨A.CLK_OUT, 0, 1⟩
def R.CLK_OUT_DEPTH : Loc := ⟨A.CLK_OUT, 4, 4⟩
def R.CLK_OUT_RATE : Loc := ⟨A.CLK_OUT, 8, 3⟩
/-- `CLK_PLL` (R486). -/
def A.CLK_PLL (i : Nat) : Nat := Page.clockBase + 0x140 + 4 * i
def R.CLK_PLL_STATE (i : Nat) : Loc := ⟨A.CLK_PLL i, 0, 2⟩
def R.CLK_PLL_GOOD (i : Nat) : Loc := ⟨A.CLK_PLL i, 2, 2⟩
def R.CLK_PLL_COUNT (i : Nat) : Loc := ⟨A.CLK_PLL i, 16, 15⟩
/-- `CLK_FMETER` (R486). -/
def A.CLK_FMETER (i : Nat) : Nat := Page.clockBase + 0x200 + 4 * i
def R.CLK_FMETER_KHZ (i : Nat) : Loc := ⟨A.CLK_FMETER i, 0, 32⟩
/-- `CLK_GATE_CLOCK` (R484). -/
def A.CLK_GATE_CLOCK : Nat := Page.clockBase + 0x28
def R.CLK_GATE_CLOCK_OFF : Loc := ⟨A.CLK_GATE_CLOCK, 0, 1⟩
def R.CLK_GATE_CLOCK_REFUSED : Loc := ⟨A.CLK_GATE_CLOCK, 31, 1⟩

/-! ### security -/

/-- `SEC_BOOT` (R507). -/
def A.SEC_BOOT : Nat := Page.securityBase + 0x100
def R.SEC_BOOT_STAGE : Loc := ⟨A.SEC_BOOT, 0, 3⟩
def R.SEC_BOOT_CAUSE : Loc := ⟨A.SEC_BOOT, 8, 4⟩
/-- `SEC_SVN` (R507). -/
def A.SEC_SVN : Nat := Page.securityBase + 0x104
def R.SEC_SVN_RUN : Loc := ⟨A.SEC_SVN, 0, 7⟩
def R.SEC_SVN_FUSE : Loc := ⟨A.SEC_SVN, 8, 7⟩
def R.SEC_SVN_REVOKED : Loc := ⟨A.SEC_SVN, 16, 4⟩
def R.SEC_SVN_KEYSLOT : Loc := ⟨A.SEC_SVN, 20, 2⟩
/-- `SEC_CTRL` (R507). -/
def A.SEC_CTRL : Nat := Page.securityBase + 0x108
def R.SEC_CTRL_SVN_COMMIT : Loc := ⟨A.SEC_CTRL, 0, 1⟩
def R.SEC_CTRL_KEY_NOIDE : Loc := ⟨A.SEC_CTRL, 1, 1⟩
/-- `SEC_STAT` (R507). -/
def A.SEC_STAT : Nat := Page.securityBase + 0x10c
def R.SEC_STAT_DBG : Loc := ⟨A.SEC_STAT, 0, 1⟩
def R.SEC_STAT_BURNING : Loc := ⟨A.SEC_STAT, 1, 1⟩
/-- `SEC_FWVER_LO` (R507). -/
def A.SEC_FWVER_LO : Nat := Page.securityBase + 0x110
def R.SEC_FWVER_LO_VER : Loc := ⟨A.SEC_FWVER_LO, 0, 32⟩
/-- `SEC_FWVER_HI` (R507). -/
def A.SEC_FWVER_HI : Nat := Page.securityBase + 0x114
def R.SEC_FWVER_HI_VER : Loc := ⟨A.SEC_FWVER_HI, 0, 32⟩
/-- `SEC_UPD_CTRL` (R507). -/
def A.SEC_UPD_CTRL : Nat := Page.securityBase + 0x120
def R.SEC_UPD_CTRL_CMD : Loc := ⟨A.SEC_UPD_CTRL, 0, 3⟩
/-- `SEC_UPD_OFF` (R507). -/
def A.SEC_UPD_OFF : Nat := Page.securityBase + 0x124
def R.SEC_UPD_OFF_OFF : Loc := ⟨A.SEC_UPD_OFF, 0, 26⟩
/-- `SEC_UPD_LEN` (R507). -/
def A.SEC_UPD_LEN : Nat := Page.securityBase + 0x128
def R.SEC_UPD_LEN_LEN : Loc := ⟨A.SEC_UPD_LEN, 0, 17⟩
/-- `SEC_UPD_STAT` (R507). -/
def A.SEC_UPD_STAT : Nat := Page.securityBase + 0x12c
def R.SEC_UPD_STAT_STATE : Loc := ⟨A.SEC_UPD_STAT, 0, 3⟩
def R.SEC_UPD_STAT_OWNER : Loc := ⟨A.SEC_UPD_STAT, 3, 1⟩
def R.SEC_UPD_STAT_ERR : Loc := ⟨A.SEC_UPD_STAT, 4, 4⟩
/-- `SEC_UPD_RCVD` (R507). -/
def A.SEC_UPD_RCVD : Nat := Page.securityBase + 0x130
def R.SEC_UPD_RCVD_BYTES : Loc := ⟨A.SEC_UPD_RCVD, 0, 26⟩
/-- `SEC_KSEL` (R507). -/
def A.SEC_KSEL : Nat := Page.securityBase + 0x140
def R.SEC_KSEL_SLOT : Loc := ⟨A.SEC_KSEL, 0, 6⟩
/-- `SEC_KCMD` (R507). -/
def A.SEC_KCMD : Nat := Page.securityBase + 0x144
def R.SEC_KCMD_LOAD : Loc := ⟨A.SEC_KCMD, 0, 1⟩
def R.SEC_KCMD_CLEAR : Loc := ⟨A.SEC_KCMD, 1, 1⟩
/-- `SEC_KLOADED_LO` (R507). -/
def A.SEC_KLOADED_LO : Nat := Page.securityBase + 0x148
def R.SEC_KLOADED_LO_SLOT : Loc := ⟨A.SEC_KLOADED_LO, 0, 32⟩
/-- `SEC_KLOADED_HI` (R507). -/
def A.SEC_KLOADED_HI : Nat := Page.securityBase + 0x14c
def R.SEC_KLOADED_HI_SLOT : Loc := ⟨A.SEC_KLOADED_HI, 0, 32⟩
/-- `SEC_KSTAT` (R507). -/
def A.SEC_KSTAT : Nat := Page.securityBase + 0x150
def R.SEC_KSTAT_CAUSE : Loc := ⟨A.SEC_KSTAT, 0, 3⟩
def R.SEC_KSTAT_REFUSED : Loc := ⟨A.SEC_KSTAT, 31, 1⟩
/-- `SEC_KEY` (R507). -/
def A.SEC_KEY (i : Nat) : Nat := Page.securityBase + 0x180 + 4 * i
def R.SEC_KEY_KEY (i : Nat) : Loc := ⟨A.SEC_KEY i, 0, 32⟩
/-- `SEC_DBG_CTRL` (R507). -/
def A.SEC_DBG_CTRL : Nat := Page.securityBase + 0x1c0
def R.SEC_DBG_CTRL_GO : Loc := ⟨A.SEC_DBG_CTRL, 0, 1⟩
/-- `SEC_DBG_STAT` (R507). -/
def A.SEC_DBG_STAT : Nat := Page.securityBase + 0x1c4
def R.SEC_DBG_STAT_CAUSE : Loc := ⟨A.SEC_DBG_STAT, 0, 3⟩
/-- `SEC_DBG_NONCE` (R507). -/
def A.SEC_DBG_NONCE (i : Nat) : Nat := Page.securityBase + 0x1e0 + 4 * i
def R.SEC_DBG_NONCE_NONCE (i : Nat) : Loc := ⟨A.SEC_DBG_NONCE i, 0, 32⟩
/-- `SEC_QUORUM` (R507). -/
def A.SEC_QUORUM : Nat := Page.securityBase + 0x200
def R.SEC_QUORUM_N : Loc := ⟨A.SEC_QUORUM, 0, 5⟩
def R.SEC_QUORUM_K : Loc := ⟨A.SEC_QUORUM, 8, 5⟩
/-- `SEC_IDHASH` (R507). -/
def A.SEC_IDHASH (i : Nat) : Nat := Page.securityBase + 0x240 + 4 * i
def R.SEC_IDHASH_HASH (i : Nat) : Loc := ⟨A.SEC_IDHASH i, 0, 32⟩

/-! ### mgmt -/

/-- `STD_MG_EID` (R519). -/
def A.STD_MG_EID : Nat := Page.mgmtBase + 0x100
def R.STD_MG_EID_I3C : Loc := ⟨A.STD_MG_EID, 0, 8⟩
def R.STD_MG_EID_PCIE : Loc := ⟨A.STD_MG_EID, 8, 8⟩
def R.STD_MG_EID_DADDR : Loc := ⟨A.STD_MG_EID, 16, 7⟩
/-- `STD_MG_BOOTS` (R519). -/
def A.STD_MG_BOOTS : Nat := Page.mgmtBase + 0x104
def R.STD_MG_BOOTS_COUNT : Loc := ⟨A.STD_MG_BOOTS, 0, 32⟩
/-- `STD_MG_SUB` (R519). -/
def A.STD_MG_SUB : Nat := Page.mgmtBase + 0x108
def R.STD_MG_SUB_I3C : Loc := ⟨A.STD_MG_SUB, 0, 8⟩
def R.STD_MG_SUB_PCIE : Loc := ⟨A.STD_MG_SUB, 8, 8⟩
def R.STD_MG_SUB_KINDS_I3C : Loc := ⟨A.STD_MG_SUB, 16, 3⟩
def R.STD_MG_SUB_KINDS_PCIE : Loc := ⟨A.STD_MG_SUB, 19, 3⟩
/-- `STD_MG_RX_CNT` (R519). -/
def A.STD_MG_RX_CNT : Nat := Page.mgmtBase + 0x10c
def R.STD_MG_RX_CNT_COUNT : Loc := ⟨A.STD_MG_RX_CNT, 0, 32⟩
/-- `STD_MG_ERR_CNT` (R519). -/
def A.STD_MG_ERR_CNT : Nat := Page.mgmtBase + 0x110
def R.STD_MG_ERR_CNT_COUNT : Loc := ⟨A.STD_MG_ERR_CNT, 0, 32⟩
/-- `STD_MG_EVDROP` (R519). -/
def A.STD_MG_EVDROP : Nat := Page.mgmtBase + 0x114
def R.STD_MG_EVDROP_COUNT : Loc := ⟨A.STD_MG_EVDROP, 0, 32⟩

/-! ### fabric -/

/-- `MBL_DEVID` (R255). -/
def A.MBL_DEVID : Nat := Page.fabricBase + 0x100
def R.MBL_DEVID_ID : Loc := ⟨A.MBL_DEVID, 0, 24⟩
/-- `MBL_LIFE` (R255). -/
def A.MBL_LIFE : Nat := Page.fabricBase + 0x104
def R.MBL_LIFE_UNITS : Loc := ⟨A.MBL_LIFE, 0, 16⟩
/-- `MBL_ARB` (R255). -/
def A.MBL_ARB : Nat := Page.fabricBase + 0x108
def R.MBL_ARB_WCOL : Loc := ⟨A.MBL_ARB, 0, 4⟩
def R.MBL_ARB_WBULK : Loc := ⟨A.MBL_ARB, 4, 4⟩
/-- `MBL_FAB_STAT` (R255). -/
def A.MBL_FAB_STAT : Nat := Page.fabricBase + 0x10c
def R.MBL_FAB_STAT_REFUSED : Loc := ⟨A.MBL_FAB_STAT, 0, 1⟩
/-- `MBL_LDROP_CNT` (R255). -/
def A.MBL_LDROP_CNT : Nat := Page.fabricBase + 0x110
def R.MBL_LDROP_CNT_COUNT : Loc := ⟨A.MBL_LDROP_CNT, 0, 32⟩
/-- `MBL_LDROP_INFO` (R255). -/
def A.MBL_LDROP_INFO : Nat := Page.fabricBase + 0x114
def R.MBL_LDROP_INFO_CAUSE : Loc := ⟨A.MBL_LDROP_INFO, 0, 3⟩
def R.MBL_LDROP_INFO_PTYPE : Loc := ⟨A.MBL_LDROP_INFO, 3, 4⟩
def R.MBL_LDROP_INFO_TC : Loc := ⟨A.MBL_LDROP_INFO, 7, 2⟩
def R.MBL_LDROP_INFO_VALID : Loc := ⟨A.MBL_LDROP_INFO, 31, 1⟩
/-- `MBL_LDROP_DST` (R255). -/
def A.MBL_LDROP_DST : Nat := Page.fabricBase + 0x118
def R.MBL_LDROP_DST_DST : Loc := ⟨A.MBL_LDROP_DST, 0, 24⟩
/-- `MBL_RT_LO` (R255). -/
def A.MBL_RT_LO (i : Nat) : Nat := Page.fabricBase + 0x400 + 8 * i
def R.MBL_RT_LO_LO (i : Nat) : Loc := ⟨A.MBL_RT_LO i, 0, 24⟩
def R.MBL_RT_LO_PORT (i : Nat) : Loc := ⟨A.MBL_RT_LO i, 24, 3⟩
def R.MBL_RT_LO_DATELINE (i : Nat) : Loc := ⟨A.MBL_RT_LO i, 27, 1⟩
def R.MBL_RT_LO_VALID (i : Nat) : Loc := ⟨A.MBL_RT_LO i, 31, 1⟩
/-- `MBL_RT_HI` (R255). -/
def A.MBL_RT_HI (i : Nat) : Nat := Page.fabricBase + 0x404 + 8 * i
def R.MBL_RT_HI_HI (i : Nat) : Loc := ⟨A.MBL_RT_HI i, 0, 24⟩
/-- `MBL_MEMBER` (R431). -/
def A.MBL_MEMBER : Nat := Page.fabricBase + 0x120
def R.MBL_MEMBER_EXPELLED : Loc := ⟨A.MBL_MEMBER, 0, 1⟩
/-- `MBL_QSEQ_LO` (R431). -/
def A.MBL_QSEQ_LO : Nat := Page.fabricBase + 0x124
def R.MBL_QSEQ_LO_SEQ : Loc := ⟨A.MBL_QSEQ_LO, 0, 32⟩
/-- `MBL_QSEQ_HI` (R431). -/
def A.MBL_QSEQ_HI : Nat := Page.fabricBase + 0x128
def R.MBL_QSEQ_HI_SEQ : Loc := ⟨A.MBL_QSEQ_HI, 0, 32⟩
/-- `MBL_QREFUSED` (R431). -/
def A.MBL_QREFUSED : Nat := Page.fabricBase + 0x12c
def R.MBL_QREFUSED_COUNT : Loc := ⟨A.MBL_QREFUSED, 0, 32⟩

/-! ### commit -/

/-- `CMT_RSEL` (R316). -/
def A.CMT_RSEL : Nat := Page.commitBase + 0x100
def R.CMT_RSEL_REGION : Loc := ⟨A.CMT_RSEL, 0, 12⟩
/-- `CMT_RCTL` (R316). -/
def A.CMT_RCTL : Nat := Page.commitBase + 0x104
def R.CMT_RCTL_CTX : Loc := ⟨A.CMT_RCTL, 0, 6⟩
def R.CMT_RCTL_FIELD : Loc := ⟨A.CMT_RCTL, 6, 2⟩
def R.CMT_RCTL_VALID : Loc := ⟨A.CMT_RCTL, 8, 1⟩
def R.CMT_RCTL_ROLE : Loc := ⟨A.CMT_RCTL, 9, 1⟩
def R.CMT_RCTL_LIVE : Loc := ⟨A.CMT_RCTL, 10, 1⟩
def R.CMT_RCTL_MIRRORED : Loc := ⟨A.CMT_RCTL, 11, 1⟩
/-- `CMT_RCOPY0` (R316). -/
def A.CMT_RCOPY0 : Nat := Page.commitBase + 0x108
def R.CMT_RCOPY0_BASE : Loc := ⟨A.CMT_RCOPY0, 0, 27⟩
/-- `CMT_RCOPY1` (R316). -/
def A.CMT_RCOPY1 : Nat := Page.commitBase + 0x10c
def R.CMT_RCOPY1_BASE : Loc := ⟨A.CMT_RCOPY1, 0, 27⟩
/-- `CMT_RLEN` (R316). -/
def A.CMT_RLEN : Nat := Page.commitBase + 0x110
def R.CMT_RLEN_LEN : Loc := ⟨A.CMT_RLEN, 0, 27⟩
/-- `CMT_RPART` (R316). -/
def A.CMT_RPART : Nat := Page.commitBase + 0x114
def R.CMT_RPART_DEVID : Loc := ⟨A.CMT_RPART, 0, 24⟩
def R.CMT_RPART_PCTX : Loc := ⟨A.CMT_RPART, 24, 6⟩
def R.CMT_RPART_PFLD : Loc := ⟨A.CMT_RPART, 30, 2⟩
/-- `CMT_RPREG` (R316). -/
def A.CMT_RPREG : Nat := Page.commitBase + 0x118
def R.CMT_RPREG_PREGION : Loc := ⟨A.CMT_RPREG, 0, 12⟩
/-- `CMT_RMSTEP` (R316). -/
def A.CMT_RMSTEP : Nat := Page.commitBase + 0x11c
def R.CMT_RMSTEP_STEP : Loc := ⟨A.CMT_RMSTEP, 0, 32⟩
/-- `CMT_RMSTAT` (R316). -/
def A.CMT_RMSTAT : Nat := Page.commitBase + 0x120
def R.CMT_RMSTAT_RUN : Loc := ⟨A.CMT_RMSTAT, 0, 8⟩
def R.CMT_RMSTAT_DRAINED : Loc := ⟨A.CMT_RMSTAT, 8, 1⟩
def R.CMT_RMSTAT_IMPLIED : Loc := ⟨A.CMT_RMSTAT, 9, 1⟩
/-- `CMT_STAT` (R316). -/
def A.CMT_STAT : Nat := Page.commitBase + 0x124
def R.CMT_STAT_REFUSED : Loc := ⟨A.CMT_STAT, 0, 1⟩
/-- `CMT_TOK_DROP` (R316). -/
def A.CMT_TOK_DROP : Nat := Page.commitBase + 0x130
def R.CMT_TOK_DROP_COUNT : Loc := ⟨A.CMT_TOK_DROP, 0, 32⟩
/-- `CMT_TOK_INFO` (R316). -/
def A.CMT_TOK_INFO : Nat := Page.commitBase + 0x134
def R.CMT_TOK_INFO_CAUSE : Loc := ⟨A.CMT_TOK_INFO, 0, 3⟩
def R.CMT_TOK_INFO_KIND : Loc := ⟨A.CMT_TOK_INFO, 3, 4⟩
def R.CMT_TOK_INFO_DCTX : Loc := ⟨A.CMT_TOK_INFO, 7, 6⟩
def R.CMT_TOK_INFO_VALID : Loc := ⟨A.CMT_TOK_INFO, 31, 1⟩
/-- `CMT_TOK_SRC` (R316). -/
def A.CMT_TOK_SRC : Nat := Page.commitBase + 0x138
def R.CMT_TOK_SRC_SRC : Loc := ⟨A.CMT_TOK_SRC, 0, 24⟩
/-- `CMT_TOK_STEP` (R316). -/
def A.CMT_TOK_STEP : Nat := Page.commitBase + 0x13c
def R.CMT_TOK_STEP_STEP : Loc := ⟨A.CMT_TOK_STEP, 0, 32⟩
/-- `CMT_CSTAT` (R317). -/
def A.CMT_CSTAT (i : Nat) : Nat := Page.commitBase + 0x800 + 32 * i
def R.CMT_CSTAT_STATE (i : Nat) : Loc := ⟨A.CMT_CSTAT i, 0, 3⟩
def R.CMT_CSTAT_MODE (i : Nat) : Loc := ⟨A.CMT_CSTAT i, 3, 2⟩
def R.CMT_CSTAT_RB (i : Nat) : Loc := ⟨A.CMT_CSTAT i, 5, 1⟩
def R.CMT_CSTAT_REPLAYABLE (i : Nat) : Loc := ⟨A.CMT_CSTAT i, 6, 1⟩
def R.CMT_CSTAT_FWRITTEN (i : Nat) : Loc := ⟨A.CMT_CSTAT i, 7, 1⟩
def R.CMT_CSTAT_BLOCK (i : Nat) : Loc := ⟨A.CMT_CSTAT i, 8, 7⟩
def R.CMT_CSTAT_CHILD_READY (i : Nat) : Loc := ⟨A.CMT_CSTAT i, 16, 8⟩
def R.CMT_CSTAT_SUBTREE (i : Nat) : Loc := ⟨A.CMT_CSTAT i, 24, 1⟩
def R.CMT_CSTAT_UNCOVERED (i : Nat) : Loc := ⟨A.CMT_CSTAT i, 25, 1⟩
/-- `CMT_CSTEP` (R317). -/
def A.CMT_CSTEP (i : Nat) : Nat := Page.commitBase + 0x804 + 32 * i
def R.CMT_CSTEP_C (i : Nat) : Loc := ⟨A.CMT_CSTEP i, 0, 32⟩
/-- `CMT_CCUR` (R317). -/
def A.CMT_CCUR (i : Nat) : Nat := Page.commitBase + 0x808 + 32 * i
def R.CMT_CCUR_N (i : Nat) : Loc := ⟨A.CMT_CCUR i, 0, 32⟩
/-- `CMT_CUNCOV` (R317). -/
def A.CMT_CUNCOV (i : Nat) : Nat := Page.commitBase + 0x80c + 32 * i
def R.CMT_CUNCOV_UNITS (i : Nat) : Loc := ⟨A.CMT_CUNCOV i, 0, 32⟩
/-- `CMT_CGRP_LO` (R317). -/
def A.CMT_CGRP_LO (i : Nat) : Nat := Page.commitBase + 0x810 + 32 * i
def R.CMT_CGRP_LO_ADDR (i : Nat) : Loc := ⟨A.CMT_CGRP_LO i, 0, 32⟩
/-- `CMT_CGRP_HI` (R317). -/
def A.CMT_CGRP_HI (i : Nat) : Nat := Page.commitBase + 0x814 + 32 * i
def R.CMT_CGRP_HI_ADDR (i : Nat) : Loc := ⟨A.CMT_CGRP_HI i, 0, 9⟩
def R.CMT_CGRP_HI_EN (i : Nat) : Loc := ⟨A.CMT_CGRP_HI i, 31, 1⟩
/-- `CMT_CCOMMIT` (R317). -/
def A.CMT_CCOMMIT (i : Nat) : Nat := Page.commitBase + 0x818 + 32 * i
def R.CMT_CCOMMIT_COUNT (i : Nat) : Loc := ⟨A.CMT_CCOMMIT i, 0, 32⟩
/-- `CMT_CABORT` (R317). -/
def A.CMT_CABORT (i : Nat) : Nat := Page.commitBase + 0x81c + 32 * i
def R.CMT_CABORT_COUNT (i : Nat) : Loc := ⟨A.CMT_CABORT i, 0, 32⟩

/-! ### serving -/

/-- `SRV_CTRL` (R340). -/
def A.SRV_CTRL (c : Nat) : Nat := Page.servingBase c + 0x100
def R.SRV_CTRL_EN (c : Nat) : Loc := ⟨A.SRV_CTRL c, 0, 1⟩
def R.SRV_CTRL_PSIZE (c : Nat) : Loc := ⟨A.SRV_CTRL c, 1, 3⟩
def R.SRV_CTRL_WIDTH (c : Nat) : Loc := ⟨A.SRV_CTRL c, 8, 8⟩
def R.SRV_CTRL_DGROW (c : Nat) : Loc := ⟨A.SRV_CTRL c, 16, 8⟩
/-- `SRV_LIMITS` (R340). -/
def A.SRV_LIMITS (c : Nat) : Nat := Page.servingBase c + 0x104
def R.SRV_LIMITS_MAXSEQ (c : Nat) : Loc := ⟨A.SRV_LIMITS c, 0, 13⟩
def R.SRV_LIMITS_MAXPAGES (c : Nat) : Loc := ⟨A.SRV_LIMITS c, 16, 13⟩
/-- `SRV_TAB_LO` (R340). -/
def A.SRV_TAB_LO (c : Nat) : Nat := Page.servingBase c + 0x108
def R.SRV_TAB_LO_ADDR (c : Nat) : Loc := ⟨A.SRV_TAB_LO c, 0, 32⟩
/-- `SRV_TAB_HI` (R340). -/
def A.SRV_TAB_HI (c : Nat) : Nat := Page.servingBase c + 0x10c
def R.SRV_TAB_HI_ADDR (c : Nat) : Loc := ⟨A.SRV_TAB_HI c, 0, 9⟩
/-- `SRV_PLTAB_LO` (R340). -/
def A.SRV_PLTAB_LO (c : Nat) : Nat := Page.servingBase c + 0x110
def R.SRV_PLTAB_LO_ADDR (c : Nat) : Loc := ⟨A.SRV_PLTAB_LO c, 0, 32⟩
/-- `SRV_PLTAB_HI` (R340). -/
def A.SRV_PLTAB_HI (c : Nat) : Nat := Page.servingBase c + 0x114
def R.SRV_PLTAB_HI_ADDR (c : Nat) : Loc := ⟨A.SRV_PLTAB_HI c, 0, 9⟩
/-- `SRV_SHORT_LO` (R340). -/
def A.SRV_SHORT_LO (c : Nat) : Nat := Page.servingBase c + 0x118
def R.SRV_SHORT_LO_ADDR (c : Nat) : Loc := ⟨A.SRV_SHORT_LO c, 0, 32⟩
/-- `SRV_SHORT_HI` (R340). -/
def A.SRV_SHORT_HI (c : Nat) : Nat := Page.servingBase c + 0x11c
def R.SRV_SHORT_HI_ADDR (c : Nat) : Loc := ⟨A.SRV_SHORT_HI c, 0, 9⟩
/-- `SRV_POOL_LO` (R340). -/
def A.SRV_POOL_LO (c i : Nat) : Nat := Page.servingBase c + 0x130 + 16 * i
def R.SRV_POOL_LO_ADDR (c i : Nat) : Loc := ⟨A.SRV_POOL_LO c i, 0, 32⟩
/-- `SRV_POOL_HI` (R340). -/
def A.SRV_POOL_HI (c i : Nat) : Nat := Page.servingBase c + 0x134 + 16 * i
def R.SRV_POOL_HI_ADDR (c i : Nat) : Loc := ⟨A.SRV_POOL_HI c i, 0, 9⟩
/-- `SRV_POOL_N` (R340). -/
def A.SRV_POOL_N (c i : Nat) : Nat := Page.servingBase c + 0x138 + 16 * i
def R.SRV_POOL_N_N (c i : Nat) : Loc := ⟨A.SRV_POOL_N c i, 0, 23⟩
/-- `SRV_POOL_FREE` (R340). -/
def A.SRV_POOL_FREE (c i : Nat) : Nat := Page.servingBase c + 0x13c + 16 * i
def R.SRV_POOL_FREE_FREE (c i : Nat) : Loc := ⟨A.SRV_POOL_FREE c i, 0, 23⟩
/-- `SRV_EPOCH` (R340). -/
def A.SRV_EPOCH (c : Nat) : Nat := Page.servingBase c + 0x170
def R.SRV_EPOCH_EPOCH (c : Nat) : Loc := ⟨A.SRV_EPOCH c, 0, 32⟩
/-- `SRV_TARGET` (R340). -/
def A.SRV_TARGET (c : Nat) : Nat := Page.servingBase c + 0x174
def R.SRV_TARGET_EPOCH (c : Nat) : Loc := ⟨A.SRV_TARGET c, 0, 32⟩
/-- `SRV_SWAP` (R340). -/
def A.SRV_SWAP (c : Nat) : Nat := Page.servingBase c + 0x178
def R.SRV_SWAP_STATE (c : Nat) : Loc := ⟨A.SRV_SWAP c, 0, 2⟩
def R.SRV_SWAP_POLICY (c : Nat) : Loc := ⟨A.SRV_SWAP c, 2, 1⟩
def R.SRV_SWAP_FAILED (c : Nat) : Loc := ⟨A.SRV_SWAP c, 16, 13⟩
/-- `SRV_HOLD` (R340). -/
def A.SRV_HOLD (c : Nat) : Nat := Page.servingBase c + 0x17c
def R.SRV_HOLD_US (c : Nat) : Loc := ⟨A.SRV_HOLD c, 0, 32⟩
/-- `SRV_LIVE` (R340). -/
def A.SRV_LIVE (c : Nat) : Nat := Page.servingBase c + 0x180
def R.SRV_LIVE_LIVE (c : Nat) : Loc := ⟨A.SRV_LIVE c, 0, 13⟩
def R.SRV_LIVE_QUEUED (c : Nat) : Loc := ⟨A.SRV_LIVE c, 16, 13⟩
/-- `SRV_STAT` (R340). -/
def A.SRV_STAT (c : Nat) : Nat := Page.servingBase c + 0x184
def R.SRV_STAT_REFUSED (c : Nat) : Loc := ⟨A.SRV_STAT c, 0, 1⟩
/-- `SRV_ADMIT_CNT` (R340). -/
def A.SRV_ADMIT_CNT (c : Nat) : Nat := Page.servingBase c + 0x188
def R.SRV_ADMIT_CNT_COUNT (c : Nat) : Loc := ⟨A.SRV_ADMIT_CNT c, 0, 32⟩
/-- `SRV_DEFER_CNT` (R340). -/
def A.SRV_DEFER_CNT (c : Nat) : Nat := Page.servingBase c + 0x18c
def R.SRV_DEFER_CNT_COUNT (c : Nat) : Loc := ⟨A.SRV_DEFER_CNT c, 0, 32⟩
/-- `SRV_OOP_CNT` (R340). -/
def A.SRV_OOP_CNT (c : Nat) : Nat := Page.servingBase c + 0x190
def R.SRV_OOP_CNT_COUNT (c : Nat) : Loc := ⟨A.SRV_OOP_CNT c, 0, 32⟩
/-- `SRV_LOST_CNT` (R340). -/
def A.SRV_LOST_CNT (c : Nat) : Nat := Page.servingBase c + 0x194
def R.SRV_LOST_CNT_COUNT (c : Nat) : Loc := ⟨A.SRV_LOST_CNT c, 0, 32⟩
/-- `SRV_SHORT_N` (R340). -/
def A.SRV_SHORT_N (c : Nat) : Nat := Page.servingBase c + 0x198
def R.SRV_SHORT_N_TOTAL (c : Nat) : Loc := ⟨A.SRV_SHORT_N c, 0, 32⟩

/-! ### context -/

/-- `CTX_ARITH` (R55). -/
def A.CTX_ARITH (c : Nat) : Nat := Page.contextBase c + 0x180
def R.CTX_ARITH_FTZ_DRAIN (c : Nat) : Loc := ⟨A.CTX_ARITH c, 0, 1⟩
def R.CTX_ARITH_E5M2_SAT (c : Nat) : Loc := ⟨A.CTX_ARITH c, 1, 1⟩
def R.CTX_ARITH_MX_SCALE (c : Nat) : Loc := ⟨A.CTX_ARITH c, 2, 1⟩
/-- `CTX_MEM` (R175). -/
def A.CTX_MEM (c : Nat) : Nat := Page.contextBase c + 0x190
def R.CTX_MEM_ENC (c : Nat) : Loc := ⟨A.CTX_MEM c, 0, 1⟩
def R.CTX_MEM_INTLV (c : Nat) : Loc := ⟨A.CTX_MEM c, 4, 4⟩
def R.CTX_MEM_REFUSED (c : Nat) : Loc := ⟨A.CTX_MEM c, 31, 1⟩
/-- `CTX_TRAIN` (R196). -/
def A.CTX_TRAIN (c : Nat) : Nat := Page.contextBase c + 0x1a0
def R.CTX_TRAIN_COMPAT (c : Nat) : Loc := ⟨A.CTX_TRAIN c, 0, 1⟩
def R.CTX_TRAIN_TIED (c : Nat) : Loc := ⟨A.CTX_TRAIN c, 1, 1⟩
/-- `CTX_FRZ_BASE` (R197). -/
def A.CTX_FRZ_BASE (c i : Nat) : Nat := Page.contextBase c + 0x1b0 + 8 * i
def R.CTX_FRZ_BASE_BASE (c i : Nat) : Loc := ⟨A.CTX_FRZ_BASE c i, 0, 18⟩
/-- `CTX_FRZ_LEN` (R197). -/
def A.CTX_FRZ_LEN (c i : Nat) : Nat := Page.contextBase c + 0x1b4 + 8 * i
def R.CTX_FRZ_LEN_LEN (c i : Nat) : Loc := ⟨A.CTX_FRZ_LEN c i, 0, 19⟩
/-- `CTX_SEQ` (R217). -/
def A.CTX_SEQ (c : Nat) : Nat := Page.contextBase c + 0x1d0
def R.CTX_SEQ_MODE (c : Nat) : Loc := ⟨A.CTX_SEQ c, 0, 1⟩
def R.CTX_SEQ_SPLIT_N (c : Nat) : Loc := ⟨A.CTX_SEQ c, 8, 8⟩
def R.CTX_SEQ_SPLIT_POS (c : Nat) : Loc := ⟨A.CTX_SEQ c, 16, 8⟩
/-- `CTX_SEQ_TOK` (R217). -/
def A.CTX_SEQ_TOK (c : Nat) : Nat := Page.contextBase c + 0x1d4
def R.CTX_SEQ_TOK_TOKENS (c : Nat) : Loc := ⟨A.CTX_SEQ_TOK c, 0, 19⟩
/-- `CTX_RW_CTRL` (R217). -/
def A.CTX_RW_CTRL (c : Nat) : Nat := Page.contextBase c + 0x1e0
def R.CTX_RW_CTRL_K (c : Nat) : Loc := ⟨A.CTX_RW_CTRL c, 0, 6⟩
def R.CTX_RW_CTRL_ALPHA_SH (c : Nat) : Loc := ⟨A.CTX_RW_CTRL c, 8, 4⟩
def R.CTX_RW_CTRL_WARMUP (c : Nat) : Loc := ⟨A.CTX_RW_CTRL c, 16, 12⟩
def R.CTX_RW_CTRL_RESET (c : Nat) : Loc := ⟨A.CTX_RW_CTRL c, 31, 1⟩
/-- `CTX_RW_RING_LO` (R217). -/
def A.CTX_RW_RING_LO (c : Nat) : Nat := Page.contextBase c + 0x1e4
def R.CTX_RW_RING_LO_ADDR (c : Nat) : Loc := ⟨A.CTX_RW_RING_LO c, 0, 32⟩
/-- `CTX_RW_RING_HI` (R217). -/
def A.CTX_RW_RING_HI (c : Nat) : Nat := Page.contextBase c + 0x1e8
def R.CTX_RW_RING_HI_ADDR (c : Nat) : Loc := ⟨A.CTX_RW_RING_HI c, 0, 9⟩
/-- `CTX_RW_MEAN` (R217). -/
def A.CTX_RW_MEAN (c : Nat) : Nat := Page.contextBase c + 0x1ec
def R.CTX_RW_MEAN_MU (c : Nat) : Loc := ⟨A.CTX_RW_MEAN c, 0, 32⟩
/-- `CTX_RW_VAR` (R217). -/
def A.CTX_RW_VAR (c : Nat) : Nat := Page.contextBase c + 0x1f0
def R.CTX_RW_VAR_VAR (c : Nat) : Loc := ⟨A.CTX_RW_VAR c, 0, 32⟩
/-- `CTX_RW_COUNT` (R217). -/
def A.CTX_RW_COUNT (c : Nat) : Nat := Page.contextBase c + 0x1f4
def R.CTX_RW_COUNT_N (c : Nat) : Loc := ⟨A.CTX_RW_COUNT c, 0, 32⟩
/-- `CTX_RW_STEP` (R217). -/
def A.CTX_RW_STEP (c : Nat) : Nat := Page.contextBase c + 0x1f8
def R.CTX_RW_STEP_STEP (c : Nat) : Loc := ⟨A.CTX_RW_STEP c, 0, 32⟩
/-- `CTX_RW_FLAGS` (R217). -/
def A.CTX_RW_FLAGS (c : Nat) : Nat := Page.contextBase c + 0x1fc
def R.CTX_RW_FLAGS_SPIKE (c : Nat) : Loc := ⟨A.CTX_RW_FLAGS c, 0, 1⟩
def R.CTX_RW_FLAGS_NONFINITE (c : Nat) : Loc := ⟨A.CTX_RW_FLAGS c, 1, 1⟩
def R.CTX_RW_FLAGS_NF_LOSS (c : Nat) : Loc := ⟨A.CTX_RW_FLAGS c, 2, 1⟩
def R.CTX_RW_FLAGS_NF_GRAD (c : Nat) : Loc := ⟨A.CTX_RW_FLAGS c, 3, 1⟩
def R.CTX_RW_FLAGS_LOSS_VALID (c : Nat) : Loc := ⟨A.CTX_RW_FLAGS c, 4, 1⟩
def R.CTX_RW_FLAGS_VALID (c : Nat) : Loc := ⟨A.CTX_RW_FLAGS c, 31, 1⟩
/-- `CTX_RW_LOSS` (R217). -/
def A.CTX_RW_LOSS (c : Nat) : Nat := Page.contextBase c + 0x200
def R.CTX_RW_LOSS_LOSS (c : Nat) : Loc := ⟨A.CTX_RW_LOSS c, 0, 32⟩
/-- `CTX_RW_SUMSQ` (R217). -/
def A.CTX_RW_SUMSQ (c : Nat) : Nat := Page.contextBase c + 0x204
def R.CTX_RW_SUMSQ_SUMSQ (c : Nat) : Loc := ⟨A.CTX_RW_SUMSQ c, 0, 32⟩
/-- `CTX_RW_NAN` (R217). -/
def A.CTX_RW_NAN (c : Nat) : Nat := Page.contextBase c + 0x208
def R.CTX_RW_NAN_COUNT (c : Nat) : Loc := ⟨A.CTX_RW_NAN c, 0, 32⟩
/-- `CTX_RW_INF` (R217). -/
def A.CTX_RW_INF (c : Nat) : Nat := Page.contextBase c + 0x20c
def R.CTX_RW_INF_COUNT (c : Nat) : Loc := ⟨A.CTX_RW_INF c, 0, 32⟩
/-- `CTX_RW_SAT` (R217). -/
def A.CTX_RW_SAT (c : Nat) : Nat := Page.contextBase c + 0x210
def R.CTX_RW_SAT_COUNT (c : Nat) : Loc := ⟨A.CTX_RW_SAT c, 0, 32⟩
/-- `CTX_RW_FLUSH` (R217). -/
def A.CTX_RW_FLUSH (c : Nat) : Nat := Page.contextBase c + 0x214
def R.CTX_RW_FLUSH_COUNT (c : Nat) : Loc := ⟨A.CTX_RW_FLUSH c, 0, 32⟩
/-- `CTX_RW_GRADNF` (R217). -/
def A.CTX_RW_GRADNF (c : Nat) : Nat := Page.contextBase c + 0x218
def R.CTX_RW_GRADNF_COUNT (c : Nat) : Loc := ⟨A.CTX_RW_GRADNF c, 0, 32⟩
/-- `CTX_RW_THRESH` (R217). -/
def A.CTX_RW_THRESH (c : Nat) : Nat := Page.contextBase c + 0x21c
def R.CTX_RW_THRESH_THRESH (c : Nat) : Loc := ⟨A.CTX_RW_THRESH c, 0, 32⟩
/-- `CTX_BIND` (R385). -/
def A.CTX_BIND (c : Nat) : Nat := Page.contextBase c + 0x100
def R.CTX_BIND_CLIENT (c : Nat) : Loc := ⟨A.CTX_BIND c, 0, 6⟩
def R.CTX_BIND_VALID (c : Nat) : Loc := ⟨A.CTX_BIND c, 31, 1⟩
/-- `CTX_FMASK` (R385). -/
def A.CTX_FMASK (c : Nat) : Nat := Page.contextBase c + 0x104
def R.CTX_FMASK_MASK (c : Nat) : Loc := ⟨A.CTX_FMASK c, 0, 4⟩
/-- `CTX_STAT` (R385). -/
def A.CTX_STAT (c : Nat) : Nat := Page.contextBase c + 0x108
def R.CTX_STAT_ACTIVE (c : Nat) : Loc := ⟨A.CTX_STAT c, 0, 1⟩
def R.CTX_STAT_REFUSED (c : Nat) : Loc := ⟨A.CTX_STAT c, 1, 1⟩
/-- `CTX_IF_CTRL` (R385). -/
def A.CTX_IF_CTRL (c : Nat) : Nat := Page.contextBase c + 0x110
def R.CTX_IF_CTRL_WINDOW (c : Nat) : Loc := ⟨A.CTX_IF_CTRL c, 0, 10⟩
/-- `CTX_IF_SEQ` (R385). -/
def A.CTX_IF_SEQ (c : Nat) : Nat := Page.contextBase c + 0x114
def R.CTX_IF_SEQ_SEQ (c : Nat) : Loc := ⟨A.CTX_IF_SEQ c, 0, 32⟩
/-- `CTX_IF_SLOW` (R385). -/
def A.CTX_IF_SLOW (c : Nat) : Nat := Page.contextBase c + 0x118
def R.CTX_IF_SLOW_S (c : Nat) : Loc := ⟨A.CTX_IF_SLOW c, 0, 32⟩
/-- `CTX_IF_ACTIVE` (R385). -/
def A.CTX_IF_ACTIVE (c : Nat) : Nat := Page.contextBase c + 0x11c
def R.CTX_IF_ACTIVE_TICKS (c : Nat) : Loc := ⟨A.CTX_IF_ACTIVE c, 0, 32⟩
/-- `CTX_IF_BLOCKED` (R385). -/
def A.CTX_IF_BLOCKED (c : Nat) : Nat := Page.contextBase c + 0x120
def R.CTX_IF_BLOCKED_TICKS (c : Nat) : Loc := ⟨A.CTX_IF_BLOCKED c, 0, 32⟩
/-- `CTX_IF_BISSUE` (R385). -/
def A.CTX_IF_BISSUE (c : Nat) : Nat := Page.contextBase c + 0x124
def R.CTX_IF_BISSUE_TICKS (c : Nat) : Loc := ⟨A.CTX_IF_BISSUE c, 0, 32⟩
/-- `CTX_IF_BHBM` (R385). -/
def A.CTX_IF_BHBM (c : Nat) : Nat := Page.contextBase c + 0x128
def R.CTX_IF_BHBM_TICKS (c : Nat) : Loc := ⟨A.CTX_IF_BHBM c, 0, 32⟩
/-- `CTX_IF_BRING` (R385). -/
def A.CTX_IF_BRING (c : Nat) : Nat := Page.contextBase c + 0x12c
def R.CTX_IF_BRING_TICKS (c : Nat) : Loc := ⟨A.CTX_IF_BRING c, 0, 32⟩
/-- `CTX_IF_BPORT` (R385). -/
def A.CTX_IF_BPORT (c : Nat) : Nat := Page.contextBase c + 0x130
def R.CTX_IF_BPORT_TICKS (c : Nat) : Loc := ⟨A.CTX_IF_BPORT c, 0, 32⟩
/-- `CTX_SLOW` (R385). -/
def A.CTX_SLOW (c : Nat) : Nat := Page.contextBase c + 0x134
def R.CTX_SLOW_S (c : Nat) : Loc := ⟨A.CTX_SLOW c, 0, 32⟩
/-- `CTX_JOBS_LO` (R385). -/
def A.CTX_JOBS_LO (c : Nat) : Nat := Page.contextBase c + 0x138
def R.CTX_JOBS_LO_COUNT (c : Nat) : Loc := ⟨A.CTX_JOBS_LO c, 0, 32⟩
/-- `CTX_JOBS_HI` (R385). -/
def A.CTX_JOBS_HI (c : Nat) : Nat := Page.contextBase c + 0x13c
def R.CTX_JOBS_HI_COUNT (c : Nat) : Loc := ⟨A.CTX_JOBS_HI c, 0, 32⟩
/-- `FLD_SBQ` (R385). -/
def A.FLD_SBQ (c i : Nat) : Nat := Page.contextBase c + 0x140 + 16 * i
def R.FLD_SBQ_BASE (c i : Nat) : Loc := ⟨A.FLD_SBQ c i, 0, 8⟩
def R.FLD_SBQ_SIZE (c i : Nat) : Loc := ⟨A.FLD_SBQ c i, 16, 8⟩
/-- `FLD_ACQ` (R385). -/
def A.FLD_ACQ (c i : Nat) : Nat := Page.contextBase c + 0x144 + 16 * i
def R.FLD_ACQ_BASE (c i : Nat) : Loc := ⟨A.FLD_ACQ c i, 0, 6⟩
def R.FLD_ACQ_COUNT (c i : Nat) : Loc := ⟨A.FLD_ACQ c i, 16, 7⟩
/-- `FLD_GLQ` (R385). -/
def A.FLD_GLQ (c i : Nat) : Nat := Page.contextBase c + 0x148 + 16 * i
def R.FLD_GLQ_BASE (c i : Nat) : Loc := ⟨A.FLD_GLQ c i, 0, 8⟩
def R.FLD_GLQ_SIZE (c i : Nat) : Loc := ⟨A.FLD_GLQ c i, 16, 8⟩
/-- `CTX_SHADOW` (R431). -/
def A.CTX_SHADOW (c : Nat) : Nat := Page.contextBase c + 0x220
def R.CTX_SHADOW_EN (c : Nat) : Loc := ⟨A.CTX_SHADOW c, 0, 1⟩
def R.CTX_SHADOW_K (c : Nat) : Loc := ⟨A.CTX_SHADOW c, 8, 5⟩
/-- `CTX_WD` (R448). -/
def A.CTX_WD (c : Nat) : Nat := Page.contextBase c + 0x224
def R.CTX_WD_STRM (c : Nat) : Loc := ⟨A.CTX_WD c, 0, 16⟩
/-- `CTX_SR_SEED_LO` (R56). -/
def A.CTX_SR_SEED_LO (c : Nat) : Nat := Page.contextBase c + 0x184
def R.CTX_SR_SEED_LO_SEED (c : Nat) : Loc := ⟨A.CTX_SR_SEED_LO c, 0, 32⟩
/-- `CTX_SR_SEED_HI` (R56). -/
def A.CTX_SR_SEED_HI (c : Nat) : Nat := Page.contextBase c + 0x188
def R.CTX_SR_SEED_HI_SEED (c : Nat) : Loc := ⟨A.CTX_SR_SEED_HI c, 0, 32⟩

/-! ### field -/

/-- `FLD_FURMAP` (R84). -/
def A.FLD_FURMAP (f i : Nat) : Nat := Page.fieldBase f + 0x400 + 4 * i
def R.FLD_FURMAP_PHYS (f i : Nat) : Loc := ⟨A.FLD_FURMAP f i, 0, 5⟩
def R.FLD_FURMAP_VACANT (f i : Nat) : Loc := ⟨A.FLD_FURMAP f i, 31, 1⟩
/-- `FLD_SEM_SEL` (R152). -/
def A.FLD_SEM_SEL (f : Nat) : Nat := Page.fieldBase f + 0x500
def R.FLD_SEM_SEL_CTX (f : Nat) : Loc := ⟨A.FLD_SEM_SEL f, 0, 6⟩
/-- `FLD_SEM` (R152). -/
def A.FLD_SEM (f i : Nat) : Nat := Page.fieldBase f + 0x800 + 4 * i
def R.FLD_SEM_VALUE (f i : Nat) : Loc := ⟨A.FLD_SEM f i, 0, 32⟩
/-- `FLD_GAUGE_SH` (R195). -/
def A.FLD_GAUGE_SH (f i : Nat) : Nat := Page.fieldBase f + 0xc00 + 16 * i
def R.FLD_GAUGE_SH_PEAK (f i : Nat) : Loc := ⟨A.FLD_GAUGE_SH f i, 0, 11⟩
def R.FLD_GAUGE_SH_LAST (f i : Nat) : Loc := ⟨A.FLD_GAUGE_SH f i, 16, 11⟩
/-- `FLD_ACTWIN` (R195). -/
def A.FLD_ACTWIN (f i : Nat) : Nat := Page.fieldBase f + 0xc04 + 16 * i
def R.FLD_ACTWIN_BASE (f i : Nat) : Loc := ⟨A.FLD_ACTWIN f i, 0, 9⟩
def R.FLD_ACTWIN_SIZE (f i : Nat) : Loc := ⟨A.FLD_ACTWIN f i, 16, 9⟩
/-- `FLD_GAUGE_HB` (R195). -/
def A.FLD_GAUGE_HB (f i : Nat) : Nat := Page.fieldBase f + 0xc08 + 16 * i
def R.FLD_GAUGE_HB_PEAK (f i : Nat) : Loc := ⟨A.FLD_GAUGE_HB f i, 0, 19⟩
/-- `FLD_GAUGE_HBL` (R195). -/
def A.FLD_GAUGE_HBL (f i : Nat) : Nat := Page.fieldBase f + 0xc0c + 16 * i
def R.FLD_GAUGE_HBL_LAST (f i : Nat) : Loc := ⟨A.FLD_GAUGE_HBL f i, 0, 19⟩
/-- `FLD_SLOW_FUR` (R386). -/
def A.FLD_SLOW_FUR (f : Nat) : Nat := Page.fieldBase f + 0x480
def R.FLD_SLOW_FUR_S (f : Nat) : Loc := ⟨A.FLD_SLOW_FUR f, 0, 32⟩
/-- `FLD_SLOW_PORT` (R386). -/
def A.FLD_SLOW_PORT (f : Nat) : Nat := Page.fieldBase f + 0x484
def R.FLD_SLOW_PORT_S (f : Nat) : Loc := ⟨A.FLD_SLOW_PORT f, 0, 32⟩
/-- `FLD_SHADOW` (R431). -/
def A.FLD_SHADOW (f : Nat) : Nat := Page.fieldBase f + 0x488
def R.FLD_SHADOW_ENGINES (f : Nat) : Loc := ⟨A.FLD_SHADOW f, 0, 2⟩
def R.FLD_SHADOW_KMIN (f : Nat) : Loc := ⟨A.FLD_SHADOW f, 8, 5⟩
/-- `FLD_SHADOW_MIS` (R431). -/
def A.FLD_SHADOW_MIS (f : Nat) : Nat := Page.fieldBase f + 0x48c
def R.FLD_SHADOW_MIS_COUNT (f : Nat) : Loc := ⟨A.FLD_SHADOW_MIS f, 0, 32⟩
/-- `CLK_GATE_FIELD` (R484). -/
def A.CLK_GATE_FIELD (f : Nat) : Nat := Page.fieldBase f + 0x28
def R.CLK_GATE_FIELD_OFF (f : Nat) : Loc := ⟨A.CLK_GATE_FIELD f, 0, 1⟩
def R.CLK_GATE_FIELD_REFUSED (f : Nat) : Loc := ⟨A.CLK_GATE_FIELD f, 31, 1⟩

/-! ### hbm -/

/-- `HBM_CFG` (R173). -/
def A.HBM_CFG (f m : Nat) : Nat := Page.hbmBase f m + 0x100
def R.HBM_CFG_RATE (f m : Nat) : Loc := ⟨A.HBM_CFG f m, 0, 8⟩
def R.HBM_CFG_HEIGHT (f m : Nat) : Loc := ⟨A.HBM_CFG f m, 8, 5⟩
def R.HBM_CFG_SIZE (f m : Nat) : Loc := ⟨A.HBM_CFG f m, 16, 8⟩
/-- `HBM_STAT` (R173). -/
def A.HBM_STAT (f m : Nat) : Nat := Page.hbmBase f m + 0x104
def R.HBM_STAT_STATE (f m : Nat) : Loc := ⟨A.HBM_STAT f m, 0, 2⟩
def R.HBM_STAT_TEMP (f m : Nat) : Loc := ⟨A.HBM_STAT f m, 8, 8⟩
/-- `HBM_QUEUE` (R173). -/
def A.HBM_QUEUE (f m : Nat) : Nat := Page.hbmBase f m + 0x108
def R.HBM_QUEUE_OCC (f m : Nat) : Loc := ⟨A.HBM_QUEUE f m, 0, 10⟩
def R.HBM_QUEUE_PEAK (f m : Nat) : Loc := ⟨A.HBM_QUEUE f m, 16, 10⟩
/-- `HBM_CE_CNT` (R173). -/
def A.HBM_CE_CNT (f m : Nat) : Nat := Page.hbmBase f m + 0x110
def R.HBM_CE_CNT_COUNT (f m : Nat) : Loc := ⟨A.HBM_CE_CNT f m, 0, 32⟩
/-- `HBM_UE_CNT` (R173). -/
def A.HBM_UE_CNT (f m : Nat) : Nat := Page.hbmBase f m + 0x114
def R.HBM_UE_CNT_COUNT (f m : Nat) : Loc := ⟨A.HBM_UE_CNT f m, 0, 32⟩
/-- `HBM_ODECC_CNT` (R173). -/
def A.HBM_ODECC_CNT (f m : Nat) : Nat := Page.hbmBase f m + 0x118
def R.HBM_ODECC_CNT_COUNT (f m : Nat) : Loc := ⟨A.HBM_ODECC_CNT f m, 0, 32⟩
/-- `HBM_UE_ADDR_LO` (R173). -/
def A.HBM_UE_ADDR_LO (f m : Nat) : Nat := Page.hbmBase f m + 0x120
def R.HBM_UE_ADDR_LO_ADDR (f m : Nat) : Loc := ⟨A.HBM_UE_ADDR_LO f m, 0, 32⟩
/-- `HBM_UE_ADDR_HI` (R173). -/
def A.HBM_UE_ADDR_HI (f m : Nat) : Nat := Page.hbmBase f m + 0x124
def R.HBM_UE_ADDR_HI_ADDR (f m : Nat) : Loc := ⟨A.HBM_UE_ADDR_HI f m, 0, 9⟩
/-- `HBM_UE_INFO` (R173). -/
def A.HBM_UE_INFO (f m : Nat) : Nat := Page.hbmBase f m + 0x128
def R.HBM_UE_INFO_CTX (f m : Nat) : Loc := ⟨A.HBM_UE_INFO f m, 0, 6⟩
def R.HBM_UE_INFO_NOCTX (f m : Nat) : Loc := ⟨A.HBM_UE_INFO f m, 6, 1⟩
def R.HBM_UE_INFO_SRC (f m : Nat) : Loc := ⟨A.HBM_UE_INFO f m, 7, 3⟩
def R.HBM_UE_INFO_FURROW (f m : Nat) : Loc := ⟨A.HBM_UE_INFO f m, 10, 5⟩
def R.HBM_UE_INFO_STREAM (f m : Nat) : Loc := ⟨A.HBM_UE_INFO f m, 15, 2⟩
def R.HBM_UE_INFO_FUNC (f m : Nat) : Loc := ⟨A.HBM_UE_INFO f m, 17, 6⟩
def R.HBM_UE_INFO_VALID (f m : Nat) : Loc := ⟨A.HBM_UE_INFO f m, 31, 1⟩
/-- `HBM_UE_STEP` (R173). -/
def A.HBM_UE_STEP (f m : Nat) : Nat := Page.hbmBase f m + 0x12c
def R.HBM_UE_STEP_STEP (f m : Nat) : Loc := ⟨A.HBM_UE_STEP f m, 0, 32⟩
/-- `HBM_SCRUB_CTRL` (R173). -/
def A.HBM_SCRUB_CTRL (f m : Nat) : Nat := Page.hbmBase f m + 0x130
def R.HBM_SCRUB_CTRL_EN (f m : Nat) : Loc := ⟨A.HBM_SCRUB_CTRL f m, 0, 1⟩
def R.HBM_SCRUB_CTRL_PERIOD (f m : Nat) : Loc := ⟨A.HBM_SCRUB_CTRL f m, 8, 8⟩
/-- `HBM_SCRUB_STAT` (R173). -/
def A.HBM_SCRUB_STAT (f m : Nat) : Nat := Page.hbmBase f m + 0x134
def R.HBM_SCRUB_STAT_ROW (f m : Nat) : Loc := ⟨A.HBM_SCRUB_STAT f m, 0, 7⟩
def R.HBM_SCRUB_STAT_PASSES (f m : Nat) : Loc := ⟨A.HBM_SCRUB_STAT f m, 16, 16⟩
/-- `HBM_RD_LO` (R173). -/
def A.HBM_RD_LO (f m : Nat) : Nat := Page.hbmBase f m + 0x140
def R.HBM_RD_LO_COUNT (f m : Nat) : Loc := ⟨A.HBM_RD_LO f m, 0, 32⟩
/-- `HBM_RD_HI` (R173). -/
def A.HBM_RD_HI (f m : Nat) : Nat := Page.hbmBase f m + 0x144
def R.HBM_RD_HI_COUNT (f m : Nat) : Loc := ⟨A.HBM_RD_HI f m, 0, 32⟩
/-- `HBM_WR_LO` (R173). -/
def A.HBM_WR_LO (f m : Nat) : Nat := Page.hbmBase f m + 0x148
def R.HBM_WR_LO_COUNT (f m : Nat) : Loc := ⟨A.HBM_WR_LO f m, 0, 32⟩
/-- `HBM_WR_HI` (R173). -/
def A.HBM_WR_HI (f m : Nat) : Nat := Page.hbmBase f m + 0x14c
def R.HBM_WR_HI_COUNT (f m : Nat) : Loc := ⟨A.HBM_WR_HI f m, 0, 32⟩

/-! ### fieldmem -/

/-- `FLD_MEM_STAT` (R174). -/
def A.FLD_MEM_STAT (f : Nat) : Nat := Page.fieldmemBase f + 0x100
def R.FLD_MEM_STAT_REFUSED (f : Nat) : Loc := ⟨A.FLD_MEM_STAT f, 0, 1⟩
def R.FLD_MEM_STAT_INDEX (f : Nat) : Loc := ⟨A.FLD_MEM_STAT f, 16, 10⟩
/-- `FLD_SHEAF` (R174). -/
def A.FLD_SHEAF (f i : Nat) : Nat := Page.fieldmemBase f + 0x200 + 4 * i
def R.FLD_SHEAF_BASE (f i : Nat) : Loc := ⟨A.FLD_SHEAF f i, 0, 10⟩
def R.FLD_SHEAF_SIZE (f i : Nat) : Loc := ⟨A.FLD_SHEAF f i, 16, 11⟩
/-- `FLD_GRAN` (R174). -/
def A.FLD_GRAN (f i : Nat) : Nat := Page.fieldmemBase f + 0x400 + 4 * i
def R.FLD_GRAN_CTX (f i : Nat) : Loc := ⟨A.FLD_GRAN f i, 0, 6⟩
def R.FLD_GRAN_OWNED (f i : Nat) : Loc := ⟨A.FLD_GRAN f i, 8, 1⟩
def R.FLD_GRAN_CLEARING (f i : Nat) : Loc := ⟨A.FLD_GRAN f i, 9, 1⟩

/-! ### port -/

/-- `MBL_CTRL` (R257). -/
def A.MBL_CTRL (p : Nat) : Nat := Page.portBase p + 0x100
def R.MBL_CTRL_EN (p : Nat) : Loc := ⟨A.MBL_CTRL p, 0, 1⟩
def R.MBL_CTRL_MAXW (p : Nat) : Loc := ⟨A.MBL_CTRL p, 1, 2⟩
def R.MBL_CTRL_RETRAIN (p : Nat) : Loc := ⟨A.MBL_CTRL p, 3, 1⟩
def R.MBL_CTRL_HB_MISS (p : Nat) : Loc := ⟨A.MBL_CTRL p, 8, 8⟩
def R.MBL_CTRL_RETRY_MAX (p : Nat) : Loc := ⟨A.MBL_CTRL p, 16, 8⟩
/-- `MBL_STAT` (R257). -/
def A.MBL_STAT (p : Nat) : Nat := Page.portBase p + 0x104
def R.MBL_STAT_STATE (p : Nat) : Loc := ⟨A.MBL_STAT p, 0, 4⟩
def R.MBL_STAT_WIDTH (p : Nat) : Loc := ⟨A.MBL_STAT p, 4, 2⟩
def R.MBL_STAT_LGROUP (p : Nat) : Loc := ⟨A.MBL_STAT p, 6, 2⟩
def R.MBL_STAT_INIT (p : Nat) : Loc := ⟨A.MBL_STAT p, 8, 1⟩
def R.MBL_STAT_HB_LOST (p : Nat) : Loc := ⟨A.MBL_STAT p, 9, 1⟩
def R.MBL_STAT_REVERSED (p : Nat) : Loc := ⟨A.MBL_STAT p, 10, 1⟩
def R.MBL_STAT_SECURE (p : Nat) : Loc := ⟨A.MBL_STAT p, 30, 1⟩
def R.MBL_STAT_REFUSED (p : Nat) : Loc := ⟨A.MBL_STAT p, 31, 1⟩
/-- `MBL_LANES` (R257). -/
def A.MBL_LANES (p : Nat) : Nat := Page.portBase p + 0x108
def R.MBL_LANES_PASS (p : Nat) : Loc := ⟨A.MBL_LANES p, 0, 16⟩
def R.MBL_LANES_INV (p : Nat) : Loc := ⟨A.MBL_LANES p, 16, 16⟩
/-- `MBL_PARTNER` (R257). -/
def A.MBL_PARTNER (p : Nat) : Nat := Page.portBase p + 0x10c
def R.MBL_PARTNER_DEVID (p : Nat) : Loc := ⟨A.MBL_PARTNER p, 0, 24⟩
def R.MBL_PARTNER_PORT (p : Nat) : Loc := ⟨A.MBL_PARTNER p, 24, 3⟩
def R.MBL_PARTNER_VALID (p : Nat) : Loc := ⟨A.MBL_PARTNER p, 31, 1⟩
/-- `MBL_SEEN` (R257). -/
def A.MBL_SEEN (p : Nat) : Nat := Page.portBase p + 0x110
def R.MBL_SEEN_DEVID (p : Nat) : Loc := ⟨A.MBL_SEEN p, 0, 24⟩
def R.MBL_SEEN_PORT (p : Nat) : Loc := ⟨A.MBL_SEEN p, 24, 3⟩
def R.MBL_SEEN_VALID (p : Nat) : Loc := ⟨A.MBL_SEEN p, 31, 1⟩
/-- `MBL_LINKDLY` (R257). -/
def A.MBL_LINKDLY (p : Nat) : Nat := Page.portBase p + 0x114
def R.MBL_LINKDLY_NS (p : Nat) : Loc := ⟨A.MBL_LINKDLY p, 0, 16⟩
/-- `MBL_SECCTRL` (R257). -/
def A.MBL_SECCTRL (p : Nat) : Nat := Page.portBase p + 0x118
def R.MBL_SECCTRL_PIN (p : Nat) : Loc := ⟨A.MBL_SECCTRL p, 0, 1⟩
/-- `MBL_RXALLOC` (R257). -/
def A.MBL_RXALLOC (p i : Nat) : Nat := Page.portBase p + 0x120 + 4 * i
def R.MBL_RXALLOC_VC0 (p i : Nat) : Loc := ⟨A.MBL_RXALLOC p i, 0, 16⟩
def R.MBL_RXALLOC_VC1 (p i : Nat) : Loc := ⟨A.MBL_RXALLOC p i, 16, 16⟩
/-- `MBL_RETRY_CNT` (R257). -/
def A.MBL_RETRY_CNT (p : Nat) : Nat := Page.portBase p + 0x130
def R.MBL_RETRY_CNT_COUNT (p : Nat) : Loc := ⟨A.MBL_RETRY_CNT p, 0, 32⟩
/-- `MBL_RETRAIN_CNT` (R257). -/
def A.MBL_RETRAIN_CNT (p : Nat) : Nat := Page.portBase p + 0x134
def R.MBL_RETRAIN_CNT_COUNT (p : Nat) : Loc := ⟨A.MBL_RETRAIN_CNT p, 0, 32⟩
/-- `MBL_FEC_CORR` (R257). -/
def A.MBL_FEC_CORR (p : Nat) : Nat := Page.portBase p + 0x138
def R.MBL_FEC_CORR_COUNT (p : Nat) : Loc := ⟨A.MBL_FEC_CORR p, 0, 32⟩
/-- `MBL_FEC_UNC` (R257). -/
def A.MBL_FEC_UNC (p : Nat) : Nat := Page.portBase p + 0x13c
def R.MBL_FEC_UNC_COUNT (p : Nat) : Loc := ⟨A.MBL_FEC_UNC p, 0, 32⟩
/-- `MBL_DROP_CNT` (R257). -/
def A.MBL_DROP_CNT (p : Nat) : Nat := Page.portBase p + 0x140
def R.MBL_DROP_CNT_COUNT (p : Nat) : Loc := ⟨A.MBL_DROP_CNT p, 0, 32⟩
/-- `MBL_DROP_INFO` (R257). -/
def A.MBL_DROP_INFO (p : Nat) : Nat := Page.portBase p + 0x144
def R.MBL_DROP_INFO_CAUSE (p : Nat) : Loc := ⟨A.MBL_DROP_INFO p, 0, 3⟩
def R.MBL_DROP_INFO_PTYPE (p : Nat) : Loc := ⟨A.MBL_DROP_INFO p, 3, 4⟩
def R.MBL_DROP_INFO_TC (p : Nat) : Loc := ⟨A.MBL_DROP_INFO p, 7, 2⟩
def R.MBL_DROP_INFO_VALID (p : Nat) : Loc := ⟨A.MBL_DROP_INFO p, 31, 1⟩
/-- `MBL_DROP_SRC` (R257). -/
def A.MBL_DROP_SRC (p : Nat) : Nat := Page.portBase p + 0x148
def R.MBL_DROP_SRC_SRC (p : Nat) : Loc := ⟨A.MBL_DROP_SRC p, 0, 24⟩
/-- `MBL_DROP_DST` (R257). -/
def A.MBL_DROP_DST (p : Nat) : Nat := Page.portBase p + 0x14c
def R.MBL_DROP_DST_DST (p : Nat) : Loc := ⟨A.MBL_DROP_DST p, 0, 24⟩
/-- `MBL_ABORT_CNT` (R257). -/
def A.MBL_ABORT_CNT (p : Nat) : Nat := Page.portBase p + 0x150
def R.MBL_ABORT_CNT_COUNT (p : Nat) : Loc := ⟨A.MBL_ABORT_CNT p, 0, 32⟩
/-- `MBL_HB_RX` (R257). -/
def A.MBL_HB_RX (p : Nat) : Nat := Page.portBase p + 0x154
def R.MBL_HB_RX_NUMBER (p : Nat) : Loc := ⟨A.MBL_HB_RX p, 0, 32⟩
/-- `MBL_TX_LO` (R257). -/
def A.MBL_TX_LO (p : Nat) : Nat := Page.portBase p + 0x158
def R.MBL_TX_LO_COUNT (p : Nat) : Loc := ⟨A.MBL_TX_LO p, 0, 32⟩
/-- `MBL_TX_HI` (R257). -/
def A.MBL_TX_HI (p : Nat) : Nat := Page.portBase p + 0x15c
def R.MBL_TX_HI_COUNT (p : Nat) : Loc := ⟨A.MBL_TX_HI p, 0, 32⟩
/-- `MBL_RX_LO` (R257). -/
def A.MBL_RX_LO (p : Nat) : Nat := Page.portBase p + 0x160
def R.MBL_RX_LO_COUNT (p : Nat) : Loc := ⟨A.MBL_RX_LO p, 0, 32⟩
/-- `MBL_RX_HI` (R257). -/
def A.MBL_RX_HI (p : Nat) : Nat := Page.portBase p + 0x164
def R.MBL_RX_HI_COUNT (p : Nat) : Loc := ⟨A.MBL_RX_HI p, 0, 32⟩
/-- `MBL_PEERHASH` (R257). -/
def A.MBL_PEERHASH (p i : Nat) : Nat := Page.portBase p + 0x180 + 4 * i
def R.MBL_PEERHASH_HASH (p i : Nat) : Loc := ⟨A.MBL_PEERHASH p i, 0, 32⟩

/-! ### colleng -/

/-- `COL_CTRL` (R283). -/
def A.COL_CTRL (f : Nat) : Nat := Page.collengBase f + 0x100
def R.COL_CTRL_TIMEOUT (f : Nat) : Loc := ⟨A.COL_CTRL f, 0, 16⟩
/-- `COL_STAT` (R283). -/
def A.COL_STAT (f : Nat) : Nat := Page.collengBase f + 0x104
def R.COL_STAT_OPS (f : Nat) : Loc := ⟨A.COL_STAT f, 0, 7⟩
/-- `COL_ADDS_LO` (R283). -/
def A.COL_ADDS_LO (f : Nat) : Nat := Page.collengBase f + 0x108
def R.COL_ADDS_LO_COUNT (f : Nat) : Loc := ⟨A.COL_ADDS_LO f, 0, 32⟩
/-- `COL_ADDS_HI` (R283). -/
def A.COL_ADDS_HI (f : Nat) : Nat := Page.collengBase f + 0x10c
def R.COL_ADDS_HI_COUNT (f : Nat) : Loc := ⟨A.COL_ADDS_HI f, 0, 32⟩
/-- `COL_RXDROP` (R283). -/
def A.COL_RXDROP (f : Nat) : Nat := Page.collengBase f + 0x110
def R.COL_RXDROP_COUNT (f : Nat) : Loc := ⟨A.COL_RXDROP f, 0, 32⟩
/-- `COL_DROP_INFO` (R283). -/
def A.COL_DROP_INFO (f : Nat) : Nat := Page.collengBase f + 0x114
def R.COL_DROP_INFO_CAUSE (f : Nat) : Loc := ⟨A.COL_DROP_INFO f, 0, 3⟩
def R.COL_DROP_INFO_PTYPE (f : Nat) : Loc := ⟨A.COL_DROP_INFO f, 8, 4⟩
def R.COL_DROP_INFO_DCTX (f : Nat) : Loc := ⟨A.COL_DROP_INFO f, 12, 6⟩
def R.COL_DROP_INFO_VALID (f : Nat) : Loc := ⟨A.COL_DROP_INFO f, 31, 1⟩
/-- `COL_DROP_SRC` (R283). -/
def A.COL_DROP_SRC (f : Nat) : Nat := Page.collengBase f + 0x118
def R.COL_DROP_SRC_SRC (f : Nat) : Loc := ⟨A.COL_DROP_SRC f, 0, 24⟩
/-- `COL_DROP_STEP` (R283). -/
def A.COL_DROP_STEP (f : Nat) : Nat := Page.collengBase f + 0x11c
def R.COL_DROP_STEP_STEP (f : Nat) : Loc := ⟨A.COL_DROP_STEP f, 0, 32⟩
/-- `COL_OPFAIL_CNT` (R283). -/
def A.COL_OPFAIL_CNT (f : Nat) : Nat := Page.collengBase f + 0x120
def R.COL_OPFAIL_CNT_COUNT (f : Nat) : Loc := ⟨A.COL_OPFAIL_CNT f, 0, 32⟩
/-- `COL_OPFAIL_INFO` (R283). -/
def A.COL_OPFAIL_INFO (f : Nat) : Nat := Page.collengBase f + 0x124
def R.COL_OPFAIL_INFO_STATUS (f : Nat) : Loc := ⟨A.COL_OPFAIL_INFO f, 0, 8⟩
def R.COL_OPFAIL_INFO_CTX (f : Nat) : Loc := ⟨A.COL_OPFAIL_INFO f, 8, 6⟩
def R.COL_OPFAIL_INFO_VALID (f : Nat) : Loc := ⟨A.COL_OPFAIL_INFO f, 31, 1⟩
/-- `COL_OPFAIL_OPID` (R283). -/
def A.COL_OPFAIL_OPID (f : Nat) : Nat := Page.collengBase f + 0x128
def R.COL_OPFAIL_OPID_OPID (f : Nat) : Loc := ⟨A.COL_OPFAIL_OPID f, 0, 32⟩
/-- `COL_MIRFAIL` (R283). -/
def A.COL_MIRFAIL (f : Nat) : Nat := Page.collengBase f + 0x12c
def R.COL_MIRFAIL_COUNT (f : Nat) : Loc := ⟨A.COL_MIRFAIL f, 0, 32⟩
/-- `COL_CTX` (R284). -/
def A.COL_CTX (f i : Nat) : Nat := Page.collengBase f + 0x400 + 16 * i
def R.COL_CTX_RUN (f i : Nat) : Loc := ⟨A.COL_CTX f i, 0, 8⟩
def R.COL_CTX_WRITE_EN (f i : Nat) : Loc := ⟨A.COL_CTX f i, 8, 1⟩
/-- `COL_EARLY_LO` (R284). -/
def A.COL_EARLY_LO (f i : Nat) : Nat := Page.collengBase f + 0x404 + 16 * i
def R.COL_EARLY_LO_ADDR (f i : Nat) : Loc := ⟨A.COL_EARLY_LO f i, 0, 32⟩
/-- `COL_EARLY_HI` (R284). -/
def A.COL_EARLY_HI (f i : Nat) : Nat := Page.collengBase f + 0x408 + 16 * i
def R.COL_EARLY_HI_ADDR (f i : Nat) : Loc := ⟨A.COL_EARLY_HI f i, 0, 9⟩
def R.COL_EARLY_HI_SIZE (f i : Nat) : Loc := ⟨A.COL_EARLY_HI f i, 16, 16⟩
/-- `COL_EARLY_OCC` (R284). -/
def A.COL_EARLY_OCC (f i : Nat) : Nat := Page.collengBase f + 0x40c + 16 * i
def R.COL_EARLY_OCC_OCC (f i : Nat) : Loc := ⟨A.COL_EARLY_OCC f i, 0, 16⟩
def R.COL_EARLY_OCC_PEAK (f i : Nat) : Loc := ⟨A.COL_EARLY_OCC f i, 16, 16⟩

/-! ### furrow -/

/-- `FUR_MAP` (R83). -/
def A.FUR_MAP (f n : Nat) : Nat := Page.furrowBase f n + 0x100
def R.FUR_MAP_LOGICAL (f n : Nat) : Loc := ⟨A.FUR_MAP f n, 0, 5⟩
def R.FUR_MAP_STATE (f n : Nat) : Loc := ⟨A.FUR_MAP f n, 8, 2⟩
/-- `FUR_CHK_CTRL` (R83). -/
def A.FUR_CHK_CTRL (f n : Nat) : Nat := Page.furrowBase f n + 0x110
def R.FUR_CHK_CTRL_TOL_MULT (f n : Nat) : Loc := ⟨A.FUR_CHK_CTRL f n, 0, 4⟩
/-- `FUR_CHK_FAILS` (R83). -/
def A.FUR_CHK_FAILS (f n : Nat) : Nat := Page.furrowBase f n + 0x114
def R.FUR_CHK_FAILS_COUNT (f n : Nat) : Loc := ⟨A.FUR_CHK_FAILS f n, 0, 32⟩
/-- `FUR_CHK_FIRST` (R83). -/
def A.FUR_CHK_FIRST (f n : Nat) : Nat := Page.furrowBase f n + 0x118
def R.FUR_CHK_FIRST_SLOT (f n : Nat) : Loc := ⟨A.FUR_CHK_FIRST f n, 0, 6⟩
def R.FUR_CHK_FIRST_ROW (f n : Nat) : Loc := ⟨A.FUR_CHK_FIRST f n, 6, 5⟩
def R.FUR_CHK_FIRST_GROUP (f n : Nat) : Loc := ⟨A.FUR_CHK_FIRST f n, 11, 2⟩
def R.FUR_CHK_FIRST_THIN (f n : Nat) : Loc := ⟨A.FUR_CHK_FIRST f n, 13, 1⟩
def R.FUR_CHK_FIRST_CTX (f n : Nat) : Loc := ⟨A.FUR_CHK_FIRST f n, 16, 6⟩
def R.FUR_CHK_FIRST_VALID (f n : Nat) : Loc := ⟨A.FUR_CHK_FIRST f n, 31, 1⟩
/-- `FUR_CHK_STEP` (R83). -/
def A.FUR_CHK_STEP (f n : Nat) : Nat := Page.furrowBase f n + 0x11c
def R.FUR_CHK_STEP_STEP (f n : Nat) : Loc := ⟨A.FUR_CHK_STEP f n, 0, 32⟩
/-- `FUR_FEED_STALL` (R83). -/
def A.FUR_FEED_STALL (f n i : Nat) : Nat := Page.furrowBase f n + 0x120 + 4 * i
def R.FUR_FEED_STALL_CYCLES (f n i : Nat) : Loc := ⟨A.FUR_FEED_STALL f n i, 0, 32⟩
/-- `FUR_DRAIN_STALL` (R83). -/
def A.FUR_DRAIN_STALL (f n : Nat) : Nat := Page.furrowBase f n + 0x130
def R.FUR_DRAIN_STALL_CYCLES (f n : Nat) : Loc := ⟨A.FUR_DRAIN_STALL f n, 0, 32⟩
/-- `FUR_ARRAY_STAT` (R83). -/
def A.FUR_ARRAY_STAT (f n : Nat) : Nat := Page.furrowBase f n + 0x134
def R.FUR_ARRAY_STAT_MMA_BUSY (f n : Nat) : Loc := ⟨A.FUR_ARRAY_STAT f n, 0, 4⟩
def R.FUR_ARRAY_STAT_EW_BUSY (f n : Nat) : Loc := ⟨A.FUR_ARRAY_STAT f n, 4, 4⟩
def R.FUR_ARRAY_STAT_THIN (f n : Nat) : Loc := ⟨A.FUR_ARRAY_STAT f n, 8, 1⟩
/-- `FUR_ACC_OVF_LO` (R106). -/
def A.FUR_ACC_OVF_LO (f n : Nat) : Nat := Page.furrowBase f n + 0x140
def R.FUR_ACC_OVF_LO_SLOT (f n : Nat) : Loc := ⟨A.FUR_ACC_OVF_LO f n, 0, 32⟩
/-- `FUR_ACC_OVF_HI` (R106). -/
def A.FUR_ACC_OVF_HI (f n : Nat) : Nat := Page.furrowBase f n + 0x144
def R.FUR_ACC_OVF_HI_SLOT (f n : Nat) : Loc := ⟨A.FUR_ACC_OVF_HI f n, 0, 32⟩
/-- `FUR_DRN_COUNT` (R106). -/
def A.FUR_DRN_COUNT (f n : Nat) : Nat := Page.furrowBase f n + 0x148
def R.FUR_DRN_COUNT_COUNT (f n : Nat) : Loc := ⟨A.FUR_DRN_COUNT f n, 0, 32⟩
/-- `FUR_DRN_SKIP` (R106). -/
def A.FUR_DRN_SKIP (f n : Nat) : Nat := Page.furrowBase f n + 0x14c
def R.FUR_DRN_SKIP_COUNT (f n : Nat) : Loc := ⟨A.FUR_DRN_SKIP f n, 0, 32⟩
/-- `FUR_STRM_PC_LO` (R150). -/
def A.FUR_STRM_PC_LO (f n i : Nat) : Nat := Page.furrowBase f n + 0x400 + 16 * i
def R.FUR_STRM_PC_LO_ADDR (f n i : Nat) : Loc := ⟨A.FUR_STRM_PC_LO f n i, 0, 32⟩
/-- `FUR_STRM_PC_HI` (R150). -/
def A.FUR_STRM_PC_HI (f n i : Nat) : Nat := Page.furrowBase f n + 0x404 + 16 * i
def R.FUR_STRM_PC_HI_ADDR (f n i : Nat) : Loc := ⟨A.FUR_STRM_PC_HI f n i, 0, 9⟩
/-- `FUR_STRM_STAT` (R150). -/
def A.FUR_STRM_STAT (f n i : Nat) : Nat := Page.furrowBase f n + 0x408 + 16 * i
def R.FUR_STRM_STAT_STATE (f n i : Nat) : Loc := ⟨A.FUR_STRM_STAT f n i, 0, 2⟩
def R.FUR_STRM_STAT_WAIT (f n i : Nat) : Loc := ⟨A.FUR_STRM_STAT f n i, 2, 3⟩
def R.FUR_STRM_STAT_SEM (f n i : Nat) : Loc := ⟨A.FUR_STRM_STAT f n i, 8, 8⟩
def R.FUR_STRM_STAT_XFER (f n i : Nat) : Loc := ⟨A.FUR_STRM_STAT f n i, 16, 4⟩
def R.FUR_STRM_STAT_STEPPED (f n i : Nat) : Loc := ⟨A.FUR_STRM_STAT f n i, 20, 1⟩
/-- `FUR_STRM_ERR` (R150). -/
def A.FUR_STRM_ERR (f n i : Nat) : Nat := Page.furrowBase f n + 0x40c + 16 * i
def R.FUR_STRM_ERR_CAUSE (f n i : Nat) : Loc := ⟨A.FUR_STRM_ERR f n i, 0, 4⟩
def R.FUR_STRM_ERR_OPCODE (f n i : Nat) : Loc := ⟨A.FUR_STRM_ERR f n i, 4, 8⟩
def R.FUR_STRM_ERR_VALID (f n i : Nat) : Loc := ⟨A.FUR_STRM_ERR f n i, 31, 1⟩
/-- `FUR_ISSUED` (R151). -/
def A.FUR_ISSUED (f n : Nat) : Nat := Page.furrowBase f n + 0x150
def R.FUR_ISSUED_COUNT (f n : Nat) : Loc := ⟨A.FUR_ISSUED f n, 0, 32⟩
/-- `FUR_SLOW` (R386). -/
def A.FUR_SLOW (f n : Nat) : Nat := Page.furrowBase f n + 0x154
def R.FUR_SLOW_S (f n : Nat) : Loc := ⟨A.FUR_SLOW f n, 0, 32⟩
/-- `FUR_XCHK_CNT` (R431). -/
def A.FUR_XCHK_CNT (f n : Nat) : Nat := Page.furrowBase f n + 0x158
def R.FUR_XCHK_CNT_COUNT (f n : Nat) : Loc := ⟨A.FUR_XCHK_CNT f n, 0, 32⟩
/-- `CLK_GATE_FURROW` (R484). -/
def A.CLK_GATE_FURROW (f n : Nat) : Nat := Page.furrowBase f n + 0x28
def R.CLK_GATE_FURROW_OFF (f n : Nat) : Loc := ⟨A.CLK_GATE_FURROW f n, 0, 1⟩
def R.CLK_GATE_FURROW_AOFF (f n : Nat) : Loc := ⟨A.CLK_GATE_FURROW f n, 4, 4⟩
def R.CLK_GATE_FURROW_REFUSED (f n : Nat) : Loc := ⟨A.CLK_GATE_FURROW f n, 31, 1⟩

/-! ### doorbell -/

/-- `QM_QCFG` (R373). -/
def A.QM_QCFG (q : Nat) : Nat := Page.doorbellBase q + 0x100
def R.QM_QCFG_EN (q : Nat) : Loc := ⟨A.QM_QCFG q, 0, 1⟩
def R.QM_QCFG_LOC (q : Nat) : Loc := ⟨A.QM_QCFG q, 1, 1⟩
def R.QM_QCFG_LOGSZ (q : Nat) : Loc := ⟨A.QM_QCFG q, 8, 4⟩
def R.QM_QCFG_IRQALL (q : Nat) : Loc := ⟨A.QM_QCFG q, 12, 1⟩
def R.QM_QCFG_VEC (q : Nat) : Loc := ⟨A.QM_QCFG q, 16, 11⟩
/-- `QM_QBASE_LO` (R373). -/
def A.QM_QBASE_LO (q : Nat) : Nat := Page.doorbellBase q + 0x104
def R.QM_QBASE_LO_ADDR (q : Nat) : Loc := ⟨A.QM_QBASE_LO q, 0, 32⟩
/-- `QM_QBASE_HI` (R373). -/
def A.QM_QBASE_HI (q : Nat) : Nat := Page.doorbellBase q + 0x108
def R.QM_QBASE_HI_ADDR (q : Nat) : Loc := ⟨A.QM_QBASE_HI q, 0, 32⟩
/-- `QM_QCBASE_LO` (R373). -/
def A.QM_QCBASE_LO (q : Nat) : Nat := Page.doorbellBase q + 0x10c
def R.QM_QCBASE_LO_ADDR (q : Nat) : Loc := ⟨A.QM_QCBASE_LO q, 0, 32⟩
/-- `QM_QCBASE_HI` (R373). -/
def A.QM_QCBASE_HI (q : Nat) : Nat := Page.doorbellBase q + 0x110
def R.QM_QCBASE_HI_ADDR (q : Nat) : Loc := ⟨A.QM_QCBASE_HI q, 0, 32⟩
/-- `QM_QSTAT` (R373). -/
def A.QM_QSTAT (q : Nat) : Nat := Page.doorbellBase q + 0x114
def R.QM_QSTAT_STATE (q : Nat) : Loc := ⟨A.QM_QSTAT q, 0, 2⟩
def R.QM_QSTAT_CAUSE (q : Nat) : Loc := ⟨A.QM_QSTAT q, 2, 3⟩
def R.QM_QSTAT_REFUSED (q : Nat) : Loc := ⟨A.QM_QSTAT q, 31, 1⟩
/-- `QM_QDB` (R373). -/
def A.QM_QDB (q : Nat) : Nat := Page.doorbellBase q + 0x118
def R.QM_QDB_COUNT (q : Nat) : Loc := ⟨A.QM_QDB q, 0, 32⟩
/-- `QM_QSTART` (R373). -/
def A.QM_QSTART (q : Nat) : Nat := Page.doorbellBase q + 0x11c
def R.QM_QSTART_COUNT (q : Nat) : Loc := ⟨A.QM_QSTART q, 0, 32⟩
/-- `QM_QDONE` (R373). -/
def A.QM_QDONE (q : Nat) : Nat := Page.doorbellBase q + 0x120
def R.QM_QDONE_COUNT (q : Nat) : Loc := ⟨A.QM_QDONE q, 0, 32⟩
/-- `QM_QBINDV` (R373). -/
def A.QM_QBINDV (q : Nat) : Nat := Page.doorbellBase q + 0x124
def R.QM_QBINDV_FUNC (q : Nat) : Loc := ⟨A.QM_QBINDV q, 0, 6⟩
def R.QM_QBINDV_CTX (q : Nat) : Loc := ⟨A.QM_QBINDV q, 8, 6⟩
def R.QM_QBINDV_CLASS (q : Nat) : Loc := ⟨A.QM_QBINDV q, 16, 3⟩
/-- `QM_QWD` (R448). -/
def A.QM_QWD (q : Nat) : Nat := Page.doorbellBase q + 0x128
def R.QM_QWD_MS (q : Nat) : Loc := ⟨A.QM_QWD q, 0, 16⟩

/-! ### Field tables -/

/-- Fields of the common page defined by R387. -/
def rows_common_R387 : List FieldRow := [
  ⟨0x10, 0, 1, 0, 32, .w1c, 0, .any⟩,
  ⟨0x14, 0, 1, 0, 32, .rw, 0, .any⟩,
  ⟨0x18, 0, 1, 0, 32, .w1s, 0, .any⟩,
  ⟨0x1c, 0, 1, 0, 32, .rw, 0, .any⟩,
  ⟨0x20, 0, 1, 0, 32, .rw, 0, .any⟩,
  ⟨0x24, 0, 1, 0, 5, .ro, 0, .any⟩,
  ⟨0x24, 0, 1, 31, 1, .w1c, 0, .any⟩]

/-- Every field of the common page at the offsets R546 lists. -/
def rows_common : List FieldRow := rows_common_R387

/-- Fields of the steading page defined by R540. -/
def rows_steading_R540 : List FieldRow := [
  ⟨0x100, 0, 1, 0, 5, .ro, 0, .any⟩,
  ⟨0x104, 0, 1, 0, 1, .ro, 0, .any⟩,
  ⟨0x104, 0, 1, 1, 1, .ro, 0, .any⟩,
  ⟨0x104, 0, 1, 2, 1, .ro, 0, .any⟩,
  ⟨0x104, 0, 1, 3, 1, .ro, 0, .any⟩,
  ⟨0x104, 0, 1, 4, 1, .ro, 0, .any⟩,
  ⟨0x108, 0, 1, 0, 16, .ro, 8342, .any⟩,
  ⟨0x108, 0, 1, 16, 8, .ro, 176, .any⟩,
  ⟨0x10c, 0, 1, 0, 32, .rc, 0, .any⟩]

/-- Every field of the steading page at the offsets R546 lists. -/
def rows_steading : List FieldRow := rows_steading_R540

/-- Fields of the hostif page defined by R371. -/
def rows_hostif_R371 : List FieldRow := [
  ⟨0x100, 0, 1, 0, 3, .ro, 0, .any⟩,
  ⟨0x100, 0, 1, 3, 5, .ro, 0, .any⟩,
  ⟨0x100, 0, 1, 8, 1, .ro, 0, .any⟩,
  ⟨0x100, 0, 1, 9, 1, .ro, 0, .any⟩,
  ⟨0x110, 0, 1, 0, 32, .rc, 0, .any⟩,
  ⟨0x114, 0, 1, 0, 6, .ro, 0, .any⟩,
  ⟨0x114, 0, 1, 6, 1, .ro, 0, .any⟩,
  ⟨0x114, 0, 1, 7, 1, .ro, 0, .any⟩,
  ⟨0x114, 0, 1, 8, 3, .ro, 0, .any⟩,
  ⟨0x114, 0, 1, 31, 1, .w1c, 0, .any⟩,
  ⟨0x118, 0, 1, 0, 32, .ro, 0, .any⟩,
  ⟨0x11c, 0, 1, 0, 9, .ro, 0, .any⟩,
  ⟨0x400, 8, 64, 0, 32, .rw, 0, .any⟩,
  ⟨0x404, 8, 64, 0, 9, .rw, 0, .any⟩,
  ⟨0x800, 8, 64, 0, 11, .rw, 1, .any⟩,
  ⟨0x800, 8, 64, 16, 1, .rw, 0, .any⟩,
  ⟨0x800, 8, 64, 17, 1, .rw, 0, .any⟩,
  ⟨0x800, 8, 64, 18, 1, .rw, 0, .any⟩,
  ⟨0x800, 8, 64, 19, 1, .rw, 0, .any⟩,
  ⟨0x804, 8, 64, 0, 4, .w1c, 0, .any⟩]

/-- Fields of the hostif page defined by R386. -/
def rows_hostif_R386 : List FieldRow := [
  ⟨0xa00, 8, 64, 0, 32, .ro, 0, .any⟩,
  ⟨0xa04, 8, 64, 0, 32, .ro, 0, .any⟩]

/-- Every field of the hostif page at the offsets R546 lists. -/
def rows_hostif : List FieldRow := rows_hostif_R371 ++ rows_hostif_R386

/-- Fields of the qm page defined by R372. -/
def rows_qm_R372 : List FieldRow := [
  ⟨0x100, 0, 1, 0, 13, .rw, 0, .any⟩,
  ⟨0x104, 0, 1, 0, 6, .rw, 0, .any⟩,
  ⟨0x104, 0, 1, 8, 6, .rw, 0, .any⟩,
  ⟨0x104, 0, 1, 16, 3, .rw, 0, .range 0 4⟩,
  ⟨0x108, 0, 1, 0, 1, .w1c, 0, .any⟩,
  ⟨0x10c, 0, 1, 0, 13, .ro, 0, .any⟩,
  ⟨0x10c, 0, 1, 31, 1, .w1c, 0, .any⟩]

/-- Every field of the qm page at the offsets R546 lists. -/
def rows_qm : List FieldRow := rows_qm_R372

/-- Fields of the collector page defined by R405. -/
def rows_collector_R405 : List FieldRow := [
  ⟨0x100, 0, 1, 0, 1, .rw, 1, .any⟩,
  ⟨0x100, 0, 1, 16, 11, .rw, 1, .any⟩,
  ⟨0x104, 0, 1, 0, 16, .rw, 10000, .range 1 65000⟩,
  ⟨0x108, 0, 1, 0, 1, .ro, 0, .any⟩,
  ⟨0x108, 0, 1, 1, 1, .ro, 0, .any⟩,
  ⟨0x108, 0, 1, 2, 1, .ro, 0, .any⟩,
  ⟨0x108, 0, 1, 3, 1, .w1c, 0, .any⟩,
  ⟨0x108, 0, 1, 4, 1, .ro, 0, .any⟩,
  ⟨0x108, 0, 1, 5, 1, .ro, 0, .any⟩,
  ⟨0x10c, 0, 1, 0, 32, .ro, 0, .any⟩,
  ⟨0x110, 0, 1, 0, 32, .rw, 0, .any⟩,
  ⟨0x114, 0, 1, 0, 32, .rw, 0, .any⟩,
  ⟨0x118, 0, 1, 0, 32, .rw, 0, .any⟩,
  ⟨0x11c, 0, 1, 0, 4, .w1c, 0, .any⟩,
  ⟨0x120, 0, 1, 0, 4, .rw, 3, .any⟩,
  ⟨0x124, 0, 1, 0, 16, .ro, 0, .any⟩,
  ⟨0x128, 0, 1, 0, 16, .rw, 0, .any⟩,
  ⟨0x12c, 0, 1, 0, 32, .rw, 0, .any⟩,
  ⟨0x130, 0, 1, 0, 15, .ro, 0, .any⟩,
  ⟨0x130, 0, 1, 15, 5, .ro, 0, .any⟩,
  ⟨0x130, 0, 1, 20, 1, .ro, 0, .any⟩,
  ⟨0x130, 0, 1, 31, 1, .w1c, 0, .any⟩,
  ⟨0x134, 0, 1, 0, 32, .rw, 0, .any⟩,
  ⟨0x140, 0, 1, 0, 15, .rw, 0, .any⟩,
  ⟨0x140, 0, 1, 15, 5, .rw, 0, .any⟩,
  ⟨0x140, 0, 1, 31, 1, .w1s, 0, .any⟩]

/-- Every field of the collector page at the offsets R546 lists. -/
def rows_collector : List FieldRow := rows_collector_R405

/-- Fields of the almanac page defined by R429. -/
def rows_almanac_R429 : List FieldRow := [
  ⟨0x100, 0, 1, 0, 1, .rw, 1, .any⟩,
  ⟨0x100, 0, 1, 4, 12, .rw, 60, .range 1 3600⟩,
  ⟨0x100, 0, 1, 16, 8, .rw, 30, .range 1 255⟩,
  ⟨0x104, 0, 1, 0, 9, .ro, 0, .any⟩,
  ⟨0x104, 0, 1, 16, 1, .ro, 0, .any⟩,
  ⟨0x108, 0, 1, 0, 32, .rc, 0, .any⟩,
  ⟨0x10c, 0, 1, 0, 32, .ro, 0, .any⟩,
  ⟨0x120, 4, 8, 0, 32, .ro, 0, .any⟩,
  ⟨0x140, 0, 1, 0, 3, .rw, 0, .any⟩,
  ⟨0x140, 0, 1, 8, 16, .rw, 0, .any⟩,
  ⟨0x140, 0, 1, 31, 1, .ro, 0, .any⟩,
  ⟨0x144, 0, 1, 0, 15, .rw, 0, .any⟩,
  ⟨0x144, 0, 1, 15, 5, .rw, 0, .any⟩,
  ⟨0x144, 0, 1, 31, 1, .ro, 0, .any⟩,
  ⟨0x148, 0, 1, 0, 2, .ro, 0, .any⟩,
  ⟨0x148, 0, 1, 8, 8, .ro, 0, .any⟩,
  ⟨0x148, 0, 1, 16, 1, .ro, 0, .any⟩,
  ⟨0x148, 0, 1, 17, 1, .ro, 0, .any⟩,
  ⟨0x180, 4, 16, 0, 32, .ro, 0, .any⟩]

/-- Fields of the almanac page defined by R430. -/
def rows_almanac_R430 : List FieldRow := [
  ⟨0x400, 64, 4, 0, 1, .w1s, 0, .any⟩,
  ⟨0x400, 64, 4, 1, 1, .w1s, 0, .any⟩,
  ⟨0x400, 64, 4, 2, 1, .rw, 0, .any⟩,
  ⟨0x400, 64, 4, 4, 5, .rw, 0, .any⟩,
  ⟨0x400, 64, 4, 9, 5, .rw, 1, .any⟩,
  ⟨0x400, 64, 4, 14, 5, .rw, 31, .any⟩,
  ⟨0x400, 64, 4, 24, 4, .rw, 2, .any⟩,
  ⟨0x400, 64, 4, 28, 4, .rw, 2, .any⟩,
  ⟨0x404, 64, 4, 0, 9, .rw, 16, .range 1 256⟩,
  ⟨0x404, 64, 4, 16, 8, .rw, 0, .any⟩,
  ⟨0x404, 64, 4, 24, 8, .rw, 0, .any⟩,
  ⟨0x408, 64, 4, 0, 32, .rw, 65536, .range 1 4294967295⟩,
  ⟨0x40c, 64, 4, 0, 9, .rw, 0, .zeroOr 60 320⟩,
  ⟨0x40c, 64, 4, 16, 16, .rw, 600, .range 1 65535⟩,
  ⟨0x410, 64, 4, 0, 32, .rw, 0, .any⟩,
  ⟨0x414, 64, 4, 0, 32, .rw, 0, .any⟩,
  ⟨0x418, 64, 4, 0, 3, .ro, 0, .any⟩,
  ⟨0x41c, 64, 4, 0, 32, .ro, 0, .any⟩,
  ⟨0x420, 64, 4, 0, 32, .ro, 0, .any⟩,
  ⟨0x424, 64, 4, 0, 32, .ro, 0, .any⟩,
  ⟨0x428, 64, 4, 0, 32, .ro, 0, .any⟩,
  ⟨0x42c, 64, 4, 0, 5, .ro, 0, .any⟩,
  ⟨0x42c, 64, 4, 5, 5, .ro, 0, .any⟩,
  ⟨0x42c, 64, 4, 10, 5, .ro, 0, .any⟩,
  ⟨0x42c, 64, 4, 31, 1, .ro, 0, .any⟩]

/-- Every field of the almanac page at the offsets R546 lists. -/
def rows_almanac : List FieldRow := rows_almanac_R429 ++ rows_almanac_R430

/-- Fields of the hang page defined by R447. -/
def rows_hang_R447 : List FieldRow := [
  ⟨0x100, 0, 1, 0, 8, .rw, 10, .range 1 255⟩,
  ⟨0x100, 0, 1, 8, 8, .rw, 50, .range 1 255⟩,
  ⟨0x100, 0, 1, 16, 8, .rw, 100, .range 1 255⟩,
  ⟨0x104, 0, 1, 0, 4, .ro, 0, .any⟩,
  ⟨0x104, 0, 1, 4, 8, .ro, 0, .any⟩,
  ⟨0x104, 0, 1, 12, 4, .ro, 0, .any⟩,
  ⟨0x108, 0, 1, 0, 32, .ro, 0, .any⟩,
  ⟨0x10c, 0, 1, 0, 16, .ro, 0, .any⟩,
  ⟨0x110, 0, 1, 0, 16, .rw, 0, .any⟩,
  ⟨0x114, 0, 1, 0, 32, .rw, 0, .any⟩]

/-- Every field of the hang page at the offsets R546 lists. -/
def rows_hang : List FieldRow := rows_hang_R447

/-- Fields of the power page defined by R471. -/
def rows_power_R471 : List FieldRow := [
  ⟨0x100, 0, 1, 0, 9, .rw, 320, .range 60 320⟩,
  ⟨0x104, 0, 1, 0, 9, .ro, 320, .any⟩,
  ⟨0x104, 0, 1, 16, 9, .ro, 320, .any⟩,
  ⟨0x108, 0, 1, 0, 1, .ro, 0, .any⟩,
  ⟨0x108, 0, 1, 1, 1, .ro, 0, .any⟩,
  ⟨0x108, 0, 1, 2, 1, .ro, 0, .any⟩,
  ⟨0x108, 0, 1, 3, 4, .ro, 0, .any⟩,
  ⟨0x108, 0, 1, 7, 1, .ro, 0, .any⟩,
  ⟨0x108, 0, 1, 8, 1, .ro, 0, .any⟩,
  ⟨0x108, 0, 1, 31, 1, .w1c, 0, .any⟩,
  ⟨0x10c, 0, 1, 0, 8, .rw, 50, .range 1 255⟩,
  ⟨0x10c, 0, 1, 8, 1, .rw, 0, .any⟩,
  ⟨0x10c, 0, 1, 16, 16, .rw, 100, .range 1 65535⟩,
  ⟨0x110, 0, 1, 0, 16, .ro, 0, .any⟩,
  ⟨0x114, 0, 1, 0, 16, .ro, 0, .any⟩,
  ⟨0x118, 0, 1, 0, 16, .ro, 0, .any⟩,
  ⟨0x11c, 0, 1, 0, 16, .ro, 0, .any⟩,
  ⟨0x11c, 0, 1, 16, 16, .rc, 0, .any⟩,
  ⟨0x120, 0, 1, 0, 16, .ro, 0, .any⟩,
  ⟨0x120, 0, 1, 16, 16, .rc, 0, .any⟩,
  ⟨0x124, 0, 1, 0, 32, .ro, 0, .any⟩,
  ⟨0x128, 0, 1, 0, 32, .ro, 0, .any⟩,
  ⟨0x12c, 0, 1, 0, 32, .rc, 0, .any⟩,
  ⟨0x130, 0, 1, 0, 32, .rc, 0, .any⟩,
  ⟨0x140, 4, 4, 0, 2, .ro, 0, .any⟩,
  ⟨0x140, 4, 4, 8, 6, .ro, 8, .any⟩,
  ⟨0x140, 4, 4, 16, 5, .ro, 16, .any⟩,
  ⟨0x140, 4, 4, 24, 8, .ro, 0, .any⟩,
  ⟨0x150, 4, 5, 0, 16, .ro, 0, .any⟩,
  ⟨0x164, 0, 1, 0, 8, .ro, 0, .any⟩,
  ⟨0x164, 0, 1, 8, 8, .ro, 0, .any⟩,
  ⟨0x180, 0, 1, 0, 16, .rw, 0, .range 0 59999⟩,
  ⟨0x184, 0, 1, 0, 32, .ro, 0, .any⟩,
  ⟨0x188, 0, 1, 0, 16, .ro, 60000, .any⟩,
  ⟨0x18c, 0, 1, 0, 32, .rw, 0, .any⟩,
  ⟨0x190, 0, 1, 0, 9, .wo, 0, .zeroOr 60 320⟩,
  ⟨0x1a0, 4, 8, 0, 9, .ro, 320, .any⟩,
  ⟨0x1a0, 4, 8, 16, 9, .ro, 320, .any⟩,
  ⟨0x1a0, 4, 8, 31, 1, .ro, 0, .any⟩]

/-- Every field of the power page at the offsets R546 lists. -/
def rows_power : List FieldRow := rows_power_R471

/-- Fields of the clock page defined by R486. -/
def rows_clock_R486 : List FieldRow := [
  ⟨0x100, 0, 1, 0, 1, .ro, 0, .any⟩,
  ⟨0x100, 0, 1, 1, 1, .ro, 0, .any⟩,
  ⟨0x100, 0, 1, 2, 1, .ro, 0, .any⟩,
  ⟨0x104, 0, 1, 0, 11, .ro, 0, .any⟩,
  ⟨0x108, 0, 1, 0, 32, .rc, 0, .any⟩,
  ⟨0x110, 0, 1, 0, 1, .rw, 1, .any⟩,
  ⟨0x110, 0, 1, 4, 4, .rw, 0, .range 0 10⟩,
  ⟨0x110, 0, 1, 8, 3, .rw, 0, .range 0 6⟩,
  ⟨0x140, 4, 18, 0, 2, .ro, 0, .any⟩,
  ⟨0x140, 4, 18, 2, 2, .ro, 0, .any⟩,
  ⟨0x140, 4, 18, 16, 15, .ro, 0, .any⟩,
  ⟨0x200, 4, 20, 0, 32, .ro, 0, .any⟩]

/-- Fields of the clock page defined by R484. -/
def rows_clock_R484 : List FieldRow := [
  ⟨0x28, 0, 1, 0, 1, .rw, 0, .any⟩,
  ⟨0x28, 0, 1, 31, 1, .w1c, 0, .any⟩]

/-- Every field of the clock page at the offsets R546 lists. -/
def rows_clock : List FieldRow := rows_clock_R486 ++ rows_clock_R484

/-- Fields of the security page defined by R507. -/
def rows_security_R507 : List FieldRow := [
  ⟨0x100, 0, 1, 0, 3, .ro, 0, .any⟩,
  ⟨0x100, 0, 1, 8, 4, .ro, 0, .any⟩,
  ⟨0x104, 0, 1, 0, 7, .ro, 0, .any⟩,
  ⟨0x104, 0, 1, 8, 7, .ro, 0, .any⟩,
  ⟨0x104, 0, 1, 16, 4, .ro, 0, .any⟩,
  ⟨0x104, 0, 1, 20, 2, .ro, 0, .any⟩,
  ⟨0x108, 0, 1, 0, 1, .w1s, 0, .any⟩,
  ⟨0x108, 0, 1, 1, 1, .rw, 0, .any⟩,
  ⟨0x10c, 0, 1, 0, 1, .ro, 0, .any⟩,
  ⟨0x10c, 0, 1, 1, 1, .ro, 0, .any⟩,
  ⟨0x110, 0, 1, 0, 32, .ro, 0, .any⟩,
  ⟨0x114, 0, 1, 0, 32, .ro, 0, .any⟩,
  ⟨0x120, 0, 1, 0, 3, .wo, 0, .range 1 4⟩,
  ⟨0x124, 0, 1, 0, 26, .rw, 0, .any⟩,
  ⟨0x128, 0, 1, 0, 17, .rw, 0, .range 1 65536⟩,
  ⟨0x12c, 0, 1, 0, 3, .ro, 0, .any⟩,
  ⟨0x12c, 0, 1, 3, 1, .ro, 0, .any⟩,
  ⟨0x12c, 0, 1, 4, 4, .ro, 0, .any⟩,
  ⟨0x130, 0, 1, 0, 26, .ro, 0, .any⟩,
  ⟨0x140, 0, 1, 0, 6, .rw, 0, .any⟩,
  ⟨0x144, 0, 1, 0, 1, .w1s, 0, .any⟩,
  ⟨0x144, 0, 1, 1, 1, .w1s, 0, .any⟩,
  ⟨0x148, 0, 1, 0, 32, .ro, 0, .any⟩,
  ⟨0x14c, 0, 1, 0, 32, .ro, 0, .any⟩,
  ⟨0x150, 0, 1, 0, 3, .ro, 0, .any⟩,
  ⟨0x150, 0, 1, 31, 1, .w1c, 0, .any⟩,
  ⟨0x180, 4, 16, 0, 32, .wo, 0, .any⟩,
  ⟨0x1c0, 0, 1, 0, 1, .w1s, 0, .any⟩,
  ⟨0x1c4, 0, 1, 0, 3, .ro, 0, .any⟩,
  ⟨0x1e0, 4, 8, 0, 32, .ro, 0, .any⟩,
  ⟨0x200, 0, 1, 0, 5, .ro, 0, .any⟩,
  ⟨0x200, 0, 1, 8, 5, .ro, 0, .any⟩,
  ⟨0x240, 4, 16, 0, 32, .ro, 0, .any⟩]

/-- Every field of the security page at the offsets R546 lists. -/
def rows_security : List FieldRow := rows_security_R507

/-- Fields of the mgmt page defined by R519. -/
def rows_mgmt_R519 : List FieldRow := [
  ⟨0x100, 0, 1, 0, 8, .ro, 0, .any⟩,
  ⟨0x100, 0, 1, 8, 8, .ro, 0, .any⟩,
  ⟨0x100, 0, 1, 16, 7, .ro, 0, .any⟩,
  ⟨0x104, 0, 1, 0, 32, .ro, 0, .any⟩,
  ⟨0x108, 0, 1, 0, 8, .ro, 0, .any⟩,
  ⟨0x108, 0, 1, 8, 8, .ro, 0, .any⟩,
  ⟨0x108, 0, 1, 16, 3, .ro, 0, .any⟩,
  ⟨0x108, 0, 1, 19, 3, .ro, 0, .any⟩,
  ⟨0x10c, 0, 1, 0, 32, .rc, 0, .any⟩,
  ⟨0x110, 0, 1, 0, 32, .rc, 0, .any⟩,
  ⟨0x114, 0, 1, 0, 32, .rc, 0, .any⟩]

/-- Every field of the mgmt page at the offsets R546 lists. -/
def rows_mgmt : List FieldRow := rows_mgmt_R519

/-- Fields of the fabric page defined by R255. -/
def rows_fabric_R255 : List FieldRow := [
  ⟨0x100, 0, 1, 0, 24, .rw, 16777215, .any⟩,
  ⟨0x104, 0, 1, 0, 16, .rw, 31250, .range 1 65535⟩,
  ⟨0x108, 0, 1, 0, 4, .rw, 3, .range 1 15⟩,
  ⟨0x108, 0, 1, 4, 4, .rw, 1, .range 1 15⟩,
  ⟨0x10c, 0, 1, 0, 1, .w1c, 0, .any⟩,
  ⟨0x110, 0, 1, 0, 32, .rc, 0, .any⟩,
  ⟨0x114, 0, 1, 0, 3, .ro, 0, .any⟩,
  ⟨0x114, 0, 1, 3, 4, .ro, 0, .any⟩,
  ⟨0x114, 0, 1, 7, 2, .ro, 0, .any⟩,
  ⟨0x114, 0, 1, 31, 1, .w1c, 0, .any⟩,
  ⟨0x118, 0, 1, 0, 24, .ro, 0, .any⟩,
  ⟨0x400, 8, 64, 0, 24, .rw, 0, .any⟩,
  ⟨0x400, 8, 64, 24, 3, .rw, 0, .any⟩,
  ⟨0x400, 8, 64, 27, 1, .rw, 0, .any⟩,
  ⟨0x400, 8, 64, 31, 1, .rw, 0, .any⟩,
  ⟨0x404, 8, 64, 0, 24, .rw, 0, .any⟩]

/-- Fields of the fabric page defined by R431. -/
def rows_fabric_R431 : List FieldRow := [
  ⟨0x120, 0, 1, 0, 1, .ro, 0, .any⟩,
  ⟨0x124, 0, 1, 0, 32, .ro, 0, .any⟩,
  ⟨0x128, 0, 1, 0, 32, .ro, 0, .any⟩,
  ⟨0x12c, 0, 1, 0, 32, .rc, 0, .any⟩]

/-- Every field of the fabric page at the offsets R546 lists. -/
def rows_fabric : List FieldRow := rows_fabric_R255 ++ rows_fabric_R431

/-- Fields of the commit page defined by R316. -/
def rows_commit_R316 : List FieldRow := [
  ⟨0x100, 0, 1, 0, 12, .rw, 0, .any⟩,
  ⟨0x104, 0, 1, 0, 6, .rw, 0, .any⟩,
  ⟨0x104, 0, 1, 6, 2, .rw, 0, .any⟩,
  ⟨0x104, 0, 1, 8, 1, .rw, 0, .any⟩,
  ⟨0x104, 0, 1, 9, 1, .rw, 0, .any⟩,
  ⟨0x104, 0, 1, 10, 1, .ro, 0, .any⟩,
  ⟨0x104, 0, 1, 11, 1, .rw, 0, .any⟩,
  ⟨0x108, 0, 1, 0, 27, .rw, 0, .any⟩,
  ⟨0x10c, 0, 1, 0, 27, .rw, 0, .any⟩,
  ⟨0x110, 0, 1, 0, 27, .rw, 0, .any⟩,
  ⟨0x114, 0, 1, 0, 24, .rw, 0, .any⟩,
  ⟨0x114, 0, 1, 24, 6, .rw, 0, .any⟩,
  ⟨0x114, 0, 1, 30, 2, .rw, 0, .any⟩,
  ⟨0x118, 0, 1, 0, 12, .rw, 0, .any⟩,
  ⟨0x11c, 0, 1, 0, 32, .ro, 0, .any⟩,
  ⟨0x120, 0, 1, 0, 8, .ro, 0, .any⟩,
  ⟨0x120, 0, 1, 8, 1, .ro, 0, .any⟩,
  ⟨0x120, 0, 1, 9, 1, .ro, 0, .any⟩,
  ⟨0x124, 0, 1, 0, 1, .w1c, 0, .any⟩,
  ⟨0x130, 0, 1, 0, 32, .rc, 0, .any⟩,
  ⟨0x134, 0, 1, 0, 3, .ro, 0, .any⟩,
  ⟨0x134, 0, 1, 3, 4, .ro, 0, .any⟩,
  ⟨0x134, 0, 1, 7, 6, .ro, 0, .any⟩,
  ⟨0x134, 0, 1, 31, 1, .w1c, 0, .any⟩,
  ⟨0x138, 0, 1, 0, 24, .ro, 0, .any⟩,
  ⟨0x13c, 0, 1, 0, 32, .ro, 0, .any⟩]

/-- Fields of the commit page defined by R317. -/
def rows_commit_R317 : List FieldRow := [
  ⟨0x800, 32, 64, 0, 3, .ro, 0, .any⟩,
  ⟨0x800, 32, 64, 3, 2, .ro, 0, .any⟩,
  ⟨0x800, 32, 64, 5, 1, .ro, 0, .any⟩,
  ⟨0x800, 32, 64, 6, 1, .ro, 0, .any⟩,
  ⟨0x800, 32, 64, 7, 1, .ro, 0, .any⟩,
  ⟨0x800, 32, 64, 8, 7, .ro, 0, .any⟩,
  ⟨0x800, 32, 64, 16, 8, .ro, 0, .any⟩,
  ⟨0x800, 32, 64, 24, 1, .ro, 0, .any⟩,
  ⟨0x800, 32, 64, 25, 1, .ro, 0, .any⟩,
  ⟨0x804, 32, 64, 0, 32, .ro, 0, .any⟩,
  ⟨0x808, 32, 64, 0, 32, .ro, 0, .any⟩,
  ⟨0x80c, 32, 64, 0, 32, .ro, 0, .any⟩,
  ⟨0x810, 32, 64, 0, 32, .rw, 0, .any⟩,
  ⟨0x814, 32, 64, 0, 9, .rw, 0, .any⟩,
  ⟨0x814, 32, 64, 31, 1, .rw, 0, .any⟩,
  ⟨0x818, 32, 64, 0, 32, .ro, 0, .any⟩,
  ⟨0x81c, 32, 64, 0, 32, .ro, 0, .any⟩]

/-- Every field of the commit page at the offsets R546 lists. -/
def rows_commit : List FieldRow := rows_commit_R316 ++ rows_commit_R317

/-- Fields of the serving page defined by R340. -/
def rows_serving_R340 : List FieldRow := [
  ⟨0x100, 0, 1, 0, 1, .rw, 0, .any⟩,
  ⟨0x100, 0, 1, 1, 3, .rw, 0, .range 0 6⟩,
  ⟨0x100, 0, 1, 8, 8, .rw, 0, .any⟩,
  ⟨0x100, 0, 1, 16, 8, .rw, 1, .range 1 255⟩,
  ⟨0x104, 0, 1, 0, 13, .rw, 1, .range 1 4096⟩,
  ⟨0x104, 0, 1, 16, 13, .rw, 1, .range 1 4096⟩,
  ⟨0x108, 0, 1, 0, 32, .rw, 0, .any⟩,
  ⟨0x10c, 0, 1, 0, 9, .rw, 0, .any⟩,
  ⟨0x110, 0, 1, 0, 32, .rw, 0, .any⟩,
  ⟨0x114, 0, 1, 0, 9, .rw, 0, .any⟩,
  ⟨0x118, 0, 1, 0, 32, .rw, 0, .any⟩,
  ⟨0x11c, 0, 1, 0, 9, .rw, 0, .any⟩,
  ⟨0x130, 16, 4, 0, 32, .rw, 0, .any⟩,
  ⟨0x134, 16, 4, 0, 9, .rw, 0, .any⟩,
  ⟨0x138, 16, 4, 0, 23, .rw, 0, .range 0 7864320⟩,
  ⟨0x13c, 16, 4, 0, 23, .ro, 0, .any⟩,
  ⟨0x170, 0, 1, 0, 32, .ro, 0, .any⟩,
  ⟨0x174, 0, 1, 0, 32, .ro, 0, .any⟩,
  ⟨0x178, 0, 1, 0, 2, .ro, 0, .any⟩,
  ⟨0x178, 0, 1, 2, 1, .ro, 0, .any⟩,
  ⟨0x178, 0, 1, 16, 13, .ro, 0, .any⟩,
  ⟨0x17c, 0, 1, 0, 32, .ro, 0, .any⟩,
  ⟨0x180, 0, 1, 0, 13, .ro, 0, .any⟩,
  ⟨0x180, 0, 1, 16, 13, .ro, 0, .any⟩,
  ⟨0x184, 0, 1, 0, 1, .w1c, 0, .any⟩,
  ⟨0x188, 0, 1, 0, 32, .rc, 0, .any⟩,
  ⟨0x18c, 0, 1, 0, 32, .rc, 0, .any⟩,
  ⟨0x190, 0, 1, 0, 32, .rc, 0, .any⟩,
  ⟨0x194, 0, 1, 0, 32, .rc, 0, .any⟩,
  ⟨0x198, 0, 1, 0, 32, .ro, 0, .any⟩]

/-- Every field of the serving page at the offsets R546 lists. -/
def rows_serving : List FieldRow := rows_serving_R340

/-- Fields of the context page defined by R55. -/
def rows_context_R55 : List FieldRow := [
  ⟨0x180, 0, 1, 0, 1, .rw, 0, .any⟩,
  ⟨0x180, 0, 1, 1, 1, .rw, 1, .any⟩,
  ⟨0x180, 0, 1, 2, 1, .rw, 0, .any⟩]

/-- Fields of the context page defined by R175. -/
def rows_context_R175 : List FieldRow := [
  ⟨0x190, 0, 1, 0, 1, .rw, 0, .any⟩,
  ⟨0x190, 0, 1, 4, 4, .rw, 0, .any⟩,
  ⟨0x190, 0, 1, 31, 1, .w1c, 0, .any⟩]

/-- Fields of the context page defined by R196. -/
def rows_context_R196 : List FieldRow := [
  ⟨0x1a0, 0, 1, 0, 1, .rw, 0, .any⟩,
  ⟨0x1a0, 0, 1, 1, 1, .rw, 0, .any⟩]

/-- Fields of the context page defined by R197. -/
def rows_context_R197 : List FieldRow := [
  ⟨0x1b0, 8, 4, 0, 18, .rw, 0, .any⟩,
  ⟨0x1b4, 8, 4, 0, 19, .rw, 0, .range 0 262144⟩]

/-- Fields of the context page defined by R217. -/
def rows_context_R217 : List FieldRow := [
  ⟨0x1d0, 0, 1, 0, 1, .rw, 0, .any⟩,
  ⟨0x1d0, 0, 1, 8, 8, .rw, 0, .any⟩,
  ⟨0x1d0, 0, 1, 16, 8, .rw, 0, .any⟩,
  ⟨0x1d4, 0, 1, 0, 19, .rw, 0, .range 0 262144⟩,
  ⟨0x1e0, 0, 1, 0, 6, .rw, 16, .any⟩,
  ⟨0x1e0, 0, 1, 8, 4, .rw, 5, .range 1 15⟩,
  ⟨0x1e0, 0, 1, 16, 12, .rw, 20, .any⟩,
  ⟨0x1e0, 0, 1, 31, 1, .wo, 0, .any⟩,
  ⟨0x1e4, 0, 1, 0, 32, .rw, 0, .any⟩,
  ⟨0x1e8, 0, 1, 0, 9, .rw, 0, .any⟩,
  ⟨0x1ec, 0, 1, 0, 32, .ro, 0, .any⟩,
  ⟨0x1f0, 0, 1, 0, 32, .ro, 0, .any⟩,
  ⟨0x1f4, 0, 1, 0, 32, .ro, 0, .any⟩,
  ⟨0x1f8, 0, 1, 0, 32, .ro, 0, .any⟩,
  ⟨0x1fc, 0, 1, 0, 1, .ro, 0, .any⟩,
  ⟨0x1fc, 0, 1, 1, 1, .ro, 0, .any⟩,
  ⟨0x1fc, 0, 1, 2, 1, .ro, 0, .any⟩,
  ⟨0x1fc, 0, 1, 3, 1, .ro, 0, .any⟩,
  ⟨0x1fc, 0, 1, 4, 1, .ro, 0, .any⟩,
  ⟨0x1fc, 0, 1, 31, 1, .ro, 0, .any⟩,
  ⟨0x200, 0, 1, 0, 32, .ro, 0, .any⟩,
  ⟨0x204, 0, 1, 0, 32, .ro, 0, .any⟩,
  ⟨0x208, 0, 1, 0, 32, .ro, 0, .any⟩,
  ⟨0x20c, 0, 1, 0, 32, .ro, 0, .any⟩,
  ⟨0x210, 0, 1, 0, 32, .ro, 0, .any⟩,
  ⟨0x214, 0, 1, 0, 32, .ro, 0, .any⟩,
  ⟨0x218, 0, 1, 0, 32, .ro, 0, .any⟩,
  ⟨0x21c, 0, 1, 0, 32, .ro, 0, .any⟩]

/-- Fields of the context page defined by R385. -/
def rows_context_R385 : List FieldRow := [
  ⟨0x100, 0, 1, 0, 6, .rw, 0, .any⟩,
  ⟨0x100, 0, 1, 31, 1, .rw, 0, .any⟩,
  ⟨0x104, 0, 1, 0, 4, .ro, 0, .any⟩,
  ⟨0x108, 0, 1, 0, 1, .ro, 0, .any⟩,
  ⟨0x108, 0, 1, 1, 1, .w1c, 0, .any⟩,
  ⟨0x110, 0, 1, 0, 10, .rw, 100, .range 1 1000⟩,
  ⟨0x114, 0, 1, 0, 32, .ro, 0, .any⟩,
  ⟨0x118, 0, 1, 0, 32, .ro, 65536, .any⟩,
  ⟨0x11c, 0, 1, 0, 32, .ro, 0, .any⟩,
  ⟨0x120, 0, 1, 0, 32, .ro, 0, .any⟩,
  ⟨0x124, 0, 1, 0, 32, .ro, 0, .any⟩,
  ⟨0x128, 0, 1, 0, 32, .ro, 0, .any⟩,
  ⟨0x12c, 0, 1, 0, 32, .ro, 0, .any⟩,
  ⟨0x130, 0, 1, 0, 32, .ro, 0, .any⟩,
  ⟨0x134, 0, 1, 0, 32, .ro, 65536, .any⟩,
  ⟨0x138, 0, 1, 0, 32, .ro, 0, .any⟩,
  ⟨0x13c, 0, 1, 0, 32, .ro, 0, .any⟩,
  ⟨0x140, 16, 4, 0, 8, .rw, 0, .range 0 127⟩,
  ⟨0x140, 16, 4, 16, 8, .rw, 0, .range 0 128⟩,
  ⟨0x144, 16, 4, 0, 6, .rw, 0, .any⟩,
  ⟨0x144, 16, 4, 16, 7, .rw, 0, .range 0 64⟩,
  ⟨0x148, 16, 4, 0, 8, .rw, 0, .range 0 127⟩,
  ⟨0x148, 16, 4, 16, 8, .rw, 0, .range 0 128⟩]

/-- Fields of the context page defined by R431. -/
def rows_context_R431 : List FieldRow := [
  ⟨0x220, 0, 1, 0, 1, .rw, 0, .any⟩,
  ⟨0x220, 0, 1, 8, 5, .rw, 8, .range 4 16⟩]

/-- Fields of the context page defined by R448. -/
def rows_context_R448 : List FieldRow := [
  ⟨0x224, 0, 1, 0, 16, .rw, 2000, .range 1 65535⟩]

/-- Fields of the context page defined by R56. -/
def rows_context_R56 : List FieldRow := [
  ⟨0x184, 0, 1, 0, 32, .rw, 0, .any⟩,
  ⟨0x188, 0, 1, 0, 32, .rw, 0, .any⟩]

/-- Every field of the context page at the offsets R546 lists. -/
def rows_context : List FieldRow := rows_context_R55 ++ rows_context_R175 ++ rows_context_R196 ++ rows_context_R197 ++ rows_context_R217 ++ rows_context_R385 ++ rows_context_R431 ++ rows_context_R448 ++ rows_context_R56

/-- Fields of the field page defined by R84. -/
def rows_field_R84 : List FieldRow := [
  ⟨0x400, 4, 24, 0, 5, .ro, 0, .any⟩,
  ⟨0x400, 4, 24, 31, 1, .ro, 0, .any⟩]

/-- Fields of the field page defined by R152. -/
def rows_field_R152 : List FieldRow := [
  ⟨0x500, 0, 1, 0, 6, .rw, 0, .any⟩,
  ⟨0x800, 4, 256, 0, 32, .ro, 0, .any⟩]

/-- Fields of the field page defined by R195. -/
def rows_field_R195 : List FieldRow := [
  ⟨0xc00, 16, 64, 0, 11, .ro, 0, .any⟩,
  ⟨0xc00, 16, 64, 16, 11, .ro, 0, .any⟩,
  ⟨0xc04, 16, 64, 0, 9, .rw, 0, .range 0 479⟩,
  ⟨0xc04, 16, 64, 16, 9, .rw, 0, .range 0 480⟩,
  ⟨0xc08, 16, 64, 0, 19, .ro, 0, .any⟩,
  ⟨0xc0c, 16, 64, 0, 19, .ro, 0, .any⟩]

/-- Fields of the field page defined by R386. -/
def rows_field_R386 : List FieldRow := [
  ⟨0x480, 0, 1, 0, 32, .ro, 65536, .any⟩,
  ⟨0x484, 0, 1, 0, 32, .ro, 65536, .any⟩]

/-- Fields of the field page defined by R431. -/
def rows_field_R431 : List FieldRow := [
  ⟨0x488, 0, 1, 0, 2, .ro, 2, .any⟩,
  ⟨0x488, 0, 1, 8, 5, .ro, 4, .any⟩,
  ⟨0x48c, 0, 1, 0, 32, .rc, 0, .any⟩]

/-- Fields of the field page defined by R484. -/
def rows_field_R484 : List FieldRow := [
  ⟨0x28, 0, 1, 0, 1, .rw, 0, .any⟩,
  ⟨0x28, 0, 1, 31, 1, .w1c, 0, .any⟩]

/-- Every field of the field page at the offsets R546 lists. -/
def rows_field : List FieldRow := rows_field_R84 ++ rows_field_R152 ++ rows_field_R195 ++ rows_field_R386 ++ rows_field_R431 ++ rows_field_R484

/-- Fields of the hbm page defined by R173. -/
def rows_hbm_R173 : List FieldRow := [
  ⟨0x100, 0, 1, 0, 8, .ro, 120, .any⟩,
  ⟨0x100, 0, 1, 8, 5, .ro, 16, .any⟩,
  ⟨0x100, 0, 1, 16, 8, .ro, 96, .any⟩,
  ⟨0x104, 0, 1, 0, 2, .ro, 0, .any⟩,
  ⟨0x104, 0, 1, 8, 8, .ro, 0, .any⟩,
  ⟨0x108, 0, 1, 0, 10, .ro, 0, .any⟩,
  ⟨0x108, 0, 1, 16, 10, .rc, 0, .any⟩,
  ⟨0x110, 0, 1, 0, 32, .rc, 0, .any⟩,
  ⟨0x114, 0, 1, 0, 32, .rc, 0, .any⟩,
  ⟨0x118, 0, 1, 0, 32, .rc, 0, .any⟩,
  ⟨0x120, 0, 1, 0, 32, .ro, 0, .any⟩,
  ⟨0x124, 0, 1, 0, 9, .ro, 0, .any⟩,
  ⟨0x128, 0, 1, 0, 6, .ro, 0, .any⟩,
  ⟨0x128, 0, 1, 6, 1, .ro, 0, .any⟩,
  ⟨0x128, 0, 1, 7, 3, .ro, 0, .any⟩,
  ⟨0x128, 0, 1, 10, 5, .ro, 0, .any⟩,
  ⟨0x128, 0, 1, 15, 2, .ro, 0, .any⟩,
  ⟨0x128, 0, 1, 17, 6, .ro, 0, .any⟩,
  ⟨0x128, 0, 1, 31, 1, .w1c, 0, .any⟩,
  ⟨0x12c, 0, 1, 0, 32, .ro, 0, .any⟩,
  ⟨0x130, 0, 1, 0, 1, .rw, 1, .any⟩,
  ⟨0x130, 0, 1, 8, 8, .rw, 24, .range 1 255⟩,
  ⟨0x134, 0, 1, 0, 7, .ro, 0, .any⟩,
  ⟨0x134, 0, 1, 16, 16, .ro, 0, .any⟩,
  ⟨0x140, 0, 1, 0, 32, .ro, 0, .any⟩,
  ⟨0x144, 0, 1, 0, 32, .ro, 0, .any⟩,
  ⟨0x148, 0, 1, 0, 32, .ro, 0, .any⟩,
  ⟨0x14c, 0, 1, 0, 32, .ro, 0, .any⟩]

/-- Every field of the hbm page at the offsets R546 lists. -/
def rows_hbm : List FieldRow := rows_hbm_R173

/-- Fields of the fieldmem page defined by R174. -/
def rows_fieldmem_R174 : List FieldRow := [
  ⟨0x100, 0, 1, 0, 1, .w1c, 0, .any⟩,
  ⟨0x100, 0, 1, 16, 10, .ro, 0, .any⟩,
  ⟨0x200, 4, 64, 0, 10, .rw, 0, .any⟩,
  ⟨0x200, 4, 64, 16, 11, .rw, 0, .range 0 1024⟩,
  ⟨0x400, 4, 480, 0, 6, .rw, 0, .any⟩,
  ⟨0x400, 4, 480, 8, 1, .rw, 0, .any⟩,
  ⟨0x400, 4, 480, 9, 1, .ro, 0, .any⟩]

/-- Every field of the fieldmem page at the offsets R546 lists. -/
def rows_fieldmem : List FieldRow := rows_fieldmem_R174

/-- Fields of the port page defined by R257. -/
def rows_port_R257 : List FieldRow := [
  ⟨0x100, 0, 1, 0, 1, .rw, 0, .any⟩,
  ⟨0x100, 0, 1, 1, 2, .rw, 0, .range 0 2⟩,
  ⟨0x100, 0, 1, 3, 1, .w1s, 0, .any⟩,
  ⟨0x100, 0, 1, 8, 8, .rw, 10, .range 2 255⟩,
  ⟨0x100, 0, 1, 16, 8, .rw, 8, .range 1 255⟩,
  ⟨0x104, 0, 1, 0, 4, .ro, 0, .any⟩,
  ⟨0x104, 0, 1, 4, 2, .ro, 3, .any⟩,
  ⟨0x104, 0, 1, 6, 2, .ro, 0, .any⟩,
  ⟨0x104, 0, 1, 8, 1, .ro, 0, .any⟩,
  ⟨0x104, 0, 1, 9, 1, .ro, 0, .any⟩,
  ⟨0x104, 0, 1, 10, 1, .ro, 0, .any⟩,
  ⟨0x104, 0, 1, 30, 1, .ro, 0, .any⟩,
  ⟨0x104, 0, 1, 31, 1, .w1c, 0, .any⟩,
  ⟨0x108, 0, 1, 0, 16, .ro, 0, .any⟩,
  ⟨0x108, 0, 1, 16, 16, .ro, 0, .any⟩,
  ⟨0x10c, 0, 1, 0, 24, .rw, 16777215, .any⟩,
  ⟨0x10c, 0, 1, 24, 3, .rw, 0, .any⟩,
  ⟨0x10c, 0, 1, 31, 1, .rw, 0, .any⟩,
  ⟨0x110, 0, 1, 0, 24, .ro, 16777215, .any⟩,
  ⟨0x110, 0, 1, 24, 3, .ro, 0, .any⟩,
  ⟨0x110, 0, 1, 31, 1, .ro, 0, .any⟩,
  ⟨0x114, 0, 1, 0, 16, .ro, 0, .any⟩,
  ⟨0x118, 0, 1, 0, 1, .rw, 0, .any⟩,
  ⟨0x120, 4, 4, 0, 16, .rw, 0, .range 33 65535⟩,
  ⟨0x120, 4, 4, 16, 16, .rw, 0, .range 33 65535⟩,
  ⟨0x130, 0, 1, 0, 32, .rc, 0, .any⟩,
  ⟨0x134, 0, 1, 0, 32, .rc, 0, .any⟩,
  ⟨0x138, 0, 1, 0, 32, .rc, 0, .any⟩,
  ⟨0x13c, 0, 1, 0, 32, .rc, 0, .any⟩,
  ⟨0x140, 0, 1, 0, 32, .rc, 0, .any⟩,
  ⟨0x144, 0, 1, 0, 3, .ro, 0, .any⟩,
  ⟨0x144, 0, 1, 3, 4, .ro, 0, .any⟩,
  ⟨0x144, 0, 1, 7, 2, .ro, 0, .any⟩,
  ⟨0x144, 0, 1, 31, 1, .w1c, 0, .any⟩,
  ⟨0x148, 0, 1, 0, 24, .ro, 0, .any⟩,
  ⟨0x14c, 0, 1, 0, 24, .ro, 0, .any⟩,
  ⟨0x150, 0, 1, 0, 32, .rc, 0, .any⟩,
  ⟨0x154, 0, 1, 0, 32, .ro, 0, .any⟩,
  ⟨0x158, 0, 1, 0, 32, .ro, 0, .any⟩,
  ⟨0x15c, 0, 1, 0, 32, .ro, 0, .any⟩]

/-- Fields of the port page defined by R257. -/
def rows_port_R257_1 : List FieldRow := [
  ⟨0x160, 0, 1, 0, 32, .ro, 0, .any⟩,
  ⟨0x164, 0, 1, 0, 32, .ro, 0, .any⟩,
  ⟨0x180, 4, 8, 0, 32, .rw, 0, .any⟩]

/-- Every field of the port page at the offsets R546 lists. -/
def rows_port : List FieldRow := rows_port_R257 ++ rows_port_R257_1

/-- Fields of the colleng page defined by R283. -/
def rows_colleng_R283 : List FieldRow := [
  ⟨0x100, 0, 1, 0, 16, .rw, 1000, .range 1 65535⟩,
  ⟨0x104, 0, 1, 0, 7, .ro, 0, .any⟩,
  ⟨0x108, 0, 1, 0, 32, .ro, 0, .any⟩,
  ⟨0x10c, 0, 1, 0, 32, .ro, 0, .any⟩,
  ⟨0x110, 0, 1, 0, 32, .rc, 0, .any⟩,
  ⟨0x114, 0, 1, 0, 3, .ro, 0, .any⟩,
  ⟨0x114, 0, 1, 8, 4, .ro, 0, .any⟩,
  ⟨0x114, 0, 1, 12, 6, .ro, 0, .any⟩,
  ⟨0x114, 0, 1, 31, 1, .w1c, 0, .any⟩,
  ⟨0x118, 0, 1, 0, 24, .ro, 0, .any⟩,
  ⟨0x11c, 0, 1, 0, 32, .ro, 0, .any⟩,
  ⟨0x120, 0, 1, 0, 32, .rc, 0, .any⟩,
  ⟨0x124, 0, 1, 0, 8, .ro, 0, .any⟩,
  ⟨0x124, 0, 1, 8, 6, .ro, 0, .any⟩,
  ⟨0x124, 0, 1, 31, 1, .w1c, 0, .any⟩,
  ⟨0x128, 0, 1, 0, 32, .ro, 0, .any⟩,
  ⟨0x12c, 0, 1, 0, 32, .rc, 0, .any⟩]

/-- Fields of the colleng page defined by R284. -/
def rows_colleng_R284 : List FieldRow := [
  ⟨0x400, 16, 64, 0, 8, .rw, 0, .any⟩,
  ⟨0x400, 16, 64, 8, 1, .rw, 0, .any⟩,
  ⟨0x404, 16, 64, 0, 32, .rw, 0, .any⟩,
  ⟨0x408, 16, 64, 0, 9, .rw, 0, .any⟩,
  ⟨0x408, 16, 64, 16, 16, .rw, 0, .any⟩,
  ⟨0x40c, 16, 64, 0, 16, .ro, 0, .any⟩,
  ⟨0x40c, 16, 64, 16, 16, .rc, 0, .any⟩]

/-- Every field of the colleng page at the offsets R546 lists. -/
def rows_colleng : List FieldRow := rows_colleng_R283 ++ rows_colleng_R284

/-- Fields of the furrow page defined by R83. -/
def rows_furrow_R83 : List FieldRow := [
  ⟨0x100, 0, 1, 0, 5, .ro, 0, .any⟩,
  ⟨0x100, 0, 1, 8, 2, .ro, 0, .any⟩,
  ⟨0x110, 0, 1, 0, 4, .rw, 2, .range 1 15⟩,
  ⟨0x114, 0, 1, 0, 32, .rc, 0, .any⟩,
  ⟨0x118, 0, 1, 0, 6, .ro, 0, .any⟩,
  ⟨0x118, 0, 1, 6, 5, .ro, 0, .any⟩,
  ⟨0x118, 0, 1, 11, 2, .ro, 0, .any⟩,
  ⟨0x118, 0, 1, 13, 1, .ro, 0, .any⟩,
  ⟨0x118, 0, 1, 16, 6, .ro, 0, .any⟩,
  ⟨0x118, 0, 1, 31, 1, .w1c, 0, .any⟩,
  ⟨0x11c, 0, 1, 0, 32, .ro, 0, .any⟩,
  ⟨0x120, 4, 4, 0, 32, .rc, 0, .any⟩,
  ⟨0x130, 0, 1, 0, 32, .rc, 0, .any⟩,
  ⟨0x134, 0, 1, 0, 4, .ro, 0, .any⟩,
  ⟨0x134, 0, 1, 4, 4, .ro, 0, .any⟩,
  ⟨0x134, 0, 1, 8, 1, .ro, 0, .any⟩]

/-- Fields of the furrow page defined by R106. -/
def rows_furrow_R106 : List FieldRow := [
  ⟨0x140, 0, 1, 0, 32, .ro, 0, .any⟩,
  ⟨0x144, 0, 1, 0, 32, .ro, 0, .any⟩,
  ⟨0x148, 0, 1, 0, 32, .rc, 0, .any⟩,
  ⟨0x14c, 0, 1, 0, 32, .rc, 0, .any⟩]

/-- Fields of the furrow page defined by R150. -/
def rows_furrow_R150 : List FieldRow := [
  ⟨0x400, 16, 192, 0, 32, .ro, 0, .any⟩,
  ⟨0x404, 16, 192, 0, 9, .ro, 0, .any⟩,
  ⟨0x408, 16, 192, 0, 2, .ro, 0, .any⟩,
  ⟨0x408, 16, 192, 2, 3, .ro, 0, .any⟩,
  ⟨0x408, 16, 192, 8, 8, .ro, 0, .any⟩,
  ⟨0x408, 16, 192, 16, 4, .ro, 0, .any⟩,
  ⟨0x408, 16, 192, 20, 1, .ro, 0, .any⟩,
  ⟨0x40c, 16, 192, 0, 4, .ro, 0, .any⟩,
  ⟨0x40c, 16, 192, 4, 8, .ro, 0, .any⟩,
  ⟨0x40c, 16, 192, 31, 1, .w1c, 0, .any⟩]

/-- Fields of the furrow page defined by R151. -/
def rows_furrow_R151 : List FieldRow := [
  ⟨0x150, 0, 1, 0, 32, .rc, 0, .any⟩]

/-- Fields of the furrow page defined by R386. -/
def rows_furrow_R386 : List FieldRow := [
  ⟨0x154, 0, 1, 0, 32, .ro, 65536, .any⟩]

/-- Fields of the furrow page defined by R431. -/
def rows_furrow_R431 : List FieldRow := [
  ⟨0x158, 0, 1, 0, 32, .rc, 0, .any⟩]

/-- Fields of the furrow page defined by R484. -/
def rows_furrow_R484 : List FieldRow := [
  ⟨0x28, 0, 1, 0, 1, .rw, 0, .any⟩,
  ⟨0x28, 0, 1, 4, 4, .rw, 0, .any⟩,
  ⟨0x28, 0, 1, 31, 1, .w1c, 0, .any⟩]

/-- Every field of the furrow page at the offsets R546 lists. -/
def rows_furrow : List FieldRow := rows_furrow_R83 ++ rows_furrow_R106 ++ rows_furrow_R150 ++ rows_furrow_R151 ++ rows_furrow_R386 ++ rows_furrow_R431 ++ rows_furrow_R484

/-- Fields of the doorbell page defined by R373. -/
def rows_doorbell_R373 : List FieldRow := [
  ⟨0x100, 0, 1, 0, 1, .rw, 0, .any⟩,
  ⟨0x100, 0, 1, 1, 1, .rw, 0, .any⟩,
  ⟨0x100, 0, 1, 8, 4, .rw, 6, .range 6 16⟩,
  ⟨0x100, 0, 1, 12, 1, .rw, 0, .any⟩,
  ⟨0x100, 0, 1, 16, 11, .rw, 1, .any⟩,
  ⟨0x104, 0, 1, 0, 32, .rw, 0, .any⟩,
  ⟨0x108, 0, 1, 0, 32, .rw, 0, .any⟩,
  ⟨0x10c, 0, 1, 0, 32, .rw, 0, .any⟩,
  ⟨0x110, 0, 1, 0, 32, .rw, 0, .any⟩,
  ⟨0x114, 0, 1, 0, 2, .ro, 0, .any⟩,
  ⟨0x114, 0, 1, 2, 3, .ro, 0, .any⟩,
  ⟨0x114, 0, 1, 31, 1, .w1c, 0, .any⟩,
  ⟨0x118, 0, 1, 0, 32, .rw, 0, .any⟩,
  ⟨0x11c, 0, 1, 0, 32, .ro, 0, .any⟩,
  ⟨0x120, 0, 1, 0, 32, .ro, 0, .any⟩,
  ⟨0x124, 0, 1, 0, 6, .ro, 0, .any⟩,
  ⟨0x124, 0, 1, 8, 6, .ro, 0, .any⟩,
  ⟨0x124, 0, 1, 16, 3, .ro, 0, .any⟩]

/-- Fields of the doorbell page defined by R448. -/
def rows_doorbell_R448 : List FieldRow := [
  ⟨0x128, 0, 1, 0, 16, .rw, 60000, .any⟩]

/-- Every field of the doorbell page at the offsets R546 lists. -/
def rows_doorbell : List FieldRow := rows_doorbell_R373 ++ rows_doorbell_R448

/-- The field rows of a page, the common error words first (R387, R546). -/
def Page.rows (p : Page) : List FieldRow :=
  (if p.hasCommon then rows_common else []) ++
  match p with
  | .steading => rows_steading | .hostif => rows_hostif | .qm => rows_qm | .collector => rows_collector
  | .almanac => rows_almanac | .hang => rows_hang | .power => rows_power | .clock => rows_clock
  | .security => rows_security | .mgmt => rows_mgmt | .fabric => rows_fabric | .commit => rows_commit
  | .serving _ => rows_serving | .context _ => rows_context | .mailbox _ => [] | .field _ => rows_field
  | .hbm _ _ => rows_hbm | .fieldmem _ => rows_fieldmem | .port _ => rows_port | .colleng _ => rows_colleng
  | .furrow _ _ => rows_furrow | .doorbell _ => rows_doorbell

/-- The field rows of the register at BAR0 offset `a`. -/
def rowsAt (a : Nat) : List FieldRow :=
  match pageAt a with
  | none => []
  | some p => p.rows.filter fun r => r.covers (a % 0x1000)

end Sys2Proof.Machine
end

