-- ==== Sys2Proof/Machine/Sources.lean ====
section
/-! DEFINITION. The source catalogue: class of every error source and whether it is a condition (R256, R282, R315, R371,
R372, R394, R395, R405, R429, R470, R485, R507). -/

namespace Sys2Proof.Machine

/-- R395: the classes, in the order of their codes. -/
inductive SrcClass where
  | corrected | contained | domainFatal | deviceFatal | link | environmental
deriving DecidableEq, Repr

/-- R395: the class code. -/
def SrcClass.code : SrcClass → Nat
  | .corrected => 0 | .contained => 1 | .domainFatal => 2 | .deviceFatal => 3 | .link => 4 | .environmental => 5

/-- The sources of a page in bit order: class, and whether the form is C. -/
def Page.sources : Page → List (SrcClass × Bool)
  | .furrow _ _ => [(.contained, false), (.contained, false), (.contained, false), (.corrected, false),
      (.contained, false), (.contained, false)]
  | .field _ => [(.corrected, false), (.contained, false), (.corrected, false), (.domainFatal, true),
      (.contained, false), (.environmental, true)]
  | .hbm _ _ => [(.corrected, false), (.contained, false), (.contained, false), (.domainFatal, false)]
  | .port _ => [(.corrected, false), (.link, false), (.link, false), (.link, false), (.link, false), (.link, false),
      (.link, false), (.link, false)]
  | .fabric => [(.link, false)]
  | .colleng _ => [(.link, false), (.contained, false), (.contained, false), (.corrected, true)]
  | .commit => [(.link, false), (.contained, false), (.domainFatal, false)]
  | .hostif => [(.corrected, false), (.link, false)]
  | .qm => [(.contained, false)]
  | .collector => [(.domainFatal, true), (.corrected, false)]
  | .steading => [(.corrected, false), (.deviceFatal, false), (.deviceFatal, false)]
  | .power => [(.environmental, false), (.environmental, false), (.environmental, true), (.environmental, true),
      (.environmental, true), (.environmental, true), (.deviceFatal, false)]
  | .clock => [(.environmental, true), (.environmental, false), (.environmental, false)]
  | .security => [(.corrected, false), (.corrected, false), (.corrected, false)]
  | .almanac => [(.corrected, false), (.corrected, false), (.corrected, false)]
  | _ => []

/-- A source's class and form. -/
def srcAt (page bit : Nat) : Option (SrcClass × Bool) :=
  match pageAt page with
  | some p => p.sources[bit]?
  | none => none

/-- The source is device-fatal. -/
def srcFatal (page bit : Nat) : Bool := (srcAt page bit).any fun x => x.1 == .deviceFatal

/-- The mask of bits of a page whose source satisfies `f`. -/
def srcBits (p : Page) (f : SrcClass → Bool) : Nat :=
  (p.sources.zipIdx.map fun (x : (SrcClass × Bool) × Nat) => if f x.1.1 then 2 ^ x.2 else 0).foldl (· + ·) 0

/-- R394: the reset value of `ERR_MASK`: only the port's retry source is masked. -/
def maskReset : Page → Nat
  | .port _ => 1
  | _ => 0

/-- R394: the reset value of `ERR_SEV`: environmental, device-fatal and domain-fatal sources are severe. -/
def sevReset (p : Page) : Nat :=
  srcBits p fun c => c == .environmental || c == .deviceFatal || c == .domainFatal

end Sys2Proof.Machine
end

