-- ==== Sys2Proof/Machine/Numeric.lean ====
section
/-! DEFINITION. Binary32 arithmetic of R31, R37 to R40: exact values, one correctly rounded operation at a time. -/

namespace Sys2Proof.Machine

/-- The exact value of an element or of a binary32 word: NaN, a signed infinity, or (−1)^neg · man · 2^exp. -/
inductive Num where
  | nan
  | inf (neg : Bool)
  | fin (neg : Bool) (man : Nat) (exp : Int)
deriving DecidableEq, Repr

/-- Number of significant bits of `n`; 0 for 0. -/
def bitLen (n : Nat) : Nat := if n = 0 then 0 else n.log2 + 1

/-- `man · 2^exp` rounded to a multiple of `2^q`, to nearest with ties to even: the multiple. -/
def rneAt (man : Nat) (exp q : Int) : Nat :=
  if q ≤ exp then man <<< (exp - q).toNat
  else
    let k := (q - exp).toNat
    let hi := man >>> k
    let lo := man % 2 ^ k
    let half := 2 ^ (k - 1)
    if lo > half || (lo == half && hi % 2 == 1) then hi + 1 else hi

/-- `man · 2^exp` truncated to a multiple of `2^q`: the multiple, and whether anything was dropped. -/
def truncAt (man : Nat) (exp q : Int) : Nat × Bool :=
  if q ≤ exp then (man <<< (exp - q).toNat, false)
  else
    let k := (q - exp).toNat
    (man >>> k, man % 2 ^ k != 0)

/-- Exponent of the last place of `man · 2^exp` at precision `p`, never below `emin`. -/
def lsbExp (p : Nat) (emin : Int) (man : Nat) (exp : Int) : Int :=
  max ((bitLen man : Int) + exp - p) emin

/-- A binary32 result and whether a finite result overflowed on the way (R92, R93). -/
structure Fv where
  v : Word32
  ovf : Bool := false
deriving DecidableEq, Repr

/-- The canonical quiet NaN of binary32 (R31). -/
def nan32 : Word32 := 0x7FC00000
/-- Positive and negative infinity. -/
def inf32 (neg : Bool) : Word32 := if neg then 0xFF800000 else 0x7F800000
/-- The largest finite magnitude with a sign. -/
def maxFin32 (neg : Bool) : Word32 := if neg then 0xFF7FFFFF else 0x7F7FFFFF
/-- A signed zero. -/
def zero32 (neg : Bool) : Word32 := if neg then 0x80000000 else 0
/-- One. -/
def one32 : Word32 := 0x3F800000
/-- One half. -/
def half32 : Word32 := 0x3F000000

/-- A binary32 word from its sign and the magnitude `m · 2^q`, `m ≤ 2^24`, already on the grid. -/
def pack32 (neg : Bool) (m : Nat) (q : Int) : Word32 :=
  let (m, q) := if m = 2 ^ 24 then (2 ^ 23, q + 1) else (m, q)
  let field := if m < 2 ^ 23 then m else (q + 150).toNat * 2 ^ 23 + (m - 2 ^ 23)
  BitVec.ofNat 32 ((if neg then 2 ^ 31 else 0) + field)

/-- The finite value rounded once to binary32 (R38); `clamp` is the overflow rule of self-check mode (R93). -/
def roundFin32 (clamp neg : Bool) (man : Nat) (exp : Int) : Fv :=
  if man = 0 then ⟨zero32 neg, false⟩
  else
    let q := lsbExp 24 (-149) man exp
    let m := rneAt man exp q
    if m = 0 then ⟨zero32 neg, false⟩
    else if (bitLen m : Int) + q > 128 then
      if clamp then ⟨maxFin32 neg, true⟩ else ⟨inf32 neg, true⟩
    else ⟨pack32 neg m q, false⟩

/-- R38: an exact value rounded once to binary32. -/
def round32 (clamp : Bool) : Num → Fv
  | .nan => ⟨nan32, false⟩
  | .inf n => ⟨inf32 n, false⟩
  | .fin n m e => roundFin32 clamp n m e

/-- The exact value of a binary32 word (R30); any NaN reads as the one NaN (R31). -/
def num32 (w : Word32) : Num :=
  let neg := w.getLsbD 31
  let e := (w.extractLsb' 23 8).toNat
  let m := (w.extractLsb' 0 23).toNat
  if e = 255 then (if m = 0 then .inf neg else .nan)
  else if e = 0 then .fin neg m (-149)
  else .fin neg (m + 2 ^ 23) ((e : Int) - 150)

/-- Exact negation. -/
def Num.neg : Num → Num
  | .nan => .nan
  | .inf n => .inf (!n)
  | .fin n m e => .fin (!n) m e

/-- Exact magnitude. -/
def Num.abs : Num → Num
  | .nan => .nan
  | .inf _ => .inf false
  | .fin _ m e => .fin false m e

/-- Exact scaling by `2^k`. -/
def Num.scale (x : Num) (k : Int) : Num :=
  match x with
  | .fin n m e => .fin n m (e + k)
  | y => y

/-- The exact product, special values by R39. -/
def Num.mul : Num → Num → Num
  | .nan, _ => .nan
  | _, .nan => .nan
  | .inf a, .inf b => .inf (a != b)
  | .inf a, .fin b m _ => if m = 0 then .nan else .inf (a != b)
  | .fin a m _, .inf b => if m = 0 then .nan else .inf (a != b)
  | .fin a m e, .fin b m' e' => .fin (a != b) (m * m') (e + e')

/-- The exact sum, special values and the sign of a zero sum by R39. -/
def Num.add : Num → Num → Num
  | .nan, _ => .nan
  | _, .nan => .nan
  | .inf a, .inf b => if a = b then .inf a else .nan
  | .inf a, .fin _ _ _ => .inf a
  | .fin _ _ _, .inf b => .inf b
  | .fin a m e, .fin b m' e' =>
    let q := min e e'
    let x : Int := (m <<< (e - q).toNat : Nat)
    let y : Int := (m' <<< (e' - q).toNat : Nat)
    let z := (if a then -x else x) + (if b then -y else y)
    if z = 0 then .fin (a && b) 0 0 else .fin (z < 0) z.natAbs q

/-- `a < b` on exact values; false when either is NaN (R40). -/
def Num.lt : Num → Num → Bool
  | .nan, _ => false
  | _, .nan => false
  | .inf a, .inf b => a && !b
  | .inf a, .fin _ _ _ => a
  | .fin _ _ _, .inf b => !b
  | .fin a m e, .fin b m' e' =>
    let q := min e e'
    let x : Int := (m <<< (e - q).toNat : Nat)
    let y : Int := (m' <<< (e' - q).toNat : Nat)
    decide ((if a then -x else x) < (if b then -y else y))

def Num.isZero : Num → Bool
  | .fin _ m _ => m == 0
  | _ => false

def Num.isFinite : Num → Bool
  | .fin _ _ _ => true
  | _ => false

def Num.isNaN : Num → Bool
  | .nan => true
  | _ => false

/-! ### Binary32 operations under an overflow rule -/

/-- Binary32 addition (R38, R39) under the overflow rule `clamp`. -/
def add32 (clamp : Bool) (a b : Word32) : Fv := round32 clamp ((num32 a).add (num32 b))
/-- Binary32 multiplication. -/
def mul32 (clamp : Bool) (a b : Word32) : Fv := round32 clamp ((num32 a).mul (num32 b))
/-- Multiplication by a power of two (R38). -/
def scale32 (clamp : Bool) (a : Word32) (k : Int) : Fv := round32 clamp ((num32 a).scale k)

/-- Sign flip; a NaN stays the canonical NaN. -/
def neg32 (a : Word32) : Word32 := (round32 false (num32 a).neg).v
/-- Magnitude; a NaN stays the canonical NaN. -/
def abs32 (a : Word32) : Word32 := (round32 false (num32 a).abs).v

/-- Binary32 addition with overflow to infinity (every unit outside the arrays, R39, R140). -/
def fadd (a b : Word32) : Word32 := (add32 false a b).v
/-- Binary32 subtraction. -/
def fsub (a b : Word32) : Word32 := (round32 false ((num32 a).add (num32 b).neg)).v
/-- Binary32 multiplication with overflow to infinity. -/
def fmul (a b : Word32) : Word32 := (mul32 false a b).v
/-- Fused multiply-add with one rounding (R38). -/
def ffma (a b c : Word32) : Word32 := (round32 false (((num32 a).mul (num32 b)).add (num32 c))).v

/-- The quotient of two positive integers as a magnitude with sticky last bit: at least 70 significant bits. -/
def divMag (m m' : Nat) : Nat × Int :=
  let k := bitLen m' + 70
  let n := m <<< k
  let d := n / m'
  (2 * d + (if n % m' = 0 then 0 else 1), -(k : Int) - 1)

/-- Correctly rounded division (R38). -/
def fdiv (a b : Word32) : Word32 :=
  match num32 a, num32 b with
  | .nan, _ => nan32
  | _, .nan => nan32
  | .inf _, .inf _ => nan32
  | .inf n, .fin n' _ _ => inf32 (n != n')
  | .fin n _ _, .inf n' => zero32 (n != n')
  | .fin n m e, .fin n' m' e' =>
    if m' = 0 then (if m = 0 then nan32 else inf32 (n != n'))
    else if m = 0 then zero32 (n != n')
    else
      let (d, k) := divMag m m'
      (roundFin32 false (n != n') d (e - e' + k)).v

/-- Integer square root by bits, from bit `k - 1` down, starting at `r`. -/
def isqrtFrom : Nat → Nat → Nat → Nat
  | 0, _, r => r
  | k + 1, x, r => isqrtFrom k x (if (r + 2 ^ k) * (r + 2 ^ k) ≤ x then r + 2 ^ k else r)

/-- Integer square root. -/
def isqrt (x : Nat) : Nat := isqrtFrom (bitLen x / 2 + 1) x 0

/-- Correctly rounded square root (R38). -/
def fsqrt (a : Word32) : Word32 :=
  match num32 a with
  | .nan => nan32
  | .inf n => if n then nan32 else inf32 false
  | .fin n m e =>
    if m = 0 then zero32 n
    else if n then nan32
    else
      let k := if (e - 60) % 2 = 0 then 60 else 61
      let x := m <<< k
      let r := isqrt x
      (roundFin32 false false (2 * r + (if r * r = x then 0 else 1)) ((e - k) / 2 - 1)).v

/-- R40: maximumNumber. -/
def fmax (a b : Word32) : Word32 :=
  let x := num32 a; let y := num32 b
  if x.isNaN then (if y.isNaN then nan32 else b)
  else if y.isNaN then a
  else if x.isZero && y.isZero then (if a.getLsbD 31 && b.getLsbD 31 then zero32 true else zero32 false)
  else if x.lt y then b else a

/-- R40: minimumNumber. -/
def fmin (a b : Word32) : Word32 :=
  let x := num32 a; let y := num32 b
  if x.isNaN then (if y.isNaN then nan32 else b)
  else if y.isNaN then a
  else if x.isZero && y.isZero then (if a.getLsbD 31 || b.getLsbD 31 then zero32 true else zero32 false)
  else if y.lt x then b else a

/-! ### exp, tanh and erf, correctly rounded (R98, R140)

Fixed point with `2^400` as one; the value's error stays far below the distance of a binary32 result from
a rounding boundary, so the rounded result is the correctly rounded one. -/

/-- One, in fixed point. -/
def fxOne : Nat := 2 ^ 400

/-- `Σ t·x^n/n!` from term `n`, with `t` the running term; `fuel` bounds the terms. -/
def expSeries : Nat → Nat → Nat → Nat → Nat → Nat
  | 0, _, _, _, acc => acc
  | f + 1, x, n, t, acc =>
    let t' := t * x / fxOne / n
    expSeries f x (n + 1) t' (acc + t')

/-- Repeated squaring in fixed point. -/
def sqrTimes : Nat → Nat → Nat
  | 0, x => x
  | k + 1, x => sqrTimes k (x * x / fxOne)

/-- `e^x` for a fixed-point `0 ≤ x < 2^8`, in fixed point. -/
def fxExp (x : Nat) : Nat :=
  sqrTimes 14 (expSeries 64 (x / 2 ^ 14) 1 fxOne fxOne)

/-- The magnitude `man · 2^exp` in fixed point, truncated. -/
def toFx (man : Nat) (exp : Int) : Nat :=
  let k := exp + 400
  if 0 ≤ k then man <<< k.toNat else man >>> (-k).toNat

/-- A fixed-point magnitude rounded to binary32; the last bit is sticky, since the value is never exact. -/
def fxRound (neg : Bool) (x : Nat) : Word32 := (roundFin32 false neg (2 * x + 1) (-401)).v

/-- Correctly rounded `exp`. -/
def fexp (a : Word32) : Word32 :=
  match num32 a with
  | .nan => nan32
  | .inf n => if n then zero32 false else inf32 false
  | .fin n m e =>
    if m = 0 then one32
    else if (bitLen m : Int) + e > 7 then (if n then zero32 false else inf32 false)
    else
      let y := fxExp (toFx m e)
      fxRound false (if n then fxOne * fxOne / y else y)

/-- Correctly rounded `tanh`. -/
def ftanh (a : Word32) : Word32 :=
  match num32 a with
  | .nan => nan32
  | .inf n => if n then 0xBF800000 else one32
  | .fin n m e =>
    if m = 0 then zero32 n
    else if (bitLen m : Int) + e > 5 then (if n then 0xBF800000 else one32)
    else if (bitLen m : Int) + e < -60 then a
    else
      let y := fxExp (2 * toFx m e)
      fxRound n ((y - fxOne) * fxOne / (y + fxOne))

/-- `2/√π` in fixed point. -/
def twoOverSqrtPi : Nat :=
  0x120dd750429b6d11ae3a914fed7fd8688281341d7587cea2e7342b06199cc416180eb39f0b24e1e2281806c12d98f35d77a3e

/-- The positive and negative parts of `Σ (−1)^n x^(2n+1)/(n!(2n+1))`; `t` is `x^(2n+1)/n!`. -/
def erfSeries : Nat → Nat → Nat → Nat → Nat → Nat → Nat × Nat
  | 0, _, _, _, p, q => (p, q)
  | f + 1, x2, n, t, p, q =>
    let u := t / (2 * n + 1)
    let t' := t * x2 / fxOne / (n + 1)
    if n % 2 = 0 then erfSeries f x2 (n + 1) t' (p + u) q else erfSeries f x2 (n + 1) t' p (q + u)

/-- Correctly rounded `erf`. -/
def ferf (a : Word32) : Word32 :=
  match num32 a with
  | .nan => nan32
  | .inf n => if n then 0xBF800000 else one32
  | .fin n m e =>
    if m = 0 then zero32 n
    else if (bitLen m : Int) + e > 2 then (if n then 0xBF800000 else one32)
    else
      let x := toFx m e
      let (p, q) := erfSeries 240 (x * x / fxOne) 0 x 0 0
      fxRound n ((p - q) * twoOverSqrtPi / fxOne)

/-! ### Pairwise trees (R74, R89, R100, R103, R140) -/

/-- One level of an index-order pairwise tree; an odd last element passes up. -/
def treeLevel {α : Type} (op : α → α → α) : List α → List α
  | a :: b :: r => op a b :: treeLevel op r
  | l => l

/-- `k` levels of an index-order pairwise tree. -/
def treeLevels {α : Type} (op : α → α → α) : Nat → List α → List α
  | 0, l => l
  | k + 1, l => treeLevels op k (treeLevel op l)

/-- The index-order pairwise reduction of `2^k` terms. -/
def tree {α : Type} (op : α → α → α) (k : Nat) (d : α) (l : List α) : α :=
  (treeLevels op k l).headD d

/-- `l` padded with `d` to length `n`. -/
def padTo {α : Type} (n : Nat) (d : α) (l : List α) : List α := l ++ List.replicate (n - l.length) d

/-- Addition of two accumulated values, keeping the overflow mark (R92, R93). -/
def Fv.add (clamp : Bool) (a b : Fv) : Fv :=
  let r := add32 clamp a.v b.v
  ⟨r.v, r.ovf || a.ovf || b.ovf⟩

end Sys2Proof.Machine
end

