-- ==== Sys2Proof/Machine/Formats.lean ====
section
/-! DEFINITION. Number formats (R29, R30, R32, R34) and conversion to an output format (R42 to R48, R53). -/

namespace Sys2Proof.Machine

/-- R29: the formats that instructions and descriptors name. -/
inductive Fmt where
  | bf16 | fp32 | mxE4M3 | mxE5M2 | mxE3M2 | mxE2M3 | mxE2M1 | mxInt8 | tsE4M3 | tsE5M2
deriving DecidableEq, Repr

/-- R29: the format of a code; codes 0xA to 0xF are reserved. -/
def Fmt.ofCode : Nat → Option Fmt
  | 0 => some .bf16 | 1 => some .fp32 | 2 => some .mxE4M3 | 3 => some .mxE5M2 | 4 => some .mxE3M2
  | 5 => some .mxE2M3 | 6 => some .mxE2M1 | 7 => some .mxInt8 | 8 => some .tsE4M3 | 9 => some .tsE5M2
  | _ => none

/-- R29: element width in bits. -/
def Fmt.width : Fmt → Nat
  | .bf16 => 16 | .fp32 => 32 | .mxE3M2 => 6 | .mxE2M3 => 6 | .mxE2M1 => 4 | _ => 8

/-- R29: the format has one scale per 32-element block. -/
def Fmt.isMx : Fmt → Bool
  | .mxE4M3 | .mxE5M2 | .mxE3M2 | .mxE2M3 | .mxE2M1 | .mxInt8 => true
  | _ => false

/-- R33: the format carries one scale per operand. -/
def Fmt.isTensor : Fmt → Bool
  | .tsE4M3 | .tsE5M2 => true
  | _ => false

/-- R30: mantissa bits. -/
def Fmt.mbits : Fmt → Nat
  | .bf16 => 7 | .fp32 => 23 | .mxE4M3 | .tsE4M3 => 3 | .mxE5M2 | .tsE5M2 => 2
  | .mxE3M2 => 2 | .mxE2M3 => 3 | .mxE2M1 => 1 | .mxInt8 => 6

/-- R30: exponent bits (0 for MXINT8). -/
def Fmt.ebits : Fmt → Nat
  | .bf16 | .fp32 => 8 | .mxE4M3 | .tsE4M3 => 4 | .mxE5M2 | .tsE5M2 => 5
  | .mxE3M2 => 3 | .mxE2M3 => 2 | .mxE2M1 => 2 | .mxInt8 => 0

/-- R30: exponent bias. -/
def Fmt.bias : Fmt → Int
  | .bf16 | .fp32 => 127 | .mxE4M3 | .tsE4M3 => 7 | .mxE5M2 | .tsE5M2 => 15
  | .mxE3M2 => 3 | .mxE2M3 => 1 | .mxE2M1 => 1 | .mxInt8 => 0

/-- The exponent of the smallest spacing of the format's grid. -/
def Fmt.emin (f : Fmt) : Int := if f = .mxInt8 then -6 else 1 - f.bias - f.mbits

/-- R44: the exponent of the format's top binade. -/
def Fmt.emax : Fmt → Int
  | .bf16 | .fp32 => 127 | .mxE4M3 | .tsE4M3 => 8 | .mxE5M2 | .tsE5M2 => 15
  | .mxE3M2 => 4 | .mxE2M3 => 2 | .mxE2M1 => 2 | .mxInt8 => 0

/-- R30: the largest finite magnitude as a multiple of the top binade's spacing. -/
def Fmt.maxMan : Fmt → Nat
  | .bf16 => 255 | .fp32 => 2 ^ 24 - 1 | .mxE4M3 | .tsE4M3 => 14 | .mxE5M2 | .tsE5M2 => 7
  | .mxE3M2 => 7 | .mxE2M3 => 15 | .mxE2M1 => 3 | .mxInt8 => 127

/-- The exponent of the top binade's spacing. -/
def Fmt.qmax (f : Fmt) : Int := if f = .mxInt8 then -6 else f.emax - f.mbits

/-- R30: the format encodes infinities. -/
def Fmt.hasInf : Fmt → Bool
  | .bf16 | .fp32 | .mxE5M2 | .tsE5M2 => true
  | _ => false

/-- R31: the code of the canonical quiet NaN, where the format has one. -/
def Fmt.nanCode : Fmt → Nat
  | .bf16 => 0x7FC0 | .fp32 => 0x7FC00000 | .mxE4M3 | .tsE4M3 => 0x7F | .mxE5M2 | .tsE5M2 => 0x7E
  | _ => 0

/-- R30: the exact value of an element code, before its scale. -/
def Fmt.decode (f : Fmt) (c : Nat) : Num :=
  if f = .mxInt8 then
    let c := c % 256
    if c < 128 then .fin false c (-6) else .fin true (256 - c) (-6)
  else
    let neg := c.testBit (f.width - 1)
    let e := (c >>> f.mbits) % 2 ^ f.ebits
    let m := c % 2 ^ f.mbits
    if f.hasInf && e == 2 ^ f.ebits - 1 then (if m = 0 then .inf neg else .nan)
    else if (f == .mxE4M3 || f == .tsE4M3) && e == 15 && m == 7 then .nan
    else if e = 0 then .fin neg m f.emin
    else .fin neg (m + 2 ^ f.mbits) ((e : Int) - f.bias - f.mbits)

/-- R32: the unbiased exponent of a scale byte; `none` for the NaN mark 0xFF. -/
def scaleExp (s : Nat) : Option Int := if s % 256 = 255 then none else some ((s % 256 : Nat) - 127)

/-- How a conversion rounds (R42, R46): to nearest even, or stochastically with a random word. -/
inductive Rounding where
  | rne
  | sr (r : Word32)
deriving DecidableEq, Repr

/-- R53: the one counter a result element is counted in. -/
inductive Outcome4 where
  | ordinary | nanEl | infEl | satEl | flushEl
deriving DecidableEq, Repr

/-- R53: the four counters of an operation. -/
structure Counts where
  sat : Nat := 0
  flush : Nat := 0
  nan : Nat := 0
  inf : Nat := 0
deriving DecidableEq, Repr

/-- One more counted element (R54: saturating). -/
def Counts.tick (c : Counts) : Outcome4 → Counts
  | .ordinary => c
  | .nanEl => { c with nan := satAdd32 c.nan 1 }
  | .infEl => { c with inf := satAdd32 c.inf 1 }
  | .satEl => { c with sat := satAdd32 c.sat 1 }
  | .flushEl => { c with flush := satAdd32 c.flush 1 }

/-- The sum of two sets of counters (R54). -/
def Counts.add (a b : Counts) : Counts :=
  ⟨satAdd32 a.sat b.sat, satAdd32 a.flush b.flush, satAdd32 a.nan b.nan, satAdd32 a.inf b.inf⟩

/-- The per-context conversion controls of R55. -/
structure Arith where
  ftz : Bool := false
  e5m2Sat : Bool := true
  mxHeadroom : Bool := false
deriving DecidableEq, Repr

/-- Exponent of the last place of the format's grid at `man · 2^exp` (R47: beyond the largest finite the top
binade's spacing goes on). -/
def Fmt.gridExp (f : Fmt) (man : Nat) (exp : Int) : Int :=
  min (lsbExp (f.mbits + 1) f.emin man exp) f.qmax

/-- R47, R48: the magnitude rounded to the grid: the multiple and its exponent. -/
def Fmt.roundMag (f : Fmt) (rm : Rounding) (man : Nat) (exp : Int) : Nat × Int :=
  let q := if f = .mxInt8 then -6 else f.gridExp man exp
  match rm with
  | .rne => (rneAt man exp q, q)
  | .sr r =>
    if q ≤ exp then (rneAt man exp q, q)
    else
      let k := (q - exp).toNat
      let d := ((man % 2 ^ k) <<< 32) >>> k
      (man >>> k + (if 2 ^ 32 ≤ d + r.toNat then 1 else 0), q)

/-- The magnitude `m · 2^q` exceeds the largest finite element (R42). -/
def Fmt.exceeds (f : Fmt) (m : Nat) (q : Int) : Bool :=
  let d := min q f.qmax
  decide (f.maxMan <<< (f.qmax - d).toNat < m <<< (q - d).toNat)

/-- The code of a signed magnitude `m · 2^q` on the grid, at most the largest finite. -/
def Fmt.encode (f : Fmt) (neg : Bool) (m : Nat) (q : Int) : Nat :=
  if f = .mxInt8 then (if neg then (256 - m) % 256 else m)
  else
    let (m, q) := if m = 2 ^ (f.mbits + 1) then (2 ^ f.mbits, q + 1) else (m, q)
    let field := if m < 2 ^ f.mbits then m else ((q + f.mbits + f.bias).toNat) <<< f.mbits + (m - 2 ^ f.mbits)
    (if neg then 2 ^ (f.width - 1) else 0) + field

/-- The code of ±largest finite. -/
def Fmt.maxCode (f : Fmt) (neg : Bool) : Nat := f.encode neg f.maxMan f.qmax

/-- The code of a signed infinity (formats that have one). -/
def Fmt.infCode (f : Fmt) (neg : Bool) : Nat :=
  (if neg then 2 ^ (f.width - 1) else 0) + (2 ^ f.ebits - 1) <<< f.mbits

/-- The code of a signed zero; MXINT8 has one zero. -/
def Fmt.zeroCode (f : Fmt) (neg : Bool) : Nat := if neg && f != .mxInt8 then 2 ^ (f.width - 1) else 0

/-- R42, R43, R45: one element converted with divisor `2^x`; `ftz` is `CTX_ARITH.FTZ_DRAIN` at a drain's final
conversion and `false` elsewhere. -/
def Fmt.convert (f : Fmt) (a : Arith) (ftz : Bool) (rm : Rounding) (x : Int) (v : Num) : Nat × Outcome4 :=
  match v with
  | .nan => (f.nanCode, .nanEl)
  | .inf n => if f.hasInf then (f.infCode n, .infEl) else (f.maxCode n, .satEl)
  | .fin n man exp =>
    if man = 0 then (f.zeroCode n, .ordinary)
    else
      let (m, q) := f.roundMag rm man (exp - x)
      if m = 0 then (f.zeroCode n, .flushEl)
      else if f.exceeds m q then
        if f == .fp32 || f == .bf16 || ((f == .mxE5M2 || f == .tsE5M2) && !a.e5m2Sat) then (f.infCode n, .infEl)
        else (f.maxCode n, .satEl)
      else if ftz && f != .mxInt8 && m < 2 ^ f.mbits then (f.zeroCode n, .flushEl)
      else (f.encode n m q, .ordinary)

/-- The larger of two finite magnitudes. -/
def magMax (a b : Nat × Int) : Nat × Int :=
  let q := min a.2 b.2
  if a.1 <<< (a.2 - q).toNat < b.1 <<< (b.2 - q).toNat then b else a

/-- R44: the largest finite magnitude of a block; `(0, 0)` when there is none. -/
def amax (vs : List Num) : Nat × Int :=
  vs.foldl (fun acc v => match v with
    | .fin _ m e => magMax acc (m, e)
    | _ => acc) (0, 0)

/-- R44: the unbiased scale exponent of a block with a non-zero finite element and no NaN. -/
def Fmt.blockExp (f : Fmt) (headroom : Bool) (m : Nat) (e : Int) : Int :=
  let x := (bitLen m : Int) - 1 + e - f.emax
  let x' := if headroom then
      let (r, q) := f.roundMag .rne m (e - x)
      if f.exceeds r q then x + 1 else x
    else x
  max (-127) (min 127 x')

/-- R44: one MX block converted: the scale byte, and each element's code and outcome. -/
def Fmt.convertBlock (f : Fmt) (a : Arith) (ftz : Bool) (rm : Nat → Rounding) (vs : List Num) :
    Nat × List (Nat × Outcome4) :=
  if vs.any Num.isNaN then (0xFF, vs.map fun _ => (0, Outcome4.nanEl))
  else
    let (m, e) := amax vs
    let x := if m = 0 then 0 else f.blockExp a.mxHeadroom m e
    ((x + 127).toNat, vs.zipIdx.map fun (v, i) => f.convert a ftz (rm i) x v)

/-! ### Philox4x32 (R47) -/

/-- One round of the generator. -/
def philoxRound (c : Word32 × Word32 × Word32 × Word32) (k0 k1 : Word32) : Word32 × Word32 × Word32 × Word32 :=
  let p0 : Nat := 0xD2511F53 * c.1.toNat
  let p1 : Nat := 0xCD9E8D57 * c.2.2.1.toNat
  (BitVec.ofNat 32 (p1 >>> 32) ^^^ c.2.1 ^^^ k0, BitVec.ofNat 32 p1,
   BitVec.ofNat 32 (p0 >>> 32) ^^^ c.2.2.2 ^^^ k1, BitVec.ofNat 32 p0)

/-- The remaining rounds, the key bumped before each but the first. -/
def philoxRounds : Nat → Word32 × Word32 × Word32 × Word32 → Word32 → Word32 → Word32 × Word32 × Word32 × Word32
  | 0, c, _, _ => c
  | n + 1, c, k0, k1 => philoxRounds n (philoxRound c k0 k1) (k0 + 0x9E3779B9) (k1 + 0xBB67AE85)

/-- R47: Philox4x32 with ten rounds; output word `i`. -/
def philox (c0 c1 c2 c3 k0 k1 : Word32) (i : Nat) : Word32 :=
  let r := philoxRounds 10 (c0, c1, c2, c3) k0 k1
  match i % 4 with
  | 0 => r.1 | 1 => r.2.1 | 2 => r.2.2.1 | _ => r.2.2.2

/-- The key and fixed counter words of a stochastic conversion (R48, R141, R206); element `e` of the operation
uses output word `e mod 4` of counter `c3 = ⌊e/4⌋`. -/
structure SrKey where
  k0 : Word32
  k1 : Word32
  c0 : Word32
  c1 : Word32
  c2 : Word32
deriving DecidableEq, Repr

/-- The random word of element `e`. -/
def SrKey.word (k : SrKey) (e : Nat) : Word32 :=
  philox k.c0 k.c1 k.c2 (BitVec.ofNat 32 (e / 4)) k.k0 k.k1 e

/-- The rounding of element `e` of an operation. -/
def srOf (k : Option SrKey) (e : Nat) : Rounding :=
  match k with
  | none => .rne
  | some key => .sr (key.word e)

/-! ### BF16 and two-part splits -/

/-- R50: a binary32 value split into its BF16 parts hi and lo. -/
def splitBf16 (x : Num) : Num × Num :=
  match x with
  | .fin n m e =>
    let (c, o) := Fmt.bf16.convert {} false .rne 0 (.fin n m e)
    let hi := if o == .infEl then Fmt.bf16.decode (Fmt.bf16.maxCode n) else Fmt.bf16.decode c
    let d := (Num.fin n m e).add hi.neg
    let (cl, _) := Fmt.bf16.convert {} false .rne 0 d
    (hi, Fmt.bf16.decode cl)
  | y => (y, .fin false 0 0)

end Sys2Proof.Machine
end

