-- ==== Sys2Proof/Machine/TileState.lean ====
section
/-! DEFINITION. The state of fields and furrows: streams, tile slots, weight banks, transfers, semaphores and barriers
(R61, R85, R107 to R128, R147, R171, R182). -/

namespace Sys2Proof.Machine

/-- R150: what a stream slot is doing. -/
inductive StrmState where
  | idle | issuing | waiting | halted
deriving DecidableEq, Repr

/-- R150: what a waiting stream waits for. -/
inductive WaitKind where
  | none | semaphore | barrier | slot | interlock | fetch | xferLimit | stepEnd
deriving DecidableEq, Repr

/-- R126, R128: one operand binding. -/
structure Binding where
  turned : Bool
  fmt : Nat
  eaddr : Nat
  saddr : Nat
  estride : Nat
  sstride : Nat
  tscale : Nat
deriving DecidableEq, Repr

/-- R108, R109: one launch of one stream on one furrow, with the command that carried it (queue and position) and, for
a sequencer run, the run and the launch's place in it (R148). -/
structure Launch where
  queue : Nat
  seq : Nat
  prog : Nat
  base : List Nat
  mb : Nat
  run : Option Nat
  idx : Nat
deriving DecidableEq, Repr

/-- R107 to R128, R144, R150, R210: one instruction stream of one context on one physical furrow. `buf` holds the fetched
words from `pc` on, `none` for one that came from an uncorrectable codeword (R110); `arrived` is the barrier the head BAR
has arrived at (R122); `granted` numbers the furrow's grants, and is that of the stream's last one (R112). -/
structure StreamSt where
  state : StrmState := .idle
  wait : WaitKind := .none
  waitSem : Nat := 0
  pc : Nat := 0
  base : List Nat := []
  mb : Nat := 0
  bindA : Option Binding := none
  bindW : List (Option Binding) := [none, none, none, none]
  launches : List Launch := []
  cur : Option Launch := none
  buf : List (Option InstrWord) := []
  arrived : Option Nat := none
  stepped : Bool := false
  gotLaunch : Bool := false
  qsum : Word32 := 0
  loss : Option Word32 := none
  haltCause : Nat := 0
  sampled : Nat := 0
  granted : Nat := 0
deriving DecidableEq, Repr

/-- A byte range of a store, and whether it is written (R115). -/
structure Rng where
  lo : Nat
  len : Nat
  wr : Bool
deriving DecidableEq, Repr

/-- R115: the footprint of an instruction: seedbed byte ranges of the furrow, gleaning elements, and physical slots
(each named slot counts as written). -/
structure Footprint where
  seed : List Rng := []
  glean : List Rng := []
  slots : List Nat := []
deriving DecidableEq, Repr

/-- Who issued an operation: context, stream (0 F, 1 B, 2 U), step, and the launching command. -/
structure Owner where
  ctx : Nat
  strm : Nat
  step : Nat
  queue : Nat
  seq : Nat
deriving DecidableEq, Repr

/-- R62, R63, R87, R128 to R130: an MMA or MMT between issue and retirement. -/
structure MmaOp where
  owner : Owner
  thin : Bool
  mask : Nat
  slot : Nat
  m : Nat
  n : Nat
  kb : Nat
  passes : Nat
  row0 : Nat
  col0 : Nat
  k0 : Nat
  fmtA : Nat
  fmtB : Nat
  bindA : Binding
  bindW : List Binding
  clamp : Bool
  nextFill : Nat := 0
  nextPass : Nat := 0
  fp : Footprint
deriving DecidableEq, Repr

/-- One weight element as the array takes it: exact value and unbiased scale exponent; a scale byte of 0xFF makes the
value NaN (R32). -/
structure Elem where
  v : Num
  s : Int
deriving DecidableEq, Repr

/-- R74: the lane weight of one reduction row: value, magnitude, lane scale. -/
structure LaneW where
  v : Word32
  m : Word32
  s : Int
deriving DecidableEq, Repr

/-- R61: a live bank of the weight buffer: for each K block of the pass, for each column, 32 elements; and for each K
block and column group the lane weights of R74. -/
structure Bank where
  pass : Nat
  w : List (List (List Elem))
  lane : List (List (List LaneW))
deriving DecidableEq, Repr

/-- R105: what a drain leaves for its retirement: its record and the counts it reports. -/
structure DrnOp where
  owner : Owner
  slot : Nat
  named : Nat
  rec? : Option (Nat × List Byte)
  counts : Counts
  failMask : Nat
  skipMask : Nat
  thin : Bool
  sumsq : Bool
  q : Word32
  discarded : Bool
  fp : Footprint
deriving DecidableEq, Repr

/-- A VOP, optimiser or gleaning operation between issue and retirement (R114, R115); `unit` is 0 for the vector or
gleaning unit and 4 to 7 for arrays A0 to A3 (R139). `counts` is the operation's own set of counters (R54). -/
structure UnitOp where
  owner : Owner
  unit : Nat
  fp : Footprint
  counts : Counts := {}
deriving DecidableEq, Repr

/-- R85, R143: one tile slot. `lev` holds five registers per element (L0 to L3 and T at `5·element + i`), `lane` the five
registers of C and of E for each row and column group (`10·(4·row + group) + 5·(0 C, 1 E) + i`). `shadow` is the spare
furrow that repeats the slot's work (R408). -/
structure Slot where
  thin : Bool := false
  m : Nat := 32
  n : Nat := 96
  q : Nat := 0
  t : Bool := false
  p : Nat := 0
  ovf : Bool := false
  undef : Option Nat := none
  lev : Store Word32 := []
  lane : Store Word32 := []
  forces : List (Nat × Nat × Word32) := []
  failMask : Nat := 0
  skipMask : Nat := 0
  drainStep : Nat := 0
  shadow : Option Nat := none
deriving DecidableEq, Repr

/-- R58 to R61, R114: one physical furrow's queues of operations and its weight buffer. `vopDone` is the completion field
of each unit, 8 for the gleaning unit: owner and counters of the last operation that retired there (R54; its place is the
model's, log 68). -/
structure FurrowSt where
  slots : Store Slot := []
  mmas : List MmaOp := []
  banks : List Bank := []
  drns : List DrnOp := []
  vops : List UnitOp := []
  glns : List UnitOp := []
  vopDone : Store (Owner × Counts) := []
deriving DecidableEq, Repr

/-- R116, R137, R138: a DMA transfer: pairs of seedbed byte and memory address for its rows, what completes it, and the
address of its instruction (R439). -/
structure Xfer where
  field : Nat
  furrow : Nat
  owner : Owner
  dir : Nat
  rows : List (Nat × Nat)
  rlen : Nat
  signal : Option Nat
  fp : List Rng
  pc : Nat
deriving DecidableEq, Repr

/-- R171, R172: the DMA side of one field: instructions waiting for the full hand-off queue, the hand-off queue, and the
transfers in the eight engines. -/
structure DmaSt where
  waiting : List Xfer := []
  handoff : List Xfer := []
  active : List (Nat × Xfer) := []
deriving DecidableEq, Repr

/-- R122, R123: a barrier with arrivals. -/
structure Barrier where
  count : Nat
  arrivals : Nat
deriving DecidableEq, Repr

/-- R409: a comparison that a shadow engine has still to make: the original and the shadow furrow, who issued the
instruction, and what an almanac entry of a mismatch shows (R419). -/
structure ShadowOp where
  field : Nat
  orig : Nat
  engine : Nat
  owner : Owner
  slot : Nat
  opcode : Nat
  coord : Nat
deriving DecidableEq, Repr

/-- A launch table as read (R108). -/
structure LTable where
  progs : List Nat
  base : List Nat
  mb : Nat
  strm : Nat
deriving DecidableEq, Repr

/-- R147, R148: a sequencer run in progress. -/
structure SeqRun where
  id : Nat
  field : Nat
  ctx : Nat
  queue : Nat
  seq : Nat
  pairs : Nat
  issuedF : Nat
deriving DecidableEq, Repr

end Sys2Proof.Machine
end

