-- ==== Sys2Proof/Machine/CtxState.lean ====
section
/-! DEFINITION. The state of contexts, steps and commit regions (R57, R198, R209 to R217, R285, R292, R302, R316). -/

namespace Sys2Proof.Machine

/-- What BEGIN latches for a step (R57, R194, R198, R217, R277, R292, R407). -/
structure StepLatch where
  arith : Arith := {}
  k0 : Word32 := 0
  k1 : Word32 := 0
  compat : Bool := false
  tied : Bool := false
  frz : List (Nat × Nat) := []
  split : Bool := false
  splitN : Nat := 0
  splitPos : Nat := 0
  seqTok : Nat := 0
  rwK : Nat := 16
  rwAlpha : Nat := 5
  rwWarmup : Nat := 20
  rwReset : Bool := false
  actwin : List (Nat × Nat) := []
  run : Nat := 0
  runs : List Nat := [0, 0, 0, 0]
  writeEn : List Bool := [false, false, false, false]
  early : List (Nat × Nat) := []
  shadowEn : Bool := false
  shadowK : Nat := 8
deriving DecidableEq, Repr

/-- R302: a commit group descriptor as latched. -/
structure Group where
  gid : Nat
  parent : Nat
  pctx : Nat
  root : Bool
  auto : Bool
  children : List (Nat × Nat)
deriving DecidableEq, Repr

/-- R304: a commit token. -/
structure Token where
  src : Nat
  sctx : Nat
  dctx : Nat
  gid : Nat
  step : Nat
  kind : Nat
  run : Nat
  len : Nat
  auxReserved : Bool
deriving DecidableEq, Repr

/-- The part of a context's state that no register shows (R209 to R213, R292, R295, R302, R303). `settled` says that the last
STEP_READY found no command of the step waiting in a queue, and that no doorbell has rung since (log 6). -/
structure CtxSt where
  latch : StepLatch := {}
  rwResetPending : Bool := false
  totals : Counts := {}
  gradNf : Nat := 0
  lossPosts : Nat := 0
  reported : Bool := false
  prevMu : Word32 := 0
  prevVar : Word32 := 0
  prevN : Nat := 0
  folded : Bool := false
  aborted : Option Nat := none
  group : Option Group := none
  held : List Token := []
  settled : Bool := false
deriving DecidableEq, Repr

/-- R285, R316: one commit region. Copies and length count 4 KiB units of field offset. `back` says that the mirror stands
flipped at `mstep` and no data of a later step has arrived (R308). -/
structure Region where
  ctx : Nat := 0
  field : Nat := 0
  valid : Bool := false
  mirrorRole : Bool := false
  live : Bool := false
  mirrored : Bool := false
  copy0 : Nat := 0
  copy1 : Nat := 0
  len : Nat := 0
  partDev : Nat := 0
  partCtx : Nat := 0
  partFld : Nat := 0
  partReg : Nat := 0
  mstep : Nat := 0
  run : Nat := 0
  kstep : Nat := 0
  kept : Bool := false
  drained : Bool := false
  flipped : Bool := false
  implied : Bool := false
  applied : Nat := 0
  sentData : Nat := 0
  sentEnd : Bool := false
  endCount : Nat := 0
  ackDrained : Bool := false
  ackFailed : Bool := false
  back : Bool := false
deriving DecidableEq, Repr

end Sys2Proof.Machine
end

