-- ==== Sys2Proof/Machine/SysState.lean ====
section
/-! DEFINITION. The state of queues, copies, fences, error pairs and the fault collector (R354 to R370, R387 to R404,
R432 to R439). -/

namespace Sys2Proof.Machine

/-- R435: the two phases of a fence. -/
inductive FPhase where
  | draining | fenced
deriving DecidableEq, Repr

/-- R391 to R393: one dual-rail pair: ticks its raise still lasts, its condition, whether its raise came only from
`ERR_FORCE`, the collector's last reading, the readings that make and end a WIRE, and the context its event is attributed
to (R395). -/
structure PairSt where
  hold : Nat := 0
  cond : Bool := false
  forced : Bool := false
  seen : Bool := false
  equal : Nat := 0
  valid : Nat := 0
  wire : Bool := false
  test : Nat := 0
  who : Option Nat := none
deriving DecidableEq, Repr

/-- R359: a command that has passed the start position and whose completion is not written: its place, what its
completion carries, the step it belongs to, its final status and detail, and whether its completion may be written. -/
structure QCmd where
  seq : Nat
  opc : Nat
  tag : Nat
  irq : Bool
  step : Option Nat
  fin : Option (Nat × Nat)
  ready : Bool
  bad : Nat := 0
deriving DecidableEq, Repr

/-- One queue: the command at the start position as read, whether `COMMAND_START` has let it start, the commands whose
completions are still to be written, oldest first, and those that an abort ended before they reached the start position
(R297). -/
structure QueueSt where
  head : Option (BitVec 512) := none
  go : Bool := false
  cmds : List QCmd := []
  dead : List QCmd := []
  refused : Bool := false
deriving DecidableEq, Repr

/-- R364: a copy or fill on a copy engine. -/
structure CopyOp where
  queue : Nat
  seq : Nat
  src : Nat
  dst : Nat
  srcHost : Bool
  dstHost : Bool
  len : Nat
  pattern : Option Word32
deriving DecidableEq, Repr

end Sys2Proof.Machine
end

