-- ==== Sys2Proof/Machine/FabState.lean ====
section
/-! DEFINITION. The state of the Mebenlink fabric and of the collective engines (R222 to R254, R258 to R280). -/

namespace Sys2Proof.Machine

/-- R238: a packet. `rsv` says that a reserved header bit is set, `trunc` that an ABORT slot follows it (R241); `own` is the
context of this device that a packet it originated belongs to (R434), which no header carries. -/
structure Pkt where
  ptype : Nat
  tc : Nat
  vc : Nat
  dst : Nat
  src : Nat
  dctx : Nat
  len : Nat
  life : Nat
  opid : Nat
  step : Nat
  addr : Nat
  aux : Nat
  rsv : Bool := false
  trunc : Bool := false
  own : Option Nat := none
  payload : List Byte
deriving DecidableEq, Repr

/-- R236, R241: a packet at an output port: its source (0 to 7 ports, 8 to 11 engines of fields 0 to 3, 12 the port itself),
its bytes present so far, the slots already sent, whether it is known how it ends, and whether it ends in an ABORT slot. -/
structure OutPkt where
  from_ : Nat
  hdr : Pkt
  bytes : List Byte
  sent : Nat := 0
  whole : Bool
  abort : Bool := false
  buf : Nat := 0
deriving DecidableEq, Repr

/-- R244: where a packet still being received goes. -/
inductive Route where
  | unrouted
  | out (o : Nat)
  | local_
  | link
  | drop
deriving DecidableEq, Repr

/-- R228, R232: a DATA flit of the replay buffer. -/
structure RFlit where
  seq : Nat
  cbuf : Nat
  ccount : Nat
  body : List Byte
  asked : Nat := 0
deriving DecidableEq, Repr

/-- R251: the fragments of a key-exchange message received so far. -/
structure KexSt where
  next : Nat := 1
  frag : Nat := 0
  buf : List Byte := []
  transcript : List Byte := []
  keys : List Byte := []
  done : Bool := false
deriving DecidableEq, Repr

/-- R222 to R254: what a Mebenlink port holds besides its registers. `keyTx` counts down a KEYON run, `keyRx` the flits
until decryption starts; `oldNext` is RXNEXT of the last session; `sAsm`, `sRoute` and `sCur` keep a packet that a retrain
interrupted; `last` is a whole packet that waits to see whether an ABORT slot follows it (R241); `tail` is the port to which
a packet has gone whole whose next slot is still to be seen. `lastFlit` is the flit last sent, `fec` the bytes sent that do
not fill a message yet, and `codes` the codewords that flit completed, by lane (R227, R229). -/
structure PortSt where
  phase : Nat := 0
  txSeq : Nat := 0
  rxSeq : Nat := 0
  oldNext : Nat := 0
  retrain : Bool := false
  replay : List RFlit := []
  old : List RFlit := []
  resend : Option Nat := none
  nakDue : Bool := false
  waiting : Bool := false
  credits : List Nat := [0, 0, 0, 0, 0, 0, 0, 0]
  ret : List Nat := [0, 0, 0, 0, 0, 0, 0, 0]
  asm : List Byte := []
  asmRoute : Route := .unrouted
  last : Option Pkt := none
  tail : Option Nat := none
  sAsm : List Byte := []
  sRoute : Route := .unrouted
  sLast : Option Pkt := none
  sTail : Option Nat := none
  sCur : Option OutPkt := none
  linkTx : List OutPkt := []
  rx : List Pkt := []
  ctl : List Pkt := []
  held : List OutPkt := []
  cur : Option OutPkt := none
  lastSrc : List Nat := [11, 11, 11, 11]
  wrr : Nat := 0
  kex : KexSt := {}
  keyTx : Option Nat := none
  keyRx : Option Nat := none
  encTx : Bool := false
  encRx : Bool := false
  slotTx : Nat := 0
  slotRx : Nat := 0
  ktx : List Byte := []
  krx : List Byte := []
  hbNum : Nat := 0
  lastHdr : Nat := 0
  lastBody : List Byte := []
  lastFlit : List Byte := []
  fec : List Byte := []
  codes : List (List (List Byte)) := []
deriving DecidableEq, Repr

/-- R261: one member of an operation. -/
structure Member where
  dev : Nat
  ctx : Nat
  field : Nat
  cfirst : Nat
  ccount : Nat
deriving DecidableEq, Repr

/-- Who takes the end of a collective operation. -/
inductive ColUser where
  | stream (n k : Nat) (sem : Option Nat) (waits : Bool)
  | cmd (q seq : Nat)
  | swap (q seq : Nat)
  | prefetch
deriving DecidableEq, Repr

/-- R258 to R273: an operation in progress in a field's engine. `vals` holds the node values present here by shard, node
and chunk; `spills` those that stand in the scratch area (R268); `sent` the transfers made; `stored` the chunks written here;
`status` the failure so far; `bound` whether it belongs to a step. -/
structure ColOp where
  field : Nat
  ctx : Nat
  step : Nat
  opid : Nat
  desc : Nat
  bytes : List Byte
  users : List ColUser
  tables : List (List Member)
  vals : Store (List Word32) := []
  spills : Store Unit := []
  sent : Store Unit := []
  stored : Store Unit := []
  counts : Counts := {}
  status : Nat := 0
  done : Bool := false
  next : Option Nat := none
  bound : Bool := true
deriving DecidableEq, Repr

/-- A COL that waits for room in its engine (R258): whether its command is bound, what the client's memory holds for it (log
15), and its seedbed ranges by physical furrow. -/
structure ColWait where
  ctx : Nat
  user : ColUser
  desc : Nat
  bound : Bool
  host : List Byte
  spans : List (Nat × Rng)
deriving DecidableEq, Repr

/-- R258, R262, R277: one collective engine. -/
structure ColEng where
  ops : List ColOp := []
  waiting : List ColWait := []
  closed : List (Nat × Nat) := []
  early : List (Nat × Pkt) := []
deriving DecidableEq, Repr

end Sys2Proof.Machine
end

