-- ==== Sys2Proof/Machine/ServState.lean ====
section
/-! DEFINITION. The serving state of a context (R322 to R337). -/

namespace Sys2Proof.Machine

/-- R322, R323: a sequence in a slot; `pages` lists the plots of each page held, `jgrow` is the `GROW` of its JOIN. -/
structure SeqSlot where
  seqid : Nat
  len : Nat
  grow : Nat
  jgrow : Nat
  jepoch : Nat
  first : Bool
  mixed : Bool
  field : Nat
  pages : List (List Nat)
deriving DecidableEq, Repr

/-- R325: a join of the admission queue. -/
structure Join where
  seqid : Nat
  field : Nat
  grow : Nat
  t0 : Nat
deriving DecidableEq, Repr

/-- R327, R328: a JOIN or LEAVE that a BEGIN took: its queue and place, its arguments, and the status it will have. -/
structure Taken where
  queue : Nat
  seq : Nat
  join : Option Join
  seqid : Nat
  status : Nat := 0
deriving DecidableEq, Repr

/-- R327: what an admission left: slots, admission queue, taken commands, and the counts of the table header. -/
structure Admission where
  seqs : Store SeqSlot := []
  adm : List Join := []
  taken : List Taken := []
  joined : Nat := 0
  left : Nat := 0
  deferred : Nat := 0
deriving DecidableEq, Repr

/-- R318 to R338: the serving state that no register shows. `held` lists the commands that BEGINs took and whose completions
are not written, `shown` says that the latest sequence table shows a live sequence (R334). -/
structure ServSt where
  seqs : Store SeqSlot := []
  adm : List Join := []
  held : List Taken := []
  snap : Option (Store SeqSlot × List Join) := none
  attempt : Option Admission := none
  attemptEpoch : Nat := 0
  epoch : Nat := 0
  failed : Store Unit := []
  layers : List (Nat × Nat × Nat) := []
  accepted : Bool := false
  closedAt : Option Nat := none
  shown : Bool := false
deriving DecidableEq, Repr

end Sys2Proof.Machine
end

