-- ==== Sys2Proof/Machine/HwState.lean ====
section
/-! DEFINITION. The state of the almanac, flash, fuses, security, power, clocks, management and the module's pins (R411 to
R431, R449 to R540) that no register shows. -/

namespace Sys2Proof.Machine

/-- R418, R419: an almanac entry before it is written: everything but `SEQ`, the classification and the CRC; `tried` says
that one flash write of it has failed (R422). -/
structure AlmEntry where
  cls : Nat
  page : Nat
  bit : Nat
  event : Nat
  code : Nat
  pom : Nat
  time : Nat
  temp : Nat
  vcore : Nat
  clk : Nat
  allot : Nat
  sig : Nat
  step : Nat
  ctx : Option Nat
  count : Nat
  detail : List Byte
  tried : Bool := false
deriving DecidableEq, Repr

/-- R417: the header of the almanac: power-on minutes, `BOOTS`, `EXPELLED`, the last accepted `SEQ`, and the next sequence
number of each class. -/
structure FlashHdr where
  pom : Nat := 0
  boots : Nat := 0
  expelled : Bool := false
  qseq : Nat := 0
  heads : List Nat := [0, 0, 0, 0, 0, 0, 0, 0]
deriving DecidableEq, Repr

/-- R489: what the serial flash is divided into. -/
inductive FlashPart where
  | image | almanac | chain | security | header | reserved
deriving DecidableEq, Repr

/-- R489: the flash offset of a part and its size. -/
def FlashPart.span : FlashPart → Nat × Nat
  | .image => (0, 0x3000000)
  | .almanac => (0x3000000, 0x800000)
  | .chain => (0x3800000, 0x10000)
  | .security => (0x3810000, 0xF0000)
  | .header => (0x3900000, 0x10000)
  | .reserved => (0x3910000, 0x6F0000)

/-- R489: the parts in the order of their offsets: each begins where the one before it ends. -/
def flashParts : List FlashPart := [.image, .almanac, .chain, .security, .header, .reserved]

/-- R489: the part that a flash offset lies in. -/
def flashPartAt (off : Nat) : Option FlashPart :=
  flashParts.find? fun p => p.span.1 ≤ off && off < p.span.1 + p.span.2

/-- R489: the serial flash: the image header (`none` while the header sector is erased) and the image body at its flash
offsets, the certificate chain, the manager key table with K (R506), and the almanac with its header (R417). Entries are kept by
`65536·class + index`. Of the header and of the key table the flash holds two copies, each closed by its commit word: the
current one stands in the fields themselves, the one before it in `hdrOther` and `keysOther`; `hdrSide` and `keysSide` tell
which of the two places holds the current one. -/
structure Flash where
  header : Option (List Byte) := none
  body : Memory := {}
  chain : List (List Byte) := []
  keys : List (List Byte) := []
  need : Nat := 0
  pom : Nat := 0
  boots : Nat := 0
  expelled : Bool := false
  qseq : Nat := 0
  heads : List Nat := [0, 0, 0, 0, 0, 0, 0, 0]
  entries : Store (List Byte) := []
  hdrOther : FlashHdr := {}
  hdrSide : Bool := false
  keysOther : List (List Byte) × Nat := ([], 0)
  keysSide : Bool := false
deriving DecidableEq, Repr

/-- R417: the current copy of the almanac header. -/
def Flash.hdr (x : Flash) : FlashHdr := ⟨x.pom, x.boots, x.expelled, x.qseq, x.heads⟩

/-- R417: a new header is written into the copy that is not current, and then that copy's commit word: it is the current one
from then on, and the copy before it stays whole. -/
def Flash.putHdr (x : Flash) (h : FlashHdr) : Flash :=
  { x with
    pom := h.pom, boots := h.boots, expelled := h.expelled, qseq := h.qseq, heads := h.heads
    hdrOther := x.hdr, hdrSide := !x.hdrSide }

/-- R506: a new manager key table is written into the copy that is not current, and then that copy's commit word. -/
def Flash.putKeys (x : Flash) (keys : List (List Byte)) (need : Nat) : Flash :=
  { x with keys := keys, need := need, keysOther := (x.keys, x.need), keysSide := !x.keysSide }

/-- R488: the fuse block; `fails` says that it fails its own check code. -/
structure Fuses where
  secret : List Byte := []
  keyHash : List (List Byte) := [[], [], [], []]
  revoked : Nat := 0
  svn : Nat := 0
  roots : List (List Byte) := [[], []]
  fails : Bool := false
deriving DecidableEq, Repr

/-- R504: a signed object that MGMT packets are bringing: its source, number, fragment count, next fragment and bytes. -/
structure MgmtObj where
  src : Nat
  num : Nat
  count : Nat
  next : Nat
  bytes : List Byte
deriving DecidableEq, Repr

/-- R491 to R506: security state. `keys` are the memory-encryption key slots, `keyIn` the bytes written to `SEC_KEYj`,
`mailbox` the window, `upHeader` the header of the update session, `running` the header of the running image, `idkey` the
identity public key, `ideStage` the last message of the IDE exchange, `ideT` the bytes of its messages, `ideNew` the
derived keys, `ideTx` and `ideRx` the keys in use by direction, `doe` the last response of the DOE mailbox, and `aer` whether AER reports an IDE
integrity failure (R348, R350). -/
structure SecSt where
  keys : Store (List Byte) := []
  keyIn : Store Word32 := []
  mailbox : Memory := {}
  upHeader : List Byte := []
  running : List Byte := []
  idkey : List Byte := []
  objs : List MgmtObj := []
  ideStage : Nat := 0
  ideT : List Byte := []
  ideNew : List Byte := []
  ideTx : List Byte := []
  ideRx : List Byte := []
  doe : List Byte := []
  aer : Bool := false
deriving DecidableEq, Repr

/-- R456, R461: a change of a limit: when it took effect, in ticks, and the value in 10 W units. -/
structure Change where
  at_ : Nat
  val : Nat
deriving DecidableEq, Repr

/-- R449 to R468: power state: earlier values of A and of the ceilings, each with its minute, still within 100 ms, the last
accepted write of A (tick, by management) and of a cap (tick, minute, by management), caps of the eight minutes, ceilings, the
tick of the next minute boundary, the brake pin with the ticks it has been asserted (up to 1 ms), whether the brake still
drives duty to 0, the brake of R459, the last 1,000 means of P, newest first, each with the integral of E over its millisecond
in 10 W ticks, that integral and the ticks since the last mean, the milliseconds since reset, the place in the order of R466 (0 nothing reduced, 1 to 24 levels below 32, 25 to 39 duties below
16), the levels thermal control asks of fields, and what sleeps: `awake` lists awake furrows, `gated` clock-gated arrays;
`trips`, `hot` and `above` list tripped dies, dies under thermal control and dies over their limit, a field as f and stack
m of field f as 4 + 5f + m; `analog` lists those over the threshold of R538; `resets` holds the RESET_FIELD command, queue
and number, that holds a field in reset (R443). -/
structure PwrSt where
  aHist : List Change := []
  cHist : List (Nat × Change) := []
  lastAllot : Option (Nat × Bool) := none
  lastCap : Option (Nat × Nat × Bool) := none
  caps : List (Option Nat) := [none, none, none, none, none, none, none, none]
  ceils : List Nat := [320, 320, 320, 320, 320, 320, 320, 320]
  edge : Nat := 60000 * 25000
  pin : Bool := false
  pinFor : Nat := 0
  braking : Bool := false
  brake459 : Bool := false
  samples : List (Nat × Nat) := []
  eSum : Nat := 0
  eTicks : Nat := 0
  ms : Nat := 0
  pos : Nat := 0
  thermal : Store Nat := []
  awake : Store Unit := []
  gated : Store Unit := []
  trips : Store Unit := []
  hot : Store Unit := []
  above : Store Unit := []
  analog : Store Unit := []
  resets : Store (Nat × Nat) := []
deriving DecidableEq, Repr

/-- R473 to R486: consecutive windows outside a PLL's accept window, consecutive good and bad monitor windows, the tick of
clock fallback. -/
structure ClkSt where
  bad : Store Nat := []
  monGood : Nat := 0
  monBad : Nat := 0
  fellAt : Nat := 0
deriving DecidableEq, Repr

/-- R512: the PLDM firmware-update session: none; opened; the header or the body being requested; ended. -/
inductive FwState where
  | idle | learn | header | body | done
deriving DecidableEq, Repr

/-- R508 to R518: management state: the last response, the messages sent, each with its binding (0 I3C, 1 PCIe) and the EID it
goes to, the events not answered, the terminus ID, the firmware-update session with its binding, its agent's EID, its piece
size, the header bytes received and whether a request is on its way, whether an activated image waits for a device reset
(R512), the tick of the last almanac read or query (R516), whether `FCOL_LOG_WR` has wrapped, and the data bytes of the
in-band interrupts raised. -/
structure MgSt where
  resp : List Byte := []
  sent : List (Nat × Nat × List Byte) := []
  open_ : List Nat := [0, 0]
  tid : Nat := 0
  fw : FwState := .idle
  agent : Nat := 0
  agentEid : Nat := 0
  piece : Nat := 4096
  buf : List Byte := []
  asked : Bool := false
  resetDue : Bool := false
  readAt : Option Nat := none
  logWrapped : Bool := false
  ibi : List Nat := []
deriving DecidableEq, Repr

/-- R522 to R534: the pins and the input: whether the device is held in device reset, PWR_GOOD driven, the converter
running, the standby rail in regulation; the test access port (R529): TRST_N low, the register selected, the bits that TDO has shifted out. -/
structure PinSt where
  held : Bool := true
  good : Bool := true
  running : Bool := true
  standby : Bool := true
  trst : Bool := true
  tapReg : TapReg := .idcode
  tdo : List Bool := []
deriving DecidableEq, Repr

end Sys2Proof.Machine
end

