-- ==== Sys2Proof/Machine/State.lean ====
section
/-! DEFINITION. The machine state, its faults and refusals, and the state right after reset. -/

namespace Sys2Proof.Machine

/-- Why a step stops: the block has no such reason. Every command answers a next state, and what the spec calls an error is an
effect on the state (R388, R371), so no meaning raises a fault and nothing can be safe or unsafe about one. -/
inductive Fault where
deriving DecidableEq, Repr

/-- Why a command has no meaning. -/
inductive Refusal where
  /-- A command that has no meaning yet, by its mnemonic in the table. Raised by no arm of `exec`: every command has its
  meaning; SAFE. -/
  | notModelled (mnemonic : String)
deriving DecidableEq, Repr

/-- The machine state. Each field's home is here; what a field holds is said at its type or in `INVENTORY.md`. -/
structure State where
  /-- The commands that wait, first in, first out (the model's own). -/
  pending : List Instr := []
  /-- The index of the next free value (the model's own; log 3). -/
  freeCtr : Nat := 1
  /-- The 64-bit local counter, in always-on ticks (R306, R473). -/
  now : Nat := 0
  /-- The register words by BAR0 offset that differ from their reset values (R8, R541). -/
  regs : Store Word32 := []
  /-- High words latched for a function by a read of the low word (R13). -/
  rdLatch : Store Word32 := []
  /-- Low words staged by a function (R14). -/
  wrStage : Store Word32 := []
  /-- Interference registers latched for a function (R382). -/
  ifLatch : Store (List Word32) := []
  /-- What the last register read returned. -/
  rdata : BitVec 64 := 0
  /-- What the last BAR2 or HBM read returned. -/
  b2data : List Byte := []
  /-- Host memory as the device has written it, by function (R343). -/
  hostMem : Memory := {}
  /-- MSI-X messages sent: function and vector (R351). -/
  msgs : List (Nat × Nat) := []
  /-- Functions whose MSI-X capability is enabled (R351). -/
  msixOn : Store Unit := []
  /-- Vectors whose mask bit is clear (R351). -/
  msixOpen : Store Unit := []
  /-- Vectors with a pending message (R351). -/
  msixPend : Store Unit := []
  /-- Functions whose function mask is set (R351). -/
  funcMask : Store Unit := []
  /-- HBM contents by physical address (R153 to R155). -/
  hbm : Memory := {}
  /-- Codewords found uncorrectable and not rewritten since, by physical address / 64 (R162 to R165). -/
  hbmBad : Store Unit := []
  /-- Granules being cleared, oldest first (R158). -/
  clearing : List Nat := []
  /-- The next codeword that scrubbing reads, by stack (R166). -/
  scrubAt : Store Nat := []
  /-- The sheaf stores (R169). -/
  sheaf : Memory := {}
  /-- The seedbeds (R59). -/
  seedbed : Memory := {}
  /-- The gleaning buffers (R182). -/
  glean : Memory := {}
  /-- Slots, weight banks and operations of furrows (R61, R86). -/
  furrows : Store FurrowSt := []
  /-- Streams (R107 to R114, R144, R150). -/
  streams : Store StreamSt := []
  /-- The DMA engines of fields (R116, R121, R171, R172). -/
  dma : Store DmaSt := []
  /-- Shadow operations awaiting comparison (R407). -/
  shadows : List ShadowOp := []
  /-- Semaphores (R118). -/
  sems : Store Nat := []
  /-- Barriers (R122, R123). -/
  barriers : Store Barrier := []
  /-- Sequencer runs (R147, R148). -/
  seqRuns : List SeqRun := []
  /-- What no register shows of a context. -/
  ctxs : Store CtxSt := []
  /-- Commit regions (R285 to R288). -/
  regions : Store Region := []
  /-- Blocks of 4 KiB of fallow windows that a step has written, by device address (R289). -/
  coverage : Store Unit := []
  /-- Domains that drain or are fenced (R435). -/
  fences : List (Dom × FPhase) := []
  /-- Error pairs (R391 to R393). -/
  pairs : Store PairSt := []
  /-- The fault log (R400). -/
  fcolLog : Store (List Byte) := []
  /-- The hang log (R439). -/
  hangLog : Store (List Byte) := []
  /-- What no register shows of a queue (R354 to R359). -/
  queues : Store QueueSt := []
  /-- Copies and fills in progress (R364). -/
  copies : List CopyOp := []
  /-- Mebenlink ports (R219 to R254). -/
  ports : Store PortSt := []
  /-- Packets delivered to the device, with where they arrived (R244). -/
  inbox : List (Nat × Pkt) := []
  /-- The collective engines (R258 to R282). -/
  engines : Store ColEng := []
  /-- Serving state of contexts (R318 to R338). -/
  serv : Store ServSt := []
  /-- The serial flash (R489). -/
  flash : Flash := {}
  /-- The fuse block (R488). -/
  fuses : Fuses := {}
  /-- Almanac entries not yet in flash (R417, R418). -/
  staged : List AlmEntry := []
  /-- R418, R419: of a page and bit, when its last entry was written, if ever, and how many occurrences came since. -/
  heldBack : Store (Option Nat × Nat) := []
  /-- The format and layout code of the last product issued in each field (R420). -/
  lastMma : Store Nat := []
  /-- Security (R491 to R506). -/
  sec : SecSt := {}
  /-- Power (R449 to R468). -/
  pwr : PwrSt := {}
  /-- Clocks (R473 to R483). -/
  clk : ClkSt := {}
  /-- Management (R508 to R518). -/
  mg : MgSt := {}
  /-- Pins and power input (R522 to R534). -/
  pins : PinSt := {}
  /-- Virtual functions enabled (R344). -/
  vfs : Nat := 0
  /-- Size of the physical function's BAR2, as a power of two (R346). -/
  bar2Pf : Nat := 36
  /-- Size of a virtual function's BAR2, as a power of two (R346). -/
  bar2Vf : Nat := 32
  /-- The queue that the queue manager served last (R359). -/
  qmLast : Nat := 8191
deriving DecidableEq, Repr

/-- The outcome of a step. -/
abbrev Out := Host.Outcome State Fault Refusal

/-- R440, R492, R525: the module with PWR_GOOD asserted, held in device reset at boot stage 0: registers at their reset values,
memory reading 0, nothing in progress; its flash and fuses are blank (log 39). -/
def State.reset : State := {}

end Sys2Proof.Machine
end

