-- ==== Sys2Proof/Machine/RegFile.lean ====
section
/-! DEFINITION. The register file: reset values, and the named read and write of one field (R12, R15, R18). Every
register has its one home here, unless a view of `RegBus.lean` computes it from structured state. -/

namespace Sys2Proof.Machine

/-- A field written into a register word. -/
def insertBits (w : Word32) (lo wid v : Nat) : Word32 :=
  let m := BitVec.ofNat 32 ((2 ^ wid - 1) <<< lo)
  (w &&& ~~~m) ||| (BitVec.ofNat 32 ((v % 2 ^ wid) <<< lo))

/-- The register word of a list of field rows at their reset values. -/
def rowsReset (rs : List FieldRow) : Word32 :=
  rs.foldl (fun w r => insertBits w r.lo r.wid r.reset) 0

/-- Reset values that the tables give by rule instead of by number (R83, R84, R234, R394, R471). -/
def resetSpecial (a : Nat) : Option Word32 :=
  match pageAt a, a % 0x1000 with
  | some p, 0x14 => if p.hasCommon then some (BitVec.ofNat 32 (maskReset p)) else none
  | some p, 0x1C => if p.hasCommon then some (BitVec.ofNat 32 (sevReset p)) else none
  | some p, 0 => if p.hasCommon then some (BitVec.ofNat 32 p.blkId) else none
  | some (.port _), 0x120 | some (.port _), 0x124 => some 0x1C001C00
  | some (.port _), 0x128 | some (.port _), 0x12C => some 0x04000400
  | some (.furrow _ n), 0x100 => some (if n ≤ 23 then BitVec.ofNat 32 n else 0x11F)
  | some (.field _), o =>
    if 0x400 ≤ o ∧ o < 0x460 ∧ o % 4 = 0 then some (BitVec.ofNat 32 ((o - 0x400) / 4)) else none
  | some (.power), o =>
    if o = 0x1A0 ∨ o = 0x1A4 then some 0x81400140 else none
  | _, _ => none

/-- The reset value of the register at BAR0 offset `a`. -/
def resetValue (a : Nat) : Word32 :=
  match resetSpecial a with
  | some w => w
  | none => rowsReset (rowsAt a)

/-- One register word. -/
def State.reg (s : State) (a : Nat) : Word32 :=
  match sget? s.regs a with
  | some w => w
  | none => resetValue a

/-- One register word set; a word at its reset value is kept unlisted. -/
def State.setReg (s : State) (a : Nat) (w : Word32) : State :=
  { s with regs := sputD s.regs a w (resetValue a) }

/-- One field read. -/
def State.rf (s : State) (l : Loc) : Nat := ((s.reg l.addr).extractLsb' l.lo l.wid).toNat

/-- One field read as a flag. -/
def State.flag (s : State) (l : Loc) : Bool := s.rf l != 0

/-- One field set. -/
def State.wf (s : State) (l : Loc) (v : Nat) : State :=
  s.setReg l.addr (insertBits (s.reg l.addr) l.lo l.wid v)

/-- R18: a saturating 32-bit count after `n` more events. -/
def State.bump (s : State) (l : Loc) (n : Nat) : State := s.wf l (satAdd32 (s.rf l) n)

/-- A wrapping 64-bit count held in two registers, after `n` more. -/
def State.bump64 (s : State) (lo hi : Loc) (n : Nat) : State :=
  let v := (s.rf lo + 2 ^ 32 * s.rf hi + n) % 2 ^ 64
  (s.wf lo (v % 2 ^ 32)).wf hi (v / 2 ^ 32)

/-- A 64-bit quantity held in two registers (R13). -/
def State.rf64 (s : State) (lo hi : Loc) : Nat := s.rf lo + 2 ^ 32 * s.rf hi

/-- A maximum kept in a peak field. -/
def State.peak (s : State) (l : Loc) (v : Nat) : State := if s.rf l < v then s.wf l v else s

/-- Every register of the page at `base` back to its reset value. -/
def State.resetPage (s : State) (base : Nat) : State := { s with regs := sclear s.regs base (base + 0x1000) }

end Sys2Proof.Machine
end

