-- ==== Sys2Proof/Machine/Access.lean ====
section
/-! DEFINITION. Accessors of the structured state: contexts, streams, furrows, on-chip stores (R107, R115, R169, R376). -/

namespace Sys2Proof.Machine

/-- The key of a furrow. -/
def furKey (f n : Nat) : Nat := f * 26 + n
/-- The key of a stream. -/
def strmKey (f n c k : Nat) : Nat := (furKey f n * 64 + c) * 3 + k

def State.ctx (s : State) (c : Nat) : CtxSt := sgetD s.ctxs c {}
def State.setCtx (s : State) (c : Nat) (x : CtxSt) : State := { s with ctxs := sputD s.ctxs c x {} }

def State.fur (s : State) (f n : Nat) : FurrowSt := sgetD s.furrows (furKey f n) {}
def State.setFur (s : State) (f n : Nat) (x : FurrowSt) : State :=
  { s with furrows := sputD s.furrows (furKey f n) x {} }

def State.strm (s : State) (f n c k : Nat) : StreamSt := sgetD s.streams (strmKey f n c k) {}
def State.setStrm (s : State) (f n c k : Nat) (x : StreamSt) : State :=
  { s with streams := sputD s.streams (strmKey f n c k) x {} }

def State.dmaOf (s : State) (f : Nat) : DmaSt := sgetD s.dma f {}
def State.setDma (s : State) (f : Nat) (x : DmaSt) : State := { s with dma := sputD s.dma f x {} }

/-- R118: semaphore `n` of context `c` in field `f`. -/
def State.sem (s : State) (f c n : Nat) : Nat := sgetD s.sems ((f * 64 + c) * 256 + n) 0
def State.setSem (s : State) (f c n v : Nat) : State := { s with sems := sputD s.sems ((f * 64 + c) * 256 + n) v 0 }

/-- The step number of the context's last BEGIN. -/
def State.stepOf (s : State) (c : Nat) : Nat := s.rf (R.CMT_CCUR_N c)

/-- R19, R93: the context's step runs in self-check mode. -/
def State.clampOf (s : State) (c : Nat) : Bool := s.rf (R.CMT_CSTAT_MODE c) == 2

/-- R374: context `c` is resident. -/
def State.resident (s : State) (c : Nat) : Bool := s.flag (R.CTX_BIND_VALID c)

/-- The field mask of context `c` holds field `f`. -/
def State.inMask (s : State) (c f : Nat) : Bool := (s.rf (R.CTX_FMASK_MASK c)).testBit f

/-- R481: the clock of field `f` is forced off. -/
def State.fieldOff (s : State) (f : Nat) : Bool := s.flag (R.CLK_GATE_FIELD_OFF f)

/-- R451: a furrow is awake. -/
def State.awake (s : State) (f n : Nat) : Bool := (sget? s.pwr.awake (furKey f n)).isSome

/-- R466, R468, R481: the issue stage of a furrow is held: duty 0, or a clock forced off. -/
def State.issueHeld (s : State) (f n : Nat) : Bool :=
  s.rf (R.PWR_FLD_DUTY f) == 0 || s.fieldOff f || s.flag (R.CLK_GATE_FURROW_OFF f n)

/-- R481: an array of the mask, or its furrow, is forced off. -/
def State.arraysOff (s : State) (f n mask : Nat) : Bool :=
  s.flag (R.CLK_GATE_FURROW_OFF f n) || (s.rf (R.CLK_GATE_FURROW_AOFF f n) &&& mask) != 0

/-- The logical number a physical furrow carries; 31 while spare or retired (R83). -/
def State.logical (s : State) (f n : Nat) : Nat := s.rf (R.FUR_MAP_LOGICAL f n)

/-- R84: the physical furrow that carries logical furrow `n`, unless it is vacant. -/
def State.physical (s : State) (f n : Nat) : Option Nat :=
  if s.flag (R.FLD_FURMAP_VACANT f n) then none else some (s.rf (R.FLD_FURMAP_PHYS f n))

/-! ### Seedbed, sheaf store and gleaning buffer -/

/-- Size of one furrow's seedbed (R59). -/
def seedSize : Nat := 2 ^ 23
/-- Units of the seedbed and sheaf store that become undefined together: 64 KiB. -/
def unit64K : Nat := 2 ^ 16
/-- Units of the gleaning buffer: 4,096 elements of 8 bytes. -/
def gleanUnit : Nat := 2 ^ 15
/-- Size of one furrow's gleaning buffer in bytes. -/
def gleanSize : Nat := 2 ^ 22
/-- Size of one field's sheaf store. -/
def sheafSize : Nat := 2 ^ 26

/-- Physical byte `a` of a furrow's seedbed. -/
def State.seedByte (s : State) (f n a : Nat) : Byte := s.seedbed.read unit64K (furKey f n * seedSize + a)
def State.seedRead (s : State) (f n a len : Nat) : List Byte :=
  s.seedbed.readN unit64K (furKey f n * seedSize + a) len
def State.seedWrite (s : State) (f n a : Nat) (bs : List Byte) : State :=
  { s with seedbed := s.seedbed.writeN unit64K (furKey f n * seedSize + a) bs }

/-- R376: the first physical byte of a context's seedbed quota in field `f`, and its size. -/
def State.seedBase (s : State) (f c : Nat) : Nat := 65536 * s.rf (R.FLD_SBQ_BASE c f)
def State.seedQuota (s : State) (f c : Nat) : Nat := 65536 * s.rf (R.FLD_SBQ_SIZE c f)

/-- R170: the first byte of a context's sheaf share in field `f`, and its size. -/
def State.sheafBase (s : State) (f c : Nat) : Nat := 65536 * s.rf (R.FLD_SHEAF_BASE f c)
def State.sheafShare (s : State) (f c : Nat) : Nat := 65536 * s.rf (R.FLD_SHEAF_SIZE f c)

def State.sheafRead (s : State) (f a len : Nat) : List Byte := s.sheaf.readN unit64K (f * sheafSize + a) len
def State.sheafWrite (s : State) (f a : Nat) (bs : List Byte) : State :=
  { s with sheaf := s.sheaf.writeN unit64K (f * sheafSize + a) bs }

/-- Physical gleaning element `e`: value and compensation (R182). -/
def State.gleanGet (s : State) (f n e : Nat) : Word32 × Word32 :=
  let bs := s.glean.readN gleanUnit (furKey f n * gleanSize + 8 * e) 8
  (BitVec.ofNat 32 (leAt bs 0 4), BitVec.ofNat 32 (leAt bs 4 4))
def State.gleanSet (s : State) (f n e : Nat) (x : Word32 × Word32) : State :=
  let bs := leBytes 4 x.1.toNat ++ leBytes 4 x.2.toNat
  { s with glean := s.glean.writeN gleanUnit (furKey f n * gleanSize + 8 * e) bs }

/-- A binary32 or BF16 vector element of a furrow's seedbed, widened exactly (R95). -/
def State.seedVec (s : State) (f n a : Nat) (fp32 : Bool) (i : Nat) : Word32 :=
  if fp32 then BitVec.ofNat 32 (leNat (s.seedRead f n (a + 4 * i) 4))
  else BitVec.ofNat 32 (leNat (s.seedRead f n (a + 2 * i) 2) * 65536)

end Sys2Proof.Machine
end

