-- ==== Sys2Proof/Machine/Ops.lean ====
section
/-! DEFINITION. Shared operations: error sources and their pairs (R388 to R391), MSI-X messages (R351), context events
(R352), blocking causes (R294, R295), fences as they stand (R435, R436), access errors (R371), device writes to host
memory (R343). -/

namespace Sys2Proof.Machine

/-! ### Error sources -/

/-- The key of a source's pair. -/
def pairKey (page bit : Nat) : Nat := page / 0x1000 * 32 + bit

def State.pair (s : State) (k : Nat) : PairSt := sgetD s.pairs k {}
def State.setPair (s : State) (k : Nat) (x : PairSt) : State := { s with pairs := sputD s.pairs k x {} }

/-- R389: the source is masked; device-fatal sources cannot be. -/
def State.masked (s : State) (page bit : Nat) : Bool :=
  (s.rf (R.ERR_MASK_MASK page)).testBit bit && !srcFatal page bit

/-- R388: one event of a source in the error words of its page. -/
def State.errWords (s : State) (page bit : Nat) : State :=
  let s := s.wf (R.ERR_STAT_STAT page) (s.rf (R.ERR_STAT_STAT page) ||| 2 ^ bit)
  let s := s.bump (R.ERR_CNT_COUNT page) 1
  if s.flag (R.ERR_FIRST_VALID page) then s
  else (s.wf (R.ERR_FIRST_BIT page) bit).wf (R.ERR_FIRST_VALID page) 1

/-- R391: the source's pair is raised for two ticks, unless the source is masked. -/
def State.raisePair (s : State) (page bit : Nat) (forced : Bool) : State :=
  if s.masked page bit then s
  else
    let x := s.pair (pairKey page bit)
    let f := forced && (x.hold == 0 && !x.cond || x.forced)
    s.setPair (pairKey page bit) { x with hold := 2, forced := f }

/-- R388, R391: one real event of a source. -/
def State.raiseSrc (s : State) (page bit : Nat) : State := (s.errWords page bit).raisePair page bit false

/-- R388, R395: one real event of a source, attributed to a context. -/
def State.raiseFor (s : State) (page bit : Nat) (c : Option Nat) : State :=
  let s := s.raiseSrc page bit
  match c with
  | none => s
  | some _ =>
    if s.masked page bit then s else s.setPair (pairKey page bit) { s.pair (pairKey page bit) with who := c }

/-- R388, R391: one event of a condition, which lasts from then on. -/
def State.condEvent (s : State) (page bit : Nat) : State :=
  let s := s.raiseSrc page bit
  s.setPair (pairKey page bit) { s.pair (pairKey page bit) with cond := true }

/-- R391: a condition begins (one event) or goes on. -/
def State.raiseCond (s : State) (page bit : Nat) : State :=
  if (s.pair (pairKey page bit)).cond then s else s.condEvent page bit

/-- R391: a condition ends. -/
def State.dropCond (s : State) (page bit : Nat) : State :=
  s.setPair (pairKey page bit) { s.pair (pairKey page bit) with cond := false }

/-! ### Messages and events -/

/-- The size of a function's MSI-X table (R351). -/
def msixSize (func : Nat) : Nat := if func = 0 then 2048 else 32

/-- The key of a vector of a function. -/
def vecKey (func vec : Nat) : Nat := func * 2048 + vec

/-- R351: the host's masks let the vector's messages through (log 9). -/
def State.vecOpen (s : State) (func vec : Nat) : Bool :=
  (sget? s.msixOn func).isSome && (sget? s.funcMask func).isNone && (sget? s.msixOpen (vecKey func vec)).isSome

/-- R351: one message, sent or kept pending behind the host's masks. -/
def State.sendMsg (s : State) (func vec : Nat) : State :=
  if s.vecOpen func vec then { s with msgs := s.msgs ++ [(func, vec)] }
  else { s with msixPend := sput s.msixPend (vecKey func vec) () }

/-- R344: the function exists and is enabled. -/
def State.funcEnabled (s : State) (func : Nat) : Bool := func ≤ s.vfs

/-- R351: one message on vector 0 of the physical function and of every enabled virtual function. -/
def State.sendVector0 (s : State) : State :=
  (List.range 64).foldl (fun s f => if s.funcEnabled f then s.sendMsg f 0 else s) s

/-- The client of a context. -/
def State.client (s : State) (c : Nat) : Nat := s.rf (R.CTX_BIND_CLIENT c)

/-- R352: event `bit` of a context: 0 ready, 1 run-watch, 2 serving, 3 subtree-ready. -/
def State.ctxEvent (s : State) (c bit : Nat) : State :=
  let old := s.rf (R.HIF_CEVTS_CAUSE c)
  if old.testBit bit then s
  else
    let s := s.wf (R.HIF_CEVTS_CAUSE c) (old ||| 2 ^ bit)
    if (s.reg (A.HIF_CEVT c)).getLsbD (16 + bit) then s.sendMsg (s.client c) (s.rf (R.HIF_CEVT_VEC c)) else s

/-! ### Step state -/

def stReset : Nat := 0
def stBoundary : Nat := 1
def stRunning : Nat := 2
def stReady : Nat := 3
def stBlocked : Nat := 4

/-- R293: the commit state of a context. -/
def State.cstate (s : State) (c : Nat) : Nat := s.rf (R.CMT_CSTAT_STATE c)

/-- A step of the context is current. -/
def State.stepCurrent (s : State) (c : Nat) : Bool :=
  s.cstate c == stRunning || s.cstate c == stReady || s.cstate c == stBlocked

/-- R294, R295: a blocking cause: 0 halt, 1 uncorrected error, 2 checksum or cross-check, 3 collective or command, 4
mirror, 5 fence, 6 watchdog. A READY step is blocked by a fence only. -/
def State.blockCause (s : State) (c bit : Nat) : State :=
  let st := s.cstate c
  if st == stRunning || st == stBlocked || (st == stReady && bit == 5) then
    (s.wf (R.CMT_CSTAT_BLOCK c) (s.rf (R.CMT_CSTAT_BLOCK c) ||| 2 ^ bit)).wf (R.CMT_CSTAT_STATE c) stBlocked
  else s

/-! ### Fences -/

/-- R435: the phase of a domain's own fence. -/
def State.fenceOf (s : State) (d : Dom) : Option FPhase := (s.fences.find? fun e => e.1 == d).map Prod.snd

/-- The domain is draining or fenced. -/
def State.isFenced (s : State) (d : Dom) : Bool := (s.fenceOf d).isSome

/-- R436: a stream issues nothing: its own fence, its field's or its context's. -/
def State.streamHeld (s : State) (f n c k : Nat) : Bool :=
  s.isFenced (.stream f n c k) || s.isFenced (.field f) || s.isFenced (.ctx c)

/-- R436: a DMA engine takes no transfer. -/
def State.engineFenced (s : State) (f e : Nat) : Bool := s.isFenced (.dma f e) || s.isFenced (.field f)

/-- The fence ends. -/
def State.endFence (s : State) (d : Dom) : State := { s with fences := s.fences.filter fun e => e.1 != d }

/-- A field of the context's mask is draining or fenced (R295). -/
def State.maskFenced (s : State) (c : Nat) : Bool :=
  (List.range 4).any fun f => s.inMask c f && s.isFenced (.field f)

/-! ### Access errors (R371) -/

/-- R371: an access error: function, BAR (0 or 1 for BAR2), write, kind, offset. -/
def State.accErr (s : State) (func bar : Nat) (write : Bool) (kind off : Nat) : State :=
  let s := (s.bump R.HIF_ACC_CNT_COUNT 1).raiseSrc Page.hostifBase 0
  if s.flag R.HIF_ACC_INFO_VALID then s
  else ((((((s.wf R.HIF_ACC_INFO_FUNC func).wf R.HIF_ACC_INFO_BAR bar).wf R.HIF_ACC_INFO_WRITE
    (if write then 1 else 0)).wf R.HIF_ACC_INFO_KIND kind).wf R.HIF_ACC_INFO_VALID 1).wf
      R.HIF_ACC_ADDR_LO_OFFSET (off % 2 ^ 32)).wf R.HIF_ACC_ADDR_HI_OFFSET (off / 2 ^ 32)

/-! ### Host memory -/

/-- The unit of host memory (never undefined). -/
def hostUnit : Nat := 2 ^ 64

/-- R343: bytes the device writes to host memory of a function. -/
def State.hostWrite (s : State) (func a : Nat) (bs : List Byte) : State :=
  { s with hostMem := s.hostMem.writeN hostUnit (func * 2 ^ 64 + a) bs }

/-! ### Free values -/

/-- A fresh index of free values (log 3). -/
def State.fresh (s : State) : Nat × State := (s.freeCtr, { s with freeCtr := s.freeCtr + 1 })

/-- A verdict of the outside, or a free one where the command brings none (log 45). -/
def State.verdict (s : State) (x : Option Bool) : Bool × State :=
  match x with
  | some b => (b, s)
  | none => let (i, s) := s.fresh; ((Config.freeWord i 0).getLsbD 0, s)

/-- `n` bytes whose value the manual does not state. -/
def State.freeBytes (s : State) (n : Nat) : List Byte × State :=
  let (i, s) := s.fresh
  ((List.range n).map (Config.freeByte i), s)

/-- What the sensors show, or free readings where the command brings none (log 45). -/
def State.measured (s : State) (m : Option Meas) : Meas × State :=
  match m with
  | some m => (m, s)
  | none =>
    let (i, s) := s.fresh
    let w := Config.freeWord i
    (⟨(w 0).setWidth 8, (w 1).setWidth 16, (w 2).setWidth 16, (w 3).setWidth 8, (w 4).setWidth 8⟩, s)

end Sys2Proof.Machine
end

