-- ==== Sys2Proof/Machine/Fabric.lean ====
section
/-! DEFINITION. Packets, routing, drops and sending (R238 to R248), ports going down (R226), retraining (R224), and the
fences of ports and fields (R435, R436) with the device-fatal state (R397). -/

namespace Sys2Proof.Machine

/-! ### PLLs (R474, R475, R483) -/

/-- R475: the state of PLL `i`. -/
def State.pll (s : State) (i : Nat) : Nat := s.rf (R.CLK_PLL_STATE i)

/-- R483: the meter of PLL `i`'s clock, and its divisor. -/
def meterOf (i : Nat) : Nat × Nat := if i = 0 then (3, 64) else if i = 1 then (2, 1) else (i + 2, 64)

/-- R475, R483: PLL `i` takes a state other than LOCKED, with no window passed; its output is gated, so that its meter reads
0. -/
def State.setPll (s : State) (i st : Nat) : State :=
  ((s.wf (R.CLK_PLL_STATE i) st).wf (R.CLK_PLL_GOOD i) 0).wf (R.CLK_FMETER_KHZ (meterOf i).1) 0

/-- R475: PLL `i` starts, where it is OFF and the always-on domain runs from REFCLK (R473). -/
def State.startPll (s : State) (i : Nat) : State := if s.pll i = 0 then s.setPll i 1 else s

/-- R475: PLL `i` stops; a LOST one stays so. -/
def State.stopPll (s : State) (i : Nat) : State := if s.pll i = 3 then s else s.setPll i 0

/-! ### Ports -/

def State.port (s : State) (p : Nat) : PortSt := sgetD s.ports p {}
def State.setPort (s : State) (p : Nat) (x : PortSt) : State := { s with ports := sputD s.ports p x {} }

def pDisabled : Nat := 0
def pDetect : Nat := 1
def pTrain : Nat := 2
def pAlign : Nat := 3
def pIdent : Nat := 4
def pKex : Nat := 5
def pActive : Nat := 6
def pRetrain : Nat := 7
def pFailed : Nat := 8

/-- R222: the state of port `p`. -/
def State.pstate (s : State) (p : Nat) : Nat := s.rf (R.MBL_STAT_STATE p)

/-- The state a port works in: RETRAIN goes through TRAIN to KEX (R222, log 10). -/
def State.pphase (s : State) (p : Nat) : Nat := if s.pstate p = pRetrain then (s.port p).phase else s.pstate p

/-- The port moves to a state; in RETRAIN the states from TRAIN to KEX are phases of it (R222). -/
def State.goPhase (s : State) (p st : Nat) : State :=
  if s.pstate p = pRetrain ∧ st ≠ pActive then s.setPort p { s.port p with phase := st }
  else (s.wf (R.MBL_STAT_STATE p) st).setPort p { s.port p with phase := st }

/-- R243: the device's own ID. -/
def State.devId (s : State) : Nat := s.rf R.MBL_DEVID_ID

/-- R243: the device ID that stands for none. -/
def noDevId : Nat := 0xFFFFFF

/-! ### Packet headers (R238) -/

/-- R238: the 32 header bytes. -/
def Pkt.headerBytes (x : Pkt) : List Byte :=
  leBytes 1 (x.ptype + 16 * x.tc + 64 * x.vc) ++ leBytes 3 x.dst ++ leBytes 3 x.src ++ leBytes 1 x.dctx ++
    leBytes 2 x.len ++ leBytes 2 x.life ++ leBytes 4 x.opid ++ leBytes 4 x.step ++ leBytes 6 x.addr ++ leBytes 6 x.aux

/-- R238: a header read from its bytes. -/
def Pkt.parse (b : List Byte) : Pkt :=
  let b0 := leAt b 0 1
  { ptype := b0 % 16, tc := b0 / 16 % 4, vc := b0 / 64 % 2, dst := leAt b 1 3, src := leAt b 4 3,
    dctx := leAt b 7 1 % 64, len := leAt b 8 2 % 512, life := leAt b 10 2, opid := leAt b 12 4, step := leAt b 16 4,
    addr := leAt b 20 6 % 2 ^ 41, aux := leAt b 26 6,
    rsv := b0 / 128 != 0 || leAt b 7 1 / 64 != 0 || leAt b 8 2 / 512 != 0 || leAt b 20 6 / 2 ^ 41 != 0, payload := [] }

/-- R239: the class of a packet type; `none` where the header names its own or the type is reserved. -/
def ptypeClass (t : Nat) : Option Nat :=
  match t with
  | 1 | 3 | 4 => some 0
  | 2 => some 1
  | 5 => some 2
  | 6 | 7 | 8 | 9 => some 3
  | _ => none

/-- R239: HB, IDENT and KEX travel over one link only. -/
def linkLocal (t : Nat) : Bool := t == 7 || t == 8 || t == 9

/-- Credits a packet needs (R235). -/
def creditsFor (len : Nat) : Nat := ceilDiv (32 + 16 * len) 128

/-- The buffer number of a class and virtual channel (R228). -/
def bufOf (x : Pkt) : Nat := 2 * x.tc + x.vc

/-! ### Drops (R240, R244, R248) -/

/-- A drop after arrival on port `p` (below 8), or of a packet the device originated: counted, the first one recorded,
and the source raised. -/
def State.dropPkt (s : State) (p : Nat) (x : Pkt) (cause : Nat) : State :=
  if p < 8 then
    let s := (s.bump (R.MBL_DROP_CNT_COUNT p) 1).raiseSrc (Page.portBase p) 6
    if s.flag (R.MBL_DROP_INFO_VALID p) then s
    else (((((s.wf (R.MBL_DROP_INFO_CAUSE p) cause).wf (R.MBL_DROP_INFO_PTYPE p) x.ptype).wf (R.MBL_DROP_INFO_TC p)
      x.tc).wf (R.MBL_DROP_INFO_VALID p) 1).wf (R.MBL_DROP_SRC_SRC p) x.src).wf (R.MBL_DROP_DST_DST p) x.dst
  else
    let s := (s.bump R.MBL_LDROP_CNT_COUNT 1).raiseSrc Page.fabricBase 0
    if s.flag R.MBL_LDROP_INFO_VALID then s
    else ((((s.wf R.MBL_LDROP_INFO_CAUSE cause).wf R.MBL_LDROP_INFO_PTYPE x.ptype).wf R.MBL_LDROP_INFO_TC
      x.tc).wf R.MBL_LDROP_INFO_VALID 1).wf R.MBL_LDROP_DST_DST x.dst

/-! ### Routing (R244) -/

/-- What R244 decides. -/
inductive Decision where
  | deliver
  | out (o : Nat) (dateline : Bool)
  | drop (cause : Nat)
deriving DecidableEq, Repr

/-- R244: the first valid entry that matches. -/
def State.routeEntry (s : State) (dst : Nat) : Option Nat :=
  (List.range 64).find? fun j =>
    s.flag (R.MBL_RT_LO_VALID j) && s.rf (R.MBL_RT_LO_LO j) ≤ dst && dst ≤ s.rf (R.MBL_RT_HI_HI j)

/-- R244: the four steps; `arrived` is true for a packet that came in on a port. A down output port drops with cause 4. -/
def State.routeOf (s : State) (arrived : Bool) (x : Pkt) : Decision :=
  if x.dst = s.devId then .deliver
  else if arrived && x.src == s.devId then .drop 2
  else match s.routeEntry x.dst with
    | none => .drop 0
    | some j =>
      let o := s.rf (R.MBL_RT_LO_PORT j)
      if s.pstate o = pDisabled || s.pstate o = pFailed then .drop 4
      else .out o (s.flag (R.MBL_RT_LO_DATELINE j))

/-- A packet joins an output port's queue. -/
def State.pushOut (s : State) (o : Nat) (x : OutPkt) : State :=
  let y := s.port o
  s.setPort o { y with held := y.held ++ [x] }

/-- R246: the packet as it leaves through an entry. -/
def Pkt.via (x : Pkt) (dateline : Bool) : Pkt := if dateline then { x with vc := 1 } else x

/-- R244, R246, R248: field `f`'s engine sends a packet; it leaves its source on VC0. `trunc` packets end in an ABORT slot
(R241). -/
def State.sendPkt (s : State) (f : Nat) (x : Pkt) : State :=
  let x := { x with src := s.devId, life := s.rf R.MBL_LIFE_UNITS, vc := 0 }
  match s.routeOf false x with
  | .deliver => { s with inbox := s.inbox ++ [(8 + f, x)] }
  | .out o _ => s.pushOut o { from_ := 8 + f, hdr := { x with trunc := false }, bytes := x.payload, whole := true, abort := x.trunc }
  | .drop c => s.dropPkt 8 x c

/-! ### Ports going down (R226) -/

/-- R226, R241: the packets of an output queue that were still arriving from port `p` are padded and end in an ABORT
slot; one whose slots are all there ends without. -/
def OutPkt.cutFrom (p : Nat) (x : OutPkt) : OutPkt :=
  if x.from_ = p ∧ x.whole = false then
    { x with
      bytes := x.bytes ++ List.replicate (16 * x.hdr.len - x.bytes.length) 0, whole := true,
      abort := decide (x.bytes.length < 16 * x.hdr.len) }
  else x

/-- R226(3) on every output port. -/
def State.cutThrough (s : State) (p : Nat) : State :=
  (List.range 8).foldl (fun s o =>
    let y := s.port o
    s.setPort o { y with
      held := y.held.map (OutPkt.cutFrom p), cur := y.cur.map (OutPkt.cutFrom p), sCur := y.sCur.map (OutPkt.cutFrom p) }) s

/-- R235: the receiver frees buffer space; what a packet of an earlier session held is returned in the session that finds it freed
(the model's choice, log 98). -/
def State.freeRx (s : State) (p buf len : Nat) : State :=
  let y := s.port p
  s.setPort p { y with ret := y.ret.set buf (y.ret.getD buf 0 + creditsFor len) }

/-- R226: the way of a packet still being received whose output port discards it. -/
def Route.cut : Route → Route
  | .out _ => .drop
  | r => r

/-- R226, R235: a packet that an output port discards frees its place in the receive buffer of its arrival port: at once when
it is there whole, and once its last slot has come otherwise. -/
def State.discardOut (s : State) (x : OutPkt) : State :=
  if x.from_ ≥ 8 ∨ x.hdr.ptype = 10 then s
  else
    let y := s.port x.from_
    if x.whole then s.freeRx x.from_ x.buf x.hdr.len
    else if y.tail.isSome || y.sTail.isSome then
      (s.setPort x.from_ { y with tail := none, sTail := none }).freeRx x.from_ x.buf x.hdr.len
    else s.setPort x.from_ { y with asmRoute := y.asmRoute.cut, sRoute := y.sRoute.cut }

/-- R222, R226, R474: the port enters FAILED or DISABLED; its PLL stops unless it is LOST (R475). -/
def State.portDown (s : State) (p st : Nat) : State :=
  let s := (s.stopPll (10 + p)).cutThrough p
  let y := s.port p
  let s := ((y.held ++ y.cur.toList ++ y.sCur.toList).filter fun x => x.from_ != p).foldl State.discardOut s
  let s := s.setPort p { rx := y.rx ++ y.last.toList ++ y.sLast.toList, ctl := [], hbNum := y.hbNum, lastSrc := y.lastSrc, wrr := y.wrr, phase := st }
  (((s.wf (R.MBL_STAT_STATE p) st).wf (R.MBL_STAT_WIDTH p) 3).wf (R.MBL_STAT_SECURE p) 0)

/-- The port fails and reports source `bit`. -/
def State.portFail (s : State) (p bit : Nat) : State := (s.portDown p pFailed).raiseSrc (Page.portBase p) bit

/-- R224: an ACTIVE port enters RETRAIN: nothing held is lost, and training starts again. -/
def State.enterRetrain (s : State) (p : Nat) : State :=
  let y := s.port p
  let s := s.setPort p
    { y with
      phase := pTrain, retrain := true, encTx := false, encRx := false, keyTx := none, keyRx := none, kex := {},
      nakDue := false, waiting := false, resend := none }
  (((s.wf (R.MBL_STAT_STATE p) pRetrain).wf (R.MBL_STAT_SECURE p) 0).bump (R.MBL_RETRAIN_CNT_COUNT p) 1).raiseSrc
    (Page.portBase p) 1

/-! ### Fences and the device-fatal state -/

/-- R435, R436: a port is fenced: it goes to FAILED, and nothing of it is outstanding. -/
def State.fencePort (s : State) (p : Nat) : State :=
  if s.isFenced (.port p) then s
  else
    let s := { s with fences := s.fences ++ [(Dom.port p, FPhase.fenced)] }
    if s.pstate p = pDisabled ∨ s.pstate p = pFailed then s.wf (R.MBL_STAT_STATE p) pFailed else s.portDown p pFailed

/-- R435: a fence of a domain other than a port or field begins its draining phase; a second fence has no effect. -/
def State.beginFence (s : State) (d : Dom) : State :=
  if s.isFenced d then s else { s with fences := s.fences ++ [(d, FPhase.draining)] }

/-- R295, R435, R436: a field is fenced, its two ports with it; every context whose mask includes it is blocked. -/
def State.fenceField (s : State) (f : Nat) : State :=
  if s.isFenced (.field f) then s
  else
    let s := ((s.beginFence (.field f)).fencePort (2 * f)).fencePort (2 * f + 1)
    (List.range 64).foldl (fun s c => if s.resident c && s.inMask c f then s.blockCause c 5 else s) s

/-- Every field and every port is fenced. -/
def State.fenceAll (s : State) : State :=
  (List.range 8).foldl State.fencePort ((List.range 4).foldl State.fenceField s)

/-- R397: the device-fatal state; a second event sends no further message. -/
def State.deviceFatal (s : State) : State :=
  if s.flag R.FCOL_STAT_DEVFATAL then s else ((s.wf R.FCOL_STAT_DEVFATAL 1).fenceAll).sendVector0

/-- R397: a real event of a device-fatal source. -/
def State.raiseFatal (s : State) (page bit : Nat) : State := (s.raiseSrc page bit).deviceFatal

end Sys2Proof.Machine
end

