-- ==== Sys2Proof/Machine/Port.lean ====
section
/-! DEFINITION. Mebenlink ports: flits, retry, credits, packets in and out, training, key exchange and heartbeats (R220 to
R254). -/

namespace Sys2Proof.Machine

/-! ### CRC-32C (R230) -/

/-- R230: one bit of the reflected CRC-32C. -/
def crcBit (c : Nat) : Nat := if c % 2 = 1 then c / 2 ^^^ 0x82F63B78 else c / 2

/-- R230: one byte. -/
def crcByte (c : Nat) (b : Byte) : Nat :=
  (List.range 8).foldl (fun c _ => crcBit c) (c ^^^ b.toNat)

/-- R230: CRC-32C of a byte string. -/
def crc32c (bs : List Byte) : Nat := bs.foldl crcByte 0xFFFFFFFF ^^^ 0xFFFFFFFF

/-! ### Flit reception (R228 to R232) -/

end Sys2Proof.Machine

namespace Sys2Proof

open Sys2Proof.Machine

/-- The bytes of a flit. -/
def FlitIn.bytes (x : FlitIn) : List Byte := leBytes 256 x.raw.toNat
/-- R228: the header word. -/
def FlitIn.hdr (x : FlitIn) : Nat := x.raw.toNat % 2 ^ 32
/-- R228: KIND. -/
def FlitIn.kind (x : FlitIn) : Nat := x.hdr % 4
/-- R227, R229, R231: the flit passes forward error correction and CRC. -/
def FlitIn.intact (x : FlitIn) : Bool :=
  x.fecUnc == 0 && !x.fecHit && crc32c (x.bytes.take 252) == leAt x.bytes 252 4
/-- R227: the 240 bytes of slots. -/
def FlitIn.slots (x : FlitIn) (enc : Bool) : List Byte :=
  if enc then leBytes 240 x.body.toNat else (x.bytes.drop 4).take 240

end Sys2Proof

namespace Sys2Proof.Machine

/-- The port takes part in the link. -/
def State.linkUp (s : State) (p : Nat) : Bool :=
  s.pphase p == pIdent || s.pphase p == pKex || s.pphase p == pActive

/-- R225, R254: one more flit slot has passed in the receive direction; where decryption starts, the slot stream goes on from
where a retrain interrupted it. -/
def PortSt.rxSlot (y : PortSt) : PortSt :=
  let y := if y.encRx then { y with slotRx := y.slotRx + 1 } else y
  match y.keyRx with
  | some 1 =>
    { y with
      keyRx := none, encRx := true, slotRx := 0, asm := y.sAsm, asmRoute := y.sRoute, last := y.sLast, tail := y.sTail,
      sAsm := [], sRoute := .unrouted, sLast := none, sTail := none }
  | some (k + 1) => { y with keyRx := some k }
  | _ => y

/-- R228, R231: the header's ACK removes what it covers from the replay buffer. -/
def PortSt.takeAck (y : PortSt) (ack : Nat) : PortSt :=
  { y with replay := y.replay.filter fun r => !((ack + 4096 - r.seq) % 4096 < 2048) }

/-- R228, R235: credits returned by a flit. -/
def PortSt.takeCredits (y : PortSt) (buf n : Nat) : PortSt :=
  { y with credits := y.credits.set buf (y.credits.getD buf 0 + n) }

/-- R254, R222: once both KEYON runs have passed the port is ACTIVE and encrypted. -/
def State.settleKeys (s : State) (p : Nat) : State :=
  let y := s.port p
  if s.pphase p = pKex ∧ y.encRx ∧ y.encTx then
    let s := s.setPort p { y with retrain := false, phase := pActive }
    (s.wf (R.MBL_STAT_STATE p) pActive).wf (R.MBL_STAT_SECURE p) 1
  else s

/-! ### The slot stream (R237, R240, R241) -/

/-- R225, R240: routed packets may arrive: the port is ACTIVE, or it receives the old flits of a retrain (DEDUCED, log 80). -/
def State.takesRouted (s : State) (p : Nat) : Bool := s.pphase p == pActive || ((s.port p).retrain && (s.port p).encRx)

/-- R240: a header that is dropped with cause 3. -/
def State.badHeader (s : State) (p : Nat) (x : Pkt) : Bool :=
  x.rsv || ptypeClass x.ptype != some x.tc || (linkLocal x.ptype && x.dst != s.devId) ||
    (!linkLocal x.ptype && !s.takesRouted p)

/-- R240, R241: an ABORT slot with a reserved bit set, or before routed packets may arrive. -/
def State.badAbort (s : State) (p : Nat) (bs : List Byte) : Bool :=
  leAt bs 0 1 ≥ 128 || !zeroAt bs 7 9 || !s.takesRouted p

/-- Slots of a packet being forwarded cut-through join the copy at its output port. -/
def appendOut (p : Nat) (bs : List Byte) : List OutPkt → List OutPkt
  | [] => []
  | x :: t =>
    if x.from_ = p ∧ x.whole = false then { x with bytes := x.bytes ++ bs } :: t else x :: appendOut p bs t

/-- A slot of a packet on its way from port `p` to port `o`; the packet may stand in a retrain (R224). -/
def State.forwardSlot (s : State) (p o : Nat) (bs : List Byte) : State :=
  let y := s.port o
  let one := fun (x : OutPkt) => (appendOut p bs [x]).headD x
  s.setPort o { y with held := appendOut p bs y.held, cur := y.cur.map one, sCur := y.sCur.map one }

/-- R241: the packet that came whole from port `p` is known to end here, with or without an ABORT slot. -/
def OutPkt.endFrom (p : Nat) (abort : Bool) (x : OutPkt) : OutPkt :=
  if x.from_ = p ∧ x.whole = false then { x with whole := true, abort := abort } else x

/-- R241: what the slot after a packet decides: the packet that waited is received for good, or its forwarded copy ends;
with `abort` it was an ABORT slot. -/
def State.releaseLast (s : State) (p : Nat) (abort : Bool) : State :=
  let y := s.port p
  match y.last, y.tail with
  | some x, _ => s.setPort p { y with last := none, rx := y.rx ++ [{ x with trunc := abort }] }
  | none, some o =>
    let s := s.setPort p { y with tail := none }
    let z := s.port o
    s.setPort o
      { z with
        held := z.held.map (OutPkt.endFrom p abort), cur := z.cur.map (OutPkt.endFrom p abort),
        sCur := z.sCur.map (OutPkt.endFrom p abort) }
  | none, none => s

/-- R240: a complete header is checked and its packet's way begins. -/
def State.headerIn (s : State) (p : Nat) : State :=
  let y := s.port p
  let x := Pkt.parse y.asm
  if x.len > 256 then s.portFail p 2
  else if s.badHeader p x then (s.dropPkt p x 3).setPort p { (s.dropPkt p x 3).port p with asmRoute := .drop }
  else if linkLocal x.ptype then s.setPort p { y with asmRoute := .link }
  else s

/-- What becomes of a complete packet, by the way its header was sent. -/
def State.finishAsm (s : State) (p : Nat) : State :=
  let y := s.port p
  let x : Pkt := { Pkt.parse y.asm with payload := y.asm.drop 32 }
  let clear := fun (s : State) => s.setPort p { s.port p with asm := [], asmRoute := .unrouted }
  match y.asmRoute with
  | .drop => clear (s.freeRx p (bufOf x) x.len)
  | .link =>
    let s := clear s
    let s := s.setPort p { s.port p with ctl := (s.port p).ctl ++ [x] }
    if x.ptype = 8 then s else s.freeRx p (bufOf x) x.len
  | .out o => let s := clear s; s.setPort p { s.port p with tail := some o }
  | _ => let s := clear s; s.setPort p { s.port p with last := some x }

/-- R237, R240, R241: one slot of the slot stream of port `p`. -/
def State.slotIn (s : State) (p : Nat) (bs : List Byte) : State :=
  if !s.linkUp p then s
  else
    let y := s.port p
    let t := leAt bs 0 1 % 16
    if y.asm = [] ∧ t = 0 then
      if bs.all (· == 0) then s.releaseLast p false else s.portFail p 2
    else if y.asm = [] ∧ t = 10 then
      let x := Pkt.parse (bs ++ List.replicate 16 0)
      if s.badAbort p bs then (s.releaseLast p false).dropPkt p x 3
      else if y.last.isSome then s.releaseLast p true
      else
        let s := s.releaseLast p true
        s.setPort p { s.port p with rx := (s.port p).rx ++ [x] }
    else
      let s := if y.asm = [] then s.releaseLast p false else s
      let y := s.port p
      let s := s.setPort p { y with asm := y.asm ++ bs }
      let n := (s.port p).asm.length
      let s := if n = 32 then s.headerIn p else s
      let x := Pkt.parse (s.port p).asm
      let done := n ≥ 32 && n == 32 + 16 * x.len
      let s := match (s.port p).asmRoute with
        | .out o => if n > 32 then s.forwardSlot p o bs else s
        | _ => s
      if done && s.linkUp p then s.finishAsm p else s

/-- The bytes of a list in groups of 16. -/
def slotsOf (bs : List Byte) (n : Nat) : List (List Byte) := (List.range n).map fun i => (bs.drop (16 * i)).take 16

/-! ### The four kinds of flit -/

/-- R231 steps 1 and 2 for any flit: counters; a flit that fails asks for a replay once (R232). One that fails while a NAK is
outstanding sends none until the timeout (the model's choice, log 98). -/
def State.flitArrives (s : State) (p : Nat) (x : FlitIn) : State :=
  let s := (s.bump (R.MBL_FEC_CORR_COUNT p) x.fecCorr).bump (R.MBL_FEC_UNC_COUNT p) x.fecUnc
  if x.intact then s
  else
    let y := s.port p
    if y.waiting then s else s.setPort p { y with nakDue := true }

/-- R254: the tag of an intact flit fails while encryption is on. -/
def State.tagFails (s : State) (p : Nat) (x : FlitIn) : Bool := (s.port p).encRx && !x.tagOk

/-- R231: a flit of kind `k`; `take` is what an accepted flit of that kind does. A flit of another kind is not this event
(log 6). -/
def recvFlit (p k : Nat) (x : FlitIn) (take : State → State) (s : State) : State :=
  if !s.linkUp p then s
  else if !x.intact then ((s.flitArrives p x).setPort p ((s.flitArrives p x).port p).rxSlot).settleKeys p
  else if x.kind ≠ k then s
  else
    let s := s.flitArrives p x
    if k = 0 ∧ x.hdr / 4 % 4096 ≠ (s.port p).rxSeq then (s.setPort p (s.port p).rxSlot).settleKeys p
    else if s.tagFails p x then s.portFail p 4
    else
      let y := (s.port p).takeAck (x.hdr / 2 ^ 14 % 4096)
      let s := take (s.setPort p y)
      if s.linkUp p then (s.setPort p (s.port p).rxSlot).settleKeys p else s

/-- R231, R235: an accepted DATA flit. -/
def State.takeData (s : State) (p : Nat) (x : FlitIn) : State :=
  let y := s.port p
  let y := (y.takeCredits (x.hdr / 2 ^ 26 % 8) (x.hdr / 2 ^ 29))
  let s := s.setPort p { y with rxSeq := (y.rxSeq + 1) % 4096, waiting := false }
  let s := s.bump64 (R.MBL_RX_LO_COUNT p) (R.MBL_RX_HI_COUNT p) 1
  (slotsOf (x.slots y.encRx) 15).foldl (fun s b => s.slotIn p b) s

/-- R231: DATA_FLIT. -/
def execDataFlit (p : Fin 8) (x : FlitIn) (s : State) : Out := .next (recvFlit p 0 x (fun s => s.takeData p x) s)

/-- R228: IDLE_FLIT. -/
def execIdleFlit (p : Fin 8) (x : FlitIn) (s : State) : Out := .next (recvFlit p 1 x id s)

/-- R224, R232: a received NAK: resend from the flit after its ACK; too many requests for one flit retrain the port. -/
def State.takeNak (s : State) (p : Nat) (x : FlitIn) : State :=
  let y := s.port p
  let want := (x.hdr / 2 ^ 14 + 1) % 4096
  match y.replay.find? fun r => r.seq == want with
  | none => s
  | some r =>
    let n := r.asked + 1
    let y := { y with replay := y.replay.map fun r => if r.seq == want then { r with asked := n } else r }
    if n > s.rf (R.MBL_CTRL_RETRY_MAX p) ∧ s.pstate p = pActive then (s.setPort p y).enterRetrain p
    else s.setPort p { y with resend := some want }

/-- R232: NAK. -/
def execNak (p : Fin 8) (x : FlitIn) (s : State) : Out := .next (recvFlit p 2 x (fun s => s.takeNak p x) s)

/-- R254: KEYON: its countdown says how many flits remain before decryption starts. -/
def execKeyon (p : Fin 8) (x : FlitIn) (s : State) : Out :=
  .next (recvFlit p 3 x (fun s =>
    if s.pphase p = pKex then s.setPort p { s.port p with keyRx := some (x.hdr / 4 % 16 + 1) } else s) s)

/-- R232: the expected flit has not arrived 4 µs after a NAK. -/
def execNakResendTimeout (p : Fin 8) (s : State) : Out :=
  let y := s.port p
  .next (if s.linkUp p && y.waiting then s.setPort p { y with nakDue := true } else s)

/-! ### Routing and ABORT slots (R241, R244, R246, R248) -/

/-- R248: units of life a header loses here after `ns` nanoseconds. -/
def State.lifeUsed (s : State) (p ns : Nat) : Nat := max 1 (ceilDiv (s.rf (R.MBL_LINKDLY_NS p) + ns) 32)

/-- R244, R246, R248: a header that arrived on port `p` is routed `ns` nanoseconds after its arrival; the oldest unrouted
packet goes first, and one still being received may be forwarded cut-through. An ABORT slot, and a packet that one follows,
are ABORT_SLOT's. A packet whose life is used up is dropped for that cause, whatever else is wrong with it (the model's choice,
log 98). -/
def State.routeHead (s : State) (p ns : Nat) : State :=
  let y := s.port p
  match y.rx with
  | x :: t =>
    if x.ptype = 10 ∨ x.trunc then s
    else
      let s := s.setPort p { y with rx := t }
      let used := s.lifeUsed p ns
      let x' := { x with life := x.life - used }
      if x.life ≤ used then (s.dropPkt p x 1).freeRx p (bufOf x) x.len
      else match s.routeOf true x with
        | .deliver => { s with inbox := s.inbox ++ [(p, x')] }
        | .drop c => (s.dropPkt p x c).freeRx p (bufOf x) x.len
        | .out o d => s.pushOut o
            { from_ := p, hdr := x'.via d, bytes := x.payload, whole := true, buf := bufOf x }
  | [] =>
    if y.asm.length < 32 || y.asmRoute != .unrouted || s.pphase p != pActive || y.last.isSome then s
    else
      let x := Pkt.parse y.asm
      let used := s.lifeUsed p ns
      let x' := { x with life := x.life - used }
      if x.life ≤ used then (s.dropPkt p x 1).setPort p { (s.dropPkt p x 1).port p with asmRoute := .drop }
      else match s.routeOf true x with
        | .deliver => s
        | .drop c => (s.dropPkt p x c).setPort p { (s.dropPkt p x c).port p with asmRoute := .drop }
        | .out o d =>
          (s.setPort p { y with asmRoute := .out o }).pushOut o
            { from_ := p, hdr := x'.via d, bytes := y.asm.drop 32, whole := false, buf := bufOf x }

/-- R244, R484: the packet at the head of port `p` goes out by a port of another field, over the headland ring. -/
def State.crossesRing (s : State) (p : Nat) : Bool :=
  match s.routeOf true (((s.port p).rx.head?).getD (Pkt.parse (s.port p).asm)) with
  | .out o _ => o / 2 != p / 2
  | _ => false

/-- R244, R481: PACKET_ROUTE; while the ring's clock is forced off a packet that would cross it waits. -/
def execPacketRoute (p : Fin 8) (ns : Nat) (s : State) : Out :=
  .next (if s.flag R.CLK_GATE_CLOCK_OFF && s.crossesRing p then s else s.routeHead p ns)

/-- R241: counted, and the truncation source raised, on the page of port `p`. -/
def State.countAbort (s : State) (p : Nat) : State :=
  (s.bump (R.MBL_ABORT_CNT_COUNT p) 1).raiseSrc (Page.portBase p) 7

/-- R244, R248: where a truncated packet at the head of port `p`'s received packets goes, `ns` nanoseconds after its header's
arrival. -/
def State.truncRoute (s : State) (p ns : Nat) (x : Pkt) : Decision :=
  if x.life ≤ s.lifeUsed p ns then .drop 1 else s.routeOf true x

/-- R241: a truncated packet: the destination discards it, a transit device passes it on with its ABORT slot. -/
def State.truncHead (s : State) (p ns : Nat) (x : Pkt) : State :=
  match s.truncRoute p ns x with
  | .deliver => s.freeRx p (bufOf x) x.len
  | .drop c => (s.dropPkt p x c).freeRx p (bufOf x) x.len
  | .out o d =>
    s.pushOut o
      { from_ := p, hdr := Pkt.via { x with life := x.life - s.lifeUsed p ns, trunc := false } d, bytes := x.payload,
        whole := true, abort := true, buf := bufOf x }

/-! ### Transmission (R232, R235 to R237, R254) -/

/-- R241: the ABORT slot that follows a packet. -/
def abortSlot (x : Pkt) : List Byte :=
  leBytes 1 (10 + 16 * x.tc + 64 * x.vc) ++ leBytes 3 x.dst ++ leBytes 3 x.src ++ List.replicate 9 0

/-- Bytes a packet sends: header and payload. -/
def OutPkt.stream (x : OutPkt) : List Byte := x.hdr.headerBytes ++ x.bytes
/-- All of a packet's slots have been sent, and it is known whether an ABORT slot follows. -/
def OutPkt.finished (x : OutPkt) : Bool := x.sent == 2 + x.hdr.len && x.whole

/-- R235: the packet has its credits. -/
def PortSt.hasCredit (y : PortSt) (x : Pkt) : Bool := creditsFor x.len ≤ y.credits.getD (bufOf x) 0

/-- R236: the first packet of class `c` from source `src` that is not behind one of its own virtual channel and has
credits; with its place in the queue. -/
def PortSt.candidate (y : PortSt) (c src : Nat) : Option Nat :=
  let ok := fun (i : Nat) (x : OutPkt) =>
    x.hdr.tc == c && x.from_ == src && y.hasCredit x.hdr &&
      !((y.held.take i).any fun z => z.hdr.tc == c && z.from_ == src && z.hdr.vc == x.hdr.vc)
  (y.held.zipIdx.find? fun (e : OutPkt × Nat) => ok e.2 e.1).map Prod.snd

/-- R236: the next packet of class `c`: sources in ascending order after the one last granted. -/
def PortSt.grantClass (y : PortSt) (c : Nat) : Option Nat :=
  (List.range 12).findSome? fun i => y.candidate c ((y.lastSrc.getD c 0 + 1 + i) % 12)

/-- R236: collective and bulk share what is left by weighted round-robin: the packet granted, and the count after it
(collective grants times 16 plus bulk grants). -/
def PortSt.grantShared (y : PortSt) (wcol wbulk : Nat) : Option (Nat × Nat) :=
  let cu := y.wrr / 16
  let bu := y.wrr % 16
  match y.grantClass 1, y.grantClass 0 with
  | some i, some j =>
    if cu < wcol then some (i, y.wrr + 16)
    else if bu < wbulk then some (j, y.wrr + 1)
    else some (i, 16)
  | some i, none => some (i, if cu < wcol then y.wrr + 16 else 16)
  | none, some j => some (j, if bu < wbulk then y.wrr + 1 else 1)
  | none, none => none

/-- R222, R236, R239: the port's own packet that may go out now, by its place: IDENT always, KEX with credits, HB with credits on
an ACTIVE port. -/
def PortSt.ownNext (y : PortSt) (active : Bool) : Option Nat :=
  let may := fun (x : OutPkt) => x.hdr.ptype == 8 || x.hdr.ptype == 9 || active
  match y.linkTx.zipIdx.find? fun (e : OutPkt × Nat) => may e.1 with
  | some (x, i) => if x.hdr.ptype = 8 ∨ y.hasCredit x.hdr then some i else none
  | none => none

/-- One of the port's own packets leaves its queue; IDENT spends no credits. -/
def PortSt.beginOwn (y : PortSt) (i : Nat) : PortSt :=
  match y.linkTx[i]? with
  | none => y
  | some x =>
    let b := bufOf x.hdr
    { y with
      linkTx := y.linkTx.eraseIdx i, cur := some x,
      credits := if x.hdr.ptype = 8 then y.credits
        else y.credits.set b (y.credits.getD b 0 - creditsFor x.hdr.len) }

/-- A packet leaves the queue and spends its credits. -/
def PortSt.begin_ (y : PortSt) (i wrr : Nat) : PortSt :=
  match y.held[i]? with
  | none => y
  | some x =>
    let b := bufOf x.hdr
    { y with
      held := y.held.eraseIdx i, cur := some x, wrr := wrr,
      credits := y.credits.set b (y.credits.getD b 0 - creditsFor x.hdr.len), lastSrc := y.lastSrc.set x.hdr.tc x.from_ }

/-- R236: the port with the packet that it grants next in progress: commit/control, the port's own packets and then other
management packets, collective and bulk; `none` when there is none. Before ACTIVE only its own go out. -/
def PortSt.grant (y : PortSt) (wcol wbulk : Nat) (active : Bool) : Option PortSt :=
  if !active then (y.ownNext false).map y.beginOwn
  else match y.grantClass 2, y.ownNext true, y.grantClass 3 with
    | some i, _, _ => some (y.begin_ i y.wrr)
    | none, some i, _ => some (y.beginOwn i)
    | none, none, some i => some (y.begin_ i y.wrr)
    | none, none, none => (y.grantShared wcol wbulk).map fun e => y.begin_ e.1 e.2

/-- The packets a flit in the making has finished: whether an ABORT slot went with it, its source and its buffer. -/
abbrev Fin_ := List (Bool × Nat × Nat × Nat)

/-- R236, R237: up to `n` more slots of a DATA flit: the slots, whether the packet in progress ran short, the port, and
the packets finished. -/
def fillSlots (wcol wbulk : Nat) (active : Bool) : Nat → PortSt → List Byte → Fin_ → List Byte × Bool × PortSt × Fin_
  | 0, y, acc, fin => (acc, false, y, fin)
  | n + 1, y, acc, fin =>
    if acc.length ≥ 240 then (acc, false, y, fin)
    else match y.cur with
      | some x =>
        if x.finished then
          let y' := { y with cur := none }
          let fin' := fin ++ [(x.abort, x.from_, x.buf, x.hdr.len)]
          if x.abort then fillSlots wcol wbulk active n y' (acc ++ abortSlot x.hdr) fin'
          else fillSlots wcol wbulk active n y' acc fin'
        else
          let b := (x.stream.drop (16 * x.sent)).take 16
          if b.length < 16 then (acc, true, y, fin)
          else fillSlots wcol wbulk active n { y with cur := some { x with sent := x.sent + 1 } } (acc ++ b) fin
      | none =>
        match y.grant wcol wbulk active with
        | some y => fillSlots wcol wbulk active n y acc fin
        | none => (acc, false, y, fin)

/-- R228: a flit header. -/
def flitHdr (kind seq ack cbuf ccount : Nat) : Nat := kind + 4 * seq + 2 ^ 14 * ack + 2 ^ 26 * cbuf + 2 ^ 29 * ccount

/-- R228: the ACK to send. -/
def PortSt.ack (y : PortSt) : Nat := (y.rxSeq + 4095) % 4096

/-! ### Encryption and forward error correction (R227, R229, R254) -/

/-- R254: the GCM nonce: salt and slot index. -/
def PortSt.nonce (y : PortSt) : List Byte := y.ktx.drop 32 ++ leBytes 8 y.slotTx

/-- R227, R254: what the link carries of a body, and its tag: ciphertext and the first 8 bytes of the tag once the direction is
encrypted, over the header as additional data (log 4); before, the plaintext and 0. -/
def PortSt.sealed (y : PortSt) (hdr : Nat) (body : List Byte) : List Byte × List Byte :=
  if y.encTx then
    let arg := y.ktx.take 32 ++ y.nonce ++ leBytes 4 hdr ++ body
    (Config.crypto 13 arg 240, Config.crypto 14 arg 8)
  else (body, leBytes 8 0)

/-- R227, R230: the 256 bytes of a flit. -/
def PortSt.flit (y : PortSt) (hdr : Nat) (body : List Byte) : List Byte :=
  let (c, tag) := y.sealed hdr body
  let b := leBytes 4 hdr ++ c ++ tag
  b ++ leBytes 4 (crc32c b)

/-- R229: multiplication by x in GF(2^8) modulo x⁸ + x⁴ + x³ + x² + 1. -/
def gfDouble (a : Nat) : Nat := if a ≥ 128 then (2 * a - 256) ^^^ 0x1D else 2 * a

/-- R229: multiplication in GF(2^8). -/
def gfMul (a b : Nat) : Nat :=
  ((List.range 8).foldl (fun (acc : Nat × Nat) i => (if b.testBit i then acc.1 ^^^ acc.2 else acc.1, gfDouble acc.2)) (0, a)).1

/-- R229: the generator polynomial with roots α⁰ to α¹¹, highest power first, without the leading 1. -/
def rsGenerator : List Nat :=
  ((List.range 12).foldl (fun (acc : List Nat × Nat) _ =>
    let g := acc.1
    ((List.range (g.length + 1)).map fun i => g.getD i 0 ^^^ (if i = 0 then 0 else gfMul acc.2 (g.getD (i - 1) 0)),
      gfDouble acc.2)) ([1], 1)).1.drop 1

/-- R229: the 12 check bytes of a message: the remainder of its division by the generator. -/
def rsParity (msg : List Byte) : List Byte :=
  (msg.foldl (fun (r : List Nat) b =>
    let k := b.toNat ^^^ r.headD 0
    (List.range 12).map fun i => r.getD (i + 1) 0 ^^^ gfMul k (rsGenerator.getD i 0)) (List.replicate 12 0)).map fun v =>
      BitVec.ofNat 8 v

/-- R229: the codewords that a stream of bytes fills, and the bytes left; `n` bounds their number. -/
def rsCut : Nat → List Byte → List (List Byte) × List Byte
  | 0, b => ([], b)
  | n + 1, b =>
    if b.length < 240 then ([], b)
    else
      let m := b.take 240
      let (l, rest) := rsCut n (b.drop 240)
      ((m ++ rsParity m) :: l, rest)

/-- R220: active lanes by width code. -/
def lanesOf (w : Nat) : Nat := if w ≤ 2 then 16 / 2 ^ w else 16

/-- R229: a codeword dealt round-robin across `n` lanes. -/
def dealt (n : Nat) (cw : List Byte) : List (List Byte) :=
  (List.range n).map fun l => ((cw.zipIdx.filter fun e => e.2 % n == l).map Prod.fst)

/-- A flit goes out on port `p`: the flit as the link carries it, its header and its body before encryption, and the codewords
it completes; the slot index counts (R227, R229, R254). -/
def State.emit (s : State) (p hdr : Nat) (body : List Byte) : State :=
  let y := s.port p
  let b := y.flit hdr body
  let (cw, rest) := rsCut 2 (y.fec ++ b)
  s.setPort p
    { y with
      lastHdr := hdr, lastBody := body, lastFlit := b, fec := rest
      codes := cw.map (dealt (lanesOf (s.rf (R.MBL_STAT_WIDTH p))))
      slotTx := if y.encTx then y.slotTx + 1 else y.slotTx }

/-- A DATA flit is sent for the first time and kept for replay (R232). -/
def State.emitData (s : State) (p : Nat) (body : List Byte) (cbuf cc : Nat) : State :=
  let y := s.port p
  let r : RFlit := { seq := y.txSeq, cbuf := cbuf, ccount := cc, body := body }
  let s := s.emit p (flitHdr 0 y.txSeq y.ack cbuf cc) body
  let y := s.port p
  (s.setPort p { y with txSeq := (y.txSeq + 1) % 4096, replay := y.replay ++ [r] }).bump64 (R.MBL_TX_LO_COUNT p)
    (R.MBL_TX_HI_COUNT p) 1

/-- The body of an IDLE, NAK or KEYON flit. -/
def idleBody : List Byte := List.replicate 240 0

/-- R235: credits the next DATA flit returns: the lowest buffer with some, at most 7. -/
def PortSt.due (y : PortSt) : Nat × Nat :=
  match (List.range 8).find? fun b => y.ret.getD b 0 > 0 with
  | some b => (b, min 7 (y.ret.getD b 0))
  | none => (0, 0)

/-- R236, R237: the next new flit: slots, or NULL slots to return credits, or IDLE. -/
def State.newFlit (s : State) (p : Nat) : State :=
  let y := s.port p
  let (body, short, y', fin) :=
    fillSlots (s.rf R.MBL_ARB_WCOL) (s.rf R.MBL_ARB_WBULK) (s.pphase p == pActive) 64 y [] []
  let (cb, cc) := y.due
  if short || (body.isEmpty && fin.isEmpty && cc == 0) then s.emit p (flitHdr 1 0 y.ack 0 0) idleBody
  else
    let s := s.setPort p { y' with ret := y'.ret.set cb (y'.ret.getD cb 0 - cc) }
    let s := s.emitData p (body ++ List.replicate (240 - body.length) 0) cb cc
    fin.foldl (fun s (e : Bool × Nat × Nat × Nat) =>
      let s := if e.1 then s.countAbort p else s
      if e.2.1 < 8 then s.freeRx e.2.1 e.2.2.1 e.2.2.2 else s) s

/-- R232: the buffered flit to resend next: the one asked for, or the first after it that is still there. -/
def PortSt.toResend (y : PortSt) : Option RFlit :=
  y.resend.bind fun q => y.replay.find? fun r => (r.seq + 4096 - q) % 4096 < 2048

/-- R254: one KEYON flit with countdown `n`; after the last one this direction is encrypted, and a packet that a retrain
interrupted is in progress again. -/
def State.sendKeyon (s : State) (p n : Nat) : State :=
  let s := s.emit p (flitHdr 3 n (s.port p).ack 0 0) idleBody
  let y := s.port p
  if n = 0 then (s.setPort p { y with keyTx := none, encTx := true, slotTx := 0, cur := y.sCur, sCur := none }).settleKeys p
  else s.setPort p { y with keyTx := some (n - 1) }

/-- R232: a buffered flit is sent again. -/
def State.resendFlit (s : State) (p : Nat) (r : RFlit) : State :=
  let y := s.port p
  let next := (r.seq + 1) % 4096
  let more := y.replay.any fun r => r.seq == next
  let s := s.setPort p { y with resend := if more then some next else none }
  let s := s.emit p (flitHdr 0 r.seq y.ack r.cbuf r.ccount) r.body
  ((s.bump64 (R.MBL_TX_LO_COUNT p) (R.MBL_TX_HI_COUNT p) 1).bump (R.MBL_RETRY_CNT_COUNT p) 1).raiseSrc (Page.portBase p) 0

/-- R225, R232, R237: what goes out when nothing is to be resent: the start of a KEYON run once nothing of the exchange is left
to send, IDLE while the replay buffer is full, old flits once the direction is encrypted, and new ones. Old flits go out as new
ones, which `MBL_RETRY_CNT` does not count (the model's choice, log 98). -/
def State.sendFresh (s : State) (p : Nat) : State :=
  let y := s.port p
  let idle := s.emit p (flitHdr 1 0 y.ack 0 0) idleBody
  if y.keyTx.isSome && y.cur.isNone && y.linkTx.all (fun x => x.hdr.ptype == 7) then s.sendKeyon p 15
  else if y.replay.length ≥ 2048 then idle
  else match y.encTx, y.old with
    | true, o :: t => (s.setPort p { y with old := t }).emitData p o.body o.cbuf o.ccount
    | true, [] => if s.pphase p = pActive then s.newFlit p else idle
    | false, _ => s.newFlit p

/-- R225, R232, R235 to R237, R254: FLIT_SLOT_TRANSMIT. A KEYON run that has begun goes on without a break; then a NAK that is
due, a flit to resend, and what is new. -/
def execFlitSlotTransmit (p : Fin 8) (s : State) : Out :=
  let y := s.port p
  .next <|
    if !s.linkUp p then s
    else match y.keyTx.filter (· < 15) with
      | some n => s.sendKeyon p n
      | none =>
        if y.nakDue then (s.setPort p { y with nakDue := false, waiting := true }).emit p (flitHdr 2 0 y.ack 0 0) idleBody
        else match y.toResend with
          | some r => s.resendFlit p r
          | none => (s.setPort p { y with resend := none }).sendFresh p

/-! ### Training (R220, R222 to R226) -/

/-- R222: everything DETECT asks for. -/
def State.mayDetect (s : State) (p : Nat) : Bool :=
  let total := (List.range 4).foldl (fun n c =>
    n + s.rf (R.MBL_RXALLOC_VC0 p c) + s.rf (R.MBL_RXALLOC_VC1 p c)) 0
  s.flag (R.MBL_CTRL_EN p) && s.flag (R.MBL_PARTNER_VALID p) && s.devId != noDevId && total ≤ 32768

/-- R427, R436: a port that is fenced, or of an expelled device, leaves neither DISABLED nor FAILED. -/
def State.portHeld (s : State) (p : Nat) : Bool := s.flash.expelled || s.isFenced (.port p)

/-- R222, R474: the port enters DETECT, and its PLL starts. -/
def State.enterDetect (s : State) (p : Nat) : State :=
  let s := s.startPll (10 + p)
  s.goPhase p pDetect

/-- R222: a DISABLED port whose conditions hold begins DETECT. -/
def State.tryDetect (s : State) (p : Nat) : State :=
  if s.pstate p = pDisabled ∧ s.mayDetect p ∧ !s.portHeld p then s.enterDetect p else s

/-- R475: the port's clock runs: its PLL is LOCKED. -/
def State.portClocked (s : State) (p : Nat) : Bool := s.pll (10 + p) == 2

/-- R222, R475: DETECT_SIGNAL. -/
def execDetectSignal (p : Fin 8) (s : State) : Out :=
  .next (if s.pphase p = pDetect ∧ s.portClocked p then s.goPhase p pTrain else s)

/-- R220, R222, R475: TRAIN_COMPLETE. -/
def execTrainComplete (p : Fin 8) (s : State) : Out :=
  .next (if s.pphase p = pTrain ∧ s.portClocked p then s.goPhase p pAlign else s)

/-- R220: lanes of group `g` at width code `w` (0 x16, 1 x8, 2 x4) all pass. -/
def groupPasses (pass w g : Nat) : Bool :=
  let n := 16 / 2 ^ w
  (List.range n).all fun i => pass.testBit (g * n + i)

/-- R220: the widest width not above the cap, and its lowest lane group, at which every lane passes. -/
def chooseWidth (cap pass : Nat) : Option (Nat × Nat) :=
  (List.range 3).findSome? fun w =>
    if w < cap then none
    else ((List.range (2 ^ w)).find? fun g => groupPasses pass w g).map fun g => (w, g)

/-- R223: the IDENT packet of port `p`. -/
def identPkt (s : State) (p : Nat) : Pkt :=
  let y := s.port p
  let body := leBytes 3 s.devId ++ leBytes 1 p ++ leBytes 2 1 ++ leBytes 2 y.oldNext ++
    ((List.range 4).flatMap fun c => leBytes 2 (s.rf (R.MBL_RXALLOC_VC0 p c)) ++ leBytes 2 (s.rf (R.MBL_RXALLOC_VC1 p c))) ++
      List.replicate 8 0
  { ptype := 8, tc := 3, vc := 0, dst := s.rf (R.MBL_PARTNER_DEVID p), src := s.devId, dctx := 0, len := 2,
    life := s.rf R.MBL_LIFE_UNITS, opid := 0, step := 0, addr := 0, aux := 0, payload := body }

/-- R239: a packet that travels over this link only. -/
def State.linkSend (s : State) (p : Nat) (x : Pkt) : State :=
  let y := s.port p
  s.setPort p
    { y with
      linkTx := y.linkTx ++ [{ from_ := 12, hdr := x, bytes := x.payload, whole := true, buf := bufOf x }] }

/-- R225: old flits that a second retrain finds unsent follow those of the session now ended, and take the numbers they would
have had in it. -/
def PortSt.allOld (y : PortSt) : List RFlit :=
  y.replay ++ y.old.zipIdx.map fun (r, i) => { r with seq := (y.txSeq + i) % 4096 }

/-- R224, R225: on entering IDENT sequence numbers restart, what is unacknowledged becomes old, a packet that a retrain
interrupted, one whose ABORT slot may follow, and waiting heartbeats are kept, and the IDENT packet is sent. -/
def State.enterIdent (s : State) (p : Nat) : State :=
  let y := s.port p
  let s := s.setPort p
    { y with
      oldNext := if y.retrain then y.rxSeq else 0, txSeq := 0, rxSeq := 0, old := if y.retrain then y.allOld else [],
      replay := [], sAsm := y.asm, sRoute := y.asmRoute, sLast := y.last, sTail := y.tail, sCur := y.cur, asm := [], asmRoute := .unrouted,
      last := none, tail := none, cur := none,
      linkTx := y.linkTx.filter fun x => x.hdr.ptype == 7 }
  (s.linkSend p (identPkt s p)).goPhase p pIdent

/-- R220, R222, R475: ALIGN_COMPLETE: lanes that pass in both directions at both ends, corrected polarities, reversal and the
measured delay. With no usable width the port stays until its time limit. -/
def execAlignComplete (p : Fin 8) (pass inv : BitVec 16) (rev : Bool) (delay : BitVec 16) (s : State) : Out :=
  if s.pphase p ≠ pAlign ∨ !s.portClocked p then .next s
  else
    let s := (s.wf (R.MBL_LANES_PASS p) pass.toNat).wf (R.MBL_LANES_INV p) inv.toNat
    match chooseWidth (s.rf (R.MBL_CTRL_MAXW p)) pass.toNat with
    | none => .next s
    | some (w, g) =>
      let s := (((s.wf (R.MBL_STAT_WIDTH p) w).wf (R.MBL_STAT_LGROUP p) g).wf (R.MBL_STAT_REVERSED p)
        (if rev then 1 else 0)).wf (R.MBL_LINKDLY_NS p) delay.toNat
      .next (s.enterIdent p)

/-- R222, R224: PORT_STATE_TIMEOUT: a state from DETECT to KEX, or a phase of RETRAIN, exceeds its limit. -/
def execPortStateTimeout (p : Fin 8) (s : State) : Out :=
  let st := s.pphase p
  .next (if pDetect ≤ st ∧ st ≤ pKex then s.portFail p 2 else s)

/-- R224: LANE_SIGNAL_LOSS. -/
def execLaneSignalLoss (p : Fin 8) (s : State) : Out :=
  .next (if s.pstate p = pActive then s.enterRetrain p else s)

/-- R225: an old flit that the partner has. -/
def RFlit.precedes (r : RFlit) (next : Nat) : Bool := (next + 4096 - r.seq - 1) % 4096 < 2048

/-- R251: a message as its packets carry it, filled with zeros to whole slots; the transcripts of both ends take these bytes
(log 80). -/
def kexBytes (m : List Byte) : List Byte := m ++ List.replicate ((16 - m.length % 16) % 16) 0

/-- R251: KEX packets of one message, in fragments of at most 4,096 bytes, to the partner of the last IDENT (R223). -/
def State.kexSend (s : State) (p msg : Nat) (bytes : List Byte) : State :=
  let m := kexBytes bytes
  let n := max 1 (ceilDiv m.length 4096)
  (List.range n).foldl (fun s i =>
    let b := (m.drop (4096 * i)).take 4096
    s.linkSend p
      { ptype := 9, tc := 3, vc := 0, dst := s.rf (R.MBL_SEEN_DEVID p), src := s.devId, dctx := 0,
        len := b.length / 16, life := s.rf R.MBL_LIFE_UNITS, opid := 0, step := 0, addr := 0,
        aux := msg + 256 * i + 65536 * n, payload := b }) s

/-- R251: the bytes of an ML-DSA-87 signature. -/
def sigSize : Nat := 4627

/-- R251, R252: a received message has the parts that the table gives it: version, nonce and key or ciphertext, a valid
certificate chain whose root key is `root`, signature, confirmation. -/
def kexFormed (roots : List (List Byte)) (root : List Byte) (msg : Nat) (b : List Byte) : Bool :=
  match msg with
  | 1 => leAt b 0 1 == 1 && (chainValid roots root (b.drop 1601)).isSome
  | 2 => (chainValid roots root (b.drop 1600)).any fun n => 1600 + n + sigSize ≤ b.length
  | 3 => b.length ≥ sigSize + 32
  | _ => b.length == 32

/-- The port's link-local packet of type `t` that arrived first. -/
def State.takeCtl (s : State) (p t : Nat) : Option (Pkt × State) :=
  let y := s.port p
  match y.ctl with
  | x :: r => if x.ptype = t then some (x, s.setPort p { y with ctl := r }) else none
  | [] => none

/-- R223, R225, R251: IDENT. `kex1` is what follows the version in the first key-exchange message should this end be the
initiator: nonce, encapsulation key and certificate chain (log 4). With no IDENT
received, or outside IDENT, nothing changes (log 6). -/
def execIdent (p : Fin 8) (kex1 : List Byte) (s : State) : Out :=
  if s.pphase p ≠ pIdent then .next s
  else match s.takeCtl p 8 with
    | none => .next s
    | some (x, s) =>
      let b := x.payload
      let dev := leAt b 0 3
      let port := leAt b 3 1
      let alloc := (List.range 8).map fun i => leAt b (8 + 2 * i) 2
      let s := ((s.wf (R.MBL_SEEN_DEVID p) dev).wf (R.MBL_SEEN_PORT p) port).wf (R.MBL_SEEN_VALID p) 1
      let bad := dev != s.rf (R.MBL_PARTNER_DEVID p) || port != s.rf (R.MBL_PARTNER_PORT p) || leAt b 4 2 != 1 ||
        dev == s.devId || alloc.any (· < 33) || alloc.foldl (· + ·) 0 > 32768
      if bad then .next (s.portFail p 3)
      else
        let y := s.port p
        let y := { y with
          credits := if y.retrain then y.credits else alloc,
          old := y.old.filter fun r => !r.precedes (leAt b 6 2) }
        let init := s.devId < dev
        let s := ((s.setPort p y).wf (R.MBL_STAT_INIT p) (if init then 1 else 0)).goPhase p pKex
        let s := s.setPort p { s.port p with kex := { next := if init then 2 else 1, transcript := if init then kexBytes (1 :: kex1) else [] } }
        .next (if init then s.kexSend p 1 (1 :: kex1) else s)

/-! ### Key exchange (R251 to R254) -/

/-- R252: the pinned digest of the partner's key. -/
def State.peerHash (s : State) (p : Nat) : Nat :=
  (List.range 8).foldl (fun n j => n + s.rf (R.MBL_PEERHASH_HASH p j) * 2 ^ (32 * j)) 0

/-- R253: the ML-KEM shared secret that the messages of a transcript agree on (log 4). -/
def sharedSecret (transcript : List Byte) : List Byte := Config.crypto 8 transcript 32

/-- R253: the 104 bytes both ends derive from the shared secret and the transcript through message 2 (log 4). -/
def kexKeys (transcript : List Byte) : List Byte := kmac (sharedSecret transcript) transcript 104 (ascii "MBL1")

/-- R253, R254: this end's exchange is complete: its KEYON run follows what it has still to send. -/
def State.kexDone (s : State) (p : Nat) : State :=
  let y := s.port p
  let init := s.flag (R.MBL_STAT_INIT p)
  let k := y.kex.keys
  let kir := k.take 32 ++ (k.drop 64).take 4
  let kri := (k.drop 32).take 32 ++ (k.drop 68).take 4
  s.setPort p
    { y with
      kex := { y.kex with done := true }, keyTx := some 15, ktx := if init then kir else kri, krx := if init then kri else kir }

/-- R251, R252: KEX_MESSAGE: one fragment of the expected message. Of a whole message `root` is the root key under which the
chain's last certificate verifies, `key` the identity key that the chain binds, `ok` says that the other certificates, the
signature and the confirmation verify, and `reply` is the message this end answers with (log 4). -/
def execKexMessage (p : Fin 8) (ok : Bool) (root key reply : List Byte) (s : State) : Out :=
  if s.pphase p ≠ pKex then .next s
  else match s.takeCtl p 9 with
    | none => .next s
    | some (x, s) =>
      let msg := x.aux % 256
      let frag := x.aux / 256 % 256
      let cnt := x.aux / 65536 % 256
      let y := s.port p
      if msg ≠ y.kex.next ∨ frag ≠ y.kex.frag then .next (s.portFail p 4)
      else
        let buf := y.kex.buf ++ x.payload
        if frag + 1 < cnt then .next (s.setPort p { y with kex := { y.kex with frag := frag + 1, buf := buf } })
        else
          let pinBad := s.flag (R.MBL_SECCTRL_PIN p) && msg ≤ 2 && leAt (sha3 key) 0 32 != s.peerHash p
          if !ok || !kexFormed s.fuses.roots root msg buf || pinBad then .next (s.portFail p 4)
          else
            let tr := y.kex.transcript ++ buf
            let tr' := tr ++ (if msg < 4 then kexBytes reply else [])
            let keys := if msg = 1 then kexKeys tr' else if msg = 2 then kexKeys tr else y.kex.keys
            let s := s.setPort p
              { y with kex := { next := msg + 2, frag := 0, buf := [], transcript := tr', keys := keys } }
            let s := if msg < 4 then s.kexSend p (msg + 1) reply else s
            .next (if msg ≥ 3 then s.kexDone p else s)

/-- R253: KEY_RATCHET: a direction whose slot index is a non-zero multiple of 2^30 replaces its key; `tx` names it. -/
def execKeyRatchet (p : Fin 8) (tx : Bool) (s : State) : Out :=
  let y := s.port p
  let idx := if tx then y.slotTx else y.slotRx
  let on := if tx then y.encTx else y.encRx
  let k := if tx then y.ktx else y.krx
  let k' := kmac (k.take 32) (ascii "RATCHET" ++ leBytes 8 (idx / 2 ^ 30)) 32 (ascii "MBL1") ++ k.drop 32
  if on && idx != 0 && idx % 2 ^ 30 == 0 then .next (s.setPort p (if tx then { y with ktx := k' } else { y with krx := k' }))
  else .next s

/-! ### Heartbeats (R250) -/

/-- R250: HB_SEND. -/
def execHbSend (p : Fin 8) (s : State) : Out :=
  if s.pstate p ≠ pActive then .next s
  else
    let y := s.port p
    let anyFenced := (List.range 4).any fun f => s.isFenced (.field f)
    let flags := (if s.flag R.FCOL_STAT_DEVFATAL then 1 else 0) + (if anyFenced then 2 else 0)
    let body := leBytes 4 y.hbNum ++ leBytes 1 flags ++ List.replicate 3 0 ++ leBytes 8 s.now ++ List.replicate 16 0
    let s := s.setPort p { y with hbNum := (y.hbNum + 1) % 2 ^ 32 }
    .next (s.linkSend p
      { ptype := 7, tc := 3, vc := 0, dst := s.rf (R.MBL_SEEN_DEVID p), src := s.devId, dctx := 0, len := 2,
        life := s.rf R.MBL_LIFE_UNITS, opid := 0, step := 0, addr := 0, aux := 0, payload := body })

/-- R250: HB_RECEIVE. -/
def execHbReceive (p : Fin 8) (s : State) : Out :=
  match s.takeCtl p 7 with
  | none => .next s
  | some (x, s) => .next ((s.wf (R.MBL_HB_RX_NUMBER p) (leAt x.payload 0 4)).wf (R.MBL_STAT_HB_LOST p) 0)

/-- R250: HEARTBEAT_LOSS, once until the next heartbeat. -/
def execHeartbeatLoss (p : Fin 8) (s : State) : Out :=
  if s.pstate p ≠ pActive || s.flag (R.MBL_STAT_HB_LOST p) then .next s
  else .next ((s.wf (R.MBL_STAT_HB_LOST p) 1).raiseSrc (Page.portBase p) 5)

end Sys2Proof.Machine
end

