-- ==== Sys2Proof/Machine/Mem.lean ====
section
/-! DEFINITION. Device memory: partitions (R156), layouts (R159, R160), windows of commit regions (R286, R287), coverage
(R289), error-correcting reads and merges (R163 to R165), mirror streaming (R278, R279). -/

namespace Sys2Proof.Machine

/-! ### Addresses -/

/-- R155: the field of a device address. -/
def fieldOf (a : Nat) : Nat := a / 2 ^ 39
/-- R155: the granule of a device address within its field. -/
def granOf (a : Nat) : Nat := a % 2 ^ 39 / 2 ^ 30
/-- Bytes of a granule. -/
def granSize : Nat := 2 ^ 30
/-- The unit number of granule `g` of field `f` in the HBM memory. -/
def granUnit (f g : Nat) : Nat := f * 512 + g

/-- R156: context `c` owns granule `g` of field `f`. -/
def State.owns (s : State) (c f g : Nat) : Bool :=
  g < 480 && s.flag (R.FLD_GRAN_OWNED f g) && s.rf (R.FLD_GRAN_CTX f g) == c

/-- R156: `len` bytes from device address `a` lie in granules the context owns; no byte always does. -/
def State.inPartition (s : State) (c a len : Nat) : Bool :=
  len == 0 ||
    (a + len ≤ 2 ^ 41 &&
      (List.range ((a + len - 1) / granSize - a / granSize + 1)).all fun i =>
        let u := a / granSize + i
        s.owns c (u / 512) (u % 512))

/-- R159, R160: the stack that holds a device address. -/
def State.stackOf (s : State) (a : Nat) : Nat :=
  let f := fieldOf a
  let g := granOf a
  let c := s.rf (R.FLD_GRAN_CTX f g)
  if g < 480 && s.flag (R.FLD_GRAN_OWNED f g) && (s.rf (R.CTX_MEM_INTLV c)).testBit f then
    ((g % 5 * 2 ^ 30 + a % 2 ^ 30) / 4096) % 5
  else g % 5

/-- R159, R160: pseudo-channel and byte offset in it of a device address. -/
def State.placeOf (s : State) (a : Nat) : Nat × Nat × Nat :=
  let f := fieldOf a
  let g := granOf a
  let h := g / 5
  let x := a % 2 ^ 30
  let c := s.rf (R.FLD_GRAN_CTX f g)
  if g < 480 && s.flag (R.FLD_GRAN_OWNED f g) && (s.rf (R.CTX_MEM_INTLV c)).testBit f then
    let u := (g % 5 * 2 ^ 30 + x) / 4096
    let v := u / 5
    (u % 5, v % 64, h * 2 ^ 24 + v / 64 * 4096 + x % 4096)
  else
    let u := x / 4096
    (g % 5, u % 64, h * 2 ^ 24 + u / 64 * 4096 + x % 4096)

/-! ### Windows (R286, R287) -/

/-- What window of which region an address lies in. -/
structure Win where
  region : Nat
  fallow : Bool
  off : Nat
deriving DecidableEq, Repr

/-- The offset of `a` in the copy that begins at unit `base`. -/
def Region.offIn (r : Region) (base a : Nat) : Option Nat :=
  let lo := r.field * 2 ^ 39 + base * 4096
  if lo ≤ a ∧ a < lo + r.len * 4096 then some (a - lo) else none

/-- The window of a valid region that holds `a`. -/
def Region.win (i : Nat) (r : Region) (a : Nat) : Option Win :=
  if !r.valid then none
  else match r.offIn r.copy0 a with
    | some o => some ⟨i, false, o⟩
    | none => (r.offIn r.copy1 a).map fun o => ⟨i, true, o⟩

/-- R286: the window that holds an address. -/
def State.winOf (s : State) (a : Nat) : Option Win := s.regions.findSome? fun e => e.2.win e.1 a

def State.region (s : State) (i : Nat) : Region := sgetD s.regions i {}
def State.setRegion (s : State) (i : Nat) (r : Region) : State := { s with regions := sputD s.regions i r {} }

/-- The copy a window maps to: the live window to copy L, the fallow window to copy 1 − L (R286). -/
def Region.copyBase (r : Region) (fallow : Bool) : Nat := if r.live != fallow then r.copy1 else r.copy0

/-- R286: the physical address an access to `a` reaches. -/
def State.mapAddr (s : State) (a : Nat) : Nat :=
  match s.winOf a with
  | none => a
  | some w => let r := s.region w.region; r.field * 2 ^ 39 + r.copyBase w.fallow * 4096 + w.off

/-- R287: context `c` may write the byte at `a`; `bound` is false for a command bound to no step, `reset` allows the
writes that ADOPT relies on (R299). -/
def State.byteWritable (s : State) (c a : Nat) (bound reset : Bool) : Bool :=
  match s.winOf a with
  | none => true
  | some w =>
    let st := s.cstate (s.region w.region).ctx
    w.fallow && !(s.region w.region).mirrorRole && bound && (s.region w.region).ctx == c &&
      (st == stRunning || st == stBlocked || (reset && st == stReset))

/-- R287: the window rules allow a write of `len` bytes; windows are made of 4 KiB units. -/
def State.writeOk (s : State) (c a len : Nat) (bound reset : Bool) : Bool :=
  len == 0 ||
    (List.range ((a + len - 1) / 4096 - a / 4096 + 1)).all fun i =>
      s.byteWritable c (max a ((a / 4096 + i) * 4096)) bound reset

/-- R287 for a stream or engine of a step. -/
def State.hbmWriteOk (s : State) (c a len : Nat) : Bool := s.writeOk c a len true false

/-! ### Fenced fields (R436) -/

/-- A field that a device range touches is fenced (R436). -/
def State.rangeFenced (s : State) (a n : Nat) : Bool :=
  n != 0 && (List.range 4).any fun f => s.isFenced (.field f) && fieldOf a ≤ f && f ≤ fieldOf (a + n - 1)

/-- A fenced field other than `own` is touched by a device range. -/
def State.otherFenced (s : State) (own a n : Nat) : Bool :=
  n != 0 && (List.range 4).any fun f => f != own && s.isFenced (.field f) && fieldOf a ≤ f && f ≤ fieldOf (a + n - 1)

/-! ### Requests that wait (R154, R158) -/

/-- The codewords that `len` bytes from `a` touch: first byte and number of bytes in each. -/
def codewords (a len : Nat) : List (Nat × Nat) :=
  if len = 0 then []
  else (List.range ((a + len - 1) / 64 - a / 64 + 1)).map fun i =>
    let lo := max a ((a / 64 + i) * 64)
    (lo, min (a + len) ((a / 64 + i + 1) * 64) - lo)

/-- R154, R468, R481: stack `m` of field `f` takes no request: it is off, training or in self-refresh, it has tripped, or its
field is forced off. -/
def State.stackAsleep (s : State) (f m : Nat) : Bool :=
  s.rf (R.HBM_STAT_STATE f m) != 2 || (sget? s.pwr.trips (4 + 5 * f + m)).isSome || s.fieldOff f

/-- R154, R158: a request to the codeword at physical address `b` waits: its granule is being cleared, or its stack takes no
request. -/
def State.wordWaits (s : State) (b : Nat) : Bool :=
  (granOf b < 480 && s.flag (R.FLD_GRAN_CLEARING (fieldOf b) (granOf b))) || s.stackAsleep (fieldOf b) (s.stackOf b)

/-- R154, R158: a request that touches `n` bytes from device address `a` waits. -/
def State.hbmWaits (s : State) (a n : Nat) : Bool := (codewords a n).any fun e => s.wordWaits (s.mapAddr e.1)

/-! ### Uncorrectable codewords (R164) -/

/-- R164: who consumes what is read. -/
inductive Consumer where
  | stream (f n c k : Nat)
  | fetch (f n c k : Nat)
  | engine (c f : Nat)
  | bar2 (func : Nat)
  | cmd (c func : Nat)
  | scrub
  | merge (w : Consumer)
deriving DecidableEq, Repr

/-- The context a consumer belongs to. -/
def Consumer.ctx? : Consumer → Option Nat
  | .stream _ _ c _ | .fetch _ _ c _ | .engine c _ | .cmd c _ => some c
  | .bar2 _ | .scrub => none
  | .merge w => w.ctx?

/-- The consumer behind a merge. -/
def Consumer.origin : Consumer → Consumer
  | .merge w => w.origin
  | w => w

/-- `HBM_UE_INFO.SRC` (R173). -/
def Consumer.src : Consumer → Nat
  | .stream .. => 0 | .fetch .. => 1 | .engine .. => 2 | .bar2 _ | .cmd .. => 3 | .scrub => 4 | .merge _ => 5

/-- `FURROW` and `STREAM` of `HBM_UE_INFO`; of a merge (`SRC` 5) they are the writer's, which is the model's choice (log 96). -/
def State.ueUnit (s : State) : Consumer → Nat × Nat
  | .stream f n _ k | .fetch f n _ k => (s.logical f n, k)
  | .merge w => s.ueUnit w
  | _ => (0, 0)

/-- `FUNC` of `HBM_UE_INFO`; of a merge it is the writer's (log 96). -/
def Consumer.func : Consumer → Nat
  | .bar2 f | .cmd _ f => f
  | .merge w => w.func
  | _ => 0

/-- R164, R166: an uncorrectable codeword at device address `a` reported against its consumer; error source 1, or 2 for the
scrubber. A codeword that a BAR2 access meets shows its granule's owner (log 11). -/
def State.reportUe (s : State) (w : Consumer) (a : Nat) : State :=
  let f := fieldOf a
  let m := s.stackOf a
  let s := s.bump (R.HBM_UE_CNT_COUNT f m) 1
  let s := s.raiseFor (Page.hbmBase f m) (if w = .scrub then 2 else 1) w.ctx?
  let owner := if s.flag (R.FLD_GRAN_OWNED f (granOf a)) then some (s.rf (R.FLD_GRAN_CTX f (granOf a))) else none
  let who := match w.origin with
    | .bar2 _ => owner
    | _ => w.ctx?
  let step := match w.ctx? with
    | some c => s.stepOf c
    | none => 0
  let s := if s.flag (R.HBM_UE_INFO_VALID f m) then s
    else
      let s := (s.wf (R.HBM_UE_ADDR_LO_ADDR f m) (a / 64 * 64 % 2 ^ 32)).wf (R.HBM_UE_ADDR_HI_ADDR f m) (a / 2 ^ 32)
      let s := (s.wf (R.HBM_UE_INFO_CTX f m) (who.getD 0)).wf (R.HBM_UE_INFO_NOCTX f m) (if who.isNone then 1 else 0)
      let s := (s.wf (R.HBM_UE_INFO_SRC f m) w.src).wf (R.HBM_UE_INFO_FURROW f m) (s.ueUnit w).1
      let s := (s.wf (R.HBM_UE_INFO_STREAM f m) (s.ueUnit w).2).wf (R.HBM_UE_INFO_FUNC f m) w.func
      (s.wf (R.HBM_UE_INFO_VALID f m) 1).wf (R.HBM_UE_STEP_STEP f m) step
  match w.ctx? with
  | some c => s.blockCause c 1
  | none => s

/-! ### Words of the on-chip stores (R169) -/

/-- R169, R394, R395: the words `lost` of a protected store are uncorrectable, reported by source `b` of the page at `page`
against context `c`: each reads as 0 (log 66). -/
def State.wordsLost (s : State) (page b c : Nat) (lost : List Nat) (zero : State → Nat → State) : State :=
  if lost.isEmpty then s else ((lost.foldl zero s).raiseFor page b (some c)).blockCause c 1

/-- R169: what the seedbed's code found in the ranges `l` of furrow `n` of field `f` that context `c` reads; words are numbered
through the furrow's seedbed. -/
def State.seedLost (s : State) (f n c : Nat) (l : List (Nat × Nat)) (lost : List Nat) : State :=
  s.wordsLost (Page.furrowBase f n) 4 c (lost.filter fun w => l.any fun r => r.1 ≤ 8 * w && 8 * w < r.1 + r.2) fun s w =>
    s.seedWrite f n (8 * w) (List.replicate 8 0)

/-- R169: the same for the sheaf store of field `f`. -/
def State.sheafLost (s : State) (f c : Nat) (l : List (Nat × Nat)) (lost : List Nat) : State :=
  s.wordsLost (Page.fieldBase f) 1 c (lost.filter fun w => l.any fun r => r.1 ≤ 8 * w && 8 * w < r.1 + r.2) fun s w =>
    s.sheafWrite f (8 * w) (List.replicate 8 0)

/-! ### Reads -/

/-- One codeword, or part of one, read at physical address `a` (R163, R164); an uncorrectable one is recorded under that address,
not under the window's through which it was read (the model's choice, log 96). -/
def State.readWord (s : State) (w : Consumer) (a n : Nat) : List Byte × State :=
  let f := fieldOf a
  let m := s.stackOf a
  let s := s.bump64 (R.HBM_RD_LO_COUNT f m) (R.HBM_RD_HI_COUNT f m) 1
  match sget? s.hbmBad (a / 64) with
  | some _ => (List.replicate n 0, s.reportUe w a)
  | none => (s.hbm.readN granSize a n, s)

/-- R164, R286: `n` bytes read from device address `a` for a consumer. -/
def State.hbmRead (s : State) (w : Consumer) (a n : Nat) : List Byte × State :=
  (codewords a n).foldl (fun (acc : List Byte × State) (e : Nat × Nat) =>
    let (bs, s) := acc.2.readWord w (acc.2.mapAddr e.1) e.2
    (acc.1 ++ bs, s)) ([], s)

/-- A read of `n` bytes from `a` meets an uncorrectable codeword. -/
def State.readBad (s : State) (a n : Nat) : Bool :=
  (codewords a n).any fun e => (sget? s.hbmBad (s.mapAddr e.1 / 64)).isSome

/-- R164 as a value: the bytes a read delivers. -/
def State.peekHbm (s : State) (a n : Nat) : List Byte :=
  (codewords a n).flatMap fun e =>
    let b := s.mapAddr e.1
    if (sget? s.hbmBad (b / 64)).isSome then List.replicate e.2 0 else s.hbm.readN granSize b e.2

/-! ### Writes -/

/-- R276, R279: the mirror packet of a region: kind 0 data, 1 BEGIN, 2 END, 3 ACK. -/
def State.mirrorPkt (s : State) (r : Region) (kind off count : Nat) (data : List Byte) : Pkt :=
  { ptype := 4, tc := 0, vc := 0, dst := r.partDev, src := 0, dctx := r.partCtx, len := data.length / 16, life := 0,
    opid := 0, step := s.stepOf r.ctx, addr := off, own := some r.ctx,
    aux := r.partFld + 4 * kind + 16 * r.partReg + 2 ^ 16 * (count % 2 ^ 24) + 2 ^ 40 * ((s.ctx r.ctx).latch.runs.getD r.field 0),
    payload := data }

/-- R289, R294, R278, R299: the first effects of a write into a fallow window: coverage, `FWRITTEN` and `RB`, and the mirror
stream of the 16-byte slots that hold the written bytes (log 12), in a step and in RESET alike. -/
def State.fallowWritten (s : State) (w : Win) (a n : Nat) : State :=
  let r := s.region w.region
  if r.mirrorRole then s
  else
    let s := { s with coverage := sput s.coverage (a / 4096) () }
    let s := if s.stepCurrent r.ctx then (s.wf (R.CMT_CSTAT_FWRITTEN r.ctx) 1).wf (R.CMT_CSTAT_RB r.ctx) 0 else s
    if r.mirrored then
      let lo := w.off / 16 * 16
      let hi := (w.off + n + 15) / 16 * 16
      let data := s.peekHbm (a - (w.off - lo)) (hi - lo)
      let s := s.setRegion w.region { r with sentData := r.sentData + 1 }
      s.sendPkt r.field (s.mirrorPkt r 0 lo 0 data)
    else s

/-- R165: bytes within one codeword written at device address `a`; fewer than 64 are merged into the codeword read first. -/
def State.writeWord (s : State) (w : Consumer) (a : Nat) (bs : List Byte) : State :=
  let b := s.mapAddr a
  let f := fieldOf b
  let m := s.stackOf b
  let s := if bs.length < 64 then s.bump64 (R.HBM_RD_LO_COUNT f m) (R.HBM_RD_HI_COUNT f m) 1 else s
  if (sget? s.hbmBad (b / 64)).isSome && bs.length < 64 then s.reportUe (.merge w) b
  else
    let s := s.bump64 (R.HBM_WR_LO_COUNT f m) (R.HBM_WR_HI_COUNT f m) 1
    let s := { s with hbm := s.hbm.writeN granSize b bs, hbmBad := sdel s.hbmBad (b / 64) }
    match s.winOf a with
    | some win => if win.fallow then s.fallowWritten win a bs.length else s
    | none => s

/-- R165, R286: bytes written from device address `a`. -/
def State.hbmWrite (s : State) (w : Consumer) (a : Nat) (bs : List Byte) : State :=
  (codewords a bs.length).foldl (fun s e => s.writeWord w e.1 ((bs.drop (e.1 - a)).take e.2)) s

/-- The HBM of granules becomes undefined (log 3). -/
def State.undefGranules (s : State) (f : Nat) (gs : List Nat) : State :=
  let (i, s) := s.fresh
  gs.foldl (fun s g =>
    let u := granUnit f g
    { s with
      hbm := s.hbm.undefUnits granSize u (u + 1) i
      hbmBad := sclear s.hbmBad (u * 2 ^ 24) ((u + 1) * 2 ^ 24) }) s

/-- R158, R173: every codeword of a granule is written so that it reads as 0. -/
def State.clearGranule (s : State) (f g : Nat) : State :=
  let u := granUnit f g
  let s := s.bump64 (R.HBM_WR_LO_COUNT f (g % 5)) (R.HBM_WR_HI_COUNT f (g % 5)) (2 ^ 24)
  { s with
    hbm := s.hbm.clearUnits granSize u (u + 1)
    hbmBad := sclear s.hbmBad (u * 2 ^ 24) ((u + 1) * 2 ^ 24) }

/-- The granules context `c` owns in field `f`. -/
def State.granulesOf (s : State) (c f : Nat) : List Nat := (List.range 480).filter (s.owns c f)

end Sys2Proof.Machine
end

