-- ==== Sys2Proof/Machine/Operands.lean ====
section
/-! DEFINITION. Operand forms of tile instructions: fields of the instruction word, bindings (R126, R127), the elements a
matrix product reads (R34, R49 to R51, R177) and the byte ranges it covers (R115, R130). -/

namespace Sys2Proof.Machine

/-- The instruction word of an opcode and the bits above it (R124). -/
def tileWord (op : Nat) (body : BitVec 120) : InstrWord := body ++ BitVec.ofNat 8 op
/-- A VOP word from its operation code and the bits above it (R139). -/
def vopWord (vopc : Nat) (body : BitVec 114) : InstrWord := body ++ (BitVec.ofNat 6 vopc ++ BitVec.ofNat 8 0x30)
/-- A GLN or CHK word from its two-bit operation code and the bits above it (R135, R143). -/
def opWord2 (op code : Nat) (body : BitVec 118) : InstrWord := body ++ (BitVec.ofNat 2 code ++ BitVec.ofNat 8 op)

/-- Field `[lo + wid − 1 : lo]` of an instruction word. -/
def fld (w : InstrWord) (lo wid : Nat) : Nat := (w.extractLsb' lo wid).toNat

/-- `w` bits of a furrow's seedbed at bit `b` of a context's quota. -/
def seedBits (s : State) (f n base b w : Nat) : Nat :=
  bitsOf (leNat (s.seedRead f n (base + b / 8) ((b % 8 + w + 7) / 8))) (b % 8) w

/-- Element width an operand is stored with: 32 bits when the MMA splits it (R49, R127). -/
def storedWidth (fmt : Nat) (split : Bool) : Nat :=
  if split then 32 else ((Fmt.ofCode fmt).getD .bf16).width

/-- R127: the bit address of element (index 1, index 2) of a binding. -/
def Binding.elemBit (b : Binding) (w i1 i2 : Nat) : Nat := b.eaddr * 256 + i1 * b.estride * 256 + i2 * w

/-- R127: the byte address of the scale byte of element (index 1, index 2). -/
def Binding.scaleByte (b : Binding) (i1 i2 : Nat) : Nat := b.saddr * 32 + i1 * b.sstride + i2 / 32

/-- Which part of a split operand a pass takes (R51): the operand itself, or hi or lo of a binary32 value (R50). -/
inductive Part where
  | whole | hi | lo
deriving DecidableEq, Repr

/-- The exact value of one stored element, before its scale. -/
def storedValue (s : State) (f n base : Nat) (b : Binding) (p : Part) (i1 i2 : Nat) : Num :=
  let w := storedWidth b.fmt (p != .whole)
  let code := seedBits s f n base (b.elemBit w i1 i2) w
  match p with
  | .whole => ((Fmt.ofCode b.fmt).getD .bf16).decode code
  | .hi => (splitBf16 (num32 (BitVec.ofNat 32 code))).1
  | .lo => (splitBf16 (num32 (BitVec.ofNat 32 code))).2

/-- R30 to R33: an element from its value and scale byte; 0xFF makes it NaN. -/
def scaledElem (v : Num) (sb : Nat) : Elem :=
  match scaleExp sb with
  | none => ⟨.nan, 0⟩
  | some e => ⟨v, e⟩

/-- R177: 32 elements of a turned MX block, regrouped under the largest live scale byte. -/
def turnBlock (l : List (Num × Nat)) : List Elem :=
  let live := l.filter fun e => e.2 != 255
  let snew := if live.isEmpty then 0x7F else live.foldl (fun m e => max m e.2) 0
  l.map fun (v, sc) => if sc = 255 then ⟨.nan, (snew : Int) - 127⟩ else ⟨v.scale ((sc : Int) - snew), (snew : Int) - 127⟩

/-- The 32 elements of K block `kblk` of a binding, at row or column `x` (R127, R177): values and scale exponent. -/
def operandBlock (s : State) (f n base : Nat) (b : Binding) (p : Part) (x kblk : Nat) : List Elem :=
  let fmt := (Fmt.ofCode b.fmt).getD .bf16
  let ks := (List.range 32).map (32 * kblk + ·)
  let at_ := fun k => if b.turned then (k, x) else (x, k)
  let val := fun k => storedValue s f n base b p (at_ k).1 (at_ k).2
  if fmt.isMx then
    let sc := fun k => (s.seedByte f n (base + b.scaleByte (at_ k).1 (at_ k).2)).toNat
    if b.turned then turnBlock (ks.map fun k => (val k, sc k))
    else ks.map fun k => scaledElem (val k) (sc k)
  else if fmt.isTensor then ks.map fun k => scaledElem (val k) b.tscale
  else ks.map fun k => ⟨val k, 0⟩

/-! ### Byte ranges -/

/-- A range that is read. -/
def rd (lo len : Nat) : List Rng := if len = 0 then [] else [⟨lo, len, false⟩]
/-- A range that is written. -/
def wr (lo len : Nat) : List Rng := if len = 0 then [] else [⟨lo, len, true⟩]

/-- Two ranges share a byte and one of them is written (R115). -/
def Rng.hits (a b : Rng) : Bool := (a.wr || b.wr) && a.lo < b.lo + b.len && b.lo < a.lo + a.len

/-- Two footprints conflict (R115). -/
def Footprint.hits (a b : Footprint) : Bool :=
  a.seed.any (fun x => b.seed.any x.hits) || a.glean.any (fun x => b.glean.any x.hits) ||
    a.slots.any (fun x => b.slots.contains x)

/-- Bytes from bit `lo` for `bits` bits. -/
def bitSpan (lo bits : Nat) : List Rng := if bits = 0 then [] else rd (lo / 8) ((lo + bits - 1) / 8 - lo / 8 + 1)

/-- Seedbed bytes a binding's rows or columns `x0 ≤ x < x0 + cnt` and K blocks `k0 ≤ k < k0 + kb` cover, relative to
the quota (R115, R127, R130). -/
def bindSpan (b : Binding) (split : Bool) (x0 cnt k0 kb : Nat) : List Rng :=
  if cnt = 0 || kb = 0 then []
  else
    let w := storedWidth b.fmt split
    let mx := ((Fmt.ofCode b.fmt).getD .bf16).isMx
    if b.turned then
      (List.range (32 * kb)).flatMap fun i =>
        let t := 32 * k0 + i
        bitSpan (b.elemBit w t x0) (cnt * w) ++
          (if mx then rd (b.scaleByte t x0) ((x0 + cnt - 1) / 32 - x0 / 32 + 1) else [])
    else
      (List.range cnt).flatMap fun i =>
        bitSpan (b.elemBit w (x0 + i) (32 * k0)) (32 * kb * w) ++
          (if mx then rd (b.scaleByte (x0 + i) (32 * k0)) kb else [])

/-- Every range ends within `size`. -/
def spansFit (l : List Rng) (size : Nat) : Bool := l.all fun r => r.lo + r.len ≤ size

/-- Ranges relative to the quota, as physical bytes of the furrow (R376). -/
def spansAt (base : Nat) (l : List Rng) : List Rng := l.map fun r => { r with lo := base + r.lo }

/-- The lowest cause whose condition holds (R145); the list is in ascending order of cause. -/
def lowest : List (Bool × Nat) → Option Nat
  | [] => none
  | (b, c) :: t => if b then some c else lowest t

/-- A format code that an operand field may not carry (R29). -/
def badOperandFmt (c : Nat) : Bool := c == 1 || c ≥ 10
/-- A reserved format code. -/
def badFmt (c : Nat) : Bool := c ≥ 10

end Sys2Proof.Machine
end

