-- ==== Sys2Proof/Machine/Cols.lean ====
section
/-! DEFINITION. Collective descriptors and member tables (R259, R261), the engines' state, and what a stream's outstanding
collective operations cover (R116). -/

namespace Sys2Proof.Machine

/-- R259: a collective descriptor as read. -/
structure Desc where
  opc : Nat
  sfmt : Nat
  dfmt : Nat
  fanout : Nat
  stripes : Nat
  sseed : Bool
  dseed : Bool
  shost : Bool
  opid : Nat
  nmem : Nat
  self : Nat
  root : Nat
  sfur : Nat
  dmask : Nat
  grp : Nat
  src : Nat
  srcsc : Nat
  dst : Nat
  dstsc : Nat
  len : Nat
  shard : Nat
  cstride : Nat
  scratch : Nat
  scrsize : Nat
  next : Nat
deriving DecidableEq, Repr

/-- R259. -/
def Desc.parse (b : List Byte) : Desc :=
  { opc := leAt b 0 1 % 16, sfmt := leAt b 1 1 % 16, dfmt := leAt b 1 1 / 16, fanout := leAt b 2 1 % 16,
    stripes := leAt b 2 1 / 16, sseed := (leAt b 3 1).testBit 0, dseed := (leAt b 3 1).testBit 1,
    shost := (leAt b 3 1).testBit 2, opid := leAt b 4 4, nmem := leAt b 8 2, self := leAt b 10 2, root := leAt b 12 2,
    sfur := leAt b 14 1 % 32, dmask := leAt b 16 4 % 2 ^ 24, grp := leAt b 24 8, src := leAt b 32 8, srcsc := leAt b 40 8,
    dst := leAt b 48 8, dstsc := leAt b 56 8, len := leAt b 64 5, shard := leAt b 72 4, cstride := leAt b 76 4,
    scratch := leAt b 80 8, scrsize := leAt b 88 4, next := leAt b 96 8 }

/-- R259: REDUCE, REDUCE_SCATTER or ALL_REDUCE. -/
def Desc.reduces (d : Desc) : Bool := 1 ≤ d.opc && d.opc ≤ 3
/-- R259: ALL_GATHER or KV_ROTATE. -/
def Desc.gathers (d : Desc) : Bool := d.opc == 4 || d.opc == 6
/-- R259: SOW. -/
def Desc.sows (d : Desc) : Bool := d.opc == 5

/-- R261: one table entry. -/
def Member.parse (b : List Byte) : Member :=
  { dev := leAt b 0 3, ctx := leAt b 3 1 % 64, field := leAt b 3 1 / 64, cfirst := leAt b 4 2, ccount := leAt b 6 2 }

/-- R261: the bytes of the member tables: one table, or one per stripe for SOW. -/
def Desc.tableBytes (d : Desc) : Nat := 8 * d.nmem * (if d.sows then d.stripes else 1)

def State.eng (s : State) (f : Nat) : ColEng := sgetD s.engines f {}
def State.setEng (s : State) (f : Nat) (x : ColEng) : State := { s with engines := sputD s.engines f x {} }

/-- R267, R269: shards of an operation; the stripes of a SOW. -/
def Desc.shards (d : Desc) : Nat :=
  if d.opc = 1 then 1 else if d.sows then d.stripes else ceilDiv d.len (max 1 d.shard)

/-- Elements of shard `i`. -/
def Desc.shardLen (d : Desc) (i : Nat) : Nat := if d.opc = 1 then d.len else min ((i + 1) * d.shard) d.len - i * d.shard

/-- R266, R269, R273: source element ranges of this member, by first byte and length relative to `SRC`, with elements. -/
def Desc.fmtS (d : Desc) : Fmt := (Fmt.ofCode d.sfmt).getD .fp32
def Desc.fmtD (d : Desc) : Fmt := (Fmt.ofCode d.dfmt).getD .fp32

/-- Bytes of `n` elements of a format. -/
def elemBytes (f : Fmt) (n : Nat) : Nat := (n * f.width + 7) / 8

/-- Elements of one contribution, or of this member's shard, or of the whole object. -/
def Desc.srcLen (d : Desc) (self : Nat) : Nat :=
  if d.reduces then d.len else if d.gathers then (if self < d.shards then d.shardLen self else 0) else d.len

/-- Elements of the destination. -/
def Desc.dstLen (d : Desc) (self : Nat) : Nat :=
  match d.opc with
  | 1 => if self = d.root then d.len else 0
  | 2 => if self < d.shards then d.shardLen self else 0
  | _ => d.len

/-- This member reads a source. -/
def Desc.hasSrc (d : Desc) (m : Member) (self : Nat) : Bool :=
  if d.reduces then m.ccount > 0 else if d.gathers then self < d.shards else self == 0

/-- The source byte ranges, relative to the space `SRC` lies in. -/
def Desc.srcRanges (d : Desc) (m : Member) (self : Nat) : List (Nat × Nat) :=
  if !d.hasSrc m self then []
  else
    let a := if d.sseed then 32 * d.src else d.src
    let asc := if d.sseed then 32 * d.srcsc else d.srcsc
    let n := d.srcLen self
    let one := if d.reduces then (List.range m.ccount).map fun i => (a + i * d.cstride, elemBytes d.fmtS n)
      else [(a, elemBytes d.fmtS n)]
    one ++ (if d.fmtS.isMx then [(asc, ceilDiv n 32)] else [])

/-- The destination byte ranges. -/
def Desc.dstRanges (d : Desc) (self : Nat) : List (Nat × Nat) :=
  let a := if d.dseed then 32 * d.dst else d.dst
  let asc := if d.dseed then 32 * d.dstsc else d.dstsc
  let n := d.dstLen self
  if n = 0 then [] else [(a, elemBytes d.fmtD n)] ++ (if d.fmtD.isMx then [(asc, ceilDiv n 32)] else [])

/-- R116, R270: the seedbed ranges a descriptor names on physical furrow `n` of field `f`, for context `c`. -/
def State.descSpans (s : State) (f n c : Nat) (d : Desc) (m : Member) (self : Nat) : List Rng :=
  let base := s.seedBase f c
  let on := fun l => s.physical f l == some n
  let src := if d.sseed && on d.sfur then (d.srcRanges m self).map fun (a, k) => (⟨base + a, k, false⟩ : Rng) else []
  let dst := if d.dseed && (List.range 24).any (fun l => d.dmask.testBit l && on l) then
      (d.dstRanges self).map fun (a, k) => (⟨base + a, k, true⟩ : Rng) else []
  src ++ dst

/-- The user is stream `k` of furrow `n` and still waits. -/
def ColUser.isStream (n k : Nat) : ColUser → Bool
  | .stream n' k' _ w => n' == n && k' == k && w
  | _ => false

/-- R116, R258: a stream's collective operations that have not completed. -/
def State.colCount (s : State) (f n c k : Nat) : Nat :=
  let e := s.eng f
  (e.ops.filter fun o => o.ctx == c && !o.done && o.users.any (ColUser.isStream n k)).length +
    (e.waiting.filter fun w => w.ctx == c && w.user.isStream n k).length

/-- R116, R270: the seedbed ranges, on furrow `at_` of field `f`, of the outstanding collective operations of stream `k` of
furrow `n`. -/
def State.colSpansAt (s : State) (f n c k at_ : Nat) : List Rng :=
  let e := s.eng f
  ((e.ops.filter fun o => o.ctx == c && !o.done && o.users.any (ColUser.isStream n k)).flatMap fun o =>
      let d := Desc.parse o.bytes
      s.descSpans f at_ c d (((o.tables.headD [])[d.self]?).getD ⟨0, 0, 0, 0, 0⟩) d.self) ++
    (e.waiting.filter fun w => w.ctx == c && w.user.isStream n k).flatMap fun w =>
      (w.spans.filter fun x => x.1 == at_).map Prod.snd

/-- R116: the seedbed ranges of the stream's outstanding collective operations on its own furrow. -/
def State.colSpans (s : State) (f n c k : Nat) : List Rng := s.colSpansAt f n c k n

/-- R115, R116, R270: a descriptor's ranges on some furrow that it names conflict with an outstanding collective operation of
the same stream. -/
def State.colClash (s : State) (f n c k : Nat) (d : Desc) (m : Member) (self : Nat) : Bool :=
  (List.range 26).any fun x =>
    (s.descSpans f x c d m self).any fun a => (s.colSpansAt f n c k x).any a.hits

end Sys2Proof.Machine
end

