-- ==== Sys2Proof/Machine/Slots.lean ====
section
/-! DEFINITION. Tile slots: init, the level stack and its collapse, pending check forces (R80, R85, R86, R90, R91, R143). -/

namespace Sys2Proof.Machine

/-- Columns of a slot in its layout. -/
def Slot.width (sl : Slot) : Nat := if sl.thin then 384 else 96
/-- Rows of a slot in its layout. -/
def Slot.rows (sl : Slot) : Nat := if sl.thin then 8 else 32
/-- Column groups of a slot that hold an active column. -/
def Slot.groups (sl : Slot) : Nat := if sl.thin then ceilDiv sl.n 96 else 1
/-- Active columns of group `g`. -/
def Slot.groupCols (sl : Slot) (g : Nat) : Nat := min 96 (sl.n - 96 * g)

/-- Slot of a furrow. -/
def FurrowSt.slot (x : FurrowSt) (i : Nat) : Slot := sgetD x.slots i {}
/-- Slot of a furrow replaced. -/
def FurrowSt.setSlot (x : FurrowSt) (i : Nat) (sl : Slot) : FurrowSt := { x with slots := sput x.slots i sl }

/-- An unlisted register of a slot: +0, or a free value after an ABORT (R86, R297). -/
def Slot.blank (sl : Slot) (k : Nat) : Word32 :=
  match sl.undef with
  | none => 0
  | some i => Config.freeWord i k

/-- One register of an element (`lane = false`) or of a checksum quantity, by its index. -/
def Slot.getReg (sl : Slot) (lane : Bool) (k : Nat) : Word32 :=
  if lane then (sget? sl.lane k).getD (sl.blank (2 ^ 20 + k)) else (sget? sl.lev k).getD (sl.blank k)

/-- One register set; a zero is kept unlisted unless the slot's contents are undefined. -/
def Slot.setReg (sl : Slot) (lane : Bool) (k : Nat) (v : Word32) : Slot :=
  let put := fun t => if v = 0 ∧ sl.undef = none then sdel t k else sput t k v
  if lane then { sl with lane := put sl.lane } else { sl with lev := put sl.lev }

/-- The five registers L0 to L3 and T that start at index `k`. -/
def Slot.stack (sl : Slot) (lane : Bool) (k : Nat) : List Word32 :=
  (List.range 5).map fun i => sl.getReg lane (k + i)

/-- R90: one value enters a level stack; `i` counts the levels seen. Answers the new registers and whether a sum
overflowed. -/
def enterFrom (clamp : Bool) (q : Nat) (t : Bool) (st : List Word32) : Nat → Nat → Fv → List Word32 × Bool
  | 0, _, c =>
    let r : Fv := if t then (Fv.mk (st.getD 4 0) false).add clamp c else c
    (st.set 4 r.v, r.ovf)
  | fuel + 1, i, c =>
    if q.testBit i then enterFrom clamp q t st fuel (i + 1) ((Fv.mk (st.getD i 0) false).add clamp c)
    else (st.set i c.v, c.ovf)

/-- R90: one array-pass result enters element or lane registers at index `k` of a slot. -/
def Slot.enter (sl : Slot) (clamp lane : Bool) (k : Nat) (x : Fv) : Slot :=
  let (st, o) := enterFrom clamp sl.q sl.t (sl.stack lane k) 4 0 x
  let sl' := st.zipIdx.foldl (fun a (v, i) => a.setReg lane (k + i) v) sl
  { sl' with ovf := sl'.ovf || (clamp && o) }

/-- R90: q, t and P after a pass. -/
def Slot.passDone (sl : Slot) : Slot :=
  { sl with t := sl.t || sl.q == 15, q := (sl.q + 1) % 16, p := satAdd32 sl.p 1 }

/-- R91: the collapse of a level stack, from level `i`. -/
def collapseFrom (clamp : Bool) (q : Nat) (t : Bool) (st : List Word32) : Nat → Nat → Option Fv → Fv
  | 0, _, acc =>
    let top : Fv := ⟨st.getD 4 0, false⟩
    if t then (match acc with | none => top | some a => top.add clamp a)
    else acc.getD ⟨st.getD 0 0, false⟩
  | fuel + 1, i, acc =>
    let l : Fv := ⟨st.getD i 0, false⟩
    let acc' := if q.testBit i then (match acc with | none => some l | some a => some (l.add clamp a)) else acc
    collapseFrom clamp q t st fuel (i + 1) acc'

/-- R91: the collapsed value of the registers at index `k`. -/
def Slot.collapse (sl : Slot) (clamp lane : Bool) (k : Nat) : Fv :=
  collapseFrom clamp sl.q sl.t (sl.stack lane k) 4 0 none

/-- Index of element (row, column). -/
def Slot.elemIdx (sl : Slot) (r n : Nat) : Nat := 5 * (r * sl.width + n)
/-- Index of the C (`e = 0`) or E (`e = 1`) registers of a row and column group. -/
def laneIdx (r g e : Nat) : Nat := 10 * (4 * r + g) + 5 * e

/-- R80, R86: a slot as init leaves it. CHK READ of a slot not drained since reads masks of 0 (R143) and, by the model's
choice, step 0 (log 69). -/
def initSlot (thin : Bool) (m n : Nat) : Slot := { thin := thin, m := m, n := n }

/-- R143: the forces pending on a row's C at the next drain, added in program order. -/
def Slot.forced (sl : Slot) (r g : Nat) (c : Word32) : Word32 :=
  sl.forces.foldl (fun acc (r', g', v) => if r' = r ∧ g' = g then fadd acc v else acc) c

end Sys2Proof.Machine
end

