-- ==== Sys2Proof/Machine/Issue.lean ====
section
/-! DEFINITION. The issue stage: readiness (R113, R115, R116), legality and halts (R145, R146), retirement bookkeeping. -/

namespace Sys2Proof.Machine

/-- Where an instruction issues: field, physical furrow, context, stream (0 F, 1 B, 2 U). -/
structure At where
  f : Nat
  n : Nat
  c : Nat
  k : Nat
deriving DecidableEq, Repr

def State.st (s : State) (p : At) : StreamSt := s.strm p.f p.n p.c p.k
def State.setSt (s : State) (p : At) (x : StreamSt) : State := s.setStrm p.f p.n p.c p.k x

/-- The owner record of an operation issued at `p`. -/
def State.ownerAt (s : State) (p : At) : Owner :=
  let l := (s.st p).cur
  ⟨p.c, p.k, s.stepOf p.c, (l.map Launch.queue).getD 0, (l.map Launch.seq).getD 0⟩

/-- An operation belongs to the stream at `p`. -/
def Owner.is (o : Owner) (p : At) : Bool := o.ctx == p.c && o.strm == p.k

/-- A transfer belongs to the stream at `p`. -/
def Xfer.is (x : Xfer) (p : At) : Bool := x.furrow == p.n && x.owner.is p

/-- The footprints and owners of the furrow's operations that have not retired. -/
def FurrowSt.inflight (x : FurrowSt) : List (Owner × Footprint) :=
  x.mmas.map (fun o => (o.owner, o.fp)) ++ x.drns.map (fun o => (o.owner, o.fp)) ++
    x.vops.map (fun o => (o.owner, o.fp)) ++ x.glns.map (fun o => (o.owner, o.fp))

/-- R116: the stream's DMA transfers that have not completed, accepted or not. -/
def State.xfersOf (s : State) (p : At) : List Xfer :=
  let d := s.dmaOf p.f
  (d.waiting ++ d.handoff ++ d.active.map Prod.snd).filter (·.is p)

/-- R116: outstanding transfers of the stream: DMA handed off, and collective operations. -/
def State.outstanding (s : State) (p : At) : Nat :=
  let d := s.dmaOf p.f
  ((d.waiting ++ d.handoff ++ d.active.map Prod.snd).filter (·.is p)).length + s.colCount p.f p.n p.c p.k

/-- R119: every earlier instruction of the stream has retired. -/
def State.allRetired (s : State) (p : At) : Bool :=
  !((s.fur p.f p.n).inflight.any fun e => e.1.is p) && !((s.dmaOf p.f).waiting.any (·.is p))

/-- R115, R116: the footprint conflicts with an earlier instruction or an outstanding transfer of the same stream. -/
def State.interlocked (s : State) (p : At) (fp : Footprint) : Bool :=
  ((s.fur p.f p.n).inflight.any fun e => e.1.is p && fp.hits e.2) ||
    ((s.xfersOf p).any fun x => fp.hits { seed := x.fp }) || fp.hits { seed := s.colSpans p.f p.n p.c p.k }

/-- R87: a slot of the list is held by an instruction of another stream. -/
def State.slotHeld (s : State) (p : At) (sl : List Nat) : Bool :=
  let x := s.fur p.f p.n
  ((x.mmas.map fun o => (o.owner, o.fp.slots)) ++ (x.drns.map fun o => (o.owner, o.fp.slots))).any
    fun e => !e.1.is p && e.2.any sl.contains

/-- R113: why an instruction with this footprint is not ready; further reasons of its own come after. -/
def State.waitFor (s : State) (p : At) (fp : Footprint) (more : Option WaitKind) : Option WaitKind :=
  if s.interlocked p fp then some .interlock
  else if s.slotHeld p fp.slots then some .slot
  else more

/-- R112: the streams of a furrow, by slot. -/
def State.slotsOf (s : State) (f n : Nat) : List (Nat × StreamSt) :=
  (s.streams.filter fun e => e.1 / 192 == furKey f n).map fun e => (e.1 % 192, e.2)

/-- R112: the number of the furrow's next grant. -/
def State.nextGrant (s : State) (f n : Nat) : Nat := ((s.slotsOf f n).map fun e => e.2.granted).foldl max 0 + 1

/-- R112: the slot granted last; the slot before the first one where none was. -/
def State.lastSlot (s : State) (f n : Nat) : Nat :=
  match (s.slotsOf f n).find? fun e => e.2.granted + 1 == s.nextGrant f n && e.2.granted != 0 with
  | some e => e.1
  | none => 191

/-- R146: the stream halts at its head instruction: cause, opcode and address recorded, the error source raised, the step
blocked. The record is frozen while its `VALID` is 1 (R150). -/
def State.haltStream (s : State) (p : At) (cause opcode : Nat) : State :=
  let st := s.st p
  let i := 3 * p.c + p.k
  let s := s.setSt p { st with state := .halted, wait := .none, haltCause := cause, granted := s.nextGrant p.f p.n }
  let s := if s.flag (R.FUR_STRM_ERR_VALID p.f p.n i) then s
    else ((((s.wf (R.FUR_STRM_ERR_CAUSE p.f p.n i) cause).wf (R.FUR_STRM_ERR_OPCODE p.f p.n i) opcode).wf
      (R.FUR_STRM_ERR_VALID p.f p.n i) 1).wf (R.FUR_STRM_PC_LO_ADDR p.f p.n i) st.pc).wf
        (R.FUR_STRM_PC_HI_ADDR p.f p.n i) (st.pc / 2 ^ 32)
  (s.raiseFor (Page.furrowBase p.f p.n) 1 (some p.c)).blockCause p.c 0

/-- The stream waits at its head instruction (R150). -/
def State.waitStream (s : State) (p : At) (k : WaitKind) (sem : Nat) : State :=
  s.setSt p { s.st p with state := .waiting, wait := k, waitSem := sem }

/-- R110, R145: a head word that came from an uncorrectable codeword halts the stream with cause 10. `OPCODE` records 0,
since the word was not read (the model's choice, log 67). -/
def State.settleHead (s : State) (p : At) : State :=
  match (s.st p).buf with
  | none :: _ => if (s.st p).state == .halted then s else s.haltStream p 10 0
  | _ => s

/-- R124: the word is an END. -/
def isEnd (w : Option InstrWord) : Bool := w.any fun w => w.extractLsb' 0 8 == 0x7F#8

/-- The head instruction leaves the stream: the pc moves on and `FUR_ISSUED` counts (R151); with nothing more buffered the stream
waits for its fetch (R150). A bad word that comes next halts
the stream (R110), but for one behind an END, which no instruction of the launch reaches. -/
def State.advance (s : State) (p : At) : State :=
  let st := s.st p
  let st' :=
    { st with
      pc := st.pc + 16, buf := st.buf.drop 1, state := if st.buf.length ≤ 1 then .waiting else .issuing
      wait := if st.buf.length ≤ 1 then .fetch else .none, arrived := none, granted := s.nextGrant p.f p.n }
  let s := (s.setSt p st').bump (R.FUR_ISSUED_COUNT p.f p.n) 1
  if st.buf.head?.any isEnd then s else s.settleHead p

/-- R113, R145, R146: one instruction at the issue stage. A command whose word is not at the head of a running stream
finds nothing to issue (log 6); one that is not ready leaves its stream waiting; an illegal one halts it; otherwise the
head leaves the stream and the effect takes place. -/
def issue (s : State) (p : At) (w : InstrWord) (wait : Option WaitKind) (sem : Nat) (cause : Option Nat)
    (eff : State → State) : State :=
  let st := s.st p
  if st.cur.isNone || st.state == .halted || s.streamHeld p.f p.n p.c p.k || s.issueHeld p.f p.n then s
  else match st.buf with
    | [] => s.waitStream p .fetch 0
    | h :: _ =>
      if h ≠ some w then s
      else match wait with
        | some k => s.waitStream p k sem
        | none =>
          match cause with
          | some c => s.haltStream p c (fld w 0 8)
          | none => eff (s.advance p)

/-- R451, R452: the arrays of a mask wake. -/
def State.wakeArrays (s : State) (f n mask : Nat) : State :=
  let gated := s.pwr.gated.filter fun e => !(e.1 / 4 == furKey f n && mask.testBit (e.1 % 4))
  { s with pwr := { s.pwr with gated := gated } }

/-- R420: format and layout of the field's last MMA or MMT. -/
def State.noteMma (s : State) (f fmt : Nat) (thin : Bool) : State :=
  { s with lastMma := sput s.lastMma f (fmt + if thin then 16 else 0) }

/-- R145: cause 9: any instruction other than END after STEP. -/
def State.afterStep (s : State) (p : At) : Bool := (s.st p).stepped

/-- R54, R209: an operation's counters join the step's totals. -/
def State.addTotals (s : State) (c : Nat) (k : Counts) : State :=
  let x := s.ctx c
  s.setCtx c { x with totals := x.totals.add k }

/-- R210, R212, R213: what the step's run-watch report shows has changed, so the report is to be made again: a new record, and
perhaps a second event (the model's choice, log 94). -/
def State.reopenReport (s : State) (c : Nat) : State := s.setCtx c { s.ctx c with reported := false }

/-- R209: NaN plus infinity counts of a gradient operation. -/
def State.addGradNf (s : State) (c : Nat) (k : Counts) : State :=
  let x := s.ctx c
  s.setCtx c { x with gradNf := satAdd32 x.gradNf (k.nan + k.inf) }

end Sys2Proof.Machine
end

