-- ==== Sys2Proof/Machine/Shadow.lean ====
section
/-! DEFINITION. Shadow sampling: engines, selection, the comparisons that are still to be made (R407 to R409). -/

namespace Sys2Proof.Machine

/-- R407, R431: the furrows of a field in the spare state, each a shadow engine. -/
def State.spares (s : State) (f : Nat) : List Nat :=
  (List.range 26).filter fun n => s.rf (R.FUR_MAP_STATE f n) == 1

/-- R407, R431: KMIN of a field; 0 with no engine. -/
def State.kmin (s : State) (f : Nat) : Nat :=
  match (s.spares f).length with
  | 0 => 0
  | 1 => 5
  | _ => 4

/-- R408: the next eligible instruction of a stream is sampled. -/
def State.sampledNext (s : State) (p : At) : Bool :=
  let l := (s.ctx p.c).latch
  let st := s.st p
  let k := max l.shadowK (s.kmin p.f)
  let c := p.c + s.logical p.f p.n * 2 ^ 8 + p.k * 2 ^ 16
  let r := philox (BitVec.ofNat 32 (s.stepOf p.c)) (BitVec.ofNat 32 c) (BitVec.ofNat 32 st.sampled) (BitVec.ofNat 32 st.mb) 0 0 0
  l.shadowEn && !(s.spares p.f).isEmpty && r.toNat % 2 ^ k == 0

/-- R408: the engine that would repeat the next eligible instruction of a stream: the lowest spare (log 22). -/
def State.nextEngine (s : State) (p : At) : Option Nat := if s.sampledNext p then (s.spares p.f).head? else none

/-- R409, R452, R481: an engine does not accept an instruction while its furrow sleeps or is held (log 83). -/
def State.engineWaits (s : State) (f : Nat) (e : Option Nat) : Bool := e.any fun n => !s.awake f n || s.issueHeld f n

/-- R408: an eligible instruction issues: the engine that repeats it when it is sampled, and the
stream's count of such instructions one higher. -/
def State.sample (s : State) (p : At) : Option Nat × State :=
  (s.nextEngine p, s.setSt p { s.st p with sampled := (s.st p).sampled + 1 })

/-- R408: `n` slots from physical slot `slot` are shadowed by an engine, or no longer. -/
def State.shadowSlots (s : State) (p : At) (slot n : Nat) (e : Option Nat) : State :=
  s.setFur p.f p.n ((List.range n).foldl (fun x i =>
    x.setSlot (slot + i) { x.slot (slot + i) with shadow := e }) (s.fur p.f p.n))

/-- R409: a repeated instruction leaves a comparison to be made, unless its engine no longer is a spare (R423). -/
def State.compareLater (s : State) (p : At) (e : Option Nat) (slot opcode coord : Nat) : State :=
  match e with
  | none => s
  | some n =>
    if s.rf (R.FUR_MAP_STATE p.f n) = 1 then
      { s with shadows := s.shadows ++ [⟨p.f, p.n, n, s.ownerAt p, slot, opcode, coord⟩] }
    else s

/-- R408, R409: a VOP has issued, sampled or not. -/
def State.sampleVop (s : State) (p : At) : State :=
  let (e, s) := s.sample p
  s.compareLater p e 0 0x30 0

/-- R409: comparisons of the stream are still to be made. -/
def State.shadowed (s : State) (p : At) : Bool := s.shadows.any fun x => x.field == p.f && x.orig == p.n && x.owner.is p

end Sys2Proof.Machine
end

