-- ==== Sys2Proof/Machine/Matrix.lean ====
section
/-! DEFINITION. Operand bindings and matrix products: LDW, LDA, TRN, MMA, MMT, the weight banks and the array passes
(R49 to R51, R58 to R75, R80, R89, R90, R126 to R131, R177, R178). -/

namespace Sys2Proof.Machine

/-- Where a stream identifier points. -/
def atOf (i : StreamId) : At := ⟨i.field, i.furrow, i.ctx, i.strm⟩

/-! ### Bindings -/

/-- R126: the binding a word names. -/
def bindingOf (turned : Bool) (w : InstrWord) : Binding :=
  ⟨turned, fld w 10 4, fld w 16 18, fld w 34 18, fld w 52 16, fld w 68 16, fld w 84 8⟩

/-- R126, R145: why a binding word is illegal. -/
def bindingCause (s : State) (p : At) (w : InstrWord) : Option Nat :=
  let fmt := fld w 10 4
  let isLdw := fld w 0 8 == 1
  let isTrn := fld w 0 8 == 3
  let tgt := fld w 14 1
  let portMust0 := !isLdw && !(isTrn && tgt == 0)
  lowest [(fld w 15 1 != 0 || fld w 92 36 != 0 || (portMust0 && fld w 8 2 != 0) || (!isTrn && tgt != 0) ||
      (fld w 34 18 != 0 && !((Fmt.ofCode fmt).any Fmt.isMx)) || (fld w 84 8 != 0 && !(fmt == 8 || fmt == 9)), 2),
    (badOperandFmt fmt, 3), (s.afterStep p, 9)]

/-- The stream's activation binding replaced (R128). -/
def State.bindActivation (s : State) (p : At) (b : Binding) : State := s.setSt p { s.st p with bindA := some b }
/-- The stream's binding of weight port `j` replaced (R128). -/
def State.bindWeight (s : State) (p : At) (j : Nat) (b : Binding) : State :=
  s.setSt p { s.st p with bindW := (s.st p).bindW.set j (some b) }

/-- R126: LDW binds a weight port. -/
def issueLdw (i : StreamId) (w : InstrWord) (s : State) : State :=
  let p := atOf i
  issue s p w none 0 (bindingCause s p w) fun s => s.bindWeight p (fld w 8 2) (bindingOf false w)

/-- R126: LDA binds the activation operand. -/
def issueLda (i : StreamId) (w : InstrWord) (s : State) : State :=
  let p := atOf i
  issue s p w none 0 (bindingCause s p w) fun s => s.bindActivation p (bindingOf false w)

/-- R126, R177: TRN binds a turned operand to a weight port or to the activation operand. -/
def issueTrn (i : StreamId) (w : InstrWord) (s : State) : State :=
  let p := atOf i
  issue s p w none 0 (bindingCause s p w) fun s =>
    if fld w 14 1 = 0 then s.bindWeight p (fld w 8 2) (bindingOf true w)
    else s.bindActivation p (bindingOf true w)

/-! ### MMA and MMT at issue -/

/-- R129: the fields of an MMA or MMT word. -/
structure MmaFields where
  thin : Bool
  slot : Nat
  mask : Nat
  m : Nat
  n : Nat
  init : Bool
  kb : Nat
  fmtA : Nat
  fmtB : Nat
  passes : Nat
  turnA : Bool
  turnB : Bool
  row0 : Nat
  col0 : Nat
  k0 : Nat

/-- R129. -/
def mmaFields (w : InstrWord) : MmaFields :=
  let thin := fld w 0 8 == 0x21
  { thin := thin, slot := fld w 8 6, mask := fld w 14 4, m := fld w 18 6,
    n := fld w 24 7 + (if thin then 128 * fld w 60 2 else 0), init := fld w 31 1 == 1, kb := fld w 32 16,
    fmtA := fld w 48 4, fmtB := fld w 52 4, passes := fld w 56 2, turnA := fld w 58 1 == 1, turnB := fld w 59 1 == 1,
    row0 := fld w 64 16, col0 := fld w 80 16, k0 := fld w 96 16 }

/-- R70: how many slots the instruction names. -/
def MmaFields.slotCount (x : MmaFields) : Nat := if x.thin then ceilDiv x.m 8 else 1
/-- R80: the shape enters no array pass and initialises no slot. -/
def MmaFields.noOp (x : MmaFields) : Bool := x.m == 0 || x.n == 0 || (x.kb == 0 && !x.init)
/-- R86: the rows delivered to the i-th named slot. -/
def MmaFields.rowsTo (x : MmaFields) (i : Nat) : Nat := if x.thin then min 8 (x.m - 8 * i) else x.m
/-- R49: the A operand is stored as binary32. -/
def MmaFields.splitA (x : MmaFields) : Bool := x.passes == 3
/-- R49: the B operand is stored as binary32. -/
def MmaFields.splitB (x : MmaFields) : Bool := x.passes == 2 || x.passes == 3

/-- The physical slots the instruction names (R87, R376). -/
def MmaFields.slotsAt (x : MmaFields) (base : Nat) : List Nat := (List.range x.slotCount).map (base + x.slot + ·)

/-- R130: the runs of K blocks that weight port `j` reads, by first block and length: all blocks in one run for an MMA,
every fourth block for an MMT. -/
def MmaFields.portBlocks (x : MmaFields) (j : Nat) : List (Nat × Nat) :=
  if x.thin then ((List.range x.kb).filter fun b => b % 4 == j).map fun b => (x.k0 + b, 1) else [(x.k0, x.kb)]

/-- The weight bindings the instruction uses: W0, or W0 to W3 for an MMT (R130). -/
def weightBindings (st : StreamSt) (x : MmaFields) : List (Option Binding) :=
  if x.thin then st.bindW else st.bindW.take 1

/-- Seedbed ranges an MMA or MMT reads, relative to the quota (R115, R130). -/
def mmaSpans (st : StreamSt) (x : MmaFields) : List Rng :=
  if x.noOp then [] else
    (match st.bindA with
      | some b => bindSpan b x.splitA x.row0 x.m x.k0 x.kb
      | none => []) ++
    (weightBindings st x).zipIdx.flatMap fun (b, j) =>
      match b with
      | some b => (x.portBlocks j).flatMap fun r => bindSpan b x.splitB x.col0 x.n r.1 r.2
      | none => []

/-- R131: a binding is present and agrees with the instruction's format and turn flag. -/
def bindingFits (b : Option Binding) (fmt : Nat) (turn : Bool) : Bool :=
  b.any fun b => b.fmt == fmt && b.turned == turn

/-- R129, R131, R145: why an MMA or MMT is illegal. -/
def mmaCause (s : State) (p : At) (w : InstrWord) (x : MmaFields) (spans : List Rng) : Option Nat :=
  let st := s.st p
  let fs := s.fur p.f p.n
  let base := s.rf (R.FLD_ACQ_BASE p.c p.f)
  let cnt := s.rf (R.FLD_ACQ_COUNT p.c p.f)
  lowest [
    (fld w 62 2 != 0 || fld w 112 16 != 0 || (!x.thin && fld w 60 2 != 0), 2),
    (badOperandFmt x.fmtA || badOperandFmt x.fmtB, 3),
    (x.mask == 0 || (x.thin && x.mask != 15) || x.m > 32 || x.n > (if x.thin then 384 else 96) || x.passes == 0 ||
      (x.passes > 1 && (x.fmtA != 0 || x.fmtB != 0)) || (x.thin && x.slot + x.slotCount > 64), 4),
    (!bindingFits st.bindA x.fmtA x.turnA || (weightBindings st x).any (fun b => !bindingFits b x.fmtB x.turnB), 5),
    (!x.noOp && !x.init && (List.range x.slotCount).any (fun i =>
      let sl := fs.slot (base + x.slot + i)
      sl.thin != x.thin || sl.m != x.rowsTo i || sl.n != x.n), 6),
    (x.slot + max 1 x.slotCount > cnt || !spansFit spans (s.seedQuota p.f p.c), 7),
    (st.stepped, 9)]

/-- R113: an array of the mask is busy with element-wise work. -/
def arraysBusy (x : FurrowSt) (mask : Nat) : Bool := x.vops.any fun o => o.unit ≥ 4 && mask.testBit (o.unit - 4)

/-- The lowest set bit of a four-bit mask, as a mask. -/
def lowestBit (mask : Nat) : Nat :=
  match (List.range 4).find? mask.testBit with
  | some j => 2 ^ j
  | none => 0

/-- R62, R80: the arrays that work for the operation: those its mask names; with one row in the normal layout only the first
of them, and the others stay free. -/
def MmaOp.arrays (o : MmaOp) : Nat := if o.m = 1 ∧ ¬ o.thin then lowestBit o.mask else o.mask

/-- R61, R63: array passes the instruction runs. -/
def MmaOp.total (o : MmaOp) : Nat := ceilDiv o.kb 4 * o.passes

/-- R80, R86, R87: an MMA or MMT leaves the issue stage: named slots initialised, the operation queued with its latched
bindings; one with no pass to run retires at once. -/
def State.startMma (s : State) (p : At) (x : MmaFields) (o : MmaOp) : State :=
  if x.noOp then s
  else
    let fs := s.fur p.f p.n
    let fs := if x.init then
        (List.range x.slotCount).foldl (fun a i => a.setSlot (o.slot + i) (initSlot x.thin (x.rowsTo i) x.n)) fs
      else fs
    let fs := if o.total = 0 then fs else { fs with mmas := fs.mmas ++ [o] }
    s.setFur p.f p.n fs

/-- R115: the footprint of an MMA or MMT. -/
def State.mmaFp (s : State) (p : At) (x : MmaFields) : Footprint :=
  { seed := spansAt (s.seedBase p.f p.c) (mmaSpans (s.st p) x), slots := x.slotsAt (s.rf (R.FLD_ACQ_BASE p.c p.f)) }

/-- R408: the engine that is to repeat an MMA or MMT: a new one at an init, and that of its slot after it. -/
def State.mmaEngine (s : State) (p : At) (x : MmaFields) : Option Nat :=
  if x.init then s.nextEngine p else ((s.fur p.f p.n).slot (s.rf (R.FLD_ACQ_BASE p.c p.f) + x.slot)).shadow

/-- R113, R409: why an MMA or MMT is not ready. -/
def State.mmaWait (s : State) (p : At) (w : InstrWord) : Option WaitKind :=
  let x := mmaFields w
  s.waitFor p (s.mmaFp p x)
    (if arraysBusy (s.fur p.f p.n) x.mask || s.engineWaits p.f (s.mmaEngine p x) then some .slot else none)

/-- MMA and MMT share everything but their layout (R62, R70, R129). -/
def issueMma (i : StreamId) (w : InstrWord) (s : State) : State :=
  let p := atOf i
  let x := mmaFields w
  let st := s.st p
  let base := s.rf (R.FLD_ACQ_BASE p.c p.f)
  let op : MmaOp :=
    { owner := s.ownerAt p, thin := x.thin, mask := x.mask, slot := base + x.slot, m := x.m, n := x.n, kb := x.kb,
      passes := x.passes, row0 := x.row0, col0 := x.col0, k0 := x.k0, fmtA := x.fmtA, fmtB := x.fmtB,
      bindA := st.bindA.getD ⟨false, 0, 0, 0, 0, 0, 0⟩,
      bindW := (weightBindings st x).map (·.getD ⟨false, 0, 0, 0, 0, 0, 0⟩),
      clamp := s.clampOf p.c, fp := s.mmaFp p x }
  issue s p w (s.mmaWait p w) 0 (mmaCause s p w x (mmaSpans st x)) fun s =>
    let s := (s.wakeArrays p.f p.n x.mask).noteMma p.f x.fmtA x.thin
    if x.init then
      let (e, s) := s.sample p
      (s.startMma p x op).shadowSlots p op.slot (if x.noOp then 0 else x.slotCount) e
    else s.startMma p x op

/-! ### Weight banks (R61, R74, R130) -/

/-- R51, R63: the group of four K blocks and the pass-count step of pass `t`. -/
def MmaOp.stepOf (o : MmaOp) (t : Nat) : Nat × Nat := (t / o.passes, t % o.passes)

/-- R51: the parts of A and B that pass-count step `j` multiplies. -/
def partsOf (passes j : Nat) : Part × Part :=
  match passes, j with
  | 2, 0 => (.whole, .hi) | 2, _ => (.whole, .lo)
  | 3, 0 => (.hi, .hi) | 3, 1 => (.hi, .lo) | 3, _ => (.lo, .hi)
  | _, _ => (.whole, .whole)

/-- R74: a value times `2^k`, rounded once to binary32 under R37. -/
def laneTerm (clamp : Bool) (v : Num) (k : Int) : Fv := round32 clamp (v.scale k)

/-- R74: the lane weight of reduction row `k` over the active columns of a group, and whether a sum overflowed. -/
def laneWeight (clamp : Bool) (cols : List (List Elem)) (k : Nat) : LaneW × Bool :=
  let es := cols.map fun c => c.getD k ⟨.fin false 0 0, 0⟩
  let smax := match es with
    | [] => 0
    | e :: t => t.foldl (fun m x => max m x.s) e.s
  let z : Fv := ⟨0, false⟩
  let v := tree (Fv.add clamp) 7 z (padTo 128 z (es.map fun e => laneTerm clamp e.v (e.s - smax)))
  let m := tree (Fv.add clamp) 7 z (padTo 128 z (es.map fun e => laneTerm clamp e.v.abs (e.s - smax)))
  (⟨v.v, m.v, smax⟩, v.ovf || m.ovf)

/-- R61, R74, R130: the bank that pass `t` needs, and whether its lane sums overflowed; `blk` answers the 32 weight
elements of a port, column and K block. -/
def bankOf (o : MmaOp) (t : Nat) (blk : Nat → Nat → Nat → List Elem) : Bank × Bool :=
  let g := (o.stepOf t).1
  let blocks := (List.range 4).map fun b =>
    if 4 * g + b < o.kb then (List.range o.n).map fun c => blk b c (4 * g + b) else []
  let lanes := blocks.map fun cols =>
    if cols.isEmpty then [] else
      (List.range (if o.thin then ceilDiv o.n 96 else 1)).map fun gi =>
        let act := (cols.drop (96 * gi)).take 96
        (List.range 32).map fun k => laneWeight o.clamp act k
  (⟨t, blocks, lanes.map (·.map (·.map Prod.fst))⟩, o.clamp && lanes.any (·.any (·.any Prod.snd)))

/-- R61, R130: the bank that pass `t` needs, read from the seedbed. -/
def fillBank (s : State) (f n : Nat) (o : MmaOp) (t : Nat) : Bank × Bool :=
  let base := s.seedBase f o.owner.ctx
  bankOf o t fun b c k =>
    operandBlock s f n base ((o.bindW[if o.thin then b else 0]?).getD o.bindA) (partsOf o.passes (o.stepOf t).2).2
      (o.col0 + c) (o.k0 + k)

/-- The first operation of the matrix pipeline that still has a bank to fill, by its place in the queue. -/
def fillTarget : List MmaOp → Nat → Option (Nat × MmaOp)
  | [], _ => none
  | o :: t, i => if o.nextFill < o.total then some (i, o) else fillTarget t (i + 1)

/-- Marks the overflow flag of the slots an operation names (R74, R93). -/
def FurrowSt.markOvf (x : FurrowSt) (slots : List Nat) : FurrowSt :=
  slots.foldl (fun a i => a.setSlot i { a.slot i with ovf := true }) x

/-- R169: uncorrectable words of the operands of an operation. -/
def State.operandLost (s : State) (f n : Nat) (o : MmaOp) (lost : List Nat) : State :=
  s.seedLost f n o.owner.ctx ((o.fp.seed.filter fun r => !r.wr).map fun r => (r.lo, r.len)) lost

/-- R61, R74: a weight port completes the fill of a free bank, for the next pass that has none; with both banks live or
nothing to fill there is no such event, and nothing changes (log 6). `lost` names the uncorrectable words it reads (R169). -/
def execWeightBankFilled (f : Fin 4) (n : Fin 26) (lost : List Nat) (s : State) : Out :=
  let fs := s.fur f n
  .next <|
    if fs.banks.length ≥ 2 then s
    else match fillTarget fs.mmas 0 with
      | none => s
      | some (i, o) =>
        let s := s.operandLost f n o lost
        let (b, ovf) := fillBank s f n o o.nextFill
        let fs := { fs with banks := fs.banks ++ [b], mmas := fs.mmas.set i { o with nextFill := o.nextFill + 1 } }
        s.setFur f n (if ovf then fs.markOvf o.fp.slots else fs)

/-! ### Array passes (R89, R90) -/

/-- R37, R89: one element product, exact or rounded once to binary32. -/
def prod (clamp : Bool) (a b : Num) : Fv := round32 clamp (a.mul b)

/-- R89: the block result of 32 products under the operands' scale exponents. -/
def blockResult (clamp : Bool) (a b : List Elem) : Fv :=
  let z : Fv := ⟨0, false⟩
  let t := tree (Fv.add clamp) 5 z (List.zipWith (fun x y => prod clamp x.v y.v) a b)
  let r := scale32 clamp t.v ((a.headD ⟨.nan, 0⟩).s + (b.headD ⟨.nan, 0⟩).s)
  ⟨r.v, r.ovf || t.ovf⟩

/-- R75: the block results of C and E for one row block. -/
def laneResult (clamp : Bool) (a : List Elem) (l : List LaneW) : Fv × Fv :=
  (blockResult clamp a (l.map fun x => ⟨num32 x.v, x.s⟩),
   blockResult clamp (a.map fun x => ⟨x.v.abs, x.s⟩) (l.map fun x => ⟨num32 x.m, x.s⟩))

/-- R89: the four-block sum; an absent block contributes +0 (R63). -/
def sum4 (clamp : Bool) (b : List Fv) : Fv :=
  let g := fun i => b.getD i ⟨0, false⟩
  ((g 0).add clamp (g 1)).add clamp ((g 2).add clamp (g 3))

/-- R89: one array-pass result from the row's blocks and a column's blocks. -/
def passResult (clamp : Bool) (a b : List (List Elem)) : Fv :=
  sum4 clamp (List.zipWith (fun x y => if x.isEmpty then ⟨0, false⟩ else blockResult clamp x y) a b)

/-- R62, R69, R75, R90: every result of one activation row enters its slot row. -/
def rowPass (o : MmaOp) (bank : Bank) (a : List (List Elem)) (row : Nat) (sl : Slot) : Slot :=
  let sl := (List.range o.n).foldl (fun sl c =>
    sl.enter o.clamp false (sl.elemIdx row c) (passResult o.clamp a (bank.w.map fun b => b.getD c []))) sl
  (List.range sl.groups).foldl (fun sl g =>
    let ce := List.zipWith (fun x (l : List (List LaneW)) =>
      if x.isEmpty then ((⟨0, false⟩ : Fv), (⟨0, false⟩ : Fv)) else laneResult o.clamp x (l.getD g [])) a bank.lane
    (sl.enter o.clamp true (laneIdx row g 0) (sum4 o.clamp (ce.map Prod.fst))).enter o.clamp true (laneIdx row g 1)
      (sum4 o.clamp (ce.map Prod.snd))) sl

/-- R62, R70, R90: one array pass of an operation enters its slots; `blk` answers the 32 activation elements of a row and
K block. -/
def passRows (o : MmaOp) (bank : Bank) (blk : Nat → Nat → List Elem) (fs : FurrowSt) : FurrowSt :=
  let g := (o.stepOf bank.pass).1
  let per := if o.thin then 8 else 32
  let fs := (List.range o.m).foldl (fun (fs : FurrowSt) r =>
    let a := (List.range 4).map fun b => if 4 * g + b < o.kb then blk r (4 * g + b) else []
    let i := o.slot + r / per
    fs.setSlot i (rowPass o bank a (r % per) (fs.slot i))) fs
  (List.range (ceilDiv o.m per)).foldl (fun (fs : FurrowSt) i =>
    fs.setSlot (o.slot + i) (fs.slot (o.slot + i)).passDone) fs

/-- R62, R90: one array pass with its activation rows read from the seedbed. -/
def runPass (s : State) (f n : Nat) (o : MmaOp) (bank : Bank) : FurrowSt :=
  let base := s.seedBase f o.owner.ctx
  passRows o bank (fun r k =>
    operandBlock s f n base o.bindA (partsOf o.passes (o.stepOf bank.pass).2).1 (o.row0 + r) (o.k0 + k)) (s.fur f n)

/-- R61, R87, R90: the operation at the head of the matrix pipeline takes its next pass from the live bank, which is
released; after its last pass it retires and releases its slots. `lost` names the uncorrectable words it reads (R169). -/
def execArrayPassEnter (f : Fin 4) (n : Fin 26) (lost : List Nat) (s : State) : Out :=
  let fs := s.fur f n
  .next <|
    match fs.mmas, fs.banks with
    | o :: rest, b :: bs =>
      if s.arraysOff f n o.arrays then s else
      let s := s.operandLost f n o lost
      let fs' := runPass s f n o b
      let o' := { o with nextPass := o.nextPass + 1 }
      s.setFur f n { fs' with banks := bs, mmas := if o'.nextPass = o.total then rest else o' :: rest }
    | _, _ => s

end Sys2Proof.Machine
end

