-- ==== Sys2Proof/Machine/Drain.lean ====
section
/-! DEFINITION. The drain path: DRN and its retirement (R76 to R78, R91, R93 to R105, R132 to R134, R190). -/

namespace Sys2Proof.Machine

/-! ### Activation functions (R98) -/

def act_c1 : Word32 := 0x3F3504F3
def act_c2 : Word32 := 0x3ECC422A
def act_c3 : Word32 := 0x3F4C422A
def act_c4 : Word32 := 0x3D372713
def act_k3 : Word32 := 0x3E095D4E

/-- R98: the logistic function. -/
def sg (x : Word32) : Word32 := fdiv one32 (fadd one32 (fexp (neg32 x)))

/-- R98: u of the tanh form of GELU. -/
def geluU (x : Word32) : Word32 := fmul act_c3 (fadd x (fmul act_c4 (fmul (fmul x x) x)))

/-- `x > 0`. -/
def isPos (x : Word32) : Bool := (Num.fin false 0 0).lt (num32 x)

/-- R98: the forward form of codes 0x0 to 0x6. -/
def actForward (code : Nat) (x : Word32) : Word32 :=
  match code with
  | 1 => if (num32 x).isNaN then nan32 else if isPos x then x else 0
  | 2 => fmul (fmul half32 x) (fadd one32 (ftanh (geluU x)))
  | 3 => fmul (fmul half32 x) (fadd one32 (ferf (fmul x act_c1)))
  | 4 => fmul x (sg x)
  | 5 => sg x
  | 6 => ftanh x
  | _ => x

/-- R98: the derivative of codes 0x0 to 0x6. -/
def actDeriv (code : Nat) (z : Word32) : Word32 :=
  match code with
  | 1 => if (num32 z).isNaN then nan32 else if isPos z then one32 else 0
  | 2 =>
    let t := ftanh (geluU z)
    let du := fmul act_c3 (fadd one32 (fmul act_k3 (fmul z z)))
    fadd (fmul half32 (fadd one32 t)) (fmul (fmul half32 z) (fmul (fsub one32 (fmul t t)) du))
  | 3 =>
    fadd (fmul half32 (fadd one32 (ferf (fmul z act_c1))))
      (fmul z (fmul act_c2 (fexp (fmul (neg32 half32) (fmul z z)))))
  | 4 => let s := sg z; fmul s (fadd one32 (fmul z (fsub one32 s)))
  | 5 => let s := sg z; fmul s (fsub one32 s)
  | 6 => let t := ftanh z; fsub one32 (fmul t t)
  | _ => one32

/-- R100: softmax-partial forward on one row: the exponentials, m and l; `2^k` is the tree's width. -/
def softmaxPartial (k : Nat) (y : List Word32) : List Word32 × Word32 × Word32 :=
  let w := 2 ^ k
  let m := tree fmax k 0 (padTo w (inf32 true) y)
  let mo := if m = inf32 true then 0 else m
  let e := y.map fun v => fexp (fsub v mo)
  (e, m, tree fadd k 0 (padTo w 0 e))

/-! ### Fields and descriptor (R132, R133) -/

/-- R132: the fields of a DRN word. -/
structure DrnFields where
  slot : Nat
  ofmt : Nat
  sr : Bool
  deriv : Bool
  act : Nat
  scale : Nat
  bias : Nat
  res : Nat
  side : Bool
  sumsq : Bool
  record : Bool
  biasFp32 : Bool
  zFp32 : Bool
  desc : Nat
  tag : Nat
  tile : Nat
  oscale : Nat

/-- R132. -/
def drnFields (w : InstrWord) : DrnFields :=
  { slot := fld w 8 6, ofmt := fld w 14 4, sr := fld w 18 1 == 1, deriv := fld w 19 1 == 1, act := fld w 20 4,
    scale := fld w 24 2, bias := fld w 26 2, res := fld w 28 2, side := fld w 30 1 == 1, sumsq := fld w 31 1 == 1,
    record := fld w 32 1 == 1, biasFp32 := fld w 33 1 == 1, zFp32 := fld w 34 1 == 1, desc := fld w 36 18,
    tag := fld w 54 16, tile := fld w 70 32, oscale := fld w 102 8 }

def DrnFields.fmt (x : DrnFields) : Fmt := (Fmt.ofCode x.ofmt).getD .bf16
/-- The drain uses the z address: derivative, side output, or softmax-partial (R133). -/
def DrnFields.usesZ (x : DrnFields) : Bool := x.deriv || x.side || x.act == 7

/-- R133: one word of the descriptor. -/
def descWord (d : List Byte) (o : Nat) : Nat := leAt d o 4
/-- R133: an address or stride field of the descriptor. -/
def descAddr (d : List Byte) (o : Nat) : Nat := descWord d o % 2 ^ 18
def descStride (d : List Byte) (o : Nat) : Nat := descWord d o % 2 ^ 16

/-- R133: the descriptor words that the selected options use: (offset, bits of its field). -/
def DrnFields.used (x : DrnFields) : List (Nat × Nat) :=
  [(0, 18), (4, 16)] ++ (if x.fmt.isMx then [(8, 18), (12, 16)] else []) ++
  (if x.scale ≥ 2 then [(20, 18)] else []) ++ (if x.scale = 3 then [(24, 18)] else []) ++
  (if x.bias = 1 ∨ x.bias = 2 then [(28, 18)] else []) ++
  (if x.res = 1 ∨ x.res = 2 then [(32, 18), (36, 16)] else []) ++
  (if x.usesZ then [(40, 18)] else []) ++ (if x.deriv || x.side then [(44, 16)] else []) ++
  (if x.act = 7 ∧ x.deriv then [(48, 18)] else []) ++ (if x.record then [(52, 18)] else [])

/-- R134: a reserved bit of a used descriptor word, or of bytes 56 to 63, is not 0. -/
def badDescriptor (x : DrnFields) (d : List Byte) : Bool :=
  !zeroAt d 56 8 || x.used.any fun (o, b) => descWord d o ≥ 2 ^ b

/-- Bytes of one row of primary output (R102, R133): whole blocks for an MX format. -/
def rowBytes (f : Fmt) (n : Nat) : Nat := if f.isMx then ceilDiv n 32 * 4 * f.width else n * f.width / 8

/-- Seedbed ranges of a drain, relative to the quota (R115, R133). -/
def drnSpans (x : DrnFields) (d : List Byte) (m n : Nat) : List Rng :=
  let rowsOf := fun (a st len : Nat) (wrb : Bool) =>
    (List.range m).flatMap fun r => if wrb then wr (32 * (a + r * st)) len else rd (32 * (a + r * st)) len
  let zb := if x.zFp32 then 4 else 2
  rd (32 * x.desc) 64 ++
  rowsOf (descAddr d 0) (descStride d 4) (rowBytes x.fmt n) true ++
  (if x.fmt.isMx then
    (List.range m).flatMap fun r => wr (32 * descAddr d 8 + r * descStride d 12) (ceilDiv n 32) else []) ++
  (if x.scale ≥ 2 then rd (32 * descAddr d 20) (4 * n) else []) ++
  (if x.scale = 3 then rd (32 * descAddr d 24) (4 * m) else []) ++
  (if x.bias = 1 then rd (32 * descAddr d 28) (n * if x.biasFp32 then 4 else 2) else []) ++
  (if x.bias = 2 then rd (32 * descAddr d 28) (m * if x.biasFp32 then 4 else 2) else []) ++
  (if x.res = 1 ∨ x.res = 2 then
    rowsOf (descAddr d 32) (descStride d 36) (n * if x.res = 2 then 4 else 2) false else []) ++
  (if x.deriv then rowsOf (descAddr d 40) (descStride d 44) (n * zb) false else []) ++
  (if x.side then rowsOf (descAddr d 40) (descStride d 44) (n * zb) true else []) ++
  (if x.act = 7 ∧ ¬ x.deriv then wr (32 * descAddr d 40) (8 * m) else []) ++
  (if x.act = 7 ∧ x.deriv then rd (32 * descAddr d 48) (4 * m) else []) ++
  (if x.record then wr (32 * descAddr d 52) 32 else [])

/-- R134, R145: why a DRN is illegal. -/
def drnCause (s : State) (p : At) (w : InstrWord) (x : DrnFields) (d : List Byte) (spans : List Rng) : Option Nat :=
  let quota := s.seedQuota p.f p.c
  lowest [
    (fld w 35 1 != 0 || fld w 110 18 != 0 || (x.side && x.act == 7) ||
      (x.oscale != 0 && !(x.ofmt == 8 || x.ofmt == 9)), 2),
    (x.act ≥ 8 || x.bias == 3 || x.res == 3 || badFmt x.ofmt, 3),
    (x.slot ≥ s.rf (R.FLD_ACQ_COUNT p.c p.f) || !spansFit spans quota, 7),
    (s.afterStep p, 9),
    (32 * x.desc + 64 ≤ quota && badDescriptor x d, 11)]

/-! ### The stages (R95 to R103) -/

/-- What a drain reads besides the slot: bytes of the furrow's seedbed within the quota. -/
structure DrnEnv where
  s : State
  f : Nat
  n : Nat
  base : Nat
  d : List Byte
  x : DrnFields
  sl : Slot

def DrnEnv.vec (e : DrnEnv) (a : Nat) (fp32 : Bool) (i : Nat) : Word32 := e.s.seedVec e.f e.n (e.base + a) fp32 i

/-- R96, R97: stages 1 and 2 of element (r, n). -/
def DrnEnv.scaled (e : DrnEnv) (r n : Nat) (v : Word32) : Word32 :=
  let col := fun (_ : Unit) => e.vec (32 * descAddr e.d 20) true n
  let v := match e.x.scale with
    | 1 => fmul v (BitVec.ofNat 32 (descWord e.d 16))
    | 2 => fmul v (col ())
    | 3 => fmul (fmul v (e.vec (32 * descAddr e.d 24) true r)) (col ())
    | _ => v
  match e.x.bias with
  | 1 => fadd v (e.vec (32 * descAddr e.d 28) e.x.biasFp32 n)
  | 2 => fadd v (e.vec (32 * descAddr e.d 28) e.x.biasFp32 r)
  | _ => v

/-- R99: the z operand of element (r, n). -/
def DrnEnv.z (e : DrnEnv) (r n : Nat) : Word32 :=
  e.vec (32 * (descAddr e.d 40 + r * descStride e.d 44)) e.x.zFp32 n

/-- R98 to R100: stage 3 on one row; also m and l of softmax-partial. -/
def DrnEnv.activate (e : DrnEnv) (r : Nat) (y : List Word32) : List Word32 × Word32 × Word32 :=
  if e.x.act = 7 then
    if e.x.deriv then
      let dr := e.vec (32 * descAddr e.d 48) true r
      (y.zipIdx.map fun (g, n) => fmul (e.z r n) (fsub g dr), 0, 0)
    else softmaxPartial (if e.sl.thin then 9 else 7) y
  else if e.x.deriv then (y.zipIdx.map fun (g, n) => fmul g (actDeriv e.x.act (e.z r n)), 0, 0)
  else (y.map (actForward e.x.act), 0, 0)

/-- R101: stage 4 on one row. -/
def DrnEnv.residual (e : DrnEnv) (r : Nat) (y : List Word32) : List Word32 :=
  if e.x.res = 0 then y
  else y.zipIdx.map fun (v, n) =>
    fadd v (e.vec (32 * (descAddr e.d 32 + r * descStride e.d 36)) (e.x.res == 2) n)

/-- A list cut into pieces of `k`, at most `fuel` of them. -/
def chunks {α : Type} (k : Nat) : Nat → List α → List (List α)
  | 0, _ => []
  | f + 1, l => if l.isEmpty then [] else l.take k :: chunks k f (l.drop k)

/-- One converted row: its element codes in order (padding included), scale bytes, outcomes of the locked columns, and
the exact values written (R102, R103). -/
structure ConvRow where
  codes : List Nat
  scales : List Nat
  outcomes : List Outcome4
  values : List Num

/-- R42 to R44: a row of `w` elements converted without padding; `ts` is a tensor scale byte, `e0` the index of the
row's first element for stochastic rounding. -/
def convertRow (f : Fmt) (a : Arith) (ftz : Bool) (key : Option SrKey) (ts e0 : Nat) (y : List Word32) : ConvRow :=
  if f.isMx then
    let blocks := (chunks 32 (ceilDiv y.length 32) y).zipIdx.map fun (b, i) =>
      (b.length, f.convertBlock a ftz (fun j => srOf key (e0 + 32 * i + j)) (padTo 32 (.fin false 0 0) (b.map num32)))
    { codes := blocks.flatMap fun b => b.2.2.map Prod.fst
      scales := blocks.map fun b => b.2.1
      outcomes := blocks.flatMap fun b => (b.2.2.take b.1).map Prod.snd
      values := blocks.flatMap fun b => (b.2.2.take b.1).map fun c =>
        match scaleExp b.2.1 with
        | none => Num.nan
        | some x => (f.decode c.1).scale x }
  else if f.isTensor && ts == 255 then
    ⟨y.map fun _ => 0, [], y.map fun _ => .nanEl, y.map fun _ => .nan⟩
  else
    let x : Int := if f.isTensor then (ts : Int) - 127 else 0
    let cs := y.zipIdx.map fun (v, i) => f.convert a ftz (srOf key (e0 + i)) x (num32 v)
    ⟨cs.map Prod.fst, [], cs.map Prod.snd, cs.map fun c => (f.decode c.1).scale x⟩

/-- Element codes of `w` bits packed into bytes (R34). -/
def packCodes (w : Nat) (codes : List Nat) : List Byte :=
  leBytes ((codes.length * w + 7) / 8) ((codes.zipIdx.map fun (c, i) => c <<< (w * i)).foldl (· + ·) 0)

/-- R53: the counts of a list of outcomes. -/
def countOutcomes (l : List Outcome4) : Counts := l.foldl Counts.tick {}

/-- R76, R77: the check of one row and group: `none` when it is skipped, else whether it fails. -/
def checkRow (tol p : Nat) (c e : Word32) (cols : List Word32) : Option Bool :=
  if !(num32 c).isFinite || !(num32 e).isFinite || cols.any (fun v => !(num32 v).isFinite) then none
  else
    let sum := num32 (tree fadd 7 0 (padTo 128 0 cols))
    let l := 11 + p / 16
    let tau := ((num32 e).mul (.fin false (tol * (2 * l + 16)) (-24))).add (.fin false 1 (-120))
    some (tau.lt ((num32 c).add sum.neg).abs)

/-- One drained row: the collapsed columns, C and E of each group, and whether the collapse overflowed (R91, R93). -/
def collapseRow (clamp : Bool) (sl : Slot) (r : Nat) : List Word32 × List (Word32 × Word32) × Bool :=
  let cols := (List.range sl.n).map fun n => sl.collapse clamp false (sl.elemIdx r n)
  let ces := (List.range sl.groups).map fun g =>
    (sl.collapse clamp true (laneIdx r g 0), sl.collapse clamp true (laneIdx r g 1))
  (cols.map Fv.v, ces.zipIdx.map (fun (x, g) => (sl.forced r g x.1.v, x.2.v)),
    clamp && (cols.any Fv.ovf || ces.any fun x => x.1.ovf || x.2.ovf))

/-- R103: Q from the squares of the values written. -/
def sumSquares (thin : Bool) (rows : List (List Num)) : Word32 :=
  let k := if thin then 9 else 7
  let row := fun l => tree fadd k 0 (padTo (2 ^ k) 0 (l.map fun v => (round32 false (v.mul v)).v))
  tree fadd (if thin then 3 else 5) 0 (padTo (if thin then 8 else 32) 0 (rows.map row))

/-- Everything a drain computes at issue. -/
structure DrnResult where
  writes : List (Nat × List Byte)
  counts : Counts
  fail : List (Nat × Nat)
  skip : List (Nat × Nat)
  q : Word32
  ovf : Bool

/-- R95: the stages of a drain over the locked shape; addresses are relative to the quota. Every operand is read from the state
before the drain, and where its write ranges meet its operands or each other the order is the model's choice: rows ascending,
then codes, scales, side output, m and l (log 95). -/
def drainAll (e : DrnEnv) (clamp : Bool) (a : Arith) (key : Option SrKey) (tol : Nat) : DrnResult :=
  let sl := e.sl
  let rows := (List.range sl.m).map fun r =>
    let (cols, ces, o) := collapseRow clamp sl r
    let y := cols.zipIdx.map fun (v, n) => e.scaled r n v
    let (act, m, l) := e.activate r y
    let conv := convertRow e.x.fmt a a.ftz key e.x.oscale (r * sl.width) (e.residual r act)
    let checks : List (Option Bool) := ces.zipIdx.map fun ((c, e'), g) => checkRow tol sl.p c e' ((cols.drop (96 * g)).take 96)
    (r, o, y, (m, l), conv, checks)
  let writes := rows.flatMap fun (r, _, y, (m, l), conv, _) =>
    [(32 * (descAddr e.d 0 + r * descStride e.d 4), packCodes e.x.fmt.width conv.codes)] ++
    (if e.x.fmt.isMx then
      [(32 * descAddr e.d 8 + r * descStride e.d 12, conv.scales.map (BitVec.ofNat 8))] else []) ++
    (if e.x.side then
      [(32 * (descAddr e.d 40 + r * descStride e.d 44),
        let f := if e.x.zFp32 then Fmt.fp32 else Fmt.bf16
        packCodes f.width (y.map fun v => (f.convert a false .rne 0 (num32 v)).1))] else []) ++
    (if e.x.act = 7 ∧ ¬ e.x.deriv then
      [(32 * descAddr e.d 40 + 8 * r, leBytes 4 m.toNat ++ leBytes 4 l.toNat)] else [])
  let marks := fun (b : Option Bool) => rows.flatMap fun (r, _, _, _, _, checks) =>
    (checks.zipIdx.filter fun (c, _) => c == b).map fun (_, g) => (r, g)
  { writes := writes
    counts := countOutcomes (rows.flatMap fun (_, _, _, _, conv, _) => conv.outcomes)
    fail := marks (some true)
    skip := marks none
    q := if e.x.sumsq then sumSquares sl.thin (rows.map fun (_, _, _, _, conv, _) => conv.values) else 0
    ovf := rows.any fun (_, o, _) => o }

/-- R143: the mask of a list of rows and groups. -/
def maskOf (l : List (Nat × Nat)) : Nat := l.foldl (fun m (r, g) => m ||| 1 <<< (8 * g + r)) 0

/-- Set bits of a 32-bit mask. -/
def popCount (n : Nat) (m : Nat) : Nat := ((List.range n).filter fun i => m.testBit i).length

/-- R190: the primary output range meets a frozen window of a context in compatibility mode. -/
def discardedDrain (l : StepLatch) (x : DrnFields) (d : List Byte) (m n : Nat) : Bool :=
  l.compat &&
    let lo := 32 * descAddr d 0
    let hi := 32 * (descAddr d 0 + (m - 1) * descStride d 4) + rowBytes x.fmt n
    l.frz.any fun (b, len) => len != 0 && 32 * b < hi && lo < 32 * (b + len)

/-- R105: the drain record. -/
def drainRecord (x : DrnFields) (r : DrnResult) (step : Nat) (sl : Slot) (ovf : Bool) : List Byte :=
  leBytes 4 r.counts.sat ++ leBytes 4 r.counts.flush ++ leBytes 4 r.counts.nan ++ leBytes 4 r.counts.inf ++
  leBytes 4 r.q.toNat ++ leBytes 4 step ++ leBytes 4 x.tile ++
  leBytes 1 r.fail.length ++ leBytes 1 r.skip.length ++
  leBytes 1 (x.slot + (if sl.thin then 64 else 0) + (if ovf then 128 else 0)) ++ [0]

/-- R88, R93, R95, R143: a drain leaves the issue stage: its outputs are written and its pending forces consumed; the
record, masks and counters follow at retirement. -/
def State.startDrain (s : State) (p : At) (x : DrnFields) (d : List Byte) (fp : Footprint) : State :=
  let phys := s.rf (R.FLD_ACQ_BASE p.c p.f) + x.slot
  let fs := s.fur p.f p.n
  let sl := fs.slot phys
  let base := s.seedBase p.f p.c
  let l := (s.ctx p.c).latch
  let key := if x.sr then
      some ⟨l.k0, l.k1, BitVec.ofNat 32 (s.stepOf p.c), BitVec.ofNat 32 x.tile, BitVec.ofNat 32 x.tag⟩
    else none
  let r := drainAll ⟨s, p.f, p.n, base, d, x, sl⟩ (s.clampOf p.c) l.arith key (s.rf (R.FUR_CHK_CTRL_TOL_MULT p.f p.n))
  let disc := discardedDrain l x d sl.m sl.n
  let ovf := sl.ovf || r.ovf
  let op : DrnOp :=
    { owner := s.ownerAt p, slot := phys, named := x.slot,
      rec? := if x.record && !disc then
          some (base + 32 * descAddr d 52, drainRecord x r (s.stepOf p.c) sl ovf) else none,
      counts := r.counts, failMask := maskOf r.fail, skipMask := maskOf r.skip, thin := sl.thin,
      sumsq := x.sumsq, q := r.q, discarded := disc, fp := fp }
  let fs := (fs.setSlot phys { sl with ovf := ovf, forces := [] })
  let s := s.setFur p.f p.n { fs with drns := fs.drns ++ [op] }
  if disc then s
  else r.writes.foldl (fun s (a, bs) => s.seedWrite p.f p.n (base + a) bs) s

/-- R132: the descriptor that a DRN names. -/
def State.drnDesc (s : State) (p : At) (x : DrnFields) : List Byte :=
  s.seedRead p.f p.n (s.seedBase p.f p.c + 32 * x.desc) 64

/-- R132: the slot that a DRN names. -/
def State.drnSlot (s : State) (p : At) (x : DrnFields) : Slot :=
  (s.fur p.f p.n).slot (s.rf (R.FLD_ACQ_BASE p.c p.f) + x.slot)

/-- R115: the seedbed ranges of a DRN, relative to the quota. -/
def State.drnRanges (s : State) (p : At) (x : DrnFields) : List Rng :=
  drnSpans x (s.drnDesc p x) (s.drnSlot p x).m (s.drnSlot p x).n

/-- R115: the footprint of a DRN. -/
def State.drnFp (s : State) (p : At) (x : DrnFields) : Footprint :=
  { seed := spansAt (s.seedBase p.f p.c) (s.drnRanges p x), slots := [s.rf (R.FLD_ACQ_BASE p.c p.f) + x.slot] }

/-- R113, R409: why a DRN is not ready. -/
def State.drnWait (s : State) (p : At) (w : InstrWord) : Option WaitKind :=
  let x := drnFields w
  s.waitFor p (s.drnFp p x) (if s.engineWaits p.f (s.drnSlot p x).shadow then some .slot else none)

/-- R132: DRN. -/
def issueDrn (i : StreamId) (w : InstrWord) (s : State) : State :=
  let p := atOf i
  let x := drnFields w
  let d := s.drnDesc p x
  let fp := s.drnFp p x
  let e := (s.drnSlot p x).shadow
  issue s p w (s.drnWait p w) 0 (drnCause s p w x d (s.drnRanges p x)) fun s =>
    (s.startDrain p x d fp).compareLater p e x.slot 0x28 x.tile

/-! ### Retirement -/

/-- R83: a failed row check is the furrow's first recorded one while none is. -/
def State.firstCheck (s : State) (f n : Nat) (o : DrnOp) (bit : Nat) : State :=
  if s.flag (R.FUR_CHK_FIRST_VALID f n) then s
  else
    (((((((s.wf (R.FUR_CHK_FIRST_SLOT f n) o.named).wf (R.FUR_CHK_FIRST_ROW f n) (if o.thin then bit % 8 else bit)).wf
      (R.FUR_CHK_FIRST_GROUP f n) (if o.thin then bit / 8 else 0)).wf (R.FUR_CHK_FIRST_THIN f n) (if o.thin then 1 else 0)).wf
      (R.FUR_CHK_FIRST_CTX f n) o.owner.ctx).wf (R.FUR_CHK_FIRST_VALID f n) 1).wf
      (R.FUR_CHK_STEP_STEP f n) o.owner.step)

/-- R78, R83: one failed row check: counted, recorded if it is the first, and reported. -/
def State.reportCheck (s : State) (f n : Nat) (o : DrnOp) (bit : Nat) : State :=
  ((((s.bump (R.FUR_CHK_FAILS_COUNT f n) 1).firstCheck f n o bit).raiseFor (Page.furrowBase f n) 0
    (some o.owner.ctx)).blockCause o.owner.ctx 2)

/-- R143: a drain leaves the furrow's drains, and its slot keeps its check masks and step. -/
def State.keepMasks (s : State) (f n : Nat) (o : DrnOp) (rest : List DrnOp) : State :=
  let fs := s.fur f n
  s.setFur f n
    { (fs.setSlot o.slot { fs.slot o.slot with failMask := o.failMask, skipMask := o.skipMask, drainStep := o.owner.step }) with
      drns := rest }

/-- R105: the drain record is written, if there is one. -/
def State.putRecord (s : State) (f n : Nat) (o : DrnOp) : State :=
  match o.rec? with
  | some (a, bs) => s.seedWrite f n a bs
  | none => s

/-- R209, R210: a gradient drain adds its sum of squares to its stream's and counts its NaNs and infinities. -/
def State.addSquares (s : State) (f n : Nat) (o : DrnOp) : State :=
  if o.sumsq && !o.discarded then
    let st := s.strm f n o.owner.ctx o.owner.strm
    (s.addGradNf o.owner.ctx o.counts).setStrm f n o.owner.ctx o.owner.strm { st with qsum := fadd st.qsum o.q }
  else s

/-- R106: the furrow's drain counters. -/
def State.countDrain (s : State) (f n : Nat) (o : DrnOp) : State :=
  (s.bump (R.FUR_DRN_COUNT_COUNT f n) 1).bump (R.FUR_DRN_SKIP_COUNT f n) (popCount 32 o.skipMask)

/-- R105, R106, R143, R209, R210: what a drain's retirement does before its failed checks are reported. -/
def State.closeDrain (s : State) (f n : Nat) (o : DrnOp) (rest : List DrnOp) : State :=
  ((((s.keepMasks f n o rest).putRecord f n o).addTotals o.owner.ctx o.counts).addSquares f n o).countDrain f n o

/-- R78, R105, R106, R143, R209, R210: a drain retires. Failed checks are reported in ascending order of `8·group + row`, which
decides the first one recorded (the model's choice, log 71). -/
def State.retireDrain (s : State) (f n : Nat) (o : DrnOp) (rest : List DrnOp) : State :=
  ((List.range 32).filter fun i => o.failMask.testBit i).foldl (fun s i => s.reportCheck f n o i) (s.closeDrain f n o rest)

/-- R68, R105: all four column groups of the oldest drain of the furrow have been written, and it retires; with no drain
in the output path nothing changes (log 6). -/
def execDrainRetire (f : Fin 4) (n : Fin 26) (s : State) : Out :=
  match (s.fur f n).drns with
  | [] => .next s
  | o :: rest => .next (s.retireDrain f n o rest)

end Sys2Proof.Machine
end

