-- ==== Sys2Proof/Machine/Vector.lean ====
section
/-! DEFINITION. The vector operations, on the vector unit and on the arrays, and their retirement (R73, R139 to R141). -/

namespace Sys2Proof.Machine

/-- R139: the fields of a VOP word. -/
structure VopFields where
  vopc : Nat
  unit : Nat
  dfmt : Nat
  sfmt : Nat
  sr : Bool
  dst : Nat
  src1 : Nat
  src2 : Nat
  src3 : Nat
  count : Nat
  tag : Nat

/-- R139. -/
def vopFields (w : InstrWord) : VopFields :=
  { vopc := fld w 8 6, unit := fld w 14 3, dfmt := fld w 17 4, sfmt := fld w 21 4, sr := fld w 25 1 == 1,
    dst := fld w 27 18, src1 := fld w 45 18, src2 := fld w 63 18, src3 := fld w 81 18, count := fld w 99 16,
    tag := fld w 115 13 }

def VopFields.df (x : VopFields) : Fmt := (Fmt.ofCode x.dfmt).getD .fp32
def VopFields.sf (x : VopFields) : Fmt := (Fmt.ofCode x.sfmt).getD .fp32
/-- The operation is CPY. -/
def VopFields.isCpy (x : VopFields) : Bool := x.vopc == 0
/-- The operation is RSUM or RMAX: one result element. -/
def VopFields.reduces (x : VopFields) : Bool := x.vopc == 0x0C || x.vopc == 0x0D
/-- How many vector sources the operation reads. -/
def VopFields.arity (x : VopFields) : Nat :=
  match x.vopc with
  | 1 | 2 | 3 | 5 | 7 | 8 => 2
  | 4 => 3
  | _ => 1
/-- R140: where the destination's scale array lies, in bytes. -/
def VopFields.scaleAt (x : VopFields) : Nat :=
  32 * (if x.isCpy then x.src3 else x.dst + ceilDiv (x.count * x.df.width) 8)
/-- Bytes of the destination element array. -/
def VopFields.dstBytes (x : VopFields) : Nat :=
  if x.reduces then (if x.df.isMx then 4 * x.df.width else x.df.width / 8) else 4 * x.count * x.df.width

/-- R140: seedbed ranges of a vector operation, relative to the quota. -/
def vopSpans (x : VopFields) : List Rng :=
  if x.count = 0 then [] else
    let n := 4 * x.count * x.sf.width
    rd (32 * x.src1) n ++ (if x.arity ≥ 2 then rd (32 * x.src2) n else []) ++
    (if x.arity ≥ 3 then rd (32 * x.src3) n else []) ++
    (if x.isCpy && x.sf.isMx then rd (32 * x.src2) x.count else []) ++
    wr (32 * x.dst) x.dstBytes ++
    (if x.df.isMx then wr x.scaleAt (if x.reduces then 1 else x.count) else [])

/-- R140, R145: why a vector operation is illegal. -/
def vopCause (s : State) (p : At) (w : InstrWord) (x : VopFields) (spans : List Rng) : Option Nat :=
  lowest [
    (fld w 26 1 != 0, 2),
    ((x.unit != 0 && x.unit < 4) || badFmt x.sfmt || x.sfmt == 8 || x.sfmt == 9 || (!x.isCpy && x.sfmt > 1) ||
      badFmt x.dfmt || x.dfmt == 8 || x.dfmt == 9, 3),
    (x.unit ≥ 4 && !(x.vopc == 1 || x.vopc == 3 || x.vopc == 4), 4),
    (!spansFit spans (s.seedQuota p.f p.c), 7),
    (s.afterStep p, 9)]

/-- R73, R80, R113: the array an element-wise operation names works for an MMA or MMT, or for another element-wise
operation. -/
def arrayTaken (x : FurrowSt) (unit : Nat) : Bool :=
  unit ≥ 4 && ((x.mmas.any fun o => o.arrays.testBit (unit - 4)) || x.vops.any fun o => o.unit == unit)

/-- The exact source elements of CPY (R42, R140). -/
def cpySource (s : State) (p : At) (base : Nat) (x : VopFields) : List Num :=
  (List.range (32 * x.count)).map fun i =>
    let code := seedBits s p.f p.n base (256 * x.src1 + i * x.sf.width) x.sf.width
    let v := x.sf.decode code
    if x.sf.isMx then
      match scaleExp (s.seedByte p.f p.n (base + 32 * x.src2 + i / 32)).toNat with
      | none => .nan
      | some e => v.scale e
    else v

/-- One BF16 or FP32 source vector (R140). -/
def vopSource (s : State) (p : At) (base : Nat) (x : VopFields) (src : Nat) : List Word32 :=
  (List.range (32 * x.count)).map fun i => s.seedVec p.f p.n (base + 32 * src) (x.sfmt == 1) i

/-- R140: one element of an elementwise operation. -/
def vopElem (vopc : Nat) (a b c : Word32) : Word32 :=
  match vopc with
  | 1 => fadd a b | 2 => fsub a b | 3 => fmul a b | 4 => ffma a b c | 5 => fdiv a b | 6 => fsqrt a
  | 7 => fmax a b | 8 => fmin a b | 9 => fexp a | 0x0A => ftanh a | 0x0B => ferf a
  | _ => a

/-- Levels of the pairwise tree over `n` terms padded to a power of two. -/
def treeDepth (n : Nat) : Nat := bitLen (n - 1)

/-- R140: the exact results of an operation, before conversion. -/
def vopResults (s : State) (p : At) (base : Nat) (x : VopFields) : List Num :=
  if x.isCpy then cpySource s p base x
  else
    let a := vopSource s p base x x.src1
    let k := treeDepth a.length
    match x.vopc with
    | 0x0C => [num32 (tree fadd k 0 (padTo (2 ^ k) 0 a))]
    | 0x0D => [num32 (tree fmax k 0 (padTo (2 ^ k) (inf32 true) a))]
    | _ =>
      let b := if x.arity ≥ 2 then vopSource s p base x x.src2 else []
      let c := if x.arity ≥ 3 then vopSource s p base x x.src3 else []
      a.zipIdx.map fun (v, i) => num32 (vopElem x.vopc v (b.getD i 0) (c.getD i 0))

/-- Exact values converted to `f`: element codes with the padding of a last MX block, scale bytes, and the outcomes of the
values themselves (R42 to R44, R53). -/
def convertVec (f : Fmt) (a : Arith) (key : Option SrKey) (vs : List Num) : List Nat × List Nat × List Outcome4 :=
  if f.isMx then
    let blocks := (chunks 32 (ceilDiv vs.length 32) vs).zipIdx.map fun (b, i) =>
      (b.length, f.convertBlock a false (fun j => srOf key (32 * i + j)) (padTo 32 (.fin false 0 0) b))
    (blocks.flatMap fun b => b.2.2.map Prod.fst, blocks.map fun b => b.2.1,
      blocks.flatMap fun b => (b.2.2.take b.1).map Prod.snd)
  else
    let cs := vs.zipIdx.map fun (v, i) => f.convert a false (srOf key i) 0 v
    (cs.map Prod.fst, [], cs.map Prod.snd)

/-- A unit operation enters its unit's queue. -/
def State.pushVop (s : State) (p : At) (unit : Nat) (fp : Footprint) (k : Counts) : State :=
  let fs := s.fur p.f p.n
  (if unit < 4 then s else s.wakeArrays p.f p.n (2 ^ (unit - 4))).setFur p.f p.n
    { fs with vops := fs.vops ++ [⟨s.ownerAt p, unit, fp, k⟩] }

/-- R140, R141: a vector operation runs: results converted, written and counted; it holds its footprint until it retires.
A length of 0 is a no-op. -/
def State.startVop (s : State) (p : At) (x : VopFields) (fp : Footprint) : State :=
  if x.count = 0 then s
  else
    let base := s.seedBase p.f p.c
    let l := (s.ctx p.c).latch
    let key := if x.sr then
        some ⟨l.k0, l.k1, BitVec.ofNat 32 (s.stepOf p.c), BitVec.ofNat 32 x.tag, BitVec.ofNat 32 x.dst⟩
      else none
    let (codes, scales, outs) := convertVec x.df l.arith key (vopResults s p base x)
    let s := s.seedWrite p.f p.n (base + 32 * x.dst) (packCodes x.df.width codes)
    let s := if x.df.isMx then s.seedWrite p.f p.n (base + x.scaleAt) (scales.map (BitVec.ofNat 8)) else s
    (s.addTotals p.c (countOutcomes outs)).pushVop p x.unit fp (countOutcomes outs)

/-- R115: the footprint of a vector operation. -/
def State.vopFp (s : State) (p : At) (x : VopFields) : Footprint := { seed := spansAt (s.seedBase p.f p.c) (vopSpans x) }

/-- R113, R409: why a vector operation is not ready. -/
def State.vopWait (s : State) (p : At) (w : InstrWord) : Option WaitKind :=
  let x := vopFields w
  s.waitFor p (s.vopFp p x)
    (if arrayTaken (s.fur p.f p.n) x.unit || s.engineWaits p.f (s.nextEngine p) then some .slot else none)

/-- The issue of one vector operation (R139, R140). -/
def issueVop (i : StreamId) (w : InstrWord) (s : State) : State :=
  let p := atOf i
  let x := vopFields w
  let fp := s.vopFp p x
  issue s p w (s.vopWait p w) 0 (vopCause s p w x (vopSpans x)) fun s => (s.startVop p x fp).sampleVop p

/-- The list without its first element that satisfies `q`. -/
def dropFirst {α : Type} (q : α → Bool) : List α → List α
  | [] => []
  | a :: t => if q a then t else a :: dropFirst q t

/-- R54: the counters of the oldest operation of a unit stand in the unit's completion field. -/
def FurrowSt.completeVop (x : FurrowSt) (unit : Nat) : Store (Owner × Counts) :=
  match x.vops.find? fun o => o.unit == unit with
  | some o => sput x.vopDone unit (o.owner, o.counts)
  | none => x.vopDone

/-- R54, R73, R114: the oldest operation of the vector unit (`unit` 0) or of an array (`unit` 4 to 7) retires, reports its
counters and releases its footprint and array; with none in the unit nothing changes (log 6). -/
def execVopRetire (f : Fin 4) (n : Fin 26) (unit : Fin 8) (s : State) : Out :=
  let fs := s.fur f n
  .next (s.setFur f n
    { fs with vops := dropFirst (fun o => o.unit == unit) fs.vops, vopDone := fs.completeVop unit })

end Sys2Proof.Machine
end

