-- ==== Sys2Proof/Machine/Optimiser.lean ====
section
/-! DEFINITION. The optimiser entries ADAMW, GSQ and AFAPPLY (R200 to R208). -/

namespace Sys2Proof.Machine

/-- A binary32 field of a parameter record or row header. -/
def recWord (r : List Byte) (o : Nat) : Word32 := BitVec.ofNat 32 (leAt r o 4)

/-- R203: a reserved byte or bit of a parameter record is not 0. -/
def badRecord (r : List Byte) : Bool := !zeroAt r 49 15 || leAt r 48 1 ≥ 2
/-- R203: `FLAGS.MOM`. -/
def recMom (r : List Byte) : Bool := leAt r 48 1 % 2 == 1

/-- R208: a rule of the row header is broken. -/
def badHeader (h : List Byte) (mom : Bool) : Bool :=
  leAt h 4 4 ≥ 2 ^ 18 || leAt h 8 4 ≥ 2 ^ 18 || !zeroAt h 12 20 || (!mom && leAt h 8 4 != 0)

/-- R202: bytes rounded up to whole 32-byte units. -/
def roundUnit (n : Nat) : Nat := 32 * ceilDiv n 32

/-- R201: seedbed ranges of an optimiser entry, relative to the quota; `h` is AFAPPLY's row header. -/
def optSpans (x : VopFields) (rec_ h : List Byte) : List Rng :=
  if x.count = 0 then [] else
    let n := 4 * x.count * x.sf.width
    rd (32 * x.src1) n ++ rd (32 * x.src3) 64 ++ wr (32 * x.dst) (128 * x.count) ++
    (if x.vopc = 0x10 then wr (32 * x.src2) (roundUnit (66 * x.count)) else []) ++
    (if x.vopc = 0x12 then
      rd (32 * x.src2) 32 ++ rd (32 * (leAt h 4 4 % 2 ^ 18)) (128 * x.count) ++
      (if recMom rec_ then wr (32 * (leAt h 8 4 % 2 ^ 18)) (roundUnit (33 * x.count)) else [])
     else [])

/-- R145, R200, R203, R208: why an optimiser entry is illegal. -/
def optCause (s : State) (p : At) (w : InstrWord) (x : VopFields) (rec_ h : List Byte) (spans : List Rng) : Option Nat :=
  let quota := s.seedQuota p.f p.c
  let recIn := x.count != 0 && 32 * x.src3 + 64 ≤ quota
  let hdrIn := x.count != 0 && x.vopc == 0x12 && 32 * x.src2 + 32 ≤ quota
  lowest [
    (fld w 26 1 != 0 || (x.vopc == 0x11 && x.src2 != 0), 2),
    ((x.unit != 0 && x.unit < 4) || x.dfmt != 1 || x.sfmt > 1, 3),
    (x.unit ≥ 4, 4),
    (!spansFit spans quota, 7),
    (s.afterStep p, 9),
    ((recIn && badRecord rec_) || (hdrIn && badHeader h (recMom rec_)), 11)]

/-- A stored moment of an MXFP8 E4M3 block: element `e` of codes at `ca`, scales at `sa` (R202). -/
def moment (s : State) (p : At) (base ca sa e : Nat) : Word32 :=
  let c := (s.seedByte p.f p.n (base + ca + e)).toNat
  match scaleExp (s.seedByte p.f p.n (base + sa + e / 32)).toNat with
  | none => nan32
  | some x => (round32 false ((Fmt.mxE4M3.decode c).scale x)).v

/-- R204: one element of ADAMW: the new weight, first moment and root of the second moment. -/
def adamwElem (r : List Byte) (w0 g m0 r0 : Word32) : Word32 × Word32 × Word32 :=
  let gs := fmul g (recWord r 36)
  let m1 := ffma (recWord r 4) m0 (fmul (recWord r 8) gs)
  let v0 := fmul r0 r0
  let v1 := ffma (recWord r 12) v0 (fmul (recWord r 16) (fmul gs gs))
  let r1 := fsqrt v1
  let den := ffma r1 (recWord r 32) (recWord r 20)
  let u := fdiv (fmul m1 (recWord r 28)) den
  let d := ffma (recWord r 24) w0 u
  (ffma (recWord r 0 ^^^ 0x80000000) d w0, m1, r1)

/-- R208: one element of AFAPPLY: the new weight and the first moment. -/
def afElem (r : List Byte) (rf cf w0 g m0 : Word32) : Word32 × Word32 :=
  let gs := fmul g (recWord r 36)
  let den := fadd (fsqrt (fmul rf cf)) (recWord r 20)
  let u := fdiv gs den
  let m1 := if recMom r then ffma (recWord r 4) m0 (fmul (recWord r 8) u) else u
  let d := ffma (recWord r 24) w0 m1
  (ffma (recWord r 0 ^^^ 0x80000000) d w0, m1)

/-- R206: the random key of a moment conversion; `which` is 0 for m and 1 for r. -/
def momentKey (s : State) (p : At) (x : VopFields) (r : List Byte) (which : Nat) : Option SrKey :=
  let l := (s.ctx p.c).latch
  if x.sr then
    some ⟨l.k0, l.k1, BitVec.ofNat 32 (s.stepOf p.c), recWord r 44, BitVec.ofNat 32 (x.tag + which * 2 ^ 16)⟩
  else none

/-- FP32 results written at the destination, and their counts (R201). -/
def State.writeFp32 (s : State) (p : At) (base dst : Nat) (vs : List Word32) : State :=
  let (codes, _, outs) := convertVec .fp32 {} none (vs.map num32)
  (s.seedWrite p.f p.n (base + 32 * dst) (packCodes 32 codes)).addTotals p.c (countOutcomes outs)

/-- R204: ADAMW over the operation's elements. -/
def State.runAdamw (s : State) (p : At) (x : VopFields) (r : List Byte) : State :=
  let base := s.seedBase p.f p.c
  let c := x.count
  let mb := 32 * x.src2
  let a := (s.ctx p.c).latch.arith
  let res := (List.range (32 * c)).map fun e =>
    adamwElem r (s.seedVec p.f p.n (base + 32 * x.dst) true e) (s.seedVec p.f p.n (base + 32 * x.src1) (x.sfmt == 1) e)
      (moment s p base mb (mb + 64 * c) e) (moment s p base (mb + 32 * c) (mb + 65 * c) e)
  let (mc, ms, mo) := convertVec .mxE4M3 a (momentKey s p x r 0) (res.map fun y => num32 y.2.1)
  let (rc, rs, ro) := convertVec .mxE4M3 a (momentKey s p x r 1) (res.map fun y => num32 y.2.2)
  let block := (mc ++ rc ++ ms ++ rs).map (BitVec.ofNat 8)
  let s := s.writeFp32 p base x.dst (res.map Prod.fst)
  let s := s.seedWrite p.f p.n (base + mb) (padTo (roundUnit (66 * c)) 0 block)
  s.addTotals p.c (countOutcomes (mo ++ ro))

/-- R207: GSQ over the operation's elements. -/
def State.runGsq (s : State) (p : At) (x : VopFields) (r : List Byte) : State :=
  let base := s.seedBase p.f p.c
  s.writeFp32 p base x.dst ((List.range (32 * x.count)).map fun e =>
    let gs := fmul (s.seedVec p.f p.n (base + 32 * x.src1) (x.sfmt == 1) e) (recWord r 36)
    ffma gs gs (recWord r 40))

/-- R208: AFAPPLY over one row segment. -/
def State.runAfapply (s : State) (p : At) (x : VopFields) (r h : List Byte) : State :=
  let base := s.seedBase p.f p.c
  let c := x.count
  let mb := 32 * (leAt h 8 4 % 2 ^ 18)
  let res := (List.range (32 * c)).map fun e =>
    afElem r (recWord h 0) (s.seedVec p.f p.n (base + 32 * (leAt h 4 4 % 2 ^ 18)) true e)
      (s.seedVec p.f p.n (base + 32 * x.dst) true e) (s.seedVec p.f p.n (base + 32 * x.src1) (x.sfmt == 1) e)
      (if recMom r then moment s p base mb (mb + 32 * c) e else 0)
  let s' := s.writeFp32 p base x.dst (res.map Prod.fst)
  if recMom r then
    let (mc, ms, mo) :=
      convertVec .mxE4M3 (s.ctx p.c).latch.arith (momentKey s p x r 0) (res.map fun y => num32 y.2)
    (s'.seedWrite p.f p.n (base + mb) (padTo (roundUnit (33 * c)) 0 ((mc ++ ms).map (BitVec.ofNat 8)))).addTotals p.c
      (countOutcomes mo)
  else s'

/-- R200: what an optimiser entry does. -/
def State.runOpt (s : State) (p : At) (x : VopFields) (r h : List Byte) : State :=
  match x.vopc with
  | 0x10 => s.runAdamw p x r
  | 0x11 => s.runGsq p x r
  | _ => s.runAfapply p x r h

/-- The step's counters of context `c` at 0. -/
def State.zeroTotals (s : State) (c : Nat) : State := s.setCtx c { s.ctx c with totals := {} }

/-- R54: an optimiser entry's own counters: what it adds to totals that stand at 0. -/
def State.optCounts (s : State) (p : At) (x : VopFields) (r h : List Byte) : Counts :=
  (((s.zeroTotals p.c).runOpt p x r h).ctx p.c).totals

/-- R203: the parameter record of an optimiser entry. -/
def State.optRecordAt (s : State) (p : At) (x : VopFields) : List Byte :=
  s.seedRead p.f p.n (s.seedBase p.f p.c + 32 * x.src3) 64

/-- R208: the row header of an AFAPPLY. -/
def State.optHeaderAt (s : State) (p : At) (x : VopFields) : List Byte :=
  s.seedRead p.f p.n (s.seedBase p.f p.c + 32 * x.src2) 32

/-- R115: the footprint of an optimiser entry. -/
def State.optFp (s : State) (p : At) (x : VopFields) : Footprint :=
  { seed := spansAt (s.seedBase p.f p.c) (optSpans x (s.optRecordAt p x) (s.optHeaderAt p x)) }

/-- R113, R409: why an optimiser entry is not ready. -/
def State.optWait (s : State) (p : At) (w : InstrWord) : Option WaitKind :=
  s.waitFor p (s.optFp p (vopFields w)) (if s.engineWaits p.f (s.nextEngine p) then some .slot else none)

/-- The issue of one optimiser entry (R200, R201). -/
def issueOpt (i : StreamId) (w : InstrWord) (s : State) : State :=
  let p := atOf i
  let x := vopFields w
  let r := s.optRecordAt p x
  let h := s.optHeaderAt p x
  let fp := s.optFp p x
  issue s p w (s.optWait p w) 0 (optCause s p w x r h (optSpans x r h)) fun s =>
    if x.count = 0 then s.sampleVop p
    else ((s.runOpt p x r h).pushVop p 0 fp (s.optCounts p x r h)).sampleVop p

end Sys2Proof.Machine
end

