-- ==== Sys2Proof/Machine/Glean.lean ====
section
/-! DEFINITION. The gleaning buffer: INIT, ACC, ADD, FLUSH and retirement (R135, R136, R182 to R185, R191). -/

namespace Sys2Proof.Machine

/-- R135: the fields of a GLN word. -/
structure GlnFields where
  gop : Nat
  sfmt : Nat
  clear : Bool
  gaddr : Nat
  gsrc : Nat
  saddr : Nat
  sstride : Nat
  rows : Nat
  cols : Nat
  pitch : Nat

/-- R135. -/
def glnFields (w : InstrWord) : GlnFields :=
  { gop := fld w 8 2, sfmt := fld w 10 2, clear := fld w 12 1 == 1, gaddr := fld w 16 19, gsrc := fld w 35 19,
    saddr := fld w 54 18, sstride := fld w 72 16, rows := fld w 88 8, cols := fld w 96 9, pitch := fld w 105 16 }

/-- Bytes of a seedbed element. -/
def GlnFields.bytes (x : GlnFields) : Nat := if x.sfmt = 0 then 4 else 2
/-- R135: the element ranges of a region from its first element. -/
def GlnFields.region (x : GlnFields) (a : Nat) (wrb : Bool) : List Rng :=
  if x.cols = 0 then [] else (List.range x.rows).map fun r => ⟨a + r * x.pitch, x.cols, wrb⟩
/-- R136: the seedbed ranges, relative to the quota. -/
def GlnFields.spans (x : GlnFields) : List Rng :=
  (List.range x.rows).flatMap fun r =>
    let lo := 32 * (x.saddr + r * x.sstride)
    if x.gop = 1 then rd lo (x.cols * x.bytes) else if x.gop = 3 then wr lo (x.cols * x.bytes) else []
/-- The gleaning ranges, relative to the share. -/
def GlnFields.gleans (x : GlnFields) : List Rng :=
  x.region x.gaddr true ++ (if x.gop = 2 then x.region x.gsrc false else [])

/-- R136, R145, R191: why a GLN is illegal. -/
def glnCause (s : State) (p : At) (w : InstrWord) (x : GlnFields) : Option Nat :=
  let share := 4096 * s.rf (R.FLD_GLQ_SIZE p.c p.f)
  let tgt := x.region x.gaddr true
  lowest [
    (fld w 13 3 != 0 || fld w 121 7 != 0, 2),
    (x.sfmt ≥ 2 || (x.gop == 2 && !(s.ctx p.c).latch.tied), 3),
    (x.cols > 384, 4),
    (!spansFit x.gleans share || !spansFit x.spans (s.seedQuota p.f p.c) ||
      (x.gop == 2 && (x.region x.gsrc false).any fun a => tgt.any a.hits), 7),
    (s.afterStep p, 9)]

/-- Every register of a word is finite. -/
def finite32 (w : Word32) : Bool := (num32 w).isFinite

/-- R182: the compensated update of element (s, c) by x. -/
def gleanAcc (e : Word32 × Word32) (x : Word32) : Word32 × Word32 :=
  let t := fadd e.1 x
  if !finite32 t then (t, 0)
  else
    let bp := fsub t e.1
    let ap := fsub t bp
    let err := fadd (fsub e.1 ap) (fsub x bp)
    (t, fadd e.2 err)

/-- R183: the update of the target element by a source element. -/
def gleanAdd (e src : Word32 × Word32) : Word32 × Word32 :=
  let r := gleanAcc e src.1
  if !finite32 r.1 then (r.1, 0) else (r.1, fadd r.2 src.2)

/-- R184: the final value of an element. -/
def gleanFinal (e : Word32 × Word32) : Word32 := if finite32 e.1 then fadd e.1 e.2 else (round32 false (num32 e.1)).v

/-- The elements of a region in row-major order: (row, column). -/
def GlnFields.cells (x : GlnFields) : List (Nat × Nat) :=
  (List.range x.rows).flatMap fun r => (List.range x.cols).map fun c => (r, c)

/-- R184: what FLUSH writes for each element of its region, with its outcome. -/
def State.glnOuts (s : State) (p : At) (x : GlnFields) : List ((Nat × Nat) × Nat × Outcome4) :=
  let gb := 4096 * s.rf (R.FLD_GLQ_BASE p.c p.f)
  let f := if x.sfmt = 0 then Fmt.fp32 else Fmt.bf16
  x.cells.map fun rc =>
    (rc, f.convert (s.ctx p.c).latch.arith false .rne 0 (num32 (gleanFinal (s.gleanGet p.f p.n (gb + x.gaddr + rc.1 * x.pitch + rc.2)))))

/-- R54, R184: the counters of one operation: those of FLUSH's conversions. -/
def State.glnCounts (s : State) (p : At) (x : GlnFields) : Counts :=
  if x.gop ≤ 2 then {} else countOutcomes ((s.glnOuts p x).map fun o => o.2.2)

/-- R136, R182 to R184: the operation over its region; `gb` is the first physical element of the share. -/
def State.runGln (s : State) (p : At) (x : GlnFields) : State :=
  let gb := 4096 * s.rf (R.FLD_GLQ_BASE p.c p.f)
  let base := s.seedBase p.f p.c
  let tgt := fun (rc : Nat × Nat) => gb + x.gaddr + rc.1 * x.pitch + rc.2
  match x.gop with
  | 0 => x.cells.foldl (fun s rc => s.gleanSet p.f p.n (tgt rc) (0, 0)) s
  | 1 => x.cells.foldl (fun s rc =>
      let v := s.seedVec p.f p.n (base + 32 * (x.saddr + rc.1 * x.sstride)) (x.sfmt == 0) rc.2
      s.gleanSet p.f p.n (tgt rc) (gleanAcc (s.gleanGet p.f p.n (tgt rc)) v)) s
  | 2 => x.cells.foldl (fun s rc =>
      let src := s.gleanGet p.f p.n (gb + x.gsrc + rc.1 * x.pitch + rc.2)
      s.gleanSet p.f p.n (tgt rc) (gleanAdd (s.gleanGet p.f p.n (tgt rc)) src)) s
  | _ =>
    let counts := s.glnCounts p x
    let s := (s.glnOuts p x).foldl (fun s (rc, o) =>
      s.seedWrite p.f p.n (base + 32 * (x.saddr + rc.1 * x.sstride) + x.bytes * rc.2) (leBytes x.bytes o.1)) s
    let s := if x.clear then x.cells.foldl (fun s rc => s.gleanSet p.f p.n (tgt rc) (0, 0)) s else s
    (s.addTotals p.c counts).addGradNf p.c counts

/-- R115: the footprint of a GLN. -/
def State.glnFp (s : State) (p : At) (x : GlnFields) : Footprint :=
  { seed := spansAt (s.seedBase p.f p.c) x.spans, glean := spansAt (4096 * s.rf (R.FLD_GLQ_BASE p.c p.f)) x.gleans }

/-- R113: why a GLN is not ready. -/
def State.glnWait (s : State) (p : At) (w : InstrWord) : Option WaitKind := s.waitFor p (s.glnFp p (glnFields w)) none

/-- The issue of one GLN (R135, R136). -/
def issueGln (i : StreamId) (w : InstrWord) (s : State) : State :=
  let p := atOf i
  let x := glnFields w
  let empty := x.rows == 0 || x.cols == 0
  let fp := s.glnFp p x
  issue s p w (s.glnWait p w) 0 (glnCause s p w x) fun s =>
    if empty then s
    else
      let counts := s.glnCounts p x
      let s := s.runGln p x
      let fs := s.fur p.f p.n
      s.setFur p.f p.n { fs with glns := fs.glns ++ [{ owner := s.ownerAt p, unit := 8, fp := fp, counts := counts }] }

/-- R54, R114, R136: the oldest operation of the gleaning unit retires and reports its counters; with none nothing changes (log
6). -/
def execGlnRetire (f : Fin 4) (n : Fin 26) (s : State) : Out :=
  let fs := s.fur f n
  .next (s.setFur f n
    { fs with
      glns := fs.glns.drop 1
      vopDone := match fs.glns with
        | o :: _ => sput fs.vopDone 8 (o.owner, o.counts)
        | [] => fs.vopDone })

end Sys2Proof.Machine
end

