-- ==== Sys2Proof/Machine/QueueOps.lean ====
section
/-! DEFINITION. Finishing a queue's commands (R359, R363, R437). -/

namespace Sys2Proof.Machine

/-! ### Status codes (R367) -/

def okStatus : Nat := 0
def stStatus : Nat := 1
def invalid : Nat := 2
def fencedStatus : Nat := 3
def abortedStatus : Nat := 4
def admitDeferred : Nat := 5
def outOfPlots : Nat := 6
def authStatus : Nat := 7
def uncorrected : Nat := 8
def timeoutStatus : Nat := 9
def refusedStatus : Nat := 10

def State.queue (s : State) (q : Nat) : QueueSt := sgetD s.queues q {}
def State.setQueue (s : State) (q : Nat) (x : QueueSt) : State := { s with queues := sputD s.queues q x {} }
/-- R357: a queue that is enabled or disabled holds no command; its `QM_STAT.REFUSED` (R372) stays. -/
def State.emptyQueue (s : State) (q : Nat) : State := s.setQueue q { refused := (s.queue q).refused }

/-- R353: a queue's function, context and class. -/
def State.qFunc (s : State) (q : Nat) : Nat := s.rf (R.QM_QBINDV_FUNC q)
def State.qCtx (s : State) (q : Nat) : Nat := s.rf (R.QM_QBINDV_CTX q)
def State.qClass (s : State) (q : Nat) : Nat := s.rf (R.QM_QBINDV_CLASS q)

/-! ### Positions and states of queues (R355, R373) -/

def qDisabled : Nat := 0
def qActive : Nat := 1
def qError : Nat := 2
def qFenced : Nat := 3

/-- R373: `QM_QSTAT.STATE`. -/
def State.qState (s : State) (q : Nat) : Nat := s.rf (R.QM_QSTAT_STATE q)
def State.qDb (s : State) (q : Nat) : Nat := s.rf (R.QM_QDB_COUNT q)
def State.qStart (s : State) (q : Nat) : Nat := s.rf (R.QM_QSTART_COUNT q)
def State.qDone (s : State) (q : Nat) : Nat := s.rf (R.QM_QDONE_COUNT q)
def State.qLog (s : State) (q : Nat) : Nat := s.rf (R.QM_QCFG_LOGSZ q)

/-- The queues that are not disabled, in ascending number: a queue leaves DISABLED only by a write of its registers. -/
def State.liveQueues (s : State) : List Nat :=
  s.regs.filterMap fun e =>
    let q := (e.1 - 0x5000000) / 0x1000
    if 0x5000000 ≤ e.1 ∧ e.1 < 0x7000000 ∧ e.1 % 0x1000 = 0x114 ∧ s.qState q ≠ qDisabled then some q else none

/-- R353: the live queues of a context. -/
def State.ctxQueues (s : State) (c : Nat) : List Nat := s.liveQueues.filter fun q => s.qCtx q == c

/-! ### Commands that have started -/

/-- The command of a queue at a sequence number. -/
def State.cmd? (s : State) (q seq : Nat) : Option QCmd := (s.queue q).cmds.find? fun c => c.seq == seq

/-- A command of a queue replaced. -/
def State.setCmd (s : State) (q : Nat) (x : QCmd) : State :=
  let y := s.queue q
  s.setQueue q { y with cmds := y.cmds.map fun c => if c.seq == x.seq then x else c }

/-- R359, R295: a started command reaches its final status; an unbound one's completion is ready, a bound one's waits for
its step, which a status other than OK blocks. A command that has finished keeps its status. -/
def State.finishCmd (s : State) (q seq status detail : Nat) : State :=
  match s.cmd? q seq with
  | none => s
  | some c =>
    if c.fin.isSome then s
    else
      let s := s.setCmd q { c with fin := some (status, detail), ready := c.step.isNone }
      if c.step.isSome ∧ status ≠ okStatus then s.blockCause (s.qCtx q) 3 else s

/-- The launch belongs to the command. -/
def Launch.ofCmd (l : Launch) (q seq : Nat) : Bool := l.queue == q && l.seq == seq

/-- R363: no launch of the command remains, in any stream or sequencer. -/
def State.launchesDone (s : State) (q seq : Nat) : Bool :=
  !(s.streams.any fun e => e.2.launches.any (·.ofCmd q seq) || e.2.cur.any (·.ofCmd q seq)) &&
    !(s.seqRuns.any fun r => r.queue == q && r.seq == seq)

/-- R363: a launch has ended; the command finishes with the last one, with STATE if one of them was refused (R144). -/
def State.launchEnded (s : State) (q seq : Nat) : State :=
  if s.launchesDone q seq then
    let bad := (s.cmd? q seq).any fun c => c.bad != 0
    s.finishCmd q seq (if bad then stStatus else okStatus) (if bad then s.cstate (s.qCtx q) else 0)
  else s

end Sys2Proof.Machine
end

