-- ==== Sys2Proof/Machine/StepOps.lean ====
section
/-! DEFINITION. What follows from every stream having executed STEP: the run-watch report (R209 to R213) and the END of
mirrors (R280). -/

namespace Sys2Proof.Machine

/-- The streams of a context, by the keys of the table. -/
def State.streamsOf (s : State) (c : Nat) : List At :=
  (s.streams.map fun e => (⟨e.1 / 192 / 26, e.1 / 192 % 26, e.1 / 3 % 64, e.1 % 3⟩ : At)).filter (·.c == c)

/-- R295(1): every stream that received a launch in the step has executed STEP, and at least one has. -/
def State.allStepped (s : State) (c : Nat) : Bool :=
  let l := (s.streamsOf c).filter fun p => (s.st p).gotLaunch
  !l.isEmpty && l.all fun p => (s.st p).stepped

/-- R144: the context's streams in the order in which losses and sums are added: field, logical furrow, F, B, U. -/
def State.sumOrder (s : State) (c : Nat) : List At :=
  (List.range 4).flatMap fun f =>
    if !s.inMask c f then []
    else (List.range 24).flatMap fun l =>
      match s.physical f l with
      | none => []
      | some n => [⟨f, n, c, 0⟩, ⟨f, n, c, 1⟩, ⟨f, n, c, 2⟩]

/-- A sequential binary32 sum; +0 of none. -/
def seqSum : List Word32 → Word32
  | [] => 0
  | x :: t => t.foldl fadd x

/-- R209: the step's loss. -/
def State.stepLoss (s : State) (c : Nat) : Option Word32 :=
  let l := (s.sumOrder c).filterMap fun p => (s.st p).loss
  if l.isEmpty then none else some (seqSum l)

/-- R210: the gradient sum of squares. -/
def State.stepSumsq (s : State) (c : Nat) : Word32 := ((s.sumOrder c).map fun p => (s.st p).qsum).foldl fadd 0

/-- R212: the spike threshold, when the test is made. -/
def State.spikeThresh (s : State) (c : Nat) (loss : Option Word32) : Option Word32 :=
  let l := (s.ctx c).latch
  let n := s.rf (R.CTX_RW_COUNT_N c)
  match loss with
  | none => none
  | some x =>
    if l.rwK ≠ 0 ∧ n ≥ 2 ∧ n ≥ l.rwWarmup ∧ (num32 x).isFinite then
      let k := (round32 false (.fin false l.rwK (-2))).v
      some (ffma k (fsqrt (s.reg (A.CTX_RW_VAR c))) (s.reg (A.CTX_RW_MEAN c)))
    else none

/-- R213: the report ring, 0 where it is not wholly in the partition. -/
def State.rwRing (s : State) (c : Nat) : Nat :=
  let a := s.rf64 (R.CTX_RW_RING_LO_ADDR c) (R.CTX_RW_RING_HI_ADDR c)
  if s.inPartition c a 4096 then a else 0

/-- R213: the address of the report of the current step, 0 where there is no ring. -/
def State.reportAt (s : State) (c : Nat) : Nat :=
  if s.rwRing c = 0 then 0 else s.rwRing c + 64 * (s.stepOf c % 64)

/-- R212, R213: the run-watch report; the ring's entry is not written where the window rules (R287) or a fence (R436) refuse it. -/
def State.runWatch (s : State) (c : Nat) : State :=
  let x := s.ctx c
  let loss := s.stepLoss c
  let th := s.spikeThresh c loss
  let spike := match loss, th with
    | some v, some t => (num32 t).lt (num32 v)
    | _, _ => false
  let nfLoss := loss.any fun v => !(num32 v).isFinite
  let nfGrad := x.gradNf ≥ 1
  let nf := nfLoss || nfGrad
  let b := fun (v : Bool) => if v then 1 else 0
  let step := s.stepOf c
  let s := s.setReg (A.CTX_RW_STEP c) (BitVec.ofNat 32 step)
  let s := (((((s.wf (R.CTX_RW_FLAGS_SPIKE c) (b spike)).wf (R.CTX_RW_FLAGS_NONFINITE c) (b nf)).wf
    (R.CTX_RW_FLAGS_NF_LOSS c) (b nfLoss)).wf (R.CTX_RW_FLAGS_NF_GRAD c) (b nfGrad)).wf
    (R.CTX_RW_FLAGS_LOSS_VALID c) (b loss.isSome)).wf (R.CTX_RW_FLAGS_VALID c) 1
  let s := s.setReg (A.CTX_RW_LOSS c) (loss.getD 0)
  let s := s.setReg (A.CTX_RW_SUMSQ c) (s.stepSumsq c)
  let s := (((s.wf (R.CTX_RW_NAN_COUNT c) x.totals.nan).wf (R.CTX_RW_INF_COUNT c) x.totals.inf).wf
    (R.CTX_RW_SAT_COUNT c) x.totals.sat).wf (R.CTX_RW_FLUSH_COUNT c) x.totals.flush
  let s := (s.wf (R.CTX_RW_GRADNF_COUNT c) x.gradNf).setReg (A.CTX_RW_THRESH c) (th.getD 0)
  let s := s.setCtx c { s.ctx c with reported := true }
  let at_ := s.reportAt c
  let rec_ := ((List.range 10).flatMap fun i => leBytes 4 (s.reg (A.CTX_RW_STEP c + 4 * i)).toNat) ++
    leBytes 4 (s.rf (R.CTX_RW_COUNT_N c)) ++ leBytes 1 x.lossPosts ++ List.replicate 19 0
  let s := if at_ = 0 || !s.hbmWriteOk c at_ 64 || s.rangeFenced at_ 64 then s else s.hbmWrite (.cmd c (s.client c)) at_ rec_
  if spike || nf then s.ctxEvent c 1 else s

/-- R154, R158, R213: the report, once made, is not made again; one whose ring entry takes no request waits. -/
def State.reportDue (s : State) (c : Nat) : State :=
  if (s.ctx c).reported || (s.reportAt c != 0 && s.hbmWaits (s.reportAt c) 64) then s else s.runWatch c

/-- Work of a context: launches, transfers, collective operations; of those no step is bound to where `unbound`. -/
def State.ctxWork (s : State) (c : Nat) (unbound : Bool) : Bool :=
  (s.streamsOf c).any (fun p => (s.st p).cur.isSome || !(s.st p).launches.isEmpty) ||
    s.seqRuns.any (fun r => r.ctx == c) ||
    s.dma.any (fun e => (e.2.waiting ++ e.2.handoff ++ e.2.active.map Prod.snd).any fun x => x.owner.ctx == c) ||
    s.engines.any (fun e => e.2.ops.any (fun o => o.ctx == c && !o.done && (unbound || o.bound)) ||
      e.2.waiting.any fun w => w.ctx == c && (unbound || w.bound))

/-- Work of the context's step that could still write (R280, R295(2)). -/
def State.stepWork (s : State) (c : Nat) : Bool := s.ctxWork c false

/-- R295(2): a started command of the step that is not finished. -/
def State.cmdsOpen (s : State) (c : Nat) : Bool :=
  s.queues.any fun e => e.2.cmds.any fun x => s.qCtx e.1 == c && x.step.isSome && x.fin.isNone

/-- R289: 4 KiB units of a region's fallow window not covered. -/
def State.bare (s : State) (r : Region) : Nat :=
  ((List.range r.len).filter fun i => (sget? s.coverage (r.field * 2 ^ 27 + r.copy1 + i)).isNone).length

/-- R289: 4 KiB units of the own regions of a context not covered. -/
def State.uncovered (s : State) (c : Nat) : Nat :=
  (s.regions.map fun e => if e.2.valid && !e.2.mirrorRole && e.2.ctx == c then s.bare e.2 else 0).foldl (· + ·) 0

/-- R280: END for each mirrored region once every stream has executed STEP and no write of the step is to come: no work is in
progress, and the region is covered, which BAR2 writes may still have to do (R295; DEDUCED, log 79). `queued` says that a
command of the step may still wait in a queue. -/
def State.mirrorEnds (s : State) (c : Nat) (queued : Bool) : State :=
  if s.stepWork c || s.cmdsOpen c || queued then s
  else s.regions.foldl (fun s e =>
    let r := s.region e.1
    if r.valid && !r.mirrorRole && r.mirrored && r.ctx == c && !r.sentEnd && s.stepCurrent c && s.bare r == 0 then
      (s.setRegion e.1 { r with sentEnd := true, endCount := r.sentData % 2 ^ 24 }).sendPkt r.field (s.mirrorPkt r 2 0 r.sentData [])
    else s) s

/-- A bound command of the step may lie unstarted in a queue of the context: some command does, and no STEP_READY has found
otherwise. -/
def State.queuesPending (s : State) (c : Nat) : Bool :=
  !(s.ctx c).settled && (s.ctxQueues c).any fun q => s.qStart q != s.qDb q

/-- R213, R280: what becomes due once every stream of the step has executed STEP. -/
def State.stepProgress (s : State) (c : Nat) : State :=
  if !s.allStepped c || !s.stepCurrent c then s
  else
    let s := s.reportDue c
    s.mirrorEnds c (s.queuesPending c)

end Sys2Proof.Machine
end

