-- ==== Sys2Proof/Machine/Sync.lean ====
section
/-! DEFINITION. Semaphores, barriers, checks, DMA, STEP and END (R118 to R123, R137, R138, R142 to R144, R171, R172, R194). -/

namespace Sys2Proof.Machine

/-! ### Semaphores (R118 to R121) -/

/-- R121: a completion signal adds 1 to a semaphore. -/
def State.signal (s : State) (f c : Nat) (sem : Option Nat) : State :=
  match sem with
  | some n => s.setSem f c n (satAdd32 (s.sem f c n) 1)
  | none => s

/-- R113, R120: why a SEMW is not ready. -/
def State.semwWait (s : State) (p : At) (w : InstrWord) : Option WaitKind :=
  if s.sem p.f p.c (fld w 8 8) < fld w 32 32 then some .semaphore else none

/-- R120: SEMW. -/
def issueSemw (i : StreamId) (w : InstrWord) (s : State) : State :=
  let p := atOf i
  let n := fld w 8 8
  let cause := lowest [(fld w 17 15 != 0 || fld w 64 64 != 0, 2), (s.afterStep p, 9)]
  issue s p w (s.semwWait p w) n cause fun s =>
    if fld w 16 1 = 1 then s.setSem p.f p.c n (s.sem p.f p.c n - fld w 32 32) else s

/-- R113, R119: why a SEMS is not ready. `WAIT` shows 4 (log 97). -/
def State.semsWait (s : State) (p : At) : Option WaitKind := if s.allRetired p then none else some .interlock

/-- R119: SEMS. -/
def issueSems (i : StreamId) (w : InstrWord) (s : State) : State :=
  let p := atOf i
  let n := fld w 8 8
  let cause := lowest [(fld w 16 16 != 0 || fld w 64 64 != 0, 2), (s.afterStep p, 9)]
  issue s p w (s.semsWait p) 0 cause fun s => s.setSem p.f p.c n (satAdd32 (s.sem p.f p.c n) (fld w 32 32))

/-! ### Barriers (R122, R123) -/

/-- The key of barrier `id` of a scope, for the stream at `p` (R122). -/
def barKey (p : At) (scope id : Nat) : Nat :=
  match scope with
  | 0 => (furKey p.f p.n * 64 + p.c) * 16 + id
  | 1 => 2 ^ 20 + (p.f * 64 + p.c) * 16 + id
  | _ => 2 ^ 21 + p.c * 16 + id

/-- R122: the barrier releases: it returns to zero arrivals and every stream that arrived passes it. The BAR counts in
`FUR_ISSUED` now and not at its arrival (the model's choice, log 70). -/
def State.releaseBarrier (s : State) (c key : Nat) : State :=
  let ps := (s.streamsOf c).filter fun q => (s.st q).arrived == some key
  ps.foldl State.advance { s with barriers := sdel s.barriers key }

/-- R122: one arrival; the last one releases the barrier. -/
def State.arrive (s : State) (p : At) (key count : Nat) : State :=
  let a := ((sget? s.barriers key).map Barrier.arrivals).getD 0 + 1
  let s := s.setSt p { s.st p with arrived := some key, state := .waiting, wait := .barrier }
  if a ≥ count then s.releaseBarrier p.c key else { s with barriers := sput s.barriers key ⟨count, a⟩ }

/-- R122, R123: BAR. The arrival happens once; the head stays until the barrier releases. `WAIT` shows 4 before the arrival
(log 97). -/
def issueBar (i : StreamId) (w : InstrWord) (s : State) : State :=
  let p := atOf i
  let scope := fld w 8 2; let count := fld w 16 12
  let key := barKey p scope (fld w 10 4)
  let st := s.st p
  let ready := s.allRetired p && (fld w 14 1 == 0 || s.outstanding p == 0)
  let cause := lowest [(fld w 15 1 != 0 || fld w 28 100 != 0, 2), (scope == 3, 3), (count == 0, 4),
    ((sget? s.barriers key).any fun b => b.count != count, 8), (st.stepped, 9)]
  if st.cur.isNone || st.state == .halted || s.streamHeld p.f p.n p.c p.k || s.issueHeld p.f p.n || st.arrived.isSome then s
  else match st.buf with
    | [] => s.waitStream p .fetch 0
    | h :: _ =>
      if h ≠ some w then s
      else if !ready then s.waitStream p .interlock 0
      else match cause with
        | some c => s.haltStream p c 0x48
        | none => s.arrive p key count

/-! ### CHK (R79, R143) -/

/-- R143, R145: why a CHK is illegal. -/
def chkCause (s : State) (p : At) (w : InstrWord) (sl : Slot) : Option Nat :=
  let read := fld w 8 2 == 1
  lowest [
    (fld w 23 1 != 0 || fld w 74 54 != 0, 2),
    (!read && (fld w 16 5 ≥ sl.m || (!sl.thin && fld w 21 2 != 0)), 4),
    (fld w 10 6 ≥ s.rf (R.FLD_ACQ_COUNT p.c p.f) || (read && 32 * fld w 56 18 + 32 > s.seedQuota p.f p.c), 7),
    (s.afterStep p, 9)]

/-- R143: a pending force on a slot's C. -/
def State.addForce (s : State) (p : At) (phys row g : Nat) (v : Word32) : State :=
  let fs := s.fur p.f p.n
  let sl := fs.slot phys
  s.setFur p.f p.n (fs.setSlot phys { sl with forces := sl.forces ++ [(row, g, v)] })

/-- R115: the footprint of a CHK. -/
def State.chkFp (s : State) (p : At) (w : InstrWord) : Footprint :=
  { seed := spansAt (s.seedBase p.f p.c) (if fld w 8 2 == 1 then wr (32 * fld w 56 18) 32 else [])
    slots := [s.rf (R.FLD_ACQ_BASE p.c p.f) + fld w 10 6] }

/-- R113: why a CHK is not ready. -/
def State.chkWait (s : State) (p : At) (w : InstrWord) : Option WaitKind := s.waitFor p (s.chkFp p w) none

/-- The issue of one CHK; a pending `undrained` slot reads masks of 0 (R143). -/
def issueChk (i : StreamId) (w : InstrWord) (s : State) : State :=
  let p := atOf i
  let phys := s.rf (R.FLD_ACQ_BASE p.c p.f) + fld w 10 6
  let sl := (s.fur p.f p.n).slot phys
  let base := s.seedBase p.f p.c
  let read := fld w 8 2 == 1
  issue s p w (s.chkWait p w) 0 (chkCause s p w sl) fun s =>
    if read then
      s.seedWrite p.f p.n (base + 32 * fld w 56 18)
        (leBytes 4 sl.failMask ++ leBytes 4 sl.skipMask ++ leBytes 4 sl.drainStep ++ List.replicate 20 0)
    else s.addForce p phys (fld w 16 5) (fld w 21 2) (BitVec.ofNat 32 (fld w 24 32))

/-! ### DMA (R116, R121, R137, R138, R171, R172, R194) -/

/-- R137: the fields of a DMA word. -/
structure DmaFields where
  dir : Nat
  base : Nat
  signal : Bool
  saddr : Nat
  sstride : Nat
  offset : Nat
  mstride : Nat
  rows : Nat
  rlen : Nat
  sem : Nat

/-- R137. -/
def dmaFields (w : InstrWord) : DmaFields :=
  { dir := fld w 8 3, base := fld w 11 3, signal := fld w 14 1 == 1, saddr := fld w 16 18, sstride := fld w 34 16,
    offset := fld w 50 32, mstride := fld w 82 16, rows := fld w 98 10, rlen := fld w 108 12, sem := fld w 120 8 }

/-- R137: the transfer moves nothing. -/
def DmaFields.noOp (x : DmaFields) : Bool := x.rows == 0 || x.rlen == 0
/-- The transfer is between the seedbed and HBM. -/
def DmaFields.toHbm (x : DmaFields) : Bool := x.dir ≤ 1
/-- R138: the first byte of the memory side: a device address, or a byte of the sheaf share. -/
def DmaFields.memAt (x : DmaFields) (st : StreamSt) : Nat :=
  (if x.toHbm then 1024 * st.base.getD x.base 0 else 0) + 32 * x.offset
/-- The rows: seedbed byte within the quota, and memory byte. -/
def DmaFields.rowList (x : DmaFields) (st : StreamSt) : List (Nat × Nat) :=
  if x.noOp then [] else
    (List.range x.rows).map fun r => (32 * (x.saddr + r * x.sstride), x.memAt st + 32 * r * x.mstride)
/-- R116: the seedbed range, from the first byte to the last byte of the last row. -/
def DmaFields.span (x : DmaFields) : List Rng :=
  if x.noOp then []
  else [⟨32 * x.saddr, 32 * ((x.rows - 1) * x.sstride + x.rlen), x.dir == 0 || x.dir == 2⟩]

/-- R138, R145: why a DMA is illegal. -/
def dmaCause (s : State) (p : At) (w : InstrWord) (x : DmaFields) : Option Nat :=
  let rows := x.rowList (s.st p)
  let len := 32 * x.rlen
  let outside := rows.any fun (_, m) =>
    if x.toHbm then !s.inPartition p.c m len || (x.dir == 1 && !s.hbmWriteOk p.c m len)
    else m + len > s.sheafShare p.f p.c
  lowest [
    (fld w 15 1 != 0 || (x.dir == 2 || x.dir == 3) && x.base != 0, 2),
    (x.dir ≥ 4, 3),
    (!spansFit x.span (s.seedQuota p.f p.c) || outside, 7),
    (s.afterStep p, 9)]

/-- R171: transfers of engine `e` in progress. -/
def DmaSt.load (d : DmaSt) (e : Nat) : Nat := (d.active.filter fun x => x.1 == e).length

/-- The lowest engine with room, not fenced (log 7). -/
def DmaSt.freeEngine (d : DmaSt) (fenced : Nat → Bool) : Option Nat :=
  (List.range 8).find? fun e => d.load e < 16 && !fenced e

/-- R171: the hand-off queue feeds engines that have room, oldest transfer first; `fuel` bounds the moves. -/
def DmaSt.feed (fenced : Nat → Bool) : Nat → DmaSt → DmaSt
  | 0, d => d
  | n + 1, d =>
    match d.handoff, d.freeEngine fenced with
    | x :: t, some e => DmaSt.feed fenced n { d with handoff := t, active := d.active ++ [(e, x)] }
    | _, _ => d

/-- The engines of field `f` take what they can. -/
def State.feedDma (s : State) (f : Nat) : State :=
  s.setDma f ((s.dmaOf f).feed (fun e => s.engineFenced f e) 128)

/-- R171, R172: a transfer goes to the hand-off queue, or waits while the queue is full. -/
def State.handOff (s : State) (f : Nat) (x : Xfer) : State :=
  let d := s.dmaOf f
  if d.handoff.length < 1024 then (s.setDma f { d with handoff := d.handoff ++ [x] }).feedDma f
  else s.setDma f { d with waiting := d.waiting ++ [x] }

/-- R115: the footprint of a DMA. -/
def State.dmaFp (s : State) (p : At) (x : DmaFields) : Footprint := { seed := spansAt (s.seedBase p.f p.c) x.span }

/-- R113: why a DMA is not ready. -/
def State.dmaWait (s : State) (p : At) (w : InstrWord) : Option WaitKind :=
  s.waitFor p (s.dmaFp p (dmaFields w)) (if s.outstanding p ≥ 8 then some .xferLimit else none)

/-- R137, R138: DMA. A transfer of no bytes only signals. -/
def issueDma (i : StreamId) (w : InstrWord) (s : State) : State :=
  let p := atOf i
  let x := dmaFields w
  let base := s.seedBase p.f p.c
  let sig := if x.signal then some x.sem else none
  let sb := s.sheafBase p.f p.c
  let xf : Xfer :=
    { field := p.f, furrow := p.n, owner := s.ownerAt p, dir := x.dir,
      rows := (x.rowList (s.st p)).map fun (a, m) => (base + a, if x.toHbm then m else sb + m),
      rlen := 32 * x.rlen, signal := sig, fp := (s.dmaFp p x).seed, pc := (s.st p).pc }
  issue s p w (s.dmaWait p w) 0 (dmaCause s p w x) fun s =>
    if x.noOp then s.signal p.f p.c sig else s.handOff p.f xf

/-- R172: the field's hand-off queue has room and accepts the oldest waiting DMA, which then retires; with no room or none
waiting nothing changes (log 6). -/
def execDmaHandoffAccept (f : Fin 4) (s : State) : Out :=
  let d := s.dmaOf f
  match d.waiting with
  | x :: t =>
    if d.handoff.length < 1024 && !s.fieldOff f then
      .next ((s.setDma f { d with waiting := t, handoff := d.handoff ++ [x] }).feedDma f)
    else .next s
  | [] => .next s

/-- R194: the sheaf gauge after a write of `len` bytes at byte `a` of the share. -/
def State.gaugeSheaf (s : State) (f c a len : Nat) : State :=
  if len = 0 then s else s.peak (R.FLD_GAUGE_SH_PEAK f c) ((a + len - 1) / 65536 + 1)

/-- R194: the activation gauge after a write of `len` bytes at device address `a`. -/
def State.gaugeAct (s : State) (f c a len : Nat) : State :=
  let (b, n) := (s.ctx c).latch.actwin.getD f (0, 0)
  let lo := f * 2 ^ 39 + b * 2 ^ 30
  let hi := lo + n * 2 ^ 30
  if len = 0 || a + len ≤ lo || hi ≤ a then s
  else s.peak (R.FLD_GAUGE_HB_PEAK f c) ((min (a + len) hi - 1 - lo) / 2 ^ 20 + 1)

/-- One row of a transfer moves. -/
def State.moveRow (s : State) (x : Xfer) (row : Nat × Nat) : State :=
  let (sa, ma) := row
  let o := x.owner
  let who := Consumer.stream x.field x.furrow o.ctx o.strm
  match x.dir with
  | 0 => let (bs, s) := s.hbmRead who ma x.rlen; s.seedWrite x.field x.furrow sa bs
  | 1 => (s.hbmWrite who ma (s.seedRead x.field x.furrow sa x.rlen)).gaugeAct (ma / 2 ^ 39) o.ctx ma x.rlen
  | 2 => s.seedWrite x.field x.furrow sa (s.sheafRead x.field ma x.rlen)
  | _ => (s.sheafWrite x.field ma (s.seedRead x.field x.furrow sa x.rlen)).gaugeSheaf x.field o.ctx
      (ma - s.sheafBase x.field o.ctx) x.rlen

/-- R169: uncorrectable words of the store that a transfer reads. -/
def State.sourceLost (s : State) (x : Xfer) (lost : List Nat) : State :=
  match x.dir with
  | 0 => s
  | 2 => s.sheafLost x.field x.owner.ctx (x.rows.map fun r => (r.2, x.rlen)) lost
  | _ => s.seedLost x.field x.furrow x.owner.ctx (x.rows.map fun r => (r.1, x.rlen)) lost

/-- R154, R158: a request of a transfer's rows to HBM waits. -/
def State.xferWaits (s : State) (x : Xfer) : Bool := x.dir ≤ 1 && x.rows.any fun r => s.hbmWaits r.2 x.rlen

/-- R121, R138: transfer `i` of field `f`'s engines completes: its rows move, its semaphore is signalled, the engine takes
the next; a transfer that meets another field that is fenced ends with TIMEOUT (R436); with no such transfer, or while its
requests wait, nothing changes (log 6). `lost` names the uncorrectable words of the store it reads (R169). -/
def execDmaTransferDone (f : Fin 4) (i : Nat) (lost : List Nat) (s : State) : Out :=
  let d := s.dmaOf f
  match d.active[i]? with
  | none => .next s
  | some (_, x) =>
    if s.fieldOff f || s.xferWaits x then .next s else
    let s := s.setDma f { d with active := d.active.eraseIdx i }
    if x.dir ≤ 1 ∧ x.rows.any (fun r => s.otherFenced f r.2 x.rlen) then .next ((s.feedDma f).stepProgress x.owner.ctx)
    else
      let s := x.rows.foldl (fun s r => s.moveRow x r) (s.sourceLost x lost)
      .next (((s.signal f x.owner.ctx x.signal).feedDma f).stepProgress x.owner.ctx)

/-! ### STEP and END (R144) -/

/-- R113, R144, R409: why a STEP is not ready. -/
def State.stepWait (s : State) (p : At) : Option WaitKind :=
  if s.allRetired p && s.outstanding p == 0 && !s.shadowed p then none else some .stepEnd

/-- R144: STEP. -/
def issueStep (i : StreamId) (w : InstrWord) (s : State) : State :=
  let p := atOf i
  let hasLoss := fld w 8 1 == 1
  let sa := fld w 16 18
  let base := s.seedBase p.f p.c
  let cause := lowest [
    (fld w 9 7 != 0 || fld w 34 94 != 0 || (!hasLoss && sa != 0), 2),
    (hasLoss && 32 * sa + 4 > s.seedQuota p.f p.c, 7), (s.afterStep p, 9)]
  issue s p w (s.stepWait p) 0 cause fun s =>
    let loss := if hasLoss then some (s.seedVec p.f p.n (base + 32 * sa) true 0) else none
    let s := s.setSt p { s.st p with stepped := true, loss := loss }
    let x := s.ctx p.c
    let s := if hasLoss then s.setCtx p.c { x with lossPosts := min (x.lossPosts + 1) 255 } else s
    s.stepProgress p.c

/-- R113, R144: why an END is not ready. -/
def State.endWait (s : State) (p : At) : Option WaitKind := if s.allRetired p then none else some .stepEnd

/-- R144: END. The stream is idle with no head instruction, and its pc stays behind the END (log 97). -/
def issueEnd (i : StreamId) (w : InstrWord) (s : State) : State :=
  let p := atOf i
  let cause := lowest [(fld w 8 120 != 0, 2)]
  issue s p w (s.endWait p) 0 cause fun s =>
    let st := s.st p
    let s := s.setSt p { st with cur := none, buf := [], state := .idle, wait := .none }
    match st.cur with
    | some l => s.launchEnded l.queue l.seq
    | none => s

end Sys2Proof.Machine
end

