-- ==== Sys2Proof/Machine/Tree.lean ====
section
/-! DEFINITION. The canonical tree of a reduction: shape, placement and chunks (R263 to R265), and the data forms of
collective chunks (R267, R269, R275). -/

namespace Sys2Proof.Machine

/-! ### Shape and placement (R263, R264) -/

/-- R263: the smallest power of two not below `c`. -/
def pow2ceil (c : Nat) : Nat := if c ≤ 1 then 1 else 2 ^ (bitLen (c - 1))

/-- A tree: contributions and members. -/
structure Tree where
  c : Nat
  p : Nat
  mem : List Member
deriving DecidableEq, Repr

/-- The tree of a member table. -/
def Tree.of (mem : List Member) : Tree :=
  let c := (mem.map (·.ccount)).foldl (· + ·) 0
  ⟨c, pow2ceil c, mem⟩

/-- R263: the contribution range of node `k`, from and to (not included). -/
def Tree.range (t : Tree) (k : Nat) : Nat × Nat :=
  let w := t.p / 2 ^ (bitLen k - 1)
  let lo := (k - 2 ^ (bitLen k - 1)) * w
  (lo, lo + w)

/-- The node has a contribution. -/
def Tree.present (t : Tree) (k : Nat) : Bool := (t.range k).1 < t.c

/-- R263: the node is computed: an inner node whose right child is present. -/
def Tree.computed (t : Tree) (k : Nat) : Bool := k < t.p && t.present (2 * k + 1)

/-- R264: contributions of member `m` in the range of node `k`. -/
def Tree.count (t : Tree) (k : Nat) (m : Member) : Nat :=
  let (lo, hi) := t.range k
  min hi (m.cfirst + m.ccount) - max lo m.cfirst

/-- R264: the loop over ancestors; `fuel` bounds the depth. -/
def placeLoop (t : Tree) (rot : Nat) : Nat → Nat → List (Nat × Member) → Nat
  | 0, _, cand => (cand.headD (0, ⟨0, 0, 0, 0, 0⟩)).1
  | fuel + 1, j, cand =>
    let best := cand.foldl (fun b e => max b (t.count j e.2)) 0
    let cand := cand.filter fun e => t.count j e.2 == best
    let nm := t.mem.length
    let key := fun (m : Nat) => (m + nm - rot % nm) % nm
    match cand with
    | [e] => e.1
    | _ =>
      if j = 1 then (cand.foldl (fun (b : Nat) e => if key e.1 > key b then e.1 else b) ((cand.headD (0, ⟨0, 0, 0, 0, 0⟩)).1))
      else placeLoop t rot fuel (j / 2) cand

/-- The holder of contribution `i`. -/
def Tree.holder (t : Tree) (i : Nat) : Nat :=
  (t.mem.findIdx? fun m => m.cfirst ≤ i && i < m.cfirst + m.ccount).getD 0

/-- R264: the place of node `k` for an owner and rotation; a passed-through node stands where its left child does. -/
def placeFuel (t : Tree) (owner rot : Nat) : Nat → Nat → Nat
  | 0, _ => owner
  | fuel + 1, k =>
    if k ≥ t.p then t.holder (k - t.p)
    else if !t.computed k then placeFuel t owner rot fuel (2 * k)
    else if k = 1 then owner
    else placeLoop t rot 18 k ((t.mem.zipIdx.map fun (m, i) => (i, m)).filter fun e => t.count k e.2 > 0)

/-- R264. -/
def Tree.place (t : Tree) (owner rot k : Nat) : Nat := placeFuel t owner rot 18 k

/-- The topmost node that has the value of node `k` passed through to it. -/
def topFuel (t : Tree) : Nat → Nat → Nat
  | 0, k => k
  | fuel + 1, k => if k ≤ 1 || t.computed (k / 2) then k else topFuel t fuel (k / 2)

/-- The node under which a value is sent and kept (log 13). -/
def Tree.top (t : Tree) (k : Nat) : Nat := topFuel t 18 k

/-- The node whose value a node stands for: itself, or the leaf or computed node that passes through to it. -/
def originFuel (t : Tree) : Nat → Nat → Nat
  | 0, k => k
  | fuel + 1, k => if k ≥ t.p || t.computed k then k else originFuel t fuel (2 * k)

/-- R263: what stands under node `k` is one contribution, not a computed node. -/
def Tree.isLeaf (t : Tree) (k : Nat) : Bool := originFuel t 18 k ≥ t.p

/-- The computed nodes, children before parents. -/
def Tree.inner (t : Tree) : List Nat := ((List.range t.p).reverse).filter fun k => k ≥ 1 && t.computed k

/-- R264, R267: owner and rotation of shard `i`. -/
def Desc.owner (d : Desc) (i : Nat) : Nat := if d.opc = 1 then d.root else i
def Desc.rot (d : Desc) (i : Nat) : Nat := if d.opc = 1 then 0 else i % max 1 d.nmem

/-- R268: computed nodes placed on member `m`, by shard and node, over all shards. -/
def Desc.placedNodes (d : Desc) (mem : List Member) (m : Nat) : List (Nat × Nat) :=
  let t := Tree.of mem
  (List.range d.shards).flatMap fun i =>
    (t.inner.filter fun k => t.place (d.owner i) (d.rot i) k == m).map fun k => (i, k)

/-- R268: their number. -/
def Desc.placedHere (d : Desc) (mem : List Member) (m : Nat) : Nat := (d.placedNodes mem m).length

/-! ### Chunks -/

/-- R265: elements of a chunk. -/
def chunkLen : Nat := 1024

/-- Elements of chunk `j` of `n` elements. -/
def chunkElems (n j : Nat) : Nat := min n ((j + 1) * chunkLen) - j * chunkLen

/-- Chunks of `n` elements. -/
def chunkCount (n : Nat) : Nat := ceilDiv n chunkLen

/-- The key of a node value: shard, node, chunk. -/
def valKey (i k j : Nat) : Nat := (i * 2 ^ 18 + k) * 2 ^ 40 + j

/-- Exact values of `n` elements from their bytes: elements, then scale bytes (R30, R275). -/
def chunkValues (f : Fmt) (n : Nat) (b : List Byte) : List Num :=
  let el := leNat (b.take (elemBytes f n))
  let sc := b.drop (elemBytes f n)
  (List.range n).map fun i =>
    let v := f.decode (bitsOf el (i * f.width) f.width)
    if f.isMx then match scaleExp (leAt sc (i / 32) 1) with
      | none => .nan
      | some e => v.scale e
    else v

/-- Bytes of a chunk of `n` elements in a format, without padding. -/
def chunkBytes (f : Fmt) (n : Nat) : Nat := elemBytes f n + (if f.isMx then ceilDiv n 32 else 0)

/-- R275: the payload, padded to whole slots. -/
def padSlots (b : List Byte) : List Byte := b ++ List.replicate ((16 - b.length % 16) % 16) 0

/-- R42 to R44, R267, R269: values converted to a format: element bytes, scale bytes, counts. -/
def convertChunk (f : Fmt) (a : Arith) (vs : List Num) : List Byte × List Byte × Counts :=
  if f.isMx then
    let bs := (chunks 32 (vs.length + 1) vs).map fun b =>
      (b.length, f.convertBlock a false (fun _ => .rne) (padTo 32 (.fin false 0 0) b))
    let cs := bs.flatMap fun (n, _, l) => l.take n
    (packCodes f.width (cs.map Prod.fst), bs.map fun (_, sc, _) => BitVec.ofNat 8 sc, countOutcomes (cs.map Prod.snd))
  else
    let cs := vs.map fun v => f.convert a false .rne 0 v
    (packCodes f.width (cs.map Prod.fst), [], countOutcomes (cs.map Prod.snd))

/-- R267, R269: a received or owned chunk as this member stores it: unchanged when the formats agree (a gather or SOW),
converted otherwise. -/
def storeForm (sf df : Fmt) (a : Arith) (copy : Bool) (n : Nat) (b : List Byte) : List Byte × List Byte × Counts :=
  if copy && sf == df then (b.take (elemBytes sf n), (b.drop (elemBytes sf n)).take (if sf.isMx then ceilDiv n 32 else 0), {})
  else convertChunk df a (chunkValues sf n b)

/-! ### Operations of an engine -/

/-- An operation of field `f`, by context and identifier. -/
def State.colOp? (s : State) (f c opid : Nat) : Option ColOp :=
  (s.eng f).ops.find? fun o => o.ctx == c && o.opid == opid

/-- An operation replaced. -/
def State.setOp (s : State) (o : ColOp) : State :=
  let e := s.eng o.field
  s.setEng o.field { e with ops := e.ops.map fun x => if x.ctx == o.ctx && x.opid == o.opid then o else x }

/-- The operation as it stands now. -/
def State.opNow (s : State) (o : ColOp) : ColOp := (s.colOp? o.field o.ctx o.opid).getD o

/-- R258: operations in progress. -/
def ColEng.busy (e : ColEng) : Nat := (e.ops.filter fun o => !o.done).length

/-- `COL_STAT.OPS` follows the engine. -/
def State.showOps (s : State) (f : Nat) : State := s.wf (R.COL_STAT_OPS f) (s.eng f).busy

/-- R281: a status to end with is noted; the first one stays. -/
def State.failOp (s : State) (o : ColOp) (st : Nat) : State :=
  let o := s.opNow o
  if o.status = 0 then s.setOp { o with status := st } else s

/-! ### Reading sources and writing destinations -/

/-- R164: who reads and writes on behalf of a user: the stream of a COL, or the engine. -/
def ColUser.who (f c : Nat) : ColUser → Consumer
  | .stream n k _ _ => .stream f n c k
  | _ => .engine c f

/-- R164: who the operation reads and writes for. -/
def ColOp.who (o : ColOp) : Consumer := ((o.users.head?).getD .prefetch).who o.field o.ctx

/-- Bytes of the operation's source space at byte `a` (R266): the seedbed of `SFUR`, which fails the operation with REFUSED
where it is vacant (R281), or HBM. A request to another field that is fenced fails it with TIMEOUT (R436). -/
def State.colRead (s : State) (o : ColOp) (d : Desc) (a n : Nat) : List Byte × Bool × State :=
  if d.sseed then
    match s.physical o.field d.sfur with
    | some fur => (s.seedRead o.field fur (s.seedBase o.field o.ctx + a) n, false, s)
    | none => (List.replicate n 0, false, s.failOp o 10)
  else if s.otherFenced o.field a n then (List.replicate n 0, false, s.failOp o timeoutStatus)
  else
    let bad := s.readBad a n
    let (b, s) := s.hbmRead o.who a n
    (b, bad, s)

/-- R270, R281: bytes written at byte `a` of the destination space; a vacant furrow fails the operation with REFUSED. -/
def State.colWrite (s : State) (o : ColOp) (d : Desc) (a : Nat) (b : List Byte) : State :=
  if d.dseed then
    ((List.range 24).filter fun l => d.dmask.testBit l).foldl (fun s l =>
      match s.physical o.field l with
      | some fur => s.seedWrite o.field fur (s.seedBase o.field o.ctx + a) b
      | none => s.failOp o 10) s
  else if s.otherFenced o.field a b.length then s.failOp o timeoutStatus
  else s.hbmWrite o.who a b

/-! ### Held chunks (R265, R268) -/

/-- R268: the byte of the scratch area where the chunk waits that node `k` of shard `i` holds of its first child: 4 KiB for each
computed node placed here and each chunk (log 76). -/
def ColOp.scratchAt (o : ColOp) (i k j : Nat) : Nat :=
  let d := Desc.parse o.bytes
  d.scratch + 4096 * ((d.placedNodes (o.tables.headD []) d.self).idxOf (i, k) * chunkCount (d.shardLen i) + j)

/-- R265: the chunk under a key of `vals` is held: its parent stands here and waits for the other child. -/
def ColOp.holds (o : ColOp) (key : Nat) : Bool :=
  let d := Desc.parse o.bytes
  let t := Tree.of (o.tables.headD [])
  let i := key / 2 ^ 58
  let k := key / 2 ^ 40 % 2 ^ 18
  k > 1 && t.place (d.owner i) (d.rot i) (k / 2) == d.self &&
    (sget? o.vals (valKey i (t.top (k / 2)) (key % 2 ^ 40))).isNone && (sget? o.spills key).isNone

/-- R268: the chunks in the staging store of field `f`'s engine. -/
def State.stagedChunks (s : State) (f : Nat) : Nat :=
  ((s.eng f).ops.map fun o => (o.vals.filter fun e => o.holds e.1).length).foldl (· + ·) 0

/-- R268: while the staging store, 8 MiB or 2,048 chunks, is over full, the chunk held under `key` goes to the scratch area. -/
def State.spill (s : State) (o : ColOp) (key : Nat) (v : List Word32) : State :=
  let o := s.opNow o
  let i := key / 2 ^ 58
  let k := key / 2 ^ 40 % 2 ^ 18
  let a := o.scratchAt i (k / 2) (key % 2 ^ 40)
  if !o.holds key || s.stagedChunks o.field ≤ 2048 then s
  else if s.otherFenced o.field a 4096 then s.failOp o timeoutStatus
  else (s.setOp { o with spills := sput o.spills key () }).hbmWrite o.who a (v.flatMap fun w => leBytes 4 w.toNat)

/-- R164, R268, R281: a held chunk as it is used, read back where it was spilled; an uncorrectable codeword fails the
operation. -/
def State.heldVal (s : State) (o : ColOp) (i k j : Nat) (v : List Word32) : List Word32 × State :=
  if (sget? o.spills (valKey i k j)).isNone then (v, s)
  else
    let a := o.scratchAt i (k / 2) j
    let bad := s.readBad a (4 * v.length)
    let (b, s) := s.hbmRead o.who a (4 * v.length)
    ((List.range v.length).map fun x => BitVec.ofNat 32 (leAt b (4 * x) 4), if bad then s.failOp o uncorrected else s)

/-- R267, R269, R273: `n` elements from position `e` of the destination. -/
def State.storeAt (s : State) (o : ColOp) (d : Desc) (e : Nat) (x : List Byte × List Byte) : State :=
  let m := if d.dseed then 32 else 1
  let s := s.colWrite o d (m * d.dst + e * d.fmtD.width / 8) x.1
  if d.fmtD.isMx then s.colWrite o d (m * d.dstsc + e / 32) x.2 else s

end Sys2Proof.Machine
end

