-- ==== Sys2Proof/Machine/Collective.lean ====
section
/-! DEFINITION. Collective operations: acceptance and its checks, the canonical tree, gathers, sowing, ends and failures
(R258 to R273, R281), and the packets that feed them (R275 to R277). -/

namespace Sys2Proof.Machine

/-! ### Sending (R265, R269, R275) -/

/-- R275: one chunk to a member: packet type, kind, node, shard, element index, payload format and bytes. -/
def State.sendChunk (s : State) (o : ColOp) (ptype : Nat) (m : Member) (kind node shard e fmt : Nat) (b : List Byte)
    (trunc : Bool) : State :=
  let pl := padSlots b
  let run := (s.ctx o.ctx).latch.runs.getD o.field 0
  s.sendPkt o.field
    { ptype := ptype, tc := if ptype = 2 then 1 else 0, vc := 0, dst := m.dev, src := 0, dctx := m.ctx,
      len := pl.length / 16, life := 0, opid := o.opid, step := o.step, addr := e, trunc := trunc, own := some o.ctx,
      aux := m.field + 4 * kind + 16 * fmt + 2 ^ 8 * node + 2 ^ 25 * shard + 2 ^ 40 * run, payload := pl }

/-- R269: the members a position forwards to: `F · q + 1` to `F · q + F` below `nm`. -/
def forwardTo (fan nm q : Nat) : List Nat := ((List.range fan).map fun i => fan * q + 1 + i).filter (· < nm)

/-- R269, R273: the members to which this one passes chunk data of shard or stripe `i`. -/
def Desc.targets (d : Desc) (o : ColOp) (i : Nat) : List Member :=
  if d.sows then
    let t := o.tables.getD i []
    let me := (o.tables.headD []).getD d.self ⟨0, 0, 0, 0, 0⟩
    let q := (t.findIdx? fun m => m.dev == me.dev && m.ctx == me.ctx && m.field == me.field).getD 0
    (forwardTo d.fanout t.length q).filterMap fun j => t[j]?
  else
    let t := o.tables.headD []
    let q := (d.self + t.length - i % max 1 t.length) % max 1 t.length
    (forwardTo (if d.opc = 6 then 1 else d.fanout) t.length q).filterMap fun j => t[(i + j) % max 1 t.length]?

/-- The first position in `DST` of shard `i`, for this operation (R267, R269). -/
def Desc.posOf (d : Desc) (i : Nat) : Nat := if d.opc = 3 ∨ d.gathers then i * d.shard else 0

/-- R269, R273: data of shard or stripe `i`, first element `e` in it, is stored here and passed on as it came. `fmt` is the
format it travels in. -/
def State.dataHere (s : State) (o : ColOp) (i e fmt n : Nat) (b : List Byte) : State :=
  let d := Desc.parse o.bytes
  let f := (Fmt.ofCode fmt).getD .fp32
  let df := if d.opc = 6 then f else d.fmtD
  let (el, sc, k) := storeForm f df (s.ctx o.ctx).latch.arith true n b
  let pos := d.posOf i + e
  let s := s.storeAt o d pos (el, sc)
  let o := s.opNow o
  let s := s.setOp { o with stored := sput o.stored (valKey i 0 (e / chunkLen)) (), counts := o.counts.add k }
  (d.targets o i).foldl (fun s m => s.sendChunk o (if d.sows then 3 else 2) m 2 0 i e fmt b false) s

/-! ### The tree at work (R263 to R268) -/

/-- R267: the owner has the root of chunk `j` of shard `i`: it converts and writes it, and for ALL_REDUCE distributes the
converted bytes. -/
def State.rootHere (s : State) (o : ColOp) (i j : Nat) (v : List Word32) : State :=
  let d := Desc.parse o.bytes
  let (el, sc, k) := convertChunk d.fmtD (s.ctx o.ctx).latch.arith (v.map num32)
  let o := s.opNow o
  let s := s.setOp { o with counts := o.counts.add k }
  if d.opc = 3 then s.dataHere o i (j * chunkLen) d.dfmt v.length (el ++ sc)
  else
    let s := s.storeAt o d (j * chunkLen) (el, sc)
    let o := s.opNow o
    s.setOp { o with stored := sput o.stored (valKey i 0 j) () }

/-- R265: a value of node `k` is present here: it goes on to its parent's place, or is kept for it; `kind` and `raw` are
what it travels as. -/
def State.valueHere (s : State) (o : ColOp) (i k j kind : Nat) (v : List Word32) (raw : List Byte) : State :=
  let d := Desc.parse o.bytes
  let t := Tree.of (o.tables.headD [])
  let k := t.top k
  let dest := if k = 1 then d.owner i else t.place (d.owner i) (d.rot i) (k / 2)
  let o := s.opNow o
  let s := s.setOp { o with vals := sput o.vals (valKey i k j) v }
  if dest ≠ d.self then
    let s := s.sendChunk o 2 ((o.tables.headD []).getD dest ⟨0, 0, 0, 0, 0⟩) kind k i (j * chunkLen)
      (if kind = 0 then d.sfmt else 1) raw false
    let o := s.opNow o
    s.setOp { o with sent := sput o.sent (valKey i k j) () }
  else if k = 1 then s.rootHere o i j v
  else s

/-- R263, R265: node `k` placed here is computed once both children are present. -/
def State.tryNode (s : State) (o : ColOp) (i j k : Nat) : State :=
  let d := Desc.parse o.bytes
  let t := Tree.of (o.tables.headD [])
  let o := s.opNow o
  if t.place (d.owner i) (d.rot i) k ≠ d.self || (sget? o.vals (valKey i (t.top k) j)).isSome then s
  else match sget? o.vals (valKey i (2 * k) j), sget? o.vals (valKey i (2 * k + 1) j) with
    | some a, some b =>
      let (a, s) := s.heldVal o i (2 * k) j a
      let (b, s) := s.heldVal o i (2 * k + 1) j b
      let v := (a.zip b).map fun (x, y) => fadd x y
      let s := s.bump64 (R.COL_ADDS_LO_COUNT o.field) (R.COL_ADDS_HI_COUNT o.field) v.length
      s.valueHere o i k j 1 v (v.flatMap fun w => leBytes 4 w.toNat)
    | _, _ => s

/-- R265, R268: everything chunk `j` of shard `i` now allows; what stays held of it may have to go to the scratch area. -/
def State.runChunk (s : State) (o : ColOp) (i j : Nat) : State :=
  let s := (Tree.of (o.tables.headD [])).inner.foldl (fun s k => s.tryNode o i j k) s
  let l := (s.opNow o).vals
  if ((s.eng o.field).ops.map fun x => x.vals.length).foldl (· + ·) 0 ≤ 2048 then s
  else (l.filter fun e => e.1 / 2 ^ 58 == i && e.1 % 2 ^ 40 == j).foldl (fun s e => s.spill o e.1 e.2) s

/-! ### Completion -/

/-- All this member owes to peers has been sent (R272). -/
def ColOp.owesNothing (o : ColOp) : Bool :=
  let d := Desc.parse o.bytes
  let t := Tree.of (o.tables.headD [])
  let has := fun i j => (sget? o.stored (valKey i 0 j)).isSome
  (List.range d.shards).all fun i =>
    let n := if d.sows then d.len else d.shardLen i
    (List.range (chunkCount n)).all fun j =>
      (!d.reduces || t.inner.all fun k =>
        t.place (d.owner i) (d.rot i) k != d.self || (sget? o.vals (valKey i (t.top k) j)).isSome) &&
      (d.opc == 1 || d.opc == 2 || (d.sows && j % max 1 d.shards != i) || (d.targets o i).isEmpty || has i j)

/-- The operation is complete here. -/
def ColOp.complete (o : ColOp) : Bool :=
  let d := Desc.parse o.bytes
  let has := fun i j => (sget? o.stored (valKey i 0 j)).isSome
  o.owesNothing && (List.range d.shards).all fun i =>
    let n := if d.sows then d.len else d.shardLen i
    (List.range (chunkCount n)).all fun j =>
      match d.opc with
      | 1 | 2 => d.owner i != d.self || has i j
      | 5 => j % max 1 d.shards != i || has i j
      | _ => has i j

/-! ### Ends (R262, R281) -/

def State.srv (s : State) (c : Nat) : ServSt := sgetD s.serv c {}
def State.setSrv (s : State) (c : Nat) (x : ServSt) : State := { s with serv := sputD s.serv c x {} }

/-- R335: the failed-layer map, and `SRV_SWAP.FAILED`. -/
def State.markLayer (s : State) (c layer : Nat) (bad : Bool) : State :=
  let x := s.srv c
  let f := if bad then sput x.failed layer () else sdel x.failed layer
  (s.setSrv c { x with failed := f }).wf (R.SRV_SWAP_FAILED c) f.length

/-- R335: SWAP_LAYER `seq` of queue `q` ends: its layer's bit is set or cleared. -/
def State.swapEnded (s : State) (c q seq st : Nat) : State :=
  let x := s.srv c
  match x.layers.find? fun l => l.1 == q && l.2.1 == seq with
  | none => s
  | some l =>
    (s.setSrv c { x with layers := x.layers.filter fun y => !(y.1 == q && y.2.1 == seq) }).markLayer c l.2.2 (st != okStatus)

/-- R262, R335: what one user of an ended operation receives. -/
def State.tellUser (s : State) (o : ColOp) (st : Nat) (fence : Bool) (u : ColUser) : State :=
  match u with
  | .stream _ _ sem _ => if fence then s else s.signal o.field o.ctx sem
  | .cmd q seq => s.finishCmd q seq st (if st = invalid then 0xFF else 0)
  | .swap q seq => (s.finishCmd q seq st (if st = invalid then 0xFF else 0)).swapEnded o.ctx q seq st
  | .prefetch => s

/-- R262, R287, R436: `STATUS` and the counters go into the descriptor; a write that the window rules or a fence of another
field refuse is not made. -/
def State.putStatus (s : State) (o : ColOp) (st : Nat) : State :=
  if !s.writeOk o.ctx (o.desc + 104) 20 o.bound false || s.otherFenced o.field (o.desc + 104) 20 then s
  else s.hbmWrite o.who (o.desc + 104)
    (leBytes 4 st ++ leBytes 4 o.counts.sat ++ leBytes 4 o.counts.flush ++ leBytes 4 o.counts.nan ++ leBytes 4 o.counts.inf)

/-- R262, R283, R295: a status other than OK is counted, recorded if it is the first, reported, and blocks the step that the
operation belongs to. -/
def State.noteFail (s : State) (o : ColOp) (st : Nat) : State :=
  if st = okStatus then s
  else
    let s := (s.bump (R.COL_OPFAIL_CNT_COUNT o.field) 1).raiseFor (Page.collengBase o.field) 1 (some o.ctx)
    let s := if o.bound then s.blockCause o.ctx 3 else s
    if s.flag (R.COL_OPFAIL_INFO_VALID o.field) then s
    else (((s.wf (R.COL_OPFAIL_INFO_STATUS o.field) st).wf (R.COL_OPFAIL_INFO_CTX o.field) o.ctx).wf
      (R.COL_OPFAIL_INFO_VALID o.field) 1).wf (R.COL_OPFAIL_OPID_OPID o.field) o.opid

/-- R54, R209, R262: an operation ends with a status; its counters join the totals of the step current then (log 94). A prefetch
that nobody has claimed is kept as done. -/
def State.endOp (s : State) (o : ColOp) (st : Nat) (fence : Bool) : State :=
  let o := s.opNow o
  let s := s.putStatus o st
  let s := if o.counts = {} then s else (s.addTotals o.ctx o.counts).reopenReport o.ctx
  let s := s.noteFail o st
  let e := s.eng o.field
  let unclaimed := o.users == [ColUser.prefetch] && !fence
  let e :=
    { e with
      closed := if e.closed.contains (o.ctx, o.opid) then e.closed else e.closed ++ [(o.ctx, o.opid)]
      ops :=
        if unclaimed then e.ops.map fun x =>
          if x.ctx == o.ctx && x.opid == o.opid then { o with status := st, done := true, vals := [], stored := [] } else x
        else e.ops.filter fun x => !(x.ctx == o.ctx && x.opid == o.opid) }
  let s := (s.setEng o.field e).showOps o.field
  (o.users.foldl (fun s u => s.tellUser o st fence u) s).stepProgress o.ctx

/-! ### Checks at acceptance (R260, R261, R268, R271) -/

/-- R261: the tables of a descriptor, as read for `who`. -/
def State.readTables (s : State) (who : Consumer) (d : Desc) : List (List Member) × State :=
  let (b, s) := s.hbmRead who d.grp d.tableBytes
  ((List.range (if d.sows then d.stripes else 1)).map fun t =>
    (List.range d.nmem).map fun i => Member.parse ((b.drop (8 * (t * d.nmem + i))).take 8), s)

/-- No entry appears twice. -/
def noRepeat : List (Nat × Nat) → Bool
  | [] => true
  | x :: t => !t.contains x && noRepeat t

/-- R261: a member table breaks its rules. -/
def State.badTable (s : State) (d : Desc) (t : List Member) : Bool :=
  !noRepeat (t.map fun m => (m.dev, m.ctx)) ||
    (if s.devId = noDevId then t.any fun m => m.dev != noDevId else t.any fun m => m.dev == noDevId) ||
    (d.reduces &&
      ((t.zipIdx.any fun (m, i) => m.cfirst != ((t.take i).map (·.ccount)).foldl (· + ·) 0) ||
        (let c := (t.map (·.ccount)).foldl (· + ·) 0; c == 0 || c > 65536)))

/-- R259: a reserved code or reserved bits. -/
def badDescBits (b : List Byte) (d : Desc) : Bool :=
  let aw := fun (seed : Bool) => if seed then 18 else 41
  d.opc == 0 || d.opc > 6 || leAt b 0 1 / 16 != 0 || leAt b 3 1 / 8 != 0 || leAt b 14 1 / 32 != 0 || !zeroAt b 15 1 ||
    leAt b 16 4 / 2 ^ 24 != 0 || !zeroAt b 20 4 || !zeroAt b 69 3 || !zeroAt b 92 4 || !zeroAt b 124 4 ||
    d.grp / 2 ^ 41 != 0 || (!d.shost && d.src / 2 ^ aw d.sseed != 0) || (!d.shost && d.srcsc / 2 ^ aw d.sseed != 0) ||
    d.dst / 2 ^ aw d.dseed != 0 || d.dstsc / 2 ^ aw d.dseed != 0 || d.scratch / 2 ^ 41 != 0 || d.next / 2 ^ 41 != 0

/-- R261: two entries name the same member; gathers and SOW ignore the contribution fields. -/
def Member.same (a b : Member) : Bool := a.dev == b.dev && a.ctx == b.ctx && a.field == b.field

/-- The member that a descriptor's `SELF` names. -/
def Desc.me (d : Desc) (ts : List (List Member)) : Member := (ts.headD []).getD d.self ⟨0, 0, 0, 0, 0⟩

/-- R260: a source, destination or scratch range that fails its checks; `bound` is false for a command of no step. -/
def State.badRanges (s : State) (c f : Nat) (d : Desc) (ts : List (List Member)) (bound : Bool) : Bool :=
  let fits := fun (a n : Nat) => a + n ≤ s.seedQuota f c
  let src := d.srcRanges (d.me ts) d.self
  let dst := d.dstRanges d.self
  (!d.shost && src.any fun (a, n) => if d.sseed then !fits a n else !s.inPartition c a n) ||
    (dst.any fun (a, n) => if d.dseed then !fits a n else !s.inPartition c a n || !s.writeOk c a n bound false) ||
    (d.reduces && (d.scratch % 4096 != 0 || !s.inPartition c d.scratch (4096 * d.scrsize) ||
      !s.writeOk c d.scratch (4096 * d.scrsize) bound false))

/-- R260, R268, R271: the operation is INVALID; a KV_ROTATE that converts is too (log 92). -/
def State.colInvalid (s : State) (c f : Nat) (b : List Byte) (d : Desc) (ts : List (List Member)) (bound : Bool) : Bool :=
  let l := (s.ctx c).latch
  let gfmt := fun x => x ≤ 3 || x == 6
  let mx := d.fmtS.isMx || d.fmtD.isMx
  let me := d.me ts
  badDescBits b d || d.nmem == 0 || d.nmem > 32768 || d.self ≥ d.nmem ||
    ((d.opc == 3 || d.gathers || d.sows) && (d.fanout == 0 || d.fanout > 8)) ||
    (if d.sows then d.stripes == 0 || d.stripes > 8 else d.stripes != 1) ||
    (d.opc == 1 && d.root ≥ d.nmem) ||
    (if d.reduces then d.sfmt > 1 || !gfmt d.dfmt else !gfmt d.sfmt || !gfmt d.dfmt) ||
    (!d.sows && d.opc != 1 && (d.shard == 0 || (mx && d.shard % 32 != 0) || ceilDiv d.len (max 1 d.shard) > d.nmem)) ||
    (d.reduces && d.cstride % 32 != 0) ||
    (d.shost && (d.sseed || !d.sows)) || ts.any (s.badTable d) ||
    (d.sows && (ts.any fun t => !(t.headD ⟨0, 0, 0, 0, 0⟩).same ((ts.headD []).headD ⟨0, 0, 0, 0, 0⟩)) ||
      d.sows && ts.any fun t => !(t.all fun m => ts.all fun u => u.any fun x => x.dev == m.dev && x.ctx == m.ctx)) ||
    !s.inPartition c d.grp d.tableBytes || me.dev != s.devId || me.ctx != c || me.field != f ||
    ((List.range 4).any fun g => ((s.eng g).ops.any fun o => o.ctx == c && o.opid == d.opid) ||
      (s.eng g).closed.contains (c, d.opid)) ||
    s.badRanges c f d ts bound ||
    (d.reduces && d.scrsize < d.placedHere (ts.headD []) d.self *
      chunkCount (if d.opc = 1 then d.len else d.shard)) ||
    (d.next != 0 && !(s.inPartition c d.next 128 && (let k := leAt (s.peekHbm d.next 1) 0 1 % 16; k == 4 || k == 5))) ||
    (d.opc == 6 && (!l.split || d.nmem != l.splitN + 1 || d.self != l.splitPos || d.dfmt != d.sfmt))

/-- R281: a furrow that the descriptor names is vacant. -/
def State.colRefused (s : State) (f : Nat) (d : Desc) : Bool :=
  (d.sseed && (s.physical f d.sfur).isNone) ||
    (d.dseed && (List.range 24).any fun l => d.dmask.testBit l && (s.physical f l).isNone)

/-! ### Starting (R265, R266, R269, R273) -/

/-- R266: this member's contributions enter their trees. -/
def State.startReduce (s : State) (o : ColOp) : State :=
  let d := Desc.parse o.bytes
  let me := d.me o.tables
  let t := Tree.of (o.tables.headD [])
  let base := if d.sseed then 32 * d.src else d.src
  (List.range d.shards).foldl (fun s i =>
    (List.range (chunkCount (d.shardLen i))).foldl (fun s j =>
      let n := chunkElems (d.shardLen i) j
      let off := elemBytes d.fmtS ((if d.opc = 1 then 0 else i * d.shard) + j * chunkLen)
      let s := (List.range me.ccount).foldl (fun s x =>
        let (b, bad, s) := s.colRead o d (base + x * d.cstride + off) (elemBytes d.fmtS n)
        let s := if bad then s.failOp o uncorrected else s
        let v := (chunkValues d.fmtS n b).map fun q => (round32 false q).v
        s.valueHere o i (t.p + me.cfirst + x) j 0 v b) s
      s.runChunk o i j) s) s

/-- R269, R273: a chunk of this member's own shard or object, at element `e` of the source. -/
def State.sourceChunk (s : State) (o : ColOp) (host : List Byte) (e n : Nat) : List Byte × State :=
  let d := Desc.parse o.bytes
  let f := d.fmtS
  if d.shost then
    let total := elemBytes f d.len
    ((host.drop (elemBytes f e)).take (elemBytes f n) ++
      (if f.isMx then (host.drop (total + e / 32)).take (ceilDiv n 32) else []), s)
  else
    let k := if d.sseed then 32 else 1
    let (b, bad, s) := s.colRead o d (k * d.src + elemBytes f e) (elemBytes f n)
    let s := if bad then s.failOp o uncorrected else s
    if f.isMx then
      let (c, bad, s) := s.colRead o d (k * d.srcsc + e / 32) (ceilDiv n 32)
      (b ++ c, if bad then s.failOp o uncorrected else s)
    else (b, s)

/-- R269: the owner of a shard sends it. -/
def State.startGather (s : State) (o : ColOp) : State :=
  let d := Desc.parse o.bytes
  if d.self ≥ d.shards then s
  else
    let len := d.shardLen d.self
    (List.range (chunkCount len)).foldl (fun s j =>
      let n := chunkElems len j
      let (b, s) := s.sourceChunk o [] (j * chunkLen) n
      s.dataHere o d.self (j * chunkLen) d.sfmt n b) s

/-- R273: the reader sends the object down its stripes. -/
def State.startSow (s : State) (o : ColOp) (host : List Byte) : State :=
  let d := Desc.parse o.bytes
  if d.self ≠ 0 then s
  else (List.range (chunkCount d.len)).foldl (fun s j =>
    let n := chunkElems d.len j
    let (b, s) := s.sourceChunk o host (j * chunkLen) n
    s.dataHere o (j % max 1 d.stripes) (j * chunkLen) d.sfmt n b) s

/-! ### Arriving data (R276) -/

/-- The run a COLL or SOW packet carries (R275). -/
def Pkt.run (x : Pkt) : Nat := x.aux / 2 ^ 40 % 256
def Pkt.dfld (x : Pkt) : Nat := x.aux % 4
def Pkt.kind (x : Pkt) : Nat := x.aux / 4 % 4
def Pkt.fmt (x : Pkt) : Nat := x.aux / 16 % 16
def Pkt.node (x : Pkt) : Nat := x.aux / 2 ^ 8 % 2 ^ 17
def Pkt.shard (x : Pkt) : Nat := x.aux / 2 ^ 25 % 2 ^ 15

/-- R276: a discarded packet: counted, the first one recorded, the source raised. -/
def State.discardPkt (s : State) (f : Nat) (x : Pkt) (cause : Nat) : State :=
  let s := (s.bump (R.COL_RXDROP_COUNT f) 1).raiseSrc (Page.collengBase f) 0
  if s.flag (R.COL_DROP_INFO_VALID f) then s
  else (((((s.wf (R.COL_DROP_INFO_CAUSE f) cause).wf (R.COL_DROP_INFO_PTYPE f) x.ptype).wf (R.COL_DROP_INFO_DCTX f)
    x.dctx).wf (R.COL_DROP_INFO_VALID f) 1).wf (R.COL_DROP_SRC_SRC f) x.src).wf (R.COL_DROP_STEP_STEP f) x.step

/-- R276 check 6: the packet does not fit the operation. -/
def ColOp.misfit (o : ColOp) (x : Pkt) : Bool :=
  let d := Desc.parse o.bytes
  let t := Tree.of (o.tables.headD [])
  let n := if d.sows then d.len else d.shardLen x.shard
  let j := x.addr / chunkLen
  x.kind == 3 || (x.ptype == 3) != d.sows || x.shard ≥ d.shards || x.addr % chunkLen != 0 || x.addr ≥ n ||
    (if x.kind = 2 then
      d.opc == 1 || d.opc == 2 || x.node != 0 || x.fmt != (if d.opc = 3 then d.dfmt else d.sfmt) ||
        (d.sows && j % max 1 d.shards != x.shard) ||
        16 * x.len != (padSlots (List.replicate (chunkBytes ((Fmt.ofCode x.fmt).getD .fp32) (chunkElems n j)) 0)).length
    else
      !d.reduces || x.node == 0 || x.node ≥ 2 * t.p || !t.present x.node || (x.kind == 0) != t.isLeaf x.node || x.fmt != (if x.kind = 0 then d.sfmt else 1) ||
        (if x.node = 1 then d.owner x.shard else t.place (d.owner x.shard) (d.rot x.shard) (x.node / 2)) != d.self ||
        16 * x.len != (padSlots (List.replicate (elemBytes ((Fmt.ofCode x.fmt).getD .fp32) (chunkElems n j)) 0)).length)

/-- A packet that has passed R276 feeds its operation. -/
def State.feedOp (s : State) (o : ColOp) (x : Pkt) : State :=
  let d := Desc.parse o.bytes
  let i := x.shard
  let j := x.addr / chunkLen
  let n := chunkElems (if d.sows then d.len else d.shardLen i) j
  if x.kind = 2 then s.dataHere o i x.addr x.fmt n x.payload
  else
    let v := (chunkValues ((Fmt.ofCode x.fmt).getD .fp32) n x.payload).map fun q => (round32 false q).v
    let o := s.opNow o
    let s := s.setOp { o with vals := sput o.vals (valKey i x.node j) v }
    if x.node = 1 then s.rootHere o i j v else s.runChunk o i j

/-- R276 check 1: the packet comes from a member of the operation. -/
def ColOp.from (o : ColOp) (x : Pkt) : Bool := o.tables.any fun t => t.any fun m => m.dev == x.src

/-- R276 checks 1, 4 and 6 against an operation of the engine. -/
def State.takePkt (s : State) (o : ColOp) (x : Pkt) : State :=
  if !o.from x then s.discardPkt o.field x 1
  else if o.done then s.discardPkt o.field x 4
  else if o.misfit x then s.discardPkt o.field x 6
  else s.feedOp o x

/-! ### The early store (R277) -/

/-- Bytes a kept packet takes. -/
def Pkt.size (x : Pkt) : Nat := 32 + 16 * x.len

/-- R277, R284: early-store units in use by context `c` in field `f`, in 64 KiB. -/
def State.earlyUnits (s : State) (f c : Nat) : Nat :=
  ceilDiv ((((s.eng f).early.filter fun e => e.1 == c).map fun e => e.2.size).foldl (· + ·) 0) 65536

/-- `COL_EARLY_OCC` follows the store. -/
def State.showEarly (s : State) (f c : Nat) : State :=
  let n := s.earlyUnits f c
  (s.wf (R.COL_EARLY_OCC_OCC f c) n).peak (R.COL_EARLY_OCC_PEAK f c) n

/-- R284: the latched size of the early store. -/
def State.earlySize (s : State) (f c : Nat) : Nat := ((s.ctx c).latch.early.getD f (0, 0)).2

/-- R277: the packet fits the early store. -/
def State.earlyFits (s : State) (f c : Nat) (x : Pkt) : Bool :=
  let used := (((s.eng f).early.filter fun e => e.1 == c).map fun e => e.2.size).foldl (· + ·) 0
  used + x.size ≤ 65536 * s.earlySize f c

/-- R276 check 3: the step is the context's current step (`true`), or the next one; in SWAPPING the target epoch stands in place
of the current step (R335). -/
def State.stepNear (s : State) (c n : Nat) : Option Bool :=
  if s.rf (R.SRV_SWAP_STATE c) = 3 ∧ s.flag (R.SRV_CTRL_EN c) then
    if n = s.rf (R.SRV_TARGET_EPOCH c) then some true
    else if n = (s.rf (R.SRV_TARGET_EPOCH c) + 1) % 2 ^ 32 then some false else none
  else if s.stepCurrent c then
    if n = s.stepOf c then some true
    else if n = (s.stepOf c + 1) % 2 ^ 32 then some false else none
  else if s.cstate c = stBoundary ∧ n = (s.rf (R.CMT_CSTEP_C c) + 1) % 2 ^ 32 then some false
  else none

/-- R277: where the next kept packet of context `c` goes in its early store (log 77). -/
def State.earlyNext (s : State) (f c : Nat) : Nat :=
  ((s.ctx c).latch.early.getD f (0, 0)).1 +
    (((s.eng f).early.filter fun e => e.1 == c).map fun e => e.2.size).foldl (· + ·) 0

/-- R277, R287: a packet is kept in the early store: its bytes there have a form that the manual does not state (log 77). -/
def State.keepEarly (s : State) (f c : Nat) (x : Pkt) : State :=
  let a := s.earlyNext f c
  let e := s.eng f
  let s := (s.setEng f { e with early := e.early ++ [(c, x)] }).showEarly f c
  if !s.hbmWriteOk c a x.size || s.otherFenced f a x.size then s
  else
    let (b, s) := s.freeBytes x.size
    s.hbmWrite (.engine c f) a b

/-- R276, R277: a COLL or SOW packet at the engine of the field it names: the checks in their order, then its operation or the
early store; `none` while it must stay in the receive buffer because the early store is full. -/
def State.dataPkt (s : State) (x : Pkt) : Option State :=
  let f := x.dfld
  let c := x.dctx
  if !s.resident c || !s.inMask c f then some (s.discardPkt f x 0)
  else
    let op := (s.colOp? f c x.opid).filter fun o => o.step == x.step
    if op.any fun o => !o.from x then some (s.discardPkt f x 1)
    else match s.stepNear c x.step with
      | none => some (s.discardPkt f x 3)
      | some now =>
        if x.run ≠ (s.ctx c).latch.runs.getD f 0 then some (s.discardPkt f x 3)
        else if now && (s.eng f).closed.contains (c, x.opid) then some (s.discardPkt f x 4)
        else match if now then op else none with
          | some o => some (s.takePkt o x)
          | none =>
            if x.kind == 3 then some (s.discardPkt f x 6)
            else if s.earlyFits f c x then some (s.keepEarly f c x)
            else none

/-- R277: a delivered packet for field `f` waits in its receive buffer because the early store is full. -/
def State.earlyBlocked (s : State) (f : Nat) : Bool :=
  s.inbox.any fun e => (e.2.ptype == 2 || e.2.ptype == 3) && e.2.dfld == f && (s.dataPkt e.2).isNone

/-- R277, R391: the early-store-full condition ends when no packet waits for room. -/
def State.easeEarly (s : State) (f : Nat) : State :=
  if s.earlyBlocked f then s else s.dropCond (Page.collengBase f) 3

/-- R277: the stored packets of an operation just accepted are consumed in arrival order. -/
def State.drainEarly (s : State) (o : ColOp) : State :=
  let e := s.eng o.field
  let mine := fun (x : Nat × Pkt) => x.1 == o.ctx && x.2.opid == o.opid && x.2.step == o.step
  let s := s.setEng o.field { e with early := e.early.filter fun x => !mine x }
  let s := (e.early.filter mine).foldl (fun s x => s.takePkt (s.opNow o) x.2) s
  (s.showEarly o.field o.ctx).easeEarly o.field

/-! ### Acceptance (R258, R260, R262, R272) -/

/-- R260, R277, R281: an operation that ends at its acceptance; the stored packets for it are consumed too. -/
def State.endAtOnce (s : State) (o : ColOp) (st : Nat) : State :=
  let e := s.eng o.field
  (((s.setEng o.field { e with ops := e.ops ++ [o] }).showOps o.field).endOp o st false).drainEarly { o with done := true }

/-- R262, R335: the step whose packets an operation of a user takes part in. -/
def State.colStep (s : State) (c : Nat) : ColUser → Nat
  | .swap _ _ => s.rf (R.SRV_TARGET_EPOCH c)
  | _ => s.stepOf c

/-- COLLECTIVE_ACCEPT (R260): the engine reads the descriptor and the tables and starts the operation. Tables outside the
partition are not read (R156); a request that meets another field's fence ends the operation with TIMEOUT (R436); one that
names a vacant furrow goes on sending what it owes and ends with REFUSED (R281). `step` is what its packets carry. -/
def State.acceptCol (s : State) (f c desc : Nat) (u : ColUser) (step : Nat) (bound : Bool) (host : List Byte) : State :=
  let who := u.who f c
  let bad := s.readBad desc 128
  let fenced := s.otherFenced f desc 128
  let (b, s) := if fenced then ([], s) else s.hbmRead who desc 128
  let d := Desc.parse b
  let inside := s.inPartition c d.grp d.tableBytes && !s.otherFenced f d.grp d.tableBytes
  let bad := bad || (inside && s.readBad d.grp d.tableBytes)
  let (ts, s) := if inside then s.readTables who d else ([], s)
  let o : ColOp :=
    { field := f, ctx := c, step := step, opid := d.opid, desc := desc, bytes := b, users := [u], tables := ts,
      next := if d.next = 0 then none else some d.next, bound := bound }
  if fenced then (s.noteFail o timeoutStatus).tellUser o timeoutStatus false u
  else if s.otherFenced f d.grp d.tableBytes then s.endAtOnce o timeoutStatus
  else if s.colInvalid c f b d ts bound then
    if (s.eng f).ops.any fun x => x.ctx == c && x.opid == d.opid then
      ((s.putStatus o invalid).noteFail o invalid).tellUser o invalid false u
    else s.endAtOnce o invalid
  else if d.len = 0 then s.endAtOnce o okStatus
  else
    let e := s.eng f
    let s := (s.setEng f { e with ops := e.ops ++ [o] }).showOps f
    let s := if bad then s.failOp o uncorrected else if s.colRefused f d then s.failOp o refusedStatus else s
    let s := if d.reduces then s.startReduce o else if d.sows then s.startSow o host else s.startGather o
    s.drainEarly (s.opNow o)

/-- R272, R335: an operation of step `step` that a later COL or command claims. -/
def State.claimable (s : State) (f c desc step : Nat) : Option ColOp :=
  (s.eng f).ops.find? fun o => o.ctx == c && o.desc == desc && o.users == [ColUser.prefetch] && o.step == step

/-- R154, R158: requests to the partition of context `c` would wait. -/
def State.inWaits (s : State) (c a n : Nat) : Bool := s.inPartition c a n && s.hbmWaits a n

/-- R154, R158: requests of an operation that the descriptor at `desc` describes would wait: descriptor, tables, sources,
destinations, scratch area. -/
def State.colStalls (s : State) (c desc : Nat) : Bool :=
  s.inWaits c desc 128 ||
    (let d := Desc.parse (s.peekHbm desc 128)
     let me := d.me (s.readTables (.engine c 0) d).1
     s.inWaits c d.grp d.tableBytes ||
       (!d.sseed && !d.shost && (d.srcRanges me d.self).any fun r => s.inWaits c r.1 r.2) ||
       (!d.dseed && (d.dstRanges d.self).any fun r => s.inWaits c r.1 r.2) ||
       (d.reduces && s.inWaits c d.scratch (4096 * d.scrsize)))

/-- R258, R272: a COL or command hands its descriptor over: it claims a prefetch, waits for room, or is accepted. -/
def State.handCol (s : State) (f c desc : Nat) (u : ColUser) (bound : Bool) (host : List Byte) : State :=
  let step := s.colStep c u
  match s.claimable f c desc step with
  | some o =>
    if o.done then
      let e := s.eng f
      let s := s.setEng f { e with ops := e.ops.filter fun x => !(x.ctx == c && x.opid == o.opid) }
      s.tellUser o o.status false u
    else s.setOp { o with users := [u] }
  | none =>
    let e := s.eng f
    if e.busy ≥ 64 || !e.waiting.isEmpty || s.colStalls c desc then
      let d := Desc.parse (s.peekHbm desc 128)
      let ts := (s.readTables (u.who f c) d).1
      let spans := (List.range 26).flatMap fun n => (s.descSpans f n c d (d.me ts) d.self).map fun r => (n, r)
      s.setEng f { e with waiting := e.waiting ++ [⟨c, u, desc, bound, host, spans⟩] }
    else s.acceptCol f c desc u step bound host

/-- R258, R436: the oldest waiting COL is accepted while there is room, its requests need not wait and the field is not fenced;
`fuel` bounds the number. -/
def State.admitCols (f : Nat) : Nat → State → State
  | 0, s => s
  | n + 1, s =>
    let e := s.eng f
    match e.waiting with
    | w :: t =>
      if e.busy < 64 && !s.colStalls w.ctx w.desc && !s.isFenced (.field f) then
        State.admitCols f n
          ((s.setEng f { e with waiting := t }).acceptCol f w.ctx w.desc w.user (s.colStep w.ctx w.user) w.bound w.host)
      else s
    | [] => s

/-- R258: room may have come in the engine of field `f`. -/
def State.nextWaiting (s : State) (f : Nat) : State := State.admitCols f (s.eng f).waiting.length s

/-- R154, R158, R258: requests that waited need wait no longer: what waits in the engines is admitted. -/
def State.admitAll (s : State) : State := (List.range 4).foldl State.nextWaiting s

/-- R258: where the descriptor of a COL lies. -/
def State.colDesc (s : State) (p : At) (w : InstrWord) : Nat := 1024 * (s.st p).base.getD (fld w 8 3) 0 + 64 * fld w 16 32

/-- R113, R115, R116: why a COL is not ready. -/
def State.colWait (s : State) (p : At) (w : InstrWord) : Option WaitKind :=
  let d := Desc.parse (s.peekHbm (s.colDesc p w) 128)
  let me := d.me (s.readTables (.engine p.c p.f) d).1
  s.waitFor p { seed := s.descSpans p.f p.n p.c d me d.self }
    (if s.colClash p.f p.n p.c p.k d me d.self then some .interlock
     else if s.outstanding p ≥ 8 then some .xferLimit else none)

/-- R258: COL. `host` is what the client's memory holds at `SRC` when the descriptor is a SOW from host memory. -/
def issueCol (host : List Byte) (i : StreamId) (w : InstrWord) (s : State) : State :=
  let p := atOf i
  let desc := s.colDesc p w
  let d := Desc.parse (s.peekHbm desc 128)
  let outside := !s.inPartition p.c desc 128 || !s.inPartition p.c d.grp d.tableBytes
  let cause := lowest [(fld w 12 4 != 0 || fld w 56 72 != 0, 2), (outside, 7), (s.afterStep p, 9)]
  let sem := if fld w 11 1 = 1 then some (fld w 48 8) else none
  issue s p w (s.colWait p w) 0 cause fun s => s.handCol p.f p.c desc (.stream p.n p.k sem true) true host

/-- R154, R262: the write of an operation's `STATUS` would wait. -/
def State.endWaits (s : State) (o : ColOp) : Bool := s.inWaits o.ctx (o.desc + 104) 20

/-- R262: COLLECTIVE_END: operation `opid` of context `c` in field `f` has all its data, and ends; otherwise nothing
changes (log 6). -/
def execCollectiveEnd (f : Fin 4) (c : Fin 64) (opid : BitVec 32) (s : State) : Out :=
  match s.colOp? f c opid.toNat with
  | none => .next s
  | some o =>
    if o.done || !o.complete || s.endWaits o then .next s
    else .next ((s.endOp o o.status false).nextWaiting f)

/-- R281: COLLECTIVE_TIMEOUT. -/
def execCollectiveTimeout (f : Fin 4) (c : Fin 64) (opid : BitVec 32) (s : State) : Out :=
  match s.colOp? f c opid.toNat with
  | none => .next s
  | some o => if o.done || s.endWaits o then .next s else .next ((s.endOp o timeoutStatus false).nextWaiting f)

/-- R272, R335: NEXT_PREFETCH, for the step of the operation that names it; a fenced field starts no operation (R436). -/
def execNextPrefetch (f : Fin 4) (c : Fin 64) (opid : BitVec 32) (host : List Byte) (s : State) : Out :=
  match s.colOp? f c opid.toNat with
  | none => .next s
  | some o =>
    match o.next with
    | none => .next s
    | some n =>
      if o.done || o.complete || !o.owesNothing || (s.eng f).busy ≥ 64 || s.isFenced (.field f) || s.isFenced (.ctx c) ||
          s.colStalls c n then .next s
      else .next (((s.setOp { o with next := none }).acceptCol f c n .prefetch o.step o.bound host).nextWaiting f)

/-! ### COLL and SOW packets (R276, R277) -/

/-- The oldest delivered packet of port `p` in a class and virtual channel, and the inbox without it. -/
def takeInbox (p tc vc : Nat) : List (Nat × Pkt) → Option (Pkt × List (Nat × Pkt))
  | [] => none
  | (q, x) :: t =>
    if q = p ∧ x.tc = tc ∧ x.vc = vc then some (x, t)
    else (takeInbox p tc vc t).map fun (y, r) => (y, (q, x) :: r)

/-- The packet leaves the receive buffer of its port (R235). -/
def State.consume (s : State) (p : Nat) (x : Pkt) (rest : List (Nat × Pkt)) : State :=
  let s := { s with inbox := rest }
  if p < 8 then s.freeRx p (bufOf x) x.len else s

/-- R154, R158, R481: what packet `x` brings would have to wait: its operation's destination, or the early store, takes no
request, or the field of its engine is forced off. -/
def State.dataWaits (s : State) (x : Pkt) : Bool :=
  let f := x.dfld
  let c := x.dctx
  s.fieldOff f ||
    match (s.colOp? f c x.opid).filter fun o => o.step == x.step with
    | some o =>
      let d := Desc.parse o.bytes
      let n := chunkElems (if d.sows then d.len else d.shardLen x.shard) (x.addr / chunkLen)
      let e := d.posOf x.shard + x.addr
      !d.dseed && (s.inWaits c (d.dst + e * d.fmtD.width / 8) (elemBytes d.fmtD n) ||
        (d.fmtD.isMx && s.inWaits c (d.dstsc + e / 32) (ceilDiv n 32)))
    | none => s.inWaits c (s.earlyNext f c) x.size

/-- R276, R277: COLL_PACKET and SOW_PACKET: the oldest packet of the class that port `p` has delivered. -/
def State.takeData' (s : State) (p ptype tc vc : Nat) : State :=
  match takeInbox p tc vc s.inbox with
  | none => s
  | some (x, rest) =>
    if x.ptype ≠ ptype || s.dataWaits x then s
    else match (s.consume p x rest).dataPkt x with
      | some s => s.easeEarly x.dfld
      | none => s.raiseCond (Page.collengBase x.dfld) 3

/-- R276: COLL_PACKET; `p` is a port, or 8 + f for what field f's own engine sent to this device. -/
def execCollPacket (p : Fin 12) (vc : Fin 2) (s : State) : Out := .next (s.takeData' p 2 1 vc)

/-- R273, R276: SOW_PACKET. -/
def execSowPacket (p : Fin 12) (vc : Fin 2) (s : State) : Out := .next (s.takeData' p 3 0 vc)

/-- R241, R274, R276: a truncated SOW chunk at this device that would have fed its operation is completed downstream: each member
it would have gone on to gets it with an ABORT slot. -/
def State.sowCut (s : State) (x : Pkt) : State :=
  match (s.colOp? x.dfld x.dctx x.opid).filter fun o => o.step == x.step && o.from x &&
      x.run == (s.ctx x.dctx).latch.runs.getD x.dfld 0 && !o.done && !o.misfit x with
  | none => s
  | some o =>
    ((Desc.parse o.bytes).targets o x.shard).foldl (fun s m =>
      s.sendChunk o 3 m 2 0 x.shard x.addr x.fmt x.payload true) s

/-- R241, R274: ABORT_SLOT: a truncated packet at the head of port `p`'s received packets goes where it would have gone, or is
discarded here, `ns` nanoseconds after its header's arrival (R248); an ABORT slot there whose packet has gone already has marked it and is only counted. With neither nothing
changes (log 6). -/
def execAbortSlot (p : Fin 8) (ns : Nat) (s : State) : Out :=
  match (s.port p).rx with
  | [] => .next s
  | x :: t =>
    if x.ptype ≠ 10 ∧ !x.trunc then .next s
    else
      let s := s.countAbort p
      let s := s.setPort p { s.port p with rx := t }
      if x.ptype = 10 then .next s
      else
        let cut := x.ptype = 3 ∧ s.truncRoute p ns x = .deliver
        let s := s.truncHead p ns x
        .next (if cut then s.sowCut x else s)

/-- R239, R276, R287, R299, R436: WRITE_PACKET: its bytes are stored at `ADDR` in the context's partition. In RESET there is no
step to compare with (log 78). Another field's fence keeps its HBM from the bytes. -/
def execWritePacket (p : Fin 12) (vc : Fin 2) (s : State) : Out :=
  match takeInbox p 0 vc s.inbox with
  | none => .next s
  | some (x, rest) =>
    if x.ptype ≠ 1 || s.hbmWaits x.addr x.payload.length then .next s
    else
      let s := s.consume p x rest
      let f := x.dfld
      let c := x.dctx
      let n := x.payload.length
      let en := if s.stepCurrent c then (s.ctx c).latch.writeEn.getD f false else s.flag (R.COL_CTX_WRITE_EN f c)
      .next <|
        if !s.resident c || !s.inMask c f then s.discardPkt f x 0
        else if !en then s.discardPkt f x 1
        else if !s.inPartition c x.addr n || !s.writeOk c x.addr n true true then s.discardPkt f x 2
        else if s.cstate c ≠ stReset ∧ (s.stepNear c x.step).isNone then s.discardPkt f x 3
        else if x.aux / 4 != 0 then s.discardPkt f x 6
        else if s.otherFenced f x.addr n then s
        else s.hbmWrite (.engine c f) x.addr x.payload

end Sys2Proof.Machine
end

