-- ==== Sys2Proof/Machine/Mirror.lean ====
section
/-! DEFINITION. Mirror regions: data, BEGIN, END, ACK and timeout (R278 to R280), and their flips (R308). -/

namespace Sys2Proof.Machine

/-- R279: the fields of a MIRROR packet's `AUX`. -/
def Pkt.mRegion (x : Pkt) : Nat := x.aux / 16 % 2 ^ 12
def Pkt.mCount (x : Pkt) : Nat := x.aux / 2 ^ 16 % 2 ^ 24

/-- R308: a mirror region flips: L toggles, the step of the flip is recorded. -/
def Region.flip (r : Region) (step : Nat) (implied : Bool) : Region :=
  { r with live := !r.live, mstep := step, flipped := true, implied := implied, back := true }

/-- R308: the mirror regions of context `c` whose source is context `sctx` of device `dev`. -/
def State.mirrorsFrom (s : State) (c dev sctx : Nat) : List Nat :=
  (s.regions.filter fun e =>
    e.2.valid && e.2.mirrorRole && e.2.ctx == c && e.2.partDev == dev && e.2.partCtx == sctx).map Prod.fst

/-- R308: the kept pair is of `step`, drained and unflipped. -/
def Region.due (r : Region) (step : Nat) : Bool := r.kept && r.drained && !r.flipped && r.kstep == step

/-- R308: the flip that a BEGIN of the next step implies for every mirror region of its source context. -/
def State.flipDue (s : State) (r : Region) (step : Nat) : State :=
  (s.mirrorsFrom r.ctx r.partDev r.partCtx).foldl (fun s i =>
    if (s.region i).due step then s.setRegion i ((s.region i).flip step true) else s) s

/-- R276, R280: the checks of a mirror packet at the partner, in the table's order: residence, the bytes, the pair of data and
END against the kept pair (log 14), then that the region mirrors from the sender. -/
def State.mirrorFor (s : State) (x : Pkt) : Option Nat :=
  let r := s.region x.mRegion
  if !s.resident x.dctx || !s.inMask x.dctx x.dfld then some 0
  else if r.valid && x.kind == 0 && x.addr + x.payload.length > r.len * 4096 then some 2
  else if r.valid && r.mirrorRole && x.kind != 1 &&
      (!r.kept || r.kstep != x.step || r.run != x.run || (x.kind == 0 && r.flipped)) then some 3
  else if !r.valid || !r.mirrorRole || r.ctx != x.dctx || r.field != x.dfld || r.partDev != x.src then some 5
  else none

/-- Where a MIRROR data packet's bytes go: the region's fallow copy. -/
def State.mirrorAt (s : State) (x : Pkt) : Nat :=
  let r := s.region x.mRegion
  r.field * 2 ^ 39 + r.copy1 * 4096 + x.addr

/-- The mirror packet of kind `k` that port `p` has delivered; data waits while its stack or granule does (R154, R158). -/
def State.mirrorIn (s : State) (p vc k : Nat) (act : Pkt → State → State) : State :=
  match takeInbox p 0 vc s.inbox with
  | none => s
  | some (x, rest) =>
    if x.ptype = 4 ∧ x.kind = k ∧ (k = 0 → s.hbmWaits (s.mirrorAt x) x.payload.length = false) then
      act x (s.consume p x rest)
    else s

/-- R280: MIRROR_DATA. A packet whose step and run are not the kept pair is stale (log 14). -/
def execMirrorData (p : Fin 12) (vc : Fin 2) (s : State) : Out :=
  .next (s.mirrorIn p vc 0 fun x s =>
    let r := s.region x.mRegion
    match s.mirrorFor x with
    | some c => s.discardPkt x.dfld x c
    | none =>
      let s := s.setRegion x.mRegion { r with applied := r.applied + 1, back := false }
      s.hbmWrite (.engine r.ctx r.field) (s.mirrorAt x) x.payload)

/-- R280, R308: MIRROR_BEGIN: a drained, unflipped previous step is flipped first, as MIRROR_COMMIT would; then the pair is
kept. -/
def execMirrorBegin (p : Fin 12) (vc : Fin 2) (s : State) : Out :=
  .next (s.mirrorIn p vc 1 fun x s =>
    match s.mirrorFor x with
    | some c => s.discardPkt x.dfld x c
    | none =>
      let r := s.region x.mRegion
      let s := if r.due r.kstep && x.step == (r.kstep + 1) % 2 ^ 32 then s.flipDue r r.kstep else s
      s.setRegion x.mRegion
        { s.region x.mRegion with kept := true, kstep := x.step, run := x.run, drained := false, flipped := false, applied := 0 })

/-- R280: MIRROR_END: answered with an ACK that carries the number of packets applied. -/
def execMirrorEnd (p : Fin 12) (vc : Fin 2) (s : State) : Out :=
  .next (s.mirrorIn p vc 2 fun x s =>
    match s.mirrorFor x with
    | some c => s.discardPkt x.dfld x c
    | none =>
      let r := s.region x.mRegion
      let s := s.setRegion x.mRegion { r with drained := r.applied % 2 ^ 24 == x.mCount }
      s.sendPkt r.field
        { ptype := 4, tc := 0, vc := 0, dst := r.partDev, src := 0, dctx := r.partCtx, len := 0, life := 0, opid := 0,
          step := x.step, addr := 0, own := some r.ctx,
          aux := r.partFld + 4 * 3 + 16 * r.partReg + 2 ^ 16 * (r.applied % 2 ^ 24) + 2 ^ 40 * x.run, payload := [] })

/-- R280: a mirror fails: counted, the source raised, the step blocked. -/
def State.failMirror (s : State) (i : Nat) : State :=
  let r := s.region i
  let s := s.setRegion i { r with ackFailed := true }
  ((s.bump (R.COL_MIRFAIL_COUNT r.field) 1).raiseFor (Page.collengBase r.field) 2 (some r.ctx)).blockCause r.ctx 4

/-- R280: MIRROR_ACK at the source. -/
def execMirrorAck (p : Fin 12) (vc : Fin 2) (s : State) : Out :=
  .next (s.mirrorIn p vc 3 fun x s =>
    let r := s.region x.mRegion
    if !s.resident x.dctx || !s.inMask x.dctx x.dfld then s.discardPkt x.dfld x 0
    else if r.valid && !r.mirrorRole && r.mirrored && (!s.stepCurrent r.ctx || x.step != s.stepOf r.ctx ||
        x.run != (s.ctx r.ctx).latch.runs.getD r.field 0 || !r.sentEnd) then s.discardPkt x.dfld x 3
    else if !r.valid || r.mirrorRole || !r.mirrored || r.ctx != x.dctx || r.partDev != x.src then
      s.discardPkt x.dfld x 5
    else if x.mCount = r.endCount then s.setRegion x.mRegion { r with ackDrained := true }
    else s.failMirror x.mRegion)

/-- R280: MIRROR_TIMEOUT: region `i` has waited `COL_CTRL.TIMEOUT` for its ACK. -/
def execMirrorTimeout (i : Fin 4096) (s : State) : Out :=
  let r := s.region i
  .next (if r.valid && !r.mirrorRole && r.mirrored && r.sentEnd && !r.ackDrained && !r.ackFailed && s.stepCurrent r.ctx
    then s.failMirror i else s)

/-- R292: a mirrored region at the begin of a step: its counts restart, and BEGIN is sent. -/
def State.mirrorBegins (s : State) (c : Nat) : State :=
  s.regions.foldl (fun s e =>
    let r := s.region e.1
    if r.valid && !r.mirrorRole && r.mirrored && r.ctx == c then
      let s := s.setRegion e.1 { r with sentData := 0, sentEnd := false, endCount := 0, ackDrained := false, ackFailed := false }
      s.sendPkt r.field (s.mirrorPkt r 1 0 0 [])
    else s) s

/-- R295(4): every mirrored region's mirror is drained. -/
def State.mirrorsDrained (s : State) (c : Nat) : Bool :=
  s.regions.all fun e =>
    !(e.2.valid && !e.2.mirrorRole && e.2.mirrored && e.2.ctx == c) || e.2.ackDrained

end Sys2Proof.Machine
end

