-- ==== Sys2Proof/Machine/Serving.lean ====
section
/-! DEFINITION. Serving: plots and slots, the admission algorithm, the tables it writes, commit and abort of an admission,
the entry barrier (R318 to R338). -/

namespace Sys2Proof.Machine

/-- R318. -/
def State.serving (s : State) (c : Nat) : Bool := s.flag (R.SRV_CTRL_EN c)

/-- R321: plots per page, and the plot size. -/
def State.plotsPerPage (s : State) (c : Nat) : Nat := s.rf (R.SRV_CTRL_WIDTH c) + 1
def State.plotSize (s : State) (c : Nat) : Nat := 65536 * 2 ^ s.rf (R.SRV_CTRL_PSIZE c)

/-! ### Plots (R324) -/

/-- The plots sequences homed in field `f` hold. -/
def usedPlots (seqs : Store SeqSlot) (f : Nat) : List Nat :=
  seqs.flatMap fun e => if e.2.field = f then e.2.pages.flatten else []

/-- The lowest number from `i` up that is not in the list. -/
def lowestFrom (used : List Nat) : Nat → Nat → Nat
  | 0, i => i
  | fuel + 1, i => if used.contains i then lowestFrom used fuel (i + 1) else i

/-- R324: the lowest-numbered free plot. -/
def lowestFree (used : List Nat) : Nat := lowestFrom used used.length 0

/-- R324: `n` plots in ascending order, each the lowest free one. -/
def takePlots : Nat → List Nat → List Nat
  | 0, _ => []
  | n + 1, used => let p := lowestFree used; p :: takePlots n (p :: used)

/-- A list in groups of `w`. -/
def inPages (w : Nat) : Nat → List Nat → List (List Nat)
  | 0, _ => []
  | n + 1, l => l.take w :: inPages w n (l.drop w)

/-- R324: `n` more pages of `w` plots for a sequence homed in field `f`. -/
def morePages (seqs : Store SeqSlot) (f w n : Nat) : List (List Nat) := inPages w n (takePlots (n * w) (usedPlots seqs f))

/-- Free plots of field `f`'s pool. -/
def State.freePlots (s : State) (c : Nat) (seqs : Store SeqSlot) (f : Nat) : Nat :=
  s.rf (R.SRV_POOL_N_N c f) - (usedPlots seqs f).length

/-- The slot of a live sequence. -/
def slotOf (seqs : Store SeqSlot) (seqid : Nat) : Option Nat := (seqs.find? fun e => e.2.seqid == seqid).map Prod.fst

/-! ### Admission (R327) -/

/-- R327: the leaves. -/
def takeLeaves (a : Admission) : Admission :=
  a.taken.zipIdx.foldl (fun a (t, i) =>
    if t.join.isSome then a
    else match slotOf a.seqs t.seqid with
      | some q => { a with seqs := sdel a.seqs q, left := a.left + 1, taken := a.taken.set i { t with status := okStatus } }
      | none =>
        if a.adm.any (·.seqid == t.seqid) then
          { a with
            adm := a.adm.filter (·.seqid != t.seqid), taken := a.taken.set i { t with status := okStatus } }
        else { a with taken := a.taken.set i { t with status := stStatus } }) a

/-- R327: the joins. -/
def State.takeJoins (s : State) (c : Nat) (a : Admission) : Admission :=
  let w := s.plotsPerPage c
  a.taken.zipIdx.foldl (fun a (t, i) =>
    match t.join with
    | none => a
    | some j =>
      let set := fun st (a : Admission) => { a with taken := a.taken.set i { t with status := st } }
      if !s.inMask c j.field || j.t0 > s.rf (R.SRV_LIMITS_MAXPAGES c) * 64 then set invalid a
      else if (slotOf a.seqs j.seqid).isSome || a.adm.any (·.seqid == j.seqid) then set stStatus a
      else if ceilDiv j.t0 64 * w > s.rf (R.SRV_POOL_N_N c j.field) then set refusedStatus a
      else set admitDeferred { a with adm := a.adm ++ [j] }) a

/-- R327: new pages that the growth of a live sequence needs. -/
def SeqSlot.newPages (q : SeqSlot) : Nat := ceilDiv (q.len + q.grow) 64 - q.pages.length

/-- R327, R329: the shortfall: slot, cause and new plots needed. -/
def State.shortfall (s : State) (c : Nat) (a : Admission) : List (Nat × Nat × Nat) :=
  let w := s.plotsPerPage c
  let need := fun f => (a.seqs.map fun e => if e.2.field = f then e.2.newPages * w else 0).foldl (· + ·) 0
  a.seqs.filterMap fun (q, x) =>
    if ceilDiv (x.len + x.grow) 64 > s.rf (R.SRV_LIMITS_MAXPAGES c) then some (q, 1, x.newPages * w)
    else if x.newPages > 0 && need x.field > s.freePlots c a.seqs x.field then some (q, 0, x.newPages * w)
    else none

/-- R324, R327: the growth of continuing sequences takes its plots, in ascending slot order. -/
def State.growSeqs (s : State) (c : Nat) (a : Admission) : Admission :=
  let w := s.plotsPerPage c
  a.seqs.foldl (fun a e =>
    match sget? a.seqs e.1 with
    | none => a
    | some x => { a with seqs := sput a.seqs e.1 { x with pages := x.pages ++ morePages a.seqs x.field w x.newPages } }) a

/-- R327: admission from the head of the queue, until a join does not fit; `fuel` is its length. -/
def State.admitJoins (s : State) (c : Nat) : Nat → Admission → Admission
  | 0, a => a
  | fuel + 1, a =>
    match a.adm with
    | [] => a
    | j :: t =>
      let w := s.plotsPerPage c
      let n := ceilDiv j.t0 64
      let slot := lowestFree (a.seqs.map Prod.fst)
      if s.rf (R.SRV_SWAP_STATE c) = 1 || slot ≥ s.rf (R.SRV_LIMITS_MAXSEQ c) || n * w > s.freePlots c a.seqs j.field then a
      else
        let x : SeqSlot :=
          { seqid := j.seqid, len := 0, grow := j.t0, jgrow := j.grow, jepoch := s.rf (R.SRV_EPOCH_EPOCH c), first := true,
            mixed := false, field := j.field, pages := morePages a.seqs j.field w n }
        State.admitJoins s c fuel
          { a with
            seqs := sput a.seqs slot x, adm := t, joined := a.joined + 1,
            taken := a.taken.map fun k => if k.join == some j && k.status == admitDeferred then { k with status := okStatus }
              else k }

/-- R327: the admission of a BEGIN in mode 0 over the taken commands: a shortfall, or what it leaves. -/
def State.admission (s : State) (c : Nat) (taken : List Taken) : List (Nat × Nat × Nat) × Admission :=
  let x := s.srv c
  let seqs := x.seqs.map fun e => (e.1, { e.2 with grow := e.2.jgrow })
  let a := s.takeJoins c (takeLeaves { seqs := seqs, adm := x.adm, taken := taken })
  match s.shortfall c a with
  | [] =>
    let a := s.growSeqs c a
    let a := s.admitJoins c a.adm.length a
    ([], { a with deferred := (a.taken.filter (·.status == admitDeferred)).length })
  | l => (l, a)

/-! ### Tables (R322, R323, R329) -/

/-- An address pair of the serving page. -/
def State.srvAddr (s : State) (lo hi : Loc) : Nat := s.rf64 lo hi

/-- R321 to R323, R329, R339: the pools and tables of a context, as registers read through `reg` give them. -/
def servSpans (s : State) (c : Nat) : List (Nat × Nat) :=
  let n := s.rf (R.SRV_LIMITS_MAXSEQ c)
  [(s.srvAddr (R.SRV_TAB_LO_ADDR c) (R.SRV_TAB_HI_ADDR c), 64 + 32 * n),
    (s.srvAddr (R.SRV_PLTAB_LO_ADDR c) (R.SRV_PLTAB_HI_ADDR c),
      n * s.rf (R.SRV_LIMITS_MAXPAGES c) * s.plotsPerPage c * 4),
    (s.srvAddr (R.SRV_SHORT_LO_ADDR c) (R.SRV_SHORT_HI_ADDR c), 16 + 16 * 1024)] ++
  (List.range 4).map fun f =>
    (s.srvAddr (R.SRV_POOL_LO_ADDR c f) (R.SRV_POOL_HI_ADDR c f), s.rf (R.SRV_POOL_N_N c f) * s.plotSize c)

/-- R322: one entry of the sequence table. -/
def seqEntry (x : Option SeqSlot) : List Byte :=
  match x with
  | none => List.replicate 32 0
  | some q =>
    leBytes 4 q.seqid ++ leBytes 1 (1 + (if q.first then 2 else 0) + (if q.mixed then 4 else 0) + 16 * q.field) ++
      List.replicate 3 0 ++ leBytes 4 q.len ++ leBytes 4 q.grow ++ leBytes 4 q.jepoch ++ leBytes 4 q.pages.length ++
      List.replicate 8 0

/-- R323: the plot list of a slot. -/
def State.plotList (s : State) (c : Nat) (x : Option SeqSlot) : List Byte :=
  let w := s.plotsPerPage c
  (List.range (s.rf (R.SRV_LIMITS_MAXPAGES c))).flatMap fun p =>
    match x.bind fun q => q.pages[p]? with
    | some l => l.flatMap fun n => leBytes 4 n
    | none => (List.range w).flatMap fun _ => leBytes 4 0xFFFFFFFF

/-- R287, R436: the device writes a table of the serving context where the window rules and fences let it. -/
def State.tableWrite (s : State) (c a : Nat) (b : List Byte) : State :=
  if s.hbmWriteOk c a b.length && !s.rangeFenced a b.length then s.hbmWrite (.cmd c (s.client c)) a b else s

/-- R322, R323: sequence table and plot lists, written at a BEGIN that starts a step. -/
def State.writeTables (s : State) (c step : Nat) (a : Admission) : State :=
  let n := s.rf (R.SRV_LIMITS_MAXSEQ c)
  let hdr := leBytes 4 step ++ leBytes 4 (s.srv c).epoch ++ leBytes 2 a.seqs.length ++ leBytes 2 a.joined ++
    leBytes 2 a.left ++ leBytes 2 a.deferred ++ ((List.range 4).flatMap fun f => leBytes 4 (s.freePlots c a.seqs f)) ++
    List.replicate 32 0
  let s := s.tableWrite c (s.srvAddr (R.SRV_TAB_LO_ADDR c) (R.SRV_TAB_HI_ADDR c))
    (hdr ++ (List.range n).flatMap fun q => seqEntry (sget? a.seqs q))
  s.tableWrite c (s.srvAddr (R.SRV_PLTAB_LO_ADDR c) (R.SRV_PLTAB_HI_ADDR c))
    ((List.range n).flatMap fun q => s.plotList c (sget? a.seqs q))

/-- R329: the shortfall list of a step that did not start. -/
def State.writeShort (s : State) (c step : Nat) (a : Admission) (l : List (Nat × Nat × Nat)) : State :=
  let shown := l.take 1024
  let b := leBytes 4 step ++ leBytes 4 shown.length ++ leBytes 4 l.length ++ leBytes 4 0 ++
    shown.flatMap fun (q, cause, need) =>
      let x := sget? a.seqs q
      leBytes 4 ((x.map SeqSlot.seqid).getD 0) ++ leBytes 2 q ++ leBytes 1 cause ++
        leBytes 1 ((x.map SeqSlot.field).getD 0) ++ leBytes 4 need ++ leBytes 4 0
  let s := s.tableWrite c (s.srvAddr (R.SRV_SHORT_LO_ADDR c) (R.SRV_SHORT_HI_ADDR c)) b
  (s.wf (R.SRV_SHORT_N_TOTAL c) l.length).bump (R.SRV_OOP_CNT_COUNT c) 1

/-- R340: the registers that show the committed boundary and the admission queue. -/
def State.showServ (s : State) (c : Nat) : State :=
  let x := s.srv c
  let s := (List.range 4).foldl (fun s f => s.wf (R.SRV_POOL_FREE_FREE c f) (s.freePlots c x.seqs f)) s
  (s.wf (R.SRV_LIVE_LIVE c) x.seqs.length).wf (R.SRV_LIVE_QUEUED c) x.adm.length

/-! ### The entry barrier (R333 to R336) -/

def swOpen : Nat := 0
def swPending : Nat := 1
def swClosing : Nat := 2
def swSwapping : Nat := 3

/-- R333: the swap state. -/
def State.swap (s : State) (c : Nat) : Nat := s.rf (R.SRV_SWAP_STATE c)

/-- R333: the barrier is closed. -/
def State.barrierClosed (s : State) (c : Nat) : Bool := s.serving c && (s.swap c == swClosing || s.swap c == swSwapping)

/-- R333, R336: a state of the closed barrier is entered; its hold time counts from the first. -/
def State.enterSwap (s : State) (c st : Nat) : State :=
  let x := s.srv c
  let s := s.setSrv c { x with closedAt := if st = swPending then none else some (x.closedAt.getD s.now) }
  let s := s.wf (R.SRV_SWAP_STATE c) st
  if st = swSwapping then
    let s := { s with engines := s.engines.map fun (e : Nat × ColEng) => (e.1, { e.2 with closed := e.2.closed.filter fun (x : Nat × Nat) => x.1 != c }) }
    s.ctxEvent c 2
  else s

/-- SWAP_BARRIER_CLOSE (R333): at BOUNDARY, CLOSING enters SWAPPING, and PENDING does once no sequence is live. -/
def State.swapAtBoundary (s : State) (c : Nat) : State :=
  if s.swap c = swClosing ∨ (s.swap c = swPending ∧ (s.srv c).seqs.isEmpty) then s.enterSwap c swSwapping else s

/-! ### Begin, commit and abort of a serving step (R328 to R332, R337) -/

/-- R322, R330, R332, R337: a step of a serving context begins with an admission. -/
def State.servBegin (s : State) (c step : Nat) (a : Admission) : State :=
  let x := s.srv c
  let ep := s.rf (R.SRV_EPOCH_EPOCH c)
  let seqs := a.seqs.map fun e => (e.1, { e.2 with mixed := e.2.jepoch != ep })
  let a := { a with seqs := seqs }
  let s := s.setSrv c
    { x with
      seqs := seqs, adm := a.adm, held := if a.taken.isEmpty then x.held else a.taken, snap := some (x.seqs, x.adm),
      attempt := some a, attemptEpoch := ep, epoch := ep, shown := !seqs.isEmpty }
  (s.writeTables c step a).wf (R.SRV_LIVE_QUEUED c) a.adm.length

/-- R327, R367: the `DETAIL` of a taken command: the offending field of a JOIN, or the states. -/
def State.takenDetail (s : State) (c : Nat) (t : Taken) : Nat :=
  if t.status = invalid then if t.join.any fun j => s.inMask c j.field then 40 else 36
  else if t.status = stStatus then s.cstate c + 256 * s.swap c
  else 0

/-- R328, R330: a serving step commits: the commands that its admission took are completed, lengths grow, first steps are
over. Commands that an earlier BEGIN took and this step's did not evaluate stay held. -/
def State.servCommit (s : State) (c : Nat) : State :=
  let x := s.srv c
  let a := x.attempt.getD {}
  let seqs := x.seqs.map fun e => (e.1, { e.2 with len := e.2.len + e.2.grow, first := false })
  let s := a.taken.foldl (fun s t =>
    let s := s.finishCmd t.queue t.seq t.status (s.takenDetail c t)
    if t.status = admitDeferred then s.bump (R.SRV_DEFER_CNT_COUNT c) 1 else s) s
  let s := (s.bump (R.SRV_ADMIT_CNT_COUNT c) a.joined).setSrv c
    { x with seqs := seqs, held := if a.taken.isEmpty then x.held else [], snap := none, attempt := none }
  (s.showServ c).swapAtBoundary c

/-- R330: an abort undoes the admission; the taken commands stay held. -/
def State.servAbort (s : State) (c : Nat) : State :=
  let x := s.srv c
  let s := match x.snap with
    | some (q, a) => s.setSrv c { x with seqs := q, adm := a, snap := none }
    | none => s
  (s.showServ c).swapAtBoundary c

/-- R338: the sequences and joins of an admission that are not homed in field `f`. -/
def Admission.without (a : Admission) (f : Nat) : Admission :=
  { a with seqs := a.seqs.filter fun e => e.2.field != f, adm := a.adm.filter fun j => j.field != f }

/-- R338, R340: sequences and joins homed in a field whose pool was cleared are lost, in the step's attempt and in what its
abort would restore too; each counts once. The registers of the last committed boundary follow outside a step only. -/
def State.servLose (s : State) (c f : Nat) : State :=
  let x := s.srv c
  let (q, a) := x.snap.getD ([], [])
  let left := q.filter fun e => e.2.field == f && !x.seqs.any fun y => y.1 == e.1 && y.2.seqid == e.2.seqid
  let gone := a.filter fun j => j.field == f && !x.adm.contains j && !x.seqs.any fun y => y.2.seqid == j.seqid
  let lost := (x.seqs.filter fun e => e.2.field == f).length + (x.adm.filter fun j => j.field == f).length +
    left.length + gone.length
  let keep := fun (q : Store SeqSlot) => q.filter fun e => e.2.field != f
  let s := s.setSrv c
    { x with
      seqs := keep x.seqs, adm := x.adm.filter fun j => j.field != f,
      snap := x.snap.map fun (q, a) => (keep q, a.filter fun j => j.field != f)
      attempt := x.attempt.map fun a => a.without f }
  let s := s.bump (R.SRV_LOST_CNT_COUNT c) lost
  if s.stepCurrent c then s.wf (R.SRV_LIVE_QUEUED c) (s.srv c).adm.length
  else
    let s := s.showServ c
    if s.cstate c = stBoundary then s.swapAtBoundary c else s

end Sys2Proof.Machine
end

