-- ==== Sys2Proof/Machine/Completion.lean ====
section
/-! DEFINITION. Command words, rings and completions (R354 to R359, R366, R367, R369). -/

namespace Sys2Proof.Machine

/-! ### Command words (R358) -/

/-- A 64-byte command as a number: byte 0 in bits 7 to 0. -/
abbrev CmdWord := BitVec 512

/-- `n` bytes of a command from byte `o`, little-endian. -/
def cmdAt (w : CmdWord) (o n : Nat) : Nat := (w.extractLsb' (8 * o) (8 * n)).toNat

/-- A command read from its bytes. -/
def cmdOfBytes (b : List Byte) : CmdWord := BitVec.ofNat 512 (leNat (b.take 64))

def CmdWord.opc (w : CmdWord) : Nat := cmdAt w 0 1
def CmdWord.bound (w : CmdWord) : Bool := w.getLsbD 8
def CmdWord.job (w : CmdWord) : Bool := w.getLsbD 9
def CmdWord.tree (w : CmdWord) : Bool := w.getLsbD 10
def CmdWord.irq (w : CmdWord) : Bool := w.getLsbD 11
def CmdWord.dep (w : CmdWord) : Bool := w.getLsbD 12
def CmdWord.step (w : CmdWord) : Nat := cmdAt w 4 4
def CmdWord.tag (w : CmdWord) : Nat := cmdAt w 8 4
def CmdWord.depq (w : CmdWord) : Nat := cmdAt w 12 2 % 2 ^ 13
def CmdWord.depseq (w : CmdWord) : Nat := cmdAt w 16 4

/-- The first byte of a command from `o` on, of `n`, that is not 0. -/
def firstNonzero (w : CmdWord) (o : Nat) : Nat → Option Nat
  | 0 => none
  | n + 1 => if cmdAt w o 1 ≠ 0 then some o else firstNonzero w (o + 1) n

/-! ### Queues -/

/-- R369: the queue enters ERROR. -/
def State.queueError (s : State) (q cause : Nat) : State :=
  if s.qState q = qError then s
  else
    let s := ((s.wf (R.QM_QSTAT_STATE q) qError).wf (R.QM_QSTAT_CAUSE q) cause).raiseFor Page.qmBase 0 (some (s.qCtx q))
    if s.flag R.QM_QERR_FIRST_VALID then s
    else (s.wf R.QM_QERR_FIRST_QUEUE q).wf R.QM_QERR_FIRST_VALID 1

/-- R354: the byte address of slot `seq` of a ring of `n`-byte entries. -/
def State.ringAddr (s : State) (q : Nat) (lo hi : Loc) (n seq : Nat) : Nat :=
  s.rf64 lo hi + n * (seq % 2 ^ s.qLog q)

/-- The address of command `seq`. -/
def State.cmdAddr (s : State) (q seq : Nat) : Nat :=
  s.ringAddr q (R.QM_QBASE_LO_ADDR q) (R.QM_QBASE_HI_ADDR q) 64 seq

/-- The address of the completion of command `seq`. -/
def State.cplAddr (s : State) (q seq : Nat) : Nat :=
  s.ringAddr q (R.QM_QCBASE_LO_ADDR q) (R.QM_QCBASE_HI_ADDR q) 16 seq

/-- The queue's rings lie in device memory. -/
def State.qLocal (s : State) (q : Nat) : Bool := s.flag (R.QM_QCFG_LOC q)

/-- Who reads and writes a queue's rings in device memory. -/
def State.qWho (s : State) (q : Nat) : Consumer := .cmd (s.qCtx q) (s.qFunc q)

/-- A command that has not reached the start position, as it stands in its ring. -/
def State.peekCmd (s : State) (rings : Rings) (q seq : Nat) : CmdWord :=
  let i := (seq + 2 ^ 32 - s.qStart q) % 2 ^ 32
  match i, (s.queue q).head with
  | 0, some w => w
  | _, _ =>
    if s.qLocal q then cmdOfBytes (s.peekHbm (s.cmdAddr q seq) 64)
    else (((rings.find? fun e => e.1 == q).map Prod.snd).getD []).getD i 0

/-- The sequence numbers from a queue's start position to its doorbell; none after a doorbell that left the ring (R355). -/
def State.unstarted (s : State) (q : Nat) : List Nat :=
  let n := (s.qDb q + 2 ^ 32 - s.qStart q) % 2 ^ 32
  if n ≤ 2 ^ s.qLog q then (List.range n).map fun i => (s.qStart q + i) % 2 ^ 32 else []

/-! ### Completions (R356, R359, R366) -/

/-- R366: the 16 bytes of a completion. -/
def State.cplBytes (s : State) (q : Nat) (c : QCmd) : List Byte :=
  let (st, detail) := c.fin.getD (0, 0)
  leBytes 4 c.seq ++ leBytes 1 st ++ leBytes 1 (1 - c.seq / 2 ^ s.qLog q % 2) ++ leBytes 1 c.opc ++ [0] ++
    leBytes 4 detail ++ leBytes 4 c.tag

/-- R369: a completion in device memory can be written. -/
def State.cplFits (s : State) (q a : Nat) : Bool :=
  s.inPartition (s.qCtx q) a 16 && s.writeOk (s.qCtx q) a 16 false false && !s.readBad a 16

/-- R296: the command is a COMMIT or ABORT, and the completion of a command of a step that has ended is still to be written
in another queue of the context. -/
def State.behindStep (s : State) (q : Nat) (c : QCmd) : Bool :=
  (c.opc == 0x41 || c.opc == 0x42) && (s.ctxQueues (s.qCtx q)).any fun r =>
    r != q && (s.queue r).cmds.any fun x => x.step.isSome && x.ready

/-- The completion of the queue's oldest command is due: the command has finished, and neither its step (R296), nor a step
that a COMMIT or ABORT has ended, nor sleeping or clearing memory (R154, R158) holds it back. -/
def State.cplDue (s : State) (q : Nat) : Option QCmd :=
  match (s.queue q).cmds with
  | c :: _ =>
    if c.fin.isSome && c.ready && !s.behindStep q c && !(s.qLocal q && s.hbmWaits (s.cplAddr q c.seq) 16) then some c
    else none
  | [] => none

/-- R359, R366, R369: the oldest command's completion is written, or discarded; `ok` is false when the host does not
take the write. -/
def State.writeCpl (s : State) (q : Nat) (ok : Bool) : State :=
  match s.cplDue q with
  | none => s
  | some c =>
    let y := s.queue q
    let s := s.setQueue q { y with cmds := y.cmds.drop 1 }
    let a := s.cplAddr q c.seq
    let good := if s.qLocal q then s.cplFits q a else ok
    let s := s.wf (R.QM_QDONE_COUNT q) (s.qDone q + 1)
    if good then
      let b := s.cplBytes q c
      let s := if s.qLocal q then s.hbmWrite (s.qWho q) a b else s.hostWrite (s.qFunc q) a b
      if c.irq || s.flag (R.QM_QCFG_IRQALL q) then s.sendMsg (s.qFunc q) (s.rf (R.QM_QCFG_VEC q)) else s
    else s.queueError q 3

/-- Every completion that is due of a queue whose rings lie in device memory, oldest first; `n` bounds their number. -/
def State.flushFuel (s : State) (q : Nat) : Nat → State
  | 0 => s
  | n + 1 => if (s.cplDue q).isSome then (s.writeCpl q true).flushFuel q n else s

/-- R296, R297: the completions of a queue that are due are written: at once in device memory; in host memory, which may fail
a write (R369), by COMPLETION_WRITE (log 16). -/
def State.flushQueue (s : State) (q : Nat) : State :=
  if s.qLocal q then s.flushFuel q (s.queue q).cmds.length else s

/-! ### Commands that pass the start position -/

/-- The record of a command at the start position of a queue. -/
def recordOf (w : CmdWord) (seq : Nat) (step : Option Nat) (fin : Option (Nat × Nat)) : QCmd :=
  { seq := seq, opc := w.opc, tag := w.tag, irq := w.irq, step := step, fin := fin, ready := fin.isSome && step.isNone }

/-- R359: the command at the start position passes it, as record `c`. -/
def State.passStart (s : State) (q : Nat) (c : QCmd) : State :=
  let y := s.queue q
  (s.setQueue q { y with head := none, go := false, cmds := y.cmds ++ [c] }).wf (R.QM_QSTART_COUNT q) (s.qStart q + 1)

/-- R297: commands at the start position that an abort ended pass it without starting. -/
def State.passDead (s : State) (q : Nat) : Nat → State
  | 0 => s
  | n + 1 =>
    let y := s.queue q
    match y.dead.find? fun c => c.seq == s.qStart q with
    | some c =>
      if s.qStart q = s.qDb q then s
      else (((s.setQueue q { y with dead := y.dead.filter fun d => d.seq != c.seq }).passStart q c)).passDead q n
    | none => s

/-! ### The commands of a step that ends (R296, R297, R437) -/

/-- R296: the held completions of a committed step may be written. -/
def State.releaseCmds (s : State) (c : Nat) : State :=
  (s.ctxQueues c).foldl (fun s q =>
    let y := s.queue q
    (s.setQueue q
      { y with cmds := y.cmds.map fun x => if x.step.isSome && x.fin.isSome then { x with ready := true } else x }).flushQueue
        q) s

/-- R297: every command of step `n` between the head and the doorbell of a queue completes ABORTED. -/
def State.abortQueue (s : State) (rings : Rings) (n q : Nat) : State :=
  let y := s.queue q
  let late := (s.unstarted q).filterMap fun seq =>
    let w := s.peekCmd rings q seq
    if w.bound && w.step == n && !(y.dead.any fun d => d.seq == seq) then some (recordOf w seq none (some (abortedStatus, 0)))
    else none
  let s := s.setQueue q
    { y with
      cmds := y.cmds.map fun x => if x.step = some n then { x with fin := some (abortedStatus, 0), ready := true } else x
      dead := y.dead ++ late }
  (s.passDead q late.length).flushQueue q

/-- R297: the same in every queue of the context. -/
def State.abortCmds (s : State) (rings : Rings) (c : Nat) : State :=
  let s := { s with copies := s.copies.filter fun x =>
    !(s.qCtx x.queue == c && (s.cmd? x.queue x.seq).any fun (k : QCmd) => k.step.isSome) }
  (s.ctxQueues c).foldl (fun s q => s.abortQueue rings (s.stepOf c) q) s

end Sys2Proof.Machine
end

