-- ==== Sys2Proof/Machine/Commit.lean ====
section
/-! DEFINITION. Steps: what BEGIN latches and resets (R57, R118, R194, R198, R209, R217, R284, R292, R302), how a step ends
by COMMIT, ABORT, ROLLBACK and ADOPT (R211, R296 to R300), commit groups and tokens (R302 to R308), STEP_READY (R295). -/

namespace Sys2Proof.Machine

/-! ### Latches (R57, R194, R198, R217, R284, R407) -/

/-- The early store of context `c` in field `f`: first byte and size in 64 KiB units, 0 when not wholly in the partition. -/
def State.earlyArea (s : State) (f c : Nat) : Nat × Nat :=
  let a := s.rf64 (R.COL_EARLY_LO_ADDR f c) (R.COL_EARLY_HI_ADDR f c)
  let n := s.rf (R.COL_EARLY_HI_SIZE f c)
  if n ≠ 0 ∧ s.inPartition c a (65536 * n) then (a, n) else (a, 0)

/-- R284: the runs as the registers stand. -/
def State.runsNow (s : State) (c : Nat) : List Nat := (List.range 4).map fun f => s.rf (R.COL_CTX_RUN f c)

/-- The lowest field of the context's mask. -/
def State.lowField (s : State) (c : Nat) : Nat := ((List.range 4).find? (s.inMask c)).getD 0

/-- R57: the per-step quantities, from the registers. -/
def State.freshLatch (s : State) (c : Nat) : StepLatch :=
  let fs := List.range 4
  { arith :=
      { ftz := s.flag (R.CTX_ARITH_FTZ_DRAIN c)
        e5m2Sat := s.flag (R.CTX_ARITH_E5M2_SAT c)
        mxHeadroom := s.flag (R.CTX_ARITH_MX_SCALE c) }
    k0 := s.reg (A.CTX_SR_SEED_LO c)
    k1 := s.reg (A.CTX_SR_SEED_HI c)
    compat := s.flag (R.CTX_TRAIN_COMPAT c)
    tied := s.flag (R.CTX_TRAIN_TIED c)
    frz := fs.map fun i => (s.rf (R.CTX_FRZ_BASE_BASE c i), s.rf (R.CTX_FRZ_LEN_LEN c i))
    split := s.flag (R.CTX_SEQ_MODE c)
    splitN := s.rf (R.CTX_SEQ_SPLIT_N c)
    splitPos := s.rf (R.CTX_SEQ_SPLIT_POS c)
    seqTok := s.rf (R.CTX_SEQ_TOK_TOKENS c)
    rwK := s.rf (R.CTX_RW_CTRL_K c)
    rwAlpha := s.rf (R.CTX_RW_CTRL_ALPHA_SH c)
    rwWarmup := s.rf (R.CTX_RW_CTRL_WARMUP c)
    rwReset := (s.ctx c).rwResetPending
    actwin := fs.map fun f => (s.rf (R.FLD_ACTWIN_BASE f c), s.rf (R.FLD_ACTWIN_SIZE f c))
    writeEn := fs.map fun f => s.flag (R.COL_CTX_WRITE_EN f c)
    early := fs.map fun f => s.earlyArea f c
    shadowEn := s.flag (R.CTX_SHADOW_EN c)
    shadowK := s.rf (R.CTX_SHADOW_K c) }

/-- R57, R284: what a BEGIN in `mode` latches; a replay keeps what step N latched, but for the runs. -/
def State.latchFor (s : State) (c mode : Nat) : StepLatch :=
  let l := if mode = 1 then (s.ctx c).latch else s.freshLatch c
  { l with runs := s.runsNow c, run := (s.runsNow c).getD (s.lowField c) 0 }

/-! ### Loss statistics (R211) -/

/-- R211: μ, σ² and n set to zero, with their previous copy. -/
def State.clearLoss (s : State) (c : Nat) : State :=
  let s := ((s.setReg (A.CTX_RW_MEAN c) 0).setReg (A.CTX_RW_VAR c) 0).wf (R.CTX_RW_COUNT_N c) 0
  s.setCtx c { s.ctx c with prevMu := 0, prevVar := 0, prevN := 0 }

/-- R211: mean and variance after a loss `x`, for α = 2^-a. -/
def foldLoss (a n : Nat) (mu var x : Word32) : Word32 × Word32 :=
  if n = 0 then (x, 0)
  else
    let al := (round32 false (.fin false 1 (-(a : Int)))).v
    let one : Word32 := 0x3F800000
    let d := fsub x mu
    (ffma al d mu, fmul (fsub one al) (ffma al (fmul d d) var))

/-- LOSS_FOLD (R211): the step's loss joins the committed statistics. -/
def State.lossFold (s : State) (c : Nat) : State :=
  let x := s.ctx c
  match s.stepLoss c with
  | none => s.setCtx c { x with folded := false }
  | some v =>
    if !(num32 v).isFinite then s.setCtx c { x with folded := false }
    else
      let mu := s.reg (A.CTX_RW_MEAN c)
      let var := s.reg (A.CTX_RW_VAR c)
      let n := s.rf (R.CTX_RW_COUNT_N c)
      let r := foldLoss x.latch.rwAlpha n mu var v
      let s := s.setCtx c { x with folded := true, prevMu := mu, prevVar := var, prevN := n }
      ((s.setReg (A.CTX_RW_MEAN c) r.1).setReg (A.CTX_RW_VAR c) r.2).wf (R.CTX_RW_COUNT_N c) (satAdd32 n 1)

/-- R211: a rollback restores the previous copy when its commit folded a loss. -/
def State.lossUnfold (s : State) (c : Nat) : State :=
  let x := s.ctx c
  if x.folded then
    ((s.setReg (A.CTX_RW_MEAN c) x.prevMu).setReg (A.CTX_RW_VAR c) x.prevVar).wf (R.CTX_RW_COUNT_N c) x.prevN
  else s

/-! ### Regions -/

/-- R285: an own region of the context. -/
def Region.own (r : Region) (c : Nat) : Bool := r.valid && !r.mirrorRole && r.ctx == c

/-- R296, R298, R299: L of every own region toggles, as one action. -/
def State.toggleOwn (s : State) (c : Nat) : State :=
  { s with regions := s.regions.map fun e => if e.2.own c then (e.1, { e.2 with live := !e.2.live }) else e }

/-- R289: the coverage bits of a region's fallow window are cleared. -/
def State.clearCover (s : State) (r : Region) : State :=
  { s with coverage := sclear s.coverage (r.field * 2 ^ 27 + r.copy1) (r.field * 2 ^ 27 + r.copy1 + r.len) }

/-- R289: the same for every own region of a context. -/
def State.clearCovers (s : State) (c : Nat) : State :=
  s.regions.foldl (fun s e => if e.2.own c then s.clearCover e.2 else s) s

/-! ### Tokens (R302 to R305) -/

def tkReady : Nat := 0
def tkCommit : Nat := 1
def tkAbort : Nat := 2
def tkMirrorCommit : Nat := 3
def tkMirrorRollback : Nat := 4

/-- R304: a token from context `c` to context `dctx` of device `dev`; the commit unit sends it as field 0's engine does
(log 17). -/
def State.sendToken (s : State) (c dev dctx kind gid step : Nat) : State :=
  s.sendPkt 0
    { ptype := 5, tc := 2, vc := 0, dst := dev, src := 0, dctx := dctx, len := 0, life := 0, opid := gid, step := step,
      addr := 0, aux := kind + 16 * c + 2 ^ 40 * (s.ctx c).latch.run, own := some c, payload := [] }

/-- R296, R297: a token to every group child. -/
def State.tellChildren (s : State) (c kind step : Nat) : State :=
  match (s.ctx c).group with
  | none => s
  | some g => g.children.foldl (fun s k => s.sendToken c k.1 k.2 kind g.gid step) s

/-- R304, R308: a token to every partner of a mirrored own region, one for each partner context. -/
def State.tellMirrors (s : State) (c kind step : Nat) : State :=
  let ps := (s.regions.filterMap fun e =>
    if e.2.own c && e.2.mirrored then some (e.2.partDev, e.2.partCtx) else none).eraseDups
  ps.foldl (fun s p => s.sendToken c p.1 p.2 kind (((s.ctx c).group.map Group.gid).getD 0) step) s

/-- R302: the 64 bytes of a group descriptor. -/
def Group.parse (b : List Byte) : Group :=
  let n := leAt b 8 1
  { gid := leAt b 0 4, parent := leAt b 4 3, pctx := leAt b 7 1 % 64, root := (leAt b 7 1).testBit 6,
    auto := (leAt b 7 1).testBit 7,
    children := (List.range n).map fun i => (leAt b (16 + 4 * i) 3, leAt b (19 + 4 * i) 1 % 64) }

/-- R302: the descriptor breaks its rules. -/
def badGroup (b : List Byte) : Bool :=
  leAt b 8 1 > 8 || !zeroAt b 9 7 || !zeroAt b 48 16 || (List.range 8).any fun i => leAt b (19 + 4 * i) 1 / 64 != 0

/-- R302: the address of the group descriptor. -/
def State.groupAt (s : State) (c : Nat) : Nat := s.rf64 (R.CMT_CGRP_LO_ADDR c) (R.CMT_CGRP_HI_ADDR c)

/-- R302: BEGIN would be INVALID for its group descriptor. -/
def State.groupInvalid (s : State) (c : Nat) : Bool :=
  s.flag (R.CMT_CGRP_HI_EN c) &&
    (s.groupAt c % 64 != 0 || !s.inPartition c (s.groupAt c) 64 || badGroup (s.peekHbm (s.groupAt c) 64))

/-- R302: BEGIN reads and latches the group descriptor. -/
def State.latchGroup (s : State) (c : Nat) : State :=
  if s.flag (R.CMT_CGRP_HI_EN c) then
    let (b, s) := s.hbmRead (.cmd c (s.client c)) (s.groupAt c) 64
    s.setCtx c { s.ctx c with group := some (Group.parse b) }
  else s.setCtx c { s.ctx c with group := none }

/-! ### Commit (R296) -/

/-- R296: COMMIT N of a READY step. -/
def State.commitStep (s : State) (c : Nat) : State :=
  let n := s.stepOf c
  let serves := s.serving c
  let s := ((s.toggleOwn c).lossFold c).releaseCmds c
  let s := ((s.tellChildren c tkCommit n).tellMirrors c tkMirrorCommit n)
  let s := s.setCtx c { s.ctx c with aborted := none }
  let s := ((s.wf (R.CMT_CSTAT_STATE c) stBoundary).wf (R.CMT_CSTEP_C c) n).wf (R.CMT_CSTAT_RB c)
    (if serves then 0 else 1)
  let s := ((s.wf (R.CMT_CSTAT_FWRITTEN c) 0).wf (R.CMT_CSTAT_CHILD_READY c) 0).wf (R.CMT_CSTAT_SUBTREE c) 0
  let s := (s.wf (R.CMT_CSTAT_REPLAYABLE c) 0).bump (R.CMT_CCOMMIT_COUNT c) 1
  if serves then
    let qs := ((s.srv c).held.map Taken.queue).eraseDups
    qs.foldl State.flushQueue (s.servCommit c)
  else s

/-! ### Readiness of a subtree (R303) -/

/-- R303: all children of the latched group have reported. -/
def State.childrenReady (s : State) (c : Nat) (g : Group) : Bool :=
  (List.range g.children.length).all fun i => (s.rf (R.CMT_CSTAT_CHILD_READY c)).testBit i

/-- READY_TOKEN_SEND (R303): the subtree is ready: READY to the parent, or SUBTREE and its event, or the root's own
commit. -/
def State.subtreeReady (s : State) (c : Nat) : State :=
  match (s.ctx c).group with
  | none => s
  | some g =>
    if s.cstate c ≠ stReady ∨ !s.childrenReady c g then s
    else if !g.root then s.sendToken c g.parent g.pctx tkReady g.gid (s.stepOf c)
    else
      let s := (s.wf (R.CMT_CSTAT_SUBTREE c) 1).ctxEvent c 3
      if g.auto then s.commitStep c else s

/-- R295: a bound command of the current step lies unstarted in a queue of the context. -/
def State.stepQueued (s : State) (rings : Rings) (c : Nat) : Bool :=
  (s.ctxQueues c).any fun q => (s.unstarted q).any fun seq =>
    let w := s.peekCmd rings q seq
    w.bound && w.step == s.stepOf c && !((s.queue q).dead.any fun d => d.seq == seq)

/-- R295: every READY condition holds. -/
def State.readyNow (s : State) (rings : Rings) (c : Nat) : Bool :=
  s.cstate c == stRunning && s.allStepped c && !s.stepWork c && !s.cmdsOpen c && !s.stepQueued rings c &&
    s.uncovered c == 0 && s.mirrorsDrained c && (s.ctx c).reported && s.rf (R.CMT_CSTAT_BLOCK c) == 0

/-- R280, R295, R303: STEP_READY: the device finds the conditions of context `c` met; otherwise mirrors whose writes are over
are sent their END, a report that waited for its ring is made, and a look at the queues is remembered (log 6). -/
def execStepReady (c : Fin 64) (rings : Rings) (s : State) : Out :=
  if s.readyNow rings c then .next (((s.wf (R.CMT_CSTAT_STATE c) stReady).ctxEvent c 0).subtreeReady c)
  else
    let queued := s.stepQueued rings c
    let s := if queued || !s.stepCurrent c then s else s.setCtx c { s.ctx c with settled := true }
    .next (if s.allStepped c && s.stepCurrent c then (s.reportDue c).mirrorEnds c queued else s)

/-! ### Abort (R297) -/

/-- The banks that operations not of context `c` have filled; banks stand in the order of their operations. -/
def keepBanks (c : Nat) : List MmaOp → List Bank → List Bank
  | [], _ => []
  | o :: t, b =>
    let n := o.nextFill - o.nextPass
    (if o.owner.ctx = c then [] else b.take n) ++ keepBanks c t (b.drop n)

/-- R54, R297: the operations of context `c` on a furrow are abandoned, and the counters of those of its step `step` that have
retired are discarded. -/
def FurrowSt.abandon (x : FurrowSt) (c step : Nat) : FurrowSt :=
  { x with
    mmas := x.mmas.filter fun o => o.owner.ctx != c
    banks := keepBanks c x.mmas x.banks
    drns := x.drns.filter fun o => o.owner.ctx != c
    vops := x.vops.filter fun o => o.owner.ctx != c
    glns := x.glns.filter fun o => o.owner.ctx != c
    vopDone := x.vopDone.filter fun e => !(e.2.1.ctx == c && e.2.1.step == step) }

/-- R297: the slots of a quota hold undefined contents (index `i`); shape, layout and overflow flag stay (R94). -/
def FurrowSt.undefSlots (x : FurrowSt) (base count i : Nat) : FurrowSt :=
  (List.range count).foldl (fun x k =>
    let sl := x.slot (base + k)
    x.setSlot (base + k) { sl with undef := some i, lev := [], lane := [], forces := [], shadow := none }) x

/-- R185, R193, R297: the context's slots, gleaning shares and sheaf shares hold undefined contents (log 3). -/
def State.undefOnChip (s : State) (c : Nat) : State :=
  let (i, s) := s.fresh
  (List.range 4).foldl (fun s f =>
    let s := (List.range 26).foldl (fun s n =>
      let s := s.setFur f n ((s.fur f n).undefSlots (s.rf (R.FLD_ACQ_BASE c f)) (s.rf (R.FLD_ACQ_COUNT c f)) i)
      let u := furKey f n * 128 + s.rf (R.FLD_GLQ_BASE c f)
      { s with glean := s.glean.undefUnits gleanUnit u (u + s.rf (R.FLD_GLQ_SIZE c f)) i }) s
    let u := f * 1024 + s.rf (R.FLD_SHEAF_BASE f c)
    { s with sheaf := s.sheaf.undefUnits unit64K u (u + s.rf (R.FLD_SHEAF_SIZE f c)) i }) s

/-- R146, R297, R438: a stream returns to idle, and its fence ends. -/
def State.idleStream (s : State) (p : At) : State :=
  (s.setSt p { (s.st p) with
    state := .idle, wait := .none, cur := none, launches := [], buf := [], arrived := none, stepped := false,
    gotLaunch := false, loss := none, qsum := 0 }).endFence (.stream p.f p.n p.c p.k)

/-- R297: the launches, transfers and collective operations of the context stop. -/
def State.stopWork (s : State) (c : Nat) : State :=
  let s := (s.streamsOf c).foldl State.idleStream s
  let keep := fun (l : List Xfer) => l.filter fun x => x.owner.ctx != c
  let s :=
    { s with
      furrows := s.furrows.map fun e => (e.1, e.2.abandon c (s.stepOf c))
      seqRuns := s.seqRuns.filter fun r => r.ctx != c
      shadows := s.shadows.filter fun x => x.owner.ctx != c
      barriers := s.barriers.filter fun e =>
        !(if e.1 < 2 ^ 20 then e.1 / 16 % 64 == c else e.1 % 2 ^ 20 / 16 % 64 == c)
      dma := s.dma.map fun e =>
        (e.1,
          { waiting := keep e.2.waiting, handoff := keep e.2.handoff,
            active := e.2.active.filter fun x => x.2.owner.ctx != c })
      engines := s.engines.map fun e =>
        (e.1,
          { e.2 with
            ops := e.2.ops.filter fun o => o.ctx != c
            waiting := e.2.waiting.filter fun w => w.ctx != c }) }
  (List.range 4).foldl (fun s f => ((s.feedDma f).showOps f).nextWaiting f) s

/-- R297, R300: the step of the context is abandoned: work, totals, coverage and commands. -/
def State.abandonStep (s : State) (rings : Rings) (c : Nat) : State :=
  let s := ((s.stopWork c).undefOnChip c).clearCovers c
  let s := s.setCtx c { s.ctx c with totals := {}, gradNf := 0, lossPosts := 0, reported := false }
  let s := ((s.wf (R.CMT_CSTAT_BLOCK c) 0).wf (R.CMT_CSTAT_FWRITTEN c) 0).wf (R.CMT_CSTAT_CHILD_READY c) 0
  (s.wf (R.CMT_CSTAT_SUBTREE c) 0).abortCmds rings c

/-- R297: ABORT of the current step; `tree` sends ABORT tokens to the children. -/
def State.abortStep (s : State) (rings : Rings) (c : Nat) (tree : Bool) : State :=
  let n := s.stepOf c
  let serves := s.serving c
  let s := s.abandonStep rings c
  let s := s.setCtx c { s.ctx c with aborted := some n }
  let s := ((s.wf (R.CMT_CSTAT_STATE c) stBoundary).wf (R.CMT_CSTAT_REPLAYABLE c) 1).bump (R.CMT_CABORT_COUNT c) 1
  let s := if tree then s.tellChildren c tkAbort n else s
  if serves then s.servAbort c else s

/-! ### Rollback and adopt (R298, R299) -/

/-- R298. -/
def State.rollbackStep (s : State) (c : Nat) : State :=
  let n := s.rf (R.CMT_CSTEP_C c)
  let s := ((s.toggleOwn c).lossUnfold c).tellMirrors c tkMirrorRollback n
  (s.wf (R.CMT_CSTEP_C c) (n + 2 ^ 32 - 1)).wf (R.CMT_CSTAT_RB c) 0

/-- R299, R333: ADOPT N; a serving context reaches BOUNDARY. -/
def State.adoptStep (s : State) (c n : Nat) : State :=
  let s := (((s.toggleOwn c).wf (R.CMT_CSTAT_STATE c) stBoundary).wf (R.CMT_CSTEP_C c) n).wf (R.CMT_CSTAT_RB c) 0
  if s.serving c then s.swapAtBoundary c else s

/-! ### Begin (R292) -/

/-- R294, R292: why a BEGIN of step `n` in `mode` is STATE. -/
def State.beginRefused (s : State) (c n mode : Nat) : Bool :=
  let st := s.cstate c
  !(st == stReset || (st == stBoundary && n == (s.rf (R.CMT_CSTEP_C c) + 1) % 2 ^ 32)) ||
    (mode == 1 && (s.ctx c).aborted != some n) ||
    (s.serving c && mode == 1 && ((s.srv c).attempt.isNone || (s.srv c).attemptEpoch != s.rf (R.SRV_EPOCH_EPOCH c)))

/-- R118, R194: semaphores, barriers and gauges of the context at a begin. -/
def State.beginFields (s : State) (c : Nat) : State :=
  let s :=
    { s with
      sems := s.sems.filter fun e => e.1 / 256 % 64 != c
      barriers := s.barriers.filter fun e =>
        !(if e.1 < 2 ^ 20 then e.1 / 16 % 64 == c else e.1 % 2 ^ 20 / 16 % 64 == c) }
  (List.range 4).foldl (fun s f =>
    let s := s.wf (R.FLD_GAUGE_SH_LAST f c) (s.rf (R.FLD_GAUGE_SH_PEAK f c))
    let s := s.wf (R.FLD_GAUGE_HBL_LAST f c) (s.rf (R.FLD_GAUGE_HB_PEAK f c))
    (s.wf (R.FLD_GAUGE_SH_PEAK f c) 0).wf (R.FLD_GAUGE_HB_PEAK f c) 0) s

/-- R262, R277, R284: the engines at a begin: ended operations, unclaimed prefetches and what the last step left are
forgotten, but an operation of an unbound command goes on; stored packets of an older step or another run are discarded with
cause 3. -/
def State.beginEngines (s : State) (c : Nat) : State :=
  let n := s.stepOf c
  (List.range 4).foldl (fun s f =>
    let e := s.eng f
    let stale := fun (x : Nat × Pkt) =>
      x.1 == c && (x.2.run != (s.ctx c).latch.runs.getD f 0 || (x.2.step != n && (n + 2 ^ 32 - x.2.step) % 2 ^ 32 < 2 ^ 31))
    let s := s.setEng f
      { e with
        ops := e.ops.filter fun o => o.ctx != c || (!o.bound && !o.done && o.users != [ColUser.prefetch])
        closed := e.closed.filter fun x => x.1 != c
        early := e.early.filter fun x => !stale x }
    let s := (e.early.filter stale).foldl (fun s x => s.discardPkt f x.2 3) s
    ((((s.showEarly f c).showOps f).easeEarly f)).nextWaiting f) s

/-- R305: the child that sent the token has reported already. -/
def State.reported (s : State) (c : Nat) (g : Group) (t : Token) : Bool :=
  match g.children.findIdx? fun k => k == (t.src, t.sctx) with
  | some i => (s.rf (R.CMT_CSTAT_CHILD_READY c)).testBit i
  | none => false

/-- R303, R305: a READY token held for the step is matched against the new descriptor and run; the first check that fails. -/
def State.heldCause (s : State) (c : Nat) (t : Token) : Option Nat :=
  match (s.ctx c).group with
  | none => some 1
  | some g =>
    if t.gid != g.gid || !g.children.contains (t.src, t.sctx) then some 1
    else if t.run != (s.ctx c).latch.run then some 2
    else if t.step != s.stepOf c || s.reported c g t then some 3
    else none

/-- R305: a token is discarded: counted, the first one recorded, the source raised. -/
def State.dropToken (s : State) (t : Token) (cause : Nat) : State :=
  let s := (s.bump R.CMT_TOK_DROP_COUNT 1).raiseSrc Page.commitBase 0
  if s.flag R.CMT_TOK_INFO_VALID then s
  else (((((s.wf R.CMT_TOK_INFO_CAUSE cause).wf R.CMT_TOK_INFO_KIND t.kind).wf R.CMT_TOK_INFO_DCTX t.dctx).wf
    R.CMT_TOK_INFO_VALID 1).wf R.CMT_TOK_SRC_SRC t.src).wf R.CMT_TOK_STEP_STEP t.step

/-- R303: a READY token accepted: the bit of its child is set. -/
def State.markChild (s : State) (c : Nat) (t : Token) : State :=
  match (s.ctx c).group with
  | none => s
  | some g =>
    match g.children.findIdx? fun k => k == (t.src, t.sctx) with
    | none => s
    | some i => s.wf (R.CMT_CSTAT_CHILD_READY c) (s.rf (R.CMT_CSTAT_CHILD_READY c) ||| 2 ^ i)

/-- R303: the READY tokens held for the step. -/
def State.takeHeld (s : State) (c : Nat) : State :=
  let l := (s.ctx c).held
  let s := s.setCtx c { s.ctx c with held := [] }
  l.foldl (fun s t =>
    match s.heldCause c t with
    | some k => s.dropToken t k
    | none => s.markChild c t) s

/-- R144, R209: the streams of a context at a begin. -/
def State.beginStreams (s : State) (c : Nat) : State :=
  (s.streamsOf c).foldl (fun s p =>
    s.setSt p { s.st p with stepped := false, gotLaunch := false, qsum := 0, loss := none }) s

/-- R292: step `n` becomes the current step. -/
def State.beginStep (s : State) (c n mode : Nat) : State :=
  let l := s.latchFor c mode
  let x := s.ctx c
  let s := s.setCtx c
    { x with
      latch := l, rwResetPending := false, totals := {}, gradNf := 0, lossPosts := 0, reported := false, settled := false,
      aborted := if mode = 1 then x.aborted else none }
  let s := if l.rwReset then s.clearLoss c else s
  let s := ((s.wf (R.CMT_CCUR_N c) n).wf (R.CMT_CSTAT_MODE c) mode).wf (R.CMT_CSTAT_BLOCK c) 0
  let s := ((s.wf (R.CMT_CSTAT_FWRITTEN c) 0).wf (R.CMT_CSTAT_CHILD_READY c) 0).wf (R.CMT_CSTAT_SUBTREE c) 0
  let s := if mode = 1 then s else s.wf (R.CMT_CSTAT_REPLAYABLE c) 0
  let s := s.wf (R.CMT_CSTAT_STATE c) stRunning
  let s := (((s.latchGroup c).beginFields c).beginStreams c).clearCovers c
  let s := ((s.beginEngines c).mirrorBegins c).takeHeld c
  if s.maskFenced c then s.blockCause c 5 else s

/-! ### Tokens that arrive (R303 to R305, R308) -/

/-- R304: a token packet read. -/
def Token.of (x : Pkt) : Token :=
  { src := x.src, sctx := x.aux / 16 % 64, dctx := x.dctx, gid := x.opid, step := x.step, kind := x.aux % 16,
    run := x.aux / 2 ^ 40 % 256, len := x.len, auxReserved := x.aux % 16 > 4 || x.aux / 2 ^ 10 % 2 ^ 30 != 0 }

/-- R308: the mirror regions of a destination context that mirror the source of a token. -/
def State.mirrorsOf (s : State) (t : Token) : List Nat := s.mirrorsFrom t.dctx t.src t.sctx

/-- The token goes to a step that is not yet begun: READY for C + 1 at BOUNDARY (R303). -/
def State.holdsToken (s : State) (t : Token) : Bool :=
  t.kind == tkReady && s.cstate t.dctx == stBoundary && t.step == (s.rf (R.CMT_CSTEP_C t.dctx) + 1) % 2 ^ 32

/-- R305 checks 1 to 3 of READY, COMMIT and ABORT. -/
def State.groupCause (s : State) (t : Token) : Option Nat :=
  let c := t.dctx
  match (s.ctx c).group with
  | none => some 1
  | some g =>
    let from_ := if t.kind = tkReady then g.children.contains (t.src, t.sctx)
      else !g.root && g.parent == t.src && g.pctx == t.sctx
    if t.gid != g.gid || !from_ then some 1
    else if t.run != (s.ctx c).latch.run then some 2
    else if !s.stepCurrent c || t.step != s.stepOf c || (t.kind == tkReady && s.reported c g t) ||
        (t.kind == tkCommit && s.cstate c != stReady) then some 3
    else none

/-- R305 checks 1 to 3 of MIRROR_COMMIT and MIRROR_ROLLBACK; a MIRROR_COMMIT of a pair that is not drained passes here
and raises its own source (R308). -/
def State.mirrorCause (s : State) (t : Token) : Option Nat :=
  let rs := (s.mirrorsOf t).map s.region
  if rs.isEmpty then some 1
  else if rs.any fun r => r.run != t.run then some 2
  else if rs.all fun r =>
      if t.kind = tkMirrorCommit then !r.kept || r.kstep != t.step || r.flipped
      else !r.back || r.mstep != t.step then some 3
  else none

/-- R305: the first check that fails; a token of a reserved kind has none of check 1. -/
def State.tokenCause (s : State) (t : Token) : Option Nat :=
  let last := if t.len != 0 || t.auxReserved then some 4 else none
  if !s.resident t.dctx then some 0
  else if t.kind > 4 then
    if t.run != (s.ctx t.dctx).latch.run then some 2
    else if !s.stepCurrent t.dctx || t.step != s.stepOf t.dctx then some 3 else some 4
  else if s.holdsToken t then if (s.ctx t.dctx).held.length ≥ 8 then some 3 else last
  else match if t.kind ≥ 3 then s.mirrorCause t else s.groupCause t with
    | some k => some k
    | none => last

/-- R305: a token of kind `k` that port `p` has delivered (8 + f for field f's own engine): refused, or acted on. A token
of a reserved kind is refused by whichever token command takes it. -/
def State.takeToken (s : State) (p vc k : Nat) (act : Token → State → State) : State :=
  match takeInbox p 2 vc s.inbox with
  | none => s
  | some (x, rest) =>
    let t := Token.of x
    if x.ptype ≠ 5 ∨ (t.kind ≠ k ∧ t.kind ≤ 4) then s
    else
      let s := s.consume p x rest
      match s.tokenCause t with
      | some c => s.dropToken t c
      | none => act t s

/-- R303: TOKEN_READY. -/
def execTokenReady (p : Fin 12) (vc : Fin 2) (s : State) : Out :=
  .next (s.takeToken p vc tkReady fun t s =>
    if s.holdsToken t then s.setCtx t.dctx { s.ctx t.dctx with held := (s.ctx t.dctx).held ++ [t] }
    else (s.markChild t.dctx t).subtreeReady t.dctx)

/-- R296, R303: TOKEN_COMMIT. -/
def execTokenCommit (p : Fin 12) (vc : Fin 2) (s : State) : Out :=
  .next (s.takeToken p vc tkCommit fun t s => s.commitStep t.dctx)

/-- R297: TOKEN_ABORT; an accepted ABORT token is forwarded to the children. -/
def execTokenAbort (p : Fin 12) (vc : Fin 2) (rings : Rings) (s : State) : Out :=
  .next (s.takeToken p vc tkAbort fun t s => s.abortStep rings t.dctx true)

/-- R308: TOKEN_MIRROR_COMMIT: every mirror region of the source context flips, once its pair is drained. -/
def execTokenMirrorCommit (p : Fin 12) (vc : Fin 2) (s : State) : Out :=
  .next (s.takeToken p vc tkMirrorCommit fun t s =>
    let rs := s.mirrorsOf t
    if rs.all fun i => (s.region i).drained && (s.region i).kstep == t.step then
      rs.foldl (fun s i => s.setRegion i ((s.region i).flip t.step false)) s
    else s.raiseSrc Page.commitBase 1)

/-- R308: TOKEN_MIRROR_ROLLBACK: the regions flip back. -/
def execTokenMirrorRollback (p : Fin 12) (vc : Fin 2) (s : State) : Out :=
  .next (s.takeToken p vc tkMirrorRollback fun t s =>
    (s.mirrorsOf t).foldl (fun s i =>
      let r := s.region i
      if r.back && r.mstep == t.step then
        s.setRegion i
          { r with
            live := !r.live, mstep := (t.step + 2 ^ 32 - 1) % 2 ^ 32, back := false
            flipped := r.flipped && r.kstep != t.step }
      else s) s)

end Sys2Proof.Machine
end

