-- ==== Sys2Proof/Machine/Queue.lean ====
section
/-! DEFINITION. The queue manager: what decides a command at the start position (R291, R359 to R362, R368, R370), and the
commands NOP, COPY, FILL, COLL, COMMIT, ABORT, ROLLBACK, ADOPT and LEND (R294, R364, R365, R378). -/

namespace Sys2Proof.Machine

/-! ### The start position (R291, R360, R362, R436) -/

/-- What a check at the start position decides: the command waits, it ends there with a status and detail, or it may
start. -/
inductive Verdict where
  | wait
  | stop (status detail : Nat)
  | go
deriving DecidableEq, Repr

/-- R361: an opcode's row: its class (`none` for any), whether `BOUND` may be 0 and may be 1, and whether only the physical
function may carry it. -/
structure OpRow where
  cls : Option Nat
  unbound : Bool
  bound : Bool
  pf : Bool

/-- R361. -/
def opRow (opc : Nat) : Option OpRow :=
  match opc with
  | 0x00 => some ⟨none, true, true, false⟩
  | 0x10 | 0x11 => some ⟨some 0, false, true, false⟩
  | 0x20 | 0x21 => some ⟨some 1, true, true, false⟩
  | 0x30 => some ⟨some 2, true, true, false⟩
  | 0x40 | 0x41 | 0x42 | 0x43 | 0x44 => some ⟨some 3, true, false, false⟩
  | 0x48 | 0x49 | 0x4A | 0x4C | 0x4D | 0x4E | 0x50 => some ⟨some 3, true, false, true⟩
  | 0x60 | 0x61 | 0x62 | 0x63 | 0x64 => some ⟨some 4, true, false, false⟩
  | _ => none

/-- R358: each byte of a range that is not 0, as a failing check that names it. -/
def reservedBytes (w : CmdWord) (o n : Nat) : List (Bool × Nat) :=
  (List.range n).map fun i => (cmdAt w (o + i) 1 != 0, o + i)

/-- R362 group 1: the first offending byte of the header. -/
def headerByte (w : CmdWord) (cls : Nat) : Option Nat :=
  let row := opRow (cmdAt w 0 1)
  let b1 := cmdAt w 1 1
  let bound := b1.testBit 0
  lowest ([
    (row.isNone || row.any fun r => r.cls.any fun k => k != cls, 0),
    ((row.any fun r => if bound then !r.bound else !r.unbound) || b1 / 32 != 0 || (b1.testBit 2 && cmdAt w 0 1 != 0x42), 1)] ++ reservedBytes w 2 2 ++ [(!bound && cmdAt w 4 4 != 0, 4), (cmdAt w 12 2 / 2 ^ 13 != 0, 13)] ++
    reservedBytes w 14 2 ++ reservedBytes w 20 12)

/-- R360: the byte of the `DEP` field that makes the command INVALID. -/
def State.depInvalid (s : State) (q seq : Nat) (w : CmdWord) : Option Nat :=
  if !w.dep then none
  else lowest [(s.qFunc w.depq != s.qFunc q, 12),
    (w.depq == q && (let k := (w.depseq + 2 ^ 32 - seq) % 2 ^ 32; k != 0 && k < 2 ^ 31), 16)]

/-- R367: the `DETAIL` of STATE: the context's state, and for a serve command its swap state. -/
def State.stateDetail (s : State) (q : Nat) (w : CmdWord) : Nat :=
  let c := s.qCtx q
  s.cstate c + if 0x60 ≤ w.opc ∧ w.opc ≤ 0x64 then 256 * s.swap c else 0

/-- R360: what the wait for another queue decides. -/
def State.depVerdict (s : State) (q : Nat) (w : CmdWord) : Verdict :=
  let d := w.depq
  if !w.dep then .go
  else if s.qState d = qDisabled ∨ s.qState d = qError then .stop stStatus (s.stateDetail q w)
  else if (s.qDone d + 2 ^ 32 - w.depseq) % 2 ^ 32 < 2 ^ 31 then .go
  else .wait

/-- R291: step `a` is ahead of step `b`. -/
def ahead (a b : Nat) : Bool := let k := (a + 2 ^ 32 - b) % 2 ^ 32; k != 0 && k < 2 ^ 31

/-- R291: what the step of a bound command decides. -/
def State.stepVerdict (s : State) (c n : Nat) : Verdict :=
  let st := s.cstate c
  if st = stReset then .wait
  else if st = stBoundary then if ahead n (s.rf (R.CMT_CSTEP_C c)) then .wait else .stop stStatus st
  else if (st = stRunning ∨ st = stBlocked) ∧ n = s.stepOf c then .go
  else if ahead n (s.stepOf c) then .wait
  else .stop stStatus st

/-- R360, R362, R436: what ends a command at the start position before its argument area is looked at: its queue's fence, its
header, its privilege, its `DEP` fields. -/
def State.headStop (s : State) (q seq : Nat) (w : CmdWord) : Option (Nat × Nat) :=
  if s.qState q = qFenced then some (fencedStatus, 0)
  else match headerByte w (s.qClass q) with
    | some b => some (invalid, b)
    | none =>
      if ((opRow w.opc).any fun r => r.pf) && s.qFunc q != 0 then some (authStatus, 0)
      else (s.depInvalid q seq w).map fun b => (invalid, b)

/-- R291, R360, R362, R368, R436: the checks at the start position besides those of the argument area. -/
def State.startVerdict (s : State) (q seq : Nat) (w : CmdWord) : Verdict :=
  match s.headStop q seq w with
  | some (st, d) => .stop st d
  | none =>
    match s.depVerdict q w with
    | .go => if w.bound then s.stepVerdict (s.qCtx q) w.step else .go
    | v => v

/-- R359: a command that ends at the start position belongs to no step. -/
def State.stopCmd (s : State) (q : Nat) (w : CmdWord) (status detail : Nat) : State :=
  s.passStart q (recordOf w (s.qStart q) none (some (status, detail)))

/-- R354, R369: the device reads the command at the start position; `ring` is what host memory holds there, `none` for a
failed read. -/
def State.readCmd (s : State) (q : Nat) (ring : Option CmdWord) : Option CmdWord × State :=
  match (s.queue q).head with
  | some w => (some w, s)
  | none =>
    if s.qLocal q then
      let a := s.cmdAddr q (s.qStart q)
      if !s.inPartition (s.qCtx q) a 64 then (none, s)
      else
        let bad := s.readBad a 64
        let (b, s) := s.hbmRead (s.qWho q) a 64
        if bad then (none, s) else (some (cmdOfBytes b), s)
    else (ring, s)

/-- R359: the queue may pass commands on. -/
def State.mayStart (s : State) (q : Nat) : Bool :=
  (s.qState q == qActive || s.qState q == qFenced) && s.qStart q != s.qDb q

/-- R154, R158: the read of the next command of a ring in device memory would wait. -/
def State.ringWaits (s : State) (q : Nat) : Bool :=
  s.qLocal q && (s.queue q).head.isNone && s.hbmWaits (s.cmdAddr q (s.qStart q)) 64

/-- R359: the queue has a command to start that is not yet with its row and can be read. -/
def State.toStart (s : State) (q : Nat) : Bool := s.mayStart q && !(s.queue q).go && !s.ringWaits q

/-- R359: how far queue `q` stands behind the one served last, in ascending number. -/
def State.turnOf (s : State) (q : Nat) : Nat := (q + 8191 - s.qmLast) % 8192

/-- R359: queue `q` is the next to be served: queues with commands to start are served in rotation by ascending number. -/
def State.hasTurn (s : State) (q : Nat) : Bool :=
  s.toStart q && s.liveQueues.all fun r => !s.toStart r || s.turnOf q ≤ s.turnOf r

/-- R359 to R362: COMMAND_START: the command at the start position of queue `q`, whose turn it is, is read; it ends there by a
check that precedes the argument area, or goes to its own row, which decides the rest and carries it out. -/
def execCommandStart (q : Fin 8192) (ring : Option CmdWord) (s : State) : Out :=
  if !s.hasTurn q then .next s
  else
    let s := { s with qmLast := q }
    if (s.queue q).dead.any fun d => d.seq == s.qStart q then .next (s.passDead q (s.queue q).dead.length)
    else
      let (w?, s) := s.readCmd q ring
      match w? with
      | none => .next (s.queueError q 2)
      | some w =>
        match s.headStop q (s.qStart q) w with
        | some (st, d) => .next (s.stopCmd q w st d)
        | none => .next (s.setQueue q { s.queue q with head := some w, go := true })

/-- R366, R369: COMPLETION_WRITE: the completion of the queue's oldest command, once it is due; `ok` tells whether the host
took the write. -/
def execCompletionWrite (q : Fin 8192) (ok : Bool) (s : State) : Out := .next (s.writeCpl q ok)

/-! ### Carrying a command out -/

/-- What the argument checks of a command decide: it ends at the start position, waits there, or starts, with an effect. -/
inductive Begun where
  | stop (status detail : Nat)
  | wait
  | run (f : State → State)

/-- R370, R384: one more job of a client; the count saturates at 64 bits. -/
def State.countJob (s : State) (u : Nat) : State :=
  let v := min (s.rf64 (R.HIF_JOB_LO_COUNT u) (R.HIF_JOB_HI_COUNT u) + 1) (2 ^ 64 - 1)
  (s.wf (R.HIF_JOB_LO_COUNT u) v).wf (R.HIF_JOB_HI_COUNT u) (v / 2 ^ 32)

/-- A command that was started and found INVALID in what it names has not started after all (R359, R362). -/
def State.unstartInvalid (s : State) (q seq : Nat) : State :=
  match s.cmd? q seq with
  | some c => if (c.fin.map Prod.fst) = some invalid then s.setCmd q { c with step := none, ready := true } else s
  | none => s

/-- R359, R370: the command at the start position of queue `q` starts: it becomes one of the step's when bound, and takes
effect. -/
def State.launchCmd (s : State) (q : Nat) (w : CmdWord) (f : State → State) : State :=
  let seq := s.qStart q
  let s := s.passStart q (recordOf w seq (if w.bound then some w.step else none) none)
  let s := (f s).unstartInvalid q seq
  let inv := (s.cmd? q seq).any fun c => (c.fin.map Prod.fst) == some invalid
  if w.job && !inv then s.countJob (s.qFunc q) else s

/-- The command is INVALID. -/
def Begun.isInvalid : Begun → Bool
  | .stop st _ => st == invalid
  | _ => false

/-- R359, R362, R368: the command of opcode `opc` that COMMAND_START has passed on from queue `q` is decided for the state it
meets and carried out: header and privilege first, then INVALID of its argument area, then what it waits for or why the state
does not allow it. With no such command nothing changes (log 6). -/
def runCmd (q opc : Nat) (body : CmdWord → Nat → State → Begun) (s : State) : State :=
  match (s.queue q).head with
  | none => s
  | some w =>
    if !(s.queue q).go || CmdWord.opc w != opc || !s.mayStart q then s
    else
      let b := body w (s.qStart q) s
      match if (s.headStop q (s.qStart q) w).isNone && b.isInvalid then .go else s.startVerdict q (s.qStart q) w with
      | .stop st d => s.stopCmd q w st d
      | .wait => s
      | .go =>
        match b with
        | .stop st d => s.stopCmd q w st d
        | .wait => s
        | .run f => s.launchCmd q w f

/-- An argument check by failing bytes: the lowest gives INVALID (R362, R367). -/
def argsThen (l : List (Bool × Nat)) (k : Begun) : Begun :=
  match lowest l with
  | some b => .stop invalid b
  | none => k

/-- An effect after which the command is finished with status OK. -/
def thenOk (q seq : Nat) (f : State → State) : State → State := fun s => (f s).finishCmd q seq okStatus 0

/-- R361: NOP. -/
def execNop (q : Fin 8192) (s : State) : Out :=
  .next (runCmd q 0x00 (fun w seq _ => argsThen (reservedBytes w 32 32) (.run (thenOk q seq id))) s)

/-! ### COPY and FILL (R364) -/

/-- R364: the checks of a copy's ranges, then the copy joins the engines. What windows allow (R287) is asked once the command's
step is current. -/
def State.startCopy (s : State) (q seq : Nat) (w : CmdWord) (x : CopyOp) : Begun :=
  let c := s.qCtx q
  let now := s.startVerdict q seq w == .go
  let srcDev := !x.srcHost && x.pattern.isNone
  if x.len = 0 then .run (thenOk q seq id)
  else if (srcDev && !s.inPartition c x.src x.len) ||
      (!x.dstHost && (!s.inPartition c x.dst x.len || (now && !s.writeOk c x.dst x.len w.bound false))) then .stop invalid 0xFF
  else if (srcDev && s.rangeFenced x.src x.len) || (!x.dstHost && s.rangeFenced x.dst x.len) then .stop fencedStatus 0
  else .run fun s => { s with copies := s.copies ++ [x] }

/-- R364: COPY. -/
def execCopy (q : Fin 8192) (s : State) : Out :=
  .next (runCmd q 0x20 (fun w seq s =>
    let sp := cmdAt w 56 1
    argsThen ([(cmdAt w 48 6 / 2 ^ 40 != 0, 48)] ++ reservedBytes w 54 2 ++ [(sp / 4 != 0, 56)] ++ reservedBytes w 57 7)
      (s.startCopy q seq w
        { queue := q, seq := seq, src := cmdAt w 32 8, dst := cmdAt w 40 8, srcHost := sp.testBit 0,
          dstHost := sp.testBit 1, len := cmdAt w 48 6, pattern := none })) s)

/-- R364: FILL. -/
def execFill (q : Fin 8192) (s : State) : Out :=
  .next (runCmd q 0x21 (fun w seq s =>
    let sp := cmdAt w 56 1
    argsThen (reservedBytes w 32 8 ++ [(cmdAt w 48 6 / 2 ^ 40 != 0 || cmdAt w 48 1 % 4 != 0, 48)] ++ reservedBytes w 54 2 ++
        [(sp / 4 != 0 || sp.testBit 0, 56)] ++ reservedBytes w 57 3)
      (s.startCopy q seq w
        { queue := q, seq := seq, src := 0, dst := cmdAt w 40 8, srcHost := false, dstHost := sp.testBit 1,
          len := cmdAt w 48 6, pattern := some (BitVec.ofNat 32 (cmdAt w 60 4)) })) s)

/-- `n` bytes of a repeated 32-bit pattern. -/
def fillBytes (p : Word32) (n : Nat) : List Byte :=
  let b := leBytes 4 p.toNat
  (List.range n).map fun i => b.getD (i % 4) 0

/-- R164, R165: a copy's device accesses meet an uncorrectable codeword: in what it reads, or in a codeword it merges into. -/
def State.copyBad (s : State) (x : CopyOp) : Bool :=
  (!x.srcHost && x.pattern.isNone && s.readBad x.src x.len) ||
    (!x.dstHost && (codewords x.dst x.len).any fun e => e.2 < 64 && (sget? s.hbmBad (s.mapAddr e.1 / 64)).isSome)

/-- R364: a copy moves its bytes; `host` is what the client's memory holds at `SRC`. -/
def State.moveCopy (s : State) (x : CopyOp) (host : List Byte) : State :=
  let who := s.qWho x.queue
  let (b, s) := match x.pattern with
    | some p => (fillBytes p x.len, s)
    | none => if x.srcHost then ((List.range x.len).map fun i => host.getD i 0, s) else s.hbmRead who x.src x.len
  if x.dstHost then s.hostWrite (s.qFunc x.queue) x.dst b else s.hbmWrite who x.dst b

/-- R154, R158: a copy's device accesses wait. -/
def State.copyWaits (s : State) (x : CopyOp) : Bool :=
  (!x.srcHost && x.pattern.isNone && s.hbmWaits x.src x.len) || (!x.dstHost && s.hbmWaits x.dst x.len)

/-- R364: COPY_DONE: copy `i` of the four engines ends; `host` is what it read from host memory, `ok` tells whether the
host's side answered without an error. -/
def execCopyDone (i : Fin 4) (host : List Byte) (ok : Bool) (s : State) : Out :=
  match s.copies[i.val]? with
  | none => .next s
  | some x =>
    if s.copyWaits x then .next s
    else
    let s := { s with copies := s.copies.eraseIdx i }
    let bad := s.copyBad x
    let hostSide := x.srcHost || x.dstHost
    let s := if hostSide && !ok then s else s.moveCopy x host
    let st := if (hostSide && !ok) || bad then uncorrected else okStatus
    .next ((s.finishCmd x.queue x.seq st 0).stepProgress (s.qCtx x.queue))

/-! ### COLL (R258, R365) -/

/-- R365: COLL: the descriptor goes to the engine of the field that holds it (log 18); `host` is what the client's memory
holds at `SRC` of a SOW from host memory. -/
def execColl (q : Fin 8192) (host : List Byte) (s : State) : Out :=
  .next (runCmd q 0x30 (fun w seq s =>
    let c := s.qCtx q
    let desc := cmdAt w 32 8
    let f := fieldOf desc
    let d := Desc.parse (s.peekHbm desc 128)
    argsThen ([(desc % 64 != 0 || desc / 2 ^ 41 != 0, 32)] ++ reservedBytes w 40 24)
      (if !s.inPartition c desc 128 || !s.inPartition c d.grp d.tableBytes || !s.inMask c f then .stop invalid 0xFF
      else if s.isFenced (.field f) then .stop fencedStatus 0
      else .run fun s => s.handCol f c desc (.cmd q seq) w.bound host)) s)

/-! ### COMMIT, ABORT, ROLLBACK and ADOPT (R294) -/

/-- The step number and reserved bytes of a step command (R365). -/
def stepArgs (w : CmdWord) (k : Begun) : Begun := argsThen (reservedBytes w 36 28) k

/-- R294, R296: COMMIT. -/
def execCommit (q : Fin 8192) (s : State) : Out :=
  .next (runCmd q 0x41 (fun w seq s =>
    let c := s.qCtx q
    stepArgs w (if s.cstate c = stReady ∧ cmdAt w 32 4 = s.stepOf c then .run (thenOk q seq fun s => s.commitStep c)
      else .stop stStatus (s.cstate c))) s)

/-- R294, R297: ABORT; `rings` shows the commands of the context that have not started. -/
def execAbort (q : Fin 8192) (rings : Rings) (s : State) : Out :=
  .next (runCmd q 0x42 (fun w seq s =>
    let c := s.qCtx q
    stepArgs w (if s.stepCurrent c ∧ cmdAt w 32 4 = s.stepOf c then
        .run (thenOk q seq fun s => s.abortStep rings c w.tree)
      else .stop stStatus (s.cstate c))) s)

/-- R294, R298, R320: ROLLBACK. -/
def execRollback (q : Fin 8192) (s : State) : Out :=
  .next (runCmd q 0x43 (fun w seq s =>
    let c := s.qCtx q
    stepArgs w (if s.cstate c = stBoundary ∧ s.rf (R.CMT_CSTEP_C c) = cmdAt w 32 4 ∧ s.flag (R.CMT_CSTAT_RB c) ∧
          !s.serving c then
        .run (thenOk q seq fun s => s.rollbackStep c)
      else .stop stStatus (s.cstate c))) s)

/-- R294, R299: ADOPT. -/
def execAdopt (q : Fin 8192) (s : State) : Out :=
  .next (runCmd q 0x44 (fun w seq s =>
    let c := s.qCtx q
    stepArgs w (if s.cstate c = stReset ∧ s.uncovered c = 0 then
        .run (thenOk q seq fun s => s.adoptStep c (cmdAt w 32 4))
      else .stop stStatus (s.cstate c))) s)

/-! ### LEND (R378, R379) -/

/-- R331, R378: the field homes a live sequence or a queued join. -/
def State.homes (s : State) (c f : Nat) : Bool :=
  s.serving c && ((s.srv c).seqs.any (fun e => e.2.field == f) || (s.srv c).adm.any fun j => j.field == f)

/-- R379: the operations of a context in a field it loses end REFUSED; a prefetch is abandoned. -/
def State.loseField (s : State) (c f : Nat) : State :=
  let e := s.eng f
  let pre := fun (o : ColOp) => o.users == [ColUser.prefetch]
  let s := s.setEng f { e with ops := e.ops.filter fun o => !(o.ctx == c && pre o) }
  (((e.ops.filter fun o => o.ctx == c && !pre o && !o.done).foldl (fun s o => s.endOp o refusedStatus false) s).showOps f).nextWaiting f

/-- R412: a harrow run is in progress in field `f`. -/
def State.harrowing (s : State) (f : Nat) : Bool :=
  s.rf (R.ALM_HRW_STAT_STATE f) == 1 || s.rf (R.ALM_HRW_STAT_STATE f) == 2

/-- R378, R412: LEND. -/
def execLend (q : Fin 8192) (s : State) : Out :=
  .next (runCmd q 0x48 (fun w seq s =>
    let c := cmdAt w 32 1 % 64
    let m := cmdAt w 33 1
    let st := s.cstate c
    let fs := List.range 4
    let added := fs.filter fun f => m.testBit f && !s.inMask c f
    let lost := fs.filter fun f => !m.testBit f && s.inMask c f
    argsThen ([(cmdAt w 32 1 / 64 != 0 || !s.resident c, 32), (m / 16 != 0 || (reservedBytes w 34 30).any Prod.fst, 33)])
      (if st ≠ stReset ∧ st ≠ stBoundary then .stop stStatus st
      else if added.any fun f => s.isFenced (.field f) || s.rf (R.PWR_FLD_STATE f) == 3 || s.harrowing f then .stop refusedStatus 0
      else if added.any fun f => s.rf (R.FLD_SBQ_SIZE c f) == 0 || s.rf (R.FLD_ACQ_COUNT c f) == 0 then .stop stStatus st
      else if lost.any fun f => s.homes c f || s.regions.any fun e =>
          e.2.valid && e.2.mirrorRole && e.2.ctx == c && e.2.field == f then .stop stStatus st
      else .run (thenOk q seq fun s => lost.foldl (fun s f => s.loseField c f) (s.wf (R.CTX_FMASK_MASK c) m)))) s)

end Sys2Proof.Machine
end

