-- ==== Sys2Proof/Machine/ServQueue.lean ====
section
/-! DEFINITION. BEGIN (R292, R327, R329, R330, R332, R333, R365) and the serve commands JOIN, LEAVE, SWAP_CLOSE, SWAP_LAYER
and SWAP_OPEN (R318, R325, R326, R334 to R336). -/

namespace Sys2Proof.Machine

/-! ### Arguments (R325) -/

/-- R325: what is wrong with a JOIN's arguments. -/
def joinBad (w : CmdWord) : List (Bool × Nat) :=
  [(cmdAt w 32 4 == 0xFFFFFFFF, 32), (cmdAt w 36 1 / 4 != 0, 36)] ++ reservedBytes w 38 2 ++
    [(cmdAt w 40 4 == 0 || cmdAt w 40 4 > 262144, 40)] ++ reservedBytes w 44 20

/-- R325: what is wrong with a LEAVE's arguments. -/
def leaveBad (w : CmdWord) : List (Bool × Nat) := reservedBytes w 36 28

/-- R325: a JOIN's arguments. -/
def State.joinOf (s : State) (c : Nat) (w : CmdWord) : Join :=
  let g := cmdAt w 37 1
  { seqid := cmdAt w 32 4, field := cmdAt w 36 1 % 4, grow := if g = 0 then s.rf (R.SRV_CTRL_DGROW c) else g,
    t0 := cmdAt w 40 4 }

/-- R367: the `DETAIL` of STATE for a serve command. -/
def State.serveDetail (s : State) (c : Nat) : Nat := s.cstate c + 256 * s.swap c

/-- R318: a serve command of a context that is not a serving context is INVALID (log 20: `DETAIL` 0). -/
def State.servingOnly (s : State) (c : Nat) (k : Begun) : Begun := if s.serving c then k else .stop invalid 0

/-! ### What a BEGIN takes (R327) -/

/-- What a BEGIN takes of a JOIN or LEAVE. -/
def State.takenFrom (s : State) (c q seq : Nat) (w : CmdWord) : Taken :=
  { queue := q, seq := seq, join := if w.opc = 0x60 then some (s.joinOf c w) else none, seqid := cmdAt w 32 4 }

/-- R327: joins in the admission queue once the taken commands are evaluated. -/
def State.queuedWith (s : State) (c : Nat) (taken : List Taken) : Nat :=
  (s.takeJoins c (takeLeaves { seqs := (s.srv c).seqs, adm := (s.srv c).adm, taken := taken })).adm.length

/-- R327: the commands of a serve-class queue from its start position that a BEGIN takes, or that end there on the way;
`taken` lists what is taken so far. It stops at a JOIN that would carry the admission queue beyond 4,096 joins, and at any
other command (log 21). -/
def State.scanQueue (s : State) (rings : Rings) (c q : Nat) :
    List Taken → List Nat → List (Nat × CmdWord × Option (Nat × Nat))
  | _, [] => []
  | taken, seq :: t =>
    let w := s.peekCmd rings q seq
    let ends := fun (x : Nat × Nat) => (seq, w, some x) :: s.scanQueue rings c q taken t
    match s.headStop q seq w with
    | some x => ends x
    | none =>
      if w.opc ≠ 0x60 ∧ w.opc ≠ 0x61 then []
      else match lowest (if w.opc = 0x60 then joinBad w else leaveBad w) with
        | some b => ends (invalid, b)
        | none =>
          match s.startVerdict q seq w with
          | .wait => []
          | .stop st d => ends (st, d)
          | .go =>
            if w.opc = 0x60 ∧ s.isFenced (.field (cmdAt w 36 1 % 4)) then ends (fencedStatus, 0) else
            let taken := taken ++ [s.takenFrom c q seq w]
            if s.queuedWith c taken > 4096 then [] else (seq, w, none) :: s.scanQueue rings c q taken t

/-- One scanned command: its queue, number, word and, when it ends at the start position, its status. -/
abbrev Scanned := Nat × Nat × CmdWord × Option (Nat × Nat)

/-- The commands a scan takes. -/
def State.takenOf (s : State) (c : Nat) (l : List Scanned) : List Taken :=
  l.filterMap fun (q, seq, w, fin) => if fin.isSome then none else some (s.takenFrom c q seq w)

/-- R327: the scan over the context's serve-class queues, in ascending number, behind the commands still held (R330). -/
def State.scanServe (s : State) (rings : Rings) (c : Nat) : List Scanned :=
  let qs := (s.ctxQueues c).filter fun q => s.qClass q == 4 && s.mayStart q
  qs.foldl (fun (acc : List Scanned) q =>
    acc ++ (s.scanQueue rings c q ((s.srv c).held ++ s.takenOf c acc) (s.unstarted q)).map fun e => (q, e)) []

/-- The scanned commands pass their start positions. -/
def State.passScanned (s : State) (l : List Scanned) : State :=
  l.foldl (fun s (e : Scanned) =>
    let s := s.passStart e.1 (recordOf e.2.2.1 e.2.1 none e.2.2.2)
    if e.2.2.2.isNone && CmdWord.job e.2.2.1 then s.countJob (s.qFunc e.1) else s) s

/-! ### BEGIN -/

/-- R330: the admission of a BEGIN in mode 2: nothing is taken or admitted, and no sequence grows. -/
def State.checkAdmission (s : State) (c : Nat) : Admission :=
  { seqs := (s.srv c).seqs.map fun e => (e.1, { e.2 with grow := 0 }), adm := (s.srv c).adm }

/-- R292, R327, R330: a BEGIN of a serving context that starts its step. -/
def State.beginServing (s : State) (c n mode : Nat) (l : List Scanned) (a : Admission) : State :=
  ((s.passScanned l).beginStep c n mode).servBegin c n a

/-- R154, R158: what a BEGIN reads or writes in device memory would wait: its group descriptor, the tables of a serving context. -/
def State.beginWaits (s : State) (c : Nat) : Bool :=
  (s.flag (R.CMT_CGRP_HI_EN c) && s.inWaits c (s.groupAt c) 64) ||
    (s.serving c && ((servSpans s c).take 3).any fun r => s.inWaits c r.1 r.2)

/-- R292, R294, R327, R333, R365: BEGIN; `rings` shows the commands waiting in the context's serve-class queues. -/
def execBegin (q : Fin 8192) (rings : Rings) (s : State) : Out :=
  .next (runCmd q 0x40 (fun w seq s =>
    let c := s.qCtx q
    let n := cmdAt w 32 4
    let mode := cmdAt w 36 1
    argsThen ([(decide (mode ≥ 3), 36)] ++ reservedBytes w 37 27)
      (if s.groupInvalid c then .stop invalid 0xFF
      else if s.beginRefused c n mode then .stop stStatus (s.cstate c)
      else if s.barrierClosed c || s.beginWaits c then .wait
      else if !s.serving c then .run (thenOk q seq fun s => s.beginStep c n mode)
      else if mode = 1 then .run (thenOk q seq fun s => s.beginServing c n 1 [] ((s.srv c).attempt.getD {}))
      else if mode = 2 then .run (thenOk q seq fun s => s.beginServing c n 2 [] (s.checkAdmission c))
      else
        let l := s.scanServe rings c
        match s.admission c ((s.srv c).held ++ s.takenOf c l) with
        | ([], a) => .run (thenOk q seq fun s => s.beginServing c n 0 l a)
        | (short, a) => .run fun s => (s.writeShort c n a short).finishCmd q seq outOfPlots short.length)) s)

/-! ### JOIN and LEAVE (R325, R326) -/

/-- R325, R327, R436: JOIN waits at the head of its queue until a BEGIN takes it; a fence of the field it names ends it. -/
def execJoin (q : Fin 8192) (s : State) : Out :=
  .next (runCmd q 0x60 (fun w _ s => s.servingOnly (s.qCtx q) (argsThen (joinBad w)
    (if s.isFenced (.field (cmdAt w 36 1 % 4)) then .stop fencedStatus 0 else .wait))) s)

/-- R326: a LEAVE outside a step ends a sequence, or a queued join. -/
def State.leaveNow (s : State) (c seqid : Nat) : State :=
  let x := s.srv c
  let s := match slotOf x.seqs seqid with
    | some k => s.setSrv c { x with seqs := sdel x.seqs k }
    | none => s.setSrv c { x with adm := x.adm.filter fun j => j.seqid != seqid }
  (s.showServ c).swapAtBoundary c

/-- R326: LEAVE. -/
def execLeave (q : Fin 8192) (s : State) : Out :=
  .next (runCmd q 0x61 (fun w seq s =>
    let c := s.qCtx q
    let id := cmdAt w 32 4
    s.servingOnly c (argsThen (leaveBad w)
      (if s.stepCurrent c then .wait
      else if (slotOf (s.srv c).seqs id).isSome || (s.srv c).adm.any (fun j => j.seqid == id) then
        .run (thenOk q seq fun s => s.leaveNow c id)
      else .stop stStatus (s.serveDetail c)))) s)

/-! ### The swap commands (R334 to R336) -/

/-- R333, R334: the swap state that SWAP_CLOSE enters; a sequence counts as live when the latest sequence table shows one. At
BOUNDARY with no sequence left PENDING is over at once. -/
def State.closeTo (s : State) (c : Nat) (drain : Bool) : Nat :=
  let live := (s.srv c).shown
  if s.stepCurrent c then if drain && live then swPending else swClosing
  else if drain && live && !(s.cstate c == stBoundary && (s.srv c).seqs.isEmpty) then swPending
  else swSwapping

/-- R334: SWAP_CLOSE. -/
def execSwapClose (q : Fin 8192) (s : State) : Out :=
  .next (runCmd q 0x62 (fun w seq s =>
    let c := s.qCtx q
    let drain := (cmdAt w 32 1).testBit 0
    s.servingOnly c (argsThen ([(cmdAt w 32 1 / 2 != 0, 32)] ++ reservedBytes w 33 31)
      (if s.swap c = swOpen ∨ (s.swap c = swPending ∧ !drain) then
        .run (thenOk q seq fun s =>
          let s := s.setReg (A.SRV_TARGET c) (BitVec.ofNat 32 (s.rf (R.SRV_EPOCH_EPOCH c) + 1))
          let s := (s.wf (R.SRV_SWAP_POLICY c) (if drain then 1 else 0)).setSrv c { s.srv c with accepted := false }
          s.enterSwap c (s.closeTo c drain))
      else .stop stStatus (s.serveDetail c)))) s)

/-- R335: SWAP_LAYER: the SOW of a layer, in the engine of the field that holds its descriptor (log 18). -/
def execSwapLayer (q : Fin 8192) (host : List Byte) (s : State) : Out :=
  .next (runCmd q 0x63 (fun w seq s =>
    let c := s.qCtx q
    let desc := cmdAt w 40 8
    let f := fieldOf desc
    let d := Desc.parse (s.peekHbm desc 128)
    s.servingOnly c (argsThen ([(decide (cmdAt w 32 2 > 4095), 32)] ++ reservedBytes w 34 6 ++
        [(desc % 64 != 0 || desc / 2 ^ 41 != 0, 40)] ++ reservedBytes w 48 16)
      (if !s.inPartition c desc 128 || !s.inPartition c d.grp d.tableBytes || !d.sows || !s.inMask c f then
        .stop invalid 0xFF
      else if s.swap c ≠ swSwapping then .stop stStatus (s.serveDetail c)
      else if s.isFenced (.field f) then .stop fencedStatus 0
      else .run fun s =>
        let x := s.srv c
        let s := s.setSrv c { x with accepted := true, layers := x.layers ++ [(q.val, seq, cmdAt w 32 2)] }
        s.handCol f c desc (.swap q seq) false host))) s)

/-- R336: the barrier opens; with `new` the epoch advances and the hold time is recorded, in microseconds. -/
def State.openSwap (s : State) (c : Nat) (new : Bool) : State :=
  let x := s.srv c
  let s := s.setSrv c { x with closedAt := none }
  let s := if new then
      (s.setReg (A.SRV_EPOCH c) (s.reg (A.SRV_TARGET c))).wf (R.SRV_HOLD_US c)
        (min ((s.now - x.closedAt.getD s.now) / 25) max32)
    else s
  s.wf (R.SRV_SWAP_STATE c) swOpen

/-- R336: SWAP_OPEN. -/
def execSwapOpen (q : Fin 8192) (s : State) : Out :=
  .next (runCmd q 0x64 (fun w seq s =>
    let c := s.qCtx q
    let new := (cmdAt w 32 1).testBit 0
    let x := s.srv c
    s.servingOnly c (argsThen ([(cmdAt w 32 1 / 2 != 0, 32)] ++ reservedBytes w 33 31)
      (if new ∧ s.swap c = swSwapping ∧ x.layers.isEmpty ∧ x.failed.isEmpty then
        .run (thenOk q seq fun s => s.openSwap c true)
      else if !new ∧ s.swap c ≠ swOpen ∧ !x.accepted then .run (thenOk q seq fun s => s.openSwap c false)
      else .stop stStatus (s.serveDetail c)))) s)

end Sys2Proof.Machine
end

