-- ==== Sys2Proof/Machine/Launch.lean ====
section
/-! DEFINITION. Launches: LAUNCH and SEQRUN (R82, R108, R110, R144, R147, R148, R192, R363, R436), LAUNCH_START (R109),
STREAM_FETCH_DONE (R110), SEQ_FORWARD_ISSUE (R148), UNKNOWN_OPCODE (R124, R145). -/

namespace Sys2Proof.Machine

/-! ### Tables (R108, R147) -/

/-- R108: a launch table from its 256 bytes. -/
def LTable.parse (b : List Byte) : LTable :=
  { progs := (List.range 24).map fun n => leAt b (8 * n) 8, base := (List.range 8).map fun j => leAt b (192 + 4 * j) 4,
    mb := leAt b 224 2, strm := leAt b 226 1 }

/-- R108, R110: a launch table at `a` that breaks its rules: place, stream (at most `top`), reserved bytes, programs. -/
def State.badTableAt (s : State) (top c a : Nat) : Bool :=
  a % 256 != 0 || !s.inPartition c a 256 ||
    (let b := s.peekHbm a 256
     let t := LTable.parse b
     t.strm > top || !zeroAt b 227 29 || t.progs.any fun p => p != 0 && (p % 16 != 0 || !s.inPartition c p 16))

/-- R147: a sequencer run descriptor. -/
structure RunDesc where
  ftab : Nat
  btab : Nat
  f0 : Nat
  b0 : Nat
  pairs : Nat
  fstride : List Nat
  bstride : List Nat

/-- R147. -/
def RunDesc.parse (b : List Byte) : RunDesc :=
  { ftab := leAt b 0 8, btab := leAt b 8 8, f0 := leAt b 16 2, b0 := leAt b 18 2, pairs := leAt b 20 2,
    fstride := (List.range 8).map fun j => leAt b (24 + 4 * j) 4,
    bstride := (List.range 8).map fun j => leAt b (56 + 4 * j) 4 }

/-- R147, R199, R363: a run descriptor at `a` that breaks its rules. A template may not name the U stream, whose launches
the sequencer never issues (read from R199, log 72). -/
def State.badRunAt (s : State) (c a : Nat) : Bool :=
  a % 64 != 0 || !s.inPartition c a 128 ||
    (let b := s.peekHbm a 128
     let d := RunDesc.parse b
     !zeroAt b 22 2 || !zeroAt b 88 40 || d.b0 > d.f0 || (d.pairs != 0 && d.f0 + d.pairs - 1 > 65535) ||
       s.badTableAt 1 c d.ftab || s.badTableAt 1 c d.btab)

/-- A launch table as it stands in memory. -/
def State.tableAt (s : State) (a : Nat) : LTable := LTable.parse (s.peekHbm a 256)

/-- The tables that a command's address for one field names: itself, or a run's two templates. -/
def State.tablesOf (s : State) (seq : Bool) (a : Nat) : List LTable :=
  if seq then
    let d := RunDesc.parse (s.peekHbm a 128)
    if d.pairs = 0 then [] else [s.tableAt d.ftab, s.tableAt d.btab]
  else [s.tableAt a]

/-- The logical furrows a table launches on. -/
def LTable.furrows (t : LTable) : List Nat := (List.range 24).filter fun n => t.progs.getD n 0 != 0

/-- The reads of a table or descriptor, with their effect on the memory's counters and errors (R164). -/
def State.touch (s : State) (c a n : Nat) : State := (s.hbmRead (.cmd c (s.client c)) a n).2

/-! ### Launching -/

/-- R108, R109: one launch of a table joins its stream on every furrow it names. -/
def State.pushLaunch (s : State) (f c : Nat) (t : LTable) (mk : Nat → Launch) : State :=
  t.furrows.foldl (fun s l =>
    match s.physical f l with
    | none => s
    | some n =>
      let st := s.strm f n c t.strm
      (if st.stepped then s else s.reopenReport c).setStrm f n c t.strm
        { st with launches := st.launches ++ [mk (t.progs.getD l 0)], gotLaunch := true }) s

/-- R147: a template's base registers for index `i`. -/
def stridden (base stride : List Nat) (i : Nat) : List Nat :=
  (List.range 8).map fun j => (base.getD j 0 + i * stride.getD j 0) % 2 ^ 32

/-- R148: launch `k` of a run: the marks 2k and 2k + 1 stand for backward and forward. -/
def State.pushRun (s : State) (f c q seq run : Nat) (t : LTable) (stride : List Nat) (i mark : Nat) : State :=
  s.pushLaunch f c t fun prog => ⟨q, seq, prog, stridden t.base stride i, i, some run, mark⟩

/-- The runs that some launch or sequencer still belongs to. -/
def State.liveRuns (s : State) : List Nat :=
  (s.seqRuns.map fun r => r.id) ++
    s.streams.flatMap fun e => (e.2.cur.toList ++ e.2.launches).filterMap fun l => l.run

/-- A number that no run in progress has. -/
def State.freshRun (s : State) : Nat := (s.liveRuns.map (· + 1)).foldl max 0

/-- R147, R148: the sequencer of field `f` expands a run: every backward and every forward launch, each in order, joins its
stream, so that the order of launches within a stream is that of the commands; a forward launch does not start before the
sequencer issues it. Each template's own `STREAM` byte decides the stream of its launches (log 72). -/
def State.startRun (s : State) (f c q seq a : Nat) : State :=
  let d := RunDesc.parse (s.peekHbm a 128)
  if d.pairs = 0 then s
  else
    let ft := s.tableAt d.ftab
    let bt := s.tableAt d.btab
    let run := s.freshRun
    let s := (List.range d.pairs).foldl (fun s k => s.pushRun f c q seq run bt d.bstride (d.b0 + k) (2 * k)) s
    let s := (List.range d.pairs).foldl (fun s k => s.pushRun f c q seq run ft d.fstride (d.f0 + k) (2 * k + 1)) s
    if d.pairs = 1 then s
    else
      { s with
        seqRuns := s.seqRuns ++ [⟨run, f, c, q, seq, d.pairs, 1⟩] }

/-- R108, R363: a launch table's launches are made. -/
def State.startTable (s : State) (f c q seq a : Nat) : State :=
  let t := s.tableAt a
  s.pushLaunch f c t fun prog => ⟨q, seq, prog, t.base, t.mb, none, 0⟩

/-- The reads of what a launch of one field names: its table, or a run's descriptor and two templates (R164). -/
def State.touchFor (s : State) (seq : Bool) (c a : Nat) : State :=
  if seq then
    let d := RunDesc.parse (s.peekHbm a 128)
    let s := s.touch c a 128
    if d.pairs = 0 then s else (s.touch c d.ftab 256).touch c d.btab 256
  else s.touch c a 256

/-- R154, R158: the tables that a command's address for one field names take no request. -/
def State.tableWaits (s : State) (seq : Bool) (c a : Nat) : Bool :=
  if seq then
    s.inWaits c a 128 ||
      (let d := RunDesc.parse (s.peekHbm a 128)
       s.inWaits c d.ftab 256 || s.inWaits c d.btab 256)
  else s.inWaits c a 256

/-- R82, R192, R363, R367, R436: the checks of a LAUNCH (`seq` false) or SEQRUN, then its launches. A fenced field comes before a
vacant furrow, and a fenced stream after it (the model's choice, log 73). -/
def launchBody (q : Nat) (seq : Bool) (w : CmdWord) (n : Nat) (s : State) : Begun :=
  let c := s.qCtx q
  let l := (s.ctx c).latch
  let at_ := fun f => cmdAt w (32 + 8 * f) 8
  let fs := (List.range 4).filter fun f => at_ f != 0
  let uses := fs.flatMap fun f => (s.tablesOf seq (at_ f)).flatMap fun t => t.furrows.map fun k => (f, k, t.strm)
  if l.compat && l.tied then .stop invalid 0
  else if fs.isEmpty then .stop invalid 32
  else match fs.find? fun f => !s.inMask c f || at_ f % (if seq then 64 else 256) != 0 with
    | some f => .stop invalid (32 + 8 * f)
    | none =>
      if fs.any fun f => s.tableWaits seq c (at_ f) then .wait
      else if fs.any fun f => if seq then s.badRunAt c (at_ f) else s.badTableAt 2 c (at_ f) then .stop invalid 0xFF
      else if fs.any fun f => s.isFenced (.field f) then .stop fencedStatus 0
      else if uses.any fun (f, k, _) => (s.physical f k).isNone then .stop refusedStatus 0
      else if uses.any fun (f, k, r) => (s.physical f k).any fun p => s.isFenced (.stream f p c r) then .stop fencedStatus 0
      else .run fun s =>
        let s := fs.foldl (fun s f => if seq then s.startRun f c q n (at_ f) else s.startTable f c q n (at_ f)) s
        (fs.foldl (fun s f => s.touchFor seq c (at_ f)) s).launchEnded q n

/-- R363: LAUNCH. -/
def execLaunch (q : Fin 8192) (s : State) : Out := .next (runCmd q 0x10 (launchBody q false) s)
/-- R147, R363: SEQRUN. -/
def execSeqrun (q : Fin 8192) (s : State) : Out := .next (runCmd q 0x11 (launchBody q true) s)

/-- R148: a forward launch of a run that its sequencer has not issued. -/
def State.unissued (s : State) (l : Launch) : Bool :=
  l.run.any fun r => l.idx % 2 == 1 && s.seqRuns.any fun x => x.id == r && x.issuedF ≤ l.idx / 2

/-- R109, R144: LAUNCH_START: the oldest launch waiting in an idle stream starts, or is refused because the stream has
stepped. A launch that was queued when STEP executed is refused like one that arrives later (the model's choice, log 74). -/
def execLaunchStart (i : StreamId) (s : State) : Out :=
  let p := atOf i
  let st := s.st p
  match st.launches with
  | [] => .next s
  | l :: t =>
    if st.cur.isSome || s.streamHeld p.f p.n p.c p.k || !s.awake p.f p.n || s.unissued l then .next s
    else if st.stepped then
      let s := s.setSt p { st with launches := t }
      let s := match s.cmd? l.queue l.seq with
        | some c => s.setCmd l.queue { c with bad := 1 }
        | none => s
      .next (s.launchEnded l.queue l.seq)
    else
      .next (s.setSt p
        { st with
          launches := t, cur := some l, state := .waiting, wait := .fetch, pc := l.prog, base := l.base, mb := l.mb,
          bindA := none, bindW := [none, none, none, none], buf := [], arrived := none, sampled := 0 })

/-- R110: the words of one fetch: from the first word not buffered to the end of its aligned 256 bytes, as far as they
lie in the partition. -/
def State.fetchWords (s : State) (c a : Nat) : List Nat :=
  ((List.range ((256 - a % 256) / 16)).map fun i => a + 16 * i).takeWhile fun x => s.inPartition c x 16

/-- R110, R145: STREAM_FETCH_DONE: 256 bytes of program arrive in the stream buffer while it has room; a program that has
run past the partition halts its stream with cause 7, and `OPCODE` records 0 (the model's choice, log 67). -/
def execStreamFetchDone (i : StreamId) (s : State) : Out :=
  let p := atOf i
  let st := s.st p
  let a := st.pc + 16 * st.buf.length
  let ws := s.fetchWords p.c a
  if st.cur.isNone || st.state == .halted || s.streamHeld p.f p.n p.c p.k || st.buf.length + ws.length > 512 ||
      s.hbmWaits a (16 * ws.length) then .next s
  else match ws with
    | [] => .next (if st.buf.isEmpty then s.haltStream p 7 0 else s)
    | _ =>
      let bad := ws.map fun x => s.readBad x 16
      let (b, s) := s.hbmRead (.fetch p.f p.n p.c p.k) a (16 * ws.length)
      let words := bad.zipIdx.map fun (x : Bool × Nat) =>
        if x.1 then none else some (BitVec.ofNat 128 (leAt b (16 * x.2) 16))
      let st := s.st p
      let state := if st.wait = .fetch then StrmState.issuing else st.state
      let wait := if st.wait = .fetch then WaitKind.none else st.wait
      .next ((s.setSt p { st with buf := st.buf ++ words, state := state, wait := wait }).settleHead p)

/-- R148: backward launch `k` of a run has reached END on every furrow that ran it. -/
def State.backDone (s : State) (run k : Nat) : Bool :=
  let mine := fun (l : Launch) => l.run == some run && l.idx == 2 * k
  !(s.streams.any fun e => e.2.launches.any mine || e.2.cur.any mine)

/-- R148: SEQ_FORWARD_ISSUE: the oldest run of field `f` whose next forward launch may go issues it. -/
def execSeqForwardIssue (f : Fin 4) (s : State) : Out :=
  match s.seqRuns.find? fun r => r.field == f.val && s.backDone r.id (r.issuedF - 1) with
  | none => .next s
  | some r =>
    let k := r.issuedF
    let rest := if k + 1 = r.pairs then s.seqRuns.filter fun x => x.id != r.id
      else s.seqRuns.map fun x => if x.id == r.id then { x with issuedF := k + 1 } else x
    .next { s with seqRuns := rest }

/-! ### Words that name no instruction (R124, R145) -/

/-- R124, R139: the operation codes of VOP that name an instruction. -/
def knownVopc (v : Nat) : Bool := v ≤ 0x0D || v == 0x10 || v == 0x11 || v == 0x12

/-- R124: why a word names no instruction: its opcode (cause 1), or its operation code (cause 3). -/
def unknownCause (w : InstrWord) : Option Nat :=
  let op := fld w 0 8
  if op = 0x30 then if knownVopc (fld w 8 6) then none else some 3
  else if op = 0x58 then if fld w 8 2 ≤ 1 then none else some 3
  else if [0x01, 0x02, 0x03, 0x10, 0x20, 0x21, 0x28, 0x38, 0x40, 0x41, 0x48, 0x50, 0x60, 0x7F].contains op then none
  else some 1

/-- R139, R143, R145: a reserved bit is set in a word of VOP or CHK. -/
def reservedSet (w : InstrWord) : Bool :=
  (fld w 0 8 == 0x58 && (fld w 23 1 != 0 || fld w 74 54 != 0)) || (fld w 0 8 == 0x30 && fld w 26 1 != 0)

/-- R124, R145: a word that names no instruction halts its stream; one that names an instruction is not this command's
(log 6). -/
def issueUnknown (i : StreamId) (w : InstrWord) (s : State) : State :=
  match unknownCause w with
  | none => s
  | some c => issue s (atOf i) w none 0 (lowest [(c == 1, 1), (reservedSet w, 2), (true, c)]) fun s => s

end Sys2Proof.Machine
end

