-- ==== Sys2Proof/Machine/Tile.lean ====
section
/-! DEFINITION. The issue stage of a furrow: what instruction a head word names (R124), whether it is ready (R113), which stream
is granted next (R112), and the tile instructions. -/

namespace Sys2Proof.Machine

/-- R124: the instructions that a word may name, by what decides whether they are ready. -/
inductive TileOp where
  | binding | dma | mma | drn | vop | opt | gln | semw | sems | bar | col | chk | step | end_
deriving DecidableEq, Repr

/-- R124: the instruction that a word's opcode, and for a VOP its operation code, names; none for a word that names none. -/
def tileOp (w : InstrWord) : Option TileOp :=
  match fld w 0 8 with
  | 0x01 | 0x02 | 0x03 => some .binding
  | 0x10 => some .dma
  | 0x20 | 0x21 => some .mma
  | 0x28 => some .drn
  | 0x30 => if !knownVopc (fld w 8 6) then none else some (if fld w 8 6 < 0x10 then .vop else .opt)
  | 0x38 => some .gln
  | 0x40 => some .semw
  | 0x41 => some .sems
  | 0x48 => some .bar
  | 0x50 => some .col
  | 0x58 => if fld w 8 2 ≤ 1 then some .chk else none
  | 0x60 => some .step
  | 0x7F => some .end_
  | _ => none

/-- R113: why the head word `w` of a stream is not ready. A BAR passes when its barrier releases, and takes no grant (log 70). -/
def State.headWait (s : State) (p : At) (w : InstrWord) : Option WaitKind :=
  match tileOp w with
  | none | some .binding => none
  | some .dma => s.dmaWait p w
  | some .mma => s.mmaWait p w
  | some .drn => s.drnWait p w
  | some .vop => s.vopWait p w
  | some .opt => s.optWait p w
  | some .gln => s.glnWait p w
  | some .semw => s.semwWait p w
  | some .sems => s.semsWait p
  | some .bar => some .barrier
  | some .col => s.colWait p w
  | some .chk => s.chkWait p w
  | some .step => s.stepWait p
  | some .end_ => s.endWait p

/-- R113: the next instruction of a stream is ready. -/
def State.headReady (s : State) (p : At) : Bool :=
  let st := s.st p
  st.cur.isSome && st.state != .halted && !s.streamHeld p.f p.n p.c p.k && !s.issueHeld p.f p.n &&
    match st.buf with
    | some w :: _ => (s.headWait p w).isNone
    | _ => false

/-- R112: how many slots after the one granted last a slot of a furrow comes. -/
def State.slotTurn (s : State) (f n slot : Nat) : Nat := (slot + 191 - s.lastSlot f n) % 192

/-- R112: no stream that the issue stage comes to before the one at `p` is ready, or that one is not. -/
def State.mayGrant (s : State) (p : At) : Bool :=
  !((s.slotsOf p.f p.n).any fun e =>
    decide (s.slotTurn p.f p.n e.1 < s.slotTurn p.f p.n (3 * p.c + p.k)) && s.headReady ⟨p.f, p.n, e.1 / 3, e.1 % 3⟩) ||
    !s.headReady p

/-- R112, R113: a tile instruction at the issue stage; where another stream's grant comes first nothing changes (log 6). -/
def tile (i : StreamId) (w : InstrWord) (run : StreamId → InstrWord → State → State) (s : State) : Out :=
  .next (if s.mayGrant (atOf i) then run i w s else s)

/-! ### The instructions (R124) -/

/-- R126: LDW binds a weight port. -/
def execLdw (i : StreamId) (body : BitVec 120) (s : State) : Out := tile i (tileWord 0x01 body) issueLdw s
/-- R126: LDA binds the activation operand. -/
def execLda (i : StreamId) (body : BitVec 120) (s : State) : Out := tile i (tileWord 0x02 body) issueLda s
/-- R126, R177: TRN binds a turned operand. -/
def execTrn (i : StreamId) (body : BitVec 120) (s : State) : Out := tile i (tileWord 0x03 body) issueTrn s
/-- R137, R138: DMA. -/
def execDma (i : StreamId) (body : BitVec 120) (s : State) : Out := tile i (tileWord 0x10 body) issueDma s
/-- R62, R129: MMA. -/
def execMma (i : StreamId) (body : BitVec 120) (s : State) : Out := tile i (tileWord 0x20 body) issueMma s
/-- R69, R70, R129: MMT. -/
def execMmt (i : StreamId) (body : BitVec 120) (s : State) : Out := tile i (tileWord 0x21 body) issueMma s
/-- R132: DRN. -/
def execDrn (i : StreamId) (body : BitVec 120) (s : State) : Out := tile i (tileWord 0x28 body) issueDrn s
/-- R140: CPY. -/
def execVopCpy (i : StreamId) (body : BitVec 114) (s : State) : Out := tile i (vopWord 0x00 body) issueVop s
/-- R140: ADD. -/
def execVopAdd (i : StreamId) (body : BitVec 114) (s : State) : Out := tile i (vopWord 0x01 body) issueVop s
/-- R140: SUB. -/
def execVopSub (i : StreamId) (body : BitVec 114) (s : State) : Out := tile i (vopWord 0x02 body) issueVop s
/-- R140: MUL. -/
def execVopMul (i : StreamId) (body : BitVec 114) (s : State) : Out := tile i (vopWord 0x03 body) issueVop s
/-- R140: FMA. -/
def execVopFma (i : StreamId) (body : BitVec 114) (s : State) : Out := tile i (vopWord 0x04 body) issueVop s
/-- R140: DIV. -/
def execVopDiv (i : StreamId) (body : BitVec 114) (s : State) : Out := tile i (vopWord 0x05 body) issueVop s
/-- R140: SQRT. -/
def execVopSqrt (i : StreamId) (body : BitVec 114) (s : State) : Out := tile i (vopWord 0x06 body) issueVop s
/-- R140: MAX. -/
def execVopMax (i : StreamId) (body : BitVec 114) (s : State) : Out := tile i (vopWord 0x07 body) issueVop s
/-- R140: MIN. -/
def execVopMin (i : StreamId) (body : BitVec 114) (s : State) : Out := tile i (vopWord 0x08 body) issueVop s
/-- R140: EXP. -/
def execVopExp (i : StreamId) (body : BitVec 114) (s : State) : Out := tile i (vopWord 0x09 body) issueVop s
/-- R140: TANH. -/
def execVopTanh (i : StreamId) (body : BitVec 114) (s : State) : Out := tile i (vopWord 0x0A body) issueVop s
/-- R140: ERF. -/
def execVopErf (i : StreamId) (body : BitVec 114) (s : State) : Out := tile i (vopWord 0x0B body) issueVop s
/-- R140: RSUM. -/
def execRsum (i : StreamId) (body : BitVec 114) (s : State) : Out := tile i (vopWord 0x0C body) issueVop s
/-- R140: RMAX. -/
def execRmax (i : StreamId) (body : BitVec 114) (s : State) : Out := tile i (vopWord 0x0D body) issueVop s
/-- R204: ADAMW. -/
def execAdamw (i : StreamId) (body : BitVec 114) (s : State) : Out := tile i (vopWord 0x10 body) issueOpt s
/-- R207: GSQ. -/
def execGsq (i : StreamId) (body : BitVec 114) (s : State) : Out := tile i (vopWord 0x11 body) issueOpt s
/-- R208: AFAPPLY. -/
def execAfapply (i : StreamId) (body : BitVec 114) (s : State) : Out := tile i (vopWord 0x12 body) issueOpt s
/-- R136: GLN INIT. -/
def execGlnInit (i : StreamId) (body : BitVec 118) (s : State) : Out := tile i (opWord2 0x38 0 body) issueGln s
/-- R182: GLN ACC. -/
def execGlnAcc (i : StreamId) (body : BitVec 118) (s : State) : Out := tile i (opWord2 0x38 1 body) issueGln s
/-- R183, R191: GLN ADD. -/
def execGlnAdd (i : StreamId) (body : BitVec 118) (s : State) : Out := tile i (opWord2 0x38 2 body) issueGln s
/-- R184: GLN FLUSH. -/
def execGlnFlush (i : StreamId) (body : BitVec 118) (s : State) : Out := tile i (opWord2 0x38 3 body) issueGln s
/-- R120: SEMW. -/
def execSemw (i : StreamId) (body : BitVec 120) (s : State) : Out := tile i (tileWord 0x40 body) issueSemw s
/-- R119: SEMS. -/
def execSems (i : StreamId) (body : BitVec 120) (s : State) : Out := tile i (tileWord 0x41 body) issueSems s
/-- R122, R123: BAR. -/
def execBar (i : StreamId) (body : BitVec 120) (s : State) : Out := tile i (tileWord 0x48 body) issueBar s
/-- R143: CHK with `COP` 0. -/
def execChkForce (i : StreamId) (body : BitVec 118) (s : State) : Out := tile i (opWord2 0x58 0 body) issueChk s
/-- R143: CHK with `COP` 1. -/
def execChkRead (i : StreamId) (body : BitVec 118) (s : State) : Out := tile i (opWord2 0x58 1 body) issueChk s
/-- R144: STEP. -/
def execStep (i : StreamId) (body : BitVec 120) (s : State) : Out := tile i (tileWord 0x60 body) issueStep s
/-- R144: END. -/
def execEnd (i : StreamId) (body : BitVec 120) (s : State) : Out := tile i (tileWord 0x7F body) issueEnd s
/-- R258: COL. `host` is what the client's memory holds at `SRC` when the descriptor is a SOW from host memory. -/
def execCol (i : StreamId) (body : BitVec 120) (host : List Byte) (s : State) : Out :=
  tile i (tileWord 0x50 body) (issueCol host) s
/-- R124, R145: UNKNOWN_OPCODE: a word that names no instruction halts its stream. -/
def execUnknownOpcode (i : StreamId) (w : InstrWord) (s : State) : Out := tile i w issueUnknown s

end Sys2Proof.Machine
end

