-- ==== Sys2Proof/Machine/Views.lean ====
section
/-! DEFINITION. Registers that are read from structured state: what a read of any BAR0 offset returns, before the access
rules (R83, R84, R93, R106, R115, R134, R150, R152, R316, R317, R351, R372, R384, R385, R403, R405, R429 to R431, R447,
R456, R471, R481, R507, R519, R540, R542, R543). -/

namespace Sys2Proof.Machine

/-- A register word from its fields: lowest bit, width, value. -/
def fields (l : List (Nat × Nat × Nat)) : Word32 := l.foldl (fun w e => insertBits w e.1 e.2.1 e.2.2) 0

/-- 1 for true. -/
def bit (b : Bool) : Nat := if b then 1 else 0

/-! ### Boot stage, alarm pins -/

/-- R492: the boot stage. -/
def State.stage (s : State) : Nat := s.rf R.SEC_BOOT_STAGE

/-- R403, R528: ALERT_N is asserted. -/
def State.alertPin (s : State) : Bool :=
  s.stage == 5 && s.flag R.FCOL_STAT_STATE && s.flag R.FCOL_CTRL_ALERT_EN

/-- R403, R492, R528: FAULT_N is asserted. -/
def State.faultPin (s : State) : Bool :=
  s.stage == 7 || (s.stage == 5 && (s.flag R.FCOL_STAT_DEVFATAL || s.flag R.FCOL_STAT_SEVPEND ||
    (s.flag R.FCOL_WIRE_INFO_VALID && !s.flag R.FCOL_WIRE_INFO_TEST)))

/-- R468, R528, R538: THERM_TRIP_N is asserted; without the standby rail it is released. -/
def State.tripPin (s : State) : Bool :=
  s.pins.standby && ((s.stage == 5 && !s.pwr.trips.isEmpty) || !s.pwr.analog.isEmpty)

/-! ### Power limits (R455, R456) -/

/-- Ticks of a millisecond (R473). -/
def msTicks : Nat := 25000

/-- The values of a limit in force in the last 100 ms, the current one first. -/
def inForce (now cur : Nat) (h : List Change) : List Nat :=
  cur :: (h.filter fun e => now ≤ e.at_ + 100 * msTicks).map (·.val)

/-- The largest of a list. -/
def maxOf (l : List Nat) : Nat := l.foldl max 0

/-- R455: A. -/
def State.allot (s : State) : Nat := s.rf R.PWR_ALLOT_ALLOT

/-- R415, R456: a limit lowered by the allotments of the harrow runs in progress. -/
def State.harrowCap (s : State) (a : Nat) : Nat :=
  (List.range 4).foldl (fun a f =>
    let x := s.rf (R.ALM_HRW_POWER_ALLOT f)
    if s.harrowing f && x != 0 then min a x else a) a

/-- R415, R419: the allotment in force: while a harrow run is in progress no more than its `ALLOT` and the forecast ceiling of
the current minute. -/
def State.allotInForce (s : State) : Nat :=
  let a := s.harrowCap s.allot
  if (List.range 4).any s.harrowing then min a (s.pwr.ceils.getD 0 320) else a

/-- R456: A*. -/
def State.aStar (s : State) : Nat := s.harrowCap (maxOf (inForce s.now s.allot s.pwr.aHist))

/-- R456: C*: only what was published for the current minute counts. -/
def State.cStar (s : State) : Nat :=
  maxOf (inForce s.now (s.pwr.ceils.getD 0 320)
    ((s.pwr.cHist.filter fun e => e.1 == s.rf R.PWR_FC_MIN_MIN).map Prod.snd))

/-- R456, R458, R526: the power brake has been asserted for 1 ms. -/
def State.braked (s : State) : Bool := s.pwr.pin && msTicks ≤ s.pwr.pinFor

/-- R456: E. -/
def State.limitE (s : State) : Nat := if s.braked then 60 else min s.aStar s.cStar

/-- R456: E at tick `t`, from now on, unless something changes. -/
def State.limitAt (s : State) (t : Nat) : Nat :=
  { s with now := t, pwr := { s.pwr with pinFor := s.pwr.pinFor + (t - s.now) } }.limitE

/-- R456: the ticks at which E may change by the passing of time. -/
def State.limitCuts (s : State) : List Nat :=
  (s.pwr.aHist ++ s.pwr.cHist.map Prod.snd).map (fun e => e.at_ + 100 * msTicks + 1) ++
    if s.pwr.pin then [s.now + (msTicks - s.pwr.pinFor)] else []

/-- R457: the integral of E over the next `n` ticks, in 10 W ticks. -/
def State.limitSum (s : State) (n : Nat) : Nat :=
  let cuts := (s.limitCuts.filter fun t => s.now < t && t < s.now + n).insertionSort (· ≤ ·)
  ((s.now :: cuts).zip (cuts ++ [s.now + n])).foldl (fun a e => a + (e.2 - e.1) * s.limitAt e.1) 0

/-! ### Domains (R543) -/

/-- R452: a field is awake. -/
def State.fieldAwake (s : State) (f : Nat) : Bool := s.rf (R.PWR_FLD_STATE f) == 2

/-- A physical furrow is retired. -/
def State.retired (s : State) (f n : Nat) : Bool := s.rf (R.FUR_MAP_STATE f n) == 2

/-- R443, R471, R543: a field reset holds field `f`. -/
def State.heldInReset (s : State) (f : Nat) : Bool := s.rf (R.PWR_FLD_STATE f) == 3

/-- The state of field `f`'s domain. -/
def State.fieldDomain (s : State) (f : Nat) : Nat :=
  if s.heldInReset f then 3
  else if s.isFenced (.field f) then 2 else if s.fieldAwake f then 0 else 1

/-- R542, R543: `BLK_STAT.DOMAIN` of a page. -/
def State.domainOf (s : State) (p : Page) : Nat :=
  match p with
  | .furrow f n => if s.heldInReset f then 3 else if s.retired f n then 2 else if s.awake f n then 0 else 1
  | .port q => if s.heldInReset (q / 2) then 3 else if s.isFenced (.port q) then 2 else 0
  | .field f | .hbm f _ | .fieldmem f | .colleng f => s.fieldDomain f
  | .context c | .serving c => if s.isFenced (.ctx c) then 2 else 0
  | _ => if s.flag R.FCOL_STAT_DEVFATAL then 2 else 0

/-- R542, R543: the common `PWR_STAT` word of a page: a sleeping unit's clock is gated as well as its logic (R451). -/
def State.gatedOf (s : State) (p : Page) : Nat × Nat :=
  match p with
  | .furrow f n =>
    if s.retired f n then (1, 1)
    else (bit (s.flag (R.CLK_GATE_FURROW_OFF f n) || !s.awake f n), bit (!s.awake f n))
  | .field f | .hbm f _ | .fieldmem f | .colleng f => (bit (s.fieldOff f || !s.fieldAwake f), bit (!s.fieldAwake f))
  | _ => (0, 0)

/-! ### Activity (R157) -/

/-- R157: a context is active: a command, a stream or a transfer of it is in progress. -/
def State.active (s : State) (c : Nat) : Bool :=
  s.queues.any (fun e => s.qCtx e.1 == c && e.2.cmds.any fun x => x.fin.isNone) || s.ctxWork c true ||
    s.copies.any fun x => s.qCtx x.queue == c

/-! ### The region window (R316) -/

/-- R316: the register at 0x104 to 0x120 of the commit page, for the selected region. -/
def State.regionView (s : State) (o : Nat) : Word32 :=
  let r := s.region (s.rf R.CMT_RSEL_REGION)
  match o with
  | 0x104 => fields [(0, 6, r.ctx), (6, 2, r.field), (8, 1, bit r.valid), (9, 1, bit r.mirrorRole), (10, 1, bit r.live),
      (11, 1, bit r.mirrored)]
  | 0x108 => fields [(0, 27, r.copy0)]
  | 0x10C => fields [(0, 27, r.copy1)]
  | 0x110 => fields [(0, 27, r.len)]
  | 0x114 => fields [(0, 24, r.partDev), (24, 6, r.partCtx), (30, 2, r.partFld)]
  | 0x118 => fields [(0, 12, r.partReg)]
  | 0x11C => BitVec.ofNat 32 (if r.mirrorRole then r.mstep else 0)
  | 0x120 => if r.mirrorRole then fields [(0, 8, r.run), (8, 1, bit (r.kept && r.drained)), (9, 1, bit r.implied)] else 0
  | _ => 0

/-! ### Streams and furrows (R83, R106, R150) -/

/-- R150: the code of a stream's state. -/
def StrmState.code : StrmState → Nat
  | .idle => 0 | .issuing => 1 | .waiting => 2 | .halted => 3

/-- R150: the code of a wait. -/
def WaitKind.code : WaitKind → Nat
  | .none => 0 | .semaphore => 1 | .barrier => 2 | .slot => 3 | .interlock => 4 | .fetch => 5 | .xferLimit => 6
  | .stepEnd => 7

/-- R150, R436: one word of a stream's entry; a fenced stream reads halted. -/
def State.strmView (s : State) (f n i w : Nat) (a : Nat) : Word32 :=
  let p : At := ⟨f, n, i / 3, i % 3⟩
  let st := s.st p
  let held := s.flag (R.FUR_STRM_ERR_VALID f n i)
  match w with
  | 0 => if held then s.reg a else BitVec.ofNat 32 st.pc
  | 4 => if held then s.reg a else BitVec.ofNat 32 (st.pc / 2 ^ 32)
  | 8 => fields [(0, 2, if s.isFenced (.stream f n p.c p.k) then 3 else st.state.code), (2, 3, st.wait.code),
      (8, 8, if st.wait = .semaphore then st.waitSem else 0), (16, 4, min 8 (s.outstanding p)), (20, 1, bit (st.stepped && s.stepCurrent p.c))]
  | _ => s.reg a

/-- R106: the overflow flags of 32 slots from `lo`. -/
def State.ovfView (s : State) (f n lo : Nat) : Word32 :=
  fields ((List.range 32).map fun i => (i, 1, bit ((s.fur f n).slot (lo + i)).ovf))

/-- R83: `FUR_ARRAY_STAT`. -/
def State.arrayView (s : State) (f n : Nat) : Word32 :=
  let x := s.fur f n
  let busy := fun j => bit (x.mmas.any fun o => o.arrays.testBit j)
  let ew := fun j => bit (x.vops.any fun o => o.unit == 4 + j)
  fields (((List.range 4).map fun j => (j, 1, busy j)) ++ ((List.range 4).map fun j => (4 + j, 1, ew j)) ++
    [(8, 1, bit (x.mmas.any (·.thin)))])

/-- R83, R171, R173: registers that count clocks, or requests waiting at one moment: `FUR_FEED_STALLj`, `FUR_DRAIN_STALL` and
`HBM_QUEUE`. -/
def isTimed (a : Nat) : Bool :=
  let o := a % 0x1000 / 4 * 4
  match pageAt a with
  | some (.furrow _ _) => 0x120 ≤ o && o < 0x134
  | some (.hbm _ _) => o == 0x108
  | _ => false

/-- R83, R171, R173: what such a register shows: a FREE VALUE of each read, within the bounds of its fields (log 84). -/
def State.timedView (s : State) (a : Nat) : Word32 :=
  let x := Config.freeWord s.freeCtr a
  match pageAt a with
  | some (.hbm _ _) =>
    let occ := x.toNat % 2 ^ 16 % 513
    fields [(0, 10, occ), (16, 10, max occ (x.toNat / 2 ^ 16 % 513))]
  | _ => x

/-- R431, R481: furrow-page registers that are views. -/
def State.furrowView (s : State) (f n o a : Nat) : Word32 :=
  if 0x400 ≤ o then s.strmView f n ((o - 0x400) / 16) (o % 16) a
  else if isTimed a then s.timedView a
  else match o with
    | 0x28 => if s.retired f n then fields [(0, 1, 1), (4, 4, 15)] ||| s.reg a else s.reg a
    | 0x134 => s.arrayView f n
    | 0x140 => s.ovfView f n 0
    | 0x144 => s.ovfView f n 32
    | _ => s.reg a

/-! ### Other pages -/

/-- R447: `STD_FENCE`, and `STD_DMA_FENCE`, which shows engines in the fenced phase of a fence of their own. -/
def State.fenceView (s : State) (o : Nat) : Word32 :=
  if o = 0x104 then
    fields (((List.range 4).map fun f => (f, 1, bit (s.isFenced (.field f)))) ++
      ((List.range 8).map fun p => (4 + p, 1, bit (s.isFenced (.port p)))) ++
      (List.range 4).map fun f => (12 + f, 1, bit (s.heldInReset f)))
  else
    fields ((List.range 32).map fun i => (i, 1, bit (s.fenceOf (.dma (i / 8) (i % 8)) == some .fenced)))

/-- R400, R439: a word of an entry of 32 bytes in a log. -/
def logView (l : Store (List Byte)) (o : Nat) : Word32 := BitVec.ofNat 32 (leAt (sgetD l (o / 32) []) (o % 32) 4)

/-- R471: power-page registers that are views. -/
def State.powerView (s : State) (o a : Nat) : Word32 :=
  match o with
  | 0x104 => fields [(0, 9, s.aStar), (16, 9, s.limitE)]
  | 0x108 =>
    let hot := fun i => bit (sget? s.pwr.hot i).isSome
    fields ([(0, 1, bit s.pwr.pin), (1, 1, s.rf R.PWR_STAT_LIMIT), (2, 1, bit (!s.braked && s.cStar < s.aStar)),
      (7, 1, bit (s.pwr.hot.any fun e => e.1 ≥ 4)), (8, 1, bit s.tripPin), (31, 1, s.rf R.PWR_STAT_REFUSED)] ++
      (List.range 4).map fun f => (3 + f, 1, hot f))
  | _ => s.reg a

/-- R429: almanac-page registers that are views; a flash write is in progress while an entry is staged (log 82). -/
def State.almView (s : State) (o a : Nat) : Word32 :=
  if 0x120 ≤ o ∧ o < 0x140 then BitVec.ofNat 32 (s.flash.heads.getD ((o - 0x120) / 4) 0)
  else match o with
    | 0x104 => fields [(0, 9, s.staged.length), (16, 1, bit (!s.staged.isEmpty))]
    | 0x10C => BitVec.ofNat 32 s.flash.pom
    | _ => s.reg a

/-- R507: security-page registers that are views: fuses, key slots, the manager key table. -/
def State.secView (s : State) (o a : Nat) : Word32 :=
  let loaded := fun lo => fields ((List.range 32).map fun i => (i, 1, bit (sget? s.sec.keys (lo + i)).isSome))
  match o with
  | 0x104 => s.reg a ||| fields [(8, 7, s.fuses.svn), (16, 4, s.fuses.revoked)]
  | 0x148 => loaded 0
  | 0x14C => loaded 32
  | 0x200 => fields [(0, 5, s.flash.keys.length), (8, 5, s.flash.need)]
  | _ => s.reg a

/-- R317: commit-page registers that are views. -/
def State.commitView (s : State) (o a : Nat) : Word32 :=
  if o < 0x800 then if 0x104 ≤ o ∧ o ≤ 0x120 then s.regionView o else s.reg a
  else
    let c := (o - 0x800) / 32
    match o % 32 with
    | 0 =>
      s.reg a ||| fields [(25, 1, bit (s.cstate c == stRunning && s.allStepped c && !s.stepWork c && !s.cmdsOpen c &&
        !s.queuesPending c && s.uncovered c != 0))]
    | 0xC => BitVec.ofNat 32 (s.uncovered c)
    | _ => s.reg a

/-- R384, R385: context-page registers that are views. -/
def State.contextView (s : State) (c o a : Nat) : Word32 :=
  match o with
  | 0x108 => s.reg a ||| fields [(0, 1, bit (s.active c))]
  | 0x138 => s.reg (A.HIF_JOB_LO (s.client c))
  | 0x13C => s.reg (A.HIF_JOB_HI (s.client c))
  | _ => s.reg a

/-- What a read of BAR0 offset `a` finds, before latches and access rules. -/
def State.view (s : State) (a : Nat) : Word32 :=
  let o := a % 0x1000
  match pageAt a with
  | none => 0
  | some p =>
    if p.hasCommon && o == 4 then 0x00B00001
    else if p.hasCommon && o == 0xC then fields [(0, 2, s.domainOf p)]
    else if p.hasCommon && o == 0x2C then fields [(0, 1, (s.gatedOf p).1), (1, 1, (s.gatedOf p).2)]
    else match p with
      | .steading =>
        if o = 0x104 then fields [(0, 1, bit s.pwr.pin), (1, 1, bit s.alertPin), (2, 1, bit s.faultPin),
          (3, 1, bit s.tripPin), (4, 1, bit (!s.pwr.analog.isEmpty))] else s.reg a
      | .qm =>
        let q := s.rf R.QM_QSEL_QUEUE
        if o = 0x104 then s.reg (A.QM_QBINDV q) else if o = 0x108 then fields [(0, 1, bit (s.queue q).refused)] else s.reg a
      | .collector =>
        if 0x800 ≤ o then logView s.fcolLog (o - 0x800)
        else if o = 0x108 then s.reg a ||| fields [(4, 1, bit s.faultPin), (5, 1, bit s.alertPin)] else s.reg a
      | .almanac => s.almView o a
      | .hang =>
        if 0x800 ≤ o then (if o < 0xA00 then logView s.hangLog (o - 0x800) else 0)
        else if o = 0x104 ∨ o = 0x108 then s.fenceView o else s.reg a
      | .power => s.powerView o a
      | .security => s.secView o a
      | .mgmt => if o = 0x104 then BitVec.ofNat 32 s.flash.boots else s.reg a
      | .fabric =>
        if o = 0x120 then fields [(0, 1, bit s.flash.expelled)]
        else if o = 0x124 then BitVec.ofNat 32 s.flash.qseq
        else if o = 0x128 then BitVec.ofNat 32 (s.flash.qseq / 2 ^ 32) else s.reg a
      | .commit => s.commitView o a
      | .context c => s.contextView c o a
      | .mailbox i =>
        if o < 0x100 then 0 else BitVec.ofNat 32 (leNat (s.sec.mailbox.readN unit64K (i * 0x1000 + o / 4 * 4) 4))
      | .field f =>
        if o = 0x488 then fields [(0, 2, (s.spares f).length), (8, 5, s.kmin f)]
        else if 0x800 ≤ o ∧ o < 0xC00 then BitVec.ofNat 32 (s.sem f (s.rf (R.FLD_SEM_SEL_CTX f)) ((o - 0x800) / 4))
        else s.reg a
      | .furrow f n => s.furrowView f n o a
      | .hbm _ _ => if isTimed a then s.timedView a else s.reg a
      | _ => s.reg a

end Sys2Proof.Machine
end

