-- ==== Sys2Proof/Machine/Almanac.lean ====
section
/-! DEFINITION. The almanac: staging and hold-back (R418, R422), entries (R419, R420), classification (R421), the flash
write, and the queries of entries (R429). -/

namespace Sys2Proof.Machine

/-! ### Staging (R418 to R422) -/

/-- R417: the class an entry is kept in. -/
def almClass (page event : Nat) : Nat :=
  if event = 2 then 6
  else if 5 ≤ event then 7
  else match pageAt page with
    | some (.furrow _ _) => 0
    | some (.hbm _ _) => 1
    | some (.port _) => 2
    | some (.field _) | some (.colleng _) => 3
    | some (.power) | some (.clock) => 5
    | _ => 4

/-- R417: the entries a class holds. -/
def almCapacity (cls : Nat) : Nat := [65536, 16384, 16384, 8192, 8192, 8192, 4096, 4096].getD cls 1

/-- R417, R489: the flash offset of the entry at an index of a class: the classes follow one another in the entry partition
(log 24). -/
def almOffset (cls index : Nat) : Nat :=
  FlashPart.almanac.span.1 + 64 * (((List.range cls).map almCapacity).sum + index % almCapacity cls)

/-- R420: the field of a page's unit (log 24). -/
def fieldOfPage (page : Nat) : Nat := if page < 0x1000000 then 0 else (page / 0x1000000 - 1) % 4

/-- R420: the activity signature of a unit. -/
def State.signature (s : State) (page : Nat) (m : Meas) : Nat :=
  m.util.toNat + 2 ^ 8 * sgetD s.lastMma (fieldOfPage page) 0 + 2 ^ 16 * m.hbm.toNat

/-- One entry is lost (R422, R429). -/
def State.almLose (s : State) : State := s.bump R.ALM_LOST_COUNT 1

/-- ALMANAC_ENTRY_STAGE (R418, R419, R422): an entry for a page and bit; `who` is the attributed context. An occurrence that
leaves no entry, held back or lost, is counted in the next one. -/
def State.almanac (s : State) (event page bit : Nat) (who : Option Nat) (detail : List Byte) (m : Meas) : State :=
  let k := pairKey page bit
  let (last, n) := sgetD s.heldBack k (none, 0)
  let missed := fun (s : State) => { s with heldBack := sput s.heldBack k (last, satAdd32 n 1) }
  if !s.flag R.ALM_CTRL_EN then missed s.almLose
  else if event = 0 ∧ last.any (fun t => s.now ≤ t + s.rf R.ALM_CTRL_HOLDOFF * 1000 * msTicks) then missed s
  else if s.staged.length ≥ 256 then missed (s.almLose.raiseSrc Page.almanacBase 1)
  else
    let e : AlmEntry :=
      { cls := almClass page event, page := page / 0x1000, bit := bit, event := event,
        code := if event = 2 ∨ 5 ≤ event then 0 else ((srcAt page bit).map fun x => x.1.code).getD 0,
        pom := s.flash.pom, time := s.now, temp := m.temp.toNat, vcore := m.vcore.toNat, clk := m.clk.toNat,
        allot := s.allotInForce, sig := s.signature page m, step := (who.map s.stepOf).getD 0, ctx := who,
        count := satAdd32 n 1, detail := detail }
    { s with staged := s.staged ++ [e], heldBack := sput s.heldBack k (some s.now, 0) }

/-! ### Entries in flash (R419, R421) -/

/-- Bytes padded with zeros, or cut, to a length. -/
def fitBytes (n : Nat) (b : List Byte) : List Byte := (List.range n).map fun i => b.getD i 0

/-- R419: bytes 0 to 59 of an entry with its sequence number and classification. -/
def AlmEntry.bytes (e : AlmEntry) (seq cls : Nat) : List Byte :=
  leBytes 4 seq ++ leBytes 4 e.pom ++ leBytes 8 e.time ++ leBytes 2 e.page ++ leBytes 1 e.bit ++ leBytes 1 e.event ++
    leBytes 1 (e.code + 16 * cls) ++ leBytes 1 e.temp ++ leBytes 2 e.vcore ++ leBytes 2 e.clk ++ leBytes 2 e.allot ++
    leBytes 4 e.sig ++ leBytes 4 e.step ++ leBytes 1 (match e.ctx with | some c => c | none => 64) ++ leBytes 3 0 ++
    leBytes 4 e.count ++ fitBytes 16 e.detail

/-- R230, R419: an entry closed by its CRC. -/
def withCrc (b : List Byte) : List Byte := b ++ leBytes 4 (crc32c b)

/-- R421: temperature band of an entry: the temperature is two's complement. -/
def bandOf (b : List Byte) : Int :=
  let t := leAt b 21 1
  (if t < 128 then (t : Int) else (t : Int) - 256) / 5

/-- R420: signature bucket of an entry. -/
def bucketOf (b : List Byte) : Nat := let g := leAt b 28 4; g / 2 ^ 8 % 32 * 4 + g / 2 ^ 6 % 4

/-- R421: the set S of a page and bit over entries. -/
def almSet (window : Nat) (l : List (List Byte)) (page bit : Nat) : List (List Byte) :=
  let mine := l.filter fun b => leAt b 16 2 == page && leAt b 18 1 == bit
  let newest := maxOf (mine.map fun b => leAt b 4 4)
  mine.filter fun b => [0, 1, 3, 4].contains (leAt b 19 1) && newest ≤ leAt b 4 4 + window * 1440

/-- Some value stands in a list three times. -/
def thrice {α : Type} [BEq α] (l : List α) : Bool := l.any fun x => (l.filter (· == x)).length ≥ 3

/-- R421: classification, size of S, and whether a band or a bucket holds three entries. -/
def classify (l : List (List Byte)) : Nat × Nat × Bool × Bool :=
  let bands := l.map bandOf
  let buckets := l.map bucketOf
  let c :=
    if l.isEmpty then 0
    else if l.length ≥ 3 ∧ bands.eraseDups.length ≥ 3 ∧ buckets.eraseDups.length ≥ 2 then 3
    else if thrice bands || thrice buckets then 2
    else 1
  (c, l.length, thrice bands, thrice buckets)

/-- R421: the classification of a page and bit over what the flash holds, and `more`. -/
def State.classifyAt (s : State) (more : List (List Byte)) (page bit : Nat) : Nat × Nat × Bool × Bool :=
  classify (almSet (s.rf R.ALM_CTRL_WINDOW) (s.flash.entries.map Prod.snd ++ more) page bit)

/-- R417, R421, R422: ALMANAC_FLASH_WRITE: the oldest staged entry is written to flash, or the write fails: the entry stays
staged and is retried once. -/
def execAlmanacFlashWrite (ok : Bool) (s : State) : Out :=
  match s.staged with
  | [] => .next s
  | e :: t =>
    if ok then
      let seq := s.flash.heads.getD e.cls 0
      let i := 65536 * e.cls + seq % almCapacity e.cls
      let held := { s with flash := { s.flash with entries := sdel s.flash.entries i } }
      let cls := (held.classifyAt [e.bytes seq 0] e.page e.bit).1
      let fl := { s.flash with entries := sput s.flash.entries i (withCrc (e.bytes seq cls)) }
      .next
        { s with staged := t, flash := fl.putHdr { fl.hdr with heads := fl.heads.set e.cls ((seq + 1) % 2 ^ 32) } }
    else
      let s := s.raiseSrc Page.almanacBase 0
      if e.tried then .next ({ s with staged := t }.almLose)
      else .next { s with staged := { e with tried := true } :: t }

/-- An entry as the flash delivers it; a place never written delivers what erased flash holds (log 3). `got` is what comes
back where it differs from what was written. -/
def State.almEntry (s : State) (cls index : Nat) (got : Option (List Byte)) : List Byte :=
  match got with
  | some b => fitBytes 64 b
  | none =>
    let i := 65536 * cls + index % almCapacity cls
    (sget? s.flash.entries i).getD ((List.range 64).map fun j => Config.freeByte 0 (2 ^ 40 + almOffset cls index + j))

/-- R422: an entry read back, and whether its CRC fails. -/
def crcFails (b : List Byte) : Bool := leAt b 60 4 != crc32c (b.take 60)

/-- R422: the read of an entry, raising the read source when its CRC fails. -/
def State.readAlmanac (s : State) (cls index : Nat) (got : Option (List Byte)) : List Byte × State :=
  let b := s.almEntry cls index got
  (b, if crcFails b then s.raiseSrc Page.almanacBase 2 else s)

/-- R429, R516: a read or a query starts. -/
def State.startRead (s : State) : State := { s with mg := { s.mg with readAt := some s.now } }

/-- R429, R516: a read or query may still be in progress: it takes up to 50 µs. -/
def State.readPending (s : State) : Bool := s.mg.readAt.any fun t => s.now < t + 1250

end Sys2Proof.Machine
end

