-- ==== Sys2Proof/Machine/Harrow.lean ====
section
/-! DEFINITION. Harrow runs (R412 to R416), and what RETIRE and a field reset do to them. -/

namespace Sys2Proof.Machine

/-! ### The tiles of a run (R413, R414) -/

/-- R413: word `j` of operand stream `d` of tile `t`. -/
def hword (run t k0 k1 : Word32) (d j : Nat) : Word32 :=
  philox run t (BitVec.ofNat 32 d) (BitVec.ofNat 32 (j / 4)) k0 k1 j

/-- R413: element `e` of width `w` of a stream, before its code is adjusted. -/
def hbits (word : Nat → Word32) (w e : Nat) : Nat :=
  let lo := w * e
  bitsOf ((word (lo / 32)).toNat + 2 ^ 32 * (word (lo / 32 + 1)).toNat) (lo % 32) w

/-- R413: an element code of a format. -/
def hcode (f : Fmt) (x : Nat) : Nat :=
  match f with
  | .bf16 => x / 2 ^ 15 * 2 ^ 15 + (0x70 + x / 2 ^ 7 % 2 ^ 8 % 32) * 2 ^ 7 + x % 2 ^ 7
  | .mxE4M3 | .mxE5M2 | .tsE4M3 | .tsE5M2 => if (f.decode x).isFinite then x else x - x / 4 % 2 * 4
  | _ => x

/-- R413: the 32 elements of K block `k` of row or column `x` of an operand, elements from stream `d`, scales from stream
`d + 1`; a row holds `32 · kb` elements. -/
def hblock (f : Fmt) (word : Nat → Nat → Word32) (d kb x k : Nat) : List Elem :=
  let e0 := 32 * (x * kb + k)
  let val := fun i => f.decode (hcode f (hbits (word d) f.width (e0 + i)))
  if f.isMx then
    let b := x * kb + k
    let sc := 0x70 + (word (d + 1) (b / 4)).toNat / 2 ^ (8 * (b % 4)) % 2 ^ 8 % 32
    (List.range 32).map fun i => scaledElem (val i) sc
  else if f.isTensor then (List.range 32).map fun i => scaledElem (val i) 0x7F
  else (List.range 32).map fun i => ⟨val i, 0⟩

/-- R414: the product a tile runs. -/
def harrowMma (thin : Bool) (t kb fmtA fmtB : Nat) : MmaOp :=
  let b : Binding := ⟨false, 0, 0, 0, 0, 0, 0⟩
  { owner := ⟨0, 0, 0, 0, 0⟩, thin := thin, mask := 15, slot := if thin then 4 * (t % 16) else t % 64, m := 32,
    n := if thin then 384 else 96, kb := kb, passes := 1, row0 := 0, col0 := 0, k0 := 0, fmtA := fmtA, fmtB := fmtB,
    bindA := b, bindW := [], clamp := true, fp := {} }

/-- The slots of the product. -/
def MmaOp.slots (o : MmaOp) : List Nat := (List.range (if o.thin then 4 else 1)).map (o.slot + ·)

/-- R414: the passes of a tile on a furrow, with the slots initialised first. -/
def harrowPasses (o : MmaOp) (a b : Nat → Nat → List Elem) (fs : FurrowSt) : FurrowSt :=
  let fs := o.slots.foldl (fun x i => x.setSlot i (initSlot o.thin (if o.thin then 8 else 32) o.n)) fs
  (List.range o.total).foldl (fun x t => passRows o (bankOf o t fun _ c k => b c k).1 a x) fs

/-- R414: the DRN of a tile: FP32 output, activation code t mod 7 in forward form, every other stage off. -/
def harrowDrn (t : Nat) : DrnFields :=
  { slot := 0, ofmt := 1, sr := false, deriv := false, act := t % 7, scale := 0, bias := 0, res := 0, side := false,
    sumsq := false, record := false, biasFp32 := false, zFp32 := false, desc := 0, tag := 0, tile := 0, oscale := 0 }

/-- What a tile's drain gives on one furrow: the bytes it writes, its four counters, its failed and its skipped checks. -/
abbrev TileResult := List (List Byte) × Counts × Nat × Nat

/-- R76, R95, R143, R414: what the drain of one slot of tile `t` gives, in self-check mode. -/
def State.harrowResult (s : State) (f n t : Nat) (sl : Slot) : TileResult :=
  let r := drainAll ⟨s, f, n, 0, [], harrowDrn t, sl⟩ true {} none (s.rf (R.FUR_CHK_CTRL_TOL_MULT f n))
  (r.writes.map Prod.snd, r.counts, maskOf r.fail, maskOf r.skip)

/-- R78, R83, R414: one failed row check of a tile's drain: counted, recorded if it is the first, and reported for no
context. -/
def State.harrowCheck (s : State) (f n : Nat) (o : DrnOp) (bit : Nat) : State :=
  ((s.bump (R.FUR_CHK_FAILS_COUNT f n) 1).firstCheck f n o bit).raiseSrc (Page.furrowBase f n) 0

/-- R78, R143, R414: the drain of a tile, of its slot `i` (in thin layout the first of the four, log 81): what it gives, and the slot with its check masks. It is no DRN of a
stream, and `FUR_DRN_COUNT` and `FUR_DRN_SKIP` do not count it (the model's choice, log 81); the bytes it writes go to the
comparison alone (log 81). -/
def State.harrowDrain (s : State) (f n t i : Nat) : TileResult × State :=
  let fs := s.fur f n
  let sl := fs.slot i
  let r := s.harrowResult f n t sl
  let op : DrnOp :=
    { owner := ⟨0, 0, 0, 0, 0⟩, slot := i, named := i, rec? := none, counts := r.2.1, failMask := r.2.2.1,
      skipMask := r.2.2.2, thin := sl.thin, sumsq := false, q := 0, discarded := false, fp := {} }
  let s := s.setFur f n (fs.setSlot i { sl with failMask := r.2.2.1, skipMask := r.2.2.2, drainStep := 0, forces := [] })
  (r, ((List.range 32).filter fun b => r.2.2.1.testBit b).foldl (fun s b => s.harrowCheck f n op b) s)

/-- R414: tile `t` of the run in field `f` on furrow `n`: what its drain gives and the state it leaves. A furrow that errs
(`bad`) leaves slots of which nothing is known (log 3). -/
def State.harrowRun (s : State) (f n t : Nat) (bad : Bool) : TileResult × State :=
  let fmtA := s.rf (R.ALM_HRW_CTRL_FMTA f)
  let fmtB := s.rf (R.ALM_HRW_CTRL_FMTB f)
  let kb := s.rf (R.ALM_HRW_COND_KB f)
  let word := hword (s.reg (A.ALM_HRW_RUN f)) (BitVec.ofNat 32 t) (s.reg (A.ALM_HRW_SEED_LO f)) (s.reg (A.ALM_HRW_SEED_HI f))
  let o := harrowMma (s.flag (R.ALM_HRW_CTRL_THIN f)) t kb fmtA fmtB
  let fa := (Fmt.ofCode fmtA).getD .bf16
  let fb := (Fmt.ofCode fmtB).getD .bf16
  let fs := harrowPasses o (hblock fa word 0 kb) (hblock fb word 2 kb) (s.fur f n)
  let (r, s) := ((s.setFur f n fs).noteMma f fmtA o.thin).harrowDrain f n t o.slot
  if bad then
    let (i, s) := s.fresh
    let fs := s.fur f n
    (r, s.setFur f n (o.slots.foldl (fun x k => x.setSlot k { x.slot k with undef := some i, lev := [], lane := [] }) fs))
  else (r, s)

/-! ### Starting and ending (R412, R415, R416) -/

/-- A physical furrow of the field that is not retired. -/
def State.goodFurrow (s : State) (f n : Nat) : Bool := n < 26 && !s.retired f n

/-- R412: the device accepts a run. -/
def State.harrowOk (s : State) (f : Nat) : Bool :=
  let a := s.rf (R.ALM_HRW_CTRL_FURA f)
  let b := s.rf (R.ALM_HRW_CTRL_FURB f)
  let r := s.rf (R.ALM_HRW_CTRL_FURR f)
  !((List.range 64).any fun c => s.resident c && s.inMask c f) && !s.isFenced (.field f) &&
    s.rf (R.PWR_FLD_STATE f) != 3 && a != b && s.goodFurrow f a && s.goodFurrow f b &&
    (r == 31 || (s.goodFurrow f r && r != a && r != b))

/-- R412, R415, R430: 1 is written to `GO`: the run waits for its band, or runs at once where it names none. -/
def State.harrowGo (s : State) (f : Nat) : State :=
  if s.harrowOk f then
    let s := s.setReg (A.ALM_HRW_RUN f) (s.reg (A.ALM_HRW_RUN f) + 1)
    let s := ((s.setReg (A.ALM_HRW_DONE f) 0).setReg (A.ALM_HRW_MIS f) 0).setReg (A.ALM_HRW_FIRST f) 0
    (s.setReg (A.ALM_HRW_FIRSTP f) 0).wf (R.ALM_HRW_STAT_STATE f)
      (if s.rf (R.ALM_HRW_COND_TLO f) = 0 ∧ s.rf (R.ALM_HRW_COND_THI f) = 0 then 2 else 1)
  else s.wf (R.ALM_HRW_STAT_STATE f) 5

/-- R416, R419: a run ends with a state, and its summary goes to the almanac. -/
def State.endHarrow (s : State) (f st : Nat) (m : Meas) : State :=
  let s := s.wf (R.ALM_HRW_STAT_STATE f) st
  s.almanac 2 (Page.fieldBase f) 0 none
    (leBytes 4 (s.reg (A.ALM_HRW_RUN f)).toNat ++ leBytes 4 (s.reg (A.ALM_HRW_DONE f)).toNat ++
      leBytes 4 (s.reg (A.ALM_HRW_MIS f)).toNat ++ leBytes 1 (s.rf (R.ALM_HRW_CTRL_FURA f)) ++
      leBytes 1 (s.rf (R.ALM_HRW_CTRL_FURB f)) ++ leBytes 1 (s.rf (R.ALM_HRW_CTRL_FURR f))) m

/-- R416: a run in progress is stopped. -/
def State.stopHarrow (s : State) (f : Nat) (m : Meas) : State := if s.harrowing f then s.endHarrow f 4 m else s

/-- R415: the temperature is compared with the run's band: below, in, or above it; with no band every tile is compared. -/
def State.inBand (s : State) (f : Nat) (m : Meas) : Ordering :=
  let lo := s.rf (R.ALM_HRW_COND_TLO f)
  let hi := s.rf (R.ALM_HRW_COND_THI f)
  let t := m.temp.toInt
  if lo = 0 ∧ hi = 0 then .eq else if t < lo then .lt else if t > hi then .gt else .eq

/-- R410, R414: a mismatch of a run is attributed to a furrow: its page's source 5, its count and an almanac entry. -/
def State.harrowMismatch (s : State) (f n t attr : Nat) (m : Meas) : State :=
  let s := s.raiseSrc (Page.furrowBase f n) 5
  s.almanac 3 (Page.furrowBase f n) 5 none
    (leBytes 4 (s.reg (A.ALM_HRW_RUN f)).toNat ++ leBytes 4 t ++ leBytes 1 (s.rf (R.ALM_HRW_CTRL_FURA f)) ++
      leBytes 1 (s.rf (R.ALM_HRW_CTRL_FURB f)) ++ leBytes 1 attr) m

/-- R414: the attributed furrow of a tile whose results differ, 31 for both; `eqA` and `eqB` tell whether FURA's and FURB's
result equals the referee's. -/
def State.harrowAttr (s : State) (f : Nat) (eqA eqB : Bool) : Nat :=
  if s.rf (R.ALM_HRW_CTRL_FURR f) = 31 then 31
  else if eqA && !eqB then s.rf (R.ALM_HRW_CTRL_FURB f)
  else if eqB && !eqA then s.rf (R.ALM_HRW_CTRL_FURA f) else 31

/-- R414: the comparison of tile `t`. -/
def State.compareTile (s : State) (f t : Nat) (m : Meas) (differs eqA eqB : Bool) : State :=
  let a := s.rf (R.ALM_HRW_CTRL_FURA f)
  let b := s.rf (R.ALM_HRW_CTRL_FURB f)
  let s := s.wf (R.ALM_HRW_DONE_TILES f) (t + 1)
  let s :=
    if !differs then s
    else
      let attr := s.harrowAttr f eqA eqB
      let s := s.wf (R.ALM_HRW_MIS_TILES f) (s.rf (R.ALM_HRW_MIS_TILES f) + 1)
      let s := if s.flag (R.ALM_HRW_FIRSTP_VALID f) then s
        else
          let s := (s.wf (R.ALM_HRW_FIRST_TILE f) t).wf (R.ALM_HRW_FIRSTP_A f) a
          ((s.wf (R.ALM_HRW_FIRSTP_B f) b).wf (R.ALM_HRW_FIRSTP_ATTR f) attr).wf (R.ALM_HRW_FIRSTP_VALID f) 1
      (if attr = 31 then [a, b] else [attr]).foldl (fun s n => s.harrowMismatch f n t attr m) s
  if t + 1 = s.rf (R.ALM_HRW_TILES_TILES f) then s.endHarrow f 3 m else s

/-- The furrows a run may use. -/
def State.harrowFurrows (s : State) (f : Nat) : List Nat :=
  [s.rf (R.ALM_HRW_CTRL_FURA f), s.rf (R.ALM_HRW_CTRL_FURB f), s.rf (R.ALM_HRW_CTRL_FURR f)].filter (· != 31)

/-- R413 to R415, R452: HARROW_TILE: the next tile of the run in field `f`, whose furrows are awake, at the measured temperature.
What the drains give is computed and compared; `differs` tells whether a furrow erred so that the results differ, `eqA` and
`eqB` whether FURA's and FURB's came out as the referee's. -/
def execHarrowTile (f : Fin 4) (m : Meas) (differs eqA eqB : Bool) (s : State) : Out :=
  if !s.harrowing f || !(s.harrowFurrows f).all (s.awake f) then .next s
  else match s.inBand f m with
    | .gt => .next (s.wf (R.ALM_HRW_STAT_STATE f) 1)
    | o =>
      let t := s.rf (R.ALM_HRW_DONE_TILES f)
      let a := s.rf (R.ALM_HRW_CTRL_FURA f)
      let b := s.rf (R.ALM_HRW_CTRL_FURB f)
      let r := s.rf (R.ALM_HRW_CTRL_FURR f)
      let attr := s.harrowAttr f eqA eqB
      let hit := fun n => differs && (attr == 31 || attr == n)
      let (ra, s) := s.harrowRun f a t (hit a)
      let (rb, s) := s.harrowRun f b t (hit b)
      if o = .lt then .next (s.wf (R.ALM_HRW_STAT_STATE f) 1)
      else
        let differs := differs || ra != rb
        let (rr, s) := if differs && r != 31 then let (x, s) := s.harrowRun f r t false; (some x, s) else (none, s)
        .next ((s.wf (R.ALM_HRW_STAT_STATE f) 2).compareTile f t m differs (eqA && some ra == rr) (eqB && some rb == rr))

/-- R415: HARROW_TIMEOUT: no tile has been compared `TWAIT` seconds after GO. -/
def execHarrowTimeout (f : Fin 4) (m : Meas) (s : State) : Out :=
  if s.harrowing f && s.rf (R.ALM_HRW_DONE_TILES f) == 0 then .next (s.endHarrow f 6 m) else .next s

/-! ### Shadow comparisons (R409, R410) -/

/-- R410: a shadow comparison that finds a difference. -/
def State.shadowMismatch (s : State) (x : ShadowOp) (m : Meas) : State :=
  let c := x.owner.ctx
  let det := leBytes 1 x.orig ++ leBytes 1 x.engine ++ leBytes 1 x.slot ++ leBytes 1 x.opcode ++ leBytes 4 x.coord
  let s := [x.orig, x.engine].foldl (fun s n =>
    ((s.raiseFor (Page.furrowBase x.field n) 5 (some c)).bump (R.FUR_XCHK_CNT_COUNT x.field n) 1).almanac 4
      (Page.furrowBase x.field n) 5 (some c) det m) s
  (s.bump (R.FLD_SHADOW_MIS_COUNT x.field) 1).blockCause c 2

/-- R409: the engine has repeated the instruction, in its own slot with the one that is compared: it holds what the original's
slot holds, or, where it erred, values of which nothing is known (log 83). -/
def State.repeatSlot (s : State) (x : ShadowOp) (differs : Bool) : State :=
  if x.opcode ≠ 0x28 then s
  else
    let i := s.rf (R.FLD_ACQ_BASE x.owner.ctx x.field) + x.slot
    let sl := (s.fur x.field x.orig).slot i
    let (k, s) := if differs then let (k, s) := s.fresh; (some k, s) else (sl.undef, s)
    s.setFur x.field x.engine
      ((s.fur x.field x.engine).setSlot i
        (if differs then { sl with undef := k, lev := [], lane := [], shadow := none } else { sl with shadow := none }))

/-- R409, R410: SHADOW_COMPARE: comparison `i` that a shadow engine of field `f` still owes is made; `differs` is what it
finds. -/
def execShadowCompare (f : Fin 4) (i : Nat) (differs : Bool) (m : Meas) (s : State) : Out :=
  match (s.shadows.filter fun x => x.field == f.val)[i]? with
  | none => .next s
  | some x =>
    let s := { s with shadows := s.shadows.erase x }.repeatSlot x differs
    .next (if differs then s.shadowMismatch x m else s)

end Sys2Proof.Machine
end

