-- ==== Sys2Proof/Machine/Reset.lean ====
section
/-! DEFINITION. What a fence abandons (R435 to R437), the ends of fences (R438), and the reset domains: context, field and
port (R300, R338, R440 to R445), with the commands RESET_CTX, RESET_FIELD and RESET_PORT, and FENCE_DRAINED and
FENCE_DRAIN_TIMEOUT. -/

namespace Sys2Proof.Machine

/-! ### Abandoning work (R435 to R437) -/

/-- R437: a command that a fence abandons: unbound it completes with TIMEOUT, bound it counts as finished and its step carries
the fence's blocking cause. -/
def State.abandonCmd (s : State) (q seq : Nat) : State :=
  match s.cmd? q seq with
  | none => s
  | some c =>
    if c.fin.isSome then s
    else if c.step.isSome then (s.setCmd q { c with fin := some (timeoutStatus, 0) }).blockCause (s.qCtx q) 5
    else s.finishCmd q seq timeoutStatus 0

/-- The transfers of field `f` that `gone` names are dropped; `eng` is the engine of a transfer in progress. -/
def State.dropXfers (s : State) (f : Nat) (gone : Option Nat → Xfer → Bool) : State :=
  let d := s.dmaOf f
  (s.setDma f
    { waiting := d.waiting.filter fun x => !gone none x, handoff := d.handoff.filter fun x => !gone none x,
      active := d.active.filter fun e => !gone (some e.1) e.2 }).feedDma f

/-- The user stops waiting (R436). -/
def ColUser.release (n k : Nat) : ColUser → ColUser
  | .stream n' k' sem w => .stream n' k' sem (w && !(n' == n && k' == k))
  | u => u

/-- R436: a fenced stream's transfers end; of its collective operations only the wait. -/
def State.abandonStream (s : State) (f n c k : Nat) : State :=
  let s := s.dropXfers f fun _ x => x.is ⟨f, n, c, k⟩
  let e := s.eng f
  s.setEng f
    { e with
      ops := e.ops.map fun o => if o.ctx == c then { o with users := o.users.map (ColUser.release n k) } else o
      waiting := e.waiting.map fun w => if w.ctx == c then { w with user := w.user.release n k } else w }

/-- R436: a fenced queue's started commands end. -/
def State.abandonQueue (s : State) (q : Nat) : State :=
  let s := { s with copies := s.copies.filter fun x => x.queue != q }
  (s.queue q).cmds.foldl (fun s c => s.abandonCmd q c.seq) s

/-- A copy touches field `f` in device memory. -/
def CopyOp.touches (x : CopyOp) (f : Nat) : Bool :=
  let hit := fun a => fieldOf a ≤ f && f ≤ fieldOf (a + x.len - 1)
  x.len != 0 && ((!x.srcHost && x.pattern.isNone && hit x.src) || (!x.dstHost && hit x.dst))

/-- The copies that `gone` names are dropped, and their commands abandoned. -/
def State.dropCopies (s : State) (gone : CopyOp → Bool) : State :=
  (s.copies.filter gone).foldl (fun s x => s.abandonCmd x.queue x.seq) { s with copies := s.copies.filter fun x => !gone x }

/-- The launches of the streams that `at_` names end, and their commands are abandoned; so do the sequencer runs `run`
names. -/
def State.dropLaunches (s : State) (at_ : At → Bool) (run : SeqRun → Bool) : State :=
  let key := fun (e : Nat × StreamSt) => (⟨e.1 / 192 / 26, e.1 / 192 % 26, e.1 / 3 % 64, e.1 % 3⟩ : At)
  let hit := s.streams.filter fun e => at_ (key e)
  let cmds := (hit.flatMap fun e => (e.2.cur.toList ++ e.2.launches).map fun l => (l.queue, l.seq)) ++
    (s.seqRuns.filter run).map fun r => (r.queue, r.seq)
  let s :=
    { s with
      seqRuns := s.seqRuns.filter fun r => !run r
      streams := s.streams.map fun e =>
        if at_ (key e) then
          (e.1, { e.2 with state := .idle, wait := .none, cur := none, launches := [], buf := [], arrived := none })
        else e }
  cmds.eraseDups.foldl (fun s x => s.abandonCmd x.1 x.2) s

/-- R258, R262, R335, R436: the collective operations and waiting descriptors of field `f`'s engine that belong to a context
`who` names end with TIMEOUT, raising no semaphore; what other contexts have waiting takes the room. -/
def State.dropOps (s : State) (f : Nat) (who : Nat → Bool) : State :=
  let e := s.eng f
  let gone := e.waiting.filter fun w => who w.ctx
  let s := s.setEng f { e with waiting := e.waiting.filter fun w => !who w.ctx }
  let s := gone.foldl (fun s w =>
    match w.user with
    | .cmd q seq => s.abandonCmd q seq
    | .swap q seq => (s.abandonCmd q seq).swapEnded w.ctx q seq timeoutStatus
    | _ => s) s
  let ops := e.ops.filter fun o => who o.ctx && !o.done
  let s := (ops.flatMap fun o => o.users).foldl (fun s u =>
    match u with
    | .cmd q seq | .swap q seq => s.abandonCmd q seq
    | _ => s) s
  (ops.foldl (fun s o => s.endOp o timeoutStatus true) s).nextWaiting f

/-- R436: a transfer touches field `f` in HBM. -/
def Xfer.touches (x : Xfer) (f : Nat) : Bool :=
  x.dir ≤ 1 && x.rows.any fun r => x.rlen != 0 && fieldOf r.2 ≤ f && f ≤ fieldOf (r.2 + x.rlen - 1)

/-- R436: what a fenced field abandons: launches in it, transfers on its engines, operations of its collective engine,
copies that touch it, and other fields' transfers in its memory. -/
def State.abandonField (s : State) (f : Nat) : State :=
  let s := s.dropLaunches (fun p => p.f == f) (fun r => r.field == f)
  let s := s.dropXfers f fun _ _ => true
  let s := (List.range 4).foldl (fun s g => if g = f then s else s.dropXfers g fun e x => e.isSome && x.touches f) s
  (s.dropCopies (·.touches f)).dropOps f fun _ => true

/-- R436: what a fenced context abandons: its launches, transfers, collective operations and commands. -/
def State.abandonCtx (s : State) (c : Nat) : State :=
  let s := s.dropLaunches (fun p => p.c == c) (fun r => r.ctx == c)
  let s := (List.range 4).foldl (fun s f => (s.dropXfers f fun _ x => x.owner.ctx == c).dropOps f fun d => d == c) s
  (s.ctxQueues c).foldl State.abandonQueue s

/-- R435, R436: the fence of a domain abandons what is outstanding. -/
def State.abandonDom (s : State) (d : Dom) : State :=
  match d with
  | .stream f n c k => s.abandonStream f n c k
  | .queue q => s.abandonQueue q
  | .dma f e => s.dropXfers f fun g _ => g == some e
  | .port _ => s
  | .field f => s.abandonField f
  | .ctx c => s.abandonCtx c

/-- R435, R436: something of a domain is outstanding. -/
def State.outstandingOf (s : State) (d : Dom) : Bool :=
  let launched := fun (at_ : At → Bool) =>
    s.streams.any fun e => at_ ⟨e.1 / 192 / 26, e.1 / 192 % 26, e.1 / 3 % 64, e.1 % 3⟩ &&
      (e.2.cur.isSome || !e.2.launches.isEmpty)
  match d with
  | .stream f n c k => s.outstanding ⟨f, n, c, k⟩ != 0
  | .queue q => (s.queue q).cmds.any fun c => c.fin.isNone
  | .dma f e => (s.dmaOf f).load e != 0
  | .port _ => false
  | .field f =>
    launched (fun p => p.f == f) || s.seqRuns.any (fun r => r.field == f) || !(s.dmaOf f).active.isEmpty ||
      (s.eng f).ops.any (fun o => !o.done) || !(s.eng f).waiting.isEmpty || s.copies.any (·.touches f) ||
      s.dma.any fun e => e.2.active.any fun x => x.2.touches f
  | .ctx c =>
    launched (fun p => p.c == c) || s.ctxWork c true ||
      (s.ctxQueues c).any fun q => (s.queue q).cmds.any fun x => x.fin.isNone

/-- R435: the draining phase of a fence ends. -/
def State.enterFenced (s : State) (d : Dom) : State :=
  { s with fences := s.fences.map fun e => if e.1 == d then (d, .fenced) else e }

/-- R435: FENCE_DRAINED: nothing of a draining domain is outstanding. -/
def execFenceDrained (d : Dom) (s : State) : Out :=
  if s.fenceOf d = some .draining ∧ !s.outstandingOf d then .next (s.enterFenced d) else .next s

/-- R435, R437: FENCE_DRAIN_TIMEOUT: `STD_WD_CTRL.DRAIN` has passed; what is outstanding is abandoned. -/
def execFenceDrainTimeout (d : Dom) (s : State) : Out :=
  if s.fenceOf d = some .draining then .next ((s.abandonDom d).enterFenced d) else .next s

/-! ### Context reset (R440, R442) -/

/-- R440: a context reset returns the register at offset `a` to its reset value. -/
def ctxReg (c a : Nat) : Bool :=
  let o := a % 0x1000
  match pageAt a with
  | some (.context d) => d == c && o != 0x100 && !(0x140 ≤ o && o < 0x180)
  | some (.serving d) => d == c
  | some .commit => 0x800 ≤ o && (o - 0x800) / 32 == c
  | some (.colleng _) => 0x400 ≤ o && o < 0x800 && (o - 0x400) / 16 == c
  | some (.field _) => 0xC00 ≤ o && (o - 0xC00) / 16 == c && o % 16 != 4
  | some (.furrow _ _) => 0x400 ≤ o && (o - 0x400) / 48 == c
  | some .hostif => a == A.HIF_CEVTS c
  | _ => false

/-- R440: the context's on-chip stores in field `f` read as 0: slots, seedbed quota, gleaning and sheaf share. -/
def State.clearOnChip (s : State) (c f : Nat) : State :=
  let sb := s.rf (R.FLD_SBQ_BASE c f)
  let sn := s.rf (R.FLD_SBQ_SIZE c f)
  let ab := s.rf (R.FLD_ACQ_BASE c f)
  let an := s.rf (R.FLD_ACQ_COUNT c f)
  let gb := s.rf (R.FLD_GLQ_BASE c f)
  let gn := s.rf (R.FLD_GLQ_SIZE c f)
  let s := (List.range 26).foldl (fun s n =>
    let x := s.fur f n
    let s := s.setFur f n { x with slots := sclear x.slots ab (ab + an) }
    let u := furKey f n * 128
    { s with
      seedbed := s.seedbed.clearUnits unit64K (u + sb) (u + sb + sn)
      glean := s.glean.clearUnits gleanUnit (u + gb) (u + gb + gn) }) s
  let u := f * 1024 + s.rf (R.FLD_SHEAF_BASE f c)
  { s with sheaf := s.sheaf.clearUnits unit64K u (u + s.rf (R.FLD_SHEAF_SIZE f c)) }

/-- The fence belongs to a stream of the context, or to the context. -/
def domOfCtx (c : Nat) : Dom → Bool
  | .stream _ _ d _ => d == c
  | .ctx d => d == c
  | _ => false

/-- R440: a region of the context after its reset: L is 0 and no pair is kept. -/
def Region.afterReset (r : Region) (c : Nat) : Region :=
  if r.ctx = c then
    { r with
      live := false, mstep := 0, run := 0, kstep := 0, kept := false, drained := false, flipped := false, implied := false,
      applied := 0, sentData := 0, sentEnd := false, endCount := 0, ackDrained := false, ackFailed := false, back := false }
  else r

/-- R391: the early-store-full conditions of all engines after packets, or their stores, are gone. -/
def State.easeAll (s : State) : State := (List.range 4).foldl State.easeEarly s

/-- R440, R442(3, 4): everything a context reset clears; the context enters RESET. -/
def State.resetContext (s : State) (c : Nat) : State :=
  let s := (s.stopWork c).clearCovers c
  let s := s.setReg (A.CTX_MEM c) (resetValue (A.CTX_MEM c))
  let s := (List.range 4).foldl (fun s f =>
    ((s.granulesOf c f).foldl (fun s g => s.clearGranule f g) s).clearOnChip c f) s
  State.easeAll { s with
    regs := s.regs.filter fun e => !ctxReg c e.1
    wrStage := s.wrStage.filter fun e => !ctxReg c (e.1 % 2 ^ 27)
    ifLatch := s.ifLatch.filter fun e => e.1 % 64 != c
    ctxs := sdel s.ctxs c
    serv := sdel s.serv c
    streams := s.streams.filter fun e => e.1 / 3 % 64 != c
    sems := s.sems.filter fun e => e.1 / 256 % 64 != c
    engines := s.engines.map fun e =>
      (e.1,
        { e.2 with
          closed := e.2.closed.filter fun x => x.1 != c
          early := e.2.early.filter fun x => x.1 != c })
    regions := s.regions.map fun e => (e.1, e.2.afterReset c)
    fences := s.fences.filter fun e => !domOfCtx c e.1
    sec := { s.sec with keys := sdel s.sec.keys c } }

/-- R436: a queue is fenced unless it is disabled; in ERROR it keeps that state. -/
def State.fenceQueue (s : State) (q : Nat) (ph : FPhase) : State :=
  if s.qState q = qDisabled ∨ s.isFenced (.queue q) then s
  else
    let s := { s with fences := s.fences ++ [(Dom.queue q, ph)] }
    if s.qState q = qError then s else s.wf (R.QM_QSTAT_STATE q) qFenced

/-- R442: the reset of a context by command (log 26: the drain of its fence runs to its timeout). -/
def State.resetCtxCmd (s : State) (rings : Rings) (c : Nat) : State :=
  let s := (s.ctxQueues c).foldl (fun s q => s.fenceQueue q .fenced) s
  let s := s.abandonCtx c
  let s := if s.stepCurrent c then s.abortCmds rings c else s
  s.resetContext c

/-- R441, R442: RESET_CTX; `rings` shows the commands of the context that have not started. -/
def execResetCtx (q : Fin 8192) (rings : Rings) (s : State) : Out :=
  .next (runCmd q 0x4C (fun w seq s =>
    let c := cmdAt w 32 1
    if c ≥ 64 || !s.resident c || s.qCtx q == c || (List.range 31).any (fun i => cmdAt w (33 + i) 1 != 0) then
      .stop invalid 32
    else if s.flag R.FCOL_STAT_DEVFATAL || (List.range 4).any s.heldInReset then .stop stStatus (s.cstate (s.qCtx q))
    else .run (thenOk q seq fun s => s.resetCtxCmd rings c)) s)

/-! ### Port reset (R440, R445) -/

/-- R241, R440: a packet that another port sends on from the receive buffer of port `p`, which is cleared: it is gone where no
slot of it was sent; otherwise zeros follow what was sent, and an ABORT slot. -/
def OutPkt.resetFrom (p : Nat) (x : OutPkt) : Option OutPkt :=
  if x.from_ ≠ p ∨ x.sent = 2 + x.hdr.len then some x
  else if x.sent = 0 then none
  else
    let n := 16 * (x.sent - 2)
    some { x with bytes := x.bytes.take n ++ List.replicate (16 * x.hdr.len - n) 0, whole := true, abort := true }

/-- R440: the receive buffer of port `p` is cleared of what other ports were still to send. -/
def State.clearReceived (s : State) (p : Nat) : State :=
  (List.range 8).foldl (fun s o =>
    let y := s.port o
    s.setPort o
      { y with
        held := y.held.filterMap (OutPkt.resetFrom p), cur := y.cur.bind (OutPkt.resetFrom p)
        sCur := y.sCur.bind (OutPkt.resetFrom p) }) s

/-- R440: a port's page, buffers, credits and keys are cleared; it is DISABLED. -/
def State.resetPort (s : State) (p : Nat) : State :=
  let s := (s.portDown p pDisabled).clearReceived p
  let s := (s.setPort p {}).setPll (10 + p) 0
  let s := { s with inbox := s.inbox.filter fun e => e.1 != p }.easeAll
  ((s.resetPage (Page.portBase p)).wf (R.MBL_STAT_STATE p) pDisabled).endFence (.port p)

/-- R441, R445: RESET_PORT. -/
def execResetPort (q : Fin 8192) (s : State) : Out :=
  .next (runCmd q 0x4E (fun w seq s =>
    let p := cmdAt w 32 1
    if p ≥ 8 || (List.range 31).any (fun i => cmdAt w (33 + i) 1 != 0) then .stop invalid 32
    else if s.flag R.FCOL_STAT_DEVFATAL || s.heldInReset (p / 2) then .stop stStatus (s.cstate (s.qCtx q))
    else .run (thenOk q seq fun s => s.resetPort p)) s)

/-! ### Field reset (R300, R338, R440, R443, R444) -/

/-- R440: a field reset returns the register at offset `a` to its reset value. -/
def fieldReg (f a : Nat) : Bool :=
  let o := a % 0x1000
  match pageAt a with
  | some (.furrow g _) => g == f && o != 0x100
  | some (.field g) => g == f && !(0x400 ≤ o && o < 0x460) && !(0xC00 ≤ o && o % 16 == 4)
  | some (.hbm g _) | some (.colleng g) => g == f
  | some (.fieldmem g) => g == f && o < 0x200
  | some (.port p) => p / 2 == f
  | _ => false

/-- R440: barriers of field `f`: furrow scope, field scope, or context scope of a context whose mask includes it. -/
def State.barrierIn (s : State) (f key : Nat) : Bool :=
  if key < 2 ^ 20 then key / 16 / 64 / 26 == f
  else if key < 2 ^ 21 then (key - 2 ^ 20) / 16 / 64 == f
  else s.inMask ((key - 2 ^ 21) / 16 % 64) f

/-- R440: the stores of field `f` read as 0, and its registers, streams and operations are as after reset; a stream of another
field that had arrived at a barrier of the field stays at it. The field stays fenced (R443). -/
def State.clearField (s : State) (f : Nat) : State :=
  let s := { s with
    streams := (s.streams.filter fun (e : Nat × StreamSt) => e.1 / 192 / 26 != f).map fun (e : Nat × StreamSt) =>
      if (e.2.arrived.any fun k => s.barrierIn f k) then (e.1, { e.2 with arrived := some (2 ^ 22) }) else e
    barriers := s.barriers.filter fun e => !s.barrierIn f e.1 }
  let lo := furKey f 0
  let hi := lo + 26
  { s with
    regs := s.regs.filter fun e => !fieldReg f e.1
    wrStage := s.wrStage.filter fun e => !fieldReg f (e.1 % 2 ^ 27)
    hbm := s.hbm.clearUnits granSize (f * 512) (f * 512 + 480)
    hbmBad := sclear s.hbmBad (f * 2 ^ 33) ((f + 1) * 2 ^ 33)
    scrubAt := sclear s.scrubAt (5 * f) (5 * f + 5)
    sheaf := s.sheaf.clearUnits unit64K (f * 1024) ((f + 1) * 1024)
    seedbed := s.seedbed.clearUnits unit64K (lo * 128) (hi * 128)
    glean := s.glean.clearUnits gleanUnit (lo * 128) (hi * 128)
    furrows := sclear s.furrows lo hi
    dma := sdel s.dma f
    shadows := s.shadows.filter fun x => x.field != f
    seqRuns := s.seqRuns.filter fun r => r.field != f
    sems := s.sems.filter fun e => e.1 / 256 / 64 != f
    engines := sdel s.engines f
    inbox := s.inbox.filter fun e => e.1 != 8 + f
    lastMma := sdel s.lastMma f
    pairs := s.pairs.filter fun e => !(0x1000 * (f + 1) ≤ e.1 / 32 && e.1 / 32 < 0x1000 * (f + 2))
    fences := s.fences.filter fun e =>
      match e.1 with
      | .dma g _ | .stream g _ _ _ => g != f
      | _ => true }

/-- R443(2), R475: the field is held in reset at level 8 (R452): its PLLs, OFF by the reset, start, and its stacks train. In
clock fallback no PLL can start: its PLLs stay LOST (log 25). -/
def State.restartField (s : State) (f : Nat) : State :=
  let s := ((s.wf (R.PWR_FLD_STATE f) 3).wf (R.PWR_FLD_LEVEL f) 8)
  let s := (List.range 5).foldl (fun s m => s.wf (R.HBM_STAT_STATE f m) 1) s
  let st := if s.flag R.CLK_STAT_FALLBACK then 3 else 1
  (s.setPll (2 + f) st).setPll (6 + f) st

/-- R300: an own region of the context has a copy in field `f`. -/
def State.ownIn (s : State) (c f : Nat) : Bool := s.regions.any fun e => e.2.own c && e.2.field == f

/-- R289, R292, R300: the context loses a region: its step is abandoned as ABORT does, and it enters RESET with nothing covered;
the last attempt stays aborted. -/
def State.loseRegion (s : State) (rings : Rings) (c : Nat) : State :=
  let s :=
    if s.stepCurrent c then
      let n := s.stepOf c
      let s := s.abandonStep rings c
      (s.setCtx c { s.ctx c with aborted := some n }).wf (R.CMT_CSTAT_REPLAYABLE c) 1
    else s.clearCovers c
  let s := if s.serving c then s.servAbort c else s
  ((s.wf (R.CMT_CSTAT_STATE c) stReset).wf (R.CMT_CSTAT_RB c) 0).raiseFor Page.commitBase 2 (some c)

/-- R444: the mirror regions held in field `f` keep no pair, and each raises the region-lost source. -/
def State.loseMirrors (s : State) (f : Nat) : State :=
  s.regions.foldl (fun s e =>
    if e.2.valid && e.2.mirrorRole && e.2.field == f then
      (s.setRegion e.1
        { s.region e.1 with
          mstep := 0, run := 0, kstep := 0, kept := false, drained := false, flipped := false, implied := false,
          applied := 0, back := false }).raiseFor Page.commitBase 2 (some e.2.ctx)
    else s) s

/-- R295, R438: the fence of a field ends: its cause no longer stands for a context of which no other field is fenced; the
context stays BLOCKED. -/
def State.releaseField (s : State) (f : Nat) : State :=
  let s := s.endFence (.field f)
  (List.range 64).foldl (fun s c =>
    if s.resident c && s.inMask c f && !s.maskFenced c && (s.rf (R.CMT_CSTAT_BLOCK c)).testBit 5 then
      s.wf (R.CMT_CSTAT_BLOCK c) (s.rf (R.CMT_CSTAT_BLOCK c) - 32)
    else s) s

/-- R443(1), (2): field `f` is fenced and drained (log 26), held in reset and cleared. A harrow run in it ends with `STATE`
4. -/
def State.holdField (s : State) (m : Meas) (f : Nat) : State :=
  let s := (((s.fenceField f).abandonField f).enterFenced (.field f)).stopHarrow f m
  (((s.resetPort (2 * f)).resetPort (2 * f + 1)).clearField f).restartField f

/-- R443(3), (4): the regions and the serving pools that field `f` held are lost, its fence is released where `up`, and the
command completes; `rings` shows the commands that have not started. -/
def State.endReset (s : State) (rings : Rings) (f : Nat) (up : Bool) : State :=
  let own := (List.range 64).filter fun c => s.ownIn c f
  let s := (own.foldl (fun s c => s.loseRegion rings c) s).loseMirrors f
  let s := (List.range 64).foldl (fun s c => if s.serving c then s.servLose c f else s) s
  let s := if up then s.releaseField f else s
  match sget? s.pwr.resets f with
  | some (q, seq) => { s with pwr := { s.pwr with resets := sdel s.pwr.resets f } }.finishCmd q seq okStatus 0
  | none => s

/-- R443, R475: a held field whose PLLs cannot lock does not come up: its reset ends with the field asleep and fenced (log
25). -/
def State.failReset (s : State) (rings : Rings) (f : Nat) : State :=
  if s.heldInReset f ∧ (s.pll (2 + f) = 3 ∨ s.pll (6 + f) = 3) then (s.wf (R.PWR_FLD_STATE f) 0).endReset rings f false
  else s

/-- R443(1), (2): the command `seq` of queue `q` resets field `f`. -/
def State.startReset (s : State) (rings : Rings) (m : Meas) (q seq f : Nat) : State :=
  let s := s.holdField m f
  { s with pwr := { s.pwr with resets := sput s.pwr.resets f (q, seq) } }.failReset rings f

/-- R441, R443: RESET_FIELD: field `f` is held in reset until FIELD_WAKE ends it; `rings` shows the commands that have not
started, `m` what the sensors show. -/
def execResetField (q : Fin 8192) (rings : Rings) (m : Meas) (s : State) : Out :=
  .next (runCmd q 0x4D (fun w seq s =>
    let f := cmdAt w 32 1
    if f ≥ 4 || (List.range 31).any (fun i => cmdAt w (33 + i) 1 != 0) then .stop invalid 32
    else if s.flag R.FCOL_STAT_DEVFATAL || s.heldInReset f then .stop stStatus (s.cstate (s.qCtx q))
    else .run fun s => s.startReset rings m q seq f) s)

end Sys2Proof.Machine
end

