-- ==== Sys2Proof/Machine/Bus.lean ====
section
/-! DEFINITION. The register bus: what a function reaches (R345, R493), reads with their latches (R12, R13, R15, R382,
R464), and the access codes and reserved encodings of a write (R14 to R16). -/

namespace Sys2Proof.Machine

/-! ### Reach (R345, R493, R542) -/

/-- R443, R543: the page at `a` is held in a field reset, and the word is not one of those that stay readable. -/
def State.pageHeld (s : State) (a : Nat) : Bool :=
  match pageAt a with
  | some (.furrow f _) | some (.field f) | some (.hbm f _) | some (.fieldmem f) | some (.colleng f) =>
    s.heldInReset f && !(a % 0x1000 / 4 < 2 || a % 0x1000 / 4 == 3)
  | some (.port p) => s.heldInReset (p / 2) && !(a % 0x1000 / 4 < 2 || a % 0x1000 / 4 == 3)
  | _ => false

/-- R493, R525, R543: an access to BAR0 offset `a` is served: by the boot stage, outside device reset, and on a page that no
reset holds. -/
def State.served (s : State) (a : Nat) : Bool :=
  !s.pins.held && !s.pageHeld a && (s.stage == 5 ||
    match pageAt a with
    | some (.security) | some (.mailbox _) => true
    | some p => p.hasCommon && a % 0x1000 / 4 < 2
    | none => false)

/-- R345: what a function may do at an offset; `pf` marks a register of which only the physical function's writes count
(R157, R375, R499). -/
inductive Reach where
  | none | ro | rw | pf
deriving DecidableEq, Repr

/-- Function `u` is the client of resident context `c`. -/
def State.holds (s : State) (u c : Nat) : Bool := s.resident c && s.client c == u

/-- R345: the common words that every function reads. -/
def Page.words (p : Page) (o : Nat) : Reach := if p.hasCommon && o / 4 < 2 then .ro else .none

/-- R157, R375, R499: registers that only the physical function writes. -/
def pfRegister (p : Page) (o : Nat) : Bool :=
  match p with
  | .fieldmem _ => 0x400 ≤ o && o < 0xB80
  | .context _ => o / 4 == 0x40
  | .security => o / 4 == 0x50 || o / 4 == 0x51 || (0x180 ≤ o && o < 0x1C0)
  | _ => false

/-- R345: what function `u` may do at BAR0 offset `a`. -/
def State.reach (s : State) (u a : Nat) : Reach :=
  let o := a % 0x1000
  if u = 0 then .rw
  else match pageAt a with
    | none => .none
    | some p =>
      if pfRegister p o then .pf
      else match p with
        | .doorbell q => if s.qFunc q = u then .rw else .none
        | .context c =>
          if !s.holds u c then p.words o else if 0x140 ≤ o ∧ o < 0x180 ∧ o % 16 < 12 then .none else .rw
        | .serving c => if s.holds u c then .rw else p.words o
        | .commit => if 0x800 ≤ o ∧ s.holds u ((o - 0x800) / 32) then .ro else p.words o
        | .colleng _ => if 0x400 ≤ o ∧ o < 0x800 ∧ s.holds u ((o - 0x400) / 16) then .ro else p.words o
        | .field _ => if 0xC00 ≤ o ∧ s.holds u ((o - 0xC00) / 16) then .ro else p.words o
        | _ => p.words o

/-- R345: a virtual function reads the offset. A register of the context page that only the physical function writes can
be read. -/
def State.readable (s : State) (u a : Nat) : Bool :=
  match s.reach u a, pageAt a with
  | .none, _ => false
  | .pf, some (.context c) => s.holds u c
  | .pf, _ => false
  | _, _ => true

/-- R345, R371, R493: an aligned write of function `u` to offset `a`, carried out by `k` where it is served and reached. -/
def State.gateWrite (s : State) (u a : Nat) (k : State → State) : State :=
  if !s.served a || !s.funcEnabled u then s
  else match s.reach u a with
    | .none => s.accErr u 0 true 1 a
    | .pf => s.accErr u 0 true 3 a
    | .ro => s
    | .rw => k s

/-! ### 64-bit quantities (R13, R14, R245) -/

/-- R13: `a` is the low word of a 64-bit quantity of a register table. `FUR_STRM_PC_LO` and `_HI` of R150 are taken as one
though R150 does not say so (the model's choice, log 75). -/
def isLow (a : Nat) : Bool :=
  let o := a % 0x1000
  match pageAt a with
  | some (.hostif) => o == 0x118 || (0x400 ≤ o && o < 0x600 && o % 8 == 0) || (0xA00 ≤ o && o < 0xC00 && o % 8 == 0)
  | some (.doorbell _) => o == 0x104 || o == 0x10C
  | some (.serving _) => o == 0x108 || o == 0x110 || o == 0x118 || (0x130 ≤ o && o < 0x170 && o % 16 == 0)
  | some (.context _) => o == 0x138 || o == 0x184 || o == 0x1E4
  | some (.fabric) => o == 0x124
  | some (.power) => o == 0x124
  | some (.security) => o == 0x110 || o == 0x148
  | some (.furrow _ _) => o == 0x140 || (0x400 ≤ o && o % 16 == 0)
  | some (.hbm _ _) => o == 0x120 || o == 0x140 || o == 0x148
  | some (.port _) => o == 0x158 || o == 0x160
  | some (.colleng _) => o == 0x108 || (0x400 ≤ o && o < 0x800 && o % 16 == 4)
  | some (.commit) => 0x800 ≤ o && o % 32 == 0x10
  | _ => false

/-- R14, R245: the low words that a function stages: those of the writable quantities, and of routing entries.
`ALM_HRWf_SEED_LO` and `_HI` of R430 are taken as two plain words, since R430 does not call them one quantity (the model's
choice, log 75). -/
def stagesLow (a : Nat) : Bool :=
  let o := a % 0x1000
  match pageAt a with
  | some (.hostif) => 0x400 ≤ o && o < 0x600 && o % 8 == 0
  | some (.doorbell _) => o == 0x104 || o == 0x10C
  | some (.serving _) => o == 0x108 || o == 0x110 || o == 0x118 || (0x130 ≤ o && o < 0x170 && o % 16 == 0)
  | some (.context _) => o == 0x184 || o == 0x1E4
  | some (.fabric) => 0x400 ≤ o && o < 0x600 && o % 8 == 0
  | some (.colleng _) => 0x400 ≤ o && o < 0x800 && o % 16 == 4
  | some (.commit) => 0x800 ≤ o && o % 32 == 0x10
  | _ => false

/-- The key of a function's latch or staged word for an offset. -/
def busKey (u a : Nat) : Nat := u * 2 ^ 27 + a

/-- R14: the word function `u` has staged for offset `a`, or the current one. -/
def State.stagedLow (s : State) (u a : Nat) : Word32 := (sget? s.wrStage (busKey u a)).getD (s.reg a)

/-- R14: the staged word is used up. -/
def State.unstage (s : State) (u a : Nat) : State := { s with wrStage := sdel s.wrStage (busKey u a) }

/-! ### Reads -/

/-- R382: the context and place of a register that a read of `CTX_IF_SEQ` latches. -/
def ifPlace (a : Nat) : Option (Nat × Nat) :=
  match pageAt a with
  | some (.context c) =>
    let o := a % 0x1000
    if 0x118 ≤ o ∧ o < 0x134 then some (c, (o - 0x118) / 4) else none
  | _ => none

/-- R382: the seven registers of a window are latched for function `u`. -/
def State.latchIf (s : State) (u c : Nat) : State :=
  { s with ifLatch := sput s.ifLatch (u * 64 + c) ((List.range 7).map fun i => s.reg (A.CTX_IF_SLOW c + 4 * i)) }

/-- R464: ms left in the current minute. -/
def State.minuteLeft (s : State) : Nat := min 65535 (ceilDiv (s.pwr.edge - s.now) msTicks)

/-- R461, R464: the word that shows minute m0 + j. -/
def State.ceilWord (s : State) (j : Nat) : Word32 :=
  fields [(0, 9, s.pwr.ceils.getD j 320), (16, 9, (s.pwr.caps.getD j none).getD 320), (31, 1, bit (j ≤ 1))]

/-- R464: one latch takes the eight ceilings and the time left. -/
def State.latchForecast (s : State) : State :=
  (List.range 8).foldl (fun s j => s.setReg (A.PWR_FC j) (s.ceilWord j)) (s.wf R.PWR_FC_LEFT_MS s.minuteLeft)

/-- The latches that a read of `a` sets before its value is taken. -/
def State.readLatch (s : State) (u a : Nat) : State :=
  if a = A.PWR_FC_MIN then s.latchForecast
  else match pageAt a with
    | some (.context c) => if a = A.CTX_IF_SEQ c then s.latchIf u c else s
    | _ => s

/-- The value that a read of `a` by function `u` finds: latched, or as it stands (R13, R382). -/
def State.readValue (s : State) (u a : Nat) : Word32 :=
  match sget? s.rdLatch (busKey u a) with
  | some w => w
  | none =>
    match ifPlace a with
    | some (c, i) => ((sget? s.ifLatch (u * 64 + c)).getD []).getD i (s.view a)
    | none => s.view a

/-- R15: the RC fields of a register are cleared. -/
def State.clearRc (s : State) (a : Nat) : State :=
  let rs := (rowsAt a).filter fun r => r.acc == .rc
  if rs.isEmpty then s else s.setReg a (rs.foldl (fun w r => insertBits w r.lo r.wid 0) (s.reg a))

/-- R12: what an aligned read of the register at `a` by function `u` would return. -/
def State.peekReg (s : State) (u a : Nat) : Word32 :=
  if !s.served a || !s.funcEnabled u || !s.readable u a then 0 else (s.readLatch u a).readValue u a

/-- R12: the `n` bytes (at most 8) from offset `a` as aligned reads of the registers they lie in would return them. -/
def State.peekBytes (s : State) (u a n : Nat) : List Byte :=
  (((List.range 3).flatMap fun k => leBytes 4 (s.peekReg u (a / 4 * 4 + 4 * k)).toNat).drop (a % 4)).take n

/-- A register that shows a free value shows another one at its next read (log 84). -/
def State.drawTimed (s : State) (a : Nat) : State := if s.served a && isTimed a then s.fresh.2 else s

/-- R12: registers that show free values and are read by `n` bytes from `a` show others next. -/
def State.drawSpan (s : State) (a n : Nat) : State :=
  (List.range 3).foldl (fun s k => if a / 4 * 4 + 4 * k < a + n then s.drawTimed (a / 4 * 4 + 4 * k) else s) s

/-- R12, R13, R15, R345, R493: a read of 2^`log` bytes at offset `a` by function `u`: the value, and what the read does. One that
is not an aligned 32-bit read only returns its bytes. -/
def State.busRead (s : State) (u a log : Nat) : State :=
  if log ≠ 2 ∨ a % 4 ≠ 0 then
    { s.drawSpan a (2 ^ log) with rdata := BitVec.ofNat 64 (leNat (s.peekBytes u a (2 ^ log))) }
  else if !s.served a || !s.funcEnabled u then { s with rdata := 0 }
  else if !s.readable u a then { s.accErr u 0 false 1 a with rdata := 0 }
  else
    let s := s.readLatch u a
    let v := s.readValue u a
    let s := { s with rdata := v.setWidth 64, rdLatch := sdel s.rdLatch (busKey u a) }
    let s := if isLow a then { s with rdLatch := sput s.rdLatch (busKey u (a + 4)) (s.view (a + 4)) } else s
    (s.drawTimed a).clearRc a

/-- R13: LOW_WORD_READ. -/
def execLowWordRead (u : Fin 64) (off : BitVec 27) (log : Fin 4) (s : State) : Out := .next (s.busRead u off.toNat log)

/-- R15: RC_READ; the same read, of any register. -/
def execRcRead (u : Fin 64) (off : BitVec 27) (log : Fin 4) (s : State) : Out := .next (s.busRead u off.toNat log)

/-- R464: FORECAST_LATCH: a read of `PWR_FC_MIN`. -/
def execForecastLatch (u : Fin 64) (s : State) : Out := .next (s.busRead u A.PWR_FC_MIN 2)

/-- R382: INTERFERENCE_LATCH: a read of `CTX_IF_SEQ`. -/
def execInterferenceLatch (u : Fin 64) (c : Fin 64) (s : State) : Out := .next (s.busRead u (A.CTX_IF_SEQ c) 2)

/-- R12, R371: a write of function `u` at `a` that is not an aligned 32-bit write is discarded. -/
def State.badWrite (s : State) (u a : Nat) : State :=
  if !s.served a || !s.funcEnabled u then s else s.accErr u 0 true 0 a

/-- R12, R371: MISALIGNED_WRITE. -/
def execMisalignedWrite (u : Fin 64) (off : BitVec 27) (s : State) : Out := .next (s.badWrite u off.toNat)

/-! ### Writes (R15, R16, R18) -/

/-- Bits `[lo + wid − 1 : lo]` of a word. -/
def wbits (v : Word32) (lo wid : Nat) : Nat := (v.extractLsb' lo wid).toNat

/-- R15, R16: what a write of `v` makes of one field. -/
def FieldRow.write (r : FieldRow) (v w : Word32) : Word32 :=
  let x := wbits v r.lo r.wid
  match r.acc with
  | .rw => if r.legal.ok x then insertBits w r.lo r.wid x else w
  | .w1c => w &&& ~~~(BitVec.ofNat 32 (x <<< r.lo))
  | _ => w

/-- R15, R16: the register word after a write of `v`. -/
def rowsWrite (rs : List FieldRow) (v w : Word32) : Word32 := rs.foldl (fun w r => r.write v w) w

/-- R15, R16: a plain write of `v` to the register at `a`. -/
def State.plainWrite (s : State) (a : Nat) (v : Word32) : State := s.setReg a (rowsWrite (rowsAt a) v (s.reg a))

/-- The same, leaving out the fields at the bits `skip` names. -/
def State.writeBut (s : State) (a : Nat) (v : Word32) (skip : List Nat) : State :=
  s.setReg a (rowsWrite ((rowsAt a).filter fun r => !skip.contains r.lo) v (s.reg a))

/-- R16: a pair of fields that together form a reserved encoding keeps its values. -/
def State.writeUnless (s : State) (a : Nat) (v : Word32) (bad : Bool) (skip : List Nat) : State :=
  if bad then s.writeBut a v skip else s.plainWrite a v

end Sys2Proof.Machine
end

