-- ==== Sys2Proof/Machine/PortRegs.lean ====
section
/-! DEFINITION. Writes of the fabric's registers: routing entries (R245), port control (R222, R224), the device ID (R243) and
receive allocations (R234). -/

namespace Sys2Proof.Machine

/-- R245: a write of `MBL_RT_HI` of entry `j`: both words take their values, and the low word's staging ends. -/
def State.routeCommit (s : State) (u j : Nat) (v : Word32) : State :=
  ((s.plainWrite (A.MBL_RT_LO j) (s.stagedLow u (A.MBL_RT_LO j))).plainWrite (A.MBL_RT_HI j) v).unstage u (A.MBL_RT_LO j)

/-- R245: ROUTE_ENTRY_COMMIT: a write of `MBL_RT_HI` commits the staged low word with it. -/
def execRouteEntryCommit (u : Fin 64) (j : Fin 64) (v : Word32) (s : State) : Out :=
  .next (s.gateWrite u (A.MBL_RT_HI j) fun s => s.routeCommit u j v)

/-- R222, R224, R427, R436: what a write of `MBL_CTRL` does: its fields, then `EN`, then `RETRAIN`. -/
def State.writePortCtrl (s : State) (p : Nat) (v : Word32) : State :=
  let s := s.plainWrite (A.MBL_CTRL p) v
  let st := s.pstate p
  if v.getLsbD 0 = false ∧ (st = pActive ∨ (st = pFailed ∧ !s.isFenced (.port p))) then s.portDown p pDisabled
  else if v.getLsbD 3 then
    if st = pActive then s.enterRetrain p
    else if st = pFailed ∧ !s.portHeld p then s.enterDetect p
    else s.tryDetect p
  else s.tryDetect p

/-- R222: PORT_ENABLE_WRITE: a write of `MBL_CTRL` with `RETRAIN` 0. -/
def execPortEnableWrite (u : Fin 64) (p : Fin 8) (v : Word32) (s : State) : Out :=
  .next (s.gateWrite u (A.MBL_CTRL p) fun s => s.writePortCtrl p v)

/-- R224: PORT_RETRAIN_WRITE: a write of `MBL_CTRL` with `RETRAIN` 1. -/
def execPortRetrainWrite (u : Fin 64) (p : Fin 8) (v : Word32) (s : State) : Out :=
  .next (s.gateWrite u (A.MBL_CTRL p) fun s => s.writePortCtrl p v)

/-- A port is neither DISABLED nor FAILED. -/
def State.portUp (s : State) (p : Nat) : Bool := s.pstate p != pDisabled && s.pstate p != pFailed

/-- Every DISABLED port whose conditions hold begins DETECT (R222). -/
def State.tryDetectAll (s : State) : State := (List.range 8).foldl State.tryDetect s

/-- R243: a write of `MBL_DEVID`. -/
def State.setDevId (s : State) (v : Word32) : State :=
  if (List.range 8).any s.portUp then s.wf R.MBL_FAB_STAT_REFUSED 1 else (s.plainWrite A.MBL_DEVID v).tryDetectAll

/-- R243: DEVID_WRITE. -/
def execDevidWrite (u : Fin 64) (v : Word32) (s : State) : Out := .next (s.gateWrite u A.MBL_DEVID fun s => s.setDevId v)

/-- R234: a write of `MBL_RXALLOCc`; a field keeps its value where the new one is below 33 (R16). -/
def State.setRxalloc (s : State) (p c : Nat) (v : Word32) : State :=
  if s.portUp p then s.wf (R.MBL_STAT_REFUSED p) 1 else (s.plainWrite (A.MBL_RXALLOC p c) v).tryDetect p

/-- R234: RXALLOC_WRITE. -/
def execRxallocWrite (u : Fin 64) (p : Fin 8) (c : Fin 4) (v : Word32) (s : State) : Out :=
  .next (s.gateWrite u (A.MBL_RXALLOC p c) fun s => s.setRxalloc p c v)

end Sys2Proof.Machine
end

