-- ==== Sys2Proof/Machine/MemRegs.lean ====
section
/-! DEFINITION. Ownership and layout of device memory (R157, R158, R161, R168, R170, R174, R175), and the controllers' codeword
reads, merges and scrubbing (R162 to R166). -/

namespace Sys2Proof.Machine

/-! ### Refusals (R157, R175) -/

/-- R157: a refused write of the field memory page, at word index `i`. -/
def State.memRefused (s : State) (f i : Nat) : State :=
  (s.wf (R.FLD_MEM_STAT_REFUSED f) 1).wf (R.FLD_MEM_STAT_INDEX f) i

/-! ### Granules (R157, R158, R161, R288, R339) -/

/-- A range of device memory: first byte and length. -/
abbrev Span := Nat × Nat

/-- A range meets granule `g` of field `f`. -/
def Span.meets (r : Span) (f g : Nat) : Bool :=
  let lo := granUnit f g * granSize
  r.2 != 0 && r.1 < lo + granSize && lo < r.1 + r.2

/-- R288: the two copies of a valid region. -/
def Region.spans (r : Region) : List Span :=
  if r.valid then [r.copy0, r.copy1].map fun u => (r.field * 2 ^ 39 + u * 4096, r.len * 4096) else []

/-- R288, R339: granule `g` of field `f` holds part of a valid region, or of a pool or table of a serving context. -/
def State.granHeld (s : State) (f g : Nat) : Bool :=
  s.regions.any (fun e => e.2.spans.any (·.meets f g)) ||
    (List.range 64).any fun c => s.serving c && (servSpans s c).any fun (r : Span) => r.meets f g

/-- The owner of a granule. -/
def State.owner? (s : State) (f g : Nat) : Option Nat :=
  if s.flag (R.FLD_GRAN_OWNED f g) then some (s.rf (R.FLD_GRAN_CTX f g)) else none

/-- R157, R161: context `c` keeps its granules in field `f` as they are. -/
def State.granFixed (s : State) (f c : Nat) : Bool := s.active c || (s.rf (R.CTX_MEM_INTLV c)).testBit f

/-- R157, R158: a write of `FLD_GRANg`. A write that leaves the owner as it is assigns nothing. -/
def State.granWrite (s : State) (f g : Nat) (v : Word32) : State :=
  let old := s.owner? f g
  let new := if v.getLsbD 8 then some (wbits v 0 6) else none
  if old = new then s.plainWrite (A.FLD_GRAN f g) v
  else if (old.toList ++ new.toList).any (s.granFixed f) || (old.isSome && s.granHeld f g) then
    s.memRefused f (0x100 + g)
  else
    let s := s.plainWrite (A.FLD_GRAN f g) v
    if new.isSome then
      { (s.clearGranule f g).wf (R.FLD_GRAN_CLEARING f g) 1 with clearing := s.clearing ++ [granUnit f g] }
    else s

/-- R157, R158: GRANULE_WRITE. -/
def execGranuleWrite (u : Fin 64) (f : Fin 4) (g : Fin 480) (v : Word32) (s : State) : Out :=
  .next (s.gateWrite u (A.FLD_GRAN f g) fun s => s.granWrite f g v)

/-- R158: GRANULE_CLEAR_DONE: the last codeword of the granule that stack `m` of field `f` clears is written; granules of
one stack are cleared in the order of their assignments, while the stack takes requests; what waited for the granule goes on. -/
def execGranuleClearDone (f : Fin 4) (m : Fin 5) (s : State) : Out :=
  match s.clearing.find? fun u => u / 512 == f.val && u % 512 % 5 == m.val && !s.stackAsleep f m with
  | none => .next s
  | some u =>
    let s := { s with clearing := s.clearing.erase u }
    .next (if s.clearing.contains u then s else (s.wf (R.FLD_GRAN_CLEARING f (u % 512)) 0).admitAll)

/-! ### Sheaf shares (R170) -/

/-- Two ranges of units meet; an empty one meets none. -/
def unitsMeet (a n b m : Nat) : Bool := n != 0 && m != 0 && a < b + m && b < a + n

/-- R170: a write of `FLD_SHEAFc`. -/
def State.shareWrite (s : State) (f c : Nat) (v : Word32) : State :=
  let b := wbits v 0 10
  let n := wbits v 16 11
  if b + n > 1024 then s
  else if s.active c || (List.range 64).any (fun d =>
      d != c && unitsMeet b n (s.rf (R.FLD_SHEAF_BASE f d)) (s.rf (R.FLD_SHEAF_SIZE f d))) then
    s.memRefused f (0x80 + c)
  else s.plainWrite (A.FLD_SHEAF f c) v

/-- R170: SHEAF_SHARE_WRITE. -/
def execSheafShareWrite (u : Fin 64) (f : Fin 4) (c : Fin 64) (v : Word32) (s : State) : Out :=
  .next (s.gateWrite u (A.FLD_SHEAF f c) fun s => s.shareWrite f c v)

/-! ### Encryption and layout (R161, R168, R175) -/

/-- R161: context `c` owns all five granules of every group of field `f`, or none of them. -/
def State.wholeGroups (s : State) (c f : Nat) : Bool :=
  (List.range 96).all fun h =>
    let k := ((List.range 5).filter fun i => s.owns c f (5 * h + i)).length
    k == 0 || k == 5

/-- R161, R168: the memory that a change of `CTX_MEM` from `old` to `new` leaves undefined. -/
def State.memChanged (s : State) (c : Nat) (old new : Word32) : State :=
  (List.range 4).foldl (fun s f =>
    if old.getLsbD 0 != new.getLsbD 0 || old.getLsbD (4 + f) != new.getLsbD (4 + f) then
      s.undefGranules f (s.granulesOf c f)
    else s) s

/-- R175: a write of `CTX_MEM`; its refusal shows in every field's memory page too. -/
def State.ctxMemWrite (s : State) (c : Nat) (v : Word32) : State :=
  let groups := (List.range 4).all fun f => !v.getLsbD (4 + f) || s.wholeGroups c f
  if s.active c || !groups || (v.getLsbD 0 && (sget? s.sec.keys c).isNone) then
    (List.range 4).foldl (fun s f => s.memRefused f 0x3FF) (s.wf (R.CTX_MEM_REFUSED c) 1)
  else
    let old := s.reg (A.CTX_MEM c)
    (s.plainWrite (A.CTX_MEM c) v).memChanged c old v

/-- R175: CTX_MEM_WRITE. -/
def execCtxMemWrite (u : Fin 64) (c : Fin 64) (v : Word32) (s : State) : Out :=
  .next (s.gateWrite u (A.CTX_MEM c) fun s => s.ctxMemWrite c v)

/-! ### Codewords (R162 to R166) -/

/-- The consumer of a codeword read or write. -/
def State.readerOf (s : State) : Reader → Consumer
  | .stream x => .stream x.field x.furrow x.ctx x.strm
  | .fetch x => .fetch x.field x.furrow x.ctx x.strm
  | .engine c f => .engine c f
  | .bar2 u => .bar2 u
  | .cmd q => s.qWho q

/-- R163: one symbol of the codeword at physical address `a` is corrected, and the codeword written back. -/
def State.corrected (s : State) (a : Nat) : State :=
  let f := fieldOf a
  let m := s.stackOf a
  ((s.bump (R.HBM_CE_CNT_COUNT f m) 1).raiseSrc (Page.hbmBase f m) 0).bump64 (R.HBM_WR_LO_COUNT f m) (R.HBM_WR_HI_COUNT f m) 1

/-- R162, R173: what the stack's own code (`onDie`: a correction that the stack reports) and the controller's find in the
codeword at physical address `a`: an uncorrectable one stays so until it is written whole (R164, R165). -/
def State.foundIn (s : State) (a : Nat) (x : Found) (onDie : Bool) : State :=
  let s := if onDie then s.bump (R.HBM_ODECC_CNT_COUNT (fieldOf a) (s.stackOf a)) 1 else s
  match x with
  | .clean => s
  | .one => if (sget? s.hbmBad (a / 64)).isSome then s else s.corrected a
  | .uncorrectable => { s with hbmBad := sput s.hbmBad (a / 64) () }

/-- An address of populated memory. -/
def populated (a : Nat) : Bool := a < 2 ^ 41 && granOf a < 480

/-- R154, R158, R163, R164: HBM_READ: the codeword of device address `a` is read for a consumer; what it delivers stands in
`b2data`. A request that must wait is not served yet, and none reaches a fenced field (R436). -/
def execHbmRead (w : Reader) (a : BitVec 41) (x : Found) (onDie : Bool) (s : State) : Out :=
  let b := a.toNat / 64 * 64
  if !populated b || s.hbmWaits b 64 || s.rangeFenced b 64 then .next s
  else
    let (bs, s) := (s.foundIn (s.mapAddr b) x onDie).hbmRead (s.readerOf w) b 64
    .next { s with b2data := bs }

/-- R287: the window rules allow a reader's or writer's unit to write; a command's queue has one context, and the command is
bound where one in progress there is. -/
def State.writerOk (s : State) (w : Reader) (a n : Nat) : Bool :=
  match w with
  | .stream x | .fetch x => s.hbmWriteOk x.ctx a n
  | .engine c _ => s.hbmWriteOk c a n
  | .bar2 u =>
    match s.owner? (fieldOf a) (granOf a) with
    | some c => s.holds u c && s.writeOk c a n true true
    | none => false
  | .cmd q => s.writeOk (s.qCtx q) a n ((s.queue q).cmds.any fun x => x.step.isSome && x.fin.isNone) false

/-- R154, R158, R165, R287: HBM_PARTIAL_WRITE: bytes are written from device address `a`, each codeword of which fewer than 64
are written by a merge; `x` is what the merge read of the first finds. No write reaches a fenced field (R436). -/
def execHbmPartialWrite (w : Reader) (a : BitVec 41) (bs : List Byte) (x : Found) (onDie : Bool) (s : State) : Out :=
  let b := a.toNat
  if bs.isEmpty || !(codewords b bs.length).all (fun e => populated e.1) || s.hbmWaits b bs.length ||
      s.rangeFenced b bs.length || !s.writerOk w b bs.length then .next s
  else .next ((s.foundIn (s.mapAddr b) x onDie).hbmWrite (s.readerOf w) b bs)

/-- R159, R160, R166: the device address of codeword `i` of row `h` of stack `m`. -/
def State.rowAddr (s : State) (f m h i : Nat) : Nat :=
  let inter := match s.owner? f (5 * h) with
    | some c => (s.rf (R.CTX_MEM_INTLV c)).testBit f
    | none => false
  let v := i / 64
  if inter then
    let y := (5 * v + m) * 4096 + i % 64 * 64
    f * 2 ^ 39 + 5 * h * 2 ^ 30 + y
  else f * 2 ^ 39 + (5 * h + m) * 2 ^ 30 + i * 64

/-- R166: the scrubber of a stack moves to its next codeword. -/
def State.scrubNext (s : State) (f m : Nat) : State :=
  let k := 5 * f + m
  let i := sgetD s.scrubAt k 0
  let h := s.rf (R.HBM_SCRUB_STAT_ROW f m)
  if i + 1 < 2 ^ 24 then { s with scrubAt := sput s.scrubAt k (i + 1) }
  else
    let s := { s with scrubAt := sdel s.scrubAt k }
    if h < 95 then s.wf (R.HBM_SCRUB_STAT_ROW f m) (h + 1)
    else
      (s.wf (R.HBM_SCRUB_STAT_ROW f m) 0).wf (R.HBM_SCRUB_STAT_PASSES f m)
        (min 65535 (s.rf (R.HBM_SCRUB_STAT_PASSES f m) + 1))

/-- R158, R166: SCRUB_READ: the scrubber of stack `m` of field `f` reads its next codeword and finds `x`. -/
def execScrubRead (f : Fin 4) (m : Fin 5) (x : Found) (onDie : Bool) (s : State) : Out :=
  let a := s.rowAddr f m (s.rf (R.HBM_SCRUB_STAT_ROW f m)) (sgetD s.scrubAt (5 * f + m) 0)
  if !s.flag (R.HBM_SCRUB_CTRL_EN f m) || s.stackAsleep f m || s.wordWaits a then .next s
  else
    let s := (s.foundIn a x onDie).readWord .scrub a 64
    .next (s.2.scrubNext f m)

end Sys2Proof.Machine
end

