-- ==== Sys2Proof/Machine/CtxRegs.lean ====
section
/-! DEFINITION. Contexts and their quotas (R374 to R377), serving configuration (R339), interference and slowdown windows
(R381 to R383). -/

namespace Sys2Proof.Machine

/-! ### Creation and destruction (R375) -/

/-- R375: a context may be destroyed. -/
def State.canDestroy (s : State) (c : Nat) : Bool :=
  !s.active c && s.rf (R.CTX_FMASK_MASK c) == 0 &&
    !(s.ctxQueues c).any (fun q => s.flag (R.QM_QCFG_EN q)) &&
    !s.regions.any (fun e => e.2.valid && e.2.ctx == c) &&
    !(List.range 4).any (fun f => !(s.granulesOf c f).isEmpty) && !s.serving c

/-- R375: a write of `CTX_BINDc`. -/
def State.bindWrite (s : State) (c : Nat) (v : Word32) : State :=
  let valid := v.getLsbD 31
  if valid && !s.resident c then (s.plainWrite (A.CTX_BIND c) v).resetContext c
  else if !valid && s.canDestroy c then s.wf (R.CTX_BIND_VALID c) 0
  else s.wf (R.CTX_STAT_REFUSED c) 1

/-- R375: CONTEXT_CREATE: a write of `CTX_BINDc` with `VALID` 1. -/
def execContextCreate (u : Fin 64) (c : Fin 64) (v : Word32) (s : State) : Out :=
  .next (s.gateWrite u (A.CTX_BIND c) fun s => s.bindWrite c v)

/-- R375: CONTEXT_DESTROY: a write of `CTX_BINDc` with `VALID` 0. -/
def execContextDestroy (u : Fin 64) (c : Fin 64) (v : Word32) (s : State) : Out :=
  .next (s.gateWrite u (A.CTX_BIND c) fun s => s.bindWrite c v)

/-! ### Quotas (R376, R377) -/

/-- R377: the three kinds of quota: register, base, size, size of the store. -/
def quotaLocs (c f : Nat) (k : Quota) : Nat × Loc × Loc × Nat :=
  match k with
  | .seedbed => (A.FLD_SBQ c f, R.FLD_SBQ_BASE c f, R.FLD_SBQ_SIZE c f, 128)
  | .slots => (A.FLD_ACQ c f, R.FLD_ACQ_BASE c f, R.FLD_ACQ_COUNT c f, 64)
  | .gleaning => (A.FLD_GLQ c f, R.FLD_GLQ_BASE c f, R.FLD_GLQ_SIZE c f, 128)

/-- R377: the contents of a new range are undefined (log 3), on every furrow of the field. -/
def State.undefQuota (s : State) (f : Nat) (k : Quota) (b n : Nat) : State :=
  let (i, s) := s.fresh
  (List.range 26).foldl (fun s m =>
    let u := furKey f m * 128 + b
    match k with
    | .seedbed => { s with seedbed := s.seedbed.undefUnits unit64K u (u + n) i }
    | .gleaning => { s with glean := s.glean.undefUnits gleanUnit u (u + n) i }
    | .slots =>
      s.setFur f m ((List.range n).foldl (fun x j =>
        x.setSlot (b + j) { x.slot (b + j) with undef := some i, lev := [], lane := [] }) (s.fur f m))) s

/-- R377: a write of `FLD_SBQf`, `FLD_ACQf` or `FLD_GLQf` of context `c`. -/
def State.quotaSet (s : State) (c f : Nat) (k : Quota) (v : Word32) : State :=
  let (a, lb, ln, cap) := quotaLocs c f k
  let b := wbits v lb.lo lb.wid
  let n := wbits v ln.lo ln.wid
  if b + n > cap then s
  else if s.active c || (List.range 64).any (fun d =>
      let (_, lb, ln, _) := quotaLocs d f k
      d != c && s.resident d && unitsMeet b n (s.rf lb) (s.rf ln)) then
    s.wf (R.CTX_STAT_REFUSED c) 1
  else
    let old := (s.rf lb, s.rf ln)
    let s := s.plainWrite a v
    if old = (b, n) then s else s.undefQuota f k b n

/-- R377: QUOTA_WRITE. -/
def execQuotaWrite (u : Fin 64) (c : Fin 64) (f : Fin 4) (k : Quota) (v : Word32) (s : State) : Out :=
  .next (s.gateWrite u (quotaLocs c f k).1 fun s => s.quotaSet c f k v)

/-! ### Serving configuration (R339) -/

/-- Two ranges of device memory meet. -/
def Span.overlaps (a b : Span) : Bool := a.2 != 0 && b.2 != 0 && a.1 < b.1 + b.2 && b.1 < a.1 + a.2

/-- No two ranges of a list meet. -/
def disjointSpans : List Span → Bool
  | [] => true
  | x :: t => !t.any x.overlaps && disjointSpans t

/-- R321, R339: pools and tables lie in the partition, each pool in its field, and none overlaps another. -/
def State.servFits (s : State) (c : Nat) : Bool :=
  let l := servSpans s c
  l.all (fun r => s.inPartition c r.1 r.2) &&
    ((l.drop 3).zipIdx.all fun (r, f) => r.2 == 0 || (fieldOf r.1 == f && fieldOf (r.1 + r.2 - 1) == f)) && disjointSpans l

/-- R339: writes of the serving configuration are refused as the context stands. -/
def State.servBusy (s : State) (c : Nat) : Bool :=
  let x := s.srv c
  s.active c || !x.seqs.isEmpty || !x.adm.isEmpty || s.swap c != swOpen

/-- R340: bits [15:0] of a pool base and [11:0] of a table address must be 0. -/
def servLowBad (o : Nat) (lo : Word32) : Bool := lo.toNat % (if o < 0x130 then 2 ^ 12 else 2 ^ 16) != 0

/-- R339: a write of the serving configuration at page offset `o` of context `c` by function `u`; the free plots of a pool follow
its size (log 64). -/
def State.servWrite (s : State) (u c o : Nat) (v : Word32) : State :=
  let a := Page.servingBase c + o
  let refused := fun (s : State) => s.wf (R.SRV_STAT_REFUSED c) 1
  if s.servBusy c then refused s
  else if isLow a then { s with wrStage := sput s.wrStage (busKey u a) v }
  else if isLow (a - 4) then
    let lo := s.stagedLow u (a - 4)
    let s := s.unstage u (a - 4)
    if servLowBad o lo then s else (s.plainWrite (a - 4) lo).plainWrite a v
  else
    let t := s.plainWrite a v
    if o = 0x100 ∧ v.getLsbD 0 ∧ !t.servFits c then refused s
    else if 0x130 ≤ o ∧ o < 0x170 then t.showServ c else t

/-- R339: the page offsets of the serving configuration. -/
def servOffset (o : Nat) : Bool :=
  o % 4 == 0 && 0x100 ≤ o && o < 0x170 && !(0x120 ≤ o && o < 0x130) && !(0x130 ≤ o && o % 16 == 12)

/-- R339: SERVING_CONFIG_WRITE: a write of `SRV_CTRL`, `SRV_LIMITS`, a table address or a pool register. The other registers of
the page are read only, so a write of one changes nothing (R15, R340). -/
def execServingConfigWrite (u : Fin 64) (c : Fin 64) (o : BitVec 12) (v : Word32) (s : State) : Out :=
  .next (s.gateWrite u (Page.servingBase c + o.toNat) fun s =>
    if servOffset o.toNat then s.servWrite u c o.toNat v else s.plainWrite (Page.servingBase c + o.toNat) v)

/-! ### Interference (R381, R382) -/

/-- R382: IF_CTRL_WRITE: the current window ends without a report; a new one starts. -/
def execIfCtrlWrite (u : Fin 64) (c : Fin 64) (v : Word32) (s : State) : Out :=
  .next (s.gateWrite u (A.CTX_IF_CTRL c) fun s => s.plainWrite (A.CTX_IF_CTRL c) v)

/-- R382: the slowdown of a window. -/
def slowdown (active blocked : Nat) : Nat :=
  if active > 0 then min 0xFFFFFFFF ((active + blocked) * 65536 / active)
  else if blocked > 0 then 0xFFFFFFFF else 0x10000

/-- R381, R382: counts that a window can show: a blocked tick is not active, a tick blocked at a resource was active or
blocked. -/
def winCountsOk (w : WinCounts) : Bool :=
  [w.issue, w.hbm, w.ring, w.port].all (· ≤ w.active + w.blocked) && w.blocked ≤ w.issue + w.hbm + w.ring + w.port

/-- R382: INTERFERENCE_WINDOW_END: a window of context `c` ends with the ticks counted in it (log 27). -/
def execInterferenceWindowEnd (c : Fin 64) (w : WinCounts) (s : State) : Out :=
  if !s.resident c || w.active + w.blocked > 25000 * s.rf (R.CTX_IF_CTRL_WINDOW c) then .next s
  else
    let s := (s.wf (R.CTX_IF_SLOW_S c) (slowdown w.active w.blocked)).wf (R.CTX_IF_ACTIVE_TICKS c) w.active
    let s := (s.wf (R.CTX_IF_BLOCKED_TICKS c) w.blocked).wf (R.CTX_IF_BISSUE_TICKS c) w.issue
    let s := ((s.wf (R.CTX_IF_BHBM_TICKS c) w.hbm).wf (R.CTX_IF_BRING_TICKS c) w.ring).wf (R.CTX_IF_BPORT_TICKS c) w.port
    .next (s.wf (R.CTX_IF_SEQ_SEQ c) (s.rf (R.CTX_IF_SEQ_SEQ c) + 1))

/-! ### Slowdown (R383) -/

/-- R383: `FUR_SLOW` of a furrow held in `h` of `c` clocks. -/
def furSlow (c h : Nat) : Nat := if c = 0 then 0x10000 else if h ≥ c then 0xFFFFFFFF else min 0xFFFFFFFF (65536 * c / (c - h))

/-- R221, R383: the ratio of an ACTIVE port. -/
def State.portSlow (s : State) (p : Nat) : Nat :=
  if s.pstate p == pActive then 0x10000 * 2 ^ s.rf (R.MBL_STAT_WIDTH p) else 0x10000

/-- R383: the ratios of field `f`, from the clocks of its physical furrows. -/
def State.slowField (s : State) (f : Nat) (l : List (Nat × Nat)) : State :=
  let s := (List.range 26).foldl (fun s n =>
    let x := l.getD (26 * f + n) (0, 0)
    s.wf (R.FUR_SLOW_S f n) (furSlow x.1 x.2)) s
  let m := maxOf ((List.range 24).filterMap fun k => (s.physical f k).map fun n => s.rf (R.FUR_SLOW_S f n))
  (s.wf (R.FLD_SLOW_FUR_S f) (max 0x10000 m)).wf (R.FLD_SLOW_PORT_S f) (max (s.portSlow (2 * f)) (s.portSlow (2 * f + 1)))

/-- R383: SLOWDOWN_WINDOW_END: a window of 1 ms ends; `l` holds, for furrow n of field f at 26f + n, its arithmetic clocks
and those in which it was held. -/
def execSlowdownWindowEnd (l : List (Nat × Nat)) (s : State) : Out :=
  let s := (List.range 4).foldl (fun s f => s.slowField f l) s
  .next ((List.range 64).foldl (fun s c =>
    s.wf (R.CTX_SLOW_S c) (max 0x10000 (maxOf ((List.range 4).map fun f =>
      if s.inMask c f then max (s.rf (R.FLD_SLOW_FUR_S f)) (s.rf (R.FLD_SLOW_PORT_S f)) else 0)))) s)

end Sys2Proof.Machine
end

