-- ==== Sys2Proof/Machine/QueueRegs.lean ====
section
/-! DEFINITION. Binding, enabling, disabling and ringing queues (R353, R355, R357, R369, R375, R438), and their ring bases
(R373). -/

namespace Sys2Proof.Machine

/-- R353, R372: a write of `QM_QBIND` for the queue that `QM_QSEL` selects; its refusal is that queue's. A reserved class
leaves that field. -/
def State.bindQueue (s : State) (v : Word32) : State :=
  let q := s.rf R.QM_QSEL_QUEUE
  let fn := wbits v 0 6
  let c := wbits v 8 6
  if s.flag (R.QM_QCFG_EN q) || (fn != 0 && !(s.resident c && s.client c == fn)) then
    s.setQueue q { s.queue q with refused := true }
  else
    let s := (s.wf (R.QM_QBINDV_FUNC q) fn).wf (R.QM_QBINDV_CTX q) c
    if wbits v 16 3 ≤ 4 then s.wf (R.QM_QBINDV_CLASS q) (wbits v 16 3) else s

/-- R353: QUEUE_BIND. -/
def execQueueBind (u : Fin 64) (v : Word32) (s : State) : Out := .next (s.gateWrite u A.QM_QBIND fun s => s.bindQueue v)

/-- R351: `v` is a vector of a function's table other than vector 0. -/
def vecLegal (func v : Nat) : Bool := 0 < v && v < msixSize func

/-- R351, R357: the fields of a `QM_QCFG` write that take effect: `LOC` and `LOGSZ` only while `EN` is 0. -/
def State.cfgWrite (s : State) (q : Nat) (v : Word32) : State :=
  let skip := (if s.flag (R.QM_QCFG_EN q) then [1, 8] else []) ++
    if vecLegal (s.qFunc q) (wbits v 16 11) then [] else [16]
  s.writeBut (A.QM_QCFG q) v skip

/-- R357, R375, R438: a write of `QM_QCFG` with `EN` 1. -/
def State.enableQueue (s : State) (q : Nat) (v : Word32) : State :=
  if !s.resident (s.qCtx q) then s.wf (R.QM_QSTAT_REFUSED q) 1
  else if s.flag (R.QM_QCFG_EN q) then s.cfgWrite q v
  else
    let s := ((s.cfgWrite q v).setReg (A.QM_QDB q) 0).setReg (A.QM_QSTART q) 0
    let s := ((s.setReg (A.QM_QDONE q) 0).wf (R.QM_QSTAT_STATE q) qActive).wf (R.QM_QSTAT_CAUSE q) 0
    (s.emptyQueue q).endFence (.queue q)

/-- Work whose command's queue was disabled in ERROR belongs to no queue; its copies end (log 28). -/
def noQueue : Nat := 8192

/-- A launch of queue `q` belongs to no queue any more. -/
def Launch.detach (q : Nat) (l : Launch) : Launch := if l.queue = q then { l with queue := noQueue } else l

/-- A user of a collective operation that is a command of queue `q` belongs to no queue any more. -/
def ColUser.detach (q : Nat) : ColUser → ColUser
  | .cmd q' n => .cmd (if q' = q then noQueue else q') n
  | .swap q' n => .swap (if q' = q then noQueue else q') n
  | u => u

/-- What still runs for commands of queue `q` no longer belongs to it. -/
def State.detachQueue (s : State) (q : Nat) : State :=
  { s with
    copies := s.copies.filter fun x => x.queue != q
    streams := s.streams.map fun (e : Nat × StreamSt) =>
      (e.1, { e.2 with cur := e.2.cur.map (Launch.detach q), launches := e.2.launches.map (Launch.detach q) })
    seqRuns := s.seqRuns.map fun r => if r.queue = q then { r with queue := noQueue } else r
    engines := s.engines.map fun (e : Nat × ColEng) =>
      (e.1,
        { e.2 with
          ops := e.2.ops.map fun o => { o with users := o.users.map (ColUser.detach q) }
          waiting := e.2.waiting.map fun w => { w with user := w.user.detach q } })
    serv := s.serv.map fun (e : Nat × ServSt) =>
      (e.1,
        { e.2 with
          held := e.2.held.map fun t => if t.queue = q then { t with queue := noQueue } else t
          layers := e.2.layers.map fun l => if l.1 = q then (noQueue, l.2) else l }) }

/-- R357: a write of `QM_QCFG` with `EN` 0. -/
def State.disableQueue (s : State) (q : Nat) (v : Word32) : State :=
  if !s.flag (R.QM_QCFG_EN q) then s.cfgWrite q v
  else if s.qState q ≠ qError ∧ s.qDone q ≠ s.qDb q then s.wf (R.QM_QSTAT_REFUSED q) 1
  else
    let s := s.detachQueue q
    ((s.cfgWrite q v).wf (R.QM_QSTAT_STATE q) qDisabled).emptyQueue q

/-- R357: a write of `QM_QCFG`. -/
def State.queueCfg (s : State) (q : Nat) (v : Word32) : State :=
  if v.getLsbD 0 then s.enableQueue q v else s.disableQueue q v

/-- R357, R375, R438: QUEUE_ENABLE: a write of `QM_QCFG` with `EN` 1. -/
def execQueueEnable (u : Fin 64) (q : Fin 8192) (v : Word32) (s : State) : Out :=
  .next (s.gateWrite u (A.QM_QCFG q) fun s => s.queueCfg q v)

/-- R357: QUEUE_DISABLE: a write of `QM_QCFG` with `EN` 0. -/
def execQueueDisable (u : Fin 64) (q : Fin 8192) (v : Word32) (s : State) : Out :=
  .next (s.gateWrite u (A.QM_QCFG q) fun s => s.queueCfg q v)

/-- R355, R369: a write of `QM_QDB`. -/
def State.ringBell (s : State) (q : Nat) (v : Word32) : State :=
  if !s.flag (R.QM_QCFG_EN q) then s
  else
    let bad := (v.toNat + 2 ^ 32 - s.qDb q) % 2 ^ 32 ≥ 2 ^ 31 ||
      (v.toNat + 2 ^ 32 - s.qDone q) % 2 ^ 32 > 2 ^ s.qLog q
    let c := s.qCtx q
    let s := (s.setReg (A.QM_QDB q) v).setCtx c { s.ctx c with settled := false }
    if bad then s.queueError q 1 else s

/-- R355, R369: DOORBELL. -/
def execDoorbell (u : Fin 64) (q : Fin 8192) (v : Word32) (s : State) : Out :=
  .next (s.gateWrite u (A.QM_QDB q) fun s => s.ringBell q v)

/-- R357, R373: a write of a ring base: the low word is staged, the high word commits both, only while `EN` is 0. -/
def State.baseWrite (s : State) (u q o : Nat) (v : Word32) : State :=
  let a := Page.doorbellBase q + o
  if s.flag (R.QM_QCFG_EN q) then s
  else if isLow a then { s with wrStage := sput s.wrStage (busKey u a) v }
  else
    let lo := s.stagedLow u (a - 4)
    let s := s.unstage u (a - 4)
    if lo.toNat % 4096 ≠ 0 ∨ (s.qLocal q ∧ v.toNat ≥ 2 ^ 9) then s else (s.plainWrite (a - 4) lo).plainWrite a v

end Sys2Proof.Machine
end

