-- ==== Sys2Proof/Machine/Regions.lean ====
section
/-! DEFINITION. Commit-region entries (R285, R288, R316) and BAR2 (R156, R287, R346, R347, R371, R436). -/

namespace Sys2Proof.Machine

/-! ### Region entries (R288, R316) -/

/-- R316: the entry that a write of `CMT_RCTL` with fields `v` describes. -/
def Region.withCtl (r : Region) (v : Word32) : Region :=
  { r with ctx := wbits v 0 6, field := wbits v 6 2, mirrorRole := v.getLsbD 9, mirrored := v.getLsbD 11 }

/-- R288: the context's state lets its regions be validated and removed. -/
def State.regionIdle (s : State) (c : Nat) : Bool :=
  !s.active c && (s.cstate c == stReset || s.cstate c == stBoundary)

/-- R288: a copy lies in granules that the context owns in the field. -/
def State.copyOwned (s : State) (r : Region) (base : Nat) : Bool :=
  (base + r.len) * 4096 ≤ 480 * granSize && s.inPartition r.ctx (r.field * 2 ^ 39 + base * 4096) (r.len * 4096)

/-- R288: an entry meets a copy of another valid region, or its own copies meet. -/
def State.copiesMeet (s : State) (i : Nat) (r : Region) : Bool :=
  unitsMeet r.copy0 r.len r.copy1 r.len ||
    s.regions.any fun e =>
      e.1 != i && e.2.valid && e.2.field == r.field &&
        [r.copy0, r.copy1].any fun b => [e.2.copy0, e.2.copy1].any fun d => unitsMeet b r.len d e.2.len

/-- R288: the entry may be validated. -/
def State.canValidate (s : State) (i : Nat) (r : Region) : Bool :=
  s.regionIdle r.ctx && r.len != 0 && s.copyOwned r r.copy0 && s.copyOwned r r.copy1 && !s.copiesMeet i r

/-- R285, R288, R289: a write of `CMT_RCTL` with `VALID` 1 for entry `i`; a valid entry stays as it is. -/
def State.validate (s : State) (i : Nat) (v : Word32) : State :=
  let r := (s.region i).withCtl v
  if (s.region i).valid then s
  else if !s.canValidate i r then s.wf R.CMT_STAT_REFUSED 1
  else
    let r :=
      { r with
        valid := true, live := false, mstep := 0, run := 0, kstep := 0, kept := false, drained := false, flipped := false,
        implied := false, applied := 0, sentData := 0, sentEnd := false, endCount := 0, ackDrained := false, ackFailed := false,
        back := false }
    let s := s.setRegion i r
    if !r.mirrorRole ∧ s.cstate r.ctx = stReset then s.clearCover r else s

/-- R288, R316: a write of `CMT_RCTL` with `VALID` 0; an entry that is not valid takes the other fields. -/
def State.invalidate (s : State) (i : Nat) (v : Word32) : State :=
  let r := s.region i
  if !r.valid then s.setRegion i (r.withCtl v)
  else if s.regionIdle r.ctx then s.setRegion i { r with valid := false }
  else s.wf R.CMT_STAT_REFUSED 1

/-- R288: a write of `CMT_RCTL` for the entry that `CMT_RSEL` selects. -/
def State.regionCtl (s : State) (v : Word32) : State :=
  let i := s.rf R.CMT_RSEL_REGION
  if v.getLsbD 8 then s.validate i v else s.invalidate i v

/-- R288: REGION_VALIDATE: a write of `CMT_RCTL` with `VALID` 1. -/
def execRegionValidate (u : Fin 64) (v : Word32) (s : State) : Out :=
  .next (s.gateWrite u A.CMT_RCTL fun s => s.regionCtl v)

/-- R288, R316: REGION_INVALIDATE: a write of `CMT_RCTL` with `VALID` 0. -/
def execRegionInvalidate (u : Fin 64) (v : Word32) (s : State) : Out :=
  .next (s.gateWrite u A.CMT_RCTL fun s => s.regionCtl v)

/-- R316: a write of `CMT_RCOPY0` to `CMT_RPREG` (page offsets 0x108 to 0x118), only while the entry is not valid. -/
def State.regionConfig (s : State) (o : Nat) (v : Word32) : State :=
  let i := s.rf R.CMT_RSEL_REGION
  let r := s.region i
  if r.valid then s
  else match o with
    | 0x108 => s.setRegion i { r with copy0 := wbits v 0 27 }
    | 0x10C => s.setRegion i { r with copy1 := wbits v 0 27 }
    | 0x110 => s.setRegion i { r with len := wbits v 0 27 }
    | 0x114 => s.setRegion i { r with partDev := wbits v 0 24, partCtx := wbits v 24 6, partFld := wbits v 30 2 }
    | 0x118 => s.setRegion i { r with partReg := wbits v 0 12 }
    | _ => s

/-! ### BAR2 (R346, R347) -/

/-- R346: the size of a function's BAR2, as a power of two. -/
def State.bar2Size (s : State) (u : Nat) : Nat := if u = 0 then s.bar2Pf else s.bar2Vf

/-- R346: the device address of an offset of a function's BAR2. -/
def State.bar2Addr (s : State) (u off : Nat) : Nat := s.rf64 (R.HIF_B2BASE_LO_BASE u) (R.HIF_B2BASE_HI_BASE u) + off

/-- R156: the context whose partition holds an address and which is bound to the function. -/
def State.clientAt (s : State) (u a : Nat) : Option Nat :=
  if a < 2 ^ 41 ∧ granOf a < 480 then
    match s.owner? (fieldOf a) (granOf a) with
    | some c => if s.holds u c then some c else none
    | none => none
  else none

/-- R156, R346: every byte of the access lies in the partition of a context bound to the function. -/
def State.bar2In (s : State) (u a n : Nat) : Bool := (codewords a n).all fun w => (s.clientAt u w.1).isSome

/-- R287: the window rules allow a BAR2 write; RESET allows what ADOPT relies on (R299). -/
def State.bar2Writable (s : State) (u a n : Nat) : Bool :=
  (codewords a n).all fun w =>
    match s.clientAt u w.1 with
    | some c => s.writeOk c w.1 w.2 true true
    | none => false

/-- A BAR2 access that reaches the device: its function is enabled, the device has started, and it lies in the BAR. -/
def State.bar2Served (s : State) (u off n : Nat) : Bool :=
  s.stage == 5 && s.funcEnabled u && off + n ≤ 2 ^ s.bar2Size u

/-- R346, R371, R436: BAR2_READ: function `u` reads `n` bytes at offset `off` of its BAR2; they stand in `b2data`. -/
def execBar2Read (u : Fin 64) (off : BitVec 41) (n : Fin 4097) (s : State) : Out :=
  let a := s.bar2Addr u off.toNat
  let zeros := List.replicate n.val (0 : Byte)
  if !s.bar2Served u off.toNat n then .next { s with b2data := zeros }
  else if !s.bar2In u a n then .next { s.accErr u 1 false 2 off.toNat with b2data := zeros }
  else if s.rangeFenced a n then .next { s with b2data := zeros }
  else if s.hbmWaits a n then .next s
  else
    let (bs, s) := s.hbmRead (.bar2 u) a n
    .next { s with b2data := bs }

/-- R346, R347, R371, R436: BAR2_WRITE: function `u` writes bytes at offset `off` of its BAR2. -/
def execBar2Write (u : Fin 64) (off : BitVec 41) (bs : List Byte) (s : State) : Out :=
  let a := s.bar2Addr u off.toNat
  let n := bs.length
  if !s.bar2Served u off.toNat n then .next s
  else if !s.bar2In u a n then .next (s.accErr u 1 true 2 off.toNat)
  else if s.rangeFenced a n then .next s
  else if !s.bar2Writable u a n then .next (s.accErr u 1 true 4 off.toNat)
  else if s.hbmWaits a n then .next s
  else .next (s.hbmWrite (.bar2 u) a bs)

end Sys2Proof.Machine
end

