-- ==== Sys2Proof/Machine/Events.lean ====
section
/-! DEFINITION. Events to management subscribers and the payloads they share with responses (R514, R517). -/

namespace Sys2Proof.Machine

/-- R514: the GET_STATUS payload. -/
def State.statusPayload (s : State) : List Byte :=
  let flags := bit (s.flag R.FCOL_STAT_STATE) + 2 * bit (s.flag R.FCOL_STAT_DEVFATAL) +
    4 * bit (s.flag R.FCOL_STAT_FALLBACK) + 8 * bit s.flash.expelled + 16 * bit s.tripPin + 32 * bit s.pwr.pin
  leBytes 4 s.flash.boots ++ leBytes 4 s.flash.pom ++ leBytes 1 s.stage ++ leBytes 1 flags ++ leBytes 2 s.aStar ++
    leBytes 2 s.limitE ++ leBytes 2 (s.rf R.PWR_IN_P_W) ++ leBytes 2 (s.rf R.PWR_AVG1S_W) ++ leBytes 2 0 ++
    leBytes 4 (s.rf R.PWR_FC_MIN_MIN) ++ leBytes 2 s.minuteLeft ++ leBytes 2 0 ++
    leBytes 4 (s.rf R.FCOL_RECOVERIES_COUNT) ++ leBytes 2 (s.rf R.FCOL_LOG_WR_SEQ) ++ leBytes 2 0

/-- R514, R515: the GET_FORECAST payload, from one latch of its own. -/
def State.forecastPayload (s : State) : List Byte :=
  leBytes 4 s.flash.boots ++ leBytes 4 (s.rf R.PWR_FC_MIN_MIN) ++ leBytes 2 s.minuteLeft ++ leBytes 2 0 ++
    (List.range 8).flatMap fun j => leBytes 4 (s.ceilWord j).toNat

/-- R508, R513: the enterprise number in the IANA field, most significant byte first (log 43). -/
def ianaBytes : List Byte := (leBytes 4 42723).reverse

/-- R513: a vendor message: MCTP type 0x7F and the enterprise number, then command, response flag, completion code and
payload. -/
def vendorMsg (cmd rsp cc : Nat) (payload : List Byte) : List Byte :=
  leBytes 1 0x7F ++ ianaBytes ++ leBytes 1 cmd ++ leBytes 1 rsp ++ leBytes 1 cc ++ leBytes 1 0 ++ payload

/-- R517: the subscriber of a binding (0 I3C, 1 PCIe), and its kinds. -/
def State.subscriber (s : State) (b : Nat) : Nat × Nat :=
  if b = 0 then (s.rf R.STD_MG_SUB_I3C, s.rf R.STD_MG_SUB_KINDS_I3C) else (s.rf R.STD_MG_SUB_PCIE, s.rf R.STD_MG_SUB_KINDS_PCIE)

/-- R517: an event of a kind (1 fault, 2 power, 3 forecast) to one binding. -/
def State.mgEventOn (s : State) (b kind : Nat) (rest : List Byte) : State :=
  let (eid, kinds) := s.subscriber b
  if eid = 0 ∨ !kinds.testBit (kind - 1) then s
  else if s.mg.open_.getD b 0 ≥ 8 then s.bump R.STD_MG_EVDROP_COUNT 1
  else
    { s with mg :=
        { s.mg with
          open_ := s.mg.open_.set b (s.mg.open_.getD b 0 + 1)
          sent := s.mg.sent ++ [(b, eid, vendorMsg 0x80 0 0 (leBytes 1 kind ++ rest))] } }

/-- R517: an event to the subscribers of both bindings. -/
def State.mgEvent (s : State) (kind : Nat) (rest : List Byte) : State := (s.mgEventOn 0 kind rest).mgEventOn 1 kind rest

/-- What R517 watches of `PWR_STAT`: `LIMIT`, `BRAKE`, `TRIP`. -/
def State.powerFlags (s : State) : Bool × Bool × Bool := (s.flag R.PWR_STAT_LIMIT, s.pwr.pin, s.tripPin)

/-- R517: the power event when `LIMIT`, `BRAKE` or `TRIP` has changed since `old`, or `acts` (R459). -/
def State.notePower (s old : State) (acts : Bool) : State :=
  if acts || s.powerFlags != old.powerFlags then s.mgEvent 2 s.statusPayload else s

/-- R517: the forecast event when a ceiling has fallen since `old`, or at a minute boundary. -/
def State.noteForecast (s old : State) (edge : Bool) : State :=
  let fell := (List.range 8).any fun j => s.pwr.ceils.getD j 320 < old.pwr.ceils.getD j 320
  if edge || fell then s.mgEvent 3 s.forecastPayload else s

end Sys2Proof.Machine
end

