-- ==== Sys2Proof/Machine/Collector.lean ====
section
/-! DEFINITION. The fault collector: sampling of the pairs (R391 to R393), events and WIREs (R395, R397, R398), the fault log
(R400 to R402), alarm causes (R403, R404), and the writes of `ERR_FORCE` (R390) and `FCOL_WTEST` (R393). -/

namespace Sys2Proof.Machine

/-! ### The fault log -/

/-- R404: a cause bit of `FCOL_EVT`: 0 faulted, 1 severe, 2 normal, 3 lost. -/
def State.fcolEvt (s : State) (b : Nat) : State :=
  let old := s.rf R.FCOL_EVT_CAUSE
  if old.testBit b then s
  else
    let s := s.wf R.FCOL_EVT_CAUSE (old ||| 2 ^ b)
    if (s.rf R.FCOL_EVTEN_EN).testBit b then s.sendMsg 0 (s.rf R.FCOL_CTRL_VEC) else s

/-- R400: the kind of an entry: event, wire fault, forced event, wire test. -/
inductive LogKind where
  | event | wire | forced | test
deriving DecidableEq, Repr

/-- R400: the code of a kind. -/
def LogKind.code : LogKind → Nat
  | .event => 0 | .wire => 1 | .forced => 2 | .test => 3

/-- R400: a source is severe. -/
def State.severe (s : State) (page bit : Nat) : Bool := (s.rf (R.ERR_SEV_SEV page)).testBit bit

/-- R400: the bytes of an entry. -/
def State.logBytes (s : State) (page b : Nat) (k : LogKind) (m : Meas) : List Byte :=
  leBytes 8 s.now ++ leBytes 2 (page / 0x1000) ++ leBytes 1 (b + 32 * k.code) ++
    leBytes 1 (((srcAt page b).map fun x => x.1.code).getD 0 + 8 * bit (s.severe page b)) ++
    leBytes 2 (s.rf R.FCOL_LOG_WR_SEQ) ++ leBytes 2 0 ++ leBytes 4 (s.rf (R.ERR_CNT_COUNT page)) ++
    leBytes 4 (s.rf (R.ERR_STAT_STAT page)) ++ leBytes 1 m.temp.toNat ++ leBytes 1 0 ++ leBytes 2 m.vcore.toNat ++
    leBytes 2 m.clk.toNat ++ leBytes 2 0

/-- R402: entries unread. -/
def State.logUnread (s : State) : Nat := (s.rf R.FCOL_LOG_WR_SEQ + 2 ^ 16 - s.rf R.FCOL_LOG_RD_SEQ) % 2 ^ 16

/-- R400 to R402, R418, R517: one entry, its passing on to the almanac and to subscribers. -/
def State.logEntry (s : State) (page b : Nat) (k : LogKind) (who : Option Nat) (m : Meas) : State :=
  let bs := s.logBytes page b k m
  let lost := s.logUnread ≥ 64
  let seq := s.rf R.FCOL_LOG_WR_SEQ
  let s := { s with
    fcolLog := sput s.fcolLog (seq % 64) bs, mg := { s.mg with logWrapped := s.mg.logWrapped || seq == 65535 } }
  let s := s.wf R.FCOL_LOG_WR_SEQ (seq + 1)
  let s := if lost then ((s.bump R.FCOL_LOG_LOST_COUNT 1).raiseSrc Page.collectorBase 1).fcolEvt 3 else s
  let s := match k with
    | .event => s.almanac 0 page b who [] m
    | .wire => s.almanac 1 page b none [] m
    | .forced | .test => s
  s.mgEvent 1 bs

/-! ### Sampling (R391 to R393) -/

/-- R393, R451: the ports, the collective engine's packet path and the ring segments of field `f` are unpowered or held in
reset: they stay powered in a sleeping field while one of its ports is not DISABLED. -/
def State.pathOff (s : State) (f : Nat) : Bool :=
  s.rf (R.PWR_FLD_STATE f) == 3 ||
    (s.rf (R.PWR_FLD_STATE f) == 0 && s.pstate (2 * f) == pDisabled && s.pstate (2 * f + 1) == pDisabled)

/-- R393, R451: the pair of source `b` of a page is clamped to not raised: its domain is clock-gated, power-gated or held in
reset. Bits 2 and 3 of a field page are the ring's (R394). -/
def State.clamped (s : State) (p : Page) (b : Nat) : Bool :=
  let off := fun f => s.rf (R.PWR_FLD_STATE f) == 0 || s.rf (R.PWR_FLD_STATE f) == 3 || s.fieldOff f
  match p with
  | .furrow f n => off f || s.retired f n || !s.awake f n || s.flag (R.CLK_GATE_FURROW_OFF f n)
  | .field f => if b == 2 || b == 3 then s.pathOff f else off f
  | .hbm f _ | .fieldmem f => off f
  | .colleng f => s.pathOff f
  | .port q => s.pathOff (q / 2)
  | _ => false

/-- What the collector finds on a pair in a tick. -/
inductive Reading where
  | low | raised | equal
deriving DecidableEq, Repr

/-- R391 to R393: the reading of pair `k`; `faulty` says that its wires read alike. -/
def State.readPair (s : State) (k : Nat) (faulty : Bool) : Reading :=
  let x := s.pair k
  let page := k / 32 * 0x1000
  if x.test > 0 then .equal
  else if (pageAt page).any fun p => s.clamped p (k % 32) then .low
  else if faulty then .equal
  else if x.hold > 0 || (x.cond && !s.masked page (k % 32)) then .raised else .low

/-- What one pair shows in a tick: a new event, a WIRE that begins, and whether it holds the collector active. -/
structure Sampled where
  key : Nat
  fresh : Bool
  forced : Bool
  who : Option Nat
  wire : Bool
  test : Bool
  active : Bool
deriving DecidableEq, Repr

/-- R391 to R393, R398: one pair at one tick: what it shows, and what the collector keeps of it. -/
def samplePair (k : Nat) (r : Reading) (x : PairSt) : Sampled × PairSt :=
  let isTest := x.test > 0
  let eq := r = .equal
  let n := if eq then x.equal + 1 else 0
  let v := if eq then 0 else min 2 (x.valid + 1)
  let begins := eq ∧ n = 2 ∧ !x.wire
  let wire := begins ∨ (x.wire ∧ v < 2)
  let fresh := r = .raised ∧ !x.seen
  ( { key := k, fresh := fresh, forced := x.forced, who := x.who, wire := begins, test := isTest,
      active := r = .raised ∨ (eq ∧ wire ∧ !isTest) },
    { x with
      hold := x.hold - 1
      forced := x.forced && x.hold > 1
      seen := if eq then x.seen else r = .raised
      equal := min n 2, valid := if wire then v else 0, wire := wire, test := x.test - 1
      who := if r = .raised then none else x.who } )

/-- The pairs that a tick has to look at: those with state, and those whose wires read alike. -/
def State.tickKeys (s : State) (faulty : List (Nat × Nat)) : List Nat :=
  (faulty.foldl (fun (t : Store Unit) e =>
    if (srcAt (e.1 * 0x1000) e.2).isSome then sput t (e.1 * 32 + e.2) () else t) (s.pairs.map fun e => (e.1, ()))).map Prod.fst

/-- R392(3): the domain of a pair under a WIRE is fenced. -/
def State.fenceWire (s : State) (page : Nat) : State :=
  match pageAt page with
  | some (.furrow f _) | some (.field f) | some (.hbm f _) | some (.colleng f) => s.fenceField f
  | some (.port p) => s.fencePort p
  | _ => s.deviceFatal

/-- R392, R393: a WIRE begins on a pair. -/
def State.wireBegins (s : State) (x : Sampled) (m : Meas) : State :=
  let page := x.key / 32 * 0x1000
  let s := s.bump R.FCOL_WIRE_CNT_COUNT 1
  let s := if s.flag R.FCOL_WIRE_INFO_VALID then s
    else (((s.wf R.FCOL_WIRE_INFO_PAGE (x.key / 32)).wf R.FCOL_WIRE_INFO_BIT (x.key % 32)).wf R.FCOL_WIRE_INFO_TEST
      (bit x.test)).wf R.FCOL_WIRE_INFO_VALID 1
  if x.test then (s.errWords Page.collectorBase 0).logEntry page (x.key % 32) .test none m
  else ((s.condEvent Page.collectorBase 0).logEntry page (x.key % 32) .wire none m).fenceWire page

/-- R398, R400, R403, R404: a new event on a pair. -/
def State.newEvent (s : State) (x : Sampled) (m : Meas) : State :=
  let page := x.key / 32 * 0x1000
  let s := (s.bump R.FCOL_EVENTS_COUNT 1).logEntry page (x.key % 32) (if x.forced then .forced else .event) x.who m
  if s.severe page (x.key % 32) then (s.wf R.FCOL_STAT_SEVPEND 1).fcolEvt 1 else s

/-- What the sensors show for a page. -/
def measOf (l : List (Nat × Meas)) (page : Nat) : Meas := ((l.find? fun e => e.1 == page).map Prod.snd).getD {}

/-- What one pair showed in the tick takes effect. -/
def State.applySample (l : List (Nat × Meas)) (s : State) (x : Sampled) : State :=
  let m := measOf l (x.key / 32)
  let s := if x.wire then s.wireBegins x m else s
  if x.fresh then s.newEvent x m else s

/-- R398: the state machine, after what this tick showed. -/
def State.collectorStep (s : State) (fresh active : Bool) : State :=
  if !s.flag R.FCOL_STAT_STATE then
    if fresh || active then
      (((s.wf R.FCOL_STAT_STATE 1).wf R.FCOL_QTIME_TICKS 0).bump R.FCOL_ENTRIES_COUNT 1).fcolEvt 0
    else s
  else if fresh || active || s.flag R.FCOL_STAT_DEVFATAL then s.wf R.FCOL_QTIME_TICKS 0
  else
    let q := s.rf R.FCOL_QTIME_TICKS + 1
    let s := s.wf R.FCOL_QTIME_TICKS q
    if q ≥ s.rf R.FCOL_QUIET_MS * msTicks then
      ((s.wf R.FCOL_STAT_STATE 0).bump R.FCOL_RECOVERIES_COUNT 1).fcolEvt 2
    else s

/-- R526: `n` ticks of the time the brake pin is asserted. -/
def PwrSt.pinTicks (x : PwrSt) (n : Nat) : PwrSt := if x.pin then { x with pinFor := min msTicks (x.pinFor + n) } else x

/-- R306, R417, R457: `n` ticks pass; every 60,000 ms of the local counter is a power-on minute. -/
def State.elapse (s : State) (n : Nat) : State :=
  let m := (s.now + n) / (60000 * msTicks) - s.now / (60000 * msTicks)
  { s with
    now := s.now + n
    pwr := { s.pwr.pinTicks n with eSum := s.pwr.eSum + s.limitSum n, eTicks := s.pwr.eTicks + n }
    flash := if m = 0 then s.flash else s.flash.putHdr { s.flash.hdr with pom := (s.flash.pom + m) % 2 ^ 32 } }

/-- The WIREs in effect, tests aside. -/
def State.anyWire (s : State) : Bool := s.pairs.any fun e => e.2.wire && e.2.test == 0

/-- R169: word `w` of gleaning buffer `n` of field `f`, in the share of context `c`, is uncorrectable. -/
def State.gleanLost (s : State) (f n c w : Nat) : State :=
  let base := 4096 * s.rf (R.FLD_GLQ_BASE c f)
  if base ≤ w && w < base + 4096 * s.rf (R.FLD_GLQ_SIZE c f) then
    s.wordsLost (Page.furrowBase f n) 4 c [w] fun s w => s.gleanSet f n w (0, 0)
  else s

/-- R110, R169: an instruction of which the low (`w` even) or high half reads as 0. -/
def halfLost (w : Nat) (x : InstrWord) : InstrWord := if w % 2 = 0 then x >>> 64 <<< 64 else x.setWidth 64 |>.setWidth 128

/-- R169: word `w` of a stream's buffer is uncorrectable; the instruction that it belongs to holds 0 in its place. -/
def State.bufferLost (s : State) (i : StreamId) (w : Nat) : State :=
  match (s.strm i.field i.furrow i.ctx i.strm).buf[w / 2]? with
  | some (some b) => s.wordsLost (Page.furrowBase i.field i.furrow) 4 i.ctx [w] fun s w =>
      let x := s.strm i.field i.furrow i.ctx i.strm
      s.setStrm i.field i.furrow i.ctx i.strm { x with buf := x.buf.set (w / 2) (some (halfLost w b)) }
  | _ => s

/-- R169, R394, R395: a find inside the package raises its source; a failed ring segment fences its field; an uncorrectable
word reads as 0 and blocks the step of the context that may read it. -/
def State.chipFound (s : State) (x : ChipFind) : State :=
  match x with
  | .furrowStore f n => s.raiseSrc (Page.furrowBase f n) 3
  | .sheafStore f => s.raiseSrc (Page.fieldBase f) 0
  | .ringRetried f => s.raiseSrc (Page.fieldBase f) 2
  | .ringFailed f => (s.raiseCond (Page.fieldBase f) 3).fenceField f
  | .steadingStore => s.raiseSrc Page.steadingBase 0
  | .steadingLost => s.raiseFatal Page.steadingBase 1
  | .seedWord f n c w => s.seedLost f n c [(s.seedBase f c, s.seedQuota f c)] [w]
  | .sheafWord f c w => s.sheafLost f c [(s.sheafBase f c, s.sheafShare f c)] [w]
  | .gleanWord f n c w => s.gleanLost f n c w
  | .bufferWord i w => s.bufferLost i w

/-- R391 to R404: COLLECTOR_TICK: one tick of the always-on clock. `faulty` names, by page index and bit, the pairs whose
wires read alike; `l` what the sensors show for a page; `finds` what the package's own codes and checks find. The counter holds 0 while the
device is held in reset (R473), but the time that the brake pin is asserted counts (R526). -/
def execCollectorTick (faulty : List (Nat × Nat)) (l : List (Nat × Meas)) (finds : List ChipFind) (s : State) : Out :=
  if s.pins.held then .next { s with pwr := s.pwr.pinTicks 1 }
  else
    let s := finds.foldl State.chipFound s
    let found := (s.tickKeys faulty).map fun k =>
      samplePair k (s.readPair k (faulty.contains (k / 32, k % 32))) (s.pair k)
    let shown := found.map Prod.fst
    let s := (found.foldl (fun s (e : Sampled × PairSt) => s.setPair e.1.key e.2) s).elapse 1
    let s := if s.anyWire then s else s.dropCond Page.collectorBase 0
    let s := shown.foldl (State.applySample l) s
    .next (s.collectorStep (shown.any fun x => x.fresh || x.wire) (shown.any (·.active)))

/-- R391, R393, R398: no pair is raised, held or under a WIRE: the condition of a masked or clamped source does not raise its
pair. -/
def State.quiet (s : State) : Bool :=
  s.pairs.all fun e =>
    e.2.hold == 0 && e.2.equal == 0 && !e.2.wire && e.2.test == 0 && !e.2.seen && s.readPair e.1 false == .low

/-- R398: QUIET_PERIOD_EXPIRY: the ticks left of the quiet period pass with no new event and no active pair. -/
def execQuietPeriodExpiry (s : State) : Out :=
  if !s.flag R.FCOL_STAT_STATE || s.flag R.FCOL_STAT_DEVFATAL || !s.quiet then .next s
  else
    let q := s.rf R.FCOL_QTIME_TICKS
    let n := max 1 (s.rf R.FCOL_QUIET_MS * msTicks - q)
    .next (((s.wf R.FCOL_QTIME_TICKS (q + n - 1)).elapse n).collectorStep false false)

/-! ### Injected faults -/

/-- R388, R390: one forced event of a source. -/
def State.forceSrc (s : State) (page b : Nat) : State := (s.errWords page b).raisePair page b true

/-- R390: a write of `ERR_FORCE` of the page at `base`. -/
def State.forceWrite (s : State) (base : Nat) (v : Word32) : State :=
  (List.range 32).foldl (fun s b => if v.getLsbD b && (srcAt base b).isSome then s.forceSrc base b else s) s

/-- R390: ERROR_FORCE: a write of `ERR_FORCE` of the page at `a`; a page without the common layout has no source and no such
register (R16). -/
def execErrorForce (u : Fin 64) (a : BitVec 27) (v : Word32) (s : State) : Out :=
  let base := a.toNat / 0x1000 * 0x1000
  .next (s.gateWrite u (base + 0x18) fun s => s.forceWrite base v)

/-- R393: a write of `FCOL_WTEST`; `GO` starts the test. -/
def State.wireTestWrite (s : State) (v : Word32) : State :=
  let s := s.plainWrite A.FCOL_WTEST v
  let page := wbits v 0 15 * 0x1000
  let b := wbits v 15 5
  if v.getLsbD 31 && (srcAt page b).isSome then s.setPair (pairKey page b) { s.pair (pairKey page b) with test := 3 } else s

/-- R393: WIRE_TEST: a write of `FCOL_WTEST` with `GO` 1. -/
def execWireTest (u : Fin 64) (v : Word32) (s : State) : Out :=
  .next (s.gateWrite u A.FCOL_WTEST fun s => s.wireTestWrite v)

end Sys2Proof.Machine
end

