-- ==== Sys2Proof/Machine/Watchdogs.lean ====
section
/-! DEFINITION. The watchdogs and the hang log (R432 to R434, R439). -/

namespace Sys2Proof.Machine

/-- R439: what an entry of the hang log names. -/
structure HangWho where
  kind : Nat
  ctx : Option Nat := none
  field : Nat := 0
  strm : Nat := 3
  furrow : Nat := 31
  queue : Nat := 0
  unit : Nat := 0
  wait : Nat := 0
  iaddr : Nat := 0

/-- R439: the bytes of an entry. -/
def State.hangBytes (s : State) (h : HangWho) : List Byte :=
  leBytes 8 s.now ++ leBytes 1 (h.kind + 4 * bit h.ctx.isNone) ++ leBytes 1 (h.ctx.getD 0) ++
    leBytes 1 (h.field + 4 * h.strm) ++ leBytes 1 h.furrow ++ leBytes 2 (h.queue % 8192) ++ leBytes 1 h.unit ++
    leBytes 1 h.wait ++ leBytes 8 h.iaddr ++ leBytes 4 ((h.ctx.map s.stepOf).getD 0) ++
    leBytes 2 (s.rf R.STD_HANG_WR_SEQ) ++ leBytes 2 0

/-- R439: one entry; the oldest of 16 unread ones is lost. -/
def State.hangEntry (s : State) (h : HangWho) : State :=
  let seq := s.rf R.STD_HANG_WR_SEQ
  let unread := (seq + 2 ^ 16 - s.rf R.STD_HANG_RD_SEQ) % 2 ^ 16
  let b := s.hangBytes h
  let s := if unread ≥ 16 then s.bump R.STD_HANG_LOST_COUNT 1 else s
  { s with hangLog := sput s.hangLog (seq % 16) b }.wf R.STD_HANG_WR_SEQ (seq + 1)

/-- R434, R446: a contained watchdog expires: its source, the entry, the fence of its domain unless that is fenced already, the
blocked step. -/
def State.expire (s : State) (page b : Nat) (d : Dom) (fenced : Bool) (h : HangWho) : State :=
  let s := (s.raiseFor page b h.ctx).hangEntry h
  let s := if fenced then s else s.beginFence d
  match h.ctx with
  | some c => s.blockCause c 6
  | none => s

/-- What the hang log names of a stream. -/
def State.hangOf (s : State) (kind : Nat) (p : At) (pc : Nat) : HangWho :=
  { kind := kind, ctx := some p.c, field := p.f, strm := p.k, furrow := s.logical p.f p.n,
    queue := ((s.st p).cur.map Launch.queue).getD 0, wait := (s.st p).wait.code, iaddr := pc }

/-- R432 to R434: STREAM_WATCHDOG: a stream with a launch in progress, not halted, has issued nothing for `CTX_WDc.STRM`. -/
def execStreamWatchdog (x : StreamId) (s : State) : Out :=
  let p : At := ⟨x.field, x.furrow, x.ctx, x.strm⟩
  let st := s.st p
  if st.cur.isNone || st.state = .halted then .next s
  else .next (s.expire (Page.furrowBase p.f p.n) 2 (.stream p.f p.n p.c p.k) (s.streamHeld p.f p.n p.c p.k) (s.hangOf 0 p st.pc))

/-- R432, R433: the queue's head waits on another queue, or a command it started is not finished; a JOIN or LEAVE that a step
took waits only for the commit. -/
def State.queueHangs (s : State) (q : Nat) : Bool :=
  (match (s.queue q).head with
    | some w => CmdWord.dep w && s.depVerdict q w == .wait
    | none => false) ||
  (s.queue q).cmds.any fun c =>
    c.fin.isNone && !(s.srv (s.qCtx q)).held.any fun t => t.queue == q && t.seq == c.seq

/-- R432 to R434: QUEUE_WATCHDOG: queue `q` waits on `DEP`, or a command it started runs, longer than `QM_QWD.MS`. -/
def execQueueWatchdog (q : Fin 8192) (s : State) : Out :=
  if !s.flag (R.QM_QCFG_EN q) || s.rf (R.QM_QWD_MS q) == 0 || !s.queueHangs q then .next s
  else
    let c := s.qCtx q
    let s := (s.raiseFor Page.qmBase 0 (some c)).hangEntry { kind := 1, ctx := some c, queue := q }
    .next ((s.fenceQueue q .draining).blockCause c 6)

/-- R432 to R434: DMA_WATCHDOG: a transfer on engine `e` of field `f` has moved no byte for `STD_WD_CTRL.DMA`. -/
def execDmaWatchdog (f : Fin 4) (e : Fin 8) (s : State) : Out :=
  match (s.dmaOf f).active.find? fun x => x.1 == e.val with
  | none => .next s
  | some (_, x) =>
    let p : At := ⟨f, x.furrow, x.owner.ctx, x.owner.strm⟩
    .next (s.expire (Page.fieldBase f) 4 (.dma f e) (s.engineFenced f e)
      { s.hangOf 2 p x.pc with unit := e, queue := x.owner.queue })

/-- R434: the context that a packet in the receive buffer belongs to, where it is delivered here. -/
def State.rxOwner (s : State) (x : Pkt) : Option Nat := if x.dst = s.devId ∧ x.ptype < 6 then some x.dctx else none

/-- R432, R434: the packets that the watchdog of port `p` counts, each by the context it belongs to, none for a transit packet:
those with credits that wait to send a slot, and those in the receive buffer, taken in whole or in part, delivered here and not
yet consumed, or waiting at another port. -/
def State.stalled (s : State) (p : Nat) : List (Option Nat) :=
  let y := s.port p
  let away := fun (x : OutPkt) => x.from_ == p && x.hdr.ptype != 10
  (y.cur.toList ++ (y.held ++ y.linkTx).filter fun x => y.hasCredit x.hdr).map (fun x => x.hdr.own) ++
    (y.rx ++ y.last.toList ++ (s.inbox.filter fun e => e.1 == p).map Prod.snd).map s.rxOwner ++
    (if y.asm.isEmpty then [] else [s.rxOwner (Pkt.parse y.asm)]) ++
    (List.range 8).flatMap fun o =>
      let z := s.port o
      ((z.held ++ z.cur.toList ++ z.sCur.toList).filter away).map fun _ => none

/-- R434: the context that PORT_WATCHDOG names: `who`, where that is a stalled packet's, and the first one's otherwise (log
30). -/
def namedOf (l : List (Option Nat)) (who : Option Nat) : Option Nat := if l.contains who then who else l.head?.join

/-- R432 to R434, R446: PORT_WATCHDOG: a packet of port `p` waits longer than `STD_WD_CTRL.PORT`; `who` is the context that
it belongs to. -/
def execPortWatchdog (p : Fin 8) (who : Option (Fin 64)) (s : State) : Out :=
  let l := s.stalled p
  if s.pstate p ≠ pActive || l.isEmpty then .next s
  else
    let s := (s.raiseSrc (Page.portBase p) 2).hangEntry
      { kind := 3, ctx := namedOf l (who.map Fin.val), field := p.val / 2, unit := p }
    .next (s.fencePort p)

end Sys2Proof.Machine
end

