-- ==== Sys2Proof/Machine/AlmRegs.lean ====
section
/-! DEFINITION. Writes of the almanac page that act: starting and stopping harrow runs (R412, R416, R430), reading an entry and
asking for a classification (R421, R429). -/

namespace Sys2Proof.Machine

/-- R430: a format code of a harrow run. -/
def harrowFmt (x : Nat) : Bool := x == 0 || (2 ≤ x && x ≤ 9)

/-- R430: the fields of `ALM_HRWf_CTRL` other than `GO` and `STOP`, while no run is in progress. -/
def State.harrowFields (s : State) (f : Nat) (v : Word32) : State :=
  if s.harrowing f then s
  else
    s.writeBut (A.ALM_HRW_CTRL f) v
      ((if harrowFmt (wbits v 24 4) then [] else [24]) ++ if harrowFmt (wbits v 28 4) then [] else [28])

/-- R412, R416: a write of `ALM_HRWf_CTRL`: `STOP`, then the fields, then `GO`; `m` is what the sensors show at a stop. -/
def State.harrowCtrl (s : State) (f : Nat) (v : Word32) (m : Option Meas) : State :=
  let s := if v.getLsbD 1 then let (m, s) := s.measured m; s.stopHarrow f m else s
  let s := s.harrowFields f v
  if v.getLsbD 0 then s.harrowGo f else s

/-- R412: HARROW_GO: a write of `ALM_HRWf_CTRL` with `GO` 1. -/
def execHarrowGo (u : Fin 64) (f : Fin 4) (v : Word32) (m : Meas) (s : State) : Out :=
  .next (s.gateWrite u (A.ALM_HRW_CTRL f) fun s => s.harrowCtrl f v (some m))

/-- R416: HARROW_STOP: a write of `ALM_HRWf_CTRL` with `STOP` 1 and `GO` 0. -/
def execHarrowStop (u : Fin 64) (f : Fin 4) (v : Word32) (m : Meas) (s : State) : Out :=
  .next (s.gateWrite u (A.ALM_HRW_CTRL f) fun s => s.harrowCtrl f v (some m))

/-- R429: a write of `ALM_RSEL`; `got` is what the flash delivers where that is not what was written. -/
def State.selectEntry (s : State) (v : Word32) (got : Option (List Byte)) : State :=
  let s := (s.plainWrite A.ALM_RSEL v).startRead
  let (b, s) := s.readAlmanac (wbits v 0 3) (wbits v 8 16) got
  ((List.range 16).foldl (fun s j => s.setReg (A.ALM_RDATA j) (BitVec.ofNat 32 (leAt b (4 * j) 4))) s).wf
    R.ALM_RSEL_READY 1

/-- R429: ALMANAC_READ. -/
def execAlmanacRead (u : Fin 64) (v : Word32) (got : Option (List Byte)) (s : State) : Out :=
  .next (s.gateWrite u A.ALM_RSEL fun s => s.selectEntry v got)

/-- R421, R429: the word `ALM_QRES` for a page index and bit. -/
def State.classWord (s : State) (page b : Nat) : Word32 :=
  let (c, n, band, bucket) := s.classifyAt [] page b
  fields [(0, 2, c), (8, 8, min 255 n), (16, 1, bit band), (17, 1, bit bucket)]

/-- R421, R429: a write of `ALM_QSEL`. -/
def State.selectClass (s : State) (v : Word32) : State :=
  (((s.plainWrite A.ALM_QSEL v).setReg A.ALM_QRES (s.classWord (wbits v 0 15) (wbits v 15 5))).wf R.ALM_QSEL_READY 1).startRead

/-- R421, R429: ALMANAC_CLASSIFY. -/
def execAlmanacClassify (u : Fin 64) (v : Word32) (s : State) : Out :=
  .next (s.gateWrite u A.ALM_QSEL fun s => s.selectClass v)

end Sys2Proof.Machine
end

