-- ==== Sys2Proof/Machine/Signed.lean ====
section
/-! DEFINITION. Retirement and remapping (R81, R82, R423, R424), and signed objects by command, packet and message: EXPEL,
REJOIN, MANAGER_KEYS (R425 to R427, R502 to R506). -/

namespace Sys2Proof.Machine

/-! ### RETIRE and REMAP (R81, R423, R424) -/

/-- R81, R423: every context whose mask includes the field stands at BOUNDARY or RESET. -/
def State.fieldIdle (s : State) (f : Nat) : Bool :=
  (List.range 64).all fun c => !(s.resident c && s.inMask c f) || s.cstate c == stBoundary || s.cstate c == stReset

/-- R81, R423: a physical furrow leaves service: gated, shown as retired, no longer a shadow engine; the logical furrow it
carried becomes vacant. -/
def State.retireFurrow (s : State) (f n : Nat) : State :=
  let l := s.logical f n
  let s := if l < 24 then s.wf (R.FLD_FURMAP_VACANT f l) 1 else s
  let s := { s with
    pwr := { s.pwr with awake := sdel s.pwr.awake (furKey f n) }
    shadows := s.shadows.filter fun x => !(x.field == f && x.engine == n) }
  (s.wf (R.FUR_MAP_LOGICAL f n) 31).wf (R.FUR_MAP_STATE f n) 2

/-- R419: the entry of a retirement (5) or remap (6). -/
def State.furrowEntry (s : State) (event f n l : Nat) (m : Meas) : State :=
  s.almanac event (Page.furrowBase f n) 0 none (leBytes 1 f ++ leBytes 1 n ++ leBytes 1 l) m

/-- R423: RETIRE. -/
def execRetire (q : Fin 8192) (m : Meas) (s : State) : Out :=
  .next (runCmd q 0x4A (fun w seq s =>
    let f := cmdAt w 32 1
    let n := cmdAt w 33 1
    argsThen ([(decide (f ≥ 4), 32), (decide (n ≥ 26), 33)] ++ reservedBytes w 34 30)
      (if s.isFenced (.field f) then .stop fencedStatus 0
      else if s.retired f n || (s.logical f n < 24 && !s.fieldIdle f) || s.harrowing f then .stop stStatus (s.cstate (s.qCtx q))
      else .run (thenOk q seq fun s =>
        let l := s.logical f n
        (s.retireFurrow f n).furrowEntry 5 f n l m))) s)

/-- R81: the spare carries the logical furrow, its stores cleared. -/
def State.installSpare (s : State) (f l n : Nat) : State :=
  let s := { s with shadows := s.shadows.filter fun x => !(x.field == f && x.engine == n) }
  let u := furKey f n * 128
  let s :=
    { s.setFur f n {} with
      seedbed := s.seedbed.clearUnits unit64K u (u + 128)
      glean := s.glean.clearUnits gleanUnit u (u + 128) }
  (((s.wf (R.FUR_MAP_LOGICAL f n) l).wf (R.FUR_MAP_STATE f n) 0).wf (R.FLD_FURMAP_PHYS f l) n).wf (R.FLD_FURMAP_VACANT f l) 0

/-- R81, R365, R424: REMAP. -/
def execRemap (q : Fin 8192) (m : Meas) (s : State) : Out :=
  .next (runCmd q 0x49 (fun w seq s =>
    let f := cmdAt w 32 1
    let l := cmdAt w 33 1
    let n := cmdAt w 34 1
    argsThen ([(decide (f ≥ 4), 32), (decide (l ≥ 24), 33), (n != 24 && n != 25, 34)] ++ reservedBytes w 35 29)
      (if s.isFenced (.field f) then .stop fencedStatus 0
      else if !s.fieldIdle f || s.rf (R.FUR_MAP_STATE f n) != 1 || s.harrowing f then .stop stStatus (s.cstate (s.qCtx q))
      else .run (thenOk q seq fun s =>
        let s := match s.physical f l with
          | some old => s.retireFurrow f old
          | none => s
        (s.installSpare f l n).furrowEntry 6 f n l m))) s)

/-! ### Signed objects (R425, R502, R503) -/

/-- Bytes of one signature record. -/
def recordSize : Nat := 4632
/-- Bytes of an ML-DSA-87 public key. -/
def keySize : Nat := 2592

/-- R502: the length that a header announces. -/
def signedLen (b : List Byte) : Nat := 16 + leAt b 8 4 + recordSize * leAt b 7 1

/-- R425: bytes 0 to 15 of a body. -/
def bodyHead (b : List Byte) (action : Nat) : Bool := leAt b 0 1 == action && zeroAt b 4 4

/-- R425, R503: the body of an action is well formed. -/
def bodyOk (b : List Byte) (action : Nat) : Bool :=
  bodyHead b action &&
    if action = 3 then
      let n := leAt b 16 1
      let k := leAt b 17 1
      32 ≤ b.length && n ≤ 16 && (if n = 0 then k == 0 else 1 ≤ k && k ≤ n) && zeroAt b 18 14 && b.length == 32 + keySize * n
    else (action == 1 || action == 2) && b.length == 32 && zeroAt b 16 16

/-- A signed object: action, target, sequence number, body, and the key index and signature of each
record. -/
structure Signed where
  action : Nat
  target : Nat
  seq : Nat
  body : List Byte
  recs : List (Nat × List Byte)
deriving DecidableEq, Repr

/-- R502: a signed object that is well formed. -/
def parseSigned (o : List Byte) : Option Signed :=
  let n := leAt o 8 4
  let body := (o.drop 16).take n
  let action := leAt o 6 1
  let recs := (List.range (leAt o 7 1)).map fun i => 16 + n + recordSize * i
  if leAt o 0 4 == 0x53514B45 && leAt o 4 2 == 1 && leAt o 7 1 ≤ 16 && zeroAt o 12 4 && o.length == signedLen o &&
      bodyOk body action && recs.all (fun r => leAt o r 1 < 16 && zeroAt o (r + 1) 4) then
    some ⟨action, leAt body 1 3, leAt body 8 8, body, recs.map fun r => (leAt o r 1, (o.drop (r + 5)).take (recordSize - 5))⟩
  else none

/-- R487, R502: record `i` counts: its index is registered and stands in no record before it, and its signature of the body
verifies under the key of that index. -/
def State.recordCounts (s : State) (x : Signed) (sigs : List Verified) (r : Nat × List Byte) (i : Nat) : Bool :=
  r.1 < s.flash.keys.length && !((x.recs.take i).any fun e => e.1 == r.1) &&
    verifies sigs ctxQuorum (s.flash.keys.getD r.1 []) x.body r.2

/-- R502: the number of records that count. -/
def State.signers (s : State) (x : Signed) (sigs : List Verified) : Nat :=
  (x.recs.zipIdx.filter fun e => s.recordCounts x sigs e.1 e.2).length

/-- R426 checks 2 to 4, R505: an empty table takes only MANAGER_KEYS with no signature; `cmd` says that the object came by a
SIGNED command. -/
def State.authOk (s : State) (x : Signed) (sigs : List Verified) (cmd : Bool) : Bool :=
  x.target == s.rf R.MBL_DEVID_ID && x.seq > s.flash.qseq &&
    if s.flash.keys.isEmpty then x.action == 3 && cmd && x.recs.isEmpty else s.signers x sigs ≥ s.flash.need

/-- What a checked object did. -/
inductive SignedEnd where
  | ok | auth | state | flash
deriving DecidableEq, Repr

/-- R419: the entry of an expulsion (7) or return (8). -/
def State.memberEntry (s : State) (event : Nat) (x : Signed) (n : Nat) (m : Meas) : State :=
  s.almanac event Page.fabricBase 0 none (leBytes 8 x.seq ++ leBytes 1 n) m

/-- R426, R427, R506: a well-formed object is checked and acts. `flashOk` is false when the flash write of R506 fails. -/
def State.applySigned (s : State) (x : Signed) (sigs : List Verified) (cmd flashOk : Bool) (m : Meas) : SignedEnd × State :=
  if !s.authOk x sigs cmd then (.auth, s.bump R.MBL_QREFUSED_COUNT 1)
  else
    let n := s.signers x sigs
    match x.action with
    | 1 =>
      if s.flash.expelled then (.state, s)
      else
        let s := (List.range 8).foldl State.fencePort s
        (.ok, { s with flash := s.flash.putHdr { s.flash.hdr with expelled := true, qseq := x.seq } }.memberEntry 7 x n m)
    | 2 =>
      if !s.flash.expelled then (.state, s)
      else (.ok, { s with flash := s.flash.putHdr { s.flash.hdr with expelled := false, qseq := x.seq } }.memberEntry 8 x n m)
    | _ =>
      if !flashOk then (.flash, s)
      else
        let k := leAt x.body 16 1
        (.ok,
          { s with
            flash :=
              (s.flash.putKeys ((List.range k).map fun i => (x.body.drop (32 + keySize * i)).take keySize)
                (leAt x.body 17 1)).putHdr { s.flash.hdr with qseq := x.seq } })

/-! ### The SIGNED command (R504) -/

/-- The status and detail of an ended object. -/
def State.signedStatus (s : State) (q : Nat) : SignedEnd → Nat × Nat
  | .ok => (okStatus, 0)
  | .auth => (authStatus, 1)
  | .state => (stStatus, s.cstate (s.qCtx q))
  | .flash => (refusedStatus, 0)

/-- R504: SIGNED carrying action `act`: `host` is the object where it lies in host memory, `none` for a failed read. An object
of another of the three actions is left to that action's command. -/
def State.signedBegun (s : State) (act q : Nat) (w : CmdWord) (seq : Nat) (host : Option (List Byte)) (sigs : List Verified)
    (flashOk : Bool) (m : Meas) : Begun :=
  let a := cmdAt w 32 8
  let n := cmdAt w 44 4
  let far := (cmdAt w 40 1).testBit 0
  argsThen ([(decide (cmdAt w 40 1 > 1), 40), (decide (n < 16), 44)] ++ reservedBytes w 41 3 ++ reservedBytes w 48 16)
    (if !far && !s.inPartition (s.qCtx q) a n then .stop invalid 0xFF
    else if !far && s.rangeFenced a n then .stop fencedStatus 0
    else if !far && s.hbmWaits a n then .wait
    else
      let o? := if far then host.map (fitBytes n) else if s.readBad a n then none else some (s.peekHbm a n)
      let read := fun (s : State) => if far then s else (s.hbmRead (s.qWho q) a n).2
      match o? with
      | none => .run fun s => (read s).finishCmd q seq uncorrected 0
      | some o =>
        let got := leAt o 6 1
        if got != act && 1 ≤ got && got ≤ 3 then .wait
        else if n ≠ signedLen o then .stop invalid 44
        else match parseSigned o with
          | none => .stop invalid 0xFF
          | some x =>
            .run fun s =>
              let (e, s) := (read s).applySigned x sigs true flashOk m
              let (st, d) := s.signedStatus q e
              s.finishCmd q seq st d)

/-- R427: EXPEL by a SIGNED command. -/
def execExpel (q : Fin 8192) (host : Option (List Byte)) (sigs : List Verified) (m : Meas) (s : State) : Out :=
  .next (runCmd q 0x50 (fun w seq s => s.signedBegun 1 q w seq host sigs true m) s)

/-- R427: REJOIN by a SIGNED command. -/
def execRejoin (q : Fin 8192) (host : Option (List Byte)) (sigs : List Verified) (m : Meas) (s : State) : Out :=
  .next (runCmd q 0x50 (fun w seq s => s.signedBegun 2 q w seq host sigs true m) s)

/-- R506: MANAGER_KEYS by a SIGNED command. -/
def execManagerKeys (q : Fin 8192) (host : Option (List Byte)) (sigs : List Verified) (flashOk : Bool) (m : Meas) (s : State) :
    Out :=
  .next (runCmd q 0x50 (fun w seq s => s.signedBegun 3 q w seq host sigs flashOk m) s)

/-! ### MGMT packets (R504) -/

/-- R238, R504: a whole object that packets brought; payloads are whole slots, so fewer than 16 bytes may follow it. -/
def State.endObject (s : State) (b : List Byte) (sigs : List Verified) (flashOk : Bool) (m : Meas) : State :=
  match parseSigned (if b.length < signedLen b + 16 then b.take (signedLen b) else b) with
  | none => s
  | some x => (s.applySigned x sigs false flashOk m).2

/-- R504: one fragment; a fragment that does not continue its object ends it (log 32). -/
def State.takeFragment (s : State) (x : Pkt) (sigs : List Verified) (flashOk : Bool) (m : Meas) : State :=
  let i := x.aux % 256
  let k := x.aux / 256 % 256
  let num := x.aux / 2 ^ 16 % 2 ^ 32
  let mine := fun (o : MgmtObj) => o.src == x.src && o.num == num
  let others := s.sec.objs.filter fun o => !mine o
  let put := fun (s : State) (l : List MgmtObj) => { s with sec := { s.sec with objs := l } }
  let lose := fun (s : State) => (put s others).bump R.MBL_QREFUSED_COUNT 1
  let old := s.sec.objs.find? mine
  let bytes := ((old.map MgmtObj.bytes).getD []) ++ x.payload
  let fits := match old with
    | some o => o.next == i && o.count == k
    | none => i == 0 && k != 0
  if x.payload.length > 4096 || !fits then (if old.isSome then lose s else s.bump R.MBL_QREFUSED_COUNT 1)
  else if i + 1 = k then (put s others).endObject bytes sigs flashOk m
  else if old.isNone && s.sec.objs.length ≥ 4 then s.bump R.MBL_QREFUSED_COUNT 1
  else put s (others ++ [⟨x.src, num, k, i + 1, bytes⟩])

/-- R504: MGMT_PACKET: the oldest MGMT packet that port `p` has delivered. -/
def execMgmtPacket (p : Fin 12) (vc : Fin 2) (sigs : List Verified) (flashOk : Bool) (m : Meas) (s : State) : Out :=
  match takeInbox p 3 vc s.inbox with
  | none => .next s
  | some (x, rest) => if x.ptype ≠ 6 then .next s else .next ((s.consume p x rest).takeFragment x sigs flashOk m)

/-- R504: MGMT_REASSEMBLY_TIMEOUT: object `i` has received no fragment for 10 ms. -/
def execMgmtReassemblyTimeout (i : Fin 4) (s : State) : Out :=
  match s.sec.objs[i.val]? with
  | none => .next s
  | some o => .next ({ s with sec := { s.sec with objs := s.sec.objs.erase o } }.bump R.MBL_QREFUSED_COUNT 1)

end Sys2Proof.Machine
end

