-- ==== Sys2Proof/Machine/Power.lean ====
section
/-! DEFINITION. Power: measurement and its windows (R449, R454, R457, R459), limits and brakes (R455, R456, R458), the
forecast (R460 to R465), throttling (R466, R467, R477), thermal control and trips (R468, R538). -/

namespace Sys2Proof.Machine

/-! ### Duty, level and pin (R466 to R468, R477, R538) -/

/-- The level that power control asks for (R466). -/
def State.powerLevel (s : State) : Nat := 32 - min s.pwr.pos 24

/-- R468: field `f` is in a trip. -/
def State.tripped (s : State) (f : Nat) : Bool := (sget? s.pwr.trips f).isSome

/-- R466, R468, R477: the level field `f` moves towards. -/
def State.targetLevel (s : State) (f : Nat) : Nat :=
  if s.tripped f then 8 else min s.powerLevel (sgetD s.pwr.thermal f 32)

/-- R458, R459, R466, R468: the duty of field `f`. -/
def State.targetDuty (s : State) (f : Nat) : Nat :=
  if s.tripped f || s.pwr.braking then 0 else 16 - (s.pwr.pos - 24)

/-- R466: duty takes effect in every awake field; `LIMIT` shows a means applied for E. -/
def State.applyDuty (s : State) : State :=
  let s := (List.range 4).foldl (fun s f => if s.fieldAwake f then s.wf (R.PWR_FLD_DUTY f) (s.targetDuty f) else s) s
  s.wf R.PWR_STAT_LIMIT (bit (s.pwr.braking || s.pwr.pos != 0))

/-- R540: an assertion of THERM_TRIP_N since `old` is counted. -/
def State.noteTrip (s old : State) : State :=
  if s.tripPin && !old.tripPin then s.bump R.STD_TTRIP_CNT_COUNT 1 else s

/-! ### Samples (R449, R454, R457, R459) -/

/-- The sum of the newest `n` samples: P in W, and the integrals of E in 10 W ticks. -/
def sumSamples (l : List (Nat × Nat)) (n : Nat) : Nat × Nat :=
  (l.take n).foldl (fun a x => (a.1 + x.1, a.2 + x.2)) (0, 0)

/-- The mean of the newest `n` samples, or of those there are (log 33). -/
def meanOf (l : List (Nat × Nat)) (n : Nat) : Nat := (sumSamples l n).1 / max 1 (min n l.length)

/-- R457: the 20 ms or 1 s window that ends now breaks its bound, `num` tenths of E; it must begin at least 1 s after reset. -/
def PwrSt.breaks (p : PwrSt) (n num : Nat) : Bool :=
  let (w, e) := sumSamples p.samples n
  1000 + n ≤ p.ms && w * msTicks > num * e

/-- R471: the registers that a 1 ms interval shows. -/
def State.showPower (s : State) (x : PowerIn) : State :=
  let s := ((s.wf R.PWR_IN_V_MV x.mv.toNat).wf R.PWR_IN_I_CA x.ca.toNat).wf R.PWR_IN_P_W x.w.toNat
  let rails := [x.fields.toNat, x.hbm.toNat, x.links.toNat, x.steading.toNat]
  let s := (rails.zipIdx).foldl (fun s (w, r) => s.wf (R.PWR_RAIL_W r) w) s
  let s := s.wf (R.PWR_RAIL_W 4) (x.w.toNat - rails.foldl (· + ·) 0)
  let l := s.pwr.samples
  let s := (s.wf R.PWR_AVG20_W (meanOf l 20)).peak R.PWR_AVG20_PEAK (meanOf l 20)
  let s := (s.wf R.PWR_AVG1S_W (meanOf l 1000)).peak R.PWR_AVG1S_PEAK (meanOf l 1000)
  let s := s.bump64 R.PWR_ENERGY_LO_MJ R.PWR_ENERGY_HI_MJ x.w.toNat
  if s.flag R.PWR_STAT_LIMIT then s.bump R.PWR_THR_MS_COUNT 1 else s

/-- R466: the last place of the order of means: level 8, duty 1. -/
def lastPlace : Nat := 39

/-- R458, R459: what the mean `w` of the last millisecond does to the brakes; `broke` says that a window has broken its bound.
Both means before duty 0 are applied under a brake, so that its end raises the draw by the order of R466 alone (log 34). -/
def State.brakeAfter (s : State) (w : Nat) (broke : Bool) : State :=
  let e := 10 * s.limitE
  let b459 := (s.pwr.brake459 || broke) && meanOf s.pwr.samples 20 > e
  let braking := (s.pwr.pin && s.pwr.braking && w > 600) || (b459 && (s.pwr.braking || broke) && w > e)
  { s with pwr := { s.pwr with brake459 := b459, braking := braking, pos := if braking then lastPlace else s.pwr.pos } }

/-- R457: a millisecond with mean `w` ends, over which E is integrated; where the clock has not passed, E as it stands. -/
def State.addSample (s : State) (w : Nat) : State :=
  let p := s.pwr
  let e := if p.eTicks = 0 then msTicks * s.limitE else p.eSum * msTicks / p.eTicks
  { s with pwr := { p with samples := ((w, e) :: p.samples).take 1000, eSum := 0, eTicks := 0, ms := p.ms + 1 } }

/-- R449, R454, R457 to R459, R471: POWER_SAMPLE: an interval of 1 ms ends. -/
def execPowerSample (x : PowerIn) (s : State) : Out :=
  if s.pins.held then .next s
  else
    let old := s
    let s := (s.addSample x.w.toNat).showPower x
    let one := s.pwr.breaks 1000 10
    let twenty := s.pwr.breaks 20 11
    let s := if one then s.raiseSrc Page.powerBase 0 else s
    let s := if twenty then s.raiseSrc Page.powerBase 1 else s
    let s := s.brakeAfter x.w.toNat (one || twenty)
    let s := if x.mv.toNat < 44000 || x.mv.toNat > 58000 then s.raiseCond Page.powerBase 2 else s.dropCond Page.powerBase 2
    .next (s.applyDuty.notePower old (one || twenty))

/-! ### Throttling (R466, R467, R477) -/

/-- R458, R466, R467: THROTTLE_EVAL: the device expects a draw of `draw` W, and moves to place `k` of the order of means, down
the order when the draw exceeds E and otherwise back up it, by no more than the ten places that the ramp of R467 takes in
10 µs; while a brake drives duty to 0 it stays at the end (log 34). -/
def execThrottleEval (draw : BitVec 16) (k : Fin 40) (s : State) : Out :=
  if s.pins.held then .next s
  else
    let old := s
    let pos :=
      if s.pwr.braking then s.pwr.pos
      else if draw.toNat > 10 * s.limitE then max s.pwr.pos k else max (s.pwr.pos - 10) (min s.pwr.pos k)
    .next ({ s with pwr := { s.pwr with pos := pos } }.applyDuty.notePower old false)

/-- R467, R477: CLOCK_LEVEL_STEP: the arithmetic clock of field `f` moves one level towards its target. -/
def execClockLevelStep (f : Fin 4) (s : State) : Out :=
  let l := s.rf (R.PWR_FLD_LEVEL f)
  let t := s.targetLevel f
  if !s.fieldAwake f || s.pll (2 + f) != 2 then .next s
  else .next (s.wf (R.PWR_FLD_LEVEL f) (if l < t then l + 1 else if t < l then l - 1 else l))

/-! ### The brake pin (R458, R526) -/

/-- R458, R526: PWR_BRAKE_ASSERT: the pin is sampled while the standby rail is in regulation; its registers follow unless the
device is held in reset. -/
def execPwrBrakeAssert (s : State) : Out :=
  if s.pwr.pin || !s.pins.standby then .next s
  else
    let t := { s with pwr := { s.pwr with pin := true, pinFor := 0, braking := true, pos := lastPlace } }
    if s.pins.held then .next t else .next ((t.bump R.PWR_BRAKE_CNT_COUNT 1).applyDuty.notePower s false)

/-- R458: PWR_BRAKE_RELEASE: a brake of R459 goes on against E. -/
def execPwrBrakeRelease (s : State) : Out :=
  if !s.pwr.pin then .next s
  else
    let t := { s with pwr := { s.pwr with pin := false, pinFor := 0, braking := s.pwr.braking && s.pwr.brake459 } }
    if s.pins.held then .next t else .next (t.applyDuty.notePower s false)

/-! ### Allotment and forecast (R455, R460 to R465) -/

/-- Ticks of a forecast minute. -/
def minuteTicks : Nat := 60000 * msTicks

/-- R461: T(m) of a minute with plan cap `cap`. -/
def State.ceilTarget (s : State) (cap : Option Nat) : Nat := min s.allot (cap.getD 320)

/-- Ceilings replaced; one that ends stays in force for its minute for 100 ms (R456). -/
def State.setCeils (s : State) (l : List Nat) : State :=
  let old := (List.range 8).filterMap fun j =>
    let c := s.pwr.ceils.getD j 320
    if l.getD j 320 = c then none else some ((s.rf R.PWR_FC_MIN_MIN + j) % 2 ^ 32, (⟨s.now, c⟩ : Change))
  let h := (old ++ s.pwr.cHist).filter fun e => s.now ≤ e.2.at_ + 100 * msTicks
  { s with pwr := { s.pwr with ceils := l, cHist := h } }

/-- R461: every ceiling recomputed: frozen minutes only fall. -/
def State.recompute (s : State) : State :=
  s.setCeils ((List.range 8).map fun j =>
    let t := s.ceilTarget (s.pwr.caps.getD j none)
    if j ≤ 1 then min (s.pwr.ceils.getD j 320) t else t)

/-- R460, R461: the boundary of the current minute: the forecast shifts, and a minute enters. -/
def State.minuteEdge (s : State) : State :=
  let p := s.pwr
  { s.wf R.PWR_FC_MIN_MIN (s.rf R.PWR_FC_MIN_MIN + 1) with
    pwr :=
      { p with
        ceils := p.ceils.drop 1 ++ [s.ceilTarget none], caps := p.caps.drop 1 ++ [none], edge := p.edge + minuteTicks } }.noteForecast
      s true

/-- R465: a boundary that is due comes before the writes of its cycle. -/
def State.dueBoundary (s : State) : State := if s.now < s.pwr.edge then s else s.minuteEdge

/-- R455, R456, R461, R465: the allotment is set, by management or by the physical function; of two that write in one cycle
the lower value wins, and the other never was in force. -/
def State.setAllot (s : State) (mgmt : Bool) (a : Nat) : State :=
  if a < 60 ∨ 320 < a then s
  else
    let s := s.dueBoundary
    let old := s.allot
    let tie := s.pwr.lastAllot == some (s.now, !mgmt)
    if tie && old ≤ a then s
    else
      let h := if a = old || tie then s.pwr.aHist else ⟨s.now, old⟩ :: s.pwr.aHist
      let t := { s with
        pwr := { s.pwr with aHist := h.filter fun e => s.now ≤ e.at_ + 100 * msTicks, lastAllot := some (s.now, mgmt) } }
      ((t.wf R.PWR_ALLOT_ALLOT a).recompute).noteForecast s false

/-- R455: ALLOT_WRITE: a write of `PWR_ALLOT`. -/
def execAllotWrite (u : Fin 64) (v : Word32) (s : State) : Out :=
  .next (s.gateWrite u A.PWR_ALLOT fun s => s.setAllot false (wbits v 0 9))

/-- R462, R465: a plan cap for minute `m`, by management or by the physical function; `none` is the answer to a reserved value,
`some false` a refusal. Of two that write one minute in one cycle the lower cap wins. -/
def State.setCap (s : State) (mgmt : Bool) (m cap : Nat) : Option Bool × State :=
  if cap ≠ 0 ∧ (cap < 60 ∨ 320 < cap) then (none, s)
  else
    let s := s.dueBoundary
    let j := (m + 2 ^ 32 - s.rf R.PWR_FC_MIN_MIN) % 2 ^ 32
    let c := if cap = 0 then none else some cap
    let t := s.ceilTarget c
    if 8 ≤ j ∨ (j ≤ 1 ∧ s.pwr.ceils.getD j 320 < t) then (some false, s.wf R.PWR_STAT_REFUSED 1)
    else if s.pwr.lastCap == some (s.now, m, !mgmt) && (s.pwr.caps.getD j none).getD 320 ≤ c.getD 320 then (some true, s)
    else
      let x := { s with pwr := { s.pwr with caps := s.pwr.caps.set j c, lastCap := some (s.now, m, mgmt) } }
      (some true, (x.setCeils (x.pwr.ceils.set j t)).noteForecast s false)

/-- R462: a write of `PWR_PLAN_CAP` for the minute of `PWR_PLAN_MIN`. -/
def State.planCap (s : State) (v : Word32) : State := (s.setCap false (s.rf R.PWR_PLAN_MIN_MIN) (wbits v 0 9)).2

/-- R462: PLAN_CAP_WRITE. -/
def execPlanCapWrite (u : Fin 64) (v : Word32) (s : State) : Out := .next (s.gateWrite u A.PWR_PLAN_CAP fun s => s.planCap v)

/-- The least of caps, where no cap is the highest. -/
def leastCap : Option Nat → Option Nat → Option Nat
  | none, b => b
  | a, none => a
  | some a, some b => some (min a b)

/-- R463: the first boundary after now of the grid with offset `a` ms. -/
def State.nextEdge (s : State) (a : Nat) : Nat :=
  let k := a * msTicks
  s.now + (minuteTicks - (s.now + minuteTicks - k) % minuteTicks)

/-- R460, R463: the grid offset is set, and the minutes of the new grid take the least of the old ones they overlap. -/
def State.setAlign (s : State) (a : Nat) : State :=
  if 60000 ≤ a then s
  else
    let s := s.dueBoundary
    let e := s.nextEdge a
    let ceil := fun j => s.pwr.ceils.getD j s.allot
    let cap := fun j => s.pwr.caps.getD j none
    let pair := fun j => if e = s.pwr.edge then (j, j) else if e < s.pwr.edge then (j - 1, j) else (j, j + 1)
    let ceils := (List.range 8).map fun j => min (ceil (pair j).1) (ceil (pair j).2)
    let caps := (List.range 8).map fun j => leastCap (cap (pair j).1) (cap (pair j).2)
    let t := (s.wf R.PWR_FC_ALIGN_MS a).setCeils ceils
    { t with pwr := { t.pwr with caps := caps, edge := e } }.noteForecast s false

/-- R463: FC_ALIGN_WRITE: a write of `PWR_FC_ALIGN`. -/
def execFcAlignWrite (u : Fin 64) (v : Word32) (s : State) : Out :=
  .next (s.gateWrite u A.PWR_FC_ALIGN fun s => s.setAlign (wbits v 0 16))

/-- R460, R461: MINUTE_BOUNDARY: the boundary of the current minute is reached. -/
def execMinuteBoundary (s : State) : Out := .next s.dueBoundary

/-! ### Heat (R468, R511, R538) -/

/-- The temperature at which a die trips, and below which its trip ends: fields 0 to 3, stacks after them (R468). -/
def isFieldDie (d : Nat) : Bool := d < 4

/-- R468: a die's temperature as a number: junctions are two's complement. -/
def dieTemp (d : Nat) (t : BitVec 8) : Int := if isFieldDie d then t.toInt else (t.toNat : Int)

/-- R468: the register that shows a die's temperature. -/
def State.showTemp (s : State) (d : Nat) (t : BitVec 8) : State :=
  if isFieldDie d then s.wf (R.PWR_FLD_TJ d) t.toNat else s.wf (R.HBM_STAT_TEMP ((d - 4) / 5) ((d - 4) % 5)) t.toNat

/-- A set of dies with die `d` in it or not. -/
def markDie (l : Store Unit) (d : Nat) (on : Bool) : Store Unit := if on then sput l d () else sdel l d

/-- A condition source that follows a test. -/
def State.condIs (s : State) (page b : Nat) (on : Bool) : State := if on then s.raiseCond page b else s.dropCond page b

/-- R468: the over-limit sources follow the dies over their limits. -/
def State.showAbove (s : State) : State :=
  (s.condIs Page.powerBase 3 (s.pwr.above.any fun e => isFieldDie e.1)).condIs Page.powerBase 4
    (s.pwr.above.any fun e => !isFieldDie e.1)

/-- R468: THERMAL_CONTROL: die `d` (a field as f, stack m of field f as 4 + 5f + m) is at temperature `t`; while it is under
control a field runs at level `lvl` or below (log 35), its coolant at `tin` and `tout`. -/
def execThermalControl (d : Fin 24) (t : BitVec 8) (lvl : Fin 33) (tin tout : BitVec 8) (s : State) : Out :=
  if s.pins.held then .next s
  else
    let onset : Int := if isFieldDie d then 102 else 92
    let temp := dieTemp d t
    let hot := temp ≥ onset
    let above := temp ≥ onset + 3
    let s := s.showTemp d t
    let s := (s.wf R.PWR_COOL_TIN tin.toNat).wf R.PWR_COOL_TOUT tout.toNat
    let p := s.pwr
    let th := if isFieldDie d then if hot then sput p.thermal d (max 8 (min 32 lvl.val)) else sdel p.thermal d else p.thermal
    .next { s with pwr := { p with hot := markDie p.hot d hot, above := markDie p.above d above, thermal := th } }.showAbove

/-- R468: THERMAL_TRIP: die `d` is at temperature `t`, at or above its trip temperature. -/
def execThermalTrip (d : Fin 24) (t : BitVec 8) (s : State) : Out :=
  if s.pins.held || dieTemp d t < (if isFieldDie d then 110 else 100) then .next s
  else
    let x := s.showTemp d t
    let t := { x with pwr := { x.pwr with trips := sput x.pwr.trips d () } }
    .next (((t.applyDuty.raiseCond Page.powerBase 5).noteTrip s).notePower s false)

/-- R468: THERMAL_TRIP_END: die `d` is at temperature `t`, cooled to its release temperature. -/
def execThermalTripEnd (d : Fin 24) (t : BitVec 8) (s : State) : Out :=
  if s.pins.held || dieTemp d t > (if isFieldDie d then 100 else 90) then .next s
  else
    let x := s.showTemp d t
    let t := { x with pwr := { x.pwr with trips := sdel x.pwr.trips d } }
    .next ((t.applyDuty.condIs Page.powerBase 5 (!t.pwr.trips.isEmpty)).notePower s false).admitAll

/-- R533, R538: ANALOG_TRIP: the analog sensor of die `d`, which the standby rail feeds, crosses its upper threshold, or its
lower one. -/
def execAnalogTrip (d : Fin 24) (on : Bool) (s : State) : Out :=
  if !s.pins.standby then .next s else
  let t := { s with pwr := { s.pwr with analog := markDie s.pwr.analog d on } }
  .next ((t.noteTrip s).notePower s false)

end Sys2Proof.Machine
end

