-- ==== Sys2Proof/Machine/Clock.lean ====
section
/-! DEFINITION. Clocks: fallback (R479, R480), PLLs (R474 to R476), forced clocks (R481), CLKOUT
(R482), meters (R483); and the sleep and wake of arrays, furrows and fields (R451, R452). -/

namespace Sys2Proof.Machine

/-! ### PLLs (R474 to R476) -/

/-- R474: the target count of PLL `i`. -/
def pllTarget (i : Nat) : Nat :=
  if i = 0 then 5120 else if i = 1 then 4096 else if i < 6 then 2432 else if i < 10 then 3840 else 17920

/-- R474: a count within the accept window. -/
def pllAccepts (i n : Nat) : Bool :=
  let t := pllTarget i
  let d := max 1 (t / 2000)
  t - d ≤ n && n ≤ t + d

/-- R342, R476: the host link is down. -/
def State.linkDown (s : State) : State := s.setReg A.HIF_LINK 0

/-- R475, R476: PLL `i` goes LOST. -/
def State.pllLost (s : State) (i : Nat) : State :=
  let s := s.setPll i 3
  if i = 0 then (s.raiseSrc Page.clockBase 1).linkDown
  else if i = 1 then s.raiseSrc Page.clockBase 2
  else if i < 10 then
    let f := (i - 2) % 4
    (s.raiseCond (Page.fieldBase f) 5).fenceField f
  else (s.raiseSrc (Page.portBase (i - 10)) 2).portDown (i - 10) pFailed

/-- R481 to R483: the clock of PLL `i` is forced off: a field's, or CLKOUT. -/
def State.clockForced (s : State) (i : Nat) : Bool :=
  if i = 1 then !s.flag R.CLK_OUT_EN else 2 ≤ i && i < 10 && s.fieldOff ((i - 2) % 4)

/-- R483: a meter shows a count of one window; a gated clock reads 0. -/
def State.showMeter (s : State) (j q n : Nat) (on : Bool) : State :=
  s.wf (R.CLK_FMETER_KHZ j) (if on then n * q * 100000 / 4096 else 0)

/-- R479, R480: windows of PLL `i` are not judged: in clock fallback its setting is held, and the host port's frequency is
guaranteed for 100 ms. -/
def State.pllHeld (s : State) (i : Nat) : Bool :=
  s.flag R.CLK_STAT_FALLBACK && !(i == 0 && s.clk.fellAt + 100 * msTicks ≤ s.now)

/-- R475, R476, R480, R483: PLL_WINDOW: a window of PLL `i` ends with count `n`; `meter` is the count of its clock's meter in the
same window. Windows outside the accept window count towards LOST while the PLL is LOCKED. -/
def execPllWindow (i : Fin 18) (n meter : BitVec 15) (s : State) : Out :=
  let st := s.pll i
  if (st ≠ 1 ∧ st ≠ 2) ∨ s.pllHeld i then .next s
  else
    let ok := pllAccepts i n.toNat
    let bad := if ok || st == 1 then 0 else sgetD s.clk.bad i 0 + 1
    let good := if ok then min 3 (s.rf (R.CLK_PLL_GOOD i) + 1) else 0
    let s := (s.wf (R.CLK_PLL_COUNT i) n.toNat).wf (R.CLK_PLL_GOOD i) good
    let s := { s with clk := { s.clk with bad := sputD s.clk.bad i bad 0 } }
    let s := if st = 1 ∧ good = 3 then s.wf (R.CLK_PLL_STATE i) 2 else if st = 2 ∧ bad ≥ 2 then s.pllLost i else s
    .next (s.showMeter (meterOf i).1 (meterOf i).2 meter.toNat
      (s.pll i == 2 && !s.clockForced i && !s.flag R.CLK_STAT_FALLBACK))

/-- R475: PLL_LOCK_TIMEOUT: PLL `i` is not LOCKED 1 ms after its start. -/
def execPllLockTimeout (i : Fin 18) (s : State) : Out := if s.pll i = 1 then .next (s.pllLost i) else .next s

/-! ### Fallback (R479, R480) -/

/-- R388, R476, R479, R483: clock fallback: of the clock page's sources raised in this step the lowest is recorded first. -/
def State.fallback (s : State) : State :=
  let s := ((s.wf R.CLK_STAT_AO_REF 0).wf R.CLK_STAT_FALLBACK 1).wf R.FCOL_STAT_FALLBACK 1
  let s := { s with clk := { s.clk with fellAt := s.now } }.raiseCond Page.clockBase 0
  let s := (List.range 17).foldl (fun s i => s.pllLost (i + 1)) s
  let s := (List.range 20).foldl (fun s j => s.wf (R.CLK_FMETER_KHZ j) 0) s
  let s := (List.range 4).foldl State.fenceField s
  let s := (List.range 8).foldl (fun s p => if s.pstate p = pFailed then s else s.portDown p pFailed) s
  s.sendVector0

/-! ### Forced clocks and CLKOUT (R481, R482, R484) -/

/-- R481: a field's clock would be off, and a furrow's; a retired furrow reads off. -/
def State.furrowOff (s : State) (f n : Nat) : Bool := s.retired f n || s.flag (R.CLK_GATE_FURROW_OFF f n)

/-- R481: a write of `CLK_GATE` with value `v` on a page breaks the tree. -/
def State.gateBreaks (s : State) (p : Page) (v : Word32) : Bool :=
  let off := v.getLsbD 0
  match p with
  | .clock => off && !(List.range 4).all s.fieldOff
  | .field f =>
    (off && !(List.range 26).all (s.furrowOff f)) || (!off && s.fieldOff f && s.flag R.CLK_GATE_CLOCK_OFF)
  | .furrow f n =>
    let all := wbits v 4 4 == 15
    (off && !all) || (!off && s.flag (R.CLK_GATE_FURROW_OFF f n) && s.fieldOff f) || (s.retired f n && !(off && all))
  | _ => false

/-- R483: the meters of clocks that are forced off read 0. -/
def State.stopMeters (s : State) : State :=
  (List.range 9).foldl (fun s i => if s.clockForced (i + 1) then s.wf (R.CLK_FMETER_KHZ (meterOf (i + 1)).1) 0 else s) s

/-- R481, R484: a write of the `CLK_GATE` word of the page at `base`; a page without the common layout has no such register
(R16). -/
def State.clkGate (s : State) (base : Nat) (v : Word32) : State :=
  match pageAt base with
  | some p =>
    if !p.hasCommon then s
    else if s.gateBreaks p v then s.wf ⟨base + 0x28, 31, 1⟩ 1 else (s.plainWrite (base + 0x28) v).stopMeters.admitAll
  | none => s

/-- R481, R484: CLK_GATE_WRITE: a write of the `CLK_GATE` word of the page at `a`. -/
def execClkGateWrite (u : Fin 64) (a : BitVec 27) (v : Word32) (s : State) : Out :=
  let base := a.toNat / 0x1000 * 0x1000
  .next (s.gateWrite u (base + 0x28) fun s => s.clkGate base v)

/-- R482, R483: a write of `CLK_OUT`. -/
def State.clkOut (s : State) (v : Word32) : State := (s.plainWrite A.CLK_OUT v).stopMeters

/-- R482: CLK_OUT_WRITE: a write of `CLK_OUT`; the output follows at its next point at 100 MHz. -/
def execClkOutWrite (u : Fin 64) (v : Word32) (s : State) : Out := .next (s.gateWrite u A.CLK_OUT fun s => s.clkOut v)

/-! ### Sleep (R451) -/

/-- R451: ARRAY_SLEEP: array `j` of furrow `n` is idle; it is clock-gated. -/
def execArraySleep (f : Fin 4) (n : Fin 26) (j : Fin 4) (s : State) : Out :=
  let x := s.fur f n
  if (x.mmas.any fun o => o.mask.testBit j) || x.vops.any fun o => o.unit == 4 + j.val then .next s
  else .next { s with pwr := { s.pwr with gated := sput s.pwr.gated (furKey f n * 4 + j) () } }

/-- R451: a collective operation of field `f` that is not over writes the seedbed of furrow `n`. -/
def State.colWrites (s : State) (f n : Nat) : Bool :=
  let e := s.eng f
  (e.ops.any fun o =>
    let d := Desc.parse o.bytes
    !o.done && (s.descSpans f n o.ctx d (d.me o.tables) d.self).any (·.wr)) ||
    e.waiting.any fun w => w.spans.any fun x => x.1 == n && x.2.wr

/-- R451: nothing uses the furrow: no launch on it, no transfer, collective write or shadow repetition of its seedbed. -/
def State.furrowIdle (s : State) (f n : Nat) : Bool :=
  let d := s.dmaOf f
  !(s.streams.any fun e => e.1 / 192 == furKey f n && (e.2.cur.isSome || !e.2.launches.isEmpty)) &&
    !((d.waiting ++ d.handoff ++ d.active.map Prod.snd).any fun x => x.furrow == n) &&
    !s.colWrites f n && !(s.shadows.any fun x => x.field == f && (x.engine == n || x.orig == n)) &&
    !(s.harrowing f && (s.harrowFurrows f).contains n)

/-- R451: FURROW_SLEEP: furrow `n` has been idle for `FUR_US`. -/
def execFurrowSleep (f : Fin 4) (n : Fin 26) (s : State) : Out :=
  if s.flag R.PWR_SLEEP_AWAKE || !s.awake f n || !s.furrowIdle f n then .next s
  else .next { s with pwr := { s.pwr with awake := sdel s.pwr.awake (furKey f n) } }

/-- R451: no request to the field's HBM or sheaf store is queued or in progress. -/
def State.fieldQuiet (s : State) (f : Nat) : Bool :=
  let d := s.dmaOf f
  (List.range 26).all (fun n => !s.awake f n) && d.waiting.isEmpty && d.handoff.isEmpty && d.active.isEmpty &&
    (s.eng f).ops.all (·.done) && !(s.copies.any (·.touches f)) &&
    !(s.dma.any fun e => e.2.active.any fun x => x.2.touches f) && !s.clearing.any fun u => u / 512 == f

/-- R451, R475: FIELD_SLEEP: field `f` has been idle for `FLD_MS`: its PLLs stop, its stacks refresh themselves. -/
def execFieldSleep (f : Fin 4) (s : State) : Out :=
  if s.flag R.PWR_SLEEP_AWAKE || !s.fieldAwake f || !s.fieldQuiet f then .next s
  else
    let s := ((s.wf (R.PWR_FLD_STATE f) 0).stopPll (2 + f)).stopPll (6 + f)
    .next ((List.range 5).foldl (fun s m => s.wf (R.HBM_STAT_STATE f m) 3) s)

/-! ### Waking (R452, R481) -/

/-- R452, R481: FURROW_WAKE: a request wakes furrow `n`; a unit forced off, retired or in a sleeping field does not wake. -/
def execFurrowWake (f : Fin 4) (n : Fin 26) (s : State) : Out :=
  if !s.fieldAwake f || s.furrowOff f n || s.fieldOff f then .next s
  else .next { s with pwr := { s.pwr with awake := sput s.pwr.awake (furKey f n) () } }

/-- R154, R173, R452: the field is awake at level 8; a stack that fails its training is reported and its field fenced. -/
def State.fieldUp (s : State) (f : Nat) (failing : List (Fin 5)) : State :=
  let s := ((s.wf (R.PWR_FLD_STATE f) 2).wf (R.PWR_FLD_LEVEL f) 8).applyDuty
  (List.range 5).foldl (fun s m =>
    if failing.any fun x => x.val == m then
      ((s.wf (R.HBM_STAT_STATE f m) 1).raiseSrc (Page.hbmBase f m) 3).fenceField f
    else s.wf (R.HBM_STAT_STATE f m) 2) s

/-- R443, R452, R474: FIELD_WAKE: a request wakes field `f`: it starts to wake and its PLLs start; once both are LOCKED it is
awake, and what waited for its stacks goes on. A field held in reset leaves it once its PLLs are LOCKED, and its reset is done.
`failing` names the stacks that fail their training; `rings` shows the commands that have not started. -/
def execFieldWake (f : Fin 4) (failing : List (Fin 5)) (rings : Rings) (s : State) : Out :=
  let st := s.rf (R.PWR_FLD_STATE f)
  if s.fieldOff f || s.stage != 5 then .next s
  else if st = 0 then
    if s.flag R.CLK_STAT_AO_REF then
      let s := ((s.wf (R.PWR_FLD_STATE f) 1).startPll (2 + f)).startPll (6 + f)
      .next ((List.range 5).foldl (fun s m => s.wf (R.HBM_STAT_STATE f m) 1) s)
    else .next s
  else if st ≠ 2 ∧ s.pll (2 + f) = 2 ∧ s.pll (6 + f) = 2 then
    .next (((if st = 3 then s.endReset rings f true else s).fieldUp f failing).admitAll)
  else .next (s.failReset rings f)

end Sys2Proof.Machine
end

