-- ==== Sys2Proof/Machine/Security.lean ====
section
/-! DEFINITION. Firmware images and updates (R487 to R491, R497), fuse burns (R494), memory-encryption keys (R499), attestation
(R496), the IDE key exchange (R500), debug tokens (R501) and the test access port (R529). -/

namespace Sys2Proof.Machine

/-! ### Cryptographic functions (log 4) -/

/-- A random draw of `n` bytes, from a fresh index. -/
def State.draw (s : State) (n : Nat) : List Byte × State :=
  let (i, s) := s.fresh
  (Config.crypto 6 (leBytes 8 i) n, s)

/-- R487: the identity key's signature, with context string `ctx`, over SHA3-512 of `b`. -/
def State.signed (s : State) (ctx b : List Byte) : List Byte × State :=
  let (i, s) := s.fresh
  (Config.crypto 4 (leBytes 8 i ++ leBytes 1 ctx.length ++ ctx ++ s.sec.idkey ++ sha3 b) 4627, s)

/-- A list of bytes shown in 32-bit registers from `a` up (R11). -/
def State.showBytes (s : State) (a n : Nat) (b : List Byte) : State :=
  (List.range n).foldl (fun s j => s.setReg (a + 4 * j) (BitVec.ofNat 32 (leAt b (4 * j) 4))) s

/-! ### Images (R490, R491) -/

/-- Size of an image header. -/
def headerSize : Nat := 8192

/-- R490: the fields of a header. -/
def imgSlot (h : List Byte) : Nat := leAt h 6 1 % 4
def imgRevoke (h : List Byte) : Nat := leAt h 7 1 % 16
def imgSvn (h : List Byte) : Nat := leAt h 8 4
def imgBody (h : List Byte) : Nat := leAt h 12 4

/-- R490: the bytes that `SIG` signs. -/
def imgSigned (h : List Byte) : List Byte := h.take 2688

/-- R490: `MARKER` of a complete image. -/
def imgMarker : List Byte := leBytes 8 0x44494C4156584B45

/-- R489, R490: the flash offset of byte `i` of the body. -/
def bodyOffset (i : Nat) : Nat := FlashPart.image.span.1 + headerSize + i

/-- R487, R490: `SIG` verifies under `PUBKEY`. -/
def imgVerifies (l : List Verified) (h : List Byte) : Bool :=
  verifies l ctxFirmware ((h.drop 96).take 2592) (imgSigned h) ((h.drop 2688).take 4627)

/-- R491, check 2. -/
def imgFormat (h : List Byte) : Bool :=
  leAt h 0 4 == 0x46584B45 && leAt h 4 2 == 1 && leAt h 16 4 == 0xB0 && imgBody h % 4096 == 0 && 4096 ≤ imgBody h &&
    imgBody h ≤ FlashPart.image.span.2 - headerSize && zeroAt h 7315 869

/-- The cause of the first failed check of a list; 0 where none fails. -/
def firstCause (l : List (Bool × Nat)) : Nat := ((l.find? fun e => !e.1).map Prod.snd).getD 0

/-- R491, checks 2 to 7; `sig` says that `SIG` verifies. -/
def State.headerChecks (s : State) (h : List Byte) (sig : Bool) : List (Bool × Nat) :=
  [(imgFormat h, 2), (!s.fuses.revoked.testBit (imgSlot h), 3),
    (sha3 ((h.drop 96).take 2592) == s.fuses.keyHash.getD (imgSlot h) [], 4),
    (s.fuses.svn ≤ imgSvn h && imgSvn h ≤ 64, 5), (!(imgRevoke h).testBit (imgSlot h), 6), (sig, 7)]

/-- R491, checks 8 and 9; `flashOk` says that the flash returned every byte without error. -/
def State.bodyChecks (s : State) (h : List Byte) (flashOk : Bool) : List (Bool × Nat) :=
  [(sha3 (s.flash.body.readN hostUnit (bodyOffset 0) (imgBody h)) == (h.drop 32).take 64, 8), (flashOk, 9)]

/-! ### Update sessions (R497, R498) -/

/-- R507: `SEC_UPD_STAT.STATE`. -/
def upIdle : Nat := 0
def upReceiving : Nat := 1
def upBusy : Nat := 2
def upDone : Nat := 3
def upError : Nat := 4

def State.upState (s : State) : Nat := s.rf R.SEC_UPD_STAT_STATE
def State.upOwner (s : State) : Nat := s.rf R.SEC_UPD_STAT_OWNER

/-- R497: a session is in progress. -/
def State.upOpen (s : State) : Bool := s.upState == upReceiving || s.upState == upBusy

/-- R497: running firmware accepts an image from both owners, the recovery loader from the physical function (R498). -/
def State.updatable (s : State) (owner : Nat) : Bool := s.stage == 5 || (s.stage == 6 && owner == 0)

/-- R497: the session ends with a cause; a failed check of R491 raises the update source. -/
def State.upFail (s : State) (cause : Nat) : State :=
  let s := (s.wf R.SEC_UPD_STAT_STATE upError).wf R.SEC_UPD_STAT_ERR cause
  if cause ≤ 9 then s.raiseSrc Page.securityBase 0 else s

/-- R497(1): BEGIN of `owner` with header `h` (log 36). -/
def State.updateBegin (s : State) (owner : Nat) (h : List Byte) (sig flashOk : Bool) : State :=
  if !s.updatable owner then s
  else if s.upOpen && s.upOwner != owner then s.wf R.SEC_UPD_STAT_ERR 11
  else
    let s := s.wf R.SEC_UPD_STAT_OWNER owner
    let c := firstCause (s.headerChecks h sig ++ [(flashOk, 9)])
    if c ≠ 0 then s.upFail c
    else
      let s := { s with sec := { s.sec with upHeader := h }, flash := { s.flash with header := none } }
      ((s.wf R.SEC_UPD_STAT_STATE upReceiving).wf R.SEC_UPD_STAT_ERR 0).wf R.SEC_UPD_RCVD_BYTES 0

/-- R497(2): DATA of `owner`: bytes `b` for body offset `off`. -/
def State.updateData (s : State) (owner off : Nat) (b : List Byte) : State :=
  if !s.updatable owner || s.upState != upReceiving || s.upOwner != owner then s
  else
    let got := s.rf R.SEC_UPD_RCVD_BYTES
    if off ≠ got ∨ b.length = 0 ∨ 65536 < b.length ∨ imgBody s.sec.upHeader < got + b.length then s.upFail 10
    else
      let s := { s with flash := { s.flash with body := s.flash.body.writeN hostUnit (bodyOffset off) b } }
      (s.wf R.SEC_UPD_STAT_STATE upBusy).wf R.SEC_UPD_RCVD_BYTES (got + b.length)

/-- R497(3): FINISH of `owner`: checks 8 and 9, then the header and its marker. -/
def State.updateFinish (s : State) (owner : Nat) (flashOk : Bool) : State :=
  if !s.updatable owner || s.upState != upReceiving || s.upOwner != owner then s
  else
    let h := s.sec.upHeader
    let c := firstCause (s.bodyChecks h flashOk)
    if c ≠ 0 then s.upFail c
    else
      { s with flash := { s.flash with header := some (h.take 8184 ++ imgMarker) } }.wf R.SEC_UPD_STAT_STATE upDone

/-- R497: CANCEL of `owner`. -/
def State.updateCancel (s : State) (owner : Nat) : State :=
  if s.upOwner != owner then s else s.wf R.SEC_UPD_STAT_STATE upIdle

/-- R497: bytes of the mailbox window. -/
def State.mailBytes (s : State) (n : Nat) : List Byte := s.sec.mailbox.readN unit64K 0 n

/-- R16, R497: a write of `SEC_UPD_CTRL`: `sigs` lists the signatures that verify, `flashOk` says that the flash answered
without error. A reserved `CMD` is ignored. -/
def State.updCtrl (s : State) (v : Word32) (sigs : Option (List Verified)) (flashOk : Option Bool) : State :=
  match wbits v 0 3 with
  | 1 =>
    let h := s.mailBytes headerSize
    let (a, s) := s.verdict (sigs.map fun l => imgVerifies l h)
    let (b, s) := s.verdict flashOk
    s.updateBegin 0 h a b
  | 2 => s.updateData 0 (s.rf R.SEC_UPD_OFF_OFF) (s.mailBytes (min 65536 (s.rf R.SEC_UPD_LEN_LEN)))
  | 3 =>
    let (b, s) := s.verdict flashOk
    s.updateFinish 0 b
  | 4 => s.updateCancel 0
  | _ => s

/-- R497(1): UPDATE_BEGIN: a write of `CMD` 1. -/
def execUpdateBegin (u : Fin 64) (v : Word32) (sigs : List Verified) (flashOk : Bool) (s : State) : Out :=
  .next (s.gateWrite u A.SEC_UPD_CTRL fun s => s.updCtrl v (some sigs) (some flashOk))

/-- R497(2): UPDATE_DATA: a write of `CMD` 2. -/
def execUpdateData (u : Fin 64) (v : Word32) (s : State) : Out :=
  .next (s.gateWrite u A.SEC_UPD_CTRL fun s => s.updCtrl v none none)

/-- R497(3): UPDATE_FINISH: a write of `CMD` 3. -/
def execUpdateFinish (u : Fin 64) (v : Word32) (flashOk : Bool) (s : State) : Out :=
  .next (s.gateWrite u A.SEC_UPD_CTRL fun s => s.updCtrl v none (some flashOk))

/-- R497: UPDATE_CANCEL: a write of `CMD` 4. -/
def execUpdateCancel (u : Fin 64) (v : Word32) (s : State) : Out :=
  .next (s.gateWrite u A.SEC_UPD_CTRL fun s => s.updCtrl v none none)

/-! ### Fuses (R488, R494) -/

/-- R494: a write of `SEC_CTRL`; `SVN_COMMIT` 1 starts the burn. -/
def State.secCtrl (s : State) (v : Word32) : State :=
  let s := s.plainWrite A.SEC_CTRL v
  if v.getLsbD 0 ∧ s.stage = 5 then s.wf R.SEC_STAT_BURNING 1 else s

/-- R494: SVN_COMMIT: a write of `SEC_CTRL` with `SVN_COMMIT` 1. -/
def execSvnCommit (u : Fin 64) (v : Word32) (s : State) : Out := .next (s.gateWrite u A.SEC_CTRL fun s => s.secCtrl v)

/-- R494: FUSE_BURN_DONE: the burn in progress completes, or fails. -/
def execFuseBurnDone (ok : Bool) (s : State) : Out :=
  if !s.flag R.SEC_STAT_BURNING then .next s
  else
    let s := s.wf R.SEC_STAT_BURNING 0
    if ok then
      let h := s.sec.running
      .next { s with fuses := { s.fuses with svn := max s.fuses.svn (imgSvn h), revoked := s.fuses.revoked ||| imgRevoke h } }
    else .next (s.raiseSrc Page.securityBase 2)

/-! ### Memory-encryption keys (R168, R499) -/

/-- The 64 bytes written to `SEC_KEYj`. -/
def State.keyBytes (s : State) : List Byte := (List.range 16).flatMap fun j => leBytes 4 (sgetD s.sec.keyIn j 0).toNat

/-- R499: the cause for which `SEC_KCMD` is refused; 0 for none. -/
def State.keyCause (s : State) (load clear : Bool) : Nat :=
  let c := s.rf R.SEC_KSEL_SLOT
  let k := s.keyBytes
  firstCause
    [(!s.active c, 1), (!(load && k.take 32 == k.drop 32), 2),
      (!load || s.flag R.HIF_LINK_IDE || s.flag R.SEC_CTRL_KEY_NOIDE, 3), (!(clear && s.flag (R.CTX_MEM_ENC c)), 4),
      (!(load && s.flag R.SEC_STAT_DBG), 5)]

/-- R168: the key of a context with encryption on has changed: its memory reads as undefined. -/
def State.rekeyed (s : State) (c : Nat) : State :=
  if s.flag (R.CTX_MEM_ENC c) then (List.range 4).foldl (fun s f => s.undefGranules f (s.granulesOf c f)) s else s

/-- R499: the slot selected takes a key, or loses its key. -/
def State.setKey (s : State) (load : Bool) : State :=
  let c := s.rf R.SEC_KSEL_SLOT
  let keys := if load then sput s.sec.keys c s.keyBytes else sdel s.sec.keys c
  { s with sec := { s.sec with keys := keys } }.rekeyed c

/-- R499: a write of `SEC_KCMD`; one that sets neither bit commands nothing. -/
def State.keyCmd (s : State) (v : Word32) : State :=
  let load := v.getLsbD 0
  let clear := v.getLsbD 1
  if !load && !clear then s else
  let cause := if load && clear then 6 else s.keyCause load clear
  let s := if cause = 0 then s.setKey load else (s.wf R.SEC_KSTAT_CAUSE cause).wf R.SEC_KSTAT_REFUSED 1
  { s with sec := { s.sec with keyIn := [] } }

/-- R499: KEY_LOAD: a write of `SEC_KCMD` with `LOAD` 1. -/
def execKeyLoad (u : Fin 64) (v : Word32) (s : State) : Out :=
  .next (s.gateWrite u A.SEC_KCMD fun s => s.keyCmd v)

/-- R499: KEY_CLEAR: a write of `SEC_KCMD` with `CLEAR` 1 and `LOAD` 0. -/
def execKeyClear (u : Fin 64) (v : Word32) (s : State) : Out :=
  .next (s.gateWrite u A.SEC_KCMD fun s => s.keyCmd v)

/-! ### Debug tokens and the test access port (R501, R529) -/

/-- The identity key hash. -/
def State.idHash (s : State) : List Byte := sha3 s.sec.idkey

/-- R501: a new debug nonce. -/
def State.newNonce (s : State) : State :=
  let (b, s) := s.draw 32
  s.showBytes (A.SEC_DBG_NONCE 0) 8 b

/-- The debug nonce. -/
def State.nonce (s : State) : List Byte := (List.range 8).flatMap fun j => leBytes 4 (s.reg (A.SEC_DBG_NONCE j)).toNat

/-- R501: the cause for which token `t` is refused; 0 for none. `sig` says that its signature verifies. -/
def State.debugCause (s : State) (t : List Byte) (sig : Bool) : Nat :=
  let slot := leAt t 6 1
  firstCause
    [(!s.upOpen, 7), (leAt t 0 4 == 0x44424B45 && leAt t 4 2 == 1 && slot < 4 && leAt t 7 1 < 2, 1),
      (!s.fuses.revoked.testBit slot, 2), (sha3 ((t.drop 104).take 2592) == s.fuses.keyHash.getD slot [], 3),
      ((t.drop 8).take 64 == s.idHash && (t.drop 72).take 32 == s.nonce, 4), (sig, 5),
      ((List.range 64).all fun c => !s.flag (R.CTX_MEM_ENC c), 6)]

/-- R501: the token in the mailbox is checked (log 37) and accepted or refused; the nonce is spent. -/
def State.tryToken (s : State) (sig : Bool) : State :=
  let t := s.mailBytes 7323
  let c := s.debugCause t sig
  let s := s.wf R.SEC_DBG_STAT_CAUSE c
  let s :=
    if c ≠ 0 then s.raiseSrc Page.securityBase 1
    else { s with sec := { s.sec with keys := [] } }.wf R.SEC_STAT_DBG 1
  s.newNonce

/-- R487, R501: the signature of a token verifies under its `PUBKEY`. -/
def tokenVerifies (l : List Verified) (t : List Byte) : Bool :=
  verifies l ctxDebug ((t.drop 104).take 2592) (t.take 2696) ((t.drop 2696).take 4627)

/-- R501: a write of `SEC_DBG_CTRL`; `GO` 1 checks the token, and `sigs` lists the signatures that verify. -/
def State.dbgCtrl (s : State) (v : Word32) (sigs : Option (List Verified)) : State :=
  if v.getLsbD 0 then
    let (b, s) := s.verdict (sigs.map fun l => tokenVerifies l (s.mailBytes 7323))
    s.tryToken b
  else s

/-- R501: DEBUG_TOKEN: a write of `SEC_DBG_CTRL` with `GO` 1. -/
def execDebugToken (u : Fin 64) (v : Word32) (sigs : List Verified) (s : State) : Out :=
  .next (s.gateWrite u A.SEC_DBG_CTRL fun s => s.dbgCtrl v (some sigs))

/-- R529: IDCODE. -/
def idcode : BitVec 32 := 0xB2096A5B

/-- R529: what `n` bits shifted out of a data register are, before the bits shifted in: the code, one 0, or free values once
debug is unlocked (log 3). -/
def tapBits (r : TapReg) (i : Nat) : List Bool :=
  match r with
  | .idcode => (List.range 32).map fun j => idcode.getLsbD j
  | .bypass => [false]
  | .debug => (List.range 32).map fun j => (Config.freeWord i 0).getLsbD j

/-- R529: JTAG_ACCESS. Until a token is accepted every instruction but IDCODE selects BYPASS (log 38). -/
def execJtagAccess (op : TapOp) (s : State) : Out :=
  match op with
  | .trst low => .next { s with pins := { s.pins with trst := low, tapReg := .idcode, tdo := [] } }
  | .select r =>
    if s.pins.trst then .next s
    else
      let r := if r = .debug && !s.flag R.SEC_STAT_DBG then .bypass else r
      .next { s with pins := { s.pins with tapReg := r, tdo := [] } }
  | .shift tdi =>
    if s.pins.trst then .next s
    else
      let r := if s.pins.tapReg = .debug && !s.flag R.SEC_STAT_DBG then .bypass else s.pins.tapReg
      let (i, s) := if r = .debug then s.fresh else (0, s)
      .next { s with pins := { s.pins with tdo := (tapBits r i ++ tdi).take tdi.length } }

/-! ### Attestation (R495, R496) -/

/-- R496: bit c: encryption of context c is on. -/
def State.encMask (s : State) : Nat := ((List.range 64).map fun c => s.rf (R.CTX_MEM_ENC c) * 2 ^ c).sum

/-- R496: the body of a report. -/
def State.reportBody (s : State) (nonce : List Byte) : List Byte :=
  let h := s.sec.running
  let flags := s.rf R.SEC_STAT_DBG + 2 * bit (s.stage == 6) + 4 * s.rf R.HIF_LINK_IDE + 8 * s.rf R.CLK_STAT_FALLBACK +
    16 * s.rf R.FCOL_STAT_DEVFATAL + 32 * bit s.flash.expelled
  leBytes 4 0x41544B45 ++ leBytes 2 1 ++ leBytes 1 0xB0 ++ leBytes 1 flags ++ fitBytes 32 nonce ++ fitBytes 64 s.idHash ++
    (if h.isEmpty then leBytes 64 0 else fitBytes 64 (sha3 (imgSigned h))) ++ fitBytes 64 (Config.crypto 10 [] 64) ++
    leBytes 4 (imgSvn h) ++ leBytes 1 s.fuses.svn ++ leBytes 1 (imgSlot h + 16 * s.fuses.revoked) ++
    leBytes 1 s.flash.keys.length ++ leBytes 1 s.flash.need ++
    fitBytes 64 (Config.crypto 11 (leBytes 1 s.flash.need ++ s.flash.keys.flatten) 64) ++ leBytes 8 s.encMask ++
    leBytes 8 s.now ++ leBytes 64 0

/-- R496: the certificate chain as a response. -/
def State.chainBytes (s : State) : List Byte :=
  leBytes 4 s.flash.chain.length ++ s.flash.chain.flatMap fun d => leBytes 4 d.length ++ d

/-- R496: a request is one of the two that are defined. -/
def attestOk (req : List Byte) : Bool := req.length == 36 && (leAt req 0 1 == 1 || leAt req 0 1 == 2) && zeroAt req 1 3

/-- R496: the response to a request. -/
def State.attest (s : State) (req : List Byte) : List Byte × State :=
  if leAt req 0 1 = 2 then (s.chainBytes, s)
  else
    let b := s.reportBody (req.drop 4)
    let (sig, s) := s.signed ctxAttest b
    (b ++ fitBytes 4627 sig, s)

/-- The response of R496 and R500 to a request that fails. -/
def doeFail : List Byte := leBytes 4 0xFFFFFFFF

/-- R349: the response of the DOE mailbox. -/
def State.doeAnswer (s : State) (b : List Byte) : State := { s with sec := { s.sec with doe := b } }

/-- R349: the answer of DOE Discovery for an index: vendor ID, object type, next index; the mailbox carries Discovery itself, IDE
key management and attestation (log 88). Past the last the answer is open. -/
def State.discovery (s : State) (i : Nat) : List Byte × State :=
  match i with
  | 0 => ([1, 0, 0, 1], s)
  | 1 => (leBytes 3 (Config.doeType 1).toNat ++ [2], s)
  | 2 => (leBytes 3 (Config.doeType 2).toNat ++ [0], s)
  | _ => s.freeBytes 4

/-- R349, R496, R498: DOE_ATTEST, at stage 5 and in RECOVERY; DOE Discovery from stage 2 on, when configuration space answers
(R492). -/
def execDoeAttest (req : DoeRequest) (s : State) : Out :=
  match req with
  | .discovery i =>
    if s.stage < 2 then .next s
    else
      let (b, s) := s.discovery i.toNat
      .next (s.doeAnswer b)
  | .attest req =>
    if s.stage ≠ 5 ∧ s.stage ≠ 6 then .next s
    else if attestOk req then
      let (b, s) := s.attest req
      .next (s.doeAnswer b)
    else .next (s.doeAnswer doeFail)

/-! ### The IDE key exchange (R500) -/

/-- R500: an exchange fails. -/
def State.ideFail (s : State) : State := { s with sec := { s.sec with ideStage := 0, ideT := [] } }.doeAnswer doeFail

/-- R500: the shared secret of an encapsulation key and a ciphertext (log 4). -/
def kemSecret (ek ct : List Byte) : List Byte := Config.crypto 8 (ek ++ ct) 32

/-- R500: the first two messages: a nonce, answered by a fresh encapsulation key and a signature over T. -/
def State.ideStart (s : State) (req : List Byte) : State :=
  let (i, s) := s.fresh
  let ek := fitBytes 1568 (Config.crypto 7 (leBytes 8 i) 1568)
  let t := req ++ leBytes 1 2 ++ ek
  let (sig, s) := s.signed ctxIde t
  let msg := leBytes 1 2 ++ ek ++ fitBytes 4627 sig
  { s with sec := { s.sec with ideStage := 2, ideT := req ++ msg } }.doeAnswer msg

/-- R500: message 3: both ends derive 64 bytes. -/
def State.ideDerive (s : State) (req : List Byte) : State :=
  let t := s.sec.ideT ++ req
  let ek := (s.sec.ideT.drop 34).take 1568
  let k := fitBytes 64 (kmac (kemSecret ek (req.drop 1)) (sha3 t) 64 (ascii "EKX-IDE1"))
  { s with sec := { s.sec with ideStage := 3, ideT := t, ideNew := k } }.doeAnswer []

/-- R500: message 4: the keys take effect, the first 32 bytes for transmission and the last 32 for reception. -/
def State.ideUse (s : State) : State :=
  let s := { s with sec := { s.sec with ideStage := 4, ideTx := s.sec.ideNew.take 32, ideRx := s.sec.ideNew.drop 32 } }
  (s.wf R.HIF_LINK_IDE 1).doeAnswer (leBytes 1 4)

/-- R500: IDE_KEY_MESSAGE: a message of the host, over a link that is up. -/
def execIdeKeyMessage (req : List Byte) (s : State) : Out :=
  if s.stage ≠ 5 ∨ s.rf R.HIF_LINK_SPEED = 0 then .next s
  else if leAt req 0 1 = 1 ∧ req.length = 33 then .next (s.ideStart req)
  else if leAt req 0 1 = 3 ∧ req.length = 1569 ∧ s.sec.ideStage = 2 then .next (s.ideDerive req)
  else if leAt req 0 1 = 4 ∧ req.length = 1 ∧ s.sec.ideStage = 3 then .next s.ideUse
  else .next s.ideFail

end Sys2Proof.Machine
end

