-- ==== Sys2Proof/Machine/Boot.lean ====
section
/-! DEFINITION. Device reset, power-on and power loss (R440, R525, R533, R534), the boot sequence (R473, R478, R492, R495, R498,
R518), and the device-fatal failures of rails and of the control processor (R394, R534). -/

namespace Sys2Proof.Machine

/-! ### Device reset (R344, R440, R525, R533, R534) -/

/-- R440, R525: the device is held in reset: what remains is the fuses, the flash, the pins and what stands outside the device
(log 39). -/
def State.deviceReset (s : State) : State :=
  { State.reset with
    pending := s.pending, freeCtr := s.freeCtr, hostMem := s.hostMem, msgs := s.msgs, flash := s.flash, fuses := s.fuses,
    pins := { s.pins with held := true }
    pwr := { State.reset.pwr with
      pin := s.pwr.pin, pinFor := s.pwr.pinFor, braking := s.pwr.pin && s.pwr.braking
      pos := if s.pwr.pin then s.pwr.pos else 0, analog := s.pwr.analog }
    mg := { State.reset.mg with sent := s.mg.sent, ibi := s.mg.ibi } }

/-- R525: DEVICE_RESET: PERST_N is low, the physical function is reset, or PWR_GOOD is lost. -/
def execDeviceReset (why : ResetCause) (s : State) : Out :=
  let s := s.deviceReset
  match why with
  | .powerGood => .next { s with pins := { s.pins with good := false } }
  | _ => .next s

/-- R526, R528, R531, R534: POWER_LOSS: a rail of the steading or the standby rail leaves regulation, or the converter stops.
Without the standby rail the brake pin is not sampled and the analog sensors are off. -/
def execPowerLoss (why : LossCause) (s : State) : Out :=
  let s := s.deviceReset
  let x := { s.pins with good := false, running := s.pins.running && why != .converter }
  if why = .steadingRail then .next { s with pins := x }
  else .next { s with pins := { x with standby := false }, pwr := State.reset.pwr }

/-- R531, R533: CONVERTER_START: every rail comes into regulation, and PWR_GOOD is asserted; the brake pin is sampled again,
and PWR_BRAKE_ASSERT says when it is low (log 65). -/
def execConverterStart (s : State) : Out :=
  .next { s with pins := { s.pins with good := true, running := true, standby := true } }

/-! ### Device-fatal failures (R394, R397, R470, R534) -/

/-- R534: REGULATOR_FAILURE: a field or HBM rail fails while the input is in range. -/
def execRegulatorFailure (s : State) : Out :=
  if s.pins.held then .next s else .next (s.raiseFatal Page.powerBase 6)

/-- R394: CONTROL_PROCESSOR_WATCHDOG. -/
def execControlProcessorWatchdog (s : State) : Out :=
  if s.pins.held then .next s else .next (s.raiseFatal Page.steadingBase 2)

/-! ### Boot (R473, R478, R492, R495, R498, R518) -/

/-- R495: the device derives its identity key from the fuses. -/
def State.deriveIdentity (s : State) : State :=
  let seed := kmac s.fuses.secret [] 32 (ascii "EKX-ID")
  let s := { s with sec := { s.sec with idkey := fitBytes 2592 (Config.crypto 12 seed 2592) } }
  s.showBytes (A.SEC_IDHASH 0) 16 s.idHash

/-- R492: stage 0 ends once the always-on domain runs from REFCLK. -/
def State.leaveStart (s : State) : State :=
  if s.pins.held || s.stage != 0 || !s.flag R.CLK_STAT_AO_REF then s else s.wf R.SEC_BOOT_STAGE 1

/-- R492: stage 1: the fuses are checked, the identity derived and a nonce drawn; then the host-port PLL starts, at stage 2 or
HALTED (log 40). -/
def State.checkFuses (s : State) : State :=
  let s := (if s.fuses.fails then s else s.deriveIdentity.newNonce).startPll 0
  s.wf R.SEC_BOOT_STAGE (if s.fuses.fails then 7 else 2)

/-- R492, R525, R527: BOOT_START: PERST_N is high and PWR_GOOD asserted; SLOT_ID reads `slot`. -/
def execBootStart (slot : BitVec 5) (s : State) : Out :=
  if !s.pins.held || !s.pins.good then .next s
  else
    let s := { s with pins := { s.pins with held := false } }
    .next (s.wf R.STD_STRAP_SLOT_ID slot.toNat).leaveStart

/-- R473, R478, R479, R483, R492: MONITOR_WINDOW: a window of the monitor ends with count `n`; `ao` and `osc` are the counts of
the meters of the always-on clock and the oscillator. The work of boot stage 1 is done by the end of the window after the one
that ended stage 0 (log 40). -/
def execMonitorWindow (n : BitVec 16) (ao osc : BitVec 15) (s : State) : Out :=
  if s.pins.held then .next s
  else
    let s := if s.stage = 1 then s.checkFuses else s
    let ok := 440 ≤ n.toNat && n.toNat ≤ 840
    let s := (s.wf R.CLK_STAT_REF_OK (bit ok)).wf R.CLK_MON_COUNT (min 2047 n.toNat)
    let s := if ok then s else s.bump R.CLK_MON_BAD_COUNT 1
    let c := s.clk
    let s :=
      { s with
        clk :=
          { c with monGood := if ok then min 2 (c.monGood + 1) else 0, monBad := if ok then 0 else min 2 (c.monBad + 1) } }
    if s.flag R.CLK_STAT_FALLBACK then .next s
    else
      let s := (s.showMeter 0 1 ao.toNat true).showMeter 1 1 osc.toNat true
      if s.flag R.CLK_STAT_AO_REF then if s.clk.monBad ≥ 2 then .next s.fallback else .next s
      else if s.clk.monGood ≥ 2 then .next ((s.wf R.CLK_STAT_AO_REF 1).startPll 1).leaveStart else .next s

/-- R492: registers that stage 4 does not set to their reset values, since they show what stands and no reset value could:
clocks, PLLs and meters, the link, the strap, endpoint IDs, the collector's state, the forecast minute, the trips since device
reset (R540), the identity hash, the debug nonce and an unlock that lasts until the next device reset (R501) (log 40). -/
def keptAtInit (a : Nat) : Bool :=
  (Page.clockBase + 0x100 ≤ a && a < Page.clockBase + 0x1000 && a != A.CLK_MON_BAD) || a == A.HIF_LINK || a == A.STD_STRAP ||
    a == A.STD_TTRIP_CNT || a == A.STD_MG_EID || a == A.FCOL_STAT || a == A.PWR_FC_MIN || a == A.SEC_STAT ||
    (A.SEC_DBG_NONCE 0 ≤ a && a < A.SEC_DBG_NONCE 8) || (A.SEC_IDHASH 0 ≤ a && a < A.SEC_IDHASH 16)

/-- R492, R518: stage 4: the image runs, and `BOOTS` counts. -/
def State.initFirmware (s : State) (h : List Byte) : State :=
  let s :=
    { s with
      regs := s.regs.filter fun e => keptAtInit e.1
      sec := { s.sec with running := h, keyIn := [] }
      flash := s.flash.putHdr { s.flash.hdr with boots := (s.flash.boots + 1) % 2 ^ 32 } }
  let s := ((s.wf R.SEC_SVN_RUN (imgSvn h)).wf R.SEC_SVN_KEYSLOT (imgSlot h)).wf R.SEC_FWVER_LO_VER (leAt h 24 4)
  (s.wf R.SEC_FWVER_HI_VER (leAt h 28 4)).wf R.SEC_BOOT_STAGE 4

/-- R491: the cause of the boot check; a flash with no header has no marker. -/
def State.bootCause (s : State) (sig flashOk : Bool) : Nat :=
  match s.flash.header with
  | none => 1
  | some h => firstCause ([((h.drop 8184).take 8 == imgMarker, 1)] ++ s.headerChecks h sig ++ s.bodyChecks h flashOk)

/-- R491, R492, R498: BOOT_VERIFY: the work of stage 3 is done; `sigs` lists the signatures that verify, `flashOk` says that the
flash returned every byte. Without a host link stage 2 ends with it (log 40). -/
def execBootVerify (sigs : List Verified) (flashOk : Bool) (s : State) : Out :=
  if s.stage ≠ 2 ∧ s.stage ≠ 3 then .next s
  else
    let c := s.bootCause (imgVerifies sigs (s.flash.header.getD [])) flashOk
    let s := s.wf R.SEC_BOOT_CAUSE c
    if c = 0 then .next (s.initFirmware (s.flash.header.getD [])) else .next (s.wf R.SEC_BOOT_STAGE 6)

/-- R518, R528, R540: BOOT_READY: stage 5, and one in-band interrupt with data byte 0x01; a trip of R468 given before asserts
THERM_TRIP_N now. -/
def execBootReady (s : State) : Out :=
  if s.stage ≠ 4 then .next s
  else
    let s := (s.wf R.SEC_BOOT_STAGE 5).noteTrip s
    .next { s with mg := { s.mg with ibi := s.mg.ibi ++ [1] } }

end Sys2Proof.Machine
end

