-- ==== Sys2Proof/Machine/HostIf.lean ====
section
/-! DEFINITION. The host link and configuration space: training (R342), SR-IOV and function resets (R344), BAR2 sizes (R346), link
IDE failures (R348), MSI-X masks (R351). -/

namespace Sys2Proof.Machine

/-- R342: the lanes of a width. -/
def lanes : LinkWidth → Nat
  | .x1 => 1 | .x4 => 4 | .x8 => 8 | .x16 => 16

/-- R342, R371, R492: HOST_LINK_TRAIN: from stage 2 on, with its PLL LOCKED, the link comes up at speed code `speed` + 1; FLIT
mode is in use at 64 GT/s, and below that where the partner supports it (`flit`). Stage 2 ends with it. -/
def execHostLinkTrain (speed : Fin 6) (w : LinkWidth) (flit : Bool) (s : State) : Out :=
  if s.stage < 2 ∨ s.pll 0 ≠ 2 then .next s
  else
    let s := if s.stage = 2 then s.wf R.SEC_BOOT_STAGE 3 else s
    let s := (s.setReg A.HIF_LINK 0).wf R.HIF_LINK_SPEED (speed.val + 1)
    .next ((s.wf R.HIF_LINK_WIDTH (lanes w)).wf R.HIF_LINK_FLIT (bit (flit || speed.val == 5)))

/-- R348, R350: IDE_INTEGRITY_FAILURE: the link-security source, and AER reports it until the host clears it (log 88). -/
def execIdeIntegrityFailure (s : State) : Out :=
  if s.flag R.HIF_LINK_IDE then .next { s.raiseSrc Page.hostifBase 1 with sec := { s.sec with aer := true } } else .next s

/-! ### MSI-X (R351) -/

/-- R351: the pending message of a vector is sent where the host's masks let it through. -/
def State.releaseVec (s : State) (k : Nat) : State :=
  if (sget? s.msixPend k).isSome && s.vecOpen (k / 2048) (k % 2048) then
    { s with msgs := s.msgs ++ [(k / 2048, k % 2048)], msixPend := sdel s.msixPend k }
  else s

/-- R351: the pending messages of a function. -/
def State.releaseFunc (s : State) (u : Nat) : State :=
  ((s.msixPend.map Prod.fst).filter fun k => k / 2048 == u).foldl State.releaseVec s

/-- R351: a vector of a function's table. -/
def State.vecExists (s : State) (u vec : Nat) : Bool := s.funcEnabled u && vec < msixSize u

/-- R351: MSIX_UNMASK: the host clears the mask bit of a vector. -/
def execMsixUnmask (u : Fin 64) (vec : Fin 2048) (s : State) : Out :=
  if s.stage < 2 || !s.vecExists u vec then .next s
  else .next ({ s with msixOpen := sput s.msixOpen (vecKey u vec) () }.releaseVec (vecKey u vec))

/-! ### Functions (R344, R346) -/

/-- R344: a queue is disabled without completions. -/
def State.dropQueue (s : State) (q : Nat) : State :=
  (((s.detachQueue q).wf (R.QM_QCFG_EN q) 0).wf (R.QM_QSTAT_STATE q) qDisabled).emptyQueue q

/-- The MSI-X state of a function returns to that after reset (log 9). -/
def State.resetMsix (s : State) (u : Nat) : State :=
  { s with
    msixOn := sdel s.msixOn u, funcMask := sdel s.funcMask u
    msixOpen := sclear s.msixOpen (u * 2048) ((u + 1) * 2048)
    msixPend := sclear s.msixPend (u * 2048) ((u + 1) * 2048) }

/-- R344: a Function Level Reset of virtual function `u`. -/
def State.resetFunction (s : State) (u : Nat) : State :=
  let s := (s.liveQueues.filter fun q => s.qFunc q == u).foldl State.dropQueue s
  let s := ((List.range 64).filter fun c => s.resident c && s.client c == u).foldl State.resetContext s
  s.resetMsix u

/-- R344: FUNCTION_LEVEL_RESET of a virtual function that is enabled. -/
def execFunctionLevelReset (u : Fin 64) (s : State) : Out :=
  if u.val = 0 || !s.funcEnabled u || s.stage < 2 then .next s else .next (s.resetFunction u)

/-- R344: the number of virtual functions enabled; those disabled are reset (log 41). -/
def State.setVfs (s : State) (n : Nat) : State :=
  let gone := (List.range (s.vfs - n)).map fun i => n + 1 + i
  { gone.foldl State.resetFunction s with vfs := n }

/-- R344, R346, R350, R351: CONFIGURATION_WRITE; configuration space answers from stage 2 on (R492). A size that BAR2 does not have
changes nothing. -/
def execConfigurationWrite (w : ConfigWrite) (s : State) : Out :=
  if s.stage < 2 then .next s
  else match w with
    | .numVfs n => .next (s.setVfs n)
    | .bar2Pf k => if 36 ≤ k.val then .next { s with bar2Pf := k } else .next s
    | .bar2Vf k => if 30 ≤ k.val ∧ k.val ≤ 36 then .next { s with bar2Vf := k } else .next s
    | .msixEnable u on =>
      .next ({ s with msixOn := if on then sput s.msixOn u () else sdel s.msixOn u }.releaseFunc u)
    | .funcMask u on =>
      .next ({ s with funcMask := if on then sput s.funcMask u () else sdel s.funcMask u }.releaseFunc u)
    | .vecMask u vec => .next { s with msixOpen := sdel s.msixOpen (vecKey u vec) }
    | .aerClear => .next { s with sec := { s.sec with aer := false } }

end Sys2Proof.Machine
end

