-- ==== Sys2Proof/Machine/Mgmt.lean ====
section
/-! DEFINITION. Out-of-band management: MCTP control (R508, R509), PLDM monitoring (R508, R511) and firmware update (R512), vendor
commands (R510, R513 to R516), subscriptions and events (R517). -/

namespace Sys2Proof.Machine

/-! ### Answers (R509, R510, R513) -/

/-- R509: the longest message. -/
def longest : Nat := 131072

/-- The response that a binding delivers last. -/
def State.respond (s : State) (b : List Byte) : State := { s with mg := { s.mg with resp := b } }

/-- R510, R519: a message that the endpoints receive from stage 2 on. -/
def State.received (s : State) (k : State → State) : State := if s.stage < 2 then s else k (s.bump R.STD_MG_RX_CNT_COUNT 1)

/-- R513: the completion codes. -/
def ccOk : Nat := 0
def ccInvalid : Nat := 1
def ccRefused : Nat := 2
def ccNotReady : Nat := 3
def ccAuth : Nat := 4
def ccBusy : Nat := 5

/-- What a vendor command answers with: code, payload, state. -/
abbrev Answer := Nat × List Byte × State

/-- R509: a message of `n` bytes that an endpoint receives; one that is too long is discarded and counted. -/
def State.messageOf (s : State) (n : Nat) (k : State → State) : State :=
  s.received fun s => if n > longest then s.bump R.STD_MG_ERR_CNT_COUNT 1 else k s

/-- R514: the commands. -/
def vendorCmds : List Nat := (List.range 11).map (· + 1)

/-- R509, R510, R513: the vendor request of command `cmd` with header `head` (byte 0 `CMD`, byte 1 `RSP`, byte 2 `CC`, byte
3) and payload `p`, carried out by `k` at stage 5 and the stages `also`. A `CMD` that names no command gives INVALID; one that
names another command of R514 is that row's message, and not this one's (log 45). -/
def State.vendor (s : State) (cmd : Nat) (head : BitVec 32) (p : List Byte) (also : List Nat) (k : State → Answer) : State :=
  let named := wbits head 0 8
  if named ≠ cmd ∧ named ∈ vendorCmds then s
  else
    s.messageOf (9 + p.length) fun s =>
      let (cc, out, s) :=
        if s.stage ≠ 5 ∧ s.stage ∉ (if named = cmd then also else []) then (ccNotReady, [], s)
        else if head ≠ BitVec.ofNat 32 cmd then (ccInvalid, [], s)
        else k s
      (if cc = ccInvalid then s.bump R.STD_MG_ERR_CNT_COUNT 1 else s).respond (vendorMsg named 1 cc out)

/-- R513: INVALID, with no effect. -/
def invalidAnswer (s : State) : Answer := (ccInvalid, [], s)

/-- R513: a payload whose length or reserved values are wrong gives INVALID. -/
def answerIf (ok : Bool) (s : State) (k : Answer) : Answer := if ok then k else invalidAnswer s

/-! ### Vendor commands (R514 to R516) -/

/-- R514: GET_STATUS. -/
def execGetStatus (head : BitVec 32) (p : List Byte) (s : State) : Out :=
  .next (s.vendor 1 head p [2, 3, 4, 6, 7] fun s => answerIf p.isEmpty s (ccOk, s.statusPayload, s))

/-- R455, R515: SET_ALLOT. -/
def execSetAllot (head : BitVec 32) (p : List Byte) (s : State) : Out :=
  .next (s.vendor 2 head p [] fun s =>
    let a := leAt p 0 2
    answerIf (p.length == 2 && 60 ≤ a && a ≤ 320) s (ccOk, [], s.setAllot true a))

/-- R464, R515: GET_FORECAST. -/
def execGetForecast (head : BitVec 32) (p : List Byte) (s : State) : Out :=
  .next (s.vendor 3 head p [] fun s => answerIf p.isEmpty s (ccOk, s.forecastPayload, s))

/-- R462, R515: SET_PLAN_CAP. -/
def execSetPlanCap (head : BitVec 32) (p : List Byte) (s : State) : Out :=
  .next (s.vendor 4 head p [] fun s =>
    if p.length ≠ 6 then invalidAnswer s
    else match s.setCap true (leAt p 0 4) (leAt p 4 2) with
      | (some true, t) => (ccOk, [], t)
      | (some false, t) => (ccRefused, [], t)
      | (none, _) => invalidAnswer s)

/-- R463, R515: SET_ALIGN. -/
def execSetAlign (head : BitVec 32) (p : List Byte) (s : State) : Out :=
  .next (s.vendor 5 head p [] fun s =>
    answerIf (p.length == 2 && leAt p 0 2 < 60000) s (ccOk, [], s.setAlign (leAt p 0 2)))

/-- R516: the first entry delivered, their number, and whether entries are lost, for a first entry `seq` wanted (log 42). -/
def State.faultWindow (s : State) (seq : Nat) : Nat × Nat × Bool :=
  let wr := s.rf R.FCOL_LOG_WR_SEQ
  let held := s.fcolLog.length
  let d := (wr + 65536 - seq) % 65536
  if d ≤ held then (seq, min 8 d, false)
  else if held = 64 ∧ (d ≤ wr ∨ s.mg.logWrapped) then (wr + 65536 - 64, 8, true)
  else (seq, 0, false)

/-- R516: READ_FAULTLOG. -/
def execReadFaultlog (head : BitVec 32) (p : List Byte) (s : State) : Out :=
  .next (s.vendor 6 head p [] fun s =>
    let (a, n, lost) := s.faultWindow (leAt p 0 2)
    let entries := (List.range n).flatMap fun i => fitBytes 32 (sgetD s.fcolLog ((a + i) % 64) [])
    answerIf (p.length == 2) s
      (ccOk, leBytes 2 (s.rf R.FCOL_LOG_WR_SEQ) ++ leBytes 1 n ++ leBytes 1 (bit lost) ++ entries, s))

/-- R516: READ_ALMANAC and CLASSIFY answer BUSY while another read is in progress, which a read or query of the last 50 µs may
be (R429); `busy` says that it is (log 55). -/
def State.unlessBusy (s : State) (busy : Bool) (k : State → Answer) : Answer :=
  if busy && s.readPending then (ccBusy, [], s) else k s.startRead

/-- R422, R516: READ_ALMANAC; `got` is what the flash delivers where that is not what was written. -/
def execReadAlmanac (head : BitVec 32) (p : List Byte) (got : Option (List Byte)) (busy : Bool) (s : State) : Out :=
  .next (s.vendor 7 head p [] fun s =>
    if p.length ≠ 4 ∨ 8 ≤ leAt p 0 1 ∨ leAt p 1 1 ≠ 0 then invalidAnswer s
    else s.unlessBusy busy fun s =>
      let (b, s) := s.readAlmanac (leAt p 0 1) (leAt p 2 2) got
      (ccOk, b, s))

/-- R421, R516: CLASSIFY. -/
def execClassify (head : BitVec 32) (p : List Byte) (busy : Bool) (s : State) : Out :=
  .next (s.vendor 8 head p [] fun s =>
    answerIf (p.length == 4 && leAt p 0 2 < 32768 && leAt p 2 1 < 32 && leAt p 3 1 == 0) s
      (s.unlessBusy busy fun s => (ccOk, leBytes 4 (s.classWord (leAt p 0 2) (leAt p 2 1)).toNat, s)))

/-- R496, R510, R514: ATTEST. -/
def execAttest (head : BitVec 32) (p : List Byte) (s : State) : Out :=
  .next (s.vendor 9 head p [6, 7] fun s =>
    if p.length ≠ 36 ∨ !zeroAt p 1 3 then invalidAnswer s
    else if !attestOk p then (ccOk, doeFail, s)
    else
      let (b, s) := s.attest p
      (ccOk, b, s))

/-- R426, R505, R516: SIGNED_OBJECT; `sigs` lists the signatures that verify, `flashOk` that the flash write of a new
table succeeds. -/
def execSignedObject (head : BitVec 32) (p : List Byte) (sigs : List Verified) (flashOk : Bool) (m : Meas) (s : State) : Out :=
  .next (s.vendor 10 head p [] fun s =>
    match parseSigned p with
    | none => invalidAnswer s
    | some x =>
      match s.applySigned x sigs false flashOk m with
      | (.ok, t) => (ccOk, [], t)
      | (.auth, t) => (ccAuth, [], t)
      | (.state, t) | (.flash, t) => (ccRefused, [], t))

/-- R517: a binding's subscription. -/
def State.subscribe (s : State) (b eid kinds : Nat) : State :=
  if b = 0 then (s.wf R.STD_MG_SUB_I3C eid).wf R.STD_MG_SUB_KINDS_I3C kinds
  else (s.wf R.STD_MG_SUB_PCIE eid).wf R.STD_MG_SUB_KINDS_PCIE kinds

/-- R514, R517: SUBSCRIBE on binding `b`. -/
def execSubscribe (b : Fin 2) (head : BitVec 32) (p : List Byte) (s : State) : Out :=
  .next (s.vendor 11 head p [] fun s =>
    let eid := leAt p 0 1
    answerIf (p.length == 2 && leAt p 1 1 < 8) s (ccOk, [], s.subscribe b eid (if eid = 0 then 0 else leAt p 1 1)))

/-- R517: EVENT_ANSWER: a subscriber answers an event on binding `b`. -/
def execEventAnswer (b : Fin 2) (s : State) : Out :=
  .next (s.received fun s =>
    { s with mg := { s.mg with open_ := s.mg.open_.set b (s.mg.open_.getD b 0 - 1) } })

/-! ### MCTP control and the I3C endpoint (R508, R509) -/

/-- R508, R509: the EID of a binding. -/
def State.eid (s : State) (b : Nat) : Nat := if b = 0 then s.rf R.STD_MG_EID_I3C else s.rf R.STD_MG_EID_PCIE

/-- R508, R509: MCTP_CONTROL: the response of a binding's endpoint, a completion code and what was asked (log 43). -/
def execMctpControl (b : Fin 2) (r : MctpReq) (s : State) : Out :=
  .next (s.received fun s =>
    match r with
    | .getEid => s.respond (leBytes 1 0 ++ leBytes 1 (s.eid b))
    | .setEid e =>
      if e = 0 ∨ e = 0xFF then (s.bump R.STD_MG_ERR_CNT_COUNT 1).respond (leBytes 1 2)
      else
        (s.wf (if b.val = 0 then R.STD_MG_EID_I3C else R.STD_MG_EID_PCIE) e.toNat).respond
          (leBytes 1 0 ++ leBytes 1 e.toNat)
    | .getVersion => s.respond (leBytes 1 0 ++ leBytes 1 1 ++ leBytes 4 0x00F0F3F1)
    | .getTypes => s.respond (leBytes 1 0 ++ leBytes 1 3 ++ leBytes 1 0 ++ leBytes 1 1 ++ leBytes 1 0x7F)
    | .getVendor sel =>
      if sel ≠ 0 then (s.bump R.STD_MG_ERR_CNT_COUNT 1).respond (leBytes 1 2)
      else
        let (v, s) := s.freeBytes 2
        s.respond (leBytes 1 0 ++ leBytes 1 0xFF ++ leBytes 1 1 ++ ianaBytes ++ v))

/-- R509, R527: DYNAMIC_ADDRESS_ASSIGN: SETDASA names the static address 0x30 + SLOT_ID. -/
def execDynamicAddressAssign (how : I3cAssign) (a : BitVec 7) (s : State) : Out :=
  if s.stage < 2 then .next s
  else match how with
    | .setdasa st =>
      if st.toNat = 0x30 + s.rf R.STD_STRAP_SLOT_ID then .next (s.wf R.STD_MG_EID_DADDR a.toNat) else .next s
    | .entdaa => .next (s.wf R.STD_MG_EID_DADDR a.toNat)

/-! ### PLDM monitoring (R508, R510, R511) -/

/-- A register of 8 bits that holds a two's complement value, as 32 bits (R471, R511). -/
def signed8 (v : Nat) : Nat := if v < 128 then v else 2 ^ 32 - 256 + v

/-- R511: the value that a sensor's register shows. -/
def State.sensor (s : State) (id : Nat) : Option Nat :=
  if id = 1 then some (s.rf R.PWR_IN_V_MV)
  else if id = 2 then some (s.rf R.PWR_IN_I_CA)
  else if id = 3 then some (s.rf R.PWR_IN_P_W)
  else if id = 4 then some (s.rf R.PWR_AVG20_W)
  else if id = 5 then some (s.rf R.PWR_AVG1S_W)
  else if 6 ≤ id ∧ id ≤ 10 then some (s.rf (R.PWR_RAIL_W (id - 6)))
  else if id = 11 then some (10 * s.aStar)
  else if id = 12 then some (10 * s.limitE)
  else if 16 ≤ id ∧ id ≤ 19 then some (signed8 (s.rf (R.PWR_FLD_TJ (id - 16))))
  else if 32 ≤ id ∧ id ≤ 51 then some (s.rf (R.HBM_STAT_TEMP ((id - 32) / 5) ((id - 32) % 5)))
  else if id = 60 then some (s.rf R.PWR_COOL_TIN)
  else if id = 61 then some (s.rf R.PWR_COOL_TOUT)
  else none

/-- R511: the sensors of the numeric PDRs, in the order of their IDs. -/
def sensorIds : List Nat :=
  (List.range 12).map (· + 1) ++ (List.range 4).map (· + 16) ++ (List.range 20).map (· + 32) ++ [60, 61]

/-- R468, R511: the thresholds of a temperature PDR: warning, critical, fatal. -/
def thresholds (id : Nat) : List Nat :=
  if 16 ≤ id ∧ id ≤ 19 then [102, 105, 110] else if 32 ≤ id ∧ id ≤ 51 then [92, 95, 100] else []

/-- R511: the unit of a sensor as DSP0248 codes it: base unit (2 °C, 5 V, 6 A, 7 W) and the power of ten that multiplies it
(log 43). -/
def sensorUnit (id : Nat) : List Byte :=
  if id = 1 then leBytes 1 5 ++ leBytes 1 0xFD
  else if id = 2 then leBytes 1 6 ++ leBytes 1 0xFE
  else if id ≤ 12 then leBytes 1 7 ++ leBytes 1 0
  else leBytes 1 2 ++ leBytes 1 0

/-- R511: the record of PDR `i`: 38 numeric sensors with their unit and thresholds, then three state sensors (log 43). -/
def pdr (i : Nat) : Option (List Byte) :=
  match sensorIds[i]? with
  | some id => some (leBytes 2 id ++ sensorUnit id ++ (thresholds id).flatMap (leBytes 1))
  | none => if i < sensorIds.length + 3 then some (leBytes 2 (0x100 + i - sensorIds.length)) else none

/-- R508: the commands of a PLDM type of the device, by their codes in DSP0240, DSP0248 and DSP0267 (log 43). -/
def pldmCommands : Nat → Option (List Nat)
  | 0 => some [1, 2, 3, 4, 5]
  | 2 => some [0x11, 0x21, 0x50, 0x51]
  | 5 => some [0x10, 0x14, 0x1A, 0x1D]
  | _ => none

/-- The 32 bytes in which bit c of the whole is 1 for each code c of a list. -/
def commandMask (l : List Nat) : List Byte :=
  (List.range 32).map fun i => BitVec.ofNat 8 ((l.filter fun c => c / 8 == i).map fun c => 2 ^ (c % 8)).sum

/-- R508: INVALID_PLDM_TYPE of DSP0240 (log 43). -/
def pldmBadType : List Byte := leBytes 1 0x83

/-- R511: a state sensor: collector state, device-fatal, clock fallback. -/
def State.stateSensor (s : State) (i : Nat) : Nat :=
  if i = 0 then s.rf R.FCOL_STAT_STATE else if i = 1 then s.rf R.FCOL_STAT_DEVFATAL else s.rf R.FCOL_STAT_FALLBACK

/-- R508, R511: what a PLDM monitoring command answers: completion code and data; `ver` is the version of a type, which the
manual does not state (log 43). -/
def State.pldm (s : State) (ver : List Byte) : PldmReq → List Byte
  | .getTid => leBytes 1 0 ++ leBytes 1 s.mg.tid
  | .setTid _ => leBytes 1 0
  | .getVersion t => if (pldmCommands t.toNat).isSome then leBytes 1 0 ++ leBytes 4 0 ++ leBytes 1 5 ++ ver else pldmBadType
  | .getTypes => leBytes 1 0 ++ leBytes 1 0x25 ++ leBytes 7 0
  | .getCommands t =>
    match pldmCommands t.toNat with
    | some l => leBytes 1 0 ++ commandMask l
    | none => pldmBadType
  | .getPdrInfo => leBytes 1 0 ++ leBytes 4 (sensorIds.length + 3)
  | .getPdr i =>
    match pdr i.toNat with
    | some r => leBytes 1 0 ++ r
    | none => leBytes 1 2
  | .getSensor id =>
    match s.sensor id.toNat with
    | some v => leBytes 1 0 ++ leBytes 4 v
    | none => leBytes 1 2
  | .getState i => leBytes 1 0 ++ leBytes 1 (s.stateSensor i)

/-- R510: ERROR_NOT_READY. -/
def pldmNotReady : List Byte := leBytes 1 4

/-- R508, R510, R511: PLDM_MONITOR. -/
def execPldmMonitor (r : PldmReq) (s : State) : Out :=
  .next (s.received fun s =>
    if s.stage ≠ 5 then s.respond pldmNotReady
    else
      let (v, s) := s.freeBytes 8
      let t := s.respond (s.pldm v r)
      match r with
      | .setTid tid => { t with mg := { t.mg with tid := tid.toNat } }
      | _ => t)

/-! ### PLDM firmware update (R512) -/

/-- A PLDM firmware-update message of the device to its agent. -/
def State.tellAgent (s : State) (cmd : Nat) (data : List Byte) : State :=
  { s with mg := { s.mg with sent := s.mg.sent ++ [(s.mg.agent, s.mg.agentEid, leBytes 1 5 ++ leBytes 1 cmd ++ data)] } }

/-- R512: the device requests the next piece: `n` bytes at offset `off` of the image. -/
def State.askPiece (s : State) (off n : Nat) : State :=
  let s := s.tellAgent 0x15 (leBytes 4 off ++ leBytes 4 n)
  { s with mg := { s.mg with asked := true } }

/-- R512: the next request of the session, for the header or for the body. -/
def State.askNext (s : State) : State :=
  match s.mg.fw with
  | .header => s.askPiece s.mg.buf.length (min s.mg.piece (headerSize - s.mg.buf.length))
  | .body =>
    let got := s.rf R.SEC_UPD_RCVD_BYTES
    s.askPiece (headerSize + got) (min s.mg.piece (imgBody s.sec.upHeader - got))
  | _ => s

/-- R512: TransferComplete, VerifyComplete and ApplyComplete report the outcome. -/
def State.reportEnd (s : State) : State :=
  let code := if s.upState = upDone ∧ s.upOwner = 1 then 0 else 0xB0 + s.rf R.SEC_UPD_STAT_ERR
  let s := { s with mg := { s.mg with fw := .done, asked := false } }
  ((s.tellAgent 0x16 (leBytes 1 code)).tellAgent 0x17 (leBytes 1 code)).tellAgent 0x18 (leBytes 1 code)

/-- R512: a PLDM firmware-update request from stage 5 on. -/
def State.fwRequest (s : State) (k : State → List Byte × State) : State :=
  s.received fun s =>
    if s.stage ≠ 5 then s.respond pldmNotReady
    else
      let (b, s) := k s
      s.respond b

/-- R512: REQUEST_UPDATE by the agent with EID `src` on binding `b`, with maximum transfer size `size`. -/
def execRequestUpdate (b : Fin 2) (src : BitVec 8) (size : BitVec 32) (s : State) : Out :=
  .next (s.fwRequest fun s =>
    if s.mg.fw != .idle || s.upOpen then (leBytes 1 0x81, s)
    else
      (leBytes 1 0,
        { s with mg := { s.mg with fw := .learn, agent := b, agentEid := src.toNat, piece := max 1 (min size.toNat 4096) } }))

/-- R512: the one component: firmware. -/
def componentClass : BitVec 16 := 0x000A
def componentId : BitVec 16 := 0x0001

/-- R512: UPDATE_COMPONENT of classification `cls` and identifier `id`: the session starts, and the device requests the
header; another component is answered as incompatible (log 43). -/
def execUpdateComponent (cls id : BitVec 16) (s : State) : Out :=
  .next (s.fwRequest fun s =>
    if s.mg.fw != .learn then (leBytes 1 0x84, s)
    else if cls ≠ componentClass ∨ id ≠ componentId then (leBytes 1 0 ++ leBytes 1 1 ++ leBytes 1 6, s)
    else
      (leBytes 1 0 ++ leBytes 2 0, { s with mg := { s.mg with fw := .header, buf := [] } }.askNext))

/-- R512: what follows once the whole header has been received: BEGIN, then the body or the report. -/
def State.beginImage (s : State) (h : List Byte) (sigs : List Verified) (flashOk : Bool) : State :=
  let s := s.updateBegin 1 h (imgVerifies sigs h) flashOk
  if s.upState = upReceiving ∧ s.upOwner = 1 then { s with mg := { s.mg with fw := .body } }.askNext else s.reportEnd

/-- R509, R512: FIRMWARE_DATA_RESPONSE: the agent's piece `d` arrives; one that was not asked for is discarded and counted
(log 55). `sigs` lists the signatures that verify. -/
def execFirmwareDataResponse (d : List Byte) (sigs : List Verified) (flashOk : Bool) (s : State) : Out :=
  .next (s.messageOf (5 + d.length) fun s =>
    if !s.mg.asked || s.stage ≠ 5 then s.bump R.STD_MG_ERR_CNT_COUNT 1
    else
      let s := { s with mg := { s.mg with asked := false } }
      match s.mg.fw with
      | .header =>
        let h := (s.mg.buf ++ d).take headerSize
        let s := { s with mg := { s.mg with buf := h } }
        if h.length < headerSize then s.askNext else s.beginImage h sigs flashOk
      | .body =>
        let s := s.updateData 1 (s.rf R.SEC_UPD_RCVD_BYTES) (d.take s.mg.piece)
        if s.upState = upError then s.reportEnd else s
      | _ => s)

/-- R497, R512: FLASH_PROGRAM_DONE: a part is programmed; the management-owned session requests the next one, or writes FINISH
when it was the last, with `flashOk` for check 9. -/
def execFlashProgramDone (flashOk : Bool) (s : State) : Out :=
  if s.upState ≠ upBusy then .next s
  else
    let s := s.wf R.SEC_UPD_STAT_STATE upReceiving
    if s.upOwner ≠ 1 ∨ s.mg.fw ≠ .body then .next s
    else if s.rf R.SEC_UPD_RCVD_BYTES = imgBody s.sec.upHeader then .next (s.updateFinish 1 flashOk).reportEnd
    else .next s.askNext

/-- R512: CANCEL_UPDATE. -/
def execCancelUpdate (s : State) : Out :=
  .next (s.fwRequest fun s =>
    if s.mg.fw = .idle then (leBytes 1 0x80, s)
    else (leBytes 1 0, { s.updateCancel 1 with mg := { s.mg with fw := .idle, buf := [], asked := false } }))

/-- R512: ACTIVATE_FIRMWARE: answered with no time to wait and with the device reset that it is pending on (log 43). -/
def execActivateFirmware (s : State) : Out :=
  .next (s.fwRequest fun s =>
    if s.mg.fw = .done ∧ s.upState = upDone ∧ s.upOwner = 1 then
      (leBytes 1 0 ++ leBytes 2 0, { s with mg := { s.mg with fw := .idle, resetDue := true } })
    else (leBytes 1 0x84, s))

end Sys2Proof.Machine
end

