-- ==== Sys2Proof/Machine/RegWrite.lean ====
section
/-! DEFINITION. Register writes that no other command covers (R15, R16, R18), writes of 64-bit quantities (R14), and a
write to any offset (R12). -/

namespace Sys2Proof.Machine

/-! ### Registers with a command of their own -/

/-- A write of `v` to offset `o` of page `p` is another command (log 44): `W1S` bits that start an action, registers whose
writes are refused or checked against other state. -/
def ownWrite (p : Page) (o : Nat) (v : Word32) : Bool :=
  (p.hasCommon && (o == 0x18 || o == 0x28)) ||
    match p with
    | .fieldmem _ => (0x200 ≤ o && o < 0x300) || (0x400 ≤ o && o < 0xB80)
    | .context _ => o == 0x100 || o == 0x110 || o == 0x190 || (0x140 ≤ o && o < 0x180)
    | .port _ => o == 0x100 || (0x120 ≤ o && o < 0x130)
    | .qm => o == 0x104
    | .doorbell _ => o == 0x100 || o == 0x118
    | .serving _ => servOffset o
    | .almanac => o == 0x140 || o == 0x144 || (0x400 ≤ o && o < 0x500 && o % 64 == 0 && wbits v 0 2 != 0)
    | .clock => o == 0x110
    | .commit => o == 0x104
    | .collector => o == 0x140 && v.getLsbD 31
    | .fabric => o == 0x100
    | .power => o == 0x100 || o == 0x180 || o == 0x190
    | .security =>
      (o == 0x108 && v.getLsbD 0) || o == 0x120 || (o == 0x144 && wbits v 0 2 != 0) || (o == 0x1C0 && v.getLsbD 0)
    | _ => false

/-! ### Writes with a rule of their own -/

/-- R18, R387: a counter that only a write of 0 clears. -/
def State.zeroWrite (s : State) (a : Nat) (v : Word32) : State := if v = 0 then s.setReg a 0 else s

/-- R387, R391: a write of `ERR_STAT`: the bits of device-fatal sources stay in the device-fatal state. -/
def State.statWrite (s : State) (p : Page) (a : Nat) (v : Word32) : State :=
  let keep := if s.flag R.FCOL_STAT_DEVFATAL then srcBits p (· == .deviceFatal) else 0
  s.plainWrite a (v &&& ~~~(BitVec.ofNat 32 keep))

/-- R387, R389, R391: a write of `ERR_MASK`: only the bits of sources that are not device-fatal; a masked source no longer
drives its pair. -/
def State.maskWrite (s : State) (p : Page) (a : Nat) (v : Word32) : State :=
  let page := a / 0x1000 * 0x1000
  let v := v &&& BitVec.ofNat 32 (srcBits p (· != .deviceFatal))
  let off := (List.range 32).filter fun b => v.getLsbD b
  off.foldl (fun s b => s.setPair (pairKey page b) { s.pair (pairKey page b) with hold := 0 }) (s.setReg a v)

/-- R387: a write of a word of the common layout. -/
def State.commonWrite (s : State) (p : Page) (a : Nat) (v : Word32) : State :=
  match a % 0x1000 with
  | 0x10 => s.statWrite p a v
  | 0x14 => s.maskWrite p a v
  | 0x1C => s.setReg a (v &&& BitVec.ofNat 32 (srcBits p fun _ => true))
  | 0x20 => s.zeroWrite a v
  | _ => s.plainWrite a v

/-- R430: a write of a register of a harrow run, while no run is in progress. -/
def State.harrowWrite (s : State) (f o a : Nat) (v : Word32) : State :=
  if s.harrowing f then s
  else match o % 64 with
    | 0 => s.harrowFields f v
    | 4 => s.writeUnless a v (wbits v 24 8 < wbits v 16 8) [16, 24]
    | _ => s.plainWrite a v

/-- R211, R217: a write of a context-page register. -/
def State.contextWrite (s : State) (c o a : Nat) (v : Word32) : State :=
  match o with
  | 0x1D0 => s.writeUnless a v (wbits v 8 8 < wbits v 16 8) [8, 16]
  | 0x1E0 =>
    let s := s.plainWrite a v
    if v.getLsbD 31 then s.setCtx c { s.ctx c with rwResetPending := true } else s
  | _ => s.plainWrite a v

/-- R351, R404: a write of a register whose vector field, at bit `lo`, names a vector of function `u`. -/
def State.vecWrite (s : State) (u a : Nat) (v : Word32) (lo : Nat) : State :=
  s.writeUnless a v (!vecLegal u (wbits v lo 11)) [lo]

/-- R497: a write of the mailbox window. -/
def State.mailWrite (s : State) (i o : Nat) (v : Word32) : State :=
  { s with sec := { s.sec with mailbox := s.sec.mailbox.writeN unit64K (i * 0x1000 + o) (leBytes 4 v.toNat) } }

/-- R372: a write of `QM_STAT`: `REFUSED` of the selected queue clears by a 1. -/
def State.clearRefused (s : State) (v : Word32) : State :=
  let q := s.rf R.QM_QSEL_QUEUE
  if v.getLsbD 0 then s.setQueue q { s.queue q with refused := false } else s

/-- R15, R16, R18: a write of `v` to offset `a` of page `p`. -/
def State.regWrite (s : State) (p : Page) (a : Nat) (v : Word32) : State :=
  let o := a % 0x1000
  if p.hasCommon && o < 0x100 then s.commonWrite p a v
  else match p with
    | .collector =>
      if o == 0x100 then s.vecWrite 0 a v 16
      else if [0x110, 0x114, 0x118, 0x12C, 0x134].contains o then s.zeroWrite a v else s.plainWrite a v
    | .hang => if o == 0x114 then s.zeroWrite a v else s.plainWrite a v
    | .hostif => if 0x800 ≤ o && o < 0xA00 && o % 8 == 0 then s.vecWrite (s.client ((o - 0x800) / 8)) a v 0 else s.plainWrite a v
    | .field _ =>
      if 0xC00 ≤ o && o % 16 == 4 then s.writeUnless a v (480 < wbits v 0 9 + wbits v 16 9) [0, 16] else s.plainWrite a v
    | .context c => s.contextWrite c o a v
    | .commit => if 0x108 ≤ o && o ≤ 0x118 then s.regionConfig o v else s.plainWrite a v
    | .almanac => if 0x400 ≤ o && o < 0x500 then s.harrowWrite ((o - 0x400) / 64) o a v else s.plainWrite a v
    | .security =>
      if 0x180 ≤ o && o < 0x1C0 then { s with sec := { s.sec with keyIn := sputD s.sec.keyIn ((o - 0x180) / 4) v 0 } }
      else s.plainWrite a v
    | .mailbox i => s.mailWrite i o v
    | .qm => if o == 0x108 then s.clearRefused v else s.plainWrite a v
    | .port q => if o == 0x10C then (s.plainWrite a v).tryDetect q else s.plainWrite a v
    | _ => s.plainWrite a v

/-! ### 64-bit quantities (R14) -/

/-- The high word of a quantity whose low word a function stages. -/
def stagesHigh (a : Nat) : Bool := 4 ≤ a && stagesLow (a - 4)

/-- R14: function `u` stages the low word at `a`. -/
def State.stage64 (s : State) (u a : Nat) (v : Word32) : State := { s with wrStage := sput s.wrStage (busKey u a) v }

/-- R16, R217, R284, R317, R346: the pair of words `lo` and `hi` that a write of the high word at `a` would commit is a reserved
encoding. -/
def State.pairReserved (s : State) (a : Nat) (lo hi : Word32) : Bool :=
  let o := a % 0x1000
  match pageAt a with
  | some (.hostif) => (lo.toNat + 2 ^ 32 * wbits hi 0 9) % 2 ^ s.bar2Size ((o - 0x404) / 8) != 0
  | some (.context _) => o == 0x1E8 && wbits lo 0 12 != 0
  | some (.colleng _) => wbits lo 0 16 != 0
  | some (.commit) => wbits lo 0 6 != 0
  | _ => false

/-- R14, R16: the staged low word and the high word `v` are committed together, or the pair stays as it is. -/
def State.commit64 (s : State) (u a : Nat) (v : Word32) : State :=
  let lo := s.stagedLow u (a - 4)
  let s := s.unstage u (a - 4)
  if s.pairReserved a lo v then s else (s.plainWrite (a - 4) lo).plainWrite a v

/-- R14: a write of the low word of a writable 64-bit quantity. -/
def State.lowWrite (s : State) (u a : Nat) (v : Word32) : State :=
  match pageAt a with
  | some (.doorbell q) => s.baseWrite u q (a % 0x1000) v
  | some (.serving c) => s.servWrite u c (a % 0x1000) v
  | _ => s.stage64 u a v

/-- R14, R245: a write of the high word of a writable 64-bit quantity or of a routing entry. -/
def State.highWrite (s : State) (u a : Nat) (v : Word32) : State :=
  match pageAt a with
  | some (.fabric) => s.routeCommit u ((a % 0x1000 - 0x404) / 8) v
  | some (.doorbell q) => s.baseWrite u q (a % 0x1000) v
  | some (.serving c) => s.servWrite u c (a % 0x1000) v
  | _ => s.commit64 u a v

/-! ### A write to any offset -/

/-- The effect of the row that a write of `v` to offset `a` of page `p` is when it is another command (`ownWrite`); what the
outside would say in that row is free (log 45). -/
def State.ownEffect (s : State) (u : Nat) (p : Page) (a : Nat) (v : Word32) : State :=
  let o := a % 0x1000
  let base := a / 0x1000 * 0x1000
  if p.hasCommon && o == 0x18 then s.forceWrite base v
  else if p.hasCommon && o == 0x28 then s.clkGate base v
  else match p with
    | .fieldmem f => if o < 0x300 then s.shareWrite f ((o - 0x200) / 4) v else s.granWrite f ((o - 0x400) / 4) v
    | .context c =>
      match o with
      | 0x100 => s.bindWrite c v
      | 0x110 => s.plainWrite a v
      | 0x190 => s.ctxMemWrite c v
      | _ =>
        match o % 16 with
        | 0 => s.quotaSet c ((o - 0x140) / 16) .seedbed v
        | 4 => s.quotaSet c ((o - 0x140) / 16) .slots v
        | 8 => s.quotaSet c ((o - 0x140) / 16) .gleaning v
        | _ => s
    | .port q => if o == 0x100 then s.writePortCtrl q v else s.setRxalloc q ((o - 0x120) / 4) v
    | .qm => s.bindQueue v
    | .doorbell q => if o == 0x100 then s.queueCfg q v else s.ringBell q v
    | .serving c => s.servWrite u c o v
    | .almanac =>
      if o == 0x140 then s.selectEntry v none else if o == 0x144 then s.selectClass v
      else s.harrowCtrl ((o - 0x400) / 64) v none
    | .commit => s.regionCtl v
    | .collector => s.wireTestWrite v
    | .fabric => s.setDevId v
    | .clock => s.clkOut v
    | .power =>
      if o == 0x100 then s.setAllot false (wbits v 0 9) else if o == 0x180 then s.setAlign (wbits v 0 16) else s.planCap v
    | .security =>
      if o == 0x108 then s.secCtrl v else if o == 0x120 then s.updCtrl v none none else if o == 0x144 then s.keyCmd v
      else s.dbgCtrl v none
    | _ => s.plainWrite a v

/-- R14 to R16, R18: what an aligned write of `v` to offset `a` does where it is served and reached. -/
def State.effect (s : State) (u a : Nat) (v : Word32) : State :=
  match pageAt a with
  | none => s
  | some p =>
    if stagesLow a then s.lowWrite u a v
    else if stagesHigh a then s.highWrite u a v
    else if ownWrite p (a % 0x1000) v then s.ownEffect u p a v
    else s.regWrite p a v

/-- R12, R14 to R16, R345, R371: a 32-bit write of `v` to offset `a` by function `u`. -/
def State.busWrite (s : State) (u a : Nat) (v : Word32) : State :=
  if a % 4 ≠ 0 then s.badWrite u a else s.gateWrite u a fun s => s.effect u a v

/-- R15, R16, R18: REGISTER_WRITE: a write of a register whose writes are no other command. -/
def execRegisterWrite (u : Fin 64) (off : BitVec 27) (v : Word32) (s : State) : Out := .next (s.busWrite u off.toNat v)

/-- R14: LOW_WORD_WRITE: a write of the low word of a writable 64-bit quantity. -/
def execLowWordWrite (u : Fin 64) (off : BitVec 27) (v : Word32) (s : State) : Out := .next (s.busWrite u off.toNat v)

/-- R14: HIGH_WORD_WRITE: a write of the high word of a writable 64-bit quantity; that of a routing entry is
`ROUTE_ENTRY_COMMIT`. -/
def execHighWordWrite (u : Fin 64) (off : BitVec 27) (v : Word32) (s : State) : Out := .next (s.busWrite u off.toNat v)

end Sys2Proof.Machine
end

