-- ==== Sys2Proof/Machine/Dispatch.lean ====
section
/-! DEFINITION. The meaning of every command: one arm, one call. -/

namespace Sys2Proof.Machine

def exec (i : Instr) (s : State) : Host.Outcome State Fault Refusal :=
  match i with
  | .ldw j body => Sys2Proof.Machine.execLdw j body s
  | .lda j body => Sys2Proof.Machine.execLda j body s
  | .trn j body => Sys2Proof.Machine.execTrn j body s
  | .dma j body => Sys2Proof.Machine.execDma j body s
  | .dmaHandoffAccept f => Sys2Proof.Machine.execDmaHandoffAccept f s
  | .dmaTransferDone f j l => Sys2Proof.Machine.execDmaTransferDone f j l s
  | .mma j body => Sys2Proof.Machine.execMma j body s
  | .mmt j body => Sys2Proof.Machine.execMmt j body s
  | .weightBankFilled f n l => Sys2Proof.Machine.execWeightBankFilled f n l s
  | .arrayPassEnter f n l => Sys2Proof.Machine.execArrayPassEnter f n l s
  | .drn j body => Sys2Proof.Machine.execDrn j body s
  | .drainRetire f n => Sys2Proof.Machine.execDrainRetire f n s
  | .vopCpy j body => Sys2Proof.Machine.execVopCpy j body s
  | .vopAdd j body => Sys2Proof.Machine.execVopAdd j body s
  | .vopSub j body => Sys2Proof.Machine.execVopSub j body s
  | .vopMul j body => Sys2Proof.Machine.execVopMul j body s
  | .vopFma j body => Sys2Proof.Machine.execVopFma j body s
  | .vopDiv j body => Sys2Proof.Machine.execVopDiv j body s
  | .vopSqrt j body => Sys2Proof.Machine.execVopSqrt j body s
  | .vopMax j body => Sys2Proof.Machine.execVopMax j body s
  | .vopMin j body => Sys2Proof.Machine.execVopMin j body s
  | .vopExp j body => Sys2Proof.Machine.execVopExp j body s
  | .vopTanh j body => Sys2Proof.Machine.execVopTanh j body s
  | .vopErf j body => Sys2Proof.Machine.execVopErf j body s
  | .rsum j body => Sys2Proof.Machine.execRsum j body s
  | .rmax j body => Sys2Proof.Machine.execRmax j body s
  | .adamw j body => Sys2Proof.Machine.execAdamw j body s
  | .gsq j body => Sys2Proof.Machine.execGsq j body s
  | .afapply j body => Sys2Proof.Machine.execAfapply j body s
  | .glnInit j body => Sys2Proof.Machine.execGlnInit j body s
  | .glnAcc j body => Sys2Proof.Machine.execGlnAcc j body s
  | .glnAdd j body => Sys2Proof.Machine.execGlnAdd j body s
  | .glnFlush j body => Sys2Proof.Machine.execGlnFlush j body s
  | .semw j body => Sys2Proof.Machine.execSemw j body s
  | .sems j body => Sys2Proof.Machine.execSems j body s
  | .bar j body => Sys2Proof.Machine.execBar j body s
  | .col j body host => Sys2Proof.Machine.execCol j body host s
  | .chkForce j body => Sys2Proof.Machine.execChkForce j body s
  | .chkRead j body => Sys2Proof.Machine.execChkRead j body s
  | .step j body => Sys2Proof.Machine.execStep j body s
  | .endStream j body => Sys2Proof.Machine.execEnd j body s
  | .launchStart j => Sys2Proof.Machine.execLaunchStart j s
  | .streamFetchDone j => Sys2Proof.Machine.execStreamFetchDone j s
  | .seqForwardIssue f => Sys2Proof.Machine.execSeqForwardIssue f s
  | .shadowCompare f j differs m => Sys2Proof.Machine.execShadowCompare f j differs m s
  | .doorbell u q v => Sys2Proof.Machine.execDoorbell u q v s
  | .commandStart q ring => Sys2Proof.Machine.execCommandStart q ring s
  | .completionWrite q ok => Sys2Proof.Machine.execCompletionWrite q ok s
  | .nop q => Sys2Proof.Machine.execNop q s
  | .launch q => Sys2Proof.Machine.execLaunch q s
  | .seqrun q => Sys2Proof.Machine.execSeqrun q s
  | .copy q => Sys2Proof.Machine.execCopy q s
  | .fill q => Sys2Proof.Machine.execFill q s
  | .copyDone j host ok => Sys2Proof.Machine.execCopyDone j host ok s
  | .coll q host => Sys2Proof.Machine.execColl q host s
  | .begin q rings => Sys2Proof.Machine.execBegin q rings s
  | .commit q => Sys2Proof.Machine.execCommit q s
  | .abort q rings => Sys2Proof.Machine.execAbort q rings s
  | .rollback q => Sys2Proof.Machine.execRollback q s
  | .adopt q => Sys2Proof.Machine.execAdopt q s
  | .stepReady c rings => Sys2Proof.Machine.execStepReady c rings s
  | .lend q => Sys2Proof.Machine.execLend q s
  | .remap q m => Sys2Proof.Machine.execRemap q m s
  | .retire q m => Sys2Proof.Machine.execRetire q m s
  | .resetCtx q rings => Sys2Proof.Machine.execResetCtx q rings s
  | .resetField q rings m => Sys2Proof.Machine.execResetField q rings m s
  | .resetPort q => Sys2Proof.Machine.execResetPort q s
  | .expel q host sigs m => Sys2Proof.Machine.execExpel q host sigs m s
  | .rejoin q host sigs m => Sys2Proof.Machine.execRejoin q host sigs m s
  | .managerKeys q host sigs flashOk m => Sys2Proof.Machine.execManagerKeys q host sigs flashOk m s
  | .join q => Sys2Proof.Machine.execJoin q s
  | .leave q => Sys2Proof.Machine.execLeave q s
  | .swapClose q => Sys2Proof.Machine.execSwapClose q s
  | .swapLayer q host => Sys2Proof.Machine.execSwapLayer q host s
  | .swapOpen q => Sys2Proof.Machine.execSwapOpen q s
  | .collPacket p vc => Sys2Proof.Machine.execCollPacket p vc s
  | .sowPacket p vc => Sys2Proof.Machine.execSowPacket p vc s
  | .writePacket p vc => Sys2Proof.Machine.execWritePacket p vc s
  | .collectiveEnd f c opid => Sys2Proof.Machine.execCollectiveEnd f c opid s
  | .collectiveTimeout f c opid => Sys2Proof.Machine.execCollectiveTimeout f c opid s
  | .nextPrefetch f c opid host => Sys2Proof.Machine.execNextPrefetch f c opid host s
  | .mirrorData p vc => Sys2Proof.Machine.execMirrorData p vc s
  | .mirrorBegin p vc => Sys2Proof.Machine.execMirrorBegin p vc s
  | .mirrorEnd p vc => Sys2Proof.Machine.execMirrorEnd p vc s
  | .mirrorAck p vc => Sys2Proof.Machine.execMirrorAck p vc s
  | .mirrorTimeout j => Sys2Proof.Machine.execMirrorTimeout j s
  | .tokenReady p vc => Sys2Proof.Machine.execTokenReady p vc s
  | .tokenCommit p vc => Sys2Proof.Machine.execTokenCommit p vc s
  | .tokenAbort p vc rings => Sys2Proof.Machine.execTokenAbort p vc rings s
  | .tokenMirrorCommit p vc => Sys2Proof.Machine.execTokenMirrorCommit p vc s
  | .tokenMirrorRollback p vc => Sys2Proof.Machine.execTokenMirrorRollback p vc s
  | .packetRoute p ns => Sys2Proof.Machine.execPacketRoute p ns s
  | .abortSlot p ns => Sys2Proof.Machine.execAbortSlot p ns s
  | .dataFlit p x => Sys2Proof.Machine.execDataFlit p x s
  | .idleFlit p x => Sys2Proof.Machine.execIdleFlit p x s
  | .nak p x => Sys2Proof.Machine.execNak p x s
  | .keyon p x => Sys2Proof.Machine.execKeyon p x s
  | .nakResendTimeout p => Sys2Proof.Machine.execNakResendTimeout p s
  | .keyRatchet p tx => Sys2Proof.Machine.execKeyRatchet p tx s
  | .laneSignalLoss p => Sys2Proof.Machine.execLaneSignalLoss p s
  | .detectSignal p => Sys2Proof.Machine.execDetectSignal p s
  | .trainComplete p => Sys2Proof.Machine.execTrainComplete p s
  | .alignComplete p pass inv rev delay => Sys2Proof.Machine.execAlignComplete p pass inv rev delay s
  | .portStateTimeout p => Sys2Proof.Machine.execPortStateTimeout p s
  | .ident p kex1 => Sys2Proof.Machine.execIdent p kex1 s
  | .kexMessage p ok root key reply => Sys2Proof.Machine.execKexMessage p ok root key reply s
  | .hbSend p => Sys2Proof.Machine.execHbSend p s
  | .hbReceive p => Sys2Proof.Machine.execHbReceive p s
  | .heartbeatLoss p => Sys2Proof.Machine.execHeartbeatLoss p s
  | .mgmtPacket p vc sigs flashOk m => Sys2Proof.Machine.execMgmtPacket p vc sigs flashOk m s
  | .mgmtReassemblyTimeout j => Sys2Proof.Machine.execMgmtReassemblyTimeout j s
  | .granuleWrite u f g v => Sys2Proof.Machine.execGranuleWrite u f g v s
  | .granuleClearDone f m => Sys2Proof.Machine.execGranuleClearDone f m s
  | .sheafShareWrite u f c v => Sys2Proof.Machine.execSheafShareWrite u f c v s
  | .ctxMemWrite u c v => Sys2Proof.Machine.execCtxMemWrite u c v s
  | .hbmRead w a x d => Sys2Proof.Machine.execHbmRead w a x d s
  | .hbmPartialWrite w a bs x d => Sys2Proof.Machine.execHbmPartialWrite w a bs x d s
  | .scrubRead f m x d => Sys2Proof.Machine.execScrubRead f m x d s
  | .contextCreate u c v => Sys2Proof.Machine.execContextCreate u c v s
  | .contextDestroy u c v => Sys2Proof.Machine.execContextDestroy u c v s
  | .quotaWrite u c f k v => Sys2Proof.Machine.execQuotaWrite u c f k v s
  | .regionValidate u v => Sys2Proof.Machine.execRegionValidate u v s
  | .regionInvalidate u v => Sys2Proof.Machine.execRegionInvalidate u v s
  | .queueEnable u q v => Sys2Proof.Machine.execQueueEnable u q v s
  | .queueDisable u q v => Sys2Proof.Machine.execQueueDisable u q v s
  | .queueBind u v => Sys2Proof.Machine.execQueueBind u v s
  | .keyLoad u v => Sys2Proof.Machine.execKeyLoad u v s
  | .keyClear u v => Sys2Proof.Machine.execKeyClear u v s
  | .updateBegin u v sigs flashOk => Sys2Proof.Machine.execUpdateBegin u v sigs flashOk s
  | .updateData u v => Sys2Proof.Machine.execUpdateData u v s
  | .updateFinish u v flashOk => Sys2Proof.Machine.execUpdateFinish u v flashOk s
  | .updateCancel u v => Sys2Proof.Machine.execUpdateCancel u v s
  | .svnCommit u v => Sys2Proof.Machine.execSvnCommit u v s
  | .fuseBurnDone ok => Sys2Proof.Machine.execFuseBurnDone ok s
  | .debugToken u v sigs => Sys2Proof.Machine.execDebugToken u v sigs s
  | .errorForce u a v => Sys2Proof.Machine.execErrorForce u a v s
  | .wireTest u v => Sys2Proof.Machine.execWireTest u v s
  | .harrowGo u f v m => Sys2Proof.Machine.execHarrowGo u f v m s
  | .harrowStop u f v m => Sys2Proof.Machine.execHarrowStop u f v m s
  | .harrowTile f m differs eqA eqB => Sys2Proof.Machine.execHarrowTile f m differs eqA eqB s
  | .harrowTimeout f m => Sys2Proof.Machine.execHarrowTimeout f m s
  | .almanacRead u v got => Sys2Proof.Machine.execAlmanacRead u v got s
  | .almanacClassify u v => Sys2Proof.Machine.execAlmanacClassify u v s
  | .almanacFlashWrite ok => Sys2Proof.Machine.execAlmanacFlashWrite ok s
  | .allotWrite u v => Sys2Proof.Machine.execAllotWrite u v s
  | .planCapWrite u v => Sys2Proof.Machine.execPlanCapWrite u v s
  | .fcAlignWrite u v => Sys2Proof.Machine.execFcAlignWrite u v s
  | .forecastLatch u => Sys2Proof.Machine.execForecastLatch u s
  | .interferenceLatch u c => Sys2Proof.Machine.execInterferenceLatch u c s
  | .lowWordRead u off log => Sys2Proof.Machine.execLowWordRead u off log s
  | .lowWordWrite u off v => Sys2Proof.Machine.execLowWordWrite u off v s
  | .highWordWrite u off v => Sys2Proof.Machine.execHighWordWrite u off v s
  | .routeEntryCommit u j v => Sys2Proof.Machine.execRouteEntryCommit u j v s
  | .rcRead u off log => Sys2Proof.Machine.execRcRead u off log s
  | .misalignedWrite u off => Sys2Proof.Machine.execMisalignedWrite u off s
  | .registerWrite u off v => Sys2Proof.Machine.execRegisterWrite u off v s
  | .portEnableWrite u p v => Sys2Proof.Machine.execPortEnableWrite u p v s
  | .portRetrainWrite u p v => Sys2Proof.Machine.execPortRetrainWrite u p v s
  | .devidWrite u v => Sys2Proof.Machine.execDevidWrite u v s
  | .rxallocWrite u p c v => Sys2Proof.Machine.execRxallocWrite u p c v s
  | .clkGateWrite u a v => Sys2Proof.Machine.execClkGateWrite u a v s
  | .clkOutWrite u v => Sys2Proof.Machine.execClkOutWrite u v s
  | .ifCtrlWrite u c v => Sys2Proof.Machine.execIfCtrlWrite u c v s
  | .servingConfigWrite u c o v => Sys2Proof.Machine.execServingConfigWrite u c o v s
  | .bar2Read u off n => Sys2Proof.Machine.execBar2Read u off n s
  | .bar2Write u off bs => Sys2Proof.Machine.execBar2Write u off bs s
  | .functionLevelReset u => Sys2Proof.Machine.execFunctionLevelReset u s
  | .deviceReset why => Sys2Proof.Machine.execDeviceReset why s
  | .bootStart slot => Sys2Proof.Machine.execBootStart slot s
  | .bootVerify sigs flashOk => Sys2Proof.Machine.execBootVerify sigs flashOk s
  | .bootReady => Sys2Proof.Machine.execBootReady s
  | .powerLoss why => Sys2Proof.Machine.execPowerLoss why s
  | .regulatorFailure => Sys2Proof.Machine.execRegulatorFailure s
  | .pwrBrakeAssert => Sys2Proof.Machine.execPwrBrakeAssert s
  | .pwrBrakeRelease => Sys2Proof.Machine.execPwrBrakeRelease s
  | .hostLinkTrain speed w flit => Sys2Proof.Machine.execHostLinkTrain speed w flit s
  | .msixUnmask u vec => Sys2Proof.Machine.execMsixUnmask u vec s
  | .powerSample x => Sys2Proof.Machine.execPowerSample x s
  | .throttleEval draw k => Sys2Proof.Machine.execThrottleEval draw k s
  | .clockLevelStep f => Sys2Proof.Machine.execClockLevelStep f s
  | .minuteBoundary => Sys2Proof.Machine.execMinuteBoundary s
  | .thermalTrip d t => Sys2Proof.Machine.execThermalTrip d t s
  | .thermalTripEnd d t => Sys2Proof.Machine.execThermalTripEnd d t s
  | .analogTrip d on => Sys2Proof.Machine.execAnalogTrip d on s
  | .arraySleep f n j => Sys2Proof.Machine.execArraySleep f n j s
  | .furrowSleep f n => Sys2Proof.Machine.execFurrowSleep f n s
  | .fieldSleep f => Sys2Proof.Machine.execFieldSleep f s
  | .furrowWake f n => Sys2Proof.Machine.execFurrowWake f n s
  | .fieldWake f failing rings => Sys2Proof.Machine.execFieldWake f failing rings s
  | .monitorWindow n ao osc => Sys2Proof.Machine.execMonitorWindow n ao osc s
  | .pllWindow j n meter => Sys2Proof.Machine.execPllWindow j n meter s
  | .pllLockTimeout j => Sys2Proof.Machine.execPllLockTimeout j s
  | .collectorTick faulty l finds => Sys2Proof.Machine.execCollectorTick faulty l finds s
  | .quietPeriodExpiry => Sys2Proof.Machine.execQuietPeriodExpiry s
  | .streamWatchdog x => Sys2Proof.Machine.execStreamWatchdog x s
  | .queueWatchdog q => Sys2Proof.Machine.execQueueWatchdog q s
  | .dmaWatchdog f e => Sys2Proof.Machine.execDmaWatchdog f e s
  | .portWatchdog p who => Sys2Proof.Machine.execPortWatchdog p who s
  | .fenceDrained d => Sys2Proof.Machine.execFenceDrained d s
  | .fenceDrainTimeout d => Sys2Proof.Machine.execFenceDrainTimeout d s
  | .interferenceWindowEnd c w => Sys2Proof.Machine.execInterferenceWindowEnd c w s
  | .slowdownWindowEnd l => Sys2Proof.Machine.execSlowdownWindowEnd l s
  | .ideKeyMessage req => Sys2Proof.Machine.execIdeKeyMessage req s
  | .doeAttest req => Sys2Proof.Machine.execDoeAttest req s
  | .getStatus head p => Sys2Proof.Machine.execGetStatus head p s
  | .setAllot head p => Sys2Proof.Machine.execSetAllot head p s
  | .getForecast head p => Sys2Proof.Machine.execGetForecast head p s
  | .setPlanCap head p => Sys2Proof.Machine.execSetPlanCap head p s
  | .setAlign head p => Sys2Proof.Machine.execSetAlign head p s
  | .readFaultlog head p => Sys2Proof.Machine.execReadFaultlog head p s
  | .readAlmanac head p got busy => Sys2Proof.Machine.execReadAlmanac head p got busy s
  | .classify head p busy => Sys2Proof.Machine.execClassify head p busy s
  | .attest head p => Sys2Proof.Machine.execAttest head p s
  | .signedObject head p sigs flashOk m => Sys2Proof.Machine.execSignedObject head p sigs flashOk m s
  | .subscribe b head p => Sys2Proof.Machine.execSubscribe b head p s
  | .mctpControl b r => Sys2Proof.Machine.execMctpControl b r s
  | .pldmMonitor r => Sys2Proof.Machine.execPldmMonitor r s
  | .requestUpdate b src size => Sys2Proof.Machine.execRequestUpdate b src size s
  | .updateComponent cls id => Sys2Proof.Machine.execUpdateComponent cls id s
  | .cancelUpdate => Sys2Proof.Machine.execCancelUpdate s
  | .activateFirmware => Sys2Proof.Machine.execActivateFirmware s
  | .vopRetire f n unit => Sys2Proof.Machine.execVopRetire f n unit s
  | .glnRetire f n => Sys2Proof.Machine.execGlnRetire f n s
  | .unknownOpcode j w => Sys2Proof.Machine.execUnknownOpcode j w s
  | .flitSlotTransmit p => Sys2Proof.Machine.execFlitSlotTransmit p s
  | .ideIntegrityFailure => Sys2Proof.Machine.execIdeIntegrityFailure s
  | .converterStart => Sys2Proof.Machine.execConverterStart s
  | .thermalControl d t lvl tin tout => Sys2Proof.Machine.execThermalControl d t lvl tin tout s
  | .controlProcessorWatchdog => Sys2Proof.Machine.execControlProcessorWatchdog s
  | .configurationWrite w => Sys2Proof.Machine.execConfigurationWrite w s
  | .dynamicAddressAssign how a => Sys2Proof.Machine.execDynamicAddressAssign how a s
  | .eventAnswer b => Sys2Proof.Machine.execEventAnswer b s
  | .firmwareDataResponse d sigs flashOk => Sys2Proof.Machine.execFirmwareDataResponse d sigs flashOk s
  | .flashProgramDone flashOk => Sys2Proof.Machine.execFlashProgramDone flashOk s
  | .jtagAccess op => Sys2Proof.Machine.execJtagAccess op s

end Sys2Proof.Machine
end

