-- ==== Sys2Proof/WellFormed.lean ====
section
/-! DEFINITION. Commands that the outside can give: the operands spell the row's own command (log 45). -/

namespace Sys2Proof

open Sys2Proof.Machine

/-- The page at BAR0 offset `a` carries the common layout (R387, R484). -/
def commonPage (a : Nat) : Bool := (pageAt (a / 0x1000 * 0x1000)).any Page.hasCommon

/-- REGISTER_WRITE: an aligned write of a register whose writes are not another command (R12, R14, R15). -/
def registerOk (a : Nat) (v : Word32) : Bool :=
  a % 4 == 0 &&
    match pageAt a with
    | none => true
    | some p => !(stagesLow a || stagesHigh a || ownWrite p (a % 0x1000) v)

/-- HIGH_WORD_WRITE: the high word of a 64-bit quantity, not of a routing entry (R14, R245). -/
def highOk (a : Nat) : Bool := stagesHigh a && pageAt a != some .fabric

/-- HBM_PARTIAL_WRITE: fewer than 64 bytes, within one codeword (R165). -/
def partialOk (a n : Nat) : Bool := n != 0 && a % 64 + n ≤ 64 && n < 64

/-- R513: a vendor message of the row whose CMD is `k`, or of a CMD that no row has. -/
def vendorOk (k : Nat) (head : BitVec 32) : Bool := wbits head 0 8 == k || !vendorCmds.contains (wbits head 0 8)

/-- The command's operands spell the command. -/
def Instr.wf : Instr → Bool
  | .hbmPartialWrite _ a bs _ _ => partialOk a.toNat bs.length
  | .contextCreate _ _ v => v.getLsbD 31
  | .contextDestroy _ _ v => !v.getLsbD 31
  | .regionValidate _ v => v.getLsbD 8
  | .regionInvalidate _ v => !v.getLsbD 8
  | .queueEnable _ _ v => v.getLsbD 0
  | .queueDisable _ _ v => !v.getLsbD 0
  | .keyLoad _ v => v.getLsbD 0
  | .keyClear _ v => !v.getLsbD 0 && v.getLsbD 1
  | .updateBegin _ v _ _ => wbits v 0 3 == 1
  | .updateData _ v => wbits v 0 3 == 2
  | .updateFinish _ v _ => wbits v 0 3 == 3
  | .updateCancel _ v => wbits v 0 3 == 4
  | .svnCommit _ v => v.getLsbD 0
  | .debugToken _ v _ => v.getLsbD 0
  | .errorForce _ a _ => commonPage a.toNat
  | .wireTest _ v => v.getLsbD 31
  | .harrowGo _ _ v _ => v.getLsbD 0
  | .harrowStop _ _ v _ => !v.getLsbD 0 && v.getLsbD 1
  | .lowWordWrite _ off _ => stagesLow off.toNat
  | .highWordWrite _ off _ => highOk off.toNat
  | .registerWrite _ off v => registerOk off.toNat v
  | .portEnableWrite _ _ v => !v.getLsbD 3
  | .portRetrainWrite _ _ v => v.getLsbD 3
  | .clkGateWrite _ a _ => commonPage a.toNat
  | .servingConfigWrite _ _ o _ => servOffset o.toNat
  | .interferenceWindowEnd _ w => winCountsOk w
  | .getStatus h _ => vendorOk 1 h
  | .setAllot h _ => vendorOk 2 h
  | .getForecast h _ => vendorOk 3 h
  | .setPlanCap h _ => vendorOk 4 h
  | .setAlign h _ => vendorOk 5 h
  | .readFaultlog h _ => vendorOk 6 h
  | .readAlmanac h _ _ _ => vendorOk 7 h
  | .classify h _ _ => vendorOk 8 h
  | .attest h _ => vendorOk 9 h
  | .signedObject h _ _ _ _ => vendorOk 10 h
  | .subscribe _ h _ => vendorOk 11 h
  | .unknownOpcode _ w => (unknownCause w).isSome
    | .ldw .. | .lda .. | .trn .. | .dma .. | .dmaHandoffAccept .. | .dmaTransferDone .. | .mma .. | .mmt .. |
    .weightBankFilled .. | .arrayPassEnter .. | .drn .. | .drainRetire .. | .vopCpy .. | .vopAdd .. | .vopSub .. | .vopMul
    .. | .vopFma .. | .vopDiv .. | .vopSqrt .. | .vopMax .. | .vopMin .. | .vopExp .. | .vopTanh .. | .vopErf .. | .rsum ..
    | .rmax .. | .adamw .. | .gsq .. | .afapply .. | .glnInit .. | .glnAcc .. | .glnAdd .. | .glnFlush .. | .semw .. | .sems
    .. | .bar .. | .col .. | .chkForce .. | .chkRead .. | .step .. | .endStream .. | .launchStart .. | .streamFetchDone .. |
    .seqForwardIssue .. | .shadowCompare .. | .doorbell .. | .commandStart .. | .completionWrite .. | .nop .. | .launch .. |
    .seqrun .. | .copy .. | .fill .. | .copyDone .. | .coll .. | .begin .. | .commit .. | .abort .. | .rollback .. | .adopt
    .. | .stepReady .. | .lend .. | .remap .. | .retire .. | .resetCtx .. | .resetField .. | .resetPort .. | .expel .. |
    .rejoin .. | .managerKeys .. | .join .. | .leave .. | .swapClose .. | .swapLayer .. | .swapOpen .. | .collPacket .. |
    .sowPacket .. | .writePacket .. | .collectiveEnd .. | .collectiveTimeout .. | .nextPrefetch .. | .mirrorData .. |
    .mirrorBegin .. | .mirrorEnd .. | .mirrorAck .. | .mirrorTimeout .. | .tokenReady .. | .tokenCommit .. | .tokenAbort ..
    | .tokenMirrorCommit .. | .tokenMirrorRollback .. | .packetRoute .. | .abortSlot .. | .dataFlit .. | .idleFlit .. | .nak
    .. | .keyon .. | .nakResendTimeout .. | .keyRatchet .. | .laneSignalLoss .. | .detectSignal .. | .trainComplete .. |
    .alignComplete .. | .portStateTimeout .. | .ident .. | .kexMessage .. | .hbSend .. | .hbReceive .. | .heartbeatLoss .. |
    .mgmtPacket .. | .mgmtReassemblyTimeout .. | .granuleWrite .. | .granuleClearDone .. | .sheafShareWrite .. |
    .ctxMemWrite .. | .hbmRead .. | .scrubRead .. | .quotaWrite .. | .queueBind .. | .fuseBurnDone .. | .harrowTile .. |
    .harrowTimeout .. | .almanacRead .. | .almanacClassify .. | .almanacFlashWrite .. | .allotWrite .. | .planCapWrite .. |
    .fcAlignWrite .. | .forecastLatch .. | .interferenceLatch .. | .lowWordRead .. | .routeEntryCommit .. | .rcRead .. |
    .misalignedWrite .. | .devidWrite .. | .rxallocWrite .. | .clkOutWrite .. | .ifCtrlWrite .. | .bar2Read .. | .bar2Write
    .. | .functionLevelReset .. | .deviceReset .. | .bootStart .. | .bootVerify .. | .bootReady .. | .powerLoss .. |
    .regulatorFailure .. | .pwrBrakeAssert .. | .pwrBrakeRelease .. | .hostLinkTrain .. | .msixUnmask .. | .powerSample .. |
    .throttleEval .. | .clockLevelStep .. | .minuteBoundary .. | .thermalTrip .. | .thermalTripEnd .. | .analogTrip .. |
    .arraySleep .. | .furrowSleep .. | .fieldSleep .. | .furrowWake .. | .fieldWake .. | .monitorWindow .. | .pllWindow .. |
    .pllLockTimeout .. | .collectorTick .. | .quietPeriodExpiry .. | .streamWatchdog .. | .queueWatchdog .. | .dmaWatchdog
    .. | .portWatchdog .. | .fenceDrained .. | .fenceDrainTimeout .. | .slowdownWindowEnd .. | .ideKeyMessage .. |
    .doeAttest .. | .mctpControl .. | .pldmMonitor .. |
    .requestUpdate .. | .updateComponent .. | .cancelUpdate .. | .activateFirmware .. | .vopRetire .. | .glnRetire .. |
    .flitSlotTransmit .. | .ideIntegrityFailure .. | .converterStart .. | .thermalControl .. | .controlProcessorWatchdog ..
    | .configurationWrite .. | .dynamicAddressAssign .. | .eventAnswer .. | .firmwareDataResponse .. | .flashProgramDone ..
    | .jtagAccess .. => true

end Sys2Proof
end

