-- ==== Sys2Proof/Safety.lean ====
section
/-! DEFINITION. What a safe run is: sparse tables and memories in canonical form, fuses that are only ever burned, and
commands that the outside can give. -/

namespace Sys2Proof.Machine

/-- Every byte memory is in canonical form and every table that the block's operations look things up in has its keys
strictly rising, so that equal contents are equal data. -/
structure State.Canon (s : State) : Prop where
  hbm : s.hbm.wf granSize
  sheaf : s.sheaf.wf unit64K
  seedbed : s.seedbed.wf unit64K
  glean : s.glean.wf gleanUnit
  hostMem : s.hostMem.wf hostUnit
  regs : Store.Sorted s.regs
  pairs : Store.Sorted s.pairs
  streams : Store.Sorted s.streams
  furrows : Store.Sorted s.furrows
  ctxs : Store.Sorted s.ctxs
  dma : Store.Sorted s.dma
  sems : Store.Sorted s.sems
  barriers : Store.Sorted s.barriers
  regions : Store.Sorted s.regions
  coverage : Store.Sorted s.coverage
  queues : Store.Sorted s.queues
  ports : Store.Sorted s.ports
  engines : Store.Sorted s.engines
  serv : Store.Sorted s.serv
  hbmBad : Store.Sorted s.hbmBad

/-- R488: the fuses of `b` are those of `a` with nothing cleared: the burned security version is no lower, every revoked key
slot stays revoked, and the device secret, key hashes and roots are the same. -/
structure Fuses.Burned (a b : Fuses) : Prop where
  svn : a.svn ≤ b.svn
  revoked : ∀ i, a.revoked.testBit i = true → b.revoked.testBit i = true
  secret : b.secret = a.secret
  keyHash : b.keyHash = a.keyHash
  roots : b.roots = a.roots

/-- R110: the word behind the head, if fetched, did not come from an uncorrectable codeword, or the head is an END. -/
def State.NextSound (s : State) (p : At) : Prop :=
  (s.st p).buf.head?.any isEnd = true ∨ (s.st p).buf[1]? ≠ some none

/-- R113: the stream `i` may issue the instruction `w`: it runs a launch, is neither halted nor fenced, its furrow's issue
stage is not held, and `w` is its head word; the word after it is sound, and the next grant is the stream's (R112). -/
structure State.AtHead (s : State) (i : StreamId) (w : InstrWord) : Prop where
  runs : (s.st (atOf i)).cur.isSome = true
  notHalted : (s.st (atOf i)).state ≠ .halted
  unfenced : s.streamHeld i.field i.furrow i.ctx i.strm = false
  issues : s.issueHeld i.field i.furrow = false
  head : (s.st (atOf i)).buf.head? = some (some w)
  next : s.NextSound (atOf i)
  turn : s.mayGrant (atOf i) = true

/-- R113, R151: from `s` to `t` the head instruction of stream `i` has left the issue stage: the pc moved on by 16 bytes, the
word left the stream, `FUR_ISSUED` of the furrow counted; no other register and no other stream changed. -/
structure State.Issued (s t : State) (i : StreamId) : Prop where
  pc : (t.st (atOf i)).pc = (s.st (atOf i)).pc + 16
  buf : (t.st (atOf i)).buf = (s.st (atOf i)).buf.drop 1
  count : t.rf (R.FUR_ISSUED_COUNT i.field i.furrow) = satAdd32 (s.rf (R.FUR_ISSUED_COUNT i.field i.furrow)) 1
  regs : ∀ a, a ≠ A.FUR_ISSUED i.field i.furrow → t.reg a = s.reg a
  others : ∀ j : StreamId, j ≠ i → t.st (atOf j) = s.st (atOf j)

/-- R145, R146, R150: from `s` to `t` the head instruction `w` of stream `i` has halted its stream with cause `c`: nothing of the
instruction took effect, the stream's page shows the halt unless it still shows an earlier one, the furrow's illegal-instruction
source has its event, and a running step is blocked; no other stream changes. -/
structure State.Halted (s t : State) (i : StreamId) (w : InstrWord) (c : Nat) : Prop where
  state : (t.st (atOf i)).state = .halted
  cause : (t.st (atOf i)).haltCause = c
  pc : (t.st (atOf i)).pc = (s.st (atOf i)).pc
  buf : (t.st (atOf i)).buf = (s.st (atOf i)).buf
  others : ∀ j : StreamId, j ≠ i → t.st (atOf j) = s.st (atOf j)
  valid : t.rf (R.FUR_STRM_ERR_VALID i.field i.furrow (3 * i.ctx + i.strm)) = 1
  shows : s.rf (R.FUR_STRM_ERR_VALID i.field i.furrow (3 * i.ctx + i.strm)) = 0 →
    t.rf (R.FUR_STRM_ERR_CAUSE i.field i.furrow (3 * i.ctx + i.strm)) = c ∧
    t.rf (R.FUR_STRM_ERR_OPCODE i.field i.furrow (3 * i.ctx + i.strm)) = fld w 0 8 ∧
    t.rf (R.FUR_STRM_PC_LO_ADDR i.field i.furrow (3 * i.ctx + i.strm)) = (s.st (atOf i)).pc % 2 ^ 32
  frozen : s.rf (R.FUR_STRM_ERR_VALID i.field i.furrow (3 * i.ctx + i.strm)) = 1 →
    t.reg (A.FUR_STRM_ERR i.field i.furrow (3 * i.ctx + i.strm)) = s.reg (A.FUR_STRM_ERR i.field i.furrow (3 * i.ctx + i.strm)) ∧
    t.reg (A.FUR_STRM_PC_LO i.field i.furrow (3 * i.ctx + i.strm)) = s.reg (A.FUR_STRM_PC_LO i.field i.furrow (3 * i.ctx + i.strm))
  source : (t.rf (R.ERR_STAT_STAT (Page.furrowBase i.field i.furrow))).testBit 1 = true
  blocked : s.cstate i.ctx = stRunning → t.cstate i.ctx = stBlocked ∧ (t.rf (R.CMT_CSTAT_BLOCK i.ctx)).testBit 0 = true
  rest : { t with regs := s.regs, streams := s.streams, pairs := s.pairs } = s

/-- R113, R115, R145: the MMA or MMT `w` is at the head of stream `i`, ready and legal. -/
structure State.MayMma (s : State) (i : StreamId) (w : InstrWord) : Prop where
  head : s.AtHead i w
  ready : s.mmaWait (atOf i) w = none
  legal : mmaCause s (atOf i) w (mmaFields w) (mmaSpans (s.st (atOf i)) (mmaFields w)) = none

/-- R113, R115, R145: the vector operation `w` is at the head of stream `i`, ready and legal. -/
structure State.MayVop (s : State) (i : StreamId) (w : InstrWord) : Prop where
  head : s.AtHead i w
  ready : s.vopWait (atOf i) w = none
  legal : vopCause s (atOf i) w (vopFields w) (vopSpans (vopFields w)) = none

/-- R203: the parameter record of an optimiser entry. -/
def State.optRecord (s : State) (i : StreamId) (w : InstrWord) : List Byte := s.optRecordAt (atOf i) (vopFields w)

/-- R208: the row header of an AFAPPLY. -/
def State.optHeader (s : State) (i : StreamId) (w : InstrWord) : List Byte := s.optHeaderAt (atOf i) (vopFields w)

/-- R113, R115, R145: the optimiser entry `w` is at the head of stream `i`, ready and legal. -/
structure State.MayOpt (s : State) (i : StreamId) (w : InstrWord) : Prop where
  head : s.AtHead i w
  ready : s.optWait (atOf i) w = none
  legal : optCause s (atOf i) w (vopFields w) (s.optRecord i w) (s.optHeader i w)
    (optSpans (vopFields w) (s.optRecord i w) (s.optHeader i w)) = none

/-- R113, R115, R145: the gleaning operation `w` is at the head of stream `i`, ready and legal. -/
structure State.MayGln (s : State) (i : StreamId) (w : InstrWord) : Prop where
  head : s.AtHead i w
  ready : s.glnWait (atOf i) w = none
  legal : glnCause s (atOf i) w (glnFields w) = none

/-- R132: the physical slot that a drain names. -/
def State.drnPhys (s : State) (i : StreamId) (w : InstrWord) : Nat := s.rf (R.FLD_ACQ_BASE i.ctx i.field) + (drnFields w).slot

/-- R113, R115, R145: the drain `w` is at the head of stream `i`, ready and legal. -/
structure State.MayDrn (s : State) (i : StreamId) (w : InstrWord) : Prop where
  head : s.AtHead i w
  ready : s.drnWait (atOf i) w = none
  legal : drnCause s (atOf i) w (drnFields w) (s.drnDesc (atOf i) (drnFields w)) (s.drnRanges (atOf i) (drnFields w)) = none

/-- R115: the seedbed bytes of a DMA's rows. -/
def State.dmaSpan (s : State) (i : StreamId) (w : InstrWord) : List Rng :=
  spansAt (s.seedBase i.field i.ctx) (dmaFields w).span

/-- R113, R115, R116, R145: the DMA `w` is at the head of stream `i`, ready and legal. -/
structure State.MayDma (s : State) (i : StreamId) (w : InstrWord) : Prop where
  head : s.AtHead i w
  ready : s.dmaWait (atOf i) w = none
  legal : dmaCause s (atOf i) w (dmaFields w) = none

/-- R143: the slot that a CHK names. -/
def State.chkSlot (s : State) (i : StreamId) (w : InstrWord) : Nat := s.rf (R.FLD_ACQ_BASE i.ctx i.field) + fld w 10 6

/-- R113, R115, R145: the CHK `w` is at the head of stream `i`, ready and legal. -/
structure State.MayChk (s : State) (i : StreamId) (w : InstrWord) : Prop where
  head : s.AtHead i w
  ready : s.chkWait (atOf i) w = none
  legal : chkCause s (atOf i) w ((s.fur i.field i.furrow).slot (s.chkSlot i w)) = none

/-- R259: the descriptor of a COL as memory holds it. -/
def State.colWord (s : State) (i : StreamId) (w : InstrWord) : Desc := Desc.parse (s.peekHbm (s.colDesc (atOf i) w) 128)

/-- R113, R115, R145, R258: the COL `w` is at the head of stream `i`, ready and legal. -/
structure State.MayCol (s : State) (i : StreamId) (w : InstrWord) : Prop where
  head : s.AtHead i w
  ready : s.colWait (atOf i) w = none
  reserved : fld w 12 4 = 0 ∧ fld w 56 72 = 0
  descriptor : s.inPartition i.ctx (s.colDesc (atOf i) w) 128 = true
  table : s.inPartition i.ctx (s.colWord i w).grp (s.colWord i w).tableBytes = true
  open_ : s.afterStep (atOf i) = false

/-- Every command that waits is one that the outside can give (log 45). -/
def State.PendingWf (s : State) : Prop := ∀ c ∈ s.pending, c.wf = true

/-! ### What a command can change -/

/-- The parts of the state, one for each field of `State`. -/
inductive StPart where
  | pending | freeCtr | now | regs | rdLatch | wrStage | ifLatch | rdata | b2data | hostMem | msgs | msixOn | msixOpen
  | msixPend | funcMask | hbm | hbmBad | clearing | scrubAt | sheaf | seedbed | glean | furrows | streams | dma
  | shadows | sems | barriers | seqRuns | ctxs | regions | coverage | fences | pairs | fcolLog | hangLog | queues
  | copies | ports | inbox | engines | serv | flash | fuses | staged | heldBack | lastMma | sec | pwr | clk | mg | pins
  | vfs | bar2Pf | bar2Vf | qmLast
deriving DecidableEq, Repr

/-- A part is the same in two states. -/
def StPart.Same (s t : State) : StPart → Prop
  | .pending => t.pending = s.pending
  | .freeCtr => t.freeCtr = s.freeCtr
  | .now => t.now = s.now
  | .regs => t.regs = s.regs
  | .rdLatch => t.rdLatch = s.rdLatch
  | .wrStage => t.wrStage = s.wrStage
  | .ifLatch => t.ifLatch = s.ifLatch
  | .rdata => t.rdata = s.rdata
  | .b2data => t.b2data = s.b2data
  | .hostMem => t.hostMem = s.hostMem
  | .msgs => t.msgs = s.msgs
  | .msixOn => t.msixOn = s.msixOn
  | .msixOpen => t.msixOpen = s.msixOpen
  | .msixPend => t.msixPend = s.msixPend
  | .funcMask => t.funcMask = s.funcMask
  | .hbm => t.hbm = s.hbm
  | .hbmBad => t.hbmBad = s.hbmBad
  | .clearing => t.clearing = s.clearing
  | .scrubAt => t.scrubAt = s.scrubAt
  | .sheaf => t.sheaf = s.sheaf
  | .seedbed => t.seedbed = s.seedbed
  | .glean => t.glean = s.glean
  | .furrows => t.furrows = s.furrows
  | .streams => t.streams = s.streams
  | .dma => t.dma = s.dma
  | .shadows => t.shadows = s.shadows
  | .sems => t.sems = s.sems
  | .barriers => t.barriers = s.barriers
  | .seqRuns => t.seqRuns = s.seqRuns
  | .ctxs => t.ctxs = s.ctxs
  | .regions => t.regions = s.regions
  | .coverage => t.coverage = s.coverage
  | .fences => t.fences = s.fences
  | .pairs => t.pairs = s.pairs
  | .fcolLog => t.fcolLog = s.fcolLog
  | .hangLog => t.hangLog = s.hangLog
  | .queues => t.queues = s.queues
  | .copies => t.copies = s.copies
  | .ports => t.ports = s.ports
  | .inbox => t.inbox = s.inbox
  | .engines => t.engines = s.engines
  | .serv => t.serv = s.serv
  | .flash => t.flash = s.flash
  | .fuses => t.fuses = s.fuses
  | .staged => t.staged = s.staged
  | .heldBack => t.heldBack = s.heldBack
  | .lastMma => t.lastMma = s.lastMma
  | .sec => t.sec = s.sec
  | .pwr => t.pwr = s.pwr
  | .clk => t.clk = s.clk
  | .mg => t.mg = s.mg
  | .pins => t.pins = s.pins
  | .vfs => t.vfs = s.vfs
  | .bar2Pf => t.bar2Pf = s.bar2Pf
  | .bar2Vf => t.bar2Vf = s.bar2Vf
  | .qmLast => t.qmLast = s.qmLast

/-- The two states differ in the listed parts only. -/
def State.SameBut (s t : State) (l : List StPart) : Prop := ∀ p : StPart, p ∉ l → p.Same s t

/-- R345, R493: function `u` may write the register at offset `a` now: the access is served, the function is enabled and
reaches the register. -/
structure State.MayWrite (s : State) (u : Fin 64) (a : Nat) : Prop where
  served : s.served a = true
  enabled : s.funcEnabled u = true
  reach : s.reach u a = .rw

/-! ### Queue commands (R359) -/

/-- R359: the word `w` with opcode `opc` stands at the start position of queue `q`, decided and free to start, and no command
still in the queue has its number. -/
structure State.MayRun (s : State) (q opc : Nat) (w : CmdWord) : Prop where
  head : (s.queue q).head = some w
  go : (s.queue q).go = true
  opc : CmdWord.opc w = opc
  moves : s.mayStart q = true
  starts : s.startVerdict q (s.qStart q) w = .go
  fresh : s.cmd? q (s.qStart q) = none

/-- R359: the record of the word at the start position of queue `q` once it has passed it; a bound one belongs to its step. -/
def State.recAt (s : State) (q : Nat) (w : CmdWord) (fin : Option (Nat × Nat)) : QCmd :=
  recordOf w (s.qStart q) (if CmdWord.bound w then some (CmdWord.step w) else none) fin

/-- R359: the state in which the word at the start position of queue `q` takes effect. -/
def State.started (s : State) (q : Nat) (w : CmdWord) : State := s.passStart q (s.recAt q w none)

/-- R359, R370: `t` is `v` but for the command's own record and the job counters; a queue that the effect has left as it was
now ends with the command's record, of status OK. -/
structure State.Ran (s t v : State) (q : Nat) (w : CmdWord) : Prop where
  parts : v.SameBut t [.regs, .queues]
  regs : ∀ a, (∀ u, u < 64 → a ≠ A.HIF_JOB_LO u ∧ a ≠ A.HIF_JOB_HI u) → t.reg a = v.reg a
  done : v.queues = (s.started q w).queues →
    t.queue q = { s.queue q with head := none, go := false, cmds := (s.queue q).cmds ++ [s.recAt q w (some (okStatus, 0))] } ∧
    ∀ r, r ≠ q → t.queue r = s.queue r

/-- R359, R370: `t` is `v` but for the command's own record and the job counters; a queue that the effect has left as it was
now ends with the command's record, still open. -/
structure State.Began (s t v : State) (q : Nat) (w : CmdWord) : Prop where
  parts : v.SameBut t [.regs, .queues]
  regs : ∀ a, (∀ u, u < 64 → a ≠ A.HIF_JOB_LO u ∧ a ≠ A.HIF_JOB_HI u) → t.reg a = v.reg a
  opened : v.queues = (s.started q w).queues →
    t.queue q = { s.queue q with head := none, go := false, cmds := (s.queue q).cmds ++ [s.recAt q w none] } ∧
    ∀ r, r ≠ q → t.queue r = s.queue r

end Sys2Proof.Machine

namespace Sys2Proof

open Sys2Proof.Machine

/-- The parts of the state that a command can change; the others it leaves as they are. -/
def Instr.touches : Instr → List StPart
  | .ldw .. | .lda .. | .trn .. | .streamFetchDone .. | .unknownOpcode .. =>
    [.regs, .streams, .pairs]
  | .dma .. =>
    [.regs, .streams, .dma, .sems, .pairs]
  | .dmaHandoffAccept .. =>
    [.dma]
  | .dmaTransferDone .. =>
    [.regs, .msgs, .msixPend, .hbm, .hbmBad, .sheaf, .seedbed, .dma, .sems, .ctxs, .regions, .coverage, .pairs,
    .ports, .inbox]
  | .mma .. | .mmt .. =>
    [.regs, .furrows, .streams, .pairs, .lastMma, .pwr]
  | .weightBankFilled .. | .arrayPassEnter .. =>
    [.regs, .seedbed, .furrows, .pairs]
  | .drn .. =>
    [.regs, .seedbed, .furrows, .streams, .shadows, .pairs]
  | .drainRetire .. =>
    [.regs, .seedbed, .furrows, .streams, .ctxs, .pairs]
  | .vopCpy .. | .vopAdd .. | .vopSub .. | .vopMul .. | .vopFma .. | .vopDiv .. | .vopSqrt .. | .vopMax .. | .vopMin ..
  | .vopExp .. | .vopTanh .. | .vopErf .. | .rsum .. | .rmax .. | .adamw .. | .gsq .. | .afapply .. =>
    [.regs, .seedbed, .furrows, .streams, .shadows, .ctxs, .pairs, .pwr]
  | .glnInit .. | .glnAcc .. | .glnAdd .. | .glnFlush .. =>
    [.regs, .seedbed, .glean, .furrows, .streams, .ctxs, .pairs]
  | .semw .. | .sems .. =>
    [.regs, .streams, .sems, .pairs]
  | .bar .. =>
    [.regs, .streams, .barriers, .pairs]
  | .col .. =>
    [.freeCtr, .regs, .msgs, .msixPend, .hbm, .hbmBad, .seedbed, .streams, .sems, .ctxs, .regions, .coverage,
    .pairs, .queues, .ports, .inbox, .engines, .serv]
  | .chkForce .. | .chkRead .. =>
    [.regs, .seedbed, .furrows, .streams, .pairs]
  | .step .. =>
    [.regs, .msgs, .msixPend, .hbm, .hbmBad, .streams, .ctxs, .regions, .coverage, .pairs, .ports, .inbox]
  | .endStream .. =>
    [.regs, .streams, .pairs, .queues]
  | .launchStart .. =>
    [.regs, .streams, .queues]
  | .seqForwardIssue .. =>
    [.seqRuns]
  | .shadowCompare .. =>
    [.freeCtr, .regs, .furrows, .shadows, .pairs, .staged, .heldBack]
  | .doorbell .. =>
    [.regs, .ctxs, .pairs]
  | .commandStart .. =>
    [.regs, .pairs, .queues, .qmLast]
  | .completionWrite .. =>
    [.regs, .hostMem, .msgs, .msixPend, .hbm, .hbmBad, .regions, .coverage, .pairs, .queues, .ports, .inbox]
  | .nop .. | .join .. =>
    [.regs, .queues]
  | .launch .. | .seqrun .. =>
    [.regs, .streams, .seqRuns, .ctxs, .pairs, .queues]
  | .copy .. | .fill .. =>
    [.regs, .queues, .copies]
  | .copyDone .. =>
    [.regs, .hostMem, .msgs, .msixPend, .hbm, .hbmBad, .ctxs, .regions, .coverage, .pairs, .queues, .copies, .ports,
    .inbox]
  | .coll .. | .lend .. | .swapLayer .. | .collectiveEnd .. | .collectiveTimeout .. | .nextPrefetch ..
  | .clkGateWrite .. =>
    [.freeCtr, .regs, .msgs, .msixPend, .hbm, .hbmBad, .seedbed, .sems, .ctxs, .regions, .coverage, .pairs, .queues,
    .ports, .inbox, .engines, .serv]
  | .begin .. =>
    [.freeCtr, .regs, .msgs, .msixPend, .hbm, .hbmBad, .seedbed, .streams, .sems, .barriers, .ctxs, .regions,
    .coverage, .pairs, .queues, .ports, .inbox, .engines, .serv]
  | .commit .. | .stepReady .. | .tokenReady .. | .tokenCommit .. =>
    [.regs, .hostMem, .msgs, .msixPend, .hbm, .hbmBad, .ctxs, .regions, .coverage, .pairs, .queues, .ports, .inbox,
    .engines, .serv]
  | .abort .. | .tokenAbort .. =>
    [.freeCtr, .regs, .hostMem, .msgs, .msixPend, .hbm, .hbmBad, .sheaf, .seedbed, .glean, .furrows, .streams, .dma,
    .shadows, .sems, .barriers, .seqRuns, .ctxs, .regions, .coverage, .fences, .pairs, .queues, .copies, .ports,
    .inbox, .engines, .serv]
  | .rollback .. =>
    [.regs, .regions, .pairs, .queues, .ports, .inbox]
  | .adopt .. =>
    [.regs, .msgs, .msixPend, .regions, .queues, .engines, .serv]
  | .remap .. =>
    [.regs, .seedbed, .glean, .furrows, .shadows, .pairs, .queues, .staged, .heldBack, .pwr]
  | .retire .. =>
    [.regs, .shadows, .pairs, .queues, .staged, .heldBack, .pwr]
  | .resetCtx .. =>
    [.freeCtr, .regs, .wrStage, .ifLatch, .hostMem, .msgs, .msixPend, .hbm, .hbmBad, .sheaf, .seedbed, .glean,
    .furrows, .streams, .dma, .shadows, .sems, .barriers, .seqRuns, .ctxs, .regions, .coverage, .fences, .pairs,
    .queues, .copies, .ports, .inbox, .engines, .serv, .sec]
  | .resetField .. =>
    [.freeCtr, .regs, .wrStage, .hostMem, .msgs, .msixPend, .hbm, .hbmBad, .scrubAt, .sheaf, .seedbed, .glean,
    .furrows, .streams, .dma, .shadows, .sems, .barriers, .seqRuns, .ctxs, .regions, .coverage, .fences, .pairs,
    .queues, .copies, .ports, .inbox, .engines, .serv, .staged, .heldBack, .lastMma, .pwr]
  | .resetPort .. =>
    [.freeCtr, .regs, .hbm, .hbmBad, .seedbed, .regions, .coverage, .fences, .pairs, .queues, .ports, .inbox,
    .engines]
  | .expel .. | .rejoin .. | .managerKeys .. =>
    [.regs, .fences, .pairs, .queues, .ports, .flash, .staged, .heldBack]
  | .leave .. | .swapClose .. =>
    [.regs, .msgs, .msixPend, .queues, .engines, .serv]
  | .swapOpen .. =>
    [.regs, .queues, .serv]
  | .collPacket .. | .sowPacket .. =>
    [.freeCtr, .regs, .hbm, .hbmBad, .seedbed, .regions, .coverage, .pairs, .ports, .inbox, .engines]
  | .writePacket .. | .mirrorData .. | .hbmPartialWrite .. | .bar2Write .. =>
    [.regs, .hbm, .hbmBad, .regions, .coverage, .pairs, .ports, .inbox]
  | .mirrorBegin .. | .mirrorEnd .. | .mirrorAck .. | .tokenMirrorCommit .. | .tokenMirrorRollback .. =>
    [.regs, .regions, .pairs, .ports, .inbox]
  | .mirrorTimeout .. =>
    [.regs, .regions, .pairs]
  | .packetRoute .. | .abortSlot .. =>
    [.regs, .pairs, .ports, .inbox]
  | .dataFlit .. | .idleFlit .. | .nak .. | .keyon .. | .laneSignalLoss .. | .portStateTimeout .. | .ident ..
  | .kexMessage .. | .portEnableWrite .. | .portRetrainWrite .. | .devidWrite .. | .rxallocWrite ..
  | .flitSlotTransmit .. =>
    [.regs, .pairs, .ports]
  | .nakResendTimeout .. | .keyRatchet .. | .hbSend .. =>
    [.ports]
  | .detectSignal .. | .trainComplete .. | .alignComplete .. | .hbReceive .. =>
    [.regs, .ports]
  | .heartbeatLoss .. | .sheafShareWrite .. | .svnCommit .. | .errorForce .. | .wireTest .. | .misalignedWrite ..
  | .clkOutWrite .. | .ifCtrlWrite .. =>
    [.regs, .pairs]
  | .mgmtPacket .. =>
    [.regs, .fences, .pairs, .ports, .inbox, .flash, .staged, .heldBack, .sec]
  | .mgmtReassemblyTimeout .. =>
    [.regs, .sec]
  | .granuleWrite .. =>
    [.regs, .hbm, .hbmBad, .clearing, .pairs]
  | .granuleClearDone .. =>
    [.freeCtr, .regs, .msgs, .msixPend, .hbm, .hbmBad, .clearing, .seedbed, .sems, .ctxs, .regions, .coverage,
    .pairs, .queues, .ports, .inbox, .engines, .serv]
  | .ctxMemWrite .. =>
    [.freeCtr, .regs, .hbm, .hbmBad, .pairs]
  | .hbmRead .. =>
    [.regs, .b2data, .hbmBad, .pairs]
  | .scrubRead .. =>
    [.regs, .hbmBad, .scrubAt, .pairs]
  | .contextCreate .. | .contextDestroy .. =>
    [.freeCtr, .regs, .wrStage, .ifLatch, .msgs, .msixPend, .hbm, .hbmBad, .sheaf, .seedbed, .glean, .furrows,
    .streams, .dma, .shadows, .sems, .barriers, .seqRuns, .ctxs, .regions, .coverage, .fences, .pairs, .queues,
    .ports, .inbox, .engines, .serv, .sec]
  | .quotaWrite .. =>
    [.freeCtr, .regs, .seedbed, .glean, .furrows, .pairs]
  | .regionValidate .. | .regionInvalidate .. =>
    [.regs, .regions, .coverage, .pairs]
  | .queueEnable .. | .queueDisable .. =>
    [.regs, .streams, .seqRuns, .fences, .pairs, .queues, .copies, .engines, .serv]
  | .queueBind .. =>
    [.regs, .pairs, .queues]
  | .keyLoad .. | .keyClear .. =>
    [.freeCtr, .regs, .hbm, .hbmBad, .pairs, .sec]
  | .updateBegin .. | .updateData .. | .updateFinish .. | .updateCancel .. =>
    [.freeCtr, .regs, .pairs, .flash, .sec]
  | .fuseBurnDone .. =>
    [.regs, .pairs, .fuses]
  | .debugToken .. =>
    [.freeCtr, .regs, .pairs, .sec]
  | .harrowGo .. | .harrowStop .. =>
    [.freeCtr, .regs, .pairs, .staged, .heldBack]
  | .harrowTile .. =>
    [.freeCtr, .regs, .furrows, .pairs, .staged, .heldBack, .lastMma]
  | .harrowTimeout .. =>
    [.regs, .pairs, .staged, .heldBack]
  | .almanacRead .. | .almanacClassify .. | .readAlmanac .. =>
    [.regs, .pairs, .mg]
  | .almanacFlashWrite .. =>
    [.regs, .pairs, .flash, .staged]
  | .allotWrite .. | .planCapWrite .. | .fcAlignWrite .. | .powerSample .. | .thermalTrip .. =>
    [.regs, .pairs, .pwr, .mg]
  | .forecastLatch .. | .interferenceLatch .. | .lowWordRead .. | .rcRead .. =>
    [.freeCtr, .regs, .rdLatch, .ifLatch, .rdata, .pairs]
  | .lowWordWrite .. | .highWordWrite .. | .registerWrite .. =>
    [.freeCtr, .regs, .wrStage, .ifLatch, .msgs, .msixPend, .hbm, .hbmBad, .clearing, .sheaf, .seedbed, .glean,
    .furrows, .streams, .dma, .shadows, .sems, .barriers, .seqRuns, .ctxs, .regions, .coverage, .fences, .pairs,
    .queues, .copies, .ports, .inbox, .engines, .serv, .flash, .staged, .heldBack, .sec, .pwr, .mg]
  | .routeEntryCommit .. | .servingConfigWrite .. =>
    [.regs, .wrStage, .pairs]
  | .bar2Read .. =>
    [.regs, .b2data, .pairs]
  | .functionLevelReset .. =>
    [.freeCtr, .regs, .wrStage, .ifLatch, .msgs, .msixOn, .msixOpen, .msixPend, .funcMask, .hbm, .hbmBad, .sheaf,
    .seedbed, .glean, .furrows, .streams, .dma, .shadows, .sems, .barriers, .seqRuns, .ctxs, .regions, .coverage,
    .fences, .pairs, .queues, .copies, .ports, .inbox, .engines, .serv, .sec]
  | .deviceReset .. | .powerLoss .. =>
    [.freeCtr, .now, .regs, .rdLatch, .wrStage, .ifLatch, .rdata, .b2data, .msixOn, .msixOpen, .msixPend, .funcMask,
    .hbm, .hbmBad, .clearing, .scrubAt, .sheaf, .seedbed, .glean, .furrows, .streams, .dma, .shadows, .sems,
    .barriers, .seqRuns, .ctxs, .regions, .coverage, .fences, .pairs, .fcolLog, .hangLog, .queues, .copies, .ports,
    .inbox, .engines, .serv, .staged, .heldBack, .lastMma, .sec, .pwr, .clk, .mg, .pins, .vfs, .bar2Pf, .bar2Vf,
    .qmLast]
  | .bootStart .. =>
    [.regs, .pins]
  | .bootVerify .. =>
    [.regs, .flash, .sec]
  | .bootReady .. | .getStatus .. | .getForecast .. | .readFaultlog .. | .classify .. | .subscribe ..
  | .requestUpdate .. | .updateComponent .. | .cancelUpdate .. | .activateFirmware .. | .eventAnswer .. =>
    [.regs, .mg]
  | .regulatorFailure .. | .controlProcessorWatchdog .. =>
    [.regs, .msgs, .msixPend, .fences, .pairs, .ports]
  | .pwrBrakeAssert .. | .pwrBrakeRelease .. | .throttleEval .. | .minuteBoundary .. | .analogTrip .. | .setAllot ..
  | .setPlanCap .. | .setAlign .. =>
    [.regs, .pwr, .mg]
  | .hostLinkTrain .. | .clockLevelStep .. | .fieldSleep .. | .interferenceWindowEnd .. | .slowdownWindowEnd ..
  | .dynamicAddressAssign .. =>
    [.regs]
  | .msixUnmask .. =>
    [.msgs, .msixOpen, .msixPend]
  | .thermalTripEnd .. =>
    [.freeCtr, .regs, .msgs, .msixPend, .hbm, .hbmBad, .seedbed, .sems, .ctxs, .regions, .coverage, .pairs, .queues,
    .ports, .inbox, .engines, .serv, .pwr, .mg]
  | .arraySleep .. | .furrowSleep .. | .furrowWake .. =>
    [.pwr]
  | .fieldWake .. =>
    [.freeCtr, .regs, .hostMem, .msgs, .msixPend, .hbm, .hbmBad, .sheaf, .seedbed, .glean, .furrows, .streams, .dma,
    .shadows, .sems, .barriers, .seqRuns, .ctxs, .regions, .coverage, .fences, .pairs, .queues, .copies, .ports,
    .inbox, .engines, .serv, .pwr]
  | .monitorWindow .. =>
    [.freeCtr, .regs, .msgs, .msixPend, .fences, .pairs, .ports, .sec, .clk]
  | .pllWindow .. =>
    [.regs, .fences, .pairs, .ports, .clk]
  | .pllLockTimeout .. =>
    [.regs, .fences, .pairs, .ports]
  | .collectorTick .. =>
    [.now, .regs, .msgs, .msixPend, .sheaf, .seedbed, .glean, .streams, .fences, .pairs, .fcolLog, .ports, .flash, .staged,
    .heldBack, .pwr, .mg]
  | .quietPeriodExpiry .. =>
    [.now, .regs, .msgs, .msixPend, .flash, .pwr]
  | .streamWatchdog .. | .queueWatchdog .. | .dmaWatchdog .. =>
    [.regs, .fences, .pairs, .hangLog]
  | .portWatchdog .. =>
    [.regs, .fences, .pairs, .hangLog, .ports]
  | .fenceDrained .. =>
    [.fences]
  | .fenceDrainTimeout .. =>
    [.freeCtr, .regs, .msgs, .msixPend, .hbm, .hbmBad, .seedbed, .streams, .dma, .sems, .seqRuns, .ctxs, .regions,
    .coverage, .fences, .pairs, .queues, .copies, .ports, .inbox, .engines, .serv]
  | .ideKeyMessage .. =>
    [.freeCtr, .regs, .sec]
  | .doeAttest .. =>
    [.freeCtr, .sec]
  | .attest .. | .mctpControl .. | .pldmMonitor .. =>
    [.freeCtr, .regs, .mg]
  | .signedObject .. =>
    [.regs, .fences, .pairs, .ports, .flash, .staged, .heldBack, .mg]
  | .vopRetire .. | .glnRetire .. =>
    [.furrows]
  | .ideIntegrityFailure .. =>
    [.regs, .pairs, .sec]
  | .converterStart .. =>
    [.pins]
  | .thermalControl .. =>
    [.regs, .pairs, .pwr]
  | .configurationWrite .. =>
    [.freeCtr, .regs, .wrStage, .ifLatch, .msgs, .msixOn, .msixOpen, .msixPend, .funcMask, .hbm, .hbmBad, .sheaf,
    .seedbed, .glean, .furrows, .streams, .dma, .shadows, .sems, .barriers, .seqRuns, .ctxs, .regions, .coverage,
    .fences, .pairs, .queues, .copies, .ports, .inbox, .engines, .serv, .sec, .vfs, .bar2Pf, .bar2Vf]
  | .firmwareDataResponse .. =>
    [.regs, .pairs, .flash, .sec, .mg]
  | .flashProgramDone .. =>
    [.regs, .pairs, .flash, .mg]
  | .jtagAccess .. =>
    [.freeCtr, .pins]

end Sys2Proof
end

