-- ==== Sys2Proof/Certificates/Slice0/Obligations.lean ====
section
/-! DEFINITION. The statements for the provers. -/

open Sys2Proof Sys2Proof.Machine

/-! ### Tile instructions -/

/-- R126, R128, R177: LDW binds the weight port that its `PORT` names, LDA the activation operand, TRN a turned operand to a
weight port (`TGT` 0) or to the activation operand; the other bindings stay. Nothing but the stream and `FUR_ISSUED`
changes. -/
def Obligations.BindingReplacesOneOperand : Prop :=
  ∀ (i : StreamId) (body : BitVec 120) (s : State), s.Canon →
    (s.AtHead i (tileWord 1 body) → bindingCause s (atOf i) (tileWord 1 body) = none →
      ∃ t, exec (.ldw i body) s = .next t ∧ s.Issued t i ∧ { t with regs := s.regs, streams := s.streams } = s ∧
        (t.st (atOf i)).bindA = (s.st (atOf i)).bindA ∧
        (t.st (atOf i)).bindW = (s.st (atOf i)).bindW.set (fld (tileWord 1 body) 8 2) (some (bindingOf false (tileWord 1 body)))) ∧
    (s.AtHead i (tileWord 2 body) → bindingCause s (atOf i) (tileWord 2 body) = none →
      ∃ t, exec (.lda i body) s = .next t ∧ s.Issued t i ∧ { t with regs := s.regs, streams := s.streams } = s ∧
        (t.st (atOf i)).bindA = some (bindingOf false (tileWord 2 body)) ∧
        (t.st (atOf i)).bindW = (s.st (atOf i)).bindW) ∧
    (s.AtHead i (tileWord 3 body) → bindingCause s (atOf i) (tileWord 3 body) = none →
      ∃ t, exec (.trn i body) s = .next t ∧ s.Issued t i ∧ { t with regs := s.regs, streams := s.streams } = s ∧
        (if fld (tileWord 3 body) 14 1 = 0 then
          (t.st (atOf i)).bindA = (s.st (atOf i)).bindA ∧
          (t.st (atOf i)).bindW = (s.st (atOf i)).bindW.set (fld (tileWord 3 body) 8 2) (some (bindingOf true (tileWord 3 body)))
        else
          (t.st (atOf i)).bindA = some (bindingOf true (tileWord 3 body)) ∧
          (t.st (atOf i)).bindW = (s.st (atOf i)).bindW))

/-- R119, R120: SEMW passes once the semaphore has reached its threshold, taking the threshold off where `SUB` is set, and
waits below it; SEMS, once every earlier instruction of its stream has retired, adds its value, saturating. No other
semaphore changes. -/
def Obligations.SemaphoreWaitAndSignal : Prop :=
  ∀ (i : StreamId) (body : BitVec 120) (s : State), s.Canon → (s.st (atOf i)).stepped = false →
    (s.AtHead i (tileWord 0x40 body) → fld (tileWord 0x40 body) 17 15 = 0 → fld (tileWord 0x40 body) 64 64 = 0 →
      (fld (tileWord 0x40 body) 32 32 ≤ s.sem i.field i.ctx (fld (tileWord 0x40 body) 8 8) →
        ∃ t, exec (.semw i body) s = .next t ∧ s.Issued t i ∧
          { t with regs := s.regs, streams := s.streams, sems := s.sems } = s ∧
          t.sem i.field i.ctx (fld (tileWord 0x40 body) 8 8) =
            (if fld (tileWord 0x40 body) 16 1 = 1 then
              s.sem i.field i.ctx (fld (tileWord 0x40 body) 8 8) - fld (tileWord 0x40 body) 32 32
            else s.sem i.field i.ctx (fld (tileWord 0x40 body) 8 8)) ∧
          ∀ (f : Fin 4) (c : Fin 64) (n : Fin 256),
            (f, c, n.val) ≠ (i.field, i.ctx, fld (tileWord 0x40 body) 8 8) → t.sem f c n = s.sem f c n) ∧
      (s.sem i.field i.ctx (fld (tileWord 0x40 body) 8 8) < fld (tileWord 0x40 body) 32 32 →
        ∃ t, exec (.semw i body) s = .next t ∧ { t with streams := s.streams } = s ∧
          (t.st (atOf i)).wait = .semaphore ∧ (t.st (atOf i)).pc = (s.st (atOf i)).pc)) ∧
    (s.AtHead i (tileWord 0x41 body) → fld (tileWord 0x41 body) 16 16 = 0 → fld (tileWord 0x41 body) 64 64 = 0 →
      s.allRetired (atOf i) = true →
        ∃ t, exec (.sems i body) s = .next t ∧ s.Issued t i ∧
          { t with regs := s.regs, streams := s.streams, sems := s.sems } = s ∧
          t.sem i.field i.ctx (fld (tileWord 0x41 body) 8 8) =
            satAdd32 (s.sem i.field i.ctx (fld (tileWord 0x41 body) 8 8)) (fld (tileWord 0x41 body) 32 32) ∧
          ∀ (f : Fin 4) (c : Fin 64) (n : Fin 256),
            (f, c, n.val) ≠ (i.field, i.ctx, fld (tileWord 0x41 body) 8 8) → t.sem f c n = s.sem f c n)

/-- R123 (and the arrivals of R122): a BAR, once every earlier instruction of its stream has retired (and, where `QD` is set, no
transfer is outstanding), arrives. The first arrival fixes the count; an arrival that is not the last leaves the stream waiting at
the barrier with that count kept; the last one releases it. An arrival with a different count halts its stream with cause 8 and
is not counted: every barrier stays as it was. -/
def Obligations.BarrierArrivalAndRelease : Prop :=
  ∀ (i : StreamId) (body : BitVec 120) (s : State) (w : InstrWord) (key n : Nat), s.Canon → w = tileWord 0x48 body →
    s.AtHead i w → (s.st (atOf i)).arrived = none → (s.st (atOf i)).stepped = false → s.allRetired (atOf i) = true →
    (fld w 14 1 = 0 ∨ s.outstanding (atOf i) = 0) → fld w 15 1 = 0 → fld w 28 100 = 0 → fld w 8 2 ≠ 3 → fld w 16 12 ≠ 0 →
    key = barKey (atOf i) (fld w 8 2) (fld w 10 4) → n = ((sget? s.barriers key).map Barrier.arrivals).getD 0 →
      ((∀ b, sget? s.barriers key = some b → b.count = fld w 16 12) → n + 1 < fld w 16 12 →
        ∃ t, exec (.bar i body) s = .next t ∧ { t with streams := s.streams, barriers := s.barriers } = s ∧
          sget? t.barriers key = some ⟨fld w 16 12, n + 1⟩ ∧ (∀ k, k ≠ key → sget? t.barriers k = sget? s.barriers k) ∧
          t.st (atOf i) = { s.st (atOf i) with arrived := some key, state := .waiting, wait := .barrier } ∧
          ∀ j, j ≠ i → t.st (atOf j) = s.st (atOf j)) ∧
      ((∀ b, sget? s.barriers key = some b → b.count = fld w 16 12) → fld w 16 12 ≤ n + 1 →
        ∃ t, exec (.bar i body) s = .next t ∧ sget? t.barriers key = none ∧
          t = (s.setSt (atOf i) { s.st (atOf i) with arrived := some key, state := .waiting, wait := .barrier }).releaseBarrier
            i.ctx key) ∧
      ∀ b, sget? s.barriers key = some b → b.count ≠ fld w 16 12 →
        ∃ t, exec (.bar i body) s = .next t ∧ s.Halted t i w 8 ∧ t.barriers = s.barriers

/-- R144: STEP, once every earlier instruction has retired and no transfer or comparison is outstanding, marks its stream as
stepped and posts the loss its `LOSS` bit names; then follows what every stream's STEP makes due. END, once every earlier
instruction has retired, returns the stream to idle and its launch has ended. -/
def Obligations.StepAndEnd : Prop :=
  ∀ (i : StreamId) (body : BitVec 120) (s : State), s.Canon →
    (∀ w, w = tileWord 0x60 body → s.AtHead i w → s.allRetired (atOf i) = true → s.outstanding (atOf i) = 0 →
      s.shadowed (atOf i) = false → (s.st (atOf i)).stepped = false → fld w 9 7 = 0 → fld w 34 94 = 0 →
      (fld w 8 1 ≠ 1 → fld w 16 18 = 0) → (fld w 8 1 = 1 → 32 * fld w 16 18 + 4 ≤ s.seedQuota i.field i.ctx) →
      ∃ t u : State, exec (.step i body) s = .next t ∧ t = u.stepProgress i.ctx ∧ s.Issued u i ∧ (u.st (atOf i)).stepped = true ∧
        (u.st (atOf i)).loss =
          (if fld w 8 1 = 1 then
            some (s.seedVec i.field i.furrow (s.seedBase i.field i.ctx + 32 * fld w 16 18) true 0)
          else none) ∧
        (u.ctx i.ctx).lossPosts = (if fld w 8 1 = 1 then min ((s.ctx i.ctx).lossPosts + 1) 255 else (s.ctx i.ctx).lossPosts) ∧
        { u with regs := s.regs, streams := s.streams, ctxs := s.ctxs } = s) ∧
    (∀ w l, w = tileWord 0x7F body → s.AtHead i w → s.allRetired (atOf i) = true → fld w 8 120 = 0 →
      (s.st (atOf i)).cur = some l →
      ∃ t u : State, exec (.endStream i body) s = .next t ∧ t = u.launchEnded l.queue l.seq ∧
        (u.st (atOf i)).state = .idle ∧ (u.st (atOf i)).cur = none ∧ (u.st (atOf i)).buf = [] ∧
        (u.st (atOf i)).launches = (s.st (atOf i)).launches ∧ (∀ j, j ≠ i → u.st (atOf j) = s.st (atOf j)) ∧
        { u with regs := s.regs, streams := s.streams } = s)

/-- R121, R137, R138, R171, R172: a DMA that moves rows goes to its field's hand-off queue, or waits while the queue is full;
one that moves nothing only signals. A waiting one is accepted once the queue has room. When a transfer completes, the
uncorrectable words of the store it reads are reported (R169), its rows move, its semaphore is signalled, and the engines take
more. -/
def Obligations.DmaLifeCycle : Prop :=
  (∀ (i : StreamId) (body : BitVec 120) (s : State) (w : InstrWord), s.Canon → w = tileWord 0x10 body → s.MayDma i w →
    ((dmaFields w).noOp = false →
      ∃ t x, exec (.dma i body) s = .next t ∧ t = (s.advance (atOf i)).handOff i.field x ∧ s.Issued t i ∧
        { t with regs := s.regs, streams := s.streams, dma := s.dma } = s ∧
        x.field = i.field.val ∧ x.furrow = i.furrow.val ∧ x.owner = s.ownerAt (atOf i) ∧ x.dir = (dmaFields w).dir ∧
        x.rlen = 32 * (dmaFields w).rlen ∧ x.fp = s.dmaSpan i w ∧
        x.signal = (if (dmaFields w).signal then some (dmaFields w).sem else none) ∧
        x.rows = ((dmaFields w).rowList (s.st (atOf i))).map fun (a, m) =>
          (s.seedBase i.field i.ctx + a, if (dmaFields w).toHbm then m else s.sheafBase i.field i.ctx + m)) ∧
    ((dmaFields w).noOp = true →
      exec (.dma i body) s = .next ((s.advance (atOf i)).signal i.field i.ctx
        (if (dmaFields w).signal then some (dmaFields w).sem else none)))) ∧
  (∀ (f : Fin 4) (s : State) (x : Xfer) (l : List Xfer), (s.dmaOf f).waiting = x :: l → (s.dmaOf f).handoff.length < 1024 →
    s.fieldOff f = false →
    ∃ t, exec (.dmaHandoffAccept f) s = .next t ∧ { t with dma := s.dma } = s ∧
      t = (s.setDma f { s.dmaOf f with waiting := l, handoff := (s.dmaOf f).handoff ++ [x] }).feedDma f) ∧
  (∀ (f : Fin 4) (k e : Nat) (lost : List Nat) (s : State) (x : Xfer), (s.dmaOf f).active[k]? = some (e, x) → s.fieldOff f = false →
    s.xferWaits x = false →
    (x.dir ≤ 1 → (x.rows.any fun r =>
      (s.setDma f { s.dmaOf f with active := (s.dmaOf f).active.eraseIdx k }).otherFenced f r.2 x.rlen) = false) →
    exec (.dmaTransferDone f k lost) s =
      .next ((((x.rows.foldl (fun s r => s.moveRow x r)
        ((s.setDma f { s.dmaOf f with active := (s.dmaOf f).active.eraseIdx k }).sourceLost x lost)).signal f x.owner.ctx
          x.signal).feedDma f).stepProgress x.owner.ctx))

/-- R79, R143: CHK FORCE leaves a value to be added to a row's C at the slot's next drain; CHK READ writes the slot's check
masks, drain step and 20 zero bytes at its address. -/
def Obligations.CheckForceAndRead : Prop :=
  ∀ (i : StreamId) (body : BitVec 118) (s : State), s.Canon →
    (∀ w, w = opWord2 0x58 0 body → s.MayChk i w →
      ∃ t, exec (.chkForce i body) s = .next t ∧ s.Issued t i ∧ { t with regs := s.regs, streams := s.streams, furrows := s.furrows } = s ∧
        t.fur i.field i.furrow = (s.fur i.field i.furrow).setSlot (s.chkSlot i w)
          { (s.fur i.field i.furrow).slot (s.chkSlot i w) with
            forces := ((s.fur i.field i.furrow).slot (s.chkSlot i w)).forces ++
              [(fld w 16 5, fld w 21 2, BitVec.ofNat 32 (fld w 24 32))] }) ∧
    (∀ w sl, w = opWord2 0x58 1 body → sl = (s.fur i.field i.furrow).slot (s.chkSlot i w) → s.MayChk i w →
      ∃ t, exec (.chkRead i body) s = .next t ∧ s.Issued t i ∧ { t with regs := s.regs, streams := s.streams, seedbed := s.seedbed } = s ∧
        t.seedRead i.field i.furrow (s.seedBase i.field i.ctx + 32 * fld w 56 18) 32 =
          leBytes 4 sl.failMask ++ leBytes 4 sl.skipMask ++ leBytes 4 sl.drainStep ++ List.replicate 20 0 ∧
        ∀ a, a < furKey i.field i.furrow * seedSize + (s.seedBase i.field i.ctx + 32 * fld w 56 18) ∨
            furKey i.field i.furrow * seedSize + (s.seedBase i.field i.ctx + 32 * fld w 56 18) + 32 ≤ a →
          t.seedbed.read unit64K a = s.seedbed.read unit64K a)

/-- R61, R62, R69, R70, R80, R86, R128, R129: a ready and legal MMA or MMT leaves the issue stage. It gives the named slots their
initial shape and +0 contents if `INIT` is set, and joins the furrow's matrix pipeline with the bindings it latched, its passes
still to run; one whose shape runs no pass does not join. No other slot changes. -/
def Obligations.MatrixProductIssues : Prop :=
  ∀ (c : Instr) (i : StreamId) (body : BitVec 120) (s : State) (w : InstrWord) (x : MmaFields) (first : Nat), s.Canon →
    (c = .mma i body ∧ w = tileWord 0x20 body ∨ c = .mmt i body ∧ w = tileWord 0x21 body) → s.MayMma i w → x = mmaFields w →
    first = s.rf (R.FLD_ACQ_BASE i.ctx i.field) + x.slot →
      ∃ t, exec c s = .next t ∧ s.Issued t i ∧
        { t with regs := s.regs, streams := s.streams, furrows := s.furrows, pwr := s.pwr, lastMma := s.lastMma } = s ∧
        (∀ (f : Fin 4) (n : Fin 26), (f, n) ≠ (i.field, i.furrow) → t.fur f n = s.fur f n) ∧
        (∀ k, (x.init = false ∨ x.noOp = true ∨ k < first ∨ first + x.slotCount ≤ k) →
          (t.fur i.field i.furrow).slot k = (s.fur i.field i.furrow).slot k) ∧
        (x.init = true → x.noOp = false → ∀ k, k < x.slotCount →
          ∃ e, (t.fur i.field i.furrow).slot (first + k) = { initSlot x.thin (x.rowsTo k) x.n with shadow := e }) ∧
        (x.noOp = true ∨ x.kb = 0 → (t.fur i.field i.furrow).mmas = (s.fur i.field i.furrow).mmas) ∧
        (x.noOp = false → 0 < x.kb →
          ∃ o, (t.fur i.field i.furrow).mmas = (s.fur i.field i.furrow).mmas ++ [o] ∧ o.owner = s.ownerAt (atOf i) ∧
            o.thin = x.thin ∧ o.slot = first ∧ o.m = x.m ∧ o.n = x.n ∧ o.kb = x.kb ∧ o.passes = x.passes ∧
            some o.bindA = (s.st (atOf i)).bindA ∧ o.clamp = s.clampOf i.ctx ∧ o.nextFill = 0 ∧ o.nextPass = 0)

/-- R61, R62, R87, R90: the first product of the pipeline that has a pass without a bank gets the bank of that pass, while fewer
than two banks are live. The product at the head takes its next pass from the live bank, which is released; after its last pass
it leaves the pipeline. Each of its slots counts one pass; no other slot changes. Uncorrectable words of the operands are reported
and read as 0 (R169). -/
def Obligations.WeightBanksAndPasses : Prop :=
  (∀ (f : Fin 4) (n : Fin 26) (lost : List Nat) (s : State) (k : Nat) (o : MmaOp), s.Canon →
    (s.fur f n).banks.length < 2 → (s.fur f n).mmas[k]? = some o → o.nextFill < o.total → (∀ p ∈ (s.fur f n).mmas.take k, p.total ≤ p.nextFill) →
    ∃ t u, exec (.weightBankFilled f n lost) s = .next t ∧ u = s.operandLost f n o lost ∧ (lost = [] → u = s) ∧
      { t with furrows := s.furrows } = u ∧
      (t.fur f n).banks = (s.fur f n).banks ++ [(fillBank u f n o o.nextFill).1] ∧
      (fillBank u f n o o.nextFill).1.pass = o.nextFill ∧
      (t.fur f n).mmas = (s.fur f n).mmas.set k { o with nextFill := o.nextFill + 1 } ∧
      (t.fur f n).drns = (s.fur f n).drns ∧ (t.fur f n).vops = (s.fur f n).vops ∧ (t.fur f n).glns = (s.fur f n).glns ∧
      ∀ (g : Fin 4) (m : Fin 26), (g, m) ≠ (f, n) → t.fur g m = s.fur g m) ∧
  (∀ (f : Fin 4) (n : Fin 26) (lost : List Nat) (s : State) (o : MmaOp) (ops : List MmaOp) (b : Bank) (bs : List Bank), s.Canon →
    (s.fur f n).mmas = o :: ops → (s.fur f n).banks = b :: bs → s.arraysOff f n o.arrays = false →
    ∃ t, exec (.arrayPassEnter f n lost) s = .next t ∧ { t with furrows := s.furrows } = s.operandLost f n o lost ∧
      (lost = [] → s.operandLost f n o lost = s) ∧ (t.fur f n).banks = bs ∧
      (t.fur f n).mmas = (if o.nextPass + 1 = o.total then ops else { o with nextPass := o.nextPass + 1 } :: ops) ∧
      (t.fur f n).drns = (s.fur f n).drns ∧ (t.fur f n).vops = (s.fur f n).vops ∧ (t.fur f n).glns = (s.fur f n).glns ∧
      (∀ k, k < o.slot ∨ o.slot + ceilDiv o.m (if o.thin then 8 else 32) ≤ k →
        (t.fur f n).slot k = (s.fur f n).slot k) ∧
      (∀ k, o.slot ≤ k → k < o.slot + ceilDiv o.m (if o.thin then 8 else 32) →
        ((t.fur f n).slot k).q = (((s.fur f n).slot k).q + 1) % 16 ∧
        ((t.fur f n).slot k).t = (((s.fur f n).slot k).t || ((s.fur f n).slot k).q == 15) ∧
        ((t.fur f n).slot k).p = satAdd32 ((s.fur f n).slot k).p 1) ∧
      ∀ (g : Fin 4) (m : Fin 26), (g, m) ≠ (f, n) → t.fur g m = s.fur g m)

/-- R88, R95, R105, R132, R143, R190: a ready and legal DRN leaves the issue stage: it writes the outputs that its stages compute,
unless its step's discard rule drops them, takes its slot's pending forces and joins the drains of its furrow with its record, check
masks and counts. Only its slot changes among slots, and only its output bytes among the seedbed's. -/
def Obligations.DrainIssues : Prop :=
  ∀ (i : StreamId) (body : BitVec 120) (s u : State) (w : InstrWord) (x : DrnFields) (r : DrnResult) (base : Nat), s.Canon →
    w = tileWord 0x28 body → s.MayDrn i w → x = drnFields w → u = s.advance (atOf i) → base = s.seedBase i.field i.ctx →
    r = drainAll ⟨u, i.field, i.furrow, base, s.drnDesc (atOf i) x, x, (s.fur i.field i.furrow).slot (s.drnPhys i w)⟩ (s.clampOf i.ctx)
      (s.ctx i.ctx).latch.arith
      (if x.sr then some ⟨(s.ctx i.ctx).latch.k0, (s.ctx i.ctx).latch.k1, BitVec.ofNat 32 (s.stepOf i.ctx),
        BitVec.ofNat 32 x.tile, BitVec.ofNat 32 x.tag⟩ else none)
      (s.rf (R.FUR_CHK_CTRL_TOL_MULT i.field i.furrow)) →
      ∃ (t : State) (o : DrnOp), exec (.drn i body) s = .next t ∧ s.Issued t i ∧
        { t with regs := s.regs, streams := s.streams, furrows := s.furrows, seedbed := s.seedbed, shadows := s.shadows } = s ∧
        (t.fur i.field i.furrow).drns = (s.fur i.field i.furrow).drns ++ [o] ∧ o.owner.ctx = i.ctx.val ∧ o.owner.strm = i.strm.val ∧
        o.slot = s.drnPhys i w ∧ o.counts = r.counts ∧ o.failMask = maskOf r.fail ∧ o.skipMask = maskOf r.skip ∧
        (t.fur i.field i.furrow).mmas = (s.fur i.field i.furrow).mmas ∧
        ((t.fur i.field i.furrow).slot (s.drnPhys i w)).forces = [] ∧
        (∀ k, k ≠ s.drnPhys i w → (t.fur i.field i.furrow).slot k = (s.fur i.field i.furrow).slot k) ∧
        (∀ (f : Fin 4) (n : Fin 26), (f, n) ≠ (i.field, i.furrow) → t.fur f n = s.fur f n) ∧
        o.discarded = discardedDrain (s.ctx i.ctx).latch x (s.drnDesc (atOf i) x) ((s.fur i.field i.furrow).slot (s.drnPhys i w)).m
            ((s.fur i.field i.furrow).slot (s.drnPhys i w)).n ∧
        o.rec? = (if x.record = true ∧ o.discarded = false then
          some (base + 32 * descAddr (s.drnDesc (atOf i) x) 52, drainRecord x r (s.stepOf i.ctx)
            ((s.fur i.field i.furrow).slot (s.drnPhys i w)) (((s.fur i.field i.furrow).slot (s.drnPhys i w)).ovf || r.ovf))
          else none) ∧
        ((t.fur i.field i.furrow).slot (s.drnPhys i w)).ovf = (((s.fur i.field i.furrow).slot (s.drnPhys i w)).ovf || r.ovf) ∧
        (o.discarded = true → t.seedbed = s.seedbed) ∧
        (o.discarded = false →
          t.seedbed = (r.writes.foldl (fun v e => v.seedWrite i.field i.furrow (base + e.1) e.2) s).seedbed) ∧
        ∀ a, (∀ e ∈ r.writes, a < furKey i.field i.furrow * seedSize + (base + e.1) ∨
            furKey i.field i.furrow * seedSize + (base + e.1) + e.2.length ≤ a) →
          t.seedbed.read unit64K a = s.seedbed.read unit64K a

/-- R78, R83, R105, R106, R143: the oldest drain of a furrow retires: its slot keeps its check masks and step, its record is
written, its counts join the step's totals and the furrow's counters count it. A failed row check is counted, kept as the
furrow's first while none is, and blocks the step. -/
def Obligations.DrainRetires : Prop :=
  (∀ (f : Fin 4) (n : Fin 26) (s : State) (o : DrnOp) (rest : List DrnOp), s.Canon → (s.fur f n).drns = o :: rest →
    ∃ t u : State, exec (.drainRetire f n) s = .next t ∧
      t = ((List.range 32).filter fun b => o.failMask.testBit b).foldl (fun v b => v.reportCheck f n o b) u ∧
      (u.fur f n).drns = rest ∧ ((u.fur f n).slot o.slot).failMask = o.failMask ∧
      ((u.fur f n).slot o.slot).skipMask = o.skipMask ∧ ((u.fur f n).slot o.slot).drainStep = o.owner.step ∧
      (∀ k, k ≠ o.slot → (u.fur f n).slot k = (s.fur f n).slot k) ∧
      (u.ctx o.owner.ctx).totals = (s.ctx o.owner.ctx).totals.add o.counts ∧
      u.rf (R.FUR_DRN_COUNT_COUNT f n) = satAdd32 (s.rf (R.FUR_DRN_COUNT_COUNT f n)) 1 ∧
      (o.rec? = none → u.seedbed = s.seedbed) ∧
      (∀ a bs, o.rec? = some (a, bs) → u.seedRead f n a bs.length = bs) ∧
      (∀ (g : Fin 4) (m : Fin 26), (g, m) ≠ (f, n) → u.fur g m = s.fur g m) ∧
      { u with regs := s.regs, furrows := s.furrows, ctxs := s.ctxs, streams := s.streams, seedbed := s.seedbed } = s) ∧
  ∀ (f : Fin 4) (n : Fin 26) (s : State) (o : DrnOp) (b : Nat), s.Canon → b < 32 → o.named < 64 → o.owner.ctx < 64 →
    (s.reportCheck f n o b).rf (R.FUR_CHK_FAILS_COUNT f n) = satAdd32 (s.rf (R.FUR_CHK_FAILS_COUNT f n)) 1 ∧
    (s.reportCheck f n o b).rf (R.FUR_CHK_FIRST_VALID f n) = 1 ∧
    (s.reportCheck f n o b).rf (R.FUR_CHK_FIRST_SLOT f n) =
      (if s.rf (R.FUR_CHK_FIRST_VALID f n) = 1 then s.rf (R.FUR_CHK_FIRST_SLOT f n) else o.named) ∧
    (s.reportCheck f n o b).rf (R.FUR_CHK_FIRST_CTX f n) =
      (if s.rf (R.FUR_CHK_FIRST_VALID f n) = 1 then s.rf (R.FUR_CHK_FIRST_CTX f n) else o.owner.ctx) ∧
    (s.cstate o.owner.ctx = stRunning → (s.reportCheck f n o b).cstate o.owner.ctx = stBlocked) ∧
    (s.reportCheck f n o b).fur f n = s.fur f n

/-- R54, R73, R114, R139 to R141: a ready and legal vector operation leaves the issue stage. One of length 0 has no effect; any other
converts its results to the destination format, writes them with any scale bytes, adds their counts to the step's totals and
takes its unit until it retires, when its counts stand in the unit's completion field. Only the destination bytes change in the
seedbed. -/
def Obligations.VectorOperationRuns : Prop :=
  (∀ (c : Instr) (i : StreamId) (body : BitVec 114) (s u : State) (w : InstrWord) (x : VopFields)
      (r : List Nat × List Nat × List Outcome4) (base : Nat), s.Canon →
    (c, w) ∈ [(Instr.vopCpy i body, vopWord 0 body), (.vopAdd i body, vopWord 1 body), (.vopSub i body, vopWord 2 body),
      (.vopMul i body, vopWord 3 body), (.vopFma i body, vopWord 4 body), (.vopDiv i body, vopWord 5 body),
      (.vopSqrt i body, vopWord 6 body), (.vopMax i body, vopWord 7 body), (.vopMin i body, vopWord 8 body),
      (.vopExp i body, vopWord 9 body), (.vopTanh i body, vopWord 10 body), (.vopErf i body, vopWord 11 body),
      (.rsum i body, vopWord 12 body), (.rmax i body, vopWord 13 body)] →
    s.MayVop i w → x = vopFields w → u = s.advance (atOf i) → base = s.seedBase i.field i.ctx →
    r = convertVec x.df (s.ctx i.ctx).latch.arith
      (if x.sr then some ⟨(s.ctx i.ctx).latch.k0, (s.ctx i.ctx).latch.k1, BitVec.ofNat 32 (s.stepOf i.ctx),
        BitVec.ofNat 32 x.tag, BitVec.ofNat 32 x.dst⟩ else none) (vopResults u (atOf i) base x) →
      ∃ t, exec c s = .next t ∧ s.Issued t i ∧
        { t with regs := s.regs, streams := s.streams, furrows := s.furrows, pwr := s.pwr, seedbed := s.seedbed,
                 ctxs := s.ctxs, shadows := s.shadows } = s ∧
        (∀ (f : Fin 4) (n : Fin 26), (f, n) ≠ (i.field, i.furrow) → t.fur f n = s.fur f n) ∧
        (t.fur i.field i.furrow).slots = (s.fur i.field i.furrow).slots ∧
        (x.count = 0 → t.seedbed = s.seedbed ∧ t.ctxs = s.ctxs ∧ t.fur i.field i.furrow = s.fur i.field i.furrow) ∧
        (x.count ≠ 0 →
          (∃ o, (t.fur i.field i.furrow).vops = (s.fur i.field i.furrow).vops ++ [o] ∧ o.unit = x.unit ∧
            o.counts = countOutcomes r.2.2 ∧ o.owner.ctx = i.ctx.val ∧ o.owner.strm = i.strm.val) ∧
          (t.ctx i.ctx).totals = (s.ctx i.ctx).totals.add (countOutcomes r.2.2) ∧
          (x.df.isMx = false → t.seedRead i.field i.furrow (base + 32 * x.dst) (packCodes x.df.width r.1).length =
            packCodes x.df.width r.1) ∧
          (x.df.isMx = true → t.seedRead i.field i.furrow (base + x.scaleAt) r.2.1.length = r.2.1.map (BitVec.ofNat 8)) ∧
          ∀ a, (a < furKey i.field i.furrow * seedSize + (base + 32 * x.dst) ∨
              furKey i.field i.furrow * seedSize + (base + 32 * x.dst) + (packCodes x.df.width r.1).length ≤ a) →
            (x.df.isMx = true → a < furKey i.field i.furrow * seedSize + (base + x.scaleAt) ∨
              furKey i.field i.furrow * seedSize + (base + x.scaleAt) + r.2.1.length ≤ a) →
            t.seedbed.read unit64K a = s.seedbed.read unit64K a)) ∧
  ∀ (f : Fin 4) (n : Fin 26) (unit : Fin 8) (s : State) (a b : List UnitOp) (o : UnitOp), s.Canon →
    (s.fur f n).vops = a ++ o :: b → o.unit = unit → (∀ p ∈ a, p.unit ≠ unit) →
    ∃ t, exec (.vopRetire f n unit) s = .next t ∧ { t with furrows := s.furrows } = s ∧
      t.fur f n = { s.fur f n with vops := a ++ b, vopDone := sput (s.fur f n).vopDone unit (o.owner, o.counts) } ∧
      ∀ (g : Fin 4) (m : Fin 26), (g, m) ≠ (f, n) → t.fur g m = s.fur g m

/-- R200, R201, R204, R207, R208: a ready and legal optimiser entry leaves the issue stage. One of length 0 has no effect; any other
updates the seedbed by its rule and takes the vector unit until it retires. GSQ writes the scaled squared gradient plus EPS1 for
each element, each step rounded to binary32. -/
def Obligations.OptimiserEntryRuns : Prop :=
  ∀ (i : StreamId) (body : BitVec 114) (s u : State) (c : Instr) (w : InstrWord) (x : VopFields), s.Canon →
    (c, w) ∈ [(Instr.adamw i body, vopWord 0x10 body), (.gsq i body, vopWord 0x11 body), (.afapply i body, vopWord 0x12 body)] →
    s.MayOpt i w → x = vopFields w → u = s.advance (atOf i) →
      ∃ t v : State, exec c s = .next t ∧ s.Issued t i ∧
        { t with regs := s.regs, streams := s.streams, furrows := s.furrows, seedbed := s.seedbed, ctxs := s.ctxs,
                 shadows := s.shadows } = s ∧
        t.seedbed = v.seedbed ∧ t.ctxs = v.ctxs ∧
        (x.count = 0 → v = u) ∧
        (x.count ≠ 0 → c = .adamw i body → v = u.runAdamw (atOf i) x (s.optRecord i w)) ∧
        (x.count ≠ 0 → c = .gsq i body → v = u.runGsq (atOf i) x (s.optRecord i w) ∧
          ∃ codes, codes = packCodes 32 (convertVec .fp32 {} none ((List.range (32 * x.count)).map fun e =>
              num32 (ffma (fmul (u.seedVec i.field i.furrow (s.seedBase i.field i.ctx + 32 * x.src1) (x.sfmt == 1) e)
                  (recWord (s.optRecord i w) 36))
                (fmul (u.seedVec i.field i.furrow (s.seedBase i.field i.ctx + 32 * x.src1) (x.sfmt == 1) e)
                  (recWord (s.optRecord i w) 36)) (recWord (s.optRecord i w) 40)))).1 ∧
            t.seedRead i.field i.furrow (s.seedBase i.field i.ctx + 32 * x.dst) codes.length = codes) ∧
        (x.count ≠ 0 → c = .afapply i body → v = u.runAfapply (atOf i) x (s.optRecord i w) (s.optHeader i w)) ∧
        (x.count ≠ 0 → ∃ o, (t.fur i.field i.furrow).vops = (s.fur i.field i.furrow).vops ++ [o] ∧ o.unit = 0 ∧
          o.owner.ctx = i.ctx.val ∧ o.owner.strm = i.strm.val)

/-- R135, R136, R182 to R184, R191: a ready and legal gleaning operation on a region of `rows` by `cols` elements leaves the issue
stage and works on each element of its region once: INIT sets +0, ACC makes the compensated update by a seedbed element, ADD the
update by an element of the source region, FLUSH writes the converted final value to the seedbed and, with `CLEAR`, sets +0.
It takes the gleaning unit until it retires, when its counts stand in the unit's completion field (R54). No other element
changes. -/
def Obligations.GleaningOperations : Prop :=
  (∀ (i : StreamId) (body : BitVec 118) (s : State) (c : Instr) (w : InstrWord) (x : GlnFields) (tgt : Nat → Nat → Nat),
    s.Canon →
    (c, w) ∈ [(Instr.glnInit i body, opWord2 0x38 0 body), (.glnAcc i body, opWord2 0x38 1 body),
      (.glnAdd i body, opWord2 0x38 2 body), (.glnFlush i body, opWord2 0x38 3 body)] →
    s.MayGln i w → x = glnFields w → x.cols ≤ x.pitch → x.cols * x.bytes ≤ 32 * x.sstride →
    (∀ r k, tgt r k = 4096 * s.rf (R.FLD_GLQ_BASE i.ctx i.field) + x.gaddr + r * x.pitch + k) →
      ∃ t, exec c s = .next t ∧ s.Issued t i ∧
        { t with regs := s.regs, streams := s.streams, furrows := s.furrows, glean := s.glean, seedbed := s.seedbed,
                 ctxs := s.ctxs } = s ∧
        (x.rows = 0 ∨ x.cols = 0 → (t.fur i.field i.furrow).glns = (s.fur i.field i.furrow).glns) ∧
        (x.rows ≠ 0 → x.cols ≠ 0 →
          ∃ o, (t.fur i.field i.furrow).glns = (s.fur i.field i.furrow).glns ++ [o] ∧ o.owner.ctx = i.ctx.val ∧
            o.counts = (s.advance (atOf i)).glnCounts (atOf i) x) ∧
        (∀ e, (∀ r k, r < x.rows → k < x.cols → e ≠ tgt r k) →
          t.gleanGet i.field i.furrow e = s.gleanGet i.field i.furrow e) ∧
        (∀ r k, r < x.rows → k < x.cols →
          (c = .glnInit i body → t.gleanGet i.field i.furrow (tgt r k) = (0, 0)) ∧
          (c = .glnAcc i body → t.gleanGet i.field i.furrow (tgt r k) =
            gleanAcc (s.gleanGet i.field i.furrow (tgt r k))
              (s.seedVec i.field i.furrow (s.seedBase i.field i.ctx + 32 * (x.saddr + r * x.sstride)) (x.sfmt == 0) k)) ∧
          (c = .glnAdd i body → t.gleanGet i.field i.furrow (tgt r k) =
            gleanAdd (s.gleanGet i.field i.furrow (tgt r k))
              (s.gleanGet i.field i.furrow
                (4096 * s.rf (R.FLD_GLQ_BASE i.ctx i.field) + x.gsrc + r * x.pitch + k))) ∧
          (c = .glnFlush i body →
            t.gleanGet i.field i.furrow (tgt r k) =
              (if x.clear then (0, 0) else s.gleanGet i.field i.furrow (tgt r k)) ∧
            t.seedRead i.field i.furrow (s.seedBase i.field i.ctx + 32 * (x.saddr + r * x.sstride) + x.bytes * k) x.bytes =
              leBytes x.bytes ((if x.sfmt = 0 then Fmt.fp32 else Fmt.bf16).convert (s.ctx i.ctx).latch.arith false .rne 0
                (num32 (gleanFinal (s.gleanGet i.field i.furrow (tgt r k))))).1)) ∧
        (c ≠ .glnFlush i body → t.seedbed = s.seedbed ∧ t.ctxs = s.ctxs)) ∧
  ∀ (f : Fin 4) (n : Fin 26) (s : State) (o : UnitOp) (l : List UnitOp), s.Canon → (s.fur f n).glns = o :: l →
    ∃ t, exec (.glnRetire f n) s = .next t ∧ { t with furrows := s.furrows } = s ∧
      t.fur f n = { s.fur f n with glns := l, vopDone := sput (s.fur f n).vopDone 8 (o.owner, o.counts) } ∧
      ∀ (g : Fin 4) (m : Fin 26), (g, m) ≠ (f, n) → t.fur g m = s.fur g m

/-- R124, R145, R146, R150: an instruction word that names no instruction halts its stream: with cause 1 for its
opcode; for an operation code of VOP or CHK with cause 2 if it sets a reserved bit, else 3. R113, R145, R146, R150: a
ready instruction that meets a condition of the cause table halts its stream with the lowest such cause: bindings,
products, vector operations, optimiser entries, gleaning operations, drains, transfers and checks. -/
def Obligations.UnknownOpcodeHalts : Prop :=
  (∀ (i : StreamId) (w : InstrWord) (s : State), s.Canon → s.AtHead i w →
    (unknownCause w = some 1 → ∃ t, exec (.unknownOpcode i w) s = .next t ∧ s.Halted t i w 1) ∧
    (unknownCause w = some 3 →
      ∃ t, exec (.unknownOpcode i w) s = .next t ∧ s.Halted t i w (if reservedSet w then 2 else 3)) ∧
    (unknownCause w = none ∨ unknownCause w = some 1 ∨ unknownCause w = some 3)) ∧
  (∀ (i : StreamId) (b20 : BitVec 120) (b14 : BitVec 114) (b18 : BitVec 118) (s : State) (c : Instr) (w : InstrWord) (k : Nat),
    s.Canon → s.AtHead i w → k < 16 →
    ((c, w) ∈ [(Instr.ldw i b20, tileWord 1 b20), (.lda i b20, tileWord 2 b20), (.trn i b20, tileWord 3 b20)] ∧
        bindingCause s (atOf i) w = some k ∨
      (c, w) ∈ [(Instr.mma i b20, tileWord 0x20 b20), (.mmt i b20, tileWord 0x21 b20)] ∧
        s.mmaWait (atOf i) w = none ∧
        mmaCause s (atOf i) w (mmaFields w) (mmaSpans (s.st (atOf i)) (mmaFields w)) = some k ∨
      (c, w) ∈ [(Instr.vopCpy i b14, vopWord 0 b14), (.vopAdd i b14, vopWord 1 b14), (.vopSub i b14, vopWord 2 b14),
          (.vopMul i b14, vopWord 3 b14), (.vopFma i b14, vopWord 4 b14), (.vopDiv i b14, vopWord 5 b14),
          (.vopSqrt i b14, vopWord 6 b14), (.vopMax i b14, vopWord 7 b14), (.vopMin i b14, vopWord 8 b14),
          (.vopExp i b14, vopWord 9 b14), (.vopTanh i b14, vopWord 10 b14), (.vopErf i b14, vopWord 11 b14),
          (.rsum i b14, vopWord 12 b14), (.rmax i b14, vopWord 13 b14)] ∧
        s.vopWait (atOf i) w = none ∧
        vopCause s (atOf i) w (vopFields w) (vopSpans (vopFields w)) = some k ∨
      (c, w) ∈ [(Instr.glnInit i b18, opWord2 0x38 0 b18), (.glnAcc i b18, opWord2 0x38 1 b18),
          (.glnAdd i b18, opWord2 0x38 2 b18), (.glnFlush i b18, opWord2 0x38 3 b18)] ∧
        s.glnWait (atOf i) w = none ∧
        glnCause s (atOf i) w (glnFields w) = some k ∨
      (c, w) = (.dma i b20, tileWord 0x10 b20) ∧
        s.dmaWait (atOf i) w = none ∧ dmaCause s (atOf i) w (dmaFields w) = some k ∨
      (c, w) ∈ [(Instr.adamw i b14, vopWord 0x10 b14), (.gsq i b14, vopWord 0x11 b14), (.afapply i b14, vopWord 0x12 b14)] ∧
        s.optWait (atOf i) w = none ∧
        optCause s (atOf i) w (vopFields w) (s.optRecord i w) (s.optHeader i w)
          (optSpans (vopFields w) (s.optRecord i w) (s.optHeader i w)) = some k ∨
      (c, w) = (.drn i b20, tileWord 0x28 b20) ∧ s.drnWait (atOf i) w = none ∧
        drnCause s (atOf i) w (drnFields w) (s.drnDesc (atOf i) (drnFields w)) (s.drnRanges (atOf i) (drnFields w)) = some k ∨
      (c, w) ∈ [(Instr.chkForce i b18, opWord2 0x58 0 b18), (.chkRead i b18, opWord2 0x58 1 b18)] ∧
        s.chkWait (atOf i) w = none ∧ chkCause s (atOf i) w ((s.fur i.field i.furrow).slot (s.chkSlot i w)) = some k) →
      ∃ t, exec c s = .next t ∧ s.Halted t i w k)

/-! ### The block as a whole -/

/-- Log 1, and the block's first-in, first-out queue: with the command `c` at the front of the queue, a step carries `c` out
on the state with the queue's rest; with nothing waiting the block idles. -/
def Obligations.StepRunsFrontCommand : Prop :=
  (∀ (c : Instr) (rest : List Instr) (s : State), s.pending = c :: rest → step s = exec c { s with pending := rest }) ∧
  ∀ s : State, s.pending = [] → step s = .next s

/-- Every command the outside can give is carried out, whatever its operands and whatever the state: it answers a next state.
None faults and none is refused, and neither does a step. -/
def Obligations.WellFormedCommandsComplete : Prop :=
  (∀ (c : Instr) (s : State), ∃ t, exec c s = .next t) ∧ ∀ s : State, ∃ t, step s = .next t

/-- A command puts nothing into the queue of commands and takes nothing out of it; a step takes the front command and
nothing more. -/
def Obligations.CommandsLeaveQueue : Prop :=
  (∀ (c : Instr) (s t : State), exec c s = .next t → t.pending = s.pending) ∧
  ∀ s t : State, step s = .next t → t.pending = s.pending.drop 1

/-- R488: fuses are only ever burned: whatever command is carried out, the security version does not fall, a revoked key slot
stays revoked, and the device secret, the key hashes and the roots do not change. -/
def Obligations.FusesOnlyBurn : Prop :=
  ∀ s t : State, step s = .next t → s.fuses.Burned t.fuses

/-- Every memory and every table stays in its canonical form through any step: equal contents are equal data. -/
def Obligations.StepKeepsCanonicalForm : Prop :=
  ∀ s t : State, s.Canon → step s = .next t → t.Canon

/-- The state right after reset is in canonical form and no command waits. -/
def Obligations.ResetIsCanonical : Prop := State.reset.Canon ∧ State.reset.pending = []

/-- R83, R84, R394, R471, R492, R525: what reset leaves: the device is held in reset at boot stage 0 (log 39, the
model's choice); every context is not resident and in RESET; logical furrow n is carried by physical furrow n, the two above 23 are
spare; every field and every furrow sleeps. -/
def Obligations.ResetValues : Prop :=
  State.reset.pins.held = true ∧ State.reset.stage = 0 ∧
  (∀ c : Fin 64, State.reset.resident c = false ∧ State.reset.cstate c = stReset) ∧
  (∀ (f : Fin 4) (n : Fin 26), State.reset.rf (R.FUR_MAP_LOGICAL f n) = (if n.val ≤ 23 then n.val else 31) ∧
    State.reset.rf (R.FUR_MAP_STATE f n) = (if n.val ≤ 23 then 0 else 1) ∧ State.reset.awake f n = false) ∧
  (∀ (f : Fin 4) (n : Fin 24), State.reset.physical f n = some n.val) ∧
  (∀ f : Fin 4, State.reset.fieldAwake f = false ∧ State.reset.spares f = [24, 25])

/-- The frame of every command, by parts of the state: a command changes only the parts that its list names; in particular no
command but the drawing of free values moves their counter, only device reset and configuration writes change what the
configuration space holds, and only a fuse burn changes the fuses. -/
def Obligations.CommandsChangeOnlyTheirParts : Prop :=
  ∀ (c : Instr) (s t : State), exec c s = .next t → s.SameBut t c.touches

/-! ### Queues -/

/-- R359 to R362, R367, R369: the queue that is served next, in rotation by ascending number, has the command at its start position
read: one that its queue's fence, its header, its privilege or its `DEP` fields end stops there with its status and detail, any
other goes to its row; a failed read puts the queue in ERROR with cause 2. Other queues stay as they are. R291, R360: there the
command still waits while its `DEP` or its step says so, and ends with the status that they give. R355, R359, R366, R369: the
completion of the queue's oldest command, once it is due, is written to the host's ring as its 16 bytes and counted in `QM_QDONE`;
one that the host does not take is discarded, counted all the same, and puts the queue in ERROR with cause 3. A message goes out if
the command or the queue asks for one. -/
def Obligations.CommandStartDecides : Prop :=
  (∀ (q : Fin 8192) (ring : Option (BitVec 512)) (s u : State) (w : Option CmdWord), s.Canon → s.hasTurn q = true →
    ((s.queue q).dead.any fun d => d.seq == s.qStart q) = false →
    s.readCmd q ring = (w, u) →
      ∃ t, exec (.commandStart q ring) s = .next t ∧ s.SameBut t [.regs, .pairs, .queues, .qmLast] ∧ t.qmLast = q ∧
        (∀ r, r ≠ q.val → t.queue r = s.queue r) ∧
        match w with
        | none => t.qState q = qError ∧ (u.qState q ≠ qError → t.rf (R.QM_QSTAT_CAUSE q) = 2) ∧ t.queue q = s.queue q
        | some w =>
          match u.headStop q (u.qStart q) w with
          | none => t.queue q = { s.queue q with head := some w, go := true } ∧ t.qStart q = u.qStart q
          | some (st, d) =>
            t.queue q = { s.queue q with
              head := none, go := false, cmds := (s.queue q).cmds ++ [recordOf w (u.qStart q) none (some (st, d))] } ∧
            t.qStart q = (u.qStart q + 1) % 2 ^ 32) ∧
  (∀ (q : Fin 8192) (s : State) (w : CmdWord), s.Canon → (s.queue q).head = some w → (s.queue q).go = true → CmdWord.opc w = 0x00 →
    s.mayStart q = true → lowest (reservedBytes w 32 32) = none →
      (s.startVerdict q (s.qStart q) w = .wait → exec (.nop q) s = .next s) ∧
      ∀ st d, s.startVerdict q (s.qStart q) w = .stop st d →
        ∃ t, exec (.nop q) s = .next t ∧ s.SameBut t [.regs, .queues] ∧ t.qStart q = (s.qStart q + 1) % 2 ^ 32 ∧
          t.queue q = { s.queue q with
            head := none, go := false, cmds := (s.queue q).cmds ++ [recordOf w (s.qStart q) none (some (st, d))] } ∧
          ∀ r, r ≠ q.val → t.queue r = s.queue r) ∧
  (∀ (q : Fin 8192) (ok : Bool) (s : State) (c : QCmd), s.Canon → s.cplDue q = some c → s.qLocal q = false →
    ∃ t, exec (.completionWrite q ok) s = .next t ∧
      s.SameBut t [.regs, .pairs, .queues, .hostMem, .msgs, .msixPend] ∧
      t.queue q = { s.queue q with cmds := (s.queue q).cmds.drop 1 } ∧ (∀ r, r ≠ q.val → t.queue r = s.queue r) ∧
      t.qDone q = (s.qDone q + 1) % 2 ^ 32 ∧
      (ok = true → t.hostMem = s.hostMem.writeN hostUnit (s.qFunc q * 2 ^ 64 + s.cplAddr q c.seq) (s.cplBytes q c)) ∧
      (ok = true → c.irq = false → s.flag (R.QM_QCFG_IRQALL q) = false → t.msgs = s.msgs ∧ t.msixPend = s.msixPend) ∧
      (ok = true → c.irq = true ∨ s.flag (R.QM_QCFG_IRQALL q) = true →
        if s.vecOpen (s.qFunc q) (s.rf (R.QM_QCFG_VEC q)) then t.msgs = s.msgs ++ [(s.qFunc q, s.rf (R.QM_QCFG_VEC q))]
        else t.msixPend = sput s.msixPend (vecKey (s.qFunc q) (s.rf (R.QM_QCFG_VEC q))) ()) ∧
      (ok = false → t.hostMem = s.hostMem ∧ t.msgs = s.msgs ∧ t.qState q = qError ∧
        (s.qState q ≠ qError → t.rf (R.QM_QSTAT_CAUSE q) = 3)))

/-- R353, R355, R357, R369, R372, R373: a doorbell of an enabled queue that moves forward and stays within the ring sets `QM_QDB`; one
that does not is a doorbell error, cause 1. A doorbell of a disabled queue is ignored. Enabling a queue whose context is
resident clears its counters, its records and its fence and makes it ACTIVE; disabling it at rest makes it DISABLED. A bind of a
disabled queue to a context that the function holds sets its function and context; any other bind is refused: one of an enabled
queue, and one for another function to a context that it does not hold. -/
def Obligations.QueueRegisterWrites : Prop :=
  ∀ (u : Fin 64) (q : Fin 8192) (v : Word32) (s : State), s.Canon →
    (s.MayWrite u (A.QM_QDB q) → ∃ t, exec (.doorbell u q v) s = .next t ∧ s.SameBut t [.regs, .pairs, .ctxs] ∧
      (s.flag (R.QM_QCFG_EN q) = false → t = s) ∧
      (s.flag (R.QM_QCFG_EN q) = true → t.qDb q = v.toNat ∧
        if (v.toNat + 2 ^ 32 - s.qDb q) % 2 ^ 32 < 2 ^ 31 ∧ (v.toNat + 2 ^ 32 - s.qDone q) % 2 ^ 32 ≤ 2 ^ s.qLog q then
          ∀ a, a ≠ A.QM_QDB q → t.reg a = s.reg a
        else t.qState q = qError ∧ (s.qState q ≠ qError → t.rf (R.QM_QSTAT_CAUSE q) = 1))) ∧
    (s.MayWrite u (A.QM_QCFG q) → v.getLsbD 0 = true → s.resident (s.qCtx q) = true → s.flag (R.QM_QCFG_EN q) = false →
      ∃ t, exec (.queueEnable u q v) s = .next t ∧ s.SameBut t [.regs, .queues, .fences] ∧ t.qState q = qActive ∧
        t.rf (R.QM_QSTAT_CAUSE q) = 0 ∧ t.qDb q = 0 ∧ t.qStart q = 0 ∧ t.qDone q = 0 ∧ t.flag (R.QM_QCFG_EN q) = true ∧
        t.queue q = { refused := (s.queue q).refused } ∧ t.isFenced (.queue q) = false ∧ ∀ r, r ≠ q.val → t.queue r = s.queue r) ∧
    (s.MayWrite u (A.QM_QCFG q) → v.getLsbD 0 = false → s.flag (R.QM_QCFG_EN q) = true →
      s.qState q = qError ∨ s.qDone q = s.qDb q →
        ∃ t, exec (.queueDisable u q v) s = .next t ∧
          s.SameBut t [.regs, .streams, .seqRuns, .queues, .copies, .engines, .serv] ∧ t.qState q = qDisabled ∧
          t.flag (R.QM_QCFG_EN q) = false ∧ t.queue q = { refused := (s.queue q).refused } ∧ (∀ x ∈ t.copies, x.queue ≠ q.val) ∧
          ∀ r, r ≠ q.val → t.queue r = s.queue r) ∧
    (s.MayWrite u A.QM_QBIND → s.flag (R.QM_QCFG_EN (s.rf R.QM_QSEL_QUEUE)) = false →
      wbits v 0 6 = 0 ∨ (s.resident (wbits v 8 6) = true ∧ s.client (wbits v 8 6) = wbits v 0 6) →
        ∃ t, exec (.queueBind u v) s = .next t ∧ s.SameBut t [.regs] ∧
          t.qFunc (s.rf R.QM_QSEL_QUEUE) = wbits v 0 6 ∧ t.qCtx (s.rf R.QM_QSEL_QUEUE) = wbits v 8 6 ∧
          t.qClass (s.rf R.QM_QSEL_QUEUE) =
            (if wbits v 16 3 ≤ 4 then wbits v 16 3 else s.qClass (s.rf R.QM_QSEL_QUEUE)) ∧
          ∀ a, a ≠ A.QM_QBINDV (s.rf R.QM_QSEL_QUEUE) → t.reg a = s.reg a) ∧
    (s.MayWrite u A.QM_QBIND →
      s.flag (R.QM_QCFG_EN (s.rf R.QM_QSEL_QUEUE)) = true ∨
        (wbits v 0 6 ≠ 0 ∧ ¬ (s.resident (wbits v 8 6) = true ∧ s.client (wbits v 8 6) = wbits v 0 6)) →
      ∃ t, exec (.queueBind u v) s = .next t ∧ s.SameBut t [.queues] ∧
        t.queue (s.rf R.QM_QSEL_QUEUE) = { s.queue (s.rf R.QM_QSEL_QUEUE) with refused := true } ∧
        ∀ r, r ≠ s.rf R.QM_QSEL_QUEUE → t.queue r = s.queue r)

/-! ### Launches -/

/-- R82, R108, R109, R192, R363: a LAUNCH whose tables, fields, furrows and streams pass the checks starts: on every
furrow that a table of a named field names, one launch joins the table's stream, with its program, base registers and
microbatch. No other stream changes; the command stays open in its queue while a launch of it remains. R147, R148,
R363: a SEQRUN that passes the checks expands each named field's run descriptor: every backward launch, then every forward
launch, each in order, with the base registers moved on by their strides; a run of more than one pair stays in the sequencer with
its first forward launch issued. -/
def Obligations.LaunchJoinsStreams : Prop :=
  (∀ (q : Fin 8192) (s : State) (w : CmdWord) (c : Nat) (fs : List Nat) (tab : Nat → LTable)
    (new : Nat → Nat → Nat → Nat → List Launch), s.Canon → s.MayRun q 0x10 w → c = s.qCtx q →
    fs = (List.range 4).filter (fun f => cmdAt w (32 + 8 * f) 8 != 0) → fs ≠ [] →
    tab = (fun f => s.tableAt (cmdAt w (32 + 8 * f) 8)) → ((s.ctx c).latch.compat && (s.ctx c).latch.tied) = false →
    (∀ f ∈ fs, s.inMask c f = true ∧ s.isFenced (.field f) = false ∧ s.badTableAt 2 c (cmdAt w (32 + 8 * f) 8) = false ∧
      s.tableWaits false c (cmdAt w (32 + 8 * f) 8) = false ∧
      ∀ l ∈ (tab f).furrows, ∃ n : Fin 26, s.physical f l = some n.val ∧ s.isFenced (.stream f n c (tab f).strm) = false) →
    new = (fun f n d k =>
      if f ∈ fs ∧ d = c ∧ k = (tab f).strm then ((tab f).furrows.filter fun l => s.physical f l == some n).map fun l =>
        ⟨q, s.qStart q, (tab f).progs.getD l 0, (tab f).base, (tab f).mb, none, 0⟩ else []) →
      ∃ t, exec (.launch q) s = .next t ∧ s.SameBut t [.regs, .streams, .ctxs, .pairs, .queues] ∧
        (∀ (f : Fin 4) (n : Fin 26) (d : Fin 64) (k : Fin 3), t.strm f n d k =
          { s.strm f n d k with
            launches := (s.strm f n d k).launches ++ new f n d k
            gotLaunch := (s.strm f n d k).gotLaunch || !(new f n d k).isEmpty }) ∧
        ((∃ f ∈ fs, (tab f).furrows ≠ []) →
          t.queue q = { s.queue q with head := none, go := false, cmds := (s.queue q).cmds ++ [s.recAt q w none] }) ∧
        ∀ r, r ≠ q.val → t.queue r = s.queue r) ∧
  (∀ (q : Fin 8192) (s : State) (w : CmdWord) (c f : Nat) (d : RunDesc) (ft bt : LTable)
    (new : Nat → Nat → List Launch), s.Canon → s.MayRun q 0x11 w → c = s.qCtx q →
    (List.range 4).filter (fun f => cmdAt w (32 + 8 * f) 8 != 0) = [f] →
    d = RunDesc.parse (s.peekHbm (cmdAt w (32 + 8 * f) 8) 128) → ft = s.tableAt d.ftab → bt = s.tableAt d.btab →
    ((s.ctx c).latch.compat && (s.ctx c).latch.tied) = false → s.inMask c f = true → s.isFenced (.field f) = false →
    s.badRunAt c (cmdAt w (32 + 8 * f) 8) = false → s.tableWaits true c (cmdAt w (32 + 8 * f) 8) = false →
    (∀ x ∈ [ft, bt], ∀ l ∈ x.furrows, ∃ n : Fin 26, s.physical f l = some n.val ∧ s.isFenced (.stream f n c x.strm) = false) →
    new = (fun n k =>
      (if k = bt.strm then (List.range d.pairs).flatMap fun i => (bt.furrows.filter fun l => s.physical f l == some n).map fun l =>
        ⟨q, s.qStart q, bt.progs.getD l 0, stridden bt.base d.bstride (d.b0 + i), d.b0 + i, some s.freshRun, 2 * i⟩ else []) ++
      (if k = ft.strm then (List.range d.pairs).flatMap fun i => (ft.furrows.filter fun l => s.physical f l == some n).map fun l =>
        ⟨q, s.qStart q, ft.progs.getD l 0, stridden ft.base d.fstride (d.f0 + i), d.f0 + i, some s.freshRun, 2 * i + 1⟩ else [])) →
      ∃ t, exec (.seqrun q) s = .next t ∧ s.SameBut t [.regs, .streams, .seqRuns, .ctxs, .pairs, .queues] ∧
        (∀ (n : Fin 26) (k : Fin 3), (t.strm f n c k).launches = (s.strm f n c k).launches ++ new n k) ∧
        (∀ (g : Fin 4) (n : Fin 26) (e : Fin 64) (k : Fin 3), g.val ≠ f ∨ e.val ≠ c → t.strm g n e k = s.strm g n e k) ∧
        t.seqRuns = s.seqRuns ++
          (if d.pairs ≤ 1 then [] else [⟨s.freshRun, f, c, q, s.qStart q, d.pairs, 1⟩]) ∧
        ∀ r, r ≠ q.val → t.queue r = s.queue r)

/-- R109, R110, R144, R148, R452: the oldest launch of an idle stream on a furrow that is awake starts: the stream waits for its
program, with the launch's base registers and microbatch and nothing bound; a stream that has stepped refuses it. A fetch brings
the program's bytes up to the next aligned 256 into the stream's buffer, each uncorrectable word marked. The oldest run of the
field whose earlier backward launch is done issues its next forward launch, which may then start; until then it does not. -/
def Obligations.LaunchesStartAndFetch : Prop :=
  (∀ (i : StreamId) (s : State) (l : Launch) (rest : List Launch), s.Canon → (s.st (atOf i)).launches = l :: rest →
    (s.st (atOf i)).cur = none → s.streamHeld i.field i.furrow i.ctx i.strm = false → s.awake i.field i.furrow = true →
      (s.unissued l = true → exec (.launchStart i) s = .next s) ∧ (s.unissued l = false →
      ∃ t, exec (.launchStart i) s = .next t ∧ s.SameBut t [.regs, .streams, .queues] ∧
        (∀ j : StreamId, j ≠ i → t.st (atOf j) = s.st (atOf j)) ∧
        ((s.st (atOf i)).stepped = true → t.st (atOf i) = { s.st (atOf i) with launches := rest } ∧
          ∀ x ∈ (t.queue l.queue).cmds, x.seq = l.seq → x.bad = 1) ∧
        ((s.st (atOf i)).stepped = false → { t with streams := s.streams } = s ∧ t.st (atOf i) =
          { s.st (atOf i) with
            launches := rest, cur := some l, state := .waiting, wait := .fetch, pc := l.prog, base := l.base, mb := l.mb,
            bindA := none, bindW := [none, none, none, none], buf := [], arrived := none, sampled := 0 }))) ∧
  (∀ (i : StreamId) (s : State) (a k : Nat), s.Canon → (s.st (atOf i)).cur.isSome = true → (s.st (atOf i)).state ≠ .halted →
    s.streamHeld i.field i.furrow i.ctx i.strm = false → a = (s.st (atOf i)).pc + 16 * (s.st (atOf i)).buf.length →
    k = (s.fetchWords i.ctx a).length → 0 < k → (s.st (atOf i)).buf.length + k ≤ 512 → s.hbmWaits a (16 * k) = false →
      ∃ t, exec (.streamFetchDone i) s = .next t ∧ s.SameBut t [.regs, .streams, .pairs] ∧
        (t.st (atOf i)).buf = (s.st (atOf i)).buf ++ (s.fetchWords i.ctx a).zipIdx.map (fun x =>
          if s.readBad x.1 16 then none else some (BitVec.ofNat 128 (leAt (s.peekHbm a (16 * k)) (16 * x.2) 16))) ∧
        (t.st (atOf i)).pc = (s.st (atOf i)).pc ∧ (t.st (atOf i)).cur = (s.st (atOf i)).cur ∧
        (t.st (atOf i)).launches = (s.st (atOf i)).launches ∧ ∀ j : StreamId, j ≠ i → t.st (atOf j) = s.st (atOf j)) ∧
  ∀ (f : Fin 4) (s : State) (r : SeqRun), s.Canon →
    s.seqRuns.find? (fun r => r.field == f.val && s.backDone r.id (r.issuedF - 1)) = some r →
      ∃ t, exec (.seqForwardIssue f) s = .next t ∧ { t with seqRuns := s.seqRuns } = s ∧
        (∀ l : Launch, l.run = some r.id → l.idx / 2 ≤ r.issuedF → t.unissued l = false) ∧
        t.seqRuns = (if r.issuedF + 1 = r.pairs then s.seqRuns.filter fun x => x.id != r.id
          else s.seqRuns.map fun x => if x.id == r.id then { x with issuedF := r.issuedF + 1 } else x)

/-! ### Queue commands -/

/-- R359, R361, R364: a NOP finishes OK. A COPY or FILL of no bytes finishes OK, and moves nothing; one that passes
its checks joins the copy engines with its ranges as the command words give them, and stays open. R154, R158, R262, R364,
R367: when copy `i` ends it leaves the engines, and its command is finished: OK if nothing went wrong, and UNCORRECTED if
the host's side answered with an error or the device side met an uncorrectable codeword. A copy or fill has
written at its destination the bytes of its source, or its pattern repeated: in host memory, and in device memory at the place
that the range maps to (R286), where no codeword was lost (R165); unless the host's side failed. -/
def Obligations.NopAndCopiesStart : Prop :=
  (∀ (q : Fin 8192) (s : State) (w : CmdWord) (x : CopyOp), s.Canon →
    (s.MayRun q 0x00 w → lowest (reservedBytes w 32 32) = none →
      ∃ t, exec (.nop q) s = .next t ∧ s.Ran t (s.started q w) q w) ∧
    (s.MayRun q 0x20 w → cmdAt w 48 6 < 2 ^ 40 → cmdAt w 56 1 < 4 → lowest (reservedBytes w 54 2 ++ reservedBytes w 57 7) = none →
      x = ⟨q, s.qStart q, cmdAt w 32 8, cmdAt w 40 8, (cmdAt w 56 1).testBit 0, (cmdAt w 56 1).testBit 1, cmdAt w 48 6, none⟩ →
      (x.len = 0 → ∃ t, exec (.copy q) s = .next t ∧ s.Ran t (s.started q w) q w) ∧
      (0 < x.len → (x.srcHost = false → s.inPartition (s.qCtx q) x.src x.len = true ∧ s.rangeFenced x.src x.len = false) →
        (x.dstHost = false → s.inPartition (s.qCtx q) x.dst x.len = true ∧
          s.writeOk (s.qCtx q) x.dst x.len (CmdWord.bound w) false = true ∧ s.rangeFenced x.dst x.len = false) →
        ∃ t, exec (.copy q) s = .next t ∧ s.Began t { s.started q w with copies := s.copies ++ [x] } q w)) ∧
    (s.MayRun q 0x21 w → cmdAt w 48 6 < 2 ^ 40 → cmdAt w 48 1 % 4 = 0 → cmdAt w 56 1 < 4 → (cmdAt w 56 1).testBit 0 = false →
      lowest (reservedBytes w 32 8 ++ reservedBytes w 54 2 ++ reservedBytes w 57 3) = none →
      x = ⟨q, s.qStart q, 0, cmdAt w 40 8, false, (cmdAt w 56 1).testBit 1, cmdAt w 48 6, some (BitVec.ofNat 32 (cmdAt w 60 4))⟩ →
      (x.len = 0 → ∃ t, exec (.fill q) s = .next t ∧ s.Ran t (s.started q w) q w) ∧
      (0 < x.len → (x.dstHost = false → s.inPartition (s.qCtx q) x.dst x.len = true ∧
          s.writeOk (s.qCtx q) x.dst x.len (CmdWord.bound w) false = true ∧ s.rangeFenced x.dst x.len = false) →
        ∃ t, exec (.fill q) s = .next t ∧ s.Began t { s.started q w with copies := s.copies ++ [x] } q w))) ∧
  (∀ (i : Fin 4) (host : List Byte) (ok : Bool) (s : State) (x : CopyOp) (c : QCmd) (b : List Byte), s.Canon → s.copies[i.val]? = some x →
    s.cmd? x.queue x.seq = some c → c.fin = none → s.copyWaits x = false →
    b = (match x.pattern with
      | some p => fillBytes p x.len
      | none => if x.srcHost then (List.range x.len).map fun k => host.getD k 0 else s.peekHbm x.src x.len) →
      ∃ t, exec (.copyDone i host ok) s = .next t ∧ t.copies = s.copies.eraseIdx i ∧
        t.cmd? x.queue x.seq =
          some { c with
            fin := some (if ((x.srcHost || x.dstHost) && !ok) || s.copyBad x then uncorrected else okStatus, 0)
            ready := c.step.isNone } ∧
        (∀ r, r ≠ x.queue → t.queue r = s.queue r) ∧
        (x.dstHost = true → ok = true →
          t.hostMem = s.hostMem.writeN hostUnit (s.qFunc x.queue * 2 ^ 64 + x.dst) b) ∧
        (x.dstHost = false → (x.srcHost = true → ok = true) → s.copyBad x = false →
          ∀ base, (∀ k, k < x.len → s.mapAddr (x.dst + k) = base + k) →
            ∃ u : State, t = (u.finishCmd x.queue x.seq okStatus 0).stepProgress (s.qCtx x.queue) ∧
              u.hbm = s.hbm.writeN granSize base b))

/-- R258, R361, R365: COLL and SWAP_LAYER hand their descriptor to the collective engine of the field that holds it, and stay
open: the engine's operation finishes them. -/
def Obligations.CollectiveCommandsStart : Prop :=
  ∀ (q : Fin 8192) (host : List Byte) (s : State) (w : CmdWord) (c desc f : Nat) (d : Desc), s.Canon → c = s.qCtx q →
    f = fieldOf desc → d = Desc.parse (s.peekHbm desc 128) → desc % 64 = 0 → desc < 2 ^ 41 → s.inPartition c desc 128 = true →
    s.inPartition c d.grp d.tableBytes = true → s.inMask c f = true → s.isFenced (.field f) = false →
      (s.MayRun q 0x30 w → desc = cmdAt w 32 8 → lowest (reservedBytes w 40 24) = none →
        ∃ t, exec (.coll q host) s = .next t ∧
          s.Began t ((s.started q w).handCol f c desc (.cmd q (s.qStart q)) (CmdWord.bound w) host) q w) ∧
      (s.MayRun q 0x63 w → desc = cmdAt w 40 8 → s.serving c = true → s.swap c = swSwapping → d.sows = true →
        cmdAt w 32 2 ≤ 4095 → lowest (reservedBytes w 34 6 ++ reservedBytes w 48 16) = none →
        ∃ t, exec (.swapLayer q host) s = .next t ∧
          s.Began t (((s.started q w).setSrv c
            { s.srv c with
              accepted := true, layers := (s.srv c).layers ++ [(q.val, s.qStart q, cmdAt w 32 2)] }).handCol f c desc
            (.swap q (s.qStart q)) false host) q w)

/-- R57, R144, R292, R294, R302, R330: BEGIN N: where the context may begin step N the command finishes OK, step N is the current
step, RUNNING unless a field of its mask is fenced, and the step's latches hold the context's registers (a replay keeps the last
attempt's, but for the runs); every stream of the context is ready for the step. A context whose entry barrier is closed keeps it
waiting, and so do device addresses that take no request (R154, R158). -/
def Obligations.BeginStartsStep : Prop :=
  ∀ (q : Fin 8192) (rings : Rings) (s : State) (w : CmdWord) (c n mode : Nat), s.Canon → s.MayRun q 0x40 w → c = s.qCtx q →
    n = cmdAt w 32 4 → mode = cmdAt w 36 1 → mode < 3 → lowest (reservedBytes w 37 27) = none →
    s.beginRefused c n mode = false → s.groupInvalid c = false →
      (s.barrierClosed c = true ∨ s.beginWaits c = true → exec (.begin q rings) s = .next s) ∧ (s.beginWaits c = false →
      (s.serving c = false → ∃ t, exec (.begin q rings) s = .next t ∧ s.Ran t ((s.started q w).beginStep c n mode) q w ∧
        (∀ (f : Fin 4) (k : Fin 26) (r : Fin 3), (t.strm f k c r).stepped = false ∧ (t.strm f k c r).gotLaunch = false ∧
          (t.strm f k c r).loss = none ∧ (t.strm f k c r).qsum = 0) ∧
        ((∀ f : Fin 4, (s.eng f).waiting = []) →
          (t.ctx c).latch = s.latchFor c mode ∧ (t.ctx c).reported = false ∧ (t.ctx c).totals = {} ∧ (t.ctx c).held = [] ∧
          t.stepOf c = n ∧ t.rf (R.CMT_CSTAT_MODE c) = mode ∧
          t.rf (R.CMT_CSTEP_C c) = s.rf (R.CMT_CSTEP_C c) ∧
          (s.flag (R.CMT_CGRP_HI_EN c) = true →
            (t.ctx c).group = some (Group.parse (s.peekHbm (s.groupAt c) 64))) ∧
          (s.flag (R.CMT_CGRP_HI_EN c) = false → (t.ctx c).group = none ∧
            t.cstate c = (if s.maskFenced c then stBlocked else stRunning) ∧
            t.rf (R.CMT_CSTAT_BLOCK c) = (if s.maskFenced c then 32 else 0)))) ∧
      (s.serving c = true → s.barrierClosed c = false → mode = 1 → ∃ t, exec (.begin q rings) s = .next t ∧
        s.Ran t ((s.started q w).beginServing c n 1 [] ((s.srv c).attempt.getD {})) q w) ∧
      (s.serving c = true → s.barrierClosed c = false → mode = 2 → ∃ t, exec (.begin q rings) s = .next t ∧
        s.Ran t ((s.started q w).beginServing c n 2 [] (s.checkAdmission c)) q w) ∧
      (s.serving c = true → s.barrierClosed c = false → mode = 0 → ∀ a,
        s.admission c ((s.srv c).held ++ s.takenOf c (s.scanServe rings c)) = ([], a) → ∃ t, exec (.begin q rings) s = .next t ∧
          s.Ran t ((s.started q w).beginServing c n 0 (s.scanServe rings c) a) q w))

/-- R290, R294, R296 to R299: COMMIT of a ready step makes it the committed step: the context is at BOUNDARY, C is N,
and every own region's live copy toggles. ABORT of the current step leaves BOUNDARY with step N replayable. ROLLBACK
takes C back by one and ADOPT sets it, each with the live copies toggled and no further rollback possible. R295, R303:
when every condition of R295 holds, the context is READY and its event 0 is raised; a context with no commit group
goes no further. -/
def Obligations.StepsEnd : Prop :=
  (∀ (q : Fin 8192) (s : State) (w : CmdWord) (c : Nat), s.Canon → c = s.qCtx q → lowest (reservedBytes w 36 28) = none →
    (s.MayRun q 0x41 w → s.cstate c = stReady → cmdAt w 32 4 = s.stepOf c → ∃ t, exec (.commit q) s = .next t ∧
      s.Ran t ((s.started q w).commitStep c) q w ∧
      (∀ i, (t.region i).live = ((s.region i).live != (s.region i).own c)) ∧
      (s.serving c = false → t.cstate c = stBoundary ∧ t.rf (R.CMT_CSTEP_C c) = s.stepOf c ∧ t.rf (R.CMT_CSTAT_RB c) = 1 ∧
        t.rf (R.CMT_CSTAT_REPLAYABLE c) = 0 ∧ t.rf (R.CMT_CSTAT_FWRITTEN c) = 0)) ∧
    (∀ rings, s.MayRun q 0x42 w → s.stepCurrent c = true → cmdAt w 32 4 = s.stepOf c →
      ∃ t, exec (.abort q rings) s = .next t ∧ s.Ran t ((s.started q w).abortStep rings c (CmdWord.tree w)) q w ∧
        t.cstate c = stBoundary ∧ t.rf (R.CMT_CSTAT_REPLAYABLE c) = 1 ∧ (t.ctx c).aborted = some (s.stepOf c) ∧ (∀ r ∈ t.seqRuns, r.ctx ≠ c) ∧
        (∀ (f : Fin 4) (n : Fin 26) (k : Fin 3), (t.strm f n c k).cur = none ∧ (t.strm f n c k).launches = [])) ∧
    (s.MayRun q 0x43 w → s.cstate c = stBoundary → s.rf (R.CMT_CSTEP_C c) = cmdAt w 32 4 → s.flag (R.CMT_CSTAT_RB c) = true →
      s.serving c = false →
      ∃ t, exec (.rollback q) s = .next t ∧ s.Ran t ((s.started q w).rollbackStep c) q w ∧ t.rf (R.CMT_CSTAT_RB c) = 0 ∧
        t.rf (R.CMT_CSTEP_C c) = (cmdAt w 32 4 + 2 ^ 32 - 1) % 2 ^ 32 ∧
        ∀ i, (t.region i).live = ((s.region i).live != (s.region i).own c)) ∧
    (s.MayRun q 0x44 w → s.cstate c = stReset → s.uncovered c = 0 →
      ∃ t, exec (.adopt q) s = .next t ∧ s.Ran t ((s.started q w).adoptStep c (cmdAt w 32 4)) q w ∧
        t.cstate c = stBoundary ∧ t.rf (R.CMT_CSTEP_C c) = cmdAt w 32 4 ∧ t.rf (R.CMT_CSTAT_RB c) = 0 ∧
        ∀ i, (t.region i).live = ((s.region i).live != (s.region i).own c))) ∧
  (∀ (c : Fin 64) (rings : Rings) (s : State), s.Canon → s.readyNow rings c = true →
    ∃ t, exec (.stepReady c rings) s = .next t ∧
      t = ((s.wf (R.CMT_CSTAT_STATE c) stReady).ctxEvent c 0).subtreeReady c ∧
      ((s.ctx c).group = none → s.SameBut t [.regs, .msgs, .msixPend] ∧ t.cstate c = stReady ∧
        (t.rf (R.HIF_CEVTS_CAUSE c)).testBit 0 = true))

/-! ### Serving -/

/-- R325 to R327: a JOIN with proper arguments waits at the head of its queue until a BEGIN takes it: its own command
leaves everything as it is; R436: one whose field is fenced ends FENCED. Outside a step a LEAVE of a live sequence ends it and one of a queued join withdraws that;
in a step it waits. R333, R334, R336: SWAP_CLOSE of an open barrier, or without `DRAIN` of a pending one, sets the
target epoch to the epoch plus 1 and enters the swap state that R334 gives. SWAP_OPEN with `NEW` 1 in SWAPPING, with
every layer done, makes the target epoch the epoch and opens the barrier; with `NEW` 0, before any layer, it opens the
barrier on the old epoch. -/
def Obligations.JoinWaitsLeaveEnds : Prop :=
  (∀ (q : Fin 8192) (s : State) (w : CmdWord) (c : Nat), s.Canon → c = s.qCtx q → s.serving c = true →
    (s.MayRun q 0x60 w → lowest (joinBad w) = none →
      (s.isFenced (.field (cmdAt w 36 1 % 4)) = false → exec (.join q) s = .next s) ∧
      (s.isFenced (.field (cmdAt w 36 1 % 4)) = true →
        ∃ t, exec (.join q) s = .next t ∧ t = s.stopCmd q w fencedStatus 0)) ∧
    (s.MayRun q 0x61 w → lowest (leaveBad w) = none → s.stepCurrent c = true → exec (.leave q) s = .next s) ∧
    (s.MayRun q 0x61 w → lowest (leaveBad w) = none → s.stepCurrent c = false →
      ((s.srv c).seqs.any (fun e => e.2.seqid == cmdAt w 32 4) || (s.srv c).adm.any fun j => j.seqid == cmdAt w 32 4) = true →
        ∃ t, exec (.leave q) s = .next t ∧ s.Ran t ((s.started q w).leaveNow c (cmdAt w 32 4)) q w ∧
          (∀ k, slotOf (s.srv c).seqs (cmdAt w 32 4) = some k →
            (t.srv c).seqs = sdel (s.srv c).seqs k ∧ (t.srv c).adm = (s.srv c).adm) ∧
          (slotOf (s.srv c).seqs (cmdAt w 32 4) = none →
            (t.srv c).seqs = (s.srv c).seqs ∧ ∀ j ∈ (t.srv c).adm, j.seqid ≠ cmdAt w 32 4))) ∧
  (∀ (q : Fin 8192) (s : State) (w : CmdWord) (c : Nat) (flag : Bool), s.Canon → c = s.qCtx q → s.serving c = true →
    flag = (cmdAt w 32 1).testBit 0 → cmdAt w 32 1 < 2 → lowest (reservedBytes w 33 31) = none →
    (s.MayRun q 0x62 w → s.swap c = swOpen ∨ (s.swap c = swPending ∧ flag = false) →
      ∃ t, exec (.swapClose q) s = .next t ∧ t.swap c = s.closeTo c flag ∧
        t.rf (R.SRV_TARGET_EPOCH c) = (s.rf (R.SRV_EPOCH_EPOCH c) + 1) % 2 ^ 32 ∧
        t.rf (R.SRV_EPOCH_EPOCH c) = s.rf (R.SRV_EPOCH_EPOCH c) ∧
        t.rf (R.SRV_SWAP_POLICY c) = (if flag then 1 else 0) ∧ (t.srv c).accepted = false ∧
        (t.srv c).closedAt = (if s.closeTo c flag = swPending then none else some ((s.srv c).closedAt.getD s.now)) ∧
        (t.srv c).seqs = (s.srv c).seqs ∧ ∀ r, r ≠ q.val → t.queue r = s.queue r) ∧
    (s.MayRun q 0x64 w → flag = true → s.swap c = swSwapping → (s.srv c).layers = [] → (s.srv c).failed = [] →
      ∃ t, exec (.swapOpen q) s = .next t ∧ s.SameBut t [.regs, .queues, .serv] ∧ t.swap c = swOpen ∧
        t.rf (R.SRV_EPOCH_EPOCH c) = s.rf (R.SRV_TARGET_EPOCH c) ∧
        t.rf (R.SRV_HOLD_US c) = min ((s.now - (s.srv c).closedAt.getD s.now) / 25) (2 ^ 32 - 1) ∧ (t.srv c).closedAt = none) ∧
    (s.MayRun q 0x64 w → flag = false → s.swap c ≠ swOpen → (s.srv c).accepted = false →
      ∃ t, exec (.swapOpen q) s = .next t ∧ s.SameBut t [.regs, .queues, .serv] ∧ t.swap c = swOpen ∧
        t.rf (R.SRV_EPOCH_EPOCH c) = s.rf (R.SRV_EPOCH_EPOCH c) ∧ (t.srv c).closedAt = none))

/-! ### Collective operations -/

/-- R258, R272: a ready and legal COL leaves the issue stage and hands its descriptor to its field's engine: it claims the
operation that a prefetch of the step has started, waits while 64 operations are busy, while others wait or while its memory
sleeps or is being cleared, and is accepted otherwise. -/
def Obligations.CollectiveInstructionIssues : Prop :=
  ∀ (i : StreamId) (body : BitVec 120) (host : List Byte) (s : State) (w : InstrWord) (desc : Nat) (user : ColUser), s.Canon →
    w = tileWord 0x50 body → s.MayCol i w → desc = s.colDesc (atOf i) w →
    user = .stream i.furrow i.strm (if fld w 11 1 = 1 then some (fld w 48 8) else none) true →
      ∃ u t, exec (.col i body host) s = .next t ∧ s.Issued u i ∧ u.engines = s.engines ∧
        t = u.handCol i.field i.ctx desc user true host ∧ t.streams = u.streams ∧
        (∀ o, s.claimable i.field i.ctx desc (s.stepOf i.ctx) = some o → o.done = false →
          t = u.setOp { o with users := [user] }) ∧
        (s.claimable i.field i.ctx desc (s.stepOf i.ctx) = none →
          (s.eng i.field).busy ≥ 64 ∨ (s.eng i.field).waiting ≠ [] ∨ s.colStalls i.ctx desc = true →
          { t with engines := u.engines } = u ∧
          ∃ spans, (t.eng i.field).waiting = (s.eng i.field).waiting ++ [⟨i.ctx, user, desc, true, host, spans⟩]) ∧
        (s.claimable i.field i.ctx desc (s.stepOf i.ctx) = none → (s.eng i.field).busy < 64 → (s.eng i.field).waiting = [] →
          s.colStalls i.ctx desc = false → t = u.acceptCol i.field i.ctx desc user (s.stepOf i.ctx) true host)

/-- R154, R262, R272, R281: an operation that has all its data ends with its status, one whose time is up with TIMEOUT, but
waits while the write of its `STATUS` would; with nothing waiting behind it, its OPID is closed in the engine (which an entry into
SWAPPING would open again) and, unless a prefetch nobody has claimed, the operation is gone. An
operation that owes its peers nothing more starts the operation of its `NEXT` descriptor, unless a fence or its memory holds it. -/
def Obligations.CollectiveOperationsEnd : Prop :=
  ∀ (f : Fin 4) (c : Fin 64) (opid : BitVec 32) (s : State) (o : ColOp), s.Canon → s.colOp? f c opid.toNat = some o →
    o.done = false →
    (s.endWaits o = true → ∀ e, e = .collectiveEnd f c opid ∨ e = .collectiveTimeout f c opid → exec e s = .next s) ∧
    (s.endWaits o = false → ∀ (e : Instr) (st : Nat), (e = .collectiveEnd f c opid ∧ st = o.status ∧ o.complete = true) ∨
      (e = .collectiveTimeout f c opid ∧ st = timeoutStatus) →
      ∃ t, exec e s = .next t ∧ t = (s.endOp o st false).nextWaiting f ∧
        ((s.eng f).waiting = [] → o.field = f.val → t.swap c = s.swap c → (c.val, opid.toNat) ∈ (t.eng f).closed ∧
          (o.users ≠ [.prefetch] → t.colOp? f c opid.toNat = none))) ∧
    ∀ (n : Nat) (host : List Byte), o.next = some n → o.complete = false → o.owesNothing = true → (s.eng f).busy < 64 →
      s.isFenced (.field f) = false → s.isFenced (.ctx c) = false → s.colStalls c n = false →
      ∃ t, exec (.nextPrefetch f c opid host) s = .next t ∧
        t = ((s.setOp { o with next := none }).acceptCol f c n .prefetch o.step o.bound host).nextWaiting f

/-- R276, R277: the oldest COLL or SOW packet that port `p` has delivered leaves the receive buffer, unless what it
brings would wait (R154, R158). For an accepted
operation of the context's step it goes to the operation; for one that is not accepted yet it joins the early store,
if it fits (its bytes there are free values, log 77); with the store full it stays where it is and the engine's source 3 holds. A packet for a context that is
not resident, or not in the field, one from no member, one of another step or run and one for a closed operation are discarded
with causes 0, 1, 3 and 4, and counted. R239, R276, R287: a WRITE packet for a resident context of the field, with writes
enabled, whose bytes lie in the partition and may be written, of a step that may be (in RESET of any), is stored at its address.
One for a context that is not resident is discarded with cause 0, one with writes disabled with cause 1, one outside the
partition or that may not be written with cause 2, one of another step with cause 3: memory is unchanged. -/
def Obligations.CollectivePacketsArrive : Prop :=
  (∀ (e : Instr) (p : Fin 12) (vc : Fin 2) (ty tc : Nat) (s u : State) (x : Pkt) (rest : List (Nat × Pkt)), s.Canon →
    (e = .collPacket p vc ∧ ty = 2 ∧ tc = 1) ∨ (e = .sowPacket p vc ∧ ty = 3 ∧ tc = 0) →
    takeInbox p tc vc s.inbox = some (x, rest) → x.ptype = ty → u = s.consume p x rest →
    (s.dataWaits x = true → exec e s = .next s) ∧
    (s.dataWaits x = false →
    ((s.resident x.dctx && s.inMask x.dctx x.dfld) = false →
      ∃ t, exec e s = .next t ∧ t = (u.discardPkt x.dfld x 0).easeEarly x.dfld ∧
      s.SameBut t [.regs, .pairs, .ports, .inbox] ∧ t.inbox = rest ∧
      t.rf (R.COL_RXDROP_COUNT x.dfld) = satAdd32 (s.rf (R.COL_RXDROP_COUNT x.dfld)) 1) ∧
    (s.resident x.dctx = true → s.inMask x.dctx x.dfld = true →
      (∀ o, s.colOp? x.dfld x.dctx x.opid = some o → o.step = x.step → o.from x = false →
        ∃ t, exec e s = .next t ∧ t = (u.discardPkt x.dfld x 1).easeEarly x.dfld) ∧
      ((∀ o, s.colOp? x.dfld x.dctx x.opid = some o → o.step = x.step → o.from x = true) →
        (s.stepNear x.dctx x.step = none ∨ x.run ≠ (s.ctx x.dctx).latch.runs.getD x.dfld 0 →
          ∃ t, exec e s = .next t ∧ t = (u.discardPkt x.dfld x 3).easeEarly x.dfld) ∧
        (x.run = (s.ctx x.dctx).latch.runs.getD x.dfld 0 →
          (s.stepNear x.dctx x.step = some true → (s.eng x.dfld).closed.contains (x.dctx, x.opid) = true →
            ∃ t, exec e s = .next t ∧ t = (u.discardPkt x.dfld x 4).easeEarly x.dfld) ∧
          (∀ o, s.stepNear x.dctx x.step = some true → s.colOp? x.dfld x.dctx x.opid = some o → o.step = x.step →
            (s.eng x.dfld).closed.contains (x.dctx, x.opid) = false →
            ∃ t, exec e s = .next t ∧ t = (u.takePkt o x).easeEarly x.dfld) ∧
          (s.stepNear x.dctx x.step = some false ∨ (s.stepNear x.dctx x.step = some true ∧
              (∀ o, s.colOp? x.dfld x.dctx x.opid = some o → o.step ≠ x.step) ∧
              (s.eng x.dfld).closed.contains (x.dctx, x.opid) = false) → x.kind ≠ 3 →
            (s.earlyFits x.dfld x.dctx x = true → ∃ t, exec e s = .next t ∧
              t = (u.keepEarly x.dfld x.dctx x).easeEarly x.dfld ∧
              s.SameBut t [.freeCtr, .regs, .hbm, .hbmBad, .regions, .coverage, .pairs, .ports, .inbox, .engines] ∧
              (t.eng x.dfld).early = (s.eng x.dfld).early ++ [(x.dctx, x)]) ∧
            (s.earlyFits x.dfld x.dctx x = false → ∃ t, exec e s = .next t ∧ s.SameBut t [.regs, .pairs] ∧
              (t.pair (pairKey (Page.collengBase x.dfld) 3)).cond = true))))))) ∧
  (∀ (p : Fin 12) (vc : Fin 2) (s u : State) (x : Pkt) (rest : List (Nat × Pkt)) (n : Nat) (en near : Bool), s.Canon →
    takeInbox p 0 vc s.inbox = some (x, rest) → x.ptype = 1 → u = s.consume p x rest → n = x.payload.length →
    s.hbmWaits x.addr n = false →
    en = (if s.stepCurrent x.dctx then (s.ctx x.dctx).latch.writeEn.getD x.dfld false
      else s.flag (R.COL_CTX_WRITE_EN x.dfld x.dctx)) →
    near = (s.cstate x.dctx == stReset || (s.stepNear x.dctx x.step).isSome) →
    ((s.resident x.dctx && s.inMask x.dctx x.dfld) = false → exec (.writePacket p vc) s = .next (u.discardPkt x.dfld x 0)) ∧
    (s.resident x.dctx = true → s.inMask x.dctx x.dfld = true →
      (en = false → exec (.writePacket p vc) s = .next (u.discardPkt x.dfld x 1)) ∧
      (en = true → s.inPartition x.dctx x.addr n = false ∨ s.writeOk x.dctx x.addr n true true = false →
        exec (.writePacket p vc) s = .next (u.discardPkt x.dfld x 2)) ∧
      (en = true → s.inPartition x.dctx x.addr n = true → s.writeOk x.dctx x.addr n true true = true →
        (near = false → exec (.writePacket p vc) s = .next (u.discardPkt x.dfld x 3)) ∧
        (near = true → x.aux / 4 = 0 → s.otherFenced x.dfld x.addr n = false →
          ∃ t, exec (.writePacket p vc) s = .next t ∧ t = u.hbmWrite (.engine x.dctx x.dfld) x.addr x.payload))))

/-- R276, R279, R280, R308: the mirror packets at the partner region that names their sender. BEGIN of a step and run makes
them the kept pair, once every region of the source whose drained pair it follows has flipped; DATA of the kept pair counts and is written at its offset in the region's second copy; END sends back an
ACK that carries the number of packets applied, and the region is drained if that is the number sent. A packet that fails a check
is discarded with the check's cause. At the source an ACK of the
right number drains the mirror. R280: a mirror that has sent its END and has no ACK when its time is up fails:
counted, its source raised, and the running step blocked. -/
def Obligations.MirrorPacketsAct : Prop :=
  (∀ (p : Fin 12) (vc : Fin 2) (s u : State) (x : Pkt) (rest : List (Nat × Pkt)) (i : Nat) (r : Region) (flips : Bool),
    s.Canon →
    takeInbox p 0 vc s.inbox = some (x, rest) → x.ptype = 4 → u = s.consume p x rest → i = x.mRegion → r = s.region i →
    flips = (r.due r.kstep && x.step == (r.kstep + 1) % 2 ^ 32) →
    (x.kind = 1 → s.mirrorFor x = none → ∃ t, exec (.mirrorBegin p vc) s = .next t ∧ { t with regions := s.regions } = u ∧
      (t.region i).kept = true ∧ (t.region i).kstep = x.step ∧ (t.region i).run = x.run ∧ (t.region i).drained = false ∧
      (t.region i).flipped = false ∧ (t.region i).applied = 0 ∧ (t.region i).live = (r.live != flips) ∧
      (t.region i).back = (r.back || flips) ∧
      ∀ j, j ≠ i → t.region j =
        (if flips = true ∧ j ∈ s.mirrorsFrom r.ctx r.partDev r.partCtx ∧ (s.region j).due r.kstep = true then
          (s.region j).flip r.kstep true else s.region j)) ∧
    (x.kind = 0 → s.mirrorFor x = none → x.addr + x.payload.length ≤ r.len * 4096 → r.kept = true → r.kstep = x.step →
      r.run = x.run → r.flipped = false → s.hbmWaits (s.mirrorAt x) x.payload.length = false →
      ∃ t, exec (.mirrorData p vc) s = .next t ∧
        t = (u.setRegion i { r with applied := r.applied + 1, back := false }).hbmWrite (.engine r.ctx r.field)
          (r.field * 2 ^ 39 + r.copy1 * 4096 + x.addr) x.payload ∧ (t.region i).applied = r.applied + 1) ∧
    (x.kind = 2 → s.mirrorFor x = none → r.kept = true → r.kstep = x.step → r.run = x.run →
      ∃ t, exec (.mirrorEnd p vc) s = .next t ∧ s.SameBut t [.regs, .regions, .pairs, .ports, .inbox] ∧
        (∀ ack : Pkt, ack = {
            ptype := 4, tc := 0, vc := 0, dst := r.partDev, src := 0, dctx := r.partCtx, len := 0, life := 0,
            opid := 0, step := x.step, addr := 0, own := some r.ctx, payload := [],
            aux := r.partFld + 4 * 3 + 16 * r.partReg + 2 ^ 16 * (r.applied % 2 ^ 24) + 2 ^ 40 * x.run } →
          t = (u.setRegion i { r with drained := r.applied % 2 ^ 24 == x.mCount }).sendPkt r.field ack) ∧
        t.region i = { r with drained := r.applied % 2 ^ 24 == x.mCount } ∧ ∀ j, j ≠ i → t.region j = s.region j) ∧
    (∀ k e, (k, e) ∈ [(0, Instr.mirrorData p vc), (1, .mirrorBegin p vc), (2, .mirrorEnd p vc)] → x.kind = k →
      (k = 0 → s.hbmWaits (s.mirrorAt x) x.payload.length = false) → ∀ cause, s.mirrorFor x = some cause →
      exec e s = .next (u.discardPkt x.dfld x cause)) ∧
    (x.kind = 3 → s.resident x.dctx = true → s.inMask x.dctx x.dfld = true → r.valid = true → r.mirrorRole = false →
      r.mirrored = true → r.ctx = x.dctx → r.partDev = x.src → s.stepCurrent r.ctx = true → x.step = s.stepOf r.ctx →
      x.run = (s.ctx r.ctx).latch.runs.getD r.field 0 → r.sentEnd = true → x.mCount = r.endCount →
      ∃ t, exec (.mirrorAck p vc) s = .next t ∧ { t with regions := s.regions } = u ∧
        t.region i = { r with ackDrained := true } ∧ ∀ j, j ≠ i → t.region j = s.region j)) ∧
  (∀ (i : Fin 4096) (s : State) (r : Region), s.Canon → r = s.region i → r.valid = true → r.mirrorRole = false →
    r.mirrored = true → r.sentEnd = true → r.ackDrained = false → r.ackFailed = false → s.stepCurrent r.ctx = true →
      ∃ t, exec (.mirrorTimeout i) s = .next t ∧ s.SameBut t [.regs, .regions, .pairs] ∧
        t.region i = { r with ackFailed := true } ∧ (∀ j, j ≠ i.val → t.region j = s.region j) ∧
        (r.field < 4 → r.ctx < 64 →
          t.rf (R.COL_MIRFAIL_COUNT r.field) = satAdd32 (s.rf (R.COL_MIRFAIL_COUNT r.field)) 1 ∧
          (s.cstate r.ctx = stRunning → t.cstate r.ctx = stBlocked)))

/-! ### Tokens -/

/-- R296, R303 to R305, R308: a token of its kind that port `p` has delivered and that passes the checks acts: READY marks its
child, or is held for the next step; COMMIT commits the step and ABORT aborts it, passing on to the children; MIRROR_COMMIT flips
every mirror region of the source once all are drained, and MIRROR_ROLLBACK flips those back whose older copy still stands. A token that fails a check, and any of
a reserved kind, is discarded with the first failing check's cause, and counted. -/
def Obligations.TokensAct : Prop :=
  ∀ (p : Fin 12) (vc : Fin 2) (rings : Rings) (s u : State) (x : Pkt) (rest : List (Nat × Pkt)) (k : Token), s.Canon →
    takeInbox p 2 vc s.inbox = some (x, rest) → x.ptype = 5 → u = s.consume p x rest → k = Token.of x →
    (∀ (n : Nat) (e : Instr) (cause : Nat), (n, e) ∈ [(0, .tokenReady p vc), (1, .tokenCommit p vc), (2, .tokenAbort p vc rings),
        (3, .tokenMirrorCommit p vc), (4, .tokenMirrorRollback p vc)] → k.kind = n ∨ k.kind > 4 → u.tokenCause k = some cause →
      ∃ t, exec e s = .next t ∧ t = u.dropToken k cause ∧ s.SameBut t [.regs, .pairs, .ports, .inbox] ∧
        t.rf R.CMT_TOK_DROP_COUNT = satAdd32 (s.rf R.CMT_TOK_DROP_COUNT) 1) ∧
    (u.tokenCause k = none →
      (k.kind = 0 → u.holdsToken k = true → ∃ t, exec (.tokenReady p vc) s = .next t ∧ { t with ctxs := s.ctxs } = u ∧
        (t.ctx k.dctx).held = (s.ctx k.dctx).held ++ [k]) ∧
      (k.kind = 0 → u.holdsToken k = false → ∃ t, exec (.tokenReady p vc) s = .next t ∧
        t = (u.markChild k.dctx k).subtreeReady k.dctx) ∧
      (k.kind = 1 → ∃ t, exec (.tokenCommit p vc) s = .next t ∧ t = u.commitStep k.dctx) ∧
      (k.kind = 2 → ∃ t, exec (.tokenAbort p vc rings) s = .next t ∧ t = u.abortStep rings k.dctx true) ∧
      (k.kind = 3 → (∀ i ∈ s.mirrorsOf k, (s.region i).drained = true ∧ (s.region i).kstep = k.step) →
        ∃ t, exec (.tokenMirrorCommit p vc) s = .next t ∧ { t with regions := s.regions } = u ∧
          (∀ i, i ∉ s.mirrorsOf k → t.region i = s.region i) ∧
          ∀ i ∈ s.mirrorsOf k, t.region i = (s.region i).flip k.step false) ∧
      (k.kind = 3 → (∃ i ∈ s.mirrorsOf k, (s.region i).drained = false ∨ (s.region i).kstep ≠ k.step) →
        ∃ t, exec (.tokenMirrorCommit p vc) s = .next t ∧ t = u.raiseSrc Page.commitBase 1 ∧ t.regions = s.regions) ∧
      (k.kind = 4 → ∃ t, exec (.tokenMirrorRollback p vc) s = .next t ∧ { t with regions := s.regions } = u ∧
          (∀ i, i ∉ s.mirrorsOf k → t.region i = s.region i) ∧
          ∀ i ∈ s.mirrorsOf k, t.region i =
            (if (s.region i).back = true ∧ (s.region i).mstep = k.step then
              { s.region i with
                live := !(s.region i).live, mstep := (k.step + 2 ^ 32 - 1) % 2 ^ 32, back := false
                flipped := (s.region i).flipped && (s.region i).kstep != k.step }
            else s.region i)))

/-! ### Mebenlink ports -/

/-- R228, R230 to R232, R235, R254: an intact flit on a working port frees what its ACK covers from the replay buffer. The DATA
flit that is expected advances the sequence number, ends the wait for a replay and returns its credits, unless its slots
fail the port; a DATA flit out of sequence is not taken. A NAK asks for the flit after its ACK again, and retrains an ACTIVE
port when that has been asked too often. In KEX a KEYON's countdown says when decryption starts, where a packet that a retrain
interrupted goes on. A flit that is not intact asks for a replay, once. -/
def Obligations.FlitsAreReceived : Prop :=
  ∀ (p : Fin 8) (x : FlitIn) (s : State) (left : List RFlit), s.Canon → s.linkUp p = true →
    left = (s.port p).replay.filter (fun r => !((x.hdr / 2 ^ 14 % 4096 + 4096 - r.seq) % 4096 < 2048)) →
    (x.intact = true → s.tagFails p x = false →
      (x.kind = 1 → ∃ t, exec (.idleFlit p x) s = .next t ∧ s.SameBut t [.regs, .pairs, .ports] ∧ (t.port p).replay = left ∧
        (t.port p).rxSeq = (s.port p).rxSeq ∧ (t.port p).credits = (s.port p).credits) ∧
      (x.kind = 0 → x.hdr / 4 % 4096 = (s.port p).rxSeq → ∃ t, exec (.dataFlit p x) s = .next t ∧
        s.SameBut t [.regs, .pairs, .ports] ∧
        (t.linkUp p = true → (t.port p).rxSeq = ((s.port p).rxSeq + 1) % 4096 ∧ (t.port p).waiting = false ∧
          (t.port p).replay = left ∧ (t.port p).credits = (s.port p).credits.set (x.hdr / 2 ^ 26 % 8)
            ((s.port p).credits.getD (x.hdr / 2 ^ 26 % 8) 0 + x.hdr / 2 ^ 29))) ∧
      (x.kind = 0 → x.hdr / 4 % 4096 ≠ (s.port p).rxSeq → ∃ t, exec (.dataFlit p x) s = .next t ∧
        (t.port p).rxSeq = (s.port p).rxSeq ∧ (t.port p).replay = (s.port p).replay ∧
        (t.port p).credits = (s.port p).credits) ∧
      (x.kind = 2 → ∀ r, left.find? (fun r => r.seq == (x.hdr / 2 ^ 14 + 1) % 4096) = some r →
        ∃ t, exec (.nak p x) s = .next t ∧ s.SameBut t [.regs, .pairs, .ports] ∧
          if s.rf (R.MBL_CTRL_RETRY_MAX p) < r.asked + 1 ∧ s.pstate p = pActive then t.pstate p = pRetrain
          else (t.port p).resend = some ((x.hdr / 2 ^ 14 + 1) % 4096)) ∧
      (x.kind = 3 → s.pphase p = pKex → ∃ t, exec (.keyon p x) s = .next t ∧ s.SameBut t [.regs, .pairs, .ports] ∧
        if x.hdr / 4 % 16 = 0 then
          (t.port p).encRx = true ∧ (t.port p).keyRx = none ∧ (t.port p).slotRx = 0 ∧ (t.port p).asm = (s.port p).sAsm
        else (t.port p).keyRx = some (x.hdr / 4 % 16))) ∧
    (x.intact = false → ∀ e ∈ [Instr.idleFlit p x, .dataFlit p x, .nak p x, .keyon p x], ∃ t, exec e s = .next t ∧
      s.SameBut t [.regs, .pairs, .ports] ∧ (t.port p).nakDue = ((s.port p).nakDue || !(s.port p).waiting) ∧
      (t.port p).rxSeq = (s.port p).rxSeq ∧ (t.port p).replay = (s.port p).replay ∧
      t.rf (R.MBL_FEC_UNC_COUNT p) = satAdd32 (s.rf (R.MBL_FEC_UNC_COUNT p)) x.fecUnc)

/-- R225, R228, R232, R235, R237, R253, R254: at a flit slot a working port goes on with a KEYON run that has begun; else it sends,
in this order of preference, the NAK that is due, the buffered flit to be resent next, the start of its KEYON run once nothing of the
exchange is left to send, an IDLE flit while the replay buffer is full, an old flit again once it encrypts, and else a new flit. With
no wait for a replay the resend timeout does nothing; a direction whose slot index is a multiple of 2^30 other than 0 replaces its
key. -/
def Obligations.FlitsAreSent : Prop :=
  (∀ (p : Fin 8) (s : State) (start : Bool), s.Canon → s.linkUp p = true →
    start = ((s.port p).keyTx.isSome && (s.port p).cur.isNone && (s.port p).linkTx.all fun x => x.hdr.ptype == 7) →
    ∃ t, exec (.flitSlotTransmit p) s = .next t ∧ s.SameBut t [.regs, .pairs, .ports] ∧
    (∀ n, (s.port p).keyTx = some n → n < 15 ∨ ((s.port p).nakDue = false ∧ (s.port p).toResend = none ∧ start = true ∧ n = 15) →
      (t.port p).lastHdr = flitHdr 3 n (s.port p).ack 0 0 ∧ (t.port p).replay = (s.port p).replay ∧
      (n ≠ 0 → (t.port p).keyTx = some (n - 1)) ∧
      (n = 0 → (t.port p).keyTx = none ∧ (t.port p).encTx = true ∧ (t.port p).slotTx = 0 ∧ (t.port p).cur = (s.port p).sCur)) ∧
    ((∀ n, (s.port p).keyTx = some n → 15 ≤ n) →
      ((s.port p).nakDue = true → (t.port p).lastHdr = flitHdr 2 0 (s.port p).ack 0 0 ∧ (t.port p).lastBody = idleBody ∧
        (t.port p).nakDue = false ∧ (t.port p).waiting = true ∧ (t.port p).replay = (s.port p).replay) ∧
      ((s.port p).nakDue = false → ∀ r, (s.port p).toResend = some r →
        (t.port p).lastHdr = flitHdr 0 r.seq (s.port p).ack r.cbuf r.ccount ∧ (t.port p).lastBody = r.body ∧
        (t.port p).replay = (s.port p).replay ∧ t.rf (R.MBL_RETRY_CNT_COUNT p) = satAdd32 (s.rf (R.MBL_RETRY_CNT_COUNT p)) 1 ∧
        (t.port p).resend =
          (if (s.port p).replay.any (fun k => k.seq == (r.seq + 1) % 4096) then some ((r.seq + 1) % 4096) else none)) ∧
      ((s.port p).nakDue = false → (s.port p).toResend = none → start = false → (t.port p).resend = none ∧
        (2048 ≤ (s.port p).replay.length →
          (t.port p).lastHdr = flitHdr 1 0 (s.port p).ack 0 0 ∧ (t.port p).replay = (s.port p).replay) ∧
        ((s.port p).replay.length < 2048 → (s.port p).encTx = true → ∀ o rest,
          (s.port p).old = o :: rest → (t.port p).lastBody = o.body ∧ (t.port p).old = rest ∧
            (t.port p).txSeq = ((s.port p).txSeq + 1) % 4096 ∧ (t.port p).replay = (s.port p).replay ++
              [{ seq := (s.port p).txSeq, cbuf := o.cbuf, ccount := o.ccount, body := o.body }]) ∧
        ((s.port p).replay.length < 2048 →
          (s.port p).encTx = false ∨ ((s.port p).old = [] ∧ s.pphase p = pActive) →
          t = (s.setPort p { s.port p with resend := none }).newFlit p)))) ∧
  (∀ (p : Fin 8) (s : State), s.Canon → s.linkUp p = true → (s.port p).waiting = true →
    ∃ t, exec (.nakResendTimeout p) s = .next t ∧ { t with ports := s.ports } = s ∧
      t.port p = { s.port p with nakDue := true } ∧ ∀ r, r ≠ p.val → t.port r = s.port r) ∧
  ∀ (p : Fin 8) (s : State) (i : Nat), s.Canon → i ≠ 0 → i % 2 ^ 30 = 0 →
    ((s.port p).encTx = true → (s.port p).slotTx = i → ∃ t, exec (.keyRatchet p true) s = .next t ∧
      { t with ports := s.ports } = s ∧ (∀ r, r ≠ p.val → t.port r = s.port r) ∧ t.port p =
        { s.port p with
          ktx := kmac ((s.port p).ktx.take 32) (ascii "RATCHET" ++ leBytes 8 (i / 2 ^ 30)) 32 (ascii "MBL1") ++
            (s.port p).ktx.drop 32 }) ∧
    ((s.port p).encRx = true → (s.port p).slotRx = i → ∃ t, exec (.keyRatchet p false) s = .next t ∧
      { t with ports := s.ports } = s ∧ (∀ r, r ≠ p.val → t.port r = s.port r) ∧ t.port p =
        { s.port p with
          krx := kmac ((s.port p).krx.take 32) (ascii "RATCHET" ++ leBytes 8 (i / 2 ^ 30)) 32 (ascii "MBL1") ++
            (s.port p).krx.drop 32 })

/-- R220, R222, R224 to R226, R475: while the port's PLL is LOCKED training goes from DETECT through TRAIN and ALIGN to IDENT: each event moves a port on from its
own state only (none does with the PLL in another state), and ALIGN fixes the widest usable width and its lowest lane group, with what is unacknowledged now old. A state from DETECT to KEX that exceeds its
limit fails the port, and an ACTIVE port whose lanes lose their signal retrains. -/
def Obligations.PortsTrain : Prop :=
  ∀ (p : Fin 8) (s : State), s.Canon →
    (s.portClocked p = false → exec (.detectSignal p) s = .next s ∧ exec (.trainComplete p) s = .next s ∧
      ∀ pass inv rev delay, exec (.alignComplete p pass inv rev delay) s = .next s) ∧
    (s.portClocked p = true → s.pphase p = pDetect → ∃ t, exec (.detectSignal p) s = .next t ∧ s.SameBut t [.regs, .ports] ∧ t.pphase p = pTrain) ∧
    (s.portClocked p = true → s.pphase p = pTrain → ∃ t, exec (.trainComplete p) s = .next t ∧ s.SameBut t [.regs, .ports] ∧ t.pphase p = pAlign) ∧
    (∀ (pass inv : BitVec 16) (rev : Bool) (delay : BitVec 16) (w g : Nat), s.portClocked p = true → s.pphase p = pAlign →
      chooseWidth (s.rf (R.MBL_CTRL_MAXW p)) pass.toNat = some (w, g) →
        ∃ t, exec (.alignComplete p pass inv rev delay) s = .next t ∧ s.SameBut t [.regs, .ports] ∧ t.pphase p = pIdent ∧
          t.rf (R.MBL_STAT_WIDTH p) = w ∧ t.rf (R.MBL_STAT_LGROUP p) = g ∧ t.rf (R.MBL_LANES_PASS p) = pass.toNat ∧
          t.rf (R.MBL_LANES_INV p) = inv.toNat ∧ t.rf (R.MBL_STAT_REVERSED p) = (if rev then 1 else 0) ∧
          t.rf (R.MBL_LINKDLY_NS p) = delay.toNat ∧ (t.port p).txSeq = 0 ∧ (t.port p).rxSeq = 0 ∧ (t.port p).replay = [] ∧
          (t.port p).old = (if (s.port p).retrain then (s.port p).allOld else []) ∧
          (t.port p).oldNext = (if (s.port p).retrain then (s.port p).rxSeq else 0) ∧
          ∃ x, (t.port p).linkTx = (s.port p).linkTx.filter (fun y => y.hdr.ptype == 7) ++ [x] ∧ x.hdr = identPkt t p) ∧
    (∀ (pass inv : BitVec 16) (rev : Bool) (delay : BitVec 16), s.portClocked p = true → s.pphase p = pAlign →
      chooseWidth (s.rf (R.MBL_CTRL_MAXW p)) pass.toNat = none →
        ∃ t, exec (.alignComplete p pass inv rev delay) s = .next t ∧ s.SameBut t [.regs] ∧ t.pphase p = pAlign ∧
          t.rf (R.MBL_LANES_PASS p) = pass.toNat) ∧
    (pDetect ≤ s.pphase p → s.pphase p ≤ pKex → ∃ t, exec (.portStateTimeout p) s = .next t ∧
      s.SameBut t [.regs, .pairs, .ports] ∧ t.pstate p = pFailed ∧ t.rf (R.MBL_STAT_WIDTH p) = 3 ∧
      t.rf (R.MBL_STAT_SECURE p) = 0 ∧ (t.port p).replay = [] ∧ 
      (t.port p).rx = (s.port p).rx ++ (s.port p).last.toList ++ (s.port p).sLast.toList ∧
      (t.rf (R.ERR_STAT_STAT (Page.portBase p))).testBit 2 = true) ∧
    (s.pstate p = pActive → ∃ t, exec (.laneSignalLoss p) s = .next t ∧ s.SameBut t [.regs, .pairs, .ports] ∧
      t.pstate p = pRetrain ∧ t.pphase p = pTrain ∧ (t.port p).replay = (s.port p).replay ∧ (t.port p).rx = (s.port p).rx ∧
      (t.port p).held = (s.port p).held ∧ t.rf (R.MBL_STAT_SECURE p) = 0 ∧
      t.rf (R.MBL_RETRAIN_CNT_COUNT p) = satAdd32 (s.rf (R.MBL_RETRAIN_CNT_COUNT p)) 1)

/-- R223, R225, R251 to R253, R495: the partner's IDENT that agrees with the port's partner register moves the port to KEX,
and the end with the lower device ID starts the exchange; any other (a wrong device, port or version, the device's own ID, bad
allocations) fails the port with source 3. A key-exchange message out of turn, or one that is not formed as its table says, does
not verify, or comes from a key that is not the pinned one, fails it with source 4; a whole message that verifies is joined to the transcript, and the one after next is awaited. R239, R250: an ACTIVE
port sends its heartbeat number, and the number goes up by 1; a heartbeat that arrives is shown and ends the loss of
heartbeats, which is reported once and raises source 5. -/
def Obligations.KeysAreExchanged : Prop :=
  (∀ (p : Fin 8) (s u : State) (x : Pkt), s.Canon →
    (∀ kex1 dev, s.pphase p = pIdent → s.takeCtl p 8 = some (x, u) → dev = leAt x.payload 0 3 →
      ∃ t, exec (.ident p kex1) s = .next t ∧ s.SameBut t [.regs, .pairs, .ports] ∧
        t.rf (R.MBL_SEEN_DEVID p) = dev ∧ t.rf (R.MBL_SEEN_PORT p) = leAt x.payload 3 1 % 8 ∧ t.rf (R.MBL_SEEN_VALID p) = 1 ∧
        (dev ≠ s.rf (R.MBL_PARTNER_DEVID p) ∨ leAt x.payload 3 1 ≠ s.rf (R.MBL_PARTNER_PORT p) ∨ leAt x.payload 4 2 ≠ 1 ∨
            dev = s.devId ∨ (∃ i, i < 8 ∧ leAt x.payload (8 + 2 * i) 2 < 33) ∨
            32768 < ((List.range 8).map fun i => leAt x.payload (8 + 2 * i) 2).foldl (· + ·) 0 →
          t.pstate p = pFailed ∧ (t.rf (R.ERR_STAT_STAT (Page.portBase p))).testBit 3 = true) ∧
        (dev = s.rf (R.MBL_PARTNER_DEVID p) → leAt x.payload 3 1 = s.rf (R.MBL_PARTNER_PORT p) → leAt x.payload 4 2 = 1 →
          dev ≠ s.devId → (∀ i, i < 8 → 33 ≤ leAt x.payload (8 + 2 * i) 2) →
          ((List.range 8).map fun i => leAt x.payload (8 + 2 * i) 2).foldl (· + ·) 0 ≤ 32768 →
            t.pphase p = pKex ∧ t.rf (R.MBL_STAT_INIT p) = (if s.devId < dev then 1 else 0) ∧
            (t.port p).kex.next = (if s.devId < dev then 2 else 1))) ∧
    ∀ ok root key reply, s.pphase p = pKex → s.takeCtl p 9 = some (x, u) →
      ∃ t, exec (.kexMessage p ok root key reply) s = .next t ∧ s.SameBut t [.regs, .pairs, .ports] ∧
        (x.aux % 256 ≠ (s.port p).kex.next ∨ x.aux / 256 % 256 ≠ (s.port p).kex.frag ∨
            (x.aux / 65536 % 256 ≤ x.aux / 256 % 256 + 1 ∧ (ok = false ∨
              kexFormed s.fuses.roots root (x.aux % 256) ((s.port p).kex.buf ++ x.payload) = false ∨
              (s.flag (R.MBL_SECCTRL_PIN p) = true ∧ x.aux % 256 ≤ 2 ∧ leAt (sha3 key) 0 32 ≠ s.peerHash p))) →
          t.pstate p = pFailed ∧ (t.rf (R.ERR_STAT_STAT (Page.portBase p))).testBit 4 = true) ∧
        (x.aux % 256 = (s.port p).kex.next → x.aux / 256 % 256 = (s.port p).kex.frag →
          (x.aux / 256 % 256 + 1 < x.aux / 65536 % 256 → (t.port p).kex =
            { (s.port p).kex with frag := (s.port p).kex.frag + 1, buf := (s.port p).kex.buf ++ x.payload }) ∧
          (x.aux / 65536 % 256 ≤ x.aux / 256 % 256 + 1 → ok = true →
            kexFormed s.fuses.roots root (x.aux % 256) ((s.port p).kex.buf ++ x.payload) = true →
            (s.flag (R.MBL_SECCTRL_PIN p) = true → x.aux % 256 ≤ 2 → leAt (sha3 key) 0 32 = s.peerHash p) →
            (t.port p).kex.transcript = (s.port p).kex.transcript ++ (s.port p).kex.buf ++ x.payload ++
              (if x.aux % 256 < 4 then kexBytes reply else []) ∧
            (t.port p).kex.next = x.aux % 256 + 2 ∧ (t.port p).kex.frag = 0 ∧ (t.port p).kex.buf = [] ∧
            ((t.port p).kex.done = true ∨ x.aux % 256 < 3) ∧ (3 ≤ x.aux % 256 → (t.port p).keyTx = some 15)))) ∧
  (∀ (p : Fin 8) (s : State), s.Canon →
    (s.pstate p = pActive → ∃ t x, exec (.hbSend p) s = .next t ∧ { t with ports := s.ports } = s ∧
      (t.port p).hbNum = ((s.port p).hbNum + 1) % 2 ^ 32 ∧ (t.port p).linkTx = (s.port p).linkTx ++ [x] ∧
      x.hdr.ptype = 7 ∧ x.hdr.dst = s.rf (R.MBL_SEEN_DEVID p) ∧ x.bytes.take 4 = leBytes 4 (s.port p).hbNum ∧
      ∀ r, r ≠ p.val → t.port r = s.port r) ∧
    (∀ x u, s.takeCtl p 7 = some (x, u) → ∃ t, exec (.hbReceive p) s = .next t ∧ s.SameBut t [.regs, .ports] ∧
      t.rf (R.MBL_HB_RX_NUMBER p) = leAt x.payload 0 4 ∧ t.rf (R.MBL_STAT_HB_LOST p) = 0 ∧
      (t.port p).ctl = (s.port p).ctl.drop 1) ∧
    (s.pstate p = pActive → s.flag (R.MBL_STAT_HB_LOST p) = false → ∃ t, exec (.heartbeatLoss p) s = .next t ∧
      s.SameBut t [.regs, .pairs] ∧ t.rf (R.MBL_STAT_HB_LOST p) = 1 ∧
      (t.rf (R.ERR_STAT_STAT (Page.portBase p))).testBit 5 = true))

/-- R241, R244, R246, R248, R481: the oldest packet that port `p` has received loses life and is delivered here, queued at the output
port that routing gives, with its virtual channel, or dropped, counted with the first cause kept; one that would cross the headland ring while
its clock is forced off waits. A truncated packet and its ABORT
slot are counted: its life spent or no way for it, it is dropped; at its destination it is discarded, in transit it goes on with its ABORT slot. -/
def Obligations.PacketsAreRouted : Prop :=
  ∀ (p : Fin 8) (ns : Nat) (s : State) (x : Pkt) (rest : List Pkt), s.Canon → (s.port p).rx = x :: rest →
    (s.flag R.CLK_GATE_CLOCK_OFF = true → s.crossesRing p = true → exec (.packetRoute p ns) s = .next s) ∧
    (x.ptype ≠ 10 → x.trunc = false → s.flag R.CLK_GATE_CLOCK_OFF = false ∨ s.crossesRing p = false →
      ∃ t, exec (.packetRoute p ns) s = .next t ∧ s.SameBut t [.regs, .pairs, .ports, .inbox] ∧
      (t.port p).rx = rest ∧
      (s.lifeUsed p ns < x.life →
        (s.routeOf true x = .deliver →
          t.inbox = s.inbox ++ [(p.val, { x with life := x.life - s.lifeUsed p ns })] ∧ t.regs = s.regs) ∧
        (∀ o d, s.routeOf true x = .out o d → t.inbox = s.inbox ∧ t.regs = s.regs ∧ (t.port o).held = (s.port o).held ++
          [{ from_ := p, hdr := Pkt.via { x with life := x.life - s.lifeUsed p ns } d, bytes := x.payload, whole := true,
             buf := bufOf x }]) ∧
        (∀ c, s.routeOf true x = .drop c → t.inbox = s.inbox ∧
          t.rf (R.MBL_DROP_CNT_COUNT p) = satAdd32 (s.rf (R.MBL_DROP_CNT_COUNT p)) 1 ∧
          (s.flag (R.MBL_DROP_INFO_VALID p) = false → c < 8 → t.rf (R.MBL_DROP_INFO_CAUSE p) = c))) ∧
      (x.life ≤ s.lifeUsed p ns → t.inbox = s.inbox ∧
        t.rf (R.MBL_DROP_CNT_COUNT p) = satAdd32 (s.rf (R.MBL_DROP_CNT_COUNT p)) 1)) ∧
    (x.ptype = 10 ∨ x.trunc = true → ∃ t, exec (.abortSlot p ns) s = .next t ∧
      s.SameBut t [.regs, .pairs, .ports, .inbox] ∧ (t.port p).rx = rest ∧
      t.rf (R.MBL_ABORT_CNT_COUNT p) = satAdd32 (s.rf (R.MBL_ABORT_CNT_COUNT p)) 1 ∧
      (t.rf (R.ERR_STAT_STAT (Page.portBase p))).testBit 7 = true ∧
      (x.ptype = 10 ∨ x.ptype ≠ 3 → t.inbox = s.inbox) ∧
      (x.ptype ≠ 10 → x.life ≤ s.lifeUsed p ns ∨ (∃ c, s.routeOf true x = .drop c) →
        t.rf (R.MBL_DROP_CNT_COUNT p) = satAdd32 (s.rf (R.MBL_DROP_CNT_COUNT p)) 1) ∧
      (x.ptype ≠ 10 → s.lifeUsed p ns < x.life → ∀ o d, s.routeOf true x = .out o d → (t.port o).held = (s.port o).held ++
        [{ from_ := p, hdr := Pkt.via { x with life := x.life - s.lifeUsed p ns, trunc := false } d, bytes := x.payload,
           whole := true, abort := true, buf := bufOf x }]))

/-! ### The bus -/

/-- R493: before stage 5, and in stages 6 and 7, a read outside the security page, the mailbox window and the `BLK_ID` and
`BLK_VER` words returns 0 and a write there changes nothing, the access-error status included; BAR2 reads return 0 and BAR2
writes change nothing. -/
def Obligations.EarlyAccessesAreDiscarded : Prop :=
  ∀ (u : Fin 64) (a : BitVec 27) (v : Word32) (s : State), s.stage ≠ 5 → pageAt a.toNat ≠ some .security →
    (∀ i, pageAt a.toNat ≠ some (.mailbox i)) →
    (∀ p, pageAt a.toNat = some p → p.hasCommon = true → 2 ≤ a.toNat % 0x1000 / 4) →
    (∀ log : Fin 4, a.toNat % 0x1000 + 2 ^ log.val ≤ 0x1000 →
      ∀ c ∈ [Instr.lowWordRead u a log, .rcRead u a log], exec c s = .next { s with rdata := 0 }) ∧
    (∀ c ∈ [Instr.registerWrite u a v, .lowWordWrite u a v, .highWordWrite u a v, .misalignedWrite u a], exec c s = .next s) ∧
    (∀ (q : Fin 8192) (f : Fin 4) (g : Fin 480) (c : Fin 64) (k : Quota) (p : Fin 8) (t : Fin 4) (o : BitVec 12),
      ∀ e ∈ [Instr.doorbell u q v, .queueBind u v, .queueEnable u q v, .queueDisable u q v, .granuleWrite u f g v,
        .sheafShareWrite u f c v, .ctxMemWrite u c v, .contextCreate u c v, .contextDestroy u c v, .quotaWrite u c f k v,
        .regionValidate u v, .regionInvalidate u v, .portEnableWrite u p v, .portRetrainWrite u p v, .devidWrite u v,
        .rxallocWrite u p t v, .routeEntryCommit u c v, .servingConfigWrite u c o v, .ifCtrlWrite u c v, .clkOutWrite u v],
        e.wf = true → exec e s = .next s) ∧
    (∀ (off : BitVec 41) (n : Fin 4097) (bs : List Byte),
      exec (.bar2Read u off n) s = .next { s with b2data := List.replicate n.val 0 } ∧ exec (.bar2Write u off bs) s = .next s)

/-- R12, R13, R15, R345, R382, R464: an aligned read by a function that reaches the register returns the word latched
for it, else the register's value, and uses the latch up; a read of a low word latches the high word; RC fields are
cleared and all else stays. A read of another size or at an unaligned offset returns its bytes and has no such effect. A read of `PWR_FC_MIN` latches the eight ceilings and the time left, one of `CTX_IF_SEQ`
the seven registers of a window. A register out of reach reads 0 and is recorded with `KIND` 1; a write that is not an
aligned word is discarded and recorded with `KIND` 0. R14 to R16, R18, R245, R497, R499: a word written to a register
with no rule of its own goes into its RW fields that it gives no reserved encoding, clears the W1C bits it names, and
changes nothing else; a counter that a write clears is cleared by 0 only; the mailbox takes bytes and `SEC_KEYj` a
word of a key. A low word is staged for the function; the high word commits both unless the pair is reserved, and a
routing entry's high word commits its two words. -/
def Obligations.ReadsLatchAndClear : Prop :=
  (∀ (u : Fin 64) (a : BitVec 27) (s : State), s.Canon → Store.Sorted s.rdLatch → s.served a.toNat = true → s.funcEnabled u = true →
    (∀ log : Fin 4, ∀ c ∈ [Instr.lowWordRead u a log, .rcRead u a log], log ≠ 2 ∨ a.toNat % 4 ≠ 0 →
      ∃ t, exec c s = .next t ∧ s.SameBut t [.freeCtr, .rdata] ∧
        t.rdata = BitVec.ofNat 64 (leNat (s.peekBytes u a.toNat (2 ^ log.val))) ∧
        ((∀ k, k < 3 → isTimed (a.toNat / 4 * 4 + 4 * k) = false) → t.freeCtr = s.freeCtr)) ∧
    (∀ c ∈ [Instr.lowWordRead u a 2, .rcRead u a 2], a.toNat % 4 = 0 →
      (s.readable u a.toNat = true → ∃ t, exec c s = .next t ∧ s.SameBut t [.freeCtr, .regs, .rdLatch, .ifLatch, .rdata] ∧
        (isTimed a.toNat = false → t.freeCtr = s.freeCtr) ∧
        (∀ w, sget? s.rdLatch (busKey u a.toNat) = some w → t.rdata = w.setWidth 64) ∧
        (sget? s.rdLatch (busKey u a.toNat) = none → a.toNat ≠ A.PWR_FC_MIN → (∀ c, a.toNat ≠ A.CTX_IF_SEQ c) →
          t.rdata = (match ifPlace a.toNat with
            | none => s.view a.toNat
            | some (c, i) => ((sget? s.ifLatch (u * 64 + c)).getD []).getD i (s.view a.toNat)).setWidth 64) ∧
        sget? t.rdLatch (busKey u a.toNat) = none ∧
        (isLow a.toNat = true → sget? t.rdLatch (busKey u (a.toNat + 4)) = some (s.view (a.toNat + 4))) ∧
        (∀ r ∈ rowsAt a.toNat, wbits (t.reg a.toNat) r.lo r.wid = if r.acc = .rc then 0 else wbits (s.reg a.toNat) r.lo r.wid) ∧
        (a.toNat ≠ A.PWR_FC_MIN → ∀ b, b ≠ a.toNat → t.reg b = s.reg b)) ∧
      (s.readable u a.toNat = false → exec c s = .next { s.accErr u 0 false 1 a.toNat with rdata := 0 })) ∧
    (s.served A.PWR_FC_MIN = true → s.readable u A.PWR_FC_MIN = true → ∃ t, exec (.forecastLatch u) s = .next t ∧
      s.SameBut t [.regs, .rdLatch, .rdata] ∧ (∀ j, j < 8 → t.view (A.PWR_FC j) = s.ceilWord j) ∧
      t.rf R.PWR_FC_LEFT_MS = s.minuteLeft) ∧
    (∀ c : Fin 64, s.served (A.CTX_IF_SEQ c) = true → s.readable u (A.CTX_IF_SEQ c) = true → ∃ t, exec (.interferenceLatch u c) s = .next t ∧
      s.SameBut t [.regs, .rdLatch, .ifLatch, .rdata] ∧
      sget? t.ifLatch (u * 64 + c) = some ((List.range 7).map fun i => s.reg (A.CTX_IF_SLOW c + 4 * i)) ∧
      ∀ k, k ≠ u.val * 64 + c.val → sget? t.ifLatch k = sget? s.ifLatch k) ∧
    ∃ t, exec (.misalignedWrite u a) s = .next t ∧ s.SameBut t [.regs, .pairs] ∧
      t.rf R.HIF_ACC_CNT_COUNT = satAdd32 (s.rf R.HIF_ACC_CNT_COUNT) 1 ∧
      (s.rf R.HIF_ACC_INFO_VALID = 0 → t.rf R.HIF_ACC_INFO_VALID = 1 ∧ t.rf R.HIF_ACC_INFO_FUNC = u ∧
        t.rf R.HIF_ACC_INFO_WRITE = 1 ∧ t.rf R.HIF_ACC_INFO_KIND = 0 ∧ t.rf R.HIF_ACC_ADDR_LO_OFFSET = a.toNat) ∧
      (s.rf R.HIF_ACC_INFO_VALID = 1 → t.reg A.HIF_ACC_INFO = s.reg A.HIF_ACC_INFO ∧
        t.reg A.HIF_ACC_ADDR_LO = s.reg A.HIF_ACC_ADDR_LO)) ∧
  ((∀ (a : Nat) (v w : Word32), ∀ r ∈ rowsAt a, wbits (rowsWrite (rowsAt a) v w) r.lo r.wid =
    match r.acc with
    | .rw => if r.legal.ok (wbits v r.lo r.wid) then wbits v r.lo r.wid else wbits w r.lo r.wid
    | .w1c => (BitVec.ofNat 32 (wbits w r.lo r.wid) &&& ~~~BitVec.ofNat 32 (wbits v r.lo r.wid)).toNat
    | _ => wbits w r.lo r.wid) ∧
  ∀ (u : Fin 64) (a : BitVec 27) (v : Word32) (s : State), s.Canon → s.MayWrite u a.toNat →
    (∀ p, pageAt a.toNat = some p → (Instr.registerWrite u a v).wf = true →
      (0x100 ≤ a.toNat % 0x1000 → p ∈ [Page.steading, .power, .clock, .qm, .mgmt, .fabric] →
        (p = .qm → a.toNat % 0x1000 ≠ 0x108) →
        ∃ t, exec (.registerWrite u a v) s = .next t ∧ { t with regs := s.regs } = s ∧
          t.reg a.toNat = rowsWrite (rowsAt a.toNat) v (s.reg a.toNat) ∧ ∀ b, b ≠ a.toNat → t.reg b = s.reg b) ∧
      (p.hasCommon = true ∧ a.toNat % 0x1000 = 0x20 ∨
          p = .collector ∧ a.toNat % 0x1000 ∈ [0x110, 0x114, 0x118, 0x12C, 0x134] ∨ p = .hang ∧ a.toNat % 0x1000 = 0x114 →
        (v = 0 → ∃ t, exec (.registerWrite u a v) s = .next t ∧ { t with regs := s.regs } = s ∧ t.reg a.toNat = 0 ∧
          ∀ b, b ≠ a.toNat → t.reg b = s.reg b) ∧
        (v ≠ 0 → exec (.registerWrite u a v) s = .next s)) ∧
      (p = .qm → a.toNat % 0x1000 = 0x108 → v.getLsbD 0 = true →
        ∃ t, exec (.registerWrite u a v) s = .next t ∧ { t with queues := s.queues } = s ∧
          t.queue (s.rf R.QM_QSEL_QUEUE) = { s.queue (s.rf R.QM_QSEL_QUEUE) with refused := false } ∧
          ∀ r, r ≠ s.rf R.QM_QSEL_QUEUE → t.queue r = s.queue r) ∧
      (∀ i, p = .mailbox i → Store.Sorted s.sec.mailbox.cells → ∃ t, exec (.registerWrite u a v) s = .next t ∧ { t with sec := s.sec } = s ∧
        { t.sec with mailbox := s.sec.mailbox } = s.sec ∧
        (∀ j, j < 4 → (t.sec.mailbox.read unit64K (i * 0x1000 + a.toNat % 0x1000 + j)).toNat = v.toNat / 256 ^ j % 256)) ∧
      (p = .security → 0x180 ≤ a.toNat % 0x1000 → a.toNat % 0x1000 < 0x1C0 →
        exec (.registerWrite u a v) s =
          .next { s with sec := { s.sec with keyIn := sputD s.sec.keyIn ((a.toNat % 0x1000 - 0x180) / 4) v 0 } })) ∧
    (stagesLow a.toNat = true → (∀ q, pageAt a.toNat ≠ some (.doorbell q)) → (∀ c, pageAt a.toNat ≠ some (.serving c)) →
      ∃ t, exec (.lowWordWrite u a v) s = .next t ∧ { t with wrStage := s.wrStage } = s ∧
        sget? t.wrStage (busKey u a.toNat) = some v ∧
        ∀ k, k ≠ busKey u a.toNat → sget? t.wrStage k = sget? s.wrStage k) ∧
    (stagesHigh a.toNat = true → pageAt a.toNat ≠ some .fabric → (∀ q, pageAt a.toNat ≠ some (.doorbell q)) →
      (∀ c, pageAt a.toNat ≠ some (.serving c)) → ∀ lo, lo = s.stagedLow u (a.toNat - 4) →
        ∃ t, exec (.highWordWrite u a v) s = .next t ∧ { t with regs := s.regs, wrStage := s.wrStage } = s ∧
          t.wrStage = sdel s.wrStage (busKey u (a.toNat - 4)) ∧
          (s.pairReserved a.toNat lo v = true → t.regs = s.regs) ∧
          (s.pairReserved a.toNat lo v = false → t.reg a.toNat = rowsWrite (rowsAt a.toNat) v (s.reg a.toNat) ∧
            t.reg (a.toNat - 4) = rowsWrite (rowsAt (a.toNat - 4)) lo (s.reg (a.toNat - 4)) ∧
            ∀ b, b ≠ a.toNat → b ≠ a.toNat - 4 → t.reg b = s.reg b)) ∧
    ∀ j : Fin 64, a.toNat = A.MBL_RT_HI j →
      ∃ t, exec (.routeEntryCommit u j v) s = .next t ∧ { t with regs := s.regs, wrStage := s.wrStage } = s ∧
        t.reg (A.MBL_RT_HI j) = rowsWrite (rowsAt (A.MBL_RT_HI j)) v (s.reg (A.MBL_RT_HI j)) ∧
        t.reg (A.MBL_RT_LO j) = rowsWrite (rowsAt (A.MBL_RT_LO j)) (s.stagedLow u (A.MBL_RT_LO j)) (s.reg (A.MBL_RT_LO j)) ∧
        t.wrStage = sdel s.wrStage (busKey u (A.MBL_RT_LO j)) ∧
        ∀ b, b ≠ A.MBL_RT_HI j → b ≠ A.MBL_RT_LO j → t.reg b = s.reg b)

/-- R222, R224, R234, R243, R339, R382, R427, R481, R482: `MBL_CTRL.EN` 1 starts DETECT in a DISABLED port whose conditions hold
and that is neither fenced nor of an expelled device; 0 disables an ACTIVE port. `RETRAIN` retrains an ACTIVE port and takes a FAILED
one to DETECT unless it is held. `MBL_DEVID` is refused while any port is up, a receive allocation while its port is. `CLK_GATE`
is refused where it breaks the tree, and lets requests that waited for a clock go on otherwise (R258). `CLK_OUT` and `CTX_IF_CTRL` take their fields. A serving configuration is refused while the
context is busy with sequences. -/
def Obligations.PortsAndClocksAreSet : Prop :=
  ∀ (u : Fin 64) (p : Fin 8) (v : Word32) (s : State), s.Canon →
    (∀ c : Instr, s.MayWrite u (A.MBL_CTRL p) → c = .portEnableWrite u p v ∨ c = .portRetrainWrite u p v →
      ∃ t, exec c s = .next t ∧ s.SameBut t [.regs, .pairs, .ports] ∧
        t.reg (A.MBL_CTRL p) = rowsWrite (rowsAt (A.MBL_CTRL p)) v (s.reg (A.MBL_CTRL p)) ∧
        (v.getLsbD 0 = true → s.pstate p = pDisabled → s.rf (R.MBL_PARTNER_VALID p) = 1 → s.devId ≠ noDevId →
          (List.range 4).foldl (fun n k => n + s.rf (R.MBL_RXALLOC_VC0 p k) + s.rf (R.MBL_RXALLOC_VC1 p k)) 0 ≤ 32768 →
          t.pstate p = if s.flash.expelled || s.isFenced (.port p) then pDisabled else pDetect) ∧
        (v.getLsbD 0 = false → s.pstate p = pActive → t.pstate p = pDisabled ∧ t.rf (R.MBL_STAT_SECURE p) = 0 ∧
          (t.port p).rx = (s.port p).rx ++ (s.port p).last.toList ++ (s.port p).sLast.toList ∧ (t.port p).replay = []) ∧
        (v.getLsbD 0 = false → s.pstate p = pFailed → s.isFenced (.port p) = false → t.pstate p = pDisabled) ∧
        (v.getLsbD 0 = true → v.getLsbD 3 = true → s.pstate p = pActive → t.pstate p = pRetrain ∧ t.pphase p = pTrain ∧
          (t.port p).replay = (s.port p).replay ∧
          t.rf (R.MBL_RETRAIN_CNT_COUNT p) = satAdd32 (s.rf (R.MBL_RETRAIN_CNT_COUNT p)) 1) ∧
        (v.getLsbD 0 = true → v.getLsbD 3 = true → s.pstate p = pFailed →
          t.pstate p = if s.flash.expelled || s.isFenced (.port p) then pFailed else pDetect)) ∧
    (s.MayWrite u A.MBL_DEVID → ∃ t, exec (.devidWrite u v) s = .next t ∧ s.SameBut t [.regs, .ports] ∧
      ((∃ r, r < 8 ∧ s.portUp r = true) → t.rf R.MBL_FAB_STAT_REFUSED = 1 ∧ t.reg A.MBL_DEVID = s.reg A.MBL_DEVID ∧
        t.ports = s.ports) ∧
      ((∀ r, r < 8 → s.portUp r = false) → t.reg A.MBL_DEVID = rowsWrite (rowsAt A.MBL_DEVID) v (s.reg A.MBL_DEVID))) ∧
    (∀ k : Fin 4, s.MayWrite u (A.MBL_RXALLOC p k) → ∃ t, exec (.rxallocWrite u p k v) s = .next t ∧
      s.SameBut t [.regs, .ports] ∧
      (s.portUp p = true → t.rf (R.MBL_STAT_REFUSED p) = 1 ∧ t.reg (A.MBL_RXALLOC p k) = s.reg (A.MBL_RXALLOC p k) ∧
        t.ports = s.ports) ∧
      (s.portUp p = false → t.reg (A.MBL_RXALLOC p k) = rowsWrite (rowsAt (A.MBL_RXALLOC p k)) v (s.reg (A.MBL_RXALLOC p k)))) ∧
    (∀ (a : BitVec 27) (pg : Page) (g : Nat), pageAt (a.toNat / 0x1000 * 0x1000) = some pg → pg.hasCommon = true →
      g = a.toNat / 0x1000 * 0x1000 + 0x28 → s.MayWrite u g →
        ∃ t, exec (.clkGateWrite u a v) s = .next t ∧
          (s.gateBreaks pg v = true → { t with regs := s.regs } = s ∧ (∀ x, x ≠ g → t.reg x = s.reg x) ∧
            t.reg g = s.reg g ||| 0x80000000) ∧
          (s.gateBreaks pg v = false → t = (s.plainWrite g v).stopMeters.admitAll ∧
            ((∀ f : Fin 4, (s.eng f).waiting = []) → { t with regs := s.regs } = s ∧
              (∀ x, x ≠ g → (∀ i, i < 20 → x ≠ A.CLK_FMETER i) → t.reg x = s.reg x) ∧
              t.reg g = rowsWrite (rowsAt g) v (s.reg g)))) ∧
    (∀ (c : Fin 64) (e : Instr) (g : Nat), (e, g) ∈ [(Instr.clkOutWrite u v, A.CLK_OUT), (.ifCtrlWrite u c v, A.CTX_IF_CTRL c)] →
      s.MayWrite u g → ∃ t, exec e s = .next t ∧ { t with regs := s.regs } = s ∧
        (∀ x, x ≠ g → (∀ i, i < 20 → x ≠ A.CLK_FMETER i) → t.reg x = s.reg x) ∧ t.reg g = rowsWrite (rowsAt g) v (s.reg g)) ∧
    ∀ (c : Fin 64) (o : BitVec 12) (g : Nat), servOffset o.toNat = true → g = Page.servingBase c + o.toNat → s.MayWrite u g →
      ∃ t, exec (.servingConfigWrite u c o v) s = .next t ∧ s.SameBut t [.regs, .wrStage] ∧
        (s.servBusy c = true → t.rf (R.SRV_STAT_REFUSED c) = 1 ∧ t.wrStage = s.wrStage ∧
          ∀ x, x ≠ A.SRV_STAT c → t.reg x = s.reg x) ∧
        (s.servBusy c = false → isLow g = true → t.regs = s.regs ∧ sget? t.wrStage (busKey u g) = some v) ∧
        (s.servBusy c = false → isLow g = false → isLow (g - 4) = false → o.toNat = 0x100 → v.getLsbD 0 = false →
          t.reg g = rowsWrite (rowsAt g) v (s.reg g) ∧ ∀ x, x ≠ g → t.reg x = s.reg x)

/-- R154, R156 to R158, R161 to R168, R170, R173 to R175, R346, R371, R436: assigning a granule gives it to its context and makes it read 0; taking one away
keeps its contents; both are refused while an involved context is active or interleaved there, or the granule holds what a valid
region or a serving context needs. A sheaf share of an active context, and one that meets another's, is refused. A change of encryption or layout leaves the memory it
concerns undefined (log 3). A request waits while its granule is cleared or its stack takes none, and none reaches a fenced
field; a correction that a stack reports is counted. A read delivers what memory shows, or zeros where the code cannot correct; a partial write of a sound
codeword stores its bytes, one that meets an uncorrectable codeword stores nothing. A BAR2 read
delivers, and a BAR2 write stores, the bytes where the function's base maps them, in the partition of one of its contexts; one
outside (`KIND` 2), or a write that windows forbid (`KIND` 4), is recorded and has no other effect. The scrubber goes on
codeword by codeword. -/
def Obligations.MemoryIsAssignedAndRead : Prop :=
  ∀ (u : Fin 64) (f : Fin 4) (v : Word32) (s : State), s.Canon →
    (∀ (g : Fin 480) (new : Option Nat), s.MayWrite u (A.FLD_GRAN f g) →
      new = (if v.getLsbD 8 then some (wbits v 0 6) else none) → s.owner? f g ≠ new →
        ((∀ c, s.owner? f g = some c ∨ new = some c → s.granFixed f c = false) →
          (s.owner? f g ≠ none → s.granHeld f g = false) →
          ∃ t, exec (.granuleWrite u f g v) s = .next t ∧ s.SameBut t [.regs, .hbm, .hbmBad, .clearing] ∧
            t.owner? f g = new ∧ (new = none → t.hbm = s.hbm ∧ t.clearing = s.clearing) ∧
            (new ≠ none → t.rf (R.FLD_GRAN_CLEARING f g) = 1 ∧ t.clearing = s.clearing ++ [granUnit f g] ∧
              ∀ x, t.hbm.read granSize x = if x / granSize = granUnit f g then 0 else s.hbm.read granSize x)) ∧
        ((∃ c, (s.owner? f g = some c ∨ new = some c) ∧ s.granFixed f c = true) ∨
            (s.owner? f g ≠ none ∧ s.granHeld f g = true) →
          ∃ t, exec (.granuleWrite u f g v) s = .next t ∧ { t with regs := s.regs } = s ∧ t.owner? f g = s.owner? f g ∧
            t.rf (R.FLD_MEM_STAT_REFUSED f) = 1 ∧ t.rf (R.FLD_MEM_STAT_INDEX f) = 0x100 + g)) ∧
    (∀ (m : Fin 5), (s.stackAsleep f m = true → exec (.granuleClearDone f m) s = .next s) ∧
      (s.stackAsleep f m = false → ∀ x, s.clearing.find? (fun y => y / 512 == f.val && y % 512 % 5 == m.val) = some x →
        ∃ t, exec (.granuleClearDone f m) s = .next t ∧ t.clearing = s.clearing.erase x ∧
          (x ∉ t.clearing → t =
            (State.wf { s with clearing := s.clearing.erase x } (R.FLD_GRAN_CLEARING f (x % 512)) 0).admitAll) ∧
          ((∀ k : Fin 4, (s.eng k).waiting = []) → { t with regs := s.regs, clearing := s.clearing } = s ∧
            (x ∉ t.clearing → t.rf (R.FLD_GRAN_CLEARING f (x % 512)) = 0)))) ∧
    (∀ (c : Fin 64) (g b n : Nat), g = A.FLD_SHEAF f c → s.MayWrite u g → b = wbits v 0 10 → n = wbits v 16 11 → b + n ≤ 1024 →
      ∃ t, exec (.sheafShareWrite u f c v) s = .next t ∧ { t with regs := s.regs } = s ∧
        (s.active c = false → (∀ d, d < 64 → d ≠ c.val →
            unitsMeet b n (s.rf (R.FLD_SHEAF_BASE f d)) (s.rf (R.FLD_SHEAF_SIZE f d)) = false) →
          t.reg g = rowsWrite (rowsAt g) v (s.reg g) ∧ ∀ x, x ≠ g → t.reg x = s.reg x) ∧
        (s.active c = true ∨ (∃ d, d < 64 ∧ d ≠ c.val ∧
            unitsMeet b n (s.rf (R.FLD_SHEAF_BASE f d)) (s.rf (R.FLD_SHEAF_SIZE f d)) = true) →
          t.reg g = s.reg g ∧ t.rf (R.FLD_MEM_STAT_REFUSED f) = 1 ∧
          t.rf (R.FLD_MEM_STAT_INDEX f) = 0x80 + c)) ∧
    (∀ (c : Fin 64) (g : Nat), g = A.CTX_MEM c → s.MayWrite u g →
      (s.active c = false → (∀ k, k < 4 → v.getLsbD (4 + k) = true → s.wholeGroups c k = true) →
        (v.getLsbD 0 = true → sget? s.sec.keys c ≠ none) →
        ∃ t, exec (.ctxMemWrite u c v) s = .next t ∧ s.SameBut t [.regs, .hbm, .hbmBad, .freeCtr] ∧
          t.reg g = rowsWrite (rowsAt g) v (s.reg g) ∧ (∀ x, x ≠ g → t.reg x = s.reg x) ∧
          ∀ k h x, k < 4 → h < 480 → x / granSize = granUnit k h →
            (s.owns c k h = true → ((s.reg g).getLsbD 0 ≠ v.getLsbD 0 ∨ (s.reg g).getLsbD (4 + k) ≠ v.getLsbD (4 + k)) →
              ∃ i, t.hbm.read granSize x = Config.freeByte i x) ∧
            (s.owns c k h = false ∨ ((s.reg g).getLsbD 0 = v.getLsbD 0 ∧ (s.reg g).getLsbD (4 + k) = v.getLsbD (4 + k)) →
              t.hbm.read granSize x = s.hbm.read granSize x)) ∧
      (s.active c = true ∨ (v.getLsbD 0 = true ∧ sget? s.sec.keys c = none) ∨
          (∃ k, k < 4 ∧ v.getLsbD (4 + k) = true ∧ s.wholeGroups c k = false) →
        ∃ t, exec (.ctxMemWrite u c v) s = .next t ∧ { t with regs := s.regs } = s ∧ t.rf (R.CTX_MEM_REFUSED c) = 1 ∧
          t.rf (R.CTX_MEM_ENC c) = s.rf (R.CTX_MEM_ENC c) ∧ t.rf (R.CTX_MEM_INTLV c) = s.rf (R.CTX_MEM_INTLV c))) ∧
    (∀ (w : Reader) (a : BitVec 41) (x : Found) (onDie : Bool) (b : Nat), b = a.toNat / 64 * 64 → populated b = true →
      (s.hbmWaits b 64 = true ∨ s.rangeFenced b 64 = true → exec (.hbmRead w a x onDie) s = .next s) ∧
      (s.hbmWaits b 64 = false → s.rangeFenced b 64 = false → ∃ t, exec (.hbmRead w a x onDie) s = .next t ∧
        s.SameBut t [.regs, .b2data, .hbmBad, .pairs] ∧
        (onDie = true → t.rf (R.HBM_ODECC_CNT_COUNT (fieldOf (s.mapAddr b)) (s.stackOf (s.mapAddr b))) =
          satAdd32 (s.rf (R.HBM_ODECC_CNT_COUNT (fieldOf (s.mapAddr b)) (s.stackOf (s.mapAddr b)))) 1) ∧
        t.b2data = (if x = .uncorrectable then List.replicate 64 0 else s.peekHbm b 64) ∧
        (x = .uncorrectable → (sget? t.hbmBad (s.mapAddr b / 64)).isSome = true) ∧ (x ≠ .uncorrectable → t.hbmBad = s.hbmBad))) ∧
    (∀ (w : Reader) (a : BitVec 41) (bs : List Byte) (x : Found) (onDie : Bool) (b : Nat), b = s.mapAddr a.toNat → bs ≠ [] →
      a.toNat % 64 + bs.length ≤ 64 → bs.length < 64 → populated a.toNat = true →
      s.writerOk w a.toNat bs.length = true → s.hbmWaits a.toNat bs.length = false →
      s.rangeFenced a.toNat bs.length = false →
        ∃ t, exec (.hbmPartialWrite w a bs x onDie) s = .next t ∧
          s.SameBut t [.regs, .hbm, .hbmBad, .regions, .coverage, .pairs, .ports, .inbox] ∧
          (x ≠ .uncorrectable → sget? s.hbmBad (b / 64) = none → t.hbm = s.hbm.writeN granSize b bs ∧
            ∀ y, t.hbm.read granSize y = if b ≤ y ∧ y < b + bs.length then bs.getD (y - b) 0 else s.hbm.read granSize y) ∧
          (x = .uncorrectable → t.hbm = s.hbm ∧ (sget? t.hbmBad (b / 64)).isSome = true)) ∧
    (∀ (off : BitVec 41) (a : Nat), a = s.bar2Addr u off.toNat →
      (∀ n : Fin 4097, s.bar2Served u off.toNat n = true →
        (s.bar2In u a n = false → ∃ t, exec (.bar2Read u off n) s = .next t ∧ s.SameBut t [.regs, .b2data, .pairs] ∧
          t.b2data = List.replicate n.val 0 ∧ t.rf R.HIF_ACC_CNT_COUNT = satAdd32 (s.rf R.HIF_ACC_CNT_COUNT) 1 ∧
          (s.rf R.HIF_ACC_INFO_VALID = 0 → t.rf R.HIF_ACC_INFO_KIND = 2 ∧ t.rf R.HIF_ACC_INFO_WRITE = 0 ∧
            t.rf R.HIF_ACC_INFO_FUNC = u)) ∧
        (s.bar2In u a n = true → s.rangeFenced a n = true →
          exec (.bar2Read u off n) s = .next { s with b2data := List.replicate n.val 0 }) ∧
        (s.bar2In u a n = true → s.rangeFenced a n = false →
          (s.hbmWaits a n = true → exec (.bar2Read u off n) s = .next s) ∧
          (s.hbmWaits a n = false → ∃ t, exec (.bar2Read u off n) s = .next t ∧ s.SameBut t [.regs, .b2data, .pairs] ∧
            t.b2data = s.peekHbm a n))) ∧
      ∀ (bs : List Byte) (n : Nat), n = bs.length → s.bar2Served u off.toNat n = true →
        (∀ kind, (kind = 2 ∧ s.bar2In u a n = false) ∨
            (kind = 4 ∧ s.bar2In u a n = true ∧ s.rangeFenced a n = false ∧ s.bar2Writable u a n = false) →
          ∃ t, exec (.bar2Write u off bs) s = .next t ∧ s.SameBut t [.regs, .pairs] ∧
            t.rf R.HIF_ACC_CNT_COUNT = satAdd32 (s.rf R.HIF_ACC_CNT_COUNT) 1 ∧
            (s.rf R.HIF_ACC_INFO_VALID = 0 → t.rf R.HIF_ACC_INFO_KIND = kind ∧ t.rf R.HIF_ACC_INFO_WRITE = 1 ∧
              t.rf R.HIF_ACC_INFO_FUNC = u)) ∧
        (s.bar2In u a n = true → s.rangeFenced a n = true ∨ (s.bar2Writable u a n = true ∧ s.hbmWaits a n = true) →
          exec (.bar2Write u off bs) s = .next s) ∧
        (s.bar2In u a n = true → s.rangeFenced a n = false → s.bar2Writable u a n = true → s.hbmWaits a n = false →
          ∃ t, exec (.bar2Write u off bs) s = .next t ∧
            s.SameBut t [.regs, .hbm, .hbmBad, .regions, .coverage, .pairs, .ports, .inbox] ∧
            ∀ base, (∀ k, k < n → s.mapAddr (a + k) = base + k ∧ sget? s.hbmBad ((base + k) / 64) = none) →
              t.hbm = s.hbm.writeN granSize base bs)) ∧
    ∀ (m : Fin 5) (x : Found) (onDie : Bool) (i : Nat), i = sgetD s.scrubAt (5 * f + m) 0 →
      (s.stackAsleep f m = true ∨ s.wordWaits (s.rowAddr f m (s.rf (R.HBM_SCRUB_STAT_ROW f m)) i) = true →
        exec (.scrubRead f m x onDie) s = .next s) ∧
      (s.rf (R.HBM_SCRUB_CTRL_EN f m) = 1 → s.stackAsleep f m = false →
        s.wordWaits (s.rowAddr f m (s.rf (R.HBM_SCRUB_STAT_ROW f m)) i) = false →
        ∃ t, exec (.scrubRead f m x onDie) s = .next t ∧ s.SameBut t [.regs, .hbmBad, .scrubAt, .pairs] ∧
          (i + 1 < 2 ^ 24 → sgetD t.scrubAt (5 * f + m) 0 = i + 1 ∧
            t.rf (R.HBM_SCRUB_STAT_ROW f m) = s.rf (R.HBM_SCRUB_STAT_ROW f m)) ∧
          (2 ^ 24 ≤ i + 1 → t.rf (R.HBM_SCRUB_STAT_ROW f m) =
            if s.rf (R.HBM_SCRUB_STAT_ROW f m) < 95 then s.rf (R.HBM_SCRUB_STAT_ROW f m) + 1 else 0))

/-- R285, R288, R374 to R377, R440: creating a context that is not resident makes it resident for its client, in RESET and with the
state of a reset context; destroying one that nothing uses clears `VALID`; both are refused otherwise. A quota that fits and
meets no other resident context's is taken, and a new seedbed range holds undefined bytes (log 3). A region entry is validated
in a state that allows it, and removed likewise. -/
def Obligations.ContextsAndRegionsAreSetUp : Prop :=
  ∀ (u : Fin 64) (c : Fin 64) (v : Word32) (s : State), s.Canon →
    (s.MayWrite u (A.CTX_BIND c) →
      (v.getLsbD 31 = true → s.resident c = false → ∃ t, exec (.contextCreate u c v) s = .next t ∧
        t.reg (A.CTX_BIND c) = rowsWrite (rowsAt (A.CTX_BIND c)) v (s.reg (A.CTX_BIND c)) ∧ t.resident c = true ∧
        t.client c = wbits v 0 6 ∧ t.cstate c = stReset ∧ t.ctx c = {} ∧
        ((∀ f, f < 4 → (s.eng f).waiting = []) → ∀ d, d ≠ c.val → t.ctx d = s.ctx d) ∧
        (∀ f n k, k < 3 → t.strm f n c k = {}) ∧ t.rf (R.CTX_MEM_ENC c) = 0 ∧
        ∀ f g x, f < 4 → s.owns c f g = true → x / granSize = granUnit f g → t.hbm.read granSize x = 0) ∧
      (v.getLsbD 31 = true → s.resident c = true → ∃ t, exec (.contextCreate u c v) s = .next t ∧ { t with regs := s.regs } = s ∧
        t.rf (R.CTX_STAT_REFUSED c) = 1 ∧ t.reg (A.CTX_BIND c) = s.reg (A.CTX_BIND c)) ∧
      (v.getLsbD 31 = false → ∃ t, exec (.contextDestroy u c v) s = .next t ∧ { t with regs := s.regs } = s ∧
        (s.canDestroy c = true → t.rf (R.CTX_BIND_VALID c) = 0 ∧ ∀ x, x ≠ A.CTX_BIND c → t.reg x = s.reg x) ∧
        (s.canDestroy c = false → t.rf (R.CTX_STAT_REFUSED c) = 1 ∧ t.reg (A.CTX_BIND c) = s.reg (A.CTX_BIND c)))) ∧
    (∀ (f : Fin 4) (k : Quota) (a b n cap : Nat) (lb ln : Loc), quotaLocs c f k = (a, lb, ln, cap) → s.MayWrite u a →
      b = wbits v lb.lo lb.wid → n = wbits v ln.lo ln.wid → b + n ≤ cap →
      ∃ t, exec (.quotaWrite u c f k v) s = .next t ∧ s.SameBut t [.freeCtr, .regs, .seedbed, .glean, .furrows] ∧
        (s.active c = true → t.reg a = s.reg a ∧ t.rf (R.CTX_STAT_REFUSED c) = 1 ∧ t.seedbed = s.seedbed) ∧
        (s.active c = false → (∀ d, d < 64 → d ≠ c.val → s.resident d = true →
            unitsMeet b n (s.rf (quotaLocs d f k).2.1) (s.rf (quotaLocs d f k).2.2.1) = false) →
          t.reg a = rowsWrite (rowsAt a) v (s.reg a) ∧ (∀ x, x ≠ a → t.reg x = s.reg x) ∧
          (k = .seedbed → (s.rf lb, s.rf ln) ≠ (b, n) → ∃ i, ∀ m x, m < 26 → 65536 * b ≤ x → x < 65536 * (b + n) →
            t.seedByte f m x = Config.freeByte i (furKey f m * seedSize + x)))) ∧
    (s.MayWrite u A.CMT_RCTL → ∀ (i : Nat) (r : Region), i = s.rf R.CMT_RSEL_REGION → r = (s.region i).withCtl v →
      (v.getLsbD 8 = true → (s.region i).valid = true → exec (.regionValidate u v) s = .next s) ∧
      (v.getLsbD 8 = true → (s.region i).valid = false →
        (s.canValidate i r = true → ∃ t, exec (.regionValidate u v) s = .next t ∧ s.SameBut t [.regions, .coverage] ∧
          (t.region i).valid = true ∧ (t.region i).live = false ∧ (t.region i).ctx = wbits v 0 6 ∧
          (t.region i).field = wbits v 6 2 ∧ (t.region i).mirrorRole = v.getLsbD 9 ∧ (t.region i).mirrored = v.getLsbD 11 ∧
          (t.region i).copy0 = (s.region i).copy0 ∧ (t.region i).copy1 = (s.region i).copy1 ∧
          (t.region i).len = (s.region i).len ∧ ∀ j, j ≠ i → t.region j = s.region j) ∧
        (s.canValidate i r = false → ∃ t, exec (.regionValidate u v) s = .next t ∧ { t with regs := s.regs } = s ∧
          t.rf R.CMT_STAT_REFUSED = 1)) ∧
      (v.getLsbD 8 = false → ((s.region i).valid = true ∧ s.regionIdle (s.region i).ctx = false →
          ∃ t, exec (.regionInvalidate u v) s = .next t ∧ { t with regs := s.regs } = s ∧ t.rf R.CMT_STAT_REFUSED = 1) ∧
        ((s.region i).valid = true → s.regionIdle (s.region i).ctx = true → ∃ t, exec (.regionInvalidate u v) s = .next t ∧
          { t with regions := s.regions } = s ∧ t.region i = { s.region i with valid := false } ∧
          ∀ j, j ≠ i → t.region j = s.region j) ∧
        ((s.region i).valid = false → ∃ t, exec (.regionInvalidate u v) s = .next t ∧ { t with regions := s.regions } = s ∧
          t.region i = r ∧ ∀ j, j ≠ i → t.region j = s.region j)))

/-- R168, R348 to R350, R487, R488, R490, R491, R494 to R501, R504, R529: a key slot takes its key where nothing forbids it, a refused command shows
its cause, and both clear `SEC_KEYj`. An update begins where its header passes the checks, takes its body part by part, and ends with
the header and its marker; a failed check ends it with its cause. A burn raises the security version and revokes. An accepted
debug token clears the keys and unlocks. The identity answers attestation requests and the key exchange, DOE Discovery
lists the object types (their two vendor type codes are log 88's free values), and an integrity failure is reported by AER. MGMT fragments are
collected and dropped when late (log 32). The test access port follows its instruction. Signatures and digests are log 4. -/
def Obligations.SecurityCommandsAct : Prop :=
  (∀ (u : Fin 64) (v : Word32) (s : State) (c : Nat), s.Canon → s.MayWrite u A.SEC_KCMD → c = s.rf R.SEC_KSEL_SLOT →
    (v.getLsbD 0 = true → ∃ t, exec (.keyLoad u v) s = .next t ∧ s.SameBut t [.freeCtr, .regs, .hbm, .hbmBad, .sec] ∧
      t.sec.keyIn = [] ∧
      (v.getLsbD 1 = false → s.active c = false → s.keyBytes.take 32 ≠ s.keyBytes.drop 32 →
        (s.rf R.HIF_LINK_IDE = 1 ∨ s.rf R.SEC_CTRL_KEY_NOIDE = 1) → s.rf R.SEC_STAT_DBG = 0 →
          sget? t.sec.keys c = some s.keyBytes ∧ t.regs = s.regs ∧
          (∀ k, k ≠ c → sget? t.sec.keys k = sget? s.sec.keys k) ∧ (s.rf (R.CTX_MEM_ENC c) = 0 → t.hbm = s.hbm)) ∧
      (v.getLsbD 1 = true ∨ s.active c = true → t.sec.keys = s.sec.keys ∧ t.rf R.SEC_KSTAT_REFUSED = 1 ∧
        t.rf R.SEC_KSTAT_CAUSE = if v.getLsbD 1 then 6 else 1)) ∧
    (v.getLsbD 0 = false → v.getLsbD 1 = true → ∃ t, exec (.keyClear u v) s = .next t ∧ s.SameBut t [.regs, .sec] ∧
      t.sec.keyIn = [] ∧
      (s.active c = false → s.rf (R.CTX_MEM_ENC c) = 0 → t.regs = s.regs ∧ t.sec.keys = sdel s.sec.keys c) ∧
      (s.active c = true ∨ s.rf (R.CTX_MEM_ENC c) = 1 → t.sec.keys = s.sec.keys ∧ t.rf R.SEC_KSTAT_REFUSED = 1 ∧
        t.rf R.SEC_KSTAT_CAUSE = if s.active c then 1 else 4))) ∧
  (∀ (u : Fin 64) (v : Word32) (sigs : List Verified) (flashOk : Bool) (s : State) (h b : List Byte) (k got : Nat), s.Canon →
    s.MayWrite u A.SEC_UPD_CTRL → s.stage = 5 ∨ s.stage = 6 →
    (wbits v 0 3 = 1 → h = s.mailBytes 8192 → k = firstCause (s.headerChecks h (imgVerifies sigs h) ++ [(flashOk, 9)]) →
      ∃ t, exec (.updateBegin u v sigs flashOk) s = .next t ∧ s.SameBut t [.regs, .pairs, .flash, .sec] ∧
        (s.upOpen = true → s.upOwner ≠ 0 → t.rf R.SEC_UPD_STAT_ERR = 11 ∧ t.flash = s.flash ∧ t.sec = s.sec ∧
          t.upState = s.upState) ∧
        (s.upOpen = false ∨ s.upOwner = 0 → t.upOwner = 0 ∧
          (k ≠ 0 → t.upState = upError ∧ t.rf R.SEC_UPD_STAT_ERR = k ∧ t.flash = s.flash) ∧
          (k = 0 → t.upState = upReceiving ∧ t.rf R.SEC_UPD_STAT_ERR = 0 ∧ t.rf R.SEC_UPD_RCVD_BYTES = 0 ∧
            t.sec.upHeader = h ∧ t.flash = { s.flash with header := none }))) ∧
    (s.upState = upReceiving → s.upOwner = 0 → h = s.sec.upHeader → imgBody h ≤ 50323456 →
      (wbits v 0 3 = 2 → b = s.mailBytes (min 65536 (s.rf R.SEC_UPD_LEN_LEN)) → got = s.rf R.SEC_UPD_RCVD_BYTES →
        ∃ t, exec (.updateData u v) s = .next t ∧ s.SameBut t [.regs, .flash] ∧
          (s.rf R.SEC_UPD_OFF_OFF = got → b ≠ [] → got + b.length ≤ imgBody h → t.upState = upBusy ∧
            t.rf R.SEC_UPD_RCVD_BYTES = got + b.length ∧
            t.flash = { s.flash with body := s.flash.body.writeN hostUnit (bodyOffset got) b }) ∧
          (s.rf R.SEC_UPD_OFF_OFF ≠ got ∨ b = [] ∨ imgBody h < got + b.length → t.upState = upError ∧
            t.rf R.SEC_UPD_STAT_ERR = 10 ∧ t.flash = s.flash)) ∧
      (wbits v 0 3 = 3 → k = firstCause (s.bodyChecks h flashOk) →
        ∃ t, exec (.updateFinish u v flashOk) s = .next t ∧ s.SameBut t [.regs, .pairs, .flash] ∧
          (k = 0 → t.upState = upDone ∧ t.flash = { s.flash with header := some (h.take 8184 ++ imgMarker) }) ∧
          (k ≠ 0 → t.upState = upError ∧ t.rf R.SEC_UPD_STAT_ERR = k ∧ t.flash = s.flash))) ∧
    (wbits v 0 3 = 4 → s.upOwner = 0 → ∃ t, exec (.updateCancel u v) s = .next t ∧ { t with regs := s.regs } = s ∧
      t.upState = upIdle)) ∧
  (∀ (u : Fin 64) (v : Word32) (sigs : List Verified) (ok : Bool) (s : State) (k : Nat), s.Canon →
    (s.MayWrite u A.SEC_CTRL → s.stage = 5 → v.getLsbD 0 = true → ∃ t, exec (.svnCommit u v) s = .next t ∧
      { t with regs := s.regs } = s ∧ t.rf R.SEC_STAT_BURNING = 1) ∧
    (s.rf R.SEC_STAT_BURNING = 1 → ∃ t, exec (.fuseBurnDone ok) s = .next t ∧ s.SameBut t [.regs, .pairs, .fuses] ∧
      t.rf R.SEC_STAT_BURNING = 0 ∧
      (ok = true → t.fuses =
        { s.fuses with
          svn := max s.fuses.svn (imgSvn s.sec.running), revoked := s.fuses.revoked ||| imgRevoke s.sec.running }) ∧
      (ok = false → t.fuses = s.fuses ∧ (t.rf (R.ERR_STAT_STAT Page.securityBase)).testBit 2 = true)) ∧
    (s.MayWrite u A.SEC_DBG_CTRL → v.getLsbD 0 = true → k = s.debugCause (s.mailBytes 7323) (tokenVerifies sigs (s.mailBytes 7323)) →
      ∃ t, exec (.debugToken u v sigs) s = .next t ∧ s.SameBut t [.freeCtr, .regs, .pairs, .sec] ∧
        t.rf R.SEC_DBG_STAT_CAUSE = k ∧ (k = 0 → t.sec = { s.sec with keys := [] } ∧ t.rf R.SEC_STAT_DBG = 1) ∧
        (k ≠ 0 → t.sec = s.sec ∧ t.rf R.SEC_STAT_DBG = s.rf R.SEC_STAT_DBG ∧
          (t.rf (R.ERR_STAT_STAT Page.securityBase)).testBit 1 = true))) ∧
  (∀ (req : List Byte) (s : State), s.Canon →
    (s.stage = 5 → s.rf R.HIF_LINK_SPEED ≠ 0 → ∃ t, exec (.ideKeyMessage req) s = .next t ∧
      s.SameBut t [.freeCtr, .regs, .sec] ∧
      (leAt req 0 1 = 1 → req.length = 33 → t.sec.ideStage = 2 ∧ t.sec.ideT = req ++ t.sec.doe ∧ t.sec.doe.length = 6196 ∧
        t.sec.doe.head? = some 2 ∧ t.sec.ideTx = s.sec.ideTx ∧ t.sec.ideRx = s.sec.ideRx) ∧
      (leAt req 0 1 = 3 → req.length = 1569 → s.sec.ideStage = 2 → t.sec.ideStage = 3 ∧ t.sec.ideT = s.sec.ideT ++ req ∧
        t.sec.ideNew = fitBytes 64 (kmac (kemSecret ((s.sec.ideT.drop 34).take 1568) (req.drop 1)) (sha3 (s.sec.ideT ++ req)) 64
          (ascii "EKX-IDE1")) ∧ t.sec.ideTx = s.sec.ideTx ∧ t.sec.ideRx = s.sec.ideRx) ∧
      (leAt req 0 1 = 4 → req.length = 1 → s.sec.ideStage = 3 → t.sec.ideStage = 4 ∧ t.sec.ideTx = s.sec.ideNew.take 32 ∧
        t.sec.ideRx = s.sec.ideNew.drop 32 ∧ t.rf R.HIF_LINK_IDE = 1) ∧
      (leAt req 0 1 = 0 ∨ leAt req 0 1 = 2 ∨ (leAt req 0 1 = 3 ∧ s.sec.ideStage ≠ 2) ∨ (leAt req 0 1 = 4 ∧ s.sec.ideStage ≠ 3) →
        t.sec.ideStage = 0 ∧ t.sec.doe = leBytes 4 0xFFFFFFFF ∧ t.sec.ideTx = s.sec.ideTx ∧ t.sec.ideRx = s.sec.ideRx ∧
          t.regs = s.regs)) ∧
    (∀ i : Byte, 2 ≤ s.stage → ∃ t, exec (.doeAttest (.discovery i)) s = .next t ∧ s.SameBut t [.freeCtr, .sec] ∧
      (i = 0 → t.sec.doe = [1, 0, 0, 1]) ∧ (i = 1 → t.sec.doe = leBytes 3 (Config.doeType 1).toNat ++ [2]) ∧
      (i = 2 → t.sec.doe = leBytes 3 (Config.doeType 2).toNat ++ [0])) ∧
    (s.stage = 5 ∨ s.stage = 6 → ∃ t, exec (.doeAttest (.attest req)) s = .next t ∧ s.SameBut t [.freeCtr, .sec] ∧
      (req.length = 36 → zeroAt req 1 3 = true → leAt req 0 1 = 1 → t.sec.doe.length = 5011 ∧
        (t.sec.doe.drop 8).take 32 = req.drop 4) ∧
      (req.length = 36 → zeroAt req 1 3 = true → leAt req 0 1 = 2 → t.sec.doe = s.chainBytes) ∧
      (req.length ≠ 36 → t.sec.doe = leBytes 4 0xFFFFFFFF)) ∧
    (s.rf R.HIF_LINK_IDE = 1 → ∃ t, exec .ideIntegrityFailure s = .next t ∧ s.SameBut t [.regs, .pairs, .sec] ∧
      t.sec = { s.sec with aer := true } ∧
      (t.rf (R.ERR_STAT_STAT Page.hostifBase)).testBit 1 = true)) ∧
  (∀ (p : Fin 12) (vc : Fin 2) (i : Fin 4) (sigs : List Verified) (ok : Bool) (m : Meas) (s : State) (x : Pkt) (rest : List (Nat × Pkt))
    (o : MgmtObj), s.Canon →
    (takeInbox p 3 vc s.inbox = some (x, rest) → x.ptype = 6 → x.payload.length ≤ 4096 → x.aux % 256 = 0 →
      2 ≤ x.aux / 256 % 256 → (∀ y ∈ s.sec.objs, ¬ (y.src = x.src ∧ y.num = x.aux / 2 ^ 16 % 2 ^ 32)) →
        ∃ t, exec (.mgmtPacket p vc sigs ok m) s = .next t ∧ s.SameBut t [.regs, .pairs, .ports, .inbox, .sec] ∧ t.inbox = rest ∧
          (s.sec.objs.length < 4 → t.sec =
            { s.sec with
              objs := s.sec.objs ++ [⟨x.src, x.aux / 2 ^ 16 % 2 ^ 32, x.aux / 256 % 256, 1, x.payload⟩] }) ∧
          (4 ≤ s.sec.objs.length → t.sec = s.sec ∧
            t.rf R.MBL_QREFUSED_COUNT = satAdd32 (s.rf R.MBL_QREFUSED_COUNT) 1)) ∧
    (s.sec.objs[i.val]? = some o → ∃ t, exec (.mgmtReassemblyTimeout i) s = .next t ∧ s.SameBut t [.regs, .sec] ∧
      t.sec = { s.sec with objs := s.sec.objs.erase o } ∧ t.rf R.MBL_QREFUSED_COUNT = satAdd32 (s.rf R.MBL_QREFUSED_COUNT) 1)) ∧
  ∀ (low : Bool) (r : TapReg) (tdi : List Bool) (s : State),
    (∃ t, exec (.jtagAccess (.trst low)) s = .next t ∧ { t with pins := s.pins } = s ∧ t.pins.tapReg = .idcode ∧
      t.pins.trst = low) ∧
    (s.pins.trst = false → (∃ t, exec (.jtagAccess (.select r)) s = .next t ∧ { t with pins := s.pins } = s ∧
        t.pins.tapReg = if r = .debug ∧ s.rf R.SEC_STAT_DBG = 0 then .bypass else r) ∧
      ∃ t, exec (.jtagAccess (.shift tdi)) s = .next t ∧ s.SameBut t [.freeCtr, .pins] ∧ t.pins.tdo.length = tdi.length ∧
        (s.pins.tapReg = .idcode → t.pins.tdo = ((List.range 32).map idcode.getLsbD ++ tdi).take tdi.length) ∧
        (s.pins.tapReg = .bypass → t.pins.tdo = (false :: tdi).take tdi.length))

/-! ### System commands (R365, R378, R423 to R427, R440 to R445, R502 to R506) -/

/-- R81, R365, R378, R423, R424: LEND at rest sets the context's field mask; the operations of the context in the fields it
loses end. REMAP lets the spare `n` carry the logical furrow `l` with its stores cleared, and retires the furrow that
carried it; RETIRE takes a furrow out of service. Each finishes OK. -/
def Obligations.LendRemapAndRetire : Prop :=
  ∀ (q : Fin 8192) (m : Meas) (s : State) (w : CmdWord) (f n l : Nat), s.Canon → f = cmdAt w 32 1 →
    (s.MayRun q 0x48 w → l = cmdAt w 33 1 → f < 64 → s.resident f = true → l < 16 → lowest (reservedBytes w 34 30) = none →
      s.cstate f = stReset ∨ s.cstate f = stBoundary →
      (∀ g, g < 4 → l.testBit g = true → s.inMask f g = false → s.isFenced (.field g) = false ∧ s.rf (R.PWR_FLD_STATE g) ≠ 3 ∧
        s.harrowing g = false ∧ s.rf (R.FLD_SBQ_SIZE f g) ≠ 0 ∧ s.rf (R.FLD_ACQ_COUNT f g) ≠ 0) →
      (∀ g, g < 4 → l.testBit g = false → s.inMask f g = true → s.homes f g = false ∧ ∀ e ∈ s.regions,
        ¬ (e.2.valid = true ∧ e.2.mirrorRole = true ∧ e.2.ctx = f ∧ e.2.field = g)) →
        ∃ t, exec (.lend q) s = .next t ∧
          s.Ran t (((List.range 4).filter fun g => !l.testBit g && s.inMask f g).foldl (fun s g => s.loseField f g)
            ((s.started q w).wf (R.CTX_FMASK_MASK f) l)) q w ∧
          ((∀ g, g < 4 → s.inMask f g = true → l.testBit g = true) → t.rf (R.CTX_FMASK_MASK f) = l)) ∧
    (f < 4 → s.isFenced (.field f) = false → s.harrowing f = false →
      (s.MayRun q 0x49 w → l = cmdAt w 33 1 → n = cmdAt w 34 1 → l < 24 → n = 24 ∨ n = 25 → lowest (reservedBytes w 35 29) = none →
        s.fieldIdle f = true → s.rf (R.FUR_MAP_STATE f n) = 1 → ∃ t, exec (.remap q m) s = .next t ∧
          s.SameBut t [.regs, .seedbed, .glean, .furrows, .shadows, .pairs, .queues, .staged, .heldBack, .pwr] ∧
          t.cmd? q (s.qStart q) = some (s.recAt q w (some (okStatus, 0))) ∧ t.physical f l = some n ∧ t.logical f n = l ∧
          t.rf (R.FUR_MAP_STATE f n) = 0 ∧ t.fur f n = {} ∧
          (∀ x, x < seedSize → t.seedbed.read unit64K (furKey f n * seedSize + x) = 0) ∧
          (∀ k : Fin 104, k.val ≠ furKey f n → ∀ x, x < seedSize →
            t.seedbed.read unit64K (k * seedSize + x) = s.seedbed.read unit64K (k * seedSize + x)) ∧
          (∀ x ∈ t.shadows, x.field = f → x.engine ≠ n) ∧
          ∀ old, s.physical f l = some old → old < 26 → old ≠ n →
            t.rf (R.FUR_MAP_STATE f old) = 2 ∧ t.logical f old = 31 ∧ t.pwr = { s.pwr with awake := sdel s.pwr.awake (furKey f old) }) ∧
      (s.MayRun q 0x4A w → n = cmdAt w 33 1 → n < 26 → lowest (reservedBytes w 34 30) = none → s.retired f n = false →
        s.logical f n ≥ 24 ∨ s.fieldIdle f = true → ∃ t, exec (.retire q m) s = .next t ∧
          s.SameBut t [.regs, .shadows, .pairs, .queues, .staged, .heldBack, .pwr] ∧
          t.cmd? q (s.qStart q) = some (s.recAt q w (some (okStatus, 0))) ∧ t.retired f n = true ∧ t.logical f n = 31 ∧
          (s.logical f n < 24 → t.physical f (s.logical f n) = none) ∧
          t.pwr = { s.pwr with awake := sdel s.pwr.awake (furKey f n) } ∧
          (∀ x ∈ t.shadows, x ∈ s.shadows ∧ (x.field = f → x.engine ≠ n))))

/-- R440 to R445: RESET_CTX fences the queues of another resident context, ends its work and leaves its registers, streams,
memory and keys as after reset, in RESET, and finishes OK. RESET_FIELD fences the field and holds it in reset with its memories 0,
its registers, engines and semaphores as after reset, its stacks training and its ports DISABLED; FIELD_WAKE ends that (stated with
it). In clock fallback no PLL can lock: the field ends asleep and fenced, and the contexts with a region there in RESET (log 25).
RESET_PORT leaves a port DISABLED with its page and link as after reset, and finishes OK. -/
def Obligations.ResetCommandsAct : Prop :=
  ∀ (q : Fin 8192) (rings : Rings) (m : Meas) (s : State) (w : CmdWord) (x : Nat), s.Canon → x = cmdAt w 32 1 →
    lowest (reservedBytes w 33 31) = none → s.flag R.FCOL_STAT_DEVFATAL = false →
      (s.MayRun q 0x4C w → x < 64 → s.resident x = true → s.qCtx q ≠ x → (∀ f, f < 4 → s.heldInReset f = false) →
        ∃ t, exec (.resetCtx q rings) s = .next t ∧ s.Ran t ((s.started q w).resetCtxCmd rings x) q w ∧
          t.cstate x = stReset ∧ t.ctx x = {} ∧ (∀ a, ctxReg x a = true → t.reg a = resetValue a) ∧
          (∀ (f : Fin 4) (n : Fin 26) (k : Fin 3), t.strm f n x k = {}) ∧ (∀ (f : Fin 4) (k : Fin 256), t.sem f x k = 0) ∧
          (∀ f g o, f < 4 → g < 480 → o < granSize → t.owns x f g = true →
            t.hbm.read granSize (granUnit f g * granSize + o) = 0) ∧
          (∀ r ∈ t.seqRuns, r.ctx ≠ x) ∧
          ∀ r : Fin 8192, s.qCtx r = x → s.qState r ≠ qDisabled → t.isFenced (.queue r) = true) ∧
      (s.MayRun q 0x4D w → x < 4 → s.heldInReset x = false →
        ∃ t, exec (.resetField q rings m) s = .next t ∧ s.Began t ((s.started q w).startReset rings m q (s.qStart q) x) q w ∧
          t.isFenced (.field x) = true ∧
          (s.flag R.CLK_STAT_FALLBACK = true → t.rf (R.PWR_FLD_STATE x) = 0 ∧ sget? t.pwr.resets x = none ∧
            ∀ c : Fin 64, s.ownIn c x = true → t.cstate c = stReset) ∧
          (s.flag R.CLK_STAT_FALLBACK = false → t.heldInReset x = true ∧ sget? t.pwr.resets x = some (q.val, s.qStart q) ∧
          t.dmaOf x = {} ∧ t.eng x = {} ∧
          (∀ n : Fin 26, t.fur x n = {} ∧ ∀ a, a < 0x1000 → a ≠ 0x100 →
            t.reg (Page.furrowBase x n + a) = resetValue (Page.furrowBase x n + a)) ∧
          (∀ (n : Fin 26) (c : Fin 64) (k : Fin 3), t.strm x n c k = {}) ∧
          (∀ (c : Fin 64) (k : Fin 256), t.sem x c k = 0) ∧
          (∀ o, o < 480 * granSize → t.hbm.read granSize (x * 2 ^ 39 + o) = 0) ∧
          (∀ o, o < sheafSize → t.sheaf.read unit64K (x * sheafSize + o) = 0) ∧
          (∀ n o, n < 26 → o < seedSize → t.seedbed.read unit64K (furKey x n * seedSize + o) = 0) ∧
          (∀ n o, n < 26 → o < gleanSize → t.glean.read gleanUnit (furKey x n * gleanSize + o) = 0) ∧
          (∀ r ∈ t.seqRuns, r.field ≠ x) ∧ t.rf (R.PWR_FLD_LEVEL x) = 8 ∧ (∀ m, m < 5 → t.rf (R.HBM_STAT_STATE x m) = 1) ∧
          ∀ p, p / 2 = x → t.pstate p = pDisabled ∧ t.isFenced (.port p) = false)) ∧
      (s.MayRun q 0x4E w → x < 8 → s.heldInReset (x / 2) = false →
        ∃ t, exec (.resetPort q) s = .next t ∧ s.SameBut t [.regs, .fences, .pairs, .queues, .ports, .inbox] ∧
          t.cmd? q (s.qStart q) = some (s.recAt q w (some (okStatus, 0))) ∧ t.port x = {} ∧ t.isFenced (.port x) = false ∧
          (∀ a, a < 0x1000 → t.reg (Page.portBase x + a) = resetValue (Page.portBase x + a)) ∧ (∀ e ∈ t.inbox, e.1 ≠ x) ∧
          t.fences = s.fences.filter fun e => e.1 != Dom.port x)

/-- R425 to R427, R502 to R506: a SIGNED command whose object, from host or device memory, is well formed is checked: one for
another device, with an old sequence number, or signed by too few keys ends AUTH and is counted; an expulsion marks the
device expelled and fences every port, a return takes the mark away, and a key object puts its keys in place. An expulsion of
an expelled device and a return of one that is not end STATE; a failed flash write ends REFUSED. -/
def Obligations.SignedObjectsAct : Prop :=
  ∀ (q : Fin 8192) (host : Option (List Byte)) (sigs : List Verified) (flashOk : Bool) (m : Meas) (s : State) (w : CmdWord)
    (o : List Byte) (x : Signed) (n : Nat), s.Canon → s.MayRun q 0x50 w → n = cmdAt w 44 4 → cmdAt w 40 1 ≤ 1 →
    lowest (reservedBytes w 41 3 ++ reservedBytes w 48 16) = none → 16 ≤ n → n = signedLen o → parseSigned o = some x →
    (cmdAt w 40 1 = 1 → host.map (fitBytes n) = some o) →
    (cmdAt w 40 1 = 0 → s.inPartition (s.qCtx q) (cmdAt w 32 8) n = true ∧ s.rangeFenced (cmdAt w 32 8) n = false ∧
      s.hbmWaits (cmdAt w 32 8) n = false ∧ s.readBad (cmdAt w 32 8) n = false ∧ s.peekHbm (cmdAt w 32 8) n = o) →
      ∀ i, i = (if x.action = 1 then Instr.expel q host sigs m else if x.action = 2 then .rejoin q host sigs m
          else .managerKeys q host sigs flashOk m) →
        ∃ t, exec i s = .next t ∧ s.SameBut t [.regs, .fences, .pairs, .queues, .ports, .flash, .staged, .heldBack] ∧
          (s.authOk x sigs true = false → t.flash = s.flash ∧ t.fences = s.fences ∧
            t.rf R.MBL_QREFUSED_COUNT = satAdd32 (s.rf R.MBL_QREFUSED_COUNT) 1 ∧
            t.cmd? q (s.qStart q) = some (s.recAt q w (some (authStatus, 1)))) ∧
          (s.authOk x sigs true = true →
            (x.action = 1 ∧ s.flash.expelled = true ∨ x.action = 2 ∧ s.flash.expelled = false → t.flash = s.flash ∧
              t.fences = s.fences ∧ t.cmd? q (s.qStart q) = some (s.recAt q w (some (stStatus, s.cstate (s.qCtx q))))) ∧
            (x.action = 1 → s.flash.expelled = false → t.flash = s.flash.putHdr { s.flash.hdr with expelled := true, qseq := x.seq } ∧
              (∀ p, p < 8 → t.isFenced (.port p) = true) ∧
              t.cmd? q (s.qStart q) = some (s.recAt q w (some (okStatus, 0)))) ∧
            (x.action = 2 → s.flash.expelled = true → t.flash = s.flash.putHdr { s.flash.hdr with expelled := false, qseq := x.seq } ∧
              t.fences = s.fences ∧ t.cmd? q (s.qStart q) = some (s.recAt q w (some (okStatus, 0)))) ∧
            (x.action = 3 → t.fences = s.fences ∧
              (flashOk = false → t.flash = s.flash ∧ t.cmd? q (s.qStart q) = some (s.recAt q w (some (refusedStatus, 0)))) ∧
              (flashOk = true → t.flash.keysOther = (s.flash.keys, s.flash.need) ∧ t.flash.keys.length = leAt x.body 16 1 ∧ t.flash.need = leAt x.body 17 1 ∧ t.flash.qseq = x.seq ∧
                (∀ j, j < leAt x.body 16 1 → t.flash.keys[j]? = some ((x.body.drop (32 + keySize * j)).take keySize)) ∧
                t.cmd? q (s.qStart q) = some (s.recAt q w (some (okStatus, 0))))))

/-! ### Resets, the host link and boot (R340 to R351, R440, R473 to R492, R518, R525 to R534) -/

/-- R344, R440, R525, R531, R533, R534: device reset, and the loss of power, leave everything but fuses, flash, pins
and what stands outside the device (log 39) as after power-on, held in reset; the converter's start asserts PWR_GOOD.
A Function Level Reset disables the virtual function's queues, resets its contexts and clears its MSI-X state (log 9).
R342, R344, R346, R351, R492: the host link comes up with its speed, width and FLIT mode. Fewer virtual functions
reset those that go; BAR2 takes a size it has. The host's MSI-X masks hold messages back and let them out (log 9). -/
def Obligations.DeviceAndFunctionResets : Prop :=
  ((∀ s : State, s.Canon →
    (∀ why : ResetCause, ∃ t, exec (.deviceReset why) s = .next t ∧
      { t with
        pending := State.reset.pending, freeCtr := State.reset.freeCtr,
        hostMem := State.reset.hostMem, msgs := State.reset.msgs, flash := State.reset.flash, fuses := State.reset.fuses,
        pins := State.reset.pins, pwr := State.reset.pwr, mg := State.reset.mg } = State.reset ∧
      t.hostMem = s.hostMem ∧ t.msgs = s.msgs ∧ t.flash = s.flash ∧ t.fuses = s.fuses ∧ t.pwr.pin = s.pwr.pin ∧
      t.mg.sent = s.mg.sent ∧ t.pins = { s.pins with held := true, good := s.pins.good && why != .powerGood }) ∧
    (∀ why : LossCause, ∃ t, exec (.powerLoss why) s = .next t ∧
      { t with
        pending := State.reset.pending, freeCtr := State.reset.freeCtr,
        hostMem := State.reset.hostMem, msgs := State.reset.msgs, flash := State.reset.flash, fuses := State.reset.fuses,
        pins := State.reset.pins, pwr := State.reset.pwr, mg := State.reset.mg } = State.reset ∧
      t.hostMem = s.hostMem ∧ t.flash = s.flash ∧ t.fuses = s.fuses ∧
      t.pins = { s.pins with
        held := true, good := false, running := s.pins.running && why != .converter
        standby := s.pins.standby && why == .steadingRail } ∧
      (why ≠ .steadingRail → t.pwr = State.reset.pwr) ∧ (why = .steadingRail → t.pwr.pin = s.pwr.pin)) ∧
    (∃ t, exec .converterStart s = .next t ∧ { t with pins := s.pins } = s ∧
      t.pins = { s.pins with good := true, running := true, standby := true })) ∧
  ∀ (u : Fin 64) (s : State), s.Canon → u.val ≠ 0 → s.funcEnabled u = true → 2 ≤ s.stage →
    ∃ t, exec (.functionLevelReset u) s = .next t ∧
      (∀ q : Fin 8192, s.qFunc q = u → t.qState q = qDisabled ∧ (s.qState q ≠ qDisabled → t.queue q = { refused := (s.queue q).refused } ∧
        t.flag (R.QM_QCFG_EN q) = false)) ∧
      ((∀ f, f < 4 → (s.eng f).waiting = []) →
        (∀ q : Fin 8192, s.qFunc q ≠ u → t.qState q = s.qState q ∧ t.queue q = s.queue q) ∧
        ∀ c : Fin 64, s.client c ≠ u → t.cstate c = s.cstate c ∧ t.ctx c = s.ctx c) ∧
      (∀ c : Fin 64, s.resident c = true → s.client c = u → t.cstate c = stReset ∧ t.ctx c = {} ∧
        sget? t.sec.keys c = sget? (sdel s.sec.keys c) c) ∧
      t.msixOn = sdel s.msixOn u ∧
      ∀ v, v < 2048 → sget? t.msixOpen (vecKey u v) = none ∧ sget? t.msixPend (vecKey u v) = none) ∧
  (∀ s : State, s.Canon → 2 ≤ s.stage →
    (∀ (speed : Fin 6) (w : LinkWidth) (flit : Bool), s.pll 0 = 2 → ∃ t, exec (.hostLinkTrain speed w flit) s = .next t ∧
      { t with regs := s.regs } = s ∧ (∀ a, a ≠ A.HIF_LINK → a ≠ A.SEC_BOOT ∨ s.stage ≠ 2 → t.reg a = s.reg a) ∧
      (s.stage = 2 → t.stage = 3) ∧ t.rf R.HIF_LINK_SPEED = speed.val + 1 ∧
      t.rf R.HIF_LINK_WIDTH = lanes w ∧ t.rf R.HIF_LINK_FLIT = bit (flit || speed.val == 5) ∧ t.rf R.HIF_LINK_IDE = 0) ∧
    (∀ n : Fin 64, ∃ t, exec (.configurationWrite (.numVfs n)) s = .next t ∧ t.vfs = n ∧
      (s.vfs ≤ n → t = { s with vfs := n }) ∧
      (∀ q : Fin 8192, n < s.qFunc q → s.qFunc q ≤ s.vfs → t.qState q = qDisabled) ∧
      ((∀ f, f < 4 → (s.eng f).waiting = []) → ∀ u v, n < u → u ≤ s.vfs → v < 2048 → sget? t.msixOpen (vecKey u v) = none ∧ sget? t.msixPend (vecKey u v) = none)) ∧
    (∀ k : Fin 42,
      exec (.configurationWrite (.bar2Pf k)) s = .next { s with bar2Pf := if 36 ≤ k.val then k else s.bar2Pf } ∧
      exec (.configurationWrite (.bar2Vf k)) s =
        .next { s with bar2Vf := if 30 ≤ k.val ∧ k.val ≤ 36 then k else s.bar2Vf }) ∧
    exec (.configurationWrite .aerClear) s = .next { s with sec := { s.sec with aer := false } } ∧
    (∀ (u : Fin 64) (vec : Fin 2048),
      exec (.configurationWrite (.vecMask u vec)) s = .next { s with msixOpen := sdel s.msixOpen (vecKey u vec) } ∧
      exec (.configurationWrite (.funcMask u true)) s = .next { s with funcMask := sput s.funcMask u () } ∧
      (Store.Sorted s.msixOn →
        exec (.configurationWrite (.msixEnable u false)) s = .next { s with msixOn := sdel s.msixOn u }) ∧
      (s.vecExists u vec = true → ∃ t, exec (.msixUnmask u vec) s = .next t ∧ s.SameBut t [.msgs, .msixOpen, .msixPend] ∧
        t.msixOpen = sput s.msixOpen (vecKey u vec) () ∧
        if (sget? s.msixPend (vecKey u vec)).isSome = true ∧ (sget? s.msixOn u).isSome = true ∧ sget? s.funcMask u = none then
          t.msgs = s.msgs ++ [(u.val, vec.val)] ∧ t.msixPend = sdel s.msixPend (vecKey u vec)
        else t.msgs = s.msgs ∧ t.msixPend = s.msixPend)) ∧
    ∀ (u : Fin 64) (c : ConfigWrite), Store.Sorted s.msixPend → Store.Sorted s.funcMask →
      c = .msixEnable u true ∧ sget? s.funcMask u = none ∨ c = .funcMask u false ∧ (sget? s.msixOn u).isSome = true →
        ∃ t, exec (.configurationWrite c) s = .next t ∧ s.SameBut t [.msgs, .msixOn, .funcMask, .msixPend] ∧
          (sget? t.msixOn u).isSome = true ∧ sget? t.funcMask u = none ∧
          (∀ v, v < 2048 → (sget? s.msixPend (vecKey u v)).isSome = true → (sget? s.msixOpen (vecKey u v)).isSome = true →
            (u.val, v) ∈ t.msgs ∧ sget? t.msixPend (vecKey u v) = none) ∧
          (∀ k, k / 2048 ≠ u.val ∨ sget? s.msixOpen k = none → sget? t.msixPend k = sget? s.msixPend k) ∧
          ∀ e ∈ s.msgs, e ∈ t.msgs)

/-- R397, R473 to R480, R491, R492, R495, R498, R518, R525, R527, R534: the device leaves reset and boots stage by stage; a failed check ends in
recovery with its cause. The monitor judges REFCLK: two good windows bring the always-on domain to it, two bad ones end in
fallback with every field fenced. A PLL locks after three good windows and, LOCKED, is lost after two bad ones, or when it does not
lock in time, with what hangs on it. The failures of a rail and of the control processor are device-fatal. -/
def Obligations.BootAndClocksAdvance : Prop :=
  ∀ s : State, s.Canon →
    (∀ slot : BitVec 5, (s.pins.held = false ∨ s.pins.good = false → exec (.bootStart slot) s = .next s) ∧
      (s.pins.held = true → s.pins.good = true → ∃ t, exec (.bootStart slot) s = .next t ∧
        s.SameBut t [.regs, .pins] ∧ t.pins = { s.pins with held := false } ∧ t.rf R.STD_STRAP_SLOT_ID = slot.toNat ∧
        t.stage = (if s.stage = 0 ∧ s.flag R.CLK_STAT_AO_REF = true then 1 else s.stage))) ∧
    (∀ (sigs : List Verified) (flashOk : Bool) (c : Nat), s.stage = 2 ∨ s.stage = 3 →
      c = s.bootCause (imgVerifies sigs (s.flash.header.getD [])) flashOk →
      ∃ t, exec (.bootVerify sigs flashOk) s = .next t ∧ s.SameBut t [.regs, .flash, .sec] ∧ t.rf R.SEC_BOOT_CAUSE = c ∧
        (c = 0 → t.stage = 4 ∧ t.flash = s.flash.putHdr { s.flash.hdr with boots := (s.flash.boots + 1) % 2 ^ 32 } ∧
          some t.sec.running = s.flash.header ∧ t.sec = { s.sec with running := t.sec.running, keyIn := [] } ∧
          (∀ a, keptAtInit a = true → t.reg a = s.reg a) ∧
          ∀ a, keptAtInit a = false → a ∉ [A.SEC_BOOT, A.SEC_SVN, A.SEC_FWVER_LO, A.SEC_FWVER_HI] → t.reg a = resetValue a) ∧
        (c ≠ 0 → t.stage = 6 ∧ t.flash = s.flash ∧ t.sec = s.sec ∧ ∀ a, a ≠ A.SEC_BOOT → t.reg a = s.reg a)) ∧
    (s.stage = 4 → ∃ t, exec .bootReady s = .next t ∧ s.SameBut t [.regs, .mg] ∧ t.stage = 5 ∧
      (∀ a, a ≠ A.SEC_BOOT → a ≠ A.STD_TTRIP_CNT → t.reg a = s.reg a) ∧
      t.rf R.STD_TTRIP_CNT_COUNT = (if t.tripPin = true ∧ s.tripPin = false then satAdd32 (s.rf R.STD_TTRIP_CNT_COUNT) 1
        else s.rf R.STD_TTRIP_CNT_COUNT) ∧ t.mg = { s.mg with ibi := s.mg.ibi ++ [1] }) ∧
    (∀ (n : BitVec 16) (ao osc : BitVec 15), s.pins.held = false → ∃ t, exec (.monitorWindow n ao osc) s = .next t ∧
      s.SameBut t [.freeCtr, .regs, .msgs, .msixPend, .fences, .pairs, .ports, .sec, .clk] ∧
      (s.stage = 1 → t.stage = (if s.fuses.fails then 7 else 2) ∧ (s.pll 0 = 0 → t.pll 0 = 1) ∧
        (s.fuses.fails = false → t.sec.idkey.length = 2592)) ∧
      t.rf R.CLK_STAT_REF_OK = (if 440 ≤ n.toNat ∧ n.toNat ≤ 840 then 1 else 0) ∧ t.rf R.CLK_MON_COUNT = min 2047 n.toNat ∧
      (440 ≤ n.toNat ∧ n.toNat ≤ 840 → t.clk.monGood = min 2 (s.clk.monGood + 1) ∧ t.clk.monBad = 0 ∧
        (s.flag R.CLK_STAT_FALLBACK = false → s.flag R.CLK_STAT_AO_REF = false → 1 ≤ s.clk.monGood →
          t.flag R.CLK_STAT_AO_REF = true ∧ (s.pll 1 = 0 → t.pll 1 = 1) ∧
          (s.stage = 0 → t.stage = 1))) ∧
      (n.toNat < 440 ∨ 840 < n.toNat → t.clk.monGood = 0 ∧ t.clk.monBad = min 2 (s.clk.monBad + 1) ∧
        t.rf R.CLK_MON_BAD_COUNT = satAdd32 (s.rf R.CLK_MON_BAD_COUNT) 1 ∧
        (s.flag R.CLK_STAT_FALLBACK = false → s.flag R.CLK_STAT_AO_REF = true → 1 ≤ s.clk.monBad →
          t.flag R.CLK_STAT_FALLBACK = true ∧ t.flag R.CLK_STAT_AO_REF = false ∧
          ∀ f, f < 4 → t.isFenced (.field f) = true))) ∧
    (∀ (i : Fin 18) (n meter : BitVec 15), s.pllHeld i = true → exec (.pllWindow i n meter) s = .next s) ∧
    (∀ (i : Fin 18) (n meter : BitVec 15), s.pllHeld i = false → s.pll i = 1 ∨ s.pll i = 2 →
      ∃ t, exec (.pllWindow i n meter) s = .next t ∧ s.SameBut t [.regs, .fences, .pairs, .ports, .clk] ∧
        t.rf (R.CLK_PLL_COUNT i) = n.toNat ∧
        (pllAccepts i n.toNat = true → t.pll i = (if s.pll i = 2 ∨ 2 ≤ s.rf (R.CLK_PLL_GOOD i) then 2 else 1) ∧
          t.rf (R.CLK_PLL_GOOD i) = min 3 (s.rf (R.CLK_PLL_GOOD i) + 1) ∧ t.fences = s.fences) ∧
        (pllAccepts i n.toNat = false → t.rf (R.CLK_PLL_GOOD i) = 0 ∧
          (s.pll i = 1 ∨ sgetD s.clk.bad i 0 = 0 → t.pll i = s.pll i ∧ t.fences = s.fences ∧
            sgetD t.clk.bad i 0 = if s.pll i = 1 then 0 else 1) ∧
          (s.pll i = 2 → 1 ≤ sgetD s.clk.bad i 0 → t.pll i = 3 ∧ (i.val = 0 → t.rf R.HIF_LINK_SPEED = 0) ∧
            (2 ≤ i.val → i.val < 10 → t.isFenced (.field ((i.val - 2) % 4)) = true) ∧
            (10 ≤ i.val → t.pstate (i.val - 10) = pFailed)))) ∧
    (∀ i : Fin 18, s.pll i = 1 → ∃ t, exec (.pllLockTimeout i) s = .next t ∧
      s.SameBut t [.regs, .fences, .pairs, .ports, .clk] ∧ t.pll i = 3 ∧ (i.val = 0 → t.rf R.HIF_LINK_SPEED = 0) ∧
      (2 ≤ i.val → i.val < 10 → t.isFenced (.field ((i.val - 2) % 4)) = true) ∧
      (10 ≤ i.val → t.pstate (i.val - 10) = pFailed)) ∧
    (s.pins.held = false → ∀ i, i = Instr.regulatorFailure ∨ i = .controlProcessorWatchdog → ∃ t, exec i s = .next t ∧
      s.SameBut t [.regs, .msgs, .msixPend, .fences, .pairs, .ports] ∧ t.flag R.FCOL_STAT_DEVFATAL = true ∧
      (i = .regulatorFailure → (t.rf (R.ERR_STAT_STAT Page.powerBase)).testBit 6 = true) ∧
      (i = .controlProcessorWatchdog → (t.rf (R.ERR_STAT_STAT Page.steadingBase)).testBit 2 = true) ∧
      (s.flag R.FCOL_STAT_DEVFATAL = false → (∀ f, f < 4 → t.isFenced (.field f) = true) ∧
        (∀ p, p < 8 → t.isFenced (.port p) = true) ∧ (s.vecOpen 0 0 = true → (0, 0) ∈ t.msgs)))

/-! ### Power, heat and sleep (R449 to R468, R477, R538) -/

/-- R455, R458, R460 to R463, R465 to R467, R526: a boundary that is due comes first. The allotment bounds every ceiling, and frozen
minutes only fall. A plan cap sets one minute's ceiling or is refused. Of two values written in one cycle, by management and by the
physical function, the lower one wins. A new grid offset moves the boundary. At a boundary the minutes move up. The brake pin, sampled while the standby rail is in
regulation, drives duty to 0 in every awake field; its release leaves a brake of R459. The order of means (log 34) sets level and duty, and a clock
moves one level at a time. -/
def Obligations.PowerLimitsAct : Prop :=
  (∀ (u : Fin 64) (v : Word32) (s d : State) (a : Nat), s.Canon → d = s.dueBoundary →
    (s.MayWrite u A.PWR_ALLOT → a = wbits v 0 9 → (a < 60 ∨ 320 < a → exec (.allotWrite u v) s = .next s) ∧
      (60 ≤ a → a ≤ 320 → ∃ t, exec (.allotWrite u v) s = .next t ∧ s.SameBut t [.regs, .pwr, .mg] ∧
        (s.pwr.lastAllot = some (s.now, true) → t.allot = min s.allot a ∧ (s.allot ≤ a → t = d)) ∧
        (s.pwr.lastAllot ≠ some (s.now, true) → t.allot = a ∧
          (∀ x, x ≠ A.PWR_ALLOT → x ≠ A.STD_MG_EVDROP → t.reg x = d.reg x) ∧
          (∀ j, j < 8 → t.pwr.ceils[j]? = some (if j ≤ 1 then min (d.pwr.ceils.getD j 320) (min a ((d.pwr.caps.getD j none).getD 320))
            else min a ((d.pwr.caps.getD j none).getD 320))) ∧
          t.pwr.caps = d.pwr.caps ∧ t.pwr.edge = d.pwr.edge ∧ (a ≠ s.allot → ⟨s.now, s.allot⟩ ∈ t.pwr.aHist)))) ∧
    (s.MayWrite u A.PWR_PLAN_CAP → a = wbits v 0 9 →
      (a ≠ 0 → a < 60 ∨ 320 < a → exec (.planCapWrite u v) s = .next s) ∧
      (a = 0 ∨ 60 ≤ a ∧ a ≤ 320 → ∀ j, j = (s.rf R.PWR_PLAN_MIN_MIN + 2 ^ 32 - d.rf R.PWR_FC_MIN_MIN) % 2 ^ 32 →
        ∃ t, exec (.planCapWrite u v) s = .next t ∧ s.SameBut t [.regs, .pwr, .mg] ∧
          if 8 ≤ j ∨ (j ≤ 1 ∧ d.pwr.ceils.getD j 320 < min s.allot (if a = 0 then 320 else a)) then
            t.pwr = d.pwr ∧ t.mg = d.mg ∧ t.rf R.PWR_STAT_REFUSED = 1
          else if s.pwr.lastCap = some (s.now, s.rf R.PWR_PLAN_MIN_MIN, true) ∧
              (d.pwr.caps.getD j none).getD 320 ≤ (if a = 0 then 320 else a) then t = d
          else t.pwr.caps = d.pwr.caps.set j (if a = 0 then none else some a) ∧
            t.pwr.ceils = d.pwr.ceils.set j (min s.allot (if a = 0 then 320 else a)) ∧
            ∀ x, x ≠ A.STD_MG_EVDROP → t.reg x = d.reg x)) ∧
    (s.MayWrite u A.PWR_FC_ALIGN → a = wbits v 0 16 → (60000 ≤ a → exec (.fcAlignWrite u v) s = .next s) ∧
      (a < 60000 → ∃ t, exec (.fcAlignWrite u v) s = .next t ∧ s.SameBut t [.regs, .pwr, .mg] ∧ t.rf R.PWR_FC_ALIGN_MS = a ∧
        t.pwr.edge % minuteTicks = a * msTicks ∧ s.now < t.pwr.edge ∧ t.pwr.edge ≤ s.now + minuteTicks ∧
        (d.pwr.ceils.length = 8 → d.pwr.caps.length = 8 → t.pwr.edge = d.pwr.edge →
          t.pwr.ceils = d.pwr.ceils ∧ t.pwr.caps = d.pwr.caps) ∧
        (t.pwr.edge < d.pwr.edge → ∀ j, j < 8 →
          t.pwr.ceils[j]? = some (min (d.pwr.ceils.getD (j - 1) s.allot) (d.pwr.ceils.getD j s.allot))) ∧
        (d.pwr.edge < t.pwr.edge → ∀ j, j < 8 →
          t.pwr.ceils[j]? = some (min (d.pwr.ceils.getD j s.allot) (d.pwr.ceils.getD (j + 1) s.allot)))))) ∧
  (∀ s : State, s.Canon →
    (s.pwr.edge ≤ s.now → ∃ t, exec .minuteBoundary s = .next t ∧ s.SameBut t [.regs, .pwr, .mg] ∧
      t.rf R.PWR_FC_MIN_MIN = (s.rf R.PWR_FC_MIN_MIN + 1) % 2 ^ 32 ∧ t.pwr.ceils = s.pwr.ceils.drop 1 ++ [min s.allot 320] ∧
      t.pwr.caps = s.pwr.caps.drop 1 ++ [none] ∧ t.pwr.edge = s.pwr.edge + minuteTicks) ∧
    (s.now < s.pwr.edge → exec .minuteBoundary s = .next s) ∧
    (s.pins.standby = false → exec .pwrBrakeAssert s = .next s) ∧
    (s.pwr.pin = false → s.pins.standby = true → ∃ t, exec .pwrBrakeAssert s = .next t ∧ s.SameBut t [.regs, .pwr, .mg] ∧
      t.pwr = { s.pwr with pin := true, pinFor := 0, braking := true, pos := lastPlace } ∧
      (s.pins.held = true → t.regs = s.regs) ∧
      (s.pins.held = false → t.rf R.PWR_BRAKE_CNT_COUNT = satAdd32 (s.rf R.PWR_BRAKE_CNT_COUNT) 1 ∧ t.rf R.PWR_STAT_LIMIT = 1 ∧
        ∀ f, f < 4 → t.rf (R.PWR_FLD_DUTY f) = if s.fieldAwake f then 0 else s.rf (R.PWR_FLD_DUTY f))) ∧
    (s.pwr.pin = true → ∃ t, exec .pwrBrakeRelease s = .next t ∧ s.SameBut t [.regs, .pwr, .mg] ∧
      t.pwr = { s.pwr with pin := false, pinFor := 0, braking := s.pwr.braking && s.pwr.brake459 } ∧
      (s.pins.held = true → t.regs = s.regs) ∧
      (s.pins.held = false → ∀ f, f < 4 → t.rf (R.PWR_FLD_DUTY f) = if !s.fieldAwake f then s.rf (R.PWR_FLD_DUTY f)
        else if s.tripped f || t.pwr.braking then 0 else (16 - (s.pwr.pos - 24)) % 32))) ∧
  ∀ (draw : BitVec 16) (k : Fin 40) (f : Fin 4) (s : State) (l target : Nat), s.Canon →
    (s.pins.held = false → ∃ t, exec (.throttleEval draw k) s = .next t ∧ s.SameBut t [.regs, .pwr, .mg] ∧
      t.pwr = { s.pwr with
        pos := (if s.pwr.braking then s.pwr.pos else if 10 * s.limitE < draw.toNat then max s.pwr.pos k
          else max (s.pwr.pos - 10) (min s.pwr.pos k)) } ∧
      (t.rf R.PWR_STAT_LIMIT = if s.pwr.braking = true ∨ t.pwr.pos ≠ 0 then 1 else 0) ∧
      t.rf (R.PWR_FLD_DUTY f) = if !s.fieldAwake f then s.rf (R.PWR_FLD_DUTY f)
        else if s.tripped f || s.pwr.braking then 0 else (16 - (t.pwr.pos - 24)) % 32) ∧
    (s.fieldAwake f = true → s.pll (2 + f) = 2 → l = s.rf (R.PWR_FLD_LEVEL f) →
      target = (if s.tripped f then 8 else min (32 - min s.pwr.pos 24) (sgetD s.pwr.thermal f 32)) →
        ∃ t, exec (.clockLevelStep f) s = .next t ∧ { t with regs := s.regs } = s ∧
          (t.rf (R.PWR_FLD_LEVEL f) = if l < target ∧ l < 63 then l + 1 else if target < l then l - 1 else l) ∧
          ∀ a, a ≠ A.PWR_FLD f → t.reg a = s.reg a)

/-- R449, R454, R457 to R459, R468, R538: a sample shows its interval and joins the windows; a broken window brakes until
the mean is back within E. A die at its trip temperature stops its field and asserts the trip pin, and the trip ends when it has cooled; the analog sensor drives the trip pin; thermal control shows a die's
temperature and lowers its field's level (log 35). -/
def Obligations.PowerAndHeatAreMeasured : Prop :=
  ∀ s : State, s.Canon →
    (∀ (x : PowerIn) (p : PwrSt) (e : Nat) (broke : Bool), s.pins.held = false →
      e = (if s.pwr.eTicks = 0 then msTicks * s.limitE else s.pwr.eSum * msTicks / s.pwr.eTicks) →
      p = { s.pwr with samples := ((x.w.toNat, e) :: s.pwr.samples).take 1000, eSum := 0, eTicks := 0, ms := s.pwr.ms + 1 } →
      broke = (p.breaks 1000 10 || p.breaks 20 11) →
      ∃ t, exec (.powerSample x) s = .next t ∧ s.SameBut t [.regs, .pairs, .pwr, .mg] ∧ t.pwr.samples = p.samples ∧
        t.pwr.ms = p.ms ∧ t.pwr.pos = (if t.pwr.braking then lastPlace else s.pwr.pos) ∧ t.rf R.PWR_IN_V_MV = x.mv.toNat ∧ t.rf R.PWR_IN_I_CA = x.ca.toNat ∧
        t.rf R.PWR_IN_P_W = x.w.toNat ∧ t.rf (R.PWR_RAIL_W 0) = x.fields.toNat ∧ t.rf (R.PWR_RAIL_W 1) = x.hbm.toNat ∧
        t.rf (R.PWR_RAIL_W 2) = x.links.toNat ∧ t.rf (R.PWR_RAIL_W 3) = x.steading.toNat ∧
        t.rf (R.PWR_RAIL_W 4) = x.w.toNat - (x.fields.toNat + x.hbm.toNat + x.links.toNat + x.steading.toNat) ∧
        t.rf64 R.PWR_ENERGY_LO_MJ R.PWR_ENERGY_HI_MJ = (s.rf64 R.PWR_ENERGY_LO_MJ R.PWR_ENERGY_HI_MJ + x.w.toNat) % 2 ^ 64 ∧
        (t.pair (pairKey Page.powerBase 2)).cond = (x.mv.toNat < 44000 || 58000 < x.mv.toNat) ∧
        (p.breaks 1000 10 = true → (t.rf (R.ERR_STAT_STAT Page.powerBase)).testBit 0 = true) ∧
        (p.breaks 20 11 = true → (t.rf (R.ERR_STAT_STAT Page.powerBase)).testBit 1 = true) ∧
        t.pwr.brake459 = ((s.pwr.brake459 || broke) && decide (10 * s.limitE < meanOf p.samples 20)) ∧
        t.pwr.braking = ((s.pwr.pin && s.pwr.braking && decide (600 < x.w.toNat)) ||
          (t.pwr.brake459 && (s.pwr.braking || broke) && decide (10 * s.limitE < x.w.toNat)))) ∧
    (s.pins.standby = false → ∀ d on, exec (.analogTrip d on) s = .next s) ∧
    (s.pins.standby = true → ∀ (d : Fin 24) (on : Bool), ∃ t, exec (.analogTrip d on) s = .next t ∧ s.SameBut t [.regs, .pwr, .mg] ∧
      t.pwr = { s.pwr with analog := markDie s.pwr.analog d on } ∧ t.rf R.STD_TTRIP_CNT_COUNT =
        if t.tripPin = true ∧ s.tripPin = false then satAdd32 (s.rf R.STD_TTRIP_CNT_COUNT) 1 else s.rf R.STD_TTRIP_CNT_COUNT) ∧
    (s.pins.held = false →
      (∀ (d : Fin 24) (x : BitVec 8), dieTemp d x < (if d.val < 4 then 110 else 100) → exec (.thermalTrip d x) s = .next s) ∧
      (∀ (d : Fin 24) (x : BitVec 8), (if d.val < 4 then 100 else 90) < dieTemp d x → exec (.thermalTripEnd d x) s = .next s) ∧
      (∀ (d : Fin 24) (x : BitVec 8), (if d.val < 4 then 110 else 100) ≤ dieTemp d x →
        ∃ t, exec (.thermalTrip d x) s = .next t ∧ s.SameBut t [.regs, .pairs, .pwr, .mg] ∧
        t.pwr = { s.pwr with trips := sput s.pwr.trips d () } ∧ (t.pair (pairKey Page.powerBase 5)).cond = true ∧
        (s.fieldAwake d = true → d.val < 4 → t.rf (R.PWR_FLD_DUTY d) = 0) ∧
        ((s.pair (pairKey Page.powerBase 5)).cond = false → (t.rf (R.ERR_STAT_STAT Page.powerBase)).testBit 5 = true) ∧
        (s.stage = 5 → s.pins.standby = true → t.tripPin = true)) ∧
      (∀ (d : Fin 24) (x : BitVec 8), dieTemp d x ≤ (if d.val < 4 then 100 else 90) →
        ∃ t, exec (.thermalTripEnd d x) s = .next t ∧ t.pwr = { s.pwr with trips := sdel s.pwr.trips d } ∧
          ((∀ f : Fin 4, (s.eng f).waiting = []) → s.SameBut t [.regs, .pairs, .pwr, .mg] ∧
            (t.pair (pairKey Page.powerBase 5)).cond = !t.pwr.trips.isEmpty)) ∧
      ∀ (d : Fin 24) (x : BitVec 8) (lvl : Fin 33) (tin tout : BitVec 8) (temp : Int),
        temp = (if d.val < 4 then x.toInt else (x.toNat : Int)) →
        ∃ t, exec (.thermalControl d x lvl tin tout) s = .next t ∧ s.SameBut t [.regs, .pairs, .pwr] ∧
          (d.val < 4 → t.rf (R.PWR_FLD_TJ d) = x.toNat) ∧
          (4 ≤ d.val → t.rf (R.HBM_STAT_TEMP ((d.val - 4) / 5) ((d.val - 4) % 5)) = x.toNat) ∧
          t.rf R.PWR_COOL_TIN = tin.toNat ∧ t.rf R.PWR_COOL_TOUT = tout.toNat ∧
          (d.val < 4 → (102 ≤ temp → sget? t.pwr.thermal d = some (max 8 (min 32 lvl.val))) ∧
            (temp < 102 → t.pwr.thermal = sdel s.pwr.thermal d)) ∧
          (4 ≤ d.val → t.pwr.thermal = s.pwr.thermal) ∧
          t.pwr.above = markDie s.pwr.above d (decide ((if d.val < 4 then 105 else 95) ≤ temp)) ∧
          (t.pair (pairKey Page.powerBase 3)).cond = t.pwr.above.any (fun e => isFieldDie e.1) ∧
          (t.pair (pairKey Page.powerBase 4)).cond = t.pwr.above.any (fun e => !isFieldDie e.1))

/-- R154, R300, R443, R451, R452, R474, R475, R481: idle arrays, furrows and fields go to sleep: an array is gated, a furrow no longer awake, a
field's PLLs stop and its stacks refresh themselves. A request wakes a furrow of an awake field, and a field: its PLLs start,
and once they are locked its stacks train and it runs at level 8, and what waited goes on; a stack that fails to train fences it.
R300, R443: a field held in reset leaves it then: the contexts with a region there are in RESET, its fence is over and its command
done; where a PLL is lost it ends asleep and fenced (log 25). -/
def Obligations.SleepAndWake : Prop :=
  ∀ (f : Fin 4) (n : Fin 26) (j : Fin 4) (failing : List (Fin 5)) (rings : Rings) (s : State), s.Canon → Store.Sorted s.pwr.resets →
    ((∀ o ∈ (s.fur f n).mmas, o.mask.testBit j = false) → (∀ o ∈ (s.fur f n).vops, o.unit ≠ 4 + j.val) →
      ∃ t, exec (.arraySleep f n j) s = .next t ∧ { t with pwr := s.pwr } = s ∧
        t.pwr = { s.pwr with gated := sput s.pwr.gated (furKey f n * 4 + j) () }) ∧
    (s.flag R.PWR_SLEEP_AWAKE = false → s.awake f n = true → s.furrowIdle f n = true →
      ∃ t, exec (.furrowSleep f n) s = .next t ∧ { t with pwr := s.pwr } = s ∧
        t.pwr = { s.pwr with awake := sdel s.pwr.awake (furKey f n) } ∧ (Store.Sorted s.pwr.awake → t.awake f n = false)) ∧
    (s.flag R.PWR_SLEEP_AWAKE = true → exec (.furrowSleep f n) s = .next s ∧ exec (.fieldSleep f) s = .next s) ∧
    (s.flag R.PWR_SLEEP_AWAKE = false → s.fieldAwake f = true → s.fieldQuiet f = true →
      ∃ t, exec (.fieldSleep f) s = .next t ∧ s.SameBut t [.regs] ∧ t.rf (R.PWR_FLD_STATE f) = 0 ∧
        (t.pll (2 + f) = if s.pll (2 + f) = 3 then 3 else 0) ∧ (t.pll (6 + f) = if s.pll (6 + f) = 3 then 3 else 0) ∧
        ∀ m : Fin 5, t.rf (R.HBM_STAT_STATE f m) = 3) ∧
    (s.fieldAwake f = true → s.retired f n = false → s.flag (R.CLK_GATE_FURROW_OFF f n) = false → s.fieldOff f = false →
      ∃ t, exec (.furrowWake f n) s = .next t ∧ { t with pwr := s.pwr } = s ∧ t.awake f n = true ∧
        t.pwr = { s.pwr with awake := sput s.pwr.awake (furKey f n) () }) ∧
    (s.fieldAwake f = false → exec (.furrowWake f n) s = .next s) ∧
    (s.fieldOff f = false → s.stage = 5 →
      (s.rf (R.PWR_FLD_STATE f) = 0 → s.flag R.CLK_STAT_AO_REF = true → ∃ t, exec (.fieldWake f failing rings) s = .next t ∧
        s.SameBut t [.regs] ∧ t.rf (R.PWR_FLD_STATE f) = 1 ∧ (s.pll (2 + f) = 0 → t.pll (2 + f) = 1) ∧
        (s.pll (6 + f) = 0 → t.pll (6 + f) = 1) ∧ ∀ m : Fin 5, t.rf (R.HBM_STAT_STATE f m) = 1) ∧
      (s.rf (R.PWR_FLD_STATE f) = 1 → s.pll (2 + f) = 2 → s.pll (6 + f) = 2 → ∃ t, exec (.fieldWake f failing rings) s = .next t ∧
        t = (s.fieldUp f failing).admitAll ∧ ((∀ k : Fin 4, (s.eng k).waiting = []) →
        s.SameBut t [.regs, .fences, .pairs, .ports] ∧ t.fieldAwake f = true ∧ t.rf (R.PWR_FLD_LEVEL f) = 8 ∧
        (∀ m : Fin 5, t.rf (R.HBM_STAT_STATE f m) = if m ∈ failing then 1 else 2) ∧
        (failing = [] → t.fences = s.fences) ∧
        ∀ m ∈ failing, t.isFenced (.field f) = true ∧ (t.rf (R.ERR_STAT_STAT (Page.hbmBase f m))).testBit 3 = true)) ∧
      (s.heldInReset f = true →
        (s.pll (2 + f) = 2 → s.pll (6 + f) = 2 → ∃ v t, exec (.fieldWake f failing rings) s = .next t ∧
          v = s.endReset rings f true ∧ t = (v.fieldUp f failing).admitAll ∧ v.isFenced (.field f) = false ∧
          sget? v.pwr.resets f = none ∧ ∀ c : Fin 64, s.ownIn c f = true → v.cstate c = stReset) ∧
        (s.pll (2 + f) = 3 ∨ s.pll (6 + f) = 3 → ∃ t, exec (.fieldWake f failing rings) s = .next t ∧
          t = (s.wf (R.PWR_FLD_STATE f) 0).endReset rings f false ∧ t.rf (R.PWR_FLD_STATE f) = 0 ∧
          t.isFenced (.field f) = s.isFenced (.field f) ∧ ∀ c : Fin 64, s.ownIn c f = true → t.cstate c = stReset) ∧
        (s.pll (2 + f) < 2 → s.pll (6 + f) ≠ 3 → exec (.fieldWake f failing rings) s = .next s)))

/-! ### Faults, watchdogs, shadow sampling, the almanac and harrow runs (R381 to R439) -/

/-- R381 to R383, R388 to R404, R408 to R410: a tick of the collector advances the clock. With nothing raised it counts the quiet
period down to recovery; one new event is counted, logged and makes it active; one WIRE is counted and fences the domain of its
page. A quiet period may expire at once. `ERR_FORCE` and `FCOL_WTEST` inject. The windows of interference and slowdown end with
their ratios. A shadow comparison leaves the engine's slot as the one it repeats; one that differs is counted and blocks the step. What
the package's own codes and checks find raises its source, and a word that they cannot correct reads 0 and blocks its step. -/
def Obligations.FaultsAreCollected : Prop :=
  ∀ s : State, s.Canon →
    (∀ (faulty : List (Nat × Nat)) (l : List (Nat × Meas)) (finds : List ChipFind),
      s.pins.held = true → ∃ t, exec (.collectorTick faulty l finds) s = .next t ∧ { t with pwr := s.pwr } = s) ∧
    (∀ (faulty : List (Nat × Nat)) (l : List (Nat × Meas)) (finds : List ChipFind) (d : State) (shown : List Sampled),
      s.pins.held = false → d = finds.foldl State.chipFound s → shown = ((d.tickKeys faulty).map fun k =>
        (samplePair k (d.readPair k (faulty.contains (k / 32, k % 32))) (d.pair k)).1) →
      ∃ t, exec (.collectorTick faulty l finds) s = .next t ∧
        s.SameBut t [.now, .regs, .msgs, .msixPend, .fences, .pairs, .fcolLog, .ports, .flash, .staged, .heldBack, .mg, .pwr,
          .seedbed, .sheaf, .glean, .streams] ∧
        t.now = s.now + 1 ∧ t.pwr.eTicks = s.pwr.eTicks + 1 ∧
        (∀ x ∈ finds, match x with
          | .furrowStore f n => (t.rf (R.ERR_STAT_STAT (Page.furrowBase f n))).testBit 3 = true
          | .sheafStore f => (t.rf (R.ERR_STAT_STAT (Page.fieldBase f))).testBit 0 = true
          | .ringRetried f => (t.rf (R.ERR_STAT_STAT (Page.fieldBase f))).testBit 2 = true
          | .ringFailed f => t.isFenced (.field f) = true ∧ (t.pair (pairKey (Page.fieldBase f) 3)).cond = true
          | .steadingStore => (t.rf (R.ERR_STAT_STAT Page.steadingBase)).testBit 0 = true
          | .steadingLost => t.flag R.FCOL_STAT_DEVFATAL = true
          | .seedWord f n c w => s.seedBase f c ≤ 8 * w → 8 * w < s.seedBase f c + s.seedQuota f c →
            t.seedRead f n (8 * w) 8 = List.replicate 8 0 ∧ (t.rf (R.ERR_STAT_STAT (Page.furrowBase f n))).testBit 4 = true ∧
            (s.cstate c = stRunning → (t.rf (R.CMT_CSTAT_BLOCK c)).testBit 1 = true)
          | .sheafWord f c w => s.sheafBase f c ≤ 8 * w → 8 * w < s.sheafBase f c + s.sheafShare f c →
            t.sheafRead f (8 * w) 8 = List.replicate 8 0 ∧ (t.rf (R.ERR_STAT_STAT (Page.fieldBase f))).testBit 1 = true ∧
            (s.cstate c = stRunning → (t.rf (R.CMT_CSTAT_BLOCK c)).testBit 1 = true)
          | .gleanWord f n c w => 4096 * s.rf (R.FLD_GLQ_BASE c f) ≤ w →
            w < 4096 * s.rf (R.FLD_GLQ_BASE c f) + 4096 * s.rf (R.FLD_GLQ_SIZE c f) →
            t.gleanGet f n w = (0, 0) ∧ (t.rf (R.ERR_STAT_STAT (Page.furrowBase f n))).testBit 4 = true ∧
            (s.cstate c = stRunning → (t.rf (R.CMT_CSTAT_BLOCK c)).testBit 1 = true)
          | .bufferWord i w => ∀ b, (s.strm i.field i.furrow i.ctx i.strm).buf[w / 2]? = some (some b) →
            (∃ b', (t.strm i.field i.furrow i.ctx i.strm).buf[w / 2]? = some (some b') ∧ halfLost w b' = b') ∧
            (t.rf (R.ERR_STAT_STAT (Page.furrowBase i.field i.furrow))).testBit 4 = true ∧
            (s.cstate i.ctx = stRunning → (t.rf (R.CMT_CSTAT_BLOCK i.ctx)).testBit 1 = true)) ∧
        ((∀ x ∈ shown, x.fresh = false ∧ x.wire = false ∧ x.active = false) → t.fcolLog = s.fcolLog ∧ t.fences = d.fences ∧
          (∀ k ∈ d.pairs.map Prod.fst, k ≠ pairKey Page.collectorBase 0 → (t.pair k).hold = (d.pair k).hold - 1) ∧
          (d.flag R.FCOL_STAT_STATE = false → t.regs = d.regs ∧ t.msgs = d.msgs) ∧
          (d.flag R.FCOL_STAT_STATE = true → d.flag R.FCOL_STAT_DEVFATAL = false →
            if d.rf R.FCOL_QUIET_MS * msTicks ≤ d.rf R.FCOL_QTIME_TICKS + 1 then t.flag R.FCOL_STAT_STATE = false ∧
              t.rf R.FCOL_RECOVERIES_COUNT = satAdd32 (d.rf R.FCOL_RECOVERIES_COUNT) 1
            else t.flag R.FCOL_STAT_STATE = true ∧ t.rf R.FCOL_QTIME_TICKS = d.rf R.FCOL_QTIME_TICKS + 1)) ∧
        ∀ (x : Sampled) (page : Nat), shown.filter (fun y => y.fresh || y.wire) = [x] → page = x.key / 32 * 0x1000 →
          t.flag R.FCOL_STAT_STATE = true ∧ t.rf R.FCOL_QTIME_TICKS = 0 ∧
          t.rf R.FCOL_LOG_WR_SEQ = (s.rf R.FCOL_LOG_WR_SEQ + 1) % 2 ^ 16 ∧
          (∃ b, t.fcolLog = sput s.fcolLog (s.rf R.FCOL_LOG_WR_SEQ % 64) b ∧ b.length = 32 ∧
            leAt b 0 8 = (s.now + 1) % 2 ^ 64 ∧ leAt b 8 2 = page / 0x1000 % 2 ^ 16 ∧
            leAt b 10 1 = x.key % 32 + 32 * (if x.wire then (if x.test then 3 else 1) else if x.forced then 2 else 0)) ∧
          (x.wire = false → t.rf R.FCOL_EVENTS_COUNT = satAdd32 (s.rf R.FCOL_EVENTS_COUNT) 1 ∧
            (s.severe page (x.key % 32) = true → t.rf R.FCOL_STAT_SEVPEND = 1)) ∧
          (x.wire = true → t.rf R.FCOL_WIRE_CNT_COUNT = satAdd32 (s.rf R.FCOL_WIRE_CNT_COUNT) 1 ∧
            (x.test = true → t.fences = d.fences) ∧
            (x.test = false → match pageAt page with
              | some (.furrow f _) | some (.field f) | some (.hbm f _) | some (.colleng f) => t.isFenced (.field f) = true
              | some (.port p) => t.isFenced (.port p) = true
              | _ => t.flag R.FCOL_STAT_DEVFATAL = true))) ∧
    (s.flag R.FCOL_STAT_STATE = true → s.flag R.FCOL_STAT_DEVFATAL = false → s.quiet = true →
      ∃ t, exec .quietPeriodExpiry s = .next t ∧ s.SameBut t [.now, .regs, .msgs, .msixPend, .flash, .pwr] ∧
        t.flag R.FCOL_STAT_STATE = false ∧ t.rf R.FCOL_RECOVERIES_COUNT = satAdd32 (s.rf R.FCOL_RECOVERIES_COUNT) 1 ∧
        t.now = s.now + max 1 (s.rf R.FCOL_QUIET_MS * msTicks - s.rf R.FCOL_QTIME_TICKS)) ∧
    (∀ (u : Fin 64) (a : BitVec 27) (v : Word32) (base b : Nat), base = a.toNat / 0x1000 * 0x1000 →
      (pageAt base).any Page.hasCommon = true → s.MayWrite u (base + 0x18) → b < 32 →
        ∃ t, exec (.errorForce u a v) s = .next t ∧ s.SameBut t [.regs, .pairs] ∧
          (t.rf (R.ERR_STAT_STAT base)).testBit b =
            ((s.rf (R.ERR_STAT_STAT base)).testBit b || (v.getLsbD b && (srcAt base b).isSome)) ∧
          (v.getLsbD b = true → (srcAt base b).isSome = true → s.masked base b = false →
            (t.pair (pairKey base b)).hold = 2 ∧ t.rf (R.ERR_FIRST_VALID base) = 1) ∧
          (v.getLsbD b = false → t.pair (pairKey base b) = s.pair (pairKey base b))) ∧
    (∀ (u : Fin 64) (v : Word32) (page b : Nat), v.getLsbD 31 = true → s.MayWrite u A.FCOL_WTEST →
      page = wbits v 0 15 * 0x1000 → b = wbits v 15 5 → ∃ t, exec (.wireTest u v) s = .next t ∧ s.SameBut t [.regs, .pairs] ∧
        ((srcAt page b).isSome = true →
          t.pairs = sput s.pairs (pairKey page b) { s.pair (pairKey page b) with test := 3 }) ∧
        (srcAt page b = none → t.pairs = s.pairs)) ∧
    (∀ (c : Fin 64) (w : WinCounts), winCountsOk w = true → s.resident c = true →
      w.active + w.blocked ≤ 25000 * s.rf (R.CTX_IF_CTRL_WINDOW c) →
        ∃ t, exec (.interferenceWindowEnd c w) s = .next t ∧ { t with regs := s.regs } = s ∧
          t.rf (R.CTX_IF_SLOW_S c) = slowdown w.active w.blocked ∧ t.rf (R.CTX_IF_ACTIVE_TICKS c) = w.active ∧
          t.rf (R.CTX_IF_BLOCKED_TICKS c) = w.blocked ∧ t.rf (R.CTX_IF_BISSUE_TICKS c) = w.issue ∧
          t.rf (R.CTX_IF_BHBM_TICKS c) = w.hbm ∧ t.rf (R.CTX_IF_BRING_TICKS c) = w.ring ∧
          t.rf (R.CTX_IF_BPORT_TICKS c) = w.port ∧ t.rf (R.CTX_IF_SEQ_SEQ c) = (s.rf (R.CTX_IF_SEQ_SEQ c) + 1) % 2 ^ 32) ∧
    (∀ l : List (Nat × Nat), (∀ f k n, f < 4 → k < 24 → s.physical f k = some n → n < 26) →
      ∃ t, exec (.slowdownWindowEnd l) s = .next t ∧ { t with regs := s.regs } = s ∧
        (∀ (f : Fin 4) (n : Fin 26), t.rf (R.FUR_SLOW_S f n) =
          furSlow (l.getD (26 * f + n) (0, 0)).1 (l.getD (26 * f + n) (0, 0)).2) ∧
        (∀ f : Fin 4, t.rf (R.FLD_SLOW_FUR_S f) = max 0x10000 (maxOf ((List.range 24).filterMap fun k =>
            (s.physical f k).map fun n => t.rf (R.FUR_SLOW_S f n))) ∧
          t.rf (R.FLD_SLOW_PORT_S f) = max (s.portSlow (2 * f)) (s.portSlow (2 * f + 1))) ∧
        ∀ c : Fin 64, t.rf (R.CTX_SLOW_S c) = max 0x10000 (maxOf ((List.range 4).map fun f =>
          if s.inMask c f then max (t.rf (R.FLD_SLOW_FUR_S f)) (t.rf (R.FLD_SLOW_PORT_S f)) else 0))) ∧
    ∀ (f : Fin 4) (i : Nat) (m : Meas) (x : ShadowOp), (s.shadows.filter fun x => x.field == f.val)[i]? = some x →
      (∃ t, exec (.shadowCompare f i false m) s = .next t ∧ s.SameBut t [.furrows, .shadows] ∧
        t.shadows = s.shadows.erase x ∧ (x.opcode ≠ 0x28 → t.furrows = s.furrows) ∧
        ∀ b, x.opcode = 0x28 → b = s.rf (R.FLD_ACQ_BASE x.owner.ctx f) + x.slot → x.orig < 26 → x.engine < 26 →
          (t.fur f x.engine).slot b = { (s.fur f x.orig).slot b with shadow := none } ∧
          ∀ n : Fin 26, n.val ≠ x.engine → t.fur f n = s.fur f n) ∧
      (x.orig < 26 → x.engine < 26 → x.orig ≠ x.engine → x.owner.ctx < 64 → ∃ t, exec (.shadowCompare f i true m) s = .next t ∧
        s.SameBut t [.freeCtr, .regs, .furrows, .shadows, .pairs, .staged, .heldBack] ∧ t.shadows = s.shadows.erase x ∧
        t.rf (R.FLD_SHADOW_MIS_COUNT f) = satAdd32 (s.rf (R.FLD_SHADOW_MIS_COUNT f)) 1 ∧
        (∀ n, n = x.orig ∨ n = x.engine → t.rf (R.FUR_XCHK_CNT_COUNT f n) = satAdd32 (s.rf (R.FUR_XCHK_CNT_COUNT f n)) 1 ∧
          (t.rf (R.ERR_STAT_STAT (Page.furrowBase f n))).testBit 5 = true) ∧
        (s.cstate x.owner.ctx = stRunning → t.cstate x.owner.ctx = stBlocked ∧
          (t.rf (R.CMT_CSTAT_BLOCK x.owner.ctx)).testBit 2 = true))

/-- R432 to R439: a watchdog that expires raises its source, writes one entry of the hang log, begins the fence of its domain
(a port is fenced at once; its entry names the context of a stalled packet, log 30; a domain already fenced stays so) and blocks the step of the context. A drained fence is complete; one whose time has passed
abandons what is outstanding in its domain. -/
def Obligations.WatchdogsAndFences : Prop :=
  ∀ s : State, s.Canon →
    (∀ x : StreamId, (s.st (atOf x)).cur.isSome = true → (s.st (atOf x)).state ≠ .halted →
      ∃ t, exec (.streamWatchdog x) s = .next t ∧ s.SameBut t [.regs, .fences, .pairs, .hangLog] ∧
        t.fences = (if s.streamHeld x.field x.furrow x.ctx x.strm then s.fences
          else s.fences ++ [(.stream x.field x.furrow x.ctx x.strm, .draining)]) ∧
        (t.rf (R.ERR_STAT_STAT (Page.furrowBase x.field x.furrow))).testBit 2 = true ∧
        t.rf R.STD_HANG_WR_SEQ = (s.rf R.STD_HANG_WR_SEQ + 1) % 2 ^ 16 ∧
        (∃ b, t.hangLog = sput s.hangLog (s.rf R.STD_HANG_WR_SEQ % 16) b ∧ b.length = 32 ∧ leAt b 0 8 = s.now % 2 ^ 64 ∧
          leAt b 8 1 = 0 ∧ leAt b 9 1 = x.ctx ∧ leAt b 16 8 = (s.st (atOf x)).pc % 2 ^ 64) ∧
        (s.cstate x.ctx = stRunning → t.cstate x.ctx = stBlocked ∧ (t.rf (R.CMT_CSTAT_BLOCK x.ctx)).testBit 6 = true)) ∧
    (∀ q : Fin 8192, s.flag (R.QM_QCFG_EN q) = true → s.rf (R.QM_QWD_MS q) ≠ 0 →
      s.qState q ≠ qDisabled → s.queueHangs q = true →
      ∃ t, exec (.queueWatchdog q) s = .next t ∧ s.SameBut t [.regs, .fences, .pairs, .hangLog] ∧
        t.fences = (if s.isFenced (.queue q) then s.fences else s.fences ++ [(.queue q, .draining)]) ∧
        (s.isFenced (.queue q) = false → s.qState q ≠ qError → t.qState q = qFenced) ∧
        (t.rf (R.ERR_STAT_STAT Page.qmBase)).testBit 0 = true ∧
        (∃ b, t.hangLog = sput s.hangLog (s.rf R.STD_HANG_WR_SEQ % 16) b ∧ b.length = 32 ∧ leAt b 8 1 = 1 ∧
          leAt b 9 1 = s.qCtx q ∧ leAt b 12 2 = q)) ∧
    (∀ (f : Fin 4) (e : Fin 8) (x : Xfer), ((s.dmaOf f).active.find? fun y => y.1 == e.val) = some (e.val, x) →
      x.owner.ctx < 64 →
      ∃ t, exec (.dmaWatchdog f e) s = .next t ∧ s.SameBut t [.regs, .fences, .pairs, .hangLog] ∧
        t.fences = (if s.engineFenced f e then s.fences else s.fences ++ [(.dma f e, .draining)]) ∧
        (t.rf (R.ERR_STAT_STAT (Page.fieldBase f))).testBit 4 = true ∧
        (∃ b, t.hangLog = sput s.hangLog (s.rf R.STD_HANG_WR_SEQ % 16) b ∧ b.length = 32 ∧ leAt b 8 1 = 2 ∧
          leAt b 9 1 = x.owner.ctx ∧ leAt b 12 2 = x.owner.queue % 8192 ∧ leAt b 14 1 = e)) ∧
    (∀ (p : Fin 8) (who : Option (Fin 64)), s.pstate p = pActive → s.stalled p ≠ [] →
      ∃ t, exec (.portWatchdog p who) s = .next t ∧ s.SameBut t [.regs, .fences, .pairs, .hangLog, .ports] ∧
        t.fences = (if s.isFenced (.port p) then s.fences else s.fences ++ [(.port p, .fenced)]) ∧
        (s.isFenced (.port p) = false → t.pstate p = pFailed) ∧
        (t.rf (R.ERR_STAT_STAT (Page.portBase p))).testBit 2 = true ∧
        (∃ b w, t.hangLog = sput s.hangLog (s.rf R.STD_HANG_WR_SEQ % 16) b ∧ b.length = 32 ∧ w ∈ s.stalled p ∧
          (who.map Fin.val ∈ s.stalled p → w = who.map Fin.val) ∧ leAt b 8 1 = (if w = none then 7 else 3) ∧
          (∀ c, w = some c → leAt b 9 1 = c % 256) ∧ leAt b 14 1 = p)) ∧
    ∀ d : Dom,
      (s.fenceOf d ≠ some .draining → exec (.fenceDrained d) s = .next s ∧ exec (.fenceDrainTimeout d) s = .next s) ∧
      (s.fenceOf d = some .draining →
        (s.outstandingOf d = true → exec (.fenceDrained d) s = .next s) ∧
        (s.outstandingOf d = false → ∃ t, exec (.fenceDrained d) s = .next t ∧ { t with fences := s.fences } = s ∧
          t.fenceOf d = some .fenced ∧ ∀ e, e ≠ d → t.fenceOf e = s.fenceOf e) ∧
        ∃ t, exec (.fenceDrainTimeout d) s = .next t ∧ t.fenceOf d = some .fenced ∧ (∀ e, e ≠ d → t.fenceOf e = s.fenceOf e) ∧
          match d with
          | .stream f n c k => ∀ x ∈ (t.dmaOf f).waiting ++ (t.dmaOf f).handoff ++ (t.dmaOf f).active.map Prod.snd,
              x.is ⟨f, n, c, k⟩ = false
          | .queue q => ∀ x ∈ t.copies, x.queue ≠ q
          | .dma f e => ∀ x ∈ (t.dmaOf f).active, x.1 ≠ e
          | .port _ => t = s.enterFenced d
          | .field f => t.dmaOf f = {} ∧ (t.eng f).waiting = [] ∧ ((∀ o ∈ (s.eng f).ops, o.field = f) → ∀ o ∈ (t.eng f).ops, o.done = true) ∧ (∀ r ∈ t.seqRuns, r.field ≠ f) ∧ (∀ x ∈ t.copies, x.touches f = false) ∧
              ∀ (n : Fin 26) (c : Fin 64) (k : Fin 3), (t.strm f n c k).cur = none ∧ (t.strm f n c k).launches = []
          | .ctx c => (∀ r ∈ t.seqRuns, r.ctx ≠ c) ∧ ∀ f : Fin 4,
              (∀ x ∈ (t.dmaOf f).waiting ++ (t.dmaOf f).handoff ++ (t.dmaOf f).active.map Prod.snd, x.owner.ctx ≠ c) ∧
              ∀ (n : Fin 26) (k : Fin 3), c < 64 → (t.strm f n c k).cur = none ∧ (t.strm f n c k).launches = [])

/-- R411 to R422, R429, R430: the oldest staged entry is written to flash with its sequence number and CRC, or, where the write
fails, tried once more and then lost; entries are read and classified through registers. A harrow run starts where it
may, computes tile after tile on its furrows and compares what they give, counts and keeps the first that differ, and ends complete, stopped or in time-out. -/
def Obligations.AlmanacAndHarrowAct : Prop :=
  ∀ s : State, s.Canon →
    (∀ (e : AlmEntry) (rest : List AlmEntry) (i : Nat), s.staged = e :: rest →
      (i = 65536 * e.cls + s.flash.heads.getD e.cls 0 % almCapacity e.cls → ∃ t, exec (.almanacFlashWrite true) s = .next t ∧
        s.SameBut t [.flash, .staged] ∧ t.staged = rest ∧
        t.flash.heads = s.flash.heads.set e.cls ((s.flash.heads.getD e.cls 0 + 1) % 2 ^ 32) ∧
        (∃ b, t.flash.entries = sput s.flash.entries i b ∧ b.length = 64 ∧ crcFails b = false ∧
          leAt b 0 4 = s.flash.heads.getD e.cls 0 % 2 ^ 32 ∧ leAt b 16 2 = e.page % 2 ^ 16 ∧ leAt b 18 1 = e.bit % 256 ∧
          leAt b 19 1 = e.event % 256) ∧ t.flash.body = s.flash.body ∧ t.flash.qseq = s.flash.qseq ∧
        t.flash.hdrOther = s.flash.hdr ∧ t.flash.hdrSide = !s.flash.hdrSide) ∧
      ∃ t, exec (.almanacFlashWrite false) s = .next t ∧ s.SameBut t [.regs, .pairs, .staged] ∧
        (t.rf (R.ERR_STAT_STAT Page.almanacBase)).testBit 0 = true ∧
        (e.tried = false → t.staged = { e with tried := true } :: rest) ∧
        (e.tried = true → t.staged = rest ∧ t.rf R.ALM_LOST_COUNT = satAdd32 (s.rf R.ALM_LOST_COUNT) 1)) ∧
    (∀ (u : Fin 64) (v : Word32) (got : Option (List Byte)) (b : List Byte),
      (s.MayWrite u A.ALM_RSEL → b = s.almEntry (wbits v 0 3) (wbits v 8 16) got →
        ∃ t, exec (.almanacRead u v got) s = .next t ∧ s.SameBut t [.regs, .pairs, .mg] ∧ t.rf R.ALM_RSEL_READY = 1 ∧
          t.mg = { s.mg with readAt := some s.now } ∧
          (∀ j, j < 16 → (t.reg (A.ALM_RDATA j)).toNat = leAt b (4 * j) 4) ∧
          (crcFails b = true → (t.rf (R.ERR_STAT_STAT Page.almanacBase)).testBit 2 = true) ∧
          (crcFails b = false → t.pairs = s.pairs)) ∧
      (s.MayWrite u A.ALM_QSEL → ∃ t, exec (.almanacClassify u v) s = .next t ∧
        { t with regs := s.regs, mg := s.mg } = s ∧ t.mg = { s.mg with readAt := some s.now } ∧
        t.rf R.ALM_QSEL_READY = 1 ∧ t.reg A.ALM_QRES = s.classWord (wbits v 0 15) (wbits v 15 5))) ∧
    ∀ (u : Fin 64) (f : Fin 4) (v : Word32) (m : Meas),
      (s.MayWrite u (A.ALM_HRW_CTRL f) → v.getLsbD 0 = true → v.getLsbD 1 = false →
        ∃ t, exec (.harrowGo u f v m) s = .next t ∧ { t with regs := s.regs } = s ∧
          (s.harrowing f = false → t.rf (R.ALM_HRW_CTRL_FURA f) = (s.harrowFields f v).rf (R.ALM_HRW_CTRL_FURA f)) ∧
          ((s.harrowFields f v).harrowOk f = true → t.rf (R.ALM_HRW_STAT_STATE f) =
              (if s.rf (R.ALM_HRW_COND_TLO f) = 0 ∧ s.rf (R.ALM_HRW_COND_THI f) = 0 then 2 else 1) ∧
            t.reg (A.ALM_HRW_RUN f) = s.reg (A.ALM_HRW_RUN f) + 1 ∧ t.reg (A.ALM_HRW_DONE f) = 0 ∧ t.reg (A.ALM_HRW_MIS f) = 0 ∧
            t.reg (A.ALM_HRW_FIRST f) = 0 ∧ t.reg (A.ALM_HRW_FIRSTP f) = 0) ∧
          ((s.harrowFields f v).harrowOk f = false → t.rf (R.ALM_HRW_STAT_STATE f) = 5 ∧
            t.reg (A.ALM_HRW_RUN f) = s.reg (A.ALM_HRW_RUN f))) ∧
      (s.MayWrite u (A.ALM_HRW_CTRL f) → v.getLsbD 0 = false → v.getLsbD 1 = true →
        ∃ t, exec (.harrowStop u f v m) s = .next t ∧ s.SameBut t [.regs, .pairs, .staged, .heldBack] ∧
          (s.harrowing f = true → t.rf (R.ALM_HRW_STAT_STATE f) = 4 ∧
            (s.flag R.ALM_CTRL_EN = true → s.staged.length < 256 → t.staged.length = s.staged.length + 1)) ∧
          (s.harrowing f = false → t.staged = s.staged ∧ t.pairs = s.pairs)) ∧
      (s.harrowing f = true → s.rf (R.ALM_HRW_DONE_TILES f) = 0 → ∃ t, exec (.harrowTimeout f m) s = .next t ∧
        s.SameBut t [.regs, .pairs, .staged, .heldBack] ∧ t.rf (R.ALM_HRW_STAT_STATE f) = 6) ∧
      ∀ (differs eqA eqB : Bool) (a b r done attr : Nat) (hit : Nat → Bool) (ra rb rr : TileResult),
        s.harrowing f = true → (∀ n ∈ s.harrowFurrows f, s.awake f n = true) → a = s.rf (R.ALM_HRW_CTRL_FURA f) →
        b = s.rf (R.ALM_HRW_CTRL_FURB f) → r = s.rf (R.ALM_HRW_CTRL_FURR f) → done = s.rf (R.ALM_HRW_DONE_TILES f) →
        (hit = fun n => differs && (s.harrowAttr f eqA eqB == 31 || s.harrowAttr f eqA eqB == n)) →
        ra = (s.harrowRun f a done (hit a)).1 → rb = ((s.harrowRun f a done (hit a)).2.harrowRun f b done (hit b)).1 →
        rr = (((s.harrowRun f a done (hit a)).2.harrowRun f b done (hit b)).2.harrowRun f r done false).1 →
        attr = s.harrowAttr f (eqA && ra == rr) (eqB && rb == rr) →
        ∃ t, exec (.harrowTile f m differs eqA eqB) s = .next t ∧
          s.SameBut t [.freeCtr, .regs, .furrows, .pairs, .staged, .heldBack, .lastMma] ∧
          (s.inBand f m = .gt → t.furrows = s.furrows ∧ t.rf (R.ALM_HRW_STAT_STATE f) = 1) ∧
          (s.inBand f m = .lt → t.rf (R.ALM_HRW_STAT_STATE f) = 1 ∧ t.rf (R.ALM_HRW_DONE_TILES f) = done ∧ t.staged = s.staged) ∧
          (s.inBand f m = .eq → t.rf (R.ALM_HRW_DONE_TILES f) = (done + 1) % 2 ^ 32 ∧
            (t.rf (R.ALM_HRW_STAT_STATE f) = if done + 1 = s.rf (R.ALM_HRW_TILES_TILES f) then 3 else 2) ∧
            (differs = false → ra = rb → t.rf (R.ALM_HRW_MIS_TILES f) = s.rf (R.ALM_HRW_MIS_TILES f)) ∧
            (differs = true ∨ ra ≠ rb → t.rf (R.ALM_HRW_MIS_TILES f) = (s.rf (R.ALM_HRW_MIS_TILES f) + 1) % 2 ^ 32 ∧
              (s.flag (R.ALM_HRW_FIRSTP_VALID f) = false → t.rf (R.ALM_HRW_FIRST_TILE f) = done ∧
                t.rf (R.ALM_HRW_FIRSTP_A f) = s.rf (R.ALM_HRW_CTRL_FURA f) ∧
                t.rf (R.ALM_HRW_FIRSTP_B f) = s.rf (R.ALM_HRW_CTRL_FURB f) ∧ t.rf (R.ALM_HRW_FIRSTP_ATTR f) = attr ∧
                t.rf (R.ALM_HRW_FIRSTP_VALID f) = 1)))

/-! ### Out-of-band management (R508 to R519) -/

/-- R508 to R511, R513 to R517, R519: a message is counted and answered. A vendor request with an unknown command or nonzero
reserved bytes is answered INVALID and one before its stage NOT READY, without effect; a message that is too long is discarded and
counted. Otherwise status, forecast, fault log (log 42), almanac, classification and attestation are read, BUSY while another read
is in progress (log 55), and allotment, plan cap, grid offset and subscription set, as by registers. A signed object acts as one that
a packet brings. MCTP control and PLDM monitoring answer (log 43), and I3C assigns an address. -/
def Obligations.ManagementAnswers : Prop :=
  ∀ (b : Fin 2) (head : BitVec 32) (p : List Byte) (sigs : List Verified) (flashOk : Bool) (m : Meas)
    (got : Option (List Byte)) (busy : Bool) (s : State), s.Canon → 2 ≤ s.stage →
    (∀ (i : Instr) (cmd : Nat), (i, cmd) ∈ [(Instr.getStatus head p, 1), (.setAllot head p, 2), (.getForecast head p, 3),
        (.setPlanCap head p, 4), (.setAlign head p, 5), (.readFaultlog head p, 6), (.readAlmanac head p got busy, 7),
        (.classify head p busy, 8), (.attest head p, 9), (.signedObject head p sigs flashOk m, 10), (.subscribe b head p, 11)] →
      wbits head 0 8 = cmd ∨ wbits head 0 8 = 0 ∨ 11 < wbits head 0 8 →
      (131072 < 9 + p.length → ∃ t, exec i s = .next t ∧ { t with regs := s.regs } = s ∧
        t.rf R.STD_MG_RX_CNT_COUNT = satAdd32 (s.rf R.STD_MG_RX_CNT_COUNT) 1 ∧
        t.rf R.STD_MG_ERR_CNT_COUNT = satAdd32 (s.rf R.STD_MG_ERR_CNT_COUNT) 1) ∧
      (9 + p.length ≤ 131072 →
        (s.stage = 5 → head ≠ BitVec.ofNat 32 cmd → ∃ t, exec i s = .next t ∧ s.SameBut t [.regs, .mg] ∧
          t.mg = { s.mg with resp := vendorMsg (wbits head 0 8) 1 1 [] } ∧
          t.rf R.STD_MG_RX_CNT_COUNT = satAdd32 (s.rf R.STD_MG_RX_CNT_COUNT) 1 ∧
          t.rf R.STD_MG_ERR_CNT_COUNT = satAdd32 (s.rf R.STD_MG_ERR_CNT_COUNT) 1) ∧
        (s.stage < 5 → cmd ≠ 1 → ∃ t, exec i s = .next t ∧ s.SameBut t [.regs, .mg] ∧
          t.mg = { s.mg with resp := vendorMsg (wbits head 0 8) 1 3 [] }))) ∧
    (9 + p.length ≤ 131072 →
      (head = 1 → p = [] → s.stage ≤ 7 → ∃ t pl, exec (.getStatus head p) s = .next t ∧ s.SameBut t [.regs, .mg] ∧
        t.mg = { s.mg with resp := vendorMsg 1 1 0 pl } ∧
        t.mg.resp.take 5 = [0x7F, 0, 0, 0xA6, 0xE3] ∧ pl.length = 36 ∧ leAt pl 0 4 = s.flash.boots % 2 ^ 32 ∧
        leAt pl 4 4 = s.flash.pom % 2 ^ 32 ∧ leAt pl 8 1 = s.stage ∧
        (leAt pl 9 1).testBit 0 = s.flag R.FCOL_STAT_STATE ∧ (leAt pl 9 1).testBit 3 = s.flash.expelled ∧
        leAt pl 12 2 = s.limitE % 2 ^ 16 ∧ leAt pl 14 2 = s.rf R.PWR_IN_P_W) ∧
      (s.stage = 5 → ∀ d, d = s.dueBoundary →
        (head = 2 → p.length = 2 → ∃ t, exec (.setAllot head p) s = .next t ∧ s.SameBut t [.regs, .pwr, .mg] ∧
          if 60 ≤ leAt p 0 2 ∧ leAt p 0 2 ≤ 320 then t.mg.resp = vendorMsg 2 1 0 [] ∧
            t.allot = if s.pwr.lastAllot = some (s.now, false) then min s.allot (leAt p 0 2) else leAt p 0 2
          else t.pwr = s.pwr ∧ t.allot = s.allot ∧ t.mg.resp = vendorMsg 2 1 1 []) ∧
        (head = 3 → p = [] → ∃ t pl, exec (.getForecast head p) s = .next t ∧ s.SameBut t [.regs, .mg] ∧
          t.mg = { s.mg with resp := vendorMsg 3 1 0 pl } ∧ pl.length = 44 ∧ leAt pl 4 4 = s.rf R.PWR_FC_MIN_MIN ∧
          ∀ j, j < 8 → leAt pl (12 + 4 * j) 4 = (s.ceilWord j).toNat) ∧
        (head = 4 → p.length = 6 → leAt p 4 2 = 0 ∨ 60 ≤ leAt p 4 2 ∧ leAt p 4 2 ≤ 320 →
          ∀ j c, j = (leAt p 0 4 + 2 ^ 32 - d.rf R.PWR_FC_MIN_MIN) % 2 ^ 32 → c = (if leAt p 4 2 = 0 then 320 else leAt p 4 2) →
            ∃ t, exec (.setPlanCap head p) s = .next t ∧ s.SameBut t [.regs, .pwr, .mg] ∧
              if 8 ≤ j ∨ (j ≤ 1 ∧ d.pwr.ceils.getD j 320 < min s.allot c) then
                t.pwr = d.pwr ∧ t.mg.resp = vendorMsg 4 1 2 []
              else t.mg.resp = vendorMsg 4 1 0 [] ∧
                if s.pwr.lastCap = some (s.now, leAt p 0 4, false) ∧ (d.pwr.caps.getD j none).getD 320 ≤ c then t.pwr = d.pwr
                else t.pwr.ceils = d.pwr.ceils.set j (min s.allot c) ∧
                  t.pwr.caps = d.pwr.caps.set j (if leAt p 4 2 = 0 then none else some c)) ∧
        (head = 5 → p.length = 2 → leAt p 0 2 < 60000 → ∃ t, exec (.setAlign head p) s = .next t ∧
          s.SameBut t [.regs, .pwr, .mg] ∧ t.rf R.PWR_FC_ALIGN_MS = leAt p 0 2 ∧ t.pwr.edge = d.nextEdge (leAt p 0 2) ∧
          t.mg.resp = vendorMsg 5 1 0 []) ∧
        (∀ d wr, head = 6 → p.length = 2 → wr = s.rf R.FCOL_LOG_WR_SEQ → d = (wr + 65536 - leAt p 0 2) % 65536 → d ≤ 8 →
          d ≤ s.fcolLog.length → ∃ t, exec (.readFaultlog head p) s = .next t ∧ s.SameBut t [.regs, .mg] ∧
            t.mg = { s.mg with
              resp := vendorMsg 6 1 0 (leBytes 2 wr ++ leBytes 1 d ++ leBytes 1 0 ++
                (List.range d).flatMap fun i => fitBytes 32 (sgetD s.fcolLog ((leAt p 0 2 + i) % 64) [])) }) ∧
        (head = 7 → p.length = 4 → leAt p 0 1 < 8 → leAt p 1 1 = 0 → ∃ t, exec (.readAlmanac head p got busy) s = .next t ∧
          s.SameBut t [.regs, .pairs, .mg] ∧ t.mg =
            if busy = true ∧ s.readPending = true then { s.mg with resp := vendorMsg 7 1 5 [] }
            else { s.mg with readAt := some s.now, resp := vendorMsg 7 1 0 (s.almEntry (leAt p 0 1) (leAt p 2 2) got) }) ∧
        (head = 8 → p.length = 4 → leAt p 0 2 < 32768 → leAt p 2 1 < 32 → leAt p 3 1 = 0 →
          ∃ t, exec (.classify head p busy) s = .next t ∧ s.SameBut t [.regs, .mg] ∧ t.mg =
            if busy = true ∧ s.readPending = true then { s.mg with resp := vendorMsg 8 1 5 [] }
            else { s.mg with
              readAt := some s.now
              resp := vendorMsg 8 1 0 (leBytes 4 (s.classWord (leAt p 0 2) (leAt p 2 1)).toNat) }) ∧
        (head = 9 → p.length = 36 → zeroAt p 1 3 = true → ∃ t, exec (.attest head p) s = .next t ∧
          s.SameBut t [.freeCtr, .regs, .mg] ∧
          (leAt p 0 1 = 1 → t.mg.resp.length = 5020 ∧ (t.mg.resp.drop 17).take 32 = p.drop 4) ∧
          (leAt p 0 1 = 2 → t.mg.resp = vendorMsg 9 1 0 s.chainBytes) ∧
          (leAt p 0 1 ≠ 1 → leAt p 0 1 ≠ 2 → t.mg.resp = vendorMsg 9 1 0 [0xFF, 0xFF, 0xFF, 0xFF])) ∧
        (head = 10 → parseSigned p = none → ∃ t, exec (.signedObject head p sigs flashOk m) s = .next t ∧ s.SameBut t [.regs, .mg] ∧
          t.mg.resp = vendorMsg 10 1 1 []) ∧
        (∀ x, head = 10 → parseSigned p = some x → ∃ t, exec (.signedObject head p sigs flashOk m) s = .next t ∧
          s.SameBut t [.regs, .fences, .pairs, .ports, .flash, .staged, .heldBack, .mg] ∧
          (s.authOk x sigs false = false → t.flash = s.flash ∧ t.fences = s.fences ∧ t.mg.resp = vendorMsg 10 1 4 [] ∧
            t.rf R.MBL_QREFUSED_COUNT = satAdd32 (s.rf R.MBL_QREFUSED_COUNT) 1) ∧
          (s.authOk x sigs false = true → x.action = 1 → s.flash.expelled = false →
            t.flash = s.flash.putHdr { s.flash.hdr with expelled := true, qseq := x.seq } ∧ (∀ q, q < 8 → t.isFenced (.port q) = true) ∧
            t.mg.resp = vendorMsg 10 1 0 []) ∧
          (s.authOk x sigs false = true → x.action = 2 → s.flash.expelled = false → t.flash = s.flash ∧
            t.mg.resp = vendorMsg 10 1 2 [])) ∧
        (head = 11 → p.length = 2 → leAt p 1 1 < 8 → ∃ t, exec (.subscribe b head p) s = .next t ∧ s.SameBut t [.regs, .mg] ∧
          t.mg = { s.mg with resp := vendorMsg 11 1 0 [] } ∧
          t.subscriber b = (leAt p 0 1, if leAt p 0 1 = 0 then 0 else leAt p 1 1) ∧
          t.subscriber (1 - b.val) = s.subscriber (1 - b.val)))) ∧
    (∃ t, exec (.eventAnswer b) s = .next t ∧ s.SameBut t [.regs, .mg] ∧
      t.mg = { s.mg with open_ := s.mg.open_.set b (s.mg.open_.getD b 0 - 1) }) ∧
    (∀ r : MctpReq, ∃ t, exec (.mctpControl b r) s = .next t ∧ s.SameBut t [.freeCtr, .regs, .mg] ∧
      t.rf R.STD_MG_RX_CNT_COUNT = satAdd32 (s.rf R.STD_MG_RX_CNT_COUNT) 1 ∧
      match r with
      | .getEid => t.mg = { s.mg with resp := [0, BitVec.ofNat 8 (s.eid b)] } ∧ t.eid b = s.eid b
      | .setEid e =>
        if e = 0 ∨ e = 0xFF then t.eid b = s.eid b ∧ t.mg = { s.mg with resp := [2] } ∧
          t.rf R.STD_MG_ERR_CNT_COUNT = satAdd32 (s.rf R.STD_MG_ERR_CNT_COUNT) 1
        else t.eid b = e.toNat ∧ t.eid (1 - b.val) = s.eid (1 - b.val) ∧ t.mg = { s.mg with resp := [0, e] }
      | .getTypes => t.mg = { s.mg with resp := [0, 3, 0, 1, 0x7F] }
      | .getVersion => t.mg = { s.mg with resp := t.mg.resp } ∧ t.mg.resp.head? = some 0
      | .getVendor sel => t.mg = { s.mg with resp := t.mg.resp } ∧
        (sel = 0 → t.mg.resp.length = 9 ∧ t.mg.resp.take 7 = [0, 0xFF, 1, 0, 0, 0xA6, 0xE3]) ∧ (sel ≠ 0 → t.mg.resp = [2])) ∧
    (∀ (how : I3cAssign) (a : BitVec 7), ∃ t, exec (.dynamicAddressAssign how a) s = .next t ∧ { t with regs := s.regs } = s ∧
      t.rf R.STD_MG_EID_DADDR = match how with
        | .entdaa => a.toNat
        | .setdasa st => if st.toNat = 0x30 + s.rf R.STD_STRAP_SLOT_ID then a.toNat else s.rf R.STD_MG_EID_DADDR) ∧
    ∀ r : PldmReq, ∃ t, exec (.pldmMonitor r) s = .next t ∧ s.SameBut t [.freeCtr, .regs, .mg] ∧
      (s.stage ≠ 5 → t.mg = { s.mg with resp := [4] }) ∧
      (s.stage = 5 → { t.mg with resp := s.mg.resp, tid := s.mg.tid } = s.mg ∧
        (∀ tid, r = .setTid tid → t.mg.tid = tid.toNat ∧ t.mg.resp = [0]) ∧
        (r = .getTid → t.mg.resp = [0, BitVec.ofNat 8 s.mg.tid] ∧ t.mg.tid = s.mg.tid) ∧
        (r = .getSensor 3 → t.mg.resp = 0 :: leBytes 4 (s.rf R.PWR_IN_P_W)) ∧
        (r = .getSensor 11 → t.mg.resp = 0 :: leBytes 4 (10 * s.aStar)) ∧
        (r = .getSensor 12 → t.mg.resp = 0 :: leBytes 4 (10 * s.limitE)) ∧
        (∀ f : Fin 4, ∀ x, x = s.rf (R.PWR_FLD_TJ f) → r = .getSensor (BitVec.ofNat 16 (16 + f)) →
          t.mg.resp = 0 :: leBytes 4 (if x < 128 then x else 2 ^ 32 - 256 + x)) ∧
        (∀ ty, r = .getVersion ty → ty = 0 ∨ ty = 2 ∨ ty = 5 →
          t.mg.resp.length = 14 ∧ t.mg.resp.take 6 = [0, 0, 0, 0, 0, 5]) ∧
        (∀ ty l, r = .getCommands ty → (ty, l) ∈ [((0 : Byte), [1, 2, 3, 4, 5]), (2, [0x11, 0x21, 0x50, 0x51]),
            (5, [0x10, 0x14, 0x1A, 0x1D])] → t.mg.resp = 0 :: commandMask l) ∧
        (r = .getState 1 → t.mg.resp = [0, BitVec.ofNat 8 (s.rf R.FCOL_STAT_DEVFATAL)]) ∧
        (r = .getPdrInfo → t.mg.resp = 0 :: leBytes 4 41))

/-- R497, R509, R510, R512: an agent opens a PLDM firmware-update session for the one component, the device asks for the header and
then the body piece by piece, programs each part and reports the end; the image is checked as by registers. A piece that nothing asked
for, or that is too long, is discarded and counted. A session may be cancelled, and a complete one activated, which answers that a
device reset is due. -/
def Obligations.FirmwareIsUpdatedByPldm : Prop :=
  ∀ (b : Fin 2) (src : BitVec 8) (size : BitVec 32) (cls id : BitVec 16) (d : List Byte) (sigs : List Verified) (flashOk : Bool)
    (s : State) (h : List Byte) (k got : Nat) (tell : List Byte → Nat × Nat × List Byte), s.Canon → s.stage = 5 →
    tell = (fun x => (s.mg.agent, s.mg.agentEid, x)) →
    (∃ t, exec (.requestUpdate b src size) s = .next t ∧ s.SameBut t [.regs, .mg] ∧
      if s.mg.fw = .idle ∧ s.upOpen = false then
        t.mg = { s.mg with fw := .learn, agent := b, agentEid := src.toNat, piece := max 1 (min size.toNat 4096), resp := [0] }
      else t.mg = { s.mg with resp := [0x81] }) ∧
    (∃ t, exec (.updateComponent cls id) s = .next t ∧ s.SameBut t [.regs, .mg] ∧
      (s.mg.fw = .learn → cls = 0x000A ∧ id = 0x0001 → t.mg.fw = .header ∧ t.mg.buf = [] ∧ t.mg.asked = true ∧
        t.mg.resp = [0, 0, 0] ∧
        t.mg.sent = s.mg.sent ++ [tell ([5, 0x15] ++ leBytes 4 0 ++ leBytes 4 (min s.mg.piece headerSize))]) ∧
      (s.mg.fw = .learn → ¬ (cls = 0x000A ∧ id = 0x0001) → t.mg = { s.mg with resp := [0, 1, 6] }) ∧
      (s.mg.fw ≠ .learn → t.mg = { s.mg with resp := [0x84] })) ∧
    (∃ t, exec .cancelUpdate s = .next t ∧ s.SameBut t [.regs, .mg] ∧
      (s.mg.fw ≠ .idle → t.mg = { s.mg with fw := .idle, buf := [], asked := false, resp := [0] } ∧
        t.upState = if s.upOwner = 1 then upIdle else s.upState) ∧
      (s.mg.fw = .idle → t.mg = { s.mg with resp := [0x80] } ∧ t.upState = s.upState)) ∧
    (∃ t, exec .activateFirmware s = .next t ∧ s.SameBut t [.regs, .mg] ∧
      if s.mg.fw = .done ∧ s.upState = upDone ∧ s.upOwner = 1 then
        t.mg = { s.mg with fw := .idle, resetDue := true, resp := [0, 0, 0] }
      else t.mg = { s.mg with resp := [0x84] }) ∧
    (131072 < 5 + d.length → ∃ t, exec (.firmwareDataResponse d sigs flashOk) s = .next t ∧ { t with regs := s.regs } = s ∧
      t.rf R.STD_MG_ERR_CNT_COUNT = satAdd32 (s.rf R.STD_MG_ERR_CNT_COUNT) 1) ∧
    (5 + d.length ≤ 131072 → s.mg.asked = true → h = (s.mg.buf ++ d).take headerSize → got = s.rf R.SEC_UPD_RCVD_BYTES →
      ∃ t, exec (.firmwareDataResponse d sigs flashOk) s = .next t ∧ s.SameBut t [.regs, .pairs, .flash, .sec, .mg] ∧
        (s.mg.fw = .header → h.length < headerSize → t.mg.buf = h ∧ t.mg.asked = true ∧ t.flash = s.flash ∧
          t.mg.sent = s.mg.sent ++ [tell ([5, 0x15] ++ leBytes 4 h.length ++
            leBytes 4 (min s.mg.piece (headerSize - h.length)))]) ∧
        (s.mg.fw = .header → h.length = headerSize → s.upOpen = false ∨ s.upOwner = 1 →
          k = firstCause (s.headerChecks h (imgVerifies sigs h) ++ [(flashOk, 9)]) → t.upOwner = 1 ∧
          (k = 0 → t.upState = upReceiving ∧ t.mg.fw = .body ∧ t.mg.asked = true ∧ t.sec.upHeader = h ∧
            t.flash = { s.flash with header := none } ∧ t.rf R.SEC_UPD_RCVD_BYTES = 0) ∧
          (k ≠ 0 → t.upState = upError ∧ t.rf R.SEC_UPD_STAT_ERR = k ∧ t.mg.fw = .done ∧ t.mg.asked = false ∧
            t.flash = s.flash ∧ t.mg.sent = s.mg.sent ++
              [tell [5, 0x16, BitVec.ofNat 8 (0xB0 + k)], tell [5, 0x17, BitVec.ofNat 8 (0xB0 + k)],
                tell [5, 0x18, BitVec.ofNat 8 (0xB0 + k)]])) ∧
        (s.mg.fw = .body → s.upState = upReceiving → s.upOwner = 1 → d ≠ [] → 1 ≤ s.mg.piece → s.mg.piece ≤ 4096 →
          got + min s.mg.piece d.length ≤ imgBody s.sec.upHeader → imgBody s.sec.upHeader < 2 ^ 26 → t.upState = upBusy ∧
            t.rf R.SEC_UPD_RCVD_BYTES = got + min s.mg.piece d.length ∧ t.mg.asked = false ∧
            t.flash = { s.flash with body := s.flash.body.writeN hostUnit (bodyOffset got) (d.take s.mg.piece) })) ∧
    (s.mg.asked = false → ∃ t, exec (.firmwareDataResponse d sigs flashOk) s = .next t ∧ { t with regs := s.regs } = s ∧
      t.rf R.STD_MG_ERR_CNT_COUNT = satAdd32 (s.rf R.STD_MG_ERR_CNT_COUNT) 1) ∧
    (s.upState ≠ upBusy → exec (.flashProgramDone flashOk) s = .next s) ∧
    (s.upState = upBusy → got = s.rf R.SEC_UPD_RCVD_BYTES → h = s.sec.upHeader → ∃ t, exec (.flashProgramDone flashOk) s = .next t ∧
      s.SameBut t [.regs, .pairs, .flash, .mg] ∧
      (s.upOwner ≠ 1 ∨ s.mg.fw ≠ .body → t.upState = upReceiving ∧ t.mg = s.mg ∧ t.flash = s.flash) ∧
      (s.upOwner = 1 → s.mg.fw = .body →
        (got ≠ imgBody h → t.upState = upReceiving ∧ t.flash = s.flash ∧ t.mg.asked = true ∧ t.mg.sent = s.mg.sent ++
          [tell ([5, 0x15] ++ leBytes 4 (headerSize + got) ++ leBytes 4 (min s.mg.piece (imgBody h - got)))]) ∧
        (got = imgBody h → k = firstCause (s.bodyChecks h flashOk) → t.mg.fw = .done ∧ t.mg.asked = false ∧
          (k = 0 → t.upState = upDone ∧ t.flash = { s.flash with header := some (h.take 8184 ++ imgMarker) } ∧
            tell [5, 0x18, 0] ∈ t.mg.sent) ∧
          (k ≠ 0 → t.upState = upError ∧ t.rf R.SEC_UPD_STAT_ERR = k ∧ t.flash = s.flash))))
end

