-- ==== Sys2Proof/Laws/Addr.lean ====
section
/-! SUPPORT. The BAR0 offsets of the registers that stand alone, as numbers. -/

namespace Sys2Proof.Machine

theorem A.STD_STRAP_val : A.STD_STRAP = 256 := by
  unfold A.STD_STRAP Page.steadingBase
  omega

theorem A.STD_PINS_val : A.STD_PINS = 260 := by
  unfold A.STD_PINS Page.steadingBase
  omega

theorem A.STD_MODID_val : A.STD_MODID = 264 := by
  unfold A.STD_MODID Page.steadingBase
  omega

theorem A.STD_TTRIP_CNT_val : A.STD_TTRIP_CNT = 268 := by
  unfold A.STD_TTRIP_CNT Page.steadingBase
  omega

theorem A.HIF_LINK_val : A.HIF_LINK = 65792 := by
  unfold A.HIF_LINK Page.hostifBase
  omega

theorem A.HIF_ACC_CNT_val : A.HIF_ACC_CNT = 65808 := by
  unfold A.HIF_ACC_CNT Page.hostifBase
  omega

theorem A.HIF_ACC_INFO_val : A.HIF_ACC_INFO = 65812 := by
  unfold A.HIF_ACC_INFO Page.hostifBase
  omega

theorem A.HIF_ACC_ADDR_LO_val : A.HIF_ACC_ADDR_LO = 65816 := by
  unfold A.HIF_ACC_ADDR_LO Page.hostifBase
  omega

theorem A.HIF_ACC_ADDR_HI_val : A.HIF_ACC_ADDR_HI = 65820 := by
  unfold A.HIF_ACC_ADDR_HI Page.hostifBase
  omega

theorem A.QM_QSEL_val : A.QM_QSEL = 69888 := by
  unfold A.QM_QSEL Page.qmBase
  omega

theorem A.QM_QBIND_val : A.QM_QBIND = 69892 := by
  unfold A.QM_QBIND Page.qmBase
  omega

theorem A.QM_STAT_val : A.QM_STAT = 69896 := by
  unfold A.QM_STAT Page.qmBase
  omega

theorem A.QM_QERR_FIRST_val : A.QM_QERR_FIRST = 69900 := by
  unfold A.QM_QERR_FIRST Page.qmBase
  omega

theorem A.FCOL_CTRL_val : A.FCOL_CTRL = 131328 := by
  unfold A.FCOL_CTRL Page.collectorBase
  omega

theorem A.FCOL_QUIET_val : A.FCOL_QUIET = 131332 := by
  unfold A.FCOL_QUIET Page.collectorBase
  omega

theorem A.FCOL_STAT_val : A.FCOL_STAT = 131336 := by
  unfold A.FCOL_STAT Page.collectorBase
  omega

theorem A.FCOL_QTIME_val : A.FCOL_QTIME = 131340 := by
  unfold A.FCOL_QTIME Page.collectorBase
  omega

theorem A.FCOL_RECOVERIES_val : A.FCOL_RECOVERIES = 131344 := by
  unfold A.FCOL_RECOVERIES Page.collectorBase
  omega

theorem A.FCOL_ENTRIES_val : A.FCOL_ENTRIES = 131348 := by
  unfold A.FCOL_ENTRIES Page.collectorBase
  omega

theorem A.FCOL_EVENTS_val : A.FCOL_EVENTS = 131352 := by
  unfold A.FCOL_EVENTS Page.collectorBase
  omega

theorem A.FCOL_EVT_val : A.FCOL_EVT = 131356 := by
  unfold A.FCOL_EVT Page.collectorBase
  omega

theorem A.FCOL_EVTEN_val : A.FCOL_EVTEN = 131360 := by
  unfold A.FCOL_EVTEN Page.collectorBase
  omega

theorem A.FCOL_LOG_WR_val : A.FCOL_LOG_WR = 131364 := by
  unfold A.FCOL_LOG_WR Page.collectorBase
  omega

theorem A.FCOL_LOG_RD_val : A.FCOL_LOG_RD = 131368 := by
  unfold A.FCOL_LOG_RD Page.collectorBase
  omega

theorem A.FCOL_LOG_LOST_val : A.FCOL_LOG_LOST = 131372 := by
  unfold A.FCOL_LOG_LOST Page.collectorBase
  omega

theorem A.FCOL_WIRE_INFO_val : A.FCOL_WIRE_INFO = 131376 := by
  unfold A.FCOL_WIRE_INFO Page.collectorBase
  omega

theorem A.FCOL_WIRE_CNT_val : A.FCOL_WIRE_CNT = 131380 := by
  unfold A.FCOL_WIRE_CNT Page.collectorBase
  omega

theorem A.FCOL_WTEST_val : A.FCOL_WTEST = 131392 := by
  unfold A.FCOL_WTEST Page.collectorBase
  omega

theorem A.ALM_CTRL_val : A.ALM_CTRL = 196864 := by
  unfold A.ALM_CTRL Page.almanacBase
  omega

theorem A.ALM_STAT_val : A.ALM_STAT = 196868 := by
  unfold A.ALM_STAT Page.almanacBase
  omega

theorem A.ALM_LOST_val : A.ALM_LOST = 196872 := by
  unfold A.ALM_LOST Page.almanacBase
  omega

theorem A.ALM_POM_val : A.ALM_POM = 196876 := by
  unfold A.ALM_POM Page.almanacBase
  omega

theorem A.ALM_RSEL_val : A.ALM_RSEL = 196928 := by
  unfold A.ALM_RSEL Page.almanacBase
  omega

theorem A.ALM_QSEL_val : A.ALM_QSEL = 196932 := by
  unfold A.ALM_QSEL Page.almanacBase
  omega

theorem A.ALM_QRES_val : A.ALM_QRES = 196936 := by
  unfold A.ALM_QRES Page.almanacBase
  omega

theorem A.STD_WD_CTRL_val : A.STD_WD_CTRL = 262400 := by
  unfold A.STD_WD_CTRL Page.hangBase
  omega

theorem A.STD_FENCE_val : A.STD_FENCE = 262404 := by
  unfold A.STD_FENCE Page.hangBase
  omega

theorem A.STD_DMA_FENCE_val : A.STD_DMA_FENCE = 262408 := by
  unfold A.STD_DMA_FENCE Page.hangBase
  omega

theorem A.STD_HANG_WR_val : A.STD_HANG_WR = 262412 := by
  unfold A.STD_HANG_WR Page.hangBase
  omega

theorem A.STD_HANG_RD_val : A.STD_HANG_RD = 262416 := by
  unfold A.STD_HANG_RD Page.hangBase
  omega

theorem A.STD_HANG_LOST_val : A.STD_HANG_LOST = 262420 := by
  unfold A.STD_HANG_LOST Page.hangBase
  omega

theorem A.PWR_ALLOT_val : A.PWR_ALLOT = 327936 := by
  unfold A.PWR_ALLOT Page.powerBase
  omega

theorem A.PWR_LIMIT_val : A.PWR_LIMIT = 327940 := by
  unfold A.PWR_LIMIT Page.powerBase
  omega

theorem A.PWR_STAT_val : A.PWR_STAT = 327944 := by
  unfold A.PWR_STAT Page.powerBase
  omega

theorem A.PWR_SLEEP_val : A.PWR_SLEEP = 327948 := by
  unfold A.PWR_SLEEP Page.powerBase
  omega

theorem A.PWR_IN_V_val : A.PWR_IN_V = 327952 := by
  unfold A.PWR_IN_V Page.powerBase
  omega

theorem A.PWR_IN_I_val : A.PWR_IN_I = 327956 := by
  unfold A.PWR_IN_I Page.powerBase
  omega

theorem A.PWR_IN_P_val : A.PWR_IN_P = 327960 := by
  unfold A.PWR_IN_P Page.powerBase
  omega

theorem A.PWR_AVG20_val : A.PWR_AVG20 = 327964 := by
  unfold A.PWR_AVG20 Page.powerBase
  omega

theorem A.PWR_AVG1S_val : A.PWR_AVG1S = 327968 := by
  unfold A.PWR_AVG1S Page.powerBase
  omega

theorem A.PWR_ENERGY_LO_val : A.PWR_ENERGY_LO = 327972 := by
  unfold A.PWR_ENERGY_LO Page.powerBase
  omega

theorem A.PWR_ENERGY_HI_val : A.PWR_ENERGY_HI = 327976 := by
  unfold A.PWR_ENERGY_HI Page.powerBase
  omega

theorem A.PWR_THR_MS_val : A.PWR_THR_MS = 327980 := by
  unfold A.PWR_THR_MS Page.powerBase
  omega

theorem A.PWR_BRAKE_CNT_val : A.PWR_BRAKE_CNT = 327984 := by
  unfold A.PWR_BRAKE_CNT Page.powerBase
  omega

theorem A.PWR_COOL_val : A.PWR_COOL = 328036 := by
  unfold A.PWR_COOL Page.powerBase
  omega

theorem A.PWR_FC_ALIGN_val : A.PWR_FC_ALIGN = 328064 := by
  unfold A.PWR_FC_ALIGN Page.powerBase
  omega

theorem A.PWR_FC_MIN_val : A.PWR_FC_MIN = 328068 := by
  unfold A.PWR_FC_MIN Page.powerBase
  omega

theorem A.PWR_FC_LEFT_val : A.PWR_FC_LEFT = 328072 := by
  unfold A.PWR_FC_LEFT Page.powerBase
  omega

theorem A.PWR_PLAN_MIN_val : A.PWR_PLAN_MIN = 328076 := by
  unfold A.PWR_PLAN_MIN Page.powerBase
  omega

theorem A.PWR_PLAN_CAP_val : A.PWR_PLAN_CAP = 328080 := by
  unfold A.PWR_PLAN_CAP Page.powerBase
  omega

theorem A.CLK_STAT_val : A.CLK_STAT = 360704 := by
  unfold A.CLK_STAT Page.clockBase
  omega

theorem A.CLK_MON_val : A.CLK_MON = 360708 := by
  unfold A.CLK_MON Page.clockBase
  omega

theorem A.CLK_MON_BAD_val : A.CLK_MON_BAD = 360712 := by
  unfold A.CLK_MON_BAD Page.clockBase
  omega

theorem A.CLK_OUT_val : A.CLK_OUT = 360720 := by
  unfold A.CLK_OUT Page.clockBase
  omega

theorem A.CLK_GATE_CLOCK_val : A.CLK_GATE_CLOCK = 360488 := by
  unfold A.CLK_GATE_CLOCK Page.clockBase
  omega

theorem A.SEC_BOOT_val : A.SEC_BOOT = 377088 := by
  unfold A.SEC_BOOT Page.securityBase
  omega

theorem A.SEC_SVN_val : A.SEC_SVN = 377092 := by
  unfold A.SEC_SVN Page.securityBase
  omega

theorem A.SEC_CTRL_val : A.SEC_CTRL = 377096 := by
  unfold A.SEC_CTRL Page.securityBase
  omega

theorem A.SEC_STAT_val : A.SEC_STAT = 377100 := by
  unfold A.SEC_STAT Page.securityBase
  omega

theorem A.SEC_FWVER_LO_val : A.SEC_FWVER_LO = 377104 := by
  unfold A.SEC_FWVER_LO Page.securityBase
  omega

theorem A.SEC_FWVER_HI_val : A.SEC_FWVER_HI = 377108 := by
  unfold A.SEC_FWVER_HI Page.securityBase
  omega

theorem A.SEC_UPD_CTRL_val : A.SEC_UPD_CTRL = 377120 := by
  unfold A.SEC_UPD_CTRL Page.securityBase
  omega

theorem A.SEC_UPD_OFF_val : A.SEC_UPD_OFF = 377124 := by
  unfold A.SEC_UPD_OFF Page.securityBase
  omega

theorem A.SEC_UPD_LEN_val : A.SEC_UPD_LEN = 377128 := by
  unfold A.SEC_UPD_LEN Page.securityBase
  omega

theorem A.SEC_UPD_STAT_val : A.SEC_UPD_STAT = 377132 := by
  unfold A.SEC_UPD_STAT Page.securityBase
  omega

theorem A.SEC_UPD_RCVD_val : A.SEC_UPD_RCVD = 377136 := by
  unfold A.SEC_UPD_RCVD Page.securityBase
  omega

theorem A.SEC_KSEL_val : A.SEC_KSEL = 377152 := by
  unfold A.SEC_KSEL Page.securityBase
  omega

theorem A.SEC_KCMD_val : A.SEC_KCMD = 377156 := by
  unfold A.SEC_KCMD Page.securityBase
  omega

theorem A.SEC_KLOADED_LO_val : A.SEC_KLOADED_LO = 377160 := by
  unfold A.SEC_KLOADED_LO Page.securityBase
  omega

theorem A.SEC_KLOADED_HI_val : A.SEC_KLOADED_HI = 377164 := by
  unfold A.SEC_KLOADED_HI Page.securityBase
  omega

theorem A.SEC_KSTAT_val : A.SEC_KSTAT = 377168 := by
  unfold A.SEC_KSTAT Page.securityBase
  omega

theorem A.SEC_DBG_CTRL_val : A.SEC_DBG_CTRL = 377280 := by
  unfold A.SEC_DBG_CTRL Page.securityBase
  omega

theorem A.SEC_DBG_STAT_val : A.SEC_DBG_STAT = 377284 := by
  unfold A.SEC_DBG_STAT Page.securityBase
  omega

theorem A.SEC_QUORUM_val : A.SEC_QUORUM = 377344 := by
  unfold A.SEC_QUORUM Page.securityBase
  omega

theorem A.STD_MG_EID_val : A.STD_MG_EID = 385280 := by
  unfold A.STD_MG_EID Page.mgmtBase
  omega

theorem A.STD_MG_BOOTS_val : A.STD_MG_BOOTS = 385284 := by
  unfold A.STD_MG_BOOTS Page.mgmtBase
  omega

theorem A.STD_MG_SUB_val : A.STD_MG_SUB = 385288 := by
  unfold A.STD_MG_SUB Page.mgmtBase
  omega

theorem A.STD_MG_RX_CNT_val : A.STD_MG_RX_CNT = 385292 := by
  unfold A.STD_MG_RX_CNT Page.mgmtBase
  omega

theorem A.STD_MG_ERR_CNT_val : A.STD_MG_ERR_CNT = 385296 := by
  unfold A.STD_MG_ERR_CNT Page.mgmtBase
  omega

theorem A.STD_MG_EVDROP_val : A.STD_MG_EVDROP = 385300 := by
  unfold A.STD_MG_EVDROP Page.mgmtBase
  omega

theorem A.MBL_DEVID_val : A.MBL_DEVID = 393472 := by
  unfold A.MBL_DEVID Page.fabricBase
  omega

theorem A.MBL_LIFE_val : A.MBL_LIFE = 393476 := by
  unfold A.MBL_LIFE Page.fabricBase
  omega

theorem A.MBL_ARB_val : A.MBL_ARB = 393480 := by
  unfold A.MBL_ARB Page.fabricBase
  omega

theorem A.MBL_FAB_STAT_val : A.MBL_FAB_STAT = 393484 := by
  unfold A.MBL_FAB_STAT Page.fabricBase
  omega

theorem A.MBL_LDROP_CNT_val : A.MBL_LDROP_CNT = 393488 := by
  unfold A.MBL_LDROP_CNT Page.fabricBase
  omega

theorem A.MBL_LDROP_INFO_val : A.MBL_LDROP_INFO = 393492 := by
  unfold A.MBL_LDROP_INFO Page.fabricBase
  omega

theorem A.MBL_LDROP_DST_val : A.MBL_LDROP_DST = 393496 := by
  unfold A.MBL_LDROP_DST Page.fabricBase
  omega

theorem A.MBL_MEMBER_val : A.MBL_MEMBER = 393504 := by
  unfold A.MBL_MEMBER Page.fabricBase
  omega

theorem A.MBL_QSEQ_LO_val : A.MBL_QSEQ_LO = 393508 := by
  unfold A.MBL_QSEQ_LO Page.fabricBase
  omega

theorem A.MBL_QSEQ_HI_val : A.MBL_QSEQ_HI = 393512 := by
  unfold A.MBL_QSEQ_HI Page.fabricBase
  omega

theorem A.MBL_QREFUSED_val : A.MBL_QREFUSED = 393516 := by
  unfold A.MBL_QREFUSED Page.fabricBase
  omega

theorem A.CMT_RSEL_val : A.CMT_RSEL = 459008 := by
  unfold A.CMT_RSEL Page.commitBase
  omega

theorem A.CMT_RCTL_val : A.CMT_RCTL = 459012 := by
  unfold A.CMT_RCTL Page.commitBase
  omega

theorem A.CMT_RCOPY0_val : A.CMT_RCOPY0 = 459016 := by
  unfold A.CMT_RCOPY0 Page.commitBase
  omega

theorem A.CMT_RCOPY1_val : A.CMT_RCOPY1 = 459020 := by
  unfold A.CMT_RCOPY1 Page.commitBase
  omega

theorem A.CMT_RLEN_val : A.CMT_RLEN = 459024 := by
  unfold A.CMT_RLEN Page.commitBase
  omega

theorem A.CMT_RPART_val : A.CMT_RPART = 459028 := by
  unfold A.CMT_RPART Page.commitBase
  omega

theorem A.CMT_RPREG_val : A.CMT_RPREG = 459032 := by
  unfold A.CMT_RPREG Page.commitBase
  omega

theorem A.CMT_RMSTEP_val : A.CMT_RMSTEP = 459036 := by
  unfold A.CMT_RMSTEP Page.commitBase
  omega

theorem A.CMT_RMSTAT_val : A.CMT_RMSTAT = 459040 := by
  unfold A.CMT_RMSTAT Page.commitBase
  omega

theorem A.CMT_STAT_val : A.CMT_STAT = 459044 := by
  unfold A.CMT_STAT Page.commitBase
  omega

theorem A.CMT_TOK_DROP_val : A.CMT_TOK_DROP = 459056 := by
  unfold A.CMT_TOK_DROP Page.commitBase
  omega

theorem A.CMT_TOK_INFO_val : A.CMT_TOK_INFO = 459060 := by
  unfold A.CMT_TOK_INFO Page.commitBase
  omega

theorem A.CMT_TOK_SRC_val : A.CMT_TOK_SRC = 459064 := by
  unfold A.CMT_TOK_SRC Page.commitBase
  omega

theorem A.CMT_TOK_STEP_val : A.CMT_TOK_STEP = 459068 := by
  unfold A.CMT_TOK_STEP Page.commitBase
  omega

end Sys2Proof.Machine
end

