-- ==== Sys2Proof/Laws/Store.lean ====
section
/-! SUPPORT. Laws of sparse tables: what a key reads after an update, and that every update keeps the keys rising. -/

namespace Sys2Proof.Machine

variable {α : Type}

/-- A key below every key of a table is not listed. -/
theorem sget_below {t : Store α} {k : Nat} (h : ∀ e ∈ t, k < e.1) : sget? t k = none := by
  induction t with
  | nil => rfl
  | cons e t ih =>
    have h1 := h e (List.mem_cons_self)
    have h2 := ih fun x hx => h x (List.mem_cons_of_mem _ hx)
    simp [sget?, h2]; omega

@[simp] theorem sget_sput_self (t : Store α) (k : Nat) (a : α) : sget? (sput t k a) k = some a := by
  induction t with
  | nil => simp [sput, sget?]
  | cons e t ih =>
    obtain ⟨j, b⟩ := e
    simp only [sput]
    split
    · simp [sget?]
    · split
      · simp [sget?]
      · rename_i h1 h2
        have : j ≠ k := fun h => h2 h.symm
        simp [sget?, this, ih]

theorem sget_sput_ne (t : Store α) {k j : Nat} (a : α) (h : j ≠ k) : sget? (sput t k a) j = sget? t j := by
  induction t with
  | nil => simp [sput, sget?, Ne.symm h]
  | cons e t ih =>
    obtain ⟨i, b⟩ := e
    simp only [sput]
    split
    · simp [sget?, Ne.symm h]
    · split
      · rename_i h1 h2
        subst h2
        simp [sget?, Ne.symm h]
      · simp only [sget?]
        split
        · rfl
        · exact ih

theorem sget_sdel_ne (t : Store α) {k j : Nat} (h : j ≠ k) : sget? (sdel t k) j = sget? t j := by
  induction t with
  | nil => rfl
  | cons e t ih =>
    obtain ⟨i, b⟩ := e
    simp only [sdel]
    split
    · rename_i h1
      subst h1
      simp [sget?, Ne.symm h]
    · simp only [sget?]
      split
      · rfl
      · exact ih

theorem sget_sdel_self {t : Store α} (hs : Store.Sorted t) (k : Nat) : sget? (sdel t k) k = none := by
  induction t with
  | nil => rfl
  | cons e t ih =>
    obtain ⟨i, b⟩ := e
    have hp := List.pairwise_cons.mp hs
    simp only [sdel]
    split
    · rename_i h1
      subst h1
      exact sget_below fun x hx => hp.1 x hx
    · rename_i h1
      simp [sget?, h1, ih hp.2]

/-- Every key of a table after an insertion is the new key or an old one. -/
theorem mem_sput {t : Store α} {k : Nat} {a : α} {e : Nat × α} (h : e ∈ sput t k a) : e = (k, a) ∨ e ∈ t := by
  induction t with
  | nil => simp [sput] at h; exact .inl h
  | cons x t ih =>
    obtain ⟨i, b⟩ := x
    simp only [sput] at h
    split at h
    · rcases List.mem_cons.mp h with h | h
      · exact .inl h
      · exact .inr h
    · split at h
      · rcases List.mem_cons.mp h with h | h
        · exact .inl h
        · exact .inr (List.mem_cons_of_mem _ h)
      · rcases List.mem_cons.mp h with h | h
        · exact .inr (h ▸ List.mem_cons_self)
        · exact (ih h).imp id (List.mem_cons_of_mem _)

theorem mem_sdel {t : Store α} {k : Nat} {e : Nat × α} (h : e ∈ sdel t k) : e ∈ t := by
  induction t with
  | nil => exact h
  | cons x t ih =>
    obtain ⟨i, b⟩ := x
    simp only [sdel] at h
    split at h
    · exact List.mem_cons_of_mem _ h
    · rcases List.mem_cons.mp h with h | h
      · exact h ▸ List.mem_cons_self
      · exact List.mem_cons_of_mem _ (ih h)

theorem sorted_sput {t : Store α} (hs : Store.Sorted t) (k : Nat) (a : α) : Store.Sorted (sput t k a) := by
  induction t with
  | nil => simp [sput]
  | cons x t ih =>
    obtain ⟨i, b⟩ := x
    have hp := List.pairwise_cons.mp hs
    simp only [sput]
    split
    · rename_i h
      refine List.pairwise_cons.mpr ⟨fun e he => ?_, hs⟩
      rcases List.mem_cons.mp he with he | he
      · rw [he]; exact h
      · exact Nat.lt_trans h (hp.1 e he)
    · split
      · rename_i h1 h2
        exact List.pairwise_cons.mpr ⟨fun e he => h2 ▸ hp.1 e he, hp.2⟩
      · rename_i h1 h2
        refine List.pairwise_cons.mpr ⟨fun e he => ?_, ih hp.2⟩
        rcases mem_sput he with he | he
        · rw [he]; show i < k; omega
        · exact hp.1 e he

theorem sorted_sdel {t : Store α} (hs : Store.Sorted t) (k : Nat) : Store.Sorted (sdel t k) := by
  induction t with
  | nil => exact hs
  | cons x t ih =>
    obtain ⟨i, b⟩ := x
    have hp := List.pairwise_cons.mp hs
    simp only [sdel]
    split
    · exact hp.2
    · exact List.pairwise_cons.mpr ⟨fun e he => hp.1 e (mem_sdel he), ih hp.2⟩

theorem sorted_sputD [DecidableEq α] {t : Store α} (hs : Store.Sorted t) (k : Nat) (a d : α) :
    Store.Sorted (sputD t k a d) := by
  unfold sputD
  split
  · exact sorted_sdel hs k
  · exact sorted_sput hs k a

theorem sorted_sclear {t : Store α} (hs : Store.Sorted t) (lo hi : Nat) : Store.Sorted (sclear t lo hi) :=
  hs.filter _

theorem sorted_markUnits {i : Nat} : ∀ (n lo : Nat) {b : Store Nat}, Store.Sorted b → Store.Sorted (markUnits i n lo b)
  | 0, _, _, h => h
  | n + 1, lo, _, h => sorted_markUnits n (lo + 1) (sorted_sput h lo i)

/-- What a key of a sparse table with a default reads after an update. -/
theorem sgetD_sputD_self [DecidableEq α] {t : Store α} (hs : Store.Sorted t) (k : Nat) (a d : α) :
    sgetD (sputD t k a d) k d = a := by
  unfold sputD sgetD
  split
  · rename_i h
    simp [sget_sdel_self hs, h]
  · simp

theorem sgetD_sputD_ne [DecidableEq α] (t : Store α) {k j : Nat} (a d : α) (h : j ≠ k) :
    sgetD (sputD t k a d) j d = sgetD t j d := by
  unfold sputD sgetD
  split
  · rw [sget_sdel_ne t h]
  · rw [sget_sput_ne t a h]

/-- A key outside a cleared range reads as before. -/
theorem sget_sclear_out (t : Store α) {lo hi k : Nat} (h : k < lo ∨ hi ≤ k) : sget? (sclear t lo hi) k = sget? t k := by
  induction t with
  | nil => rfl
  | cons e t ih =>
    obtain ⟨i, b⟩ := e
    simp only [sclear, List.filter_cons] at ih ⊢
    by_cases hi' : i = k
    · subst hi'
      have : (decide (i < lo) || decide (hi ≤ i)) = true := by simpa using h
      simp [this, sget?]
    · split
      · simp [sget?, hi', ih]
      · simp [sget?, hi', ih]

/-- A key inside a cleared range is not listed. -/
theorem sget_sclear_in (t : Store α) {lo hi k : Nat} (h1 : lo ≤ k) (h2 : k < hi) : sget? (sclear t lo hi) k = none := by
  induction t with
  | nil => rfl
  | cons e t ih =>
    obtain ⟨i, b⟩ := e
    simp only [sclear, List.filter_cons] at ih ⊢
    split
    · rename_i h
      have hne : i ≠ k := by
        intro he
        subst he
        simp at h
        omega
      simp [sget?, hne, ih]
    · exact ih

end Sys2Proof.Machine
end

