-- ==== Sys2Proof/Laws/Registers.lean ====
section
/-! SUPPORT. Laws of the register file: what a register and a field read after a write (R12, R15, R18), and what the shared
operations on error words leave alone (R388, R391). -/

namespace Sys2Proof.Machine

/-! ### One word -/

/-- A register as the table's value with the reset value for an unlisted one. -/
theorem reg_eq (s : State) (a : Nat) : s.reg a = sgetD s.regs a (resetValue a) := by
  unfold State.reg sgetD
  cases sget? s.regs a <;> rfl

@[simp] theorem reg_setReg_self {s : State} (h : Store.Sorted s.regs) (a : Nat) (w : Word32) : (s.setReg a w).reg a = w := by
  rw [reg_eq]
  exact sgetD_sputD_self h a w _

theorem reg_setReg_ne (s : State) {a b : Nat} (w : Word32) (h : b ≠ a) : (s.setReg a w).reg b = s.reg b := by
  rw [reg_eq, reg_eq]
  unfold State.setReg sgetD sputD
  dsimp only
  split
  · rw [sget_sdel_ne _ h]
  · rw [sget_sput_ne _ _ h]

theorem sorted_setReg {s : State} (h : Store.Sorted s.regs) (a : Nat) (w : Word32) : Store.Sorted (s.setReg a w).regs :=
  sorted_sputD h _ _ _

/-! ### One field -/

/-- Bits of a word into which a field was written. -/
theorem getLsbD_insertBits (w : Word32) (lo wid v i : Nat) (h : lo + wid ≤ 32) :
    (insertBits w lo wid v).getLsbD i = if lo ≤ i ∧ i < lo + wid then v.testBit (i - lo) else w.getLsbD i := by
  unfold insertBits
  simp only [BitVec.getLsbD_or, BitVec.getLsbD_and, BitVec.getLsbD_not, BitVec.getLsbD_ofNat, Nat.testBit_shiftLeft,
    Nat.testBit_two_pow_sub_one, Nat.testBit_mod_two_pow]
  by_cases h1 : lo ≤ i ∧ i < lo + wid
  · have h2 : i < 32 := by omega
    have h3 : i - lo < wid := by omega
    have h4 : i ≥ lo := by omega
    simp [h1, h2, h3]
  · simp only [if_neg h1]
    by_cases h2 : i < 32
    · by_cases h4 : i ≥ lo
      · have h3 : ¬ i - lo < wid := by omega
        simp [h2, h3]
      · simp [h2, h4]
    · have h5 := BitVec.getLsbD_of_ge w i (by omega)
      simp [h2, h5]

theorem extract_insertBits_self (w : Word32) (lo wid v : Nat) (h : lo + wid ≤ 32) :
    ((insertBits w lo wid v).extractLsb' lo wid).toNat = v % 2 ^ wid := by
  apply Nat.eq_of_testBit_eq
  intro i
  simp only [BitVec.testBit_toNat, BitVec.getLsbD_extractLsb', getLsbD_insertBits _ _ _ _ _ h, Nat.testBit_mod_two_pow]
  by_cases hi : i < wid
  · have h1 : lo ≤ lo + i ∧ lo + i < lo + wid := by omega
    simp [hi, h1]
  · simp [hi]

theorem extract_insertBits_ne (w : Word32) (lo wid v lo' wid' : Nat) (h : lo + wid ≤ 32)
    (hd : lo' + wid' ≤ lo ∨ lo + wid ≤ lo') :
    (insertBits w lo wid v).extractLsb' lo' wid' = w.extractLsb' lo' wid' := by
  apply BitVec.eq_of_getLsbD_eq
  intro i hi
  have h1 : ¬ (lo ≤ lo' + i ∧ lo' + i < lo + wid) := by omega
  simp [hi, getLsbD_insertBits _ _ _ _ _ h, if_neg h1]

/-- A field that lies inside a word. -/
abbrev Loc.Fits (l : Loc) : Prop := l.lo + l.wid ≤ 32

theorem rf_wf_self {s : State} (hs : Store.Sorted s.regs) {l : Loc} (hl : l.Fits) (v : Nat) : (s.wf l v).rf l = v % 2 ^ l.wid := by
  unfold State.wf State.rf
  rw [reg_setReg_self hs, extract_insertBits_self _ _ _ _ hl]

theorem rf_wf_addr (s : State) {l m : Loc} (v : Nat) (h : m.addr ≠ l.addr) : (s.wf l v).rf m = s.rf m := by
  unfold State.wf State.rf
  rw [reg_setReg_ne _ _ h]

theorem rf_wf_bits {s : State} (hs : Store.Sorted s.regs) {l m : Loc} (v : Nat) (hl : l.Fits)
    (h : m.lo + m.wid ≤ l.lo ∨ l.lo + l.wid ≤ m.lo) : (s.wf l v).rf m = s.rf m := by
  by_cases ha : m.addr = l.addr
  · unfold State.wf State.rf
    rw [ha, reg_setReg_self hs, extract_insertBits_ne _ _ _ _ _ _ hl h]
  · exact rf_wf_addr s v ha

theorem reg_wf_ne (s : State) {l : Loc} {a : Nat} (v : Nat) (h : a ≠ l.addr) : (s.wf l v).reg a = s.reg a :=
  reg_setReg_ne s _ h

theorem sorted_wf {s : State} (h : Store.Sorted s.regs) (l : Loc) (v : Nat) : Store.Sorted (s.wf l v).regs := sorted_setReg h _ _

theorem sorted_bump {s : State} (h : Store.Sorted s.regs) (l : Loc) (n : Nat) : Store.Sorted (s.bump l n).regs := sorted_wf h _ _

theorem rf_bump_self {s : State} (hs : Store.Sorted s.regs) {l : Loc} (hl : l.Fits) (n : Nat) :
    (s.bump l n).rf l = satAdd32 (s.rf l) n % 2 ^ l.wid := rf_wf_self hs hl _

theorem rf_bump_addr (s : State) {l m : Loc} (n : Nat) (h : m.addr ≠ l.addr) : (s.bump l n).rf m = s.rf m := rf_wf_addr s _ h

theorem reg_bump_ne (s : State) {l : Loc} {a : Nat} (n : Nat) (h : a ≠ l.addr) : (s.bump l n).reg a = s.reg a := reg_wf_ne s _ h

/-- A field never exceeds its width. -/
theorem rf_lt (s : State) (l : Loc) : s.rf l < 2 ^ l.wid := BitVec.isLt _

/-- Fields of equal words are equal. -/
theorem rf_congr {s u : State} {l : Loc} (h : u.reg l.addr = s.reg l.addr) : u.rf l = s.rf l := by
  unfold State.rf
  rw [h]

/-- States with one register file read the same. -/
theorem reg_of_regs {s u : State} (h : u.regs = s.regs) (a : Nat) : u.reg a = s.reg a := by
  unfold State.reg
  rw [h]

theorem rf_of_regs {s u : State} (h : u.regs = s.regs) (l : Loc) : u.rf l = s.rf l := rf_congr (reg_of_regs h l.addr)

/-! ### What the operations on registers and error words leave alone -/

/-- A state that differs from another in its registers only. -/
theorem wf_frame (s : State) (l : Loc) (v : Nat) : { s.wf l v with regs := s.regs } = s := rfl

theorem bump_frame (s : State) (l : Loc) (n : Nat) : { s.bump l n with regs := s.regs } = s := rfl

theorem setReg_frame (s : State) (a : Nat) (w : Word32) : { s.setReg a w with regs := s.regs } = s := rfl

/-- R388: an event writes the page's error words only. -/
theorem errWords_frame (s : State) (page bit : Nat) : { s.errWords page bit with regs := s.regs } = s := by
  unfold State.errWords
  dsimp only
  split <;> rfl

theorem errWords_reg (s : State) (page bit : Nat) {a : Nat} (h : a ≠ A.ERR_STAT page ∧ a ≠ A.ERR_CNT page ∧ a ≠ A.ERR_FIRST page) :
    (s.errWords page bit).reg a = s.reg a := by
  unfold State.errWords
  dsimp only
  split
  · rw [reg_bump_ne _ _ h.2.1, reg_wf_ne _ _ h.1]
  · rw [reg_wf_ne _ _ h.2.2, reg_wf_ne _ _ h.2.2, reg_bump_ne _ _ h.2.1, reg_wf_ne _ _ h.1]

/-- R391: a raised pair changes nothing else. -/
theorem raisePair_frame (s : State) (page bit : Nat) (forced : Bool) : { s.raisePair page bit forced with pairs := s.pairs } = s := by
  unfold State.raisePair
  split <;> rfl

theorem raiseSrc_reg (s : State) (page bit : Nat) {a : Nat} (h : a ≠ A.ERR_STAT page ∧ a ≠ A.ERR_CNT page ∧ a ≠ A.ERR_FIRST page) :
    (s.raiseSrc page bit).reg a = s.reg a := by
  have e : (s.raiseSrc page bit).regs = (s.errWords page bit).regs := by
    unfold State.raiseSrc State.raisePair
    split <;> rfl
  rw [← errWords_reg s page bit h]
  unfold State.reg
  rw [e]

/-- R388, R391: one event of a source writes the page's error words and its pair only. -/
theorem raiseSrc_frame (s : State) (page bit : Nat) : { s.raiseSrc page bit with regs := s.regs, pairs := s.pairs } = s := by
  unfold State.raiseSrc
  have h := errWords_frame s page bit
  unfold State.raisePair
  split
  · exact (congrArg (fun t : State => { t with pairs := s.pairs }) h).trans rfl
  · exact (congrArg (fun t : State => { t with pairs := s.pairs }) h).trans rfl

theorem raisePair_regs (s : State) (page bit : Nat) (forced : Bool) : (s.raisePair page bit forced).regs = s.regs := by
  unfold State.raisePair
  split <;> rfl

theorem sorted_errWords {s : State} (h : Store.Sorted s.regs) (page bit : Nat) : Store.Sorted (s.errWords page bit).regs := by
  unfold State.errWords
  dsimp only
  split
  · exact sorted_bump (sorted_wf h _ _) _ _
  · exact sorted_wf (sorted_wf (sorted_bump (sorted_wf h _ _) _ _) _ _) _ _

theorem sorted_raiseSrc {s : State} (h : Store.Sorted s.regs) (page bit : Nat) : Store.Sorted (s.raiseSrc page bit).regs := by
  unfold State.raiseSrc
  rw [raisePair_regs]
  exact sorted_errWords h page bit

theorem raiseFor_regs (s : State) (page bit : Nat) (c : Option Nat) : (s.raiseFor page bit c).regs = (s.raiseSrc page bit).regs := by
  unfold State.raiseFor
  generalize s.raiseSrc page bit = u
  dsimp only
  split
  · rfl
  · split <;> rfl

theorem sorted_raiseFor {s : State} (h : Store.Sorted s.regs) (page bit : Nat) (c : Option Nat) :
    Store.Sorted (s.raiseFor page bit c).regs := by
  rw [raiseFor_regs]
  exact sorted_raiseSrc h page bit

theorem raiseFor_reg (s : State) (page bit : Nat) (c : Option Nat) {a : Nat}
    (h : a ≠ A.ERR_STAT page ∧ a ≠ A.ERR_CNT page ∧ a ≠ A.ERR_FIRST page) : (s.raiseFor page bit c).reg a = s.reg a := by
  rw [← raiseSrc_reg s page bit h]
  unfold State.reg
  rw [raiseFor_regs]

theorem raiseFor_frame (s : State) (page bit : Nat) (c : Option Nat) :
    { s.raiseFor page bit c with regs := s.regs, pairs := s.pairs } = s := by
  have h := raiseSrc_frame s page bit
  unfold State.raiseFor
  generalize s.raiseSrc page bit = u at h ⊢
  dsimp only
  split
  · exact h
  · split
    · exact h
    · exact congrArg (fun t : State => { t with pairs := s.pairs }) h

theorem blockCause_frame (s : State) (c b : Nat) : { s.blockCause c b with regs := s.regs } = s := by
  unfold State.blockCause
  dsimp only
  split <;> rfl

theorem blockCause_reg (s : State) (c b : Nat) {a : Nat} (h : a ≠ A.CMT_CSTAT c) : (s.blockCause c b).reg a = s.reg a := by
  unfold State.blockCause
  dsimp only
  split
  · rw [reg_wf_ne _ _ h, reg_wf_ne _ _ h]
  · rfl

theorem sorted_blockCause {s : State} (h : Store.Sorted s.regs) (c b : Nat) : Store.Sorted (s.blockCause c b).regs := by
  unfold State.blockCause
  dsimp only
  split
  · exact sorted_wf (sorted_wf h _ _) _ _
  · exact h

/-- Registers alone changed, twice. -/
theorem frame_regs {s u v : State} (h1 : { v with regs := u.regs } = u) (h2 : { u with regs := s.regs } = s) :
    { v with regs := s.regs } = s :=
  (congrArg (fun t : State => { t with regs := s.regs }) h1).trans h2

/-- Registers and pairs alone changed, twice. -/
theorem frame_regs_pairs {s u v : State} (h1 : { v with regs := u.regs, pairs := u.pairs } = u)
    (h2 : { u with regs := s.regs, pairs := s.pairs } = s) : { v with regs := s.regs, pairs := s.pairs } = s :=
  (congrArg (fun t : State => { t with regs := s.regs, pairs := s.pairs }) h1).trans h2

/-- A saturated count fits its 32 bits. -/
theorem satAdd32_mod (a n : Nat) : satAdd32 a n % 2 ^ 32 = satAdd32 a n :=
  Nat.mod_eq_of_lt (Nat.lt_of_le_of_lt (Nat.min_le_right _ _) (show max32 < 2 ^ 32 by decide))

/-- R388: an event sets its status bit. -/
theorem errWords_stat {s : State} (h : Store.Sorted s.regs) (page bit : Nat) (hb : bit < 32) :
    ((s.errWords page bit).rf (R.ERR_STAT_STAT page)).testBit bit = true := by
  have h1 : ∀ u : State,
      u.reg (A.ERR_STAT page) = (s.wf (R.ERR_STAT_STAT page) (s.rf (R.ERR_STAT_STAT page) ||| 2 ^ bit)).reg (A.ERR_STAT page) → (u.rf (R.ERR_STAT_STAT page)).testBit bit = true := by
    intro u hu
    have e : u.rf (R.ERR_STAT_STAT page) =
        (s.wf (R.ERR_STAT_STAT page) (s.rf (R.ERR_STAT_STAT page) ||| 2 ^ bit)).rf (R.ERR_STAT_STAT page) := by
      exact rf_congr hu
    rw [e, rf_wf_self h (by show (0:Nat) + 32 ≤ 32; decide)]
    rw [Nat.testBit_mod_two_pow]
    have : (R.ERR_STAT_STAT page).wid = 32 := rfl
    simp [this, hb, Nat.testBit_or, Nat.testBit_two_pow_self]
  refine h1 _ ?_
  have hne : A.ERR_STAT page ≠ A.ERR_CNT page ∧ A.ERR_STAT page ≠ A.ERR_FIRST page := by simp only [A.ERR_STAT, A.ERR_CNT, A.ERR_FIRST]; omega
  unfold State.errWords
  dsimp only
  split
  · rw [reg_bump_ne _ _ hne.1]
  · rw [reg_wf_ne _ _ hne.2, reg_wf_ne _ _ hne.2, reg_bump_ne _ _ hne.1]

end Sys2Proof.Machine
end

