-- ==== Sys2Proof/Laws/Issue.lean ====
section
/-! SUPPORT. Laws of streams and of the issue stage (R107, R113, R145, R146): what an update of a stream leaves alone, and
everything that `issue` can do. -/

namespace Sys2Proof.Machine

/-! ### Streams -/

/-- Two stream identifiers with one key are the same stream. -/
theorem strmKey_inj {i j : StreamId} (h : strmKey j.field j.furrow j.ctx j.strm = strmKey i.field i.furrow i.ctx i.strm) :
    j = i := by
  obtain ⟨⟨a, ha⟩, ⟨b, hb⟩, ⟨c, hc⟩, ⟨d, hd⟩⟩ := i
  obtain ⟨⟨a', ha'⟩, ⟨b', hb'⟩, ⟨c', hc'⟩, ⟨d', hd'⟩⟩ := j
  simp only [strmKey, furKey] at h
  simp only [StreamId.mk.injEq, Fin.mk.injEq]
  omega

theorem st_setSt_self {s : State} (h : Store.Sorted s.streams) (p : At) (x : StreamSt) : (s.setSt p x).st p = x :=
  sgetD_sputD_self h _ x {}

theorem st_setSt_ne (s : State) {i j : StreamId} (x : StreamSt) (h : j ≠ i) : (s.setSt (atOf i) x).st (atOf j) = s.st (atOf j) :=
  sgetD_sputD_ne s.streams x {} fun e => h (strmKey_inj e)

theorem sorted_setSt {s : State} (h : Store.Sorted s.streams) (p : At) (x : StreamSt) : Store.Sorted (s.setSt p x).streams :=
  sorted_sputD h _ _ _

theorem st_wf (s : State) (l : Loc) (v : Nat) (p : At) : (s.wf l v).st p = s.st p := rfl

theorem st_bump (s : State) (l : Loc) (n : Nat) (p : At) : (s.bump l n).st p = s.st p := rfl

/-! ### The head leaves -/

/-- The stream's record after its head instruction has left with grant `g` (R112). -/
def StreamSt.advanced (x : StreamSt) (g : Nat) : StreamSt :=
  { x with
    pc := x.pc + 16, buf := x.buf.drop 1, state := if x.buf.length ≤ 1 then .waiting else .issuing,
    wait := if x.buf.length ≤ 1 then .fetch else .none, arrived := none, granted := g }

theorem settleHead_id {s : State} {p : At} (h : (s.st p).buf.head? ≠ some none) : s.settleHead p = s := by
  unfold State.settleHead
  split
  · rename_i e
    simp [e] at h
  · rfl

/-- With no bad word next, the head leaves, `FUR_ISSUED` counts, and that is all. -/
theorem advance_eq {s : State} (hs : Store.Sorted s.streams) {p : At} (h : s.NextSound p) :
    s.advance p = (s.setSt p ((s.st p).advanced (s.nextGrant p.f p.n))).bump (R.FUR_ISSUED_COUNT p.f p.n) 1 := by
  unfold State.NextSound at h
  unfold State.advance
  dsimp only
  split
  · rfl
  · refine settleHead_id ?_
    rw [st_bump, st_setSt_self hs]
    simp_all

theorem issued_advance {s : State} (hc : s.Canon) {i : StreamId} (h : s.NextSound (atOf i)) :
    s.Issued (s.advance (atOf i)) i := by
  rw [advance_eq hc.streams h]
  refine ⟨?_, ?_, ?_, fun a ha => ?_, fun j hj => ?_⟩
  · rw [st_bump, st_setSt_self hc.streams]
    rfl
  · rw [st_bump, st_setSt_self hc.streams]
    rfl
  · refine (rf_bump_self (s := s.setSt (atOf i) ((s.st (atOf i)).advanced (s.nextGrant i.field i.furrow))) hc.regs (l := R.FUR_ISSUED_COUNT i.field i.furrow)
      (show (0 : Nat) + 32 ≤ 32 by decide) 1).trans ?_
    exact Nat.mod_eq_of_lt (Nat.lt_of_le_of_lt (Nat.min_le_right _ _) (show max32 < 2 ^ 32 by decide))
  · exact reg_bump_ne _ _ ha
  · rw [st_bump, st_setSt_ne _ _ hj]

theorem advance_frame {s : State} (hs : Store.Sorted s.streams) {p : At} (h : s.NextSound p) :
    { s.advance p with regs := s.regs, streams := s.streams } = s := by
  rw [advance_eq hs h]
  exact congrArg (fun t : State => { t with streams := s.streams }) (bump_frame (s.setSt p ((s.st p).advanced (s.nextGrant p.f p.n))) (R.FUR_ISSUED_COUNT p.f p.n) 1)

theorem st_advance {s : State} (hs : Store.Sorted s.streams) {p : At} (h : s.NextSound p) :
    (s.advance p).st p = (s.st p).advanced (s.nextGrant p.f p.n) := by
  rw [advance_eq hs h, st_bump, st_setSt_self hs]

theorem sorted_advance {s : State} (hs : Store.Sorted s.streams) {p : At} (h : s.NextSound p) :
    Store.Sorted (s.advance p).streams := by
  rw [advance_eq hs h]
  exact sorted_setSt hs p ((s.st p).advanced (s.nextGrant p.f p.n))

/-- The state after the head has left, as an update of registers and streams. -/
theorem advance_rec {s : State} (hs : Store.Sorted s.streams) {p : At} (h : s.NextSound p) :
    s.advance p = { s with regs := (s.advance p).regs, streams := (s.advance p).streams } :=
  congrArg (fun t : State => { t with regs := (s.advance p).regs, streams := (s.advance p).streams }) (advance_frame hs h)

theorem rf_advance {s : State} (hs : Store.Sorted s.streams) {p : At} (h : s.NextSound p) {l : Loc}
    (hl : l.addr ≠ A.FUR_ISSUED p.f p.n) : (s.advance p).rf l = s.rf l := by
  rw [advance_eq hs h]
  exact rf_bump_addr (s.setSt p ((s.st p).advanced (s.nextGrant p.f p.n))) 1 hl

/-- A stream's record set after its head has left. -/
theorem issued_setSt {s : State} (hc : s.Canon) {i : StreamId} (h : s.NextSound (atOf i)) (y : StreamSt)
    (hpc : y.pc = (s.st (atOf i)).pc + 16) (hb : y.buf = (s.st (atOf i)).buf.drop 1) :
    s.Issued ((s.advance (atOf i)).setSt (atOf i) y) i ∧ ((s.advance (atOf i)).setSt (atOf i) y).st (atOf i) = y ∧
      { (s.advance (atOf i)).setSt (atOf i) y with regs := s.regs, streams := s.streams } = s := by
  have h1 := issued_advance hc h
  have hs := sorted_advance hc.streams h
  refine ⟨⟨?_, ?_, h1.count, h1.regs, fun j hj => ?_⟩, st_setSt_self hs _ _, advance_frame hc.streams h⟩
  · rw [st_setSt_self hs]
    exact hpc
  · rw [st_setSt_self hs]
    exact hb
  · rw [st_setSt_ne _ _ hj]
    exact h1.others j hj

/-- Registers of a context's page are none of a furrow's. -/
theorem ctx_ne_issued {c f n k : Nat} (hc : c < 64) (hk : k < 0x1000) : Page.contextBase c + k ≠ A.FUR_ISSUED f n := by
  unfold Page.contextBase A.FUR_ISSUED Page.furrowBase Page.fieldBase
  omega

/-! ### What the issue stage does (R113) -/

theorem State.AtHead.buf {s : State} {i : StreamId} {w : InstrWord} (h : s.AtHead i w) :
    ∃ t, (s.st (atOf i)).buf = some w :: t := by
  have h1 := h.head
  cases hb : (s.st (atOf i)).buf with
  | nil => simp [hb] at h1
  | cons a t => exact ⟨t, by simp_all⟩

theorem State.AtHead.open_ {s : State} {i : StreamId} {w : InstrWord} (h : s.AtHead i w) :
    ((s.st (atOf i)).cur.isNone || (s.st (atOf i)).state == .halted || s.streamHeld (atOf i).f (atOf i).n (atOf i).c (atOf i).k ||
      s.issueHeld (atOf i).f (atOf i).n) = false := by
  have h1 := h.runs
  have h2 := h.notHalted
  have h3 : s.streamHeld (atOf i).f (atOf i).n (atOf i).c (atOf i).k = false := h.unfenced
  have h4 : s.issueHeld (atOf i).f (atOf i).n = false := h.issues
  have h5 : (s.st (atOf i)).cur.isNone = false := by
    cases hc : (s.st (atOf i)).cur <;> simp [hc] at h1 ⊢
  simp [h5, h2, h3, h4]

/-- R113: a ready and legal head instruction leaves the stream and has its effect. -/
theorem issue_runs {s : State} {i : StreamId} {w : InstrWord} (h : s.AtHead i w) (sem : Nat) (eff : State → State) :
    issue s (atOf i) w none sem none eff = eff (s.advance (atOf i)) := by
  obtain ⟨t, ht⟩ := h.buf
  unfold issue
  simp [h.open_, ht]

/-- R146: a ready and illegal head instruction halts the stream. -/
theorem issue_halts {s : State} {i : StreamId} {w : InstrWord} (h : s.AtHead i w) (sem c : Nat) (eff : State → State) :
    issue s (atOf i) w none sem (some c) eff = s.haltStream (atOf i) c (fld w 0 8) := by
  obtain ⟨t, ht⟩ := h.buf
  unfold issue
  simp [h.open_, ht]

/-- R113: an instruction that is not ready leaves its stream waiting. -/
theorem issue_waits {s : State} {i : StreamId} {w : InstrWord} (h : s.AtHead i w) (k : WaitKind) (sem : Nat) (c : Option Nat)
    (eff : State → State) : issue s (atOf i) w (some k) sem c eff = s.waitStream (atOf i) k sem := by
  obtain ⟨t, ht⟩ := h.buf
  unfold issue
  simp [h.open_, ht]

/-! ### Halts (R145, R146, R150) -/

theorem halted_haltStream {s : State} (hc : s.Canon) {i : StreamId} {w : InstrWord} {c : Nat} (hk : c < 16) : s.Halted (s.haltStream (atOf i) c (fld w 0 8)) i w c := by
  have hst : ∀ k, k = 0x400 ∨ k = 0x404 ∨ k = 0x40c → Page.furrowBase i.field i.furrow + k + 16 * (3 * i.ctx.val + i.strm.val) ≠ A.ERR_STAT (Page.furrowBase i.field i.furrow) ∧ Page.furrowBase i.field i.furrow + k + 16 * (3 * i.ctx.val + i.strm.val) ≠ A.ERR_CNT (Page.furrowBase i.field i.furrow) ∧ Page.furrowBase i.field i.furrow + k + 16 * (3 * i.ctx.val + i.strm.val) ≠ A.ERR_FIRST (Page.furrowBase i.field i.furrow) ∧ Page.furrowBase i.field i.furrow + k + 16 * (3 * i.ctx.val + i.strm.val) ≠ A.CMT_CSTAT i.ctx := by
    intro k hk
    have := i.ctx.2; have := i.strm.2
    simp only [A.ERR_STAT, A.ERR_CNT, A.ERR_FIRST, A.CMT_CSTAT, Page.furrowBase, Page.fieldBase, Page.commitBase]
    omega
  have hcs : A.CMT_CSTAT i.ctx < 0x1000000 := by have := i.ctx.2; simp only [A.CMT_CSTAT, Page.commitBase]; omega
  have hbig : ∀ k, 0x1000000 ≤ Page.furrowBase i.field i.furrow + k := by intro k; simp only [Page.furrowBase, Page.fieldBase]; omega
  have hrun : ∃ a b : State, s.haltStream (atOf i) c (fld w 0 8) = (b.raiseFor (Page.furrowBase i.field i.furrow) 1 (some i.ctx)).blockCause i.ctx 0 ∧
      a = s.setSt (atOf i) { s.st (atOf i) with state := .halted, wait := .none, haltCause := c, granted := s.nextGrant i.field i.furrow } ∧
      b = if a.flag (R.FUR_STRM_ERR_VALID i.field i.furrow (3 * i.ctx.val + i.strm.val)) then a else
        ((((a.wf (R.FUR_STRM_ERR_CAUSE i.field i.furrow (3 * i.ctx.val + i.strm.val)) c).wf (R.FUR_STRM_ERR_OPCODE i.field i.furrow (3 * i.ctx.val + i.strm.val)) (fld w 0 8)).wf
      (R.FUR_STRM_ERR_VALID i.field i.furrow (3 * i.ctx.val + i.strm.val)) 1).wf (R.FUR_STRM_PC_LO_ADDR i.field i.furrow (3 * i.ctx.val + i.strm.val)) (s.st (atOf i)).pc).wf
        (R.FUR_STRM_PC_HI_ADDR i.field i.furrow (3 * i.ctx.val + i.strm.val)) ((s.st (atOf i)).pc / 2 ^ 32) := ⟨_, _, rfl, rfl, rfl⟩
  obtain ⟨a, b, hr, ha, hb⟩ := hrun
  have ha1 : a.regs = s.regs := by rw [ha]; rfl
  have haS : a.streams = (s.setSt (atOf i) { s.st (atOf i) with state := .halted, wait := .none, haltCause := c, granted := s.nextGrant i.field i.furrow }).streams := by rw [ha]
  have haF : { a with streams := s.streams } = s := by rw [ha]; rfl
  have hsa : Store.Sorted a.regs := ha1 ▸ hc.regs
  have hreg : ∀ x, a.reg x = s.reg x := fun x => by unfold State.reg; rw [ha1]
  have hrf : ∀ x, a.rf x = s.rf x := fun x => by unfold State.rf; rw [hreg]
  have hbF : { b with regs := a.regs } = a := by
    rw [hb]; split
    · rfl
    · exact frame_regs (wf_frame _ _ _) (frame_regs (wf_frame _ _ _) (frame_regs (wf_frame _ _ _) (frame_regs (wf_frame _ _ _) (wf_frame _ _ _))))
  have hsb : Store.Sorted b.regs := by
    rw [hb]; split
    · exact hsa
    · exact sorted_wf (sorted_wf (sorted_wf (sorted_wf (sorted_wf hsa _ _) _ _) _ _) _ _) _ _
  have hbr : ∀ x, x ≠ A.FUR_STRM_ERR i.field i.furrow (3 * i.ctx.val + i.strm.val) → x ≠ A.FUR_STRM_PC_LO i.field i.furrow (3 * i.ctx.val + i.strm.val) → x ≠ A.FUR_STRM_PC_HI i.field i.furrow (3 * i.ctx.val + i.strm.val) → b.reg x = s.reg x := by
    intro x h1 h2 h3
    rw [hb]; split
    · exact hreg x
    · rw [reg_wf_ne _ _ h3, reg_wf_ne _ _ h2, reg_wf_ne _ _ h1, reg_wf_ne _ _ h1, reg_wf_ne _ _ h1]; exact hreg x
  have hne : A.FUR_STRM_ERR i.field i.furrow (3 * i.ctx.val + i.strm.val) ≠ A.FUR_STRM_PC_LO i.field i.furrow (3 * i.ctx.val + i.strm.val) ∧ A.FUR_STRM_ERR i.field i.furrow (3 * i.ctx.val + i.strm.val) ≠ A.FUR_STRM_PC_HI i.field i.furrow (3 * i.ctx.val + i.strm.val) ∧ A.FUR_STRM_PC_LO i.field i.furrow (3 * i.ctx.val + i.strm.val) ≠ A.FUR_STRM_PC_HI i.field i.furrow (3 * i.ctx.val + i.strm.val) := by
    simp only [A.FUR_STRM_ERR, A.FUR_STRM_PC_LO, A.FUR_STRM_PC_HI]; omega
  -- after the source and the cause
  obtain ⟨d, hd⟩ : ∃ d, d = b.raiseFor (Page.furrowBase i.field i.furrow) 1 (some i.ctx.val) := ⟨_, rfl⟩
  have hdF := raiseFor_frame b (Page.furrowBase i.field i.furrow) 1 (some i.ctx.val)
  have hsd := sorted_raiseFor hsb (Page.furrowBase i.field i.furrow) 1 (some i.ctx.val)
  have hdr : ∀ x, (x ≠ A.ERR_STAT (Page.furrowBase i.field i.furrow) ∧ x ≠ A.ERR_CNT (Page.furrowBase i.field i.furrow) ∧ x ≠ A.ERR_FIRST (Page.furrowBase i.field i.furrow)) → d.reg x = b.reg x := fun x hx => by rw [hd]; exact raiseFor_reg _ _ _ _ hx
  have hdS : (d.rf (R.ERR_STAT_STAT (Page.furrowBase i.field i.furrow))).testBit 1 = true := by
    have h1 := errWords_stat hsb (Page.furrowBase i.field i.furrow) 1 (by decide)
    have h2 : d.regs = (b.errWords (Page.furrowBase i.field i.furrow) 1).regs := by
      rw [hd]; exact (raiseFor_regs _ _ _ _).trans (raisePair_regs _ _ _ _)
    have h3 : d.rf (R.ERR_STAT_STAT (Page.furrowBase i.field i.furrow)) = (b.errWords (Page.furrowBase i.field i.furrow) 1).rf (R.ERR_STAT_STAT (Page.furrowBase i.field i.furrow)) := by
      exact rf_of_regs h2 _
    rw [h3]; exact h1
  rw [← hd] at hr hdF hsd
  have htF := blockCause_frame d i.ctx 0
  have htr : ∀ x, x ≠ A.CMT_CSTAT i.ctx → (d.blockCause i.ctx 0).reg x = d.reg x := fun x hx => blockCause_reg _ _ _ hx
  have hdc : d.rf (R.CMT_CSTAT_STATE i.ctx) = s.rf (R.CMT_CSTAT_STATE i.ctx) := by
    apply rf_congr
    have hcl : ∀ x, x < 0x1000000 → d.reg x = s.reg x := by
      intro x hx
      rw [hdr, hbr]
      · have := hbig (0x40c + 16 * (3 * i.ctx.val + i.strm.val)); unfold A.FUR_STRM_ERR; omega
      · have := hbig (0x400 + 16 * (3 * i.ctx.val + i.strm.val)); unfold A.FUR_STRM_PC_LO; omega
      · have := hbig (0x404 + 16 * (3 * i.ctx.val + i.strm.val)); unfold A.FUR_STRM_PC_HI; omega
      · refine ⟨?_, ?_, ?_⟩ <;> simp only [A.ERR_STAT, A.ERR_CNT, A.ERR_FIRST, Page.furrowBase, Page.fieldBase] <;> omega
    exact hcl _ hcs
  obtain ⟨t, ht⟩ : ∃ t, t = d.blockCause i.ctx 0 := ⟨_, rfl⟩
  have hblk : s.cstate i.ctx = stRunning → t.cstate i.ctx = stBlocked ∧ (t.rf (R.CMT_CSTAT_BLOCK i.ctx)).testBit 0 = true := by
    intro hs
    have h3 : d.cstate i.ctx = stRunning := hdc.trans hs
    have h4 : t = (d.wf (R.CMT_CSTAT_BLOCK i.ctx) (d.rf (R.CMT_CSTAT_BLOCK i.ctx) ||| 2 ^ 0)).wf (R.CMT_CSTAT_STATE i.ctx) stBlocked := by
      rw [ht]
      unfold State.blockCause
      dsimp only
      rw [h3]
      simp only [beq_self_eq_true, Bool.true_or, if_true]
    rw [h4]
    refine ⟨?_, ?_⟩
    · unfold State.cstate
      rw [rf_wf_self (sorted_wf hsd _ _) (by show (0:Nat) + 3 ≤ 32; decide)]
      rfl
    · rw [rf_wf_bits (sorted_wf hsd _ _) _ (by show (0:Nat) + 3 ≤ 32; decide) (.inr (by show (0:Nat) + 3 ≤ 8; decide))]
      rw [rf_wf_self hsd (by show (8:Nat) + 7 ≤ 32; decide)]
      rw [Nat.testBit_mod_two_pow]
      have : (R.CMT_CSTAT_BLOCK i.ctx).wid = 7 := rfl
      simp [this]
  rw [← ht] at hr htF htr
  rw [hr]
  have q1 : ∀ {x y : State}, { x with regs := y.regs } = y → x.streams = y.streams := fun h => (congrArg State.streams h :)
  have q2 : ∀ {x y : State}, { x with regs := y.regs, pairs := y.pairs } = y → x.streams = y.streams := fun h => (congrArg State.streams h :)
  have hts : t.streams = a.streams := (q1 htF).trans ((q2 hdF).trans (q1 hbF))
  have htst : ∀ p, t.st p = a.st p := fun p => by unfold State.st State.strm; rw [hts]
  have haself : a.st (atOf i) = { s.st (atOf i) with state := .halted, wait := .none, haltCause := c, granted := s.nextGrant i.field i.furrow } := by rw [ha]; exact st_setSt_self hc.streams _ _
  have hE := hst 0x40c (by simp)
  have hL := hst 0x400 (by simp)
  have hERR : t.reg (A.FUR_STRM_ERR i.field i.furrow (3 * i.ctx.val + i.strm.val)) = b.reg (A.FUR_STRM_ERR i.field i.furrow (3 * i.ctx.val + i.strm.val)) := by
    unfold A.FUR_STRM_ERR; rw [htr _ hE.2.2.2, hdr _ ⟨hE.1, hE.2.1, hE.2.2.1⟩]
  have hPC : t.reg (A.FUR_STRM_PC_LO i.field i.furrow (3 * i.ctx.val + i.strm.val)) = b.reg (A.FUR_STRM_PC_LO i.field i.furrow (3 * i.ctx.val + i.strm.val)) := by
    unfold A.FUR_STRM_PC_LO; rw [htr _ hL.2.2.2, hdr _ ⟨hL.1, hL.2.1, hL.2.2.1⟩]
  have hV1 : s.rf (R.FUR_STRM_ERR_VALID i.field i.furrow (3 * i.ctx.val + i.strm.val)) = 0 ∨ s.rf (R.FUR_STRM_ERR_VALID i.field i.furrow (3 * i.ctx.val + i.strm.val)) = 1 := by
    have h2 : s.rf (R.FUR_STRM_ERR_VALID i.field i.furrow (3 * i.ctx.val + i.strm.val)) < 2 := rf_lt _ _
    omega
  have hflag : a.flag (R.FUR_STRM_ERR_VALID i.field i.furrow (3 * i.ctx.val + i.strm.val)) = (s.rf (R.FUR_STRM_ERR_VALID i.field i.furrow (3 * i.ctx.val + i.strm.val)) != 0) := by unfold State.flag; rw [hrf]
  have hb0 : s.rf (R.FUR_STRM_ERR_VALID i.field i.furrow (3 * i.ctx.val + i.strm.val)) = 0 → b = 
        ((((a.wf (R.FUR_STRM_ERR_CAUSE i.field i.furrow (3 * i.ctx.val + i.strm.val)) c).wf (R.FUR_STRM_ERR_OPCODE i.field i.furrow (3 * i.ctx.val + i.strm.val)) (fld w 0 8)).wf
      (R.FUR_STRM_ERR_VALID i.field i.furrow (3 * i.ctx.val + i.strm.val)) 1).wf (R.FUR_STRM_PC_LO_ADDR i.field i.furrow (3 * i.ctx.val + i.strm.val)) (s.st (atOf i)).pc).wf
        (R.FUR_STRM_PC_HI_ADDR i.field i.furrow (3 * i.ctx.val + i.strm.val)) ((s.st (atOf i)).pc / 2 ^ 32) := by
    intro h; rw [hb, hflag, h]; rfl
  have hb1 : s.rf (R.FUR_STRM_ERR_VALID i.field i.furrow (3 * i.ctx.val + i.strm.val)) = 1 → b = a := by
    intro h; rw [hb, hflag, h]; rfl
  have s1 := sorted_wf hsa (R.FUR_STRM_ERR_CAUSE i.field i.furrow (3 * i.ctx.val + i.strm.val)) c
  have s2 := sorted_wf s1 (R.FUR_STRM_ERR_OPCODE i.field i.furrow (3 * i.ctx.val + i.strm.val)) (fld w 0 8)
  have s3 := sorted_wf s2 (R.FUR_STRM_ERR_VALID i.field i.furrow (3 * i.ctx.val + i.strm.val)) 1
  have hop : fld w 0 8 < 2 ^ 8 := (w.extractLsb' 0 8).isLt
  refine ⟨?_, ?_, ?_, ?_, fun j hj => ?_, ?_, fun h0 => ⟨?_, ?_, ?_⟩, fun h1 => ⟨?_, ?_⟩, ?_, hblk, ?_⟩
  · rw [htst, haself]
  · rw [htst, haself]
  · rw [htst, haself]
  · rw [htst, haself]
  · rw [htst, ha, st_setSt_ne _ _ hj]
  · refine (rf_congr hERR).trans ?_
    rcases hV1 with h | h
    · rw [hb0 h, rf_wf_addr _ _ hne.2.1, rf_wf_addr _ _ hne.1, rf_wf_self s2 (by show (31:Nat) + 1 ≤ 32; decide)]; rfl
    · rw [hb1 h, hrf, h]
  · refine (rf_congr hERR).trans ?_
    rw [hb0 h0, rf_wf_addr _ _ hne.2.1, rf_wf_addr _ _ hne.1, rf_wf_bits s2 _ (by show (31:Nat) + 1 ≤ 32; decide) (.inl (by show (0:Nat) + 4 ≤ 31; decide)),
      rf_wf_bits s1 _ (by show (4:Nat) + 8 ≤ 32; decide) (.inl (by show (0:Nat) + 4 ≤ 4; decide)), rf_wf_self hsa (by show (0:Nat) + 4 ≤ 32; decide)]
    exact Nat.mod_eq_of_lt hk
  · refine (rf_congr hERR).trans ?_
    rw [hb0 h0, rf_wf_addr _ _ hne.2.1, rf_wf_addr _ _ hne.1, rf_wf_bits s2 _ (by show (31:Nat) + 1 ≤ 32; decide) (.inl (by show (4:Nat) + 8 ≤ 31; decide)),
      rf_wf_self s1 (by show (4:Nat) + 8 ≤ 32; decide)]
    exact Nat.mod_eq_of_lt hop
  · refine (rf_congr hPC).trans ?_
    rw [hb0 h0, rf_wf_addr _ _ hne.2.2, rf_wf_self s3 (by show (0:Nat) + 32 ≤ 32; decide)]
    rfl
  · rw [hERR, hb1 h1, hreg]
  · rw [hPC, hb1 h1, hreg]
  · rw [rf_congr (s := d)]
    · exact hdS
    · refine htr _ ?_
      have := hbig 0x10
      show A.ERR_STAT (Page.furrowBase i.field i.furrow) ≠ _
      unfold A.ERR_STAT
      omega
  · have e1 : { t with regs := s.regs, streams := s.streams, pairs := s.pairs } = { d with regs := s.regs, streams := s.streams, pairs := s.pairs } := (congrArg (fun t : State => { t with regs := s.regs, streams := s.streams, pairs := s.pairs }) htF :)
    have e2 : { d with regs := s.regs, streams := s.streams, pairs := s.pairs } = { b with regs := s.regs, streams := s.streams, pairs := s.pairs } := (congrArg (fun t : State => { t with regs := s.regs, streams := s.streams, pairs := s.pairs }) hdF :)
    have e3 : { b with regs := s.regs, streams := s.streams, pairs := s.pairs } = { a with regs := s.regs, streams := s.streams, pairs := s.pairs } := (congrArg (fun t : State => { t with regs := s.regs, streams := s.streams, pairs := s.pairs }) hbF :)
    have e4 : { a with regs := s.regs, streams := s.streams, pairs := s.pairs } = s := (congrArg (fun t : State => { t with regs := s.regs, streams := s.streams, pairs := s.pairs }) haF :)
    exact e1.trans (e2.trans (e3.trans e4))

end Sys2Proof.Machine
end

