-- ==== Sys2Proof/Laws/Memory.lean ====
section
/-! SUPPORT. Laws of byte memories: reads after writes, and that every operation keeps the canonical form. -/

namespace Sys2Proof.Machine

/-- The units that stay as they are. -/
theorem Memory.undef_write (unit : Nat) (m : Memory) (a : Nat) (b : Byte) (u : Nat) :
    (m.write unit a b).undef u = m.undef u := by
  unfold Memory.write
  split <;> rfl

/-- A byte that is written reads as written. -/
theorem Memory.read_write_self {unit : Nat} {m : Memory} (h : m.wf unit) (a : Nat) (b : Byte) :
    (m.write unit a b).read unit a = b := by
  unfold Memory.write
  split
  · rename_i hz
    have : ({ m with cells := sdel m.cells a } : Memory).undef (a / unit) = none := hz.2
    simp [Memory.read, sget_sdel_self h.1, Memory.unlisted, this, hz.1]
  · simp [Memory.read]

/-- A write leaves every other byte. -/
theorem Memory.read_write_ne (unit : Nat) (m : Memory) {a c : Nat} (b : Byte) (h : c ≠ a) :
    (m.write unit a b).read unit c = m.read unit c := by
  have hu := Memory.undef_write unit m a b (c / unit)
  unfold Memory.write at hu ⊢
  split at hu <;> split <;> simp_all [Memory.read, sget_sdel_ne m.cells h, sget_sput_ne m.cells b h, Memory.unlisted]

/-- A write of a list of bytes leaves every byte outside it. -/
theorem Memory.read_writeN_out (unit : Nat) (bs : List Byte) :
    ∀ (m : Memory) {a c : Nat}, c < a ∨ a + bs.length ≤ c → (m.writeN unit a bs).read unit c = m.read unit c := by
  induction bs with
  | nil => intro m a c _; rfl
  | cons b t ih =>
    intro m a c h
    simp only [List.length_cons] at h
    rw [Memory.writeN, ih _ (by omega), Memory.read_write_ne]
    omega

theorem Memory.wf_write {unit : Nat} {m : Memory} (h : m.wf unit) (a : Nat) (b : Byte) : (m.write unit a b).wf unit := by
  have hu := Memory.undef_write unit m a b
  unfold Memory.write at hu ⊢
  split
  · exact ⟨sorted_sdel h.1 a, h.2.1, fun c hc => h.2.2 c (mem_sdel hc)⟩
  · rename_i hz
    refine ⟨sorted_sput h.1 a b, h.2.1, fun c hc h0 => ?_⟩
    rcases mem_sput hc with he | he
    · subst he
      exact fun hn => hz ⟨h0, hn⟩
    · exact h.2.2 c he h0

theorem Memory.wf_writeN {unit : Nat} (bs : List Byte) :
    ∀ {m : Memory} (a : Nat), m.wf unit → (m.writeN unit a bs).wf unit := by
  induction bs with
  | nil => exact fun _ h => h
  | cons b t ih => exact fun a h => ih (a + 1) (Memory.wf_write h a b)

/-- What a written range reads. -/
theorem Memory.read_writeN_in {unit : Nat} (bs : List Byte) :
    ∀ {m : Memory} (a : Nat), m.wf unit → ∀ i, i < bs.length → (m.writeN unit a bs).read unit (a + i) = bs.getD i 0 := by
  induction bs with
  | nil => intro m a _ i hi; exact absurd hi (Nat.not_lt_zero i)
  | cons b t ih =>
    intro m a h i hi
    cases i with
    | zero =>
      rw [Nat.add_zero, Memory.writeN, Memory.read_writeN_out unit t _ (.inl (Nat.lt_succ_self a)),
        Memory.read_write_self h]
      rfl
    | succ i =>
      have := ih (m := m.write unit a b) (a + 1) (Memory.wf_write h a b) i (by simpa using hi)
      rw [Memory.writeN, show a + (i + 1) = a + 1 + i by omega, this]
      rfl

/-- A range reads back as it was written. -/
theorem Memory.readN_writeN {unit : Nat} {m : Memory} (h : m.wf unit) (a : Nat) (bs : List Byte) :
    (m.writeN unit a bs).readN unit a bs.length = bs := by
  apply List.ext_getElem
  · simp [Memory.readN]
  · intro i h1 h2
    simp only [Memory.readN, List.getElem_map, List.getElem_range]
    rw [Memory.read_writeN_in bs a h i h2, List.getD_eq_getElem _ _ h2]

/-- A unit's index in a cleared or marked range follows from its bytes. -/
theorem unit_out {unit lo hi a : Nat} (h : a < lo * unit ∨ hi * unit ≤ a) (hu : 0 < unit) : a / unit < lo ∨ hi ≤ a / unit := by
  rcases h with h | h
  · exact .inl (Nat.div_lt_of_lt_mul (by rwa [Nat.mul_comm] at h))
  · exact .inr ((Nat.le_div_iff_mul_le hu).mpr h)

theorem unit_in {unit lo hi a : Nat} (hu : 0 < unit) (h1 : lo * unit ≤ a) (h2 : a < hi * unit) :
    lo ≤ a / unit ∧ a / unit < hi :=
  ⟨(Nat.le_div_iff_mul_le hu).mpr h1, Nat.div_lt_of_lt_mul (by rwa [Nat.mul_comm] at h2)⟩

theorem mem_sclear {α : Type} {t : Store α} {lo hi : Nat} {e : Nat × α} (h : e ∈ sclear t lo hi) :
    e ∈ t ∧ (e.1 < lo ∨ hi ≤ e.1) := by
  simpa [sclear] using h

theorem sget_markUnits_out {i k : Nat} : ∀ (n lo : Nat) (b : Store Nat), k < lo ∨ lo + n ≤ k →
    sget? (markUnits i n lo b) k = sget? b k
  | 0, _, _, _ => rfl
  | n + 1, lo, b, h => by
    rw [markUnits, sget_markUnits_out n (lo + 1) _ (by omega), sget_sput_ne]
    omega

/-- A unit outside a cleared range stays as it is. -/
theorem Memory.undef_clearUnits_out (unit : Nat) (m : Memory) {lo hi u : Nat} (h : u < lo ∨ hi ≤ u) :
    (m.clearUnits unit lo hi).undef u = m.undef u := sget_sclear_out m.base h

/-- A cleared unit is not undefined. -/
theorem Memory.undef_clearUnits_in (unit : Nat) (m : Memory) {lo hi u : Nat} (h1 : lo ≤ u) (h2 : u < hi) :
    (m.clearUnits unit lo hi).undef u = none := sget_sclear_in m.base h1 h2

theorem Memory.wf_clearUnits {unit : Nat} {m : Memory} (h : m.wf unit) (hu : 0 < unit) (lo hi : Nat) :
    (m.clearUnits unit lo hi).wf unit := by
  refine ⟨sorted_sclear h.1 _ _, sorted_sclear h.2.1 _ _, fun c hc h0 => ?_⟩
  have hm := mem_sclear hc
  rw [Memory.undef_clearUnits_out unit m (unit_out hm.2 hu)]
  exact h.2.2 c hm.1 h0

theorem Memory.wf_undefUnits {unit : Nat} {m : Memory} (h : m.wf unit) (hu : 0 < unit) {lo hi : Nat} (hl : lo ≤ hi) (i : Nat) :
    (m.undefUnits unit lo hi i).wf unit := by
  refine ⟨sorted_sclear h.1 _ _, sorted_markUnits _ _ (sorted_sclear h.2.1 _ _), fun c hc h0 => ?_⟩
  have hm := mem_sclear hc
  have ho := unit_out hm.2 hu
  have hb : sget? (m.undefUnits unit lo hi i).base (c.1 / unit) = sget? m.base (c.1 / unit) := by
    simp only [Memory.undefUnits]
    rw [sget_markUnits_out _ _ _ (by omega), sget_sclear_out m.base ho]
  have := h.2.2 c hm.1 h0
  simp only [Memory.undef, hb] at this ⊢
  exact this

/-- A byte of a cleared unit reads 0 (R440). -/
theorem Memory.read_clearUnits_in {unit : Nat} (m : Memory) (hu : 0 < unit) {lo hi a : Nat} (h1 : lo * unit ≤ a)
    (h2 : a < hi * unit) : (m.clearUnits unit lo hi).read unit a = 0 := by
  have e := unit_in hu h1 h2
  have hc : sget? (m.clearUnits unit lo hi).cells a = none := sget_sclear_in m.cells h1 h2
  simp only [Memory.read, Memory.unlisted, hc, Memory.undef_clearUnits_in unit m e.1 e.2]

/-- A byte outside the cleared units reads as before. -/
theorem Memory.read_clearUnits_out {unit : Nat} (m : Memory) (hu : 0 < unit) {lo hi a : Nat}
    (h : a < lo * unit ∨ hi * unit ≤ a) : (m.clearUnits unit lo hi).read unit a = m.read unit a := by
  have hc : sget? (m.clearUnits unit lo hi).cells a = sget? m.cells a := sget_sclear_out m.cells h
  simp only [Memory.read, Memory.unlisted, hc, Memory.undef_clearUnits_out unit m (unit_out h hu)]

/-- Memory that lists nothing has the canonical form. -/
theorem Memory.wf_empty (unit : Nat) : Memory.wf unit {} :=
  ⟨List.Pairwise.nil, List.Pairwise.nil, fun c hc => absurd hc List.not_mem_nil⟩

end Sys2Proof.Machine
end

