-- ==== Sys2Proof/Laws/Keeps.lean ====
section
/-! SUPPORT. The relation that every operation keeps: the queue of waiting commands untouched, tables and memories canonical,
no fuse cleared. One lemma says it of every way an operation writes the state. -/

namespace Sys2Proof.Machine

/-- From `s` to `t`: the queue is untouched, canonical form is kept, no fuse is cleared. -/
structure Keeps (s t : State) : Prop where
  pending : t.pending = s.pending
  fuses : Fuses.Burned s.fuses t.fuses
  canon : s.Canon → t.Canon

theorem Fuses.Burned.refl (a : Fuses) : Fuses.Burned a a := ⟨Nat.le_refl _, fun _ h => h, rfl, rfl, rfl⟩

theorem Fuses.Burned.trans {a b c : Fuses} (h : Fuses.Burned a b) (k : Fuses.Burned b c) : Fuses.Burned a c :=
  ⟨h.svn.trans k.svn, fun i hi => k.revoked i (h.revoked i hi), k.secret.trans h.secret, k.keyHash.trans h.keyHash,
    k.roots.trans h.roots⟩

theorem Keeps.refl (s : State) : Keeps s s := ⟨rfl, Fuses.Burned.refl _, fun h => h⟩

theorem Keeps.trans {s t u : State} (h : Keeps s t) (k : Keeps t u) : Keeps s u :=
  ⟨k.pending.trans h.pending, h.fuses.trans k.fuses, fun c => k.canon (h.canon c)⟩

/-- The fields that `Keeps` speaks of. -/
def core (s : State) :=
  (s.pending, s.fuses, s.hbm, s.sheaf, s.seedbed, s.glean, s.hostMem, s.regs, s.pairs, s.streams, s.furrows, s.ctxs, s.dma, s.sems, s.barriers, s.regions, s.coverage, s.queues, s.ports, s.engines, s.serv, s.hbmBad)

/-- An update of fields that `Keeps` does not speak of. -/
theorem keeps_rec {s t u : State} (h : Keeps s t) (e : core u = core t) : Keeps s u := by
  simp only [core, Prod.mk.injEq] at e
  obtain ⟨e0, e1, e2, e3, e4, e5, e6, a0, a1, a2, a3, a4, a5, a6, a7, a8, a9, a10, a11, a12, a13, a14⟩ := e
  refine ⟨e0.trans h.pending, e1 ▸ h.fuses, fun c => ?_⟩
  obtain ⟨c2, c3, c4, c5, c6, b0, b1, b2, b3, b4, b5, b6, b7, b8, b9, b10, b11, b12, b13, b14⟩ := h.canon c
  exact ⟨e2 ▸ c2, e3 ▸ c3, e4 ▸ c4, e5 ▸ c5, e6 ▸ c6, a0 ▸ b0, a1 ▸ b1, a2 ▸ b2, a3 ▸ b3, a4 ▸ b4, a5 ▸ b5, a6 ▸ b6, a7 ▸ b7, a8 ▸ b8, a9 ▸ b9, a10 ▸ b10, a11 ▸ b11, a12 ▸ b12, a13 ▸ b13, a14 ▸ b14⟩

theorem keeps_regs {s t : State} (h : Keeps s t) (v) (hv : Store.Sorted t.regs → Store.Sorted v) :
    Keeps s { t with regs := v } :=
  ⟨h.pending, h.fuses, fun c => { h.canon c with regs := hv (h.canon c).regs }⟩

theorem keeps_pairs {s t : State} (h : Keeps s t) (v) (hv : Store.Sorted t.pairs → Store.Sorted v) :
    Keeps s { t with pairs := v } :=
  ⟨h.pending, h.fuses, fun c => { h.canon c with pairs := hv (h.canon c).pairs }⟩

theorem keeps_streams {s t : State} (h : Keeps s t) (v) (hv : Store.Sorted t.streams → Store.Sorted v) :
    Keeps s { t with streams := v } :=
  ⟨h.pending, h.fuses, fun c => { h.canon c with streams := hv (h.canon c).streams }⟩

theorem keeps_furrows {s t : State} (h : Keeps s t) (v) (hv : Store.Sorted t.furrows → Store.Sorted v) :
    Keeps s { t with furrows := v } :=
  ⟨h.pending, h.fuses, fun c => { h.canon c with furrows := hv (h.canon c).furrows }⟩

theorem keeps_ctxs {s t : State} (h : Keeps s t) (v) (hv : Store.Sorted t.ctxs → Store.Sorted v) :
    Keeps s { t with ctxs := v } :=
  ⟨h.pending, h.fuses, fun c => { h.canon c with ctxs := hv (h.canon c).ctxs }⟩

theorem keeps_dma {s t : State} (h : Keeps s t) (v) (hv : Store.Sorted t.dma → Store.Sorted v) :
    Keeps s { t with dma := v } :=
  ⟨h.pending, h.fuses, fun c => { h.canon c with dma := hv (h.canon c).dma }⟩

theorem keeps_sems {s t : State} (h : Keeps s t) (v) (hv : Store.Sorted t.sems → Store.Sorted v) :
    Keeps s { t with sems := v } :=
  ⟨h.pending, h.fuses, fun c => { h.canon c with sems := hv (h.canon c).sems }⟩

theorem keeps_barriers {s t : State} (h : Keeps s t) (v) (hv : Store.Sorted t.barriers → Store.Sorted v) :
    Keeps s { t with barriers := v } :=
  ⟨h.pending, h.fuses, fun c => { h.canon c with barriers := hv (h.canon c).barriers }⟩

theorem keeps_regions {s t : State} (h : Keeps s t) (v) (hv : Store.Sorted t.regions → Store.Sorted v) :
    Keeps s { t with regions := v } :=
  ⟨h.pending, h.fuses, fun c => { h.canon c with regions := hv (h.canon c).regions }⟩

theorem keeps_coverage {s t : State} (h : Keeps s t) (v) (hv : Store.Sorted t.coverage → Store.Sorted v) :
    Keeps s { t with coverage := v } :=
  ⟨h.pending, h.fuses, fun c => { h.canon c with coverage := hv (h.canon c).coverage }⟩

theorem keeps_queues {s t : State} (h : Keeps s t) (v) (hv : Store.Sorted t.queues → Store.Sorted v) :
    Keeps s { t with queues := v } :=
  ⟨h.pending, h.fuses, fun c => { h.canon c with queues := hv (h.canon c).queues }⟩

theorem keeps_ports {s t : State} (h : Keeps s t) (v) (hv : Store.Sorted t.ports → Store.Sorted v) :
    Keeps s { t with ports := v } :=
  ⟨h.pending, h.fuses, fun c => { h.canon c with ports := hv (h.canon c).ports }⟩

theorem keeps_engines {s t : State} (h : Keeps s t) (v) (hv : Store.Sorted t.engines → Store.Sorted v) :
    Keeps s { t with engines := v } :=
  ⟨h.pending, h.fuses, fun c => { h.canon c with engines := hv (h.canon c).engines }⟩

theorem keeps_serv {s t : State} (h : Keeps s t) (v) (hv : Store.Sorted t.serv → Store.Sorted v) :
    Keeps s { t with serv := v } :=
  ⟨h.pending, h.fuses, fun c => { h.canon c with serv := hv (h.canon c).serv }⟩

theorem keeps_hbmBad {s t : State} (h : Keeps s t) (v) (hv : Store.Sorted t.hbmBad → Store.Sorted v) :
    Keeps s { t with hbmBad := v } :=
  ⟨h.pending, h.fuses, fun c => { h.canon c with hbmBad := hv (h.canon c).hbmBad }⟩

theorem keeps_hbm {s t : State} (h : Keeps s t) (v) (hv : t.hbm.wf granSize → v.wf granSize) : Keeps s { t with hbm := v } :=
  ⟨h.pending, h.fuses, fun c => { h.canon c with hbm := hv (h.canon c).hbm }⟩

theorem keeps_sheaf {s t : State} (h : Keeps s t) (v) (hv : t.sheaf.wf unit64K → v.wf unit64K) : Keeps s { t with sheaf := v } :=
  ⟨h.pending, h.fuses, fun c => { h.canon c with sheaf := hv (h.canon c).sheaf }⟩

theorem keeps_seedbed {s t : State} (h : Keeps s t) (v) (hv : t.seedbed.wf unit64K → v.wf unit64K) : Keeps s { t with seedbed := v } :=
  ⟨h.pending, h.fuses, fun c => { h.canon c with seedbed := hv (h.canon c).seedbed }⟩

theorem keeps_glean {s t : State} (h : Keeps s t) (v) (hv : t.glean.wf gleanUnit → v.wf gleanUnit) : Keeps s { t with glean := v } :=
  ⟨h.pending, h.fuses, fun c => { h.canon c with glean := hv (h.canon c).glean }⟩

theorem keeps_hostMem {s t : State} (h : Keeps s t) (v) (hv : t.hostMem.wf hostUnit → v.wf hostUnit) : Keeps s { t with hostMem := v } :=
  ⟨h.pending, h.fuses, fun c => { h.canon c with hostMem := hv (h.canon c).hostMem }⟩

/-- An update of fields that `Keeps` does not speak of, as the record that it builds. -/
theorem keeps_mk {s t : State} (h : Keeps s t) {x_freeCtr : Nat} {x_now : Nat} {x_rdLatch : Store Word32} {x_wrStage : Store Word32} {x_ifLatch : Store (List Word32)} {x_rdata : BitVec 64} {x_b2data : List Byte} {x_msgs : List (Nat × Nat)} {x_msixOn : Store Unit} {x_msixOpen : Store Unit} {x_msixPend : Store Unit} {x_funcMask : Store Unit} {x_clearing : List Nat} {x_scrubAt : Store Nat} {x_shadows : List ShadowOp} {x_seqRuns : List SeqRun} {x_fences : List (Dom × FPhase)} {x_fcolLog : Store (List Byte)} {x_hangLog : Store (List Byte)} {x_copies : List CopyOp} {x_inbox : List (Nat × Pkt)} {x_flash : Flash} {x_staged : List AlmEntry} {x_heldBack : Store (Option Nat × Nat)} {x_lastMma : Store Nat} {x_sec : SecSt} {x_pwr : PwrSt} {x_clk : ClkSt} {x_mg : MgSt} {x_pins : PinSt} {x_vfs : Nat} {x_bar2Pf : Nat} {x_bar2Vf : Nat} {x_qmLast : Nat} :
    Keeps s ⟨t.pending, x_freeCtr, x_now, t.regs, x_rdLatch, x_wrStage, x_ifLatch, x_rdata, x_b2data, t.hostMem, x_msgs, x_msixOn, x_msixOpen, x_msixPend, x_funcMask, t.hbm, t.hbmBad, x_clearing, x_scrubAt, t.sheaf, t.seedbed, t.glean, t.furrows, t.streams, t.dma, x_shadows, t.sems, t.barriers, x_seqRuns, t.ctxs, t.regions, t.coverage, x_fences, t.pairs, x_fcolLog, x_hangLog, t.queues, x_copies, t.ports, x_inbox, t.engines, t.serv, x_flash, t.fuses, x_staged, x_heldBack, x_lastMma, x_sec, x_pwr, x_clk, x_mg, x_pins, x_vfs, x_bar2Pf, x_bar2Vf, x_qmLast⟩ :=
  keeps_rec h rfl

theorem foldl_keeps_mem {α : Type} {s : State} {f : State → α → State} {l : List α} :
    ∀ {t : State}, (∀ t x, x ∈ l → Keeps s t → Keeps s (f t x)) → Keeps s t → Keeps s (l.foldl f t) := by
  induction l with
  | nil => exact fun _ h => h
  | cons a l ih => exact fun hf h => ih (fun t x hx => hf t x (List.mem_cons_of_mem a hx)) (hf _ _ List.mem_cons_self h)

theorem foldl_keeps {α : Type} {s : State} {f : State → α → State} {l : List α} {t : State}
    (hf : ∀ t x, Keeps s t → Keeps s (f t x)) (h : Keeps s t) : Keeps s (l.foldl f t) :=
  foldl_keeps_mem (fun t x _ => hf t x) h

theorem ite_keeps {s a b : State} {c : Prop} [Decidable c] (ha : Keeps s a) (hb : Keeps s b) : Keeps s (if c then a else b) := by
  split
  · exact ha
  · exact hb

theorem keeps_snd {α : Type} {s b : State} {a : α} {e : α × State} (he : e = (a, b)) (h : Keeps s e.2) : Keeps s b := by
  rw [he] at h
  exact h

theorem keeps_snd2 {α β : Type} {s b : State} {a : α} {c : β} {e : α × β × State} (he : e = (a, c, b)) (h : Keeps s e.2.2) :
    Keeps s b := by
  rw [he] at h
  exact h

theorem sorted_map_snd {α β : Type} {t : Store α} (f : Nat × α → Nat × β) (hf : ∀ e, (f e).1 = e.1) (h : Store.Sorted t) :
    Store.Sorted (t.map f) := by
  refine List.pairwise_map.mpr (h.imp ?_)
  intro a b hab
  rw [hf a, hf b]
  exact hab

theorem sorted_filter {α : Type} {t : Store α} (p : Nat × α → Bool) (h : Store.Sorted t) : Store.Sorted (t.filter p) :=
  List.Pairwise.filter p h

end Sys2Proof.Machine
end

