-- ==== Sys2Proof/Laws/KeepsOps.lean ====
section
/-! SUPPORT. What every shared operation keeps (`Keeps`): one lemma for each. -/

namespace Sys2Proof.Machine

set_option linter.unreachableTactic false
set_option linter.unusedTactic false

theorem State.setReg_keeps {s0 s : State} (hk : Keeps s0 s) (a : Nat) (w : Word32) : Keeps s0 (s.setReg a w) :=
  keeps_regs hk _ fun h => sorted_sputD h _ _ _

theorem State.wf_keeps {s0 s : State} (hk : Keeps s0 s) (l : Loc) (v : Nat) :
    Keeps s0 (State.wf s l v) := by
  unfold State.wf
  try dsimp only
  repeat' first
    | intro _
    | with_reducible exact hk
    | with_reducible apply State.setReg_keeps
    | with_reducible apply ite_keeps
    | with_reducible refine keeps_snd (by assumption) ?_
    | with_reducible refine keeps_snd2 (by assumption) ?_
    | with_reducible assumption
    | split
    | dsimp only

theorem State.bump_keeps {s0 s : State} (hk : Keeps s0 s) (l : Loc) (n : Nat) :
    Keeps s0 (State.bump s l n) := by
  unfold State.bump
  try dsimp only
  repeat' first
    | intro _
    | with_reducible exact hk
    | with_reducible apply State.wf_keeps
    | with_reducible apply ite_keeps
    | with_reducible refine keeps_snd (by assumption) ?_
    | with_reducible refine keeps_snd2 (by assumption) ?_
    | with_reducible assumption
    | split
    | dsimp only

theorem State.bump64_keeps {s0 s : State} (hk : Keeps s0 s) (lo : Loc) (hi : Loc) (n : Nat) :
    Keeps s0 (State.bump64 s lo hi n) := by
  unfold State.bump64
  try dsimp only
  repeat' first
    | intro _
    | with_reducible exact hk
    | with_reducible apply State.wf_keeps
    | with_reducible apply ite_keeps
    | with_reducible refine keeps_snd (by assumption) ?_
    | with_reducible refine keeps_snd2 (by assumption) ?_
    | with_reducible assumption
    | split
    | dsimp only

theorem State.peak_keeps {s0 s : State} (hk : Keeps s0 s) (l : Loc) (v : Nat) :
    Keeps s0 (State.peak s l v) := by
  unfold State.peak
  try dsimp only
  repeat' first
    | intro _
    | with_reducible exact hk
    | with_reducible apply State.wf_keeps
    | with_reducible apply ite_keeps
    | with_reducible refine keeps_snd (by assumption) ?_
    | with_reducible refine keeps_snd2 (by assumption) ?_
    | with_reducible assumption
    | split
    | dsimp only

theorem State.resetPage_keeps {s0 s : State} (hk : Keeps s0 s) (base : Nat) : Keeps s0 (s.resetPage base) :=
  keeps_regs hk _ fun h => sorted_sclear h _ _

theorem State.setCtx_keeps {s0 s : State} (hk : Keeps s0 s) (c : Nat) (x : CtxSt) : Keeps s0 (s.setCtx c x) :=
  keeps_ctxs hk _ fun h => sorted_sputD h _ _ _

theorem State.setFur_keeps {s0 s : State} (hk : Keeps s0 s) (f n : Nat) (x : FurrowSt) : Keeps s0 (s.setFur f n x) :=
  keeps_furrows hk _ fun h => sorted_sputD h _ _ _

theorem State.setStrm_keeps {s0 s : State} (hk : Keeps s0 s) (f n c k : Nat) (x : StreamSt) :
    Keeps s0 (s.setStrm f n c k x) :=
  keeps_streams hk _ fun h => sorted_sputD h _ _ _

theorem State.setDma_keeps {s0 s : State} (hk : Keeps s0 s) (f : Nat) (x : DmaSt) : Keeps s0 (s.setDma f x) :=
  keeps_dma hk _ fun h => sorted_sputD h _ _ _

theorem State.setSem_keeps {s0 s : State} (hk : Keeps s0 s) (f c n v : Nat) : Keeps s0 (s.setSem f c n v) :=
  keeps_sems hk _ fun h => sorted_sputD h _ _ _

theorem State.seedWrite_keeps {s0 s : State} (hk : Keeps s0 s) (f n a : Nat) (bs : List Byte) :
    Keeps s0 (s.seedWrite f n a bs) :=
  keeps_seedbed hk _ fun h => Memory.wf_writeN _ _ h

theorem State.sheafWrite_keeps {s0 s : State} (hk : Keeps s0 s) (f a : Nat) (bs : List Byte) :
    Keeps s0 (s.sheafWrite f a bs) :=
  keeps_sheaf hk _ fun h => Memory.wf_writeN _ _ h

theorem State.gleanSet_keeps {s0 s : State} (hk : Keeps s0 s) (f n e : Nat) (x : Word32 × Word32) :
    Keeps s0 (s.gleanSet f n e x) :=
  keeps_glean hk _ fun h => Memory.wf_writeN _ _ h

theorem State.setPair_keeps {s0 s : State} (hk : Keeps s0 s) (k : Nat) (x : PairSt) : Keeps s0 (s.setPair k x) :=
  keeps_pairs hk _ fun h => sorted_sputD h _ _ _

theorem State.errWords_keeps {s0 s : State} (hk : Keeps s0 s) (page : Nat) (bit : Nat) :
    Keeps s0 (State.errWords s page bit) := by
  unfold State.errWords
  try dsimp only
  repeat' first
    | intro _
    | with_reducible exact hk
    | with_reducible apply State.bump_keeps
    | with_reducible apply State.wf_keeps
    | with_reducible apply ite_keeps
    | with_reducible refine keeps_snd (by assumption) ?_
    | with_reducible refine keeps_snd2 (by assumption) ?_
    | with_reducible assumption
    | split
    | dsimp only

theorem State.raisePair_keeps {s0 s : State} (hk : Keeps s0 s) (page : Nat) (bit : Nat) (forced : Bool) :
    Keeps s0 (State.raisePair s page bit forced) := by
  unfold State.raisePair
  try dsimp only
  repeat' first
    | intro _
    | with_reducible exact hk
    | with_reducible apply State.setPair_keeps
    | with_reducible apply ite_keeps
    | with_reducible refine keeps_snd (by assumption) ?_
    | with_reducible refine keeps_snd2 (by assumption) ?_
    | with_reducible assumption
    | split
    | dsimp only
    | with_reducible apply keeps_mk

theorem State.raiseSrc_keeps {s0 s : State} (hk : Keeps s0 s) (page : Nat) (bit : Nat) :
    Keeps s0 (State.raiseSrc s page bit) := by
  unfold State.raiseSrc
  try dsimp only
  repeat' first
    | intro _
    | with_reducible exact hk
    | with_reducible apply State.raisePair_keeps
    | with_reducible apply State.errWords_keeps
    | with_reducible apply ite_keeps
    | with_reducible refine keeps_snd (by assumption) ?_
    | with_reducible refine keeps_snd2 (by assumption) ?_
    | with_reducible assumption
    | split
    | dsimp only

theorem State.raiseFor_keeps {s0 s : State} (hk : Keeps s0 s) (page : Nat) (bit : Nat) (c : Option Nat) :
    Keeps s0 (State.raiseFor s page bit c) := by
  unfold State.raiseFor
  try dsimp only
  repeat' first
    | intro _
    | with_reducible exact hk
    | with_reducible apply State.setPair_keeps
    | with_reducible apply State.raiseSrc_keeps
    | with_reducible apply ite_keeps
    | with_reducible refine keeps_snd (by assumption) ?_
    | with_reducible refine keeps_snd2 (by assumption) ?_
    | with_reducible assumption
    | split
    | dsimp only
    | with_reducible apply keeps_mk

theorem State.condEvent_keeps {s0 s : State} (hk : Keeps s0 s) (page : Nat) (bit : Nat) :
    Keeps s0 (State.condEvent s page bit) := by
  unfold State.condEvent
  try dsimp only
  repeat' first
    | intro _
    | with_reducible exact hk
    | with_reducible apply State.setPair_keeps
    | with_reducible apply State.raiseSrc_keeps
    | with_reducible apply ite_keeps
    | with_reducible refine keeps_snd (by assumption) ?_
    | with_reducible refine keeps_snd2 (by assumption) ?_
    | with_reducible assumption
    | split
    | dsimp only
    | with_reducible apply keeps_mk

theorem State.raiseCond_keeps {s0 s : State} (hk : Keeps s0 s) (page : Nat) (bit : Nat) :
    Keeps s0 (State.raiseCond s page bit) := by
  unfold State.raiseCond
  try dsimp only
  repeat' first
    | intro _
    | with_reducible exact hk
    | with_reducible apply State.condEvent_keeps
    | with_reducible apply ite_keeps
    | with_reducible refine keeps_snd (by assumption) ?_
    | with_reducible refine keeps_snd2 (by assumption) ?_
    | with_reducible assumption
    | split
    | dsimp only

theorem State.dropCond_keeps {s0 s : State} (hk : Keeps s0 s) (page : Nat) (bit : Nat) :
    Keeps s0 (State.dropCond s page bit) := by
  unfold State.dropCond
  try dsimp only
  repeat' first
    | intro _
    | with_reducible exact hk
    | with_reducible apply State.setPair_keeps
    | with_reducible apply ite_keeps
    | with_reducible refine keeps_snd (by assumption) ?_
    | with_reducible refine keeps_snd2 (by assumption) ?_
    | with_reducible assumption
    | split
    | dsimp only
    | with_reducible apply keeps_mk

theorem State.sendMsg_keeps {s0 s : State} (hk : Keeps s0 s) (func : Nat) (vec : Nat) :
    Keeps s0 (State.sendMsg s func vec) := by
  unfold State.sendMsg
  try dsimp only
  repeat' first
    | intro _
    | with_reducible exact hk
    | with_reducible apply ite_keeps
    | with_reducible refine keeps_snd (by assumption) ?_
    | with_reducible refine keeps_snd2 (by assumption) ?_
    | with_reducible assumption
    | split
    | dsimp only
    | with_reducible apply keeps_mk

theorem State.sendVector0_keeps {s0 s : State} (hk : Keeps s0 s) :
    Keeps s0 (State.sendVector0 s) := by
  unfold State.sendVector0
  try dsimp only
  repeat' first
    | intro _
    | with_reducible exact hk
    | with_reducible apply State.sendMsg_keeps
    | with_reducible refine foldl_keeps ?_ ?_
    | with_reducible apply ite_keeps
    | with_reducible refine keeps_snd (by assumption) ?_
    | with_reducible refine keeps_snd2 (by assumption) ?_
    | with_reducible assumption
    | split
    | dsimp only

theorem State.ctxEvent_keeps {s0 s : State} (hk : Keeps s0 s) (c : Nat) (bit : Nat) :
    Keeps s0 (State.ctxEvent s c bit) := by
  unfold State.ctxEvent
  try dsimp only
  repeat' first
    | intro _
    | with_reducible exact hk
    | with_reducible apply State.wf_keeps
    | with_reducible apply State.sendMsg_keeps
    | with_reducible apply ite_keeps
    | with_reducible refine keeps_snd (by assumption) ?_
    | with_reducible refine keeps_snd2 (by assumption) ?_
    | with_reducible assumption
    | split
    | dsimp only

theorem State.blockCause_keeps {s0 s : State} (hk : Keeps s0 s) (c : Nat) (bit : Nat) :
    Keeps s0 (State.blockCause s c bit) := by
  unfold State.blockCause
  try dsimp only
  repeat' first
    | intro _
    | with_reducible exact hk
    | with_reducible apply State.wf_keeps
    | with_reducible apply ite_keeps
    | with_reducible refine keeps_snd (by assumption) ?_
    | with_reducible refine keeps_snd2 (by assumption) ?_
    | with_reducible assumption
    | split
    | dsimp only

theorem State.endFence_keeps {s0 s : State} (hk : Keeps s0 s) (d : Dom) :
    Keeps s0 (State.endFence s d) := by
  unfold State.endFence
  try dsimp only
  repeat' first
    | intro _
    | with_reducible exact hk
    | with_reducible apply ite_keeps
    | with_reducible refine keeps_snd (by assumption) ?_
    | with_reducible refine keeps_snd2 (by assumption) ?_
    | with_reducible assumption
    | split
    | dsimp only
    | with_reducible apply keeps_mk

theorem State.accErr_keeps {s0 s : State} (hk : Keeps s0 s) (func : Nat) (bar : Nat) (write : Bool) (kind : Nat) (off
    : Nat) :
    Keeps s0 (State.accErr s func bar write kind off) := by
  unfold State.accErr
  try dsimp only
  repeat' first
    | intro _
    | with_reducible exact hk
    | with_reducible apply State.bump_keeps
    | with_reducible apply State.wf_keeps
    | with_reducible apply State.raiseSrc_keeps
    | with_reducible apply ite_keeps
    | with_reducible refine keeps_snd (by assumption) ?_
    | with_reducible refine keeps_snd2 (by assumption) ?_
    | with_reducible assumption
    | split
    | dsimp only

theorem State.hostWrite_keeps {s0 s : State} (hk : Keeps s0 s) (func a : Nat) (bs : List Byte) :
    Keeps s0 (s.hostWrite func a bs) :=
  keeps_hostMem hk _ fun h => Memory.wf_writeN _ _ h

theorem State.fresh_keeps {s0 s : State} (hk : Keeps s0 s) :
    Keeps s0 (State.fresh s).2 := by
  unfold State.fresh
  try dsimp only
  repeat' first
    | intro _
    | with_reducible exact hk
    | with_reducible apply ite_keeps
    | with_reducible refine keeps_snd (by assumption) ?_
    | with_reducible refine keeps_snd2 (by assumption) ?_
    | with_reducible assumption
    | split
    | dsimp only
    | with_reducible apply keeps_mk

theorem State.verdict_keeps {s0 s : State} (hk : Keeps s0 s) (x : Option Bool) :
    Keeps s0 (State.verdict s x).2 := by
  unfold State.verdict
  try dsimp only
  repeat' first
    | intro _
    | with_reducible exact hk
    | with_reducible apply State.fresh_keeps
    | with_reducible apply ite_keeps
    | with_reducible refine keeps_snd (by assumption) ?_
    | with_reducible refine keeps_snd2 (by assumption) ?_
    | with_reducible assumption
    | split
    | dsimp only
    | with_reducible apply keeps_mk

theorem State.freeBytes_keeps {s0 s : State} (hk : Keeps s0 s) (n : Nat) :
    Keeps s0 (State.freeBytes s n).2 := by
  unfold State.freeBytes
  try dsimp only
  repeat' first
    | intro _
    | with_reducible exact hk
    | with_reducible apply State.fresh_keeps
    | with_reducible apply ite_keeps
    | with_reducible refine keeps_snd (by assumption) ?_
    | with_reducible refine keeps_snd2 (by assumption) ?_
    | with_reducible assumption
    | split
    | dsimp only

theorem State.measured_keeps {s0 s : State} (hk : Keeps s0 s) (m : Option Meas) :
    Keeps s0 (State.measured s m).2 := by
  unfold State.measured
  try dsimp only
  repeat' first
    | intro _
    | with_reducible exact hk
    | with_reducible apply State.fresh_keeps
    | with_reducible apply ite_keeps
    | with_reducible refine keeps_snd (by assumption) ?_
    | with_reducible refine keeps_snd2 (by assumption) ?_
    | with_reducible assumption
    | split
    | dsimp only
    | with_reducible apply keeps_mk

theorem State.setPll_keeps {s0 s : State} (hk : Keeps s0 s) (i : Nat) (st : Nat) :
    Keeps s0 (State.setPll s i st) := by
  unfold State.setPll
  try dsimp only
  repeat' first
    | intro _
    | with_reducible exact hk
    | with_reducible apply State.wf_keeps
    | with_reducible apply ite_keeps
    | with_reducible refine keeps_snd (by assumption) ?_
    | with_reducible refine keeps_snd2 (by assumption) ?_
    | with_reducible assumption
    | split
    | dsimp only

theorem State.startPll_keeps {s0 s : State} (hk : Keeps s0 s) (i : Nat) :
    Keeps s0 (State.startPll s i) := by
  unfold State.startPll
  try dsimp only
  repeat' first
    | intro _
    | with_reducible exact hk
    | with_reducible apply State.setPll_keeps
    | with_reducible apply ite_keeps
    | with_reducible refine keeps_snd (by assumption) ?_
    | with_reducible refine keeps_snd2 (by assumption) ?_
    | with_reducible assumption
    | split
    | dsimp only

theorem State.stopPll_keeps {s0 s : State} (hk : Keeps s0 s) (i : Nat) :
    Keeps s0 (State.stopPll s i) := by
  unfold State.stopPll
  try dsimp only
  repeat' first
    | intro _
    | with_reducible exact hk
    | with_reducible apply State.setPll_keeps
    | with_reducible apply ite_keeps
    | with_reducible refine keeps_snd (by assumption) ?_
    | with_reducible refine keeps_snd2 (by assumption) ?_
    | with_reducible assumption
    | split
    | dsimp only

theorem State.setPort_keeps {s0 s : State} (hk : Keeps s0 s) (p : Nat) (x : PortSt) : Keeps s0 (s.setPort p x) :=
  keeps_ports hk _ fun h => sorted_sputD h _ _ _

theorem State.goPhase_keeps {s0 s : State} (hk : Keeps s0 s) (p : Nat) (st : Nat) :
    Keeps s0 (State.goPhase s p st) := by
  unfold State.goPhase
  try dsimp only
  repeat' first
    | intro _
    | with_reducible exact hk
    | with_reducible apply State.setPort_keeps
    | with_reducible apply State.wf_keeps
    | with_reducible apply ite_keeps
    | with_reducible refine keeps_snd (by assumption) ?_
    | with_reducible refine keeps_snd2 (by assumption) ?_
    | with_reducible assumption
    | split
    | dsimp only
    | with_reducible apply keeps_mk

theorem State.dropPkt_keeps {s0 s : State} (hk : Keeps s0 s) (p : Nat) (x : Pkt) (cause : Nat) :
    Keeps s0 (State.dropPkt s p x cause) := by
  unfold State.dropPkt
  try dsimp only
  repeat' first
    | intro _
    | with_reducible exact hk
    | with_reducible apply State.bump_keeps
    | with_reducible apply State.wf_keeps
    | with_reducible apply State.raiseSrc_keeps
    | with_reducible apply ite_keeps
    | with_reducible refine keeps_snd (by assumption) ?_
    | with_reducible refine keeps_snd2 (by assumption) ?_
    | with_reducible assumption
    | split
    | dsimp only

theorem State.pushOut_keeps {s0 s : State} (hk : Keeps s0 s) (o : Nat) (x : OutPkt) :
    Keeps s0 (State.pushOut s o x) := by
  unfold State.pushOut
  try dsimp only
  repeat' first
    | intro _
    | with_reducible exact hk
    | with_reducible apply State.setPort_keeps
    | with_reducible apply ite_keeps
    | with_reducible refine keeps_snd (by assumption) ?_
    | with_reducible refine keeps_snd2 (by assumption) ?_
    | with_reducible assumption
    | split
    | dsimp only
    | with_reducible apply keeps_mk

theorem State.sendPkt_keeps {s0 s : State} (hk : Keeps s0 s) (f : Nat) (x : Pkt) :
    Keeps s0 (State.sendPkt s f x) := by
  unfold State.sendPkt
  try dsimp only
  repeat' first
    | intro _
    | with_reducible exact hk
    | with_reducible apply State.dropPkt_keeps
    | with_reducible apply State.pushOut_keeps
    | with_reducible apply ite_keeps
    | with_reducible refine keeps_snd (by assumption) ?_
    | with_reducible refine keeps_snd2 (by assumption) ?_
    | with_reducible assumption
    | split
    | dsimp only
    | with_reducible apply keeps_mk

theorem State.cutThrough_keeps {s0 s : State} (hk : Keeps s0 s) (p : Nat) :
    Keeps s0 (State.cutThrough s p) := by
  unfold State.cutThrough
  try dsimp only
  repeat' first
    | intro _
    | with_reducible exact hk
    | with_reducible apply State.setPort_keeps
    | with_reducible refine foldl_keeps ?_ ?_
    | with_reducible apply ite_keeps
    | with_reducible refine keeps_snd (by assumption) ?_
    | with_reducible refine keeps_snd2 (by assumption) ?_
    | with_reducible assumption
    | split
    | dsimp only
    | with_reducible apply keeps_mk

theorem State.freeRx_keeps {s0 s : State} (hk : Keeps s0 s) (p : Nat) (buf : Nat) (len : Nat) :
    Keeps s0 (State.freeRx s p buf len) := by
  unfold State.freeRx
  try dsimp only
  repeat' first
    | intro _
    | with_reducible exact hk
    | with_reducible apply State.setPort_keeps
    | with_reducible apply ite_keeps
    | with_reducible refine keeps_snd (by assumption) ?_
    | with_reducible refine keeps_snd2 (by assumption) ?_
    | with_reducible assumption
    | split
    | dsimp only
    | with_reducible apply keeps_mk

theorem State.discardOut_keeps {s0 s : State} (hk : Keeps s0 s) (x : OutPkt) :
    Keeps s0 (State.discardOut s x) := by
  unfold State.discardOut
  try dsimp only
  repeat' first
    | intro _
    | with_reducible exact hk
    | with_reducible apply State.setPort_keeps
    | with_reducible apply State.freeRx_keeps
    | with_reducible apply ite_keeps
    | with_reducible refine keeps_snd (by assumption) ?_
    | with_reducible refine keeps_snd2 (by assumption) ?_
    | with_reducible assumption
    | split
    | dsimp only
    | with_reducible apply keeps_mk

theorem State.portDown_keeps {s0 s : State} (hk : Keeps s0 s) (p : Nat) (st : Nat) :
    Keeps s0 (State.portDown s p st) := by
  unfold State.portDown
  try dsimp only
  repeat' first
    | intro _
    | with_reducible exact hk
    | with_reducible apply State.cutThrough_keeps
    | with_reducible apply State.setPort_keeps
    | with_reducible apply State.discardOut_keeps
    | with_reducible apply State.stopPll_keeps
    | with_reducible apply State.wf_keeps
    | with_reducible refine foldl_keeps ?_ ?_
    | with_reducible apply ite_keeps
    | with_reducible refine keeps_snd (by assumption) ?_
    | with_reducible refine keeps_snd2 (by assumption) ?_
    | with_reducible assumption
    | split
    | dsimp only

theorem State.portFail_keeps {s0 s : State} (hk : Keeps s0 s) (p : Nat) (bit : Nat) :
    Keeps s0 (State.portFail s p bit) := by
  unfold State.portFail
  try dsimp only
  repeat' first
    | intro _
    | with_reducible exact hk
    | with_reducible apply State.portDown_keeps
    | with_reducible apply State.raiseSrc_keeps
    | with_reducible apply ite_keeps
    | with_reducible refine keeps_snd (by assumption) ?_
    | with_reducible refine keeps_snd2 (by assumption) ?_
    | with_reducible assumption
    | split
    | dsimp only

theorem State.enterRetrain_keeps {s0 s : State} (hk : Keeps s0 s) (p : Nat) :
    Keeps s0 (State.enterRetrain s p) := by
  unfold State.enterRetrain
  try dsimp only
  repeat' first
    | intro _
    | with_reducible exact hk
    | with_reducible apply State.setPort_keeps
    | with_reducible apply State.bump_keeps
    | with_reducible apply State.wf_keeps
    | with_reducible apply State.raiseSrc_keeps
    | with_reducible apply ite_keeps
    | with_reducible refine keeps_snd (by assumption) ?_
    | with_reducible refine keeps_snd2 (by assumption) ?_
    | with_reducible assumption
    | split
    | dsimp only
    | with_reducible apply keeps_mk

theorem State.fencePort_keeps {s0 s : State} (hk : Keeps s0 s) (p : Nat) :
    Keeps s0 (State.fencePort s p) := by
  unfold State.fencePort
  try dsimp only
  repeat' first
    | intro _
    | with_reducible exact hk
    | with_reducible apply State.portDown_keeps
    | with_reducible apply State.wf_keeps
    | with_reducible apply ite_keeps
    | with_reducible refine keeps_snd (by assumption) ?_
    | with_reducible refine keeps_snd2 (by assumption) ?_
    | with_reducible assumption
    | split
    | dsimp only
    | with_reducible apply keeps_mk

theorem State.beginFence_keeps {s0 s : State} (hk : Keeps s0 s) (d : Dom) :
    Keeps s0 (State.beginFence s d) := by
  unfold State.beginFence
  try dsimp only
  repeat' first
    | intro _
    | with_reducible exact hk
    | with_reducible apply ite_keeps
    | with_reducible refine keeps_snd (by assumption) ?_
    | with_reducible refine keeps_snd2 (by assumption) ?_
    | with_reducible assumption
    | split
    | dsimp only
    | with_reducible apply keeps_mk

theorem State.fenceField_keeps {s0 s : State} (hk : Keeps s0 s) (f : Nat) :
    Keeps s0 (State.fenceField s f) := by
  unfold State.fenceField
  try dsimp only
  repeat' first
    | intro _
    | with_reducible exact hk
    | with_reducible apply State.blockCause_keeps
    | with_reducible apply State.fencePort_keeps
    | with_reducible apply State.beginFence_keeps
    | with_reducible refine foldl_keeps ?_ ?_
    | with_reducible apply ite_keeps
    | with_reducible refine keeps_snd (by assumption) ?_
    | with_reducible refine keeps_snd2 (by assumption) ?_
    | with_reducible assumption
    | split
    | dsimp only

theorem State.fenceAll_keeps {s0 s : State} (hk : Keeps s0 s) :
    Keeps s0 (State.fenceAll s) := by
  unfold State.fenceAll
  try dsimp only
  repeat' first
    | intro _
    | with_reducible exact hk
    | with_reducible apply State.fenceField_keeps
    | with_reducible apply State.fencePort_keeps
    | with_reducible refine foldl_keeps ?_ ?_
    | with_reducible apply ite_keeps
    | with_reducible refine keeps_snd (by assumption) ?_
    | with_reducible refine keeps_snd2 (by assumption) ?_
    | with_reducible assumption
    | split
    | dsimp only

theorem State.deviceFatal_keeps {s0 s : State} (hk : Keeps s0 s) :
    Keeps s0 (State.deviceFatal s) := by
  unfold State.deviceFatal
  try dsimp only
  repeat' first
    | intro _
    | with_reducible exact hk
    | with_reducible apply State.sendVector0_keeps
    | with_reducible apply State.fenceAll_keeps
    | with_reducible apply State.wf_keeps
    | with_reducible apply ite_keeps
    | with_reducible refine keeps_snd (by assumption) ?_
    | with_reducible refine keeps_snd2 (by assumption) ?_
    | with_reducible assumption
    | split
    | dsimp only

theorem State.raiseFatal_keeps {s0 s : State} (hk : Keeps s0 s) (page : Nat) (bit : Nat) :
    Keeps s0 (State.raiseFatal s page bit) := by
  unfold State.raiseFatal
  try dsimp only
  repeat' first
    | intro _
    | with_reducible exact hk
    | with_reducible apply State.deviceFatal_keeps
    | with_reducible apply State.raiseSrc_keeps
    | with_reducible apply ite_keeps
    | with_reducible refine keeps_snd (by assumption) ?_
    | with_reducible refine keeps_snd2 (by assumption) ?_
    | with_reducible assumption
    | split
    | dsimp only

theorem State.settleKeys_keeps {s0 s : State} (hk : Keeps s0 s) (p : Nat) :
    Keeps s0 (State.settleKeys s p) := by
  unfold State.settleKeys
  try dsimp only
  repeat' first
    | intro _
    | with_reducible exact hk
    | with_reducible apply State.setPort_keeps
    | with_reducible apply State.wf_keeps
    | with_reducible apply ite_keeps
    | with_reducible refine keeps_snd (by assumption) ?_
    | with_reducible refine keeps_snd2 (by assumption) ?_
    | with_reducible assumption
    | split
    | dsimp only
    | with_reducible apply keeps_mk

theorem State.forwardSlot_keeps {s0 s : State} (hk : Keeps s0 s) (p : Nat) (o : Nat) (bs : List Byte) :
    Keeps s0 (State.forwardSlot s p o bs) := by
  unfold State.forwardSlot
  try dsimp only
  repeat' first
    | intro _
    | with_reducible exact hk
    | with_reducible apply State.setPort_keeps
    | with_reducible apply ite_keeps
    | with_reducible refine keeps_snd (by assumption) ?_
    | with_reducible refine keeps_snd2 (by assumption) ?_
    | with_reducible assumption
    | split
    | dsimp only
    | with_reducible apply keeps_mk

theorem State.releaseLast_keeps {s0 s : State} (hk : Keeps s0 s) (p : Nat) (abort : Bool) :
    Keeps s0 (State.releaseLast s p abort) := by
  unfold State.releaseLast
  try dsimp only
  repeat' first
    | intro _
    | with_reducible exact hk
    | with_reducible apply State.setPort_keeps
    | with_reducible apply ite_keeps
    | with_reducible refine keeps_snd (by assumption) ?_
    | with_reducible refine keeps_snd2 (by assumption) ?_
    | with_reducible assumption
    | split
    | dsimp only
    | with_reducible apply keeps_mk

theorem State.headerIn_keeps {s0 s : State} (hk : Keeps s0 s) (p : Nat) :
    Keeps s0 (State.headerIn s p) := by
  unfold State.headerIn
  try dsimp only
  repeat' first
    | intro _
    | with_reducible exact hk
    | with_reducible apply State.setPort_keeps
    | with_reducible apply State.dropPkt_keeps
    | with_reducible apply State.portFail_keeps
    | with_reducible apply ite_keeps
    | with_reducible refine keeps_snd (by assumption) ?_
    | with_reducible refine keeps_snd2 (by assumption) ?_
    | with_reducible assumption
    | split
    | dsimp only
    | with_reducible apply keeps_mk

theorem State.finishAsm_keeps {s0 s : State} (hk : Keeps s0 s) (p : Nat) :
    Keeps s0 (State.finishAsm s p) := by
  unfold State.finishAsm
  try dsimp only
  repeat' first
    | intro _
    | with_reducible exact hk
    | with_reducible apply State.setPort_keeps
    | with_reducible apply State.freeRx_keeps
    | with_reducible apply ite_keeps
    | with_reducible refine keeps_snd (by assumption) ?_
    | with_reducible refine keeps_snd2 (by assumption) ?_
    | with_reducible assumption
    | split
    | dsimp only
    | with_reducible apply keeps_mk

theorem State.slotIn_keeps {s0 s : State} (hk : Keeps s0 s) (p : Nat) (bs : List Byte) :
    Keeps s0 (State.slotIn s p bs) := by
  unfold State.slotIn
  try dsimp only
  repeat' first
    | intro _
    | with_reducible exact hk
    | with_reducible apply State.finishAsm_keeps
    | with_reducible apply State.setPort_keeps
    | with_reducible apply State.dropPkt_keeps
    | with_reducible apply State.portFail_keeps
    | with_reducible apply State.forwardSlot_keeps
    | with_reducible apply State.releaseLast_keeps
    | with_reducible apply State.headerIn_keeps
    | with_reducible apply ite_keeps
    | with_reducible refine keeps_snd (by assumption) ?_
    | with_reducible refine keeps_snd2 (by assumption) ?_
    | with_reducible assumption
    | split
    | dsimp only
    | with_reducible apply keeps_mk

theorem State.flitArrives_keeps {s0 s : State} (hk : Keeps s0 s) (p : Nat) (x : FlitIn) :
    Keeps s0 (State.flitArrives s p x) := by
  unfold State.flitArrives
  try dsimp only
  repeat' first
    | intro _
    | with_reducible exact hk
    | with_reducible apply State.setPort_keeps
    | with_reducible apply State.bump_keeps
    | with_reducible apply ite_keeps
    | with_reducible refine keeps_snd (by assumption) ?_
    | with_reducible refine keeps_snd2 (by assumption) ?_
    | with_reducible assumption
    | split
    | dsimp only
    | with_reducible apply keeps_mk

theorem recvFlit_keeps {s0 s : State} (hk : Keeps s0 s) (p : Nat) (k : Nat) (x : FlitIn) (take : State → State) (htake
    : ∀ t, Keeps s0 t → Keeps s0 (take t)) :
    Keeps s0 (recvFlit p k x take s) := by
  unfold recvFlit
  try dsimp only
  repeat' first
    | intro _
    | with_reducible exact hk
    | with_reducible apply State.settleKeys_keeps
    | with_reducible apply State.setPort_keeps
    | with_reducible apply State.portFail_keeps
    | with_reducible apply State.flitArrives_keeps
    | with_reducible apply htake
    | with_reducible apply ite_keeps
    | with_reducible refine keeps_snd (by assumption) ?_
    | with_reducible refine keeps_snd2 (by assumption) ?_
    | with_reducible assumption
    | split
    | dsimp only

theorem State.takeData_keeps {s0 s : State} (hk : Keeps s0 s) (p : Nat) (x : FlitIn) :
    Keeps s0 (State.takeData s p x) := by
  unfold State.takeData
  try dsimp only
  repeat' first
    | intro _
    | with_reducible exact hk
    | with_reducible apply State.setPort_keeps
    | with_reducible apply State.bump64_keeps
    | with_reducible apply State.slotIn_keeps
    | with_reducible refine foldl_keeps ?_ ?_
    | with_reducible apply ite_keeps
    | with_reducible refine keeps_snd (by assumption) ?_
    | with_reducible refine keeps_snd2 (by assumption) ?_
    | with_reducible assumption
    | split
    | dsimp only
    | with_reducible apply keeps_mk

theorem State.takeNak_keeps {s0 s : State} (hk : Keeps s0 s) (p : Nat) (x : FlitIn) :
    Keeps s0 (State.takeNak s p x) := by
  unfold State.takeNak
  try dsimp only
  repeat' first
    | intro _
    | with_reducible exact hk
    | with_reducible apply State.setPort_keeps
    | with_reducible apply State.enterRetrain_keeps
    | with_reducible apply ite_keeps
    | with_reducible refine keeps_snd (by assumption) ?_
    | with_reducible refine keeps_snd2 (by assumption) ?_
    | with_reducible assumption
    | split
    | dsimp only
    | with_reducible apply keeps_mk

theorem State.routeHead_keeps {s0 s : State} (hk : Keeps s0 s) (p : Nat) (ns : Nat) :
    Keeps s0 (State.routeHead s p ns) := by
  unfold State.routeHead
  try dsimp only
  repeat' first
    | intro _
    | with_reducible exact hk
    | with_reducible apply State.setPort_keeps
    | with_reducible apply State.dropPkt_keeps
    | with_reducible apply State.freeRx_keeps
    | with_reducible apply State.pushOut_keeps
    | with_reducible apply ite_keeps
    | with_reducible refine keeps_snd (by assumption) ?_
    | with_reducible refine keeps_snd2 (by assumption) ?_
    | with_reducible assumption
    | split
    | dsimp only
    | with_reducible apply keeps_mk

theorem State.countAbort_keeps {s0 s : State} (hk : Keeps s0 s) (p : Nat) :
    Keeps s0 (State.countAbort s p) := by
  unfold State.countAbort
  try dsimp only
  repeat' first
    | intro _
    | with_reducible exact hk
    | with_reducible apply State.bump_keeps
    | with_reducible apply State.raiseSrc_keeps
    | with_reducible apply ite_keeps
    | with_reducible refine keeps_snd (by assumption) ?_
    | with_reducible refine keeps_snd2 (by assumption) ?_
    | with_reducible assumption
    | split
    | dsimp only

theorem State.truncHead_keeps {s0 s : State} (hk : Keeps s0 s) (p : Nat) (ns : Nat) (x : Pkt) :
    Keeps s0 (State.truncHead s p ns x) := by
  unfold State.truncHead
  try dsimp only
  repeat' first
    | intro _
    | with_reducible exact hk
    | with_reducible apply State.dropPkt_keeps
    | with_reducible apply State.freeRx_keeps
    | with_reducible apply State.pushOut_keeps
    | with_reducible apply ite_keeps
    | with_reducible refine keeps_snd (by assumption) ?_
    | with_reducible refine keeps_snd2 (by assumption) ?_
    | with_reducible assumption
    | split
    | dsimp only
    | with_reducible apply keeps_mk

theorem State.emit_keeps {s0 s : State} (hk : Keeps s0 s) (p : Nat) (hdr : Nat) (body : List Byte) :
    Keeps s0 (State.emit s p hdr body) := by
  unfold State.emit
  try dsimp only
  repeat' first
    | intro _
    | with_reducible exact hk
    | with_reducible apply State.setPort_keeps
    | with_reducible apply ite_keeps
    | with_reducible refine keeps_snd (by assumption) ?_
    | with_reducible refine keeps_snd2 (by assumption) ?_
    | with_reducible assumption
    | split
    | dsimp only
    | with_reducible apply keeps_mk

theorem State.emitData_keeps {s0 s : State} (hk : Keeps s0 s) (p : Nat) (body : List Byte) (cbuf : Nat) (cc : Nat) :
    Keeps s0 (State.emitData s p body cbuf cc) := by
  unfold State.emitData
  try dsimp only
  repeat' first
    | intro _
    | with_reducible exact hk
    | with_reducible apply State.setPort_keeps
    | with_reducible apply State.bump64_keeps
    | with_reducible apply State.emit_keeps
    | with_reducible apply ite_keeps
    | with_reducible refine keeps_snd (by assumption) ?_
    | with_reducible refine keeps_snd2 (by assumption) ?_
    | with_reducible assumption
    | split
    | dsimp only
    | with_reducible apply keeps_mk

theorem State.newFlit_keeps {s0 s : State} (hk : Keeps s0 s) (p : Nat) :
    Keeps s0 (State.newFlit s p) := by
  unfold State.newFlit
  try dsimp only
  repeat' first
    | intro _
    | with_reducible exact hk
    | with_reducible apply State.setPort_keeps
    | with_reducible apply State.countAbort_keeps
    | with_reducible apply State.freeRx_keeps
    | with_reducible apply State.emit_keeps
    | with_reducible apply State.emitData_keeps
    | with_reducible refine foldl_keeps ?_ ?_
    | with_reducible apply ite_keeps
    | with_reducible refine keeps_snd (by assumption) ?_
    | with_reducible refine keeps_snd2 (by assumption) ?_
    | with_reducible assumption
    | split
    | dsimp only
    | with_reducible apply keeps_mk

theorem State.sendKeyon_keeps {s0 s : State} (hk : Keeps s0 s) (p : Nat) (n : Nat) :
    Keeps s0 (State.sendKeyon s p n) := by
  unfold State.sendKeyon
  try dsimp only
  repeat' first
    | intro _
    | with_reducible exact hk
    | with_reducible apply State.settleKeys_keeps
    | with_reducible apply State.setPort_keeps
    | with_reducible apply State.emit_keeps
    | with_reducible apply ite_keeps
    | with_reducible refine keeps_snd (by assumption) ?_
    | with_reducible refine keeps_snd2 (by assumption) ?_
    | with_reducible assumption
    | split
    | dsimp only
    | with_reducible apply keeps_mk

theorem State.resendFlit_keeps {s0 s : State} (hk : Keeps s0 s) (p : Nat) (r : RFlit) :
    Keeps s0 (State.resendFlit s p r) := by
  unfold State.resendFlit
  try dsimp only
  repeat' first
    | intro _
    | with_reducible exact hk
    | with_reducible apply State.setPort_keeps
    | with_reducible apply State.bump_keeps
    | with_reducible apply State.bump64_keeps
    | with_reducible apply State.emit_keeps
    | with_reducible apply State.raiseSrc_keeps
    | with_reducible apply ite_keeps
    | with_reducible refine keeps_snd (by assumption) ?_
    | with_reducible refine keeps_snd2 (by assumption) ?_
    | with_reducible assumption
    | split
    | dsimp only
    | with_reducible apply keeps_mk

theorem State.sendFresh_keeps {s0 s : State} (hk : Keeps s0 s) (p : Nat) :
    Keeps s0 (State.sendFresh s p) := by
  unfold State.sendFresh
  try dsimp only
  repeat' first
    | intro _
    | with_reducible exact hk
    | with_reducible apply State.setPort_keeps
    | with_reducible apply State.sendKeyon_keeps
    | with_reducible apply State.newFlit_keeps
    | with_reducible apply State.emit_keeps
    | with_reducible apply State.emitData_keeps
    | with_reducible apply ite_keeps
    | with_reducible refine keeps_snd (by assumption) ?_
    | with_reducible refine keeps_snd2 (by assumption) ?_
    | with_reducible assumption
    | split
    | dsimp only
    | with_reducible apply keeps_mk

theorem State.enterDetect_keeps {s0 s : State} (hk : Keeps s0 s) (p : Nat) :
    Keeps s0 (State.enterDetect s p) := by
  unfold State.enterDetect
  try dsimp only
  repeat' first
    | intro _
    | with_reducible exact hk
    | with_reducible apply State.startPll_keeps
    | with_reducible apply State.goPhase_keeps
    | with_reducible apply ite_keeps
    | with_reducible refine keeps_snd (by assumption) ?_
    | with_reducible refine keeps_snd2 (by assumption) ?_
    | with_reducible assumption
    | split
    | dsimp only

theorem State.tryDetect_keeps {s0 s : State} (hk : Keeps s0 s) (p : Nat) :
    Keeps s0 (State.tryDetect s p) := by
  unfold State.tryDetect
  try dsimp only
  repeat' first
    | intro _
    | with_reducible exact hk
    | with_reducible apply State.enterDetect_keeps
    | with_reducible apply ite_keeps
    | with_reducible refine keeps_snd (by assumption) ?_
    | with_reducible refine keeps_snd2 (by assumption) ?_
    | with_reducible assumption
    | split
    | dsimp only

theorem State.linkSend_keeps {s0 s : State} (hk : Keeps s0 s) (p : Nat) (x : Pkt) :
    Keeps s0 (State.linkSend s p x) := by
  unfold State.linkSend
  try dsimp only
  repeat' first
    | intro _
    | with_reducible exact hk
    | with_reducible apply State.setPort_keeps
    | with_reducible apply ite_keeps
    | with_reducible refine keeps_snd (by assumption) ?_
    | with_reducible refine keeps_snd2 (by assumption) ?_
    | with_reducible assumption
    | split
    | dsimp only
    | with_reducible apply keeps_mk

theorem State.enterIdent_keeps {s0 s : State} (hk : Keeps s0 s) (p : Nat) :
    Keeps s0 (State.enterIdent s p) := by
  unfold State.enterIdent
  try dsimp only
  repeat' first
    | intro _
    | with_reducible exact hk
    | with_reducible apply State.setPort_keeps
    | with_reducible apply State.linkSend_keeps
    | with_reducible apply State.goPhase_keeps
    | with_reducible apply ite_keeps
    | with_reducible refine keeps_snd (by assumption) ?_
    | with_reducible refine keeps_snd2 (by assumption) ?_
    | with_reducible assumption
    | split
    | dsimp only
    | with_reducible apply keeps_mk

theorem State.kexSend_keeps {s0 s : State} (hk : Keeps s0 s) (p : Nat) (msg : Nat) (bytes : List Byte) :
    Keeps s0 (State.kexSend s p msg bytes) := by
  unfold State.kexSend
  try dsimp only
  repeat' first
    | intro _
    | with_reducible exact hk
    | with_reducible apply State.linkSend_keeps
    | with_reducible refine foldl_keeps ?_ ?_
    | with_reducible apply ite_keeps
    | with_reducible refine keeps_snd (by assumption) ?_
    | with_reducible refine keeps_snd2 (by assumption) ?_
    | with_reducible assumption
    | split
    | dsimp only

theorem State.takeCtl_keeps {s0 s t : State} (hk : Keeps s0 s) (p k : Nat) {x : Pkt} (h : s.takeCtl p k = some (x, t)) :
    Keeps s0 t := by
  unfold State.takeCtl at h
  dsimp only at h
  split at h
  · split at h
    · cases h
      exact State.setPort_keeps hk _ _
    · cases h
  · cases h

theorem State.kexDone_keeps {s0 s : State} (hk : Keeps s0 s) (p : Nat) :
    Keeps s0 (State.kexDone s p) := by
  unfold State.kexDone
  try dsimp only
  repeat' first
    | intro _
    | with_reducible exact hk
    | with_reducible apply State.setPort_keeps
    | with_reducible apply ite_keeps
    | with_reducible refine keeps_snd (by assumption) ?_
    | with_reducible refine keeps_snd2 (by assumption) ?_
    | with_reducible assumption
    | split
    | dsimp only
    | with_reducible apply keeps_mk

theorem State.setRegion_keeps {s0 s : State} (hk : Keeps s0 s) (i : Nat) (r : Region) : Keeps s0 (s.setRegion i r) :=
  keeps_regions hk _ fun h => sorted_sputD h _ _ _

theorem State.reportUe_keeps {s0 s : State} (hk : Keeps s0 s) (w : Consumer) (a : Nat) :
    Keeps s0 (State.reportUe s w a) := by
  unfold State.reportUe
  try dsimp only
  repeat' first
    | intro _
    | with_reducible exact hk
    | with_reducible apply State.blockCause_keeps
    | with_reducible apply State.bump_keeps
    | with_reducible apply State.wf_keeps
    | with_reducible apply State.raiseFor_keeps
    | with_reducible apply ite_keeps
    | with_reducible refine keeps_snd (by assumption) ?_
    | with_reducible refine keeps_snd2 (by assumption) ?_
    | with_reducible assumption
    | split
    | dsimp only
    | with_reducible apply keeps_mk

theorem State.wordsLost_keeps {s0 s : State} (hk : Keeps s0 s) (page b c : Nat) (lost : List Nat) (zero : State → Nat
    → State)
    (hz : ∀ t x, Keeps s0 t → Keeps s0 (zero t x)) : Keeps s0 (s.wordsLost page b c lost zero) :=
  ite_keeps hk (State.blockCause_keeps (State.raiseFor_keeps (foldl_keeps hz hk) _ _ _) _ _)

theorem State.seedLost_keeps {s0 s : State} (hk : Keeps s0 s) (f : Nat) (n : Nat) (c : Nat) (l : List (Nat × Nat))
    (lost : List Nat) :
    Keeps s0 (State.seedLost s f n c l lost) := by
  unfold State.seedLost
  try dsimp only
  repeat' first
    | intro _
    | with_reducible exact hk
    | with_reducible apply State.seedWrite_keeps
    | with_reducible apply State.wordsLost_keeps
    | with_reducible apply ite_keeps
    | with_reducible refine keeps_snd (by assumption) ?_
    | with_reducible refine keeps_snd2 (by assumption) ?_
    | with_reducible assumption
    | split
    | dsimp only

theorem State.sheafLost_keeps {s0 s : State} (hk : Keeps s0 s) (f : Nat) (c : Nat) (l : List (Nat × Nat)) (lost : List Nat) :
    Keeps s0 (State.sheafLost s f c l lost) := by
  unfold State.sheafLost
  try dsimp only
  repeat' first
    | intro _
    | with_reducible exact hk
    | with_reducible apply State.sheafWrite_keeps
    | with_reducible apply State.wordsLost_keeps
    | with_reducible apply ite_keeps
    | with_reducible refine keeps_snd (by assumption) ?_
    | with_reducible refine keeps_snd2 (by assumption) ?_
    | with_reducible assumption
    | split
    | dsimp only

theorem State.readWord_keeps {s0 s : State} (hk : Keeps s0 s) (w : Consumer) (a : Nat) (n : Nat) :
    Keeps s0 (State.readWord s w a n).2 := by
  unfold State.readWord
  try dsimp only
  repeat' first
    | intro _
    | with_reducible exact hk
    | with_reducible apply State.reportUe_keeps
    | with_reducible apply State.bump64_keeps
    | with_reducible apply ite_keeps
    | with_reducible refine keeps_snd (by assumption) ?_
    | with_reducible refine keeps_snd2 (by assumption) ?_
    | with_reducible assumption
    | split
    | dsimp only
    | with_reducible apply keeps_mk

theorem State.readAll_keeps {s0 : State} (w : Consumer) (l : List (Nat × Nat)) : ∀ (acc : List Byte × State), Keeps s0
    acc.2 →
    Keeps s0 (l.foldl (fun (acc : List Byte × State) (e : Nat × Nat) =>
      let (bs, s) := acc.2.readWord w (acc.2.mapAddr e.1) e.2
      (acc.1 ++ bs, s)) acc).2 := by
  induction l with
  | nil => exact fun _ h => h
  | cons e l ih => exact fun acc h => ih _ (State.readWord_keeps h w _ _)

theorem State.hbmRead_keeps {s0 s : State} (hk : Keeps s0 s) (w : Consumer) (a n : Nat) :
    Keeps s0 (s.hbmRead w a n).2 :=
  State.readAll_keeps w _ _ hk

theorem State.fallowWritten_keeps {s0 s : State} (hk : Keeps s0 s) (w : Win) (a n : Nat) : Keeps s0 (s.fallowWritten w
    a n) := by
  unfold State.fallowWritten
  dsimp only
  have h1 := keeps_coverage hk (sput s.coverage (a / 4096) ()) fun h => sorted_sput h _ _
  refine ite_keeps hk (ite_keeps (State.sendPkt_keeps (State.setRegion_keeps ?_ _ _) _ _) ?_) <;>
    exact ite_keeps (State.wf_keeps (State.wf_keeps h1 _ _) _ _) h1

theorem State.storeWord_keeps {s0 t : State} (ht : Keeps s0 t) (b : Nat) (bs : List Byte) :
    Keeps s0 { t with hbm := t.hbm.writeN granSize b bs, hbmBad := sdel t.hbmBad (b / 64) } :=
  ⟨ht.pending, ht.fuses, fun c => let c := ht.canon c
    { c with hbm := Memory.wf_writeN _ _ c.hbm, hbmBad := sorted_sdel c.hbmBad _ }⟩

theorem State.writeWord_keeps {s0 s : State} (hk : Keeps s0 s) (w : Consumer) (a : Nat) (bs : List Byte) :
    Keeps s0 (s.writeWord w a bs) := by
  unfold State.writeWord
  dsimp only
  have h0 : Keeps s0 (if bs.length < 64 then s.bump64 (R.HBM_RD_LO_COUNT (fieldOf (s.mapAddr a)) (s.stackOf (s.mapAddr a)))
      (R.HBM_RD_HI_COUNT (fieldOf (s.mapAddr a)) (s.stackOf (s.mapAddr a))) 1 else s) :=
    ite_keeps (State.bump64_keeps hk _ _ _) hk
  refine ite_keeps (State.reportUe_keeps h0 _ _) ?_
  have h1 := State.storeWord_keeps (State.bump64_keeps h0 (R.HBM_WR_LO_COUNT (fieldOf (s.mapAddr a)) (s.stackOf
      (s.mapAddr a)))
    (R.HBM_WR_HI_COUNT (fieldOf (s.mapAddr a)) (s.stackOf (s.mapAddr a))) 1) (s.mapAddr a) bs
  split
  · exact ite_keeps (State.fallowWritten_keeps h1 _ _ _) h1
  · exact h1

theorem State.hbmWrite_keeps {s0 s : State} (hk : Keeps s0 s) (w : Consumer) (a : Nat) (bs : List Byte) :
    Keeps s0 (State.hbmWrite s w a bs) := by
  unfold State.hbmWrite
  try dsimp only
  repeat' first
    | intro _
    | with_reducible exact hk
    | with_reducible apply State.writeWord_keeps
    | with_reducible refine foldl_keeps ?_ ?_
    | with_reducible apply ite_keeps
    | with_reducible refine keeps_snd (by assumption) ?_
    | with_reducible refine keeps_snd2 (by assumption) ?_
    | with_reducible assumption
    | split
    | dsimp only

theorem State.undefGranules_keeps {s0 s : State} (hk : Keeps s0 s) (f : Nat) (gs : List Nat) :
    Keeps s0 (s.undefGranules f gs) := by
  unfold State.undefGranules
  refine foldl_keeps (fun t g ht => ?_) (State.fresh_keeps hk)
  exact keeps_hbmBad (keeps_hbm ht _ fun h => Memory.wf_undefUnits h (by decide) (Nat.le_succ _) _) _ fun h =>
    sorted_sclear h _ _

theorem State.zeroGranule_keeps {s0 t : State} (ht : Keeps s0 t) (u : Nat) :
    Keeps s0
      { t with
        hbm := t.hbm.clearUnits granSize u (u + 1)
        hbmBad := sclear t.hbmBad (u * 2 ^ 24) ((u + 1) * 2 ^ 24) } :=
  ⟨ht.pending, ht.fuses, fun c => let c := ht.canon c
    { c with hbm := Memory.wf_clearUnits c.hbm (by decide) _ _, hbmBad := sorted_sclear c.hbmBad _ _ }⟩

theorem State.clearGranule_keeps {s0 s : State} (hk : Keeps s0 s) (f g : Nat) : Keeps s0 (s.clearGranule f g) := by
  unfold State.clearGranule
  exact State.zeroGranule_keeps (State.bump64_keeps hk _ _ _) _

theorem State.setEng_keeps {s0 s : State} (hk : Keeps s0 s) (f : Nat) (x : ColEng) : Keeps s0 (s.setEng f x) :=
  keeps_engines hk _ fun h => sorted_sputD h _ _ _

theorem State.setSt_keeps {s0 s : State} (hk : Keeps s0 s) (p : At) (x : StreamSt) :
    Keeps s0 (State.setSt s p x) := by
  unfold State.setSt
  try dsimp only
  repeat' first
    | intro _
    | with_reducible exact hk
    | with_reducible apply State.setStrm_keeps
    | with_reducible apply ite_keeps
    | with_reducible refine keeps_snd (by assumption) ?_
    | with_reducible refine keeps_snd2 (by assumption) ?_
    | with_reducible assumption
    | split
    | dsimp only

theorem State.haltStream_keeps {s0 s : State} (hk : Keeps s0 s) (p : At) (cause : Nat) (opcode : Nat) :
    Keeps s0 (State.haltStream s p cause opcode) := by
  unfold State.haltStream
  try dsimp only
  repeat' first
    | intro _
    | with_reducible exact hk
    | with_reducible apply State.blockCause_keeps
    | with_reducible apply State.setSt_keeps
    | with_reducible apply State.wf_keeps
    | with_reducible apply State.raiseFor_keeps
    | with_reducible apply ite_keeps
    | with_reducible refine keeps_snd (by assumption) ?_
    | with_reducible refine keeps_snd2 (by assumption) ?_
    | with_reducible assumption
    | split
    | dsimp only
    | with_reducible apply keeps_mk

theorem State.waitStream_keeps {s0 s : State} (hk : Keeps s0 s) (p : At) (k : WaitKind) (sem : Nat) :
    Keeps s0 (State.waitStream s p k sem) := by
  unfold State.waitStream
  try dsimp only
  repeat' first
    | intro _
    | with_reducible exact hk
    | with_reducible apply State.setSt_keeps
    | with_reducible apply ite_keeps
    | with_reducible refine keeps_snd (by assumption) ?_
    | with_reducible refine keeps_snd2 (by assumption) ?_
    | with_reducible assumption
    | split
    | dsimp only
    | with_reducible apply keeps_mk

theorem State.settleHead_keeps {s0 s : State} (hk : Keeps s0 s) (p : At) :
    Keeps s0 (State.settleHead s p) := by
  unfold State.settleHead
  try dsimp only
  repeat' first
    | intro _
    | with_reducible exact hk
    | with_reducible apply State.haltStream_keeps
    | with_reducible apply ite_keeps
    | with_reducible refine keeps_snd (by assumption) ?_
    | with_reducible refine keeps_snd2 (by assumption) ?_
    | with_reducible assumption
    | split
    | dsimp only
    | with_reducible apply keeps_mk

theorem State.advance_keeps {s0 s : State} (hk : Keeps s0 s) (p : At) :
    Keeps s0 (State.advance s p) := by
  unfold State.advance
  try dsimp only
  repeat' first
    | intro _
    | with_reducible exact hk
    | with_reducible apply State.settleHead_keeps
    | with_reducible apply State.bump_keeps
    | with_reducible apply State.setSt_keeps
    | with_reducible apply ite_keeps
    | with_reducible refine keeps_snd (by assumption) ?_
    | with_reducible refine keeps_snd2 (by assumption) ?_
    | with_reducible assumption
    | split
    | dsimp only
    | with_reducible apply keeps_mk

theorem issue_keeps {s0 s : State} (hk : Keeps s0 s) (p : At) (w : InstrWord) (wait : Option WaitKind) (sem : Nat)
    (cause : Option Nat) (eff : State → State) (heff : ∀ t, Keeps s0 t → Keeps s0 (eff t)) :
    Keeps s0 (issue s p w wait sem cause eff) := by
  unfold issue
  try dsimp only
  repeat' first
    | intro _
    | with_reducible exact hk
    | with_reducible apply State.advance_keeps
    | with_reducible apply State.waitStream_keeps
    | with_reducible apply State.haltStream_keeps
    | with_reducible apply heff
    | with_reducible apply ite_keeps
    | with_reducible refine keeps_snd (by assumption) ?_
    | with_reducible refine keeps_snd2 (by assumption) ?_
    | with_reducible assumption
    | split
    | dsimp only
    | with_reducible apply keeps_mk

theorem State.wakeArrays_keeps {s0 s : State} (hk : Keeps s0 s) (f : Nat) (n : Nat) (mask : Nat) :
    Keeps s0 (State.wakeArrays s f n mask) := by
  unfold State.wakeArrays
  try dsimp only
  repeat' first
    | intro _
    | with_reducible exact hk
    | with_reducible apply ite_keeps
    | with_reducible refine keeps_snd (by assumption) ?_
    | with_reducible refine keeps_snd2 (by assumption) ?_
    | with_reducible assumption
    | split
    | dsimp only
    | with_reducible apply keeps_mk

theorem State.noteMma_keeps {s0 s : State} (hk : Keeps s0 s) (f : Nat) (fmt : Nat) (thin : Bool) :
    Keeps s0 (State.noteMma s f fmt thin) := by
  unfold State.noteMma
  try dsimp only
  repeat' first
    | intro _
    | with_reducible exact hk
    | with_reducible apply ite_keeps
    | with_reducible refine keeps_snd (by assumption) ?_
    | with_reducible refine keeps_snd2 (by assumption) ?_
    | with_reducible assumption
    | split
    | dsimp only
    | with_reducible apply keeps_mk

theorem State.addTotals_keeps {s0 s : State} (hk : Keeps s0 s) (c : Nat) (k : Counts) :
    Keeps s0 (State.addTotals s c k) := by
  unfold State.addTotals
  try dsimp only
  repeat' first
    | intro _
    | with_reducible exact hk
    | with_reducible apply State.setCtx_keeps
    | with_reducible apply ite_keeps
    | with_reducible refine keeps_snd (by assumption) ?_
    | with_reducible refine keeps_snd2 (by assumption) ?_
    | with_reducible assumption
    | split
    | dsimp only
    | with_reducible apply keeps_mk

theorem State.reopenReport_keeps {s0 s : State} (hk : Keeps s0 s) (c : Nat) :
    Keeps s0 (State.reopenReport s c) := by
  unfold State.reopenReport
  try dsimp only
  repeat' first
    | intro _
    | with_reducible exact hk
    | with_reducible apply State.setCtx_keeps
    | with_reducible apply ite_keeps
    | with_reducible refine keeps_snd (by assumption) ?_
    | with_reducible refine keeps_snd2 (by assumption) ?_
    | with_reducible assumption
    | split
    | dsimp only
    | with_reducible apply keeps_mk

theorem State.addGradNf_keeps {s0 s : State} (hk : Keeps s0 s) (c : Nat) (k : Counts) :
    Keeps s0 (State.addGradNf s c k) := by
  unfold State.addGradNf
  try dsimp only
  repeat' first
    | intro _
    | with_reducible exact hk
    | with_reducible apply State.setCtx_keeps
    | with_reducible apply ite_keeps
    | with_reducible refine keeps_snd (by assumption) ?_
    | with_reducible refine keeps_snd2 (by assumption) ?_
    | with_reducible assumption
    | split
    | dsimp only
    | with_reducible apply keeps_mk

theorem State.sample_keeps {s0 s : State} (hk : Keeps s0 s) (p : At) :
    Keeps s0 (State.sample s p).2 := by
  unfold State.sample
  try dsimp only
  repeat' first
    | intro _
    | with_reducible exact hk
    | with_reducible apply State.setSt_keeps
    | with_reducible apply ite_keeps
    | with_reducible refine keeps_snd (by assumption) ?_
    | with_reducible refine keeps_snd2 (by assumption) ?_
    | with_reducible assumption
    | split
    | dsimp only
    | with_reducible apply keeps_mk

theorem State.shadowSlots_keeps {s0 s : State} (hk : Keeps s0 s) (p : At) (slot : Nat) (n : Nat) (e : Option Nat) :
    Keeps s0 (State.shadowSlots s p slot n e) := by
  unfold State.shadowSlots
  try dsimp only
  repeat' first
    | intro _
    | with_reducible exact hk
    | with_reducible apply State.setFur_keeps
    | with_reducible refine foldl_keeps ?_ ?_
    | with_reducible apply ite_keeps
    | with_reducible refine keeps_snd (by assumption) ?_
    | with_reducible refine keeps_snd2 (by assumption) ?_
    | with_reducible assumption
    | split
    | dsimp only
    | with_reducible apply keeps_mk

theorem State.compareLater_keeps {s0 s : State} (hk : Keeps s0 s) (p : At) (e : Option Nat) (slot : Nat) (opcode :
    Nat) (coord : Nat) :
    Keeps s0 (State.compareLater s p e slot opcode coord) := by
  unfold State.compareLater
  try dsimp only
  repeat' first
    | intro _
    | with_reducible exact hk
    | with_reducible apply ite_keeps
    | with_reducible refine keeps_snd (by assumption) ?_
    | with_reducible refine keeps_snd2 (by assumption) ?_
    | with_reducible assumption
    | split
    | dsimp only
    | with_reducible apply keeps_mk

theorem State.sampleVop_keeps {s0 s : State} (hk : Keeps s0 s) (p : At) :
    Keeps s0 (State.sampleVop s p) := by
  unfold State.sampleVop
  try dsimp only
  repeat' first
    | intro _
    | with_reducible exact hk
    | with_reducible apply State.sample_keeps
    | with_reducible apply State.compareLater_keeps
    | with_reducible apply ite_keeps
    | with_reducible refine keeps_snd (by assumption) ?_
    | with_reducible refine keeps_snd2 (by assumption) ?_
    | with_reducible assumption
    | split
    | dsimp only

theorem State.bindActivation_keeps {s0 s : State} (hk : Keeps s0 s) (p : At) (b : Binding) :
    Keeps s0 (State.bindActivation s p b) := by
  unfold State.bindActivation
  try dsimp only
  repeat' first
    | intro _
    | with_reducible exact hk
    | with_reducible apply State.setSt_keeps
    | with_reducible apply ite_keeps
    | with_reducible refine keeps_snd (by assumption) ?_
    | with_reducible refine keeps_snd2 (by assumption) ?_
    | with_reducible assumption
    | split
    | dsimp only
    | with_reducible apply keeps_mk

theorem State.bindWeight_keeps {s0 s : State} (hk : Keeps s0 s) (p : At) (j : Nat) (b : Binding) :
    Keeps s0 (State.bindWeight s p j b) := by
  unfold State.bindWeight
  try dsimp only
  repeat' first
    | intro _
    | with_reducible exact hk
    | with_reducible apply State.setSt_keeps
    | with_reducible apply ite_keeps
    | with_reducible refine keeps_snd (by assumption) ?_
    | with_reducible refine keeps_snd2 (by assumption) ?_
    | with_reducible assumption
    | split
    | dsimp only
    | with_reducible apply keeps_mk

theorem issueLdw_keeps {s0 s : State} (hk : Keeps s0 s) (i : StreamId) (w : InstrWord) :
    Keeps s0 (issueLdw i w s) := by
  unfold issueLdw
  try dsimp only
  repeat' first
    | intro _
    | with_reducible exact hk
    | with_reducible apply State.bindWeight_keeps
    | with_reducible apply issue_keeps
    | with_reducible apply ite_keeps
    | with_reducible refine keeps_snd (by assumption) ?_
    | with_reducible refine keeps_snd2 (by assumption) ?_
    | with_reducible assumption
    | split
    | dsimp only

theorem issueLda_keeps {s0 s : State} (hk : Keeps s0 s) (i : StreamId) (w : InstrWord) :
    Keeps s0 (issueLda i w s) := by
  unfold issueLda
  try dsimp only
  repeat' first
    | intro _
    | with_reducible exact hk
    | with_reducible apply State.bindActivation_keeps
    | with_reducible apply issue_keeps
    | with_reducible apply ite_keeps
    | with_reducible refine keeps_snd (by assumption) ?_
    | with_reducible refine keeps_snd2 (by assumption) ?_
    | with_reducible assumption
    | split
    | dsimp only

theorem issueTrn_keeps {s0 s : State} (hk : Keeps s0 s) (i : StreamId) (w : InstrWord) :
    Keeps s0 (issueTrn i w s) := by
  unfold issueTrn
  try dsimp only
  repeat' first
    | intro _
    | with_reducible exact hk
    | with_reducible apply State.bindWeight_keeps
    | with_reducible apply State.bindActivation_keeps
    | with_reducible apply issue_keeps
    | with_reducible apply ite_keeps
    | with_reducible refine keeps_snd (by assumption) ?_
    | with_reducible refine keeps_snd2 (by assumption) ?_
    | with_reducible assumption
    | split
    | dsimp only

theorem State.startMma_keeps {s0 s : State} (hk : Keeps s0 s) (p : At) (x : MmaFields) (o : MmaOp) :
    Keeps s0 (State.startMma s p x o) := by
  unfold State.startMma
  try dsimp only
  repeat' first
    | intro _
    | with_reducible exact hk
    | with_reducible apply State.setFur_keeps
    | with_reducible refine foldl_keeps ?_ ?_
    | with_reducible apply ite_keeps
    | with_reducible refine keeps_snd (by assumption) ?_
    | with_reducible refine keeps_snd2 (by assumption) ?_
    | with_reducible assumption
    | split
    | dsimp only
    | with_reducible apply keeps_mk

theorem issueMma_keeps {s0 s : State} (hk : Keeps s0 s) (i : StreamId) (w : InstrWord) :
    Keeps s0 (issueMma i w s) := by
  unfold issueMma
  try dsimp only
  repeat' first
    | intro _
    | with_reducible exact hk
    | with_reducible apply State.noteMma_keeps
    | with_reducible apply State.sample_keeps
    | with_reducible apply State.startMma_keeps
    | with_reducible apply State.wakeArrays_keeps
    | with_reducible apply issue_keeps
    | with_reducible apply State.shadowSlots_keeps
    | with_reducible apply ite_keeps
    | with_reducible refine keeps_snd (by assumption) ?_
    | with_reducible refine keeps_snd2 (by assumption) ?_
    | with_reducible assumption
    | split
    | dsimp only

theorem State.operandLost_keeps {s0 s : State} (hk : Keeps s0 s) (f : Nat) (n : Nat) (o : MmaOp) (lost : List Nat) :
    Keeps s0 (State.operandLost s f n o lost) := by
  unfold State.operandLost
  try dsimp only
  repeat' first
    | intro _
    | with_reducible exact hk
    | with_reducible apply State.seedLost_keeps
    | with_reducible apply ite_keeps
    | with_reducible refine keeps_snd (by assumption) ?_
    | with_reducible refine keeps_snd2 (by assumption) ?_
    | with_reducible assumption
    | split
    | dsimp only

theorem State.startDrain_keeps {s0 s : State} (hk : Keeps s0 s) (p : At) (x : DrnFields) (d : List Byte) (fp : Footprint) :
    Keeps s0 (State.startDrain s p x d fp) := by
  unfold State.startDrain
  try dsimp only
  repeat' first
    | intro _
    | with_reducible exact hk
    | with_reducible apply State.seedWrite_keeps
    | with_reducible apply State.setFur_keeps
    | with_reducible refine foldl_keeps ?_ ?_
    | with_reducible apply ite_keeps
    | with_reducible refine keeps_snd (by assumption) ?_
    | with_reducible refine keeps_snd2 (by assumption) ?_
    | with_reducible assumption
    | split
    | dsimp only
    | with_reducible apply keeps_mk

theorem issueDrn_keeps {s0 s : State} (hk : Keeps s0 s) (i : StreamId) (w : InstrWord) :
    Keeps s0 (issueDrn i w s) := by
  unfold issueDrn
  try dsimp only
  repeat' first
    | intro _
    | with_reducible exact hk
    | with_reducible apply State.compareLater_keeps
    | with_reducible apply State.startDrain_keeps
    | with_reducible apply issue_keeps
    | with_reducible apply ite_keeps
    | with_reducible refine keeps_snd (by assumption) ?_
    | with_reducible refine keeps_snd2 (by assumption) ?_
    | with_reducible assumption
    | split
    | dsimp only

theorem State.firstCheck_keeps {s0 s : State} (hk : Keeps s0 s) (f : Nat) (n : Nat) (o : DrnOp) (bit : Nat) :
    Keeps s0 (State.firstCheck s f n o bit) := by
  unfold State.firstCheck
  try dsimp only
  repeat' first
    | intro _
    | with_reducible exact hk
    | with_reducible apply State.wf_keeps
    | with_reducible apply ite_keeps
    | with_reducible refine keeps_snd (by assumption) ?_
    | with_reducible refine keeps_snd2 (by assumption) ?_
    | with_reducible assumption
    | split
    | dsimp only

theorem State.reportCheck_keeps {s0 s : State} (hk : Keeps s0 s) (f : Nat) (n : Nat) (o : DrnOp) (bit : Nat) :
    Keeps s0 (State.reportCheck s f n o bit) := by
  unfold State.reportCheck
  try dsimp only
  repeat' first
    | intro _
    | with_reducible exact hk
    | with_reducible apply State.blockCause_keeps
    | with_reducible apply State.bump_keeps
    | with_reducible apply State.firstCheck_keeps
    | with_reducible apply State.raiseFor_keeps
    | with_reducible apply ite_keeps
    | with_reducible refine keeps_snd (by assumption) ?_
    | with_reducible refine keeps_snd2 (by assumption) ?_
    | with_reducible assumption
    | split
    | dsimp only

theorem State.keepMasks_keeps {s0 s : State} (hk : Keeps s0 s) (f : Nat) (n : Nat) (o : DrnOp) (rest : List DrnOp) :
    Keeps s0 (State.keepMasks s f n o rest) := by
  unfold State.keepMasks
  try dsimp only
  repeat' first
    | intro _
    | with_reducible exact hk
    | with_reducible apply State.setFur_keeps
    | with_reducible apply ite_keeps
    | with_reducible refine keeps_snd (by assumption) ?_
    | with_reducible refine keeps_snd2 (by assumption) ?_
    | with_reducible assumption
    | split
    | dsimp only
    | with_reducible apply keeps_mk

theorem State.putRecord_keeps {s0 s : State} (hk : Keeps s0 s) (f : Nat) (n : Nat) (o : DrnOp) :
    Keeps s0 (State.putRecord s f n o) := by
  unfold State.putRecord
  try dsimp only
  repeat' first
    | intro _
    | with_reducible exact hk
    | with_reducible apply State.seedWrite_keeps
    | with_reducible apply ite_keeps
    | with_reducible refine keeps_snd (by assumption) ?_
    | with_reducible refine keeps_snd2 (by assumption) ?_
    | with_reducible assumption
    | split
    | dsimp only
    | with_reducible apply keeps_mk

theorem State.addSquares_keeps {s0 s : State} (hk : Keeps s0 s) (f : Nat) (n : Nat) (o : DrnOp) :
    Keeps s0 (State.addSquares s f n o) := by
  unfold State.addSquares
  try dsimp only
  repeat' first
    | intro _
    | with_reducible exact hk
    | with_reducible apply State.setStrm_keeps
    | with_reducible apply State.addGradNf_keeps
    | with_reducible apply ite_keeps
    | with_reducible refine keeps_snd (by assumption) ?_
    | with_reducible refine keeps_snd2 (by assumption) ?_
    | with_reducible assumption
    | split
    | dsimp only
    | with_reducible apply keeps_mk

theorem State.countDrain_keeps {s0 s : State} (hk : Keeps s0 s) (f : Nat) (n : Nat) (o : DrnOp) :
    Keeps s0 (State.countDrain s f n o) := by
  unfold State.countDrain
  try dsimp only
  repeat' first
    | intro _
    | with_reducible exact hk
    | with_reducible apply State.bump_keeps
    | with_reducible apply ite_keeps
    | with_reducible refine keeps_snd (by assumption) ?_
    | with_reducible refine keeps_snd2 (by assumption) ?_
    | with_reducible assumption
    | split
    | dsimp only

theorem State.closeDrain_keeps {s0 s : State} (hk : Keeps s0 s) (f : Nat) (n : Nat) (o : DrnOp) (rest : List DrnOp) :
    Keeps s0 (State.closeDrain s f n o rest) := by
  unfold State.closeDrain
  try dsimp only
  repeat' first
    | intro _
    | with_reducible exact hk
    | with_reducible apply State.countDrain_keeps
    | with_reducible apply State.addSquares_keeps
    | with_reducible apply State.putRecord_keeps
    | with_reducible apply State.keepMasks_keeps
    | with_reducible apply State.addTotals_keeps
    | with_reducible apply ite_keeps
    | with_reducible refine keeps_snd (by assumption) ?_
    | with_reducible refine keeps_snd2 (by assumption) ?_
    | with_reducible assumption
    | split
    | dsimp only

theorem State.retireDrain_keeps {s0 s : State} (hk : Keeps s0 s) (f : Nat) (n : Nat) (o : DrnOp) (rest : List DrnOp) :
    Keeps s0 (State.retireDrain s f n o rest) := by
  unfold State.retireDrain
  try dsimp only
  repeat' first
    | intro _
    | with_reducible exact hk
    | with_reducible apply State.reportCheck_keeps
    | with_reducible apply State.closeDrain_keeps
    | with_reducible refine foldl_keeps ?_ ?_
    | with_reducible apply ite_keeps
    | with_reducible refine keeps_snd (by assumption) ?_
    | with_reducible refine keeps_snd2 (by assumption) ?_
    | with_reducible assumption
    | split
    | dsimp only

theorem State.pushVop_keeps {s0 s : State} (hk : Keeps s0 s) (p : At) (unit : Nat) (fp : Footprint) (k : Counts) :
    Keeps s0 (State.pushVop s p unit fp k) := by
  unfold State.pushVop
  try dsimp only
  repeat' first
    | intro _
    | with_reducible exact hk
    | with_reducible apply State.setFur_keeps
    | with_reducible apply State.wakeArrays_keeps
    | with_reducible apply ite_keeps
    | with_reducible refine keeps_snd (by assumption) ?_
    | with_reducible refine keeps_snd2 (by assumption) ?_
    | with_reducible assumption
    | split
    | dsimp only
    | with_reducible apply keeps_mk

theorem State.startVop_keeps {s0 s : State} (hk : Keeps s0 s) (p : At) (x : VopFields) (fp : Footprint) :
    Keeps s0 (State.startVop s p x fp) := by
  unfold State.startVop
  try dsimp only
  repeat' first
    | intro _
    | with_reducible exact hk
    | with_reducible apply State.seedWrite_keeps
    | with_reducible apply State.pushVop_keeps
    | with_reducible apply State.addTotals_keeps
    | with_reducible apply ite_keeps
    | with_reducible refine keeps_snd (by assumption) ?_
    | with_reducible refine keeps_snd2 (by assumption) ?_
    | with_reducible assumption
    | split
    | dsimp only

theorem issueVop_keeps {s0 s : State} (hk : Keeps s0 s) (i : StreamId) (w : InstrWord) :
    Keeps s0 (issueVop i w s) := by
  unfold issueVop
  try dsimp only
  repeat' first
    | intro _
    | with_reducible exact hk
    | with_reducible apply State.sampleVop_keeps
    | with_reducible apply State.startVop_keeps
    | with_reducible apply issue_keeps
    | with_reducible apply ite_keeps
    | with_reducible refine keeps_snd (by assumption) ?_
    | with_reducible refine keeps_snd2 (by assumption) ?_
    | with_reducible assumption
    | split
    | dsimp only

theorem State.writeFp32_keeps {s0 s : State} (hk : Keeps s0 s) (p : At) (base : Nat) (dst : Nat) (vs : List Word32) :
    Keeps s0 (State.writeFp32 s p base dst vs) := by
  unfold State.writeFp32
  try dsimp only
  repeat' first
    | intro _
    | with_reducible exact hk
    | with_reducible apply State.seedWrite_keeps
    | with_reducible apply State.addTotals_keeps
    | with_reducible apply ite_keeps
    | with_reducible refine keeps_snd (by assumption) ?_
    | with_reducible refine keeps_snd2 (by assumption) ?_
    | with_reducible assumption
    | split
    | dsimp only

theorem State.runAdamw_keeps {s0 s : State} (hk : Keeps s0 s) (p : At) (x : VopFields) (r : List Byte) :
    Keeps s0 (State.runAdamw s p x r) := by
  unfold State.runAdamw
  try dsimp only
  repeat' first
    | intro _
    | with_reducible exact hk
    | with_reducible apply State.seedWrite_keeps
    | with_reducible apply State.writeFp32_keeps
    | with_reducible apply State.addTotals_keeps
    | with_reducible apply ite_keeps
    | with_reducible refine keeps_snd (by assumption) ?_
    | with_reducible refine keeps_snd2 (by assumption) ?_
    | with_reducible assumption
    | split
    | dsimp only

theorem State.runGsq_keeps {s0 s : State} (hk : Keeps s0 s) (p : At) (x : VopFields) (r : List Byte) :
    Keeps s0 (State.runGsq s p x r) := by
  unfold State.runGsq
  try dsimp only
  repeat' first
    | intro _
    | with_reducible exact hk
    | with_reducible apply State.writeFp32_keeps
    | with_reducible apply ite_keeps
    | with_reducible refine keeps_snd (by assumption) ?_
    | with_reducible refine keeps_snd2 (by assumption) ?_
    | with_reducible assumption
    | split
    | dsimp only

theorem State.runAfapply_keeps {s0 s : State} (hk : Keeps s0 s) (p : At) (x : VopFields) (r : List Byte) (h : List Byte) :
    Keeps s0 (State.runAfapply s p x r h) := by
  unfold State.runAfapply
  try dsimp only
  repeat' first
    | intro _
    | with_reducible exact hk
    | with_reducible apply State.seedWrite_keeps
    | with_reducible apply State.writeFp32_keeps
    | with_reducible apply State.addTotals_keeps
    | with_reducible apply ite_keeps
    | with_reducible refine keeps_snd (by assumption) ?_
    | with_reducible refine keeps_snd2 (by assumption) ?_
    | with_reducible assumption
    | split
    | dsimp only

theorem State.runOpt_keeps {s0 s : State} (hk : Keeps s0 s) (p : At) (x : VopFields) (r : List Byte) (h : List Byte) :
    Keeps s0 (State.runOpt s p x r h) := by
  unfold State.runOpt
  try dsimp only
  repeat' first
    | intro _
    | with_reducible exact hk
    | with_reducible apply State.runAdamw_keeps
    | with_reducible apply State.runAfapply_keeps
    | with_reducible apply State.runGsq_keeps
    | with_reducible apply ite_keeps
    | with_reducible refine keeps_snd (by assumption) ?_
    | with_reducible refine keeps_snd2 (by assumption) ?_
    | with_reducible assumption
    | split
    | dsimp only
    | with_reducible apply keeps_mk

theorem State.zeroTotals_keeps {s0 s : State} (hk : Keeps s0 s) (c : Nat) :
    Keeps s0 (State.zeroTotals s c) := by
  unfold State.zeroTotals
  try dsimp only
  repeat' first
    | intro _
    | with_reducible exact hk
    | with_reducible apply State.setCtx_keeps
    | with_reducible apply ite_keeps
    | with_reducible refine keeps_snd (by assumption) ?_
    | with_reducible refine keeps_snd2 (by assumption) ?_
    | with_reducible assumption
    | split
    | dsimp only
    | with_reducible apply keeps_mk

theorem issueOpt_keeps {s0 s : State} (hk : Keeps s0 s) (i : StreamId) (w : InstrWord) :
    Keeps s0 (issueOpt i w s) := by
  unfold issueOpt
  try dsimp only
  repeat' first
    | intro _
    | with_reducible exact hk
    | with_reducible apply State.runOpt_keeps
    | with_reducible apply State.sampleVop_keeps
    | with_reducible apply State.pushVop_keeps
    | with_reducible apply issue_keeps
    | with_reducible apply ite_keeps
    | with_reducible refine keeps_snd (by assumption) ?_
    | with_reducible refine keeps_snd2 (by assumption) ?_
    | with_reducible assumption
    | split
    | dsimp only

theorem State.runGln_keeps {s0 s : State} (hk : Keeps s0 s) (p : At) (x : GlnFields) :
    Keeps s0 (State.runGln s p x) := by
  unfold State.runGln
  try dsimp only
  repeat' first
    | intro _
    | with_reducible exact hk
    | with_reducible apply State.seedWrite_keeps
    | with_reducible apply State.addGradNf_keeps
    | with_reducible apply State.gleanSet_keeps
    | with_reducible apply State.addTotals_keeps
    | with_reducible refine foldl_keeps ?_ ?_
    | with_reducible apply ite_keeps
    | with_reducible refine keeps_snd (by assumption) ?_
    | with_reducible refine keeps_snd2 (by assumption) ?_
    | with_reducible assumption
    | split
    | dsimp only
    | with_reducible apply keeps_mk

theorem issueGln_keeps {s0 s : State} (hk : Keeps s0 s) (i : StreamId) (w : InstrWord) :
    Keeps s0 (issueGln i w s) := by
  unfold issueGln
  try dsimp only
  repeat' first
    | intro _
    | with_reducible exact hk
    | with_reducible apply State.setFur_keeps
    | with_reducible apply State.runGln_keeps
    | with_reducible apply issue_keeps
    | with_reducible apply ite_keeps
    | with_reducible refine keeps_snd (by assumption) ?_
    | with_reducible refine keeps_snd2 (by assumption) ?_
    | with_reducible assumption
    | split
    | dsimp only
    | with_reducible apply keeps_mk

theorem State.setQueue_keeps {s0 s : State} (hk : Keeps s0 s) (q : Nat) (x : QueueSt) : Keeps s0 (s.setQueue q x) :=
  keeps_queues hk _ fun h => sorted_sputD h _ _ _

theorem State.emptyQueue_keeps {s0 s : State} (hk : Keeps s0 s) (q : Nat) :
    Keeps s0 (State.emptyQueue s q) := by
  unfold State.emptyQueue
  try dsimp only
  repeat' first
    | intro _
    | with_reducible exact hk
    | with_reducible apply State.setQueue_keeps
    | with_reducible apply ite_keeps
    | with_reducible refine keeps_snd (by assumption) ?_
    | with_reducible refine keeps_snd2 (by assumption) ?_
    | with_reducible assumption
    | split
    | dsimp only

theorem State.setCmd_keeps {s0 s : State} (hk : Keeps s0 s) (q : Nat) (x : QCmd) :
    Keeps s0 (State.setCmd s q x) := by
  unfold State.setCmd
  try dsimp only
  repeat' first
    | intro _
    | with_reducible exact hk
    | with_reducible apply State.setQueue_keeps
    | with_reducible apply ite_keeps
    | with_reducible refine keeps_snd (by assumption) ?_
    | with_reducible refine keeps_snd2 (by assumption) ?_
    | with_reducible assumption
    | split
    | dsimp only
    | with_reducible apply keeps_mk

theorem State.finishCmd_keeps {s0 s : State} (hk : Keeps s0 s) (q : Nat) (seq : Nat) (status : Nat) (detail : Nat) :
    Keeps s0 (State.finishCmd s q seq status detail) := by
  unfold State.finishCmd
  try dsimp only
  repeat' first
    | intro _
    | with_reducible exact hk
    | with_reducible apply State.blockCause_keeps
    | with_reducible apply State.setCmd_keeps
    | with_reducible apply ite_keeps
    | with_reducible refine keeps_snd (by assumption) ?_
    | with_reducible refine keeps_snd2 (by assumption) ?_
    | with_reducible assumption
    | split
    | dsimp only
    | with_reducible apply keeps_mk

theorem State.launchEnded_keeps {s0 s : State} (hk : Keeps s0 s) (q : Nat) (seq : Nat) :
    Keeps s0 (State.launchEnded s q seq) := by
  unfold State.launchEnded
  try dsimp only
  repeat' first
    | intro _
    | with_reducible exact hk
    | with_reducible apply State.finishCmd_keeps
    | with_reducible apply ite_keeps
    | with_reducible refine keeps_snd (by assumption) ?_
    | with_reducible refine keeps_snd2 (by assumption) ?_
    | with_reducible assumption
    | split
    | dsimp only

theorem State.runWatch_keeps {s0 s : State} (hk : Keeps s0 s) (c : Nat) :
    Keeps s0 (State.runWatch s c) := by
  unfold State.runWatch
  try dsimp only
  repeat' first
    | intro _
    | with_reducible exact hk
    | with_reducible apply State.ctxEvent_keeps
    | with_reducible apply State.hbmWrite_keeps
    | with_reducible apply State.setReg_keeps
    | with_reducible apply State.setCtx_keeps
    | with_reducible apply State.wf_keeps
    | with_reducible apply ite_keeps
    | with_reducible refine keeps_snd (by assumption) ?_
    | with_reducible refine keeps_snd2 (by assumption) ?_
    | with_reducible assumption
    | split
    | dsimp only
    | with_reducible apply keeps_mk

theorem State.reportDue_keeps {s0 s : State} (hk : Keeps s0 s) (c : Nat) :
    Keeps s0 (State.reportDue s c) := by
  unfold State.reportDue
  try dsimp only
  repeat' first
    | intro _
    | with_reducible exact hk
    | with_reducible apply State.runWatch_keeps
    | with_reducible apply ite_keeps
    | with_reducible refine keeps_snd (by assumption) ?_
    | with_reducible refine keeps_snd2 (by assumption) ?_
    | with_reducible assumption
    | split
    | dsimp only

theorem State.mirrorEnds_keeps {s0 s : State} (hk : Keeps s0 s) (c : Nat) (queued : Bool) :
    Keeps s0 (s.mirrorEnds c queued) := by
  unfold State.mirrorEnds
  refine ite_keeps hk (foldl_keeps (fun t e ht => ?_) hk)
  exact ite_keeps (State.sendPkt_keeps (State.setRegion_keeps ht _ _) _ _) ht

theorem State.stepProgress_keeps {s0 s : State} (hk : Keeps s0 s) (c : Nat) :
    Keeps s0 (State.stepProgress s c) := by
  unfold State.stepProgress
  try dsimp only
  repeat' first
    | intro _
    | with_reducible exact hk
    | with_reducible apply State.mirrorEnds_keeps
    | with_reducible apply State.reportDue_keeps
    | with_reducible apply ite_keeps
    | with_reducible refine keeps_snd (by assumption) ?_
    | with_reducible refine keeps_snd2 (by assumption) ?_
    | with_reducible assumption
    | split
    | dsimp only

theorem State.signal_keeps {s0 s : State} (hk : Keeps s0 s) (f : Nat) (c : Nat) (sem : Option Nat) :
    Keeps s0 (State.signal s f c sem) := by
  unfold State.signal
  try dsimp only
  repeat' first
    | intro _
    | with_reducible exact hk
    | with_reducible apply State.setSem_keeps
    | with_reducible apply ite_keeps
    | with_reducible refine keeps_snd (by assumption) ?_
    | with_reducible refine keeps_snd2 (by assumption) ?_
    | with_reducible assumption
    | split
    | dsimp only
    | with_reducible apply keeps_mk

theorem issueSemw_keeps {s0 s : State} (hk : Keeps s0 s) (i : StreamId) (w : InstrWord) :
    Keeps s0 (issueSemw i w s) := by
  unfold issueSemw
  try dsimp only
  repeat' first
    | intro _
    | with_reducible exact hk
    | with_reducible apply State.setSem_keeps
    | with_reducible apply issue_keeps
    | with_reducible apply ite_keeps
    | with_reducible refine keeps_snd (by assumption) ?_
    | with_reducible refine keeps_snd2 (by assumption) ?_
    | with_reducible assumption
    | split
    | dsimp only

theorem issueSems_keeps {s0 s : State} (hk : Keeps s0 s) (i : StreamId) (w : InstrWord) :
    Keeps s0 (issueSems i w s) := by
  unfold issueSems
  try dsimp only
  repeat' first
    | intro _
    | with_reducible exact hk
    | with_reducible apply State.setSem_keeps
    | with_reducible apply issue_keeps
    | with_reducible apply ite_keeps
    | with_reducible refine keeps_snd (by assumption) ?_
    | with_reducible refine keeps_snd2 (by assumption) ?_
    | with_reducible assumption
    | split
    | dsimp only

theorem State.releaseBarrier_keeps {s0 s : State} (hk : Keeps s0 s) (c key : Nat) : Keeps s0 (s.releaseBarrier c key) := by
  unfold State.releaseBarrier
  exact foldl_keeps (fun t p ht => State.advance_keeps ht p) (keeps_barriers hk _ fun h => sorted_sdel h _)

theorem State.arrive_keeps {s0 s : State} (hk : Keeps s0 s) (p : At) (key count : Nat) : Keeps s0 (s.arrive p key
    count) := by
  unfold State.arrive
  exact ite_keeps (State.releaseBarrier_keeps (State.setSt_keeps hk _ _) _ _)
    (keeps_barriers (State.setSt_keeps hk _ _) _ fun h => sorted_sput h _ _)

theorem issueBar_keeps {s0 s : State} (hk : Keeps s0 s) (i : StreamId) (w : InstrWord) :
    Keeps s0 (issueBar i w s) := by
  unfold issueBar
  try dsimp only
  repeat' first
    | intro _
    | with_reducible exact hk
    | with_reducible apply State.waitStream_keeps
    | with_reducible apply State.arrive_keeps
    | with_reducible apply State.haltStream_keeps
    | with_reducible apply ite_keeps
    | with_reducible refine keeps_snd (by assumption) ?_
    | with_reducible refine keeps_snd2 (by assumption) ?_
    | with_reducible assumption
    | split
    | dsimp only
    | with_reducible apply keeps_mk

theorem State.addForce_keeps {s0 s : State} (hk : Keeps s0 s) (p : At) (phys : Nat) (row : Nat) (g : Nat) (v : Word32) :
    Keeps s0 (State.addForce s p phys row g v) := by
  unfold State.addForce
  try dsimp only
  repeat' first
    | intro _
    | with_reducible exact hk
    | with_reducible apply State.setFur_keeps
    | with_reducible apply ite_keeps
    | with_reducible refine keeps_snd (by assumption) ?_
    | with_reducible refine keeps_snd2 (by assumption) ?_
    | with_reducible assumption
    | split
    | dsimp only
    | with_reducible apply keeps_mk

theorem issueChk_keeps {s0 s : State} (hk : Keeps s0 s) (i : StreamId) (w : InstrWord) :
    Keeps s0 (issueChk i w s) := by
  unfold issueChk
  try dsimp only
  repeat' first
    | intro _
    | with_reducible exact hk
    | with_reducible apply State.seedWrite_keeps
    | with_reducible apply State.addForce_keeps
    | with_reducible apply issue_keeps
    | with_reducible apply ite_keeps
    | with_reducible refine keeps_snd (by assumption) ?_
    | with_reducible refine keeps_snd2 (by assumption) ?_
    | with_reducible assumption
    | split
    | dsimp only

theorem State.feedDma_keeps {s0 s : State} (hk : Keeps s0 s) (f : Nat) :
    Keeps s0 (State.feedDma s f) := by
  unfold State.feedDma
  try dsimp only
  repeat' first
    | intro _
    | with_reducible exact hk
    | with_reducible apply State.setDma_keeps
    | with_reducible apply ite_keeps
    | with_reducible refine keeps_snd (by assumption) ?_
    | with_reducible refine keeps_snd2 (by assumption) ?_
    | with_reducible assumption
    | split
    | dsimp only

theorem State.handOff_keeps {s0 s : State} (hk : Keeps s0 s) (f : Nat) (x : Xfer) :
    Keeps s0 (State.handOff s f x) := by
  unfold State.handOff
  try dsimp only
  repeat' first
    | intro _
    | with_reducible exact hk
    | with_reducible apply State.feedDma_keeps
    | with_reducible apply State.setDma_keeps
    | with_reducible apply ite_keeps
    | with_reducible refine keeps_snd (by assumption) ?_
    | with_reducible refine keeps_snd2 (by assumption) ?_
    | with_reducible assumption
    | split
    | dsimp only
    | with_reducible apply keeps_mk

theorem issueDma_keeps {s0 s : State} (hk : Keeps s0 s) (i : StreamId) (w : InstrWord) :
    Keeps s0 (issueDma i w s) := by
  unfold issueDma
  try dsimp only
  repeat' first
    | intro _
    | with_reducible exact hk
    | with_reducible apply State.handOff_keeps
    | with_reducible apply State.signal_keeps
    | with_reducible apply issue_keeps
    | with_reducible apply ite_keeps
    | with_reducible refine keeps_snd (by assumption) ?_
    | with_reducible refine keeps_snd2 (by assumption) ?_
    | with_reducible assumption
    | split
    | dsimp only

theorem State.gaugeSheaf_keeps {s0 s : State} (hk : Keeps s0 s) (f : Nat) (c : Nat) (a : Nat) (len : Nat) :
    Keeps s0 (State.gaugeSheaf s f c a len) := by
  unfold State.gaugeSheaf
  try dsimp only
  repeat' first
    | intro _
    | with_reducible exact hk
    | with_reducible apply State.peak_keeps
    | with_reducible apply ite_keeps
    | with_reducible refine keeps_snd (by assumption) ?_
    | with_reducible refine keeps_snd2 (by assumption) ?_
    | with_reducible assumption
    | split
    | dsimp only

theorem State.gaugeAct_keeps {s0 s : State} (hk : Keeps s0 s) (f : Nat) (c : Nat) (a : Nat) (len : Nat) :
    Keeps s0 (State.gaugeAct s f c a len) := by
  unfold State.gaugeAct
  try dsimp only
  repeat' first
    | intro _
    | with_reducible exact hk
    | with_reducible apply State.peak_keeps
    | with_reducible apply ite_keeps
    | with_reducible refine keeps_snd (by assumption) ?_
    | with_reducible refine keeps_snd2 (by assumption) ?_
    | with_reducible assumption
    | split
    | dsimp only

theorem State.moveRow_keeps {s0 s : State} (hk : Keeps s0 s) (x : Xfer) (row : Nat × Nat) :
    Keeps s0 (State.moveRow s x row) := by
  unfold State.moveRow
  try dsimp only
  repeat' first
    | intro _
    | with_reducible exact hk
    | with_reducible apply State.seedWrite_keeps
    | with_reducible apply State.hbmRead_keeps
    | with_reducible apply State.gaugeAct_keeps
    | with_reducible apply State.sheafWrite_keeps
    | with_reducible apply State.hbmWrite_keeps
    | with_reducible apply State.gaugeSheaf_keeps
    | with_reducible apply ite_keeps
    | with_reducible refine keeps_snd (by assumption) ?_
    | with_reducible refine keeps_snd2 (by assumption) ?_
    | with_reducible assumption
    | split
    | dsimp only
    | with_reducible apply keeps_mk

theorem State.sourceLost_keeps {s0 s : State} (hk : Keeps s0 s) (x : Xfer) (lost : List Nat) :
    Keeps s0 (State.sourceLost s x lost) := by
  unfold State.sourceLost
  try dsimp only
  repeat' first
    | intro _
    | with_reducible exact hk
    | with_reducible apply State.seedLost_keeps
    | with_reducible apply State.sheafLost_keeps
    | with_reducible apply ite_keeps
    | with_reducible refine keeps_snd (by assumption) ?_
    | with_reducible refine keeps_snd2 (by assumption) ?_
    | with_reducible assumption
    | split
    | dsimp only
    | with_reducible apply keeps_mk

theorem issueStep_keeps {s0 s : State} (hk : Keeps s0 s) (i : StreamId) (w : InstrWord) :
    Keeps s0 (issueStep i w s) := by
  unfold issueStep
  try dsimp only
  repeat' first
    | intro _
    | with_reducible exact hk
    | with_reducible apply State.stepProgress_keeps
    | with_reducible apply State.setCtx_keeps
    | with_reducible apply State.setSt_keeps
    | with_reducible apply issue_keeps
    | with_reducible apply ite_keeps
    | with_reducible refine keeps_snd (by assumption) ?_
    | with_reducible refine keeps_snd2 (by assumption) ?_
    | with_reducible assumption
    | split
    | dsimp only
    | with_reducible apply keeps_mk

theorem issueEnd_keeps {s0 s : State} (hk : Keeps s0 s) (i : StreamId) (w : InstrWord) :
    Keeps s0 (issueEnd i w s) := by
  unfold issueEnd
  try dsimp only
  repeat' first
    | intro _
    | with_reducible exact hk
    | with_reducible apply State.launchEnded_keeps
    | with_reducible apply State.setSt_keeps
    | with_reducible apply issue_keeps
    | with_reducible apply ite_keeps
    | with_reducible refine keeps_snd (by assumption) ?_
    | with_reducible refine keeps_snd2 (by assumption) ?_
    | with_reducible assumption
    | split
    | dsimp only
    | with_reducible apply keeps_mk

theorem State.setOp_keeps {s0 s : State} (hk : Keeps s0 s) (o : ColOp) :
    Keeps s0 (State.setOp s o) := by
  unfold State.setOp
  try dsimp only
  repeat' first
    | intro _
    | with_reducible exact hk
    | with_reducible apply State.setEng_keeps
    | with_reducible apply ite_keeps
    | with_reducible refine keeps_snd (by assumption) ?_
    | with_reducible refine keeps_snd2 (by assumption) ?_
    | with_reducible assumption
    | split
    | dsimp only
    | with_reducible apply keeps_mk

theorem State.showOps_keeps {s0 s : State} (hk : Keeps s0 s) (f : Nat) :
    Keeps s0 (State.showOps s f) := by
  unfold State.showOps
  try dsimp only
  repeat' first
    | intro _
    | with_reducible exact hk
    | with_reducible apply State.wf_keeps
    | with_reducible apply ite_keeps
    | with_reducible refine keeps_snd (by assumption) ?_
    | with_reducible refine keeps_snd2 (by assumption) ?_
    | with_reducible assumption
    | split
    | dsimp only

theorem State.failOp_keeps {s0 s : State} (hk : Keeps s0 s) (o : ColOp) (st : Nat) :
    Keeps s0 (State.failOp s o st) := by
  unfold State.failOp
  try dsimp only
  repeat' first
    | intro _
    | with_reducible exact hk
    | with_reducible apply State.setOp_keeps
    | with_reducible apply ite_keeps
    | with_reducible refine keeps_snd (by assumption) ?_
    | with_reducible refine keeps_snd2 (by assumption) ?_
    | with_reducible assumption
    | split
    | dsimp only
    | with_reducible apply keeps_mk

theorem State.colRead_keeps {s0 s : State} (hk : Keeps s0 s) (o : ColOp) (d : Desc) (a : Nat) (n : Nat) :
    Keeps s0 (State.colRead s o d a n).2.2 := by
  unfold State.colRead
  try dsimp only
  repeat' first
    | intro _
    | with_reducible exact hk
    | with_reducible apply State.hbmRead_keeps
    | with_reducible apply State.failOp_keeps
    | with_reducible apply ite_keeps
    | with_reducible refine keeps_snd (by assumption) ?_
    | with_reducible refine keeps_snd2 (by assumption) ?_
    | with_reducible assumption
    | split
    | dsimp only
    | with_reducible apply keeps_mk

theorem State.colWrite_keeps {s0 s : State} (hk : Keeps s0 s) (o : ColOp) (d : Desc) (a : Nat) (b : List Byte) :
    Keeps s0 (State.colWrite s o d a b) := by
  unfold State.colWrite
  try dsimp only
  repeat' first
    | intro _
    | with_reducible exact hk
    | with_reducible apply State.seedWrite_keeps
    | with_reducible apply State.hbmWrite_keeps
    | with_reducible apply State.failOp_keeps
    | with_reducible refine foldl_keeps ?_ ?_
    | with_reducible apply ite_keeps
    | with_reducible refine keeps_snd (by assumption) ?_
    | with_reducible refine keeps_snd2 (by assumption) ?_
    | with_reducible assumption
    | split
    | dsimp only
    | with_reducible apply keeps_mk

theorem State.spill_keeps {s0 s : State} (hk : Keeps s0 s) (o : ColOp) (key : Nat) (v : List Word32) :
    Keeps s0 (State.spill s o key v) := by
  unfold State.spill
  try dsimp only
  repeat' first
    | intro _
    | with_reducible exact hk
    | with_reducible apply State.hbmWrite_keeps
    | with_reducible apply State.setOp_keeps
    | with_reducible apply State.failOp_keeps
    | with_reducible apply ite_keeps
    | with_reducible refine keeps_snd (by assumption) ?_
    | with_reducible refine keeps_snd2 (by assumption) ?_
    | with_reducible assumption
    | split
    | dsimp only
    | with_reducible apply keeps_mk

theorem State.heldVal_keeps {s0 s : State} (hk : Keeps s0 s) (o : ColOp) (i : Nat) (k : Nat) (j : Nat) (v : List Word32) :
    Keeps s0 (State.heldVal s o i k j v).2 := by
  unfold State.heldVal
  try dsimp only
  repeat' first
    | intro _
    | with_reducible exact hk
    | with_reducible apply State.hbmRead_keeps
    | with_reducible apply State.failOp_keeps
    | with_reducible apply ite_keeps
    | with_reducible refine keeps_snd (by assumption) ?_
    | with_reducible refine keeps_snd2 (by assumption) ?_
    | with_reducible assumption
    | split
    | dsimp only

theorem State.storeAt_keeps {s0 s : State} (hk : Keeps s0 s) (o : ColOp) (d : Desc) (e : Nat) (x : List Byte × List Byte) :
    Keeps s0 (State.storeAt s o d e x) := by
  unfold State.storeAt
  try dsimp only
  repeat' first
    | intro _
    | with_reducible exact hk
    | with_reducible apply State.colWrite_keeps
    | with_reducible apply ite_keeps
    | with_reducible refine keeps_snd (by assumption) ?_
    | with_reducible refine keeps_snd2 (by assumption) ?_
    | with_reducible assumption
    | split
    | dsimp only

theorem State.sendChunk_keeps {s0 s : State} (hk : Keeps s0 s) (o : ColOp) (ptype : Nat) (m : Member) (kind : Nat)
    (node : Nat) (shard : Nat) (e : Nat) (fmt : Nat) (b : List Byte) (trunc : Bool) :
    Keeps s0 (State.sendChunk s o ptype m kind node shard e fmt b trunc) := by
  unfold State.sendChunk
  try dsimp only
  repeat' first
    | intro _
    | with_reducible exact hk
    | with_reducible apply State.sendPkt_keeps
    | with_reducible apply ite_keeps
    | with_reducible refine keeps_snd (by assumption) ?_
    | with_reducible refine keeps_snd2 (by assumption) ?_
    | with_reducible assumption
    | split
    | dsimp only

theorem State.dataHere_keeps {s0 s : State} (hk : Keeps s0 s) (o : ColOp) (i : Nat) (e : Nat) (fmt : Nat) (n : Nat) (b
    : List Byte) :
    Keeps s0 (State.dataHere s o i e fmt n b) := by
  unfold State.dataHere
  try dsimp only
  repeat' first
    | intro _
    | with_reducible exact hk
    | with_reducible apply State.sendChunk_keeps
    | with_reducible apply State.storeAt_keeps
    | with_reducible apply State.setOp_keeps
    | with_reducible refine foldl_keeps ?_ ?_
    | with_reducible apply ite_keeps
    | with_reducible refine keeps_snd (by assumption) ?_
    | with_reducible refine keeps_snd2 (by assumption) ?_
    | with_reducible assumption
    | split
    | dsimp only
    | with_reducible apply keeps_mk

theorem State.rootHere_keeps {s0 s : State} (hk : Keeps s0 s) (o : ColOp) (i : Nat) (j : Nat) (v : List Word32) :
    Keeps s0 (State.rootHere s o i j v) := by
  unfold State.rootHere
  try dsimp only
  repeat' first
    | intro _
    | with_reducible exact hk
    | with_reducible apply State.storeAt_keeps
    | with_reducible apply State.setOp_keeps
    | with_reducible apply State.dataHere_keeps
    | with_reducible apply ite_keeps
    | with_reducible refine keeps_snd (by assumption) ?_
    | with_reducible refine keeps_snd2 (by assumption) ?_
    | with_reducible assumption
    | split
    | dsimp only
    | with_reducible apply keeps_mk

theorem State.valueHere_keeps {s0 s : State} (hk : Keeps s0 s) (o : ColOp) (i : Nat) (k : Nat) (j : Nat) (kind : Nat)
    (v : List Word32) (raw : List Byte) :
    Keeps s0 (State.valueHere s o i k j kind v raw) := by
  unfold State.valueHere
  try dsimp only
  repeat' first
    | intro _
    | with_reducible exact hk
    | with_reducible apply State.sendChunk_keeps
    | with_reducible apply State.setOp_keeps
    | with_reducible apply State.rootHere_keeps
    | with_reducible apply ite_keeps
    | with_reducible refine keeps_snd (by assumption) ?_
    | with_reducible refine keeps_snd2 (by assumption) ?_
    | with_reducible assumption
    | split
    | dsimp only
    | with_reducible apply keeps_mk

theorem State.tryNode_keeps {s0 s : State} (hk : Keeps s0 s) (o : ColOp) (i : Nat) (j : Nat) (k : Nat) :
    Keeps s0 (State.tryNode s o i j k) := by
  unfold State.tryNode
  try dsimp only
  repeat' first
    | intro _
    | with_reducible exact hk
    | with_reducible apply State.heldVal_keeps
    | with_reducible apply State.bump64_keeps
    | with_reducible apply State.valueHere_keeps
    | with_reducible apply ite_keeps
    | with_reducible refine keeps_snd (by assumption) ?_
    | with_reducible refine keeps_snd2 (by assumption) ?_
    | with_reducible assumption
    | split
    | dsimp only
    | with_reducible apply keeps_mk

theorem State.runChunk_keeps {s0 s : State} (hk : Keeps s0 s) (o : ColOp) (i : Nat) (j : Nat) :
    Keeps s0 (State.runChunk s o i j) := by
  unfold State.runChunk
  try dsimp only
  repeat' first
    | intro _
    | with_reducible exact hk
    | with_reducible apply State.spill_keeps
    | with_reducible apply State.tryNode_keeps
    | with_reducible refine foldl_keeps ?_ ?_
    | with_reducible apply ite_keeps
    | with_reducible refine keeps_snd (by assumption) ?_
    | with_reducible refine keeps_snd2 (by assumption) ?_
    | with_reducible assumption
    | split
    | dsimp only

theorem State.setSrv_keeps {s0 s : State} (hk : Keeps s0 s) (c : Nat) (x : ServSt) : Keeps s0 (s.setSrv c x) :=
  keeps_serv hk _ fun h => sorted_sputD h _ _ _

theorem State.markLayer_keeps {s0 s : State} (hk : Keeps s0 s) (c : Nat) (layer : Nat) (bad : Bool) :
    Keeps s0 (State.markLayer s c layer bad) := by
  unfold State.markLayer
  try dsimp only
  repeat' first
    | intro _
    | with_reducible exact hk
    | with_reducible apply State.setSrv_keeps
    | with_reducible apply State.wf_keeps
    | with_reducible apply ite_keeps
    | with_reducible refine keeps_snd (by assumption) ?_
    | with_reducible refine keeps_snd2 (by assumption) ?_
    | with_reducible assumption
    | split
    | dsimp only
    | with_reducible apply keeps_mk

theorem State.swapEnded_keeps {s0 s : State} (hk : Keeps s0 s) (c : Nat) (q : Nat) (seq : Nat) (st : Nat) :
    Keeps s0 (State.swapEnded s c q seq st) := by
  unfold State.swapEnded
  try dsimp only
  repeat' first
    | intro _
    | with_reducible exact hk
    | with_reducible apply State.markLayer_keeps
    | with_reducible apply State.setSrv_keeps
    | with_reducible apply ite_keeps
    | with_reducible refine keeps_snd (by assumption) ?_
    | with_reducible refine keeps_snd2 (by assumption) ?_
    | with_reducible assumption
    | split
    | dsimp only
    | with_reducible apply keeps_mk

theorem State.tellUser_keeps {s0 s : State} (hk : Keeps s0 s) (o : ColOp) (st : Nat) (fence : Bool) (u : ColUser) :
    Keeps s0 (State.tellUser s o st fence u) := by
  unfold State.tellUser
  try dsimp only
  repeat' first
    | intro _
    | with_reducible exact hk
    | with_reducible apply State.finishCmd_keeps
    | with_reducible apply State.swapEnded_keeps
    | with_reducible apply State.signal_keeps
    | with_reducible apply ite_keeps
    | with_reducible refine keeps_snd (by assumption) ?_
    | with_reducible refine keeps_snd2 (by assumption) ?_
    | with_reducible assumption
    | split
    | dsimp only
    | with_reducible apply keeps_mk

theorem State.putStatus_keeps {s0 s : State} (hk : Keeps s0 s) (o : ColOp) (st : Nat) :
    Keeps s0 (State.putStatus s o st) := by
  unfold State.putStatus
  try dsimp only
  repeat' first
    | intro _
    | with_reducible exact hk
    | with_reducible apply State.hbmWrite_keeps
    | with_reducible apply ite_keeps
    | with_reducible refine keeps_snd (by assumption) ?_
    | with_reducible refine keeps_snd2 (by assumption) ?_
    | with_reducible assumption
    | split
    | dsimp only

theorem State.noteFail_keeps {s0 s : State} (hk : Keeps s0 s) (o : ColOp) (st : Nat) :
    Keeps s0 (State.noteFail s o st) := by
  unfold State.noteFail
  try dsimp only
  repeat' first
    | intro _
    | with_reducible exact hk
    | with_reducible apply State.blockCause_keeps
    | with_reducible apply State.bump_keeps
    | with_reducible apply State.wf_keeps
    | with_reducible apply State.raiseFor_keeps
    | with_reducible apply ite_keeps
    | with_reducible refine keeps_snd (by assumption) ?_
    | with_reducible refine keeps_snd2 (by assumption) ?_
    | with_reducible assumption
    | split
    | dsimp only

theorem State.endOp_keeps {s0 s : State} (hk : Keeps s0 s) (o : ColOp) (st : Nat) (fence : Bool) :
    Keeps s0 (State.endOp s o st fence) := by
  unfold State.endOp
  try dsimp only
  repeat' first
    | intro _
    | with_reducible exact hk
    | with_reducible apply State.stepProgress_keeps
    | with_reducible apply State.tellUser_keeps
    | with_reducible apply State.reopenReport_keeps
    | with_reducible apply State.showOps_keeps
    | with_reducible apply State.setEng_keeps
    | with_reducible apply State.putStatus_keeps
    | with_reducible apply State.addTotals_keeps
    | with_reducible apply State.noteFail_keeps
    | with_reducible refine foldl_keeps ?_ ?_
    | with_reducible apply ite_keeps
    | with_reducible refine keeps_snd (by assumption) ?_
    | with_reducible refine keeps_snd2 (by assumption) ?_
    | with_reducible assumption
    | split
    | dsimp only
    | with_reducible apply keeps_mk

theorem State.readTables_keeps {s0 s : State} (hk : Keeps s0 s) (who : Consumer) (d : Desc) :
    Keeps s0 (State.readTables s who d).2 := by
  unfold State.readTables
  try dsimp only
  repeat' first
    | intro _
    | with_reducible exact hk
    | with_reducible apply State.hbmRead_keeps
    | with_reducible apply ite_keeps
    | with_reducible refine keeps_snd (by assumption) ?_
    | with_reducible refine keeps_snd2 (by assumption) ?_
    | with_reducible assumption
    | split
    | dsimp only

theorem State.startReduce_keeps {s0 s : State} (hk : Keeps s0 s) (o : ColOp) :
    Keeps s0 (State.startReduce s o) := by
  unfold State.startReduce
  try dsimp only
  repeat' first
    | intro _
    | with_reducible exact hk
    | with_reducible apply State.colRead_keeps
    | with_reducible apply State.valueHere_keeps
    | with_reducible apply State.failOp_keeps
    | with_reducible apply State.runChunk_keeps
    | with_reducible refine foldl_keeps ?_ ?_
    | with_reducible apply ite_keeps
    | with_reducible refine keeps_snd (by assumption) ?_
    | with_reducible refine keeps_snd2 (by assumption) ?_
    | with_reducible assumption
    | split
    | dsimp only

theorem State.sourceChunk_keeps {s0 s : State} (hk : Keeps s0 s) (o : ColOp) (host : List Byte) (e : Nat) (n : Nat) :
    Keeps s0 (State.sourceChunk s o host e n).2 := by
  unfold State.sourceChunk
  try dsimp only
  repeat' first
    | intro _
    | with_reducible exact hk
    | with_reducible apply State.colRead_keeps
    | with_reducible apply State.failOp_keeps
    | with_reducible apply ite_keeps
    | with_reducible refine keeps_snd (by assumption) ?_
    | with_reducible refine keeps_snd2 (by assumption) ?_
    | with_reducible assumption
    | split
    | dsimp only

theorem State.startGather_keeps {s0 s : State} (hk : Keeps s0 s) (o : ColOp) :
    Keeps s0 (State.startGather s o) := by
  unfold State.startGather
  try dsimp only
  repeat' first
    | intro _
    | with_reducible exact hk
    | with_reducible apply State.dataHere_keeps
    | with_reducible apply State.sourceChunk_keeps
    | with_reducible refine foldl_keeps ?_ ?_
    | with_reducible apply ite_keeps
    | with_reducible refine keeps_snd (by assumption) ?_
    | with_reducible refine keeps_snd2 (by assumption) ?_
    | with_reducible assumption
    | split
    | dsimp only

theorem State.startSow_keeps {s0 s : State} (hk : Keeps s0 s) (o : ColOp) (host : List Byte) :
    Keeps s0 (State.startSow s o host) := by
  unfold State.startSow
  try dsimp only
  repeat' first
    | intro _
    | with_reducible exact hk
    | with_reducible apply State.dataHere_keeps
    | with_reducible apply State.sourceChunk_keeps
    | with_reducible refine foldl_keeps ?_ ?_
    | with_reducible apply ite_keeps
    | with_reducible refine keeps_snd (by assumption) ?_
    | with_reducible refine keeps_snd2 (by assumption) ?_
    | with_reducible assumption
    | split
    | dsimp only

theorem State.discardPkt_keeps {s0 s : State} (hk : Keeps s0 s) (f : Nat) (x : Pkt) (cause : Nat) :
    Keeps s0 (State.discardPkt s f x cause) := by
  unfold State.discardPkt
  try dsimp only
  repeat' first
    | intro _
    | with_reducible exact hk
    | with_reducible apply State.bump_keeps
    | with_reducible apply State.wf_keeps
    | with_reducible apply State.raiseSrc_keeps
    | with_reducible apply ite_keeps
    | with_reducible refine keeps_snd (by assumption) ?_
    | with_reducible refine keeps_snd2 (by assumption) ?_
    | with_reducible assumption
    | split
    | dsimp only

theorem State.feedOp_keeps {s0 s : State} (hk : Keeps s0 s) (o : ColOp) (x : Pkt) :
    Keeps s0 (State.feedOp s o x) := by
  unfold State.feedOp
  try dsimp only
  repeat' first
    | intro _
    | with_reducible exact hk
    | with_reducible apply State.setOp_keeps
    | with_reducible apply State.dataHere_keeps
    | with_reducible apply State.rootHere_keeps
    | with_reducible apply State.runChunk_keeps
    | with_reducible apply ite_keeps
    | with_reducible refine keeps_snd (by assumption) ?_
    | with_reducible refine keeps_snd2 (by assumption) ?_
    | with_reducible assumption
    | split
    | dsimp only
    | with_reducible apply keeps_mk

theorem State.takePkt_keeps {s0 s : State} (hk : Keeps s0 s) (o : ColOp) (x : Pkt) :
    Keeps s0 (State.takePkt s o x) := by
  unfold State.takePkt
  try dsimp only
  repeat' first
    | intro _
    | with_reducible exact hk
    | with_reducible apply State.discardPkt_keeps
    | with_reducible apply State.feedOp_keeps
    | with_reducible apply ite_keeps
    | with_reducible refine keeps_snd (by assumption) ?_
    | with_reducible refine keeps_snd2 (by assumption) ?_
    | with_reducible assumption
    | split
    | dsimp only

theorem State.showEarly_keeps {s0 s : State} (hk : Keeps s0 s) (f : Nat) (c : Nat) :
    Keeps s0 (State.showEarly s f c) := by
  unfold State.showEarly
  try dsimp only
  repeat' first
    | intro _
    | with_reducible exact hk
    | with_reducible apply State.wf_keeps
    | with_reducible apply State.peak_keeps
    | with_reducible apply ite_keeps
    | with_reducible refine keeps_snd (by assumption) ?_
    | with_reducible refine keeps_snd2 (by assumption) ?_
    | with_reducible assumption
    | split
    | dsimp only

theorem State.keepEarly_keeps {s0 s : State} (hk : Keeps s0 s) (f : Nat) (c : Nat) (x : Pkt) :
    Keeps s0 (State.keepEarly s f c x) := by
  unfold State.keepEarly
  try dsimp only
  repeat' first
    | intro _
    | with_reducible exact hk
    | with_reducible apply State.showEarly_keeps
    | with_reducible apply State.hbmWrite_keeps
    | with_reducible apply State.freeBytes_keeps
    | with_reducible apply State.setEng_keeps
    | with_reducible apply ite_keeps
    | with_reducible refine keeps_snd (by assumption) ?_
    | with_reducible refine keeps_snd2 (by assumption) ?_
    | with_reducible assumption
    | split
    | dsimp only
    | with_reducible apply keeps_mk

theorem State.easeEarly_keeps {s0 s : State} (hk : Keeps s0 s) (f : Nat) :
    Keeps s0 (State.easeEarly s f) := by
  unfold State.easeEarly
  try dsimp only
  repeat' first
    | intro _
    | with_reducible exact hk
    | with_reducible apply State.dropCond_keeps
    | with_reducible apply ite_keeps
    | with_reducible refine keeps_snd (by assumption) ?_
    | with_reducible refine keeps_snd2 (by assumption) ?_
    | with_reducible assumption
    | split
    | dsimp only

theorem State.drainEarly_keeps {s0 s : State} (hk : Keeps s0 s) (o : ColOp) :
    Keeps s0 (State.drainEarly s o) := by
  unfold State.drainEarly
  try dsimp only
  repeat' first
    | intro _
    | with_reducible exact hk
    | with_reducible apply State.takePkt_keeps
    | with_reducible apply State.showEarly_keeps
    | with_reducible apply State.easeEarly_keeps
    | with_reducible apply State.setEng_keeps
    | with_reducible refine foldl_keeps ?_ ?_
    | with_reducible apply ite_keeps
    | with_reducible refine keeps_snd (by assumption) ?_
    | with_reducible refine keeps_snd2 (by assumption) ?_
    | with_reducible assumption
    | split
    | dsimp only
    | with_reducible apply keeps_mk

theorem State.endAtOnce_keeps {s0 s : State} (hk : Keeps s0 s) (o : ColOp) (st : Nat) :
    Keeps s0 (State.endAtOnce s o st) := by
  unfold State.endAtOnce
  try dsimp only
  repeat' first
    | intro _
    | with_reducible exact hk
    | with_reducible apply State.endOp_keeps
    | with_reducible apply State.showOps_keeps
    | with_reducible apply State.setEng_keeps
    | with_reducible apply State.drainEarly_keeps
    | with_reducible apply ite_keeps
    | with_reducible refine keeps_snd (by assumption) ?_
    | with_reducible refine keeps_snd2 (by assumption) ?_
    | with_reducible assumption
    | split
    | dsimp only
    | with_reducible apply keeps_mk

theorem State.acceptCol_keeps {s0 s : State} (hk : Keeps s0 s) (f : Nat) (c : Nat) (desc : Nat) (u : ColUser) (step :
    Nat) (bound : Bool) (host : List Byte) :
    Keeps s0 (State.acceptCol s f c desc u step bound host) := by
  unfold State.acceptCol
  try dsimp only
  repeat' first
    | intro _
    | with_reducible exact hk
    | with_reducible apply State.hbmRead_keeps
    | with_reducible apply State.tellUser_keeps
    | with_reducible apply State.readTables_keeps
    | with_reducible apply State.showOps_keeps
    | with_reducible apply State.startGather_keeps
    | with_reducible apply State.endAtOnce_keeps
    | with_reducible apply State.setEng_keeps
    | with_reducible apply State.startReduce_keeps
    | with_reducible apply State.failOp_keeps
    | with_reducible apply State.putStatus_keeps
    | with_reducible apply State.drainEarly_keeps
    | with_reducible apply State.startSow_keeps
    | with_reducible apply State.noteFail_keeps
    | with_reducible apply ite_keeps
    | with_reducible refine keeps_snd (by assumption) ?_
    | with_reducible refine keeps_snd2 (by assumption) ?_
    | with_reducible assumption
    | split
    | dsimp only
    | with_reducible apply keeps_mk

theorem State.handCol_keeps {s0 s : State} (hk : Keeps s0 s) (f : Nat) (c : Nat) (desc : Nat) (u : ColUser) (bound :
    Bool) (host : List Byte) :
    Keeps s0 (State.handCol s f c desc u bound host) := by
  unfold State.handCol
  try dsimp only
  repeat' first
    | intro _
    | with_reducible exact hk
    | with_reducible apply State.tellUser_keeps
    | with_reducible apply State.readTables_keeps
    | with_reducible apply State.setOp_keeps
    | with_reducible apply State.setEng_keeps
    | with_reducible apply State.acceptCol_keeps
    | with_reducible apply ite_keeps
    | with_reducible refine keeps_snd (by assumption) ?_
    | with_reducible refine keeps_snd2 (by assumption) ?_
    | with_reducible assumption
    | split
    | dsimp only
    | with_reducible apply keeps_mk

theorem State.admitCols_keeps {s0 : State} (f n : Nat) : ∀ {s : State}, Keeps s0 s → Keeps s0 (State.admitCols f n s) := by
  induction n with
  | zero => exact fun h => h
  | succ n ih =>
    intro s h
    unfold State.admitCols
    dsimp only
    split
    · exact ite_keeps (ih (State.acceptCol_keeps (State.setEng_keeps h _ _) _ _ _ _ _ _ _)) h
    · exact h

theorem State.nextWaiting_keeps {s0 s : State} (hk : Keeps s0 s) (f : Nat) : Keeps s0 (s.nextWaiting f) :=
  State.admitCols_keeps f _ hk

theorem State.admitAll_keeps {s0 s : State} (hk : Keeps s0 s) :
    Keeps s0 (State.admitAll s) := by
  unfold State.admitAll
  try dsimp only
  repeat' first
    | intro _
    | with_reducible exact hk
    | with_reducible apply State.nextWaiting_keeps
    | with_reducible refine foldl_keeps ?_ ?_
    | with_reducible apply ite_keeps
    | with_reducible refine keeps_snd (by assumption) ?_
    | with_reducible refine keeps_snd2 (by assumption) ?_
    | with_reducible assumption
    | split
    | dsimp only

theorem issueCol_keeps {s0 s : State} (hk : Keeps s0 s) (host : List Byte) (i : StreamId) (w : InstrWord) :
    Keeps s0 (issueCol host i w s) := by
  unfold issueCol
  try dsimp only
  repeat' first
    | intro _
    | with_reducible exact hk
    | with_reducible apply State.handCol_keeps
    | with_reducible apply issue_keeps
    | with_reducible apply ite_keeps
    | with_reducible refine keeps_snd (by assumption) ?_
    | with_reducible refine keeps_snd2 (by assumption) ?_
    | with_reducible assumption
    | split
    | dsimp only

theorem State.consume_keeps {s0 s : State} (hk : Keeps s0 s) (p : Nat) (x : Pkt) (rest : List (Nat × Pkt)) :
    Keeps s0 (State.consume s p x rest) := by
  unfold State.consume
  try dsimp only
  repeat' first
    | intro _
    | with_reducible exact hk
    | with_reducible apply State.freeRx_keeps
    | with_reducible apply ite_keeps
    | with_reducible refine keeps_snd (by assumption) ?_
    | with_reducible refine keeps_snd2 (by assumption) ?_
    | with_reducible assumption
    | split
    | dsimp only
    | with_reducible apply keeps_mk

theorem State.dataPkt_keeps {s0 s t : State} (hk : Keeps s0 s) (x : Pkt) (h : s.dataPkt x = some t) : Keeps s0 t := by
  unfold State.dataPkt at h
  dsimp only at h
  repeat' first
    | (cases h; done)
    | cases h; first
      | exact State.discardPkt_keeps hk _ _ _
      | exact State.takePkt_keeps hk _ _
      | exact State.keepEarly_keeps hk _ _ _
    | split at h

theorem State.takeData'_keeps {s0 s : State} (hk : Keeps s0 s) (p ptype tc vc : Nat) :
    Keeps s0 (s.takeData' p ptype tc vc) := by
  unfold State.takeData'
  split
  · exact hk
  · refine ite_keeps hk ?_
    split
    · rename_i h
      exact State.easeEarly_keeps (State.dataPkt_keeps (State.consume_keeps hk _ _ _) _ h) _
    · exact State.raiseCond_keeps hk _ _

theorem State.sowCut_keeps {s0 s : State} (hk : Keeps s0 s) (x : Pkt) :
    Keeps s0 (State.sowCut s x) := by
  unfold State.sowCut
  try dsimp only
  repeat' first
    | intro _
    | with_reducible exact hk
    | with_reducible apply State.sendChunk_keeps
    | with_reducible refine foldl_keeps ?_ ?_
    | with_reducible apply ite_keeps
    | with_reducible refine keeps_snd (by assumption) ?_
    | with_reducible refine keeps_snd2 (by assumption) ?_
    | with_reducible assumption
    | split
    | dsimp only
    | with_reducible apply keeps_mk

theorem State.flipDue_keeps {s0 s : State} (hk : Keeps s0 s) (r : Region) (step : Nat) :
    Keeps s0 (State.flipDue s r step) := by
  unfold State.flipDue
  try dsimp only
  repeat' first
    | intro _
    | with_reducible exact hk
    | with_reducible apply State.setRegion_keeps
    | with_reducible refine foldl_keeps ?_ ?_
    | with_reducible apply ite_keeps
    | with_reducible refine keeps_snd (by assumption) ?_
    | with_reducible refine keeps_snd2 (by assumption) ?_
    | with_reducible assumption
    | split
    | dsimp only

theorem State.mirrorIn_keeps {s0 s : State} (hk : Keeps s0 s) (p : Nat) (vc : Nat) (k : Nat) (act : Pkt → State →
    State) (hact : ∀ x t, Keeps s0 t → Keeps s0 (act x t)) :
    Keeps s0 (State.mirrorIn s p vc k act) := by
  unfold State.mirrorIn
  try dsimp only
  repeat' first
    | intro _
    | with_reducible exact hk
    | with_reducible apply State.consume_keeps
    | with_reducible apply hact
    | with_reducible apply ite_keeps
    | with_reducible refine keeps_snd (by assumption) ?_
    | with_reducible refine keeps_snd2 (by assumption) ?_
    | with_reducible assumption
    | split
    | dsimp only
    | with_reducible apply keeps_mk

theorem State.failMirror_keeps {s0 s : State} (hk : Keeps s0 s) (i : Nat) :
    Keeps s0 (State.failMirror s i) := by
  unfold State.failMirror
  try dsimp only
  repeat' first
    | intro _
    | with_reducible exact hk
    | with_reducible apply State.blockCause_keeps
    | with_reducible apply State.bump_keeps
    | with_reducible apply State.setRegion_keeps
    | with_reducible apply State.raiseFor_keeps
    | with_reducible apply ite_keeps
    | with_reducible refine keeps_snd (by assumption) ?_
    | with_reducible refine keeps_snd2 (by assumption) ?_
    | with_reducible assumption
    | split
    | dsimp only
    | with_reducible apply keeps_mk

theorem State.mirrorBegins_keeps {s0 s : State} (hk : Keeps s0 s) (c : Nat) : Keeps s0 (s.mirrorBegins c) := by
  unfold State.mirrorBegins
  refine foldl_keeps (fun t e ht => ?_) hk
  exact ite_keeps (State.sendPkt_keeps (State.setRegion_keeps ht _ _) _ _) ht

theorem State.tableWrite_keeps {s0 s : State} (hk : Keeps s0 s) (c : Nat) (a : Nat) (b : List Byte) :
    Keeps s0 (State.tableWrite s c a b) := by
  unfold State.tableWrite
  try dsimp only
  repeat' first
    | intro _
    | with_reducible exact hk
    | with_reducible apply State.hbmWrite_keeps
    | with_reducible apply ite_keeps
    | with_reducible refine keeps_snd (by assumption) ?_
    | with_reducible refine keeps_snd2 (by assumption) ?_
    | with_reducible assumption
    | split
    | dsimp only

theorem State.writeTables_keeps {s0 s : State} (hk : Keeps s0 s) (c : Nat) (step : Nat) (a : Admission) :
    Keeps s0 (State.writeTables s c step a) := by
  unfold State.writeTables
  try dsimp only
  repeat' first
    | intro _
    | with_reducible exact hk
    | with_reducible apply State.tableWrite_keeps
    | with_reducible apply ite_keeps
    | with_reducible refine keeps_snd (by assumption) ?_
    | with_reducible refine keeps_snd2 (by assumption) ?_
    | with_reducible assumption
    | split
    | dsimp only

theorem State.writeShort_keeps {s0 s : State} (hk : Keeps s0 s) (c : Nat) (step : Nat) (a : Admission) (l : List (Nat
    × Nat × Nat)) :
    Keeps s0 (State.writeShort s c step a l) := by
  unfold State.writeShort
  try dsimp only
  repeat' first
    | intro _
    | with_reducible exact hk
    | with_reducible apply State.tableWrite_keeps
    | with_reducible apply State.bump_keeps
    | with_reducible apply State.wf_keeps
    | with_reducible apply ite_keeps
    | with_reducible refine keeps_snd (by assumption) ?_
    | with_reducible refine keeps_snd2 (by assumption) ?_
    | with_reducible assumption
    | split
    | dsimp only

theorem State.showServ_keeps {s0 s : State} (hk : Keeps s0 s) (c : Nat) :
    Keeps s0 (State.showServ s c) := by
  unfold State.showServ
  try dsimp only
  repeat' first
    | intro _
    | with_reducible exact hk
    | with_reducible apply State.wf_keeps
    | with_reducible refine foldl_keeps ?_ ?_
    | with_reducible apply ite_keeps
    | with_reducible refine keeps_snd (by assumption) ?_
    | with_reducible refine keeps_snd2 (by assumption) ?_
    | with_reducible assumption
    | split
    | dsimp only

theorem State.enterSwap_keeps {s0 s : State} (hk : Keeps s0 s) (c st : Nat) : Keeps s0 (s.enterSwap c st) := by
  unfold State.enterSwap
  refine ite_keeps (State.ctxEvent_keeps (keeps_engines (State.wf_keeps (State.setSrv_keeps hk _ _) _ _) _ fun h => ?_) _ _)
    (State.wf_keeps (State.setSrv_keeps hk _ _) _ _)
  exact sorted_map_snd _ (fun _ => rfl) h

theorem State.swapAtBoundary_keeps {s0 s : State} (hk : Keeps s0 s) (c : Nat) :
    Keeps s0 (State.swapAtBoundary s c) := by
  unfold State.swapAtBoundary
  try dsimp only
  repeat' first
    | intro _
    | with_reducible exact hk
    | with_reducible apply State.enterSwap_keeps
    | with_reducible apply ite_keeps
    | with_reducible refine keeps_snd (by assumption) ?_
    | with_reducible refine keeps_snd2 (by assumption) ?_
    | with_reducible assumption
    | split
    | dsimp only

theorem State.servBegin_keeps {s0 s : State} (hk : Keeps s0 s) (c : Nat) (step : Nat) (a : Admission) :
    Keeps s0 (State.servBegin s c step a) := by
  unfold State.servBegin
  try dsimp only
  repeat' first
    | intro _
    | with_reducible exact hk
    | with_reducible apply State.setSrv_keeps
    | with_reducible apply State.wf_keeps
    | with_reducible apply State.writeTables_keeps
    | with_reducible apply ite_keeps
    | with_reducible refine keeps_snd (by assumption) ?_
    | with_reducible refine keeps_snd2 (by assumption) ?_
    | with_reducible assumption
    | split
    | dsimp only
    | with_reducible apply keeps_mk

theorem State.servCommit_keeps {s0 s : State} (hk : Keeps s0 s) (c : Nat) :
    Keeps s0 (State.servCommit s c) := by
  unfold State.servCommit
  try dsimp only
  repeat' first
    | intro _
    | with_reducible exact hk
    | with_reducible apply State.swapAtBoundary_keeps
    | with_reducible apply State.finishCmd_keeps
    | with_reducible apply State.showServ_keeps
    | with_reducible apply State.setSrv_keeps
    | with_reducible apply State.bump_keeps
    | with_reducible refine foldl_keeps ?_ ?_
    | with_reducible apply ite_keeps
    | with_reducible refine keeps_snd (by assumption) ?_
    | with_reducible refine keeps_snd2 (by assumption) ?_
    | with_reducible assumption
    | split
    | dsimp only
    | with_reducible apply keeps_mk

theorem State.servAbort_keeps {s0 s : State} (hk : Keeps s0 s) (c : Nat) :
    Keeps s0 (State.servAbort s c) := by
  unfold State.servAbort
  try dsimp only
  repeat' first
    | intro _
    | with_reducible exact hk
    | with_reducible apply State.swapAtBoundary_keeps
    | with_reducible apply State.showServ_keeps
    | with_reducible apply State.setSrv_keeps
    | with_reducible apply ite_keeps
    | with_reducible refine keeps_snd (by assumption) ?_
    | with_reducible refine keeps_snd2 (by assumption) ?_
    | with_reducible assumption
    | split
    | dsimp only
    | with_reducible apply keeps_mk

theorem State.servLose_keeps {s0 s : State} (hk : Keeps s0 s) (c : Nat) (f : Nat) :
    Keeps s0 (State.servLose s c f) := by
  unfold State.servLose
  try dsimp only
  repeat' first
    | intro _
    | with_reducible exact hk
    | with_reducible apply State.swapAtBoundary_keeps
    | with_reducible apply State.showServ_keeps
    | with_reducible apply State.setSrv_keeps
    | with_reducible apply State.bump_keeps
    | with_reducible apply State.wf_keeps
    | with_reducible apply ite_keeps
    | with_reducible refine keeps_snd (by assumption) ?_
    | with_reducible refine keeps_snd2 (by assumption) ?_
    | with_reducible assumption
    | split
    | dsimp only
    | with_reducible apply keeps_mk

theorem State.queueError_keeps {s0 s : State} (hk : Keeps s0 s) (q : Nat) (cause : Nat) :
    Keeps s0 (State.queueError s q cause) := by
  unfold State.queueError
  try dsimp only
  repeat' first
    | intro _
    | with_reducible exact hk
    | with_reducible apply State.wf_keeps
    | with_reducible apply State.raiseFor_keeps
    | with_reducible apply ite_keeps
    | with_reducible refine keeps_snd (by assumption) ?_
    | with_reducible refine keeps_snd2 (by assumption) ?_
    | with_reducible assumption
    | split
    | dsimp only

theorem State.writeCpl_keeps {s0 s : State} (hk : Keeps s0 s) (q : Nat) (ok : Bool) :
    Keeps s0 (State.writeCpl s q ok) := by
  unfold State.writeCpl
  try dsimp only
  repeat' first
    | intro _
    | with_reducible exact hk
    | with_reducible apply State.hbmWrite_keeps
    | with_reducible apply State.hostWrite_keeps
    | with_reducible apply State.setQueue_keeps
    | with_reducible apply State.wf_keeps
    | with_reducible apply State.sendMsg_keeps
    | with_reducible apply State.queueError_keeps
    | with_reducible apply ite_keeps
    | with_reducible refine keeps_snd (by assumption) ?_
    | with_reducible refine keeps_snd2 (by assumption) ?_
    | with_reducible assumption
    | split
    | dsimp only
    | with_reducible apply keeps_mk

theorem State.flushFuel_keeps {s0 : State} (q n : Nat) : ∀ {s : State}, Keeps s0 s → Keeps s0 (s.flushFuel q n) := by
  induction n with
  | zero => exact fun h => h
  | succ n ih => exact fun h => ite_keeps (ih (State.writeCpl_keeps h q true)) h

theorem State.flushQueue_keeps {s0 s : State} (hk : Keeps s0 s) (q : Nat) : Keeps s0 (s.flushQueue q) :=
  ite_keeps (State.flushFuel_keeps q _ hk) hk

theorem State.passStart_keeps {s0 s : State} (hk : Keeps s0 s) (q : Nat) (c : QCmd) :
    Keeps s0 (State.passStart s q c) := by
  unfold State.passStart
  try dsimp only
  repeat' first
    | intro _
    | with_reducible exact hk
    | with_reducible apply State.setQueue_keeps
    | with_reducible apply State.wf_keeps
    | with_reducible apply ite_keeps
    | with_reducible refine keeps_snd (by assumption) ?_
    | with_reducible refine keeps_snd2 (by assumption) ?_
    | with_reducible assumption
    | split
    | dsimp only
    | with_reducible apply keeps_mk

theorem State.passDead_keeps {s0 : State} (q n : Nat) : ∀ {s : State}, Keeps s0 s → Keeps s0 (s.passDead q n) := by
  induction n with
  | zero => exact fun h => h
  | succ n ih =>
    intro s h
    unfold State.passDead
    dsimp only
    split
    · exact ite_keeps h (ih (State.passStart_keeps (State.setQueue_keeps h _ _) _ _))
    · exact h

theorem State.releaseCmds_keeps {s0 s : State} (hk : Keeps s0 s) (c : Nat) :
    Keeps s0 (State.releaseCmds s c) := by
  unfold State.releaseCmds
  try dsimp only
  repeat' first
    | intro _
    | with_reducible exact hk
    | with_reducible apply State.flushQueue_keeps
    | with_reducible apply State.setQueue_keeps
    | with_reducible refine foldl_keeps ?_ ?_
    | with_reducible apply ite_keeps
    | with_reducible refine keeps_snd (by assumption) ?_
    | with_reducible refine keeps_snd2 (by assumption) ?_
    | with_reducible assumption
    | split
    | dsimp only
    | with_reducible apply keeps_mk

theorem State.abortQueue_keeps {s0 s : State} (hk : Keeps s0 s) (rings : Rings) (n q : Nat) :
    Keeps s0 (s.abortQueue rings n q) :=
  State.flushQueue_keeps (State.passDead_keeps q _ (State.setQueue_keeps hk _ _)) q

theorem State.abortCmds_keeps {s0 s : State} (hk : Keeps s0 s) (rings : Rings) (c : Nat) :
    Keeps s0 (State.abortCmds s rings c) := by
  unfold State.abortCmds
  try dsimp only
  repeat' first
    | intro _
    | with_reducible exact hk
    | with_reducible apply State.abortQueue_keeps
    | with_reducible refine foldl_keeps ?_ ?_
    | with_reducible apply ite_keeps
    | with_reducible refine keeps_snd (by assumption) ?_
    | with_reducible refine keeps_snd2 (by assumption) ?_
    | with_reducible assumption
    | split
    | dsimp only
    | with_reducible apply keeps_mk

theorem State.clearLoss_keeps {s0 s : State} (hk : Keeps s0 s) (c : Nat) :
    Keeps s0 (State.clearLoss s c) := by
  unfold State.clearLoss
  try dsimp only
  repeat' first
    | intro _
    | with_reducible exact hk
    | with_reducible apply State.setReg_keeps
    | with_reducible apply State.setCtx_keeps
    | with_reducible apply State.wf_keeps
    | with_reducible apply ite_keeps
    | with_reducible refine keeps_snd (by assumption) ?_
    | with_reducible refine keeps_snd2 (by assumption) ?_
    | with_reducible assumption
    | split
    | dsimp only
    | with_reducible apply keeps_mk

theorem State.lossFold_keeps {s0 s : State} (hk : Keeps s0 s) (c : Nat) :
    Keeps s0 (State.lossFold s c) := by
  unfold State.lossFold
  try dsimp only
  repeat' first
    | intro _
    | with_reducible exact hk
    | with_reducible apply State.setReg_keeps
    | with_reducible apply State.setCtx_keeps
    | with_reducible apply State.wf_keeps
    | with_reducible apply ite_keeps
    | with_reducible refine keeps_snd (by assumption) ?_
    | with_reducible refine keeps_snd2 (by assumption) ?_
    | with_reducible assumption
    | split
    | dsimp only
    | with_reducible apply keeps_mk

theorem State.lossUnfold_keeps {s0 s : State} (hk : Keeps s0 s) (c : Nat) :
    Keeps s0 (State.lossUnfold s c) := by
  unfold State.lossUnfold
  try dsimp only
  repeat' first
    | intro _
    | with_reducible exact hk
    | with_reducible apply State.setReg_keeps
    | with_reducible apply State.wf_keeps
    | with_reducible apply ite_keeps
    | with_reducible refine keeps_snd (by assumption) ?_
    | with_reducible refine keeps_snd2 (by assumption) ?_
    | with_reducible assumption
    | split
    | dsimp only

theorem State.toggleOwn_keeps {s0 s : State} (hk : Keeps s0 s) (c : Nat) : Keeps s0 (s.toggleOwn c) := by
  refine keeps_regions hk _ fun h => sorted_map_snd _ (fun e => ?_) h
  split <;> rfl

theorem State.clearCover_keeps {s0 s : State} (hk : Keeps s0 s) (r : Region) : Keeps s0 (s.clearCover r) :=
  keeps_coverage hk _ fun h => sorted_sclear h _ _

theorem State.clearCovers_keeps {s0 s : State} (hk : Keeps s0 s) (c : Nat) :
    Keeps s0 (State.clearCovers s c) := by
  unfold State.clearCovers
  try dsimp only
  repeat' first
    | intro _
    | with_reducible exact hk
    | with_reducible apply State.clearCover_keeps
    | with_reducible refine foldl_keeps ?_ ?_
    | with_reducible apply ite_keeps
    | with_reducible refine keeps_snd (by assumption) ?_
    | with_reducible refine keeps_snd2 (by assumption) ?_
    | with_reducible assumption
    | split
    | dsimp only

theorem State.sendToken_keeps {s0 s : State} (hk : Keeps s0 s) (c : Nat) (dev : Nat) (dctx : Nat) (kind : Nat) (gid :
    Nat) (step : Nat) :
    Keeps s0 (State.sendToken s c dev dctx kind gid step) := by
  unfold State.sendToken
  try dsimp only
  repeat' first
    | intro _
    | with_reducible exact hk
    | with_reducible apply State.sendPkt_keeps
    | with_reducible apply ite_keeps
    | with_reducible refine keeps_snd (by assumption) ?_
    | with_reducible refine keeps_snd2 (by assumption) ?_
    | with_reducible assumption
    | split
    | dsimp only

theorem State.tellChildren_keeps {s0 s : State} (hk : Keeps s0 s) (c : Nat) (kind : Nat) (step : Nat) :
    Keeps s0 (State.tellChildren s c kind step) := by
  unfold State.tellChildren
  try dsimp only
  repeat' first
    | intro _
    | with_reducible exact hk
    | with_reducible apply State.sendToken_keeps
    | with_reducible refine foldl_keeps ?_ ?_
    | with_reducible apply ite_keeps
    | with_reducible refine keeps_snd (by assumption) ?_
    | with_reducible refine keeps_snd2 (by assumption) ?_
    | with_reducible assumption
    | split
    | dsimp only
    | with_reducible apply keeps_mk

theorem State.tellMirrors_keeps {s0 s : State} (hk : Keeps s0 s) (c : Nat) (kind : Nat) (step : Nat) :
    Keeps s0 (State.tellMirrors s c kind step) := by
  unfold State.tellMirrors
  try dsimp only
  repeat' first
    | intro _
    | with_reducible exact hk
    | with_reducible apply State.sendToken_keeps
    | with_reducible refine foldl_keeps ?_ ?_
    | with_reducible apply ite_keeps
    | with_reducible refine keeps_snd (by assumption) ?_
    | with_reducible refine keeps_snd2 (by assumption) ?_
    | with_reducible assumption
    | split
    | dsimp only

theorem State.latchGroup_keeps {s0 s : State} (hk : Keeps s0 s) (c : Nat) :
    Keeps s0 (State.latchGroup s c) := by
  unfold State.latchGroup
  try dsimp only
  repeat' first
    | intro _
    | with_reducible exact hk
    | with_reducible apply State.hbmRead_keeps
    | with_reducible apply State.setCtx_keeps
    | with_reducible apply ite_keeps
    | with_reducible refine keeps_snd (by assumption) ?_
    | with_reducible refine keeps_snd2 (by assumption) ?_
    | with_reducible assumption
    | split
    | dsimp only
    | with_reducible apply keeps_mk

theorem State.commitStep_keeps {s0 s : State} (hk : Keeps s0 s) (c : Nat) :
    Keeps s0 (State.commitStep s c) := by
  unfold State.commitStep
  try dsimp only
  repeat' first
    | intro _
    | with_reducible exact hk
    | with_reducible apply State.tellChildren_keeps
    | with_reducible apply State.lossFold_keeps
    | with_reducible apply State.flushQueue_keeps
    | with_reducible apply State.tellMirrors_keeps
    | with_reducible apply State.bump_keeps
    | with_reducible apply State.toggleOwn_keeps
    | with_reducible apply State.setCtx_keeps
    | with_reducible apply State.wf_keeps
    | with_reducible apply State.releaseCmds_keeps
    | with_reducible apply State.servCommit_keeps
    | with_reducible refine foldl_keeps ?_ ?_
    | with_reducible apply ite_keeps
    | with_reducible refine keeps_snd (by assumption) ?_
    | with_reducible refine keeps_snd2 (by assumption) ?_
    | with_reducible assumption
    | split
    | dsimp only
    | with_reducible apply keeps_mk

theorem State.subtreeReady_keeps {s0 s : State} (hk : Keeps s0 s) (c : Nat) :
    Keeps s0 (State.subtreeReady s c) := by
  unfold State.subtreeReady
  try dsimp only
  repeat' first
    | intro _
    | with_reducible exact hk
    | with_reducible apply State.sendToken_keeps
    | with_reducible apply State.commitStep_keeps
    | with_reducible apply State.ctxEvent_keeps
    | with_reducible apply State.wf_keeps
    | with_reducible apply ite_keeps
    | with_reducible refine keeps_snd (by assumption) ?_
    | with_reducible refine keeps_snd2 (by assumption) ?_
    | with_reducible assumption
    | split
    | dsimp only
    | with_reducible apply keeps_mk

theorem State.undefOnChip_keeps {s0 s : State} (hk : Keeps s0 s) (c : Nat) : Keeps s0 (s.undefOnChip c) := by
  unfold State.undefOnChip
  refine foldl_keeps (fun t f ht => ?_) (State.fresh_keeps hk)
  refine keeps_sheaf (foldl_keeps (fun u n hu => ?_) ht) _ fun h => Memory.wf_undefUnits h (by decide)
      (Nat.le_add_right _ _) _
  exact keeps_glean (State.setFur_keeps hu _ _ _) _ fun h => Memory.wf_undefUnits h (by decide) (Nat.le_add_right _ _) _

theorem State.idleStream_keeps {s0 s : State} (hk : Keeps s0 s) (p : At) :
    Keeps s0 (State.idleStream s p) := by
  unfold State.idleStream
  try dsimp only
  repeat' first
    | intro _
    | with_reducible exact hk
    | with_reducible apply State.endFence_keeps
    | with_reducible apply State.setSt_keeps
    | with_reducible apply ite_keeps
    | with_reducible refine keeps_snd (by assumption) ?_
    | with_reducible refine keeps_snd2 (by assumption) ?_
    | with_reducible assumption
    | split
    | dsimp only
    | with_reducible apply keeps_mk

theorem State.stopWork_keeps {s0 s : State} (hk : Keeps s0 s) (c : Nat) : Keeps s0 (s.stopWork c) := by
  unfold State.stopWork
  refine foldl_keeps (fun t f ht => State.nextWaiting_keeps (State.showOps_keeps (State.feedDma_keeps ht f) f) f) ?_
  have h0 := foldl_keeps (l := s.streamsOf c) (f := State.idleStream) (fun t p ht => State.idleStream_keeps ht p) hk
  exact ⟨h0.pending, h0.fuses, fun c => let c := h0.canon c
    { c with
      furrows := sorted_map_snd _ (fun _ => rfl) c.furrows
      barriers := sorted_filter _ c.barriers
      dma := sorted_map_snd _ (fun _ => rfl) c.dma
      engines := sorted_map_snd _ (fun _ => rfl) c.engines }⟩

theorem State.abandonStep_keeps {s0 s : State} (hk : Keeps s0 s) (rings : Rings) (c : Nat) :
    Keeps s0 (State.abandonStep s rings c) := by
  unfold State.abandonStep
  try dsimp only
  repeat' first
    | intro _
    | with_reducible exact hk
    | with_reducible apply State.stopWork_keeps
    | with_reducible apply State.clearCovers_keeps
    | with_reducible apply State.setCtx_keeps
    | with_reducible apply State.undefOnChip_keeps
    | with_reducible apply State.wf_keeps
    | with_reducible apply State.abortCmds_keeps
    | with_reducible apply ite_keeps
    | with_reducible refine keeps_snd (by assumption) ?_
    | with_reducible refine keeps_snd2 (by assumption) ?_
    | with_reducible assumption
    | split
    | dsimp only
    | with_reducible apply keeps_mk

theorem State.abortStep_keeps {s0 s : State} (hk : Keeps s0 s) (rings : Rings) (c : Nat) (tree : Bool) :
    Keeps s0 (State.abortStep s rings c tree) := by
  unfold State.abortStep
  try dsimp only
  repeat' first
    | intro _
    | with_reducible exact hk
    | with_reducible apply State.tellChildren_keeps
    | with_reducible apply State.abandonStep_keeps
    | with_reducible apply State.servAbort_keeps
    | with_reducible apply State.bump_keeps
    | with_reducible apply State.setCtx_keeps
    | with_reducible apply State.wf_keeps
    | with_reducible apply ite_keeps
    | with_reducible refine keeps_snd (by assumption) ?_
    | with_reducible refine keeps_snd2 (by assumption) ?_
    | with_reducible assumption
    | split
    | dsimp only
    | with_reducible apply keeps_mk

theorem State.rollbackStep_keeps {s0 s : State} (hk : Keeps s0 s) (c : Nat) :
    Keeps s0 (State.rollbackStep s c) := by
  unfold State.rollbackStep
  try dsimp only
  repeat' first
    | intro _
    | with_reducible exact hk
    | with_reducible apply State.tellMirrors_keeps
    | with_reducible apply State.toggleOwn_keeps
    | with_reducible apply State.wf_keeps
    | with_reducible apply State.lossUnfold_keeps
    | with_reducible apply ite_keeps
    | with_reducible refine keeps_snd (by assumption) ?_
    | with_reducible refine keeps_snd2 (by assumption) ?_
    | with_reducible assumption
    | split
    | dsimp only

theorem State.adoptStep_keeps {s0 s : State} (hk : Keeps s0 s) (c : Nat) (n : Nat) :
    Keeps s0 (State.adoptStep s c n) := by
  unfold State.adoptStep
  try dsimp only
  repeat' first
    | intro _
    | with_reducible exact hk
    | with_reducible apply State.swapAtBoundary_keeps
    | with_reducible apply State.toggleOwn_keeps
    | with_reducible apply State.wf_keeps
    | with_reducible apply ite_keeps
    | with_reducible refine keeps_snd (by assumption) ?_
    | with_reducible refine keeps_snd2 (by assumption) ?_
    | with_reducible assumption
    | split
    | dsimp only

theorem State.beginFields_keeps {s0 s : State} (hk : Keeps s0 s) (c : Nat) : Keeps s0 (s.beginFields c) := by
  unfold State.beginFields
  refine foldl_keeps (fun t f ht => ?_) (keeps_barriers (keeps_sems hk _ fun h => sorted_filter _ h) _ fun h =>
      sorted_filter _ h)
  exact State.wf_keeps (State.wf_keeps (State.wf_keeps (State.wf_keeps ht _ _) _ _) _ _) _ _

theorem State.beginEngines_keeps {s0 s : State} (hk : Keeps s0 s) (c : Nat) :
    Keeps s0 (State.beginEngines s c) := by
  unfold State.beginEngines
  try dsimp only
  repeat' first
    | intro _
    | with_reducible exact hk
    | with_reducible apply State.showEarly_keeps
    | with_reducible apply State.easeEarly_keeps
    | with_reducible apply State.showOps_keeps
    | with_reducible apply State.setEng_keeps
    | with_reducible apply State.nextWaiting_keeps
    | with_reducible apply State.discardPkt_keeps
    | with_reducible refine foldl_keeps ?_ ?_
    | with_reducible apply ite_keeps
    | with_reducible refine keeps_snd (by assumption) ?_
    | with_reducible refine keeps_snd2 (by assumption) ?_
    | with_reducible assumption
    | split
    | dsimp only
    | with_reducible apply keeps_mk

theorem State.dropToken_keeps {s0 s : State} (hk : Keeps s0 s) (t : Token) (cause : Nat) :
    Keeps s0 (State.dropToken s t cause) := by
  unfold State.dropToken
  try dsimp only
  repeat' first
    | intro _
    | with_reducible exact hk
    | with_reducible apply State.bump_keeps
    | with_reducible apply State.wf_keeps
    | with_reducible apply State.raiseSrc_keeps
    | with_reducible apply ite_keeps
    | with_reducible refine keeps_snd (by assumption) ?_
    | with_reducible refine keeps_snd2 (by assumption) ?_
    | with_reducible assumption
    | split
    | dsimp only

theorem State.markChild_keeps {s0 s : State} (hk : Keeps s0 s) (c : Nat) (t : Token) :
    Keeps s0 (State.markChild s c t) := by
  unfold State.markChild
  try dsimp only
  repeat' first
    | intro _
    | with_reducible exact hk
    | with_reducible apply State.wf_keeps
    | with_reducible apply ite_keeps
    | with_reducible refine keeps_snd (by assumption) ?_
    | with_reducible refine keeps_snd2 (by assumption) ?_
    | with_reducible assumption
    | split
    | dsimp only
    | with_reducible apply keeps_mk

theorem State.takeHeld_keeps {s0 s : State} (hk : Keeps s0 s) (c : Nat) :
    Keeps s0 (State.takeHeld s c) := by
  unfold State.takeHeld
  try dsimp only
  repeat' first
    | intro _
    | with_reducible exact hk
    | with_reducible apply State.dropToken_keeps
    | with_reducible apply State.setCtx_keeps
    | with_reducible apply State.markChild_keeps
    | with_reducible refine foldl_keeps ?_ ?_
    | with_reducible apply ite_keeps
    | with_reducible refine keeps_snd (by assumption) ?_
    | with_reducible refine keeps_snd2 (by assumption) ?_
    | with_reducible assumption
    | split
    | dsimp only
    | with_reducible apply keeps_mk

theorem State.beginStreams_keeps {s0 s : State} (hk : Keeps s0 s) (c : Nat) :
    Keeps s0 (State.beginStreams s c) := by
  unfold State.beginStreams
  try dsimp only
  repeat' first
    | intro _
    | with_reducible exact hk
    | with_reducible apply State.setSt_keeps
    | with_reducible refine foldl_keeps ?_ ?_
    | with_reducible apply ite_keeps
    | with_reducible refine keeps_snd (by assumption) ?_
    | with_reducible refine keeps_snd2 (by assumption) ?_
    | with_reducible assumption
    | split
    | dsimp only
    | with_reducible apply keeps_mk

theorem State.beginStep_keeps {s0 s : State} (hk : Keeps s0 s) (c : Nat) (n : Nat) (mode : Nat) :
    Keeps s0 (State.beginStep s c n mode) := by
  unfold State.beginStep
  try dsimp only
  repeat' first
    | intro _
    | with_reducible exact hk
    | with_reducible apply State.beginEngines_keeps
    | with_reducible apply State.clearCovers_keeps
    | with_reducible apply State.blockCause_keeps
    | with_reducible apply State.latchGroup_keeps
    | with_reducible apply State.beginStreams_keeps
    | with_reducible apply State.mirrorBegins_keeps
    | with_reducible apply State.clearLoss_keeps
    | with_reducible apply State.beginFields_keeps
    | with_reducible apply State.arrive_keeps
    | with_reducible apply State.setCtx_keeps
    | with_reducible apply State.takeHeld_keeps
    | with_reducible apply State.wf_keeps
    | with_reducible apply ite_keeps
    | with_reducible refine keeps_snd (by assumption) ?_
    | with_reducible refine keeps_snd2 (by assumption) ?_
    | with_reducible assumption
    | split
    | dsimp only
    | with_reducible apply keeps_mk

theorem State.takeToken_keeps {s0 s : State} (hk : Keeps s0 s) (p : Nat) (vc : Nat) (k : Nat) (act : Token → State →
    State) (hact : ∀ x t, Keeps s0 t → Keeps s0 (act x t)) :
    Keeps s0 (State.takeToken s p vc k act) := by
  unfold State.takeToken
  try dsimp only
  repeat' first
    | intro _
    | with_reducible exact hk
    | with_reducible apply State.dropToken_keeps
    | with_reducible apply State.consume_keeps
    | with_reducible apply hact
    | with_reducible apply ite_keeps
    | with_reducible refine keeps_snd (by assumption) ?_
    | with_reducible refine keeps_snd2 (by assumption) ?_
    | with_reducible assumption
    | split
    | dsimp only
    | with_reducible apply keeps_mk

theorem State.stopCmd_keeps {s0 s : State} (hk : Keeps s0 s) (q : Nat) (w : CmdWord) (status : Nat) (detail : Nat) :
    Keeps s0 (State.stopCmd s q w status detail) := by
  unfold State.stopCmd
  try dsimp only
  repeat' first
    | intro _
    | with_reducible exact hk
    | with_reducible apply State.passStart_keeps
    | with_reducible apply ite_keeps
    | with_reducible refine keeps_snd (by assumption) ?_
    | with_reducible refine keeps_snd2 (by assumption) ?_
    | with_reducible assumption
    | split
    | dsimp only

theorem State.readCmd_keeps {s0 s : State} (hk : Keeps s0 s) (q : Nat) (ring : Option CmdWord) :
    Keeps s0 (State.readCmd s q ring).2 := by
  unfold State.readCmd
  try dsimp only
  repeat' first
    | intro _
    | with_reducible exact hk
    | with_reducible apply State.hbmRead_keeps
    | with_reducible apply ite_keeps
    | with_reducible refine keeps_snd (by assumption) ?_
    | with_reducible refine keeps_snd2 (by assumption) ?_
    | with_reducible assumption
    | split
    | dsimp only
    | with_reducible apply keeps_mk

theorem State.countJob_keeps {s0 s : State} (hk : Keeps s0 s) (u : Nat) :
    Keeps s0 (State.countJob s u) := by
  unfold State.countJob
  try dsimp only
  repeat' first
    | intro _
    | with_reducible exact hk
    | with_reducible apply State.wf_keeps
    | with_reducible apply ite_keeps
    | with_reducible refine keeps_snd (by assumption) ?_
    | with_reducible refine keeps_snd2 (by assumption) ?_
    | with_reducible assumption
    | split
    | dsimp only

theorem State.unstartInvalid_keeps {s0 s : State} (hk : Keeps s0 s) (q : Nat) (seq : Nat) :
    Keeps s0 (State.unstartInvalid s q seq) := by
  unfold State.unstartInvalid
  try dsimp only
  repeat' first
    | intro _
    | with_reducible exact hk
    | with_reducible apply State.setCmd_keeps
    | with_reducible apply ite_keeps
    | with_reducible refine keeps_snd (by assumption) ?_
    | with_reducible refine keeps_snd2 (by assumption) ?_
    | with_reducible assumption
    | split
    | dsimp only
    | with_reducible apply keeps_mk

theorem State.launchCmd_keeps {s0 s : State} (hk : Keeps s0 s) (q : Nat) (w : CmdWord) (f : State → State) (hf : ∀ t,
    Keeps s0 t → Keeps s0 (f t)) :
    Keeps s0 (State.launchCmd s q w f) := by
  unfold State.launchCmd
  try dsimp only
  repeat' first
    | intro _
    | with_reducible exact hk
    | with_reducible apply State.unstartInvalid_keeps
    | with_reducible apply State.passStart_keeps
    | with_reducible apply State.countJob_keeps
    | with_reducible apply hf
    | with_reducible apply ite_keeps
    | with_reducible refine keeps_snd (by assumption) ?_
    | with_reducible refine keeps_snd2 (by assumption) ?_
    | with_reducible assumption
    | split
    | dsimp only

/-- What a begun command does to the state keeps `Keeps`. -/
def Begun.Keeps (s0 : State) : Begun → Prop
  | .run f => ∀ t, Machine.Keeps s0 t → Machine.Keeps s0 (f t)
  | _ => True

theorem runCmd_keeps {s0 s : State} (hk : Keeps s0 s) (q opc : Nat) (body : CmdWord → Nat → State → Begun)
    (hb : ∀ w seq, (body w seq s).Keeps s0) : Keeps s0 (runCmd q opc body s) := by
  unfold runCmd
  split
  · exact hk
  · rename_i w _
    refine ite_keeps hk ?_
    dsimp only
    split
    · exact State.stopCmd_keeps hk _ _ _ _
    · exact hk
    · split
      · exact State.stopCmd_keeps hk _ _ _ _
      · exact hk
      · rename_i f hf
        have h := hb w (s.qStart q)
        rw [hf] at h
        exact State.launchCmd_keeps hk _ _ _ h

theorem thenOk_keeps {s0 : State} (q seq : Nat) (f : State → State) (hf : ∀ t, Keeps s0 t → Keeps s0 (f t)) :
    ∀ t, Keeps s0 t → Keeps s0 (thenOk q seq f t) :=
  fun t h => State.finishCmd_keeps (hf t h) _ _ _ _

theorem begun_stop {s0 : State} (a b : Nat) : (Begun.stop a b).Keeps s0 := trivial

theorem begun_wait {s0 : State} : Begun.wait.Keeps s0 := trivial

theorem begun_run {s0 : State} {f : State → State} (h : ∀ t, Keeps s0 t → Keeps s0 (f t)) : (Begun.run f).Keeps s0 := h

theorem begun_ok {s0 : State} (q seq : Nat) {f : State → State} (h : ∀ t, Keeps s0 t → Keeps s0 (f t)) :
    (Begun.run (thenOk q seq f)).Keeps s0 := thenOk_keeps q seq f h

theorem begun_ite {s0 : State} {a b : Begun} {c : Prop} [Decidable c] (ha : a.Keeps s0) (hb : b.Keeps s0) :
    (if c then a else b).Keeps s0 := by
  split
  · exact ha
  · exact hb

theorem argsThen_keeps {s0 : State} (l : List (Bool × Nat)) {k : Begun} (h : k.Keeps s0) : (argsThen l k).Keeps s0 := by
  unfold argsThen
  split
  · trivial
  · exact h

theorem State.startCopy_keeps {s0 : State} (s : State) (q seq : Nat) (w : CmdWord) (x : CopyOp) :
    (s.startCopy q seq w x).Keeps s0 := by
  unfold State.startCopy
  refine begun_ite (begun_ok _ _ fun t h => h) (begun_ite (begun_stop _ _) (begun_ite (begun_stop _ _) (begun_run fun
      t h => ?_)))
  exact keeps_mk h

theorem State.moveCopy_keeps {s0 s : State} (hk : Keeps s0 s) (x : CopyOp) (host : List Byte) :
    Keeps s0 (State.moveCopy s x host) := by
  unfold State.moveCopy
  try dsimp only
  repeat' first
    | intro _
    | with_reducible exact hk
    | with_reducible apply State.hbmRead_keeps
    | with_reducible apply State.hbmWrite_keeps
    | with_reducible apply State.hostWrite_keeps
    | with_reducible apply ite_keeps
    | with_reducible refine keeps_snd (by assumption) ?_
    | with_reducible refine keeps_snd2 (by assumption) ?_
    | with_reducible assumption
    | split
    | dsimp only
    | with_reducible apply keeps_mk

theorem stepArgs_keeps {s0 : State} (w : CmdWord) {k : Begun} (h : k.Keeps s0) : (stepArgs w k).Keeps s0 :=
    argsThen_keeps _ h

theorem State.loseField_keeps {s0 s : State} (hk : Keeps s0 s) (c : Nat) (f : Nat) :
    Keeps s0 (State.loseField s c f) := by
  unfold State.loseField
  try dsimp only
  repeat' first
    | intro _
    | with_reducible exact hk
    | with_reducible apply State.endOp_keeps
    | with_reducible apply State.showOps_keeps
    | with_reducible apply State.setEng_keeps
    | with_reducible apply State.nextWaiting_keeps
    | with_reducible refine foldl_keeps ?_ ?_
    | with_reducible apply ite_keeps
    | with_reducible refine keeps_snd (by assumption) ?_
    | with_reducible refine keeps_snd2 (by assumption) ?_
    | with_reducible assumption
    | split
    | dsimp only
    | with_reducible apply keeps_mk

theorem State.servingOnly_keeps {s0 : State} (s : State) (c : Nat) {k : Begun} (h : k.Keeps s0) : (s.servingOnly c
    k).Keeps s0 :=
  begun_ite h (begun_stop _ _)

theorem State.passScanned_keeps {s0 s : State} (hk : Keeps s0 s) (l : List Scanned) :
    Keeps s0 (State.passScanned s l) := by
  unfold State.passScanned
  try dsimp only
  repeat' first
    | intro _
    | with_reducible exact hk
    | with_reducible apply State.passStart_keeps
    | with_reducible apply State.countJob_keeps
    | with_reducible refine foldl_keeps ?_ ?_
    | with_reducible apply ite_keeps
    | with_reducible refine keeps_snd (by assumption) ?_
    | with_reducible refine keeps_snd2 (by assumption) ?_
    | with_reducible assumption
    | split
    | dsimp only

theorem State.beginServing_keeps {s0 s : State} (hk : Keeps s0 s) (c : Nat) (n : Nat) (mode : Nat) (l : List Scanned)
    (a : Admission) :
    Keeps s0 (State.beginServing s c n mode l a) := by
  unfold State.beginServing
  try dsimp only
  repeat' first
    | intro _
    | with_reducible exact hk
    | with_reducible apply State.passScanned_keeps
    | with_reducible apply State.beginStep_keeps
    | with_reducible apply State.servBegin_keeps
    | with_reducible apply ite_keeps
    | with_reducible refine keeps_snd (by assumption) ?_
    | with_reducible refine keeps_snd2 (by assumption) ?_
    | with_reducible assumption
    | split
    | dsimp only

theorem State.leaveNow_keeps {s0 s : State} (hk : Keeps s0 s) (c : Nat) (seqid : Nat) :
    Keeps s0 (State.leaveNow s c seqid) := by
  unfold State.leaveNow
  try dsimp only
  repeat' first
    | intro _
    | with_reducible exact hk
    | with_reducible apply State.swapAtBoundary_keeps
    | with_reducible apply State.showServ_keeps
    | with_reducible apply State.setSrv_keeps
    | with_reducible apply ite_keeps
    | with_reducible refine keeps_snd (by assumption) ?_
    | with_reducible refine keeps_snd2 (by assumption) ?_
    | with_reducible assumption
    | split
    | dsimp only
    | with_reducible apply keeps_mk

theorem State.openSwap_keeps {s0 s : State} (hk : Keeps s0 s) (c : Nat) (new : Bool) :
    Keeps s0 (State.openSwap s c new) := by
  unfold State.openSwap
  try dsimp only
  repeat' first
    | intro _
    | with_reducible exact hk
    | with_reducible apply State.setSrv_keeps
    | with_reducible apply State.setReg_keeps
    | with_reducible apply State.wf_keeps
    | with_reducible apply ite_keeps
    | with_reducible refine keeps_snd (by assumption) ?_
    | with_reducible refine keeps_snd2 (by assumption) ?_
    | with_reducible assumption
    | split
    | dsimp only
    | with_reducible apply keeps_mk

theorem State.touch_keeps {s0 s : State} (hk : Keeps s0 s) (c : Nat) (a : Nat) (n : Nat) :
    Keeps s0 (State.touch s c a n) := by
  unfold State.touch
  try dsimp only
  repeat' first
    | intro _
    | with_reducible exact hk
    | with_reducible apply State.hbmRead_keeps
    | with_reducible apply ite_keeps
    | with_reducible refine keeps_snd (by assumption) ?_
    | with_reducible refine keeps_snd2 (by assumption) ?_
    | with_reducible assumption
    | split
    | dsimp only

theorem State.pushLaunch_keeps {s0 s : State} (hk : Keeps s0 s) (f : Nat) (c : Nat) (t : LTable) (mk : Nat → Launch) :
    Keeps s0 (State.pushLaunch s f c t mk) := by
  unfold State.pushLaunch
  try dsimp only
  repeat' first
    | intro _
    | with_reducible exact hk
    | with_reducible apply State.setStrm_keeps
    | with_reducible apply State.reopenReport_keeps
    | with_reducible refine foldl_keeps ?_ ?_
    | with_reducible apply ite_keeps
    | with_reducible refine keeps_snd (by assumption) ?_
    | with_reducible refine keeps_snd2 (by assumption) ?_
    | with_reducible assumption
    | split
    | dsimp only
    | with_reducible apply keeps_mk

theorem State.pushRun_keeps {s0 s : State} (hk : Keeps s0 s) (f : Nat) (c : Nat) (q : Nat) (seq : Nat) (run : Nat) (t
    : LTable) (stride : List Nat) (i : Nat) (mark : Nat) :
    Keeps s0 (State.pushRun s f c q seq run t stride i mark) := by
  unfold State.pushRun
  try dsimp only
  repeat' first
    | intro _
    | with_reducible exact hk
    | with_reducible apply State.pushLaunch_keeps
    | with_reducible apply ite_keeps
    | with_reducible refine keeps_snd (by assumption) ?_
    | with_reducible refine keeps_snd2 (by assumption) ?_
    | with_reducible assumption
    | split
    | dsimp only

theorem State.startRun_keeps {s0 s : State} (hk : Keeps s0 s) (f : Nat) (c : Nat) (q : Nat) (seq : Nat) (a : Nat) :
    Keeps s0 (State.startRun s f c q seq a) := by
  unfold State.startRun
  try dsimp only
  repeat' first
    | intro _
    | with_reducible exact hk
    | with_reducible apply State.pushRun_keeps
    | with_reducible refine foldl_keeps ?_ ?_
    | with_reducible apply ite_keeps
    | with_reducible refine keeps_snd (by assumption) ?_
    | with_reducible refine keeps_snd2 (by assumption) ?_
    | with_reducible assumption
    | split
    | dsimp only
    | with_reducible apply keeps_mk

theorem State.startTable_keeps {s0 s : State} (hk : Keeps s0 s) (f : Nat) (c : Nat) (q : Nat) (seq : Nat) (a : Nat) :
    Keeps s0 (State.startTable s f c q seq a) := by
  unfold State.startTable
  try dsimp only
  repeat' first
    | intro _
    | with_reducible exact hk
    | with_reducible apply State.pushLaunch_keeps
    | with_reducible apply ite_keeps
    | with_reducible refine keeps_snd (by assumption) ?_
    | with_reducible refine keeps_snd2 (by assumption) ?_
    | with_reducible assumption
    | split
    | dsimp only

theorem State.touchFor_keeps {s0 s : State} (hk : Keeps s0 s) (seq : Bool) (c : Nat) (a : Nat) :
    Keeps s0 (State.touchFor s seq c a) := by
  unfold State.touchFor
  try dsimp only
  repeat' first
    | intro _
    | with_reducible exact hk
    | with_reducible apply State.touch_keeps
    | with_reducible apply ite_keeps
    | with_reducible refine keeps_snd (by assumption) ?_
    | with_reducible refine keeps_snd2 (by assumption) ?_
    | with_reducible assumption
    | split
    | dsimp only

theorem launchBody_keeps {s0 : State} (q : Nat) (seq : Bool) (w : CmdWord) (n : Nat) (s : State) :
    (launchBody q seq w n s).Keeps s0 := by
  unfold launchBody
  dsimp only
  refine begun_ite (begun_stop _ _) (begun_ite (begun_stop _ _) ?_)
  split
  · exact begun_stop _ _
  · refine begun_ite begun_wait (begun_ite (begun_stop _ _) (begun_ite (begun_stop _ _) (begun_ite (begun_stop _ _)
      (begun_ite (begun_stop _ _) (begun_run fun t h => State.launchEnded_keeps
        (foldl_keeps (fun _ _ hv => State.touchFor_keeps hv _ _ _) (foldl_keeps (fun u f hu => ?_) h)) _ _)))))
    exact ite_keeps (State.startRun_keeps hu _ _ _ _ _) (State.startTable_keeps hu _ _ _ _ _)

theorem issueUnknown_keeps {s0 s : State} (hk : Keeps s0 s) (i : StreamId) (w : InstrWord) :
    Keeps s0 (issueUnknown i w s) := by
  unfold issueUnknown
  try dsimp only
  repeat' first
    | intro _
    | with_reducible exact hk
    | with_reducible apply issue_keeps
    | with_reducible apply ite_keeps
    | with_reducible refine keeps_snd (by assumption) ?_
    | with_reducible refine keeps_snd2 (by assumption) ?_
    | with_reducible assumption
    | split
    | dsimp only
    | with_reducible apply keeps_mk

theorem State.almLose_keeps {s0 s : State} (hk : Keeps s0 s) :
    Keeps s0 (State.almLose s) := by
  unfold State.almLose
  try dsimp only
  repeat' first
    | intro _
    | with_reducible exact hk
    | with_reducible apply State.bump_keeps
    | with_reducible apply ite_keeps
    | with_reducible refine keeps_snd (by assumption) ?_
    | with_reducible refine keeps_snd2 (by assumption) ?_
    | with_reducible assumption
    | split
    | dsimp only

theorem State.almanac_keeps {s0 s : State} (hk : Keeps s0 s) (event : Nat) (page : Nat) (bit : Nat) (who : Option Nat)
    (detail : List Byte) (m : Meas) :
    Keeps s0 (State.almanac s event page bit who detail m) := by
  unfold State.almanac
  try dsimp only
  repeat' first
    | intro _
    | with_reducible exact hk
    | with_reducible apply State.almLose_keeps
    | with_reducible apply State.raiseSrc_keeps
    | with_reducible apply ite_keeps
    | with_reducible refine keeps_snd (by assumption) ?_
    | with_reducible refine keeps_snd2 (by assumption) ?_
    | with_reducible assumption
    | split
    | dsimp only
    | with_reducible apply keeps_mk

theorem State.readAlmanac_keeps {s0 s : State} (hk : Keeps s0 s) (cls : Nat) (index : Nat) (got : Option (List Byte)) :
    Keeps s0 (State.readAlmanac s cls index got).2 := by
  unfold State.readAlmanac
  try dsimp only
  repeat' first
    | intro _
    | with_reducible exact hk
    | with_reducible apply State.raiseSrc_keeps
    | with_reducible apply ite_keeps
    | with_reducible refine keeps_snd (by assumption) ?_
    | with_reducible refine keeps_snd2 (by assumption) ?_
    | with_reducible assumption
    | split
    | dsimp only

theorem State.startRead_keeps {s0 s : State} (hk : Keeps s0 s) :
    Keeps s0 (State.startRead s) := by
  unfold State.startRead
  try dsimp only
  repeat' first
    | intro _
    | with_reducible exact hk
    | with_reducible apply ite_keeps
    | with_reducible refine keeps_snd (by assumption) ?_
    | with_reducible refine keeps_snd2 (by assumption) ?_
    | with_reducible assumption
    | split
    | dsimp only
    | with_reducible apply keeps_mk

theorem State.harrowCheck_keeps {s0 s : State} (hk : Keeps s0 s) (f : Nat) (n : Nat) (o : DrnOp) (bit : Nat) :
    Keeps s0 (State.harrowCheck s f n o bit) := by
  unfold State.harrowCheck
  try dsimp only
  repeat' first
    | intro _
    | with_reducible exact hk
    | with_reducible apply State.bump_keeps
    | with_reducible apply State.firstCheck_keeps
    | with_reducible apply State.raiseSrc_keeps
    | with_reducible apply ite_keeps
    | with_reducible refine keeps_snd (by assumption) ?_
    | with_reducible refine keeps_snd2 (by assumption) ?_
    | with_reducible assumption
    | split
    | dsimp only

theorem State.harrowDrain_keeps {s0 s : State} (hk : Keeps s0 s) (f : Nat) (n : Nat) (t : Nat) (i : Nat) :
    Keeps s0 (State.harrowDrain s f n t i).2 := by
  unfold State.harrowDrain
  try dsimp only
  repeat' first
    | intro _
    | with_reducible exact hk
    | with_reducible apply State.setFur_keeps
    | with_reducible apply State.harrowCheck_keeps
    | with_reducible refine foldl_keeps ?_ ?_
    | with_reducible apply ite_keeps
    | with_reducible refine keeps_snd (by assumption) ?_
    | with_reducible refine keeps_snd2 (by assumption) ?_
    | with_reducible assumption
    | split
    | dsimp only
    | with_reducible apply keeps_mk

theorem State.harrowRun_keeps {s0 s : State} (hk : Keeps s0 s) (f : Nat) (n : Nat) (t : Nat) (bad : Bool) :
    Keeps s0 (State.harrowRun s f n t bad).2 := by
  unfold State.harrowRun
  try dsimp only
  repeat' first
    | intro _
    | with_reducible exact hk
    | with_reducible apply State.noteMma_keeps
    | with_reducible apply State.setFur_keeps
    | with_reducible apply State.harrowDrain_keeps
    | with_reducible apply State.fresh_keeps
    | with_reducible refine foldl_keeps ?_ ?_
    | with_reducible apply ite_keeps
    | with_reducible refine keeps_snd (by assumption) ?_
    | with_reducible refine keeps_snd2 (by assumption) ?_
    | with_reducible assumption
    | split
    | dsimp only
    | with_reducible apply keeps_mk

theorem State.harrowGo_keeps {s0 s : State} (hk : Keeps s0 s) (f : Nat) :
    Keeps s0 (State.harrowGo s f) := by
  unfold State.harrowGo
  try dsimp only
  repeat' first
    | intro _
    | with_reducible exact hk
    | with_reducible apply State.setReg_keeps
    | with_reducible apply State.wf_keeps
    | with_reducible apply ite_keeps
    | with_reducible refine keeps_snd (by assumption) ?_
    | with_reducible refine keeps_snd2 (by assumption) ?_
    | with_reducible assumption
    | split
    | dsimp only

theorem State.endHarrow_keeps {s0 s : State} (hk : Keeps s0 s) (f : Nat) (st : Nat) (m : Meas) :
    Keeps s0 (State.endHarrow s f st m) := by
  unfold State.endHarrow
  try dsimp only
  repeat' first
    | intro _
    | with_reducible exact hk
    | with_reducible apply State.almanac_keeps
    | with_reducible apply State.wf_keeps
    | with_reducible apply ite_keeps
    | with_reducible refine keeps_snd (by assumption) ?_
    | with_reducible refine keeps_snd2 (by assumption) ?_
    | with_reducible assumption
    | split
    | dsimp only

theorem State.stopHarrow_keeps {s0 s : State} (hk : Keeps s0 s) (f : Nat) (m : Meas) :
    Keeps s0 (State.stopHarrow s f m) := by
  unfold State.stopHarrow
  try dsimp only
  repeat' first
    | intro _
    | with_reducible exact hk
    | with_reducible apply State.endHarrow_keeps
    | with_reducible apply ite_keeps
    | with_reducible refine keeps_snd (by assumption) ?_
    | with_reducible refine keeps_snd2 (by assumption) ?_
    | with_reducible assumption
    | split
    | dsimp only

theorem State.harrowMismatch_keeps {s0 s : State} (hk : Keeps s0 s) (f : Nat) (n : Nat) (t : Nat) (attr : Nat) (m : Meas) :
    Keeps s0 (State.harrowMismatch s f n t attr m) := by
  unfold State.harrowMismatch
  try dsimp only
  repeat' first
    | intro _
    | with_reducible exact hk
    | with_reducible apply State.almanac_keeps
    | with_reducible apply State.raiseSrc_keeps
    | with_reducible apply ite_keeps
    | with_reducible refine keeps_snd (by assumption) ?_
    | with_reducible refine keeps_snd2 (by assumption) ?_
    | with_reducible assumption
    | split
    | dsimp only

theorem State.compareTile_keeps {s0 s : State} (hk : Keeps s0 s) (f : Nat) (t : Nat) (m : Meas) (differs : Bool) (eqA
    : Bool) (eqB : Bool) :
    Keeps s0 (State.compareTile s f t m differs eqA eqB) := by
  unfold State.compareTile
  try dsimp only
  repeat' first
    | intro _
    | with_reducible exact hk
    | with_reducible apply State.endHarrow_keeps
    | with_reducible apply State.harrowMismatch_keeps
    | with_reducible apply State.wf_keeps
    | with_reducible refine foldl_keeps ?_ ?_
    | with_reducible apply ite_keeps
    | with_reducible refine keeps_snd (by assumption) ?_
    | with_reducible refine keeps_snd2 (by assumption) ?_
    | with_reducible assumption
    | split
    | dsimp only

theorem State.shadowMismatch_keeps {s0 s : State} (hk : Keeps s0 s) (x : ShadowOp) (m : Meas) :
    Keeps s0 (State.shadowMismatch s x m) := by
  unfold State.shadowMismatch
  try dsimp only
  repeat' first
    | intro _
    | with_reducible exact hk
    | with_reducible apply State.blockCause_keeps
    | with_reducible apply State.bump_keeps
    | with_reducible apply State.almanac_keeps
    | with_reducible apply State.raiseFor_keeps
    | with_reducible refine foldl_keeps ?_ ?_
    | with_reducible apply ite_keeps
    | with_reducible refine keeps_snd (by assumption) ?_
    | with_reducible refine keeps_snd2 (by assumption) ?_
    | with_reducible assumption
    | split
    | dsimp only

theorem State.repeatSlot_keeps {s0 s : State} (hk : Keeps s0 s) (x : ShadowOp) (differs : Bool) :
    Keeps s0 (State.repeatSlot s x differs) := by
  unfold State.repeatSlot
  try dsimp only
  repeat' first
    | intro _
    | with_reducible exact hk
    | with_reducible apply State.setFur_keeps
    | with_reducible apply State.fresh_keeps
    | with_reducible apply ite_keeps
    | with_reducible refine keeps_snd (by assumption) ?_
    | with_reducible refine keeps_snd2 (by assumption) ?_
    | with_reducible assumption
    | split
    | dsimp only
    | with_reducible apply keeps_mk

theorem State.abandonCmd_keeps {s0 s : State} (hk : Keeps s0 s) (q : Nat) (seq : Nat) :
    Keeps s0 (State.abandonCmd s q seq) := by
  unfold State.abandonCmd
  try dsimp only
  repeat' first
    | intro _
    | with_reducible exact hk
    | with_reducible apply State.blockCause_keeps
    | with_reducible apply State.finishCmd_keeps
    | with_reducible apply State.setCmd_keeps
    | with_reducible apply ite_keeps
    | with_reducible refine keeps_snd (by assumption) ?_
    | with_reducible refine keeps_snd2 (by assumption) ?_
    | with_reducible assumption
    | split
    | dsimp only
    | with_reducible apply keeps_mk

theorem State.dropXfers_keeps {s0 s : State} (hk : Keeps s0 s) (f : Nat) (gone : Option Nat → Xfer → Bool) :
    Keeps s0 (State.dropXfers s f gone) := by
  unfold State.dropXfers
  try dsimp only
  repeat' first
    | intro _
    | with_reducible exact hk
    | with_reducible apply State.feedDma_keeps
    | with_reducible apply State.setDma_keeps
    | with_reducible apply ite_keeps
    | with_reducible refine keeps_snd (by assumption) ?_
    | with_reducible refine keeps_snd2 (by assumption) ?_
    | with_reducible assumption
    | split
    | dsimp only

theorem State.abandonStream_keeps {s0 s : State} (hk : Keeps s0 s) (f : Nat) (n : Nat) (c : Nat) (k : Nat) :
    Keeps s0 (State.abandonStream s f n c k) := by
  unfold State.abandonStream
  try dsimp only
  repeat' first
    | intro _
    | with_reducible exact hk
    | with_reducible apply State.dropXfers_keeps
    | with_reducible apply State.setEng_keeps
    | with_reducible apply ite_keeps
    | with_reducible refine keeps_snd (by assumption) ?_
    | with_reducible refine keeps_snd2 (by assumption) ?_
    | with_reducible assumption
    | split
    | dsimp only
    | with_reducible apply keeps_mk

theorem State.abandonQueue_keeps {s0 s : State} (hk : Keeps s0 s) (q : Nat) :
    Keeps s0 (State.abandonQueue s q) := by
  unfold State.abandonQueue
  try dsimp only
  repeat' first
    | intro _
    | with_reducible exact hk
    | with_reducible apply State.abandonCmd_keeps
    | with_reducible refine foldl_keeps ?_ ?_
    | with_reducible apply ite_keeps
    | with_reducible refine keeps_snd (by assumption) ?_
    | with_reducible refine keeps_snd2 (by assumption) ?_
    | with_reducible assumption
    | split
    | dsimp only
    | with_reducible apply keeps_mk

theorem State.dropCopies_keeps {s0 s : State} (hk : Keeps s0 s) (gone : CopyOp → Bool) :
    Keeps s0 (State.dropCopies s gone) := by
  unfold State.dropCopies
  try dsimp only
  repeat' first
    | intro _
    | with_reducible exact hk
    | with_reducible apply State.abandonCmd_keeps
    | with_reducible refine foldl_keeps ?_ ?_
    | with_reducible apply ite_keeps
    | with_reducible refine keeps_snd (by assumption) ?_
    | with_reducible refine keeps_snd2 (by assumption) ?_
    | with_reducible assumption
    | split
    | dsimp only
    | with_reducible apply keeps_mk

theorem State.dropLaunches_keeps {s0 s : State} (hk : Keeps s0 s) (at_ : At → Bool) (run : SeqRun → Bool) :
    Keeps s0 (s.dropLaunches at_ run) := by
  unfold State.dropLaunches
  refine foldl_keeps (fun t x ht => State.abandonCmd_keeps ht _ _) ?_
  refine keeps_rec (keeps_streams hk _ fun h => sorted_map_snd _ (fun e => ?_) h) rfl
  split <;> rfl

theorem State.dropOps_keeps {s0 s : State} (hk : Keeps s0 s) (f : Nat) (who : Nat → Bool) :
    Keeps s0 (State.dropOps s f who) := by
  unfold State.dropOps
  try dsimp only
  repeat' first
    | intro _
    | with_reducible exact hk
    | with_reducible apply State.endOp_keeps
    | with_reducible apply State.swapEnded_keeps
    | with_reducible apply State.abandonCmd_keeps
    | with_reducible apply State.setEng_keeps
    | with_reducible apply State.nextWaiting_keeps
    | with_reducible refine foldl_keeps ?_ ?_
    | with_reducible apply ite_keeps
    | with_reducible refine keeps_snd (by assumption) ?_
    | with_reducible refine keeps_snd2 (by assumption) ?_
    | with_reducible assumption
    | split
    | dsimp only
    | with_reducible apply keeps_mk

theorem State.abandonField_keeps {s0 s : State} (hk : Keeps s0 s) (f : Nat) :
    Keeps s0 (State.abandonField s f) := by
  unfold State.abandonField
  try dsimp only
  repeat' first
    | intro _
    | with_reducible exact hk
    | with_reducible apply State.dropOps_keeps
    | with_reducible apply State.dropXfers_keeps
    | with_reducible apply State.dropLaunches_keeps
    | with_reducible apply State.dropCopies_keeps
    | with_reducible refine foldl_keeps ?_ ?_
    | with_reducible apply ite_keeps
    | with_reducible refine keeps_snd (by assumption) ?_
    | with_reducible refine keeps_snd2 (by assumption) ?_
    | with_reducible assumption
    | split
    | dsimp only

theorem State.abandonCtx_keeps {s0 s : State} (hk : Keeps s0 s) (c : Nat) :
    Keeps s0 (State.abandonCtx s c) := by
  unfold State.abandonCtx
  try dsimp only
  repeat' first
    | intro _
    | with_reducible exact hk
    | with_reducible apply State.abandonQueue_keeps
    | with_reducible apply State.dropOps_keeps
    | with_reducible apply State.dropXfers_keeps
    | with_reducible apply State.dropLaunches_keeps
    | with_reducible refine foldl_keeps ?_ ?_
    | with_reducible apply ite_keeps
    | with_reducible refine keeps_snd (by assumption) ?_
    | with_reducible refine keeps_snd2 (by assumption) ?_
    | with_reducible assumption
    | split
    | dsimp only

theorem State.abandonDom_keeps {s0 s : State} (hk : Keeps s0 s) (d : Dom) :
    Keeps s0 (State.abandonDom s d) := by
  unfold State.abandonDom
  try dsimp only
  repeat' first
    | intro _
    | with_reducible exact hk
    | with_reducible apply State.abandonQueue_keeps
    | with_reducible apply State.abandonField_keeps
    | with_reducible apply State.dropXfers_keeps
    | with_reducible apply State.abandonStream_keeps
    | with_reducible apply State.abandonCtx_keeps
    | with_reducible apply ite_keeps
    | with_reducible refine keeps_snd (by assumption) ?_
    | with_reducible refine keeps_snd2 (by assumption) ?_
    | with_reducible assumption
    | split
    | dsimp only
    | with_reducible apply keeps_mk

theorem State.enterFenced_keeps {s0 s : State} (hk : Keeps s0 s) (d : Dom) :
    Keeps s0 (State.enterFenced s d) := by
  unfold State.enterFenced
  try dsimp only
  repeat' first
    | intro _
    | with_reducible exact hk
    | with_reducible apply ite_keeps
    | with_reducible refine keeps_snd (by assumption) ?_
    | with_reducible refine keeps_snd2 (by assumption) ?_
    | with_reducible assumption
    | split
    | dsimp only
    | with_reducible apply keeps_mk

theorem State.clearOnChip_keeps {s0 s : State} (hk : Keeps s0 s) (c f : Nat) : Keeps s0 (s.clearOnChip c f) := by
  unfold State.clearOnChip
  refine keeps_sheaf (foldl_keeps (fun t n ht => ?_) hk) _ fun h => Memory.wf_clearUnits h (by decide) _ _
  exact keeps_glean (keeps_seedbed (State.setFur_keeps ht _ _ _) _ fun h => Memory.wf_clearUnits h (by decide) _ _) _
      fun h =>
    Memory.wf_clearUnits h (by decide) _ _

theorem State.easeAll_keeps {s0 s : State} (hk : Keeps s0 s) :
    Keeps s0 (State.easeAll s) := by
  unfold State.easeAll
  try dsimp only
  repeat' first
    | intro _
    | with_reducible exact hk
    | with_reducible apply State.easeEarly_keeps
    | with_reducible refine foldl_keeps ?_ ?_
    | with_reducible apply ite_keeps
    | with_reducible refine keeps_snd (by assumption) ?_
    | with_reducible refine keeps_snd2 (by assumption) ?_
    | with_reducible assumption
    | split
    | dsimp only

theorem State.forgetCtx_keeps {s0 t : State} (ht : Keeps s0 t) (c : Nat) :
    Keeps s0
      { t with
        regs := t.regs.filter fun e => !ctxReg c e.1
        wrStage := t.wrStage.filter fun e => !ctxReg c (e.1 % 2 ^ 27)
        ifLatch := t.ifLatch.filter fun e => e.1 % 64 != c
        ctxs := sdel t.ctxs c
        serv := sdel t.serv c
        streams := t.streams.filter fun e => e.1 / 3 % 64 != c
        sems := t.sems.filter fun e => e.1 / 256 % 64 != c
        engines := t.engines.map fun e =>
          (e.1,
            { e.2 with
              closed := e.2.closed.filter fun x => x.1 != c
              early := e.2.early.filter fun x => x.1 != c })
        regions := t.regions.map fun e => (e.1, e.2.afterReset c)
        fences := t.fences.filter fun e => !domOfCtx c e.1
        sec := { t.sec with keys := sdel t.sec.keys c } } :=
  ⟨ht.pending, ht.fuses, fun k => let c := ht.canon k
    { c with
      regs := sorted_filter _ c.regs
      ctxs := sorted_sdel c.ctxs _
      serv := sorted_sdel c.serv _
      streams := sorted_filter _ c.streams
      sems := sorted_filter _ c.sems
      engines := sorted_map_snd _ (fun _ => rfl) c.engines
      regions := sorted_map_snd _ (fun _ => rfl) c.regions }⟩

theorem State.resetContext_keeps {s0 s : State} (hk : Keeps s0 s) (c : Nat) : Keeps s0 (s.resetContext c) := by
  unfold State.resetContext
  dsimp only
  refine State.easeAll_keeps (State.forgetCtx_keeps (foldl_keeps (fun t f ht => ?_) ?_) c)
  · exact State.clearOnChip_keeps (foldl_keeps (fun u g hu => State.clearGranule_keeps hu f g) ht) c f
  · exact State.setReg_keeps (State.clearCovers_keeps (State.stopWork_keeps hk c) c) _ _

theorem State.fenceQueue_keeps {s0 s : State} (hk : Keeps s0 s) (q : Nat) (ph : FPhase) :
    Keeps s0 (State.fenceQueue s q ph) := by
  unfold State.fenceQueue
  try dsimp only
  repeat' first
    | intro _
    | with_reducible exact hk
    | with_reducible apply State.wf_keeps
    | with_reducible apply ite_keeps
    | with_reducible refine keeps_snd (by assumption) ?_
    | with_reducible refine keeps_snd2 (by assumption) ?_
    | with_reducible assumption
    | split
    | dsimp only
    | with_reducible apply keeps_mk

theorem State.resetCtxCmd_keeps {s0 s : State} (hk : Keeps s0 s) (rings : Rings) (c : Nat) :
    Keeps s0 (State.resetCtxCmd s rings c) := by
  unfold State.resetCtxCmd
  try dsimp only
  repeat' first
    | intro _
    | with_reducible exact hk
    | with_reducible apply State.fenceQueue_keeps
    | with_reducible apply State.abandonCtx_keeps
    | with_reducible apply State.resetContext_keeps
    | with_reducible apply State.abortCmds_keeps
    | with_reducible refine foldl_keeps ?_ ?_
    | with_reducible apply ite_keeps
    | with_reducible refine keeps_snd (by assumption) ?_
    | with_reducible refine keeps_snd2 (by assumption) ?_
    | with_reducible assumption
    | split
    | dsimp only

theorem State.clearReceived_keeps {s0 s : State} (hk : Keeps s0 s) (p : Nat) :
    Keeps s0 (State.clearReceived s p) := by
  unfold State.clearReceived
  try dsimp only
  repeat' first
    | intro _
    | with_reducible exact hk
    | with_reducible apply State.setPort_keeps
    | with_reducible refine foldl_keeps ?_ ?_
    | with_reducible apply ite_keeps
    | with_reducible refine keeps_snd (by assumption) ?_
    | with_reducible refine keeps_snd2 (by assumption) ?_
    | with_reducible assumption
    | split
    | dsimp only
    | with_reducible apply keeps_mk

theorem State.resetPort_keeps {s0 s : State} (hk : Keeps s0 s) (p : Nat) :
    Keeps s0 (State.resetPort s p) := by
  unfold State.resetPort
  try dsimp only
  repeat' first
    | intro _
    | with_reducible exact hk
    | with_reducible apply State.setPort_keeps
    | with_reducible apply State.setPll_keeps
    | with_reducible apply State.clearReceived_keeps
    | with_reducible apply State.resetPage_keeps
    | with_reducible apply State.endFence_keeps
    | with_reducible apply State.easeAll_keeps
    | with_reducible apply State.portDown_keeps
    | with_reducible apply State.wf_keeps
    | with_reducible apply ite_keeps
    | with_reducible refine keeps_snd (by assumption) ?_
    | with_reducible refine keeps_snd2 (by assumption) ?_
    | with_reducible assumption
    | split
    | dsimp only
    | with_reducible apply keeps_mk

theorem State.clearField_keeps {s0 s : State} (hk : Keeps s0 s) (f : Nat) : Keeps s0 (s.clearField f) := by
  unfold State.clearField
  dsimp only
  exact ⟨hk.pending, hk.fuses, fun c => let c := hk.canon c
    { c with
      regs := sorted_filter _ c.regs
      pairs := sorted_filter _ c.pairs
      streams := sorted_map_snd _ (fun e => by split <;> rfl) (sorted_filter _ c.streams)
      barriers := sorted_filter _ c.barriers
      hbm := Memory.wf_clearUnits c.hbm (by decide) _ _
      hbmBad := sorted_sclear c.hbmBad _ _
      sheaf := Memory.wf_clearUnits c.sheaf (by decide) _ _
      seedbed := Memory.wf_clearUnits c.seedbed (by decide) _ _
      glean := Memory.wf_clearUnits c.glean (by decide) _ _
      furrows := sorted_sclear c.furrows _ _
      dma := sorted_sdel c.dma _
      sems := sorted_filter _ c.sems
      engines := sorted_sdel c.engines _ }⟩

theorem State.restartField_keeps {s0 s : State} (hk : Keeps s0 s) (f : Nat) :
    Keeps s0 (State.restartField s f) := by
  unfold State.restartField
  try dsimp only
  repeat' first
    | intro _
    | with_reducible exact hk
    | with_reducible apply State.setPll_keeps
    | with_reducible apply State.wf_keeps
    | with_reducible refine foldl_keeps ?_ ?_
    | with_reducible apply ite_keeps
    | with_reducible refine keeps_snd (by assumption) ?_
    | with_reducible refine keeps_snd2 (by assumption) ?_
    | with_reducible assumption
    | split
    | dsimp only

theorem State.loseRegion_keeps {s0 s : State} (hk : Keeps s0 s) (rings : Rings) (c : Nat) :
    Keeps s0 (State.loseRegion s rings c) := by
  unfold State.loseRegion
  try dsimp only
  repeat' first
    | intro _
    | with_reducible exact hk
    | with_reducible apply State.clearCovers_keeps
    | with_reducible apply State.abandonStep_keeps
    | with_reducible apply State.servAbort_keeps
    | with_reducible apply State.setCtx_keeps
    | with_reducible apply State.wf_keeps
    | with_reducible apply State.raiseFor_keeps
    | with_reducible apply ite_keeps
    | with_reducible refine keeps_snd (by assumption) ?_
    | with_reducible refine keeps_snd2 (by assumption) ?_
    | with_reducible assumption
    | split
    | dsimp only
    | with_reducible apply keeps_mk

theorem State.loseMirrors_keeps {s0 s : State} (hk : Keeps s0 s) (f : Nat) :
    Keeps s0 (State.loseMirrors s f) := by
  unfold State.loseMirrors
  try dsimp only
  repeat' first
    | intro _
    | with_reducible exact hk
    | with_reducible apply State.setRegion_keeps
    | with_reducible apply State.raiseFor_keeps
    | with_reducible refine foldl_keeps ?_ ?_
    | with_reducible apply ite_keeps
    | with_reducible refine keeps_snd (by assumption) ?_
    | with_reducible refine keeps_snd2 (by assumption) ?_
    | with_reducible assumption
    | split
    | dsimp only
    | with_reducible apply keeps_mk

theorem State.releaseField_keeps {s0 s : State} (hk : Keeps s0 s) (f : Nat) :
    Keeps s0 (State.releaseField s f) := by
  unfold State.releaseField
  try dsimp only
  repeat' first
    | intro _
    | with_reducible exact hk
    | with_reducible apply State.endFence_keeps
    | with_reducible apply State.wf_keeps
    | with_reducible refine foldl_keeps ?_ ?_
    | with_reducible apply ite_keeps
    | with_reducible refine keeps_snd (by assumption) ?_
    | with_reducible refine keeps_snd2 (by assumption) ?_
    | with_reducible assumption
    | split
    | dsimp only

theorem State.holdField_keeps {s0 s : State} (hk : Keeps s0 s) (m : Meas) (f : Nat) :
    Keeps s0 (State.holdField s m f) := by
  unfold State.holdField
  try dsimp only
  repeat' first
    | intro _
    | with_reducible exact hk
    | with_reducible apply State.resetPort_keeps
    | with_reducible apply State.stopHarrow_keeps
    | with_reducible apply State.restartField_keeps
    | with_reducible apply State.fenceField_keeps
    | with_reducible apply State.enterFenced_keeps
    | with_reducible apply State.abandonField_keeps
    | with_reducible apply State.clearField_keeps
    | with_reducible apply ite_keeps
    | with_reducible refine keeps_snd (by assumption) ?_
    | with_reducible refine keeps_snd2 (by assumption) ?_
    | with_reducible assumption
    | split
    | dsimp only

theorem State.endReset_keeps {s0 s : State} (hk : Keeps s0 s) (rings : Rings) (f : Nat) (up : Bool) :
    Keeps s0 (State.endReset s rings f up) := by
  unfold State.endReset
  try dsimp only
  repeat' first
    | intro _
    | with_reducible exact hk
    | with_reducible apply State.loseMirrors_keeps
    | with_reducible apply State.finishCmd_keeps
    | with_reducible apply State.loseRegion_keeps
    | with_reducible apply State.servLose_keeps
    | with_reducible apply State.releaseField_keeps
    | with_reducible refine foldl_keeps ?_ ?_
    | with_reducible apply ite_keeps
    | with_reducible refine keeps_snd (by assumption) ?_
    | with_reducible refine keeps_snd2 (by assumption) ?_
    | with_reducible assumption
    | split
    | dsimp only
    | with_reducible apply keeps_mk

theorem State.failReset_keeps {s0 s : State} (hk : Keeps s0 s) (rings : Rings) (f : Nat) :
    Keeps s0 (State.failReset s rings f) := by
  unfold State.failReset
  try dsimp only
  repeat' first
    | intro _
    | with_reducible exact hk
    | with_reducible apply State.endReset_keeps
    | with_reducible apply State.wf_keeps
    | with_reducible apply ite_keeps
    | with_reducible refine keeps_snd (by assumption) ?_
    | with_reducible refine keeps_snd2 (by assumption) ?_
    | with_reducible assumption
    | split
    | dsimp only

theorem State.startReset_keeps {s0 s : State} (hk : Keeps s0 s) (rings : Rings) (m : Meas) (q : Nat) (seq : Nat) (f : Nat) :
    Keeps s0 (State.startReset s rings m q seq f) := by
  unfold State.startReset
  try dsimp only
  repeat' first
    | intro _
    | with_reducible exact hk
    | with_reducible apply State.failReset_keeps
    | with_reducible apply State.holdField_keeps
    | with_reducible apply ite_keeps
    | with_reducible refine keeps_snd (by assumption) ?_
    | with_reducible refine keeps_snd2 (by assumption) ?_
    | with_reducible assumption
    | split
    | dsimp only
    | with_reducible apply keeps_mk

theorem State.gateWrite_keeps {s0 s : State} (hk : Keeps s0 s) (u : Nat) (a : Nat) (k : State → State) (hk : ∀ t,
    Keeps s0 t → Keeps s0 (k t)) :
    Keeps s0 (State.gateWrite s u a k) := by
  unfold State.gateWrite
  try dsimp only
  repeat' first
    | intro _
    | with_reducible exact hk
    | with_reducible apply State.accErr_keeps
    | with_reducible apply hk
    | with_reducible apply ite_keeps
    | with_reducible refine keeps_snd (by assumption) ?_
    | with_reducible refine keeps_snd2 (by assumption) ?_
    | with_reducible assumption
    | split
    | dsimp only
    | with_reducible apply keeps_mk

theorem State.unstage_keeps {s0 s : State} (hk : Keeps s0 s) (u : Nat) (a : Nat) :
    Keeps s0 (State.unstage s u a) := by
  unfold State.unstage
  try dsimp only
  repeat' first
    | intro _
    | with_reducible exact hk
    | with_reducible apply ite_keeps
    | with_reducible refine keeps_snd (by assumption) ?_
    | with_reducible refine keeps_snd2 (by assumption) ?_
    | with_reducible assumption
    | split
    | dsimp only
    | with_reducible apply keeps_mk

theorem State.latchIf_keeps {s0 s : State} (hk : Keeps s0 s) (u : Nat) (c : Nat) :
    Keeps s0 (State.latchIf s u c) := by
  unfold State.latchIf
  try dsimp only
  repeat' first
    | intro _
    | with_reducible exact hk
    | with_reducible apply ite_keeps
    | with_reducible refine keeps_snd (by assumption) ?_
    | with_reducible refine keeps_snd2 (by assumption) ?_
    | with_reducible assumption
    | split
    | dsimp only
    | with_reducible apply keeps_mk

theorem State.latchForecast_keeps {s0 s : State} (hk : Keeps s0 s) :
    Keeps s0 (State.latchForecast s) := by
  unfold State.latchForecast
  try dsimp only
  repeat' first
    | intro _
    | with_reducible exact hk
    | with_reducible apply State.setReg_keeps
    | with_reducible apply State.wf_keeps
    | with_reducible refine foldl_keeps ?_ ?_
    | with_reducible apply ite_keeps
    | with_reducible refine keeps_snd (by assumption) ?_
    | with_reducible refine keeps_snd2 (by assumption) ?_
    | with_reducible assumption
    | split
    | dsimp only

theorem State.readLatch_keeps {s0 s : State} (hk : Keeps s0 s) (u : Nat) (a : Nat) :
    Keeps s0 (State.readLatch s u a) := by
  unfold State.readLatch
  try dsimp only
  repeat' first
    | intro _
    | with_reducible exact hk
    | with_reducible apply State.latchForecast_keeps
    | with_reducible apply State.latchIf_keeps
    | with_reducible apply ite_keeps
    | with_reducible refine keeps_snd (by assumption) ?_
    | with_reducible refine keeps_snd2 (by assumption) ?_
    | with_reducible assumption
    | split
    | dsimp only
    | with_reducible apply keeps_mk

theorem State.clearRc_keeps {s0 s : State} (hk : Keeps s0 s) (a : Nat) :
    Keeps s0 (State.clearRc s a) := by
  unfold State.clearRc
  try dsimp only
  repeat' first
    | intro _
    | with_reducible exact hk
    | with_reducible apply State.setReg_keeps
    | with_reducible refine foldl_keeps ?_ ?_
    | with_reducible apply ite_keeps
    | with_reducible refine keeps_snd (by assumption) ?_
    | with_reducible refine keeps_snd2 (by assumption) ?_
    | with_reducible assumption
    | split
    | dsimp only

theorem State.drawTimed_keeps {s0 s : State} (hk : Keeps s0 s) (a : Nat) :
    Keeps s0 (State.drawTimed s a) := by
  unfold State.drawTimed
  try dsimp only
  repeat' first
    | intro _
    | with_reducible exact hk
    | with_reducible apply State.fresh_keeps
    | with_reducible apply ite_keeps
    | with_reducible refine keeps_snd (by assumption) ?_
    | with_reducible refine keeps_snd2 (by assumption) ?_
    | with_reducible assumption
    | split
    | dsimp only

theorem State.drawSpan_keeps {s0 s : State} (hk : Keeps s0 s) (a : Nat) (n : Nat) :
    Keeps s0 (State.drawSpan s a n) := by
  unfold State.drawSpan
  try dsimp only
  repeat' first
    | intro _
    | with_reducible exact hk
    | with_reducible apply State.drawTimed_keeps
    | with_reducible refine foldl_keeps ?_ ?_
    | with_reducible apply ite_keeps
    | with_reducible refine keeps_snd (by assumption) ?_
    | with_reducible refine keeps_snd2 (by assumption) ?_
    | with_reducible assumption
    | split
    | dsimp only

theorem State.busRead_keeps {s0 s : State} (hk : Keeps s0 s) (u : Nat) (a : Nat) (log : Nat) :
    Keeps s0 (State.busRead s u a log) := by
  unfold State.busRead
  try dsimp only
  repeat' first
    | intro _
    | with_reducible exact hk
    | with_reducible apply State.clearRc_keeps
    | with_reducible apply State.drawTimed_keeps
    | with_reducible apply State.drawSpan_keeps
    | with_reducible apply State.accErr_keeps
    | with_reducible apply State.readLatch_keeps
    | with_reducible apply ite_keeps
    | with_reducible refine keeps_snd (by assumption) ?_
    | with_reducible refine keeps_snd2 (by assumption) ?_
    | with_reducible assumption
    | split
    | dsimp only
    | with_reducible apply keeps_mk

theorem State.badWrite_keeps {s0 s : State} (hk : Keeps s0 s) (u : Nat) (a : Nat) :
    Keeps s0 (State.badWrite s u a) := by
  unfold State.badWrite
  try dsimp only
  repeat' first
    | intro _
    | with_reducible exact hk
    | with_reducible apply State.accErr_keeps
    | with_reducible apply ite_keeps
    | with_reducible refine keeps_snd (by assumption) ?_
    | with_reducible refine keeps_snd2 (by assumption) ?_
    | with_reducible assumption
    | split
    | dsimp only

theorem State.plainWrite_keeps {s0 s : State} (hk : Keeps s0 s) (a : Nat) (v : Word32) :
    Keeps s0 (State.plainWrite s a v) := by
  unfold State.plainWrite
  try dsimp only
  repeat' first
    | intro _
    | with_reducible exact hk
    | with_reducible apply State.setReg_keeps
    | with_reducible apply ite_keeps
    | with_reducible refine keeps_snd (by assumption) ?_
    | with_reducible refine keeps_snd2 (by assumption) ?_
    | with_reducible assumption
    | split
    | dsimp only

theorem State.writeBut_keeps {s0 s : State} (hk : Keeps s0 s) (a : Nat) (v : Word32) (skip : List Nat) :
    Keeps s0 (State.writeBut s a v skip) := by
  unfold State.writeBut
  try dsimp only
  repeat' first
    | intro _
    | with_reducible exact hk
    | with_reducible apply State.setReg_keeps
    | with_reducible apply ite_keeps
    | with_reducible refine keeps_snd (by assumption) ?_
    | with_reducible refine keeps_snd2 (by assumption) ?_
    | with_reducible assumption
    | split
    | dsimp only

theorem State.writeUnless_keeps {s0 s : State} (hk : Keeps s0 s) (a : Nat) (v : Word32) (bad : Bool) (skip : List Nat) :
    Keeps s0 (State.writeUnless s a v bad skip) := by
  unfold State.writeUnless
  try dsimp only
  repeat' first
    | intro _
    | with_reducible exact hk
    | with_reducible apply State.writeBut_keeps
    | with_reducible apply State.plainWrite_keeps
    | with_reducible apply ite_keeps
    | with_reducible refine keeps_snd (by assumption) ?_
    | with_reducible refine keeps_snd2 (by assumption) ?_
    | with_reducible assumption
    | split
    | dsimp only

theorem State.routeCommit_keeps {s0 s : State} (hk : Keeps s0 s) (u : Nat) (j : Nat) (v : Word32) :
    Keeps s0 (State.routeCommit s u j v) := by
  unfold State.routeCommit
  try dsimp only
  repeat' first
    | intro _
    | with_reducible exact hk
    | with_reducible apply State.plainWrite_keeps
    | with_reducible apply State.unstage_keeps
    | with_reducible apply ite_keeps
    | with_reducible refine keeps_snd (by assumption) ?_
    | with_reducible refine keeps_snd2 (by assumption) ?_
    | with_reducible assumption
    | split
    | dsimp only

theorem State.writePortCtrl_keeps {s0 s : State} (hk : Keeps s0 s) (p : Nat) (v : Word32) :
    Keeps s0 (State.writePortCtrl s p v) := by
  unfold State.writePortCtrl
  try dsimp only
  repeat' first
    | intro _
    | with_reducible exact hk
    | with_reducible apply State.plainWrite_keeps
    | with_reducible apply State.enterDetect_keeps
    | with_reducible apply State.tryDetect_keeps
    | with_reducible apply State.portDown_keeps
    | with_reducible apply State.enterRetrain_keeps
    | with_reducible apply ite_keeps
    | with_reducible refine keeps_snd (by assumption) ?_
    | with_reducible refine keeps_snd2 (by assumption) ?_
    | with_reducible assumption
    | split
    | dsimp only

theorem State.tryDetectAll_keeps {s0 s : State} (hk : Keeps s0 s) :
    Keeps s0 (State.tryDetectAll s) := by
  unfold State.tryDetectAll
  try dsimp only
  repeat' first
    | intro _
    | with_reducible exact hk
    | with_reducible apply State.tryDetect_keeps
    | with_reducible refine foldl_keeps ?_ ?_
    | with_reducible apply ite_keeps
    | with_reducible refine keeps_snd (by assumption) ?_
    | with_reducible refine keeps_snd2 (by assumption) ?_
    | with_reducible assumption
    | split
    | dsimp only

theorem State.setDevId_keeps {s0 s : State} (hk : Keeps s0 s) (v : Word32) :
    Keeps s0 (State.setDevId s v) := by
  unfold State.setDevId
  try dsimp only
  repeat' first
    | intro _
    | with_reducible exact hk
    | with_reducible apply State.plainWrite_keeps
    | with_reducible apply State.wf_keeps
    | with_reducible apply State.tryDetectAll_keeps
    | with_reducible apply ite_keeps
    | with_reducible refine keeps_snd (by assumption) ?_
    | with_reducible refine keeps_snd2 (by assumption) ?_
    | with_reducible assumption
    | split
    | dsimp only

theorem State.setRxalloc_keeps {s0 s : State} (hk : Keeps s0 s) (p : Nat) (c : Nat) (v : Word32) :
    Keeps s0 (State.setRxalloc s p c v) := by
  unfold State.setRxalloc
  try dsimp only
  repeat' first
    | intro _
    | with_reducible exact hk
    | with_reducible apply State.plainWrite_keeps
    | with_reducible apply State.tryDetect_keeps
    | with_reducible apply State.wf_keeps
    | with_reducible apply ite_keeps
    | with_reducible refine keeps_snd (by assumption) ?_
    | with_reducible refine keeps_snd2 (by assumption) ?_
    | with_reducible assumption
    | split
    | dsimp only

theorem State.memRefused_keeps {s0 s : State} (hk : Keeps s0 s) (f : Nat) (i : Nat) :
    Keeps s0 (State.memRefused s f i) := by
  unfold State.memRefused
  try dsimp only
  repeat' first
    | intro _
    | with_reducible exact hk
    | with_reducible apply State.wf_keeps
    | with_reducible apply ite_keeps
    | with_reducible refine keeps_snd (by assumption) ?_
    | with_reducible refine keeps_snd2 (by assumption) ?_
    | with_reducible assumption
    | split
    | dsimp only

theorem State.granWrite_keeps {s0 s : State} (hk : Keeps s0 s) (f : Nat) (g : Nat) (v : Word32) :
    Keeps s0 (State.granWrite s f g v) := by
  unfold State.granWrite
  try dsimp only
  repeat' first
    | intro _
    | with_reducible exact hk
    | with_reducible apply State.clearGranule_keeps
    | with_reducible apply State.plainWrite_keeps
    | with_reducible apply State.wf_keeps
    | with_reducible apply State.memRefused_keeps
    | with_reducible apply ite_keeps
    | with_reducible refine keeps_snd (by assumption) ?_
    | with_reducible refine keeps_snd2 (by assumption) ?_
    | with_reducible assumption
    | split
    | dsimp only
    | with_reducible apply keeps_mk

theorem State.shareWrite_keeps {s0 s : State} (hk : Keeps s0 s) (f : Nat) (c : Nat) (v : Word32) :
    Keeps s0 (State.shareWrite s f c v) := by
  unfold State.shareWrite
  try dsimp only
  repeat' first
    | intro _
    | with_reducible exact hk
    | with_reducible apply State.plainWrite_keeps
    | with_reducible apply State.memRefused_keeps
    | with_reducible apply ite_keeps
    | with_reducible refine keeps_snd (by assumption) ?_
    | with_reducible refine keeps_snd2 (by assumption) ?_
    | with_reducible assumption
    | split
    | dsimp only

theorem State.memChanged_keeps {s0 s : State} (hk : Keeps s0 s) (c : Nat) (old : Word32) (new : Word32) :
    Keeps s0 (State.memChanged s c old new) := by
  unfold State.memChanged
  try dsimp only
  repeat' first
    | intro _
    | with_reducible exact hk
    | with_reducible apply State.undefGranules_keeps
    | with_reducible refine foldl_keeps ?_ ?_
    | with_reducible apply ite_keeps
    | with_reducible refine keeps_snd (by assumption) ?_
    | with_reducible refine keeps_snd2 (by assumption) ?_
    | with_reducible assumption
    | split
    | dsimp only

theorem State.ctxMemWrite_keeps {s0 s : State} (hk : Keeps s0 s) (c : Nat) (v : Word32) :
    Keeps s0 (State.ctxMemWrite s c v) := by
  unfold State.ctxMemWrite
  try dsimp only
  repeat' first
    | intro _
    | with_reducible exact hk
    | with_reducible apply State.plainWrite_keeps
    | with_reducible apply State.memChanged_keeps
    | with_reducible apply State.wf_keeps
    | with_reducible apply State.memRefused_keeps
    | with_reducible refine foldl_keeps ?_ ?_
    | with_reducible apply ite_keeps
    | with_reducible refine keeps_snd (by assumption) ?_
    | with_reducible refine keeps_snd2 (by assumption) ?_
    | with_reducible assumption
    | split
    | dsimp only

theorem State.corrected_keeps {s0 s : State} (hk : Keeps s0 s) (a : Nat) :
    Keeps s0 (State.corrected s a) := by
  unfold State.corrected
  try dsimp only
  repeat' first
    | intro _
    | with_reducible exact hk
    | with_reducible apply State.bump_keeps
    | with_reducible apply State.bump64_keeps
    | with_reducible apply State.raiseSrc_keeps
    | with_reducible apply ite_keeps
    | with_reducible refine keeps_snd (by assumption) ?_
    | with_reducible refine keeps_snd2 (by assumption) ?_
    | with_reducible assumption
    | split
    | dsimp only

theorem State.foundIn_keeps {s0 s : State} (hk : Keeps s0 s) (a : Nat) (x : Found) (d : Bool) : Keeps s0 (s.foundIn a
    x d) := by
  unfold State.foundIn
  have h1 : Keeps s0 (if d then s.bump (R.HBM_ODECC_CNT_COUNT (fieldOf a) (s.stackOf a)) 1 else s) :=
    ite_keeps (State.bump_keeps hk _ _) hk
  dsimp only
  split
  · exact h1
  · exact ite_keeps h1 (State.corrected_keeps h1 a)
  · exact keeps_hbmBad h1 _ fun h => sorted_sput h _ _

theorem State.scrubNext_keeps {s0 s : State} (hk : Keeps s0 s) (f : Nat) (m : Nat) :
    Keeps s0 (State.scrubNext s f m) := by
  unfold State.scrubNext
  try dsimp only
  repeat' first
    | intro _
    | with_reducible exact hk
    | with_reducible apply State.wf_keeps
    | with_reducible apply ite_keeps
    | with_reducible refine keeps_snd (by assumption) ?_
    | with_reducible refine keeps_snd2 (by assumption) ?_
    | with_reducible assumption
    | split
    | dsimp only
    | with_reducible apply keeps_mk

theorem State.bindWrite_keeps {s0 s : State} (hk : Keeps s0 s) (c : Nat) (v : Word32) :
    Keeps s0 (State.bindWrite s c v) := by
  unfold State.bindWrite
  try dsimp only
  repeat' first
    | intro _
    | with_reducible exact hk
    | with_reducible apply State.plainWrite_keeps
    | with_reducible apply State.resetContext_keeps
    | with_reducible apply State.wf_keeps
    | with_reducible apply ite_keeps
    | with_reducible refine keeps_snd (by assumption) ?_
    | with_reducible refine keeps_snd2 (by assumption) ?_
    | with_reducible assumption
    | split
    | dsimp only

theorem State.undefQuota_keeps {s0 s : State} (hk : Keeps s0 s) (f : Nat) (k : Quota) (b n : Nat) :
    Keeps s0 (s.undefQuota f k b n) := by
  unfold State.undefQuota
  refine foldl_keeps (fun t m ht => ?_) (State.fresh_keeps hk)
  dsimp only
  split
  · exact keeps_seedbed ht _ fun h => Memory.wf_undefUnits h (by decide) (Nat.le_add_right _ _) _
  · exact keeps_glean ht _ fun h => Memory.wf_undefUnits h (by decide) (Nat.le_add_right _ _) _
  · exact State.setFur_keeps ht _ _ _

theorem State.quotaSet_keeps {s0 s : State} (hk : Keeps s0 s) (c : Nat) (f : Nat) (k : Quota) (v : Word32) :
    Keeps s0 (State.quotaSet s c f k v) := by
  unfold State.quotaSet
  try dsimp only
  repeat' first
    | intro _
    | with_reducible exact hk
    | with_reducible apply State.undefQuota_keeps
    | with_reducible apply State.plainWrite_keeps
    | with_reducible apply State.wf_keeps
    | with_reducible apply ite_keeps
    | with_reducible refine keeps_snd (by assumption) ?_
    | with_reducible refine keeps_snd2 (by assumption) ?_
    | with_reducible assumption
    | split
    | dsimp only

theorem State.servWrite_keeps {s0 s : State} (hk : Keeps s0 s) (u : Nat) (c : Nat) (o : Nat) (v : Word32) :
    Keeps s0 (State.servWrite s u c o v) := by
  unfold State.servWrite
  try dsimp only
  repeat' first
    | intro _
    | with_reducible exact hk
    | with_reducible apply State.showServ_keeps
    | with_reducible apply State.plainWrite_keeps
    | with_reducible apply State.unstage_keeps
    | with_reducible apply State.wf_keeps
    | with_reducible apply ite_keeps
    | with_reducible refine keeps_snd (by assumption) ?_
    | with_reducible refine keeps_snd2 (by assumption) ?_
    | with_reducible assumption
    | split
    | dsimp only
    | with_reducible apply keeps_mk

theorem State.slowField_keeps {s0 s : State} (hk : Keeps s0 s) (f : Nat) (l : List (Nat × Nat)) :
    Keeps s0 (State.slowField s f l) := by
  unfold State.slowField
  try dsimp only
  repeat' first
    | intro _
    | with_reducible exact hk
    | with_reducible apply State.wf_keeps
    | with_reducible refine foldl_keeps ?_ ?_
    | with_reducible apply ite_keeps
    | with_reducible refine keeps_snd (by assumption) ?_
    | with_reducible refine keeps_snd2 (by assumption) ?_
    | with_reducible assumption
    | split
    | dsimp only

theorem State.bindQueue_keeps {s0 s : State} (hk : Keeps s0 s) (v : Word32) :
    Keeps s0 (State.bindQueue s v) := by
  unfold State.bindQueue
  try dsimp only
  repeat' first
    | intro _
    | with_reducible exact hk
    | with_reducible apply State.setQueue_keeps
    | with_reducible apply State.wf_keeps
    | with_reducible apply ite_keeps
    | with_reducible refine keeps_snd (by assumption) ?_
    | with_reducible refine keeps_snd2 (by assumption) ?_
    | with_reducible assumption
    | split
    | dsimp only
    | with_reducible apply keeps_mk

theorem State.cfgWrite_keeps {s0 s : State} (hk : Keeps s0 s) (q : Nat) (v : Word32) :
    Keeps s0 (State.cfgWrite s q v) := by
  unfold State.cfgWrite
  try dsimp only
  repeat' first
    | intro _
    | with_reducible exact hk
    | with_reducible apply State.writeBut_keeps
    | with_reducible apply ite_keeps
    | with_reducible refine keeps_snd (by assumption) ?_
    | with_reducible refine keeps_snd2 (by assumption) ?_
    | with_reducible assumption
    | split
    | dsimp only

theorem State.enableQueue_keeps {s0 s : State} (hk : Keeps s0 s) (q : Nat) (v : Word32) :
    Keeps s0 (State.enableQueue s q v) := by
  unfold State.enableQueue
  try dsimp only
  repeat' first
    | intro _
    | with_reducible exact hk
    | with_reducible apply State.endFence_keeps
    | with_reducible apply State.setReg_keeps
    | with_reducible apply State.cfgWrite_keeps
    | with_reducible apply State.wf_keeps
    | with_reducible apply State.emptyQueue_keeps
    | with_reducible apply ite_keeps
    | with_reducible refine keeps_snd (by assumption) ?_
    | with_reducible refine keeps_snd2 (by assumption) ?_
    | with_reducible assumption
    | split
    | dsimp only

theorem State.detachQueue_keeps {s0 s : State} (hk : Keeps s0 s) (q : Nat) : Keeps s0 (s.detachQueue q) :=
  ⟨hk.pending, hk.fuses, fun c => let c := hk.canon c
    { c with
      streams := sorted_map_snd _ (fun _ => rfl) c.streams
      engines := sorted_map_snd _ (fun _ => rfl) c.engines
      serv := sorted_map_snd _ (fun _ => rfl) c.serv }⟩

theorem State.disableQueue_keeps {s0 s : State} (hk : Keeps s0 s) (q : Nat) (v : Word32) :
    Keeps s0 (State.disableQueue s q v) := by
  unfold State.disableQueue
  try dsimp only
  repeat' first
    | intro _
    | with_reducible exact hk
    | with_reducible apply State.detachQueue_keeps
    | with_reducible apply State.cfgWrite_keeps
    | with_reducible apply State.wf_keeps
    | with_reducible apply State.emptyQueue_keeps
    | with_reducible apply ite_keeps
    | with_reducible refine keeps_snd (by assumption) ?_
    | with_reducible refine keeps_snd2 (by assumption) ?_
    | with_reducible assumption
    | split
    | dsimp only

theorem State.queueCfg_keeps {s0 s : State} (hk : Keeps s0 s) (q : Nat) (v : Word32) :
    Keeps s0 (State.queueCfg s q v) := by
  unfold State.queueCfg
  try dsimp only
  repeat' first
    | intro _
    | with_reducible exact hk
    | with_reducible apply State.disableQueue_keeps
    | with_reducible apply State.enableQueue_keeps
    | with_reducible apply ite_keeps
    | with_reducible refine keeps_snd (by assumption) ?_
    | with_reducible refine keeps_snd2 (by assumption) ?_
    | with_reducible assumption
    | split
    | dsimp only

theorem State.ringBell_keeps {s0 s : State} (hk : Keeps s0 s) (q : Nat) (v : Word32) :
    Keeps s0 (State.ringBell s q v) := by
  unfold State.ringBell
  try dsimp only
  repeat' first
    | intro _
    | with_reducible exact hk
    | with_reducible apply State.setReg_keeps
    | with_reducible apply State.setCtx_keeps
    | with_reducible apply State.queueError_keeps
    | with_reducible apply ite_keeps
    | with_reducible refine keeps_snd (by assumption) ?_
    | with_reducible refine keeps_snd2 (by assumption) ?_
    | with_reducible assumption
    | split
    | dsimp only
    | with_reducible apply keeps_mk

theorem State.baseWrite_keeps {s0 s : State} (hk : Keeps s0 s) (u : Nat) (q : Nat) (o : Nat) (v : Word32) :
    Keeps s0 (State.baseWrite s u q o v) := by
  unfold State.baseWrite
  try dsimp only
  repeat' first
    | intro _
    | with_reducible exact hk
    | with_reducible apply State.plainWrite_keeps
    | with_reducible apply State.unstage_keeps
    | with_reducible apply ite_keeps
    | with_reducible refine keeps_snd (by assumption) ?_
    | with_reducible refine keeps_snd2 (by assumption) ?_
    | with_reducible assumption
    | split
    | dsimp only
    | with_reducible apply keeps_mk

theorem State.validate_keeps {s0 s : State} (hk : Keeps s0 s) (i : Nat) (v : Word32) :
    Keeps s0 (State.validate s i v) := by
  unfold State.validate
  try dsimp only
  repeat' first
    | intro _
    | with_reducible exact hk
    | with_reducible apply State.clearCover_keeps
    | with_reducible apply State.setRegion_keeps
    | with_reducible apply State.wf_keeps
    | with_reducible apply ite_keeps
    | with_reducible refine keeps_snd (by assumption) ?_
    | with_reducible refine keeps_snd2 (by assumption) ?_
    | with_reducible assumption
    | split
    | dsimp only
    | with_reducible apply keeps_mk

theorem State.invalidate_keeps {s0 s : State} (hk : Keeps s0 s) (i : Nat) (v : Word32) :
    Keeps s0 (State.invalidate s i v) := by
  unfold State.invalidate
  try dsimp only
  repeat' first
    | intro _
    | with_reducible exact hk
    | with_reducible apply State.setRegion_keeps
    | with_reducible apply State.wf_keeps
    | with_reducible apply ite_keeps
    | with_reducible refine keeps_snd (by assumption) ?_
    | with_reducible refine keeps_snd2 (by assumption) ?_
    | with_reducible assumption
    | split
    | dsimp only
    | with_reducible apply keeps_mk

theorem State.regionCtl_keeps {s0 s : State} (hk : Keeps s0 s) (v : Word32) :
    Keeps s0 (State.regionCtl s v) := by
  unfold State.regionCtl
  try dsimp only
  repeat' first
    | intro _
    | with_reducible exact hk
    | with_reducible apply State.invalidate_keeps
    | with_reducible apply State.validate_keeps
    | with_reducible apply ite_keeps
    | with_reducible refine keeps_snd (by assumption) ?_
    | with_reducible refine keeps_snd2 (by assumption) ?_
    | with_reducible assumption
    | split
    | dsimp only

theorem State.regionConfig_keeps {s0 s : State} (hk : Keeps s0 s) (o : Nat) (v : Word32) :
    Keeps s0 (State.regionConfig s o v) := by
  unfold State.regionConfig
  try dsimp only
  repeat' first
    | intro _
    | with_reducible exact hk
    | with_reducible apply State.setRegion_keeps
    | with_reducible apply ite_keeps
    | with_reducible refine keeps_snd (by assumption) ?_
    | with_reducible refine keeps_snd2 (by assumption) ?_
    | with_reducible assumption
    | split
    | dsimp only
    | with_reducible apply keeps_mk

theorem State.mgEventOn_keeps {s0 s : State} (hk : Keeps s0 s) (b : Nat) (kind : Nat) (rest : List Byte) :
    Keeps s0 (State.mgEventOn s b kind rest) := by
  unfold State.mgEventOn
  try dsimp only
  repeat' first
    | intro _
    | with_reducible exact hk
    | with_reducible apply State.bump_keeps
    | with_reducible apply ite_keeps
    | with_reducible refine keeps_snd (by assumption) ?_
    | with_reducible refine keeps_snd2 (by assumption) ?_
    | with_reducible assumption
    | split
    | dsimp only
    | with_reducible apply keeps_mk

theorem State.mgEvent_keeps {s0 s : State} (hk : Keeps s0 s) (kind : Nat) (rest : List Byte) :
    Keeps s0 (State.mgEvent s kind rest) := by
  unfold State.mgEvent
  try dsimp only
  repeat' first
    | intro _
    | with_reducible exact hk
    | with_reducible apply State.mgEventOn_keeps
    | with_reducible apply ite_keeps
    | with_reducible refine keeps_snd (by assumption) ?_
    | with_reducible refine keeps_snd2 (by assumption) ?_
    | with_reducible assumption
    | split
    | dsimp only

theorem State.notePower_keeps {s0 s : State} (hk : Keeps s0 s) (old : State) (acts : Bool) :
    Keeps s0 (State.notePower s old acts) := by
  unfold State.notePower
  try dsimp only
  repeat' first
    | intro _
    | with_reducible exact hk
    | with_reducible apply State.mgEvent_keeps
    | with_reducible apply ite_keeps
    | with_reducible refine keeps_snd (by assumption) ?_
    | with_reducible refine keeps_snd2 (by assumption) ?_
    | with_reducible assumption
    | split
    | dsimp only

theorem State.noteForecast_keeps {s0 s : State} (hk : Keeps s0 s) (old : State) (edge : Bool) :
    Keeps s0 (State.noteForecast s old edge) := by
  unfold State.noteForecast
  try dsimp only
  repeat' first
    | intro _
    | with_reducible exact hk
    | with_reducible apply State.mgEvent_keeps
    | with_reducible apply ite_keeps
    | with_reducible refine keeps_snd (by assumption) ?_
    | with_reducible refine keeps_snd2 (by assumption) ?_
    | with_reducible assumption
    | split
    | dsimp only

theorem State.fcolEvt_keeps {s0 s : State} (hk : Keeps s0 s) (b : Nat) :
    Keeps s0 (State.fcolEvt s b) := by
  unfold State.fcolEvt
  try dsimp only
  repeat' first
    | intro _
    | with_reducible exact hk
    | with_reducible apply State.wf_keeps
    | with_reducible apply State.sendMsg_keeps
    | with_reducible apply ite_keeps
    | with_reducible refine keeps_snd (by assumption) ?_
    | with_reducible refine keeps_snd2 (by assumption) ?_
    | with_reducible assumption
    | split
    | dsimp only

theorem State.logEntry_keeps {s0 s : State} (hk : Keeps s0 s) (page : Nat) (b : Nat) (k : LogKind) (who : Option Nat)
    (m : Meas) :
    Keeps s0 (State.logEntry s page b k who m) := by
  unfold State.logEntry
  try dsimp only
  repeat' first
    | intro _
    | with_reducible exact hk
    | with_reducible apply State.fcolEvt_keeps
    | with_reducible apply State.mgEvent_keeps
    | with_reducible apply State.bump_keeps
    | with_reducible apply State.almanac_keeps
    | with_reducible apply State.wf_keeps
    | with_reducible apply State.raiseSrc_keeps
    | with_reducible apply ite_keeps
    | with_reducible refine keeps_snd (by assumption) ?_
    | with_reducible refine keeps_snd2 (by assumption) ?_
    | with_reducible assumption
    | split
    | dsimp only
    | with_reducible apply keeps_mk

theorem State.fenceWire_keeps {s0 s : State} (hk : Keeps s0 s) (page : Nat) :
    Keeps s0 (State.fenceWire s page) := by
  unfold State.fenceWire
  try dsimp only
  repeat' first
    | intro _
    | with_reducible exact hk
    | with_reducible apply State.deviceFatal_keeps
    | with_reducible apply State.fenceField_keeps
    | with_reducible apply State.fencePort_keeps
    | with_reducible apply ite_keeps
    | with_reducible refine keeps_snd (by assumption) ?_
    | with_reducible refine keeps_snd2 (by assumption) ?_
    | with_reducible assumption
    | split
    | dsimp only
    | with_reducible apply keeps_mk

theorem State.wireBegins_keeps {s0 s : State} (hk : Keeps s0 s) (x : Sampled) (m : Meas) :
    Keeps s0 (State.wireBegins s x m) := by
  unfold State.wireBegins
  try dsimp only
  repeat' first
    | intro _
    | with_reducible exact hk
    | with_reducible apply State.logEntry_keeps
    | with_reducible apply State.errWords_keeps
    | with_reducible apply State.fenceWire_keeps
    | with_reducible apply State.bump_keeps
    | with_reducible apply State.condEvent_keeps
    | with_reducible apply State.wf_keeps
    | with_reducible apply ite_keeps
    | with_reducible refine keeps_snd (by assumption) ?_
    | with_reducible refine keeps_snd2 (by assumption) ?_
    | with_reducible assumption
    | split
    | dsimp only

theorem State.newEvent_keeps {s0 s : State} (hk : Keeps s0 s) (x : Sampled) (m : Meas) :
    Keeps s0 (State.newEvent s x m) := by
  unfold State.newEvent
  try dsimp only
  repeat' first
    | intro _
    | with_reducible exact hk
    | with_reducible apply State.logEntry_keeps
    | with_reducible apply State.fcolEvt_keeps
    | with_reducible apply State.bump_keeps
    | with_reducible apply State.wf_keeps
    | with_reducible apply ite_keeps
    | with_reducible refine keeps_snd (by assumption) ?_
    | with_reducible refine keeps_snd2 (by assumption) ?_
    | with_reducible assumption
    | split
    | dsimp only

theorem State.applySample_keeps {s0 s : State} (hk : Keeps s0 s) (l : List (Nat × Meas)) (x : Sampled) :
    Keeps s0 (State.applySample l s x) := by
  unfold State.applySample
  try dsimp only
  repeat' first
    | intro _
    | with_reducible exact hk
    | with_reducible apply State.newEvent_keeps
    | with_reducible apply State.wireBegins_keeps
    | with_reducible apply State.fresh_keeps
    | with_reducible apply ite_keeps
    | with_reducible refine keeps_snd (by assumption) ?_
    | with_reducible refine keeps_snd2 (by assumption) ?_
    | with_reducible assumption
    | split
    | dsimp only

theorem State.collectorStep_keeps {s0 s : State} (hk : Keeps s0 s) (fresh : Bool) (active : Bool) :
    Keeps s0 (State.collectorStep s fresh active) := by
  unfold State.collectorStep
  try dsimp only
  repeat' first
    | intro _
    | with_reducible exact hk
    | with_reducible apply State.fcolEvt_keeps
    | with_reducible apply State.bump_keeps
    | with_reducible apply State.fresh_keeps
    | with_reducible apply State.wf_keeps
    | with_reducible apply ite_keeps
    | with_reducible refine keeps_snd (by assumption) ?_
    | with_reducible refine keeps_snd2 (by assumption) ?_
    | with_reducible assumption
    | split
    | dsimp only

theorem State.elapse_keeps {s0 s : State} (hk : Keeps s0 s) (n : Nat) :
    Keeps s0 (State.elapse s n) := by
  unfold State.elapse
  try dsimp only
  repeat' first
    | intro _
    | with_reducible exact hk
    | with_reducible apply ite_keeps
    | with_reducible refine keeps_snd (by assumption) ?_
    | with_reducible refine keeps_snd2 (by assumption) ?_
    | with_reducible assumption
    | split
    | dsimp only
    | with_reducible apply keeps_mk

theorem State.gleanLost_keeps {s0 s : State} (hk : Keeps s0 s) (f : Nat) (n : Nat) (c : Nat) (w : Nat) :
    Keeps s0 (State.gleanLost s f n c w) := by
  unfold State.gleanLost
  try dsimp only
  repeat' first
    | intro _
    | with_reducible exact hk
    | with_reducible apply State.gleanSet_keeps
    | with_reducible apply State.wordsLost_keeps
    | with_reducible apply ite_keeps
    | with_reducible refine keeps_snd (by assumption) ?_
    | with_reducible refine keeps_snd2 (by assumption) ?_
    | with_reducible assumption
    | split
    | dsimp only

theorem State.bufferLost_keeps {s0 s : State} (hk : Keeps s0 s) (i : StreamId) (w : Nat) :
    Keeps s0 (State.bufferLost s i w) := by
  unfold State.bufferLost
  try dsimp only
  repeat' first
    | intro _
    | with_reducible exact hk
    | with_reducible apply State.setStrm_keeps
    | with_reducible apply State.wordsLost_keeps
    | with_reducible apply ite_keeps
    | with_reducible refine keeps_snd (by assumption) ?_
    | with_reducible refine keeps_snd2 (by assumption) ?_
    | with_reducible assumption
    | split
    | dsimp only
    | with_reducible apply keeps_mk

theorem State.chipFound_keeps {s0 s : State} (hk : Keeps s0 s) (x : ChipFind) :
    Keeps s0 (State.chipFound s x) := by
  unfold State.chipFound
  try dsimp only
  repeat' first
    | intro _
    | with_reducible exact hk
    | with_reducible apply State.fenceField_keeps
    | with_reducible apply State.gleanLost_keeps
    | with_reducible apply State.raiseFatal_keeps
    | with_reducible apply State.seedLost_keeps
    | with_reducible apply State.bufferLost_keeps
    | with_reducible apply State.sheafLost_keeps
    | with_reducible apply State.raiseSrc_keeps
    | with_reducible apply State.raiseCond_keeps
    | with_reducible apply ite_keeps
    | with_reducible refine keeps_snd (by assumption) ?_
    | with_reducible refine keeps_snd2 (by assumption) ?_
    | with_reducible assumption
    | split
    | dsimp only
    | with_reducible apply keeps_mk

theorem State.forceSrc_keeps {s0 s : State} (hk : Keeps s0 s) (page : Nat) (b : Nat) :
    Keeps s0 (State.forceSrc s page b) := by
  unfold State.forceSrc
  try dsimp only
  repeat' first
    | intro _
    | with_reducible exact hk
    | with_reducible apply State.raisePair_keeps
    | with_reducible apply State.errWords_keeps
    | with_reducible apply ite_keeps
    | with_reducible refine keeps_snd (by assumption) ?_
    | with_reducible refine keeps_snd2 (by assumption) ?_
    | with_reducible assumption
    | split
    | dsimp only

theorem State.forceWrite_keeps {s0 s : State} (hk : Keeps s0 s) (base : Nat) (v : Word32) :
    Keeps s0 (State.forceWrite s base v) := by
  unfold State.forceWrite
  try dsimp only
  repeat' first
    | intro _
    | with_reducible exact hk
    | with_reducible apply State.forceSrc_keeps
    | with_reducible refine foldl_keeps ?_ ?_
    | with_reducible apply ite_keeps
    | with_reducible refine keeps_snd (by assumption) ?_
    | with_reducible refine keeps_snd2 (by assumption) ?_
    | with_reducible assumption
    | split
    | dsimp only

theorem State.wireTestWrite_keeps {s0 s : State} (hk : Keeps s0 s) (v : Word32) :
    Keeps s0 (State.wireTestWrite s v) := by
  unfold State.wireTestWrite
  try dsimp only
  repeat' first
    | intro _
    | with_reducible exact hk
    | with_reducible apply State.setPair_keeps
    | with_reducible apply State.plainWrite_keeps
    | with_reducible apply ite_keeps
    | with_reducible refine keeps_snd (by assumption) ?_
    | with_reducible refine keeps_snd2 (by assumption) ?_
    | with_reducible assumption
    | split
    | dsimp only
    | with_reducible apply keeps_mk

theorem State.hangEntry_keeps {s0 s : State} (hk : Keeps s0 s) (h : HangWho) :
    Keeps s0 (State.hangEntry s h) := by
  unfold State.hangEntry
  try dsimp only
  repeat' first
    | intro _
    | with_reducible exact hk
    | with_reducible apply State.bump_keeps
    | with_reducible apply State.wf_keeps
    | with_reducible apply ite_keeps
    | with_reducible refine keeps_snd (by assumption) ?_
    | with_reducible refine keeps_snd2 (by assumption) ?_
    | with_reducible assumption
    | split
    | dsimp only
    | with_reducible apply keeps_mk

theorem State.expire_keeps {s0 s : State} (hk : Keeps s0 s) (page : Nat) (b : Nat) (d : Dom) (fenced : Bool) (h : HangWho) :
    Keeps s0 (State.expire s page b d fenced h) := by
  unfold State.expire
  try dsimp only
  repeat' first
    | intro _
    | with_reducible exact hk
    | with_reducible apply State.blockCause_keeps
    | with_reducible apply State.hangEntry_keeps
    | with_reducible apply State.beginFence_keeps
    | with_reducible apply State.raiseFor_keeps
    | with_reducible apply ite_keeps
    | with_reducible refine keeps_snd (by assumption) ?_
    | with_reducible refine keeps_snd2 (by assumption) ?_
    | with_reducible assumption
    | split
    | dsimp only
    | with_reducible apply keeps_mk

theorem State.harrowFields_keeps {s0 s : State} (hk : Keeps s0 s) (f : Nat) (v : Word32) :
    Keeps s0 (State.harrowFields s f v) := by
  unfold State.harrowFields
  try dsimp only
  repeat' first
    | intro _
    | with_reducible exact hk
    | with_reducible apply State.writeBut_keeps
    | with_reducible apply ite_keeps
    | with_reducible refine keeps_snd (by assumption) ?_
    | with_reducible refine keeps_snd2 (by assumption) ?_
    | with_reducible assumption
    | split
    | dsimp only

theorem State.harrowCtrl_keeps {s0 s : State} (hk : Keeps s0 s) (f : Nat) (v : Word32) (m : Option Meas) :
    Keeps s0 (State.harrowCtrl s f v m) := by
  unfold State.harrowCtrl
  try dsimp only
  repeat' first
    | intro _
    | with_reducible exact hk
    | with_reducible apply State.stopHarrow_keeps
    | with_reducible apply State.harrowFields_keeps
    | with_reducible apply State.measured_keeps
    | with_reducible apply State.harrowGo_keeps
    | with_reducible apply ite_keeps
    | with_reducible refine keeps_snd (by assumption) ?_
    | with_reducible refine keeps_snd2 (by assumption) ?_
    | with_reducible assumption
    | split
    | dsimp only

theorem State.selectEntry_keeps {s0 s : State} (hk : Keeps s0 s) (v : Word32) (got : Option (List Byte)) :
    Keeps s0 (State.selectEntry s v got) := by
  unfold State.selectEntry
  try dsimp only
  repeat' first
    | intro _
    | with_reducible exact hk
    | with_reducible apply State.setReg_keeps
    | with_reducible apply State.plainWrite_keeps
    | with_reducible apply State.startRead_keeps
    | with_reducible apply State.readAlmanac_keeps
    | with_reducible apply State.wf_keeps
    | with_reducible refine foldl_keeps ?_ ?_
    | with_reducible apply ite_keeps
    | with_reducible refine keeps_snd (by assumption) ?_
    | with_reducible refine keeps_snd2 (by assumption) ?_
    | with_reducible assumption
    | split
    | dsimp only

theorem State.selectClass_keeps {s0 s : State} (hk : Keeps s0 s) (v : Word32) :
    Keeps s0 (State.selectClass s v) := by
  unfold State.selectClass
  try dsimp only
  repeat' first
    | intro _
    | with_reducible exact hk
    | with_reducible apply State.setReg_keeps
    | with_reducible apply State.plainWrite_keeps
    | with_reducible apply State.startRead_keeps
    | with_reducible apply State.wf_keeps
    | with_reducible apply ite_keeps
    | with_reducible refine keeps_snd (by assumption) ?_
    | with_reducible refine keeps_snd2 (by assumption) ?_
    | with_reducible assumption
    | split
    | dsimp only

theorem State.retireFurrow_keeps {s0 s : State} (hk : Keeps s0 s) (f : Nat) (n : Nat) :
    Keeps s0 (State.retireFurrow s f n) := by
  unfold State.retireFurrow
  try dsimp only
  repeat' first
    | intro _
    | with_reducible exact hk
    | with_reducible apply State.wf_keeps
    | with_reducible apply ite_keeps
    | with_reducible refine keeps_snd (by assumption) ?_
    | with_reducible refine keeps_snd2 (by assumption) ?_
    | with_reducible assumption
    | split
    | dsimp only
    | with_reducible apply keeps_mk

theorem State.furrowEntry_keeps {s0 s : State} (hk : Keeps s0 s) (event : Nat) (f : Nat) (n : Nat) (l : Nat) (m : Meas) :
    Keeps s0 (State.furrowEntry s event f n l m) := by
  unfold State.furrowEntry
  try dsimp only
  repeat' first
    | intro _
    | with_reducible exact hk
    | with_reducible apply State.almanac_keeps
    | with_reducible apply ite_keeps
    | with_reducible refine keeps_snd (by assumption) ?_
    | with_reducible refine keeps_snd2 (by assumption) ?_
    | with_reducible assumption
    | split
    | dsimp only

theorem State.installSpare_keeps {s0 s : State} (hk : Keeps s0 s) (f l n : Nat) : Keeps s0 (s.installSpare f l n) := by
  unfold State.installSpare
  have h0 : Keeps s0 { s with shadows := s.shadows.filter fun x => !(x.field == f && x.engine == n) } := keeps_rec hk rfl
  have h1 := fun u v => keeps_glean (keeps_seedbed (State.setFur_keeps h0 f n {}) _ fun h => Memory.wf_clearUnits h
      (by decide) u v)
    _ fun h => Memory.wf_clearUnits h (by decide) u v
  exact State.wf_keeps (State.wf_keeps (State.wf_keeps (State.wf_keeps (h1 ..) _ _) _ _) _ _) _ _

theorem State.memberEntry_keeps {s0 s : State} (hk : Keeps s0 s) (event : Nat) (x : Signed) (n : Nat) (m : Meas) :
    Keeps s0 (State.memberEntry s event x n m) := by
  unfold State.memberEntry
  try dsimp only
  repeat' first
    | intro _
    | with_reducible exact hk
    | with_reducible apply State.almanac_keeps
    | with_reducible apply ite_keeps
    | with_reducible refine keeps_snd (by assumption) ?_
    | with_reducible refine keeps_snd2 (by assumption) ?_
    | with_reducible assumption
    | split
    | dsimp only

theorem State.applySigned_keeps {s0 s : State} (hk : Keeps s0 s) (x : Signed) (sigs : List Verified) (cmd : Bool)
    (flashOk : Bool) (m : Meas) :
    Keeps s0 (State.applySigned s x sigs cmd flashOk m).2 := by
  unfold State.applySigned
  try dsimp only
  repeat' first
    | intro _
    | with_reducible exact hk
    | with_reducible apply State.fencePort_keeps
    | with_reducible apply State.memberEntry_keeps
    | with_reducible apply State.bump_keeps
    | with_reducible refine foldl_keeps ?_ ?_
    | with_reducible apply ite_keeps
    | with_reducible refine keeps_snd (by assumption) ?_
    | with_reducible refine keeps_snd2 (by assumption) ?_
    | with_reducible assumption
    | split
    | dsimp only
    | with_reducible apply keeps_mk

theorem State.signedBegun_keeps {s0 : State} (s : State) (act q : Nat) (w : CmdWord) (seq : Nat) (host : Option (List Byte))
    (sigs : List Verified) (flashOk : Bool) (m : Meas) : (s.signedBegun act q w seq host sigs flashOk m).Keeps s0 := by
  unfold State.signedBegun
  dsimp only
  refine argsThen_keeps _ (begun_ite (begun_stop _ _) (begun_ite (begun_stop _ _) (begun_ite begun_wait ?_)))
  split
  · exact begun_run fun t h => State.finishCmd_keeps (ite_keeps h (State.hbmRead_keeps h _ _ _)) _ _ _ _
  · refine begun_ite begun_wait (begun_ite (begun_stop _ _) ?_)
    split
    · exact begun_stop _ _
    · exact begun_run fun t h => State.finishCmd_keeps
        (State.applySigned_keeps (ite_keeps h (State.hbmRead_keeps h _ _ _)) _ _ _ _ _) _ _ _ _

theorem State.endObject_keeps {s0 s : State} (hk : Keeps s0 s) (b : List Byte) (sigs : List Verified) (flashOk : Bool)
    (m : Meas) :
    Keeps s0 (State.endObject s b sigs flashOk m) := by
  unfold State.endObject
  try dsimp only
  repeat' first
    | intro _
    | with_reducible exact hk
    | with_reducible apply State.applySigned_keeps
    | with_reducible apply ite_keeps
    | with_reducible refine keeps_snd (by assumption) ?_
    | with_reducible refine keeps_snd2 (by assumption) ?_
    | with_reducible assumption
    | split
    | dsimp only
    | with_reducible apply keeps_mk

theorem State.takeFragment_keeps {s0 s : State} (hk : Keeps s0 s) (x : Pkt) (sigs : List Verified) (flashOk : Bool) (m
    : Meas) :
    Keeps s0 (State.takeFragment s x sigs flashOk m) := by
  unfold State.takeFragment
  try dsimp only
  repeat' first
    | intro _
    | with_reducible exact hk
    | with_reducible apply State.endObject_keeps
    | with_reducible apply State.bump_keeps
    | with_reducible apply ite_keeps
    | with_reducible refine keeps_snd (by assumption) ?_
    | with_reducible refine keeps_snd2 (by assumption) ?_
    | with_reducible assumption
    | split
    | dsimp only
    | with_reducible apply keeps_mk

theorem State.applyDuty_keeps {s0 s : State} (hk : Keeps s0 s) :
    Keeps s0 (State.applyDuty s) := by
  unfold State.applyDuty
  try dsimp only
  repeat' first
    | intro _
    | with_reducible exact hk
    | with_reducible apply State.wf_keeps
    | with_reducible refine foldl_keeps ?_ ?_
    | with_reducible apply ite_keeps
    | with_reducible refine keeps_snd (by assumption) ?_
    | with_reducible refine keeps_snd2 (by assumption) ?_
    | with_reducible assumption
    | split
    | dsimp only

theorem State.noteTrip_keeps {s0 s : State} (hk : Keeps s0 s) (old : State) :
    Keeps s0 (State.noteTrip s old) := by
  unfold State.noteTrip
  try dsimp only
  repeat' first
    | intro _
    | with_reducible exact hk
    | with_reducible apply State.bump_keeps
    | with_reducible apply ite_keeps
    | with_reducible refine keeps_snd (by assumption) ?_
    | with_reducible refine keeps_snd2 (by assumption) ?_
    | with_reducible assumption
    | split
    | dsimp only

theorem State.showPower_keeps {s0 s : State} (hk : Keeps s0 s) (x : PowerIn) :
    Keeps s0 (State.showPower s x) := by
  unfold State.showPower
  try dsimp only
  repeat' first
    | intro _
    | with_reducible exact hk
    | with_reducible apply State.bump_keeps
    | with_reducible apply State.bump64_keeps
    | with_reducible apply State.wf_keeps
    | with_reducible apply State.peak_keeps
    | with_reducible refine foldl_keeps ?_ ?_
    | with_reducible apply ite_keeps
    | with_reducible refine keeps_snd (by assumption) ?_
    | with_reducible refine keeps_snd2 (by assumption) ?_
    | with_reducible assumption
    | split
    | dsimp only

theorem State.brakeAfter_keeps {s0 s : State} (hk : Keeps s0 s) (w : Nat) (broke : Bool) :
    Keeps s0 (State.brakeAfter s w broke) := by
  unfold State.brakeAfter
  try dsimp only
  repeat' first
    | intro _
    | with_reducible exact hk
    | with_reducible apply ite_keeps
    | with_reducible refine keeps_snd (by assumption) ?_
    | with_reducible refine keeps_snd2 (by assumption) ?_
    | with_reducible assumption
    | split
    | dsimp only
    | with_reducible apply keeps_mk

theorem State.addSample_keeps {s0 s : State} (hk : Keeps s0 s) (w : Nat) :
    Keeps s0 (State.addSample s w) := by
  unfold State.addSample
  try dsimp only
  repeat' first
    | intro _
    | with_reducible exact hk
    | with_reducible apply ite_keeps
    | with_reducible refine keeps_snd (by assumption) ?_
    | with_reducible refine keeps_snd2 (by assumption) ?_
    | with_reducible assumption
    | split
    | dsimp only
    | with_reducible apply keeps_mk

theorem State.setCeils_keeps {s0 s : State} (hk : Keeps s0 s) (l : List Nat) :
    Keeps s0 (State.setCeils s l) := by
  unfold State.setCeils
  try dsimp only
  repeat' first
    | intro _
    | with_reducible exact hk
    | with_reducible apply ite_keeps
    | with_reducible refine keeps_snd (by assumption) ?_
    | with_reducible refine keeps_snd2 (by assumption) ?_
    | with_reducible assumption
    | split
    | dsimp only
    | with_reducible apply keeps_mk

theorem State.recompute_keeps {s0 s : State} (hk : Keeps s0 s) :
    Keeps s0 (State.recompute s) := by
  unfold State.recompute
  try dsimp only
  repeat' first
    | intro _
    | with_reducible exact hk
    | with_reducible apply State.setCeils_keeps
    | with_reducible apply ite_keeps
    | with_reducible refine keeps_snd (by assumption) ?_
    | with_reducible refine keeps_snd2 (by assumption) ?_
    | with_reducible assumption
    | split
    | dsimp only

theorem State.minuteEdge_keeps {s0 s : State} (hk : Keeps s0 s) :
    Keeps s0 (State.minuteEdge s) := by
  unfold State.minuteEdge
  try dsimp only
  repeat' first
    | intro _
    | with_reducible exact hk
    | with_reducible apply State.noteForecast_keeps
    | with_reducible apply State.wf_keeps
    | with_reducible apply ite_keeps
    | with_reducible refine keeps_snd (by assumption) ?_
    | with_reducible refine keeps_snd2 (by assumption) ?_
    | with_reducible assumption
    | split
    | dsimp only
    | with_reducible apply keeps_mk

theorem State.dueBoundary_keeps {s0 s : State} (hk : Keeps s0 s) :
    Keeps s0 (State.dueBoundary s) := by
  unfold State.dueBoundary
  try dsimp only
  repeat' first
    | intro _
    | with_reducible exact hk
    | with_reducible apply State.minuteEdge_keeps
    | with_reducible apply ite_keeps
    | with_reducible refine keeps_snd (by assumption) ?_
    | with_reducible refine keeps_snd2 (by assumption) ?_
    | with_reducible assumption
    | split
    | dsimp only

theorem State.setAllot_keeps {s0 s : State} (hk : Keeps s0 s) (mgmt : Bool) (a : Nat) :
    Keeps s0 (State.setAllot s mgmt a) := by
  unfold State.setAllot
  try dsimp only
  repeat' first
    | intro _
    | with_reducible exact hk
    | with_reducible apply State.dueBoundary_keeps
    | with_reducible apply State.recompute_keeps
    | with_reducible apply State.noteForecast_keeps
    | with_reducible apply State.wf_keeps
    | with_reducible apply ite_keeps
    | with_reducible refine keeps_snd (by assumption) ?_
    | with_reducible refine keeps_snd2 (by assumption) ?_
    | with_reducible assumption
    | split
    | dsimp only
    | with_reducible apply keeps_mk

theorem State.setCap_keeps {s0 s : State} (hk : Keeps s0 s) (mgmt : Bool) (m : Nat) (cap : Nat) :
    Keeps s0 (State.setCap s mgmt m cap).2 := by
  unfold State.setCap
  try dsimp only
  repeat' first
    | intro _
    | with_reducible exact hk
    | with_reducible apply State.dueBoundary_keeps
    | with_reducible apply State.noteForecast_keeps
    | with_reducible apply State.setCeils_keeps
    | with_reducible apply State.wf_keeps
    | with_reducible apply ite_keeps
    | with_reducible refine keeps_snd (by assumption) ?_
    | with_reducible refine keeps_snd2 (by assumption) ?_
    | with_reducible assumption
    | split
    | dsimp only
    | with_reducible apply keeps_mk

theorem State.planCap_keeps {s0 s : State} (hk : Keeps s0 s) (v : Word32) :
    Keeps s0 (State.planCap s v) := by
  unfold State.planCap
  try dsimp only
  repeat' first
    | intro _
    | with_reducible exact hk
    | with_reducible apply State.setCap_keeps
    | with_reducible apply ite_keeps
    | with_reducible refine keeps_snd (by assumption) ?_
    | with_reducible refine keeps_snd2 (by assumption) ?_
    | with_reducible assumption
    | split
    | dsimp only

theorem State.setAlign_keeps {s0 s : State} (hk : Keeps s0 s) (a : Nat) : Keeps s0 (s.setAlign a) := by
  unfold State.setAlign
  refine ite_keeps hk (State.noteForecast_keeps ?_ _ _)
  refine keeps_mk ?_
  exact State.setCeils_keeps (State.wf_keeps (State.dueBoundary_keeps hk) _ _) _

theorem State.showTemp_keeps {s0 s : State} (hk : Keeps s0 s) (d : Nat) (t : BitVec 8) :
    Keeps s0 (State.showTemp s d t) := by
  unfold State.showTemp
  try dsimp only
  repeat' first
    | intro _
    | with_reducible exact hk
    | with_reducible apply State.wf_keeps
    | with_reducible apply ite_keeps
    | with_reducible refine keeps_snd (by assumption) ?_
    | with_reducible refine keeps_snd2 (by assumption) ?_
    | with_reducible assumption
    | split
    | dsimp only

theorem State.condIs_keeps {s0 s : State} (hk : Keeps s0 s) (page : Nat) (b : Nat) (on : Bool) :
    Keeps s0 (State.condIs s page b on) := by
  unfold State.condIs
  try dsimp only
  repeat' first
    | intro _
    | with_reducible exact hk
    | with_reducible apply State.dropCond_keeps
    | with_reducible apply State.raiseCond_keeps
    | with_reducible apply ite_keeps
    | with_reducible refine keeps_snd (by assumption) ?_
    | with_reducible refine keeps_snd2 (by assumption) ?_
    | with_reducible assumption
    | split
    | dsimp only

theorem State.showAbove_keeps {s0 s : State} (hk : Keeps s0 s) :
    Keeps s0 (State.showAbove s) := by
  unfold State.showAbove
  try dsimp only
  repeat' first
    | intro _
    | with_reducible exact hk
    | with_reducible apply State.condIs_keeps
    | with_reducible apply ite_keeps
    | with_reducible refine keeps_snd (by assumption) ?_
    | with_reducible refine keeps_snd2 (by assumption) ?_
    | with_reducible assumption
    | split
    | dsimp only

theorem State.linkDown_keeps {s0 s : State} (hk : Keeps s0 s) :
    Keeps s0 (State.linkDown s) := by
  unfold State.linkDown
  try dsimp only
  repeat' first
    | intro _
    | with_reducible exact hk
    | with_reducible apply State.setReg_keeps
    | with_reducible apply ite_keeps
    | with_reducible refine keeps_snd (by assumption) ?_
    | with_reducible refine keeps_snd2 (by assumption) ?_
    | with_reducible assumption
    | split
    | dsimp only

theorem State.pllLost_keeps {s0 s : State} (hk : Keeps s0 s) (i : Nat) :
    Keeps s0 (State.pllLost s i) := by
  unfold State.pllLost
  try dsimp only
  repeat' first
    | intro _
    | with_reducible exact hk
    | with_reducible apply State.setPll_keeps
    | with_reducible apply State.fenceField_keeps
    | with_reducible apply State.linkDown_keeps
    | with_reducible apply State.portDown_keeps
    | with_reducible apply State.raiseSrc_keeps
    | with_reducible apply State.raiseCond_keeps
    | with_reducible apply ite_keeps
    | with_reducible refine keeps_snd (by assumption) ?_
    | with_reducible refine keeps_snd2 (by assumption) ?_
    | with_reducible assumption
    | split
    | dsimp only

theorem State.showMeter_keeps {s0 s : State} (hk : Keeps s0 s) (j : Nat) (q : Nat) (n : Nat) (on : Bool) :
    Keeps s0 (State.showMeter s j q n on) := by
  unfold State.showMeter
  try dsimp only
  repeat' first
    | intro _
    | with_reducible exact hk
    | with_reducible apply State.wf_keeps
    | with_reducible apply ite_keeps
    | with_reducible refine keeps_snd (by assumption) ?_
    | with_reducible refine keeps_snd2 (by assumption) ?_
    | with_reducible assumption
    | split
    | dsimp only

theorem State.fallback_keeps {s0 s : State} (hk : Keeps s0 s) :
    Keeps s0 (State.fallback s) := by
  unfold State.fallback
  try dsimp only
  repeat' first
    | intro _
    | with_reducible exact hk
    | with_reducible apply State.sendVector0_keeps
    | with_reducible apply State.fenceField_keeps
    | with_reducible apply State.pllLost_keeps
    | with_reducible apply State.portDown_keeps
    | with_reducible apply State.wf_keeps
    | with_reducible apply State.raiseCond_keeps
    | with_reducible refine foldl_keeps ?_ ?_
    | with_reducible apply ite_keeps
    | with_reducible refine keeps_snd (by assumption) ?_
    | with_reducible refine keeps_snd2 (by assumption) ?_
    | with_reducible assumption
    | split
    | dsimp only
    | with_reducible apply keeps_mk

theorem State.stopMeters_keeps {s0 s : State} (hk : Keeps s0 s) :
    Keeps s0 (State.stopMeters s) := by
  unfold State.stopMeters
  try dsimp only
  repeat' first
    | intro _
    | with_reducible exact hk
    | with_reducible apply State.wf_keeps
    | with_reducible refine foldl_keeps ?_ ?_
    | with_reducible apply ite_keeps
    | with_reducible refine keeps_snd (by assumption) ?_
    | with_reducible refine keeps_snd2 (by assumption) ?_
    | with_reducible assumption
    | split
    | dsimp only

theorem State.clkGate_keeps {s0 s : State} (hk : Keeps s0 s) (base : Nat) (v : Word32) :
    Keeps s0 (State.clkGate s base v) := by
  unfold State.clkGate
  try dsimp only
  repeat' first
    | intro _
    | with_reducible exact hk
    | with_reducible apply State.stopMeters_keeps
    | with_reducible apply State.plainWrite_keeps
    | with_reducible apply State.admitAll_keeps
    | with_reducible apply State.wf_keeps
    | with_reducible apply ite_keeps
    | with_reducible refine keeps_snd (by assumption) ?_
    | with_reducible refine keeps_snd2 (by assumption) ?_
    | with_reducible assumption
    | split
    | dsimp only
    | with_reducible apply keeps_mk

theorem State.clkOut_keeps {s0 s : State} (hk : Keeps s0 s) (v : Word32) :
    Keeps s0 (State.clkOut s v) := by
  unfold State.clkOut
  try dsimp only
  repeat' first
    | intro _
    | with_reducible exact hk
    | with_reducible apply State.stopMeters_keeps
    | with_reducible apply State.plainWrite_keeps
    | with_reducible apply ite_keeps
    | with_reducible refine keeps_snd (by assumption) ?_
    | with_reducible refine keeps_snd2 (by assumption) ?_
    | with_reducible assumption
    | split
    | dsimp only

theorem State.fieldUp_keeps {s0 s : State} (hk : Keeps s0 s) (f : Nat) (failing : List (Fin 5)) :
    Keeps s0 (State.fieldUp s f failing) := by
  unfold State.fieldUp
  try dsimp only
  repeat' first
    | intro _
    | with_reducible exact hk
    | with_reducible apply State.fenceField_keeps
    | with_reducible apply State.wf_keeps
    | with_reducible apply State.applyDuty_keeps
    | with_reducible apply State.raiseSrc_keeps
    | with_reducible refine foldl_keeps ?_ ?_
    | with_reducible apply ite_keeps
    | with_reducible refine keeps_snd (by assumption) ?_
    | with_reducible refine keeps_snd2 (by assumption) ?_
    | with_reducible assumption
    | split
    | dsimp only

theorem State.draw_keeps {s0 s : State} (hk : Keeps s0 s) (n : Nat) :
    Keeps s0 (State.draw s n).2 := by
  unfold State.draw
  try dsimp only
  repeat' first
    | intro _
    | with_reducible exact hk
    | with_reducible apply State.fresh_keeps
    | with_reducible apply ite_keeps
    | with_reducible refine keeps_snd (by assumption) ?_
    | with_reducible refine keeps_snd2 (by assumption) ?_
    | with_reducible assumption
    | split
    | dsimp only

theorem State.signed_keeps {s0 s : State} (hk : Keeps s0 s) (ctx : List Byte) (b : List Byte) :
    Keeps s0 (State.signed s ctx b).2 := by
  unfold State.signed
  try dsimp only
  repeat' first
    | intro _
    | with_reducible exact hk
    | with_reducible apply State.fresh_keeps
    | with_reducible apply ite_keeps
    | with_reducible refine keeps_snd (by assumption) ?_
    | with_reducible refine keeps_snd2 (by assumption) ?_
    | with_reducible assumption
    | split
    | dsimp only

theorem State.showBytes_keeps {s0 s : State} (hk : Keeps s0 s) (a : Nat) (n : Nat) (b : List Byte) :
    Keeps s0 (State.showBytes s a n b) := by
  unfold State.showBytes
  try dsimp only
  repeat' first
    | intro _
    | with_reducible exact hk
    | with_reducible apply State.setReg_keeps
    | with_reducible refine foldl_keeps ?_ ?_
    | with_reducible apply ite_keeps
    | with_reducible refine keeps_snd (by assumption) ?_
    | with_reducible refine keeps_snd2 (by assumption) ?_
    | with_reducible assumption
    | split
    | dsimp only

theorem State.upFail_keeps {s0 s : State} (hk : Keeps s0 s) (cause : Nat) :
    Keeps s0 (State.upFail s cause) := by
  unfold State.upFail
  try dsimp only
  repeat' first
    | intro _
    | with_reducible exact hk
    | with_reducible apply State.wf_keeps
    | with_reducible apply State.raiseSrc_keeps
    | with_reducible apply ite_keeps
    | with_reducible refine keeps_snd (by assumption) ?_
    | with_reducible refine keeps_snd2 (by assumption) ?_
    | with_reducible assumption
    | split
    | dsimp only

theorem State.updateBegin_keeps {s0 s : State} (hk : Keeps s0 s) (owner : Nat) (h : List Byte) (sig : Bool) (flashOk :
    Bool) :
    Keeps s0 (State.updateBegin s owner h sig flashOk) := by
  unfold State.updateBegin
  try dsimp only
  repeat' first
    | intro _
    | with_reducible exact hk
    | with_reducible apply State.upFail_keeps
    | with_reducible apply State.wf_keeps
    | with_reducible apply ite_keeps
    | with_reducible refine keeps_snd (by assumption) ?_
    | with_reducible refine keeps_snd2 (by assumption) ?_
    | with_reducible assumption
    | split
    | dsimp only
    | with_reducible apply keeps_mk

theorem State.updateData_keeps {s0 s : State} (hk : Keeps s0 s) (owner : Nat) (off : Nat) (b : List Byte) :
    Keeps s0 (State.updateData s owner off b) := by
  unfold State.updateData
  try dsimp only
  repeat' first
    | intro _
    | with_reducible exact hk
    | with_reducible apply State.upFail_keeps
    | with_reducible apply State.wf_keeps
    | with_reducible apply ite_keeps
    | with_reducible refine keeps_snd (by assumption) ?_
    | with_reducible refine keeps_snd2 (by assumption) ?_
    | with_reducible assumption
    | split
    | dsimp only
    | with_reducible apply keeps_mk

theorem State.updateFinish_keeps {s0 s : State} (hk : Keeps s0 s) (owner : Nat) (flashOk : Bool) :
    Keeps s0 (State.updateFinish s owner flashOk) := by
  unfold State.updateFinish
  try dsimp only
  repeat' first
    | intro _
    | with_reducible exact hk
    | with_reducible apply State.upFail_keeps
    | with_reducible apply State.wf_keeps
    | with_reducible apply ite_keeps
    | with_reducible refine keeps_snd (by assumption) ?_
    | with_reducible refine keeps_snd2 (by assumption) ?_
    | with_reducible assumption
    | split
    | dsimp only
    | with_reducible apply keeps_mk

theorem State.updateCancel_keeps {s0 s : State} (hk : Keeps s0 s) (owner : Nat) :
    Keeps s0 (State.updateCancel s owner) := by
  unfold State.updateCancel
  try dsimp only
  repeat' first
    | intro _
    | with_reducible exact hk
    | with_reducible apply State.wf_keeps
    | with_reducible apply ite_keeps
    | with_reducible refine keeps_snd (by assumption) ?_
    | with_reducible refine keeps_snd2 (by assumption) ?_
    | with_reducible assumption
    | split
    | dsimp only

theorem State.updCtrl_keeps {s0 s : State} (hk : Keeps s0 s) (v : Word32) (sigs : Option (List Verified)) (flashOk :
    Option Bool) :
    Keeps s0 (State.updCtrl s v sigs flashOk) := by
  unfold State.updCtrl
  try dsimp only
  repeat' first
    | intro _
    | with_reducible exact hk
    | with_reducible apply State.updateFinish_keeps
    | with_reducible apply State.verdict_keeps
    | with_reducible apply State.updateCancel_keeps
    | with_reducible apply State.updateBegin_keeps
    | with_reducible apply State.updateData_keeps
    | with_reducible apply ite_keeps
    | with_reducible refine keeps_snd (by assumption) ?_
    | with_reducible refine keeps_snd2 (by assumption) ?_
    | with_reducible assumption
    | split
    | dsimp only
    | with_reducible apply keeps_mk

theorem State.secCtrl_keeps {s0 s : State} (hk : Keeps s0 s) (v : Word32) :
    Keeps s0 (State.secCtrl s v) := by
  unfold State.secCtrl
  try dsimp only
  repeat' first
    | intro _
    | with_reducible exact hk
    | with_reducible apply State.plainWrite_keeps
    | with_reducible apply State.wf_keeps
    | with_reducible apply ite_keeps
    | with_reducible refine keeps_snd (by assumption) ?_
    | with_reducible refine keeps_snd2 (by assumption) ?_
    | with_reducible assumption
    | split
    | dsimp only

theorem State.rekeyed_keeps {s0 s : State} (hk : Keeps s0 s) (c : Nat) :
    Keeps s0 (State.rekeyed s c) := by
  unfold State.rekeyed
  try dsimp only
  repeat' first
    | intro _
    | with_reducible exact hk
    | with_reducible apply State.undefGranules_keeps
    | with_reducible refine foldl_keeps ?_ ?_
    | with_reducible apply ite_keeps
    | with_reducible refine keeps_snd (by assumption) ?_
    | with_reducible refine keeps_snd2 (by assumption) ?_
    | with_reducible assumption
    | split
    | dsimp only

theorem State.setKey_keeps {s0 s : State} (hk : Keeps s0 s) (load : Bool) :
    Keeps s0 (State.setKey s load) := by
  unfold State.setKey
  try dsimp only
  repeat' first
    | intro _
    | with_reducible exact hk
    | with_reducible apply State.rekeyed_keeps
    | with_reducible apply ite_keeps
    | with_reducible refine keeps_snd (by assumption) ?_
    | with_reducible refine keeps_snd2 (by assumption) ?_
    | with_reducible assumption
    | split
    | dsimp only
    | with_reducible apply keeps_mk

theorem State.keyCmd_keeps {s0 s : State} (hk : Keeps s0 s) (v : Word32) :
    Keeps s0 (State.keyCmd s v) := by
  unfold State.keyCmd
  try dsimp only
  repeat' first
    | intro _
    | with_reducible exact hk
    | with_reducible apply State.setKey_keeps
    | with_reducible apply State.wf_keeps
    | with_reducible apply ite_keeps
    | with_reducible refine keeps_snd (by assumption) ?_
    | with_reducible refine keeps_snd2 (by assumption) ?_
    | with_reducible assumption
    | split
    | dsimp only
    | with_reducible apply keeps_mk

theorem State.newNonce_keeps {s0 s : State} (hk : Keeps s0 s) :
    Keeps s0 (State.newNonce s) := by
  unfold State.newNonce
  try dsimp only
  repeat' first
    | intro _
    | with_reducible exact hk
    | with_reducible apply State.draw_keeps
    | with_reducible apply State.showBytes_keeps
    | with_reducible apply ite_keeps
    | with_reducible refine keeps_snd (by assumption) ?_
    | with_reducible refine keeps_snd2 (by assumption) ?_
    | with_reducible assumption
    | split
    | dsimp only

theorem State.tryToken_keeps {s0 s : State} (hk : Keeps s0 s) (sig : Bool) :
    Keeps s0 (State.tryToken s sig) := by
  unfold State.tryToken
  try dsimp only
  repeat' first
    | intro _
    | with_reducible exact hk
    | with_reducible apply State.newNonce_keeps
    | with_reducible apply State.wf_keeps
    | with_reducible apply State.raiseSrc_keeps
    | with_reducible apply ite_keeps
    | with_reducible refine keeps_snd (by assumption) ?_
    | with_reducible refine keeps_snd2 (by assumption) ?_
    | with_reducible assumption
    | split
    | dsimp only
    | with_reducible apply keeps_mk

theorem State.dbgCtrl_keeps {s0 s : State} (hk : Keeps s0 s) (v : Word32) (sigs : Option (List Verified)) :
    Keeps s0 (State.dbgCtrl s v sigs) := by
  unfold State.dbgCtrl
  try dsimp only
  repeat' first
    | intro _
    | with_reducible exact hk
    | with_reducible apply State.verdict_keeps
    | with_reducible apply State.tryToken_keeps
    | with_reducible apply ite_keeps
    | with_reducible refine keeps_snd (by assumption) ?_
    | with_reducible refine keeps_snd2 (by assumption) ?_
    | with_reducible assumption
    | split
    | dsimp only

theorem State.attest_keeps {s0 s : State} (hk : Keeps s0 s) (req : List Byte) :
    Keeps s0 (State.attest s req).2 := by
  unfold State.attest
  try dsimp only
  repeat' first
    | intro _
    | with_reducible exact hk
    | with_reducible apply State.signed_keeps
    | with_reducible apply ite_keeps
    | with_reducible refine keeps_snd (by assumption) ?_
    | with_reducible refine keeps_snd2 (by assumption) ?_
    | with_reducible assumption
    | split
    | dsimp only

theorem State.doeAnswer_keeps {s0 s : State} (hk : Keeps s0 s) (b : List Byte) :
    Keeps s0 (State.doeAnswer s b) := by
  unfold State.doeAnswer
  try dsimp only
  repeat' first
    | intro _
    | with_reducible exact hk
    | with_reducible apply ite_keeps
    | with_reducible refine keeps_snd (by assumption) ?_
    | with_reducible refine keeps_snd2 (by assumption) ?_
    | with_reducible assumption
    | split
    | dsimp only
    | with_reducible apply keeps_mk

theorem State.discovery_keeps {s0 s : State} (hk : Keeps s0 s) (i : Nat) :
    Keeps s0 (State.discovery s i).2 := by
  unfold State.discovery
  try dsimp only
  repeat' first
    | intro _
    | with_reducible exact hk
    | with_reducible apply State.freeBytes_keeps
    | with_reducible apply ite_keeps
    | with_reducible refine keeps_snd (by assumption) ?_
    | with_reducible refine keeps_snd2 (by assumption) ?_
    | with_reducible assumption
    | split
    | dsimp only
    | with_reducible apply keeps_mk

theorem State.ideFail_keeps {s0 s : State} (hk : Keeps s0 s) :
    Keeps s0 (State.ideFail s) := by
  unfold State.ideFail
  try dsimp only
  repeat' first
    | intro _
    | with_reducible exact hk
    | with_reducible apply State.doeAnswer_keeps
    | with_reducible apply ite_keeps
    | with_reducible refine keeps_snd (by assumption) ?_
    | with_reducible refine keeps_snd2 (by assumption) ?_
    | with_reducible assumption
    | split
    | dsimp only
    | with_reducible apply keeps_mk

theorem State.ideStart_keeps {s0 s : State} (hk : Keeps s0 s) (req : List Byte) :
    Keeps s0 (State.ideStart s req) := by
  unfold State.ideStart
  try dsimp only
  repeat' first
    | intro _
    | with_reducible exact hk
    | with_reducible apply State.signed_keeps
    | with_reducible apply State.doeAnswer_keeps
    | with_reducible apply State.fresh_keeps
    | with_reducible apply ite_keeps
    | with_reducible refine keeps_snd (by assumption) ?_
    | with_reducible refine keeps_snd2 (by assumption) ?_
    | with_reducible assumption
    | split
    | dsimp only
    | with_reducible apply keeps_mk

theorem State.ideDerive_keeps {s0 s : State} (hk : Keeps s0 s) (req : List Byte) :
    Keeps s0 (State.ideDerive s req) := by
  unfold State.ideDerive
  try dsimp only
  repeat' first
    | intro _
    | with_reducible exact hk
    | with_reducible apply State.doeAnswer_keeps
    | with_reducible apply ite_keeps
    | with_reducible refine keeps_snd (by assumption) ?_
    | with_reducible refine keeps_snd2 (by assumption) ?_
    | with_reducible assumption
    | split
    | dsimp only
    | with_reducible apply keeps_mk

theorem State.ideUse_keeps {s0 s : State} (hk : Keeps s0 s) :
    Keeps s0 (State.ideUse s) := by
  unfold State.ideUse
  try dsimp only
  repeat' first
    | intro _
    | with_reducible exact hk
    | with_reducible apply State.doeAnswer_keeps
    | with_reducible apply State.wf_keeps
    | with_reducible apply ite_keeps
    | with_reducible refine keeps_snd (by assumption) ?_
    | with_reducible refine keeps_snd2 (by assumption) ?_
    | with_reducible assumption
    | split
    | dsimp only
    | with_reducible apply keeps_mk

theorem State.deviceReset_keeps {s0 s : State} (hk : Keeps s0 s) : Keeps s0 s.deviceReset := by
  refine ⟨hk.pending, hk.fuses, fun c => ?_⟩
  have e := Memory.wf_empty
  exact ⟨e _, e _, e _, e _, (hk.canon c).hostMem, .nil, .nil, .nil, .nil, .nil, .nil, .nil, .nil, .nil, .nil,
    .nil, .nil, .nil, .nil, .nil⟩

theorem State.deriveIdentity_keeps {s0 s : State} (hk : Keeps s0 s) :
    Keeps s0 (State.deriveIdentity s) := by
  unfold State.deriveIdentity
  try dsimp only
  repeat' first
    | intro _
    | with_reducible exact hk
    | with_reducible apply State.showBytes_keeps
    | with_reducible apply ite_keeps
    | with_reducible refine keeps_snd (by assumption) ?_
    | with_reducible refine keeps_snd2 (by assumption) ?_
    | with_reducible assumption
    | split
    | dsimp only
    | with_reducible apply keeps_mk

theorem State.leaveStart_keeps {s0 s : State} (hk : Keeps s0 s) :
    Keeps s0 (State.leaveStart s) := by
  unfold State.leaveStart
  try dsimp only
  repeat' first
    | intro _
    | with_reducible exact hk
    | with_reducible apply State.wf_keeps
    | with_reducible apply ite_keeps
    | with_reducible refine keeps_snd (by assumption) ?_
    | with_reducible refine keeps_snd2 (by assumption) ?_
    | with_reducible assumption
    | split
    | dsimp only

theorem State.checkFuses_keeps {s0 s : State} (hk : Keeps s0 s) :
    Keeps s0 (State.checkFuses s) := by
  unfold State.checkFuses
  try dsimp only
  repeat' first
    | intro _
    | with_reducible exact hk
    | with_reducible apply State.deriveIdentity_keeps
    | with_reducible apply State.newNonce_keeps
    | with_reducible apply State.startPll_keeps
    | with_reducible apply State.wf_keeps
    | with_reducible apply ite_keeps
    | with_reducible refine keeps_snd (by assumption) ?_
    | with_reducible refine keeps_snd2 (by assumption) ?_
    | with_reducible assumption
    | split
    | dsimp only

theorem State.initFirmware_keeps {s0 s : State} (hk : Keeps s0 s) (h : List Byte) : Keeps s0 (s.initFirmware h) := by
  unfold State.initFirmware
  have h0 : Keeps s0
      { s with
        regs := s.regs.filter fun e => keptAtInit e.1
        sec := { s.sec with running := h, keyIn := [] }
        flash := s.flash.putHdr { s.flash.hdr with boots := (s.flash.boots + 1) % 2 ^ 32 } } :=
    keeps_rec (keeps_regs hk (s.regs.filter fun e => keptAtInit e.1) fun h => sorted_filter _ h) rfl
  exact State.wf_keeps (State.wf_keeps (State.wf_keeps (State.wf_keeps (State.wf_keeps h0 _ _) _ _) _ _) _ _) _ _

theorem State.releaseVec_keeps {s0 s : State} (hk : Keeps s0 s) (k : Nat) :
    Keeps s0 (State.releaseVec s k) := by
  unfold State.releaseVec
  try dsimp only
  repeat' first
    | intro _
    | with_reducible exact hk
    | with_reducible apply ite_keeps
    | with_reducible refine keeps_snd (by assumption) ?_
    | with_reducible refine keeps_snd2 (by assumption) ?_
    | with_reducible assumption
    | split
    | dsimp only
    | with_reducible apply keeps_mk

theorem State.releaseFunc_keeps {s0 s : State} (hk : Keeps s0 s) (u : Nat) :
    Keeps s0 (State.releaseFunc s u) := by
  unfold State.releaseFunc
  try dsimp only
  repeat' first
    | intro _
    | with_reducible exact hk
    | with_reducible apply State.releaseVec_keeps
    | with_reducible refine foldl_keeps ?_ ?_
    | with_reducible apply ite_keeps
    | with_reducible refine keeps_snd (by assumption) ?_
    | with_reducible refine keeps_snd2 (by assumption) ?_
    | with_reducible assumption
    | split
    | dsimp only

theorem State.dropQueue_keeps {s0 s : State} (hk : Keeps s0 s) (q : Nat) :
    Keeps s0 (State.dropQueue s q) := by
  unfold State.dropQueue
  try dsimp only
  repeat' first
    | intro _
    | with_reducible exact hk
    | with_reducible apply State.detachQueue_keeps
    | with_reducible apply State.wf_keeps
    | with_reducible apply State.emptyQueue_keeps
    | with_reducible apply ite_keeps
    | with_reducible refine keeps_snd (by assumption) ?_
    | with_reducible refine keeps_snd2 (by assumption) ?_
    | with_reducible assumption
    | split
    | dsimp only

theorem State.resetMsix_keeps {s0 s : State} (hk : Keeps s0 s) (u : Nat) :
    Keeps s0 (State.resetMsix s u) := by
  unfold State.resetMsix
  try dsimp only
  repeat' first
    | intro _
    | with_reducible exact hk
    | with_reducible apply ite_keeps
    | with_reducible refine keeps_snd (by assumption) ?_
    | with_reducible refine keeps_snd2 (by assumption) ?_
    | with_reducible assumption
    | split
    | dsimp only
    | with_reducible apply keeps_mk

theorem State.resetFunction_keeps {s0 s : State} (hk : Keeps s0 s) (u : Nat) :
    Keeps s0 (State.resetFunction s u) := by
  unfold State.resetFunction
  try dsimp only
  repeat' first
    | intro _
    | with_reducible exact hk
    | with_reducible apply State.dropQueue_keeps
    | with_reducible apply State.resetContext_keeps
    | with_reducible apply State.resetMsix_keeps
    | with_reducible refine foldl_keeps ?_ ?_
    | with_reducible apply ite_keeps
    | with_reducible refine keeps_snd (by assumption) ?_
    | with_reducible refine keeps_snd2 (by assumption) ?_
    | with_reducible assumption
    | split
    | dsimp only

theorem State.setVfs_keeps {s0 s : State} (hk : Keeps s0 s) (n : Nat) :
    Keeps s0 (State.setVfs s n) := by
  unfold State.setVfs
  try dsimp only
  repeat' first
    | intro _
    | with_reducible exact hk
    | with_reducible apply State.resetFunction_keeps
    | with_reducible refine foldl_keeps ?_ ?_
    | with_reducible apply ite_keeps
    | with_reducible refine keeps_snd (by assumption) ?_
    | with_reducible refine keeps_snd2 (by assumption) ?_
    | with_reducible assumption
    | split
    | dsimp only
    | with_reducible apply keeps_mk

theorem State.respond_keeps {s0 s : State} (hk : Keeps s0 s) (b : List Byte) :
    Keeps s0 (State.respond s b) := by
  unfold State.respond
  try dsimp only
  repeat' first
    | intro _
    | with_reducible exact hk
    | with_reducible apply ite_keeps
    | with_reducible refine keeps_snd (by assumption) ?_
    | with_reducible refine keeps_snd2 (by assumption) ?_
    | with_reducible assumption
    | split
    | dsimp only
    | with_reducible apply keeps_mk

theorem State.received_keeps {s0 s : State} (hk : Keeps s0 s) (k : State → State) (hk : ∀ t, Keeps s0 t → Keeps s0 (k t)) :
    Keeps s0 (State.received s k) := by
  unfold State.received
  try dsimp only
  repeat' first
    | intro _
    | with_reducible exact hk
    | with_reducible apply State.bump_keeps
    | with_reducible apply hk
    | with_reducible apply ite_keeps
    | with_reducible refine keeps_snd (by assumption) ?_
    | with_reducible refine keeps_snd2 (by assumption) ?_
    | with_reducible assumption
    | split
    | dsimp only

theorem State.messageOf_keeps {s0 s : State} (hk : Keeps s0 s) (n : Nat) (k : State → State) (hk : ∀ t, Keeps s0 t →
    Keeps s0 (k t)) :
    Keeps s0 (State.messageOf s n k) := by
  unfold State.messageOf
  try dsimp only
  repeat' first
    | intro _
    | with_reducible exact hk
    | with_reducible apply State.bump_keeps
    | with_reducible apply State.received_keeps
    | with_reducible apply hk
    | with_reducible apply ite_keeps
    | with_reducible refine keeps_snd (by assumption) ?_
    | with_reducible refine keeps_snd2 (by assumption) ?_
    | with_reducible assumption
    | split
    | dsimp only

theorem State.vendor_keeps {s0 s : State} (hk : Keeps s0 s) (cmd : Nat) (head : BitVec 32) (p : List Byte) (also : List Nat)
    (k : State → Answer) (hb : ∀ t, Keeps s0 t → Keeps s0 (k t).2.2) : Keeps s0 (s.vendor cmd head p also k) := by
  unfold State.vendor
  refine ite_keeps hk (State.messageOf_keeps hk _ _ fun t ht => ?_)
  have h1 : Keeps s0 (if t.stage ≠ 5 ∧ t.stage ∉ (if wbits head 0 8 = cmd then also else []) then (ccNotReady, [], t)
      else if head ≠ BitVec.ofNat 32 cmd then (ccInvalid, [], t) else k t).2.2 := by
    generalize (if wbits head 0 8 = cmd then also else []) = l
    split
    · exact ht
    · split
      · exact ht
      · exact hb t ht
  exact State.respond_keeps (ite_keeps (State.bump_keeps h1 _ _) h1) _

theorem answerIf_keeps {s0 t : State} (ht : Keeps s0 t) (ok : Bool) {k : Answer} (h : Keeps s0 k.2.2) :
    Keeps s0 (answerIf ok t k).2.2 := by
  unfold answerIf
  split
  · exact h
  · exact ht

theorem State.subscribe_keeps {s0 s : State} (hk : Keeps s0 s) (b : Nat) (eid : Nat) (kinds : Nat) :
    Keeps s0 (State.subscribe s b eid kinds) := by
  unfold State.subscribe
  try dsimp only
  repeat' first
    | intro _
    | with_reducible exact hk
    | with_reducible apply State.wf_keeps
    | with_reducible apply ite_keeps
    | with_reducible refine keeps_snd (by assumption) ?_
    | with_reducible refine keeps_snd2 (by assumption) ?_
    | with_reducible assumption
    | split
    | dsimp only

theorem State.tellAgent_keeps {s0 s : State} (hk : Keeps s0 s) (cmd : Nat) (data : List Byte) :
    Keeps s0 (State.tellAgent s cmd data) := by
  unfold State.tellAgent
  try dsimp only
  repeat' first
    | intro _
    | with_reducible exact hk
    | with_reducible apply ite_keeps
    | with_reducible refine keeps_snd (by assumption) ?_
    | with_reducible refine keeps_snd2 (by assumption) ?_
    | with_reducible assumption
    | split
    | dsimp only
    | with_reducible apply keeps_mk

theorem State.askPiece_keeps {s0 s : State} (hk : Keeps s0 s) (off : Nat) (n : Nat) :
    Keeps s0 (State.askPiece s off n) := by
  unfold State.askPiece
  try dsimp only
  repeat' first
    | intro _
    | with_reducible exact hk
    | with_reducible apply State.tellAgent_keeps
    | with_reducible apply ite_keeps
    | with_reducible refine keeps_snd (by assumption) ?_
    | with_reducible refine keeps_snd2 (by assumption) ?_
    | with_reducible assumption
    | split
    | dsimp only
    | with_reducible apply keeps_mk

theorem State.askNext_keeps {s0 s : State} (hk : Keeps s0 s) :
    Keeps s0 (State.askNext s) := by
  unfold State.askNext
  try dsimp only
  repeat' first
    | intro _
    | with_reducible exact hk
    | with_reducible apply State.askPiece_keeps
    | with_reducible apply ite_keeps
    | with_reducible refine keeps_snd (by assumption) ?_
    | with_reducible refine keeps_snd2 (by assumption) ?_
    | with_reducible assumption
    | split
    | dsimp only
    | with_reducible apply keeps_mk

theorem State.reportEnd_keeps {s0 s : State} (hk : Keeps s0 s) :
    Keeps s0 (State.reportEnd s) := by
  unfold State.reportEnd
  try dsimp only
  repeat' first
    | intro _
    | with_reducible exact hk
    | with_reducible apply State.tellAgent_keeps
    | with_reducible apply ite_keeps
    | with_reducible refine keeps_snd (by assumption) ?_
    | with_reducible refine keeps_snd2 (by assumption) ?_
    | with_reducible assumption
    | split
    | dsimp only
    | with_reducible apply keeps_mk

theorem State.fwRequest_keeps {s0 s : State} (hk : Keeps s0 s) (k : State → List Byte × State)
    (hb : ∀ t, Keeps s0 t → Keeps s0 (k t).2) : Keeps s0 (s.fwRequest k) := by
  unfold State.fwRequest
  exact State.received_keeps hk _ fun t ht => ite_keeps (State.respond_keeps ht _) (State.respond_keeps (hb t ht) _)

theorem State.beginImage_keeps {s0 s : State} (hk : Keeps s0 s) (h : List Byte) (sigs : List Verified) (flashOk : Bool) :
    Keeps s0 (State.beginImage s h sigs flashOk) := by
  unfold State.beginImage
  try dsimp only
  repeat' first
    | intro _
    | with_reducible exact hk
    | with_reducible apply State.askNext_keeps
    | with_reducible apply State.reportEnd_keeps
    | with_reducible apply State.updateBegin_keeps
    | with_reducible apply ite_keeps
    | with_reducible refine keeps_snd (by assumption) ?_
    | with_reducible refine keeps_snd2 (by assumption) ?_
    | with_reducible assumption
    | split
    | dsimp only
    | with_reducible apply keeps_mk

theorem State.zeroWrite_keeps {s0 s : State} (hk : Keeps s0 s) (a : Nat) (v : Word32) :
    Keeps s0 (State.zeroWrite s a v) := by
  unfold State.zeroWrite
  try dsimp only
  repeat' first
    | intro _
    | with_reducible exact hk
    | with_reducible apply State.setReg_keeps
    | with_reducible apply ite_keeps
    | with_reducible refine keeps_snd (by assumption) ?_
    | with_reducible refine keeps_snd2 (by assumption) ?_
    | with_reducible assumption
    | split
    | dsimp only

theorem State.statWrite_keeps {s0 s : State} (hk : Keeps s0 s) (p : Page) (a : Nat) (v : Word32) :
    Keeps s0 (State.statWrite s p a v) := by
  unfold State.statWrite
  try dsimp only
  repeat' first
    | intro _
    | with_reducible exact hk
    | with_reducible apply State.deviceFatal_keeps
    | with_reducible apply State.plainWrite_keeps
    | with_reducible apply ite_keeps
    | with_reducible refine keeps_snd (by assumption) ?_
    | with_reducible refine keeps_snd2 (by assumption) ?_
    | with_reducible assumption
    | split
    | dsimp only

theorem State.maskWrite_keeps {s0 s : State} (hk : Keeps s0 s) (p : Page) (a : Nat) (v : Word32) :
    Keeps s0 (State.maskWrite s p a v) := by
  unfold State.maskWrite
  try dsimp only
  repeat' first
    | intro _
    | with_reducible exact hk
    | with_reducible apply State.deviceFatal_keeps
    | with_reducible apply State.setPair_keeps
    | with_reducible apply State.setReg_keeps
    | with_reducible refine foldl_keeps ?_ ?_
    | with_reducible apply ite_keeps
    | with_reducible refine keeps_snd (by assumption) ?_
    | with_reducible refine keeps_snd2 (by assumption) ?_
    | with_reducible assumption
    | split
    | dsimp only
    | with_reducible apply keeps_mk

theorem State.commonWrite_keeps {s0 s : State} (hk : Keeps s0 s) (p : Page) (a : Nat) (v : Word32) :
    Keeps s0 (State.commonWrite s p a v) := by
  unfold State.commonWrite
  try dsimp only
  repeat' first
    | intro _
    | with_reducible exact hk
    | with_reducible apply State.zeroWrite_keeps
    | with_reducible apply State.setReg_keeps
    | with_reducible apply State.maskWrite_keeps
    | with_reducible apply State.plainWrite_keeps
    | with_reducible apply State.statWrite_keeps
    | with_reducible apply ite_keeps
    | with_reducible refine keeps_snd (by assumption) ?_
    | with_reducible refine keeps_snd2 (by assumption) ?_
    | with_reducible assumption
    | split
    | dsimp only
    | with_reducible apply keeps_mk

theorem State.harrowWrite_keeps {s0 s : State} (hk : Keeps s0 s) (f : Nat) (o : Nat) (a : Nat) (v : Word32) :
    Keeps s0 (State.harrowWrite s f o a v) := by
  unfold State.harrowWrite
  try dsimp only
  repeat' first
    | intro _
    | with_reducible exact hk
    | with_reducible apply State.writeUnless_keeps
    | with_reducible apply State.harrowFields_keeps
    | with_reducible apply State.plainWrite_keeps
    | with_reducible apply ite_keeps
    | with_reducible refine keeps_snd (by assumption) ?_
    | with_reducible refine keeps_snd2 (by assumption) ?_
    | with_reducible assumption
    | split
    | dsimp only
    | with_reducible apply keeps_mk

theorem State.contextWrite_keeps {s0 s : State} (hk : Keeps s0 s) (c : Nat) (o : Nat) (a : Nat) (v : Word32) :
    Keeps s0 (State.contextWrite s c o a v) := by
  unfold State.contextWrite
  try dsimp only
  repeat' first
    | intro _
    | with_reducible exact hk
    | with_reducible apply State.writeUnless_keeps
    | with_reducible apply State.plainWrite_keeps
    | with_reducible apply State.setCtx_keeps
    | with_reducible apply ite_keeps
    | with_reducible refine keeps_snd (by assumption) ?_
    | with_reducible refine keeps_snd2 (by assumption) ?_
    | with_reducible assumption
    | split
    | dsimp only
    | with_reducible apply keeps_mk

theorem State.vecWrite_keeps {s0 s : State} (hk : Keeps s0 s) (u : Nat) (a : Nat) (v : Word32) (lo : Nat) :
    Keeps s0 (State.vecWrite s u a v lo) := by
  unfold State.vecWrite
  try dsimp only
  repeat' first
    | intro _
    | with_reducible exact hk
    | with_reducible apply State.writeUnless_keeps
    | with_reducible apply ite_keeps
    | with_reducible refine keeps_snd (by assumption) ?_
    | with_reducible refine keeps_snd2 (by assumption) ?_
    | with_reducible assumption
    | split
    | dsimp only

theorem State.mailWrite_keeps {s0 s : State} (hk : Keeps s0 s) (i : Nat) (o : Nat) (v : Word32) :
    Keeps s0 (State.mailWrite s i o v) := by
  unfold State.mailWrite
  try dsimp only
  repeat' first
    | intro _
    | with_reducible exact hk
    | with_reducible apply ite_keeps
    | with_reducible refine keeps_snd (by assumption) ?_
    | with_reducible refine keeps_snd2 (by assumption) ?_
    | with_reducible assumption
    | split
    | dsimp only
    | with_reducible apply keeps_mk

theorem State.clearRefused_keeps {s0 s : State} (hk : Keeps s0 s) (v : Word32) :
    Keeps s0 (State.clearRefused s v) := by
  unfold State.clearRefused
  try dsimp only
  repeat' first
    | intro _
    | with_reducible exact hk
    | with_reducible apply State.setQueue_keeps
    | with_reducible apply ite_keeps
    | with_reducible refine keeps_snd (by assumption) ?_
    | with_reducible refine keeps_snd2 (by assumption) ?_
    | with_reducible assumption
    | split
    | dsimp only
    | with_reducible apply keeps_mk

theorem State.regWrite_keeps {s0 s : State} (hk : Keeps s0 s) (p : Page) (a : Nat) (v : Word32) :
    Keeps s0 (State.regWrite s p a v) := by
  unfold State.regWrite
  try dsimp only
  repeat' first
    | intro _
    | with_reducible exact hk
    | with_reducible apply State.regionConfig_keeps
    | with_reducible apply State.writeUnless_keeps
    | with_reducible apply State.contextWrite_keeps
    | with_reducible apply State.clearRefused_keeps
    | with_reducible apply State.commonWrite_keeps
    | with_reducible apply State.zeroWrite_keeps
    | with_reducible apply State.vecWrite_keeps
    | with_reducible apply State.harrowWrite_keeps
    | with_reducible apply State.plainWrite_keeps
    | with_reducible apply State.mailWrite_keeps
    | with_reducible apply State.tryDetect_keeps
    | with_reducible apply State.almanac_keeps
    | with_reducible apply ite_keeps
    | with_reducible refine keeps_snd (by assumption) ?_
    | with_reducible refine keeps_snd2 (by assumption) ?_
    | with_reducible assumption
    | split
    | dsimp only
    | with_reducible apply keeps_mk

theorem State.stage64_keeps {s0 s : State} (hk : Keeps s0 s) (u : Nat) (a : Nat) (v : Word32) :
    Keeps s0 (State.stage64 s u a v) := by
  unfold State.stage64
  try dsimp only
  repeat' first
    | intro _
    | with_reducible exact hk
    | with_reducible apply ite_keeps
    | with_reducible refine keeps_snd (by assumption) ?_
    | with_reducible refine keeps_snd2 (by assumption) ?_
    | with_reducible assumption
    | split
    | dsimp only
    | with_reducible apply keeps_mk

theorem State.commit64_keeps {s0 s : State} (hk : Keeps s0 s) (u : Nat) (a : Nat) (v : Word32) :
    Keeps s0 (State.commit64 s u a v) := by
  unfold State.commit64
  try dsimp only
  repeat' first
    | intro _
    | with_reducible exact hk
    | with_reducible apply State.plainWrite_keeps
    | with_reducible apply State.unstage_keeps
    | with_reducible apply ite_keeps
    | with_reducible refine keeps_snd (by assumption) ?_
    | with_reducible refine keeps_snd2 (by assumption) ?_
    | with_reducible assumption
    | split
    | dsimp only

theorem State.lowWrite_keeps {s0 s : State} (hk : Keeps s0 s) (u : Nat) (a : Nat) (v : Word32) :
    Keeps s0 (State.lowWrite s u a v) := by
  unfold State.lowWrite
  try dsimp only
  repeat' first
    | intro _
    | with_reducible exact hk
    | with_reducible apply State.baseWrite_keeps
    | with_reducible apply State.servWrite_keeps
    | with_reducible apply State.stage64_keeps
    | with_reducible apply ite_keeps
    | with_reducible refine keeps_snd (by assumption) ?_
    | with_reducible refine keeps_snd2 (by assumption) ?_
    | with_reducible assumption
    | split
    | dsimp only
    | with_reducible apply keeps_mk

theorem State.highWrite_keeps {s0 s : State} (hk : Keeps s0 s) (u : Nat) (a : Nat) (v : Word32) :
    Keeps s0 (State.highWrite s u a v) := by
  unfold State.highWrite
  try dsimp only
  repeat' first
    | intro _
    | with_reducible exact hk
    | with_reducible apply State.commit64_keeps
    | with_reducible apply State.baseWrite_keeps
    | with_reducible apply State.servWrite_keeps
    | with_reducible apply State.routeCommit_keeps
    | with_reducible apply ite_keeps
    | with_reducible refine keeps_snd (by assumption) ?_
    | with_reducible refine keeps_snd2 (by assumption) ?_
    | with_reducible assumption
    | split
    | dsimp only
    | with_reducible apply keeps_mk

theorem State.ownEffect_keeps {s0 s : State} (hk : Keeps s0 s) (u : Nat) (p : Page) (a : Nat) (v : Word32) :
    Keeps s0 (State.ownEffect s u p a v) := by
  unfold State.ownEffect
  try dsimp only
  repeat' first
    | intro _
    | with_reducible exact hk
    | with_reducible apply State.queueCfg_keeps
    | with_reducible apply State.clkGate_keeps
    | with_reducible apply State.bindQueue_keeps
    | with_reducible apply State.ctxMemWrite_keeps
    | with_reducible apply State.selectClass_keeps
    | with_reducible apply State.setRxalloc_keeps
    | with_reducible apply State.wireTestWrite_keeps
    | with_reducible apply State.granWrite_keeps
    | with_reducible apply State.setDevId_keeps
    | with_reducible apply State.bindWrite_keeps
    | with_reducible apply State.setAllot_keeps
    | with_reducible apply State.updCtrl_keeps
    | with_reducible apply State.harrowCtrl_keeps
    | with_reducible apply State.quotaSet_keeps
    | with_reducible apply State.ringBell_keeps
    | with_reducible apply State.keyCmd_keeps
    | with_reducible apply State.servWrite_keeps
    | with_reducible apply State.shareWrite_keeps
    | with_reducible apply State.plainWrite_keeps
    | with_reducible apply State.forceWrite_keeps
    | with_reducible apply State.regionCtl_keeps
    | with_reducible apply State.setAlign_keeps
    | with_reducible apply State.clkOut_keeps
    | with_reducible apply State.almanac_keeps
    | with_reducible apply State.dbgCtrl_keeps
    | with_reducible apply State.selectEntry_keeps
    | with_reducible apply State.writePortCtrl_keeps
    | with_reducible apply State.planCap_keeps
    | with_reducible apply State.secCtrl_keeps
    | with_reducible apply ite_keeps
    | with_reducible refine keeps_snd (by assumption) ?_
    | with_reducible refine keeps_snd2 (by assumption) ?_
    | with_reducible assumption
    | split
    | dsimp only
    | with_reducible apply keeps_mk

theorem State.effect_keeps {s0 s : State} (hk : Keeps s0 s) (u : Nat) (a : Nat) (v : Word32) :
    Keeps s0 (State.effect s u a v) := by
  unfold State.effect
  try dsimp only
  repeat' first
    | intro _
    | with_reducible exact hk
    | with_reducible apply State.lowWrite_keeps
    | with_reducible apply State.ownEffect_keeps
    | with_reducible apply State.regWrite_keeps
    | with_reducible apply State.highWrite_keeps
    | with_reducible apply ite_keeps
    | with_reducible refine keeps_snd (by assumption) ?_
    | with_reducible refine keeps_snd2 (by assumption) ?_
    | with_reducible assumption
    | split
    | dsimp only
    | with_reducible apply keeps_mk

theorem State.busWrite_keeps {s0 s : State} (hk : Keeps s0 s) (u : Nat) (a : Nat) (v : Word32) :
    Keeps s0 (State.busWrite s u a v) := by
  unfold State.busWrite
  try dsimp only
  repeat' first
    | intro _
    | with_reducible exact hk
    | with_reducible apply State.effect_keeps
    | with_reducible apply State.badWrite_keeps
    | with_reducible apply State.gateWrite_keeps
    | with_reducible apply ite_keeps
    | with_reducible refine keeps_snd (by assumption) ?_
    | with_reducible refine keeps_snd2 (by assumption) ?_
    | with_reducible assumption
    | split
    | dsimp only

end Sys2Proof.Machine
end

