-- ==== Sys2Proof/Laws/KeepsExec.lean ====
section
/-! SUPPORT. What every command's meaning keeps (`Keeps`): one lemma for each. -/

namespace Sys2Proof.Machine

set_option linter.unreachableTactic false
set_option linter.unusedTactic false

/-- What `Keeps` says of a step's outcome. -/
def OutKeeps (s : State) : Out → Prop
  | .next t => Keeps s t
  | _ => True

theorem outKeeps_next {s t : State} (h : Keeps s t) : OutKeeps s (.next t) := h

theorem outKeeps_ite {s : State} {a b : Out} {c : Prop} [Decidable c] (ha : OutKeeps s a) (hb : OutKeeps s b) :
    OutKeeps s (if c then a else b) := by
  split
  · exact ha
  · exact hb

/-- R112: a tile instruction keeps what its effect keeps. -/
theorem tile_keeps {s0 s : State} (hk : Keeps s0 s) {i : StreamId} {w : InstrWord} {run : StreamId → InstrWord → State → State}
    (h : ∀ t, Keeps s0 t → Keeps s0 (run i w t)) : OutKeeps s0 (tile i w run s) :=
  ite_keeps (h s hk) hk

theorem execDataFlit_keeps {s0 s : State} (hk : Keeps s0 s) (p : Fin 8) (x : FlitIn) :
    OutKeeps s0 (execDataFlit p x s) := by
  unfold execDataFlit
  try dsimp only
  repeat' first
    | intro _
    | with_reducible exact hk
    | with_reducible apply outKeeps_next
    | with_reducible apply State.takeData_keeps
    | with_reducible apply recvFlit_keeps
    | with_reducible apply outKeeps_ite
    | with_reducible apply ite_keeps
    | with_reducible refine keeps_snd (by assumption) ?_
    | with_reducible refine keeps_snd2 (by assumption) ?_
    | with_reducible assumption
    | trivial
    | split
    | dsimp only
    | dsimp only [id]

theorem execIdleFlit_keeps {s0 s : State} (hk : Keeps s0 s) (p : Fin 8) (x : FlitIn) :
    OutKeeps s0 (execIdleFlit p x s) := by
  unfold execIdleFlit
  try dsimp only
  repeat' first
    | intro _
    | with_reducible exact hk
    | with_reducible apply outKeeps_next
    | with_reducible apply recvFlit_keeps
    | with_reducible apply outKeeps_ite
    | with_reducible apply ite_keeps
    | with_reducible refine keeps_snd (by assumption) ?_
    | with_reducible refine keeps_snd2 (by assumption) ?_
    | with_reducible assumption
    | trivial
    | split
    | dsimp only
    | dsimp only [id]

theorem execNak_keeps {s0 s : State} (hk : Keeps s0 s) (p : Fin 8) (x : FlitIn) :
    OutKeeps s0 (execNak p x s) := by
  unfold execNak
  try dsimp only
  repeat' first
    | intro _
    | with_reducible exact hk
    | with_reducible apply outKeeps_next
    | with_reducible apply State.takeNak_keeps
    | with_reducible apply recvFlit_keeps
    | with_reducible apply outKeeps_ite
    | with_reducible apply ite_keeps
    | with_reducible refine keeps_snd (by assumption) ?_
    | with_reducible refine keeps_snd2 (by assumption) ?_
    | with_reducible assumption
    | trivial
    | split
    | dsimp only
    | dsimp only [id]

theorem execKeyon_keeps {s0 s : State} (hk : Keeps s0 s) (p : Fin 8) (x : FlitIn) :
    OutKeeps s0 (execKeyon p x s) := by
  unfold execKeyon
  try dsimp only
  repeat' first
    | intro _
    | with_reducible exact hk
    | with_reducible apply outKeeps_next
    | with_reducible apply State.setPort_keeps
    | with_reducible apply recvFlit_keeps
    | with_reducible apply outKeeps_ite
    | with_reducible apply ite_keeps
    | with_reducible refine keeps_snd (by assumption) ?_
    | with_reducible refine keeps_snd2 (by assumption) ?_
    | with_reducible assumption
    | trivial
    | split
    | dsimp only
    | dsimp only [id]
    | with_reducible apply keeps_mk

theorem execNakResendTimeout_keeps {s0 s : State} (hk : Keeps s0 s) (p : Fin 8) :
    OutKeeps s0 (execNakResendTimeout p s) := by
  unfold execNakResendTimeout
  try dsimp only
  repeat' first
    | intro _
    | with_reducible exact hk
    | with_reducible apply outKeeps_next
    | with_reducible apply State.setPort_keeps
    | with_reducible apply outKeeps_ite
    | with_reducible apply ite_keeps
    | with_reducible refine keeps_snd (by assumption) ?_
    | with_reducible refine keeps_snd2 (by assumption) ?_
    | with_reducible assumption
    | trivial
    | split
    | dsimp only
    | dsimp only [id]
    | with_reducible apply keeps_mk

theorem execPacketRoute_keeps {s0 s : State} (hk : Keeps s0 s) (p : Fin 8) (ns : Nat) :
    OutKeeps s0 (execPacketRoute p ns s) := by
  unfold execPacketRoute
  try dsimp only
  repeat' first
    | intro _
    | with_reducible exact hk
    | with_reducible apply outKeeps_next
    | with_reducible apply State.routeHead_keeps
    | with_reducible apply outKeeps_ite
    | with_reducible apply ite_keeps
    | with_reducible refine keeps_snd (by assumption) ?_
    | with_reducible refine keeps_snd2 (by assumption) ?_
    | with_reducible assumption
    | trivial
    | split
    | dsimp only
    | dsimp only [id]

theorem execFlitSlotTransmit_keeps {s0 s : State} (hk : Keeps s0 s) (p : Fin 8) :
    OutKeeps s0 (execFlitSlotTransmit p s) := by
  unfold execFlitSlotTransmit
  try dsimp only
  repeat' first
    | intro _
    | with_reducible exact hk
    | with_reducible apply outKeeps_next
    | with_reducible apply State.setPort_keeps
    | with_reducible apply State.sendFresh_keeps
    | with_reducible apply State.sendKeyon_keeps
    | with_reducible apply State.emit_keeps
    | with_reducible apply State.resendFlit_keeps
    | with_reducible apply outKeeps_ite
    | with_reducible apply ite_keeps
    | with_reducible refine keeps_snd (by assumption) ?_
    | with_reducible refine keeps_snd2 (by assumption) ?_
    | with_reducible assumption
    | trivial
    | split
    | dsimp only
    | dsimp only [id]
    | with_reducible apply keeps_mk

theorem execDetectSignal_keeps {s0 s : State} (hk : Keeps s0 s) (p : Fin 8) :
    OutKeeps s0 (execDetectSignal p s) := by
  unfold execDetectSignal
  try dsimp only
  repeat' first
    | intro _
    | with_reducible exact hk
    | with_reducible apply outKeeps_next
    | with_reducible apply State.goPhase_keeps
    | with_reducible apply outKeeps_ite
    | with_reducible apply ite_keeps
    | with_reducible refine keeps_snd (by assumption) ?_
    | with_reducible refine keeps_snd2 (by assumption) ?_
    | with_reducible assumption
    | trivial
    | split
    | dsimp only
    | dsimp only [id]

theorem execTrainComplete_keeps {s0 s : State} (hk : Keeps s0 s) (p : Fin 8) :
    OutKeeps s0 (execTrainComplete p s) := by
  unfold execTrainComplete
  try dsimp only
  repeat' first
    | intro _
    | with_reducible exact hk
    | with_reducible apply outKeeps_next
    | with_reducible apply State.goPhase_keeps
    | with_reducible apply outKeeps_ite
    | with_reducible apply ite_keeps
    | with_reducible refine keeps_snd (by assumption) ?_
    | with_reducible refine keeps_snd2 (by assumption) ?_
    | with_reducible assumption
    | trivial
    | split
    | dsimp only
    | dsimp only [id]

theorem execAlignComplete_keeps {s0 s : State} (hk : Keeps s0 s) (p : Fin 8) (pass inv : BitVec 16) (rev : Bool)
    (delay : BitVec 16) : OutKeeps s0 (execAlignComplete p pass inv rev delay s) := by
  unfold execAlignComplete
  refine outKeeps_ite hk ?_
  have h := State.wf_keeps (State.wf_keeps hk (R.MBL_LANES_PASS p) pass.toNat) (R.MBL_LANES_INV p) inv.toNat
  obtain ⟨t, ht⟩ : ∃ t, t = (s.wf (R.MBL_LANES_PASS p) pass.toNat).wf (R.MBL_LANES_INV p) inv.toNat := ⟨_, rfl⟩
  rw [← ht] at h ⊢
  dsimp only
  obtain ⟨x, hx⟩ : ∃ x, x = chooseWidth (t.rf (R.MBL_CTRL_MAXW p)) pass.toNat := ⟨_, rfl⟩
  rw [← hx]
  cases x with
  | none => exact outKeeps_next h
  | some x =>
    exact outKeeps_next (State.enterIdent_keeps
      (State.wf_keeps (State.wf_keeps (State.wf_keeps (State.wf_keeps h _ _) _ _) _ _) _ _) _)

theorem execPortStateTimeout_keeps {s0 s : State} (hk : Keeps s0 s) (p : Fin 8) :
    OutKeeps s0 (execPortStateTimeout p s) := by
  unfold execPortStateTimeout
  try dsimp only
  repeat' first
    | intro _
    | with_reducible exact hk
    | with_reducible apply outKeeps_next
    | with_reducible apply State.portFail_keeps
    | with_reducible apply outKeeps_ite
    | with_reducible apply ite_keeps
    | with_reducible refine keeps_snd (by assumption) ?_
    | with_reducible refine keeps_snd2 (by assumption) ?_
    | with_reducible assumption
    | trivial
    | split
    | dsimp only
    | dsimp only [id]

theorem execLaneSignalLoss_keeps {s0 s : State} (hk : Keeps s0 s) (p : Fin 8) :
    OutKeeps s0 (execLaneSignalLoss p s) := by
  unfold execLaneSignalLoss
  try dsimp only
  repeat' first
    | intro _
    | with_reducible exact hk
    | with_reducible apply outKeeps_next
    | with_reducible apply State.enterRetrain_keeps
    | with_reducible apply outKeeps_ite
    | with_reducible apply ite_keeps
    | with_reducible refine keeps_snd (by assumption) ?_
    | with_reducible refine keeps_snd2 (by assumption) ?_
    | with_reducible assumption
    | trivial
    | split
    | dsimp only
    | dsimp only [id]

theorem execIdent_keeps {s0 s : State} (hk : Keeps s0 s) (p : Fin 8) (kex1 : List Byte) : OutKeeps s0 (execIdent p
    kex1 s) := by
  unfold execIdent
  refine outKeeps_ite hk ?_
  split
  · exact hk
  · rename_i x t h
    have h1 := State.takeCtl_keeps hk _ _ h
    have h2 := fun a b c d e f => State.wf_keeps (State.wf_keeps (State.wf_keeps h1 a b) c d) e f
    refine outKeeps_ite (State.portFail_keeps (h2 ..) _ _) (outKeeps_next ?_)
    refine ite_keeps (State.kexSend_keeps ?_ _ _ _) ?_ <;> exact State.setPort_keeps (State.goPhase_keeps (State.wf_keeps
      (State.setPort_keeps (h2 ..) _ _) _ _) _ _) _ _

theorem execKexMessage_keeps {s0 s : State} (hk : Keeps s0 s) (p : Fin 8) (ok : Bool)
    (root key reply : List Byte) : OutKeeps s0 (execKexMessage p ok root key reply s) := by
  unfold execKexMessage
  refine outKeeps_ite hk ?_
  split
  · exact hk
  · rename_i x t h
    have h1 := State.takeCtl_keeps hk _ _ h
    refine outKeeps_ite (State.portFail_keeps h1 _ _) (outKeeps_ite (State.setPort_keeps h1 _ _)
      (outKeeps_ite (State.portFail_keeps h1 _ _) (outKeeps_next ?_)))
    refine ite_keeps (State.kexDone_keeps ?_ _) ?_ <;>
      exact ite_keeps (State.kexSend_keeps (State.setPort_keeps h1 _ _) _ _ _) (State.setPort_keeps h1 _ _)

theorem execKeyRatchet_keeps {s0 s : State} (hk : Keeps s0 s) (p : Fin 8) (tx : Bool) :
    OutKeeps s0 (execKeyRatchet p tx s) := by
  unfold execKeyRatchet
  try dsimp only
  repeat' first
    | intro _
    | with_reducible exact hk
    | with_reducible apply outKeeps_next
    | with_reducible apply State.setPort_keeps
    | with_reducible apply outKeeps_ite
    | with_reducible apply ite_keeps
    | with_reducible refine keeps_snd (by assumption) ?_
    | with_reducible refine keeps_snd2 (by assumption) ?_
    | with_reducible assumption
    | trivial
    | split
    | dsimp only
    | dsimp only [id]
    | with_reducible apply keeps_mk

theorem execHbSend_keeps {s0 s : State} (hk : Keeps s0 s) (p : Fin 8) :
    OutKeeps s0 (execHbSend p s) := by
  unfold execHbSend
  try dsimp only
  repeat' first
    | intro _
    | with_reducible exact hk
    | with_reducible apply outKeeps_next
    | with_reducible apply State.setPort_keeps
    | with_reducible apply State.linkSend_keeps
    | with_reducible apply outKeeps_ite
    | with_reducible apply ite_keeps
    | with_reducible refine keeps_snd (by assumption) ?_
    | with_reducible refine keeps_snd2 (by assumption) ?_
    | with_reducible assumption
    | trivial
    | split
    | dsimp only
    | dsimp only [id]
    | with_reducible apply keeps_mk

theorem execHbReceive_keeps {s0 s : State} (hk : Keeps s0 s) (p : Fin 8) : OutKeeps s0 (execHbReceive p s) := by
  unfold execHbReceive
  split
  · exact hk
  · rename_i h
    exact State.wf_keeps (State.wf_keeps (State.takeCtl_keeps hk _ _ h) _ _) _ _

theorem execHeartbeatLoss_keeps {s0 s : State} (hk : Keeps s0 s) (p : Fin 8) :
    OutKeeps s0 (execHeartbeatLoss p s) := by
  unfold execHeartbeatLoss
  try dsimp only
  repeat' first
    | intro _
    | with_reducible exact hk
    | with_reducible apply outKeeps_next
    | with_reducible apply State.wf_keeps
    | with_reducible apply State.raiseSrc_keeps
    | with_reducible apply outKeeps_ite
    | with_reducible apply ite_keeps
    | with_reducible refine keeps_snd (by assumption) ?_
    | with_reducible refine keeps_snd2 (by assumption) ?_
    | with_reducible assumption
    | trivial
    | split
    | dsimp only
    | dsimp only [id]

theorem execWeightBankFilled_keeps {s0 s : State} (hk : Keeps s0 s) (f : Fin 4) (n : Fin 26) (lost : List Nat) :
    OutKeeps s0 (execWeightBankFilled f n lost s) := by
  unfold execWeightBankFilled
  try dsimp only
  repeat' first
    | intro _
    | with_reducible exact hk
    | with_reducible apply outKeeps_next
    | with_reducible apply State.operandLost_keeps
    | with_reducible apply State.setFur_keeps
    | with_reducible apply outKeeps_ite
    | with_reducible apply ite_keeps
    | with_reducible refine keeps_snd (by assumption) ?_
    | with_reducible refine keeps_snd2 (by assumption) ?_
    | with_reducible assumption
    | trivial
    | split
    | dsimp only
    | dsimp only [id]
    | with_reducible apply keeps_mk

theorem execArrayPassEnter_keeps {s0 s : State} (hk : Keeps s0 s) (f : Fin 4) (n : Fin 26) (lost : List Nat) :
    OutKeeps s0 (execArrayPassEnter f n lost s) := by
  unfold execArrayPassEnter
  try dsimp only
  repeat' first
    | intro _
    | with_reducible exact hk
    | with_reducible apply outKeeps_next
    | with_reducible apply State.operandLost_keeps
    | with_reducible apply State.setFur_keeps
    | with_reducible apply outKeeps_ite
    | with_reducible apply ite_keeps
    | with_reducible refine keeps_snd (by assumption) ?_
    | with_reducible refine keeps_snd2 (by assumption) ?_
    | with_reducible assumption
    | trivial
    | split
    | dsimp only
    | dsimp only [id]
    | with_reducible apply keeps_mk

theorem execDrainRetire_keeps {s0 s : State} (hk : Keeps s0 s) (f : Fin 4) (n : Fin 26) :
    OutKeeps s0 (execDrainRetire f n s) := by
  unfold execDrainRetire
  try dsimp only
  repeat' first
    | intro _
    | with_reducible exact hk
    | with_reducible apply outKeeps_next
    | with_reducible apply State.retireDrain_keeps
    | with_reducible apply outKeeps_ite
    | with_reducible apply ite_keeps
    | with_reducible refine keeps_snd (by assumption) ?_
    | with_reducible refine keeps_snd2 (by assumption) ?_
    | with_reducible assumption
    | trivial
    | split
    | dsimp only
    | dsimp only [id]
    | with_reducible apply keeps_mk

theorem execVopRetire_keeps {s0 s : State} (hk : Keeps s0 s) (f : Fin 4) (n : Fin 26) (unit : Fin 8) :
    OutKeeps s0 (execVopRetire f n unit s) := by
  unfold execVopRetire
  try dsimp only
  repeat' first
    | intro _
    | with_reducible exact hk
    | with_reducible apply outKeeps_next
    | with_reducible apply State.setFur_keeps
    | with_reducible apply outKeeps_ite
    | with_reducible apply ite_keeps
    | with_reducible refine keeps_snd (by assumption) ?_
    | with_reducible refine keeps_snd2 (by assumption) ?_
    | with_reducible assumption
    | trivial
    | split
    | dsimp only
    | dsimp only [id]
    | with_reducible apply keeps_mk

theorem execGlnRetire_keeps {s0 s : State} (hk : Keeps s0 s) (f : Fin 4) (n : Fin 26) :
    OutKeeps s0 (execGlnRetire f n s) := by
  unfold execGlnRetire
  try dsimp only
  repeat' first
    | intro _
    | with_reducible exact hk
    | with_reducible apply outKeeps_next
    | with_reducible apply State.setFur_keeps
    | with_reducible apply outKeeps_ite
    | with_reducible apply ite_keeps
    | with_reducible refine keeps_snd (by assumption) ?_
    | with_reducible refine keeps_snd2 (by assumption) ?_
    | with_reducible assumption
    | trivial
    | split
    | dsimp only
    | dsimp only [id]
    | with_reducible apply keeps_mk

theorem execDmaHandoffAccept_keeps {s0 s : State} (hk : Keeps s0 s) (f : Fin 4) :
    OutKeeps s0 (execDmaHandoffAccept f s) := by
  unfold execDmaHandoffAccept
  try dsimp only
  repeat' first
    | intro _
    | with_reducible exact hk
    | with_reducible apply outKeeps_next
    | with_reducible apply State.feedDma_keeps
    | with_reducible apply State.setDma_keeps
    | with_reducible apply outKeeps_ite
    | with_reducible apply ite_keeps
    | with_reducible refine keeps_snd (by assumption) ?_
    | with_reducible refine keeps_snd2 (by assumption) ?_
    | with_reducible assumption
    | trivial
    | split
    | dsimp only
    | dsimp only [id]
    | with_reducible apply keeps_mk

theorem execDmaTransferDone_keeps {s0 s : State} (hk : Keeps s0 s) (f : Fin 4) (i : Nat) (lost : List Nat) :
    OutKeeps s0 (execDmaTransferDone f i lost s) := by
  unfold execDmaTransferDone
  try dsimp only
  repeat' first
    | intro _
    | with_reducible exact hk
    | with_reducible apply outKeeps_next
    | with_reducible apply State.stepProgress_keeps
    | with_reducible apply State.moveRow_keeps
    | with_reducible apply State.sourceLost_keeps
    | with_reducible apply State.signal_keeps
    | with_reducible apply State.feedDma_keeps
    | with_reducible apply State.setDma_keeps
    | with_reducible refine foldl_keeps ?_ ?_
    | with_reducible apply outKeeps_ite
    | with_reducible apply ite_keeps
    | with_reducible refine keeps_snd (by assumption) ?_
    | with_reducible refine keeps_snd2 (by assumption) ?_
    | with_reducible assumption
    | trivial
    | split
    | dsimp only
    | dsimp only [id]
    | with_reducible apply keeps_mk

theorem execCollectiveEnd_keeps {s0 s : State} (hk : Keeps s0 s) (f : Fin 4) (c : Fin 64) (opid : BitVec 32) :
    OutKeeps s0 (execCollectiveEnd f c opid s) := by
  unfold execCollectiveEnd
  try dsimp only
  repeat' first
    | intro _
    | with_reducible exact hk
    | with_reducible apply outKeeps_next
    | with_reducible apply State.endOp_keeps
    | with_reducible apply State.nextWaiting_keeps
    | with_reducible apply outKeeps_ite
    | with_reducible apply ite_keeps
    | with_reducible refine keeps_snd (by assumption) ?_
    | with_reducible refine keeps_snd2 (by assumption) ?_
    | with_reducible assumption
    | trivial
    | split
    | dsimp only
    | dsimp only [id]
    | with_reducible apply keeps_mk

theorem execCollectiveTimeout_keeps {s0 s : State} (hk : Keeps s0 s) (f : Fin 4) (c : Fin 64) (opid : BitVec 32) :
    OutKeeps s0 (execCollectiveTimeout f c opid s) := by
  unfold execCollectiveTimeout
  try dsimp only
  repeat' first
    | intro _
    | with_reducible exact hk
    | with_reducible apply outKeeps_next
    | with_reducible apply State.endOp_keeps
    | with_reducible apply State.nextWaiting_keeps
    | with_reducible apply outKeeps_ite
    | with_reducible apply ite_keeps
    | with_reducible refine keeps_snd (by assumption) ?_
    | with_reducible refine keeps_snd2 (by assumption) ?_
    | with_reducible assumption
    | trivial
    | split
    | dsimp only
    | dsimp only [id]
    | with_reducible apply keeps_mk

theorem execNextPrefetch_keeps {s0 s : State} (hk : Keeps s0 s) (f : Fin 4) (c : Fin 64) (opid : BitVec 32) (host :
    List Byte) :
    OutKeeps s0 (execNextPrefetch f c opid host s) := by
  unfold execNextPrefetch
  try dsimp only
  repeat' first
    | intro _
    | with_reducible exact hk
    | with_reducible apply outKeeps_next
    | with_reducible apply State.setOp_keeps
    | with_reducible apply State.acceptCol_keeps
    | with_reducible apply State.nextWaiting_keeps
    | with_reducible apply outKeeps_ite
    | with_reducible apply ite_keeps
    | with_reducible refine keeps_snd (by assumption) ?_
    | with_reducible refine keeps_snd2 (by assumption) ?_
    | with_reducible assumption
    | trivial
    | split
    | dsimp only
    | dsimp only [id]
    | with_reducible apply keeps_mk

theorem execCollPacket_keeps {s0 s : State} (hk : Keeps s0 s) (p : Fin 12) (vc : Fin 2) :
    OutKeeps s0 (execCollPacket p vc s) := by
  unfold execCollPacket
  try dsimp only
  repeat' first
    | intro _
    | with_reducible exact hk
    | with_reducible apply outKeeps_next
    | with_reducible apply State.takeData'_keeps
    | with_reducible apply outKeeps_ite
    | with_reducible apply ite_keeps
    | with_reducible refine keeps_snd (by assumption) ?_
    | with_reducible refine keeps_snd2 (by assumption) ?_
    | with_reducible assumption
    | trivial
    | split
    | dsimp only
    | dsimp only [id]

theorem execSowPacket_keeps {s0 s : State} (hk : Keeps s0 s) (p : Fin 12) (vc : Fin 2) :
    OutKeeps s0 (execSowPacket p vc s) := by
  unfold execSowPacket
  try dsimp only
  repeat' first
    | intro _
    | with_reducible exact hk
    | with_reducible apply outKeeps_next
    | with_reducible apply State.takeData'_keeps
    | with_reducible apply outKeeps_ite
    | with_reducible apply ite_keeps
    | with_reducible refine keeps_snd (by assumption) ?_
    | with_reducible refine keeps_snd2 (by assumption) ?_
    | with_reducible assumption
    | trivial
    | split
    | dsimp only
    | dsimp only [id]

theorem execAbortSlot_keeps {s0 s : State} (hk : Keeps s0 s) (p : Fin 8) (ns : Nat) :
    OutKeeps s0 (execAbortSlot p ns s) := by
  unfold execAbortSlot
  try dsimp only
  repeat' first
    | intro _
    | with_reducible exact hk
    | with_reducible apply outKeeps_next
    | with_reducible apply State.setPort_keeps
    | with_reducible apply State.countAbort_keeps
    | with_reducible apply State.truncHead_keeps
    | with_reducible apply State.sowCut_keeps
    | with_reducible apply outKeeps_ite
    | with_reducible apply ite_keeps
    | with_reducible refine keeps_snd (by assumption) ?_
    | with_reducible refine keeps_snd2 (by assumption) ?_
    | with_reducible assumption
    | trivial
    | split
    | dsimp only
    | dsimp only [id]
    | with_reducible apply keeps_mk

theorem execWritePacket_keeps {s0 s : State} (hk : Keeps s0 s) (p : Fin 12) (vc : Fin 2) :
    OutKeeps s0 (execWritePacket p vc s) := by
  unfold execWritePacket
  try dsimp only
  repeat' first
    | intro _
    | with_reducible exact hk
    | with_reducible apply outKeeps_next
    | with_reducible apply State.consume_keeps
    | with_reducible apply State.hbmWrite_keeps
    | with_reducible apply State.discardPkt_keeps
    | with_reducible apply outKeeps_ite
    | with_reducible apply ite_keeps
    | with_reducible refine keeps_snd (by assumption) ?_
    | with_reducible refine keeps_snd2 (by assumption) ?_
    | with_reducible assumption
    | trivial
    | split
    | dsimp only
    | dsimp only [id]
    | with_reducible apply keeps_mk

theorem execMirrorData_keeps {s0 s : State} (hk : Keeps s0 s) (p : Fin 12) (vc : Fin 2) :
    OutKeeps s0 (execMirrorData p vc s) := by
  unfold execMirrorData
  try dsimp only
  repeat' first
    | intro _
    | with_reducible exact hk
    | with_reducible apply outKeeps_next
    | with_reducible apply State.hbmWrite_keeps
    | with_reducible apply State.mirrorIn_keeps
    | with_reducible apply State.setRegion_keeps
    | with_reducible apply State.discardPkt_keeps
    | with_reducible apply outKeeps_ite
    | with_reducible apply ite_keeps
    | with_reducible refine keeps_snd (by assumption) ?_
    | with_reducible refine keeps_snd2 (by assumption) ?_
    | with_reducible assumption
    | trivial
    | split
    | dsimp only
    | dsimp only [id]
    | with_reducible apply keeps_mk

theorem execMirrorBegin_keeps {s0 s : State} (hk : Keeps s0 s) (p : Fin 12) (vc : Fin 2) :
    OutKeeps s0 (execMirrorBegin p vc s) := by
  unfold execMirrorBegin
  try dsimp only
  repeat' first
    | intro _
    | with_reducible exact hk
    | with_reducible apply outKeeps_next
    | with_reducible apply State.mirrorIn_keeps
    | with_reducible apply State.setRegion_keeps
    | with_reducible apply State.discardPkt_keeps
    | with_reducible apply State.flipDue_keeps
    | with_reducible apply outKeeps_ite
    | with_reducible apply ite_keeps
    | with_reducible refine keeps_snd (by assumption) ?_
    | with_reducible refine keeps_snd2 (by assumption) ?_
    | with_reducible assumption
    | trivial
    | split
    | dsimp only
    | dsimp only [id]
    | with_reducible apply keeps_mk

theorem execMirrorEnd_keeps {s0 s : State} (hk : Keeps s0 s) (p : Fin 12) (vc : Fin 2) :
    OutKeeps s0 (execMirrorEnd p vc s) := by
  unfold execMirrorEnd
  try dsimp only
  repeat' first
    | intro _
    | with_reducible exact hk
    | with_reducible apply outKeeps_next
    | with_reducible apply State.sendPkt_keeps
    | with_reducible apply State.mirrorIn_keeps
    | with_reducible apply State.setRegion_keeps
    | with_reducible apply State.discardPkt_keeps
    | with_reducible apply outKeeps_ite
    | with_reducible apply ite_keeps
    | with_reducible refine keeps_snd (by assumption) ?_
    | with_reducible refine keeps_snd2 (by assumption) ?_
    | with_reducible assumption
    | trivial
    | split
    | dsimp only
    | dsimp only [id]
    | with_reducible apply keeps_mk

theorem execMirrorAck_keeps {s0 s : State} (hk : Keeps s0 s) (p : Fin 12) (vc : Fin 2) :
    OutKeeps s0 (execMirrorAck p vc s) := by
  unfold execMirrorAck
  try dsimp only
  repeat' first
    | intro _
    | with_reducible exact hk
    | with_reducible apply outKeeps_next
    | with_reducible apply State.failMirror_keeps
    | with_reducible apply State.mirrorIn_keeps
    | with_reducible apply State.setRegion_keeps
    | with_reducible apply State.discardPkt_keeps
    | with_reducible apply outKeeps_ite
    | with_reducible apply ite_keeps
    | with_reducible refine keeps_snd (by assumption) ?_
    | with_reducible refine keeps_snd2 (by assumption) ?_
    | with_reducible assumption
    | trivial
    | split
    | dsimp only
    | dsimp only [id]
    | with_reducible apply keeps_mk

theorem execMirrorTimeout_keeps {s0 s : State} (hk : Keeps s0 s) (i : Fin 4096) :
    OutKeeps s0 (execMirrorTimeout i s) := by
  unfold execMirrorTimeout
  try dsimp only
  repeat' first
    | intro _
    | with_reducible exact hk
    | with_reducible apply outKeeps_next
    | with_reducible apply State.failMirror_keeps
    | with_reducible apply outKeeps_ite
    | with_reducible apply ite_keeps
    | with_reducible refine keeps_snd (by assumption) ?_
    | with_reducible refine keeps_snd2 (by assumption) ?_
    | with_reducible assumption
    | trivial
    | split
    | dsimp only
    | dsimp only [id]

theorem execStepReady_keeps {s0 s : State} (hk : Keeps s0 s) (c : Fin 64) (rings : Rings) :
    OutKeeps s0 (execStepReady c rings s) := by
  unfold execStepReady
  try dsimp only
  repeat' first
    | intro _
    | with_reducible exact hk
    | with_reducible apply outKeeps_next
    | with_reducible apply State.ctxEvent_keeps
    | with_reducible apply State.mirrorEnds_keeps
    | with_reducible apply State.subtreeReady_keeps
    | with_reducible apply State.setCtx_keeps
    | with_reducible apply State.reportDue_keeps
    | with_reducible apply State.wf_keeps
    | with_reducible apply outKeeps_ite
    | with_reducible apply ite_keeps
    | with_reducible refine keeps_snd (by assumption) ?_
    | with_reducible refine keeps_snd2 (by assumption) ?_
    | with_reducible assumption
    | trivial
    | split
    | dsimp only
    | dsimp only [id]
    | with_reducible apply keeps_mk

theorem execTokenReady_keeps {s0 s : State} (hk : Keeps s0 s) (p : Fin 12) (vc : Fin 2) :
    OutKeeps s0 (execTokenReady p vc s) := by
  unfold execTokenReady
  try dsimp only
  repeat' first
    | intro _
    | with_reducible exact hk
    | with_reducible apply outKeeps_next
    | with_reducible apply State.takeToken_keeps
    | with_reducible apply State.subtreeReady_keeps
    | with_reducible apply State.setCtx_keeps
    | with_reducible apply State.markChild_keeps
    | with_reducible apply outKeeps_ite
    | with_reducible apply ite_keeps
    | with_reducible refine keeps_snd (by assumption) ?_
    | with_reducible refine keeps_snd2 (by assumption) ?_
    | with_reducible assumption
    | trivial
    | split
    | dsimp only
    | dsimp only [id]
    | with_reducible apply keeps_mk

theorem execTokenCommit_keeps {s0 s : State} (hk : Keeps s0 s) (p : Fin 12) (vc : Fin 2) :
    OutKeeps s0 (execTokenCommit p vc s) := by
  unfold execTokenCommit
  try dsimp only
  repeat' first
    | intro _
    | with_reducible exact hk
    | with_reducible apply outKeeps_next
    | with_reducible apply State.commitStep_keeps
    | with_reducible apply State.takeToken_keeps
    | with_reducible apply outKeeps_ite
    | with_reducible apply ite_keeps
    | with_reducible refine keeps_snd (by assumption) ?_
    | with_reducible refine keeps_snd2 (by assumption) ?_
    | with_reducible assumption
    | trivial
    | split
    | dsimp only
    | dsimp only [id]

theorem execTokenAbort_keeps {s0 s : State} (hk : Keeps s0 s) (p : Fin 12) (vc : Fin 2) (rings : Rings) :
    OutKeeps s0 (execTokenAbort p vc rings s) := by
  unfold execTokenAbort
  try dsimp only
  repeat' first
    | intro _
    | with_reducible exact hk
    | with_reducible apply outKeeps_next
    | with_reducible apply State.abortStep_keeps
    | with_reducible apply State.takeToken_keeps
    | with_reducible apply outKeeps_ite
    | with_reducible apply ite_keeps
    | with_reducible refine keeps_snd (by assumption) ?_
    | with_reducible refine keeps_snd2 (by assumption) ?_
    | with_reducible assumption
    | trivial
    | split
    | dsimp only
    | dsimp only [id]

theorem execTokenMirrorCommit_keeps {s0 s : State} (hk : Keeps s0 s) (p : Fin 12) (vc : Fin 2) :
    OutKeeps s0 (execTokenMirrorCommit p vc s) := by
  unfold execTokenMirrorCommit
  try dsimp only
  repeat' first
    | intro _
    | with_reducible exact hk
    | with_reducible apply outKeeps_next
    | with_reducible apply State.takeToken_keeps
    | with_reducible apply State.setRegion_keeps
    | with_reducible apply State.raiseSrc_keeps
    | with_reducible refine foldl_keeps ?_ ?_
    | with_reducible apply outKeeps_ite
    | with_reducible apply ite_keeps
    | with_reducible refine keeps_snd (by assumption) ?_
    | with_reducible refine keeps_snd2 (by assumption) ?_
    | with_reducible assumption
    | trivial
    | split
    | dsimp only
    | dsimp only [id]

theorem execTokenMirrorRollback_keeps {s0 s : State} (hk : Keeps s0 s) (p : Fin 12) (vc : Fin 2) :
    OutKeeps s0 (execTokenMirrorRollback p vc s) := by
  unfold execTokenMirrorRollback
  try dsimp only
  repeat' first
    | intro _
    | with_reducible exact hk
    | with_reducible apply outKeeps_next
    | with_reducible apply State.takeToken_keeps
    | with_reducible apply State.setRegion_keeps
    | with_reducible refine foldl_keeps ?_ ?_
    | with_reducible apply outKeeps_ite
    | with_reducible apply ite_keeps
    | with_reducible refine keeps_snd (by assumption) ?_
    | with_reducible refine keeps_snd2 (by assumption) ?_
    | with_reducible assumption
    | trivial
    | split
    | dsimp only
    | dsimp only [id]
    | with_reducible apply keeps_mk

theorem execCommandStart_keeps {s0 s : State} (hk : Keeps s0 s) (q : Fin 8192) (ring : Option CmdWord) :
    OutKeeps s0 (execCommandStart q ring s) := by
  unfold execCommandStart
  have hk' : Keeps s0 { s with qmLast := q } := keeps_rec hk rfl
  refine outKeeps_ite hk (outKeeps_ite (State.passDead_keeps _ _ hk') ?_)
  have h := State.readCmd_keeps hk' q ring
  dsimp only
  split
  · exact State.queueError_keeps h _ _
  · split
    · exact State.stopCmd_keeps h _ _ _ _
    · exact State.setQueue_keeps h _ _

theorem execCompletionWrite_keeps {s0 s : State} (hk : Keeps s0 s) (q : Fin 8192) (ok : Bool) :
    OutKeeps s0 (execCompletionWrite q ok s) := by
  unfold execCompletionWrite
  try dsimp only
  repeat' first
    | intro _
    | with_reducible exact hk
    | with_reducible apply outKeeps_next
    | with_reducible apply State.writeCpl_keeps
    | with_reducible apply outKeeps_ite
    | with_reducible apply ite_keeps
    | with_reducible refine keeps_snd (by assumption) ?_
    | with_reducible refine keeps_snd2 (by assumption) ?_
    | with_reducible assumption
    | trivial
    | split
    | dsimp only
    | dsimp only [id]

theorem execNop_keeps {s0 s : State} (hk : Keeps s0 s) (q : Fin 8192) :
    OutKeeps s0 (execNop q s) := by
  unfold execNop
  try dsimp only
  repeat' first
    | intro _
    | with_reducible exact hk
    | with_reducible apply outKeeps_next
    | with_reducible apply runCmd_keeps
    | with_reducible apply thenOk_keeps
    | with_reducible apply begun_ok
    | with_reducible apply begun_stop
    | with_reducible apply argsThen_keeps
    | with_reducible apply begun_stop
    | with_reducible apply begun_wait
    | with_reducible apply begun_ok
    | with_reducible apply begun_run
    | with_reducible apply begun_ite
    | with_reducible apply stepArgs_keeps
    | with_reducible apply launchBody_keeps
    | with_reducible apply State.servingOnly_keeps
    | with_reducible apply State.startCopy_keeps
    | with_reducible apply hk
    | with_reducible apply outKeeps_ite
    | with_reducible apply ite_keeps
    | with_reducible refine keeps_snd (by assumption) ?_
    | with_reducible refine keeps_snd2 (by assumption) ?_
    | with_reducible assumption
    | trivial
    | split
    | dsimp only
    | dsimp only [id]

theorem execCopy_keeps {s0 s : State} (hk : Keeps s0 s) (q : Fin 8192) :
    OutKeeps s0 (execCopy q s) := by
  unfold execCopy
  try dsimp only
  repeat' first
    | intro _
    | with_reducible exact hk
    | with_reducible apply outKeeps_next
    | with_reducible apply runCmd_keeps
    | with_reducible apply begun_ok
    | with_reducible apply begun_stop
    | with_reducible apply argsThen_keeps
    | with_reducible apply begun_stop
    | with_reducible apply begun_wait
    | with_reducible apply begun_ok
    | with_reducible apply begun_run
    | with_reducible apply begun_ite
    | with_reducible apply stepArgs_keeps
    | with_reducible apply launchBody_keeps
    | with_reducible apply State.servingOnly_keeps
    | with_reducible apply State.startCopy_keeps
    | with_reducible apply hk
    | with_reducible apply outKeeps_ite
    | with_reducible apply ite_keeps
    | with_reducible refine keeps_snd (by assumption) ?_
    | with_reducible refine keeps_snd2 (by assumption) ?_
    | with_reducible assumption
    | trivial
    | split
    | dsimp only
    | dsimp only [id]

theorem execFill_keeps {s0 s : State} (hk : Keeps s0 s) (q : Fin 8192) :
    OutKeeps s0 (execFill q s) := by
  unfold execFill
  try dsimp only
  repeat' first
    | intro _
    | with_reducible exact hk
    | with_reducible apply outKeeps_next
    | with_reducible apply runCmd_keeps
    | with_reducible apply begun_ok
    | with_reducible apply begun_stop
    | with_reducible apply argsThen_keeps
    | with_reducible apply begun_stop
    | with_reducible apply begun_wait
    | with_reducible apply begun_ok
    | with_reducible apply begun_run
    | with_reducible apply begun_ite
    | with_reducible apply stepArgs_keeps
    | with_reducible apply launchBody_keeps
    | with_reducible apply State.servingOnly_keeps
    | with_reducible apply State.startCopy_keeps
    | with_reducible apply hk
    | with_reducible apply outKeeps_ite
    | with_reducible apply ite_keeps
    | with_reducible refine keeps_snd (by assumption) ?_
    | with_reducible refine keeps_snd2 (by assumption) ?_
    | with_reducible assumption
    | trivial
    | split
    | dsimp only
    | dsimp only [id]

theorem execCopyDone_keeps {s0 s : State} (hk : Keeps s0 s) (i : Fin 4) (host : List Byte) (ok : Bool) :
    OutKeeps s0 (execCopyDone i host ok s) := by
  unfold execCopyDone
  try dsimp only
  repeat' first
    | intro _
    | with_reducible exact hk
    | with_reducible apply outKeeps_next
    | with_reducible apply State.stepProgress_keeps
    | with_reducible apply State.finishCmd_keeps
    | with_reducible apply State.moveCopy_keeps
    | with_reducible apply outKeeps_ite
    | with_reducible apply ite_keeps
    | with_reducible refine keeps_snd (by assumption) ?_
    | with_reducible refine keeps_snd2 (by assumption) ?_
    | with_reducible assumption
    | trivial
    | split
    | dsimp only
    | dsimp only [id]
    | with_reducible apply keeps_mk

theorem execColl_keeps {s0 s : State} (hk : Keeps s0 s) (q : Fin 8192) (host : List Byte) :
    OutKeeps s0 (execColl q host s) := by
  unfold execColl
  try dsimp only
  repeat' first
    | intro _
    | with_reducible exact hk
    | with_reducible apply outKeeps_next
    | with_reducible apply State.handCol_keeps
    | with_reducible apply runCmd_keeps
    | with_reducible apply begun_ok
    | with_reducible apply begun_stop
    | with_reducible apply argsThen_keeps
    | with_reducible apply begun_stop
    | with_reducible apply begun_wait
    | with_reducible apply begun_ok
    | with_reducible apply begun_run
    | with_reducible apply begun_ite
    | with_reducible apply stepArgs_keeps
    | with_reducible apply launchBody_keeps
    | with_reducible apply State.servingOnly_keeps
    | with_reducible apply State.startCopy_keeps
    | with_reducible apply hk
    | with_reducible apply outKeeps_ite
    | with_reducible apply ite_keeps
    | with_reducible refine keeps_snd (by assumption) ?_
    | with_reducible refine keeps_snd2 (by assumption) ?_
    | with_reducible assumption
    | trivial
    | split
    | dsimp only
    | dsimp only [id]

theorem execCommit_keeps {s0 s : State} (hk : Keeps s0 s) (q : Fin 8192) :
    OutKeeps s0 (execCommit q s) := by
  unfold execCommit
  try dsimp only
  repeat' first
    | intro _
    | with_reducible exact hk
    | with_reducible apply outKeeps_next
    | with_reducible apply State.commitStep_keeps
    | with_reducible apply runCmd_keeps
    | with_reducible apply thenOk_keeps
    | with_reducible apply begun_ok
    | with_reducible apply begun_stop
    | with_reducible apply argsThen_keeps
    | with_reducible apply begun_stop
    | with_reducible apply begun_wait
    | with_reducible apply begun_ok
    | with_reducible apply begun_run
    | with_reducible apply begun_ite
    | with_reducible apply stepArgs_keeps
    | with_reducible apply launchBody_keeps
    | with_reducible apply State.servingOnly_keeps
    | with_reducible apply State.startCopy_keeps
    | with_reducible apply hk
    | with_reducible apply outKeeps_ite
    | with_reducible apply ite_keeps
    | with_reducible refine keeps_snd (by assumption) ?_
    | with_reducible refine keeps_snd2 (by assumption) ?_
    | with_reducible assumption
    | trivial
    | split
    | dsimp only
    | dsimp only [id]

theorem execAbort_keeps {s0 s : State} (hk : Keeps s0 s) (q : Fin 8192) (rings : Rings) :
    OutKeeps s0 (execAbort q rings s) := by
  unfold execAbort
  try dsimp only
  repeat' first
    | intro _
    | with_reducible exact hk
    | with_reducible apply outKeeps_next
    | with_reducible apply State.abortStep_keeps
    | with_reducible apply runCmd_keeps
    | with_reducible apply thenOk_keeps
    | with_reducible apply begun_ok
    | with_reducible apply begun_stop
    | with_reducible apply argsThen_keeps
    | with_reducible apply begun_stop
    | with_reducible apply begun_wait
    | with_reducible apply begun_ok
    | with_reducible apply begun_run
    | with_reducible apply begun_ite
    | with_reducible apply stepArgs_keeps
    | with_reducible apply launchBody_keeps
    | with_reducible apply State.servingOnly_keeps
    | with_reducible apply State.startCopy_keeps
    | with_reducible apply hk
    | with_reducible apply outKeeps_ite
    | with_reducible apply ite_keeps
    | with_reducible refine keeps_snd (by assumption) ?_
    | with_reducible refine keeps_snd2 (by assumption) ?_
    | with_reducible assumption
    | trivial
    | split
    | dsimp only
    | dsimp only [id]

theorem execRollback_keeps {s0 s : State} (hk : Keeps s0 s) (q : Fin 8192) :
    OutKeeps s0 (execRollback q s) := by
  unfold execRollback
  try dsimp only
  repeat' first
    | intro _
    | with_reducible exact hk
    | with_reducible apply outKeeps_next
    | with_reducible apply State.rollbackStep_keeps
    | with_reducible apply runCmd_keeps
    | with_reducible apply thenOk_keeps
    | with_reducible apply begun_ok
    | with_reducible apply begun_stop
    | with_reducible apply argsThen_keeps
    | with_reducible apply begun_stop
    | with_reducible apply begun_wait
    | with_reducible apply begun_ok
    | with_reducible apply begun_run
    | with_reducible apply begun_ite
    | with_reducible apply stepArgs_keeps
    | with_reducible apply launchBody_keeps
    | with_reducible apply State.servingOnly_keeps
    | with_reducible apply State.startCopy_keeps
    | with_reducible apply hk
    | with_reducible apply outKeeps_ite
    | with_reducible apply ite_keeps
    | with_reducible refine keeps_snd (by assumption) ?_
    | with_reducible refine keeps_snd2 (by assumption) ?_
    | with_reducible assumption
    | trivial
    | split
    | dsimp only
    | dsimp only [id]

theorem execAdopt_keeps {s0 s : State} (hk : Keeps s0 s) (q : Fin 8192) :
    OutKeeps s0 (execAdopt q s) := by
  unfold execAdopt
  try dsimp only
  repeat' first
    | intro _
    | with_reducible exact hk
    | with_reducible apply outKeeps_next
    | with_reducible apply State.adoptStep_keeps
    | with_reducible apply runCmd_keeps
    | with_reducible apply thenOk_keeps
    | with_reducible apply begun_ok
    | with_reducible apply begun_stop
    | with_reducible apply argsThen_keeps
    | with_reducible apply begun_stop
    | with_reducible apply begun_wait
    | with_reducible apply begun_ok
    | with_reducible apply begun_run
    | with_reducible apply begun_ite
    | with_reducible apply stepArgs_keeps
    | with_reducible apply launchBody_keeps
    | with_reducible apply State.servingOnly_keeps
    | with_reducible apply State.startCopy_keeps
    | with_reducible apply hk
    | with_reducible apply outKeeps_ite
    | with_reducible apply ite_keeps
    | with_reducible refine keeps_snd (by assumption) ?_
    | with_reducible refine keeps_snd2 (by assumption) ?_
    | with_reducible assumption
    | trivial
    | split
    | dsimp only
    | dsimp only [id]

theorem execLend_keeps {s0 s : State} (hk : Keeps s0 s) (q : Fin 8192) :
    OutKeeps s0 (execLend q s) := by
  unfold execLend
  try dsimp only
  repeat' first
    | intro _
    | with_reducible exact hk
    | with_reducible apply outKeeps_next
    | with_reducible apply State.loseField_keeps
    | with_reducible apply State.wf_keeps
    | with_reducible apply runCmd_keeps
    | with_reducible apply thenOk_keeps
    | with_reducible apply begun_ok
    | with_reducible apply begun_stop
    | with_reducible apply argsThen_keeps
    | with_reducible apply begun_stop
    | with_reducible apply begun_wait
    | with_reducible apply begun_ok
    | with_reducible apply begun_run
    | with_reducible apply begun_ite
    | with_reducible apply stepArgs_keeps
    | with_reducible apply launchBody_keeps
    | with_reducible apply State.servingOnly_keeps
    | with_reducible apply State.startCopy_keeps
    | with_reducible apply hk
    | with_reducible refine foldl_keeps ?_ ?_
    | with_reducible apply outKeeps_ite
    | with_reducible apply ite_keeps
    | with_reducible refine keeps_snd (by assumption) ?_
    | with_reducible refine keeps_snd2 (by assumption) ?_
    | with_reducible assumption
    | trivial
    | split
    | dsimp only
    | dsimp only [id]

theorem execBegin_keeps {s0 s : State} (hk : Keeps s0 s) (q : Fin 8192) (rings : Rings) : OutKeeps s0 (execBegin q
    rings s) := by
  unfold execBegin
  refine runCmd_keeps hk _ _ _ fun w seq => argsThen_keeps _ ?_
  refine begun_ite (begun_stop _ _) (begun_ite (begun_stop _ _) (begun_ite begun_wait (begun_ite ?_ (begun_ite ?_
    (begun_ite ?_ ?_)))))
  · exact begun_ok _ _ fun t h => State.beginStep_keeps h _ _ _
  · exact begun_ok _ _ fun t h => State.beginServing_keeps h _ _ _ _ _
  · exact begun_ok _ _ fun t h => State.beginServing_keeps h _ _ _ _ _
  · dsimp only
    split
    · exact begun_ok _ _ fun t h => State.beginServing_keeps h _ _ _ _ _
    · exact begun_run fun t h => State.finishCmd_keeps (State.writeShort_keeps h _ _ _ _) _ _ _ _

theorem execJoin_keeps {s0 s : State} (hk : Keeps s0 s) (q : Fin 8192) :
    OutKeeps s0 (execJoin q s) := by
  unfold execJoin
  try dsimp only
  repeat' first
    | intro _
    | with_reducible exact hk
    | with_reducible apply outKeeps_next
    | with_reducible apply runCmd_keeps
    | with_reducible apply begun_ok
    | with_reducible apply begun_stop
    | with_reducible apply argsThen_keeps
    | with_reducible apply begun_stop
    | with_reducible apply begun_wait
    | with_reducible apply begun_ok
    | with_reducible apply begun_run
    | with_reducible apply begun_ite
    | with_reducible apply stepArgs_keeps
    | with_reducible apply launchBody_keeps
    | with_reducible apply State.servingOnly_keeps
    | with_reducible apply State.startCopy_keeps
    | with_reducible apply hk
    | with_reducible apply outKeeps_ite
    | with_reducible apply ite_keeps
    | with_reducible refine keeps_snd (by assumption) ?_
    | with_reducible refine keeps_snd2 (by assumption) ?_
    | with_reducible assumption
    | trivial
    | split
    | dsimp only
    | dsimp only [id]

theorem execLeave_keeps {s0 s : State} (hk : Keeps s0 s) (q : Fin 8192) :
    OutKeeps s0 (execLeave q s) := by
  unfold execLeave
  try dsimp only
  repeat' first
    | intro _
    | with_reducible exact hk
    | with_reducible apply outKeeps_next
    | with_reducible apply State.leaveNow_keeps
    | with_reducible apply runCmd_keeps
    | with_reducible apply thenOk_keeps
    | with_reducible apply begun_ok
    | with_reducible apply begun_stop
    | with_reducible apply argsThen_keeps
    | with_reducible apply begun_stop
    | with_reducible apply begun_wait
    | with_reducible apply begun_ok
    | with_reducible apply begun_run
    | with_reducible apply begun_ite
    | with_reducible apply stepArgs_keeps
    | with_reducible apply launchBody_keeps
    | with_reducible apply State.servingOnly_keeps
    | with_reducible apply State.startCopy_keeps
    | with_reducible apply hk
    | with_reducible apply outKeeps_ite
    | with_reducible apply ite_keeps
    | with_reducible refine keeps_snd (by assumption) ?_
    | with_reducible refine keeps_snd2 (by assumption) ?_
    | with_reducible assumption
    | trivial
    | split
    | dsimp only
    | dsimp only [id]

theorem execSwapClose_keeps {s0 s : State} (hk : Keeps s0 s) (q : Fin 8192) : OutKeeps s0 (execSwapClose q s) := by
  unfold execSwapClose
  refine runCmd_keeps hk _ _ _ fun w seq => State.servingOnly_keeps _ _ (argsThen_keeps _ (begun_ite ?_ (begun_stop _ _)))
  exact begun_ok _ _ fun t h => State.enterSwap_keeps
    (State.setSrv_keeps (State.wf_keeps (State.setReg_keeps h _ _) _ _) _ _) _ _

theorem execSwapLayer_keeps {s0 s : State} (hk : Keeps s0 s) (q : Fin 8192) (host : List Byte) :
    OutKeeps s0 (execSwapLayer q host s) := by
  unfold execSwapLayer
  try dsimp only
  repeat' first
    | intro _
    | with_reducible exact hk
    | with_reducible apply outKeeps_next
    | with_reducible apply State.handCol_keeps
    | with_reducible apply State.setSrv_keeps
    | with_reducible apply runCmd_keeps
    | with_reducible apply begun_ok
    | with_reducible apply begun_stop
    | with_reducible apply argsThen_keeps
    | with_reducible apply begun_stop
    | with_reducible apply begun_wait
    | with_reducible apply begun_ok
    | with_reducible apply begun_run
    | with_reducible apply begun_ite
    | with_reducible apply stepArgs_keeps
    | with_reducible apply launchBody_keeps
    | with_reducible apply State.servingOnly_keeps
    | with_reducible apply State.startCopy_keeps
    | with_reducible apply hk
    | with_reducible apply outKeeps_ite
    | with_reducible apply ite_keeps
    | with_reducible refine keeps_snd (by assumption) ?_
    | with_reducible refine keeps_snd2 (by assumption) ?_
    | with_reducible assumption
    | trivial
    | split
    | dsimp only
    | dsimp only [id]
    | with_reducible apply keeps_mk

theorem execSwapOpen_keeps {s0 s : State} (hk : Keeps s0 s) (q : Fin 8192) :
    OutKeeps s0 (execSwapOpen q s) := by
  unfold execSwapOpen
  try dsimp only
  repeat' first
    | intro _
    | with_reducible exact hk
    | with_reducible apply outKeeps_next
    | with_reducible apply State.openSwap_keeps
    | with_reducible apply runCmd_keeps
    | with_reducible apply thenOk_keeps
    | with_reducible apply begun_ok
    | with_reducible apply begun_stop
    | with_reducible apply argsThen_keeps
    | with_reducible apply begun_stop
    | with_reducible apply begun_wait
    | with_reducible apply begun_ok
    | with_reducible apply begun_run
    | with_reducible apply begun_ite
    | with_reducible apply stepArgs_keeps
    | with_reducible apply launchBody_keeps
    | with_reducible apply State.servingOnly_keeps
    | with_reducible apply State.startCopy_keeps
    | with_reducible apply hk
    | with_reducible apply outKeeps_ite
    | with_reducible apply ite_keeps
    | with_reducible refine keeps_snd (by assumption) ?_
    | with_reducible refine keeps_snd2 (by assumption) ?_
    | with_reducible assumption
    | trivial
    | split
    | dsimp only
    | dsimp only [id]

theorem execLaunch_keeps {s0 s : State} (hk : Keeps s0 s) (q : Fin 8192) :
    OutKeeps s0 (execLaunch q s) := by
  unfold execLaunch
  try dsimp only
  repeat' first
    | intro _
    | with_reducible exact hk
    | with_reducible apply outKeeps_next
    | with_reducible apply runCmd_keeps
    | with_reducible apply begun_ok
    | with_reducible apply begun_stop
    | with_reducible apply argsThen_keeps
    | with_reducible apply begun_stop
    | with_reducible apply begun_wait
    | with_reducible apply begun_ok
    | with_reducible apply begun_run
    | with_reducible apply begun_ite
    | with_reducible apply stepArgs_keeps
    | with_reducible apply launchBody_keeps
    | with_reducible apply State.servingOnly_keeps
    | with_reducible apply State.startCopy_keeps
    | with_reducible apply hk
    | with_reducible apply outKeeps_ite
    | with_reducible apply ite_keeps
    | with_reducible refine keeps_snd (by assumption) ?_
    | with_reducible refine keeps_snd2 (by assumption) ?_
    | with_reducible assumption
    | trivial
    | split
    | dsimp only
    | dsimp only [id]

theorem execSeqrun_keeps {s0 s : State} (hk : Keeps s0 s) (q : Fin 8192) :
    OutKeeps s0 (execSeqrun q s) := by
  unfold execSeqrun
  try dsimp only
  repeat' first
    | intro _
    | with_reducible exact hk
    | with_reducible apply outKeeps_next
    | with_reducible apply runCmd_keeps
    | with_reducible apply begun_ok
    | with_reducible apply begun_stop
    | with_reducible apply argsThen_keeps
    | with_reducible apply begun_stop
    | with_reducible apply begun_wait
    | with_reducible apply begun_ok
    | with_reducible apply begun_run
    | with_reducible apply begun_ite
    | with_reducible apply stepArgs_keeps
    | with_reducible apply launchBody_keeps
    | with_reducible apply State.servingOnly_keeps
    | with_reducible apply State.startCopy_keeps
    | with_reducible apply hk
    | with_reducible apply outKeeps_ite
    | with_reducible apply ite_keeps
    | with_reducible refine keeps_snd (by assumption) ?_
    | with_reducible refine keeps_snd2 (by assumption) ?_
    | with_reducible assumption
    | trivial
    | split
    | dsimp only
    | dsimp only [id]

theorem execLaunchStart_keeps {s0 s : State} (hk : Keeps s0 s) (i : StreamId) :
    OutKeeps s0 (execLaunchStart i s) := by
  unfold execLaunchStart
  try dsimp only
  repeat' first
    | intro _
    | with_reducible exact hk
    | with_reducible apply outKeeps_next
    | with_reducible apply State.launchEnded_keeps
    | with_reducible apply State.setCmd_keeps
    | with_reducible apply State.setSt_keeps
    | with_reducible apply outKeeps_ite
    | with_reducible apply ite_keeps
    | with_reducible refine keeps_snd (by assumption) ?_
    | with_reducible refine keeps_snd2 (by assumption) ?_
    | with_reducible assumption
    | trivial
    | split
    | dsimp only
    | dsimp only [id]
    | with_reducible apply keeps_mk

theorem execStreamFetchDone_keeps {s0 s : State} (hk : Keeps s0 s) (i : StreamId) :
    OutKeeps s0 (execStreamFetchDone i s) := by
  unfold execStreamFetchDone
  try dsimp only
  repeat' first
    | intro _
    | with_reducible exact hk
    | with_reducible apply outKeeps_next
    | with_reducible apply State.hbmRead_keeps
    | with_reducible apply State.settleHead_keeps
    | with_reducible apply State.setSt_keeps
    | with_reducible apply State.haltStream_keeps
    | with_reducible apply outKeeps_ite
    | with_reducible apply ite_keeps
    | with_reducible refine keeps_snd (by assumption) ?_
    | with_reducible refine keeps_snd2 (by assumption) ?_
    | with_reducible assumption
    | trivial
    | split
    | dsimp only
    | dsimp only [id]
    | with_reducible apply keeps_mk

theorem execSeqForwardIssue_keeps {s0 s : State} (hk : Keeps s0 s) (f : Fin 4) :
    OutKeeps s0 (execSeqForwardIssue f s) := by
  unfold execSeqForwardIssue
  try dsimp only
  repeat' first
    | intro _
    | with_reducible exact hk
    | with_reducible apply outKeeps_next
    | with_reducible apply outKeeps_ite
    | with_reducible apply ite_keeps
    | with_reducible refine keeps_snd (by assumption) ?_
    | with_reducible refine keeps_snd2 (by assumption) ?_
    | with_reducible assumption
    | trivial
    | split
    | dsimp only
    | dsimp only [id]
    | with_reducible apply keeps_mk

theorem execLdw_keeps {s0 s : State} (hk : Keeps s0 s) (i : StreamId) (body : BitVec 120) :
    OutKeeps s0 (execLdw i body s) := tile_keeps hk fun _ h => issueLdw_keeps h _ _

theorem execLda_keeps {s0 s : State} (hk : Keeps s0 s) (i : StreamId) (body : BitVec 120) :
    OutKeeps s0 (execLda i body s) := tile_keeps hk fun _ h => issueLda_keeps h _ _

theorem execTrn_keeps {s0 s : State} (hk : Keeps s0 s) (i : StreamId) (body : BitVec 120) :
    OutKeeps s0 (execTrn i body s) := tile_keeps hk fun _ h => issueTrn_keeps h _ _

theorem execDma_keeps {s0 s : State} (hk : Keeps s0 s) (i : StreamId) (body : BitVec 120) :
    OutKeeps s0 (execDma i body s) := tile_keeps hk fun _ h => issueDma_keeps h _ _

theorem execMma_keeps {s0 s : State} (hk : Keeps s0 s) (i : StreamId) (body : BitVec 120) :
    OutKeeps s0 (execMma i body s) := tile_keeps hk fun _ h => issueMma_keeps h _ _

theorem execMmt_keeps {s0 s : State} (hk : Keeps s0 s) (i : StreamId) (body : BitVec 120) :
    OutKeeps s0 (execMmt i body s) := tile_keeps hk fun _ h => issueMma_keeps h _ _

theorem execDrn_keeps {s0 s : State} (hk : Keeps s0 s) (i : StreamId) (body : BitVec 120) :
    OutKeeps s0 (execDrn i body s) := tile_keeps hk fun _ h => issueDrn_keeps h _ _

theorem execVopCpy_keeps {s0 s : State} (hk : Keeps s0 s) (i : StreamId) (body : BitVec 114) :
    OutKeeps s0 (execVopCpy i body s) := tile_keeps hk fun _ h => issueVop_keeps h _ _

theorem execVopAdd_keeps {s0 s : State} (hk : Keeps s0 s) (i : StreamId) (body : BitVec 114) :
    OutKeeps s0 (execVopAdd i body s) := tile_keeps hk fun _ h => issueVop_keeps h _ _

theorem execVopSub_keeps {s0 s : State} (hk : Keeps s0 s) (i : StreamId) (body : BitVec 114) :
    OutKeeps s0 (execVopSub i body s) := tile_keeps hk fun _ h => issueVop_keeps h _ _

theorem execVopMul_keeps {s0 s : State} (hk : Keeps s0 s) (i : StreamId) (body : BitVec 114) :
    OutKeeps s0 (execVopMul i body s) := tile_keeps hk fun _ h => issueVop_keeps h _ _

theorem execVopFma_keeps {s0 s : State} (hk : Keeps s0 s) (i : StreamId) (body : BitVec 114) :
    OutKeeps s0 (execVopFma i body s) := tile_keeps hk fun _ h => issueVop_keeps h _ _

theorem execVopDiv_keeps {s0 s : State} (hk : Keeps s0 s) (i : StreamId) (body : BitVec 114) :
    OutKeeps s0 (execVopDiv i body s) := tile_keeps hk fun _ h => issueVop_keeps h _ _

theorem execVopSqrt_keeps {s0 s : State} (hk : Keeps s0 s) (i : StreamId) (body : BitVec 114) :
    OutKeeps s0 (execVopSqrt i body s) := tile_keeps hk fun _ h => issueVop_keeps h _ _

theorem execVopMax_keeps {s0 s : State} (hk : Keeps s0 s) (i : StreamId) (body : BitVec 114) :
    OutKeeps s0 (execVopMax i body s) := tile_keeps hk fun _ h => issueVop_keeps h _ _

theorem execVopMin_keeps {s0 s : State} (hk : Keeps s0 s) (i : StreamId) (body : BitVec 114) :
    OutKeeps s0 (execVopMin i body s) := tile_keeps hk fun _ h => issueVop_keeps h _ _

theorem execVopExp_keeps {s0 s : State} (hk : Keeps s0 s) (i : StreamId) (body : BitVec 114) :
    OutKeeps s0 (execVopExp i body s) := tile_keeps hk fun _ h => issueVop_keeps h _ _

theorem execVopTanh_keeps {s0 s : State} (hk : Keeps s0 s) (i : StreamId) (body : BitVec 114) :
    OutKeeps s0 (execVopTanh i body s) := tile_keeps hk fun _ h => issueVop_keeps h _ _

theorem execVopErf_keeps {s0 s : State} (hk : Keeps s0 s) (i : StreamId) (body : BitVec 114) :
    OutKeeps s0 (execVopErf i body s) := tile_keeps hk fun _ h => issueVop_keeps h _ _

theorem execRsum_keeps {s0 s : State} (hk : Keeps s0 s) (i : StreamId) (body : BitVec 114) :
    OutKeeps s0 (execRsum i body s) := tile_keeps hk fun _ h => issueVop_keeps h _ _

theorem execRmax_keeps {s0 s : State} (hk : Keeps s0 s) (i : StreamId) (body : BitVec 114) :
    OutKeeps s0 (execRmax i body s) := tile_keeps hk fun _ h => issueVop_keeps h _ _

theorem execAdamw_keeps {s0 s : State} (hk : Keeps s0 s) (i : StreamId) (body : BitVec 114) :
    OutKeeps s0 (execAdamw i body s) := tile_keeps hk fun _ h => issueOpt_keeps h _ _

theorem execGsq_keeps {s0 s : State} (hk : Keeps s0 s) (i : StreamId) (body : BitVec 114) :
    OutKeeps s0 (execGsq i body s) := tile_keeps hk fun _ h => issueOpt_keeps h _ _

theorem execAfapply_keeps {s0 s : State} (hk : Keeps s0 s) (i : StreamId) (body : BitVec 114) :
    OutKeeps s0 (execAfapply i body s) := tile_keeps hk fun _ h => issueOpt_keeps h _ _

theorem execGlnInit_keeps {s0 s : State} (hk : Keeps s0 s) (i : StreamId) (body : BitVec 118) :
    OutKeeps s0 (execGlnInit i body s) := tile_keeps hk fun _ h => issueGln_keeps h _ _

theorem execGlnAcc_keeps {s0 s : State} (hk : Keeps s0 s) (i : StreamId) (body : BitVec 118) :
    OutKeeps s0 (execGlnAcc i body s) := tile_keeps hk fun _ h => issueGln_keeps h _ _

theorem execGlnAdd_keeps {s0 s : State} (hk : Keeps s0 s) (i : StreamId) (body : BitVec 118) :
    OutKeeps s0 (execGlnAdd i body s) := tile_keeps hk fun _ h => issueGln_keeps h _ _

theorem execGlnFlush_keeps {s0 s : State} (hk : Keeps s0 s) (i : StreamId) (body : BitVec 118) :
    OutKeeps s0 (execGlnFlush i body s) := tile_keeps hk fun _ h => issueGln_keeps h _ _

theorem execSemw_keeps {s0 s : State} (hk : Keeps s0 s) (i : StreamId) (body : BitVec 120) :
    OutKeeps s0 (execSemw i body s) := tile_keeps hk fun _ h => issueSemw_keeps h _ _

theorem execSems_keeps {s0 s : State} (hk : Keeps s0 s) (i : StreamId) (body : BitVec 120) :
    OutKeeps s0 (execSems i body s) := tile_keeps hk fun _ h => issueSems_keeps h _ _

theorem execBar_keeps {s0 s : State} (hk : Keeps s0 s) (i : StreamId) (body : BitVec 120) :
    OutKeeps s0 (execBar i body s) := tile_keeps hk fun _ h => issueBar_keeps h _ _

theorem execChkForce_keeps {s0 s : State} (hk : Keeps s0 s) (i : StreamId) (body : BitVec 118) :
    OutKeeps s0 (execChkForce i body s) := tile_keeps hk fun _ h => issueChk_keeps h _ _

theorem execChkRead_keeps {s0 s : State} (hk : Keeps s0 s) (i : StreamId) (body : BitVec 118) :
    OutKeeps s0 (execChkRead i body s) := tile_keeps hk fun _ h => issueChk_keeps h _ _

theorem execStep_keeps {s0 s : State} (hk : Keeps s0 s) (i : StreamId) (body : BitVec 120) :
    OutKeeps s0 (execStep i body s) := tile_keeps hk fun _ h => issueStep_keeps h _ _

theorem execEnd_keeps {s0 s : State} (hk : Keeps s0 s) (i : StreamId) (body : BitVec 120) :
    OutKeeps s0 (execEnd i body s) := tile_keeps hk fun _ h => issueEnd_keeps h _ _

theorem execCol_keeps {s0 s : State} (hk : Keeps s0 s) (i : StreamId) (body : BitVec 120) (host : List Byte) :
    OutKeeps s0 (execCol i body host s) := tile_keeps hk fun _ h => issueCol_keeps h _ _ _

theorem execUnknownOpcode_keeps {s0 s : State} (hk : Keeps s0 s) (i : StreamId) (w : InstrWord) :
    OutKeeps s0 (execUnknownOpcode i w s) := tile_keeps hk fun _ h => issueUnknown_keeps h _ _

theorem execAlmanacFlashWrite_keeps {s0 s : State} (hk : Keeps s0 s) (ok : Bool) :
    OutKeeps s0 (execAlmanacFlashWrite ok s) := by
  unfold execAlmanacFlashWrite
  try dsimp only
  repeat' first
    | intro _
    | with_reducible exact hk
    | with_reducible apply outKeeps_next
    | with_reducible apply State.almLose_keeps
    | with_reducible apply State.raiseSrc_keeps
    | with_reducible apply outKeeps_ite
    | with_reducible apply ite_keeps
    | with_reducible refine keeps_snd (by assumption) ?_
    | with_reducible refine keeps_snd2 (by assumption) ?_
    | with_reducible assumption
    | trivial
    | split
    | dsimp only
    | dsimp only [id]
    | with_reducible apply keeps_mk

theorem execHarrowTile_keeps {s0 s : State} (hk : Keeps s0 s) (f : Fin 4) (m : Meas) (differs : Bool) (eqA : Bool)
    (eqB : Bool) :
    OutKeeps s0 (execHarrowTile f m differs eqA eqB s) := by
  unfold execHarrowTile
  try dsimp only
  repeat' first
    | intro _
    | with_reducible exact hk
    | with_reducible apply outKeeps_next
    | with_reducible apply State.harrowRun_keeps
    | with_reducible apply State.wf_keeps
    | with_reducible apply State.compareTile_keeps
    | with_reducible apply outKeeps_ite
    | with_reducible apply ite_keeps
    | with_reducible refine keeps_snd (by assumption) ?_
    | with_reducible refine keeps_snd2 (by assumption) ?_
    | with_reducible assumption
    | trivial
    | split
    | dsimp only
    | dsimp only [id]
    | with_reducible apply keeps_mk

theorem execHarrowTimeout_keeps {s0 s : State} (hk : Keeps s0 s) (f : Fin 4) (m : Meas) :
    OutKeeps s0 (execHarrowTimeout f m s) := by
  unfold execHarrowTimeout
  try dsimp only
  repeat' first
    | intro _
    | with_reducible exact hk
    | with_reducible apply outKeeps_next
    | with_reducible apply State.endHarrow_keeps
    | with_reducible apply outKeeps_ite
    | with_reducible apply ite_keeps
    | with_reducible refine keeps_snd (by assumption) ?_
    | with_reducible refine keeps_snd2 (by assumption) ?_
    | with_reducible assumption
    | trivial
    | split
    | dsimp only
    | dsimp only [id]

theorem execShadowCompare_keeps {s0 s : State} (hk : Keeps s0 s) (f : Fin 4) (i : Nat) (differs : Bool) (m : Meas) :
    OutKeeps s0 (execShadowCompare f i differs m s) := by
  unfold execShadowCompare
  try dsimp only
  repeat' first
    | intro _
    | with_reducible exact hk
    | with_reducible apply outKeeps_next
    | with_reducible apply State.shadowMismatch_keeps
    | with_reducible apply State.repeatSlot_keeps
    | with_reducible apply outKeeps_ite
    | with_reducible apply ite_keeps
    | with_reducible refine keeps_snd (by assumption) ?_
    | with_reducible refine keeps_snd2 (by assumption) ?_
    | with_reducible assumption
    | trivial
    | split
    | dsimp only
    | dsimp only [id]
    | with_reducible apply keeps_mk

theorem execFenceDrained_keeps {s0 s : State} (hk : Keeps s0 s) (d : Dom) :
    OutKeeps s0 (execFenceDrained d s) := by
  unfold execFenceDrained
  try dsimp only
  repeat' first
    | intro _
    | with_reducible exact hk
    | with_reducible apply outKeeps_next
    | with_reducible apply State.enterFenced_keeps
    | with_reducible apply outKeeps_ite
    | with_reducible apply ite_keeps
    | with_reducible refine keeps_snd (by assumption) ?_
    | with_reducible refine keeps_snd2 (by assumption) ?_
    | with_reducible assumption
    | trivial
    | split
    | dsimp only
    | dsimp only [id]

theorem execFenceDrainTimeout_keeps {s0 s : State} (hk : Keeps s0 s) (d : Dom) :
    OutKeeps s0 (execFenceDrainTimeout d s) := by
  unfold execFenceDrainTimeout
  try dsimp only
  repeat' first
    | intro _
    | with_reducible exact hk
    | with_reducible apply outKeeps_next
    | with_reducible apply State.abandonDom_keeps
    | with_reducible apply State.enterFenced_keeps
    | with_reducible apply outKeeps_ite
    | with_reducible apply ite_keeps
    | with_reducible refine keeps_snd (by assumption) ?_
    | with_reducible refine keeps_snd2 (by assumption) ?_
    | with_reducible assumption
    | trivial
    | split
    | dsimp only
    | dsimp only [id]

theorem execResetCtx_keeps {s0 s : State} (hk : Keeps s0 s) (q : Fin 8192) (rings : Rings) :
    OutKeeps s0 (execResetCtx q rings s) := by
  unfold execResetCtx
  refine runCmd_keeps hk _ _ _ fun w seq => begun_ite (begun_stop _ _) (begun_ite (begun_stop _ _) ?_)
  exact begun_ok _ _ fun t h => State.resetCtxCmd_keeps h _ _

theorem execResetPort_keeps {s0 s : State} (hk : Keeps s0 s) (q : Fin 8192) :
    OutKeeps s0 (execResetPort q s) := by
  unfold execResetPort
  try dsimp only
  repeat' first
    | intro _
    | with_reducible exact hk
    | with_reducible apply outKeeps_next
    | with_reducible apply State.resetPort_keeps
    | with_reducible apply runCmd_keeps
    | with_reducible apply thenOk_keeps
    | with_reducible apply begun_ok
    | with_reducible apply begun_stop
    | with_reducible apply argsThen_keeps
    | with_reducible apply begun_stop
    | with_reducible apply begun_wait
    | with_reducible apply begun_ok
    | with_reducible apply begun_run
    | with_reducible apply begun_ite
    | with_reducible apply stepArgs_keeps
    | with_reducible apply launchBody_keeps
    | with_reducible apply State.servingOnly_keeps
    | with_reducible apply State.startCopy_keeps
    | with_reducible apply hk
    | with_reducible apply outKeeps_ite
    | with_reducible apply ite_keeps
    | with_reducible refine keeps_snd (by assumption) ?_
    | with_reducible refine keeps_snd2 (by assumption) ?_
    | with_reducible assumption
    | trivial
    | split
    | dsimp only
    | dsimp only [id]

theorem execResetField_keeps {s0 s : State} (hk : Keeps s0 s) (q : Fin 8192) (rings : Rings) (m : Meas) :
    OutKeeps s0 (execResetField q rings m s) := by
  unfold execResetField
  try dsimp only
  repeat' first
    | intro _
    | with_reducible exact hk
    | with_reducible apply outKeeps_next
    | with_reducible apply State.startReset_keeps
    | with_reducible apply runCmd_keeps
    | with_reducible apply begun_ok
    | with_reducible apply begun_stop
    | with_reducible apply argsThen_keeps
    | with_reducible apply begun_stop
    | with_reducible apply begun_wait
    | with_reducible apply begun_ok
    | with_reducible apply begun_run
    | with_reducible apply begun_ite
    | with_reducible apply stepArgs_keeps
    | with_reducible apply launchBody_keeps
    | with_reducible apply State.servingOnly_keeps
    | with_reducible apply State.startCopy_keeps
    | with_reducible apply hk
    | with_reducible apply outKeeps_ite
    | with_reducible apply ite_keeps
    | with_reducible refine keeps_snd (by assumption) ?_
    | with_reducible refine keeps_snd2 (by assumption) ?_
    | with_reducible assumption
    | trivial
    | split
    | dsimp only
    | dsimp only [id]

theorem execLowWordRead_keeps {s0 s : State} (hk : Keeps s0 s) (u : Fin 64) (off : BitVec 27) (log : Fin 4) :
    OutKeeps s0 (execLowWordRead u off log s) := by
  unfold execLowWordRead
  try dsimp only
  repeat' first
    | intro _
    | with_reducible exact hk
    | with_reducible apply outKeeps_next
    | with_reducible apply State.busRead_keeps
    | with_reducible apply outKeeps_ite
    | with_reducible apply ite_keeps
    | with_reducible refine keeps_snd (by assumption) ?_
    | with_reducible refine keeps_snd2 (by assumption) ?_
    | with_reducible assumption
    | trivial
    | split
    | dsimp only
    | dsimp only [id]

theorem execRcRead_keeps {s0 s : State} (hk : Keeps s0 s) (u : Fin 64) (off : BitVec 27) (log : Fin 4) :
    OutKeeps s0 (execRcRead u off log s) := by
  unfold execRcRead
  try dsimp only
  repeat' first
    | intro _
    | with_reducible exact hk
    | with_reducible apply outKeeps_next
    | with_reducible apply State.busRead_keeps
    | with_reducible apply outKeeps_ite
    | with_reducible apply ite_keeps
    | with_reducible refine keeps_snd (by assumption) ?_
    | with_reducible refine keeps_snd2 (by assumption) ?_
    | with_reducible assumption
    | trivial
    | split
    | dsimp only
    | dsimp only [id]

theorem execForecastLatch_keeps {s0 s : State} (hk : Keeps s0 s) (u : Fin 64) :
    OutKeeps s0 (execForecastLatch u s) := by
  unfold execForecastLatch
  try dsimp only
  repeat' first
    | intro _
    | with_reducible exact hk
    | with_reducible apply outKeeps_next
    | with_reducible apply State.busRead_keeps
    | with_reducible apply outKeeps_ite
    | with_reducible apply ite_keeps
    | with_reducible refine keeps_snd (by assumption) ?_
    | with_reducible refine keeps_snd2 (by assumption) ?_
    | with_reducible assumption
    | trivial
    | split
    | dsimp only
    | dsimp only [id]

theorem execInterferenceLatch_keeps {s0 s : State} (hk : Keeps s0 s) (u : Fin 64) (c : Fin 64) :
    OutKeeps s0 (execInterferenceLatch u c s) := by
  unfold execInterferenceLatch
  try dsimp only
  repeat' first
    | intro _
    | with_reducible exact hk
    | with_reducible apply outKeeps_next
    | with_reducible apply State.busRead_keeps
    | with_reducible apply outKeeps_ite
    | with_reducible apply ite_keeps
    | with_reducible refine keeps_snd (by assumption) ?_
    | with_reducible refine keeps_snd2 (by assumption) ?_
    | with_reducible assumption
    | trivial
    | split
    | dsimp only
    | dsimp only [id]

theorem execMisalignedWrite_keeps {s0 s : State} (hk : Keeps s0 s) (u : Fin 64) (off : BitVec 27) :
    OutKeeps s0 (execMisalignedWrite u off s) := by
  unfold execMisalignedWrite
  try dsimp only
  repeat' first
    | intro _
    | with_reducible exact hk
    | with_reducible apply outKeeps_next
    | with_reducible apply State.badWrite_keeps
    | with_reducible apply outKeeps_ite
    | with_reducible apply ite_keeps
    | with_reducible refine keeps_snd (by assumption) ?_
    | with_reducible refine keeps_snd2 (by assumption) ?_
    | with_reducible assumption
    | trivial
    | split
    | dsimp only
    | dsimp only [id]

theorem execRouteEntryCommit_keeps {s0 s : State} (hk : Keeps s0 s) (u : Fin 64) (j : Fin 64) (v : Word32) :
    OutKeeps s0 (execRouteEntryCommit u j v s) := by
  unfold execRouteEntryCommit
  try dsimp only
  repeat' first
    | intro _
    | with_reducible exact hk
    | with_reducible apply outKeeps_next
    | with_reducible apply State.routeCommit_keeps
    | with_reducible apply State.gateWrite_keeps
    | with_reducible apply outKeeps_ite
    | with_reducible apply ite_keeps
    | with_reducible refine keeps_snd (by assumption) ?_
    | with_reducible refine keeps_snd2 (by assumption) ?_
    | with_reducible assumption
    | trivial
    | split
    | dsimp only
    | dsimp only [id]

theorem execPortEnableWrite_keeps {s0 s : State} (hk : Keeps s0 s) (u : Fin 64) (p : Fin 8) (v : Word32) :
    OutKeeps s0 (execPortEnableWrite u p v s) := by
  unfold execPortEnableWrite
  try dsimp only
  repeat' first
    | intro _
    | with_reducible exact hk
    | with_reducible apply outKeeps_next
    | with_reducible apply State.writePortCtrl_keeps
    | with_reducible apply State.gateWrite_keeps
    | with_reducible apply outKeeps_ite
    | with_reducible apply ite_keeps
    | with_reducible refine keeps_snd (by assumption) ?_
    | with_reducible refine keeps_snd2 (by assumption) ?_
    | with_reducible assumption
    | trivial
    | split
    | dsimp only
    | dsimp only [id]

theorem execPortRetrainWrite_keeps {s0 s : State} (hk : Keeps s0 s) (u : Fin 64) (p : Fin 8) (v : Word32) :
    OutKeeps s0 (execPortRetrainWrite u p v s) := by
  unfold execPortRetrainWrite
  try dsimp only
  repeat' first
    | intro _
    | with_reducible exact hk
    | with_reducible apply outKeeps_next
    | with_reducible apply State.writePortCtrl_keeps
    | with_reducible apply State.gateWrite_keeps
    | with_reducible apply outKeeps_ite
    | with_reducible apply ite_keeps
    | with_reducible refine keeps_snd (by assumption) ?_
    | with_reducible refine keeps_snd2 (by assumption) ?_
    | with_reducible assumption
    | trivial
    | split
    | dsimp only
    | dsimp only [id]

theorem execDevidWrite_keeps {s0 s : State} (hk : Keeps s0 s) (u : Fin 64) (v : Word32) :
    OutKeeps s0 (execDevidWrite u v s) := by
  unfold execDevidWrite
  try dsimp only
  repeat' first
    | intro _
    | with_reducible exact hk
    | with_reducible apply outKeeps_next
    | with_reducible apply State.setDevId_keeps
    | with_reducible apply State.gateWrite_keeps
    | with_reducible apply outKeeps_ite
    | with_reducible apply ite_keeps
    | with_reducible refine keeps_snd (by assumption) ?_
    | with_reducible refine keeps_snd2 (by assumption) ?_
    | with_reducible assumption
    | trivial
    | split
    | dsimp only
    | dsimp only [id]

theorem execRxallocWrite_keeps {s0 s : State} (hk : Keeps s0 s) (u : Fin 64) (p : Fin 8) (c : Fin 4) (v : Word32) :
    OutKeeps s0 (execRxallocWrite u p c v s) := by
  unfold execRxallocWrite
  try dsimp only
  repeat' first
    | intro _
    | with_reducible exact hk
    | with_reducible apply outKeeps_next
    | with_reducible apply State.setRxalloc_keeps
    | with_reducible apply State.gateWrite_keeps
    | with_reducible apply outKeeps_ite
    | with_reducible apply ite_keeps
    | with_reducible refine keeps_snd (by assumption) ?_
    | with_reducible refine keeps_snd2 (by assumption) ?_
    | with_reducible assumption
    | trivial
    | split
    | dsimp only
    | dsimp only [id]

theorem execGranuleWrite_keeps {s0 s : State} (hk : Keeps s0 s) (u : Fin 64) (f : Fin 4) (g : Fin 480) (v : Word32) :
    OutKeeps s0 (execGranuleWrite u f g v s) := by
  unfold execGranuleWrite
  try dsimp only
  repeat' first
    | intro _
    | with_reducible exact hk
    | with_reducible apply outKeeps_next
    | with_reducible apply State.granWrite_keeps
    | with_reducible apply State.gateWrite_keeps
    | with_reducible apply outKeeps_ite
    | with_reducible apply ite_keeps
    | with_reducible refine keeps_snd (by assumption) ?_
    | with_reducible refine keeps_snd2 (by assumption) ?_
    | with_reducible assumption
    | trivial
    | split
    | dsimp only
    | dsimp only [id]

theorem execGranuleClearDone_keeps {s0 s : State} (hk : Keeps s0 s) (f : Fin 4) (m : Fin 5) :
    OutKeeps s0 (execGranuleClearDone f m s) := by
  unfold execGranuleClearDone
  try dsimp only
  repeat' first
    | intro _
    | with_reducible exact hk
    | with_reducible apply outKeeps_next
    | with_reducible apply State.admitAll_keeps
    | with_reducible apply State.wf_keeps
    | with_reducible apply outKeeps_ite
    | with_reducible apply ite_keeps
    | with_reducible refine keeps_snd (by assumption) ?_
    | with_reducible refine keeps_snd2 (by assumption) ?_
    | with_reducible assumption
    | trivial
    | split
    | dsimp only
    | dsimp only [id]
    | with_reducible apply keeps_mk

theorem execSheafShareWrite_keeps {s0 s : State} (hk : Keeps s0 s) (u : Fin 64) (f : Fin 4) (c : Fin 64) (v : Word32) :
    OutKeeps s0 (execSheafShareWrite u f c v s) := by
  unfold execSheafShareWrite
  try dsimp only
  repeat' first
    | intro _
    | with_reducible exact hk
    | with_reducible apply outKeeps_next
    | with_reducible apply State.shareWrite_keeps
    | with_reducible apply State.gateWrite_keeps
    | with_reducible apply outKeeps_ite
    | with_reducible apply ite_keeps
    | with_reducible refine keeps_snd (by assumption) ?_
    | with_reducible refine keeps_snd2 (by assumption) ?_
    | with_reducible assumption
    | trivial
    | split
    | dsimp only
    | dsimp only [id]

theorem execCtxMemWrite_keeps {s0 s : State} (hk : Keeps s0 s) (u : Fin 64) (c : Fin 64) (v : Word32) :
    OutKeeps s0 (execCtxMemWrite u c v s) := by
  unfold execCtxMemWrite
  try dsimp only
  repeat' first
    | intro _
    | with_reducible exact hk
    | with_reducible apply outKeeps_next
    | with_reducible apply State.ctxMemWrite_keeps
    | with_reducible apply State.gateWrite_keeps
    | with_reducible apply outKeeps_ite
    | with_reducible apply ite_keeps
    | with_reducible refine keeps_snd (by assumption) ?_
    | with_reducible refine keeps_snd2 (by assumption) ?_
    | with_reducible assumption
    | trivial
    | split
    | dsimp only
    | dsimp only [id]

theorem execHbmRead_keeps {s0 s : State} (hk : Keeps s0 s) (w : Reader) (a : BitVec 41) (x : Found) (onDie : Bool) :
    OutKeeps s0 (execHbmRead w a x onDie s) := by
  unfold execHbmRead
  try dsimp only
  repeat' first
    | intro _
    | with_reducible exact hk
    | with_reducible apply outKeeps_next
    | with_reducible apply State.hbmRead_keeps
    | with_reducible apply State.foundIn_keeps
    | with_reducible apply outKeeps_ite
    | with_reducible apply ite_keeps
    | with_reducible refine keeps_snd (by assumption) ?_
    | with_reducible refine keeps_snd2 (by assumption) ?_
    | with_reducible assumption
    | trivial
    | split
    | dsimp only
    | dsimp only [id]
    | with_reducible apply keeps_mk

theorem execHbmPartialWrite_keeps {s0 s : State} (hk : Keeps s0 s) (w : Reader) (a : BitVec 41) (bs : List Byte) (x :
    Found) (onDie : Bool) :
    OutKeeps s0 (execHbmPartialWrite w a bs x onDie s) := by
  unfold execHbmPartialWrite
  try dsimp only
  repeat' first
    | intro _
    | with_reducible exact hk
    | with_reducible apply outKeeps_next
    | with_reducible apply State.hbmWrite_keeps
    | with_reducible apply State.foundIn_keeps
    | with_reducible apply outKeeps_ite
    | with_reducible apply ite_keeps
    | with_reducible refine keeps_snd (by assumption) ?_
    | with_reducible refine keeps_snd2 (by assumption) ?_
    | with_reducible assumption
    | trivial
    | split
    | dsimp only
    | dsimp only [id]

theorem execScrubRead_keeps {s0 s : State} (hk : Keeps s0 s) (f : Fin 4) (m : Fin 5) (x : Found) (onDie : Bool) :
    OutKeeps s0 (execScrubRead f m x onDie s) := by
  unfold execScrubRead
  try dsimp only
  repeat' first
    | intro _
    | with_reducible exact hk
    | with_reducible apply outKeeps_next
    | with_reducible apply State.scrubNext_keeps
    | with_reducible apply State.foundIn_keeps
    | with_reducible apply State.readWord_keeps
    | with_reducible apply outKeeps_ite
    | with_reducible apply ite_keeps
    | with_reducible refine keeps_snd (by assumption) ?_
    | with_reducible refine keeps_snd2 (by assumption) ?_
    | with_reducible assumption
    | trivial
    | split
    | dsimp only
    | dsimp only [id]

theorem execContextCreate_keeps {s0 s : State} (hk : Keeps s0 s) (u : Fin 64) (c : Fin 64) (v : Word32) :
    OutKeeps s0 (execContextCreate u c v s) := by
  unfold execContextCreate
  try dsimp only
  repeat' first
    | intro _
    | with_reducible exact hk
    | with_reducible apply outKeeps_next
    | with_reducible apply State.bindWrite_keeps
    | with_reducible apply State.gateWrite_keeps
    | with_reducible apply outKeeps_ite
    | with_reducible apply ite_keeps
    | with_reducible refine keeps_snd (by assumption) ?_
    | with_reducible refine keeps_snd2 (by assumption) ?_
    | with_reducible assumption
    | trivial
    | split
    | dsimp only
    | dsimp only [id]

theorem execContextDestroy_keeps {s0 s : State} (hk : Keeps s0 s) (u : Fin 64) (c : Fin 64) (v : Word32) :
    OutKeeps s0 (execContextDestroy u c v s) := by
  unfold execContextDestroy
  try dsimp only
  repeat' first
    | intro _
    | with_reducible exact hk
    | with_reducible apply outKeeps_next
    | with_reducible apply State.bindWrite_keeps
    | with_reducible apply State.gateWrite_keeps
    | with_reducible apply outKeeps_ite
    | with_reducible apply ite_keeps
    | with_reducible refine keeps_snd (by assumption) ?_
    | with_reducible refine keeps_snd2 (by assumption) ?_
    | with_reducible assumption
    | trivial
    | split
    | dsimp only
    | dsimp only [id]

theorem execQuotaWrite_keeps {s0 s : State} (hk : Keeps s0 s) (u : Fin 64) (c : Fin 64) (f : Fin 4) (k : Quota) (v :
    Word32) :
    OutKeeps s0 (execQuotaWrite u c f k v s) := by
  unfold execQuotaWrite
  try dsimp only
  repeat' first
    | intro _
    | with_reducible exact hk
    | with_reducible apply outKeeps_next
    | with_reducible apply State.quotaSet_keeps
    | with_reducible apply State.gateWrite_keeps
    | with_reducible apply outKeeps_ite
    | with_reducible apply ite_keeps
    | with_reducible refine keeps_snd (by assumption) ?_
    | with_reducible refine keeps_snd2 (by assumption) ?_
    | with_reducible assumption
    | trivial
    | split
    | dsimp only
    | dsimp only [id]

theorem execServingConfigWrite_keeps {s0 s : State} (hk : Keeps s0 s) (u : Fin 64) (c : Fin 64) (o : BitVec 12) (v :
    Word32) :
    OutKeeps s0 (execServingConfigWrite u c o v s) := by
  unfold execServingConfigWrite
  try dsimp only
  repeat' first
    | intro _
    | with_reducible exact hk
    | with_reducible apply outKeeps_next
    | with_reducible apply State.servWrite_keeps
    | with_reducible apply State.plainWrite_keeps
    | with_reducible apply State.gateWrite_keeps
    | with_reducible apply outKeeps_ite
    | with_reducible apply ite_keeps
    | with_reducible refine keeps_snd (by assumption) ?_
    | with_reducible refine keeps_snd2 (by assumption) ?_
    | with_reducible assumption
    | trivial
    | split
    | dsimp only
    | dsimp only [id]

theorem execIfCtrlWrite_keeps {s0 s : State} (hk : Keeps s0 s) (u : Fin 64) (c : Fin 64) (v : Word32) :
    OutKeeps s0 (execIfCtrlWrite u c v s) := by
  unfold execIfCtrlWrite
  try dsimp only
  repeat' first
    | intro _
    | with_reducible exact hk
    | with_reducible apply outKeeps_next
    | with_reducible apply State.plainWrite_keeps
    | with_reducible apply State.gateWrite_keeps
    | with_reducible apply outKeeps_ite
    | with_reducible apply ite_keeps
    | with_reducible refine keeps_snd (by assumption) ?_
    | with_reducible refine keeps_snd2 (by assumption) ?_
    | with_reducible assumption
    | trivial
    | split
    | dsimp only
    | dsimp only [id]

theorem execInterferenceWindowEnd_keeps {s0 s : State} (hk : Keeps s0 s) (c : Fin 64) (w : WinCounts) :
    OutKeeps s0 (execInterferenceWindowEnd c w s) := by
  unfold execInterferenceWindowEnd
  try dsimp only
  repeat' first
    | intro _
    | with_reducible exact hk
    | with_reducible apply outKeeps_next
    | with_reducible apply State.wf_keeps
    | with_reducible apply issue_keeps
    | with_reducible apply outKeeps_ite
    | with_reducible apply ite_keeps
    | with_reducible refine keeps_snd (by assumption) ?_
    | with_reducible refine keeps_snd2 (by assumption) ?_
    | with_reducible assumption
    | trivial
    | split
    | dsimp only
    | dsimp only [id]

theorem execSlowdownWindowEnd_keeps {s0 s : State} (hk : Keeps s0 s) (l : List (Nat × Nat)) :
    OutKeeps s0 (execSlowdownWindowEnd l s) := by
  unfold execSlowdownWindowEnd
  try dsimp only
  repeat' first
    | intro _
    | with_reducible exact hk
    | with_reducible apply outKeeps_next
    | with_reducible apply State.slowField_keeps
    | with_reducible apply State.wf_keeps
    | with_reducible refine foldl_keeps ?_ ?_
    | with_reducible apply outKeeps_ite
    | with_reducible apply ite_keeps
    | with_reducible refine keeps_snd (by assumption) ?_
    | with_reducible refine keeps_snd2 (by assumption) ?_
    | with_reducible assumption
    | trivial
    | split
    | dsimp only
    | dsimp only [id]

theorem execQueueBind_keeps {s0 s : State} (hk : Keeps s0 s) (u : Fin 64) (v : Word32) :
    OutKeeps s0 (execQueueBind u v s) := by
  unfold execQueueBind
  try dsimp only
  repeat' first
    | intro _
    | with_reducible exact hk
    | with_reducible apply outKeeps_next
    | with_reducible apply State.bindQueue_keeps
    | with_reducible apply State.gateWrite_keeps
    | with_reducible apply outKeeps_ite
    | with_reducible apply ite_keeps
    | with_reducible refine keeps_snd (by assumption) ?_
    | with_reducible refine keeps_snd2 (by assumption) ?_
    | with_reducible assumption
    | trivial
    | split
    | dsimp only
    | dsimp only [id]

theorem execQueueEnable_keeps {s0 s : State} (hk : Keeps s0 s) (u : Fin 64) (q : Fin 8192) (v : Word32) :
    OutKeeps s0 (execQueueEnable u q v s) := by
  unfold execQueueEnable
  try dsimp only
  repeat' first
    | intro _
    | with_reducible exact hk
    | with_reducible apply outKeeps_next
    | with_reducible apply State.queueCfg_keeps
    | with_reducible apply State.gateWrite_keeps
    | with_reducible apply outKeeps_ite
    | with_reducible apply ite_keeps
    | with_reducible refine keeps_snd (by assumption) ?_
    | with_reducible refine keeps_snd2 (by assumption) ?_
    | with_reducible assumption
    | trivial
    | split
    | dsimp only
    | dsimp only [id]

theorem execQueueDisable_keeps {s0 s : State} (hk : Keeps s0 s) (u : Fin 64) (q : Fin 8192) (v : Word32) :
    OutKeeps s0 (execQueueDisable u q v s) := by
  unfold execQueueDisable
  try dsimp only
  repeat' first
    | intro _
    | with_reducible exact hk
    | with_reducible apply outKeeps_next
    | with_reducible apply State.queueCfg_keeps
    | with_reducible apply State.gateWrite_keeps
    | with_reducible apply outKeeps_ite
    | with_reducible apply ite_keeps
    | with_reducible refine keeps_snd (by assumption) ?_
    | with_reducible refine keeps_snd2 (by assumption) ?_
    | with_reducible assumption
    | trivial
    | split
    | dsimp only
    | dsimp only [id]

theorem execDoorbell_keeps {s0 s : State} (hk : Keeps s0 s) (u : Fin 64) (q : Fin 8192) (v : Word32) :
    OutKeeps s0 (execDoorbell u q v s) := by
  unfold execDoorbell
  try dsimp only
  repeat' first
    | intro _
    | with_reducible exact hk
    | with_reducible apply outKeeps_next
    | with_reducible apply State.ringBell_keeps
    | with_reducible apply State.gateWrite_keeps
    | with_reducible apply outKeeps_ite
    | with_reducible apply ite_keeps
    | with_reducible refine keeps_snd (by assumption) ?_
    | with_reducible refine keeps_snd2 (by assumption) ?_
    | with_reducible assumption
    | trivial
    | split
    | dsimp only
    | dsimp only [id]

theorem execRegionValidate_keeps {s0 s : State} (hk : Keeps s0 s) (u : Fin 64) (v : Word32) :
    OutKeeps s0 (execRegionValidate u v s) := by
  unfold execRegionValidate
  try dsimp only
  repeat' first
    | intro _
    | with_reducible exact hk
    | with_reducible apply outKeeps_next
    | with_reducible apply State.regionCtl_keeps
    | with_reducible apply State.gateWrite_keeps
    | with_reducible apply outKeeps_ite
    | with_reducible apply ite_keeps
    | with_reducible refine keeps_snd (by assumption) ?_
    | with_reducible refine keeps_snd2 (by assumption) ?_
    | with_reducible assumption
    | trivial
    | split
    | dsimp only
    | dsimp only [id]

theorem execRegionInvalidate_keeps {s0 s : State} (hk : Keeps s0 s) (u : Fin 64) (v : Word32) :
    OutKeeps s0 (execRegionInvalidate u v s) := by
  unfold execRegionInvalidate
  try dsimp only
  repeat' first
    | intro _
    | with_reducible exact hk
    | with_reducible apply outKeeps_next
    | with_reducible apply State.regionCtl_keeps
    | with_reducible apply State.gateWrite_keeps
    | with_reducible apply outKeeps_ite
    | with_reducible apply ite_keeps
    | with_reducible refine keeps_snd (by assumption) ?_
    | with_reducible refine keeps_snd2 (by assumption) ?_
    | with_reducible assumption
    | trivial
    | split
    | dsimp only
    | dsimp only [id]

theorem execBar2Read_keeps {s0 s : State} (hk : Keeps s0 s) (u : Fin 64) (off : BitVec 41) (n : Fin 4097) :
    OutKeeps s0 (execBar2Read u off n s) := by
  unfold execBar2Read
  try dsimp only
  repeat' first
    | intro _
    | with_reducible exact hk
    | with_reducible apply outKeeps_next
    | with_reducible apply State.hbmRead_keeps
    | with_reducible apply State.accErr_keeps
    | with_reducible apply outKeeps_ite
    | with_reducible apply ite_keeps
    | with_reducible refine keeps_snd (by assumption) ?_
    | with_reducible refine keeps_snd2 (by assumption) ?_
    | with_reducible assumption
    | trivial
    | split
    | dsimp only
    | dsimp only [id]
    | with_reducible apply keeps_mk

theorem execBar2Write_keeps {s0 s : State} (hk : Keeps s0 s) (u : Fin 64) (off : BitVec 41) (bs : List Byte) :
    OutKeeps s0 (execBar2Write u off bs s) := by
  unfold execBar2Write
  try dsimp only
  repeat' first
    | intro _
    | with_reducible exact hk
    | with_reducible apply outKeeps_next
    | with_reducible apply State.hbmWrite_keeps
    | with_reducible apply State.accErr_keeps
    | with_reducible apply outKeeps_ite
    | with_reducible apply ite_keeps
    | with_reducible refine keeps_snd (by assumption) ?_
    | with_reducible refine keeps_snd2 (by assumption) ?_
    | with_reducible assumption
    | trivial
    | split
    | dsimp only
    | dsimp only [id]

theorem execCollectorTick_keeps {s0 s : State} (hk : Keeps s0 s) (faulty : List (Nat × Nat)) (l : List (Nat × Meas))
    (finds : List ChipFind) :
    OutKeeps s0 (execCollectorTick faulty l finds s) := by
  unfold execCollectorTick
  try dsimp only
  repeat' first
    | intro _
    | with_reducible exact hk
    | with_reducible apply outKeeps_next
    | with_reducible apply State.dropCond_keeps
    | with_reducible apply State.setPair_keeps
    | with_reducible apply State.collectorStep_keeps
    | with_reducible apply State.elapse_keeps
    | with_reducible apply State.fresh_keeps
    | with_reducible apply State.applySample_keeps
    | with_reducible apply State.chipFound_keeps
    | with_reducible refine foldl_keeps ?_ ?_
    | with_reducible apply outKeeps_ite
    | with_reducible apply ite_keeps
    | with_reducible refine keeps_snd (by assumption) ?_
    | with_reducible refine keeps_snd2 (by assumption) ?_
    | with_reducible assumption
    | trivial
    | split
    | dsimp only
    | dsimp only [id]
    | with_reducible apply keeps_mk

theorem execQuietPeriodExpiry_keeps {s0 s : State} (hk : Keeps s0 s)  :
    OutKeeps s0 (execQuietPeriodExpiry  s) := by
  unfold execQuietPeriodExpiry
  try dsimp only
  repeat' first
    | intro _
    | with_reducible exact hk
    | with_reducible apply outKeeps_next
    | with_reducible apply State.collectorStep_keeps
    | with_reducible apply State.elapse_keeps
    | with_reducible apply State.wf_keeps
    | with_reducible apply outKeeps_ite
    | with_reducible apply ite_keeps
    | with_reducible refine keeps_snd (by assumption) ?_
    | with_reducible refine keeps_snd2 (by assumption) ?_
    | with_reducible assumption
    | trivial
    | split
    | dsimp only
    | dsimp only [id]

theorem execErrorForce_keeps {s0 s : State} (hk : Keeps s0 s) (u : Fin 64) (a : BitVec 27) (v : Word32) :
    OutKeeps s0 (execErrorForce u a v s) := by
  unfold execErrorForce
  try dsimp only
  repeat' first
    | intro _
    | with_reducible exact hk
    | with_reducible apply outKeeps_next
    | with_reducible apply State.forceWrite_keeps
    | with_reducible apply State.gateWrite_keeps
    | with_reducible apply outKeeps_ite
    | with_reducible apply ite_keeps
    | with_reducible refine keeps_snd (by assumption) ?_
    | with_reducible refine keeps_snd2 (by assumption) ?_
    | with_reducible assumption
    | trivial
    | split
    | dsimp only
    | dsimp only [id]

theorem execWireTest_keeps {s0 s : State} (hk : Keeps s0 s) (u : Fin 64) (v : Word32) :
    OutKeeps s0 (execWireTest u v s) := by
  unfold execWireTest
  try dsimp only
  repeat' first
    | intro _
    | with_reducible exact hk
    | with_reducible apply outKeeps_next
    | with_reducible apply State.wireTestWrite_keeps
    | with_reducible apply State.gateWrite_keeps
    | with_reducible apply outKeeps_ite
    | with_reducible apply ite_keeps
    | with_reducible refine keeps_snd (by assumption) ?_
    | with_reducible refine keeps_snd2 (by assumption) ?_
    | with_reducible assumption
    | trivial
    | split
    | dsimp only
    | dsimp only [id]

theorem execStreamWatchdog_keeps {s0 s : State} (hk : Keeps s0 s) (x : StreamId) :
    OutKeeps s0 (execStreamWatchdog x s) := by
  unfold execStreamWatchdog
  try dsimp only
  repeat' first
    | intro _
    | with_reducible exact hk
    | with_reducible apply outKeeps_next
    | with_reducible apply State.expire_keeps
    | with_reducible apply outKeeps_ite
    | with_reducible apply ite_keeps
    | with_reducible refine keeps_snd (by assumption) ?_
    | with_reducible refine keeps_snd2 (by assumption) ?_
    | with_reducible assumption
    | trivial
    | split
    | dsimp only
    | dsimp only [id]

theorem execQueueWatchdog_keeps {s0 s : State} (hk : Keeps s0 s) (q : Fin 8192) :
    OutKeeps s0 (execQueueWatchdog q s) := by
  unfold execQueueWatchdog
  try dsimp only
  repeat' first
    | intro _
    | with_reducible exact hk
    | with_reducible apply outKeeps_next
    | with_reducible apply State.blockCause_keeps
    | with_reducible apply State.hangEntry_keeps
    | with_reducible apply State.fenceQueue_keeps
    | with_reducible apply State.raiseFor_keeps
    | with_reducible apply outKeeps_ite
    | with_reducible apply ite_keeps
    | with_reducible refine keeps_snd (by assumption) ?_
    | with_reducible refine keeps_snd2 (by assumption) ?_
    | with_reducible assumption
    | trivial
    | split
    | dsimp only
    | dsimp only [id]

theorem execDmaWatchdog_keeps {s0 s : State} (hk : Keeps s0 s) (f : Fin 4) (e : Fin 8) :
    OutKeeps s0 (execDmaWatchdog f e s) := by
  unfold execDmaWatchdog
  try dsimp only
  repeat' first
    | intro _
    | with_reducible exact hk
    | with_reducible apply outKeeps_next
    | with_reducible apply State.expire_keeps
    | with_reducible apply outKeeps_ite
    | with_reducible apply ite_keeps
    | with_reducible refine keeps_snd (by assumption) ?_
    | with_reducible refine keeps_snd2 (by assumption) ?_
    | with_reducible assumption
    | trivial
    | split
    | dsimp only
    | dsimp only [id]
    | with_reducible apply keeps_mk

theorem execPortWatchdog_keeps {s0 s : State} (hk : Keeps s0 s) (p : Fin 8) (who : Option (Fin 64)) :
    OutKeeps s0 (execPortWatchdog p who s) := by
  unfold execPortWatchdog
  try dsimp only
  repeat' first
    | intro _
    | with_reducible exact hk
    | with_reducible apply outKeeps_next
    | with_reducible apply State.fencePort_keeps
    | with_reducible apply State.hangEntry_keeps
    | with_reducible apply State.raiseSrc_keeps
    | with_reducible apply outKeeps_ite
    | with_reducible apply ite_keeps
    | with_reducible refine keeps_snd (by assumption) ?_
    | with_reducible refine keeps_snd2 (by assumption) ?_
    | with_reducible assumption
    | trivial
    | split
    | dsimp only
    | dsimp only [id]

theorem execHarrowGo_keeps {s0 s : State} (hk : Keeps s0 s) (u : Fin 64) (f : Fin 4) (v : Word32) (m : Meas) :
    OutKeeps s0 (execHarrowGo u f v m s) := by
  unfold execHarrowGo
  try dsimp only
  repeat' first
    | intro _
    | with_reducible exact hk
    | with_reducible apply outKeeps_next
    | with_reducible apply State.harrowCtrl_keeps
    | with_reducible apply State.gateWrite_keeps
    | with_reducible apply outKeeps_ite
    | with_reducible apply ite_keeps
    | with_reducible refine keeps_snd (by assumption) ?_
    | with_reducible refine keeps_snd2 (by assumption) ?_
    | with_reducible assumption
    | trivial
    | split
    | dsimp only
    | dsimp only [id]

theorem execHarrowStop_keeps {s0 s : State} (hk : Keeps s0 s) (u : Fin 64) (f : Fin 4) (v : Word32) (m : Meas) :
    OutKeeps s0 (execHarrowStop u f v m s) := by
  unfold execHarrowStop
  try dsimp only
  repeat' first
    | intro _
    | with_reducible exact hk
    | with_reducible apply outKeeps_next
    | with_reducible apply State.harrowCtrl_keeps
    | with_reducible apply State.gateWrite_keeps
    | with_reducible apply outKeeps_ite
    | with_reducible apply ite_keeps
    | with_reducible refine keeps_snd (by assumption) ?_
    | with_reducible refine keeps_snd2 (by assumption) ?_
    | with_reducible assumption
    | trivial
    | split
    | dsimp only
    | dsimp only [id]

theorem execAlmanacRead_keeps {s0 s : State} (hk : Keeps s0 s) (u : Fin 64) (v : Word32) (got : Option (List Byte)) :
    OutKeeps s0 (execAlmanacRead u v got s) := by
  unfold execAlmanacRead
  try dsimp only
  repeat' first
    | intro _
    | with_reducible exact hk
    | with_reducible apply outKeeps_next
    | with_reducible apply State.selectEntry_keeps
    | with_reducible apply State.gateWrite_keeps
    | with_reducible apply outKeeps_ite
    | with_reducible apply ite_keeps
    | with_reducible refine keeps_snd (by assumption) ?_
    | with_reducible refine keeps_snd2 (by assumption) ?_
    | with_reducible assumption
    | trivial
    | split
    | dsimp only
    | dsimp only [id]

theorem execAlmanacClassify_keeps {s0 s : State} (hk : Keeps s0 s) (u : Fin 64) (v : Word32) :
    OutKeeps s0 (execAlmanacClassify u v s) := by
  unfold execAlmanacClassify
  try dsimp only
  repeat' first
    | intro _
    | with_reducible exact hk
    | with_reducible apply outKeeps_next
    | with_reducible apply State.selectClass_keeps
    | with_reducible apply State.gateWrite_keeps
    | with_reducible apply outKeeps_ite
    | with_reducible apply ite_keeps
    | with_reducible refine keeps_snd (by assumption) ?_
    | with_reducible refine keeps_snd2 (by assumption) ?_
    | with_reducible assumption
    | trivial
    | split
    | dsimp only
    | dsimp only [id]

theorem execRetire_keeps {s0 s : State} (hk : Keeps s0 s) (q : Fin 8192) (m : Meas) :
    OutKeeps s0 (execRetire q m s) := by
  unfold execRetire
  try dsimp only
  repeat' first
    | intro _
    | with_reducible exact hk
    | with_reducible apply outKeeps_next
    | with_reducible apply State.furrowEntry_keeps
    | with_reducible apply State.retireFurrow_keeps
    | with_reducible apply runCmd_keeps
    | with_reducible apply thenOk_keeps
    | with_reducible apply begun_ok
    | with_reducible apply begun_stop
    | with_reducible apply argsThen_keeps
    | with_reducible apply begun_stop
    | with_reducible apply begun_wait
    | with_reducible apply begun_ok
    | with_reducible apply begun_run
    | with_reducible apply begun_ite
    | with_reducible apply stepArgs_keeps
    | with_reducible apply launchBody_keeps
    | with_reducible apply State.servingOnly_keeps
    | with_reducible apply State.startCopy_keeps
    | with_reducible apply hk
    | with_reducible apply outKeeps_ite
    | with_reducible apply ite_keeps
    | with_reducible refine keeps_snd (by assumption) ?_
    | with_reducible refine keeps_snd2 (by assumption) ?_
    | with_reducible assumption
    | trivial
    | split
    | dsimp only
    | dsimp only [id]

theorem execRemap_keeps {s0 s : State} (hk : Keeps s0 s) (q : Fin 8192) (m : Meas) : OutKeeps s0 (execRemap q m s) := by
  unfold execRemap
  refine runCmd_keeps hk _ _ _ fun w seq => argsThen_keeps _ (begun_ite (begun_stop _ _) (begun_ite (begun_stop _ _) ?_))
  refine begun_ok _ _ fun t h => State.furrowEntry_keeps (State.installSpare_keeps ?_ _ _ _) _ _ _ _ _
  split
  · exact State.retireFurrow_keeps h _ _
  · exact h

theorem execExpel_keeps {s0 s : State} (hk : Keeps s0 s) (q : Fin 8192) (host : Option (List Byte)) (sigs : List
    Verified) (m : Meas) :
    OutKeeps s0 (execExpel q host sigs m s) := by
  unfold execExpel
  try dsimp only
  repeat' first
    | intro _
    | with_reducible exact hk
    | with_reducible apply outKeeps_next
    | with_reducible apply runCmd_keeps
    | with_reducible apply begun_ok
    | with_reducible apply begun_stop
    | with_reducible apply argsThen_keeps
    | with_reducible apply begun_stop
    | with_reducible apply begun_wait
    | with_reducible apply begun_ok
    | with_reducible apply begun_run
    | with_reducible apply begun_ite
    | with_reducible apply stepArgs_keeps
    | with_reducible apply launchBody_keeps
    | with_reducible apply State.servingOnly_keeps
    | with_reducible apply State.startCopy_keeps
    | with_reducible apply hk
    | with_reducible apply State.signedBegun_keeps
    | with_reducible apply outKeeps_ite
    | with_reducible apply ite_keeps
    | with_reducible refine keeps_snd (by assumption) ?_
    | with_reducible refine keeps_snd2 (by assumption) ?_
    | with_reducible assumption
    | trivial
    | split
    | dsimp only
    | dsimp only [id]

theorem execRejoin_keeps {s0 s : State} (hk : Keeps s0 s) (q : Fin 8192) (host : Option (List Byte)) (sigs : List
    Verified) (m : Meas) :
    OutKeeps s0 (execRejoin q host sigs m s) := by
  unfold execRejoin
  try dsimp only
  repeat' first
    | intro _
    | with_reducible exact hk
    | with_reducible apply outKeeps_next
    | with_reducible apply runCmd_keeps
    | with_reducible apply begun_ok
    | with_reducible apply begun_stop
    | with_reducible apply argsThen_keeps
    | with_reducible apply begun_stop
    | with_reducible apply begun_wait
    | with_reducible apply begun_ok
    | with_reducible apply begun_run
    | with_reducible apply begun_ite
    | with_reducible apply stepArgs_keeps
    | with_reducible apply launchBody_keeps
    | with_reducible apply State.servingOnly_keeps
    | with_reducible apply State.startCopy_keeps
    | with_reducible apply hk
    | with_reducible apply State.signedBegun_keeps
    | with_reducible apply outKeeps_ite
    | with_reducible apply ite_keeps
    | with_reducible refine keeps_snd (by assumption) ?_
    | with_reducible refine keeps_snd2 (by assumption) ?_
    | with_reducible assumption
    | trivial
    | split
    | dsimp only
    | dsimp only [id]

theorem execManagerKeys_keeps {s0 s : State} (hk : Keeps s0 s) (q : Fin 8192) (host : Option (List Byte)) (sigs : List
    Verified) (flashOk : Bool) (m : Meas) :
    OutKeeps s0 (execManagerKeys q host sigs flashOk m s) := by
  unfold execManagerKeys
  try dsimp only
  repeat' first
    | intro _
    | with_reducible exact hk
    | with_reducible apply outKeeps_next
    | with_reducible apply runCmd_keeps
    | with_reducible apply begun_ok
    | with_reducible apply begun_stop
    | with_reducible apply argsThen_keeps
    | with_reducible apply begun_stop
    | with_reducible apply begun_wait
    | with_reducible apply begun_ok
    | with_reducible apply begun_run
    | with_reducible apply begun_ite
    | with_reducible apply stepArgs_keeps
    | with_reducible apply launchBody_keeps
    | with_reducible apply State.servingOnly_keeps
    | with_reducible apply State.startCopy_keeps
    | with_reducible apply hk
    | with_reducible apply State.signedBegun_keeps
    | with_reducible apply outKeeps_ite
    | with_reducible apply ite_keeps
    | with_reducible refine keeps_snd (by assumption) ?_
    | with_reducible refine keeps_snd2 (by assumption) ?_
    | with_reducible assumption
    | trivial
    | split
    | dsimp only
    | dsimp only [id]

theorem execMgmtPacket_keeps {s0 s : State} (hk : Keeps s0 s) (p : Fin 12) (vc : Fin 2) (sigs : List Verified)
    (flashOk : Bool) (m : Meas) :
    OutKeeps s0 (execMgmtPacket p vc sigs flashOk m s) := by
  unfold execMgmtPacket
  try dsimp only
  repeat' first
    | intro _
    | with_reducible exact hk
    | with_reducible apply outKeeps_next
    | with_reducible apply State.takeFragment_keeps
    | with_reducible apply State.consume_keeps
    | with_reducible apply outKeeps_ite
    | with_reducible apply ite_keeps
    | with_reducible refine keeps_snd (by assumption) ?_
    | with_reducible refine keeps_snd2 (by assumption) ?_
    | with_reducible assumption
    | trivial
    | split
    | dsimp only
    | dsimp only [id]
    | with_reducible apply keeps_mk

theorem execMgmtReassemblyTimeout_keeps {s0 s : State} (hk : Keeps s0 s) (i : Fin 4) :
    OutKeeps s0 (execMgmtReassemblyTimeout i s) := by
  unfold execMgmtReassemblyTimeout
  try dsimp only
  repeat' first
    | intro _
    | with_reducible exact hk
    | with_reducible apply outKeeps_next
    | with_reducible apply State.bump_keeps
    | with_reducible apply outKeeps_ite
    | with_reducible apply ite_keeps
    | with_reducible refine keeps_snd (by assumption) ?_
    | with_reducible refine keeps_snd2 (by assumption) ?_
    | with_reducible assumption
    | trivial
    | split
    | dsimp only
    | dsimp only [id]
    | with_reducible apply keeps_mk

theorem execPowerSample_keeps {s0 s : State} (hk : Keeps s0 s) (x : PowerIn) :
    OutKeeps s0 (execPowerSample x s) := by
  unfold execPowerSample
  try dsimp only
  repeat' first
    | intro _
    | with_reducible exact hk
    | with_reducible apply outKeeps_next
    | with_reducible apply State.notePower_keeps
    | with_reducible apply State.dropCond_keeps
    | with_reducible apply State.brakeAfter_keeps
    | with_reducible apply State.addSample_keeps
    | with_reducible apply State.applyDuty_keeps
    | with_reducible apply State.raiseSrc_keeps
    | with_reducible apply State.raiseCond_keeps
    | with_reducible apply State.showPower_keeps
    | with_reducible apply outKeeps_ite
    | with_reducible apply ite_keeps
    | with_reducible refine keeps_snd (by assumption) ?_
    | with_reducible refine keeps_snd2 (by assumption) ?_
    | with_reducible assumption
    | trivial
    | split
    | dsimp only
    | dsimp only [id]

theorem execThrottleEval_keeps {s0 s : State} (hk : Keeps s0 s) (draw : BitVec 16) (k : Fin 40) :
    OutKeeps s0 (execThrottleEval draw k s) := by
  unfold execThrottleEval
  try dsimp only
  repeat' first
    | intro _
    | with_reducible exact hk
    | with_reducible apply outKeeps_next
    | with_reducible apply State.notePower_keeps
    | with_reducible apply State.draw_keeps
    | with_reducible apply State.applyDuty_keeps
    | with_reducible apply outKeeps_ite
    | with_reducible apply ite_keeps
    | with_reducible refine keeps_snd (by assumption) ?_
    | with_reducible refine keeps_snd2 (by assumption) ?_
    | with_reducible assumption
    | trivial
    | split
    | dsimp only
    | dsimp only [id]
    | with_reducible apply keeps_mk

theorem execClockLevelStep_keeps {s0 s : State} (hk : Keeps s0 s) (f : Fin 4) :
    OutKeeps s0 (execClockLevelStep f s) := by
  unfold execClockLevelStep
  try dsimp only
  repeat' first
    | intro _
    | with_reducible exact hk
    | with_reducible apply outKeeps_next
    | with_reducible apply State.wf_keeps
    | with_reducible apply outKeeps_ite
    | with_reducible apply ite_keeps
    | with_reducible refine keeps_snd (by assumption) ?_
    | with_reducible refine keeps_snd2 (by assumption) ?_
    | with_reducible assumption
    | trivial
    | split
    | dsimp only
    | dsimp only [id]

theorem execPwrBrakeAssert_keeps {s0 s : State} (hk : Keeps s0 s)  :
    OutKeeps s0 (execPwrBrakeAssert  s) := by
  unfold execPwrBrakeAssert
  try dsimp only
  repeat' first
    | intro _
    | with_reducible exact hk
    | with_reducible apply outKeeps_next
    | with_reducible apply State.notePower_keeps
    | with_reducible apply State.bump_keeps
    | with_reducible apply State.applyDuty_keeps
    | with_reducible apply outKeeps_ite
    | with_reducible apply ite_keeps
    | with_reducible refine keeps_snd (by assumption) ?_
    | with_reducible refine keeps_snd2 (by assumption) ?_
    | with_reducible assumption
    | trivial
    | split
    | dsimp only
    | dsimp only [id]
    | with_reducible apply keeps_mk

theorem execPwrBrakeRelease_keeps {s0 s : State} (hk : Keeps s0 s)  :
    OutKeeps s0 (execPwrBrakeRelease  s) := by
  unfold execPwrBrakeRelease
  try dsimp only
  repeat' first
    | intro _
    | with_reducible exact hk
    | with_reducible apply outKeeps_next
    | with_reducible apply State.notePower_keeps
    | with_reducible apply State.applyDuty_keeps
    | with_reducible apply outKeeps_ite
    | with_reducible apply ite_keeps
    | with_reducible refine keeps_snd (by assumption) ?_
    | with_reducible refine keeps_snd2 (by assumption) ?_
    | with_reducible assumption
    | trivial
    | split
    | dsimp only
    | dsimp only [id]
    | with_reducible apply keeps_mk

theorem execAllotWrite_keeps {s0 s : State} (hk : Keeps s0 s) (u : Fin 64) (v : Word32) :
    OutKeeps s0 (execAllotWrite u v s) := by
  unfold execAllotWrite
  try dsimp only
  repeat' first
    | intro _
    | with_reducible exact hk
    | with_reducible apply outKeeps_next
    | with_reducible apply State.setAllot_keeps
    | with_reducible apply State.gateWrite_keeps
    | with_reducible apply outKeeps_ite
    | with_reducible apply ite_keeps
    | with_reducible refine keeps_snd (by assumption) ?_
    | with_reducible refine keeps_snd2 (by assumption) ?_
    | with_reducible assumption
    | trivial
    | split
    | dsimp only
    | dsimp only [id]

theorem execPlanCapWrite_keeps {s0 s : State} (hk : Keeps s0 s) (u : Fin 64) (v : Word32) :
    OutKeeps s0 (execPlanCapWrite u v s) := by
  unfold execPlanCapWrite
  try dsimp only
  repeat' first
    | intro _
    | with_reducible exact hk
    | with_reducible apply outKeeps_next
    | with_reducible apply State.planCap_keeps
    | with_reducible apply State.gateWrite_keeps
    | with_reducible apply outKeeps_ite
    | with_reducible apply ite_keeps
    | with_reducible refine keeps_snd (by assumption) ?_
    | with_reducible refine keeps_snd2 (by assumption) ?_
    | with_reducible assumption
    | trivial
    | split
    | dsimp only
    | dsimp only [id]

theorem execFcAlignWrite_keeps {s0 s : State} (hk : Keeps s0 s) (u : Fin 64) (v : Word32) :
    OutKeeps s0 (execFcAlignWrite u v s) := by
  unfold execFcAlignWrite
  try dsimp only
  repeat' first
    | intro _
    | with_reducible exact hk
    | with_reducible apply outKeeps_next
    | with_reducible apply State.setAlign_keeps
    | with_reducible apply State.gateWrite_keeps
    | with_reducible apply outKeeps_ite
    | with_reducible apply ite_keeps
    | with_reducible refine keeps_snd (by assumption) ?_
    | with_reducible refine keeps_snd2 (by assumption) ?_
    | with_reducible assumption
    | trivial
    | split
    | dsimp only
    | dsimp only [id]

theorem execMinuteBoundary_keeps {s0 s : State} (hk : Keeps s0 s)  :
    OutKeeps s0 (execMinuteBoundary  s) := by
  unfold execMinuteBoundary
  try dsimp only
  repeat' first
    | intro _
    | with_reducible exact hk
    | with_reducible apply outKeeps_next
    | with_reducible apply State.dueBoundary_keeps
    | with_reducible apply outKeeps_ite
    | with_reducible apply ite_keeps
    | with_reducible refine keeps_snd (by assumption) ?_
    | with_reducible refine keeps_snd2 (by assumption) ?_
    | with_reducible assumption
    | trivial
    | split
    | dsimp only
    | dsimp only [id]

theorem execThermalControl_keeps {s0 s : State} (hk : Keeps s0 s) (d : Fin 24) (t : BitVec 8) (lvl : Fin 33) (tin :
    BitVec 8) (tout : BitVec 8) :
    OutKeeps s0 (execThermalControl d t lvl tin tout s) := by
  unfold execThermalControl
  try dsimp only
  repeat' first
    | intro _
    | with_reducible exact hk
    | with_reducible apply outKeeps_next
    | with_reducible apply State.showTemp_keeps
    | with_reducible apply State.showAbove_keeps
    | with_reducible apply State.wf_keeps
    | with_reducible apply outKeeps_ite
    | with_reducible apply ite_keeps
    | with_reducible refine keeps_snd (by assumption) ?_
    | with_reducible refine keeps_snd2 (by assumption) ?_
    | with_reducible assumption
    | trivial
    | split
    | dsimp only
    | dsimp only [id]
    | with_reducible apply keeps_mk

theorem execThermalTrip_keeps {s0 s : State} (hk : Keeps s0 s) (d : Fin 24) (t : BitVec 8) :
    OutKeeps s0 (execThermalTrip d t s) := by
  unfold execThermalTrip
  try dsimp only
  repeat' first
    | intro _
    | with_reducible exact hk
    | with_reducible apply outKeeps_next
    | with_reducible apply State.notePower_keeps
    | with_reducible apply State.showTemp_keeps
    | with_reducible apply State.noteTrip_keeps
    | with_reducible apply State.applyDuty_keeps
    | with_reducible apply State.raiseCond_keeps
    | with_reducible apply outKeeps_ite
    | with_reducible apply ite_keeps
    | with_reducible refine keeps_snd (by assumption) ?_
    | with_reducible refine keeps_snd2 (by assumption) ?_
    | with_reducible assumption
    | trivial
    | split
    | dsimp only
    | dsimp only [id]
    | with_reducible apply keeps_mk

theorem execThermalTripEnd_keeps {s0 s : State} (hk : Keeps s0 s) (d : Fin 24) (t : BitVec 8) :
    OutKeeps s0 (execThermalTripEnd d t s) := by
  unfold execThermalTripEnd
  try dsimp only
  repeat' first
    | intro _
    | with_reducible exact hk
    | with_reducible apply outKeeps_next
    | with_reducible apply State.notePower_keeps
    | with_reducible apply State.showTemp_keeps
    | with_reducible apply State.condIs_keeps
    | with_reducible apply State.admitAll_keeps
    | with_reducible apply State.applyDuty_keeps
    | with_reducible apply outKeeps_ite
    | with_reducible apply ite_keeps
    | with_reducible refine keeps_snd (by assumption) ?_
    | with_reducible refine keeps_snd2 (by assumption) ?_
    | with_reducible assumption
    | trivial
    | split
    | dsimp only
    | dsimp only [id]
    | with_reducible apply keeps_mk

theorem execAnalogTrip_keeps {s0 s : State} (hk : Keeps s0 s) (d : Fin 24) (on : Bool) :
    OutKeeps s0 (execAnalogTrip d on s) := by
  unfold execAnalogTrip
  try dsimp only
  repeat' first
    | intro _
    | with_reducible exact hk
    | with_reducible apply outKeeps_next
    | with_reducible apply State.notePower_keeps
    | with_reducible apply State.noteTrip_keeps
    | with_reducible apply outKeeps_ite
    | with_reducible apply ite_keeps
    | with_reducible refine keeps_snd (by assumption) ?_
    | with_reducible refine keeps_snd2 (by assumption) ?_
    | with_reducible assumption
    | trivial
    | split
    | dsimp only
    | dsimp only [id]
    | with_reducible apply keeps_mk

theorem execPllWindow_keeps {s0 s : State} (hk : Keeps s0 s) (i : Fin 18) (n : BitVec 15) (meter : BitVec 15) :
    OutKeeps s0 (execPllWindow i n meter s) := by
  unfold execPllWindow
  try dsimp only
  repeat' first
    | intro _
    | with_reducible exact hk
    | with_reducible apply outKeeps_next
    | with_reducible apply State.pllLost_keeps
    | with_reducible apply State.showMeter_keeps
    | with_reducible apply State.wf_keeps
    | with_reducible apply outKeeps_ite
    | with_reducible apply ite_keeps
    | with_reducible refine keeps_snd (by assumption) ?_
    | with_reducible refine keeps_snd2 (by assumption) ?_
    | with_reducible assumption
    | trivial
    | split
    | dsimp only
    | dsimp only [id]
    | with_reducible apply keeps_mk

theorem execPllLockTimeout_keeps {s0 s : State} (hk : Keeps s0 s) (i : Fin 18) :
    OutKeeps s0 (execPllLockTimeout i s) := by
  unfold execPllLockTimeout
  try dsimp only
  repeat' first
    | intro _
    | with_reducible exact hk
    | with_reducible apply outKeeps_next
    | with_reducible apply State.pllLost_keeps
    | with_reducible apply outKeeps_ite
    | with_reducible apply ite_keeps
    | with_reducible refine keeps_snd (by assumption) ?_
    | with_reducible refine keeps_snd2 (by assumption) ?_
    | with_reducible assumption
    | trivial
    | split
    | dsimp only
    | dsimp only [id]

theorem execClkGateWrite_keeps {s0 s : State} (hk : Keeps s0 s) (u : Fin 64) (a : BitVec 27) (v : Word32) :
    OutKeeps s0 (execClkGateWrite u a v s) := by
  unfold execClkGateWrite
  try dsimp only
  repeat' first
    | intro _
    | with_reducible exact hk
    | with_reducible apply outKeeps_next
    | with_reducible apply State.clkGate_keeps
    | with_reducible apply State.gateWrite_keeps
    | with_reducible apply outKeeps_ite
    | with_reducible apply ite_keeps
    | with_reducible refine keeps_snd (by assumption) ?_
    | with_reducible refine keeps_snd2 (by assumption) ?_
    | with_reducible assumption
    | trivial
    | split
    | dsimp only
    | dsimp only [id]

theorem execClkOutWrite_keeps {s0 s : State} (hk : Keeps s0 s) (u : Fin 64) (v : Word32) :
    OutKeeps s0 (execClkOutWrite u v s) := by
  unfold execClkOutWrite
  try dsimp only
  repeat' first
    | intro _
    | with_reducible exact hk
    | with_reducible apply outKeeps_next
    | with_reducible apply State.clkOut_keeps
    | with_reducible apply State.gateWrite_keeps
    | with_reducible apply outKeeps_ite
    | with_reducible apply ite_keeps
    | with_reducible refine keeps_snd (by assumption) ?_
    | with_reducible refine keeps_snd2 (by assumption) ?_
    | with_reducible assumption
    | trivial
    | split
    | dsimp only
    | dsimp only [id]

theorem execArraySleep_keeps {s0 s : State} (hk : Keeps s0 s) (f : Fin 4) (n : Fin 26) (j : Fin 4) :
    OutKeeps s0 (execArraySleep f n j s) := by
  unfold execArraySleep
  try dsimp only
  repeat' first
    | intro _
    | with_reducible exact hk
    | with_reducible apply outKeeps_next
    | with_reducible apply outKeeps_ite
    | with_reducible apply ite_keeps
    | with_reducible refine keeps_snd (by assumption) ?_
    | with_reducible refine keeps_snd2 (by assumption) ?_
    | with_reducible assumption
    | trivial
    | split
    | dsimp only
    | dsimp only [id]
    | with_reducible apply keeps_mk

theorem execFurrowSleep_keeps {s0 s : State} (hk : Keeps s0 s) (f : Fin 4) (n : Fin 26) :
    OutKeeps s0 (execFurrowSleep f n s) := by
  unfold execFurrowSleep
  try dsimp only
  repeat' first
    | intro _
    | with_reducible exact hk
    | with_reducible apply outKeeps_next
    | with_reducible apply outKeeps_ite
    | with_reducible apply ite_keeps
    | with_reducible refine keeps_snd (by assumption) ?_
    | with_reducible refine keeps_snd2 (by assumption) ?_
    | with_reducible assumption
    | trivial
    | split
    | dsimp only
    | dsimp only [id]
    | with_reducible apply keeps_mk

theorem execFieldSleep_keeps {s0 s : State} (hk : Keeps s0 s) (f : Fin 4) :
    OutKeeps s0 (execFieldSleep f s) := by
  unfold execFieldSleep
  try dsimp only
  repeat' first
    | intro _
    | with_reducible exact hk
    | with_reducible apply outKeeps_next
    | with_reducible apply State.stopPll_keeps
    | with_reducible apply State.wf_keeps
    | with_reducible refine foldl_keeps ?_ ?_
    | with_reducible apply outKeeps_ite
    | with_reducible apply ite_keeps
    | with_reducible refine keeps_snd (by assumption) ?_
    | with_reducible refine keeps_snd2 (by assumption) ?_
    | with_reducible assumption
    | trivial
    | split
    | dsimp only
    | dsimp only [id]

theorem execFurrowWake_keeps {s0 s : State} (hk : Keeps s0 s) (f : Fin 4) (n : Fin 26) :
    OutKeeps s0 (execFurrowWake f n s) := by
  unfold execFurrowWake
  try dsimp only
  repeat' first
    | intro _
    | with_reducible exact hk
    | with_reducible apply outKeeps_next
    | with_reducible apply outKeeps_ite
    | with_reducible apply ite_keeps
    | with_reducible refine keeps_snd (by assumption) ?_
    | with_reducible refine keeps_snd2 (by assumption) ?_
    | with_reducible assumption
    | trivial
    | split
    | dsimp only
    | dsimp only [id]
    | with_reducible apply keeps_mk

theorem execFieldWake_keeps {s0 s : State} (hk : Keeps s0 s) (f : Fin 4) (failing : List (Fin 5)) (rings : Rings) :
    OutKeeps s0 (execFieldWake f failing rings s) := by
  unfold execFieldWake
  try dsimp only
  repeat' first
    | intro _
    | with_reducible exact hk
    | with_reducible apply outKeeps_next
    | with_reducible apply State.failReset_keeps
    | with_reducible apply State.endReset_keeps
    | with_reducible apply State.startPll_keeps
    | with_reducible apply State.admitAll_keeps
    | with_reducible apply State.fieldUp_keeps
    | with_reducible apply State.wf_keeps
    | with_reducible refine foldl_keeps ?_ ?_
    | with_reducible apply outKeeps_ite
    | with_reducible apply ite_keeps
    | with_reducible refine keeps_snd (by assumption) ?_
    | with_reducible refine keeps_snd2 (by assumption) ?_
    | with_reducible assumption
    | trivial
    | split
    | dsimp only
    | dsimp only [id]

theorem execUpdateBegin_keeps {s0 s : State} (hk : Keeps s0 s) (u : Fin 64) (v : Word32) (sigs : List Verified)
    (flashOk : Bool) :
    OutKeeps s0 (execUpdateBegin u v sigs flashOk s) := by
  unfold execUpdateBegin
  try dsimp only
  repeat' first
    | intro _
    | with_reducible exact hk
    | with_reducible apply outKeeps_next
    | with_reducible apply State.updCtrl_keeps
    | with_reducible apply State.gateWrite_keeps
    | with_reducible apply outKeeps_ite
    | with_reducible apply ite_keeps
    | with_reducible refine keeps_snd (by assumption) ?_
    | with_reducible refine keeps_snd2 (by assumption) ?_
    | with_reducible assumption
    | trivial
    | split
    | dsimp only
    | dsimp only [id]

theorem execUpdateData_keeps {s0 s : State} (hk : Keeps s0 s) (u : Fin 64) (v : Word32) :
    OutKeeps s0 (execUpdateData u v s) := by
  unfold execUpdateData
  try dsimp only
  repeat' first
    | intro _
    | with_reducible exact hk
    | with_reducible apply outKeeps_next
    | with_reducible apply State.updCtrl_keeps
    | with_reducible apply State.gateWrite_keeps
    | with_reducible apply outKeeps_ite
    | with_reducible apply ite_keeps
    | with_reducible refine keeps_snd (by assumption) ?_
    | with_reducible refine keeps_snd2 (by assumption) ?_
    | with_reducible assumption
    | trivial
    | split
    | dsimp only
    | dsimp only [id]

theorem execUpdateFinish_keeps {s0 s : State} (hk : Keeps s0 s) (u : Fin 64) (v : Word32) (flashOk : Bool) :
    OutKeeps s0 (execUpdateFinish u v flashOk s) := by
  unfold execUpdateFinish
  try dsimp only
  repeat' first
    | intro _
    | with_reducible exact hk
    | with_reducible apply outKeeps_next
    | with_reducible apply State.updCtrl_keeps
    | with_reducible apply State.gateWrite_keeps
    | with_reducible apply outKeeps_ite
    | with_reducible apply ite_keeps
    | with_reducible refine keeps_snd (by assumption) ?_
    | with_reducible refine keeps_snd2 (by assumption) ?_
    | with_reducible assumption
    | trivial
    | split
    | dsimp only
    | dsimp only [id]

theorem execUpdateCancel_keeps {s0 s : State} (hk : Keeps s0 s) (u : Fin 64) (v : Word32) :
    OutKeeps s0 (execUpdateCancel u v s) := by
  unfold execUpdateCancel
  try dsimp only
  repeat' first
    | intro _
    | with_reducible exact hk
    | with_reducible apply outKeeps_next
    | with_reducible apply State.updCtrl_keeps
    | with_reducible apply State.gateWrite_keeps
    | with_reducible apply outKeeps_ite
    | with_reducible apply ite_keeps
    | with_reducible refine keeps_snd (by assumption) ?_
    | with_reducible refine keeps_snd2 (by assumption) ?_
    | with_reducible assumption
    | trivial
    | split
    | dsimp only
    | dsimp only [id]

theorem execSvnCommit_keeps {s0 s : State} (hk : Keeps s0 s) (u : Fin 64) (v : Word32) :
    OutKeeps s0 (execSvnCommit u v s) := by
  unfold execSvnCommit
  try dsimp only
  repeat' first
    | intro _
    | with_reducible exact hk
    | with_reducible apply outKeeps_next
    | with_reducible apply State.secCtrl_keeps
    | with_reducible apply State.gateWrite_keeps
    | with_reducible apply outKeeps_ite
    | with_reducible apply ite_keeps
    | with_reducible refine keeps_snd (by assumption) ?_
    | with_reducible refine keeps_snd2 (by assumption) ?_
    | with_reducible assumption
    | trivial
    | split
    | dsimp only
    | dsimp only [id]

theorem execFuseBurnDone_keeps {s0 s : State} (hk : Keeps s0 s) (ok : Bool) : OutKeeps s0 (execFuseBurnDone ok s) := by
  unfold execFuseBurnDone
  refine outKeeps_ite hk (outKeeps_ite ?_ (State.raiseSrc_keeps (State.wf_keeps hk _ _) _ _))
  have h := State.wf_keeps hk R.SEC_STAT_BURNING 0
  refine ⟨h.pending, h.fuses.trans ⟨Nat.le_max_left _ _, fun i hi => ?_, rfl, rfl, rfl⟩, fun c => ?_⟩
  · simp only [Nat.testBit_or, Bool.or_eq_true]
    exact .inl hi
  · let k := h.canon c
    exact { k with regs := k.regs }

theorem execKeyLoad_keeps {s0 s : State} (hk : Keeps s0 s) (u : Fin 64) (v : Word32) :
    OutKeeps s0 (execKeyLoad u v s) := by
  unfold execKeyLoad
  try dsimp only
  repeat' first
    | intro _
    | with_reducible exact hk
    | with_reducible apply outKeeps_next
    | with_reducible apply State.keyCmd_keeps
    | with_reducible apply State.gateWrite_keeps
    | with_reducible apply outKeeps_ite
    | with_reducible apply ite_keeps
    | with_reducible refine keeps_snd (by assumption) ?_
    | with_reducible refine keeps_snd2 (by assumption) ?_
    | with_reducible assumption
    | trivial
    | split
    | dsimp only
    | dsimp only [id]

theorem execKeyClear_keeps {s0 s : State} (hk : Keeps s0 s) (u : Fin 64) (v : Word32) :
    OutKeeps s0 (execKeyClear u v s) := by
  unfold execKeyClear
  try dsimp only
  repeat' first
    | intro _
    | with_reducible exact hk
    | with_reducible apply outKeeps_next
    | with_reducible apply State.keyCmd_keeps
    | with_reducible apply State.gateWrite_keeps
    | with_reducible apply outKeeps_ite
    | with_reducible apply ite_keeps
    | with_reducible refine keeps_snd (by assumption) ?_
    | with_reducible refine keeps_snd2 (by assumption) ?_
    | with_reducible assumption
    | trivial
    | split
    | dsimp only
    | dsimp only [id]

theorem execDebugToken_keeps {s0 s : State} (hk : Keeps s0 s) (u : Fin 64) (v : Word32) (sigs : List Verified) :
    OutKeeps s0 (execDebugToken u v sigs s) := by
  unfold execDebugToken
  try dsimp only
  repeat' first
    | intro _
    | with_reducible exact hk
    | with_reducible apply outKeeps_next
    | with_reducible apply State.dbgCtrl_keeps
    | with_reducible apply State.gateWrite_keeps
    | with_reducible apply outKeeps_ite
    | with_reducible apply ite_keeps
    | with_reducible refine keeps_snd (by assumption) ?_
    | with_reducible refine keeps_snd2 (by assumption) ?_
    | with_reducible assumption
    | trivial
    | split
    | dsimp only
    | dsimp only [id]

theorem execJtagAccess_keeps {s0 s : State} (hk : Keeps s0 s) (op : TapOp) :
    OutKeeps s0 (execJtagAccess op s) := by
  unfold execJtagAccess
  try dsimp only
  repeat' first
    | intro _
    | with_reducible exact hk
    | with_reducible apply outKeeps_next
    | with_reducible apply State.fresh_keeps
    | with_reducible apply outKeeps_ite
    | with_reducible apply ite_keeps
    | with_reducible refine keeps_snd (by assumption) ?_
    | with_reducible refine keeps_snd2 (by assumption) ?_
    | with_reducible assumption
    | trivial
    | split
    | dsimp only
    | dsimp only [id]
    | with_reducible apply keeps_mk

theorem execDoeAttest_keeps {s0 s : State} (hk : Keeps s0 s) (req : DoeRequest) :
    OutKeeps s0 (execDoeAttest req s) := by
  unfold execDoeAttest
  try dsimp only
  repeat' first
    | intro _
    | with_reducible exact hk
    | with_reducible apply outKeeps_next
    | with_reducible apply State.attest_keeps
    | with_reducible apply State.doeAnswer_keeps
    | with_reducible apply State.discovery_keeps
    | with_reducible apply outKeeps_ite
    | with_reducible apply ite_keeps
    | with_reducible refine keeps_snd (by assumption) ?_
    | with_reducible refine keeps_snd2 (by assumption) ?_
    | with_reducible assumption
    | trivial
    | split
    | dsimp only
    | dsimp only [id]
    | with_reducible apply keeps_mk

theorem execIdeKeyMessage_keeps {s0 s : State} (hk : Keeps s0 s) (req : List Byte) :
    OutKeeps s0 (execIdeKeyMessage req s) := by
  unfold execIdeKeyMessage
  try dsimp only
  repeat' first
    | intro _
    | with_reducible exact hk
    | with_reducible apply outKeeps_next
    | with_reducible apply State.ideUse_keeps
    | with_reducible apply State.ideFail_keeps
    | with_reducible apply State.ideDerive_keeps
    | with_reducible apply State.ideStart_keeps
    | with_reducible apply outKeeps_ite
    | with_reducible apply ite_keeps
    | with_reducible refine keeps_snd (by assumption) ?_
    | with_reducible refine keeps_snd2 (by assumption) ?_
    | with_reducible assumption
    | trivial
    | split
    | dsimp only
    | dsimp only [id]

theorem execDeviceReset_keeps {s0 s : State} (hk : Keeps s0 s) (why : ResetCause) :
    OutKeeps s0 (execDeviceReset why s) := by
  unfold execDeviceReset
  try dsimp only
  repeat' first
    | intro _
    | with_reducible exact hk
    | with_reducible apply outKeeps_next
    | with_reducible apply State.deviceReset_keeps
    | with_reducible apply outKeeps_ite
    | with_reducible apply ite_keeps
    | with_reducible refine keeps_snd (by assumption) ?_
    | with_reducible refine keeps_snd2 (by assumption) ?_
    | with_reducible assumption
    | trivial
    | split
    | dsimp only
    | dsimp only [id]
    | with_reducible apply keeps_mk

theorem execPowerLoss_keeps {s0 s : State} (hk : Keeps s0 s) (why : LossCause) :
    OutKeeps s0 (execPowerLoss why s) := by
  unfold execPowerLoss
  try dsimp only
  repeat' first
    | intro _
    | with_reducible exact hk
    | with_reducible apply outKeeps_next
    | with_reducible apply State.deviceReset_keeps
    | with_reducible apply outKeeps_ite
    | with_reducible apply ite_keeps
    | with_reducible refine keeps_snd (by assumption) ?_
    | with_reducible refine keeps_snd2 (by assumption) ?_
    | with_reducible assumption
    | trivial
    | split
    | dsimp only
    | dsimp only [id]
    | with_reducible apply keeps_mk

theorem execConverterStart_keeps {s0 s : State} (hk : Keeps s0 s)  :
    OutKeeps s0 (execConverterStart  s) := by
  unfold execConverterStart
  try dsimp only
  repeat' first
    | intro _
    | with_reducible exact hk
    | with_reducible apply outKeeps_next
    | with_reducible apply outKeeps_ite
    | with_reducible apply ite_keeps
    | with_reducible refine keeps_snd (by assumption) ?_
    | with_reducible refine keeps_snd2 (by assumption) ?_
    | with_reducible assumption
    | trivial
    | split
    | dsimp only
    | dsimp only [id]
    | with_reducible apply keeps_mk

theorem execRegulatorFailure_keeps {s0 s : State} (hk : Keeps s0 s)  :
    OutKeeps s0 (execRegulatorFailure  s) := by
  unfold execRegulatorFailure
  try dsimp only
  repeat' first
    | intro _
    | with_reducible exact hk
    | with_reducible apply outKeeps_next
    | with_reducible apply State.raiseFatal_keeps
    | with_reducible apply outKeeps_ite
    | with_reducible apply ite_keeps
    | with_reducible refine keeps_snd (by assumption) ?_
    | with_reducible refine keeps_snd2 (by assumption) ?_
    | with_reducible assumption
    | trivial
    | split
    | dsimp only
    | dsimp only [id]

theorem execControlProcessorWatchdog_keeps {s0 s : State} (hk : Keeps s0 s)  :
    OutKeeps s0 (execControlProcessorWatchdog  s) := by
  unfold execControlProcessorWatchdog
  try dsimp only
  repeat' first
    | intro _
    | with_reducible exact hk
    | with_reducible apply outKeeps_next
    | with_reducible apply State.raiseFatal_keeps
    | with_reducible apply outKeeps_ite
    | with_reducible apply ite_keeps
    | with_reducible refine keeps_snd (by assumption) ?_
    | with_reducible refine keeps_snd2 (by assumption) ?_
    | with_reducible assumption
    | trivial
    | split
    | dsimp only
    | dsimp only [id]

theorem execBootStart_keeps {s0 s : State} (hk : Keeps s0 s) (slot : BitVec 5) :
    OutKeeps s0 (execBootStart slot s) := by
  unfold execBootStart
  try dsimp only
  repeat' first
    | intro _
    | with_reducible exact hk
    | with_reducible apply outKeeps_next
    | with_reducible apply State.wf_keeps
    | with_reducible apply State.leaveStart_keeps
    | with_reducible apply outKeeps_ite
    | with_reducible apply ite_keeps
    | with_reducible refine keeps_snd (by assumption) ?_
    | with_reducible refine keeps_snd2 (by assumption) ?_
    | with_reducible assumption
    | trivial
    | split
    | dsimp only
    | dsimp only [id]
    | with_reducible apply keeps_mk

theorem execMonitorWindow_keeps {s0 s : State} (hk : Keeps s0 s) (n : BitVec 16) (ao : BitVec 15) (osc : BitVec 15) :
    OutKeeps s0 (execMonitorWindow n ao osc s) := by
  unfold execMonitorWindow
  try dsimp only
  repeat' first
    | intro _
    | with_reducible exact hk
    | with_reducible apply outKeeps_next
    | with_reducible apply State.checkFuses_keeps
    | with_reducible apply State.startPll_keeps
    | with_reducible apply State.bump_keeps
    | with_reducible apply State.showMeter_keeps
    | with_reducible apply State.fallback_keeps
    | with_reducible apply State.wf_keeps
    | with_reducible apply State.leaveStart_keeps
    | with_reducible apply outKeeps_ite
    | with_reducible apply ite_keeps
    | with_reducible refine keeps_snd (by assumption) ?_
    | with_reducible refine keeps_snd2 (by assumption) ?_
    | with_reducible assumption
    | trivial
    | split
    | dsimp only
    | dsimp only [id]
    | with_reducible apply keeps_mk

theorem execBootVerify_keeps {s0 s : State} (hk : Keeps s0 s) (sigs : List Verified) (flashOk : Bool) :
    OutKeeps s0 (execBootVerify sigs flashOk s) := by
  unfold execBootVerify
  try dsimp only
  repeat' first
    | intro _
    | with_reducible exact hk
    | with_reducible apply outKeeps_next
    | with_reducible apply State.initFirmware_keeps
    | with_reducible apply State.wf_keeps
    | with_reducible apply outKeeps_ite
    | with_reducible apply ite_keeps
    | with_reducible refine keeps_snd (by assumption) ?_
    | with_reducible refine keeps_snd2 (by assumption) ?_
    | with_reducible assumption
    | trivial
    | split
    | dsimp only
    | dsimp only [id]

theorem execBootReady_keeps {s0 s : State} (hk : Keeps s0 s)  :
    OutKeeps s0 (execBootReady  s) := by
  unfold execBootReady
  try dsimp only
  repeat' first
    | intro _
    | with_reducible exact hk
    | with_reducible apply outKeeps_next
    | with_reducible apply State.noteTrip_keeps
    | with_reducible apply State.wf_keeps
    | with_reducible apply outKeeps_ite
    | with_reducible apply ite_keeps
    | with_reducible refine keeps_snd (by assumption) ?_
    | with_reducible refine keeps_snd2 (by assumption) ?_
    | with_reducible assumption
    | trivial
    | split
    | dsimp only
    | dsimp only [id]
    | with_reducible apply keeps_mk

theorem execHostLinkTrain_keeps {s0 s : State} (hk : Keeps s0 s) (speed : Fin 6) (w : LinkWidth) (flit : Bool) :
    OutKeeps s0 (execHostLinkTrain speed w flit s) := by
  unfold execHostLinkTrain
  try dsimp only
  repeat' first
    | intro _
    | with_reducible exact hk
    | with_reducible apply outKeeps_next
    | with_reducible apply State.setReg_keeps
    | with_reducible apply State.wf_keeps
    | with_reducible apply outKeeps_ite
    | with_reducible apply ite_keeps
    | with_reducible refine keeps_snd (by assumption) ?_
    | with_reducible refine keeps_snd2 (by assumption) ?_
    | with_reducible assumption
    | trivial
    | split
    | dsimp only
    | dsimp only [id]

theorem execIdeIntegrityFailure_keeps {s0 s : State} (hk : Keeps s0 s)  :
    OutKeeps s0 (execIdeIntegrityFailure  s) := by
  unfold execIdeIntegrityFailure
  try dsimp only
  repeat' first
    | intro _
    | with_reducible exact hk
    | with_reducible apply outKeeps_next
    | with_reducible apply State.raiseSrc_keeps
    | with_reducible apply outKeeps_ite
    | with_reducible apply ite_keeps
    | with_reducible refine keeps_snd (by assumption) ?_
    | with_reducible refine keeps_snd2 (by assumption) ?_
    | with_reducible assumption
    | trivial
    | split
    | dsimp only
    | dsimp only [id]
    | with_reducible apply keeps_mk

theorem execMsixUnmask_keeps {s0 s : State} (hk : Keeps s0 s) (u : Fin 64) (vec : Fin 2048) :
    OutKeeps s0 (execMsixUnmask u vec s) := by
  unfold execMsixUnmask
  try dsimp only
  repeat' first
    | intro _
    | with_reducible exact hk
    | with_reducible apply outKeeps_next
    | with_reducible apply State.releaseVec_keeps
    | with_reducible apply outKeeps_ite
    | with_reducible apply ite_keeps
    | with_reducible refine keeps_snd (by assumption) ?_
    | with_reducible refine keeps_snd2 (by assumption) ?_
    | with_reducible assumption
    | trivial
    | split
    | dsimp only
    | dsimp only [id]
    | with_reducible apply keeps_mk

theorem execFunctionLevelReset_keeps {s0 s : State} (hk : Keeps s0 s) (u : Fin 64) :
    OutKeeps s0 (execFunctionLevelReset u s) := by
  unfold execFunctionLevelReset
  try dsimp only
  repeat' first
    | intro _
    | with_reducible exact hk
    | with_reducible apply outKeeps_next
    | with_reducible apply State.resetFunction_keeps
    | with_reducible apply outKeeps_ite
    | with_reducible apply ite_keeps
    | with_reducible refine keeps_snd (by assumption) ?_
    | with_reducible refine keeps_snd2 (by assumption) ?_
    | with_reducible assumption
    | trivial
    | split
    | dsimp only
    | dsimp only [id]

theorem execConfigurationWrite_keeps {s0 s : State} (hk : Keeps s0 s) (w : ConfigWrite) :
    OutKeeps s0 (execConfigurationWrite w s) := by
  unfold execConfigurationWrite
  try dsimp only
  repeat' first
    | intro _
    | with_reducible exact hk
    | with_reducible apply outKeeps_next
    | with_reducible apply State.releaseFunc_keeps
    | with_reducible apply State.setVfs_keeps
    | with_reducible apply outKeeps_ite
    | with_reducible apply ite_keeps
    | with_reducible refine keeps_snd (by assumption) ?_
    | with_reducible refine keeps_snd2 (by assumption) ?_
    | with_reducible assumption
    | trivial
    | split
    | dsimp only
    | dsimp only [id]
    | with_reducible apply keeps_mk

theorem execGetStatus_keeps {s0 s : State} (hk : Keeps s0 s) (head : BitVec 32) (p : List Byte) :
    OutKeeps s0 (execGetStatus head p s) := by
  unfold execGetStatus
  try dsimp only
  repeat' first
    | intro _
    | with_reducible exact hk
    | with_reducible apply outKeeps_next
    | with_reducible apply State.vendor_keeps
    | with_reducible apply answerIf_keeps
    | with_reducible apply outKeeps_ite
    | with_reducible apply ite_keeps
    | with_reducible refine keeps_snd (by assumption) ?_
    | with_reducible refine keeps_snd2 (by assumption) ?_
    | with_reducible assumption
    | trivial
    | split
    | dsimp only
    | dsimp only [id]

theorem execSetAllot_keeps {s0 s : State} (hk : Keeps s0 s) (head : BitVec 32) (p : List Byte) :
    OutKeeps s0 (execSetAllot head p s) := by
  unfold execSetAllot
  try dsimp only
  repeat' first
    | intro _
    | with_reducible exact hk
    | with_reducible apply outKeeps_next
    | with_reducible apply State.vendor_keeps
    | with_reducible apply State.setAllot_keeps
    | with_reducible apply answerIf_keeps
    | with_reducible apply outKeeps_ite
    | with_reducible apply ite_keeps
    | with_reducible refine keeps_snd (by assumption) ?_
    | with_reducible refine keeps_snd2 (by assumption) ?_
    | with_reducible assumption
    | trivial
    | split
    | dsimp only
    | dsimp only [id]

theorem execGetForecast_keeps {s0 s : State} (hk : Keeps s0 s) (head : BitVec 32) (p : List Byte) :
    OutKeeps s0 (execGetForecast head p s) := by
  unfold execGetForecast
  try dsimp only
  repeat' first
    | intro _
    | with_reducible exact hk
    | with_reducible apply outKeeps_next
    | with_reducible apply State.vendor_keeps
    | with_reducible apply answerIf_keeps
    | with_reducible apply outKeeps_ite
    | with_reducible apply ite_keeps
    | with_reducible refine keeps_snd (by assumption) ?_
    | with_reducible refine keeps_snd2 (by assumption) ?_
    | with_reducible assumption
    | trivial
    | split
    | dsimp only
    | dsimp only [id]

theorem execSetPlanCap_keeps {s0 s : State} (hk : Keeps s0 s) (head : BitVec 32) (p : List Byte) :
    OutKeeps s0 (execSetPlanCap head p s) := by
  unfold execSetPlanCap
  try dsimp only
  repeat' first
    | intro _
    | with_reducible exact hk
    | with_reducible apply outKeeps_next
    | with_reducible apply State.vendor_keeps
    | with_reducible apply State.setCap_keeps
    | with_reducible apply outKeeps_ite
    | with_reducible apply ite_keeps
    | with_reducible refine keeps_snd (by assumption) ?_
    | with_reducible refine keeps_snd2 (by assumption) ?_
    | with_reducible assumption
    | trivial
    | split
    | dsimp only
    | dsimp only [id]
    | with_reducible apply keeps_mk

theorem execSetAlign_keeps {s0 s : State} (hk : Keeps s0 s) (head : BitVec 32) (p : List Byte) :
    OutKeeps s0 (execSetAlign head p s) := by
  unfold execSetAlign
  try dsimp only
  repeat' first
    | intro _
    | with_reducible exact hk
    | with_reducible apply outKeeps_next
    | with_reducible apply State.vendor_keeps
    | with_reducible apply State.setAlign_keeps
    | with_reducible apply answerIf_keeps
    | with_reducible apply outKeeps_ite
    | with_reducible apply ite_keeps
    | with_reducible refine keeps_snd (by assumption) ?_
    | with_reducible refine keeps_snd2 (by assumption) ?_
    | with_reducible assumption
    | trivial
    | split
    | dsimp only
    | dsimp only [id]

theorem execReadFaultlog_keeps {s0 s : State} (hk : Keeps s0 s) (head : BitVec 32) (p : List Byte) :
    OutKeeps s0 (execReadFaultlog head p s) := by
  unfold execReadFaultlog
  try dsimp only
  repeat' first
    | intro _
    | with_reducible exact hk
    | with_reducible apply outKeeps_next
    | with_reducible apply State.vendor_keeps
    | with_reducible apply answerIf_keeps
    | with_reducible apply outKeeps_ite
    | with_reducible apply ite_keeps
    | with_reducible refine keeps_snd (by assumption) ?_
    | with_reducible refine keeps_snd2 (by assumption) ?_
    | with_reducible assumption
    | trivial
    | split
    | dsimp only
    | dsimp only [id]

theorem State.unlessBusy_keeps {s0 s : State} (hk : Keeps s0 s) (busy : Bool) (k : State → Answer)
    (h : ∀ t, Keeps s0 t → Keeps s0 (k t).2.2) : Keeps s0 (s.unlessBusy busy k).2.2 := by
  unfold State.unlessBusy
  split
  · exact hk
  · exact h _ (State.startRead_keeps hk)

theorem execReadAlmanac_keeps {s0 s : State} (hk : Keeps s0 s) (head : BitVec 32) (p : List Byte)
    (got : Option (List Byte)) (busy : Bool) : OutKeeps s0 (execReadAlmanac head p got busy s) := by
  refine State.vendor_keeps hk _ _ _ _ _ fun t ht => ?_
  split
  · exact ht
  · exact State.unlessBusy_keeps ht _ _ fun u hu => State.readAlmanac_keeps hu _ _ _

theorem execClassify_keeps {s0 s : State} (hk : Keeps s0 s) (head : BitVec 32) (p : List Byte)
    (busy : Bool) : OutKeeps s0 (execClassify head p busy s) :=
  State.vendor_keeps hk _ _ _ _ _ fun _ ht => answerIf_keeps ht _ (State.unlessBusy_keeps ht _ _ fun _ hu => hu)

theorem execAttest_keeps {s0 s : State} (hk : Keeps s0 s) (head : BitVec 32) (p : List Byte) :
    OutKeeps s0 (execAttest head p s) := by
  unfold execAttest
  try dsimp only
  repeat' first
    | intro _
    | with_reducible exact hk
    | with_reducible apply outKeeps_next
    | with_reducible apply State.vendor_keeps
    | with_reducible apply State.attest_keeps
    | with_reducible apply outKeeps_ite
    | with_reducible apply ite_keeps
    | with_reducible refine keeps_snd (by assumption) ?_
    | with_reducible refine keeps_snd2 (by assumption) ?_
    | with_reducible assumption
    | trivial
    | split
    | dsimp only
    | dsimp only [id]

theorem execSignedObject_keeps {s0 s : State} (hk : Keeps s0 s) (head : BitVec 32) (p : List Byte) (sigs : List
    Verified) (flashOk : Bool) (m : Meas) :
    OutKeeps s0 (execSignedObject head p sigs flashOk m s) := by
  unfold execSignedObject
  try dsimp only
  repeat' first
    | intro _
    | with_reducible exact hk
    | with_reducible apply outKeeps_next
    | with_reducible apply State.vendor_keeps
    | with_reducible apply State.applySigned_keeps
    | with_reducible apply outKeeps_ite
    | with_reducible apply ite_keeps
    | with_reducible refine keeps_snd (by assumption) ?_
    | with_reducible refine keeps_snd2 (by assumption) ?_
    | with_reducible assumption
    | trivial
    | split
    | dsimp only
    | dsimp only [id]
    | with_reducible apply keeps_mk

theorem execSubscribe_keeps {s0 s : State} (hk : Keeps s0 s) (b : Fin 2) (head : BitVec 32) (p : List Byte) :
    OutKeeps s0 (execSubscribe b head p s) := by
  unfold execSubscribe
  try dsimp only
  repeat' first
    | intro _
    | with_reducible exact hk
    | with_reducible apply outKeeps_next
    | with_reducible apply State.vendor_keeps
    | with_reducible apply State.subscribe_keeps
    | with_reducible apply answerIf_keeps
    | with_reducible apply outKeeps_ite
    | with_reducible apply ite_keeps
    | with_reducible refine keeps_snd (by assumption) ?_
    | with_reducible refine keeps_snd2 (by assumption) ?_
    | with_reducible assumption
    | trivial
    | split
    | dsimp only
    | dsimp only [id]

theorem execEventAnswer_keeps {s0 s : State} (hk : Keeps s0 s) (b : Fin 2) :
    OutKeeps s0 (execEventAnswer b s) := by
  unfold execEventAnswer
  try dsimp only
  repeat' first
    | intro _
    | with_reducible exact hk
    | with_reducible apply outKeeps_next
    | with_reducible apply State.received_keeps
    | with_reducible apply outKeeps_ite
    | with_reducible apply ite_keeps
    | with_reducible refine keeps_snd (by assumption) ?_
    | with_reducible refine keeps_snd2 (by assumption) ?_
    | with_reducible assumption
    | trivial
    | split
    | dsimp only
    | dsimp only [id]
    | with_reducible apply keeps_mk

theorem execMctpControl_keeps {s0 s : State} (hk : Keeps s0 s) (b : Fin 2) (r : MctpReq) :
    OutKeeps s0 (execMctpControl b r s) := by
  unfold execMctpControl
  try dsimp only
  repeat' first
    | intro _
    | with_reducible exact hk
    | with_reducible apply outKeeps_next
    | with_reducible apply State.respond_keeps
    | with_reducible apply State.freeBytes_keeps
    | with_reducible apply State.bump_keeps
    | with_reducible apply State.received_keeps
    | with_reducible apply State.wf_keeps
    | with_reducible apply outKeeps_ite
    | with_reducible apply ite_keeps
    | with_reducible refine keeps_snd (by assumption) ?_
    | with_reducible refine keeps_snd2 (by assumption) ?_
    | with_reducible assumption
    | trivial
    | split
    | dsimp only
    | dsimp only [id]
    | with_reducible apply keeps_mk

theorem execDynamicAddressAssign_keeps {s0 s : State} (hk : Keeps s0 s) (how : I3cAssign) (a : BitVec 7) :
    OutKeeps s0 (execDynamicAddressAssign how a s) := by
  unfold execDynamicAddressAssign
  try dsimp only
  repeat' first
    | intro _
    | with_reducible exact hk
    | with_reducible apply outKeeps_next
    | with_reducible apply State.wf_keeps
    | with_reducible apply outKeeps_ite
    | with_reducible apply ite_keeps
    | with_reducible refine keeps_snd (by assumption) ?_
    | with_reducible refine keeps_snd2 (by assumption) ?_
    | with_reducible assumption
    | trivial
    | split
    | dsimp only
    | dsimp only [id]
    | with_reducible apply keeps_mk

theorem execPldmMonitor_keeps {s0 s : State} (hk : Keeps s0 s) (r : PldmReq) :
    OutKeeps s0 (execPldmMonitor r s) := by
  unfold execPldmMonitor
  try dsimp only
  repeat' first
    | intro _
    | with_reducible exact hk
    | with_reducible apply outKeeps_next
    | with_reducible apply State.respond_keeps
    | with_reducible apply State.freeBytes_keeps
    | with_reducible apply State.received_keeps
    | with_reducible apply outKeeps_ite
    | with_reducible apply ite_keeps
    | with_reducible refine keeps_snd (by assumption) ?_
    | with_reducible refine keeps_snd2 (by assumption) ?_
    | with_reducible assumption
    | trivial
    | split
    | dsimp only
    | dsimp only [id]
    | with_reducible apply keeps_mk

theorem execRequestUpdate_keeps {s0 s : State} (hk : Keeps s0 s) (b : Fin 2) (src : BitVec 8) (size : BitVec 32) :
    OutKeeps s0 (execRequestUpdate b src size s) := by
  unfold execRequestUpdate
  try dsimp only
  repeat' first
    | intro _
    | with_reducible exact hk
    | with_reducible apply outKeeps_next
    | with_reducible apply State.fwRequest_keeps
    | with_reducible apply outKeeps_ite
    | with_reducible apply ite_keeps
    | with_reducible refine keeps_snd (by assumption) ?_
    | with_reducible refine keeps_snd2 (by assumption) ?_
    | with_reducible assumption
    | trivial
    | split
    | dsimp only
    | dsimp only [id]
    | with_reducible apply keeps_mk

theorem execUpdateComponent_keeps {s0 s : State} (hk : Keeps s0 s) (cls : BitVec 16) (id : BitVec 16) :
    OutKeeps s0 (execUpdateComponent cls id s) := by
  unfold execUpdateComponent
  try dsimp only
  repeat' first
    | intro _
    | with_reducible exact hk
    | with_reducible apply outKeeps_next
    | with_reducible apply State.askNext_keeps
    | with_reducible apply State.fwRequest_keeps
    | with_reducible apply outKeeps_ite
    | with_reducible apply ite_keeps
    | with_reducible refine keeps_snd (by assumption) ?_
    | with_reducible refine keeps_snd2 (by assumption) ?_
    | with_reducible assumption
    | trivial
    | split
    | dsimp only
    | dsimp only [id]
    | with_reducible apply keeps_mk

theorem execFirmwareDataResponse_keeps {s0 s : State} (hk : Keeps s0 s) (d : List Byte) (sigs : List Verified)
    (flashOk : Bool) :
    OutKeeps s0 (execFirmwareDataResponse d sigs flashOk s) := by
  unfold execFirmwareDataResponse
  try dsimp only
  repeat' first
    | intro _
    | with_reducible exact hk
    | with_reducible apply outKeeps_next
    | with_reducible apply State.askNext_keeps
    | with_reducible apply State.reportEnd_keeps
    | with_reducible apply State.messageOf_keeps
    | with_reducible apply State.bump_keeps
    | with_reducible apply State.updateData_keeps
    | with_reducible apply State.beginImage_keeps
    | with_reducible apply outKeeps_ite
    | with_reducible apply ite_keeps
    | with_reducible refine keeps_snd (by assumption) ?_
    | with_reducible refine keeps_snd2 (by assumption) ?_
    | with_reducible assumption
    | trivial
    | split
    | dsimp only
    | dsimp only [id]
    | with_reducible apply keeps_mk

theorem execFlashProgramDone_keeps {s0 s : State} (hk : Keeps s0 s) (flashOk : Bool) :
    OutKeeps s0 (execFlashProgramDone flashOk s) := by
  unfold execFlashProgramDone
  try dsimp only
  repeat' first
    | intro _
    | with_reducible exact hk
    | with_reducible apply outKeeps_next
    | with_reducible apply State.updateFinish_keeps
    | with_reducible apply State.askNext_keeps
    | with_reducible apply State.reportEnd_keeps
    | with_reducible apply State.wf_keeps
    | with_reducible apply outKeeps_ite
    | with_reducible apply ite_keeps
    | with_reducible refine keeps_snd (by assumption) ?_
    | with_reducible refine keeps_snd2 (by assumption) ?_
    | with_reducible assumption
    | trivial
    | split
    | dsimp only
    | dsimp only [id]

theorem execCancelUpdate_keeps {s0 s : State} (hk : Keeps s0 s)  :
    OutKeeps s0 (execCancelUpdate  s) := by
  unfold execCancelUpdate
  try dsimp only
  repeat' first
    | intro _
    | with_reducible exact hk
    | with_reducible apply outKeeps_next
    | with_reducible apply State.fwRequest_keeps
    | with_reducible apply State.updateCancel_keeps
    | with_reducible apply outKeeps_ite
    | with_reducible apply ite_keeps
    | with_reducible refine keeps_snd (by assumption) ?_
    | with_reducible refine keeps_snd2 (by assumption) ?_
    | with_reducible assumption
    | trivial
    | split
    | dsimp only
    | dsimp only [id]
    | with_reducible apply keeps_mk

theorem execActivateFirmware_keeps {s0 s : State} (hk : Keeps s0 s)  :
    OutKeeps s0 (execActivateFirmware  s) := by
  unfold execActivateFirmware
  try dsimp only
  repeat' first
    | intro _
    | with_reducible exact hk
    | with_reducible apply outKeeps_next
    | with_reducible apply State.fwRequest_keeps
    | with_reducible apply outKeeps_ite
    | with_reducible apply ite_keeps
    | with_reducible refine keeps_snd (by assumption) ?_
    | with_reducible refine keeps_snd2 (by assumption) ?_
    | with_reducible assumption
    | trivial
    | split
    | dsimp only
    | dsimp only [id]
    | with_reducible apply keeps_mk

theorem execRegisterWrite_keeps {s0 s : State} (hk : Keeps s0 s) (u : Fin 64) (off : BitVec 27) (v : Word32) :
    OutKeeps s0 (execRegisterWrite u off v s) := by
  unfold execRegisterWrite
  try dsimp only
  repeat' first
    | intro _
    | with_reducible exact hk
    | with_reducible apply outKeeps_next
    | with_reducible apply State.busWrite_keeps
    | with_reducible apply outKeeps_ite
    | with_reducible apply ite_keeps
    | with_reducible refine keeps_snd (by assumption) ?_
    | with_reducible refine keeps_snd2 (by assumption) ?_
    | with_reducible assumption
    | trivial
    | split
    | dsimp only
    | dsimp only [id]

theorem execLowWordWrite_keeps {s0 s : State} (hk : Keeps s0 s) (u : Fin 64) (off : BitVec 27) (v : Word32) :
    OutKeeps s0 (execLowWordWrite u off v s) := by
  unfold execLowWordWrite
  try dsimp only
  repeat' first
    | intro _
    | with_reducible exact hk
    | with_reducible apply outKeeps_next
    | with_reducible apply State.busWrite_keeps
    | with_reducible apply outKeeps_ite
    | with_reducible apply ite_keeps
    | with_reducible refine keeps_snd (by assumption) ?_
    | with_reducible refine keeps_snd2 (by assumption) ?_
    | with_reducible assumption
    | trivial
    | split
    | dsimp only
    | dsimp only [id]

theorem execHighWordWrite_keeps {s0 s : State} (hk : Keeps s0 s) (u : Fin 64) (off : BitVec 27) (v : Word32) :
    OutKeeps s0 (execHighWordWrite u off v s) := by
  unfold execHighWordWrite
  try dsimp only
  repeat' first
    | intro _
    | with_reducible exact hk
    | with_reducible apply outKeeps_next
    | with_reducible apply State.busWrite_keeps
    | with_reducible apply outKeeps_ite
    | with_reducible apply ite_keeps
    | with_reducible refine keeps_snd (by assumption) ?_
    | with_reducible refine keeps_snd2 (by assumption) ?_
    | with_reducible assumption
    | trivial
    | split
    | dsimp only
    | dsimp only [id]

end Sys2Proof.Machine
end

