-- ==== Sys2Proof/Laws/Same.lean ====
section
/-! SUPPORT. Which parts of the state an operation leaves alone: `Same M s t` says that every part of `t` whose bit in `M` is
clear is that of `s`; bits count the fields of `State` from 0. -/

namespace Sys2Proof.Machine

/-- Every part of the state whose bit in `M` is clear is the same in `t` as in `s`. -/
structure Same (M : Nat) (s t : State) : Prop where
  pending : M.testBit 0 = true ∨ t.pending = s.pending
  freeCtr : M.testBit 1 = true ∨ t.freeCtr = s.freeCtr
  now : M.testBit 2 = true ∨ t.now = s.now
  regs : M.testBit 3 = true ∨ t.regs = s.regs
  rdLatch : M.testBit 4 = true ∨ t.rdLatch = s.rdLatch
  wrStage : M.testBit 5 = true ∨ t.wrStage = s.wrStage
  ifLatch : M.testBit 6 = true ∨ t.ifLatch = s.ifLatch
  rdata : M.testBit 7 = true ∨ t.rdata = s.rdata
  b2data : M.testBit 8 = true ∨ t.b2data = s.b2data
  hostMem : M.testBit 9 = true ∨ t.hostMem = s.hostMem
  msgs : M.testBit 10 = true ∨ t.msgs = s.msgs
  msixOn : M.testBit 11 = true ∨ t.msixOn = s.msixOn
  msixOpen : M.testBit 12 = true ∨ t.msixOpen = s.msixOpen
  msixPend : M.testBit 13 = true ∨ t.msixPend = s.msixPend
  funcMask : M.testBit 14 = true ∨ t.funcMask = s.funcMask
  hbm : M.testBit 15 = true ∨ t.hbm = s.hbm
  hbmBad : M.testBit 16 = true ∨ t.hbmBad = s.hbmBad
  clearing : M.testBit 17 = true ∨ t.clearing = s.clearing
  scrubAt : M.testBit 18 = true ∨ t.scrubAt = s.scrubAt
  sheaf : M.testBit 19 = true ∨ t.sheaf = s.sheaf
  seedbed : M.testBit 20 = true ∨ t.seedbed = s.seedbed
  glean : M.testBit 21 = true ∨ t.glean = s.glean
  furrows : M.testBit 22 = true ∨ t.furrows = s.furrows
  streams : M.testBit 23 = true ∨ t.streams = s.streams
  dma : M.testBit 24 = true ∨ t.dma = s.dma
  shadows : M.testBit 25 = true ∨ t.shadows = s.shadows
  sems : M.testBit 26 = true ∨ t.sems = s.sems
  barriers : M.testBit 27 = true ∨ t.barriers = s.barriers
  seqRuns : M.testBit 28 = true ∨ t.seqRuns = s.seqRuns
  ctxs : M.testBit 29 = true ∨ t.ctxs = s.ctxs
  regions : M.testBit 30 = true ∨ t.regions = s.regions
  coverage : M.testBit 31 = true ∨ t.coverage = s.coverage
  fences : M.testBit 32 = true ∨ t.fences = s.fences
  pairs : M.testBit 33 = true ∨ t.pairs = s.pairs
  fcolLog : M.testBit 34 = true ∨ t.fcolLog = s.fcolLog
  hangLog : M.testBit 35 = true ∨ t.hangLog = s.hangLog
  queues : M.testBit 36 = true ∨ t.queues = s.queues
  copies : M.testBit 37 = true ∨ t.copies = s.copies
  ports : M.testBit 38 = true ∨ t.ports = s.ports
  inbox : M.testBit 39 = true ∨ t.inbox = s.inbox
  engines : M.testBit 40 = true ∨ t.engines = s.engines
  serv : M.testBit 41 = true ∨ t.serv = s.serv
  flash : M.testBit 42 = true ∨ t.flash = s.flash
  fuses : M.testBit 43 = true ∨ t.fuses = s.fuses
  staged : M.testBit 44 = true ∨ t.staged = s.staged
  heldBack : M.testBit 45 = true ∨ t.heldBack = s.heldBack
  lastMma : M.testBit 46 = true ∨ t.lastMma = s.lastMma
  sec : M.testBit 47 = true ∨ t.sec = s.sec
  pwr : M.testBit 48 = true ∨ t.pwr = s.pwr
  clk : M.testBit 49 = true ∨ t.clk = s.clk
  mg : M.testBit 50 = true ∨ t.mg = s.mg
  pins : M.testBit 51 = true ∨ t.pins = s.pins
  vfs : M.testBit 52 = true ∨ t.vfs = s.vfs
  bar2Pf : M.testBit 53 = true ∨ t.bar2Pf = s.bar2Pf
  bar2Vf : M.testBit 54 = true ∨ t.bar2Vf = s.bar2Vf
  qmLast : M.testBit 55 = true ∨ t.qmLast = s.qmLast

theorem Same.refl (M : Nat) (s : State) : Same M s s :=
  ⟨.inr rfl, .inr rfl, .inr rfl, .inr rfl, .inr rfl, .inr rfl, .inr rfl, .inr rfl, .inr rfl, .inr rfl, .inr rfl, .inr rfl, .inr rfl, .inr rfl, .inr rfl, .inr rfl, .inr rfl, .inr rfl, .inr rfl, .inr rfl, .inr rfl, .inr rfl, .inr rfl, .inr rfl, .inr rfl, .inr rfl, .inr rfl, .inr rfl, .inr rfl, .inr rfl, .inr rfl, .inr rfl, .inr rfl, .inr rfl, .inr rfl, .inr rfl, .inr rfl, .inr rfl, .inr rfl, .inr rfl, .inr rfl, .inr rfl, .inr rfl, .inr rfl, .inr rfl, .inr rfl, .inr rfl, .inr rfl, .inr rfl, .inr rfl, .inr rfl, .inr rfl, .inr rfl, .inr rfl, .inr rfl, .inr rfl⟩

theorem sub_bit {m M i : Nat} (h : m ||| M = M) (hb : m.testBit i = true) : M.testBit i = true := by
  rw [← h, Nat.testBit_or, hb, Bool.true_or]

theorem sub_sub {k m M : Nat} (h1 : k ||| m = m) (h2 : m ||| M = M) : k ||| M = M := by
  rw [← h2, ← Nat.or_assoc, h1]

theorem foldl_same_mem {α : Type} {M : Nat} {s : State} {f : State → α → State} {l : List α} :
    ∀ {t : State}, (∀ t x, x ∈ l → Same M s t → Same M s (f t x)) → Same M s t → Same M s (l.foldl f t) := by
  induction l with
  | nil => exact fun _ h => h
  | cons a l ih => exact fun hf h => ih (fun t x hx => hf t x (List.mem_cons_of_mem a hx)) (hf _ _ List.mem_cons_self h)

theorem foldl_same {α : Type} {M : Nat} {s : State} {f : State → α → State} {l : List α} {t : State}
    (hf : ∀ t x, Same M s t → Same M s (f t x)) (h : Same M s t) : Same M s (l.foldl f t) :=
  foldl_same_mem (fun t x _ => hf t x) h

theorem ite_same {M : Nat} {s a b : State} {c : Prop} [Decidable c] (ha : Same M s a) (hb : Same M s b) :
    Same M s (if c then a else b) := by
  split
  · exact ha
  · exact hb

theorem same_snd {α : Type} {M : Nat} {s b : State} {a : α} {e : α × State} (he : e = (a, b)) (h : Same M s e.2) : Same M s b := by
  rw [he] at h
  exact h

theorem same_snd2 {α β : Type} {M : Nat} {s b : State} {a : α} {c : β} {e : α × β × State} (he : e = (a, c, b))
    (h : Same M s e.2.2) : Same M s b := by
  rw [he] at h
  exact h

/-- The bit of a part. -/
def StPart.bit : StPart → Nat
  | .pending => 0
  | .freeCtr => 1
  | .now => 2
  | .regs => 3
  | .rdLatch => 4
  | .wrStage => 5
  | .ifLatch => 6
  | .rdata => 7
  | .b2data => 8
  | .hostMem => 9
  | .msgs => 10
  | .msixOn => 11
  | .msixOpen => 12
  | .msixPend => 13
  | .funcMask => 14
  | .hbm => 15
  | .hbmBad => 16
  | .clearing => 17
  | .scrubAt => 18
  | .sheaf => 19
  | .seedbed => 20
  | .glean => 21
  | .furrows => 22
  | .streams => 23
  | .dma => 24
  | .shadows => 25
  | .sems => 26
  | .barriers => 27
  | .seqRuns => 28
  | .ctxs => 29
  | .regions => 30
  | .coverage => 31
  | .fences => 32
  | .pairs => 33
  | .fcolLog => 34
  | .hangLog => 35
  | .queues => 36
  | .copies => 37
  | .ports => 38
  | .inbox => 39
  | .engines => 40
  | .serv => 41
  | .flash => 42
  | .fuses => 43
  | .staged => 44
  | .heldBack => 45
  | .lastMma => 46
  | .sec => 47
  | .pwr => 48
  | .clk => 49
  | .mg => 50
  | .pins => 51
  | .vfs => 52
  | .bar2Pf => 53
  | .bar2Vf => 54
  | .qmLast => 55

/-- Every part. -/
def StPart.all : List StPart :=
  [.pending, .freeCtr, .now, .regs, .rdLatch, .wrStage, .ifLatch, .rdata, .b2data, .hostMem, .msgs, .msixOn, .msixOpen, .msixPend, .funcMask, .hbm, .hbmBad, .clearing, .scrubAt, .sheaf, .seedbed, .glean, .furrows, .streams, .dma, .shadows, .sems, .barriers, .seqRuns, .ctxs, .regions, .coverage, .fences, .pairs, .fcolLog, .hangLog, .queues, .copies, .ports, .inbox, .engines, .serv, .flash, .fuses, .staged, .heldBack, .lastMma, .sec, .pwr, .clk, .mg, .pins, .vfs, .bar2Pf, .bar2Vf, .qmLast]

theorem StPart.mem_all (p : StPart) : p ∈ StPart.all := by cases p <;> decide

/-- A frame by its list of parts. -/
theorem Same.but {M : Nat} {s t : State} (h : Same M s t) {l : List StPart}
    (hl : StPart.all.all (fun p => l.contains p || !M.testBit p.bit) = true) : s.SameBut t l := by
  intro p hp
  have h1 : M.testBit p.bit = false := by
    have h2 := List.all_eq_true.mp hl p (StPart.mem_all p)
    rw [Bool.or_eq_true, List.contains_iff_mem] at h2
    simpa using h2.resolve_left hp
  cases p
  · exact h.pending.resolve_left fun e => absurd (e.symm.trans h1) (by decide)
  · exact h.freeCtr.resolve_left fun e => absurd (e.symm.trans h1) (by decide)
  · exact h.now.resolve_left fun e => absurd (e.symm.trans h1) (by decide)
  · exact h.regs.resolve_left fun e => absurd (e.symm.trans h1) (by decide)
  · exact h.rdLatch.resolve_left fun e => absurd (e.symm.trans h1) (by decide)
  · exact h.wrStage.resolve_left fun e => absurd (e.symm.trans h1) (by decide)
  · exact h.ifLatch.resolve_left fun e => absurd (e.symm.trans h1) (by decide)
  · exact h.rdata.resolve_left fun e => absurd (e.symm.trans h1) (by decide)
  · exact h.b2data.resolve_left fun e => absurd (e.symm.trans h1) (by decide)
  · exact h.hostMem.resolve_left fun e => absurd (e.symm.trans h1) (by decide)
  · exact h.msgs.resolve_left fun e => absurd (e.symm.trans h1) (by decide)
  · exact h.msixOn.resolve_left fun e => absurd (e.symm.trans h1) (by decide)
  · exact h.msixOpen.resolve_left fun e => absurd (e.symm.trans h1) (by decide)
  · exact h.msixPend.resolve_left fun e => absurd (e.symm.trans h1) (by decide)
  · exact h.funcMask.resolve_left fun e => absurd (e.symm.trans h1) (by decide)
  · exact h.hbm.resolve_left fun e => absurd (e.symm.trans h1) (by decide)
  · exact h.hbmBad.resolve_left fun e => absurd (e.symm.trans h1) (by decide)
  · exact h.clearing.resolve_left fun e => absurd (e.symm.trans h1) (by decide)
  · exact h.scrubAt.resolve_left fun e => absurd (e.symm.trans h1) (by decide)
  · exact h.sheaf.resolve_left fun e => absurd (e.symm.trans h1) (by decide)
  · exact h.seedbed.resolve_left fun e => absurd (e.symm.trans h1) (by decide)
  · exact h.glean.resolve_left fun e => absurd (e.symm.trans h1) (by decide)
  · exact h.furrows.resolve_left fun e => absurd (e.symm.trans h1) (by decide)
  · exact h.streams.resolve_left fun e => absurd (e.symm.trans h1) (by decide)
  · exact h.dma.resolve_left fun e => absurd (e.symm.trans h1) (by decide)
  · exact h.shadows.resolve_left fun e => absurd (e.symm.trans h1) (by decide)
  · exact h.sems.resolve_left fun e => absurd (e.symm.trans h1) (by decide)
  · exact h.barriers.resolve_left fun e => absurd (e.symm.trans h1) (by decide)
  · exact h.seqRuns.resolve_left fun e => absurd (e.symm.trans h1) (by decide)
  · exact h.ctxs.resolve_left fun e => absurd (e.symm.trans h1) (by decide)
  · exact h.regions.resolve_left fun e => absurd (e.symm.trans h1) (by decide)
  · exact h.coverage.resolve_left fun e => absurd (e.symm.trans h1) (by decide)
  · exact h.fences.resolve_left fun e => absurd (e.symm.trans h1) (by decide)
  · exact h.pairs.resolve_left fun e => absurd (e.symm.trans h1) (by decide)
  · exact h.fcolLog.resolve_left fun e => absurd (e.symm.trans h1) (by decide)
  · exact h.hangLog.resolve_left fun e => absurd (e.symm.trans h1) (by decide)
  · exact h.queues.resolve_left fun e => absurd (e.symm.trans h1) (by decide)
  · exact h.copies.resolve_left fun e => absurd (e.symm.trans h1) (by decide)
  · exact h.ports.resolve_left fun e => absurd (e.symm.trans h1) (by decide)
  · exact h.inbox.resolve_left fun e => absurd (e.symm.trans h1) (by decide)
  · exact h.engines.resolve_left fun e => absurd (e.symm.trans h1) (by decide)
  · exact h.serv.resolve_left fun e => absurd (e.symm.trans h1) (by decide)
  · exact h.flash.resolve_left fun e => absurd (e.symm.trans h1) (by decide)
  · exact h.fuses.resolve_left fun e => absurd (e.symm.trans h1) (by decide)
  · exact h.staged.resolve_left fun e => absurd (e.symm.trans h1) (by decide)
  · exact h.heldBack.resolve_left fun e => absurd (e.symm.trans h1) (by decide)
  · exact h.lastMma.resolve_left fun e => absurd (e.symm.trans h1) (by decide)
  · exact h.sec.resolve_left fun e => absurd (e.symm.trans h1) (by decide)
  · exact h.pwr.resolve_left fun e => absurd (e.symm.trans h1) (by decide)
  · exact h.clk.resolve_left fun e => absurd (e.symm.trans h1) (by decide)
  · exact h.mg.resolve_left fun e => absurd (e.symm.trans h1) (by decide)
  · exact h.pins.resolve_left fun e => absurd (e.symm.trans h1) (by decide)
  · exact h.vfs.resolve_left fun e => absurd (e.symm.trans h1) (by decide)
  · exact h.bar2Pf.resolve_left fun e => absurd (e.symm.trans h1) (by decide)
  · exact h.bar2Vf.resolve_left fun e => absurd (e.symm.trans h1) (by decide)
  · exact h.qmLast.resolve_left fun e => absurd (e.symm.trans h1) (by decide)

theorem same_u2 {M : Nat} {s t : State} (h : Same M s t) (hM : 2 ||| M = M) {x_freeCtr : Nat} :
    Same M s ⟨t.pending, x_freeCtr, t.now, t.regs, t.rdLatch, t.wrStage, t.ifLatch, t.rdata, t.b2data, t.hostMem,
        t.msgs, t.msixOn, t.msixOpen, t.msixPend, t.funcMask, t.hbm, t.hbmBad, t.clearing, t.scrubAt, t.sheaf, t.seedbed,
        t.glean, t.furrows, t.streams, t.dma, t.shadows, t.sems, t.barriers, t.seqRuns, t.ctxs, t.regions, t.coverage,
        t.fences, t.pairs, t.fcolLog, t.hangLog, t.queues, t.copies, t.ports, t.inbox, t.engines, t.serv, t.flash,
        t.fuses, t.staged, t.heldBack, t.lastMma, t.sec, t.pwr, t.clk, t.mg, t.pins, t.vfs, t.bar2Pf, t.bar2Vf, t.qmLast⟩
        :=
  ⟨h.pending, .inl (sub_bit hM rfl), h.now, h.regs, h.rdLatch, h.wrStage, h.ifLatch, h.rdata, h.b2data, h.hostMem,
      h.msgs, h.msixOn, h.msixOpen, h.msixPend, h.funcMask, h.hbm, h.hbmBad, h.clearing, h.scrubAt, h.sheaf, h.seedbed,
      h.glean, h.furrows, h.streams, h.dma, h.shadows, h.sems, h.barriers, h.seqRuns, h.ctxs, h.regions, h.coverage,
      h.fences, h.pairs, h.fcolLog, h.hangLog, h.queues, h.copies, h.ports, h.inbox, h.engines, h.serv, h.flash, h.fuses,
      h.staged, h.heldBack, h.lastMma, h.sec, h.pwr, h.clk, h.mg, h.pins, h.vfs, h.bar2Pf, h.bar2Vf, h.qmLast⟩

theorem same_u8 {M : Nat} {s t : State} (h : Same M s t) (hM : 8 ||| M = M) {x_regs : Store Word32} :
    Same M s ⟨t.pending, t.freeCtr, t.now, x_regs, t.rdLatch, t.wrStage, t.ifLatch, t.rdata, t.b2data, t.hostMem,
        t.msgs, t.msixOn, t.msixOpen, t.msixPend, t.funcMask, t.hbm, t.hbmBad, t.clearing, t.scrubAt, t.sheaf, t.seedbed,
        t.glean, t.furrows, t.streams, t.dma, t.shadows, t.sems, t.barriers, t.seqRuns, t.ctxs, t.regions, t.coverage,
        t.fences, t.pairs, t.fcolLog, t.hangLog, t.queues, t.copies, t.ports, t.inbox, t.engines, t.serv, t.flash,
        t.fuses, t.staged, t.heldBack, t.lastMma, t.sec, t.pwr, t.clk, t.mg, t.pins, t.vfs, t.bar2Pf, t.bar2Vf, t.qmLast⟩
        :=
  ⟨h.pending, h.freeCtr, h.now, .inl (sub_bit hM rfl), h.rdLatch, h.wrStage, h.ifLatch, h.rdata, h.b2data, h.hostMem,
      h.msgs, h.msixOn, h.msixOpen, h.msixPend, h.funcMask, h.hbm, h.hbmBad, h.clearing, h.scrubAt, h.sheaf, h.seedbed,
      h.glean, h.furrows, h.streams, h.dma, h.shadows, h.sems, h.barriers, h.seqRuns, h.ctxs, h.regions, h.coverage,
      h.fences, h.pairs, h.fcolLog, h.hangLog, h.queues, h.copies, h.ports, h.inbox, h.engines, h.serv, h.flash, h.fuses,
      h.staged, h.heldBack, h.lastMma, h.sec, h.pwr, h.clk, h.mg, h.pins, h.vfs, h.bar2Pf, h.bar2Vf, h.qmLast⟩

theorem same_u16 {M : Nat} {s t : State} (h : Same M s t) (hM : 16 ||| M = M) {x_rdLatch : Store Word32} :
    Same M s ⟨t.pending, t.freeCtr, t.now, t.regs, x_rdLatch, t.wrStage, t.ifLatch, t.rdata, t.b2data, t.hostMem,
        t.msgs, t.msixOn, t.msixOpen, t.msixPend, t.funcMask, t.hbm, t.hbmBad, t.clearing, t.scrubAt, t.sheaf, t.seedbed,
        t.glean, t.furrows, t.streams, t.dma, t.shadows, t.sems, t.barriers, t.seqRuns, t.ctxs, t.regions, t.coverage,
        t.fences, t.pairs, t.fcolLog, t.hangLog, t.queues, t.copies, t.ports, t.inbox, t.engines, t.serv, t.flash,
        t.fuses, t.staged, t.heldBack, t.lastMma, t.sec, t.pwr, t.clk, t.mg, t.pins, t.vfs, t.bar2Pf, t.bar2Vf, t.qmLast⟩
        :=
  ⟨h.pending, h.freeCtr, h.now, h.regs, .inl (sub_bit hM rfl), h.wrStage, h.ifLatch, h.rdata, h.b2data, h.hostMem,
      h.msgs, h.msixOn, h.msixOpen, h.msixPend, h.funcMask, h.hbm, h.hbmBad, h.clearing, h.scrubAt, h.sheaf, h.seedbed,
      h.glean, h.furrows, h.streams, h.dma, h.shadows, h.sems, h.barriers, h.seqRuns, h.ctxs, h.regions, h.coverage,
      h.fences, h.pairs, h.fcolLog, h.hangLog, h.queues, h.copies, h.ports, h.inbox, h.engines, h.serv, h.flash, h.fuses,
      h.staged, h.heldBack, h.lastMma, h.sec, h.pwr, h.clk, h.mg, h.pins, h.vfs, h.bar2Pf, h.bar2Vf, h.qmLast⟩

theorem same_u32 {M : Nat} {s t : State} (h : Same M s t) (hM : 32 ||| M = M) {x_wrStage : Store Word32} :
    Same M s ⟨t.pending, t.freeCtr, t.now, t.regs, t.rdLatch, x_wrStage, t.ifLatch, t.rdata, t.b2data, t.hostMem,
        t.msgs, t.msixOn, t.msixOpen, t.msixPend, t.funcMask, t.hbm, t.hbmBad, t.clearing, t.scrubAt, t.sheaf, t.seedbed,
        t.glean, t.furrows, t.streams, t.dma, t.shadows, t.sems, t.barriers, t.seqRuns, t.ctxs, t.regions, t.coverage,
        t.fences, t.pairs, t.fcolLog, t.hangLog, t.queues, t.copies, t.ports, t.inbox, t.engines, t.serv, t.flash,
        t.fuses, t.staged, t.heldBack, t.lastMma, t.sec, t.pwr, t.clk, t.mg, t.pins, t.vfs, t.bar2Pf, t.bar2Vf, t.qmLast⟩
        :=
  ⟨h.pending, h.freeCtr, h.now, h.regs, h.rdLatch, .inl (sub_bit hM rfl), h.ifLatch, h.rdata, h.b2data, h.hostMem,
      h.msgs, h.msixOn, h.msixOpen, h.msixPend, h.funcMask, h.hbm, h.hbmBad, h.clearing, h.scrubAt, h.sheaf, h.seedbed,
      h.glean, h.furrows, h.streams, h.dma, h.shadows, h.sems, h.barriers, h.seqRuns, h.ctxs, h.regions, h.coverage,
      h.fences, h.pairs, h.fcolLog, h.hangLog, h.queues, h.copies, h.ports, h.inbox, h.engines, h.serv, h.flash, h.fuses,
      h.staged, h.heldBack, h.lastMma, h.sec, h.pwr, h.clk, h.mg, h.pins, h.vfs, h.bar2Pf, h.bar2Vf, h.qmLast⟩

theorem same_u64 {M : Nat} {s t : State} (h : Same M s t) (hM : 64 ||| M = M) {x_ifLatch : Store (List Word32)} :
    Same M s ⟨t.pending, t.freeCtr, t.now, t.regs, t.rdLatch, t.wrStage, x_ifLatch, t.rdata, t.b2data, t.hostMem,
        t.msgs, t.msixOn, t.msixOpen, t.msixPend, t.funcMask, t.hbm, t.hbmBad, t.clearing, t.scrubAt, t.sheaf, t.seedbed,
        t.glean, t.furrows, t.streams, t.dma, t.shadows, t.sems, t.barriers, t.seqRuns, t.ctxs, t.regions, t.coverage,
        t.fences, t.pairs, t.fcolLog, t.hangLog, t.queues, t.copies, t.ports, t.inbox, t.engines, t.serv, t.flash,
        t.fuses, t.staged, t.heldBack, t.lastMma, t.sec, t.pwr, t.clk, t.mg, t.pins, t.vfs, t.bar2Pf, t.bar2Vf, t.qmLast⟩
        :=
  ⟨h.pending, h.freeCtr, h.now, h.regs, h.rdLatch, h.wrStage, .inl (sub_bit hM rfl), h.rdata, h.b2data, h.hostMem,
      h.msgs, h.msixOn, h.msixOpen, h.msixPend, h.funcMask, h.hbm, h.hbmBad, h.clearing, h.scrubAt, h.sheaf, h.seedbed,
      h.glean, h.furrows, h.streams, h.dma, h.shadows, h.sems, h.barriers, h.seqRuns, h.ctxs, h.regions, h.coverage,
      h.fences, h.pairs, h.fcolLog, h.hangLog, h.queues, h.copies, h.ports, h.inbox, h.engines, h.serv, h.flash, h.fuses,
      h.staged, h.heldBack, h.lastMma, h.sec, h.pwr, h.clk, h.mg, h.pins, h.vfs, h.bar2Pf, h.bar2Vf, h.qmLast⟩

theorem same_u128 {M : Nat} {s t : State} (h : Same M s t) (hM : 128 ||| M = M) {x_rdata : BitVec 64} :
    Same M s ⟨t.pending, t.freeCtr, t.now, t.regs, t.rdLatch, t.wrStage, t.ifLatch, x_rdata, t.b2data, t.hostMem,
        t.msgs, t.msixOn, t.msixOpen, t.msixPend, t.funcMask, t.hbm, t.hbmBad, t.clearing, t.scrubAt, t.sheaf, t.seedbed,
        t.glean, t.furrows, t.streams, t.dma, t.shadows, t.sems, t.barriers, t.seqRuns, t.ctxs, t.regions, t.coverage,
        t.fences, t.pairs, t.fcolLog, t.hangLog, t.queues, t.copies, t.ports, t.inbox, t.engines, t.serv, t.flash,
        t.fuses, t.staged, t.heldBack, t.lastMma, t.sec, t.pwr, t.clk, t.mg, t.pins, t.vfs, t.bar2Pf, t.bar2Vf, t.qmLast⟩
        :=
  ⟨h.pending, h.freeCtr, h.now, h.regs, h.rdLatch, h.wrStage, h.ifLatch, .inl (sub_bit hM rfl), h.b2data, h.hostMem,
      h.msgs, h.msixOn, h.msixOpen, h.msixPend, h.funcMask, h.hbm, h.hbmBad, h.clearing, h.scrubAt, h.sheaf, h.seedbed,
      h.glean, h.furrows, h.streams, h.dma, h.shadows, h.sems, h.barriers, h.seqRuns, h.ctxs, h.regions, h.coverage,
      h.fences, h.pairs, h.fcolLog, h.hangLog, h.queues, h.copies, h.ports, h.inbox, h.engines, h.serv, h.flash, h.fuses,
      h.staged, h.heldBack, h.lastMma, h.sec, h.pwr, h.clk, h.mg, h.pins, h.vfs, h.bar2Pf, h.bar2Vf, h.qmLast⟩

theorem same_u144 {M : Nat} {s t : State} (h : Same M s t) (hM : 144 ||| M = M) {x_rdLatch : Store Word32} {x_rdata :
    BitVec 64} :
    Same M s ⟨t.pending, t.freeCtr, t.now, t.regs, x_rdLatch, t.wrStage, t.ifLatch, x_rdata, t.b2data, t.hostMem,
        t.msgs, t.msixOn, t.msixOpen, t.msixPend, t.funcMask, t.hbm, t.hbmBad, t.clearing, t.scrubAt, t.sheaf, t.seedbed,
        t.glean, t.furrows, t.streams, t.dma, t.shadows, t.sems, t.barriers, t.seqRuns, t.ctxs, t.regions, t.coverage,
        t.fences, t.pairs, t.fcolLog, t.hangLog, t.queues, t.copies, t.ports, t.inbox, t.engines, t.serv, t.flash,
        t.fuses, t.staged, t.heldBack, t.lastMma, t.sec, t.pwr, t.clk, t.mg, t.pins, t.vfs, t.bar2Pf, t.bar2Vf, t.qmLast⟩
        :=
  ⟨h.pending, h.freeCtr, h.now, h.regs, .inl (sub_bit hM rfl), h.wrStage, h.ifLatch, .inl (sub_bit hM rfl), h.b2data,
      h.hostMem, h.msgs, h.msixOn, h.msixOpen, h.msixPend, h.funcMask, h.hbm, h.hbmBad, h.clearing, h.scrubAt, h.sheaf,
      h.seedbed, h.glean, h.furrows, h.streams, h.dma, h.shadows, h.sems, h.barriers, h.seqRuns, h.ctxs, h.regions,
      h.coverage, h.fences, h.pairs, h.fcolLog, h.hangLog, h.queues, h.copies, h.ports, h.inbox, h.engines, h.serv,
      h.flash, h.fuses, h.staged, h.heldBack, h.lastMma, h.sec, h.pwr, h.clk, h.mg, h.pins, h.vfs, h.bar2Pf, h.bar2Vf,
      h.qmLast⟩

theorem same_u256 {M : Nat} {s t : State} (h : Same M s t) (hM : 256 ||| M = M) {x_b2data : List Byte} :
    Same M s ⟨t.pending, t.freeCtr, t.now, t.regs, t.rdLatch, t.wrStage, t.ifLatch, t.rdata, x_b2data, t.hostMem,
        t.msgs, t.msixOn, t.msixOpen, t.msixPend, t.funcMask, t.hbm, t.hbmBad, t.clearing, t.scrubAt, t.sheaf, t.seedbed,
        t.glean, t.furrows, t.streams, t.dma, t.shadows, t.sems, t.barriers, t.seqRuns, t.ctxs, t.regions, t.coverage,
        t.fences, t.pairs, t.fcolLog, t.hangLog, t.queues, t.copies, t.ports, t.inbox, t.engines, t.serv, t.flash,
        t.fuses, t.staged, t.heldBack, t.lastMma, t.sec, t.pwr, t.clk, t.mg, t.pins, t.vfs, t.bar2Pf, t.bar2Vf, t.qmLast⟩
        :=
  ⟨h.pending, h.freeCtr, h.now, h.regs, h.rdLatch, h.wrStage, h.ifLatch, h.rdata, .inl (sub_bit hM rfl), h.hostMem,
      h.msgs, h.msixOn, h.msixOpen, h.msixPend, h.funcMask, h.hbm, h.hbmBad, h.clearing, h.scrubAt, h.sheaf, h.seedbed,
      h.glean, h.furrows, h.streams, h.dma, h.shadows, h.sems, h.barriers, h.seqRuns, h.ctxs, h.regions, h.coverage,
      h.fences, h.pairs, h.fcolLog, h.hangLog, h.queues, h.copies, h.ports, h.inbox, h.engines, h.serv, h.flash, h.fuses,
      h.staged, h.heldBack, h.lastMma, h.sec, h.pwr, h.clk, h.mg, h.pins, h.vfs, h.bar2Pf, h.bar2Vf, h.qmLast⟩

theorem same_u512 {M : Nat} {s t : State} (h : Same M s t) (hM : 512 ||| M = M) {x_hostMem : Memory} :
    Same M s ⟨t.pending, t.freeCtr, t.now, t.regs, t.rdLatch, t.wrStage, t.ifLatch, t.rdata, t.b2data, x_hostMem,
        t.msgs, t.msixOn, t.msixOpen, t.msixPend, t.funcMask, t.hbm, t.hbmBad, t.clearing, t.scrubAt, t.sheaf, t.seedbed,
        t.glean, t.furrows, t.streams, t.dma, t.shadows, t.sems, t.barriers, t.seqRuns, t.ctxs, t.regions, t.coverage,
        t.fences, t.pairs, t.fcolLog, t.hangLog, t.queues, t.copies, t.ports, t.inbox, t.engines, t.serv, t.flash,
        t.fuses, t.staged, t.heldBack, t.lastMma, t.sec, t.pwr, t.clk, t.mg, t.pins, t.vfs, t.bar2Pf, t.bar2Vf, t.qmLast⟩
        :=
  ⟨h.pending, h.freeCtr, h.now, h.regs, h.rdLatch, h.wrStage, h.ifLatch, h.rdata, h.b2data, .inl (sub_bit hM rfl),
      h.msgs, h.msixOn, h.msixOpen, h.msixPend, h.funcMask, h.hbm, h.hbmBad, h.clearing, h.scrubAt, h.sheaf, h.seedbed,
      h.glean, h.furrows, h.streams, h.dma, h.shadows, h.sems, h.barriers, h.seqRuns, h.ctxs, h.regions, h.coverage,
      h.fences, h.pairs, h.fcolLog, h.hangLog, h.queues, h.copies, h.ports, h.inbox, h.engines, h.serv, h.flash, h.fuses,
      h.staged, h.heldBack, h.lastMma, h.sec, h.pwr, h.clk, h.mg, h.pins, h.vfs, h.bar2Pf, h.bar2Vf, h.qmLast⟩

theorem same_u1024 {M : Nat} {s t : State} (h : Same M s t) (hM : 1024 ||| M = M) {x_msgs : List (Nat × Nat)} :
    Same M s ⟨t.pending, t.freeCtr, t.now, t.regs, t.rdLatch, t.wrStage, t.ifLatch, t.rdata, t.b2data, t.hostMem,
        x_msgs, t.msixOn, t.msixOpen, t.msixPend, t.funcMask, t.hbm, t.hbmBad, t.clearing, t.scrubAt, t.sheaf, t.seedbed,
        t.glean, t.furrows, t.streams, t.dma, t.shadows, t.sems, t.barriers, t.seqRuns, t.ctxs, t.regions, t.coverage,
        t.fences, t.pairs, t.fcolLog, t.hangLog, t.queues, t.copies, t.ports, t.inbox, t.engines, t.serv, t.flash,
        t.fuses, t.staged, t.heldBack, t.lastMma, t.sec, t.pwr, t.clk, t.mg, t.pins, t.vfs, t.bar2Pf, t.bar2Vf, t.qmLast⟩
        :=
  ⟨h.pending, h.freeCtr, h.now, h.regs, h.rdLatch, h.wrStage, h.ifLatch, h.rdata, h.b2data, h.hostMem, .inl (sub_bit
      hM rfl), h.msixOn, h.msixOpen, h.msixPend, h.funcMask, h.hbm, h.hbmBad, h.clearing, h.scrubAt, h.sheaf, h.seedbed,
      h.glean, h.furrows, h.streams, h.dma, h.shadows, h.sems, h.barriers, h.seqRuns, h.ctxs, h.regions, h.coverage,
      h.fences, h.pairs, h.fcolLog, h.hangLog, h.queues, h.copies, h.ports, h.inbox, h.engines, h.serv, h.flash, h.fuses,
      h.staged, h.heldBack, h.lastMma, h.sec, h.pwr, h.clk, h.mg, h.pins, h.vfs, h.bar2Pf, h.bar2Vf, h.qmLast⟩

theorem same_u2048 {M : Nat} {s t : State} (h : Same M s t) (hM : 2048 ||| M = M) {x_msixOn : Store Unit} :
    Same M s ⟨t.pending, t.freeCtr, t.now, t.regs, t.rdLatch, t.wrStage, t.ifLatch, t.rdata, t.b2data, t.hostMem,
        t.msgs, x_msixOn, t.msixOpen, t.msixPend, t.funcMask, t.hbm, t.hbmBad, t.clearing, t.scrubAt, t.sheaf, t.seedbed,
        t.glean, t.furrows, t.streams, t.dma, t.shadows, t.sems, t.barriers, t.seqRuns, t.ctxs, t.regions, t.coverage,
        t.fences, t.pairs, t.fcolLog, t.hangLog, t.queues, t.copies, t.ports, t.inbox, t.engines, t.serv, t.flash,
        t.fuses, t.staged, t.heldBack, t.lastMma, t.sec, t.pwr, t.clk, t.mg, t.pins, t.vfs, t.bar2Pf, t.bar2Vf, t.qmLast⟩
        :=
  ⟨h.pending, h.freeCtr, h.now, h.regs, h.rdLatch, h.wrStage, h.ifLatch, h.rdata, h.b2data, h.hostMem, h.msgs, .inl
      (sub_bit hM rfl), h.msixOpen, h.msixPend, h.funcMask, h.hbm, h.hbmBad, h.clearing, h.scrubAt, h.sheaf, h.seedbed,
      h.glean, h.furrows, h.streams, h.dma, h.shadows, h.sems, h.barriers, h.seqRuns, h.ctxs, h.regions, h.coverage,
      h.fences, h.pairs, h.fcolLog, h.hangLog, h.queues, h.copies, h.ports, h.inbox, h.engines, h.serv, h.flash, h.fuses,
      h.staged, h.heldBack, h.lastMma, h.sec, h.pwr, h.clk, h.mg, h.pins, h.vfs, h.bar2Pf, h.bar2Vf, h.qmLast⟩

theorem same_u4096 {M : Nat} {s t : State} (h : Same M s t) (hM : 4096 ||| M = M) {x_msixOpen : Store Unit} :
    Same M s ⟨t.pending, t.freeCtr, t.now, t.regs, t.rdLatch, t.wrStage, t.ifLatch, t.rdata, t.b2data, t.hostMem,
        t.msgs, t.msixOn, x_msixOpen, t.msixPend, t.funcMask, t.hbm, t.hbmBad, t.clearing, t.scrubAt, t.sheaf, t.seedbed,
        t.glean, t.furrows, t.streams, t.dma, t.shadows, t.sems, t.barriers, t.seqRuns, t.ctxs, t.regions, t.coverage,
        t.fences, t.pairs, t.fcolLog, t.hangLog, t.queues, t.copies, t.ports, t.inbox, t.engines, t.serv, t.flash,
        t.fuses, t.staged, t.heldBack, t.lastMma, t.sec, t.pwr, t.clk, t.mg, t.pins, t.vfs, t.bar2Pf, t.bar2Vf, t.qmLast⟩
        :=
  ⟨h.pending, h.freeCtr, h.now, h.regs, h.rdLatch, h.wrStage, h.ifLatch, h.rdata, h.b2data, h.hostMem, h.msgs,
      h.msixOn, .inl (sub_bit hM rfl), h.msixPend, h.funcMask, h.hbm, h.hbmBad, h.clearing, h.scrubAt, h.sheaf, h.seedbed,
      h.glean, h.furrows, h.streams, h.dma, h.shadows, h.sems, h.barriers, h.seqRuns, h.ctxs, h.regions, h.coverage,
      h.fences, h.pairs, h.fcolLog, h.hangLog, h.queues, h.copies, h.ports, h.inbox, h.engines, h.serv, h.flash, h.fuses,
      h.staged, h.heldBack, h.lastMma, h.sec, h.pwr, h.clk, h.mg, h.pins, h.vfs, h.bar2Pf, h.bar2Vf, h.qmLast⟩

theorem same_u8192 {M : Nat} {s t : State} (h : Same M s t) (hM : 8192 ||| M = M) {x_msixPend : Store Unit} :
    Same M s ⟨t.pending, t.freeCtr, t.now, t.regs, t.rdLatch, t.wrStage, t.ifLatch, t.rdata, t.b2data, t.hostMem,
        t.msgs, t.msixOn, t.msixOpen, x_msixPend, t.funcMask, t.hbm, t.hbmBad, t.clearing, t.scrubAt, t.sheaf, t.seedbed,
        t.glean, t.furrows, t.streams, t.dma, t.shadows, t.sems, t.barriers, t.seqRuns, t.ctxs, t.regions, t.coverage,
        t.fences, t.pairs, t.fcolLog, t.hangLog, t.queues, t.copies, t.ports, t.inbox, t.engines, t.serv, t.flash,
        t.fuses, t.staged, t.heldBack, t.lastMma, t.sec, t.pwr, t.clk, t.mg, t.pins, t.vfs, t.bar2Pf, t.bar2Vf, t.qmLast⟩
        :=
  ⟨h.pending, h.freeCtr, h.now, h.regs, h.rdLatch, h.wrStage, h.ifLatch, h.rdata, h.b2data, h.hostMem, h.msgs,
      h.msixOn, h.msixOpen, .inl (sub_bit hM rfl), h.funcMask, h.hbm, h.hbmBad, h.clearing, h.scrubAt, h.sheaf, h.seedbed,
      h.glean, h.furrows, h.streams, h.dma, h.shadows, h.sems, h.barriers, h.seqRuns, h.ctxs, h.regions, h.coverage,
      h.fences, h.pairs, h.fcolLog, h.hangLog, h.queues, h.copies, h.ports, h.inbox, h.engines, h.serv, h.flash, h.fuses,
      h.staged, h.heldBack, h.lastMma, h.sec, h.pwr, h.clk, h.mg, h.pins, h.vfs, h.bar2Pf, h.bar2Vf, h.qmLast⟩

theorem same_u9216 {M : Nat} {s t : State} (h : Same M s t) (hM : 9216 ||| M = M) {x_msgs : List (Nat × Nat)}
    {x_msixPend : Store Unit} :
    Same M s ⟨t.pending, t.freeCtr, t.now, t.regs, t.rdLatch, t.wrStage, t.ifLatch, t.rdata, t.b2data, t.hostMem,
        x_msgs, t.msixOn, t.msixOpen, x_msixPend, t.funcMask, t.hbm, t.hbmBad, t.clearing, t.scrubAt, t.sheaf, t.seedbed,
        t.glean, t.furrows, t.streams, t.dma, t.shadows, t.sems, t.barriers, t.seqRuns, t.ctxs, t.regions, t.coverage,
        t.fences, t.pairs, t.fcolLog, t.hangLog, t.queues, t.copies, t.ports, t.inbox, t.engines, t.serv, t.flash,
        t.fuses, t.staged, t.heldBack, t.lastMma, t.sec, t.pwr, t.clk, t.mg, t.pins, t.vfs, t.bar2Pf, t.bar2Vf, t.qmLast⟩
        :=
  ⟨h.pending, h.freeCtr, h.now, h.regs, h.rdLatch, h.wrStage, h.ifLatch, h.rdata, h.b2data, h.hostMem, .inl (sub_bit
      hM rfl), h.msixOn, h.msixOpen, .inl (sub_bit hM rfl), h.funcMask, h.hbm, h.hbmBad, h.clearing, h.scrubAt, h.sheaf,
      h.seedbed, h.glean, h.furrows, h.streams, h.dma, h.shadows, h.sems, h.barriers, h.seqRuns, h.ctxs, h.regions,
      h.coverage, h.fences, h.pairs, h.fcolLog, h.hangLog, h.queues, h.copies, h.ports, h.inbox, h.engines, h.serv,
      h.flash, h.fuses, h.staged, h.heldBack, h.lastMma, h.sec, h.pwr, h.clk, h.mg, h.pins, h.vfs, h.bar2Pf, h.bar2Vf,
      h.qmLast⟩

theorem same_u16384 {M : Nat} {s t : State} (h : Same M s t) (hM : 16384 ||| M = M) {x_funcMask : Store Unit} :
    Same M s ⟨t.pending, t.freeCtr, t.now, t.regs, t.rdLatch, t.wrStage, t.ifLatch, t.rdata, t.b2data, t.hostMem,
        t.msgs, t.msixOn, t.msixOpen, t.msixPend, x_funcMask, t.hbm, t.hbmBad, t.clearing, t.scrubAt, t.sheaf, t.seedbed,
        t.glean, t.furrows, t.streams, t.dma, t.shadows, t.sems, t.barriers, t.seqRuns, t.ctxs, t.regions, t.coverage,
        t.fences, t.pairs, t.fcolLog, t.hangLog, t.queues, t.copies, t.ports, t.inbox, t.engines, t.serv, t.flash,
        t.fuses, t.staged, t.heldBack, t.lastMma, t.sec, t.pwr, t.clk, t.mg, t.pins, t.vfs, t.bar2Pf, t.bar2Vf, t.qmLast⟩
        :=
  ⟨h.pending, h.freeCtr, h.now, h.regs, h.rdLatch, h.wrStage, h.ifLatch, h.rdata, h.b2data, h.hostMem, h.msgs,
      h.msixOn, h.msixOpen, h.msixPend, .inl (sub_bit hM rfl), h.hbm, h.hbmBad, h.clearing, h.scrubAt, h.sheaf, h.seedbed,
      h.glean, h.furrows, h.streams, h.dma, h.shadows, h.sems, h.barriers, h.seqRuns, h.ctxs, h.regions, h.coverage,
      h.fences, h.pairs, h.fcolLog, h.hangLog, h.queues, h.copies, h.ports, h.inbox, h.engines, h.serv, h.flash, h.fuses,
      h.staged, h.heldBack, h.lastMma, h.sec, h.pwr, h.clk, h.mg, h.pins, h.vfs, h.bar2Pf, h.bar2Vf, h.qmLast⟩

theorem same_u30720 {M : Nat} {s t : State} (h : Same M s t) (hM : 30720 ||| M = M) {x_msixOn : Store Unit}
    {x_msixOpen : Store Unit} {x_msixPend : Store Unit} {x_funcMask : Store Unit} :
    Same M s ⟨t.pending, t.freeCtr, t.now, t.regs, t.rdLatch, t.wrStage, t.ifLatch, t.rdata, t.b2data, t.hostMem,
        t.msgs, x_msixOn, x_msixOpen, x_msixPend, x_funcMask, t.hbm, t.hbmBad, t.clearing, t.scrubAt, t.sheaf, t.seedbed,
        t.glean, t.furrows, t.streams, t.dma, t.shadows, t.sems, t.barriers, t.seqRuns, t.ctxs, t.regions, t.coverage,
        t.fences, t.pairs, t.fcolLog, t.hangLog, t.queues, t.copies, t.ports, t.inbox, t.engines, t.serv, t.flash,
        t.fuses, t.staged, t.heldBack, t.lastMma, t.sec, t.pwr, t.clk, t.mg, t.pins, t.vfs, t.bar2Pf, t.bar2Vf, t.qmLast⟩
        :=
  ⟨h.pending, h.freeCtr, h.now, h.regs, h.rdLatch, h.wrStage, h.ifLatch, h.rdata, h.b2data, h.hostMem, h.msgs, .inl
      (sub_bit hM rfl), .inl (sub_bit hM rfl), .inl (sub_bit hM rfl), .inl (sub_bit hM rfl), h.hbm, h.hbmBad, h.clearing,
      h.scrubAt, h.sheaf, h.seedbed, h.glean, h.furrows, h.streams, h.dma, h.shadows, h.sems, h.barriers, h.seqRuns,
      h.ctxs, h.regions, h.coverage, h.fences, h.pairs, h.fcolLog, h.hangLog, h.queues, h.copies, h.ports, h.inbox,
      h.engines, h.serv, h.flash, h.fuses, h.staged, h.heldBack, h.lastMma, h.sec, h.pwr, h.clk, h.mg, h.pins, h.vfs,
      h.bar2Pf, h.bar2Vf, h.qmLast⟩

theorem same_u65536 {M : Nat} {s t : State} (h : Same M s t) (hM : 65536 ||| M = M) {x_hbmBad : Store Unit} :
    Same M s ⟨t.pending, t.freeCtr, t.now, t.regs, t.rdLatch, t.wrStage, t.ifLatch, t.rdata, t.b2data, t.hostMem,
        t.msgs, t.msixOn, t.msixOpen, t.msixPend, t.funcMask, t.hbm, x_hbmBad, t.clearing, t.scrubAt, t.sheaf, t.seedbed,
        t.glean, t.furrows, t.streams, t.dma, t.shadows, t.sems, t.barriers, t.seqRuns, t.ctxs, t.regions, t.coverage,
        t.fences, t.pairs, t.fcolLog, t.hangLog, t.queues, t.copies, t.ports, t.inbox, t.engines, t.serv, t.flash,
        t.fuses, t.staged, t.heldBack, t.lastMma, t.sec, t.pwr, t.clk, t.mg, t.pins, t.vfs, t.bar2Pf, t.bar2Vf, t.qmLast⟩
        :=
  ⟨h.pending, h.freeCtr, h.now, h.regs, h.rdLatch, h.wrStage, h.ifLatch, h.rdata, h.b2data, h.hostMem, h.msgs,
      h.msixOn, h.msixOpen, h.msixPend, h.funcMask, h.hbm, .inl (sub_bit hM rfl), h.clearing, h.scrubAt, h.sheaf,
      h.seedbed, h.glean, h.furrows, h.streams, h.dma, h.shadows, h.sems, h.barriers, h.seqRuns, h.ctxs, h.regions,
      h.coverage, h.fences, h.pairs, h.fcolLog, h.hangLog, h.queues, h.copies, h.ports, h.inbox, h.engines, h.serv,
      h.flash, h.fuses, h.staged, h.heldBack, h.lastMma, h.sec, h.pwr, h.clk, h.mg, h.pins, h.vfs, h.bar2Pf, h.bar2Vf,
      h.qmLast⟩

theorem same_u98304 {M : Nat} {s t : State} (h : Same M s t) (hM : 98304 ||| M = M) {x_hbm : Memory} {x_hbmBad : Store
    Unit} :
    Same M s ⟨t.pending, t.freeCtr, t.now, t.regs, t.rdLatch, t.wrStage, t.ifLatch, t.rdata, t.b2data, t.hostMem,
        t.msgs, t.msixOn, t.msixOpen, t.msixPend, t.funcMask, x_hbm, x_hbmBad, t.clearing, t.scrubAt, t.sheaf, t.seedbed,
        t.glean, t.furrows, t.streams, t.dma, t.shadows, t.sems, t.barriers, t.seqRuns, t.ctxs, t.regions, t.coverage,
        t.fences, t.pairs, t.fcolLog, t.hangLog, t.queues, t.copies, t.ports, t.inbox, t.engines, t.serv, t.flash,
        t.fuses, t.staged, t.heldBack, t.lastMma, t.sec, t.pwr, t.clk, t.mg, t.pins, t.vfs, t.bar2Pf, t.bar2Vf, t.qmLast⟩
        :=
  ⟨h.pending, h.freeCtr, h.now, h.regs, h.rdLatch, h.wrStage, h.ifLatch, h.rdata, h.b2data, h.hostMem, h.msgs,
      h.msixOn, h.msixOpen, h.msixPend, h.funcMask, .inl (sub_bit hM rfl), .inl (sub_bit hM rfl), h.clearing, h.scrubAt,
      h.sheaf, h.seedbed, h.glean, h.furrows, h.streams, h.dma, h.shadows, h.sems, h.barriers, h.seqRuns, h.ctxs,
      h.regions, h.coverage, h.fences, h.pairs, h.fcolLog, h.hangLog, h.queues, h.copies, h.ports, h.inbox, h.engines,
      h.serv, h.flash, h.fuses, h.staged, h.heldBack, h.lastMma, h.sec, h.pwr, h.clk, h.mg, h.pins, h.vfs, h.bar2Pf,
      h.bar2Vf, h.qmLast⟩

theorem same_u131072 {M : Nat} {s t : State} (h : Same M s t) (hM : 131072 ||| M = M) {x_clearing : List Nat} :
    Same M s ⟨t.pending, t.freeCtr, t.now, t.regs, t.rdLatch, t.wrStage, t.ifLatch, t.rdata, t.b2data, t.hostMem,
        t.msgs, t.msixOn, t.msixOpen, t.msixPend, t.funcMask, t.hbm, t.hbmBad, x_clearing, t.scrubAt, t.sheaf, t.seedbed,
        t.glean, t.furrows, t.streams, t.dma, t.shadows, t.sems, t.barriers, t.seqRuns, t.ctxs, t.regions, t.coverage,
        t.fences, t.pairs, t.fcolLog, t.hangLog, t.queues, t.copies, t.ports, t.inbox, t.engines, t.serv, t.flash,
        t.fuses, t.staged, t.heldBack, t.lastMma, t.sec, t.pwr, t.clk, t.mg, t.pins, t.vfs, t.bar2Pf, t.bar2Vf, t.qmLast⟩
        :=
  ⟨h.pending, h.freeCtr, h.now, h.regs, h.rdLatch, h.wrStage, h.ifLatch, h.rdata, h.b2data, h.hostMem, h.msgs,
      h.msixOn, h.msixOpen, h.msixPend, h.funcMask, h.hbm, h.hbmBad, .inl (sub_bit hM rfl), h.scrubAt, h.sheaf, h.seedbed,
      h.glean, h.furrows, h.streams, h.dma, h.shadows, h.sems, h.barriers, h.seqRuns, h.ctxs, h.regions, h.coverage,
      h.fences, h.pairs, h.fcolLog, h.hangLog, h.queues, h.copies, h.ports, h.inbox, h.engines, h.serv, h.flash, h.fuses,
      h.staged, h.heldBack, h.lastMma, h.sec, h.pwr, h.clk, h.mg, h.pins, h.vfs, h.bar2Pf, h.bar2Vf, h.qmLast⟩

theorem same_u262144 {M : Nat} {s t : State} (h : Same M s t) (hM : 262144 ||| M = M) {x_scrubAt : Store Nat} :
    Same M s ⟨t.pending, t.freeCtr, t.now, t.regs, t.rdLatch, t.wrStage, t.ifLatch, t.rdata, t.b2data, t.hostMem,
        t.msgs, t.msixOn, t.msixOpen, t.msixPend, t.funcMask, t.hbm, t.hbmBad, t.clearing, x_scrubAt, t.sheaf, t.seedbed,
        t.glean, t.furrows, t.streams, t.dma, t.shadows, t.sems, t.barriers, t.seqRuns, t.ctxs, t.regions, t.coverage,
        t.fences, t.pairs, t.fcolLog, t.hangLog, t.queues, t.copies, t.ports, t.inbox, t.engines, t.serv, t.flash,
        t.fuses, t.staged, t.heldBack, t.lastMma, t.sec, t.pwr, t.clk, t.mg, t.pins, t.vfs, t.bar2Pf, t.bar2Vf, t.qmLast⟩
        :=
  ⟨h.pending, h.freeCtr, h.now, h.regs, h.rdLatch, h.wrStage, h.ifLatch, h.rdata, h.b2data, h.hostMem, h.msgs,
      h.msixOn, h.msixOpen, h.msixPend, h.funcMask, h.hbm, h.hbmBad, h.clearing, .inl (sub_bit hM rfl), h.sheaf,
      h.seedbed, h.glean, h.furrows, h.streams, h.dma, h.shadows, h.sems, h.barriers, h.seqRuns, h.ctxs, h.regions,
      h.coverage, h.fences, h.pairs, h.fcolLog, h.hangLog, h.queues, h.copies, h.ports, h.inbox, h.engines, h.serv,
      h.flash, h.fuses, h.staged, h.heldBack, h.lastMma, h.sec, h.pwr, h.clk, h.mg, h.pins, h.vfs, h.bar2Pf, h.bar2Vf,
      h.qmLast⟩

theorem same_u524288 {M : Nat} {s t : State} (h : Same M s t) (hM : 524288 ||| M = M) {x_sheaf : Memory} :
    Same M s ⟨t.pending, t.freeCtr, t.now, t.regs, t.rdLatch, t.wrStage, t.ifLatch, t.rdata, t.b2data, t.hostMem,
        t.msgs, t.msixOn, t.msixOpen, t.msixPend, t.funcMask, t.hbm, t.hbmBad, t.clearing, t.scrubAt, x_sheaf, t.seedbed,
        t.glean, t.furrows, t.streams, t.dma, t.shadows, t.sems, t.barriers, t.seqRuns, t.ctxs, t.regions, t.coverage,
        t.fences, t.pairs, t.fcolLog, t.hangLog, t.queues, t.copies, t.ports, t.inbox, t.engines, t.serv, t.flash,
        t.fuses, t.staged, t.heldBack, t.lastMma, t.sec, t.pwr, t.clk, t.mg, t.pins, t.vfs, t.bar2Pf, t.bar2Vf, t.qmLast⟩
        :=
  ⟨h.pending, h.freeCtr, h.now, h.regs, h.rdLatch, h.wrStage, h.ifLatch, h.rdata, h.b2data, h.hostMem, h.msgs,
      h.msixOn, h.msixOpen, h.msixPend, h.funcMask, h.hbm, h.hbmBad, h.clearing, h.scrubAt, .inl (sub_bit hM rfl),
      h.seedbed, h.glean, h.furrows, h.streams, h.dma, h.shadows, h.sems, h.barriers, h.seqRuns, h.ctxs, h.regions,
      h.coverage, h.fences, h.pairs, h.fcolLog, h.hangLog, h.queues, h.copies, h.ports, h.inbox, h.engines, h.serv,
      h.flash, h.fuses, h.staged, h.heldBack, h.lastMma, h.sec, h.pwr, h.clk, h.mg, h.pins, h.vfs, h.bar2Pf, h.bar2Vf,
      h.qmLast⟩

theorem same_u1048576 {M : Nat} {s t : State} (h : Same M s t) (hM : 1048576 ||| M = M) {x_seedbed : Memory} :
    Same M s ⟨t.pending, t.freeCtr, t.now, t.regs, t.rdLatch, t.wrStage, t.ifLatch, t.rdata, t.b2data, t.hostMem,
        t.msgs, t.msixOn, t.msixOpen, t.msixPend, t.funcMask, t.hbm, t.hbmBad, t.clearing, t.scrubAt, t.sheaf, x_seedbed,
        t.glean, t.furrows, t.streams, t.dma, t.shadows, t.sems, t.barriers, t.seqRuns, t.ctxs, t.regions, t.coverage,
        t.fences, t.pairs, t.fcolLog, t.hangLog, t.queues, t.copies, t.ports, t.inbox, t.engines, t.serv, t.flash,
        t.fuses, t.staged, t.heldBack, t.lastMma, t.sec, t.pwr, t.clk, t.mg, t.pins, t.vfs, t.bar2Pf, t.bar2Vf, t.qmLast⟩
        :=
  ⟨h.pending, h.freeCtr, h.now, h.regs, h.rdLatch, h.wrStage, h.ifLatch, h.rdata, h.b2data, h.hostMem, h.msgs,
      h.msixOn, h.msixOpen, h.msixPend, h.funcMask, h.hbm, h.hbmBad, h.clearing, h.scrubAt, h.sheaf, .inl (sub_bit hM
      rfl), h.glean, h.furrows, h.streams, h.dma, h.shadows, h.sems, h.barriers, h.seqRuns, h.ctxs, h.regions, h.coverage,
      h.fences, h.pairs, h.fcolLog, h.hangLog, h.queues, h.copies, h.ports, h.inbox, h.engines, h.serv, h.flash, h.fuses,
      h.staged, h.heldBack, h.lastMma, h.sec, h.pwr, h.clk, h.mg, h.pins, h.vfs, h.bar2Pf, h.bar2Vf, h.qmLast⟩

theorem same_u2097152 {M : Nat} {s t : State} (h : Same M s t) (hM : 2097152 ||| M = M) {x_glean : Memory} :
    Same M s ⟨t.pending, t.freeCtr, t.now, t.regs, t.rdLatch, t.wrStage, t.ifLatch, t.rdata, t.b2data, t.hostMem,
        t.msgs, t.msixOn, t.msixOpen, t.msixPend, t.funcMask, t.hbm, t.hbmBad, t.clearing, t.scrubAt, t.sheaf, t.seedbed,
        x_glean, t.furrows, t.streams, t.dma, t.shadows, t.sems, t.barriers, t.seqRuns, t.ctxs, t.regions, t.coverage,
        t.fences, t.pairs, t.fcolLog, t.hangLog, t.queues, t.copies, t.ports, t.inbox, t.engines, t.serv, t.flash,
        t.fuses, t.staged, t.heldBack, t.lastMma, t.sec, t.pwr, t.clk, t.mg, t.pins, t.vfs, t.bar2Pf, t.bar2Vf, t.qmLast⟩
        :=
  ⟨h.pending, h.freeCtr, h.now, h.regs, h.rdLatch, h.wrStage, h.ifLatch, h.rdata, h.b2data, h.hostMem, h.msgs,
      h.msixOn, h.msixOpen, h.msixPend, h.funcMask, h.hbm, h.hbmBad, h.clearing, h.scrubAt, h.sheaf, h.seedbed, .inl
      (sub_bit hM rfl), h.furrows, h.streams, h.dma, h.shadows, h.sems, h.barriers, h.seqRuns, h.ctxs, h.regions,
      h.coverage, h.fences, h.pairs, h.fcolLog, h.hangLog, h.queues, h.copies, h.ports, h.inbox, h.engines, h.serv,
      h.flash, h.fuses, h.staged, h.heldBack, h.lastMma, h.sec, h.pwr, h.clk, h.mg, h.pins, h.vfs, h.bar2Pf, h.bar2Vf,
      h.qmLast⟩

theorem same_u2621440 {M : Nat} {s t : State} (h : Same M s t) (hM : 2621440 ||| M = M) {x_sheaf : Memory} {x_glean :
    Memory} :
    Same M s ⟨t.pending, t.freeCtr, t.now, t.regs, t.rdLatch, t.wrStage, t.ifLatch, t.rdata, t.b2data, t.hostMem,
        t.msgs, t.msixOn, t.msixOpen, t.msixPend, t.funcMask, t.hbm, t.hbmBad, t.clearing, t.scrubAt, x_sheaf, t.seedbed,
        x_glean, t.furrows, t.streams, t.dma, t.shadows, t.sems, t.barriers, t.seqRuns, t.ctxs, t.regions, t.coverage,
        t.fences, t.pairs, t.fcolLog, t.hangLog, t.queues, t.copies, t.ports, t.inbox, t.engines, t.serv, t.flash,
        t.fuses, t.staged, t.heldBack, t.lastMma, t.sec, t.pwr, t.clk, t.mg, t.pins, t.vfs, t.bar2Pf, t.bar2Vf, t.qmLast⟩
        :=
  ⟨h.pending, h.freeCtr, h.now, h.regs, h.rdLatch, h.wrStage, h.ifLatch, h.rdata, h.b2data, h.hostMem, h.msgs,
      h.msixOn, h.msixOpen, h.msixPend, h.funcMask, h.hbm, h.hbmBad, h.clearing, h.scrubAt, .inl (sub_bit hM rfl),
      h.seedbed, .inl (sub_bit hM rfl), h.furrows, h.streams, h.dma, h.shadows, h.sems, h.barriers, h.seqRuns, h.ctxs,
      h.regions, h.coverage, h.fences, h.pairs, h.fcolLog, h.hangLog, h.queues, h.copies, h.ports, h.inbox, h.engines,
      h.serv, h.flash, h.fuses, h.staged, h.heldBack, h.lastMma, h.sec, h.pwr, h.clk, h.mg, h.pins, h.vfs, h.bar2Pf,
      h.bar2Vf, h.qmLast⟩

theorem same_u3145728 {M : Nat} {s t : State} (h : Same M s t) (hM : 3145728 ||| M = M) {x_seedbed : Memory} {x_glean
    : Memory} :
    Same M s ⟨t.pending, t.freeCtr, t.now, t.regs, t.rdLatch, t.wrStage, t.ifLatch, t.rdata, t.b2data, t.hostMem,
        t.msgs, t.msixOn, t.msixOpen, t.msixPend, t.funcMask, t.hbm, t.hbmBad, t.clearing, t.scrubAt, t.sheaf, x_seedbed,
        x_glean, t.furrows, t.streams, t.dma, t.shadows, t.sems, t.barriers, t.seqRuns, t.ctxs, t.regions, t.coverage,
        t.fences, t.pairs, t.fcolLog, t.hangLog, t.queues, t.copies, t.ports, t.inbox, t.engines, t.serv, t.flash,
        t.fuses, t.staged, t.heldBack, t.lastMma, t.sec, t.pwr, t.clk, t.mg, t.pins, t.vfs, t.bar2Pf, t.bar2Vf, t.qmLast⟩
        :=
  ⟨h.pending, h.freeCtr, h.now, h.regs, h.rdLatch, h.wrStage, h.ifLatch, h.rdata, h.b2data, h.hostMem, h.msgs,
      h.msixOn, h.msixOpen, h.msixPend, h.funcMask, h.hbm, h.hbmBad, h.clearing, h.scrubAt, h.sheaf, .inl (sub_bit hM
      rfl), .inl (sub_bit hM rfl), h.furrows, h.streams, h.dma, h.shadows, h.sems, h.barriers, h.seqRuns, h.ctxs,
      h.regions, h.coverage, h.fences, h.pairs, h.fcolLog, h.hangLog, h.queues, h.copies, h.ports, h.inbox, h.engines,
      h.serv, h.flash, h.fuses, h.staged, h.heldBack, h.lastMma, h.sec, h.pwr, h.clk, h.mg, h.pins, h.vfs, h.bar2Pf,
      h.bar2Vf, h.qmLast⟩

theorem same_u3670016 {M : Nat} {s t : State} (h : Same M s t) (hM : 3670016 ||| M = M) {x_sheaf : Memory} {x_seedbed
    : Memory} {x_glean : Memory} :
    Same M s ⟨t.pending, t.freeCtr, t.now, t.regs, t.rdLatch, t.wrStage, t.ifLatch, t.rdata, t.b2data, t.hostMem,
        t.msgs, t.msixOn, t.msixOpen, t.msixPend, t.funcMask, t.hbm, t.hbmBad, t.clearing, t.scrubAt, x_sheaf, x_seedbed,
        x_glean, t.furrows, t.streams, t.dma, t.shadows, t.sems, t.barriers, t.seqRuns, t.ctxs, t.regions, t.coverage,
        t.fences, t.pairs, t.fcolLog, t.hangLog, t.queues, t.copies, t.ports, t.inbox, t.engines, t.serv, t.flash,
        t.fuses, t.staged, t.heldBack, t.lastMma, t.sec, t.pwr, t.clk, t.mg, t.pins, t.vfs, t.bar2Pf, t.bar2Vf, t.qmLast⟩
        :=
  ⟨h.pending, h.freeCtr, h.now, h.regs, h.rdLatch, h.wrStage, h.ifLatch, h.rdata, h.b2data, h.hostMem, h.msgs,
      h.msixOn, h.msixOpen, h.msixPend, h.funcMask, h.hbm, h.hbmBad, h.clearing, h.scrubAt, .inl (sub_bit hM rfl), .inl
      (sub_bit hM rfl), .inl (sub_bit hM rfl), h.furrows, h.streams, h.dma, h.shadows, h.sems, h.barriers, h.seqRuns,
      h.ctxs, h.regions, h.coverage, h.fences, h.pairs, h.fcolLog, h.hangLog, h.queues, h.copies, h.ports, h.inbox,
      h.engines, h.serv, h.flash, h.fuses, h.staged, h.heldBack, h.lastMma, h.sec, h.pwr, h.clk, h.mg, h.pins, h.vfs,
      h.bar2Pf, h.bar2Vf, h.qmLast⟩

theorem same_u4194304 {M : Nat} {s t : State} (h : Same M s t) (hM : 4194304 ||| M = M) {x_furrows : Store FurrowSt} :
    Same M s ⟨t.pending, t.freeCtr, t.now, t.regs, t.rdLatch, t.wrStage, t.ifLatch, t.rdata, t.b2data, t.hostMem,
        t.msgs, t.msixOn, t.msixOpen, t.msixPend, t.funcMask, t.hbm, t.hbmBad, t.clearing, t.scrubAt, t.sheaf, t.seedbed,
        t.glean, x_furrows, t.streams, t.dma, t.shadows, t.sems, t.barriers, t.seqRuns, t.ctxs, t.regions, t.coverage,
        t.fences, t.pairs, t.fcolLog, t.hangLog, t.queues, t.copies, t.ports, t.inbox, t.engines, t.serv, t.flash,
        t.fuses, t.staged, t.heldBack, t.lastMma, t.sec, t.pwr, t.clk, t.mg, t.pins, t.vfs, t.bar2Pf, t.bar2Vf, t.qmLast⟩
        :=
  ⟨h.pending, h.freeCtr, h.now, h.regs, h.rdLatch, h.wrStage, h.ifLatch, h.rdata, h.b2data, h.hostMem, h.msgs,
      h.msixOn, h.msixOpen, h.msixPend, h.funcMask, h.hbm, h.hbmBad, h.clearing, h.scrubAt, h.sheaf, h.seedbed, h.glean,
      .inl (sub_bit hM rfl), h.streams, h.dma, h.shadows, h.sems, h.barriers, h.seqRuns, h.ctxs, h.regions, h.coverage,
      h.fences, h.pairs, h.fcolLog, h.hangLog, h.queues, h.copies, h.ports, h.inbox, h.engines, h.serv, h.flash, h.fuses,
      h.staged, h.heldBack, h.lastMma, h.sec, h.pwr, h.clk, h.mg, h.pins, h.vfs, h.bar2Pf, h.bar2Vf, h.qmLast⟩

theorem same_u8388608 {M : Nat} {s t : State} (h : Same M s t) (hM : 8388608 ||| M = M) {x_streams : Store StreamSt} :
    Same M s ⟨t.pending, t.freeCtr, t.now, t.regs, t.rdLatch, t.wrStage, t.ifLatch, t.rdata, t.b2data, t.hostMem,
        t.msgs, t.msixOn, t.msixOpen, t.msixPend, t.funcMask, t.hbm, t.hbmBad, t.clearing, t.scrubAt, t.sheaf, t.seedbed,
        t.glean, t.furrows, x_streams, t.dma, t.shadows, t.sems, t.barriers, t.seqRuns, t.ctxs, t.regions, t.coverage,
        t.fences, t.pairs, t.fcolLog, t.hangLog, t.queues, t.copies, t.ports, t.inbox, t.engines, t.serv, t.flash,
        t.fuses, t.staged, t.heldBack, t.lastMma, t.sec, t.pwr, t.clk, t.mg, t.pins, t.vfs, t.bar2Pf, t.bar2Vf, t.qmLast⟩
        :=
  ⟨h.pending, h.freeCtr, h.now, h.regs, h.rdLatch, h.wrStage, h.ifLatch, h.rdata, h.b2data, h.hostMem, h.msgs,
      h.msixOn, h.msixOpen, h.msixPend, h.funcMask, h.hbm, h.hbmBad, h.clearing, h.scrubAt, h.sheaf, h.seedbed, h.glean,
      h.furrows, .inl (sub_bit hM rfl), h.dma, h.shadows, h.sems, h.barriers, h.seqRuns, h.ctxs, h.regions, h.coverage,
      h.fences, h.pairs, h.fcolLog, h.hangLog, h.queues, h.copies, h.ports, h.inbox, h.engines, h.serv, h.flash, h.fuses,
      h.staged, h.heldBack, h.lastMma, h.sec, h.pwr, h.clk, h.mg, h.pins, h.vfs, h.bar2Pf, h.bar2Vf, h.qmLast⟩

theorem same_u16777216 {M : Nat} {s t : State} (h : Same M s t) (hM : 16777216 ||| M = M) {x_dma : Store DmaSt} :
    Same M s ⟨t.pending, t.freeCtr, t.now, t.regs, t.rdLatch, t.wrStage, t.ifLatch, t.rdata, t.b2data, t.hostMem,
        t.msgs, t.msixOn, t.msixOpen, t.msixPend, t.funcMask, t.hbm, t.hbmBad, t.clearing, t.scrubAt, t.sheaf, t.seedbed,
        t.glean, t.furrows, t.streams, x_dma, t.shadows, t.sems, t.barriers, t.seqRuns, t.ctxs, t.regions, t.coverage,
        t.fences, t.pairs, t.fcolLog, t.hangLog, t.queues, t.copies, t.ports, t.inbox, t.engines, t.serv, t.flash,
        t.fuses, t.staged, t.heldBack, t.lastMma, t.sec, t.pwr, t.clk, t.mg, t.pins, t.vfs, t.bar2Pf, t.bar2Vf, t.qmLast⟩
        :=
  ⟨h.pending, h.freeCtr, h.now, h.regs, h.rdLatch, h.wrStage, h.ifLatch, h.rdata, h.b2data, h.hostMem, h.msgs,
      h.msixOn, h.msixOpen, h.msixPend, h.funcMask, h.hbm, h.hbmBad, h.clearing, h.scrubAt, h.sheaf, h.seedbed, h.glean,
      h.furrows, h.streams, .inl (sub_bit hM rfl), h.shadows, h.sems, h.barriers, h.seqRuns, h.ctxs, h.regions,
      h.coverage, h.fences, h.pairs, h.fcolLog, h.hangLog, h.queues, h.copies, h.ports, h.inbox, h.engines, h.serv,
      h.flash, h.fuses, h.staged, h.heldBack, h.lastMma, h.sec, h.pwr, h.clk, h.mg, h.pins, h.vfs, h.bar2Pf, h.bar2Vf,
      h.qmLast⟩

theorem same_u33554432 {M : Nat} {s t : State} (h : Same M s t) (hM : 33554432 ||| M = M) {x_shadows : List ShadowOp} :
    Same M s ⟨t.pending, t.freeCtr, t.now, t.regs, t.rdLatch, t.wrStage, t.ifLatch, t.rdata, t.b2data, t.hostMem,
        t.msgs, t.msixOn, t.msixOpen, t.msixPend, t.funcMask, t.hbm, t.hbmBad, t.clearing, t.scrubAt, t.sheaf, t.seedbed,
        t.glean, t.furrows, t.streams, t.dma, x_shadows, t.sems, t.barriers, t.seqRuns, t.ctxs, t.regions, t.coverage,
        t.fences, t.pairs, t.fcolLog, t.hangLog, t.queues, t.copies, t.ports, t.inbox, t.engines, t.serv, t.flash,
        t.fuses, t.staged, t.heldBack, t.lastMma, t.sec, t.pwr, t.clk, t.mg, t.pins, t.vfs, t.bar2Pf, t.bar2Vf, t.qmLast⟩
        :=
  ⟨h.pending, h.freeCtr, h.now, h.regs, h.rdLatch, h.wrStage, h.ifLatch, h.rdata, h.b2data, h.hostMem, h.msgs,
      h.msixOn, h.msixOpen, h.msixPend, h.funcMask, h.hbm, h.hbmBad, h.clearing, h.scrubAt, h.sheaf, h.seedbed, h.glean,
      h.furrows, h.streams, h.dma, .inl (sub_bit hM rfl), h.sems, h.barriers, h.seqRuns, h.ctxs, h.regions, h.coverage,
      h.fences, h.pairs, h.fcolLog, h.hangLog, h.queues, h.copies, h.ports, h.inbox, h.engines, h.serv, h.flash, h.fuses,
      h.staged, h.heldBack, h.lastMma, h.sec, h.pwr, h.clk, h.mg, h.pins, h.vfs, h.bar2Pf, h.bar2Vf, h.qmLast⟩

theorem same_u36700160 {M : Nat} {s t : State} (h : Same M s t) (hM : 36700160 ||| M = M) {x_seedbed : Memory}
    {x_glean : Memory} {x_shadows : List ShadowOp} :
    Same M s ⟨t.pending, t.freeCtr, t.now, t.regs, t.rdLatch, t.wrStage, t.ifLatch, t.rdata, t.b2data, t.hostMem,
        t.msgs, t.msixOn, t.msixOpen, t.msixPend, t.funcMask, t.hbm, t.hbmBad, t.clearing, t.scrubAt, t.sheaf, x_seedbed,
        x_glean, t.furrows, t.streams, t.dma, x_shadows, t.sems, t.barriers, t.seqRuns, t.ctxs, t.regions, t.coverage,
        t.fences, t.pairs, t.fcolLog, t.hangLog, t.queues, t.copies, t.ports, t.inbox, t.engines, t.serv, t.flash,
        t.fuses, t.staged, t.heldBack, t.lastMma, t.sec, t.pwr, t.clk, t.mg, t.pins, t.vfs, t.bar2Pf, t.bar2Vf, t.qmLast⟩
        :=
  ⟨h.pending, h.freeCtr, h.now, h.regs, h.rdLatch, h.wrStage, h.ifLatch, h.rdata, h.b2data, h.hostMem, h.msgs,
      h.msixOn, h.msixOpen, h.msixPend, h.funcMask, h.hbm, h.hbmBad, h.clearing, h.scrubAt, h.sheaf, .inl (sub_bit hM
      rfl), .inl (sub_bit hM rfl), h.furrows, h.streams, h.dma, .inl (sub_bit hM rfl), h.sems, h.barriers, h.seqRuns,
      h.ctxs, h.regions, h.coverage, h.fences, h.pairs, h.fcolLog, h.hangLog, h.queues, h.copies, h.ports, h.inbox,
      h.engines, h.serv, h.flash, h.fuses, h.staged, h.heldBack, h.lastMma, h.sec, h.pwr, h.clk, h.mg, h.pins, h.vfs,
      h.bar2Pf, h.bar2Vf, h.qmLast⟩

theorem same_u67108864 {M : Nat} {s t : State} (h : Same M s t) (hM : 67108864 ||| M = M) {x_sems : Store Nat} :
    Same M s ⟨t.pending, t.freeCtr, t.now, t.regs, t.rdLatch, t.wrStage, t.ifLatch, t.rdata, t.b2data, t.hostMem,
        t.msgs, t.msixOn, t.msixOpen, t.msixPend, t.funcMask, t.hbm, t.hbmBad, t.clearing, t.scrubAt, t.sheaf, t.seedbed,
        t.glean, t.furrows, t.streams, t.dma, t.shadows, x_sems, t.barriers, t.seqRuns, t.ctxs, t.regions, t.coverage,
        t.fences, t.pairs, t.fcolLog, t.hangLog, t.queues, t.copies, t.ports, t.inbox, t.engines, t.serv, t.flash,
        t.fuses, t.staged, t.heldBack, t.lastMma, t.sec, t.pwr, t.clk, t.mg, t.pins, t.vfs, t.bar2Pf, t.bar2Vf, t.qmLast⟩
        :=
  ⟨h.pending, h.freeCtr, h.now, h.regs, h.rdLatch, h.wrStage, h.ifLatch, h.rdata, h.b2data, h.hostMem, h.msgs,
      h.msixOn, h.msixOpen, h.msixPend, h.funcMask, h.hbm, h.hbmBad, h.clearing, h.scrubAt, h.sheaf, h.seedbed, h.glean,
      h.furrows, h.streams, h.dma, h.shadows, .inl (sub_bit hM rfl), h.barriers, h.seqRuns, h.ctxs, h.regions, h.coverage,
      h.fences, h.pairs, h.fcolLog, h.hangLog, h.queues, h.copies, h.ports, h.inbox, h.engines, h.serv, h.flash, h.fuses,
      h.staged, h.heldBack, h.lastMma, h.sec, h.pwr, h.clk, h.mg, h.pins, h.vfs, h.bar2Pf, h.bar2Vf, h.qmLast⟩

theorem same_u134217728 {M : Nat} {s t : State} (h : Same M s t) (hM : 134217728 ||| M = M) {x_barriers : Store Barrier} :
    Same M s ⟨t.pending, t.freeCtr, t.now, t.regs, t.rdLatch, t.wrStage, t.ifLatch, t.rdata, t.b2data, t.hostMem,
        t.msgs, t.msixOn, t.msixOpen, t.msixPend, t.funcMask, t.hbm, t.hbmBad, t.clearing, t.scrubAt, t.sheaf, t.seedbed,
        t.glean, t.furrows, t.streams, t.dma, t.shadows, t.sems, x_barriers, t.seqRuns, t.ctxs, t.regions, t.coverage,
        t.fences, t.pairs, t.fcolLog, t.hangLog, t.queues, t.copies, t.ports, t.inbox, t.engines, t.serv, t.flash,
        t.fuses, t.staged, t.heldBack, t.lastMma, t.sec, t.pwr, t.clk, t.mg, t.pins, t.vfs, t.bar2Pf, t.bar2Vf, t.qmLast⟩
        :=
  ⟨h.pending, h.freeCtr, h.now, h.regs, h.rdLatch, h.wrStage, h.ifLatch, h.rdata, h.b2data, h.hostMem, h.msgs,
      h.msixOn, h.msixOpen, h.msixPend, h.funcMask, h.hbm, h.hbmBad, h.clearing, h.scrubAt, h.sheaf, h.seedbed, h.glean,
      h.furrows, h.streams, h.dma, h.shadows, h.sems, .inl (sub_bit hM rfl), h.seqRuns, h.ctxs, h.regions, h.coverage,
      h.fences, h.pairs, h.fcolLog, h.hangLog, h.queues, h.copies, h.ports, h.inbox, h.engines, h.serv, h.flash, h.fuses,
      h.staged, h.heldBack, h.lastMma, h.sec, h.pwr, h.clk, h.mg, h.pins, h.vfs, h.bar2Pf, h.bar2Vf, h.qmLast⟩

theorem same_u142606336 {M : Nat} {s t : State} (h : Same M s t) (hM : 142606336 ||| M = M) {x_streams : Store
    StreamSt} {x_barriers : Store Barrier} :
    Same M s ⟨t.pending, t.freeCtr, t.now, t.regs, t.rdLatch, t.wrStage, t.ifLatch, t.rdata, t.b2data, t.hostMem,
        t.msgs, t.msixOn, t.msixOpen, t.msixPend, t.funcMask, t.hbm, t.hbmBad, t.clearing, t.scrubAt, t.sheaf, t.seedbed,
        t.glean, t.furrows, x_streams, t.dma, t.shadows, t.sems, x_barriers, t.seqRuns, t.ctxs, t.regions, t.coverage,
        t.fences, t.pairs, t.fcolLog, t.hangLog, t.queues, t.copies, t.ports, t.inbox, t.engines, t.serv, t.flash,
        t.fuses, t.staged, t.heldBack, t.lastMma, t.sec, t.pwr, t.clk, t.mg, t.pins, t.vfs, t.bar2Pf, t.bar2Vf, t.qmLast⟩
        :=
  ⟨h.pending, h.freeCtr, h.now, h.regs, h.rdLatch, h.wrStage, h.ifLatch, h.rdata, h.b2data, h.hostMem, h.msgs,
      h.msixOn, h.msixOpen, h.msixPend, h.funcMask, h.hbm, h.hbmBad, h.clearing, h.scrubAt, h.sheaf, h.seedbed, h.glean,
      h.furrows, .inl (sub_bit hM rfl), h.dma, h.shadows, h.sems, .inl (sub_bit hM rfl), h.seqRuns, h.ctxs, h.regions,
      h.coverage, h.fences, h.pairs, h.fcolLog, h.hangLog, h.queues, h.copies, h.ports, h.inbox, h.engines, h.serv,
      h.flash, h.fuses, h.staged, h.heldBack, h.lastMma, h.sec, h.pwr, h.clk, h.mg, h.pins, h.vfs, h.bar2Pf, h.bar2Vf,
      h.qmLast⟩

theorem same_u201326592 {M : Nat} {s t : State} (h : Same M s t) (hM : 201326592 ||| M = M) {x_sems : Store Nat}
    {x_barriers : Store Barrier} :
    Same M s ⟨t.pending, t.freeCtr, t.now, t.regs, t.rdLatch, t.wrStage, t.ifLatch, t.rdata, t.b2data, t.hostMem,
        t.msgs, t.msixOn, t.msixOpen, t.msixPend, t.funcMask, t.hbm, t.hbmBad, t.clearing, t.scrubAt, t.sheaf, t.seedbed,
        t.glean, t.furrows, t.streams, t.dma, t.shadows, x_sems, x_barriers, t.seqRuns, t.ctxs, t.regions, t.coverage,
        t.fences, t.pairs, t.fcolLog, t.hangLog, t.queues, t.copies, t.ports, t.inbox, t.engines, t.serv, t.flash,
        t.fuses, t.staged, t.heldBack, t.lastMma, t.sec, t.pwr, t.clk, t.mg, t.pins, t.vfs, t.bar2Pf, t.bar2Vf, t.qmLast⟩
        :=
  ⟨h.pending, h.freeCtr, h.now, h.regs, h.rdLatch, h.wrStage, h.ifLatch, h.rdata, h.b2data, h.hostMem, h.msgs,
      h.msixOn, h.msixOpen, h.msixPend, h.funcMask, h.hbm, h.hbmBad, h.clearing, h.scrubAt, h.sheaf, h.seedbed, h.glean,
      h.furrows, h.streams, h.dma, h.shadows, .inl (sub_bit hM rfl), .inl (sub_bit hM rfl), h.seqRuns, h.ctxs, h.regions,
      h.coverage, h.fences, h.pairs, h.fcolLog, h.hangLog, h.queues, h.copies, h.ports, h.inbox, h.engines, h.serv,
      h.flash, h.fuses, h.staged, h.heldBack, h.lastMma, h.sec, h.pwr, h.clk, h.mg, h.pins, h.vfs, h.bar2Pf, h.bar2Vf,
      h.qmLast⟩

theorem same_u268435456 {M : Nat} {s t : State} (h : Same M s t) (hM : 268435456 ||| M = M) {x_seqRuns : List SeqRun} :
    Same M s ⟨t.pending, t.freeCtr, t.now, t.regs, t.rdLatch, t.wrStage, t.ifLatch, t.rdata, t.b2data, t.hostMem,
        t.msgs, t.msixOn, t.msixOpen, t.msixPend, t.funcMask, t.hbm, t.hbmBad, t.clearing, t.scrubAt, t.sheaf, t.seedbed,
        t.glean, t.furrows, t.streams, t.dma, t.shadows, t.sems, t.barriers, x_seqRuns, t.ctxs, t.regions, t.coverage,
        t.fences, t.pairs, t.fcolLog, t.hangLog, t.queues, t.copies, t.ports, t.inbox, t.engines, t.serv, t.flash,
        t.fuses, t.staged, t.heldBack, t.lastMma, t.sec, t.pwr, t.clk, t.mg, t.pins, t.vfs, t.bar2Pf, t.bar2Vf, t.qmLast⟩
        :=
  ⟨h.pending, h.freeCtr, h.now, h.regs, h.rdLatch, h.wrStage, h.ifLatch, h.rdata, h.b2data, h.hostMem, h.msgs,
      h.msixOn, h.msixOpen, h.msixPend, h.funcMask, h.hbm, h.hbmBad, h.clearing, h.scrubAt, h.sheaf, h.seedbed, h.glean,
      h.furrows, h.streams, h.dma, h.shadows, h.sems, h.barriers, .inl (sub_bit hM rfl), h.ctxs, h.regions, h.coverage,
      h.fences, h.pairs, h.fcolLog, h.hangLog, h.queues, h.copies, h.ports, h.inbox, h.engines, h.serv, h.flash, h.fuses,
      h.staged, h.heldBack, h.lastMma, h.sec, h.pwr, h.clk, h.mg, h.pins, h.vfs, h.bar2Pf, h.bar2Vf, h.qmLast⟩

theorem same_u276824064 {M : Nat} {s t : State} (h : Same M s t) (hM : 276824064 ||| M = M) {x_streams : Store
    StreamSt} {x_seqRuns : List SeqRun} :
    Same M s ⟨t.pending, t.freeCtr, t.now, t.regs, t.rdLatch, t.wrStage, t.ifLatch, t.rdata, t.b2data, t.hostMem,
        t.msgs, t.msixOn, t.msixOpen, t.msixPend, t.funcMask, t.hbm, t.hbmBad, t.clearing, t.scrubAt, t.sheaf, t.seedbed,
        t.glean, t.furrows, x_streams, t.dma, t.shadows, t.sems, t.barriers, x_seqRuns, t.ctxs, t.regions, t.coverage,
        t.fences, t.pairs, t.fcolLog, t.hangLog, t.queues, t.copies, t.ports, t.inbox, t.engines, t.serv, t.flash,
        t.fuses, t.staged, t.heldBack, t.lastMma, t.sec, t.pwr, t.clk, t.mg, t.pins, t.vfs, t.bar2Pf, t.bar2Vf, t.qmLast⟩
        :=
  ⟨h.pending, h.freeCtr, h.now, h.regs, h.rdLatch, h.wrStage, h.ifLatch, h.rdata, h.b2data, h.hostMem, h.msgs,
      h.msixOn, h.msixOpen, h.msixPend, h.funcMask, h.hbm, h.hbmBad, h.clearing, h.scrubAt, h.sheaf, h.seedbed, h.glean,
      h.furrows, .inl (sub_bit hM rfl), h.dma, h.shadows, h.sems, h.barriers, .inl (sub_bit hM rfl), h.ctxs, h.regions,
      h.coverage, h.fences, h.pairs, h.fcolLog, h.hangLog, h.queues, h.copies, h.ports, h.inbox, h.engines, h.serv,
      h.flash, h.fuses, h.staged, h.heldBack, h.lastMma, h.sec, h.pwr, h.clk, h.mg, h.pins, h.vfs, h.bar2Pf, h.bar2Vf,
      h.qmLast⟩

theorem same_u536870912 {M : Nat} {s t : State} (h : Same M s t) (hM : 536870912 ||| M = M) {x_ctxs : Store CtxSt} :
    Same M s ⟨t.pending, t.freeCtr, t.now, t.regs, t.rdLatch, t.wrStage, t.ifLatch, t.rdata, t.b2data, t.hostMem,
        t.msgs, t.msixOn, t.msixOpen, t.msixPend, t.funcMask, t.hbm, t.hbmBad, t.clearing, t.scrubAt, t.sheaf, t.seedbed,
        t.glean, t.furrows, t.streams, t.dma, t.shadows, t.sems, t.barriers, t.seqRuns, x_ctxs, t.regions, t.coverage,
        t.fences, t.pairs, t.fcolLog, t.hangLog, t.queues, t.copies, t.ports, t.inbox, t.engines, t.serv, t.flash,
        t.fuses, t.staged, t.heldBack, t.lastMma, t.sec, t.pwr, t.clk, t.mg, t.pins, t.vfs, t.bar2Pf, t.bar2Vf, t.qmLast⟩
        :=
  ⟨h.pending, h.freeCtr, h.now, h.regs, h.rdLatch, h.wrStage, h.ifLatch, h.rdata, h.b2data, h.hostMem, h.msgs,
      h.msixOn, h.msixOpen, h.msixPend, h.funcMask, h.hbm, h.hbmBad, h.clearing, h.scrubAt, h.sheaf, h.seedbed, h.glean,
      h.furrows, h.streams, h.dma, h.shadows, h.sems, h.barriers, h.seqRuns, .inl (sub_bit hM rfl), h.regions, h.coverage,
      h.fences, h.pairs, h.fcolLog, h.hangLog, h.queues, h.copies, h.ports, h.inbox, h.engines, h.serv, h.flash, h.fuses,
      h.staged, h.heldBack, h.lastMma, h.sec, h.pwr, h.clk, h.mg, h.pins, h.vfs, h.bar2Pf, h.bar2Vf, h.qmLast⟩

theorem same_u1073741824 {M : Nat} {s t : State} (h : Same M s t) (hM : 1073741824 ||| M = M) {x_regions : Store Region} :
    Same M s ⟨t.pending, t.freeCtr, t.now, t.regs, t.rdLatch, t.wrStage, t.ifLatch, t.rdata, t.b2data, t.hostMem,
        t.msgs, t.msixOn, t.msixOpen, t.msixPend, t.funcMask, t.hbm, t.hbmBad, t.clearing, t.scrubAt, t.sheaf, t.seedbed,
        t.glean, t.furrows, t.streams, t.dma, t.shadows, t.sems, t.barriers, t.seqRuns, t.ctxs, x_regions, t.coverage,
        t.fences, t.pairs, t.fcolLog, t.hangLog, t.queues, t.copies, t.ports, t.inbox, t.engines, t.serv, t.flash,
        t.fuses, t.staged, t.heldBack, t.lastMma, t.sec, t.pwr, t.clk, t.mg, t.pins, t.vfs, t.bar2Pf, t.bar2Vf, t.qmLast⟩
        :=
  ⟨h.pending, h.freeCtr, h.now, h.regs, h.rdLatch, h.wrStage, h.ifLatch, h.rdata, h.b2data, h.hostMem, h.msgs,
      h.msixOn, h.msixOpen, h.msixPend, h.funcMask, h.hbm, h.hbmBad, h.clearing, h.scrubAt, h.sheaf, h.seedbed, h.glean,
      h.furrows, h.streams, h.dma, h.shadows, h.sems, h.barriers, h.seqRuns, h.ctxs, .inl (sub_bit hM rfl), h.coverage,
      h.fences, h.pairs, h.fcolLog, h.hangLog, h.queues, h.copies, h.ports, h.inbox, h.engines, h.serv, h.flash, h.fuses,
      h.staged, h.heldBack, h.lastMma, h.sec, h.pwr, h.clk, h.mg, h.pins, h.vfs, h.bar2Pf, h.bar2Vf, h.qmLast⟩

theorem same_u2147483648 {M : Nat} {s t : State} (h : Same M s t) (hM : 2147483648 ||| M = M) {x_coverage : Store Unit} :
    Same M s ⟨t.pending, t.freeCtr, t.now, t.regs, t.rdLatch, t.wrStage, t.ifLatch, t.rdata, t.b2data, t.hostMem,
        t.msgs, t.msixOn, t.msixOpen, t.msixPend, t.funcMask, t.hbm, t.hbmBad, t.clearing, t.scrubAt, t.sheaf, t.seedbed,
        t.glean, t.furrows, t.streams, t.dma, t.shadows, t.sems, t.barriers, t.seqRuns, t.ctxs, t.regions, x_coverage,
        t.fences, t.pairs, t.fcolLog, t.hangLog, t.queues, t.copies, t.ports, t.inbox, t.engines, t.serv, t.flash,
        t.fuses, t.staged, t.heldBack, t.lastMma, t.sec, t.pwr, t.clk, t.mg, t.pins, t.vfs, t.bar2Pf, t.bar2Vf, t.qmLast⟩
        :=
  ⟨h.pending, h.freeCtr, h.now, h.regs, h.rdLatch, h.wrStage, h.ifLatch, h.rdata, h.b2data, h.hostMem, h.msgs,
      h.msixOn, h.msixOpen, h.msixPend, h.funcMask, h.hbm, h.hbmBad, h.clearing, h.scrubAt, h.sheaf, h.seedbed, h.glean,
      h.furrows, h.streams, h.dma, h.shadows, h.sems, h.barriers, h.seqRuns, h.ctxs, h.regions, .inl (sub_bit hM rfl),
      h.fences, h.pairs, h.fcolLog, h.hangLog, h.queues, h.copies, h.ports, h.inbox, h.engines, h.serv, h.flash, h.fuses,
      h.staged, h.heldBack, h.lastMma, h.sec, h.pwr, h.clk, h.mg, h.pins, h.vfs, h.bar2Pf, h.bar2Vf, h.qmLast⟩

theorem same_u4294967296 {M : Nat} {s t : State} (h : Same M s t) (hM : 4294967296 ||| M = M) {x_fences : List (Dom ×
    FPhase)} :
    Same M s ⟨t.pending, t.freeCtr, t.now, t.regs, t.rdLatch, t.wrStage, t.ifLatch, t.rdata, t.b2data, t.hostMem,
        t.msgs, t.msixOn, t.msixOpen, t.msixPend, t.funcMask, t.hbm, t.hbmBad, t.clearing, t.scrubAt, t.sheaf, t.seedbed,
        t.glean, t.furrows, t.streams, t.dma, t.shadows, t.sems, t.barriers, t.seqRuns, t.ctxs, t.regions, t.coverage,
        x_fences, t.pairs, t.fcolLog, t.hangLog, t.queues, t.copies, t.ports, t.inbox, t.engines, t.serv, t.flash,
        t.fuses, t.staged, t.heldBack, t.lastMma, t.sec, t.pwr, t.clk, t.mg, t.pins, t.vfs, t.bar2Pf, t.bar2Vf, t.qmLast⟩
        :=
  ⟨h.pending, h.freeCtr, h.now, h.regs, h.rdLatch, h.wrStage, h.ifLatch, h.rdata, h.b2data, h.hostMem, h.msgs,
      h.msixOn, h.msixOpen, h.msixPend, h.funcMask, h.hbm, h.hbmBad, h.clearing, h.scrubAt, h.sheaf, h.seedbed, h.glean,
      h.furrows, h.streams, h.dma, h.shadows, h.sems, h.barriers, h.seqRuns, h.ctxs, h.regions, h.coverage, .inl (sub_bit
      hM rfl), h.pairs, h.fcolLog, h.hangLog, h.queues, h.copies, h.ports, h.inbox, h.engines, h.serv, h.flash, h.fuses,
      h.staged, h.heldBack, h.lastMma, h.sec, h.pwr, h.clk, h.mg, h.pins, h.vfs, h.bar2Pf, h.bar2Vf, h.qmLast⟩

theorem same_u8589934592 {M : Nat} {s t : State} (h : Same M s t) (hM : 8589934592 ||| M = M) {x_pairs : Store PairSt} :
    Same M s ⟨t.pending, t.freeCtr, t.now, t.regs, t.rdLatch, t.wrStage, t.ifLatch, t.rdata, t.b2data, t.hostMem,
        t.msgs, t.msixOn, t.msixOpen, t.msixPend, t.funcMask, t.hbm, t.hbmBad, t.clearing, t.scrubAt, t.sheaf, t.seedbed,
        t.glean, t.furrows, t.streams, t.dma, t.shadows, t.sems, t.barriers, t.seqRuns, t.ctxs, t.regions, t.coverage,
        t.fences, x_pairs, t.fcolLog, t.hangLog, t.queues, t.copies, t.ports, t.inbox, t.engines, t.serv, t.flash,
        t.fuses, t.staged, t.heldBack, t.lastMma, t.sec, t.pwr, t.clk, t.mg, t.pins, t.vfs, t.bar2Pf, t.bar2Vf, t.qmLast⟩
        :=
  ⟨h.pending, h.freeCtr, h.now, h.regs, h.rdLatch, h.wrStage, h.ifLatch, h.rdata, h.b2data, h.hostMem, h.msgs,
      h.msixOn, h.msixOpen, h.msixPend, h.funcMask, h.hbm, h.hbmBad, h.clearing, h.scrubAt, h.sheaf, h.seedbed, h.glean,
      h.furrows, h.streams, h.dma, h.shadows, h.sems, h.barriers, h.seqRuns, h.ctxs, h.regions, h.coverage, h.fences, .inl
      (sub_bit hM rfl), h.fcolLog, h.hangLog, h.queues, h.copies, h.ports, h.inbox, h.engines, h.serv, h.flash, h.fuses,
      h.staged, h.heldBack, h.lastMma, h.sec, h.pwr, h.clk, h.mg, h.pins, h.vfs, h.bar2Pf, h.bar2Vf, h.qmLast⟩

theorem same_u34359738368 {M : Nat} {s t : State} (h : Same M s t) (hM : 34359738368 ||| M = M) {x_hangLog : Store
    (List Byte)} :
    Same M s ⟨t.pending, t.freeCtr, t.now, t.regs, t.rdLatch, t.wrStage, t.ifLatch, t.rdata, t.b2data, t.hostMem,
        t.msgs, t.msixOn, t.msixOpen, t.msixPend, t.funcMask, t.hbm, t.hbmBad, t.clearing, t.scrubAt, t.sheaf, t.seedbed,
        t.glean, t.furrows, t.streams, t.dma, t.shadows, t.sems, t.barriers, t.seqRuns, t.ctxs, t.regions, t.coverage,
        t.fences, t.pairs, t.fcolLog, x_hangLog, t.queues, t.copies, t.ports, t.inbox, t.engines, t.serv, t.flash,
        t.fuses, t.staged, t.heldBack, t.lastMma, t.sec, t.pwr, t.clk, t.mg, t.pins, t.vfs, t.bar2Pf, t.bar2Vf, t.qmLast⟩
        :=
  ⟨h.pending, h.freeCtr, h.now, h.regs, h.rdLatch, h.wrStage, h.ifLatch, h.rdata, h.b2data, h.hostMem, h.msgs,
      h.msixOn, h.msixOpen, h.msixPend, h.funcMask, h.hbm, h.hbmBad, h.clearing, h.scrubAt, h.sheaf, h.seedbed, h.glean,
      h.furrows, h.streams, h.dma, h.shadows, h.sems, h.barriers, h.seqRuns, h.ctxs, h.regions, h.coverage, h.fences,
      h.pairs, h.fcolLog, .inl (sub_bit hM rfl), h.queues, h.copies, h.ports, h.inbox, h.engines, h.serv, h.flash,
      h.fuses, h.staged, h.heldBack, h.lastMma, h.sec, h.pwr, h.clk, h.mg, h.pins, h.vfs, h.bar2Pf, h.bar2Vf, h.qmLast⟩

theorem same_u68719476736 {M : Nat} {s t : State} (h : Same M s t) (hM : 68719476736 ||| M = M) {x_queues : Store QueueSt} :
    Same M s ⟨t.pending, t.freeCtr, t.now, t.regs, t.rdLatch, t.wrStage, t.ifLatch, t.rdata, t.b2data, t.hostMem,
        t.msgs, t.msixOn, t.msixOpen, t.msixPend, t.funcMask, t.hbm, t.hbmBad, t.clearing, t.scrubAt, t.sheaf, t.seedbed,
        t.glean, t.furrows, t.streams, t.dma, t.shadows, t.sems, t.barriers, t.seqRuns, t.ctxs, t.regions, t.coverage,
        t.fences, t.pairs, t.fcolLog, t.hangLog, x_queues, t.copies, t.ports, t.inbox, t.engines, t.serv, t.flash,
        t.fuses, t.staged, t.heldBack, t.lastMma, t.sec, t.pwr, t.clk, t.mg, t.pins, t.vfs, t.bar2Pf, t.bar2Vf, t.qmLast⟩
        :=
  ⟨h.pending, h.freeCtr, h.now, h.regs, h.rdLatch, h.wrStage, h.ifLatch, h.rdata, h.b2data, h.hostMem, h.msgs,
      h.msixOn, h.msixOpen, h.msixPend, h.funcMask, h.hbm, h.hbmBad, h.clearing, h.scrubAt, h.sheaf, h.seedbed, h.glean,
      h.furrows, h.streams, h.dma, h.shadows, h.sems, h.barriers, h.seqRuns, h.ctxs, h.regions, h.coverage, h.fences,
      h.pairs, h.fcolLog, h.hangLog, .inl (sub_bit hM rfl), h.copies, h.ports, h.inbox, h.engines, h.serv, h.flash,
      h.fuses, h.staged, h.heldBack, h.lastMma, h.sec, h.pwr, h.clk, h.mg, h.pins, h.vfs, h.bar2Pf, h.bar2Vf, h.qmLast⟩

theorem same_u137438953472 {M : Nat} {s t : State} (h : Same M s t) (hM : 137438953472 ||| M = M) {x_copies : List CopyOp} :
    Same M s ⟨t.pending, t.freeCtr, t.now, t.regs, t.rdLatch, t.wrStage, t.ifLatch, t.rdata, t.b2data, t.hostMem,
        t.msgs, t.msixOn, t.msixOpen, t.msixPend, t.funcMask, t.hbm, t.hbmBad, t.clearing, t.scrubAt, t.sheaf, t.seedbed,
        t.glean, t.furrows, t.streams, t.dma, t.shadows, t.sems, t.barriers, t.seqRuns, t.ctxs, t.regions, t.coverage,
        t.fences, t.pairs, t.fcolLog, t.hangLog, t.queues, x_copies, t.ports, t.inbox, t.engines, t.serv, t.flash,
        t.fuses, t.staged, t.heldBack, t.lastMma, t.sec, t.pwr, t.clk, t.mg, t.pins, t.vfs, t.bar2Pf, t.bar2Vf, t.qmLast⟩
        :=
  ⟨h.pending, h.freeCtr, h.now, h.regs, h.rdLatch, h.wrStage, h.ifLatch, h.rdata, h.b2data, h.hostMem, h.msgs,
      h.msixOn, h.msixOpen, h.msixPend, h.funcMask, h.hbm, h.hbmBad, h.clearing, h.scrubAt, h.sheaf, h.seedbed, h.glean,
      h.furrows, h.streams, h.dma, h.shadows, h.sems, h.barriers, h.seqRuns, h.ctxs, h.regions, h.coverage, h.fences,
      h.pairs, h.fcolLog, h.hangLog, h.queues, .inl (sub_bit hM rfl), h.ports, h.inbox, h.engines, h.serv, h.flash,
      h.fuses, h.staged, h.heldBack, h.lastMma, h.sec, h.pwr, h.clk, h.mg, h.pins, h.vfs, h.bar2Pf, h.bar2Vf, h.qmLast⟩

theorem same_u274877906944 {M : Nat} {s t : State} (h : Same M s t) (hM : 274877906944 ||| M = M) {x_ports : Store PortSt} :
    Same M s ⟨t.pending, t.freeCtr, t.now, t.regs, t.rdLatch, t.wrStage, t.ifLatch, t.rdata, t.b2data, t.hostMem,
        t.msgs, t.msixOn, t.msixOpen, t.msixPend, t.funcMask, t.hbm, t.hbmBad, t.clearing, t.scrubAt, t.sheaf, t.seedbed,
        t.glean, t.furrows, t.streams, t.dma, t.shadows, t.sems, t.barriers, t.seqRuns, t.ctxs, t.regions, t.coverage,
        t.fences, t.pairs, t.fcolLog, t.hangLog, t.queues, t.copies, x_ports, t.inbox, t.engines, t.serv, t.flash,
        t.fuses, t.staged, t.heldBack, t.lastMma, t.sec, t.pwr, t.clk, t.mg, t.pins, t.vfs, t.bar2Pf, t.bar2Vf, t.qmLast⟩
        :=
  ⟨h.pending, h.freeCtr, h.now, h.regs, h.rdLatch, h.wrStage, h.ifLatch, h.rdata, h.b2data, h.hostMem, h.msgs,
      h.msixOn, h.msixOpen, h.msixPend, h.funcMask, h.hbm, h.hbmBad, h.clearing, h.scrubAt, h.sheaf, h.seedbed, h.glean,
      h.furrows, h.streams, h.dma, h.shadows, h.sems, h.barriers, h.seqRuns, h.ctxs, h.regions, h.coverage, h.fences,
      h.pairs, h.fcolLog, h.hangLog, h.queues, h.copies, .inl (sub_bit hM rfl), h.inbox, h.engines, h.serv, h.flash,
      h.fuses, h.staged, h.heldBack, h.lastMma, h.sec, h.pwr, h.clk, h.mg, h.pins, h.vfs, h.bar2Pf, h.bar2Vf, h.qmLast⟩

theorem same_u549755813888 {M : Nat} {s t : State} (h : Same M s t) (hM : 549755813888 ||| M = M) {x_inbox : List (Nat
    × Pkt)} :
    Same M s ⟨t.pending, t.freeCtr, t.now, t.regs, t.rdLatch, t.wrStage, t.ifLatch, t.rdata, t.b2data, t.hostMem,
        t.msgs, t.msixOn, t.msixOpen, t.msixPend, t.funcMask, t.hbm, t.hbmBad, t.clearing, t.scrubAt, t.sheaf, t.seedbed,
        t.glean, t.furrows, t.streams, t.dma, t.shadows, t.sems, t.barriers, t.seqRuns, t.ctxs, t.regions, t.coverage,
        t.fences, t.pairs, t.fcolLog, t.hangLog, t.queues, t.copies, t.ports, x_inbox, t.engines, t.serv, t.flash,
        t.fuses, t.staged, t.heldBack, t.lastMma, t.sec, t.pwr, t.clk, t.mg, t.pins, t.vfs, t.bar2Pf, t.bar2Vf, t.qmLast⟩
        :=
  ⟨h.pending, h.freeCtr, h.now, h.regs, h.rdLatch, h.wrStage, h.ifLatch, h.rdata, h.b2data, h.hostMem, h.msgs,
      h.msixOn, h.msixOpen, h.msixPend, h.funcMask, h.hbm, h.hbmBad, h.clearing, h.scrubAt, h.sheaf, h.seedbed, h.glean,
      h.furrows, h.streams, h.dma, h.shadows, h.sems, h.barriers, h.seqRuns, h.ctxs, h.regions, h.coverage, h.fences,
      h.pairs, h.fcolLog, h.hangLog, h.queues, h.copies, h.ports, .inl (sub_bit hM rfl), h.engines, h.serv, h.flash,
      h.fuses, h.staged, h.heldBack, h.lastMma, h.sec, h.pwr, h.clk, h.mg, h.pins, h.vfs, h.bar2Pf, h.bar2Vf, h.qmLast⟩

theorem same_u1099511627776 {M : Nat} {s t : State} (h : Same M s t) (hM : 1099511627776 ||| M = M) {x_engines : Store
    ColEng} :
    Same M s ⟨t.pending, t.freeCtr, t.now, t.regs, t.rdLatch, t.wrStage, t.ifLatch, t.rdata, t.b2data, t.hostMem,
        t.msgs, t.msixOn, t.msixOpen, t.msixPend, t.funcMask, t.hbm, t.hbmBad, t.clearing, t.scrubAt, t.sheaf, t.seedbed,
        t.glean, t.furrows, t.streams, t.dma, t.shadows, t.sems, t.barriers, t.seqRuns, t.ctxs, t.regions, t.coverage,
        t.fences, t.pairs, t.fcolLog, t.hangLog, t.queues, t.copies, t.ports, t.inbox, x_engines, t.serv, t.flash,
        t.fuses, t.staged, t.heldBack, t.lastMma, t.sec, t.pwr, t.clk, t.mg, t.pins, t.vfs, t.bar2Pf, t.bar2Vf, t.qmLast⟩
        :=
  ⟨h.pending, h.freeCtr, h.now, h.regs, h.rdLatch, h.wrStage, h.ifLatch, h.rdata, h.b2data, h.hostMem, h.msgs,
      h.msixOn, h.msixOpen, h.msixPend, h.funcMask, h.hbm, h.hbmBad, h.clearing, h.scrubAt, h.sheaf, h.seedbed, h.glean,
      h.furrows, h.streams, h.dma, h.shadows, h.sems, h.barriers, h.seqRuns, h.ctxs, h.regions, h.coverage, h.fences,
      h.pairs, h.fcolLog, h.hangLog, h.queues, h.copies, h.ports, h.inbox, .inl (sub_bit hM rfl), h.serv, h.flash,
      h.fuses, h.staged, h.heldBack, h.lastMma, h.sec, h.pwr, h.clk, h.mg, h.pins, h.vfs, h.bar2Pf, h.bar2Vf, h.qmLast⟩

theorem same_u1099968806912 {M : Nat} {s t : State} (h : Same M s t) (hM : 1099968806912 ||| M = M) {x_furrows : Store
    FurrowSt} {x_dma : Store DmaSt} {x_shadows : List ShadowOp} {x_barriers : Store Barrier} {x_seqRuns : List SeqRun}
    {x_engines : Store ColEng} :
    Same M s ⟨t.pending, t.freeCtr, t.now, t.regs, t.rdLatch, t.wrStage, t.ifLatch, t.rdata, t.b2data, t.hostMem,
        t.msgs, t.msixOn, t.msixOpen, t.msixPend, t.funcMask, t.hbm, t.hbmBad, t.clearing, t.scrubAt, t.sheaf, t.seedbed,
        t.glean, x_furrows, t.streams, x_dma, x_shadows, t.sems, x_barriers, x_seqRuns, t.ctxs, t.regions, t.coverage,
        t.fences, t.pairs, t.fcolLog, t.hangLog, t.queues, t.copies, t.ports, t.inbox, x_engines, t.serv, t.flash,
        t.fuses, t.staged, t.heldBack, t.lastMma, t.sec, t.pwr, t.clk, t.mg, t.pins, t.vfs, t.bar2Pf, t.bar2Vf, t.qmLast⟩
        :=
  ⟨h.pending, h.freeCtr, h.now, h.regs, h.rdLatch, h.wrStage, h.ifLatch, h.rdata, h.b2data, h.hostMem, h.msgs,
      h.msixOn, h.msixOpen, h.msixPend, h.funcMask, h.hbm, h.hbmBad, h.clearing, h.scrubAt, h.sheaf, h.seedbed, h.glean,
      .inl (sub_bit hM rfl), h.streams, .inl (sub_bit hM rfl), .inl (sub_bit hM rfl), h.sems, .inl (sub_bit hM rfl), .inl
      (sub_bit hM rfl), h.ctxs, h.regions, h.coverage, h.fences, h.pairs, h.fcolLog, h.hangLog, h.queues, h.copies,
      h.ports, h.inbox, .inl (sub_bit hM rfl), h.serv, h.flash, h.fuses, h.staged, h.heldBack, h.lastMma, h.sec, h.pwr,
      h.clk, h.mg, h.pins, h.vfs, h.bar2Pf, h.bar2Vf, h.qmLast⟩

theorem same_u2199023255552 {M : Nat} {s t : State} (h : Same M s t) (hM : 2199023255552 ||| M = M) {x_serv : Store ServSt} :
    Same M s ⟨t.pending, t.freeCtr, t.now, t.regs, t.rdLatch, t.wrStage, t.ifLatch, t.rdata, t.b2data, t.hostMem,
        t.msgs, t.msixOn, t.msixOpen, t.msixPend, t.funcMask, t.hbm, t.hbmBad, t.clearing, t.scrubAt, t.sheaf, t.seedbed,
        t.glean, t.furrows, t.streams, t.dma, t.shadows, t.sems, t.barriers, t.seqRuns, t.ctxs, t.regions, t.coverage,
        t.fences, t.pairs, t.fcolLog, t.hangLog, t.queues, t.copies, t.ports, t.inbox, t.engines, x_serv, t.flash,
        t.fuses, t.staged, t.heldBack, t.lastMma, t.sec, t.pwr, t.clk, t.mg, t.pins, t.vfs, t.bar2Pf, t.bar2Vf, t.qmLast⟩
        :=
  ⟨h.pending, h.freeCtr, h.now, h.regs, h.rdLatch, h.wrStage, h.ifLatch, h.rdata, h.b2data, h.hostMem, h.msgs,
      h.msixOn, h.msixOpen, h.msixPend, h.funcMask, h.hbm, h.hbmBad, h.clearing, h.scrubAt, h.sheaf, h.seedbed, h.glean,
      h.furrows, h.streams, h.dma, h.shadows, h.sems, h.barriers, h.seqRuns, h.ctxs, h.regions, h.coverage, h.fences,
      h.pairs, h.fcolLog, h.hangLog, h.queues, h.copies, h.ports, h.inbox, h.engines, .inl (sub_bit hM rfl), h.flash,
      h.fuses, h.staged, h.heldBack, h.lastMma, h.sec, h.pwr, h.clk, h.mg, h.pins, h.vfs, h.bar2Pf, h.bar2Vf, h.qmLast⟩

theorem same_u3436250660864 {M : Nat} {s t : State} (h : Same M s t) (hM : 3436250660864 ||| M = M) {x_streams : Store
    StreamSt} {x_seqRuns : List SeqRun} {x_copies : List CopyOp} {x_engines : Store ColEng} {x_serv : Store ServSt} :
    Same M s ⟨t.pending, t.freeCtr, t.now, t.regs, t.rdLatch, t.wrStage, t.ifLatch, t.rdata, t.b2data, t.hostMem,
        t.msgs, t.msixOn, t.msixOpen, t.msixPend, t.funcMask, t.hbm, t.hbmBad, t.clearing, t.scrubAt, t.sheaf, t.seedbed,
        t.glean, t.furrows, x_streams, t.dma, t.shadows, t.sems, t.barriers, x_seqRuns, t.ctxs, t.regions, t.coverage,
        t.fences, t.pairs, t.fcolLog, t.hangLog, t.queues, x_copies, t.ports, t.inbox, x_engines, x_serv, t.flash,
        t.fuses, t.staged, t.heldBack, t.lastMma, t.sec, t.pwr, t.clk, t.mg, t.pins, t.vfs, t.bar2Pf, t.bar2Vf, t.qmLast⟩
        :=
  ⟨h.pending, h.freeCtr, h.now, h.regs, h.rdLatch, h.wrStage, h.ifLatch, h.rdata, h.b2data, h.hostMem, h.msgs,
      h.msixOn, h.msixOpen, h.msixPend, h.funcMask, h.hbm, h.hbmBad, h.clearing, h.scrubAt, h.sheaf, h.seedbed, h.glean,
      h.furrows, .inl (sub_bit hM rfl), h.dma, h.shadows, h.sems, h.barriers, .inl (sub_bit hM rfl), h.ctxs, h.regions,
      h.coverage, h.fences, h.pairs, h.fcolLog, h.hangLog, h.queues, .inl (sub_bit hM rfl), h.ports, h.inbox, .inl
      (sub_bit hM rfl), .inl (sub_bit hM rfl), h.flash, h.fuses, h.staged, h.heldBack, h.lastMma, h.sec, h.pwr, h.clk,
      h.mg, h.pins, h.vfs, h.bar2Pf, h.bar2Vf, h.qmLast⟩

theorem same_u4398046511104 {M : Nat} {s t : State} (h : Same M s t) (hM : 4398046511104 ||| M = M) {x_flash : Flash} :
    Same M s ⟨t.pending, t.freeCtr, t.now, t.regs, t.rdLatch, t.wrStage, t.ifLatch, t.rdata, t.b2data, t.hostMem,
        t.msgs, t.msixOn, t.msixOpen, t.msixPend, t.funcMask, t.hbm, t.hbmBad, t.clearing, t.scrubAt, t.sheaf, t.seedbed,
        t.glean, t.furrows, t.streams, t.dma, t.shadows, t.sems, t.barriers, t.seqRuns, t.ctxs, t.regions, t.coverage,
        t.fences, t.pairs, t.fcolLog, t.hangLog, t.queues, t.copies, t.ports, t.inbox, t.engines, t.serv, x_flash,
        t.fuses, t.staged, t.heldBack, t.lastMma, t.sec, t.pwr, t.clk, t.mg, t.pins, t.vfs, t.bar2Pf, t.bar2Vf, t.qmLast⟩
        :=
  ⟨h.pending, h.freeCtr, h.now, h.regs, h.rdLatch, h.wrStage, h.ifLatch, h.rdata, h.b2data, h.hostMem, h.msgs,
      h.msixOn, h.msixOpen, h.msixPend, h.funcMask, h.hbm, h.hbmBad, h.clearing, h.scrubAt, h.sheaf, h.seedbed, h.glean,
      h.furrows, h.streams, h.dma, h.shadows, h.sems, h.barriers, h.seqRuns, h.ctxs, h.regions, h.coverage, h.fences,
      h.pairs, h.fcolLog, h.hangLog, h.queues, h.copies, h.ports, h.inbox, h.engines, h.serv, .inl (sub_bit hM rfl),
      h.fuses, h.staged, h.heldBack, h.lastMma, h.sec, h.pwr, h.clk, h.mg, h.pins, h.vfs, h.bar2Pf, h.bar2Vf, h.qmLast⟩

theorem same_u8796093022208 {M : Nat} {s t : State} (h : Same M s t) (hM : 8796093022208 ||| M = M) {x_fuses : Fuses} :
    Same M s ⟨t.pending, t.freeCtr, t.now, t.regs, t.rdLatch, t.wrStage, t.ifLatch, t.rdata, t.b2data, t.hostMem,
        t.msgs, t.msixOn, t.msixOpen, t.msixPend, t.funcMask, t.hbm, t.hbmBad, t.clearing, t.scrubAt, t.sheaf, t.seedbed,
        t.glean, t.furrows, t.streams, t.dma, t.shadows, t.sems, t.barriers, t.seqRuns, t.ctxs, t.regions, t.coverage,
        t.fences, t.pairs, t.fcolLog, t.hangLog, t.queues, t.copies, t.ports, t.inbox, t.engines, t.serv, t.flash,
        x_fuses, t.staged, t.heldBack, t.lastMma, t.sec, t.pwr, t.clk, t.mg, t.pins, t.vfs, t.bar2Pf, t.bar2Vf, t.qmLast⟩
        :=
  ⟨h.pending, h.freeCtr, h.now, h.regs, h.rdLatch, h.wrStage, h.ifLatch, h.rdata, h.b2data, h.hostMem, h.msgs,
      h.msixOn, h.msixOpen, h.msixPend, h.funcMask, h.hbm, h.hbmBad, h.clearing, h.scrubAt, h.sheaf, h.seedbed, h.glean,
      h.furrows, h.streams, h.dma, h.shadows, h.sems, h.barriers, h.seqRuns, h.ctxs, h.regions, h.coverage, h.fences,
      h.pairs, h.fcolLog, h.hangLog, h.queues, h.copies, h.ports, h.inbox, h.engines, h.serv, h.flash, .inl (sub_bit hM
      rfl), h.staged, h.heldBack, h.lastMma, h.sec, h.pwr, h.clk, h.mg, h.pins, h.vfs, h.bar2Pf, h.bar2Vf, h.qmLast⟩

theorem same_u17592186044416 {M : Nat} {s t : State} (h : Same M s t) (hM : 17592186044416 ||| M = M) {x_staged : List
    AlmEntry} :
    Same M s ⟨t.pending, t.freeCtr, t.now, t.regs, t.rdLatch, t.wrStage, t.ifLatch, t.rdata, t.b2data, t.hostMem,
        t.msgs, t.msixOn, t.msixOpen, t.msixPend, t.funcMask, t.hbm, t.hbmBad, t.clearing, t.scrubAt, t.sheaf, t.seedbed,
        t.glean, t.furrows, t.streams, t.dma, t.shadows, t.sems, t.barriers, t.seqRuns, t.ctxs, t.regions, t.coverage,
        t.fences, t.pairs, t.fcolLog, t.hangLog, t.queues, t.copies, t.ports, t.inbox, t.engines, t.serv, t.flash,
        t.fuses, x_staged, t.heldBack, t.lastMma, t.sec, t.pwr, t.clk, t.mg, t.pins, t.vfs, t.bar2Pf, t.bar2Vf, t.qmLast⟩
        :=
  ⟨h.pending, h.freeCtr, h.now, h.regs, h.rdLatch, h.wrStage, h.ifLatch, h.rdata, h.b2data, h.hostMem, h.msgs,
      h.msixOn, h.msixOpen, h.msixPend, h.funcMask, h.hbm, h.hbmBad, h.clearing, h.scrubAt, h.sheaf, h.seedbed, h.glean,
      h.furrows, h.streams, h.dma, h.shadows, h.sems, h.barriers, h.seqRuns, h.ctxs, h.regions, h.coverage, h.fences,
      h.pairs, h.fcolLog, h.hangLog, h.queues, h.copies, h.ports, h.inbox, h.engines, h.serv, h.flash, h.fuses, .inl
      (sub_bit hM rfl), h.heldBack, h.lastMma, h.sec, h.pwr, h.clk, h.mg, h.pins, h.vfs, h.bar2Pf, h.bar2Vf, h.qmLast⟩

theorem same_u21990232555520 {M : Nat} {s t : State} (h : Same M s t) (hM : 21990232555520 ||| M = M) {x_flash :
    Flash} {x_staged : List AlmEntry} :
    Same M s ⟨t.pending, t.freeCtr, t.now, t.regs, t.rdLatch, t.wrStage, t.ifLatch, t.rdata, t.b2data, t.hostMem,
        t.msgs, t.msixOn, t.msixOpen, t.msixPend, t.funcMask, t.hbm, t.hbmBad, t.clearing, t.scrubAt, t.sheaf, t.seedbed,
        t.glean, t.furrows, t.streams, t.dma, t.shadows, t.sems, t.barriers, t.seqRuns, t.ctxs, t.regions, t.coverage,
        t.fences, t.pairs, t.fcolLog, t.hangLog, t.queues, t.copies, t.ports, t.inbox, t.engines, t.serv, x_flash,
        t.fuses, x_staged, t.heldBack, t.lastMma, t.sec, t.pwr, t.clk, t.mg, t.pins, t.vfs, t.bar2Pf, t.bar2Vf, t.qmLast⟩
        :=
  ⟨h.pending, h.freeCtr, h.now, h.regs, h.rdLatch, h.wrStage, h.ifLatch, h.rdata, h.b2data, h.hostMem, h.msgs,
      h.msixOn, h.msixOpen, h.msixPend, h.funcMask, h.hbm, h.hbmBad, h.clearing, h.scrubAt, h.sheaf, h.seedbed, h.glean,
      h.furrows, h.streams, h.dma, h.shadows, h.sems, h.barriers, h.seqRuns, h.ctxs, h.regions, h.coverage, h.fences,
      h.pairs, h.fcolLog, h.hangLog, h.queues, h.copies, h.ports, h.inbox, h.engines, h.serv, .inl (sub_bit hM rfl),
      h.fuses, .inl (sub_bit hM rfl), h.heldBack, h.lastMma, h.sec, h.pwr, h.clk, h.mg, h.pins, h.vfs, h.bar2Pf, h.bar2Vf,
      h.qmLast⟩

theorem same_u35184372088832 {M : Nat} {s t : State} (h : Same M s t) (hM : 35184372088832 ||| M = M) {x_heldBack :
    Store (Option Nat × Nat)} :
    Same M s ⟨t.pending, t.freeCtr, t.now, t.regs, t.rdLatch, t.wrStage, t.ifLatch, t.rdata, t.b2data, t.hostMem,
        t.msgs, t.msixOn, t.msixOpen, t.msixPend, t.funcMask, t.hbm, t.hbmBad, t.clearing, t.scrubAt, t.sheaf, t.seedbed,
        t.glean, t.furrows, t.streams, t.dma, t.shadows, t.sems, t.barriers, t.seqRuns, t.ctxs, t.regions, t.coverage,
        t.fences, t.pairs, t.fcolLog, t.hangLog, t.queues, t.copies, t.ports, t.inbox, t.engines, t.serv, t.flash,
        t.fuses, t.staged, x_heldBack, t.lastMma, t.sec, t.pwr, t.clk, t.mg, t.pins, t.vfs, t.bar2Pf, t.bar2Vf, t.qmLast⟩
        :=
  ⟨h.pending, h.freeCtr, h.now, h.regs, h.rdLatch, h.wrStage, h.ifLatch, h.rdata, h.b2data, h.hostMem, h.msgs,
      h.msixOn, h.msixOpen, h.msixPend, h.funcMask, h.hbm, h.hbmBad, h.clearing, h.scrubAt, h.sheaf, h.seedbed, h.glean,
      h.furrows, h.streams, h.dma, h.shadows, h.sems, h.barriers, h.seqRuns, h.ctxs, h.regions, h.coverage, h.fences,
      h.pairs, h.fcolLog, h.hangLog, h.queues, h.copies, h.ports, h.inbox, h.engines, h.serv, h.flash, h.fuses, h.staged,
      .inl (sub_bit hM rfl), h.lastMma, h.sec, h.pwr, h.clk, h.mg, h.pins, h.vfs, h.bar2Pf, h.bar2Vf, h.qmLast⟩

theorem same_u52776558133248 {M : Nat} {s t : State} (h : Same M s t) (hM : 52776558133248 ||| M = M) {x_staged : List
    AlmEntry} {x_heldBack : Store (Option Nat × Nat)} :
    Same M s ⟨t.pending, t.freeCtr, t.now, t.regs, t.rdLatch, t.wrStage, t.ifLatch, t.rdata, t.b2data, t.hostMem,
        t.msgs, t.msixOn, t.msixOpen, t.msixPend, t.funcMask, t.hbm, t.hbmBad, t.clearing, t.scrubAt, t.sheaf, t.seedbed,
        t.glean, t.furrows, t.streams, t.dma, t.shadows, t.sems, t.barriers, t.seqRuns, t.ctxs, t.regions, t.coverage,
        t.fences, t.pairs, t.fcolLog, t.hangLog, t.queues, t.copies, t.ports, t.inbox, t.engines, t.serv, t.flash,
        t.fuses, x_staged, x_heldBack, t.lastMma, t.sec, t.pwr, t.clk, t.mg, t.pins, t.vfs, t.bar2Pf, t.bar2Vf, t.qmLast⟩
        :=
  ⟨h.pending, h.freeCtr, h.now, h.regs, h.rdLatch, h.wrStage, h.ifLatch, h.rdata, h.b2data, h.hostMem, h.msgs,
      h.msixOn, h.msixOpen, h.msixPend, h.funcMask, h.hbm, h.hbmBad, h.clearing, h.scrubAt, h.sheaf, h.seedbed, h.glean,
      h.furrows, h.streams, h.dma, h.shadows, h.sems, h.barriers, h.seqRuns, h.ctxs, h.regions, h.coverage, h.fences,
      h.pairs, h.fcolLog, h.hangLog, h.queues, h.copies, h.ports, h.inbox, h.engines, h.serv, h.flash, h.fuses, .inl
      (sub_bit hM rfl), .inl (sub_bit hM rfl), h.lastMma, h.sec, h.pwr, h.clk, h.mg, h.pins, h.vfs, h.bar2Pf, h.bar2Vf,
      h.qmLast⟩

theorem same_u70368744177664 {M : Nat} {s t : State} (h : Same M s t) (hM : 70368744177664 ||| M = M) {x_lastMma :
    Store Nat} :
    Same M s ⟨t.pending, t.freeCtr, t.now, t.regs, t.rdLatch, t.wrStage, t.ifLatch, t.rdata, t.b2data, t.hostMem,
        t.msgs, t.msixOn, t.msixOpen, t.msixPend, t.funcMask, t.hbm, t.hbmBad, t.clearing, t.scrubAt, t.sheaf, t.seedbed,
        t.glean, t.furrows, t.streams, t.dma, t.shadows, t.sems, t.barriers, t.seqRuns, t.ctxs, t.regions, t.coverage,
        t.fences, t.pairs, t.fcolLog, t.hangLog, t.queues, t.copies, t.ports, t.inbox, t.engines, t.serv, t.flash,
        t.fuses, t.staged, t.heldBack, x_lastMma, t.sec, t.pwr, t.clk, t.mg, t.pins, t.vfs, t.bar2Pf, t.bar2Vf, t.qmLast⟩
        :=
  ⟨h.pending, h.freeCtr, h.now, h.regs, h.rdLatch, h.wrStage, h.ifLatch, h.rdata, h.b2data, h.hostMem, h.msgs,
      h.msixOn, h.msixOpen, h.msixPend, h.funcMask, h.hbm, h.hbmBad, h.clearing, h.scrubAt, h.sheaf, h.seedbed, h.glean,
      h.furrows, h.streams, h.dma, h.shadows, h.sems, h.barriers, h.seqRuns, h.ctxs, h.regions, h.coverage, h.fences,
      h.pairs, h.fcolLog, h.hangLog, h.queues, h.copies, h.ports, h.inbox, h.engines, h.serv, h.flash, h.fuses, h.staged,
      h.heldBack, .inl (sub_bit hM rfl), h.sec, h.pwr, h.clk, h.mg, h.pins, h.vfs, h.bar2Pf, h.bar2Vf, h.qmLast⟩

theorem same_u72031290621992 {M : Nat} {s t : State} (h : Same M s t) (hM : 72031290621992 ||| M = M) {x_regs : Store
    Word32} {x_wrStage : Store Word32} {x_hbm : Memory} {x_hbmBad : Store Unit} {x_scrubAt : Store Nat} {x_sheaf : Memory}
    {x_seedbed : Memory} {x_glean : Memory} {x_furrows : Store FurrowSt} {x_dma : Store DmaSt} {x_shadows : List ShadowOp}
    {x_sems : Store Nat} {x_seqRuns : List SeqRun} {x_fences : List (Dom × FPhase)} {x_pairs : Store PairSt} {x_inbox :
    List (Nat × Pkt)} {x_engines : Store ColEng} {x_lastMma : Store Nat} :
    Same M s ⟨t.pending, t.freeCtr, t.now, x_regs, t.rdLatch, x_wrStage, t.ifLatch, t.rdata, t.b2data, t.hostMem,
        t.msgs, t.msixOn, t.msixOpen, t.msixPend, t.funcMask, x_hbm, x_hbmBad, t.clearing, x_scrubAt, x_sheaf, x_seedbed,
        x_glean, x_furrows, t.streams, x_dma, x_shadows, x_sems, t.barriers, x_seqRuns, t.ctxs, t.regions, t.coverage,
        x_fences, x_pairs, t.fcolLog, t.hangLog, t.queues, t.copies, t.ports, x_inbox, x_engines, t.serv, t.flash,
        t.fuses, t.staged, t.heldBack, x_lastMma, t.sec, t.pwr, t.clk, t.mg, t.pins, t.vfs, t.bar2Pf, t.bar2Vf, t.qmLast⟩
        :=
  ⟨h.pending, h.freeCtr, h.now, .inl (sub_bit hM rfl), h.rdLatch, .inl (sub_bit hM rfl), h.ifLatch, h.rdata, h.b2data,
      h.hostMem, h.msgs, h.msixOn, h.msixOpen, h.msixPend, h.funcMask, .inl (sub_bit hM rfl), .inl (sub_bit hM rfl),
      h.clearing, .inl (sub_bit hM rfl), .inl (sub_bit hM rfl), .inl (sub_bit hM rfl), .inl (sub_bit hM rfl), .inl
      (sub_bit hM rfl), h.streams, .inl (sub_bit hM rfl), .inl (sub_bit hM rfl), .inl (sub_bit hM rfl), h.barriers, .inl
      (sub_bit hM rfl), h.ctxs, h.regions, h.coverage, .inl (sub_bit hM rfl), .inl (sub_bit hM rfl), h.fcolLog, h.hangLog,
      h.queues, h.copies, h.ports, .inl (sub_bit hM rfl), .inl (sub_bit hM rfl), h.serv, h.flash, h.fuses, h.staged,
      h.heldBack, .inl (sub_bit hM rfl), h.sec, h.pwr, h.clk, h.mg, h.pins, h.vfs, h.bar2Pf, h.bar2Vf, h.qmLast⟩

theorem same_u72031433228328 {M : Nat} {s t : State} (h : Same M s t) (hM : 72031433228328 ||| M = M) {x_regs : Store
    Word32} {x_wrStage : Store Word32} {x_hbm : Memory} {x_hbmBad : Store Unit} {x_scrubAt : Store Nat} {x_sheaf : Memory}
    {x_seedbed : Memory} {x_glean : Memory} {x_furrows : Store FurrowSt} {x_streams : Store StreamSt} {x_dma : Store
    DmaSt} {x_shadows : List ShadowOp} {x_sems : Store Nat} {x_barriers : Store Barrier} {x_seqRuns : List SeqRun}
    {x_fences : List (Dom × FPhase)} {x_pairs : Store PairSt} {x_inbox : List (Nat × Pkt)} {x_engines : Store ColEng}
    {x_lastMma : Store Nat} :
    Same M s ⟨t.pending, t.freeCtr, t.now, x_regs, t.rdLatch, x_wrStage, t.ifLatch, t.rdata, t.b2data, t.hostMem,
        t.msgs, t.msixOn, t.msixOpen, t.msixPend, t.funcMask, x_hbm, x_hbmBad, t.clearing, x_scrubAt, x_sheaf, x_seedbed,
        x_glean, x_furrows, x_streams, x_dma, x_shadows, x_sems, x_barriers, x_seqRuns, t.ctxs, t.regions, t.coverage,
        x_fences, x_pairs, t.fcolLog, t.hangLog, t.queues, t.copies, t.ports, x_inbox, x_engines, t.serv, t.flash,
        t.fuses, t.staged, t.heldBack, x_lastMma, t.sec, t.pwr, t.clk, t.mg, t.pins, t.vfs, t.bar2Pf, t.bar2Vf, t.qmLast⟩
        :=
  ⟨h.pending, h.freeCtr, h.now, .inl (sub_bit hM rfl), h.rdLatch, .inl (sub_bit hM rfl), h.ifLatch, h.rdata, h.b2data,
      h.hostMem, h.msgs, h.msixOn, h.msixOpen, h.msixPend, h.funcMask, .inl (sub_bit hM rfl), .inl (sub_bit hM rfl),
      h.clearing, .inl (sub_bit hM rfl), .inl (sub_bit hM rfl), .inl (sub_bit hM rfl), .inl (sub_bit hM rfl), .inl
      (sub_bit hM rfl), .inl (sub_bit hM rfl), .inl (sub_bit hM rfl), .inl (sub_bit hM rfl), .inl (sub_bit hM rfl), .inl
      (sub_bit hM rfl), .inl (sub_bit hM rfl), h.ctxs, h.regions, h.coverage, .inl (sub_bit hM rfl), .inl (sub_bit hM
      rfl), h.fcolLog, h.hangLog, h.queues, h.copies, h.ports, .inl (sub_bit hM rfl), .inl (sub_bit hM rfl), h.serv,
      h.flash, h.fuses, h.staged, h.heldBack, .inl (sub_bit hM rfl), h.sec, h.pwr, h.clk, h.mg, h.pins, h.vfs, h.bar2Pf,
      h.bar2Vf, h.qmLast⟩

theorem same_u140737488355328 {M : Nat} {s t : State} (h : Same M s t) (hM : 140737488355328 ||| M = M) {x_sec : SecSt} :
    Same M s ⟨t.pending, t.freeCtr, t.now, t.regs, t.rdLatch, t.wrStage, t.ifLatch, t.rdata, t.b2data, t.hostMem,
        t.msgs, t.msixOn, t.msixOpen, t.msixPend, t.funcMask, t.hbm, t.hbmBad, t.clearing, t.scrubAt, t.sheaf, t.seedbed,
        t.glean, t.furrows, t.streams, t.dma, t.shadows, t.sems, t.barriers, t.seqRuns, t.ctxs, t.regions, t.coverage,
        t.fences, t.pairs, t.fcolLog, t.hangLog, t.queues, t.copies, t.ports, t.inbox, t.engines, t.serv, t.flash,
        t.fuses, t.staged, t.heldBack, t.lastMma, x_sec, t.pwr, t.clk, t.mg, t.pins, t.vfs, t.bar2Pf, t.bar2Vf, t.qmLast⟩
        :=
  ⟨h.pending, h.freeCtr, h.now, h.regs, h.rdLatch, h.wrStage, h.ifLatch, h.rdata, h.b2data, h.hostMem, h.msgs,
      h.msixOn, h.msixOpen, h.msixPend, h.funcMask, h.hbm, h.hbmBad, h.clearing, h.scrubAt, h.sheaf, h.seedbed, h.glean,
      h.furrows, h.streams, h.dma, h.shadows, h.sems, h.barriers, h.seqRuns, h.ctxs, h.regions, h.coverage, h.fences,
      h.pairs, h.fcolLog, h.hangLog, h.queues, h.copies, h.ports, h.inbox, h.engines, h.serv, h.flash, h.fuses, h.staged,
      h.heldBack, h.lastMma, .inl (sub_bit hM rfl), h.pwr, h.clk, h.mg, h.pins, h.vfs, h.bar2Pf, h.bar2Vf, h.qmLast⟩

theorem same_u144042004316264 {M : Nat} {s t : State} (h : Same M s t) (hM : 144042004316264 ||| M = M) {x_regs :
    Store Word32} {x_wrStage : Store Word32} {x_ifLatch : Store (List Word32)} {x_streams : Store StreamSt} {x_sems :
    Store Nat} {x_ctxs : Store CtxSt} {x_regions : Store Region} {x_fences : List (Dom × FPhase)} {x_engines : Store
    ColEng} {x_serv : Store ServSt} {x_sec : SecSt} :
    Same M s ⟨t.pending, t.freeCtr, t.now, x_regs, t.rdLatch, x_wrStage, x_ifLatch, t.rdata, t.b2data, t.hostMem,
        t.msgs, t.msixOn, t.msixOpen, t.msixPend, t.funcMask, t.hbm, t.hbmBad, t.clearing, t.scrubAt, t.sheaf, t.seedbed,
        t.glean, t.furrows, x_streams, t.dma, t.shadows, x_sems, t.barriers, t.seqRuns, x_ctxs, x_regions, t.coverage,
        x_fences, t.pairs, t.fcolLog, t.hangLog, t.queues, t.copies, t.ports, t.inbox, x_engines, x_serv, t.flash,
        t.fuses, t.staged, t.heldBack, t.lastMma, x_sec, t.pwr, t.clk, t.mg, t.pins, t.vfs, t.bar2Pf, t.bar2Vf, t.qmLast⟩
        :=
  ⟨h.pending, h.freeCtr, h.now, .inl (sub_bit hM rfl), h.rdLatch, .inl (sub_bit hM rfl), .inl (sub_bit hM rfl),
      h.rdata, h.b2data, h.hostMem, h.msgs, h.msixOn, h.msixOpen, h.msixPend, h.funcMask, h.hbm, h.hbmBad, h.clearing,
      h.scrubAt, h.sheaf, h.seedbed, h.glean, h.furrows, .inl (sub_bit hM rfl), h.dma, h.shadows, .inl (sub_bit hM rfl),
      h.barriers, h.seqRuns, .inl (sub_bit hM rfl), .inl (sub_bit hM rfl), h.coverage, .inl (sub_bit hM rfl), h.pairs,
      h.fcolLog, h.hangLog, h.queues, h.copies, h.ports, h.inbox, .inl (sub_bit hM rfl), .inl (sub_bit hM rfl), h.flash,
      h.fuses, h.staged, h.heldBack, h.lastMma, .inl (sub_bit hM rfl), h.pwr, h.clk, h.mg, h.pins, h.vfs, h.bar2Pf,
      h.bar2Vf, h.qmLast⟩

theorem same_u145135534866432 {M : Nat} {s t : State} (h : Same M s t) (hM : 145135534866432 ||| M = M) {x_flash :
    Flash} {x_sec : SecSt} :
    Same M s ⟨t.pending, t.freeCtr, t.now, t.regs, t.rdLatch, t.wrStage, t.ifLatch, t.rdata, t.b2data, t.hostMem,
        t.msgs, t.msixOn, t.msixOpen, t.msixPend, t.funcMask, t.hbm, t.hbmBad, t.clearing, t.scrubAt, t.sheaf, t.seedbed,
        t.glean, t.furrows, t.streams, t.dma, t.shadows, t.sems, t.barriers, t.seqRuns, t.ctxs, t.regions, t.coverage,
        t.fences, t.pairs, t.fcolLog, t.hangLog, t.queues, t.copies, t.ports, t.inbox, t.engines, t.serv, x_flash,
        t.fuses, t.staged, t.heldBack, t.lastMma, x_sec, t.pwr, t.clk, t.mg, t.pins, t.vfs, t.bar2Pf, t.bar2Vf, t.qmLast⟩
        :=
  ⟨h.pending, h.freeCtr, h.now, h.regs, h.rdLatch, h.wrStage, h.ifLatch, h.rdata, h.b2data, h.hostMem, h.msgs,
      h.msixOn, h.msixOpen, h.msixPend, h.funcMask, h.hbm, h.hbmBad, h.clearing, h.scrubAt, h.sheaf, h.seedbed, h.glean,
      h.furrows, h.streams, h.dma, h.shadows, h.sems, h.barriers, h.seqRuns, h.ctxs, h.regions, h.coverage, h.fences,
      h.pairs, h.fcolLog, h.hangLog, h.queues, h.copies, h.ports, h.inbox, h.engines, h.serv, .inl (sub_bit hM rfl),
      h.fuses, h.staged, h.heldBack, h.lastMma, .inl (sub_bit hM rfl), h.pwr, h.clk, h.mg, h.pins, h.vfs, h.bar2Pf,
      h.bar2Vf, h.qmLast⟩

theorem same_u145135534866440 {M : Nat} {s t : State} (h : Same M s t) (hM : 145135534866440 ||| M = M) {x_regs :
    Store Word32} {x_flash : Flash} {x_sec : SecSt} :
    Same M s ⟨t.pending, t.freeCtr, t.now, x_regs, t.rdLatch, t.wrStage, t.ifLatch, t.rdata, t.b2data, t.hostMem,
        t.msgs, t.msixOn, t.msixOpen, t.msixPend, t.funcMask, t.hbm, t.hbmBad, t.clearing, t.scrubAt, t.sheaf, t.seedbed,
        t.glean, t.furrows, t.streams, t.dma, t.shadows, t.sems, t.barriers, t.seqRuns, t.ctxs, t.regions, t.coverage,
        t.fences, t.pairs, t.fcolLog, t.hangLog, t.queues, t.copies, t.ports, t.inbox, t.engines, t.serv, x_flash,
        t.fuses, t.staged, t.heldBack, t.lastMma, x_sec, t.pwr, t.clk, t.mg, t.pins, t.vfs, t.bar2Pf, t.bar2Vf, t.qmLast⟩
        :=
  ⟨h.pending, h.freeCtr, h.now, .inl (sub_bit hM rfl), h.rdLatch, h.wrStage, h.ifLatch, h.rdata, h.b2data, h.hostMem,
      h.msgs, h.msixOn, h.msixOpen, h.msixPend, h.funcMask, h.hbm, h.hbmBad, h.clearing, h.scrubAt, h.sheaf, h.seedbed,
      h.glean, h.furrows, h.streams, h.dma, h.shadows, h.sems, h.barriers, h.seqRuns, h.ctxs, h.regions, h.coverage,
      h.fences, h.pairs, h.fcolLog, h.hangLog, h.queues, h.copies, h.ports, h.inbox, h.engines, h.serv, .inl (sub_bit hM
      rfl), h.fuses, h.staged, h.heldBack, h.lastMma, .inl (sub_bit hM rfl), h.pwr, h.clk, h.mg, h.pins, h.vfs, h.bar2Pf,
      h.bar2Vf, h.qmLast⟩

theorem same_u281474976710656 {M : Nat} {s t : State} (h : Same M s t) (hM : 281474976710656 ||| M = M) {x_pwr : PwrSt} :
    Same M s ⟨t.pending, t.freeCtr, t.now, t.regs, t.rdLatch, t.wrStage, t.ifLatch, t.rdata, t.b2data, t.hostMem,
        t.msgs, t.msixOn, t.msixOpen, t.msixPend, t.funcMask, t.hbm, t.hbmBad, t.clearing, t.scrubAt, t.sheaf, t.seedbed,
        t.glean, t.furrows, t.streams, t.dma, t.shadows, t.sems, t.barriers, t.seqRuns, t.ctxs, t.regions, t.coverage,
        t.fences, t.pairs, t.fcolLog, t.hangLog, t.queues, t.copies, t.ports, t.inbox, t.engines, t.serv, t.flash,
        t.fuses, t.staged, t.heldBack, t.lastMma, t.sec, x_pwr, t.clk, t.mg, t.pins, t.vfs, t.bar2Pf, t.bar2Vf, t.qmLast⟩
        :=
  ⟨h.pending, h.freeCtr, h.now, h.regs, h.rdLatch, h.wrStage, h.ifLatch, h.rdata, h.b2data, h.hostMem, h.msgs,
      h.msixOn, h.msixOpen, h.msixPend, h.funcMask, h.hbm, h.hbmBad, h.clearing, h.scrubAt, h.sheaf, h.seedbed, h.glean,
      h.furrows, h.streams, h.dma, h.shadows, h.sems, h.barriers, h.seqRuns, h.ctxs, h.regions, h.coverage, h.fences,
      h.pairs, h.fcolLog, h.hangLog, h.queues, h.copies, h.ports, h.inbox, h.engines, h.serv, h.flash, h.fuses, h.staged,
      h.heldBack, h.lastMma, h.sec, .inl (sub_bit hM rfl), h.clk, h.mg, h.pins, h.vfs, h.bar2Pf, h.bar2Vf, h.qmLast⟩

theorem same_u281475010265088 {M : Nat} {s t : State} (h : Same M s t) (hM : 281475010265088 ||| M = M) {x_shadows :
    List ShadowOp} {x_pwr : PwrSt} :
    Same M s ⟨t.pending, t.freeCtr, t.now, t.regs, t.rdLatch, t.wrStage, t.ifLatch, t.rdata, t.b2data, t.hostMem,
        t.msgs, t.msixOn, t.msixOpen, t.msixPend, t.funcMask, t.hbm, t.hbmBad, t.clearing, t.scrubAt, t.sheaf, t.seedbed,
        t.glean, t.furrows, t.streams, t.dma, x_shadows, t.sems, t.barriers, t.seqRuns, t.ctxs, t.regions, t.coverage,
        t.fences, t.pairs, t.fcolLog, t.hangLog, t.queues, t.copies, t.ports, t.inbox, t.engines, t.serv, t.flash,
        t.fuses, t.staged, t.heldBack, t.lastMma, t.sec, x_pwr, t.clk, t.mg, t.pins, t.vfs, t.bar2Pf, t.bar2Vf, t.qmLast⟩
        :=
  ⟨h.pending, h.freeCtr, h.now, h.regs, h.rdLatch, h.wrStage, h.ifLatch, h.rdata, h.b2data, h.hostMem, h.msgs,
      h.msixOn, h.msixOpen, h.msixPend, h.funcMask, h.hbm, h.hbmBad, h.clearing, h.scrubAt, h.sheaf, h.seedbed, h.glean,
      h.furrows, h.streams, h.dma, .inl (sub_bit hM rfl), h.sems, h.barriers, h.seqRuns, h.ctxs, h.regions, h.coverage,
      h.fences, h.pairs, h.fcolLog, h.hangLog, h.queues, h.copies, h.ports, h.inbox, h.engines, h.serv, h.flash, h.fuses,
      h.staged, h.heldBack, h.lastMma, h.sec, .inl (sub_bit hM rfl), h.clk, h.mg, h.pins, h.vfs, h.bar2Pf, h.bar2Vf,
      h.qmLast⟩

theorem same_u285873023221764 {M : Nat} {s t : State} (h : Same M s t) (hM : 285873023221764 ||| M = M) {x_now : Nat}
    {x_flash : Flash} {x_pwr : PwrSt} :
    Same M s ⟨t.pending, t.freeCtr, x_now, t.regs, t.rdLatch, t.wrStage, t.ifLatch, t.rdata, t.b2data, t.hostMem,
        t.msgs, t.msixOn, t.msixOpen, t.msixPend, t.funcMask, t.hbm, t.hbmBad, t.clearing, t.scrubAt, t.sheaf, t.seedbed,
        t.glean, t.furrows, t.streams, t.dma, t.shadows, t.sems, t.barriers, t.seqRuns, t.ctxs, t.regions, t.coverage,
        t.fences, t.pairs, t.fcolLog, t.hangLog, t.queues, t.copies, t.ports, t.inbox, t.engines, t.serv, x_flash,
        t.fuses, t.staged, t.heldBack, t.lastMma, t.sec, x_pwr, t.clk, t.mg, t.pins, t.vfs, t.bar2Pf, t.bar2Vf, t.qmLast⟩
        :=
  ⟨h.pending, h.freeCtr, .inl (sub_bit hM rfl), h.regs, h.rdLatch, h.wrStage, h.ifLatch, h.rdata, h.b2data, h.hostMem,
      h.msgs, h.msixOn, h.msixOpen, h.msixPend, h.funcMask, h.hbm, h.hbmBad, h.clearing, h.scrubAt, h.sheaf, h.seedbed,
      h.glean, h.furrows, h.streams, h.dma, h.shadows, h.sems, h.barriers, h.seqRuns, h.ctxs, h.regions, h.coverage,
      h.fences, h.pairs, h.fcolLog, h.hangLog, h.queues, h.copies, h.ports, h.inbox, h.engines, h.serv, .inl (sub_bit hM
      rfl), h.fuses, h.staged, h.heldBack, h.lastMma, h.sec, .inl (sub_bit hM rfl), h.clk, h.mg, h.pins, h.vfs, h.bar2Pf,
      h.bar2Vf, h.qmLast⟩

theorem same_u562949953421312 {M : Nat} {s t : State} (h : Same M s t) (hM : 562949953421312 ||| M = M) {x_clk : ClkSt} :
    Same M s ⟨t.pending, t.freeCtr, t.now, t.regs, t.rdLatch, t.wrStage, t.ifLatch, t.rdata, t.b2data, t.hostMem,
        t.msgs, t.msixOn, t.msixOpen, t.msixPend, t.funcMask, t.hbm, t.hbmBad, t.clearing, t.scrubAt, t.sheaf, t.seedbed,
        t.glean, t.furrows, t.streams, t.dma, t.shadows, t.sems, t.barriers, t.seqRuns, t.ctxs, t.regions, t.coverage,
        t.fences, t.pairs, t.fcolLog, t.hangLog, t.queues, t.copies, t.ports, t.inbox, t.engines, t.serv, t.flash,
        t.fuses, t.staged, t.heldBack, t.lastMma, t.sec, t.pwr, x_clk, t.mg, t.pins, t.vfs, t.bar2Pf, t.bar2Vf, t.qmLast⟩
        :=
  ⟨h.pending, h.freeCtr, h.now, h.regs, h.rdLatch, h.wrStage, h.ifLatch, h.rdata, h.b2data, h.hostMem, h.msgs,
      h.msixOn, h.msixOpen, h.msixPend, h.funcMask, h.hbm, h.hbmBad, h.clearing, h.scrubAt, h.sheaf, h.seedbed, h.glean,
      h.furrows, h.streams, h.dma, h.shadows, h.sems, h.barriers, h.seqRuns, h.ctxs, h.regions, h.coverage, h.fences,
      h.pairs, h.fcolLog, h.hangLog, h.queues, h.copies, h.ports, h.inbox, h.engines, h.serv, h.flash, h.fuses, h.staged,
      h.heldBack, h.lastMma, h.sec, h.pwr, .inl (sub_bit hM rfl), h.mg, h.pins, h.vfs, h.bar2Pf, h.bar2Vf, h.qmLast⟩

theorem same_u1125899906842624 {M : Nat} {s t : State} (h : Same M s t) (hM : 1125899906842624 ||| M = M) {x_mg : MgSt} :
    Same M s ⟨t.pending, t.freeCtr, t.now, t.regs, t.rdLatch, t.wrStage, t.ifLatch, t.rdata, t.b2data, t.hostMem,
        t.msgs, t.msixOn, t.msixOpen, t.msixPend, t.funcMask, t.hbm, t.hbmBad, t.clearing, t.scrubAt, t.sheaf, t.seedbed,
        t.glean, t.furrows, t.streams, t.dma, t.shadows, t.sems, t.barriers, t.seqRuns, t.ctxs, t.regions, t.coverage,
        t.fences, t.pairs, t.fcolLog, t.hangLog, t.queues, t.copies, t.ports, t.inbox, t.engines, t.serv, t.flash,
        t.fuses, t.staged, t.heldBack, t.lastMma, t.sec, t.pwr, t.clk, x_mg, t.pins, t.vfs, t.bar2Pf, t.bar2Vf, t.qmLast⟩
        :=
  ⟨h.pending, h.freeCtr, h.now, h.regs, h.rdLatch, h.wrStage, h.ifLatch, h.rdata, h.b2data, h.hostMem, h.msgs,
      h.msixOn, h.msixOpen, h.msixPend, h.funcMask, h.hbm, h.hbmBad, h.clearing, h.scrubAt, h.sheaf, h.seedbed, h.glean,
      h.furrows, h.streams, h.dma, h.shadows, h.sems, h.barriers, h.seqRuns, h.ctxs, h.regions, h.coverage, h.fences,
      h.pairs, h.fcolLog, h.hangLog, h.queues, h.copies, h.ports, h.inbox, h.engines, h.serv, h.flash, h.fuses, h.staged,
      h.heldBack, h.lastMma, h.sec, h.pwr, h.clk, .inl (sub_bit hM rfl), h.pins, h.vfs, h.bar2Pf, h.bar2Vf, h.qmLast⟩

theorem same_u1125917086711808 {M : Nat} {s t : State} (h : Same M s t) (hM : 1125917086711808 ||| M = M) {x_fcolLog :
    Store (List Byte)} {x_mg : MgSt} :
    Same M s ⟨t.pending, t.freeCtr, t.now, t.regs, t.rdLatch, t.wrStage, t.ifLatch, t.rdata, t.b2data, t.hostMem,
        t.msgs, t.msixOn, t.msixOpen, t.msixPend, t.funcMask, t.hbm, t.hbmBad, t.clearing, t.scrubAt, t.sheaf, t.seedbed,
        t.glean, t.furrows, t.streams, t.dma, t.shadows, t.sems, t.barriers, t.seqRuns, t.ctxs, t.regions, t.coverage,
        t.fences, t.pairs, x_fcolLog, t.hangLog, t.queues, t.copies, t.ports, t.inbox, t.engines, t.serv, t.flash,
        t.fuses, t.staged, t.heldBack, t.lastMma, t.sec, t.pwr, t.clk, x_mg, t.pins, t.vfs, t.bar2Pf, t.bar2Vf, t.qmLast⟩
        :=
  ⟨h.pending, h.freeCtr, h.now, h.regs, h.rdLatch, h.wrStage, h.ifLatch, h.rdata, h.b2data, h.hostMem, h.msgs,
      h.msixOn, h.msixOpen, h.msixPend, h.funcMask, h.hbm, h.hbmBad, h.clearing, h.scrubAt, h.sheaf, h.seedbed, h.glean,
      h.furrows, h.streams, h.dma, h.shadows, h.sems, h.barriers, h.seqRuns, h.ctxs, h.regions, h.coverage, h.fences,
      h.pairs, .inl (sub_bit hM rfl), h.hangLog, h.queues, h.copies, h.ports, h.inbox, h.engines, h.serv, h.flash,
      h.fuses, h.staged, h.heldBack, h.lastMma, h.sec, h.pwr, h.clk, .inl (sub_bit hM rfl), h.pins, h.vfs, h.bar2Pf,
      h.bar2Vf, h.qmLast⟩

theorem same_u2251799813685248 {M : Nat} {s t : State} (h : Same M s t) (hM : 2251799813685248 ||| M = M) {x_pins : PinSt} :
    Same M s ⟨t.pending, t.freeCtr, t.now, t.regs, t.rdLatch, t.wrStage, t.ifLatch, t.rdata, t.b2data, t.hostMem,
        t.msgs, t.msixOn, t.msixOpen, t.msixPend, t.funcMask, t.hbm, t.hbmBad, t.clearing, t.scrubAt, t.sheaf, t.seedbed,
        t.glean, t.furrows, t.streams, t.dma, t.shadows, t.sems, t.barriers, t.seqRuns, t.ctxs, t.regions, t.coverage,
        t.fences, t.pairs, t.fcolLog, t.hangLog, t.queues, t.copies, t.ports, t.inbox, t.engines, t.serv, t.flash,
        t.fuses, t.staged, t.heldBack, t.lastMma, t.sec, t.pwr, t.clk, t.mg, x_pins, t.vfs, t.bar2Pf, t.bar2Vf, t.qmLast⟩
        :=
  ⟨h.pending, h.freeCtr, h.now, h.regs, h.rdLatch, h.wrStage, h.ifLatch, h.rdata, h.b2data, h.hostMem, h.msgs,
      h.msixOn, h.msixOpen, h.msixPend, h.funcMask, h.hbm, h.hbmBad, h.clearing, h.scrubAt, h.sheaf, h.seedbed, h.glean,
      h.furrows, h.streams, h.dma, h.shadows, h.sems, h.barriers, h.seqRuns, h.ctxs, h.regions, h.coverage, h.fences,
      h.pairs, h.fcolLog, h.hangLog, h.queues, h.copies, h.ports, h.inbox, h.engines, h.serv, h.flash, h.fuses, h.staged,
      h.heldBack, h.lastMma, h.sec, h.pwr, h.clk, h.mg, .inl (sub_bit hM rfl), h.vfs, h.bar2Pf, h.bar2Vf, h.qmLast⟩

theorem same_u2533274790395904 {M : Nat} {s t : State} (h : Same M s t) (hM : 2533274790395904 ||| M = M) {x_pwr :
    PwrSt} {x_pins : PinSt} :
    Same M s ⟨t.pending, t.freeCtr, t.now, t.regs, t.rdLatch, t.wrStage, t.ifLatch, t.rdata, t.b2data, t.hostMem,
        t.msgs, t.msixOn, t.msixOpen, t.msixPend, t.funcMask, t.hbm, t.hbmBad, t.clearing, t.scrubAt, t.sheaf, t.seedbed,
        t.glean, t.furrows, t.streams, t.dma, t.shadows, t.sems, t.barriers, t.seqRuns, t.ctxs, t.regions, t.coverage,
        t.fences, t.pairs, t.fcolLog, t.hangLog, t.queues, t.copies, t.ports, t.inbox, t.engines, t.serv, t.flash,
        t.fuses, t.staged, t.heldBack, t.lastMma, t.sec, x_pwr, t.clk, t.mg, x_pins, t.vfs, t.bar2Pf, t.bar2Vf, t.qmLast⟩
        :=
  ⟨h.pending, h.freeCtr, h.now, h.regs, h.rdLatch, h.wrStage, h.ifLatch, h.rdata, h.b2data, h.hostMem, h.msgs,
      h.msixOn, h.msixOpen, h.msixPend, h.funcMask, h.hbm, h.hbmBad, h.clearing, h.scrubAt, h.sheaf, h.seedbed, h.glean,
      h.furrows, h.streams, h.dma, h.shadows, h.sems, h.barriers, h.seqRuns, h.ctxs, h.regions, h.coverage, h.fences,
      h.pairs, h.fcolLog, h.hangLog, h.queues, h.copies, h.ports, h.inbox, h.engines, h.serv, h.flash, h.fuses, h.staged,
      h.heldBack, h.lastMma, h.sec, .inl (sub_bit hM rfl), h.clk, h.mg, .inl (sub_bit hM rfl), h.vfs, h.bar2Pf, h.bar2Vf,
      h.qmLast⟩

theorem same_u4503599627370496 {M : Nat} {s t : State} (h : Same M s t) (hM : 4503599627370496 ||| M = M) {x_vfs : Nat} :
    Same M s ⟨t.pending, t.freeCtr, t.now, t.regs, t.rdLatch, t.wrStage, t.ifLatch, t.rdata, t.b2data, t.hostMem,
        t.msgs, t.msixOn, t.msixOpen, t.msixPend, t.funcMask, t.hbm, t.hbmBad, t.clearing, t.scrubAt, t.sheaf, t.seedbed,
        t.glean, t.furrows, t.streams, t.dma, t.shadows, t.sems, t.barriers, t.seqRuns, t.ctxs, t.regions, t.coverage,
        t.fences, t.pairs, t.fcolLog, t.hangLog, t.queues, t.copies, t.ports, t.inbox, t.engines, t.serv, t.flash,
        t.fuses, t.staged, t.heldBack, t.lastMma, t.sec, t.pwr, t.clk, t.mg, t.pins, x_vfs, t.bar2Pf, t.bar2Vf, t.qmLast⟩
        :=
  ⟨h.pending, h.freeCtr, h.now, h.regs, h.rdLatch, h.wrStage, h.ifLatch, h.rdata, h.b2data, h.hostMem, h.msgs,
      h.msixOn, h.msixOpen, h.msixPend, h.funcMask, h.hbm, h.hbmBad, h.clearing, h.scrubAt, h.sheaf, h.seedbed, h.glean,
      h.furrows, h.streams, h.dma, h.shadows, h.sems, h.barriers, h.seqRuns, h.ctxs, h.regions, h.coverage, h.fences,
      h.pairs, h.fcolLog, h.hangLog, h.queues, h.copies, h.ports, h.inbox, h.engines, h.serv, h.flash, h.fuses, h.staged,
      h.heldBack, h.lastMma, h.sec, h.pwr, h.clk, h.mg, h.pins, .inl (sub_bit hM rfl), h.bar2Pf, h.bar2Vf, h.qmLast⟩

theorem same_u9007199254740992 {M : Nat} {s t : State} (h : Same M s t) (hM : 9007199254740992 ||| M = M) {x_bar2Pf : Nat} :
    Same M s ⟨t.pending, t.freeCtr, t.now, t.regs, t.rdLatch, t.wrStage, t.ifLatch, t.rdata, t.b2data, t.hostMem,
        t.msgs, t.msixOn, t.msixOpen, t.msixPend, t.funcMask, t.hbm, t.hbmBad, t.clearing, t.scrubAt, t.sheaf, t.seedbed,
        t.glean, t.furrows, t.streams, t.dma, t.shadows, t.sems, t.barriers, t.seqRuns, t.ctxs, t.regions, t.coverage,
        t.fences, t.pairs, t.fcolLog, t.hangLog, t.queues, t.copies, t.ports, t.inbox, t.engines, t.serv, t.flash,
        t.fuses, t.staged, t.heldBack, t.lastMma, t.sec, t.pwr, t.clk, t.mg, t.pins, t.vfs, x_bar2Pf, t.bar2Vf, t.qmLast⟩
        :=
  ⟨h.pending, h.freeCtr, h.now, h.regs, h.rdLatch, h.wrStage, h.ifLatch, h.rdata, h.b2data, h.hostMem, h.msgs,
      h.msixOn, h.msixOpen, h.msixPend, h.funcMask, h.hbm, h.hbmBad, h.clearing, h.scrubAt, h.sheaf, h.seedbed, h.glean,
      h.furrows, h.streams, h.dma, h.shadows, h.sems, h.barriers, h.seqRuns, h.ctxs, h.regions, h.coverage, h.fences,
      h.pairs, h.fcolLog, h.hangLog, h.queues, h.copies, h.ports, h.inbox, h.engines, h.serv, h.flash, h.fuses, h.staged,
      h.heldBack, h.lastMma, h.sec, h.pwr, h.clk, h.mg, h.pins, h.vfs, .inl (sub_bit hM rfl), h.bar2Vf, h.qmLast⟩

theorem same_u18014398509481984 {M : Nat} {s t : State} (h : Same M s t) (hM : 18014398509481984 ||| M = M) {x_bar2Vf
    : Nat} :
    Same M s ⟨t.pending, t.freeCtr, t.now, t.regs, t.rdLatch, t.wrStage, t.ifLatch, t.rdata, t.b2data, t.hostMem,
        t.msgs, t.msixOn, t.msixOpen, t.msixPend, t.funcMask, t.hbm, t.hbmBad, t.clearing, t.scrubAt, t.sheaf, t.seedbed,
        t.glean, t.furrows, t.streams, t.dma, t.shadows, t.sems, t.barriers, t.seqRuns, t.ctxs, t.regions, t.coverage,
        t.fences, t.pairs, t.fcolLog, t.hangLog, t.queues, t.copies, t.ports, t.inbox, t.engines, t.serv, t.flash,
        t.fuses, t.staged, t.heldBack, t.lastMma, t.sec, t.pwr, t.clk, t.mg, t.pins, t.vfs, t.bar2Pf, x_bar2Vf, t.qmLast⟩
        :=
  ⟨h.pending, h.freeCtr, h.now, h.regs, h.rdLatch, h.wrStage, h.ifLatch, h.rdata, h.b2data, h.hostMem, h.msgs,
      h.msixOn, h.msixOpen, h.msixPend, h.funcMask, h.hbm, h.hbmBad, h.clearing, h.scrubAt, h.sheaf, h.seedbed, h.glean,
      h.furrows, h.streams, h.dma, h.shadows, h.sems, h.barriers, h.seqRuns, h.ctxs, h.regions, h.coverage, h.fences,
      h.pairs, h.fcolLog, h.hangLog, h.queues, h.copies, h.ports, h.inbox, h.engines, h.serv, h.flash, h.fuses, h.staged,
      h.heldBack, h.lastMma, h.sec, h.pwr, h.clk, h.mg, h.pins, h.vfs, h.bar2Pf, .inl (sub_bit hM rfl), h.qmLast⟩

theorem same_u27162335252600832 {M : Nat} {s t : State} (h : Same M s t) (hM : 27162335252600832 ||| M = M) {x_msixOn
    : Store Unit} {x_msixOpen : Store Unit} {x_funcMask : Store Unit} {x_sec : SecSt} {x_bar2Pf : Nat} {x_bar2Vf : Nat} :
    Same M s ⟨t.pending, t.freeCtr, t.now, t.regs, t.rdLatch, t.wrStage, t.ifLatch, t.rdata, t.b2data, t.hostMem,
        t.msgs, x_msixOn, x_msixOpen, t.msixPend, x_funcMask, t.hbm, t.hbmBad, t.clearing, t.scrubAt, t.sheaf, t.seedbed,
        t.glean, t.furrows, t.streams, t.dma, t.shadows, t.sems, t.barriers, t.seqRuns, t.ctxs, t.regions, t.coverage,
        t.fences, t.pairs, t.fcolLog, t.hangLog, t.queues, t.copies, t.ports, t.inbox, t.engines, t.serv, t.flash,
        t.fuses, t.staged, t.heldBack, t.lastMma, x_sec, t.pwr, t.clk, t.mg, t.pins, t.vfs, x_bar2Pf, x_bar2Vf, t.qmLast⟩
        :=
  ⟨h.pending, h.freeCtr, h.now, h.regs, h.rdLatch, h.wrStage, h.ifLatch, h.rdata, h.b2data, h.hostMem, h.msgs, .inl
      (sub_bit hM rfl), .inl (sub_bit hM rfl), h.msixPend, .inl (sub_bit hM rfl), h.hbm, h.hbmBad, h.clearing, h.scrubAt,
      h.sheaf, h.seedbed, h.glean, h.furrows, h.streams, h.dma, h.shadows, h.sems, h.barriers, h.seqRuns, h.ctxs,
      h.regions, h.coverage, h.fences, h.pairs, h.fcolLog, h.hangLog, h.queues, h.copies, h.ports, h.inbox, h.engines,
      h.serv, h.flash, h.fuses, h.staged, h.heldBack, h.lastMma, .inl (sub_bit hM rfl), h.pwr, h.clk, h.mg, h.pins, h.vfs,
      .inl (sub_bit hM rfl), .inl (sub_bit hM rfl), h.qmLast⟩

theorem same_u36028797018963968 {M : Nat} {s t : State} (h : Same M s t) (hM : 36028797018963968 ||| M = M) {x_qmLast
    : Nat} :
    Same M s ⟨t.pending, t.freeCtr, t.now, t.regs, t.rdLatch, t.wrStage, t.ifLatch, t.rdata, t.b2data, t.hostMem,
        t.msgs, t.msixOn, t.msixOpen, t.msixPend, t.funcMask, t.hbm, t.hbmBad, t.clearing, t.scrubAt, t.sheaf, t.seedbed,
        t.glean, t.furrows, t.streams, t.dma, t.shadows, t.sems, t.barriers, t.seqRuns, t.ctxs, t.regions, t.coverage,
        t.fences, t.pairs, t.fcolLog, t.hangLog, t.queues, t.copies, t.ports, t.inbox, t.engines, t.serv, t.flash,
        t.fuses, t.staged, t.heldBack, t.lastMma, t.sec, t.pwr, t.clk, t.mg, t.pins, t.vfs, t.bar2Pf, t.bar2Vf, x_qmLast⟩
        :=
  ⟨h.pending, h.freeCtr, h.now, h.regs, h.rdLatch, h.wrStage, h.ifLatch, h.rdata, h.b2data, h.hostMem, h.msgs,
      h.msixOn, h.msixOpen, h.msixPend, h.funcMask, h.hbm, h.hbmBad, h.clearing, h.scrubAt, h.sheaf, h.seedbed, h.glean,
      h.furrows, h.streams, h.dma, h.shadows, h.sems, h.barriers, h.seqRuns, h.ctxs, h.regions, h.coverage, h.fences,
      h.pairs, h.fcolLog, h.hangLog, h.queues, h.copies, h.ports, h.inbox, h.engines, h.serv, h.flash, h.fuses, h.staged,
      h.heldBack, h.lastMma, h.sec, h.pwr, h.clk, h.mg, h.pins, h.vfs, h.bar2Pf, h.bar2Vf, .inl (sub_bit hM rfl)⟩

theorem same_u72044399898393086 {M : Nat} {s t : State} (h : Same M s t) (hM : 72044399898393086 ||| M = M) {x_freeCtr
    : Nat} {x_now : Nat} {x_regs : Store Word32} {x_rdLatch : Store Word32} {x_wrStage : Store Word32} {x_ifLatch : Store
    (List Word32)} {x_rdata : BitVec 64} {x_b2data : List Byte} {x_msixOn : Store Unit} {x_msixOpen : Store Unit}
    {x_msixPend : Store Unit} {x_funcMask : Store Unit} {x_hbm : Memory} {x_hbmBad : Store Unit} {x_clearing : List Nat}
    {x_scrubAt : Store Nat} {x_sheaf : Memory} {x_seedbed : Memory} {x_glean : Memory} {x_furrows : Store FurrowSt}
    {x_streams : Store StreamSt} {x_dma : Store DmaSt} {x_shadows : List ShadowOp} {x_sems : Store Nat} {x_barriers :
    Store Barrier} {x_seqRuns : List SeqRun} {x_ctxs : Store CtxSt} {x_regions : Store Region} {x_coverage : Store Unit}
    {x_fences : List (Dom × FPhase)} {x_pairs : Store PairSt} {x_fcolLog : Store (List Byte)} {x_hangLog : Store (List
    Byte)} {x_queues : Store QueueSt} {x_copies : List CopyOp} {x_ports : Store PortSt} {x_inbox : List (Nat × Pkt)}
    {x_engines : Store ColEng} {x_serv : Store ServSt} {x_staged : List AlmEntry} {x_heldBack : Store (Option Nat × Nat)}
    {x_lastMma : Store Nat} {x_sec : SecSt} {x_pwr : PwrSt} {x_clk : ClkSt} {x_mg : MgSt} {x_pins : PinSt} {x_vfs : Nat}
    {x_bar2Pf : Nat} {x_bar2Vf : Nat} {x_qmLast : Nat} :
    Same M s ⟨t.pending, x_freeCtr, x_now, x_regs, x_rdLatch, x_wrStage, x_ifLatch, x_rdata, x_b2data, t.hostMem,
        t.msgs, x_msixOn, x_msixOpen, x_msixPend, x_funcMask, x_hbm, x_hbmBad, x_clearing, x_scrubAt, x_sheaf, x_seedbed,
        x_glean, x_furrows, x_streams, x_dma, x_shadows, x_sems, x_barriers, x_seqRuns, x_ctxs, x_regions, x_coverage,
        x_fences, x_pairs, x_fcolLog, x_hangLog, x_queues, x_copies, x_ports, x_inbox, x_engines, x_serv, t.flash,
        t.fuses, x_staged, x_heldBack, x_lastMma, x_sec, x_pwr, x_clk, x_mg, x_pins, x_vfs, x_bar2Pf, x_bar2Vf, x_qmLast⟩
        :=
  ⟨h.pending, .inl (sub_bit hM rfl), .inl (sub_bit hM rfl), .inl (sub_bit hM rfl), .inl (sub_bit hM rfl), .inl
      (sub_bit hM rfl), .inl (sub_bit hM rfl), .inl (sub_bit hM rfl), .inl (sub_bit hM rfl), h.hostMem, h.msgs, .inl
      (sub_bit hM rfl), .inl (sub_bit hM rfl), .inl (sub_bit hM rfl), .inl (sub_bit hM rfl), .inl (sub_bit hM rfl), .inl
      (sub_bit hM rfl), .inl (sub_bit hM rfl), .inl (sub_bit hM rfl), .inl (sub_bit hM rfl), .inl (sub_bit hM rfl), .inl
      (sub_bit hM rfl), .inl (sub_bit hM rfl), .inl (sub_bit hM rfl), .inl (sub_bit hM rfl), .inl (sub_bit hM rfl), .inl
      (sub_bit hM rfl), .inl (sub_bit hM rfl), .inl (sub_bit hM rfl), .inl (sub_bit hM rfl), .inl (sub_bit hM rfl), .inl
      (sub_bit hM rfl), .inl (sub_bit hM rfl), .inl (sub_bit hM rfl), .inl (sub_bit hM rfl), .inl (sub_bit hM rfl), .inl
      (sub_bit hM rfl), .inl (sub_bit hM rfl), .inl (sub_bit hM rfl), .inl (sub_bit hM rfl), .inl (sub_bit hM rfl), .inl
      (sub_bit hM rfl), h.flash, h.fuses, .inl (sub_bit hM rfl), .inl (sub_bit hM rfl), .inl (sub_bit hM rfl), .inl
      (sub_bit hM rfl), .inl (sub_bit hM rfl), .inl (sub_bit hM rfl), .inl (sub_bit hM rfl), .inl (sub_bit hM rfl), .inl
      (sub_bit hM rfl), .inl (sub_bit hM rfl), .inl (sub_bit hM rfl), .inl (sub_bit hM rfl)⟩

end Sys2Proof.Machine
end

