-- ==== Sys2Proof/Laws/SameOps.lean ====
section
/-! SUPPORT. Which parts of the state every shared operation leaves alone: one lemma for each. -/

namespace Sys2Proof.Machine

set_option linter.unreachableTactic false
set_option linter.unusedTactic false

theorem State.setReg_same {M : Nat} {s0 s : State} (hk : Same M s0 s) (hM : 8 ||| M = M) (a : Nat) (w : Word32) :
    Same M s0 (State.setReg s a w) := by
  unfold State.setReg
  try dsimp only
  repeat' first
    | intro _
    | with_reducible exact hk
    | with_reducible apply ite_same
    | with_reducible refine same_snd (by assumption) ?_
    | with_reducible refine same_snd2 (by assumption) ?_
    | with_reducible assumption
    | exact sub_sub (by decide) hM
    | split
    | dsimp only
    | with_reducible apply same_u8

theorem State.wf_same {M : Nat} {s0 s : State} (hk : Same M s0 s) (hM : 8 ||| M = M) (l : Loc) (v : Nat) :
    Same M s0 (State.wf s l v) := by
  unfold State.wf
  try dsimp only
  repeat' first
    | intro _
    | with_reducible exact hk
    | with_reducible apply State.setReg_same
    | with_reducible apply ite_same
    | with_reducible refine same_snd (by assumption) ?_
    | with_reducible refine same_snd2 (by assumption) ?_
    | with_reducible assumption
    | exact sub_sub (by decide) hM
    | split
    | dsimp only

theorem State.bump_same {M : Nat} {s0 s : State} (hk : Same M s0 s) (hM : 8 ||| M = M) (l : Loc) (n : Nat) :
    Same M s0 (State.bump s l n) := by
  unfold State.bump
  try dsimp only
  repeat' first
    | intro _
    | with_reducible exact hk
    | with_reducible apply State.wf_same
    | with_reducible apply ite_same
    | with_reducible refine same_snd (by assumption) ?_
    | with_reducible refine same_snd2 (by assumption) ?_
    | with_reducible assumption
    | exact sub_sub (by decide) hM
    | split
    | dsimp only

theorem State.bump64_same {M : Nat} {s0 s : State} (hk : Same M s0 s) (hM : 8 ||| M = M) (lo : Loc) (hi : Loc) (n : Nat) :
    Same M s0 (State.bump64 s lo hi n) := by
  unfold State.bump64
  try dsimp only
  repeat' first
    | intro _
    | with_reducible exact hk
    | with_reducible apply State.wf_same
    | with_reducible apply ite_same
    | with_reducible refine same_snd (by assumption) ?_
    | with_reducible refine same_snd2 (by assumption) ?_
    | with_reducible assumption
    | exact sub_sub (by decide) hM
    | split
    | dsimp only

theorem State.peak_same {M : Nat} {s0 s : State} (hk : Same M s0 s) (hM : 8 ||| M = M) (l : Loc) (v : Nat) :
    Same M s0 (State.peak s l v) := by
  unfold State.peak
  try dsimp only
  repeat' first
    | intro _
    | with_reducible exact hk
    | with_reducible apply State.wf_same
    | with_reducible apply ite_same
    | with_reducible refine same_snd (by assumption) ?_
    | with_reducible refine same_snd2 (by assumption) ?_
    | with_reducible assumption
    | exact sub_sub (by decide) hM
    | split
    | dsimp only

theorem State.resetPage_same {M : Nat} {s0 s : State} (hk : Same M s0 s) (hM : 8 ||| M = M) (base : Nat) :
    Same M s0 (State.resetPage s base) := by
  unfold State.resetPage
  try dsimp only
  repeat' first
    | intro _
    | with_reducible exact hk
    | with_reducible apply ite_same
    | with_reducible refine same_snd (by assumption) ?_
    | with_reducible refine same_snd2 (by assumption) ?_
    | with_reducible assumption
    | exact sub_sub (by decide) hM
    | split
    | dsimp only
    | with_reducible apply same_u8

theorem State.setCtx_same {M : Nat} {s0 s : State} (hk : Same M s0 s) (hM : 536870912 ||| M = M) (c : Nat) (x : CtxSt) :
    Same M s0 (State.setCtx s c x) := by
  unfold State.setCtx
  try dsimp only
  repeat' first
    | intro _
    | with_reducible exact hk
    | with_reducible apply ite_same
    | with_reducible refine same_snd (by assumption) ?_
    | with_reducible refine same_snd2 (by assumption) ?_
    | with_reducible assumption
    | exact sub_sub (by decide) hM
    | split
    | dsimp only
    | with_reducible apply same_u536870912

theorem State.setFur_same {M : Nat} {s0 s : State} (hk : Same M s0 s) (hM : 4194304 ||| M = M) (f : Nat) (n : Nat) (x
    : FurrowSt) :
    Same M s0 (State.setFur s f n x) := by
  unfold State.setFur
  try dsimp only
  repeat' first
    | intro _
    | with_reducible exact hk
    | with_reducible apply ite_same
    | with_reducible refine same_snd (by assumption) ?_
    | with_reducible refine same_snd2 (by assumption) ?_
    | with_reducible assumption
    | exact sub_sub (by decide) hM
    | split
    | dsimp only
    | with_reducible apply same_u4194304

theorem State.setStrm_same {M : Nat} {s0 s : State} (hk : Same M s0 s) (hM : 8388608 ||| M = M) (f : Nat) (n : Nat) (c
    : Nat) (k : Nat) (x : StreamSt) :
    Same M s0 (State.setStrm s f n c k x) := by
  unfold State.setStrm
  try dsimp only
  repeat' first
    | intro _
    | with_reducible exact hk
    | with_reducible apply ite_same
    | with_reducible refine same_snd (by assumption) ?_
    | with_reducible refine same_snd2 (by assumption) ?_
    | with_reducible assumption
    | exact sub_sub (by decide) hM
    | split
    | dsimp only
    | with_reducible apply same_u8388608

theorem State.setDma_same {M : Nat} {s0 s : State} (hk : Same M s0 s) (hM : 16777216 ||| M = M) (f : Nat) (x : DmaSt) :
    Same M s0 (State.setDma s f x) := by
  unfold State.setDma
  try dsimp only
  repeat' first
    | intro _
    | with_reducible exact hk
    | with_reducible apply ite_same
    | with_reducible refine same_snd (by assumption) ?_
    | with_reducible refine same_snd2 (by assumption) ?_
    | with_reducible assumption
    | exact sub_sub (by decide) hM
    | split
    | dsimp only
    | with_reducible apply same_u16777216

theorem State.setSem_same {M : Nat} {s0 s : State} (hk : Same M s0 s) (hM : 67108864 ||| M = M) (f : Nat) (c : Nat) (n
    : Nat) (v : Nat) :
    Same M s0 (State.setSem s f c n v) := by
  unfold State.setSem
  try dsimp only
  repeat' first
    | intro _
    | with_reducible exact hk
    | with_reducible apply ite_same
    | with_reducible refine same_snd (by assumption) ?_
    | with_reducible refine same_snd2 (by assumption) ?_
    | with_reducible assumption
    | exact sub_sub (by decide) hM
    | split
    | dsimp only
    | with_reducible apply same_u67108864

theorem State.seedWrite_same {M : Nat} {s0 s : State} (hk : Same M s0 s) (hM : 1048576 ||| M = M) (f : Nat) (n : Nat)
    (a : Nat) (bs : List Byte) :
    Same M s0 (State.seedWrite s f n a bs) := by
  unfold State.seedWrite
  try dsimp only
  repeat' first
    | intro _
    | with_reducible exact hk
    | with_reducible apply ite_same
    | with_reducible refine same_snd (by assumption) ?_
    | with_reducible refine same_snd2 (by assumption) ?_
    | with_reducible assumption
    | exact sub_sub (by decide) hM
    | split
    | dsimp only
    | with_reducible apply same_u1048576

theorem State.sheafWrite_same {M : Nat} {s0 s : State} (hk : Same M s0 s) (hM : 524288 ||| M = M) (f : Nat) (a : Nat)
    (bs : List Byte) :
    Same M s0 (State.sheafWrite s f a bs) := by
  unfold State.sheafWrite
  try dsimp only
  repeat' first
    | intro _
    | with_reducible exact hk
    | with_reducible apply ite_same
    | with_reducible refine same_snd (by assumption) ?_
    | with_reducible refine same_snd2 (by assumption) ?_
    | with_reducible assumption
    | exact sub_sub (by decide) hM
    | split
    | dsimp only
    | with_reducible apply same_u524288

theorem State.gleanSet_same {M : Nat} {s0 s : State} (hk : Same M s0 s) (hM : 2097152 ||| M = M) (f : Nat) (n : Nat)
    (e : Nat) (x : Word32 × Word32) :
    Same M s0 (State.gleanSet s f n e x) := by
  unfold State.gleanSet
  try dsimp only
  repeat' first
    | intro _
    | with_reducible exact hk
    | with_reducible apply ite_same
    | with_reducible refine same_snd (by assumption) ?_
    | with_reducible refine same_snd2 (by assumption) ?_
    | with_reducible assumption
    | exact sub_sub (by decide) hM
    | split
    | dsimp only
    | with_reducible apply same_u2097152

theorem State.setPair_same {M : Nat} {s0 s : State} (hk : Same M s0 s) (hM : 8589934592 ||| M = M) (k : Nat) (x : PairSt) :
    Same M s0 (State.setPair s k x) := by
  unfold State.setPair
  try dsimp only
  repeat' first
    | intro _
    | with_reducible exact hk
    | with_reducible apply ite_same
    | with_reducible refine same_snd (by assumption) ?_
    | with_reducible refine same_snd2 (by assumption) ?_
    | with_reducible assumption
    | exact sub_sub (by decide) hM
    | split
    | dsimp only
    | with_reducible apply same_u8589934592

theorem State.errWords_same {M : Nat} {s0 s : State} (hk : Same M s0 s) (hM : 8 ||| M = M) (page : Nat) (bit : Nat) :
    Same M s0 (State.errWords s page bit) := by
  unfold State.errWords
  try dsimp only
  repeat' first
    | intro _
    | with_reducible exact hk
    | with_reducible apply State.wf_same
    | with_reducible apply State.bump_same
    | with_reducible apply ite_same
    | with_reducible refine same_snd (by assumption) ?_
    | with_reducible refine same_snd2 (by assumption) ?_
    | with_reducible assumption
    | exact sub_sub (by decide) hM
    | split
    | dsimp only

theorem State.raisePair_same {M : Nat} {s0 s : State} (hk : Same M s0 s) (hM : 8589934592 ||| M = M) (page : Nat) (bit
    : Nat) (forced : Bool) :
    Same M s0 (State.raisePair s page bit forced) := by
  unfold State.raisePair
  try dsimp only
  repeat' first
    | intro _
    | with_reducible exact hk
    | with_reducible apply State.setPair_same
    | with_reducible apply ite_same
    | with_reducible refine same_snd (by assumption) ?_
    | with_reducible refine same_snd2 (by assumption) ?_
    | with_reducible assumption
    | exact sub_sub (by decide) hM
    | split
    | dsimp only

theorem State.raiseSrc_same {M : Nat} {s0 s : State} (hk : Same M s0 s) (hM : 8589934600 ||| M = M) (page : Nat) (bit
    : Nat) :
    Same M s0 (State.raiseSrc s page bit) := by
  unfold State.raiseSrc
  try dsimp only
  repeat' first
    | intro _
    | with_reducible exact hk
    | with_reducible apply State.errWords_same
    | with_reducible apply State.raisePair_same
    | with_reducible apply ite_same
    | with_reducible refine same_snd (by assumption) ?_
    | with_reducible refine same_snd2 (by assumption) ?_
    | with_reducible assumption
    | exact sub_sub (by decide) hM
    | split
    | dsimp only

theorem State.raiseFor_same {M : Nat} {s0 s : State} (hk : Same M s0 s) (hM : 8589934600 ||| M = M) (page : Nat) (bit
    : Nat) (c : Option Nat) :
    Same M s0 (State.raiseFor s page bit c) := by
  unfold State.raiseFor
  try dsimp only
  repeat' first
    | intro _
    | with_reducible exact hk
    | with_reducible apply State.raiseSrc_same
    | with_reducible apply State.setPair_same
    | with_reducible apply ite_same
    | with_reducible refine same_snd (by assumption) ?_
    | with_reducible refine same_snd2 (by assumption) ?_
    | with_reducible assumption
    | exact sub_sub (by decide) hM
    | split
    | dsimp only

theorem State.condEvent_same {M : Nat} {s0 s : State} (hk : Same M s0 s) (hM : 8589934600 ||| M = M) (page : Nat) (bit
    : Nat) :
    Same M s0 (State.condEvent s page bit) := by
  unfold State.condEvent
  try dsimp only
  repeat' first
    | intro _
    | with_reducible exact hk
    | with_reducible apply State.raiseSrc_same
    | with_reducible apply State.setPair_same
    | with_reducible apply ite_same
    | with_reducible refine same_snd (by assumption) ?_
    | with_reducible refine same_snd2 (by assumption) ?_
    | with_reducible assumption
    | exact sub_sub (by decide) hM
    | split
    | dsimp only

theorem State.raiseCond_same {M : Nat} {s0 s : State} (hk : Same M s0 s) (hM : 8589934600 ||| M = M) (page : Nat) (bit
    : Nat) :
    Same M s0 (State.raiseCond s page bit) := by
  unfold State.raiseCond
  try dsimp only
  repeat' first
    | intro _
    | with_reducible exact hk
    | with_reducible apply State.condEvent_same
    | with_reducible apply ite_same
    | with_reducible refine same_snd (by assumption) ?_
    | with_reducible refine same_snd2 (by assumption) ?_
    | with_reducible assumption
    | exact sub_sub (by decide) hM
    | split
    | dsimp only

theorem State.dropCond_same {M : Nat} {s0 s : State} (hk : Same M s0 s) (hM : 8589934592 ||| M = M) (page : Nat) (bit
    : Nat) :
    Same M s0 (State.dropCond s page bit) := by
  unfold State.dropCond
  try dsimp only
  repeat' first
    | intro _
    | with_reducible exact hk
    | with_reducible apply State.setPair_same
    | with_reducible apply ite_same
    | with_reducible refine same_snd (by assumption) ?_
    | with_reducible refine same_snd2 (by assumption) ?_
    | with_reducible assumption
    | exact sub_sub (by decide) hM
    | split
    | dsimp only

theorem State.sendMsg_same {M : Nat} {s0 s : State} (hk : Same M s0 s) (hM : 9216 ||| M = M) (func : Nat) (vec : Nat) :
    Same M s0 (State.sendMsg s func vec) := by
  unfold State.sendMsg
  try dsimp only
  repeat' first
    | intro _
    | with_reducible exact hk
    | with_reducible apply ite_same
    | with_reducible refine same_snd (by assumption) ?_
    | with_reducible refine same_snd2 (by assumption) ?_
    | with_reducible assumption
    | exact sub_sub (by decide) hM
    | split
    | dsimp only
    | with_reducible apply same_u1024
    | with_reducible apply same_u8192
    | with_reducible apply same_u9216

theorem State.sendVector0_same {M : Nat} {s0 s : State} (hk : Same M s0 s) (hM : 9216 ||| M = M) :
    Same M s0 (State.sendVector0 s) := by
  unfold State.sendVector0
  try dsimp only
  repeat' first
    | intro _
    | with_reducible exact hk
    | with_reducible apply State.sendMsg_same
    | with_reducible refine foldl_same ?_ ?_
    | with_reducible apply ite_same
    | with_reducible refine same_snd (by assumption) ?_
    | with_reducible refine same_snd2 (by assumption) ?_
    | with_reducible assumption
    | exact sub_sub (by decide) hM
    | split
    | dsimp only

theorem State.ctxEvent_same {M : Nat} {s0 s : State} (hk : Same M s0 s) (hM : 9224 ||| M = M) (c : Nat) (bit : Nat) :
    Same M s0 (State.ctxEvent s c bit) := by
  unfold State.ctxEvent
  try dsimp only
  repeat' first
    | intro _
    | with_reducible exact hk
    | with_reducible apply State.sendMsg_same
    | with_reducible apply State.wf_same
    | with_reducible apply ite_same
    | with_reducible refine same_snd (by assumption) ?_
    | with_reducible refine same_snd2 (by assumption) ?_
    | with_reducible assumption
    | exact sub_sub (by decide) hM
    | split
    | dsimp only

theorem State.blockCause_same {M : Nat} {s0 s : State} (hk : Same M s0 s) (hM : 8 ||| M = M) (c : Nat) (bit : Nat) :
    Same M s0 (State.blockCause s c bit) := by
  unfold State.blockCause
  try dsimp only
  repeat' first
    | intro _
    | with_reducible exact hk
    | with_reducible apply State.wf_same
    | with_reducible apply ite_same
    | with_reducible refine same_snd (by assumption) ?_
    | with_reducible refine same_snd2 (by assumption) ?_
    | with_reducible assumption
    | exact sub_sub (by decide) hM
    | split
    | dsimp only

theorem State.endFence_same {M : Nat} {s0 s : State} (hk : Same M s0 s) (hM : 4294967296 ||| M = M) (d : Dom) :
    Same M s0 (State.endFence s d) := by
  unfold State.endFence
  try dsimp only
  repeat' first
    | intro _
    | with_reducible exact hk
    | with_reducible apply ite_same
    | with_reducible refine same_snd (by assumption) ?_
    | with_reducible refine same_snd2 (by assumption) ?_
    | with_reducible assumption
    | exact sub_sub (by decide) hM
    | split
    | dsimp only
    | with_reducible apply same_u4294967296

theorem State.accErr_same {M : Nat} {s0 s : State} (hk : Same M s0 s) (hM : 8589934600 ||| M = M) (func : Nat) (bar :
    Nat) (write : Bool) (kind : Nat) (off : Nat) :
    Same M s0 (State.accErr s func bar write kind off) := by
  unfold State.accErr
  try dsimp only
  repeat' first
    | intro _
    | with_reducible exact hk
    | with_reducible apply State.raiseSrc_same
    | with_reducible apply State.wf_same
    | with_reducible apply State.bump_same
    | with_reducible apply ite_same
    | with_reducible refine same_snd (by assumption) ?_
    | with_reducible refine same_snd2 (by assumption) ?_
    | with_reducible assumption
    | exact sub_sub (by decide) hM
    | split
    | dsimp only

theorem State.hostWrite_same {M : Nat} {s0 s : State} (hk : Same M s0 s) (hM : 512 ||| M = M) (func : Nat) (a : Nat)
    (bs : List Byte) :
    Same M s0 (State.hostWrite s func a bs) := by
  unfold State.hostWrite
  try dsimp only
  repeat' first
    | intro _
    | with_reducible exact hk
    | with_reducible apply ite_same
    | with_reducible refine same_snd (by assumption) ?_
    | with_reducible refine same_snd2 (by assumption) ?_
    | with_reducible assumption
    | exact sub_sub (by decide) hM
    | split
    | dsimp only
    | with_reducible apply same_u512

theorem State.fresh_same {M : Nat} {s0 s : State} (hk : Same M s0 s) (hM : 2 ||| M = M) :
    Same M s0 (State.fresh s).2 := by
  unfold State.fresh
  try dsimp only
  repeat' first
    | intro _
    | with_reducible exact hk
    | with_reducible apply ite_same
    | with_reducible refine same_snd (by assumption) ?_
    | with_reducible refine same_snd2 (by assumption) ?_
    | with_reducible assumption
    | exact sub_sub (by decide) hM
    | split
    | dsimp only
    | with_reducible apply same_u2

theorem State.verdict_same {M : Nat} {s0 s : State} (hk : Same M s0 s) (hM : 2 ||| M = M) (x : Option Bool) :
    Same M s0 (State.verdict s x).2 := by
  unfold State.verdict
  try dsimp only
  repeat' first
    | intro _
    | with_reducible exact hk
    | with_reducible apply State.fresh_same
    | with_reducible apply ite_same
    | with_reducible refine same_snd (by assumption) ?_
    | with_reducible refine same_snd2 (by assumption) ?_
    | with_reducible assumption
    | exact sub_sub (by decide) hM
    | split
    | dsimp only

theorem State.freeBytes_same {M : Nat} {s0 s : State} (hk : Same M s0 s) (hM : 2 ||| M = M) (n : Nat) :
    Same M s0 (State.freeBytes s n).2 := by
  unfold State.freeBytes
  try dsimp only
  repeat' first
    | intro _
    | with_reducible exact hk
    | with_reducible apply State.fresh_same
    | with_reducible apply ite_same
    | with_reducible refine same_snd (by assumption) ?_
    | with_reducible refine same_snd2 (by assumption) ?_
    | with_reducible assumption
    | exact sub_sub (by decide) hM
    | split
    | dsimp only

theorem State.measured_same {M : Nat} {s0 s : State} (hk : Same M s0 s) (hM : 2 ||| M = M) (m : Option Meas) :
    Same M s0 (State.measured s m).2 := by
  unfold State.measured
  try dsimp only
  repeat' first
    | intro _
    | with_reducible exact hk
    | with_reducible apply State.fresh_same
    | with_reducible apply ite_same
    | with_reducible refine same_snd (by assumption) ?_
    | with_reducible refine same_snd2 (by assumption) ?_
    | with_reducible assumption
    | exact sub_sub (by decide) hM
    | split
    | dsimp only

theorem State.setPll_same {M : Nat} {s0 s : State} (hk : Same M s0 s) (hM : 8 ||| M = M) (i : Nat) (st : Nat) :
    Same M s0 (State.setPll s i st) := by
  unfold State.setPll
  try dsimp only
  repeat' first
    | intro _
    | with_reducible exact hk
    | with_reducible apply State.wf_same
    | with_reducible apply ite_same
    | with_reducible refine same_snd (by assumption) ?_
    | with_reducible refine same_snd2 (by assumption) ?_
    | with_reducible assumption
    | exact sub_sub (by decide) hM
    | split
    | dsimp only

theorem State.startPll_same {M : Nat} {s0 s : State} (hk : Same M s0 s) (hM : 8 ||| M = M) (i : Nat) :
    Same M s0 (State.startPll s i) := by
  unfold State.startPll
  try dsimp only
  repeat' first
    | intro _
    | with_reducible exact hk
    | with_reducible apply State.setPll_same
    | with_reducible apply ite_same
    | with_reducible refine same_snd (by assumption) ?_
    | with_reducible refine same_snd2 (by assumption) ?_
    | with_reducible assumption
    | exact sub_sub (by decide) hM
    | split
    | dsimp only

theorem State.stopPll_same {M : Nat} {s0 s : State} (hk : Same M s0 s) (hM : 8 ||| M = M) (i : Nat) :
    Same M s0 (State.stopPll s i) := by
  unfold State.stopPll
  try dsimp only
  repeat' first
    | intro _
    | with_reducible exact hk
    | with_reducible apply State.setPll_same
    | with_reducible apply ite_same
    | with_reducible refine same_snd (by assumption) ?_
    | with_reducible refine same_snd2 (by assumption) ?_
    | with_reducible assumption
    | exact sub_sub (by decide) hM
    | split
    | dsimp only

theorem State.setPort_same {M : Nat} {s0 s : State} (hk : Same M s0 s) (hM : 274877906944 ||| M = M) (p : Nat) (x : PortSt) :
    Same M s0 (State.setPort s p x) := by
  unfold State.setPort
  try dsimp only
  repeat' first
    | intro _
    | with_reducible exact hk
    | with_reducible apply ite_same
    | with_reducible refine same_snd (by assumption) ?_
    | with_reducible refine same_snd2 (by assumption) ?_
    | with_reducible assumption
    | exact sub_sub (by decide) hM
    | split
    | dsimp only
    | with_reducible apply same_u274877906944

theorem State.goPhase_same {M : Nat} {s0 s : State} (hk : Same M s0 s) (hM : 274877906952 ||| M = M) (p : Nat) (st : Nat) :
    Same M s0 (State.goPhase s p st) := by
  unfold State.goPhase
  try dsimp only
  repeat' first
    | intro _
    | with_reducible exact hk
    | with_reducible apply State.wf_same
    | with_reducible apply State.setPort_same
    | with_reducible apply ite_same
    | with_reducible refine same_snd (by assumption) ?_
    | with_reducible refine same_snd2 (by assumption) ?_
    | with_reducible assumption
    | exact sub_sub (by decide) hM
    | split
    | dsimp only

theorem State.dropPkt_same {M : Nat} {s0 s : State} (hk : Same M s0 s) (hM : 8589934600 ||| M = M) (p : Nat) (x : Pkt)
    (cause : Nat) :
    Same M s0 (State.dropPkt s p x cause) := by
  unfold State.dropPkt
  try dsimp only
  repeat' first
    | intro _
    | with_reducible exact hk
    | with_reducible apply State.raiseSrc_same
    | with_reducible apply State.wf_same
    | with_reducible apply State.bump_same
    | with_reducible apply ite_same
    | with_reducible refine same_snd (by assumption) ?_
    | with_reducible refine same_snd2 (by assumption) ?_
    | with_reducible assumption
    | exact sub_sub (by decide) hM
    | split
    | dsimp only

theorem State.pushOut_same {M : Nat} {s0 s : State} (hk : Same M s0 s) (hM : 274877906944 ||| M = M) (o : Nat) (x : OutPkt) :
    Same M s0 (State.pushOut s o x) := by
  unfold State.pushOut
  try dsimp only
  repeat' first
    | intro _
    | with_reducible exact hk
    | with_reducible apply State.setPort_same
    | with_reducible apply ite_same
    | with_reducible refine same_snd (by assumption) ?_
    | with_reducible refine same_snd2 (by assumption) ?_
    | with_reducible assumption
    | exact sub_sub (by decide) hM
    | split
    | dsimp only

theorem State.sendPkt_same {M : Nat} {s0 s : State} (hk : Same M s0 s) (hM : 833223655432 ||| M = M) (f : Nat) (x : Pkt) :
    Same M s0 (State.sendPkt s f x) := by
  unfold State.sendPkt
  try dsimp only
  repeat' first
    | intro _
    | with_reducible exact hk
    | with_reducible apply State.pushOut_same
    | with_reducible apply State.dropPkt_same
    | with_reducible apply ite_same
    | with_reducible refine same_snd (by assumption) ?_
    | with_reducible refine same_snd2 (by assumption) ?_
    | with_reducible assumption
    | exact sub_sub (by decide) hM
    | split
    | dsimp only
    | with_reducible apply same_u549755813888

theorem State.cutThrough_same {M : Nat} {s0 s : State} (hk : Same M s0 s) (hM : 274877906944 ||| M = M) (p : Nat) :
    Same M s0 (State.cutThrough s p) := by
  unfold State.cutThrough
  try dsimp only
  repeat' first
    | intro _
    | with_reducible exact hk
    | with_reducible apply State.setPort_same
    | with_reducible refine foldl_same ?_ ?_
    | with_reducible apply ite_same
    | with_reducible refine same_snd (by assumption) ?_
    | with_reducible refine same_snd2 (by assumption) ?_
    | with_reducible assumption
    | exact sub_sub (by decide) hM
    | split
    | dsimp only

theorem State.freeRx_same {M : Nat} {s0 s : State} (hk : Same M s0 s) (hM : 274877906944 ||| M = M) (p : Nat) (buf :
    Nat) (len : Nat) :
    Same M s0 (State.freeRx s p buf len) := by
  unfold State.freeRx
  try dsimp only
  repeat' first
    | intro _
    | with_reducible exact hk
    | with_reducible apply State.setPort_same
    | with_reducible apply ite_same
    | with_reducible refine same_snd (by assumption) ?_
    | with_reducible refine same_snd2 (by assumption) ?_
    | with_reducible assumption
    | exact sub_sub (by decide) hM
    | split
    | dsimp only

theorem State.discardOut_same {M : Nat} {s0 s : State} (hk : Same M s0 s) (hM : 274877906944 ||| M = M) (x : OutPkt) :
    Same M s0 (State.discardOut s x) := by
  unfold State.discardOut
  try dsimp only
  repeat' first
    | intro _
    | with_reducible exact hk
    | with_reducible apply State.freeRx_same
    | with_reducible apply State.setPort_same
    | with_reducible apply ite_same
    | with_reducible refine same_snd (by assumption) ?_
    | with_reducible refine same_snd2 (by assumption) ?_
    | with_reducible assumption
    | exact sub_sub (by decide) hM
    | split
    | dsimp only

theorem State.portDown_same {M : Nat} {s0 s : State} (hk : Same M s0 s) (hM : 274877906952 ||| M = M) (p : Nat) (st : Nat) :
    Same M s0 (State.portDown s p st) := by
  unfold State.portDown
  try dsimp only
  repeat' first
    | intro _
    | with_reducible exact hk
    | with_reducible apply State.cutThrough_same
    | with_reducible apply State.discardOut_same
    | with_reducible apply State.stopPll_same
    | with_reducible apply State.wf_same
    | with_reducible apply State.setPort_same
    | with_reducible refine foldl_same ?_ ?_
    | with_reducible apply ite_same
    | with_reducible refine same_snd (by assumption) ?_
    | with_reducible refine same_snd2 (by assumption) ?_
    | with_reducible assumption
    | exact sub_sub (by decide) hM
    | split
    | dsimp only

theorem State.portFail_same {M : Nat} {s0 s : State} (hk : Same M s0 s) (hM : 283467841544 ||| M = M) (p : Nat) (bit : Nat) :
    Same M s0 (State.portFail s p bit) := by
  unfold State.portFail
  try dsimp only
  repeat' first
    | intro _
    | with_reducible exact hk
    | with_reducible apply State.portDown_same
    | with_reducible apply State.raiseSrc_same
    | with_reducible apply ite_same
    | with_reducible refine same_snd (by assumption) ?_
    | with_reducible refine same_snd2 (by assumption) ?_
    | with_reducible assumption
    | exact sub_sub (by decide) hM
    | split
    | dsimp only

theorem State.enterRetrain_same {M : Nat} {s0 s : State} (hk : Same M s0 s) (hM : 283467841544 ||| M = M) (p : Nat) :
    Same M s0 (State.enterRetrain s p) := by
  unfold State.enterRetrain
  try dsimp only
  repeat' first
    | intro _
    | with_reducible exact hk
    | with_reducible apply State.raiseSrc_same
    | with_reducible apply State.wf_same
    | with_reducible apply State.setPort_same
    | with_reducible apply State.bump_same
    | with_reducible apply ite_same
    | with_reducible refine same_snd (by assumption) ?_
    | with_reducible refine same_snd2 (by assumption) ?_
    | with_reducible assumption
    | exact sub_sub (by decide) hM
    | split
    | dsimp only

theorem State.fencePort_same {M : Nat} {s0 s : State} (hk : Same M s0 s) (hM : 279172874248 ||| M = M) (p : Nat) :
    Same M s0 (State.fencePort s p) := by
  unfold State.fencePort
  try dsimp only
  repeat' first
    | intro _
    | with_reducible exact hk
    | with_reducible apply State.portDown_same
    | with_reducible apply State.wf_same
    | with_reducible apply ite_same
    | with_reducible refine same_snd (by assumption) ?_
    | with_reducible refine same_snd2 (by assumption) ?_
    | with_reducible assumption
    | exact sub_sub (by decide) hM
    | split
    | dsimp only
    | with_reducible apply same_u4294967296

theorem State.beginFence_same {M : Nat} {s0 s : State} (hk : Same M s0 s) (hM : 4294967296 ||| M = M) (d : Dom) :
    Same M s0 (State.beginFence s d) := by
  unfold State.beginFence
  try dsimp only
  repeat' first
    | intro _
    | with_reducible exact hk
    | with_reducible apply ite_same
    | with_reducible refine same_snd (by assumption) ?_
    | with_reducible refine same_snd2 (by assumption) ?_
    | with_reducible assumption
    | exact sub_sub (by decide) hM
    | split
    | dsimp only
    | with_reducible apply same_u4294967296

theorem State.fenceField_same {M : Nat} {s0 s : State} (hk : Same M s0 s) (hM : 279172874248 ||| M = M) (f : Nat) :
    Same M s0 (State.fenceField s f) := by
  unfold State.fenceField
  try dsimp only
  repeat' first
    | intro _
    | with_reducible exact hk
    | with_reducible apply State.fencePort_same
    | with_reducible apply State.beginFence_same
    | with_reducible apply State.blockCause_same
    | with_reducible refine foldl_same ?_ ?_
    | with_reducible apply ite_same
    | with_reducible refine same_snd (by assumption) ?_
    | with_reducible refine same_snd2 (by assumption) ?_
    | with_reducible assumption
    | exact sub_sub (by decide) hM
    | split
    | dsimp only

theorem State.fenceAll_same {M : Nat} {s0 s : State} (hk : Same M s0 s) (hM : 279172874248 ||| M = M) :
    Same M s0 (State.fenceAll s) := by
  unfold State.fenceAll
  try dsimp only
  repeat' first
    | intro _
    | with_reducible exact hk
    | with_reducible apply State.fenceField_same
    | with_reducible apply State.fencePort_same
    | with_reducible refine foldl_same ?_ ?_
    | with_reducible apply ite_same
    | with_reducible refine same_snd (by assumption) ?_
    | with_reducible refine same_snd2 (by assumption) ?_
    | with_reducible assumption
    | exact sub_sub (by decide) hM
    | split
    | dsimp only

theorem State.deviceFatal_same {M : Nat} {s0 s : State} (hk : Same M s0 s) (hM : 279172883464 ||| M = M) :
    Same M s0 (State.deviceFatal s) := by
  unfold State.deviceFatal
  try dsimp only
  repeat' first
    | intro _
    | with_reducible exact hk
    | with_reducible apply State.sendVector0_same
    | with_reducible apply State.wf_same
    | with_reducible apply State.fenceAll_same
    | with_reducible apply ite_same
    | with_reducible refine same_snd (by assumption) ?_
    | with_reducible refine same_snd2 (by assumption) ?_
    | with_reducible assumption
    | exact sub_sub (by decide) hM
    | split
    | dsimp only

theorem State.raiseFatal_same {M : Nat} {s0 s : State} (hk : Same M s0 s) (hM : 287762818056 ||| M = M) (page : Nat)
    (bit : Nat) :
    Same M s0 (State.raiseFatal s page bit) := by
  unfold State.raiseFatal
  try dsimp only
  repeat' first
    | intro _
    | with_reducible exact hk
    | with_reducible apply State.raiseSrc_same
    | with_reducible apply State.deviceFatal_same
    | with_reducible apply ite_same
    | with_reducible refine same_snd (by assumption) ?_
    | with_reducible refine same_snd2 (by assumption) ?_
    | with_reducible assumption
    | exact sub_sub (by decide) hM
    | split
    | dsimp only

theorem State.settleKeys_same {M : Nat} {s0 s : State} (hk : Same M s0 s) (hM : 274877906952 ||| M = M) (p : Nat) :
    Same M s0 (State.settleKeys s p) := by
  unfold State.settleKeys
  try dsimp only
  repeat' first
    | intro _
    | with_reducible exact hk
    | with_reducible apply State.wf_same
    | with_reducible apply State.setPort_same
    | with_reducible apply ite_same
    | with_reducible refine same_snd (by assumption) ?_
    | with_reducible refine same_snd2 (by assumption) ?_
    | with_reducible assumption
    | exact sub_sub (by decide) hM
    | split
    | dsimp only

theorem State.forwardSlot_same {M : Nat} {s0 s : State} (hk : Same M s0 s) (hM : 274877906944 ||| M = M) (p : Nat) (o
    : Nat) (bs : List Byte) :
    Same M s0 (State.forwardSlot s p o bs) := by
  unfold State.forwardSlot
  try dsimp only
  repeat' first
    | intro _
    | with_reducible exact hk
    | with_reducible apply State.setPort_same
    | with_reducible apply ite_same
    | with_reducible refine same_snd (by assumption) ?_
    | with_reducible refine same_snd2 (by assumption) ?_
    | with_reducible assumption
    | exact sub_sub (by decide) hM
    | split
    | dsimp only

theorem State.releaseLast_same {M : Nat} {s0 s : State} (hk : Same M s0 s) (hM : 274877906944 ||| M = M) (p : Nat)
    (abort : Bool) :
    Same M s0 (State.releaseLast s p abort) := by
  unfold State.releaseLast
  try dsimp only
  repeat' first
    | intro _
    | with_reducible exact hk
    | with_reducible apply State.setPort_same
    | with_reducible apply ite_same
    | with_reducible refine same_snd (by assumption) ?_
    | with_reducible refine same_snd2 (by assumption) ?_
    | with_reducible assumption
    | exact sub_sub (by decide) hM
    | split
    | dsimp only

theorem State.headerIn_same {M : Nat} {s0 s : State} (hk : Same M s0 s) (hM : 283467841544 ||| M = M) (p : Nat) :
    Same M s0 (State.headerIn s p) := by
  unfold State.headerIn
  try dsimp only
  repeat' first
    | intro _
    | with_reducible exact hk
    | with_reducible apply State.portFail_same
    | with_reducible apply State.dropPkt_same
    | with_reducible apply State.setPort_same
    | with_reducible apply ite_same
    | with_reducible refine same_snd (by assumption) ?_
    | with_reducible refine same_snd2 (by assumption) ?_
    | with_reducible assumption
    | exact sub_sub (by decide) hM
    | split
    | dsimp only

theorem State.finishAsm_same {M : Nat} {s0 s : State} (hk : Same M s0 s) (hM : 274877906944 ||| M = M) (p : Nat) :
    Same M s0 (State.finishAsm s p) := by
  unfold State.finishAsm
  try dsimp only
  repeat' first
    | intro _
    | with_reducible exact hk
    | with_reducible apply State.freeRx_same
    | with_reducible apply State.setPort_same
    | with_reducible apply ite_same
    | with_reducible refine same_snd (by assumption) ?_
    | with_reducible refine same_snd2 (by assumption) ?_
    | with_reducible assumption
    | exact sub_sub (by decide) hM
    | split
    | dsimp only

theorem State.slotIn_same {M : Nat} {s0 s : State} (hk : Same M s0 s) (hM : 283467841544 ||| M = M) (p : Nat) (bs :
    List Byte) :
    Same M s0 (State.slotIn s p bs) := by
  unfold State.slotIn
  try dsimp only
  repeat' first
    | intro _
    | with_reducible exact hk
    | with_reducible apply State.portFail_same
    | with_reducible apply State.dropPkt_same
    | with_reducible apply State.finishAsm_same
    | with_reducible apply State.forwardSlot_same
    | with_reducible apply State.setPort_same
    | with_reducible apply State.releaseLast_same
    | with_reducible apply State.headerIn_same
    | with_reducible apply ite_same
    | with_reducible refine same_snd (by assumption) ?_
    | with_reducible refine same_snd2 (by assumption) ?_
    | with_reducible assumption
    | exact sub_sub (by decide) hM
    | split
    | dsimp only

theorem State.flitArrives_same {M : Nat} {s0 s : State} (hk : Same M s0 s) (hM : 274877906952 ||| M = M) (p : Nat) (x
    : FlitIn) :
    Same M s0 (State.flitArrives s p x) := by
  unfold State.flitArrives
  try dsimp only
  repeat' first
    | intro _
    | with_reducible exact hk
    | with_reducible apply State.setPort_same
    | with_reducible apply State.bump_same
    | with_reducible apply ite_same
    | with_reducible refine same_snd (by assumption) ?_
    | with_reducible refine same_snd2 (by assumption) ?_
    | with_reducible assumption
    | exact sub_sub (by decide) hM
    | split
    | dsimp only

theorem recvFlit_same {M : Nat} {s0 s : State} (hk : Same M s0 s) (hM : 283467841544 ||| M = M) (p : Nat) (k : Nat) (x
    : FlitIn) (take : State → State) (htake : ∀ t, Same M s0 t → Same M s0 (take t)) :
    Same M s0 (recvFlit p k x take s) := by
  unfold recvFlit
  try dsimp only
  repeat' first
    | intro _
    | with_reducible exact hk
    | with_reducible apply State.portFail_same
    | with_reducible apply State.flitArrives_same
    | with_reducible apply State.setPort_same
    | with_reducible apply State.settleKeys_same
    | with_reducible apply htake
    | with_reducible apply ite_same
    | with_reducible refine same_snd (by assumption) ?_
    | with_reducible refine same_snd2 (by assumption) ?_
    | with_reducible assumption
    | exact sub_sub (by decide) hM
    | split
    | dsimp only

theorem State.takeData_same {M : Nat} {s0 s : State} (hk : Same M s0 s) (hM : 283467841544 ||| M = M) (p : Nat) (x :
    FlitIn) :
    Same M s0 (State.takeData s p x) := by
  unfold State.takeData
  try dsimp only
  repeat' first
    | intro _
    | with_reducible exact hk
    | with_reducible apply State.slotIn_same
    | with_reducible apply State.bump64_same
    | with_reducible apply State.setPort_same
    | with_reducible refine foldl_same ?_ ?_
    | with_reducible apply ite_same
    | with_reducible refine same_snd (by assumption) ?_
    | with_reducible refine same_snd2 (by assumption) ?_
    | with_reducible assumption
    | exact sub_sub (by decide) hM
    | split
    | dsimp only

theorem State.takeNak_same {M : Nat} {s0 s : State} (hk : Same M s0 s) (hM : 283467841544 ||| M = M) (p : Nat) (x : FlitIn) :
    Same M s0 (State.takeNak s p x) := by
  unfold State.takeNak
  try dsimp only
  repeat' first
    | intro _
    | with_reducible exact hk
    | with_reducible apply State.setPort_same
    | with_reducible apply State.enterRetrain_same
    | with_reducible apply ite_same
    | with_reducible refine same_snd (by assumption) ?_
    | with_reducible refine same_snd2 (by assumption) ?_
    | with_reducible assumption
    | exact sub_sub (by decide) hM
    | split
    | dsimp only

theorem State.routeHead_same {M : Nat} {s0 s : State} (hk : Same M s0 s) (hM : 833223655432 ||| M = M) (p : Nat) (ns : Nat) :
    Same M s0 (State.routeHead s p ns) := by
  unfold State.routeHead
  try dsimp only
  repeat' first
    | intro _
    | with_reducible exact hk
    | with_reducible apply State.pushOut_same
    | with_reducible apply State.dropPkt_same
    | with_reducible apply State.freeRx_same
    | with_reducible apply State.setPort_same
    | with_reducible apply ite_same
    | with_reducible refine same_snd (by assumption) ?_
    | with_reducible refine same_snd2 (by assumption) ?_
    | with_reducible assumption
    | exact sub_sub (by decide) hM
    | split
    | dsimp only
    | with_reducible apply same_u549755813888

theorem State.countAbort_same {M : Nat} {s0 s : State} (hk : Same M s0 s) (hM : 8589934600 ||| M = M) (p : Nat) :
    Same M s0 (State.countAbort s p) := by
  unfold State.countAbort
  try dsimp only
  repeat' first
    | intro _
    | with_reducible exact hk
    | with_reducible apply State.raiseSrc_same
    | with_reducible apply State.bump_same
    | with_reducible apply ite_same
    | with_reducible refine same_snd (by assumption) ?_
    | with_reducible refine same_snd2 (by assumption) ?_
    | with_reducible assumption
    | exact sub_sub (by decide) hM
    | split
    | dsimp only

theorem State.truncHead_same {M : Nat} {s0 s : State} (hk : Same M s0 s) (hM : 283467841544 ||| M = M) (p : Nat) (ns :
    Nat) (x : Pkt) :
    Same M s0 (State.truncHead s p ns x) := by
  unfold State.truncHead
  try dsimp only
  repeat' first
    | intro _
    | with_reducible exact hk
    | with_reducible apply State.pushOut_same
    | with_reducible apply State.dropPkt_same
    | with_reducible apply State.freeRx_same
    | with_reducible apply ite_same
    | with_reducible refine same_snd (by assumption) ?_
    | with_reducible refine same_snd2 (by assumption) ?_
    | with_reducible assumption
    | exact sub_sub (by decide) hM
    | split
    | dsimp only

theorem State.emit_same {M : Nat} {s0 s : State} (hk : Same M s0 s) (hM : 274877906944 ||| M = M) (p : Nat) (hdr :
    Nat) (body : List Byte) :
    Same M s0 (State.emit s p hdr body) := by
  unfold State.emit
  try dsimp only
  repeat' first
    | intro _
    | with_reducible exact hk
    | with_reducible apply State.setPort_same
    | with_reducible apply ite_same
    | with_reducible refine same_snd (by assumption) ?_
    | with_reducible refine same_snd2 (by assumption) ?_
    | with_reducible assumption
    | exact sub_sub (by decide) hM
    | split
    | dsimp only

theorem State.emitData_same {M : Nat} {s0 s : State} (hk : Same M s0 s) (hM : 274877906952 ||| M = M) (p : Nat) (body
    : List Byte) (cbuf : Nat) (cc : Nat) :
    Same M s0 (State.emitData s p body cbuf cc) := by
  unfold State.emitData
  try dsimp only
  repeat' first
    | intro _
    | with_reducible exact hk
    | with_reducible apply State.emit_same
    | with_reducible apply State.bump64_same
    | with_reducible apply State.setPort_same
    | with_reducible apply ite_same
    | with_reducible refine same_snd (by assumption) ?_
    | with_reducible refine same_snd2 (by assumption) ?_
    | with_reducible assumption
    | exact sub_sub (by decide) hM
    | split
    | dsimp only

theorem State.newFlit_same {M : Nat} {s0 s : State} (hk : Same M s0 s) (hM : 283467841544 ||| M = M) (p : Nat) :
    Same M s0 (State.newFlit s p) := by
  unfold State.newFlit
  try dsimp only
  repeat' first
    | intro _
    | with_reducible exact hk
    | with_reducible apply State.emit_same
    | with_reducible apply State.freeRx_same
    | with_reducible apply State.countAbort_same
    | with_reducible apply State.setPort_same
    | with_reducible apply State.emitData_same
    | with_reducible refine foldl_same ?_ ?_
    | with_reducible apply ite_same
    | with_reducible refine same_snd (by assumption) ?_
    | with_reducible refine same_snd2 (by assumption) ?_
    | with_reducible assumption
    | exact sub_sub (by decide) hM
    | split
    | dsimp only

theorem State.sendKeyon_same {M : Nat} {s0 s : State} (hk : Same M s0 s) (hM : 274877906952 ||| M = M) (p : Nat) (n : Nat) :
    Same M s0 (State.sendKeyon s p n) := by
  unfold State.sendKeyon
  try dsimp only
  repeat' first
    | intro _
    | with_reducible exact hk
    | with_reducible apply State.emit_same
    | with_reducible apply State.setPort_same
    | with_reducible apply State.settleKeys_same
    | with_reducible apply ite_same
    | with_reducible refine same_snd (by assumption) ?_
    | with_reducible refine same_snd2 (by assumption) ?_
    | with_reducible assumption
    | exact sub_sub (by decide) hM
    | split
    | dsimp only

theorem State.resendFlit_same {M : Nat} {s0 s : State} (hk : Same M s0 s) (hM : 283467841544 ||| M = M) (p : Nat) (r :
    RFlit) :
    Same M s0 (State.resendFlit s p r) := by
  unfold State.resendFlit
  try dsimp only
  repeat' first
    | intro _
    | with_reducible exact hk
    | with_reducible apply State.emit_same
    | with_reducible apply State.raiseSrc_same
    | with_reducible apply State.bump64_same
    | with_reducible apply State.setPort_same
    | with_reducible apply State.bump_same
    | with_reducible apply ite_same
    | with_reducible refine same_snd (by assumption) ?_
    | with_reducible refine same_snd2 (by assumption) ?_
    | with_reducible assumption
    | exact sub_sub (by decide) hM
    | split
    | dsimp only

theorem State.sendFresh_same {M : Nat} {s0 s : State} (hk : Same M s0 s) (hM : 283467841544 ||| M = M) (p : Nat) :
    Same M s0 (State.sendFresh s p) := by
  unfold State.sendFresh
  try dsimp only
  repeat' first
    | intro _
    | with_reducible exact hk
    | with_reducible apply State.newFlit_same
    | with_reducible apply State.emit_same
    | with_reducible apply State.sendKeyon_same
    | with_reducible apply State.setPort_same
    | with_reducible apply State.emitData_same
    | with_reducible apply ite_same
    | with_reducible refine same_snd (by assumption) ?_
    | with_reducible refine same_snd2 (by assumption) ?_
    | with_reducible assumption
    | exact sub_sub (by decide) hM
    | split
    | dsimp only

theorem State.enterDetect_same {M : Nat} {s0 s : State} (hk : Same M s0 s) (hM : 274877906952 ||| M = M) (p : Nat) :
    Same M s0 (State.enterDetect s p) := by
  unfold State.enterDetect
  try dsimp only
  repeat' first
    | intro _
    | with_reducible exact hk
    | with_reducible apply State.goPhase_same
    | with_reducible apply State.startPll_same
    | with_reducible apply ite_same
    | with_reducible refine same_snd (by assumption) ?_
    | with_reducible refine same_snd2 (by assumption) ?_
    | with_reducible assumption
    | exact sub_sub (by decide) hM
    | split
    | dsimp only

theorem State.tryDetect_same {M : Nat} {s0 s : State} (hk : Same M s0 s) (hM : 274877906952 ||| M = M) (p : Nat) :
    Same M s0 (State.tryDetect s p) := by
  unfold State.tryDetect
  try dsimp only
  repeat' first
    | intro _
    | with_reducible exact hk
    | with_reducible apply State.enterDetect_same
    | with_reducible apply ite_same
    | with_reducible refine same_snd (by assumption) ?_
    | with_reducible refine same_snd2 (by assumption) ?_
    | with_reducible assumption
    | exact sub_sub (by decide) hM
    | split
    | dsimp only

theorem State.linkSend_same {M : Nat} {s0 s : State} (hk : Same M s0 s) (hM : 274877906944 ||| M = M) (p : Nat) (x : Pkt) :
    Same M s0 (State.linkSend s p x) := by
  unfold State.linkSend
  try dsimp only
  repeat' first
    | intro _
    | with_reducible exact hk
    | with_reducible apply State.setPort_same
    | with_reducible apply ite_same
    | with_reducible refine same_snd (by assumption) ?_
    | with_reducible refine same_snd2 (by assumption) ?_
    | with_reducible assumption
    | exact sub_sub (by decide) hM
    | split
    | dsimp only

theorem State.enterIdent_same {M : Nat} {s0 s : State} (hk : Same M s0 s) (hM : 274877906952 ||| M = M) (p : Nat) :
    Same M s0 (State.enterIdent s p) := by
  unfold State.enterIdent
  try dsimp only
  repeat' first
    | intro _
    | with_reducible exact hk
    | with_reducible apply State.goPhase_same
    | with_reducible apply State.linkSend_same
    | with_reducible apply State.setPort_same
    | with_reducible apply ite_same
    | with_reducible refine same_snd (by assumption) ?_
    | with_reducible refine same_snd2 (by assumption) ?_
    | with_reducible assumption
    | exact sub_sub (by decide) hM
    | split
    | dsimp only

theorem State.kexSend_same {M : Nat} {s0 s : State} (hk : Same M s0 s) (hM : 274877906944 ||| M = M) (p : Nat) (msg :
    Nat) (bytes : List Byte) :
    Same M s0 (State.kexSend s p msg bytes) := by
  unfold State.kexSend
  try dsimp only
  repeat' first
    | intro _
    | with_reducible exact hk
    | with_reducible apply State.linkSend_same
    | with_reducible refine foldl_same ?_ ?_
    | with_reducible apply ite_same
    | with_reducible refine same_snd (by assumption) ?_
    | with_reducible refine same_snd2 (by assumption) ?_
    | with_reducible assumption
    | exact sub_sub (by decide) hM
    | split
    | dsimp only

theorem State.takeCtl_same {M : Nat} {s0 s t : State} (hk : Same M s0 s) (hM : 274877906944 ||| M = M) (p k : Nat) {x : Pkt}
    (h : s.takeCtl p k = some (x, t)) : Same M s0 t := by
  unfold State.takeCtl at h
  dsimp only at h
  split at h
  · split at h
    · cases h
      exact State.setPort_same hk (sub_sub (by decide) hM) _ _
    · cases h
  · cases h

theorem State.kexDone_same {M : Nat} {s0 s : State} (hk : Same M s0 s) (hM : 274877906944 ||| M = M) (p : Nat) :
    Same M s0 (State.kexDone s p) := by
  unfold State.kexDone
  try dsimp only
  repeat' first
    | intro _
    | with_reducible exact hk
    | with_reducible apply State.setPort_same
    | with_reducible apply ite_same
    | with_reducible refine same_snd (by assumption) ?_
    | with_reducible refine same_snd2 (by assumption) ?_
    | with_reducible assumption
    | exact sub_sub (by decide) hM
    | split
    | dsimp only

theorem State.setRegion_same {M : Nat} {s0 s : State} (hk : Same M s0 s) (hM : 1073741824 ||| M = M) (i : Nat) (r : Region) :
    Same M s0 (State.setRegion s i r) := by
  unfold State.setRegion
  try dsimp only
  repeat' first
    | intro _
    | with_reducible exact hk
    | with_reducible apply ite_same
    | with_reducible refine same_snd (by assumption) ?_
    | with_reducible refine same_snd2 (by assumption) ?_
    | with_reducible assumption
    | exact sub_sub (by decide) hM
    | split
    | dsimp only
    | with_reducible apply same_u1073741824

theorem State.reportUe_same {M : Nat} {s0 s : State} (hk : Same M s0 s) (hM : 8589934600 ||| M = M) (w : Consumer) (a
    : Nat) :
    Same M s0 (State.reportUe s w a) := by
  unfold State.reportUe
  try dsimp only
  repeat' first
    | intro _
    | with_reducible exact hk
    | with_reducible apply State.wf_same
    | with_reducible apply State.bump_same
    | with_reducible apply State.blockCause_same
    | with_reducible apply State.raiseFor_same
    | with_reducible apply ite_same
    | with_reducible refine same_snd (by assumption) ?_
    | with_reducible refine same_snd2 (by assumption) ?_
    | with_reducible assumption
    | exact sub_sub (by decide) hM
    | split
    | dsimp only

theorem State.wordsLost_same {M : Nat} {s0 s : State} (hk : Same M s0 s) (hM : 8589934600 ||| M = M) (page b c : Nat)
    (lost : List Nat)
    (zero : State → Nat → State) (hz : ∀ t x, Same M s0 t → Same M s0 (zero t x)) :
    Same M s0 (s.wordsLost page b c lost zero) :=
  ite_same hk (State.blockCause_same (State.raiseFor_same (foldl_same hz hk) (sub_sub (by decide) hM) _ _ _)
    (sub_sub (by decide) hM) _ _)

theorem State.seedLost_same {M : Nat} {s0 s : State} (hk : Same M s0 s) (hM : 8590983176 ||| M = M) (f : Nat) (n :
    Nat) (c : Nat) (l : List (Nat × Nat)) (lost : List Nat) :
    Same M s0 (State.seedLost s f n c l lost) := by
  unfold State.seedLost
  try dsimp only
  repeat' first
    | intro _
    | with_reducible exact hk
    | with_reducible apply State.seedWrite_same
    | with_reducible apply State.wordsLost_same
    | with_reducible apply ite_same
    | with_reducible refine same_snd (by assumption) ?_
    | with_reducible refine same_snd2 (by assumption) ?_
    | with_reducible assumption
    | exact sub_sub (by decide) hM
    | split
    | dsimp only

theorem State.sheafLost_same {M : Nat} {s0 s : State} (hk : Same M s0 s) (hM : 8590458888 ||| M = M) (f : Nat) (c :
    Nat) (l : List (Nat × Nat)) (lost : List Nat) :
    Same M s0 (State.sheafLost s f c l lost) := by
  unfold State.sheafLost
  try dsimp only
  repeat' first
    | intro _
    | with_reducible exact hk
    | with_reducible apply State.wordsLost_same
    | with_reducible apply State.sheafWrite_same
    | with_reducible apply ite_same
    | with_reducible refine same_snd (by assumption) ?_
    | with_reducible refine same_snd2 (by assumption) ?_
    | with_reducible assumption
    | exact sub_sub (by decide) hM
    | split
    | dsimp only

theorem State.readWord_same {M : Nat} {s0 s : State} (hk : Same M s0 s) (hM : 8589934600 ||| M = M) (w : Consumer) (a
    : Nat) (n : Nat) :
    Same M s0 (State.readWord s w a n).2 := by
  unfold State.readWord
  try dsimp only
  repeat' first
    | intro _
    | with_reducible exact hk
    | with_reducible apply State.reportUe_same
    | with_reducible apply State.bump64_same
    | with_reducible apply ite_same
    | with_reducible refine same_snd (by assumption) ?_
    | with_reducible refine same_snd2 (by assumption) ?_
    | with_reducible assumption
    | exact sub_sub (by decide) hM
    | split
    | dsimp only

theorem State.readAll_same {M : Nat} {s0 : State} (hM : 8589934600 ||| M = M) (w : Consumer) (l : List (Nat × Nat)) :
    ∀ (acc : List Byte × State), Same M s0 acc.2 →
    Same M s0 (l.foldl (fun (acc : List Byte × State) (e : Nat × Nat) =>
      let (bs, s) := acc.2.readWord w (acc.2.mapAddr e.1) e.2
      (acc.1 ++ bs, s)) acc).2 := by
  induction l with
  | nil => exact fun _ h => h
  | cons e l ih => exact fun acc h => ih _ (State.readWord_same h hM w _ _)

theorem State.hbmRead_same {M : Nat} {s0 s : State} (hk : Same M s0 s) (hM : 8589934600 ||| M = M) (w : Consumer) (a n
    : Nat) :
    Same M s0 (s.hbmRead w a n).2 :=
  State.readAll_same hM w _ _ hk

theorem State.fallowWritten_same {M : Nat} {s0 s : State} (hk : Same M s0 s) (hM : 836444880904 ||| M = M) (w : Win)
    (a : Nat) (n : Nat) :
    Same M s0 (State.fallowWritten s w a n) := by
  unfold State.fallowWritten
  try dsimp only
  repeat' first
    | intro _
    | with_reducible exact hk
    | with_reducible apply State.wf_same
    | with_reducible apply State.setRegion_same
    | with_reducible apply State.sendPkt_same
    | with_reducible apply ite_same
    | with_reducible refine same_snd (by assumption) ?_
    | with_reducible refine same_snd2 (by assumption) ?_
    | with_reducible assumption
    | exact sub_sub (by decide) hM
    | split
    | dsimp only
    | with_reducible apply same_u2147483648

theorem State.writeWord_same {M : Nat} {s0 s : State} (hk : Same M s0 s) (hM : 836444979208 ||| M = M) (w : Consumer)
    (a : Nat) (bs : List Byte) :
    Same M s0 (State.writeWord s w a bs) := by
  unfold State.writeWord
  try dsimp only
  repeat' first
    | intro _
    | with_reducible exact hk
    | with_reducible apply State.reportUe_same
    | with_reducible apply State.fallowWritten_same
    | with_reducible apply State.bump64_same
    | with_reducible apply ite_same
    | with_reducible refine same_snd (by assumption) ?_
    | with_reducible refine same_snd2 (by assumption) ?_
    | with_reducible assumption
    | exact sub_sub (by decide) hM
    | split
    | dsimp only
    | with_reducible apply same_u98304

theorem State.hbmWrite_same {M : Nat} {s0 s : State} (hk : Same M s0 s) (hM : 836444979208 ||| M = M) (w : Consumer)
    (a : Nat) (bs : List Byte) :
    Same M s0 (State.hbmWrite s w a bs) := by
  unfold State.hbmWrite
  try dsimp only
  repeat' first
    | intro _
    | with_reducible exact hk
    | with_reducible apply State.writeWord_same
    | with_reducible refine foldl_same ?_ ?_
    | with_reducible apply ite_same
    | with_reducible refine same_snd (by assumption) ?_
    | with_reducible refine same_snd2 (by assumption) ?_
    | with_reducible assumption
    | exact sub_sub (by decide) hM
    | split
    | dsimp only

theorem State.undefGranules_same {M : Nat} {s0 s : State} (hk : Same M s0 s) (hM : 98306 ||| M = M) (f : Nat) (gs :
    List Nat) :
    Same M s0 (State.undefGranules s f gs) := by
  unfold State.undefGranules
  try dsimp only
  repeat' first
    | intro _
    | with_reducible exact hk
    | with_reducible apply State.fresh_same
    | with_reducible refine foldl_same ?_ ?_
    | with_reducible apply ite_same
    | with_reducible refine same_snd (by assumption) ?_
    | with_reducible refine same_snd2 (by assumption) ?_
    | with_reducible assumption
    | exact sub_sub (by decide) hM
    | split
    | dsimp only
    | with_reducible apply same_u98304

theorem State.clearGranule_same {M : Nat} {s0 s : State} (hk : Same M s0 s) (hM : 98312 ||| M = M) (f : Nat) (g : Nat) :
    Same M s0 (State.clearGranule s f g) := by
  unfold State.clearGranule
  try dsimp only
  repeat' first
    | intro _
    | with_reducible exact hk
    | with_reducible apply State.bump64_same
    | with_reducible apply ite_same
    | with_reducible refine same_snd (by assumption) ?_
    | with_reducible refine same_snd2 (by assumption) ?_
    | with_reducible assumption
    | exact sub_sub (by decide) hM
    | split
    | dsimp only
    | with_reducible apply same_u98304

theorem State.setEng_same {M : Nat} {s0 s : State} (hk : Same M s0 s) (hM : 1099511627776 ||| M = M) (f : Nat) (x : ColEng) :
    Same M s0 (State.setEng s f x) := by
  unfold State.setEng
  try dsimp only
  repeat' first
    | intro _
    | with_reducible exact hk
    | with_reducible apply ite_same
    | with_reducible refine same_snd (by assumption) ?_
    | with_reducible refine same_snd2 (by assumption) ?_
    | with_reducible assumption
    | exact sub_sub (by decide) hM
    | split
    | dsimp only
    | with_reducible apply same_u1099511627776

theorem State.setSt_same {M : Nat} {s0 s : State} (hk : Same M s0 s) (hM : 8388608 ||| M = M) (p : At) (x : StreamSt) :
    Same M s0 (State.setSt s p x) := by
  unfold State.setSt
  try dsimp only
  repeat' first
    | intro _
    | with_reducible exact hk
    | with_reducible apply State.setStrm_same
    | with_reducible apply ite_same
    | with_reducible refine same_snd (by assumption) ?_
    | with_reducible refine same_snd2 (by assumption) ?_
    | with_reducible assumption
    | exact sub_sub (by decide) hM
    | split
    | dsimp only

theorem State.haltStream_same {M : Nat} {s0 s : State} (hk : Same M s0 s) (hM : 8598323208 ||| M = M) (p : At) (cause
    : Nat) (opcode : Nat) :
    Same M s0 (State.haltStream s p cause opcode) := by
  unfold State.haltStream
  try dsimp only
  repeat' first
    | intro _
    | with_reducible exact hk
    | with_reducible apply State.wf_same
    | with_reducible apply State.blockCause_same
    | with_reducible apply State.raiseFor_same
    | with_reducible apply State.setSt_same
    | with_reducible apply ite_same
    | with_reducible refine same_snd (by assumption) ?_
    | with_reducible refine same_snd2 (by assumption) ?_
    | with_reducible assumption
    | exact sub_sub (by decide) hM
    | split
    | dsimp only

theorem State.waitStream_same {M : Nat} {s0 s : State} (hk : Same M s0 s) (hM : 8388608 ||| M = M) (p : At) (k :
    WaitKind) (sem : Nat) :
    Same M s0 (State.waitStream s p k sem) := by
  unfold State.waitStream
  try dsimp only
  repeat' first
    | intro _
    | with_reducible exact hk
    | with_reducible apply State.setSt_same
    | with_reducible apply ite_same
    | with_reducible refine same_snd (by assumption) ?_
    | with_reducible refine same_snd2 (by assumption) ?_
    | with_reducible assumption
    | exact sub_sub (by decide) hM
    | split
    | dsimp only

theorem State.settleHead_same {M : Nat} {s0 s : State} (hk : Same M s0 s) (hM : 8598323208 ||| M = M) (p : At) :
    Same M s0 (State.settleHead s p) := by
  unfold State.settleHead
  try dsimp only
  repeat' first
    | intro _
    | with_reducible exact hk
    | with_reducible apply State.haltStream_same
    | with_reducible apply ite_same
    | with_reducible refine same_snd (by assumption) ?_
    | with_reducible refine same_snd2 (by assumption) ?_
    | with_reducible assumption
    | exact sub_sub (by decide) hM
    | split
    | dsimp only

theorem State.advance_same {M : Nat} {s0 s : State} (hk : Same M s0 s) (hM : 8598323208 ||| M = M) (p : At) :
    Same M s0 (State.advance s p) := by
  unfold State.advance
  try dsimp only
  repeat' first
    | intro _
    | with_reducible exact hk
    | with_reducible apply State.bump_same
    | with_reducible apply State.settleHead_same
    | with_reducible apply State.setSt_same
    | with_reducible apply ite_same
    | with_reducible refine same_snd (by assumption) ?_
    | with_reducible refine same_snd2 (by assumption) ?_
    | with_reducible assumption
    | exact sub_sub (by decide) hM
    | split
    | dsimp only

theorem issue_same {M : Nat} {s0 s : State} (hk : Same M s0 s) (hM : 8598323208 ||| M = M) (p : At) (w : InstrWord)
    (wait : Option WaitKind) (sem : Nat) (cause : Option Nat) (eff : State → State) (heff : ∀ t, Same M s0 t → Same M s0
    (eff t)) :
    Same M s0 (issue s p w wait sem cause eff) := by
  unfold issue
  try dsimp only
  repeat' first
    | intro _
    | with_reducible exact hk
    | with_reducible apply State.waitStream_same
    | with_reducible apply State.haltStream_same
    | with_reducible apply State.advance_same
    | with_reducible apply heff
    | with_reducible apply ite_same
    | with_reducible refine same_snd (by assumption) ?_
    | with_reducible refine same_snd2 (by assumption) ?_
    | with_reducible assumption
    | exact sub_sub (by decide) hM
    | split
    | dsimp only

theorem State.wakeArrays_same {M : Nat} {s0 s : State} (hk : Same M s0 s) (hM : 281474976710656 ||| M = M) (f : Nat)
    (n : Nat) (mask : Nat) :
    Same M s0 (State.wakeArrays s f n mask) := by
  unfold State.wakeArrays
  try dsimp only
  repeat' first
    | intro _
    | with_reducible exact hk
    | with_reducible apply ite_same
    | with_reducible refine same_snd (by assumption) ?_
    | with_reducible refine same_snd2 (by assumption) ?_
    | with_reducible assumption
    | exact sub_sub (by decide) hM
    | split
    | dsimp only
    | with_reducible apply same_u281474976710656

theorem State.noteMma_same {M : Nat} {s0 s : State} (hk : Same M s0 s) (hM : 70368744177664 ||| M = M) (f : Nat) (fmt
    : Nat) (thin : Bool) :
    Same M s0 (State.noteMma s f fmt thin) := by
  unfold State.noteMma
  try dsimp only
  repeat' first
    | intro _
    | with_reducible exact hk
    | with_reducible apply ite_same
    | with_reducible refine same_snd (by assumption) ?_
    | with_reducible refine same_snd2 (by assumption) ?_
    | with_reducible assumption
    | exact sub_sub (by decide) hM
    | split
    | dsimp only
    | with_reducible apply same_u70368744177664

theorem State.addTotals_same {M : Nat} {s0 s : State} (hk : Same M s0 s) (hM : 536870912 ||| M = M) (c : Nat) (k : Counts) :
    Same M s0 (State.addTotals s c k) := by
  unfold State.addTotals
  try dsimp only
  repeat' first
    | intro _
    | with_reducible exact hk
    | with_reducible apply State.setCtx_same
    | with_reducible apply ite_same
    | with_reducible refine same_snd (by assumption) ?_
    | with_reducible refine same_snd2 (by assumption) ?_
    | with_reducible assumption
    | exact sub_sub (by decide) hM
    | split
    | dsimp only

theorem State.reopenReport_same {M : Nat} {s0 s : State} (hk : Same M s0 s) (hM : 536870912 ||| M = M) (c : Nat) :
    Same M s0 (State.reopenReport s c) := by
  unfold State.reopenReport
  try dsimp only
  repeat' first
    | intro _
    | with_reducible exact hk
    | with_reducible apply State.setCtx_same
    | with_reducible apply ite_same
    | with_reducible refine same_snd (by assumption) ?_
    | with_reducible refine same_snd2 (by assumption) ?_
    | with_reducible assumption
    | exact sub_sub (by decide) hM
    | split
    | dsimp only

theorem State.addGradNf_same {M : Nat} {s0 s : State} (hk : Same M s0 s) (hM : 536870912 ||| M = M) (c : Nat) (k : Counts) :
    Same M s0 (State.addGradNf s c k) := by
  unfold State.addGradNf
  try dsimp only
  repeat' first
    | intro _
    | with_reducible exact hk
    | with_reducible apply State.setCtx_same
    | with_reducible apply ite_same
    | with_reducible refine same_snd (by assumption) ?_
    | with_reducible refine same_snd2 (by assumption) ?_
    | with_reducible assumption
    | exact sub_sub (by decide) hM
    | split
    | dsimp only

theorem State.sample_same {M : Nat} {s0 s : State} (hk : Same M s0 s) (hM : 8388608 ||| M = M) (p : At) :
    Same M s0 (State.sample s p).2 := by
  unfold State.sample
  try dsimp only
  repeat' first
    | intro _
    | with_reducible exact hk
    | with_reducible apply State.setSt_same
    | with_reducible apply ite_same
    | with_reducible refine same_snd (by assumption) ?_
    | with_reducible refine same_snd2 (by assumption) ?_
    | with_reducible assumption
    | exact sub_sub (by decide) hM
    | split
    | dsimp only

theorem State.shadowSlots_same {M : Nat} {s0 s : State} (hk : Same M s0 s) (hM : 4194304 ||| M = M) (p : At) (slot :
    Nat) (n : Nat) (e : Option Nat) :
    Same M s0 (State.shadowSlots s p slot n e) := by
  unfold State.shadowSlots
  try dsimp only
  repeat' first
    | intro _
    | with_reducible exact hk
    | with_reducible apply State.setFur_same
    | with_reducible refine foldl_same ?_ ?_
    | with_reducible apply ite_same
    | with_reducible refine same_snd (by assumption) ?_
    | with_reducible refine same_snd2 (by assumption) ?_
    | with_reducible assumption
    | exact sub_sub (by decide) hM
    | split
    | dsimp only

theorem State.compareLater_same {M : Nat} {s0 s : State} (hk : Same M s0 s) (hM : 33554432 ||| M = M) (p : At) (e :
    Option Nat) (slot : Nat) (opcode : Nat) (coord : Nat) :
    Same M s0 (State.compareLater s p e slot opcode coord) := by
  unfold State.compareLater
  try dsimp only
  repeat' first
    | intro _
    | with_reducible exact hk
    | with_reducible apply ite_same
    | with_reducible refine same_snd (by assumption) ?_
    | with_reducible refine same_snd2 (by assumption) ?_
    | with_reducible assumption
    | exact sub_sub (by decide) hM
    | split
    | dsimp only
    | with_reducible apply same_u33554432

theorem State.sampleVop_same {M : Nat} {s0 s : State} (hk : Same M s0 s) (hM : 41943040 ||| M = M) (p : At) :
    Same M s0 (State.sampleVop s p) := by
  unfold State.sampleVop
  try dsimp only
  repeat' first
    | intro _
    | with_reducible exact hk
    | with_reducible apply State.compareLater_same
    | with_reducible apply State.sample_same
    | with_reducible apply ite_same
    | with_reducible refine same_snd (by assumption) ?_
    | with_reducible refine same_snd2 (by assumption) ?_
    | with_reducible assumption
    | exact sub_sub (by decide) hM
    | split
    | dsimp only

theorem State.bindActivation_same {M : Nat} {s0 s : State} (hk : Same M s0 s) (hM : 8388608 ||| M = M) (p : At) (b :
    Binding) :
    Same M s0 (State.bindActivation s p b) := by
  unfold State.bindActivation
  try dsimp only
  repeat' first
    | intro _
    | with_reducible exact hk
    | with_reducible apply State.setSt_same
    | with_reducible apply ite_same
    | with_reducible refine same_snd (by assumption) ?_
    | with_reducible refine same_snd2 (by assumption) ?_
    | with_reducible assumption
    | exact sub_sub (by decide) hM
    | split
    | dsimp only

theorem State.bindWeight_same {M : Nat} {s0 s : State} (hk : Same M s0 s) (hM : 8388608 ||| M = M) (p : At) (j : Nat)
    (b : Binding) :
    Same M s0 (State.bindWeight s p j b) := by
  unfold State.bindWeight
  try dsimp only
  repeat' first
    | intro _
    | with_reducible exact hk
    | with_reducible apply State.setSt_same
    | with_reducible apply ite_same
    | with_reducible refine same_snd (by assumption) ?_
    | with_reducible refine same_snd2 (by assumption) ?_
    | with_reducible assumption
    | exact sub_sub (by decide) hM
    | split
    | dsimp only

theorem issueLdw_same {M : Nat} {s0 s : State} (hk : Same M s0 s) (hM : 8598323208 ||| M = M) (i : StreamId) (w :
    InstrWord) :
    Same M s0 (issueLdw i w s) := by
  unfold issueLdw
  try dsimp only
  repeat' first
    | intro _
    | with_reducible exact hk
    | with_reducible apply State.bindWeight_same
    | with_reducible apply issue_same
    | with_reducible apply ite_same
    | with_reducible refine same_snd (by assumption) ?_
    | with_reducible refine same_snd2 (by assumption) ?_
    | with_reducible assumption
    | exact sub_sub (by decide) hM
    | split
    | dsimp only

theorem issueLda_same {M : Nat} {s0 s : State} (hk : Same M s0 s) (hM : 8598323208 ||| M = M) (i : StreamId) (w :
    InstrWord) :
    Same M s0 (issueLda i w s) := by
  unfold issueLda
  try dsimp only
  repeat' first
    | intro _
    | with_reducible exact hk
    | with_reducible apply State.bindActivation_same
    | with_reducible apply issue_same
    | with_reducible apply ite_same
    | with_reducible refine same_snd (by assumption) ?_
    | with_reducible refine same_snd2 (by assumption) ?_
    | with_reducible assumption
    | exact sub_sub (by decide) hM
    | split
    | dsimp only

theorem issueTrn_same {M : Nat} {s0 s : State} (hk : Same M s0 s) (hM : 8598323208 ||| M = M) (i : StreamId) (w :
    InstrWord) :
    Same M s0 (issueTrn i w s) := by
  unfold issueTrn
  try dsimp only
  repeat' first
    | intro _
    | with_reducible exact hk
    | with_reducible apply State.bindWeight_same
    | with_reducible apply State.bindActivation_same
    | with_reducible apply issue_same
    | with_reducible apply ite_same
    | with_reducible refine same_snd (by assumption) ?_
    | with_reducible refine same_snd2 (by assumption) ?_
    | with_reducible assumption
    | exact sub_sub (by decide) hM
    | split
    | dsimp only

theorem State.startMma_same {M : Nat} {s0 s : State} (hk : Same M s0 s) (hM : 4194304 ||| M = M) (p : At) (x :
    MmaFields) (o : MmaOp) :
    Same M s0 (State.startMma s p x o) := by
  unfold State.startMma
  try dsimp only
  repeat' first
    | intro _
    | with_reducible exact hk
    | with_reducible apply State.setFur_same
    | with_reducible refine foldl_same ?_ ?_
    | with_reducible apply ite_same
    | with_reducible refine same_snd (by assumption) ?_
    | with_reducible refine same_snd2 (by assumption) ?_
    | with_reducible assumption
    | exact sub_sub (by decide) hM
    | split
    | dsimp only

theorem issueMma_same {M : Nat} {s0 s : State} (hk : Same M s0 s) (hM : 351852323405832 ||| M = M) (i : StreamId) (w :
    InstrWord) :
    Same M s0 (issueMma i w s) := by
  unfold issueMma
  try dsimp only
  repeat' first
    | intro _
    | with_reducible exact hk
    | with_reducible apply State.startMma_same
    | with_reducible apply State.noteMma_same
    | with_reducible apply State.sample_same
    | with_reducible apply State.shadowSlots_same
    | with_reducible apply State.wakeArrays_same
    | with_reducible apply issue_same
    | with_reducible apply ite_same
    | with_reducible refine same_snd (by assumption) ?_
    | with_reducible refine same_snd2 (by assumption) ?_
    | with_reducible assumption
    | exact sub_sub (by decide) hM
    | split
    | dsimp only

theorem State.operandLost_same {M : Nat} {s0 s : State} (hk : Same M s0 s) (hM : 8590983176 ||| M = M) (f : Nat) (n :
    Nat) (o : MmaOp) (lost : List Nat) :
    Same M s0 (State.operandLost s f n o lost) := by
  unfold State.operandLost
  try dsimp only
  repeat' first
    | intro _
    | with_reducible exact hk
    | with_reducible apply State.seedLost_same
    | with_reducible apply ite_same
    | with_reducible refine same_snd (by assumption) ?_
    | with_reducible refine same_snd2 (by assumption) ?_
    | with_reducible assumption
    | exact sub_sub (by decide) hM
    | split
    | dsimp only

theorem State.startDrain_same {M : Nat} {s0 s : State} (hk : Same M s0 s) (hM : 5242880 ||| M = M) (p : At) (x :
    DrnFields) (d : List Byte) (fp : Footprint) :
    Same M s0 (State.startDrain s p x d fp) := by
  unfold State.startDrain
  try dsimp only
  repeat' first
    | intro _
    | with_reducible exact hk
    | with_reducible apply State.setFur_same
    | with_reducible apply State.seedWrite_same
    | with_reducible refine foldl_same ?_ ?_
    | with_reducible apply ite_same
    | with_reducible refine same_snd (by assumption) ?_
    | with_reducible refine same_snd2 (by assumption) ?_
    | with_reducible assumption
    | exact sub_sub (by decide) hM
    | split
    | dsimp only

theorem issueDrn_same {M : Nat} {s0 s : State} (hk : Same M s0 s) (hM : 8637120520 ||| M = M) (i : StreamId) (w :
    InstrWord) :
    Same M s0 (issueDrn i w s) := by
  unfold issueDrn
  try dsimp only
  repeat' first
    | intro _
    | with_reducible exact hk
    | with_reducible apply State.compareLater_same
    | with_reducible apply State.startDrain_same
    | with_reducible apply issue_same
    | with_reducible apply ite_same
    | with_reducible refine same_snd (by assumption) ?_
    | with_reducible refine same_snd2 (by assumption) ?_
    | with_reducible assumption
    | exact sub_sub (by decide) hM
    | split
    | dsimp only

theorem State.firstCheck_same {M : Nat} {s0 s : State} (hk : Same M s0 s) (hM : 8 ||| M = M) (f : Nat) (n : Nat) (o :
    DrnOp) (bit : Nat) :
    Same M s0 (State.firstCheck s f n o bit) := by
  unfold State.firstCheck
  try dsimp only
  repeat' first
    | intro _
    | with_reducible exact hk
    | with_reducible apply State.wf_same
    | with_reducible apply ite_same
    | with_reducible refine same_snd (by assumption) ?_
    | with_reducible refine same_snd2 (by assumption) ?_
    | with_reducible assumption
    | exact sub_sub (by decide) hM
    | split
    | dsimp only

theorem State.reportCheck_same {M : Nat} {s0 s : State} (hk : Same M s0 s) (hM : 8589934600 ||| M = M) (f : Nat) (n :
    Nat) (o : DrnOp) (bit : Nat) :
    Same M s0 (State.reportCheck s f n o bit) := by
  unfold State.reportCheck
  try dsimp only
  repeat' first
    | intro _
    | with_reducible exact hk
    | with_reducible apply State.firstCheck_same
    | with_reducible apply State.bump_same
    | with_reducible apply State.blockCause_same
    | with_reducible apply State.raiseFor_same
    | with_reducible apply ite_same
    | with_reducible refine same_snd (by assumption) ?_
    | with_reducible refine same_snd2 (by assumption) ?_
    | with_reducible assumption
    | exact sub_sub (by decide) hM
    | split
    | dsimp only

theorem State.keepMasks_same {M : Nat} {s0 s : State} (hk : Same M s0 s) (hM : 4194304 ||| M = M) (f : Nat) (n : Nat)
    (o : DrnOp) (rest : List DrnOp) :
    Same M s0 (State.keepMasks s f n o rest) := by
  unfold State.keepMasks
  try dsimp only
  repeat' first
    | intro _
    | with_reducible exact hk
    | with_reducible apply State.setFur_same
    | with_reducible apply ite_same
    | with_reducible refine same_snd (by assumption) ?_
    | with_reducible refine same_snd2 (by assumption) ?_
    | with_reducible assumption
    | exact sub_sub (by decide) hM
    | split
    | dsimp only

theorem State.putRecord_same {M : Nat} {s0 s : State} (hk : Same M s0 s) (hM : 1048576 ||| M = M) (f : Nat) (n : Nat)
    (o : DrnOp) :
    Same M s0 (State.putRecord s f n o) := by
  unfold State.putRecord
  try dsimp only
  repeat' first
    | intro _
    | with_reducible exact hk
    | with_reducible apply State.seedWrite_same
    | with_reducible apply ite_same
    | with_reducible refine same_snd (by assumption) ?_
    | with_reducible refine same_snd2 (by assumption) ?_
    | with_reducible assumption
    | exact sub_sub (by decide) hM
    | split
    | dsimp only

theorem State.addSquares_same {M : Nat} {s0 s : State} (hk : Same M s0 s) (hM : 545259520 ||| M = M) (f : Nat) (n :
    Nat) (o : DrnOp) :
    Same M s0 (State.addSquares s f n o) := by
  unfold State.addSquares
  try dsimp only
  repeat' first
    | intro _
    | with_reducible exact hk
    | with_reducible apply State.setStrm_same
    | with_reducible apply State.addGradNf_same
    | with_reducible apply ite_same
    | with_reducible refine same_snd (by assumption) ?_
    | with_reducible refine same_snd2 (by assumption) ?_
    | with_reducible assumption
    | exact sub_sub (by decide) hM
    | split
    | dsimp only

theorem State.countDrain_same {M : Nat} {s0 s : State} (hk : Same M s0 s) (hM : 8 ||| M = M) (f : Nat) (n : Nat) (o :
    DrnOp) :
    Same M s0 (State.countDrain s f n o) := by
  unfold State.countDrain
  try dsimp only
  repeat' first
    | intro _
    | with_reducible exact hk
    | with_reducible apply State.bump_same
    | with_reducible apply ite_same
    | with_reducible refine same_snd (by assumption) ?_
    | with_reducible refine same_snd2 (by assumption) ?_
    | with_reducible assumption
    | exact sub_sub (by decide) hM
    | split
    | dsimp only

theorem State.closeDrain_same {M : Nat} {s0 s : State} (hk : Same M s0 s) (hM : 550502408 ||| M = M) (f : Nat) (n :
    Nat) (o : DrnOp) (rest : List DrnOp) :
    Same M s0 (State.closeDrain s f n o rest) := by
  unfold State.closeDrain
  try dsimp only
  repeat' first
    | intro _
    | with_reducible exact hk
    | with_reducible apply State.putRecord_same
    | with_reducible apply State.addSquares_same
    | with_reducible apply State.countDrain_same
    | with_reducible apply State.addTotals_same
    | with_reducible apply State.keepMasks_same
    | with_reducible apply ite_same
    | with_reducible refine same_snd (by assumption) ?_
    | with_reducible refine same_snd2 (by assumption) ?_
    | with_reducible assumption
    | exact sub_sub (by decide) hM
    | split
    | dsimp only

theorem State.retireDrain_same {M : Nat} {s0 s : State} (hk : Same M s0 s) (hM : 9140437000 ||| M = M) (f : Nat) (n :
    Nat) (o : DrnOp) (rest : List DrnOp) :
    Same M s0 (State.retireDrain s f n o rest) := by
  unfold State.retireDrain
  try dsimp only
  repeat' first
    | intro _
    | with_reducible exact hk
    | with_reducible apply State.closeDrain_same
    | with_reducible apply State.reportCheck_same
    | with_reducible refine foldl_same ?_ ?_
    | with_reducible apply ite_same
    | with_reducible refine same_snd (by assumption) ?_
    | with_reducible refine same_snd2 (by assumption) ?_
    | with_reducible assumption
    | exact sub_sub (by decide) hM
    | split
    | dsimp only

theorem State.pushVop_same {M : Nat} {s0 s : State} (hk : Same M s0 s) (hM : 281474980904960 ||| M = M) (p : At) (unit
    : Nat) (fp : Footprint) (k : Counts) :
    Same M s0 (State.pushVop s p unit fp k) := by
  unfold State.pushVop
  try dsimp only
  repeat' first
    | intro _
    | with_reducible exact hk
    | with_reducible apply State.setFur_same
    | with_reducible apply State.wakeArrays_same
    | with_reducible apply ite_same
    | with_reducible refine same_snd (by assumption) ?_
    | with_reducible refine same_snd2 (by assumption) ?_
    | with_reducible assumption
    | exact sub_sub (by decide) hM
    | split
    | dsimp only

theorem State.startVop_same {M : Nat} {s0 s : State} (hk : Same M s0 s) (hM : 281475518824448 ||| M = M) (p : At) (x :
    VopFields) (fp : Footprint) :
    Same M s0 (State.startVop s p x fp) := by
  unfold State.startVop
  try dsimp only
  repeat' first
    | intro _
    | with_reducible exact hk
    | with_reducible apply State.addTotals_same
    | with_reducible apply State.pushVop_same
    | with_reducible apply State.seedWrite_same
    | with_reducible apply ite_same
    | with_reducible refine same_snd (by assumption) ?_
    | with_reducible refine same_snd2 (by assumption) ?_
    | with_reducible assumption
    | exact sub_sub (by decide) hM
    | split
    | dsimp only

theorem issueVop_same {M : Nat} {s0 s : State} (hk : Same M s0 s) (hM : 281484150702088 ||| M = M) (i : StreamId) (w :
    InstrWord) :
    Same M s0 (issueVop i w s) := by
  unfold issueVop
  try dsimp only
  repeat' first
    | intro _
    | with_reducible exact hk
    | with_reducible apply State.startVop_same
    | with_reducible apply State.sampleVop_same
    | with_reducible apply issue_same
    | with_reducible apply ite_same
    | with_reducible refine same_snd (by assumption) ?_
    | with_reducible refine same_snd2 (by assumption) ?_
    | with_reducible assumption
    | exact sub_sub (by decide) hM
    | split
    | dsimp only

theorem State.writeFp32_same {M : Nat} {s0 s : State} (hk : Same M s0 s) (hM : 537919488 ||| M = M) (p : At) (base :
    Nat) (dst : Nat) (vs : List Word32) :
    Same M s0 (State.writeFp32 s p base dst vs) := by
  unfold State.writeFp32
  try dsimp only
  repeat' first
    | intro _
    | with_reducible exact hk
    | with_reducible apply State.addTotals_same
    | with_reducible apply State.seedWrite_same
    | with_reducible apply ite_same
    | with_reducible refine same_snd (by assumption) ?_
    | with_reducible refine same_snd2 (by assumption) ?_
    | with_reducible assumption
    | exact sub_sub (by decide) hM
    | split
    | dsimp only

theorem State.runAdamw_same {M : Nat} {s0 s : State} (hk : Same M s0 s) (hM : 537919488 ||| M = M) (p : At) (x :
    VopFields) (r : List Byte) :
    Same M s0 (State.runAdamw s p x r) := by
  unfold State.runAdamw
  try dsimp only
  repeat' first
    | intro _
    | with_reducible exact hk
    | with_reducible apply State.addTotals_same
    | with_reducible apply State.writeFp32_same
    | with_reducible apply State.seedWrite_same
    | with_reducible apply ite_same
    | with_reducible refine same_snd (by assumption) ?_
    | with_reducible refine same_snd2 (by assumption) ?_
    | with_reducible assumption
    | exact sub_sub (by decide) hM
    | split
    | dsimp only

theorem State.runGsq_same {M : Nat} {s0 s : State} (hk : Same M s0 s) (hM : 537919488 ||| M = M) (p : At) (x :
    VopFields) (r : List Byte) :
    Same M s0 (State.runGsq s p x r) := by
  unfold State.runGsq
  try dsimp only
  repeat' first
    | intro _
    | with_reducible exact hk
    | with_reducible apply State.writeFp32_same
    | with_reducible apply ite_same
    | with_reducible refine same_snd (by assumption) ?_
    | with_reducible refine same_snd2 (by assumption) ?_
    | with_reducible assumption
    | exact sub_sub (by decide) hM
    | split
    | dsimp only

theorem State.runAfapply_same {M : Nat} {s0 s : State} (hk : Same M s0 s) (hM : 537919488 ||| M = M) (p : At) (x :
    VopFields) (r : List Byte) (h : List Byte) :
    Same M s0 (State.runAfapply s p x r h) := by
  unfold State.runAfapply
  try dsimp only
  repeat' first
    | intro _
    | with_reducible exact hk
    | with_reducible apply State.addTotals_same
    | with_reducible apply State.writeFp32_same
    | with_reducible apply State.seedWrite_same
    | with_reducible apply ite_same
    | with_reducible refine same_snd (by assumption) ?_
    | with_reducible refine same_snd2 (by assumption) ?_
    | with_reducible assumption
    | exact sub_sub (by decide) hM
    | split
    | dsimp only

theorem State.runOpt_same {M : Nat} {s0 s : State} (hk : Same M s0 s) (hM : 537919488 ||| M = M) (p : At) (x :
    VopFields) (r : List Byte) (h : List Byte) :
    Same M s0 (State.runOpt s p x r h) := by
  unfold State.runOpt
  try dsimp only
  repeat' first
    | intro _
    | with_reducible exact hk
    | with_reducible apply State.runAfapply_same
    | with_reducible apply State.runAdamw_same
    | with_reducible apply State.runGsq_same
    | with_reducible apply ite_same
    | with_reducible refine same_snd (by assumption) ?_
    | with_reducible refine same_snd2 (by assumption) ?_
    | with_reducible assumption
    | exact sub_sub (by decide) hM
    | split
    | dsimp only

theorem State.zeroTotals_same {M : Nat} {s0 s : State} (hk : Same M s0 s) (hM : 536870912 ||| M = M) (c : Nat) :
    Same M s0 (State.zeroTotals s c) := by
  unfold State.zeroTotals
  try dsimp only
  repeat' first
    | intro _
    | with_reducible exact hk
    | with_reducible apply State.setCtx_same
    | with_reducible apply ite_same
    | with_reducible refine same_snd (by assumption) ?_
    | with_reducible refine same_snd2 (by assumption) ?_
    | with_reducible assumption
    | exact sub_sub (by decide) hM
    | split
    | dsimp only

theorem issueOpt_same {M : Nat} {s0 s : State} (hk : Same M s0 s) (hM : 281484150702088 ||| M = M) (i : StreamId) (w :
    InstrWord) :
    Same M s0 (issueOpt i w s) := by
  unfold issueOpt
  try dsimp only
  repeat' first
    | intro _
    | with_reducible exact hk
    | with_reducible apply State.sampleVop_same
    | with_reducible apply State.runOpt_same
    | with_reducible apply State.pushVop_same
    | with_reducible apply issue_same
    | with_reducible apply ite_same
    | with_reducible refine same_snd (by assumption) ?_
    | with_reducible refine same_snd2 (by assumption) ?_
    | with_reducible assumption
    | exact sub_sub (by decide) hM
    | split
    | dsimp only

theorem State.runGln_same {M : Nat} {s0 s : State} (hk : Same M s0 s) (hM : 540016640 ||| M = M) (p : At) (x : GlnFields) :
    Same M s0 (State.runGln s p x) := by
  unfold State.runGln
  try dsimp only
  repeat' first
    | intro _
    | with_reducible exact hk
    | with_reducible apply State.addTotals_same
    | with_reducible apply State.gleanSet_same
    | with_reducible apply State.addGradNf_same
    | with_reducible apply State.seedWrite_same
    | with_reducible refine foldl_same ?_ ?_
    | with_reducible apply ite_same
    | with_reducible refine same_snd (by assumption) ?_
    | with_reducible refine same_snd2 (by assumption) ?_
    | with_reducible assumption
    | exact sub_sub (by decide) hM
    | split
    | dsimp only

theorem issueGln_same {M : Nat} {s0 s : State} (hk : Same M s0 s) (hM : 9142534152 ||| M = M) (i : StreamId) (w :
    InstrWord) :
    Same M s0 (issueGln i w s) := by
  unfold issueGln
  try dsimp only
  repeat' first
    | intro _
    | with_reducible exact hk
    | with_reducible apply State.setFur_same
    | with_reducible apply issue_same
    | with_reducible apply State.runGln_same
    | with_reducible apply ite_same
    | with_reducible refine same_snd (by assumption) ?_
    | with_reducible refine same_snd2 (by assumption) ?_
    | with_reducible assumption
    | exact sub_sub (by decide) hM
    | split
    | dsimp only

theorem State.setQueue_same {M : Nat} {s0 s : State} (hk : Same M s0 s) (hM : 68719476736 ||| M = M) (q : Nat) (x :
    QueueSt) :
    Same M s0 (State.setQueue s q x) := by
  unfold State.setQueue
  try dsimp only
  repeat' first
    | intro _
    | with_reducible exact hk
    | with_reducible apply ite_same
    | with_reducible refine same_snd (by assumption) ?_
    | with_reducible refine same_snd2 (by assumption) ?_
    | with_reducible assumption
    | exact sub_sub (by decide) hM
    | split
    | dsimp only
    | with_reducible apply same_u68719476736

theorem State.emptyQueue_same {M : Nat} {s0 s : State} (hk : Same M s0 s) (hM : 68719476736 ||| M = M) (q : Nat) :
    Same M s0 (State.emptyQueue s q) := by
  unfold State.emptyQueue
  try dsimp only
  repeat' first
    | intro _
    | with_reducible exact hk
    | with_reducible apply State.setQueue_same
    | with_reducible apply ite_same
    | with_reducible refine same_snd (by assumption) ?_
    | with_reducible refine same_snd2 (by assumption) ?_
    | with_reducible assumption
    | exact sub_sub (by decide) hM
    | split
    | dsimp only

theorem State.setCmd_same {M : Nat} {s0 s : State} (hk : Same M s0 s) (hM : 68719476736 ||| M = M) (q : Nat) (x : QCmd) :
    Same M s0 (State.setCmd s q x) := by
  unfold State.setCmd
  try dsimp only
  repeat' first
    | intro _
    | with_reducible exact hk
    | with_reducible apply State.setQueue_same
    | with_reducible apply ite_same
    | with_reducible refine same_snd (by assumption) ?_
    | with_reducible refine same_snd2 (by assumption) ?_
    | with_reducible assumption
    | exact sub_sub (by decide) hM
    | split
    | dsimp only

theorem State.finishCmd_same {M : Nat} {s0 s : State} (hk : Same M s0 s) (hM : 68719476744 ||| M = M) (q : Nat) (seq :
    Nat) (status : Nat) (detail : Nat) :
    Same M s0 (State.finishCmd s q seq status detail) := by
  unfold State.finishCmd
  try dsimp only
  repeat' first
    | intro _
    | with_reducible exact hk
    | with_reducible apply State.setCmd_same
    | with_reducible apply State.blockCause_same
    | with_reducible apply ite_same
    | with_reducible refine same_snd (by assumption) ?_
    | with_reducible refine same_snd2 (by assumption) ?_
    | with_reducible assumption
    | exact sub_sub (by decide) hM
    | split
    | dsimp only

theorem State.launchEnded_same {M : Nat} {s0 s : State} (hk : Same M s0 s) (hM : 68719476744 ||| M = M) (q : Nat) (seq
    : Nat) :
    Same M s0 (State.launchEnded s q seq) := by
  unfold State.launchEnded
  try dsimp only
  repeat' first
    | intro _
    | with_reducible exact hk
    | with_reducible apply State.finishCmd_same
    | with_reducible apply ite_same
    | with_reducible refine same_snd (by assumption) ?_
    | with_reducible refine same_snd2 (by assumption) ?_
    | with_reducible assumption
    | exact sub_sub (by decide) hM
    | split
    | dsimp only

theorem State.runWatch_same {M : Nat} {s0 s : State} (hk : Same M s0 s) (hM : 836981859336 ||| M = M) (c : Nat) :
    Same M s0 (State.runWatch s c) := by
  unfold State.runWatch
  try dsimp only
  repeat' first
    | intro _
    | with_reducible exact hk
    | with_reducible apply State.setReg_same
    | with_reducible apply State.hbmWrite_same
    | with_reducible apply State.wf_same
    | with_reducible apply State.setCtx_same
    | with_reducible apply State.ctxEvent_same
    | with_reducible apply ite_same
    | with_reducible refine same_snd (by assumption) ?_
    | with_reducible refine same_snd2 (by assumption) ?_
    | with_reducible assumption
    | exact sub_sub (by decide) hM
    | split
    | dsimp only

theorem State.reportDue_same {M : Nat} {s0 s : State} (hk : Same M s0 s) (hM : 836981859336 ||| M = M) (c : Nat) :
    Same M s0 (State.reportDue s c) := by
  unfold State.reportDue
  try dsimp only
  repeat' first
    | intro _
    | with_reducible exact hk
    | with_reducible apply State.runWatch_same
    | with_reducible apply ite_same
    | with_reducible refine same_snd (by assumption) ?_
    | with_reducible refine same_snd2 (by assumption) ?_
    | with_reducible assumption
    | exact sub_sub (by decide) hM
    | split
    | dsimp only

theorem State.mirrorEnds_same {M : Nat} {s0 s : State} (hk : Same M s0 s) (hM : 834297397256 ||| M = M) (c : Nat)
    (queued : Bool) :
    Same M s0 (State.mirrorEnds s c queued) := by
  unfold State.mirrorEnds
  try dsimp only
  repeat' first
    | intro _
    | with_reducible exact hk
    | with_reducible apply State.setRegion_same
    | with_reducible apply State.sendPkt_same
    | with_reducible refine foldl_same ?_ ?_
    | with_reducible apply ite_same
    | with_reducible refine same_snd (by assumption) ?_
    | with_reducible refine same_snd2 (by assumption) ?_
    | with_reducible assumption
    | exact sub_sub (by decide) hM
    | split
    | dsimp only

theorem State.stepProgress_same {M : Nat} {s0 s : State} (hk : Same M s0 s) (hM : 836981859336 ||| M = M) (c : Nat) :
    Same M s0 (State.stepProgress s c) := by
  unfold State.stepProgress
  try dsimp only
  repeat' first
    | intro _
    | with_reducible exact hk
    | with_reducible apply State.reportDue_same
    | with_reducible apply State.mirrorEnds_same
    | with_reducible apply ite_same
    | with_reducible refine same_snd (by assumption) ?_
    | with_reducible refine same_snd2 (by assumption) ?_
    | with_reducible assumption
    | exact sub_sub (by decide) hM
    | split
    | dsimp only

theorem State.signal_same {M : Nat} {s0 s : State} (hk : Same M s0 s) (hM : 67108864 ||| M = M) (f : Nat) (c : Nat)
    (sem : Option Nat) :
    Same M s0 (State.signal s f c sem) := by
  unfold State.signal
  try dsimp only
  repeat' first
    | intro _
    | with_reducible exact hk
    | with_reducible apply State.setSem_same
    | with_reducible apply ite_same
    | with_reducible refine same_snd (by assumption) ?_
    | with_reducible refine same_snd2 (by assumption) ?_
    | with_reducible assumption
    | exact sub_sub (by decide) hM
    | split
    | dsimp only

theorem issueSemw_same {M : Nat} {s0 s : State} (hk : Same M s0 s) (hM : 8665432072 ||| M = M) (i : StreamId) (w :
    InstrWord) :
    Same M s0 (issueSemw i w s) := by
  unfold issueSemw
  try dsimp only
  repeat' first
    | intro _
    | with_reducible exact hk
    | with_reducible apply State.setSem_same
    | with_reducible apply issue_same
    | with_reducible apply ite_same
    | with_reducible refine same_snd (by assumption) ?_
    | with_reducible refine same_snd2 (by assumption) ?_
    | with_reducible assumption
    | exact sub_sub (by decide) hM
    | split
    | dsimp only

theorem issueSems_same {M : Nat} {s0 s : State} (hk : Same M s0 s) (hM : 8665432072 ||| M = M) (i : StreamId) (w :
    InstrWord) :
    Same M s0 (issueSems i w s) := by
  unfold issueSems
  try dsimp only
  repeat' first
    | intro _
    | with_reducible exact hk
    | with_reducible apply State.setSem_same
    | with_reducible apply issue_same
    | with_reducible apply ite_same
    | with_reducible refine same_snd (by assumption) ?_
    | with_reducible refine same_snd2 (by assumption) ?_
    | with_reducible assumption
    | exact sub_sub (by decide) hM
    | split
    | dsimp only

theorem State.releaseBarrier_same {M : Nat} {s0 s : State} (hk : Same M s0 s) (hM : 8732540936 ||| M = M) (c : Nat)
    (key : Nat) :
    Same M s0 (State.releaseBarrier s c key) := by
  unfold State.releaseBarrier
  try dsimp only
  repeat' first
    | intro _
    | with_reducible exact hk
    | with_reducible apply State.advance_same
    | with_reducible refine foldl_same ?_ ?_
    | with_reducible apply ite_same
    | with_reducible refine same_snd (by assumption) ?_
    | with_reducible refine same_snd2 (by assumption) ?_
    | with_reducible assumption
    | exact sub_sub (by decide) hM
    | split
    | dsimp only
    | with_reducible apply same_u134217728

theorem State.arrive_same {M : Nat} {s0 s : State} (hk : Same M s0 s) (hM : 8732540936 ||| M = M) (p : At) (key : Nat)
    (count : Nat) :
    Same M s0 (State.arrive s p key count) := by
  unfold State.arrive
  try dsimp only
  repeat' first
    | intro _
    | with_reducible exact hk
    | with_reducible apply State.releaseBarrier_same
    | with_reducible apply State.setSt_same
    | with_reducible apply ite_same
    | with_reducible refine same_snd (by assumption) ?_
    | with_reducible refine same_snd2 (by assumption) ?_
    | with_reducible assumption
    | exact sub_sub (by decide) hM
    | split
    | dsimp only
    | with_reducible apply same_u134217728

theorem issueBar_same {M : Nat} {s0 s : State} (hk : Same M s0 s) (hM : 8732540936 ||| M = M) (i : StreamId) (w :
    InstrWord) :
    Same M s0 (issueBar i w s) := by
  unfold issueBar
  try dsimp only
  repeat' first
    | intro _
    | with_reducible exact hk
    | with_reducible apply State.arrive_same
    | with_reducible apply State.waitStream_same
    | with_reducible apply State.haltStream_same
    | with_reducible apply ite_same
    | with_reducible refine same_snd (by assumption) ?_
    | with_reducible refine same_snd2 (by assumption) ?_
    | with_reducible assumption
    | exact sub_sub (by decide) hM
    | split
    | dsimp only

theorem State.addForce_same {M : Nat} {s0 s : State} (hk : Same M s0 s) (hM : 4194304 ||| M = M) (p : At) (phys : Nat)
    (row : Nat) (g : Nat) (v : Word32) :
    Same M s0 (State.addForce s p phys row g v) := by
  unfold State.addForce
  try dsimp only
  repeat' first
    | intro _
    | with_reducible exact hk
    | with_reducible apply State.setFur_same
    | with_reducible apply ite_same
    | with_reducible refine same_snd (by assumption) ?_
    | with_reducible refine same_snd2 (by assumption) ?_
    | with_reducible assumption
    | exact sub_sub (by decide) hM
    | split
    | dsimp only

theorem issueChk_same {M : Nat} {s0 s : State} (hk : Same M s0 s) (hM : 8603566088 ||| M = M) (i : StreamId) (w :
    InstrWord) :
    Same M s0 (issueChk i w s) := by
  unfold issueChk
  try dsimp only
  repeat' first
    | intro _
    | with_reducible exact hk
    | with_reducible apply State.addForce_same
    | with_reducible apply State.seedWrite_same
    | with_reducible apply issue_same
    | with_reducible apply ite_same
    | with_reducible refine same_snd (by assumption) ?_
    | with_reducible refine same_snd2 (by assumption) ?_
    | with_reducible assumption
    | exact sub_sub (by decide) hM
    | split
    | dsimp only

theorem State.feedDma_same {M : Nat} {s0 s : State} (hk : Same M s0 s) (hM : 16777216 ||| M = M) (f : Nat) :
    Same M s0 (State.feedDma s f) := by
  unfold State.feedDma
  try dsimp only
  repeat' first
    | intro _
    | with_reducible exact hk
    | with_reducible apply State.setDma_same
    | with_reducible apply ite_same
    | with_reducible refine same_snd (by assumption) ?_
    | with_reducible refine same_snd2 (by assumption) ?_
    | with_reducible assumption
    | exact sub_sub (by decide) hM
    | split
    | dsimp only

theorem State.handOff_same {M : Nat} {s0 s : State} (hk : Same M s0 s) (hM : 16777216 ||| M = M) (f : Nat) (x : Xfer) :
    Same M s0 (State.handOff s f x) := by
  unfold State.handOff
  try dsimp only
  repeat' first
    | intro _
    | with_reducible exact hk
    | with_reducible apply State.setDma_same
    | with_reducible apply State.feedDma_same
    | with_reducible apply ite_same
    | with_reducible refine same_snd (by assumption) ?_
    | with_reducible refine same_snd2 (by assumption) ?_
    | with_reducible assumption
    | exact sub_sub (by decide) hM
    | split
    | dsimp only

theorem issueDma_same {M : Nat} {s0 s : State} (hk : Same M s0 s) (hM : 8682209288 ||| M = M) (i : StreamId) (w :
    InstrWord) :
    Same M s0 (issueDma i w s) := by
  unfold issueDma
  try dsimp only
  repeat' first
    | intro _
    | with_reducible exact hk
    | with_reducible apply State.handOff_same
    | with_reducible apply issue_same
    | with_reducible apply State.signal_same
    | with_reducible apply ite_same
    | with_reducible refine same_snd (by assumption) ?_
    | with_reducible refine same_snd2 (by assumption) ?_
    | with_reducible assumption
    | exact sub_sub (by decide) hM
    | split
    | dsimp only

theorem State.gaugeSheaf_same {M : Nat} {s0 s : State} (hk : Same M s0 s) (hM : 8 ||| M = M) (f : Nat) (c : Nat) (a :
    Nat) (len : Nat) :
    Same M s0 (State.gaugeSheaf s f c a len) := by
  unfold State.gaugeSheaf
  try dsimp only
  repeat' first
    | intro _
    | with_reducible exact hk
    | with_reducible apply State.peak_same
    | with_reducible apply ite_same
    | with_reducible refine same_snd (by assumption) ?_
    | with_reducible refine same_snd2 (by assumption) ?_
    | with_reducible assumption
    | exact sub_sub (by decide) hM
    | split
    | dsimp only

theorem State.gaugeAct_same {M : Nat} {s0 s : State} (hk : Same M s0 s) (hM : 8 ||| M = M) (f : Nat) (c : Nat) (a :
    Nat) (len : Nat) :
    Same M s0 (State.gaugeAct s f c a len) := by
  unfold State.gaugeAct
  try dsimp only
  repeat' first
    | intro _
    | with_reducible exact hk
    | with_reducible apply State.peak_same
    | with_reducible apply ite_same
    | with_reducible refine same_snd (by assumption) ?_
    | with_reducible refine same_snd2 (by assumption) ?_
    | with_reducible assumption
    | exact sub_sub (by decide) hM
    | split
    | dsimp only

theorem State.moveRow_same {M : Nat} {s0 s : State} (hk : Same M s0 s) (hM : 836446552072 ||| M = M) (x : Xfer) (row :
    Nat × Nat) :
    Same M s0 (State.moveRow s x row) := by
  unfold State.moveRow
  try dsimp only
  repeat' first
    | intro _
    | with_reducible exact hk
    | with_reducible apply State.gaugeSheaf_same
    | with_reducible apply State.gaugeAct_same
    | with_reducible apply State.hbmWrite_same
    | with_reducible apply State.hbmRead_same
    | with_reducible apply State.seedWrite_same
    | with_reducible apply State.sheafWrite_same
    | with_reducible apply ite_same
    | with_reducible refine same_snd (by assumption) ?_
    | with_reducible refine same_snd2 (by assumption) ?_
    | with_reducible assumption
    | exact sub_sub (by decide) hM
    | split
    | dsimp only

theorem State.sourceLost_same {M : Nat} {s0 s : State} (hk : Same M s0 s) (hM : 8591507464 ||| M = M) (x : Xfer) (lost
    : List Nat) :
    Same M s0 (State.sourceLost s x lost) := by
  unfold State.sourceLost
  try dsimp only
  repeat' first
    | intro _
    | with_reducible exact hk
    | with_reducible apply State.sheafLost_same
    | with_reducible apply State.seedLost_same
    | with_reducible apply ite_same
    | with_reducible refine same_snd (by assumption) ?_
    | with_reducible refine same_snd2 (by assumption) ?_
    | with_reducible assumption
    | exact sub_sub (by decide) hM
    | split
    | dsimp only

theorem issueStep_same {M : Nat} {s0 s : State} (hk : Same M s0 s) (hM : 836990247944 ||| M = M) (i : StreamId) (w :
    InstrWord) :
    Same M s0 (issueStep i w s) := by
  unfold issueStep
  try dsimp only
  repeat' first
    | intro _
    | with_reducible exact hk
    | with_reducible apply State.stepProgress_same
    | with_reducible apply State.setCtx_same
    | with_reducible apply issue_same
    | with_reducible apply State.setSt_same
    | with_reducible apply ite_same
    | with_reducible refine same_snd (by assumption) ?_
    | with_reducible refine same_snd2 (by assumption) ?_
    | with_reducible assumption
    | exact sub_sub (by decide) hM
    | split
    | dsimp only

theorem issueEnd_same {M : Nat} {s0 s : State} (hk : Same M s0 s) (hM : 77317799944 ||| M = M) (i : StreamId) (w :
    InstrWord) :
    Same M s0 (issueEnd i w s) := by
  unfold issueEnd
  try dsimp only
  repeat' first
    | intro _
    | with_reducible exact hk
    | with_reducible apply State.launchEnded_same
    | with_reducible apply issue_same
    | with_reducible apply State.setSt_same
    | with_reducible apply ite_same
    | with_reducible refine same_snd (by assumption) ?_
    | with_reducible refine same_snd2 (by assumption) ?_
    | with_reducible assumption
    | exact sub_sub (by decide) hM
    | split
    | dsimp only

theorem State.setOp_same {M : Nat} {s0 s : State} (hk : Same M s0 s) (hM : 1099511627776 ||| M = M) (o : ColOp) :
    Same M s0 (State.setOp s o) := by
  unfold State.setOp
  try dsimp only
  repeat' first
    | intro _
    | with_reducible exact hk
    | with_reducible apply State.setEng_same
    | with_reducible apply ite_same
    | with_reducible refine same_snd (by assumption) ?_
    | with_reducible refine same_snd2 (by assumption) ?_
    | with_reducible assumption
    | exact sub_sub (by decide) hM
    | split
    | dsimp only

theorem State.showOps_same {M : Nat} {s0 s : State} (hk : Same M s0 s) (hM : 8 ||| M = M) (f : Nat) :
    Same M s0 (State.showOps s f) := by
  unfold State.showOps
  try dsimp only
  repeat' first
    | intro _
    | with_reducible exact hk
    | with_reducible apply State.wf_same
    | with_reducible apply ite_same
    | with_reducible refine same_snd (by assumption) ?_
    | with_reducible refine same_snd2 (by assumption) ?_
    | with_reducible assumption
    | exact sub_sub (by decide) hM
    | split
    | dsimp only

theorem State.failOp_same {M : Nat} {s0 s : State} (hk : Same M s0 s) (hM : 1099511627776 ||| M = M) (o : ColOp) (st : Nat) :
    Same M s0 (State.failOp s o st) := by
  unfold State.failOp
  try dsimp only
  repeat' first
    | intro _
    | with_reducible exact hk
    | with_reducible apply State.setOp_same
    | with_reducible apply ite_same
    | with_reducible refine same_snd (by assumption) ?_
    | with_reducible refine same_snd2 (by assumption) ?_
    | with_reducible assumption
    | exact sub_sub (by decide) hM
    | split
    | dsimp only

theorem State.colRead_same {M : Nat} {s0 s : State} (hk : Same M s0 s) (hM : 1108101562376 ||| M = M) (o : ColOp) (d :
    Desc) (a : Nat) (n : Nat) :
    Same M s0 (State.colRead s o d a n).2.2 := by
  unfold State.colRead
  try dsimp only
  repeat' first
    | intro _
    | with_reducible exact hk
    | with_reducible apply State.hbmRead_same
    | with_reducible apply State.failOp_same
    | with_reducible apply ite_same
    | with_reducible refine same_snd (by assumption) ?_
    | with_reducible refine same_snd2 (by assumption) ?_
    | with_reducible assumption
    | exact sub_sub (by decide) hM
    | split
    | dsimp only

theorem State.colWrite_same {M : Nat} {s0 s : State} (hk : Same M s0 s) (hM : 1935957655560 ||| M = M) (o : ColOp) (d
    : Desc) (a : Nat) (b : List Byte) :
    Same M s0 (State.colWrite s o d a b) := by
  unfold State.colWrite
  try dsimp only
  repeat' first
    | intro _
    | with_reducible exact hk
    | with_reducible apply State.hbmWrite_same
    | with_reducible apply State.seedWrite_same
    | with_reducible apply State.failOp_same
    | with_reducible refine foldl_same ?_ ?_
    | with_reducible apply ite_same
    | with_reducible refine same_snd (by assumption) ?_
    | with_reducible refine same_snd2 (by assumption) ?_
    | with_reducible assumption
    | exact sub_sub (by decide) hM
    | split
    | dsimp only

theorem State.spill_same {M : Nat} {s0 s : State} (hk : Same M s0 s) (hM : 1935956606984 ||| M = M) (o : ColOp) (key :
    Nat) (v : List Word32) :
    Same M s0 (State.spill s o key v) := by
  unfold State.spill
  try dsimp only
  repeat' first
    | intro _
    | with_reducible exact hk
    | with_reducible apply State.setOp_same
    | with_reducible apply State.hbmWrite_same
    | with_reducible apply State.failOp_same
    | with_reducible apply ite_same
    | with_reducible refine same_snd (by assumption) ?_
    | with_reducible refine same_snd2 (by assumption) ?_
    | with_reducible assumption
    | exact sub_sub (by decide) hM
    | split
    | dsimp only

theorem State.heldVal_same {M : Nat} {s0 s : State} (hk : Same M s0 s) (hM : 1108101562376 ||| M = M) (o : ColOp) (i :
    Nat) (k : Nat) (j : Nat) (v : List Word32) :
    Same M s0 (State.heldVal s o i k j v).2 := by
  unfold State.heldVal
  try dsimp only
  repeat' first
    | intro _
    | with_reducible exact hk
    | with_reducible apply State.hbmRead_same
    | with_reducible apply State.failOp_same
    | with_reducible apply ite_same
    | with_reducible refine same_snd (by assumption) ?_
    | with_reducible refine same_snd2 (by assumption) ?_
    | with_reducible assumption
    | exact sub_sub (by decide) hM
    | split
    | dsimp only

theorem State.storeAt_same {M : Nat} {s0 s : State} (hk : Same M s0 s) (hM : 1935957655560 ||| M = M) (o : ColOp) (d :
    Desc) (e : Nat) (x : List Byte × List Byte) :
    Same M s0 (State.storeAt s o d e x) := by
  unfold State.storeAt
  try dsimp only
  repeat' first
    | intro _
    | with_reducible exact hk
    | with_reducible apply State.colWrite_same
    | with_reducible apply ite_same
    | with_reducible refine same_snd (by assumption) ?_
    | with_reducible refine same_snd2 (by assumption) ?_
    | with_reducible assumption
    | exact sub_sub (by decide) hM
    | split
    | dsimp only

theorem State.sendChunk_same {M : Nat} {s0 s : State} (hk : Same M s0 s) (hM : 833223655432 ||| M = M) (o : ColOp)
    (ptype : Nat) (m : Member) (kind : Nat) (node : Nat) (shard : Nat) (e : Nat) (fmt : Nat) (b : List Byte) (trunc :
    Bool) :
    Same M s0 (State.sendChunk s o ptype m kind node shard e fmt b trunc) := by
  unfold State.sendChunk
  try dsimp only
  repeat' first
    | intro _
    | with_reducible exact hk
    | with_reducible apply State.sendPkt_same
    | with_reducible apply ite_same
    | with_reducible refine same_snd (by assumption) ?_
    | with_reducible refine same_snd2 (by assumption) ?_
    | with_reducible assumption
    | exact sub_sub (by decide) hM
    | split
    | dsimp only

theorem State.dataHere_same {M : Nat} {s0 s : State} (hk : Same M s0 s) (hM : 1935957655560 ||| M = M) (o : ColOp) (i
    : Nat) (e : Nat) (fmt : Nat) (n : Nat) (b : List Byte) :
    Same M s0 (State.dataHere s o i e fmt n b) := by
  unfold State.dataHere
  try dsimp only
  repeat' first
    | intro _
    | with_reducible exact hk
    | with_reducible apply State.sendChunk_same
    | with_reducible apply State.setOp_same
    | with_reducible apply State.storeAt_same
    | with_reducible refine foldl_same ?_ ?_
    | with_reducible apply ite_same
    | with_reducible refine same_snd (by assumption) ?_
    | with_reducible refine same_snd2 (by assumption) ?_
    | with_reducible assumption
    | exact sub_sub (by decide) hM
    | split
    | dsimp only

theorem State.rootHere_same {M : Nat} {s0 s : State} (hk : Same M s0 s) (hM : 1935957655560 ||| M = M) (o : ColOp) (i
    : Nat) (j : Nat) (v : List Word32) :
    Same M s0 (State.rootHere s o i j v) := by
  unfold State.rootHere
  try dsimp only
  repeat' first
    | intro _
    | with_reducible exact hk
    | with_reducible apply State.setOp_same
    | with_reducible apply State.dataHere_same
    | with_reducible apply State.storeAt_same
    | with_reducible apply ite_same
    | with_reducible refine same_snd (by assumption) ?_
    | with_reducible refine same_snd2 (by assumption) ?_
    | with_reducible assumption
    | exact sub_sub (by decide) hM
    | split
    | dsimp only

theorem State.valueHere_same {M : Nat} {s0 s : State} (hk : Same M s0 s) (hM : 1935957655560 ||| M = M) (o : ColOp) (i
    : Nat) (k : Nat) (j : Nat) (kind : Nat) (v : List Word32) (raw : List Byte) :
    Same M s0 (State.valueHere s o i k j kind v raw) := by
  unfold State.valueHere
  try dsimp only
  repeat' first
    | intro _
    | with_reducible exact hk
    | with_reducible apply State.sendChunk_same
    | with_reducible apply State.setOp_same
    | with_reducible apply State.rootHere_same
    | with_reducible apply ite_same
    | with_reducible refine same_snd (by assumption) ?_
    | with_reducible refine same_snd2 (by assumption) ?_
    | with_reducible assumption
    | exact sub_sub (by decide) hM
    | split
    | dsimp only

theorem State.tryNode_same {M : Nat} {s0 s : State} (hk : Same M s0 s) (hM : 1935957655560 ||| M = M) (o : ColOp) (i :
    Nat) (j : Nat) (k : Nat) :
    Same M s0 (State.tryNode s o i j k) := by
  unfold State.tryNode
  try dsimp only
  repeat' first
    | intro _
    | with_reducible exact hk
    | with_reducible apply State.heldVal_same
    | with_reducible apply State.valueHere_same
    | with_reducible apply State.bump64_same
    | with_reducible apply ite_same
    | with_reducible refine same_snd (by assumption) ?_
    | with_reducible refine same_snd2 (by assumption) ?_
    | with_reducible assumption
    | exact sub_sub (by decide) hM
    | split
    | dsimp only

theorem State.runChunk_same {M : Nat} {s0 s : State} (hk : Same M s0 s) (hM : 1935957655560 ||| M = M) (o : ColOp) (i
    : Nat) (j : Nat) :
    Same M s0 (State.runChunk s o i j) := by
  unfold State.runChunk
  try dsimp only
  repeat' first
    | intro _
    | with_reducible exact hk
    | with_reducible apply State.tryNode_same
    | with_reducible apply State.spill_same
    | with_reducible refine foldl_same ?_ ?_
    | with_reducible apply ite_same
    | with_reducible refine same_snd (by assumption) ?_
    | with_reducible refine same_snd2 (by assumption) ?_
    | with_reducible assumption
    | exact sub_sub (by decide) hM
    | split
    | dsimp only

theorem State.setSrv_same {M : Nat} {s0 s : State} (hk : Same M s0 s) (hM : 2199023255552 ||| M = M) (c : Nat) (x : ServSt) :
    Same M s0 (State.setSrv s c x) := by
  unfold State.setSrv
  try dsimp only
  repeat' first
    | intro _
    | with_reducible exact hk
    | with_reducible apply ite_same
    | with_reducible refine same_snd (by assumption) ?_
    | with_reducible refine same_snd2 (by assumption) ?_
    | with_reducible assumption
    | exact sub_sub (by decide) hM
    | split
    | dsimp only
    | with_reducible apply same_u2199023255552

theorem State.markLayer_same {M : Nat} {s0 s : State} (hk : Same M s0 s) (hM : 2199023255560 ||| M = M) (c : Nat)
    (layer : Nat) (bad : Bool) :
    Same M s0 (State.markLayer s c layer bad) := by
  unfold State.markLayer
  try dsimp only
  repeat' first
    | intro _
    | with_reducible exact hk
    | with_reducible apply State.setSrv_same
    | with_reducible apply State.wf_same
    | with_reducible apply ite_same
    | with_reducible refine same_snd (by assumption) ?_
    | with_reducible refine same_snd2 (by assumption) ?_
    | with_reducible assumption
    | exact sub_sub (by decide) hM
    | split
    | dsimp only

theorem State.swapEnded_same {M : Nat} {s0 s : State} (hk : Same M s0 s) (hM : 2199023255560 ||| M = M) (c : Nat) (q :
    Nat) (seq : Nat) (st : Nat) :
    Same M s0 (State.swapEnded s c q seq st) := by
  unfold State.swapEnded
  try dsimp only
  repeat' first
    | intro _
    | with_reducible exact hk
    | with_reducible apply State.setSrv_same
    | with_reducible apply State.markLayer_same
    | with_reducible apply ite_same
    | with_reducible refine same_snd (by assumption) ?_
    | with_reducible refine same_snd2 (by assumption) ?_
    | with_reducible assumption
    | exact sub_sub (by decide) hM
    | split
    | dsimp only

theorem State.tellUser_same {M : Nat} {s0 s : State} (hk : Same M s0 s) (hM : 2267809841160 ||| M = M) (o : ColOp) (st
    : Nat) (fence : Bool) (u : ColUser) :
    Same M s0 (State.tellUser s o st fence u) := by
  unfold State.tellUser
  try dsimp only
  repeat' first
    | intro _
    | with_reducible exact hk
    | with_reducible apply State.finishCmd_same
    | with_reducible apply State.swapEnded_same
    | with_reducible apply State.signal_same
    | with_reducible apply ite_same
    | with_reducible refine same_snd (by assumption) ?_
    | with_reducible refine same_snd2 (by assumption) ?_
    | with_reducible assumption
    | exact sub_sub (by decide) hM
    | split
    | dsimp only

theorem State.putStatus_same {M : Nat} {s0 s : State} (hk : Same M s0 s) (hM : 836444979208 ||| M = M) (o : ColOp) (st
    : Nat) :
    Same M s0 (State.putStatus s o st) := by
  unfold State.putStatus
  try dsimp only
  repeat' first
    | intro _
    | with_reducible exact hk
    | with_reducible apply State.hbmWrite_same
    | with_reducible apply ite_same
    | with_reducible refine same_snd (by assumption) ?_
    | with_reducible refine same_snd2 (by assumption) ?_
    | with_reducible assumption
    | exact sub_sub (by decide) hM
    | split
    | dsimp only

theorem State.noteFail_same {M : Nat} {s0 s : State} (hk : Same M s0 s) (hM : 8589934600 ||| M = M) (o : ColOp) (st : Nat) :
    Same M s0 (State.noteFail s o st) := by
  unfold State.noteFail
  try dsimp only
  repeat' first
    | intro _
    | with_reducible exact hk
    | with_reducible apply State.wf_same
    | with_reducible apply State.bump_same
    | with_reducible apply State.blockCause_same
    | with_reducible apply State.raiseFor_same
    | with_reducible apply ite_same
    | with_reducible refine same_snd (by assumption) ?_
    | with_reducible refine same_snd2 (by assumption) ?_
    | with_reducible assumption
    | exact sub_sub (by decide) hM
    | split
    | dsimp only

theorem State.endOp_same {M : Nat} {s0 s : State} (hk : Same M s0 s) (hM : 4204303328264 ||| M = M) (o : ColOp) (st :
    Nat) (fence : Bool) :
    Same M s0 (State.endOp s o st fence) := by
  unfold State.endOp
  try dsimp only
  repeat' first
    | intro _
    | with_reducible exact hk
    | with_reducible apply State.tellUser_same
    | with_reducible apply State.reopenReport_same
    | with_reducible apply State.stepProgress_same
    | with_reducible apply State.addTotals_same
    | with_reducible apply State.setEng_same
    | with_reducible apply State.showOps_same
    | with_reducible apply State.noteFail_same
    | with_reducible apply State.putStatus_same
    | with_reducible refine foldl_same ?_ ?_
    | with_reducible apply ite_same
    | with_reducible refine same_snd (by assumption) ?_
    | with_reducible refine same_snd2 (by assumption) ?_
    | with_reducible assumption
    | exact sub_sub (by decide) hM
    | split
    | dsimp only

theorem State.readTables_same {M : Nat} {s0 s : State} (hk : Same M s0 s) (hM : 8589934600 ||| M = M) (who : Consumer)
    (d : Desc) :
    Same M s0 (State.readTables s who d).2 := by
  unfold State.readTables
  try dsimp only
  repeat' first
    | intro _
    | with_reducible exact hk
    | with_reducible apply State.hbmRead_same
    | with_reducible apply ite_same
    | with_reducible refine same_snd (by assumption) ?_
    | with_reducible refine same_snd2 (by assumption) ?_
    | with_reducible assumption
    | exact sub_sub (by decide) hM
    | split
    | dsimp only

theorem State.startReduce_same {M : Nat} {s0 s : State} (hk : Same M s0 s) (hM : 1935957655560 ||| M = M) (o : ColOp) :
    Same M s0 (State.startReduce s o) := by
  unfold State.startReduce
  try dsimp only
  repeat' first
    | intro _
    | with_reducible exact hk
    | with_reducible apply State.colRead_same
    | with_reducible apply State.valueHere_same
    | with_reducible apply State.failOp_same
    | with_reducible apply State.runChunk_same
    | with_reducible refine foldl_same ?_ ?_
    | with_reducible apply ite_same
    | with_reducible refine same_snd (by assumption) ?_
    | with_reducible refine same_snd2 (by assumption) ?_
    | with_reducible assumption
    | exact sub_sub (by decide) hM
    | split
    | dsimp only

theorem State.sourceChunk_same {M : Nat} {s0 s : State} (hk : Same M s0 s) (hM : 1108101562376 ||| M = M) (o : ColOp)
    (host : List Byte) (e : Nat) (n : Nat) :
    Same M s0 (State.sourceChunk s o host e n).2 := by
  unfold State.sourceChunk
  try dsimp only
  repeat' first
    | intro _
    | with_reducible exact hk
    | with_reducible apply State.colRead_same
    | with_reducible apply State.failOp_same
    | with_reducible apply ite_same
    | with_reducible refine same_snd (by assumption) ?_
    | with_reducible refine same_snd2 (by assumption) ?_
    | with_reducible assumption
    | exact sub_sub (by decide) hM
    | split
    | dsimp only

theorem State.startGather_same {M : Nat} {s0 s : State} (hk : Same M s0 s) (hM : 1935957655560 ||| M = M) (o : ColOp) :
    Same M s0 (State.startGather s o) := by
  unfold State.startGather
  try dsimp only
  repeat' first
    | intro _
    | with_reducible exact hk
    | with_reducible apply State.dataHere_same
    | with_reducible apply State.sourceChunk_same
    | with_reducible refine foldl_same ?_ ?_
    | with_reducible apply ite_same
    | with_reducible refine same_snd (by assumption) ?_
    | with_reducible refine same_snd2 (by assumption) ?_
    | with_reducible assumption
    | exact sub_sub (by decide) hM
    | split
    | dsimp only

theorem State.startSow_same {M : Nat} {s0 s : State} (hk : Same M s0 s) (hM : 1935957655560 ||| M = M) (o : ColOp)
    (host : List Byte) :
    Same M s0 (State.startSow s o host) := by
  unfold State.startSow
  try dsimp only
  repeat' first
    | intro _
    | with_reducible exact hk
    | with_reducible apply State.dataHere_same
    | with_reducible apply State.sourceChunk_same
    | with_reducible refine foldl_same ?_ ?_
    | with_reducible apply ite_same
    | with_reducible refine same_snd (by assumption) ?_
    | with_reducible refine same_snd2 (by assumption) ?_
    | with_reducible assumption
    | exact sub_sub (by decide) hM
    | split
    | dsimp only

theorem State.discardPkt_same {M : Nat} {s0 s : State} (hk : Same M s0 s) (hM : 8589934600 ||| M = M) (f : Nat) (x :
    Pkt) (cause : Nat) :
    Same M s0 (State.discardPkt s f x cause) := by
  unfold State.discardPkt
  try dsimp only
  repeat' first
    | intro _
    | with_reducible exact hk
    | with_reducible apply State.raiseSrc_same
    | with_reducible apply State.wf_same
    | with_reducible apply State.bump_same
    | with_reducible apply ite_same
    | with_reducible refine same_snd (by assumption) ?_
    | with_reducible refine same_snd2 (by assumption) ?_
    | with_reducible assumption
    | exact sub_sub (by decide) hM
    | split
    | dsimp only

theorem State.feedOp_same {M : Nat} {s0 s : State} (hk : Same M s0 s) (hM : 1935957655560 ||| M = M) (o : ColOp) (x : Pkt) :
    Same M s0 (State.feedOp s o x) := by
  unfold State.feedOp
  try dsimp only
  repeat' first
    | intro _
    | with_reducible exact hk
    | with_reducible apply State.setOp_same
    | with_reducible apply State.dataHere_same
    | with_reducible apply State.runChunk_same
    | with_reducible apply State.rootHere_same
    | with_reducible apply ite_same
    | with_reducible refine same_snd (by assumption) ?_
    | with_reducible refine same_snd2 (by assumption) ?_
    | with_reducible assumption
    | exact sub_sub (by decide) hM
    | split
    | dsimp only

theorem State.takePkt_same {M : Nat} {s0 s : State} (hk : Same M s0 s) (hM : 1935957655560 ||| M = M) (o : ColOp) (x : Pkt) :
    Same M s0 (State.takePkt s o x) := by
  unfold State.takePkt
  try dsimp only
  repeat' first
    | intro _
    | with_reducible exact hk
    | with_reducible apply State.feedOp_same
    | with_reducible apply State.discardPkt_same
    | with_reducible apply ite_same
    | with_reducible refine same_snd (by assumption) ?_
    | with_reducible refine same_snd2 (by assumption) ?_
    | with_reducible assumption
    | exact sub_sub (by decide) hM
    | split
    | dsimp only

theorem State.showEarly_same {M : Nat} {s0 s : State} (hk : Same M s0 s) (hM : 8 ||| M = M) (f : Nat) (c : Nat) :
    Same M s0 (State.showEarly s f c) := by
  unfold State.showEarly
  try dsimp only
  repeat' first
    | intro _
    | with_reducible exact hk
    | with_reducible apply State.peak_same
    | with_reducible apply State.wf_same
    | with_reducible apply ite_same
    | with_reducible refine same_snd (by assumption) ?_
    | with_reducible refine same_snd2 (by assumption) ?_
    | with_reducible assumption
    | exact sub_sub (by decide) hM
    | split
    | dsimp only

theorem State.keepEarly_same {M : Nat} {s0 s : State} (hk : Same M s0 s) (hM : 1935956606986 ||| M = M) (f : Nat) (c :
    Nat) (x : Pkt) :
    Same M s0 (State.keepEarly s f c x) := by
  unfold State.keepEarly
  try dsimp only
  repeat' first
    | intro _
    | with_reducible exact hk
    | with_reducible apply State.showEarly_same
    | with_reducible apply State.setEng_same
    | with_reducible apply State.hbmWrite_same
    | with_reducible apply State.freeBytes_same
    | with_reducible apply ite_same
    | with_reducible refine same_snd (by assumption) ?_
    | with_reducible refine same_snd2 (by assumption) ?_
    | with_reducible assumption
    | exact sub_sub (by decide) hM
    | split
    | dsimp only

theorem State.easeEarly_same {M : Nat} {s0 s : State} (hk : Same M s0 s) (hM : 1935957655562 ||| M = M) (f : Nat) :
    Same M s0 (State.easeEarly s f) := by
  unfold State.easeEarly
  try dsimp only
  repeat' first
    | intro _
    | with_reducible exact hk
    | with_reducible apply State.dropCond_same
    | with_reducible apply ite_same
    | with_reducible refine same_snd (by assumption) ?_
    | with_reducible refine same_snd2 (by assumption) ?_
    | with_reducible assumption
    | exact sub_sub (by decide) hM
    | split
    | dsimp only

theorem State.drainEarly_same {M : Nat} {s0 s : State} (hk : Same M s0 s) (hM : 1935957655562 ||| M = M) (o : ColOp) :
    Same M s0 (State.drainEarly s o) := by
  unfold State.drainEarly
  try dsimp only
  repeat' first
    | intro _
    | with_reducible exact hk
    | with_reducible apply State.showEarly_same
    | with_reducible apply State.setEng_same
    | with_reducible apply State.takePkt_same
    | with_reducible apply State.easeEarly_same
    | with_reducible refine foldl_same ?_ ?_
    | with_reducible apply ite_same
    | with_reducible refine same_snd (by assumption) ?_
    | with_reducible refine same_snd2 (by assumption) ?_
    | with_reducible assumption
    | exact sub_sub (by decide) hM
    | split
    | dsimp only

theorem State.endAtOnce_same {M : Nat} {s0 s : State} (hk : Same M s0 s) (hM : 4204304376842 ||| M = M) (o : ColOp)
    (st : Nat) :
    Same M s0 (State.endAtOnce s o st) := by
  unfold State.endAtOnce
  try dsimp only
  repeat' first
    | intro _
    | with_reducible exact hk
    | with_reducible apply State.setEng_same
    | with_reducible apply State.showOps_same
    | with_reducible apply State.drainEarly_same
    | with_reducible apply State.endOp_same
    | with_reducible apply ite_same
    | with_reducible refine same_snd (by assumption) ?_
    | with_reducible refine same_snd2 (by assumption) ?_
    | with_reducible assumption
    | exact sub_sub (by decide) hM
    | split
    | dsimp only

theorem State.acceptCol_same {M : Nat} {s0 s : State} (hk : Same M s0 s) (hM : 4204304376842 ||| M = M) (f : Nat) (c :
    Nat) (desc : Nat) (u : ColUser) (step : Nat) (bound : Bool) (host : List Byte) :
    Same M s0 (State.acceptCol s f c desc u step bound host) := by
  unfold State.acceptCol
  try dsimp only
  repeat' first
    | intro _
    | with_reducible exact hk
    | with_reducible apply State.readTables_same
    | with_reducible apply State.tellUser_same
    | with_reducible apply State.setEng_same
    | with_reducible apply State.startReduce_same
    | with_reducible apply State.showOps_same
    | with_reducible apply State.startGather_same
    | with_reducible apply State.drainEarly_same
    | with_reducible apply State.noteFail_same
    | with_reducible apply State.putStatus_same
    | with_reducible apply State.startSow_same
    | with_reducible apply State.hbmRead_same
    | with_reducible apply State.endAtOnce_same
    | with_reducible apply State.failOp_same
    | with_reducible apply ite_same
    | with_reducible refine same_snd (by assumption) ?_
    | with_reducible refine same_snd2 (by assumption) ?_
    | with_reducible assumption
    | exact sub_sub (by decide) hM
    | split
    | dsimp only

theorem State.handCol_same {M : Nat} {s0 s : State} (hk : Same M s0 s) (hM : 4204304376842 ||| M = M) (f : Nat) (c :
    Nat) (desc : Nat) (u : ColUser) (bound : Bool) (host : List Byte) :
    Same M s0 (State.handCol s f c desc u bound host) := by
  unfold State.handCol
  try dsimp only
  repeat' first
    | intro _
    | with_reducible exact hk
    | with_reducible apply State.readTables_same
    | with_reducible apply State.tellUser_same
    | with_reducible apply State.acceptCol_same
    | with_reducible apply State.setEng_same
    | with_reducible apply State.setOp_same
    | with_reducible apply ite_same
    | with_reducible refine same_snd (by assumption) ?_
    | with_reducible refine same_snd2 (by assumption) ?_
    | with_reducible assumption
    | exact sub_sub (by decide) hM
    | split
    | dsimp only

theorem State.admitCols_same {M : Nat} {s0 : State} (hM : 4204304376842 ||| M = M) (f n : Nat) :
    ∀ {s : State}, Same M s0 s → Same M s0 (State.admitCols f n s) := by
  induction n with
  | zero => exact fun h => h
  | succ n ih =>
    intro s h
    unfold State.admitCols
    dsimp only
    split
    · exact ite_same (ih (State.acceptCol_same (State.setEng_same h (sub_sub (by decide) hM) _ _) (sub_sub (by decide) hM)
        _ _ _ _ _ _ _)) h
    · exact h

theorem State.nextWaiting_same {M : Nat} {s0 s : State} (hk : Same M s0 s) (hM : 4204304376842 ||| M = M) (f : Nat) :
    Same M s0 (s.nextWaiting f) :=
  State.admitCols_same hM f _ hk

theorem State.admitAll_same {M : Nat} {s0 s : State} (hk : Same M s0 s) (hM : 4204304376842 ||| M = M) :
    Same M s0 (State.admitAll s) := by
  unfold State.admitAll
  try dsimp only
  repeat' first
    | intro _
    | with_reducible exact hk
    | with_reducible apply State.nextWaiting_same
    | with_reducible refine foldl_same ?_ ?_
    | with_reducible apply ite_same
    | with_reducible refine same_snd (by assumption) ?_
    | with_reducible refine same_snd2 (by assumption) ?_
    | with_reducible assumption
    | exact sub_sub (by decide) hM
    | split
    | dsimp only

theorem issueCol_same {M : Nat} {s0 s : State} (hk : Same M s0 s) (hM : 4204312765450 ||| M = M) (host : List Byte) (i
    : StreamId) (w : InstrWord) :
    Same M s0 (issueCol host i w s) := by
  unfold issueCol
  try dsimp only
  repeat' first
    | intro _
    | with_reducible exact hk
    | with_reducible apply State.handCol_same
    | with_reducible apply issue_same
    | with_reducible apply ite_same
    | with_reducible refine same_snd (by assumption) ?_
    | with_reducible refine same_snd2 (by assumption) ?_
    | with_reducible assumption
    | exact sub_sub (by decide) hM
    | split
    | dsimp only

theorem State.consume_same {M : Nat} {s0 s : State} (hk : Same M s0 s) (hM : 824633720832 ||| M = M) (p : Nat) (x :
    Pkt) (rest : List (Nat × Pkt)) :
    Same M s0 (State.consume s p x rest) := by
  unfold State.consume
  try dsimp only
  repeat' first
    | intro _
    | with_reducible exact hk
    | with_reducible apply State.freeRx_same
    | with_reducible apply ite_same
    | with_reducible refine same_snd (by assumption) ?_
    | with_reducible refine same_snd2 (by assumption) ?_
    | with_reducible assumption
    | exact sub_sub (by decide) hM
    | split
    | dsimp only
    | with_reducible apply same_u549755813888

theorem State.dataPkt_same {M : Nat} {s0 s t : State} (hk : Same M s0 s) (hM : 1935957655562 ||| M = M) (x : Pkt)
    (h : s.dataPkt x = some t) : Same M s0 t := by
  unfold State.dataPkt at h
  dsimp only at h
  repeat' first
    | (cases h; done)
    | cases h; first
      | exact State.discardPkt_same hk (sub_sub (by decide) hM) _ _ _
      | exact State.takePkt_same hk (sub_sub (by decide) hM) _ _
      | exact State.keepEarly_same hk (sub_sub (by decide) hM) _ _ _
    | split at h

theorem State.takeData'_same {M : Nat} {s0 s : State} (hk : Same M s0 s) (hM : 1935957655562 ||| M = M) (p ptype tc vc
    : Nat) :
    Same M s0 (s.takeData' p ptype tc vc) := by
  unfold State.takeData'
  split
  · exact hk
  · refine ite_same hk ?_
    split
    · rename_i h
      exact State.easeEarly_same (State.dataPkt_same (State.consume_same hk (sub_sub (by decide) hM) _ _ _) hM _ h)
        (sub_sub (by decide) hM) _
    · exact State.raiseCond_same hk (sub_sub (by decide) hM) _ _

theorem State.sowCut_same {M : Nat} {s0 s : State} (hk : Same M s0 s) (hM : 833223655432 ||| M = M) (x : Pkt) :
    Same M s0 (State.sowCut s x) := by
  unfold State.sowCut
  try dsimp only
  repeat' first
    | intro _
    | with_reducible exact hk
    | with_reducible apply State.sendChunk_same
    | with_reducible refine foldl_same ?_ ?_
    | with_reducible apply ite_same
    | with_reducible refine same_snd (by assumption) ?_
    | with_reducible refine same_snd2 (by assumption) ?_
    | with_reducible assumption
    | exact sub_sub (by decide) hM
    | split
    | dsimp only

theorem State.flipDue_same {M : Nat} {s0 s : State} (hk : Same M s0 s) (hM : 1073741824 ||| M = M) (r : Region) (step
    : Nat) :
    Same M s0 (State.flipDue s r step) := by
  unfold State.flipDue
  try dsimp only
  repeat' first
    | intro _
    | with_reducible exact hk
    | with_reducible apply State.setRegion_same
    | with_reducible refine foldl_same ?_ ?_
    | with_reducible apply ite_same
    | with_reducible refine same_snd (by assumption) ?_
    | with_reducible refine same_snd2 (by assumption) ?_
    | with_reducible assumption
    | exact sub_sub (by decide) hM
    | split
    | dsimp only

theorem State.mirrorIn_same {M : Nat} {s0 s : State} (hk : Same M s0 s) (hM : 824633720832 ||| M = M) (p : Nat) (vc :
    Nat) (k : Nat) (act : Pkt → State → State) (hact : ∀ x t, Same M s0 t → Same M s0 (act x t)) :
    Same M s0 (State.mirrorIn s p vc k act) := by
  unfold State.mirrorIn
  try dsimp only
  repeat' first
    | intro _
    | with_reducible exact hk
    | with_reducible apply State.consume_same
    | with_reducible apply hact
    | with_reducible apply ite_same
    | with_reducible refine same_snd (by assumption) ?_
    | with_reducible refine same_snd2 (by assumption) ?_
    | with_reducible assumption
    | exact sub_sub (by decide) hM
    | split
    | dsimp only

theorem State.failMirror_same {M : Nat} {s0 s : State} (hk : Same M s0 s) (hM : 9663676424 ||| M = M) (i : Nat) :
    Same M s0 (State.failMirror s i) := by
  unfold State.failMirror
  try dsimp only
  repeat' first
    | intro _
    | with_reducible exact hk
    | with_reducible apply State.bump_same
    | with_reducible apply State.setRegion_same
    | with_reducible apply State.blockCause_same
    | with_reducible apply State.raiseFor_same
    | with_reducible apply ite_same
    | with_reducible refine same_snd (by assumption) ?_
    | with_reducible refine same_snd2 (by assumption) ?_
    | with_reducible assumption
    | exact sub_sub (by decide) hM
    | split
    | dsimp only

theorem State.mirrorBegins_same {M : Nat} {s0 s : State} (hk : Same M s0 s) (hM : 834297397256 ||| M = M) (c : Nat) :
    Same M s0 (State.mirrorBegins s c) := by
  unfold State.mirrorBegins
  try dsimp only
  repeat' first
    | intro _
    | with_reducible exact hk
    | with_reducible apply State.setRegion_same
    | with_reducible apply State.sendPkt_same
    | with_reducible refine foldl_same ?_ ?_
    | with_reducible apply ite_same
    | with_reducible refine same_snd (by assumption) ?_
    | with_reducible refine same_snd2 (by assumption) ?_
    | with_reducible assumption
    | exact sub_sub (by decide) hM
    | split
    | dsimp only

theorem State.tableWrite_same {M : Nat} {s0 s : State} (hk : Same M s0 s) (hM : 836444979208 ||| M = M) (c : Nat) (a :
    Nat) (b : List Byte) :
    Same M s0 (State.tableWrite s c a b) := by
  unfold State.tableWrite
  try dsimp only
  repeat' first
    | intro _
    | with_reducible exact hk
    | with_reducible apply State.hbmWrite_same
    | with_reducible apply ite_same
    | with_reducible refine same_snd (by assumption) ?_
    | with_reducible refine same_snd2 (by assumption) ?_
    | with_reducible assumption
    | exact sub_sub (by decide) hM
    | split
    | dsimp only

theorem State.writeTables_same {M : Nat} {s0 s : State} (hk : Same M s0 s) (hM : 836444979208 ||| M = M) (c : Nat)
    (step : Nat) (a : Admission) :
    Same M s0 (State.writeTables s c step a) := by
  unfold State.writeTables
  try dsimp only
  repeat' first
    | intro _
    | with_reducible exact hk
    | with_reducible apply State.tableWrite_same
    | with_reducible apply ite_same
    | with_reducible refine same_snd (by assumption) ?_
    | with_reducible refine same_snd2 (by assumption) ?_
    | with_reducible assumption
    | exact sub_sub (by decide) hM
    | split
    | dsimp only

theorem State.writeShort_same {M : Nat} {s0 s : State} (hk : Same M s0 s) (hM : 836444979208 ||| M = M) (c : Nat)
    (step : Nat) (a : Admission) (l : List (Nat × Nat × Nat)) :
    Same M s0 (State.writeShort s c step a l) := by
  unfold State.writeShort
  try dsimp only
  repeat' first
    | intro _
    | with_reducible exact hk
    | with_reducible apply State.tableWrite_same
    | with_reducible apply State.wf_same
    | with_reducible apply State.bump_same
    | with_reducible apply ite_same
    | with_reducible refine same_snd (by assumption) ?_
    | with_reducible refine same_snd2 (by assumption) ?_
    | with_reducible assumption
    | exact sub_sub (by decide) hM
    | split
    | dsimp only

theorem State.showServ_same {M : Nat} {s0 s : State} (hk : Same M s0 s) (hM : 8 ||| M = M) (c : Nat) :
    Same M s0 (State.showServ s c) := by
  unfold State.showServ
  try dsimp only
  repeat' first
    | intro _
    | with_reducible exact hk
    | with_reducible apply State.wf_same
    | with_reducible refine foldl_same ?_ ?_
    | with_reducible apply ite_same
    | with_reducible refine same_snd (by assumption) ?_
    | with_reducible refine same_snd2 (by assumption) ?_
    | with_reducible assumption
    | exact sub_sub (by decide) hM
    | split
    | dsimp only

theorem State.enterSwap_same {M : Nat} {s0 s : State} (hk : Same M s0 s) (hM : 3298534892552 ||| M = M) (c : Nat) (st
    : Nat) :
    Same M s0 (State.enterSwap s c st) := by
  unfold State.enterSwap
  try dsimp only
  repeat' first
    | intro _
    | with_reducible exact hk
    | with_reducible apply State.setSrv_same
    | with_reducible apply State.wf_same
    | with_reducible apply State.ctxEvent_same
    | with_reducible apply ite_same
    | with_reducible refine same_snd (by assumption) ?_
    | with_reducible refine same_snd2 (by assumption) ?_
    | with_reducible assumption
    | exact sub_sub (by decide) hM
    | split
    | dsimp only
    | with_reducible apply same_u1099511627776

theorem State.swapAtBoundary_same {M : Nat} {s0 s : State} (hk : Same M s0 s) (hM : 3298534892552 ||| M = M) (c : Nat) :
    Same M s0 (State.swapAtBoundary s c) := by
  unfold State.swapAtBoundary
  try dsimp only
  repeat' first
    | intro _
    | with_reducible exact hk
    | with_reducible apply State.enterSwap_same
    | with_reducible apply ite_same
    | with_reducible refine same_snd (by assumption) ?_
    | with_reducible refine same_snd2 (by assumption) ?_
    | with_reducible assumption
    | exact sub_sub (by decide) hM
    | split
    | dsimp only

theorem State.servBegin_same {M : Nat} {s0 s : State} (hk : Same M s0 s) (hM : 3035468234760 ||| M = M) (c : Nat)
    (step : Nat) (a : Admission) :
    Same M s0 (State.servBegin s c step a) := by
  unfold State.servBegin
  try dsimp only
  repeat' first
    | intro _
    | with_reducible exact hk
    | with_reducible apply State.setSrv_same
    | with_reducible apply State.writeTables_same
    | with_reducible apply State.wf_same
    | with_reducible apply ite_same
    | with_reducible refine same_snd (by assumption) ?_
    | with_reducible refine same_snd2 (by assumption) ?_
    | with_reducible assumption
    | exact sub_sub (by decide) hM
    | split
    | dsimp only

theorem State.servCommit_same {M : Nat} {s0 s : State} (hk : Same M s0 s) (hM : 3367254369288 ||| M = M) (c : Nat) :
    Same M s0 (State.servCommit s c) := by
  unfold State.servCommit
  try dsimp only
  repeat' first
    | intro _
    | with_reducible exact hk
    | with_reducible apply State.setSrv_same
    | with_reducible apply State.swapAtBoundary_same
    | with_reducible apply State.bump_same
    | with_reducible apply State.finishCmd_same
    | with_reducible apply State.showServ_same
    | with_reducible refine foldl_same ?_ ?_
    | with_reducible apply ite_same
    | with_reducible refine same_snd (by assumption) ?_
    | with_reducible refine same_snd2 (by assumption) ?_
    | with_reducible assumption
    | exact sub_sub (by decide) hM
    | split
    | dsimp only

theorem State.servAbort_same {M : Nat} {s0 s : State} (hk : Same M s0 s) (hM : 3298534892552 ||| M = M) (c : Nat) :
    Same M s0 (State.servAbort s c) := by
  unfold State.servAbort
  try dsimp only
  repeat' first
    | intro _
    | with_reducible exact hk
    | with_reducible apply State.setSrv_same
    | with_reducible apply State.swapAtBoundary_same
    | with_reducible apply State.showServ_same
    | with_reducible apply ite_same
    | with_reducible refine same_snd (by assumption) ?_
    | with_reducible refine same_snd2 (by assumption) ?_
    | with_reducible assumption
    | exact sub_sub (by decide) hM
    | split
    | dsimp only

theorem State.servLose_same {M : Nat} {s0 s : State} (hk : Same M s0 s) (hM : 3298534892552 ||| M = M) (c : Nat) (f : Nat) :
    Same M s0 (State.servLose s c f) := by
  unfold State.servLose
  try dsimp only
  repeat' first
    | intro _
    | with_reducible exact hk
    | with_reducible apply State.setSrv_same
    | with_reducible apply State.swapAtBoundary_same
    | with_reducible apply State.wf_same
    | with_reducible apply State.bump_same
    | with_reducible apply State.showServ_same
    | with_reducible apply ite_same
    | with_reducible refine same_snd (by assumption) ?_
    | with_reducible refine same_snd2 (by assumption) ?_
    | with_reducible assumption
    | exact sub_sub (by decide) hM
    | split
    | dsimp only

theorem State.queueError_same {M : Nat} {s0 s : State} (hk : Same M s0 s) (hM : 8589934600 ||| M = M) (q : Nat) (cause
    : Nat) :
    Same M s0 (State.queueError s q cause) := by
  unfold State.queueError
  try dsimp only
  repeat' first
    | intro _
    | with_reducible exact hk
    | with_reducible apply State.wf_same
    | with_reducible apply State.raiseFor_same
    | with_reducible apply ite_same
    | with_reducible refine same_snd (by assumption) ?_
    | with_reducible refine same_snd2 (by assumption) ?_
    | with_reducible assumption
    | exact sub_sub (by decide) hM
    | split
    | dsimp only

theorem State.writeCpl_same {M : Nat} {s0 s : State} (hk : Same M s0 s) (hM : 905164465672 ||| M = M) (q : Nat) (ok : Bool) :
    Same M s0 (State.writeCpl s q ok) := by
  unfold State.writeCpl
  try dsimp only
  repeat' first
    | intro _
    | with_reducible exact hk
    | with_reducible apply State.sendMsg_same
    | with_reducible apply State.hostWrite_same
    | with_reducible apply State.setQueue_same
    | with_reducible apply State.hbmWrite_same
    | with_reducible apply State.wf_same
    | with_reducible apply State.queueError_same
    | with_reducible apply ite_same
    | with_reducible refine same_snd (by assumption) ?_
    | with_reducible refine same_snd2 (by assumption) ?_
    | with_reducible assumption
    | exact sub_sub (by decide) hM
    | split
    | dsimp only

theorem State.flushFuel_same {M : Nat} {s0 : State} (hM : 905164465672 ||| M = M) (q n : Nat) :
    ∀ {s : State}, Same M s0 s → Same M s0 (s.flushFuel q n) := by
  induction n with
  | zero => exact fun h => h
  | succ n ih => exact fun h => ite_same (ih (State.writeCpl_same h (sub_sub (by decide) hM) q true)) h

theorem State.flushQueue_same {M : Nat} {s0 s : State} (hk : Same M s0 s) (hM : 905164465672 ||| M = M) (q : Nat) :
    Same M s0 (s.flushQueue q) :=
  ite_same (State.flushFuel_same hM q _ hk) hk

theorem State.passStart_same {M : Nat} {s0 s : State} (hk : Same M s0 s) (hM : 68719476744 ||| M = M) (q : Nat) (c : QCmd) :
    Same M s0 (State.passStart s q c) := by
  unfold State.passStart
  try dsimp only
  repeat' first
    | intro _
    | with_reducible exact hk
    | with_reducible apply State.setQueue_same
    | with_reducible apply State.wf_same
    | with_reducible apply ite_same
    | with_reducible refine same_snd (by assumption) ?_
    | with_reducible refine same_snd2 (by assumption) ?_
    | with_reducible assumption
    | exact sub_sub (by decide) hM
    | split
    | dsimp only

theorem State.passDead_same {M : Nat} {s0 : State} (hM : 68719476744 ||| M = M) (q n : Nat) :
    ∀ {s : State}, Same M s0 s → Same M s0 (s.passDead q n) := by
  induction n with
  | zero => exact fun h => h
  | succ n ih =>
    intro s h
    unfold State.passDead
    dsimp only
    split
    · exact ite_same h (ih (State.passStart_same (State.setQueue_same h (sub_sub (by decide) hM) _ _) (sub_sub (by
        decide) hM) _ _))
    · exact h

theorem State.releaseCmds_same {M : Nat} {s0 s : State} (hk : Same M s0 s) (hM : 905164465672 ||| M = M) (c : Nat) :
    Same M s0 (State.releaseCmds s c) := by
  unfold State.releaseCmds
  try dsimp only
  repeat' first
    | intro _
    | with_reducible exact hk
    | with_reducible apply State.flushQueue_same
    | with_reducible apply State.setQueue_same
    | with_reducible refine foldl_same ?_ ?_
    | with_reducible apply ite_same
    | with_reducible refine same_snd (by assumption) ?_
    | with_reducible refine same_snd2 (by assumption) ?_
    | with_reducible assumption
    | exact sub_sub (by decide) hM
    | split
    | dsimp only

theorem State.abortQueue_same {M : Nat} {s0 s : State} (hk : Same M s0 s) (hM : 905164465672 ||| M = M) (rings :
    Rings) (n q : Nat) :
    Same M s0 (s.abortQueue rings n q) :=
  State.flushQueue_same (State.passDead_same (sub_sub (by decide) hM) q _
    (State.setQueue_same hk (sub_sub (by decide) hM) _ _)) (sub_sub (by decide) hM) q

theorem State.abortCmds_same {M : Nat} {s0 s : State} (hk : Same M s0 s) (hM : 1042603419144 ||| M = M) (rings :
    Rings) (c : Nat) :
    Same M s0 (State.abortCmds s rings c) := by
  unfold State.abortCmds
  try dsimp only
  repeat' first
    | intro _
    | with_reducible exact hk
    | with_reducible apply State.abortQueue_same
    | with_reducible refine foldl_same ?_ ?_
    | with_reducible apply ite_same
    | with_reducible refine same_snd (by assumption) ?_
    | with_reducible refine same_snd2 (by assumption) ?_
    | with_reducible assumption
    | exact sub_sub (by decide) hM
    | split
    | dsimp only
    | with_reducible apply same_u137438953472

theorem State.clearLoss_same {M : Nat} {s0 s : State} (hk : Same M s0 s) (hM : 536870920 ||| M = M) (c : Nat) :
    Same M s0 (State.clearLoss s c) := by
  unfold State.clearLoss
  try dsimp only
  repeat' first
    | intro _
    | with_reducible exact hk
    | with_reducible apply State.setReg_same
    | with_reducible apply State.wf_same
    | with_reducible apply State.setCtx_same
    | with_reducible apply ite_same
    | with_reducible refine same_snd (by assumption) ?_
    | with_reducible refine same_snd2 (by assumption) ?_
    | with_reducible assumption
    | exact sub_sub (by decide) hM
    | split
    | dsimp only

theorem State.lossFold_same {M : Nat} {s0 s : State} (hk : Same M s0 s) (hM : 536870920 ||| M = M) (c : Nat) :
    Same M s0 (State.lossFold s c) := by
  unfold State.lossFold
  try dsimp only
  repeat' first
    | intro _
    | with_reducible exact hk
    | with_reducible apply State.setReg_same
    | with_reducible apply State.wf_same
    | with_reducible apply State.setCtx_same
    | with_reducible apply ite_same
    | with_reducible refine same_snd (by assumption) ?_
    | with_reducible refine same_snd2 (by assumption) ?_
    | with_reducible assumption
    | exact sub_sub (by decide) hM
    | split
    | dsimp only

theorem State.lossUnfold_same {M : Nat} {s0 s : State} (hk : Same M s0 s) (hM : 8 ||| M = M) (c : Nat) :
    Same M s0 (State.lossUnfold s c) := by
  unfold State.lossUnfold
  try dsimp only
  repeat' first
    | intro _
    | with_reducible exact hk
    | with_reducible apply State.setReg_same
    | with_reducible apply State.wf_same
    | with_reducible apply ite_same
    | with_reducible refine same_snd (by assumption) ?_
    | with_reducible refine same_snd2 (by assumption) ?_
    | with_reducible assumption
    | exact sub_sub (by decide) hM
    | split
    | dsimp only

theorem State.toggleOwn_same {M : Nat} {s0 s : State} (hk : Same M s0 s) (hM : 1073741824 ||| M = M) (c : Nat) :
    Same M s0 (State.toggleOwn s c) := by
  unfold State.toggleOwn
  try dsimp only
  repeat' first
    | intro _
    | with_reducible exact hk
    | with_reducible apply ite_same
    | with_reducible refine same_snd (by assumption) ?_
    | with_reducible refine same_snd2 (by assumption) ?_
    | with_reducible assumption
    | exact sub_sub (by decide) hM
    | split
    | dsimp only
    | with_reducible apply same_u1073741824

theorem State.clearCover_same {M : Nat} {s0 s : State} (hk : Same M s0 s) (hM : 2147483648 ||| M = M) (r : Region) :
    Same M s0 (State.clearCover s r) := by
  unfold State.clearCover
  try dsimp only
  repeat' first
    | intro _
    | with_reducible exact hk
    | with_reducible apply ite_same
    | with_reducible refine same_snd (by assumption) ?_
    | with_reducible refine same_snd2 (by assumption) ?_
    | with_reducible assumption
    | exact sub_sub (by decide) hM
    | split
    | dsimp only
    | with_reducible apply same_u2147483648

theorem State.clearCovers_same {M : Nat} {s0 s : State} (hk : Same M s0 s) (hM : 2147483648 ||| M = M) (c : Nat) :
    Same M s0 (State.clearCovers s c) := by
  unfold State.clearCovers
  try dsimp only
  repeat' first
    | intro _
    | with_reducible exact hk
    | with_reducible apply State.clearCover_same
    | with_reducible refine foldl_same ?_ ?_
    | with_reducible apply ite_same
    | with_reducible refine same_snd (by assumption) ?_
    | with_reducible refine same_snd2 (by assumption) ?_
    | with_reducible assumption
    | exact sub_sub (by decide) hM
    | split
    | dsimp only

theorem State.sendToken_same {M : Nat} {s0 s : State} (hk : Same M s0 s) (hM : 833223655432 ||| M = M) (c : Nat) (dev
    : Nat) (dctx : Nat) (kind : Nat) (gid : Nat) (step : Nat) :
    Same M s0 (State.sendToken s c dev dctx kind gid step) := by
  unfold State.sendToken
  try dsimp only
  repeat' first
    | intro _
    | with_reducible exact hk
    | with_reducible apply State.sendPkt_same
    | with_reducible apply ite_same
    | with_reducible refine same_snd (by assumption) ?_
    | with_reducible refine same_snd2 (by assumption) ?_
    | with_reducible assumption
    | exact sub_sub (by decide) hM
    | split
    | dsimp only

theorem State.tellChildren_same {M : Nat} {s0 s : State} (hk : Same M s0 s) (hM : 833223655432 ||| M = M) (c : Nat)
    (kind : Nat) (step : Nat) :
    Same M s0 (State.tellChildren s c kind step) := by
  unfold State.tellChildren
  try dsimp only
  repeat' first
    | intro _
    | with_reducible exact hk
    | with_reducible apply State.sendToken_same
    | with_reducible refine foldl_same ?_ ?_
    | with_reducible apply ite_same
    | with_reducible refine same_snd (by assumption) ?_
    | with_reducible refine same_snd2 (by assumption) ?_
    | with_reducible assumption
    | exact sub_sub (by decide) hM
    | split
    | dsimp only

theorem State.tellMirrors_same {M : Nat} {s0 s : State} (hk : Same M s0 s) (hM : 833223655432 ||| M = M) (c : Nat)
    (kind : Nat) (step : Nat) :
    Same M s0 (State.tellMirrors s c kind step) := by
  unfold State.tellMirrors
  try dsimp only
  repeat' first
    | intro _
    | with_reducible exact hk
    | with_reducible apply State.sendToken_same
    | with_reducible refine foldl_same ?_ ?_
    | with_reducible apply ite_same
    | with_reducible refine same_snd (by assumption) ?_
    | with_reducible refine same_snd2 (by assumption) ?_
    | with_reducible assumption
    | exact sub_sub (by decide) hM
    | split
    | dsimp only

theorem State.latchGroup_same {M : Nat} {s0 s : State} (hk : Same M s0 s) (hM : 9126805512 ||| M = M) (c : Nat) :
    Same M s0 (State.latchGroup s c) := by
  unfold State.latchGroup
  try dsimp only
  repeat' first
    | intro _
    | with_reducible exact hk
    | with_reducible apply State.setCtx_same
    | with_reducible apply State.hbmRead_same
    | with_reducible apply ite_same
    | with_reducible refine same_snd (by assumption) ?_
    | with_reducible refine same_snd2 (by assumption) ?_
    | with_reducible assumption
    | exact sub_sub (by decide) hM
    | split
    | dsimp only

theorem State.commitStep_same {M : Nat} {s0 s : State} (hk : Same M s0 s) (hM : 4204236219912 ||| M = M) (c : Nat) :
    Same M s0 (State.commitStep s c) := by
  unfold State.commitStep
  try dsimp only
  repeat' first
    | intro _
    | with_reducible exact hk
    | with_reducible apply State.flushQueue_same
    | with_reducible apply State.releaseCmds_same
    | with_reducible apply State.wf_same
    | with_reducible apply State.bump_same
    | with_reducible apply State.tellChildren_same
    | with_reducible apply State.setCtx_same
    | with_reducible apply State.lossFold_same
    | with_reducible apply State.servCommit_same
    | with_reducible apply State.tellMirrors_same
    | with_reducible apply State.toggleOwn_same
    | with_reducible refine foldl_same ?_ ?_
    | with_reducible apply ite_same
    | with_reducible refine same_snd (by assumption) ?_
    | with_reducible refine same_snd2 (by assumption) ?_
    | with_reducible assumption
    | exact sub_sub (by decide) hM
    | split
    | dsimp only

theorem State.subtreeReady_same {M : Nat} {s0 s : State} (hk : Same M s0 s) (hM : 4204236219912 ||| M = M) (c : Nat) :
    Same M s0 (State.subtreeReady s c) := by
  unfold State.subtreeReady
  try dsimp only
  repeat' first
    | intro _
    | with_reducible exact hk
    | with_reducible apply State.commitStep_same
    | with_reducible apply State.wf_same
    | with_reducible apply State.sendToken_same
    | with_reducible apply State.ctxEvent_same
    | with_reducible apply ite_same
    | with_reducible refine same_snd (by assumption) ?_
    | with_reducible refine same_snd2 (by assumption) ?_
    | with_reducible assumption
    | exact sub_sub (by decide) hM
    | split
    | dsimp only

theorem State.undefOnChip_same {M : Nat} {s0 s : State} (hk : Same M s0 s) (hM : 6815746 ||| M = M) (c : Nat) :
    Same M s0 (State.undefOnChip s c) := by
  unfold State.undefOnChip
  try dsimp only
  repeat' first
    | intro _
    | with_reducible exact hk
    | with_reducible apply State.setFur_same
    | with_reducible apply State.fresh_same
    | with_reducible refine foldl_same ?_ ?_
    | with_reducible apply ite_same
    | with_reducible refine same_snd (by assumption) ?_
    | with_reducible refine same_snd2 (by assumption) ?_
    | with_reducible assumption
    | exact sub_sub (by decide) hM
    | split
    | dsimp only
    | with_reducible apply same_u524288
    | with_reducible apply same_u2097152
    | with_reducible apply same_u2621440

theorem State.idleStream_same {M : Nat} {s0 s : State} (hk : Same M s0 s) (hM : 4303355904 ||| M = M) (p : At) :
    Same M s0 (State.idleStream s p) := by
  unfold State.idleStream
  try dsimp only
  repeat' first
    | intro _
    | with_reducible exact hk
    | with_reducible apply State.endFence_same
    | with_reducible apply State.setSt_same
    | with_reducible apply ite_same
    | with_reducible refine same_snd (by assumption) ?_
    | with_reducible refine same_snd2 (by assumption) ?_
    | with_reducible assumption
    | exact sub_sub (by decide) hM
    | split
    | dsimp only

theorem State.stopWork_same {M : Nat} {s0 s : State} (hk : Same M s0 s) (hM : 4209064911882 ||| M = M) (c : Nat) :
    Same M s0 (State.stopWork s c) := by
  unfold State.stopWork
  try dsimp only
  repeat' first
    | intro _
    | with_reducible exact hk
    | with_reducible apply State.nextWaiting_same
    | with_reducible apply State.showOps_same
    | with_reducible apply State.idleStream_same
    | with_reducible apply State.feedDma_same
    | with_reducible refine foldl_same ?_ ?_
    | with_reducible apply ite_same
    | with_reducible refine same_snd (by assumption) ?_
    | with_reducible refine same_snd2 (by assumption) ?_
    | with_reducible assumption
    | exact sub_sub (by decide) hM
    | split
    | dsimp only
    | with_reducible apply same_u1099968806912

theorem State.abandonStep_same {M : Nat} {s0 s : State} (hk : Same M s0 s) (hM : 4346506487306 ||| M = M) (rings :
    Rings) (c : Nat) :
    Same M s0 (State.abandonStep s rings c) := by
  unfold State.abandonStep
  try dsimp only
  repeat' first
    | intro _
    | with_reducible exact hk
    | with_reducible apply State.abortCmds_same
    | with_reducible apply State.clearCovers_same
    | with_reducible apply State.wf_same
    | with_reducible apply State.stopWork_same
    | with_reducible apply State.setCtx_same
    | with_reducible apply State.undefOnChip_same
    | with_reducible apply ite_same
    | with_reducible refine same_snd (by assumption) ?_
    | with_reducible refine same_snd2 (by assumption) ?_
    | with_reducible assumption
    | exact sub_sub (by decide) hM
    | split
    | dsimp only

theorem State.abortStep_same {M : Nat} {s0 s : State} (hk : Same M s0 s) (hM : 4346506487306 ||| M = M) (rings :
    Rings) (c : Nat) (tree : Bool) :
    Same M s0 (State.abortStep s rings c tree) := by
  unfold State.abortStep
  try dsimp only
  repeat' first
    | intro _
    | with_reducible exact hk
    | with_reducible apply State.wf_same
    | with_reducible apply State.bump_same
    | with_reducible apply State.tellChildren_same
    | with_reducible apply State.setCtx_same
    | with_reducible apply State.abandonStep_same
    | with_reducible apply State.servAbort_same
    | with_reducible apply ite_same
    | with_reducible refine same_snd (by assumption) ?_
    | with_reducible refine same_snd2 (by assumption) ?_
    | with_reducible assumption
    | exact sub_sub (by decide) hM
    | split
    | dsimp only

theorem State.rollbackStep_same {M : Nat} {s0 s : State} (hk : Same M s0 s) (hM : 834297397256 ||| M = M) (c : Nat) :
    Same M s0 (State.rollbackStep s c) := by
  unfold State.rollbackStep
  try dsimp only
  repeat' first
    | intro _
    | with_reducible exact hk
    | with_reducible apply State.lossUnfold_same
    | with_reducible apply State.wf_same
    | with_reducible apply State.tellMirrors_same
    | with_reducible apply State.toggleOwn_same
    | with_reducible apply ite_same
    | with_reducible refine same_snd (by assumption) ?_
    | with_reducible refine same_snd2 (by assumption) ?_
    | with_reducible assumption
    | exact sub_sub (by decide) hM
    | split
    | dsimp only

theorem State.adoptStep_same {M : Nat} {s0 s : State} (hk : Same M s0 s) (hM : 3299608634376 ||| M = M) (c : Nat) (n : Nat) :
    Same M s0 (State.adoptStep s c n) := by
  unfold State.adoptStep
  try dsimp only
  repeat' first
    | intro _
    | with_reducible exact hk
    | with_reducible apply State.swapAtBoundary_same
    | with_reducible apply State.wf_same
    | with_reducible apply State.toggleOwn_same
    | with_reducible apply ite_same
    | with_reducible refine same_snd (by assumption) ?_
    | with_reducible refine same_snd2 (by assumption) ?_
    | with_reducible assumption
    | exact sub_sub (by decide) hM
    | split
    | dsimp only

theorem State.beginFields_same {M : Nat} {s0 s : State} (hk : Same M s0 s) (hM : 201326600 ||| M = M) (c : Nat) :
    Same M s0 (State.beginFields s c) := by
  unfold State.beginFields
  try dsimp only
  repeat' first
    | intro _
    | with_reducible exact hk
    | with_reducible apply State.wf_same
    | with_reducible refine foldl_same ?_ ?_
    | with_reducible apply ite_same
    | with_reducible refine same_snd (by assumption) ?_
    | with_reducible refine same_snd2 (by assumption) ?_
    | with_reducible assumption
    | exact sub_sub (by decide) hM
    | split
    | dsimp only
    | with_reducible apply same_u201326592

theorem State.beginEngines_same {M : Nat} {s0 s : State} (hk : Same M s0 s) (hM : 4204304376842 ||| M = M) (c : Nat) :
    Same M s0 (State.beginEngines s c) := by
  unfold State.beginEngines
  try dsimp only
  repeat' first
    | intro _
    | with_reducible exact hk
    | with_reducible apply State.showEarly_same
    | with_reducible apply State.nextWaiting_same
    | with_reducible apply State.setEng_same
    | with_reducible apply State.showOps_same
    | with_reducible apply State.easeEarly_same
    | with_reducible apply State.discardPkt_same
    | with_reducible refine foldl_same ?_ ?_
    | with_reducible apply ite_same
    | with_reducible refine same_snd (by assumption) ?_
    | with_reducible refine same_snd2 (by assumption) ?_
    | with_reducible assumption
    | exact sub_sub (by decide) hM
    | split
    | dsimp only

theorem State.dropToken_same {M : Nat} {s0 s : State} (hk : Same M s0 s) (hM : 8589934600 ||| M = M) (t : Token)
    (cause : Nat) :
    Same M s0 (State.dropToken s t cause) := by
  unfold State.dropToken
  try dsimp only
  repeat' first
    | intro _
    | with_reducible exact hk
    | with_reducible apply State.raiseSrc_same
    | with_reducible apply State.wf_same
    | with_reducible apply State.bump_same
    | with_reducible apply ite_same
    | with_reducible refine same_snd (by assumption) ?_
    | with_reducible refine same_snd2 (by assumption) ?_
    | with_reducible assumption
    | exact sub_sub (by decide) hM
    | split
    | dsimp only

theorem State.markChild_same {M : Nat} {s0 s : State} (hk : Same M s0 s) (hM : 8 ||| M = M) (c : Nat) (t : Token) :
    Same M s0 (State.markChild s c t) := by
  unfold State.markChild
  try dsimp only
  repeat' first
    | intro _
    | with_reducible exact hk
    | with_reducible apply State.wf_same
    | with_reducible apply ite_same
    | with_reducible refine same_snd (by assumption) ?_
    | with_reducible refine same_snd2 (by assumption) ?_
    | with_reducible assumption
    | exact sub_sub (by decide) hM
    | split
    | dsimp only

theorem State.takeHeld_same {M : Nat} {s0 s : State} (hk : Same M s0 s) (hM : 9126805512 ||| M = M) (c : Nat) :
    Same M s0 (State.takeHeld s c) := by
  unfold State.takeHeld
  try dsimp only
  repeat' first
    | intro _
    | with_reducible exact hk
    | with_reducible apply State.markChild_same
    | with_reducible apply State.dropToken_same
    | with_reducible apply State.setCtx_same
    | with_reducible refine foldl_same ?_ ?_
    | with_reducible apply ite_same
    | with_reducible refine same_snd (by assumption) ?_
    | with_reducible refine same_snd2 (by assumption) ?_
    | with_reducible assumption
    | exact sub_sub (by decide) hM
    | split
    | dsimp only

theorem State.beginStreams_same {M : Nat} {s0 s : State} (hk : Same M s0 s) (hM : 8388608 ||| M = M) (c : Nat) :
    Same M s0 (State.beginStreams s c) := by
  unfold State.beginStreams
  try dsimp only
  repeat' first
    | intro _
    | with_reducible exact hk
    | with_reducible apply State.setSt_same
    | with_reducible refine foldl_same ?_ ?_
    | with_reducible apply ite_same
    | with_reducible refine same_snd (by assumption) ?_
    | with_reducible refine same_snd2 (by assumption) ?_
    | with_reducible assumption
    | exact sub_sub (by decide) hM
    | split
    | dsimp only

theorem State.beginStep_same {M : Nat} {s0 s : State} (hk : Same M s0 s) (hM : 4204446983178 ||| M = M) (c : Nat) (n :
    Nat) (mode : Nat) :
    Same M s0 (State.beginStep s c n mode) := by
  unfold State.beginStep
  try dsimp only
  repeat' first
    | intro _
    | with_reducible exact hk
    | with_reducible apply State.beginFields_same
    | with_reducible apply State.arrive_same
    | with_reducible apply State.clearCovers_same
    | with_reducible apply State.latchGroup_same
    | with_reducible apply State.beginEngines_same
    | with_reducible apply State.takeHeld_same
    | with_reducible apply State.clearLoss_same
    | with_reducible apply State.wf_same
    | with_reducible apply State.setCtx_same
    | with_reducible apply State.mirrorBegins_same
    | with_reducible apply State.beginStreams_same
    | with_reducible apply State.blockCause_same
    | with_reducible apply ite_same
    | with_reducible refine same_snd (by assumption) ?_
    | with_reducible refine same_snd2 (by assumption) ?_
    | with_reducible assumption
    | exact sub_sub (by decide) hM
    | split
    | dsimp only

theorem State.takeToken_same {M : Nat} {s0 s : State} (hk : Same M s0 s) (hM : 833223655432 ||| M = M) (p : Nat) (vc :
    Nat) (k : Nat) (act : Token → State → State) (hact : ∀ x t, Same M s0 t → Same M s0 (act x t)) :
    Same M s0 (State.takeToken s p vc k act) := by
  unfold State.takeToken
  try dsimp only
  repeat' first
    | intro _
    | with_reducible exact hk
    | with_reducible apply State.consume_same
    | with_reducible apply State.dropToken_same
    | with_reducible apply hact
    | with_reducible apply ite_same
    | with_reducible refine same_snd (by assumption) ?_
    | with_reducible refine same_snd2 (by assumption) ?_
    | with_reducible assumption
    | exact sub_sub (by decide) hM
    | split
    | dsimp only

theorem State.stopCmd_same {M : Nat} {s0 s : State} (hk : Same M s0 s) (hM : 68719476744 ||| M = M) (q : Nat) (w :
    CmdWord) (status : Nat) (detail : Nat) :
    Same M s0 (State.stopCmd s q w status detail) := by
  unfold State.stopCmd
  try dsimp only
  repeat' first
    | intro _
    | with_reducible exact hk
    | with_reducible apply State.passStart_same
    | with_reducible apply ite_same
    | with_reducible refine same_snd (by assumption) ?_
    | with_reducible refine same_snd2 (by assumption) ?_
    | with_reducible assumption
    | exact sub_sub (by decide) hM
    | split
    | dsimp only

theorem State.readCmd_same {M : Nat} {s0 s : State} (hk : Same M s0 s) (hM : 8589934600 ||| M = M) (q : Nat) (ring :
    Option CmdWord) :
    Same M s0 (State.readCmd s q ring).2 := by
  unfold State.readCmd
  try dsimp only
  repeat' first
    | intro _
    | with_reducible exact hk
    | with_reducible apply State.hbmRead_same
    | with_reducible apply ite_same
    | with_reducible refine same_snd (by assumption) ?_
    | with_reducible refine same_snd2 (by assumption) ?_
    | with_reducible assumption
    | exact sub_sub (by decide) hM
    | split
    | dsimp only

theorem State.countJob_same {M : Nat} {s0 s : State} (hk : Same M s0 s) (hM : 8 ||| M = M) (u : Nat) :
    Same M s0 (State.countJob s u) := by
  unfold State.countJob
  try dsimp only
  repeat' first
    | intro _
    | with_reducible exact hk
    | with_reducible apply State.wf_same
    | with_reducible apply ite_same
    | with_reducible refine same_snd (by assumption) ?_
    | with_reducible refine same_snd2 (by assumption) ?_
    | with_reducible assumption
    | exact sub_sub (by decide) hM
    | split
    | dsimp only

theorem State.unstartInvalid_same {M : Nat} {s0 s : State} (hk : Same M s0 s) (hM : 68719476736 ||| M = M) (q : Nat)
    (seq : Nat) :
    Same M s0 (State.unstartInvalid s q seq) := by
  unfold State.unstartInvalid
  try dsimp only
  repeat' first
    | intro _
    | with_reducible exact hk
    | with_reducible apply State.setCmd_same
    | with_reducible apply ite_same
    | with_reducible refine same_snd (by assumption) ?_
    | with_reducible refine same_snd2 (by assumption) ?_
    | with_reducible assumption
    | exact sub_sub (by decide) hM
    | split
    | dsimp only

theorem State.launchCmd_same {M : Nat} {s0 s : State} (hk : Same M s0 s) (hM : 68719476744 ||| M = M) (q : Nat) (w :
    CmdWord) (f : State → State) (hf : ∀ t, Same M s0 t → Same M s0 (f t)) :
    Same M s0 (State.launchCmd s q w f) := by
  unfold State.launchCmd
  try dsimp only
  repeat' first
    | intro _
    | with_reducible exact hk
    | with_reducible apply State.countJob_same
    | with_reducible apply State.passStart_same
    | with_reducible apply State.unstartInvalid_same
    | with_reducible apply hf
    | with_reducible apply ite_same
    | with_reducible refine same_snd (by assumption) ?_
    | with_reducible refine same_snd2 (by assumption) ?_
    | with_reducible assumption
    | exact sub_sub (by decide) hM
    | split
    | dsimp only

/-- What a begun command does to the state changes only parts of `M`. -/
def Begun.Same (M : Nat) (s0 : State) : Begun → Prop
  | .run f => ∀ t, Machine.Same M s0 t → Machine.Same M s0 (f t)
  | _ => True

theorem runCmd_same {M : Nat} {s0 s : State} (hk : Same M s0 s) (hM : 68719476744 ||| M = M) (q opc : Nat)
    (body : CmdWord → Nat → State → Begun) (hb : ∀ w seq, (body w seq s).Same M s0) : Same M s0 (runCmd q opc body s) := by
  unfold runCmd
  split
  · exact hk
  · rename_i w _
    refine ite_same hk ?_
    dsimp only
    split
    · exact State.stopCmd_same hk (sub_sub (by decide) hM) _ _ _ _
    · exact hk
    · split
      · exact State.stopCmd_same hk (sub_sub (by decide) hM) _ _ _ _
      · exact hk
      · rename_i f hf
        have h := hb w (s.qStart q)
        rw [hf] at h
        exact State.launchCmd_same hk (sub_sub (by decide) hM) _ _ _ h

theorem thenOk_same {M : Nat} {s0 : State} (hM : 68719476744 ||| M = M) (q seq : Nat) (f : State → State)
    (hf : ∀ t, Same M s0 t → Same M s0 (f t)) : ∀ t, Same M s0 t → Same M s0 (thenOk q seq f t) :=
  fun t h => State.finishCmd_same (hf t h) (sub_sub (by decide) hM) _ _ _ _

theorem begun_stop_same {M : Nat} {s0 : State} (a b : Nat) : (Begun.stop a b).Same M s0 := trivial

theorem begun_wait_same {M : Nat} {s0 : State} : Begun.wait.Same M s0 := trivial

theorem begun_run_same {M : Nat} {s0 : State} {f : State → State} (h : ∀ t, Same M s0 t → Same M s0 (f t)) :
    (Begun.run f).Same M s0 := h

theorem begun_ok_same {M : Nat} {s0 : State} {f : State → State} (hM : 68719476744 ||| M = M) (q seq : Nat)
    (h : ∀ t, Same M s0 t → Same M s0 (f t)) : (Begun.run (thenOk q seq f)).Same M s0 := thenOk_same hM q seq f h

theorem begun_ite_same {M : Nat} {s0 : State} {a b : Begun} {c : Prop} [Decidable c] (ha : a.Same M s0) (hb : b.Same M s0) :
    (if c then a else b).Same M s0 := by
  split
  · exact ha
  · exact hb

theorem argsThen_same {M : Nat} {s0 : State} (l : List (Bool × Nat)) {k : Begun} (h : k.Same M s0) : (argsThen l
    k).Same M s0 := by
  unfold argsThen
  split
  · trivial
  · exact h

theorem State.startCopy_same {M : Nat} {s0 : State} (s : State) (hM : 206158430216 ||| M = M) (q seq : Nat) (w :
    CmdWord) (x : CopyOp) :
    (s.startCopy q seq w x).Same M s0 := by
  unfold State.startCopy
  refine begun_ite_same (begun_ok_same (sub_sub (by decide) hM) _ _ fun t h => h)
    (begun_ite_same (begun_stop_same _ _) (begun_ite_same (begun_stop_same _ _) (begun_run_same fun t h => ?_)))
  exact same_u137438953472 h (sub_sub (by decide) hM)

theorem State.moveCopy_same {M : Nat} {s0 s : State} (hk : Same M s0 s) (hM : 836444979720 ||| M = M) (x : CopyOp)
    (host : List Byte) :
    Same M s0 (State.moveCopy s x host) := by
  unfold State.moveCopy
  try dsimp only
  repeat' first
    | intro _
    | with_reducible exact hk
    | with_reducible apply State.hostWrite_same
    | with_reducible apply State.hbmWrite_same
    | with_reducible apply State.hbmRead_same
    | with_reducible apply ite_same
    | with_reducible refine same_snd (by assumption) ?_
    | with_reducible refine same_snd2 (by assumption) ?_
    | with_reducible assumption
    | exact sub_sub (by decide) hM
    | split
    | dsimp only

theorem stepArgs_same {M : Nat} {s0 : State} (w : CmdWord) {k : Begun} (h : k.Same M s0) : (stepArgs w k).Same M s0 :=
  argsThen_same _ h

theorem State.loseField_same {M : Nat} {s0 s : State} (hk : Same M s0 s) (hM : 4204304376842 ||| M = M) (c : Nat) (f : Nat) :
    Same M s0 (State.loseField s c f) := by
  unfold State.loseField
  try dsimp only
  repeat' first
    | intro _
    | with_reducible exact hk
    | with_reducible apply State.nextWaiting_same
    | with_reducible apply State.setEng_same
    | with_reducible apply State.showOps_same
    | with_reducible apply State.endOp_same
    | with_reducible refine foldl_same ?_ ?_
    | with_reducible apply ite_same
    | with_reducible refine same_snd (by assumption) ?_
    | with_reducible refine same_snd2 (by assumption) ?_
    | with_reducible assumption
    | exact sub_sub (by decide) hM
    | split
    | dsimp only

theorem State.servingOnly_same {M : Nat} {s0 : State} (s : State) (c : Nat) {k : Begun} (h : k.Same M s0) :
    (s.servingOnly c k).Same M s0 :=
  begun_ite_same h (begun_stop_same _ _)

theorem State.passScanned_same {M : Nat} {s0 s : State} (hk : Same M s0 s) (hM : 68719476744 ||| M = M) (l : List Scanned) :
    Same M s0 (State.passScanned s l) := by
  unfold State.passScanned
  try dsimp only
  repeat' first
    | intro _
    | with_reducible exact hk
    | with_reducible apply State.countJob_same
    | with_reducible apply State.passStart_same
    | with_reducible refine foldl_same ?_ ?_
    | with_reducible apply ite_same
    | with_reducible refine same_snd (by assumption) ?_
    | with_reducible refine same_snd2 (by assumption) ?_
    | with_reducible assumption
    | exact sub_sub (by decide) hM
    | split
    | dsimp only

theorem State.beginServing_same {M : Nat} {s0 s : State} (hk : Same M s0 s) (hM : 4204446983178 ||| M = M) (c : Nat)
    (n : Nat) (mode : Nat) (l : List Scanned) (a : Admission) :
    Same M s0 (State.beginServing s c n mode l a) := by
  unfold State.beginServing
  try dsimp only
  repeat' first
    | intro _
    | with_reducible exact hk
    | with_reducible apply State.beginStep_same
    | with_reducible apply State.passScanned_same
    | with_reducible apply State.servBegin_same
    | with_reducible apply ite_same
    | with_reducible refine same_snd (by assumption) ?_
    | with_reducible refine same_snd2 (by assumption) ?_
    | with_reducible assumption
    | exact sub_sub (by decide) hM
    | split
    | dsimp only

theorem State.leaveNow_same {M : Nat} {s0 s : State} (hk : Same M s0 s) (hM : 3298534892552 ||| M = M) (c : Nat)
    (seqid : Nat) :
    Same M s0 (State.leaveNow s c seqid) := by
  unfold State.leaveNow
  try dsimp only
  repeat' first
    | intro _
    | with_reducible exact hk
    | with_reducible apply State.setSrv_same
    | with_reducible apply State.swapAtBoundary_same
    | with_reducible apply State.showServ_same
    | with_reducible apply ite_same
    | with_reducible refine same_snd (by assumption) ?_
    | with_reducible refine same_snd2 (by assumption) ?_
    | with_reducible assumption
    | exact sub_sub (by decide) hM
    | split
    | dsimp only

theorem State.openSwap_same {M : Nat} {s0 s : State} (hk : Same M s0 s) (hM : 2199023255560 ||| M = M) (c : Nat) (new
    : Bool) :
    Same M s0 (State.openSwap s c new) := by
  unfold State.openSwap
  try dsimp only
  repeat' first
    | intro _
    | with_reducible exact hk
    | with_reducible apply State.setSrv_same
    | with_reducible apply State.setReg_same
    | with_reducible apply State.wf_same
    | with_reducible apply ite_same
    | with_reducible refine same_snd (by assumption) ?_
    | with_reducible refine same_snd2 (by assumption) ?_
    | with_reducible assumption
    | exact sub_sub (by decide) hM
    | split
    | dsimp only

theorem State.touch_same {M : Nat} {s0 s : State} (hk : Same M s0 s) (hM : 8589934600 ||| M = M) (c : Nat) (a : Nat)
    (n : Nat) :
    Same M s0 (State.touch s c a n) := by
  unfold State.touch
  try dsimp only
  repeat' first
    | intro _
    | with_reducible exact hk
    | with_reducible apply State.hbmRead_same
    | with_reducible apply ite_same
    | with_reducible refine same_snd (by assumption) ?_
    | with_reducible refine same_snd2 (by assumption) ?_
    | with_reducible assumption
    | exact sub_sub (by decide) hM
    | split
    | dsimp only

theorem State.pushLaunch_same {M : Nat} {s0 s : State} (hk : Same M s0 s) (hM : 545259520 ||| M = M) (f : Nat) (c :
    Nat) (t : LTable) (mk : Nat → Launch) :
    Same M s0 (State.pushLaunch s f c t mk) := by
  unfold State.pushLaunch
  try dsimp only
  repeat' first
    | intro _
    | with_reducible exact hk
    | with_reducible apply State.setStrm_same
    | with_reducible apply State.reopenReport_same
    | with_reducible refine foldl_same ?_ ?_
    | with_reducible apply ite_same
    | with_reducible refine same_snd (by assumption) ?_
    | with_reducible refine same_snd2 (by assumption) ?_
    | with_reducible assumption
    | exact sub_sub (by decide) hM
    | split
    | dsimp only

theorem State.pushRun_same {M : Nat} {s0 s : State} (hk : Same M s0 s) (hM : 545259520 ||| M = M) (f : Nat) (c : Nat)
    (q : Nat) (seq : Nat) (run : Nat) (t : LTable) (stride : List Nat) (i : Nat) (mark : Nat) :
    Same M s0 (State.pushRun s f c q seq run t stride i mark) := by
  unfold State.pushRun
  try dsimp only
  repeat' first
    | intro _
    | with_reducible exact hk
    | with_reducible apply State.pushLaunch_same
    | with_reducible apply ite_same
    | with_reducible refine same_snd (by assumption) ?_
    | with_reducible refine same_snd2 (by assumption) ?_
    | with_reducible assumption
    | exact sub_sub (by decide) hM
    | split
    | dsimp only

theorem State.startRun_same {M : Nat} {s0 s : State} (hk : Same M s0 s) (hM : 813694976 ||| M = M) (f : Nat) (c : Nat)
    (q : Nat) (seq : Nat) (a : Nat) :
    Same M s0 (State.startRun s f c q seq a) := by
  unfold State.startRun
  try dsimp only
  repeat' first
    | intro _
    | with_reducible exact hk
    | with_reducible apply State.pushRun_same
    | with_reducible refine foldl_same ?_ ?_
    | with_reducible apply ite_same
    | with_reducible refine same_snd (by assumption) ?_
    | with_reducible refine same_snd2 (by assumption) ?_
    | with_reducible assumption
    | exact sub_sub (by decide) hM
    | split
    | dsimp only
    | with_reducible apply same_u268435456

theorem State.startTable_same {M : Nat} {s0 s : State} (hk : Same M s0 s) (hM : 545259520 ||| M = M) (f : Nat) (c :
    Nat) (q : Nat) (seq : Nat) (a : Nat) :
    Same M s0 (State.startTable s f c q seq a) := by
  unfold State.startTable
  try dsimp only
  repeat' first
    | intro _
    | with_reducible exact hk
    | with_reducible apply State.pushLaunch_same
    | with_reducible apply ite_same
    | with_reducible refine same_snd (by assumption) ?_
    | with_reducible refine same_snd2 (by assumption) ?_
    | with_reducible assumption
    | exact sub_sub (by decide) hM
    | split
    | dsimp only

theorem State.touchFor_same {M : Nat} {s0 s : State} (hk : Same M s0 s) (hM : 8589934600 ||| M = M) (seq : Bool) (c :
    Nat) (a : Nat) :
    Same M s0 (State.touchFor s seq c a) := by
  unfold State.touchFor
  try dsimp only
  repeat' first
    | intro _
    | with_reducible exact hk
    | with_reducible apply State.touch_same
    | with_reducible apply ite_same
    | with_reducible refine same_snd (by assumption) ?_
    | with_reducible refine same_snd2 (by assumption) ?_
    | with_reducible assumption
    | exact sub_sub (by decide) hM
    | split
    | dsimp only

theorem launchBody_same {M : Nat} {s0 : State} (hM : 78123106312 ||| M = M) (q : Nat) (seq : Bool) (w : CmdWord) (n :
    Nat) (s : State) :
    (launchBody q seq w n s).Same M s0 := by
  unfold launchBody
  dsimp only
  refine begun_ite_same (begun_stop_same _ _) (begun_ite_same (begun_stop_same _ _) ?_)
  split
  · exact begun_stop_same _ _
  · refine begun_ite_same begun_wait_same (begun_ite_same (begun_stop_same _ _) (begun_ite_same (begun_stop_same _ _)
      (begun_ite_same (begun_stop_same _ _) (begun_ite_same (begun_stop_same _ _) (begun_run_same fun t h =>
        State.launchEnded_same (foldl_same (fun _ _ hv => State.touchFor_same hv (sub_sub (by decide) hM) _ _ _)
          (foldl_same (fun u f hu => ?_) h)) (sub_sub (by decide) hM) _ _)))))
    exact ite_same (State.startRun_same hu (sub_sub (by decide) hM) _ _ _ _ _)
      (State.startTable_same hu (sub_sub (by decide) hM) _ _ _ _ _)

theorem issueUnknown_same {M : Nat} {s0 s : State} (hk : Same M s0 s) (hM : 8598323208 ||| M = M) (i : StreamId) (w :
    InstrWord) :
    Same M s0 (issueUnknown i w s) := by
  unfold issueUnknown
  try dsimp only
  repeat' first
    | intro _
    | with_reducible exact hk
    | with_reducible apply issue_same
    | with_reducible apply ite_same
    | with_reducible refine same_snd (by assumption) ?_
    | with_reducible refine same_snd2 (by assumption) ?_
    | with_reducible assumption
    | exact sub_sub (by decide) hM
    | split
    | dsimp only

theorem State.almLose_same {M : Nat} {s0 s : State} (hk : Same M s0 s) (hM : 8 ||| M = M) :
    Same M s0 (State.almLose s) := by
  unfold State.almLose
  try dsimp only
  repeat' first
    | intro _
    | with_reducible exact hk
    | with_reducible apply State.bump_same
    | with_reducible apply ite_same
    | with_reducible refine same_snd (by assumption) ?_
    | with_reducible refine same_snd2 (by assumption) ?_
    | with_reducible assumption
    | exact sub_sub (by decide) hM
    | split
    | dsimp only

theorem State.almanac_same {M : Nat} {s0 s : State} (hk : Same M s0 s) (hM : 52785148067848 ||| M = M) (event : Nat)
    (page : Nat) (bit : Nat) (who : Option Nat) (detail : List Byte) (m : Meas) :
    Same M s0 (State.almanac s event page bit who detail m) := by
  unfold State.almanac
  try dsimp only
  repeat' first
    | intro _
    | with_reducible exact hk
    | with_reducible apply State.raiseSrc_same
    | with_reducible apply State.almLose_same
    | with_reducible apply ite_same
    | with_reducible refine same_snd (by assumption) ?_
    | with_reducible refine same_snd2 (by assumption) ?_
    | with_reducible assumption
    | exact sub_sub (by decide) hM
    | split
    | dsimp only
    | with_reducible apply same_u35184372088832
    | with_reducible apply same_u52776558133248

theorem State.readAlmanac_same {M : Nat} {s0 s : State} (hk : Same M s0 s) (hM : 8589934600 ||| M = M) (cls : Nat)
    (index : Nat) (got : Option (List Byte)) :
    Same M s0 (State.readAlmanac s cls index got).2 := by
  unfold State.readAlmanac
  try dsimp only
  repeat' first
    | intro _
    | with_reducible exact hk
    | with_reducible apply State.raiseSrc_same
    | with_reducible apply ite_same
    | with_reducible refine same_snd (by assumption) ?_
    | with_reducible refine same_snd2 (by assumption) ?_
    | with_reducible assumption
    | exact sub_sub (by decide) hM
    | split
    | dsimp only

theorem State.startRead_same {M : Nat} {s0 s : State} (hk : Same M s0 s) (hM : 1125899906842624 ||| M = M) :
    Same M s0 (State.startRead s) := by
  unfold State.startRead
  try dsimp only
  repeat' first
    | intro _
    | with_reducible exact hk
    | with_reducible apply ite_same
    | with_reducible refine same_snd (by assumption) ?_
    | with_reducible refine same_snd2 (by assumption) ?_
    | with_reducible assumption
    | exact sub_sub (by decide) hM
    | split
    | dsimp only
    | with_reducible apply same_u1125899906842624

theorem State.harrowCheck_same {M : Nat} {s0 s : State} (hk : Same M s0 s) (hM : 8589934600 ||| M = M) (f : Nat) (n :
    Nat) (o : DrnOp) (bit : Nat) :
    Same M s0 (State.harrowCheck s f n o bit) := by
  unfold State.harrowCheck
  try dsimp only
  repeat' first
    | intro _
    | with_reducible exact hk
    | with_reducible apply State.firstCheck_same
    | with_reducible apply State.raiseSrc_same
    | with_reducible apply State.bump_same
    | with_reducible apply ite_same
    | with_reducible refine same_snd (by assumption) ?_
    | with_reducible refine same_snd2 (by assumption) ?_
    | with_reducible assumption
    | exact sub_sub (by decide) hM
    | split
    | dsimp only

theorem State.harrowDrain_same {M : Nat} {s0 s : State} (hk : Same M s0 s) (hM : 8594128904 ||| M = M) (f : Nat) (n :
    Nat) (t : Nat) (i : Nat) :
    Same M s0 (State.harrowDrain s f n t i).2 := by
  unfold State.harrowDrain
  try dsimp only
  repeat' first
    | intro _
    | with_reducible exact hk
    | with_reducible apply State.setFur_same
    | with_reducible apply State.harrowCheck_same
    | with_reducible refine foldl_same ?_ ?_
    | with_reducible apply ite_same
    | with_reducible refine same_snd (by assumption) ?_
    | with_reducible refine same_snd2 (by assumption) ?_
    | with_reducible assumption
    | exact sub_sub (by decide) hM
    | split
    | dsimp only

theorem State.harrowRun_same {M : Nat} {s0 s : State} (hk : Same M s0 s) (hM : 70377338306570 ||| M = M) (f : Nat) (n
    : Nat) (t : Nat) (bad : Bool) :
    Same M s0 (State.harrowRun s f n t bad).2 := by
  unfold State.harrowRun
  try dsimp only
  repeat' first
    | intro _
    | with_reducible exact hk
    | with_reducible apply State.setFur_same
    | with_reducible apply State.fresh_same
    | with_reducible apply State.noteMma_same
    | with_reducible apply State.harrowDrain_same
    | with_reducible refine foldl_same ?_ ?_
    | with_reducible apply ite_same
    | with_reducible refine same_snd (by assumption) ?_
    | with_reducible refine same_snd2 (by assumption) ?_
    | with_reducible assumption
    | exact sub_sub (by decide) hM
    | split
    | dsimp only

theorem State.harrowGo_same {M : Nat} {s0 s : State} (hk : Same M s0 s) (hM : 8 ||| M = M) (f : Nat) :
    Same M s0 (State.harrowGo s f) := by
  unfold State.harrowGo
  try dsimp only
  repeat' first
    | intro _
    | with_reducible exact hk
    | with_reducible apply State.setReg_same
    | with_reducible apply State.wf_same
    | with_reducible apply ite_same
    | with_reducible refine same_snd (by assumption) ?_
    | with_reducible refine same_snd2 (by assumption) ?_
    | with_reducible assumption
    | exact sub_sub (by decide) hM
    | split
    | dsimp only

theorem State.endHarrow_same {M : Nat} {s0 s : State} (hk : Same M s0 s) (hM : 52785148067848 ||| M = M) (f : Nat) (st
    : Nat) (m : Meas) :
    Same M s0 (State.endHarrow s f st m) := by
  unfold State.endHarrow
  try dsimp only
  repeat' first
    | intro _
    | with_reducible exact hk
    | with_reducible apply State.wf_same
    | with_reducible apply State.almanac_same
    | with_reducible apply ite_same
    | with_reducible refine same_snd (by assumption) ?_
    | with_reducible refine same_snd2 (by assumption) ?_
    | with_reducible assumption
    | exact sub_sub (by decide) hM
    | split
    | dsimp only

theorem State.stopHarrow_same {M : Nat} {s0 s : State} (hk : Same M s0 s) (hM : 52785148067848 ||| M = M) (f : Nat) (m
    : Meas) :
    Same M s0 (State.stopHarrow s f m) := by
  unfold State.stopHarrow
  try dsimp only
  repeat' first
    | intro _
    | with_reducible exact hk
    | with_reducible apply State.endHarrow_same
    | with_reducible apply ite_same
    | with_reducible refine same_snd (by assumption) ?_
    | with_reducible refine same_snd2 (by assumption) ?_
    | with_reducible assumption
    | exact sub_sub (by decide) hM
    | split
    | dsimp only

theorem State.harrowMismatch_same {M : Nat} {s0 s : State} (hk : Same M s0 s) (hM : 52785148067848 ||| M = M) (f :
    Nat) (n : Nat) (t : Nat) (attr : Nat) (m : Meas) :
    Same M s0 (State.harrowMismatch s f n t attr m) := by
  unfold State.harrowMismatch
  try dsimp only
  repeat' first
    | intro _
    | with_reducible exact hk
    | with_reducible apply State.raiseSrc_same
    | with_reducible apply State.almanac_same
    | with_reducible apply ite_same
    | with_reducible refine same_snd (by assumption) ?_
    | with_reducible refine same_snd2 (by assumption) ?_
    | with_reducible assumption
    | exact sub_sub (by decide) hM
    | split
    | dsimp only

theorem State.compareTile_same {M : Nat} {s0 s : State} (hk : Same M s0 s) (hM : 52785148067848 ||| M = M) (f : Nat)
    (t : Nat) (m : Meas) (differs : Bool) (eqA : Bool) (eqB : Bool) :
    Same M s0 (State.compareTile s f t m differs eqA eqB) := by
  unfold State.compareTile
  try dsimp only
  repeat' first
    | intro _
    | with_reducible exact hk
    | with_reducible apply State.harrowMismatch_same
    | with_reducible apply State.wf_same
    | with_reducible apply State.endHarrow_same
    | with_reducible refine foldl_same ?_ ?_
    | with_reducible apply ite_same
    | with_reducible refine same_snd (by assumption) ?_
    | with_reducible refine same_snd2 (by assumption) ?_
    | with_reducible assumption
    | exact sub_sub (by decide) hM
    | split
    | dsimp only

theorem State.shadowMismatch_same {M : Nat} {s0 s : State} (hk : Same M s0 s) (hM : 52785148067848 ||| M = M) (x :
    ShadowOp) (m : Meas) :
    Same M s0 (State.shadowMismatch s x m) := by
  unfold State.shadowMismatch
  try dsimp only
  repeat' first
    | intro _
    | with_reducible exact hk
    | with_reducible apply State.bump_same
    | with_reducible apply State.almanac_same
    | with_reducible apply State.blockCause_same
    | with_reducible apply State.raiseFor_same
    | with_reducible refine foldl_same ?_ ?_
    | with_reducible apply ite_same
    | with_reducible refine same_snd (by assumption) ?_
    | with_reducible refine same_snd2 (by assumption) ?_
    | with_reducible assumption
    | exact sub_sub (by decide) hM
    | split
    | dsimp only

theorem State.repeatSlot_same {M : Nat} {s0 s : State} (hk : Same M s0 s) (hM : 4194306 ||| M = M) (x : ShadowOp)
    (differs : Bool) :
    Same M s0 (State.repeatSlot s x differs) := by
  unfold State.repeatSlot
  try dsimp only
  repeat' first
    | intro _
    | with_reducible exact hk
    | with_reducible apply State.setFur_same
    | with_reducible apply State.fresh_same
    | with_reducible apply ite_same
    | with_reducible refine same_snd (by assumption) ?_
    | with_reducible refine same_snd2 (by assumption) ?_
    | with_reducible assumption
    | exact sub_sub (by decide) hM
    | split
    | dsimp only

theorem State.abandonCmd_same {M : Nat} {s0 s : State} (hk : Same M s0 s) (hM : 68719476744 ||| M = M) (q : Nat) (seq
    : Nat) :
    Same M s0 (State.abandonCmd s q seq) := by
  unfold State.abandonCmd
  try dsimp only
  repeat' first
    | intro _
    | with_reducible exact hk
    | with_reducible apply State.finishCmd_same
    | with_reducible apply State.setCmd_same
    | with_reducible apply State.blockCause_same
    | with_reducible apply ite_same
    | with_reducible refine same_snd (by assumption) ?_
    | with_reducible refine same_snd2 (by assumption) ?_
    | with_reducible assumption
    | exact sub_sub (by decide) hM
    | split
    | dsimp only

theorem State.dropXfers_same {M : Nat} {s0 s : State} (hk : Same M s0 s) (hM : 16777216 ||| M = M) (f : Nat) (gone :
    Option Nat → Xfer → Bool) :
    Same M s0 (State.dropXfers s f gone) := by
  unfold State.dropXfers
  try dsimp only
  repeat' first
    | intro _
    | with_reducible exact hk
    | with_reducible apply State.setDma_same
    | with_reducible apply State.feedDma_same
    | with_reducible apply ite_same
    | with_reducible refine same_snd (by assumption) ?_
    | with_reducible refine same_snd2 (by assumption) ?_
    | with_reducible assumption
    | exact sub_sub (by decide) hM
    | split
    | dsimp only

theorem State.abandonStream_same {M : Nat} {s0 s : State} (hk : Same M s0 s) (hM : 1099528404992 ||| M = M) (f : Nat)
    (n : Nat) (c : Nat) (k : Nat) :
    Same M s0 (State.abandonStream s f n c k) := by
  unfold State.abandonStream
  try dsimp only
  repeat' first
    | intro _
    | with_reducible exact hk
    | with_reducible apply State.dropXfers_same
    | with_reducible apply State.setEng_same
    | with_reducible apply ite_same
    | with_reducible refine same_snd (by assumption) ?_
    | with_reducible refine same_snd2 (by assumption) ?_
    | with_reducible assumption
    | exact sub_sub (by decide) hM
    | split
    | dsimp only

theorem State.abandonQueue_same {M : Nat} {s0 s : State} (hk : Same M s0 s) (hM : 206158430216 ||| M = M) (q : Nat) :
    Same M s0 (State.abandonQueue s q) := by
  unfold State.abandonQueue
  try dsimp only
  repeat' first
    | intro _
    | with_reducible exact hk
    | with_reducible apply State.abandonCmd_same
    | with_reducible refine foldl_same ?_ ?_
    | with_reducible apply ite_same
    | with_reducible refine same_snd (by assumption) ?_
    | with_reducible refine same_snd2 (by assumption) ?_
    | with_reducible assumption
    | exact sub_sub (by decide) hM
    | split
    | dsimp only
    | with_reducible apply same_u137438953472

theorem State.dropCopies_same {M : Nat} {s0 s : State} (hk : Same M s0 s) (hM : 206158430216 ||| M = M) (gone : CopyOp
    → Bool) :
    Same M s0 (State.dropCopies s gone) := by
  unfold State.dropCopies
  try dsimp only
  repeat' first
    | intro _
    | with_reducible exact hk
    | with_reducible apply State.abandonCmd_same
    | with_reducible refine foldl_same ?_ ?_
    | with_reducible apply ite_same
    | with_reducible refine same_snd (by assumption) ?_
    | with_reducible refine same_snd2 (by assumption) ?_
    | with_reducible assumption
    | exact sub_sub (by decide) hM
    | split
    | dsimp only
    | with_reducible apply same_u137438953472

theorem State.dropLaunches_same {M : Nat} {s0 s : State} (hk : Same M s0 s) (hM : 68996300808 ||| M = M) (at_ : At →
    Bool) (run : SeqRun → Bool) :
    Same M s0 (State.dropLaunches s at_ run) := by
  unfold State.dropLaunches
  try dsimp only
  repeat' first
    | intro _
    | with_reducible exact hk
    | with_reducible apply State.abandonCmd_same
    | with_reducible refine foldl_same ?_ ?_
    | with_reducible apply ite_same
    | with_reducible refine same_snd (by assumption) ?_
    | with_reducible refine same_snd2 (by assumption) ?_
    | with_reducible assumption
    | exact sub_sub (by decide) hM
    | split
    | dsimp only
    | with_reducible apply same_u276824064

theorem State.dropOps_same {M : Nat} {s0 s : State} (hk : Same M s0 s) (hM : 4204304376842 ||| M = M) (f : Nat) (who :
    Nat → Bool) :
    Same M s0 (State.dropOps s f who) := by
  unfold State.dropOps
  try dsimp only
  repeat' first
    | intro _
    | with_reducible exact hk
    | with_reducible apply State.nextWaiting_same
    | with_reducible apply State.setEng_same
    | with_reducible apply State.abandonCmd_same
    | with_reducible apply State.endOp_same
    | with_reducible apply State.swapEnded_same
    | with_reducible refine foldl_same ?_ ?_
    | with_reducible apply ite_same
    | with_reducible refine same_snd (by assumption) ?_
    | with_reducible refine same_snd2 (by assumption) ?_
    | with_reducible assumption
    | exact sub_sub (by decide) hM
    | split
    | dsimp only

theorem State.abandonField_same {M : Nat} {s0 s : State} (hk : Same M s0 s) (hM : 4342036931594 ||| M = M) (f : Nat) :
    Same M s0 (State.abandonField s f) := by
  unfold State.abandonField
  try dsimp only
  repeat' first
    | intro _
    | with_reducible exact hk
    | with_reducible apply State.dropXfers_same
    | with_reducible apply State.dropLaunches_same
    | with_reducible apply State.dropOps_same
    | with_reducible apply State.dropCopies_same
    | with_reducible refine foldl_same ?_ ?_
    | with_reducible apply ite_same
    | with_reducible refine same_snd (by assumption) ?_
    | with_reducible refine same_snd2 (by assumption) ?_
    | with_reducible assumption
    | exact sub_sub (by decide) hM
    | split
    | dsimp only

theorem State.abandonCtx_same {M : Nat} {s0 s : State} (hk : Same M s0 s) (hM : 4342036931594 ||| M = M) (c : Nat) :
    Same M s0 (State.abandonCtx s c) := by
  unfold State.abandonCtx
  try dsimp only
  repeat' first
    | intro _
    | with_reducible exact hk
    | with_reducible apply State.dropXfers_same
    | with_reducible apply State.dropLaunches_same
    | with_reducible apply State.abandonQueue_same
    | with_reducible apply State.dropOps_same
    | with_reducible refine foldl_same ?_ ?_
    | with_reducible apply ite_same
    | with_reducible refine same_snd (by assumption) ?_
    | with_reducible refine same_snd2 (by assumption) ?_
    | with_reducible assumption
    | exact sub_sub (by decide) hM
    | split
    | dsimp only

theorem State.abandonDom_same {M : Nat} {s0 s : State} (hk : Same M s0 s) (hM : 4342036931594 ||| M = M) (d : Dom) :
    Same M s0 (State.abandonDom s d) := by
  unfold State.abandonDom
  try dsimp only
  repeat' first
    | intro _
    | with_reducible exact hk
    | with_reducible apply State.dropXfers_same
    | with_reducible apply State.abandonQueue_same
    | with_reducible apply State.abandonField_same
    | with_reducible apply State.abandonStream_same
    | with_reducible apply State.abandonCtx_same
    | with_reducible apply ite_same
    | with_reducible refine same_snd (by assumption) ?_
    | with_reducible refine same_snd2 (by assumption) ?_
    | with_reducible assumption
    | exact sub_sub (by decide) hM
    | split
    | dsimp only

theorem State.enterFenced_same {M : Nat} {s0 s : State} (hk : Same M s0 s) (hM : 4294967296 ||| M = M) (d : Dom) :
    Same M s0 (State.enterFenced s d) := by
  unfold State.enterFenced
  try dsimp only
  repeat' first
    | intro _
    | with_reducible exact hk
    | with_reducible apply ite_same
    | with_reducible refine same_snd (by assumption) ?_
    | with_reducible refine same_snd2 (by assumption) ?_
    | with_reducible assumption
    | exact sub_sub (by decide) hM
    | split
    | dsimp only
    | with_reducible apply same_u4294967296

theorem State.clearOnChip_same {M : Nat} {s0 s : State} (hk : Same M s0 s) (hM : 7864320 ||| M = M) (c : Nat) (f : Nat) :
    Same M s0 (State.clearOnChip s c f) := by
  unfold State.clearOnChip
  try dsimp only
  repeat' first
    | intro _
    | with_reducible exact hk
    | with_reducible apply State.setFur_same
    | with_reducible refine foldl_same ?_ ?_
    | with_reducible apply ite_same
    | with_reducible refine same_snd (by assumption) ?_
    | with_reducible refine same_snd2 (by assumption) ?_
    | with_reducible assumption
    | exact sub_sub (by decide) hM
    | split
    | dsimp only
    | with_reducible apply same_u524288
    | with_reducible apply same_u3145728
    | with_reducible apply same_u3670016

theorem State.easeAll_same {M : Nat} {s0 s : State} (hk : Same M s0 s) (hM : 1935957655562 ||| M = M) :
    Same M s0 (State.easeAll s) := by
  unfold State.easeAll
  try dsimp only
  repeat' first
    | intro _
    | with_reducible exact hk
    | with_reducible apply State.easeEarly_same
    | with_reducible refine foldl_same ?_ ?_
    | with_reducible apply ite_same
    | with_reducible refine same_snd (by assumption) ?_
    | with_reducible refine same_snd2 (by assumption) ?_
    | with_reducible assumption
    | exact sub_sub (by decide) hM
    | split
    | dsimp only

theorem State.resetContext_same {M : Nat} {s0 s : State} (hk : Same M s0 s) (hM : 144946555888746 ||| M = M) (c : Nat) :
    Same M s0 (State.resetContext s c) := by
  unfold State.resetContext
  try dsimp only
  repeat' first
    | intro _
    | with_reducible exact hk
    | with_reducible apply State.clearCovers_same
    | with_reducible apply State.clearGranule_same
    | with_reducible apply State.clearOnChip_same
    | with_reducible apply State.easeAll_same
    | with_reducible apply State.setReg_same
    | with_reducible apply State.stopWork_same
    | with_reducible refine foldl_same ?_ ?_
    | with_reducible apply ite_same
    | with_reducible refine same_snd (by assumption) ?_
    | with_reducible refine same_snd2 (by assumption) ?_
    | with_reducible assumption
    | exact sub_sub (by decide) hM
    | split
    | dsimp only
    | with_reducible apply same_u144042004316264

theorem State.fenceQueue_same {M : Nat} {s0 s : State} (hk : Same M s0 s) (hM : 4294967304 ||| M = M) (q : Nat) (ph :
    FPhase) :
    Same M s0 (State.fenceQueue s q ph) := by
  unfold State.fenceQueue
  try dsimp only
  repeat' first
    | intro _
    | with_reducible exact hk
    | with_reducible apply State.wf_same
    | with_reducible apply ite_same
    | with_reducible refine same_snd (by assumption) ?_
    | with_reducible refine same_snd2 (by assumption) ?_
    | with_reducible assumption
    | exact sub_sub (by decide) hM
    | split
    | dsimp only
    | with_reducible apply same_u4294967296

theorem State.resetCtxCmd_same {M : Nat} {s0 s : State} (hk : Same M s0 s) (hM : 145083994842730 ||| M = M) (rings :
    Rings) (c : Nat) :
    Same M s0 (State.resetCtxCmd s rings c) := by
  unfold State.resetCtxCmd
  try dsimp only
  repeat' first
    | intro _
    | with_reducible exact hk
    | with_reducible apply State.abortCmds_same
    | with_reducible apply State.resetContext_same
    | with_reducible apply State.abandonCtx_same
    | with_reducible apply State.fenceQueue_same
    | with_reducible refine foldl_same ?_ ?_
    | with_reducible apply ite_same
    | with_reducible refine same_snd (by assumption) ?_
    | with_reducible refine same_snd2 (by assumption) ?_
    | with_reducible assumption
    | exact sub_sub (by decide) hM
    | split
    | dsimp only

theorem State.clearReceived_same {M : Nat} {s0 s : State} (hk : Same M s0 s) (hM : 274877906944 ||| M = M) (p : Nat) :
    Same M s0 (State.clearReceived s p) := by
  unfold State.clearReceived
  try dsimp only
  repeat' first
    | intro _
    | with_reducible exact hk
    | with_reducible apply State.setPort_same
    | with_reducible refine foldl_same ?_ ?_
    | with_reducible apply ite_same
    | with_reducible refine same_snd (by assumption) ?_
    | with_reducible refine same_snd2 (by assumption) ?_
    | with_reducible assumption
    | exact sub_sub (by decide) hM
    | split
    | dsimp only

theorem State.resetPort_same {M : Nat} {s0 s : State} (hk : Same M s0 s) (hM : 1940252622858 ||| M = M) (p : Nat) :
    Same M s0 (State.resetPort s p) := by
  unfold State.resetPort
  try dsimp only
  repeat' first
    | intro _
    | with_reducible exact hk
    | with_reducible apply State.endFence_same
    | with_reducible apply State.setPll_same
    | with_reducible apply State.portDown_same
    | with_reducible apply State.easeAll_same
    | with_reducible apply State.wf_same
    | with_reducible apply State.setPort_same
    | with_reducible apply State.clearReceived_same
    | with_reducible apply State.resetPage_same
    | with_reducible apply ite_same
    | with_reducible refine same_snd (by assumption) ?_
    | with_reducible refine same_snd2 (by assumption) ?_
    | with_reducible assumption
    | exact sub_sub (by decide) hM
    | split
    | dsimp only
    | with_reducible apply same_u549755813888

theorem State.clearField_same {M : Nat} {s0 s : State} (hk : Same M s0 s) (hM : 72031433228328 ||| M = M) (f : Nat) :
    Same M s0 (State.clearField s f) := by
  unfold State.clearField
  try dsimp only
  repeat' first
    | intro _
    | with_reducible exact hk
    | with_reducible apply ite_same
    | with_reducible refine same_snd (by assumption) ?_
    | with_reducible refine same_snd2 (by assumption) ?_
    | with_reducible assumption
    | exact sub_sub (by decide) hM
    | split
    | dsimp only
    | with_reducible apply same_u142606336
    | with_reducible apply same_u72031290621992
    | with_reducible apply same_u72031433228328

theorem State.restartField_same {M : Nat} {s0 s : State} (hk : Same M s0 s) (hM : 8 ||| M = M) (f : Nat) :
    Same M s0 (State.restartField s f) := by
  unfold State.restartField
  try dsimp only
  repeat' first
    | intro _
    | with_reducible exact hk
    | with_reducible apply State.setPll_same
    | with_reducible apply State.wf_same
    | with_reducible refine foldl_same ?_ ?_
    | with_reducible apply ite_same
    | with_reducible refine same_snd (by assumption) ?_
    | with_reducible refine same_snd2 (by assumption) ?_
    | with_reducible assumption
    | exact sub_sub (by decide) hM
    | split
    | dsimp only

theorem State.loseRegion_same {M : Nat} {s0 s : State} (hk : Same M s0 s) (hM : 4346506487306 ||| M = M) (rings :
    Rings) (c : Nat) :
    Same M s0 (State.loseRegion s rings c) := by
  unfold State.loseRegion
  try dsimp only
  repeat' first
    | intro _
    | with_reducible exact hk
    | with_reducible apply State.clearCovers_same
    | with_reducible apply State.wf_same
    | with_reducible apply State.setCtx_same
    | with_reducible apply State.abandonStep_same
    | with_reducible apply State.servAbort_same
    | with_reducible apply State.raiseFor_same
    | with_reducible apply ite_same
    | with_reducible refine same_snd (by assumption) ?_
    | with_reducible refine same_snd2 (by assumption) ?_
    | with_reducible assumption
    | exact sub_sub (by decide) hM
    | split
    | dsimp only

theorem State.loseMirrors_same {M : Nat} {s0 s : State} (hk : Same M s0 s) (hM : 9663676424 ||| M = M) (f : Nat) :
    Same M s0 (State.loseMirrors s f) := by
  unfold State.loseMirrors
  try dsimp only
  repeat' first
    | intro _
    | with_reducible exact hk
    | with_reducible apply State.setRegion_same
    | with_reducible apply State.raiseFor_same
    | with_reducible refine foldl_same ?_ ?_
    | with_reducible apply ite_same
    | with_reducible refine same_snd (by assumption) ?_
    | with_reducible refine same_snd2 (by assumption) ?_
    | with_reducible assumption
    | exact sub_sub (by decide) hM
    | split
    | dsimp only

theorem State.releaseField_same {M : Nat} {s0 s : State} (hk : Same M s0 s) (hM : 4294967304 ||| M = M) (f : Nat) :
    Same M s0 (State.releaseField s f) := by
  unfold State.releaseField
  try dsimp only
  repeat' first
    | intro _
    | with_reducible exact hk
    | with_reducible apply State.endFence_same
    | with_reducible apply State.wf_same
    | with_reducible refine foldl_same ?_ ?_
    | with_reducible apply ite_same
    | with_reducible refine same_snd (by assumption) ?_
    | with_reducible refine same_snd2 (by assumption) ?_
    | with_reducible assumption
    | exact sub_sub (by decide) hM
    | split
    | dsimp only

theorem State.holdField_same {M : Nat} {s0 s : State} (hk : Same M s0 s) (hM : 127491809059882 ||| M = M) (m : Meas)
    (f : Nat) :
    Same M s0 (State.holdField s m f) := by
  unfold State.holdField
  try dsimp only
  repeat' first
    | intro _
    | with_reducible exact hk
    | with_reducible apply State.fenceField_same
    | with_reducible apply State.abandonField_same
    | with_reducible apply State.resetPort_same
    | with_reducible apply State.restartField_same
    | with_reducible apply State.clearField_same
    | with_reducible apply State.stopHarrow_same
    | with_reducible apply State.enterFenced_same
    | with_reducible apply ite_same
    | with_reducible refine same_snd (by assumption) ?_
    | with_reducible refine same_snd2 (by assumption) ?_
    | with_reducible assumption
    | exact sub_sub (by decide) hM
    | split
    | dsimp only

theorem State.endReset_same {M : Nat} {s0 s : State} (hk : Same M s0 s) (hM : 285821483197962 ||| M = M) (rings :
    Rings) (f : Nat) (up : Bool) :
    Same M s0 (State.endReset s rings f up) := by
  unfold State.endReset
  try dsimp only
  repeat' first
    | intro _
    | with_reducible exact hk
    | with_reducible apply State.releaseField_same
    | with_reducible apply State.servLose_same
    | with_reducible apply State.loseMirrors_same
    | with_reducible apply State.loseRegion_same
    | with_reducible apply State.finishCmd_same
    | with_reducible refine foldl_same ?_ ?_
    | with_reducible apply ite_same
    | with_reducible refine same_snd (by assumption) ?_
    | with_reducible refine same_snd2 (by assumption) ?_
    | with_reducible assumption
    | exact sub_sub (by decide) hM
    | split
    | dsimp only
    | with_reducible apply same_u281474976710656

theorem State.failReset_same {M : Nat} {s0 s : State} (hk : Same M s0 s) (hM : 285821483197962 ||| M = M) (rings :
    Rings) (f : Nat) :
    Same M s0 (State.failReset s rings f) := by
  unfold State.failReset
  try dsimp only
  repeat' first
    | intro _
    | with_reducible exact hk
    | with_reducible apply State.endReset_same
    | with_reducible apply State.wf_same
    | with_reducible apply ite_same
    | with_reducible refine same_snd (by assumption) ?_
    | with_reducible refine same_snd2 (by assumption) ?_
    | with_reducible assumption
    | exact sub_sub (by decide) hM
    | split
    | dsimp only

theorem State.startReset_same {M : Nat} {s0 s : State} (hk : Same M s0 s) (hM : 408966785771050 ||| M = M) (rings :
    Rings) (m : Meas) (q : Nat) (seq : Nat) (f : Nat) :
    Same M s0 (State.startReset s rings m q seq f) := by
  unfold State.startReset
  try dsimp only
  repeat' first
    | intro _
    | with_reducible exact hk
    | with_reducible apply State.failReset_same
    | with_reducible apply State.holdField_same
    | with_reducible apply ite_same
    | with_reducible refine same_snd (by assumption) ?_
    | with_reducible refine same_snd2 (by assumption) ?_
    | with_reducible assumption
    | exact sub_sub (by decide) hM
    | split
    | dsimp only
    | with_reducible apply same_u281474976710656

theorem State.gateWrite_same {M : Nat} {s0 s : State} (hk : Same M s0 s) (hM : 8589934600 ||| M = M) (u : Nat) (a :
    Nat) (k : State → State) (hk : ∀ t, Same M s0 t → Same M s0 (k t)) :
    Same M s0 (State.gateWrite s u a k) := by
  unfold State.gateWrite
  try dsimp only
  repeat' first
    | intro _
    | with_reducible exact hk
    | with_reducible apply State.accErr_same
    | with_reducible apply hk
    | with_reducible apply ite_same
    | with_reducible refine same_snd (by assumption) ?_
    | with_reducible refine same_snd2 (by assumption) ?_
    | with_reducible assumption
    | exact sub_sub (by decide) hM
    | split
    | dsimp only

theorem State.unstage_same {M : Nat} {s0 s : State} (hk : Same M s0 s) (hM : 32 ||| M = M) (u : Nat) (a : Nat) :
    Same M s0 (State.unstage s u a) := by
  unfold State.unstage
  try dsimp only
  repeat' first
    | intro _
    | with_reducible exact hk
    | with_reducible apply ite_same
    | with_reducible refine same_snd (by assumption) ?_
    | with_reducible refine same_snd2 (by assumption) ?_
    | with_reducible assumption
    | exact sub_sub (by decide) hM
    | split
    | dsimp only
    | with_reducible apply same_u32

theorem State.latchIf_same {M : Nat} {s0 s : State} (hk : Same M s0 s) (hM : 64 ||| M = M) (u : Nat) (c : Nat) :
    Same M s0 (State.latchIf s u c) := by
  unfold State.latchIf
  try dsimp only
  repeat' first
    | intro _
    | with_reducible exact hk
    | with_reducible apply ite_same
    | with_reducible refine same_snd (by assumption) ?_
    | with_reducible refine same_snd2 (by assumption) ?_
    | with_reducible assumption
    | exact sub_sub (by decide) hM
    | split
    | dsimp only
    | with_reducible apply same_u64

theorem State.latchForecast_same {M : Nat} {s0 s : State} (hk : Same M s0 s) (hM : 8 ||| M = M) :
    Same M s0 (State.latchForecast s) := by
  unfold State.latchForecast
  try dsimp only
  repeat' first
    | intro _
    | with_reducible exact hk
    | with_reducible apply State.setReg_same
    | with_reducible apply State.wf_same
    | with_reducible refine foldl_same ?_ ?_
    | with_reducible apply ite_same
    | with_reducible refine same_snd (by assumption) ?_
    | with_reducible refine same_snd2 (by assumption) ?_
    | with_reducible assumption
    | exact sub_sub (by decide) hM
    | split
    | dsimp only

theorem State.readLatch_same {M : Nat} {s0 s : State} (hk : Same M s0 s) (hM : 72 ||| M = M) (u : Nat) (a : Nat) :
    Same M s0 (State.readLatch s u a) := by
  unfold State.readLatch
  try dsimp only
  repeat' first
    | intro _
    | with_reducible exact hk
    | with_reducible apply State.latchIf_same
    | with_reducible apply State.latchForecast_same
    | with_reducible apply ite_same
    | with_reducible refine same_snd (by assumption) ?_
    | with_reducible refine same_snd2 (by assumption) ?_
    | with_reducible assumption
    | exact sub_sub (by decide) hM
    | split
    | dsimp only

theorem State.clearRc_same {M : Nat} {s0 s : State} (hk : Same M s0 s) (hM : 8 ||| M = M) (a : Nat) :
    Same M s0 (State.clearRc s a) := by
  unfold State.clearRc
  try dsimp only
  repeat' first
    | intro _
    | with_reducible exact hk
    | with_reducible apply State.setReg_same
    | with_reducible refine foldl_same ?_ ?_
    | with_reducible apply ite_same
    | with_reducible refine same_snd (by assumption) ?_
    | with_reducible refine same_snd2 (by assumption) ?_
    | with_reducible assumption
    | exact sub_sub (by decide) hM
    | split
    | dsimp only

theorem State.drawTimed_same {M : Nat} {s0 s : State} (hk : Same M s0 s) (hM : 2 ||| M = M) (a : Nat) :
    Same M s0 (State.drawTimed s a) := by
  unfold State.drawTimed
  try dsimp only
  repeat' first
    | intro _
    | with_reducible exact hk
    | with_reducible apply State.fresh_same
    | with_reducible apply ite_same
    | with_reducible refine same_snd (by assumption) ?_
    | with_reducible refine same_snd2 (by assumption) ?_
    | with_reducible assumption
    | exact sub_sub (by decide) hM
    | split
    | dsimp only

theorem State.drawSpan_same {M : Nat} {s0 s : State} (hk : Same M s0 s) (hM : 2 ||| M = M) (a : Nat) (n : Nat) :
    Same M s0 (State.drawSpan s a n) := by
  unfold State.drawSpan
  try dsimp only
  repeat' first
    | intro _
    | with_reducible exact hk
    | with_reducible apply State.drawTimed_same
    | with_reducible refine foldl_same ?_ ?_
    | with_reducible apply ite_same
    | with_reducible refine same_snd (by assumption) ?_
    | with_reducible refine same_snd2 (by assumption) ?_
    | with_reducible assumption
    | exact sub_sub (by decide) hM
    | split
    | dsimp only

theorem State.busRead_same {M : Nat} {s0 s : State} (hk : Same M s0 s) (hM : 8589934810 ||| M = M) (u : Nat) (a : Nat)
    (log : Nat) :
    Same M s0 (State.busRead s u a log) := by
  unfold State.busRead
  try dsimp only
  repeat' first
    | intro _
    | with_reducible exact hk
    | with_reducible apply State.drawSpan_same
    | with_reducible apply State.clearRc_same
    | with_reducible apply State.drawTimed_same
    | with_reducible apply State.accErr_same
    | with_reducible apply State.readLatch_same
    | with_reducible apply ite_same
    | with_reducible refine same_snd (by assumption) ?_
    | with_reducible refine same_snd2 (by assumption) ?_
    | with_reducible assumption
    | exact sub_sub (by decide) hM
    | split
    | dsimp only
    | with_reducible apply same_u16
    | with_reducible apply same_u128
    | with_reducible apply same_u144

theorem State.badWrite_same {M : Nat} {s0 s : State} (hk : Same M s0 s) (hM : 8589934600 ||| M = M) (u : Nat) (a : Nat) :
    Same M s0 (State.badWrite s u a) := by
  unfold State.badWrite
  try dsimp only
  repeat' first
    | intro _
    | with_reducible exact hk
    | with_reducible apply State.accErr_same
    | with_reducible apply ite_same
    | with_reducible refine same_snd (by assumption) ?_
    | with_reducible refine same_snd2 (by assumption) ?_
    | with_reducible assumption
    | exact sub_sub (by decide) hM
    | split
    | dsimp only

theorem State.plainWrite_same {M : Nat} {s0 s : State} (hk : Same M s0 s) (hM : 8 ||| M = M) (a : Nat) (v : Word32) :
    Same M s0 (State.plainWrite s a v) := by
  unfold State.plainWrite
  try dsimp only
  repeat' first
    | intro _
    | with_reducible exact hk
    | with_reducible apply State.setReg_same
    | with_reducible apply ite_same
    | with_reducible refine same_snd (by assumption) ?_
    | with_reducible refine same_snd2 (by assumption) ?_
    | with_reducible assumption
    | exact sub_sub (by decide) hM
    | split
    | dsimp only

theorem State.writeBut_same {M : Nat} {s0 s : State} (hk : Same M s0 s) (hM : 8 ||| M = M) (a : Nat) (v : Word32)
    (skip : List Nat) :
    Same M s0 (State.writeBut s a v skip) := by
  unfold State.writeBut
  try dsimp only
  repeat' first
    | intro _
    | with_reducible exact hk
    | with_reducible apply State.setReg_same
    | with_reducible apply ite_same
    | with_reducible refine same_snd (by assumption) ?_
    | with_reducible refine same_snd2 (by assumption) ?_
    | with_reducible assumption
    | exact sub_sub (by decide) hM
    | split
    | dsimp only

theorem State.writeUnless_same {M : Nat} {s0 s : State} (hk : Same M s0 s) (hM : 8 ||| M = M) (a : Nat) (v : Word32)
    (bad : Bool) (skip : List Nat) :
    Same M s0 (State.writeUnless s a v bad skip) := by
  unfold State.writeUnless
  try dsimp only
  repeat' first
    | intro _
    | with_reducible exact hk
    | with_reducible apply State.writeBut_same
    | with_reducible apply State.plainWrite_same
    | with_reducible apply ite_same
    | with_reducible refine same_snd (by assumption) ?_
    | with_reducible refine same_snd2 (by assumption) ?_
    | with_reducible assumption
    | exact sub_sub (by decide) hM
    | split
    | dsimp only

theorem State.routeCommit_same {M : Nat} {s0 s : State} (hk : Same M s0 s) (hM : 40 ||| M = M) (u : Nat) (j : Nat) (v
    : Word32) :
    Same M s0 (State.routeCommit s u j v) := by
  unfold State.routeCommit
  try dsimp only
  repeat' first
    | intro _
    | with_reducible exact hk
    | with_reducible apply State.unstage_same
    | with_reducible apply State.plainWrite_same
    | with_reducible apply ite_same
    | with_reducible refine same_snd (by assumption) ?_
    | with_reducible refine same_snd2 (by assumption) ?_
    | with_reducible assumption
    | exact sub_sub (by decide) hM
    | split
    | dsimp only

theorem State.writePortCtrl_same {M : Nat} {s0 s : State} (hk : Same M s0 s) (hM : 283467841544 ||| M = M) (p : Nat)
    (v : Word32) :
    Same M s0 (State.writePortCtrl s p v) := by
  unfold State.writePortCtrl
  try dsimp only
  repeat' first
    | intro _
    | with_reducible exact hk
    | with_reducible apply State.portDown_same
    | with_reducible apply State.enterRetrain_same
    | with_reducible apply State.enterDetect_same
    | with_reducible apply State.plainWrite_same
    | with_reducible apply State.tryDetect_same
    | with_reducible apply ite_same
    | with_reducible refine same_snd (by assumption) ?_
    | with_reducible refine same_snd2 (by assumption) ?_
    | with_reducible assumption
    | exact sub_sub (by decide) hM
    | split
    | dsimp only

theorem State.tryDetectAll_same {M : Nat} {s0 s : State} (hk : Same M s0 s) (hM : 274877906952 ||| M = M) :
    Same M s0 (State.tryDetectAll s) := by
  unfold State.tryDetectAll
  try dsimp only
  repeat' first
    | intro _
    | with_reducible exact hk
    | with_reducible apply State.tryDetect_same
    | with_reducible refine foldl_same ?_ ?_
    | with_reducible apply ite_same
    | with_reducible refine same_snd (by assumption) ?_
    | with_reducible refine same_snd2 (by assumption) ?_
    | with_reducible assumption
    | exact sub_sub (by decide) hM
    | split
    | dsimp only

theorem State.setDevId_same {M : Nat} {s0 s : State} (hk : Same M s0 s) (hM : 274877906952 ||| M = M) (v : Word32) :
    Same M s0 (State.setDevId s v) := by
  unfold State.setDevId
  try dsimp only
  repeat' first
    | intro _
    | with_reducible exact hk
    | with_reducible apply State.tryDetectAll_same
    | with_reducible apply State.wf_same
    | with_reducible apply State.plainWrite_same
    | with_reducible apply ite_same
    | with_reducible refine same_snd (by assumption) ?_
    | with_reducible refine same_snd2 (by assumption) ?_
    | with_reducible assumption
    | exact sub_sub (by decide) hM
    | split
    | dsimp only

theorem State.setRxalloc_same {M : Nat} {s0 s : State} (hk : Same M s0 s) (hM : 274877906952 ||| M = M) (p : Nat) (c :
    Nat) (v : Word32) :
    Same M s0 (State.setRxalloc s p c v) := by
  unfold State.setRxalloc
  try dsimp only
  repeat' first
    | intro _
    | with_reducible exact hk
    | with_reducible apply State.wf_same
    | with_reducible apply State.plainWrite_same
    | with_reducible apply State.tryDetect_same
    | with_reducible apply ite_same
    | with_reducible refine same_snd (by assumption) ?_
    | with_reducible refine same_snd2 (by assumption) ?_
    | with_reducible assumption
    | exact sub_sub (by decide) hM
    | split
    | dsimp only

theorem State.memRefused_same {M : Nat} {s0 s : State} (hk : Same M s0 s) (hM : 8 ||| M = M) (f : Nat) (i : Nat) :
    Same M s0 (State.memRefused s f i) := by
  unfold State.memRefused
  try dsimp only
  repeat' first
    | intro _
    | with_reducible exact hk
    | with_reducible apply State.wf_same
    | with_reducible apply ite_same
    | with_reducible refine same_snd (by assumption) ?_
    | with_reducible refine same_snd2 (by assumption) ?_
    | with_reducible assumption
    | exact sub_sub (by decide) hM
    | split
    | dsimp only

theorem State.granWrite_same {M : Nat} {s0 s : State} (hk : Same M s0 s) (hM : 229384 ||| M = M) (f : Nat) (g : Nat)
    (v : Word32) :
    Same M s0 (State.granWrite s f g v) := by
  unfold State.granWrite
  try dsimp only
  repeat' first
    | intro _
    | with_reducible exact hk
    | with_reducible apply State.clearGranule_same
    | with_reducible apply State.wf_same
    | with_reducible apply State.memRefused_same
    | with_reducible apply State.plainWrite_same
    | with_reducible apply ite_same
    | with_reducible refine same_snd (by assumption) ?_
    | with_reducible refine same_snd2 (by assumption) ?_
    | with_reducible assumption
    | exact sub_sub (by decide) hM
    | split
    | dsimp only
    | with_reducible apply same_u131072

theorem State.shareWrite_same {M : Nat} {s0 s : State} (hk : Same M s0 s) (hM : 8 ||| M = M) (f : Nat) (c : Nat) (v :
    Word32) :
    Same M s0 (State.shareWrite s f c v) := by
  unfold State.shareWrite
  try dsimp only
  repeat' first
    | intro _
    | with_reducible exact hk
    | with_reducible apply State.memRefused_same
    | with_reducible apply State.plainWrite_same
    | with_reducible apply ite_same
    | with_reducible refine same_snd (by assumption) ?_
    | with_reducible refine same_snd2 (by assumption) ?_
    | with_reducible assumption
    | exact sub_sub (by decide) hM
    | split
    | dsimp only

theorem State.memChanged_same {M : Nat} {s0 s : State} (hk : Same M s0 s) (hM : 98306 ||| M = M) (c : Nat) (old :
    Word32) (new : Word32) :
    Same M s0 (State.memChanged s c old new) := by
  unfold State.memChanged
  try dsimp only
  repeat' first
    | intro _
    | with_reducible exact hk
    | with_reducible apply State.undefGranules_same
    | with_reducible refine foldl_same ?_ ?_
    | with_reducible apply ite_same
    | with_reducible refine same_snd (by assumption) ?_
    | with_reducible refine same_snd2 (by assumption) ?_
    | with_reducible assumption
    | exact sub_sub (by decide) hM
    | split
    | dsimp only

theorem State.ctxMemWrite_same {M : Nat} {s0 s : State} (hk : Same M s0 s) (hM : 98314 ||| M = M) (c : Nat) (v : Word32) :
    Same M s0 (State.ctxMemWrite s c v) := by
  unfold State.ctxMemWrite
  try dsimp only
  repeat' first
    | intro _
    | with_reducible exact hk
    | with_reducible apply State.wf_same
    | with_reducible apply State.memRefused_same
    | with_reducible apply State.memChanged_same
    | with_reducible apply State.plainWrite_same
    | with_reducible refine foldl_same ?_ ?_
    | with_reducible apply ite_same
    | with_reducible refine same_snd (by assumption) ?_
    | with_reducible refine same_snd2 (by assumption) ?_
    | with_reducible assumption
    | exact sub_sub (by decide) hM
    | split
    | dsimp only

theorem State.corrected_same {M : Nat} {s0 s : State} (hk : Same M s0 s) (hM : 8589934600 ||| M = M) (a : Nat) :
    Same M s0 (State.corrected s a) := by
  unfold State.corrected
  try dsimp only
  repeat' first
    | intro _
    | with_reducible exact hk
    | with_reducible apply State.raiseSrc_same
    | with_reducible apply State.bump64_same
    | with_reducible apply State.bump_same
    | with_reducible apply ite_same
    | with_reducible refine same_snd (by assumption) ?_
    | with_reducible refine same_snd2 (by assumption) ?_
    | with_reducible assumption
    | exact sub_sub (by decide) hM
    | split
    | dsimp only

theorem State.foundIn_same {M : Nat} {s0 s : State} (hk : Same M s0 s) (hM : 8590000136 ||| M = M) (a : Nat) (x :
    Found) (onDie : Bool) :
    Same M s0 (State.foundIn s a x onDie) := by
  unfold State.foundIn
  try dsimp only
  repeat' first
    | intro _
    | with_reducible exact hk
    | with_reducible apply State.corrected_same
    | with_reducible apply State.bump_same
    | with_reducible apply ite_same
    | with_reducible refine same_snd (by assumption) ?_
    | with_reducible refine same_snd2 (by assumption) ?_
    | with_reducible assumption
    | exact sub_sub (by decide) hM
    | split
    | dsimp only
    | with_reducible apply same_u65536

theorem State.scrubNext_same {M : Nat} {s0 s : State} (hk : Same M s0 s) (hM : 262152 ||| M = M) (f : Nat) (m : Nat) :
    Same M s0 (State.scrubNext s f m) := by
  unfold State.scrubNext
  try dsimp only
  repeat' first
    | intro _
    | with_reducible exact hk
    | with_reducible apply State.wf_same
    | with_reducible apply ite_same
    | with_reducible refine same_snd (by assumption) ?_
    | with_reducible refine same_snd2 (by assumption) ?_
    | with_reducible assumption
    | exact sub_sub (by decide) hM
    | split
    | dsimp only
    | with_reducible apply same_u262144

theorem State.bindWrite_same {M : Nat} {s0 s : State} (hk : Same M s0 s) (hM : 144946555888746 ||| M = M) (c : Nat) (v
    : Word32) :
    Same M s0 (State.bindWrite s c v) := by
  unfold State.bindWrite
  try dsimp only
  repeat' first
    | intro _
    | with_reducible exact hk
    | with_reducible apply State.resetContext_same
    | with_reducible apply State.wf_same
    | with_reducible apply State.plainWrite_same
    | with_reducible apply ite_same
    | with_reducible refine same_snd (by assumption) ?_
    | with_reducible refine same_snd2 (by assumption) ?_
    | with_reducible assumption
    | exact sub_sub (by decide) hM
    | split
    | dsimp only

theorem State.undefQuota_same {M : Nat} {s0 s : State} (hk : Same M s0 s) (hM : 7340034 ||| M = M) (f : Nat) (k :
    Quota) (b : Nat) (n : Nat) :
    Same M s0 (State.undefQuota s f k b n) := by
  unfold State.undefQuota
  try dsimp only
  repeat' first
    | intro _
    | with_reducible exact hk
    | with_reducible apply State.setFur_same
    | with_reducible apply State.fresh_same
    | with_reducible refine foldl_same ?_ ?_
    | with_reducible apply ite_same
    | with_reducible refine same_snd (by assumption) ?_
    | with_reducible refine same_snd2 (by assumption) ?_
    | with_reducible assumption
    | exact sub_sub (by decide) hM
    | split
    | dsimp only
    | with_reducible apply same_u1048576
    | with_reducible apply same_u2097152
    | with_reducible apply same_u3145728

theorem State.quotaSet_same {M : Nat} {s0 s : State} (hk : Same M s0 s) (hM : 7340042 ||| M = M) (c : Nat) (f : Nat)
    (k : Quota) (v : Word32) :
    Same M s0 (State.quotaSet s c f k v) := by
  unfold State.quotaSet
  try dsimp only
  repeat' first
    | intro _
    | with_reducible exact hk
    | with_reducible apply State.undefQuota_same
    | with_reducible apply State.wf_same
    | with_reducible apply State.plainWrite_same
    | with_reducible apply ite_same
    | with_reducible refine same_snd (by assumption) ?_
    | with_reducible refine same_snd2 (by assumption) ?_
    | with_reducible assumption
    | exact sub_sub (by decide) hM
    | split
    | dsimp only

theorem State.servWrite_same {M : Nat} {s0 s : State} (hk : Same M s0 s) (hM : 40 ||| M = M) (u : Nat) (c : Nat) (o :
    Nat) (v : Word32) :
    Same M s0 (State.servWrite s u c o v) := by
  unfold State.servWrite
  try dsimp only
  repeat' first
    | intro _
    | with_reducible exact hk
    | with_reducible apply State.unstage_same
    | with_reducible apply State.wf_same
    | with_reducible apply State.plainWrite_same
    | with_reducible apply State.showServ_same
    | with_reducible apply ite_same
    | with_reducible refine same_snd (by assumption) ?_
    | with_reducible refine same_snd2 (by assumption) ?_
    | with_reducible assumption
    | exact sub_sub (by decide) hM
    | split
    | dsimp only
    | with_reducible apply same_u32

theorem State.slowField_same {M : Nat} {s0 s : State} (hk : Same M s0 s) (hM : 8 ||| M = M) (f : Nat) (l : List (Nat ×
    Nat)) :
    Same M s0 (State.slowField s f l) := by
  unfold State.slowField
  try dsimp only
  repeat' first
    | intro _
    | with_reducible exact hk
    | with_reducible apply State.wf_same
    | with_reducible refine foldl_same ?_ ?_
    | with_reducible apply ite_same
    | with_reducible refine same_snd (by assumption) ?_
    | with_reducible refine same_snd2 (by assumption) ?_
    | with_reducible assumption
    | exact sub_sub (by decide) hM
    | split
    | dsimp only

theorem State.bindQueue_same {M : Nat} {s0 s : State} (hk : Same M s0 s) (hM : 68719476744 ||| M = M) (v : Word32) :
    Same M s0 (State.bindQueue s v) := by
  unfold State.bindQueue
  try dsimp only
  repeat' first
    | intro _
    | with_reducible exact hk
    | with_reducible apply State.setQueue_same
    | with_reducible apply State.wf_same
    | with_reducible apply ite_same
    | with_reducible refine same_snd (by assumption) ?_
    | with_reducible refine same_snd2 (by assumption) ?_
    | with_reducible assumption
    | exact sub_sub (by decide) hM
    | split
    | dsimp only

theorem State.cfgWrite_same {M : Nat} {s0 s : State} (hk : Same M s0 s) (hM : 8 ||| M = M) (q : Nat) (v : Word32) :
    Same M s0 (State.cfgWrite s q v) := by
  unfold State.cfgWrite
  try dsimp only
  repeat' first
    | intro _
    | with_reducible exact hk
    | with_reducible apply State.writeBut_same
    | with_reducible apply ite_same
    | with_reducible refine same_snd (by assumption) ?_
    | with_reducible refine same_snd2 (by assumption) ?_
    | with_reducible assumption
    | exact sub_sub (by decide) hM
    | split
    | dsimp only

theorem State.enableQueue_same {M : Nat} {s0 s : State} (hk : Same M s0 s) (hM : 73014444040 ||| M = M) (q : Nat) (v :
    Word32) :
    Same M s0 (State.enableQueue s q v) := by
  unfold State.enableQueue
  try dsimp only
  repeat' first
    | intro _
    | with_reducible exact hk
    | with_reducible apply State.endFence_same
    | with_reducible apply State.emptyQueue_same
    | with_reducible apply State.setReg_same
    | with_reducible apply State.cfgWrite_same
    | with_reducible apply State.wf_same
    | with_reducible apply ite_same
    | with_reducible refine same_snd (by assumption) ?_
    | with_reducible refine same_snd2 (by assumption) ?_
    | with_reducible assumption
    | exact sub_sub (by decide) hM
    | split
    | dsimp only

theorem State.detachQueue_same {M : Nat} {s0 s : State} (hk : Same M s0 s) (hM : 3436250660864 ||| M = M) (q : Nat) :
    Same M s0 (State.detachQueue s q) := by
  unfold State.detachQueue
  try dsimp only
  repeat' first
    | intro _
    | with_reducible exact hk
    | with_reducible apply ite_same
    | with_reducible refine same_snd (by assumption) ?_
    | with_reducible refine same_snd2 (by assumption) ?_
    | with_reducible assumption
    | exact sub_sub (by decide) hM
    | split
    | dsimp only
    | with_reducible apply same_u3436250660864

theorem State.disableQueue_same {M : Nat} {s0 s : State} (hk : Same M s0 s) (hM : 3504970137608 ||| M = M) (q : Nat)
    (v : Word32) :
    Same M s0 (State.disableQueue s q v) := by
  unfold State.disableQueue
  try dsimp only
  repeat' first
    | intro _
    | with_reducible exact hk
    | with_reducible apply State.emptyQueue_same
    | with_reducible apply State.cfgWrite_same
    | with_reducible apply State.wf_same
    | with_reducible apply State.detachQueue_same
    | with_reducible apply ite_same
    | with_reducible refine same_snd (by assumption) ?_
    | with_reducible refine same_snd2 (by assumption) ?_
    | with_reducible assumption
    | exact sub_sub (by decide) hM
    | split
    | dsimp only

theorem State.queueCfg_same {M : Nat} {s0 s : State} (hk : Same M s0 s) (hM : 3509265104904 ||| M = M) (q : Nat) (v :
    Word32) :
    Same M s0 (State.queueCfg s q v) := by
  unfold State.queueCfg
  try dsimp only
  repeat' first
    | intro _
    | with_reducible exact hk
    | with_reducible apply State.enableQueue_same
    | with_reducible apply State.disableQueue_same
    | with_reducible apply ite_same
    | with_reducible refine same_snd (by assumption) ?_
    | with_reducible refine same_snd2 (by assumption) ?_
    | with_reducible assumption
    | exact sub_sub (by decide) hM
    | split
    | dsimp only

theorem State.ringBell_same {M : Nat} {s0 s : State} (hk : Same M s0 s) (hM : 9126805512 ||| M = M) (q : Nat) (v : Word32) :
    Same M s0 (State.ringBell s q v) := by
  unfold State.ringBell
  try dsimp only
  repeat' first
    | intro _
    | with_reducible exact hk
    | with_reducible apply State.setReg_same
    | with_reducible apply State.setCtx_same
    | with_reducible apply State.queueError_same
    | with_reducible apply ite_same
    | with_reducible refine same_snd (by assumption) ?_
    | with_reducible refine same_snd2 (by assumption) ?_
    | with_reducible assumption
    | exact sub_sub (by decide) hM
    | split
    | dsimp only

theorem State.baseWrite_same {M : Nat} {s0 s : State} (hk : Same M s0 s) (hM : 40 ||| M = M) (u : Nat) (q : Nat) (o :
    Nat) (v : Word32) :
    Same M s0 (State.baseWrite s u q o v) := by
  unfold State.baseWrite
  try dsimp only
  repeat' first
    | intro _
    | with_reducible exact hk
    | with_reducible apply State.unstage_same
    | with_reducible apply State.plainWrite_same
    | with_reducible apply ite_same
    | with_reducible refine same_snd (by assumption) ?_
    | with_reducible refine same_snd2 (by assumption) ?_
    | with_reducible assumption
    | exact sub_sub (by decide) hM
    | split
    | dsimp only
    | with_reducible apply same_u32

theorem State.validate_same {M : Nat} {s0 s : State} (hk : Same M s0 s) (hM : 3221225480 ||| M = M) (i : Nat) (v : Word32) :
    Same M s0 (State.validate s i v) := by
  unfold State.validate
  try dsimp only
  repeat' first
    | intro _
    | with_reducible exact hk
    | with_reducible apply State.clearCover_same
    | with_reducible apply State.wf_same
    | with_reducible apply State.setRegion_same
    | with_reducible apply ite_same
    | with_reducible refine same_snd (by assumption) ?_
    | with_reducible refine same_snd2 (by assumption) ?_
    | with_reducible assumption
    | exact sub_sub (by decide) hM
    | split
    | dsimp only

theorem State.invalidate_same {M : Nat} {s0 s : State} (hk : Same M s0 s) (hM : 1073741832 ||| M = M) (i : Nat) (v :
    Word32) :
    Same M s0 (State.invalidate s i v) := by
  unfold State.invalidate
  try dsimp only
  repeat' first
    | intro _
    | with_reducible exact hk
    | with_reducible apply State.wf_same
    | with_reducible apply State.setRegion_same
    | with_reducible apply ite_same
    | with_reducible refine same_snd (by assumption) ?_
    | with_reducible refine same_snd2 (by assumption) ?_
    | with_reducible assumption
    | exact sub_sub (by decide) hM
    | split
    | dsimp only

theorem State.regionCtl_same {M : Nat} {s0 s : State} (hk : Same M s0 s) (hM : 3221225480 ||| M = M) (v : Word32) :
    Same M s0 (State.regionCtl s v) := by
  unfold State.regionCtl
  try dsimp only
  repeat' first
    | intro _
    | with_reducible exact hk
    | with_reducible apply State.invalidate_same
    | with_reducible apply State.validate_same
    | with_reducible apply ite_same
    | with_reducible refine same_snd (by assumption) ?_
    | with_reducible refine same_snd2 (by assumption) ?_
    | with_reducible assumption
    | exact sub_sub (by decide) hM
    | split
    | dsimp only

theorem State.regionConfig_same {M : Nat} {s0 s : State} (hk : Same M s0 s) (hM : 1073741824 ||| M = M) (o : Nat) (v :
    Word32) :
    Same M s0 (State.regionConfig s o v) := by
  unfold State.regionConfig
  try dsimp only
  repeat' first
    | intro _
    | with_reducible exact hk
    | with_reducible apply State.setRegion_same
    | with_reducible apply ite_same
    | with_reducible refine same_snd (by assumption) ?_
    | with_reducible refine same_snd2 (by assumption) ?_
    | with_reducible assumption
    | exact sub_sub (by decide) hM
    | split
    | dsimp only

theorem State.mgEventOn_same {M : Nat} {s0 s : State} (hk : Same M s0 s) (hM : 1125899906842632 ||| M = M) (b : Nat)
    (kind : Nat) (rest : List Byte) :
    Same M s0 (State.mgEventOn s b kind rest) := by
  unfold State.mgEventOn
  try dsimp only
  repeat' first
    | intro _
    | with_reducible exact hk
    | with_reducible apply State.bump_same
    | with_reducible apply ite_same
    | with_reducible refine same_snd (by assumption) ?_
    | with_reducible refine same_snd2 (by assumption) ?_
    | with_reducible assumption
    | exact sub_sub (by decide) hM
    | split
    | dsimp only
    | with_reducible apply same_u1125899906842624

theorem State.mgEvent_same {M : Nat} {s0 s : State} (hk : Same M s0 s) (hM : 1125899906842632 ||| M = M) (kind : Nat)
    (rest : List Byte) :
    Same M s0 (State.mgEvent s kind rest) := by
  unfold State.mgEvent
  try dsimp only
  repeat' first
    | intro _
    | with_reducible exact hk
    | with_reducible apply State.mgEventOn_same
    | with_reducible apply ite_same
    | with_reducible refine same_snd (by assumption) ?_
    | with_reducible refine same_snd2 (by assumption) ?_
    | with_reducible assumption
    | exact sub_sub (by decide) hM
    | split
    | dsimp only

theorem State.notePower_same {M : Nat} {s0 s : State} (hk : Same M s0 s) (hM : 1125899906842632 ||| M = M) (old :
    State) (acts : Bool) :
    Same M s0 (State.notePower s old acts) := by
  unfold State.notePower
  try dsimp only
  repeat' first
    | intro _
    | with_reducible exact hk
    | with_reducible apply State.mgEvent_same
    | with_reducible apply ite_same
    | with_reducible refine same_snd (by assumption) ?_
    | with_reducible refine same_snd2 (by assumption) ?_
    | with_reducible assumption
    | exact sub_sub (by decide) hM
    | split
    | dsimp only

theorem State.noteForecast_same {M : Nat} {s0 s : State} (hk : Same M s0 s) (hM : 1125899906842632 ||| M = M) (old :
    State) (edge : Bool) :
    Same M s0 (State.noteForecast s old edge) := by
  unfold State.noteForecast
  try dsimp only
  repeat' first
    | intro _
    | with_reducible exact hk
    | with_reducible apply State.mgEvent_same
    | with_reducible apply ite_same
    | with_reducible refine same_snd (by assumption) ?_
    | with_reducible refine same_snd2 (by assumption) ?_
    | with_reducible assumption
    | exact sub_sub (by decide) hM
    | split
    | dsimp only

theorem State.fcolEvt_same {M : Nat} {s0 s : State} (hk : Same M s0 s) (hM : 9224 ||| M = M) (b : Nat) :
    Same M s0 (State.fcolEvt s b) := by
  unfold State.fcolEvt
  try dsimp only
  repeat' first
    | intro _
    | with_reducible exact hk
    | with_reducible apply State.sendMsg_same
    | with_reducible apply State.wf_same
    | with_reducible apply ite_same
    | with_reducible refine same_snd (by assumption) ?_
    | with_reducible refine same_snd2 (by assumption) ?_
    | with_reducible assumption
    | exact sub_sub (by decide) hM
    | split
    | dsimp only

theorem State.logEntry_same {M : Nat} {s0 s : State} (hk : Same M s0 s) (hM : 1178702234788872 ||| M = M) (page : Nat)
    (b : Nat) (k : LogKind) (who : Option Nat) (m : Meas) :
    Same M s0 (State.logEntry s page b k who m) := by
  unfold State.logEntry
  try dsimp only
  repeat' first
    | intro _
    | with_reducible exact hk
    | with_reducible apply State.raiseSrc_same
    | with_reducible apply State.mgEvent_same
    | with_reducible apply State.wf_same
    | with_reducible apply State.fcolEvt_same
    | with_reducible apply State.bump_same
    | with_reducible apply State.almanac_same
    | with_reducible apply ite_same
    | with_reducible refine same_snd (by assumption) ?_
    | with_reducible refine same_snd2 (by assumption) ?_
    | with_reducible assumption
    | exact sub_sub (by decide) hM
    | split
    | dsimp only
    | with_reducible apply same_u1125917086711808

theorem State.fenceWire_same {M : Nat} {s0 s : State} (hk : Same M s0 s) (hM : 279172883464 ||| M = M) (page : Nat) :
    Same M s0 (State.fenceWire s page) := by
  unfold State.fenceWire
  try dsimp only
  repeat' first
    | intro _
    | with_reducible exact hk
    | with_reducible apply State.fenceField_same
    | with_reducible apply State.deviceFatal_same
    | with_reducible apply State.fencePort_same
    | with_reducible apply ite_same
    | with_reducible refine same_snd (by assumption) ?_
    | with_reducible refine same_snd2 (by assumption) ?_
    | with_reducible assumption
    | exact sub_sub (by decide) hM
    | split
    | dsimp only

theorem State.wireBegins_same {M : Nat} {s0 s : State} (hk : Same M s0 s) (hM : 1178981407663112 ||| M = M) (x :
    Sampled) (m : Meas) :
    Same M s0 (State.wireBegins s x m) := by
  unfold State.wireBegins
  try dsimp only
  repeat' first
    | intro _
    | with_reducible exact hk
    | with_reducible apply State.errWords_same
    | with_reducible apply State.fenceWire_same
    | with_reducible apply State.wf_same
    | with_reducible apply State.bump_same
    | with_reducible apply State.logEntry_same
    | with_reducible apply State.condEvent_same
    | with_reducible apply ite_same
    | with_reducible refine same_snd (by assumption) ?_
    | with_reducible refine same_snd2 (by assumption) ?_
    | with_reducible assumption
    | exact sub_sub (by decide) hM
    | split
    | dsimp only

theorem State.newEvent_same {M : Nat} {s0 s : State} (hk : Same M s0 s) (hM : 1178702234788872 ||| M = M) (x :
    Sampled) (m : Meas) :
    Same M s0 (State.newEvent s x m) := by
  unfold State.newEvent
  try dsimp only
  repeat' first
    | intro _
    | with_reducible exact hk
    | with_reducible apply State.wf_same
    | with_reducible apply State.fcolEvt_same
    | with_reducible apply State.bump_same
    | with_reducible apply State.logEntry_same
    | with_reducible apply ite_same
    | with_reducible refine same_snd (by assumption) ?_
    | with_reducible refine same_snd2 (by assumption) ?_
    | with_reducible assumption
    | exact sub_sub (by decide) hM
    | split
    | dsimp only

theorem State.applySample_same {M : Nat} {s0 s : State} (hk : Same M s0 s) (hM : 1178981407663112 ||| M = M) (l : List
    (Nat × Meas)) (x : Sampled) :
    Same M s0 (State.applySample l s x) := by
  unfold State.applySample
  try dsimp only
  repeat' first
    | intro _
    | with_reducible exact hk
    | with_reducible apply State.fresh_same
    | with_reducible apply State.wireBegins_same
    | with_reducible apply State.newEvent_same
    | with_reducible apply ite_same
    | with_reducible refine same_snd (by assumption) ?_
    | with_reducible refine same_snd2 (by assumption) ?_
    | with_reducible assumption
    | exact sub_sub (by decide) hM
    | split
    | dsimp only

theorem State.collectorStep_same {M : Nat} {s0 s : State} (hk : Same M s0 s) (hM : 9224 ||| M = M) (fresh : Bool)
    (active : Bool) :
    Same M s0 (State.collectorStep s fresh active) := by
  unfold State.collectorStep
  try dsimp only
  repeat' first
    | intro _
    | with_reducible exact hk
    | with_reducible apply State.fresh_same
    | with_reducible apply State.wf_same
    | with_reducible apply State.fcolEvt_same
    | with_reducible apply State.bump_same
    | with_reducible apply ite_same
    | with_reducible refine same_snd (by assumption) ?_
    | with_reducible refine same_snd2 (by assumption) ?_
    | with_reducible assumption
    | exact sub_sub (by decide) hM
    | split
    | dsimp only

theorem State.elapse_same {M : Nat} {s0 s : State} (hk : Same M s0 s) (hM : 285873023221764 ||| M = M) (n : Nat) :
    Same M s0 (State.elapse s n) := by
  unfold State.elapse
  try dsimp only
  repeat' first
    | intro _
    | with_reducible exact hk
    | with_reducible apply ite_same
    | with_reducible refine same_snd (by assumption) ?_
    | with_reducible refine same_snd2 (by assumption) ?_
    | with_reducible assumption
    | exact sub_sub (by decide) hM
    | split
    | dsimp only
    | with_reducible apply same_u285873023221764

theorem State.gleanLost_same {M : Nat} {s0 s : State} (hk : Same M s0 s) (hM : 8592031752 ||| M = M) (f : Nat) (n :
    Nat) (c : Nat) (w : Nat) :
    Same M s0 (State.gleanLost s f n c w) := by
  unfold State.gleanLost
  try dsimp only
  repeat' first
    | intro _
    | with_reducible exact hk
    | with_reducible apply State.gleanSet_same
    | with_reducible apply State.wordsLost_same
    | with_reducible apply ite_same
    | with_reducible refine same_snd (by assumption) ?_
    | with_reducible refine same_snd2 (by assumption) ?_
    | with_reducible assumption
    | exact sub_sub (by decide) hM
    | split
    | dsimp only

theorem State.bufferLost_same {M : Nat} {s0 s : State} (hk : Same M s0 s) (hM : 8598323208 ||| M = M) (i : StreamId)
    (w : Nat) :
    Same M s0 (State.bufferLost s i w) := by
  unfold State.bufferLost
  try dsimp only
  repeat' first
    | intro _
    | with_reducible exact hk
    | with_reducible apply State.setStrm_same
    | with_reducible apply State.wordsLost_same
    | with_reducible apply ite_same
    | with_reducible refine same_snd (by assumption) ?_
    | with_reducible refine same_snd2 (by assumption) ?_
    | with_reducible assumption
    | exact sub_sub (by decide) hM
    | split
    | dsimp only

theorem State.chipFound_same {M : Nat} {s0 s : State} (hk : Same M s0 s) (hM : 287774876680 ||| M = M) (x : ChipFind) :
    Same M s0 (State.chipFound s x) := by
  unfold State.chipFound
  try dsimp only
  repeat' first
    | intro _
    | with_reducible exact hk
    | with_reducible apply State.raiseCond_same
    | with_reducible apply State.sheafLost_same
    | with_reducible apply State.raiseFatal_same
    | with_reducible apply State.fenceField_same
    | with_reducible apply State.seedLost_same
    | with_reducible apply State.raiseSrc_same
    | with_reducible apply State.bufferLost_same
    | with_reducible apply State.gleanLost_same
    | with_reducible apply ite_same
    | with_reducible refine same_snd (by assumption) ?_
    | with_reducible refine same_snd2 (by assumption) ?_
    | with_reducible assumption
    | exact sub_sub (by decide) hM
    | split
    | dsimp only

theorem State.forceSrc_same {M : Nat} {s0 s : State} (hk : Same M s0 s) (hM : 8589934600 ||| M = M) (page : Nat) (b : Nat) :
    Same M s0 (State.forceSrc s page b) := by
  unfold State.forceSrc
  try dsimp only
  repeat' first
    | intro _
    | with_reducible exact hk
    | with_reducible apply State.errWords_same
    | with_reducible apply State.raisePair_same
    | with_reducible apply ite_same
    | with_reducible refine same_snd (by assumption) ?_
    | with_reducible refine same_snd2 (by assumption) ?_
    | with_reducible assumption
    | exact sub_sub (by decide) hM
    | split
    | dsimp only

theorem State.forceWrite_same {M : Nat} {s0 s : State} (hk : Same M s0 s) (hM : 8589934600 ||| M = M) (base : Nat) (v
    : Word32) :
    Same M s0 (State.forceWrite s base v) := by
  unfold State.forceWrite
  try dsimp only
  repeat' first
    | intro _
    | with_reducible exact hk
    | with_reducible apply State.forceSrc_same
    | with_reducible refine foldl_same ?_ ?_
    | with_reducible apply ite_same
    | with_reducible refine same_snd (by assumption) ?_
    | with_reducible refine same_snd2 (by assumption) ?_
    | with_reducible assumption
    | exact sub_sub (by decide) hM
    | split
    | dsimp only

theorem State.wireTestWrite_same {M : Nat} {s0 s : State} (hk : Same M s0 s) (hM : 8589934600 ||| M = M) (v : Word32) :
    Same M s0 (State.wireTestWrite s v) := by
  unfold State.wireTestWrite
  try dsimp only
  repeat' first
    | intro _
    | with_reducible exact hk
    | with_reducible apply State.plainWrite_same
    | with_reducible apply State.setPair_same
    | with_reducible apply ite_same
    | with_reducible refine same_snd (by assumption) ?_
    | with_reducible refine same_snd2 (by assumption) ?_
    | with_reducible assumption
    | exact sub_sub (by decide) hM
    | split
    | dsimp only

theorem State.hangEntry_same {M : Nat} {s0 s : State} (hk : Same M s0 s) (hM : 34359738376 ||| M = M) (h : HangWho) :
    Same M s0 (State.hangEntry s h) := by
  unfold State.hangEntry
  try dsimp only
  repeat' first
    | intro _
    | with_reducible exact hk
    | with_reducible apply State.wf_same
    | with_reducible apply State.bump_same
    | with_reducible apply ite_same
    | with_reducible refine same_snd (by assumption) ?_
    | with_reducible refine same_snd2 (by assumption) ?_
    | with_reducible assumption
    | exact sub_sub (by decide) hM
    | split
    | dsimp only
    | with_reducible apply same_u34359738368

theorem State.expire_same {M : Nat} {s0 s : State} (hk : Same M s0 s) (hM : 47244640264 ||| M = M) (page : Nat) (b :
    Nat) (d : Dom) (fenced : Bool) (h : HangWho) :
    Same M s0 (State.expire s page b d fenced h) := by
  unfold State.expire
  try dsimp only
  repeat' first
    | intro _
    | with_reducible exact hk
    | with_reducible apply State.hangEntry_same
    | with_reducible apply State.beginFence_same
    | with_reducible apply State.blockCause_same
    | with_reducible apply State.raiseFor_same
    | with_reducible apply ite_same
    | with_reducible refine same_snd (by assumption) ?_
    | with_reducible refine same_snd2 (by assumption) ?_
    | with_reducible assumption
    | exact sub_sub (by decide) hM
    | split
    | dsimp only

theorem State.harrowFields_same {M : Nat} {s0 s : State} (hk : Same M s0 s) (hM : 8 ||| M = M) (f : Nat) (v : Word32) :
    Same M s0 (State.harrowFields s f v) := by
  unfold State.harrowFields
  try dsimp only
  repeat' first
    | intro _
    | with_reducible exact hk
    | with_reducible apply State.writeBut_same
    | with_reducible apply ite_same
    | with_reducible refine same_snd (by assumption) ?_
    | with_reducible refine same_snd2 (by assumption) ?_
    | with_reducible assumption
    | exact sub_sub (by decide) hM
    | split
    | dsimp only

theorem State.harrowCtrl_same {M : Nat} {s0 s : State} (hk : Same M s0 s) (hM : 52785148067850 ||| M = M) (f : Nat) (v
    : Word32) (m : Option Meas) :
    Same M s0 (State.harrowCtrl s f v m) := by
  unfold State.harrowCtrl
  try dsimp only
  repeat' first
    | intro _
    | with_reducible exact hk
    | with_reducible apply State.measured_same
    | with_reducible apply State.harrowGo_same
    | with_reducible apply State.harrowFields_same
    | with_reducible apply State.stopHarrow_same
    | with_reducible apply ite_same
    | with_reducible refine same_snd (by assumption) ?_
    | with_reducible refine same_snd2 (by assumption) ?_
    | with_reducible assumption
    | exact sub_sub (by decide) hM
    | split
    | dsimp only

theorem State.selectEntry_same {M : Nat} {s0 s : State} (hk : Same M s0 s) (hM : 1125908496777224 ||| M = M) (v :
    Word32) (got : Option (List Byte)) :
    Same M s0 (State.selectEntry s v got) := by
  unfold State.selectEntry
  try dsimp only
  repeat' first
    | intro _
    | with_reducible exact hk
    | with_reducible apply State.startRead_same
    | with_reducible apply State.setReg_same
    | with_reducible apply State.readAlmanac_same
    | with_reducible apply State.wf_same
    | with_reducible apply State.plainWrite_same
    | with_reducible refine foldl_same ?_ ?_
    | with_reducible apply ite_same
    | with_reducible refine same_snd (by assumption) ?_
    | with_reducible refine same_snd2 (by assumption) ?_
    | with_reducible assumption
    | exact sub_sub (by decide) hM
    | split
    | dsimp only

theorem State.selectClass_same {M : Nat} {s0 s : State} (hk : Same M s0 s) (hM : 1125899906842632 ||| M = M) (v : Word32) :
    Same M s0 (State.selectClass s v) := by
  unfold State.selectClass
  try dsimp only
  repeat' first
    | intro _
    | with_reducible exact hk
    | with_reducible apply State.startRead_same
    | with_reducible apply State.setReg_same
    | with_reducible apply State.wf_same
    | with_reducible apply State.plainWrite_same
    | with_reducible apply ite_same
    | with_reducible refine same_snd (by assumption) ?_
    | with_reducible refine same_snd2 (by assumption) ?_
    | with_reducible assumption
    | exact sub_sub (by decide) hM
    | split
    | dsimp only

theorem State.retireFurrow_same {M : Nat} {s0 s : State} (hk : Same M s0 s) (hM : 281475010265096 ||| M = M) (f : Nat)
    (n : Nat) :
    Same M s0 (State.retireFurrow s f n) := by
  unfold State.retireFurrow
  try dsimp only
  repeat' first
    | intro _
    | with_reducible exact hk
    | with_reducible apply State.wf_same
    | with_reducible apply ite_same
    | with_reducible refine same_snd (by assumption) ?_
    | with_reducible refine same_snd2 (by assumption) ?_
    | with_reducible assumption
    | exact sub_sub (by decide) hM
    | split
    | dsimp only
    | with_reducible apply same_u281475010265088

theorem State.furrowEntry_same {M : Nat} {s0 s : State} (hk : Same M s0 s) (hM : 52785148067848 ||| M = M) (event :
    Nat) (f : Nat) (n : Nat) (l : Nat) (m : Meas) :
    Same M s0 (State.furrowEntry s event f n l m) := by
  unfold State.furrowEntry
  try dsimp only
  repeat' first
    | intro _
    | with_reducible exact hk
    | with_reducible apply State.almanac_same
    | with_reducible apply ite_same
    | with_reducible refine same_snd (by assumption) ?_
    | with_reducible refine same_snd2 (by assumption) ?_
    | with_reducible assumption
    | exact sub_sub (by decide) hM
    | split
    | dsimp only

theorem State.installSpare_same {M : Nat} {s0 s : State} (hk : Same M s0 s) (hM : 40894472 ||| M = M) (f : Nat) (l :
    Nat) (n : Nat) :
    Same M s0 (State.installSpare s f l n) := by
  unfold State.installSpare
  try dsimp only
  repeat' first
    | intro _
    | with_reducible exact hk
    | with_reducible apply State.setFur_same
    | with_reducible apply State.wf_same
    | with_reducible apply ite_same
    | with_reducible refine same_snd (by assumption) ?_
    | with_reducible refine same_snd2 (by assumption) ?_
    | with_reducible assumption
    | exact sub_sub (by decide) hM
    | split
    | dsimp only
    | with_reducible apply same_u3145728
    | with_reducible apply same_u33554432
    | with_reducible apply same_u36700160

theorem State.memberEntry_same {M : Nat} {s0 s : State} (hk : Same M s0 s) (hM : 52785148067848 ||| M = M) (event :
    Nat) (x : Signed) (n : Nat) (m : Meas) :
    Same M s0 (State.memberEntry s event x n m) := by
  unfold State.memberEntry
  try dsimp only
  repeat' first
    | intro _
    | with_reducible exact hk
    | with_reducible apply State.almanac_same
    | with_reducible apply ite_same
    | with_reducible refine same_snd (by assumption) ?_
    | with_reducible refine same_snd2 (by assumption) ?_
    | with_reducible assumption
    | exact sub_sub (by decide) hM
    | split
    | dsimp only

theorem State.applySigned_same {M : Nat} {s0 s : State} (hk : Same M s0 s) (hM : 57462367453192 ||| M = M) (x :
    Signed) (sigs : List Verified) (cmd : Bool) (flashOk : Bool) (m : Meas) :
    Same M s0 (State.applySigned s x sigs cmd flashOk m).2 := by
  unfold State.applySigned
  try dsimp only
  repeat' first
    | intro _
    | with_reducible exact hk
    | with_reducible apply State.memberEntry_same
    | with_reducible apply State.bump_same
    | with_reducible apply State.fencePort_same
    | with_reducible refine foldl_same ?_ ?_
    | with_reducible apply ite_same
    | with_reducible refine same_snd (by assumption) ?_
    | with_reducible refine same_snd2 (by assumption) ?_
    | with_reducible assumption
    | exact sub_sub (by decide) hM
    | split
    | dsimp only
    | with_reducible apply same_u4398046511104

theorem State.signedBegun_same {M : Nat} {s0 : State} (s : State) (hM : 57531086929928 ||| M = M) (act q : Nat) (w :
    CmdWord) (seq : Nat)
    (host : Option (List Byte)) (sigs : List Verified) (flashOk : Bool) (m : Meas) :
    (s.signedBegun act q w seq host sigs flashOk m).Same M s0 := by
  unfold State.signedBegun
  dsimp only
  refine argsThen_same _ (begun_ite_same (begun_stop_same _ _) (begun_ite_same (begun_stop_same _ _)
    (begun_ite_same begun_wait_same ?_)))
  split
  · exact begun_run_same fun t h => State.finishCmd_same (ite_same h (State.hbmRead_same h (sub_sub (by decide) hM) _ _ _))
      (sub_sub (by decide) hM) _ _ _ _
  · refine begun_ite_same begun_wait_same (begun_ite_same (begun_stop_same _ _) ?_)
    split
    · exact begun_stop_same _ _
    · exact begun_run_same fun t h => State.finishCmd_same
        (State.applySigned_same (ite_same h (State.hbmRead_same h (sub_sub (by decide) hM) _ _ _)) (sub_sub (by
            decide) hM) _ _ _ _ _)
        (sub_sub (by decide) hM) _ _ _ _

theorem State.endObject_same {M : Nat} {s0 s : State} (hk : Same M s0 s) (hM : 57462367453192 ||| M = M) (b : List
    Byte) (sigs : List Verified) (flashOk : Bool) (m : Meas) :
    Same M s0 (State.endObject s b sigs flashOk m) := by
  unfold State.endObject
  try dsimp only
  repeat' first
    | intro _
    | with_reducible exact hk
    | with_reducible apply State.applySigned_same
    | with_reducible apply ite_same
    | with_reducible refine same_snd (by assumption) ?_
    | with_reducible refine same_snd2 (by assumption) ?_
    | with_reducible assumption
    | exact sub_sub (by decide) hM
    | split
    | dsimp only

theorem State.takeFragment_same {M : Nat} {s0 s : State} (hk : Same M s0 s) (hM : 198199855808520 ||| M = M) (x : Pkt)
    (sigs : List Verified) (flashOk : Bool) (m : Meas) :
    Same M s0 (State.takeFragment s x sigs flashOk m) := by
  unfold State.takeFragment
  try dsimp only
  repeat' first
    | intro _
    | with_reducible exact hk
    | with_reducible apply State.endObject_same
    | with_reducible apply State.bump_same
    | with_reducible apply ite_same
    | with_reducible refine same_snd (by assumption) ?_
    | with_reducible refine same_snd2 (by assumption) ?_
    | with_reducible assumption
    | exact sub_sub (by decide) hM
    | split
    | dsimp only
    | with_reducible apply same_u140737488355328

theorem State.applyDuty_same {M : Nat} {s0 s : State} (hk : Same M s0 s) (hM : 8 ||| M = M) :
    Same M s0 (State.applyDuty s) := by
  unfold State.applyDuty
  try dsimp only
  repeat' first
    | intro _
    | with_reducible exact hk
    | with_reducible apply State.wf_same
    | with_reducible refine foldl_same ?_ ?_
    | with_reducible apply ite_same
    | with_reducible refine same_snd (by assumption) ?_
    | with_reducible refine same_snd2 (by assumption) ?_
    | with_reducible assumption
    | exact sub_sub (by decide) hM
    | split
    | dsimp only

theorem State.noteTrip_same {M : Nat} {s0 s : State} (hk : Same M s0 s) (hM : 8 ||| M = M) (old : State) :
    Same M s0 (State.noteTrip s old) := by
  unfold State.noteTrip
  try dsimp only
  repeat' first
    | intro _
    | with_reducible exact hk
    | with_reducible apply State.bump_same
    | with_reducible apply ite_same
    | with_reducible refine same_snd (by assumption) ?_
    | with_reducible refine same_snd2 (by assumption) ?_
    | with_reducible assumption
    | exact sub_sub (by decide) hM
    | split
    | dsimp only

theorem State.showPower_same {M : Nat} {s0 s : State} (hk : Same M s0 s) (hM : 8 ||| M = M) (x : PowerIn) :
    Same M s0 (State.showPower s x) := by
  unfold State.showPower
  try dsimp only
  repeat' first
    | intro _
    | with_reducible exact hk
    | with_reducible apply State.peak_same
    | with_reducible apply State.wf_same
    | with_reducible apply State.bump64_same
    | with_reducible apply State.bump_same
    | with_reducible refine foldl_same ?_ ?_
    | with_reducible apply ite_same
    | with_reducible refine same_snd (by assumption) ?_
    | with_reducible refine same_snd2 (by assumption) ?_
    | with_reducible assumption
    | exact sub_sub (by decide) hM
    | split
    | dsimp only

theorem State.brakeAfter_same {M : Nat} {s0 s : State} (hk : Same M s0 s) (hM : 281474976710656 ||| M = M) (w : Nat)
    (broke : Bool) :
    Same M s0 (State.brakeAfter s w broke) := by
  unfold State.brakeAfter
  try dsimp only
  repeat' first
    | intro _
    | with_reducible exact hk
    | with_reducible apply ite_same
    | with_reducible refine same_snd (by assumption) ?_
    | with_reducible refine same_snd2 (by assumption) ?_
    | with_reducible assumption
    | exact sub_sub (by decide) hM
    | split
    | dsimp only
    | with_reducible apply same_u281474976710656

theorem State.addSample_same {M : Nat} {s0 s : State} (hk : Same M s0 s) (hM : 281474976710656 ||| M = M) (w : Nat) :
    Same M s0 (State.addSample s w) := by
  unfold State.addSample
  try dsimp only
  repeat' first
    | intro _
    | with_reducible exact hk
    | with_reducible apply ite_same
    | with_reducible refine same_snd (by assumption) ?_
    | with_reducible refine same_snd2 (by assumption) ?_
    | with_reducible assumption
    | exact sub_sub (by decide) hM
    | split
    | dsimp only
    | with_reducible apply same_u281474976710656

theorem State.setCeils_same {M : Nat} {s0 s : State} (hk : Same M s0 s) (hM : 281474976710656 ||| M = M) (l : List Nat) :
    Same M s0 (State.setCeils s l) := by
  unfold State.setCeils
  try dsimp only
  repeat' first
    | intro _
    | with_reducible exact hk
    | with_reducible apply ite_same
    | with_reducible refine same_snd (by assumption) ?_
    | with_reducible refine same_snd2 (by assumption) ?_
    | with_reducible assumption
    | exact sub_sub (by decide) hM
    | split
    | dsimp only
    | with_reducible apply same_u281474976710656

theorem State.recompute_same {M : Nat} {s0 s : State} (hk : Same M s0 s) (hM : 281474976710656 ||| M = M) :
    Same M s0 (State.recompute s) := by
  unfold State.recompute
  try dsimp only
  repeat' first
    | intro _
    | with_reducible exact hk
    | with_reducible apply State.setCeils_same
    | with_reducible apply ite_same
    | with_reducible refine same_snd (by assumption) ?_
    | with_reducible refine same_snd2 (by assumption) ?_
    | with_reducible assumption
    | exact sub_sub (by decide) hM
    | split
    | dsimp only

theorem State.minuteEdge_same {M : Nat} {s0 s : State} (hk : Same M s0 s) (hM : 1407374883553288 ||| M = M) :
    Same M s0 (State.minuteEdge s) := by
  unfold State.minuteEdge
  try dsimp only
  repeat' first
    | intro _
    | with_reducible exact hk
    | with_reducible apply State.noteForecast_same
    | with_reducible apply State.wf_same
    | with_reducible apply ite_same
    | with_reducible refine same_snd (by assumption) ?_
    | with_reducible refine same_snd2 (by assumption) ?_
    | with_reducible assumption
    | exact sub_sub (by decide) hM
    | split
    | dsimp only
    | with_reducible apply same_u281474976710656

theorem State.dueBoundary_same {M : Nat} {s0 s : State} (hk : Same M s0 s) (hM : 1407374883553288 ||| M = M) :
    Same M s0 (State.dueBoundary s) := by
  unfold State.dueBoundary
  try dsimp only
  repeat' first
    | intro _
    | with_reducible exact hk
    | with_reducible apply State.minuteEdge_same
    | with_reducible apply ite_same
    | with_reducible refine same_snd (by assumption) ?_
    | with_reducible refine same_snd2 (by assumption) ?_
    | with_reducible assumption
    | exact sub_sub (by decide) hM
    | split
    | dsimp only

theorem State.setAllot_same {M : Nat} {s0 s : State} (hk : Same M s0 s) (hM : 1407374883553288 ||| M = M) (mgmt :
    Bool) (a : Nat) :
    Same M s0 (State.setAllot s mgmt a) := by
  unfold State.setAllot
  try dsimp only
  repeat' first
    | intro _
    | with_reducible exact hk
    | with_reducible apply State.noteForecast_same
    | with_reducible apply State.recompute_same
    | with_reducible apply State.dueBoundary_same
    | with_reducible apply State.wf_same
    | with_reducible apply ite_same
    | with_reducible refine same_snd (by assumption) ?_
    | with_reducible refine same_snd2 (by assumption) ?_
    | with_reducible assumption
    | exact sub_sub (by decide) hM
    | split
    | dsimp only
    | with_reducible apply same_u281474976710656

theorem State.setCap_same {M : Nat} {s0 s : State} (hk : Same M s0 s) (hM : 1407374883553288 ||| M = M) (mgmt : Bool)
    (m : Nat) (cap : Nat) :
    Same M s0 (State.setCap s mgmt m cap).2 := by
  unfold State.setCap
  try dsimp only
  repeat' first
    | intro _
    | with_reducible exact hk
    | with_reducible apply State.noteForecast_same
    | with_reducible apply State.setCeils_same
    | with_reducible apply State.dueBoundary_same
    | with_reducible apply State.wf_same
    | with_reducible apply ite_same
    | with_reducible refine same_snd (by assumption) ?_
    | with_reducible refine same_snd2 (by assumption) ?_
    | with_reducible assumption
    | exact sub_sub (by decide) hM
    | split
    | dsimp only
    | with_reducible apply same_u281474976710656

theorem State.planCap_same {M : Nat} {s0 s : State} (hk : Same M s0 s) (hM : 1407374883553288 ||| M = M) (v : Word32) :
    Same M s0 (State.planCap s v) := by
  unfold State.planCap
  try dsimp only
  repeat' first
    | intro _
    | with_reducible exact hk
    | with_reducible apply State.setCap_same
    | with_reducible apply ite_same
    | with_reducible refine same_snd (by assumption) ?_
    | with_reducible refine same_snd2 (by assumption) ?_
    | with_reducible assumption
    | exact sub_sub (by decide) hM
    | split
    | dsimp only

theorem State.setAlign_same {M : Nat} {s0 s : State} (hk : Same M s0 s) (hM : 1407374883553288 ||| M = M) (a : Nat) :
    Same M s0 (s.setAlign a) := by
  unfold State.setAlign
  refine ite_same hk (State.noteForecast_same ?_ (sub_sub (by decide) hM) _ _)
  refine same_u281474976710656 ?_ (sub_sub (by decide) hM)
  exact State.setCeils_same (State.wf_same (State.dueBoundary_same hk (sub_sub (by decide) hM)) (sub_sub (by decide) hM) _ _)
    (sub_sub (by decide) hM) _

theorem State.showTemp_same {M : Nat} {s0 s : State} (hk : Same M s0 s) (hM : 8 ||| M = M) (d : Nat) (t : BitVec 8) :
    Same M s0 (State.showTemp s d t) := by
  unfold State.showTemp
  try dsimp only
  repeat' first
    | intro _
    | with_reducible exact hk
    | with_reducible apply State.wf_same
    | with_reducible apply ite_same
    | with_reducible refine same_snd (by assumption) ?_
    | with_reducible refine same_snd2 (by assumption) ?_
    | with_reducible assumption
    | exact sub_sub (by decide) hM
    | split
    | dsimp only

theorem State.condIs_same {M : Nat} {s0 s : State} (hk : Same M s0 s) (hM : 8589934600 ||| M = M) (page : Nat) (b :
    Nat) (on : Bool) :
    Same M s0 (State.condIs s page b on) := by
  unfold State.condIs
  try dsimp only
  repeat' first
    | intro _
    | with_reducible exact hk
    | with_reducible apply State.raiseCond_same
    | with_reducible apply State.dropCond_same
    | with_reducible apply ite_same
    | with_reducible refine same_snd (by assumption) ?_
    | with_reducible refine same_snd2 (by assumption) ?_
    | with_reducible assumption
    | exact sub_sub (by decide) hM
    | split
    | dsimp only

theorem State.showAbove_same {M : Nat} {s0 s : State} (hk : Same M s0 s) (hM : 8589934600 ||| M = M) :
    Same M s0 (State.showAbove s) := by
  unfold State.showAbove
  try dsimp only
  repeat' first
    | intro _
    | with_reducible exact hk
    | with_reducible apply State.condIs_same
    | with_reducible apply ite_same
    | with_reducible refine same_snd (by assumption) ?_
    | with_reducible refine same_snd2 (by assumption) ?_
    | with_reducible assumption
    | exact sub_sub (by decide) hM
    | split
    | dsimp only

theorem State.linkDown_same {M : Nat} {s0 s : State} (hk : Same M s0 s) (hM : 8 ||| M = M) :
    Same M s0 (State.linkDown s) := by
  unfold State.linkDown
  try dsimp only
  repeat' first
    | intro _
    | with_reducible exact hk
    | with_reducible apply State.setReg_same
    | with_reducible apply ite_same
    | with_reducible refine same_snd (by assumption) ?_
    | with_reducible refine same_snd2 (by assumption) ?_
    | with_reducible assumption
    | exact sub_sub (by decide) hM
    | split
    | dsimp only

theorem State.pllLost_same {M : Nat} {s0 s : State} (hk : Same M s0 s) (hM : 287762808840 ||| M = M) (i : Nat) :
    Same M s0 (State.pllLost s i) := by
  unfold State.pllLost
  try dsimp only
  repeat' first
    | intro _
    | with_reducible exact hk
    | with_reducible apply State.linkDown_same
    | with_reducible apply State.raiseCond_same
    | with_reducible apply State.setPll_same
    | with_reducible apply State.fenceField_same
    | with_reducible apply State.portDown_same
    | with_reducible apply State.raiseSrc_same
    | with_reducible apply ite_same
    | with_reducible refine same_snd (by assumption) ?_
    | with_reducible refine same_snd2 (by assumption) ?_
    | with_reducible assumption
    | exact sub_sub (by decide) hM
    | split
    | dsimp only

theorem State.showMeter_same {M : Nat} {s0 s : State} (hk : Same M s0 s) (hM : 8 ||| M = M) (j : Nat) (q : Nat) (n :
    Nat) (on : Bool) :
    Same M s0 (State.showMeter s j q n on) := by
  unfold State.showMeter
  try dsimp only
  repeat' first
    | intro _
    | with_reducible exact hk
    | with_reducible apply State.wf_same
    | with_reducible apply ite_same
    | with_reducible refine same_snd (by assumption) ?_
    | with_reducible refine same_snd2 (by assumption) ?_
    | with_reducible assumption
    | exact sub_sub (by decide) hM
    | split
    | dsimp only

theorem State.fallback_same {M : Nat} {s0 s : State} (hk : Same M s0 s) (hM : 563237716239368 ||| M = M) :
    Same M s0 (State.fallback s) := by
  unfold State.fallback
  try dsimp only
  repeat' first
    | intro _
    | with_reducible exact hk
    | with_reducible apply State.raiseCond_same
    | with_reducible apply State.fenceField_same
    | with_reducible apply State.portDown_same
    | with_reducible apply State.sendVector0_same
    | with_reducible apply State.pllLost_same
    | with_reducible apply State.wf_same
    | with_reducible refine foldl_same ?_ ?_
    | with_reducible apply ite_same
    | with_reducible refine same_snd (by assumption) ?_
    | with_reducible refine same_snd2 (by assumption) ?_
    | with_reducible assumption
    | exact sub_sub (by decide) hM
    | split
    | dsimp only
    | with_reducible apply same_u562949953421312

theorem State.stopMeters_same {M : Nat} {s0 s : State} (hk : Same M s0 s) (hM : 8 ||| M = M) :
    Same M s0 (State.stopMeters s) := by
  unfold State.stopMeters
  try dsimp only
  repeat' first
    | intro _
    | with_reducible exact hk
    | with_reducible apply State.wf_same
    | with_reducible refine foldl_same ?_ ?_
    | with_reducible apply ite_same
    | with_reducible refine same_snd (by assumption) ?_
    | with_reducible refine same_snd2 (by assumption) ?_
    | with_reducible assumption
    | exact sub_sub (by decide) hM
    | split
    | dsimp only

theorem State.clkGate_same {M : Nat} {s0 s : State} (hk : Same M s0 s) (hM : 4204304376842 ||| M = M) (base : Nat) (v
    : Word32) :
    Same M s0 (State.clkGate s base v) := by
  unfold State.clkGate
  try dsimp only
  repeat' first
    | intro _
    | with_reducible exact hk
    | with_reducible apply State.wf_same
    | with_reducible apply State.stopMeters_same
    | with_reducible apply State.admitAll_same
    | with_reducible apply State.plainWrite_same
    | with_reducible apply ite_same
    | with_reducible refine same_snd (by assumption) ?_
    | with_reducible refine same_snd2 (by assumption) ?_
    | with_reducible assumption
    | exact sub_sub (by decide) hM
    | split
    | dsimp only

theorem State.clkOut_same {M : Nat} {s0 s : State} (hk : Same M s0 s) (hM : 8 ||| M = M) (v : Word32) :
    Same M s0 (State.clkOut s v) := by
  unfold State.clkOut
  try dsimp only
  repeat' first
    | intro _
    | with_reducible exact hk
    | with_reducible apply State.stopMeters_same
    | with_reducible apply State.plainWrite_same
    | with_reducible apply ite_same
    | with_reducible refine same_snd (by assumption) ?_
    | with_reducible refine same_snd2 (by assumption) ?_
    | with_reducible assumption
    | exact sub_sub (by decide) hM
    | split
    | dsimp only

theorem State.fieldUp_same {M : Nat} {s0 s : State} (hk : Same M s0 s) (hM : 287762808840 ||| M = M) (f : Nat)
    (failing : List (Fin 5)) :
    Same M s0 (State.fieldUp s f failing) := by
  unfold State.fieldUp
  try dsimp only
  repeat' first
    | intro _
    | with_reducible exact hk
    | with_reducible apply State.applyDuty_same
    | with_reducible apply State.fenceField_same
    | with_reducible apply State.raiseSrc_same
    | with_reducible apply State.wf_same
    | with_reducible refine foldl_same ?_ ?_
    | with_reducible apply ite_same
    | with_reducible refine same_snd (by assumption) ?_
    | with_reducible refine same_snd2 (by assumption) ?_
    | with_reducible assumption
    | exact sub_sub (by decide) hM
    | split
    | dsimp only

theorem State.draw_same {M : Nat} {s0 s : State} (hk : Same M s0 s) (hM : 2 ||| M = M) (n : Nat) :
    Same M s0 (State.draw s n).2 := by
  unfold State.draw
  try dsimp only
  repeat' first
    | intro _
    | with_reducible exact hk
    | with_reducible apply State.fresh_same
    | with_reducible apply ite_same
    | with_reducible refine same_snd (by assumption) ?_
    | with_reducible refine same_snd2 (by assumption) ?_
    | with_reducible assumption
    | exact sub_sub (by decide) hM
    | split
    | dsimp only

theorem State.signed_same {M : Nat} {s0 s : State} (hk : Same M s0 s) (hM : 2 ||| M = M) (ctx : List Byte) (b : List Byte) :
    Same M s0 (State.signed s ctx b).2 := by
  unfold State.signed
  try dsimp only
  repeat' first
    | intro _
    | with_reducible exact hk
    | with_reducible apply State.fresh_same
    | with_reducible apply ite_same
    | with_reducible refine same_snd (by assumption) ?_
    | with_reducible refine same_snd2 (by assumption) ?_
    | with_reducible assumption
    | exact sub_sub (by decide) hM
    | split
    | dsimp only

theorem State.showBytes_same {M : Nat} {s0 s : State} (hk : Same M s0 s) (hM : 8 ||| M = M) (a : Nat) (n : Nat) (b :
    List Byte) :
    Same M s0 (State.showBytes s a n b) := by
  unfold State.showBytes
  try dsimp only
  repeat' first
    | intro _
    | with_reducible exact hk
    | with_reducible apply State.setReg_same
    | with_reducible refine foldl_same ?_ ?_
    | with_reducible apply ite_same
    | with_reducible refine same_snd (by assumption) ?_
    | with_reducible refine same_snd2 (by assumption) ?_
    | with_reducible assumption
    | exact sub_sub (by decide) hM
    | split
    | dsimp only

theorem State.upFail_same {M : Nat} {s0 s : State} (hk : Same M s0 s) (hM : 8589934600 ||| M = M) (cause : Nat) :
    Same M s0 (State.upFail s cause) := by
  unfold State.upFail
  try dsimp only
  repeat' first
    | intro _
    | with_reducible exact hk
    | with_reducible apply State.raiseSrc_same
    | with_reducible apply State.wf_same
    | with_reducible apply ite_same
    | with_reducible refine same_snd (by assumption) ?_
    | with_reducible refine same_snd2 (by assumption) ?_
    | with_reducible assumption
    | exact sub_sub (by decide) hM
    | split
    | dsimp only

theorem State.updateBegin_same {M : Nat} {s0 s : State} (hk : Same M s0 s) (hM : 145144124801032 ||| M = M) (owner :
    Nat) (h : List Byte) (sig : Bool) (flashOk : Bool) :
    Same M s0 (State.updateBegin s owner h sig flashOk) := by
  unfold State.updateBegin
  try dsimp only
  repeat' first
    | intro _
    | with_reducible exact hk
    | with_reducible apply State.wf_same
    | with_reducible apply State.upFail_same
    | with_reducible apply ite_same
    | with_reducible refine same_snd (by assumption) ?_
    | with_reducible refine same_snd2 (by assumption) ?_
    | with_reducible assumption
    | exact sub_sub (by decide) hM
    | split
    | dsimp only
    | with_reducible apply same_u145135534866432

theorem State.updateData_same {M : Nat} {s0 s : State} (hk : Same M s0 s) (hM : 4406636445704 ||| M = M) (owner : Nat)
    (off : Nat) (b : List Byte) :
    Same M s0 (State.updateData s owner off b) := by
  unfold State.updateData
  try dsimp only
  repeat' first
    | intro _
    | with_reducible exact hk
    | with_reducible apply State.wf_same
    | with_reducible apply State.upFail_same
    | with_reducible apply ite_same
    | with_reducible refine same_snd (by assumption) ?_
    | with_reducible refine same_snd2 (by assumption) ?_
    | with_reducible assumption
    | exact sub_sub (by decide) hM
    | split
    | dsimp only
    | with_reducible apply same_u4398046511104

theorem State.updateFinish_same {M : Nat} {s0 s : State} (hk : Same M s0 s) (hM : 4406636445704 ||| M = M) (owner :
    Nat) (flashOk : Bool) :
    Same M s0 (State.updateFinish s owner flashOk) := by
  unfold State.updateFinish
  try dsimp only
  repeat' first
    | intro _
    | with_reducible exact hk
    | with_reducible apply State.wf_same
    | with_reducible apply State.upFail_same
    | with_reducible apply ite_same
    | with_reducible refine same_snd (by assumption) ?_
    | with_reducible refine same_snd2 (by assumption) ?_
    | with_reducible assumption
    | exact sub_sub (by decide) hM
    | split
    | dsimp only
    | with_reducible apply same_u4398046511104

theorem State.updateCancel_same {M : Nat} {s0 s : State} (hk : Same M s0 s) (hM : 8 ||| M = M) (owner : Nat) :
    Same M s0 (State.updateCancel s owner) := by
  unfold State.updateCancel
  try dsimp only
  repeat' first
    | intro _
    | with_reducible exact hk
    | with_reducible apply State.wf_same
    | with_reducible apply ite_same
    | with_reducible refine same_snd (by assumption) ?_
    | with_reducible refine same_snd2 (by assumption) ?_
    | with_reducible assumption
    | exact sub_sub (by decide) hM
    | split
    | dsimp only

theorem State.updCtrl_same {M : Nat} {s0 s : State} (hk : Same M s0 s) (hM : 145144124801034 ||| M = M) (v : Word32)
    (sigs : Option (List Verified)) (flashOk : Option Bool) :
    Same M s0 (State.updCtrl s v sigs flashOk) := by
  unfold State.updCtrl
  try dsimp only
  repeat' first
    | intro _
    | with_reducible exact hk
    | with_reducible apply State.updateData_same
    | with_reducible apply State.updateFinish_same
    | with_reducible apply State.verdict_same
    | with_reducible apply State.updateCancel_same
    | with_reducible apply State.updateBegin_same
    | with_reducible apply ite_same
    | with_reducible refine same_snd (by assumption) ?_
    | with_reducible refine same_snd2 (by assumption) ?_
    | with_reducible assumption
    | exact sub_sub (by decide) hM
    | split
    | dsimp only

theorem State.secCtrl_same {M : Nat} {s0 s : State} (hk : Same M s0 s) (hM : 8 ||| M = M) (v : Word32) :
    Same M s0 (State.secCtrl s v) := by
  unfold State.secCtrl
  try dsimp only
  repeat' first
    | intro _
    | with_reducible exact hk
    | with_reducible apply State.wf_same
    | with_reducible apply State.plainWrite_same
    | with_reducible apply ite_same
    | with_reducible refine same_snd (by assumption) ?_
    | with_reducible refine same_snd2 (by assumption) ?_
    | with_reducible assumption
    | exact sub_sub (by decide) hM
    | split
    | dsimp only

theorem State.rekeyed_same {M : Nat} {s0 s : State} (hk : Same M s0 s) (hM : 98306 ||| M = M) (c : Nat) :
    Same M s0 (State.rekeyed s c) := by
  unfold State.rekeyed
  try dsimp only
  repeat' first
    | intro _
    | with_reducible exact hk
    | with_reducible apply State.undefGranules_same
    | with_reducible refine foldl_same ?_ ?_
    | with_reducible apply ite_same
    | with_reducible refine same_snd (by assumption) ?_
    | with_reducible refine same_snd2 (by assumption) ?_
    | with_reducible assumption
    | exact sub_sub (by decide) hM
    | split
    | dsimp only

theorem State.setKey_same {M : Nat} {s0 s : State} (hk : Same M s0 s) (hM : 140737488453634 ||| M = M) (load : Bool) :
    Same M s0 (State.setKey s load) := by
  unfold State.setKey
  try dsimp only
  repeat' first
    | intro _
    | with_reducible exact hk
    | with_reducible apply State.rekeyed_same
    | with_reducible apply ite_same
    | with_reducible refine same_snd (by assumption) ?_
    | with_reducible refine same_snd2 (by assumption) ?_
    | with_reducible assumption
    | exact sub_sub (by decide) hM
    | split
    | dsimp only
    | with_reducible apply same_u140737488355328

theorem State.keyCmd_same {M : Nat} {s0 s : State} (hk : Same M s0 s) (hM : 140737488453642 ||| M = M) (v : Word32) :
    Same M s0 (State.keyCmd s v) := by
  unfold State.keyCmd
  try dsimp only
  repeat' first
    | intro _
    | with_reducible exact hk
    | with_reducible apply State.wf_same
    | with_reducible apply State.setKey_same
    | with_reducible apply ite_same
    | with_reducible refine same_snd (by assumption) ?_
    | with_reducible refine same_snd2 (by assumption) ?_
    | with_reducible assumption
    | exact sub_sub (by decide) hM
    | split
    | dsimp only
    | with_reducible apply same_u140737488355328

theorem State.newNonce_same {M : Nat} {s0 s : State} (hk : Same M s0 s) (hM : 10 ||| M = M) :
    Same M s0 (State.newNonce s) := by
  unfold State.newNonce
  try dsimp only
  repeat' first
    | intro _
    | with_reducible exact hk
    | with_reducible apply State.showBytes_same
    | with_reducible apply State.draw_same
    | with_reducible apply ite_same
    | with_reducible refine same_snd (by assumption) ?_
    | with_reducible refine same_snd2 (by assumption) ?_
    | with_reducible assumption
    | exact sub_sub (by decide) hM
    | split
    | dsimp only

theorem State.tryToken_same {M : Nat} {s0 s : State} (hk : Same M s0 s) (hM : 140746078289930 ||| M = M) (sig : Bool) :
    Same M s0 (State.tryToken s sig) := by
  unfold State.tryToken
  try dsimp only
  repeat' first
    | intro _
    | with_reducible exact hk
    | with_reducible apply State.raiseSrc_same
    | with_reducible apply State.wf_same
    | with_reducible apply State.newNonce_same
    | with_reducible apply ite_same
    | with_reducible refine same_snd (by assumption) ?_
    | with_reducible refine same_snd2 (by assumption) ?_
    | with_reducible assumption
    | exact sub_sub (by decide) hM
    | split
    | dsimp only
    | with_reducible apply same_u140737488355328

theorem State.dbgCtrl_same {M : Nat} {s0 s : State} (hk : Same M s0 s) (hM : 140746078289930 ||| M = M) (v : Word32)
    (sigs : Option (List Verified)) :
    Same M s0 (State.dbgCtrl s v sigs) := by
  unfold State.dbgCtrl
  try dsimp only
  repeat' first
    | intro _
    | with_reducible exact hk
    | with_reducible apply State.verdict_same
    | with_reducible apply State.tryToken_same
    | with_reducible apply ite_same
    | with_reducible refine same_snd (by assumption) ?_
    | with_reducible refine same_snd2 (by assumption) ?_
    | with_reducible assumption
    | exact sub_sub (by decide) hM
    | split
    | dsimp only

theorem State.attest_same {M : Nat} {s0 s : State} (hk : Same M s0 s) (hM : 2 ||| M = M) (req : List Byte) :
    Same M s0 (State.attest s req).2 := by
  unfold State.attest
  try dsimp only
  repeat' first
    | intro _
    | with_reducible exact hk
    | with_reducible apply State.signed_same
    | with_reducible apply ite_same
    | with_reducible refine same_snd (by assumption) ?_
    | with_reducible refine same_snd2 (by assumption) ?_
    | with_reducible assumption
    | exact sub_sub (by decide) hM
    | split
    | dsimp only

theorem State.doeAnswer_same {M : Nat} {s0 s : State} (hk : Same M s0 s) (hM : 140737488355328 ||| M = M) (b : List Byte) :
    Same M s0 (State.doeAnswer s b) := by
  unfold State.doeAnswer
  try dsimp only
  repeat' first
    | intro _
    | with_reducible exact hk
    | with_reducible apply ite_same
    | with_reducible refine same_snd (by assumption) ?_
    | with_reducible refine same_snd2 (by assumption) ?_
    | with_reducible assumption
    | exact sub_sub (by decide) hM
    | split
    | dsimp only
    | with_reducible apply same_u140737488355328

theorem State.discovery_same {M : Nat} {s0 s : State} (hk : Same M s0 s) (hM : 2 ||| M = M) (i : Nat) :
    Same M s0 (State.discovery s i).2 := by
  unfold State.discovery
  try dsimp only
  repeat' first
    | intro _
    | with_reducible exact hk
    | with_reducible apply State.freeBytes_same
    | with_reducible apply ite_same
    | with_reducible refine same_snd (by assumption) ?_
    | with_reducible refine same_snd2 (by assumption) ?_
    | with_reducible assumption
    | exact sub_sub (by decide) hM
    | split
    | dsimp only

theorem State.ideFail_same {M : Nat} {s0 s : State} (hk : Same M s0 s) (hM : 140737488355328 ||| M = M) :
    Same M s0 (State.ideFail s) := by
  unfold State.ideFail
  try dsimp only
  repeat' first
    | intro _
    | with_reducible exact hk
    | with_reducible apply State.doeAnswer_same
    | with_reducible apply ite_same
    | with_reducible refine same_snd (by assumption) ?_
    | with_reducible refine same_snd2 (by assumption) ?_
    | with_reducible assumption
    | exact sub_sub (by decide) hM
    | split
    | dsimp only
    | with_reducible apply same_u140737488355328

theorem State.ideStart_same {M : Nat} {s0 s : State} (hk : Same M s0 s) (hM : 140737488355330 ||| M = M) (req : List Byte) :
    Same M s0 (State.ideStart s req) := by
  unfold State.ideStart
  try dsimp only
  repeat' first
    | intro _
    | with_reducible exact hk
    | with_reducible apply State.fresh_same
    | with_reducible apply State.doeAnswer_same
    | with_reducible apply State.signed_same
    | with_reducible apply ite_same
    | with_reducible refine same_snd (by assumption) ?_
    | with_reducible refine same_snd2 (by assumption) ?_
    | with_reducible assumption
    | exact sub_sub (by decide) hM
    | split
    | dsimp only
    | with_reducible apply same_u140737488355328

theorem State.ideDerive_same {M : Nat} {s0 s : State} (hk : Same M s0 s) (hM : 140737488355328 ||| M = M) (req : List Byte) :
    Same M s0 (State.ideDerive s req) := by
  unfold State.ideDerive
  try dsimp only
  repeat' first
    | intro _
    | with_reducible exact hk
    | with_reducible apply State.doeAnswer_same
    | with_reducible apply ite_same
    | with_reducible refine same_snd (by assumption) ?_
    | with_reducible refine same_snd2 (by assumption) ?_
    | with_reducible assumption
    | exact sub_sub (by decide) hM
    | split
    | dsimp only
    | with_reducible apply same_u140737488355328

theorem State.ideUse_same {M : Nat} {s0 s : State} (hk : Same M s0 s) (hM : 140737488355336 ||| M = M) :
    Same M s0 (State.ideUse s) := by
  unfold State.ideUse
  try dsimp only
  repeat' first
    | intro _
    | with_reducible exact hk
    | with_reducible apply State.doeAnswer_same
    | with_reducible apply State.wf_same
    | with_reducible apply ite_same
    | with_reducible refine same_snd (by assumption) ?_
    | with_reducible refine same_snd2 (by assumption) ?_
    | with_reducible assumption
    | exact sub_sub (by decide) hM
    | split
    | dsimp only
    | with_reducible apply same_u140737488355328

theorem State.deviceReset_same {M : Nat} {s0 s : State} (hk : Same M s0 s) (hM : 72044399898393086 ||| M = M) : Same M
    s0 s.deviceReset := by
  unfold State.deviceReset
  exact same_u72044399898393086 hk hM

theorem State.deriveIdentity_same {M : Nat} {s0 s : State} (hk : Same M s0 s) (hM : 140737488355336 ||| M = M) :
    Same M s0 (State.deriveIdentity s) := by
  unfold State.deriveIdentity
  try dsimp only
  repeat' first
    | intro _
    | with_reducible exact hk
    | with_reducible apply State.showBytes_same
    | with_reducible apply ite_same
    | with_reducible refine same_snd (by assumption) ?_
    | with_reducible refine same_snd2 (by assumption) ?_
    | with_reducible assumption
    | exact sub_sub (by decide) hM
    | split
    | dsimp only
    | with_reducible apply same_u140737488355328

theorem State.leaveStart_same {M : Nat} {s0 s : State} (hk : Same M s0 s) (hM : 8 ||| M = M) :
    Same M s0 (State.leaveStart s) := by
  unfold State.leaveStart
  try dsimp only
  repeat' first
    | intro _
    | with_reducible exact hk
    | with_reducible apply State.wf_same
    | with_reducible apply ite_same
    | with_reducible refine same_snd (by assumption) ?_
    | with_reducible refine same_snd2 (by assumption) ?_
    | with_reducible assumption
    | exact sub_sub (by decide) hM
    | split
    | dsimp only

theorem State.checkFuses_same {M : Nat} {s0 s : State} (hk : Same M s0 s) (hM : 140737488355338 ||| M = M) :
    Same M s0 (State.checkFuses s) := by
  unfold State.checkFuses
  try dsimp only
  repeat' first
    | intro _
    | with_reducible exact hk
    | with_reducible apply State.deriveIdentity_same
    | with_reducible apply State.startPll_same
    | with_reducible apply State.wf_same
    | with_reducible apply State.newNonce_same
    | with_reducible apply ite_same
    | with_reducible refine same_snd (by assumption) ?_
    | with_reducible refine same_snd2 (by assumption) ?_
    | with_reducible assumption
    | exact sub_sub (by decide) hM
    | split
    | dsimp only

theorem State.initFirmware_same {M : Nat} {s0 s : State} (hk : Same M s0 s) (hM : 145135534866440 ||| M = M) (h : List
    Byte) :
    Same M s0 (State.initFirmware s h) := by
  unfold State.initFirmware
  try dsimp only
  repeat' first
    | intro _
    | with_reducible exact hk
    | with_reducible apply State.wf_same
    | with_reducible apply ite_same
    | with_reducible refine same_snd (by assumption) ?_
    | with_reducible refine same_snd2 (by assumption) ?_
    | with_reducible assumption
    | exact sub_sub (by decide) hM
    | split
    | dsimp only
    | with_reducible apply same_u145135534866440

theorem State.releaseVec_same {M : Nat} {s0 s : State} (hk : Same M s0 s) (hM : 9216 ||| M = M) (k : Nat) :
    Same M s0 (State.releaseVec s k) := by
  unfold State.releaseVec
  try dsimp only
  repeat' first
    | intro _
    | with_reducible exact hk
    | with_reducible apply ite_same
    | with_reducible refine same_snd (by assumption) ?_
    | with_reducible refine same_snd2 (by assumption) ?_
    | with_reducible assumption
    | exact sub_sub (by decide) hM
    | split
    | dsimp only
    | with_reducible apply same_u9216

theorem State.releaseFunc_same {M : Nat} {s0 s : State} (hk : Same M s0 s) (hM : 9216 ||| M = M) (u : Nat) :
    Same M s0 (State.releaseFunc s u) := by
  unfold State.releaseFunc
  try dsimp only
  repeat' first
    | intro _
    | with_reducible exact hk
    | with_reducible apply State.releaseVec_same
    | with_reducible refine foldl_same ?_ ?_
    | with_reducible apply ite_same
    | with_reducible refine same_snd (by assumption) ?_
    | with_reducible refine same_snd2 (by assumption) ?_
    | with_reducible assumption
    | exact sub_sub (by decide) hM
    | split
    | dsimp only

theorem State.dropQueue_same {M : Nat} {s0 s : State} (hk : Same M s0 s) (hM : 3504970137608 ||| M = M) (q : Nat) :
    Same M s0 (State.dropQueue s q) := by
  unfold State.dropQueue
  try dsimp only
  repeat' first
    | intro _
    | with_reducible exact hk
    | with_reducible apply State.emptyQueue_same
    | with_reducible apply State.wf_same
    | with_reducible apply State.detachQueue_same
    | with_reducible apply ite_same
    | with_reducible refine same_snd (by assumption) ?_
    | with_reducible refine same_snd2 (by assumption) ?_
    | with_reducible assumption
    | exact sub_sub (by decide) hM
    | split
    | dsimp only

theorem State.resetMsix_same {M : Nat} {s0 s : State} (hk : Same M s0 s) (hM : 30720 ||| M = M) (u : Nat) :
    Same M s0 (State.resetMsix s u) := by
  unfold State.resetMsix
  try dsimp only
  repeat' first
    | intro _
    | with_reducible exact hk
    | with_reducible apply ite_same
    | with_reducible refine same_snd (by assumption) ?_
    | with_reducible refine same_snd2 (by assumption) ?_
    | with_reducible assumption
    | exact sub_sub (by decide) hM
    | split
    | dsimp only
    | with_reducible apply same_u30720

theorem State.resetFunction_same {M : Nat} {s0 s : State} (hk : Same M s0 s) (hM : 145083994864746 ||| M = M) (u : Nat) :
    Same M s0 (State.resetFunction s u) := by
  unfold State.resetFunction
  try dsimp only
  repeat' first
    | intro _
    | with_reducible exact hk
    | with_reducible apply State.resetContext_same
    | with_reducible apply State.resetMsix_same
    | with_reducible apply State.dropQueue_same
    | with_reducible refine foldl_same ?_ ?_
    | with_reducible apply ite_same
    | with_reducible refine same_snd (by assumption) ?_
    | with_reducible refine same_snd2 (by assumption) ?_
    | with_reducible assumption
    | exact sub_sub (by decide) hM
    | split
    | dsimp only

theorem State.setVfs_same {M : Nat} {s0 s : State} (hk : Same M s0 s) (hM : 4648683622235242 ||| M = M) (n : Nat) :
    Same M s0 (State.setVfs s n) := by
  unfold State.setVfs
  try dsimp only
  repeat' first
    | intro _
    | with_reducible exact hk
    | with_reducible apply State.resetFunction_same
    | with_reducible refine foldl_same ?_ ?_
    | with_reducible apply ite_same
    | with_reducible refine same_snd (by assumption) ?_
    | with_reducible refine same_snd2 (by assumption) ?_
    | with_reducible assumption
    | exact sub_sub (by decide) hM
    | split
    | dsimp only
    | with_reducible apply same_u4503599627370496

theorem State.respond_same {M : Nat} {s0 s : State} (hk : Same M s0 s) (hM : 1125899906842624 ||| M = M) (b : List Byte) :
    Same M s0 (State.respond s b) := by
  unfold State.respond
  try dsimp only
  repeat' first
    | intro _
    | with_reducible exact hk
    | with_reducible apply ite_same
    | with_reducible refine same_snd (by assumption) ?_
    | with_reducible refine same_snd2 (by assumption) ?_
    | with_reducible assumption
    | exact sub_sub (by decide) hM
    | split
    | dsimp only
    | with_reducible apply same_u1125899906842624

theorem State.received_same {M : Nat} {s0 s : State} (hk : Same M s0 s) (hM : 8 ||| M = M) (k : State → State) (hk : ∀
    t, Same M s0 t → Same M s0 (k t)) :
    Same M s0 (State.received s k) := by
  unfold State.received
  try dsimp only
  repeat' first
    | intro _
    | with_reducible exact hk
    | with_reducible apply State.bump_same
    | with_reducible apply hk
    | with_reducible apply ite_same
    | with_reducible refine same_snd (by assumption) ?_
    | with_reducible refine same_snd2 (by assumption) ?_
    | with_reducible assumption
    | exact sub_sub (by decide) hM
    | split
    | dsimp only

theorem State.messageOf_same {M : Nat} {s0 s : State} (hk : Same M s0 s) (hM : 8 ||| M = M) (n : Nat) (k : State →
    State) (hk : ∀ t, Same M s0 t → Same M s0 (k t)) :
    Same M s0 (State.messageOf s n k) := by
  unfold State.messageOf
  try dsimp only
  repeat' first
    | intro _
    | with_reducible exact hk
    | with_reducible apply State.bump_same
    | with_reducible apply State.received_same
    | with_reducible apply hk
    | with_reducible apply ite_same
    | with_reducible refine same_snd (by assumption) ?_
    | with_reducible refine same_snd2 (by assumption) ?_
    | with_reducible assumption
    | exact sub_sub (by decide) hM
    | split
    | dsimp only

theorem State.vendor_same {M : Nat} {s0 s : State} (hk : Same M s0 s) (hM : 1125899906842632 ||| M = M) (cmd : Nat)
    (head : BitVec 32)
    (p : List Byte) (also : List Nat) (k : State → Answer) (hb : ∀ t, Same M s0 t → Same M s0 (k t).2.2) :
    Same M s0 (s.vendor cmd head p also k) := by
  have hr : 8 ||| M = M := sub_sub (by decide) hM
  unfold State.vendor
  refine ite_same hk (State.messageOf_same hk hr _ _ fun t ht => ?_)
  have h1 : Same M s0 (if t.stage ≠ 5 ∧ t.stage ∉ (if wbits head 0 8 = cmd then also else []) then (ccNotReady, [], t)
      else if head ≠ BitVec.ofNat 32 cmd then (ccInvalid, [], t) else k t).2.2 := by
    generalize (if wbits head 0 8 = cmd then also else []) = l
    split
    · exact ht
    · split
      · exact ht
      · exact hb t ht
  exact State.respond_same (ite_same (State.bump_same h1 hr _ _) h1) (sub_sub (by decide) hM) _

theorem answerIf_same {M : Nat} {s0 t : State} (ht : Same M s0 t) (ok : Bool) {k : Answer} (h : Same M s0 k.2.2) :
    Same M s0 (answerIf ok t k).2.2 := by
  unfold answerIf
  split
  · exact h
  · exact ht

theorem State.subscribe_same {M : Nat} {s0 s : State} (hk : Same M s0 s) (hM : 8 ||| M = M) (b : Nat) (eid : Nat)
    (kinds : Nat) :
    Same M s0 (State.subscribe s b eid kinds) := by
  unfold State.subscribe
  try dsimp only
  repeat' first
    | intro _
    | with_reducible exact hk
    | with_reducible apply State.wf_same
    | with_reducible apply ite_same
    | with_reducible refine same_snd (by assumption) ?_
    | with_reducible refine same_snd2 (by assumption) ?_
    | with_reducible assumption
    | exact sub_sub (by decide) hM
    | split
    | dsimp only

theorem State.tellAgent_same {M : Nat} {s0 s : State} (hk : Same M s0 s) (hM : 1125899906842624 ||| M = M) (cmd : Nat)
    (data : List Byte) :
    Same M s0 (State.tellAgent s cmd data) := by
  unfold State.tellAgent
  try dsimp only
  repeat' first
    | intro _
    | with_reducible exact hk
    | with_reducible apply ite_same
    | with_reducible refine same_snd (by assumption) ?_
    | with_reducible refine same_snd2 (by assumption) ?_
    | with_reducible assumption
    | exact sub_sub (by decide) hM
    | split
    | dsimp only
    | with_reducible apply same_u1125899906842624

theorem State.askPiece_same {M : Nat} {s0 s : State} (hk : Same M s0 s) (hM : 1125899906842624 ||| M = M) (off : Nat)
    (n : Nat) :
    Same M s0 (State.askPiece s off n) := by
  unfold State.askPiece
  try dsimp only
  repeat' first
    | intro _
    | with_reducible exact hk
    | with_reducible apply State.tellAgent_same
    | with_reducible apply ite_same
    | with_reducible refine same_snd (by assumption) ?_
    | with_reducible refine same_snd2 (by assumption) ?_
    | with_reducible assumption
    | exact sub_sub (by decide) hM
    | split
    | dsimp only
    | with_reducible apply same_u1125899906842624

theorem State.askNext_same {M : Nat} {s0 s : State} (hk : Same M s0 s) (hM : 1125899906842624 ||| M = M) :
    Same M s0 (State.askNext s) := by
  unfold State.askNext
  try dsimp only
  repeat' first
    | intro _
    | with_reducible exact hk
    | with_reducible apply State.askPiece_same
    | with_reducible apply ite_same
    | with_reducible refine same_snd (by assumption) ?_
    | with_reducible refine same_snd2 (by assumption) ?_
    | with_reducible assumption
    | exact sub_sub (by decide) hM
    | split
    | dsimp only

theorem State.reportEnd_same {M : Nat} {s0 s : State} (hk : Same M s0 s) (hM : 1125899906842624 ||| M = M) :
    Same M s0 (State.reportEnd s) := by
  unfold State.reportEnd
  try dsimp only
  repeat' first
    | intro _
    | with_reducible exact hk
    | with_reducible apply State.tellAgent_same
    | with_reducible apply ite_same
    | with_reducible refine same_snd (by assumption) ?_
    | with_reducible refine same_snd2 (by assumption) ?_
    | with_reducible assumption
    | exact sub_sub (by decide) hM
    | split
    | dsimp only
    | with_reducible apply same_u1125899906842624

theorem State.fwRequest_same {M : Nat} {s0 s : State} (hk : Same M s0 s) (hM : 1125899906842632 ||| M = M) (k : State
    → List Byte × State)
    (hb : ∀ t, Same M s0 t → Same M s0 (k t).2) : Same M s0 (s.fwRequest k) := by
  unfold State.fwRequest
  have hr : 1125899906842624 ||| M = M := sub_sub (by decide) hM
  exact State.received_same hk (sub_sub (by decide) hM) _ fun t ht => ite_same (State.respond_same ht hr _)
      (State.respond_same (hb t ht) hr _)

theorem State.beginImage_same {M : Nat} {s0 s : State} (hk : Same M s0 s) (hM : 1271044031643656 ||| M = M) (h : List
    Byte) (sigs : List Verified) (flashOk : Bool) :
    Same M s0 (State.beginImage s h sigs flashOk) := by
  unfold State.beginImage
  try dsimp only
  repeat' first
    | intro _
    | with_reducible exact hk
    | with_reducible apply State.reportEnd_same
    | with_reducible apply State.askNext_same
    | with_reducible apply State.updateBegin_same
    | with_reducible apply ite_same
    | with_reducible refine same_snd (by assumption) ?_
    | with_reducible refine same_snd2 (by assumption) ?_
    | with_reducible assumption
    | exact sub_sub (by decide) hM
    | split
    | dsimp only
    | with_reducible apply same_u1125899906842624

theorem State.zeroWrite_same {M : Nat} {s0 s : State} (hk : Same M s0 s) (hM : 8 ||| M = M) (a : Nat) (v : Word32) :
    Same M s0 (State.zeroWrite s a v) := by
  unfold State.zeroWrite
  try dsimp only
  repeat' first
    | intro _
    | with_reducible exact hk
    | with_reducible apply State.setReg_same
    | with_reducible apply ite_same
    | with_reducible refine same_snd (by assumption) ?_
    | with_reducible refine same_snd2 (by assumption) ?_
    | with_reducible assumption
    | exact sub_sub (by decide) hM
    | split
    | dsimp only

theorem State.statWrite_same {M : Nat} {s0 s : State} (hk : Same M s0 s) (hM : 8 ||| M = M) (p : Page) (a : Nat) (v :
    Word32) :
    Same M s0 (State.statWrite s p a v) := by
  unfold State.statWrite
  try dsimp only
  repeat' first
    | intro _
    | with_reducible exact hk
    | with_reducible apply State.deviceFatal_same
    | with_reducible apply State.plainWrite_same
    | with_reducible apply ite_same
    | with_reducible refine same_snd (by assumption) ?_
    | with_reducible refine same_snd2 (by assumption) ?_
    | with_reducible assumption
    | exact sub_sub (by decide) hM
    | split
    | dsimp only

theorem State.maskWrite_same {M : Nat} {s0 s : State} (hk : Same M s0 s) (hM : 8589934600 ||| M = M) (p : Page) (a :
    Nat) (v : Word32) :
    Same M s0 (State.maskWrite s p a v) := by
  unfold State.maskWrite
  try dsimp only
  repeat' first
    | intro _
    | with_reducible exact hk
    | with_reducible apply State.setReg_same
    | with_reducible apply State.deviceFatal_same
    | with_reducible apply State.setPair_same
    | with_reducible refine foldl_same ?_ ?_
    | with_reducible apply ite_same
    | with_reducible refine same_snd (by assumption) ?_
    | with_reducible refine same_snd2 (by assumption) ?_
    | with_reducible assumption
    | exact sub_sub (by decide) hM
    | split
    | dsimp only

theorem State.commonWrite_same {M : Nat} {s0 s : State} (hk : Same M s0 s) (hM : 8589934600 ||| M = M) (p : Page) (a :
    Nat) (v : Word32) :
    Same M s0 (State.commonWrite s p a v) := by
  unfold State.commonWrite
  try dsimp only
  repeat' first
    | intro _
    | with_reducible exact hk
    | with_reducible apply State.maskWrite_same
    | with_reducible apply State.setReg_same
    | with_reducible apply State.zeroWrite_same
    | with_reducible apply State.plainWrite_same
    | with_reducible apply State.statWrite_same
    | with_reducible apply ite_same
    | with_reducible refine same_snd (by assumption) ?_
    | with_reducible refine same_snd2 (by assumption) ?_
    | with_reducible assumption
    | exact sub_sub (by decide) hM
    | split
    | dsimp only

theorem State.harrowWrite_same {M : Nat} {s0 s : State} (hk : Same M s0 s) (hM : 8 ||| M = M) (f : Nat) (o : Nat) (a :
    Nat) (v : Word32) :
    Same M s0 (State.harrowWrite s f o a v) := by
  unfold State.harrowWrite
  try dsimp only
  repeat' first
    | intro _
    | with_reducible exact hk
    | with_reducible apply State.harrowFields_same
    | with_reducible apply State.writeUnless_same
    | with_reducible apply State.plainWrite_same
    | with_reducible apply ite_same
    | with_reducible refine same_snd (by assumption) ?_
    | with_reducible refine same_snd2 (by assumption) ?_
    | with_reducible assumption
    | exact sub_sub (by decide) hM
    | split
    | dsimp only

theorem State.contextWrite_same {M : Nat} {s0 s : State} (hk : Same M s0 s) (hM : 536870920 ||| M = M) (c : Nat) (o :
    Nat) (a : Nat) (v : Word32) :
    Same M s0 (State.contextWrite s c o a v) := by
  unfold State.contextWrite
  try dsimp only
  repeat' first
    | intro _
    | with_reducible exact hk
    | with_reducible apply State.setCtx_same
    | with_reducible apply State.writeUnless_same
    | with_reducible apply State.plainWrite_same
    | with_reducible apply ite_same
    | with_reducible refine same_snd (by assumption) ?_
    | with_reducible refine same_snd2 (by assumption) ?_
    | with_reducible assumption
    | exact sub_sub (by decide) hM
    | split
    | dsimp only

theorem State.vecWrite_same {M : Nat} {s0 s : State} (hk : Same M s0 s) (hM : 8 ||| M = M) (u : Nat) (a : Nat) (v :
    Word32) (lo : Nat) :
    Same M s0 (State.vecWrite s u a v lo) := by
  unfold State.vecWrite
  try dsimp only
  repeat' first
    | intro _
    | with_reducible exact hk
    | with_reducible apply State.writeUnless_same
    | with_reducible apply ite_same
    | with_reducible refine same_snd (by assumption) ?_
    | with_reducible refine same_snd2 (by assumption) ?_
    | with_reducible assumption
    | exact sub_sub (by decide) hM
    | split
    | dsimp only

theorem State.mailWrite_same {M : Nat} {s0 s : State} (hk : Same M s0 s) (hM : 140737488355328 ||| M = M) (i : Nat) (o
    : Nat) (v : Word32) :
    Same M s0 (State.mailWrite s i o v) := by
  unfold State.mailWrite
  try dsimp only
  repeat' first
    | intro _
    | with_reducible exact hk
    | with_reducible apply ite_same
    | with_reducible refine same_snd (by assumption) ?_
    | with_reducible refine same_snd2 (by assumption) ?_
    | with_reducible assumption
    | exact sub_sub (by decide) hM
    | split
    | dsimp only
    | with_reducible apply same_u140737488355328

theorem State.clearRefused_same {M : Nat} {s0 s : State} (hk : Same M s0 s) (hM : 68719476736 ||| M = M) (v : Word32) :
    Same M s0 (State.clearRefused s v) := by
  unfold State.clearRefused
  try dsimp only
  repeat' first
    | intro _
    | with_reducible exact hk
    | with_reducible apply State.setQueue_same
    | with_reducible apply ite_same
    | with_reducible refine same_snd (by assumption) ?_
    | with_reducible refine same_snd2 (by assumption) ?_
    | with_reducible assumption
    | exact sub_sub (by decide) hM
    | split
    | dsimp only

theorem State.regWrite_same {M : Nat} {s0 s : State} (hk : Same M s0 s) (hM : 141091286286344 ||| M = M) (p : Page) (a
    : Nat) (v : Word32) :
    Same M s0 (State.regWrite s p a v) := by
  unfold State.regWrite
  try dsimp only
  repeat' first
    | intro _
    | with_reducible exact hk
    | with_reducible apply State.contextWrite_same
    | with_reducible apply State.regionConfig_same
    | with_reducible apply State.clearRefused_same
    | with_reducible apply State.harrowWrite_same
    | with_reducible apply State.mailWrite_same
    | with_reducible apply State.commonWrite_same
    | with_reducible apply State.zeroWrite_same
    | with_reducible apply State.vecWrite_same
    | with_reducible apply State.writeUnless_same
    | with_reducible apply State.almanac_same
    | with_reducible apply State.plainWrite_same
    | with_reducible apply State.tryDetect_same
    | with_reducible apply ite_same
    | with_reducible refine same_snd (by assumption) ?_
    | with_reducible refine same_snd2 (by assumption) ?_
    | with_reducible assumption
    | exact sub_sub (by decide) hM
    | split
    | dsimp only
    | with_reducible apply same_u140737488355328

theorem State.stage64_same {M : Nat} {s0 s : State} (hk : Same M s0 s) (hM : 32 ||| M = M) (u : Nat) (a : Nat) (v : Word32) :
    Same M s0 (State.stage64 s u a v) := by
  unfold State.stage64
  try dsimp only
  repeat' first
    | intro _
    | with_reducible exact hk
    | with_reducible apply ite_same
    | with_reducible refine same_snd (by assumption) ?_
    | with_reducible refine same_snd2 (by assumption) ?_
    | with_reducible assumption
    | exact sub_sub (by decide) hM
    | split
    | dsimp only
    | with_reducible apply same_u32

theorem State.commit64_same {M : Nat} {s0 s : State} (hk : Same M s0 s) (hM : 40 ||| M = M) (u : Nat) (a : Nat) (v :
    Word32) :
    Same M s0 (State.commit64 s u a v) := by
  unfold State.commit64
  try dsimp only
  repeat' first
    | intro _
    | with_reducible exact hk
    | with_reducible apply State.unstage_same
    | with_reducible apply State.plainWrite_same
    | with_reducible apply ite_same
    | with_reducible refine same_snd (by assumption) ?_
    | with_reducible refine same_snd2 (by assumption) ?_
    | with_reducible assumption
    | exact sub_sub (by decide) hM
    | split
    | dsimp only

theorem State.lowWrite_same {M : Nat} {s0 s : State} (hk : Same M s0 s) (hM : 40 ||| M = M) (u : Nat) (a : Nat) (v :
    Word32) :
    Same M s0 (State.lowWrite s u a v) := by
  unfold State.lowWrite
  try dsimp only
  repeat' first
    | intro _
    | with_reducible exact hk
    | with_reducible apply State.servWrite_same
    | with_reducible apply State.stage64_same
    | with_reducible apply State.baseWrite_same
    | with_reducible apply ite_same
    | with_reducible refine same_snd (by assumption) ?_
    | with_reducible refine same_snd2 (by assumption) ?_
    | with_reducible assumption
    | exact sub_sub (by decide) hM
    | split
    | dsimp only

theorem State.highWrite_same {M : Nat} {s0 s : State} (hk : Same M s0 s) (hM : 40 ||| M = M) (u : Nat) (a : Nat) (v :
    Word32) :
    Same M s0 (State.highWrite s u a v) := by
  unfold State.highWrite
  try dsimp only
  repeat' first
    | intro _
    | with_reducible exact hk
    | with_reducible apply State.servWrite_same
    | with_reducible apply State.commit64_same
    | with_reducible apply State.routeCommit_same
    | with_reducible apply State.baseWrite_same
    | with_reducible apply ite_same
    | with_reducible refine same_snd (by assumption) ?_
    | with_reducible refine same_snd2 (by assumption) ?_
    | with_reducible assumption
    | exact sub_sub (by decide) hM
    | split
    | dsimp only

theorem State.ownEffect_same {M : Nat} {s0 s : State} (hk : Same M s0 s) (hM : 1609633483170922 ||| M = M) (u : Nat)
    (p : Page) (a : Nat) (v : Word32) :
    Same M s0 (State.ownEffect s u p a v) := by
  unfold State.ownEffect
  try dsimp only
  repeat' first
    | intro _
    | with_reducible exact hk
    | with_reducible apply State.dbgCtrl_same
    | with_reducible apply State.shareWrite_same
    | with_reducible apply State.setDevId_same
    | with_reducible apply State.granWrite_same
    | with_reducible apply State.bindQueue_same
    | with_reducible apply State.updCtrl_same
    | with_reducible apply State.forceWrite_same
    | with_reducible apply State.secCtrl_same
    | with_reducible apply State.selectEntry_same
    | with_reducible apply State.queueCfg_same
    | with_reducible apply State.keyCmd_same
    | with_reducible apply State.setRxalloc_same
    | with_reducible apply State.selectClass_same
    | with_reducible apply State.servWrite_same
    | with_reducible apply State.ctxMemWrite_same
    | with_reducible apply State.planCap_same
    | with_reducible apply State.clkGate_same
    | with_reducible apply State.clkOut_same
    | with_reducible apply State.regionCtl_same
    | with_reducible apply State.writePortCtrl_same
    | with_reducible apply State.setAlign_same
    | with_reducible apply State.bindWrite_same
    | with_reducible apply State.harrowCtrl_same
    | with_reducible apply State.setAllot_same
    | with_reducible apply State.wireTestWrite_same
    | with_reducible apply State.almanac_same
    | with_reducible apply State.ringBell_same
    | with_reducible apply State.plainWrite_same
    | with_reducible apply State.quotaSet_same
    | with_reducible apply ite_same
    | with_reducible refine same_snd (by assumption) ?_
    | with_reducible refine same_snd2 (by assumption) ?_
    | with_reducible assumption
    | exact sub_sub (by decide) hM
    | split
    | dsimp only

theorem State.effect_same {M : Nat} {s0 s : State} (hk : Same M s0 s) (hM : 1609633483170922 ||| M = M) (u : Nat) (a :
    Nat) (v : Word32) :
    Same M s0 (State.effect s u a v) := by
  unfold State.effect
  try dsimp only
  repeat' first
    | intro _
    | with_reducible exact hk
    | with_reducible apply State.highWrite_same
    | with_reducible apply State.regWrite_same
    | with_reducible apply State.ownEffect_same
    | with_reducible apply State.lowWrite_same
    | with_reducible apply ite_same
    | with_reducible refine same_snd (by assumption) ?_
    | with_reducible refine same_snd2 (by assumption) ?_
    | with_reducible assumption
    | exact sub_sub (by decide) hM
    | split
    | dsimp only

theorem State.busWrite_same {M : Nat} {s0 s : State} (hk : Same M s0 s) (hM : 1609633483170922 ||| M = M) (u : Nat) (a
    : Nat) (v : Word32) :
    Same M s0 (State.busWrite s u a v) := by
  unfold State.busWrite
  try dsimp only
  repeat' first
    | intro _
    | with_reducible exact hk
    | with_reducible apply State.effect_same
    | with_reducible apply State.gateWrite_same
    | with_reducible apply State.badWrite_same
    | with_reducible apply ite_same
    | with_reducible refine same_snd (by assumption) ?_
    | with_reducible refine same_snd2 (by assumption) ?_
    | with_reducible assumption
    | exact sub_sub (by decide) hM
    | split
    | dsimp only

end Sys2Proof.Machine
end

