-- ==== Sys2Proof/Laws/Mem.lean ====
section
/-! SUPPORT. Laws of device memory: what a read returns and what it changes (R163, R164). -/

namespace Sys2Proof.Machine

/-- A codeword read changes registers and pairs only. -/
theorem readWord_same (s : State) (w : Consumer) (a n : Nat) : Same 8589934600 s (s.readWord w a n).2 :=
  State.readWord_same (Same.refl _ s) rfl w a n

/-- What a codeword read delivers. -/
theorem readWord_fst (s : State) (w : Consumer) (a n : Nat) : (s.readWord w a n).1 =
    if (sget? s.hbmBad (a / 64)).isSome then List.replicate n 0 else s.hbm.readN granSize a n := by
  have h : ∀ l l' k, (s.bump64 l l' k).hbmBad = s.hbmBad ∧ (s.bump64 l l' k).hbm = s.hbm := fun _ _ _ => ⟨rfl, rfl⟩
  unfold State.readWord
  dsimp only
  rw [(h _ _ _).1, (h _ _ _).2]
  cases sget? s.hbmBad (a / 64) <;> rfl

/-- The mapping of windows depends on the regions alone. -/
theorem mapAddr_congr {s t : State} (h : t.regions = s.regions) (a : Nat) : t.mapAddr a = s.mapAddr a := by
  unfold State.mapAddr State.winOf State.region
  rw [h]

theorem hbmRead_go (s : State) (w : Consumer) (l : List (Nat × Nat)) : ∀ (u : State) (b : List Byte), Same 8589934600 s u →
    (l.foldl (fun (acc : List Byte × State) (e : Nat × Nat) =>
      let (bs, s) := acc.2.readWord w (acc.2.mapAddr e.1) e.2
      (acc.1 ++ bs, s)) (b, u)).1 = b ++ l.flatMap (fun e => let b := s.mapAddr e.1
      if (sget? s.hbmBad (b / 64)).isSome then List.replicate e.2 0 else s.hbm.readN granSize b e.2) := by
  induction l with
  | nil => exact fun u b _ => (List.append_nil b).symm
  | cons e l ih =>
    intro u b h
    have hr : u.regions = s.regions := h.regions.resolve_left (by decide)
    have hb : u.hbmBad = s.hbmBad := h.hbmBad.resolve_left (by decide)
    have hm : u.hbm = s.hbm := h.hbm.resolve_left (by decide)
    refine (ih (u.readWord w (u.mapAddr e.1) e.2).2 (b ++ (u.readWord w (u.mapAddr e.1) e.2).1)
      (State.readWord_same h rfl w _ _)).trans ?_
    rw [readWord_fst, mapAddr_congr hr, hb, hm, List.flatMap_cons, List.append_assoc]

/-- R164: a read delivers what memory shows, and changes counters and error records only. -/
theorem hbmRead_fst (s : State) (w : Consumer) (a n : Nat) : (s.hbmRead w a n).1 = s.peekHbm a n :=
  (hbmRead_go s w (codewords a n) s [] (Same.refl _ s)).trans (List.nil_append _)

theorem hbmRead_same (s : State) (w : Consumer) (a n : Nat) : Same 8589934600 s (s.hbmRead w a n).2 :=
  State.hbmRead_same (Same.refl _ s) rfl w a n

end Sys2Proof.Machine
end

