-- ==== Sys2Proof/Laws/Queue.lean ====
section
/-! SUPPORT. Laws of queues: records, the start position, and what a queue command leaves (R359, R370). -/

namespace Sys2Proof.Machine

theorem queue_setQueue_self {s : State} (h : Store.Sorted s.queues) (q : Nat) (x : QueueSt) : (s.setQueue q x).queue q = x :=
  sgetD_sputD_self h q x {}

theorem queue_setQueue_ne (s : State) {q r : Nat} (x : QueueSt) (h : r ≠ q) : (s.setQueue q x).queue r = s.queue r :=
  sgetD_sputD_ne s.queues x {} h

theorem sorted_setQueue {s : State} (h : Store.Sorted s.queues) (q : Nat) (x : QueueSt) : Store.Sorted (s.setQueue q x).queues :=
  sorted_sputD h _ _ _

theorem queue_of_queues {s t : State} (h : t.queues = s.queues) (q : Nat) : t.queue q = s.queue q := by
  unfold State.queue
  rw [h]

/-- R359: the record joins the queue, the start position moves on. -/
theorem queue_passStart_self {s : State} (h : Store.Sorted s.queues) (q : Nat) (c : QCmd) :
    (s.passStart q c).queue q = { s.queue q with head := none, go := false, cmds := (s.queue q).cmds ++ [c] } :=
  queue_setQueue_self h q { s.queue q with head := none, go := false, cmds := (s.queue q).cmds ++ [c] }

theorem queue_passStart_ne (s : State) {q r : Nat} (c : QCmd) (h : r ≠ q) : (s.passStart q c).queue r = s.queue r :=
  queue_setQueue_ne s _ h

theorem sorted_passStart {s : State} (h : Store.Sorted s.queues) (q : Nat) (c : QCmd) : Store.Sorted (s.passStart q c).queues :=
  sorted_setQueue h _ _

theorem qStart_passStart {s : State} (h : Store.Sorted s.regs) (q : Nat) (c : QCmd) :
    (s.passStart q c).qStart q = (s.qStart q + 1) % 2 ^ 32 := by
  unfold State.passStart State.qStart
  dsimp only
  exact rf_wf_self (l := R.QM_QSTART_COUNT q) h (by show 0 + 32 ≤ 32; decide) _

theorem reg_passStart (s : State) (q : Nat) (c : QCmd) {a : Nat} (h : a ≠ A.QM_QSTART q) : (s.passStart q c).reg a = s.reg a :=
  reg_wf_ne (s.setQueue q _) _ h

/-- A command that finishes OK changes its queue's records only. -/
theorem finishCmd_ok_reg (s : State) (q seq d : Nat) (a : Nat) : (s.finishCmd q seq okStatus d).reg a = s.reg a := by
  unfold State.finishCmd
  split
  · rfl
  · split
    · rfl
    · dsimp only
      split
      · rename_i h
        exact absurd rfl h.2
      · rfl

theorem finishCmd_ok_same (s : State) (q seq d : Nat) : Same 68719476736 s (s.finishCmd q seq okStatus d) := by
  unfold State.finishCmd
  split
  · exact Same.refl _ s
  · split
    · exact Same.refl _ s
    · dsimp only
      split
      · rename_i h
        exact absurd rfl h.2
      · exact State.setCmd_same (Same.refl _ s) rfl _ _

theorem unstartInvalid_reg (s : State) (q seq a : Nat) : (s.unstartInvalid q seq).reg a = s.reg a := by
  unfold State.unstartInvalid
  repeat' split
  all_goals rfl

theorem countJob_reg (s : State) (u : Nat) {a : Nat} (h : a ≠ A.HIF_JOB_LO u ∧ a ≠ A.HIF_JOB_HI u) : (s.countJob u).reg a = s.reg a := by
  unfold State.countJob
  dsimp only
  rw [reg_wf_ne _ _ h.2, reg_wf_ne _ _ h.1]

theorem qFunc_lt (s : State) (q : Nat) : s.qFunc q < 64 := rf_lt s (R.QM_QBINDV_FUNC q)

/-- A started command that finishes with OK leaves its effect, but for its record and the job counters. -/
theorem launchCmd_ok_same {M : Nat} (s : State) (q : Nat) (w : CmdWord) (f : State → State) (hM : 68719476744 ||| M = M) :
    Same M (f (s.started q w)) (s.launchCmd q w (thenOk q (s.qStart q) f)) := by
  unfold State.launchCmd thenOk
  dsimp only
  refine ite_same (State.countJob_same ?_ (sub_sub (by decide) hM) _) ?_ <;>
    exact State.unstartInvalid_same (State.finishCmd_same (Same.refl _ _) (sub_sub (by decide) hM) _ _ _ _) (sub_sub (by decide) hM) _ _

theorem launchCmd_ok_reg (s : State) (q : Nat) (w : CmdWord) (f : State → State) {a : Nat}
    (h : ∀ u, u < 64 → a ≠ A.HIF_JOB_LO u ∧ a ≠ A.HIF_JOB_HI u) :
    (s.launchCmd q w (thenOk q (s.qStart q) f)).reg a = (f (s.started q w)).reg a := by
  have h1 : (((f (s.started q w)).finishCmd q (s.qStart q) okStatus 0).unstartInvalid q (s.qStart q)).reg a = (f (s.started q w)).reg a := by
    rw [unstartInvalid_reg, finishCmd_ok_reg]
  unfold State.launchCmd thenOk
  dsimp only
  have hst : s.passStart q (recordOf w (s.qStart q) (if w.bound then some w.step else none) none) = s.started q w := rfl
  rw [hst]
  obtain ⟨v, hv⟩ : ∃ v, v = ((f (s.started q w)).finishCmd q (s.qStart q) okStatus 0).unstartInvalid q (s.qStart q) := ⟨_, rfl⟩
  rw [← hv] at h1 ⊢
  split
  · rw [countJob_reg _ _ (h _ (qFunc_lt _ _))]
    exact h1
  · exact h1

/-- The record of a command that has just passed is the one that its number finds. -/
theorem cmd?_started {s : State} (h : Store.Sorted s.queues) {q : Nat} {w : CmdWord} (hf : s.cmd? q (s.qStart q) = none) :
    (s.started q w).cmd? q (s.qStart q) = some (s.recAt q w none) := by
  unfold State.cmd? State.started at *
  rw [queue_passStart_self h]
  dsimp only
  rw [List.find?_append, hf, Option.none_or]
  exact List.find?_cons_of_pos (beq_self_eq_true _)

theorem map_fresh {l : List QCmd} {n : Nat} {y : QCmd} (hf : l.find? (fun c => c.seq == n) = none) :
    l.map (fun c => if c.seq == n then y else c) = l := by
  refine (List.map_congr_left fun c hc => ?_).trans (List.map_id l)
  have := List.find?_eq_none.mp hf c hc
  simp [this]

/-- R359: the records of the queue after a command that has left them alone and finished OK. -/
theorem queue_launchCmd_ok {s : State} (h : Store.Sorted s.queues) {q : Nat} {w : CmdWord} (hf : s.cmd? q (s.qStart q) = none)
    {f : State → State} (hv : (f (s.started q w)).queues = (s.started q w).queues) :
    (s.launchCmd q w (thenOk q (s.qStart q) f)).queue q =
      { s.queue q with head := none, go := false, cmds := (s.queue q).cmds ++ [s.recAt q w (some (okStatus, 0))] } ∧
    ∀ r, r ≠ q → (s.launchCmd q w (thenOk q (s.qStart q) f)).queue r = s.queue r := by
  have hu := sorted_passStart h q (s.recAt q w none)
  have hq := queue_of_queues hv
  have hc : (f (s.started q w)).cmd? q (s.qStart q) = some (s.recAt q w none) := by
    have := cmd?_started (w := w) h hf
    unfold State.cmd? at this ⊢
    rw [hq]
    exact this
  obtain ⟨v, hvv⟩ : ∃ v, v = f (s.started q w) := ⟨_, rfl⟩
  rw [← hvv] at hc hv hq
  have hvs : Store.Sorted v.queues := by rw [hv]; exact hu
  have h1 : ∃ x : QCmd, x = { s.recAt q w none with fin := some (okStatus, 0), ready := (s.recAt q w none).step.isNone } := ⟨_, rfl⟩
  obtain ⟨x, hx⟩ := h1
  have hxs : x.seq = s.qStart q := by rw [hx]; rfl
  have hxr : x = s.recAt q w (some (okStatus, 0)) := by
    rw [hx]
    unfold State.recAt recordOf
    simp
  have e1 : v.finishCmd q (s.qStart q) okStatus 0 = v.setCmd q x := by
    unfold State.finishCmd
    rw [hc]
    dsimp only
    have : (s.recAt q w none).fin.isSome = false := rfl
    rw [this, ← hx]
    simp
  have e2 : (v.setCmd q x).queue q =
      { s.queue q with head := none, go := false, cmds := (s.queue q).cmds ++ [x] } := by
    unfold State.setCmd
    dsimp only
    rw [queue_setQueue_self hvs, hq]
    unfold State.started
    rw [queue_passStart_self h]
    dsimp only
    rw [List.map_append, hxs]
    have hm := map_fresh (y := x) hf
    rw [hm]
    have : (s.recAt q w none).seq = s.qStart q := rfl
    simp [this]
  have e3 : ∀ r, r ≠ q → (v.setCmd q x).queue r = s.queue r := by
    intro r hr
    unfold State.setCmd
    dsimp only
    rw [queue_setQueue_ne _ _ hr, hq]
    exact queue_passStart_ne s _ hr
  have e4 : (v.setCmd q x).cmd? q (s.qStart q) = some x := by
    unfold State.cmd?
    rw [e2]
    dsimp only
    unfold State.cmd? at hf
    rw [List.find?_append, hf, Option.none_or]
    exact List.find?_cons_of_pos (by rw [hxs]; exact beq_self_eq_true _)
  have e5 : (v.setCmd q x).unstartInvalid q (s.qStart q) = v.setCmd q x := by
    unfold State.unstartInvalid
    rw [e4]
    dsimp only
    have : (x.fin.map Prod.fst) = some okStatus := by rw [hx]; rfl
    rw [this]
    rfl
  have e6 : ∀ (y : State) u, (y.countJob u).queues = y.queues := fun _ _ => rfl
  unfold State.launchCmd thenOk
  dsimp only
  have hst : s.passStart q (recordOf w (s.qStart q) (if w.bound then some w.step else none) none) = s.started q w := rfl
  rw [hst, ← hvv, e1, e5]
  split
  · refine ⟨?_, fun r hr => ?_⟩
    · rw [queue_of_queues (e6 _ _), e2, hxr]
    · rw [queue_of_queues (e6 _ _), e3 r hr]
  · exact ⟨by rw [e2, hxr], e3⟩

/-- R359: what a command leaves that finishes OK when it takes effect. -/
theorem ran_launchCmd {s : State} (hc : s.Canon) {q opc : Nat} {w : CmdWord} (h : s.MayRun q opc w) (f : State → State) :
    s.Ran (s.launchCmd q w (thenOk q (s.qStart q) f)) (f (s.started q w)) q w :=
  ⟨Same.but (launchCmd_ok_same (M := 68719476744) s q w f rfl) rfl, fun _ ha => launchCmd_ok_reg s q w f ha,
    fun hv => queue_launchCmd_ok hc.queues h.fresh hv⟩

/-- The command that may run is carried out by its body. -/
theorem runCmd_run {s : State} {q opc : Nat} {w : CmdWord} (h : s.MayRun q opc w) {body : CmdWord → Nat → State → Begun}
    {f : State → State} (hb : body w (s.qStart q) s = .run f) : runCmd q opc body s = s.launchCmd q w f := by
  unfold runCmd
  rw [h.head]
  dsimp only
  have h1 : (!(s.queue q).go || CmdWord.opc w != opc || !s.mayStart q) = false := by simp [h.go, h.opc, h.moves]
  rw [h1, h.starts, hb]
  simp [Begun.isInvalid]

/-- R345: a write that is served and reaches its register is carried out. -/
theorem gateWrite_rw {s : State} {u : Fin 64} {a : Nat} (h : s.MayWrite u a) (k : State → State) : s.gateWrite u a k = k s := by
  unfold State.gateWrite
  simp [h.served, h.enabled, h.reach]

end Sys2Proof.Machine
end

