-- ==== Sys2Proof/Laws/SameExec.lean ====
section
/-! SUPPORT. Which parts of the state every command's meaning leaves alone: one lemma for each. -/

namespace Sys2Proof.Machine

set_option linter.unreachableTactic false
set_option linter.unusedTactic false

/-- What `Same` says of a step's outcome. -/
def OutSame (M : Nat) (s : State) : Out → Prop
  | .next t => Same M s t
  | _ => True

theorem outSame_next {M : Nat} {s t : State} (h : Same M s t) : OutSame M s (.next t) := h

theorem outSame_ite {M : Nat} {s : State} {a b : Out} {c : Prop} [Decidable c] (ha : OutSame M s a) (hb : OutSame M s b) :
    OutSame M s (if c then a else b) := by
  split
  · exact ha
  · exact hb

/-- R112: a tile instruction leaves alone what its effect leaves alone. -/
theorem tile_same {M : Nat} {s0 s : State} (hk : Same M s0 s) {i : StreamId} {w : InstrWord}
    {run : StreamId → InstrWord → State → State} (h : ∀ t, Same M s0 t → Same M s0 (run i w t)) :
    OutSame M s0 (tile i w run s) :=
  ite_same (h s hk) hk

theorem execDataFlit_same {M : Nat} {s0 s : State} (hk : Same M s0 s) (hM : 283467841544 ||| M = M) (p : Fin 8) (x :
    FlitIn) :
    OutSame M s0 (execDataFlit p x s) := by
  unfold execDataFlit
  try dsimp only
  repeat' first
    | intro _
    | with_reducible exact hk
    | with_reducible apply outSame_next
    | with_reducible apply recvFlit_same
    | with_reducible apply State.takeData_same
    | with_reducible apply outSame_ite
    | with_reducible apply ite_same
    | with_reducible refine same_snd (by assumption) ?_
    | with_reducible refine same_snd2 (by assumption) ?_
    | with_reducible assumption
    | exact sub_sub (by decide) hM
    | trivial
    | split
    | dsimp only
    | dsimp only [id]

theorem execIdleFlit_same {M : Nat} {s0 s : State} (hk : Same M s0 s) (hM : 283467841544 ||| M = M) (p : Fin 8) (x :
    FlitIn) :
    OutSame M s0 (execIdleFlit p x s) := by
  unfold execIdleFlit
  try dsimp only
  repeat' first
    | intro _
    | with_reducible exact hk
    | with_reducible apply outSame_next
    | with_reducible apply recvFlit_same
    | with_reducible apply outSame_ite
    | with_reducible apply ite_same
    | with_reducible refine same_snd (by assumption) ?_
    | with_reducible refine same_snd2 (by assumption) ?_
    | with_reducible assumption
    | exact sub_sub (by decide) hM
    | trivial
    | split
    | dsimp only
    | dsimp only [id]

theorem execNak_same {M : Nat} {s0 s : State} (hk : Same M s0 s) (hM : 283467841544 ||| M = M) (p : Fin 8) (x : FlitIn) :
    OutSame M s0 (execNak p x s) := by
  unfold execNak
  try dsimp only
  repeat' first
    | intro _
    | with_reducible exact hk
    | with_reducible apply outSame_next
    | with_reducible apply State.takeNak_same
    | with_reducible apply recvFlit_same
    | with_reducible apply outSame_ite
    | with_reducible apply ite_same
    | with_reducible refine same_snd (by assumption) ?_
    | with_reducible refine same_snd2 (by assumption) ?_
    | with_reducible assumption
    | exact sub_sub (by decide) hM
    | trivial
    | split
    | dsimp only
    | dsimp only [id]

theorem execKeyon_same {M : Nat} {s0 s : State} (hk : Same M s0 s) (hM : 283467841544 ||| M = M) (p : Fin 8) (x : FlitIn) :
    OutSame M s0 (execKeyon p x s) := by
  unfold execKeyon
  try dsimp only
  repeat' first
    | intro _
    | with_reducible exact hk
    | with_reducible apply outSame_next
    | with_reducible apply State.setPort_same
    | with_reducible apply recvFlit_same
    | with_reducible apply outSame_ite
    | with_reducible apply ite_same
    | with_reducible refine same_snd (by assumption) ?_
    | with_reducible refine same_snd2 (by assumption) ?_
    | with_reducible assumption
    | exact sub_sub (by decide) hM
    | trivial
    | split
    | dsimp only
    | dsimp only [id]

theorem execNakResendTimeout_same {M : Nat} {s0 s : State} (hk : Same M s0 s) (hM : 274877906944 ||| M = M) (p : Fin 8) :
    OutSame M s0 (execNakResendTimeout p s) := by
  unfold execNakResendTimeout
  try dsimp only
  repeat' first
    | intro _
    | with_reducible exact hk
    | with_reducible apply outSame_next
    | with_reducible apply State.setPort_same
    | with_reducible apply outSame_ite
    | with_reducible apply ite_same
    | with_reducible refine same_snd (by assumption) ?_
    | with_reducible refine same_snd2 (by assumption) ?_
    | with_reducible assumption
    | exact sub_sub (by decide) hM
    | trivial
    | split
    | dsimp only
    | dsimp only [id]

theorem execPacketRoute_same {M : Nat} {s0 s : State} (hk : Same M s0 s) (hM : 833223655432 ||| M = M) (p : Fin 8) (ns
    : Nat) :
    OutSame M s0 (execPacketRoute p ns s) := by
  unfold execPacketRoute
  try dsimp only
  repeat' first
    | intro _
    | with_reducible exact hk
    | with_reducible apply outSame_next
    | with_reducible apply State.routeHead_same
    | with_reducible apply outSame_ite
    | with_reducible apply ite_same
    | with_reducible refine same_snd (by assumption) ?_
    | with_reducible refine same_snd2 (by assumption) ?_
    | with_reducible assumption
    | exact sub_sub (by decide) hM
    | trivial
    | split
    | dsimp only
    | dsimp only [id]

theorem execFlitSlotTransmit_same {M : Nat} {s0 s : State} (hk : Same M s0 s) (hM : 283467841544 ||| M = M) (p : Fin 8) :
    OutSame M s0 (execFlitSlotTransmit p s) := by
  unfold execFlitSlotTransmit
  try dsimp only
  repeat' first
    | intro _
    | with_reducible exact hk
    | with_reducible apply outSame_next
    | with_reducible apply State.emit_same
    | with_reducible apply State.sendKeyon_same
    | with_reducible apply State.sendFresh_same
    | with_reducible apply State.setPort_same
    | with_reducible apply State.resendFlit_same
    | with_reducible apply outSame_ite
    | with_reducible apply ite_same
    | with_reducible refine same_snd (by assumption) ?_
    | with_reducible refine same_snd2 (by assumption) ?_
    | with_reducible assumption
    | exact sub_sub (by decide) hM
    | trivial
    | split
    | dsimp only
    | dsimp only [id]

theorem execDetectSignal_same {M : Nat} {s0 s : State} (hk : Same M s0 s) (hM : 274877906952 ||| M = M) (p : Fin 8) :
    OutSame M s0 (execDetectSignal p s) := by
  unfold execDetectSignal
  try dsimp only
  repeat' first
    | intro _
    | with_reducible exact hk
    | with_reducible apply outSame_next
    | with_reducible apply State.goPhase_same
    | with_reducible apply outSame_ite
    | with_reducible apply ite_same
    | with_reducible refine same_snd (by assumption) ?_
    | with_reducible refine same_snd2 (by assumption) ?_
    | with_reducible assumption
    | exact sub_sub (by decide) hM
    | trivial
    | split
    | dsimp only
    | dsimp only [id]

theorem execTrainComplete_same {M : Nat} {s0 s : State} (hk : Same M s0 s) (hM : 274877906952 ||| M = M) (p : Fin 8) :
    OutSame M s0 (execTrainComplete p s) := by
  unfold execTrainComplete
  try dsimp only
  repeat' first
    | intro _
    | with_reducible exact hk
    | with_reducible apply outSame_next
    | with_reducible apply State.goPhase_same
    | with_reducible apply outSame_ite
    | with_reducible apply ite_same
    | with_reducible refine same_snd (by assumption) ?_
    | with_reducible refine same_snd2 (by assumption) ?_
    | with_reducible assumption
    | exact sub_sub (by decide) hM
    | trivial
    | split
    | dsimp only
    | dsimp only [id]

theorem execAlignComplete_same {M : Nat} {s0 s : State} (hk : Same M s0 s) (hM : 274877906952 ||| M = M) (p : Fin 8)
    (pass inv : BitVec 16)
    (rev : Bool) (delay : BitVec 16) : OutSame M s0 (execAlignComplete p pass inv rev delay s) := by
  unfold execAlignComplete
  refine outSame_ite hk ?_
  have hw : 8 ||| M = M := sub_sub (by decide) hM
  have h := State.wf_same (State.wf_same hk hw (R.MBL_LANES_PASS p) pass.toNat) hw (R.MBL_LANES_INV p) inv.toNat
  obtain ⟨t, ht⟩ : ∃ t, t = (s.wf (R.MBL_LANES_PASS p) pass.toNat).wf (R.MBL_LANES_INV p) inv.toNat := ⟨_, rfl⟩
  rw [← ht] at h ⊢
  dsimp only
  obtain ⟨x, hx⟩ : ∃ x, x = chooseWidth (t.rf (R.MBL_CTRL_MAXW p)) pass.toNat := ⟨_, rfl⟩
  rw [← hx]
  cases x with
  | none => exact outSame_next h
  | some x =>
    exact outSame_next (State.enterIdent_same
      (State.wf_same (State.wf_same (State.wf_same (State.wf_same h hw _ _) hw _ _) hw _ _) hw _ _) (sub_sub (by
          decide) hM) _)

theorem execPortStateTimeout_same {M : Nat} {s0 s : State} (hk : Same M s0 s) (hM : 283467841544 ||| M = M) (p : Fin 8) :
    OutSame M s0 (execPortStateTimeout p s) := by
  unfold execPortStateTimeout
  try dsimp only
  repeat' first
    | intro _
    | with_reducible exact hk
    | with_reducible apply outSame_next
    | with_reducible apply State.portFail_same
    | with_reducible apply outSame_ite
    | with_reducible apply ite_same
    | with_reducible refine same_snd (by assumption) ?_
    | with_reducible refine same_snd2 (by assumption) ?_
    | with_reducible assumption
    | exact sub_sub (by decide) hM
    | trivial
    | split
    | dsimp only
    | dsimp only [id]

theorem execLaneSignalLoss_same {M : Nat} {s0 s : State} (hk : Same M s0 s) (hM : 283467841544 ||| M = M) (p : Fin 8) :
    OutSame M s0 (execLaneSignalLoss p s) := by
  unfold execLaneSignalLoss
  try dsimp only
  repeat' first
    | intro _
    | with_reducible exact hk
    | with_reducible apply outSame_next
    | with_reducible apply State.enterRetrain_same
    | with_reducible apply outSame_ite
    | with_reducible apply ite_same
    | with_reducible refine same_snd (by assumption) ?_
    | with_reducible refine same_snd2 (by assumption) ?_
    | with_reducible assumption
    | exact sub_sub (by decide) hM
    | trivial
    | split
    | dsimp only
    | dsimp only [id]

theorem execIdent_same {M : Nat} {s0 s : State} (hk : Same M s0 s) (hM : 283467841544 ||| M = M) (p : Fin 8) (kex1 :
    List Byte) :
    OutSame M s0 (execIdent p kex1 s) := by
  unfold execIdent
  try dsimp only
  repeat' first
    | intro _
    | with_reducible exact hk
    | with_reducible apply outSame_next
    | with_reducible apply State.portFail_same
    | with_reducible apply State.goPhase_same
    | with_reducible apply State.kexSend_same
    | with_reducible apply State.wf_same
    | with_reducible apply State.setPort_same
    | with_reducible refine foldl_same ?_ ?_
    | with_reducible refine State.takeCtl_same ?_ ?_ _ _ (by assumption)
    | with_reducible apply outSame_ite
    | with_reducible apply ite_same
    | with_reducible refine same_snd (by assumption) ?_
    | with_reducible refine same_snd2 (by assumption) ?_
    | with_reducible assumption
    | exact sub_sub (by decide) hM
    | trivial
    | split
    | dsimp only
    | dsimp only [id]

theorem execKexMessage_same {M : Nat} {s0 s : State} (hk : Same M s0 s) (hM : 283467841544 ||| M = M) (p : Fin 8) (ok
    : Bool) (root : List Byte) (key : List Byte) (reply : List Byte) :
    OutSame M s0 (execKexMessage p ok root key reply s) := by
  unfold execKexMessage
  try dsimp only
  repeat' first
    | intro _
    | with_reducible exact hk
    | with_reducible apply outSame_next
    | with_reducible apply State.portFail_same
    | with_reducible apply State.kexSend_same
    | with_reducible apply State.setPort_same
    | with_reducible apply State.kexDone_same
    | with_reducible refine State.takeCtl_same ?_ ?_ _ _ (by assumption)
    | with_reducible apply outSame_ite
    | with_reducible apply ite_same
    | with_reducible refine same_snd (by assumption) ?_
    | with_reducible refine same_snd2 (by assumption) ?_
    | with_reducible assumption
    | exact sub_sub (by decide) hM
    | trivial
    | split
    | dsimp only
    | dsimp only [id]

theorem execKeyRatchet_same {M : Nat} {s0 s : State} (hk : Same M s0 s) (hM : 274877906944 ||| M = M) (p : Fin 8) (tx
    : Bool) :
    OutSame M s0 (execKeyRatchet p tx s) := by
  unfold execKeyRatchet
  try dsimp only
  repeat' first
    | intro _
    | with_reducible exact hk
    | with_reducible apply outSame_next
    | with_reducible apply State.setPort_same
    | with_reducible apply outSame_ite
    | with_reducible apply ite_same
    | with_reducible refine same_snd (by assumption) ?_
    | with_reducible refine same_snd2 (by assumption) ?_
    | with_reducible assumption
    | exact sub_sub (by decide) hM
    | trivial
    | split
    | dsimp only
    | dsimp only [id]

theorem execHbSend_same {M : Nat} {s0 s : State} (hk : Same M s0 s) (hM : 274877906944 ||| M = M) (p : Fin 8) :
    OutSame M s0 (execHbSend p s) := by
  unfold execHbSend
  try dsimp only
  repeat' first
    | intro _
    | with_reducible exact hk
    | with_reducible apply outSame_next
    | with_reducible apply State.linkSend_same
    | with_reducible apply State.setPort_same
    | with_reducible apply outSame_ite
    | with_reducible apply ite_same
    | with_reducible refine same_snd (by assumption) ?_
    | with_reducible refine same_snd2 (by assumption) ?_
    | with_reducible assumption
    | exact sub_sub (by decide) hM
    | trivial
    | split
    | dsimp only
    | dsimp only [id]

theorem execHbReceive_same {M : Nat} {s0 s : State} (hk : Same M s0 s) (hM : 274877906952 ||| M = M) (p : Fin 8) :
    OutSame M s0 (execHbReceive p s) := by
  unfold execHbReceive
  try dsimp only
  repeat' first
    | intro _
    | with_reducible exact hk
    | with_reducible apply outSame_next
    | with_reducible apply State.wf_same
    | with_reducible refine State.takeCtl_same ?_ ?_ _ _ (by assumption)
    | with_reducible apply outSame_ite
    | with_reducible apply ite_same
    | with_reducible refine same_snd (by assumption) ?_
    | with_reducible refine same_snd2 (by assumption) ?_
    | with_reducible assumption
    | exact sub_sub (by decide) hM
    | trivial
    | split
    | dsimp only
    | dsimp only [id]

theorem execHeartbeatLoss_same {M : Nat} {s0 s : State} (hk : Same M s0 s) (hM : 8589934600 ||| M = M) (p : Fin 8) :
    OutSame M s0 (execHeartbeatLoss p s) := by
  unfold execHeartbeatLoss
  try dsimp only
  repeat' first
    | intro _
    | with_reducible exact hk
    | with_reducible apply outSame_next
    | with_reducible apply State.raiseSrc_same
    | with_reducible apply State.wf_same
    | with_reducible apply outSame_ite
    | with_reducible apply ite_same
    | with_reducible refine same_snd (by assumption) ?_
    | with_reducible refine same_snd2 (by assumption) ?_
    | with_reducible assumption
    | exact sub_sub (by decide) hM
    | trivial
    | split
    | dsimp only
    | dsimp only [id]

theorem execWeightBankFilled_same {M : Nat} {s0 s : State} (hk : Same M s0 s) (hM : 8595177480 ||| M = M) (f : Fin 4)
    (n : Fin 26) (lost : List Nat) :
    OutSame M s0 (execWeightBankFilled f n lost s) := by
  unfold execWeightBankFilled
  try dsimp only
  repeat' first
    | intro _
    | with_reducible exact hk
    | with_reducible apply outSame_next
    | with_reducible apply State.setFur_same
    | with_reducible apply State.operandLost_same
    | with_reducible apply outSame_ite
    | with_reducible apply ite_same
    | with_reducible refine same_snd (by assumption) ?_
    | with_reducible refine same_snd2 (by assumption) ?_
    | with_reducible assumption
    | exact sub_sub (by decide) hM
    | trivial
    | split
    | dsimp only
    | dsimp only [id]

theorem execArrayPassEnter_same {M : Nat} {s0 s : State} (hk : Same M s0 s) (hM : 8595177480 ||| M = M) (f : Fin 4) (n
    : Fin 26) (lost : List Nat) :
    OutSame M s0 (execArrayPassEnter f n lost s) := by
  unfold execArrayPassEnter
  try dsimp only
  repeat' first
    | intro _
    | with_reducible exact hk
    | with_reducible apply outSame_next
    | with_reducible apply State.setFur_same
    | with_reducible apply State.operandLost_same
    | with_reducible apply outSame_ite
    | with_reducible apply ite_same
    | with_reducible refine same_snd (by assumption) ?_
    | with_reducible refine same_snd2 (by assumption) ?_
    | with_reducible assumption
    | exact sub_sub (by decide) hM
    | trivial
    | split
    | dsimp only
    | dsimp only [id]

theorem execDrainRetire_same {M : Nat} {s0 s : State} (hk : Same M s0 s) (hM : 9140437000 ||| M = M) (f : Fin 4) (n :
    Fin 26) :
    OutSame M s0 (execDrainRetire f n s) := by
  unfold execDrainRetire
  try dsimp only
  repeat' first
    | intro _
    | with_reducible exact hk
    | with_reducible apply outSame_next
    | with_reducible apply State.retireDrain_same
    | with_reducible apply outSame_ite
    | with_reducible apply ite_same
    | with_reducible refine same_snd (by assumption) ?_
    | with_reducible refine same_snd2 (by assumption) ?_
    | with_reducible assumption
    | exact sub_sub (by decide) hM
    | trivial
    | split
    | dsimp only
    | dsimp only [id]

theorem execVopRetire_same {M : Nat} {s0 s : State} (hk : Same M s0 s) (hM : 4194304 ||| M = M) (f : Fin 4) (n : Fin
    26) (unit : Fin 8) :
    OutSame M s0 (execVopRetire f n unit s) := by
  unfold execVopRetire
  try dsimp only
  repeat' first
    | intro _
    | with_reducible exact hk
    | with_reducible apply outSame_next
    | with_reducible apply State.setFur_same
    | with_reducible apply outSame_ite
    | with_reducible apply ite_same
    | with_reducible refine same_snd (by assumption) ?_
    | with_reducible refine same_snd2 (by assumption) ?_
    | with_reducible assumption
    | exact sub_sub (by decide) hM
    | trivial
    | split
    | dsimp only
    | dsimp only [id]

theorem execGlnRetire_same {M : Nat} {s0 s : State} (hk : Same M s0 s) (hM : 4194304 ||| M = M) (f : Fin 4) (n : Fin 26) :
    OutSame M s0 (execGlnRetire f n s) := by
  unfold execGlnRetire
  try dsimp only
  repeat' first
    | intro _
    | with_reducible exact hk
    | with_reducible apply outSame_next
    | with_reducible apply State.setFur_same
    | with_reducible apply outSame_ite
    | with_reducible apply ite_same
    | with_reducible refine same_snd (by assumption) ?_
    | with_reducible refine same_snd2 (by assumption) ?_
    | with_reducible assumption
    | exact sub_sub (by decide) hM
    | trivial
    | split
    | dsimp only
    | dsimp only [id]

theorem execDmaHandoffAccept_same {M : Nat} {s0 s : State} (hk : Same M s0 s) (hM : 16777216 ||| M = M) (f : Fin 4) :
    OutSame M s0 (execDmaHandoffAccept f s) := by
  unfold execDmaHandoffAccept
  try dsimp only
  repeat' first
    | intro _
    | with_reducible exact hk
    | with_reducible apply outSame_next
    | with_reducible apply State.setDma_same
    | with_reducible apply State.feedDma_same
    | with_reducible apply outSame_ite
    | with_reducible apply ite_same
    | with_reducible refine same_snd (by assumption) ?_
    | with_reducible refine same_snd2 (by assumption) ?_
    | with_reducible assumption
    | exact sub_sub (by decide) hM
    | trivial
    | split
    | dsimp only
    | dsimp only [id]

theorem execDmaTransferDone_same {M : Nat} {s0 s : State} (hk : Same M s0 s) (hM : 837067318280 ||| M = M) (f : Fin 4)
    (i : Nat) (lost : List Nat) :
    OutSame M s0 (execDmaTransferDone f i lost s) := by
  unfold execDmaTransferDone
  try dsimp only
  repeat' first
    | intro _
    | with_reducible exact hk
    | with_reducible apply outSame_next
    | with_reducible apply State.stepProgress_same
    | with_reducible apply State.moveRow_same
    | with_reducible apply State.setDma_same
    | with_reducible apply State.feedDma_same
    | with_reducible apply State.sourceLost_same
    | with_reducible apply State.signal_same
    | with_reducible refine foldl_same ?_ ?_
    | with_reducible apply outSame_ite
    | with_reducible apply ite_same
    | with_reducible refine same_snd (by assumption) ?_
    | with_reducible refine same_snd2 (by assumption) ?_
    | with_reducible assumption
    | exact sub_sub (by decide) hM
    | trivial
    | split
    | dsimp only
    | dsimp only [id]

theorem execCollectiveEnd_same {M : Nat} {s0 s : State} (hk : Same M s0 s) (hM : 4204304376842 ||| M = M) (f : Fin 4)
    (c : Fin 64) (opid : BitVec 32) :
    OutSame M s0 (execCollectiveEnd f c opid s) := by
  unfold execCollectiveEnd
  try dsimp only
  repeat' first
    | intro _
    | with_reducible exact hk
    | with_reducible apply outSame_next
    | with_reducible apply State.nextWaiting_same
    | with_reducible apply State.endOp_same
    | with_reducible apply outSame_ite
    | with_reducible apply ite_same
    | with_reducible refine same_snd (by assumption) ?_
    | with_reducible refine same_snd2 (by assumption) ?_
    | with_reducible assumption
    | exact sub_sub (by decide) hM
    | trivial
    | split
    | dsimp only
    | dsimp only [id]

theorem execCollectiveTimeout_same {M : Nat} {s0 s : State} (hk : Same M s0 s) (hM : 4204304376842 ||| M = M) (f : Fin
    4) (c : Fin 64) (opid : BitVec 32) :
    OutSame M s0 (execCollectiveTimeout f c opid s) := by
  unfold execCollectiveTimeout
  try dsimp only
  repeat' first
    | intro _
    | with_reducible exact hk
    | with_reducible apply outSame_next
    | with_reducible apply State.nextWaiting_same
    | with_reducible apply State.endOp_same
    | with_reducible apply outSame_ite
    | with_reducible apply ite_same
    | with_reducible refine same_snd (by assumption) ?_
    | with_reducible refine same_snd2 (by assumption) ?_
    | with_reducible assumption
    | exact sub_sub (by decide) hM
    | trivial
    | split
    | dsimp only
    | dsimp only [id]

theorem execNextPrefetch_same {M : Nat} {s0 s : State} (hk : Same M s0 s) (hM : 4204304376842 ||| M = M) (f : Fin 4)
    (c : Fin 64) (opid : BitVec 32) (host : List Byte) :
    OutSame M s0 (execNextPrefetch f c opid host s) := by
  unfold execNextPrefetch
  try dsimp only
  repeat' first
    | intro _
    | with_reducible exact hk
    | with_reducible apply outSame_next
    | with_reducible apply State.nextWaiting_same
    | with_reducible apply State.acceptCol_same
    | with_reducible apply State.setOp_same
    | with_reducible apply outSame_ite
    | with_reducible apply ite_same
    | with_reducible refine same_snd (by assumption) ?_
    | with_reducible refine same_snd2 (by assumption) ?_
    | with_reducible assumption
    | exact sub_sub (by decide) hM
    | trivial
    | split
    | dsimp only
    | dsimp only [id]

theorem execCollPacket_same {M : Nat} {s0 s : State} (hk : Same M s0 s) (hM : 1935957655562 ||| M = M) (p : Fin 12)
    (vc : Fin 2) :
    OutSame M s0 (execCollPacket p vc s) := by
  unfold execCollPacket
  try dsimp only
  repeat' first
    | intro _
    | with_reducible exact hk
    | with_reducible apply outSame_next
    | with_reducible apply State.takeData'_same
    | with_reducible apply outSame_ite
    | with_reducible apply ite_same
    | with_reducible refine same_snd (by assumption) ?_
    | with_reducible refine same_snd2 (by assumption) ?_
    | with_reducible assumption
    | exact sub_sub (by decide) hM
    | trivial
    | split
    | dsimp only
    | dsimp only [id]

theorem execSowPacket_same {M : Nat} {s0 s : State} (hk : Same M s0 s) (hM : 1935957655562 ||| M = M) (p : Fin 12) (vc
    : Fin 2) :
    OutSame M s0 (execSowPacket p vc s) := by
  unfold execSowPacket
  try dsimp only
  repeat' first
    | intro _
    | with_reducible exact hk
    | with_reducible apply outSame_next
    | with_reducible apply State.takeData'_same
    | with_reducible apply outSame_ite
    | with_reducible apply ite_same
    | with_reducible refine same_snd (by assumption) ?_
    | with_reducible refine same_snd2 (by assumption) ?_
    | with_reducible assumption
    | exact sub_sub (by decide) hM
    | trivial
    | split
    | dsimp only
    | dsimp only [id]

theorem execAbortSlot_same {M : Nat} {s0 s : State} (hk : Same M s0 s) (hM : 833223655432 ||| M = M) (p : Fin 8) (ns : Nat) :
    OutSame M s0 (execAbortSlot p ns s) := by
  unfold execAbortSlot
  try dsimp only
  repeat' first
    | intro _
    | with_reducible exact hk
    | with_reducible apply outSame_next
    | with_reducible apply State.truncHead_same
    | with_reducible apply State.sowCut_same
    | with_reducible apply State.countAbort_same
    | with_reducible apply State.setPort_same
    | with_reducible apply outSame_ite
    | with_reducible apply ite_same
    | with_reducible refine same_snd (by assumption) ?_
    | with_reducible refine same_snd2 (by assumption) ?_
    | with_reducible assumption
    | exact sub_sub (by decide) hM
    | trivial
    | split
    | dsimp only
    | dsimp only [id]

theorem execWritePacket_same {M : Nat} {s0 s : State} (hk : Same M s0 s) (hM : 836444979208 ||| M = M) (p : Fin 12)
    (vc : Fin 2) :
    OutSame M s0 (execWritePacket p vc s) := by
  unfold execWritePacket
  try dsimp only
  repeat' first
    | intro _
    | with_reducible exact hk
    | with_reducible apply outSame_next
    | with_reducible apply State.consume_same
    | with_reducible apply State.hbmWrite_same
    | with_reducible apply State.discardPkt_same
    | with_reducible apply outSame_ite
    | with_reducible apply ite_same
    | with_reducible refine same_snd (by assumption) ?_
    | with_reducible refine same_snd2 (by assumption) ?_
    | with_reducible assumption
    | exact sub_sub (by decide) hM
    | trivial
    | split
    | dsimp only
    | dsimp only [id]

theorem execMirrorData_same {M : Nat} {s0 s : State} (hk : Same M s0 s) (hM : 836444979208 ||| M = M) (p : Fin 12) (vc
    : Fin 2) :
    OutSame M s0 (execMirrorData p vc s) := by
  unfold execMirrorData
  try dsimp only
  repeat' first
    | intro _
    | with_reducible exact hk
    | with_reducible apply outSame_next
    | with_reducible apply State.mirrorIn_same
    | with_reducible apply State.hbmWrite_same
    | with_reducible apply State.discardPkt_same
    | with_reducible apply State.setRegion_same
    | with_reducible apply outSame_ite
    | with_reducible apply ite_same
    | with_reducible refine same_snd (by assumption) ?_
    | with_reducible refine same_snd2 (by assumption) ?_
    | with_reducible assumption
    | exact sub_sub (by decide) hM
    | trivial
    | split
    | dsimp only
    | dsimp only [id]

theorem execMirrorBegin_same {M : Nat} {s0 s : State} (hk : Same M s0 s) (hM : 834297397256 ||| M = M) (p : Fin 12)
    (vc : Fin 2) :
    OutSame M s0 (execMirrorBegin p vc s) := by
  unfold execMirrorBegin
  try dsimp only
  repeat' first
    | intro _
    | with_reducible exact hk
    | with_reducible apply outSame_next
    | with_reducible apply State.flipDue_same
    | with_reducible apply State.mirrorIn_same
    | with_reducible apply State.discardPkt_same
    | with_reducible apply State.setRegion_same
    | with_reducible apply outSame_ite
    | with_reducible apply ite_same
    | with_reducible refine same_snd (by assumption) ?_
    | with_reducible refine same_snd2 (by assumption) ?_
    | with_reducible assumption
    | exact sub_sub (by decide) hM
    | trivial
    | split
    | dsimp only
    | dsimp only [id]

theorem execMirrorEnd_same {M : Nat} {s0 s : State} (hk : Same M s0 s) (hM : 834297397256 ||| M = M) (p : Fin 12) (vc
    : Fin 2) :
    OutSame M s0 (execMirrorEnd p vc s) := by
  unfold execMirrorEnd
  try dsimp only
  repeat' first
    | intro _
    | with_reducible exact hk
    | with_reducible apply outSame_next
    | with_reducible apply State.mirrorIn_same
    | with_reducible apply State.discardPkt_same
    | with_reducible apply State.setRegion_same
    | with_reducible apply State.sendPkt_same
    | with_reducible apply outSame_ite
    | with_reducible apply ite_same
    | with_reducible refine same_snd (by assumption) ?_
    | with_reducible refine same_snd2 (by assumption) ?_
    | with_reducible assumption
    | exact sub_sub (by decide) hM
    | trivial
    | split
    | dsimp only
    | dsimp only [id]

theorem execMirrorAck_same {M : Nat} {s0 s : State} (hk : Same M s0 s) (hM : 834297397256 ||| M = M) (p : Fin 12) (vc
    : Fin 2) :
    OutSame M s0 (execMirrorAck p vc s) := by
  unfold execMirrorAck
  try dsimp only
  repeat' first
    | intro _
    | with_reducible exact hk
    | with_reducible apply outSame_next
    | with_reducible apply State.mirrorIn_same
    | with_reducible apply State.failMirror_same
    | with_reducible apply State.discardPkt_same
    | with_reducible apply State.setRegion_same
    | with_reducible apply outSame_ite
    | with_reducible apply ite_same
    | with_reducible refine same_snd (by assumption) ?_
    | with_reducible refine same_snd2 (by assumption) ?_
    | with_reducible assumption
    | exact sub_sub (by decide) hM
    | trivial
    | split
    | dsimp only
    | dsimp only [id]

theorem execMirrorTimeout_same {M : Nat} {s0 s : State} (hk : Same M s0 s) (hM : 9663676424 ||| M = M) (i : Fin 4096) :
    OutSame M s0 (execMirrorTimeout i s) := by
  unfold execMirrorTimeout
  try dsimp only
  repeat' first
    | intro _
    | with_reducible exact hk
    | with_reducible apply outSame_next
    | with_reducible apply State.failMirror_same
    | with_reducible apply outSame_ite
    | with_reducible apply ite_same
    | with_reducible refine same_snd (by assumption) ?_
    | with_reducible refine same_snd2 (by assumption) ?_
    | with_reducible assumption
    | exact sub_sub (by decide) hM
    | trivial
    | split
    | dsimp only
    | dsimp only [id]

theorem execStepReady_same {M : Nat} {s0 s : State} (hk : Same M s0 s) (hM : 4204236219912 ||| M = M) (c : Fin 64)
    (rings : Rings) :
    OutSame M s0 (execStepReady c rings s) := by
  unfold execStepReady
  try dsimp only
  repeat' first
    | intro _
    | with_reducible exact hk
    | with_reducible apply outSame_next
    | with_reducible apply State.reportDue_same
    | with_reducible apply State.subtreeReady_same
    | with_reducible apply State.wf_same
    | with_reducible apply State.mirrorEnds_same
    | with_reducible apply State.setCtx_same
    | with_reducible apply State.ctxEvent_same
    | with_reducible apply outSame_ite
    | with_reducible apply ite_same
    | with_reducible refine same_snd (by assumption) ?_
    | with_reducible refine same_snd2 (by assumption) ?_
    | with_reducible assumption
    | exact sub_sub (by decide) hM
    | trivial
    | split
    | dsimp only
    | dsimp only [id]

theorem execTokenReady_same {M : Nat} {s0 s : State} (hk : Same M s0 s) (hM : 4204236219912 ||| M = M) (p : Fin 12)
    (vc : Fin 2) :
    OutSame M s0 (execTokenReady p vc s) := by
  unfold execTokenReady
  try dsimp only
  repeat' first
    | intro _
    | with_reducible exact hk
    | with_reducible apply outSame_next
    | with_reducible apply State.subtreeReady_same
    | with_reducible apply State.markChild_same
    | with_reducible apply State.setCtx_same
    | with_reducible apply State.takeToken_same
    | with_reducible apply outSame_ite
    | with_reducible apply ite_same
    | with_reducible refine same_snd (by assumption) ?_
    | with_reducible refine same_snd2 (by assumption) ?_
    | with_reducible assumption
    | exact sub_sub (by decide) hM
    | trivial
    | split
    | dsimp only
    | dsimp only [id]

theorem execTokenCommit_same {M : Nat} {s0 s : State} (hk : Same M s0 s) (hM : 4204236219912 ||| M = M) (p : Fin 12)
    (vc : Fin 2) :
    OutSame M s0 (execTokenCommit p vc s) := by
  unfold execTokenCommit
  try dsimp only
  repeat' first
    | intro _
    | with_reducible exact hk
    | with_reducible apply outSame_next
    | with_reducible apply State.commitStep_same
    | with_reducible apply State.takeToken_same
    | with_reducible apply outSame_ite
    | with_reducible apply ite_same
    | with_reducible refine same_snd (by assumption) ?_
    | with_reducible refine same_snd2 (by assumption) ?_
    | with_reducible assumption
    | exact sub_sub (by decide) hM
    | trivial
    | split
    | dsimp only
    | dsimp only [id]

theorem execTokenAbort_same {M : Nat} {s0 s : State} (hk : Same M s0 s) (hM : 4346506487306 ||| M = M) (p : Fin 12)
    (vc : Fin 2) (rings : Rings) :
    OutSame M s0 (execTokenAbort p vc rings s) := by
  unfold execTokenAbort
  try dsimp only
  repeat' first
    | intro _
    | with_reducible exact hk
    | with_reducible apply outSame_next
    | with_reducible apply State.abortStep_same
    | with_reducible apply State.takeToken_same
    | with_reducible apply outSame_ite
    | with_reducible apply ite_same
    | with_reducible refine same_snd (by assumption) ?_
    | with_reducible refine same_snd2 (by assumption) ?_
    | with_reducible assumption
    | exact sub_sub (by decide) hM
    | trivial
    | split
    | dsimp only
    | dsimp only [id]

theorem execTokenMirrorCommit_same {M : Nat} {s0 s : State} (hk : Same M s0 s) (hM : 834297397256 ||| M = M) (p : Fin
    12) (vc : Fin 2) :
    OutSame M s0 (execTokenMirrorCommit p vc s) := by
  unfold execTokenMirrorCommit
  try dsimp only
  repeat' first
    | intro _
    | with_reducible exact hk
    | with_reducible apply outSame_next
    | with_reducible apply State.raiseSrc_same
    | with_reducible apply State.takeToken_same
    | with_reducible apply State.setRegion_same
    | with_reducible refine foldl_same ?_ ?_
    | with_reducible apply outSame_ite
    | with_reducible apply ite_same
    | with_reducible refine same_snd (by assumption) ?_
    | with_reducible refine same_snd2 (by assumption) ?_
    | with_reducible assumption
    | exact sub_sub (by decide) hM
    | trivial
    | split
    | dsimp only
    | dsimp only [id]

theorem execTokenMirrorRollback_same {M : Nat} {s0 s : State} (hk : Same M s0 s) (hM : 834297397256 ||| M = M) (p :
    Fin 12) (vc : Fin 2) :
    OutSame M s0 (execTokenMirrorRollback p vc s) := by
  unfold execTokenMirrorRollback
  try dsimp only
  repeat' first
    | intro _
    | with_reducible exact hk
    | with_reducible apply outSame_next
    | with_reducible apply State.takeToken_same
    | with_reducible apply State.setRegion_same
    | with_reducible refine foldl_same ?_ ?_
    | with_reducible apply outSame_ite
    | with_reducible apply ite_same
    | with_reducible refine same_snd (by assumption) ?_
    | with_reducible refine same_snd2 (by assumption) ?_
    | with_reducible assumption
    | exact sub_sub (by decide) hM
    | trivial
    | split
    | dsimp only
    | dsimp only [id]

theorem execCommandStart_same {M : Nat} {s0 s : State} (hk : Same M s0 s) (hM : 36028874328375304 ||| M = M) (q : Fin
    8192) (ring : Option CmdWord) :
    OutSame M s0 (execCommandStart q ring s) := by
  unfold execCommandStart
  try dsimp only
  repeat' first
    | intro _
    | with_reducible exact hk
    | with_reducible apply outSame_next
    | with_reducible apply State.stopCmd_same
    | with_reducible apply State.readCmd_same
    | with_reducible apply State.setQueue_same
    | with_reducible apply State.queueError_same
    | with_reducible refine State.passDead_same ?_ _ _ ?_
    | with_reducible apply outSame_ite
    | with_reducible apply ite_same
    | with_reducible refine same_snd (by assumption) ?_
    | with_reducible refine same_snd2 (by assumption) ?_
    | with_reducible assumption
    | exact sub_sub (by decide) hM
    | trivial
    | split
    | dsimp only
    | dsimp only [id]
    | with_reducible apply same_u36028797018963968

theorem execCompletionWrite_same {M : Nat} {s0 s : State} (hk : Same M s0 s) (hM : 905164465672 ||| M = M) (q : Fin
    8192) (ok : Bool) :
    OutSame M s0 (execCompletionWrite q ok s) := by
  unfold execCompletionWrite
  try dsimp only
  repeat' first
    | intro _
    | with_reducible exact hk
    | with_reducible apply outSame_next
    | with_reducible apply State.writeCpl_same
    | with_reducible apply outSame_ite
    | with_reducible apply ite_same
    | with_reducible refine same_snd (by assumption) ?_
    | with_reducible refine same_snd2 (by assumption) ?_
    | with_reducible assumption
    | exact sub_sub (by decide) hM
    | trivial
    | split
    | dsimp only
    | dsimp only [id]

theorem execNop_same {M : Nat} {s0 s : State} (hk : Same M s0 s) (hM : 68719476744 ||| M = M) (q : Fin 8192) :
    OutSame M s0 (execNop q s) := by
  unfold execNop
  try dsimp only
  repeat' first
    | intro _
    | with_reducible exact hk
    | with_reducible apply outSame_next
    | with_reducible apply runCmd_same
    | with_reducible apply thenOk_same
    | with_reducible apply begun_ok_same
    | with_reducible apply begun_stop_same
    | with_reducible apply argsThen_same
    | with_reducible apply begun_wait_same
    | with_reducible apply begun_run_same
    | with_reducible apply begun_ite_same
    | with_reducible apply stepArgs_same
    | with_reducible apply launchBody_same
    | with_reducible apply State.servingOnly_same
    | with_reducible apply State.startCopy_same
    | with_reducible apply hk
    | with_reducible apply outSame_ite
    | with_reducible apply ite_same
    | with_reducible refine same_snd (by assumption) ?_
    | with_reducible refine same_snd2 (by assumption) ?_
    | with_reducible assumption
    | exact sub_sub (by decide) hM
    | trivial
    | split
    | dsimp only
    | dsimp only [id]

theorem execCopy_same {M : Nat} {s0 s : State} (hk : Same M s0 s) (hM : 206158430216 ||| M = M) (q : Fin 8192) :
    OutSame M s0 (execCopy q s) := by
  unfold execCopy
  try dsimp only
  repeat' first
    | intro _
    | with_reducible exact hk
    | with_reducible apply outSame_next
    | with_reducible apply runCmd_same
    | with_reducible apply begun_ok_same
    | with_reducible apply begun_stop_same
    | with_reducible apply argsThen_same
    | with_reducible apply begun_wait_same
    | with_reducible apply begun_run_same
    | with_reducible apply begun_ite_same
    | with_reducible apply stepArgs_same
    | with_reducible apply launchBody_same
    | with_reducible apply State.servingOnly_same
    | with_reducible apply State.startCopy_same
    | with_reducible apply hk
    | with_reducible apply outSame_ite
    | with_reducible apply ite_same
    | with_reducible refine same_snd (by assumption) ?_
    | with_reducible refine same_snd2 (by assumption) ?_
    | with_reducible assumption
    | exact sub_sub (by decide) hM
    | trivial
    | split
    | dsimp only
    | dsimp only [id]

theorem execFill_same {M : Nat} {s0 s : State} (hk : Same M s0 s) (hM : 206158430216 ||| M = M) (q : Fin 8192) :
    OutSame M s0 (execFill q s) := by
  unfold execFill
  try dsimp only
  repeat' first
    | intro _
    | with_reducible exact hk
    | with_reducible apply outSame_next
    | with_reducible apply runCmd_same
    | with_reducible apply begun_ok_same
    | with_reducible apply begun_stop_same
    | with_reducible apply argsThen_same
    | with_reducible apply begun_wait_same
    | with_reducible apply begun_run_same
    | with_reducible apply begun_ite_same
    | with_reducible apply stepArgs_same
    | with_reducible apply launchBody_same
    | with_reducible apply State.servingOnly_same
    | with_reducible apply State.startCopy_same
    | with_reducible apply hk
    | with_reducible apply outSame_ite
    | with_reducible apply ite_same
    | with_reducible refine same_snd (by assumption) ?_
    | with_reducible refine same_snd2 (by assumption) ?_
    | with_reducible assumption
    | exact sub_sub (by decide) hM
    | trivial
    | split
    | dsimp only
    | dsimp only [id]

theorem execCopyDone_same {M : Nat} {s0 s : State} (hk : Same M s0 s) (hM : 1043140290056 ||| M = M) (i : Fin 4) (host
    : List Byte) (ok : Bool) :
    OutSame M s0 (execCopyDone i host ok s) := by
  unfold execCopyDone
  try dsimp only
  repeat' first
    | intro _
    | with_reducible exact hk
    | with_reducible apply outSame_next
    | with_reducible apply State.stepProgress_same
    | with_reducible apply State.finishCmd_same
    | with_reducible apply State.moveCopy_same
    | with_reducible apply outSame_ite
    | with_reducible apply ite_same
    | with_reducible refine same_snd (by assumption) ?_
    | with_reducible refine same_snd2 (by assumption) ?_
    | with_reducible assumption
    | exact sub_sub (by decide) hM
    | trivial
    | split
    | dsimp only
    | dsimp only [id]
    | with_reducible apply same_u137438953472

theorem execColl_same {M : Nat} {s0 s : State} (hk : Same M s0 s) (hM : 4204304376842 ||| M = M) (q : Fin 8192) (host
    : List Byte) :
    OutSame M s0 (execColl q host s) := by
  unfold execColl
  try dsimp only
  repeat' first
    | intro _
    | with_reducible exact hk
    | with_reducible apply outSame_next
    | with_reducible apply State.handCol_same
    | with_reducible apply runCmd_same
    | with_reducible apply begun_ok_same
    | with_reducible apply begun_stop_same
    | with_reducible apply argsThen_same
    | with_reducible apply begun_wait_same
    | with_reducible apply begun_run_same
    | with_reducible apply begun_ite_same
    | with_reducible apply stepArgs_same
    | with_reducible apply launchBody_same
    | with_reducible apply State.servingOnly_same
    | with_reducible apply State.startCopy_same
    | with_reducible apply hk
    | with_reducible apply outSame_ite
    | with_reducible apply ite_same
    | with_reducible refine same_snd (by assumption) ?_
    | with_reducible refine same_snd2 (by assumption) ?_
    | with_reducible assumption
    | exact sub_sub (by decide) hM
    | trivial
    | split
    | dsimp only
    | dsimp only [id]

theorem execCommit_same {M : Nat} {s0 s : State} (hk : Same M s0 s) (hM : 4204236219912 ||| M = M) (q : Fin 8192) :
    OutSame M s0 (execCommit q s) := by
  unfold execCommit
  try dsimp only
  repeat' first
    | intro _
    | with_reducible exact hk
    | with_reducible apply outSame_next
    | with_reducible apply State.commitStep_same
    | with_reducible apply runCmd_same
    | with_reducible apply thenOk_same
    | with_reducible apply begun_ok_same
    | with_reducible apply begun_stop_same
    | with_reducible apply argsThen_same
    | with_reducible apply begun_wait_same
    | with_reducible apply begun_run_same
    | with_reducible apply begun_ite_same
    | with_reducible apply stepArgs_same
    | with_reducible apply launchBody_same
    | with_reducible apply State.servingOnly_same
    | with_reducible apply State.startCopy_same
    | with_reducible apply hk
    | with_reducible apply outSame_ite
    | with_reducible apply ite_same
    | with_reducible refine same_snd (by assumption) ?_
    | with_reducible refine same_snd2 (by assumption) ?_
    | with_reducible assumption
    | exact sub_sub (by decide) hM
    | trivial
    | split
    | dsimp only
    | dsimp only [id]

theorem execAbort_same {M : Nat} {s0 s : State} (hk : Same M s0 s) (hM : 4346506487306 ||| M = M) (q : Fin 8192)
    (rings : Rings) :
    OutSame M s0 (execAbort q rings s) := by
  unfold execAbort
  try dsimp only
  repeat' first
    | intro _
    | with_reducible exact hk
    | with_reducible apply outSame_next
    | with_reducible apply runCmd_same
    | with_reducible apply State.abortStep_same
    | with_reducible apply thenOk_same
    | with_reducible apply begun_ok_same
    | with_reducible apply begun_stop_same
    | with_reducible apply argsThen_same
    | with_reducible apply begun_wait_same
    | with_reducible apply begun_run_same
    | with_reducible apply begun_ite_same
    | with_reducible apply stepArgs_same
    | with_reducible apply launchBody_same
    | with_reducible apply State.servingOnly_same
    | with_reducible apply State.startCopy_same
    | with_reducible apply hk
    | with_reducible apply outSame_ite
    | with_reducible apply ite_same
    | with_reducible refine same_snd (by assumption) ?_
    | with_reducible refine same_snd2 (by assumption) ?_
    | with_reducible assumption
    | exact sub_sub (by decide) hM
    | trivial
    | split
    | dsimp only
    | dsimp only [id]

theorem execRollback_same {M : Nat} {s0 s : State} (hk : Same M s0 s) (hM : 903016873992 ||| M = M) (q : Fin 8192) :
    OutSame M s0 (execRollback q s) := by
  unfold execRollback
  try dsimp only
  repeat' first
    | intro _
    | with_reducible exact hk
    | with_reducible apply outSame_next
    | with_reducible apply runCmd_same
    | with_reducible apply State.rollbackStep_same
    | with_reducible apply thenOk_same
    | with_reducible apply begun_ok_same
    | with_reducible apply begun_stop_same
    | with_reducible apply argsThen_same
    | with_reducible apply begun_wait_same
    | with_reducible apply begun_run_same
    | with_reducible apply begun_ite_same
    | with_reducible apply stepArgs_same
    | with_reducible apply launchBody_same
    | with_reducible apply State.servingOnly_same
    | with_reducible apply State.startCopy_same
    | with_reducible apply hk
    | with_reducible apply outSame_ite
    | with_reducible apply ite_same
    | with_reducible refine same_snd (by assumption) ?_
    | with_reducible refine same_snd2 (by assumption) ?_
    | with_reducible assumption
    | exact sub_sub (by decide) hM
    | trivial
    | split
    | dsimp only
    | dsimp only [id]

theorem execAdopt_same {M : Nat} {s0 s : State} (hk : Same M s0 s) (hM : 3368328111112 ||| M = M) (q : Fin 8192) :
    OutSame M s0 (execAdopt q s) := by
  unfold execAdopt
  try dsimp only
  repeat' first
    | intro _
    | with_reducible exact hk
    | with_reducible apply outSame_next
    | with_reducible apply State.adoptStep_same
    | with_reducible apply runCmd_same
    | with_reducible apply thenOk_same
    | with_reducible apply begun_ok_same
    | with_reducible apply begun_stop_same
    | with_reducible apply argsThen_same
    | with_reducible apply begun_wait_same
    | with_reducible apply begun_run_same
    | with_reducible apply begun_ite_same
    | with_reducible apply stepArgs_same
    | with_reducible apply launchBody_same
    | with_reducible apply State.servingOnly_same
    | with_reducible apply State.startCopy_same
    | with_reducible apply hk
    | with_reducible apply outSame_ite
    | with_reducible apply ite_same
    | with_reducible refine same_snd (by assumption) ?_
    | with_reducible refine same_snd2 (by assumption) ?_
    | with_reducible assumption
    | exact sub_sub (by decide) hM
    | trivial
    | split
    | dsimp only
    | dsimp only [id]

theorem execLend_same {M : Nat} {s0 s : State} (hk : Same M s0 s) (hM : 4204304376842 ||| M = M) (q : Fin 8192) :
    OutSame M s0 (execLend q s) := by
  unfold execLend
  try dsimp only
  repeat' first
    | intro _
    | with_reducible exact hk
    | with_reducible apply outSame_next
    | with_reducible apply State.loseField_same
    | with_reducible apply runCmd_same
    | with_reducible apply State.wf_same
    | with_reducible apply thenOk_same
    | with_reducible apply begun_ok_same
    | with_reducible apply begun_stop_same
    | with_reducible apply argsThen_same
    | with_reducible apply begun_wait_same
    | with_reducible apply begun_run_same
    | with_reducible apply begun_ite_same
    | with_reducible apply stepArgs_same
    | with_reducible apply launchBody_same
    | with_reducible apply State.servingOnly_same
    | with_reducible apply State.startCopy_same
    | with_reducible apply hk
    | with_reducible refine foldl_same ?_ ?_
    | with_reducible apply outSame_ite
    | with_reducible apply ite_same
    | with_reducible refine same_snd (by assumption) ?_
    | with_reducible refine same_snd2 (by assumption) ?_
    | with_reducible assumption
    | exact sub_sub (by decide) hM
    | trivial
    | split
    | dsimp only
    | dsimp only [id]

theorem execBegin_same {M : Nat} {s0 s : State} (hk : Same M s0 s) (hM : 4204446983178 ||| M = M) (q : Fin 8192)
    (rings : Rings) :
    OutSame M s0 (execBegin q rings s) := by
  unfold execBegin
  try dsimp only
  repeat' first
    | intro _
    | with_reducible exact hk
    | with_reducible apply outSame_next
    | with_reducible apply State.writeShort_same
    | with_reducible apply runCmd_same
    | with_reducible apply State.beginStep_same
    | with_reducible apply State.beginServing_same
    | with_reducible apply State.finishCmd_same
    | with_reducible apply thenOk_same
    | with_reducible apply begun_ok_same
    | with_reducible apply begun_stop_same
    | with_reducible apply argsThen_same
    | with_reducible apply begun_wait_same
    | with_reducible apply begun_run_same
    | with_reducible apply begun_ite_same
    | with_reducible apply stepArgs_same
    | with_reducible apply launchBody_same
    | with_reducible apply State.servingOnly_same
    | with_reducible apply State.startCopy_same
    | with_reducible apply hk
    | with_reducible apply outSame_ite
    | with_reducible apply ite_same
    | with_reducible refine same_snd (by assumption) ?_
    | with_reducible refine same_snd2 (by assumption) ?_
    | with_reducible assumption
    | exact sub_sub (by decide) hM
    | trivial
    | split
    | dsimp only
    | dsimp only [id]

theorem execJoin_same {M : Nat} {s0 s : State} (hk : Same M s0 s) (hM : 68719476744 ||| M = M) (q : Fin 8192) :
    OutSame M s0 (execJoin q s) := by
  unfold execJoin
  try dsimp only
  repeat' first
    | intro _
    | with_reducible exact hk
    | with_reducible apply outSame_next
    | with_reducible apply runCmd_same
    | with_reducible apply begun_ok_same
    | with_reducible apply begun_stop_same
    | with_reducible apply argsThen_same
    | with_reducible apply begun_wait_same
    | with_reducible apply begun_run_same
    | with_reducible apply begun_ite_same
    | with_reducible apply stepArgs_same
    | with_reducible apply launchBody_same
    | with_reducible apply State.servingOnly_same
    | with_reducible apply State.startCopy_same
    | with_reducible apply hk
    | with_reducible apply outSame_ite
    | with_reducible apply ite_same
    | with_reducible refine same_snd (by assumption) ?_
    | with_reducible refine same_snd2 (by assumption) ?_
    | with_reducible assumption
    | exact sub_sub (by decide) hM
    | trivial
    | split
    | dsimp only
    | dsimp only [id]

theorem execLeave_same {M : Nat} {s0 s : State} (hk : Same M s0 s) (hM : 3367254369288 ||| M = M) (q : Fin 8192) :
    OutSame M s0 (execLeave q s) := by
  unfold execLeave
  try dsimp only
  repeat' first
    | intro _
    | with_reducible exact hk
    | with_reducible apply outSame_next
    | with_reducible apply runCmd_same
    | with_reducible apply State.leaveNow_same
    | with_reducible apply thenOk_same
    | with_reducible apply begun_ok_same
    | with_reducible apply begun_stop_same
    | with_reducible apply argsThen_same
    | with_reducible apply begun_wait_same
    | with_reducible apply begun_run_same
    | with_reducible apply begun_ite_same
    | with_reducible apply stepArgs_same
    | with_reducible apply launchBody_same
    | with_reducible apply State.servingOnly_same
    | with_reducible apply State.startCopy_same
    | with_reducible apply hk
    | with_reducible apply outSame_ite
    | with_reducible apply ite_same
    | with_reducible refine same_snd (by assumption) ?_
    | with_reducible refine same_snd2 (by assumption) ?_
    | with_reducible assumption
    | exact sub_sub (by decide) hM
    | trivial
    | split
    | dsimp only
    | dsimp only [id]

theorem execSwapClose_same {M : Nat} {s0 s : State} (hk : Same M s0 s) (hM : 3367254369288 ||| M = M) (q : Fin 8192) :
    OutSame M s0 (execSwapClose q s) := by
  unfold execSwapClose
  try dsimp only
  repeat' first
    | intro _
    | with_reducible exact hk
    | with_reducible apply outSame_next
    | with_reducible apply State.setSrv_same
    | with_reducible apply State.setReg_same
    | with_reducible apply State.enterSwap_same
    | with_reducible apply runCmd_same
    | with_reducible apply State.wf_same
    | with_reducible apply thenOk_same
    | with_reducible apply begun_ok_same
    | with_reducible apply begun_stop_same
    | with_reducible apply argsThen_same
    | with_reducible apply begun_wait_same
    | with_reducible apply begun_run_same
    | with_reducible apply begun_ite_same
    | with_reducible apply stepArgs_same
    | with_reducible apply launchBody_same
    | with_reducible apply State.servingOnly_same
    | with_reducible apply State.startCopy_same
    | with_reducible apply hk
    | with_reducible apply outSame_ite
    | with_reducible apply ite_same
    | with_reducible refine same_snd (by assumption) ?_
    | with_reducible refine same_snd2 (by assumption) ?_
    | with_reducible assumption
    | exact sub_sub (by decide) hM
    | trivial
    | split
    | dsimp only
    | dsimp only [id]

theorem execSwapLayer_same {M : Nat} {s0 s : State} (hk : Same M s0 s) (hM : 4204304376842 ||| M = M) (q : Fin 8192)
    (host : List Byte) :
    OutSame M s0 (execSwapLayer q host s) := by
  unfold execSwapLayer
  try dsimp only
  repeat' first
    | intro _
    | with_reducible exact hk
    | with_reducible apply outSame_next
    | with_reducible apply State.handCol_same
    | with_reducible apply State.setSrv_same
    | with_reducible apply runCmd_same
    | with_reducible apply begun_ok_same
    | with_reducible apply begun_stop_same
    | with_reducible apply argsThen_same
    | with_reducible apply begun_wait_same
    | with_reducible apply begun_run_same
    | with_reducible apply begun_ite_same
    | with_reducible apply stepArgs_same
    | with_reducible apply launchBody_same
    | with_reducible apply State.servingOnly_same
    | with_reducible apply State.startCopy_same
    | with_reducible apply hk
    | with_reducible apply outSame_ite
    | with_reducible apply ite_same
    | with_reducible refine same_snd (by assumption) ?_
    | with_reducible refine same_snd2 (by assumption) ?_
    | with_reducible assumption
    | exact sub_sub (by decide) hM
    | trivial
    | split
    | dsimp only
    | dsimp only [id]

theorem execSwapOpen_same {M : Nat} {s0 s : State} (hk : Same M s0 s) (hM : 2267742732296 ||| M = M) (q : Fin 8192) :
    OutSame M s0 (execSwapOpen q s) := by
  unfold execSwapOpen
  try dsimp only
  repeat' first
    | intro _
    | with_reducible exact hk
    | with_reducible apply outSame_next
    | with_reducible apply State.openSwap_same
    | with_reducible apply runCmd_same
    | with_reducible apply thenOk_same
    | with_reducible apply begun_ok_same
    | with_reducible apply begun_stop_same
    | with_reducible apply argsThen_same
    | with_reducible apply begun_wait_same
    | with_reducible apply begun_run_same
    | with_reducible apply begun_ite_same
    | with_reducible apply stepArgs_same
    | with_reducible apply launchBody_same
    | with_reducible apply State.servingOnly_same
    | with_reducible apply State.startCopy_same
    | with_reducible apply hk
    | with_reducible apply outSame_ite
    | with_reducible apply ite_same
    | with_reducible refine same_snd (by assumption) ?_
    | with_reducible refine same_snd2 (by assumption) ?_
    | with_reducible assumption
    | exact sub_sub (by decide) hM
    | trivial
    | split
    | dsimp only
    | dsimp only [id]

theorem execLaunch_same {M : Nat} {s0 s : State} (hk : Same M s0 s) (hM : 78123106312 ||| M = M) (q : Fin 8192) :
    OutSame M s0 (execLaunch q s) := by
  unfold execLaunch
  try dsimp only
  repeat' first
    | intro _
    | with_reducible exact hk
    | with_reducible apply outSame_next
    | with_reducible apply runCmd_same
    | with_reducible apply begun_ok_same
    | with_reducible apply begun_stop_same
    | with_reducible apply argsThen_same
    | with_reducible apply begun_wait_same
    | with_reducible apply begun_run_same
    | with_reducible apply begun_ite_same
    | with_reducible apply stepArgs_same
    | with_reducible apply launchBody_same
    | with_reducible apply State.servingOnly_same
    | with_reducible apply State.startCopy_same
    | with_reducible apply hk
    | with_reducible apply outSame_ite
    | with_reducible apply ite_same
    | with_reducible refine same_snd (by assumption) ?_
    | with_reducible refine same_snd2 (by assumption) ?_
    | with_reducible assumption
    | exact sub_sub (by decide) hM
    | trivial
    | split
    | dsimp only
    | dsimp only [id]

theorem execSeqrun_same {M : Nat} {s0 s : State} (hk : Same M s0 s) (hM : 78123106312 ||| M = M) (q : Fin 8192) :
    OutSame M s0 (execSeqrun q s) := by
  unfold execSeqrun
  try dsimp only
  repeat' first
    | intro _
    | with_reducible exact hk
    | with_reducible apply outSame_next
    | with_reducible apply runCmd_same
    | with_reducible apply begun_ok_same
    | with_reducible apply begun_stop_same
    | with_reducible apply argsThen_same
    | with_reducible apply begun_wait_same
    | with_reducible apply begun_run_same
    | with_reducible apply begun_ite_same
    | with_reducible apply stepArgs_same
    | with_reducible apply launchBody_same
    | with_reducible apply State.servingOnly_same
    | with_reducible apply State.startCopy_same
    | with_reducible apply hk
    | with_reducible apply outSame_ite
    | with_reducible apply ite_same
    | with_reducible refine same_snd (by assumption) ?_
    | with_reducible refine same_snd2 (by assumption) ?_
    | with_reducible assumption
    | exact sub_sub (by decide) hM
    | trivial
    | split
    | dsimp only
    | dsimp only [id]

theorem execLaunchStart_same {M : Nat} {s0 s : State} (hk : Same M s0 s) (hM : 68727865352 ||| M = M) (i : StreamId) :
    OutSame M s0 (execLaunchStart i s) := by
  unfold execLaunchStart
  try dsimp only
  repeat' first
    | intro _
    | with_reducible exact hk
    | with_reducible apply outSame_next
    | with_reducible apply State.launchEnded_same
    | with_reducible apply State.setCmd_same
    | with_reducible apply State.setSt_same
    | with_reducible apply outSame_ite
    | with_reducible apply ite_same
    | with_reducible refine same_snd (by assumption) ?_
    | with_reducible refine same_snd2 (by assumption) ?_
    | with_reducible assumption
    | exact sub_sub (by decide) hM
    | trivial
    | split
    | dsimp only
    | dsimp only [id]

theorem execStreamFetchDone_same {M : Nat} {s0 s : State} (hk : Same M s0 s) (hM : 8598323208 ||| M = M) (i : StreamId) :
    OutSame M s0 (execStreamFetchDone i s) := by
  unfold execStreamFetchDone
  try dsimp only
  repeat' first
    | intro _
    | with_reducible exact hk
    | with_reducible apply outSame_next
    | with_reducible apply State.haltStream_same
    | with_reducible apply State.hbmRead_same
    | with_reducible apply State.settleHead_same
    | with_reducible apply State.setSt_same
    | with_reducible apply outSame_ite
    | with_reducible apply ite_same
    | with_reducible refine same_snd (by assumption) ?_
    | with_reducible refine same_snd2 (by assumption) ?_
    | with_reducible assumption
    | exact sub_sub (by decide) hM
    | trivial
    | split
    | dsimp only
    | dsimp only [id]

theorem execSeqForwardIssue_same {M : Nat} {s0 s : State} (hk : Same M s0 s) (hM : 268435456 ||| M = M) (f : Fin 4) :
    OutSame M s0 (execSeqForwardIssue f s) := by
  unfold execSeqForwardIssue
  try dsimp only
  repeat' first
    | intro _
    | with_reducible exact hk
    | with_reducible apply outSame_next
    | with_reducible apply outSame_ite
    | with_reducible apply ite_same
    | with_reducible refine same_snd (by assumption) ?_
    | with_reducible refine same_snd2 (by assumption) ?_
    | with_reducible assumption
    | exact sub_sub (by decide) hM
    | trivial
    | split
    | dsimp only
    | dsimp only [id]
    | with_reducible apply same_u268435456

theorem execLdw_same {M : Nat} {s0 s : State} (hk : Same M s0 s) (hM : 8598323208 ||| M = M) (i : StreamId) (body :
    BitVec 120) :
    OutSame M s0 (execLdw i body s) :=
  tile_same hk fun _ h => issueLdw_same h (sub_sub (by decide) hM) _ _

theorem execLda_same {M : Nat} {s0 s : State} (hk : Same M s0 s) (hM : 8598323208 ||| M = M) (i : StreamId) (body :
    BitVec 120) :
    OutSame M s0 (execLda i body s) :=
  tile_same hk fun _ h => issueLda_same h (sub_sub (by decide) hM) _ _

theorem execTrn_same {M : Nat} {s0 s : State} (hk : Same M s0 s) (hM : 8598323208 ||| M = M) (i : StreamId) (body :
    BitVec 120) :
    OutSame M s0 (execTrn i body s) :=
  tile_same hk fun _ h => issueTrn_same h (sub_sub (by decide) hM) _ _

theorem execDma_same {M : Nat} {s0 s : State} (hk : Same M s0 s) (hM : 8682209288 ||| M = M) (i : StreamId) (body :
    BitVec 120) :
    OutSame M s0 (execDma i body s) :=
  tile_same hk fun _ h => issueDma_same h (sub_sub (by decide) hM) _ _

theorem execMma_same {M : Nat} {s0 s : State} (hk : Same M s0 s) (hM : 351852323405832 ||| M = M) (i : StreamId) (body
    : BitVec 120) :
    OutSame M s0 (execMma i body s) :=
  tile_same hk fun _ h => issueMma_same h (sub_sub (by decide) hM) _ _

theorem execMmt_same {M : Nat} {s0 s : State} (hk : Same M s0 s) (hM : 351852323405832 ||| M = M) (i : StreamId) (body
    : BitVec 120) :
    OutSame M s0 (execMmt i body s) :=
  tile_same hk fun _ h => issueMma_same h (sub_sub (by decide) hM) _ _

theorem execDrn_same {M : Nat} {s0 s : State} (hk : Same M s0 s) (hM : 8637120520 ||| M = M) (i : StreamId) (body :
    BitVec 120) :
    OutSame M s0 (execDrn i body s) :=
  tile_same hk fun _ h => issueDrn_same h (sub_sub (by decide) hM) _ _

theorem execVopCpy_same {M : Nat} {s0 s : State} (hk : Same M s0 s) (hM : 281484150702088 ||| M = M) (i : StreamId)
    (body : BitVec 114) :
    OutSame M s0 (execVopCpy i body s) :=
  tile_same hk fun _ h => issueVop_same h (sub_sub (by decide) hM) _ _

theorem execVopAdd_same {M : Nat} {s0 s : State} (hk : Same M s0 s) (hM : 281484150702088 ||| M = M) (i : StreamId)
    (body : BitVec 114) :
    OutSame M s0 (execVopAdd i body s) :=
  tile_same hk fun _ h => issueVop_same h (sub_sub (by decide) hM) _ _

theorem execVopSub_same {M : Nat} {s0 s : State} (hk : Same M s0 s) (hM : 281484150702088 ||| M = M) (i : StreamId)
    (body : BitVec 114) :
    OutSame M s0 (execVopSub i body s) :=
  tile_same hk fun _ h => issueVop_same h (sub_sub (by decide) hM) _ _

theorem execVopMul_same {M : Nat} {s0 s : State} (hk : Same M s0 s) (hM : 281484150702088 ||| M = M) (i : StreamId)
    (body : BitVec 114) :
    OutSame M s0 (execVopMul i body s) :=
  tile_same hk fun _ h => issueVop_same h (sub_sub (by decide) hM) _ _

theorem execVopFma_same {M : Nat} {s0 s : State} (hk : Same M s0 s) (hM : 281484150702088 ||| M = M) (i : StreamId)
    (body : BitVec 114) :
    OutSame M s0 (execVopFma i body s) :=
  tile_same hk fun _ h => issueVop_same h (sub_sub (by decide) hM) _ _

theorem execVopDiv_same {M : Nat} {s0 s : State} (hk : Same M s0 s) (hM : 281484150702088 ||| M = M) (i : StreamId)
    (body : BitVec 114) :
    OutSame M s0 (execVopDiv i body s) :=
  tile_same hk fun _ h => issueVop_same h (sub_sub (by decide) hM) _ _

theorem execVopSqrt_same {M : Nat} {s0 s : State} (hk : Same M s0 s) (hM : 281484150702088 ||| M = M) (i : StreamId)
    (body : BitVec 114) :
    OutSame M s0 (execVopSqrt i body s) :=
  tile_same hk fun _ h => issueVop_same h (sub_sub (by decide) hM) _ _

theorem execVopMax_same {M : Nat} {s0 s : State} (hk : Same M s0 s) (hM : 281484150702088 ||| M = M) (i : StreamId)
    (body : BitVec 114) :
    OutSame M s0 (execVopMax i body s) :=
  tile_same hk fun _ h => issueVop_same h (sub_sub (by decide) hM) _ _

theorem execVopMin_same {M : Nat} {s0 s : State} (hk : Same M s0 s) (hM : 281484150702088 ||| M = M) (i : StreamId)
    (body : BitVec 114) :
    OutSame M s0 (execVopMin i body s) :=
  tile_same hk fun _ h => issueVop_same h (sub_sub (by decide) hM) _ _

theorem execVopExp_same {M : Nat} {s0 s : State} (hk : Same M s0 s) (hM : 281484150702088 ||| M = M) (i : StreamId)
    (body : BitVec 114) :
    OutSame M s0 (execVopExp i body s) :=
  tile_same hk fun _ h => issueVop_same h (sub_sub (by decide) hM) _ _

theorem execVopTanh_same {M : Nat} {s0 s : State} (hk : Same M s0 s) (hM : 281484150702088 ||| M = M) (i : StreamId)
    (body : BitVec 114) :
    OutSame M s0 (execVopTanh i body s) :=
  tile_same hk fun _ h => issueVop_same h (sub_sub (by decide) hM) _ _

theorem execVopErf_same {M : Nat} {s0 s : State} (hk : Same M s0 s) (hM : 281484150702088 ||| M = M) (i : StreamId)
    (body : BitVec 114) :
    OutSame M s0 (execVopErf i body s) :=
  tile_same hk fun _ h => issueVop_same h (sub_sub (by decide) hM) _ _

theorem execRsum_same {M : Nat} {s0 s : State} (hk : Same M s0 s) (hM : 281484150702088 ||| M = M) (i : StreamId)
    (body : BitVec 114) :
    OutSame M s0 (execRsum i body s) :=
  tile_same hk fun _ h => issueVop_same h (sub_sub (by decide) hM) _ _

theorem execRmax_same {M : Nat} {s0 s : State} (hk : Same M s0 s) (hM : 281484150702088 ||| M = M) (i : StreamId)
    (body : BitVec 114) :
    OutSame M s0 (execRmax i body s) :=
  tile_same hk fun _ h => issueVop_same h (sub_sub (by decide) hM) _ _

theorem execAdamw_same {M : Nat} {s0 s : State} (hk : Same M s0 s) (hM : 281484150702088 ||| M = M) (i : StreamId)
    (body : BitVec 114) :
    OutSame M s0 (execAdamw i body s) :=
  tile_same hk fun _ h => issueOpt_same h (sub_sub (by decide) hM) _ _

theorem execGsq_same {M : Nat} {s0 s : State} (hk : Same M s0 s) (hM : 281484150702088 ||| M = M) (i : StreamId) (body
    : BitVec 114) :
    OutSame M s0 (execGsq i body s) :=
  tile_same hk fun _ h => issueOpt_same h (sub_sub (by decide) hM) _ _

theorem execAfapply_same {M : Nat} {s0 s : State} (hk : Same M s0 s) (hM : 281484150702088 ||| M = M) (i : StreamId)
    (body : BitVec 114) :
    OutSame M s0 (execAfapply i body s) :=
  tile_same hk fun _ h => issueOpt_same h (sub_sub (by decide) hM) _ _

theorem execGlnInit_same {M : Nat} {s0 s : State} (hk : Same M s0 s) (hM : 9142534152 ||| M = M) (i : StreamId) (body
    : BitVec 118) :
    OutSame M s0 (execGlnInit i body s) :=
  tile_same hk fun _ h => issueGln_same h (sub_sub (by decide) hM) _ _

theorem execGlnAcc_same {M : Nat} {s0 s : State} (hk : Same M s0 s) (hM : 9142534152 ||| M = M) (i : StreamId) (body :
    BitVec 118) :
    OutSame M s0 (execGlnAcc i body s) :=
  tile_same hk fun _ h => issueGln_same h (sub_sub (by decide) hM) _ _

theorem execGlnAdd_same {M : Nat} {s0 s : State} (hk : Same M s0 s) (hM : 9142534152 ||| M = M) (i : StreamId) (body :
    BitVec 118) :
    OutSame M s0 (execGlnAdd i body s) :=
  tile_same hk fun _ h => issueGln_same h (sub_sub (by decide) hM) _ _

theorem execGlnFlush_same {M : Nat} {s0 s : State} (hk : Same M s0 s) (hM : 9142534152 ||| M = M) (i : StreamId) (body
    : BitVec 118) :
    OutSame M s0 (execGlnFlush i body s) :=
  tile_same hk fun _ h => issueGln_same h (sub_sub (by decide) hM) _ _

theorem execSemw_same {M : Nat} {s0 s : State} (hk : Same M s0 s) (hM : 8665432072 ||| M = M) (i : StreamId) (body :
    BitVec 120) :
    OutSame M s0 (execSemw i body s) :=
  tile_same hk fun _ h => issueSemw_same h (sub_sub (by decide) hM) _ _

theorem execSems_same {M : Nat} {s0 s : State} (hk : Same M s0 s) (hM : 8665432072 ||| M = M) (i : StreamId) (body :
    BitVec 120) :
    OutSame M s0 (execSems i body s) :=
  tile_same hk fun _ h => issueSems_same h (sub_sub (by decide) hM) _ _

theorem execBar_same {M : Nat} {s0 s : State} (hk : Same M s0 s) (hM : 8732540936 ||| M = M) (i : StreamId) (body :
    BitVec 120) :
    OutSame M s0 (execBar i body s) :=
  tile_same hk fun _ h => issueBar_same h (sub_sub (by decide) hM) _ _

theorem execChkForce_same {M : Nat} {s0 s : State} (hk : Same M s0 s) (hM : 8603566088 ||| M = M) (i : StreamId) (body
    : BitVec 118) :
    OutSame M s0 (execChkForce i body s) :=
  tile_same hk fun _ h => issueChk_same h (sub_sub (by decide) hM) _ _

theorem execChkRead_same {M : Nat} {s0 s : State} (hk : Same M s0 s) (hM : 8603566088 ||| M = M) (i : StreamId) (body
    : BitVec 118) :
    OutSame M s0 (execChkRead i body s) :=
  tile_same hk fun _ h => issueChk_same h (sub_sub (by decide) hM) _ _

theorem execStep_same {M : Nat} {s0 s : State} (hk : Same M s0 s) (hM : 836990247944 ||| M = M) (i : StreamId) (body :
    BitVec 120) :
    OutSame M s0 (execStep i body s) :=
  tile_same hk fun _ h => issueStep_same h (sub_sub (by decide) hM) _ _

theorem execEnd_same {M : Nat} {s0 s : State} (hk : Same M s0 s) (hM : 77317799944 ||| M = M) (i : StreamId) (body :
    BitVec 120) :
    OutSame M s0 (execEnd i body s) :=
  tile_same hk fun _ h => issueEnd_same h (sub_sub (by decide) hM) _ _

theorem execCol_same {M : Nat} {s0 s : State} (hk : Same M s0 s) (hM : 4204312765450 ||| M = M) (i : StreamId) (body :
    BitVec 120) (host : List Byte) :
    OutSame M s0 (execCol i body host s) :=
  tile_same hk fun _ h => issueCol_same h (sub_sub (by decide) hM) _ _ _

theorem execUnknownOpcode_same {M : Nat} {s0 s : State} (hk : Same M s0 s) (hM : 8598323208 ||| M = M) (i : StreamId)
    (w : InstrWord) :
    OutSame M s0 (execUnknownOpcode i w s) :=
  tile_same hk fun _ h => issueUnknown_same h (sub_sub (by decide) hM) _ _

theorem execAlmanacFlashWrite_same {M : Nat} {s0 s : State} (hk : Same M s0 s) (hM : 21998822490120 ||| M = M) (ok : Bool) :
    OutSame M s0 (execAlmanacFlashWrite ok s) := by
  unfold execAlmanacFlashWrite
  try dsimp only
  repeat' first
    | intro _
    | with_reducible exact hk
    | with_reducible apply outSame_next
    | with_reducible apply State.raiseSrc_same
    | with_reducible apply State.almLose_same
    | with_reducible apply outSame_ite
    | with_reducible apply ite_same
    | with_reducible refine same_snd (by assumption) ?_
    | with_reducible refine same_snd2 (by assumption) ?_
    | with_reducible assumption
    | exact sub_sub (by decide) hM
    | trivial
    | split
    | dsimp only
    | dsimp only [id]
    | with_reducible apply same_u4398046511104
    | with_reducible apply same_u17592186044416
    | with_reducible apply same_u21990232555520

theorem execHarrowTile_same {M : Nat} {s0 s : State} (hk : Same M s0 s) (hM : 123153896439818 ||| M = M) (f : Fin 4)
    (m : Meas) (differs : Bool) (eqA : Bool) (eqB : Bool) :
    OutSame M s0 (execHarrowTile f m differs eqA eqB s) := by
  unfold execHarrowTile
  try dsimp only
  repeat' first
    | intro _
    | with_reducible exact hk
    | with_reducible apply outSame_next
    | with_reducible apply State.harrowRun_same
    | with_reducible apply State.compareTile_same
    | with_reducible apply State.wf_same
    | with_reducible apply outSame_ite
    | with_reducible apply ite_same
    | with_reducible refine same_snd (by assumption) ?_
    | with_reducible refine same_snd2 (by assumption) ?_
    | with_reducible assumption
    | exact sub_sub (by decide) hM
    | trivial
    | split
    | dsimp only
    | dsimp only [id]

theorem execHarrowTimeout_same {M : Nat} {s0 s : State} (hk : Same M s0 s) (hM : 52785148067848 ||| M = M) (f : Fin 4)
    (m : Meas) :
    OutSame M s0 (execHarrowTimeout f m s) := by
  unfold execHarrowTimeout
  try dsimp only
  repeat' first
    | intro _
    | with_reducible exact hk
    | with_reducible apply outSame_next
    | with_reducible apply State.endHarrow_same
    | with_reducible apply outSame_ite
    | with_reducible apply ite_same
    | with_reducible refine same_snd (by assumption) ?_
    | with_reducible refine same_snd2 (by assumption) ?_
    | with_reducible assumption
    | exact sub_sub (by decide) hM
    | trivial
    | split
    | dsimp only
    | dsimp only [id]

theorem execShadowCompare_same {M : Nat} {s0 s : State} (hk : Same M s0 s) (hM : 52785185816586 ||| M = M) (f : Fin 4)
    (i : Nat) (differs : Bool) (m : Meas) :
    OutSame M s0 (execShadowCompare f i differs m s) := by
  unfold execShadowCompare
  try dsimp only
  repeat' first
    | intro _
    | with_reducible exact hk
    | with_reducible apply outSame_next
    | with_reducible apply State.repeatSlot_same
    | with_reducible apply State.shadowMismatch_same
    | with_reducible apply outSame_ite
    | with_reducible apply ite_same
    | with_reducible refine same_snd (by assumption) ?_
    | with_reducible refine same_snd2 (by assumption) ?_
    | with_reducible assumption
    | exact sub_sub (by decide) hM
    | trivial
    | split
    | dsimp only
    | dsimp only [id]
    | with_reducible apply same_u33554432

theorem execFenceDrained_same {M : Nat} {s0 s : State} (hk : Same M s0 s) (hM : 4294967296 ||| M = M) (d : Dom) :
    OutSame M s0 (execFenceDrained d s) := by
  unfold execFenceDrained
  try dsimp only
  repeat' first
    | intro _
    | with_reducible exact hk
    | with_reducible apply outSame_next
    | with_reducible apply State.enterFenced_same
    | with_reducible apply outSame_ite
    | with_reducible apply ite_same
    | with_reducible refine same_snd (by assumption) ?_
    | with_reducible refine same_snd2 (by assumption) ?_
    | with_reducible assumption
    | exact sub_sub (by decide) hM
    | trivial
    | split
    | dsimp only
    | dsimp only [id]

theorem execFenceDrainTimeout_same {M : Nat} {s0 s : State} (hk : Same M s0 s) (hM : 4346331898890 ||| M = M) (d : Dom) :
    OutSame M s0 (execFenceDrainTimeout d s) := by
  unfold execFenceDrainTimeout
  try dsimp only
  repeat' first
    | intro _
    | with_reducible exact hk
    | with_reducible apply outSame_next
    | with_reducible apply State.abandonDom_same
    | with_reducible apply State.enterFenced_same
    | with_reducible apply outSame_ite
    | with_reducible apply ite_same
    | with_reducible refine same_snd (by assumption) ?_
    | with_reducible refine same_snd2 (by assumption) ?_
    | with_reducible assumption
    | exact sub_sub (by decide) hM
    | trivial
    | split
    | dsimp only
    | dsimp only [id]

theorem execResetCtx_same {M : Nat} {s0 s : State} (hk : Same M s0 s) (hM : 145083994842730 ||| M = M) (q : Fin 8192)
    (rings : Rings) :
    OutSame M s0 (execResetCtx q rings s) := by
  unfold execResetCtx
  try dsimp only
  repeat' first
    | intro _
    | with_reducible exact hk
    | with_reducible apply outSame_next
    | with_reducible apply State.resetCtxCmd_same
    | with_reducible apply runCmd_same
    | with_reducible apply thenOk_same
    | with_reducible apply begun_ok_same
    | with_reducible apply begun_stop_same
    | with_reducible apply argsThen_same
    | with_reducible apply begun_wait_same
    | with_reducible apply begun_run_same
    | with_reducible apply begun_ite_same
    | with_reducible apply stepArgs_same
    | with_reducible apply launchBody_same
    | with_reducible apply State.servingOnly_same
    | with_reducible apply State.startCopy_same
    | with_reducible apply hk
    | with_reducible apply outSame_ite
    | with_reducible apply ite_same
    | with_reducible refine same_snd (by assumption) ?_
    | with_reducible refine same_snd2 (by assumption) ?_
    | with_reducible assumption
    | exact sub_sub (by decide) hM
    | trivial
    | split
    | dsimp only
    | dsimp only [id]

theorem execResetPort_same {M : Nat} {s0 s : State} (hk : Same M s0 s) (hM : 2008972099594 ||| M = M) (q : Fin 8192) :
    OutSame M s0 (execResetPort q s) := by
  unfold execResetPort
  try dsimp only
  repeat' first
    | intro _
    | with_reducible exact hk
    | with_reducible apply outSame_next
    | with_reducible apply State.resetPort_same
    | with_reducible apply runCmd_same
    | with_reducible apply thenOk_same
    | with_reducible apply begun_ok_same
    | with_reducible apply begun_stop_same
    | with_reducible apply argsThen_same
    | with_reducible apply begun_wait_same
    | with_reducible apply begun_run_same
    | with_reducible apply begun_ite_same
    | with_reducible apply stepArgs_same
    | with_reducible apply launchBody_same
    | with_reducible apply State.servingOnly_same
    | with_reducible apply State.startCopy_same
    | with_reducible apply hk
    | with_reducible apply outSame_ite
    | with_reducible apply ite_same
    | with_reducible refine same_snd (by assumption) ?_
    | with_reducible refine same_snd2 (by assumption) ?_
    | with_reducible assumption
    | exact sub_sub (by decide) hM
    | trivial
    | split
    | dsimp only
    | dsimp only [id]

theorem execResetField_same {M : Nat} {s0 s : State} (hk : Same M s0 s) (hM : 408966785771050 ||| M = M) (q : Fin
    8192) (rings : Rings) (m : Meas) :
    OutSame M s0 (execResetField q rings m s) := by
  unfold execResetField
  try dsimp only
  repeat' first
    | intro _
    | with_reducible exact hk
    | with_reducible apply outSame_next
    | with_reducible apply State.startReset_same
    | with_reducible apply runCmd_same
    | with_reducible apply begun_ok_same
    | with_reducible apply begun_stop_same
    | with_reducible apply argsThen_same
    | with_reducible apply begun_wait_same
    | with_reducible apply begun_run_same
    | with_reducible apply begun_ite_same
    | with_reducible apply stepArgs_same
    | with_reducible apply launchBody_same
    | with_reducible apply State.servingOnly_same
    | with_reducible apply State.startCopy_same
    | with_reducible apply hk
    | with_reducible apply outSame_ite
    | with_reducible apply ite_same
    | with_reducible refine same_snd (by assumption) ?_
    | with_reducible refine same_snd2 (by assumption) ?_
    | with_reducible assumption
    | exact sub_sub (by decide) hM
    | trivial
    | split
    | dsimp only
    | dsimp only [id]

theorem execLowWordRead_same {M : Nat} {s0 s : State} (hk : Same M s0 s) (hM : 8589934810 ||| M = M) (u : Fin 64) (off
    : BitVec 27) (log : Fin 4) :
    OutSame M s0 (execLowWordRead u off log s) := by
  unfold execLowWordRead
  try dsimp only
  repeat' first
    | intro _
    | with_reducible exact hk
    | with_reducible apply outSame_next
    | with_reducible apply State.busRead_same
    | with_reducible apply outSame_ite
    | with_reducible apply ite_same
    | with_reducible refine same_snd (by assumption) ?_
    | with_reducible refine same_snd2 (by assumption) ?_
    | with_reducible assumption
    | exact sub_sub (by decide) hM
    | trivial
    | split
    | dsimp only
    | dsimp only [id]

theorem execRcRead_same {M : Nat} {s0 s : State} (hk : Same M s0 s) (hM : 8589934810 ||| M = M) (u : Fin 64) (off :
    BitVec 27) (log : Fin 4) :
    OutSame M s0 (execRcRead u off log s) := by
  unfold execRcRead
  try dsimp only
  repeat' first
    | intro _
    | with_reducible exact hk
    | with_reducible apply outSame_next
    | with_reducible apply State.busRead_same
    | with_reducible apply outSame_ite
    | with_reducible apply ite_same
    | with_reducible refine same_snd (by assumption) ?_
    | with_reducible refine same_snd2 (by assumption) ?_
    | with_reducible assumption
    | exact sub_sub (by decide) hM
    | trivial
    | split
    | dsimp only
    | dsimp only [id]

theorem execForecastLatch_same {M : Nat} {s0 s : State} (hk : Same M s0 s) (hM : 8589934810 ||| M = M) (u : Fin 64) :
    OutSame M s0 (execForecastLatch u s) := by
  unfold execForecastLatch
  try dsimp only
  repeat' first
    | intro _
    | with_reducible exact hk
    | with_reducible apply outSame_next
    | with_reducible apply State.busRead_same
    | with_reducible apply outSame_ite
    | with_reducible apply ite_same
    | with_reducible refine same_snd (by assumption) ?_
    | with_reducible refine same_snd2 (by assumption) ?_
    | with_reducible assumption
    | exact sub_sub (by decide) hM
    | trivial
    | split
    | dsimp only
    | dsimp only [id]

theorem execInterferenceLatch_same {M : Nat} {s0 s : State} (hk : Same M s0 s) (hM : 8589934810 ||| M = M) (u : Fin
    64) (c : Fin 64) :
    OutSame M s0 (execInterferenceLatch u c s) := by
  unfold execInterferenceLatch
  try dsimp only
  repeat' first
    | intro _
    | with_reducible exact hk
    | with_reducible apply outSame_next
    | with_reducible apply State.busRead_same
    | with_reducible apply outSame_ite
    | with_reducible apply ite_same
    | with_reducible refine same_snd (by assumption) ?_
    | with_reducible refine same_snd2 (by assumption) ?_
    | with_reducible assumption
    | exact sub_sub (by decide) hM
    | trivial
    | split
    | dsimp only
    | dsimp only [id]

theorem execMisalignedWrite_same {M : Nat} {s0 s : State} (hk : Same M s0 s) (hM : 8589934600 ||| M = M) (u : Fin 64)
    (off : BitVec 27) :
    OutSame M s0 (execMisalignedWrite u off s) := by
  unfold execMisalignedWrite
  try dsimp only
  repeat' first
    | intro _
    | with_reducible exact hk
    | with_reducible apply outSame_next
    | with_reducible apply State.badWrite_same
    | with_reducible apply outSame_ite
    | with_reducible apply ite_same
    | with_reducible refine same_snd (by assumption) ?_
    | with_reducible refine same_snd2 (by assumption) ?_
    | with_reducible assumption
    | exact sub_sub (by decide) hM
    | trivial
    | split
    | dsimp only
    | dsimp only [id]

theorem execRouteEntryCommit_same {M : Nat} {s0 s : State} (hk : Same M s0 s) (hM : 8589934632 ||| M = M) (u : Fin 64)
    (j : Fin 64) (v : Word32) :
    OutSame M s0 (execRouteEntryCommit u j v s) := by
  unfold execRouteEntryCommit
  try dsimp only
  repeat' first
    | intro _
    | with_reducible exact hk
    | with_reducible apply outSame_next
    | with_reducible apply State.routeCommit_same
    | with_reducible apply State.gateWrite_same
    | with_reducible apply outSame_ite
    | with_reducible apply ite_same
    | with_reducible refine same_snd (by assumption) ?_
    | with_reducible refine same_snd2 (by assumption) ?_
    | with_reducible assumption
    | exact sub_sub (by decide) hM
    | trivial
    | split
    | dsimp only
    | dsimp only [id]

theorem execPortEnableWrite_same {M : Nat} {s0 s : State} (hk : Same M s0 s) (hM : 283467841544 ||| M = M) (u : Fin
    64) (p : Fin 8) (v : Word32) :
    OutSame M s0 (execPortEnableWrite u p v s) := by
  unfold execPortEnableWrite
  try dsimp only
  repeat' first
    | intro _
    | with_reducible exact hk
    | with_reducible apply outSame_next
    | with_reducible apply State.gateWrite_same
    | with_reducible apply State.writePortCtrl_same
    | with_reducible apply outSame_ite
    | with_reducible apply ite_same
    | with_reducible refine same_snd (by assumption) ?_
    | with_reducible refine same_snd2 (by assumption) ?_
    | with_reducible assumption
    | exact sub_sub (by decide) hM
    | trivial
    | split
    | dsimp only
    | dsimp only [id]

theorem execPortRetrainWrite_same {M : Nat} {s0 s : State} (hk : Same M s0 s) (hM : 283467841544 ||| M = M) (u : Fin
    64) (p : Fin 8) (v : Word32) :
    OutSame M s0 (execPortRetrainWrite u p v s) := by
  unfold execPortRetrainWrite
  try dsimp only
  repeat' first
    | intro _
    | with_reducible exact hk
    | with_reducible apply outSame_next
    | with_reducible apply State.gateWrite_same
    | with_reducible apply State.writePortCtrl_same
    | with_reducible apply outSame_ite
    | with_reducible apply ite_same
    | with_reducible refine same_snd (by assumption) ?_
    | with_reducible refine same_snd2 (by assumption) ?_
    | with_reducible assumption
    | exact sub_sub (by decide) hM
    | trivial
    | split
    | dsimp only
    | dsimp only [id]

theorem execDevidWrite_same {M : Nat} {s0 s : State} (hk : Same M s0 s) (hM : 283467841544 ||| M = M) (u : Fin 64) (v
    : Word32) :
    OutSame M s0 (execDevidWrite u v s) := by
  unfold execDevidWrite
  try dsimp only
  repeat' first
    | intro _
    | with_reducible exact hk
    | with_reducible apply outSame_next
    | with_reducible apply State.setDevId_same
    | with_reducible apply State.gateWrite_same
    | with_reducible apply outSame_ite
    | with_reducible apply ite_same
    | with_reducible refine same_snd (by assumption) ?_
    | with_reducible refine same_snd2 (by assumption) ?_
    | with_reducible assumption
    | exact sub_sub (by decide) hM
    | trivial
    | split
    | dsimp only
    | dsimp only [id]

theorem execRxallocWrite_same {M : Nat} {s0 s : State} (hk : Same M s0 s) (hM : 283467841544 ||| M = M) (u : Fin 64)
    (p : Fin 8) (c : Fin 4) (v : Word32) :
    OutSame M s0 (execRxallocWrite u p c v s) := by
  unfold execRxallocWrite
  try dsimp only
  repeat' first
    | intro _
    | with_reducible exact hk
    | with_reducible apply outSame_next
    | with_reducible apply State.setRxalloc_same
    | with_reducible apply State.gateWrite_same
    | with_reducible apply outSame_ite
    | with_reducible apply ite_same
    | with_reducible refine same_snd (by assumption) ?_
    | with_reducible refine same_snd2 (by assumption) ?_
    | with_reducible assumption
    | exact sub_sub (by decide) hM
    | trivial
    | split
    | dsimp only
    | dsimp only [id]

theorem execGranuleWrite_same {M : Nat} {s0 s : State} (hk : Same M s0 s) (hM : 8590163976 ||| M = M) (u : Fin 64) (f
    : Fin 4) (g : Fin 480) (v : Word32) :
    OutSame M s0 (execGranuleWrite u f g v s) := by
  unfold execGranuleWrite
  try dsimp only
  repeat' first
    | intro _
    | with_reducible exact hk
    | with_reducible apply outSame_next
    | with_reducible apply State.granWrite_same
    | with_reducible apply State.gateWrite_same
    | with_reducible apply outSame_ite
    | with_reducible apply ite_same
    | with_reducible refine same_snd (by assumption) ?_
    | with_reducible refine same_snd2 (by assumption) ?_
    | with_reducible assumption
    | exact sub_sub (by decide) hM
    | trivial
    | split
    | dsimp only
    | dsimp only [id]

theorem execGranuleClearDone_same {M : Nat} {s0 s : State} (hk : Same M s0 s) (hM : 4204304507914 ||| M = M) (f : Fin
    4) (m : Fin 5) :
    OutSame M s0 (execGranuleClearDone f m s) := by
  unfold execGranuleClearDone
  try dsimp only
  repeat' first
    | intro _
    | with_reducible exact hk
    | with_reducible apply outSame_next
    | with_reducible apply State.wf_same
    | with_reducible apply State.admitAll_same
    | with_reducible apply outSame_ite
    | with_reducible apply ite_same
    | with_reducible refine same_snd (by assumption) ?_
    | with_reducible refine same_snd2 (by assumption) ?_
    | with_reducible assumption
    | exact sub_sub (by decide) hM
    | trivial
    | split
    | dsimp only
    | dsimp only [id]
    | with_reducible apply same_u131072

theorem execSheafShareWrite_same {M : Nat} {s0 s : State} (hk : Same M s0 s) (hM : 8589934600 ||| M = M) (u : Fin 64)
    (f : Fin 4) (c : Fin 64) (v : Word32) :
    OutSame M s0 (execSheafShareWrite u f c v s) := by
  unfold execSheafShareWrite
  try dsimp only
  repeat' first
    | intro _
    | with_reducible exact hk
    | with_reducible apply outSame_next
    | with_reducible apply State.shareWrite_same
    | with_reducible apply State.gateWrite_same
    | with_reducible apply outSame_ite
    | with_reducible apply ite_same
    | with_reducible refine same_snd (by assumption) ?_
    | with_reducible refine same_snd2 (by assumption) ?_
    | with_reducible assumption
    | exact sub_sub (by decide) hM
    | trivial
    | split
    | dsimp only
    | dsimp only [id]

theorem execCtxMemWrite_same {M : Nat} {s0 s : State} (hk : Same M s0 s) (hM : 8590032906 ||| M = M) (u : Fin 64) (c :
    Fin 64) (v : Word32) :
    OutSame M s0 (execCtxMemWrite u c v s) := by
  unfold execCtxMemWrite
  try dsimp only
  repeat' first
    | intro _
    | with_reducible exact hk
    | with_reducible apply outSame_next
    | with_reducible apply State.ctxMemWrite_same
    | with_reducible apply State.gateWrite_same
    | with_reducible apply outSame_ite
    | with_reducible apply ite_same
    | with_reducible refine same_snd (by assumption) ?_
    | with_reducible refine same_snd2 (by assumption) ?_
    | with_reducible assumption
    | exact sub_sub (by decide) hM
    | trivial
    | split
    | dsimp only
    | dsimp only [id]

theorem execHbmRead_same {M : Nat} {s0 s : State} (hk : Same M s0 s) (hM : 8590000392 ||| M = M) (w : Reader) (a :
    BitVec 41) (x : Found) (onDie : Bool) :
    OutSame M s0 (execHbmRead w a x onDie s) := by
  unfold execHbmRead
  try dsimp only
  repeat' first
    | intro _
    | with_reducible exact hk
    | with_reducible apply outSame_next
    | with_reducible apply State.hbmRead_same
    | with_reducible apply State.foundIn_same
    | with_reducible apply outSame_ite
    | with_reducible apply ite_same
    | with_reducible refine same_snd (by assumption) ?_
    | with_reducible refine same_snd2 (by assumption) ?_
    | with_reducible assumption
    | exact sub_sub (by decide) hM
    | trivial
    | split
    | dsimp only
    | dsimp only [id]
    | with_reducible apply same_u256

theorem execHbmPartialWrite_same {M : Nat} {s0 s : State} (hk : Same M s0 s) (hM : 836444979208 ||| M = M) (w :
    Reader) (a : BitVec 41) (bs : List Byte) (x : Found) (onDie : Bool) :
    OutSame M s0 (execHbmPartialWrite w a bs x onDie s) := by
  unfold execHbmPartialWrite
  try dsimp only
  repeat' first
    | intro _
    | with_reducible exact hk
    | with_reducible apply outSame_next
    | with_reducible apply State.hbmWrite_same
    | with_reducible apply State.foundIn_same
    | with_reducible apply outSame_ite
    | with_reducible apply ite_same
    | with_reducible refine same_snd (by assumption) ?_
    | with_reducible refine same_snd2 (by assumption) ?_
    | with_reducible assumption
    | exact sub_sub (by decide) hM
    | trivial
    | split
    | dsimp only
    | dsimp only [id]

theorem execScrubRead_same {M : Nat} {s0 s : State} (hk : Same M s0 s) (hM : 8590262280 ||| M = M) (f : Fin 4) (m :
    Fin 5) (x : Found) (onDie : Bool) :
    OutSame M s0 (execScrubRead f m x onDie s) := by
  unfold execScrubRead
  try dsimp only
  repeat' first
    | intro _
    | with_reducible exact hk
    | with_reducible apply outSame_next
    | with_reducible apply State.scrubNext_same
    | with_reducible apply State.readWord_same
    | with_reducible apply State.foundIn_same
    | with_reducible apply outSame_ite
    | with_reducible apply ite_same
    | with_reducible refine same_snd (by assumption) ?_
    | with_reducible refine same_snd2 (by assumption) ?_
    | with_reducible assumption
    | exact sub_sub (by decide) hM
    | trivial
    | split
    | dsimp only
    | dsimp only [id]

theorem execContextCreate_same {M : Nat} {s0 s : State} (hk : Same M s0 s) (hM : 144946555888746 ||| M = M) (u : Fin
    64) (c : Fin 64) (v : Word32) :
    OutSame M s0 (execContextCreate u c v s) := by
  unfold execContextCreate
  try dsimp only
  repeat' first
    | intro _
    | with_reducible exact hk
    | with_reducible apply outSame_next
    | with_reducible apply State.gateWrite_same
    | with_reducible apply State.bindWrite_same
    | with_reducible apply outSame_ite
    | with_reducible apply ite_same
    | with_reducible refine same_snd (by assumption) ?_
    | with_reducible refine same_snd2 (by assumption) ?_
    | with_reducible assumption
    | exact sub_sub (by decide) hM
    | trivial
    | split
    | dsimp only
    | dsimp only [id]

theorem execContextDestroy_same {M : Nat} {s0 s : State} (hk : Same M s0 s) (hM : 144946555888746 ||| M = M) (u : Fin
    64) (c : Fin 64) (v : Word32) :
    OutSame M s0 (execContextDestroy u c v s) := by
  unfold execContextDestroy
  try dsimp only
  repeat' first
    | intro _
    | with_reducible exact hk
    | with_reducible apply outSame_next
    | with_reducible apply State.gateWrite_same
    | with_reducible apply State.bindWrite_same
    | with_reducible apply outSame_ite
    | with_reducible apply ite_same
    | with_reducible refine same_snd (by assumption) ?_
    | with_reducible refine same_snd2 (by assumption) ?_
    | with_reducible assumption
    | exact sub_sub (by decide) hM
    | trivial
    | split
    | dsimp only
    | dsimp only [id]

theorem execQuotaWrite_same {M : Nat} {s0 s : State} (hk : Same M s0 s) (hM : 8597274634 ||| M = M) (u : Fin 64) (c :
    Fin 64) (f : Fin 4) (k : Quota) (v : Word32) :
    OutSame M s0 (execQuotaWrite u c f k v s) := by
  unfold execQuotaWrite
  try dsimp only
  repeat' first
    | intro _
    | with_reducible exact hk
    | with_reducible apply outSame_next
    | with_reducible apply State.gateWrite_same
    | with_reducible apply State.quotaSet_same
    | with_reducible apply outSame_ite
    | with_reducible apply ite_same
    | with_reducible refine same_snd (by assumption) ?_
    | with_reducible refine same_snd2 (by assumption) ?_
    | with_reducible assumption
    | exact sub_sub (by decide) hM
    | trivial
    | split
    | dsimp only
    | dsimp only [id]

theorem execServingConfigWrite_same {M : Nat} {s0 s : State} (hk : Same M s0 s) (hM : 8589934632 ||| M = M) (u : Fin
    64) (c : Fin 64) (o : BitVec 12) (v : Word32) :
    OutSame M s0 (execServingConfigWrite u c o v s) := by
  unfold execServingConfigWrite
  try dsimp only
  repeat' first
    | intro _
    | with_reducible exact hk
    | with_reducible apply outSame_next
    | with_reducible apply State.servWrite_same
    | with_reducible apply State.gateWrite_same
    | with_reducible apply State.plainWrite_same
    | with_reducible apply outSame_ite
    | with_reducible apply ite_same
    | with_reducible refine same_snd (by assumption) ?_
    | with_reducible refine same_snd2 (by assumption) ?_
    | with_reducible assumption
    | exact sub_sub (by decide) hM
    | trivial
    | split
    | dsimp only
    | dsimp only [id]

theorem execIfCtrlWrite_same {M : Nat} {s0 s : State} (hk : Same M s0 s) (hM : 8589934600 ||| M = M) (u : Fin 64) (c :
    Fin 64) (v : Word32) :
    OutSame M s0 (execIfCtrlWrite u c v s) := by
  unfold execIfCtrlWrite
  try dsimp only
  repeat' first
    | intro _
    | with_reducible exact hk
    | with_reducible apply outSame_next
    | with_reducible apply State.gateWrite_same
    | with_reducible apply State.plainWrite_same
    | with_reducible apply outSame_ite
    | with_reducible apply ite_same
    | with_reducible refine same_snd (by assumption) ?_
    | with_reducible refine same_snd2 (by assumption) ?_
    | with_reducible assumption
    | exact sub_sub (by decide) hM
    | trivial
    | split
    | dsimp only
    | dsimp only [id]

theorem execInterferenceWindowEnd_same {M : Nat} {s0 s : State} (hk : Same M s0 s) (hM : 8 ||| M = M) (c : Fin 64) (w
    : WinCounts) :
    OutSame M s0 (execInterferenceWindowEnd c w s) := by
  unfold execInterferenceWindowEnd
  try dsimp only
  repeat' first
    | intro _
    | with_reducible exact hk
    | with_reducible apply outSame_next
    | with_reducible apply State.wf_same
    | with_reducible apply issue_same
    | with_reducible apply outSame_ite
    | with_reducible apply ite_same
    | with_reducible refine same_snd (by assumption) ?_
    | with_reducible refine same_snd2 (by assumption) ?_
    | with_reducible assumption
    | exact sub_sub (by decide) hM
    | trivial
    | split
    | dsimp only
    | dsimp only [id]

theorem execSlowdownWindowEnd_same {M : Nat} {s0 s : State} (hk : Same M s0 s) (hM : 8 ||| M = M) (l : List (Nat × Nat)) :
    OutSame M s0 (execSlowdownWindowEnd l s) := by
  unfold execSlowdownWindowEnd
  try dsimp only
  repeat' first
    | intro _
    | with_reducible exact hk
    | with_reducible apply outSame_next
    | with_reducible apply State.slowField_same
    | with_reducible apply State.wf_same
    | with_reducible refine foldl_same ?_ ?_
    | with_reducible apply outSame_ite
    | with_reducible apply ite_same
    | with_reducible refine same_snd (by assumption) ?_
    | with_reducible refine same_snd2 (by assumption) ?_
    | with_reducible assumption
    | exact sub_sub (by decide) hM
    | trivial
    | split
    | dsimp only
    | dsimp only [id]

theorem execQueueBind_same {M : Nat} {s0 s : State} (hk : Same M s0 s) (hM : 77309411336 ||| M = M) (u : Fin 64) (v :
    Word32) :
    OutSame M s0 (execQueueBind u v s) := by
  unfold execQueueBind
  try dsimp only
  repeat' first
    | intro _
    | with_reducible exact hk
    | with_reducible apply outSame_next
    | with_reducible apply State.bindQueue_same
    | with_reducible apply State.gateWrite_same
    | with_reducible apply outSame_ite
    | with_reducible apply ite_same
    | with_reducible refine same_snd (by assumption) ?_
    | with_reducible refine same_snd2 (by assumption) ?_
    | with_reducible assumption
    | exact sub_sub (by decide) hM
    | trivial
    | split
    | dsimp only
    | dsimp only [id]

theorem execQueueEnable_same {M : Nat} {s0 s : State} (hk : Same M s0 s) (hM : 3517855039496 ||| M = M) (u : Fin 64)
    (q : Fin 8192) (v : Word32) :
    OutSame M s0 (execQueueEnable u q v s) := by
  unfold execQueueEnable
  try dsimp only
  repeat' first
    | intro _
    | with_reducible exact hk
    | with_reducible apply outSame_next
    | with_reducible apply State.queueCfg_same
    | with_reducible apply State.gateWrite_same
    | with_reducible apply outSame_ite
    | with_reducible apply ite_same
    | with_reducible refine same_snd (by assumption) ?_
    | with_reducible refine same_snd2 (by assumption) ?_
    | with_reducible assumption
    | exact sub_sub (by decide) hM
    | trivial
    | split
    | dsimp only
    | dsimp only [id]

theorem execQueueDisable_same {M : Nat} {s0 s : State} (hk : Same M s0 s) (hM : 3517855039496 ||| M = M) (u : Fin 64)
    (q : Fin 8192) (v : Word32) :
    OutSame M s0 (execQueueDisable u q v s) := by
  unfold execQueueDisable
  try dsimp only
  repeat' first
    | intro _
    | with_reducible exact hk
    | with_reducible apply outSame_next
    | with_reducible apply State.queueCfg_same
    | with_reducible apply State.gateWrite_same
    | with_reducible apply outSame_ite
    | with_reducible apply ite_same
    | with_reducible refine same_snd (by assumption) ?_
    | with_reducible refine same_snd2 (by assumption) ?_
    | with_reducible assumption
    | exact sub_sub (by decide) hM
    | trivial
    | split
    | dsimp only
    | dsimp only [id]

theorem execDoorbell_same {M : Nat} {s0 s : State} (hk : Same M s0 s) (hM : 9126805512 ||| M = M) (u : Fin 64) (q :
    Fin 8192) (v : Word32) :
    OutSame M s0 (execDoorbell u q v s) := by
  unfold execDoorbell
  try dsimp only
  repeat' first
    | intro _
    | with_reducible exact hk
    | with_reducible apply outSame_next
    | with_reducible apply State.gateWrite_same
    | with_reducible apply State.ringBell_same
    | with_reducible apply outSame_ite
    | with_reducible apply ite_same
    | with_reducible refine same_snd (by assumption) ?_
    | with_reducible refine same_snd2 (by assumption) ?_
    | with_reducible assumption
    | exact sub_sub (by decide) hM
    | trivial
    | split
    | dsimp only
    | dsimp only [id]

theorem execRegionValidate_same {M : Nat} {s0 s : State} (hk : Same M s0 s) (hM : 11811160072 ||| M = M) (u : Fin 64)
    (v : Word32) :
    OutSame M s0 (execRegionValidate u v s) := by
  unfold execRegionValidate
  try dsimp only
  repeat' first
    | intro _
    | with_reducible exact hk
    | with_reducible apply outSame_next
    | with_reducible apply State.regionCtl_same
    | with_reducible apply State.gateWrite_same
    | with_reducible apply outSame_ite
    | with_reducible apply ite_same
    | with_reducible refine same_snd (by assumption) ?_
    | with_reducible refine same_snd2 (by assumption) ?_
    | with_reducible assumption
    | exact sub_sub (by decide) hM
    | trivial
    | split
    | dsimp only
    | dsimp only [id]

theorem execRegionInvalidate_same {M : Nat} {s0 s : State} (hk : Same M s0 s) (hM : 11811160072 ||| M = M) (u : Fin
    64) (v : Word32) :
    OutSame M s0 (execRegionInvalidate u v s) := by
  unfold execRegionInvalidate
  try dsimp only
  repeat' first
    | intro _
    | with_reducible exact hk
    | with_reducible apply outSame_next
    | with_reducible apply State.regionCtl_same
    | with_reducible apply State.gateWrite_same
    | with_reducible apply outSame_ite
    | with_reducible apply ite_same
    | with_reducible refine same_snd (by assumption) ?_
    | with_reducible refine same_snd2 (by assumption) ?_
    | with_reducible assumption
    | exact sub_sub (by decide) hM
    | trivial
    | split
    | dsimp only
    | dsimp only [id]

theorem execBar2Read_same {M : Nat} {s0 s : State} (hk : Same M s0 s) (hM : 8589934856 ||| M = M) (u : Fin 64) (off :
    BitVec 41) (n : Fin 4097) :
    OutSame M s0 (execBar2Read u off n s) := by
  unfold execBar2Read
  try dsimp only
  repeat' first
    | intro _
    | with_reducible exact hk
    | with_reducible apply outSame_next
    | with_reducible apply State.accErr_same
    | with_reducible apply State.hbmRead_same
    | with_reducible apply outSame_ite
    | with_reducible apply ite_same
    | with_reducible refine same_snd (by assumption) ?_
    | with_reducible refine same_snd2 (by assumption) ?_
    | with_reducible assumption
    | exact sub_sub (by decide) hM
    | trivial
    | split
    | dsimp only
    | dsimp only [id]
    | with_reducible apply same_u256

theorem execBar2Write_same {M : Nat} {s0 s : State} (hk : Same M s0 s) (hM : 836444979208 ||| M = M) (u : Fin 64) (off
    : BitVec 41) (bs : List Byte) :
    OutSame M s0 (execBar2Write u off bs s) := by
  unfold execBar2Write
  try dsimp only
  repeat' first
    | intro _
    | with_reducible exact hk
    | with_reducible apply outSame_next
    | with_reducible apply State.hbmWrite_same
    | with_reducible apply State.accErr_same
    | with_reducible apply outSame_ite
    | with_reducible apply ite_same
    | with_reducible refine same_snd (by assumption) ?_
    | with_reducible refine same_snd2 (by assumption) ?_
    | with_reducible assumption
    | exact sub_sub (by decide) hM
    | trivial
    | split
    | dsimp only
    | dsimp only [id]

theorem execCollectorTick_same {M : Nat} {s0 s : State} (hk : Same M s0 s) (hM : 1464854442943500 ||| M = M) (faulty :
    List (Nat × Nat)) (l : List (Nat × Meas)) (finds : List ChipFind) :
    OutSame M s0 (execCollectorTick faulty l finds s) := by
  unfold execCollectorTick
  try dsimp only
  repeat' first
    | intro _
    | with_reducible exact hk
    | with_reducible apply outSame_next
    | with_reducible apply State.elapse_same
    | with_reducible apply State.fresh_same
    | with_reducible apply State.chipFound_same
    | with_reducible apply State.dropCond_same
    | with_reducible apply State.setPair_same
    | with_reducible apply State.applySample_same
    | with_reducible apply State.collectorStep_same
    | with_reducible refine foldl_same ?_ ?_
    | with_reducible apply outSame_ite
    | with_reducible apply ite_same
    | with_reducible refine same_snd (by assumption) ?_
    | with_reducible refine same_snd2 (by assumption) ?_
    | with_reducible assumption
    | exact sub_sub (by decide) hM
    | trivial
    | split
    | dsimp only
    | dsimp only [id]
    | with_reducible apply same_u281474976710656

theorem execQuietPeriodExpiry_same {M : Nat} {s0 s : State} (hk : Same M s0 s) (hM : 285873023230988 ||| M = M)  :
    OutSame M s0 (execQuietPeriodExpiry  s) := by
  unfold execQuietPeriodExpiry
  try dsimp only
  repeat' first
    | intro _
    | with_reducible exact hk
    | with_reducible apply outSame_next
    | with_reducible apply State.elapse_same
    | with_reducible apply State.wf_same
    | with_reducible apply State.collectorStep_same
    | with_reducible apply outSame_ite
    | with_reducible apply ite_same
    | with_reducible refine same_snd (by assumption) ?_
    | with_reducible refine same_snd2 (by assumption) ?_
    | with_reducible assumption
    | exact sub_sub (by decide) hM
    | trivial
    | split
    | dsimp only
    | dsimp only [id]

theorem execErrorForce_same {M : Nat} {s0 s : State} (hk : Same M s0 s) (hM : 8589934600 ||| M = M) (u : Fin 64) (a :
    BitVec 27) (v : Word32) :
    OutSame M s0 (execErrorForce u a v s) := by
  unfold execErrorForce
  try dsimp only
  repeat' first
    | intro _
    | with_reducible exact hk
    | with_reducible apply outSame_next
    | with_reducible apply State.forceWrite_same
    | with_reducible apply State.gateWrite_same
    | with_reducible apply outSame_ite
    | with_reducible apply ite_same
    | with_reducible refine same_snd (by assumption) ?_
    | with_reducible refine same_snd2 (by assumption) ?_
    | with_reducible assumption
    | exact sub_sub (by decide) hM
    | trivial
    | split
    | dsimp only
    | dsimp only [id]

theorem execWireTest_same {M : Nat} {s0 s : State} (hk : Same M s0 s) (hM : 8589934600 ||| M = M) (u : Fin 64) (v : Word32) :
    OutSame M s0 (execWireTest u v s) := by
  unfold execWireTest
  try dsimp only
  repeat' first
    | intro _
    | with_reducible exact hk
    | with_reducible apply outSame_next
    | with_reducible apply State.gateWrite_same
    | with_reducible apply State.wireTestWrite_same
    | with_reducible apply outSame_ite
    | with_reducible apply ite_same
    | with_reducible refine same_snd (by assumption) ?_
    | with_reducible refine same_snd2 (by assumption) ?_
    | with_reducible assumption
    | exact sub_sub (by decide) hM
    | trivial
    | split
    | dsimp only
    | dsimp only [id]

theorem execStreamWatchdog_same {M : Nat} {s0 s : State} (hk : Same M s0 s) (hM : 47244640264 ||| M = M) (x : StreamId) :
    OutSame M s0 (execStreamWatchdog x s) := by
  unfold execStreamWatchdog
  try dsimp only
  repeat' first
    | intro _
    | with_reducible exact hk
    | with_reducible apply outSame_next
    | with_reducible apply State.expire_same
    | with_reducible apply outSame_ite
    | with_reducible apply ite_same
    | with_reducible refine same_snd (by assumption) ?_
    | with_reducible refine same_snd2 (by assumption) ?_
    | with_reducible assumption
    | exact sub_sub (by decide) hM
    | trivial
    | split
    | dsimp only
    | dsimp only [id]

theorem execQueueWatchdog_same {M : Nat} {s0 s : State} (hk : Same M s0 s) (hM : 47244640264 ||| M = M) (q : Fin 8192) :
    OutSame M s0 (execQueueWatchdog q s) := by
  unfold execQueueWatchdog
  try dsimp only
  repeat' first
    | intro _
    | with_reducible exact hk
    | with_reducible apply outSame_next
    | with_reducible apply State.fenceQueue_same
    | with_reducible apply State.hangEntry_same
    | with_reducible apply State.blockCause_same
    | with_reducible apply State.raiseFor_same
    | with_reducible apply outSame_ite
    | with_reducible apply ite_same
    | with_reducible refine same_snd (by assumption) ?_
    | with_reducible refine same_snd2 (by assumption) ?_
    | with_reducible assumption
    | exact sub_sub (by decide) hM
    | trivial
    | split
    | dsimp only
    | dsimp only [id]

theorem execDmaWatchdog_same {M : Nat} {s0 s : State} (hk : Same M s0 s) (hM : 47244640264 ||| M = M) (f : Fin 4) (e :
    Fin 8) :
    OutSame M s0 (execDmaWatchdog f e s) := by
  unfold execDmaWatchdog
  try dsimp only
  repeat' first
    | intro _
    | with_reducible exact hk
    | with_reducible apply outSame_next
    | with_reducible apply State.expire_same
    | with_reducible apply outSame_ite
    | with_reducible apply ite_same
    | with_reducible refine same_snd (by assumption) ?_
    | with_reducible refine same_snd2 (by assumption) ?_
    | with_reducible assumption
    | exact sub_sub (by decide) hM
    | trivial
    | split
    | dsimp only
    | dsimp only [id]

theorem execPortWatchdog_same {M : Nat} {s0 s : State} (hk : Same M s0 s) (hM : 322122547208 ||| M = M) (p : Fin 8)
    (who : Option (Fin 64)) :
    OutSame M s0 (execPortWatchdog p who s) := by
  unfold execPortWatchdog
  try dsimp only
  repeat' first
    | intro _
    | with_reducible exact hk
    | with_reducible apply outSame_next
    | with_reducible apply State.raiseSrc_same
    | with_reducible apply State.fencePort_same
    | with_reducible apply State.hangEntry_same
    | with_reducible apply outSame_ite
    | with_reducible apply ite_same
    | with_reducible refine same_snd (by assumption) ?_
    | with_reducible refine same_snd2 (by assumption) ?_
    | with_reducible assumption
    | exact sub_sub (by decide) hM
    | trivial
    | split
    | dsimp only
    | dsimp only [id]

theorem execHarrowGo_same {M : Nat} {s0 s : State} (hk : Same M s0 s) (hM : 52785148067850 ||| M = M) (u : Fin 64) (f
    : Fin 4) (v : Word32) (m : Meas) :
    OutSame M s0 (execHarrowGo u f v m s) := by
  unfold execHarrowGo
  try dsimp only
  repeat' first
    | intro _
    | with_reducible exact hk
    | with_reducible apply outSame_next
    | with_reducible apply State.gateWrite_same
    | with_reducible apply State.harrowCtrl_same
    | with_reducible apply outSame_ite
    | with_reducible apply ite_same
    | with_reducible refine same_snd (by assumption) ?_
    | with_reducible refine same_snd2 (by assumption) ?_
    | with_reducible assumption
    | exact sub_sub (by decide) hM
    | trivial
    | split
    | dsimp only
    | dsimp only [id]

theorem execHarrowStop_same {M : Nat} {s0 s : State} (hk : Same M s0 s) (hM : 52785148067850 ||| M = M) (u : Fin 64)
    (f : Fin 4) (v : Word32) (m : Meas) :
    OutSame M s0 (execHarrowStop u f v m s) := by
  unfold execHarrowStop
  try dsimp only
  repeat' first
    | intro _
    | with_reducible exact hk
    | with_reducible apply outSame_next
    | with_reducible apply State.gateWrite_same
    | with_reducible apply State.harrowCtrl_same
    | with_reducible apply outSame_ite
    | with_reducible apply ite_same
    | with_reducible refine same_snd (by assumption) ?_
    | with_reducible refine same_snd2 (by assumption) ?_
    | with_reducible assumption
    | exact sub_sub (by decide) hM
    | trivial
    | split
    | dsimp only
    | dsimp only [id]

theorem execAlmanacRead_same {M : Nat} {s0 s : State} (hk : Same M s0 s) (hM : 1125908496777224 ||| M = M) (u : Fin
    64) (v : Word32) (got : Option (List Byte)) :
    OutSame M s0 (execAlmanacRead u v got s) := by
  unfold execAlmanacRead
  try dsimp only
  repeat' first
    | intro _
    | with_reducible exact hk
    | with_reducible apply outSame_next
    | with_reducible apply State.selectEntry_same
    | with_reducible apply State.gateWrite_same
    | with_reducible apply outSame_ite
    | with_reducible apply ite_same
    | with_reducible refine same_snd (by assumption) ?_
    | with_reducible refine same_snd2 (by assumption) ?_
    | with_reducible assumption
    | exact sub_sub (by decide) hM
    | trivial
    | split
    | dsimp only
    | dsimp only [id]

theorem execAlmanacClassify_same {M : Nat} {s0 s : State} (hk : Same M s0 s) (hM : 1125908496777224 ||| M = M) (u :
    Fin 64) (v : Word32) :
    OutSame M s0 (execAlmanacClassify u v s) := by
  unfold execAlmanacClassify
  try dsimp only
  repeat' first
    | intro _
    | with_reducible exact hk
    | with_reducible apply outSame_next
    | with_reducible apply State.selectClass_same
    | with_reducible apply State.gateWrite_same
    | with_reducible apply outSame_ite
    | with_reducible apply ite_same
    | with_reducible refine same_snd (by assumption) ?_
    | with_reducible refine same_snd2 (by assumption) ?_
    | with_reducible assumption
    | exact sub_sub (by decide) hM
    | trivial
    | split
    | dsimp only
    | dsimp only [id]

theorem execRetire_same {M : Nat} {s0 s : State} (hk : Same M s0 s) (hM : 334328877809672 ||| M = M) (q : Fin 8192) (m
    : Meas) :
    OutSame M s0 (execRetire q m s) := by
  unfold execRetire
  try dsimp only
  repeat' first
    | intro _
    | with_reducible exact hk
    | with_reducible apply outSame_next
    | with_reducible apply runCmd_same
    | with_reducible apply State.retireFurrow_same
    | with_reducible apply State.furrowEntry_same
    | with_reducible apply thenOk_same
    | with_reducible apply begun_ok_same
    | with_reducible apply begun_stop_same
    | with_reducible apply argsThen_same
    | with_reducible apply begun_wait_same
    | with_reducible apply begun_run_same
    | with_reducible apply begun_ite_same
    | with_reducible apply stepArgs_same
    | with_reducible apply launchBody_same
    | with_reducible apply State.servingOnly_same
    | with_reducible apply State.startCopy_same
    | with_reducible apply hk
    | with_reducible apply outSame_ite
    | with_reducible apply ite_same
    | with_reducible refine same_snd (by assumption) ?_
    | with_reducible refine same_snd2 (by assumption) ?_
    | with_reducible assumption
    | exact sub_sub (by decide) hM
    | trivial
    | split
    | dsimp only
    | dsimp only [id]

theorem execRemap_same {M : Nat} {s0 s : State} (hk : Same M s0 s) (hM : 334328885149704 ||| M = M) (q : Fin 8192) (m
    : Meas) :
    OutSame M s0 (execRemap q m s) := by
  unfold execRemap
  try dsimp only
  repeat' first
    | intro _
    | with_reducible exact hk
    | with_reducible apply outSame_next
    | with_reducible apply State.installSpare_same
    | with_reducible apply runCmd_same
    | with_reducible apply State.retireFurrow_same
    | with_reducible apply State.furrowEntry_same
    | with_reducible apply thenOk_same
    | with_reducible apply begun_ok_same
    | with_reducible apply begun_stop_same
    | with_reducible apply argsThen_same
    | with_reducible apply begun_wait_same
    | with_reducible apply begun_run_same
    | with_reducible apply begun_ite_same
    | with_reducible apply stepArgs_same
    | with_reducible apply launchBody_same
    | with_reducible apply State.servingOnly_same
    | with_reducible apply State.startCopy_same
    | with_reducible apply hk
    | with_reducible apply outSame_ite
    | with_reducible apply ite_same
    | with_reducible refine same_snd (by assumption) ?_
    | with_reducible refine same_snd2 (by assumption) ?_
    | with_reducible assumption
    | exact sub_sub (by decide) hM
    | trivial
    | split
    | dsimp only
    | dsimp only [id]

theorem execExpel_same {M : Nat} {s0 s : State} (hk : Same M s0 s) (hM : 57531086929928 ||| M = M) (q : Fin 8192)
    (host : Option (List Byte)) (sigs : List Verified) (m : Meas) :
    OutSame M s0 (execExpel q host sigs m s) := by
  unfold execExpel
  try dsimp only
  repeat' first
    | intro _
    | with_reducible exact hk
    | with_reducible apply outSame_next
    | with_reducible apply runCmd_same
    | with_reducible apply begun_ok_same
    | with_reducible apply begun_stop_same
    | with_reducible apply argsThen_same
    | with_reducible apply begun_wait_same
    | with_reducible apply begun_run_same
    | with_reducible apply begun_ite_same
    | with_reducible apply stepArgs_same
    | with_reducible apply launchBody_same
    | with_reducible apply State.servingOnly_same
    | with_reducible apply State.startCopy_same
    | with_reducible apply hk
    | with_reducible apply State.signedBegun_same
    | with_reducible apply outSame_ite
    | with_reducible apply ite_same
    | with_reducible refine same_snd (by assumption) ?_
    | with_reducible refine same_snd2 (by assumption) ?_
    | with_reducible assumption
    | exact sub_sub (by decide) hM
    | trivial
    | split
    | dsimp only
    | dsimp only [id]

theorem execRejoin_same {M : Nat} {s0 s : State} (hk : Same M s0 s) (hM : 57531086929928 ||| M = M) (q : Fin 8192)
    (host : Option (List Byte)) (sigs : List Verified) (m : Meas) :
    OutSame M s0 (execRejoin q host sigs m s) := by
  unfold execRejoin
  try dsimp only
  repeat' first
    | intro _
    | with_reducible exact hk
    | with_reducible apply outSame_next
    | with_reducible apply runCmd_same
    | with_reducible apply begun_ok_same
    | with_reducible apply begun_stop_same
    | with_reducible apply argsThen_same
    | with_reducible apply begun_wait_same
    | with_reducible apply begun_run_same
    | with_reducible apply begun_ite_same
    | with_reducible apply stepArgs_same
    | with_reducible apply launchBody_same
    | with_reducible apply State.servingOnly_same
    | with_reducible apply State.startCopy_same
    | with_reducible apply hk
    | with_reducible apply State.signedBegun_same
    | with_reducible apply outSame_ite
    | with_reducible apply ite_same
    | with_reducible refine same_snd (by assumption) ?_
    | with_reducible refine same_snd2 (by assumption) ?_
    | with_reducible assumption
    | exact sub_sub (by decide) hM
    | trivial
    | split
    | dsimp only
    | dsimp only [id]

theorem execManagerKeys_same {M : Nat} {s0 s : State} (hk : Same M s0 s) (hM : 57531086929928 ||| M = M) (q : Fin
    8192) (host : Option (List Byte)) (sigs : List Verified) (flashOk : Bool) (m : Meas) :
    OutSame M s0 (execManagerKeys q host sigs flashOk m s) := by
  unfold execManagerKeys
  try dsimp only
  repeat' first
    | intro _
    | with_reducible exact hk
    | with_reducible apply outSame_next
    | with_reducible apply runCmd_same
    | with_reducible apply begun_ok_same
    | with_reducible apply begun_stop_same
    | with_reducible apply argsThen_same
    | with_reducible apply begun_wait_same
    | with_reducible apply begun_run_same
    | with_reducible apply begun_ite_same
    | with_reducible apply stepArgs_same
    | with_reducible apply launchBody_same
    | with_reducible apply State.servingOnly_same
    | with_reducible apply State.startCopy_same
    | with_reducible apply hk
    | with_reducible apply State.signedBegun_same
    | with_reducible apply outSame_ite
    | with_reducible apply ite_same
    | with_reducible refine same_snd (by assumption) ?_
    | with_reducible refine same_snd2 (by assumption) ?_
    | with_reducible assumption
    | exact sub_sub (by decide) hM
    | trivial
    | split
    | dsimp only
    | dsimp only [id]

theorem execMgmtPacket_same {M : Nat} {s0 s : State} (hk : Same M s0 s) (hM : 198749611622408 ||| M = M) (p : Fin 12)
    (vc : Fin 2) (sigs : List Verified) (flashOk : Bool) (m : Meas) :
    OutSame M s0 (execMgmtPacket p vc sigs flashOk m s) := by
  unfold execMgmtPacket
  try dsimp only
  repeat' first
    | intro _
    | with_reducible exact hk
    | with_reducible apply outSame_next
    | with_reducible apply State.consume_same
    | with_reducible apply State.takeFragment_same
    | with_reducible apply outSame_ite
    | with_reducible apply ite_same
    | with_reducible refine same_snd (by assumption) ?_
    | with_reducible refine same_snd2 (by assumption) ?_
    | with_reducible assumption
    | exact sub_sub (by decide) hM
    | trivial
    | split
    | dsimp only
    | dsimp only [id]

theorem execMgmtReassemblyTimeout_same {M : Nat} {s0 s : State} (hk : Same M s0 s) (hM : 140737488355336 ||| M = M) (i
    : Fin 4) :
    OutSame M s0 (execMgmtReassemblyTimeout i s) := by
  unfold execMgmtReassemblyTimeout
  try dsimp only
  repeat' first
    | intro _
    | with_reducible exact hk
    | with_reducible apply outSame_next
    | with_reducible apply State.bump_same
    | with_reducible apply outSame_ite
    | with_reducible apply ite_same
    | with_reducible refine same_snd (by assumption) ?_
    | with_reducible refine same_snd2 (by assumption) ?_
    | with_reducible assumption
    | exact sub_sub (by decide) hM
    | trivial
    | split
    | dsimp only
    | dsimp only [id]
    | with_reducible apply same_u140737488355328

theorem execPowerSample_same {M : Nat} {s0 s : State} (hk : Same M s0 s) (hM : 1407383473487880 ||| M = M) (x : PowerIn) :
    OutSame M s0 (execPowerSample x s) := by
  unfold execPowerSample
  try dsimp only
  repeat' first
    | intro _
    | with_reducible exact hk
    | with_reducible apply outSame_next
    | with_reducible apply State.applyDuty_same
    | with_reducible apply State.raiseCond_same
    | with_reducible apply State.raiseSrc_same
    | with_reducible apply State.notePower_same
    | with_reducible apply State.dropCond_same
    | with_reducible apply State.addSample_same
    | with_reducible apply State.showPower_same
    | with_reducible apply State.brakeAfter_same
    | with_reducible apply outSame_ite
    | with_reducible apply ite_same
    | with_reducible refine same_snd (by assumption) ?_
    | with_reducible refine same_snd2 (by assumption) ?_
    | with_reducible assumption
    | exact sub_sub (by decide) hM
    | trivial
    | split
    | dsimp only
    | dsimp only [id]

theorem execThrottleEval_same {M : Nat} {s0 s : State} (hk : Same M s0 s) (hM : 1407374883553288 ||| M = M) (draw :
    BitVec 16) (k : Fin 40) :
    OutSame M s0 (execThrottleEval draw k s) := by
  unfold execThrottleEval
  try dsimp only
  repeat' first
    | intro _
    | with_reducible exact hk
    | with_reducible apply outSame_next
    | with_reducible apply State.applyDuty_same
    | with_reducible apply State.notePower_same
    | with_reducible apply State.draw_same
    | with_reducible apply outSame_ite
    | with_reducible apply ite_same
    | with_reducible refine same_snd (by assumption) ?_
    | with_reducible refine same_snd2 (by assumption) ?_
    | with_reducible assumption
    | exact sub_sub (by decide) hM
    | trivial
    | split
    | dsimp only
    | dsimp only [id]
    | with_reducible apply same_u281474976710656

theorem execClockLevelStep_same {M : Nat} {s0 s : State} (hk : Same M s0 s) (hM : 8 ||| M = M) (f : Fin 4) :
    OutSame M s0 (execClockLevelStep f s) := by
  unfold execClockLevelStep
  try dsimp only
  repeat' first
    | intro _
    | with_reducible exact hk
    | with_reducible apply outSame_next
    | with_reducible apply State.wf_same
    | with_reducible apply outSame_ite
    | with_reducible apply ite_same
    | with_reducible refine same_snd (by assumption) ?_
    | with_reducible refine same_snd2 (by assumption) ?_
    | with_reducible assumption
    | exact sub_sub (by decide) hM
    | trivial
    | split
    | dsimp only
    | dsimp only [id]

theorem execPwrBrakeAssert_same {M : Nat} {s0 s : State} (hk : Same M s0 s) (hM : 1407374883553288 ||| M = M)  :
    OutSame M s0 (execPwrBrakeAssert  s) := by
  unfold execPwrBrakeAssert
  try dsimp only
  repeat' first
    | intro _
    | with_reducible exact hk
    | with_reducible apply outSame_next
    | with_reducible apply State.applyDuty_same
    | with_reducible apply State.notePower_same
    | with_reducible apply State.bump_same
    | with_reducible apply outSame_ite
    | with_reducible apply ite_same
    | with_reducible refine same_snd (by assumption) ?_
    | with_reducible refine same_snd2 (by assumption) ?_
    | with_reducible assumption
    | exact sub_sub (by decide) hM
    | trivial
    | split
    | dsimp only
    | dsimp only [id]
    | with_reducible apply same_u281474976710656

theorem execPwrBrakeRelease_same {M : Nat} {s0 s : State} (hk : Same M s0 s) (hM : 1407374883553288 ||| M = M)  :
    OutSame M s0 (execPwrBrakeRelease  s) := by
  unfold execPwrBrakeRelease
  try dsimp only
  repeat' first
    | intro _
    | with_reducible exact hk
    | with_reducible apply outSame_next
    | with_reducible apply State.applyDuty_same
    | with_reducible apply State.notePower_same
    | with_reducible apply outSame_ite
    | with_reducible apply ite_same
    | with_reducible refine same_snd (by assumption) ?_
    | with_reducible refine same_snd2 (by assumption) ?_
    | with_reducible assumption
    | exact sub_sub (by decide) hM
    | trivial
    | split
    | dsimp only
    | dsimp only [id]
    | with_reducible apply same_u281474976710656

theorem execAllotWrite_same {M : Nat} {s0 s : State} (hk : Same M s0 s) (hM : 1407383473487880 ||| M = M) (u : Fin 64)
    (v : Word32) :
    OutSame M s0 (execAllotWrite u v s) := by
  unfold execAllotWrite
  try dsimp only
  repeat' first
    | intro _
    | with_reducible exact hk
    | with_reducible apply outSame_next
    | with_reducible apply State.gateWrite_same
    | with_reducible apply State.setAllot_same
    | with_reducible apply outSame_ite
    | with_reducible apply ite_same
    | with_reducible refine same_snd (by assumption) ?_
    | with_reducible refine same_snd2 (by assumption) ?_
    | with_reducible assumption
    | exact sub_sub (by decide) hM
    | trivial
    | split
    | dsimp only
    | dsimp only [id]

theorem execPlanCapWrite_same {M : Nat} {s0 s : State} (hk : Same M s0 s) (hM : 1407383473487880 ||| M = M) (u : Fin
    64) (v : Word32) :
    OutSame M s0 (execPlanCapWrite u v s) := by
  unfold execPlanCapWrite
  try dsimp only
  repeat' first
    | intro _
    | with_reducible exact hk
    | with_reducible apply outSame_next
    | with_reducible apply State.planCap_same
    | with_reducible apply State.gateWrite_same
    | with_reducible apply outSame_ite
    | with_reducible apply ite_same
    | with_reducible refine same_snd (by assumption) ?_
    | with_reducible refine same_snd2 (by assumption) ?_
    | with_reducible assumption
    | exact sub_sub (by decide) hM
    | trivial
    | split
    | dsimp only
    | dsimp only [id]

theorem execFcAlignWrite_same {M : Nat} {s0 s : State} (hk : Same M s0 s) (hM : 1407383473487880 ||| M = M) (u : Fin
    64) (v : Word32) :
    OutSame M s0 (execFcAlignWrite u v s) := by
  unfold execFcAlignWrite
  try dsimp only
  repeat' first
    | intro _
    | with_reducible exact hk
    | with_reducible apply outSame_next
    | with_reducible apply State.gateWrite_same
    | with_reducible apply State.setAlign_same
    | with_reducible apply outSame_ite
    | with_reducible apply ite_same
    | with_reducible refine same_snd (by assumption) ?_
    | with_reducible refine same_snd2 (by assumption) ?_
    | with_reducible assumption
    | exact sub_sub (by decide) hM
    | trivial
    | split
    | dsimp only
    | dsimp only [id]

theorem execMinuteBoundary_same {M : Nat} {s0 s : State} (hk : Same M s0 s) (hM : 1407374883553288 ||| M = M)  :
    OutSame M s0 (execMinuteBoundary  s) := by
  unfold execMinuteBoundary
  try dsimp only
  repeat' first
    | intro _
    | with_reducible exact hk
    | with_reducible apply outSame_next
    | with_reducible apply State.dueBoundary_same
    | with_reducible apply outSame_ite
    | with_reducible apply ite_same
    | with_reducible refine same_snd (by assumption) ?_
    | with_reducible refine same_snd2 (by assumption) ?_
    | with_reducible assumption
    | exact sub_sub (by decide) hM
    | trivial
    | split
    | dsimp only
    | dsimp only [id]

theorem execThermalControl_same {M : Nat} {s0 s : State} (hk : Same M s0 s) (hM : 281483566645256 ||| M = M) (d : Fin
    24) (t : BitVec 8) (lvl : Fin 33) (tin : BitVec 8) (tout : BitVec 8) :
    OutSame M s0 (execThermalControl d t lvl tin tout s) := by
  unfold execThermalControl
  try dsimp only
  repeat' first
    | intro _
    | with_reducible exact hk
    | with_reducible apply outSame_next
    | with_reducible apply State.wf_same
    | with_reducible apply State.showAbove_same
    | with_reducible apply State.showTemp_same
    | with_reducible apply outSame_ite
    | with_reducible apply ite_same
    | with_reducible refine same_snd (by assumption) ?_
    | with_reducible refine same_snd2 (by assumption) ?_
    | with_reducible assumption
    | exact sub_sub (by decide) hM
    | trivial
    | split
    | dsimp only
    | dsimp only [id]
    | with_reducible apply same_u281474976710656

theorem execThermalTrip_same {M : Nat} {s0 s : State} (hk : Same M s0 s) (hM : 1407383473487880 ||| M = M) (d : Fin
    24) (t : BitVec 8) :
    OutSame M s0 (execThermalTrip d t s) := by
  unfold execThermalTrip
  try dsimp only
  repeat' first
    | intro _
    | with_reducible exact hk
    | with_reducible apply outSame_next
    | with_reducible apply State.applyDuty_same
    | with_reducible apply State.raiseCond_same
    | with_reducible apply State.noteTrip_same
    | with_reducible apply State.notePower_same
    | with_reducible apply State.showTemp_same
    | with_reducible apply outSame_ite
    | with_reducible apply ite_same
    | with_reducible refine same_snd (by assumption) ?_
    | with_reducible refine same_snd2 (by assumption) ?_
    | with_reducible assumption
    | exact sub_sub (by decide) hM
    | trivial
    | split
    | dsimp only
    | dsimp only [id]
    | with_reducible apply same_u281474976710656

theorem execThermalTripEnd_same {M : Nat} {s0 s : State} (hk : Same M s0 s) (hM : 1411579187930122 ||| M = M) (d : Fin
    24) (t : BitVec 8) :
    OutSame M s0 (execThermalTripEnd d t s) := by
  unfold execThermalTripEnd
  try dsimp only
  repeat' first
    | intro _
    | with_reducible exact hk
    | with_reducible apply outSame_next
    | with_reducible apply State.applyDuty_same
    | with_reducible apply State.condIs_same
    | with_reducible apply State.notePower_same
    | with_reducible apply State.showTemp_same
    | with_reducible apply State.admitAll_same
    | with_reducible apply outSame_ite
    | with_reducible apply ite_same
    | with_reducible refine same_snd (by assumption) ?_
    | with_reducible refine same_snd2 (by assumption) ?_
    | with_reducible assumption
    | exact sub_sub (by decide) hM
    | trivial
    | split
    | dsimp only
    | dsimp only [id]
    | with_reducible apply same_u281474976710656

theorem execAnalogTrip_same {M : Nat} {s0 s : State} (hk : Same M s0 s) (hM : 1407374883553288 ||| M = M) (d : Fin 24)
    (on : Bool) :
    OutSame M s0 (execAnalogTrip d on s) := by
  unfold execAnalogTrip
  try dsimp only
  repeat' first
    | intro _
    | with_reducible exact hk
    | with_reducible apply outSame_next
    | with_reducible apply State.noteTrip_same
    | with_reducible apply State.notePower_same
    | with_reducible apply outSame_ite
    | with_reducible apply ite_same
    | with_reducible refine same_snd (by assumption) ?_
    | with_reducible refine same_snd2 (by assumption) ?_
    | with_reducible assumption
    | exact sub_sub (by decide) hM
    | trivial
    | split
    | dsimp only
    | dsimp only [id]
    | with_reducible apply same_u281474976710656

theorem execPllWindow_same {M : Nat} {s0 s : State} (hk : Same M s0 s) (hM : 563237716230152 ||| M = M) (i : Fin 18)
    (n : BitVec 15) (meter : BitVec 15) :
    OutSame M s0 (execPllWindow i n meter s) := by
  unfold execPllWindow
  try dsimp only
  repeat' first
    | intro _
    | with_reducible exact hk
    | with_reducible apply outSame_next
    | with_reducible apply State.pllLost_same
    | with_reducible apply State.wf_same
    | with_reducible apply State.showMeter_same
    | with_reducible apply outSame_ite
    | with_reducible apply ite_same
    | with_reducible refine same_snd (by assumption) ?_
    | with_reducible refine same_snd2 (by assumption) ?_
    | with_reducible assumption
    | exact sub_sub (by decide) hM
    | trivial
    | split
    | dsimp only
    | dsimp only [id]
    | with_reducible apply same_u562949953421312

theorem execPllLockTimeout_same {M : Nat} {s0 s : State} (hk : Same M s0 s) (hM : 287762808840 ||| M = M) (i : Fin 18) :
    OutSame M s0 (execPllLockTimeout i s) := by
  unfold execPllLockTimeout
  try dsimp only
  repeat' first
    | intro _
    | with_reducible exact hk
    | with_reducible apply outSame_next
    | with_reducible apply State.pllLost_same
    | with_reducible apply outSame_ite
    | with_reducible apply ite_same
    | with_reducible refine same_snd (by assumption) ?_
    | with_reducible refine same_snd2 (by assumption) ?_
    | with_reducible assumption
    | exact sub_sub (by decide) hM
    | trivial
    | split
    | dsimp only
    | dsimp only [id]

theorem execClkGateWrite_same {M : Nat} {s0 s : State} (hk : Same M s0 s) (hM : 4204304376842 ||| M = M) (u : Fin 64)
    (a : BitVec 27) (v : Word32) :
    OutSame M s0 (execClkGateWrite u a v s) := by
  unfold execClkGateWrite
  try dsimp only
  repeat' first
    | intro _
    | with_reducible exact hk
    | with_reducible apply outSame_next
    | with_reducible apply State.clkGate_same
    | with_reducible apply State.gateWrite_same
    | with_reducible apply outSame_ite
    | with_reducible apply ite_same
    | with_reducible refine same_snd (by assumption) ?_
    | with_reducible refine same_snd2 (by assumption) ?_
    | with_reducible assumption
    | exact sub_sub (by decide) hM
    | trivial
    | split
    | dsimp only
    | dsimp only [id]

theorem execClkOutWrite_same {M : Nat} {s0 s : State} (hk : Same M s0 s) (hM : 8589934600 ||| M = M) (u : Fin 64) (v :
    Word32) :
    OutSame M s0 (execClkOutWrite u v s) := by
  unfold execClkOutWrite
  try dsimp only
  repeat' first
    | intro _
    | with_reducible exact hk
    | with_reducible apply outSame_next
    | with_reducible apply State.clkOut_same
    | with_reducible apply State.gateWrite_same
    | with_reducible apply outSame_ite
    | with_reducible apply ite_same
    | with_reducible refine same_snd (by assumption) ?_
    | with_reducible refine same_snd2 (by assumption) ?_
    | with_reducible assumption
    | exact sub_sub (by decide) hM
    | trivial
    | split
    | dsimp only
    | dsimp only [id]

theorem execArraySleep_same {M : Nat} {s0 s : State} (hk : Same M s0 s) (hM : 281474976710656 ||| M = M) (f : Fin 4)
    (n : Fin 26) (j : Fin 4) :
    OutSame M s0 (execArraySleep f n j s) := by
  unfold execArraySleep
  try dsimp only
  repeat' first
    | intro _
    | with_reducible exact hk
    | with_reducible apply outSame_next
    | with_reducible apply outSame_ite
    | with_reducible apply ite_same
    | with_reducible refine same_snd (by assumption) ?_
    | with_reducible refine same_snd2 (by assumption) ?_
    | with_reducible assumption
    | exact sub_sub (by decide) hM
    | trivial
    | split
    | dsimp only
    | dsimp only [id]
    | with_reducible apply same_u281474976710656

theorem execFurrowSleep_same {M : Nat} {s0 s : State} (hk : Same M s0 s) (hM : 281474976710656 ||| M = M) (f : Fin 4)
    (n : Fin 26) :
    OutSame M s0 (execFurrowSleep f n s) := by
  unfold execFurrowSleep
  try dsimp only
  repeat' first
    | intro _
    | with_reducible exact hk
    | with_reducible apply outSame_next
    | with_reducible apply outSame_ite
    | with_reducible apply ite_same
    | with_reducible refine same_snd (by assumption) ?_
    | with_reducible refine same_snd2 (by assumption) ?_
    | with_reducible assumption
    | exact sub_sub (by decide) hM
    | trivial
    | split
    | dsimp only
    | dsimp only [id]
    | with_reducible apply same_u281474976710656

theorem execFieldSleep_same {M : Nat} {s0 s : State} (hk : Same M s0 s) (hM : 8 ||| M = M) (f : Fin 4) :
    OutSame M s0 (execFieldSleep f s) := by
  unfold execFieldSleep
  try dsimp only
  repeat' first
    | intro _
    | with_reducible exact hk
    | with_reducible apply outSame_next
    | with_reducible apply State.stopPll_same
    | with_reducible apply State.wf_same
    | with_reducible refine foldl_same ?_ ?_
    | with_reducible apply outSame_ite
    | with_reducible apply ite_same
    | with_reducible refine same_snd (by assumption) ?_
    | with_reducible refine same_snd2 (by assumption) ?_
    | with_reducible assumption
    | exact sub_sub (by decide) hM
    | trivial
    | split
    | dsimp only
    | dsimp only [id]

theorem execFurrowWake_same {M : Nat} {s0 s : State} (hk : Same M s0 s) (hM : 281474976710656 ||| M = M) (f : Fin 4)
    (n : Fin 26) :
    OutSame M s0 (execFurrowWake f n s) := by
  unfold execFurrowWake
  try dsimp only
  repeat' first
    | intro _
    | with_reducible exact hk
    | with_reducible apply outSame_next
    | with_reducible apply outSame_ite
    | with_reducible apply ite_same
    | with_reducible refine same_snd (by assumption) ?_
    | with_reducible refine same_snd2 (by assumption) ?_
    | with_reducible assumption
    | exact sub_sub (by decide) hM
    | trivial
    | split
    | dsimp only
    | dsimp only [id]
    | with_reducible apply same_u281474976710656

theorem execFieldWake_same {M : Nat} {s0 s : State} (hk : Same M s0 s) (hM : 285821483197962 ||| M = M) (f : Fin 4)
    (failing : List (Fin 5)) (rings : Rings) :
    OutSame M s0 (execFieldWake f failing rings s) := by
  unfold execFieldWake
  try dsimp only
  repeat' first
    | intro _
    | with_reducible exact hk
    | with_reducible apply outSame_next
    | with_reducible apply State.fieldUp_same
    | with_reducible apply State.startPll_same
    | with_reducible apply State.endReset_same
    | with_reducible apply State.failReset_same
    | with_reducible apply State.wf_same
    | with_reducible apply State.admitAll_same
    | with_reducible refine foldl_same ?_ ?_
    | with_reducible apply outSame_ite
    | with_reducible apply ite_same
    | with_reducible refine same_snd (by assumption) ?_
    | with_reducible refine same_snd2 (by assumption) ?_
    | with_reducible assumption
    | exact sub_sub (by decide) hM
    | trivial
    | split
    | dsimp only
    | dsimp only [id]

theorem execUpdateBegin_same {M : Nat} {s0 s : State} (hk : Same M s0 s) (hM : 145144124801034 ||| M = M) (u : Fin 64)
    (v : Word32) (sigs : List Verified) (flashOk : Bool) :
    OutSame M s0 (execUpdateBegin u v sigs flashOk s) := by
  unfold execUpdateBegin
  try dsimp only
  repeat' first
    | intro _
    | with_reducible exact hk
    | with_reducible apply outSame_next
    | with_reducible apply State.updCtrl_same
    | with_reducible apply State.gateWrite_same
    | with_reducible apply outSame_ite
    | with_reducible apply ite_same
    | with_reducible refine same_snd (by assumption) ?_
    | with_reducible refine same_snd2 (by assumption) ?_
    | with_reducible assumption
    | exact sub_sub (by decide) hM
    | trivial
    | split
    | dsimp only
    | dsimp only [id]

theorem execUpdateData_same {M : Nat} {s0 s : State} (hk : Same M s0 s) (hM : 145144124801034 ||| M = M) (u : Fin 64)
    (v : Word32) :
    OutSame M s0 (execUpdateData u v s) := by
  unfold execUpdateData
  try dsimp only
  repeat' first
    | intro _
    | with_reducible exact hk
    | with_reducible apply outSame_next
    | with_reducible apply State.updCtrl_same
    | with_reducible apply State.gateWrite_same
    | with_reducible apply outSame_ite
    | with_reducible apply ite_same
    | with_reducible refine same_snd (by assumption) ?_
    | with_reducible refine same_snd2 (by assumption) ?_
    | with_reducible assumption
    | exact sub_sub (by decide) hM
    | trivial
    | split
    | dsimp only
    | dsimp only [id]

theorem execUpdateFinish_same {M : Nat} {s0 s : State} (hk : Same M s0 s) (hM : 145144124801034 ||| M = M) (u : Fin
    64) (v : Word32) (flashOk : Bool) :
    OutSame M s0 (execUpdateFinish u v flashOk s) := by
  unfold execUpdateFinish
  try dsimp only
  repeat' first
    | intro _
    | with_reducible exact hk
    | with_reducible apply outSame_next
    | with_reducible apply State.updCtrl_same
    | with_reducible apply State.gateWrite_same
    | with_reducible apply outSame_ite
    | with_reducible apply ite_same
    | with_reducible refine same_snd (by assumption) ?_
    | with_reducible refine same_snd2 (by assumption) ?_
    | with_reducible assumption
    | exact sub_sub (by decide) hM
    | trivial
    | split
    | dsimp only
    | dsimp only [id]

theorem execUpdateCancel_same {M : Nat} {s0 s : State} (hk : Same M s0 s) (hM : 145144124801034 ||| M = M) (u : Fin
    64) (v : Word32) :
    OutSame M s0 (execUpdateCancel u v s) := by
  unfold execUpdateCancel
  try dsimp only
  repeat' first
    | intro _
    | with_reducible exact hk
    | with_reducible apply outSame_next
    | with_reducible apply State.updCtrl_same
    | with_reducible apply State.gateWrite_same
    | with_reducible apply outSame_ite
    | with_reducible apply ite_same
    | with_reducible refine same_snd (by assumption) ?_
    | with_reducible refine same_snd2 (by assumption) ?_
    | with_reducible assumption
    | exact sub_sub (by decide) hM
    | trivial
    | split
    | dsimp only
    | dsimp only [id]

theorem execSvnCommit_same {M : Nat} {s0 s : State} (hk : Same M s0 s) (hM : 8589934600 ||| M = M) (u : Fin 64) (v :
    Word32) :
    OutSame M s0 (execSvnCommit u v s) := by
  unfold execSvnCommit
  try dsimp only
  repeat' first
    | intro _
    | with_reducible exact hk
    | with_reducible apply outSame_next
    | with_reducible apply State.secCtrl_same
    | with_reducible apply State.gateWrite_same
    | with_reducible apply outSame_ite
    | with_reducible apply ite_same
    | with_reducible refine same_snd (by assumption) ?_
    | with_reducible refine same_snd2 (by assumption) ?_
    | with_reducible assumption
    | exact sub_sub (by decide) hM
    | trivial
    | split
    | dsimp only
    | dsimp only [id]

theorem execFuseBurnDone_same {M : Nat} {s0 s : State} (hk : Same M s0 s) (hM : 8804682956808 ||| M = M) (ok : Bool) :
    OutSame M s0 (execFuseBurnDone ok s) := by
  unfold execFuseBurnDone
  try dsimp only
  repeat' first
    | intro _
    | with_reducible exact hk
    | with_reducible apply outSame_next
    | with_reducible apply State.raiseSrc_same
    | with_reducible apply State.wf_same
    | with_reducible apply outSame_ite
    | with_reducible apply ite_same
    | with_reducible refine same_snd (by assumption) ?_
    | with_reducible refine same_snd2 (by assumption) ?_
    | with_reducible assumption
    | exact sub_sub (by decide) hM
    | trivial
    | split
    | dsimp only
    | dsimp only [id]
    | with_reducible apply same_u8796093022208

theorem execKeyLoad_same {M : Nat} {s0 s : State} (hk : Same M s0 s) (hM : 140746078388234 ||| M = M) (u : Fin 64) (v
    : Word32) :
    OutSame M s0 (execKeyLoad u v s) := by
  unfold execKeyLoad
  try dsimp only
  repeat' first
    | intro _
    | with_reducible exact hk
    | with_reducible apply outSame_next
    | with_reducible apply State.keyCmd_same
    | with_reducible apply State.gateWrite_same
    | with_reducible apply outSame_ite
    | with_reducible apply ite_same
    | with_reducible refine same_snd (by assumption) ?_
    | with_reducible refine same_snd2 (by assumption) ?_
    | with_reducible assumption
    | exact sub_sub (by decide) hM
    | trivial
    | split
    | dsimp only
    | dsimp only [id]

theorem execKeyClear_same {M : Nat} {s0 s : State} (hk : Same M s0 s) (hM : 140746078388234 ||| M = M) (u : Fin 64) (v
    : Word32) :
    OutSame M s0 (execKeyClear u v s) := by
  unfold execKeyClear
  try dsimp only
  repeat' first
    | intro _
    | with_reducible exact hk
    | with_reducible apply outSame_next
    | with_reducible apply State.keyCmd_same
    | with_reducible apply State.gateWrite_same
    | with_reducible apply outSame_ite
    | with_reducible apply ite_same
    | with_reducible refine same_snd (by assumption) ?_
    | with_reducible refine same_snd2 (by assumption) ?_
    | with_reducible assumption
    | exact sub_sub (by decide) hM
    | trivial
    | split
    | dsimp only
    | dsimp only [id]

theorem execDebugToken_same {M : Nat} {s0 s : State} (hk : Same M s0 s) (hM : 140746078289930 ||| M = M) (u : Fin 64)
    (v : Word32) (sigs : List Verified) :
    OutSame M s0 (execDebugToken u v sigs s) := by
  unfold execDebugToken
  try dsimp only
  repeat' first
    | intro _
    | with_reducible exact hk
    | with_reducible apply outSame_next
    | with_reducible apply State.dbgCtrl_same
    | with_reducible apply State.gateWrite_same
    | with_reducible apply outSame_ite
    | with_reducible apply ite_same
    | with_reducible refine same_snd (by assumption) ?_
    | with_reducible refine same_snd2 (by assumption) ?_
    | with_reducible assumption
    | exact sub_sub (by decide) hM
    | trivial
    | split
    | dsimp only
    | dsimp only [id]

theorem execJtagAccess_same {M : Nat} {s0 s : State} (hk : Same M s0 s) (hM : 2251799813685250 ||| M = M) (op : TapOp) :
    OutSame M s0 (execJtagAccess op s) := by
  unfold execJtagAccess
  try dsimp only
  repeat' first
    | intro _
    | with_reducible exact hk
    | with_reducible apply outSame_next
    | with_reducible apply State.fresh_same
    | with_reducible apply outSame_ite
    | with_reducible apply ite_same
    | with_reducible refine same_snd (by assumption) ?_
    | with_reducible refine same_snd2 (by assumption) ?_
    | with_reducible assumption
    | exact sub_sub (by decide) hM
    | trivial
    | split
    | dsimp only
    | dsimp only [id]
    | with_reducible apply same_u2251799813685248

theorem execDoeAttest_same {M : Nat} {s0 s : State} (hk : Same M s0 s) (hM : 140737488355330 ||| M = M) (req : DoeRequest) :
    OutSame M s0 (execDoeAttest req s) := by
  unfold execDoeAttest
  try dsimp only
  repeat' first
    | intro _
    | with_reducible exact hk
    | with_reducible apply outSame_next
    | with_reducible apply State.doeAnswer_same
    | with_reducible apply State.attest_same
    | with_reducible apply State.discovery_same
    | with_reducible apply outSame_ite
    | with_reducible apply ite_same
    | with_reducible refine same_snd (by assumption) ?_
    | with_reducible refine same_snd2 (by assumption) ?_
    | with_reducible assumption
    | exact sub_sub (by decide) hM
    | trivial
    | split
    | dsimp only
    | dsimp only [id]

theorem execIdeKeyMessage_same {M : Nat} {s0 s : State} (hk : Same M s0 s) (hM : 140737488355338 ||| M = M) (req :
    List Byte) :
    OutSame M s0 (execIdeKeyMessage req s) := by
  unfold execIdeKeyMessage
  try dsimp only
  repeat' first
    | intro _
    | with_reducible exact hk
    | with_reducible apply outSame_next
    | with_reducible apply State.ideDerive_same
    | with_reducible apply State.ideStart_same
    | with_reducible apply State.ideUse_same
    | with_reducible apply State.ideFail_same
    | with_reducible apply outSame_ite
    | with_reducible apply ite_same
    | with_reducible refine same_snd (by assumption) ?_
    | with_reducible refine same_snd2 (by assumption) ?_
    | with_reducible assumption
    | exact sub_sub (by decide) hM
    | trivial
    | split
    | dsimp only
    | dsimp only [id]

theorem execDeviceReset_same {M : Nat} {s0 s : State} (hk : Same M s0 s) (hM : 72044399898393086 ||| M = M) (why :
    ResetCause) :
    OutSame M s0 (execDeviceReset why s) := by
  unfold execDeviceReset
  try dsimp only
  repeat' first
    | intro _
    | with_reducible exact hk
    | with_reducible apply outSame_next
    | with_reducible apply State.deviceReset_same
    | with_reducible apply outSame_ite
    | with_reducible apply ite_same
    | with_reducible refine same_snd (by assumption) ?_
    | with_reducible refine same_snd2 (by assumption) ?_
    | with_reducible assumption
    | exact sub_sub (by decide) hM
    | trivial
    | split
    | dsimp only
    | dsimp only [id]
    | with_reducible apply same_u2251799813685248

theorem execPowerLoss_same {M : Nat} {s0 s : State} (hk : Same M s0 s) (hM : 72044399898393086 ||| M = M) (why : LossCause) :
    OutSame M s0 (execPowerLoss why s) := by
  have h := State.deviceReset_same hk (sub_sub (by decide) hM)
  unfold execPowerLoss
  dsimp only
  split
  · exact same_u2251799813685248 h (sub_sub (by decide) hM)
  · exact same_u2533274790395904 h (sub_sub (by decide) hM)

theorem execConverterStart_same {M : Nat} {s0 s : State} (hk : Same M s0 s) (hM : 2251799813685248 ||| M = M)  :
    OutSame M s0 (execConverterStart  s) := by
  unfold execConverterStart
  try dsimp only
  repeat' first
    | intro _
    | with_reducible exact hk
    | with_reducible apply outSame_next
    | with_reducible apply outSame_ite
    | with_reducible apply ite_same
    | with_reducible refine same_snd (by assumption) ?_
    | with_reducible refine same_snd2 (by assumption) ?_
    | with_reducible assumption
    | exact sub_sub (by decide) hM
    | trivial
    | split
    | dsimp only
    | dsimp only [id]
    | with_reducible apply same_u2251799813685248

theorem execRegulatorFailure_same {M : Nat} {s0 s : State} (hk : Same M s0 s) (hM : 287762818056 ||| M = M)  :
    OutSame M s0 (execRegulatorFailure  s) := by
  unfold execRegulatorFailure
  try dsimp only
  repeat' first
    | intro _
    | with_reducible exact hk
    | with_reducible apply outSame_next
    | with_reducible apply State.raiseFatal_same
    | with_reducible apply outSame_ite
    | with_reducible apply ite_same
    | with_reducible refine same_snd (by assumption) ?_
    | with_reducible refine same_snd2 (by assumption) ?_
    | with_reducible assumption
    | exact sub_sub (by decide) hM
    | trivial
    | split
    | dsimp only
    | dsimp only [id]

theorem execControlProcessorWatchdog_same {M : Nat} {s0 s : State} (hk : Same M s0 s) (hM : 287762818056 ||| M = M)  :
    OutSame M s0 (execControlProcessorWatchdog  s) := by
  unfold execControlProcessorWatchdog
  try dsimp only
  repeat' first
    | intro _
    | with_reducible exact hk
    | with_reducible apply outSame_next
    | with_reducible apply State.raiseFatal_same
    | with_reducible apply outSame_ite
    | with_reducible apply ite_same
    | with_reducible refine same_snd (by assumption) ?_
    | with_reducible refine same_snd2 (by assumption) ?_
    | with_reducible assumption
    | exact sub_sub (by decide) hM
    | trivial
    | split
    | dsimp only
    | dsimp only [id]

theorem execBootStart_same {M : Nat} {s0 s : State} (hk : Same M s0 s) (hM : 2251799813685256 ||| M = M) (slot : BitVec 5) :
    OutSame M s0 (execBootStart slot s) := by
  unfold execBootStart
  try dsimp only
  repeat' first
    | intro _
    | with_reducible exact hk
    | with_reducible apply outSame_next
    | with_reducible apply State.leaveStart_same
    | with_reducible apply State.wf_same
    | with_reducible apply outSame_ite
    | with_reducible apply ite_same
    | with_reducible refine same_snd (by assumption) ?_
    | with_reducible refine same_snd2 (by assumption) ?_
    | with_reducible assumption
    | exact sub_sub (by decide) hM
    | trivial
    | split
    | dsimp only
    | dsimp only [id]
    | with_reducible apply same_u2251799813685248

theorem execMonitorWindow_same {M : Nat} {s0 s : State} (hk : Same M s0 s) (hM : 703975204594698 ||| M = M) (n :
    BitVec 16) (ao : BitVec 15) (osc : BitVec 15) :
    OutSame M s0 (execMonitorWindow n ao osc s) := by
  unfold execMonitorWindow
  try dsimp only
  repeat' first
    | intro _
    | with_reducible exact hk
    | with_reducible apply outSame_next
    | with_reducible apply State.checkFuses_same
    | with_reducible apply State.leaveStart_same
    | with_reducible apply State.startPll_same
    | with_reducible apply State.wf_same
    | with_reducible apply State.bump_same
    | with_reducible apply State.showMeter_same
    | with_reducible apply State.fallback_same
    | with_reducible apply outSame_ite
    | with_reducible apply ite_same
    | with_reducible refine same_snd (by assumption) ?_
    | with_reducible refine same_snd2 (by assumption) ?_
    | with_reducible assumption
    | exact sub_sub (by decide) hM
    | trivial
    | split
    | dsimp only
    | dsimp only [id]
    | with_reducible apply same_u562949953421312

theorem execBootVerify_same {M : Nat} {s0 s : State} (hk : Same M s0 s) (hM : 145135534866440 ||| M = M) (sigs : List
    Verified) (flashOk : Bool) :
    OutSame M s0 (execBootVerify sigs flashOk s) := by
  unfold execBootVerify
  try dsimp only
  repeat' first
    | intro _
    | with_reducible exact hk
    | with_reducible apply outSame_next
    | with_reducible apply State.wf_same
    | with_reducible apply State.initFirmware_same
    | with_reducible apply outSame_ite
    | with_reducible apply ite_same
    | with_reducible refine same_snd (by assumption) ?_
    | with_reducible refine same_snd2 (by assumption) ?_
    | with_reducible assumption
    | exact sub_sub (by decide) hM
    | trivial
    | split
    | dsimp only
    | dsimp only [id]

theorem execBootReady_same {M : Nat} {s0 s : State} (hk : Same M s0 s) (hM : 1125899906842632 ||| M = M)  :
    OutSame M s0 (execBootReady  s) := by
  unfold execBootReady
  try dsimp only
  repeat' first
    | intro _
    | with_reducible exact hk
    | with_reducible apply outSame_next
    | with_reducible apply State.noteTrip_same
    | with_reducible apply State.wf_same
    | with_reducible apply outSame_ite
    | with_reducible apply ite_same
    | with_reducible refine same_snd (by assumption) ?_
    | with_reducible refine same_snd2 (by assumption) ?_
    | with_reducible assumption
    | exact sub_sub (by decide) hM
    | trivial
    | split
    | dsimp only
    | dsimp only [id]
    | with_reducible apply same_u1125899906842624

theorem execHostLinkTrain_same {M : Nat} {s0 s : State} (hk : Same M s0 s) (hM : 8 ||| M = M) (speed : Fin 6) (w :
    LinkWidth) (flit : Bool) :
    OutSame M s0 (execHostLinkTrain speed w flit s) := by
  unfold execHostLinkTrain
  try dsimp only
  repeat' first
    | intro _
    | with_reducible exact hk
    | with_reducible apply outSame_next
    | with_reducible apply State.setReg_same
    | with_reducible apply State.wf_same
    | with_reducible apply outSame_ite
    | with_reducible apply ite_same
    | with_reducible refine same_snd (by assumption) ?_
    | with_reducible refine same_snd2 (by assumption) ?_
    | with_reducible assumption
    | exact sub_sub (by decide) hM
    | trivial
    | split
    | dsimp only
    | dsimp only [id]

theorem execIdeIntegrityFailure_same {M : Nat} {s0 s : State} (hk : Same M s0 s) (hM : 140746078289928 ||| M = M)  :
    OutSame M s0 (execIdeIntegrityFailure  s) := by
  unfold execIdeIntegrityFailure
  try dsimp only
  repeat' first
    | intro _
    | with_reducible exact hk
    | with_reducible apply outSame_next
    | with_reducible apply State.raiseSrc_same
    | with_reducible apply outSame_ite
    | with_reducible apply ite_same
    | with_reducible refine same_snd (by assumption) ?_
    | with_reducible refine same_snd2 (by assumption) ?_
    | with_reducible assumption
    | exact sub_sub (by decide) hM
    | trivial
    | split
    | dsimp only
    | dsimp only [id]
    | with_reducible apply same_u140737488355328

theorem execMsixUnmask_same {M : Nat} {s0 s : State} (hk : Same M s0 s) (hM : 13312 ||| M = M) (u : Fin 64) (vec : Fin
    2048) :
    OutSame M s0 (execMsixUnmask u vec s) := by
  unfold execMsixUnmask
  try dsimp only
  repeat' first
    | intro _
    | with_reducible exact hk
    | with_reducible apply outSame_next
    | with_reducible apply State.releaseVec_same
    | with_reducible apply outSame_ite
    | with_reducible apply ite_same
    | with_reducible refine same_snd (by assumption) ?_
    | with_reducible refine same_snd2 (by assumption) ?_
    | with_reducible assumption
    | exact sub_sub (by decide) hM
    | trivial
    | split
    | dsimp only
    | dsimp only [id]
    | with_reducible apply same_u4096

theorem execFunctionLevelReset_same {M : Nat} {s0 s : State} (hk : Same M s0 s) (hM : 145083994864746 ||| M = M) (u :
    Fin 64) :
    OutSame M s0 (execFunctionLevelReset u s) := by
  unfold execFunctionLevelReset
  try dsimp only
  repeat' first
    | intro _
    | with_reducible exact hk
    | with_reducible apply outSame_next
    | with_reducible apply State.resetFunction_same
    | with_reducible apply outSame_ite
    | with_reducible apply ite_same
    | with_reducible refine same_snd (by assumption) ?_
    | with_reducible refine same_snd2 (by assumption) ?_
    | with_reducible assumption
    | exact sub_sub (by decide) hM
    | trivial
    | split
    | dsimp only
    | dsimp only [id]

theorem execConfigurationWrite_same {M : Nat} {s0 s : State} (hk : Same M s0 s) (hM : 31670281386458218 ||| M = M) (w
    : ConfigWrite) :
    OutSame M s0 (execConfigurationWrite w s) := by
  unfold execConfigurationWrite
  try dsimp only
  repeat' first
    | intro _
    | with_reducible exact hk
    | with_reducible apply outSame_next
    | with_reducible apply State.releaseFunc_same
    | with_reducible apply State.setVfs_same
    | with_reducible apply outSame_ite
    | with_reducible apply ite_same
    | with_reducible refine same_snd (by assumption) ?_
    | with_reducible refine same_snd2 (by assumption) ?_
    | with_reducible assumption
    | exact sub_sub (by decide) hM
    | trivial
    | split
    | dsimp only
    | dsimp only [id]
    | with_reducible apply same_u2048
    | with_reducible apply same_u4096
    | with_reducible apply same_u16384
    | with_reducible apply same_u140737488355328
    | with_reducible apply same_u9007199254740992
    | with_reducible apply same_u18014398509481984
    | with_reducible apply same_u27162335252600832

theorem execGetStatus_same {M : Nat} {s0 s : State} (hk : Same M s0 s) (hM : 1125899906842632 ||| M = M) (head :
    BitVec 32) (p : List Byte) :
    OutSame M s0 (execGetStatus head p s) := by
  unfold execGetStatus
  try dsimp only
  repeat' first
    | intro _
    | with_reducible exact hk
    | with_reducible apply outSame_next
    | with_reducible apply State.vendor_same
    | with_reducible apply answerIf_same
    | with_reducible apply outSame_ite
    | with_reducible apply ite_same
    | with_reducible refine same_snd (by assumption) ?_
    | with_reducible refine same_snd2 (by assumption) ?_
    | with_reducible assumption
    | exact sub_sub (by decide) hM
    | trivial
    | split
    | dsimp only
    | dsimp only [id]

theorem execSetAllot_same {M : Nat} {s0 s : State} (hk : Same M s0 s) (hM : 1407374883553288 ||| M = M) (head : BitVec
    32) (p : List Byte) :
    OutSame M s0 (execSetAllot head p s) := by
  unfold execSetAllot
  try dsimp only
  repeat' first
    | intro _
    | with_reducible exact hk
    | with_reducible apply outSame_next
    | with_reducible apply State.vendor_same
    | with_reducible apply State.setAllot_same
    | with_reducible apply answerIf_same
    | with_reducible apply outSame_ite
    | with_reducible apply ite_same
    | with_reducible refine same_snd (by assumption) ?_
    | with_reducible refine same_snd2 (by assumption) ?_
    | with_reducible assumption
    | exact sub_sub (by decide) hM
    | trivial
    | split
    | dsimp only
    | dsimp only [id]

theorem execGetForecast_same {M : Nat} {s0 s : State} (hk : Same M s0 s) (hM : 1125899906842632 ||| M = M) (head :
    BitVec 32) (p : List Byte) :
    OutSame M s0 (execGetForecast head p s) := by
  unfold execGetForecast
  try dsimp only
  repeat' first
    | intro _
    | with_reducible exact hk
    | with_reducible apply outSame_next
    | with_reducible apply State.vendor_same
    | with_reducible apply answerIf_same
    | with_reducible apply outSame_ite
    | with_reducible apply ite_same
    | with_reducible refine same_snd (by assumption) ?_
    | with_reducible refine same_snd2 (by assumption) ?_
    | with_reducible assumption
    | exact sub_sub (by decide) hM
    | trivial
    | split
    | dsimp only
    | dsimp only [id]

theorem execSetPlanCap_same {M : Nat} {s0 s : State} (hk : Same M s0 s) (hM : 1407374883553288 ||| M = M) (head :
    BitVec 32) (p : List Byte) :
    OutSame M s0 (execSetPlanCap head p s) := by
  unfold execSetPlanCap
  try dsimp only
  repeat' first
    | intro _
    | with_reducible exact hk
    | with_reducible apply outSame_next
    | with_reducible apply State.setCap_same
    | with_reducible apply State.vendor_same
    | with_reducible apply outSame_ite
    | with_reducible apply ite_same
    | with_reducible refine same_snd (by assumption) ?_
    | with_reducible refine same_snd2 (by assumption) ?_
    | with_reducible assumption
    | exact sub_sub (by decide) hM
    | trivial
    | split
    | dsimp only
    | dsimp only [id]

theorem execSetAlign_same {M : Nat} {s0 s : State} (hk : Same M s0 s) (hM : 1407374883553288 ||| M = M) (head : BitVec
    32) (p : List Byte) :
    OutSame M s0 (execSetAlign head p s) := by
  unfold execSetAlign
  try dsimp only
  repeat' first
    | intro _
    | with_reducible exact hk
    | with_reducible apply outSame_next
    | with_reducible apply State.setAlign_same
    | with_reducible apply State.vendor_same
    | with_reducible apply answerIf_same
    | with_reducible apply outSame_ite
    | with_reducible apply ite_same
    | with_reducible refine same_snd (by assumption) ?_
    | with_reducible refine same_snd2 (by assumption) ?_
    | with_reducible assumption
    | exact sub_sub (by decide) hM
    | trivial
    | split
    | dsimp only
    | dsimp only [id]

theorem execReadFaultlog_same {M : Nat} {s0 s : State} (hk : Same M s0 s) (hM : 1125899906842632 ||| M = M) (head :
    BitVec 32) (p : List Byte) :
    OutSame M s0 (execReadFaultlog head p s) := by
  unfold execReadFaultlog
  try dsimp only
  repeat' first
    | intro _
    | with_reducible exact hk
    | with_reducible apply outSame_next
    | with_reducible apply State.vendor_same
    | with_reducible apply answerIf_same
    | with_reducible apply outSame_ite
    | with_reducible apply ite_same
    | with_reducible refine same_snd (by assumption) ?_
    | with_reducible refine same_snd2 (by assumption) ?_
    | with_reducible assumption
    | exact sub_sub (by decide) hM
    | trivial
    | split
    | dsimp only
    | dsimp only [id]

theorem State.unlessBusy_same {M : Nat} {s0 s : State} (hk : Same M s0 s) (hM : 1125899906842624 ||| M = M) (busy :
    Bool) (k : State → Answer)
    (h : ∀ t, Same M s0 t → Same M s0 (k t).2.2) : Same M s0 (s.unlessBusy busy k).2.2 := by
  unfold State.unlessBusy
  split
  · exact hk
  · exact h _ (State.startRead_same hk hM)

theorem execReadAlmanac_same {M : Nat} {s0 s : State} (hk : Same M s0 s) (hM : 1125908496777224 ||| M = M) (head :
    BitVec 32) (p : List Byte)
    (got : Option (List Byte)) (busy : Bool) : OutSame M s0 (execReadAlmanac head p got busy s) := by
  refine State.vendor_same hk (sub_sub (by decide) hM) _ _ _ _ _ fun t ht => ?_
  split
  · exact ht
  · exact State.unlessBusy_same ht (sub_sub (by decide) hM) _ _ fun u hu => State.readAlmanac_same hu (sub_sub (by
      decide) hM) _ _ _

theorem execClassify_same {M : Nat} {s0 s : State} (hk : Same M s0 s) (hM : 1125899906842632 ||| M = M) (head : BitVec
    32) (p : List Byte)
    (busy : Bool) : OutSame M s0 (execClassify head p busy s) :=
  State.vendor_same hk (sub_sub (by decide) hM) _ _ _ _ _ fun _ ht => answerIf_same ht _ (State.unlessBusy_same ht
      (sub_sub (by decide) hM) _ _ fun _ hu => hu)

theorem execAttest_same {M : Nat} {s0 s : State} (hk : Same M s0 s) (hM : 1125899906842634 ||| M = M) (head : BitVec
    32) (p : List Byte) :
    OutSame M s0 (execAttest head p s) := by
  unfold execAttest
  try dsimp only
  repeat' first
    | intro _
    | with_reducible exact hk
    | with_reducible apply outSame_next
    | with_reducible apply State.attest_same
    | with_reducible apply State.vendor_same
    | with_reducible apply outSame_ite
    | with_reducible apply ite_same
    | with_reducible refine same_snd (by assumption) ?_
    | with_reducible refine same_snd2 (by assumption) ?_
    | with_reducible assumption
    | exact sub_sub (by decide) hM
    | trivial
    | split
    | dsimp only
    | dsimp only [id]

theorem execSignedObject_same {M : Nat} {s0 s : State} (hk : Same M s0 s) (hM : 1183362274295816 ||| M = M) (head :
    BitVec 32) (p : List Byte) (sigs : List Verified) (flashOk : Bool) (m : Meas) :
    OutSame M s0 (execSignedObject head p sigs flashOk m s) := by
  unfold execSignedObject
  try dsimp only
  repeat' first
    | intro _
    | with_reducible exact hk
    | with_reducible apply outSame_next
    | with_reducible apply State.applySigned_same
    | with_reducible apply State.vendor_same
    | with_reducible apply outSame_ite
    | with_reducible apply ite_same
    | with_reducible refine same_snd (by assumption) ?_
    | with_reducible refine same_snd2 (by assumption) ?_
    | with_reducible assumption
    | exact sub_sub (by decide) hM
    | trivial
    | split
    | dsimp only
    | dsimp only [id]

theorem execSubscribe_same {M : Nat} {s0 s : State} (hk : Same M s0 s) (hM : 1125899906842632 ||| M = M) (b : Fin 2)
    (head : BitVec 32) (p : List Byte) :
    OutSame M s0 (execSubscribe b head p s) := by
  unfold execSubscribe
  try dsimp only
  repeat' first
    | intro _
    | with_reducible exact hk
    | with_reducible apply outSame_next
    | with_reducible apply State.subscribe_same
    | with_reducible apply State.vendor_same
    | with_reducible apply answerIf_same
    | with_reducible apply outSame_ite
    | with_reducible apply ite_same
    | with_reducible refine same_snd (by assumption) ?_
    | with_reducible refine same_snd2 (by assumption) ?_
    | with_reducible assumption
    | exact sub_sub (by decide) hM
    | trivial
    | split
    | dsimp only
    | dsimp only [id]

theorem execEventAnswer_same {M : Nat} {s0 s : State} (hk : Same M s0 s) (hM : 1125899906842632 ||| M = M) (b : Fin 2) :
    OutSame M s0 (execEventAnswer b s) := by
  unfold execEventAnswer
  try dsimp only
  repeat' first
    | intro _
    | with_reducible exact hk
    | with_reducible apply outSame_next
    | with_reducible apply State.received_same
    | with_reducible apply outSame_ite
    | with_reducible apply ite_same
    | with_reducible refine same_snd (by assumption) ?_
    | with_reducible refine same_snd2 (by assumption) ?_
    | with_reducible assumption
    | exact sub_sub (by decide) hM
    | trivial
    | split
    | dsimp only
    | dsimp only [id]
    | with_reducible apply same_u1125899906842624

theorem execMctpControl_same {M : Nat} {s0 s : State} (hk : Same M s0 s) (hM : 1125899906842634 ||| M = M) (b : Fin 2)
    (r : MctpReq) :
    OutSame M s0 (execMctpControl b r s) := by
  unfold execMctpControl
  try dsimp only
  repeat' first
    | intro _
    | with_reducible exact hk
    | with_reducible apply outSame_next
    | with_reducible apply State.respond_same
    | with_reducible apply State.freeBytes_same
    | with_reducible apply State.wf_same
    | with_reducible apply State.bump_same
    | with_reducible apply State.received_same
    | with_reducible apply outSame_ite
    | with_reducible apply ite_same
    | with_reducible refine same_snd (by assumption) ?_
    | with_reducible refine same_snd2 (by assumption) ?_
    | with_reducible assumption
    | exact sub_sub (by decide) hM
    | trivial
    | split
    | dsimp only
    | dsimp only [id]

theorem execDynamicAddressAssign_same {M : Nat} {s0 s : State} (hk : Same M s0 s) (hM : 8 ||| M = M) (how : I3cAssign)
    (a : BitVec 7) :
    OutSame M s0 (execDynamicAddressAssign how a s) := by
  unfold execDynamicAddressAssign
  try dsimp only
  repeat' first
    | intro _
    | with_reducible exact hk
    | with_reducible apply outSame_next
    | with_reducible apply State.wf_same
    | with_reducible apply outSame_ite
    | with_reducible apply ite_same
    | with_reducible refine same_snd (by assumption) ?_
    | with_reducible refine same_snd2 (by assumption) ?_
    | with_reducible assumption
    | exact sub_sub (by decide) hM
    | trivial
    | split
    | dsimp only
    | dsimp only [id]

theorem execPldmMonitor_same {M : Nat} {s0 s : State} (hk : Same M s0 s) (hM : 1125899906842634 ||| M = M) (r : PldmReq) :
    OutSame M s0 (execPldmMonitor r s) := by
  unfold execPldmMonitor
  try dsimp only
  repeat' first
    | intro _
    | with_reducible exact hk
    | with_reducible apply outSame_next
    | with_reducible apply State.respond_same
    | with_reducible apply State.freeBytes_same
    | with_reducible apply State.received_same
    | with_reducible apply outSame_ite
    | with_reducible apply ite_same
    | with_reducible refine same_snd (by assumption) ?_
    | with_reducible refine same_snd2 (by assumption) ?_
    | with_reducible assumption
    | exact sub_sub (by decide) hM
    | trivial
    | split
    | dsimp only
    | dsimp only [id]
    | with_reducible apply same_u1125899906842624

theorem execRequestUpdate_same {M : Nat} {s0 s : State} (hk : Same M s0 s) (hM : 1125899906842632 ||| M = M) (b : Fin
    2) (src : BitVec 8) (size : BitVec 32) :
    OutSame M s0 (execRequestUpdate b src size s) := by
  unfold execRequestUpdate
  try dsimp only
  repeat' first
    | intro _
    | with_reducible exact hk
    | with_reducible apply outSame_next
    | with_reducible apply State.fwRequest_same
    | with_reducible apply outSame_ite
    | with_reducible apply ite_same
    | with_reducible refine same_snd (by assumption) ?_
    | with_reducible refine same_snd2 (by assumption) ?_
    | with_reducible assumption
    | exact sub_sub (by decide) hM
    | trivial
    | split
    | dsimp only
    | dsimp only [id]
    | with_reducible apply same_u1125899906842624

theorem execUpdateComponent_same {M : Nat} {s0 s : State} (hk : Same M s0 s) (hM : 1125899906842632 ||| M = M) (cls :
    BitVec 16) (id : BitVec 16) :
    OutSame M s0 (execUpdateComponent cls id s) := by
  unfold execUpdateComponent
  try dsimp only
  repeat' first
    | intro _
    | with_reducible exact hk
    | with_reducible apply outSame_next
    | with_reducible apply State.fwRequest_same
    | with_reducible apply State.askNext_same
    | with_reducible apply outSame_ite
    | with_reducible apply ite_same
    | with_reducible refine same_snd (by assumption) ?_
    | with_reducible refine same_snd2 (by assumption) ?_
    | with_reducible assumption
    | exact sub_sub (by decide) hM
    | trivial
    | split
    | dsimp only
    | dsimp only [id]
    | with_reducible apply same_u1125899906842624

theorem execFirmwareDataResponse_same {M : Nat} {s0 s : State} (hk : Same M s0 s) (hM : 1271044031643656 ||| M = M) (d
    : List Byte) (sigs : List Verified) (flashOk : Bool) :
    OutSame M s0 (execFirmwareDataResponse d sigs flashOk s) := by
  unfold execFirmwareDataResponse
  try dsimp only
  repeat' first
    | intro _
    | with_reducible exact hk
    | with_reducible apply outSame_next
    | with_reducible apply State.reportEnd_same
    | with_reducible apply State.beginImage_same
    | with_reducible apply State.updateData_same
    | with_reducible apply State.askNext_same
    | with_reducible apply State.bump_same
    | with_reducible apply State.messageOf_same
    | with_reducible apply outSame_ite
    | with_reducible apply ite_same
    | with_reducible refine same_snd (by assumption) ?_
    | with_reducible refine same_snd2 (by assumption) ?_
    | with_reducible assumption
    | exact sub_sub (by decide) hM
    | trivial
    | split
    | dsimp only
    | dsimp only [id]
    | with_reducible apply same_u1125899906842624

theorem execFlashProgramDone_same {M : Nat} {s0 s : State} (hk : Same M s0 s) (hM : 1130306543288328 ||| M = M)
    (flashOk : Bool) :
    OutSame M s0 (execFlashProgramDone flashOk s) := by
  unfold execFlashProgramDone
  try dsimp only
  repeat' first
    | intro _
    | with_reducible exact hk
    | with_reducible apply outSame_next
    | with_reducible apply State.reportEnd_same
    | with_reducible apply State.updateFinish_same
    | with_reducible apply State.wf_same
    | with_reducible apply State.askNext_same
    | with_reducible apply outSame_ite
    | with_reducible apply ite_same
    | with_reducible refine same_snd (by assumption) ?_
    | with_reducible refine same_snd2 (by assumption) ?_
    | with_reducible assumption
    | exact sub_sub (by decide) hM
    | trivial
    | split
    | dsimp only
    | dsimp only [id]

theorem execCancelUpdate_same {M : Nat} {s0 s : State} (hk : Same M s0 s) (hM : 1125899906842632 ||| M = M)  :
    OutSame M s0 (execCancelUpdate  s) := by
  unfold execCancelUpdate
  try dsimp only
  repeat' first
    | intro _
    | with_reducible exact hk
    | with_reducible apply outSame_next
    | with_reducible apply State.fwRequest_same
    | with_reducible apply State.updateCancel_same
    | with_reducible apply outSame_ite
    | with_reducible apply ite_same
    | with_reducible refine same_snd (by assumption) ?_
    | with_reducible refine same_snd2 (by assumption) ?_
    | with_reducible assumption
    | exact sub_sub (by decide) hM
    | trivial
    | split
    | dsimp only
    | dsimp only [id]
    | with_reducible apply same_u1125899906842624

theorem execActivateFirmware_same {M : Nat} {s0 s : State} (hk : Same M s0 s) (hM : 1125899906842632 ||| M = M)  :
    OutSame M s0 (execActivateFirmware  s) := by
  unfold execActivateFirmware
  try dsimp only
  repeat' first
    | intro _
    | with_reducible exact hk
    | with_reducible apply outSame_next
    | with_reducible apply State.fwRequest_same
    | with_reducible apply outSame_ite
    | with_reducible apply ite_same
    | with_reducible refine same_snd (by assumption) ?_
    | with_reducible refine same_snd2 (by assumption) ?_
    | with_reducible assumption
    | exact sub_sub (by decide) hM
    | trivial
    | split
    | dsimp only
    | dsimp only [id]
    | with_reducible apply same_u1125899906842624

theorem execRegisterWrite_same {M : Nat} {s0 s : State} (hk : Same M s0 s) (hM : 1609633483170922 ||| M = M) (u : Fin
    64) (off : BitVec 27) (v : Word32) :
    OutSame M s0 (execRegisterWrite u off v s) := by
  unfold execRegisterWrite
  try dsimp only
  repeat' first
    | intro _
    | with_reducible exact hk
    | with_reducible apply outSame_next
    | with_reducible apply State.busWrite_same
    | with_reducible apply outSame_ite
    | with_reducible apply ite_same
    | with_reducible refine same_snd (by assumption) ?_
    | with_reducible refine same_snd2 (by assumption) ?_
    | with_reducible assumption
    | exact sub_sub (by decide) hM
    | trivial
    | split
    | dsimp only
    | dsimp only [id]

theorem execLowWordWrite_same {M : Nat} {s0 s : State} (hk : Same M s0 s) (hM : 1609633483170922 ||| M = M) (u : Fin
    64) (off : BitVec 27) (v : Word32) :
    OutSame M s0 (execLowWordWrite u off v s) := by
  unfold execLowWordWrite
  try dsimp only
  repeat' first
    | intro _
    | with_reducible exact hk
    | with_reducible apply outSame_next
    | with_reducible apply State.busWrite_same
    | with_reducible apply outSame_ite
    | with_reducible apply ite_same
    | with_reducible refine same_snd (by assumption) ?_
    | with_reducible refine same_snd2 (by assumption) ?_
    | with_reducible assumption
    | exact sub_sub (by decide) hM
    | trivial
    | split
    | dsimp only
    | dsimp only [id]

theorem execHighWordWrite_same {M : Nat} {s0 s : State} (hk : Same M s0 s) (hM : 1609633483170922 ||| M = M) (u : Fin
    64) (off : BitVec 27) (v : Word32) :
    OutSame M s0 (execHighWordWrite u off v s) := by
  unfold execHighWordWrite
  try dsimp only
  repeat' first
    | intro _
    | with_reducible exact hk
    | with_reducible apply outSame_next
    | with_reducible apply State.busWrite_same
    | with_reducible apply outSame_ite
    | with_reducible apply ite_same
    | with_reducible refine same_snd (by assumption) ?_
    | with_reducible refine same_snd2 (by assumption) ?_
    | with_reducible assumption
    | exact sub_sub (by decide) hM
    | trivial
    | split
    | dsimp only
    | dsimp only [id]

end Sys2Proof.Machine
end

