-- ==== Sys2Proof/Laws/State.lean ====
section
/-! SUPPORT. What each plain update of the state leaves alone: one lemma per field and per update, true by definition, and one
per named read. -/

namespace Sys2Proof.Machine

/-! ### setReg -/

@[simp] theorem State.setReg_pending (s : State) (a : Nat) (w : Word32) : (s.setReg a w).pending = s.pending := rfl
@[simp] theorem State.setReg_freeCtr (s : State) (a : Nat) (w : Word32) : (s.setReg a w).freeCtr = s.freeCtr := rfl
@[simp] theorem State.setReg_now (s : State) (a : Nat) (w : Word32) : (s.setReg a w).now = s.now := rfl
@[simp] theorem State.setReg_rdLatch (s : State) (a : Nat) (w : Word32) : (s.setReg a w).rdLatch = s.rdLatch := rfl
@[simp] theorem State.setReg_wrStage (s : State) (a : Nat) (w : Word32) : (s.setReg a w).wrStage = s.wrStage := rfl
@[simp] theorem State.setReg_ifLatch (s : State) (a : Nat) (w : Word32) : (s.setReg a w).ifLatch = s.ifLatch := rfl
@[simp] theorem State.setReg_rdata (s : State) (a : Nat) (w : Word32) : (s.setReg a w).rdata = s.rdata := rfl
@[simp] theorem State.setReg_b2data (s : State) (a : Nat) (w : Word32) : (s.setReg a w).b2data = s.b2data := rfl
@[simp] theorem State.setReg_hostMem (s : State) (a : Nat) (w : Word32) : (s.setReg a w).hostMem = s.hostMem := rfl
@[simp] theorem State.setReg_msgs (s : State) (a : Nat) (w : Word32) : (s.setReg a w).msgs = s.msgs := rfl
@[simp] theorem State.setReg_msixOn (s : State) (a : Nat) (w : Word32) : (s.setReg a w).msixOn = s.msixOn := rfl
@[simp] theorem State.setReg_msixOpen (s : State) (a : Nat) (w : Word32) : (s.setReg a w).msixOpen = s.msixOpen := rfl
@[simp] theorem State.setReg_msixPend (s : State) (a : Nat) (w : Word32) : (s.setReg a w).msixPend = s.msixPend := rfl
@[simp] theorem State.setReg_funcMask (s : State) (a : Nat) (w : Word32) : (s.setReg a w).funcMask = s.funcMask := rfl
@[simp] theorem State.setReg_hbm (s : State) (a : Nat) (w : Word32) : (s.setReg a w).hbm = s.hbm := rfl
@[simp] theorem State.setReg_hbmBad (s : State) (a : Nat) (w : Word32) : (s.setReg a w).hbmBad = s.hbmBad := rfl
@[simp] theorem State.setReg_clearing (s : State) (a : Nat) (w : Word32) : (s.setReg a w).clearing = s.clearing := rfl
@[simp] theorem State.setReg_scrubAt (s : State) (a : Nat) (w : Word32) : (s.setReg a w).scrubAt = s.scrubAt := rfl
@[simp] theorem State.setReg_sheaf (s : State) (a : Nat) (w : Word32) : (s.setReg a w).sheaf = s.sheaf := rfl
@[simp] theorem State.setReg_seedbed (s : State) (a : Nat) (w : Word32) : (s.setReg a w).seedbed = s.seedbed := rfl
@[simp] theorem State.setReg_glean (s : State) (a : Nat) (w : Word32) : (s.setReg a w).glean = s.glean := rfl
@[simp] theorem State.setReg_furrows (s : State) (a : Nat) (w : Word32) : (s.setReg a w).furrows = s.furrows := rfl
@[simp] theorem State.setReg_streams (s : State) (a : Nat) (w : Word32) : (s.setReg a w).streams = s.streams := rfl
@[simp] theorem State.setReg_dma (s : State) (a : Nat) (w : Word32) : (s.setReg a w).dma = s.dma := rfl
@[simp] theorem State.setReg_shadows (s : State) (a : Nat) (w : Word32) : (s.setReg a w).shadows = s.shadows := rfl
@[simp] theorem State.setReg_sems (s : State) (a : Nat) (w : Word32) : (s.setReg a w).sems = s.sems := rfl
@[simp] theorem State.setReg_barriers (s : State) (a : Nat) (w : Word32) : (s.setReg a w).barriers = s.barriers := rfl
@[simp] theorem State.setReg_seqRuns (s : State) (a : Nat) (w : Word32) : (s.setReg a w).seqRuns = s.seqRuns := rfl
@[simp] theorem State.setReg_ctxs (s : State) (a : Nat) (w : Word32) : (s.setReg a w).ctxs = s.ctxs := rfl
@[simp] theorem State.setReg_regions (s : State) (a : Nat) (w : Word32) : (s.setReg a w).regions = s.regions := rfl
@[simp] theorem State.setReg_coverage (s : State) (a : Nat) (w : Word32) : (s.setReg a w).coverage = s.coverage := rfl
@[simp] theorem State.setReg_fences (s : State) (a : Nat) (w : Word32) : (s.setReg a w).fences = s.fences := rfl
@[simp] theorem State.setReg_pairs (s : State) (a : Nat) (w : Word32) : (s.setReg a w).pairs = s.pairs := rfl
@[simp] theorem State.setReg_fcolLog (s : State) (a : Nat) (w : Word32) : (s.setReg a w).fcolLog = s.fcolLog := rfl
@[simp] theorem State.setReg_hangLog (s : State) (a : Nat) (w : Word32) : (s.setReg a w).hangLog = s.hangLog := rfl
@[simp] theorem State.setReg_queues (s : State) (a : Nat) (w : Word32) : (s.setReg a w).queues = s.queues := rfl
@[simp] theorem State.setReg_copies (s : State) (a : Nat) (w : Word32) : (s.setReg a w).copies = s.copies := rfl
@[simp] theorem State.setReg_ports (s : State) (a : Nat) (w : Word32) : (s.setReg a w).ports = s.ports := rfl
@[simp] theorem State.setReg_inbox (s : State) (a : Nat) (w : Word32) : (s.setReg a w).inbox = s.inbox := rfl
@[simp] theorem State.setReg_engines (s : State) (a : Nat) (w : Word32) : (s.setReg a w).engines = s.engines := rfl
@[simp] theorem State.setReg_serv (s : State) (a : Nat) (w : Word32) : (s.setReg a w).serv = s.serv := rfl
@[simp] theorem State.setReg_flash (s : State) (a : Nat) (w : Word32) : (s.setReg a w).flash = s.flash := rfl
@[simp] theorem State.setReg_fuses (s : State) (a : Nat) (w : Word32) : (s.setReg a w).fuses = s.fuses := rfl
@[simp] theorem State.setReg_staged (s : State) (a : Nat) (w : Word32) : (s.setReg a w).staged = s.staged := rfl
@[simp] theorem State.setReg_heldBack (s : State) (a : Nat) (w : Word32) : (s.setReg a w).heldBack = s.heldBack := rfl
@[simp] theorem State.setReg_lastMma (s : State) (a : Nat) (w : Word32) : (s.setReg a w).lastMma = s.lastMma := rfl
@[simp] theorem State.setReg_sec (s : State) (a : Nat) (w : Word32) : (s.setReg a w).sec = s.sec := rfl
@[simp] theorem State.setReg_pwr (s : State) (a : Nat) (w : Word32) : (s.setReg a w).pwr = s.pwr := rfl
@[simp] theorem State.setReg_clk (s : State) (a : Nat) (w : Word32) : (s.setReg a w).clk = s.clk := rfl
@[simp] theorem State.setReg_mg (s : State) (a : Nat) (w : Word32) : (s.setReg a w).mg = s.mg := rfl
@[simp] theorem State.setReg_pins (s : State) (a : Nat) (w : Word32) : (s.setReg a w).pins = s.pins := rfl
@[simp] theorem State.setReg_vfs (s : State) (a : Nat) (w : Word32) : (s.setReg a w).vfs = s.vfs := rfl
@[simp] theorem State.setReg_bar2Pf (s : State) (a : Nat) (w : Word32) : (s.setReg a w).bar2Pf = s.bar2Pf := rfl
@[simp] theorem State.setReg_bar2Vf (s : State) (a : Nat) (w : Word32) : (s.setReg a w).bar2Vf = s.bar2Vf := rfl
@[simp] theorem State.setReg_qmLast (s : State) (a : Nat) (w : Word32) : (s.setReg a w).qmLast = s.qmLast := rfl
@[simp] theorem State.st_setReg (s : State) (a : Nat) (w : Word32) (q : At) : (s.setReg a w).st q = s.st q := rfl
@[simp] theorem State.fur_setReg (s : State) (a : Nat) (w : Word32) (g m : Nat) : (s.setReg a w).fur g m = s.fur g m := rfl
@[simp] theorem State.ctx_setReg (s : State) (a : Nat) (w : Word32) (d : Nat) : (s.setReg a w).ctx d = s.ctx d := rfl
@[simp] theorem State.dmaOf_setReg (s : State) (a : Nat) (w : Word32) (g : Nat) : (s.setReg a w).dmaOf g = s.dmaOf g := rfl
@[simp] theorem State.sem_setReg (s : State) (a : Nat) (w : Word32) (g d m : Nat) : (s.setReg a w).sem g d m = s.sem g d m := rfl
@[simp] theorem State.seedByte_setReg (s : State) (a : Nat) (w : Word32) (g m b : Nat) : (s.setReg a w).seedByte g m b = s.seedByte g m b := rfl
@[simp] theorem State.queue_setReg (s : State) (a : Nat) (w : Word32) (r : Nat) : (s.setReg a w).queue r = s.queue r := rfl
@[simp] theorem State.port_setReg (s : State) (a : Nat) (w : Word32) (j : Nat) : (s.setReg a w).port j = s.port j := rfl
@[simp] theorem State.eng_setReg (s : State) (a : Nat) (w : Word32) (g : Nat) : (s.setReg a w).eng g = s.eng g := rfl

/-! ### wf -/

@[simp] theorem State.wf_pending (s : State) (l : Loc) (v : Nat) : (s.wf l v).pending = s.pending := rfl
@[simp] theorem State.wf_freeCtr (s : State) (l : Loc) (v : Nat) : (s.wf l v).freeCtr = s.freeCtr := rfl
@[simp] theorem State.wf_now (s : State) (l : Loc) (v : Nat) : (s.wf l v).now = s.now := rfl
@[simp] theorem State.wf_rdLatch (s : State) (l : Loc) (v : Nat) : (s.wf l v).rdLatch = s.rdLatch := rfl
@[simp] theorem State.wf_wrStage (s : State) (l : Loc) (v : Nat) : (s.wf l v).wrStage = s.wrStage := rfl
@[simp] theorem State.wf_ifLatch (s : State) (l : Loc) (v : Nat) : (s.wf l v).ifLatch = s.ifLatch := rfl
@[simp] theorem State.wf_rdata (s : State) (l : Loc) (v : Nat) : (s.wf l v).rdata = s.rdata := rfl
@[simp] theorem State.wf_b2data (s : State) (l : Loc) (v : Nat) : (s.wf l v).b2data = s.b2data := rfl
@[simp] theorem State.wf_hostMem (s : State) (l : Loc) (v : Nat) : (s.wf l v).hostMem = s.hostMem := rfl
@[simp] theorem State.wf_msgs (s : State) (l : Loc) (v : Nat) : (s.wf l v).msgs = s.msgs := rfl
@[simp] theorem State.wf_msixOn (s : State) (l : Loc) (v : Nat) : (s.wf l v).msixOn = s.msixOn := rfl
@[simp] theorem State.wf_msixOpen (s : State) (l : Loc) (v : Nat) : (s.wf l v).msixOpen = s.msixOpen := rfl
@[simp] theorem State.wf_msixPend (s : State) (l : Loc) (v : Nat) : (s.wf l v).msixPend = s.msixPend := rfl
@[simp] theorem State.wf_funcMask (s : State) (l : Loc) (v : Nat) : (s.wf l v).funcMask = s.funcMask := rfl
@[simp] theorem State.wf_hbm (s : State) (l : Loc) (v : Nat) : (s.wf l v).hbm = s.hbm := rfl
@[simp] theorem State.wf_hbmBad (s : State) (l : Loc) (v : Nat) : (s.wf l v).hbmBad = s.hbmBad := rfl
@[simp] theorem State.wf_clearing (s : State) (l : Loc) (v : Nat) : (s.wf l v).clearing = s.clearing := rfl
@[simp] theorem State.wf_scrubAt (s : State) (l : Loc) (v : Nat) : (s.wf l v).scrubAt = s.scrubAt := rfl
@[simp] theorem State.wf_sheaf (s : State) (l : Loc) (v : Nat) : (s.wf l v).sheaf = s.sheaf := rfl
@[simp] theorem State.wf_seedbed (s : State) (l : Loc) (v : Nat) : (s.wf l v).seedbed = s.seedbed := rfl
@[simp] theorem State.wf_glean (s : State) (l : Loc) (v : Nat) : (s.wf l v).glean = s.glean := rfl
@[simp] theorem State.wf_furrows (s : State) (l : Loc) (v : Nat) : (s.wf l v).furrows = s.furrows := rfl
@[simp] theorem State.wf_streams (s : State) (l : Loc) (v : Nat) : (s.wf l v).streams = s.streams := rfl
@[simp] theorem State.wf_dma (s : State) (l : Loc) (v : Nat) : (s.wf l v).dma = s.dma := rfl
@[simp] theorem State.wf_shadows (s : State) (l : Loc) (v : Nat) : (s.wf l v).shadows = s.shadows := rfl
@[simp] theorem State.wf_sems (s : State) (l : Loc) (v : Nat) : (s.wf l v).sems = s.sems := rfl
@[simp] theorem State.wf_barriers (s : State) (l : Loc) (v : Nat) : (s.wf l v).barriers = s.barriers := rfl
@[simp] theorem State.wf_seqRuns (s : State) (l : Loc) (v : Nat) : (s.wf l v).seqRuns = s.seqRuns := rfl
@[simp] theorem State.wf_ctxs (s : State) (l : Loc) (v : Nat) : (s.wf l v).ctxs = s.ctxs := rfl
@[simp] theorem State.wf_regions (s : State) (l : Loc) (v : Nat) : (s.wf l v).regions = s.regions := rfl
@[simp] theorem State.wf_coverage (s : State) (l : Loc) (v : Nat) : (s.wf l v).coverage = s.coverage := rfl
@[simp] theorem State.wf_fences (s : State) (l : Loc) (v : Nat) : (s.wf l v).fences = s.fences := rfl
@[simp] theorem State.wf_pairs (s : State) (l : Loc) (v : Nat) : (s.wf l v).pairs = s.pairs := rfl
@[simp] theorem State.wf_fcolLog (s : State) (l : Loc) (v : Nat) : (s.wf l v).fcolLog = s.fcolLog := rfl
@[simp] theorem State.wf_hangLog (s : State) (l : Loc) (v : Nat) : (s.wf l v).hangLog = s.hangLog := rfl
@[simp] theorem State.wf_queues (s : State) (l : Loc) (v : Nat) : (s.wf l v).queues = s.queues := rfl
@[simp] theorem State.wf_copies (s : State) (l : Loc) (v : Nat) : (s.wf l v).copies = s.copies := rfl
@[simp] theorem State.wf_ports (s : State) (l : Loc) (v : Nat) : (s.wf l v).ports = s.ports := rfl
@[simp] theorem State.wf_inbox (s : State) (l : Loc) (v : Nat) : (s.wf l v).inbox = s.inbox := rfl
@[simp] theorem State.wf_engines (s : State) (l : Loc) (v : Nat) : (s.wf l v).engines = s.engines := rfl
@[simp] theorem State.wf_serv (s : State) (l : Loc) (v : Nat) : (s.wf l v).serv = s.serv := rfl
@[simp] theorem State.wf_flash (s : State) (l : Loc) (v : Nat) : (s.wf l v).flash = s.flash := rfl
@[simp] theorem State.wf_fuses (s : State) (l : Loc) (v : Nat) : (s.wf l v).fuses = s.fuses := rfl
@[simp] theorem State.wf_staged (s : State) (l : Loc) (v : Nat) : (s.wf l v).staged = s.staged := rfl
@[simp] theorem State.wf_heldBack (s : State) (l : Loc) (v : Nat) : (s.wf l v).heldBack = s.heldBack := rfl
@[simp] theorem State.wf_lastMma (s : State) (l : Loc) (v : Nat) : (s.wf l v).lastMma = s.lastMma := rfl
@[simp] theorem State.wf_sec (s : State) (l : Loc) (v : Nat) : (s.wf l v).sec = s.sec := rfl
@[simp] theorem State.wf_pwr (s : State) (l : Loc) (v : Nat) : (s.wf l v).pwr = s.pwr := rfl
@[simp] theorem State.wf_clk (s : State) (l : Loc) (v : Nat) : (s.wf l v).clk = s.clk := rfl
@[simp] theorem State.wf_mg (s : State) (l : Loc) (v : Nat) : (s.wf l v).mg = s.mg := rfl
@[simp] theorem State.wf_pins (s : State) (l : Loc) (v : Nat) : (s.wf l v).pins = s.pins := rfl
@[simp] theorem State.wf_vfs (s : State) (l : Loc) (v : Nat) : (s.wf l v).vfs = s.vfs := rfl
@[simp] theorem State.wf_bar2Pf (s : State) (l : Loc) (v : Nat) : (s.wf l v).bar2Pf = s.bar2Pf := rfl
@[simp] theorem State.wf_bar2Vf (s : State) (l : Loc) (v : Nat) : (s.wf l v).bar2Vf = s.bar2Vf := rfl
@[simp] theorem State.wf_qmLast (s : State) (l : Loc) (v : Nat) : (s.wf l v).qmLast = s.qmLast := rfl
@[simp] theorem State.st_wf (s : State) (l : Loc) (v : Nat) (q : At) : (s.wf l v).st q = s.st q := rfl
@[simp] theorem State.fur_wf (s : State) (l : Loc) (v : Nat) (g m : Nat) : (s.wf l v).fur g m = s.fur g m := rfl
@[simp] theorem State.ctx_wf (s : State) (l : Loc) (v : Nat) (d : Nat) : (s.wf l v).ctx d = s.ctx d := rfl
@[simp] theorem State.dmaOf_wf (s : State) (l : Loc) (v : Nat) (g : Nat) : (s.wf l v).dmaOf g = s.dmaOf g := rfl
@[simp] theorem State.sem_wf (s : State) (l : Loc) (v : Nat) (g d m : Nat) : (s.wf l v).sem g d m = s.sem g d m := rfl
@[simp] theorem State.seedByte_wf (s : State) (l : Loc) (v : Nat) (g m b : Nat) : (s.wf l v).seedByte g m b = s.seedByte g m b := rfl
@[simp] theorem State.queue_wf (s : State) (l : Loc) (v : Nat) (r : Nat) : (s.wf l v).queue r = s.queue r := rfl
@[simp] theorem State.port_wf (s : State) (l : Loc) (v : Nat) (j : Nat) : (s.wf l v).port j = s.port j := rfl
@[simp] theorem State.eng_wf (s : State) (l : Loc) (v : Nat) (g : Nat) : (s.wf l v).eng g = s.eng g := rfl

/-! ### bump -/

@[simp] theorem State.bump_pending (s : State) (l : Loc) (n : Nat) : (s.bump l n).pending = s.pending := rfl
@[simp] theorem State.bump_freeCtr (s : State) (l : Loc) (n : Nat) : (s.bump l n).freeCtr = s.freeCtr := rfl
@[simp] theorem State.bump_now (s : State) (l : Loc) (n : Nat) : (s.bump l n).now = s.now := rfl
@[simp] theorem State.bump_rdLatch (s : State) (l : Loc) (n : Nat) : (s.bump l n).rdLatch = s.rdLatch := rfl
@[simp] theorem State.bump_wrStage (s : State) (l : Loc) (n : Nat) : (s.bump l n).wrStage = s.wrStage := rfl
@[simp] theorem State.bump_ifLatch (s : State) (l : Loc) (n : Nat) : (s.bump l n).ifLatch = s.ifLatch := rfl
@[simp] theorem State.bump_rdata (s : State) (l : Loc) (n : Nat) : (s.bump l n).rdata = s.rdata := rfl
@[simp] theorem State.bump_b2data (s : State) (l : Loc) (n : Nat) : (s.bump l n).b2data = s.b2data := rfl
@[simp] theorem State.bump_hostMem (s : State) (l : Loc) (n : Nat) : (s.bump l n).hostMem = s.hostMem := rfl
@[simp] theorem State.bump_msgs (s : State) (l : Loc) (n : Nat) : (s.bump l n).msgs = s.msgs := rfl
@[simp] theorem State.bump_msixOn (s : State) (l : Loc) (n : Nat) : (s.bump l n).msixOn = s.msixOn := rfl
@[simp] theorem State.bump_msixOpen (s : State) (l : Loc) (n : Nat) : (s.bump l n).msixOpen = s.msixOpen := rfl
@[simp] theorem State.bump_msixPend (s : State) (l : Loc) (n : Nat) : (s.bump l n).msixPend = s.msixPend := rfl
@[simp] theorem State.bump_funcMask (s : State) (l : Loc) (n : Nat) : (s.bump l n).funcMask = s.funcMask := rfl
@[simp] theorem State.bump_hbm (s : State) (l : Loc) (n : Nat) : (s.bump l n).hbm = s.hbm := rfl
@[simp] theorem State.bump_hbmBad (s : State) (l : Loc) (n : Nat) : (s.bump l n).hbmBad = s.hbmBad := rfl
@[simp] theorem State.bump_clearing (s : State) (l : Loc) (n : Nat) : (s.bump l n).clearing = s.clearing := rfl
@[simp] theorem State.bump_scrubAt (s : State) (l : Loc) (n : Nat) : (s.bump l n).scrubAt = s.scrubAt := rfl
@[simp] theorem State.bump_sheaf (s : State) (l : Loc) (n : Nat) : (s.bump l n).sheaf = s.sheaf := rfl
@[simp] theorem State.bump_seedbed (s : State) (l : Loc) (n : Nat) : (s.bump l n).seedbed = s.seedbed := rfl
@[simp] theorem State.bump_glean (s : State) (l : Loc) (n : Nat) : (s.bump l n).glean = s.glean := rfl
@[simp] theorem State.bump_furrows (s : State) (l : Loc) (n : Nat) : (s.bump l n).furrows = s.furrows := rfl
@[simp] theorem State.bump_streams (s : State) (l : Loc) (n : Nat) : (s.bump l n).streams = s.streams := rfl
@[simp] theorem State.bump_dma (s : State) (l : Loc) (n : Nat) : (s.bump l n).dma = s.dma := rfl
@[simp] theorem State.bump_shadows (s : State) (l : Loc) (n : Nat) : (s.bump l n).shadows = s.shadows := rfl
@[simp] theorem State.bump_sems (s : State) (l : Loc) (n : Nat) : (s.bump l n).sems = s.sems := rfl
@[simp] theorem State.bump_barriers (s : State) (l : Loc) (n : Nat) : (s.bump l n).barriers = s.barriers := rfl
@[simp] theorem State.bump_seqRuns (s : State) (l : Loc) (n : Nat) : (s.bump l n).seqRuns = s.seqRuns := rfl
@[simp] theorem State.bump_ctxs (s : State) (l : Loc) (n : Nat) : (s.bump l n).ctxs = s.ctxs := rfl
@[simp] theorem State.bump_regions (s : State) (l : Loc) (n : Nat) : (s.bump l n).regions = s.regions := rfl
@[simp] theorem State.bump_coverage (s : State) (l : Loc) (n : Nat) : (s.bump l n).coverage = s.coverage := rfl
@[simp] theorem State.bump_fences (s : State) (l : Loc) (n : Nat) : (s.bump l n).fences = s.fences := rfl
@[simp] theorem State.bump_pairs (s : State) (l : Loc) (n : Nat) : (s.bump l n).pairs = s.pairs := rfl
@[simp] theorem State.bump_fcolLog (s : State) (l : Loc) (n : Nat) : (s.bump l n).fcolLog = s.fcolLog := rfl
@[simp] theorem State.bump_hangLog (s : State) (l : Loc) (n : Nat) : (s.bump l n).hangLog = s.hangLog := rfl
@[simp] theorem State.bump_queues (s : State) (l : Loc) (n : Nat) : (s.bump l n).queues = s.queues := rfl
@[simp] theorem State.bump_copies (s : State) (l : Loc) (n : Nat) : (s.bump l n).copies = s.copies := rfl
@[simp] theorem State.bump_ports (s : State) (l : Loc) (n : Nat) : (s.bump l n).ports = s.ports := rfl
@[simp] theorem State.bump_inbox (s : State) (l : Loc) (n : Nat) : (s.bump l n).inbox = s.inbox := rfl
@[simp] theorem State.bump_engines (s : State) (l : Loc) (n : Nat) : (s.bump l n).engines = s.engines := rfl
@[simp] theorem State.bump_serv (s : State) (l : Loc) (n : Nat) : (s.bump l n).serv = s.serv := rfl
@[simp] theorem State.bump_flash (s : State) (l : Loc) (n : Nat) : (s.bump l n).flash = s.flash := rfl
@[simp] theorem State.bump_fuses (s : State) (l : Loc) (n : Nat) : (s.bump l n).fuses = s.fuses := rfl
@[simp] theorem State.bump_staged (s : State) (l : Loc) (n : Nat) : (s.bump l n).staged = s.staged := rfl
@[simp] theorem State.bump_heldBack (s : State) (l : Loc) (n : Nat) : (s.bump l n).heldBack = s.heldBack := rfl
@[simp] theorem State.bump_lastMma (s : State) (l : Loc) (n : Nat) : (s.bump l n).lastMma = s.lastMma := rfl
@[simp] theorem State.bump_sec (s : State) (l : Loc) (n : Nat) : (s.bump l n).sec = s.sec := rfl
@[simp] theorem State.bump_pwr (s : State) (l : Loc) (n : Nat) : (s.bump l n).pwr = s.pwr := rfl
@[simp] theorem State.bump_clk (s : State) (l : Loc) (n : Nat) : (s.bump l n).clk = s.clk := rfl
@[simp] theorem State.bump_mg (s : State) (l : Loc) (n : Nat) : (s.bump l n).mg = s.mg := rfl
@[simp] theorem State.bump_pins (s : State) (l : Loc) (n : Nat) : (s.bump l n).pins = s.pins := rfl
@[simp] theorem State.bump_vfs (s : State) (l : Loc) (n : Nat) : (s.bump l n).vfs = s.vfs := rfl
@[simp] theorem State.bump_bar2Pf (s : State) (l : Loc) (n : Nat) : (s.bump l n).bar2Pf = s.bar2Pf := rfl
@[simp] theorem State.bump_bar2Vf (s : State) (l : Loc) (n : Nat) : (s.bump l n).bar2Vf = s.bar2Vf := rfl
@[simp] theorem State.bump_qmLast (s : State) (l : Loc) (n : Nat) : (s.bump l n).qmLast = s.qmLast := rfl
@[simp] theorem State.st_bump (s : State) (l : Loc) (n : Nat) (q : At) : (s.bump l n).st q = s.st q := rfl
@[simp] theorem State.fur_bump (s : State) (l : Loc) (n : Nat) (g m : Nat) : (s.bump l n).fur g m = s.fur g m := rfl
@[simp] theorem State.ctx_bump (s : State) (l : Loc) (n : Nat) (d : Nat) : (s.bump l n).ctx d = s.ctx d := rfl
@[simp] theorem State.dmaOf_bump (s : State) (l : Loc) (n : Nat) (g : Nat) : (s.bump l n).dmaOf g = s.dmaOf g := rfl
@[simp] theorem State.sem_bump (s : State) (l : Loc) (n : Nat) (g d m : Nat) : (s.bump l n).sem g d m = s.sem g d m := rfl
@[simp] theorem State.seedByte_bump (s : State) (l : Loc) (n : Nat) (g m b : Nat) : (s.bump l n).seedByte g m b = s.seedByte g m b := rfl
@[simp] theorem State.queue_bump (s : State) (l : Loc) (n : Nat) (r : Nat) : (s.bump l n).queue r = s.queue r := rfl
@[simp] theorem State.port_bump (s : State) (l : Loc) (n : Nat) (j : Nat) : (s.bump l n).port j = s.port j := rfl
@[simp] theorem State.eng_bump (s : State) (l : Loc) (n : Nat) (g : Nat) : (s.bump l n).eng g = s.eng g := rfl

/-! ### setCtx -/

@[simp] theorem State.setCtx_pending (s : State) (c : Nat) (x : CtxSt) : (s.setCtx c x).pending = s.pending := rfl
@[simp] theorem State.setCtx_freeCtr (s : State) (c : Nat) (x : CtxSt) : (s.setCtx c x).freeCtr = s.freeCtr := rfl
@[simp] theorem State.setCtx_now (s : State) (c : Nat) (x : CtxSt) : (s.setCtx c x).now = s.now := rfl
@[simp] theorem State.setCtx_regs (s : State) (c : Nat) (x : CtxSt) : (s.setCtx c x).regs = s.regs := rfl
@[simp] theorem State.setCtx_rdLatch (s : State) (c : Nat) (x : CtxSt) : (s.setCtx c x).rdLatch = s.rdLatch := rfl
@[simp] theorem State.setCtx_wrStage (s : State) (c : Nat) (x : CtxSt) : (s.setCtx c x).wrStage = s.wrStage := rfl
@[simp] theorem State.setCtx_ifLatch (s : State) (c : Nat) (x : CtxSt) : (s.setCtx c x).ifLatch = s.ifLatch := rfl
@[simp] theorem State.setCtx_rdata (s : State) (c : Nat) (x : CtxSt) : (s.setCtx c x).rdata = s.rdata := rfl
@[simp] theorem State.setCtx_b2data (s : State) (c : Nat) (x : CtxSt) : (s.setCtx c x).b2data = s.b2data := rfl
@[simp] theorem State.setCtx_hostMem (s : State) (c : Nat) (x : CtxSt) : (s.setCtx c x).hostMem = s.hostMem := rfl
@[simp] theorem State.setCtx_msgs (s : State) (c : Nat) (x : CtxSt) : (s.setCtx c x).msgs = s.msgs := rfl
@[simp] theorem State.setCtx_msixOn (s : State) (c : Nat) (x : CtxSt) : (s.setCtx c x).msixOn = s.msixOn := rfl
@[simp] theorem State.setCtx_msixOpen (s : State) (c : Nat) (x : CtxSt) : (s.setCtx c x).msixOpen = s.msixOpen := rfl
@[simp] theorem State.setCtx_msixPend (s : State) (c : Nat) (x : CtxSt) : (s.setCtx c x).msixPend = s.msixPend := rfl
@[simp] theorem State.setCtx_funcMask (s : State) (c : Nat) (x : CtxSt) : (s.setCtx c x).funcMask = s.funcMask := rfl
@[simp] theorem State.setCtx_hbm (s : State) (c : Nat) (x : CtxSt) : (s.setCtx c x).hbm = s.hbm := rfl
@[simp] theorem State.setCtx_hbmBad (s : State) (c : Nat) (x : CtxSt) : (s.setCtx c x).hbmBad = s.hbmBad := rfl
@[simp] theorem State.setCtx_clearing (s : State) (c : Nat) (x : CtxSt) : (s.setCtx c x).clearing = s.clearing := rfl
@[simp] theorem State.setCtx_scrubAt (s : State) (c : Nat) (x : CtxSt) : (s.setCtx c x).scrubAt = s.scrubAt := rfl
@[simp] theorem State.setCtx_sheaf (s : State) (c : Nat) (x : CtxSt) : (s.setCtx c x).sheaf = s.sheaf := rfl
@[simp] theorem State.setCtx_seedbed (s : State) (c : Nat) (x : CtxSt) : (s.setCtx c x).seedbed = s.seedbed := rfl
@[simp] theorem State.setCtx_glean (s : State) (c : Nat) (x : CtxSt) : (s.setCtx c x).glean = s.glean := rfl
@[simp] theorem State.setCtx_furrows (s : State) (c : Nat) (x : CtxSt) : (s.setCtx c x).furrows = s.furrows := rfl
@[simp] theorem State.setCtx_streams (s : State) (c : Nat) (x : CtxSt) : (s.setCtx c x).streams = s.streams := rfl
@[simp] theorem State.setCtx_dma (s : State) (c : Nat) (x : CtxSt) : (s.setCtx c x).dma = s.dma := rfl
@[simp] theorem State.setCtx_shadows (s : State) (c : Nat) (x : CtxSt) : (s.setCtx c x).shadows = s.shadows := rfl
@[simp] theorem State.setCtx_sems (s : State) (c : Nat) (x : CtxSt) : (s.setCtx c x).sems = s.sems := rfl
@[simp] theorem State.setCtx_barriers (s : State) (c : Nat) (x : CtxSt) : (s.setCtx c x).barriers = s.barriers := rfl
@[simp] theorem State.setCtx_seqRuns (s : State) (c : Nat) (x : CtxSt) : (s.setCtx c x).seqRuns = s.seqRuns := rfl
@[simp] theorem State.setCtx_regions (s : State) (c : Nat) (x : CtxSt) : (s.setCtx c x).regions = s.regions := rfl
@[simp] theorem State.setCtx_coverage (s : State) (c : Nat) (x : CtxSt) : (s.setCtx c x).coverage = s.coverage := rfl
@[simp] theorem State.setCtx_fences (s : State) (c : Nat) (x : CtxSt) : (s.setCtx c x).fences = s.fences := rfl
@[simp] theorem State.setCtx_pairs (s : State) (c : Nat) (x : CtxSt) : (s.setCtx c x).pairs = s.pairs := rfl
@[simp] theorem State.setCtx_fcolLog (s : State) (c : Nat) (x : CtxSt) : (s.setCtx c x).fcolLog = s.fcolLog := rfl
@[simp] theorem State.setCtx_hangLog (s : State) (c : Nat) (x : CtxSt) : (s.setCtx c x).hangLog = s.hangLog := rfl
@[simp] theorem State.setCtx_queues (s : State) (c : Nat) (x : CtxSt) : (s.setCtx c x).queues = s.queues := rfl
@[simp] theorem State.setCtx_copies (s : State) (c : Nat) (x : CtxSt) : (s.setCtx c x).copies = s.copies := rfl
@[simp] theorem State.setCtx_ports (s : State) (c : Nat) (x : CtxSt) : (s.setCtx c x).ports = s.ports := rfl
@[simp] theorem State.setCtx_inbox (s : State) (c : Nat) (x : CtxSt) : (s.setCtx c x).inbox = s.inbox := rfl
@[simp] theorem State.setCtx_engines (s : State) (c : Nat) (x : CtxSt) : (s.setCtx c x).engines = s.engines := rfl
@[simp] theorem State.setCtx_serv (s : State) (c : Nat) (x : CtxSt) : (s.setCtx c x).serv = s.serv := rfl
@[simp] theorem State.setCtx_flash (s : State) (c : Nat) (x : CtxSt) : (s.setCtx c x).flash = s.flash := rfl
@[simp] theorem State.setCtx_fuses (s : State) (c : Nat) (x : CtxSt) : (s.setCtx c x).fuses = s.fuses := rfl
@[simp] theorem State.setCtx_staged (s : State) (c : Nat) (x : CtxSt) : (s.setCtx c x).staged = s.staged := rfl
@[simp] theorem State.setCtx_heldBack (s : State) (c : Nat) (x : CtxSt) : (s.setCtx c x).heldBack = s.heldBack := rfl
@[simp] theorem State.setCtx_lastMma (s : State) (c : Nat) (x : CtxSt) : (s.setCtx c x).lastMma = s.lastMma := rfl
@[simp] theorem State.setCtx_sec (s : State) (c : Nat) (x : CtxSt) : (s.setCtx c x).sec = s.sec := rfl
@[simp] theorem State.setCtx_pwr (s : State) (c : Nat) (x : CtxSt) : (s.setCtx c x).pwr = s.pwr := rfl
@[simp] theorem State.setCtx_clk (s : State) (c : Nat) (x : CtxSt) : (s.setCtx c x).clk = s.clk := rfl
@[simp] theorem State.setCtx_mg (s : State) (c : Nat) (x : CtxSt) : (s.setCtx c x).mg = s.mg := rfl
@[simp] theorem State.setCtx_pins (s : State) (c : Nat) (x : CtxSt) : (s.setCtx c x).pins = s.pins := rfl
@[simp] theorem State.setCtx_vfs (s : State) (c : Nat) (x : CtxSt) : (s.setCtx c x).vfs = s.vfs := rfl
@[simp] theorem State.setCtx_bar2Pf (s : State) (c : Nat) (x : CtxSt) : (s.setCtx c x).bar2Pf = s.bar2Pf := rfl
@[simp] theorem State.setCtx_bar2Vf (s : State) (c : Nat) (x : CtxSt) : (s.setCtx c x).bar2Vf = s.bar2Vf := rfl
@[simp] theorem State.setCtx_qmLast (s : State) (c : Nat) (x : CtxSt) : (s.setCtx c x).qmLast = s.qmLast := rfl
@[simp] theorem State.reg_setCtx (s : State) (c : Nat) (x : CtxSt) (b : Nat) : (s.setCtx c x).reg b = s.reg b := rfl
@[simp] theorem State.rf_setCtx (s : State) (c : Nat) (x : CtxSt) (m : Loc) : (s.setCtx c x).rf m = s.rf m := rfl
@[simp] theorem State.st_setCtx (s : State) (c : Nat) (x : CtxSt) (q : At) : (s.setCtx c x).st q = s.st q := rfl
@[simp] theorem State.fur_setCtx (s : State) (c : Nat) (x : CtxSt) (g m : Nat) : (s.setCtx c x).fur g m = s.fur g m := rfl
@[simp] theorem State.dmaOf_setCtx (s : State) (c : Nat) (x : CtxSt) (g : Nat) : (s.setCtx c x).dmaOf g = s.dmaOf g := rfl
@[simp] theorem State.sem_setCtx (s : State) (c : Nat) (x : CtxSt) (g d m : Nat) : (s.setCtx c x).sem g d m = s.sem g d m := rfl
@[simp] theorem State.seedByte_setCtx (s : State) (c : Nat) (x : CtxSt) (g m b : Nat) : (s.setCtx c x).seedByte g m b = s.seedByte g m b := rfl
@[simp] theorem State.queue_setCtx (s : State) (c : Nat) (x : CtxSt) (r : Nat) : (s.setCtx c x).queue r = s.queue r := rfl
@[simp] theorem State.port_setCtx (s : State) (c : Nat) (x : CtxSt) (j : Nat) : (s.setCtx c x).port j = s.port j := rfl
@[simp] theorem State.eng_setCtx (s : State) (c : Nat) (x : CtxSt) (g : Nat) : (s.setCtx c x).eng g = s.eng g := rfl

/-! ### setFur -/

@[simp] theorem State.setFur_pending (s : State) (f n : Nat) (x : FurrowSt) : (s.setFur f n x).pending = s.pending := rfl
@[simp] theorem State.setFur_freeCtr (s : State) (f n : Nat) (x : FurrowSt) : (s.setFur f n x).freeCtr = s.freeCtr := rfl
@[simp] theorem State.setFur_now (s : State) (f n : Nat) (x : FurrowSt) : (s.setFur f n x).now = s.now := rfl
@[simp] theorem State.setFur_regs (s : State) (f n : Nat) (x : FurrowSt) : (s.setFur f n x).regs = s.regs := rfl
@[simp] theorem State.setFur_rdLatch (s : State) (f n : Nat) (x : FurrowSt) : (s.setFur f n x).rdLatch = s.rdLatch := rfl
@[simp] theorem State.setFur_wrStage (s : State) (f n : Nat) (x : FurrowSt) : (s.setFur f n x).wrStage = s.wrStage := rfl
@[simp] theorem State.setFur_ifLatch (s : State) (f n : Nat) (x : FurrowSt) : (s.setFur f n x).ifLatch = s.ifLatch := rfl
@[simp] theorem State.setFur_rdata (s : State) (f n : Nat) (x : FurrowSt) : (s.setFur f n x).rdata = s.rdata := rfl
@[simp] theorem State.setFur_b2data (s : State) (f n : Nat) (x : FurrowSt) : (s.setFur f n x).b2data = s.b2data := rfl
@[simp] theorem State.setFur_hostMem (s : State) (f n : Nat) (x : FurrowSt) : (s.setFur f n x).hostMem = s.hostMem := rfl
@[simp] theorem State.setFur_msgs (s : State) (f n : Nat) (x : FurrowSt) : (s.setFur f n x).msgs = s.msgs := rfl
@[simp] theorem State.setFur_msixOn (s : State) (f n : Nat) (x : FurrowSt) : (s.setFur f n x).msixOn = s.msixOn := rfl
@[simp] theorem State.setFur_msixOpen (s : State) (f n : Nat) (x : FurrowSt) : (s.setFur f n x).msixOpen = s.msixOpen := rfl
@[simp] theorem State.setFur_msixPend (s : State) (f n : Nat) (x : FurrowSt) : (s.setFur f n x).msixPend = s.msixPend := rfl
@[simp] theorem State.setFur_funcMask (s : State) (f n : Nat) (x : FurrowSt) : (s.setFur f n x).funcMask = s.funcMask := rfl
@[simp] theorem State.setFur_hbm (s : State) (f n : Nat) (x : FurrowSt) : (s.setFur f n x).hbm = s.hbm := rfl
@[simp] theorem State.setFur_hbmBad (s : State) (f n : Nat) (x : FurrowSt) : (s.setFur f n x).hbmBad = s.hbmBad := rfl
@[simp] theorem State.setFur_clearing (s : State) (f n : Nat) (x : FurrowSt) : (s.setFur f n x).clearing = s.clearing := rfl
@[simp] theorem State.setFur_scrubAt (s : State) (f n : Nat) (x : FurrowSt) : (s.setFur f n x).scrubAt = s.scrubAt := rfl
@[simp] theorem State.setFur_sheaf (s : State) (f n : Nat) (x : FurrowSt) : (s.setFur f n x).sheaf = s.sheaf := rfl
@[simp] theorem State.setFur_seedbed (s : State) (f n : Nat) (x : FurrowSt) : (s.setFur f n x).seedbed = s.seedbed := rfl
@[simp] theorem State.setFur_glean (s : State) (f n : Nat) (x : FurrowSt) : (s.setFur f n x).glean = s.glean := rfl
@[simp] theorem State.setFur_streams (s : State) (f n : Nat) (x : FurrowSt) : (s.setFur f n x).streams = s.streams := rfl
@[simp] theorem State.setFur_dma (s : State) (f n : Nat) (x : FurrowSt) : (s.setFur f n x).dma = s.dma := rfl
@[simp] theorem State.setFur_shadows (s : State) (f n : Nat) (x : FurrowSt) : (s.setFur f n x).shadows = s.shadows := rfl
@[simp] theorem State.setFur_sems (s : State) (f n : Nat) (x : FurrowSt) : (s.setFur f n x).sems = s.sems := rfl
@[simp] theorem State.setFur_barriers (s : State) (f n : Nat) (x : FurrowSt) : (s.setFur f n x).barriers = s.barriers := rfl
@[simp] theorem State.setFur_seqRuns (s : State) (f n : Nat) (x : FurrowSt) : (s.setFur f n x).seqRuns = s.seqRuns := rfl
@[simp] theorem State.setFur_ctxs (s : State) (f n : Nat) (x : FurrowSt) : (s.setFur f n x).ctxs = s.ctxs := rfl
@[simp] theorem State.setFur_regions (s : State) (f n : Nat) (x : FurrowSt) : (s.setFur f n x).regions = s.regions := rfl
@[simp] theorem State.setFur_coverage (s : State) (f n : Nat) (x : FurrowSt) : (s.setFur f n x).coverage = s.coverage := rfl
@[simp] theorem State.setFur_fences (s : State) (f n : Nat) (x : FurrowSt) : (s.setFur f n x).fences = s.fences := rfl
@[simp] theorem State.setFur_pairs (s : State) (f n : Nat) (x : FurrowSt) : (s.setFur f n x).pairs = s.pairs := rfl
@[simp] theorem State.setFur_fcolLog (s : State) (f n : Nat) (x : FurrowSt) : (s.setFur f n x).fcolLog = s.fcolLog := rfl
@[simp] theorem State.setFur_hangLog (s : State) (f n : Nat) (x : FurrowSt) : (s.setFur f n x).hangLog = s.hangLog := rfl
@[simp] theorem State.setFur_queues (s : State) (f n : Nat) (x : FurrowSt) : (s.setFur f n x).queues = s.queues := rfl
@[simp] theorem State.setFur_copies (s : State) (f n : Nat) (x : FurrowSt) : (s.setFur f n x).copies = s.copies := rfl
@[simp] theorem State.setFur_ports (s : State) (f n : Nat) (x : FurrowSt) : (s.setFur f n x).ports = s.ports := rfl
@[simp] theorem State.setFur_inbox (s : State) (f n : Nat) (x : FurrowSt) : (s.setFur f n x).inbox = s.inbox := rfl
@[simp] theorem State.setFur_engines (s : State) (f n : Nat) (x : FurrowSt) : (s.setFur f n x).engines = s.engines := rfl
@[simp] theorem State.setFur_serv (s : State) (f n : Nat) (x : FurrowSt) : (s.setFur f n x).serv = s.serv := rfl
@[simp] theorem State.setFur_flash (s : State) (f n : Nat) (x : FurrowSt) : (s.setFur f n x).flash = s.flash := rfl
@[simp] theorem State.setFur_fuses (s : State) (f n : Nat) (x : FurrowSt) : (s.setFur f n x).fuses = s.fuses := rfl
@[simp] theorem State.setFur_staged (s : State) (f n : Nat) (x : FurrowSt) : (s.setFur f n x).staged = s.staged := rfl
@[simp] theorem State.setFur_heldBack (s : State) (f n : Nat) (x : FurrowSt) : (s.setFur f n x).heldBack = s.heldBack := rfl
@[simp] theorem State.setFur_lastMma (s : State) (f n : Nat) (x : FurrowSt) : (s.setFur f n x).lastMma = s.lastMma := rfl
@[simp] theorem State.setFur_sec (s : State) (f n : Nat) (x : FurrowSt) : (s.setFur f n x).sec = s.sec := rfl
@[simp] theorem State.setFur_pwr (s : State) (f n : Nat) (x : FurrowSt) : (s.setFur f n x).pwr = s.pwr := rfl
@[simp] theorem State.setFur_clk (s : State) (f n : Nat) (x : FurrowSt) : (s.setFur f n x).clk = s.clk := rfl
@[simp] theorem State.setFur_mg (s : State) (f n : Nat) (x : FurrowSt) : (s.setFur f n x).mg = s.mg := rfl
@[simp] theorem State.setFur_pins (s : State) (f n : Nat) (x : FurrowSt) : (s.setFur f n x).pins = s.pins := rfl
@[simp] theorem State.setFur_vfs (s : State) (f n : Nat) (x : FurrowSt) : (s.setFur f n x).vfs = s.vfs := rfl
@[simp] theorem State.setFur_bar2Pf (s : State) (f n : Nat) (x : FurrowSt) : (s.setFur f n x).bar2Pf = s.bar2Pf := rfl
@[simp] theorem State.setFur_bar2Vf (s : State) (f n : Nat) (x : FurrowSt) : (s.setFur f n x).bar2Vf = s.bar2Vf := rfl
@[simp] theorem State.setFur_qmLast (s : State) (f n : Nat) (x : FurrowSt) : (s.setFur f n x).qmLast = s.qmLast := rfl
@[simp] theorem State.reg_setFur (s : State) (f n : Nat) (x : FurrowSt) (b : Nat) : (s.setFur f n x).reg b = s.reg b := rfl
@[simp] theorem State.rf_setFur (s : State) (f n : Nat) (x : FurrowSt) (m : Loc) : (s.setFur f n x).rf m = s.rf m := rfl
@[simp] theorem State.st_setFur (s : State) (f n : Nat) (x : FurrowSt) (q : At) : (s.setFur f n x).st q = s.st q := rfl
@[simp] theorem State.ctx_setFur (s : State) (f n : Nat) (x : FurrowSt) (d : Nat) : (s.setFur f n x).ctx d = s.ctx d := rfl
@[simp] theorem State.dmaOf_setFur (s : State) (f n : Nat) (x : FurrowSt) (g : Nat) : (s.setFur f n x).dmaOf g = s.dmaOf g := rfl
@[simp] theorem State.sem_setFur (s : State) (f n : Nat) (x : FurrowSt) (g d m : Nat) : (s.setFur f n x).sem g d m = s.sem g d m := rfl
@[simp] theorem State.seedByte_setFur (s : State) (f n : Nat) (x : FurrowSt) (g m b : Nat) : (s.setFur f n x).seedByte g m b = s.seedByte g m b := rfl
@[simp] theorem State.queue_setFur (s : State) (f n : Nat) (x : FurrowSt) (r : Nat) : (s.setFur f n x).queue r = s.queue r := rfl
@[simp] theorem State.port_setFur (s : State) (f n : Nat) (x : FurrowSt) (j : Nat) : (s.setFur f n x).port j = s.port j := rfl
@[simp] theorem State.eng_setFur (s : State) (f n : Nat) (x : FurrowSt) (g : Nat) : (s.setFur f n x).eng g = s.eng g := rfl

/-! ### setStrm -/

@[simp] theorem State.setStrm_pending (s : State) (f n c k : Nat) (x : StreamSt) : (s.setStrm f n c k x).pending = s.pending := rfl
@[simp] theorem State.setStrm_freeCtr (s : State) (f n c k : Nat) (x : StreamSt) : (s.setStrm f n c k x).freeCtr = s.freeCtr := rfl
@[simp] theorem State.setStrm_now (s : State) (f n c k : Nat) (x : StreamSt) : (s.setStrm f n c k x).now = s.now := rfl
@[simp] theorem State.setStrm_regs (s : State) (f n c k : Nat) (x : StreamSt) : (s.setStrm f n c k x).regs = s.regs := rfl
@[simp] theorem State.setStrm_rdLatch (s : State) (f n c k : Nat) (x : StreamSt) : (s.setStrm f n c k x).rdLatch = s.rdLatch := rfl
@[simp] theorem State.setStrm_wrStage (s : State) (f n c k : Nat) (x : StreamSt) : (s.setStrm f n c k x).wrStage = s.wrStage := rfl
@[simp] theorem State.setStrm_ifLatch (s : State) (f n c k : Nat) (x : StreamSt) : (s.setStrm f n c k x).ifLatch = s.ifLatch := rfl
@[simp] theorem State.setStrm_rdata (s : State) (f n c k : Nat) (x : StreamSt) : (s.setStrm f n c k x).rdata = s.rdata := rfl
@[simp] theorem State.setStrm_b2data (s : State) (f n c k : Nat) (x : StreamSt) : (s.setStrm f n c k x).b2data = s.b2data := rfl
@[simp] theorem State.setStrm_hostMem (s : State) (f n c k : Nat) (x : StreamSt) : (s.setStrm f n c k x).hostMem = s.hostMem := rfl
@[simp] theorem State.setStrm_msgs (s : State) (f n c k : Nat) (x : StreamSt) : (s.setStrm f n c k x).msgs = s.msgs := rfl
@[simp] theorem State.setStrm_msixOn (s : State) (f n c k : Nat) (x : StreamSt) : (s.setStrm f n c k x).msixOn = s.msixOn := rfl
@[simp] theorem State.setStrm_msixOpen (s : State) (f n c k : Nat) (x : StreamSt) : (s.setStrm f n c k x).msixOpen = s.msixOpen := rfl
@[simp] theorem State.setStrm_msixPend (s : State) (f n c k : Nat) (x : StreamSt) : (s.setStrm f n c k x).msixPend = s.msixPend := rfl
@[simp] theorem State.setStrm_funcMask (s : State) (f n c k : Nat) (x : StreamSt) : (s.setStrm f n c k x).funcMask = s.funcMask := rfl
@[simp] theorem State.setStrm_hbm (s : State) (f n c k : Nat) (x : StreamSt) : (s.setStrm f n c k x).hbm = s.hbm := rfl
@[simp] theorem State.setStrm_hbmBad (s : State) (f n c k : Nat) (x : StreamSt) : (s.setStrm f n c k x).hbmBad = s.hbmBad := rfl
@[simp] theorem State.setStrm_clearing (s : State) (f n c k : Nat) (x : StreamSt) : (s.setStrm f n c k x).clearing = s.clearing := rfl
@[simp] theorem State.setStrm_scrubAt (s : State) (f n c k : Nat) (x : StreamSt) : (s.setStrm f n c k x).scrubAt = s.scrubAt := rfl
@[simp] theorem State.setStrm_sheaf (s : State) (f n c k : Nat) (x : StreamSt) : (s.setStrm f n c k x).sheaf = s.sheaf := rfl
@[simp] theorem State.setStrm_seedbed (s : State) (f n c k : Nat) (x : StreamSt) : (s.setStrm f n c k x).seedbed = s.seedbed := rfl
@[simp] theorem State.setStrm_glean (s : State) (f n c k : Nat) (x : StreamSt) : (s.setStrm f n c k x).glean = s.glean := rfl
@[simp] theorem State.setStrm_furrows (s : State) (f n c k : Nat) (x : StreamSt) : (s.setStrm f n c k x).furrows = s.furrows := rfl
@[simp] theorem State.setStrm_dma (s : State) (f n c k : Nat) (x : StreamSt) : (s.setStrm f n c k x).dma = s.dma := rfl
@[simp] theorem State.setStrm_shadows (s : State) (f n c k : Nat) (x : StreamSt) : (s.setStrm f n c k x).shadows = s.shadows := rfl
@[simp] theorem State.setStrm_sems (s : State) (f n c k : Nat) (x : StreamSt) : (s.setStrm f n c k x).sems = s.sems := rfl
@[simp] theorem State.setStrm_barriers (s : State) (f n c k : Nat) (x : StreamSt) : (s.setStrm f n c k x).barriers = s.barriers := rfl
@[simp] theorem State.setStrm_seqRuns (s : State) (f n c k : Nat) (x : StreamSt) : (s.setStrm f n c k x).seqRuns = s.seqRuns := rfl
@[simp] theorem State.setStrm_ctxs (s : State) (f n c k : Nat) (x : StreamSt) : (s.setStrm f n c k x).ctxs = s.ctxs := rfl
@[simp] theorem State.setStrm_regions (s : State) (f n c k : Nat) (x : StreamSt) : (s.setStrm f n c k x).regions = s.regions := rfl
@[simp] theorem State.setStrm_coverage (s : State) (f n c k : Nat) (x : StreamSt) : (s.setStrm f n c k x).coverage = s.coverage := rfl
@[simp] theorem State.setStrm_fences (s : State) (f n c k : Nat) (x : StreamSt) : (s.setStrm f n c k x).fences = s.fences := rfl
@[simp] theorem State.setStrm_pairs (s : State) (f n c k : Nat) (x : StreamSt) : (s.setStrm f n c k x).pairs = s.pairs := rfl
@[simp] theorem State.setStrm_fcolLog (s : State) (f n c k : Nat) (x : StreamSt) : (s.setStrm f n c k x).fcolLog = s.fcolLog := rfl
@[simp] theorem State.setStrm_hangLog (s : State) (f n c k : Nat) (x : StreamSt) : (s.setStrm f n c k x).hangLog = s.hangLog := rfl
@[simp] theorem State.setStrm_queues (s : State) (f n c k : Nat) (x : StreamSt) : (s.setStrm f n c k x).queues = s.queues := rfl
@[simp] theorem State.setStrm_copies (s : State) (f n c k : Nat) (x : StreamSt) : (s.setStrm f n c k x).copies = s.copies := rfl
@[simp] theorem State.setStrm_ports (s : State) (f n c k : Nat) (x : StreamSt) : (s.setStrm f n c k x).ports = s.ports := rfl
@[simp] theorem State.setStrm_inbox (s : State) (f n c k : Nat) (x : StreamSt) : (s.setStrm f n c k x).inbox = s.inbox := rfl
@[simp] theorem State.setStrm_engines (s : State) (f n c k : Nat) (x : StreamSt) : (s.setStrm f n c k x).engines = s.engines := rfl
@[simp] theorem State.setStrm_serv (s : State) (f n c k : Nat) (x : StreamSt) : (s.setStrm f n c k x).serv = s.serv := rfl
@[simp] theorem State.setStrm_flash (s : State) (f n c k : Nat) (x : StreamSt) : (s.setStrm f n c k x).flash = s.flash := rfl
@[simp] theorem State.setStrm_fuses (s : State) (f n c k : Nat) (x : StreamSt) : (s.setStrm f n c k x).fuses = s.fuses := rfl
@[simp] theorem State.setStrm_staged (s : State) (f n c k : Nat) (x : StreamSt) : (s.setStrm f n c k x).staged = s.staged := rfl
@[simp] theorem State.setStrm_heldBack (s : State) (f n c k : Nat) (x : StreamSt) : (s.setStrm f n c k x).heldBack = s.heldBack := rfl
@[simp] theorem State.setStrm_lastMma (s : State) (f n c k : Nat) (x : StreamSt) : (s.setStrm f n c k x).lastMma = s.lastMma := rfl
@[simp] theorem State.setStrm_sec (s : State) (f n c k : Nat) (x : StreamSt) : (s.setStrm f n c k x).sec = s.sec := rfl
@[simp] theorem State.setStrm_pwr (s : State) (f n c k : Nat) (x : StreamSt) : (s.setStrm f n c k x).pwr = s.pwr := rfl
@[simp] theorem State.setStrm_clk (s : State) (f n c k : Nat) (x : StreamSt) : (s.setStrm f n c k x).clk = s.clk := rfl
@[simp] theorem State.setStrm_mg (s : State) (f n c k : Nat) (x : StreamSt) : (s.setStrm f n c k x).mg = s.mg := rfl
@[simp] theorem State.setStrm_pins (s : State) (f n c k : Nat) (x : StreamSt) : (s.setStrm f n c k x).pins = s.pins := rfl
@[simp] theorem State.setStrm_vfs (s : State) (f n c k : Nat) (x : StreamSt) : (s.setStrm f n c k x).vfs = s.vfs := rfl
@[simp] theorem State.setStrm_bar2Pf (s : State) (f n c k : Nat) (x : StreamSt) : (s.setStrm f n c k x).bar2Pf = s.bar2Pf := rfl
@[simp] theorem State.setStrm_bar2Vf (s : State) (f n c k : Nat) (x : StreamSt) : (s.setStrm f n c k x).bar2Vf = s.bar2Vf := rfl
@[simp] theorem State.setStrm_qmLast (s : State) (f n c k : Nat) (x : StreamSt) : (s.setStrm f n c k x).qmLast = s.qmLast := rfl
@[simp] theorem State.reg_setStrm (s : State) (f n c k : Nat) (x : StreamSt) (b : Nat) : (s.setStrm f n c k x).reg b = s.reg b := rfl
@[simp] theorem State.rf_setStrm (s : State) (f n c k : Nat) (x : StreamSt) (m : Loc) : (s.setStrm f n c k x).rf m = s.rf m := rfl
@[simp] theorem State.fur_setStrm (s : State) (f n c k : Nat) (x : StreamSt) (g m : Nat) : (s.setStrm f n c k x).fur g m = s.fur g m := rfl
@[simp] theorem State.ctx_setStrm (s : State) (f n c k : Nat) (x : StreamSt) (d : Nat) : (s.setStrm f n c k x).ctx d = s.ctx d := rfl
@[simp] theorem State.dmaOf_setStrm (s : State) (f n c k : Nat) (x : StreamSt) (g : Nat) : (s.setStrm f n c k x).dmaOf g = s.dmaOf g := rfl
@[simp] theorem State.sem_setStrm (s : State) (f n c k : Nat) (x : StreamSt) (g d m : Nat) : (s.setStrm f n c k x).sem g d m = s.sem g d m := rfl
@[simp] theorem State.seedByte_setStrm (s : State) (f n c k : Nat) (x : StreamSt) (g m b : Nat) : (s.setStrm f n c k x).seedByte g m b = s.seedByte g m b := rfl
@[simp] theorem State.queue_setStrm (s : State) (f n c k : Nat) (x : StreamSt) (r : Nat) : (s.setStrm f n c k x).queue r = s.queue r := rfl
@[simp] theorem State.port_setStrm (s : State) (f n c k : Nat) (x : StreamSt) (j : Nat) : (s.setStrm f n c k x).port j = s.port j := rfl
@[simp] theorem State.eng_setStrm (s : State) (f n c k : Nat) (x : StreamSt) (g : Nat) : (s.setStrm f n c k x).eng g = s.eng g := rfl

/-! ### setSt -/

@[simp] theorem State.setSt_pending (s : State) (p : At) (x : StreamSt) : (s.setSt p x).pending = s.pending := rfl
@[simp] theorem State.setSt_freeCtr (s : State) (p : At) (x : StreamSt) : (s.setSt p x).freeCtr = s.freeCtr := rfl
@[simp] theorem State.setSt_now (s : State) (p : At) (x : StreamSt) : (s.setSt p x).now = s.now := rfl
@[simp] theorem State.setSt_regs (s : State) (p : At) (x : StreamSt) : (s.setSt p x).regs = s.regs := rfl
@[simp] theorem State.setSt_rdLatch (s : State) (p : At) (x : StreamSt) : (s.setSt p x).rdLatch = s.rdLatch := rfl
@[simp] theorem State.setSt_wrStage (s : State) (p : At) (x : StreamSt) : (s.setSt p x).wrStage = s.wrStage := rfl
@[simp] theorem State.setSt_ifLatch (s : State) (p : At) (x : StreamSt) : (s.setSt p x).ifLatch = s.ifLatch := rfl
@[simp] theorem State.setSt_rdata (s : State) (p : At) (x : StreamSt) : (s.setSt p x).rdata = s.rdata := rfl
@[simp] theorem State.setSt_b2data (s : State) (p : At) (x : StreamSt) : (s.setSt p x).b2data = s.b2data := rfl
@[simp] theorem State.setSt_hostMem (s : State) (p : At) (x : StreamSt) : (s.setSt p x).hostMem = s.hostMem := rfl
@[simp] theorem State.setSt_msgs (s : State) (p : At) (x : StreamSt) : (s.setSt p x).msgs = s.msgs := rfl
@[simp] theorem State.setSt_msixOn (s : State) (p : At) (x : StreamSt) : (s.setSt p x).msixOn = s.msixOn := rfl
@[simp] theorem State.setSt_msixOpen (s : State) (p : At) (x : StreamSt) : (s.setSt p x).msixOpen = s.msixOpen := rfl
@[simp] theorem State.setSt_msixPend (s : State) (p : At) (x : StreamSt) : (s.setSt p x).msixPend = s.msixPend := rfl
@[simp] theorem State.setSt_funcMask (s : State) (p : At) (x : StreamSt) : (s.setSt p x).funcMask = s.funcMask := rfl
@[simp] theorem State.setSt_hbm (s : State) (p : At) (x : StreamSt) : (s.setSt p x).hbm = s.hbm := rfl
@[simp] theorem State.setSt_hbmBad (s : State) (p : At) (x : StreamSt) : (s.setSt p x).hbmBad = s.hbmBad := rfl
@[simp] theorem State.setSt_clearing (s : State) (p : At) (x : StreamSt) : (s.setSt p x).clearing = s.clearing := rfl
@[simp] theorem State.setSt_scrubAt (s : State) (p : At) (x : StreamSt) : (s.setSt p x).scrubAt = s.scrubAt := rfl
@[simp] theorem State.setSt_sheaf (s : State) (p : At) (x : StreamSt) : (s.setSt p x).sheaf = s.sheaf := rfl
@[simp] theorem State.setSt_seedbed (s : State) (p : At) (x : StreamSt) : (s.setSt p x).seedbed = s.seedbed := rfl
@[simp] theorem State.setSt_glean (s : State) (p : At) (x : StreamSt) : (s.setSt p x).glean = s.glean := rfl
@[simp] theorem State.setSt_furrows (s : State) (p : At) (x : StreamSt) : (s.setSt p x).furrows = s.furrows := rfl
@[simp] theorem State.setSt_dma (s : State) (p : At) (x : StreamSt) : (s.setSt p x).dma = s.dma := rfl
@[simp] theorem State.setSt_shadows (s : State) (p : At) (x : StreamSt) : (s.setSt p x).shadows = s.shadows := rfl
@[simp] theorem State.setSt_sems (s : State) (p : At) (x : StreamSt) : (s.setSt p x).sems = s.sems := rfl
@[simp] theorem State.setSt_barriers (s : State) (p : At) (x : StreamSt) : (s.setSt p x).barriers = s.barriers := rfl
@[simp] theorem State.setSt_seqRuns (s : State) (p : At) (x : StreamSt) : (s.setSt p x).seqRuns = s.seqRuns := rfl
@[simp] theorem State.setSt_ctxs (s : State) (p : At) (x : StreamSt) : (s.setSt p x).ctxs = s.ctxs := rfl
@[simp] theorem State.setSt_regions (s : State) (p : At) (x : StreamSt) : (s.setSt p x).regions = s.regions := rfl
@[simp] theorem State.setSt_coverage (s : State) (p : At) (x : StreamSt) : (s.setSt p x).coverage = s.coverage := rfl
@[simp] theorem State.setSt_fences (s : State) (p : At) (x : StreamSt) : (s.setSt p x).fences = s.fences := rfl
@[simp] theorem State.setSt_pairs (s : State) (p : At) (x : StreamSt) : (s.setSt p x).pairs = s.pairs := rfl
@[simp] theorem State.setSt_fcolLog (s : State) (p : At) (x : StreamSt) : (s.setSt p x).fcolLog = s.fcolLog := rfl
@[simp] theorem State.setSt_hangLog (s : State) (p : At) (x : StreamSt) : (s.setSt p x).hangLog = s.hangLog := rfl
@[simp] theorem State.setSt_queues (s : State) (p : At) (x : StreamSt) : (s.setSt p x).queues = s.queues := rfl
@[simp] theorem State.setSt_copies (s : State) (p : At) (x : StreamSt) : (s.setSt p x).copies = s.copies := rfl
@[simp] theorem State.setSt_ports (s : State) (p : At) (x : StreamSt) : (s.setSt p x).ports = s.ports := rfl
@[simp] theorem State.setSt_inbox (s : State) (p : At) (x : StreamSt) : (s.setSt p x).inbox = s.inbox := rfl
@[simp] theorem State.setSt_engines (s : State) (p : At) (x : StreamSt) : (s.setSt p x).engines = s.engines := rfl
@[simp] theorem State.setSt_serv (s : State) (p : At) (x : StreamSt) : (s.setSt p x).serv = s.serv := rfl
@[simp] theorem State.setSt_flash (s : State) (p : At) (x : StreamSt) : (s.setSt p x).flash = s.flash := rfl
@[simp] theorem State.setSt_fuses (s : State) (p : At) (x : StreamSt) : (s.setSt p x).fuses = s.fuses := rfl
@[simp] theorem State.setSt_staged (s : State) (p : At) (x : StreamSt) : (s.setSt p x).staged = s.staged := rfl
@[simp] theorem State.setSt_heldBack (s : State) (p : At) (x : StreamSt) : (s.setSt p x).heldBack = s.heldBack := rfl
@[simp] theorem State.setSt_lastMma (s : State) (p : At) (x : StreamSt) : (s.setSt p x).lastMma = s.lastMma := rfl
@[simp] theorem State.setSt_sec (s : State) (p : At) (x : StreamSt) : (s.setSt p x).sec = s.sec := rfl
@[simp] theorem State.setSt_pwr (s : State) (p : At) (x : StreamSt) : (s.setSt p x).pwr = s.pwr := rfl
@[simp] theorem State.setSt_clk (s : State) (p : At) (x : StreamSt) : (s.setSt p x).clk = s.clk := rfl
@[simp] theorem State.setSt_mg (s : State) (p : At) (x : StreamSt) : (s.setSt p x).mg = s.mg := rfl
@[simp] theorem State.setSt_pins (s : State) (p : At) (x : StreamSt) : (s.setSt p x).pins = s.pins := rfl
@[simp] theorem State.setSt_vfs (s : State) (p : At) (x : StreamSt) : (s.setSt p x).vfs = s.vfs := rfl
@[simp] theorem State.setSt_bar2Pf (s : State) (p : At) (x : StreamSt) : (s.setSt p x).bar2Pf = s.bar2Pf := rfl
@[simp] theorem State.setSt_bar2Vf (s : State) (p : At) (x : StreamSt) : (s.setSt p x).bar2Vf = s.bar2Vf := rfl
@[simp] theorem State.setSt_qmLast (s : State) (p : At) (x : StreamSt) : (s.setSt p x).qmLast = s.qmLast := rfl
@[simp] theorem State.reg_setSt (s : State) (p : At) (x : StreamSt) (b : Nat) : (s.setSt p x).reg b = s.reg b := rfl
@[simp] theorem State.rf_setSt (s : State) (p : At) (x : StreamSt) (m : Loc) : (s.setSt p x).rf m = s.rf m := rfl
@[simp] theorem State.fur_setSt (s : State) (p : At) (x : StreamSt) (g m : Nat) : (s.setSt p x).fur g m = s.fur g m := rfl
@[simp] theorem State.ctx_setSt (s : State) (p : At) (x : StreamSt) (d : Nat) : (s.setSt p x).ctx d = s.ctx d := rfl
@[simp] theorem State.dmaOf_setSt (s : State) (p : At) (x : StreamSt) (g : Nat) : (s.setSt p x).dmaOf g = s.dmaOf g := rfl
@[simp] theorem State.sem_setSt (s : State) (p : At) (x : StreamSt) (g d m : Nat) : (s.setSt p x).sem g d m = s.sem g d m := rfl
@[simp] theorem State.seedByte_setSt (s : State) (p : At) (x : StreamSt) (g m b : Nat) : (s.setSt p x).seedByte g m b = s.seedByte g m b := rfl
@[simp] theorem State.queue_setSt (s : State) (p : At) (x : StreamSt) (r : Nat) : (s.setSt p x).queue r = s.queue r := rfl
@[simp] theorem State.port_setSt (s : State) (p : At) (x : StreamSt) (j : Nat) : (s.setSt p x).port j = s.port j := rfl
@[simp] theorem State.eng_setSt (s : State) (p : At) (x : StreamSt) (g : Nat) : (s.setSt p x).eng g = s.eng g := rfl

/-! ### setDma -/

@[simp] theorem State.setDma_pending (s : State) (f : Nat) (x : DmaSt) : (s.setDma f x).pending = s.pending := rfl
@[simp] theorem State.setDma_freeCtr (s : State) (f : Nat) (x : DmaSt) : (s.setDma f x).freeCtr = s.freeCtr := rfl
@[simp] theorem State.setDma_now (s : State) (f : Nat) (x : DmaSt) : (s.setDma f x).now = s.now := rfl
@[simp] theorem State.setDma_regs (s : State) (f : Nat) (x : DmaSt) : (s.setDma f x).regs = s.regs := rfl
@[simp] theorem State.setDma_rdLatch (s : State) (f : Nat) (x : DmaSt) : (s.setDma f x).rdLatch = s.rdLatch := rfl
@[simp] theorem State.setDma_wrStage (s : State) (f : Nat) (x : DmaSt) : (s.setDma f x).wrStage = s.wrStage := rfl
@[simp] theorem State.setDma_ifLatch (s : State) (f : Nat) (x : DmaSt) : (s.setDma f x).ifLatch = s.ifLatch := rfl
@[simp] theorem State.setDma_rdata (s : State) (f : Nat) (x : DmaSt) : (s.setDma f x).rdata = s.rdata := rfl
@[simp] theorem State.setDma_b2data (s : State) (f : Nat) (x : DmaSt) : (s.setDma f x).b2data = s.b2data := rfl
@[simp] theorem State.setDma_hostMem (s : State) (f : Nat) (x : DmaSt) : (s.setDma f x).hostMem = s.hostMem := rfl
@[simp] theorem State.setDma_msgs (s : State) (f : Nat) (x : DmaSt) : (s.setDma f x).msgs = s.msgs := rfl
@[simp] theorem State.setDma_msixOn (s : State) (f : Nat) (x : DmaSt) : (s.setDma f x).msixOn = s.msixOn := rfl
@[simp] theorem State.setDma_msixOpen (s : State) (f : Nat) (x : DmaSt) : (s.setDma f x).msixOpen = s.msixOpen := rfl
@[simp] theorem State.setDma_msixPend (s : State) (f : Nat) (x : DmaSt) : (s.setDma f x).msixPend = s.msixPend := rfl
@[simp] theorem State.setDma_funcMask (s : State) (f : Nat) (x : DmaSt) : (s.setDma f x).funcMask = s.funcMask := rfl
@[simp] theorem State.setDma_hbm (s : State) (f : Nat) (x : DmaSt) : (s.setDma f x).hbm = s.hbm := rfl
@[simp] theorem State.setDma_hbmBad (s : State) (f : Nat) (x : DmaSt) : (s.setDma f x).hbmBad = s.hbmBad := rfl
@[simp] theorem State.setDma_clearing (s : State) (f : Nat) (x : DmaSt) : (s.setDma f x).clearing = s.clearing := rfl
@[simp] theorem State.setDma_scrubAt (s : State) (f : Nat) (x : DmaSt) : (s.setDma f x).scrubAt = s.scrubAt := rfl
@[simp] theorem State.setDma_sheaf (s : State) (f : Nat) (x : DmaSt) : (s.setDma f x).sheaf = s.sheaf := rfl
@[simp] theorem State.setDma_seedbed (s : State) (f : Nat) (x : DmaSt) : (s.setDma f x).seedbed = s.seedbed := rfl
@[simp] theorem State.setDma_glean (s : State) (f : Nat) (x : DmaSt) : (s.setDma f x).glean = s.glean := rfl
@[simp] theorem State.setDma_furrows (s : State) (f : Nat) (x : DmaSt) : (s.setDma f x).furrows = s.furrows := rfl
@[simp] theorem State.setDma_streams (s : State) (f : Nat) (x : DmaSt) : (s.setDma f x).streams = s.streams := rfl
@[simp] theorem State.setDma_shadows (s : State) (f : Nat) (x : DmaSt) : (s.setDma f x).shadows = s.shadows := rfl
@[simp] theorem State.setDma_sems (s : State) (f : Nat) (x : DmaSt) : (s.setDma f x).sems = s.sems := rfl
@[simp] theorem State.setDma_barriers (s : State) (f : Nat) (x : DmaSt) : (s.setDma f x).barriers = s.barriers := rfl
@[simp] theorem State.setDma_seqRuns (s : State) (f : Nat) (x : DmaSt) : (s.setDma f x).seqRuns = s.seqRuns := rfl
@[simp] theorem State.setDma_ctxs (s : State) (f : Nat) (x : DmaSt) : (s.setDma f x).ctxs = s.ctxs := rfl
@[simp] theorem State.setDma_regions (s : State) (f : Nat) (x : DmaSt) : (s.setDma f x).regions = s.regions := rfl
@[simp] theorem State.setDma_coverage (s : State) (f : Nat) (x : DmaSt) : (s.setDma f x).coverage = s.coverage := rfl
@[simp] theorem State.setDma_fences (s : State) (f : Nat) (x : DmaSt) : (s.setDma f x).fences = s.fences := rfl
@[simp] theorem State.setDma_pairs (s : State) (f : Nat) (x : DmaSt) : (s.setDma f x).pairs = s.pairs := rfl
@[simp] theorem State.setDma_fcolLog (s : State) (f : Nat) (x : DmaSt) : (s.setDma f x).fcolLog = s.fcolLog := rfl
@[simp] theorem State.setDma_hangLog (s : State) (f : Nat) (x : DmaSt) : (s.setDma f x).hangLog = s.hangLog := rfl
@[simp] theorem State.setDma_queues (s : State) (f : Nat) (x : DmaSt) : (s.setDma f x).queues = s.queues := rfl
@[simp] theorem State.setDma_copies (s : State) (f : Nat) (x : DmaSt) : (s.setDma f x).copies = s.copies := rfl
@[simp] theorem State.setDma_ports (s : State) (f : Nat) (x : DmaSt) : (s.setDma f x).ports = s.ports := rfl
@[simp] theorem State.setDma_inbox (s : State) (f : Nat) (x : DmaSt) : (s.setDma f x).inbox = s.inbox := rfl
@[simp] theorem State.setDma_engines (s : State) (f : Nat) (x : DmaSt) : (s.setDma f x).engines = s.engines := rfl
@[simp] theorem State.setDma_serv (s : State) (f : Nat) (x : DmaSt) : (s.setDma f x).serv = s.serv := rfl
@[simp] theorem State.setDma_flash (s : State) (f : Nat) (x : DmaSt) : (s.setDma f x).flash = s.flash := rfl
@[simp] theorem State.setDma_fuses (s : State) (f : Nat) (x : DmaSt) : (s.setDma f x).fuses = s.fuses := rfl
@[simp] theorem State.setDma_staged (s : State) (f : Nat) (x : DmaSt) : (s.setDma f x).staged = s.staged := rfl
@[simp] theorem State.setDma_heldBack (s : State) (f : Nat) (x : DmaSt) : (s.setDma f x).heldBack = s.heldBack := rfl
@[simp] theorem State.setDma_lastMma (s : State) (f : Nat) (x : DmaSt) : (s.setDma f x).lastMma = s.lastMma := rfl
@[simp] theorem State.setDma_sec (s : State) (f : Nat) (x : DmaSt) : (s.setDma f x).sec = s.sec := rfl
@[simp] theorem State.setDma_pwr (s : State) (f : Nat) (x : DmaSt) : (s.setDma f x).pwr = s.pwr := rfl
@[simp] theorem State.setDma_clk (s : State) (f : Nat) (x : DmaSt) : (s.setDma f x).clk = s.clk := rfl
@[simp] theorem State.setDma_mg (s : State) (f : Nat) (x : DmaSt) : (s.setDma f x).mg = s.mg := rfl
@[simp] theorem State.setDma_pins (s : State) (f : Nat) (x : DmaSt) : (s.setDma f x).pins = s.pins := rfl
@[simp] theorem State.setDma_vfs (s : State) (f : Nat) (x : DmaSt) : (s.setDma f x).vfs = s.vfs := rfl
@[simp] theorem State.setDma_bar2Pf (s : State) (f : Nat) (x : DmaSt) : (s.setDma f x).bar2Pf = s.bar2Pf := rfl
@[simp] theorem State.setDma_bar2Vf (s : State) (f : Nat) (x : DmaSt) : (s.setDma f x).bar2Vf = s.bar2Vf := rfl
@[simp] theorem State.setDma_qmLast (s : State) (f : Nat) (x : DmaSt) : (s.setDma f x).qmLast = s.qmLast := rfl
@[simp] theorem State.reg_setDma (s : State) (f : Nat) (x : DmaSt) (b : Nat) : (s.setDma f x).reg b = s.reg b := rfl
@[simp] theorem State.rf_setDma (s : State) (f : Nat) (x : DmaSt) (m : Loc) : (s.setDma f x).rf m = s.rf m := rfl
@[simp] theorem State.st_setDma (s : State) (f : Nat) (x : DmaSt) (q : At) : (s.setDma f x).st q = s.st q := rfl
@[simp] theorem State.fur_setDma (s : State) (f : Nat) (x : DmaSt) (g m : Nat) : (s.setDma f x).fur g m = s.fur g m := rfl
@[simp] theorem State.ctx_setDma (s : State) (f : Nat) (x : DmaSt) (d : Nat) : (s.setDma f x).ctx d = s.ctx d := rfl
@[simp] theorem State.sem_setDma (s : State) (f : Nat) (x : DmaSt) (g d m : Nat) : (s.setDma f x).sem g d m = s.sem g d m := rfl
@[simp] theorem State.seedByte_setDma (s : State) (f : Nat) (x : DmaSt) (g m b : Nat) : (s.setDma f x).seedByte g m b = s.seedByte g m b := rfl
@[simp] theorem State.queue_setDma (s : State) (f : Nat) (x : DmaSt) (r : Nat) : (s.setDma f x).queue r = s.queue r := rfl
@[simp] theorem State.port_setDma (s : State) (f : Nat) (x : DmaSt) (j : Nat) : (s.setDma f x).port j = s.port j := rfl
@[simp] theorem State.eng_setDma (s : State) (f : Nat) (x : DmaSt) (g : Nat) : (s.setDma f x).eng g = s.eng g := rfl

/-! ### setSem -/

@[simp] theorem State.setSem_pending (s : State) (f c n v : Nat) : (s.setSem f c n v).pending = s.pending := rfl
@[simp] theorem State.setSem_freeCtr (s : State) (f c n v : Nat) : (s.setSem f c n v).freeCtr = s.freeCtr := rfl
@[simp] theorem State.setSem_now (s : State) (f c n v : Nat) : (s.setSem f c n v).now = s.now := rfl
@[simp] theorem State.setSem_regs (s : State) (f c n v : Nat) : (s.setSem f c n v).regs = s.regs := rfl
@[simp] theorem State.setSem_rdLatch (s : State) (f c n v : Nat) : (s.setSem f c n v).rdLatch = s.rdLatch := rfl
@[simp] theorem State.setSem_wrStage (s : State) (f c n v : Nat) : (s.setSem f c n v).wrStage = s.wrStage := rfl
@[simp] theorem State.setSem_ifLatch (s : State) (f c n v : Nat) : (s.setSem f c n v).ifLatch = s.ifLatch := rfl
@[simp] theorem State.setSem_rdata (s : State) (f c n v : Nat) : (s.setSem f c n v).rdata = s.rdata := rfl
@[simp] theorem State.setSem_b2data (s : State) (f c n v : Nat) : (s.setSem f c n v).b2data = s.b2data := rfl
@[simp] theorem State.setSem_hostMem (s : State) (f c n v : Nat) : (s.setSem f c n v).hostMem = s.hostMem := rfl
@[simp] theorem State.setSem_msgs (s : State) (f c n v : Nat) : (s.setSem f c n v).msgs = s.msgs := rfl
@[simp] theorem State.setSem_msixOn (s : State) (f c n v : Nat) : (s.setSem f c n v).msixOn = s.msixOn := rfl
@[simp] theorem State.setSem_msixOpen (s : State) (f c n v : Nat) : (s.setSem f c n v).msixOpen = s.msixOpen := rfl
@[simp] theorem State.setSem_msixPend (s : State) (f c n v : Nat) : (s.setSem f c n v).msixPend = s.msixPend := rfl
@[simp] theorem State.setSem_funcMask (s : State) (f c n v : Nat) : (s.setSem f c n v).funcMask = s.funcMask := rfl
@[simp] theorem State.setSem_hbm (s : State) (f c n v : Nat) : (s.setSem f c n v).hbm = s.hbm := rfl
@[simp] theorem State.setSem_hbmBad (s : State) (f c n v : Nat) : (s.setSem f c n v).hbmBad = s.hbmBad := rfl
@[simp] theorem State.setSem_clearing (s : State) (f c n v : Nat) : (s.setSem f c n v).clearing = s.clearing := rfl
@[simp] theorem State.setSem_scrubAt (s : State) (f c n v : Nat) : (s.setSem f c n v).scrubAt = s.scrubAt := rfl
@[simp] theorem State.setSem_sheaf (s : State) (f c n v : Nat) : (s.setSem f c n v).sheaf = s.sheaf := rfl
@[simp] theorem State.setSem_seedbed (s : State) (f c n v : Nat) : (s.setSem f c n v).seedbed = s.seedbed := rfl
@[simp] theorem State.setSem_glean (s : State) (f c n v : Nat) : (s.setSem f c n v).glean = s.glean := rfl
@[simp] theorem State.setSem_furrows (s : State) (f c n v : Nat) : (s.setSem f c n v).furrows = s.furrows := rfl
@[simp] theorem State.setSem_streams (s : State) (f c n v : Nat) : (s.setSem f c n v).streams = s.streams := rfl
@[simp] theorem State.setSem_dma (s : State) (f c n v : Nat) : (s.setSem f c n v).dma = s.dma := rfl
@[simp] theorem State.setSem_shadows (s : State) (f c n v : Nat) : (s.setSem f c n v).shadows = s.shadows := rfl
@[simp] theorem State.setSem_barriers (s : State) (f c n v : Nat) : (s.setSem f c n v).barriers = s.barriers := rfl
@[simp] theorem State.setSem_seqRuns (s : State) (f c n v : Nat) : (s.setSem f c n v).seqRuns = s.seqRuns := rfl
@[simp] theorem State.setSem_ctxs (s : State) (f c n v : Nat) : (s.setSem f c n v).ctxs = s.ctxs := rfl
@[simp] theorem State.setSem_regions (s : State) (f c n v : Nat) : (s.setSem f c n v).regions = s.regions := rfl
@[simp] theorem State.setSem_coverage (s : State) (f c n v : Nat) : (s.setSem f c n v).coverage = s.coverage := rfl
@[simp] theorem State.setSem_fences (s : State) (f c n v : Nat) : (s.setSem f c n v).fences = s.fences := rfl
@[simp] theorem State.setSem_pairs (s : State) (f c n v : Nat) : (s.setSem f c n v).pairs = s.pairs := rfl
@[simp] theorem State.setSem_fcolLog (s : State) (f c n v : Nat) : (s.setSem f c n v).fcolLog = s.fcolLog := rfl
@[simp] theorem State.setSem_hangLog (s : State) (f c n v : Nat) : (s.setSem f c n v).hangLog = s.hangLog := rfl
@[simp] theorem State.setSem_queues (s : State) (f c n v : Nat) : (s.setSem f c n v).queues = s.queues := rfl
@[simp] theorem State.setSem_copies (s : State) (f c n v : Nat) : (s.setSem f c n v).copies = s.copies := rfl
@[simp] theorem State.setSem_ports (s : State) (f c n v : Nat) : (s.setSem f c n v).ports = s.ports := rfl
@[simp] theorem State.setSem_inbox (s : State) (f c n v : Nat) : (s.setSem f c n v).inbox = s.inbox := rfl
@[simp] theorem State.setSem_engines (s : State) (f c n v : Nat) : (s.setSem f c n v).engines = s.engines := rfl
@[simp] theorem State.setSem_serv (s : State) (f c n v : Nat) : (s.setSem f c n v).serv = s.serv := rfl
@[simp] theorem State.setSem_flash (s : State) (f c n v : Nat) : (s.setSem f c n v).flash = s.flash := rfl
@[simp] theorem State.setSem_fuses (s : State) (f c n v : Nat) : (s.setSem f c n v).fuses = s.fuses := rfl
@[simp] theorem State.setSem_staged (s : State) (f c n v : Nat) : (s.setSem f c n v).staged = s.staged := rfl
@[simp] theorem State.setSem_heldBack (s : State) (f c n v : Nat) : (s.setSem f c n v).heldBack = s.heldBack := rfl
@[simp] theorem State.setSem_lastMma (s : State) (f c n v : Nat) : (s.setSem f c n v).lastMma = s.lastMma := rfl
@[simp] theorem State.setSem_sec (s : State) (f c n v : Nat) : (s.setSem f c n v).sec = s.sec := rfl
@[simp] theorem State.setSem_pwr (s : State) (f c n v : Nat) : (s.setSem f c n v).pwr = s.pwr := rfl
@[simp] theorem State.setSem_clk (s : State) (f c n v : Nat) : (s.setSem f c n v).clk = s.clk := rfl
@[simp] theorem State.setSem_mg (s : State) (f c n v : Nat) : (s.setSem f c n v).mg = s.mg := rfl
@[simp] theorem State.setSem_pins (s : State) (f c n v : Nat) : (s.setSem f c n v).pins = s.pins := rfl
@[simp] theorem State.setSem_vfs (s : State) (f c n v : Nat) : (s.setSem f c n v).vfs = s.vfs := rfl
@[simp] theorem State.setSem_bar2Pf (s : State) (f c n v : Nat) : (s.setSem f c n v).bar2Pf = s.bar2Pf := rfl
@[simp] theorem State.setSem_bar2Vf (s : State) (f c n v : Nat) : (s.setSem f c n v).bar2Vf = s.bar2Vf := rfl
@[simp] theorem State.setSem_qmLast (s : State) (f c n v : Nat) : (s.setSem f c n v).qmLast = s.qmLast := rfl
@[simp] theorem State.reg_setSem (s : State) (f c n v : Nat) (b : Nat) : (s.setSem f c n v).reg b = s.reg b := rfl
@[simp] theorem State.rf_setSem (s : State) (f c n v : Nat) (m : Loc) : (s.setSem f c n v).rf m = s.rf m := rfl
@[simp] theorem State.st_setSem (s : State) (f c n v : Nat) (q : At) : (s.setSem f c n v).st q = s.st q := rfl
@[simp] theorem State.fur_setSem (s : State) (f c n v : Nat) (g m : Nat) : (s.setSem f c n v).fur g m = s.fur g m := rfl
@[simp] theorem State.ctx_setSem (s : State) (f c n v : Nat) (d : Nat) : (s.setSem f c n v).ctx d = s.ctx d := rfl
@[simp] theorem State.dmaOf_setSem (s : State) (f c n v : Nat) (g : Nat) : (s.setSem f c n v).dmaOf g = s.dmaOf g := rfl
@[simp] theorem State.seedByte_setSem (s : State) (f c n v : Nat) (g m b : Nat) : (s.setSem f c n v).seedByte g m b = s.seedByte g m b := rfl
@[simp] theorem State.queue_setSem (s : State) (f c n v : Nat) (r : Nat) : (s.setSem f c n v).queue r = s.queue r := rfl
@[simp] theorem State.port_setSem (s : State) (f c n v : Nat) (j : Nat) : (s.setSem f c n v).port j = s.port j := rfl
@[simp] theorem State.eng_setSem (s : State) (f c n v : Nat) (g : Nat) : (s.setSem f c n v).eng g = s.eng g := rfl

/-! ### seedWrite -/

@[simp] theorem State.seedWrite_pending (s : State) (f n a : Nat) (bs : List Byte) : (s.seedWrite f n a bs).pending = s.pending := rfl
@[simp] theorem State.seedWrite_freeCtr (s : State) (f n a : Nat) (bs : List Byte) : (s.seedWrite f n a bs).freeCtr = s.freeCtr := rfl
@[simp] theorem State.seedWrite_now (s : State) (f n a : Nat) (bs : List Byte) : (s.seedWrite f n a bs).now = s.now := rfl
@[simp] theorem State.seedWrite_regs (s : State) (f n a : Nat) (bs : List Byte) : (s.seedWrite f n a bs).regs = s.regs := rfl
@[simp] theorem State.seedWrite_rdLatch (s : State) (f n a : Nat) (bs : List Byte) : (s.seedWrite f n a bs).rdLatch = s.rdLatch := rfl
@[simp] theorem State.seedWrite_wrStage (s : State) (f n a : Nat) (bs : List Byte) : (s.seedWrite f n a bs).wrStage = s.wrStage := rfl
@[simp] theorem State.seedWrite_ifLatch (s : State) (f n a : Nat) (bs : List Byte) : (s.seedWrite f n a bs).ifLatch = s.ifLatch := rfl
@[simp] theorem State.seedWrite_rdata (s : State) (f n a : Nat) (bs : List Byte) : (s.seedWrite f n a bs).rdata = s.rdata := rfl
@[simp] theorem State.seedWrite_b2data (s : State) (f n a : Nat) (bs : List Byte) : (s.seedWrite f n a bs).b2data = s.b2data := rfl
@[simp] theorem State.seedWrite_hostMem (s : State) (f n a : Nat) (bs : List Byte) : (s.seedWrite f n a bs).hostMem = s.hostMem := rfl
@[simp] theorem State.seedWrite_msgs (s : State) (f n a : Nat) (bs : List Byte) : (s.seedWrite f n a bs).msgs = s.msgs := rfl
@[simp] theorem State.seedWrite_msixOn (s : State) (f n a : Nat) (bs : List Byte) : (s.seedWrite f n a bs).msixOn = s.msixOn := rfl
@[simp] theorem State.seedWrite_msixOpen (s : State) (f n a : Nat) (bs : List Byte) : (s.seedWrite f n a bs).msixOpen = s.msixOpen := rfl
@[simp] theorem State.seedWrite_msixPend (s : State) (f n a : Nat) (bs : List Byte) : (s.seedWrite f n a bs).msixPend = s.msixPend := rfl
@[simp] theorem State.seedWrite_funcMask (s : State) (f n a : Nat) (bs : List Byte) : (s.seedWrite f n a bs).funcMask = s.funcMask := rfl
@[simp] theorem State.seedWrite_hbm (s : State) (f n a : Nat) (bs : List Byte) : (s.seedWrite f n a bs).hbm = s.hbm := rfl
@[simp] theorem State.seedWrite_hbmBad (s : State) (f n a : Nat) (bs : List Byte) : (s.seedWrite f n a bs).hbmBad = s.hbmBad := rfl
@[simp] theorem State.seedWrite_clearing (s : State) (f n a : Nat) (bs : List Byte) : (s.seedWrite f n a bs).clearing = s.clearing := rfl
@[simp] theorem State.seedWrite_scrubAt (s : State) (f n a : Nat) (bs : List Byte) : (s.seedWrite f n a bs).scrubAt = s.scrubAt := rfl
@[simp] theorem State.seedWrite_sheaf (s : State) (f n a : Nat) (bs : List Byte) : (s.seedWrite f n a bs).sheaf = s.sheaf := rfl
@[simp] theorem State.seedWrite_glean (s : State) (f n a : Nat) (bs : List Byte) : (s.seedWrite f n a bs).glean = s.glean := rfl
@[simp] theorem State.seedWrite_furrows (s : State) (f n a : Nat) (bs : List Byte) : (s.seedWrite f n a bs).furrows = s.furrows := rfl
@[simp] theorem State.seedWrite_streams (s : State) (f n a : Nat) (bs : List Byte) : (s.seedWrite f n a bs).streams = s.streams := rfl
@[simp] theorem State.seedWrite_dma (s : State) (f n a : Nat) (bs : List Byte) : (s.seedWrite f n a bs).dma = s.dma := rfl
@[simp] theorem State.seedWrite_shadows (s : State) (f n a : Nat) (bs : List Byte) : (s.seedWrite f n a bs).shadows = s.shadows := rfl
@[simp] theorem State.seedWrite_sems (s : State) (f n a : Nat) (bs : List Byte) : (s.seedWrite f n a bs).sems = s.sems := rfl
@[simp] theorem State.seedWrite_barriers (s : State) (f n a : Nat) (bs : List Byte) : (s.seedWrite f n a bs).barriers = s.barriers := rfl
@[simp] theorem State.seedWrite_seqRuns (s : State) (f n a : Nat) (bs : List Byte) : (s.seedWrite f n a bs).seqRuns = s.seqRuns := rfl
@[simp] theorem State.seedWrite_ctxs (s : State) (f n a : Nat) (bs : List Byte) : (s.seedWrite f n a bs).ctxs = s.ctxs := rfl
@[simp] theorem State.seedWrite_regions (s : State) (f n a : Nat) (bs : List Byte) : (s.seedWrite f n a bs).regions = s.regions := rfl
@[simp] theorem State.seedWrite_coverage (s : State) (f n a : Nat) (bs : List Byte) : (s.seedWrite f n a bs).coverage = s.coverage := rfl
@[simp] theorem State.seedWrite_fences (s : State) (f n a : Nat) (bs : List Byte) : (s.seedWrite f n a bs).fences = s.fences := rfl
@[simp] theorem State.seedWrite_pairs (s : State) (f n a : Nat) (bs : List Byte) : (s.seedWrite f n a bs).pairs = s.pairs := rfl
@[simp] theorem State.seedWrite_fcolLog (s : State) (f n a : Nat) (bs : List Byte) : (s.seedWrite f n a bs).fcolLog = s.fcolLog := rfl
@[simp] theorem State.seedWrite_hangLog (s : State) (f n a : Nat) (bs : List Byte) : (s.seedWrite f n a bs).hangLog = s.hangLog := rfl
@[simp] theorem State.seedWrite_queues (s : State) (f n a : Nat) (bs : List Byte) : (s.seedWrite f n a bs).queues = s.queues := rfl
@[simp] theorem State.seedWrite_copies (s : State) (f n a : Nat) (bs : List Byte) : (s.seedWrite f n a bs).copies = s.copies := rfl
@[simp] theorem State.seedWrite_ports (s : State) (f n a : Nat) (bs : List Byte) : (s.seedWrite f n a bs).ports = s.ports := rfl
@[simp] theorem State.seedWrite_inbox (s : State) (f n a : Nat) (bs : List Byte) : (s.seedWrite f n a bs).inbox = s.inbox := rfl
@[simp] theorem State.seedWrite_engines (s : State) (f n a : Nat) (bs : List Byte) : (s.seedWrite f n a bs).engines = s.engines := rfl
@[simp] theorem State.seedWrite_serv (s : State) (f n a : Nat) (bs : List Byte) : (s.seedWrite f n a bs).serv = s.serv := rfl
@[simp] theorem State.seedWrite_flash (s : State) (f n a : Nat) (bs : List Byte) : (s.seedWrite f n a bs).flash = s.flash := rfl
@[simp] theorem State.seedWrite_fuses (s : State) (f n a : Nat) (bs : List Byte) : (s.seedWrite f n a bs).fuses = s.fuses := rfl
@[simp] theorem State.seedWrite_staged (s : State) (f n a : Nat) (bs : List Byte) : (s.seedWrite f n a bs).staged = s.staged := rfl
@[simp] theorem State.seedWrite_heldBack (s : State) (f n a : Nat) (bs : List Byte) : (s.seedWrite f n a bs).heldBack = s.heldBack := rfl
@[simp] theorem State.seedWrite_lastMma (s : State) (f n a : Nat) (bs : List Byte) : (s.seedWrite f n a bs).lastMma = s.lastMma := rfl
@[simp] theorem State.seedWrite_sec (s : State) (f n a : Nat) (bs : List Byte) : (s.seedWrite f n a bs).sec = s.sec := rfl
@[simp] theorem State.seedWrite_pwr (s : State) (f n a : Nat) (bs : List Byte) : (s.seedWrite f n a bs).pwr = s.pwr := rfl
@[simp] theorem State.seedWrite_clk (s : State) (f n a : Nat) (bs : List Byte) : (s.seedWrite f n a bs).clk = s.clk := rfl
@[simp] theorem State.seedWrite_mg (s : State) (f n a : Nat) (bs : List Byte) : (s.seedWrite f n a bs).mg = s.mg := rfl
@[simp] theorem State.seedWrite_pins (s : State) (f n a : Nat) (bs : List Byte) : (s.seedWrite f n a bs).pins = s.pins := rfl
@[simp] theorem State.seedWrite_vfs (s : State) (f n a : Nat) (bs : List Byte) : (s.seedWrite f n a bs).vfs = s.vfs := rfl
@[simp] theorem State.seedWrite_bar2Pf (s : State) (f n a : Nat) (bs : List Byte) : (s.seedWrite f n a bs).bar2Pf = s.bar2Pf := rfl
@[simp] theorem State.seedWrite_bar2Vf (s : State) (f n a : Nat) (bs : List Byte) : (s.seedWrite f n a bs).bar2Vf = s.bar2Vf := rfl
@[simp] theorem State.seedWrite_qmLast (s : State) (f n a : Nat) (bs : List Byte) : (s.seedWrite f n a bs).qmLast = s.qmLast := rfl
@[simp] theorem State.reg_seedWrite (s : State) (f n a : Nat) (bs : List Byte) (b : Nat) : (s.seedWrite f n a bs).reg b = s.reg b := rfl
@[simp] theorem State.rf_seedWrite (s : State) (f n a : Nat) (bs : List Byte) (m : Loc) : (s.seedWrite f n a bs).rf m = s.rf m := rfl
@[simp] theorem State.st_seedWrite (s : State) (f n a : Nat) (bs : List Byte) (q : At) : (s.seedWrite f n a bs).st q = s.st q := rfl
@[simp] theorem State.fur_seedWrite (s : State) (f n a : Nat) (bs : List Byte) (g m : Nat) : (s.seedWrite f n a bs).fur g m = s.fur g m := rfl
@[simp] theorem State.ctx_seedWrite (s : State) (f n a : Nat) (bs : List Byte) (d : Nat) : (s.seedWrite f n a bs).ctx d = s.ctx d := rfl
@[simp] theorem State.dmaOf_seedWrite (s : State) (f n a : Nat) (bs : List Byte) (g : Nat) : (s.seedWrite f n a bs).dmaOf g = s.dmaOf g := rfl
@[simp] theorem State.sem_seedWrite (s : State) (f n a : Nat) (bs : List Byte) (g d m : Nat) : (s.seedWrite f n a bs).sem g d m = s.sem g d m := rfl
@[simp] theorem State.queue_seedWrite (s : State) (f n a : Nat) (bs : List Byte) (r : Nat) : (s.seedWrite f n a bs).queue r = s.queue r := rfl
@[simp] theorem State.port_seedWrite (s : State) (f n a : Nat) (bs : List Byte) (j : Nat) : (s.seedWrite f n a bs).port j = s.port j := rfl
@[simp] theorem State.eng_seedWrite (s : State) (f n a : Nat) (bs : List Byte) (g : Nat) : (s.seedWrite f n a bs).eng g = s.eng g := rfl

/-! ### sheafWrite -/

@[simp] theorem State.sheafWrite_pending (s : State) (f a : Nat) (bs : List Byte) : (s.sheafWrite f a bs).pending = s.pending := rfl
@[simp] theorem State.sheafWrite_freeCtr (s : State) (f a : Nat) (bs : List Byte) : (s.sheafWrite f a bs).freeCtr = s.freeCtr := rfl
@[simp] theorem State.sheafWrite_now (s : State) (f a : Nat) (bs : List Byte) : (s.sheafWrite f a bs).now = s.now := rfl
@[simp] theorem State.sheafWrite_regs (s : State) (f a : Nat) (bs : List Byte) : (s.sheafWrite f a bs).regs = s.regs := rfl
@[simp] theorem State.sheafWrite_rdLatch (s : State) (f a : Nat) (bs : List Byte) : (s.sheafWrite f a bs).rdLatch = s.rdLatch := rfl
@[simp] theorem State.sheafWrite_wrStage (s : State) (f a : Nat) (bs : List Byte) : (s.sheafWrite f a bs).wrStage = s.wrStage := rfl
@[simp] theorem State.sheafWrite_ifLatch (s : State) (f a : Nat) (bs : List Byte) : (s.sheafWrite f a bs).ifLatch = s.ifLatch := rfl
@[simp] theorem State.sheafWrite_rdata (s : State) (f a : Nat) (bs : List Byte) : (s.sheafWrite f a bs).rdata = s.rdata := rfl
@[simp] theorem State.sheafWrite_b2data (s : State) (f a : Nat) (bs : List Byte) : (s.sheafWrite f a bs).b2data = s.b2data := rfl
@[simp] theorem State.sheafWrite_hostMem (s : State) (f a : Nat) (bs : List Byte) : (s.sheafWrite f a bs).hostMem = s.hostMem := rfl
@[simp] theorem State.sheafWrite_msgs (s : State) (f a : Nat) (bs : List Byte) : (s.sheafWrite f a bs).msgs = s.msgs := rfl
@[simp] theorem State.sheafWrite_msixOn (s : State) (f a : Nat) (bs : List Byte) : (s.sheafWrite f a bs).msixOn = s.msixOn := rfl
@[simp] theorem State.sheafWrite_msixOpen (s : State) (f a : Nat) (bs : List Byte) : (s.sheafWrite f a bs).msixOpen = s.msixOpen := rfl
@[simp] theorem State.sheafWrite_msixPend (s : State) (f a : Nat) (bs : List Byte) : (s.sheafWrite f a bs).msixPend = s.msixPend := rfl
@[simp] theorem State.sheafWrite_funcMask (s : State) (f a : Nat) (bs : List Byte) : (s.sheafWrite f a bs).funcMask = s.funcMask := rfl
@[simp] theorem State.sheafWrite_hbm (s : State) (f a : Nat) (bs : List Byte) : (s.sheafWrite f a bs).hbm = s.hbm := rfl
@[simp] theorem State.sheafWrite_hbmBad (s : State) (f a : Nat) (bs : List Byte) : (s.sheafWrite f a bs).hbmBad = s.hbmBad := rfl
@[simp] theorem State.sheafWrite_clearing (s : State) (f a : Nat) (bs : List Byte) : (s.sheafWrite f a bs).clearing = s.clearing := rfl
@[simp] theorem State.sheafWrite_scrubAt (s : State) (f a : Nat) (bs : List Byte) : (s.sheafWrite f a bs).scrubAt = s.scrubAt := rfl
@[simp] theorem State.sheafWrite_seedbed (s : State) (f a : Nat) (bs : List Byte) : (s.sheafWrite f a bs).seedbed = s.seedbed := rfl
@[simp] theorem State.sheafWrite_glean (s : State) (f a : Nat) (bs : List Byte) : (s.sheafWrite f a bs).glean = s.glean := rfl
@[simp] theorem State.sheafWrite_furrows (s : State) (f a : Nat) (bs : List Byte) : (s.sheafWrite f a bs).furrows = s.furrows := rfl
@[simp] theorem State.sheafWrite_streams (s : State) (f a : Nat) (bs : List Byte) : (s.sheafWrite f a bs).streams = s.streams := rfl
@[simp] theorem State.sheafWrite_dma (s : State) (f a : Nat) (bs : List Byte) : (s.sheafWrite f a bs).dma = s.dma := rfl
@[simp] theorem State.sheafWrite_shadows (s : State) (f a : Nat) (bs : List Byte) : (s.sheafWrite f a bs).shadows = s.shadows := rfl
@[simp] theorem State.sheafWrite_sems (s : State) (f a : Nat) (bs : List Byte) : (s.sheafWrite f a bs).sems = s.sems := rfl
@[simp] theorem State.sheafWrite_barriers (s : State) (f a : Nat) (bs : List Byte) : (s.sheafWrite f a bs).barriers = s.barriers := rfl
@[simp] theorem State.sheafWrite_seqRuns (s : State) (f a : Nat) (bs : List Byte) : (s.sheafWrite f a bs).seqRuns = s.seqRuns := rfl
@[simp] theorem State.sheafWrite_ctxs (s : State) (f a : Nat) (bs : List Byte) : (s.sheafWrite f a bs).ctxs = s.ctxs := rfl
@[simp] theorem State.sheafWrite_regions (s : State) (f a : Nat) (bs : List Byte) : (s.sheafWrite f a bs).regions = s.regions := rfl
@[simp] theorem State.sheafWrite_coverage (s : State) (f a : Nat) (bs : List Byte) : (s.sheafWrite f a bs).coverage = s.coverage := rfl
@[simp] theorem State.sheafWrite_fences (s : State) (f a : Nat) (bs : List Byte) : (s.sheafWrite f a bs).fences = s.fences := rfl
@[simp] theorem State.sheafWrite_pairs (s : State) (f a : Nat) (bs : List Byte) : (s.sheafWrite f a bs).pairs = s.pairs := rfl
@[simp] theorem State.sheafWrite_fcolLog (s : State) (f a : Nat) (bs : List Byte) : (s.sheafWrite f a bs).fcolLog = s.fcolLog := rfl
@[simp] theorem State.sheafWrite_hangLog (s : State) (f a : Nat) (bs : List Byte) : (s.sheafWrite f a bs).hangLog = s.hangLog := rfl
@[simp] theorem State.sheafWrite_queues (s : State) (f a : Nat) (bs : List Byte) : (s.sheafWrite f a bs).queues = s.queues := rfl
@[simp] theorem State.sheafWrite_copies (s : State) (f a : Nat) (bs : List Byte) : (s.sheafWrite f a bs).copies = s.copies := rfl
@[simp] theorem State.sheafWrite_ports (s : State) (f a : Nat) (bs : List Byte) : (s.sheafWrite f a bs).ports = s.ports := rfl
@[simp] theorem State.sheafWrite_inbox (s : State) (f a : Nat) (bs : List Byte) : (s.sheafWrite f a bs).inbox = s.inbox := rfl
@[simp] theorem State.sheafWrite_engines (s : State) (f a : Nat) (bs : List Byte) : (s.sheafWrite f a bs).engines = s.engines := rfl
@[simp] theorem State.sheafWrite_serv (s : State) (f a : Nat) (bs : List Byte) : (s.sheafWrite f a bs).serv = s.serv := rfl
@[simp] theorem State.sheafWrite_flash (s : State) (f a : Nat) (bs : List Byte) : (s.sheafWrite f a bs).flash = s.flash := rfl
@[simp] theorem State.sheafWrite_fuses (s : State) (f a : Nat) (bs : List Byte) : (s.sheafWrite f a bs).fuses = s.fuses := rfl
@[simp] theorem State.sheafWrite_staged (s : State) (f a : Nat) (bs : List Byte) : (s.sheafWrite f a bs).staged = s.staged := rfl
@[simp] theorem State.sheafWrite_heldBack (s : State) (f a : Nat) (bs : List Byte) : (s.sheafWrite f a bs).heldBack = s.heldBack := rfl
@[simp] theorem State.sheafWrite_lastMma (s : State) (f a : Nat) (bs : List Byte) : (s.sheafWrite f a bs).lastMma = s.lastMma := rfl
@[simp] theorem State.sheafWrite_sec (s : State) (f a : Nat) (bs : List Byte) : (s.sheafWrite f a bs).sec = s.sec := rfl
@[simp] theorem State.sheafWrite_pwr (s : State) (f a : Nat) (bs : List Byte) : (s.sheafWrite f a bs).pwr = s.pwr := rfl
@[simp] theorem State.sheafWrite_clk (s : State) (f a : Nat) (bs : List Byte) : (s.sheafWrite f a bs).clk = s.clk := rfl
@[simp] theorem State.sheafWrite_mg (s : State) (f a : Nat) (bs : List Byte) : (s.sheafWrite f a bs).mg = s.mg := rfl
@[simp] theorem State.sheafWrite_pins (s : State) (f a : Nat) (bs : List Byte) : (s.sheafWrite f a bs).pins = s.pins := rfl
@[simp] theorem State.sheafWrite_vfs (s : State) (f a : Nat) (bs : List Byte) : (s.sheafWrite f a bs).vfs = s.vfs := rfl
@[simp] theorem State.sheafWrite_bar2Pf (s : State) (f a : Nat) (bs : List Byte) : (s.sheafWrite f a bs).bar2Pf = s.bar2Pf := rfl
@[simp] theorem State.sheafWrite_bar2Vf (s : State) (f a : Nat) (bs : List Byte) : (s.sheafWrite f a bs).bar2Vf = s.bar2Vf := rfl
@[simp] theorem State.sheafWrite_qmLast (s : State) (f a : Nat) (bs : List Byte) : (s.sheafWrite f a bs).qmLast = s.qmLast := rfl
@[simp] theorem State.reg_sheafWrite (s : State) (f a : Nat) (bs : List Byte) (b : Nat) : (s.sheafWrite f a bs).reg b = s.reg b := rfl
@[simp] theorem State.rf_sheafWrite (s : State) (f a : Nat) (bs : List Byte) (m : Loc) : (s.sheafWrite f a bs).rf m = s.rf m := rfl
@[simp] theorem State.st_sheafWrite (s : State) (f a : Nat) (bs : List Byte) (q : At) : (s.sheafWrite f a bs).st q = s.st q := rfl
@[simp] theorem State.fur_sheafWrite (s : State) (f a : Nat) (bs : List Byte) (g m : Nat) : (s.sheafWrite f a bs).fur g m = s.fur g m := rfl
@[simp] theorem State.ctx_sheafWrite (s : State) (f a : Nat) (bs : List Byte) (d : Nat) : (s.sheafWrite f a bs).ctx d = s.ctx d := rfl
@[simp] theorem State.dmaOf_sheafWrite (s : State) (f a : Nat) (bs : List Byte) (g : Nat) : (s.sheafWrite f a bs).dmaOf g = s.dmaOf g := rfl
@[simp] theorem State.sem_sheafWrite (s : State) (f a : Nat) (bs : List Byte) (g d m : Nat) : (s.sheafWrite f a bs).sem g d m = s.sem g d m := rfl
@[simp] theorem State.seedByte_sheafWrite (s : State) (f a : Nat) (bs : List Byte) (g m b : Nat) : (s.sheafWrite f a bs).seedByte g m b = s.seedByte g m b := rfl
@[simp] theorem State.queue_sheafWrite (s : State) (f a : Nat) (bs : List Byte) (r : Nat) : (s.sheafWrite f a bs).queue r = s.queue r := rfl
@[simp] theorem State.port_sheafWrite (s : State) (f a : Nat) (bs : List Byte) (j : Nat) : (s.sheafWrite f a bs).port j = s.port j := rfl
@[simp] theorem State.eng_sheafWrite (s : State) (f a : Nat) (bs : List Byte) (g : Nat) : (s.sheafWrite f a bs).eng g = s.eng g := rfl

/-! ### gleanSet -/

@[simp] theorem State.gleanSet_pending (s : State) (f n e : Nat) (x : Word32 × Word32) : (s.gleanSet f n e x).pending = s.pending := rfl
@[simp] theorem State.gleanSet_freeCtr (s : State) (f n e : Nat) (x : Word32 × Word32) : (s.gleanSet f n e x).freeCtr = s.freeCtr := rfl
@[simp] theorem State.gleanSet_now (s : State) (f n e : Nat) (x : Word32 × Word32) : (s.gleanSet f n e x).now = s.now := rfl
@[simp] theorem State.gleanSet_regs (s : State) (f n e : Nat) (x : Word32 × Word32) : (s.gleanSet f n e x).regs = s.regs := rfl
@[simp] theorem State.gleanSet_rdLatch (s : State) (f n e : Nat) (x : Word32 × Word32) : (s.gleanSet f n e x).rdLatch = s.rdLatch := rfl
@[simp] theorem State.gleanSet_wrStage (s : State) (f n e : Nat) (x : Word32 × Word32) : (s.gleanSet f n e x).wrStage = s.wrStage := rfl
@[simp] theorem State.gleanSet_ifLatch (s : State) (f n e : Nat) (x : Word32 × Word32) : (s.gleanSet f n e x).ifLatch = s.ifLatch := rfl
@[simp] theorem State.gleanSet_rdata (s : State) (f n e : Nat) (x : Word32 × Word32) : (s.gleanSet f n e x).rdata = s.rdata := rfl
@[simp] theorem State.gleanSet_b2data (s : State) (f n e : Nat) (x : Word32 × Word32) : (s.gleanSet f n e x).b2data = s.b2data := rfl
@[simp] theorem State.gleanSet_hostMem (s : State) (f n e : Nat) (x : Word32 × Word32) : (s.gleanSet f n e x).hostMem = s.hostMem := rfl
@[simp] theorem State.gleanSet_msgs (s : State) (f n e : Nat) (x : Word32 × Word32) : (s.gleanSet f n e x).msgs = s.msgs := rfl
@[simp] theorem State.gleanSet_msixOn (s : State) (f n e : Nat) (x : Word32 × Word32) : (s.gleanSet f n e x).msixOn = s.msixOn := rfl
@[simp] theorem State.gleanSet_msixOpen (s : State) (f n e : Nat) (x : Word32 × Word32) : (s.gleanSet f n e x).msixOpen = s.msixOpen := rfl
@[simp] theorem State.gleanSet_msixPend (s : State) (f n e : Nat) (x : Word32 × Word32) : (s.gleanSet f n e x).msixPend = s.msixPend := rfl
@[simp] theorem State.gleanSet_funcMask (s : State) (f n e : Nat) (x : Word32 × Word32) : (s.gleanSet f n e x).funcMask = s.funcMask := rfl
@[simp] theorem State.gleanSet_hbm (s : State) (f n e : Nat) (x : Word32 × Word32) : (s.gleanSet f n e x).hbm = s.hbm := rfl
@[simp] theorem State.gleanSet_hbmBad (s : State) (f n e : Nat) (x : Word32 × Word32) : (s.gleanSet f n e x).hbmBad = s.hbmBad := rfl
@[simp] theorem State.gleanSet_clearing (s : State) (f n e : Nat) (x : Word32 × Word32) : (s.gleanSet f n e x).clearing = s.clearing := rfl
@[simp] theorem State.gleanSet_scrubAt (s : State) (f n e : Nat) (x : Word32 × Word32) : (s.gleanSet f n e x).scrubAt = s.scrubAt := rfl
@[simp] theorem State.gleanSet_sheaf (s : State) (f n e : Nat) (x : Word32 × Word32) : (s.gleanSet f n e x).sheaf = s.sheaf := rfl
@[simp] theorem State.gleanSet_seedbed (s : State) (f n e : Nat) (x : Word32 × Word32) : (s.gleanSet f n e x).seedbed = s.seedbed := rfl
@[simp] theorem State.gleanSet_furrows (s : State) (f n e : Nat) (x : Word32 × Word32) : (s.gleanSet f n e x).furrows = s.furrows := rfl
@[simp] theorem State.gleanSet_streams (s : State) (f n e : Nat) (x : Word32 × Word32) : (s.gleanSet f n e x).streams = s.streams := rfl
@[simp] theorem State.gleanSet_dma (s : State) (f n e : Nat) (x : Word32 × Word32) : (s.gleanSet f n e x).dma = s.dma := rfl
@[simp] theorem State.gleanSet_shadows (s : State) (f n e : Nat) (x : Word32 × Word32) : (s.gleanSet f n e x).shadows = s.shadows := rfl
@[simp] theorem State.gleanSet_sems (s : State) (f n e : Nat) (x : Word32 × Word32) : (s.gleanSet f n e x).sems = s.sems := rfl
@[simp] theorem State.gleanSet_barriers (s : State) (f n e : Nat) (x : Word32 × Word32) : (s.gleanSet f n e x).barriers = s.barriers := rfl
@[simp] theorem State.gleanSet_seqRuns (s : State) (f n e : Nat) (x : Word32 × Word32) : (s.gleanSet f n e x).seqRuns = s.seqRuns := rfl
@[simp] theorem State.gleanSet_ctxs (s : State) (f n e : Nat) (x : Word32 × Word32) : (s.gleanSet f n e x).ctxs = s.ctxs := rfl
@[simp] theorem State.gleanSet_regions (s : State) (f n e : Nat) (x : Word32 × Word32) : (s.gleanSet f n e x).regions = s.regions := rfl
@[simp] theorem State.gleanSet_coverage (s : State) (f n e : Nat) (x : Word32 × Word32) : (s.gleanSet f n e x).coverage = s.coverage := rfl
@[simp] theorem State.gleanSet_fences (s : State) (f n e : Nat) (x : Word32 × Word32) : (s.gleanSet f n e x).fences = s.fences := rfl
@[simp] theorem State.gleanSet_pairs (s : State) (f n e : Nat) (x : Word32 × Word32) : (s.gleanSet f n e x).pairs = s.pairs := rfl
@[simp] theorem State.gleanSet_fcolLog (s : State) (f n e : Nat) (x : Word32 × Word32) : (s.gleanSet f n e x).fcolLog = s.fcolLog := rfl
@[simp] theorem State.gleanSet_hangLog (s : State) (f n e : Nat) (x : Word32 × Word32) : (s.gleanSet f n e x).hangLog = s.hangLog := rfl
@[simp] theorem State.gleanSet_queues (s : State) (f n e : Nat) (x : Word32 × Word32) : (s.gleanSet f n e x).queues = s.queues := rfl
@[simp] theorem State.gleanSet_copies (s : State) (f n e : Nat) (x : Word32 × Word32) : (s.gleanSet f n e x).copies = s.copies := rfl
@[simp] theorem State.gleanSet_ports (s : State) (f n e : Nat) (x : Word32 × Word32) : (s.gleanSet f n e x).ports = s.ports := rfl
@[simp] theorem State.gleanSet_inbox (s : State) (f n e : Nat) (x : Word32 × Word32) : (s.gleanSet f n e x).inbox = s.inbox := rfl
@[simp] theorem State.gleanSet_engines (s : State) (f n e : Nat) (x : Word32 × Word32) : (s.gleanSet f n e x).engines = s.engines := rfl
@[simp] theorem State.gleanSet_serv (s : State) (f n e : Nat) (x : Word32 × Word32) : (s.gleanSet f n e x).serv = s.serv := rfl
@[simp] theorem State.gleanSet_flash (s : State) (f n e : Nat) (x : Word32 × Word32) : (s.gleanSet f n e x).flash = s.flash := rfl
@[simp] theorem State.gleanSet_fuses (s : State) (f n e : Nat) (x : Word32 × Word32) : (s.gleanSet f n e x).fuses = s.fuses := rfl
@[simp] theorem State.gleanSet_staged (s : State) (f n e : Nat) (x : Word32 × Word32) : (s.gleanSet f n e x).staged = s.staged := rfl
@[simp] theorem State.gleanSet_heldBack (s : State) (f n e : Nat) (x : Word32 × Word32) : (s.gleanSet f n e x).heldBack = s.heldBack := rfl
@[simp] theorem State.gleanSet_lastMma (s : State) (f n e : Nat) (x : Word32 × Word32) : (s.gleanSet f n e x).lastMma = s.lastMma := rfl
@[simp] theorem State.gleanSet_sec (s : State) (f n e : Nat) (x : Word32 × Word32) : (s.gleanSet f n e x).sec = s.sec := rfl
@[simp] theorem State.gleanSet_pwr (s : State) (f n e : Nat) (x : Word32 × Word32) : (s.gleanSet f n e x).pwr = s.pwr := rfl
@[simp] theorem State.gleanSet_clk (s : State) (f n e : Nat) (x : Word32 × Word32) : (s.gleanSet f n e x).clk = s.clk := rfl
@[simp] theorem State.gleanSet_mg (s : State) (f n e : Nat) (x : Word32 × Word32) : (s.gleanSet f n e x).mg = s.mg := rfl
@[simp] theorem State.gleanSet_pins (s : State) (f n e : Nat) (x : Word32 × Word32) : (s.gleanSet f n e x).pins = s.pins := rfl
@[simp] theorem State.gleanSet_vfs (s : State) (f n e : Nat) (x : Word32 × Word32) : (s.gleanSet f n e x).vfs = s.vfs := rfl
@[simp] theorem State.gleanSet_bar2Pf (s : State) (f n e : Nat) (x : Word32 × Word32) : (s.gleanSet f n e x).bar2Pf = s.bar2Pf := rfl
@[simp] theorem State.gleanSet_bar2Vf (s : State) (f n e : Nat) (x : Word32 × Word32) : (s.gleanSet f n e x).bar2Vf = s.bar2Vf := rfl
@[simp] theorem State.gleanSet_qmLast (s : State) (f n e : Nat) (x : Word32 × Word32) : (s.gleanSet f n e x).qmLast = s.qmLast := rfl
@[simp] theorem State.reg_gleanSet (s : State) (f n e : Nat) (x : Word32 × Word32) (b : Nat) : (s.gleanSet f n e x).reg b = s.reg b := rfl
@[simp] theorem State.rf_gleanSet (s : State) (f n e : Nat) (x : Word32 × Word32) (m : Loc) : (s.gleanSet f n e x).rf m = s.rf m := rfl
@[simp] theorem State.st_gleanSet (s : State) (f n e : Nat) (x : Word32 × Word32) (q : At) : (s.gleanSet f n e x).st q = s.st q := rfl
@[simp] theorem State.fur_gleanSet (s : State) (f n e : Nat) (x : Word32 × Word32) (g m : Nat) : (s.gleanSet f n e x).fur g m = s.fur g m := rfl
@[simp] theorem State.ctx_gleanSet (s : State) (f n e : Nat) (x : Word32 × Word32) (d : Nat) : (s.gleanSet f n e x).ctx d = s.ctx d := rfl
@[simp] theorem State.dmaOf_gleanSet (s : State) (f n e : Nat) (x : Word32 × Word32) (g : Nat) : (s.gleanSet f n e x).dmaOf g = s.dmaOf g := rfl
@[simp] theorem State.sem_gleanSet (s : State) (f n e : Nat) (x : Word32 × Word32) (g d m : Nat) : (s.gleanSet f n e x).sem g d m = s.sem g d m := rfl
@[simp] theorem State.seedByte_gleanSet (s : State) (f n e : Nat) (x : Word32 × Word32) (g m b : Nat) : (s.gleanSet f n e x).seedByte g m b = s.seedByte g m b := rfl
@[simp] theorem State.queue_gleanSet (s : State) (f n e : Nat) (x : Word32 × Word32) (r : Nat) : (s.gleanSet f n e x).queue r = s.queue r := rfl
@[simp] theorem State.port_gleanSet (s : State) (f n e : Nat) (x : Word32 × Word32) (j : Nat) : (s.gleanSet f n e x).port j = s.port j := rfl
@[simp] theorem State.eng_gleanSet (s : State) (f n e : Nat) (x : Word32 × Word32) (g : Nat) : (s.gleanSet f n e x).eng g = s.eng g := rfl

/-! ### hostWrite -/

@[simp] theorem State.hostWrite_pending (s : State) (func a : Nat) (bs : List Byte) : (s.hostWrite func a bs).pending = s.pending := rfl
@[simp] theorem State.hostWrite_freeCtr (s : State) (func a : Nat) (bs : List Byte) : (s.hostWrite func a bs).freeCtr = s.freeCtr := rfl
@[simp] theorem State.hostWrite_now (s : State) (func a : Nat) (bs : List Byte) : (s.hostWrite func a bs).now = s.now := rfl
@[simp] theorem State.hostWrite_regs (s : State) (func a : Nat) (bs : List Byte) : (s.hostWrite func a bs).regs = s.regs := rfl
@[simp] theorem State.hostWrite_rdLatch (s : State) (func a : Nat) (bs : List Byte) : (s.hostWrite func a bs).rdLatch = s.rdLatch := rfl
@[simp] theorem State.hostWrite_wrStage (s : State) (func a : Nat) (bs : List Byte) : (s.hostWrite func a bs).wrStage = s.wrStage := rfl
@[simp] theorem State.hostWrite_ifLatch (s : State) (func a : Nat) (bs : List Byte) : (s.hostWrite func a bs).ifLatch = s.ifLatch := rfl
@[simp] theorem State.hostWrite_rdata (s : State) (func a : Nat) (bs : List Byte) : (s.hostWrite func a bs).rdata = s.rdata := rfl
@[simp] theorem State.hostWrite_b2data (s : State) (func a : Nat) (bs : List Byte) : (s.hostWrite func a bs).b2data = s.b2data := rfl
@[simp] theorem State.hostWrite_msgs (s : State) (func a : Nat) (bs : List Byte) : (s.hostWrite func a bs).msgs = s.msgs := rfl
@[simp] theorem State.hostWrite_msixOn (s : State) (func a : Nat) (bs : List Byte) : (s.hostWrite func a bs).msixOn = s.msixOn := rfl
@[simp] theorem State.hostWrite_msixOpen (s : State) (func a : Nat) (bs : List Byte) : (s.hostWrite func a bs).msixOpen = s.msixOpen := rfl
@[simp] theorem State.hostWrite_msixPend (s : State) (func a : Nat) (bs : List Byte) : (s.hostWrite func a bs).msixPend = s.msixPend := rfl
@[simp] theorem State.hostWrite_funcMask (s : State) (func a : Nat) (bs : List Byte) : (s.hostWrite func a bs).funcMask = s.funcMask := rfl
@[simp] theorem State.hostWrite_hbm (s : State) (func a : Nat) (bs : List Byte) : (s.hostWrite func a bs).hbm = s.hbm := rfl
@[simp] theorem State.hostWrite_hbmBad (s : State) (func a : Nat) (bs : List Byte) : (s.hostWrite func a bs).hbmBad = s.hbmBad := rfl
@[simp] theorem State.hostWrite_clearing (s : State) (func a : Nat) (bs : List Byte) : (s.hostWrite func a bs).clearing = s.clearing := rfl
@[simp] theorem State.hostWrite_scrubAt (s : State) (func a : Nat) (bs : List Byte) : (s.hostWrite func a bs).scrubAt = s.scrubAt := rfl
@[simp] theorem State.hostWrite_sheaf (s : State) (func a : Nat) (bs : List Byte) : (s.hostWrite func a bs).sheaf = s.sheaf := rfl
@[simp] theorem State.hostWrite_seedbed (s : State) (func a : Nat) (bs : List Byte) : (s.hostWrite func a bs).seedbed = s.seedbed := rfl
@[simp] theorem State.hostWrite_glean (s : State) (func a : Nat) (bs : List Byte) : (s.hostWrite func a bs).glean = s.glean := rfl
@[simp] theorem State.hostWrite_furrows (s : State) (func a : Nat) (bs : List Byte) : (s.hostWrite func a bs).furrows = s.furrows := rfl
@[simp] theorem State.hostWrite_streams (s : State) (func a : Nat) (bs : List Byte) : (s.hostWrite func a bs).streams = s.streams := rfl
@[simp] theorem State.hostWrite_dma (s : State) (func a : Nat) (bs : List Byte) : (s.hostWrite func a bs).dma = s.dma := rfl
@[simp] theorem State.hostWrite_shadows (s : State) (func a : Nat) (bs : List Byte) : (s.hostWrite func a bs).shadows = s.shadows := rfl
@[simp] theorem State.hostWrite_sems (s : State) (func a : Nat) (bs : List Byte) : (s.hostWrite func a bs).sems = s.sems := rfl
@[simp] theorem State.hostWrite_barriers (s : State) (func a : Nat) (bs : List Byte) : (s.hostWrite func a bs).barriers = s.barriers := rfl
@[simp] theorem State.hostWrite_seqRuns (s : State) (func a : Nat) (bs : List Byte) : (s.hostWrite func a bs).seqRuns = s.seqRuns := rfl
@[simp] theorem State.hostWrite_ctxs (s : State) (func a : Nat) (bs : List Byte) : (s.hostWrite func a bs).ctxs = s.ctxs := rfl
@[simp] theorem State.hostWrite_regions (s : State) (func a : Nat) (bs : List Byte) : (s.hostWrite func a bs).regions = s.regions := rfl
@[simp] theorem State.hostWrite_coverage (s : State) (func a : Nat) (bs : List Byte) : (s.hostWrite func a bs).coverage = s.coverage := rfl
@[simp] theorem State.hostWrite_fences (s : State) (func a : Nat) (bs : List Byte) : (s.hostWrite func a bs).fences = s.fences := rfl
@[simp] theorem State.hostWrite_pairs (s : State) (func a : Nat) (bs : List Byte) : (s.hostWrite func a bs).pairs = s.pairs := rfl
@[simp] theorem State.hostWrite_fcolLog (s : State) (func a : Nat) (bs : List Byte) : (s.hostWrite func a bs).fcolLog = s.fcolLog := rfl
@[simp] theorem State.hostWrite_hangLog (s : State) (func a : Nat) (bs : List Byte) : (s.hostWrite func a bs).hangLog = s.hangLog := rfl
@[simp] theorem State.hostWrite_queues (s : State) (func a : Nat) (bs : List Byte) : (s.hostWrite func a bs).queues = s.queues := rfl
@[simp] theorem State.hostWrite_copies (s : State) (func a : Nat) (bs : List Byte) : (s.hostWrite func a bs).copies = s.copies := rfl
@[simp] theorem State.hostWrite_ports (s : State) (func a : Nat) (bs : List Byte) : (s.hostWrite func a bs).ports = s.ports := rfl
@[simp] theorem State.hostWrite_inbox (s : State) (func a : Nat) (bs : List Byte) : (s.hostWrite func a bs).inbox = s.inbox := rfl
@[simp] theorem State.hostWrite_engines (s : State) (func a : Nat) (bs : List Byte) : (s.hostWrite func a bs).engines = s.engines := rfl
@[simp] theorem State.hostWrite_serv (s : State) (func a : Nat) (bs : List Byte) : (s.hostWrite func a bs).serv = s.serv := rfl
@[simp] theorem State.hostWrite_flash (s : State) (func a : Nat) (bs : List Byte) : (s.hostWrite func a bs).flash = s.flash := rfl
@[simp] theorem State.hostWrite_fuses (s : State) (func a : Nat) (bs : List Byte) : (s.hostWrite func a bs).fuses = s.fuses := rfl
@[simp] theorem State.hostWrite_staged (s : State) (func a : Nat) (bs : List Byte) : (s.hostWrite func a bs).staged = s.staged := rfl
@[simp] theorem State.hostWrite_heldBack (s : State) (func a : Nat) (bs : List Byte) : (s.hostWrite func a bs).heldBack = s.heldBack := rfl
@[simp] theorem State.hostWrite_lastMma (s : State) (func a : Nat) (bs : List Byte) : (s.hostWrite func a bs).lastMma = s.lastMma := rfl
@[simp] theorem State.hostWrite_sec (s : State) (func a : Nat) (bs : List Byte) : (s.hostWrite func a bs).sec = s.sec := rfl
@[simp] theorem State.hostWrite_pwr (s : State) (func a : Nat) (bs : List Byte) : (s.hostWrite func a bs).pwr = s.pwr := rfl
@[simp] theorem State.hostWrite_clk (s : State) (func a : Nat) (bs : List Byte) : (s.hostWrite func a bs).clk = s.clk := rfl
@[simp] theorem State.hostWrite_mg (s : State) (func a : Nat) (bs : List Byte) : (s.hostWrite func a bs).mg = s.mg := rfl
@[simp] theorem State.hostWrite_pins (s : State) (func a : Nat) (bs : List Byte) : (s.hostWrite func a bs).pins = s.pins := rfl
@[simp] theorem State.hostWrite_vfs (s : State) (func a : Nat) (bs : List Byte) : (s.hostWrite func a bs).vfs = s.vfs := rfl
@[simp] theorem State.hostWrite_bar2Pf (s : State) (func a : Nat) (bs : List Byte) : (s.hostWrite func a bs).bar2Pf = s.bar2Pf := rfl
@[simp] theorem State.hostWrite_bar2Vf (s : State) (func a : Nat) (bs : List Byte) : (s.hostWrite func a bs).bar2Vf = s.bar2Vf := rfl
@[simp] theorem State.hostWrite_qmLast (s : State) (func a : Nat) (bs : List Byte) : (s.hostWrite func a bs).qmLast = s.qmLast := rfl
@[simp] theorem State.reg_hostWrite (s : State) (func a : Nat) (bs : List Byte) (b : Nat) : (s.hostWrite func a bs).reg b = s.reg b := rfl
@[simp] theorem State.rf_hostWrite (s : State) (func a : Nat) (bs : List Byte) (m : Loc) : (s.hostWrite func a bs).rf m = s.rf m := rfl
@[simp] theorem State.st_hostWrite (s : State) (func a : Nat) (bs : List Byte) (q : At) : (s.hostWrite func a bs).st q = s.st q := rfl
@[simp] theorem State.fur_hostWrite (s : State) (func a : Nat) (bs : List Byte) (g m : Nat) : (s.hostWrite func a bs).fur g m = s.fur g m := rfl
@[simp] theorem State.ctx_hostWrite (s : State) (func a : Nat) (bs : List Byte) (d : Nat) : (s.hostWrite func a bs).ctx d = s.ctx d := rfl
@[simp] theorem State.dmaOf_hostWrite (s : State) (func a : Nat) (bs : List Byte) (g : Nat) : (s.hostWrite func a bs).dmaOf g = s.dmaOf g := rfl
@[simp] theorem State.sem_hostWrite (s : State) (func a : Nat) (bs : List Byte) (g d m : Nat) : (s.hostWrite func a bs).sem g d m = s.sem g d m := rfl
@[simp] theorem State.seedByte_hostWrite (s : State) (func a : Nat) (bs : List Byte) (g m b : Nat) : (s.hostWrite func a bs).seedByte g m b = s.seedByte g m b := rfl
@[simp] theorem State.queue_hostWrite (s : State) (func a : Nat) (bs : List Byte) (r : Nat) : (s.hostWrite func a bs).queue r = s.queue r := rfl
@[simp] theorem State.port_hostWrite (s : State) (func a : Nat) (bs : List Byte) (j : Nat) : (s.hostWrite func a bs).port j = s.port j := rfl
@[simp] theorem State.eng_hostWrite (s : State) (func a : Nat) (bs : List Byte) (g : Nat) : (s.hostWrite func a bs).eng g = s.eng g := rfl

/-! ### setPort -/

@[simp] theorem State.setPort_pending (s : State) (p : Nat) (x : PortSt) : (s.setPort p x).pending = s.pending := rfl
@[simp] theorem State.setPort_freeCtr (s : State) (p : Nat) (x : PortSt) : (s.setPort p x).freeCtr = s.freeCtr := rfl
@[simp] theorem State.setPort_now (s : State) (p : Nat) (x : PortSt) : (s.setPort p x).now = s.now := rfl
@[simp] theorem State.setPort_regs (s : State) (p : Nat) (x : PortSt) : (s.setPort p x).regs = s.regs := rfl
@[simp] theorem State.setPort_rdLatch (s : State) (p : Nat) (x : PortSt) : (s.setPort p x).rdLatch = s.rdLatch := rfl
@[simp] theorem State.setPort_wrStage (s : State) (p : Nat) (x : PortSt) : (s.setPort p x).wrStage = s.wrStage := rfl
@[simp] theorem State.setPort_ifLatch (s : State) (p : Nat) (x : PortSt) : (s.setPort p x).ifLatch = s.ifLatch := rfl
@[simp] theorem State.setPort_rdata (s : State) (p : Nat) (x : PortSt) : (s.setPort p x).rdata = s.rdata := rfl
@[simp] theorem State.setPort_b2data (s : State) (p : Nat) (x : PortSt) : (s.setPort p x).b2data = s.b2data := rfl
@[simp] theorem State.setPort_hostMem (s : State) (p : Nat) (x : PortSt) : (s.setPort p x).hostMem = s.hostMem := rfl
@[simp] theorem State.setPort_msgs (s : State) (p : Nat) (x : PortSt) : (s.setPort p x).msgs = s.msgs := rfl
@[simp] theorem State.setPort_msixOn (s : State) (p : Nat) (x : PortSt) : (s.setPort p x).msixOn = s.msixOn := rfl
@[simp] theorem State.setPort_msixOpen (s : State) (p : Nat) (x : PortSt) : (s.setPort p x).msixOpen = s.msixOpen := rfl
@[simp] theorem State.setPort_msixPend (s : State) (p : Nat) (x : PortSt) : (s.setPort p x).msixPend = s.msixPend := rfl
@[simp] theorem State.setPort_funcMask (s : State) (p : Nat) (x : PortSt) : (s.setPort p x).funcMask = s.funcMask := rfl
@[simp] theorem State.setPort_hbm (s : State) (p : Nat) (x : PortSt) : (s.setPort p x).hbm = s.hbm := rfl
@[simp] theorem State.setPort_hbmBad (s : State) (p : Nat) (x : PortSt) : (s.setPort p x).hbmBad = s.hbmBad := rfl
@[simp] theorem State.setPort_clearing (s : State) (p : Nat) (x : PortSt) : (s.setPort p x).clearing = s.clearing := rfl
@[simp] theorem State.setPort_scrubAt (s : State) (p : Nat) (x : PortSt) : (s.setPort p x).scrubAt = s.scrubAt := rfl
@[simp] theorem State.setPort_sheaf (s : State) (p : Nat) (x : PortSt) : (s.setPort p x).sheaf = s.sheaf := rfl
@[simp] theorem State.setPort_seedbed (s : State) (p : Nat) (x : PortSt) : (s.setPort p x).seedbed = s.seedbed := rfl
@[simp] theorem State.setPort_glean (s : State) (p : Nat) (x : PortSt) : (s.setPort p x).glean = s.glean := rfl
@[simp] theorem State.setPort_furrows (s : State) (p : Nat) (x : PortSt) : (s.setPort p x).furrows = s.furrows := rfl
@[simp] theorem State.setPort_streams (s : State) (p : Nat) (x : PortSt) : (s.setPort p x).streams = s.streams := rfl
@[simp] theorem State.setPort_dma (s : State) (p : Nat) (x : PortSt) : (s.setPort p x).dma = s.dma := rfl
@[simp] theorem State.setPort_shadows (s : State) (p : Nat) (x : PortSt) : (s.setPort p x).shadows = s.shadows := rfl
@[simp] theorem State.setPort_sems (s : State) (p : Nat) (x : PortSt) : (s.setPort p x).sems = s.sems := rfl
@[simp] theorem State.setPort_barriers (s : State) (p : Nat) (x : PortSt) : (s.setPort p x).barriers = s.barriers := rfl
@[simp] theorem State.setPort_seqRuns (s : State) (p : Nat) (x : PortSt) : (s.setPort p x).seqRuns = s.seqRuns := rfl
@[simp] theorem State.setPort_ctxs (s : State) (p : Nat) (x : PortSt) : (s.setPort p x).ctxs = s.ctxs := rfl
@[simp] theorem State.setPort_regions (s : State) (p : Nat) (x : PortSt) : (s.setPort p x).regions = s.regions := rfl
@[simp] theorem State.setPort_coverage (s : State) (p : Nat) (x : PortSt) : (s.setPort p x).coverage = s.coverage := rfl
@[simp] theorem State.setPort_fences (s : State) (p : Nat) (x : PortSt) : (s.setPort p x).fences = s.fences := rfl
@[simp] theorem State.setPort_pairs (s : State) (p : Nat) (x : PortSt) : (s.setPort p x).pairs = s.pairs := rfl
@[simp] theorem State.setPort_fcolLog (s : State) (p : Nat) (x : PortSt) : (s.setPort p x).fcolLog = s.fcolLog := rfl
@[simp] theorem State.setPort_hangLog (s : State) (p : Nat) (x : PortSt) : (s.setPort p x).hangLog = s.hangLog := rfl
@[simp] theorem State.setPort_queues (s : State) (p : Nat) (x : PortSt) : (s.setPort p x).queues = s.queues := rfl
@[simp] theorem State.setPort_copies (s : State) (p : Nat) (x : PortSt) : (s.setPort p x).copies = s.copies := rfl
@[simp] theorem State.setPort_inbox (s : State) (p : Nat) (x : PortSt) : (s.setPort p x).inbox = s.inbox := rfl
@[simp] theorem State.setPort_engines (s : State) (p : Nat) (x : PortSt) : (s.setPort p x).engines = s.engines := rfl
@[simp] theorem State.setPort_serv (s : State) (p : Nat) (x : PortSt) : (s.setPort p x).serv = s.serv := rfl
@[simp] theorem State.setPort_flash (s : State) (p : Nat) (x : PortSt) : (s.setPort p x).flash = s.flash := rfl
@[simp] theorem State.setPort_fuses (s : State) (p : Nat) (x : PortSt) : (s.setPort p x).fuses = s.fuses := rfl
@[simp] theorem State.setPort_staged (s : State) (p : Nat) (x : PortSt) : (s.setPort p x).staged = s.staged := rfl
@[simp] theorem State.setPort_heldBack (s : State) (p : Nat) (x : PortSt) : (s.setPort p x).heldBack = s.heldBack := rfl
@[simp] theorem State.setPort_lastMma (s : State) (p : Nat) (x : PortSt) : (s.setPort p x).lastMma = s.lastMma := rfl
@[simp] theorem State.setPort_sec (s : State) (p : Nat) (x : PortSt) : (s.setPort p x).sec = s.sec := rfl
@[simp] theorem State.setPort_pwr (s : State) (p : Nat) (x : PortSt) : (s.setPort p x).pwr = s.pwr := rfl
@[simp] theorem State.setPort_clk (s : State) (p : Nat) (x : PortSt) : (s.setPort p x).clk = s.clk := rfl
@[simp] theorem State.setPort_mg (s : State) (p : Nat) (x : PortSt) : (s.setPort p x).mg = s.mg := rfl
@[simp] theorem State.setPort_pins (s : State) (p : Nat) (x : PortSt) : (s.setPort p x).pins = s.pins := rfl
@[simp] theorem State.setPort_vfs (s : State) (p : Nat) (x : PortSt) : (s.setPort p x).vfs = s.vfs := rfl
@[simp] theorem State.setPort_bar2Pf (s : State) (p : Nat) (x : PortSt) : (s.setPort p x).bar2Pf = s.bar2Pf := rfl
@[simp] theorem State.setPort_bar2Vf (s : State) (p : Nat) (x : PortSt) : (s.setPort p x).bar2Vf = s.bar2Vf := rfl
@[simp] theorem State.setPort_qmLast (s : State) (p : Nat) (x : PortSt) : (s.setPort p x).qmLast = s.qmLast := rfl
@[simp] theorem State.reg_setPort (s : State) (p : Nat) (x : PortSt) (b : Nat) : (s.setPort p x).reg b = s.reg b := rfl
@[simp] theorem State.rf_setPort (s : State) (p : Nat) (x : PortSt) (m : Loc) : (s.setPort p x).rf m = s.rf m := rfl
@[simp] theorem State.st_setPort (s : State) (p : Nat) (x : PortSt) (q : At) : (s.setPort p x).st q = s.st q := rfl
@[simp] theorem State.fur_setPort (s : State) (p : Nat) (x : PortSt) (g m : Nat) : (s.setPort p x).fur g m = s.fur g m := rfl
@[simp] theorem State.ctx_setPort (s : State) (p : Nat) (x : PortSt) (d : Nat) : (s.setPort p x).ctx d = s.ctx d := rfl
@[simp] theorem State.dmaOf_setPort (s : State) (p : Nat) (x : PortSt) (g : Nat) : (s.setPort p x).dmaOf g = s.dmaOf g := rfl
@[simp] theorem State.sem_setPort (s : State) (p : Nat) (x : PortSt) (g d m : Nat) : (s.setPort p x).sem g d m = s.sem g d m := rfl
@[simp] theorem State.seedByte_setPort (s : State) (p : Nat) (x : PortSt) (g m b : Nat) : (s.setPort p x).seedByte g m b = s.seedByte g m b := rfl
@[simp] theorem State.queue_setPort (s : State) (p : Nat) (x : PortSt) (r : Nat) : (s.setPort p x).queue r = s.queue r := rfl
@[simp] theorem State.eng_setPort (s : State) (p : Nat) (x : PortSt) (g : Nat) : (s.setPort p x).eng g = s.eng g := rfl

/-! ### setEng -/

@[simp] theorem State.setEng_pending (s : State) (f : Nat) (x : ColEng) : (s.setEng f x).pending = s.pending := rfl
@[simp] theorem State.setEng_freeCtr (s : State) (f : Nat) (x : ColEng) : (s.setEng f x).freeCtr = s.freeCtr := rfl
@[simp] theorem State.setEng_now (s : State) (f : Nat) (x : ColEng) : (s.setEng f x).now = s.now := rfl
@[simp] theorem State.setEng_regs (s : State) (f : Nat) (x : ColEng) : (s.setEng f x).regs = s.regs := rfl
@[simp] theorem State.setEng_rdLatch (s : State) (f : Nat) (x : ColEng) : (s.setEng f x).rdLatch = s.rdLatch := rfl
@[simp] theorem State.setEng_wrStage (s : State) (f : Nat) (x : ColEng) : (s.setEng f x).wrStage = s.wrStage := rfl
@[simp] theorem State.setEng_ifLatch (s : State) (f : Nat) (x : ColEng) : (s.setEng f x).ifLatch = s.ifLatch := rfl
@[simp] theorem State.setEng_rdata (s : State) (f : Nat) (x : ColEng) : (s.setEng f x).rdata = s.rdata := rfl
@[simp] theorem State.setEng_b2data (s : State) (f : Nat) (x : ColEng) : (s.setEng f x).b2data = s.b2data := rfl
@[simp] theorem State.setEng_hostMem (s : State) (f : Nat) (x : ColEng) : (s.setEng f x).hostMem = s.hostMem := rfl
@[simp] theorem State.setEng_msgs (s : State) (f : Nat) (x : ColEng) : (s.setEng f x).msgs = s.msgs := rfl
@[simp] theorem State.setEng_msixOn (s : State) (f : Nat) (x : ColEng) : (s.setEng f x).msixOn = s.msixOn := rfl
@[simp] theorem State.setEng_msixOpen (s : State) (f : Nat) (x : ColEng) : (s.setEng f x).msixOpen = s.msixOpen := rfl
@[simp] theorem State.setEng_msixPend (s : State) (f : Nat) (x : ColEng) : (s.setEng f x).msixPend = s.msixPend := rfl
@[simp] theorem State.setEng_funcMask (s : State) (f : Nat) (x : ColEng) : (s.setEng f x).funcMask = s.funcMask := rfl
@[simp] theorem State.setEng_hbm (s : State) (f : Nat) (x : ColEng) : (s.setEng f x).hbm = s.hbm := rfl
@[simp] theorem State.setEng_hbmBad (s : State) (f : Nat) (x : ColEng) : (s.setEng f x).hbmBad = s.hbmBad := rfl
@[simp] theorem State.setEng_clearing (s : State) (f : Nat) (x : ColEng) : (s.setEng f x).clearing = s.clearing := rfl
@[simp] theorem State.setEng_scrubAt (s : State) (f : Nat) (x : ColEng) : (s.setEng f x).scrubAt = s.scrubAt := rfl
@[simp] theorem State.setEng_sheaf (s : State) (f : Nat) (x : ColEng) : (s.setEng f x).sheaf = s.sheaf := rfl
@[simp] theorem State.setEng_seedbed (s : State) (f : Nat) (x : ColEng) : (s.setEng f x).seedbed = s.seedbed := rfl
@[simp] theorem State.setEng_glean (s : State) (f : Nat) (x : ColEng) : (s.setEng f x).glean = s.glean := rfl
@[simp] theorem State.setEng_furrows (s : State) (f : Nat) (x : ColEng) : (s.setEng f x).furrows = s.furrows := rfl
@[simp] theorem State.setEng_streams (s : State) (f : Nat) (x : ColEng) : (s.setEng f x).streams = s.streams := rfl
@[simp] theorem State.setEng_dma (s : State) (f : Nat) (x : ColEng) : (s.setEng f x).dma = s.dma := rfl
@[simp] theorem State.setEng_shadows (s : State) (f : Nat) (x : ColEng) : (s.setEng f x).shadows = s.shadows := rfl
@[simp] theorem State.setEng_sems (s : State) (f : Nat) (x : ColEng) : (s.setEng f x).sems = s.sems := rfl
@[simp] theorem State.setEng_barriers (s : State) (f : Nat) (x : ColEng) : (s.setEng f x).barriers = s.barriers := rfl
@[simp] theorem State.setEng_seqRuns (s : State) (f : Nat) (x : ColEng) : (s.setEng f x).seqRuns = s.seqRuns := rfl
@[simp] theorem State.setEng_ctxs (s : State) (f : Nat) (x : ColEng) : (s.setEng f x).ctxs = s.ctxs := rfl
@[simp] theorem State.setEng_regions (s : State) (f : Nat) (x : ColEng) : (s.setEng f x).regions = s.regions := rfl
@[simp] theorem State.setEng_coverage (s : State) (f : Nat) (x : ColEng) : (s.setEng f x).coverage = s.coverage := rfl
@[simp] theorem State.setEng_fences (s : State) (f : Nat) (x : ColEng) : (s.setEng f x).fences = s.fences := rfl
@[simp] theorem State.setEng_pairs (s : State) (f : Nat) (x : ColEng) : (s.setEng f x).pairs = s.pairs := rfl
@[simp] theorem State.setEng_fcolLog (s : State) (f : Nat) (x : ColEng) : (s.setEng f x).fcolLog = s.fcolLog := rfl
@[simp] theorem State.setEng_hangLog (s : State) (f : Nat) (x : ColEng) : (s.setEng f x).hangLog = s.hangLog := rfl
@[simp] theorem State.setEng_queues (s : State) (f : Nat) (x : ColEng) : (s.setEng f x).queues = s.queues := rfl
@[simp] theorem State.setEng_copies (s : State) (f : Nat) (x : ColEng) : (s.setEng f x).copies = s.copies := rfl
@[simp] theorem State.setEng_ports (s : State) (f : Nat) (x : ColEng) : (s.setEng f x).ports = s.ports := rfl
@[simp] theorem State.setEng_inbox (s : State) (f : Nat) (x : ColEng) : (s.setEng f x).inbox = s.inbox := rfl
@[simp] theorem State.setEng_serv (s : State) (f : Nat) (x : ColEng) : (s.setEng f x).serv = s.serv := rfl
@[simp] theorem State.setEng_flash (s : State) (f : Nat) (x : ColEng) : (s.setEng f x).flash = s.flash := rfl
@[simp] theorem State.setEng_fuses (s : State) (f : Nat) (x : ColEng) : (s.setEng f x).fuses = s.fuses := rfl
@[simp] theorem State.setEng_staged (s : State) (f : Nat) (x : ColEng) : (s.setEng f x).staged = s.staged := rfl
@[simp] theorem State.setEng_heldBack (s : State) (f : Nat) (x : ColEng) : (s.setEng f x).heldBack = s.heldBack := rfl
@[simp] theorem State.setEng_lastMma (s : State) (f : Nat) (x : ColEng) : (s.setEng f x).lastMma = s.lastMma := rfl
@[simp] theorem State.setEng_sec (s : State) (f : Nat) (x : ColEng) : (s.setEng f x).sec = s.sec := rfl
@[simp] theorem State.setEng_pwr (s : State) (f : Nat) (x : ColEng) : (s.setEng f x).pwr = s.pwr := rfl
@[simp] theorem State.setEng_clk (s : State) (f : Nat) (x : ColEng) : (s.setEng f x).clk = s.clk := rfl
@[simp] theorem State.setEng_mg (s : State) (f : Nat) (x : ColEng) : (s.setEng f x).mg = s.mg := rfl
@[simp] theorem State.setEng_pins (s : State) (f : Nat) (x : ColEng) : (s.setEng f x).pins = s.pins := rfl
@[simp] theorem State.setEng_vfs (s : State) (f : Nat) (x : ColEng) : (s.setEng f x).vfs = s.vfs := rfl
@[simp] theorem State.setEng_bar2Pf (s : State) (f : Nat) (x : ColEng) : (s.setEng f x).bar2Pf = s.bar2Pf := rfl
@[simp] theorem State.setEng_bar2Vf (s : State) (f : Nat) (x : ColEng) : (s.setEng f x).bar2Vf = s.bar2Vf := rfl
@[simp] theorem State.setEng_qmLast (s : State) (f : Nat) (x : ColEng) : (s.setEng f x).qmLast = s.qmLast := rfl
@[simp] theorem State.reg_setEng (s : State) (f : Nat) (x : ColEng) (b : Nat) : (s.setEng f x).reg b = s.reg b := rfl
@[simp] theorem State.rf_setEng (s : State) (f : Nat) (x : ColEng) (m : Loc) : (s.setEng f x).rf m = s.rf m := rfl
@[simp] theorem State.st_setEng (s : State) (f : Nat) (x : ColEng) (q : At) : (s.setEng f x).st q = s.st q := rfl
@[simp] theorem State.fur_setEng (s : State) (f : Nat) (x : ColEng) (g m : Nat) : (s.setEng f x).fur g m = s.fur g m := rfl
@[simp] theorem State.ctx_setEng (s : State) (f : Nat) (x : ColEng) (d : Nat) : (s.setEng f x).ctx d = s.ctx d := rfl
@[simp] theorem State.dmaOf_setEng (s : State) (f : Nat) (x : ColEng) (g : Nat) : (s.setEng f x).dmaOf g = s.dmaOf g := rfl
@[simp] theorem State.sem_setEng (s : State) (f : Nat) (x : ColEng) (g d m : Nat) : (s.setEng f x).sem g d m = s.sem g d m := rfl
@[simp] theorem State.seedByte_setEng (s : State) (f : Nat) (x : ColEng) (g m b : Nat) : (s.setEng f x).seedByte g m b = s.seedByte g m b := rfl
@[simp] theorem State.queue_setEng (s : State) (f : Nat) (x : ColEng) (r : Nat) : (s.setEng f x).queue r = s.queue r := rfl
@[simp] theorem State.port_setEng (s : State) (f : Nat) (x : ColEng) (j : Nat) : (s.setEng f x).port j = s.port j := rfl

/-! ### setSrv -/

@[simp] theorem State.setSrv_pending (s : State) (c : Nat) (x : ServSt) : (s.setSrv c x).pending = s.pending := rfl
@[simp] theorem State.setSrv_freeCtr (s : State) (c : Nat) (x : ServSt) : (s.setSrv c x).freeCtr = s.freeCtr := rfl
@[simp] theorem State.setSrv_now (s : State) (c : Nat) (x : ServSt) : (s.setSrv c x).now = s.now := rfl
@[simp] theorem State.setSrv_regs (s : State) (c : Nat) (x : ServSt) : (s.setSrv c x).regs = s.regs := rfl
@[simp] theorem State.setSrv_rdLatch (s : State) (c : Nat) (x : ServSt) : (s.setSrv c x).rdLatch = s.rdLatch := rfl
@[simp] theorem State.setSrv_wrStage (s : State) (c : Nat) (x : ServSt) : (s.setSrv c x).wrStage = s.wrStage := rfl
@[simp] theorem State.setSrv_ifLatch (s : State) (c : Nat) (x : ServSt) : (s.setSrv c x).ifLatch = s.ifLatch := rfl
@[simp] theorem State.setSrv_rdata (s : State) (c : Nat) (x : ServSt) : (s.setSrv c x).rdata = s.rdata := rfl
@[simp] theorem State.setSrv_b2data (s : State) (c : Nat) (x : ServSt) : (s.setSrv c x).b2data = s.b2data := rfl
@[simp] theorem State.setSrv_hostMem (s : State) (c : Nat) (x : ServSt) : (s.setSrv c x).hostMem = s.hostMem := rfl
@[simp] theorem State.setSrv_msgs (s : State) (c : Nat) (x : ServSt) : (s.setSrv c x).msgs = s.msgs := rfl
@[simp] theorem State.setSrv_msixOn (s : State) (c : Nat) (x : ServSt) : (s.setSrv c x).msixOn = s.msixOn := rfl
@[simp] theorem State.setSrv_msixOpen (s : State) (c : Nat) (x : ServSt) : (s.setSrv c x).msixOpen = s.msixOpen := rfl
@[simp] theorem State.setSrv_msixPend (s : State) (c : Nat) (x : ServSt) : (s.setSrv c x).msixPend = s.msixPend := rfl
@[simp] theorem State.setSrv_funcMask (s : State) (c : Nat) (x : ServSt) : (s.setSrv c x).funcMask = s.funcMask := rfl
@[simp] theorem State.setSrv_hbm (s : State) (c : Nat) (x : ServSt) : (s.setSrv c x).hbm = s.hbm := rfl
@[simp] theorem State.setSrv_hbmBad (s : State) (c : Nat) (x : ServSt) : (s.setSrv c x).hbmBad = s.hbmBad := rfl
@[simp] theorem State.setSrv_clearing (s : State) (c : Nat) (x : ServSt) : (s.setSrv c x).clearing = s.clearing := rfl
@[simp] theorem State.setSrv_scrubAt (s : State) (c : Nat) (x : ServSt) : (s.setSrv c x).scrubAt = s.scrubAt := rfl
@[simp] theorem State.setSrv_sheaf (s : State) (c : Nat) (x : ServSt) : (s.setSrv c x).sheaf = s.sheaf := rfl
@[simp] theorem State.setSrv_seedbed (s : State) (c : Nat) (x : ServSt) : (s.setSrv c x).seedbed = s.seedbed := rfl
@[simp] theorem State.setSrv_glean (s : State) (c : Nat) (x : ServSt) : (s.setSrv c x).glean = s.glean := rfl
@[simp] theorem State.setSrv_furrows (s : State) (c : Nat) (x : ServSt) : (s.setSrv c x).furrows = s.furrows := rfl
@[simp] theorem State.setSrv_streams (s : State) (c : Nat) (x : ServSt) : (s.setSrv c x).streams = s.streams := rfl
@[simp] theorem State.setSrv_dma (s : State) (c : Nat) (x : ServSt) : (s.setSrv c x).dma = s.dma := rfl
@[simp] theorem State.setSrv_shadows (s : State) (c : Nat) (x : ServSt) : (s.setSrv c x).shadows = s.shadows := rfl
@[simp] theorem State.setSrv_sems (s : State) (c : Nat) (x : ServSt) : (s.setSrv c x).sems = s.sems := rfl
@[simp] theorem State.setSrv_barriers (s : State) (c : Nat) (x : ServSt) : (s.setSrv c x).barriers = s.barriers := rfl
@[simp] theorem State.setSrv_seqRuns (s : State) (c : Nat) (x : ServSt) : (s.setSrv c x).seqRuns = s.seqRuns := rfl
@[simp] theorem State.setSrv_ctxs (s : State) (c : Nat) (x : ServSt) : (s.setSrv c x).ctxs = s.ctxs := rfl
@[simp] theorem State.setSrv_regions (s : State) (c : Nat) (x : ServSt) : (s.setSrv c x).regions = s.regions := rfl
@[simp] theorem State.setSrv_coverage (s : State) (c : Nat) (x : ServSt) : (s.setSrv c x).coverage = s.coverage := rfl
@[simp] theorem State.setSrv_fences (s : State) (c : Nat) (x : ServSt) : (s.setSrv c x).fences = s.fences := rfl
@[simp] theorem State.setSrv_pairs (s : State) (c : Nat) (x : ServSt) : (s.setSrv c x).pairs = s.pairs := rfl
@[simp] theorem State.setSrv_fcolLog (s : State) (c : Nat) (x : ServSt) : (s.setSrv c x).fcolLog = s.fcolLog := rfl
@[simp] theorem State.setSrv_hangLog (s : State) (c : Nat) (x : ServSt) : (s.setSrv c x).hangLog = s.hangLog := rfl
@[simp] theorem State.setSrv_queues (s : State) (c : Nat) (x : ServSt) : (s.setSrv c x).queues = s.queues := rfl
@[simp] theorem State.setSrv_copies (s : State) (c : Nat) (x : ServSt) : (s.setSrv c x).copies = s.copies := rfl
@[simp] theorem State.setSrv_ports (s : State) (c : Nat) (x : ServSt) : (s.setSrv c x).ports = s.ports := rfl
@[simp] theorem State.setSrv_inbox (s : State) (c : Nat) (x : ServSt) : (s.setSrv c x).inbox = s.inbox := rfl
@[simp] theorem State.setSrv_engines (s : State) (c : Nat) (x : ServSt) : (s.setSrv c x).engines = s.engines := rfl
@[simp] theorem State.setSrv_flash (s : State) (c : Nat) (x : ServSt) : (s.setSrv c x).flash = s.flash := rfl
@[simp] theorem State.setSrv_fuses (s : State) (c : Nat) (x : ServSt) : (s.setSrv c x).fuses = s.fuses := rfl
@[simp] theorem State.setSrv_staged (s : State) (c : Nat) (x : ServSt) : (s.setSrv c x).staged = s.staged := rfl
@[simp] theorem State.setSrv_heldBack (s : State) (c : Nat) (x : ServSt) : (s.setSrv c x).heldBack = s.heldBack := rfl
@[simp] theorem State.setSrv_lastMma (s : State) (c : Nat) (x : ServSt) : (s.setSrv c x).lastMma = s.lastMma := rfl
@[simp] theorem State.setSrv_sec (s : State) (c : Nat) (x : ServSt) : (s.setSrv c x).sec = s.sec := rfl
@[simp] theorem State.setSrv_pwr (s : State) (c : Nat) (x : ServSt) : (s.setSrv c x).pwr = s.pwr := rfl
@[simp] theorem State.setSrv_clk (s : State) (c : Nat) (x : ServSt) : (s.setSrv c x).clk = s.clk := rfl
@[simp] theorem State.setSrv_mg (s : State) (c : Nat) (x : ServSt) : (s.setSrv c x).mg = s.mg := rfl
@[simp] theorem State.setSrv_pins (s : State) (c : Nat) (x : ServSt) : (s.setSrv c x).pins = s.pins := rfl
@[simp] theorem State.setSrv_vfs (s : State) (c : Nat) (x : ServSt) : (s.setSrv c x).vfs = s.vfs := rfl
@[simp] theorem State.setSrv_bar2Pf (s : State) (c : Nat) (x : ServSt) : (s.setSrv c x).bar2Pf = s.bar2Pf := rfl
@[simp] theorem State.setSrv_bar2Vf (s : State) (c : Nat) (x : ServSt) : (s.setSrv c x).bar2Vf = s.bar2Vf := rfl
@[simp] theorem State.setSrv_qmLast (s : State) (c : Nat) (x : ServSt) : (s.setSrv c x).qmLast = s.qmLast := rfl
@[simp] theorem State.reg_setSrv (s : State) (c : Nat) (x : ServSt) (b : Nat) : (s.setSrv c x).reg b = s.reg b := rfl
@[simp] theorem State.rf_setSrv (s : State) (c : Nat) (x : ServSt) (m : Loc) : (s.setSrv c x).rf m = s.rf m := rfl
@[simp] theorem State.st_setSrv (s : State) (c : Nat) (x : ServSt) (q : At) : (s.setSrv c x).st q = s.st q := rfl
@[simp] theorem State.fur_setSrv (s : State) (c : Nat) (x : ServSt) (g m : Nat) : (s.setSrv c x).fur g m = s.fur g m := rfl
@[simp] theorem State.ctx_setSrv (s : State) (c : Nat) (x : ServSt) (d : Nat) : (s.setSrv c x).ctx d = s.ctx d := rfl
@[simp] theorem State.dmaOf_setSrv (s : State) (c : Nat) (x : ServSt) (g : Nat) : (s.setSrv c x).dmaOf g = s.dmaOf g := rfl
@[simp] theorem State.sem_setSrv (s : State) (c : Nat) (x : ServSt) (g d m : Nat) : (s.setSrv c x).sem g d m = s.sem g d m := rfl
@[simp] theorem State.seedByte_setSrv (s : State) (c : Nat) (x : ServSt) (g m b : Nat) : (s.setSrv c x).seedByte g m b = s.seedByte g m b := rfl
@[simp] theorem State.queue_setSrv (s : State) (c : Nat) (x : ServSt) (r : Nat) : (s.setSrv c x).queue r = s.queue r := rfl
@[simp] theorem State.port_setSrv (s : State) (c : Nat) (x : ServSt) (j : Nat) : (s.setSrv c x).port j = s.port j := rfl
@[simp] theorem State.eng_setSrv (s : State) (c : Nat) (x : ServSt) (g : Nat) : (s.setSrv c x).eng g = s.eng g := rfl

/-! ### setRegion -/

@[simp] theorem State.setRegion_pending (s : State) (i : Nat) (x : Region) : (s.setRegion i x).pending = s.pending := rfl
@[simp] theorem State.setRegion_freeCtr (s : State) (i : Nat) (x : Region) : (s.setRegion i x).freeCtr = s.freeCtr := rfl
@[simp] theorem State.setRegion_now (s : State) (i : Nat) (x : Region) : (s.setRegion i x).now = s.now := rfl
@[simp] theorem State.setRegion_regs (s : State) (i : Nat) (x : Region) : (s.setRegion i x).regs = s.regs := rfl
@[simp] theorem State.setRegion_rdLatch (s : State) (i : Nat) (x : Region) : (s.setRegion i x).rdLatch = s.rdLatch := rfl
@[simp] theorem State.setRegion_wrStage (s : State) (i : Nat) (x : Region) : (s.setRegion i x).wrStage = s.wrStage := rfl
@[simp] theorem State.setRegion_ifLatch (s : State) (i : Nat) (x : Region) : (s.setRegion i x).ifLatch = s.ifLatch := rfl
@[simp] theorem State.setRegion_rdata (s : State) (i : Nat) (x : Region) : (s.setRegion i x).rdata = s.rdata := rfl
@[simp] theorem State.setRegion_b2data (s : State) (i : Nat) (x : Region) : (s.setRegion i x).b2data = s.b2data := rfl
@[simp] theorem State.setRegion_hostMem (s : State) (i : Nat) (x : Region) : (s.setRegion i x).hostMem = s.hostMem := rfl
@[simp] theorem State.setRegion_msgs (s : State) (i : Nat) (x : Region) : (s.setRegion i x).msgs = s.msgs := rfl
@[simp] theorem State.setRegion_msixOn (s : State) (i : Nat) (x : Region) : (s.setRegion i x).msixOn = s.msixOn := rfl
@[simp] theorem State.setRegion_msixOpen (s : State) (i : Nat) (x : Region) : (s.setRegion i x).msixOpen = s.msixOpen := rfl
@[simp] theorem State.setRegion_msixPend (s : State) (i : Nat) (x : Region) : (s.setRegion i x).msixPend = s.msixPend := rfl
@[simp] theorem State.setRegion_funcMask (s : State) (i : Nat) (x : Region) : (s.setRegion i x).funcMask = s.funcMask := rfl
@[simp] theorem State.setRegion_hbm (s : State) (i : Nat) (x : Region) : (s.setRegion i x).hbm = s.hbm := rfl
@[simp] theorem State.setRegion_hbmBad (s : State) (i : Nat) (x : Region) : (s.setRegion i x).hbmBad = s.hbmBad := rfl
@[simp] theorem State.setRegion_clearing (s : State) (i : Nat) (x : Region) : (s.setRegion i x).clearing = s.clearing := rfl
@[simp] theorem State.setRegion_scrubAt (s : State) (i : Nat) (x : Region) : (s.setRegion i x).scrubAt = s.scrubAt := rfl
@[simp] theorem State.setRegion_sheaf (s : State) (i : Nat) (x : Region) : (s.setRegion i x).sheaf = s.sheaf := rfl
@[simp] theorem State.setRegion_seedbed (s : State) (i : Nat) (x : Region) : (s.setRegion i x).seedbed = s.seedbed := rfl
@[simp] theorem State.setRegion_glean (s : State) (i : Nat) (x : Region) : (s.setRegion i x).glean = s.glean := rfl
@[simp] theorem State.setRegion_furrows (s : State) (i : Nat) (x : Region) : (s.setRegion i x).furrows = s.furrows := rfl
@[simp] theorem State.setRegion_streams (s : State) (i : Nat) (x : Region) : (s.setRegion i x).streams = s.streams := rfl
@[simp] theorem State.setRegion_dma (s : State) (i : Nat) (x : Region) : (s.setRegion i x).dma = s.dma := rfl
@[simp] theorem State.setRegion_shadows (s : State) (i : Nat) (x : Region) : (s.setRegion i x).shadows = s.shadows := rfl
@[simp] theorem State.setRegion_sems (s : State) (i : Nat) (x : Region) : (s.setRegion i x).sems = s.sems := rfl
@[simp] theorem State.setRegion_barriers (s : State) (i : Nat) (x : Region) : (s.setRegion i x).barriers = s.barriers := rfl
@[simp] theorem State.setRegion_seqRuns (s : State) (i : Nat) (x : Region) : (s.setRegion i x).seqRuns = s.seqRuns := rfl
@[simp] theorem State.setRegion_ctxs (s : State) (i : Nat) (x : Region) : (s.setRegion i x).ctxs = s.ctxs := rfl
@[simp] theorem State.setRegion_coverage (s : State) (i : Nat) (x : Region) : (s.setRegion i x).coverage = s.coverage := rfl
@[simp] theorem State.setRegion_fences (s : State) (i : Nat) (x : Region) : (s.setRegion i x).fences = s.fences := rfl
@[simp] theorem State.setRegion_pairs (s : State) (i : Nat) (x : Region) : (s.setRegion i x).pairs = s.pairs := rfl
@[simp] theorem State.setRegion_fcolLog (s : State) (i : Nat) (x : Region) : (s.setRegion i x).fcolLog = s.fcolLog := rfl
@[simp] theorem State.setRegion_hangLog (s : State) (i : Nat) (x : Region) : (s.setRegion i x).hangLog = s.hangLog := rfl
@[simp] theorem State.setRegion_queues (s : State) (i : Nat) (x : Region) : (s.setRegion i x).queues = s.queues := rfl
@[simp] theorem State.setRegion_copies (s : State) (i : Nat) (x : Region) : (s.setRegion i x).copies = s.copies := rfl
@[simp] theorem State.setRegion_ports (s : State) (i : Nat) (x : Region) : (s.setRegion i x).ports = s.ports := rfl
@[simp] theorem State.setRegion_inbox (s : State) (i : Nat) (x : Region) : (s.setRegion i x).inbox = s.inbox := rfl
@[simp] theorem State.setRegion_engines (s : State) (i : Nat) (x : Region) : (s.setRegion i x).engines = s.engines := rfl
@[simp] theorem State.setRegion_serv (s : State) (i : Nat) (x : Region) : (s.setRegion i x).serv = s.serv := rfl
@[simp] theorem State.setRegion_flash (s : State) (i : Nat) (x : Region) : (s.setRegion i x).flash = s.flash := rfl
@[simp] theorem State.setRegion_fuses (s : State) (i : Nat) (x : Region) : (s.setRegion i x).fuses = s.fuses := rfl
@[simp] theorem State.setRegion_staged (s : State) (i : Nat) (x : Region) : (s.setRegion i x).staged = s.staged := rfl
@[simp] theorem State.setRegion_heldBack (s : State) (i : Nat) (x : Region) : (s.setRegion i x).heldBack = s.heldBack := rfl
@[simp] theorem State.setRegion_lastMma (s : State) (i : Nat) (x : Region) : (s.setRegion i x).lastMma = s.lastMma := rfl
@[simp] theorem State.setRegion_sec (s : State) (i : Nat) (x : Region) : (s.setRegion i x).sec = s.sec := rfl
@[simp] theorem State.setRegion_pwr (s : State) (i : Nat) (x : Region) : (s.setRegion i x).pwr = s.pwr := rfl
@[simp] theorem State.setRegion_clk (s : State) (i : Nat) (x : Region) : (s.setRegion i x).clk = s.clk := rfl
@[simp] theorem State.setRegion_mg (s : State) (i : Nat) (x : Region) : (s.setRegion i x).mg = s.mg := rfl
@[simp] theorem State.setRegion_pins (s : State) (i : Nat) (x : Region) : (s.setRegion i x).pins = s.pins := rfl
@[simp] theorem State.setRegion_vfs (s : State) (i : Nat) (x : Region) : (s.setRegion i x).vfs = s.vfs := rfl
@[simp] theorem State.setRegion_bar2Pf (s : State) (i : Nat) (x : Region) : (s.setRegion i x).bar2Pf = s.bar2Pf := rfl
@[simp] theorem State.setRegion_bar2Vf (s : State) (i : Nat) (x : Region) : (s.setRegion i x).bar2Vf = s.bar2Vf := rfl
@[simp] theorem State.setRegion_qmLast (s : State) (i : Nat) (x : Region) : (s.setRegion i x).qmLast = s.qmLast := rfl
@[simp] theorem State.reg_setRegion (s : State) (i : Nat) (x : Region) (b : Nat) : (s.setRegion i x).reg b = s.reg b := rfl
@[simp] theorem State.rf_setRegion (s : State) (i : Nat) (x : Region) (m : Loc) : (s.setRegion i x).rf m = s.rf m := rfl
@[simp] theorem State.st_setRegion (s : State) (i : Nat) (x : Region) (q : At) : (s.setRegion i x).st q = s.st q := rfl
@[simp] theorem State.fur_setRegion (s : State) (i : Nat) (x : Region) (g m : Nat) : (s.setRegion i x).fur g m = s.fur g m := rfl
@[simp] theorem State.ctx_setRegion (s : State) (i : Nat) (x : Region) (d : Nat) : (s.setRegion i x).ctx d = s.ctx d := rfl
@[simp] theorem State.dmaOf_setRegion (s : State) (i : Nat) (x : Region) (g : Nat) : (s.setRegion i x).dmaOf g = s.dmaOf g := rfl
@[simp] theorem State.sem_setRegion (s : State) (i : Nat) (x : Region) (g d m : Nat) : (s.setRegion i x).sem g d m = s.sem g d m := rfl
@[simp] theorem State.seedByte_setRegion (s : State) (i : Nat) (x : Region) (g m b : Nat) : (s.setRegion i x).seedByte g m b = s.seedByte g m b := rfl
@[simp] theorem State.queue_setRegion (s : State) (i : Nat) (x : Region) (r : Nat) : (s.setRegion i x).queue r = s.queue r := rfl
@[simp] theorem State.port_setRegion (s : State) (i : Nat) (x : Region) (j : Nat) : (s.setRegion i x).port j = s.port j := rfl
@[simp] theorem State.eng_setRegion (s : State) (i : Nat) (x : Region) (g : Nat) : (s.setRegion i x).eng g = s.eng g := rfl

/-! ### setPair -/

@[simp] theorem State.setPair_pending (s : State) (k : Nat) (x : PairSt) : (s.setPair k x).pending = s.pending := rfl
@[simp] theorem State.setPair_freeCtr (s : State) (k : Nat) (x : PairSt) : (s.setPair k x).freeCtr = s.freeCtr := rfl
@[simp] theorem State.setPair_now (s : State) (k : Nat) (x : PairSt) : (s.setPair k x).now = s.now := rfl
@[simp] theorem State.setPair_regs (s : State) (k : Nat) (x : PairSt) : (s.setPair k x).regs = s.regs := rfl
@[simp] theorem State.setPair_rdLatch (s : State) (k : Nat) (x : PairSt) : (s.setPair k x).rdLatch = s.rdLatch := rfl
@[simp] theorem State.setPair_wrStage (s : State) (k : Nat) (x : PairSt) : (s.setPair k x).wrStage = s.wrStage := rfl
@[simp] theorem State.setPair_ifLatch (s : State) (k : Nat) (x : PairSt) : (s.setPair k x).ifLatch = s.ifLatch := rfl
@[simp] theorem State.setPair_rdata (s : State) (k : Nat) (x : PairSt) : (s.setPair k x).rdata = s.rdata := rfl
@[simp] theorem State.setPair_b2data (s : State) (k : Nat) (x : PairSt) : (s.setPair k x).b2data = s.b2data := rfl
@[simp] theorem State.setPair_hostMem (s : State) (k : Nat) (x : PairSt) : (s.setPair k x).hostMem = s.hostMem := rfl
@[simp] theorem State.setPair_msgs (s : State) (k : Nat) (x : PairSt) : (s.setPair k x).msgs = s.msgs := rfl
@[simp] theorem State.setPair_msixOn (s : State) (k : Nat) (x : PairSt) : (s.setPair k x).msixOn = s.msixOn := rfl
@[simp] theorem State.setPair_msixOpen (s : State) (k : Nat) (x : PairSt) : (s.setPair k x).msixOpen = s.msixOpen := rfl
@[simp] theorem State.setPair_msixPend (s : State) (k : Nat) (x : PairSt) : (s.setPair k x).msixPend = s.msixPend := rfl
@[simp] theorem State.setPair_funcMask (s : State) (k : Nat) (x : PairSt) : (s.setPair k x).funcMask = s.funcMask := rfl
@[simp] theorem State.setPair_hbm (s : State) (k : Nat) (x : PairSt) : (s.setPair k x).hbm = s.hbm := rfl
@[simp] theorem State.setPair_hbmBad (s : State) (k : Nat) (x : PairSt) : (s.setPair k x).hbmBad = s.hbmBad := rfl
@[simp] theorem State.setPair_clearing (s : State) (k : Nat) (x : PairSt) : (s.setPair k x).clearing = s.clearing := rfl
@[simp] theorem State.setPair_scrubAt (s : State) (k : Nat) (x : PairSt) : (s.setPair k x).scrubAt = s.scrubAt := rfl
@[simp] theorem State.setPair_sheaf (s : State) (k : Nat) (x : PairSt) : (s.setPair k x).sheaf = s.sheaf := rfl
@[simp] theorem State.setPair_seedbed (s : State) (k : Nat) (x : PairSt) : (s.setPair k x).seedbed = s.seedbed := rfl
@[simp] theorem State.setPair_glean (s : State) (k : Nat) (x : PairSt) : (s.setPair k x).glean = s.glean := rfl
@[simp] theorem State.setPair_furrows (s : State) (k : Nat) (x : PairSt) : (s.setPair k x).furrows = s.furrows := rfl
@[simp] theorem State.setPair_streams (s : State) (k : Nat) (x : PairSt) : (s.setPair k x).streams = s.streams := rfl
@[simp] theorem State.setPair_dma (s : State) (k : Nat) (x : PairSt) : (s.setPair k x).dma = s.dma := rfl
@[simp] theorem State.setPair_shadows (s : State) (k : Nat) (x : PairSt) : (s.setPair k x).shadows = s.shadows := rfl
@[simp] theorem State.setPair_sems (s : State) (k : Nat) (x : PairSt) : (s.setPair k x).sems = s.sems := rfl
@[simp] theorem State.setPair_barriers (s : State) (k : Nat) (x : PairSt) : (s.setPair k x).barriers = s.barriers := rfl
@[simp] theorem State.setPair_seqRuns (s : State) (k : Nat) (x : PairSt) : (s.setPair k x).seqRuns = s.seqRuns := rfl
@[simp] theorem State.setPair_ctxs (s : State) (k : Nat) (x : PairSt) : (s.setPair k x).ctxs = s.ctxs := rfl
@[simp] theorem State.setPair_regions (s : State) (k : Nat) (x : PairSt) : (s.setPair k x).regions = s.regions := rfl
@[simp] theorem State.setPair_coverage (s : State) (k : Nat) (x : PairSt) : (s.setPair k x).coverage = s.coverage := rfl
@[simp] theorem State.setPair_fences (s : State) (k : Nat) (x : PairSt) : (s.setPair k x).fences = s.fences := rfl
@[simp] theorem State.setPair_fcolLog (s : State) (k : Nat) (x : PairSt) : (s.setPair k x).fcolLog = s.fcolLog := rfl
@[simp] theorem State.setPair_hangLog (s : State) (k : Nat) (x : PairSt) : (s.setPair k x).hangLog = s.hangLog := rfl
@[simp] theorem State.setPair_queues (s : State) (k : Nat) (x : PairSt) : (s.setPair k x).queues = s.queues := rfl
@[simp] theorem State.setPair_copies (s : State) (k : Nat) (x : PairSt) : (s.setPair k x).copies = s.copies := rfl
@[simp] theorem State.setPair_ports (s : State) (k : Nat) (x : PairSt) : (s.setPair k x).ports = s.ports := rfl
@[simp] theorem State.setPair_inbox (s : State) (k : Nat) (x : PairSt) : (s.setPair k x).inbox = s.inbox := rfl
@[simp] theorem State.setPair_engines (s : State) (k : Nat) (x : PairSt) : (s.setPair k x).engines = s.engines := rfl
@[simp] theorem State.setPair_serv (s : State) (k : Nat) (x : PairSt) : (s.setPair k x).serv = s.serv := rfl
@[simp] theorem State.setPair_flash (s : State) (k : Nat) (x : PairSt) : (s.setPair k x).flash = s.flash := rfl
@[simp] theorem State.setPair_fuses (s : State) (k : Nat) (x : PairSt) : (s.setPair k x).fuses = s.fuses := rfl
@[simp] theorem State.setPair_staged (s : State) (k : Nat) (x : PairSt) : (s.setPair k x).staged = s.staged := rfl
@[simp] theorem State.setPair_heldBack (s : State) (k : Nat) (x : PairSt) : (s.setPair k x).heldBack = s.heldBack := rfl
@[simp] theorem State.setPair_lastMma (s : State) (k : Nat) (x : PairSt) : (s.setPair k x).lastMma = s.lastMma := rfl
@[simp] theorem State.setPair_sec (s : State) (k : Nat) (x : PairSt) : (s.setPair k x).sec = s.sec := rfl
@[simp] theorem State.setPair_pwr (s : State) (k : Nat) (x : PairSt) : (s.setPair k x).pwr = s.pwr := rfl
@[simp] theorem State.setPair_clk (s : State) (k : Nat) (x : PairSt) : (s.setPair k x).clk = s.clk := rfl
@[simp] theorem State.setPair_mg (s : State) (k : Nat) (x : PairSt) : (s.setPair k x).mg = s.mg := rfl
@[simp] theorem State.setPair_pins (s : State) (k : Nat) (x : PairSt) : (s.setPair k x).pins = s.pins := rfl
@[simp] theorem State.setPair_vfs (s : State) (k : Nat) (x : PairSt) : (s.setPair k x).vfs = s.vfs := rfl
@[simp] theorem State.setPair_bar2Pf (s : State) (k : Nat) (x : PairSt) : (s.setPair k x).bar2Pf = s.bar2Pf := rfl
@[simp] theorem State.setPair_bar2Vf (s : State) (k : Nat) (x : PairSt) : (s.setPair k x).bar2Vf = s.bar2Vf := rfl
@[simp] theorem State.setPair_qmLast (s : State) (k : Nat) (x : PairSt) : (s.setPair k x).qmLast = s.qmLast := rfl
@[simp] theorem State.reg_setPair (s : State) (k : Nat) (x : PairSt) (b : Nat) : (s.setPair k x).reg b = s.reg b := rfl
@[simp] theorem State.rf_setPair (s : State) (k : Nat) (x : PairSt) (m : Loc) : (s.setPair k x).rf m = s.rf m := rfl
@[simp] theorem State.st_setPair (s : State) (k : Nat) (x : PairSt) (q : At) : (s.setPair k x).st q = s.st q := rfl
@[simp] theorem State.fur_setPair (s : State) (k : Nat) (x : PairSt) (g m : Nat) : (s.setPair k x).fur g m = s.fur g m := rfl
@[simp] theorem State.ctx_setPair (s : State) (k : Nat) (x : PairSt) (d : Nat) : (s.setPair k x).ctx d = s.ctx d := rfl
@[simp] theorem State.dmaOf_setPair (s : State) (k : Nat) (x : PairSt) (g : Nat) : (s.setPair k x).dmaOf g = s.dmaOf g := rfl
@[simp] theorem State.sem_setPair (s : State) (k : Nat) (x : PairSt) (g d m : Nat) : (s.setPair k x).sem g d m = s.sem g d m := rfl
@[simp] theorem State.seedByte_setPair (s : State) (k : Nat) (x : PairSt) (g m b : Nat) : (s.setPair k x).seedByte g m b = s.seedByte g m b := rfl
@[simp] theorem State.queue_setPair (s : State) (k : Nat) (x : PairSt) (r : Nat) : (s.setPair k x).queue r = s.queue r := rfl
@[simp] theorem State.port_setPair (s : State) (k : Nat) (x : PairSt) (j : Nat) : (s.setPair k x).port j = s.port j := rfl
@[simp] theorem State.eng_setPair (s : State) (k : Nat) (x : PairSt) (g : Nat) : (s.setPair k x).eng g = s.eng g := rfl

/-! ### setQueue -/

@[simp] theorem State.setQueue_pending (s : State) (k : Nat) (x : QueueSt) : (s.setQueue k x).pending = s.pending := rfl
@[simp] theorem State.setQueue_freeCtr (s : State) (k : Nat) (x : QueueSt) : (s.setQueue k x).freeCtr = s.freeCtr := rfl
@[simp] theorem State.setQueue_now (s : State) (k : Nat) (x : QueueSt) : (s.setQueue k x).now = s.now := rfl
@[simp] theorem State.setQueue_regs (s : State) (k : Nat) (x : QueueSt) : (s.setQueue k x).regs = s.regs := rfl
@[simp] theorem State.setQueue_rdLatch (s : State) (k : Nat) (x : QueueSt) : (s.setQueue k x).rdLatch = s.rdLatch := rfl
@[simp] theorem State.setQueue_wrStage (s : State) (k : Nat) (x : QueueSt) : (s.setQueue k x).wrStage = s.wrStage := rfl
@[simp] theorem State.setQueue_ifLatch (s : State) (k : Nat) (x : QueueSt) : (s.setQueue k x).ifLatch = s.ifLatch := rfl
@[simp] theorem State.setQueue_rdata (s : State) (k : Nat) (x : QueueSt) : (s.setQueue k x).rdata = s.rdata := rfl
@[simp] theorem State.setQueue_b2data (s : State) (k : Nat) (x : QueueSt) : (s.setQueue k x).b2data = s.b2data := rfl
@[simp] theorem State.setQueue_hostMem (s : State) (k : Nat) (x : QueueSt) : (s.setQueue k x).hostMem = s.hostMem := rfl
@[simp] theorem State.setQueue_msgs (s : State) (k : Nat) (x : QueueSt) : (s.setQueue k x).msgs = s.msgs := rfl
@[simp] theorem State.setQueue_msixOn (s : State) (k : Nat) (x : QueueSt) : (s.setQueue k x).msixOn = s.msixOn := rfl
@[simp] theorem State.setQueue_msixOpen (s : State) (k : Nat) (x : QueueSt) : (s.setQueue k x).msixOpen = s.msixOpen := rfl
@[simp] theorem State.setQueue_msixPend (s : State) (k : Nat) (x : QueueSt) : (s.setQueue k x).msixPend = s.msixPend := rfl
@[simp] theorem State.setQueue_funcMask (s : State) (k : Nat) (x : QueueSt) : (s.setQueue k x).funcMask = s.funcMask := rfl
@[simp] theorem State.setQueue_hbm (s : State) (k : Nat) (x : QueueSt) : (s.setQueue k x).hbm = s.hbm := rfl
@[simp] theorem State.setQueue_hbmBad (s : State) (k : Nat) (x : QueueSt) : (s.setQueue k x).hbmBad = s.hbmBad := rfl
@[simp] theorem State.setQueue_clearing (s : State) (k : Nat) (x : QueueSt) : (s.setQueue k x).clearing = s.clearing := rfl
@[simp] theorem State.setQueue_scrubAt (s : State) (k : Nat) (x : QueueSt) : (s.setQueue k x).scrubAt = s.scrubAt := rfl
@[simp] theorem State.setQueue_sheaf (s : State) (k : Nat) (x : QueueSt) : (s.setQueue k x).sheaf = s.sheaf := rfl
@[simp] theorem State.setQueue_seedbed (s : State) (k : Nat) (x : QueueSt) : (s.setQueue k x).seedbed = s.seedbed := rfl
@[simp] theorem State.setQueue_glean (s : State) (k : Nat) (x : QueueSt) : (s.setQueue k x).glean = s.glean := rfl
@[simp] theorem State.setQueue_furrows (s : State) (k : Nat) (x : QueueSt) : (s.setQueue k x).furrows = s.furrows := rfl
@[simp] theorem State.setQueue_streams (s : State) (k : Nat) (x : QueueSt) : (s.setQueue k x).streams = s.streams := rfl
@[simp] theorem State.setQueue_dma (s : State) (k : Nat) (x : QueueSt) : (s.setQueue k x).dma = s.dma := rfl
@[simp] theorem State.setQueue_shadows (s : State) (k : Nat) (x : QueueSt) : (s.setQueue k x).shadows = s.shadows := rfl
@[simp] theorem State.setQueue_sems (s : State) (k : Nat) (x : QueueSt) : (s.setQueue k x).sems = s.sems := rfl
@[simp] theorem State.setQueue_barriers (s : State) (k : Nat) (x : QueueSt) : (s.setQueue k x).barriers = s.barriers := rfl
@[simp] theorem State.setQueue_seqRuns (s : State) (k : Nat) (x : QueueSt) : (s.setQueue k x).seqRuns = s.seqRuns := rfl
@[simp] theorem State.setQueue_ctxs (s : State) (k : Nat) (x : QueueSt) : (s.setQueue k x).ctxs = s.ctxs := rfl
@[simp] theorem State.setQueue_regions (s : State) (k : Nat) (x : QueueSt) : (s.setQueue k x).regions = s.regions := rfl
@[simp] theorem State.setQueue_coverage (s : State) (k : Nat) (x : QueueSt) : (s.setQueue k x).coverage = s.coverage := rfl
@[simp] theorem State.setQueue_fences (s : State) (k : Nat) (x : QueueSt) : (s.setQueue k x).fences = s.fences := rfl
@[simp] theorem State.setQueue_pairs (s : State) (k : Nat) (x : QueueSt) : (s.setQueue k x).pairs = s.pairs := rfl
@[simp] theorem State.setQueue_fcolLog (s : State) (k : Nat) (x : QueueSt) : (s.setQueue k x).fcolLog = s.fcolLog := rfl
@[simp] theorem State.setQueue_hangLog (s : State) (k : Nat) (x : QueueSt) : (s.setQueue k x).hangLog = s.hangLog := rfl
@[simp] theorem State.setQueue_copies (s : State) (k : Nat) (x : QueueSt) : (s.setQueue k x).copies = s.copies := rfl
@[simp] theorem State.setQueue_ports (s : State) (k : Nat) (x : QueueSt) : (s.setQueue k x).ports = s.ports := rfl
@[simp] theorem State.setQueue_inbox (s : State) (k : Nat) (x : QueueSt) : (s.setQueue k x).inbox = s.inbox := rfl
@[simp] theorem State.setQueue_engines (s : State) (k : Nat) (x : QueueSt) : (s.setQueue k x).engines = s.engines := rfl
@[simp] theorem State.setQueue_serv (s : State) (k : Nat) (x : QueueSt) : (s.setQueue k x).serv = s.serv := rfl
@[simp] theorem State.setQueue_flash (s : State) (k : Nat) (x : QueueSt) : (s.setQueue k x).flash = s.flash := rfl
@[simp] theorem State.setQueue_fuses (s : State) (k : Nat) (x : QueueSt) : (s.setQueue k x).fuses = s.fuses := rfl
@[simp] theorem State.setQueue_staged (s : State) (k : Nat) (x : QueueSt) : (s.setQueue k x).staged = s.staged := rfl
@[simp] theorem State.setQueue_heldBack (s : State) (k : Nat) (x : QueueSt) : (s.setQueue k x).heldBack = s.heldBack := rfl
@[simp] theorem State.setQueue_lastMma (s : State) (k : Nat) (x : QueueSt) : (s.setQueue k x).lastMma = s.lastMma := rfl
@[simp] theorem State.setQueue_sec (s : State) (k : Nat) (x : QueueSt) : (s.setQueue k x).sec = s.sec := rfl
@[simp] theorem State.setQueue_pwr (s : State) (k : Nat) (x : QueueSt) : (s.setQueue k x).pwr = s.pwr := rfl
@[simp] theorem State.setQueue_clk (s : State) (k : Nat) (x : QueueSt) : (s.setQueue k x).clk = s.clk := rfl
@[simp] theorem State.setQueue_mg (s : State) (k : Nat) (x : QueueSt) : (s.setQueue k x).mg = s.mg := rfl
@[simp] theorem State.setQueue_pins (s : State) (k : Nat) (x : QueueSt) : (s.setQueue k x).pins = s.pins := rfl
@[simp] theorem State.setQueue_vfs (s : State) (k : Nat) (x : QueueSt) : (s.setQueue k x).vfs = s.vfs := rfl
@[simp] theorem State.setQueue_bar2Pf (s : State) (k : Nat) (x : QueueSt) : (s.setQueue k x).bar2Pf = s.bar2Pf := rfl
@[simp] theorem State.setQueue_bar2Vf (s : State) (k : Nat) (x : QueueSt) : (s.setQueue k x).bar2Vf = s.bar2Vf := rfl
@[simp] theorem State.setQueue_qmLast (s : State) (k : Nat) (x : QueueSt) : (s.setQueue k x).qmLast = s.qmLast := rfl
@[simp] theorem State.reg_setQueue (s : State) (k : Nat) (x : QueueSt) (b : Nat) : (s.setQueue k x).reg b = s.reg b := rfl
@[simp] theorem State.rf_setQueue (s : State) (k : Nat) (x : QueueSt) (m : Loc) : (s.setQueue k x).rf m = s.rf m := rfl
@[simp] theorem State.st_setQueue (s : State) (k : Nat) (x : QueueSt) (q : At) : (s.setQueue k x).st q = s.st q := rfl
@[simp] theorem State.fur_setQueue (s : State) (k : Nat) (x : QueueSt) (g m : Nat) : (s.setQueue k x).fur g m = s.fur g m := rfl
@[simp] theorem State.ctx_setQueue (s : State) (k : Nat) (x : QueueSt) (d : Nat) : (s.setQueue k x).ctx d = s.ctx d := rfl
@[simp] theorem State.dmaOf_setQueue (s : State) (k : Nat) (x : QueueSt) (g : Nat) : (s.setQueue k x).dmaOf g = s.dmaOf g := rfl
@[simp] theorem State.sem_setQueue (s : State) (k : Nat) (x : QueueSt) (g d m : Nat) : (s.setQueue k x).sem g d m = s.sem g d m := rfl
@[simp] theorem State.seedByte_setQueue (s : State) (k : Nat) (x : QueueSt) (g m b : Nat) : (s.setQueue k x).seedByte g m b = s.seedByte g m b := rfl
@[simp] theorem State.port_setQueue (s : State) (k : Nat) (x : QueueSt) (j : Nat) : (s.setQueue k x).port j = s.port j := rfl
@[simp] theorem State.eng_setQueue (s : State) (k : Nat) (x : QueueSt) (g : Nat) : (s.setQueue k x).eng g = s.eng g := rfl

end Sys2Proof.Machine
end

