-- ==== Sys2Proof/Laws/Tile.lean ====
section
/-! SUPPORT. Laws of furrows, tile slots, contexts and on-chip stores: reading what was set, and leaving the rest. -/

namespace Sys2Proof.Machine

/-! ### Furrows -/

theorem fur_setFur_self {s : State} (h : Store.Sorted s.furrows) (f n : Nat) (x : FurrowSt) : (s.setFur f n x).fur f n = x :=
  sgetD_sputD_self h _ x {}

theorem furKey_inj {f f' : Fin 4} {n n' : Fin 26} (h : furKey f' n' = furKey f n) : (f', n') = (f, n) := by
  have h1 := n.2
  have h2 := n'.2
  simp only [furKey] at h
  simp only [Prod.mk.injEq, Fin.ext_iff]
  omega

theorem fur_setFur_ne (s : State) {f f' : Fin 4} {n n' : Fin 26} (x : FurrowSt) (h : (f', n') ≠ (f, n)) :
    (s.setFur f n x).fur f' n' = s.fur f' n' :=
  sgetD_sputD_ne s.furrows x {} fun e => h (furKey_inj e)

theorem sorted_setFur {s : State} (h : Store.Sorted s.furrows) (f n : Nat) (x : FurrowSt) :
    Store.Sorted (s.setFur f n x).furrows := sorted_sputD h _ _ _

/-! ### Slots -/

theorem slot_setSlot_self (x : FurrowSt) (k : Nat) (sl : Slot) : (x.setSlot k sl).slot k = sl := by
  unfold FurrowSt.slot FurrowSt.setSlot sgetD
  rw [sget_sput_self]
  rfl

theorem slot_setSlot_ne (x : FurrowSt) {k j : Nat} (sl : Slot) (h : j ≠ k) : (x.setSlot k sl).slot j = x.slot j := by
  unfold FurrowSt.slot FurrowSt.setSlot sgetD
  rw [sget_sput_ne _ _ h]

@[simp] theorem setSlot_mmas (x : FurrowSt) (k : Nat) (sl : Slot) : (x.setSlot k sl).mmas = x.mmas := rfl
@[simp] theorem setSlot_banks (x : FurrowSt) (k : Nat) (sl : Slot) : (x.setSlot k sl).banks = x.banks := rfl
@[simp] theorem setSlot_drns (x : FurrowSt) (k : Nat) (sl : Slot) : (x.setSlot k sl).drns = x.drns := rfl
@[simp] theorem setSlot_vops (x : FurrowSt) (k : Nat) (sl : Slot) : (x.setSlot k sl).vops = x.vops := rfl
@[simp] theorem setSlot_glns (x : FurrowSt) (k : Nat) (sl : Slot) : (x.setSlot k sl).glns = x.glns := rfl

/-- An update of slots alone, whatever each becomes. -/
theorem foldl_slots_frame {α : Type} {g : FurrowSt → α → FurrowSt} (hg : ∀ x a, { g x a with slots := x.slots } = x) (l : List α) :
    ∀ x, { l.foldl g x with slots := x.slots } = x := by
  induction l with
  | nil => exact fun _ => rfl
  | cons a l ih =>
    intro x
    have h1 := ih (g x a)
    exact (congrArg (fun y : FurrowSt => { y with slots := x.slots }) h1).trans (hg x a)

/-- Slots set one after the other: nothing but slots changes. -/
theorem foldl_setSlot_frame {α : Type} (h : FurrowSt → α → Nat) (v : FurrowSt → α → Slot) (l : List α) (x : FurrowSt) :
    { l.foldl (fun y a => y.setSlot (h y a) (v y a)) x with slots := x.slots } = x :=
  foldl_slots_frame (g := fun y a => y.setSlot (h y a) (v y a)) (fun _ _ => rfl) l x

/-- Consecutive slots set from `b` on, each from what it held: what a slot holds afterwards. -/
theorem slot_foldl_setSlot (F : Nat → Slot → Slot) (b n : Nat) (x : FurrowSt) (k : Nat) :
    ((List.range n).foldl (fun y i => y.setSlot (b + i) (F i (y.slot (b + i)))) x).slot k =
      if b ≤ k ∧ k < b + n then F (k - b) (x.slot k) else x.slot k := by
  induction n with
  | zero =>
    rw [if_neg (by omega)]
    rfl
  | succ n ih =>
    rw [List.range_succ, List.foldl_append]
    simp only [List.foldl_cons, List.foldl_nil]
    by_cases hk : k = b + n
    · subst hk
      have e : b + n - b = n := by omega
      rw [slot_setSlot_self, if_pos (by omega), ih, if_neg (by omega), e]
    · rw [slot_setSlot_ne _ _ hk, ih]
      by_cases h : b ≤ k ∧ k < b + n
      · rw [if_pos h, if_pos (by omega)]
      · rw [if_neg h, if_neg (by omega)]

/-! ### Contexts -/

theorem ctx_setCtx_self {s : State} (h : Store.Sorted s.ctxs) (c : Nat) (x : CtxSt) : (s.setCtx c x).ctx c = x :=
  sgetD_sputD_self h _ x {}

theorem ctx_setCtx_ne (s : State) {c d : Nat} (x : CtxSt) (h : d ≠ c) : (s.setCtx c x).ctx d = s.ctx d :=
  sgetD_sputD_ne s.ctxs x {} h

/-! ### The seedbed -/

theorem seedRead_seedWrite_self {s : State} (h : s.seedbed.wf unit64K) (f n a : Nat) (bs : List Byte) :
    (s.seedWrite f n a bs).seedRead f n a bs.length = bs := Memory.readN_writeN h _ bs

theorem seedByte_seedWrite_out (s : State) (f n a : Nat) (bs : List Byte) {g m b : Nat}
    (h : furKey g m * seedSize + b < furKey f n * seedSize + a ∨
      furKey f n * seedSize + a + bs.length ≤ furKey g m * seedSize + b) :
    (s.seedWrite f n a bs).seedByte g m b = s.seedByte g m b := Memory.read_writeN_out unit64K bs _ h

theorem seedbed_seedWrite_out (s : State) (f n a : Nat) (bs : List Byte) {b : Nat}
    (h : b < furKey f n * seedSize + a ∨ furKey f n * seedSize + a + bs.length ≤ b) :
    (s.seedWrite f n a bs).seedbed.read unit64K b = s.seedbed.read unit64K b := Memory.read_writeN_out unit64K bs _ h

theorem seedWrite_frame (s : State) (f n a : Nat) (bs : List Byte) : { s.seedWrite f n a bs with seedbed := s.seedbed } = s := rfl

/-! ### Bytes and numbers -/

theorem length_leBytes : ∀ (n x : Nat), (leBytes n x).length = n
  | 0, _ => rfl
  | n + 1, x => by simp [leBytes, length_leBytes n]

theorem leNat_leBytes : ∀ (n x : Nat), leNat (leBytes n x) = x % 256 ^ n
  | 0, x => by simp [leBytes, leNat, Nat.mod_one]
  | n + 1, x => by
    have h : x % 256 ^ (n + 1) = x % 256 + 256 * (x / 256 % 256 ^ n) := by
      rw [Nat.pow_succ, Nat.mul_comm (256 ^ n), Nat.mod_mul]
    rw [h]
    show (BitVec.ofNat 8 x).toNat + 256 * leNat (leBytes n (x / 256)) = _
    rw [leNat_leBytes n, BitVec.toNat_ofNat]

/-! ### The gleaning buffer -/

theorem gleanGet_gleanSet_self {s : State} (h : s.glean.wf gleanUnit) (f n e : Nat) (x : Word32 × Word32) :
    (s.gleanSet f n e x).gleanGet f n e = x := by
  have hl : (leBytes 4 x.1.toNat ++ leBytes 4 x.2.toNat).length = 8 := by simp [length_leBytes]
  have hr := Memory.readN_writeN h (furKey f n * gleanSize + 8 * e) (leBytes 4 x.1.toNat ++ leBytes 4 x.2.toNat)
  rw [hl] at hr
  unfold State.gleanGet
  dsimp only
  have e1 : (s.gleanSet f n e x).glean = s.glean.writeN gleanUnit (furKey f n * gleanSize + 8 * e)
    (leBytes 4 x.1.toNat ++ leBytes 4 x.2.toNat) := rfl
  rw [e1, hr]
  have a1 : leAt (leBytes 4 x.1.toNat ++ leBytes 4 x.2.toNat) 0 4 = x.1.toNat := by
    unfold leAt
    rw [List.drop_zero, List.take_left' (length_leBytes 4 _), leNat_leBytes]
    exact Nat.mod_eq_of_lt x.1.isLt
  have a2 : leAt (leBytes 4 x.1.toNat ++ leBytes 4 x.2.toNat) 4 4 = x.2.toNat := by
    unfold leAt
    rw [List.drop_left' (length_leBytes 4 _), List.take_of_length_le (by rw [length_leBytes]), leNat_leBytes]
    exact Nat.mod_eq_of_lt x.2.isLt
  rw [a1, a2]
  simp

theorem gleanGet_gleanSet_ne (s : State) (f n : Nat) {e e' : Nat} (x : Word32 × Word32) (h : e' ≠ e) :
    (s.gleanSet f n e x).gleanGet f n e' = s.gleanGet f n e' := by
  have hl : (leBytes 4 x.1.toNat ++ leBytes 4 x.2.toNat).length = 8 := by simp [length_leBytes]
  have hr : (s.gleanSet f n e x).glean.readN gleanUnit (furKey f n * gleanSize + 8 * e') 8 =
      s.glean.readN gleanUnit (furKey f n * gleanSize + 8 * e') 8 := by
    unfold Memory.readN
    refine List.map_congr_left fun k hk => ?_
    have hk := List.mem_range.mp hk
    exact Memory.read_writeN_out gleanUnit _ _ (by rw [hl]; omega)
  unfold State.gleanGet
  rw [hr]

theorem wf_gleanSet {s : State} (h : s.glean.wf gleanUnit) (f n e : Nat) (x : Word32 × Word32) :
    (s.gleanSet f n e x).glean.wf gleanUnit := Memory.wf_writeN _ _ h

end Sys2Proof.Machine
end

