-- ==== Sys2Proof/Tests/Slice0.lean ====
section
/-! SUPPORT. Tests: ill-formed operands that the check refuses, small steps worked by hand from the spec, and for every
statement with hypotheses a concrete state and operands that meet them all. -/

namespace Sys2Proof.Tests

open Sys2Proof.Machine

set_option Elab.async false

/-! ### Small states -/

/-- Registers set one after the other. -/
def sets (s : State) (l : List (Loc × Nat)) : State := l.foldl (fun s e => s.wf e.1 e.2) s

/-- Everything `State.Canon` asks, as one Boolean. -/
def canonB (s : State) : Bool :=
  decide (s.hbm.wf granSize) && decide (s.sheaf.wf unit64K) && decide (s.seedbed.wf unit64K) && decide (s.glean.wf gleanUnit) &&
  decide (s.hostMem.wf hostUnit) && decide (Store.Sorted s.regs) && decide (Store.Sorted s.pairs) &&
  decide (Store.Sorted s.streams) && decide (Store.Sorted s.furrows) && decide (Store.Sorted s.ctxs) &&
  decide (Store.Sorted s.dma) && decide (Store.Sorted s.sems) && decide (Store.Sorted s.barriers) &&
  decide (Store.Sorted s.regions) && decide (Store.Sorted s.coverage) && decide (Store.Sorted s.queues) &&
  decide (Store.Sorted s.ports) && decide (Store.Sorted s.engines) && decide (Store.Sorted s.serv) &&
  decide (Store.Sorted s.hbmBad)

theorem canon_of {s : State} (h : canonB s = true) : s.Canon := by
  unfold canonB at h
  simp only [Bool.and_eq_true, decide_eq_true_eq] at h
  constructor <;> repeat first | exact h.2 | exact h | replace h := h.1

/-- A running device: stage 5, context 0 of function 0 RUNNING on field 0 with quotas there, granules 0 to 4 of the field
its own, the field awake and furrow 0 of it awake. `up_registers` names its registers. -/
def up : State :=
  { State.reset with
    pins := { State.reset.pins with held := false, good := true, running := true }
    pwr := { State.reset.pwr with awake := [(0, 0)] }
    regs := [(328000, 0x80802), (377088, 5), (460800, 2), (786688, 0x80000000), (786692, 1), (786752, 0x40000), (786756, 0x80000),
      (786760, 0x100000), (16908548, 2), (16912644, 2), (16916740, 2), (16920836, 2), (16924932, 2), (16941568, 0x40000),
      (16942080, 0x100), (16942084, 0x100), (16942088, 0x100), (16942092, 0x100), (16942096, 0x100)] }

theorem up_registers : up.regs = (sets State.reset
    [(R.SEC_BOOT_STAGE, 5), (R.CTX_BIND_VALID 0, 1), (R.CTX_FMASK_MASK 0, 1), (R.CMT_CSTAT_STATE 0, stRunning),
      (R.FLD_SBQ_SIZE 0 0, 4), (R.FLD_ACQ_COUNT 0 0, 8), (R.FLD_GLQ_SIZE 0 0, 16), (R.FLD_SHEAF_SIZE 0 0, 4),
      (R.FLD_GRAN_OWNED 0 0, 1), (R.FLD_GRAN_OWNED 0 1, 1), (R.FLD_GRAN_OWNED 0 2, 1), (R.FLD_GRAN_OWNED 0 3, 1),
      (R.FLD_GRAN_OWNED 0 4, 1), (R.PWR_FLD_STATE 0, 2), (R.HBM_STAT_STATE 0 0, 2), (R.HBM_STAT_STATE 0 1, 2),
      (R.HBM_STAT_STATE 0 2, 2), (R.HBM_STAT_STATE 0 3, 2), (R.HBM_STAT_STATE 0 4, 2), (R.PWR_FLD_DUTY 0, 8)]).regs := by decide +kernel

theorem up_canon : up.Canon := canon_of (by decide +kernel)

/-- The F stream of context 0 on furrow 0 of field 0. -/
def sid : StreamId := ⟨0, 0, 0, 0⟩

/-- A launch of queue 0. -/
def lnch : Launch := ⟨0, 0, 0, [0, 0, 0, 0, 0, 0, 0, 0], 0, none, 0⟩

/-- `s` with `w` at the head of the stream, and END behind it. -/
def atHead (s : State) (w : InstrWord) : State :=
  s.setSt (atOf sid) { s.st (atOf sid) with state := .issuing, cur := some lnch, buf := [some w, some 0x7F] }

/-- What `State.AtHead` asks, as one Boolean. -/
def headB (s : State) (i : StreamId) (w : InstrWord) : Bool :=
  (s.st (atOf i)).cur.isSome && decide ((s.st (atOf i)).state ≠ .halted) &&
    !s.streamHeld i.field i.furrow i.ctx i.strm && !s.issueHeld i.field i.furrow &&
    decide ((s.st (atOf i)).buf.head? = some (some w)) &&
    ((s.st (atOf i)).buf.head?.any isEnd || decide ((s.st (atOf i)).buf[1]? ≠ some none)) &&
    s.mayGrant (atOf i)

theorem head_of {s : State} {i : StreamId} {w : InstrWord} (h : headB s i w = true) : s.AtHead i w := by
  simp only [headB, Bool.and_eq_true, Bool.or_eq_true, decide_eq_true_eq, Bool.not_eq_true'] at h
  exact ⟨h.1.1.1.1.1.1, h.1.1.1.1.1.2, h.1.1.1.1.2, h.1.1.1.2, h.1.1.2, h.1.2, h.2⟩

/-- An instruction word with the given values at the given bits. -/
def word (l : List (Nat × Nat)) : InstrWord := BitVec.ofNat 128 (l.foldl (fun n e => n + e.2 * 2 ^ e.1) 0)

/-- The operand bits of a word, above its opcode and its operation code. -/
def b20 (w : InstrWord) : BitVec 120 := w.extractLsb' 8 120
def b14 (w : InstrWord) : BitVec 114 := w.extractLsb' 14 114
def b18 (w : InstrWord) : BitVec 118 := w.extractLsb' 10 118

/-- A BF16 operand at the start of the quota. -/
def bound : Binding := ⟨false, 0, 0, 0, 0, 0, 0⟩

/-- `s` with furrow 0 of field 0 as given. -/
def furrow (s : State) (x : FurrowSt) : State := s.setFur 0 0 x

/-- `up` with every operand of the stream bound. -/
def ready : State :=
  up.setSt (atOf sid) { up.st (atOf sid) with bindA := some bound, bindW := [some bound, some bound, some bound, some bound] }

/-- An issued operation of the stream. -/
def ownr : Owner := up.ownerAt (atOf sid)

/-- The outcome is a next state of which `p` holds. -/
def nextIs (o : Out) (p : State → Bool) : Bool :=
  match o with
  | .next t => p t
  | _ => false

theorem next_of {o : Out} (h : nextIs o (fun _ => true) = true) : ∃ t, o = .next t := by
  cases o with
  | next t => exact ⟨t, rfl⟩
  | fault f => cases f
  | refused r => cases h


/-! ### Witnesses: tile instructions -/

/-- LDW into port 3, LDA, TRN to a port and to the activation operand (R126, R177). -/
theorem witness_BindingReplacesOneOperand :
    ∀ x ∈ [(1, (3 : BitVec 120)), (2, 0), (3, 0), (3, 0x40)],
      (atHead up (tileWord x.1 x.2)).Canon ∧ (atHead up (tileWord x.1 x.2)).AtHead sid (tileWord x.1 x.2) ∧
      bindingCause (atHead up (tileWord x.1 x.2)) (atOf sid) (tileWord x.1 x.2) = none := by
  intro x hx
  simp only [List.mem_cons, List.not_mem_nil, or_false] at hx
  rcases hx with rfl | rfl | rfl | rfl <;> exact ⟨canon_of (by decide +kernel), head_of (by decide +kernel), by decide +kernel⟩

/-- SEMW with `SUB` of semaphore 255, threshold 5, and SEMS of 3, with the semaphore at the threshold and one below it (R119, R120). -/
theorem witness_SemaphoreWaitAndSignal :
    ∀ v ∈ [5, 4], ∀ w, w = word [(0, 0x40), (8, 255), (16, 1), (32, 5)] ∨ w = word [(0, 0x41), (8, 255), (32, 3)] →
      ∀ s, s = (atHead up w).setSem 0 0 255 v →
        s.Canon ∧ (s.st (atOf sid)).stepped = false ∧ s.AtHead sid w ∧ w = tileWord (fld w 0 8) (b20 w) ∧
        fld w 64 64 = 0 ∧ s.allRetired (atOf sid) = true ∧
        (fld w 0 8 = 0x40 → fld w 17 15 = 0 ∧ (5 ≤ v ↔ fld w 32 32 ≤ s.sem 0 0 (fld w 8 8))) ∧
        (fld w 0 8 = 0x41 → fld w 16 16 = 0) := by
  intro v hv w hw s hs
  subst hs
  simp only [List.mem_cons, List.not_mem_nil, or_false] at hv
  rcases hv with rfl | rfl <;> rcases hw with rfl | rfl <;>
    exact ⟨canon_of (by decide +kernel), by decide +kernel, head_of (by decide +kernel), by decide +kernel, by decide +kernel,
      by decide +kernel, by decide +kernel, by decide +kernel⟩

/-- BAR 15 of group 0 with count 1, at its last arrival, count 2, at its first, and count 3 where a first arrival said 2 (R122,
R123). -/
theorem witness_BarrierArrivalAndRelease :
    ∀ n ∈ [1, 2, 3], ∀ w, w = word [(0, 0x48), (10, 15), (16, n)] →
      ∀ s, s = { atHead up w with barriers := if n = 3 then [(barKey (atOf sid) 0 15, ⟨2, 1⟩)] else [] } →
        s.Canon ∧ w = tileWord 0x48 (b20 w) ∧ s.AtHead sid w ∧ (s.st (atOf sid)).arrived = none ∧
        (s.st (atOf sid)).stepped = false ∧ s.allRetired (atOf sid) = true ∧ fld w 14 1 = 0 ∧ fld w 15 1 = 0 ∧
        fld w 28 100 = 0 ∧ fld w 8 2 ≠ 3 ∧ fld w 16 12 = n ∧
        (sget? s.barriers (barKey (atOf sid) 0 15) = if n = 3 then some ⟨2, 1⟩ else none) := by
  intro n hn w hw s hs
  subst hs; subst hw
  simp only [List.mem_cons, List.not_mem_nil, or_false] at hn
  rcases hn with rfl | rfl | rfl <;>
    exact ⟨canon_of (by decide +kernel), by decide +kernel, head_of (by decide +kernel), by decide +kernel, by decide +kernel,
      by decide +kernel, by decide +kernel, by decide +kernel, by decide +kernel, by decide +kernel, by decide +kernel,
      by decide +kernel⟩

/-- STEP without and with a loss in the quota's last beat, and END (R144). -/
theorem witness_StepAndEnd :
    ∀ w ∈ [word [(0, 0x60)], word [(0, 0x60), (8, 1), (16, 8191)], word [(0, 0x7F)]],
      (atHead up w).Canon ∧ w = tileWord (fld w 0 8) (b20 w) ∧ (atHead up w).AtHead sid w ∧
      (atHead up w).allRetired (atOf sid) = true ∧ (atHead up w).outstanding (atOf sid) = 0 ∧
      (atHead up w).shadowed (atOf sid) = false ∧ ((atHead up w).st (atOf sid)).stepped = false ∧ fld w 9 7 = 0 ∧
      fld w 34 94 = 0 ∧ (fld w 8 1 = 1 → 32 * fld w 16 18 + 4 ≤ (atHead up w).seedQuota 0 0) ∧
      ((atHead up w).st (atOf sid)).cur = some lnch := by
  intro w hw
  simp only [List.mem_cons, List.not_mem_nil, or_false] at hw
  rcases hw with rfl | rfl | rfl <;>
    exact ⟨canon_of (by decide +kernel), by decide +kernel, head_of (by decide +kernel), by decide +kernel, by decide +kernel,
      by decide +kernel, by decide +kernel, by decide +kernel, by decide +kernel, by decide +kernel, by decide +kernel⟩

/-- A transfer of the stream. -/
def xfer : Xfer := ⟨0, 0, ownr, 0, [(0, 0)], 32, some 3, [], 0⟩

/-- DMA: one row from HBM with a signal, and no rows; a transfer that waits, one in the last place of engine 7 (R137, R138, R171). -/
theorem witness_DmaLifeCycle :
    (∀ n ∈ [1, 0], ∀ w, w = word [(0, 0x10), (14, 1), (98, n), (108, 1), (120, 3)] →
      (atHead up w).Canon ∧ w = tileWord 0x10 (b20 w) ∧ (atHead up w).MayDma sid w ∧ ((dmaFields w).noOp = true ↔ n = 0)) ∧
    (∀ s, s = up.setDma 0 { waiting := [xfer], handoff := List.replicate 3 xfer } →
      (s.dmaOf 0).waiting = [xfer] ∧ (s.dmaOf 0).handoff.length < 1024 ∧ s.fieldOff 0 = false) ∧
    ∀ s, s = up.setDma 0 { active := [(7, xfer)] } →
      (s.dmaOf 0).active[0]? = some (7, xfer) ∧ s.fieldOff 0 = false ∧ s.xferWaits xfer = false ∧
      xfer.dir ≤ 1 ∧ (xfer.rows.any fun r =>
        (s.setDma 0 { s.dmaOf 0 with active := (s.dmaOf 0).active.eraseIdx 0 }).otherFenced 0 r.2 xfer.rlen) = false := by
  refine ⟨?_, ?_, ?_⟩
  · intro n hn w hw
    subst hw
    simp only [List.mem_cons, List.not_mem_nil, or_false] at hn
    rcases hn with rfl | rfl <;>
      exact ⟨canon_of (by decide +kernel), by decide +kernel, ⟨head_of (by decide +kernel), by decide +kernel, by decide +kernel⟩,
        by decide +kernel⟩
  · intro s hs; subst hs; decide +kernel
  · intro s hs; subst hs; decide +kernel

/-- CHK FORCE of row 31 and READ of slot 7 (R143). -/
theorem witness_CheckForceAndRead :
    ∀ w ∈ [word [(0, 0x58), (10, 7), (16, 31), (24, 5)], word [(0, 0x58), (8, 1), (10, 7), (56, 8191)]],
      (atHead up w).Canon ∧ w = opWord2 0x58 (fld w 8 2) (b18 w) ∧ (atHead up w).MayChk sid w := by
  intro w hw
  simp only [List.mem_cons, List.not_mem_nil, or_false] at hw
  rcases hw with rfl | rfl <;>
    exact ⟨canon_of (by decide +kernel), by decide +kernel, ⟨head_of (by decide +kernel), by decide +kernel, by decide +kernel⟩⟩

/-- An MMA of a 32 by 96 tile into slot 7 with `INIT`, one that continues, and an MMT of 32 rows into slots 4 to 7 (R62, R70). -/
theorem witness_MatrixProductIssues :
    ∀ w ∈ [word [(0, 0x20), (8, 7), (14, 15), (18, 32), (24, 96), (31, 1), (32, 1), (56, 1)],
        word [(0, 0x20), (8, 7), (14, 15), (18, 32), (24, 96), (32, 1), (56, 1)],
        word [(0, 0x21), (8, 4), (14, 15), (18, 32), (24, 0), (60, 3), (31, 1), (32, 1), (56, 1)]],
      (atHead ready w).Canon ∧ w = tileWord (fld w 0 8) (b20 w) ∧ (atHead ready w).MayMma sid w ∧ (mmaFields w).noOp = false := by
  intro w hw
  simp only [List.mem_cons, List.not_mem_nil, or_false] at hw
  rcases hw with rfl | rfl | rfl <;>
    exact ⟨canon_of (by decide +kernel), by decide +kernel, ⟨head_of (by decide +kernel), by decide +kernel, by decide +kernel⟩,
      by decide +kernel⟩

/-- A product of two passes. -/
def prod : MmaOp := ⟨ownr, false, 15, 0, 1, 1, 2, 1, 0, 0, 0, 0, 0, bound, [bound], false, 0, 0, {}⟩

/-- A bank to fill with none live, and a pass to enter (R61, R90). -/
theorem witness_WeightBanksAndPasses :
    (∀ s, s = furrow up { mmas := [prod] } → s.Canon ∧ (s.fur 0 0).banks.length < 2 ∧ (s.fur 0 0).mmas[0]? = some prod ∧
      prod.nextFill < prod.total) ∧
    ∀ s, s = furrow up { mmas := [{ prod with nextFill := 1 }], banks := [⟨0, [], []⟩] } → s.Canon ∧
      (s.fur 0 0).mmas = [{ prod with nextFill := 1 }] ∧ (s.fur 0 0).banks = [⟨0, [], []⟩] ∧ s.arraysOff 0 0 prod.arrays = false := by
  constructor <;> intro s hs <;> subst hs <;>
    exact ⟨canon_of (by decide +kernel), by decide +kernel, by decide +kernel, by decide +kernel⟩

/-- A drain of slot 0 to BF16 rows of 192 bytes with the descriptor in the quota's last 64 bytes (R132, R133). -/
theorem witness_DrainIssues :
    ∀ w, w = word [(0, 0x28), (8, 0), (36, 8190)] → ∀ s, s = (atHead up w).seedWrite 0 0 (32 * 8190 + 4) [6] →
      s.Canon ∧ w = tileWord 0x28 (b20 w) ∧ s.MayDrn sid w ∧ (s.drnRanges (atOf sid) (drnFields w)).any Rng.wr = true := by
  intro w hw s hs
  subst hs; subst hw
  exact ⟨canon_of (by decide +kernel), by decide +kernel, ⟨head_of (by decide +kernel), by decide +kernel, by decide +kernel⟩,
    by decide +kernel⟩

/-- A drain that retires with a record and a failed row check. -/
def drop : DrnOp := ⟨ownr, 0, 0, some (0, [1, 2]), {}, 1, 0, false, false, 0, false, {}⟩

theorem witness_DrainRetires :
    (furrow up { drns := [drop] }).Canon ∧ ((furrow up { drns := [drop] }).fur 0 0).drns = drop :: [] ∧ drop.named < 64 ∧
      drop.owner.ctx < 64 ∧ up.cstate drop.owner.ctx = stRunning :=
  ⟨canon_of (by decide +kernel), by decide +kernel, by decide +kernel, by decide +kernel, by decide +kernel⟩

/-- ADD of one FP32 block on the vector unit, the same on array 3, and one of length 0 (R139, R140). -/
theorem witness_VectorOperationRuns :
    (∀ w ∈ [word [(0, 0x30), (8, 1), (17, 1), (21, 1), (27, 8), (45, 0), (63, 4), (99, 1)],
        word [(0, 0x30), (8, 1), (14, 7), (17, 1), (21, 1), (27, 8), (63, 4), (99, 1)], word [(0, 0x30), (8, 1)]],
      (atHead up w).Canon ∧ w = vopWord 1 (b14 w) ∧ (atHead up w).MayVop sid w) ∧
    ∀ s, s = furrow up { vops := [⟨ownr, 0, {}, {}⟩, ⟨ownr, 7, {}, {}⟩] } → s.Canon ∧
      (s.fur 0 0).vops = [⟨ownr, 0, {}, {}⟩] ++ ⟨ownr, 7, {}, {}⟩ :: [] := by
  constructor
  · intro w hw
    simp only [List.mem_cons, List.not_mem_nil, or_false] at hw
    rcases hw with rfl | rfl | rfl <;>
      exact ⟨canon_of (by decide +kernel), by decide +kernel, ⟨head_of (by decide +kernel), by decide +kernel, by decide +kernel⟩⟩
  · intro s hs
    subst hs
    exact ⟨canon_of (by decide +kernel), by decide +kernel⟩

/-- ADAMW, GSQ and AFAPPLY of length 0, and GSQ of one block of FP32 gradients (R200). -/
theorem witness_OptimiserEntryRuns :
    ∀ w ∈ [word [(0, 0x30), (8, 0x10), (17, 1)], word [(0, 0x30), (8, 0x11), (17, 1), (21, 1), (27, 8), (81, 16), (99, 1)],
        word [(0, 0x30), (8, 0x12), (17, 1)]],
      (atHead up w).Canon ∧ w = vopWord (fld w 8 6) (b14 w) ∧ (atHead up w).MayOpt sid w := by
  intro w hw
  simp only [List.mem_cons, List.not_mem_nil, or_false] at hw
  rcases hw with rfl | rfl | rfl <;>
    exact ⟨canon_of (by decide +kernel), by decide +kernel, ⟨head_of (by decide +kernel), by decide +kernel, by decide +kernel⟩⟩

/-- GLN of each operation on 2 rows of 8 elements; for ADD the step is a tied run's (R136, R182, R191). -/
theorem witness_GleaningOperations :
    (∀ k ∈ [0, 1, 2, 3], ∀ w, w = word [(0, 0x38), (8, k), (35, 64), (54, 0), (72, 1), (88, 2), (96, 8), (105, 8)] →
      ∀ s, s = (atHead up w).setCtx 0 { up.ctx 0 with latch := { (up.ctx 0).latch with tied := true } } →
        s.Canon ∧ w = opWord2 0x38 k (b18 w) ∧ s.MayGln sid w ∧ (glnFields w).cols ≤ (glnFields w).pitch ∧
        (glnFields w).cols * (glnFields w).bytes ≤ 32 * (glnFields w).sstride) ∧
    ((furrow up { glns := [⟨ownr, 0, {}, {}⟩] }).fur 0 0).glns = ⟨ownr, 0, {}, {}⟩ :: [] := by
  refine ⟨?_, by decide +kernel⟩
  intro k hk w hw s hs
  subst hs; subst hw
  simp only [List.mem_cons, List.not_mem_nil, or_false] at hk
  rcases hk with rfl | rfl | rfl | rfl <;>
    exact ⟨canon_of (by decide +kernel), by decide +kernel, ⟨head_of (by decide +kernel), by decide +kernel, by decide +kernel⟩,
      by decide +kernel, by decide +kernel⟩

/-- Opcode 0xFF, VOP 0x3F, CHK 3; LDW of a reserved format, DMA of a reserved direction; MMA, ADD, GLN, AFAPPLY, DRN and CHK READ
with a reserved bit set, with their causes (R124, R145). -/
theorem witness_UnknownOpcodeHalts :
    (∀ x ∈ [(word [(0, 0xFF)], 1), (word [(0, 0x30), (8, 0x3F)], 3), (word [(0, 0x58), (8, 3)], 3)],
      (atHead up x.1).Canon ∧ (atHead up x.1).AtHead sid x.1 ∧ unknownCause x.1 = some x.2) ∧
    (∀ w, w = word [(0, 1), (10, 15)] → (atHead up w).Canon ∧ (atHead up w).AtHead sid w ∧ w = tileWord 1 (b20 w) ∧
      bindingCause (atHead up w) (atOf sid) w = some 3) ∧
    (∀ w, w = word [(0, 0x10), (8, 7)] → (atHead up w).Canon ∧ (atHead up w).AtHead sid w ∧ w = tileWord 0x10 (b20 w) ∧
      (atHead up w).dmaWait (atOf sid) w = none ∧ dmaCause (atHead up w) (atOf sid) w (dmaFields w) = some 3) ∧
    ∀ w ∈ [word [(0, 0x20), (127, 1)], word [(0, 0x30), (8, 1), (26, 1)], word [(0, 0x38), (127, 1)],
        word [(0, 0x30), (8, 0x12), (26, 1)], word [(0, 0x28), (127, 1)], word [(0, 0x58), (8, 1), (127, 1)]],
      ∀ s, s = atHead up w → s.Canon ∧ s.AtHead sid w ∧
        (fld w 0 8 = 0x20 → s.mmaWait (atOf sid) w = none ∧ mmaCause s (atOf sid) w (mmaFields w) (mmaSpans (s.st (atOf sid)) (mmaFields w)) = some 2) ∧
        (fld w 0 14 = 0x130 → s.vopWait (atOf sid) w = none ∧ vopCause s (atOf sid) w (vopFields w) (vopSpans (vopFields w)) = some 2) ∧
        (fld w 0 14 = 0x1230 → s.optWait (atOf sid) w = none ∧ optCause s (atOf sid) w (vopFields w) (s.optRecord sid w) (s.optHeader sid w)
            (optSpans (vopFields w) (s.optRecord sid w) (s.optHeader sid w)) = some 2) ∧
        (fld w 0 8 = 0x38 → s.glnWait (atOf sid) w = none ∧ glnCause s (atOf sid) w (glnFields w) = some 2) ∧
        (fld w 0 8 = 0x28 → s.drnWait (atOf sid) w = none ∧
          drnCause s (atOf sid) w (drnFields w) (s.drnDesc (atOf sid) (drnFields w)) (s.drnRanges (atOf sid) (drnFields w)) = some 2) ∧
        (fld w 0 8 = 0x58 → s.chkWait (atOf sid) w = none ∧ chkCause s (atOf sid) w ((s.fur 0 0).slot (s.chkSlot sid w)) = some 2) := by
  refine ⟨?_, ?_, ?_, ?_⟩
  · intro x hx
    simp only [List.mem_cons, List.not_mem_nil, or_false] at hx
    rcases hx with rfl | rfl | rfl <;> exact ⟨canon_of (by decide +kernel), head_of (by decide +kernel), by decide +kernel⟩
  · intro w hw; subst hw
    exact ⟨canon_of (by decide +kernel), head_of (by decide +kernel), by decide +kernel, by decide +kernel⟩
  · intro w hw; subst hw
    exact ⟨canon_of (by decide +kernel), head_of (by decide +kernel), by decide +kernel, by decide +kernel, by decide +kernel⟩
  · intro w hw s hs; subst hs
    simp only [List.mem_cons, List.not_mem_nil, or_false] at hw
    rcases hw with rfl | rfl | rfl | rfl | rfl | rfl <;>
      exact ⟨canon_of (by decide +kernel), head_of (by decide +kernel), by decide +kernel⟩

/-! ### Witnesses: the block as a whole -/

/-- A command at the front, and one that leaves a fuse burned (R488). -/
theorem witness_StepRunsFrontCommand :
    { State.reset with pending := [.furrowWake 0 0] }.pending = .furrowWake 0 0 :: [] ∧ State.reset.pending = [] := by
  decide +kernel

theorem witness_CommandsLeaveQueue :
    (∃ t, exec (.furrowWake 0 0) up = .next t) ∧ ∃ t, step { up with pending := [.furrowWake 0 0] } = .next t :=
  ⟨next_of (by decide +kernel), next_of (by decide +kernel)⟩

/-- A burn that is done, in a running device (R488). -/
theorem witness_FusesOnlyBurn : ∃ t, step { up.wf R.SEC_STAT_BURNING 1 with pending := [.fuseBurnDone true] } = .next t :=
  next_of (by decide +kernel)

theorem witness_StepKeepsCanonicalForm : up.Canon ∧ ∃ t, step { up with pending := [.furrowWake 0 0] } = .next t :=
  ⟨up_canon, next_of (by decide +kernel)⟩

theorem witness_CommandsChangeOnlyTheirParts : ∃ t, exec (.furrowWake 0 0) up = .next t := next_of (by decide +kernel)

/-! ### Witnesses: queues -/

/-- A command word with the given values at the given bytes. -/
def cmd (l : List (Nat × Nat)) : CmdWord := BitVec.ofNat 512 (l.foldl (fun n e => n + e.2 * 2 ^ (8 * e.1)) 0)

/-- Queue 8191 of class `cls`, ACTIVE, with one command to start. -/
def qone (s : State) (cls : Nat) : State :=
  sets s [(R.QM_QCFG_EN 8191, 1), (R.QM_QSTAT_STATE 8191, qActive), (R.QM_QDB_COUNT 8191, 1), (R.QM_QBINDV_CLASS 8191, cls)]

/-- The same queue with `w` at its start position, decided. -/
def withCmd (s : State) (cls : Nat) (w : CmdWord) : State := (qone s cls).setQueue 8191 { head := some w, go := true }

/-- What `State.MayRun` asks, as one Boolean. -/
def runB (s : State) (opc : Nat) (w : CmdWord) : Bool :=
  decide ((s.queue 8191).head = some w) && (s.queue 8191).go && decide (CmdWord.opc w = opc) && s.mayStart 8191 &&
    decide (s.startVerdict 8191 (s.qStart 8191) w = .go) && decide (s.cmd? 8191 (s.qStart 8191) = none)

theorem run_of {s : State} {opc : Nat} {w : CmdWord} (h : runB s opc w = true) : s.MayRun 8191 opc w := by
  simp only [runB, Bool.and_eq_true, decide_eq_true_eq] at h
  obtain ⟨⟨⟨⟨⟨a, b⟩, c⟩, d⟩, e⟩, f⟩ := h
  exact ⟨a, b, c, d, e, f⟩

/-- `s` with bytes at a device address. -/
def mem (s : State) (a : Nat) (b : List Byte) : State := { s with hbm := s.hbm.writeN granSize a b }

/-- A finished command of queue 8191. -/
def done : QCmd := ⟨0, 0, 5, true, none, some (okStatus, 0), true, 0⟩

/-- The only queue with a command has its turn, with a good and a failed read; a NOP that waits for step 1 and one whose `DEP`
queue is disabled; a completion that is due (R359 to R362, R366). -/
theorem witness_CommandStartDecides :
    (∀ s, s = qone up 0 → s.Canon ∧ s.hasTurn 8191 = true ∧ (s.queue 8191).dead = [] ∧ s.qLocal 8191 = false ∧
      (s.readCmd 8191 (some 0)).1 = some 0 ∧ (s.readCmd 8191 none).1 = none ∧ s.headStop 8191 0 0 = none ∧
      s.headStop 8191 0 (cmd [(0, 0xFF)]) = some (invalid, 0)) ∧
    (∀ w ∈ [cmd [(1, 1), (4, 1)], cmd [(1, 16), (12, 1)]],
      (withCmd up 0 w).Canon ∧ CmdWord.opc w = 0 ∧ (withCmd up 0 w).mayStart 8191 = true ∧
      lowest (reservedBytes w 32 32) = none ∧
      (withCmd up 0 w).startVerdict 8191 0 w ∈ [Verdict.wait, .stop stStatus stRunning]) ∧
    ∀ s, s = (qone up 0).setQueue 8191 { cmds := [done] } → s.Canon ∧ s.cplDue 8191 = some done ∧ s.qLocal 8191 = false := by
  refine ⟨?_, ?_, ?_⟩
  · intro s hs; subst hs
    exact ⟨canon_of (by decide +kernel), by decide +kernel, by decide +kernel, by decide +kernel, by decide +kernel,
      by decide +kernel, by decide +kernel, by decide +kernel⟩
  · intro w hw
    simp only [List.mem_cons, List.not_mem_nil, or_false] at hw
    rcases hw with rfl | rfl <;>
      exact ⟨canon_of (by decide +kernel), by decide +kernel, by decide +kernel, by decide +kernel, by decide +kernel⟩
  · intro s hs; subst hs
    exact ⟨canon_of (by decide +kernel), by decide +kernel, by decide +kernel⟩

/-- What `State.MayWrite` asks, as one Boolean. -/
def writeB (s : State) (u : Fin 64) (a : Nat) : Bool := s.served a && s.funcEnabled u && decide (s.reach u a = .rw)

theorem write_of {s : State} {u : Fin 64} {a : Nat} (h : writeB s u a = true) : s.MayWrite u a := by
  simp only [writeB, Bool.and_eq_true, decide_eq_true_eq] at h
  exact ⟨h.1.1, h.1.2, h.2⟩

/-- Doorbells, enables, disables and binds of the last queue (R353, R355, R357). -/
theorem witness_QueueRegisterWrites :
    (qone up 0).Canon ∧ (qone up 0).MayWrite 0 (A.QM_QDB 8191) ∧ (qone up 0).flag (R.QM_QCFG_EN 8191) = true ∧
    up.flag (R.QM_QCFG_EN 8191) = false ∧ up.MayWrite 0 (A.QM_QCFG 8191) ∧ up.resident (up.qCtx 8191) = true ∧
    ((qone up 0).wf (R.QM_QDONE_COUNT 8191) 1).qDone 8191 = ((qone up 0).wf (R.QM_QDONE_COUNT 8191) 1).qDb 8191 ∧
    up.MayWrite 0 A.QM_QBIND ∧ up.flag (R.QM_QCFG_EN (up.rf R.QM_QSEL_QUEUE)) = false ∧
    ((qone up 0).wf R.QM_QSEL_QUEUE 8191).flag (R.QM_QCFG_EN (((qone up 0).wf R.QM_QSEL_QUEUE 8191).rf R.QM_QSEL_QUEUE)) = true ∧
    wbits (1 : Word32) 0 6 ≠ 0 ∧ ¬ (up.resident (wbits (1 : Word32) 8 6) = true ∧ up.client (wbits (1 : Word32) 8 6) = wbits (1 : Word32) 0 6) :=
  ⟨canon_of (by decide +kernel), write_of (by decide +kernel), by decide +kernel, by decide +kernel, write_of (by decide +kernel),
    by decide +kernel, by decide +kernel, write_of (by decide +kernel), by decide +kernel, by decide +kernel, by decide +kernel,
    by decide +kernel⟩

/-- Doorbells of a ring of 16 commands: the last that fits, one beyond it, the largest step back (R355). -/
theorem witness_DoorbellBounds :
    ∀ x ∈ [((16 : Word32), true), (17, false), (0x80000000, false), (0xFFFFFFFF, false)],
      ∀ s, s = (up.wf (R.QM_QCFG_EN 8191) 1).wf (R.QM_QCFG_LOGSZ 8191) 4 →
        s.Canon ∧ s.MayWrite 0 (A.QM_QDB 8191) ∧ s.flag (R.QM_QCFG_EN 8191) = true ∧ s.qLog 8191 = 4 ∧
          (((x.1.toNat + 2 ^ 32 - s.qDb 8191) % 2 ^ 32 < 2 ^ 31 ∧ (x.1.toNat + 2 ^ 32 - s.qDone 8191) % 2 ^ 32 ≤ 2 ^ s.qLog 8191) ↔
            x.2 = true) := by
  intro x hx s hs; subst hs
  simp only [List.mem_cons, List.not_mem_nil, or_false] at hx
  rcases hx with rfl | rfl | rfl | rfl <;> exact ⟨canon_of (by decide +kernel), write_of (by decide +kernel), by decide +kernel⟩

/-! ### Witnesses: launches -/

/-- Launch tables of F at 512 and of B at 768 that name logical furrow 23's program at 4096, and a run descriptor of 2 pairs at 1024. -/
def tabs (s : State) : State :=
  mem (mem (mem s 512 (List.replicate 185 0 ++ [16])) 768 (List.replicate 185 0 ++ [16] ++ List.replicate 40 0 ++ [1])) 1024
    ([0, 2, 0, 0, 0, 0, 0, 0, 0, 3, 0, 0, 0, 0, 0, 0, 1, 0, 0, 0, 2])

/-- LAUNCH of one table and SEQRUN of two pairs on field 0 (R82, R147, R363). -/
theorem witness_LaunchJoinsStreams :
    (∀ w, w = cmd [(0, 0x10), (1, 1), (32, 512)] → ∀ s, s = withCmd (tabs up) 0 w →
      s.Canon ∧ s.MayRun 8191 0x10 w ∧ s.qCtx 8191 = 0 ∧ (List.range 4).filter (fun f => cmdAt w (32 + 8 * f) 8 != 0) = [0] ∧
      ((s.ctx 0).latch.compat && (s.ctx 0).latch.tied) = false ∧ s.inMask 0 0 = true ∧ s.isFenced (.field 0) = false ∧
      s.badTableAt 2 0 512 = false ∧ s.tableWaits false 0 512 = false ∧ (s.tableAt 512).furrows = [23] ∧ s.physical 0 23 = some (23 : Fin 26).val ∧
      s.isFenced (.stream 0 23 0 0) = false) ∧
    ∀ w, w = cmd [(0, 0x11), (1, 1), (32, 1024)] → ∀ s, s = withCmd (tabs up) 0 w →
      s.Canon ∧ s.MayRun 8191 0x11 w ∧ (List.range 4).filter (fun f => cmdAt w (32 + 8 * f) 8 != 0) = [0] ∧
      (RunDesc.parse (s.peekHbm 1024 128)).pairs = 2 ∧ s.badRunAt 0 1024 = false ∧ s.tableWaits true 0 1024 = false ∧ (s.tableAt 768).furrows = [23] ∧
      (s.tableAt 768).strm = 1 ∧ s.isFenced (.stream 0 23 0 1) = false := by
  constructor <;> intro w hw s hs <;> subst hs <;> subst hw
  · exact ⟨canon_of (by decide +kernel), run_of (by decide +kernel), by decide +kernel, by decide +kernel, by decide +kernel,
      by decide +kernel, by decide +kernel, by decide +kernel, by decide +kernel, by decide +kernel, by decide +kernel,
      by decide +kernel⟩
  · exact ⟨canon_of (by decide +kernel), run_of (by decide +kernel), by decide +kernel, by decide +kernel, by decide +kernel,
      by decide +kernel, by decide +kernel, by decide +kernel, by decide +kernel⟩

/-- A launch that waits, in a stream that has and one that has not stepped; a fetch of the last word of 256 bytes; a run whose
second forward launch is due (R109, R110, R148). -/
theorem witness_LaunchesStartAndFetch :
    (∀ b, ∀ s, s = up.setSt (atOf sid) { up.st (atOf sid) with launches := [lnch], stepped := b } →
      s.Canon ∧ (s.st (atOf sid)).launches = [lnch] ∧ (s.st (atOf sid)).cur = none ∧ s.streamHeld 0 0 0 0 = false ∧
      s.awake 0 0 = true) ∧
    (∀ s, s = up.setSt (atOf sid) { up.st (atOf sid) with cur := some lnch, state := .waiting, wait := .fetch, pc := 240 } →
      s.Canon ∧ (s.st (atOf sid)).cur.isSome = true ∧ (s.st (atOf sid)).state ≠ .halted ∧ s.streamHeld 0 0 0 0 = false ∧
      (s.fetchWords 0 240).length = 1 ∧ s.hbmWaits 240 16 = false) ∧
    ∀ s, s = { up with seqRuns := [⟨0, 0, 0, 0, 0, 3, 1⟩] } → s.Canon ∧ s.unissued lnch = false ∧
      s.unissued { lnch with run := some 0, idx := 3 } = true ∧ (s.seqRuns.find? fun r => r.field == 0 && s.backDone r.id (r.issuedF - 1)).isSome = true := by
  refine ⟨?_, ?_, ?_⟩
  · intro b s hs; subst hs
    cases b <;> exact ⟨canon_of (by decide +kernel), by decide +kernel, by decide +kernel, by decide +kernel, by decide +kernel⟩
  · intro s hs; subst hs
    exact ⟨canon_of (by decide +kernel), by decide +kernel, by decide +kernel, by decide +kernel, by decide +kernel,
      by decide +kernel⟩
  · intro s hs; subst hs
    exact ⟨canon_of (by decide +kernel), by decide +kernel, by decide +kernel, by decide +kernel⟩

/-! ### Witnesses: queue commands -/

/-- NOP; COPY and FILL of nothing and of 4 bytes within the partition; a copy that ends (R361, R364). -/
theorem witness_NopAndCopiesStart :
    (∀ x ∈ [(0, 0, cmd []), (1, 0x20, cmd [(0, 0x20), (40, 64)]), (1, 0x20, cmd [(0, 0x20), (40, 64), (48, 4)]),
        (1, 0x21, cmd [(0, 0x21), (40, 64)]), (1, 0x21, cmd [(0, 0x21), (40, 64), (48, 4)])],
      (withCmd up x.1 x.2.2).Canon ∧ (withCmd up x.1 x.2.2).MayRun 8191 x.2.1 x.2.2 ∧ cmdAt x.2.2 48 6 < 2 ^ 40 ∧
      cmdAt x.2.2 56 1 = 0 ∧ lowest (reservedBytes x.2.2 54 2 ++ reservedBytes x.2.2 57 7) = none ∧
      (withCmd up x.1 x.2.2).inPartition 0 0 4 = true ∧ (withCmd up x.1 x.2.2).rangeFenced 0 4 = false ∧
      (withCmd up x.1 x.2.2).inPartition 0 64 4 = true ∧ (withCmd up x.1 x.2.2).writeOk 0 64 4 false false = true ∧
      (withCmd up x.1 x.2.2).rangeFenced 64 4 = false) ∧
    ∀ x ∈ [(⟨8191, 0, 0, 64, false, true, 4, none⟩ : CopyOp), ⟨8191, 0, 0, 64, true, false, 4, none⟩,
        ⟨8191, 0, 0, 64, false, false, 4, some 7⟩],
      ∀ s, s = { (qone up 1).setQueue 8191 { cmds := [{ done with fin := none, ready := false }] } with copies := [x] } →
        s.Canon ∧ s.copies[(0 : Fin 4).val]? = some x ∧ s.cmd? 8191 0 = some { done with fin := none, ready := false } ∧
        s.copyWaits x = false ∧ s.copyBad x = false ∧ ∀ k, k < x.len → s.mapAddr (x.dst + k) = 64 + k := by
  constructor
  · intro x hx
    simp only [List.mem_cons, List.not_mem_nil, or_false] at hx
    rcases hx with rfl | rfl | rfl | rfl | rfl <;>
      exact ⟨canon_of (by decide +kernel), run_of (by decide +kernel), by decide +kernel, by decide +kernel, by decide +kernel,
        by decide +kernel, by decide +kernel, by decide +kernel, by decide +kernel, by decide +kernel⟩
  · intro x hx s hs; subst hs
    simp only [List.mem_cons, List.not_mem_nil, or_false] at hx
    rcases hx with rfl | rfl | rfl <;>
      exact ⟨canon_of (by decide +kernel), by decide +kernel, by decide +kernel, by decide +kernel, by decide +kernel,
        by decide +kernel⟩

/-- A serving context in swap state `st`. -/
def swapping (st : Nat) : State := sets up [(R.SRV_CTRL_EN 0, 1), (R.SRV_SWAP_STATE 0, st)]

/-- COLL of a descriptor at 128, and SWAP_LAYER 4095 of a SOW there (R258, R335). -/
theorem witness_CollectiveCommandsStart :
    ∀ x ∈ [(2, 0x30, cmd [(0, 0x30), (32, 128)], 0), (4, 0x63, cmd [(0, 0x63), (32, 4095), (40, 128)], 5)],
      ∀ s, s = withCmd (mem (swapping swSwapping) 128 [BitVec.ofNat 8 x.2.2.2]) x.1 x.2.2.1 →
        s.Canon ∧ s.MayRun 8191 x.2.1 x.2.2.1 ∧ s.inPartition 0 128 128 = true ∧
        s.inPartition 0 (Desc.parse (s.peekHbm 128 128)).grp (Desc.parse (s.peekHbm 128 128)).tableBytes = true ∧
        s.inMask 0 0 = true ∧ s.isFenced (.field 0) = false ∧ s.serving 0 = true ∧ s.swap 0 = swSwapping ∧
        (Desc.parse (s.peekHbm 128 128)).sows = (x.1 == 4) ∧ lowest (reservedBytes x.2.2.1 48 16) = none := by
  intro x hx s hs
  subst hs
  simp only [List.mem_cons, List.not_mem_nil, or_false] at hx
  rcases hx with rfl | rfl <;>
    exact ⟨canon_of (by decide +kernel), run_of (by decide +kernel), by decide +kernel, by decide +kernel, by decide +kernel,
      by decide +kernel, by decide +kernel, by decide +kernel, by decide +kernel, by decide +kernel⟩

/-- BEGIN 1 from RESET, of a training and of a serving context with its barrier open and closed; a replay of step 1 of a serving
context (R292, R294, R302, R330). -/
theorem witness_BeginStartsStep :
    (∀ x ∈ [(0, 0, 0), (0, 1, 0), (2, 1, 0), (0, 1, 3)], ∀ w, w = cmd [(0, 0x40), (32, 1), (36, x.1)] →
      ∀ s, s = withCmd (sets up [(R.CMT_CSTAT_STATE 0, stReset), (R.SRV_CTRL_EN 0, x.2.1), (R.SRV_SWAP_STATE 0, x.2.2)]) 3 w →
        s.Canon ∧ s.MayRun 8191 0x40 w ∧ cmdAt w 36 1 < 3 ∧ lowest (reservedBytes w 37 27) = none ∧
        s.beginRefused 0 1 (cmdAt w 36 1) = false ∧ s.groupInvalid 0 = false ∧ s.beginWaits 0 = false ∧ (s.serving 0 = true ↔ x.2.1 = 1) ∧
        (s.barrierClosed 0 = true ↔ x.2.2 = 3) ∧ (s.admission 0 ((s.srv 0).held ++ s.takenOf 0 (s.scanServe [] 0))).1 = []) ∧
    ∀ w, w = cmd [(0, 0x40), (32, 1), (36, 1)] →
      ∀ s, s = withCmd (((sets up [(R.CMT_CSTAT_STATE 0, stBoundary), (R.SRV_CTRL_EN 0, 1)]).setSrv 0
          { (up.srv 0) with attempt := some {} }).setCtx 0 { up.ctx 0 with aborted := some 1 }) 3 w →
        s.Canon ∧ s.MayRun 8191 0x40 w ∧ s.beginRefused 0 1 1 = false ∧ s.groupInvalid 0 = false ∧ s.beginWaits 0 = false ∧
        s.serving 0 = true ∧
        s.barrierClosed 0 = false := by
  constructor
  · intro x hx w hw s hs
    subst hs; subst hw
    simp only [List.mem_cons, List.not_mem_nil, or_false] at hx
    rcases hx with rfl | rfl | rfl | rfl <;>
      exact ⟨canon_of (by decide +kernel), run_of (by decide +kernel), by decide +kernel, by decide +kernel, by decide +kernel,
        by decide +kernel, by decide +kernel, by decide +kernel, by decide +kernel, by decide +kernel⟩
  · intro w hw s hs
    subst hs; subst hw
    exact ⟨canon_of (by decide +kernel), run_of (by decide +kernel), by decide +kernel, by decide +kernel, by decide +kernel,
      by decide +kernel, by decide +kernel⟩

/-- COMMIT of a ready step 0, ABORT of a running one, ROLLBACK at BOUNDARY, ADOPT from RESET; a step that is ready (R294 to R299). -/
theorem witness_StepsEnd :
    (∀ x ∈ [(0x41, stReady), (0x42, stRunning), (0x43, stBoundary), (0x44, stReset)], ∀ w, w = cmd [(0, x.1)] →
      ∀ s, s = withCmd (sets up [(R.CMT_CSTAT_STATE 0, x.2), (R.CMT_CSTAT_RB 0, 1)]) 3 w →
        s.Canon ∧ s.MayRun 8191 x.1 w ∧ lowest (reservedBytes w 36 28) = none ∧ s.cstate 0 = x.2 ∧ s.stepOf 0 = cmdAt w 32 4 ∧
        s.rf (R.CMT_CSTEP_C 0) = cmdAt w 32 4 ∧ s.flag (R.CMT_CSTAT_RB 0) = true ∧ s.serving 0 = false ∧ s.uncovered 0 = 0 ∧
        (s.stepCurrent 0 = true ↔ x.2 = stReady ∨ x.2 = stRunning)) ∧
    ∀ s, s = (up.setSt (atOf sid) { up.st (atOf sid) with stepped := true, gotLaunch := true }).setCtx 0
        { up.ctx 0 with reported := true } → s.Canon ∧ s.readyNow [] 0 = true ∧ (s.ctx 0).group = none := by
  constructor
  · intro x hx w hw s hs
    subst hs; subst hw
    simp only [List.mem_cons, List.not_mem_nil, or_false] at hx
    rcases hx with rfl | rfl | rfl | rfl <;>
      exact ⟨canon_of (by decide +kernel), run_of (by decide +kernel), by decide +kernel, by decide +kernel, by decide +kernel,
        by decide +kernel, by decide +kernel, by decide +kernel, by decide +kernel, by decide +kernel⟩
  · intro s hs; subst hs
    exact ⟨canon_of (by decide +kernel), by decide +kernel, by decide +kernel⟩

/-! ### Witnesses: serving -/

/-- JOIN, also to a fenced field; LEAVE in a step and at BOUNDARY of a queued join; SWAP_CLOSE; SWAP_OPEN with `NEW` 1 and 0 (R325 to R336). -/
theorem witness_JoinWaitsLeaveEnds :
    ∀ x ∈ [(0x60, cmd [(0, 0x60), (32, 7), (40, 1)], stRunning, swOpen), (0x61, cmd [(0, 0x61), (32, 7)], stRunning, swOpen),
        (0x61, cmd [(0, 0x61), (32, 7)], stBoundary, swOpen), (0x62, cmd [(0, 0x62), (32, 1)], stRunning, swOpen),
        (0x62, cmd [(0, 0x62)], stRunning, swPending), (0x64, cmd [(0, 0x64), (32, 1)], stBoundary, swSwapping),
        (0x64, cmd [(0, 0x64)], stBoundary, swClosing)],
      ∀ s, s = (withCmd (sets (swapping x.2.2.2) [(R.CMT_CSTAT_STATE 0, x.2.2.1)]) 4 x.2.1).setSrv 0
          { up.srv 0 with adm := [⟨7, 0, 1, 1⟩] } →
        s.Canon ∧ s.serving 0 = true ∧ s.MayRun 8191 x.1 x.2.1 ∧ (x.1 = 0x60 → lowest (joinBad x.2.1) = none ∧
          s.isFenced (.field 0) = false ∧ runB { s with fences := [(.field 0, .draining)] } 0x60 x.2.1 = true) ∧
        (x.1 = 0x61 → lowest (leaveBad x.2.1) = none ∧ (s.stepCurrent 0 = true ↔ x.2.2.1 = stRunning) ∧
          (s.srv 0).adm.any (fun j => j.seqid == cmdAt x.2.1 32 4) = true) ∧
        (x.1 = 0x62 ∨ x.1 = 0x64 → cmdAt x.2.1 32 1 < 2 ∧ lowest (reservedBytes x.2.1 33 31) = none) ∧
        s.swap 0 = x.2.2.2 ∧ (s.srv 0).layers = [] ∧ (s.srv 0).failed = [] ∧ (s.srv 0).accepted = false := by
  intro x hx s hs
  subst hs
  simp only [List.mem_cons, List.not_mem_nil, or_false] at hx
  rcases hx with rfl | rfl | rfl | rfl | rfl | rfl | rfl <;>
    exact ⟨canon_of (by decide +kernel), by decide +kernel, run_of (by decide +kernel), by decide +kernel, by decide +kernel,
      by decide +kernel, by decide +kernel, by decide +kernel, by decide +kernel, by decide +kernel⟩

/-! ### Witnesses: collective operations -/

/-- An operation of step 0 on a REDUCE of one element by one member, described at 128. -/
def colop (users : List ColUser) (next : Option Nat) : ColOp :=
  { field := 0, ctx := 0, step := 0, opid := 1, desc := 128, bytes := [1, 0x11, 0, 0, 1, 0, 0, 0, 1] ++ List.replicate 55 0 ++ [1],
    users := users, tables := [[⟨0, 0, 0, 0, 0⟩]], next := next }

/-- A COL that claims a prefetch, one that is accepted, one that waits behind another (R258, R272). -/
theorem witness_CollectiveInstructionIssues :
    ∀ w, w = word [(0, 0x50), (16, 2)] →
      ∀ e ∈ [({ ops := [colop [.prefetch] none] } : ColEng), {}, { waiting := [⟨0, .prefetch, 128, true, [], []⟩] }],
        ∀ s, s = (atHead up w).setEng 0 e →
          s.Canon ∧ w = tileWord 0x50 (b20 w) ∧ s.MayCol sid w ∧ s.colDesc (atOf sid) w = 128 ∧ s.colStalls 0 128 = false ∧
          (s.eng 0).busy < 64 ∧ ((s.claimable 0 0 128 (s.stepOf 0)).isSome = true ↔ e.ops ≠ []) := by
  intro w hw e he s hs
  subst hs; subst hw
  simp only [List.mem_cons, List.not_mem_nil, or_false] at he
  rcases he with rfl | rfl | rfl <;>
    exact ⟨canon_of (by decide +kernel), by decide +kernel,
      ⟨head_of (by decide +kernel), by decide +kernel, by decide +kernel, by decide +kernel, by decide +kernel, by decide +kernel⟩,
      by decide +kernel, by decide +kernel, by decide +kernel, by decide +kernel⟩

/-- An operation with all its data, one without that owes nothing and has a `NEXT` (R262, R272). -/
theorem witness_CollectiveOperationsEnd :
    (∀ s, s = up.setEng 0 { ops := [{ colop [.prefetch] none with stored := [(valKey 0 0 0, ())], vals := [(valKey 0 1 0, [0])] }] } →
      s.Canon ∧ ∃ o, s.colOp? 0 0 1 = some o ∧ o.done = false ∧ o.complete = true ∧ (s.eng 0).waiting = [] ∧ s.endWaits o = false) ∧
    ∀ s, s = up.setEng 0 { ops := [colop [.cmd 0 0] (some 256)] } →
      s.Canon ∧ s.colOp? 0 0 1 = some (colop [.cmd 0 0] (some 256)) ∧ (colop [.cmd 0 0] (some 256)).complete = false ∧
      (colop [.cmd 0 0] (some 256)).owesNothing = true ∧ (s.eng 0).busy < 64 ∧ s.isFenced (.field 0) = false ∧
      s.isFenced (.ctx 0) = false ∧ s.colStalls 0 256 = false := by
  constructor <;> intro s hs <;> subst hs
  · exact ⟨canon_of (by decide +kernel), _, rfl, by decide +kernel, by decide +kernel, by decide +kernel, by decide +kernel⟩
  · exact ⟨canon_of (by decide +kernel), by decide +kernel, by decide +kernel, by decide +kernel, by decide +kernel,
      by decide +kernel, by decide +kernel, by decide +kernel⟩

/-- A packet of type `ty`, class `tc`, auxiliary field `aux` and 16 bytes from device 0 for context `c`. -/
def pk (ty tc c aux : Nat) : Pkt :=
  { ptype := ty, tc := tc, vc := 0, dst := 1, src := 0, dctx := c, len := 1, life := 100, opid := 1, step := 0, addr := 0,
    aux := aux, payload := List.replicate 16 1 }

/-- COLL packets: for a context that is not resident, from no member, for the accepted operation, for a closed one, of another
step, of another run, early with room in the store and without; WRITE packets with writes disabled, enabled, outside the
partition, of another step (R276, R277, R287). -/
theorem witness_CollectivePacketsArrive :
    (∀ x ∈ [({} : ColEng), { ops := [colop [.prefetch] none] }, { closed := [(0, 1)] }], ∀ n ∈ [0, 1],
      ∀ s, s = { (up.setEng 0 x).setCtx 0 { up.ctx 0 with latch := { (up.ctx 0).latch with early := [(0, n)] } } with
          inbox := [(11, pk 2 1 0 0)] } →
        s.Canon ∧ takeInbox (11 : Fin 12) 1 (0 : Fin 2) s.inbox = some (pk 2 1 0 0, []) ∧ s.resident 0 = true ∧
        s.inMask 0 0 = true ∧ s.stepNear 0 0 = some true ∧ (pk 2 1 0 0).run = (s.ctx 0).latch.runs.getD 0 0 ∧
        (s.earlyFits 0 0 (pk 2 1 0 0) = true ↔ n = 1) ∧ (pk 2 1 0 0).kind ≠ 3 ∧ s.dataWaits (pk 2 1 0 0) = false ∧
        ((s.colOp? 0 0 1).isSome = true ↔ x.ops ≠ []) ∧ ((s.eng 0).closed.contains (0, 1) = true ↔ x.closed ≠ []) ∧
        (colop [.prefetch] none).from (pk 2 1 0 0) = true ∧
        (colop [.prefetch] none).from { pk 2 1 0 0 with src := 9 } = false ∧ s.resident 63 = false ∧
        s.stepNear 0 7 = none ∧ s.stepNear 0 1 = some false) ∧
    ∀ s, s = { up.wf (R.COL_CTX_WRITE_EN 0 0) 1 with inbox := [(0, pk 1 0 0 0)] } →
      s.Canon ∧ takeInbox (0 : Fin 12) 0 (0 : Fin 2) s.inbox = some (pk 1 0 0 0, []) ∧ s.hbmWaits 0 16 = false ∧
      s.stepCurrent 0 = true ∧ (s.ctx 0).latch.writeEn.getD 0 false = false ∧
      (s.wf (R.CMT_CSTAT_STATE 0) stReset).stepCurrent 0 = false ∧ s.flag (R.COL_CTX_WRITE_EN 0 0) = true ∧
      s.inPartition 0 0 16 = true ∧ (s.wf (R.CMT_CSTAT_STATE 0) stReset).writeOk 0 0 16 true true = true ∧
      s.inPartition 0 (2 ^ 39 - 16) 16 = false ∧ (pk 1 0 0 0).aux / 4 = 0 ∧ s.otherFenced 0 0 16 = false ∧
      (s.wf (R.CMT_CSTAT_STATE 0) stBoundary).stepNear 0 0 = none := by
  constructor
  · intro x hx n hn s hs
    subst hs
    simp only [List.mem_cons, List.not_mem_nil, or_false] at hx hn
    rcases hx with rfl | rfl | rfl <;> rcases hn with rfl | rfl <;>
      exact ⟨canon_of (by decide +kernel), by decide +kernel⟩
  · intro s hs
    subst hs
    exact ⟨canon_of (by decide +kernel), by decide +kernel⟩

/-- A region of context 0 in field 0: a mirror of device 0's context 0, or one that device 0 mirrors. -/
def reg0 (role : Bool) : Region :=
  { valid := true, mirrorRole := role, mirrored := !role, copy0 := 0, copy1 := 1, len := 1, kept := true, run := 0, kstep := 0,
    partDev := 0, sentEnd := true, endCount := 0 }

/-- BEGIN of the step after a drained pair and of the same pair again; DATA, END and ACK of the kept pair; the timeout (R280, R308). -/
theorem witness_MirrorPacketsAct :
    (∀ k ∈ [0, 1, 2], ∀ b, ∀ s, s = { up with regions := [(0, { reg0 true with drained := b })], inbox := [(0, pk 4 0 0 (4 * k))] } →
      s.Canon ∧ takeInbox (0 : Fin 12) 0 (0 : Fin 2) s.inbox = some (pk 4 0 0 (4 * k), []) ∧ (pk 4 0 0 (4 * k)).kind = k ∧
      (pk 4 0 0 (4 * k)).mRegion = 0 ∧ s.mirrorFor (pk 4 0 0 (4 * k)) = none ∧
      (pk 4 0 0 (4 * k)).addr + 16 ≤ (s.region 0).len * 4096 ∧ (s.region 0).kept = true ∧ (s.region 0).kstep = 0 ∧
      s.mirrorFor { pk 4 0 0 (4 * k) with dctx := 63 } = some 0 ∧ (s.region 0).run = (pk 4 0 0 (4 * k)).run ∧ (s.region 0).flipped = false ∧
      s.hbmWaits (s.mirrorAt (pk 4 0 0 (4 * k))) 16 = false ∧ ((s.region 0).due 0 = true ↔ b = true)) ∧
    (∀ s, s = { up with regions := [(0, reg0 false)], inbox := [(0, pk 4 0 0 12)] } →
      s.Canon ∧ (pk 4 0 0 12).kind = 3 ∧ s.resident 0 = true ∧ s.inMask 0 0 = true ∧ (s.region 0).valid = true ∧
      (s.region 0).mirrorRole = false ∧ (s.region 0).mirrored = true ∧ s.stepCurrent 0 = true ∧ s.stepOf 0 = 0 ∧
      (s.ctx 0).latch.runs.getD 0 0 = (pk 4 0 0 12).run ∧ (s.region 0).sentEnd = true ∧
      (pk 4 0 0 12).mCount = (s.region 0).endCount ∧ (s.region 0).ackDrained = false ∧ (s.region 0).ackFailed = false) := by
  constructor
  · intro k hk b s hs
    subst hs
    simp only [List.mem_cons, List.not_mem_nil, or_false] at hk
    rcases hk with rfl | rfl | rfl <;> cases b <;> exact ⟨canon_of (by decide +kernel), by decide +kernel⟩
  · intro s hs
    subst hs
    exact ⟨canon_of (by decide +kernel), by decide +kernel⟩

/-! ### Witnesses: tokens -/

/-- A token packet of kind `k`, from context 0 of device 0. -/
def tok (k : Nat) : Pkt := { pk 5 2 0 k with opid := 0, len := 0, payload := [] }

/-- READY from a child in a step and held at BOUNDARY, COMMIT and ABORT from the parent, MIRROR_COMMIT and MIRROR_ROLLBACK of a
drained and of an undrained pair, and a token for a context that is not resident (R303 to R308). -/
theorem witness_TokensAct :
    (∀ k ∈ [0, 1, 2, 3, 4], ∀ b, ∀ s,
      s = { (up.wf (R.CMT_CSTAT_STATE 0) (if k = 1 then stReady else stRunning)).setCtx 0
          { up.ctx 0 with group := some ⟨0, 0, 0, false, false, [(0, 0)]⟩ } with
        regions := [(0, { reg0 true with drained := b, back := true, mstep := 0 })], inbox := [(0, tok k)] } →
      s.Canon ∧ takeInbox (0 : Fin 12) 2 (0 : Fin 2) s.inbox = some (tok k, []) ∧ (tok k).ptype = 5 ∧ (Token.of (tok k)).kind = k ∧
      (s.consume 0 (tok k) []).tokenCause (Token.of (tok k)) = none ∧
      (s.consume 0 (tok k) []).holdsToken (Token.of (tok k)) = false ∧ s.mirrorsOf (Token.of (tok k)) = [0] ∧
      (s.region 0).drained = b ∧ (s.region 0).kstep = (tok k).step) ∧
    (∀ s, s = up.wf (R.CMT_CSTAT_STATE 0) stBoundary →
      s.tokenCause (Token.of { tok 0 with step := 1 }) = none ∧ s.holdsToken (Token.of { tok 0 with step := 1 }) = true) ∧
    up.tokenCause (Token.of { tok 0 with dctx := 63 }) = some 0 ∧ (Token.of (tok 5)).kind > 4 ∧
    (up.tokenCause (Token.of (tok 5))).isSome = true := by
  refine ⟨?_, ?_, by decide +kernel, by decide +kernel, by decide +kernel⟩
  · intro k hk b s hs
    subst hs
    simp only [List.mem_cons, List.not_mem_nil, or_false] at hk
    rcases hk with rfl | rfl | rfl | rfl | rfl <;> cases b <;> exact ⟨canon_of (by decide +kernel), by decide +kernel⟩
  · intro s hs; subst hs; decide +kernel

/-! ### Witnesses: Mebenlink ports -/

/-- `s` with port 7 in state `st` as given. -/
def port (s : State) (st : Nat) (y : PortSt) : State := (s.wf (R.MBL_STAT_STATE 7) st).setPort 7 y

/-- What the CRC register holds after header word `h`: four bytes that bring it to 0. -/
def crcFix (h : Nat) : List Byte := leBytes 4 ((leBytes 4 h).foldl crcByte 0xFFFFFFFF)

/-- A flit with header word `h`, slots that keep the CRC register at 0 and the CRC field that this demands, or 0. -/
def flit (h : Nat) (good : Bool) : FlitIn :=
  ⟨0, 0, false, BitVec.ofNat 2048 (leAt (leBytes 4 h ++ crcFix h ++ List.replicate 244 0 ++ if good then List.replicate 4 0xFF else []) 0 256),
    0, true⟩

theorem crc_zeros (n : Nat) : (List.replicate n (0 : Byte)).foldl crcByte 0 = 0 := by
  induction n with
  | zero => rfl
  | succ n ih => rw [List.replicate_succ, List.foldl_cons, show crcByte 0 0 = 0 by decide +kernel, ih]

theorem crc_flit {h : Nat} (z : (leBytes 4 h ++ crcFix h).foldl crcByte 0xFFFFFFFF = 0) :
    crc32c (leBytes 4 h ++ crcFix h ++ List.replicate 244 0) = 0xFFFFFFFF := by
  unfold crc32c
  rw [List.foldl_append, z, crc_zeros]; rfl

theorem intact_of {h : Nat} {good : Bool} (z : (leBytes 4 h ++ crcFix h).foldl crcByte 0xFFFFFFFF = 0)
    (b : (flit h good).bytes.take 252 = leBytes 4 h ++ crcFix h ++ List.replicate 244 0) :
    (flit h good).intact = ((flit h good).fecUnc == 0 && !(flit h good).fecHit && 0xFFFFFFFF == leAt (flit h good).bytes 252 4) := by
  unfold FlitIn.intact
  rw [b, crc_flit z]

/-- A DATA flit of the replay buffer with sequence number 1. -/
def rf1 : RFlit := { seq := 1, cbuf := 0, ccount := 0, body := [] }

/-- DATA in sequence (4095) and out of it, IDLE, NAK of flit 1, KEYON with countdown 0 and 15, and a flit with a false CRC (R228,
R231, R232, R254). -/
theorem witness_FlitsAreReceived :
    ∀ s, s = port up pKex { rxSeq := 4095, replay := [rf1] } →
      s.Canon ∧ s.linkUp 7 = true ∧ s.pphase 7 = pKex ∧
      (∀ x ∈ [(4 * 4095, 0), (4 * 7, 0), (1, 1), (2, 2), (3, 3), (3 + 4 * 15, 3)],
        (flit x.1 true).intact = true ∧ s.tagFails 7 (flit x.1 true) = false ∧ (flit x.1 true).kind = x.2) ∧
      (flit (4 * 4095) true).hdr / 4 % 4096 = (s.port 7).rxSeq ∧ (flit (4 * 7) true).hdr / 4 % 4096 ≠ (s.port 7).rxSeq ∧
      ((s.port 7).replay.filter (fun r => !(((flit 2 true).hdr / 2 ^ 14 % 4096 + 4096 - r.seq) % 4096 < 2048))).find?
        (fun r => r.seq == ((flit 2 true).hdr / 2 ^ 14 + 1) % 4096) = some rf1 ∧
      (flit 0 false).intact = false := by
  intro s hs; subst hs
  refine ⟨canon_of (by decide +kernel), by decide +kernel, by decide +kernel, ?_, by decide +kernel,
    by decide +kernel, by decide +kernel, ?_⟩
  · intro x hx
    simp only [List.mem_cons, List.not_mem_nil, or_false] at hx
    rcases hx with rfl | rfl | rfl | rfl | rfl | rfl <;>
      exact ⟨(intact_of (by decide +kernel) (by decide +kernel)).trans (by decide +kernel), by decide +kernel, by decide +kernel⟩
  · exact (intact_of (by decide +kernel) (by decide +kernel)).trans (by decide +kernel)

/-- A port with a KEYON run begun and one that may begin, a NAK due, a flit to resend, a full replay buffer, an old flit, nothing
in particular; one that waits for a replay; a direction at slot 2^30 (R232, R253, R254). -/
theorem witness_FlitsAreSent :
    (∀ y ∈ [({ keyTx := some 0 } : PortSt), { keyTx := some 15 }, { nakDue := true }, { resend := some 1, replay := [rf1] },
        { encTx := true, old := [rf1] }, {}, { waiting := true },
        { encTx := true, slotTx := 2 ^ 30, encRx := true, slotRx := 2 ^ 30 }], ∀ s, s = port up pActive y →
      s.Canon ∧ s.linkUp 7 = true ∧ s.port 7 = y ∧ s.pphase 7 = pActive) ∧
    (∀ s, s = port up pActive { replay := List.replicate 2048 rf1 } →
      s.Canon ∧ s.linkUp 7 = true ∧ 2048 ≤ (s.port 7).replay.length) ∧
    (PortSt.toResend { resend := some 1, replay := [rf1] }) = some rf1 := by
  refine ⟨?_, ?_, by decide +kernel⟩
  rotate_left
  · intro s hs; subst hs
    have h : port up pActive { replay := List.replicate 2048 rf1 } =
        { up.wf (R.MBL_STAT_STATE 7) pActive with ports := [(7, { replay := List.replicate 2048 rf1 })] } := rfl
    rw [h]
    exact ⟨canon_of (by decide +kernel), by decide +kernel, by
      show 2048 ≤ (List.replicate 2048 rf1).length
      rw [List.length_replicate]⟩
  intro y hy s hs; subst hs
  simp only [List.mem_cons, List.not_mem_nil, or_false] at hy
  rcases hy with rfl | rfl | rfl | rfl | rfl | rfl | rfl | rfl | rfl <;>
    exact ⟨canon_of (by decide +kernel), by decide +kernel, by decide +kernel, by decide +kernel⟩

/-- A port in each state of training, in RETRAIN and ACTIVE; lanes that pass for the widest link and none that do (R220, R222). -/
theorem witness_PortsTrain :
    (∀ st ∈ [pDetect, pTrain, pAlign, pIdent, pKex, pActive], ∀ l ∈ [1, 2],
      ∀ s, s = (port up st {}).wf (R.CLK_PLL_STATE (17 : Fin 18)) l → s.Canon ∧ s.pphase 7 = st ∧ (s.portClocked 7 = true ↔ l = 2)) ∧
    (chooseWidth (up.rf (R.MBL_CTRL_MAXW 7)) 0xFFFF).isSome = true ∧ chooseWidth (up.rf (R.MBL_CTRL_MAXW 7)) 0 = none := by
  refine ⟨?_, by decide +kernel, by decide +kernel⟩
  intro st h l hl s hs; subst hs
  simp only [List.mem_cons, List.not_mem_nil, or_false] at h hl
  rcases h with rfl | rfl | rfl | rfl | rfl | rfl <;> rcases hl with rfl | rfl <;>
    exact ⟨canon_of (by decide +kernel), by decide +kernel⟩

/-- An IDENT of device 5 with allocations of 64 slots each. -/
def idp : Pkt :=
  { pk 8 3 0 0 with payload := leBytes 3 5 ++ leBytes 1 0 ++ leBytes 2 1 ++ leBytes 2 0 ++ (List.replicate 8 (leBytes 2 64)).flatten }

/-- An IDENT from the expected partner, and one that names another; key-exchange message 4, whole and as a first fragment;
heartbeats (R223, R250, R251). -/
theorem witness_KeysAreExchanged :
    (∀ d ∈ [5, 6], ∀ s, s = port (up.wf (R.MBL_PARTNER_DEVID 7) d) pIdent { ctl := [idp] } →
      s.Canon ∧ s.pphase 7 = pIdent ∧ s.takeCtl 7 8 = some (idp, s.setPort 7 {}) ∧ leAt idp.payload 0 3 = 5 ∧
      s.rf (R.MBL_PARTNER_DEVID 7) = d ∧ leAt idp.payload 3 1 = s.rf (R.MBL_PARTNER_PORT 7) ∧ leAt idp.payload 4 2 = 1 ∧
      5 ≠ s.devId ∧ (∀ i, i < 8 → 33 ≤ leAt idp.payload (8 + 2 * i) 2) ∧
      ((List.range 8).map fun i => leAt idp.payload (8 + 2 * i) 2).foldl (· + ·) 0 ≤ 32768) ∧
    (∀ a ∈ [4 + 65536, 4 + 2 * 65536], ∀ s, s = port up pKex { ctl := [{ pk 9 3 0 a with payload := List.replicate 32 0 }], kex := { next := 4 } } →
      s.Canon ∧ s.pphase 7 = pKex ∧ (s.takeCtl 7 9).isSome = true ∧ a % 256 = (s.port 7).kex.next ∧
      a / 256 % 256 = (s.port 7).kex.frag ∧ kexFormed s.fuses.roots [] 4 ((s.port 7).kex.buf ++ List.replicate 32 0) = true ∧
      kexFormed s.fuses.roots [] 4 [] = false) ∧
    ∀ s, s = port up pActive { ctl := [pk 7 3 0 0] } → s.Canon ∧ s.pstate 7 = pActive ∧ (s.takeCtl 7 7).isSome = true ∧
      s.flag (R.MBL_STAT_HB_LOST 7) = false := by
  refine ⟨?_, ?_, ?_⟩
  · intro d hd s hs; subst hs
    simp only [List.mem_cons, List.not_mem_nil, or_false] at hd
    rcases hd with rfl | rfl <;>
      exact ⟨canon_of (by decide +kernel), by decide +kernel, rfl, by decide +kernel, by decide +kernel, by decide +kernel,
        by decide +kernel, by decide +kernel, by decide +kernel, by decide +kernel⟩
  · intro a ha s hs; subst hs
    simp only [List.mem_cons, List.not_mem_nil, or_false] at ha
    rcases ha with rfl | rfl <;>
      exact ⟨canon_of (by decide +kernel), by decide +kernel, by decide +kernel, by decide +kernel, by decide +kernel,
        by decide +kernel, by decide +kernel⟩
  · intro s hs; subst hs
    exact ⟨canon_of (by decide +kernel), by decide +kernel, by decide +kernel, by decide +kernel⟩

/-- Packets for this device, for a routed device and for none; with life left and with none; truncated; an ABORT slot (R241, R244). -/
theorem witness_PacketsAreRouted :
    ∀ s, s = port (sets up [(R.MBL_DEVID_ID, 1), (R.MBL_RT_LO_LO 0, 2), (R.MBL_RT_HI_HI 0, 3), (R.MBL_RT_LO_PORT 0, 6),
        (R.MBL_RT_LO_VALID 0, 1), (R.MBL_STAT_STATE 6, pActive)]) pActive { rx := [pk 1 0 0 0] } →
      s.Canon ∧ (s.port 7).rx = pk 1 0 0 0 :: [] ∧ s.routeOf true (pk 1 0 0 0) = .deliver ∧
      s.routeOf true { pk 1 0 0 0 with dst := 3 } = .out 6 false ∧ s.routeOf true { pk 1 0 0 0 with dst := 4 } = .drop 0 ∧
      s.crossesRing 7 = false ∧ ((sets s [(R.MBL_RT_LO_PORT 0, 4), (R.MBL_STAT_STATE 4, pActive)]).setPort 7 { rx := [{ pk 1 0 0 0 with dst := 3 }] }).crossesRing 7 = true ∧
      s.lifeUsed 7 0 < (pk 1 0 0 0).life ∧ { pk 1 0 0 0 with life := 0 }.life ≤ s.lifeUsed 7 0 ∧
      ({ pk 1 0 0 0 with ptype := 10 } : Pkt).ptype = 10 := by
  intro s hs; subst hs
  exact ⟨canon_of (by decide +kernel), by decide +kernel⟩

/-! ### Witnesses: registers -/

/-- Where nothing is accepted: a device that has not booted and a register of the queue manager (R491, R527). -/
theorem witness_EarlyAccessesAreDiscarded :
    ∀ s, s = State.reset → ∀ a, a = BitVec.ofNat 27 A.QM_QSEL →
      s.stage ≠ 5 ∧ pageAt a.toNat = some .qm ∧ Page.hasCommon .qm = true ∧ 2 ≤ a.toNat % 0x1000 / 4 ∧ a.toNat % 4 = 0 ∧
      ∀ e ∈ [Instr.doorbell 0 0 1, .queueBind 0 1, .queueEnable 0 0 1, .queueDisable 0 0 0, .granuleWrite 0 0 0 1,
        .sheafShareWrite 0 0 0 1, .ctxMemWrite 0 0 1, .contextCreate 0 0 0x80000000, .contextDestroy 0 0 0,
        .quotaWrite 0 0 0 .seedbed 1, .regionValidate 0 0x100, .regionInvalidate 0 0, .portEnableWrite 0 0 1,
        .portRetrainWrite 0 0 9, .devidWrite 0 1, .rxallocWrite 0 0 0 1, .routeEntryCommit 0 0 1,
        .servingConfigWrite 0 0 0x100 1, .ifCtrlWrite 0 0 1, .clkOutWrite 0 1], e.wf = true := by
  intro s hs a ha; subst hs; subst ha
  exact ⟨by decide +kernel, by decide +kernel, by decide +kernel, by decide +kernel, by decide +kernel, by decide +kernel⟩

/-- `up` with one word latched for function 0. -/
def latched : State := { up with rdLatch := [(busKey 0 (A.PWR_ENERGY_LO + 4), 7)] }

/-- A readable register with and without a latched word, one out of reach, a low word, a free-running one, and writes of each
kind (R12 to R18, R245, R345, R382, R464, R497, R499). -/
theorem witness_ReadsLatchAndClear :
    (∀ s, s = latched → ∀ u, u = (0 : Fin 64) →
      s.Canon ∧ Store.Sorted s.rdLatch ∧ (∀ a ∈ [A.PWR_ENERGY_LO, A.PWR_FC_MIN, A.CTX_IF_SEQ (0 : Fin 64)], s.served a = true) ∧
      s.funcEnabled u = true ∧ s.readable u A.PWR_ENERGY_LO = true ∧ A.PWR_ENERGY_LO % 4 = 0 ∧ (A.PWR_ENERGY_LO + 1) % 4 ≠ 0 ∧
      isLow A.PWR_ENERGY_LO = true ∧ sget? s.rdLatch (busKey u A.PWR_ENERGY_LO) = none ∧
      sget? s.rdLatch (busKey u (A.PWR_ENERGY_LO + 4)) = some 7 ∧ isTimed A.PWR_ENERGY_LO = false ∧
      { s with vfs := 1 }.readable (1 : Fin 64) 0x7FFF000 = false ∧ s.readable u A.PWR_FC_MIN = true ∧
      s.readable u (A.CTX_IF_SEQ (0 : Fin 64)) = true ∧ s.rf R.HIF_ACC_INFO_VALID = 0 ∧
      (s.wf R.HIF_ACC_INFO_VALID 1).rf R.HIF_ACC_INFO_VALID = 1) ∧
    (∀ e ∈ [(A.QM_QSEL, Page.qm, (7 : Word32)), (0x11020, .qm, 0), (0x11020, .qm, 1), (0x11108, .qm, 1),
        (0x200000, .mailbox 0, 7), (0x5C180, .security, 7)], ∀ a, a = BitVec.ofNat 27 e.1 →
      latched.MayWrite 0 a.toNat ∧ pageAt a.toNat = some e.2.1 ∧ (Instr.registerWrite 0 a e.2.2).wf = true ∧
        Store.Sorted latched.sec.mailbox.cells) ∧
    (∀ a ∈ [A.CTX_SR_SEED_LO 0, A.CTX_SR_SEED_HI 0, A.CMT_CGRP_HI 0, A.MBL_RT_HI 0], latched.MayWrite 0 a ∧ a < 2 ^ 27) ∧
    stagesLow (A.CTX_SR_SEED_LO 0) = true ∧ stagesHigh (A.CTX_SR_SEED_HI 0) = true ∧ stagesHigh (A.CMT_CGRP_HI 0) = true ∧
    latched.pairReserved (A.CTX_SR_SEED_HI 0) 0 0 = false ∧ latched.pairReserved (A.CMT_CGRP_HI 0) 1 0 = true := by
  refine ⟨?_, ?_, ?_, by decide +kernel, by decide +kernel, by decide +kernel, by decide +kernel, by decide +kernel⟩
  · intro s hs u hu; subst hs; subst hu
    exact ⟨canon_of (by decide +kernel), by decide +kernel⟩
  · intro e he a ha
    subst ha
    simp only [List.mem_cons, List.not_mem_nil, or_false] at he
    rcases he with rfl | rfl | rfl | rfl | rfl | rfl <;> exact ⟨write_of (by decide +kernel), by decide +kernel⟩
  · intro a ha
    simp only [List.mem_cons, List.not_mem_nil, or_false] at ha
    rcases ha with rfl | rfl | rfl | rfl <;> exact ⟨write_of (by decide +kernel), by decide +kernel⟩

/-- Port 0 in state `st`, with a partner. -/
def portIn (st : Nat) : State := sets up [(R.MBL_STAT_STATE 0, st), (R.MBL_PARTNER_VALID 0, 1), (R.MBL_DEVID_ID, 5)]

/-- `s` with an unfinished command of context `c` in queue 8191. -/
def busyCtx (s : State) (c : Nat) : State :=
  (sets s [(R.QM_QBINDV_CTX 8191, c)]).setQueue 8191 { cmds := [{ done with fin := none }] }

/-- A port in each state that its control acts on, other ports up and down; a gate that a field's clock allows and one that breaks
the tree; a busy serving context and one at rest (R222, R234, R243, R339, R481). -/
theorem witness_PortsAndClocksAreSet :
    (∀ st ∈ [pDisabled, pActive, pFailed], ∀ s, s = portIn st →
      s.Canon ∧ s.MayWrite 0 (A.MBL_CTRL (0 : Fin 8)) ∧ s.MayWrite 0 A.MBL_DEVID ∧ s.MayWrite 0 (A.MBL_RXALLOC (0 : Fin 8) (0 : Fin 4)) ∧
      (s.pstate (0 : Fin 8) = st ∧ s.rf (R.MBL_PARTNER_VALID (0 : Fin 8)) = 1 ∧ s.devId ≠ noDevId ∧
        (List.range 4).foldl (fun n k => n + s.rf (R.MBL_RXALLOC_VC0 (0 : Fin 8) k) + s.rf (R.MBL_RXALLOC_VC1 (0 : Fin 8) k)) 0 ≤ 32768 ∧
        s.isFenced (.port (0 : Fin 8)) = false ∧ ((∀ r, r < 8 → s.portUp r = false) ↔ st ≠ pActive))) ∧
    ∀ s, s = busyCtx up 0 → ∀ a : BitVec 27, a = BitVec.ofNat 27 0x1000028 →
      s.Canon ∧ pageAt (a.toNat / 0x1000 * 0x1000) = some (.field 0) ∧ s.MayWrite 0 (a.toNat / 0x1000 * 0x1000 + 0x28) ∧
      s.MayWrite 0 A.CLK_OUT ∧ s.MayWrite 0 (A.CTX_IF_CTRL (0 : Fin 64)) ∧
      s.MayWrite 0 (Page.servingBase (1 : Fin 64) + (0x100 : BitVec 12).toNat) ∧
      (s.gateBreaks (.field 0) 1 = true ∧ s.gateBreaks (.field 0) 0 = false ∧ servOffset 0x100 = true ∧
        s.servBusy 0 = true ∧ s.servBusy (1 : Fin 64) = false ∧ isLow (Page.servingBase 1 + 0x108) = true ∧
        isLow (Page.servingBase 1 + 0x100) = false ∧ isLow (Page.servingBase 1 + 0x100 - 4) = false) := by
  constructor
  · intro st hst s hs
    subst hs
    simp only [List.mem_cons, List.not_mem_nil, or_false] at hst
    rcases hst with rfl | rfl | rfl <;>
      exact ⟨canon_of (by decide +kernel), write_of (by decide +kernel), write_of (by decide +kernel), write_of (by decide +kernel),
        by decide +kernel⟩
  · intro s hs a ha
    subst hs; subst ha
    exact ⟨canon_of (by decide +kernel), by decide +kernel, write_of (by decide +kernel), write_of (by decide +kernel),
      write_of (by decide +kernel), write_of (by decide +kernel), by decide +kernel⟩

/-! ### Witnesses: memory and contexts -/

/-- A context that is not active, with a free granule; one that is active; a granule that is cleared; reads and a partial write of
a codeword; a scrubber that runs (R157, R158, R161 to R168, R174, R175). -/
theorem witness_MemoryIsAssignedAndRead :
    ∀ s, s = { busyCtx (sets up [(R.CMT_CSTAT_STATE 0, stReset), (R.HBM_SCRUB_CTRL_EN 0 0, 1), (R.FLD_GRAN_CLEARING 0 4, 1)]) 1 with
          clearing := [4] } →
      s.Canon ∧ s.MayWrite 0 (A.FLD_GRAN (0 : Fin 4) (5 : Fin 480)) ∧ s.MayWrite 0 (A.FLD_SHEAF (0 : Fin 4) (0 : Fin 64)) ∧
      s.MayWrite 0 (A.CTX_MEM (0 : Fin 64)) ∧
      (s.owner? (0 : Fin 4) (5 : Fin 480) = none ∧ s.owner? (0 : Fin 4) (3 : Fin 480) = some 0 ∧ s.granFixed 0 0 = false ∧ s.granFixed 0 1 = true ∧
        s.granHeld 0 3 = false ∧ s.clearing.find? (fun y => y / 512 == (0 : Fin 4).val && y % 512 % 5 == (4 : Fin 5).val) = some 4 ∧
        s.active 0 = false ∧ s.active 1 = true ∧
        (∀ d, d < 64 → d ≠ 0 → unitsMeet 0 4 (s.rf (R.FLD_SHEAF_BASE (0 : Fin 4) d)) (s.rf (R.FLD_SHEAF_SIZE (0 : Fin 4) d)) = false) ∧
        s.wholeGroups 0 0 = true ∧ s.wholeGroups 0 1 = true ∧ sget? s.sec.keys 0 = none ∧
        (s.wf (R.FLD_SHEAF_SIZE 0 2) 4).rf (R.FLD_SHEAF_SIZE (0 : Fin 4) 2) = 4 ∧ unitsMeet 0 4 0 4 = true ∧
        { s with regions := [(0, reg0 false)] }.granHeld 0 0 = true ∧ s.stackAsleep 0 4 = false ∧ s.stackAsleep 1 0 = true ∧
        populated 0 = true ∧ s.hbmWaits 0 64 = false ∧ s.hbmWaits (4 * granSize) 64 = true ∧ s.rangeFenced 0 64 = false ∧
        { s with fences := [(.field 0, .fenced)] }.rangeFenced 0 64 = true ∧
        s.writerOk (.bar2 0) 0 3 = true ∧ s.hbmWaits 0 3 = false ∧ sget? s.hbmBad (s.mapAddr 0 / 64) = none ∧
        s.rf (R.HBM_SCRUB_CTRL_EN (0 : Fin 4) (0 : Fin 5)) = 1 ∧ s.wordWaits (s.rowAddr 0 0 (s.rf (R.HBM_SCRUB_STAT_ROW 0 0)) 0) = false ∧
        s.wordWaits (s.rowAddr 0 4 0 0) = true) := by
  intro s hs; subst hs
  exact ⟨canon_of (by decide +kernel), write_of (by decide +kernel), write_of (by decide +kernel), write_of (by decide +kernel),
    by decide +kernel⟩

/-- BAR2 of function 0: bytes in a partition, in a granule of nobody, in one that is cleared, in a fenced field, in a context that
executes; bytes beyond the BAR (R156, R346, R436). -/
theorem witness_Bar2ReachesThePartition :
    (∀ s, s = sets up [(R.CMT_CSTAT_STATE 0, stReset), (R.FLD_GRAN_CLEARING 0 4, 1)] → ∀ n, n = (3 : Fin 4097).val →
      s.Canon ∧ s.bar2Addr (0 : Fin 64) (0 : BitVec 41).toNat = 0 ∧ s.bar2Served (0 : Fin 64) (0 : BitVec 41).toNat n = true ∧
      s.bar2In 0 0 n = true ∧ s.bar2In 0 (5 * granSize) n = false ∧ s.rangeFenced 0 n = false ∧ s.hbmWaits 0 n = false ∧
      s.hbmWaits (4 * granSize) n = true ∧ { s with fences := [(.field 0, .draining)] }.rangeFenced 0 n = true ∧
      s.bar2Writable 0 0 n = true ∧ { s with regions := [(0, reg0 true)] }.bar2Writable 0 0 n = false ∧
      s.bar2Served (0 : Fin 64) (2 ^ 41 - 1) n = false ∧
      ∀ k, k < n → s.mapAddr (0 + k) = 0 + k ∧ sget? s.hbmBad ((0 + k) / 64) = none) := by
  intro s hs n hn; subst hs; subst hn
  exact ⟨canon_of (by decide +kernel), by decide +kernel⟩

/-- A context to create, one that is resident, one to destroy and one that is in use; quotas that fit; a region that can be
validated, one that cannot, one that is valid (R285, R288, R374 to R377). -/
theorem witness_ContextsAndRegionsAreSetUp :
    (∀ s, s = busyCtx (sets up [(R.CTX_BIND_VALID 2, 1)]) 0 →
      s.Canon ∧ s.MayWrite 0 (A.CTX_BIND (1 : Fin 64)) ∧ s.MayWrite 0 A.CMT_RCTL ∧ s.MayWrite 0 (A.FLD_SBQ (1 : Fin 64) (0 : Fin 4)) ∧
      (s.resident (1 : Fin 64) = false ∧ s.resident (0 : Fin 64) = true ∧ s.canDestroy 2 = true ∧ s.canDestroy 0 = false ∧
        s.active 0 = true ∧ s.active 1 = false ∧ (∀ d, d < 64 → d ≠ 1 → s.resident d = true → unitsMeet 4 4
          (s.rf (quotaLocs d (0 : Fin 4) .seedbed).2.1) (s.rf (quotaLocs d (0 : Fin 4) .seedbed).2.2.1) = false) ∧
        (s.rf (R.FLD_SBQ_BASE 1 0), s.rf (R.FLD_SBQ_SIZE 1 0)) ≠ (4, 4))) ∧
    ∀ st ∈ [stReset, stRunning], ∀ b, ∀ s, s = { sets up [(R.CMT_CSTAT_STATE 0, st)] with regions := [(0, { reg0 false with valid := b })] } →
      s.Canon ∧ s.MayWrite 0 A.CMT_RCTL ∧ s.rf R.CMT_RSEL_REGION = 0 ∧ (s.region 0).valid = b ∧
      (s.canValidate 0 ((s.region 0).withCtl 0x900) = true ↔ st = stReset) ∧
      (s.regionIdle (s.region 0).ctx = true ↔ st = stReset) := by
  constructor
  · intro s hs; subst hs
    exact ⟨canon_of (by decide +kernel), write_of (by decide +kernel), write_of (by decide +kernel), write_of (by decide +kernel),
      by decide +kernel⟩
  · intro st hst b s hs
    subst hs
    simp only [List.mem_cons, List.not_mem_nil, or_false] at hst
    rcases hst with rfl | rfl <;> cases b <;>
      exact ⟨canon_of (by decide +kernel), write_of (by decide +kernel), by decide +kernel⟩

/-! ### Witnesses: security and system commands -/

/-- An image header: its magic number and format, `n` body bytes. -/
def imgOf (n : Nat) : List Byte := leBytes 4 0x46584B45 ++ [1, 0, 0, 0] ++ leBytes 4 0 ++ leBytes 4 n

/-- Key slots that are free, active and encrypting; update sessions none, of either owner and receiving; a burn and its start; key
messages; a first MGMT fragment; the test access port (R488 to R501, R529). -/
theorem witness_SecurityCommandsAct :
    (∀ e ∈ [0, 1], ∀ s, s = { busyCtx (sets up [(R.SEC_CTRL_KEY_NOIDE, 1), (R.CTX_MEM_ENC 0, e)]) 1 with
          sec := { up.sec with keyIn := [(0, 1)] } } →
      s.Canon ∧ s.MayWrite 0 A.SEC_KCMD ∧ s.rf R.SEC_KSEL_SLOT = 0 ∧ s.active 0 = false ∧
      (s.wf R.SEC_KSEL_SLOT 1).active ((s.wf R.SEC_KSEL_SLOT 1).rf R.SEC_KSEL_SLOT) = true ∧
      s.keyBytes.take 32 ≠ s.keyBytes.drop 32 ∧ s.rf R.SEC_CTRL_KEY_NOIDE = 1 ∧ s.rf R.SEC_STAT_DBG = 0 ∧
      s.rf (R.CTX_MEM_ENC 0) = e) ∧
    (∀ x ∈ [(upIdle, 0), (upReceiving, 0), (upReceiving, 1)],
      ∀ s, s = { sets up [(R.SEC_UPD_STAT_STATE, x.1), (R.SEC_UPD_STAT_OWNER, x.2), (R.SEC_UPD_LEN_LEN, 4)] with
          sec := { up.sec with upHeader := imgOf 4096 } } →
      s.Canon ∧ s.MayWrite 0 A.SEC_UPD_CTRL ∧ s.stage = 5 ∧ (s.upOpen = true ↔ x.1 = upReceiving) ∧ s.upOwner = x.2 ∧
      imgBody s.sec.upHeader ≤ 50323456 ∧ (s.upState = upReceiving ↔ x.1 = upReceiving) ∧
      s.rf R.SEC_UPD_OFF_OFF = s.rf R.SEC_UPD_RCVD_BYTES ∧ s.mailBytes (min 65536 (s.rf R.SEC_UPD_LEN_LEN)) ≠ [] ∧
      s.rf R.SEC_UPD_RCVD_BYTES + (s.mailBytes (min 65536 (s.rf R.SEC_UPD_LEN_LEN))).length ≤ imgBody s.sec.upHeader ∧
      (s.wf R.SEC_UPD_OFF_OFF 8).rf R.SEC_UPD_OFF_OFF ≠ s.rf R.SEC_UPD_RCVD_BYTES) ∧
    (∀ s, s = sets up [(R.SEC_STAT_BURNING, 1), (R.HIF_LINK_SPEED, 1), (R.HIF_LINK_IDE, 1)] →
      s.Canon ∧ s.MayWrite 0 A.SEC_CTRL ∧ s.MayWrite 0 A.SEC_DBG_CTRL ∧ s.stage = 5 ∧ s.rf R.SEC_STAT_BURNING = 1 ∧
      s.rf R.HIF_LINK_SPEED ≠ 0 ∧ s.rf R.HIF_LINK_IDE = 1 ∧ { s.sec with ideStage := 2 }.ideStage = 2 ∧
      leAt (1 :: List.replicate 32 (0 : Byte)) 0 1 = 1 ∧ leAt [(4 : Byte)] 0 1 = 4 ∧ [(4 : Byte)].length = 1 ∧
      (leBytes 4 1 ++ List.replicate 32 (0 : Byte)).length = 36 ∧ zeroAt (leBytes 4 1 ++ List.replicate 32 (0 : Byte)) 1 3 = true) ∧
    (∀ l ∈ [[], List.replicate 4 (⟨7, 1, 2, 1, []⟩ : MgmtObj)], ∀ s,
      s = { up with inbox := [(0, pk 6 3 0 0x200)], sec := { up.sec with objs := l } } →
      s.Canon ∧ takeInbox (0 : Fin 12) 3 (0 : Fin 2) s.inbox = some (pk 6 3 0 0x200, []) ∧ (pk 6 3 0 0x200).payload.length ≤ 4096 ∧
      (pk 6 3 0 0x200).aux % 256 = 0 ∧ 2 ≤ (pk 6 3 0 0x200).aux / 256 % 256 ∧
      (∀ y ∈ s.sec.objs, ¬ (y.src = (pk 6 3 0 0x200).src ∧ y.num = (pk 6 3 0 0x200).aux / 2 ^ 16 % 2 ^ 32)) ∧
      (s.sec.objs.length < 4 ↔ l = []) ∧ (s.sec.objs[(0 : Fin 4).val]?.isSome = true ↔ l ≠ [])) ∧
    ∀ r, ∀ s, s = { up with pins := { up.pins with trst := false, tapReg := r } } → s.pins.trst = false ∧ s.pins.tapReg = r := by
  refine ⟨?_, ?_, ?_, ?_, ?_⟩
  · intro e he s hs
    subst hs
    simp only [List.mem_cons, List.not_mem_nil, or_false] at he
    rcases he with rfl | rfl <;> exact ⟨canon_of (by decide +kernel), write_of (by decide +kernel), by decide +kernel⟩
  · intro x hx s hs
    subst hs
    simp only [List.mem_cons, List.not_mem_nil, or_false] at hx
    rcases hx with rfl | rfl | rfl <;> exact ⟨canon_of (by decide +kernel), write_of (by decide +kernel), by decide +kernel⟩
  · intro s hs
    subst hs
    exact ⟨canon_of (by decide +kernel), write_of (by decide +kernel), write_of (by decide +kernel), by decide +kernel⟩
  · intro l hl s hs
    subst hs
    simp only [List.mem_cons, List.not_mem_nil, or_false] at hl
    rcases hl with rfl | rfl <;> exact ⟨canon_of (by decide +kernel), by decide +kernel⟩
  · intro r s hs; subst hs; exact ⟨rfl, rfl⟩

/-- LEND of fields 0 and 1 to context 0 at BOUNDARY, and of none but field 1; REMAP of logical furrow 0, vacant and not, to spare
24; RETIRE of the furrow that carries it (R378, R423, R424). -/
theorem witness_LendRemapAndRetire :
    (∀ m ∈ [3, 2], ∀ w, w = cmd [(0, 0x48), (33, m)] →
      ∀ s, s = withCmd (sets up [(R.CMT_CSTAT_STATE 0, stBoundary), (R.FLD_SBQ_SIZE 0 1, 4), (R.FLD_ACQ_COUNT 0 1, 8)]) 3 w →
      s.Canon ∧ s.MayRun 8191 0x48 w ∧ s.resident 0 = true ∧ cmdAt w 33 1 = m ∧ lowest (reservedBytes w 34 30) = none ∧
      s.cstate 0 = stBoundary ∧
      (∀ g, g < 4 → m.testBit g = true → s.inMask 0 g = false → s.isFenced (.field g) = false ∧ s.rf (R.PWR_FLD_STATE g) ≠ 3 ∧
        s.harrowing g = false ∧ s.rf (R.FLD_SBQ_SIZE 0 g) ≠ 0 ∧ s.rf (R.FLD_ACQ_COUNT 0 g) ≠ 0) ∧
      (∀ g, g < 4 → m.testBit g = false → s.inMask 0 g = true → s.homes 0 g = false) ∧ s.regions = [] ∧
      ((∀ g, g < 4 → s.inMask 0 g = true → m.testBit g = true) ↔ m = 3)) ∧
    (∀ b ∈ [0, 1], ∀ w, w = cmd [(0, 0x49), (34, 24)] →
      ∀ s, s = withCmd (sets up [(R.CMT_CSTAT_STATE 0, stBoundary), (R.FLD_FURMAP_VACANT 0 0, b), (R.FUR_MAP_STATE 0 24, 1)]) 3 w →
      s.Canon ∧ s.MayRun 8191 0x49 w ∧ s.isFenced (.field 0) = false ∧ s.harrowing 0 = false ∧ cmdAt w 33 1 = 0 ∧ cmdAt w 34 1 = 24 ∧
      lowest (reservedBytes w 35 29) = none ∧ s.fieldIdle 0 = true ∧ s.rf (R.FUR_MAP_STATE 0 24) = 1 ∧
      (s.physical 0 0 = some 0 ↔ b = 0)) ∧
    ∀ w, w = cmd [(0, 0x4A)] → ∀ s, s = withCmd (sets up [(R.CMT_CSTAT_STATE 0, stBoundary)]) 3 w →
      s.Canon ∧ s.MayRun 8191 0x4A w ∧ s.isFenced (.field 0) = false ∧ s.harrowing 0 = false ∧ lowest (reservedBytes w 34 30) = none ∧
      s.retired 0 0 = false ∧ s.fieldIdle 0 = true ∧ s.logical 0 0 < 24 := by
  refine ⟨?_, ?_, ?_⟩
  · intro m hm w hw s hs
    subst hs; subst hw
    simp only [List.mem_cons, List.not_mem_nil, or_false] at hm
    rcases hm with rfl | rfl <;>
      exact ⟨canon_of (by decide +kernel), run_of (by decide +kernel), by decide +kernel, by decide +kernel, by decide +kernel,
        by decide +kernel, by decide +kernel, by decide +kernel, by decide +kernel, by decide +kernel⟩
  · intro b hb w hw s hs
    subst hs; subst hw
    simp only [List.mem_cons, List.not_mem_nil, or_false] at hb
    rcases hb with rfl | rfl <;> exact ⟨canon_of (by decide +kernel), run_of (by decide +kernel), by decide +kernel⟩
  · intro w hw s hs
    subst hs; subst hw
    exact ⟨canon_of (by decide +kernel), run_of (by decide +kernel), by decide +kernel⟩

/-- Resets of context 1, of field 1, of port 0 (R441 to R445). -/
theorem witness_ResetCommandsAct :
    ∀ x ∈ [(0x4C, 1), (0x4D, 1), (0x4E, 0)], ∀ w, w = cmd [(0, x.1), (32, x.2)] →
      ∀ s, s = withCmd (sets up [(R.CTX_BIND_VALID 1, 1), (R.QM_QBINDV_CTX 0, 1), (R.QM_QCFG_EN 0, 1), (R.QM_QSTAT_STATE 0, qActive)]) 3 w →
      s.Canon ∧ s.MayRun 8191 x.1 w ∧ cmdAt w 32 1 = x.2 ∧ lowest (reservedBytes w 33 31) = none ∧
      s.flag R.FCOL_STAT_DEVFATAL = false ∧ s.resident 1 = true ∧ s.qCtx 8191 ≠ 1 ∧ s.qCtx 0 = 1 ∧ s.qState 0 ≠ qDisabled ∧
      (∀ f, f < 4 → s.heldInReset f = false) ∧ s.flag R.CLK_STAT_FALLBACK = false ∧
      (s.wf R.CLK_STAT_FALLBACK 1).flag R.CLK_STAT_FALLBACK = true := by
  intro x hx w hw s hs
  subst hs; subst hw
  simp only [List.mem_cons, List.not_mem_nil, or_false] at hx
  rcases hx with rfl | rfl | rfl <;> exact ⟨canon_of (by decide +kernel), run_of (by decide +kernel), by decide +kernel⟩

/-- A signed object of one action with sequence number 9 and no signature record, for the device. -/
def objOf (action : Nat) : List Byte :=
  leBytes 4 0x53514B45 ++ [1, 0] ++ leBytes 1 action ++ [0] ++ leBytes 4 32 ++ leBytes 4 0 ++
    leBytes 1 action ++ leBytes 3 0xFFFFFF ++ leBytes 4 0 ++ leBytes 8 9 ++ List.replicate 16 0

/-- An expulsion, a return and new keys, by host and by device memory, on devices without keys and with one, expelled and not (R425 to
R427, R502 to R506). -/
theorem witness_SignedObjectsAct :
    ∀ x ∈ [(1, 0, [[]], false), (1, 1, [[]], true), (1, 1, [], false), (2, 1, [[]], true), (2, 0, [[]], false), (3, 1, [], false)],
      ∀ (a d : Nat) (k : List (List Byte)) (b : Bool), (a, d, k, b) = x → ∀ w, w = cmd [(0, 0x50), (33, 2), (40, d), (44, 48)] →
      ∀ s, s = withCmd { mem up 512 (objOf a) with flash := { up.flash with keys := k, expelled := b } } 3 w →
      s.Canon ∧ s.MayRun 8191 0x50 w ∧ cmdAt w 40 1 = d ∧
      lowest (reservedBytes w 41 3 ++ reservedBytes w 48 16) = none ∧ cmdAt w 44 4 = 48 ∧ s.hbmWaits (cmdAt w 32 8) 48 = false ∧
      cmdAt w 44 4 = signedLen (objOf a) ∧
      (∃ x, parseSigned (objOf a) = some x ∧ x.action = a ∧ (s.authOk x [] true = true ↔ (k = [] ↔ a = 3) ∨ k ≠ [])) ∧
      ((some (objOf a)).map (fitBytes 48) = some (objOf a)) ∧ s.inPartition (s.qCtx 8191) (cmdAt w 32 8) 48 = true ∧
      s.rangeFenced (cmdAt w 32 8) 48 = false ∧ s.readBad (cmdAt w 32 8) 48 = false ∧ s.peekHbm (cmdAt w 32 8) 48 = objOf a ∧
      s.flash.expelled = b := by
  intro x hx a d k b he w hw s hs
  subst hs; subst hw; subst he
  simp only [List.mem_cons, List.not_mem_nil, or_false, Prod.mk.injEq] at hx
  rcases hx with ⟨rfl, rfl, rfl, rfl⟩ | ⟨rfl, rfl, rfl, rfl⟩ | ⟨rfl, rfl, rfl, rfl⟩ | ⟨rfl, rfl, rfl, rfl⟩ | ⟨rfl, rfl, rfl, rfl⟩ |
      ⟨rfl, rfl, rfl, rfl⟩ <;>
    exact ⟨canon_of (by decide +kernel), run_of (by decide +kernel), by decide +kernel, by decide +kernel, by decide +kernel,
      by decide +kernel, by decide +kernel, ⟨_, rfl, by decide +kernel, by decide +kernel⟩, by decide +kernel⟩

/-! ### Witnesses: resets, boot and clocks -/

/-- Function 1 with its context; a host link that can train; masks and pending vectors (R342 to R351, R440, R525 to R534). -/
theorem witness_DeviceAndFunctionResets :
    ∀ s, s = { sets up [(R.CTX_BIND_VALID 3, 1), (R.CTX_BIND_CLIENT 3, 1), (R.QM_QBINDV_FUNC 7, 1), (R.CLK_PLL_STATE 0, 2)] with
        vfs := 1, msixOn := [(0, ()), (1, ())], msixPend := [(vecKey 0 5, ())], msixOpen := [(vecKey 0 5, ())] } →
      s.Canon ∧ (1 : Fin 64).val ≠ 0 ∧ s.funcEnabled (1 : Fin 64) = true ∧ 2 ≤ s.stage ∧ s.qFunc 7 = 1 ∧ s.qFunc 8 ≠ 1 ∧
      (∀ f, f < 4 → (s.eng f).waiting = []) ∧ s.resident 3 = true ∧ s.client 3 = 1 ∧ s.client 0 ≠ 1 ∧ s.pll 0 = 2 ∧
      (∀ u : Nat, 0 < u → u ≤ s.vfs → u = 1) ∧ Store.Sorted s.msixOn ∧ Store.Sorted s.msixPend ∧ Store.Sorted s.funcMask ∧
      s.vecExists 0 5 = true ∧ (sget? s.msixPend (vecKey 0 5)).isSome = true ∧ (sget? s.msixOn 0).isSome = true ∧
      sget? s.funcMask 0 = none ∧ (sget? s.msixOpen (vecKey 0 5)).isSome = true := by
  intro s hs; subst hs
  refine ⟨canon_of (by decide +kernel), by decide +kernel, by decide +kernel, by decide +kernel, by decide +kernel, by decide +kernel,
    by decide +kernel, by decide +kernel, by decide +kernel, by decide +kernel, by decide +kernel, ?_, by decide +kernel,
    by decide +kernel, by decide +kernel, by decide +kernel, by decide +kernel, by decide +kernel, by decide +kernel, by decide +kernel⟩
  intro u h1 h2
  have h : u ≤ 1 := h2
  omega

/-- A device held in reset with and without REFCLK; stages 2 and 4; windows near and far; PLLs that lock and are locked (R473 to
R480, R491, R525). -/
theorem witness_BootAndClocksAdvance :
    (∀ r ∈ [0, 1], ∀ s, s = sets State.reset [(R.CLK_STAT_AO_REF, r)] →
      s.Canon ∧ s.pins.held = true ∧ s.pins.good = true ∧ s.stage = 0 ∧ s.pll 0 = 0 ∧ (s.flag R.CLK_STAT_AO_REF = true ↔ r = 1) ∧
      s.fuses.fails = false) ∧
    (∀ g ∈ [2, 3, 4], ∀ s, s = up.wf R.SEC_BOOT_STAGE g → s.Canon ∧ s.stage = g ∧ s.bootCause true true = 1) ∧
    (∀ s, s = sets State.reset [(R.CLK_STAT_AO_REF, 1), (R.SEC_BOOT_STAGE, 1)] → s.stage = 1 ∧ s.pll 0 = 0 ∧
      (s.wf R.CLK_STAT_FALLBACK 1).pllHeld 5 = true ∧ s.pllHeld 5 = false) ∧
    (∀ x ∈ [(0, 1, 0), (1, 0, 1)], ∀ s, s = { up.wf R.CLK_STAT_AO_REF x.1 with clk := { up.clk with monGood := x.2.1, monBad := x.2.2 } } →
      s.Canon ∧ s.pins.held = false ∧ s.flag R.CLK_STAT_FALLBACK = false ∧ (s.flag R.CLK_STAT_AO_REF = true ↔ x.1 = 1) ∧
      s.clk.monGood = x.2.1 ∧ s.clk.monBad = x.2.2 ∧ s.pll 1 = 0 ∧ 440 ≤ (640 : BitVec 16).toNat ∧ (640 : BitVec 16).toNat ≤ 840 ∧
      840 < (841 : BitVec 16).toNat ∧ (439 : BitVec 16).toNat < 440) ∧
    ∀ i ∈ [(0 : Fin 18), 1, 2, 5, 9, 10, 17], ∀ st ∈ [1, 2], ∀ s,
      s = { up.wf (R.CLK_PLL_STATE i) st with clk := { up.clk with bad := [(i.val, 1)] } } →
      s.Canon ∧ s.pllHeld i = false ∧ s.pll i = st ∧ pllAccepts i (pllTarget i) = true ∧ pllAccepts i 0 = false ∧
      pllTarget i < 2 ^ 15 ∧ sgetD s.clk.bad i 0 = 1 ∧ s.flag R.FCOL_STAT_DEVFATAL = false := by
  refine ⟨?_, ?_, ?_, ?_, ?_⟩
  · intro r hr s hs
    subst hs
    simp only [List.mem_cons, List.not_mem_nil, or_false] at hr
    rcases hr with rfl | rfl <;> exact ⟨canon_of (by decide +kernel), by decide +kernel⟩
  · intro r hr s hs
    subst hs
    simp only [List.mem_cons, List.not_mem_nil, or_false] at hr
    rcases hr with rfl | rfl | rfl <;> exact ⟨canon_of (by decide +kernel), by decide +kernel⟩
  · intro s hs; subst hs; decide +kernel
  · intro r hr s hs
    subst hs
    simp only [List.mem_cons, List.not_mem_nil, or_false] at hr
    rcases hr with rfl | rfl <;> exact ⟨canon_of (by decide +kernel), by decide +kernel⟩
  · intro i hi st hst s hs
    subst hs
    simp only [List.mem_cons, List.not_mem_nil, or_false] at hi hst
    rcases hi with rfl | rfl | rfl | rfl | rfl | rfl | rfl <;> rcases hst with rfl | rfl <;>
      exact ⟨canon_of (by decide +kernel), by decide +kernel⟩

/-! ### Witnesses: power and heat -/

/-- Limits and alignments at the ends of their ranges, a boundary that is due and one that is not, the pin high and low, a clock that
can step (R455 to R467). -/
theorem witness_PowerLimitsAct :
    (up.Canon ∧ up.MayWrite 0 A.PWR_ALLOT ∧ up.MayWrite 0 A.PWR_PLAN_CAP ∧ up.MayWrite 0 A.PWR_FC_ALIGN) ∧
    (∀ a ∈ [0, 59, 60, 320, 321], wbits (BitVec.ofNat 32 a) 0 9 = a) ∧
    (∀ a ∈ [0, 59999, 60000], wbits (BitVec.ofNat 32 a) 0 16 = a) ∧ up.pwr.ceils.length = 8 ∧ up.pwr.caps.length = 8 ∧
    up.now < up.pwr.edge ∧ up.nextEdge 0 = up.pwr.edge ∧ up.nextEdge 5 < up.pwr.edge ∧
    (∀ n ∈ [0, 1, 7, 8], ∀ s, s = up.wf R.PWR_PLAN_MIN_MIN n →
      (s.rf R.PWR_PLAN_MIN_MIN + 2 ^ 32 - s.rf R.PWR_FC_MIN_MIN) % 2 ^ 32 = n) ∧
    (∀ s, s = { up with pwr := { up.pwr with lastAllot := some (0, true), lastCap := some (0, 0, true) } } →
      s.now < s.pwr.edge ∧ s.pwr.lastAllot = some (s.now, true) ∧ s.pwr.lastCap = some (s.now, s.rf R.PWR_PLAN_MIN_MIN, true) ∧
      up.pwr.lastAllot ≠ some (up.now, true) ∧ { s with pwr := { s.pwr with edge := 0 } }.dueBoundary.pwr.edge = minuteTicks) ∧
    (∀ b, ∀ s, s = { (up.wf (R.CLK_PLL_STATE 2) 2) with now := 60000 * 25000, pwr := { up.pwr with pin := b } } →
      s.Canon ∧ s.pwr.edge ≤ s.now ∧ s.pwr.pin = b ∧ s.pins.held = false ∧ s.pins.standby = true ∧
      { s with pins := { s.pins with standby := false } }.pins.standby = false ∧ s.fieldAwake (0 : Fin 4) = true ∧
      s.pll (2 + (0 : Fin 4)) = 2 ∧ s.rf (R.PWR_FLD_LEVEL 0) = 8) := by
  refine ⟨⟨up_canon, write_of (by decide +kernel), write_of (by decide +kernel), write_of (by decide +kernel)⟩, by decide +kernel,
    by decide +kernel, by decide +kernel, by decide +kernel, by decide +kernel, by decide +kernel, by decide +kernel, ?_, ?_, ?_⟩
  · intro n hn s hs
    subst hs
    simp only [List.mem_cons, List.not_mem_nil, or_false] at hn
    rcases hn with rfl | rfl | rfl | rfl <;> decide +kernel
  · intro s hs; subst hs; decide +kernel
  · intro b s hs
    subst hs
    cases b <;> exact ⟨canon_of (by decide +kernel), by decide +kernel⟩

/-- A sample within the limits and one that breaks the 20 ms window; a trip that starts and ends (R449, R457 to R459, R468). -/
theorem witness_PowerAndHeatAreMeasured :
    (∀ e ∈ [(10, false), (4000, true)], ∀ s, s = { up with pwr := { up.pwr with samples := List.replicate 20 (e.1, 60 * msTicks), ms := 2000 } } →
      s.Canon ∧ s.pins.held = false ∧ s.pins.standby = true ∧ s.pwr.breaks 20 11 = e.2) ∧
    (∀ x ∈ [((0 : Fin 24), (109 : BitVec 8), (110 : BitVec 8), (100 : BitVec 8), (101 : BitVec 8)), (4, 99, 100, 90, 91)],
      dieTemp x.1 x.2.1 < (if x.1.val < 4 then 110 else 100) ∧ (if x.1.val < 4 then 110 else 100) ≤ dieTemp x.1 x.2.2.1 ∧
      dieTemp x.1 x.2.2.2.1 ≤ (if x.1.val < 4 then 100 else 90) ∧ (if x.1.val < 4 then 100 else 90) < dieTemp x.1 x.2.2.2.2) ∧
    dieTemp 0 (0xFF : BitVec 8) = -1 ∧
    (∀ t ∈ [[], [(0, ())]], ∀ s, s = { up with pwr := { up.pwr with trips := t } } →
      s.Canon ∧ s.pins.held = false ∧ s.stage = 5 ∧ s.fieldAwake 0 = true ∧ (s.pair (pairKey Page.powerBase 5)).cond = false ∧
      (s.tripPin = true ↔ t ≠ [])) := by
  refine ⟨?_, by simp [dieTemp, isFieldDie], by decide, ?_⟩
  · intro e he s hs
    subst hs
    simp only [List.mem_cons, List.not_mem_nil, or_false] at he
    rcases he with rfl | rfl <;> exact ⟨canon_of (by decide +kernel), by decide +kernel⟩
  · intro t ht s hs
    subst hs
    simp only [List.mem_cons, List.not_mem_nil, or_false] at ht
    rcases ht with rfl | rfl <;> exact ⟨canon_of (by decide +kernel), by decide +kernel⟩

/-- An idle array, furrow and field, and a field asleep and waking (R451, R452, R475). -/
theorem witness_SleepAndWake :
    (∀ b ∈ [0, 1], ∀ s, s = up.wf R.PWR_SLEEP_AWAKE b →
      s.Canon ∧ (∀ o ∈ (s.fur (0 : Fin 4) (0 : Fin 26)).mmas, o.mask.testBit (0 : Fin 4) = false) ∧
      (∀ o ∈ (s.fur (0 : Fin 4) (0 : Fin 26)).vops, o.unit ≠ 4 + (0 : Fin 4).val) ∧ s.awake (0 : Fin 4) (0 : Fin 26) = true ∧
      s.furrowIdle (0 : Fin 4) (0 : Fin 26) = true ∧ Store.Sorted s.pwr.awake ∧ (s.flag R.PWR_SLEEP_AWAKE = true ↔ b = 1)) ∧
    (∀ st ∈ [0, 1, 2], ∀ s, s = { sets up [(R.PWR_FLD_STATE 0, st), (R.CLK_STAT_AO_REF, 1), (R.CLK_PLL_STATE 2, 2), (R.CLK_PLL_STATE 6, 2)] with
          pwr := State.reset.pwr } →
      s.Canon ∧ s.rf (R.PWR_FLD_STATE (0 : Fin 4)) = st ∧ (s.fieldAwake (0 : Fin 4) = true ↔ st = 2) ∧ s.fieldQuiet (0 : Fin 4) = true ∧
      s.retired (0 : Fin 4) (0 : Fin 26) = false ∧ s.flag (R.CLK_GATE_FURROW_OFF (0 : Fin 4) (0 : Fin 26)) = false ∧
      s.fieldOff (0 : Fin 4) = false ∧ s.stage = 5 ∧ s.flag R.CLK_STAT_AO_REF = true ∧ s.pll (2 + (0 : Fin 4)) = 2 ∧
      s.pll (6 + (0 : Fin 4)) = 2 ∧ Store.Sorted s.pwr.resets) ∧
    ∀ x ∈ [(2, 2), (3, 2), (2, 3), (1, 2), (2, 0)], ∀ s, s = sets up [(R.PWR_FLD_STATE 0, 3), (R.CLK_PLL_STATE 2, x.1),
        (R.CLK_PLL_STATE 6, x.2)] → s.Canon ∧ s.heldInReset (0 : Fin 4) = true ∧ s.pll (2 + (0 : Fin 4)) = x.1 ∧
      s.pll (6 + (0 : Fin 4)) = x.2 ∧ s.fieldOff (0 : Fin 4) = false ∧ s.stage = 5 ∧ Store.Sorted s.pwr.resets := by
  refine ⟨?_, ?_, ?_⟩
  · intro b hb s hs
    subst hs
    simp only [List.mem_cons, List.not_mem_nil, or_false] at hb
    rcases hb with rfl | rfl <;> exact ⟨canon_of (by decide +kernel), by decide +kernel⟩
  · intro b hb s hs
    subst hs
    simp only [List.mem_cons, List.not_mem_nil, or_false] at hb
    rcases hb with rfl | rfl | rfl <;> exact ⟨canon_of (by decide +kernel), by decide +kernel⟩
  · intro x hx s hs
    subst hs
    simp only [List.mem_cons, List.not_mem_nil, or_false] at hx
    rcases hx with rfl | rfl | rfl | rfl | rfl <;> exact ⟨canon_of (by decide +kernel), by decide +kernel⟩

/-! ### Witnesses: faults -/

/-- A tick with nothing raised, with a new event, with a WIRE of a port and with a test; a quiet period that can end; an injected
fault; a window; a shadow comparison (R381 to R410). -/
theorem witness_FaultsAreCollected :
    (∀ x ∈ [([], [], []), ([(pairKey Page.powerBase 6, { hold := 2 })], [], [(true, false, false)]),
        ([(pairKey (Page.portBase 0) 2, { equal := 1 })], [(Page.portBase 0 / 0x1000, 2)], [(false, true, false)]),
        ([(pairKey (Page.portBase 0) 2, { equal := 1, test := 1 })], [], [(false, true, true)])],
      ∀ b ∈ [0, 1], ∀ s, s = { up.wf R.FCOL_STAT_STATE b with pairs := x.1 } →
        s.Canon ∧ s.pins.held = false ∧ State.reset.pins.held = true ∧
        (s.flag R.FCOL_STAT_STATE = true ↔ b = 1) ∧ s.flag R.FCOL_STAT_DEVFATAL = false ∧
        ((s.tickKeys x.2.1).map fun k => (samplePair k (s.readPair k (x.2.1.contains (k / 32, k % 32))) (s.pair k)).1).map
          (fun y => (y.fresh, y.wire, y.test)) = x.2.2 ∧ (s.quiet = true ↔ x.1 = [])) ∧
    (up.Canon ∧ up.MayWrite 0 ((0x50010 : BitVec 27).toNat / 0x1000 * 0x1000 + 0x18) ∧ up.MayWrite 0 A.FCOL_WTEST ∧
      (pageAt ((0x50010 : BitVec 27).toNat / 0x1000 * 0x1000)).any Page.hasCommon = true ∧
      (srcAt Page.powerBase 6).isSome = true ∧ up.masked Page.powerBase 6 = false ∧
      (0x80000000 : Word32).getLsbD 31 = true ∧ winCountsOk ⟨10, 5, 5, 0, 0, 0⟩ = true ∧ up.resident (0 : Fin 64) = true ∧
      10 + 5 ≤ 25000 * up.rf (R.CTX_IF_CTRL_WINDOW (0 : Fin 64)) ∧
      (∀ f, f < 4 → ∀ k, k < 24 → (up.physical f k).all (· < 26) = true)) ∧
    ∀ op ∈ [0x20, 0x28], ∀ s, s = { up with shadows := [⟨0, 1, 24, ownr, 0, op, 0⟩] } →
      s.Canon ∧ (s.shadows.filter fun x => x.field == (0 : Fin 4).val)[0]? = some ⟨0, 1, 24, ownr, 0, op, 0⟩ ∧ ownr.ctx < 64 ∧
      s.cstate ownr.ctx = stRunning := by
  refine ⟨?_, ⟨up_canon, write_of (by decide +kernel), write_of (by decide +kernel), by decide +kernel⟩, ?_⟩
  · intro x hx b hb s hs
    subst hs
    simp only [List.mem_cons, List.not_mem_nil, or_false] at hx hb
    rcases hx with rfl | rfl | rfl | rfl <;> rcases hb with rfl | rfl <;>
      exact ⟨canon_of (by decide +kernel), by decide +kernel⟩
  · intro op hop s hs
    subst hs
    simp only [List.mem_cons, List.not_mem_nil, or_false] at hop
    rcases hop with rfl | rfl <;> exact ⟨canon_of (by decide +kernel), by decide +kernel⟩

/-- A launch, a command, a transfer and a packet that hang; a draining fence of each kind of domain, empty and not (R432 to R439). -/
theorem witness_WatchdogsAndFences :
    (∀ s, s = { (busyCtx (atHead (sets up [(R.QM_QCFG_EN 8191, 1), (R.QM_QWD_MS 8191, 5), (R.QM_QSTAT_STATE 8191, qActive),
          (R.MBL_STAT_STATE 0, pActive)]) 0) 0).setDma 0 { active := [(0, ⟨0, 0, ownr, 0, [], 0, none, [], 0⟩)] } with
          inbox := [(0, pk 2 1 0 0)] } →
      s.Canon ∧ (s.st (atOf sid)).cur.isSome = true ∧ (s.st (atOf sid)).state ≠ .halted ∧ s.cstate sid.ctx = stRunning ∧
      s.flag (R.QM_QCFG_EN (8191 : Fin 8192)) = true ∧ s.rf (R.QM_QWD_MS (8191 : Fin 8192)) ≠ 0 ∧
      s.qState (8191 : Fin 8192) ≠ qDisabled ∧ s.qState (8191 : Fin 8192) ≠ qError ∧ s.queueHangs (8191 : Fin 8192) = true ∧
      ((s.dmaOf (0 : Fin 4)).active.find? fun y => y.1 == (0 : Fin 8).val) = some (0, ⟨0, 0, ownr, 0, [], 0, none, [], 0⟩) ∧
      ownr.ctx < 64 ∧ s.pstate (0 : Fin 8) = pActive ∧ s.stalled (0 : Fin 8) ≠ [] ∧ none ∈ s.stalled (0 : Fin 8)) ∧
    ∀ d ∈ [Dom.stream 0 0 0 0, .queue 8191, .dma 0 0, .port 0, .field 0, .ctx 0], ∀ s, s = { up with fences := [(d, .draining)] } →
      s.Canon ∧ s.fenceOf d = some .draining ∧ s.outstandingOf d = false ∧
      (d = .queue 8191 → (busyCtx s 0).outstandingOf d = true) := by
  constructor
  · intro s hs
    subst hs
    exact ⟨canon_of (by decide +kernel), by decide +kernel, by decide +kernel, by decide +kernel, by decide +kernel,
      by decide +kernel, by decide +kernel, by decide +kernel, by decide +kernel, by decide +kernel, by decide +kernel,
      by decide +kernel, by decide +kernel⟩
  · intro d hd s hs
    subst hs
    simp only [List.mem_cons, List.not_mem_nil, or_false] at hd
    rcases hd with rfl | rfl | rfl | rfl | rfl | rfl <;>
      exact ⟨canon_of (by decide +kernel), by decide +kernel, by decide +kernel, by decide +kernel⟩

/-- An entry to write for the first and the second time; the selectors; a run that may start and one that may not; a run in progress
in, below and above its band (R411 to R430). -/
theorem witness_AlmanacAndHarrowAct :
    (∀ b, ∀ e, e = (⟨0, 0x50, 6, 1, 0, 0, 0, 0, 0, 0, 0, 0, 0, none, 1, [], b⟩ : AlmEntry) → ∀ s, s = { up with staged := [e] } →
      s.Canon ∧ s.staged = [e] ∧ s.MayWrite 0 A.ALM_RSEL ∧ s.MayWrite 0 A.ALM_QSEL) ∧
    (∀ s, s = up → ∀ v, v = (0xF8020001 : Word32) →
      s.MayWrite 0 (A.ALM_HRW_CTRL (1 : Fin 4)) ∧ v.getLsbD 0 = true ∧ v.getLsbD 1 = false ∧ s.harrowing (1 : Fin 4) = false ∧
      (2 : Word32).getLsbD 0 = false ∧ (2 : Word32).getLsbD 1 = true) ∧
    (∀ s, s = sets up [(R.ALM_HRW_CTRL_FURA 1, 1), (R.ALM_HRW_CTRL_FURB 1, 2), (R.ALM_HRW_CTRL_FURR 1, 31),
        (R.ALM_HRW_CTRL_FURA 0, 1)] → s.harrowOk 1 = true ∧ s.harrowOk 0 = false) ∧
    ∀ x ∈ [(0, 0, 0, Ordering.eq), (50, 60, 10, .lt), (50, 60, 55, .eq), (50, 60, 70, .gt)],
      ∀ m, m = ({ temp := BitVec.ofNat 8 x.2.2.1 } : Meas) →
      ∀ s, s = { sets up [(R.ALM_HRW_STAT_STATE 0, 2), (R.ALM_HRW_CTRL_FURA 0, 0), (R.ALM_HRW_CTRL_FURB 0, 1), (R.ALM_HRW_CTRL_FURR 0, 31),
          (R.ALM_HRW_TILES_TILES 0, 1), (R.ALM_HRW_COND_TLO 0, x.1), (R.ALM_HRW_COND_THI 0, x.2.1), (R.ALM_CTRL_EN, 1)] with
          pwr := { up.pwr with awake := [(0, ()), (1, ())] } } →
      s.Canon ∧ s.MayWrite 0 (A.ALM_HRW_CTRL (0 : Fin 4)) ∧ s.harrowing (0 : Fin 4) = true ∧
      (∀ n ∈ s.harrowFurrows (0 : Fin 4), s.awake (0 : Fin 4) n = true) ∧ s.inBand (0 : Fin 4) m = x.2.2.2 ∧
      s.rf (R.ALM_HRW_DONE_TILES (0 : Fin 4)) = 0 ∧ s.flag R.ALM_CTRL_EN = true ∧ s.staged.length < 256 ∧
      s.flag (R.ALM_HRW_FIRSTP_VALID (0 : Fin 4)) = false := by
  refine ⟨?_, ?_, ?_, ?_⟩
  · intro b e he s hs
    subst hs; subst he
    cases b <;> exact ⟨canon_of (by decide +kernel), rfl, write_of (by decide +kernel), write_of (by decide +kernel)⟩
  · intro s hs v hv
    subst hs; subst hv
    exact ⟨write_of (by decide +kernel), by decide +kernel⟩
  · intro s hs
    subst hs
    decide +kernel
  · intro x hx m hm s hs
    subst hs; subst hm
    simp only [List.mem_cons, List.not_mem_nil, or_false] at hx
    rcases hx with rfl | rfl | rfl | rfl <;>
      exact ⟨canon_of (by decide +kernel), write_of (by decide +kernel), by decide +kernel⟩

/-! ### Witnesses: management -/

/-- Requests of every kind with well-formed payloads, before and after the device is ready (R508 to R519). -/
theorem witness_ManagementAnswers :
    (∀ g ∈ [2, 4, 5], ∀ s, s = up.wf R.SEC_BOOT_STAGE g → s.Canon ∧ 2 ≤ s.stage ∧ s.stage = g) ∧
    (∀ k ∈ [1, 2, 3, 4, 5, 6, 7, 8, 9, 10, 11], wbits (BitVec.ofNat 32 k) 0 8 = k) ∧ wbits (12 : BitVec 32) 0 8 = 12 ∧
    wbits (0x100 : BitVec 32) 0 8 = 0 ∧ wbits (0x101 : BitVec 32) 0 8 = 1 ∧ (0x101 : BitVec 32) ≠ 1 ∧
    (∀ t ∈ [none, some 0], { up with mg := { up.mg with readAt := t } }.readPending = t.isSome) ∧
    (∀ s, s = { up.wf R.FCOL_LOG_WR_SEQ 1 with fcolLog := [(0, [])] } → ∀ p, p = [(0 : Byte), 0] →
      s.Canon ∧ 9 + p.length ≤ 131072 ∧ (s.rf R.FCOL_LOG_WR_SEQ + 65536 - leAt p 0 2) % 65536 = 1 ∧ 1 ≤ s.fcolLog.length ∧
      leAt p 0 2 < 60000 ∧ leAt p 1 1 < 8) ∧
    (∀ a ∈ [60, 320], 60 ≤ leAt (leBytes 2 a) 0 2 ∧ leAt (leBytes 2 a) 0 2 ≤ 320 ∧ (leBytes 2 a).length = 2) ∧
    leAt (leBytes 4 0 ++ leBytes 2 60) 4 2 = 60 ∧ (leBytes 4 0 ++ leBytes 2 60).length = 6 ∧
    leAt [(7 : Byte), 0, 5, 0] 0 1 < 8 ∧ leAt [(7 : Byte), 0, 5, 0] 1 1 = 0 ∧ leAt [(0x50 : Byte), 0, 31, 0] 2 1 < 32 ∧
    leAt [(0x50 : Byte), 0, 31, 0] 3 1 = 0 ∧ parseSigned [] = none ∧
    (∀ b, ∀ s, s = { up with flash := { up.flash with keys := [[]], expelled := b } } →
      ∀ a ∈ [1, 2], ∃ x, parseSigned (objOf a) = some x ∧ x.action = a ∧ s.authOk x [] false = true ∧ s.flash.expelled = b ∧
        up.authOk x [] false = false) := by
  refine ⟨?_, by decide +kernel, by decide +kernel, by decide +kernel, by decide +kernel, by decide +kernel, by decide +kernel, ?_,
    by decide +kernel, by decide +kernel, by decide +kernel, by decide +kernel, by decide +kernel, by decide +kernel,
    by decide +kernel, by decide +kernel, ?_⟩
  · intro g hg s hs
    subst hs
    simp only [List.mem_cons, List.not_mem_nil, or_false] at hg
    rcases hg with rfl | rfl | rfl <;> exact ⟨canon_of (by decide +kernel), by decide +kernel⟩
  · intro s hs p hp
    subst hs; subst hp
    exact ⟨canon_of (by decide +kernel), by decide +kernel⟩
  · intro b s hs a ha
    subst hs
    simp only [List.mem_cons, List.not_mem_nil, or_false] at ha
    cases b <;> rcases ha with rfl | rfl <;> exact ⟨_, rfl, by decide +kernel⟩

/-- Sessions in each of their states, with a header that is complete, with the last and with an earlier part of the body (R510, R512). -/
theorem witness_FirmwareIsUpdatedByPldm :
    (∀ w ∈ [FwState.idle, .learn, .header, .body, .done], ∀ b ∈ [true, false], ∀ s, s = { up with mg := { up.mg with fw := w, asked := b } } →
      s.Canon ∧ s.stage = 5 ∧ s.mg.fw = w ∧ s.mg.asked = b ∧ s.upState = upIdle ∧ s.upOpen = false) ∧
    (∀ x ∈ [(upReceiving, 8), (upBusy, 8), (upBusy, 4096), (upDone, 4096)],
      ∀ s, s = { sets up [(R.SEC_UPD_STAT_STATE, x.1), (R.SEC_UPD_STAT_OWNER, 1), (R.SEC_UPD_RCVD_BYTES, x.2)] with
          mg := { up.mg with fw := .body, asked := true }, sec := { up.sec with upHeader := imgOf 4096 } } →
      s.Canon ∧ s.stage = 5 ∧ s.upState = x.1 ∧ s.upOwner = 1 ∧ 1 ≤ s.mg.piece ∧ s.mg.piece ≤ 4096 ∧
      imgBody s.sec.upHeader = 4096 ∧ s.rf R.SEC_UPD_RCVD_BYTES = x.2 ∧
      (x.2 = 8 → s.rf R.SEC_UPD_RCVD_BYTES + min s.mg.piece [(1 : Byte)].length ≤ imgBody s.sec.upHeader)) ∧
    ((up.mg.buf ++ List.replicate headerSize (0 : Byte)).take headerSize).length = headerSize := by
  refine ⟨?_, ?_, ?_⟩
  · intro w hw b hb s hs
    subst hs
    simp only [List.mem_cons, List.not_mem_nil, or_false] at hw hb
    rcases hw with rfl | rfl | rfl | rfl | rfl <;> rcases hb with rfl | rfl <;>
      exact ⟨canon_of (by decide +kernel), by decide +kernel⟩
  · intro x hx s hs
    subst hs
    simp only [List.mem_cons, List.not_mem_nil, or_false] at hx
    rcases hx with rfl | rfl | rfl | rfl <;> exact ⟨canon_of (by decide +kernel), by decide +kernel⟩
  · rw [List.length_take, List.length_append, List.length_replicate]
    exact Nat.min_eq_left (Nat.le_add_left _ _)

/-! ### Ill-formed operands -/

/-- A command whose operands do not spell it is refused by the check: one for each check of `Instr.wf`. -/
theorem test_ill_formed_is_refused :
    ∀ e ∈ [Instr.hbmPartialWrite (.bar2 0) 62 [1, 2, 3] .clean false, .contextCreate 0 0 0, .contextDestroy 0 0 0x80000000,
      .regionValidate 0 0, .regionInvalidate 0 0x100, .queueEnable 0 0 0, .queueDisable 0 0 1, .keyLoad 0 2, .keyClear 0 3,
      .updateBegin 0 2 [] true, .updateData 0 1, .updateFinish 0 4 true, .updateCancel 0 3, .svnCommit 0 2, .debugToken 0 0 [],
      .errorForce 0 0x200018 0, .wireTest 0 5, .harrowGo 0 0 2 {}, .harrowStop 0 0 3 {}, .lowWordWrite 0 0x11100 0,
      .highWordWrite 0 (BitVec.ofNat 27 (A.MBL_RT_HI 0)) 0, .registerWrite 0 0x11102 0,
      .registerWrite 0 (BitVec.ofNat 27 A.CMT_RCTL) 0, .portEnableWrite 0 0 8, .portRetrainWrite 0 0 1, .clkGateWrite 0 0x200028 0,
      .servingConfigWrite 0 0 0x120 0, .interferenceWindowEnd 0 ⟨0, 5, 0, 0, 0, 0⟩, .unknownOpcode sid 0x20, .getStatus 2 [],
      .setAllot 1 [], .getForecast 4 [], .setPlanCap 3 [], .setAlign 6 [], .readFaultlog 7 [], .readAlmanac 6 [] none false,
      .classify 7 [] false, .attest 10 [], .signedObject 9 [] [] false {}, .subscribe 0 10 []], e.wf = false := by
  decide +kernel

/-! ### The spec's worked examples -/

/-- The example MMA word beside R129: its fields, and its first eight bytes in memory. -/
theorem test_mma_word :
    leBytes 16 (0x000000000000000001220004E083C020 : InstrWord).toNat =
        [0x20, 0xC0, 0x83, 0xE0, 4, 0, 0x22, 1, 0, 0, 0, 0, 0, 0, 0, 0] ∧
      ∀ x, x = mmaFields 0x000000000000000001220004E083C020 →
        x.thin = false ∧ x.slot = 0 ∧ x.mask = 0xF ∧ x.m = 32 ∧ x.n = 96 ∧ x.init = true ∧ x.kb = 4 ∧ x.fmtA = 2 ∧ x.fmtB = 2 ∧
          x.passes = 1 := by
  refine ⟨by decide +kernel, ?_⟩
  intro x hx; subst hx; decide +kernel

/-- The worked block of 500.0, 0.01 and zeros beside R45, in MXFP8 E4M3 with `MX_SCALE` as given: scale byte, the first three
codes, and how many elements saturate. -/
def mxExample (h : Bool) : Nat × List Nat × Nat :=
  let r := Fmt.convertBlock .mxE4M3 { mxHeadroom := h } false (fun _ => .rne)
    (padTo 32 (.fin false 0 0) [num32 0x43FA0000, num32 0x3C23D70A])
  (r.1, (r.2.take 3).map Prod.fst, (r.2.filter fun e => e.2 == .satEl).length)

/-- The two scale rules on the worked block. -/
theorem test_mx_block : mxExample false = (0x7F, [0x7E, 0x05, 0], 1) ∧ mxExample true = (0x80, [0x78, 0x03, 0], 0) := by
  decide +kernel

/-- R90, R91: the worked level stack: five passes of 1.0 and four 2^-24 collapse to 1 + 2^-22. -/
theorem test_level_stack :
    ∀ sl, sl = ([0x3F800000, 0x33800000, 0x33800000, 0x33800000, 0x33800000] : List Word32).foldl
        (fun (s : Slot) r => (s.enter false false 0 ⟨r, false⟩).passDone) {} →
      sl.q = 5 ∧ sl.p = 5 ∧ sl.getReg false 0 = 0x33800000 ∧ sl.getReg false 2 = 0x3F800001 ∧ (sl.collapse false false 0).v = 0x3F800002 := by
  intro sl hs; subst hs; decide +kernel

/-- R92, R93: the worked overflow, in normal and in self-check mode. -/
theorem test_overflow_modes :
    (∀ c, ∀ sl, sl = ([0x7F400000, 0x7F400000, 0xFF400000] : List Word32).foldl
        (fun (s : Slot) r => (s.enter c false 0 ⟨r, false⟩).passDone) {} →
      sl.ovf = c ∧ (sl.collapse c false 0).v = if c then 0x7E7FFFFC else 0x7F800000) := by
  intro c sl hs; subst hs; cases c <;> decide +kernel

/-- R159, R160: the worked address in the linear and in the interleaved layout. -/
theorem test_address_layouts :
    (sets up [(R.FLD_GRAN_OWNED 1 7, 1)]).placeOf 0x81C0123456 = (2, 35, 0x1004456) ∧
      (sets up [(R.FLD_GRAN_OWNED 1 7, 1), (R.CTX_MEM_INTLV 0, 2)]).placeOf 0x81C0123456 = (4, 19, 0x1667456) := by
  decide +kernel

/-- R182, R184: the worked gleaning of four micro-batches. -/
theorem test_gleaning :
    ∀ e, e = ([0x3F800000, 0x33800000, 0x33800000, 0x33800000] : List Word32).foldl gleanAcc (0, 0) →
      e = (0x3F800000, 0x34400000) ∧ gleanFinal e = 0x3F800002 := by
  intro e he; subst he; decide +kernel

/-- R211, R212: the worked losses 3.5 and 4.5: the thresholds, and mean and variance after them. -/
theorem test_run_watch :
    ffma (round32 false (.fin false 8 (-2))).v (fsqrt 0x3E400000) 0x40700000 = 0x4093B67B ∧
      foldLoss 2 2 0x40700000 0x3E400000 0x40600000 = (0x406C0000, 0x3E1C0000) ∧
      ffma (round32 false (.fin false 8 (-2))).v (fsqrt 0x3E1C0000) 0x406C0000 = 0x408EFAE1 ∧
      foldLoss 2 3 0x406C0000 0x3E1C0000 0x40900000 = (0x40790000, 0x3E73C000) := by
  decide +kernel

/-- R263, R264: the worked tree of five contributions on three members: which nodes are computed, and where. -/
theorem test_reduction_tree :
    ∀ t, t = Tree.of [⟨0, 0, 0, 0, 2⟩, ⟨1, 0, 0, 2, 1⟩, ⟨2, 0, 0, 3, 2⟩] →
      t.p = 8 ∧ t.inner = [5, 4, 2, 1] ∧ [4, 5, 6, 3, 2, 1].map (t.place 0 0) = [0, 2, 2, 2, 0, 0] := by
  intro t ht; subst ht; decide +kernel

/-- R382: the worked window of 150,000 active and 50,000 blocked ticks. -/
theorem test_slowdown : slowdown 150000 50000 = 0x15555 := by decide +kernel

/-- R230: CRC-32C of the nine bytes "123456789", the published check value of the code. -/
theorem test_crc : crc32c [0x31, 0x32, 0x33, 0x34, 0x35, 0x36, 0x37, 0x38, 0x39] = 0xE3069283 := by decide +kernel

/-- R47: Philox4x32-10 of counter and key 0, the published known answer of the generator. -/
theorem test_philox : [0, 1, 2, 3].map (philox 0 0 0 0 0 0) = [0x6627E8D5, 0xE169C58D, 0xBC57AC4C, 0x9B00DBD8] := by decide +kernel

/-! ### Single commands -/

/-- R119: SEMS of 3 adds to the semaphore it names and to no other. -/
theorem test_sems_adds :
    nextIs (exec (.sems sid (b20 (word [(0, 0x41), (8, 255), (32, 3)])))
        ((atHead up (word [(0, 0x41), (8, 255), (32, 3)])).setSem 0 0 255 4))
      (fun t => t.sem 0 0 255 == 7 && t.sem 0 0 254 == 0) = true := by decide +kernel

/-- R126: LDA at 5 with row stride 7 binds the activation operand, and no weight port. -/
theorem test_lda_binds :
    nextIs (exec (.lda sid (b20 (word [(0, 2), (16, 5), (52, 7)]))) (atHead up (word [(0, 2), (16, 5), (52, 7)])))
      (fun t => (t.st (atOf sid)).bindA.any (fun b => b.eaddr == 5 && b.estride == 7) && (t.st (atOf sid)).bindW.all (·.isNone)) =
      true := by decide +kernel

/-- R361, R366: NOP finishes OK with DETAIL 0. -/
theorem test_nop_ok :
    nextIs (exec (.nop 8191) (withCmd up 0 (cmd []))) (fun t => (t.cmd? 8191 0).any fun c => c.fin == some (0, 0)) = true := by
  decide +kernel

/-- R355: a doorbell of 5 on a queue that has one command counts five. -/
theorem test_doorbell_counts :
    nextIs (exec (.doorbell 0 8191 5) (qone up 0)) (fun t => t.qDb 8191 == 5 && t.qState 8191 == qActive) = true := by decide +kernel

/-- R16, R234: an allotment of 32 credits is reserved and keeps the old value; 33 is taken. -/
theorem test_rxalloc_reserved :
    nextIs (exec (.rxallocWrite 0 0 0 0x00400020) up)
        (fun t => t.rf (R.MBL_RXALLOC_VC0 0 0) == up.rf (R.MBL_RXALLOC_VC0 0 0) && t.rf (R.MBL_RXALLOC_VC1 0 0) == 0x40) = true ∧
      nextIs (exec (.rxallocWrite 0 0 0 0x00400021) up) (fun t => t.rf (R.MBL_RXALLOC_VC0 0 0) == 33) = true := by decide +kernel

/-- R455: an allotment of 590 W is no legal value; 600 W is, and bounds the ceilings beyond the next minute. -/
theorem test_allot_range :
    nextIs (exec (.allotWrite 0 59) up) (fun t => t.allot == 320) = true ∧
      nextIs (exec (.allotWrite 0 60) up) (fun t => t.allot == 60 && t.pwr.ceils == List.replicate 8 60) = true := by
  decide +kernel

/-- R165: three bytes merged at the end of a codeword change those bytes alone. -/
theorem test_partial_write :
    nextIs (exec (.hbmPartialWrite (.bar2 0) 61 [1, 2, 3] .clean false) (up.wf (R.CMT_CSTAT_STATE 0) stReset))
      (fun t => t.hbm.readN granSize 60 5 == [0, 1, 2, 3, 0]) = true := by decide +kernel

/-- R12: an unaligned read gives its bytes and clears nothing; the aligned one clears the RC field. -/
theorem test_unaligned_read :
    nextIs (exec (.rcRead 0 (BitVec.ofNat 27 (A.HIF_ACC_CNT + 1)) 2) (up.setReg A.HIF_ACC_CNT 0x01020304))
        (fun t => t.rdata == 0x010203 && t.reg A.HIF_ACC_CNT == 0x01020304) = true ∧
      nextIs (exec (.rcRead 0 (BitVec.ofNat 27 A.HIF_ACC_CNT) 2) (up.setReg A.HIF_ACC_CNT 7))
        (fun t => t.rdata == 7 && t.reg A.HIF_ACC_CNT == 0) = true := by decide +kernel

/-- R474: a window of 440 counts as good, one of 439 as bad. -/
theorem test_monitor_edges :
    nextIs (exec (.monitorWindow 440 0 0) up) (fun t => t.clk.monGood == 1 && t.rf R.CLK_MON_BAD_COUNT == 0) = true ∧
      nextIs (exec (.monitorWindow 439 0 0) up) (fun t => t.clk.monBad == 1 && t.rf R.CLK_MON_BAD_COUNT == 1) = true := by
  decide +kernel

/-- R462: the brake pin takes the duty of the awake field to 0 and leaves the sleeping ones. -/
theorem test_brake :
    nextIs (exec .pwrBrakeAssert up)
      (fun t => t.rf (R.PWR_FLD_DUTY 0) == 0 && t.rf (R.PWR_FLD_DUTY 1) == up.rf (R.PWR_FLD_DUTY 1) && t.pwr.braking) = true := by
  decide +kernel

/-- R508: the endpoint ID 0xFF is refused, and the message types are control, PLDM and vendor. -/
theorem test_mctp :
    nextIs (exec (.mctpControl 0 (.setEid 0xFF)) up) (fun t => t.eid 0 == up.eid 0 && t.mg.resp == [2]) = true ∧
      nextIs (exec (.mctpControl 0 .getTypes) up) (fun t => t.mg.resp == [0, 3, 0, 1, 0x7F]) = true := by decide +kernel

/-- R16, R507: a write of a reserved `CMD` of `SEC_UPD_CTRL` does nothing. -/
theorem test_update_reserved :
    nextIs (exec (.registerWrite 0 (BitVec.ofNat 27 A.SEC_UPD_CTRL) 7) up) (fun t => t.upState == upIdle && t.reg A.SEC_UPD_STAT == 0) =
      true := by decide +kernel

/-- R296: COMMIT of step 0 toggles the context's own region, leaves the other context's and gives BOUNDARY. -/
theorem test_commit_toggles :
    nextIs (exec (.commit 8191)
        { withCmd (sets up [(R.CMT_CSTAT_STATE 0, stReady)]) 3 (cmd [(0, 0x41)]) with
          regions := [(0, reg0 false), (1, { reg0 false with ctx := 1 })] })
      (fun t => (t.region 0).live && !(t.region 1).live && t.cstate 0 == stBoundary) = true := by decide +kernel

/-- R436: a fence that is drained is complete; a domain that is not draining does nothing. -/
theorem test_fence_drained :
    nextIs (exec (.fenceDrained (.field 1)) { up with fences := [(.field 1, .draining)] }) (fun t => t.fenceOf (.field 1) == some .fenced) =
      true ∧ nextIs (exec (.fenceDrained (.field 1)) up) (fun t => t.fences.isEmpty) = true := by decide +kernel

/-- R359: a step takes the front command and leaves the rest; with none it idles. -/
theorem test_step_queue :
    nextIs (step { up with pending := [.converterStart, .bootReady] }) (fun t => t.pending == [.bootReady]) = true ∧
      nextIs (step up) (fun t => t.pending == []) = true := by decide +kernel

/-- R169: an uncorrectable word of a context's seedbed quota reads 0, is reported and blocks the running step; the word past the
quota is not the context's. -/
theorem test_seed_word :
    (∀ s, s = sets (up.seedWrite 0 0 0 [9, 9, 9, 9, 9, 9, 9, 9]) [(R.FLD_SBQ_BASE 0 0, 0), (R.FLD_SBQ_SIZE 0 0, 1),
        (R.CMT_CSTAT_STATE 0, stRunning)] →
      (let t := s.chipFound (.seedWord 0 0 0 0)
       t.seedRead 0 0 0 8 == List.replicate 8 0 && (t.rf (R.ERR_STAT_STAT (Page.furrowBase 0 0))).testBit 4 &&
         (t.rf (R.CMT_CSTAT_BLOCK 0)).testBit 1 && t.cstate 0 == stBlocked) = true ∧
      (s.chipFound (.seedWord 0 0 0 8192)).seedRead 0 0 0 8 = List.replicate 8 9 ∧
      ((s.chipFound (.seedWord 0 0 0 8192)).rf (R.ERR_STAT_STAT (Page.furrowBase 0 0))) = 0) := by
  rintro s rfl
  decide +kernel

/-- R110, R169: an uncorrectable word of a stream's buffer leaves the other half of its instruction. -/
theorem test_buffer_word :
    (let s := atHead up (word [(0, 0x41), (64, 7)])
     ((s.chipFound (.bufferWord sid 1)).strm 0 0 0 0).buf[0]? == some (some (word [(0, 0x41)])) &&
       ((s.chipFound (.bufferWord sid 0)).strm 0 0 0 0).buf[0]? == some (some (word [(64, 7)]))) = true := by decide +kernel

end Sys2Proof.Tests
end

/-! Barriers (R122, R123): when a BAR at the head of its stream arrives and when it halts, what an arrival does to the stream
and to the barrier, and what a release leaves of the barrier. -/

namespace Sys2Proof.Machine

/-- R124: the opcode of a word is the one it was built from. -/
theorem opcode_tileWord {op : Nat} (hop : op < 256) (body : BitVec 120) : fld (tileWord op body) 0 8 = op := by
  have h : (tileWord op body).extractLsb' 0 8 = BitVec.ofNat 8 op := BitVec.extractLsb'_append_eq_right
  rw [fld, h, BitVec.toNat_ofNat, Nat.mod_eq_of_lt hop]

/-- R112: the instruction at the head of its stream is the one granted, so a tile instruction runs. -/
theorem State.AtHead.tile_runs {s : State} {i : StreamId} {w : InstrWord} (h : s.AtHead i w)
    (run : StreamId → InstrWord → State → State) : tile i w run s = .next (run i w s) := by
  rw [tile, if_pos h.turn]

/-! ### What a BAR at the head does -/

/-- R122: BAR is the tile instruction of opcode 0x48. -/
theorem exec_bar (i : StreamId) (body : BitVec 120) (s : State) :
    exec (.bar i body) s = tile i (tileWord 0x48 body) issueBar s := rfl

/-- R112, R122: a BAR at the head of its stream is the instruction that the issue stage runs. -/
theorem exec_bar_of_atHead {s : State} {i : StreamId} {body : BitVec 120} (h : s.AtHead i (tileWord 0x48 body)) :
    exec (.bar i body) s = .next (issueBar i (tileWord 0x48 body) s) := by
  rw [exec_bar, h.tile_runs]

/-- R122, R123: the barrier that the BAR `w` of the stream at `p` names. -/
def barKeyOf (p : At) (w : InstrWord) : Nat := barKey p (fld w 8 2) (fld w 10 4)

/-- R123, R145: why the BAR `w` is illegal. -/
def State.barCause (s : State) (p : At) (w : InstrWord) : Option Nat :=
  lowest [(fld w 15 1 != 0 || fld w 28 100 != 0, 2), (fld w 8 2 == 3, 3), (fld w 16 12 == 0, 4),
    ((sget? s.barriers (barKeyOf p w)).any fun b => b.count != fld w 16 12, 8), ((s.st p).stepped, 9)]

/-- R113, R122: the BAR `w` is at the head of stream `i`, has not arrived yet, and is ready to. -/
structure State.MayBar (s : State) (i : StreamId) (w : InstrWord) : Prop where
  head : s.AtHead i w
  fresh : (s.st (atOf i)).arrived = none
  retired : s.allRetired (atOf i) = true
  drained : fld w 14 1 = 0 ∨ s.outstanding (atOf i) = 0

/-- R145: the fields of the BAR `w` are legal and its stream has not executed STEP. -/
structure State.BarFields (s : State) (i : StreamId) (w : InstrWord) : Prop where
  reservedBit : fld w 15 1 = 0
  reservedTop : fld w 28 100 = 0
  scope : fld w 8 2 ≠ 3
  count : fld w 16 12 ≠ 0
  unstepped : (s.st (atOf i)).stepped = false

/-- R113: no gate of the issue stage holds a BAR that may arrive. -/
theorem State.MayBar.open_ {s : State} {i : StreamId} {w : InstrWord} (h : s.MayBar i w) :
    ((s.st (atOf i)).cur.isNone || (s.st (atOf i)).state == .halted || s.streamHeld (atOf i).f (atOf i).n (atOf i).c (atOf i).k ||
      s.issueHeld (atOf i).f (atOf i).n || (s.st (atOf i)).arrived.isSome) = false := by
  rw [h.head.open_, h.fresh, Option.isSome_none, Bool.or_false]

/-- R122: a BAR that may arrive has nothing to wait for. -/
theorem State.MayBar.ready {s : State} {i : StreamId} {w : InstrWord} (h : s.MayBar i w) :
    (!(s.allRetired (atOf i) && (fld w 14 1 == 0 || s.outstanding (atOf i) == 0))) = false := by
  simpa [h.retired] using or_iff_not_imp_left.mp h.drained

/-- R122: a ready and legal BAR arrives. -/
theorem State.MayBar.arrives {s : State} {i : StreamId} {w : InstrWord} (h : s.MayBar i w)
    (hc : s.barCause (atOf i) w = none) :
    issueBar i w s = s.arrive (atOf i) (barKeyOf (atOf i) w) (fld w 16 12) := by
  obtain ⟨t, ht⟩ := h.head.buf
  unfold State.barCause barKeyOf at hc
  unfold issueBar barKeyOf
  simp only [h.open_, h.ready, ht, hc, Bool.false_eq_true, if_false, ne_eq, not_true_eq_false]

/-- R146: a ready and illegal BAR halts its stream. -/
theorem State.MayBar.halts {s : State} {i : StreamId} {w : InstrWord} {c : Nat} (h : s.MayBar i w)
    (hc : s.barCause (atOf i) w = some c) : issueBar i w s = s.haltStream (atOf i) c 0x48 := by
  obtain ⟨t, ht⟩ := h.head.buf
  unfold State.barCause barKeyOf at hc
  unfold issueBar
  simp only [h.open_, h.ready, ht, hc, Bool.false_eq_true, if_false, ne_eq, not_true_eq_false]

/-- R123: with legal fields, a BAR whose count is that of the barrier, or that arrives first, has no cause to halt. -/
theorem State.BarFields.cause_none {s : State} {i : StreamId} {w : InstrWord} (h : s.BarFields i w)
    (hb : ∀ b, sget? s.barriers (barKeyOf (atOf i) w) = some b → b.count = fld w 16 12) :
    s.barCause (atOf i) w = none := by
  have hany : ((sget? s.barriers (barKeyOf (atOf i) w)).any fun b => b.count != fld w 16 12) = false := by
    cases he : sget? s.barriers (barKeyOf (atOf i) w) with
    | none => rfl
    | some b => simp [hb b he]
  simp [State.barCause, lowest, hany, h.reservedBit, h.reservedTop, h.scope, h.count, h.unstepped]

/-- R123: with legal fields, a BAR with another count than the barrier's halts with cause 8. -/
theorem State.BarFields.cause_mismatch {s : State} {i : StreamId} {w : InstrWord} (h : s.BarFields i w) {b : Barrier}
    (hb : sget? s.barriers (barKeyOf (atOf i) w) = some b) (hne : b.count ≠ fld w 16 12) :
    s.barCause (atOf i) w = some 8 := by
  simp [State.barCause, lowest, hb, hne, h.reservedBit, h.reservedTop, h.scope, h.count]

/-- R146: a halt is no arrival: every barrier stays as it was. -/
theorem State.Halted.barriers_eq {s t : State} {i : StreamId} {w : InstrWord} {c : Nat} (h : s.Halted t i w c) :
    t.barriers = s.barriers := (congrArg State.barriers h.rest :)

/-! ### Arrival and release -/

/-- R122: a stream that has arrived at barrier `key` and waits there (R150). -/
def StreamSt.arrivedAt (x : StreamSt) (key : Nat) : StreamSt :=
  { x with arrived := some key, state := .waiting, wait := .barrier }

/-- The arrivals at barrier `key` so far. -/
def State.arrivalsAt (s : State) (key : Nat) : Nat := ((sget? s.barriers key).map Barrier.arrivals).getD 0

/-- R123: an arrival that is not the last is counted under its count, and its stream waits. -/
theorem arrive_of_lt {s : State} {key count : Nat} (p : At) (h : s.arrivalsAt key + 1 < count) :
    s.arrive p key count =
      { s.setSt p ((s.st p).arrivedAt key) with barriers := sput s.barriers key ⟨count, s.arrivalsAt key + 1⟩ } := by
  unfold State.arrivalsAt at h
  unfold State.arrive
  exact if_neg (by omega)

/-- R122: the last arrival releases the barrier. -/
theorem arrive_of_le {s : State} {key count : Nat} (p : At) (h : count ≤ s.arrivalsAt key + 1) :
    s.arrive p key count = (s.setSt p ((s.st p).arrivedAt key)).releaseBarrier p.c key := by
  unfold State.arrive
  exact if_pos h

/-- The streams that pass a barrier change no barrier. -/
theorem barriers_foldl_advance (ps : List At) (s : State) : (ps.foldl State.advance s).barriers = s.barriers := by
  have h : Same 8598323208 s (ps.foldl State.advance s) :=
    foldl_same (fun _ p ht => State.advance_same ht rfl p) (Same.refl _ _)
  exact h.barriers.resolve_left (by decide)

/-- R122: a release removes its barrier and leaves every other one. -/
theorem barriers_releaseBarrier (s : State) (c key : Nat) : (s.releaseBarrier c key).barriers = sdel s.barriers key :=
  barriers_foldl_advance _ _

/-- R122: a released barrier is back at zero arrivals. -/
theorem sget_releaseBarrier_self {s : State} (h : Store.Sorted s.barriers) (c key : Nat) :
    sget? (s.releaseBarrier c key).barriers key = none := by
  rw [barriers_releaseBarrier]
  exact sget_sdel_self h key

/-! ### The obligation -/

/-- Settles O3: the BAR arrives or halts by `State.barCause`; an arrival either is stored with its count or releases the
barrier. That an arrival leaves `FUR_ISSUED` as it was is the model's choice (log 70). -/
theorem barrierArrivalAndRelease : Obligations.BarrierArrivalAndRelease := by
  intro i body s w key n hcanon hw hhead hfresh hunstepped hretired hdrained hbit htop hscope hcount hkey hn
  have hmay : s.MayBar i w := ⟨hhead, hfresh, hretired, hdrained⟩
  have hfields : s.BarFields i w := ⟨hbit, htop, hscope, hcount, hunstepped⟩
  have hexec : exec (.bar i body) s = .next (issueBar i w s) := by
    subst hw
    exact exec_bar_of_atHead hhead
  have hkey : key = barKeyOf (atOf i) w := hkey
  have hn : n = s.arrivalsAt key := hn
  subst hkey hn
  refine ⟨fun hsame hlt => ?_, fun hsame hle => ?_, fun b hb hne => ?_⟩
  · refine ⟨_, hexec, ?_⟩
    rw [hmay.arrives (hfields.cause_none hsame), arrive_of_lt _ hlt]
    refine ⟨rfl, sget_sput_self _ _ _, fun k hk => sget_sput_ne _ _ hk, ?_, fun j hj => ?_⟩
    · exact st_setSt_self hcanon.streams (atOf i) ((s.st (atOf i)).arrivedAt _)
    · exact st_setSt_ne s ((s.st (atOf i)).arrivedAt _) hj
  · refine ⟨_, hexec, ?_⟩
    rw [hmay.arrives (hfields.cause_none hsame), arrive_of_le _ hle]
    exact ⟨sget_releaseBarrier_self (s := s.setSt _ _) hcanon.barriers _ _, rfl⟩
  · have hop : fld w 0 8 = 0x48 := hw ▸ opcode_tileWord (by decide) body
    have hhalt : s.Halted (s.haltStream (atOf i) 8 0x48) i w 8 := hop ▸ halted_haltStream hcanon (by decide)
    refine ⟨_, hexec, ?_⟩
    rw [hmay.halts (hfields.cause_mismatch hb hne)]
    exact ⟨hhalt, hhalt.barriers_eq⟩

end Sys2Proof.Machine

/-! The bus before stage 5 (R493): the offsets at which nothing is served, and that a read there returns 0 and a write there
changes nothing, the access-error status included. -/

namespace Sys2Proof.Machine

/-! ### The offsets that are closed before stage 5 -/

/-- R493: offset `a` lies outside the security page and the mailbox window and is no `BLK_ID` or `BLK_VER` word. -/
structure ClosedEarly (a : Nat) : Prop where
  security : pageAt a ≠ some .security
  mailbox : ∀ i, pageAt a ≠ some (.mailbox i)
  word : ∀ p, pageAt a = some p → p.hasCommon = true → 2 ≤ a % 0x1000 / 4

/-- R493: nothing is served at a closed offset outside stage 5. -/
theorem ClosedEarly.unserved {s : State} {a : Nat} (h : ClosedEarly a) (hs : s.stage ≠ 5) : s.served a = false := by
  have hstage : (s.stage == 5) = false := beq_eq_false_iff_ne.mpr hs
  unfold State.served
  rw [hstage, Bool.false_or, Bool.and_eq_false_iff]
  right
  split
  case h_1 hp => exact absurd hp h.security
  case h_2 i hp => exact absurd hp (h.mailbox i)
  case h_3 p _ _ hp =>
    rw [Bool.and_eq_false_imp]
    intro hcommon
    exact decide_eq_false (Nat.not_lt.mpr (h.word p hp hcommon))
  case h_4 => rfl

/-- R541: an offset's page depends on its page index alone. -/
theorem pageAt_congr {a b : Nat} (h : a / 0x1000 = b / 0x1000) : pageAt a = pageAt b := by
  rw [pageAt, pageAt, h]

/-- R493: the words of a page that follow a closed offset are closed. -/
theorem ClosedEarly.later {a b : Nat} (h : ClosedEarly a) (hpage : b / 0x1000 = a / 0x1000)
    (hword : a % 0x1000 / 4 ≤ b % 0x1000 / 4) : ClosedEarly b := by
  have hp : pageAt b = pageAt a := pageAt_congr hpage
  exact ⟨hp ▸ h.security, hp ▸ h.mailbox, fun p hb hcommon => (h.word p (hp ▸ hb) hcommon).trans hword⟩

/-- R541: a page of a field's range is neither the security page nor the mailbox window. -/
theorem fieldPageAt_ne {f i : Nat} : fieldPageAt f i ≠ some .security ∧ ∀ j, fieldPageAt f i ≠ some (.mailbox j) := by
  unfold fieldPageAt
  split_ifs <;> simp

/-- R541: the security page is page 0x5C, and the mailbox window the 16 pages from 0x200. -/
theorem pageAt_ne_of_index {a : Nat} (hsec : a / 0x1000 ≠ 0x5C) (hmail : a / 0x1000 < 0x200 ∨ 0x210 ≤ a / 0x1000) :
    pageAt a ≠ some .security ∧ ∀ j, pageAt a ≠ some (.mailbox j) := by
  have hwindow : ¬(0x200 ≤ a / 0x1000 ∧ a / 0x1000 < 0x210) := by omega
  unfold pageAt
  dsimp only
  rw [if_neg hwindow]
  split_ifs
  case pos => simp
  case pos => exact fieldPageAt_ne
  case pos => simp
  case pos => simp
  case neg => split <;> simp_all

/-- R493: a register after the common layout, outside the security page and the mailbox window, is closed. -/
theorem closedEarly_of_index {a : Nat}
    (h : a / 0x1000 ≠ 0x5C ∧ (a / 0x1000 < 0x200 ∨ 0x210 ≤ a / 0x1000) ∧ 8 ≤ a % 0x1000) : ClosedEarly a := by
  obtain ⟨hsec, hmail, hword⟩ := h
  obtain ⟨hs, hm⟩ := pageAt_ne_of_index hsec hmail
  exact ⟨hs, hm, fun _ _ _ => by omega⟩

/-! ### Reads -/

/-- R11: bytes that are all 0 make the number 0. -/
theorem leNat_eq_zero : ∀ {l : List Byte}, (∀ b ∈ l, b = 0) → leNat l = 0
  | [], _ => rfl
  | b :: l, h => by
    obtain ⟨hb, hl⟩ := List.forall_mem_cons.mp h
    rw [leNat, hb, leNat_eq_zero hl]
    rfl

/-- R11: the first `m` bytes of a run of words are 0 where every word that they touch is. -/
theorem take_words_eq_zero {w : Nat → Word32} {m : Nat} : ∀ n, (∀ k < n, 4 * k < m → w k = 0) →
    ∀ b ∈ ((List.range n).flatMap fun k => leBytes 4 (w k).toNat).take m, b = 0
  | 0, _ => by simp
  | n + 1, h => by
    have hlen : ((List.range n).flatMap fun k => leBytes 4 (w k).toNat).length = 4 * n := by
      simp [List.length_flatMap, length_leBytes, Nat.mul_comm]
    rw [List.range_succ, List.flatMap_append, List.flatMap_singleton, List.take_append, hlen]
    intro b hb
    obtain hb | hb := List.mem_append.mp hb
    · exact take_words_eq_zero n (fun k hk => h k (by omega)) b hb
    · obtain hm | hm := Nat.lt_or_ge (4 * n) m
      · have hzero : b ∈ leBytes 4 (0 : Word32).toNat := h n (by omega) hm ▸ List.mem_of_mem_take hb
        simpa [leBytes] using hzero
      · simp [Nat.sub_eq_zero_of_le hm] at hb

/-- R493: nothing is served in the words that `n` bytes from offset `a` touch. -/
def State.SpanUnserved (s : State) (a n : Nat) : Prop :=
  ∀ k, a / 4 * 4 + 4 * k < a + n → s.served (a / 4 * 4 + 4 * k) = false

/-- R493: no byte from a closed offset to the end of its page is served outside stage 5. -/
theorem ClosedEarly.spanUnserved {s : State} {a n : Nat} (h : ClosedEarly a) (hs : s.stage ≠ 5)
    (hn : a % 0x1000 + n ≤ 0x1000) : s.SpanUnserved a n :=
  fun _ hk => (h.later (by omega) (by omega)).unserved hs

/-- R12: a register that is not served reads 0. -/
theorem peekReg_of_unserved {s : State} {u a : Nat} (h : s.served a = false) : s.peekReg u a = 0 := by
  simp [State.peekReg, h]

/-- R12: bytes that are not served read 0. -/
theorem leNat_peekBytes_of_unserved {s : State} {u a n : Nat} (h : s.SpanUnserved a n) : leNat (s.peekBytes u a n) = 0 := by
  refine leNat_eq_zero fun b hb => ?_
  rw [State.peekBytes, List.take_drop] at hb
  exact take_words_eq_zero 3 (fun k _ hk => peekReg_of_unserved (h k (by omega))) b (List.mem_of_mem_drop hb)

/-- R12: a read of bytes that are not served draws no free value. -/
theorem drawSpan_of_unserved {s : State} {a n : Nat} (h : s.SpanUnserved a n) : s.drawSpan a n = s := by
  refine List.foldl_fixed' (fun k => ?_) _
  split_ifs with hk
  · simp [State.drawTimed, h k hk]
  · rfl

/-- R12, R493: a read of which nothing is served returns 0 and does nothing else. -/
theorem busRead_of_unserved {s : State} {u a log : Nat} (h : s.SpanUnserved a (2 ^ log)) :
    s.busRead u a log = { s with rdata := 0 } := by
  by_cases hshape : log ≠ 2 ∨ a % 4 ≠ 0
  · rw [State.busRead, if_pos hshape, drawSpan_of_unserved h, leNat_peekBytes_of_unserved h]
    rfl
  · have haligned : a / 4 * 4 + 4 * 0 = a := by omega
    have hpos : 0 < 2 ^ log := Nat.two_pow_pos log
    have hfirst : s.served a = false := by simpa only [haligned] using h 0 (by omega)
    simp [State.busRead, hshape, hfirst]

/-! ### Writes -/

/-- R493: an aligned write that is not served changes nothing. -/
theorem gateWrite_of_unserved {s : State} {u a : Nat} (h : s.served a = false) (k : State → State) :
    s.gateWrite u a k = s := by
  simp [State.gateWrite, h]

/-- R493: a write of another shape that is not served is not recorded either. -/
theorem badWrite_of_unserved {s : State} {u a : Nat} (h : s.served a = false) : s.badWrite u a = s := by
  simp [State.badWrite, h]

/-- R493: a 32-bit write that is not served changes nothing. -/
theorem busWrite_of_unserved {s : State} {u a : Nat} (h : s.served a = false) (v : Word32) : s.busWrite u a v = s := by
  unfold State.busWrite
  split
  · exact badWrite_of_unserved h
  · exact gateWrite_of_unserved h _

/-- R493: outside stage 5 an aligned write at a closed offset changes nothing. -/
theorem ClosedEarly.gateWrite_eq {s : State} {a : Nat} (h : ClosedEarly a) (hs : s.stage ≠ 5) (u : Nat) (k : State → State) :
    s.gateWrite u a k = s :=
  gateWrite_of_unserved (h.unserved hs) k

/-! ### The registers whose writes are commands of their own -/

theorem A.QM_QBIND_closed : ClosedEarly A.QM_QBIND := closedEarly_of_index (by rw [A.QM_QBIND_val]; omega)

theorem A.CLK_OUT_closed : ClosedEarly A.CLK_OUT := closedEarly_of_index (by rw [A.CLK_OUT_val]; omega)

theorem A.MBL_DEVID_closed : ClosedEarly A.MBL_DEVID := closedEarly_of_index (by rw [A.MBL_DEVID_val]; omega)

theorem A.CMT_RCTL_closed : ClosedEarly A.CMT_RCTL := closedEarly_of_index (by rw [A.CMT_RCTL_val]; omega)

theorem A.MBL_RT_HI_closed (j : Fin 64) : ClosedEarly (A.MBL_RT_HI j) :=
  closedEarly_of_index (by unfold A.MBL_RT_HI Page.fabricBase; omega)

theorem A.QM_QDB_closed (q : Fin 8192) : ClosedEarly (A.QM_QDB q) :=
  closedEarly_of_index (by unfold A.QM_QDB Page.doorbellBase; omega)

theorem A.QM_QCFG_closed (q : Fin 8192) : ClosedEarly (A.QM_QCFG q) :=
  closedEarly_of_index (by unfold A.QM_QCFG Page.doorbellBase; omega)

theorem A.FLD_GRAN_closed (f : Fin 4) (g : Fin 480) : ClosedEarly (A.FLD_GRAN f g) :=
  closedEarly_of_index (by unfold A.FLD_GRAN Page.fieldmemBase Page.fieldBase; omega)

theorem A.FLD_SHEAF_closed (f : Fin 4) (c : Fin 64) : ClosedEarly (A.FLD_SHEAF f c) :=
  closedEarly_of_index (by unfold A.FLD_SHEAF Page.fieldmemBase Page.fieldBase; omega)

theorem A.MBL_CTRL_closed (p : Fin 8) : ClosedEarly (A.MBL_CTRL p) :=
  closedEarly_of_index (by unfold A.MBL_CTRL Page.portBase Page.fieldBase; omega)

theorem A.MBL_RXALLOC_closed (p : Fin 8) (k : Fin 4) : ClosedEarly (A.MBL_RXALLOC p k) :=
  closedEarly_of_index (by unfold A.MBL_RXALLOC Page.portBase Page.fieldBase; omega)

theorem A.CTX_MEM_closed (c : Fin 64) : ClosedEarly (A.CTX_MEM c) :=
  closedEarly_of_index (by unfold A.CTX_MEM Page.contextBase; omega)

theorem A.CTX_BIND_closed (c : Fin 64) : ClosedEarly (A.CTX_BIND c) :=
  closedEarly_of_index (by unfold A.CTX_BIND Page.contextBase; omega)

theorem A.CTX_IF_CTRL_closed (c : Fin 64) : ClosedEarly (A.CTX_IF_CTRL c) :=
  closedEarly_of_index (by unfold A.CTX_IF_CTRL Page.contextBase; omega)

/-- R377: the three quota registers of a field. -/
theorem quotaLocs_closed (c : Fin 64) (f : Fin 4) (k : Quota) : ClosedEarly (quotaLocs c f k).1 := by
  cases k with
  | seedbed => exact closedEarly_of_index (by unfold quotaLocs A.FLD_SBQ Page.contextBase; dsimp only; omega)
  | slots => exact closedEarly_of_index (by unfold quotaLocs A.FLD_ACQ Page.contextBase; dsimp only; omega)
  | gleaning => exact closedEarly_of_index (by unfold quotaLocs A.FLD_GLQ Page.contextBase; dsimp only; omega)

/-- R339: the configuration registers of a serving page. -/
theorem servOffset_closed (c : Fin 64) {o : BitVec 12} (ho : servOffset o.toNat = true) :
    ClosedEarly (Page.servingBase c + o.toNat) := by
  have hfirst : 0x100 ≤ o.toNat := by
    simp only [servOffset, Bool.and_eq_true, decide_eq_true_eq] at ho
    omega
  exact closedEarly_of_index (by unfold Page.servingBase; omega)

/-! ### BAR2 -/

/-- R493: BAR2 is not served outside stage 5. -/
theorem bar2Served_of_early {s : State} (hs : s.stage ≠ 5) (u off n : Nat) : s.bar2Served u off n = false := by
  simp [State.bar2Served, hs]

/-- R493: a BAR2 read outside stage 5 returns 0 and does nothing else. -/
theorem execBar2Read_of_early {s : State} (hs : s.stage ≠ 5) (u : Fin 64) (off : BitVec 41) (n : Fin 4097) :
    execBar2Read u off n s = .next { s with b2data := List.replicate n.val 0 } := by
  simp [execBar2Read, bar2Served_of_early hs]

/-- R493: a BAR2 write outside stage 5 changes nothing. -/
theorem execBar2Write_of_early {s : State} (hs : s.stage ≠ 5) (u : Fin 64) (off : BitVec 41) (bs : List Byte) :
    execBar2Write u off bs s = .next s := by
  simp [execBar2Write, bar2Served_of_early hs]

/-! ### The obligation -/

/-- Settles O42: a closed offset is not served outside stage 5, so reads find 0 and writes end at the gate; every register
whose write is a command of its own stands at a closed offset. -/
theorem earlyAccessesAreDiscarded : Obligations.EarlyAccessesAreDiscarded := by
  intro u a v s hs hsec hmail hword
  have ha : ClosedEarly a.toNat := ⟨hsec, hmail, hword⟩
  have hgate {b : Nat} (hb : ClosedEarly b) (k : State → State) : (.next (s.gateWrite u b k) : Out) = .next s :=
    congrArg _ (hb.gateWrite_eq hs u k)
  refine ⟨fun log hspan c hc => ?_, fun c hc => ?_, fun q f g c k p t o e he hwf => ?_,
    fun off n bs => ⟨execBar2Read_of_early hs u off n, execBar2Write_of_early hs u off bs⟩⟩
  · have hread : s.busRead u a.toNat log = { s with rdata := 0 } := busRead_of_unserved (ha.spanUnserved hs hspan)
    simp only [List.mem_cons, List.not_mem_nil, or_false] at hc
    obtain rfl | rfl := hc
    · exact congrArg _ hread
    · exact congrArg _ hread
  · have hwrite : s.busWrite u a.toNat v = s := busWrite_of_unserved (ha.unserved hs) v
    simp only [List.mem_cons, List.not_mem_nil, or_false] at hc
    obtain rfl | rfl | rfl | rfl := hc
    · exact congrArg _ hwrite
    · exact congrArg _ hwrite
    · exact congrArg _ hwrite
    · exact congrArg _ (badWrite_of_unserved (ha.unserved hs))
  · simp only [List.mem_cons, List.not_mem_nil, or_false] at he
    obtain rfl | rfl | rfl | rfl | rfl | rfl | rfl | rfl | rfl | rfl | rfl | rfl | rfl | rfl | rfl | rfl | rfl | rfl | rfl |
      rfl := he
    · exact hgate (A.QM_QDB_closed q) _
    · exact hgate A.QM_QBIND_closed _
    · exact hgate (A.QM_QCFG_closed q) _
    · exact hgate (A.QM_QCFG_closed q) _
    · exact hgate (A.FLD_GRAN_closed f g) _
    · exact hgate (A.FLD_SHEAF_closed f c) _
    · exact hgate (A.CTX_MEM_closed c) _
    · exact hgate (A.CTX_BIND_closed c) _
    · exact hgate (A.CTX_BIND_closed c) _
    · exact hgate (quotaLocs_closed c f k) _
    · exact hgate A.CMT_RCTL_closed _
    · exact hgate A.CMT_RCTL_closed _
    · exact hgate (A.MBL_CTRL_closed p) _
    · exact hgate (A.MBL_CTRL_closed p) _
    · exact hgate A.MBL_DEVID_closed _
    · exact hgate (A.MBL_RXALLOC_closed p t) _
    · exact hgate (A.MBL_RT_HI_closed c) _
    · exact hgate (servOffset_closed c hwf) _
    · exact hgate (A.CTX_IF_CTRL_closed c) _
    · exact hgate A.CLK_OUT_closed _

end Sys2Proof.Machine

/-! The block as a whole (logs 1, 2, 45; R488): every command answers a next state, leaves the queue of commands alone, keeps
canonical form, clears no fuse and changes only its own parts. The layers `Keeps` and `Same` say the last four of every meaning;
here they are read off the dispatch once. -/

namespace Sys2Proof.Machine

/-! ### Every command answers -/

set_option linter.unreachableTactic false
set_option linter.unusedTactic false

/-- Log 45: the outcome is a next state, neither a fault nor a refusal. -/
def Completes (o : Out) : Prop := ∃ t, o = .next t

theorem completes_next (t : State) : Completes (.next t) := ⟨t, rfl⟩

theorem completes_ite {c : Prop} [Decidable c] {a b : Out} (ha : Completes a) (hb : Completes b) :
    Completes (if c then a else b) := by
  split
  · exact ha
  · exact hb

theorem execDmaHandoffAccept_completes (f : Fin 4) (s : State) : Completes (execDmaHandoffAccept f s) := by
  unfold execDmaHandoffAccept
  repeat' first
    | with_reducible exact completes_next _
    | with_reducible apply completes_ite
    | split
    | dsimp only

theorem execDmaTransferDone_completes (f : Fin 4) (i : Nat) (lost : List Nat) (s : State) :
    Completes (execDmaTransferDone f i lost s) := by
  unfold execDmaTransferDone
  repeat' first
    | with_reducible exact completes_next _
    | with_reducible apply completes_ite
    | split
    | dsimp only

theorem execDrainRetire_completes (f : Fin 4) (n : Fin 26) (s : State) : Completes (execDrainRetire f n s) := by
  unfold execDrainRetire
  repeat' first
    | with_reducible exact completes_next _
    | with_reducible apply completes_ite
    | split
    | dsimp only

theorem execLaunchStart_completes (i : StreamId) (s : State) : Completes (execLaunchStart i s) := by
  unfold execLaunchStart
  repeat' first
    | with_reducible exact completes_next _
    | with_reducible apply completes_ite
    | split
    | dsimp only

theorem execStreamFetchDone_completes (i : StreamId) (s : State) : Completes (execStreamFetchDone i s) := by
  unfold execStreamFetchDone
  repeat' first
    | with_reducible exact completes_next _
    | with_reducible apply completes_ite
    | split
    | dsimp only

theorem execSeqForwardIssue_completes (f : Fin 4) (s : State) : Completes (execSeqForwardIssue f s) := by
  unfold execSeqForwardIssue
  repeat' first
    | with_reducible exact completes_next _
    | with_reducible apply completes_ite
    | split
    | dsimp only

theorem execShadowCompare_completes (f : Fin 4) (i : Nat) (differs : Bool) (m : Meas) (s : State) :
    Completes (execShadowCompare f i differs m s) := by
  unfold execShadowCompare
  repeat' first
    | with_reducible exact completes_next _
    | with_reducible apply completes_ite
    | split
    | dsimp only

theorem execCommandStart_completes (q : Fin 8192) (ring : Option CmdWord) (s : State) :
    Completes (execCommandStart q ring s) := by
  unfold execCommandStart
  repeat' first
    | with_reducible exact completes_next _
    | with_reducible apply completes_ite
    | split
    | dsimp only

theorem execCopyDone_completes (i : Fin 4) (host : List Byte) (ok : Bool) (s : State) :
    Completes (execCopyDone i host ok s) := by
  unfold execCopyDone
  repeat' first
    | with_reducible exact completes_next _
    | with_reducible apply completes_ite
    | split
    | dsimp only

theorem execStepReady_completes (c : Fin 64) (rings : Rings) (s : State) : Completes (execStepReady c rings s) := by
  unfold execStepReady
  repeat' first
    | with_reducible exact completes_next _
    | with_reducible apply completes_ite
    | split
    | dsimp only

theorem execWritePacket_completes (p : Fin 12) (vc : Fin 2) (s : State) : Completes (execWritePacket p vc s) := by
  unfold execWritePacket
  repeat' first
    | with_reducible exact completes_next _
    | with_reducible apply completes_ite
    | split
    | dsimp only

theorem execCollectiveEnd_completes (f : Fin 4) (c : Fin 64) (opid : BitVec 32) (s : State) :
    Completes (execCollectiveEnd f c opid s) := by
  unfold execCollectiveEnd
  repeat' first
    | with_reducible exact completes_next _
    | with_reducible apply completes_ite
    | split
    | dsimp only

theorem execCollectiveTimeout_completes (f : Fin 4) (c : Fin 64) (opid : BitVec 32) (s : State) :
    Completes (execCollectiveTimeout f c opid s) := by
  unfold execCollectiveTimeout
  repeat' first
    | with_reducible exact completes_next _
    | with_reducible apply completes_ite
    | split
    | dsimp only

theorem execNextPrefetch_completes (f : Fin 4) (c : Fin 64) (opid : BitVec 32) (host : List Byte) (s : State) :
    Completes (execNextPrefetch f c opid host s) := by
  unfold execNextPrefetch
  repeat' first
    | with_reducible exact completes_next _
    | with_reducible apply completes_ite
    | split
    | dsimp only

theorem execAbortSlot_completes (p : Fin 8) (ns : Nat) (s : State) : Completes (execAbortSlot p ns s) := by
  unfold execAbortSlot
  repeat' first
    | with_reducible exact completes_next _
    | with_reducible apply completes_ite
    | split
    | dsimp only

theorem execKeyRatchet_completes (p : Fin 8) (tx : Bool) (s : State) : Completes (execKeyRatchet p tx s) := by
  unfold execKeyRatchet
  repeat' first
    | with_reducible exact completes_next _
    | with_reducible apply completes_ite
    | split
    | dsimp only

theorem execAlignComplete_completes (p : Fin 8) (pass inv : BitVec 16) (rev : Bool) (delay : BitVec 16) (s : State) :
    Completes (execAlignComplete p pass inv rev delay s) := by
  unfold execAlignComplete
  split
  · exact completes_next _
  · extract_lets t
    generalize chooseWidth _ _ = o
    cases o with
    | none => exact completes_next _
    | some o => exact completes_next _

theorem execIdent_completes (p : Fin 8) (kex1 : List Byte) (s : State) : Completes (execIdent p kex1 s) := by
  unfold execIdent
  repeat' first
    | with_reducible exact completes_next _
    | with_reducible apply completes_ite
    | split
    | dsimp only

theorem execKexMessage_completes (p : Fin 8) (ok : Bool) (root key reply : List Byte) (s : State) :
    Completes (execKexMessage p ok root key reply s) := by
  unfold execKexMessage
  repeat' first
    | with_reducible exact completes_next _
    | with_reducible apply completes_ite
    | split
    | dsimp only

theorem execHbSend_completes (p : Fin 8) (s : State) : Completes (execHbSend p s) := by
  unfold execHbSend
  repeat' first
    | with_reducible exact completes_next _
    | with_reducible apply completes_ite
    | split
    | dsimp only

theorem execHbReceive_completes (p : Fin 8) (s : State) : Completes (execHbReceive p s) := by
  unfold execHbReceive
  repeat' first
    | with_reducible exact completes_next _
    | with_reducible apply completes_ite
    | split
    | dsimp only

theorem execHeartbeatLoss_completes (p : Fin 8) (s : State) : Completes (execHeartbeatLoss p s) := by
  unfold execHeartbeatLoss
  repeat' first
    | with_reducible exact completes_next _
    | with_reducible apply completes_ite
    | split
    | dsimp only

theorem execMgmtPacket_completes (p : Fin 12) (vc : Fin 2) (sigs : List Verified) (flashOk : Bool) (m : Meas) (s : State) :
    Completes (execMgmtPacket p vc sigs flashOk m s) := by
  unfold execMgmtPacket
  repeat' first
    | with_reducible exact completes_next _
    | with_reducible apply completes_ite
    | split
    | dsimp only

theorem execMgmtReassemblyTimeout_completes (i : Fin 4) (s : State) : Completes (execMgmtReassemblyTimeout i s) := by
  unfold execMgmtReassemblyTimeout
  repeat' first
    | with_reducible exact completes_next _
    | with_reducible apply completes_ite
    | split
    | dsimp only

theorem execGranuleClearDone_completes (f : Fin 4) (m : Fin 5) (s : State) : Completes (execGranuleClearDone f m s) := by
  unfold execGranuleClearDone
  repeat' first
    | with_reducible exact completes_next _
    | with_reducible apply completes_ite
    | split
    | dsimp only

theorem execHbmRead_completes (w : Reader) (a : BitVec 41) (x : Found) (onDie : Bool) (s : State) :
    Completes (execHbmRead w a x onDie s) := by
  unfold execHbmRead
  repeat' first
    | with_reducible exact completes_next _
    | with_reducible apply completes_ite
    | split
    | dsimp only

theorem execHbmPartialWrite_completes (w : Reader) (a : BitVec 41) (bs : List Byte) (x : Found) (onDie : Bool) (s : State) :
    Completes (execHbmPartialWrite w a bs x onDie s) := by
  unfold execHbmPartialWrite
  repeat' first
    | with_reducible exact completes_next _
    | with_reducible apply completes_ite
    | split
    | dsimp only

theorem execScrubRead_completes (f : Fin 4) (m : Fin 5) (x : Found) (onDie : Bool) (s : State) :
    Completes (execScrubRead f m x onDie s) := by
  unfold execScrubRead
  repeat' first
    | with_reducible exact completes_next _
    | with_reducible apply completes_ite
    | split
    | dsimp only

theorem execFuseBurnDone_completes (ok : Bool) (s : State) : Completes (execFuseBurnDone ok s) := by
  unfold execFuseBurnDone
  repeat' first
    | with_reducible exact completes_next _
    | with_reducible apply completes_ite
    | split
    | dsimp only

theorem execHarrowTile_completes (f : Fin 4) (m : Meas) (differs : Bool) (eqA : Bool) (eqB : Bool) (s : State) :
    Completes (execHarrowTile f m differs eqA eqB s) := by
  unfold execHarrowTile
  repeat' first
    | with_reducible exact completes_next _
    | with_reducible apply completes_ite
    | split
    | dsimp only

theorem execHarrowTimeout_completes (f : Fin 4) (m : Meas) (s : State) : Completes (execHarrowTimeout f m s) := by
  unfold execHarrowTimeout
  repeat' first
    | with_reducible exact completes_next _
    | with_reducible apply completes_ite
    | split
    | dsimp only

theorem execAlmanacFlashWrite_completes (ok : Bool) (s : State) : Completes (execAlmanacFlashWrite ok s) := by
  unfold execAlmanacFlashWrite
  repeat' first
    | with_reducible exact completes_next _
    | with_reducible apply completes_ite
    | split
    | dsimp only

theorem execBar2Read_completes (u : Fin 64) (off : BitVec 41) (n : Fin 4097) (s : State) :
    Completes (execBar2Read u off n s) := by
  unfold execBar2Read
  repeat' first
    | with_reducible exact completes_next _
    | with_reducible apply completes_ite
    | split
    | dsimp only

theorem execBar2Write_completes (u : Fin 64) (off : BitVec 41) (bs : List Byte) (s : State) :
    Completes (execBar2Write u off bs s) := by
  unfold execBar2Write
  repeat' first
    | with_reducible exact completes_next _
    | with_reducible apply completes_ite
    | split
    | dsimp only

theorem execFunctionLevelReset_completes (u : Fin 64) (s : State) : Completes (execFunctionLevelReset u s) := by
  unfold execFunctionLevelReset
  repeat' first
    | with_reducible exact completes_next _
    | with_reducible apply completes_ite
    | split
    | dsimp only

theorem execDeviceReset_completes (why : ResetCause) (s : State) : Completes (execDeviceReset why s) := by
  unfold execDeviceReset
  repeat' first
    | with_reducible exact completes_next _
    | with_reducible apply completes_ite
    | split
    | dsimp only

theorem execBootStart_completes (slot : BitVec 5) (s : State) : Completes (execBootStart slot s) := by
  unfold execBootStart
  repeat' first
    | with_reducible exact completes_next _
    | with_reducible apply completes_ite
    | split
    | dsimp only

theorem execBootVerify_completes (sigs : List Verified) (flashOk : Bool) (s : State) :
    Completes (execBootVerify sigs flashOk s) := by
  unfold execBootVerify
  repeat' first
    | with_reducible exact completes_next _
    | with_reducible apply completes_ite
    | split
    | dsimp only

theorem execBootReady_completes (s : State) : Completes (execBootReady s) := by
  unfold execBootReady
  repeat' first
    | with_reducible exact completes_next _
    | with_reducible apply completes_ite
    | split
    | dsimp only

theorem execPowerLoss_completes (why : LossCause) (s : State) : Completes (execPowerLoss why s) := by
  unfold execPowerLoss
  repeat' first
    | with_reducible exact completes_next _
    | with_reducible apply completes_ite
    | split
    | dsimp only

theorem execRegulatorFailure_completes (s : State) : Completes (execRegulatorFailure s) := by
  unfold execRegulatorFailure
  repeat' first
    | with_reducible exact completes_next _
    | with_reducible apply completes_ite
    | split
    | dsimp only

theorem execPwrBrakeAssert_completes (s : State) : Completes (execPwrBrakeAssert s) := by
  unfold execPwrBrakeAssert
  repeat' first
    | with_reducible exact completes_next _
    | with_reducible apply completes_ite
    | split
    | dsimp only

theorem execPwrBrakeRelease_completes (s : State) : Completes (execPwrBrakeRelease s) := by
  unfold execPwrBrakeRelease
  repeat' first
    | with_reducible exact completes_next _
    | with_reducible apply completes_ite
    | split
    | dsimp only

theorem execHostLinkTrain_completes (speed : Fin 6) (w : LinkWidth) (flit : Bool) (s : State) :
    Completes (execHostLinkTrain speed w flit s) := by
  unfold execHostLinkTrain
  repeat' first
    | with_reducible exact completes_next _
    | with_reducible apply completes_ite
    | split
    | dsimp only

theorem execMsixUnmask_completes (u : Fin 64) (vec : Fin 2048) (s : State) : Completes (execMsixUnmask u vec s) := by
  unfold execMsixUnmask
  repeat' first
    | with_reducible exact completes_next _
    | with_reducible apply completes_ite
    | split
    | dsimp only

theorem execPowerSample_completes (x : PowerIn) (s : State) : Completes (execPowerSample x s) := by
  unfold execPowerSample
  repeat' first
    | with_reducible exact completes_next _
    | with_reducible apply completes_ite
    | split
    | dsimp only

theorem execThrottleEval_completes (draw : BitVec 16) (k : Fin 40) (s : State) :
    Completes (execThrottleEval draw k s) := by
  unfold execThrottleEval
  repeat' first
    | with_reducible exact completes_next _
    | with_reducible apply completes_ite
    | split
    | dsimp only

theorem execClockLevelStep_completes (f : Fin 4) (s : State) : Completes (execClockLevelStep f s) := by
  unfold execClockLevelStep
  repeat' first
    | with_reducible exact completes_next _
    | with_reducible apply completes_ite
    | split
    | dsimp only

theorem execThermalTrip_completes (d : Fin 24) (t : BitVec 8) (s : State) : Completes (execThermalTrip d t s) := by
  unfold execThermalTrip
  repeat' first
    | with_reducible exact completes_next _
    | with_reducible apply completes_ite
    | split
    | dsimp only

theorem execThermalTripEnd_completes (d : Fin 24) (t : BitVec 8) (s : State) : Completes (execThermalTripEnd d t s) := by
  unfold execThermalTripEnd
  repeat' first
    | with_reducible exact completes_next _
    | with_reducible apply completes_ite
    | split
    | dsimp only

theorem execAnalogTrip_completes (d : Fin 24) (on : Bool) (s : State) : Completes (execAnalogTrip d on s) := by
  unfold execAnalogTrip
  repeat' first
    | with_reducible exact completes_next _
    | with_reducible apply completes_ite
    | split
    | dsimp only

theorem execArraySleep_completes (f : Fin 4) (n : Fin 26) (j : Fin 4) (s : State) :
    Completes (execArraySleep f n j s) := by
  unfold execArraySleep
  repeat' first
    | with_reducible exact completes_next _
    | with_reducible apply completes_ite
    | split
    | dsimp only

theorem execFurrowSleep_completes (f : Fin 4) (n : Fin 26) (s : State) : Completes (execFurrowSleep f n s) := by
  unfold execFurrowSleep
  repeat' first
    | with_reducible exact completes_next _
    | with_reducible apply completes_ite
    | split
    | dsimp only

theorem execFieldSleep_completes (f : Fin 4) (s : State) : Completes (execFieldSleep f s) := by
  unfold execFieldSleep
  repeat' first
    | with_reducible exact completes_next _
    | with_reducible apply completes_ite
    | split
    | dsimp only

theorem execFurrowWake_completes (f : Fin 4) (n : Fin 26) (s : State) : Completes (execFurrowWake f n s) := by
  unfold execFurrowWake
  repeat' first
    | with_reducible exact completes_next _
    | with_reducible apply completes_ite
    | split
    | dsimp only

theorem execFieldWake_completes (f : Fin 4) (failing : List (Fin 5)) (rings : Rings) (s : State) :
    Completes (execFieldWake f failing rings s) := by
  unfold execFieldWake
  repeat' first
    | with_reducible exact completes_next _
    | with_reducible apply completes_ite
    | split
    | dsimp only

theorem execMonitorWindow_completes (n : BitVec 16) (ao : BitVec 15) (osc : BitVec 15) (s : State) :
    Completes (execMonitorWindow n ao osc s) := by
  unfold execMonitorWindow
  repeat' first
    | with_reducible exact completes_next _
    | with_reducible apply completes_ite
    | split
    | dsimp only

theorem execPllWindow_completes (i : Fin 18) (n : BitVec 15) (meter : BitVec 15) (s : State) :
    Completes (execPllWindow i n meter s) := by
  unfold execPllWindow
  repeat' first
    | with_reducible exact completes_next _
    | with_reducible apply completes_ite
    | split
    | dsimp only

theorem execPllLockTimeout_completes (i : Fin 18) (s : State) : Completes (execPllLockTimeout i s) := by
  unfold execPllLockTimeout
  repeat' first
    | with_reducible exact completes_next _
    | with_reducible apply completes_ite
    | split
    | dsimp only

theorem execCollectorTick_completes (faulty : List (Nat × Nat)) (l : List (Nat × Meas)) (finds : List ChipFind) (s : State) :
    Completes (execCollectorTick faulty l finds s) := by
  unfold execCollectorTick
  repeat' first
    | with_reducible exact completes_next _
    | with_reducible apply completes_ite
    | split
    | dsimp only

theorem execQuietPeriodExpiry_completes (s : State) : Completes (execQuietPeriodExpiry s) := by
  unfold execQuietPeriodExpiry
  repeat' first
    | with_reducible exact completes_next _
    | with_reducible apply completes_ite
    | split
    | dsimp only

theorem execStreamWatchdog_completes (x : StreamId) (s : State) : Completes (execStreamWatchdog x s) := by
  unfold execStreamWatchdog
  repeat' first
    | with_reducible exact completes_next _
    | with_reducible apply completes_ite
    | split
    | dsimp only

theorem execQueueWatchdog_completes (q : Fin 8192) (s : State) : Completes (execQueueWatchdog q s) := by
  unfold execQueueWatchdog
  repeat' first
    | with_reducible exact completes_next _
    | with_reducible apply completes_ite
    | split
    | dsimp only

theorem execDmaWatchdog_completes (f : Fin 4) (e : Fin 8) (s : State) : Completes (execDmaWatchdog f e s) := by
  unfold execDmaWatchdog
  repeat' first
    | with_reducible exact completes_next _
    | with_reducible apply completes_ite
    | split
    | dsimp only

theorem execPortWatchdog_completes (p : Fin 8) (who : Option (Fin 64)) (s : State) :
    Completes (execPortWatchdog p who s) := by
  unfold execPortWatchdog
  repeat' first
    | with_reducible exact completes_next _
    | with_reducible apply completes_ite
    | split
    | dsimp only

theorem execFenceDrained_completes (d : Dom) (s : State) : Completes (execFenceDrained d s) := by
  unfold execFenceDrained
  repeat' first
    | with_reducible exact completes_next _
    | with_reducible apply completes_ite
    | split
    | dsimp only

theorem execFenceDrainTimeout_completes (d : Dom) (s : State) : Completes (execFenceDrainTimeout d s) := by
  unfold execFenceDrainTimeout
  repeat' first
    | with_reducible exact completes_next _
    | with_reducible apply completes_ite
    | split
    | dsimp only

theorem execInterferenceWindowEnd_completes (c : Fin 64) (w : WinCounts) (s : State) :
    Completes (execInterferenceWindowEnd c w s) := by
  unfold execInterferenceWindowEnd
  repeat' first
    | with_reducible exact completes_next _
    | with_reducible apply completes_ite
    | split
    | dsimp only

theorem execIdeKeyMessage_completes (req : List Byte) (s : State) : Completes (execIdeKeyMessage req s) := by
  unfold execIdeKeyMessage
  repeat' first
    | with_reducible exact completes_next _
    | with_reducible apply completes_ite
    | split
    | dsimp only

theorem execDoeAttest_completes (req : DoeRequest) (s : State) : Completes (execDoeAttest req s) := by
  unfold execDoeAttest
  repeat' first
    | with_reducible exact completes_next _
    | with_reducible apply completes_ite
    | split
    | dsimp only

theorem execIdeIntegrityFailure_completes (s : State) : Completes (execIdeIntegrityFailure s) := by
  unfold execIdeIntegrityFailure
  repeat' first
    | with_reducible exact completes_next _
    | with_reducible apply completes_ite
    | split
    | dsimp only

theorem execThermalControl_completes (d : Fin 24) (t : BitVec 8) (lvl : Fin 33) (tin : BitVec 8) (tout : BitVec 8) (s : State) :
    Completes (execThermalControl d t lvl tin tout s) := by
  unfold execThermalControl
  repeat' first
    | with_reducible exact completes_next _
    | with_reducible apply completes_ite
    | split
    | dsimp only

theorem execControlProcessorWatchdog_completes (s : State) : Completes (execControlProcessorWatchdog s) := by
  unfold execControlProcessorWatchdog
  repeat' first
    | with_reducible exact completes_next _
    | with_reducible apply completes_ite
    | split
    | dsimp only

theorem execConfigurationWrite_completes (w : ConfigWrite) (s : State) : Completes (execConfigurationWrite w s) := by
  unfold execConfigurationWrite
  repeat' first
    | with_reducible exact completes_next _
    | with_reducible apply completes_ite
    | split
    | dsimp only

theorem execDynamicAddressAssign_completes (how : I3cAssign) (a : BitVec 7) (s : State) :
    Completes (execDynamicAddressAssign how a s) := by
  unfold execDynamicAddressAssign
  repeat' first
    | with_reducible exact completes_next _
    | with_reducible apply completes_ite
    | split
    | dsimp only

theorem execFlashProgramDone_completes (flashOk : Bool) (s : State) : Completes (execFlashProgramDone flashOk s) := by
  unfold execFlashProgramDone
  repeat' first
    | with_reducible exact completes_next _
    | with_reducible apply completes_ite
    | split
    | dsimp only

theorem execJtagAccess_completes (op : TapOp) (s : State) : Completes (execJtagAccess op s) := by
  unfold execJtagAccess
  repeat' first
    | with_reducible exact completes_next _
    | with_reducible apply completes_ite
    | split
    | dsimp only

/-- Log 45: every command answers a next state, whatever the state. -/
theorem exec_completes (c : Instr) (s : State) : Completes (exec c s) := by
  cases c with
  | ldw => exact completes_next _
  | lda => exact completes_next _
  | trn => exact completes_next _
  | dma => exact completes_next _
  | dmaHandoffAccept _ => exact execDmaHandoffAccept_completes _ _
  | dmaTransferDone _ _ _ => exact execDmaTransferDone_completes _ _ _ _
  | mma => exact completes_next _
  | mmt => exact completes_next _
  | weightBankFilled => exact completes_next _
  | arrayPassEnter => exact completes_next _
  | drn => exact completes_next _
  | drainRetire _ _ => exact execDrainRetire_completes _ _ _
  | vopCpy => exact completes_next _
  | vopAdd => exact completes_next _
  | vopSub => exact completes_next _
  | vopMul => exact completes_next _
  | vopFma => exact completes_next _
  | vopDiv => exact completes_next _
  | vopSqrt => exact completes_next _
  | vopMax => exact completes_next _
  | vopMin => exact completes_next _
  | vopExp => exact completes_next _
  | vopTanh => exact completes_next _
  | vopErf => exact completes_next _
  | rsum => exact completes_next _
  | rmax => exact completes_next _
  | adamw => exact completes_next _
  | gsq => exact completes_next _
  | afapply => exact completes_next _
  | glnInit => exact completes_next _
  | glnAcc => exact completes_next _
  | glnAdd => exact completes_next _
  | glnFlush => exact completes_next _
  | semw => exact completes_next _
  | sems => exact completes_next _
  | bar => exact completes_next _
  | col => exact completes_next _
  | chkForce => exact completes_next _
  | chkRead => exact completes_next _
  | step => exact completes_next _
  | endStream => exact completes_next _
  | launchStart _ => exact execLaunchStart_completes _ _
  | streamFetchDone _ => exact execStreamFetchDone_completes _ _
  | seqForwardIssue _ => exact execSeqForwardIssue_completes _ _
  | shadowCompare _ _ _ _ => exact execShadowCompare_completes _ _ _ _ _
  | doorbell => exact completes_next _
  | commandStart _ _ => exact execCommandStart_completes _ _ _
  | completionWrite => exact completes_next _
  | nop => exact completes_next _
  | launch => exact completes_next _
  | seqrun => exact completes_next _
  | copy => exact completes_next _
  | fill => exact completes_next _
  | copyDone _ _ _ => exact execCopyDone_completes _ _ _ _
  | coll => exact completes_next _
  | begin => exact completes_next _
  | commit => exact completes_next _
  | abort => exact completes_next _
  | rollback => exact completes_next _
  | adopt => exact completes_next _
  | stepReady _ _ => exact execStepReady_completes _ _ _
  | lend => exact completes_next _
  | remap => exact completes_next _
  | retire => exact completes_next _
  | resetCtx => exact completes_next _
  | resetField => exact completes_next _
  | resetPort => exact completes_next _
  | expel => exact completes_next _
  | rejoin => exact completes_next _
  | managerKeys => exact completes_next _
  | join => exact completes_next _
  | leave => exact completes_next _
  | swapClose => exact completes_next _
  | swapLayer => exact completes_next _
  | swapOpen => exact completes_next _
  | collPacket => exact completes_next _
  | sowPacket => exact completes_next _
  | writePacket _ _ => exact execWritePacket_completes _ _ _
  | collectiveEnd _ _ _ => exact execCollectiveEnd_completes _ _ _ _
  | collectiveTimeout _ _ _ => exact execCollectiveTimeout_completes _ _ _ _
  | nextPrefetch _ _ _ _ => exact execNextPrefetch_completes _ _ _ _ _
  | mirrorData => exact completes_next _
  | mirrorBegin => exact completes_next _
  | mirrorEnd => exact completes_next _
  | mirrorAck => exact completes_next _
  | mirrorTimeout => exact completes_next _
  | tokenReady => exact completes_next _
  | tokenCommit => exact completes_next _
  | tokenAbort => exact completes_next _
  | tokenMirrorCommit => exact completes_next _
  | tokenMirrorRollback => exact completes_next _
  | packetRoute => exact completes_next _
  | abortSlot _ _ => exact execAbortSlot_completes _ _ _
  | dataFlit => exact completes_next _
  | idleFlit => exact completes_next _
  | nak => exact completes_next _
  | keyon => exact completes_next _
  | nakResendTimeout => exact completes_next _
  | keyRatchet _ _ => exact execKeyRatchet_completes _ _ _
  | laneSignalLoss => exact completes_next _
  | detectSignal => exact completes_next _
  | trainComplete => exact completes_next _
  | alignComplete _ _ _ _ _ => exact execAlignComplete_completes _ _ _ _ _ _
  | portStateTimeout => exact completes_next _
  | ident _ _ => exact execIdent_completes _ _ _
  | kexMessage _ _ _ _ _ => exact execKexMessage_completes _ _ _ _ _ _
  | hbSend _ => exact execHbSend_completes _ _
  | hbReceive _ => exact execHbReceive_completes _ _
  | heartbeatLoss _ => exact execHeartbeatLoss_completes _ _
  | mgmtPacket _ _ _ _ _ => exact execMgmtPacket_completes _ _ _ _ _ _
  | mgmtReassemblyTimeout _ => exact execMgmtReassemblyTimeout_completes _ _
  | granuleWrite => exact completes_next _
  | granuleClearDone _ _ => exact execGranuleClearDone_completes _ _ _
  | sheafShareWrite => exact completes_next _
  | ctxMemWrite => exact completes_next _
  | hbmRead _ _ _ _ => exact execHbmRead_completes _ _ _ _ _
  | hbmPartialWrite _ _ _ _ _ => exact execHbmPartialWrite_completes _ _ _ _ _ _
  | scrubRead _ _ _ _ => exact execScrubRead_completes _ _ _ _ _
  | contextCreate => exact completes_next _
  | contextDestroy => exact completes_next _
  | quotaWrite => exact completes_next _
  | regionValidate => exact completes_next _
  | regionInvalidate => exact completes_next _
  | queueEnable => exact completes_next _
  | queueDisable => exact completes_next _
  | queueBind => exact completes_next _
  | keyLoad => exact completes_next _
  | keyClear => exact completes_next _
  | updateBegin => exact completes_next _
  | updateData => exact completes_next _
  | updateFinish => exact completes_next _
  | updateCancel => exact completes_next _
  | svnCommit => exact completes_next _
  | fuseBurnDone _ => exact execFuseBurnDone_completes _ _
  | debugToken => exact completes_next _
  | errorForce => exact completes_next _
  | wireTest => exact completes_next _
  | harrowGo => exact completes_next _
  | harrowStop => exact completes_next _
  | harrowTile _ _ _ _ _ => exact execHarrowTile_completes _ _ _ _ _ _
  | harrowTimeout _ _ => exact execHarrowTimeout_completes _ _ _
  | almanacRead => exact completes_next _
  | almanacClassify => exact completes_next _
  | almanacFlashWrite _ => exact execAlmanacFlashWrite_completes _ _
  | allotWrite => exact completes_next _
  | planCapWrite => exact completes_next _
  | fcAlignWrite => exact completes_next _
  | forecastLatch => exact completes_next _
  | interferenceLatch => exact completes_next _
  | lowWordRead => exact completes_next _
  | lowWordWrite => exact completes_next _
  | highWordWrite => exact completes_next _
  | routeEntryCommit => exact completes_next _
  | rcRead => exact completes_next _
  | misalignedWrite => exact completes_next _
  | registerWrite => exact completes_next _
  | portEnableWrite => exact completes_next _
  | portRetrainWrite => exact completes_next _
  | devidWrite => exact completes_next _
  | rxallocWrite => exact completes_next _
  | clkGateWrite => exact completes_next _
  | clkOutWrite => exact completes_next _
  | ifCtrlWrite => exact completes_next _
  | servingConfigWrite => exact completes_next _
  | bar2Read _ _ _ => exact execBar2Read_completes _ _ _ _
  | bar2Write _ _ _ => exact execBar2Write_completes _ _ _ _
  | functionLevelReset _ => exact execFunctionLevelReset_completes _ _
  | deviceReset _ => exact execDeviceReset_completes _ _
  | bootStart _ => exact execBootStart_completes _ _
  | bootVerify _ _ => exact execBootVerify_completes _ _ _
  | bootReady => exact execBootReady_completes _
  | powerLoss _ => exact execPowerLoss_completes _ _
  | regulatorFailure => exact execRegulatorFailure_completes _
  | pwrBrakeAssert => exact execPwrBrakeAssert_completes _
  | pwrBrakeRelease => exact execPwrBrakeRelease_completes _
  | hostLinkTrain _ _ _ => exact execHostLinkTrain_completes _ _ _ _
  | msixUnmask _ _ => exact execMsixUnmask_completes _ _ _
  | powerSample _ => exact execPowerSample_completes _ _
  | throttleEval _ _ => exact execThrottleEval_completes _ _ _
  | clockLevelStep _ => exact execClockLevelStep_completes _ _
  | minuteBoundary => exact completes_next _
  | thermalTrip _ _ => exact execThermalTrip_completes _ _ _
  | thermalTripEnd _ _ => exact execThermalTripEnd_completes _ _ _
  | analogTrip _ _ => exact execAnalogTrip_completes _ _ _
  | arraySleep _ _ _ => exact execArraySleep_completes _ _ _ _
  | furrowSleep _ _ => exact execFurrowSleep_completes _ _ _
  | fieldSleep _ => exact execFieldSleep_completes _ _
  | furrowWake _ _ => exact execFurrowWake_completes _ _ _
  | fieldWake _ _ _ => exact execFieldWake_completes _ _ _ _
  | monitorWindow _ _ _ => exact execMonitorWindow_completes _ _ _ _
  | pllWindow _ _ _ => exact execPllWindow_completes _ _ _ _
  | pllLockTimeout _ => exact execPllLockTimeout_completes _ _
  | collectorTick _ _ _ => exact execCollectorTick_completes _ _ _ _
  | quietPeriodExpiry => exact execQuietPeriodExpiry_completes _
  | streamWatchdog _ => exact execStreamWatchdog_completes _ _
  | queueWatchdog _ => exact execQueueWatchdog_completes _ _
  | dmaWatchdog _ _ => exact execDmaWatchdog_completes _ _ _
  | portWatchdog _ _ => exact execPortWatchdog_completes _ _ _
  | fenceDrained _ => exact execFenceDrained_completes _ _
  | fenceDrainTimeout _ => exact execFenceDrainTimeout_completes _ _
  | interferenceWindowEnd _ _ => exact execInterferenceWindowEnd_completes _ _ _
  | slowdownWindowEnd => exact completes_next _
  | ideKeyMessage _ => exact execIdeKeyMessage_completes _ _
  | doeAttest _ => exact execDoeAttest_completes _ _
  | getStatus => exact completes_next _
  | setAllot => exact completes_next _
  | getForecast => exact completes_next _
  | setPlanCap => exact completes_next _
  | setAlign => exact completes_next _
  | readFaultlog => exact completes_next _
  | readAlmanac => exact completes_next _
  | classify => exact completes_next _
  | attest => exact completes_next _
  | signedObject => exact completes_next _
  | subscribe => exact completes_next _
  | mctpControl => exact completes_next _
  | pldmMonitor => exact completes_next _
  | requestUpdate => exact completes_next _
  | updateComponent => exact completes_next _
  | cancelUpdate => exact completes_next _
  | activateFirmware => exact completes_next _
  | vopRetire => exact completes_next _
  | glnRetire => exact completes_next _
  | unknownOpcode => exact completes_next _
  | flitSlotTransmit => exact completes_next _
  | ideIntegrityFailure => exact execIdeIntegrityFailure_completes _
  | converterStart => exact completes_next _
  | thermalControl _ _ _ _ _ => exact execThermalControl_completes _ _ _ _ _ _
  | controlProcessorWatchdog => exact execControlProcessorWatchdog_completes _
  | configurationWrite _ => exact execConfigurationWrite_completes _ _
  | dynamicAddressAssign _ _ => exact execDynamicAddressAssign_completes _ _ _
  | eventAnswer => exact completes_next _
  | firmwareDataResponse => exact completes_next _
  | flashProgramDone _ => exact execFlashProgramDone_completes _ _
  | jtagAccess _ => exact execJtagAccess_completes _ _

/-! ### What every command keeps -/

/-- Every command keeps the queue of commands, canonical form and every burned fuse. -/
theorem exec_keeps (c : Instr) (s : State) : OutKeeps s (exec c s) := by
  cases c with
  | ldw _ _ => exact execLdw_keeps (.refl s) _ _
  | lda _ _ => exact execLda_keeps (.refl s) _ _
  | trn _ _ => exact execTrn_keeps (.refl s) _ _
  | dma _ _ => exact execDma_keeps (.refl s) _ _
  | dmaHandoffAccept _ => exact execDmaHandoffAccept_keeps (.refl s) _
  | dmaTransferDone _ _ _ => exact execDmaTransferDone_keeps (.refl s) _ _ _
  | mma _ _ => exact execMma_keeps (.refl s) _ _
  | mmt _ _ => exact execMmt_keeps (.refl s) _ _
  | weightBankFilled _ _ _ => exact execWeightBankFilled_keeps (.refl s) _ _ _
  | arrayPassEnter _ _ _ => exact execArrayPassEnter_keeps (.refl s) _ _ _
  | drn _ _ => exact execDrn_keeps (.refl s) _ _
  | drainRetire _ _ => exact execDrainRetire_keeps (.refl s) _ _
  | vopCpy _ _ => exact execVopCpy_keeps (.refl s) _ _
  | vopAdd _ _ => exact execVopAdd_keeps (.refl s) _ _
  | vopSub _ _ => exact execVopSub_keeps (.refl s) _ _
  | vopMul _ _ => exact execVopMul_keeps (.refl s) _ _
  | vopFma _ _ => exact execVopFma_keeps (.refl s) _ _
  | vopDiv _ _ => exact execVopDiv_keeps (.refl s) _ _
  | vopSqrt _ _ => exact execVopSqrt_keeps (.refl s) _ _
  | vopMax _ _ => exact execVopMax_keeps (.refl s) _ _
  | vopMin _ _ => exact execVopMin_keeps (.refl s) _ _
  | vopExp _ _ => exact execVopExp_keeps (.refl s) _ _
  | vopTanh _ _ => exact execVopTanh_keeps (.refl s) _ _
  | vopErf _ _ => exact execVopErf_keeps (.refl s) _ _
  | rsum _ _ => exact execRsum_keeps (.refl s) _ _
  | rmax _ _ => exact execRmax_keeps (.refl s) _ _
  | adamw _ _ => exact execAdamw_keeps (.refl s) _ _
  | gsq _ _ => exact execGsq_keeps (.refl s) _ _
  | afapply _ _ => exact execAfapply_keeps (.refl s) _ _
  | glnInit _ _ => exact execGlnInit_keeps (.refl s) _ _
  | glnAcc _ _ => exact execGlnAcc_keeps (.refl s) _ _
  | glnAdd _ _ => exact execGlnAdd_keeps (.refl s) _ _
  | glnFlush _ _ => exact execGlnFlush_keeps (.refl s) _ _
  | semw _ _ => exact execSemw_keeps (.refl s) _ _
  | sems _ _ => exact execSems_keeps (.refl s) _ _
  | bar _ _ => exact execBar_keeps (.refl s) _ _
  | col _ _ _ => exact execCol_keeps (.refl s) _ _ _
  | chkForce _ _ => exact execChkForce_keeps (.refl s) _ _
  | chkRead _ _ => exact execChkRead_keeps (.refl s) _ _
  | step _ _ => exact execStep_keeps (.refl s) _ _
  | endStream _ _ => exact execEnd_keeps (.refl s) _ _
  | launchStart _ => exact execLaunchStart_keeps (.refl s) _
  | streamFetchDone _ => exact execStreamFetchDone_keeps (.refl s) _
  | seqForwardIssue _ => exact execSeqForwardIssue_keeps (.refl s) _
  | shadowCompare _ _ _ _ => exact execShadowCompare_keeps (.refl s) _ _ _ _
  | doorbell _ _ _ => exact execDoorbell_keeps (.refl s) _ _ _
  | commandStart _ _ => exact execCommandStart_keeps (.refl s) _ _
  | completionWrite _ _ => exact execCompletionWrite_keeps (.refl s) _ _
  | nop _ => exact execNop_keeps (.refl s) _
  | launch _ => exact execLaunch_keeps (.refl s) _
  | seqrun _ => exact execSeqrun_keeps (.refl s) _
  | copy _ => exact execCopy_keeps (.refl s) _
  | fill _ => exact execFill_keeps (.refl s) _
  | copyDone _ _ _ => exact execCopyDone_keeps (.refl s) _ _ _
  | coll _ _ => exact execColl_keeps (.refl s) _ _
  | begin _ _ => exact execBegin_keeps (.refl s) _ _
  | commit _ => exact execCommit_keeps (.refl s) _
  | abort _ _ => exact execAbort_keeps (.refl s) _ _
  | rollback _ => exact execRollback_keeps (.refl s) _
  | adopt _ => exact execAdopt_keeps (.refl s) _
  | stepReady _ _ => exact execStepReady_keeps (.refl s) _ _
  | lend _ => exact execLend_keeps (.refl s) _
  | remap _ _ => exact execRemap_keeps (.refl s) _ _
  | retire _ _ => exact execRetire_keeps (.refl s) _ _
  | resetCtx _ _ => exact execResetCtx_keeps (.refl s) _ _
  | resetField _ _ _ => exact execResetField_keeps (.refl s) _ _ _
  | resetPort _ => exact execResetPort_keeps (.refl s) _
  | expel _ _ _ _ => exact execExpel_keeps (.refl s) _ _ _ _
  | rejoin _ _ _ _ => exact execRejoin_keeps (.refl s) _ _ _ _
  | managerKeys _ _ _ _ _ => exact execManagerKeys_keeps (.refl s) _ _ _ _ _
  | join _ => exact execJoin_keeps (.refl s) _
  | leave _ => exact execLeave_keeps (.refl s) _
  | swapClose _ => exact execSwapClose_keeps (.refl s) _
  | swapLayer _ _ => exact execSwapLayer_keeps (.refl s) _ _
  | swapOpen _ => exact execSwapOpen_keeps (.refl s) _
  | collPacket _ _ => exact execCollPacket_keeps (.refl s) _ _
  | sowPacket _ _ => exact execSowPacket_keeps (.refl s) _ _
  | writePacket _ _ => exact execWritePacket_keeps (.refl s) _ _
  | collectiveEnd _ _ _ => exact execCollectiveEnd_keeps (.refl s) _ _ _
  | collectiveTimeout _ _ _ => exact execCollectiveTimeout_keeps (.refl s) _ _ _
  | nextPrefetch _ _ _ _ => exact execNextPrefetch_keeps (.refl s) _ _ _ _
  | mirrorData _ _ => exact execMirrorData_keeps (.refl s) _ _
  | mirrorBegin _ _ => exact execMirrorBegin_keeps (.refl s) _ _
  | mirrorEnd _ _ => exact execMirrorEnd_keeps (.refl s) _ _
  | mirrorAck _ _ => exact execMirrorAck_keeps (.refl s) _ _
  | mirrorTimeout _ => exact execMirrorTimeout_keeps (.refl s) _
  | tokenReady _ _ => exact execTokenReady_keeps (.refl s) _ _
  | tokenCommit _ _ => exact execTokenCommit_keeps (.refl s) _ _
  | tokenAbort _ _ _ => exact execTokenAbort_keeps (.refl s) _ _ _
  | tokenMirrorCommit _ _ => exact execTokenMirrorCommit_keeps (.refl s) _ _
  | tokenMirrorRollback _ _ => exact execTokenMirrorRollback_keeps (.refl s) _ _
  | packetRoute _ _ => exact execPacketRoute_keeps (.refl s) _ _
  | abortSlot _ _ => exact execAbortSlot_keeps (.refl s) _ _
  | dataFlit _ _ => exact execDataFlit_keeps (.refl s) _ _
  | idleFlit _ _ => exact execIdleFlit_keeps (.refl s) _ _
  | nak _ _ => exact execNak_keeps (.refl s) _ _
  | keyon _ _ => exact execKeyon_keeps (.refl s) _ _
  | nakResendTimeout _ => exact execNakResendTimeout_keeps (.refl s) _
  | keyRatchet _ _ => exact execKeyRatchet_keeps (.refl s) _ _
  | laneSignalLoss _ => exact execLaneSignalLoss_keeps (.refl s) _
  | detectSignal _ => exact execDetectSignal_keeps (.refl s) _
  | trainComplete _ => exact execTrainComplete_keeps (.refl s) _
  | alignComplete _ _ _ _ _ => exact execAlignComplete_keeps (.refl s) _ _ _ _ _
  | portStateTimeout _ => exact execPortStateTimeout_keeps (.refl s) _
  | ident _ _ => exact execIdent_keeps (.refl s) _ _
  | kexMessage _ _ _ _ _ => exact execKexMessage_keeps (.refl s) _ _ _ _ _
  | hbSend _ => exact execHbSend_keeps (.refl s) _
  | hbReceive _ => exact execHbReceive_keeps (.refl s) _
  | heartbeatLoss _ => exact execHeartbeatLoss_keeps (.refl s) _
  | mgmtPacket _ _ _ _ _ => exact execMgmtPacket_keeps (.refl s) _ _ _ _ _
  | mgmtReassemblyTimeout _ => exact execMgmtReassemblyTimeout_keeps (.refl s) _
  | granuleWrite _ _ _ _ => exact execGranuleWrite_keeps (.refl s) _ _ _ _
  | granuleClearDone _ _ => exact execGranuleClearDone_keeps (.refl s) _ _
  | sheafShareWrite _ _ _ _ => exact execSheafShareWrite_keeps (.refl s) _ _ _ _
  | ctxMemWrite _ _ _ => exact execCtxMemWrite_keeps (.refl s) _ _ _
  | hbmRead _ _ _ _ => exact execHbmRead_keeps (.refl s) _ _ _ _
  | hbmPartialWrite _ _ _ _ _ => exact execHbmPartialWrite_keeps (.refl s) _ _ _ _ _
  | scrubRead _ _ _ _ => exact execScrubRead_keeps (.refl s) _ _ _ _
  | contextCreate _ _ _ => exact execContextCreate_keeps (.refl s) _ _ _
  | contextDestroy _ _ _ => exact execContextDestroy_keeps (.refl s) _ _ _
  | quotaWrite _ _ _ _ _ => exact execQuotaWrite_keeps (.refl s) _ _ _ _ _
  | regionValidate _ _ => exact execRegionValidate_keeps (.refl s) _ _
  | regionInvalidate _ _ => exact execRegionInvalidate_keeps (.refl s) _ _
  | queueEnable _ _ _ => exact execQueueEnable_keeps (.refl s) _ _ _
  | queueDisable _ _ _ => exact execQueueDisable_keeps (.refl s) _ _ _
  | queueBind _ _ => exact execQueueBind_keeps (.refl s) _ _
  | keyLoad _ _ => exact execKeyLoad_keeps (.refl s) _ _
  | keyClear _ _ => exact execKeyClear_keeps (.refl s) _ _
  | updateBegin _ _ _ _ => exact execUpdateBegin_keeps (.refl s) _ _ _ _
  | updateData _ _ => exact execUpdateData_keeps (.refl s) _ _
  | updateFinish _ _ _ => exact execUpdateFinish_keeps (.refl s) _ _ _
  | updateCancel _ _ => exact execUpdateCancel_keeps (.refl s) _ _
  | svnCommit _ _ => exact execSvnCommit_keeps (.refl s) _ _
  | fuseBurnDone _ => exact execFuseBurnDone_keeps (.refl s) _
  | debugToken _ _ _ => exact execDebugToken_keeps (.refl s) _ _ _
  | errorForce _ _ _ => exact execErrorForce_keeps (.refl s) _ _ _
  | wireTest _ _ => exact execWireTest_keeps (.refl s) _ _
  | harrowGo _ _ _ _ => exact execHarrowGo_keeps (.refl s) _ _ _ _
  | harrowStop _ _ _ _ => exact execHarrowStop_keeps (.refl s) _ _ _ _
  | harrowTile _ _ _ _ _ => exact execHarrowTile_keeps (.refl s) _ _ _ _ _
  | harrowTimeout _ _ => exact execHarrowTimeout_keeps (.refl s) _ _
  | almanacRead _ _ _ => exact execAlmanacRead_keeps (.refl s) _ _ _
  | almanacClassify _ _ => exact execAlmanacClassify_keeps (.refl s) _ _
  | almanacFlashWrite _ => exact execAlmanacFlashWrite_keeps (.refl s) _
  | allotWrite _ _ => exact execAllotWrite_keeps (.refl s) _ _
  | planCapWrite _ _ => exact execPlanCapWrite_keeps (.refl s) _ _
  | fcAlignWrite _ _ => exact execFcAlignWrite_keeps (.refl s) _ _
  | forecastLatch _ => exact execForecastLatch_keeps (.refl s) _
  | interferenceLatch _ _ => exact execInterferenceLatch_keeps (.refl s) _ _
  | lowWordRead _ _ _ => exact execLowWordRead_keeps (.refl s) _ _ _
  | lowWordWrite _ _ _ => exact execLowWordWrite_keeps (.refl s) _ _ _
  | highWordWrite _ _ _ => exact execHighWordWrite_keeps (.refl s) _ _ _
  | routeEntryCommit _ _ _ => exact execRouteEntryCommit_keeps (.refl s) _ _ _
  | rcRead _ _ _ => exact execRcRead_keeps (.refl s) _ _ _
  | misalignedWrite _ _ => exact execMisalignedWrite_keeps (.refl s) _ _
  | registerWrite _ _ _ => exact execRegisterWrite_keeps (.refl s) _ _ _
  | portEnableWrite _ _ _ => exact execPortEnableWrite_keeps (.refl s) _ _ _
  | portRetrainWrite _ _ _ => exact execPortRetrainWrite_keeps (.refl s) _ _ _
  | devidWrite _ _ => exact execDevidWrite_keeps (.refl s) _ _
  | rxallocWrite _ _ _ _ => exact execRxallocWrite_keeps (.refl s) _ _ _ _
  | clkGateWrite _ _ _ => exact execClkGateWrite_keeps (.refl s) _ _ _
  | clkOutWrite _ _ => exact execClkOutWrite_keeps (.refl s) _ _
  | ifCtrlWrite _ _ _ => exact execIfCtrlWrite_keeps (.refl s) _ _ _
  | servingConfigWrite _ _ _ _ => exact execServingConfigWrite_keeps (.refl s) _ _ _ _
  | bar2Read _ _ _ => exact execBar2Read_keeps (.refl s) _ _ _
  | bar2Write _ _ _ => exact execBar2Write_keeps (.refl s) _ _ _
  | functionLevelReset _ => exact execFunctionLevelReset_keeps (.refl s) _
  | deviceReset _ => exact execDeviceReset_keeps (.refl s) _
  | bootStart _ => exact execBootStart_keeps (.refl s) _
  | bootVerify _ _ => exact execBootVerify_keeps (.refl s) _ _
  | bootReady => exact execBootReady_keeps (.refl s)
  | powerLoss _ => exact execPowerLoss_keeps (.refl s) _
  | regulatorFailure => exact execRegulatorFailure_keeps (.refl s)
  | pwrBrakeAssert => exact execPwrBrakeAssert_keeps (.refl s)
  | pwrBrakeRelease => exact execPwrBrakeRelease_keeps (.refl s)
  | hostLinkTrain _ _ _ => exact execHostLinkTrain_keeps (.refl s) _ _ _
  | msixUnmask _ _ => exact execMsixUnmask_keeps (.refl s) _ _
  | powerSample _ => exact execPowerSample_keeps (.refl s) _
  | throttleEval _ _ => exact execThrottleEval_keeps (.refl s) _ _
  | clockLevelStep _ => exact execClockLevelStep_keeps (.refl s) _
  | minuteBoundary => exact execMinuteBoundary_keeps (.refl s)
  | thermalTrip _ _ => exact execThermalTrip_keeps (.refl s) _ _
  | thermalTripEnd _ _ => exact execThermalTripEnd_keeps (.refl s) _ _
  | analogTrip _ _ => exact execAnalogTrip_keeps (.refl s) _ _
  | arraySleep _ _ _ => exact execArraySleep_keeps (.refl s) _ _ _
  | furrowSleep _ _ => exact execFurrowSleep_keeps (.refl s) _ _
  | fieldSleep _ => exact execFieldSleep_keeps (.refl s) _
  | furrowWake _ _ => exact execFurrowWake_keeps (.refl s) _ _
  | fieldWake _ _ _ => exact execFieldWake_keeps (.refl s) _ _ _
  | monitorWindow _ _ _ => exact execMonitorWindow_keeps (.refl s) _ _ _
  | pllWindow _ _ _ => exact execPllWindow_keeps (.refl s) _ _ _
  | pllLockTimeout _ => exact execPllLockTimeout_keeps (.refl s) _
  | collectorTick _ _ _ => exact execCollectorTick_keeps (.refl s) _ _ _
  | quietPeriodExpiry => exact execQuietPeriodExpiry_keeps (.refl s)
  | streamWatchdog _ => exact execStreamWatchdog_keeps (.refl s) _
  | queueWatchdog _ => exact execQueueWatchdog_keeps (.refl s) _
  | dmaWatchdog _ _ => exact execDmaWatchdog_keeps (.refl s) _ _
  | portWatchdog _ _ => exact execPortWatchdog_keeps (.refl s) _ _
  | fenceDrained _ => exact execFenceDrained_keeps (.refl s) _
  | fenceDrainTimeout _ => exact execFenceDrainTimeout_keeps (.refl s) _
  | interferenceWindowEnd _ _ => exact execInterferenceWindowEnd_keeps (.refl s) _ _
  | slowdownWindowEnd _ => exact execSlowdownWindowEnd_keeps (.refl s) _
  | ideKeyMessage _ => exact execIdeKeyMessage_keeps (.refl s) _
  | doeAttest _ => exact execDoeAttest_keeps (.refl s) _
  | getStatus _ _ => exact execGetStatus_keeps (.refl s) _ _
  | setAllot _ _ => exact execSetAllot_keeps (.refl s) _ _
  | getForecast _ _ => exact execGetForecast_keeps (.refl s) _ _
  | setPlanCap _ _ => exact execSetPlanCap_keeps (.refl s) _ _
  | setAlign _ _ => exact execSetAlign_keeps (.refl s) _ _
  | readFaultlog _ _ => exact execReadFaultlog_keeps (.refl s) _ _
  | readAlmanac _ _ _ _ => exact execReadAlmanac_keeps (.refl s) _ _ _ _
  | classify _ _ _ => exact execClassify_keeps (.refl s) _ _ _
  | attest _ _ => exact execAttest_keeps (.refl s) _ _
  | signedObject _ _ _ _ _ => exact execSignedObject_keeps (.refl s) _ _ _ _ _
  | subscribe _ _ _ => exact execSubscribe_keeps (.refl s) _ _ _
  | mctpControl _ _ => exact execMctpControl_keeps (.refl s) _ _
  | pldmMonitor _ => exact execPldmMonitor_keeps (.refl s) _
  | requestUpdate _ _ _ => exact execRequestUpdate_keeps (.refl s) _ _ _
  | updateComponent _ _ => exact execUpdateComponent_keeps (.refl s) _ _
  | cancelUpdate => exact execCancelUpdate_keeps (.refl s)
  | activateFirmware => exact execActivateFirmware_keeps (.refl s)
  | vopRetire _ _ _ => exact execVopRetire_keeps (.refl s) _ _ _
  | glnRetire _ _ => exact execGlnRetire_keeps (.refl s) _ _
  | unknownOpcode _ _ => exact execUnknownOpcode_keeps (.refl s) _ _
  | flitSlotTransmit _ => exact execFlitSlotTransmit_keeps (.refl s) _
  | ideIntegrityFailure => exact execIdeIntegrityFailure_keeps (.refl s)
  | converterStart => exact execConverterStart_keeps (.refl s)
  | thermalControl _ _ _ _ _ => exact execThermalControl_keeps (.refl s) _ _ _ _ _
  | controlProcessorWatchdog => exact execControlProcessorWatchdog_keeps (.refl s)
  | configurationWrite _ => exact execConfigurationWrite_keeps (.refl s) _
  | dynamicAddressAssign _ _ => exact execDynamicAddressAssign_keeps (.refl s) _ _
  | eventAnswer _ => exact execEventAnswer_keeps (.refl s) _
  | firmwareDataResponse _ _ _ => exact execFirmwareDataResponse_keeps (.refl s) _ _ _
  | flashProgramDone _ => exact execFlashProgramDone_keeps (.refl s) _
  | jtagAccess _ => exact execJtagAccess_keeps (.refl s) _

theorem exec_keeps_of_next {c : Instr} {s t : State} (h : exec c s = .next t) : Keeps s t := by
  have hk := exec_keeps c s
  rwa [h] at hk

/-! ### Which parts a command leaves alone -/

/-- The mask of a list of parts. -/
def partsMask : List StPart → Nat
  | [] => 0
  | p :: l => 2 ^ p.bit ||| partsMask l

theorem StPart.all_bit (p : StPart) : StPart.all[p.bit]? = some p := by cases p <;> rfl

theorem mem_of_testBit_partsMask {p : StPart} : ∀ {l : List StPart}, (partsMask l).testBit p.bit = true → p ∈ l
  | [], h => absurd h (by simp [partsMask])
  | q :: l, h => by
    rw [partsMask, Nat.testBit_or, Bool.or_eq_true, Nat.testBit_two_pow] at h
    obtain h | h := h
    · have hq : q.bit = p.bit := by simpa using h
      have hs : some q = some p := by rw [← StPart.all_bit q, ← StPart.all_bit p, hq]
      exact Option.some.inj hs ▸ List.mem_cons_self
    · exact List.mem_cons_of_mem q (mem_of_testBit_partsMask h)

/-- What the frame of a command says of its outcome. -/
def OutSameBut (s : State) (l : List StPart) : Out → Prop
  | .next t => s.SameBut t l
  | _ => True

/-- A frame by the mask of its list of parts. -/
theorem Same.parts {s t : State} {l : List StPart} (h : Same (partsMask l) s t) : s.SameBut t l := by
  refine h.but (List.all_eq_true.mpr fun p _ => ?_)
  by_cases hp : p ∈ l
  · simp [hp]
  · have hb : (partsMask l).testBit p.bit = false := Bool.eq_false_iff.mpr fun hb => hp (mem_of_testBit_partsMask hb)
    rw [hb, Bool.not_false, Bool.or_true]

theorem OutSame.parts {s : State} {o : Out} {l : List StPart} (h : OutSame (partsMask l) s o) : OutSameBut s l o := by
  cases o with
  | next t => exact Same.parts h
  | fault r => trivial
  | refused r => trivial

/-- Every command changes only the parts that its list names. -/
theorem exec_frame (c : Instr) (s : State) : OutSameBut s c.touches (exec c s) := by
  cases c with
  | ldw _ _ => exact OutSame.parts (execLdw_same (.refl _ s) (by dsimp only [Instr.touches]; decide +kernel) _ _)
  | lda _ _ => exact OutSame.parts (execLda_same (.refl _ s) (by dsimp only [Instr.touches]; decide +kernel) _ _)
  | trn _ _ => exact OutSame.parts (execTrn_same (.refl _ s) (by dsimp only [Instr.touches]; decide +kernel) _ _)
  | dma _ _ => exact OutSame.parts (execDma_same (.refl _ s) (by dsimp only [Instr.touches]; decide +kernel) _ _)
  | dmaHandoffAccept _ => exact OutSame.parts (execDmaHandoffAccept_same (.refl _ s) (by dsimp only [Instr.touches]; decide +kernel) _)
  | dmaTransferDone _ _ _ => exact OutSame.parts (execDmaTransferDone_same (.refl _ s) (by dsimp only [Instr.touches]; decide +kernel) _ _ _)
  | mma _ _ => exact OutSame.parts (execMma_same (.refl _ s) (by dsimp only [Instr.touches]; decide +kernel) _ _)
  | mmt _ _ => exact OutSame.parts (execMmt_same (.refl _ s) (by dsimp only [Instr.touches]; decide +kernel) _ _)
  | weightBankFilled _ _ _ => exact OutSame.parts (execWeightBankFilled_same (.refl _ s) (by dsimp only [Instr.touches]; decide +kernel) _ _ _)
  | arrayPassEnter _ _ _ => exact OutSame.parts (execArrayPassEnter_same (.refl _ s) (by dsimp only [Instr.touches]; decide +kernel) _ _ _)
  | drn _ _ => exact OutSame.parts (execDrn_same (.refl _ s) (by dsimp only [Instr.touches]; decide +kernel) _ _)
  | drainRetire _ _ => exact OutSame.parts (execDrainRetire_same (.refl _ s) (by dsimp only [Instr.touches]; decide +kernel) _ _)
  | vopCpy _ _ => exact OutSame.parts (execVopCpy_same (.refl _ s) (by dsimp only [Instr.touches]; decide +kernel) _ _)
  | vopAdd _ _ => exact OutSame.parts (execVopAdd_same (.refl _ s) (by dsimp only [Instr.touches]; decide +kernel) _ _)
  | vopSub _ _ => exact OutSame.parts (execVopSub_same (.refl _ s) (by dsimp only [Instr.touches]; decide +kernel) _ _)
  | vopMul _ _ => exact OutSame.parts (execVopMul_same (.refl _ s) (by dsimp only [Instr.touches]; decide +kernel) _ _)
  | vopFma _ _ => exact OutSame.parts (execVopFma_same (.refl _ s) (by dsimp only [Instr.touches]; decide +kernel) _ _)
  | vopDiv _ _ => exact OutSame.parts (execVopDiv_same (.refl _ s) (by dsimp only [Instr.touches]; decide +kernel) _ _)
  | vopSqrt _ _ => exact OutSame.parts (execVopSqrt_same (.refl _ s) (by dsimp only [Instr.touches]; decide +kernel) _ _)
  | vopMax _ _ => exact OutSame.parts (execVopMax_same (.refl _ s) (by dsimp only [Instr.touches]; decide +kernel) _ _)
  | vopMin _ _ => exact OutSame.parts (execVopMin_same (.refl _ s) (by dsimp only [Instr.touches]; decide +kernel) _ _)
  | vopExp _ _ => exact OutSame.parts (execVopExp_same (.refl _ s) (by dsimp only [Instr.touches]; decide +kernel) _ _)
  | vopTanh _ _ => exact OutSame.parts (execVopTanh_same (.refl _ s) (by dsimp only [Instr.touches]; decide +kernel) _ _)
  | vopErf _ _ => exact OutSame.parts (execVopErf_same (.refl _ s) (by dsimp only [Instr.touches]; decide +kernel) _ _)
  | rsum _ _ => exact OutSame.parts (execRsum_same (.refl _ s) (by dsimp only [Instr.touches]; decide +kernel) _ _)
  | rmax _ _ => exact OutSame.parts (execRmax_same (.refl _ s) (by dsimp only [Instr.touches]; decide +kernel) _ _)
  | adamw _ _ => exact OutSame.parts (execAdamw_same (.refl _ s) (by dsimp only [Instr.touches]; decide +kernel) _ _)
  | gsq _ _ => exact OutSame.parts (execGsq_same (.refl _ s) (by dsimp only [Instr.touches]; decide +kernel) _ _)
  | afapply _ _ => exact OutSame.parts (execAfapply_same (.refl _ s) (by dsimp only [Instr.touches]; decide +kernel) _ _)
  | glnInit _ _ => exact OutSame.parts (execGlnInit_same (.refl _ s) (by dsimp only [Instr.touches]; decide +kernel) _ _)
  | glnAcc _ _ => exact OutSame.parts (execGlnAcc_same (.refl _ s) (by dsimp only [Instr.touches]; decide +kernel) _ _)
  | glnAdd _ _ => exact OutSame.parts (execGlnAdd_same (.refl _ s) (by dsimp only [Instr.touches]; decide +kernel) _ _)
  | glnFlush _ _ => exact OutSame.parts (execGlnFlush_same (.refl _ s) (by dsimp only [Instr.touches]; decide +kernel) _ _)
  | semw _ _ => exact OutSame.parts (execSemw_same (.refl _ s) (by dsimp only [Instr.touches]; decide +kernel) _ _)
  | sems _ _ => exact OutSame.parts (execSems_same (.refl _ s) (by dsimp only [Instr.touches]; decide +kernel) _ _)
  | bar _ _ => exact OutSame.parts (execBar_same (.refl _ s) (by dsimp only [Instr.touches]; decide +kernel) _ _)
  | col _ _ _ => exact OutSame.parts (execCol_same (.refl _ s) (by dsimp only [Instr.touches]; decide +kernel) _ _ _)
  | chkForce _ _ => exact OutSame.parts (execChkForce_same (.refl _ s) (by dsimp only [Instr.touches]; decide +kernel) _ _)
  | chkRead _ _ => exact OutSame.parts (execChkRead_same (.refl _ s) (by dsimp only [Instr.touches]; decide +kernel) _ _)
  | step _ _ => exact OutSame.parts (execStep_same (.refl _ s) (by dsimp only [Instr.touches]; decide +kernel) _ _)
  | endStream _ _ => exact OutSame.parts (execEnd_same (.refl _ s) (by dsimp only [Instr.touches]; decide +kernel) _ _)
  | launchStart _ => exact OutSame.parts (execLaunchStart_same (.refl _ s) (by dsimp only [Instr.touches]; decide +kernel) _)
  | streamFetchDone _ => exact OutSame.parts (execStreamFetchDone_same (.refl _ s) (by dsimp only [Instr.touches]; decide +kernel) _)
  | seqForwardIssue _ => exact OutSame.parts (execSeqForwardIssue_same (.refl _ s) (by dsimp only [Instr.touches]; decide +kernel) _)
  | shadowCompare _ _ _ _ => exact OutSame.parts (execShadowCompare_same (.refl _ s) (by dsimp only [Instr.touches]; decide +kernel) _ _ _ _)
  | doorbell _ _ _ => exact OutSame.parts (execDoorbell_same (.refl _ s) (by dsimp only [Instr.touches]; decide +kernel) _ _ _)
  | commandStart _ _ => exact OutSame.parts (execCommandStart_same (.refl _ s) (by dsimp only [Instr.touches]; decide +kernel) _ _)
  | completionWrite _ _ => exact OutSame.parts (execCompletionWrite_same (.refl _ s) (by dsimp only [Instr.touches]; decide +kernel) _ _)
  | nop _ => exact OutSame.parts (execNop_same (.refl _ s) (by dsimp only [Instr.touches]; decide +kernel) _)
  | launch _ => exact OutSame.parts (execLaunch_same (.refl _ s) (by dsimp only [Instr.touches]; decide +kernel) _)
  | seqrun _ => exact OutSame.parts (execSeqrun_same (.refl _ s) (by dsimp only [Instr.touches]; decide +kernel) _)
  | copy _ => exact OutSame.parts (execCopy_same (.refl _ s) (by dsimp only [Instr.touches]; decide +kernel) _)
  | fill _ => exact OutSame.parts (execFill_same (.refl _ s) (by dsimp only [Instr.touches]; decide +kernel) _)
  | copyDone _ _ _ => exact OutSame.parts (execCopyDone_same (.refl _ s) (by dsimp only [Instr.touches]; decide +kernel) _ _ _)
  | coll _ _ => exact OutSame.parts (execColl_same (.refl _ s) (by dsimp only [Instr.touches]; decide +kernel) _ _)
  | begin _ _ => exact OutSame.parts (execBegin_same (.refl _ s) (by dsimp only [Instr.touches]; decide +kernel) _ _)
  | commit _ => exact OutSame.parts (execCommit_same (.refl _ s) (by dsimp only [Instr.touches]; decide +kernel) _)
  | abort _ _ => exact OutSame.parts (execAbort_same (.refl _ s) (by dsimp only [Instr.touches]; decide +kernel) _ _)
  | rollback _ => exact OutSame.parts (execRollback_same (.refl _ s) (by dsimp only [Instr.touches]; decide +kernel) _)
  | adopt _ => exact OutSame.parts (execAdopt_same (.refl _ s) (by dsimp only [Instr.touches]; decide +kernel) _)
  | stepReady _ _ => exact OutSame.parts (execStepReady_same (.refl _ s) (by dsimp only [Instr.touches]; decide +kernel) _ _)
  | lend _ => exact OutSame.parts (execLend_same (.refl _ s) (by dsimp only [Instr.touches]; decide +kernel) _)
  | remap _ _ => exact OutSame.parts (execRemap_same (.refl _ s) (by dsimp only [Instr.touches]; decide +kernel) _ _)
  | retire _ _ => exact OutSame.parts (execRetire_same (.refl _ s) (by dsimp only [Instr.touches]; decide +kernel) _ _)
  | resetCtx _ _ => exact OutSame.parts (execResetCtx_same (.refl _ s) (by dsimp only [Instr.touches]; decide +kernel) _ _)
  | resetField _ _ _ => exact OutSame.parts (execResetField_same (.refl _ s) (by dsimp only [Instr.touches]; decide +kernel) _ _ _)
  | resetPort _ => exact OutSame.parts (execResetPort_same (.refl _ s) (by dsimp only [Instr.touches]; decide +kernel) _)
  | expel _ _ _ _ => exact OutSame.parts (execExpel_same (.refl _ s) (by dsimp only [Instr.touches]; decide +kernel) _ _ _ _)
  | rejoin _ _ _ _ => exact OutSame.parts (execRejoin_same (.refl _ s) (by dsimp only [Instr.touches]; decide +kernel) _ _ _ _)
  | managerKeys _ _ _ _ _ => exact OutSame.parts (execManagerKeys_same (.refl _ s) (by dsimp only [Instr.touches]; decide +kernel) _ _ _ _ _)
  | join _ => exact OutSame.parts (execJoin_same (.refl _ s) (by dsimp only [Instr.touches]; decide +kernel) _)
  | leave _ => exact OutSame.parts (execLeave_same (.refl _ s) (by dsimp only [Instr.touches]; decide +kernel) _)
  | swapClose _ => exact OutSame.parts (execSwapClose_same (.refl _ s) (by dsimp only [Instr.touches]; decide +kernel) _)
  | swapLayer _ _ => exact OutSame.parts (execSwapLayer_same (.refl _ s) (by dsimp only [Instr.touches]; decide +kernel) _ _)
  | swapOpen _ => exact OutSame.parts (execSwapOpen_same (.refl _ s) (by dsimp only [Instr.touches]; decide +kernel) _)
  | collPacket _ _ => exact OutSame.parts (execCollPacket_same (.refl _ s) (by dsimp only [Instr.touches]; decide +kernel) _ _)
  | sowPacket _ _ => exact OutSame.parts (execSowPacket_same (.refl _ s) (by dsimp only [Instr.touches]; decide +kernel) _ _)
  | writePacket _ _ => exact OutSame.parts (execWritePacket_same (.refl _ s) (by dsimp only [Instr.touches]; decide +kernel) _ _)
  | collectiveEnd _ _ _ => exact OutSame.parts (execCollectiveEnd_same (.refl _ s) (by dsimp only [Instr.touches]; decide +kernel) _ _ _)
  | collectiveTimeout _ _ _ => exact OutSame.parts (execCollectiveTimeout_same (.refl _ s) (by dsimp only [Instr.touches]; decide +kernel) _ _ _)
  | nextPrefetch _ _ _ _ => exact OutSame.parts (execNextPrefetch_same (.refl _ s) (by dsimp only [Instr.touches]; decide +kernel) _ _ _ _)
  | mirrorData _ _ => exact OutSame.parts (execMirrorData_same (.refl _ s) (by dsimp only [Instr.touches]; decide +kernel) _ _)
  | mirrorBegin _ _ => exact OutSame.parts (execMirrorBegin_same (.refl _ s) (by dsimp only [Instr.touches]; decide +kernel) _ _)
  | mirrorEnd _ _ => exact OutSame.parts (execMirrorEnd_same (.refl _ s) (by dsimp only [Instr.touches]; decide +kernel) _ _)
  | mirrorAck _ _ => exact OutSame.parts (execMirrorAck_same (.refl _ s) (by dsimp only [Instr.touches]; decide +kernel) _ _)
  | mirrorTimeout _ => exact OutSame.parts (execMirrorTimeout_same (.refl _ s) (by dsimp only [Instr.touches]; decide +kernel) _)
  | tokenReady _ _ => exact OutSame.parts (execTokenReady_same (.refl _ s) (by dsimp only [Instr.touches]; decide +kernel) _ _)
  | tokenCommit _ _ => exact OutSame.parts (execTokenCommit_same (.refl _ s) (by dsimp only [Instr.touches]; decide +kernel) _ _)
  | tokenAbort _ _ _ => exact OutSame.parts (execTokenAbort_same (.refl _ s) (by dsimp only [Instr.touches]; decide +kernel) _ _ _)
  | tokenMirrorCommit _ _ => exact OutSame.parts (execTokenMirrorCommit_same (.refl _ s) (by dsimp only [Instr.touches]; decide +kernel) _ _)
  | tokenMirrorRollback _ _ => exact OutSame.parts (execTokenMirrorRollback_same (.refl _ s) (by dsimp only [Instr.touches]; decide +kernel) _ _)
  | packetRoute _ _ => exact OutSame.parts (execPacketRoute_same (.refl _ s) (by dsimp only [Instr.touches]; decide +kernel) _ _)
  | abortSlot _ _ => exact OutSame.parts (execAbortSlot_same (.refl _ s) (by dsimp only [Instr.touches]; decide +kernel) _ _)
  | dataFlit _ _ => exact OutSame.parts (execDataFlit_same (.refl _ s) (by dsimp only [Instr.touches]; decide +kernel) _ _)
  | idleFlit _ _ => exact OutSame.parts (execIdleFlit_same (.refl _ s) (by dsimp only [Instr.touches]; decide +kernel) _ _)
  | nak _ _ => exact OutSame.parts (execNak_same (.refl _ s) (by dsimp only [Instr.touches]; decide +kernel) _ _)
  | keyon _ _ => exact OutSame.parts (execKeyon_same (.refl _ s) (by dsimp only [Instr.touches]; decide +kernel) _ _)
  | nakResendTimeout _ => exact OutSame.parts (execNakResendTimeout_same (.refl _ s) (by dsimp only [Instr.touches]; decide +kernel) _)
  | keyRatchet _ _ => exact OutSame.parts (execKeyRatchet_same (.refl _ s) (by dsimp only [Instr.touches]; decide +kernel) _ _)
  | laneSignalLoss _ => exact OutSame.parts (execLaneSignalLoss_same (.refl _ s) (by dsimp only [Instr.touches]; decide +kernel) _)
  | detectSignal _ => exact OutSame.parts (execDetectSignal_same (.refl _ s) (by dsimp only [Instr.touches]; decide +kernel) _)
  | trainComplete _ => exact OutSame.parts (execTrainComplete_same (.refl _ s) (by dsimp only [Instr.touches]; decide +kernel) _)
  | alignComplete _ _ _ _ _ => exact OutSame.parts (execAlignComplete_same (.refl _ s) (by dsimp only [Instr.touches]; decide +kernel) _ _ _ _ _)
  | portStateTimeout _ => exact OutSame.parts (execPortStateTimeout_same (.refl _ s) (by dsimp only [Instr.touches]; decide +kernel) _)
  | ident _ _ => exact OutSame.parts (execIdent_same (.refl _ s) (by dsimp only [Instr.touches]; decide +kernel) _ _)
  | kexMessage _ _ _ _ _ => exact OutSame.parts (execKexMessage_same (.refl _ s) (by dsimp only [Instr.touches]; decide +kernel) _ _ _ _ _)
  | hbSend _ => exact OutSame.parts (execHbSend_same (.refl _ s) (by dsimp only [Instr.touches]; decide +kernel) _)
  | hbReceive _ => exact OutSame.parts (execHbReceive_same (.refl _ s) (by dsimp only [Instr.touches]; decide +kernel) _)
  | heartbeatLoss _ => exact OutSame.parts (execHeartbeatLoss_same (.refl _ s) (by dsimp only [Instr.touches]; decide +kernel) _)
  | mgmtPacket _ _ _ _ _ => exact OutSame.parts (execMgmtPacket_same (.refl _ s) (by dsimp only [Instr.touches]; decide +kernel) _ _ _ _ _)
  | mgmtReassemblyTimeout _ => exact OutSame.parts (execMgmtReassemblyTimeout_same (.refl _ s) (by dsimp only [Instr.touches]; decide +kernel) _)
  | granuleWrite _ _ _ _ => exact OutSame.parts (execGranuleWrite_same (.refl _ s) (by dsimp only [Instr.touches]; decide +kernel) _ _ _ _)
  | granuleClearDone _ _ => exact OutSame.parts (execGranuleClearDone_same (.refl _ s) (by dsimp only [Instr.touches]; decide +kernel) _ _)
  | sheafShareWrite _ _ _ _ => exact OutSame.parts (execSheafShareWrite_same (.refl _ s) (by dsimp only [Instr.touches]; decide +kernel) _ _ _ _)
  | ctxMemWrite _ _ _ => exact OutSame.parts (execCtxMemWrite_same (.refl _ s) (by dsimp only [Instr.touches]; decide +kernel) _ _ _)
  | hbmRead _ _ _ _ => exact OutSame.parts (execHbmRead_same (.refl _ s) (by dsimp only [Instr.touches]; decide +kernel) _ _ _ _)
  | hbmPartialWrite _ _ _ _ _ => exact OutSame.parts (execHbmPartialWrite_same (.refl _ s) (by dsimp only [Instr.touches]; decide +kernel) _ _ _ _ _)
  | scrubRead _ _ _ _ => exact OutSame.parts (execScrubRead_same (.refl _ s) (by dsimp only [Instr.touches]; decide +kernel) _ _ _ _)
  | contextCreate _ _ _ => exact OutSame.parts (execContextCreate_same (.refl _ s) (by dsimp only [Instr.touches]; decide +kernel) _ _ _)
  | contextDestroy _ _ _ => exact OutSame.parts (execContextDestroy_same (.refl _ s) (by dsimp only [Instr.touches]; decide +kernel) _ _ _)
  | quotaWrite _ _ _ _ _ => exact OutSame.parts (execQuotaWrite_same (.refl _ s) (by dsimp only [Instr.touches]; decide +kernel) _ _ _ _ _)
  | regionValidate _ _ => exact OutSame.parts (execRegionValidate_same (.refl _ s) (by dsimp only [Instr.touches]; decide +kernel) _ _)
  | regionInvalidate _ _ => exact OutSame.parts (execRegionInvalidate_same (.refl _ s) (by dsimp only [Instr.touches]; decide +kernel) _ _)
  | queueEnable _ _ _ => exact OutSame.parts (execQueueEnable_same (.refl _ s) (by dsimp only [Instr.touches]; decide +kernel) _ _ _)
  | queueDisable _ _ _ => exact OutSame.parts (execQueueDisable_same (.refl _ s) (by dsimp only [Instr.touches]; decide +kernel) _ _ _)
  | queueBind _ _ => exact OutSame.parts (execQueueBind_same (.refl _ s) (by dsimp only [Instr.touches]; decide +kernel) _ _)
  | keyLoad _ _ => exact OutSame.parts (execKeyLoad_same (.refl _ s) (by dsimp only [Instr.touches]; decide +kernel) _ _)
  | keyClear _ _ => exact OutSame.parts (execKeyClear_same (.refl _ s) (by dsimp only [Instr.touches]; decide +kernel) _ _)
  | updateBegin _ _ _ _ => exact OutSame.parts (execUpdateBegin_same (.refl _ s) (by dsimp only [Instr.touches]; decide +kernel) _ _ _ _)
  | updateData _ _ => exact OutSame.parts (execUpdateData_same (.refl _ s) (by dsimp only [Instr.touches]; decide +kernel) _ _)
  | updateFinish _ _ _ => exact OutSame.parts (execUpdateFinish_same (.refl _ s) (by dsimp only [Instr.touches]; decide +kernel) _ _ _)
  | updateCancel _ _ => exact OutSame.parts (execUpdateCancel_same (.refl _ s) (by dsimp only [Instr.touches]; decide +kernel) _ _)
  | svnCommit _ _ => exact OutSame.parts (execSvnCommit_same (.refl _ s) (by dsimp only [Instr.touches]; decide +kernel) _ _)
  | fuseBurnDone _ => exact OutSame.parts (execFuseBurnDone_same (.refl _ s) (by dsimp only [Instr.touches]; decide +kernel) _)
  | debugToken _ _ _ => exact OutSame.parts (execDebugToken_same (.refl _ s) (by dsimp only [Instr.touches]; decide +kernel) _ _ _)
  | errorForce _ _ _ => exact OutSame.parts (execErrorForce_same (.refl _ s) (by dsimp only [Instr.touches]; decide +kernel) _ _ _)
  | wireTest _ _ => exact OutSame.parts (execWireTest_same (.refl _ s) (by dsimp only [Instr.touches]; decide +kernel) _ _)
  | harrowGo _ _ _ _ => exact OutSame.parts (execHarrowGo_same (.refl _ s) (by dsimp only [Instr.touches]; decide +kernel) _ _ _ _)
  | harrowStop _ _ _ _ => exact OutSame.parts (execHarrowStop_same (.refl _ s) (by dsimp only [Instr.touches]; decide +kernel) _ _ _ _)
  | harrowTile _ _ _ _ _ => exact OutSame.parts (execHarrowTile_same (.refl _ s) (by dsimp only [Instr.touches]; decide +kernel) _ _ _ _ _)
  | harrowTimeout _ _ => exact OutSame.parts (execHarrowTimeout_same (.refl _ s) (by dsimp only [Instr.touches]; decide +kernel) _ _)
  | almanacRead _ _ _ => exact OutSame.parts (execAlmanacRead_same (.refl _ s) (by dsimp only [Instr.touches]; decide +kernel) _ _ _)
  | almanacClassify _ _ => exact OutSame.parts (execAlmanacClassify_same (.refl _ s) (by dsimp only [Instr.touches]; decide +kernel) _ _)
  | almanacFlashWrite _ => exact OutSame.parts (execAlmanacFlashWrite_same (.refl _ s) (by dsimp only [Instr.touches]; decide +kernel) _)
  | allotWrite _ _ => exact OutSame.parts (execAllotWrite_same (.refl _ s) (by dsimp only [Instr.touches]; decide +kernel) _ _)
  | planCapWrite _ _ => exact OutSame.parts (execPlanCapWrite_same (.refl _ s) (by dsimp only [Instr.touches]; decide +kernel) _ _)
  | fcAlignWrite _ _ => exact OutSame.parts (execFcAlignWrite_same (.refl _ s) (by dsimp only [Instr.touches]; decide +kernel) _ _)
  | forecastLatch _ => exact OutSame.parts (execForecastLatch_same (.refl _ s) (by dsimp only [Instr.touches]; decide +kernel) _)
  | interferenceLatch _ _ => exact OutSame.parts (execInterferenceLatch_same (.refl _ s) (by dsimp only [Instr.touches]; decide +kernel) _ _)
  | lowWordRead _ _ _ => exact OutSame.parts (execLowWordRead_same (.refl _ s) (by dsimp only [Instr.touches]; decide +kernel) _ _ _)
  | lowWordWrite _ _ _ => exact OutSame.parts (execLowWordWrite_same (.refl _ s) (by dsimp only [Instr.touches]; decide +kernel) _ _ _)
  | highWordWrite _ _ _ => exact OutSame.parts (execHighWordWrite_same (.refl _ s) (by dsimp only [Instr.touches]; decide +kernel) _ _ _)
  | routeEntryCommit _ _ _ => exact OutSame.parts (execRouteEntryCommit_same (.refl _ s) (by dsimp only [Instr.touches]; decide +kernel) _ _ _)
  | rcRead _ _ _ => exact OutSame.parts (execRcRead_same (.refl _ s) (by dsimp only [Instr.touches]; decide +kernel) _ _ _)
  | misalignedWrite _ _ => exact OutSame.parts (execMisalignedWrite_same (.refl _ s) (by dsimp only [Instr.touches]; decide +kernel) _ _)
  | registerWrite _ _ _ => exact OutSame.parts (execRegisterWrite_same (.refl _ s) (by dsimp only [Instr.touches]; decide +kernel) _ _ _)
  | portEnableWrite _ _ _ => exact OutSame.parts (execPortEnableWrite_same (.refl _ s) (by dsimp only [Instr.touches]; decide +kernel) _ _ _)
  | portRetrainWrite _ _ _ => exact OutSame.parts (execPortRetrainWrite_same (.refl _ s) (by dsimp only [Instr.touches]; decide +kernel) _ _ _)
  | devidWrite _ _ => exact OutSame.parts (execDevidWrite_same (.refl _ s) (by dsimp only [Instr.touches]; decide +kernel) _ _)
  | rxallocWrite _ _ _ _ => exact OutSame.parts (execRxallocWrite_same (.refl _ s) (by dsimp only [Instr.touches]; decide +kernel) _ _ _ _)
  | clkGateWrite _ _ _ => exact OutSame.parts (execClkGateWrite_same (.refl _ s) (by dsimp only [Instr.touches]; decide +kernel) _ _ _)
  | clkOutWrite _ _ => exact OutSame.parts (execClkOutWrite_same (.refl _ s) (by dsimp only [Instr.touches]; decide +kernel) _ _)
  | ifCtrlWrite _ _ _ => exact OutSame.parts (execIfCtrlWrite_same (.refl _ s) (by dsimp only [Instr.touches]; decide +kernel) _ _ _)
  | servingConfigWrite _ _ _ _ => exact OutSame.parts (execServingConfigWrite_same (.refl _ s) (by dsimp only [Instr.touches]; decide +kernel) _ _ _ _)
  | bar2Read _ _ _ => exact OutSame.parts (execBar2Read_same (.refl _ s) (by dsimp only [Instr.touches]; decide +kernel) _ _ _)
  | bar2Write _ _ _ => exact OutSame.parts (execBar2Write_same (.refl _ s) (by dsimp only [Instr.touches]; decide +kernel) _ _ _)
  | functionLevelReset _ => exact OutSame.parts (execFunctionLevelReset_same (.refl _ s) (by dsimp only [Instr.touches]; decide +kernel) _)
  | deviceReset _ => exact OutSame.parts (execDeviceReset_same (.refl _ s) (by dsimp only [Instr.touches]; decide +kernel) _)
  | bootStart _ => exact OutSame.parts (execBootStart_same (.refl _ s) (by dsimp only [Instr.touches]; decide +kernel) _)
  | bootVerify _ _ => exact OutSame.parts (execBootVerify_same (.refl _ s) (by dsimp only [Instr.touches]; decide +kernel) _ _)
  | bootReady => exact OutSame.parts (execBootReady_same (.refl _ s) (by dsimp only [Instr.touches]; decide +kernel))
  | powerLoss _ => exact OutSame.parts (execPowerLoss_same (.refl _ s) (by dsimp only [Instr.touches]; decide +kernel) _)
  | regulatorFailure => exact OutSame.parts (execRegulatorFailure_same (.refl _ s) (by dsimp only [Instr.touches]; decide +kernel))
  | pwrBrakeAssert => exact OutSame.parts (execPwrBrakeAssert_same (.refl _ s) (by dsimp only [Instr.touches]; decide +kernel))
  | pwrBrakeRelease => exact OutSame.parts (execPwrBrakeRelease_same (.refl _ s) (by dsimp only [Instr.touches]; decide +kernel))
  | hostLinkTrain _ _ _ => exact OutSame.parts (execHostLinkTrain_same (.refl _ s) (by dsimp only [Instr.touches]; decide +kernel) _ _ _)
  | msixUnmask _ _ => exact OutSame.parts (execMsixUnmask_same (.refl _ s) (by dsimp only [Instr.touches]; decide +kernel) _ _)
  | powerSample _ => exact OutSame.parts (execPowerSample_same (.refl _ s) (by dsimp only [Instr.touches]; decide +kernel) _)
  | throttleEval _ _ => exact OutSame.parts (execThrottleEval_same (.refl _ s) (by dsimp only [Instr.touches]; decide +kernel) _ _)
  | clockLevelStep _ => exact OutSame.parts (execClockLevelStep_same (.refl _ s) (by dsimp only [Instr.touches]; decide +kernel) _)
  | minuteBoundary => exact OutSame.parts (execMinuteBoundary_same (.refl _ s) (by dsimp only [Instr.touches]; decide +kernel))
  | thermalTrip _ _ => exact OutSame.parts (execThermalTrip_same (.refl _ s) (by dsimp only [Instr.touches]; decide +kernel) _ _)
  | thermalTripEnd _ _ => exact OutSame.parts (execThermalTripEnd_same (.refl _ s) (by dsimp only [Instr.touches]; decide +kernel) _ _)
  | analogTrip _ _ => exact OutSame.parts (execAnalogTrip_same (.refl _ s) (by dsimp only [Instr.touches]; decide +kernel) _ _)
  | arraySleep _ _ _ => exact OutSame.parts (execArraySleep_same (.refl _ s) (by dsimp only [Instr.touches]; decide +kernel) _ _ _)
  | furrowSleep _ _ => exact OutSame.parts (execFurrowSleep_same (.refl _ s) (by dsimp only [Instr.touches]; decide +kernel) _ _)
  | fieldSleep _ => exact OutSame.parts (execFieldSleep_same (.refl _ s) (by dsimp only [Instr.touches]; decide +kernel) _)
  | furrowWake _ _ => exact OutSame.parts (execFurrowWake_same (.refl _ s) (by dsimp only [Instr.touches]; decide +kernel) _ _)
  | fieldWake _ _ _ => exact OutSame.parts (execFieldWake_same (.refl _ s) (by dsimp only [Instr.touches]; decide +kernel) _ _ _)
  | monitorWindow _ _ _ => exact OutSame.parts (execMonitorWindow_same (.refl _ s) (by dsimp only [Instr.touches]; decide +kernel) _ _ _)
  | pllWindow _ _ _ => exact OutSame.parts (execPllWindow_same (.refl _ s) (by dsimp only [Instr.touches]; decide +kernel) _ _ _)
  | pllLockTimeout _ => exact OutSame.parts (execPllLockTimeout_same (.refl _ s) (by dsimp only [Instr.touches]; decide +kernel) _)
  | collectorTick _ _ _ => exact OutSame.parts (execCollectorTick_same (.refl _ s) (by dsimp only [Instr.touches]; decide +kernel) _ _ _)
  | quietPeriodExpiry => exact OutSame.parts (execQuietPeriodExpiry_same (.refl _ s) (by dsimp only [Instr.touches]; decide +kernel))
  | streamWatchdog _ => exact OutSame.parts (execStreamWatchdog_same (.refl _ s) (by dsimp only [Instr.touches]; decide +kernel) _)
  | queueWatchdog _ => exact OutSame.parts (execQueueWatchdog_same (.refl _ s) (by dsimp only [Instr.touches]; decide +kernel) _)
  | dmaWatchdog _ _ => exact OutSame.parts (execDmaWatchdog_same (.refl _ s) (by dsimp only [Instr.touches]; decide +kernel) _ _)
  | portWatchdog _ _ => exact OutSame.parts (execPortWatchdog_same (.refl _ s) (by dsimp only [Instr.touches]; decide +kernel) _ _)
  | fenceDrained _ => exact OutSame.parts (execFenceDrained_same (.refl _ s) (by dsimp only [Instr.touches]; decide +kernel) _)
  | fenceDrainTimeout _ => exact OutSame.parts (execFenceDrainTimeout_same (.refl _ s) (by dsimp only [Instr.touches]; decide +kernel) _)
  | interferenceWindowEnd _ _ => exact OutSame.parts (execInterferenceWindowEnd_same (.refl _ s) (by dsimp only [Instr.touches]; decide +kernel) _ _)
  | slowdownWindowEnd _ => exact OutSame.parts (execSlowdownWindowEnd_same (.refl _ s) (by dsimp only [Instr.touches]; decide +kernel) _)
  | ideKeyMessage _ => exact OutSame.parts (execIdeKeyMessage_same (.refl _ s) (by dsimp only [Instr.touches]; decide +kernel) _)
  | doeAttest _ => exact OutSame.parts (execDoeAttest_same (.refl _ s) (by dsimp only [Instr.touches]; decide +kernel) _)
  | getStatus _ _ => exact OutSame.parts (execGetStatus_same (.refl _ s) (by dsimp only [Instr.touches]; decide +kernel) _ _)
  | setAllot _ _ => exact OutSame.parts (execSetAllot_same (.refl _ s) (by dsimp only [Instr.touches]; decide +kernel) _ _)
  | getForecast _ _ => exact OutSame.parts (execGetForecast_same (.refl _ s) (by dsimp only [Instr.touches]; decide +kernel) _ _)
  | setPlanCap _ _ => exact OutSame.parts (execSetPlanCap_same (.refl _ s) (by dsimp only [Instr.touches]; decide +kernel) _ _)
  | setAlign _ _ => exact OutSame.parts (execSetAlign_same (.refl _ s) (by dsimp only [Instr.touches]; decide +kernel) _ _)
  | readFaultlog _ _ => exact OutSame.parts (execReadFaultlog_same (.refl _ s) (by dsimp only [Instr.touches]; decide +kernel) _ _)
  | readAlmanac _ _ _ _ => exact OutSame.parts (execReadAlmanac_same (.refl _ s) (by dsimp only [Instr.touches]; decide +kernel) _ _ _ _)
  | classify _ _ _ => exact OutSame.parts (execClassify_same (.refl _ s) (by dsimp only [Instr.touches]; decide +kernel) _ _ _)
  | attest _ _ => exact OutSame.parts (execAttest_same (.refl _ s) (by dsimp only [Instr.touches]; decide +kernel) _ _)
  | signedObject _ _ _ _ _ => exact OutSame.parts (execSignedObject_same (.refl _ s) (by dsimp only [Instr.touches]; decide +kernel) _ _ _ _ _)
  | subscribe _ _ _ => exact OutSame.parts (execSubscribe_same (.refl _ s) (by dsimp only [Instr.touches]; decide +kernel) _ _ _)
  | mctpControl _ _ => exact OutSame.parts (execMctpControl_same (.refl _ s) (by dsimp only [Instr.touches]; decide +kernel) _ _)
  | pldmMonitor _ => exact OutSame.parts (execPldmMonitor_same (.refl _ s) (by dsimp only [Instr.touches]; decide +kernel) _)
  | requestUpdate _ _ _ => exact OutSame.parts (execRequestUpdate_same (.refl _ s) (by dsimp only [Instr.touches]; decide +kernel) _ _ _)
  | updateComponent _ _ => exact OutSame.parts (execUpdateComponent_same (.refl _ s) (by dsimp only [Instr.touches]; decide +kernel) _ _)
  | cancelUpdate => exact OutSame.parts (execCancelUpdate_same (.refl _ s) (by dsimp only [Instr.touches]; decide +kernel))
  | activateFirmware => exact OutSame.parts (execActivateFirmware_same (.refl _ s) (by dsimp only [Instr.touches]; decide +kernel))
  | vopRetire _ _ _ => exact OutSame.parts (execVopRetire_same (.refl _ s) (by dsimp only [Instr.touches]; decide +kernel) _ _ _)
  | glnRetire _ _ => exact OutSame.parts (execGlnRetire_same (.refl _ s) (by dsimp only [Instr.touches]; decide +kernel) _ _)
  | unknownOpcode _ _ => exact OutSame.parts (execUnknownOpcode_same (.refl _ s) (by dsimp only [Instr.touches]; decide +kernel) _ _)
  | flitSlotTransmit _ => exact OutSame.parts (execFlitSlotTransmit_same (.refl _ s) (by dsimp only [Instr.touches]; decide +kernel) _)
  | ideIntegrityFailure => exact OutSame.parts (execIdeIntegrityFailure_same (.refl _ s) (by dsimp only [Instr.touches]; decide +kernel))
  | converterStart => exact OutSame.parts (execConverterStart_same (.refl _ s) (by dsimp only [Instr.touches]; decide +kernel))
  | thermalControl _ _ _ _ _ => exact OutSame.parts (execThermalControl_same (.refl _ s) (by dsimp only [Instr.touches]; decide +kernel) _ _ _ _ _)
  | controlProcessorWatchdog => exact OutSame.parts (execControlProcessorWatchdog_same (.refl _ s) (by dsimp only [Instr.touches]; decide +kernel))
  | configurationWrite _ => exact OutSame.parts (execConfigurationWrite_same (.refl _ s) (by dsimp only [Instr.touches]; decide +kernel) _)
  | dynamicAddressAssign _ _ => exact OutSame.parts (execDynamicAddressAssign_same (.refl _ s) (by dsimp only [Instr.touches]; decide +kernel) _ _)
  | eventAnswer _ => exact OutSame.parts (execEventAnswer_same (.refl _ s) (by dsimp only [Instr.touches]; decide +kernel) _)
  | firmwareDataResponse _ _ _ => exact OutSame.parts (execFirmwareDataResponse_same (.refl _ s) (by dsimp only [Instr.touches]; decide +kernel) _ _ _)
  | flashProgramDone _ => exact OutSame.parts (execFlashProgramDone_same (.refl _ s) (by dsimp only [Instr.touches]; decide +kernel) _)
  | jtagAccess _ => exact OutSame.parts (execJtagAccess_same (.refl _ s) (by dsimp only [Instr.touches]; decide +kernel) _)
/-! ### A step -/

/-- Log 1: a step is the front command, or nothing. -/
theorem step_cases {s t : State} (h : step s = .next t) :
    t = s ∧ s.pending = [] ∨ ∃ c rest, s.pending = c :: rest ∧ exec c { s with pending := rest } = .next t := by
  unfold step at h
  cases hp : s.pending with
  | nil =>
    rw [hp] at h
    exact .inl ⟨(Host.Outcome.next.inj h).symm, rfl⟩
  | cons c rest =>
    rw [hp] at h
    exact .inr ⟨c, rest, rfl, h⟩

/-! ### The obligations -/

/-- Settles O15, by the two arms of `step`. -/
theorem stepRunsFrontCommand : Obligations.StepRunsFrontCommand := by
  refine ⟨fun c rest s hs => ?_, fun s hs => ?_⟩
  · unfold step
    rw [hs]
  · unfold step
    rw [hs]

/-- Settles O16: every command completes, and so does a step, which is a command or nothing. -/
theorem wellFormedCommandsComplete : Obligations.WellFormedCommandsComplete := by
  refine ⟨exec_completes, fun s => ?_⟩
  cases hs : s.pending with
  | nil => exact ⟨s, stepRunsFrontCommand.2 s hs⟩
  | cons c rest =>
    rw [stepRunsFrontCommand.1 c rest s hs]
    exact exec_completes c _

/-- Settles O17: no command touches the queue, so a step only takes its front. -/
theorem commandsLeaveQueue : Obligations.CommandsLeaveQueue := by
  refine ⟨fun c s t h => (exec_keeps_of_next h).pending, fun s t h => ?_⟩
  obtain ⟨rfl, hs⟩ | ⟨c, rest, hs, hc⟩ := step_cases h
  · rw [hs, List.drop_nil]
  · rw [hs, (exec_keeps_of_next hc).pending, List.drop_one, List.tail_cons]

/-- Settles O18: no command clears a fuse. -/
theorem fusesOnlyBurn : Obligations.FusesOnlyBurn := by
  intro s t h
  obtain ⟨rfl, _⟩ | ⟨c, rest, _, hc⟩ := step_cases h
  · exact .refl _
  · exact (exec_keeps_of_next hc).fuses

/-- The queue of commands has no part in canonical form. -/
theorem canon_pending {s : State} (h : s.Canon) (l : List Instr) : { s with pending := l }.Canon := { h with }

/-- Settles O19: every command keeps canonical form. -/
theorem stepKeepsCanonicalForm : Obligations.StepKeepsCanonicalForm := by
  intro s t hs h
  obtain ⟨rfl, _⟩ | ⟨c, rest, _, hc⟩ := step_cases h
  · exact hs
  · exact (exec_keeps_of_next hc).canon (canon_pending hs rest)

/-- Settles O22, by the frame of each command. -/
theorem commandsChangeOnlyTheirParts : Obligations.CommandsChangeOnlyTheirParts := by
  intro c s t h
  have hf := exec_frame c s
  rwa [h] at hf

/-! ### Reset -/

/-- Log 2: the memories are empty after reset, and so is every table. -/
theorem reset_canon : State.reset.Canon where
  hbm := Memory.wf_empty _
  sheaf := Memory.wf_empty _
  seedbed := Memory.wf_empty _
  glean := Memory.wf_empty _
  hostMem := Memory.wf_empty _
  regs := .nil
  pairs := .nil
  streams := .nil
  furrows := .nil
  ctxs := .nil
  dma := .nil
  sems := .nil
  barriers := .nil
  regions := .nil
  coverage := .nil
  queues := .nil
  ports := .nil
  engines := .nil
  serv := .nil
  hbmBad := .nil

/-- Settles O20: the memories and tables are empty after reset, and so is the queue of commands. -/
theorem resetIsCanonical : Obligations.ResetIsCanonical := ⟨reset_canon, rfl⟩

/-- Settles O21, by evaluating the reset state at each context, field and furrow. -/
theorem resetValues : Obligations.ResetValues := by
  refine ⟨rfl, ?_, fun c => ?_, fun f n => ?_, fun f n => ?_, fun f => ?_⟩
  · decide +kernel
  · revert c; decide +kernel
  · revert f n; decide +kernel
  · revert f n; decide +kernel
  · revert f; decide +kernel

end Sys2Proof.Machine


/-! Tile instructions at the head of their stream (R112, R113): what a ready and legal one does, and the bindings, semaphores,
checks, transfers, STEP and END (R119 to R121, R126, R137, R143, R144, R177). -/

namespace Sys2Proof.Machine

/-! ### The issue stage -/

/-- R113: an instruction at the head with nothing to wait for and no cause to halt leaves the stream and has its effect. -/
theorem State.AtHead.issue_eq {s : State} {i : StreamId} {w : InstrWord} (h : s.AtHead i w) {wait : Option WaitKind}
    {cause : Option Nat} (hw : wait = none) (hc : cause = none) (sem : Nat) (eff : State → State) :
    issue s (atOf i) w wait sem cause eff = eff (s.advance (atOf i)) := by
  subst hw hc
  exact issue_runs h sem eff

/-- R112: the command of a tile instruction at the head runs the instruction. -/
theorem State.AtHead.exec_eq {s : State} {i : StreamId} {w : InstrWord} (h : s.AtHead i w) {c : Instr}
    {run : StreamId → InstrWord → State → State} (hc : exec c s = tile i w run s) : exec c s = .next (run i w s) :=
  hc.trans (h.tile_runs run)

/-- An effect on other parts of the state leaves the head's departure as it was. -/
theorem State.Issued.of_parts {s u t : State} {i : StreamId} (h : s.Issued u i) (hr : t.regs = u.regs)
    (hs : t.streams = u.streams) : s.Issued t i := by
  have hst : ∀ p, t.st p = u.st p := fun p => by unfold State.st State.strm; rw [hs]
  refine ⟨?_, ?_, ?_, fun a ha => ?_, fun j hj => ?_⟩
  · rw [hst, h.pc]
  · rw [hst, h.buf]
  · rw [rf_of_regs hr, h.count]
  · rw [reg_of_regs hr, h.regs a ha]
  · rw [hst, h.others j hj]

/-- The head leaves, and its stream's record is then changed in other fields by `f`. -/
theorem issued_mapSt {s : State} (hc : s.Canon) {i : StreamId} (h : s.NextSound (atOf i)) (f : StreamSt → StreamSt)
    (hpc : ∀ x, (f x).pc = x.pc) (hbuf : ∀ x, (f x).buf = x.buf) :
    s.Issued ((s.advance (atOf i)).setSt (atOf i) (f ((s.advance (atOf i)).st (atOf i)))) i ∧
      ((s.advance (atOf i)).setSt (atOf i) (f ((s.advance (atOf i)).st (atOf i)))).st (atOf i) =
        f ((s.st (atOf i)).advanced (s.nextGrant i.field i.furrow)) ∧
      { (s.advance (atOf i)).setSt (atOf i) (f ((s.advance (atOf i)).st (atOf i))) with
        regs := s.regs, streams := s.streams } = s := by
  rw [st_advance hc.streams h]
  exact issued_setSt hc h _ (hpc _) (hbuf _)

/-! ### Bindings -/

theorem issueLdw_runs {s : State} {i : StreamId} {w : InstrWord} (h : s.AtHead i w) (hc : bindingCause s (atOf i) w = none) :
    issueLdw i w s = (s.advance (atOf i)).bindWeight (atOf i) (fld w 8 2) (bindingOf false w) := by
  unfold issueLdw
  exact h.issue_eq rfl hc 0 _

theorem issueLda_runs {s : State} {i : StreamId} {w : InstrWord} (h : s.AtHead i w) (hc : bindingCause s (atOf i) w = none) :
    issueLda i w s = (s.advance (atOf i)).bindActivation (atOf i) (bindingOf false w) := by
  unfold issueLda
  exact h.issue_eq rfl hc 0 _

theorem issueTrn_runs {s : State} {i : StreamId} {w : InstrWord} (h : s.AtHead i w) (hc : bindingCause s (atOf i) w = none) :
    issueTrn i w s = if fld w 14 1 = 0 then (s.advance (atOf i)).bindWeight (atOf i) (fld w 8 2) (bindingOf true w)
      else (s.advance (atOf i)).bindActivation (atOf i) (bindingOf true w) := by
  unfold issueTrn
  exact h.issue_eq rfl hc 0 _

/-- R128: from `s` to `t` the head of stream `i` has left and its activation operand is bound to `b`, the weight ports as they
were. -/
theorem bindActivation_advance {s : State} (hc : s.Canon) {i : StreamId} (h : s.NextSound (atOf i)) (b : Binding) {t : State}
    (ht : t = (s.advance (atOf i)).bindActivation (atOf i) b) :
    s.Issued t i ∧ { t with regs := s.regs, streams := s.streams } = s ∧ (t.st (atOf i)).bindA = some b ∧
      (t.st (atOf i)).bindW = (s.st (atOf i)).bindW := by
  subst ht
  obtain ⟨hi, hst, hframe⟩ := issued_mapSt hc h (fun x => { x with bindA := some b }) (fun _ => rfl) (fun _ => rfl)
  exact ⟨hi, hframe, (congrArg StreamSt.bindA hst :), (congrArg StreamSt.bindW hst :)⟩

/-- R128: from `s` to `t` the head of stream `i` has left and its weight port `j` is bound to `b`, the other bindings as they
were. -/
theorem bindWeight_advance {s : State} (hc : s.Canon) {i : StreamId} (h : s.NextSound (atOf i)) (j : Nat) (b : Binding)
    {t : State} (ht : t = (s.advance (atOf i)).bindWeight (atOf i) j b) :
    s.Issued t i ∧ { t with regs := s.regs, streams := s.streams } = s ∧ (t.st (atOf i)).bindA = (s.st (atOf i)).bindA ∧
      (t.st (atOf i)).bindW = (s.st (atOf i)).bindW.set j (some b) := by
  subst ht
  obtain ⟨hi, hst, hframe⟩ :=
    issued_mapSt hc h (fun x => { x with bindW := x.bindW.set j (some b) }) (fun _ => rfl) (fun _ => rfl)
  exact ⟨hi, hframe, (congrArg StreamSt.bindA hst :), (congrArg StreamSt.bindW hst :)⟩

/-- Settles O1: each instruction sets one binding of its stream's record after the head has left; TRN by its `TGT`. -/
theorem bindingReplacesOneOperand : Obligations.BindingReplacesOneOperand := by
  intro i body s hcanon
  refine ⟨fun h hc => ?_, fun h hc => ?_, fun h hc => ?_⟩
  · exact ⟨_, h.exec_eq rfl, bindWeight_advance hcanon h.next _ _ (issueLdw_runs h hc)⟩
  · exact ⟨_, h.exec_eq rfl, bindActivation_advance hcanon h.next _ (issueLda_runs h hc)⟩
  · refine ⟨_, h.exec_eq rfl, ?_⟩
    have hrun := issueTrn_runs h hc
    split
    · next htgt => exact bindWeight_advance hcanon h.next _ _ (hrun.trans (if_pos htgt))
    · next htgt => exact bindActivation_advance hcanon h.next _ (hrun.trans (if_neg htgt))

/-! ### Semaphores -/

theorem sem_setSem_self {s : State} (h : Store.Sorted s.sems) (f c n v : Nat) : (s.setSem f c n v).sem f c n = v :=
  sgetD_sputD_self h _ v 0

theorem sem_setSem_ne (s : State) {f g : Fin 4} {c d : Fin 64} {n m v : Nat} (hn : n < 256) (hm : m < 256)
    (h : (g, d, m) ≠ (f, c, n)) : (s.setSem f c n v).sem g d m = s.sem g d m := by
  refine sgetD_sputD_ne s.sems v 0 fun e => h ?_
  rw [Prod.mk.injEq, Prod.mk.injEq, Fin.ext_iff, Fin.ext_iff]
  omega

theorem fld_lt (w : InstrWord) (lo wid : Nat) : fld w lo wid < 2 ^ wid := (w.extractLsb' lo wid).isLt

/-- R119, R120: SEMW and SEMS whose reserved bits `a` and `b` are clear are legal before STEP. -/
theorem lowest_reserved {s : State} {p : At} {a b : Nat} (ha : a = 0) (hb : b = 0) (hs : (s.st p).stepped = false) :
    lowest [(a != 0 || b != 0, 2), (s.afterStep p, 9)] = none := by
  subst ha hb
  simp [lowest, State.afterStep, hs]

theorem sems_advance {s : State} (hs : Store.Sorted s.streams) {p : At} (h : s.NextSound p) : (s.advance p).sems = s.sems :=
  (congrArg State.sems (advance_frame hs h) :)

theorem sem_advance {s : State} (hs : Store.Sorted s.streams) {p : At} (h : s.NextSound p) (f c n : Nat) :
    (s.advance p).sem f c n = s.sem f c n := by
  unfold State.sem
  rw [sems_advance hs h]

theorem issueSemw_runs {s : State} {i : StreamId} {w : InstrWord} (h : s.AtHead i w) (ha : fld w 17 15 = 0)
    (hb : fld w 64 64 = 0) (hs : (s.st (atOf i)).stepped = false) (hthr : fld w 32 32 ≤ s.sem i.field i.ctx (fld w 8 8)) :
    issueSemw i w s = if fld w 16 1 = 1 then (s.advance (atOf i)).setSem i.field i.ctx (fld w 8 8)
      ((s.advance (atOf i)).sem i.field i.ctx (fld w 8 8) - fld w 32 32) else s.advance (atOf i) := by
  unfold issueSemw
  exact h.issue_eq (if_neg (Nat.not_lt.mpr hthr)) (lowest_reserved ha hb hs) _ _

theorem issueSemw_waits {s : State} {i : StreamId} {w : InstrWord} (h : s.AtHead i w)
    (hthr : s.sem i.field i.ctx (fld w 8 8) < fld w 32 32) :
    issueSemw i w s = s.waitStream (atOf i) .semaphore (fld w 8 8) := by
  have hwait : s.semwWait (atOf i) w = some .semaphore := if_pos hthr
  unfold issueSemw
  dsimp only
  rw [hwait]
  exact issue_waits h _ _ _ _

theorem issueSems_runs {s : State} {i : StreamId} {w : InstrWord} (h : s.AtHead i w) (ha : fld w 16 16 = 0)
    (hb : fld w 64 64 = 0) (hs : (s.st (atOf i)).stepped = false) (hr : s.allRetired (atOf i) = true) :
    issueSems i w s = (s.advance (atOf i)).setSem i.field i.ctx (fld w 8 8)
      (satAdd32 ((s.advance (atOf i)).sem i.field i.ctx (fld w 8 8)) (fld w 32 32)) := by
  unfold issueSems
  exact h.issue_eq (if_pos hr) (lowest_reserved ha hb hs) _ _

/-- R118: from `s` to `t` the head of stream `i` has left and its semaphore `n` holds `v`; no other semaphore changed. -/
theorem setSem_advance {s : State} (hc : s.Canon) {i : StreamId} (h : s.NextSound (atOf i)) {n v : Nat} (hn : n < 256)
    {t : State} (ht : t = (s.advance (atOf i)).setSem i.field i.ctx n v) :
    s.Issued t i ∧ { t with regs := s.regs, streams := s.streams, sems := s.sems } = s ∧ t.sem i.field i.ctx n = v ∧
      ∀ (f : Fin 4) (c : Fin 64) (m : Fin 256), (f, c, m.val) ≠ (i.field, i.ctx, n) → t.sem f c m = s.sem f c m := by
  subst ht
  refine ⟨(issued_advance hc h).of_parts rfl rfl, ?_, ?_, fun f c m hm => ?_⟩
  · exact (congrArg (fun t : State => { t with sems := s.sems }) (advance_frame hc.streams h) :)
  · exact sem_setSem_self (sems_advance hc.streams h ▸ hc.sems) _ _ _ _
  · rw [sem_setSem_ne _ hn m.isLt hm, sem_advance hc.streams h]

/-- R113: the head of stream `i` has left and no semaphore changed. -/
theorem sems_of_advance {s : State} (hc : s.Canon) {i : StreamId} (h : s.NextSound (atOf i)) :
    { s.advance (atOf i) with regs := s.regs, streams := s.streams, sems := s.sems } = s :=
  (congrArg (fun t : State => { t with sems := s.sems }) (advance_frame hc.streams h) :)

/-- Settles O2: SEMW takes its threshold off or waits by comparing, SEMS adds; both touch the one semaphore they name. -/
theorem semaphoreWaitAndSignal : Obligations.SemaphoreWaitAndSignal := by
  intro i body s hcanon hstepped
  refine ⟨fun h ha hb => ⟨fun hthr => ⟨_, h.exec_eq rfl, ?_⟩, fun hthr => ⟨_, h.exec_eq rfl, ?_⟩⟩,
    fun h ha hb hr => ⟨_, h.exec_eq rfl, ?_⟩⟩
  · have hrun := issueSemw_runs h ha hb hstepped hthr
    rw [sem_advance hcanon.streams h.next] at hrun
    by_cases hsub : fld (tileWord 0x40 body) 16 1 = 1
    · rw [if_pos hsub] at hrun ⊢
      exact setSem_advance hcanon h.next (fld_lt _ 8 8) hrun
    · rw [if_neg hsub] at hrun ⊢
      rw [hrun]
      exact ⟨issued_advance hcanon h.next, sems_of_advance hcanon h.next, sem_advance hcanon.streams h.next _ _ _,
        fun f c n _ => sem_advance hcanon.streams h.next _ _ _⟩
  · rw [issueSemw_waits h hthr]
    unfold State.waitStream
    rw [st_setSt_self hcanon.streams]
    exact ⟨rfl, rfl, rfl⟩
  · have hrun := issueSems_runs h ha hb hstepped hr
    rw [sem_advance hcanon.streams h.next] at hrun
    exact setSem_advance hcanon h.next (fld_lt _ 8 8) hrun

/-! ### STEP and END -/

theorem issueStep_cause {s : State} {i : StreamId} {w : InstrWord} (hs : (s.st (atOf i)).stepped = false)
    (ha : fld w 9 7 = 0) (hb : fld w 34 94 = 0) (hloss : fld w 8 1 ≠ 1 → fld w 16 18 = 0)
    (hin : fld w 8 1 = 1 → 32 * fld w 16 18 + 4 ≤ s.seedQuota i.field i.ctx) :
    lowest [(fld w 9 7 != 0 || fld w 34 94 != 0 || (!(fld w 8 1 == 1) && fld w 16 18 != 0), 2),
      (fld w 8 1 == 1 && decide (32 * fld w 16 18 + 4 > s.seedQuota (atOf i).f (atOf i).c), 7), (s.afterStep (atOf i), 9)] = none := by
  have hafter : s.afterStep (atOf i) = false := hs
  by_cases h : fld w 8 1 = 1
  · have hq : ¬ s.seedQuota (atOf i).f (atOf i).c < 32 * fld w 16 18 + 4 := Nat.not_lt.mpr (hin h)
    simp [lowest, hafter, ha, hb, h, hq]
  · simp [lowest, hafter, ha, hb, h, hloss h]

/-- R144: the loss that the STEP `w` at `p` posts. -/
def State.lossAt (s : State) (p : At) (w : InstrWord) (base : Nat) : Option Word32 :=
  if fld w 8 1 == 1 then some (s.seedVec p.f p.n (base + 32 * fld w 16 18) true 0) else none

/-- R144: the stream at `p` has executed STEP with the loss `l`. -/
def State.markStepped (s : State) (p : At) (l : Option Word32) : State := s.setSt p { s.st p with stepped := true, loss := l }

/-- R212: context `c` has one more loss posted if `b`. -/
def State.countLoss (s : State) (c : Nat) (b : Bool) : State :=
  if b then s.setCtx c { s.ctx c with lossPosts := min ((s.ctx c).lossPosts + 1) 255 } else s

theorem countLoss_frame (s : State) (c : Nat) (b : Bool) : { s.countLoss c b with ctxs := s.ctxs } = s := by
  unfold State.countLoss
  split
  · rfl
  · rfl

theorem lossPosts_countLoss {s : State} (h : Store.Sorted s.ctxs) (c : Nat) (b : Bool) :
    ((s.countLoss c b).ctx c).lossPosts = if b then min ((s.ctx c).lossPosts + 1) 255 else (s.ctx c).lossPosts := by
  unfold State.countLoss
  split
  · rw [ctx_setCtx_self h]
  · rfl

theorem issueStep_runs {s : State} {i : StreamId} {w : InstrWord} (h : s.AtHead i w) (hr : s.allRetired (atOf i) = true)
    (ho : s.outstanding (atOf i) = 0) (hsh : s.shadowed (atOf i) = false) (hs : (s.st (atOf i)).stepped = false)
    (ha : fld w 9 7 = 0) (hb : fld w 34 94 = 0) (hloss : fld w 8 1 ≠ 1 → fld w 16 18 = 0)
    (hin : fld w 8 1 = 1 → 32 * fld w 16 18 + 4 ≤ s.seedQuota i.field i.ctx) :
    issueStep i w s = (((s.advance (atOf i)).markStepped (atOf i)
      ((s.advance (atOf i)).lossAt (atOf i) w (s.seedBase i.field i.ctx))).countLoss i.ctx (fld w 8 1 == 1)).stepProgress
        i.ctx := by
  unfold issueStep
  have hwait : s.stepWait (atOf i) = none := by simp [State.stepWait, hr, ho, hsh]
  exact h.issue_eq hwait (issueStep_cause hs ha hb hloss hin) _ _

theorem lossAt_advance {s : State} (hs : Store.Sorted s.streams) {i : StreamId} (h : s.NextSound (atOf i)) (w : InstrWord)
    (base : Nat) : (s.advance (atOf i)).lossAt (atOf i) w base = s.lossAt (atOf i) w base := by
  have hseed : (s.advance (atOf i)).seedbed = s.seedbed := (congrArg State.seedbed (advance_frame hs h) :)
  unfold State.lossAt State.seedVec State.seedRead
  rw [hseed]

theorem issueEnd_runs {s : State} {i : StreamId} {w : InstrWord} (h : s.AtHead i w) (hr : s.allRetired (atOf i) = true)
    (ha : fld w 8 120 = 0) {l : Launch} (hl : (s.st (atOf i)).cur = some l) (hc : s.Canon) :
    issueEnd i w s = ((s.advance (atOf i)).setSt (atOf i)
      { (s.advance (atOf i)).st (atOf i) with cur := none, buf := [], state := .idle, wait := .none }).launchEnded
        l.queue l.seq := by
  unfold issueEnd
  have hcause : lowest [(fld w 8 120 != 0, 2)] = none := by simp [lowest, ha]
  have hcur : ((s.advance (atOf i)).st (atOf i)).cur = some l := by
    rw [st_advance hc.streams h.next]
    exact hl
  refine (h.issue_eq (if_pos hr) hcause _ _).trans ?_
  dsimp only
  rw [hcur]

/-- R144: from `s` to `u` the head of stream `i` has left and the stream has executed STEP with the loss `l`. -/
theorem markStepped_advance {s : State} (hc : s.Canon) {i : StreamId} (h : s.NextSound (atOf i)) (l : Option Word32) {u : State}
    (hu : u = (s.advance (atOf i)).markStepped (atOf i) l) :
    s.Issued u i ∧ (u.st (atOf i)).stepped = true ∧ (u.st (atOf i)).loss = l ∧
      { u with regs := s.regs, streams := s.streams } = s := by
  subst hu
  obtain ⟨hi, hst, hframe⟩ :=
    issued_mapSt hc h (fun x => { x with stepped := true, loss := l }) (fun _ => rfl) (fun _ => rfl)
  exact ⟨hi, (congrArg StreamSt.stepped hst :), (congrArg StreamSt.loss hst :), hframe⟩

/-- R144: from `s` to `u` the head of stream `i` has left and the stream has ended its launch. -/
theorem idle_advance {s : State} (hc : s.Canon) {i : StreamId} (h : s.NextSound (atOf i)) {u : State}
    (hu : u = (s.advance (atOf i)).setSt (atOf i)
      { (s.advance (atOf i)).st (atOf i) with cur := none, buf := [], state := .idle, wait := .none }) :
    (u.st (atOf i)).state = .idle ∧ (u.st (atOf i)).cur = none ∧ (u.st (atOf i)).buf = [] ∧
      (u.st (atOf i)).launches = (s.st (atOf i)).launches ∧ (∀ j, j ≠ i → u.st (atOf j) = s.st (atOf j)) ∧
      { u with regs := s.regs, streams := s.streams } = s := by
  subst hu
  rw [st_setSt_self (sorted_advance hc.streams h)]
  refine ⟨rfl, rfl, rfl, ?_, fun j hj => ?_, advance_frame hc.streams h⟩
  · rw [st_advance hc.streams h]
    rfl
  · rw [st_setSt_ne _ _ hj, (issued_advance hc h).others j hj]

/-- Settles O4: STEP marks its stream and counts its loss before `stepProgress`; END clears its stream's record before
`launchEnded`. -/
theorem stepAndEnd : Obligations.StepAndEnd := by
  intro i body s hcanon
  refine ⟨fun w hw h hr ho hsh hs ha hb hloss hin => ?_, fun w l hw h hr ha hl => ?_⟩
  · subst hw
    refine ⟨_, _, h.exec_eq rfl, issueStep_runs h hr ho hsh hs ha hb hloss hin, ?_⟩
    rw [lossAt_advance hcanon.streams h.next]
    obtain ⟨v, hv⟩ : ∃ v, v = (s.advance (atOf i)).markStepped (atOf i)
      (s.lossAt (atOf i) (tileWord 0x60 body) (s.seedBase i.field i.ctx)) := ⟨_, rfl⟩
    rw [← hv]
    obtain ⟨hissued, hstepped, hlost, hframe⟩ := markStepped_advance hcanon h.next _ hv
    have hctxs : v.ctxs = s.ctxs := (congrArg State.ctxs hframe :)
    have hcount := countLoss_frame v i.ctx (fld (tileWord 0x60 body) 8 1 == 1)
    have hstreams := (congrArg State.streams hcount :)
    have hst : (v.countLoss i.ctx (fld (tileWord 0x60 body) 8 1 == 1)).st (atOf i) = v.st (atOf i) := by
      unfold State.st State.strm
      rw [hstreams]
    rw [hst, lossPosts_countLoss (hctxs ▸ hcanon.ctxs)]
    refine ⟨hissued.of_parts (congrArg State.regs hcount :) hstreams, hstepped, ?_, ?_, ?_⟩
    · rw [hlost]
      unfold State.lossAt
      simp only [beq_iff_eq]
      rfl
    · simp only [beq_iff_eq, State.ctx, hctxs]
    · have h1 := (congrArg (fun t : State => { t with regs := s.regs, streams := s.streams, ctxs := s.ctxs }) hcount :)
      exact h1.trans (congrArg (fun t : State => { t with ctxs := s.ctxs }) hframe :)
  · subst hw
    exact ⟨_, _, h.exec_eq rfl, issueEnd_runs h hr ha hl hcanon, idle_advance hcanon h.next rfl⟩

/-! ### Transfers -/

/-- R137, R171: the transfer that the DMA `w` of stream `i` hands off. -/
def State.dmaXfer (s : State) (i : StreamId) (w : InstrWord) : Xfer :=
  { field := i.field, furrow := i.furrow, owner := s.ownerAt (atOf i), dir := (dmaFields w).dir,
    rows := ((dmaFields w).rowList (s.st (atOf i))).map fun (a, m) =>
      (s.seedBase i.field i.ctx + a, if (dmaFields w).toHbm then m else s.sheafBase i.field i.ctx + m),
    rlen := 32 * (dmaFields w).rlen, signal := if (dmaFields w).signal then some (dmaFields w).sem else none,
    fp := s.dmaSpan i w, pc := (s.st (atOf i)).pc }

theorem State.MayDma.runs {s : State} {i : StreamId} {w : InstrWord} (h : s.MayDma i w) :
    issueDma i w s = if (dmaFields w).noOp then
      (s.advance (atOf i)).signal i.field i.ctx (if (dmaFields w).signal then some (dmaFields w).sem else none)
    else (s.advance (atOf i)).handOff i.field (s.dmaXfer i w) := by
  unfold issueDma
  exact h.head.issue_eq h.ready h.legal _ _

theorem handOff_frame (s : State) (f : Nat) (x : Xfer) : { s.handOff f x with dma := s.dma } = s := by
  unfold State.handOff
  dsimp only
  split
  · rfl
  · rfl

/-- R172: the hand-off queue of a field that is not forced off accepts its oldest waiting transfer while it has room. -/
theorem execDmaHandoffAccept_eq {f : Fin 4} {s : State} {x : Xfer} {l : List Xfer} (hw : (s.dmaOf f).waiting = x :: l)
    (hroom : (s.dmaOf f).handoff.length < 1024) (hon : s.fieldOff f = false) :
    execDmaHandoffAccept f s =
      .next ((s.setDma f { s.dmaOf f with waiting := l, handoff := (s.dmaOf f).handoff ++ [x] }).feedDma f) := by
  unfold execDmaHandoffAccept
  simp [hw, hroom, hon]

/-- R138: a transfer that need not wait and that meets no other fenced field moves its rows. -/
theorem execDmaTransferDone_eq {f : Fin 4} {k e : Nat} {lost : List Nat} {s : State} {x : Xfer}
    (hx : (s.dmaOf f).active[k]? = some (e, x)) (hon : s.fieldOff f = false) (hwait : s.xferWaits x = false)
    (hfence : x.dir ≤ 1 → (x.rows.any fun r =>
      (s.setDma f { s.dmaOf f with active := (s.dmaOf f).active.eraseIdx k }).otherFenced f r.2 x.rlen) = false) :
    execDmaTransferDone f k lost s =
      .next ((((x.rows.foldl (fun s r => s.moveRow x r)
        ((s.setDma f { s.dmaOf f with active := (s.dmaOf f).active.eraseIdx k }).sourceLost x lost)).signal f x.owner.ctx
          x.signal).feedDma f).stepProgress x.owner.ctx) := by
  unfold execDmaTransferDone
  dsimp only
  rw [hx]
  dsimp only
  rw [hon, hwait, Bool.or_false, if_neg (by decide), if_neg fun h => by rw [hfence h.1] at h; exact absurd h.2 (by decide)]

/-- Settles O5: a DMA hands its transfer off or only signals; acceptance and completion are the model's own rows. -/
theorem dmaLifeCycle : Obligations.DmaLifeCycle := by
  refine ⟨fun i body s w hcanon hw h => ⟨fun hmoves => ?_, fun hnone => ?_⟩, fun f s x l hw hroom hon => ?_,
    fun f k e lost s x hx hon hwait hfence => execDmaTransferDone_eq hx hon hwait hfence⟩
  · subst hw
    have hrun := h.runs
    rw [hmoves, if_neg Bool.false_ne_true] at hrun
    have hframe := handOff_frame (s.advance (atOf i)) i.field (s.dmaXfer i (tileWord 0x10 body))
    refine ⟨_, s.dmaXfer i (tileWord 0x10 body), h.head.exec_eq rfl, hrun, ?_, ?_, rfl, rfl, rfl, rfl, rfl, rfl, rfl, rfl⟩
    · rw [hrun]
      exact (issued_advance hcanon h.head.next).of_parts (congrArg State.regs hframe :) (congrArg State.streams hframe :)
    · rw [hrun]
      have h1 := (congrArg (fun t : State => { t with regs := s.regs, streams := s.streams, dma := s.dma }) hframe :)
      exact h1.trans (congrArg (fun t : State => { t with dma := s.dma }) (advance_frame hcanon.streams h.head.next) :)
  · subst hw
    refine (h.head.exec_eq rfl).trans (congrArg _ ?_)
    rw [h.runs, hnone, if_pos rfl]
  · exact ⟨_, execDmaHandoffAccept_eq hw hroom hon, rfl, rfl⟩

/-! ### Checks -/

/-- R124: the operation code of a GLN or CHK word is the one it was built from. -/
theorem code_opWord2 {op code : Nat} (hc : code < 4) (body : BitVec 118) : fld (opWord2 op code body) 8 2 = code := by
  have h : (opWord2 op code body).extractLsb' 8 2 = BitVec.ofNat 2 code :=
    (BitVec.extractLsb'_append_eq_of_add_le (by decide)).trans BitVec.extractLsb'_append_eq_left
  rw [fld, h, BitVec.toNat_ofNat, Nat.mod_eq_of_lt hc]

/-- R124: the opcode of a GLN or CHK word is the one it was built from. -/
theorem opcode_opWord2 {op : Nat} (hop : op < 256) (code : Nat) (body : BitVec 118) : fld (opWord2 op code body) 0 8 = op := by
  have h : (opWord2 op code body).extractLsb' 0 8 = BitVec.ofNat 8 op :=
    (BitVec.extractLsb'_append_eq_of_add_le (by decide)).trans BitVec.extractLsb'_append_eq_right
  rw [fld, h, BitVec.toNat_ofNat, Nat.mod_eq_of_lt hop]

/-- R143: what a CHK READ writes. -/
def Slot.checkBytes (x : Slot) : List Byte :=
  leBytes 4 x.failMask ++ leBytes 4 x.skipMask ++ leBytes 4 x.drainStep ++ List.replicate 20 0

theorem Slot.length_checkBytes (x : Slot) : x.checkBytes.length = 32 := by
  simp [Slot.checkBytes, length_leBytes]

theorem State.MayChk.runs {s : State} {i : StreamId} {w : InstrWord} (h : s.MayChk i w) :
    issueChk i w s = if fld w 8 2 == 1 then
      (s.advance (atOf i)).seedWrite i.field i.furrow (s.seedBase i.field i.ctx + 32 * fld w 56 18)
        ((s.fur i.field i.furrow).slot (s.chkSlot i w)).checkBytes
    else (s.advance (atOf i)).addForce (atOf i) (s.chkSlot i w) (fld w 16 5) (fld w 21 2) (BitVec.ofNat 32 (fld w 24 32)) := by
  unfold issueChk
  exact h.head.issue_eq h.ready h.legal _ _

theorem furrows_advance {s : State} (hs : Store.Sorted s.streams) {p : At} (h : s.NextSound p) :
    (s.advance p).furrows = s.furrows := (congrArg State.furrows (advance_frame hs h) :)

theorem fur_advance {s : State} (hs : Store.Sorted s.streams) {p : At} (h : s.NextSound p) (f n : Nat) :
    (s.advance p).fur f n = s.fur f n := by
  unfold State.fur
  rw [furrows_advance hs h]

theorem seedbed_advance {s : State} (hs : Store.Sorted s.streams) {p : At} (h : s.NextSound p) :
    (s.advance p).seedbed = s.seedbed := (congrArg State.seedbed (advance_frame hs h) :)

/-- Settles O6: FORCE appends to its slot's pending forces, READ writes the slot's check bytes. -/
theorem checkForceAndRead : Obligations.CheckForceAndRead := by
  intro i body s hcanon
  refine ⟨fun w hw h => ?_, fun w sl hw hsl h => ?_⟩
  · subst hw
    have hrun := h.runs
    rw [code_opWord2 (by decide), if_neg (by decide)] at hrun
    refine ⟨_, h.head.exec_eq rfl, ?_⟩
    rw [hrun]
    unfold State.addForce
    rw [fur_advance hcanon.streams h.head.next]
    refine ⟨(issued_advance hcanon h.head.next).of_parts rfl rfl, ?_, ?_⟩
    · exact (congrArg (fun t : State => { t with furrows := s.furrows }) (advance_frame hcanon.streams h.head.next) :)
    · exact fur_setFur_self (furrows_advance hcanon.streams h.head.next ▸ hcanon.furrows) _ _ _
  · subst hw hsl
    have hrun := h.runs
    rw [code_opWord2 (by decide), if_pos (by decide)] at hrun
    have hseed := seedbed_advance hcanon.streams h.head.next
    refine ⟨_, h.head.exec_eq rfl, ?_⟩
    rw [hrun]
    generalize hb : ((s.fur i.field i.furrow).slot (s.chkSlot i (opWord2 0x58 1 body))).checkBytes = b
    have hlen : b.length = 32 := hb ▸ Slot.length_checkBytes _
    refine ⟨(issued_advance hcanon h.head.next).of_parts rfl rfl, ?_, ?_, fun a ha => ?_⟩
    · exact (congrArg (fun t : State => { t with seedbed := s.seedbed }) (advance_frame hcanon.streams h.head.next) :)
    · have hread := seedRead_seedWrite_self (hseed ▸ hcanon.seedbed : (s.advance (atOf i)).seedbed.wf unit64K) i.field i.furrow
        (s.seedBase i.field i.ctx + 32 * fld (opWord2 0x58 1 body) 56 18) b
      rw [hlen] at hread
      exact hread.trans hb.symm
    · rw [seedbed_seedWrite_out _ _ _ _ _ (by rwa [hlen]), hseed]

end Sys2Proof.Machine


/-! Matrix products (R61, R62, R80, R86, R87, R90, R128, R129): what an MMA or MMT leaves in its furrow when it issues, and what
a filled bank and an array pass change there. -/

namespace Sys2Proof.Machine

/-! ### MMA and MMT at issue -/

/-- R80, R86: the furrow after an MMA or MMT `o` with the fields `x` has left the issue stage. -/
def MmaFields.startIn (x : MmaFields) (o : MmaOp) (fs : FurrowSt) : FurrowSt :=
  if x.noOp then fs
  else
    let fs := if x.init then
        (List.range x.slotCount).foldl (fun a i => a.setSlot (o.slot + i) (initSlot x.thin (x.rowsTo i) x.n)) fs
      else fs
    if o.total = 0 then fs else { fs with mmas := fs.mmas ++ [o] }

theorem fur_startMma {s : State} (h : Store.Sorted s.furrows) (p : At) (x : MmaFields) (o : MmaOp) :
    (s.startMma p x o).fur p.f p.n = x.startIn o (s.fur p.f p.n) := by
  unfold State.startMma MmaFields.startIn
  split
  · rfl
  · exact fur_setFur_self h _ _ _

theorem fur_startMma_ne (s : State) {i : StreamId} (x : MmaFields) (o : MmaOp) {f : Fin 4} {n : Fin 26}
    (h : (f, n) ≠ (i.field, i.furrow)) : (s.startMma (atOf i) x o).fur f n = s.fur f n := by
  unfold State.startMma
  split
  · rfl
  · exact fur_setFur_ne s _ h

theorem startMma_frame (s : State) (p : At) (x : MmaFields) (o : MmaOp) :
    { s.startMma p x o with furrows := s.furrows } = s := by
  unfold State.startMma
  split
  · rfl
  · rfl

theorem sorted_startMma {s : State} (h : Store.Sorted s.furrows) (p : At) (x : MmaFields) (o : MmaOp) :
    Store.Sorted (s.startMma p x o).furrows := by
  unfold State.startMma
  split
  · exact h
  · exact sorted_setFur h _ _ _

/-- The slots that an MMA or MMT starts with. -/
theorem slot_startIn (x : MmaFields) (o : MmaOp) (fs : FurrowSt) (k : Nat) :
    (x.startIn o fs).slot k =
      if x.noOp = false ∧ x.init = true ∧ o.slot ≤ k ∧ k < o.slot + x.slotCount then
        initSlot x.thin (x.rowsTo (k - o.slot)) x.n
      else fs.slot k := by
  have hmmas (y : FurrowSt) : (if o.total = 0 then y else { y with mmas := y.mmas ++ [o] }).slot k = y.slot k := by
    split <;> rfl
  unfold MmaFields.startIn
  cases hno : x.noOp with
  | true => simp
  | false =>
    cases hinit : x.init with
    | false => simp [hmmas]
    | true =>
      simp only [Bool.false_eq_true, if_false, if_true, true_and, hmmas]
      exact slot_foldl_setSlot (fun i _ => initSlot x.thin (x.rowsTo i) x.n) o.slot x.slotCount fs k

/-- The pipeline that an MMA or MMT joins unless it runs no pass. -/
theorem mmas_startIn (x : MmaFields) (o : MmaOp) (fs : FurrowSt) :
    (x.startIn o fs).mmas = if x.noOp = true ∨ o.total = 0 then fs.mmas else fs.mmas ++ [o] := by
  have hinit (y : FurrowSt) :
      ((List.range x.slotCount).foldl (fun a i => a.setSlot (o.slot + i) (initSlot x.thin (x.rowsTo i) x.n)) y).mmas = y.mmas :=
    (congrArg FurrowSt.mmas (foldl_setSlot_frame _ _ _ _) :)
  unfold MmaFields.startIn
  cases x.noOp with
  | true => simp
  | false =>
    cases x.init with
    | false => by_cases ht : o.total = 0 <;> simp [ht]
    | true => by_cases ht : o.total = 0 <;> simp [ht, hinit]

/-- R408: the furrow with `n` slots from `b` on shadowed by `e`. -/
def FurrowSt.shadowed (x : FurrowSt) (b n : Nat) (e : Option Nat) : FurrowSt :=
  (List.range n).foldl (fun x i => x.setSlot (b + i) { x.slot (b + i) with shadow := e }) x

theorem slot_shadowed (x : FurrowSt) (b n : Nat) (e : Option Nat) (k : Nat) :
    (x.shadowed b n e).slot k = if b ≤ k ∧ k < b + n then { x.slot k with shadow := e } else x.slot k :=
  slot_foldl_setSlot (fun _ sl => { sl with shadow := e }) b n x k

theorem mmas_shadowed (x : FurrowSt) (b n : Nat) (e : Option Nat) : (x.shadowed b n e).mmas = x.mmas :=
  (congrArg FurrowSt.mmas
    (foldl_setSlot_frame (fun _ i => b + i) (fun x i => { x.slot (b + i) with shadow := e }) (List.range n) x) :)

/-- R61, R129: the product that the MMA or MMT `w` of stream `i` joins the pipeline with. -/
def State.mmaOp (s : State) (i : StreamId) (w : InstrWord) : MmaOp :=
  { owner := s.ownerAt (atOf i), thin := (mmaFields w).thin, mask := (mmaFields w).mask,
    slot := s.rf (R.FLD_ACQ_BASE i.ctx i.field) + (mmaFields w).slot, m := (mmaFields w).m, n := (mmaFields w).n,
    kb := (mmaFields w).kb, passes := (mmaFields w).passes, row0 := (mmaFields w).row0, col0 := (mmaFields w).col0,
    k0 := (mmaFields w).k0, fmtA := (mmaFields w).fmtA, fmtB := (mmaFields w).fmtB,
    bindA := (s.st (atOf i)).bindA.getD ⟨false, 0, 0, 0, 0, 0, 0⟩,
    bindW := (weightBindings (s.st (atOf i)) (mmaFields w)).map (·.getD ⟨false, 0, 0, 0, 0, 0, 0⟩),
    clamp := s.clampOf i.ctx, fp := s.mmaFp (atOf i) (mmaFields w) }

/-- R451, R420: the arrays of the product wake, and its format and layout are noted. -/
def State.noteProduct (s : State) (i : StreamId) (x : MmaFields) : State :=
  (s.wakeArrays i.field i.furrow x.mask).noteMma i.field x.fmtA x.thin

theorem State.MayMma.runs {s : State} {i : StreamId} {w : InstrWord} (h : s.MayMma i w) :
    issueMma i w s =
      if (mmaFields w).init then
        ((((s.advance (atOf i)).noteProduct i (mmaFields w)).sample (atOf i)).2.startMma (atOf i) (mmaFields w)
          (s.mmaOp i w)).shadowSlots (atOf i) (s.mmaOp i w).slot
            (if (mmaFields w).noOp then 0 else (mmaFields w).slotCount)
            (((s.advance (atOf i)).noteProduct i (mmaFields w)).sample (atOf i)).1
      else ((s.advance (atOf i)).noteProduct i (mmaFields w)).startMma (atOf i) (mmaFields w) (s.mmaOp i w) := by
  unfold issueMma
  exact h.head.issue_eq h.ready h.legal _ _

/-- R408: the count of eligible instructions goes up beside what the product notes. -/
theorem sample_noteProduct (u : State) (i : StreamId) (x : MmaFields) :
    ((u.noteProduct i x).sample (atOf i)).2 =
      { u.setSt (atOf i) { u.st (atOf i) with sampled := (u.st (atOf i)).sampled + 1 } with
        pwr := (u.noteProduct i x).pwr, lastMma := (u.noteProduct i x).lastMma } := rfl

/-- R80, R86, R408: the furrow of a product that has left the issue stage. -/
structure State.ProductIn (s t : State) (i : StreamId) (w : InstrWord) : Prop where
  issued : s.Issued t i
  frame : { t with regs := s.regs, streams := s.streams, furrows := s.furrows, pwr := s.pwr, lastMma := s.lastMma } = s
  others : ∀ (f : Fin 4) (n : Fin 26), (f, n) ≠ (i.field, i.furrow) → t.fur f n = s.fur f n
  slots : ∃ e, ∀ k, (t.fur i.field i.furrow).slot k =
    if (mmaFields w).noOp = false ∧ (mmaFields w).init = true ∧ (s.mmaOp i w).slot ≤ k ∧
        k < (s.mmaOp i w).slot + (mmaFields w).slotCount then
      { initSlot (mmaFields w).thin ((mmaFields w).rowsTo (k - (s.mmaOp i w).slot)) (mmaFields w).n with shadow := e }
    else (s.fur i.field i.furrow).slot k
  mmas : (t.fur i.field i.furrow).mmas = if (mmaFields w).noOp = true ∨ (s.mmaOp i w).total = 0 then
    (s.fur i.field i.furrow).mmas else (s.fur i.field i.furrow).mmas ++ [s.mmaOp i w]

/-- The product's own effect on a state `u` in which the head has left. -/
theorem productIn_start {s u : State} (hc : s.Canon) {i : StreamId} {w : InstrWord} (hi : (mmaFields w).init = false)
    (hu : s.Issued u i)
    (hframe : { u with regs := s.regs, streams := s.streams, pwr := s.pwr, lastMma := s.lastMma } = s) :
    s.ProductIn (u.startMma (atOf i) (mmaFields w) (s.mmaOp i w)) i w := by
  have hfur : u.furrows = s.furrows := (congrArg State.furrows hframe :)
  have hfr : ∀ f n, u.fur f n = s.fur f n := fun f n => by unfold State.fur; rw [hfur]
  have hstart := startMma_frame u (atOf i) (mmaFields w) (s.mmaOp i w)
  have hself : (u.startMma (atOf i) (mmaFields w) (s.mmaOp i w)).fur i.field i.furrow =
      (mmaFields w).startIn (s.mmaOp i w) (s.fur i.field i.furrow) := by
    rw [← hfr]
    exact fur_startMma (hfur ▸ hc.furrows) (atOf i) _ _
  refine ⟨hu.of_parts (congrArg State.regs hstart :) (congrArg State.streams hstart :), ?_, fun f n h => ?_, ⟨none, fun k => ?_⟩, ?_⟩
  · have h1 := (congrArg (fun t : State =>
      { t with regs := s.regs, streams := s.streams, furrows := s.furrows, pwr := s.pwr, lastMma := s.lastMma }) hstart :)
    exact h1.trans (congrArg (fun t : State => { t with furrows := s.furrows }) hframe :)
  · rw [fur_startMma_ne u _ _ h, hfr]
  · rw [hself, slot_startIn]
    simp [hi]
  · rw [hself, mmas_startIn]

/-- The product's own effect, with its slots shadowed, on a state `u` in which the head has left. -/
theorem productIn_shadow {s u : State} (hc : s.Canon) {i : StreamId} {w : InstrWord} (hi : (mmaFields w).init = true)
    (e : Option Nat) (hu : s.Issued u i)
    (hframe : { u with regs := s.regs, streams := s.streams, pwr := s.pwr, lastMma := s.lastMma } = s) :
    s.ProductIn ((u.startMma (atOf i) (mmaFields w) (s.mmaOp i w)).shadowSlots (atOf i) (s.mmaOp i w).slot
      (if (mmaFields w).noOp then 0 else (mmaFields w).slotCount) e) i w := by
  have hfur : u.furrows = s.furrows := (congrArg State.furrows hframe :)
  have hfr : ∀ f n, u.fur f n = s.fur f n := fun f n => by unfold State.fur; rw [hfur]
  have hsu : Store.Sorted u.furrows := hfur ▸ hc.furrows
  have hstart := startMma_frame u (atOf i) (mmaFields w) (s.mmaOp i w)
  have hself : (u.startMma (atOf i) (mmaFields w) (s.mmaOp i w)).fur i.field i.furrow =
      (mmaFields w).startIn (s.mmaOp i w) (s.fur i.field i.furrow) := by
    rw [← hfr]
    exact fur_startMma hsu (atOf i) _ _
  generalize hn : (if (mmaFields w).noOp then 0 else (mmaFields w).slotCount) = n
  have hshadow : ((u.startMma (atOf i) (mmaFields w) (s.mmaOp i w)).shadowSlots (atOf i) (s.mmaOp i w).slot n e).fur
      i.field i.furrow = ((mmaFields w).startIn (s.mmaOp i w) (s.fur i.field i.furrow)).shadowed (s.mmaOp i w).slot n e := by
    rw [← hself]
    exact fur_setFur_self (sorted_startMma hsu _ _ _) _ _ _
  refine ⟨hu.of_parts (congrArg State.regs hstart :) (congrArg State.streams hstart :), ?_, fun f m h => ?_, ⟨e, fun k => ?_⟩, ?_⟩
  · have h1 := (congrArg (fun t : State =>
      { t with regs := s.regs, streams := s.streams, furrows := s.furrows, pwr := s.pwr, lastMma := s.lastMma }) hstart :)
    exact h1.trans (congrArg (fun t : State => { t with furrows := s.furrows }) hframe :)
  · exact (fur_setFur_ne _ _ h).trans ((fur_startMma_ne u _ _ h).trans (hfr f m))
  · rw [hshadow, slot_shadowed, slot_startIn, ← hn]
    cases (mmaFields w).noOp with
    | true => simp
    | false =>
      simp only [Bool.false_eq_true, if_false, hi, true_and]
      split <;> rfl
  · rw [hshadow, mmas_shadowed, mmas_startIn]

/-- R61, R80: a ready and legal product leaves the issue stage into its furrow. -/
theorem State.MayMma.productIn {s : State} (hc : s.Canon) {i : StreamId} {w : InstrWord} (h : s.MayMma i w) :
    s.ProductIn (issueMma i w s) i w := by
  have hissued := issued_advance hc h.head.next
  have hframe : { (s.advance (atOf i)).noteProduct i (mmaFields w) with
      regs := s.regs, streams := s.streams, pwr := s.pwr, lastMma := s.lastMma } = s :=
    (congrArg (fun t : State => { t with pwr := s.pwr, lastMma := s.lastMma }) (advance_frame hc.streams h.head.next) :)
  rw [h.runs]
  cases hinit : (mmaFields w).init with
  | false => exact productIn_start hc hinit (hissued.of_parts rfl rfl) hframe
  | true =>
    obtain ⟨hi, -, hf⟩ := issued_mapSt hc h.head.next (fun x => { x with sampled := x.sampled + 1 }) (fun _ => rfl) (fun _ => rfl)
    have hsample := sample_noteProduct (s.advance (atOf i)) i (mmaFields w)
    rw [hsample]
    exact productIn_shadow hc hinit _ (hi.of_parts rfl rfl)
      (congrArg (fun t : State => { t with pwr := s.pwr, lastMma := s.lastMma }) hf :)

theorem not_of_lowest_none {l : List (Bool × Nat)} (h : lowest l = none) : ∀ e ∈ l, e.1 = false := by
  induction l with
  | nil => simp
  | cons a l ih =>
    obtain ⟨b, c⟩ := a
    cases b with
    | true => exact absurd h (by simp [lowest])
    | false => simpa using ih h

/-- R129, R131: a legal product runs some passes and has its activation operand bound. -/
theorem State.MayMma.bound {s : State} {i : StreamId} {w : InstrWord} (h : s.MayMma i w) :
    (mmaFields w).passes ≠ 0 ∧ some (s.mmaOp i w).bindA = (s.st (atOf i)).bindA := by
  have hall := not_of_lowest_none h.legal
  simp only [List.mem_cons, List.not_mem_nil, or_false, forall_eq_or_imp, forall_eq] at hall
  obtain ⟨-, -, hshape, hbind, -⟩ := hall
  simp only [Bool.or_eq_false_iff, beq_eq_false_iff_ne, Bool.not_eq_false'] at hshape hbind
  refine ⟨hshape.1.1.2, ?_⟩
  have hfits := hbind.1
  unfold bindingFits at hfits
  show some ((s.st (atOf i)).bindA.getD _) = _
  cases hA : (s.st (atOf i)).bindA with
  | none => rw [hA] at hfits; exact absurd hfits Bool.false_ne_true
  | some b => rfl

/-- R61, R63: a product with blocks and pass counts runs a pass. -/
theorem MmaOp.total_pos {o : MmaOp} (hk : 0 < o.kb) (hp : o.passes ≠ 0) : o.total ≠ 0 := by
  have hceil : ceilDiv o.kb 4 ≠ 0 := by unfold ceilDiv; omega
  exact Nat.mul_ne_zero hceil hp

theorem MmaOp.total_zero {o : MmaOp} (hk : o.kb = 0) : o.total = 0 := by
  unfold MmaOp.total ceilDiv
  rw [hk]
  simp

/-- Settles O7: MMA and MMT are one instruction with two layouts, and `ProductIn` says what it leaves. -/
theorem matrixProductIssues : Obligations.MatrixProductIssues := by
  intro c i body s w x first hcanon hcw hmay hx hfirst
  subst hx hfirst
  have hexec : exec c s = .next (issueMma i w s) := by
    obtain ⟨rfl, rfl⟩ | ⟨rfl, rfl⟩ := hcw
    · exact hmay.head.exec_eq rfl
    · exact hmay.head.exec_eq rfl
  obtain ⟨hissued, hframe, hothers, ⟨e, hslots⟩, hmmas⟩ := hmay.productIn hcanon
  obtain ⟨hpasses, hbindA⟩ := hmay.bound
  refine ⟨_, hexec, hissued, hframe, hothers, fun k hk => ?_, fun hinit hno k hk => ⟨e, ?_⟩, fun hno => ?_, fun hno hkb => ?_⟩
  · rw [hslots, if_neg]
    rintro ⟨h1, h2, h3, h4⟩
    obtain hk | hk | hk | hk := hk
    · exact absurd (h2.symm.trans hk) (by decide)
    · exact absurd (h1.symm.trans hk) (by decide)
    · exact absurd h3 (Nat.not_le.mpr hk)
    · exact absurd h4 (Nat.not_lt.mpr hk)
  · rw [hslots, if_pos ⟨hno, hinit, Nat.le_add_right _ _, Nat.add_lt_add_left hk _⟩]
    exact congrArg (fun j => { initSlot (mmaFields w).thin ((mmaFields w).rowsTo j) (mmaFields w).n with shadow := e })
      (Nat.add_sub_cancel_left _ _)
  · rw [hmmas, if_pos (hno.imp id fun hkb => MmaOp.total_zero hkb)]
  · have htotal : (s.mmaOp i w).total ≠ 0 := MmaOp.total_pos hkb hpasses
    refine ⟨s.mmaOp i w, ?_, rfl, rfl, rfl, rfl, rfl, rfl, rfl, hbindA, rfl, rfl, rfl⟩
    rw [hmmas, if_neg (by simp [hno, htotal])]

/-! ### Uncorrectable words of a store (R169) -/

theorem foldl_seedWrite_frame (f n : Nat) (l : List Nat) (z : List Byte) : ∀ s : State,
    { l.foldl (fun s w => s.seedWrite f n (8 * w) z) s with seedbed := s.seedbed } = s := by
  induction l with
  | nil => exact fun _ => rfl
  | cons a l ih => exact fun s => (congrArg (fun t : State => { t with seedbed := s.seedbed }) (ih (s.seedWrite f n (8 * a) z)) :)

/-- R169: words lost from the seedbed leave the furrows alone. -/
theorem furrows_operandLost (s : State) (f n : Nat) (o : MmaOp) (lost : List Nat) :
    (s.operandLost f n o lost).furrows = s.furrows := by
  have h : Same 8590983176 s (s.operandLost f n o lost) := State.operandLost_same (.refl _ s) rfl f n o lost
  exact h.furrows.resolve_left (by decide)

theorem operandLost_nil (s : State) (f n : Nat) (o : MmaOp) : s.operandLost f n o [] = s := rfl

/-! ### Weight banks -/

/-- R61: the product whose bank is filled next is the first with a pass that has none. -/
theorem fillTarget_eq {o : MmaOp} : ∀ {l : List MmaOp} {k : Nat} (i : Nat), l[k]? = some o → o.nextFill < o.total →
    (∀ p ∈ l.take k, p.total ≤ p.nextFill) → fillTarget l i = some (i + k, o)
  | [], k, i, h, _, _ => by simp at h
  | p :: l, 0, i, h, ho, _ => by
    obtain rfl : p = o := by simpa using h
    rw [fillTarget, if_pos ho]
    rfl
  | p :: l, k + 1, i, h, ho, ht => by
    have hp : p.total ≤ p.nextFill := ht p (by simp)
    have ih := fillTarget_eq (i + 1) (by simpa using h) ho fun q hq => ht q (by simp [hq])
    rw [fillTarget, if_neg (Nat.not_lt.mpr hp), ih, Nat.add_right_comm, Nat.add_assoc]

theorem markOvf_frame (l : List Nat) (x : FurrowSt) : { x.markOvf l with slots := x.slots } = x :=
  foldl_setSlot_frame (fun _ i => i) (fun a i => { a.slot i with ovf := true }) l x

/-- R61: the furrow with one more live bank, of product `k`. -/
def FurrowSt.withBank (x : FurrowSt) (b : Bank) (k : Nat) (o : MmaOp) : FurrowSt :=
  { x with banks := x.banks ++ [b], mmas := x.mmas.set k { o with nextFill := o.nextFill + 1 } }

theorem execWeightBankFilled_eq {f : Fin 4} {n : Fin 26} {lost : List Nat} {s : State} {k : Nat} {o : MmaOp}
    (hroom : (s.fur f n).banks.length < 2) (htgt : fillTarget (s.fur f n).mmas 0 = some (k, o)) :
    execWeightBankFilled f n lost s = .next ((s.operandLost f n o lost).setFur f n
      (if (fillBank (s.operandLost f n o lost) f n o o.nextFill).2 then
        ((s.fur f n).withBank (fillBank (s.operandLost f n o lost) f n o o.nextFill).1 k o).markOvf o.fp.slots
      else (s.fur f n).withBank (fillBank (s.operandLost f n o lost) f n o o.nextFill).1 k o)) := by
  unfold execWeightBankFilled
  dsimp only
  rw [if_neg (Nat.not_le.mpr hroom), htgt]
  rfl

/-! ### Array passes -/

/-- R90: the pass counters of two slots agree. -/
def Slot.SamePasses (a b : Slot) : Prop := b.q = a.q ∧ b.t = a.t ∧ b.p = a.p

theorem Slot.SamePasses.refl (a : Slot) : a.SamePasses a := ⟨rfl, rfl, rfl⟩

theorem Slot.SamePasses.trans {a b c : Slot} (h : a.SamePasses b) (k : b.SamePasses c) : a.SamePasses c :=
  ⟨k.1.trans h.1, k.2.1.trans h.2.1, k.2.2.trans h.2.2⟩

theorem Slot.samePasses_foldl {α : Type} {g : Slot → α → Slot} (hg : ∀ (x : Slot) a, x.SamePasses (g x a)) (l : List α) :
    ∀ x : Slot, x.SamePasses (l.foldl g x) := by
  induction l with
  | nil => exact fun x => .refl x
  | cons a l ih => exact fun x => (hg x a).trans (ih (g x a))

theorem Slot.samePasses_setReg (x : Slot) (lane : Bool) (k : Nat) (v : Word32) : x.SamePasses (x.setReg lane k v) := by
  unfold Slot.setReg
  cases lane with
  | true => exact ⟨rfl, rfl, rfl⟩
  | false => exact ⟨rfl, rfl, rfl⟩

theorem Slot.samePasses_enter (x : Slot) (clamp lane : Bool) (k : Nat) (v : Fv) : x.SamePasses (x.enter clamp lane k v) :=
  Slot.samePasses_foldl (g := fun a (e : Word32 × Nat) => a.setReg lane (k + e.2) e.1)
    (fun a e => a.samePasses_setReg lane (k + e.2) e.1) _ x

theorem samePasses_rowPass (o : MmaOp) (bank : Bank) (a : List (List Elem)) (row : Nat) (x : Slot) :
    x.SamePasses (rowPass o bank a row x) := by
  unfold rowPass
  refine Slot.SamePasses.trans ?_ (Slot.samePasses_foldl (fun y _ =>
    (y.samePasses_enter _ _ _ _).trans (Slot.samePasses_enter _ _ _ _ _)) _ _)
  exact Slot.samePasses_foldl (fun y _ => y.samePasses_enter _ _ _ _) _ x

/-- R62: how many slots the rows of a product take. -/
def MmaOp.slotCount (o : MmaOp) : Nat := ceilDiv o.m (if o.thin then 8 else 32)

theorem div_lt_ceilDiv {r m per : Nat} (hr : r < m) (hp : 0 < per) : r / per < ceilDiv m per := by
  unfold ceilDiv
  rw [Nat.div_lt_iff_lt_mul hp]
  have hmod := Nat.div_add_mod (m + per - 1) per
  have hlt := Nat.mod_lt (m + per - 1) hp
  rw [Nat.mul_comm] at hmod
  omega

/-- R90: from `x` to `y` only slots of the product `o` changed, and none of their pass counters. -/
structure RowsEntered (o : MmaOp) (x y : FurrowSt) : Prop where
  frame : { y with slots := x.slots } = x
  passes : ∀ k, (x.slot k).SamePasses (y.slot k)
  outside : ∀ k, k < o.slot ∨ o.slot + o.slotCount ≤ k → y.slot k = x.slot k

theorem rowsEntered_setSlot {o : MmaOp} {x y : FurrowSt} (h : RowsEntered o x y) {j : Nat} (hj : j < o.slotCount) {v : Slot}
    (hv : (y.slot (o.slot + j)).SamePasses v) : RowsEntered o x (y.setSlot (o.slot + j) v) := by
  refine ⟨h.frame, fun k => ?_, fun k hk => ?_⟩
  · by_cases hk : k = o.slot + j
    · subst hk
      rw [slot_setSlot_self]
      exact (h.passes _).trans hv
    · rw [slot_setSlot_ne _ _ hk]
      exact h.passes k
  · rw [slot_setSlot_ne _ _ (by omega), h.outside k hk]

theorem rowsEntered_foldl {o : MmaOp} {x : FurrowSt} {idx : Nat → Nat} {v : Nat → Slot → Slot} (l : List Nat)
    (hidx : ∀ r ∈ l, idx r < o.slotCount) (hv : ∀ r (sl : Slot), sl.SamePasses (v r sl)) : ∀ y, RowsEntered o x y →
    RowsEntered o x (l.foldl (fun fs r => fs.setSlot (o.slot + idx r) (v r (fs.slot (o.slot + idx r)))) y) := by
  induction l with
  | nil => exact fun _ h => h
  | cons r l ih =>
    intro y h
    exact ih (fun q hq => hidx q (List.mem_cons_of_mem r hq)) _
      (rowsEntered_setSlot h (hidx r List.mem_cons_self) (hv r _))

/-- R62, R90: the furrow once the results of a pass of `o` have entered its slots, before the slots count the pass. -/
def rowsIn (o : MmaOp) (bank : Bank) (blk : Nat → Nat → List Elem) (x : FurrowSt) : FurrowSt :=
  (List.range o.m).foldl (fun fs r => fs.setSlot (o.slot + r / if o.thin then 8 else 32)
    (rowPass o bank ((List.range 4).map fun b =>
      if 4 * (o.stepOf bank.pass).1 + b < o.kb then blk r (4 * (o.stepOf bank.pass).1 + b) else [])
        (r % if o.thin then 8 else 32) (fs.slot (o.slot + r / if o.thin then 8 else 32)))) x

theorem rowsEntered_rowsIn (o : MmaOp) (bank : Bank) (blk : Nat → Nat → List Elem) (x : FurrowSt) :
    RowsEntered o x (rowsIn o bank blk x) := by
  have hper : 0 < (if o.thin then 8 else 32) := by split <;> decide
  exact rowsEntered_foldl (idx := fun r => r / if o.thin then 8 else 32)
    (v := fun r sl => rowPass o bank ((List.range 4).map fun b =>
      if 4 * (o.stepOf bank.pass).1 + b < o.kb then blk r (4 * (o.stepOf bank.pass).1 + b) else [])
        (r % if o.thin then 8 else 32) sl) (List.range o.m)
    (fun r hr => div_lt_ceilDiv (List.mem_range.mp hr) hper) (fun r sl => samePasses_rowPass _ _ _ _ _) x
    ⟨rfl, fun k => .refl _, fun k _ => rfl⟩

/-- R62, R90: after a pass nothing but slots of the product changed. -/
theorem passRows_frame (o : MmaOp) (bank : Bank) (blk : Nat → Nat → List Elem) (x : FurrowSt) :
    { passRows o bank blk x with slots := x.slots } = x := by
  have hdone := foldl_setSlot_frame (fun _ i => o.slot + i) (fun fs i => (fs.slot (o.slot + i)).passDone)
    (List.range o.slotCount) (rowsIn o bank blk x)
  exact (congrArg (fun y : FurrowSt => { y with slots := x.slots }) hdone :).trans (rowsEntered_rowsIn o bank blk x).frame

/-- R62, R90: after a pass each slot of the product has counted it. -/
theorem slot_passRows (o : MmaOp) (bank : Bank) (blk : Nat → Nat → List Elem) (x : FurrowSt) (k : Nat) :
    (passRows o bank blk x).slot k =
      if o.slot ≤ k ∧ k < o.slot + o.slotCount then ((rowsIn o bank blk x).slot k).passDone else (rowsIn o bank blk x).slot k :=
  slot_foldl_setSlot (fun _ sl => sl.passDone) o.slot o.slotCount (rowsIn o bank blk x) k

theorem execArrayPassEnter_eq {f : Fin 4} {n : Fin 26} {lost : List Nat} {s : State} {o : MmaOp} {ops : List MmaOp} {b : Bank}
    {bs : List Bank} (hm : (s.fur f n).mmas = o :: ops) (hb : (s.fur f n).banks = b :: bs)
    (hoff : s.arraysOff f n o.arrays = false) :
    execArrayPassEnter f n lost s = .next ((s.operandLost f n o lost).setFur f n
      { runPass (s.operandLost f n o lost) f n o b with
        banks := bs
        mmas := if o.nextPass + 1 = o.total then ops else { o with nextPass := o.nextPass + 1 } :: ops }) := by
  unfold execArrayPassEnter
  dsimp only
  rw [hm, hb]
  dsimp only
  rw [hoff, if_neg Bool.false_ne_true]

/-- A furrow set on a state that has the furrows of `s`. -/
theorem fur_setFur_of {s u : State} (hc : s.Canon) (hu : u.furrows = s.furrows) (f : Fin 4) (n : Fin 26) (x : FurrowSt) :
    { u.setFur f n x with furrows := s.furrows } = u ∧ (u.setFur f n x).fur f n = x ∧
      ∀ (g : Fin 4) (m : Fin 26), (g, m) ≠ (f, n) → (u.setFur f n x).fur g m = s.fur g m := by
  refine ⟨?_, fur_setFur_self (hu ▸ hc.furrows) _ _ _, fun g m h => ?_⟩
  · rw [← hu]
    rfl
  · rw [fur_setFur_ne _ _ h]
    unfold State.fur
    rw [hu]

/-- Settles O8: a fill extends the banks and counts in its product; a pass enters its slots, which then count it. -/
theorem weightBanksAndPasses : Obligations.WeightBanksAndPasses := by
  refine ⟨fun f n lost s k o hcanon hroom hk hfill hbefore => ?_, fun f n lost s o ops b bs hcanon hm hb hoff => ?_⟩
  · have htgt : fillTarget (s.fur f n).mmas 0 = some (k, o) := by
      rw [fillTarget_eq 0 hk hfill hbefore, Nat.zero_add]
    have hexec := execWeightBankFilled_eq (lost := lost) hroom htgt
    generalize hu : s.operandLost f n o lost = u at hexec
    have hfur : u.furrows = s.furrows := hu ▸ furrows_operandLost s f n o lost
    generalize hy : (s.fur f n).withBank (fillBank u f n o o.nextFill).1 k o = y at hexec
    generalize hz : (if (fillBank u f n o o.nextFill).2 then y.markOvf o.fp.slots else y) = z at hexec
    have hzy : { z with slots := y.slots } = y := by
      rw [← hz]
      split
      · exact markOvf_frame _ _
      · rfl
    obtain ⟨hframe, hself, hothers⟩ := fur_setFur_of hcanon hfur f n z
    refine ⟨_, u, hexec, rfl, fun hl => ?_, hframe, ?_, rfl, ?_, ?_, ?_, ?_, hothers⟩
    · rw [← hu, hl, operandLost_nil]
    · rw [hself, (congrArg FurrowSt.banks hzy :), ← hy]
      rfl
    · rw [hself, (congrArg FurrowSt.mmas hzy :), ← hy]
      rfl
    · rw [hself, (congrArg FurrowSt.drns hzy :), ← hy]
      rfl
    · rw [hself, (congrArg FurrowSt.vops hzy :), ← hy]
      rfl
    · rw [hself, (congrArg FurrowSt.glns hzy :), ← hy]
      rfl
  · have hexec := execArrayPassEnter_eq (lost := lost) hm hb hoff
    have hfur := furrows_operandLost s f n o lost
    have hsame : (s.operandLost f n o lost).fur f n = s.fur f n := by
      unfold State.fur
      rw [hfur]
    have hpass : ∃ y, RowsEntered o (s.fur f n) y ∧
        { runPass (s.operandLost f n o lost) f n o b with slots := (s.fur f n).slots } = s.fur f n ∧
        ∀ k, (runPass (s.operandLost f n o lost) f n o b).slot k =
          if o.slot ≤ k ∧ k < o.slot + o.slotCount then (y.slot k).passDone else y.slot k := by
      unfold runPass
      rw [hsame]
      exact ⟨_, rowsEntered_rowsIn _ _ _ _, passRows_frame _ _ _ _, slot_passRows _ _ _ _⟩
    obtain ⟨y, hy, hrun, hslot⟩ := hpass
    obtain ⟨hframe, hself, hothers⟩ := fur_setFur_of hcanon hfur f n
      { runPass (s.operandLost f n o lost) f n o b with
        banks := bs
        mmas := if o.nextPass + 1 = o.total then ops else { o with nextPass := o.nextPass + 1 } :: ops }
    refine ⟨_, hexec, hframe, fun hl => ?_, ?_, ?_, ?_, ?_, ?_, fun k hk => ?_, fun k h1 h2 => ?_, hothers⟩
    · rw [hl, operandLost_nil]
    · rw [hself]
    · rw [hself]
    · rw [hself]
      exact (congrArg FurrowSt.drns hrun :)
    · rw [hself]
      exact (congrArg FurrowSt.vops hrun :)
    · rw [hself]
      exact (congrArg FurrowSt.glns hrun :)
    · rw [hself]
      refine (hslot k).trans ?_
      rw [if_neg (by unfold MmaOp.slotCount; omega), hy.outside k hk]
    · obtain ⟨hq, ht, hp⟩ := hy.passes k
      have hk := hslot k
      rw [if_pos ⟨h1, h2⟩] at hk
      rw [hself]
      refine ⟨?_, ?_, ?_⟩
      · exact (congrArg Slot.q hk :).trans (by rw [← hq]; rfl)
      · exact (congrArg Slot.t hk :).trans (by rw [← hq, ← ht]; rfl)
      · exact (congrArg Slot.p hk :).trans (by rw [← hp]; rfl)

end Sys2Proof.Machine


/-! Drains (R78, R83, R88, R95, R105, R106, R132, R143, R190): what a DRN leaves in its furrow and in the seedbed when it issues,
and what its retirement writes and reports. -/

namespace Sys2Proof.Machine

/-! ### Frames from masks -/

/-- The state `t` with the parts that the mask names taken back from `s`. -/
def State.restore (M : Nat) (s t : State) : State :=
  { pending := bif M.testBit 0 then s.pending else t.pending,
    freeCtr := bif M.testBit 1 then s.freeCtr else t.freeCtr,
    now := bif M.testBit 2 then s.now else t.now,
    regs := bif M.testBit 3 then s.regs else t.regs,
    rdLatch := bif M.testBit 4 then s.rdLatch else t.rdLatch,
    wrStage := bif M.testBit 5 then s.wrStage else t.wrStage,
    ifLatch := bif M.testBit 6 then s.ifLatch else t.ifLatch,
    rdata := bif M.testBit 7 then s.rdata else t.rdata,
    b2data := bif M.testBit 8 then s.b2data else t.b2data,
    hostMem := bif M.testBit 9 then s.hostMem else t.hostMem,
    msgs := bif M.testBit 10 then s.msgs else t.msgs,
    msixOn := bif M.testBit 11 then s.msixOn else t.msixOn,
    msixOpen := bif M.testBit 12 then s.msixOpen else t.msixOpen,
    msixPend := bif M.testBit 13 then s.msixPend else t.msixPend,
    funcMask := bif M.testBit 14 then s.funcMask else t.funcMask,
    hbm := bif M.testBit 15 then s.hbm else t.hbm,
    hbmBad := bif M.testBit 16 then s.hbmBad else t.hbmBad,
    clearing := bif M.testBit 17 then s.clearing else t.clearing,
    scrubAt := bif M.testBit 18 then s.scrubAt else t.scrubAt,
    sheaf := bif M.testBit 19 then s.sheaf else t.sheaf,
    seedbed := bif M.testBit 20 then s.seedbed else t.seedbed,
    glean := bif M.testBit 21 then s.glean else t.glean,
    furrows := bif M.testBit 22 then s.furrows else t.furrows,
    streams := bif M.testBit 23 then s.streams else t.streams,
    dma := bif M.testBit 24 then s.dma else t.dma,
    shadows := bif M.testBit 25 then s.shadows else t.shadows,
    sems := bif M.testBit 26 then s.sems else t.sems,
    barriers := bif M.testBit 27 then s.barriers else t.barriers,
    seqRuns := bif M.testBit 28 then s.seqRuns else t.seqRuns,
    ctxs := bif M.testBit 29 then s.ctxs else t.ctxs,
    regions := bif M.testBit 30 then s.regions else t.regions,
    coverage := bif M.testBit 31 then s.coverage else t.coverage,
    fences := bif M.testBit 32 then s.fences else t.fences,
    pairs := bif M.testBit 33 then s.pairs else t.pairs,
    fcolLog := bif M.testBit 34 then s.fcolLog else t.fcolLog,
    hangLog := bif M.testBit 35 then s.hangLog else t.hangLog,
    queues := bif M.testBit 36 then s.queues else t.queues,
    copies := bif M.testBit 37 then s.copies else t.copies,
    ports := bif M.testBit 38 then s.ports else t.ports,
    inbox := bif M.testBit 39 then s.inbox else t.inbox,
    engines := bif M.testBit 40 then s.engines else t.engines,
    serv := bif M.testBit 41 then s.serv else t.serv,
    flash := bif M.testBit 42 then s.flash else t.flash,
    fuses := bif M.testBit 43 then s.fuses else t.fuses,
    staged := bif M.testBit 44 then s.staged else t.staged,
    heldBack := bif M.testBit 45 then s.heldBack else t.heldBack,
    lastMma := bif M.testBit 46 then s.lastMma else t.lastMma,
    sec := bif M.testBit 47 then s.sec else t.sec,
    pwr := bif M.testBit 48 then s.pwr else t.pwr,
    clk := bif M.testBit 49 then s.clk else t.clk,
    mg := bif M.testBit 50 then s.mg else t.mg,
    pins := bif M.testBit 51 then s.pins else t.pins,
    vfs := bif M.testBit 52 then s.vfs else t.vfs,
    bar2Pf := bif M.testBit 53 then s.bar2Pf else t.bar2Pf,
    bar2Vf := bif M.testBit 54 then s.bar2Vf else t.bar2Vf,
    qmLast := bif M.testBit 55 then s.qmLast else t.qmLast }

theorem cond_restore {α : Type} {b : Bool} {x y : α} (h : b = true ∨ y = x) : (bif b then x else y) = x := by
  obtain rfl | rfl := h
  · rfl
  · exact Bool.cond_self b y

/-- A state that differs from `s` in the parts of the mask alone is `s` once they are taken back. -/
theorem Same.frame {M : Nat} {s t : State} (h : Same M s t) : State.restore M s t = s := by
  unfold State.restore
  rw [cond_restore h.pending,
    cond_restore h.freeCtr,
    cond_restore h.now,
    cond_restore h.regs,
    cond_restore h.rdLatch,
    cond_restore h.wrStage,
    cond_restore h.ifLatch,
    cond_restore h.rdata,
    cond_restore h.b2data,
    cond_restore h.hostMem,
    cond_restore h.msgs,
    cond_restore h.msixOn,
    cond_restore h.msixOpen,
    cond_restore h.msixPend,
    cond_restore h.funcMask,
    cond_restore h.hbm,
    cond_restore h.hbmBad,
    cond_restore h.clearing,
    cond_restore h.scrubAt,
    cond_restore h.sheaf,
    cond_restore h.seedbed,
    cond_restore h.glean,
    cond_restore h.furrows,
    cond_restore h.streams,
    cond_restore h.dma,
    cond_restore h.shadows,
    cond_restore h.sems,
    cond_restore h.barriers,
    cond_restore h.seqRuns,
    cond_restore h.ctxs,
    cond_restore h.regions,
    cond_restore h.coverage,
    cond_restore h.fences,
    cond_restore h.pairs,
    cond_restore h.fcolLog,
    cond_restore h.hangLog,
    cond_restore h.queues,
    cond_restore h.copies,
    cond_restore h.ports,
    cond_restore h.inbox,
    cond_restore h.engines,
    cond_restore h.serv,
    cond_restore h.flash,
    cond_restore h.fuses,
    cond_restore h.staged,
    cond_restore h.heldBack,
    cond_restore h.lastMma,
    cond_restore h.sec,
    cond_restore h.pwr,
    cond_restore h.clk,
    cond_restore h.mg,
    cond_restore h.pins,
    cond_restore h.vfs,
    cond_restore h.bar2Pf,
    cond_restore h.bar2Vf,
    cond_restore h.qmLast]

/-! ### Values that the departure of a head leaves alone -/

theorem low_ne_issued {a : Nat} (h : a < 0x1000000) (f n : Nat) : a ≠ A.FUR_ISSUED f n := by
  unfold A.FUR_ISSUED Page.furrowBase Page.fieldBase
  omega

section
variable {s : State} (hc : s.Canon) {i : StreamId} (h : s.NextSound (atOf i))
include hc h

theorem rf_advance_low {l : Loc} (hl : l.addr < 0x1000000) : (s.advance (atOf i)).rf l = s.rf l :=
  rf_advance hc.streams h (low_ne_issued hl _ _)

theorem acqBase_advance : (s.advance (atOf i)).rf (R.FLD_ACQ_BASE i.ctx i.field) = s.rf (R.FLD_ACQ_BASE i.ctx i.field) :=
  rf_advance_low hc h (by
    show A.FLD_ACQ i.ctx i.field < 0x1000000
    unfold A.FLD_ACQ Page.contextBase
    omega)

theorem seedBase_advance : (s.advance (atOf i)).seedBase i.field i.ctx = s.seedBase i.field i.ctx :=
  congrArg (65536 * ·) (rf_advance_low hc h (by
    show A.FLD_SBQ i.ctx i.field < 0x1000000
    unfold A.FLD_SBQ Page.contextBase
    omega))

theorem stepOf_advance : (s.advance (atOf i)).stepOf i.ctx = s.stepOf i.ctx :=
  rf_advance_low hc h (by
    show A.CMT_CCUR i.ctx < 0x1000000
    unfold A.CMT_CCUR Page.commitBase
    omega)

theorem clampOf_advance : (s.advance (atOf i)).clampOf i.ctx = s.clampOf i.ctx :=
  congrArg (· == 2) (rf_advance_low hc h (by
    show A.CMT_CSTAT i.ctx < 0x1000000
    unfold A.CMT_CSTAT Page.commitBase
    omega))

theorem tolerance_advance : (s.advance (atOf i)).rf (R.FUR_CHK_CTRL_TOL_MULT i.field i.furrow) =
    s.rf (R.FUR_CHK_CTRL_TOL_MULT i.field i.furrow) :=
  rf_advance hc.streams h (by
    show A.FUR_CHK_CTRL i.field i.furrow ≠ A.FUR_ISSUED i.field i.furrow
    unfold A.FUR_CHK_CTRL A.FUR_ISSUED
    omega)

theorem ctx_advance (c : Nat) : (s.advance (atOf i)).ctx c = s.ctx c := by
  have hctxs : (s.advance (atOf i)).ctxs = s.ctxs := (congrArg State.ctxs (advance_frame hc.streams h) :)
  unfold State.ctx
  rw [hctxs]

theorem ownerAt_advance : (s.advance (atOf i)).ownerAt (atOf i) = s.ownerAt (atOf i) := by
  have hstep : (s.advance (atOf i)).stepOf (atOf i).c = s.stepOf (atOf i).c := stepOf_advance hc h
  have hcur : ((s.advance (atOf i)).st (atOf i)).cur = (s.st (atOf i)).cur := by
    rw [st_advance hc.streams h]
    rfl
  unfold State.ownerAt
  rw [hcur, hstep]

end

/-! ### Bytes written one after the other -/

/-- The seedbed after a list of writes depends on the seedbed before it alone. -/
theorem seedbed_foldl_seedWrite (f n base : Nat) (l : List (Nat × List Byte)) : ∀ s : State,
    (l.foldl (fun s e => s.seedWrite f n (base + e.1) e.2) s).seedbed =
      l.foldl (fun m e => m.writeN unit64K (furKey f n * seedSize + (base + e.1)) e.2) s.seedbed := by
  induction l with
  | nil => exact fun _ => rfl
  | cons e l ih => exact fun s => ih (s.seedWrite f n (base + e.1) e.2)

theorem foldl_seedWrites_frame (f n base : Nat) (l : List (Nat × List Byte)) : ∀ s : State,
    { l.foldl (fun s e => s.seedWrite f n (base + e.1) e.2) s with seedbed := s.seedbed } = s := by
  induction l with
  | nil => exact fun _ => rfl
  | cons e l ih =>
    exact fun s => (congrArg (fun t : State => { t with seedbed := s.seedbed }) (ih (s.seedWrite f n (base + e.1) e.2)) :)

/-- A byte outside every range written keeps its value. -/
theorem read_foldl_seedWrite_out (f n base : Nat) {a : Nat} : ∀ (l : List (Nat × List Byte)) (s : State),
    (∀ e ∈ l, a < furKey f n * seedSize + (base + e.1) ∨ furKey f n * seedSize + (base + e.1) + e.2.length ≤ a) →
    (l.foldl (fun s e => s.seedWrite f n (base + e.1) e.2) s).seedbed.read unit64K a = s.seedbed.read unit64K a
  | [], _, _ => rfl
  | e :: l, s, h =>
    (read_foldl_seedWrite_out f n base l (s.seedWrite f n (base + e.1) e.2) fun x hx => h x (List.mem_cons_of_mem e hx)).trans
      (seedbed_seedWrite_out s f n (base + e.1) e.2 (h e List.mem_cons_self))

/-! ### DRN at issue -/

/-- R95: what the stages of the drain `x` of stream `i` compute. -/
def State.drnResult (s : State) (i : StreamId) (x : DrnFields) (d : List Byte) (phys : Nat) : DrnResult :=
  drainAll ⟨s.advance (atOf i), i.field, i.furrow, s.seedBase i.field i.ctx, d, x, (s.fur i.field i.furrow).slot phys⟩
    (s.clampOf i.ctx) (s.ctx i.ctx).latch.arith
    (if x.sr then some ⟨(s.ctx i.ctx).latch.k0, (s.ctx i.ctx).latch.k1, BitVec.ofNat 32 (s.stepOf i.ctx),
      BitVec.ofNat 32 x.tile, BitVec.ofNat 32 x.tag⟩ else none)
    (s.rf (R.FUR_CHK_CTRL_TOL_MULT i.field i.furrow))

/-- R190: the discard rule of the step drops the drain. -/
def State.drnDropped (s : State) (i : StreamId) (x : DrnFields) (d : List Byte) (phys : Nat) : Bool :=
  discardedDrain (s.ctx i.ctx).latch x d ((s.fur i.field i.furrow).slot phys).m ((s.fur i.field i.furrow).slot phys).n

/-- R88, R105: the drain that joins the drains of the furrow, with the result `r`. -/
def State.drnOp (s : State) (i : StreamId) (x : DrnFields) (d : List Byte) (fp : Footprint) (phys : Nat) (r : DrnResult) : DrnOp :=
  { owner := s.ownerAt (atOf i), slot := phys, named := x.slot,
    rec? := if x.record && !s.drnDropped i x d phys then
        some (s.seedBase i.field i.ctx + 32 * descAddr d 52, drainRecord x r (s.stepOf i.ctx)
          ((s.fur i.field i.furrow).slot phys) (((s.fur i.field i.furrow).slot phys).ovf || r.ovf)) else none,
    counts := r.counts, failMask := maskOf r.fail, skipMask := maskOf r.skip,
    thin := ((s.fur i.field i.furrow).slot phys).thin, sumsq := x.sumsq, q := r.q,
    discarded := s.drnDropped i x d phys, fp := fp }

/-- R88, R143: the furrow with the drain `o` joined and its slot's forces taken. -/
def FurrowSt.joinDrain (x : FurrowSt) (o : DrnOp) (ovf : Bool) : FurrowSt :=
  { x.setSlot o.slot { x.slot o.slot with ovf := ovf, forces := [] } with drns := x.drns ++ [o] }

theorem startDrain_advance {s : State} (hc : s.Canon) {i : StreamId} (h : s.NextSound (atOf i)) (x : DrnFields) (d : List Byte)
    (fp : Footprint) {phys : Nat} (hphys : phys = s.rf (R.FLD_ACQ_BASE i.ctx i.field) + x.slot) {r : DrnResult}
    (hr : r = s.drnResult i x d phys) :
    (s.advance (atOf i)).startDrain (atOf i) x d fp =
      if s.drnDropped i x d phys then (s.advance (atOf i)).setFur i.field i.furrow ((s.fur i.field i.furrow).joinDrain
        (s.drnOp i x d fp phys r) (((s.fur i.field i.furrow).slot phys).ovf || r.ovf))
      else r.writes.foldl (fun t e => t.seedWrite i.field i.furrow (s.seedBase i.field i.ctx + e.1) e.2)
        ((s.advance (atOf i)).setFur i.field i.furrow ((s.fur i.field i.furrow).joinDrain
          (s.drnOp i x d fp phys r) (((s.fur i.field i.furrow).slot phys).ovf || r.ovf))) := by
  subst hphys hr
  have e1 : (s.advance (atOf i)).rf (R.FLD_ACQ_BASE (atOf i).c (atOf i).f) = s.rf (R.FLD_ACQ_BASE i.ctx i.field) :=
    acqBase_advance hc h
  have e2 : (s.advance (atOf i)).seedBase (atOf i).f (atOf i).c = s.seedBase i.field i.ctx := seedBase_advance hc h
  have e3 : (s.advance (atOf i)).stepOf (atOf i).c = s.stepOf i.ctx := stepOf_advance hc h
  have e4 : (s.advance (atOf i)).clampOf (atOf i).c = s.clampOf i.ctx := clampOf_advance hc h
  have e5 : (s.advance (atOf i)).rf (R.FUR_CHK_CTRL_TOL_MULT (atOf i).f (atOf i).n) =
      s.rf (R.FUR_CHK_CTRL_TOL_MULT i.field i.furrow) := tolerance_advance hc h
  have e6 : (s.advance (atOf i)).ctx (atOf i).c = s.ctx i.ctx := ctx_advance hc h i.ctx
  have e7 : (s.advance (atOf i)).fur (atOf i).f (atOf i).n = s.fur i.field i.furrow := fur_advance hc.streams h _ _
  unfold State.startDrain
  dsimp only
  rw [e1, e2, e3, e4, e5, e6, e7, ownerAt_advance hc h]
  rfl

theorem compareLater_frame (s : State) (p : At) (e : Option Nat) (slot opcode coord : Nat) :
    { s.compareLater p e slot opcode coord with shadows := s.shadows } = s := by
  unfold State.compareLater
  split
  · rfl
  · split
    · rfl
    · rfl

theorem State.MayDrn.runs {s : State} {i : StreamId} {w : InstrWord} (h : s.MayDrn i w) :
    issueDrn i w s = ((s.advance (atOf i)).startDrain (atOf i) (drnFields w) (s.drnDesc (atOf i) (drnFields w))
      (s.drnFp (atOf i) (drnFields w))).compareLater (atOf i) (s.drnSlot (atOf i) (drnFields w)).shadow (drnFields w).slot 0x28
        (drnFields w).tile := by
  unfold issueDrn
  exact h.head.issue_eq h.ready h.legal _ _

/-- R88, R95: from `s` to `t` the drain has started: its furrow, and the seedbed with its outputs or, discarded, without. -/
structure State.DrainIn (s t : State) (i : StreamId) (phys : Nat) (o : DrnOp) (r : DrnResult) : Prop where
  issued : s.Issued t i
  frame : { t with
    regs := s.regs, streams := s.streams, furrows := s.furrows, seedbed := s.seedbed, shadows := s.shadows } = s
  self : t.fur i.field i.furrow = (s.fur i.field i.furrow).joinDrain o (((s.fur i.field i.furrow).slot phys).ovf || r.ovf)
  others : ∀ (f : Fin 4) (n : Fin 26), (f, n) ≠ (i.field, i.furrow) → t.fur f n = s.fur f n
  dropped : o.discarded = true → t.seedbed = s.seedbed
  written : o.discarded = false → t.seedbed =
    (r.writes.foldl (fun t e => t.seedWrite i.field i.furrow (s.seedBase i.field i.ctx + e.1) e.2) s).seedbed

theorem State.MayDrn.drainIn {s : State} (hc : s.Canon) {i : StreamId} {w : InstrWord} (h : s.MayDrn i w) {x : DrnFields}
    (hx : x = drnFields w) {r : DrnResult} (hr : r = s.drnResult i x (s.drnDesc (atOf i) x) (s.drnPhys i w)) :
    s.DrainIn (issueDrn i w s) i (s.drnPhys i w)
      (s.drnOp i x (s.drnDesc (atOf i) x) (s.drnFp (atOf i) x) (s.drnPhys i w) r) r := by
  subst hx
  have hfur : (s.advance (atOf i)).furrows = s.furrows := furrows_advance hc.streams h.head.next
  have hseed : (s.advance (atOf i)).seedbed = s.seedbed := seedbed_advance hc.streams h.head.next
  obtain ⟨-, hself, hothers⟩ := fur_setFur_of hc hfur i.field i.furrow ((s.fur i.field i.furrow).joinDrain
    (s.drnOp i (drnFields w) (s.drnDesc (atOf i) (drnFields w)) (s.drnFp (atOf i) (drnFields w)) (s.drnPhys i w) r)
      (((s.fur i.field i.furrow).slot (s.drnPhys i w)).ovf || r.ovf))
  have hissued := issued_advance hc h.head.next
  have hadv := advance_frame hc.streams h.head.next
  rw [h.runs, startDrain_advance hc h.head.next _ _ _ (phys := s.drnPhys i w) rfl hr]
  generalize hv : (s.advance (atOf i)).setFur i.field i.furrow _ = v at hself hothers ⊢
  have hvF : { v with regs := s.regs, streams := s.streams, furrows := s.furrows } = s := by
    rw [← hv]
    exact (congrArg (fun t : State => { t with furrows := s.furrows }) hadv :)
  have hvS : v.seedbed = s.seedbed := (congrArg State.seedbed hvF :)
  generalize hy : (if s.drnDropped i (drnFields w) (s.drnDesc (atOf i) (drnFields w)) (s.drnPhys i w) = true then v else
    r.writes.foldl (fun t e => t.seedWrite i.field i.furrow (s.seedBase i.field i.ctx + e.1) e.2) v) = y
  have hyF : { y with seedbed := v.seedbed } = v := by
    rw [← hy]
    split
    · rfl
    · exact foldl_seedWrites_frame _ _ _ _ v
  have hcmp := compareLater_frame y (atOf i) (s.drnSlot (atOf i) (drnFields w)).shadow (drnFields w).slot 0x28 (drnFields w).tile
  generalize y.compareLater _ _ _ _ _ = t at hcmp ⊢
  have hregs : t.regs = v.regs := (congrArg State.regs hcmp :).trans (congrArg State.regs hyF :)
  have hstreams : t.streams = v.streams := (congrArg State.streams hcmp :).trans (congrArg State.streams hyF :)
  have hfurs : t.furrows = v.furrows := (congrArg State.furrows hcmp :).trans (congrArg State.furrows hyF :)
  have hseeds : t.seedbed = y.seedbed := (congrArg State.seedbed hcmp :)
  have hfurEq : ∀ f n, t.fur f n = v.fur f n := fun f n => by unfold State.fur; rw [hfurs]
  refine ⟨hissued.of_parts (hregs.trans ?_) (hstreams.trans ?_), ?_, ?_, fun f n hne => ?_, fun hd => ?_, fun hd => ?_⟩
  · rw [← hv]
    rfl
  · rw [← hv]
    rfl
  · have h1 := (congrArg (fun t : State => { t with
      regs := s.regs, streams := s.streams, furrows := s.furrows, seedbed := s.seedbed, shadows := s.shadows }) hcmp :)
    have h2 := (congrArg (fun t : State => { t with
      regs := s.regs, streams := s.streams, furrows := s.furrows, seedbed := s.seedbed, shadows := s.shadows }) hyF :)
    exact h1.trans (h2.trans (congrArg (fun t : State => { t with seedbed := s.seedbed, shadows := s.shadows }) hvF :))
  · rw [hfurEq, hself]
  · rw [hfurEq, hothers f n hne]
  · have hd : s.drnDropped i (drnFields w) (s.drnDesc (atOf i) (drnFields w)) (s.drnPhys i w) = true := hd
    rw [hseeds, ← hy, if_pos hd, hvS]
  · have hd : s.drnDropped i (drnFields w) (s.drnDesc (atOf i) (drnFields w)) (s.drnPhys i w) = false := hd
    rw [hseeds, ← hy, if_neg (Bool.eq_false_iff.mp hd), seedbed_foldl_seedWrite, seedbed_foldl_seedWrite, hvS]

/-- Settles O9: `DrainIn` says what a DRN leaves. That every operand is read from the state before the drain, and the order in
which its writes follow each other, is the model's choice (log 95). -/
theorem drainIssues : Obligations.DrainIssues := by
  intro i body s u w x r base hcanon hw hmay hx hu hbase hr
  subst hw hu hbase
  have hr : r = s.drnResult i x (s.drnDesc (atOf i) x) (s.drnPhys i (tileWord 0x28 body)) := hr
  obtain ⟨hissued, hframe, hself, hothers, hdropped, hwritten⟩ := hmay.drainIn hcanon hx hr
  refine ⟨_, s.drnOp i x (s.drnDesc (atOf i) x) (s.drnFp (atOf i) x) (s.drnPhys i (tileWord 0x28 body)) r,
    hmay.head.exec_eq rfl, hissued, hframe, ?_, rfl, rfl, rfl, rfl, rfl, rfl, ?_, ?_, fun k hk => ?_, hothers, rfl, ?_, ?_,
    hdropped, hwritten, fun a ha => ?_⟩
  · rw [hself]
    rfl
  · rw [hself]
    rfl
  · rw [hself]
    exact congrArg Slot.forces (slot_setSlot_self (s.fur i.field i.furrow) _ _)
  · rw [hself]
    exact slot_setSlot_ne (s.fur i.field i.furrow) _ hk
  · show (if x.record && !_ then _ else none) = _
    simp only [Bool.and_eq_true, Bool.not_eq_true']
    rfl
  · rw [hself]
    exact congrArg Slot.ovf (slot_setSlot_self (s.fur i.field i.furrow) _ _)
  · cases hd : s.drnDropped i x (s.drnDesc (atOf i) x) (s.drnPhys i (tileWord 0x28 body)) with
    | true => rw [hdropped hd]
    | false => rw [hwritten hd, read_foldl_seedWrite_out _ _ _ _ _ ha]

/-! ### Retirement -/

/-- A record is all of what a drain leaves in the seedbed at its retirement. -/
theorem putRecord_frame (s : State) (f n : Nat) (o : DrnOp) : { s.putRecord f n o with seedbed := s.seedbed } = s := by
  unfold State.putRecord
  split
  · rfl
  · rfl

theorem addSquares_frame (s : State) (f n : Nat) (o : DrnOp) :
    { s.addSquares f n o with ctxs := s.ctxs, streams := s.streams } = s := by
  unfold State.addSquares
  split
  · rfl
  · rfl

theorem totals_addSquares {s : State} (h : Store.Sorted s.ctxs) (f n : Nat) (o : DrnOp) (c : Nat) :
    ((s.addSquares f n o).ctx c).totals = (s.ctx c).totals := by
  unfold State.addSquares
  split
  · show ((s.addGradNf o.owner.ctx o.counts).ctx c).totals = _
    unfold State.addGradNf
    by_cases e : c = o.owner.ctx
    · rw [e, ctx_setCtx_self h]
    · rw [ctx_setCtx_ne s _ e]
  · rfl

theorem countDrain_frame (s : State) (f n : Nat) (o : DrnOp) : { s.countDrain f n o with regs := s.regs } = s :=
  frame_regs (bump_frame _ _ _) (bump_frame _ _ _)

theorem countDrain_count {s : State} (h : Store.Sorted s.regs) (f n : Nat) (o : DrnOp) :
    (s.countDrain f n o).rf (R.FUR_DRN_COUNT_COUNT f n) = satAdd32 (s.rf (R.FUR_DRN_COUNT_COUNT f n)) 1 := by
  unfold State.countDrain
  rw [rf_bump_addr, rf_bump_self h (Nat.le_of_ble_eq_true rfl)]
  · exact satAdd32_mod _ _
  · show A.FUR_DRN_COUNT f n ≠ A.FUR_DRN_SKIP f n
    unfold A.FUR_DRN_COUNT A.FUR_DRN_SKIP
    omega

/-- The furrow with the oldest drain gone and its masks kept (R143). -/
def FurrowSt.masked (x : FurrowSt) (o : DrnOp) (rest : List DrnOp) : FurrowSt :=
  { x.setSlot o.slot { x.slot o.slot with failMask := o.failMask, skipMask := o.skipMask, drainStep := o.owner.step } with
    drns := rest }

theorem slot_masked_self (x : FurrowSt) (o : DrnOp) (rest : List DrnOp) : (x.masked o rest).slot o.slot =
    { x.slot o.slot with failMask := o.failMask, skipMask := o.skipMask, drainStep := o.owner.step } :=
  slot_setSlot_self x o.slot _

theorem slot_masked_ne (x : FurrowSt) (o : DrnOp) (rest : List DrnOp) {k : Nat} (h : k ≠ o.slot) :
    (x.masked o rest).slot k = x.slot k := slot_setSlot_ne x _ h

/-- Everything that a retirement leaves before its failed checks are reported (R105, R106, R143). -/
structure State.DrainClosed (s u : State) (f : Fin 4) (n : Fin 26) (o : DrnOp) (rest : List DrnOp) : Prop where
  frame : { u with regs := s.regs, furrows := s.furrows, ctxs := s.ctxs, streams := s.streams, seedbed := s.seedbed } = s
  self : u.fur f n = (s.fur f n).masked o rest
  others : ∀ (g : Fin 4) (m : Fin 26), (g, m) ≠ (f, n) → u.fur g m = s.fur g m
  seedbed : u.seedbed = ((s.keepMasks f n o rest).putRecord f n o).seedbed
  totals : (u.ctx o.owner.ctx).totals = (s.ctx o.owner.ctx).totals.add o.counts
  count : u.rf (R.FUR_DRN_COUNT_COUNT f n) = satAdd32 (s.rf (R.FUR_DRN_COUNT_COUNT f n)) 1

theorem drainClosed {s : State} (hc : s.Canon) (f : Fin 4) (n : Fin 26) (o : DrnOp) (rest : List DrnOp) :
    s.DrainClosed (s.closeDrain f n o rest) f n o rest := by
  obtain ⟨-, hself, hothers⟩ := fur_setFur_of hc (u := s) rfl f n ((s.fur f n).masked o rest)
  unfold State.closeDrain
  have hk : s.keepMasks f n o rest = s.setFur f n ((s.fur f n).masked o rest) := rfl
  have hkF : { s.keepMasks f n o rest with furrows := s.furrows } = s := rfl
  rw [← hk] at hself hothers
  generalize hkE : s.keepMasks f n o rest = k at hkF hself hothers ⊢
  have hp := putRecord_frame k f n o
  generalize hpE : k.putRecord f n o = p at hp ⊢
  have hpC : p.ctxs = s.ctxs := (congrArg State.ctxs hp :).trans (congrArg State.ctxs hkF :)
  have hpR : p.regs = s.regs := (congrArg State.regs hp :).trans (congrArg State.regs hkF :)
  have hpSorted : Store.Sorted p.ctxs := by rw [hpC]; exact hc.ctxs
  have ht : ((p.addTotals o.owner.ctx o.counts).ctx o.owner.ctx).totals = (s.ctx o.owner.ctx).totals.add o.counts := by
    unfold State.addTotals
    rw [ctx_setCtx_self hpSorted]
    unfold State.ctx
    rw [hpC]
  have htF : { p.addTotals o.owner.ctx o.counts with ctxs := p.ctxs } = p := rfl
  have htSorted : Store.Sorted (p.addTotals o.owner.ctx o.counts).ctxs := sorted_sputD hpSorted _ _ _
  generalize p.addTotals o.owner.ctx o.counts = t at ht htF htSorted ⊢
  have ha := addSquares_frame t f n o
  have haT := totals_addSquares htSorted f n o o.owner.ctx
  generalize t.addSquares f n o = a at ha haT ⊢
  have haR : a.regs = s.regs := (congrArg State.regs ha :).trans ((congrArg State.regs htF :).trans hpR)
  have hfur : a.furrows = k.furrows := (congrArg State.furrows ha :).trans
    ((congrArg State.furrows htF :).trans (congrArg State.furrows hp :))
  have hu := countDrain_frame a f n o
  have huC := countDrain_count (by rw [haR]; exact hc.regs) f n o
  rw [rf_of_regs haR] at huC
  generalize a.countDrain f n o = u at hu huC ⊢
  have hfurEq : ∀ g m, u.fur g m = k.fur g m := fun g m => by
    unfold State.fur
    rw [(congrArg State.furrows hu :).trans hfur]
  have hctxEq : u.ctx o.owner.ctx = a.ctx o.owner.ctx := by
    unfold State.ctx
    rw [(congrArg State.ctxs hu :)]
  refine ⟨?_, (hfurEq f n).trans hself, fun g m h => (hfurEq g m).trans (hothers g m h), ?_, ?_, huC⟩
  · have h1 := (congrArg (fun t : State => { t with
      regs := s.regs, furrows := s.furrows, ctxs := s.ctxs, streams := s.streams, seedbed := s.seedbed }) ha :)
    have h2 := (congrArg (fun t : State => { t with
      regs := s.regs, furrows := s.furrows, ctxs := s.ctxs, streams := s.streams, seedbed := s.seedbed }) htF :)
    have h3 := (congrArg (fun t : State => { t with
      regs := s.regs, furrows := s.furrows, ctxs := s.ctxs, streams := s.streams, seedbed := s.seedbed }) hp :)
    have h0 := (congrArg (fun t : State => { t with
      regs := s.regs, furrows := s.furrows, ctxs := s.ctxs, streams := s.streams, seedbed := s.seedbed }) hu :)
    exact h0.trans <| h1.trans (h2.trans (h3.trans (congrArg (fun t : State => { t with
      regs := s.regs, ctxs := s.ctxs, streams := s.streams, seedbed := s.seedbed }) hkF :)))
  · rw [hkE, hpE]
    exact (congrArg State.seedbed hu :).trans ((congrArg State.seedbed ha :).trans (congrArg State.seedbed htF :))
  · rw [hctxEq]
    exact haT.trans ht

/-! ### A failed check is reported -/

/-- The word `FUR_CHK_FIRST` once a first check is recorded, whichever it is (R83). -/
theorem firstCheck_fields {s : State} (h : Store.Sorted s.regs) (f n : Nat) (o : DrnOp) (b : Nat) (hn : o.named < 64)
    (hx : o.owner.ctx < 64) :
    (s.firstCheck f n o b).rf (R.FUR_CHK_FIRST_VALID f n) = 1 ∧
    (s.firstCheck f n o b).rf (R.FUR_CHK_FIRST_SLOT f n) =
      (if s.rf (R.FUR_CHK_FIRST_VALID f n) = 1 then s.rf (R.FUR_CHK_FIRST_SLOT f n) else o.named) ∧
    (s.firstCheck f n o b).rf (R.FUR_CHK_FIRST_CTX f n) =
      (if s.rf (R.FUR_CHK_FIRST_VALID f n) = 1 then s.rf (R.FUR_CHK_FIRST_CTX f n) else o.owner.ctx) := by
  have hlt : s.rf (R.FUR_CHK_FIRST_VALID f n) < 2 := rf_lt s (R.FUR_CHK_FIRST_VALID f n)
  unfold State.firstCheck
  by_cases hv : s.rf (R.FUR_CHK_FIRST_VALID f n) = 1
  · rw [if_pos (by rw [State.flag, hv]; rfl), if_pos hv, if_pos hv]
    exact ⟨hv, rfl, rfl⟩
  · have h0 : s.rf (R.FUR_CHK_FIRST_VALID f n) = 0 := by omega
    rw [if_neg (by rw [State.flag, h0]; decide), if_neg hv, if_neg hv]
    have hstep : ∀ l : Loc, l.addr = A.FUR_CHK_FIRST f n → l.addr ≠ (R.FUR_CHK_STEP_STEP f n).addr := fun l hl => by
      rw [hl]
      show A.FUR_CHK_FIRST f n ≠ A.FUR_CHK_STEP f n
      unfold A.FUR_CHK_FIRST A.FUR_CHK_STEP
      omega
    rw [rf_wf_addr _ _ (hstep _ rfl), rf_wf_addr _ _ (hstep _ rfl), rf_wf_addr _ _ (hstep _ rfl)]
    have h1 := sorted_wf h (R.FUR_CHK_FIRST_SLOT f n) o.named
    have h2 := sorted_wf h1 (R.FUR_CHK_FIRST_ROW f n) (if o.thin then b % 8 else b)
    have h3 := sorted_wf h2 (R.FUR_CHK_FIRST_GROUP f n) (if o.thin then b / 8 else 0)
    have h4 := sorted_wf h3 (R.FUR_CHK_FIRST_THIN f n) (if o.thin then 1 else 0)
    have h5 := sorted_wf h4 (R.FUR_CHK_FIRST_CTX f n) o.owner.ctx
    refine ⟨rf_wf_self h5 (Nat.le_of_ble_eq_true rfl) 1, ?_, ?_⟩
    · rw [rf_wf_bits h5 _ (Nat.le_of_ble_eq_true rfl) (.inl (Nat.le_of_ble_eq_true rfl)), rf_wf_bits h4 _ (Nat.le_of_ble_eq_true rfl) (.inl (Nat.le_of_ble_eq_true rfl)),
        rf_wf_bits h3 _ (Nat.le_of_ble_eq_true rfl) (.inl (Nat.le_of_ble_eq_true rfl)), rf_wf_bits h2 _ (Nat.le_of_ble_eq_true rfl) (.inl (Nat.le_of_ble_eq_true rfl)),
        rf_wf_bits h1 _ (Nat.le_of_ble_eq_true rfl) (.inl (Nat.le_of_ble_eq_true rfl)), rf_wf_self h (Nat.le_of_ble_eq_true rfl)]
      exact Nat.mod_eq_of_lt hn
    · rw [rf_wf_bits h5 _ (Nat.le_of_ble_eq_true rfl) (.inl (Nat.le_of_ble_eq_true rfl)), rf_wf_self h4 (Nat.le_of_ble_eq_true rfl)]
      exact Nat.mod_eq_of_lt hx

theorem sorted_firstCheck {s : State} (h : Store.Sorted s.regs) (f n : Nat) (o : DrnOp) (b : Nat) :
    Store.Sorted (s.firstCheck f n o b).regs := by
  unfold State.firstCheck
  split
  · exact h
  · iterate 7 apply sorted_wf
    exact h

theorem firstCheck_frame (s : State) (f n : Nat) (o : DrnOp) (b : Nat) : { s.firstCheck f n o b with regs := s.regs } = s :=
  (State.firstCheck_same (.refl 8 s) rfl f n o b).frame

/-- Nothing but `FUR_CHK_FIRST` and `FUR_CHK_STEP` keeps a first check. -/
theorem firstCheck_reg (s : State) (f n : Nat) (o : DrnOp) (b : Nat) {a : Nat} (h : a ≠ A.FUR_CHK_FIRST f n)
    (hs : a ≠ A.FUR_CHK_STEP f n) : (s.firstCheck f n o b).reg a = s.reg a := by
  unfold State.firstCheck
  split
  · rfl
  · rw [reg_wf_ne _ _ (show a ≠ (R.FUR_CHK_STEP_STEP f n).addr from hs), reg_wf_ne _ _ (show a ≠ (R.FUR_CHK_FIRST_VALID f n).addr from h),
      reg_wf_ne _ _ (show a ≠ (R.FUR_CHK_FIRST_CTX f n).addr from h), reg_wf_ne _ _ (show a ≠ (R.FUR_CHK_FIRST_THIN f n).addr from h),
      reg_wf_ne _ _ (show a ≠ (R.FUR_CHK_FIRST_GROUP f n).addr from h), reg_wf_ne _ _ (show a ≠ (R.FUR_CHK_FIRST_ROW f n).addr from h),
      reg_wf_ne _ _ (show a ≠ (R.FUR_CHK_FIRST_SLOT f n).addr from h)]

/-- R294: a cause blocks the step that runs. -/
theorem cstate_blockCause {s : State} (h : Store.Sorted s.regs) (c b : Nat) (hr : s.cstate c = stRunning) :
    (s.blockCause c b).cstate c = stBlocked := by
  unfold State.blockCause
  rw [if_pos (by rw [hr]; rfl)]
  exact rf_wf_self (sorted_wf h _ _) (Nat.le_of_ble_eq_true rfl) _

/-- Outside the words of a furrow's checks, its error block and the commit state, a report leaves the registers alone. -/
theorem reportCheck_raised {s : State} (f n : Nat) (o : DrnOp) (b : Nat) (hx : o.owner.ctx < 64) {a : Nat} (hp : a < Page.furrowBase f n + 0x120)
    (hq : Page.furrowBase f n + 0x100 ≤ a) : (s.reportCheck f n o b).reg a =
      ((s.bump (R.FUR_CHK_FAILS_COUNT f n) 1).firstCheck f n o b).reg a := by
  unfold State.reportCheck
  rw [blockCause_reg, raiseFor_reg]
  · unfold A.ERR_STAT A.ERR_CNT A.ERR_FIRST
    omega
  · unfold A.CMT_CSTAT Page.commitBase
    unfold Page.furrowBase Page.fieldBase at hq
    omega

theorem cstate_reportCheck {s : State} (h : Store.Sorted s.regs) (f n : Nat) (o : DrnOp) (b : Nat) (hc : o.owner.ctx < 64)
    (hr : s.cstate o.owner.ctx = stRunning) : (s.reportCheck f n o b).cstate o.owner.ctx = stBlocked := by
  unfold State.reportCheck
  refine cstate_blockCause (sorted_raiseFor (sorted_firstCheck (sorted_bump h _ _) _ _ _ _) _ _ _) _ _ ?_
  refine Eq.trans (rf_congr ?_) hr
  show State.reg _ (A.CMT_CSTAT o.owner.ctx) = State.reg _ (A.CMT_CSTAT o.owner.ctx)
  have hlow : A.CMT_CSTAT o.owner.ctx < Page.furrowBase f n := by
    unfold A.CMT_CSTAT Page.commitBase Page.furrowBase Page.fieldBase
    omega
  rw [raiseFor_reg _ _ _ _ (by unfold A.ERR_STAT A.ERR_CNT A.ERR_FIRST; omega),
    firstCheck_reg _ _ _ _ _ (by unfold A.FUR_CHK_FIRST; omega) (by unfold A.FUR_CHK_STEP; omega),
    reg_bump_ne _ _ (show _ ≠ A.FUR_CHK_FAILS f n by unfold A.FUR_CHK_FAILS; omega)]

theorem fur_reportCheck (s : State) (f n : Nat) (o : DrnOp) (b : Nat) (g m : Nat) :
    (s.reportCheck f n o b).fur g m = s.fur g m := by
  have h := State.reportCheck_same (.refl 8589934600 s) rfl f n o b
  have h : (s.reportCheck f n o b).furrows = s.furrows := h.furrows.resolve_left (by decide)
  unfold State.fur
  rw [h]

theorem reportCheck_count {s : State} (h : Store.Sorted s.regs) (f n : Nat) (o : DrnOp) (b : Nat) (hx : o.owner.ctx < 64) :
    (s.reportCheck f n o b).rf (R.FUR_CHK_FAILS_COUNT f n) = satAdd32 (s.rf (R.FUR_CHK_FAILS_COUNT f n)) 1 := by
  have ha : A.FUR_CHK_FAILS f n = Page.furrowBase f n + 0x114 := rfl
  have e : (s.reportCheck f n o b).reg (A.FUR_CHK_FAILS f n) = (s.bump (R.FUR_CHK_FAILS_COUNT f n) 1).reg (A.FUR_CHK_FAILS f n) := by
    rw [reportCheck_raised f n o b hx (by omega) (by omega), firstCheck_reg]
    · unfold A.FUR_CHK_FIRST
      omega
    · unfold A.FUR_CHK_STEP
      omega
  refine (rf_congr e).trans ?_
  rw [rf_bump_self h (Nat.le_of_ble_eq_true rfl)]
  exact satAdd32_mod _ _

/-- Settles O10: `DrainClosed` is the retirement, `reportCheck` each failed check. That failed checks are reported in ascending
order, so that `FUR_CHK_FIRST` takes the lowest, is the model's choice (log 71). -/
theorem drainRetires : Obligations.DrainRetires := by
  refine ⟨fun f n s o rest hc hd => ?_, fun f n s o b hc _ hn hx => ?_⟩
  · obtain ⟨hframe, hself, hothers, hseed, htotals, hcount⟩ := drainClosed hc f n o rest
    have hexec : exec (.drainRetire f n) s = .next (s.retireDrain f n o rest) := by
      show execDrainRetire f n s = _
      unfold execDrainRetire
      rw [hd]
    refine ⟨_, s.closeDrain f n o rest, hexec, rfl, ?_, ?_, ?_, ?_, fun k hk => ?_, htotals, hcount, fun hr => ?_,
      fun a bs hr => ?_, hothers, hframe⟩
    · rw [hself]
      rfl
    · rw [hself, slot_masked_self]
    · rw [hself, slot_masked_self]
    · rw [hself, slot_masked_self]
    · rw [hself, slot_masked_ne _ _ _ hk]
    · rw [hseed, State.putRecord, hr]
      rfl
    · have h : (s.closeDrain f n o rest).seedbed = ((s.keepMasks f n o rest).seedWrite f n a bs).seedbed := by
        rw [hseed, State.putRecord, hr]
      show Memory.readN _ _ _ _ = _
      rw [h]
      exact seedRead_seedWrite_self (s := s.keepMasks f n o rest) hc.seedbed f n a bs
  · have ha : A.FUR_CHK_FIRST f n = Page.furrowBase f n + 0x118 := rfl
    have hb : A.FUR_CHK_FAILS f n = Page.furrowBase f n + 0x114 := rfl
    have hfirst : ∀ l : Loc, l.addr = A.FUR_CHK_FIRST f n → (s.reportCheck f n o b).rf l =
        ((s.bump (R.FUR_CHK_FAILS_COUNT f n) 1).firstCheck f n o b).rf l ∧
        (s.bump (R.FUR_CHK_FAILS_COUNT f n) 1).rf l = s.rf l := fun l hl =>
      ⟨rf_congr (reportCheck_raised f n o b hx (by omega) (by omega)),
        rf_bump_addr s 1 (show l.addr ≠ A.FUR_CHK_FAILS f n by omega)⟩
    obtain ⟨hvalid, hslot, hctx⟩ := firstCheck_fields (sorted_bump hc.regs (R.FUR_CHK_FAILS_COUNT f n) 1) f n o b hn hx
    rw [(hfirst (R.FUR_CHK_FIRST_VALID f n) rfl).2] at hslot hctx
    rw [(hfirst (R.FUR_CHK_FIRST_SLOT f n) rfl).2] at hslot
    rw [(hfirst (R.FUR_CHK_FIRST_CTX f n) rfl).2] at hctx
    exact ⟨reportCheck_count hc.regs f n o b hx, (hfirst _ rfl).1.trans hvalid, (hfirst _ rfl).1.trans hslot,
      (hfirst _ rfl).1.trans hctx, cstate_reportCheck hc.regs f n o b hx, fur_reportCheck s f n o b f n⟩

end Sys2Proof.Machine


/-! The vector operations, the optimiser entries and the gleaning operations (R54, R73, R114, R135, R136, R139 to R141, R182 to
R184, R191, R200 to R208). -/

namespace Sys2Proof.Machine

/-! ### Masks -/

theorem eq_of_cond {α : Type} {b : Bool} {x y : α} (h : (bif b then x else y) = x) : b = true ∨ y = x := by
  cases b with
  | true => exact .inl rfl
  | false => exact .inr h

theorem Same.of_frame {M : Nat} {s t : State} (h : State.restore M s t = s) : Same M s t :=
  ⟨eq_of_cond (congrArg State.pending h :), eq_of_cond (congrArg State.freeCtr h :), eq_of_cond (congrArg State.now h :),
    eq_of_cond (congrArg State.regs h :), eq_of_cond (congrArg State.rdLatch h :), eq_of_cond (congrArg State.wrStage h :),
    eq_of_cond (congrArg State.ifLatch h :), eq_of_cond (congrArg State.rdata h :), eq_of_cond (congrArg State.b2data h :),
    eq_of_cond (congrArg State.hostMem h :), eq_of_cond (congrArg State.msgs h :), eq_of_cond (congrArg State.msixOn h :),
    eq_of_cond (congrArg State.msixOpen h :), eq_of_cond (congrArg State.msixPend h :),
    eq_of_cond (congrArg State.funcMask h :), eq_of_cond (congrArg State.hbm h :), eq_of_cond (congrArg State.hbmBad h :),
    eq_of_cond (congrArg State.clearing h :), eq_of_cond (congrArg State.scrubAt h :), eq_of_cond (congrArg State.sheaf h :),
    eq_of_cond (congrArg State.seedbed h :), eq_of_cond (congrArg State.glean h :), eq_of_cond (congrArg State.furrows h :),
    eq_of_cond (congrArg State.streams h :), eq_of_cond (congrArg State.dma h :), eq_of_cond (congrArg State.shadows h :),
    eq_of_cond (congrArg State.sems h :), eq_of_cond (congrArg State.barriers h :), eq_of_cond (congrArg State.seqRuns h :),
    eq_of_cond (congrArg State.ctxs h :), eq_of_cond (congrArg State.regions h :), eq_of_cond (congrArg State.coverage h :),
    eq_of_cond (congrArg State.fences h :), eq_of_cond (congrArg State.pairs h :), eq_of_cond (congrArg State.fcolLog h :),
    eq_of_cond (congrArg State.hangLog h :), eq_of_cond (congrArg State.queues h :), eq_of_cond (congrArg State.copies h :),
    eq_of_cond (congrArg State.ports h :), eq_of_cond (congrArg State.inbox h :), eq_of_cond (congrArg State.engines h :),
    eq_of_cond (congrArg State.serv h :), eq_of_cond (congrArg State.flash h :), eq_of_cond (congrArg State.fuses h :),
    eq_of_cond (congrArg State.staged h :), eq_of_cond (congrArg State.heldBack h :), eq_of_cond (congrArg State.lastMma h :),
    eq_of_cond (congrArg State.sec h :), eq_of_cond (congrArg State.pwr h :), eq_of_cond (congrArg State.clk h :),
    eq_of_cond (congrArg State.mg h :), eq_of_cond (congrArg State.pins h :), eq_of_cond (congrArg State.vfs h :),
    eq_of_cond (congrArg State.bar2Pf h :), eq_of_cond (congrArg State.bar2Vf h :), eq_of_cond (congrArg State.qmLast h :)⟩

/-- Fewer parts changed, more are allowed to. -/
theorem Same.mono {M N : Nat} {s t : State} (h : Same M s t) (hM : M ||| N = N) : Same N s t :=
  ⟨h.pending.imp_left (sub_bit hM), h.freeCtr.imp_left (sub_bit hM), h.now.imp_left (sub_bit hM), h.regs.imp_left (sub_bit hM),
    h.rdLatch.imp_left (sub_bit hM), h.wrStage.imp_left (sub_bit hM), h.ifLatch.imp_left (sub_bit hM),
    h.rdata.imp_left (sub_bit hM), h.b2data.imp_left (sub_bit hM), h.hostMem.imp_left (sub_bit hM),
    h.msgs.imp_left (sub_bit hM), h.msixOn.imp_left (sub_bit hM), h.msixOpen.imp_left (sub_bit hM),
    h.msixPend.imp_left (sub_bit hM), h.funcMask.imp_left (sub_bit hM), h.hbm.imp_left (sub_bit hM),
    h.hbmBad.imp_left (sub_bit hM), h.clearing.imp_left (sub_bit hM), h.scrubAt.imp_left (sub_bit hM),
    h.sheaf.imp_left (sub_bit hM), h.seedbed.imp_left (sub_bit hM), h.glean.imp_left (sub_bit hM),
    h.furrows.imp_left (sub_bit hM), h.streams.imp_left (sub_bit hM), h.dma.imp_left (sub_bit hM),
    h.shadows.imp_left (sub_bit hM), h.sems.imp_left (sub_bit hM), h.barriers.imp_left (sub_bit hM),
    h.seqRuns.imp_left (sub_bit hM), h.ctxs.imp_left (sub_bit hM), h.regions.imp_left (sub_bit hM),
    h.coverage.imp_left (sub_bit hM), h.fences.imp_left (sub_bit hM), h.pairs.imp_left (sub_bit hM),
    h.fcolLog.imp_left (sub_bit hM), h.hangLog.imp_left (sub_bit hM), h.queues.imp_left (sub_bit hM),
    h.copies.imp_left (sub_bit hM), h.ports.imp_left (sub_bit hM), h.inbox.imp_left (sub_bit hM),
    h.engines.imp_left (sub_bit hM), h.serv.imp_left (sub_bit hM), h.flash.imp_left (sub_bit hM), h.fuses.imp_left (sub_bit hM),
    h.staged.imp_left (sub_bit hM), h.heldBack.imp_left (sub_bit hM), h.lastMma.imp_left (sub_bit hM),
    h.sec.imp_left (sub_bit hM), h.pwr.imp_left (sub_bit hM), h.clk.imp_left (sub_bit hM), h.mg.imp_left (sub_bit hM),
    h.pins.imp_left (sub_bit hM), h.vfs.imp_left (sub_bit hM), h.bar2Pf.imp_left (sub_bit hM), h.bar2Vf.imp_left (sub_bit hM),
    h.qmLast.imp_left (sub_bit hM)⟩

/-- The departure of a head changes registers and streams only. -/
theorem Same.advance {s : State} (hs : Store.Sorted s.streams) {p : At} (h : s.NextSound p) {M : Nat}
    (hM : 8388616 ||| M = M) : Same M s (s.advance p) :=
  (Same.of_frame (M := 8388616) (advance_frame hs h)).mono hM

/-! ### The vector unit -/

/-- The vector unit's queue with one operation more (R73). -/
def FurrowSt.pushed (x : FurrowSt) (o : UnitOp) : FurrowSt := { x with vops := x.vops ++ [o] }

theorem fur_pushVop {s u : State} (hc : s.Canon) (hu : u.furrows = s.furrows) (i : StreamId) (unit : Nat) (fp : Footprint)
    (k : Counts) :
    (u.pushVop (atOf i) unit fp k).fur i.field i.furrow =
      (s.fur i.field i.furrow).pushed ⟨u.ownerAt (atOf i), unit, fp, k⟩ ∧
    ∀ (f : Fin 4) (n : Fin 26), (f, n) ≠ (i.field, i.furrow) → (u.pushVop (atOf i) unit fp k).fur f n = s.fur f n := by
  have hfur : u.fur i.field i.furrow = s.fur i.field i.furrow := by
    unfold State.fur
    rw [hu]
  have hw : (if unit < 4 then u else u.wakeArrays i.field i.furrow (2 ^ (unit - 4))).furrows = s.furrows := by
    split
    · exact hu
    · exact hu
  obtain ⟨-, hself, hothers⟩ := fur_setFur_of hc hw i.field i.furrow
    ((u.fur i.field i.furrow).pushed ⟨u.ownerAt (atOf i), unit, fp, k⟩)
  refine ⟨hself.trans ?_, hothers⟩
  rw [hfur]

/-- R151, R408: after the head has left and effects that touch neither registers nor streams, the sampling of a vector
operation counts in its stream alone. -/
theorem issued_sampleVop {s v : State} (hc : s.Canon) {i : StreamId} (h : s.NextSound (atOf i))
    (hr : v.regs = (s.advance (atOf i)).regs) (hs : v.streams = (s.advance (atOf i)).streams) :
    s.Issued (v.sampleVop (atOf i)) i := by
  obtain ⟨hi, -, -⟩ := issued_mapSt hc h (fun x => { x with sampled := x.sampled + 1 }) (fun _ => rfl) (fun _ => rfl)
  have hcmp := compareLater_frame (v.sample (atOf i)).2 (atOf i) (v.sample (atOf i)).1 0 0x30 0
  have hst : v.st (atOf i) = (s.advance (atOf i)).st (atOf i) := by
    unfold State.st State.strm
    rw [hs]
  refine hi.of_parts ((congrArg State.regs hcmp :).trans hr) ((congrArg State.streams hcmp :).trans ?_)
  show (v.setSt (atOf i) { v.st (atOf i) with sampled := (v.st (atOf i)).sampled + 1 }).streams = _
  rw [hst]
  unfold State.setSt State.setStrm
  rw [hs]

theorem ctx_addTotals_self {s : State} (h : Store.Sorted s.ctxs) (c : Nat) (k : Counts) :
    ((s.addTotals c k).ctx c).totals = (s.ctx c).totals.add k := by
  unfold State.addTotals
  rw [ctx_setCtx_self h]

/-! ### Vector operations -/

theorem State.MayVop.runs {s : State} {i : StreamId} {w : InstrWord} (h : s.MayVop i w) :
    issueVop i w s = ((s.advance (atOf i)).startVop (atOf i) (vopFields w) (s.vopFp (atOf i) (vopFields w))).sampleVop (atOf i) := by
  unfold issueVop
  exact h.head.issue_eq h.ready h.legal _ _

/-- R140: the bytes of a result in the seedbed: its elements, and its scales where the format has them. -/
def State.putVop (s : State) (i : StreamId) (x : VopFields) (base : Nat) (r : List Nat × List Nat × List Outcome4) : State :=
  let s := s.seedWrite i.field i.furrow (base + 32 * x.dst) (packCodes x.df.width r.1)
  if x.df.isMx then s.seedWrite i.field i.furrow (base + x.scaleAt) (r.2.1.map (BitVec.ofNat 8)) else s

theorem putVop_frame (s : State) (i : StreamId) (x : VopFields) (base : Nat) (r : List Nat × List Nat × List Outcome4) :
    { s.putVop i x base r with seedbed := s.seedbed } = s := by
  unfold State.putVop
  split
  · rfl
  · rfl

theorem seedRead_putVop {s : State} (hs : s.seedbed.wf unit64K) (i : StreamId) (x : VopFields) (base : Nat)
    (r : List Nat × List Nat × List Outcome4) :
    (x.df.isMx = false → (s.putVop i x base r).seedRead i.field i.furrow (base + 32 * x.dst) (packCodes x.df.width r.1).length =
      packCodes x.df.width r.1) ∧
    (x.df.isMx = true → (s.putVop i x base r).seedRead i.field i.furrow (base + x.scaleAt) r.2.1.length =
      r.2.1.map (BitVec.ofNat 8)) := by
  unfold State.putVop
  refine ⟨fun hm => ?_, fun hm => ?_⟩
  · rw [if_neg (Bool.eq_false_iff.mp hm)]
    exact seedRead_seedWrite_self hs _ _ _ _
  · rw [if_pos hm]
    have h := seedRead_seedWrite_self
      (s := s.seedWrite i.field i.furrow (base + 32 * x.dst) (packCodes x.df.width r.1)) (Memory.wf_writeN _ _ hs) i.field i.furrow
      (base + x.scaleAt) (r.2.1.map (BitVec.ofNat 8))
    rwa [List.length_map] at h

theorem read_putVop_out (s : State) (i : StreamId) (x : VopFields) (base : Nat) (r : List Nat × List Nat × List Outcome4) {a : Nat}
    (hd : a < furKey i.field i.furrow * seedSize + (base + 32 * x.dst) ∨
      furKey i.field i.furrow * seedSize + (base + 32 * x.dst) + (packCodes x.df.width r.1).length ≤ a)
    (hm : x.df.isMx = true → a < furKey i.field i.furrow * seedSize + (base + x.scaleAt) ∨
      furKey i.field i.furrow * seedSize + (base + x.scaleAt) + r.2.1.length ≤ a) :
    (s.putVop i x base r).seedbed.read unit64K a = s.seedbed.read unit64K a := by
  unfold State.putVop
  split
  next hx =>
    exact (seedbed_seedWrite_out _ _ _ _ _ (by rw [List.length_map]; exact hm hx)).trans (seedbed_seedWrite_out _ _ _ _ _ hd)
  next => exact seedbed_seedWrite_out _ _ _ _ _ hd

/-- R140, R141: what a vector operation of some length does once its head has left. -/
theorem startVop_advance {s : State} (hc : s.Canon) {i : StreamId} (h : s.NextSound (atOf i)) {x : VopFields} (hx : x.count ≠ 0)
    (fp : Footprint) {r : List Nat × List Nat × List Outcome4}
    (hr : r = convertVec x.df (s.ctx i.ctx).latch.arith
      (if x.sr then some ⟨(s.ctx i.ctx).latch.k0, (s.ctx i.ctx).latch.k1, BitVec.ofNat 32 (s.stepOf i.ctx),
        BitVec.ofNat 32 x.tag, BitVec.ofNat 32 x.dst⟩ else none)
      (vopResults (s.advance (atOf i)) (atOf i) (s.seedBase i.field i.ctx) x)) :
    (s.advance (atOf i)).startVop (atOf i) x fp =
      (((s.advance (atOf i)).putVop i x (s.seedBase i.field i.ctx) r).addTotals i.ctx (countOutcomes r.2.2)).pushVop (atOf i)
        x.unit fp (countOutcomes r.2.2) := by
  subst hr
  have e2 : (s.advance (atOf i)).seedBase (atOf i).f (atOf i).c = s.seedBase i.field i.ctx := seedBase_advance hc h
  have e3 : (s.advance (atOf i)).stepOf (atOf i).c = s.stepOf i.ctx := stepOf_advance hc h
  have e6 : (s.advance (atOf i)).ctx (atOf i).c = s.ctx i.ctx := ctx_advance hc h i.ctx
  unfold State.startVop
  rw [if_neg hx]
  dsimp only
  rw [e2, e3, e6]
  rfl

/-- R114: the oldest operation of a unit, and the queue without it. -/
theorem find_oldest {unit : Nat} {o : UnitOp} (ho : o.unit = unit) (b : List UnitOp) : ∀ a : List UnitOp, (∀ p ∈ a, p.unit ≠ unit) →
    (a ++ o :: b).find? (fun o => o.unit == unit) = some o ∧ dropFirst (fun o => o.unit == unit) (a ++ o :: b) = a ++ b
  | [], _ => by
    refine ⟨List.find?_cons_of_pos (beq_iff_eq.mpr ho), ?_⟩
    rw [List.nil_append, dropFirst, if_pos (beq_iff_eq.mpr ho)]
    rfl
  | p :: a, h => by
    have hp : (p.unit == unit) = false := beq_eq_false_iff_ne.mpr (h p List.mem_cons_self)
    obtain ⟨hf, hd⟩ := find_oldest ho b a fun q hq => h q (List.mem_cons_of_mem p hq)
    refine ⟨?_, ?_⟩
    · rw [List.cons_append, List.find?_cons, hp]
      exact hf
    · rw [List.cons_append, dropFirst, if_neg (by rw [hp]; decide), hd]
      rfl

theorem exec_vop {c : Instr} {i : StreamId} {body : BitVec 114} {w : InstrWord}
    (h : (c, w) ∈ [(Instr.vopCpy i body, vopWord 0 body), (.vopAdd i body, vopWord 1 body), (.vopSub i body, vopWord 2 body),
      (.vopMul i body, vopWord 3 body), (.vopFma i body, vopWord 4 body), (.vopDiv i body, vopWord 5 body),
      (.vopSqrt i body, vopWord 6 body), (.vopMax i body, vopWord 7 body), (.vopMin i body, vopWord 8 body),
      (.vopExp i body, vopWord 9 body), (.vopTanh i body, vopWord 10 body), (.vopErf i body, vopWord 11 body),
      (.rsum i body, vopWord 12 body), (.rmax i body, vopWord 13 body)]) (s : State) : exec c s = tile i w issueVop s := by
  simp only [List.mem_cons, Prod.mk.injEq, List.not_mem_nil, or_false] at h
  rcases h with ⟨rfl, rfl⟩ | ⟨rfl, rfl⟩ | ⟨rfl, rfl⟩ | ⟨rfl, rfl⟩ | ⟨rfl, rfl⟩ | ⟨rfl, rfl⟩ | ⟨rfl, rfl⟩ | ⟨rfl, rfl⟩ |
    ⟨rfl, rfl⟩ | ⟨rfl, rfl⟩ | ⟨rfl, rfl⟩ | ⟨rfl, rfl⟩ | ⟨rfl, rfl⟩ | ⟨rfl, rfl⟩ <;> rfl

/-- Settles O11: `putVop` is what it writes. The counts of the operation that has retired stand in the unit's completion field
(`vopDone`, log 68). -/
theorem vectorOperationRuns : Obligations.VectorOperationRuns := by
  refine ⟨fun c i body s u w x r base hc hmem hmay hx hu hbase hr => ?_, fun f n unit s a b o hc hv ho ha => ?_⟩
  · subst hu hbase
    have hnext := hmay.head.next
    have hruns := hmay.runs
    rw [← hx] at hruns
    generalize hfp : s.vopFp (atOf i) x = fp at hruns
    have hadv : Same 8388616 s (s.advance (atOf i)) := .advance hc.streams hnext rfl
    have hv := State.startVop_same (.refl 281475518824448 (s.advance (atOf i))) rfl (atOf i) x fp
    have hframe := (State.sampleVop_same (State.startVop_same (Same.advance hc.streams hnext (M := 281475560767496) rfl) rfl
      (atOf i) x fp) rfl (atOf i)).frame
    have hissued := issued_sampleVop hc hnext (hv.regs.resolve_left (by decide)) (hv.streams.resolve_left (by decide))
    have hsample := State.sampleVop_same (.refl 41943040 ((s.advance (atOf i)).startVop (atOf i) x fp)) rfl (atOf i)
    have hfurs := hsample.furrows.resolve_left (by decide)
    have hseed := hsample.seedbed.resolve_left (by decide)
    have hctxs := hsample.ctxs.resolve_left (by decide)
    have hfur : ∀ f n, (((s.advance (atOf i)).startVop (atOf i) x fp).sampleVop (atOf i)).fur f n =
        ((s.advance (atOf i)).startVop (atOf i) x fp).fur f n := fun f n => by
      unfold State.fur
      rw [hfurs]
    refine ⟨_, hmay.head.exec_eq (exec_vop hmem s), ?_⟩
    rw [hruns]
    generalize ht : ((s.advance (atOf i)).startVop (atOf i) x fp).sampleVop (atOf i) = t at hframe hissued hfurs hseed hctxs hfur ⊢
    by_cases hcount : x.count = 0
    · have e : (s.advance (atOf i)).startVop (atOf i) x fp = s.advance (atOf i) := if_pos hcount
      rw [e] at hseed hctxs hfur
      have hf : ∀ f n, t.fur f n = s.fur f n := fun f n => (hfur f n).trans (fur_advance hc.streams hnext f n)
      exact ⟨hissued, hframe, fun f n _ => hf f n, by rw [hf],
        fun _ => ⟨hseed.trans (seedbed_advance hc.streams hnext), hctxs.trans (hadv.ctxs.resolve_left (by decide)), hf _ _⟩,
        fun h => absurd hcount h⟩
    · have e := startVop_advance hc hnext hcount fp hr
      have hputF := putVop_frame (s.advance (atOf i)) i x (s.seedBase i.field i.ctx) r
      obtain ⟨hread, hreadMx⟩ := seedRead_putVop (by rw [seedbed_advance hc.streams hnext]; exact hc.seedbed) (s := s.advance (atOf i))
        i x (s.seedBase i.field i.ctx) r
      have hout := @read_putVop_out (s.advance (atOf i)) i x (s.seedBase i.field i.ctx) r
      rw [seedbed_advance hc.streams hnext] at hout
      generalize (s.advance (atOf i)).putVop i x (s.seedBase i.field i.ctx) r = v at e hputF hread hreadMx hout
      have hvC : v.ctxs = s.ctxs := (congrArg State.ctxs hputF :).trans (hadv.ctxs.resolve_left (by decide))
      have hvF : v.furrows = s.furrows := (congrArg State.furrows hputF :).trans (furrows_advance hc.streams hnext)
      have htot := ctx_addTotals_self (hvC ▸ hc.ctxs) i.ctx (countOutcomes r.2.2)
      obtain ⟨hself, hothers⟩ := fur_pushVop (u := v.addTotals i.ctx (countOutcomes r.2.2)) hc hvF i x.unit fp (countOutcomes r.2.2)
      have hpush := State.pushVop_same (.refl 281474980904960 (v.addTotals i.ctx (countOutcomes r.2.2))) rfl (atOf i) x.unit fp
        (countOutcomes r.2.2)
      rw [e] at hseed hctxs hfur
      have hseed : t.seedbed = v.seedbed := hseed.trans (hpush.seedbed.resolve_left (by decide))
      have hctxs := hctxs.trans (hpush.ctxs.resolve_left (by decide))
      have htctx : t.ctx i.ctx = (v.addTotals i.ctx (countOutcomes r.2.2)).ctx i.ctx := by
        unfold State.ctx
        rw [hctxs]
      have hvctx : v.ctx i.ctx = s.ctx i.ctx := by
        unfold State.ctx
        rw [hvC]
      have hreadEq : ∀ a n, t.seedRead i.field i.furrow a n = v.seedRead i.field i.furrow a n := fun a n => by
        unfold State.seedRead
        rw [hseed]
      refine ⟨hissued, hframe, fun f n hne => (hfur f n).trans (hothers f n hne), ?_, fun h => absurd h hcount, fun _ =>
        ⟨⟨_, (congrArg FurrowSt.vops (hfur _ _)).trans (congrArg FurrowSt.vops hself), rfl, rfl, rfl, rfl⟩, ?_, fun hm => ?_,
          fun hm => ?_, fun a h1 h2 => ?_⟩⟩
      · rw [hfur, hself]
        rfl
      · rw [htctx, htot, hvctx]
      · rw [hreadEq]
        exact hread hm
      · rw [hreadEq]
        exact hreadMx hm
      · rw [hseed]
        exact hout h1 h2
  · obtain ⟨hfind, hdrop⟩ := find_oldest ho b a ha
    obtain ⟨hframe, hself, hothers⟩ := fur_setFur_of hc (u := s) rfl f n
      { s.fur f n with
        vops := dropFirst (fun o => o.unit == unit) (s.fur f n).vops, vopDone := (s.fur f n).completeVop unit }
    refine ⟨_, rfl, hframe, hself.trans ?_, hothers⟩
    rw [FurrowSt.completeVop, hv, hfind, hdrop]

/-! ### The optimiser entries -/

theorem vopc_vopWord {k : Nat} (hk : k < 64) (body : BitVec 114) : (vopFields (vopWord k body)).vopc = k := by
  have h : (vopWord k body).extractLsb' 8 6 = BitVec.ofNat 6 k :=
    (BitVec.extractLsb'_append_eq_of_add_le (by decide)).trans BitVec.extractLsb'_append_eq_left
  show fld (vopWord k body) 8 6 = k
  rw [fld, h, BitVec.toNat_ofNat, Nat.mod_eq_of_lt hk]

/-- R200, R201: the effect of an optimiser entry on the seedbed and the step's totals. -/
def State.optEffect (s : State) (p : At) (x : VopFields) (r h : List Byte) : State := if x.count = 0 then s else s.runOpt p x r h

/-- R73, R200: an optimiser entry of some length takes the vector unit. -/
def State.optUnit (s : State) (p : At) (x : VopFields) (fp : Footprint) (k : Counts) : State :=
  if x.count = 0 then s else s.setFur p.f p.n ((s.fur p.f p.n).pushed ⟨s.ownerAt p, 0, fp, k⟩)

theorem optUnit_same {M : Nat} {s0 s : State} (hk : Same M s0 s) (hM : 4194304 ||| M = M) (p : At) (x : VopFields) (fp : Footprint)
    (k : Counts) : Same M s0 (s.optUnit p x fp k) := by
  unfold State.optUnit
  split
  · exact hk
  · exact State.setFur_same hk hM _ _ _

theorem State.MayOpt.runs {s : State} {i : StreamId} {w : InstrWord} (h : s.MayOpt i w) :
    issueOpt i w s = (State.optUnit ((s.advance (atOf i)).optEffect (atOf i) (vopFields w) (s.optRecord i w) (s.optHeader i w)) (atOf i)
      (vopFields w)
      (s.optFp (atOf i) (vopFields w))
      ((s.advance (atOf i)).optCounts (atOf i) (vopFields w) (s.optRecord i w) (s.optHeader i w))).sampleVop (atOf i) := by
  unfold issueOpt
  dsimp only
  refine (h.head.issue_eq h.ready h.legal _ _).trans ?_
  unfold State.optUnit State.optEffect
  by_cases hx : (vopFields w).count = 0
  · rw [if_pos hx, if_pos hx, if_pos hx]
  · rw [if_neg hx, if_neg hx, if_neg hx]
    rfl

theorem optEffect_same {M : Nat} {s0 s : State} (hk : Same M s0 s) (hM : 537919488 ||| M = M) (p : At) (x : VopFields)
    (r h : List Byte) : Same M s0 (s.optEffect p x r h) := by
  unfold State.optEffect
  split
  · exact hk
  · exact State.runOpt_same hk hM p x r h

theorem exec_opt {c : Instr} {i : StreamId} {body : BitVec 114} {w : InstrWord}
    (h : (c, w) ∈ [(Instr.adamw i body, vopWord 0x10 body), (.gsq i body, vopWord 0x11 body), (.afapply i body, vopWord 0x12 body)])
    (s : State) : exec c s = tile i w issueOpt s := by
  simp only [List.mem_cons, Prod.mk.injEq, List.not_mem_nil, or_false] at h
  rcases h with ⟨rfl, rfl⟩ | ⟨rfl, rfl⟩ | ⟨rfl, rfl⟩ <;> rfl

/-- What an optimiser entry leaves: the seedbed and totals of its effect `v`, and the vector unit taken. -/
structure State.OptIn (s t v : State) (i : StreamId) (x : VopFields) : Prop where
  issued : s.Issued t i
  frame : { t with regs := s.regs, streams := s.streams, furrows := s.furrows, seedbed := s.seedbed, ctxs := s.ctxs,
                   shadows := s.shadows } = s
  seedbed : t.seedbed = v.seedbed
  ctxs : t.ctxs = v.ctxs
  taken : x.count ≠ 0 → ∃ o, (t.fur i.field i.furrow).vops = (s.fur i.field i.furrow).vops ++ [o] ∧ o.unit = 0 ∧
    o.owner.ctx = i.ctx.val ∧ o.owner.strm = i.strm.val

theorem State.MayOpt.optIn {s : State} (hc : s.Canon) {i : StreamId} {w : InstrWord} (h : s.MayOpt i w) {x : VopFields}
    (hx : x = vopFields w) :
    s.OptIn (issueOpt i w s) ((s.advance (atOf i)).optEffect (atOf i) x (s.optRecord i w) (s.optHeader i w)) i x := by
  have hnext := h.head.next
  rw [h.runs, ← hx]
  have hv := optEffect_same (.refl 537919488 (s.advance (atOf i))) rfl (atOf i) x (s.optRecord i w) (s.optHeader i w)
  have hvS := optEffect_same (Same.advance hc.streams hnext (M := 546308104) rfl) rfl (atOf i) x (s.optRecord i w) (s.optHeader i w)
  generalize (s.advance (atOf i)).optEffect (atOf i) x (s.optRecord i w) (s.optHeader i w) = v at hv hvS ⊢
  generalize (s.advance (atOf i)).optCounts (atOf i) x (s.optRecord i w) (s.optHeader i w) = k
  generalize s.optFp (atOf i) x = fp
  have hunit := optUnit_same (.refl 4194304 v) rfl (atOf i) x fp k
  have hsample := State.sampleVop_same (.refl 41943040 (v.optUnit (atOf i) x fp k)) rfl (atOf i)
  have hframe := (State.sampleVop_same (optUnit_same (hvS.mono (N := 584056840) rfl) rfl (atOf i) x fp k) rfl (atOf i)).frame
  refine ⟨issued_sampleVop hc hnext ?_ ?_, hframe, ?_, ?_, fun hx => ?_⟩
  · exact (hunit.regs.resolve_left (by decide)).trans (hv.regs.resolve_left (by decide))
  · exact (hunit.streams.resolve_left (by decide)).trans (hv.streams.resolve_left (by decide))
  · exact (hsample.seedbed.resolve_left (by decide)).trans (hunit.seedbed.resolve_left (by decide))
  · exact (hsample.ctxs.resolve_left (by decide)).trans (hunit.ctxs.resolve_left (by decide))
  · have hfurs : v.furrows = s.furrows := hvS.furrows.resolve_left (by decide)
    obtain ⟨-, hself, -⟩ := fur_setFur_of hc hfurs i.field i.furrow ((v.fur i.field i.furrow).pushed ⟨v.ownerAt (atOf i), 0, fp, k⟩)
    have hvfur : v.fur i.field i.furrow = s.fur i.field i.furrow := by
      unfold State.fur
      rw [hfurs]
    have e : v.optUnit (atOf i) x fp k =
        v.setFur i.field i.furrow ((v.fur i.field i.furrow).pushed ⟨v.ownerAt (atOf i), 0, fp, k⟩) := if_neg hx
    have ht : ((v.optUnit (atOf i) x fp k).sampleVop (atOf i)).fur i.field i.furrow =
        (s.fur i.field i.furrow).pushed ⟨v.ownerAt (atOf i), 0, fp, k⟩ := by
      rw [← hvfur, ← hself, ← e]
      unfold State.fur
      rw [hsample.furrows.resolve_left (by decide)]
    exact ⟨_, congrArg FurrowSt.vops ht, rfl, rfl, rfl⟩

theorem runOpt_adamw {s : State} {p : At} {x : VopFields} {r h : List Byte} (hx : x.vopc = 0x10) :
    s.runOpt p x r h = s.runAdamw p x r := by
  rw [State.runOpt, hx]
  rfl

theorem runOpt_gsq {s : State} {p : At} {x : VopFields} {r h : List Byte} (hx : x.vopc = 0x11) :
    s.runOpt p x r h = s.runGsq p x r := by
  rw [State.runOpt, hx]
  rfl

theorem runOpt_afapply {s : State} {p : At} {x : VopFields} {r h : List Byte} (hx : x.vopc = 0x12) :
    s.runOpt p x r h = s.runAfapply p x r h := by
  rw [State.runOpt, hx]
  rfl

/-- R207: what GSQ writes stands at its destination. -/
theorem seedRead_runGsq {s : State} (h : s.seedbed.wf unit64K) (p : At) (x : VopFields) (r : List Byte) {codes : List Byte}
    (hcodes : codes = packCodes 32 (convertVec .fp32 {} none ((List.range (32 * x.count)).map fun e =>
      num32 (ffma (fmul (s.seedVec p.f p.n (s.seedBase p.f p.c + 32 * x.src1) (x.sfmt == 1) e) (recWord r 36))
        (fmul (s.seedVec p.f p.n (s.seedBase p.f p.c + 32 * x.src1) (x.sfmt == 1) e) (recWord r 36)) (recWord r 40)))).1) :
    (s.runGsq p x r).seedRead p.f p.n (s.seedBase p.f p.c + 32 * x.dst) codes.length = codes := by
  have e : codes = packCodes 32 (convertVec .fp32 {} none (((List.range (32 * x.count)).map fun e =>
      ffma (fmul (s.seedVec p.f p.n (s.seedBase p.f p.c + 32 * x.src1) (x.sfmt == 1) e) (recWord r 36))
        (fmul (s.seedVec p.f p.n (s.seedBase p.f p.c + 32 * x.src1) (x.sfmt == 1) e) (recWord r 36)) (recWord r 40)).map
      num32)).1 := by
    rw [hcodes, List.map_map]
    rfl
  rw [e]
  exact seedRead_seedWrite_self h p.f p.n (s.seedBase p.f p.c + 32 * x.dst) _

/-- Settles O12: `optIn` is the entry's frame, `runAdamw`, `runGsq` and `runAfapply` its rules. -/
theorem optimiserEntryRuns : Obligations.OptimiserEntryRuns := by
  intro i body s u c w x hc hmem hmay hx hu
  subst hu
  obtain ⟨hissued, hframe, hseed, hctxs, htaken⟩ := hmay.optIn hc hx
  refine ⟨_, _, hmay.head.exec_eq (exec_opt hmem s), hissued, hframe, hseed, hctxs, fun h0 => if_pos h0, fun h0 e => ?_,
    fun h0 e => ?_, fun h0 e => ?_, htaken⟩
  · subst e
    have hw : w = vopWord 0x10 body := by simpa using hmem
    rw [State.optEffect, if_neg h0, runOpt_adamw (by rw [hx, hw, vopc_vopWord (by decide)])]
  · subst e
    have hw : w = vopWord 0x11 body := by simpa using hmem
    have hv : (s.advance (atOf i)).optEffect (atOf i) x (s.optRecord i w) (s.optHeader i w) =
        (s.advance (atOf i)).runGsq (atOf i) x (s.optRecord i w) := by
      rw [State.optEffect, if_neg h0, runOpt_gsq (by rw [hx, hw, vopc_vopWord (by decide)])]
    have hbase : (s.advance (atOf i)).seedBase (atOf i).f (atOf i).c = s.seedBase i.field i.ctx := seedBase_advance hc hmay.head.next
    have hread := seedRead_runGsq (s := s.advance (atOf i))
      (by rw [seedbed_advance hc.streams hmay.head.next]; exact hc.seedbed) (atOf i) x (s.optRecord i w) rfl
    rw [hbase, ← hv] at hread
    refine ⟨hv, _, rfl, ?_⟩
    unfold State.seedRead at hread ⊢
    rw [hseed]
    exact hread
  · subst e
    have hw : w = vopWord 0x12 body := by simpa using hmem
    rw [State.optEffect, if_neg h0, runOpt_afapply (by rw [hx, hw, vopc_vopWord (by decide)])]

end Sys2Proof.Machine


/-! The gleaning operations (R54, R114, R135, R136, R182 to R184, R191), and instructions that halt their stream (R124, R145, R146,
R150). -/

namespace Sys2Proof.Machine

/-! ### Element after element -/

/-- Two folds agree along an invariant of the second. -/
theorem foldl_congr_of_inv {α β : Type} {g g' : β → α → β} {P : β → Prop} : ∀ (l : List α) (s : β), P s →
    (∀ t, P t → ∀ a ∈ l, g t a = g' t a ∧ P (g' t a)) → l.foldl g s = l.foldl g' s
  | [], _, _, _ => rfl
  | a :: l, s, hs, h => by
    obtain ⟨he, hp⟩ := h s hs a List.mem_cons_self
    rw [List.foldl_cons, List.foldl_cons, he]
    exact foldl_congr_of_inv l _ hp fun t ht b hb => h t ht b (List.mem_cons_of_mem a hb)

/-- R182: the elements at `tgt a`, for the `a` of a list, each updated from what it held. -/
def State.gleanMap {α : Type} (f n : Nat) (tgt : α → Nat) (G : α → Word32 × Word32 → Word32 × Word32) (l : List α) (s : State) :
    State := l.foldl (fun s a => s.gleanSet f n (tgt a) (G a (s.gleanGet f n (tgt a)))) s

section
variable {α : Type} (f n : Nat) (tgt : α → Nat) (G : α → Word32 × Word32 → Word32 × Word32)

theorem gleanMap_frame (l : List α) : ∀ s : State, { s.gleanMap f n tgt G l with glean := s.glean } = s := by
  induction l with
  | nil => exact fun _ => rfl
  | cons a l ih =>
    exact fun s => (congrArg (fun t : State => { t with glean := s.glean })
      (ih (s.gleanSet f n (tgt a) (G a (s.gleanGet f n (tgt a))))) :)

theorem gleanGet_gleanMap_out {e : Nat} (l : List α) : ∀ s : State, (∀ a ∈ l, e ≠ tgt a) →
    (s.gleanMap f n tgt G l).gleanGet f n e = s.gleanGet f n e := by
  induction l with
  | nil => exact fun _ _ => rfl
  | cons a l ih =>
    exact fun s h => (ih (s.gleanSet f n (tgt a) (G a (s.gleanGet f n (tgt a)))) fun b hb => h b (List.mem_cons_of_mem a hb)).trans
      (gleanGet_gleanSet_ne s f n _ (h a List.mem_cons_self))

theorem gleanGet_gleanMap_mem (l : List α) : ∀ s : State, s.glean.wf gleanUnit → l.Pairwise (fun a b => tgt a ≠ tgt b) →
    ∀ a ∈ l, (s.gleanMap f n tgt G l).gleanGet f n (tgt a) = G a (s.gleanGet f n (tgt a)) := by
  induction l with
  | nil => exact fun _ _ _ a ha => absurd ha List.not_mem_nil
  | cons b l ih =>
    intro s hw hp a ha
    obtain ⟨hb, hl⟩ := List.pairwise_cons.mp hp
    show ((s.gleanSet f n (tgt b) (G b (s.gleanGet f n (tgt b)))).gleanMap f n tgt G l).gleanGet f n (tgt a) = _
    obtain rfl | ha := List.mem_cons.mp ha
    · rw [gleanGet_gleanMap_out f n tgt G l _ hb, gleanGet_gleanSet_self hw]
    · rw [ih (s.gleanSet f n (tgt b) (G b (s.gleanGet f n (tgt b)))) (wf_gleanSet hw f n (tgt b) _) hl a ha,
        gleanGet_gleanSet_ne s f n _ (hb a ha).symm]

end

section
variable {α : Type} (f n : Nat) (adr : α → Nat) (val : α → List Byte)

theorem read_foldl_seedWrites_out {b : Nat} (l : List α) : ∀ s : State,
    (∀ a ∈ l, b < furKey f n * seedSize + adr a ∨ furKey f n * seedSize + adr a + (val a).length ≤ b) →
    (l.foldl (fun s a => s.seedWrite f n (adr a) (val a)) s).seedbed.read unit64K b = s.seedbed.read unit64K b := by
  induction l with
  | nil => exact fun _ _ => rfl
  | cons a l ih =>
    exact fun s h => (ih (s.seedWrite f n (adr a) (val a)) fun x hx => h x (List.mem_cons_of_mem a hx)).trans
      (seedbed_seedWrite_out s f n (adr a) (val a) (h a List.mem_cons_self))

/-- Writes to ranges apart from each other all stand. -/
theorem seedRead_foldl_seedWrites (l : List α) : ∀ s : State, s.seedbed.wf unit64K →
    l.Pairwise (fun a b => adr a + (val a).length ≤ adr b ∨ adr b + (val b).length ≤ adr a) →
    ∀ a ∈ l, (l.foldl (fun s a => s.seedWrite f n (adr a) (val a)) s).seedRead f n (adr a) (val a).length = val a := by
  induction l with
  | nil => exact fun _ _ _ a ha => absurd ha List.not_mem_nil
  | cons b l ih =>
    intro s hw hp a ha
    obtain ⟨hb, hl⟩ := List.pairwise_cons.mp hp
    rw [List.foldl_cons]
    obtain rfl | ha := List.mem_cons.mp ha
    · refine Eq.trans ?_ (seedRead_seedWrite_self hw f n (adr a) (val a))
      unfold State.seedRead Memory.readN
      refine List.map_congr_left fun k hk => ?_
      have hk := List.mem_range.mp hk
      exact read_foldl_seedWrites_out f n adr val l _ fun x hx => by have := hb x hx; omega
    · exact ih (s.seedWrite f n (adr b) (val b)) (Memory.wf_writeN _ _ hw) hl a ha

theorem foldl_seedWriteAt_frame (l : List α) : ∀ s : State,
    { l.foldl (fun s a => s.seedWrite f n (adr a) (val a)) s with seedbed := s.seedbed } = s := by
  induction l with
  | nil => exact fun _ => rfl
  | cons a l ih =>
    exact fun s => (congrArg (fun t : State => { t with seedbed := s.seedbed }) (ih (s.seedWrite f n (adr a) (val a))) :)

end

/-! ### The region of a gleaning operation (R135) -/

theorem mem_cells {x : GlnFields} {rc : Nat × Nat} : rc ∈ x.cells ↔ rc.1 < x.rows ∧ rc.2 < x.cols := by
  obtain ⟨r, k⟩ := rc
  exact List.pair_mem_product.trans (and_congr List.mem_range List.mem_range)

theorem nodup_cells (x : GlnFields) : x.cells.Nodup := List.Nodup.product List.nodup_range List.nodup_range

/-- Elements of rows that do not overlap lie apart. -/
theorem rows_apart {p w r r' k k' : Nat} (hw : w ≤ p) (hk : k < w) (hk' : k' < w) (h : (r, k) ≠ (r', k')) : r * p + k ≠ r' * p + k' := by
  intro e
  have hr : r = r' := by
    have h1 := congrArg (· / p) e
    have hp : 0 < p := by omega
    simpa [Nat.add_comm, Nat.mul_comm _ p, Nat.add_mul_div_left _ _ hp, Nat.div_eq_of_lt (Nat.lt_of_lt_of_le hk hw),
      Nat.div_eq_of_lt (Nat.lt_of_lt_of_le hk' hw)] using h1
  subst hr
  exact h (Prod.ext rfl (Nat.add_left_cancel e))

/-- R135: the element of the furrow's gleaning buffer that a region's cell is, from the first element of the share. -/
def GlnFields.target (x : GlnFields) (gb : Nat) (rc : Nat × Nat) : Nat := gb + x.gaddr + rc.1 * x.pitch + rc.2

theorem GlnFields.target_ne {x : GlnFields} (hx : x.cols ≤ x.pitch) (gb : Nat) {a b : Nat × Nat} (ha : a ∈ x.cells)
    (hb : b ∈ x.cells) (h : a ≠ b) : x.target gb a ≠ x.target gb b := by
  have := rows_apart hx (mem_cells.mp ha).2 (mem_cells.mp hb).2 h
  unfold GlnFields.target
  omega

theorem GlnFields.pairwise_target {x : GlnFields} (hx : x.cols ≤ x.pitch) (gb : Nat) :
    x.cells.Pairwise fun a b => x.target gb a ≠ x.target gb b :=
  (nodup_cells x).pairwise_of_forall_ne fun _ ha _ hb h => x.target_ne hx gb ha hb h

/-- R136: the seedbed bytes of a cell of the region. -/
def GlnFields.seedAt (x : GlnFields) (base : Nat) (rc : Nat × Nat) : Nat :=
  base + 32 * (x.saddr + rc.1 * x.sstride) + x.bytes * rc.2

theorem GlnFields.pairwise_seedAt {x : GlnFields} (hx : x.cols * x.bytes ≤ 32 * x.sstride) (base : Nat) :
    x.cells.Pairwise fun a b => x.seedAt base a + x.bytes ≤ x.seedAt base b ∨ x.seedAt base b + x.bytes ≤ x.seedAt base a := by
  have hbytes : ∀ k, k < x.cols → x.bytes * k + x.bytes ≤ x.cols * x.bytes := fun k hk => by
    rw [← Nat.mul_succ, Nat.mul_comm]
    exact Nat.mul_le_mul_right _ hk
  have hrow : ∀ a b : Nat, a < b → a * x.sstride + x.sstride ≤ b * x.sstride := fun a b h => by
    rw [← Nat.succ_mul]
    exact Nat.mul_le_mul_right _ h
  have hcol : ∀ a b : Nat, a < b → x.bytes * a + x.bytes ≤ x.bytes * b := fun a b h => by
    rw [← Nat.mul_succ]
    exact Nat.mul_le_mul_left _ h
  refine (nodup_cells x).pairwise_of_forall_ne fun a ha b hb h => ?_
  have ha2 := hbytes a.2 (mem_cells.mp ha).2
  have hb2 := hbytes b.2 (mem_cells.mp hb).2
  unfold GlnFields.seedAt
  obtain hr | hr | hr := Nat.lt_trichotomy a.1 b.1
  · have := hrow _ _ hr
    omega
  · obtain hk | hk | hk := Nat.lt_trichotomy a.2 b.2
    · have := hcol _ _ hk
      rw [hr]
      omega
    · exact absurd (Prod.ext hr hk) h
    · have := hcol _ _ hk
      rw [hr]
      omega
  · have := hrow _ _ hr
    omega

/-! ### What each operation does -/

section
variable {s : State} {p : At} {x : GlnFields}

theorem runGln_init (h : x.gop = 0) : s.runGln p x =
    s.gleanMap p.f p.n (x.target (4096 * s.rf (R.FLD_GLQ_BASE p.c p.f))) (fun _ _ => (0, 0)) x.cells := by
  unfold State.runGln
  rw [h]
  rfl

theorem seedVec_of_seedbed {s t : State} (h : t.seedbed = s.seedbed) (f n a : Nat) (b : Bool) (k : Nat) :
    t.seedVec f n a b k = s.seedVec f n a b k := by
  unfold State.seedVec State.seedRead
  rw [h]

/-- R182: ACC adds seedbed elements, which it leaves alone. -/
theorem runGln_acc (h : x.gop = 1) : s.runGln p x =
    s.gleanMap p.f p.n (x.target (4096 * s.rf (R.FLD_GLQ_BASE p.c p.f))) (fun rc e => gleanAcc e
      (s.seedVec p.f p.n (s.seedBase p.f p.c + 32 * (x.saddr + rc.1 * x.sstride)) (x.sfmt == 0) rc.2)) x.cells := by
  unfold State.runGln
  rw [h]
  refine foldl_congr_of_inv (P := fun t : State => t.seedbed = s.seedbed) _ _ rfl fun t ht rc _ => ⟨?_, ht⟩
  dsimp only
  rw [seedVec_of_seedbed ht]
  rfl

/-- R183: ADD takes its source from elements that it does not update. -/
theorem runGln_add (h : x.gop = 2) (gb : Nat) (hgb : gb = 4096 * s.rf (R.FLD_GLQ_BASE p.c p.f))
    (hsrc : ∀ a ∈ x.cells, ∀ b ∈ x.cells, gb + x.gsrc + a.1 * x.pitch + a.2 ≠ x.target gb b) :
    s.runGln p x = s.gleanMap p.f p.n (x.target gb) (fun rc e => gleanAdd e
      (s.gleanGet p.f p.n (gb + x.gsrc + rc.1 * x.pitch + rc.2))) x.cells := by
  unfold State.runGln
  rw [h, ← hgb]
  refine foldl_congr_of_inv
    (P := fun t : State => ∀ e, (∀ b ∈ x.cells, e ≠ x.target gb b) → t.gleanGet p.f p.n e = s.gleanGet p.f p.n e) _ _ (fun _ _ => rfl)
    fun t ht rc hrc => ⟨?_, fun e he => ?_⟩
  · dsimp only
    rw [ht _ (hsrc rc hrc)]
    rfl
  · exact (gleanGet_gleanSet_ne t p.f p.n _ (he rc hrc)).trans (ht e he)

/-- R184: what FLUSH writes to the seedbed. -/
def State.flushOut (s : State) (p : At) (x : GlnFields) : State :=
  (s.glnOuts p x).foldl (fun t o => t.seedWrite p.f p.n (x.seedAt (s.seedBase p.f p.c) o.1) (leBytes x.bytes o.2.1)) s

/-- R184: the elements set to +0 where FLUSH has `CLEAR`. -/
def State.flushClear (s : State) (p : At) (x : GlnFields) (gb : Nat) : State :=
  if x.clear then s.gleanMap p.f p.n (x.target gb) (fun _ _ => (0, 0)) x.cells else s

theorem runGln_flush (h : x.gop = 3) : s.runGln p x =
    (((s.flushOut p x).flushClear p x (4096 * s.rf (R.FLD_GLQ_BASE p.c p.f))).addTotals p.c (s.glnCounts p x)).addGradNf p.c
      (s.glnCounts p x) := by
  unfold State.runGln
  rw [h]
  rfl

/-- R182 to R184: the updates touch no register, stream, furrow or unit. -/
theorem glean_flushOut : (s.flushOut p x).glean = s.glean :=
  (congrArg State.glean (foldl_seedWriteAt_frame p.f p.n (fun o : (Nat × Nat) × Nat × Outcome4 => x.seedAt (s.seedBase p.f p.c) o.1)
    (fun o => leBytes x.bytes o.2.1) (s.glnOuts p x) s) :)

theorem gleanGet_flushClear_out (gb : Nat) {e : Nat} (h : ∀ rc ∈ x.cells, e ≠ x.target gb rc) :
    (s.flushClear p x gb).gleanGet p.f p.n e = s.gleanGet p.f p.n e := by
  unfold State.flushClear
  split
  · exact gleanGet_gleanMap_out _ _ _ _ _ _ h
  · rfl

theorem gleanGet_flushClear_mem (hs : s.glean.wf gleanUnit) (gb : Nat) (hx : x.cols ≤ x.pitch) {rc : Nat × Nat} (h : rc ∈ x.cells) :
    (s.flushClear p x gb).gleanGet p.f p.n (x.target gb rc) =
      if x.clear then (0, 0) else s.gleanGet p.f p.n (x.target gb rc) := by
  unfold State.flushClear
  split
  · exact gleanGet_gleanMap_mem _ _ _ _ _ _ hs (x.pairwise_target hx gb) rc h
  · rfl

theorem gleanGet_of_glean {s t : State} (h : t.glean = s.glean) (f n e : Nat) : t.gleanGet f n e = s.gleanGet f n e := by
  unfold State.gleanGet
  rw [h]

/-- R135: the source region of an ADD and its target lie apart. -/
def GlnFields.Apart (x : GlnFields) : Prop := x.gop = 2 → ∀ a ∈ x.cells, ∀ b ∈ x.cells,
  x.gsrc + a.1 * x.pitch + a.2 ≠ x.gaddr + b.1 * x.pitch + b.2

theorem GlnFields.Apart.src {x : GlnFields} (hx : x.Apart) (h : x.gop = 2) (gb : Nat) :
    ∀ a ∈ x.cells, ∀ b ∈ x.cells, gb + x.gsrc + a.1 * x.pitch + a.2 ≠ x.target gb b := fun a ha b hb => by
  have := hx h a ha b hb
  unfold GlnFields.target
  omega

/-- R136, R182, R183: all but FLUSH change elements of the gleaning buffer alone. -/
theorem runGln_frame (hx : x.Apart) (h : x.gop < 3) : { s.runGln p x with glean := s.glean } = s := by
  obtain h0 | h1 | h2 : x.gop = 0 ∨ x.gop = 1 ∨ x.gop = 2 := by omega
  · rw [runGln_init h0]
    exact gleanMap_frame _ _ _ _ _ _
  · rw [runGln_acc h1]
    exact gleanMap_frame _ _ _ _ _ _
  · rw [runGln_add h2 _ rfl (hx.src h2 _)]
    exact gleanMap_frame _ _ _ _ _ _

/-- R136: no element outside the region changes. -/
theorem gleanGet_runGln_out (hx : x.Apart) (h : x.gop < 4) {e : Nat}
    (he : ∀ rc ∈ x.cells, e ≠ x.target (4096 * s.rf (R.FLD_GLQ_BASE p.c p.f)) rc) :
    (s.runGln p x).gleanGet p.f p.n e = s.gleanGet p.f p.n e := by
  obtain h0 | h1 | h2 | h3 : x.gop = 0 ∨ x.gop = 1 ∨ x.gop = 2 ∨ x.gop = 3 := by omega
  · rw [runGln_init h0]
    exact gleanGet_gleanMap_out _ _ _ _ _ _ he
  · rw [runGln_acc h1]
    exact gleanGet_gleanMap_out _ _ _ _ _ _ he
  · rw [runGln_add h2 _ rfl (hx.src h2 _)]
    exact gleanGet_gleanMap_out _ _ _ _ _ _ he
  · rw [runGln_flush h3]
    exact (gleanGet_flushClear_out _ he).trans (gleanGet_of_glean glean_flushOut _ _ _)

theorem seedbed_flush (h : x.gop = 3) : (s.runGln p x).seedbed = (s.flushOut p x).seedbed := by
  rw [runGln_flush h]
  show ((s.flushOut p x).flushClear p x _).seedbed = _
  unfold State.flushClear
  split
  · exact (congrArg State.seedbed (gleanMap_frame p.f p.n (x.target _) (fun _ _ => (0, 0)) x.cells (s.flushOut p x)) :)
  · rfl

/-- R184: the final value of a cell, converted to the seedbed's format. -/
def State.flushCode (s : State) (p : At) (x : GlnFields) (rc : Nat × Nat) : Nat × Outcome4 :=
  (if x.sfmt = 0 then Fmt.fp32 else Fmt.bf16).convert (s.ctx p.c).latch.arith false .rne 0
    (num32 (gleanFinal (s.gleanGet p.f p.n (x.target (4096 * s.rf (R.FLD_GLQ_BASE p.c p.f)) rc))))

theorem seedRead_flush (hs : s.seedbed.wf unit64K) (h : x.gop = 3) (hx : x.cols * x.bytes ≤ 32 * x.sstride) {rc : Nat × Nat}
    (hrc : rc ∈ x.cells) : (s.runGln p x).seedRead p.f p.n (x.seedAt (s.seedBase p.f p.c) rc) x.bytes =
      leBytes x.bytes (s.flushCode p x rc).1 := by
  have hlen : ∀ y, (leBytes x.bytes y).length = x.bytes := fun y => length_leBytes _ y
  have hout : s.glnOuts p x = x.cells.map fun rc => (rc, s.flushCode p x rc) := rfl
  have hp : (s.glnOuts p x).Pairwise fun a b =>
      x.seedAt (s.seedBase p.f p.c) a.1 + (leBytes x.bytes a.2.1).length ≤ x.seedAt (s.seedBase p.f p.c) b.1 ∨
      x.seedAt (s.seedBase p.f p.c) b.1 + (leBytes x.bytes b.2.1).length ≤ x.seedAt (s.seedBase p.f p.c) a.1 := by
    rw [hout, List.pairwise_map]
    simp only [hlen]
    exact GlnFields.pairwise_seedAt hx _
  have hmem : (rc, s.flushCode p x rc) ∈ s.glnOuts p x := by
    rw [hout]
    exact List.mem_map_of_mem hrc
  have hr := seedRead_foldl_seedWrites p.f p.n (fun o : (Nat × Nat) × Nat × Outcome4 => x.seedAt (s.seedBase p.f p.c) o.1)
    (fun o => leBytes x.bytes o.2.1) (s.glnOuts p x) s hs hp _ hmem
  dsimp only at hr
  rw [hlen] at hr
  refine Eq.trans ?_ hr
  unfold State.seedRead
  rw [seedbed_flush h]
  rfl

end

/-! ### GLN at issue -/

/-- R135, R136: the effect of a gleaning operation and the gleaning unit taken; nothing with an empty region. -/
def State.startGln (s : State) (p : At) (x : GlnFields) (fp : Footprint) : State :=
  if (x.rows == 0 || x.cols == 0) = true then s
  else (s.runGln p x).setFur p.f p.n
    { (s.runGln p x).fur p.f p.n with
      glns := ((s.runGln p x).fur p.f p.n).glns ++
        [{ owner := (s.runGln p x).ownerAt p, unit := 8, fp := fp, counts := s.glnCounts p x }] }

theorem State.MayGln.runs {s : State} {i : StreamId} {w : InstrWord} (h : s.MayGln i w) :
    issueGln i w s = (s.advance (atOf i)).startGln (atOf i) (glnFields w) (s.glnFp (atOf i) (glnFields w)) := by
  unfold issueGln
  exact h.head.issue_eq h.ready h.legal _ _

theorem startGln_same {M : Nat} {s0 s : State} (hk : Same M s0 s) (hM : 544210944 ||| M = M) (p : At) (x : GlnFields)
    (fp : Footprint) : Same M s0 (s.startGln p x fp) := by
  unfold State.startGln
  split
  · exact hk
  · exact State.setFur_same (State.runGln_same hk (sub_sub (by decide) hM) p x) (sub_sub (by decide) hM) _ _ _

theorem row_mem {x : GlnFields} (hc : x.cols ≠ 0) {a r : Nat} {b : Bool} (hr : r < x.rows) :
    ⟨a + r * x.pitch, x.cols, b⟩ ∈ x.region a b := by
  unfold GlnFields.region
  rw [if_neg hc]
  exact List.mem_map_of_mem (List.mem_range.mpr hr)

theorem State.MayGln.apart {s : State} {i : StreamId} {w : InstrWord} (h : s.MayGln i w) : (glnFields w).Apart := by
  intro hg a ha b hb e
  have ha := mem_cells.mp ha
  have hb := mem_cells.mp hb
  have hlegal := h.legal
  unfold glnCause at hlegal
  have h7 := not_of_lowest_none hlegal _ (.tail _ (.tail _ (.tail _ (.head _))))
  generalize glnFields w = x at *
  have hc : x.cols ≠ 0 := by omega
  simp only [Bool.or_eq_false_iff, Bool.and_eq_false_iff, hg, beq_self_eq_true, Bool.true_eq_false, false_or] at h7
  have hany := List.any_eq_false.mp h7.2 ⟨x.gsrc + a.1 * x.pitch, x.cols, false⟩ (row_mem hc ha.1)
  have hhit := List.any_eq_false.mp (Bool.eq_false_iff.mpr hany) ⟨x.gaddr + b.1 * x.pitch, x.cols, true⟩ (row_mem hc hb.1)
  refine hhit ?_
  simp only [Rng.hits, Bool.false_or, Bool.true_and, Bool.and_eq_true, decide_eq_true_eq]
  omega

theorem exec_gln {c : Instr} {i : StreamId} {body : BitVec 118} {w : InstrWord}
    (h : (c, w) ∈ [(Instr.glnInit i body, opWord2 0x38 0 body), (.glnAcc i body, opWord2 0x38 1 body),
      (.glnAdd i body, opWord2 0x38 2 body), (.glnFlush i body, opWord2 0x38 3 body)]) (s : State) :
    exec c s = tile i w issueGln s ∧ (c ≠ .glnFlush i body → (glnFields w).gop < 3) := by
  simp only [List.mem_cons, Prod.mk.injEq, List.not_mem_nil, or_false] at h
  have hgop : ∀ k, k < 4 → (glnFields (opWord2 0x38 k body)).gop = k := fun k hk => code_opWord2 hk body
  obtain ⟨rfl, rfl⟩ | ⟨rfl, rfl⟩ | ⟨rfl, rfl⟩ | ⟨rfl, rfl⟩ := h
  · exact ⟨rfl, fun _ => by rw [hgop 0 (by decide)]; decide⟩
  · exact ⟨rfl, fun _ => by rw [hgop 1 (by decide)]; decide⟩
  · exact ⟨rfl, fun _ => by rw [hgop 2 (by decide)]; decide⟩
  · exact ⟨rfl, fun h => absurd rfl h⟩

/-- The start of a gleaning operation, on a region that is empty and on one that is not. -/
theorem startGln_empty {s : State} {p : At} {x : GlnFields} {fp : Footprint} (h : x.rows = 0 ∨ x.cols = 0) : s.startGln p x fp = s :=
  if_pos (by simpa using h)

theorem startGln_region {s : State} {p : At} {x : GlnFields} {fp : Footprint} (hr : x.rows ≠ 0) (hk : x.cols ≠ 0) :
    s.startGln p x fp = (s.runGln p x).setFur p.f p.n
      { (s.runGln p x).fur p.f p.n with
        glns := ((s.runGln p x).fur p.f p.n).glns ++
          [{ owner := (s.runGln p x).ownerAt p, unit := 8, fp := fp, counts := s.glnCounts p x }] } :=
  if_neg (by simp [hr, hk])

/-- Settles O13: each of the four operations is `runGln` at its code, element by element. -/
theorem gleaningOperations : Obligations.GleaningOperations := by
  refine ⟨fun i body s c w x tgt hc hmem hmay hx hpitch hstride htgt => ?_, fun f n s o l hc hg => ?_⟩
  · obtain ⟨hexec, hthree⟩ := exec_gln hmem s
    have hnext := hmay.head.next
    have hruns := hmay.runs
    have hapart := hmay.apart
    rw [← hx] at hruns hapart hthree
    have hfour : x.gop < 4 := by rw [hx]; exact fld_lt w 8 2
    have hcode : ∀ k, k < 4 → w = opWord2 0x38 k body → x.gop = k := fun k hk hw => by
      rw [hx, hw]
      exact code_opWord2 hk body
    have hadv : Same 8388616 s (s.advance (atOf i)) := .advance hc.streams hnext rfl
    have hglean : (s.advance (atOf i)).glean = s.glean := hadv.glean.resolve_left (by decide)
    have hseed : (s.advance (atOf i)).seedbed = s.seedbed := seedbed_advance hc.streams hnext
    have hgb : 4096 * (s.advance (atOf i)).rf (R.FLD_GLQ_BASE i.ctx i.field) = 4096 * s.rf (R.FLD_GLQ_BASE i.ctx i.field) :=
      congrArg _ (rf_advance_low hc hnext (by
        show A.FLD_GLQ i.ctx i.field < 0x1000000
        unfold A.FLD_GLQ Page.contextBase
        omega))
    have hbase := seedBase_advance hc hnext
    have hctx := ctx_advance hc hnext i.ctx
    have hfurs := furrows_advance hc.streams hnext
    have hissued := issued_advance hc hnext
    have hcells : ∀ r k, r < x.rows → k < x.cols → (r, k) ∈ x.cells := fun r k hr hk => mem_cells.mpr ⟨hr, hk⟩
    have htgt' : ∀ r k, tgt r k = x.target (4096 * (s.advance (atOf i)).rf (R.FLD_GLQ_BASE i.ctx i.field)) (r, k) := fun r k => by
      rw [htgt, hgb]
      rfl
    generalize hfp : s.glnFp (atOf i) x = fp at hruns
    have hframe := (startGln_same (Same.advance hc.streams hnext (M := 552599560) rfl) rfl (atOf i) x fp).frame
    have hstart := startGln_same (.refl 544210944 (s.advance (atOf i))) rfl (atOf i) x fp
    refine ⟨_, hmay.head.exec_eq hexec, ?_⟩
    rw [hruns]
    refine ⟨hissued.of_parts (hstart.regs.resolve_left (by decide)) (hstart.streams.resolve_left (by decide)), hframe, ?_⟩
    generalize s.advance (atOf i) = u at *
    by_cases he : x.rows = 0 ∨ x.cols = 0
    · rw [startGln_empty he]
      refine ⟨fun _ => ?_, fun h1 h2 => ?_, fun e _ => gleanGet_of_glean hglean _ _ _, fun r k hr hk => by omega,
        fun _ => ⟨hseed, hadv.ctxs.resolve_left (by decide)⟩⟩
      · unfold State.fur
        rw [hfurs]
      · omega
    · have hrun := State.runGln_same (.refl 540016640 u) rfl (atOf i) x
      obtain ⟨-, hself, -⟩ := fur_setFur_of hc ((hrun.furrows.resolve_left (by decide)).trans hfurs) i.field i.furrow
        { (u.runGln (atOf i) x).fur i.field i.furrow with
          glns := ((u.runGln (atOf i) x).fur i.field i.furrow).glns ++
            [{ owner := (u.runGln (atOf i) x).ownerAt (atOf i), unit := 8, fp := fp, counts := u.glnCounts (atOf i) x }] }
      have hvfur : (u.runGln (atOf i) x).fur i.field i.furrow = s.fur i.field i.furrow := by
        unfold State.fur
        rw [hrun.furrows.resolve_left (by decide), hfurs]
      have hmap : ∀ (G : Nat × Nat → Word32 × Word32 → Word32 × Word32) (r k : Nat), r < x.rows → k < x.cols →
          (u.gleanMap i.field i.furrow (x.target (4096 * u.rf (R.FLD_GLQ_BASE i.ctx i.field))) G x.cells).gleanGet i.field i.furrow
            (tgt r k) = G (r, k) (s.gleanGet i.field i.furrow (tgt r k)) := fun G r k hr hk => by
        rw [htgt' r k, gleanGet_gleanMap_mem _ _ _ _ _ _ (hglean ▸ hc.glean) (x.pairwise_target hpitch _) _ (hcells r k hr hk),
          gleanGet_of_glean hglean]
      rw [startGln_region (fun h => he (.inl h)) (fun h => he (.inr h))]
      refine ⟨fun h => absurd h he, fun _ _ => ⟨⟨(u.runGln (atOf i) x).ownerAt (atOf i), 8, fp, u.glnCounts (atOf i) x⟩, ?_, rfl, rfl⟩, fun e ho => ?_, fun r k hr hk =>
        ⟨fun e => ?_, fun e => ?_, fun e => ?_, fun e => ⟨?_, ?_⟩⟩, fun hne => ?_⟩
      · refine (congrArg FurrowSt.glns hself).trans ?_
        rw [hvfur]
      · refine (gleanGet_runGln_out hapart hfour fun rc hrc => ?_).trans (gleanGet_of_glean hglean _ _ _)
        exact fun h => ho rc.1 rc.2 (mem_cells.mp hrc).1 (mem_cells.mp hrc).2 (by rw [htgt']; exact h)
      · subst e
        show (u.runGln (atOf i) x).gleanGet _ _ _ = _
        rw [runGln_init (hcode 0 (by decide) (by simpa using hmem))]
        exact hmap _ r k hr hk
      · subst e
        show (u.runGln (atOf i) x).gleanGet _ _ _ = _
        rw [runGln_acc (hcode 1 (by decide) (by simpa using hmem))]
        refine (hmap _ r k hr hk).trans ?_
        rw [seedVec_of_seedbed hseed, show u.seedBase (atOf i).f (atOf i).c = _ from hbase]
        rfl
      · subst e
        have h2 := hcode 2 (by decide) (by simpa using hmem)
        show (u.runGln (atOf i) x).gleanGet _ _ _ = _
        rw [runGln_add h2 _ rfl (hapart.src h2 _)]
        refine (hmap _ r k hr hk).trans ?_
        rw [gleanGet_of_glean hglean, show 4096 * u.rf (R.FLD_GLQ_BASE (atOf i).c (atOf i).f) = _ from hgb]
        rfl
      · subst e
        have h3 := hcode 3 (by decide) (by simpa using hmem)
        show (u.runGln (atOf i) x).gleanGet _ _ _ = _
        rw [runGln_flush h3, htgt' r k]
        refine (gleanGet_flushClear_mem (by rw [glean_flushOut, hglean]; exact hc.glean) _ hpitch (hcells r k hr hk)).trans ?_
        rw [gleanGet_of_glean glean_flushOut, gleanGet_of_glean hglean]
        rfl
      · subst e
        have h3 := hcode 3 (by decide) (by simpa using hmem)
        have hread := seedRead_flush (p := atOf i) (hseed ▸ hc.seedbed) h3 hstride (hcells r k hr hk)
        rw [State.flushCode, gleanGet_of_glean hglean] at hread
        rw [htgt' r k, ← hctx, ← hbase]
        exact hread
      · have hf := runGln_frame (s := u) (p := atOf i) hapart (hthree hne)
        exact ⟨(congrArg State.seedbed hf :).trans hseed, (congrArg State.ctxs hf :).trans (hadv.ctxs.resolve_left (by decide))⟩
  · obtain ⟨hframe, hself, hothers⟩ := fur_setFur_of hc (u := s) rfl f n
      { s.fur f n with glns := l, vopDone := sput (s.fur f n).vopDone 8 (o.owner, o.counts) }
    refine ⟨_, ?_, hframe, hself, hothers⟩
    show execGlnRetire f n s = _
    unfold execGlnRetire
    dsimp only
    rw [hg]
    rfl

/-! ### Instructions that halt their stream -/

/-- R113, R145: an instruction at the head that is ready and meets a condition of the cause table halts its stream. -/
theorem State.AtHead.halts {s : State} (hc : s.Canon) {i : StreamId} {w : InstrWord} (h : s.AtHead i w) {c : Instr}
    {run : StreamId → InstrWord → State → State} (hexec : exec c s = tile i w run s) {wait : Option WaitKind} {cause : Option Nat}
    {k sem : Nat} {eff : State → State} (hrun : run i w s = issue s (atOf i) w wait sem cause eff) (hw : wait = none)
    (hcause : cause = some k) (hk : k < 16) : ∃ t, exec c s = .next t ∧ s.Halted t i w k := by
  subst hw hcause
  refine ⟨_, h.exec_eq hexec, ?_⟩
  rw [hrun, issue_halts h]
  exact halted_haltStream hc hk

theorem unknownCause_cases (w : InstrWord) : unknownCause w = none ∨ unknownCause w = some 1 ∨ unknownCause w = some 3 := by
  unfold unknownCause
  dsimp only
  split
  · split
    · exact .inl rfl
    · exact .inr (.inr rfl)
  · split
    · split
      · exact .inl rfl
      · exact .inr (.inr rfl)
    · split
      · exact .inl rfl
      · exact .inr (.inl rfl)

/-- R124, R145: a word that names no instruction. -/
theorem issueUnknown_eq {s : State} {i : StreamId} {w : InstrWord} {c : Nat} (h : unknownCause w = some c) :
    issueUnknown i w s =
      issue s (atOf i) w none 0 (lowest [(c == 1, 1), (reservedSet w, 2), (true, c)]) fun s => s := by
  unfold issueUnknown
  rw [h]

theorem lowest_unknown_three (b : Bool) : lowest [((3 : Nat) == 1, 1), (b, 2), (true, 3)] = some (if b then 2 else 3) := by
  cases b <;> rfl

/-- Settles O14: `AtHead.halts` brings each family of instructions to the halt of `halted_haltStream`. -/
theorem unknownOpcodeHalts : Obligations.UnknownOpcodeHalts := by
  refine ⟨fun i w s hc h => ⟨fun h1 => ?_, fun h3 => ?_, unknownCause_cases w⟩, fun i b20 b14 b18 s c w k hc h hk hcause => ?_⟩
  · exact h.halts hc rfl (issueUnknown_eq h1) rfl rfl (by decide)
  · exact h.halts hc rfl (issueUnknown_eq h3) rfl (lowest_unknown_three _) (by split <;> decide)
  obtain ⟨hm, hb⟩ | ⟨hm, hw, hb⟩ | ⟨hm, hw, hb⟩ | ⟨hm, hw, hb⟩ | ⟨hm, hw, hb⟩ | ⟨hm, hw, hb⟩ | ⟨hm, hw, hb⟩ | ⟨hm, hw, hb⟩ := hcause
  · simp only [List.mem_cons, Prod.mk.injEq, List.not_mem_nil, or_false] at hm
    obtain ⟨rfl, rfl⟩ | ⟨rfl, rfl⟩ | ⟨rfl, rfl⟩ := hm
    · exact h.halts hc rfl (run := issueLdw) (by unfold issueLdw; rfl) rfl hb hk
    · exact h.halts hc rfl (run := issueLda) (by unfold issueLda; rfl) rfl hb hk
    · exact h.halts hc rfl (run := issueTrn) (by unfold issueTrn; rfl) rfl hb hk
  · simp only [List.mem_cons, Prod.mk.injEq, List.not_mem_nil, or_false] at hm
    obtain ⟨rfl, rfl⟩ | ⟨rfl, rfl⟩ := hm
    · exact h.halts hc rfl (run := issueMma) (by unfold issueMma; rfl) hw hb hk
    · exact h.halts hc rfl (run := issueMma) (by unfold issueMma; rfl) hw hb hk
  · exact h.halts hc (exec_vop hm s) (run := issueVop) (by unfold issueVop; rfl) hw hb hk
  · exact h.halts hc (exec_gln hm s).1 (run := issueGln) (by unfold issueGln; rfl) hw hb hk
  · obtain ⟨rfl, rfl⟩ := Prod.mk.inj hm
    exact h.halts hc rfl (run := issueDma) (by unfold issueDma; rfl) hw hb hk
  · exact h.halts hc (exec_opt hm s) (run := issueOpt) (by unfold issueOpt; rfl) hw hb hk
  · obtain ⟨rfl, rfl⟩ := Prod.mk.inj hm
    exact h.halts hc rfl (run := issueDrn) (by unfold issueDrn; rfl) hw hb hk
  · simp only [List.mem_cons, Prod.mk.injEq, List.not_mem_nil, or_false] at hm
    obtain ⟨rfl, rfl⟩ | ⟨rfl, rfl⟩ := hm
    · exact h.halts hc rfl (run := issueChk) (by unfold issueChk; rfl) hw hb hk
    · exact h.halts hc rfl (run := issueChk) (by unfold issueChk; rfl) hw hb hk

end Sys2Proof.Machine


/-! Queues (R353 to R373): which command is served, how it ends at the start position, how completions are written, and what
writes of a queue's registers do. -/

namespace Sys2Proof.Machine

/-! ### The queue served last is not looked at by a read of device memory -/

/-- R359: queue `k` is the one served last. -/
def State.withLast (k : Nat) (s : State) : State := { s with qmLast := k }

section
variable (k : Nat)

@[simp] theorem rf_withLast (s : State) (l : Loc) : (s.withLast k).rf l = s.rf l := by cases s; rfl
@[simp] theorem flag_withLast (s : State) (l : Loc) : (s.withLast k).flag l = s.flag l := by cases s; rfl
@[simp] theorem wf_withLast (s : State) (l : Loc) (v : Nat) : (s.withLast k).wf l v = (s.wf l v).withLast k := by cases s; rfl
@[simp] theorem bump_withLast (s : State) (l : Loc) (v : Nat) : (s.withLast k).bump l v = (s.bump l v).withLast k := by cases s; rfl
@[simp] theorem masked_withLast (s : State) (page bit : Nat) : (s.withLast k).masked page bit = s.masked page bit := by cases s; rfl
@[simp] theorem pair_withLast (s : State) (n : Nat) : (s.withLast k).pair n = s.pair n := by cases s; rfl
@[simp] theorem setPair_withLast (s : State) (n : Nat) (x : PairSt) :
    (s.withLast k).setPair n x = (s.setPair n x).withLast k := by cases s; rfl
@[simp] theorem cstate_withLast (s : State) (c : Nat) : (s.withLast k).cstate c = s.cstate c := by cases s; rfl
@[simp] theorem stepOf_withLast (s : State) (c : Nat) : (s.withLast k).stepOf c = s.stepOf c := by cases s; rfl
@[simp] theorem stackOf_withLast (s : State) (a : Nat) : (s.withLast k).stackOf a = s.stackOf a := by cases s; rfl

@[simp] theorem errWords_withLast (s : State) (page bit : Nat) :
    (s.withLast k).errWords page bit = (s.errWords page bit).withLast k := by
  simp only [State.errWords, rf_withLast, wf_withLast, bump_withLast, flag_withLast, apply_ite (State.withLast k)]

@[simp] theorem raisePair_withLast (s : State) (page bit : Nat) (b : Bool) :
    (s.withLast k).raisePair page bit b = (s.raisePair page bit b).withLast k := by
  simp only [State.raisePair, masked_withLast, pair_withLast, setPair_withLast, apply_ite (State.withLast k)]

@[simp] theorem raiseSrc_withLast (s : State) (page bit : Nat) :
    (s.withLast k).raiseSrc page bit = (s.raiseSrc page bit).withLast k := by
  simp only [State.raiseSrc, errWords_withLast, raisePair_withLast]

@[simp] theorem raiseFor_withLast (s : State) (page bit : Nat) (c : Option Nat) :
    (s.withLast k).raiseFor page bit c = (s.raiseFor page bit c).withLast k := by
  cases c with
  | none => exact raiseSrc_withLast k s page bit
  | some c =>
    simp only [State.raiseFor, raiseSrc_withLast, masked_withLast, pair_withLast, setPair_withLast, apply_ite (State.withLast k)]

@[simp] theorem blockCause_withLast (s : State) (c b : Nat) : (s.withLast k).blockCause c b = (s.blockCause c b).withLast k := by
  simp only [State.blockCause, cstate_withLast, rf_withLast, wf_withLast, apply_ite (State.withLast k)]

theorem ueUnit_withLast (s : State) : ∀ w : Consumer, (s.withLast k).ueUnit w = s.ueUnit w
  | .stream .. => rfl
  | .fetch .. => rfl
  | .engine .. => rfl
  | .bar2 .. => rfl
  | .cmd .. => rfl
  | .scrub => rfl
  | .merge w => ueUnit_withLast s w

theorem reportUe_withLast (s : State) (w : Consumer) (a : Nat) : (s.withLast k).reportUe w a = (s.reportUe w a).withLast k := by
  unfold State.reportUe
  simp only [stackOf_withLast, bump_withLast, raiseFor_withLast, flag_withLast, rf_withLast, stepOf_withLast, wf_withLast,
    ueUnit_withLast, ← apply_ite (State.withLast k)]
  cases w.ctx? with
  | none => rfl
  | some c => exact blockCause_withLast k _ c 1

theorem readWord_withLast (s : State) (w : Consumer) (a n : Nat) :
    (s.withLast k).readWord w a n = ((s.readWord w a n).1, (s.readWord w a n).2.withLast k) := by
  have hb : ∀ (s : State) (lo hi : Loc) (m : Nat), (s.withLast k).bump64 lo hi m = (s.bump64 lo hi m).withLast k := fun s lo hi m => by
    simp only [State.bump64, rf_withLast, wf_withLast]
  unfold State.readWord
  simp only [stackOf_withLast, hb]
  generalize s.bump64 _ _ _ = t
  have h1 : (t.withLast k).hbmBad = t.hbmBad := by cases t; rfl
  have h2 : (t.withLast k).hbm = t.hbm := by cases t; rfl
  rw [h1, h2]
  cases sget? t.hbmBad (a / 64) with
  | none => rfl
  | some x => exact Prod.ext rfl (reportUe_withLast k t w a)

theorem hbmRead_withLast (s : State) (w : Consumer) (a n : Nat) :
    (s.withLast k).hbmRead w a n = ((s.hbmRead w a n).1, (s.hbmRead w a n).2.withLast k) := by
  unfold State.hbmRead
  suffices h : ∀ (l : List (Nat × Nat)) (b : List Byte) (u : State),
      l.foldl (fun (acc : List Byte × State) (e : Nat × Nat) =>
        let (bs, s) := acc.2.readWord w (acc.2.mapAddr e.1) e.2
        (acc.1 ++ bs, s)) (b, u.withLast k) =
      ((l.foldl (fun (acc : List Byte × State) (e : Nat × Nat) =>
        let (bs, s) := acc.2.readWord w (acc.2.mapAddr e.1) e.2
        (acc.1 ++ bs, s)) (b, u)).1,
       (l.foldl (fun (acc : List Byte × State) (e : Nat × Nat) =>
        let (bs, s) := acc.2.readWord w (acc.2.mapAddr e.1) e.2
        (acc.1 ++ bs, s)) (b, u)).2.withLast k) from h _ _ _
  intro l
  induction l with
  | nil => exact fun _ _ => rfl
  | cons e l ih =>
    intro b u
    have hmap : (u.withLast k).mapAddr e.1 = u.mapAddr e.1 := mapAddr_congr (by cases u; rfl) _
    rw [List.foldl_cons, List.foldl_cons]
    dsimp only
    rw [hmap, readWord_withLast]
    exact ih _ _

/-- R354: the read of the command at the start position is the same whichever queue was served last. -/
theorem readCmd_withLast (s : State) (q : Nat) (ring : Option CmdWord) :
    (s.withLast k).readCmd q ring = ((s.readCmd q ring).1, (s.readCmd q ring).2.withLast k) := by
  have hq : (s.withLast k).queue q = s.queue q := by cases s; rfl
  have hl : (s.withLast k).qLocal q = s.qLocal q := by cases s; rfl
  have hp : ∀ c a n, (s.withLast k).inPartition c a n = s.inPartition c a n := fun _ _ _ => by cases s; rfl
  have hc : (s.withLast k).qCtx q = s.qCtx q := by cases s; rfl
  have ha : ∀ n, (s.withLast k).cmdAddr q n = s.cmdAddr q n := fun _ => by cases s; rfl
  have hst : (s.withLast k).qStart q = s.qStart q := by cases s; rfl
  have hb : ∀ a n, (s.withLast k).readBad a n = s.readBad a n := fun _ _ => by cases s; rfl
  have hw : (s.withLast k).qWho q = s.qWho q := by cases s; rfl
  unfold State.readCmd
  rw [hq]
  cases (s.queue q).head with
  | some w => rfl
  | none =>
    dsimp only
    rw [hl, hp, hc, ha, hst, hb, hw, hbmRead_withLast]
    cases s.qLocal q with
    | false => rfl
    | true =>
      cases s.inPartition (s.qCtx q) (s.cmdAddr q (s.qStart q)) 64 with
      | false => rfl
      | true =>
        cases s.readBad (s.cmdAddr q (s.qStart q)) 64 with
        | true => rfl
        | false => rfl

end

/-! ### A queue in ERROR (R369) -/

/-- R369: a queue's error goes into its `QM_QSTAT` and the page of the queue manager. -/
theorem queueError_reg (s : State) (q n : Nat) {a : Nat} (ha : 0x5000000 ≤ a) (hq : a ≠ A.QM_QSTAT q) :
    (s.queueError q n).reg a = s.reg a := by
  have hfirst : ∀ l : Loc, l.addr = A.QM_QERR_FIRST → a ≠ l.addr := fun l hl => by
    rw [hl, A.QM_QERR_FIRST_val]
    omega
  have hraise : ∀ t : State, ∀ c, (((t.wf (R.QM_QSTAT_STATE q) qError).wf (R.QM_QSTAT_CAUSE q) n).raiseFor Page.qmBase 0 c).reg a =
      t.reg a := fun t c => by
    rw [raiseFor_reg _ _ _ _ (by unfold A.ERR_STAT A.ERR_CNT A.ERR_FIRST Page.qmBase; omega), reg_wf_ne _ _ hq, reg_wf_ne _ _ hq]
  unfold State.queueError
  split
  · rfl
  · dsimp only
    split
    · exact hraise s _
    · rw [reg_wf_ne _ _ (hfirst _ rfl), reg_wf_ne _ _ (hfirst _ rfl), hraise]

/-- R369: the state and, of the first error, the cause. -/
theorem queueError_state {s : State} (h : Store.Sorted s.regs) (q : Nat) {n : Nat} (hn : n < 8) :
    (s.queueError q n).qState q = qError ∧ (s.qState q ≠ qError → (s.queueError q n).rf (R.QM_QSTAT_CAUSE q) = n) := by
  have hq : 0x5000000 ≤ A.QM_QSTAT q := by
    unfold A.QM_QSTAT Page.doorbellBase
    omega
  by_cases he : s.qState q = qError
  · have e : s.queueError q n = s := if_pos he
    rw [e]
    exact ⟨he, fun h => absurd he h⟩
  · have h1 := sorted_wf h (R.QM_QSTAT_STATE q) qError
    have hreg : (s.queueError q n).reg (A.QM_QSTAT q) =
        ((s.wf (R.QM_QSTAT_STATE q) qError).wf (R.QM_QSTAT_CAUSE q) n).reg (A.QM_QSTAT q) := by
      unfold State.queueError
      rw [if_neg he]
      dsimp only
      have hraise := raiseFor_reg ((s.wf (R.QM_QSTAT_STATE q) qError).wf (R.QM_QSTAT_CAUSE q) n) Page.qmBase 0 (some (s.qCtx q))
        (a := A.QM_QSTAT q) (by unfold A.ERR_STAT A.ERR_CNT A.ERR_FIRST Page.qmBase; omega)
      have hfirst : ∀ l : Loc, l.addr = A.QM_QERR_FIRST → A.QM_QSTAT q ≠ l.addr := fun l hl => by
        rw [hl, A.QM_QERR_FIRST_val]
        omega
      split
      · exact hraise
      · rw [reg_wf_ne _ _ (hfirst _ rfl), reg_wf_ne _ _ (hfirst _ rfl)]
        exact hraise
    refine ⟨(rf_congr (l := R.QM_QSTAT_STATE q) hreg).trans ?_, fun _ => (rf_congr (l := R.QM_QSTAT_CAUSE q) hreg).trans ?_⟩
    · rw [rf_wf_bits h1 _ (Nat.le_of_ble_eq_true rfl) (.inl (Nat.le_of_ble_eq_true rfl)), rf_wf_self h (Nat.le_of_ble_eq_true rfl)]
      rfl
    · rw [rf_wf_self h1 (Nat.le_of_ble_eq_true rfl)]
      exact Nat.mod_eq_of_lt hn

/-! ### The command at the start position (R359 to R362) -/

/-- What the read of the command at the start position leaves: registers and pairs apart, nothing changes. -/
theorem readCmd_same {s u : State} {q : Nat} {ring w : Option CmdWord} (h : s.readCmd q ring = (w, u)) : Same 8589934600 s u := by
  have hr := State.readCmd_same (.refl 8589934600 s) rfl q ring
  rw [h] at hr
  exact hr

theorem canon_readCmd {s u : State} (hc : s.Canon) {q : Nat} {ring w : Option CmdWord} (h : s.readCmd q ring = (w, u)) : u.Canon := by
  have hr := State.readCmd_keeps (.refl s) q ring
  rw [h] at hr
  exact hr.canon hc

/-- R359 to R362: what becomes of the command read at the start position of queue `q`. -/
def State.decideStart (q : Nat) (x : Option CmdWord × State) : State :=
  match x.1 with
  | none => x.2.queueError q 2
  | some w =>
    match x.2.headStop q (x.2.qStart q) w with
    | some (st, d) => x.2.stopCmd q w st d
    | none => x.2.setQueue q { x.2.queue q with head := some w, go := true }

/-- COMMAND_START of the queue whose turn it is, with no command there that an abort has ended. -/
theorem execCommandStart_eq {q : Fin 8192} (ring : Option CmdWord) {s : State} (ht : s.hasTurn q = true)
    (hd : ((s.queue q).dead.any fun d => d.seq == s.qStart q) = false) :
    exec (.commandStart q ring) s = .next (State.decideStart q ((s.withLast q).readCmd q ring)) := by
  show execCommandStart q ring s = _
  unfold execCommandStart
  rw [if_neg (by rw [ht]; decide)]
  dsimp only
  rw [show ({ s with qmLast := (q : Nat) } : State) = s.withLast q from rfl]
  refine (if_neg ?_).trans ?_
  · exact Bool.eq_false_iff.mp hd
  generalize (s.withLast q).readCmd q ring = x
  obtain ⟨w, v⟩ := x
  unfold State.decideStart
  cases w with
  | none => rfl
  | some w =>
    dsimp only
    cases v.headStop q (v.qStart q) w with
    | none => rfl
    | some x => rfl

theorem Same.last {s u : State} (h : Same 8589934600 s u) (k : Nat) {M : Nat} (hM : 36028805608898568 ||| M = M) :
    Same M s (u.withLast k) := by
  have h1 : State.restore 36028805608898568 s (u.withLast k) = s :=
    (congrArg (State.withLast s.qmLast) h.frame).trans (by cases s; rfl)
  exact (Same.of_frame h1).mono hM

/-- R359: queue `q` has been served, with the command's word in `u`. -/
structure State.Served (s u v : State) (q : Nat) : Prop where
  canon : v.Canon
  same : Same 36028874328375304 s v
  queues : ∀ r, v.queue r = s.queue r
  stop : ∀ n w, v.headStop q n w = u.headStop q n w
  start : v.qStart q = u.qStart q
  state : v.qState q = u.qState q
  last : v.qmLast = q

theorem served_readCmd {s u : State} (hc : s.Canon) {q : Nat} {ring w : Option CmdWord} (hr : s.readCmd q ring = (w, u)) :
    s.Served u (u.withLast q) q where
  canon := { canon_readCmd hc hr with }
  same := Same.last (readCmd_same hr) q rfl
  queues := queue_of_queues ((readCmd_same hr).queues.resolve_left (by decide))
  stop _ _ := by cases u; rfl
  start := by cases u; rfl
  state := by cases u; rfl
  last := rfl

/-! ### Completions (R355, R359, R366, R369) -/

theorem sendMsg_frame (s : State) (f n : Nat) : { s.sendMsg f n with msgs := s.msgs, msixPend := s.msixPend } = s := by
  unfold State.sendMsg
  split
  · rfl
  · rfl

/-- The completion of queue `q` written to host memory, with its message; the record has left the queue before. -/
def State.postCpl (s : State) (q : Nat) (a : Nat) (b : List Byte) (irq : Bool) : State :=
  if (irq || s.flag (R.QM_QCFG_IRQALL q)) = true then (s.hostWrite (s.qFunc q) a b).sendMsg (s.qFunc q) (s.rf (R.QM_QCFG_VEC q))
  else s.hostWrite (s.qFunc q) a b

/-- R355: the queue with the record of its oldest command gone, and the command counted. -/
def State.countCpl (s : State) (q : Nat) : State :=
  (s.setQueue q { s.queue q with cmds := (s.queue q).cmds.drop 1 }).wf (R.QM_QDONE_COUNT q) (s.qDone q + 1)

theorem countCpl_reg (s : State) (q : Nat) {a : Nat} (h : a ≠ A.QM_QDONE q) : (s.countCpl q).reg a = s.reg a :=
  reg_wf_ne (s.setQueue q { s.queue q with cmds := (s.queue q).cmds.drop 1 }) _ h

theorem countCpl_rf (s : State) (q : Nat) {l : Loc} (h : l.addr ≠ A.QM_QDONE q) : (s.countCpl q).rf l = s.rf l :=
  rf_congr (countCpl_reg s q h)

theorem writeCpl_eq {q : Nat} {ok : Bool} {s : State} {c : QCmd} (h : s.cplDue q = some c) (hl : s.qLocal q = false) :
    s.writeCpl q ok = if ok then (s.countCpl q).postCpl q (s.cplAddr q c.seq) (s.cplBytes q c) c.irq
      else (s.countCpl q).queueError q 3 := by
  have hne : ∀ k, k ≤ 0x114 → Page.doorbellBase q + k ≠ A.QM_QDONE q := fun k hk => by
    unfold A.QM_QDONE
    omega
  have hloc : (s.countCpl q).qLocal q = s.qLocal q :=
    congrArg (· != 0) (countCpl_rf s q (l := R.QM_QCFG_LOC q) (hne 0x100 (by decide)))
  have hlog : (s.countCpl q).qLog q = s.qLog q := countCpl_rf s q (l := R.QM_QCFG_LOGSZ q) (hne 0x100 (by decide))
  have hbytes : (s.countCpl q).cplBytes q c = s.cplBytes q c := by
    unfold State.cplBytes
    rw [hlog]
  unfold State.writeCpl
  rw [h]
  dsimp only
  have e : ((s.setQueue q { s.queue q with cmds := (s.queue q).cmds.drop 1 }).wf (R.QM_QDONE_COUNT q)
      ((s.setQueue q { s.queue q with cmds := (s.queue q).cmds.drop 1 }).qDone q + 1)) = s.countCpl q := rfl
  rw [e, show (s.setQueue q { s.queue q with cmds := (s.queue q).cmds.drop 1 }).qLocal q = false from hl, hloc, hl, hbytes]
  cases ok with
  | false => rfl
  | true => rfl

theorem countCpl_facts {s : State} (hc : s.Canon) (q : Nat) :
    (s.countCpl q).Canon ∧ (s.countCpl q).queue q = { s.queue q with cmds := (s.queue q).cmds.drop 1 } ∧
      (∀ r, r ≠ q → (s.countCpl q).queue r = s.queue r) ∧ (s.countCpl q).qDone q = (s.qDone q + 1) % 2 ^ 32 := by
  refine ⟨?_, queue_setQueue_self hc.queues q _, fun r hr => queue_setQueue_ne s _ hr, ?_⟩
  · exact { hc with queues := sorted_setQueue hc.queues q _, regs := sorted_wf (s := s.setQueue q _) hc.regs _ _ }
  · exact rf_wf_self (s := s.setQueue q _) (l := R.QM_QDONE_COUNT q) hc.regs (Nat.le_of_ble_eq_true rfl) _

/-- R366: what a completion leaves in host memory and of messages. -/
theorem postCpl_message (s : State) (q a : Nat) (b : List Byte) (irq : Bool) :
    ((s.countCpl q).postCpl q a b irq).hostMem = s.hostMem.writeN hostUnit (s.qFunc q * 2 ^ 64 + a) b ∧
    (irq = false → s.flag (R.QM_QCFG_IRQALL q) = false →
      ((s.countCpl q).postCpl q a b irq).msgs = s.msgs ∧ ((s.countCpl q).postCpl q a b irq).msixPend = s.msixPend) ∧
    (irq = true ∨ s.flag (R.QM_QCFG_IRQALL q) = true →
      if s.vecOpen (s.qFunc q) (s.rf (R.QM_QCFG_VEC q)) then
        ((s.countCpl q).postCpl q a b irq).msgs = s.msgs ++ [(s.qFunc q, s.rf (R.QM_QCFG_VEC q))]
      else ((s.countCpl q).postCpl q a b irq).msixPend = sput s.msixPend (vecKey (s.qFunc q) (s.rf (R.QM_QCFG_VEC q))) ()) := by
  have hne : ∀ k, k ≠ 0x120 → Page.doorbellBase q + k ≠ A.QM_QDONE q := fun k hk => by
    unfold A.QM_QDONE
    omega
  have hfn : (s.countCpl q).qFunc q = s.qFunc q := countCpl_rf s q (l := R.QM_QBINDV_FUNC q) (hne 0x124 (by decide))
  have hvec : (s.countCpl q).rf (R.QM_QCFG_VEC q) = s.rf (R.QM_QCFG_VEC q) := countCpl_rf s q (hne 0x100 (by decide))
  have hall : (s.countCpl q).flag (R.QM_QCFG_IRQALL q) = s.flag (R.QM_QCFG_IRQALL q) :=
    congrArg (· != 0) (countCpl_rf s q (l := R.QM_QCFG_IRQALL q) (hne 0x100 (by decide)))
  unfold State.postCpl
  rw [hfn, hvec, hall]
  refine ⟨?_, fun hi hf => ?_, fun h => ?_⟩
  · split
    · exact (congrArg State.hostMem (sendMsg_frame ((s.countCpl q).hostWrite (s.qFunc q) a b) _ _) :)
    · rfl
  · rw [hi, hf]
    exact ⟨rfl, rfl⟩
  · have hb : (irq || s.flag (R.QM_QCFG_IRQALL q)) = true := Bool.or_eq_true_iff.mpr h
    rw [hb]
    simp only [if_true]
    unfold State.sendMsg
    have ho : ((s.countCpl q).hostWrite (s.qFunc q) a b).vecOpen (s.qFunc q) (s.rf (R.QM_QCFG_VEC q)) =
      s.vecOpen (s.qFunc q) (s.rf (R.QM_QCFG_VEC q)) := rfl
    rw [ho]
    cases s.vecOpen (s.qFunc q) (s.rf (R.QM_QCFG_VEC q)) with
    | true => rfl
    | false => rfl

theorem countCpl_same {M : Nat} {s0 s : State} (hk : Same M s0 s) (hM : 68719476744 ||| M = M) (q : Nat) : Same M s0 (s.countCpl q) :=
  State.wf_same (State.setQueue_same hk (sub_sub (by decide) hM) q _) (sub_sub (by decide) hM) _ _

theorem postCpl_same {M : Nat} {s0 s : State} (hk : Same M s0 s) (hM : 9728 ||| M = M) (q a : Nat) (b : List Byte) (irq : Bool) :
    Same M s0 (s.postCpl q a b irq) := by
  unfold State.postCpl
  split
  · exact State.sendMsg_same (State.hostWrite_same hk (sub_sub (by decide) hM) _ _ _) (sub_sub (by decide) hM) _ _
  · exact State.hostWrite_same hk (sub_sub (by decide) hM) _ _ _

/-- R359, R360, R362: the NOP at the start position of its queue is held there or ends there. -/
theorem execNop_verdict {q : Fin 8192} {s : State} {w : CmdWord} (hh : (s.queue q).head = some w) (hg : (s.queue q).go = true)
    (ho : CmdWord.opc w = 0) (hm : s.mayStart q = true) (hz : lowest (reservedBytes w 32 32) = none) :
    (s.startVerdict q (s.qStart q) w = .wait → exec (.nop q) s = .next s) ∧
    ∀ st d, s.startVerdict q (s.qStart q) w = .stop st d → exec (.nop q) s = .next (s.stopCmd q w st d) := by
  have hb : (argsThen (reservedBytes w 32 32) (.run (thenOk q (s.qStart q) id))).isInvalid = false := by
    unfold argsThen
    rw [hz]
    rfl
  have hrun : exec (.nop q) s = .next (match s.startVerdict q (s.qStart q) w with
      | .stop st d => s.stopCmd q w st d
      | .wait => s
      | .go => match argsThen (reservedBytes w 32 32) (.run (thenOk q (s.qStart q) id)) with
        | .stop st d => s.stopCmd q w st d
        | .wait => s
        | .run f => s.launchCmd q w f) := by
    show execNop q s = _
    unfold execNop runCmd
    rw [hh]
    dsimp only
    rw [hg, ho, hm, hb, Bool.and_false]
    rfl
  refine ⟨fun h => ?_, fun st d h => ?_⟩
  · rw [hrun, h]
  · rw [hrun, h]

/-- Settles O23: `decideStart` is the read at the start position, `execNop_verdict` what holds a command there, `writeCpl_eq` the
completion. -/
theorem commandStartDecides : Obligations.CommandStartDecides := by
  refine ⟨fun q ring s u w hc ht hd hr => ?_, fun q s w hc hh hg ho hm hz => ?_, fun q ok s c hc hd hl => ?_⟩
  · refine ⟨_, execCommandStart_eq ring ht hd, ?_⟩
    obtain ⟨hcv, hsame, hqv, hstop, hstart, hstate, hlast⟩ := served_readCmd hc hr
    rw [readCmd_withLast, hr]
    dsimp only
    generalize u.withLast q = v at *
    cases w with
    | none =>
      show s.SameBut (v.queueError q 2) _ ∧ _
      have he := State.queueError_same (.refl 8589934600 v) rfl q 2
      have hq := queue_of_queues (he.queues.resolve_left (by decide))
      obtain ⟨hstateE, hcause⟩ := queueError_state hcv.regs q (n := 2) (by decide)
      exact ⟨(State.queueError_same hsame rfl q 2).but rfl, (he.qmLast.resolve_left (by decide)).trans hlast,
        fun r _ => (hq r).trans (hqv r), hstateE, fun hne => hcause (hstate ▸ hne), (hq q).trans (hqv q)⟩
    | some w =>
      unfold State.decideStart
      dsimp only
      rw [hstart, hstop]
      cases u.headStop q (u.qStart q) w with
      | none =>
        refine ⟨(State.setQueue_same hsame rfl q _).but rfl, hlast, fun r hne => (queue_setQueue_ne v _ hne).trans (hqv r), ?_, hstart⟩
        rw [queue_setQueue_self hcv.queues, hqv]
      | some x =>
        refine ⟨(State.stopCmd_same hsame rfl q w _ _).but rfl, hlast, fun r hne => (queue_passStart_ne v _ hne).trans (hqv r), ?_, ?_⟩
        · unfold State.stopCmd
          rw [queue_passStart_self hcv.queues, hqv, hstart]
        · unfold State.stopCmd
          rw [qStart_passStart hcv.regs, hstart]
  · obtain ⟨hwait, hstop⟩ := execNop_verdict hh hg ho hm hz
    exact ⟨hwait, fun st d h => ⟨_, hstop st d h, (State.stopCmd_same (.refl 68719476744 s) rfl q w st d).but rfl,
      qStart_passStart hc.regs q _, queue_passStart_self hc.queues q _, fun r hne => queue_passStart_ne s _ hne⟩⟩
  · obtain ⟨hcc, hself, hothers, hdone⟩ := countCpl_facts hc q
    have hcount := countCpl_same (.refl 68719476744 s) rfl q
    have hexec : exec (.completionWrite q ok) s = .next (s.writeCpl q ok) := rfl
    rw [writeCpl_eq hd hl] at hexec
    refine ⟨_, hexec, ?_⟩
    cases ok with
    | false =>
      have he := State.queueError_same (.refl 8589934600 (s.countCpl q)) rfl q 3
      have hq := queue_of_queues (he.queues.resolve_left (by decide))
      obtain ⟨hstate, hcause⟩ := queueError_state hcc.regs q (n := 3) (by decide)
      refine ⟨(State.queueError_same (hcount.mono (N := 77309421064) rfl) rfl q 3).but rfl, (hq q).trans hself,
        fun r hne => (hq r).trans (hothers r hne), ?_, nofun, nofun, nofun, fun _ =>
        ⟨(he.hostMem.resolve_left (by decide)), he.msgs.resolve_left (by decide), hstate, fun hne => hcause ?_⟩⟩
      · refine (rf_congr ?_).trans hdone
        exact queueError_reg _ _ _ (by show _ ≤ Page.doorbellBase q + 0x120; unfold Page.doorbellBase; omega)
          (by show Page.doorbellBase q + 0x120 ≠ Page.doorbellBase q + 0x114; omega)
      · rw [State.qState, countCpl_rf s q (by show Page.doorbellBase q + 0x114 ≠ Page.doorbellBase q + 0x120; omega)]
        exact hne
    | true =>
      have hp := postCpl_same (.refl 9728 (s.countCpl q)) rfl q (s.cplAddr q c.seq) (s.cplBytes q c) c.irq
      have hq := queue_of_queues (hp.queues.resolve_left (by decide))
      obtain ⟨hmem, hquiet, hmsg⟩ := postCpl_message s q (s.cplAddr q c.seq) (s.cplBytes q c) c.irq
      refine ⟨(postCpl_same (hcount.mono (N := 77309421064) rfl) rfl q _ _ _).but rfl, (hq q).trans hself,
        fun r hne => (hq r).trans (hothers r hne), ?_, fun _ => hmem, fun _ => hquiet, fun _ => hmsg, nofun⟩
      exact (rf_of_regs (hp.regs.resolve_left (by decide)) _).trans hdone

end Sys2Proof.Machine


/-! Register tables (R15, R16): the fields of a register lie apart, so a write of the register gives each field what its row says. -/

namespace Sys2Proof.Machine

/-! ### One field -/

/-- The bits of two fields lie apart. -/
def FieldRow.apart (r q : FieldRow) : Bool := r.lo + r.wid ≤ q.lo || q.lo + q.wid ≤ r.lo

/-- Two rows never describe the same register: their registers lie in different ranges or are interleaved. -/
def FieldRow.elsewhere (r q : FieldRow) : Bool :=
  r.off + r.stride * (r.count - 1) < q.off || q.off + q.stride * (q.count - 1) < r.off ||
    (r.stride == q.stride && r.off % r.stride != q.off % r.stride)

theorem FieldRow.covers_range {r : FieldRow} {o : Nat} (h : r.covers o = true) :
    r.off ≤ o ∧ o ≤ r.off + r.stride * (r.count - 1) ∧ o % r.stride = r.off % r.stride := by
  unfold FieldRow.covers at h
  split at h
  next hz =>
    have := beq_iff_eq.mp h
    rw [hz]
    omega
  next hz =>
    simp only [Bool.and_eq_true, decide_eq_true_eq, beq_iff_eq] at h
    obtain ⟨⟨h1, h2⟩, h3⟩ := h
    have hd : (o - r.off) / r.stride ≤ r.count - 1 := by omega
    have hm := Nat.mul_le_mul_left r.stride hd
    have he := Nat.div_add_mod (o - r.off) r.stride
    refine ⟨h1, by omega, ?_⟩
    have ho : o = r.off + r.stride * ((o - r.off) / r.stride) := by omega
    rw [ho, Nat.add_mul_mod_self_left]

theorem FieldRow.not_elsewhere {r q : FieldRow} {o : Nat} (hr : r.covers o = true) (hq : q.covers o = true) : r.elsewhere q = false := by
  obtain ⟨r1, r2, r3⟩ := FieldRow.covers_range hr
  obtain ⟨q1, q2, q3⟩ := FieldRow.covers_range hq
  simp only [FieldRow.elsewhere, Bool.or_eq_false_iff, Bool.and_eq_false_iff, decide_eq_false_iff_not, beq_eq_false_iff_ne,
    bne_eq_false_iff_eq]
  refine ⟨⟨by omega, by omega⟩, ?_⟩
  by_cases h : r.stride = q.stride
  · right
    rw [← r3, h, q3]
  · exact .inl h

/-! ### The tables -/

/-- Every field of the table fits its register, and two fields of one register lie apart. -/
def rowsSound : List FieldRow → Bool
  | [] => true
  | r :: l => decide (r.lo + r.wid ≤ 32) && l.all (fun q => r.apart q || r.elsewhere q) && rowsSound l

theorem rowsSound_page (p : Page) : rowsSound p.rows = true := by
  cases p with
  | steading => decide +kernel
  | hostif => decide +kernel
  | qm => decide +kernel
  | collector => decide +kernel
  | almanac => decide +kernel
  | hang => decide +kernel
  | power => decide +kernel
  | clock => decide +kernel
  | security => decide +kernel
  | mgmt => decide +kernel
  | fabric => decide +kernel
  | commit => decide +kernel
  | serving c => exact (by decide +kernel : rowsSound (Page.serving 0).rows = true)
  | context c => exact (by decide +kernel : rowsSound (Page.context 0).rows = true)
  | mailbox i => exact (by decide +kernel : rowsSound (Page.mailbox 0).rows = true)
  | field f => exact (by decide +kernel : rowsSound (Page.field 0).rows = true)
  | hbm f m => exact (by decide +kernel : rowsSound (Page.hbm 0 0).rows = true)
  | fieldmem f => exact (by decide +kernel : rowsSound (Page.fieldmem 0).rows = true)
  | port p => exact (by decide +kernel : rowsSound (Page.port 0).rows = true)
  | colleng f => exact (by decide +kernel : rowsSound (Page.colleng 0).rows = true)
  | furrow f n => exact (by decide +kernel : rowsSound (Page.furrow 0 0).rows = true)
  | doorbell q => exact (by decide +kernel : rowsSound (Page.doorbell 0).rows = true)

/-! ### Bits of a word -/

theorem testBit_wbits (w : Word32) (lo wid i : Nat) : (wbits w lo wid).testBit i = (decide (i < wid) && w.getLsbD (lo + i)) := by
  unfold wbits
  rw [BitVec.testBit_toNat, BitVec.getLsbD_extractLsb']

theorem wbits_insertBits_self (w : Word32) {lo wid : Nat} (v : Nat) (h : lo + wid ≤ 32) :
    wbits (insertBits w lo wid v) lo wid = v % 2 ^ wid := extract_insertBits_self w lo wid v h

theorem wbits_insertBits_apart (w : Word32) {lo wid lo' wid' : Nat} (v : Nat) (h : lo + wid ≤ 32)
    (hd : lo' + wid' ≤ lo ∨ lo + wid ≤ lo') : wbits (insertBits w lo wid v) lo' wid' = wbits w lo' wid' :=
  congrArg BitVec.toNat (extract_insertBits_ne w lo wid v lo' wid' h hd)

theorem wbits_lt (w : Word32) (lo wid : Nat) : wbits w lo wid < 2 ^ wid := BitVec.isLt _

/-- R15, R16: what a write of `v` makes of the field of row `r`. -/
def FieldRow.after (r : FieldRow) (v w : Word32) : Nat :=
  match r.acc with
  | .rw => if r.legal.ok (wbits v r.lo r.wid) then wbits v r.lo r.wid else wbits w r.lo r.wid
  | .w1c => (BitVec.ofNat 32 (wbits w r.lo r.wid) &&& ~~~BitVec.ofNat 32 (wbits v r.lo r.wid)).toNat
  | _ => wbits w r.lo r.wid

theorem getLsbD_cleared (w : Word32) (x lo i : Nat) :
    (w &&& ~~~BitVec.ofNat 32 (x <<< lo)).getLsbD i = (w.getLsbD i && !(decide (lo ≤ i) && x.testBit (i - lo))) := by
  rw [BitVec.getLsbD_and, BitVec.getLsbD_not, BitVec.getLsbD_ofNat, Nat.testBit_shiftLeft]
  by_cases hi : i < 32
  · simp [hi]
  · rw [BitVec.getLsbD_of_ge w i (by omega)]
    simp

theorem wbits_write_self (r : FieldRow) (v w : Word32) (h : r.lo + r.wid ≤ 32) : wbits (r.write v w) r.lo r.wid = r.after v w := by
  unfold FieldRow.write FieldRow.after
  dsimp only
  cases r.acc with
  | rw =>
    dsimp only
    split
    · rw [wbits_insertBits_self w _ h]
      exact Nat.mod_eq_of_lt (wbits_lt _ _ _)
    · rfl
  | w1c =>
    refine Nat.eq_of_testBit_eq fun i => ?_
    rw [testBit_wbits, getLsbD_cleared, BitVec.testBit_toNat, BitVec.getLsbD_and, BitVec.getLsbD_not,
      BitVec.getLsbD_ofNat, BitVec.getLsbD_ofNat, testBit_wbits, testBit_wbits, Nat.add_sub_cancel_left, testBit_wbits]
    by_cases hi : i < r.wid
    · have h32 : i < 32 := by omega
      simp [hi, h32]
    · simp [hi]
  | ro => rfl
  | w1s => rfl
  | wo => rfl
  | rc => rfl

theorem wbits_write_apart {r q : FieldRow} (v w : Word32) (h : q.lo + q.wid ≤ 32) (ha : q.apart r = true) :
    wbits (q.write v w) r.lo r.wid = wbits w r.lo r.wid := by
  have hd : r.lo + r.wid ≤ q.lo ∨ q.lo + q.wid ≤ r.lo := by
    simp only [FieldRow.apart, Bool.or_eq_true, decide_eq_true_eq] at ha
    exact ha.symm
  unfold FieldRow.write
  dsimp only
  split
  next =>
    split
    · exact wbits_insertBits_apart w _ h hd
    · rfl
  next =>
    refine Nat.eq_of_testBit_eq fun i => ?_
    rw [testBit_wbits, testBit_wbits, getLsbD_cleared]
    by_cases hi : i < r.wid
    · rw [testBit_wbits]
      by_cases hq : q.lo ≤ r.lo + i
      · have hge : ¬r.lo + i - q.lo < q.wid := by omega
        simp [hi, hge]
      · simp [hi, hq]
    · simp [hi]
  next => rfl

/-! ### A register's fields -/

/-- The fields of a register fit it and lie apart. -/
def RowsApart (l : List FieldRow) : Prop := (∀ r ∈ l, r.lo + r.wid ≤ 32) ∧ l.Pairwise fun r q => r.apart q = true

theorem FieldRow.apart_comm (r q : FieldRow) : r.apart q = q.apart r := by
  unfold FieldRow.apart
  rw [Bool.or_comm]

theorem rowsApart_filter {o : Nat} : ∀ {l : List FieldRow}, rowsSound l = true → RowsApart (l.filter fun r => r.covers o)
  | [], _ => ⟨nofun, List.Pairwise.nil⟩
  | r :: l, h => by
    simp only [rowsSound, Bool.and_eq_true, decide_eq_true_eq] at h
    obtain ⟨⟨hfit, hall⟩, hl⟩ := h
    obtain ⟨hfits, hpair⟩ := rowsApart_filter (o := o) hl
    by_cases hr : r.covers o = true
    · rw [List.filter_cons, if_pos hr]
      refine ⟨List.forall_mem_cons.mpr ⟨hfit, hfits⟩, List.pairwise_cons.mpr ⟨fun q hq => ?_, hpair⟩⟩
      obtain ⟨hq, hcov⟩ := List.mem_filter.mp hq
      have := List.all_eq_true.mp hall q hq
      rw [FieldRow.not_elsewhere hr hcov, Bool.or_false] at this
      exact this
    · rw [List.filter_cons, if_neg hr]
      exact ⟨hfits, hpair⟩

theorem rowsApart_rowsAt (a : Nat) : RowsApart (rowsAt a) := by
  unfold rowsAt
  split
  · exact ⟨nofun, List.Pairwise.nil⟩
  · exact rowsApart_filter (rowsSound_page _)

theorem RowsApart.filter {l : List FieldRow} (h : RowsApart l) (p : FieldRow → Bool) : RowsApart (l.filter p) :=
  ⟨fun r hr => h.1 r (List.mem_of_mem_filter hr), h.2.sublist List.filter_sublist⟩

/-- Bits that every field leaves alone. -/
theorem wbits_rowsWrite_apart {r : FieldRow} (v : Word32) : ∀ (l : List FieldRow) (w : Word32),
    (∀ q ∈ l, q.lo + q.wid ≤ 32 ∧ q.apart r = true) → wbits (rowsWrite l v w) r.lo r.wid = wbits w r.lo r.wid
  | [], _, _ => rfl
  | q :: l, w, h => by
    obtain ⟨hq, hqa⟩ := h q List.mem_cons_self
    exact (wbits_rowsWrite_apart v l (q.write v w) fun x hx => h x (List.mem_cons_of_mem q hx)).trans (wbits_write_apart v w hq hqa)

theorem after_congr (r : FieldRow) (v : Word32) {w w' : Word32} (h : wbits w' r.lo r.wid = wbits w r.lo r.wid) :
    r.after v w' = r.after v w := by
  unfold FieldRow.after
  rw [h]

/-- R15, R16: a register's write gives each of its fields what its row says. -/
theorem wbits_rowsWrite {r : FieldRow} (v : Word32) : ∀ {l : List FieldRow} (w : Word32), RowsApart l → r ∈ l →
    wbits (rowsWrite l v w) r.lo r.wid = r.after v w
  | q :: l, w, ⟨hfit, hpair⟩, hr => by
    obtain ⟨hq, hl⟩ := List.pairwise_cons.mp hpair
    have hfits : ∀ x ∈ l, x.lo + x.wid ≤ 32 := fun x hx => hfit x (List.mem_cons_of_mem q hx)
    obtain rfl | hr := List.mem_cons.mp hr
    · refine (wbits_rowsWrite_apart v l (r.write v w) fun x hx => ⟨hfits x hx, ?_⟩).trans
        (wbits_write_self r v w (hfit r List.mem_cons_self))
      rw [FieldRow.apart_comm]
      exact hq x hx
    · exact (wbits_rowsWrite v (q.write v w) ⟨hfits, hl⟩ hr).trans
        (after_congr r v (wbits_write_apart v w (hfit q List.mem_cons_self) (hq r hr)))

end Sys2Proof.Machine


/-! Writes of a queue's registers (R353, R355, R357, R369, R372, R373). -/

namespace Sys2Proof.Machine

theorem pageAt_doorbell (q : Fin 8192) {o : Nat} (ho : o < 0x1000) : pageAt (Page.doorbellBase q + o) = some (.doorbell q) := by
  have hq := q.2
  have hi : (Page.doorbellBase q + o) / 0x1000 = 0x5000 + q := by
    unfold Page.doorbellBase
    omega
  unfold pageAt
  dsimp only
  rw [hi, if_pos ⟨by omega, by omega⟩, Nat.add_sub_cancel_left]

theorem rowsAt_doorbell (q : Fin 8192) {o : Nat} (ho : o < 0x1000) :
    rowsAt (Page.doorbellBase q + o) = rows_doorbell.filter fun r => r.covers o := by
  have hm : (Page.doorbellBase q + o) % 0x1000 = o := by
    unfold Page.doorbellBase
    omega
  unfold rowsAt
  rw [pageAt_doorbell q ho, hm]
  rfl

/-- The field that row `r` describes, after a write of its register that leaves out others. -/
theorem rf_writeBut {s : State} (h : Store.Sorted s.regs) {a : Nat} (v : Word32) {skip : List Nat} {r : FieldRow} (hr : r ∈ rowsAt a)
    (hs : skip.contains r.lo = false) : (s.writeBut a v skip).rf ⟨a, r.lo, r.wid⟩ = r.after v (s.reg a) := by
  have hf : r ∈ (rowsAt a).filter fun r => !skip.contains r.lo := List.mem_filter.mpr ⟨hr, by rw [hs]; rfl⟩
  rw [← wbits_rowsWrite v (s.reg a) ((rowsApart_rowsAt a).filter _) hf]
  show wbits ((s.writeBut a v skip).reg a) r.lo r.wid = _
  unfold State.writeBut
  rw [reg_setReg_self h]

theorem sorted_writeBut {s : State} (h : Store.Sorted s.regs) (a : Nat) (v : Word32) (skip : List Nat) :
    Store.Sorted (s.writeBut a v skip).regs := sorted_setReg h _ _

/-- R357: a write of `QM_QCFG` gives `EN` its bit. -/
theorem en_cfgWrite {s : State} (h : Store.Sorted s.regs) (q : Fin 8192) (v : Word32) :
    (s.cfgWrite q v).flag (R.QM_QCFG_EN q) = v.getLsbD 0 := by
  have hr : (⟨0x100, 0, 1, 0, 1, .rw, 0, .any⟩ : FieldRow) ∈ rowsAt (A.QM_QCFG q) := by
    unfold A.QM_QCFG
    rw [rowsAt_doorbell q (by decide)]
    decide
  have hskip : ∀ b c : Bool, ((if b then [1, 8] else []) ++ if c then [] else [16]).contains 0 = false := by decide
  have hrf := rf_writeBut (s := s) h v hr (hskip (s.flag (R.QM_QCFG_EN q)) (vecLegal (s.qFunc q) (wbits v 16 11)))
  have hv : (wbits v 0 1 != 0) = v.getLsbD 0 := by
    have := testBit_wbits v 0 1 0
    have hlt := wbits_lt v 0 1
    obtain h0 | h1 : wbits v 0 1 = 0 ∨ wbits v 0 1 = 1 := by omega
    · rw [h0] at this ⊢
      simpa using this.symm
    · rw [h1] at this ⊢
      simpa using this.symm
  rw [← hv]
  exact congrArg (· != 0) hrf

theorem cfgWrite_reg (s : State) (q : Nat) (v : Word32) {a : Nat} (h : a ≠ A.QM_QCFG q) : (s.cfgWrite q v).reg a = s.reg a :=
  reg_setReg_ne s _ h

theorem sorted_cfgWrite {s : State} (h : Store.Sorted s.regs) (q : Nat) (v : Word32) : Store.Sorted (s.cfgWrite q v).regs :=
  sorted_writeBut h _ _ _

/-! ### Doorbells (R355) -/

/-- R355: the doorbell `v` moves backward or leaves the ring. -/
def State.bellBad (s : State) (q : Nat) (v : Word32) : Bool :=
  (v.toNat + 2 ^ 32 - s.qDb q) % 2 ^ 32 ≥ 2 ^ 31 || (v.toNat + 2 ^ 32 - s.qDone q) % 2 ^ 32 > 2 ^ s.qLog q

/-- R355: the doorbell taken. -/
def State.takeBell (s : State) (q : Nat) (v : Word32) : State :=
  (s.setReg (A.QM_QDB q) v).setCtx (s.qCtx q) { s.ctx (s.qCtx q) with settled := false }

theorem ringBell_eq (s : State) (q : Nat) (v : Word32) (h : s.flag (R.QM_QCFG_EN q) = true) :
    s.ringBell q v = if s.bellBad q v then (s.takeBell q v).queueError q 1 else s.takeBell q v := by
  unfold State.ringBell
  rw [if_neg (by rw [h]; decide)]
  unfold State.bellBad State.takeBell
  rfl

theorem qDb_of_reg {s : State} {q : Nat} {v : Word32} (h : s.reg (A.QM_QDB q) = v) : s.qDb q = v.toNat := by
  show ((s.reg (A.QM_QDB q)).extractLsb' 0 32).toNat = v.toNat
  rw [h, BitVec.extractLsb'_eq_self]

theorem doorbell_outcome {s : State} (hc : s.Canon) (q : Fin 8192) (v : Word32) (h : s.flag (R.QM_QCFG_EN q) = true) :
    (s.ringBell q v).qDb q = v.toNat ∧
      if (v.toNat + 2 ^ 32 - s.qDb q) % 2 ^ 32 < 2 ^ 31 ∧ (v.toNat + 2 ^ 32 - s.qDone q) % 2 ^ 32 ≤ 2 ^ s.qLog q then
        ∀ a, a ≠ A.QM_QDB q → (s.ringBell q v).reg a = s.reg a
      else (s.ringBell q v).qState q = qError ∧ (s.qState q ≠ qError → (s.ringBell q v).rf (R.QM_QSTAT_CAUSE q) = 1) := by
  have hself : (s.takeBell q v).reg (A.QM_QDB q) = v := reg_setReg_self hc.regs _ _
  have hne : ∀ a, a ≠ A.QM_QDB q → (s.takeBell q v).reg a = s.reg a := fun a ha => reg_setReg_ne s _ ha
  have hsorted : Store.Sorted (s.takeBell q v).regs := sorted_setReg hc.regs _ _
  have hdbell : 0x5000000 ≤ A.QM_QDB q := by
    unfold A.QM_QDB Page.doorbellBase
    omega
  have hstat : A.QM_QDB q ≠ A.QM_QSTAT q := by
    unfold A.QM_QDB A.QM_QSTAT
    omega
  rw [ringBell_eq s q v h]
  generalize s.takeBell q v = t at *
  have hbad : s.bellBad q v = true ↔ ¬((v.toNat + 2 ^ 32 - s.qDb q) % 2 ^ 32 < 2 ^ 31 ∧
      (v.toNat + 2 ^ 32 - s.qDone q) % 2 ^ 32 ≤ 2 ^ s.qLog q) := by
    rw [State.bellBad, Bool.or_eq_true, decide_eq_true_eq, decide_eq_true_eq]
    omega
  by_cases hb : s.bellBad q v = true
  · obtain ⟨hstate, hcause⟩ := queueError_state hsorted q (n := 1) (by decide)
    rw [if_pos hb, if_neg (hbad.mp hb)]
    refine ⟨qDb_of_reg ((queueError_reg t q 1 hdbell hstat).trans hself), hstate, fun hs => hcause ?_⟩
    rw [State.qState, rf_congr (hne _ hstat.symm)]
    exact hs
  · rw [if_neg hb, if_pos (by rw [hbad] at hb; exact Classical.not_not.mp hb)]
    exact ⟨qDb_of_reg hself, hne⟩

/-! ### Enabling and disabling (R357) -/

/-- R357: the registers of a queue that is enabled, each other word as it was. -/
def State.openRegs (s : State) (q : Nat) (v : Word32) : State :=
  (((((s.cfgWrite q v).setReg (A.QM_QDB q) 0).setReg (A.QM_QSTART q) 0).setReg (A.QM_QDONE q) 0).wf (R.QM_QSTAT_STATE q) qActive).wf
    (R.QM_QSTAT_CAUSE q) 0

theorem openRegs_frame (s : State) (q : Nat) (v : Word32) : { s.openRegs q v with regs := s.regs } = s := by
  iterate 5 refine frame_regs (setReg_frame _ _ _) ?_
  exact setReg_frame _ _ _

theorem enableQueue_eq {s : State} {q : Nat} (v : Word32) (hr : s.resident (s.qCtx q) = true) (he : s.flag (R.QM_QCFG_EN q) = false) :
    s.enableQueue q v = ((s.openRegs q v).emptyQueue q).endFence (.queue q) := by
  unfold State.enableQueue
  rw [if_neg (by rw [hr]; decide), if_neg (by rw [he]; decide)]
  rfl

theorem bell_ne (q : Nat) {j k : Nat} (h : j ≠ k) : Page.doorbellBase q + j ≠ Page.doorbellBase q + k := by omega

theorem openRegs_regs {s : State} (hc : s.Canon) (q : Fin 8192) (v : Word32) :
    (s.openRegs q v).qState q = qActive ∧ (s.openRegs q v).rf (R.QM_QSTAT_CAUSE q) = 0 ∧ (s.openRegs q v).qDb q = 0 ∧
      (s.openRegs q v).qStart q = 0 ∧ (s.openRegs q v).qDone q = 0 ∧ (s.openRegs q v).flag (R.QM_QCFG_EN q) = v.getLsbD 0 := by
  have h0 := sorted_cfgWrite hc.regs q v
  have h1 := sorted_setReg h0 (A.QM_QDB q) 0
  have h2 := sorted_setReg h1 (A.QM_QSTART q) 0
  have h3 := sorted_setReg h2 (A.QM_QDONE q) 0
  have h4 := sorted_wf h3 (R.QM_QSTAT_STATE q) qActive
  have hzero : ∀ {u : State} {l : Loc}, u.reg l.addr = 0 → u.rf l = 0 := fun {u l} h => by
    show ((u.reg l.addr).extractLsb' l.lo l.wid).toNat = 0
    rw [h]
    simp
  have hup : ∀ {k : Nat}, k ≠ 0x114 → (s.openRegs q v).reg (Page.doorbellBase q + k) =
      ((((s.cfgWrite q v).setReg (A.QM_QDB q) 0).setReg (A.QM_QSTART q) 0).setReg (A.QM_QDONE q) 0).reg (Page.doorbellBase q + k) :=
    fun {k} hk => (reg_wf_ne _ _ (show _ ≠ Page.doorbellBase q + 0x114 from bell_ne q hk)).trans
      (reg_wf_ne _ _ (show _ ≠ Page.doorbellBase q + 0x114 from bell_ne q hk))
  have hdone : ∀ {k : Nat} {u : State}, k ≠ 0x120 →
      (u.setReg (A.QM_QDONE q) 0).reg (Page.doorbellBase q + k) = u.reg (Page.doorbellBase q + k) := fun hk =>
    reg_setReg_ne _ _ (bell_ne q hk)
  have hstart : ∀ {k : Nat} {u : State}, k ≠ 0x11c →
      (u.setReg (A.QM_QSTART q) 0).reg (Page.doorbellBase q + k) = u.reg (Page.doorbellBase q + k) := fun hk =>
    reg_setReg_ne _ _ (bell_ne q hk)
  refine ⟨?_, rf_wf_self h4 (Nat.le_of_ble_eq_true rfl) _, hzero ?_, hzero ?_, hzero ?_, ?_⟩
  · refine (rf_wf_bits h4 _ (Nat.le_of_ble_eq_true rfl) (.inl (Nat.le_of_ble_eq_true rfl))).trans ?_
    exact rf_wf_self h3 (Nat.le_of_ble_eq_true rfl) _
  · refine (hup (k := 0x118) (by decide)).trans ((hdone (by decide)).trans ((hstart (by decide)).trans ?_))
    exact reg_setReg_self h0 _ _
  · refine (hup (k := 0x11c) (by decide)).trans ((hdone (by decide)).trans ?_)
    exact reg_setReg_self h1 _ _
  · exact (hup (k := 0x120) (by decide)).trans (reg_setReg_self h2 _ _)
  · rw [← en_cfgWrite hc.regs q v]
    refine congrArg (· != 0) (rf_congr (l := R.QM_QCFG_EN q) ((hup (k := 0x100) (by decide)).trans ((hdone (by decide)).trans
      ((hstart (by decide)).trans ?_))))
    exact reg_setReg_ne _ _ (bell_ne q (j := 0x100) (k := 0x118) (by decide))

theorem isFenced_endFence (s : State) (d : Dom) : (s.endFence d).isFenced d = false := by
  have h : (s.fences.filter fun e => e.1 != d).find? (fun e => e.1 == d) = none := by
    rw [List.find?_eq_none]
    intro e he
    have := (List.mem_filter.mp he).2
    simpa using this
  show ((s.fences.filter fun e => e.1 != d).find? (fun e => e.1 == d) |>.map Prod.snd).isSome = false
  rw [h]
  rfl

/-- R357: the registers of a queue that is disabled at rest. -/
def State.shutRegs (s : State) (q : Nat) (v : Word32) : State := (s.cfgWrite q v).wf (R.QM_QSTAT_STATE q) qDisabled

theorem disableQueue_eq {s : State} {q : Nat} (v : Word32) (he : s.flag (R.QM_QCFG_EN q) = true)
    (hr : s.qState q = qError ∨ s.qDone q = s.qDb q) : s.disableQueue q v = ((s.detachQueue q).shutRegs q v).emptyQueue q := by
  unfold State.disableQueue
  rw [if_neg (by rw [he]; decide), if_neg (by rintro ⟨h1, h2⟩; exact hr.elim h1 h2)]
  rfl

theorem shutRegs_frame (s : State) (q : Nat) (v : Word32) : { s.shutRegs q v with regs := s.regs } = s :=
  frame_regs (wf_frame _ _ _) (setReg_frame _ _ _)

theorem shutRegs_regs {s : State} (h : Store.Sorted s.regs) (q : Fin 8192) (v : Word32) :
    (s.shutRegs q v).qState q = qDisabled ∧ (s.shutRegs q v).flag (R.QM_QCFG_EN q) = v.getLsbD 0 := by
  refine ⟨rf_wf_self (sorted_cfgWrite h q v) (Nat.le_of_ble_eq_true rfl) _, ?_⟩
  rw [← en_cfgWrite h q v]
  exact congrArg (· != 0) (rf_wf_addr (s.cfgWrite q v) qDisabled (l := R.QM_QSTAT_STATE q) (m := R.QM_QCFG_EN q) (bell_ne q (by decide)))

/-! ### Binding (R353) -/

/-- R353: `QM_QBINDV` of the selected queue takes the fields of a bind. -/
def State.takeBind (s : State) (q : Nat) (v : Word32) : State :=
  if wbits v 16 3 ≤ 4 then
    ((s.wf (R.QM_QBINDV_FUNC q) (wbits v 0 6)).wf (R.QM_QBINDV_CTX q) (wbits v 8 6)).wf (R.QM_QBINDV_CLASS q) (wbits v 16 3)
  else (s.wf (R.QM_QBINDV_FUNC q) (wbits v 0 6)).wf (R.QM_QBINDV_CTX q) (wbits v 8 6)

theorem bindQueue_takes {s : State} {v : Word32} (he : s.flag (R.QM_QCFG_EN (s.rf R.QM_QSEL_QUEUE)) = false)
    (hb : wbits v 0 6 = 0 ∨ (s.resident (wbits v 8 6) = true ∧ s.client (wbits v 8 6) = wbits v 0 6)) :
    s.bindQueue v = s.takeBind (s.rf R.QM_QSEL_QUEUE) v := by
  have hok : (wbits v 0 6 != 0 && !(s.resident (wbits v 8 6) && s.client (wbits v 8 6) == wbits v 0 6)) = false := by
    obtain h | ⟨h1, h2⟩ := hb
    · rw [h]
      rfl
    · rw [h1, h2]
      simp
  unfold State.bindQueue
  dsimp only
  rw [he, hok]
  rfl

theorem bindQueue_refuses {s : State} {v : Word32} (h : s.flag (R.QM_QCFG_EN (s.rf R.QM_QSEL_QUEUE)) = true ∨
    (wbits v 0 6 ≠ 0 ∧ ¬(s.resident (wbits v 8 6) = true ∧ s.client (wbits v 8 6) = wbits v 0 6))) :
    s.bindQueue v = s.setQueue (s.rf R.QM_QSEL_QUEUE) { s.queue (s.rf R.QM_QSEL_QUEUE) with refused := true } := by
  unfold State.bindQueue
  dsimp only
  refine if_pos ?_
  obtain h | ⟨h1, h2⟩ := h
  · rw [h]
    rfl
  · have hn : (s.resident (wbits v 8 6) && s.client (wbits v 8 6) == wbits v 0 6) = false := by
      rw [Bool.eq_false_iff]
      simpa using h2
    rw [hn, bne_iff_ne.mpr h1, Bool.not_false, Bool.and_self, Bool.or_true]

theorem takeBind_frame (s : State) (q : Nat) (v : Word32) : { s.takeBind q v with regs := s.regs } = s := by
  unfold State.takeBind
  split
  · exact frame_regs (wf_frame _ _ _) (frame_regs (wf_frame _ _ _) (wf_frame _ _ _))
  · exact frame_regs (wf_frame _ _ _) (wf_frame _ _ _)

theorem Same.of_regs {s t : State} (h : { t with regs := s.regs } = s) : Same 8 s t := Same.of_frame (M := 8) h

theorem takeBind_reg (s : State) (q : Nat) (v : Word32) {a : Nat} (h : a ≠ A.QM_QBINDV q) : (s.takeBind q v).reg a = s.reg a := by
  unfold State.takeBind
  split
  · rw [reg_wf_ne _ _ h, reg_wf_ne _ _ h, reg_wf_ne _ _ h]
  · rw [reg_wf_ne _ _ h, reg_wf_ne _ _ h]

theorem takeBind_fields {s : State} (h : Store.Sorted s.regs) (q : Nat) (v : Word32) :
    (s.takeBind q v).qFunc q = wbits v 0 6 ∧ (s.takeBind q v).qCtx q = wbits v 8 6 ∧
      (s.takeBind q v).qClass q = if wbits v 16 3 ≤ 4 then wbits v 16 3 else s.qClass q := by
  have h1 := sorted_wf h (R.QM_QBINDV_FUNC q) (wbits v 0 6)
  have h2 := sorted_wf h1 (R.QM_QBINDV_CTX q) (wbits v 8 6)
  have hf : ((s.wf (R.QM_QBINDV_FUNC q) (wbits v 0 6)).wf (R.QM_QBINDV_CTX q) (wbits v 8 6)).qFunc q = wbits v 0 6 := by
    refine (rf_wf_bits h1 _ (Nat.le_of_ble_eq_true rfl) (.inl (Nat.le_of_ble_eq_true rfl))).trans
      ((rf_wf_self h (Nat.le_of_ble_eq_true rfl) _).trans ?_)
    exact Nat.mod_eq_of_lt (wbits_lt v 0 6)
  have hx : ((s.wf (R.QM_QBINDV_FUNC q) (wbits v 0 6)).wf (R.QM_QBINDV_CTX q) (wbits v 8 6)).qCtx q = wbits v 8 6 :=
    (rf_wf_self h1 (Nat.le_of_ble_eq_true rfl) _).trans (Nat.mod_eq_of_lt (wbits_lt v 8 6))
  unfold State.takeBind
  split
  · refine ⟨?_, ?_, (rf_wf_self h2 (Nat.le_of_ble_eq_true rfl) _).trans (Nat.mod_eq_of_lt (wbits_lt v 16 3))⟩
    · exact (rf_wf_bits h2 _ (Nat.le_of_ble_eq_true rfl) (.inl (Nat.le_of_ble_eq_true rfl))).trans hf
    · exact (rf_wf_bits h2 _ (Nat.le_of_ble_eq_true rfl) (.inl (Nat.le_of_ble_eq_true rfl))).trans hx
  · refine ⟨hf, hx, ?_⟩
    exact (rf_wf_bits h1 _ (Nat.le_of_ble_eq_true rfl) (.inr (Nat.le_of_ble_eq_true rfl))).trans
      (rf_wf_bits h _ (Nat.le_of_ble_eq_true rfl) (.inr (Nat.le_of_ble_eq_true rfl)))

/-- R357: what enabling a queue of a resident context leaves. -/
structure State.QueueOpened (s t : State) (q : Nat) : Prop where
  parts : Same 73014444040 s t
  state : t.qState q = qActive
  cause : t.rf (R.QM_QSTAT_CAUSE q) = 0
  bell : t.qDb q = 0
  start : t.qStart q = 0
  done : t.qDone q = 0
  enabled : t.flag (R.QM_QCFG_EN q) = true
  records : t.queue q = { refused := (s.queue q).refused }
  fence : t.isFenced (.queue q) = false
  others : ∀ r, r ≠ q → t.queue r = s.queue r

theorem queueOpened {s : State} (hc : s.Canon) (q : Fin 8192) {v : Word32} (hv : v.getLsbD 0 = true)
    (hr : s.resident (s.qCtx q) = true) (he : s.flag (R.QM_QCFG_EN q) = false) : s.QueueOpened (s.enableQueue q v) q := by
  obtain ⟨hstate, hcause, hdb, hstart, hdone, hen⟩ := openRegs_regs hc q v
  have hsame := State.enableQueue_same (.refl 73014444040 s) rfl q v
  rw [enableQueue_eq v hr he] at hsame ⊢
  have hqs : (s.openRegs q v).queues = s.queues := (congrArg State.queues (openRegs_frame s q v) :)
  have hqe := queue_of_queues hqs
  have hqsort : Store.Sorted (s.openRegs q v).queues := by rw [hqs]; exact hc.queues
  generalize s.openRegs q v = x at *
  have hrf : ∀ l, ((x.emptyQueue q).endFence (.queue q)).rf l = x.rf l := rf_of_regs rfl
  have hq : ∀ r, ((x.emptyQueue q).endFence (.queue q)).queue r = (x.emptyQueue q).queue r := queue_of_queues rfl
  exact ⟨hsame, (hrf _).trans hstate, (hrf _).trans hcause, (hrf _).trans hdb, (hrf _).trans hstart,
    (hrf _).trans hdone, (congrArg (· != 0) (hrf _)).trans (hen.trans hv),
    (hq _).trans ((queue_setQueue_self hqsort q _).trans (by rw [hqe])), isFenced_endFence _ _,
    fun r hne => (hq _).trans ((queue_setQueue_ne x _ hne).trans (hqe r))⟩

/-- R357: what disabling a queue at rest or in ERROR leaves. -/
structure State.QueueShut (s t : State) (q : Nat) : Prop where
  parts : Same 3504970137608 s t
  state : t.qState q = qDisabled
  enabled : t.flag (R.QM_QCFG_EN q) = false
  records : t.queue q = { refused := (s.queue q).refused }
  copies : ∀ x ∈ t.copies, x.queue ≠ q
  others : ∀ r, r ≠ q → t.queue r = s.queue r

theorem queueShut {s : State} (hc : s.Canon) (q : Fin 8192) {v : Word32} (hv : v.getLsbD 0 = false)
    (he : s.flag (R.QM_QCFG_EN q) = true) (hr : s.qState q = qError ∨ s.qDone q = s.qDb q) :
    s.QueueShut (s.disableQueue q v) q := by
  obtain ⟨hstate, hen⟩ := shutRegs_regs (s := s.detachQueue q) hc.regs q v
  have hsame := State.disableQueue_same (.refl 3504970137608 s) rfl q v
  rw [disableQueue_eq v he hr] at hsame ⊢
  have hframe := shutRegs_frame (s.detachQueue q) q v
  have hqs : ((s.detachQueue q).shutRegs q v).queues = s.queues := (congrArg State.queues hframe :)
  have hcs : ((s.detachQueue q).shutRegs q v).copies = s.copies.filter fun x => x.queue != q.val := (congrArg State.copies hframe :)
  have hqe := queue_of_queues hqs
  have hqsort : Store.Sorted ((s.detachQueue q).shutRegs q v).queues := by rw [hqs]; exact hc.queues
  generalize (s.detachQueue q).shutRegs q v = x at *
  have hrf : ∀ l, (x.emptyQueue q).rf l = x.rf l := rf_of_regs rfl
  refine ⟨hsame, (hrf _).trans hstate, (congrArg (· != 0) (hrf _)).trans (hen.trans hv),
    (queue_setQueue_self hqsort q _).trans (by rw [hqe]), fun y hy => ?_, fun r hne => (queue_setQueue_ne x _ hne).trans (hqe r)⟩
  have hy : y ∈ x.copies := hy
  rw [hcs] at hy
  simpa using (List.mem_filter.mp hy).2

/-- Settles O24. A queue in ERROR may be disabled with commands that have started: that its copies end and that the rest of its work
belongs to no queue any more is the model's choice (log 28). -/
theorem queueRegisterWrites : Obligations.QueueRegisterWrites := by
  intro u q v s hc
  refine ⟨fun hw => ?_, fun hw hv hr he => ?_, fun hw hv he hr => ?_, fun hw he hb => ?_, fun hw h => ?_⟩
  · refine ⟨s.ringBell q v, congrArg Host.Outcome.next (gateWrite_rw hw _),
      (State.ringBell_same (.refl 9126805512 s) rfl q v).but rfl, fun h => ?_, fun h => doorbell_outcome hc q v h⟩
    unfold State.ringBell
    rw [if_pos (by rw [h]; rfl)]
  · obtain ⟨hparts, hstate, hcause, hdb, hstart, hdone, hen, hself, hfence, hothers⟩ := queueOpened hc q hv hr he
    have hcfg : s.queueCfg q v = s.enableQueue q v := if_pos hv
    exact ⟨s.enableQueue q v, congrArg Host.Outcome.next ((gateWrite_rw hw _).trans hcfg), hparts.but rfl, hstate, hcause, hdb,
      hstart, hdone, hen, hself, hfence, hothers⟩
  · obtain ⟨hparts, hstate, hen, hself, hcopies, hothers⟩ := queueShut hc q hv he hr
    have hcfg : s.queueCfg q v = s.disableQueue q v := if_neg (by rw [hv]; decide)
    exact ⟨s.disableQueue q v, congrArg Host.Outcome.next ((gateWrite_rw hw _).trans hcfg), hparts.but rfl, hstate, hen, hself,
      hcopies, hothers⟩
  · obtain ⟨hf, hx, hk⟩ := takeBind_fields hc.regs (s.rf R.QM_QSEL_QUEUE) v
    have hframe : Same 8 s (s.takeBind (s.rf R.QM_QSEL_QUEUE) v) := Same.of_regs (takeBind_frame s _ v)
    exact ⟨_, congrArg Host.Outcome.next ((gateWrite_rw hw _).trans (bindQueue_takes he hb)), hframe.but rfl, hf, hx, hk,
      fun a ha => takeBind_reg s _ v ha⟩
  · exact ⟨_, congrArg Host.Outcome.next ((gateWrite_rw hw _).trans (bindQueue_refuses h)),
      (State.setQueue_same (.refl 68719476736 s) rfl _ _).but rfl, queue_setQueue_self hc.queues _ _,
      fun r hne => queue_setQueue_ne s _ hne⟩

end Sys2Proof.Machine


/-! Launches join their streams (R108, R147, R363): O25. -/

namespace Sys2Proof.Machine

/-! ### A command that stays open -/

theorem setCmd_queue_ne (s : State) {q r : Nat} (x : QCmd) (h : r ≠ q) : (s.setCmd q x).queue r = s.queue r :=
  queue_setQueue_ne s _ h

theorem blockCause_queue (s : State) (c k r : Nat) : (s.blockCause c k).queue r = s.queue r :=
  queue_of_queues ((State.blockCause_same (.refl 8 s) rfl c k).queues.resolve_left (by decide)) r

/-- A command that ends changes the records of its own queue only. -/
theorem finishCmd_queue_ne (s : State) {q r : Nat} (seq st d : Nat) (h : r ≠ q) : (s.finishCmd q seq st d).queue r = s.queue r := by
  unfold State.finishCmd
  split
  · rfl
  · split
    · rfl
    · dsimp only
      split
      · rw [blockCause_queue, setCmd_queue_ne _ _ h]
      · exact setCmd_queue_ne _ _ h

theorem unstartInvalid_queue_ne (s : State) {q r : Nat} (seq : Nat) (h : r ≠ q) : (s.unstartInvalid q seq).queue r = s.queue r := by
  unfold State.unstartInvalid
  split
  · split
    · exact setCmd_queue_ne _ _ h
    · rfl
  · rfl

theorem launchEnded_queue_ne (s : State) {q r : Nat} (seq : Nat) (h : r ≠ q) : (s.launchEnded q seq).queue r = s.queue r := by
  unfold State.launchEnded
  split
  · exact finishCmd_queue_ne _ _ _ _ h
  · rfl

theorem countJob_queue (s : State) (u r : Nat) : (s.countJob u).queue r = s.queue r := queue_of_queues rfl r

/-- R359, R370: a command that starts takes effect, and counts as one of its client's jobs or not. -/
theorem launchCmd_cases (s : State) (q : Nat) (w : CmdWord) (f : State → State) :
    s.launchCmd q w f = (f (s.started q w)).unstartInvalid q (s.qStart q) ∨
      ∃ u, u < 64 ∧ s.launchCmd q w f = ((f (s.started q w)).unstartInvalid q (s.qStart q)).countJob u := by
  have hst : s.passStart q (recordOf w (s.qStart q) (if w.bound then some w.step else none) none) = s.started q w := rfl
  unfold State.launchCmd
  dsimp only
  rw [hst]
  split
  · exact .inr ⟨_, qFunc_lt _ _, rfl⟩
  · exact .inl rfl

theorem launchCmd_same_effect {M : Nat} (s : State) (q : Nat) (w : CmdWord) (f : State → State) (hM : 68719476744 ||| M = M) :
    Same M (f (s.started q w)) (s.launchCmd q w f) := by
  have hu := State.unstartInvalid_same (Same.refl M (f (s.started q w))) (sub_sub (by decide) hM) q (s.qStart q)
  obtain h | ⟨u, _, h⟩ := launchCmd_cases s q w f <;> rw [h]
  · exact hu
  · exact State.countJob_same hu (sub_sub (by decide) hM) u

theorem launchCmd_queue_ne (s : State) {q r : Nat} (w : CmdWord) (f : State → State) (h : r ≠ q) :
    (s.launchCmd q w f).queue r = (f (s.started q w)).queue r := by
  obtain e | ⟨u, _, e⟩ := launchCmd_cases s q w f <;> rw [e]
  · exact unstartInvalid_queue_ne _ _ h
  · rw [countJob_queue]
    exact unstartInvalid_queue_ne _ _ h

theorem launchCmd_reg (s : State) (q : Nat) (w : CmdWord) (f : State → State) {a : Nat}
    (h : ∀ u, u < 64 → a ≠ A.HIF_JOB_LO u ∧ a ≠ A.HIF_JOB_HI u) : (s.launchCmd q w f).reg a = (f (s.started q w)).reg a := by
  obtain e | ⟨u, hu, e⟩ := launchCmd_cases s q w f <;> rw [e]
  · exact unstartInvalid_reg _ _ _ _
  · rw [countJob_reg _ _ (h u hu)]
    exact unstartInvalid_reg _ _ _ _

/-- An open command is not INVALID. -/
theorem unstartInvalid_open {s : State} {q seq : Nat} {c : QCmd} (h : s.cmd? q seq = some c) (hf : c.fin = none) :
    s.unstartInvalid q seq = s := by
  unfold State.unstartInvalid
  rw [h]
  dsimp only
  rw [hf]
  rfl

/-- R359: the queues after a command whose effect leaves them alone: its record is open. -/
theorem queue_launchCmd_open {s : State} (h : Store.Sorted s.queues) {q : Nat} {w : CmdWord} (hf : s.cmd? q (s.qStart q) = none)
    {f : State → State} (hv : (f (s.started q w)).queues = (s.started q w).queues) (r : Nat) :
    (s.launchCmd q w f).queue r = (s.started q w).queue r := by
  have hc : (f (s.started q w)).cmd? q (s.qStart q) = some (s.recAt q w none) := by
    have := cmd?_started (w := w) h hf
    unfold State.cmd? at this ⊢
    rw [queue_of_queues hv]
    exact this
  have hu := unstartInvalid_open hc rfl
  obtain e | ⟨u, _, e⟩ := launchCmd_cases s q w f <;> rw [e, hu]
  · exact queue_of_queues hv r
  · rw [countJob_queue]
    exact queue_of_queues hv r

/-- R359: what a command leaves that stays open when it takes effect. -/
theorem began_launchCmd {s : State} (hc : s.Canon) {q opc : Nat} {w : CmdWord} (h : s.MayRun q opc w) (f : State → State) :
    s.Began (s.launchCmd q w f) (f (s.started q w)) q w :=
  ⟨(launchCmd_same_effect (M := 68719476744) s q w f rfl).but rfl, fun _ ha => launchCmd_reg s q w f ha, fun hv =>
    ⟨(queue_launchCmd_open hc.queues h.fresh hv q).trans (queue_passStart_self hc.queues _ _),
      fun r hr => (queue_launchCmd_open hc.queues h.fresh hv r).trans (queue_passStart_ne _ _ hr)⟩⟩

/-! ### What memory shows -/

theorem readBad_congr {s t : State} (hr : t.regions = s.regions) (hb : t.hbmBad = s.hbmBad) (a n : Nat) :
    t.readBad a n = s.readBad a n := by
  unfold State.readBad
  simp only [mapAddr_congr hr, hb]

theorem peekHbm_congr {s t : State} (hr : t.regions = s.regions) (hm : t.hbm = s.hbm) (hb : t.hbmBad = s.hbmBad) (a n : Nat) :
    t.peekHbm a n = s.peekHbm a n := by
  unfold State.peekHbm
  simp only [mapAddr_congr hr, hm, hb]

/-! ### Launches join streams -/

/-- R109: the launches `l` have joined a stream. -/
def StreamSt.joined (x : StreamSt) (l : List Launch) : StreamSt :=
  { x with launches := x.launches ++ l, gotLaunch := x.gotLaunch || !l.isEmpty }

theorem StreamSt.joined_nil (x : StreamSt) : x.joined [] = x := by
  unfold StreamSt.joined
  simp

theorem StreamSt.joined_joined (x : StreamSt) (a b : List Launch) : (x.joined a).joined b = x.joined (a ++ b) := by
  unfold StreamSt.joined
  cases a <;> simp

/-- R108, R109: the launches `new f n c k` have joined the streams, and nothing else changes but what their contexts report. -/
structure Pushed (s t : State) (new : Nat → Nat → Nat → Nat → List Launch) : Prop where
  sorted : Store.Sorted t.streams
  joined : ∀ f n c k, n < 26 → c < 64 → k < 3 → t.strm f n c k = (s.strm f n c k).joined (new f n c k)
  frame : { t with streams := s.streams, ctxs := s.ctxs } = s

theorem Pushed.refl {s : State} (h : Store.Sorted s.streams) : Pushed s s fun _ _ _ _ => [] :=
  ⟨h, fun _ _ _ _ _ _ _ => (StreamSt.joined_nil _).symm, rfl⟩

theorem Pushed.trans {s t u : State} {a b : Nat → Nat → Nat → Nat → List Launch} (h1 : Pushed s t a) (h2 : Pushed t u b) :
    Pushed s u fun f n c k => a f n c k ++ b f n c k :=
  ⟨h2.sorted, fun f n c k hn hc hk => by
      rw [h2.joined f n c k hn hc hk, h1.joined f n c k hn hc hk, StreamSt.joined_joined],
    (congrArg (fun x : State => { x with streams := s.streams, ctxs := s.ctxs }) h2.frame).trans h1.frame⟩

theorem Pushed.physical {s t : State} {a : Nat → Nat → Nat → Nat → List Launch} (h : Pushed s t a) (f l : Nat) :
    t.physical f l = s.physical f l :=
  (congrArg (fun x : State => x.physical f l) h.frame :)

theorem Pushed.peek {s t : State} {p : Nat → Nat → Nat → Nat → List Launch} (h : Pushed s t p) (a n : Nat) :
    t.peekHbm a n = s.peekHbm a n :=
  peekHbm_congr (congrArg State.regions h.frame :) (congrArg State.hbm h.frame :) (congrArg State.hbmBad h.frame :) a n

/-- Launches that join step by step: the steps' launches, in order. -/
theorem pushed_foldl {α : Type} {s : State} {g : State → α → State} {new : α → Nat → Nat → Nat → Nat → List Launch}
    (hs : Store.Sorted s.streams) : ∀ l : List α, (∀ u p x, x ∈ l → Pushed s u p → Pushed u (g u x) (new x)) →
      Pushed s (l.foldl g s) fun f n c k => l.flatMap fun x => new x f n c k := by
  suffices h : ∀ (l : List α) (t : State) (p : Nat → Nat → Nat → Nat → List Launch), Pushed s t p →
      (∀ u p x, x ∈ l → Pushed s u p → Pushed u (g u x) (new x)) →
      Pushed s (l.foldl g t) fun f n c k => p f n c k ++ l.flatMap fun x => new x f n c k from
    fun l hg => h l s _ (.refl hs) hg
  intro l
  induction l with
  | nil =>
    intro t p hp _
    simpa using hp
  | cons x l ih =>
    intro t p hp hg
    have := ih (g t x) _ (hp.trans (hg t p x List.mem_cons_self hp)) fun u p y hy => hg u p y (List.mem_cons_of_mem _ hy)
    simpa [List.append_assoc] using this

/-- R108: one launch of table `t` joins its stream on the physical furrow that carries logical furrow `l`. -/
def State.pushAt (f c : Nat) (t : LTable) (mk : Nat → Launch) (s : State) (l : Nat) : State :=
  match s.physical f l with
  | none => s
  | some n =>
    (if (s.strm f n c t.strm).stepped then s else s.reopenReport c).setStrm f n c t.strm ((s.strm f n c t.strm).joined [mk (t.progs.getD l 0)])

theorem pushLaunch_eq (s : State) (f c : Nat) (t : LTable) (mk : Nat → Launch) :
    s.pushLaunch f c t mk = t.furrows.foldl (State.pushAt f c t mk) s := by
  unfold State.pushLaunch
  congr 1
  funext x l
  unfold State.pushAt
  cases x.physical f l with
  | none => rfl
  | some n =>
    unfold StreamSt.joined
    simp

theorem strmKey_ne {f n c k f' n' c' k' : Nat} (hn : n < 26) (hc : c < 64) (hk : k < 3) (hn' : n' < 26) (hc' : c' < 64)
    (hk' : k' < 3) (h : ¬(f' = f ∧ n' = n ∧ c' = c ∧ k' = k)) : strmKey f' n' c' k' ≠ strmKey f n c k := by
  simp only [strmKey, furKey]
  omega

theorem pushed_pushAt {s : State} (hs : Store.Sorted s.streams) {f c : Nat} {t : LTable} {mk : Nat → Launch} {l : Nat} (hc : c < 64)
    (hk : t.strm < 3) (hl : ∃ n, n < 26 ∧ s.physical f l = some n) :
    Pushed s (s.pushAt f c t mk l) fun f' n' c' k' =>
      if f' = f ∧ c' = c ∧ k' = t.strm ∧ s.physical f l = some n' then [mk (t.progs.getD l 0)] else [] := by
  obtain ⟨n, hn, hp⟩ := hl
  have hu : ∃ u : State, u = (if (s.strm f n c t.strm).stepped then s else s.reopenReport c) ∧ u.streams = s.streams ∧
      { u with ctxs := s.ctxs } = s := by
    refine ⟨_, rfl, ?_, ?_⟩ <;> split <;> rfl
  obtain ⟨u, hu, hus, huf⟩ := hu
  unfold State.pushAt
  rw [hp]
  dsimp only
  rw [← hu]
  refine ⟨sorted_sputD (by rw [hus]; exact hs) _ _ _, fun f' n' c' k' hn' hc' hk' => ?_,
    (congrArg (fun x : State => { x with streams := s.streams }) huf :)⟩
  by_cases h : f' = f ∧ n' = n ∧ c' = c ∧ k' = t.strm
  · obtain ⟨rfl, rfl, rfl, rfl⟩ := h
    rw [if_pos ⟨rfl, rfl, rfl, rfl⟩]
    exact sgetD_sputD_self (by rw [hus]; exact hs) _ _ _
  · rw [if_neg fun e => h ⟨e.1, (Option.some.inj e.2.2.2).symm, e.2.1, e.2.2.1⟩, StreamSt.joined_nil]
    refine (sgetD_sputD_ne u.streams _ {} (strmKey_ne hn hc hk hn' hc' hk' h)).trans ?_
    rw [hus]
    rfl

theorem flatMap_guarded {α β : Type} (p : Prop) [Decidable p] (r : α → Prop) [DecidablePred r] (g : α → β) (l : List α) :
    (l.flatMap fun x => if p ∧ r x then [g x] else []) = if p then (l.filter fun x => decide (r x)).map g else [] := by
  induction l with
  | nil => simp
  | cons x l ih =>
    rw [List.flatMap_cons, ih]
    by_cases hp : p <;> by_cases hr : r x <;> simp [hp, hr]

/-- The launches of table `t` for physical furrow `n`: one for each logical furrow that it carries. -/
def State.launchesOn (s : State) (f n : Nat) (t : LTable) (mk : Nat → Launch) : List Launch :=
  (t.furrows.filter fun l => s.physical f l == some n).map fun l => mk (t.progs.getD l 0)

/-- R108, R109: the launches of a table join its stream. -/
theorem pushed_pushLaunch {s : State} (hs : Store.Sorted s.streams) {f c : Nat} {t : LTable} {mk : Nat → Launch} (hc : c < 64)
    (hk : t.strm < 3) (hl : ∀ l ∈ t.furrows, ∃ n, n < 26 ∧ s.physical f l = some n) :
    Pushed s (s.pushLaunch f c t mk) fun f' n' c' k' =>
      if f' = f ∧ c' = c ∧ k' = t.strm then s.launchesOn f n' t mk else [] := by
  rw [pushLaunch_eq]
  have h := pushed_foldl (g := State.pushAt f c t mk) (new := fun l f' n' c' k' =>
      if f' = f ∧ c' = c ∧ k' = t.strm ∧ s.physical f l = some n' then [mk (t.progs.getD l 0)] else []) hs t.furrows
    fun u p l hmem hp => by
      have := pushed_pushAt (mk := mk) hp.sorted hc hk (by rw [hp.physical f l]; exact hl l hmem)
      rw [hp.physical] at this
      exact this
  refine ⟨h.sorted, fun f' n' c' k' hn' hc' hk' => (h.joined f' n' c' k' hn' hc' hk').trans ?_, h.frame⟩
  congr 1
  have := flatMap_guarded (f' = f ∧ c' = c ∧ k' = t.strm) (fun l => s.physical f l = some n') (fun l => mk (t.progs.getD l 0)) t.furrows
  simp only [and_assoc] at this
  rw [this]
  unfold State.launchesOn
  congr 2
  refine List.filter_congr fun l _ => ?_
  simp [beq_eq_decide]

/-! ### A run of the sequencer -/

/-- R147, R148: the launches of one template of a run join their stream, one for each pair. -/
theorem pushed_pushRuns {s : State} (hs : Store.Sorted s.streams) {f c : Nat} {t : LTable} (hc : c < 64) (hk : t.strm < 3)
    (hl : ∀ l ∈ t.furrows, ∃ n, n < 26 ∧ s.physical f l = some n) (q seq run : Nat) (stride : List Nat) (first pairs : Nat)
    (mark : Nat → Nat) :
    Pushed s ((List.range pairs).foldl (fun u k => u.pushRun f c q seq run t stride (first + k) (mark k)) s) fun f' n' c' k' =>
      if f' = f ∧ c' = c ∧ k' = t.strm then (List.range pairs).flatMap fun i => s.launchesOn f n' t fun prog =>
        ⟨q, seq, prog, stridden t.base stride (first + i), first + i, some run, mark i⟩ else [] := by
  have h := pushed_foldl (g := fun u k => u.pushRun f c q seq run t stride (first + k) (mark k))
    (new := fun i f' n' c' k' => if f' = f ∧ c' = c ∧ k' = t.strm then s.launchesOn f n' t fun prog =>
        ⟨q, seq, prog, stridden t.base stride (first + i), first + i, some run, mark i⟩ else []) hs (List.range pairs)
    fun u p i _ hp => by
      have := pushed_pushLaunch (mk := fun prog => ⟨q, seq, prog, stridden t.base stride (first + i), first + i, some run, mark i⟩)
        hp.sorted hc hk (by simpa only [hp.physical] using hl)
      unfold State.launchesOn at this
      simp only [hp.physical] at this
      exact this
  refine ⟨h.sorted, fun f' n' c' k' hn' hc' hk' => (h.joined f' n' c' k' hn' hc' hk').trans ?_, h.frame⟩
  congr 1
  split
  · rfl
  · simp

/-- R147: what the sequencer gives the streams of the run descriptor at `a`. -/
def State.runLaunches (s : State) (f c q seq a : Nat) (f' n' c' k' : Nat) : List Launch :=
  let d := RunDesc.parse (s.peekHbm a 128)
  let bt := s.tableAt d.btab
  let ft := s.tableAt d.ftab
  (if f' = f ∧ c' = c ∧ k' = bt.strm then (List.range d.pairs).flatMap fun i => s.launchesOn f n' bt fun prog =>
    ⟨q, seq, prog, stridden bt.base d.bstride (d.b0 + i), d.b0 + i, some s.freshRun, 2 * i⟩ else []) ++
  (if f' = f ∧ c' = c ∧ k' = ft.strm then (List.range d.pairs).flatMap fun i => s.launchesOn f n' ft fun prog =>
    ⟨q, seq, prog, stridden ft.base d.fstride (d.f0 + i), d.f0 + i, some s.freshRun, 2 * i + 1⟩ else [])

/-- R147, R148: a run's launches join their streams, and a run of more than one pair stays in the sequencer. -/
theorem pushed_startRun {s : State} (hs : Store.Sorted s.streams) {f c a : Nat} (q seq : Nat) (hc : c < 64) {d : RunDesc}
    (hd : d = RunDesc.parse (s.peekHbm a 128)) (hb : (s.tableAt d.btab).strm < 3) (hf : (s.tableAt d.ftab).strm < 3)
    (hl : ∀ x ∈ [s.tableAt d.ftab, s.tableAt d.btab], ∀ l ∈ x.furrows, ∃ n, n < 26 ∧ s.physical f l = some n) :
    ∃ v, Pushed s v (s.runLaunches f c q seq a) ∧ s.startRun f c q seq a =
      { v with seqRuns := s.seqRuns ++ if d.pairs ≤ 1 then [] else [⟨s.freshRun, f, c, q, seq, d.pairs, 1⟩] } := by
  have h1 := pushed_pushRuns hs hc hb (hl _ (by simp)) q seq s.freshRun d.bstride d.b0 d.pairs (2 * ·)
  have h2 := pushed_pushRuns h1.sorted hc hf (by simpa only [h1.physical] using hl _ (by simp)) q seq s.freshRun d.fstride d.f0 d.pairs
    (2 * · + 1)
  have h3 := h1.trans h2
  unfold State.launchesOn at h3
  simp only [h1.physical] at h3
  subst hd
  refine ⟨_, h3, ?_⟩
  have hr : ∀ {u p}, Pushed s u p → u.seqRuns = s.seqRuns := fun h => (congrArg State.seqRuns h.frame :)
  unfold State.startRun
  dsimp only
  by_cases h0 : (RunDesc.parse (s.peekHbm a 128)).pairs = 0
  · rw [if_pos h0, h0, if_pos (Nat.zero_le _), List.append_nil]
    rfl
  · rw [if_neg h0]
    by_cases hp : (RunDesc.parse (s.peekHbm a 128)).pairs = 1
    · rw [if_pos hp, if_pos (Nat.le_of_eq hp), List.append_nil, ← hr h3]
    · rw [if_neg hp, if_neg (by omega), hr h3]

/-! ### LAUNCH and SEQRUN -/

/-- R363: the launches of a LAUNCH or SEQRUN on the fields `fs`, at the addresses that its word gives them, join their streams. -/
def State.launchFields (c q n : Nat) (seq : Bool) (w : CmdWord) (fs : List Nat) (s : State) : State :=
  fs.foldl (fun s f => if seq then s.startRun f c q n (cmdAt w (32 + 8 * f) 8) else s.startTable f c q n (cmdAt w (32 + 8 * f) 8)) s

/-- R363: the effect of a LAUNCH or SEQRUN on the fields `fs`. -/
def State.launchAll (c q n : Nat) (seq : Bool) (w : CmdWord) (fs : List Nat) (s : State) : State :=
  (fs.foldl (fun s f => s.touchFor seq c (cmdAt w (32 + 8 * f) 8)) (s.launchFields c q n seq w fs)).launchEnded q n

/-- R363: a LAUNCH or SEQRUN on the fields `fs` that passes every check. -/
structure State.MayLaunch (s : State) (c : Nat) (seq : Bool) (w : CmdWord) (fs : List Nat) : Prop where
  fields : fs = (List.range 4).filter fun f => cmdAt w (32 + 8 * f) 8 != 0
  named : fs ≠ []
  untied : ((s.ctx c).latch.compat && (s.ctx c).latch.tied) = false
  mask : ∀ f ∈ fs, s.inMask c f = true
  aligned : ∀ f ∈ fs, cmdAt w (32 + 8 * f) 8 % (if seq then 64 else 256) = 0
  ready : ∀ f ∈ fs, s.tableWaits seq c (cmdAt w (32 + 8 * f) 8) = false
  legal : ∀ f ∈ fs, (if seq then s.badRunAt c (cmdAt w (32 + 8 * f) 8) else s.badTableAt 2 c (cmdAt w (32 + 8 * f) 8)) = false
  open_ : ∀ f ∈ fs, s.isFenced (.field f) = false
  carried : ∀ f ∈ fs, ∀ t ∈ s.tablesOf seq (cmdAt w (32 + 8 * f) 8), ∀ l ∈ t.furrows,
    ∃ n : Fin 26, s.physical f l = some n.val ∧ s.isFenced (.stream f n c t.strm) = false

theorem launchBody_run {q n c : Nat} {seq : Bool} {w : CmdWord} {s : State} {fs : List Nat} (hc : c = s.qCtx q)
    (h : s.MayLaunch c seq w fs) : launchBody q seq w n s = .run (State.launchAll c q n seq w fs) := by
  obtain ⟨hfs, hne, hl, hm, ha, hw, hb, ho, hp⟩ := h
  unfold launchBody
  dsimp only
  rw [← hc, ← hfs, if_neg (by rw [hl]; decide), if_neg (by simpa using hne)]
  have hfind : fs.find? (fun f => !s.inMask c f || cmdAt w (32 + 8 * f) 8 % (if seq then 64 else 256) != 0) = none := by
    refine List.find?_eq_none.mpr fun f hf => ?_
    simp [hm f hf, ha f hf]
  have huses : ∀ u ∈ fs.flatMap fun f => (s.tablesOf seq (cmdAt w (32 + 8 * f) 8)).flatMap fun t => t.furrows.map fun k => (f, k, t.strm),
      ∃ n : Fin 26, s.physical u.1 u.2.1 = some n.val ∧ s.isFenced (.stream u.1 n c u.2.2) = false := by
    simp only [List.mem_flatMap, List.mem_map]
    rintro _ ⟨f, hf, t, ht, l, hl, rfl⟩
    exact hp f hf t ht l hl
  rw [hfind]
  dsimp only
  rw [if_neg (by simpa using hw), if_neg (by simpa using hb), if_neg (by simpa using ho), if_neg, if_neg]
  · rfl
  · intro hx
    obtain ⟨u, hu, hx⟩ := List.any_eq_true.mp hx
    obtain ⟨m, hm, hf⟩ := huses u hu
    simp [hm, hf] at hx
  · intro hx
    obtain ⟨u, hu, hx⟩ := List.any_eq_true.mp hx
    obtain ⟨m, hm, _⟩ := huses u hu
    simp [hm] at hx

theorem strm_of_streams {s t : State} (h : t.streams = s.streams) (f n c k : Nat) : t.strm f n c k = s.strm f n c k := by
  unfold State.strm
  rw [h]

theorem ctx_qCtx_lt (s : State) (q : Nat) : s.qCtx q < 64 := rf_lt s (R.QM_QBINDV_CTX q)

theorem physical_started (s : State) (q : Nat) (w : CmdWord) (f : Nat) {l : Nat} (hl : l < 24) :
    (s.started q w).physical f l = s.physical f l := by
  have hr : ∀ x : Loc, x.addr = A.FLD_FURMAP f l → (s.started q w).rf x = s.rf x := fun x hx => by
    refine rf_congr (reg_passStart s q _ ?_)
    rw [hx]
    unfold A.FLD_FURMAP A.QM_QSTART Page.fieldBase Page.doorbellBase
    omega
  unfold State.physical State.flag
  rw [hr _ rfl, hr _ rfl]

/-- The reads of the tables change registers and recorded errors only. -/
theorem touched_same {M : Nat} (s : State) (c : Nat) (seq : Bool) (w : CmdWord) (fs : List Nat) (hM : 8589934600 ||| M = M) :
    Same M s (fs.foldl (fun s f => s.touchFor seq c (cmdAt w (32 + 8 * f) 8)) s) :=
  foldl_same (fun _ _ h => State.touchFor_same h hM seq c _) (Same.refl _ s)

theorem mem_of_sget {α : Type} {t : Store α} {k : Nat} {a : α} (h : sget? t k = some a) : (k, a) ∈ t := by
  induction t with
  | nil => cases h
  | cons e t ih =>
    obtain ⟨j, b⟩ := e
    unfold sget? at h
    split at h
    · rename_i e
      rw [← e, ← Option.some.inj h]
      exact List.mem_cons_self
    · exact List.mem_cons_of_mem _ (ih h)

/-- R363: while a stream holds a launch of the command, the command has not ended. -/
theorem launchEnded_of_launch {s : State} {f n c k q seq : Nat} {l : Launch} (h : l ∈ (s.strm f n c k).launches)
    (hl : l.ofCmd q seq = true) : s.launchEnded q seq = s := by
  have hmem : ∃ e ∈ s.streams, e.2 = s.strm f n c k := by
    unfold State.strm sgetD at h ⊢
    cases hg : sget? s.streams (strmKey f n c k) with
    | none => simp [hg] at h
    | some x => exact ⟨_, mem_of_sget hg, rfl⟩
  obtain ⟨e, he, hx⟩ := hmem
  have hd : s.launchesDone q seq = false := by
    unfold State.launchesDone
    have : (s.streams.any fun e => e.2.launches.any (·.ofCmd q seq) || e.2.cur.any (·.ofCmd q seq)) = true := by
      refine List.any_eq_true.mpr ⟨e, he, ?_⟩
      rw [Bool.or_eq_true]
      exact .inl (List.any_eq_true.mpr ⟨l, by rw [hx]; exact h, hl⟩)
    rw [this]
    rfl
  unfold State.launchEnded
  rw [hd]
  rfl

theorem LTable.furrows_lt {t : LTable} {l : Nat} (h : l ∈ t.furrows) : l < 24 := List.mem_range.mp (List.mem_filter.mp h).1

theorem launchesOn_started (s : State) (q : Nat) (w : CmdWord) (f n : Nat) (t : LTable) (mk : Nat → Launch) :
    (s.started q w).launchesOn f n t mk = s.launchesOn f n t mk := by
  unfold State.launchesOn
  refine congrArg _ (List.filter_congr fun l hl => ?_)
  rw [physical_started s q w f (LTable.furrows_lt hl)]

theorem peekHbm_started (s : State) (q : Nat) (w : CmdWord) (a n : Nat) : (s.started q w).peekHbm a n = s.peekHbm a n :=
  peekHbm_congr rfl rfl rfl a n

theorem tableAt_started (s : State) (q : Nat) (w : CmdWord) (a : Nat) : (s.started q w).tableAt a = s.tableAt a :=
  congrArg LTable.parse (peekHbm_started s q w a 256)

theorem runLaunches_started (s : State) (q : Nat) (w : CmdWord) (f c seq a : Nat) :
    (s.started q w).runLaunches f c q seq a = s.runLaunches f c q seq a := by
  funext f' n' c' k'
  unfold State.runLaunches
  simp only [peekHbm_started, tableAt_started, launchesOn_started]
  rfl

theorem tableAt_strm_le {s : State} {top c a : Nat} (h : s.badTableAt top c a = false) : (s.tableAt a).strm ≤ top := by
  unfold State.badTableAt at h
  simp only [Bool.or_eq_false_iff, decide_eq_false_iff_not, gt_iff_lt, Nat.not_lt] at h
  exact h.2.1.1

theorem tableAt_aligned {s : State} {top c a : Nat} (h : s.badTableAt top c a = false) : a % 256 = 0 := by
  unfold State.badTableAt at h
  simp only [Bool.or_eq_false_iff, bne_eq_false_iff_eq] at h
  exact h.1.1

theorem flatMap_select {β : Type} {fs : List Nat} (hn : fs.Nodup) (f' : Nat) (p : Nat → Prop) [DecidablePred p] (g : Nat → List β) :
    (fs.flatMap fun f => if f' = f ∧ p f then g f else []) = if f' ∈ fs ∧ p f' then g f' else [] := by
  induction fs with
  | nil => simp
  | cons f fs ih =>
    obtain ⟨hf, hn⟩ := List.nodup_cons.mp hn
    rw [List.flatMap_cons, ih hn]
    by_cases h : f' = f
    · subst h
      simp [hf]
    · simp [h]

/-- R108, R363: the launches of the tables of a LAUNCH join their streams. -/
theorem pushed_startTables {s : State} (hs : Store.Sorted s.streams) {c : Nat} (q n : Nat) {w : CmdWord} {fs : List Nat} (hc : c < 64)
    (hn : fs.Nodup) (hk : ∀ f ∈ fs, (s.tableAt (cmdAt w (32 + 8 * f) 8)).strm < 3)
    (hl : ∀ f ∈ fs, ∀ l ∈ (s.tableAt (cmdAt w (32 + 8 * f) 8)).furrows, ∃ n, n < 26 ∧ s.physical f l = some n) :
    Pushed s (fs.foldl (fun u f => u.startTable f c q n (cmdAt w (32 + 8 * f) 8)) s) fun f' n' c' k' =>
      if f' ∈ fs ∧ c' = c ∧ k' = (s.tableAt (cmdAt w (32 + 8 * f') 8)).strm then
        s.launchesOn f' n' (s.tableAt (cmdAt w (32 + 8 * f') 8)) fun prog =>
          ⟨q, n, prog, (s.tableAt (cmdAt w (32 + 8 * f') 8)).base, (s.tableAt (cmdAt w (32 + 8 * f') 8)).mb, none, 0⟩ else [] := by
  have h := pushed_foldl (g := fun u f => u.startTable f c q n (cmdAt w (32 + 8 * f) 8))
    (new := fun f f' n' c' k' => if f' = f ∧ c' = c ∧ k' = (s.tableAt (cmdAt w (32 + 8 * f) 8)).strm then
        s.launchesOn f n' (s.tableAt (cmdAt w (32 + 8 * f) 8)) fun prog =>
          ⟨q, n, prog, (s.tableAt (cmdAt w (32 + 8 * f) 8)).base, (s.tableAt (cmdAt w (32 + 8 * f) 8)).mb, none, 0⟩ else []) hs fs
    fun u p f hf hp => by
      have ht : u.tableAt (cmdAt w (32 + 8 * f) 8) = s.tableAt (cmdAt w (32 + 8 * f) 8) := congrArg LTable.parse (hp.peek _ _)
      unfold State.startTable
      dsimp only
      rw [ht]
      have := pushed_pushLaunch
        (mk := fun prog => ⟨q, n, prog, (s.tableAt (cmdAt w (32 + 8 * f) 8)).base, (s.tableAt (cmdAt w (32 + 8 * f) 8)).mb, none, 0⟩)
        hp.sorted hc (hk f hf) (by simpa only [hp.physical] using hl f hf)
      unfold State.launchesOn at this
      simp only [hp.physical] at this
      exact this
  refine ⟨h.sorted, fun f' n' c' k' hn' hc' hk' => (h.joined f' n' c' k' hn' hc' hk').trans ?_, h.frame⟩
  congr 1
  exact flatMap_select hn f' (fun f => c' = c ∧ k' = (s.tableAt (cmdAt w (32 + 8 * f) 8)).strm) fun f =>
    s.launchesOn f n' (s.tableAt (cmdAt w (32 + 8 * f) 8)) fun prog =>
      ⟨q, n, prog, (s.tableAt (cmdAt w (32 + 8 * f) 8)).base, (s.tableAt (cmdAt w (32 + 8 * f) 8)).mb, none, 0⟩

theorem launchAll_false_same {M : Nat} {s0 s : State} (hk : Same M s0 s) (hM : 77854670856 ||| M = M) (c q n : Nat) (w : CmdWord)
    (fs : List Nat) : Same M s0 (s.launchAll c q n false w fs) :=
  State.launchEnded_same (foldl_same (fun _ _ h => State.touchFor_same h (sub_sub (by decide) hM) false c _)
    (foldl_same (fun _ _ h => State.startTable_same h (sub_sub (by decide) hM) _ c q n _) hk)) (sub_sub (by decide) hM) q n

theorem launchAll_true_same {M : Nat} {s0 s : State} (hk : Same M s0 s) (hM : 78123106312 ||| M = M) (c q n : Nat) (w : CmdWord)
    (fs : List Nat) : Same M s0 (s.launchAll c q n true w fs) :=
  State.launchEnded_same (foldl_same (fun _ _ h => State.touchFor_same h (sub_sub (by decide) hM) true c _)
    (foldl_same (fun _ _ h => State.startRun_same h (sub_sub (by decide) hM) _ c q n _) hk)) (sub_sub (by decide) hM) q n

/-- R363: what a LAUNCH or SEQRUN leaves, where `v` is the state in which its launches have joined. -/
structure State.Launched (s v t : State) (q : Nat) (w : CmdWord) : Prop where
  strm : ∀ f n c k, t.strm f n c k = v.strm f n c k
  seqRuns : t.seqRuns = v.seqRuns
  others : ∀ r, r ≠ q → t.queue r = v.queue r
  pending : (∃ f n c k, ∃ l ∈ (v.strm f n c k).launches, l.ofCmd q (s.qStart q) = true) → v.queues = (s.started q w).queues →
    t.queue q = (s.started q w).queue q

theorem launched {s : State} (hc : s.Canon) {q : Nat} {w : CmdWord} (hf : s.cmd? q (s.qStart q) = none) (c : Nat) (seq : Bool)
    (fs : List Nat) : s.Launched ((s.started q w).launchFields c q (s.qStart q) seq w fs)
      (s.launchCmd q w (State.launchAll c q (s.qStart q) seq w fs)) q w := by
  have hcmd := launchCmd_same_effect (M := 68719476744) s q w (State.launchAll c q (s.qStart q) seq w fs) rfl
  have hne := fun r (h : r ≠ q) => launchCmd_queue_ne s w (State.launchAll c q (s.qStart q) seq w fs) h
  have hopen := queue_launchCmd_open (w := w) (f := State.launchAll c q (s.qStart q) seq w fs) hc.queues hf
  unfold State.launchAll at hcmd hne hopen ⊢
  generalize (s.started q w).launchFields c q (s.qStart q) seq w fs = v at *
  have htouch := touched_same (M := 8589934600) v c seq w fs rfl
  generalize fs.foldl (fun s f => s.touchFor seq c (cmdAt w (32 + 8 * f) 8)) v = x at *
  have hend := State.launchEnded_same (.refl 68719476744 x) rfl q (s.qStart q)
  have hqx : x.queues = v.queues := htouch.queues.resolve_left (by decide)
  have hsx : x.streams = v.streams := htouch.streams.resolve_left (by decide)
  refine ⟨fun f n c k => strm_of_streams ?_ f n c k, ?_, fun r hr => ?_, fun ⟨f, n, d, k, l, hl, ho⟩ hq => ?_⟩
  · rw [hcmd.streams.resolve_left (by decide), hend.streams.resolve_left (by decide), hsx]
  · rw [hcmd.seqRuns.resolve_left (by decide), hend.seqRuns.resolve_left (by decide), htouch.seqRuns.resolve_left (by decide)]
  · rw [hne r hr, launchEnded_queue_ne _ _ hr]
    exact queue_of_queues hqx r
  · refine hopen ?_ q
    rw [launchEnded_of_launch (by rw [strm_of_streams hsx]; exact hl) ho, hqx, hq]

theorem physical_ok {s : State} {f c k : Nat} {l : Nat} (h : ∃ n : Fin 26, s.physical f l = some n.val ∧
    s.isFenced (.stream f n c k) = false) : ∃ n, n < 26 ∧ s.physical f l = some n :=
  let ⟨n, hp, _⟩ := h
  ⟨n, n.isLt, hp⟩

/-- Settles O25. That all launches of a run join their streams at once, in the order that the template's stream byte gives, and that
the templates are read once, is the model's choice (log 72). -/
theorem launchJoinsStreams : Obligations.LaunchJoinsStreams := by
  refine ⟨fun q s w c fs tab new hcan hrun hc hfs hne htab hun hall hnew => ?_,
    fun q s w c f d ft bt new hcan hrun hc hfs hd hft hbt hun hmask hfence hbad hwait hcar hnew => ?_⟩
  · have hlt : c < 64 := hc ▸ ctx_qCtx_lt s q
    have hnodup : fs.Nodup := hfs ▸ List.nodup_range.filter _
    subst htab
    have hmay : s.MayLaunch c false w fs :=
      ⟨hfs, hne, hun, fun f hf => (hall f hf).1, fun f hf => tableAt_aligned (hall f hf).2.2.1, fun f hf => (hall f hf).2.2.2.1,
        fun f hf => (hall f hf).2.2.1, fun f hf => (hall f hf).2.1, fun f hf t ht => by
          rw [List.mem_singleton.mp ht]
          exact (hall f hf).2.2.2.2⟩
    have hpush := pushed_startTables (s := s.started q w) hcan.streams q (s.qStart q) (w := w) hlt hnodup
      (fun f hf => Nat.lt_succ_of_le (by rw [tableAt_started]; exact tableAt_strm_le (hall f hf).2.2.1))
      fun f hf l hl => by
        rw [tableAt_started] at hl
        rw [physical_started s q w f (LTable.furrows_lt hl)]
        exact physical_ok ((hall f hf).2.2.2.2 l hl)
    have hl := launched hcan (w := w) hrun.fresh c false fs
    have hsame := State.launchCmd_same (.refl 77854670856 s) rfl q w (State.launchAll c q (s.qStart q) false w fs)
      fun t ht => launchAll_false_same ht rfl c q _ w fs
    simp only [tableAt_started, launchesOn_started] at hpush
    have hexec : exec (.launch q) s = .next (s.launchCmd q w (State.launchAll c q (s.qStart q) false w fs)) :=
      congrArg Host.Outcome.next (runCmd_run hrun (launchBody_run hc hmay))
    have hv : (s.started q w).launchFields c q (s.qStart q) false w fs =
      fs.foldl (fun u f => u.startTable f c q (s.qStart q) (cmdAt w (32 + 8 * f) 8)) (s.started q w) := rfl
    rw [hv] at hl
    generalize s.launchCmd q w (State.launchAll c q (s.qStart q) false w fs) = t at *
    generalize fs.foldl (fun u f => u.startTable f c q (s.qStart q) (cmdAt w (32 + 8 * f) 8)) (s.started q w) = v at *
    have hvq : v.queues = (s.started q w).queues := (congrArg State.queues hpush.frame :)
    have hstrm : ∀ f n d k, n < 26 → d < 64 → k < 3 → t.strm f n d k = (s.strm f n d k).joined (new f n d k) := by
      intro f n d k hn hd hk
      rw [hl.strm, hpush.joined f n d k hn hd hk, hnew]
      rfl
    refine ⟨t, hexec, hsame.but rfl, fun f n d k => hstrm f n d k n.isLt d.isLt k.isLt, fun ⟨f, hf, hfur⟩ => ?_, fun r hr => ?_⟩
    · refine (hl.pending ?_ hvq).trans (queue_passStart_self hcan.queues _ _)
      obtain ⟨l, hmem⟩ := List.exists_mem_of_ne_nil _ hfur
      obtain ⟨n, hp, _⟩ := (hall f hf).2.2.2.2 l hmem
      have hk := tableAt_strm_le (hall f hf).2.2.1
      refine ⟨f, n, c, (s.tableAt (cmdAt w (32 + 8 * f) 8)).strm, ⟨q, s.qStart q, (s.tableAt (cmdAt w (32 + 8 * f) 8)).progs.getD l 0,
        (s.tableAt (cmdAt w (32 + 8 * f) 8)).base, (s.tableAt (cmdAt w (32 + 8 * f) 8)).mb, none, 0⟩, ?_, by simp [Launch.ofCmd]⟩
      rw [hpush.joined f n c _ n.isLt hlt (by omega), if_pos ⟨hf, rfl, rfl⟩]
      refine List.mem_append_right _ ?_
      exact List.mem_map.mpr ⟨l, List.mem_filter.mpr ⟨hmem, by rw [hp]; exact beq_self_eq_true _⟩, rfl⟩
    · exact (hl.others r hr).trans ((queue_of_queues hvq r).trans (queue_passStart_ne s _ hr))
  · have hlt : c < 64 := hc ▸ ctx_qCtx_lt s q
    subst hft hbt
    have hbad' := hbad
    unfold State.badRunAt at hbad'
    simp only [Bool.or_eq_false_iff, ← hd, bne_eq_false_iff_eq] at hbad'
    obtain ⟨⟨halign, _⟩, ⟨_, hbf⟩, hbb⟩ := hbad'
    have hmem : ∀ g ∈ [f], g = f := fun g hg => List.mem_singleton.mp hg
    have hmay : s.MayLaunch c true w [f] :=
      ⟨hfs.symm, List.cons_ne_nil _ _, hun, fun g hg => hmem g hg ▸ hmask, fun g hg => hmem g hg ▸ halign,
        fun g hg => hmem g hg ▸ hwait, fun g hg => hmem g hg ▸ hbad, fun g hg => hmem g hg ▸ hfence, fun g hg x hx => by
          rw [hmem g hg] at hx ⊢
          unfold State.tablesOf at hx
          simp only [if_true, ← hd] at hx
          split at hx
          · cases hx
          · exact hcar x hx⟩
    have hd' : d = RunDesc.parse ((s.started q w).peekHbm (cmdAt w (32 + 8 * f) 8) 128) := by rw [peekHbm_started]; exact hd
    obtain ⟨v, hpush, hrunEq⟩ := pushed_startRun (s := s.started q w) hcan.streams q (s.qStart q) hlt hd'
      (Nat.lt_succ_of_le (by rw [tableAt_started]; exact Nat.le_succ_of_le (tableAt_strm_le hbb)))
      (Nat.lt_succ_of_le (by rw [tableAt_started]; exact Nat.le_succ_of_le (tableAt_strm_le hbf))) fun x hx l hl => by
        simp only [tableAt_started] at hx
        rw [physical_started s q w f (LTable.furrows_lt hl)]
        exact physical_ok (hcar x hx l hl)
    have hl := launched hcan (w := w) hrun.fresh c true [f]
    have hsame := State.launchCmd_same (.refl 78123106312 s) rfl q w (State.launchAll c q (s.qStart q) true w [f])
      fun t ht => launchAll_true_same ht rfl c q _ w [f]
    rw [runLaunches_started] at hpush
    have hexec : exec (.seqrun q) s = .next (s.launchCmd q w (State.launchAll c q (s.qStart q) true w [f])) :=
      congrArg Host.Outcome.next (runCmd_run hrun (launchBody_run hc hmay))
    have hv : (s.started q w).launchFields c q (s.qStart q) true w [f] =
      (s.started q w).startRun f c q (s.qStart q) (cmdAt w (32 + 8 * f) 8) := rfl
    rw [hv, hrunEq] at hl
    generalize s.launchCmd q w (State.launchAll c q (s.qStart q) true w [f]) = t at *
    have hvq : v.queues = (s.started q w).queues := (congrArg State.queues hpush.frame :)
    have hstrm : ∀ g n e k, n < 26 → e < 64 → k < 3 →
        t.strm g n e k = (s.strm g n e k).joined (s.runLaunches f c q (s.qStart q) (cmdAt w (32 + 8 * f) 8) g n e k) :=
      fun g n e k hn he hk => (hl.strm g n e k).trans (hpush.joined g n e k hn he hk)
    have hown : ∀ n k, s.runLaunches f c q (s.qStart q) (cmdAt w (32 + 8 * f) 8) f n c k = new n k := fun n k => by
      unfold State.runLaunches State.launchesOn
      simp only [true_and, ← hd, hnew]
    refine ⟨t, hexec, hsame.but rfl, fun n k => ?_, fun g n e k hge => ?_, hl.seqRuns, fun r hr => ?_⟩
    · rw [hstrm f n c k n.isLt hlt k.isLt, hown]
      rfl
    · have hempty : s.runLaunches f c q (s.qStart q) (cmdAt w (32 + 8 * f) 8) g n e k = [] := by
        have hno : ∀ x : LTable, ¬(g.val = f ∧ e.val = c ∧ k.val = x.strm) := fun x ⟨h1, h2, _⟩ => hge.elim (· h1) (· h2)
        unfold State.runLaunches
        simp only [if_neg (hno _), List.append_nil]
      rw [hstrm g n e k n.isLt e.isLt k.isLt, hempty, StreamSt.joined_nil]
    · exact (hl.others r hr).trans ((queue_of_queues hvq r).trans (queue_passStart_ne s _ hr))

end Sys2Proof.Machine


/-! Launches start, programs are fetched, runs go on (R109, R110, R148): O26. -/

namespace Sys2Proof.Machine

/-! ### A refused launch -/

/-- Every record of queue `q` with the number `seq` says that a launch was refused. -/
def State.MarkedBad (s : State) (q seq : Nat) : Prop := ∀ x ∈ (s.queue q).cmds, x.seq = seq → x.bad = 1

theorem queue_setCmd {s : State} (h : Store.Sorted s.queues) (q : Nat) (x : QCmd) :
    (s.setCmd q x).queue q = { s.queue q with cmds := (s.queue q).cmds.map fun c => if c.seq == x.seq then x else c } :=
  queue_setQueue_self h q _

theorem sorted_setCmd {s : State} (h : Store.Sorted s.queues) (q : Nat) (x : QCmd) : Store.Sorted (s.setCmd q x).queues :=
  sorted_setQueue h _ _

theorem cmd?_seq {s : State} {q seq : Nat} {c : QCmd} (h : s.cmd? q seq = some c) : c.seq = seq := by
  simpa using List.find?_some h

theorem cmd?_mem {s : State} {q seq : Nat} {c : QCmd} (h : s.cmd? q seq = some c) : c ∈ (s.queue q).cmds := List.mem_of_find?_eq_some h

theorem markedBad_setCmd {s : State} (h : Store.Sorted s.queues) {q seq : Nat} {c : QCmd} (hs : c.seq = seq) (hb : c.bad = 1) :
    (s.setCmd q c).MarkedBad q seq := by
  intro x hx hxs
  rw [queue_setCmd h] at hx
  obtain ⟨y, _, rfl⟩ := List.mem_map.mp hx
  by_cases hy : y.seq = c.seq
  · rw [if_pos (beq_iff_eq.mpr hy)]
    exact hb
  · rw [if_neg (by simpa using hy)] at hxs
    exact absurd (hxs.trans hs.symm) hy

theorem markedBad_finishCmd {s : State} (h : Store.Sorted s.queues) {q seq : Nat} (hm : s.MarkedBad q seq) (st d : Nat) :
    (s.finishCmd q seq st d).MarkedBad q seq := by
  unfold State.finishCmd
  split
  · exact hm
  · rename_i c hc
    split
    · exact hm
    · have h1 := markedBad_setCmd h (c := { c with fin := some (st, d), ready := c.step.isNone }) (q := q)
        (show c.seq = seq from cmd?_seq hc) (hm c (cmd?_mem hc) (cmd?_seq hc))
      dsimp only
      split
      · intro x hx
        rw [blockCause_queue] at hx
        exact h1 x hx
      · exact h1

theorem markedBad_launchEnded {s : State} (h : Store.Sorted s.queues) {q seq : Nat} (hm : s.MarkedBad q seq) :
    (s.launchEnded q seq).MarkedBad q seq := by
  unfold State.launchEnded
  split
  · exact markedBad_finishCmd h hm _ _
  · exact hm

/-- R144: the command of a refused launch remembers it. -/
def State.refuseLaunch (s : State) (q seq : Nat) : State :=
  match s.cmd? q seq with
  | some c => s.setCmd q { c with bad := 1 }
  | none => s

theorem refuseLaunch_same {M : Nat} {s0 s : State} (hk : Same M s0 s) (hM : 68719476736 ||| M = M) (q seq : Nat) :
    Same M s0 (s.refuseLaunch q seq) := by
  unfold State.refuseLaunch
  split
  · exact State.setCmd_same hk hM _ _
  · exact hk

theorem markedBad_refuseLaunch {s : State} (h : Store.Sorted s.queues) (q seq : Nat) : (s.refuseLaunch q seq).MarkedBad q seq := by
  unfold State.refuseLaunch
  cases hc : s.cmd? q seq with
  | some c => exact markedBad_setCmd h (show c.seq = seq from cmd?_seq hc) rfl
  | none =>
    intro x hx hxs
    exact absurd (beq_iff_eq.mpr hxs) (List.find?_eq_none.mp hc x hx)

theorem sorted_refuseLaunch {s : State} (h : Store.Sorted s.queues) (q seq : Nat) : Store.Sorted (s.refuseLaunch q seq).queues := by
  unfold State.refuseLaunch
  split
  · exact sorted_setCmd h _ _
  · exact h

/-! ### The start of a launch -/

/-- R109: the stream's record once the launch `l` has started; `rest` still waits. -/
def StreamSt.starting (x : StreamSt) (l : Launch) (rest : List Launch) : StreamSt :=
  { x with
    launches := rest, cur := some l, state := .waiting, wait := .fetch, pc := l.prog, base := l.base, mb := l.mb,
    bindA := none, bindW := [none, none, none, none], buf := [], arrived := none, sampled := 0 }

/-- R109: the oldest launch of a stream may start, but for its run and the stream's STEP. -/
structure State.LaunchDue (s : State) (i : StreamId) (l : Launch) (rest : List Launch) : Prop where
  launches : (s.st (atOf i)).launches = l :: rest
  idle : (s.st (atOf i)).cur = none
  unfenced : s.streamHeld i.field i.furrow i.ctx i.strm = false
  awake : s.awake i.field i.furrow = true

theorem execLaunchStart_of_due {s : State} {i : StreamId} {l : Launch} {rest : List Launch} (h : s.LaunchDue i l rest) :
    execLaunchStart i s = .next (if s.unissued l then s
      else if (s.st (atOf i)).stepped then
        ((s.setSt (atOf i) { s.st (atOf i) with launches := rest }).refuseLaunch l.queue l.seq).launchEnded l.queue l.seq
      else s.setSt (atOf i) ((s.st (atOf i)).starting l rest)) := by
  obtain ⟨hl, hi, hu, ha⟩ := h
  have hu' : s.streamHeld (atOf i).f (atOf i).n (atOf i).c (atOf i).k = false := hu
  have ha' : s.awake (atOf i).f (atOf i).n = true := ha
  unfold execLaunchStart
  dsimp only
  rw [hl]
  dsimp only
  rw [hi, hu', ha']
  simp only [Option.isSome_none, Bool.not_true, Bool.or_false, Bool.false_or]
  split
  · rfl
  · split <;> rfl

theorem launch_refused {s : State} (hc : s.Canon) (i : StreamId) (l : Launch) (y : StreamSt) :
    let t := ((s.setSt (atOf i) y).refuseLaunch l.queue l.seq).launchEnded l.queue l.seq
    Same 68727865352 s t ∧ t.streams = (s.setSt (atOf i) y).streams ∧ t.MarkedBad l.queue l.seq := by
  have hsort : Store.Sorted (s.setSt (atOf i) y).queues := hc.queues
  have hset := State.setSt_same (.refl 68727865352 s) rfl (atOf i) y
  generalize s.setSt (atOf i) y = x at *
  intro t
  have hsame : Same 68719476744 x t :=
    State.launchEnded_same (refuseLaunch_same (Same.refl 68719476744 x) rfl _ _) rfl _ _
  refine ⟨?_, hsame.streams.resolve_left (by decide), markedBad_launchEnded (sorted_refuseLaunch hsort _ _)
    (markedBad_refuseLaunch hsort _ _)⟩
  exact State.launchEnded_same (refuseLaunch_same hset rfl _ _) rfl _ _

/-! ### A fetch -/

/-- A halt changes its stream's state, and nothing else of the streams. -/
theorem haltStream_same_halted (s : State) (p : At) (cause opcode : Nat) : Same 8589934600
    (s.setSt p { s.st p with state := .halted, wait := .none, haltCause := cause, granted := s.nextGrant p.f p.n })
    (s.haltStream p cause opcode) := by
  unfold State.haltStream
  dsimp only
  refine State.blockCause_same (State.raiseFor_same (ite_same (.refl _ _) ?_) rfl _ _ _) rfl _ _
  exact State.wf_same (State.wf_same (State.wf_same (State.wf_same (State.wf_same (.refl _ _) rfl _ _) rfl _ _) rfl _ _) rfl _ _)
    rfl _ _

/-- R110: what a settled head leaves: at most its stream's state has changed. -/
structure State.Settled (s t : State) (i : StreamId) : Prop where
  buf : (t.st (atOf i)).buf = (s.st (atOf i)).buf
  pc : (t.st (atOf i)).pc = (s.st (atOf i)).pc
  cur : (t.st (atOf i)).cur = (s.st (atOf i)).cur
  launches : (t.st (atOf i)).launches = (s.st (atOf i)).launches
  others : ∀ j : StreamId, j ≠ i → t.st (atOf j) = s.st (atOf j)

theorem st_of_streams {s t : State} (h : t.streams = s.streams) (p : At) : t.st p = s.st p := strm_of_streams h p.f p.n p.c p.k

theorem settled_haltStream {s : State} (h : Store.Sorted s.streams) (i : StreamId) (c o : Nat) :
    s.Settled (s.haltStream (atOf i) c o) i := by
  have hs := st_of_streams ((haltStream_same_halted s (atOf i) c o).streams.resolve_left (by decide))
  have hself := (hs (atOf i)).trans (st_setSt_self h (atOf i) _)
  refine ⟨?_, ?_, ?_, ?_, fun j hj => (hs _).trans (st_setSt_ne s _ hj)⟩ <;> rw [hself]

theorem settled_settleHead {s : State} (h : Store.Sorted s.streams) (i : StreamId) : s.Settled (s.settleHead (atOf i)) i := by
  have hrefl : s.Settled s i := ⟨rfl, rfl, rfl, rfl, fun _ _ => rfl⟩
  unfold State.settleHead
  split
  · split
    · exact hrefl
    · exact settled_haltStream h i 10 0
  · exact hrefl

/-- R110: the words that a fetch of the words at `ws` delivers; one that the memory cannot correct is marked. -/
def State.fetched (s : State) (a : Nat) (ws : List Nat) : List (Option InstrWord) :=
  ws.zipIdx.map fun x => if s.readBad x.1 16 then none
    else some (BitVec.ofNat 128 (leAt (s.peekHbm a (16 * ws.length)) (16 * x.2) 16))

/-- R110: a fetch that has words to bring and room for them. -/
structure State.FetchDue (s : State) (i : StreamId) (a : Nat) : Prop where
  at_ : a = (s.st (atOf i)).pc + 16 * (s.st (atOf i)).buf.length
  runs : (s.st (atOf i)).cur.isSome = true
  notHalted : (s.st (atOf i)).state ≠ .halted
  unfenced : s.streamHeld i.field i.furrow i.ctx i.strm = false
  words : 0 < (s.fetchWords i.ctx a).length
  room : (s.st (atOf i)).buf.length + (s.fetchWords i.ctx a).length ≤ 512
  served : s.hbmWaits a (16 * (s.fetchWords i.ctx a).length) = false

theorem execStreamFetchDone_of_due {s : State} {i : StreamId} {a : Nat} (h : s.FetchDue i a) :
    ∃ u y, Same 8589934600 s u ∧ y.buf = (s.st (atOf i)).buf ++ s.fetched a (s.fetchWords i.ctx a) ∧ y.pc = (s.st (atOf i)).pc ∧
      y.cur = (s.st (atOf i)).cur ∧ y.launches = (s.st (atOf i)).launches ∧
      execStreamFetchDone i s = .next ((u.setSt (atOf i) y).settleHead (atOf i)) := by
  obtain ⟨ha, hr, hh, hu, hw, hroom, hs⟩ := h
  have hu' : s.streamHeld (atOf i).f (atOf i).n (atOf i).c (atOf i).k = false := hu
  have hread := hbmRead_same s (.fetch (atOf i).f (atOf i).n (atOf i).c (atOf i).k) a (16 * (s.fetchWords (atOf i).c a).length)
  have hbytes := hbmRead_fst s (.fetch (atOf i).f (atOf i).n (atOf i).c (atOf i).k) a (16 * (s.fetchWords (atOf i).c a).length)
  have hst := st_of_streams (hread.streams.resolve_left (by decide)) (atOf i)
  have hcond : ((s.st (atOf i)).cur.isNone || (s.st (atOf i)).state == .halted ||
      s.streamHeld (atOf i).f (atOf i).n (atOf i).c (atOf i).k ||
      decide ((s.st (atOf i)).buf.length + (s.fetchWords i.ctx a).length > 512) ||
      s.hbmWaits a (16 * (s.fetchWords i.ctx a).length)) = false := by
    have h1 : (s.st (atOf i)).cur.isNone = false := by
      cases hc : (s.st (atOf i)).cur <;> simp [hc] at hr ⊢
    simp [h1, hh, hu', hs, hroom]
  refine ⟨(s.hbmRead (.fetch (atOf i).f (atOf i).n (atOf i).c (atOf i).k) a (16 * (s.fetchWords (atOf i).c a).length)).2,
    { s.st (atOf i) with
      buf := (s.st (atOf i)).buf ++ s.fetched a (s.fetchWords i.ctx a),
      state := if (s.st (atOf i)).wait = .fetch then .issuing else (s.st (atOf i)).state,
      wait := if (s.st (atOf i)).wait = .fetch then .none else (s.st (atOf i)).wait }, hread, rfl, rfl, rfl, rfl, ?_⟩
  unfold execStreamFetchDone
  dsimp only
  rw [← ha, if_neg (by rw [← Bool.not_eq_true] at hcond; exact hcond)]
  split
  · rename_i e
    have e : s.fetchWords i.ctx a = [] := e
    rw [e] at hw
    cases hw
  · refine congrArg (fun x : StreamSt => Host.Outcome.next (((s.hbmRead _ a _).2.setSt (atOf i) x).settleHead (atOf i))) ?_
    rw [hst, hbytes, List.zipIdx_map, List.map_map]
    rfl

/-! ### A run goes on -/

/-- R148: the runs after the oldest one of a field has issued its next forward launch. -/
def State.runsAfter (s : State) (r : SeqRun) : List SeqRun :=
  if r.issuedF + 1 = r.pairs then s.seqRuns.filter fun x => x.id != r.id
  else s.seqRuns.map fun x => if x.id == r.id then { x with issuedF := r.issuedF + 1 } else x

theorem unissued_runsAfter {s : State} {r : SeqRun} {l : Launch} (h : l.run = some r.id) (hi : l.idx / 2 ≤ r.issuedF) :
    { s with seqRuns := s.runsAfter r }.unissued l = false := by
  have hnone : ((s.runsAfter r).any fun x => x.id == r.id && decide (x.issuedF ≤ l.idx / 2)) = false := by
    refine List.any_eq_false.mpr fun x hx => ?_
    unfold State.runsAfter at hx
    split at hx
    · have := (List.mem_filter.mp hx).2
      simp_all
    · obtain ⟨y, _, rfl⟩ := List.mem_map.mp hx
      by_cases hy : y.id = r.id
      · rw [if_pos (beq_iff_eq.mpr hy)]
        have hlt : ¬(r.issuedF + 1 ≤ l.idx / 2) := by omega
        simp [hlt]
      · rw [if_neg (by simpa using hy)]
        simp [hy]
  unfold State.unissued
  rw [h, Option.any_some]
  dsimp only
  rw [hnone, Bool.and_false]

/-- Settles O26. That a launch queued before the STEP of its stream is refused as well is the model's choice (log 74), and so is that
a forward launch which is not issued holds its place (log 72). -/
theorem launchesStartAndFetch : Obligations.LaunchesStartAndFetch := by
  refine ⟨fun i s l rest hc hl hi hu ha => ?_, fun i s a k hc hr hh hu hat hk hpos hroom hs => ?_, fun f s r hc hfind => ?_⟩
  · have hexec : exec (.launchStart i) s = _ := execLaunchStart_of_due ⟨hl, hi, hu, ha⟩
    refine ⟨fun hun => by rw [hexec, if_pos hun], fun hun => ?_⟩
    rw [if_neg (by rw [hun]; decide)] at hexec
    by_cases hst : (s.st (atOf i)).stepped = true
    · rw [if_pos hst] at hexec
      obtain ⟨hsame, hstreams, hbad⟩ := launch_refused hc i l { s.st (atOf i) with launches := rest }
      refine ⟨_, hexec, hsame.but rfl, fun j hj => ?_, fun _ => ⟨?_, hbad⟩, fun h => absurd hst (by rw [h]; decide)⟩
      · exact (st_of_streams hstreams _).trans (st_setSt_ne s _ hj)
      · exact (st_of_streams hstreams _).trans (st_setSt_self hc.streams _ _)
    · rw [if_neg hst] at hexec
      exact ⟨_, hexec, (State.setSt_same (.refl 8388608 s) rfl _ _).but rfl, fun j hj => st_setSt_ne s _ hj,
        fun h => absurd h hst, fun _ => ⟨rfl, st_setSt_self hc.streams _ _⟩⟩
  · subst hk
    obtain ⟨u, y, hread, hbuf, hpc, hcur, hla, hexec⟩ := execStreamFetchDone_of_due ⟨hat, hr, hh, hu, hpos, hroom, hs⟩
    have hus : u.streams = s.streams := hread.streams.resolve_left (by decide)
    have husort : Store.Sorted u.streams := by rw [hus]; exact hc.streams
    have hset := settled_settleHead (s := u.setSt (atOf i) y) (sorted_setSt husort _ _) i
    have hself := st_setSt_self husort (atOf i) y
    have hsame := State.settleHead_same (M := 8598323208)
      (State.setSt_same (hread.mono (N := 8598323208) rfl) rfl (atOf i) y) rfl (atOf i)
    generalize (u.setSt (atOf i) y).settleHead (atOf i) = t at *
    refine ⟨t, hexec, hsame.but rfl, ?_, ?_, ?_, ?_, fun j hj => ?_⟩
    · rw [hset.buf, hself, hbuf]
      rfl
    · rw [hset.pc, hself, hpc]
    · rw [hset.cur, hself, hcur]
    · rw [hset.launches, hself, hla]
    · rw [hset.others j hj, st_setSt_ne _ _ hj, st_of_streams hus]
  · refine ⟨{ s with seqRuns := s.runsAfter r }, ?_, rfl, fun l h hi => unissued_runsAfter h hi, rfl⟩
    show execSeqForwardIssue f s = _
    unfold execSeqForwardIssue
    rw [hfind]
    rfl

end Sys2Proof.Machine


/-! What a copy from beyond the device's memory does (R364): O27. -/

namespace Sys2Proof.Machine

/-- The next state that a command answers. -/
def nextState (o : Out) : State :=
  match o with
  | .next t => t
  | _ => .reset

/-- A copy of 64 bytes to host address 0, from a device address whose field would be field 4. -/
def strayCopy : CopyOp := ⟨32, 0, 2 ^ 41 + 5 * 2 ^ 30, 0, false, true, 64, none⟩

/-- The command of the copy, still open. -/
def strayCmd : QCmd := { seq := 0, opc := 0x20, tag := 0, irq := false, step := none, fin := none, ready := false }

/-- Host byte 0 of function 0 is 1; the copy's codeword is uncorrectable. The page of stack 0 of field 4 would be the register page of
queue 32, whose word at the place of `HBM_STAT` reads as "up". -/
def strayState : State :=
  { ((({} : State).wf (R.HBM_STAT_STATE 4 0) 2).setQueue 32 { cmds := [strayCmd] }).hostWrite 0 0 [1] with
    copies := [strayCopy], hbmBad := [((2 ^ 41 + 5 * 2 ^ 30) / 64, ())] }

theorem canon_strayState : strayState.Canon := by
  constructor <;> decide +kernel

/-- The report of the uncorrectable codeword overwrites the queue's binding, so that the bytes go to another function's memory. -/
theorem strayCopy_ends : (nextState (exec (.copyDone 0 [] true) strayState)).hostMem.read hostUnit 0 = 1 := by decide +kernel

theorem strayCopy_expected : (strayState.hostMem.writeN hostUnit (strayState.qFunc 32 * 2 ^ 64 + 0)
    (strayState.peekHbm strayCopy.src strayCopy.len)).read hostUnit 0 = 0 := by decide +kernel

/-- Refutes O27: a copy whose source lies beyond the 2^41 bytes of device memory, in an uncorrectable codeword, reports the error in
the page of a stack of a fifth field. That page is queue 32's, and `HBM_UE_ADDR_HI` falls on `QM_QBINDV`: the bytes go to the memory
of function 1 and not of the queue's function 0. -/
theorem not_nopAndCopiesStart : ¬ Obligations.NopAndCopiesStart := by
  intro h
  obtain ⟨t, ht, _, _, _, hhost, _⟩ := h.2 0 [] true strayState strayCopy strayCmd (strayState.peekHbm strayCopy.src strayCopy.len)
    canon_strayState rfl (by decide +kernel) rfl (by decide +kernel) rfl
  have hends := strayCopy_ends
  rw [ht] at hends
  have hhost := hhost rfl rfl
  have hexp := strayCopy_expected
  have hsame : t.hostMem.read hostUnit 0 = (0 : Byte) := by
    rw [hhost]
    exact hexp
  have hone : t.hostMem.read hostUnit 0 = (1 : Byte) := hends
  exact absurd (hone.symm.trans hsame) (by decide)

end Sys2Proof.Machine

/-! COLL and SWAP_LAYER (R258, R335, R365): O28. -/

namespace Sys2Proof.Machine

theorem lowest_append (a b : List (Bool × Nat)) : lowest (a ++ b) = (lowest a).or (lowest b) := by
  induction a with
  | nil => rfl
  | cons e a ih =>
    obtain ⟨c, n⟩ := e
    cases c with
    | true => rfl
    | false => exact ih

theorem argsThen_none {l : List (Bool × Nat)} (h : lowest l = none) (k : Begun) : argsThen l k = k := by
  unfold argsThen
  rw [h]

/-- A descriptor's place is legal. -/
theorem descPlace_legal {desc o : Nat} (h1 : desc % 64 = 0) (h2 : desc < 2 ^ 41) :
    lowest [(desc % 64 != 0 || desc / 2 ^ 41 != 0, o)] = none := by
  rw [h1, Nat.div_eq_of_lt h2]
  rfl

/-- R361, R365: what COLL and SWAP_LAYER ask of their descriptor. -/
structure State.DescLegal (s : State) (c desc : Nat) : Prop where
  aligned : desc % 64 = 0
  low : desc < 2 ^ 41
  inside : s.inPartition c desc 128 = true
  table : s.inPartition c (Desc.parse (s.peekHbm desc 128)).grp (Desc.parse (s.peekHbm desc 128)).tableBytes = true
  mask : s.inMask c (fieldOf desc) = true
  open_ : s.isFenced (.field (fieldOf desc)) = false

theorem execColl_of_legal {q : Fin 8192} {s : State} {w : CmdWord} (host : List Byte) (h : s.DescLegal (s.qCtx q) (cmdAt w 32 8))
    (hr : s.MayRun q 0x30 w) (hz : lowest (reservedBytes w 40 24) = none) : execColl q host s = .next (s.launchCmd q w fun s' =>
      s'.handCol (fieldOf (cmdAt w 32 8)) (s.qCtx q) (cmdAt w 32 8) (.cmd q (s.qStart q)) (CmdWord.bound w) host) := by
  obtain ⟨ha, hl, hi, ht, hm, ho⟩ := h
  refine congrArg Host.Outcome.next (runCmd_run hr ?_)
  dsimp only
  rw [argsThen_none (by rw [lowest_append, descPlace_legal ha hl, hz]; rfl), hi, ht, hm, ho]
  rfl

theorem execSwapLayer_of_legal {q : Fin 8192} {s : State} {w : CmdWord} (host : List Byte)
    (h : s.DescLegal (s.qCtx q) (cmdAt w 40 8)) (hr : s.MayRun q 0x63 w) (hs : s.serving (s.qCtx q) = true)
    (hw : s.swap (s.qCtx q) = swSwapping) (hd : (Desc.parse (s.peekHbm (cmdAt w 40 8) 128)).sows = true)
    (hn : cmdAt w 32 2 ≤ 4095) (hz : lowest (reservedBytes w 34 6 ++ reservedBytes w 48 16) = none) :
    execSwapLayer q host s = .next (s.launchCmd q w fun s' =>
      (s'.setSrv (s.qCtx q) { s'.srv (s.qCtx q) with
        accepted := true, layers := (s'.srv (s.qCtx q)).layers ++ [(q.val, s.qStart q, cmdAt w 32 2)] }).handCol
        (fieldOf (cmdAt w 40 8)) (s.qCtx q) (cmdAt w 40 8) (.swap q (s.qStart q)) false host) := by
  obtain ⟨ha, hl, hi, ht, hm, ho⟩ := h
  rw [lowest_append, Option.or_eq_none_iff] at hz
  have hn' : lowest [(decide (cmdAt w 32 2 > 4095), 32)] = none := by
    rw [decide_eq_false (Nat.not_lt.mpr hn)]
    rfl
  refine congrArg Host.Outcome.next (runCmd_run hr ?_)
  dsimp only
  unfold State.servingOnly
  rw [if_pos hs, argsThen_none (by rw [lowest_append, lowest_append, lowest_append, hn', hz.1, descPlace_legal ha hl, hz.2]; rfl),
    hi, ht, hm, ho, hd, hw]
  rfl

/-- Settles O28. That the engine is the one of the field that holds the descriptor is the model's reading (log 18). -/
theorem collectiveCommandsStart : Obligations.CollectiveCommandsStart := by
  intro q host s w c desc f d hcan hc hf hd h1 h2 hi ht hm ho
  subst hf hd hc
  have hlegal : s.DescLegal (s.qCtx q) desc := ⟨h1, h2, hi, ht, hm, ho⟩
  refine ⟨fun hr hdesc hz => ?_, fun hr hdesc hs hw hsow hn hz => ?_⟩
  · subst hdesc
    exact ⟨_, execColl_of_legal host hlegal hr hz, began_launchCmd hcan hr _⟩
  · subst hdesc
    exact ⟨_, execSwapLayer_of_legal host hlegal hr hs hw hsow hn hz, began_launchCmd hcan hr _⟩

end Sys2Proof.Machine


/-! What operations spare: a field of a register that a chain of writes leaves as it was. -/

namespace Sys2Proof.Machine

/-- A write of field `m` does not touch field `l`. -/
def Loc.Clear (l m : Loc) : Prop := l.addr ≠ m.addr ∨ l.lo + l.wid ≤ m.lo ∨ m.lo + m.wid ≤ l.lo

/-- From `s` to `t` the registers stay in order and field `l` stays as it was. -/
structure Spares (l : Loc) (s t : State) : Prop where
  sorted : Store.Sorted s.regs → Store.Sorted t.regs
  rf : Store.Sorted s.regs → t.rf l = s.rf l

theorem Spares.refl (l : Loc) (s : State) : Spares l s s := ⟨id, fun _ => rfl⟩

theorem Spares.trans {l : Loc} {s t u : State} (h1 : Spares l s t) (h2 : Spares l t u) : Spares l s u :=
  ⟨fun h => h2.sorted (h1.sorted h), fun h => (h2.rf (h1.sorted h)).trans (h1.rf h)⟩

theorem Spares.of_regs {l : Loc} {s t : State} (h : t.regs = s.regs) : Spares l s t :=
  ⟨fun hs => by rw [h]; exact hs, fun _ => rf_of_regs h l⟩

/-- The registers have not changed on the way from `s` to `t`. -/
theorem Spares.then_regs {l : Loc} {s0 s t : State} (hk : Spares l s0 s) (h : t.regs = s.regs) : Spares l s0 t :=
  hk.trans (.of_regs h)

theorem Spares.wf {l m : Loc} {s0 s : State} (hk : Spares l s0 s) (hm : m.Fits) (h : l.Clear m) (v : Nat) : Spares l s0 (s.wf m v) :=
  hk.trans ⟨fun hs => sorted_wf hs m v, fun hs => h.elim (rf_wf_addr s v) fun hb => rf_wf_bits hs v hm hb⟩

theorem Spares.wf_far {l m : Loc} {s0 s : State} (hk : Spares l s0 s) (h : l.addr ≠ m.addr) (v : Nat) : Spares l s0 (s.wf m v) :=
  hk.trans ⟨fun hs => sorted_wf hs m v, fun _ => rf_wf_addr s v h⟩

theorem Spares.setReg {l : Loc} {s0 s : State} (hk : Spares l s0 s) {a : Nat} (h : l.addr ≠ a) (w : Word32) : Spares l s0 (s.setReg a w) :=
  hk.trans ⟨fun hs => sorted_setReg hs a w, fun _ => rf_congr (reg_setReg_ne s w h)⟩

theorem Spares.bump {l m : Loc} {s0 s : State} (hk : Spares l s0 s) (h : l.addr ≠ m.addr) (n : Nat) : Spares l s0 (s.bump m n) :=
  hk.wf_far h _

theorem Spares.bump64 {l m k : Loc} {s0 s : State} (hk : Spares l s0 s) (hm : l.addr ≠ m.addr) (h : l.addr ≠ k.addr) (n : Nat) :
    Spares l s0 (s.bump64 m k n) := (hk.wf_far hm _).wf_far h _

theorem Spares.peak {l m : Loc} {s0 s : State} (hk : Spares l s0 s) (h : l.addr ≠ m.addr) (v : Nat) : Spares l s0 (s.peak m v) := by
  unfold State.peak
  split
  · exact hk.wf_far h v
  · exact hk

theorem Spares.ite {l : Loc} {s0 s t : State} {c : Prop} [Decidable c] (h1 : Spares l s0 s) (h2 : Spares l s0 t) :
    Spares l s0 (if c then s else t) := by
  split
  · exact h1
  · exact h2

theorem Spares.foldl {α : Type} {l : Loc} {s0 : State} {f : State → α → State} (hf : ∀ t x, Spares l s0 t → Spares l s0 (f t x)) :
    ∀ (xs : List α) {t : State}, Spares l s0 t → Spares l s0 (xs.foldl f t)
  | [], _, h => h
  | x :: xs, _, h => Spares.foldl hf xs (hf _ x h)

theorem Spares.foldl_mem {α : Type} {l : Loc} {s0 : State} {f : State → α → State} :
    ∀ (xs : List α) {t : State}, (∀ t x, x ∈ xs → Spares l s0 t → Spares l s0 (f t x)) → Spares l s0 t → Spares l s0 (xs.foldl f t)
  | [], _, _, h => h
  | x :: xs, _, hf, h =>
    Spares.foldl_mem xs (fun t y hy => hf t y (List.mem_cons_of_mem _ hy)) (hf _ x List.mem_cons_self h)

theorem Spares.raisePair {l : Loc} {s0 s : State} (hk : Spares l s0 s) (page bit : Nat) (forced : Bool) :
    Spares l s0 (s.raisePair page bit forced) := hk.then_regs (raisePair_regs s page bit forced)

/-- The field is in none of the error words of a page. -/
def Loc.NoErr (l : Loc) (page : Nat) : Prop := l.addr ≠ A.ERR_STAT page ∧ l.addr ≠ A.ERR_CNT page ∧ l.addr ≠ A.ERR_FIRST page

theorem Loc.noErr_of_page {l : Loc} {page : Nat} (h : l.addr < page ∨ page + 0x28 ≤ l.addr) : l.NoErr page := by
  unfold Loc.NoErr A.ERR_STAT A.ERR_CNT A.ERR_FIRST
  omega

theorem Spares.raiseSrc {l : Loc} {s0 s : State} (hk : Spares l s0 s) {page : Nat} (h : l.NoErr page) (bit : Nat) :
    Spares l s0 (s.raiseSrc page bit) :=
  hk.trans ⟨fun hs => sorted_raiseSrc hs page bit, fun _ => rf_congr (raiseSrc_reg s page bit h)⟩

theorem Spares.raiseFor {l : Loc} {s0 s : State} (hk : Spares l s0 s) {page : Nat} (h : l.NoErr page) (bit : Nat) (c : Option Nat) :
    Spares l s0 (s.raiseFor page bit c) :=
  hk.trans ⟨fun hs => sorted_raiseFor hs page bit c, fun _ => rf_congr (raiseFor_reg s page bit c h)⟩

/-- The field is neither the state nor the block causes of a context. -/
def Loc.NoState (l : Loc) (c : Nat) : Prop := l.addr ≠ A.CMT_CSTAT c ∨ (3 ≤ l.lo ∧ l.lo + l.wid ≤ 8) ∨ 15 ≤ l.lo

theorem Loc.NoState.clear {l : Loc} {c : Nat} (h : l.NoState c) : l.Clear (R.CMT_CSTAT_BLOCK c) ∧ l.Clear (R.CMT_CSTAT_STATE c) := by
  unfold Loc.NoState at h
  unfold Loc.Clear R.CMT_CSTAT_BLOCK R.CMT_CSTAT_STATE
  dsimp only
  omega

theorem Spares.blockCause {l : Loc} {s0 s : State} (hk : Spares l s0 s) {c : Nat} (h : l.NoState c) (bit : Nat) :
    Spares l s0 (s.blockCause c bit) := by
  unfold State.blockCause
  dsimp only
  split
  · exact (hk.wf (Nat.le_of_ble_eq_true rfl) h.clear.1 _).wf (Nat.le_of_ble_eq_true rfl) h.clear.2 _
  · exact hk

theorem Spares.ctxEvent {l : Loc} {s0 s : State} (hk : Spares l s0 s) {c : Nat} (h : l.addr ≠ A.HIF_CEVTS c) (bit : Nat) :
    Spares l s0 (s.ctxEvent c bit) := by
  unfold State.ctxEvent
  dsimp only
  split
  · exact hk
  · have hw := hk.wf_far (m := R.HIF_CEVTS_CAUSE c) h (s.rf (R.HIF_CEVTS_CAUSE c) ||| 2 ^ bit)
    split
    · refine hw.then_regs ?_
      unfold State.sendMsg
      split <;> rfl
    · exact hw

/-! ### Device memory -/

/-- The field is below the pages of the fields, and no context's state that a read or write in device memory may block. -/
structure Loc.NoHbm (l : Loc) (c : Option Nat) : Prop where
  low : l.addr < 0x1000000
  state : ∀ d, c = some d → l.NoState d

theorem noErr_high {l : Loc} (h : l.addr < 0x1000000) {page : Nat} (hp : 0x1000000 ≤ page) : l.NoErr page :=
  Loc.noErr_of_page (.inl (Nat.lt_of_lt_of_le h hp))

theorem hbmBase_high (f m : Nat) : 0x1000000 ≤ Page.hbmBase f m := by
  unfold Page.hbmBase Page.fieldBase
  omega

theorem ne_hbm {l : Loc} (h : l.addr < 0x1000000) (f m k : Nat) : l.addr ≠ Page.hbmBase f m + k := by
  have := hbmBase_high f m
  omega

theorem Spares.reportUe {l : Loc} {s0 s : State} (hk : Spares l s0 s) {w : Consumer} (h : l.NoHbm w.ctx?) (a : Nat) :
    Spares l s0 (s.reportUe w a) := by
  have hne := ne_hbm h.low
  have h1 : Spares l s0 ((s.bump (R.HBM_UE_CNT_COUNT (fieldOf a) (s.stackOf a)) 1).raiseFor
      (Page.hbmBase (fieldOf a) (s.stackOf a)) (if w = .scrub then 2 else 1) w.ctx?) :=
    (hk.bump (hne _ _ _) 1).raiseFor (noErr_high h.low (hbmBase_high _ _)) _ _
  have hend : ∀ {t : State}, Spares l s0 t → ∀ o : Option Nat, o = w.ctx? → ∀ u, u = (match o with
      | some c => t.blockCause c 1
      | none => t) → Spares l s0 u := fun ht o ho u hu => by
    subst hu
    cases o with
    | none => exact ht
    | some c => exact ht.blockCause (h.state c ho.symm) 1
  unfold State.reportUe
  refine hend ?_ w.ctx? rfl _ rfl
  refine h1.ite ?_
  exact (((((((((h1.wf_far (hne _ _ _) _).wf_far (hne _ _ _) _).wf_far (hne _ _ _) _).wf_far (hne _ _ _) _).wf_far (hne _ _ _) _).wf_far
    (hne _ _ _) _).wf_far (hne _ _ _) _).wf_far (hne _ _ _) _).wf_far (hne _ _ _) _).wf_far (hne _ _ _) _

theorem Spares.readWord {l : Loc} {s0 s : State} (hk : Spares l s0 s) {w : Consumer} (h : l.NoHbm w.ctx?) (a n : Nat) :
    Spares l s0 (s.readWord w a n).2 := by
  have h1 : Spares l s0 (s.bump64 (R.HBM_RD_LO_COUNT (fieldOf a) (s.stackOf a)) (R.HBM_RD_HI_COUNT (fieldOf a) (s.stackOf a)) 1) :=
    hk.bump64 (ne_hbm h.low _ _ _) (ne_hbm h.low _ _ _) 1
  unfold State.readWord
  dsimp only
  split
  · exact h1.reportUe h a
  · exact h1

theorem Spares.hbmRead {l : Loc} {s0 s : State} (hk : Spares l s0 s) {w : Consumer} (h : l.NoHbm w.ctx?) (a n : Nat) :
    Spares l s0 (s.hbmRead w a n).2 := by
  unfold State.hbmRead
  suffices hf : ∀ (xs : List (Nat × Nat)) (acc : List Byte × State), Spares l s0 acc.2 →
      Spares l s0 (xs.foldl (fun (acc : List Byte × State) (e : Nat × Nat) =>
        let (bs, s) := acc.2.readWord w (acc.2.mapAddr e.1) e.2
        (acc.1 ++ bs, s)) acc).2 from hf _ _ hk
  intro xs
  induction xs with
  | nil => exact fun _ ha => ha
  | cons x xs ih => exact fun acc ha => ih _ (ha.readWord h _ _)

/-! ### Packets -/

/-- The field is neither in the fabric page, nor in a page of a field. -/
def Loc.NoNet (l : Loc) : Prop := 0x61000 ≤ l.addr ∧ l.addr < 0x1000000

theorem Spares.sendPkt_above {l : Loc} {s0 s : State} (hk : Spares l s0 s) (h : 0x61000 ≤ l.addr) (f : Nat) (x : Pkt) :
    Spares l s0 (s.sendPkt f x) := by
  have hne : ∀ k, k < 0x1000 → l.addr ≠ Page.fabricBase + k := fun k hk => by
    unfold Page.fabricBase
    omega
  have hdrop : ∀ (y : Pkt) c, Spares l s0 (s.dropPkt 8 y c) := fun y c => by
    have h1 : Spares l s0 ((s.bump R.MBL_LDROP_CNT_COUNT 1).raiseSrc Page.fabricBase 0) :=
      (hk.bump (hne _ (by decide)) 1).raiseSrc (Loc.noErr_of_page (.inr (by unfold Page.fabricBase; omega))) 0
    unfold State.dropPkt
    rw [if_neg (by decide)]
    refine h1.ite ?_
    exact (((((h1.wf_far (hne _ (by decide)) _).wf_far (hne _ (by decide)) _).wf_far (hne _ (by decide)) _).wf_far (hne _ (by decide))
      _).wf_far (hne _ (by decide)) _)
  unfold State.sendPkt
  dsimp only
  split
  · exact hk.then_regs rfl
  · exact hk.then_regs rfl
  · exact hdrop _ _

theorem Spares.sendPkt {l : Loc} {s0 s : State} (hk : Spares l s0 s) (h : l.NoNet) (f : Nat) (x : Pkt) :
    Spares l s0 (s.sendPkt f x) := hk.sendPkt_above h.1 f x

end Sys2Proof.Machine


/-! The begin of a step (R292): O29. -/

namespace Sys2Proof.Machine

/-- What stays the same on both ways stays the same on the whole. -/
theorem Same.trans {M : Nat} {s t u : State} (h : Same M s t) (k : Same M t u) : Same M s u := by
  have or_trans : ∀ {α : Type} {p : Prop} {a b c : α}, p ∨ b = a → p ∨ c = b → p ∨ c = a := fun h k =>
    h.elim .inl fun e => k.imp_right (·.trans e)
  exact ⟨
    or_trans h.pending k.pending, or_trans h.freeCtr k.freeCtr, or_trans h.now k.now, or_trans h.regs k.regs,
    or_trans h.rdLatch k.rdLatch, or_trans h.wrStage k.wrStage, or_trans h.ifLatch k.ifLatch, or_trans h.rdata k.rdata,
    or_trans h.b2data k.b2data, or_trans h.hostMem k.hostMem, or_trans h.msgs k.msgs, or_trans h.msixOn k.msixOn,
    or_trans h.msixOpen k.msixOpen, or_trans h.msixPend k.msixPend, or_trans h.funcMask k.funcMask, or_trans h.hbm k.hbm,
    or_trans h.hbmBad k.hbmBad, or_trans h.clearing k.clearing, or_trans h.scrubAt k.scrubAt, or_trans h.sheaf k.sheaf,
    or_trans h.seedbed k.seedbed, or_trans h.glean k.glean, or_trans h.furrows k.furrows, or_trans h.streams k.streams,
    or_trans h.dma k.dma, or_trans h.shadows k.shadows, or_trans h.sems k.sems, or_trans h.barriers k.barriers,
    or_trans h.seqRuns k.seqRuns, or_trans h.ctxs k.ctxs, or_trans h.regions k.regions, or_trans h.coverage k.coverage,
    or_trans h.fences k.fences, or_trans h.pairs k.pairs, or_trans h.fcolLog k.fcolLog, or_trans h.hangLog k.hangLog,
    or_trans h.queues k.queues, or_trans h.copies k.copies, or_trans h.ports k.ports, or_trans h.inbox k.inbox,
    or_trans h.engines k.engines, or_trans h.serv k.serv, or_trans h.flash k.flash, or_trans h.fuses k.fuses,
    or_trans h.staged k.staged, or_trans h.heldBack k.heldBack, or_trans h.lastMma k.lastMma, or_trans h.sec k.sec,
    or_trans h.pwr k.pwr, or_trans h.clk k.clk, or_trans h.mg k.mg, or_trans h.pins k.pins, or_trans h.vfs k.vfs,
    or_trans h.bar2Pf k.bar2Pf, or_trans h.bar2Vf k.bar2Vf, or_trans h.qmLast k.qmLast⟩

/-! ### Streams at a begin -/

/-- R144, R209: nothing of a step is left in a stream's record. -/
structure StreamSt.Fresh (x : StreamSt) : Prop where
  stepped : x.stepped = false
  gotLaunch : x.gotLaunch = false
  loss : x.loss = none
  qsum : x.qsum = 0

theorem st_setSt_cases {s : State} (h : Store.Sorted s.streams) (p r : At) (x : StreamSt) :
    (s.setSt p x).st r = x ∨ (s.setSt p x).st r = s.st r := by
  by_cases e : strmKey r.f r.n r.c r.k = strmKey p.f p.n p.c p.k
  · left
    unfold State.st State.strm
    rw [e]
    exact st_setSt_self h p x
  · exact .inr (sgetD_sputD_ne s.streams x {} e)

theorem fresh_beginStreams {s : State} (h : Store.Sorted s.streams) {c : Nat} {p : At} (hp : p ∈ s.streamsOf c ∨ (s.st p).Fresh) :
    ((s.beginStreams c).st p).Fresh := by
  unfold State.beginStreams
  suffices hl : ∀ (l : List At) (t : State), Store.Sorted t.streams → (p ∈ l ∨ (t.st p).Fresh) →
      ((l.foldl (fun s p => s.setSt p { s.st p with stepped := false, gotLaunch := false, qsum := 0, loss := none }) t).st p).Fresh
    from hl _ s h hp
  intro l
  induction l with
  | nil => exact fun t _ ht => ht.elim (fun e => by cases e) id
  | cons r l ih =>
    intro t ht hm
    refine ih _ (sorted_setSt ht _ _) ?_
    obtain hm | hm := hm
    · obtain rfl | hm := List.mem_cons.mp hm
      · right
        rw [st_setSt_self ht]
        exact ⟨rfl, rfl, rfl, rfl⟩
      · exact .inl hm
    · right
      obtain e | e := st_setSt_cases ht r p { t.st r with stepped := false, gotLaunch := false, qsum := 0, loss := none }
      · rw [e]
        exact ⟨rfl, rfl, rfl, rfl⟩
      · rw [e]
        exact hm

theorem mem_streamsOf {s : State} {c : Nat} {p : At} (hc : p.c = c) (hn : p.n < 26) (hl : p.c < 64) (hk : p.k < 3)
    (h : ¬(s.st p).Fresh) : p ∈ s.streamsOf c := by
  unfold State.st State.strm sgetD at h
  cases hg : sget? s.streams (strmKey p.f p.n p.c p.k) with
  | none => exact absurd (by rw [hg]; exact ⟨rfl, rfl, rfl, rfl⟩) h
  | some x =>
    refine List.mem_filter.mpr ⟨List.mem_map.mpr ⟨_, mem_of_sget hg, ?_⟩, by simpa using hc⟩
    obtain ⟨f, n, d, k⟩ := p
    simp only [strmKey, furKey, At.mk.injEq] at *
    omega

theorem fresh_begun {s : State} (h : Store.Sorted s.streams) {c : Nat} {p : At} (hc : p.c = c) (hn : p.n < 26) (hl : p.c < 64)
    (hk : p.k < 3) : ((s.beginStreams c).st p).Fresh :=
  fresh_beginStreams h (or_iff_not_imp_right.mpr (mem_streamsOf hc hn hl hk))

/-! ### Engines with nothing waiting -/

/-- R258: no COL waits in a field's engine. -/
structure State.Idle (s : State) : Prop where
  sorted : Store.Sorted s.engines
  none : ∀ f, f < 4 → (s.eng f).waiting = []

theorem State.Idle.of_engines {s t : State} (h : s.Idle) (he : t.engines = s.engines) : t.Idle :=
  ⟨by rw [he]; exact h.sorted, fun f hf => by
    have := h.none f hf
    unfold State.eng at this ⊢
    rw [he]
    exact this⟩

theorem nextWaiting_idle {s : State} {f : Nat} (h : (s.eng f).waiting = []) : s.nextWaiting f = s := by
  unfold State.nextWaiting
  rw [h]
  rfl

/-- R262, R277, R284: the engine of field `f` at a begin, before room is given to what waits. -/
def State.beginEngine (c n : Nat) (s : State) (f : Nat) : State :=
  let e := s.eng f
  let stale := fun (x : Nat × Pkt) =>
    x.1 == c && (x.2.run != (s.ctx c).latch.runs.getD f 0 || (x.2.step != n && (n + 2 ^ 32 - x.2.step) % 2 ^ 32 < 2 ^ 31))
  let s := s.setEng f
    { e with
      ops := e.ops.filter fun o => o.ctx != c || (!o.bound && !o.done && o.users != [ColUser.prefetch])
      closed := e.closed.filter fun x => x.1 != c
      early := e.early.filter fun x => !stale x }
  let s := (e.early.filter stale).foldl (fun s x => s.discardPkt f x.2 3) s
  ((s.showEarly f c).showOps f).easeEarly f

theorem easeEarly_pairs {M : Nat} {s0 s : State} (hk : Same M s0 s) (hM : 8589934592 ||| M = M) (f : Nat) : Same M s0 (s.easeEarly f) := by
  unfold State.easeEarly
  exact ite_same hk (State.dropCond_same hk hM _ _)

/-- Of the engines a begin changes the field's record, and of what waits nothing. -/
theorem beginEngine_cases (s : State) (c n f : Nat) : ∃ x : ColEng, x.waiting = (s.eng f).waiting ∧
    Same 8589934600 (s.setEng f x) (s.beginEngine c n f) := by
  refine ⟨_, ?_, easeEarly_pairs (State.showOps_same (State.showEarly_same
    (foldl_same (fun _ _ h => State.discardPkt_same h rfl _ _ _) (Same.refl _ _)) rfl _ _) rfl _) rfl _⟩
  rfl

theorem waiting_setEng {s : State} (h : s.Idle) (f : Nat) {x : ColEng} (hx : x.waiting = (s.eng f).waiting) : (s.setEng f x).Idle := by
  refine ⟨sorted_sputD h.sorted _ _ _, fun g hg => ?_⟩
  by_cases e : g = f
  · subst e
    have : (s.setEng g x).eng g = x := sgetD_sputD_self h.sorted _ _ _
    rw [this, hx]
    exact h.none g hg
  · have : (s.setEng f x).eng g = s.eng g := sgetD_sputD_ne s.engines x {} e
    rw [this]
    exact h.none g hg

theorem collengBase_high (f : Nat) : 0x1000000 ≤ Page.collengBase f := by
  unfold Page.collengBase Page.fieldBase
  omega

theorem Spares.discardPkt {l : Loc} {s0 s : State} (hk : Spares l s0 s) (h : l.addr < 0x1000000) (f : Nat) (x : Pkt) (k : Nat) :
    Spares l s0 (s.discardPkt f x k) := by
  have hne : ∀ k, l.addr ≠ Page.collengBase f + k := fun k => by
    have := collengBase_high f
    omega
  have h1 : Spares l s0 ((s.bump (R.COL_RXDROP_COUNT f) 1).raiseSrc (Page.collengBase f) 0) :=
    (hk.bump (hne _) 1).raiseSrc (noErr_high h (collengBase_high f)) 0
  unfold State.discardPkt
  exact h1.ite ((((((h1.wf_far (hne _) _).wf_far (hne _) _).wf_far (hne _) _).wf_far (hne _) _).wf_far (hne _) _).wf_far (hne _) _)

theorem easeEarly_regs (s : State) (f : Nat) : (s.easeEarly f).regs = s.regs := by
  unfold State.easeEarly
  split <;> rfl

theorem ne_colleng {l : Loc} (h : l.addr < 0x1000000) (f k : Nat) : l.addr ≠ Page.collengBase f + k := by
  have := collengBase_high f
  omega

theorem Spares.showOps {l : Loc} {s0 s : State} (hk : Spares l s0 s) (h : l.addr < 0x1000000) (f : Nat) : Spares l s0 (s.showOps f) := by
  unfold State.showOps
  exact hk.wf_far (ne_colleng h f _) _

theorem Spares.showEarly {l : Loc} {s0 s : State} (hk : Spares l s0 s) (h : l.addr < 0x1000000) (f c : Nat) :
    Spares l s0 (s.showEarly f c) := by
  have hocc : l.addr ≠ A.COL_EARLY_OCC f c := by
    have := collengBase_high f
    unfold A.COL_EARLY_OCC
    omega
  unfold State.showEarly
  exact (hk.wf_far hocc _).peak hocc _

theorem Spares.beginEngine {l : Loc} {s0 s : State} (hk : Spares l s0 s) (h : l.addr < 0x1000000) (c n f : Nat) :
    Spares l s0 (s.beginEngine c n f) := by
  unfold State.beginEngine
  dsimp only
  generalize hx : s.setEng f _ = x
  have h1 : Spares l s0 x := hk.then_regs (by rw [← hx]; rfl)
  generalize List.filter _ _ = xs
  have h2 : Spares l s0 (xs.foldl (fun s x => s.discardPkt f x.2 3) x) :=
    Spares.foldl (fun _ y ht => ht.discardPkt h f y.2 3) xs h1
  exact ((h2.showEarly h f c).showOps h f).then_regs (easeEarly_regs _ _)

theorem State.Idle.beginEngine {s : State} (h : s.Idle) (c n f : Nat) : (s.beginEngine c n f).Idle := by
  obtain ⟨x, hx, hs⟩ := beginEngine_cases s c n f
  exact (waiting_setEng h f hx).of_engines (hs.engines.resolve_left (by decide))

theorem beginEngine_same {M : Nat} {s0 s : State} (hk : Same M s0 s) (hM : 1108101562376 ||| M = M) (c n f : Nat) :
    Same M s0 (s.beginEngine c n f) := by
  obtain ⟨x, _, hs⟩ := beginEngine_cases s c n f
  exact (State.setEng_same hk (sub_sub (by decide) hM) f x).trans (hs.mono (sub_sub (by decide) hM))

/-- R262, R277: with nothing waiting, the engines at a begin are the fields' engines one by one. -/
theorem beginEngines_idle {s : State} (h : s.Idle) (c : Nat) :
    s.beginEngines c = (List.range 4).foldl (State.beginEngine c (s.stepOf c)) s := by
  have hbody : s.beginEngines c = (List.range 4).foldl (fun t f => (t.beginEngine c (s.stepOf c) f).nextWaiting f) s := by
    unfold State.beginEngines
    refine congrArg (fun g => List.foldl g s (List.range 4)) ?_
    funext t f
    unfold State.beginEngine
    dsimp only
  rw [hbody]
  generalize s.stepOf c = n
  suffices hl : ∀ (l : List Nat) (t : State), t.Idle → (∀ f ∈ l, f < 4) → l.foldl (fun s f => (s.beginEngine c n f).nextWaiting f) t =
      l.foldl (State.beginEngine c n) t from hl _ s h fun f hf => List.mem_range.mp hf
  intro l
  induction l with
  | nil => exact fun _ _ _ => List.foldl_nil.trans List.foldl_nil.symm
  | cons f l ih =>
    intro t ht hf
    have hi := ht.beginEngine c n f
    rw [List.foldl_cons, List.foldl_cons, nextWaiting_idle (hi.none f (hf f List.mem_cons_self))]
    exact ih _ hi fun g hg => hf g (List.mem_cons_of_mem _ hg)

end Sys2Proof.Machine


/-! What a step finds at its begin (R57, R292, R302, R303): O29. -/

namespace Sys2Proof.Machine

/-! ### Registers that a begin reads -/

/-- Every register below the queues' pages is the same. -/
def LowRegs (s t : State) : Prop := ∀ a, a < 0x5000000 → t.reg a = s.reg a

theorem LowRegs.rf {s t : State} (h : LowRegs s t) {l : Loc} (hl : l.addr < 0x5000000) : t.rf l = s.rf l := rf_congr (h _ hl)

theorem LowRegs.flag {s t : State} (h : LowRegs s t) {l : Loc} (hl : l.addr < 0x5000000) : t.flag l = s.flag l :=
  congrArg (· != 0) (h.rf hl)

theorem lowRegs_started (s : State) (q : Nat) (w : CmdWord) : LowRegs s (s.started q w) := fun a ha =>
  reg_passStart s q _ (by unfold A.QM_QSTART Page.doorbellBase; omega)

theorem contextBase_low {c : Nat} (hc : c < 64) {k : Nat} (hk : k < 0x1000) : Page.contextBase c + k < 0x5000000 := by
  unfold Page.contextBase
  omega

theorem fieldBase_low {f : Nat} (hf : f < 4) {k : Nat} (hk : k < 0x1000000) : Page.fieldBase f + k < 0x5000000 := by
  unfold Page.fieldBase
  omega

theorem commitBase_low {k : Nat} (hk : k < 0x10000) : Page.commitBase + k < 0x5000000 := by
  unfold Page.commitBase
  omega

theorem LowRegs.owns {s t : State} (h : LowRegs s t) (c : Nat) {f : Nat} (hf : f < 4) (g : Nat) : t.owns c f g = s.owns c f g := by
  unfold State.owns
  by_cases hg : g < 480
  · have hl : A.FLD_GRAN f g < 0x5000000 := by
      unfold A.FLD_GRAN Page.fieldmemBase Page.fieldBase
      omega
    rw [h.rf (l := R.FLD_GRAN_CTX f g) hl, h.flag (l := R.FLD_GRAN_OWNED f g) hl]
  · rw [decide_eq_false hg]
    rfl

theorem all_congr_mem {α : Type} {l : List α} {p q : α → Bool} (h : ∀ x ∈ l, p x = q x) : l.all p = l.all q := by
  induction l with
  | nil => rfl
  | cons x l ih =>
    rw [List.all_cons, List.all_cons, h x List.mem_cons_self, ih fun y hy => h y (List.mem_cons_of_mem x hy)]

theorem LowRegs.inPartition {s t : State} (h : LowRegs s t) (c a n : Nat) : t.inPartition c a n = s.inPartition c a n := by
  unfold State.inPartition
  by_cases hn : n = 0
  · rw [hn]
    rfl
  by_cases hle : a + n ≤ 2 ^ 41
  · congr 2
    refine all_congr_mem fun i hi => h.owns c ?_ _
    have hi := List.mem_range.mp hi
    unfold granSize at *
    omega
  · rw [decide_eq_false hle]
    rfl

/-- R57: what a BEGIN latches comes from registers below the queues' pages and from the context's record. -/
theorem LowRegs.latchFor {s t : State} (h : LowRegs s t) (hx : t.ctxs = s.ctxs) {c : Nat} (hc : c < 64) (mode : Nat) :
    t.latchFor c mode = s.latchFor c mode := by
  have hctx : t.ctx c = s.ctx c := by
    unfold State.ctx
    rw [hx]
  have hcp : ∀ k, k < 0x1000 → Page.contextBase c + k < 0x5000000 := fun k hk => contextBase_low hc hk
  have hfp : ∀ {f : Nat}, f ∈ List.range 4 → ∀ k, k < 0x1000000 → Page.fieldBase f + k < 0x5000000 := fun hf k hk =>
    fieldBase_low (List.mem_range.mp hf) hk
  have hcol : ∀ {f : Nat}, f ∈ List.range 4 → ∀ k, k < 0x1000 → Page.collengBase f + k < 0x5000000 := fun hf k hk => by
    have := hfp hf (0x40000 + k) (by omega)
    unfold Page.collengBase
    omega
  have hruns : t.runsNow c = s.runsNow c := List.map_congr_left fun f hf => h.rf (l := R.COL_CTX_RUN f c) (by
    have := hcol hf (0x400 + 16 * c) (by omega)
    show A.COL_CTX f c < _
    unfold A.COL_CTX
    omega)
  have hmask : t.rf (R.CTX_FMASK_MASK c) = s.rf (R.CTX_FMASK_MASK c) := h.rf (hcp 0x104 (by decide))
  have hlow : t.lowField c = s.lowField c := by
    unfold State.lowField State.inMask
    rw [hmask]
  have hfresh : t.freshLatch c = s.freshLatch c := by
    have hfrz : ∀ i ∈ List.range 4, (t.rf (R.CTX_FRZ_BASE_BASE c i), t.rf (R.CTX_FRZ_LEN_LEN c i)) =
        (s.rf (R.CTX_FRZ_BASE_BASE c i), s.rf (R.CTX_FRZ_LEN_LEN c i)) := fun i hi => by
      have hi := List.mem_range.mp hi
      have h1 := hcp (0x1b0 + 8 * i) (by omega)
      have h2 := hcp (0x1b4 + 8 * i) (by omega)
      rw [h.rf (l := R.CTX_FRZ_BASE_BASE c i) (by show A.CTX_FRZ_BASE c i < _; unfold A.CTX_FRZ_BASE; omega),
        h.rf (l := R.CTX_FRZ_LEN_LEN c i) (by show A.CTX_FRZ_LEN c i < _; unfold A.CTX_FRZ_LEN; omega)]
    have hwin : ∀ f ∈ List.range 4, (t.rf (R.FLD_ACTWIN_BASE f c), t.rf (R.FLD_ACTWIN_SIZE f c)) =
        (s.rf (R.FLD_ACTWIN_BASE f c), s.rf (R.FLD_ACTWIN_SIZE f c)) := fun f hf => by
      have h1 := hfp hf (0xc04 + 16 * c) (by omega)
      have ha : A.FLD_ACTWIN f c < 0x5000000 := by
        unfold A.FLD_ACTWIN
        omega
      rw [h.rf (l := R.FLD_ACTWIN_BASE f c) ha, h.rf (l := R.FLD_ACTWIN_SIZE f c) ha]
    have hwrite : ∀ f ∈ List.range 4, t.flag (R.COL_CTX_WRITE_EN f c) = s.flag (R.COL_CTX_WRITE_EN f c) := fun f hf =>
      h.flag (by
        have := hcol hf (0x400 + 16 * c) (by omega)
        show A.COL_CTX f c < _
        unfold A.COL_CTX
        omega)
    have hearly : ∀ f ∈ List.range 4, t.earlyArea f c = s.earlyArea f c := fun f hf => by
      have hlo : A.COL_EARLY_LO f c < 0x5000000 := by
        have := hcol hf (0x404 + 16 * c) (by omega)
        unfold A.COL_EARLY_LO
        omega
      have hhi : A.COL_EARLY_HI f c < 0x5000000 := by
        have := hcol hf (0x408 + 16 * c) (by omega)
        unfold A.COL_EARLY_HI
        omega
      unfold State.earlyArea State.rf64
      rw [h.rf (l := R.COL_EARLY_LO_ADDR f c) hlo, h.rf (l := R.COL_EARLY_HI_ADDR f c) hhi, h.rf (l := R.COL_EARLY_HI_SIZE f c) hhi]
      dsimp only
      rw [h.inPartition]
    unfold State.freshLatch
    dsimp only
    rw [hctx, List.map_congr_left hfrz, List.map_congr_left hwin, List.map_congr_left hwrite, List.map_congr_left hearly,
      h.flag (l := R.CTX_ARITH_FTZ_DRAIN c) (hcp 0x180 (by decide)), h.flag (l := R.CTX_ARITH_E5M2_SAT c) (hcp 0x180 (by decide)),
      h.flag (l := R.CTX_ARITH_MX_SCALE c) (hcp 0x180 (by decide)), h (A.CTX_SR_SEED_LO c) (hcp 0x184 (by decide)),
      h (A.CTX_SR_SEED_HI c) (hcp 0x188 (by decide)), h.flag (l := R.CTX_TRAIN_COMPAT c) (hcp 0x1a0 (by decide)),
      h.flag (l := R.CTX_TRAIN_TIED c) (hcp 0x1a0 (by decide)), h.flag (l := R.CTX_SEQ_MODE c) (hcp 0x1d0 (by decide)),
      h.rf (l := R.CTX_SEQ_SPLIT_N c) (hcp 0x1d0 (by decide)), h.rf (l := R.CTX_SEQ_SPLIT_POS c) (hcp 0x1d0 (by decide)),
      h.rf (l := R.CTX_SEQ_TOK_TOKENS c) (hcp 0x1d4 (by decide)), h.rf (l := R.CTX_RW_CTRL_K c) (hcp 0x1e0 (by decide)),
      h.rf (l := R.CTX_RW_CTRL_ALPHA_SH c) (hcp 0x1e0 (by decide)), h.rf (l := R.CTX_RW_CTRL_WARMUP c) (hcp 0x1e0 (by decide)),
      h.flag (l := R.CTX_SHADOW_EN c) (hcp 0x220 (by decide)), h.rf (l := R.CTX_SHADOW_K c) (hcp 0x220 (by decide))]
  unfold State.latchFor
  rw [hruns, hlow, hfresh, hctx]

/-! ### The stages of a begin -/

/-- R292: the context's record as a BEGIN opens the step. -/
def CtxSt.opened (x : CtxSt) (l : StepLatch) (mode : Nat) : CtxSt :=
  { x with
    latch := l, rwResetPending := false, totals := {}, gradNf := 0, lossPosts := 0, reported := false, settled := false,
    aborted := if mode = 1 then x.aborted else none }

/-- R211, R292: the context's record is opened, the loss statistics reset if asked for. -/
def State.openCtx (s : State) (c mode : Nat) : State :=
  let l := s.latchFor c mode
  let s := s.setCtx c ((s.ctx c).opened l mode)
  if l.rwReset then s.clearLoss c else s

/-- R292: the step's registers. -/
def State.stepRegs (s : State) (c n mode : Nat) : State :=
  let s := ((s.wf (R.CMT_CCUR_N c) n).wf (R.CMT_CSTAT_MODE c) mode).wf (R.CMT_CSTAT_BLOCK c) 0
  let s := ((s.wf (R.CMT_CSTAT_FWRITTEN c) 0).wf (R.CMT_CSTAT_CHILD_READY c) 0).wf (R.CMT_CSTAT_SUBTREE c) 0
  let s := if mode = 1 then s else s.wf (R.CMT_CSTAT_REPLAYABLE c) 0
  s.wf (R.CMT_CSTAT_STATE c) stRunning

/-- What follows once the step's registers stand, up to the READY tokens held. -/
def State.settleStep (s : State) (c : Nat) : State :=
  (((((s.latchGroup c).beginFields c).beginStreams c).clearCovers c).beginEngines c).mirrorBegins c

theorem beginStep_eq (s : State) (c n mode : Nat) : s.beginStep c n mode =
    if ((((s.openCtx c mode).stepRegs c n mode).settleStep c).takeHeld c).maskFenced c then
      ((((s.openCtx c mode).stepRegs c n mode).settleStep c).takeHeld c).blockCause c 5
    else (((s.openCtx c mode).stepRegs c n mode).settleStep c).takeHeld c := rfl

/-- The field lies above the token registers of the commit page. -/
def Loc.PastTokens (l : Loc) : Prop := 0x70800 ≤ l.addr

theorem Spares.latchGroup {l : Loc} {s0 s : State} (hk : Spares l s0 s) (hl : l.addr < 0x1000000) {c : Nat}
    (h : s.flag (R.CMT_CGRP_HI_EN c) = true → l.NoState c) : Spares l s0 (s.latchGroup c) := by
  unfold State.latchGroup
  split
  · rename_i he
    exact (hk.hbmRead (w := .cmd c (s.client c)) ⟨hl, fun d hd => Option.some.inj hd ▸ h he⟩ _ _).then_regs rfl
  · exact hk.then_regs rfl

theorem Spares.beginFields {l : Loc} {s0 s : State} (hk : Spares l s0 s) (hl : l.addr < 0x1000000) (c : Nat) :
    Spares l s0 (s.beginFields c) := by
  have hne : ∀ f k, l.addr ≠ Page.fieldBase f + 0xc00 + k := fun f k => by
    unfold Page.fieldBase
    omega
  have hsh : ∀ f, l.addr ≠ A.FLD_GAUGE_SH f c := fun f => hne f (16 * c)
  have hhb : ∀ f, l.addr ≠ A.FLD_GAUGE_HB f c := fun f => by
    have := hne f (8 + 16 * c)
    unfold A.FLD_GAUGE_HB
    omega
  have hhbl : ∀ f, l.addr ≠ A.FLD_GAUGE_HBL f c := fun f => by
    have := hne f (12 + 16 * c)
    unfold A.FLD_GAUGE_HBL
    omega
  unfold State.beginFields
  exact Spares.foldl (fun t f ht => (((ht.wf_far (hsh f) _).wf_far (hhbl f) _).wf_far (hsh f) _).wf_far (hhb f) _) _ (hk.then_regs rfl)

theorem Spares.beginEngines {l : Loc} {s0 s : State} (hk : Spares l s0 s) (hi : s.Idle) (hl : l.addr < 0x1000000) (c : Nat) :
    Spares l s0 (s.beginEngines c) := by
  rw [beginEngines_idle hi]
  exact Spares.foldl (fun t f ht => ht.beginEngine hl c _ f) _ hk

theorem Spares.mirrorBegins {l : Loc} {s0 s : State} (hk : Spares l s0 s) (hl : l.NoNet) (c : Nat) :
    Spares l s0 (s.mirrorBegins c) := by
  unfold State.mirrorBegins
  refine Spares.foldl (fun t e ht => ?_) _ hk
  dsimp only
  split
  · refine Spares.sendPkt ?_ hl _ _
    exact ht.then_regs rfl
  · exact ht

theorem beginStreams_regs (s : State) (c : Nat) : (s.beginStreams c).regs = s.regs :=
  (State.beginStreams_same (.refl 8388608 s) rfl c).regs.resolve_left (by decide)

theorem clearCovers_regs (s : State) (c : Nat) : (s.clearCovers c).regs = s.regs :=
  (State.clearCovers_same (.refl 2147483648 s) rfl c).regs.resolve_left (by decide)

/-- Up to the engines, a begin leaves the engines alone. -/
theorem idle_beforeEngines {s : State} (h : s.Idle) (c : Nat) : ((((s.latchGroup c).beginFields c).beginStreams c).clearCovers c).Idle := by
  have h1 := State.latchGroup_same (.refl 11484004360 s) rfl c
  have h2 := State.clearCovers_same (State.beginStreams_same (State.beginFields_same h1 rfl c) rfl c) rfl c
  exact h.of_engines (h2.engines.resolve_left (by decide))

theorem Spares.settleStep {l : Loc} {s0 s : State} (hk : Spares l s0 s) (hi : s.Idle) (hl : l.NoNet) {c : Nat}
    (h : s.flag (R.CMT_CGRP_HI_EN c) = true → l.NoState c) : Spares l s0 (s.settleStep c) :=
  ((((((hk.latchGroup hl.2 h).beginFields hl.2 c).then_regs (beginStreams_regs _ c)).then_regs (clearCovers_regs _ c)).beginEngines
    (idle_beforeEngines hi c) hl.2 c).mirrorBegins hl c)

/-! ### READY tokens held for the step -/

theorem Spares.dropToken {l : Loc} {s0 s : State} (hk : Spares l s0 s) (hl : l.PastTokens) (t : Token) (k : Nat) :
    Spares l s0 (s.dropToken t k) := by
  have hne : ∀ k, k < 0x800 → l.addr ≠ Page.commitBase + k := fun k hk => by
    unfold Loc.PastTokens at hl
    unfold Page.commitBase
    omega
  have h1 : Spares l s0 ((s.bump R.CMT_TOK_DROP_COUNT 1).raiseSrc Page.commitBase 0) :=
    (hk.bump (hne _ (by decide)) 1).raiseSrc (Loc.noErr_of_page (.inr (by unfold Loc.PastTokens at hl; unfold Page.commitBase; omega))) 0
  unfold State.dropToken
  exact h1.ite ((((((h1.wf_far (hne _ (by decide)) _).wf_far (hne _ (by decide)) _).wf_far (hne _ (by decide)) _).wf_far
    (hne _ (by decide)) _).wf_far (hne _ (by decide)) _).wf_far (hne _ (by decide)) _)

theorem Spares.markChild {l : Loc} {s0 s : State} (hk : Spares l s0 s) {c : Nat} (h : l.Clear (R.CMT_CSTAT_CHILD_READY c)) (t : Token) :
    Spares l s0 (s.markChild c t) := by
  unfold State.markChild
  split
  · exact hk
  · split
    · exact hk
    · exact hk.wf (Nat.le_of_ble_eq_true rfl) h _

theorem Spares.takeHeld {l : Loc} {s0 s : State} (hk : Spares l s0 s) (hl : l.PastTokens) {c : Nat}
    (h : l.Clear (R.CMT_CSTAT_CHILD_READY c)) : Spares l s0 (s.takeHeld c) := by
  unfold State.takeHeld
  refine Spares.foldl (fun t x ht => ?_) _ (hk.then_regs rfl)
  split
  · exact ht.dropToken hl x _
  · exact ht.markChild h x

/-- R303: apart from the context's record, READY tokens change registers and error records only. -/
theorem takeHeld_same (s : State) (c : Nat) : Same 8589934600 (s.setCtx c { s.ctx c with held := [] }) (s.takeHeld c) := by
  unfold State.takeHeld
  refine foldl_same (fun t x ht => ?_) (.refl _ _)
  split
  · exact State.dropToken_same ht rfl x _
  · exact State.markChild_same ht rfl c x

theorem ctx_of_ctxs {s t : State} (h : t.ctxs = s.ctxs) (c : Nat) : t.ctx c = s.ctx c := by
  unfold State.ctx
  rw [h]

theorem ctx_takeHeld {s : State} (h : Store.Sorted s.ctxs) (c : Nat) : (s.takeHeld c).ctx c = { s.ctx c with held := [] } :=
  (ctx_of_ctxs ((takeHeld_same s c).ctxs.resolve_left (by decide)) c).trans (ctx_setCtx_self h c _)

/-- R302: the group descriptor that a BEGIN latches. -/
def State.groupRead (s : State) (c : Nat) : Option Group :=
  if s.flag (R.CMT_CGRP_HI_EN c) then some (Group.parse (s.peekHbm (s.groupAt c) 64)) else none

theorem ctx_latchGroup {s : State} (h : Store.Sorted s.ctxs) (c : Nat) :
    (s.latchGroup c).ctx c = { s.ctx c with group := s.groupRead c } := by
  unfold State.latchGroup State.groupRead
  split
  · have hctxs : (s.hbmRead (.cmd c (s.client c)) (s.groupAt c) 64).2.ctxs = s.ctxs :=
      (hbmRead_same s (.cmd c (s.client c)) (s.groupAt c) 64).ctxs.resolve_left (by decide)
    have hbytes := hbmRead_fst s (.cmd c (s.client c)) (s.groupAt c) 64
    generalize s.hbmRead (.cmd c (s.client c)) (s.groupAt c) 64 = r at *
    refine (ctx_setCtx_self (by rw [hctxs]; exact h) c _).trans ?_
    rw [ctx_of_ctxs hctxs, hbytes]
  · exact ctx_setCtx_self h c _

/-- With nothing waiting in the engines, the records of the contexts stand once the group is latched. -/
theorem settleStep_same {s : State} (h : s.Idle) (c : Nat) : Same 1936166223880 (s.latchGroup c) (s.settleStep c) := by
  have hi := idle_beforeEngines h c
  unfold State.settleStep
  refine State.mirrorBegins_same ?_ rfl c
  rw [beginEngines_idle hi]
  exact foldl_same (fun t f ht => beginEngine_same ht rfl c _ f)
    (State.clearCovers_same (State.beginStreams_same (State.beginFields_same (.refl _ _) rfl c) rfl c) rfl c)

theorem ctx_settleStep {s : State} (hi : s.Idle) (h : Store.Sorted s.ctxs) (c : Nat) :
    (s.settleStep c).ctx c = { s.ctx c with group := s.groupRead c } :=
  (ctx_of_ctxs ((settleStep_same hi c).ctxs.resolve_left (by decide)) c).trans (ctx_latchGroup h c)

/-! ### The registers of a step -/

theorem Spares.stepRegs {l : Loc} {s0 s : State} (hk : Spares l s0 s) {c : Nat} (n mode : Nat)
    (h : l.addr ≠ A.CMT_CSTAT c ∧ l.addr ≠ A.CMT_CCUR c) : Spares l s0 (s.stepRegs c n mode) := by
  have h1 := (((hk.wf_far (m := R.CMT_CCUR_N c) h.2 n).wf_far (m := R.CMT_CSTAT_MODE c) h.1 mode).wf_far (m := R.CMT_CSTAT_BLOCK c) h.1 0)
  have h2 := (((h1.wf_far (m := R.CMT_CSTAT_FWRITTEN c) h.1 0).wf_far (m := R.CMT_CSTAT_CHILD_READY c) h.1 0).wf_far
    (m := R.CMT_CSTAT_SUBTREE c) h.1 0)
  unfold State.stepRegs
  exact ((h2.ite (h2.wf_far (m := R.CMT_CSTAT_REPLAYABLE c) h.1 0)).wf_far (m := R.CMT_CSTAT_STATE c) h.1 stRunning)

/-- R292: number, mode, state and block causes as a step begins. -/
structure State.StepOpen (s : State) (c n mode : Nat) : Prop where
  number : s.stepOf c = n % 2 ^ 32
  mode_ : s.rf (R.CMT_CSTAT_MODE c) = mode % 4
  state : s.cstate c = stRunning
  block : s.rf (R.CMT_CSTAT_BLOCK c) = 0

/-- Field `m` lies above field `l`. -/
theorem Loc.clear_above {l m : Loc} (h : Nat.ble (l.lo + l.wid) m.lo = true) : l.Clear m := .inr (.inl (Nat.le_of_ble_eq_true h))

/-- Field `m` lies below field `l`. -/
theorem Loc.clear_below {l m : Loc} (h : Nat.ble (m.lo + m.wid) l.lo = true) : l.Clear m := .inr (.inr (Nat.le_of_ble_eq_true h))

theorem stepOpen_stepRegs {s : State} (hs : Store.Sorted s.regs) (c n mode : Nat) : (s.stepRegs c n mode).StepOpen c n mode := by
  have hccur : A.CMT_CCUR c ≠ A.CMT_CSTAT c := by
    unfold A.CMT_CCUR A.CMT_CSTAT
    omega
  have h1 := sorted_wf hs (R.CMT_CCUR_N c) n
  have h2 := sorted_wf h1 (R.CMT_CSTAT_MODE c) mode
  have h3 := sorted_wf h2 (R.CMT_CSTAT_BLOCK c) 0
  have hrest : ∀ {l : Loc} (t : State), l.Clear (R.CMT_CSTAT_FWRITTEN c) → l.Clear (R.CMT_CSTAT_CHILD_READY c) →
      l.Clear (R.CMT_CSTAT_SUBTREE c) → l.Clear (R.CMT_CSTAT_REPLAYABLE c) → Spares l t
        (if mode = 1 then ((t.wf (R.CMT_CSTAT_FWRITTEN c) 0).wf (R.CMT_CSTAT_CHILD_READY c) 0).wf (R.CMT_CSTAT_SUBTREE c) 0
         else (((t.wf (R.CMT_CSTAT_FWRITTEN c) 0).wf (R.CMT_CSTAT_CHILD_READY c) 0).wf (R.CMT_CSTAT_SUBTREE c) 0).wf
          (R.CMT_CSTAT_REPLAYABLE c) 0) := fun t c1 c2 c3 c4 => by
    have h := (((Spares.refl _ t).wf (Nat.le_of_ble_eq_true rfl) c1 0).wf (Nat.le_of_ble_eq_true rfl) c2 0).wf
      (Nat.le_of_ble_eq_true rfl) c3 0
    exact h.ite (h.wf (Nat.le_of_ble_eq_true rfl) c4 0)
  have hst : ∀ {l : Loc} {t u : State}, Spares l t u → l.Clear (R.CMT_CSTAT_STATE c) → Spares l t (u.wf (R.CMT_CSTAT_STATE c) stRunning) :=
    fun h hl => h.wf (Nat.le_of_ble_eq_true rfl) hl _
  unfold State.stepRegs
  dsimp only
  refine ⟨?_, ?_, ?_, ?_⟩
  · have hfar : ∀ m : Loc, m.addr = A.CMT_CSTAT c → (R.CMT_CCUR_N c).Clear m := fun m hm => .inl (by rw [hm]; exact hccur)
    refine ((hst (hrest _ (hfar _ rfl) (hfar _ rfl) (hfar _ rfl) (hfar _ rfl)) (hfar _ rfl)).rf h3).trans ?_
    exact (rf_wf_addr _ _ hccur).trans ((rf_wf_addr _ _ hccur).trans (rf_wf_self hs (Nat.le_of_ble_eq_true rfl) n))
  · refine ((hst (hrest _ (Loc.clear_above rfl) (Loc.clear_above rfl) (Loc.clear_above rfl) (Loc.clear_above rfl)) (Loc.clear_below rfl)).rf h3).trans ?_
    exact (rf_wf_bits h2 _ (Nat.le_of_ble_eq_true rfl) (.inl (Nat.le_of_ble_eq_true rfl))).trans
      (rf_wf_self h1 (Nat.le_of_ble_eq_true rfl) mode)
  · exact rf_wf_self ((hrest (l := R.CMT_CSTAT_MODE c) _ (Loc.clear_above rfl) (Loc.clear_above rfl) (Loc.clear_above rfl) (Loc.clear_above rfl)).sorted h3)
      (Nat.le_of_ble_eq_true rfl) _
  · refine ((hst (hrest _ (Loc.clear_below rfl) (Loc.clear_above rfl) (Loc.clear_above rfl) (Loc.clear_below rfl)) (Loc.clear_below rfl)).rf h3).trans ?_
    exact rf_wf_self h2 (Nat.le_of_ble_eq_true rfl) 0

/-! ### A step has begun -/

theorem openCtx_same (s : State) (c mode : Nat) : Same 536870920 s (s.openCtx c mode) := by
  have h := State.setCtx_same (.refl 536870920 s) rfl c ((s.ctx c).opened (s.latchFor c mode) mode)
  unfold State.openCtx
  exact ite_same (State.clearLoss_same h rfl c) h

theorem Spares.openCtx {l : Loc} {s0 s : State} (hk : Spares l s0 s) {c : Nat}
    (h : l.addr ≠ A.CTX_RW_MEAN c ∧ l.addr ≠ A.CTX_RW_VAR c ∧ l.addr ≠ A.CTX_RW_COUNT c) (mode : Nat) :
    Spares l s0 (s.openCtx c mode) := by
  have h1 : Spares l s0 (s.setCtx c ((s.ctx c).opened (s.latchFor c mode) mode)) := hk.then_regs rfl
  unfold State.openCtx
  refine Spares.ite ?_ h1
  unfold State.clearLoss
  exact (((h1.setReg h.1 0).setReg h.2.1 0).wf_far (m := R.CTX_RW_COUNT_N c) h.2.2 0).then_regs rfl

theorem ctx_clearLoss {s : State} (hs : Store.Sorted s.ctxs) (c : Nat) :
    (s.clearLoss c).ctx c = { s.ctx c with prevMu := 0, prevVar := 0, prevN := 0 } := by
  unfold State.clearLoss
  dsimp only
  generalize hx : ((s.setReg (A.CTX_RW_MEAN c) 0).setReg (A.CTX_RW_VAR c) 0).wf (R.CTX_RW_COUNT_N c) 0 = x
  have hxs : x.ctxs = s.ctxs := by
    rw [← hx]
    rfl
  rw [ctx_setCtx_self (by rw [hxs]; exact hs), ctx_of_ctxs hxs]

/-- R57, R209: the context's record as the step opens; the loss statistics may be reset. -/
theorem ctx_openCtx {s : State} (hs : Store.Sorted s.ctxs) (c mode : Nat) : Store.Sorted (s.openCtx c mode).ctxs ∧
    ((s.openCtx c mode).ctx c).latch = s.latchFor c mode ∧ ((s.openCtx c mode).ctx c).reported = false ∧
    ((s.openCtx c mode).ctx c).totals = {} := by
  have h1 : Store.Sorted (s.setCtx c ((s.ctx c).opened (s.latchFor c mode) mode)).ctxs := sorted_sputD hs _ _ _
  have hself := ctx_setCtx_self hs c ((s.ctx c).opened (s.latchFor c mode) mode)
  unfold State.openCtx
  dsimp only
  generalize s.setCtx c ((s.ctx c).opened (s.latchFor c mode) mode) = x at *
  split
  · rw [ctx_clearLoss h1, hself]
    exact ⟨sorted_sputD h1 _ _ _, rfl, rfl, rfl⟩
  · rw [hself]
    exact ⟨h1, rfl, rfl, rfl⟩

/-- R292, R302: what the step of a context is at its begin; with no group the state is its own, too. -/
structure State.StepBegun (s v : State) (c n mode : Nat) : Prop where
  latch : (v.ctx c).latch = s.latchFor c mode
  reported : (v.ctx c).reported = false
  totals : (v.ctx c).totals = {}
  held : (v.ctx c).held = []
  group : (v.ctx c).group = s.groupRead c
  number : v.stepOf c = n % 2 ^ 32
  mode_ : v.rf (R.CMT_CSTAT_MODE c) = mode % 4
  committed : v.rf (R.CMT_CSTEP_C c) = s.rf (R.CMT_CSTEP_C c)
  state : s.flag (R.CMT_CGRP_HI_EN c) = false → v.cstate c = if s.maskFenced c then stBlocked else stRunning
  block : s.flag (R.CMT_CGRP_HI_EN c) = false → v.rf (R.CMT_CSTAT_BLOCK c) = if s.maskFenced c then 32 else 0

/-- The registers of the commit page that a begin does not open are as they were. -/
theorem rf_opened {s : State} (hs : Store.Sorted s.regs) {c : Nat} (n mode : Nat) {l : Loc} (h1 : l.addr ≠ A.CMT_CSTAT c)
    (h2 : l.addr ≠ A.CMT_CCUR c) (h3 : l.addr < Page.contextBase c + 0x180) : ((s.openCtx c mode).stepRegs c n mode).rf l = s.rf l := by
  refine (((Spares.refl l s).openCtx ?_ mode).stepRegs n mode ⟨h1, h2⟩).rf hs
  unfold A.CTX_RW_MEAN A.CTX_RW_VAR A.CTX_RW_COUNT
  omega

theorem stepRegs_same {M : Nat} {s0 s : State} (hk : Same M s0 s) (hM : 8 ||| M = M) (c n mode : Nat) :
    Same M s0 (s.stepRegs c n mode) := by
  have hw : ∀ {u : State} (l : Loc) (v : Nat), Same M s0 u → Same M s0 (u.wf l v) := fun l v h => State.wf_same h hM l v
  unfold State.stepRegs
  have h := hw (R.CMT_CSTAT_SUBTREE c) 0 (hw (R.CMT_CSTAT_CHILD_READY c) 0 (hw (R.CMT_CSTAT_FWRITTEN c) 0
    (hw (R.CMT_CSTAT_BLOCK c) 0 (hw (R.CMT_CSTAT_MODE c) mode (hw (R.CMT_CCUR_N c) n hk)))))
  exact hw _ _ (ite_same h (hw _ _ h))

theorem groupRead_opened {s : State} (hs : Store.Sorted s.regs) {c : Nat} (hc : c < 64) (n mode : Nat) :
    ((s.openCtx c mode).stepRegs c n mode).flag (R.CMT_CGRP_HI_EN c) = s.flag (R.CMT_CGRP_HI_EN c) ∧
      ((s.openCtx c mode).stepRegs c n mode).groupRead c = s.groupRead c := by
  have hlo : ((s.openCtx c mode).stepRegs c n mode).rf (R.CMT_CGRP_LO_ADDR c) = s.rf (R.CMT_CGRP_LO_ADDR c) :=
    rf_opened hs n mode (by show A.CMT_CGRP_LO c ≠ _; unfold A.CMT_CGRP_LO A.CMT_CSTAT; omega)
      (by show A.CMT_CGRP_LO c ≠ _; unfold A.CMT_CGRP_LO A.CMT_CCUR; omega) (by
        show A.CMT_CGRP_LO c < _
        unfold A.CMT_CGRP_LO Page.commitBase Page.contextBase
        omega)
  have hhi : ∀ l : Loc, l.addr = A.CMT_CGRP_HI c → ((s.openCtx c mode).stepRegs c n mode).rf l = s.rf l := fun l hl =>
    rf_opened hs n mode (by rw [hl]; unfold A.CMT_CGRP_HI A.CMT_CSTAT; omega) (by rw [hl]; unfold A.CMT_CGRP_HI A.CMT_CCUR; omega) (by
      rw [hl]
      unfold A.CMT_CGRP_HI Page.commitBase Page.contextBase
      omega)
  have hen : ((s.openCtx c mode).stepRegs c n mode).flag (R.CMT_CGRP_HI_EN c) = s.flag (R.CMT_CGRP_HI_EN c) :=
    congrArg (· != 0) (hhi (R.CMT_CGRP_HI_EN c) rfl)
  have hsame : Same 536870920 s ((s.openCtx c mode).stepRegs c n mode) := stepRegs_same (openCtx_same s c mode) rfl c n mode
  refine ⟨hen, ?_⟩
  unfold State.groupRead State.groupAt State.rf64
  rw [hen, hlo, hhi (R.CMT_CGRP_HI_ADDR c) rfl, peekHbm_congr (hsame.regions.resolve_left (by decide))
    (hsame.hbm.resolve_left (by decide)) (hsame.hbmBad.resolve_left (by decide))]

/-- The step with its held tokens taken, before a fence of its mask blocks it. -/
def State.heldStep (s : State) (c n mode : Nat) : State := (((s.openCtx c mode).stepRegs c n mode).settleStep c).takeHeld c

theorem beginStep_heldStep (s : State) (c n mode : Nat) : s.beginStep c n mode =
    if (s.heldStep c n mode).maskFenced c then (s.heldStep c n mode).blockCause c 5 else s.heldStep c n mode := rfl

theorem idle_stepRegs {s : State} (hi : s.Idle) (c n mode : Nat) : ((s.openCtx c mode).stepRegs c n mode).Idle :=
  hi.of_engines ((stepRegs_same (openCtx_same s c mode) rfl c n mode).engines.resolve_left (by decide))

theorem heldStep_same {s : State} (hi : s.Idle) (c n mode : Nat) : Same 1936703094792 s (s.heldStep c n mode) := by
  have h1 : Same 1936703094792 s ((s.openCtx c mode).stepRegs c n mode) :=
    stepRegs_same ((openCtx_same s c mode).mono rfl) rfl c n mode
  have h2 := (State.latchGroup_same h1 rfl c).trans ((settleStep_same (idle_stepRegs hi c n mode) c).mono (N := 1936703094792) rfl)
  exact State.takeHeld_same h2 rfl c

theorem keeps_openCtx (s : State) (c mode : Nat) : Keeps s (s.openCtx c mode) := by
  have h : Keeps s (s.setCtx c ((s.ctx c).opened (s.latchFor c mode) mode)) := State.setCtx_keeps (.refl s) c _
  unfold State.openCtx
  exact ite_keeps (State.clearLoss_keeps h c) h

theorem keeps_stepRegs {s0 s : State} (hk : Keeps s0 s) (c n mode : Nat) : Keeps s0 (s.stepRegs c n mode) := by
  have hw : ∀ {u : State} (l : Loc) (v : Nat), Keeps s0 u → Keeps s0 (u.wf l v) := fun l v h => State.wf_keeps h l v
  unfold State.stepRegs
  have h := hw (R.CMT_CSTAT_SUBTREE c) 0 (hw (R.CMT_CSTAT_CHILD_READY c) 0 (hw (R.CMT_CSTAT_FWRITTEN c) 0
    (hw (R.CMT_CSTAT_BLOCK c) 0 (hw (R.CMT_CSTAT_MODE c) mode (hw (R.CMT_CCUR_N c) n hk)))))
  exact hw _ _ (ite_keeps h (hw _ _ h))

theorem canon_stepRegs {s : State} (hc : s.Canon) (c n mode : Nat) : ((s.openCtx c mode).stepRegs c n mode).Canon :=
  (keeps_stepRegs (keeps_openCtx s c mode) c n mode).canon hc

theorem canon_settleStep {s : State} (hc : s.Canon) (c : Nat) : (s.settleStep c).Canon :=
  (State.mirrorBegins_keeps (State.beginEngines_keeps (State.clearCovers_keeps (State.beginStreams_keeps (State.beginFields_keeps
    (State.latchGroup_keeps (.refl s) c) c) c) c) c) c).canon hc

/-- What a begin's later stages leave of the registers as the step opened them. -/
theorem rf_heldStep {s : State} (hc : s.Canon) (hi : s.Idle) {c : Nat} (hlt : c < 64) (n mode : Nat) {l : Loc} (h1 : l.PastTokens)
    (h2 : l.addr < 0x1000000) (h3 : l.Clear (R.CMT_CSTAT_CHILD_READY c)) (h4 : s.flag (R.CMT_CGRP_HI_EN c) = true → l.NoState c) :
    (s.heldStep c n mode).rf l = ((s.openCtx c mode).stepRegs c n mode).rf l := by
  have hen := (groupRead_opened hc.regs hlt n mode).1
  have hnet : l.NoNet := ⟨by unfold Loc.PastTokens at h1; omega, h2⟩
  exact (((Spares.refl l ((s.openCtx c mode).stepRegs c n mode)).settleStep (idle_stepRegs hi c n mode) hnet
    (fun he => h4 (hen ▸ he))).takeHeld h1 h3).rf (canon_stepRegs hc c n mode).regs

theorem ctx_heldStep {s : State} (hc : s.Canon) (hi : s.Idle) {c : Nat} (hlt : c < 64) (n mode : Nat) :
    (s.heldStep c n mode).ctx c = { (s.openCtx c mode).ctx c with group := s.groupRead c, held := [] } := by
  have hx2 : ((s.openCtx c mode).stepRegs c n mode).ctxs = (s.openCtx c mode).ctxs :=
    (stepRegs_same (.refl 8 (s.openCtx c mode)) rfl c n mode).ctxs.resolve_left (by decide)
  have hcan := canon_stepRegs hc c n mode
  rw [State.heldStep, ctx_takeHeld (canon_settleStep hcan c).ctxs, ctx_settleStep (idle_stepRegs hi c n mode) hcan.ctxs,
    ctx_of_ctxs hx2, (groupRead_opened hc.regs hlt n mode).2]

theorem maskFenced_heldStep {s : State} (hc : s.Canon) (hi : s.Idle) {c : Nat} (hlt : c < 64) (n mode : Nat) :
    (s.heldStep c n mode).maskFenced c = s.maskFenced c := by
  have hmask : (s.heldStep c n mode).rf (R.CTX_FMASK_MASK c) = s.rf (R.CTX_FMASK_MASK c) := by
    have hne : (R.CTX_FMASK_MASK c).addr ≠ A.CMT_CSTAT c ∧ (R.CTX_FMASK_MASK c).addr ≠ A.CMT_CCUR c := by
      show A.CTX_FMASK c ≠ _ ∧ A.CTX_FMASK c ≠ _
      unfold A.CTX_FMASK A.CMT_CSTAT A.CMT_CCUR Page.contextBase Page.commitBase
      omega
    have hlow : (R.CTX_FMASK_MASK c).PastTokens ∧ A.CTX_FMASK c < 0x1000000 := by
      show 0x70800 ≤ A.CTX_FMASK c ∧ A.CTX_FMASK c < 0x1000000
      unfold A.CTX_FMASK Page.contextBase
      omega
    refine (rf_heldStep hc hi hlt n mode hlow.1 hlow.2 (.inl hne.1) fun _ => .inl hne.1).trans (rf_opened hc.regs n mode hne.1 hne.2 ?_)
    show A.CTX_FMASK c < _
    unfold A.CTX_FMASK
    omega
  have hf : (s.heldStep c n mode).fences = s.fences := (heldStep_same hi c n mode).fences.resolve_left (by decide)
  unfold State.maskFenced State.inMask State.isFenced State.fenceOf
  rw [hmask, hf]

/-- R292: number, mode, committed step, and with no group state and block causes, once the held tokens are taken. -/
structure State.StepHeld (s p : State) (c n mode : Nat) : Prop where
  number : p.stepOf c = n % 2 ^ 32
  mode_ : p.rf (R.CMT_CSTAT_MODE c) = mode % 4
  committed : p.rf (R.CMT_CSTEP_C c) = s.rf (R.CMT_CSTEP_C c)
  state : s.flag (R.CMT_CGRP_HI_EN c) = false → p.cstate c = stRunning
  block : s.flag (R.CMT_CGRP_HI_EN c) = false → p.rf (R.CMT_CSTAT_BLOCK c) = 0

theorem commitField {c k : Nat} (hc : c < 64) (hk : k ≤ 8) {l : Loc} (hl : l.addr = Page.commitBase + 0x800 + 32 * c + k) :
    l.PastTokens ∧ l.addr < 0x1000000 := by
  unfold Loc.PastTokens
  rw [hl]
  unfold Page.commitBase
  omega

theorem CMT_CSTAT_addr (c : Nat) : A.CMT_CSTAT c = Page.commitBase + 0x800 + 32 * c + 0 := rfl

theorem CMT_CSTEP_addr (c : Nat) : A.CMT_CSTEP c = Page.commitBase + 0x800 + 32 * c + 4 := by
  unfold A.CMT_CSTEP
  omega

theorem CMT_CCUR_addr (c : Nat) : A.CMT_CCUR c = Page.commitBase + 0x800 + 32 * c + 8 := by
  unfold A.CMT_CCUR
  omega

theorem stepHeld_heldStep {s : State} (hc : s.Canon) (hi : s.Idle) {c : Nat} (hlt : c < 64) (n mode : Nat) :
    s.StepHeld (s.heldStep c n mode) c n mode := by
  have hopen := stepOpen_stepRegs (keeps_openCtx s c mode |>.canon hc).regs c n mode
  have hcur : A.CMT_CCUR c ≠ A.CMT_CSTAT c ∧ A.CMT_CSTEP c ≠ A.CMT_CSTAT c ∧ A.CMT_CSTEP c ≠ A.CMT_CCUR c := by
    rw [CMT_CSTAT_addr, CMT_CCUR_addr, CMT_CSTEP_addr]
    omega
  have hstat : ∀ l : Loc, l.addr = A.CMT_CSTAT c → l.PastTokens ∧ l.addr < 0x1000000 := fun l hl =>
    commitField hlt (Nat.zero_le 8) hl
  have hno : s.flag (R.CMT_CGRP_HI_EN c) = false → ∀ l : Loc, s.flag (R.CMT_CGRP_HI_EN c) = true → l.NoState c :=
    fun he _ h => absurd (he.symm.trans h) (by decide)
  refine ⟨?_, ?_, ?_, fun he => ?_, fun he => ?_⟩
  · have hb := commitField hlt (Nat.le_refl 8) (l := R.CMT_CCUR_N c) (CMT_CCUR_addr c)
    exact (rf_heldStep hc hi hlt n mode hb.1 hb.2 (.inl hcur.1) fun _ => .inl hcur.1).trans hopen.number
  · exact (rf_heldStep hc hi hlt n mode (hstat _ rfl).1 (hstat _ rfl).2 (Loc.clear_above rfl) fun _ =>
      .inr (.inl ⟨Nat.le_of_ble_eq_true rfl, Nat.le_of_ble_eq_true rfl⟩)).trans hopen.mode_
  · have hb := commitField hlt (k := 4) (by decide) (l := R.CMT_CSTEP_C c) (CMT_CSTEP_addr c)
    refine (rf_heldStep hc hi hlt n mode hb.1 hb.2 (.inl hcur.2.1) fun _ => .inl hcur.2.1).trans
      (rf_opened hc.regs n mode hcur.2.1 hcur.2.2 ?_)
    show A.CMT_CSTEP c < _
    unfold A.CMT_CSTEP Page.commitBase Page.contextBase
    omega
  · exact (rf_heldStep hc hi hlt n mode (hstat _ rfl).1 (hstat _ rfl).2 (Loc.clear_above rfl) (hno he _)).trans hopen.state
  · exact (rf_heldStep hc hi hlt n mode (hstat _ rfl).1 (hstat _ rfl).2 (Loc.clear_above rfl) (hno he _)).trans hopen.block

/-- A fence of the mask blocks the step. -/
def State.fenceBlock (p : State) (c : Nat) (fenced : Bool) : State := if fenced then p.blockCause c 5 else p

theorem stepBegun_fenceBlock {s p : State} {c n mode : Nat} (h : s.StepHeld p c n mode) (hs : Store.Sorted p.regs)
    (hctx : p.ctx c = { (s.openCtx c mode).ctx c with group := s.groupRead c, held := [] }) (hc : Store.Sorted s.ctxs) :
    s.StepBegun (p.fenceBlock c (s.maskFenced c)) c n mode := by
  obtain ⟨_, hlatch, hrep, htot⟩ := ctx_openCtx hc c mode
  have hcx : (p.fenceBlock c (s.maskFenced c)).ctx c = { (s.openCtx c mode).ctx c with group := s.groupRead c, held := [] } := by
    unfold State.fenceBlock
    split
    · exact (ctx_of_ctxs (congrArg State.ctxs (blockCause_frame p c 5) :) c).trans hctx
    · exact hctx
  have hsp : ∀ {l : Loc}, l.NoState c → (p.fenceBlock c (s.maskFenced c)).rf l = p.rf l := fun hl => by
    unfold State.fenceBlock
    split
    · exact ((Spares.refl _ p).blockCause hl 5).rf hs
    · rfl
  refine ⟨by rw [hcx]; exact hlatch, by rw [hcx]; exact hrep, by rw [hcx]; exact htot, by rw [hcx], by rw [hcx],
    (hsp (.inl ?_)).trans h.number, (hsp (.inr (.inl ⟨Nat.le_of_ble_eq_true rfl, Nat.le_of_ble_eq_true rfl⟩))).trans h.mode_,
    (hsp (.inl ?_)).trans h.committed, fun he => ?_, fun he => ?_⟩
  · show A.CMT_CCUR c ≠ A.CMT_CSTAT c
    rw [CMT_CSTAT_addr, CMT_CCUR_addr]
    omega
  · show A.CMT_CSTEP c ≠ A.CMT_CSTAT c
    rw [CMT_CSTAT_addr, CMT_CSTEP_addr]
    omega
  · unfold State.fenceBlock
    split
    · exact cstate_blockCause hs c 5 (h.state he)
    · exact h.state he
  · unfold State.fenceBlock
    split
    · unfold State.blockCause
      rw [if_pos (by rw [h.state he]; rfl), h.block he]
      exact (rf_wf_bits (sorted_wf hs _ _) _ (Nat.le_of_ble_eq_true rfl) (.inr (Nat.le_of_ble_eq_true rfl))).trans
        (rf_wf_self hs (Nat.le_of_ble_eq_true rfl) _)
    · exact h.block he

theorem stepBegun_beginStep {s : State} (hc : s.Canon) (hi : s.Idle) {c : Nat} (hlt : c < 64) (n mode : Nat) :
    s.StepBegun (s.beginStep c n mode) c n mode := by
  have hsort : Store.Sorted (s.heldStep c n mode).regs := (State.takeHeld_keeps (.refl _) c |>.canon
    (canon_settleStep (canon_stepRegs hc c n mode) c)).regs
  rw [beginStep_heldStep, maskFenced_heldStep hc hi hlt]
  exact stepBegun_fenceBlock (stepHeld_heldStep hc hi hlt n mode) hsort (ctx_heldStep hc hi hlt n mode) hc.ctxs

end Sys2Proof.Machine


/-! BEGIN (R292, R327, R330, R333): O29. -/

namespace Sys2Proof.Machine

theorem cmdAt_lt (w : CmdWord) (o n : Nat) : cmdAt w o n < 2 ^ (8 * n) := BitVec.isLt _

theorem canon_started {s : State} (hc : s.Canon) (q : Nat) (w : CmdWord) : (s.started q w).Canon :=
  (State.passStart_keeps (.refl s) q _).canon hc

/-- The command that must wait leaves everything as it is. -/
theorem runCmd_waits {s : State} {q opc : Nat} {w : CmdWord} (h : s.MayRun q opc w) {body : CmdWord → Nat → State → Begun}
    (hb : body w (s.qStart q) s = .wait) : runCmd q opc body s = s := by
  unfold runCmd
  rw [h.head]
  dsimp only
  have h1 : (!(s.queue q).go || CmdWord.opc w != opc || !s.mayStart q) = false := by simp [h.go, h.opc, h.moves]
  rw [h1, h.starts, hb]
  simp [Begun.isInvalid]

/-- R292, R333: the BEGIN `w` of step `n` in mode `mode` is neither INVALID nor STATE. -/
structure State.MayBegin (s : State) (q : Nat) (w : CmdWord) (c n mode : Nat) : Prop where
  run : s.MayRun q 0x40 w
  ctx_ : c = s.qCtx q
  number : n = cmdAt w 32 4
  mode_ : mode = cmdAt w 36 1
  legal : mode < 3
  reserved : lowest (reservedBytes w 37 27) = none
  allowed : s.beginRefused c n mode = false
  group : s.groupInvalid c = false

theorem beginArgs {w : CmdWord} {mode : Nat} (h : mode < 3) (hz : lowest (reservedBytes w 37 27) = none) :
    lowest ([(decide (mode ≥ 3), 36)] ++ reservedBytes w 37 27) = none := by
  rw [lowest_append, hz, decide_eq_false (Nat.not_le.mpr h)]
  rfl

/-- R294, R333, R365: what a BEGIN does that is neither INVALID nor STATE. -/
theorem execBegin_of_may {s : State} {q : Fin 8192} {w : CmdWord} {c n mode : Nat} (h : s.MayBegin q w c n mode) (rings : Rings) :
    (s.barrierClosed c = true ∨ s.beginWaits c = true → execBegin q rings s = .next s) ∧
    (s.barrierClosed c = false → s.beginWaits c = false →
      (s.serving c = false → execBegin q rings s =
        .next (s.launchCmd q w (thenOk q (s.qStart q) fun s' => s'.beginStep c n mode))) ∧
      (s.serving c = true → mode = 1 → execBegin q rings s = .next (s.launchCmd q w (thenOk q (s.qStart q) fun s' =>
        s'.beginServing c n 1 [] ((s'.srv c).attempt.getD {})))) ∧
      (s.serving c = true → mode = 2 → execBegin q rings s = .next (s.launchCmd q w (thenOk q (s.qStart q) fun s' =>
        s'.beginServing c n 2 [] (s'.checkAdmission c)))) ∧
      (s.serving c = true → mode = 0 → ∀ a, s.admission c ((s.srv c).held ++ s.takenOf c (s.scanServe rings c)) = ([], a) →
        execBegin q rings s = .next (s.launchCmd q w (thenOk q (s.qStart q) fun s' =>
          s'.beginServing c n 0 (s.scanServe rings c) a)))) := by
  obtain ⟨hr, rfl, rfl, rfl, hm, hz, ha, hg⟩ := h
  have hargs := beginArgs hm hz
  refine ⟨fun hw => ?_, fun hb hw => ⟨fun hs => ?_, fun hs h1 => ?_, fun hs h2 => ?_, fun hs h0 a hadm => ?_⟩⟩
  · refine congrArg Host.Outcome.next (runCmd_waits hr ?_)
    dsimp only
    rw [argsThen_none hargs, hg, ha]
    have : (s.barrierClosed (s.qCtx q) || s.beginWaits (s.qCtx q)) = true := by simpa using hw
    rw [this]
    rfl
  all_goals
    refine congrArg Host.Outcome.next (runCmd_run hr ?_)
    dsimp only
    rw [argsThen_none hargs, hg, ha, hb, hw, hs]
    simp only [Bool.or_self, Bool.false_eq_true, Bool.not_true, Bool.not_false, if_false, if_true]
  · rw [if_pos h1]
  · rw [if_neg (by rw [h2]; decide), if_pos h2]
  · rw [if_neg (by rw [h0]; decide), if_neg (by rw [h0]; decide), hadm]

/-! ### A begun step, seen from the state before the command -/

theorem lowRegs_groupAt {s t : State} (h : LowRegs s t) {c : Nat} (hc : c < 64) :
    t.groupAt c = s.groupAt c ∧ t.flag (R.CMT_CGRP_HI_EN c) = s.flag (R.CMT_CGRP_HI_EN c) := by
  have hlo : A.CMT_CGRP_LO c < 0x5000000 := by
    unfold A.CMT_CGRP_LO Page.commitBase
    omega
  have hhi : A.CMT_CGRP_HI c < 0x5000000 := by
    unfold A.CMT_CGRP_HI Page.commitBase
    omega
  unfold State.groupAt State.rf64
  exact ⟨by rw [h.rf (l := R.CMT_CGRP_LO_ADDR c) hlo, h.rf (l := R.CMT_CGRP_HI_ADDR c) hhi], h.flag hhi⟩

theorem lowRegs_maskFenced {s t : State} (h : LowRegs s t) (hf : t.fences = s.fences) {c : Nat} (hc : c < 64) :
    t.maskFenced c = s.maskFenced c := by
  unfold State.maskFenced State.inMask State.isFenced State.fenceOf
  rw [h.rf (l := R.CTX_FMASK_MASK c) (contextBase_low hc (k := 0x104) (by decide)), hf]

/-- What a BEGIN's step is, in the terms of the state that the command met. -/
theorem stepBegun_started {s : State} (hc : s.Canon) {q c : Nat} {w : CmdWord} (hlt : c < 64) (n mode : Nat)
    (hi : ∀ f : Fin 4, (s.eng f).waiting = []) : s.StepBegun ((s.started q w).beginStep c n mode) c n mode := by
  have hlow := lowRegs_started s q w
  have hidle : (s.started q w).Idle := ⟨hc.engines, fun f hf => hi ⟨f, hf⟩⟩
  obtain ⟨hlatch, hrep, htot, hheld, hgroup, hn, hm, hcom, hst, hbl⟩ := stepBegun_beginStep (canon_started hc q w) hidle hlt n mode
  obtain ⟨hat, hen⟩ := lowRegs_groupAt hlow hlt
  have hmf : (s.started q w).maskFenced c = s.maskFenced c := lowRegs_maskFenced hlow rfl hlt
  rw [hlow.latchFor rfl hlt] at hlatch
  have hread : (s.started q w).groupRead c = s.groupRead c := by
    unfold State.groupRead
    rw [hen, hat, peekHbm_started]
  rw [hread] at hgroup
  rw [hen, hmf] at hst hbl
  refine ⟨hlatch, hrep, htot, hheld, hgroup, hn, hm, hcom.trans (hlow.rf ?_), hst, hbl⟩
  show A.CMT_CSTEP c < _
  unfold A.CMT_CSTEP Page.commitBase
  omega

/-- No register of a job count is one of the commit page. -/
theorem commit_ne_job {a : Nat} (h : 0x70000 ≤ a) (u : Nat) (hu : u < 64) : a ≠ A.HIF_JOB_LO u ∧ a ≠ A.HIF_JOB_HI u := by
  unfold A.HIF_JOB_LO A.HIF_JOB_HI Page.hostifBase
  omega

/-- R359: what a BEGIN's command adds to its step is its own record and a job. -/
theorem State.StepBegun.launched {s : State} {q c n mode : Nat} {w : CmdWord}
    (h : s.StepBegun ((s.started q w).beginStep c n mode) c n mode) :
    s.StepBegun (s.launchCmd q w (thenOk q (s.qStart q) fun s' => s'.beginStep c n mode)) c n mode := by
  have hsame := launchCmd_ok_same (M := 68719476744) s q w (fun s' => s'.beginStep c n mode) rfl
  have hreg := fun a => launchCmd_ok_reg s q w (fun s' => s'.beginStep c n mode) (a := a)
  generalize (s.started q w).beginStep c n mode = v at *
  generalize s.launchCmd q w (thenOk q (s.qStart q) fun s' => s'.beginStep c n mode) = t at *
  have hctx : t.ctx c = v.ctx c := ctx_of_ctxs (hsame.ctxs.resolve_left (by decide)) c
  have hrf : ∀ {l : Loc}, 0x70000 ≤ l.addr → t.rf l = v.rf l := fun hl => rf_congr (hreg _ (commit_ne_job hl))
  have hcommit : ∀ {k : Nat}, 0x70000 ≤ Page.commitBase + k := fun {k} => Nat.le_add_right 0x70000 k
  have hstat : 0x70000 ≤ A.CMT_CSTAT c := by
    rw [CMT_CSTAT_addr]
    unfold Page.commitBase
    omega
  obtain ⟨hlatch, hrep, htot, hheld, hgroup, hn, hm, hcom, hst, hbl⟩ := h
  refine ⟨hctx ▸ hlatch, hctx ▸ hrep, hctx ▸ htot, hctx ▸ hheld, hctx ▸ hgroup, (hrf ?_).trans hn, (hrf hstat).trans hm, (hrf ?_).trans hcom,
    fun he => (hrf hstat).trans (hst he), fun he => (hrf hstat).trans (hbl he)⟩
  · show 0x70000 ≤ A.CMT_CCUR c
    rw [CMT_CCUR_addr]
    unfold Page.commitBase
    omega
  · show 0x70000 ≤ A.CMT_CSTEP c
    rw [CMT_CSTEP_addr]
    unfold Page.commitBase
    omega

/-- What follows the streams' part of a begin touches no stream. -/
theorem streams_beginStep (s : State) (c n mode : Nat) : (s.beginStep c n mode).streams =
    ((((s.openCtx c mode).stepRegs c n mode).latchGroup c).beginFields c |>.beginStreams c).streams := by
  have h := State.takeHeld_same (State.mirrorBegins_same (State.beginEngines_same (State.clearCovers_same
    (.refl 4204304376842 (((((s.openCtx c mode).stepRegs c n mode).latchGroup c).beginFields c).beginStreams c)) rfl c) rfl c) rfl c) rfl c
  have hb := ite_same (c := ((((s.openCtx c mode).stepRegs c n mode).settleStep c).takeHeld c).maskFenced c = true)
    (State.blockCause_same h rfl c 5) h
  exact hb.streams.resolve_left (by decide)

/-- R144, R209: after a BEGIN no stream of the context holds anything of a step. -/
theorem fresh_beginStep {s : State} (hc : s.Canon) {c n mode : Nat} {p : At} (hpc : p.c = c) (hn : p.n < 26) (hl : c < 64)
    (hk : p.k < 3) : ((s.beginStep c n mode).st p).Fresh := by
  rw [st_of_streams (streams_beginStep s c n mode)]
  refine fresh_begun ?_ hpc hn (hpc ▸ hl) hk
  exact ((State.beginFields_keeps (State.latchGroup_keeps (keeps_stepRegs (keeps_openCtx s c mode) c n mode) c) c).canon hc).streams

theorem fresh_launched {s : State} (hc : s.Canon) {q c n mode : Nat} {w : CmdWord} {p : At} (hpc : p.c = c) (hn : p.n < 26) (hl : c < 64)
    (hk : p.k < 3) : ((s.launchCmd q w (thenOk q (s.qStart q) fun s' => s'.beginStep c n mode)).st p).Fresh := by
  have hsame := launchCmd_ok_same (M := 68719476744) s q w (fun s' => s'.beginStep c n mode) rfl
  rw [st_of_streams (hsame.streams.resolve_left (by decide))]
  exact fresh_beginStep (canon_started hc q w) hpc hn hl hk

/-- Settles O29. Where a JOIN or LEAVE that a serving BEGIN takes ends the scan of its queue is the model's reading (log 21). -/
theorem beginStartsStep : Obligations.BeginStartsStep := by
  intro q rings s w c n mode hc hr hcc hn hmode hm hz ha hg
  have hlt : c < 64 := hcc ▸ ctx_qCtx_lt s q
  obtain ⟨hwait, hrun⟩ := execBegin_of_may ⟨hr, hcc, hn, hmode, hm, hz, ha, hg⟩ rings
  refine ⟨hwait, fun hw => ⟨fun hs => ?_, fun hs hb h1 => ?_, fun hs hb h2 => ?_, fun hs hb h0 a hadm => ?_⟩⟩
  · have hb : s.barrierClosed c = false := by
      unfold State.barrierClosed
      rw [hs, Bool.false_and]
    refine ⟨_, (hrun hb hw).1 hs, ran_launchCmd hc hr _, fun f k r => ?_, fun hi => ?_⟩
    · obtain ⟨h1, h2, h3, h4⟩ := fresh_launched (n := n) (mode := mode) (w := w) (q := q.val) hc (p := ⟨f, k, c, r⟩) rfl k.isLt hlt r.isLt
      exact ⟨h1, h2, h3, h4⟩
    · obtain ⟨hlatch, hrep, htot, hheld, hgroup, hnum, hmo, hcom, hst, hbl⟩ := (stepBegun_started hc (q := q) (w := w) hlt n mode hi).launched
      have hn32 : n % 2 ^ 32 = n := Nat.mod_eq_of_lt (hn ▸ cmdAt_lt w 32 4)
      refine ⟨hlatch, hrep, htot, hheld, hnum.trans hn32, hmo.trans (Nat.mod_eq_of_lt (Nat.lt_succ_of_lt hm)), hcom, fun he => ?_, fun he => ?_⟩
      · rw [hgroup, State.groupRead, if_pos he]
      · exact ⟨by rw [hgroup, State.groupRead, if_neg (by rw [he]; decide)], hst he, hbl he⟩
  · exact ⟨_, (hrun hb hw).2.1 hs h1, ran_launchCmd hc hr _⟩
  · exact ⟨_, (hrun hb hw).2.2.1 hs h2, ran_launchCmd hc hr _⟩
  · exact ⟨_, (hrun hb hw).2.2.2 hs h0 a hadm, ran_launchCmd hc hr _⟩

end Sys2Proof.Machine


/-! The end of a step (R290, R294 to R299, R303): O30. -/

namespace Sys2Proof.Machine

/-! ### Live copies -/

/-- A region but for the mirror packets that it has sent. -/
def Region.unsent (r : Region) : Region := { r with sentData := 0 }

/-- From `s` to `t` regions change at most in the number of mirror packets sent. -/
structure RegionsKept (s t : State) : Prop where
  sorted : Store.Sorted s.regions → Store.Sorted t.regions
  unsent : Store.Sorted s.regions → ∀ i, (t.region i).unsent = (s.region i).unsent

theorem RegionsKept.live {s t : State} (h : RegionsKept s t) (hs : Store.Sorted s.regions) (i : Nat) :
    (t.region i).live = (s.region i).live := (congrArg Region.live (h.unsent hs i) :)

theorem RegionsKept.refl (s : State) : RegionsKept s s := ⟨id, fun _ _ => rfl⟩

theorem RegionsKept.trans {s t u : State} (h : RegionsKept s t) (k : RegionsKept t u) : RegionsKept s u :=
  ⟨fun hs => k.sorted (h.sorted hs), fun hs i => (k.unsent (h.sorted hs) i).trans (h.unsent hs i)⟩

theorem region_of_regions {s t : State} (h : t.regions = s.regions) (i : Nat) : t.region i = s.region i := by
  unfold State.region
  rw [h]

theorem RegionsKept.of_regions {s t : State} (h : t.regions = s.regions) : RegionsKept s t :=
  ⟨fun hs => by rw [h]; exact hs, fun _ i => by rw [region_of_regions h]⟩

theorem RegionsKept.then_regions {s0 s t : State} (hk : RegionsKept s0 s) (h : t.regions = s.regions) : RegionsKept s0 t :=
  hk.trans (.of_regions h)

theorem RegionsKept.ite {s0 s t : State} {p : Prop} [Decidable p] (h : RegionsKept s0 s) (k : RegionsKept s0 t) :
    RegionsKept s0 (if p then s else t) := by
  split
  · exact h
  · exact k

theorem RegionsKept.foldl {α : Type} {s0 : State} {f : State → α → State} (hf : ∀ t x, RegionsKept s0 t → RegionsKept s0 (f t x)) :
    ∀ (xs : List α) {t : State}, RegionsKept s0 t → RegionsKept s0 (xs.foldl f t)
  | [], _, h => h
  | x :: xs, _, h => RegionsKept.foldl hf xs (hf _ x h)

theorem RegionsKept.setRegion {s0 s : State} (hk : RegionsKept s0 s) {i : Nat} {r : Region} (h : r.unsent = (s.region i).unsent) :
    RegionsKept s0 (s.setRegion i r) := by
  refine hk.trans ⟨fun hs => sorted_sputD hs _ _ _, fun hs j => ?_⟩
  by_cases e : j = i
  · subst e
    have : (s.setRegion j r).region j = r := sgetD_sputD_self hs _ _ _
    rw [this, h]
  · have : (s.setRegion i r).region j = s.region j := sgetD_sputD_ne s.regions r {} e
    rw [this]

theorem RegionsKept.fallowWritten {s0 s : State} (hk : RegionsKept s0 s) (w : Win) (a n : Nat) : RegionsKept s0 (s.fallowWritten w a n) := by
  have hsend : ∀ (t : State) f x, (t.sendPkt f x).regions = t.regions := fun t f x =>
    (State.sendPkt_same (.refl 833223655432 t) rfl f x).regions.resolve_left (by decide)
  unfold State.fallowWritten
  dsimp only
  split
  · exact hk
  · have h1 : RegionsKept s0 (if ({ s with coverage := sput s.coverage (a / 4096) () } : State).stepCurrent (s.region w.region).ctx then
        (({ s with coverage := sput s.coverage (a / 4096) () } : State).wf (R.CMT_CSTAT_FWRITTEN (s.region w.region).ctx) 1).wf
          (R.CMT_CSTAT_RB (s.region w.region).ctx) 0 else { s with coverage := sput s.coverage (a / 4096) () }) := by
      split <;> exact hk.then_regions rfl
    split
    · refine (h1.setRegion ?_).then_regions (hsend _ _ _)
      split <;> rfl
    · exact h1

theorem RegionsKept.writeWord {s0 s : State} (hk : RegionsKept s0 s) (w : Consumer) (a : Nat) (bs : List Byte) :
    RegionsKept s0 (s.writeWord w a bs) := by
  have hb : ∀ (t : State) lo hi, (t.bump64 lo hi 1).regions = t.regions := fun t lo hi =>
    (State.bump64_same (.refl 8 t) rfl lo hi 1).regions.resolve_left (by decide)
  have hue : ∀ (t : State) x, (t.reportUe (.merge w) x).regions = t.regions := fun t x =>
    (State.reportUe_same (.refl 8589934600 t) rfl (.merge w) x).regions.resolve_left (by decide)
  unfold State.writeWord
  dsimp only
  have h1 : RegionsKept s0 (if bs.length < 64 then
      s.bump64 (R.HBM_RD_LO_COUNT (fieldOf (s.mapAddr a)) (s.stackOf (s.mapAddr a)))
        (R.HBM_RD_HI_COUNT (fieldOf (s.mapAddr a)) (s.stackOf (s.mapAddr a))) 1 else s) := by
    split
    · exact hk.then_regions (hb _ _ _)
    · exact hk
  generalize (if bs.length < 64 then _ else s) = u at h1 ⊢
  split
  · exact h1.then_regions (hue _ _)
  · have h2 := h1.then_regions (hb u (R.HBM_WR_LO_COUNT (fieldOf (s.mapAddr a)) (s.stackOf (s.mapAddr a)))
      (R.HBM_WR_HI_COUNT (fieldOf (s.mapAddr a)) (s.stackOf (s.mapAddr a))))
    generalize u.bump64 _ _ 1 = v at h2 ⊢
    have h3 : ∀ x y, RegionsKept s0 { v with hbm := x, hbmBad := y } := fun _ _ => h2.then_regions rfl
    split
    · split
      · exact (h3 _ _).fallowWritten _ _ _
      · exact h3 _ _
    · exact h3 _ _

theorem RegionsKept.hbmWrite {s0 s : State} (hk : RegionsKept s0 s) (w : Consumer) (a : Nat) (bs : List Byte) :
    RegionsKept s0 (s.hbmWrite w a bs) :=
  RegionsKept.foldl (fun _ _ h => h.writeWord w _ _) _ hk

theorem RegionsKept.writeCpl {s0 s : State} (hk : RegionsKept s0 s) (q : Nat) (ok : Bool) : RegionsKept s0 (s.writeCpl q ok) := by
  have hmsg : ∀ (t : State) f v, (t.sendMsg f v).regions = t.regions := fun t f v =>
    (State.sendMsg_same (.refl 9216 t) rfl f v).regions.resolve_left (by decide)
  have herr : ∀ (t : State), (t.queueError q 3).regions = t.regions := fun t =>
    (State.queueError_same (.refl 8589934600 t) rfl q 3).regions.resolve_left (by decide)
  have hhost : ∀ (t : State) f a b, (t.hostWrite f a b).regions = t.regions := fun t f a b =>
    (State.hostWrite_same (.refl 512 t) rfl f a b).regions.resolve_left (by decide)
  unfold State.writeCpl
  cases hd : s.cplDue q with
  | none => exact hk
  | some c =>
    dsimp only
    have h1 : ∀ v x, RegionsKept s0 ((s.setQueue q v).wf (R.QM_QDONE_COUNT q) x) := fun _ _ => hk.then_regions rfl
    generalize hv : (s.setQueue q _).wf (R.QM_QDONE_COUNT q) _ = v
    have hv1 : RegionsKept s0 v := hv ▸ h1 _ _
    by_cases hg : (if (s.setQueue q { s.queue q with cmds := (s.queue q).cmds.drop 1 }).qLocal q = true then
        (s.setQueue q { s.queue q with cmds := (s.queue q).cmds.drop 1 }).cplFits q
          ((s.setQueue q { s.queue q with cmds := (s.queue q).cmds.drop 1 }).cplAddr q c.seq) else ok) = true
    · rw [if_pos hg]
      have h2 : ∀ a b, RegionsKept s0 (if v.qLocal q = true then v.hbmWrite (v.qWho q) a b else v.hostWrite (v.qFunc q) a b) :=
        fun a b => .ite (hv1.hbmWrite _ _ _) (hv1.then_regions (hhost _ _ _ _))
      exact .ite ((h2 _ _).then_regions (hmsg _ _ _)) (h2 _ _)
    · rw [if_neg hg]
      exact hv1.then_regions (herr _)

theorem RegionsKept.flushFuel {s0 : State} (q : Nat) : ∀ (n : Nat) {s : State}, RegionsKept s0 s → RegionsKept s0 (s.flushFuel q n)
  | 0, _, h => h
  | n + 1, s, h => by
    unfold State.flushFuel
    split
    · exact RegionsKept.flushFuel q n (h.writeCpl q true)
    · exact h

theorem RegionsKept.flushQueue {s0 s : State} (hk : RegionsKept s0 s) (q : Nat) : RegionsKept s0 (s.flushQueue q) := by
  unfold State.flushQueue
  split
  · exact hk.flushFuel q _
  · exact hk

theorem RegionsKept.releaseCmds {s0 s : State} (hk : RegionsKept s0 s) (c : Nat) : RegionsKept s0 (s.releaseCmds c) :=
  RegionsKept.foldl (fun t q h => (h.then_regions (t := t.setQueue q _) rfl).flushQueue q) _ hk

theorem sget_mapVal {α β : Type} (f : α → β) (k : Nat) : ∀ t : Store α, sget? (t.map fun e => (e.1, f e.2)) k = (sget? t k).map f
  | [] => rfl
  | (j, a) :: t => by
    simp only [List.map_cons, sget?]
    split
    · rfl
    · exact sget_mapVal f k t

/-- R285: the toggle of a region: its live copy turns if it is an own one. -/
def Region.toggled (c : Nat) (r : Region) : Region := if r.own c then { r with live := !r.live } else r

theorem toggleOwn_regions (s : State) (c : Nat) : (s.toggleOwn c).regions = s.regions.map fun e => (e.1, e.2.toggled c) :=
  List.map_congr_left fun e _ => by
    unfold Region.toggled
    split <;> rfl

theorem live_toggleOwn (s : State) (c i : Nat) : ((s.toggleOwn c).region i).live = ((s.region i).live != (s.region i).own c) := by
  unfold State.region sgetD
  rw [toggleOwn_regions, sget_mapVal]
  cases sget? s.regions i with
  | none => rfl
  | some r =>
    dsimp only [Option.map_some, Option.getD_some]
    unfold Region.toggled
    cases h : r.own c <;> simp

/-- Each live copy of an own region toggles and no other does, when what follows the toggle keeps them. -/
theorem RegionsKept.toggled {s t : State} {c : Nat} (hs : Store.Sorted s.regions) (h : RegionsKept (s.toggleOwn c) t) (i : Nat) :
    (t.region i).live = ((s.region i).live != (s.region i).own c) :=
  (h.live (by
    rw [toggleOwn_regions]
    exact sorted_map_snd _ (fun _ => rfl) hs) i).trans (live_toggleOwn s c i)

/-! ### COMMIT (R296) -/

/-- R296: what COMMIT N of a context leaves in the registers of its step. -/
def State.showCommit (s : State) (c n rb : Nat) : State :=
  ((((((((s.wf (R.CMT_CSTAT_STATE c) stBoundary).wf (R.CMT_CSTEP_C c) n).wf (R.CMT_CSTAT_RB c) rb).wf (R.CMT_CSTAT_FWRITTEN c) 0).wf
    (R.CMT_CSTAT_CHILD_READY c) 0).wf (R.CMT_CSTAT_SUBTREE c) 0).wf (R.CMT_CSTAT_REPLAYABLE c) 0).bump (R.CMT_CCOMMIT_COUNT c) 1)

/-- R296: the tokens of a commit and its held completions, before its registers show it. -/
def State.committing (s : State) (c : Nat) : State :=
  let n := s.stepOf c
  let s := ((((s.toggleOwn c).lossFold c).releaseCmds c).tellChildren c tkCommit n).tellMirrors c tkMirrorCommit n
  s.setCtx c { s.ctx c with aborted := none }

theorem commitStep_eq (s : State) (c : Nat) : s.commitStep c =
    if s.serving c then
      (((s.committing c).showCommit c (s.stepOf c) 0).srv c |>.held.map Taken.queue).eraseDups.foldl State.flushQueue
        (((s.committing c).showCommit c (s.stepOf c) 0).servCommit c)
    else (s.committing c).showCommit c (s.stepOf c) 1 := by
  unfold State.commitStep State.showCommit State.committing
  dsimp only
  cases s.serving c
  · simp only [Bool.false_eq_true, if_false]
  · simp only [if_true]

theorem rf_showCommit {s : State} (hs : Store.Sorted s.regs) (c n rb : Nat) :
    (s.showCommit c n rb).cstate c = stBoundary ∧ (s.showCommit c n rb).rf (R.CMT_CSTEP_C c) = n % 2 ^ 32 ∧
    (s.showCommit c n rb).rf (R.CMT_CSTAT_RB c) = rb % 2 ∧ (s.showCommit c n rb).rf (R.CMT_CSTAT_REPLAYABLE c) = 0 ∧
    (s.showCommit c n rb).rf (R.CMT_CSTAT_FWRITTEN c) = 0 := by
  have hn : A.CMT_CSTEP c ≠ A.CMT_CSTAT c := by
    rw [CMT_CSTEP_addr, CMT_CSTAT_addr]
    omega
  have hstat : A.CMT_CSTAT c ≠ A.CMT_CCOMMIT c := by
    unfold A.CMT_CSTAT A.CMT_CCOMMIT
    omega
  have hstep : A.CMT_CSTEP c ≠ A.CMT_CCOMMIT c := by
    unfold A.CMT_CSTEP A.CMT_CCOMMIT
    omega
  have fit : ∀ {l : Loc}, Nat.ble (l.lo + l.wid) 32 = true → l.Fits := Nat.le_of_ble_eq_true
  have h1 := sorted_wf hs (R.CMT_CSTAT_STATE c) stBoundary
  have h2 := sorted_wf h1 (R.CMT_CSTEP_C c) n
  have h3 := sorted_wf h2 (R.CMT_CSTAT_RB c) rb
  have h4 := sorted_wf h3 (R.CMT_CSTAT_FWRITTEN c) 0
  have h6 := sorted_wf (sorted_wf h4 (R.CMT_CSTAT_CHILD_READY c) 0) (R.CMT_CSTAT_SUBTREE c) 0
  have tail : ∀ {l : Loc} (t : State), l.addr ≠ A.CMT_CCOMMIT c → l.Clear (R.CMT_CSTAT_CHILD_READY c) → l.Clear (R.CMT_CSTAT_SUBTREE c) →
      l.Clear (R.CMT_CSTAT_REPLAYABLE c) → Spares l t ((((t.wf (R.CMT_CSTAT_CHILD_READY c) 0).wf (R.CMT_CSTAT_SUBTREE c) 0).wf
        (R.CMT_CSTAT_REPLAYABLE c) 0).bump (R.CMT_CCOMMIT_COUNT c) 1) := fun t hb k1 k2 k3 =>
    ((((Spares.refl _ t).wf (fit rfl) k1 0).wf (fit rfl) k2 0).wf (fit rfl) k3 0).bump hb 1
  unfold State.showCommit State.cstate
  refine ⟨?_, ?_, ?_, ?_, ?_⟩
  · refine ((tail _ hstat (Loc.clear_above rfl) (Loc.clear_above rfl) (Loc.clear_above rfl)).rf h4).trans ?_
    refine (rf_wf_bits h3 _ (fit rfl) (.inl (Nat.le_of_ble_eq_true rfl))).trans ?_
    refine (rf_wf_bits h2 _ (fit rfl) (.inl (Nat.le_of_ble_eq_true rfl))).trans ?_
    exact (rf_wf_addr _ _ hn.symm).trans (rf_wf_self hs (fit rfl) _)
  · refine ((tail _ hstep (.inl hn) (.inl hn) (.inl hn)).rf h4).trans ?_
    exact (rf_wf_addr _ _ hn).trans ((rf_wf_addr _ _ hn).trans (rf_wf_self h1 (fit rfl) n))
  · refine ((tail _ hstat (Loc.clear_above rfl) (Loc.clear_above rfl) (Loc.clear_above rfl)).rf h4).trans ?_
    exact (rf_wf_bits h3 _ (fit rfl) (.inl (Nat.le_of_ble_eq_true rfl))).trans (rf_wf_self h2 (fit rfl) rb)
  · exact (rf_bump_addr _ 1 hstat).trans (rf_wf_self h6 (fit rfl) 0)
  · exact ((tail _ hstat (Loc.clear_above rfl) (Loc.clear_above rfl) (Loc.clear_below rfl)).rf h4).trans (rf_wf_self h3 (fit rfl) 0)

theorem showCommit_same (s : State) (c n rb : Nat) : Same 8 s (s.showCommit c n rb) := by
  have hw : ∀ {u : State} (l : Loc) (v : Nat), Same 8 s u → Same 8 s (u.wf l v) := fun l v h => State.wf_same h rfl l v
  unfold State.showCommit State.bump
  exact hw _ _ (hw _ _ (hw _ _ (hw _ _ (hw _ _ (hw _ _ (hw _ _ (hw _ _ (.refl 8 s))))))))

theorem keeps_committing (s : State) (c : Nat) : Keeps s (s.committing c) := by
  unfold State.committing
  dsimp only
  exact State.setCtx_keeps (State.tellMirrors_keeps (State.tellChildren_keeps (State.releaseCmds_keeps (State.lossFold_keeps
    (State.toggleOwn_keeps (.refl s) c) c) c) c tkCommit _) c tkMirrorCommit _) c _

theorem regionsKept_committing (s : State) (c : Nat) : RegionsKept (s.toggleOwn c) (s.committing c) := by
  have h1 : ((s.toggleOwn c).lossFold c).regions = (s.toggleOwn c).regions :=
    (State.lossFold_same (.refl 536870920 (s.toggleOwn c)) rfl c).regions.resolve_left (by decide)
  have h2 : ∀ (t : State) n k, ((t.tellChildren c tkCommit n).tellMirrors c tkMirrorCommit k).regions = t.regions := fun t n k =>
    (State.tellMirrors_same (State.tellChildren_same (.refl 833223655432 t) rfl c _ _) rfl c _ _).regions.resolve_left (by decide)
  unfold State.committing
  dsimp only
  have h3 := ((RegionsKept.of_regions h1).releaseCmds c).then_regions (h2 _ (s.stepOf c) (s.stepOf c))
  generalize ((((s.toggleOwn c).lossFold c).releaseCmds c).tellChildren c tkCommit _).tellMirrors c tkMirrorCommit _ = t at h3 ⊢
  exact h3.then_regions rfl

theorem regionsKept_commitStep (s : State) (c : Nat) : RegionsKept (s.toggleOwn c) (s.commitStep c) := by
  have h : ∀ rb, RegionsKept (s.toggleOwn c) ((s.committing c).showCommit c (s.stepOf c) rb) := fun _ =>
    (regionsKept_committing s c).then_regions ((showCommit_same _ c _ _).regions.resolve_left (by decide))
  have hserv : ∀ t : State, (t.servCommit c).regions = t.regions := fun t =>
    (State.servCommit_same (.refl 3367254369288 t) rfl c).regions.resolve_left (by decide)
  rw [commitStep_eq]
  exact .ite (RegionsKept.foldl (fun _ q h => h.flushQueue q) _ ((h 0).then_regions (hserv _))) (h 1)

/-! ### Commands of the step, seen from the state before them -/

/-- What a command that finishes OK leaves of a register from the commit page on. -/
theorem rf_launched (s : State) (q : Nat) (w : CmdWord) (f : State → State) {l : Loc} (h : 0x70000 ≤ l.addr) :
    (s.launchCmd q w (thenOk q (s.qStart q) f)).rf l = (f (s.started q w)).rf l :=
  rf_congr (launchCmd_ok_reg s q w f (commit_ne_job h))

theorem region_launched (s : State) (q : Nat) (w : CmdWord) (f : State → State) (i : Nat) :
    (s.launchCmd q w (thenOk q (s.qStart q) f)).region i = (f (s.started q w)).region i :=
  region_of_regions ((launchCmd_ok_same (M := 68719476744) s q w f rfl).regions.resolve_left (by decide)) i

/-- R285: an effect that toggles the own regions and keeps the live copies then toggles them from the state before its command. -/
theorem live_launched {s : State} (hc : s.Canon) (q : Nat) (w : CmdWord) {f : State → State} {c : Nat}
    (h : RegionsKept ((s.started q w).toggleOwn c) (f (s.started q w))) (i : Nat) :
    ((s.launchCmd q w (thenOk q (s.qStart q) f)).region i).live = ((s.region i).live != (s.region i).own c) := by
  have hr : (s.started q w).region i = s.region i := region_of_regions rfl i
  rw [region_launched, h.toggled (canon_started hc q w).regions, hr]

theorem commitPage_low (c k : Nat) : 0x70000 ≤ Page.commitBase + 0x800 + 32 * c + k := by
  unfold Page.commitBase
  omega

theorem stepOf_started (s : State) (q : Nat) (w : CmdWord) {c : Nat} (hc : c < 64) : (s.started q w).stepOf c = s.stepOf c :=
  (lowRegs_started s q w).rf (l := R.CMT_CCUR_N c) (by
    show A.CMT_CCUR c < _
    unfold A.CMT_CCUR Page.commitBase
    omega)

theorem serving_started (s : State) (q : Nat) (w : CmdWord) {c : Nat} (hc : c < 64) : (s.started q w).serving c = s.serving c :=
  (lowRegs_started s q w).flag (l := R.SRV_CTRL_EN c) (by
    show A.SRV_CTRL c < _
    unfold A.SRV_CTRL Page.servingBase
    omega)

theorem committed_launched {s : State} (hc : s.Canon) (q : Nat) (w : CmdWord) {c : Nat} (hlt : c < 64) (hs : s.serving c = false) :
    let t := s.launchCmd q w (thenOk q (s.qStart q) fun s => s.commitStep c)
    t.cstate c = stBoundary ∧ t.rf (R.CMT_CSTEP_C c) = s.stepOf c ∧ t.rf (R.CMT_CSTAT_RB c) = 1 ∧
      t.rf (R.CMT_CSTAT_REPLAYABLE c) = 0 ∧ t.rf (R.CMT_CSTAT_FWRITTEN c) = 0 := by
  have hcan := canon_started hc q w
  have hend : (s.started q w).commitStep c = ((s.started q w).committing c).showCommit c (s.stepOf c) 1 := by
    rw [commitStep_eq, serving_started s q w hlt, hs, stepOf_started s q w hlt, if_neg (by decide)]
  obtain ⟨h1, h2, h3, h4, h5⟩ := rf_showCommit ((keeps_committing (s.started q w) c).canon hcan).regs c (s.stepOf c) 1
  rw [← hend] at h1 h2 h3 h4 h5
  have hrf := fun l => rf_launched s q w (fun s => s.commitStep c) (l := l)
  have hstat : ∀ l : Loc, l.addr = A.CMT_CSTAT c → 0x70000 ≤ l.addr := fun l hl => hl ▸ commitPage_low c 0
  exact ⟨(hrf _ (hstat _ rfl)).trans h1, ((hrf _ ((commitPage_low c 4).trans_eq (CMT_CSTEP_addr c).symm)).trans h2).trans (Nat.mod_eq_of_lt (rf_lt s (R.CMT_CCUR_N c))),
    (hrf _ (hstat _ rfl)).trans h3, (hrf _ (hstat _ rfl)).trans h4, (hrf _ (hstat _ rfl)).trans h5⟩

/-! ### ABORT (R297) -/

/-- R146, R297: a stream holds no launch. -/
structure StreamSt.Quiet (x : StreamSt) : Prop where
  cur : x.cur = none
  launches : x.launches = []

theorem mem_streamsOf_of_some {s : State} {c : Nat} {p : At} {x : StreamSt} (hc : p.c = c) (hn : p.n < 26) (hl : p.c < 64) (hk : p.k < 3)
    (h : sget? s.streams (strmKey p.f p.n p.c p.k) = some x) : p ∈ s.streamsOf c := by
  refine List.mem_filter.mpr ⟨List.mem_map.mpr ⟨_, mem_of_sget h, ?_⟩, by simpa using hc⟩
  obtain ⟨f, n, d, k⟩ := p
  simp only [strmKey, furKey, At.mk.injEq] at *
  omega

theorem sorted_idleStream {s : State} (h : Store.Sorted s.streams) (p : At) : Store.Sorted (s.idleStream p).streams := sorted_setSt h _ _

theorem quiet_idleStream {s : State} (h : Store.Sorted s.streams) {p r : At} (hr : p = r ∨ (s.st r).Quiet) : ((s.idleStream p).st r).Quiet := by
  have hst : ∀ (t : State) d, (t.endFence d).st r = t.st r := fun _ _ => rfl
  unfold State.idleStream
  rw [hst]
  obtain rfl | hq := hr
  · rw [st_setSt_self h]
    exact ⟨rfl, rfl⟩
  · obtain e | e := st_setSt_cases h p r { s.st p with
      state := .idle, wait := .none, cur := none, launches := [], buf := [], arrived := none, stepped := false,
      gotLaunch := false, loss := none, qsum := 0 }
    · rw [e]
      exact ⟨rfl, rfl⟩
    · rw [e]
      exact hq

theorem quiet_idleStreams : ∀ (l : List At) {s : State}, Store.Sorted s.streams → ∀ {r : At}, r ∈ l ∨ (s.st r).Quiet →
    ((l.foldl State.idleStream s).st r).Quiet
  | [], _, _, _, h => h.elim (fun e => by cases e) id
  | p :: l, s, hs, r, h => by
    refine quiet_idleStreams l (sorted_idleStream hs p) ?_
    obtain h | h := h
    · obtain rfl | h := List.mem_cons.mp h
      · exact .inr (quiet_idleStream hs (.inl rfl))
      · exact .inl h
    · exact .inr (quiet_idleStream hs (.inr h))

theorem quiet_stopWork {s : State} (hs : Store.Sorted s.streams) {c : Nat} {p : At} (hc : p.c = c) (hn : p.n < 26) (hl : p.c < 64)
    (hk : p.k < 3) : ((s.stopWork c).st p).Quiet ∧ ∀ r ∈ (s.stopWork c).seqRuns, r.ctx ≠ c := by
  have hrest : ∀ t : State, Same 4204321154058 t ((List.range 4).foldl (fun s f => ((s.feedDma f).showOps f).nextWaiting f) t) := fun t =>
    foldl_same (fun _ f h => State.nextWaiting_same (State.showOps_same (State.feedDma_same h rfl f) rfl f) rfl f) (.refl _ t)
  have hq : (((s.streamsOf c).foldl State.idleStream s).st p).Quiet := by
    refine quiet_idleStreams _ hs ?_
    cases hg : sget? s.streams (strmKey p.f p.n p.c p.k) with
    | some x => exact .inl (mem_streamsOf_of_some hc hn hl hk hg)
    | none =>
      right
      unfold State.st State.strm sgetD
      rw [hg]
      exact ⟨rfl, rfl⟩
  unfold State.stopWork
  generalize (s.streamsOf c).foldl State.idleStream s = u at hq ⊢
  dsimp only
  refine ⟨?_, ?_⟩
  · rw [st_of_streams ((hrest _).streams.resolve_left (by decide))]
    exact hq
  · rw [(hrest _).seqRuns.resolve_left (by decide)]
    intro r hr
    have := (List.mem_filter.mp hr).2
    simpa using this

/-- The field is in the commit page's part of the contexts. -/
def Loc.InCommit (l : Loc) : Prop := 0x70800 ≤ l.addr ∧ l.addr < 0x80000

theorem inCommit {c k : Nat} (hc : c < 64) (hk : k < 0x20) {l : Loc} (hl : l.addr = Page.commitBase + 0x800 + 32 * c + k) : l.InCommit := by
  unfold Loc.InCommit
  rw [hl]
  unfold Page.commitBase
  omega

theorem Loc.InCommit.noNet {l : Loc} (h : l.InCommit) : l.NoNet := by
  unfold Loc.InCommit at h
  unfold Loc.NoNet
  omega

theorem Loc.InCommit.ne_serving {l : Loc} (h : l.InCommit) (c k : Nat) : l.addr ≠ Page.servingBase c + k := by
  unfold Loc.InCommit at h
  unfold Page.servingBase
  omega

theorem Loc.InCommit.ne_event {l : Loc} (h : l.InCommit) {c : Nat} (hc : c < 64) : l.addr ≠ A.HIF_CEVTS c := by
  unfold Loc.InCommit at h
  unfold A.HIF_CEVTS Page.hostifBase
  omega

theorem Spares.tellChildren {l : Loc} {s0 s : State} (hk : Spares l s0 s) (h : l.NoNet) (c kind n : Nat) :
    Spares l s0 (s.tellChildren c kind n) := by
  unfold State.tellChildren
  split
  · exact hk
  · exact Spares.foldl (fun _ _ h1 => h1.sendPkt h _ _) _ hk

theorem Spares.tellMirrors {l : Loc} {s0 s : State} (hk : Spares l s0 s) (h : l.NoNet) (c kind n : Nat) :
    Spares l s0 (s.tellMirrors c kind n) := by
  unfold State.tellMirrors
  exact Spares.foldl (fun _ _ h1 => h1.sendPkt h _ _) _ hk

theorem Spares.showServ {l : Loc} {s0 s : State} (hk : Spares l s0 s) (h : l.InCommit) (c : Nat) : Spares l s0 (s.showServ c) := by
  have hne : ∀ f, l.addr ≠ A.SRV_POOL_FREE c f := fun f => by
    unfold A.SRV_POOL_FREE
    rw [Nat.add_assoc]
    exact h.ne_serving c _
  have hf : Spares l s0 ((List.range 4).foldl (fun t f => t.wf (R.SRV_POOL_FREE_FREE c f) (t.freePlots c (s.srv c).seqs f)) s) :=
    Spares.foldl (fun _ f h1 => h1.wf_far (m := R.SRV_POOL_FREE_FREE c f) (hne f) _) _ hk
  unfold State.showServ
  dsimp only
  exact (hf.wf_far (m := R.SRV_LIVE_LIVE c) (h.ne_serving c _) _).wf_far (m := R.SRV_LIVE_QUEUED c) (h.ne_serving c _) _

theorem Spares.enterSwap {l : Loc} {s0 s : State} (hk : Spares l s0 s) (h : l.InCommit) {c : Nat} (hc : c < 64) (st : Nat) :
    Spares l s0 (s.enterSwap c st) := by
  have h1 : ∀ x, Spares l s0 ((s.setSrv c x).wf (R.SRV_SWAP_STATE c) st) := fun x =>
    (hk.then_regs (t := s.setSrv c x) rfl).wf_far (m := R.SRV_SWAP_STATE c) (h.ne_serving c _) st
  have h2 : ∀ t e, Spares l s0 t → Spares l s0 (({ t with engines := e } : State).ctxEvent c 2) := fun t e h3 =>
    (h3.then_regs (t := { t with engines := e }) rfl).ctxEvent (h.ne_event hc) 2
  unfold State.enterSwap
  dsimp only
  split
  · exact h2 _ _ (h1 _)
  · exact h1 _

theorem Spares.swapAtBoundary {l : Loc} {s0 s : State} (hk : Spares l s0 s) (h : l.InCommit) {c : Nat} (hc : c < 64) :
    Spares l s0 (s.swapAtBoundary c) := by
  unfold State.swapAtBoundary
  exact (hk.enterSwap h hc _).ite hk

theorem Spares.servAbort {l : Loc} {s0 s : State} (hk : Spares l s0 s) (h : l.InCommit) {c : Nat} (hc : c < 64) :
    Spares l s0 (s.servAbort c) := by
  unfold State.servAbort
  dsimp only
  split
  · exact ((hk.then_regs (t := s.setSrv c _) rfl).showServ h c).swapAtBoundary h hc
  · exact (hk.showServ h c).swapAtBoundary h hc

/-- R297: what an abort of step `n` leaves in the context and its registers. -/
def State.showAbort (s : State) (c n : Nat) : State :=
  (((s.setCtx c { s.ctx c with aborted := some n }).wf (R.CMT_CSTAT_STATE c) stBoundary).wf (R.CMT_CSTAT_REPLAYABLE c) 1).bump
    (R.CMT_CABORT_COUNT c) 1

theorem showAbort_same (s : State) (c n : Nat) : Same 536870920 s (s.showAbort c n) :=
  State.wf_same (State.wf_same (State.wf_same (State.setCtx_same (.refl 536870920 s) rfl c _) rfl _ _) rfl _ _) rfl _ _

theorem abortStep_eq (s : State) (rings : Rings) (c : Nat) (tree : Bool) : s.abortStep rings c tree =
    let u := (s.abandonStep rings c).showAbort c (s.stepOf c)
    let v := if tree then u.tellChildren c tkAbort (s.stepOf c) else u
    if s.serving c then v.servAbort c else v := rfl

theorem Spares.abortTail {l : Loc} {s : State} (h : l.InCommit) {c : Nat} (hc : c < 64) (tree serves : Bool) (n : Nat) :
    Spares l s (if serves then (if tree then s.tellChildren c tkAbort n else s).servAbort c
      else if tree then s.tellChildren c tkAbort n else s) := by
  have h1 : Spares l s (if tree then s.tellChildren c tkAbort n else s) := ((Spares.refl l s).tellChildren h.noNet c _ _).ite (.refl l s)
  exact (h1.servAbort h hc).ite h1

/-- R297: what an abort leaves: its context is at BOUNDARY with the step replayable, and no run or stream of it goes on. -/
structure State.Aborted (s t : State) (c : Nat) : Prop where
  state : t.cstate c = stBoundary
  replayable : t.rf (R.CMT_CSTAT_REPLAYABLE c) = 1
  aborted : (t.ctx c).aborted = some (s.stepOf c)
  runs : ∀ r ∈ t.seqRuns, r.ctx ≠ c
  quiet : ∀ (f : Fin 4) (n : Fin 26) (k : Fin 3), (t.strm f n c k).Quiet

/-- What an abandoned step's work does not touch once the work has stopped. -/
theorem abandonStep_tail (s : State) (rings : Rings) (c : Nat) : Same 1043147105802 (s.stopWork c) (s.abandonStep rings c) := by
  have hw : ∀ {u : State} (l : Loc) (v : Nat), Same 1043147105802 (s.stopWork c) u → Same 1043147105802 (s.stopWork c) (u.wf l v) :=
    fun l v h => State.wf_same h rfl l v
  unfold State.abandonStep
  exact State.abortCmds_same (hw _ _ (hw _ _ (hw _ _ (hw _ _ (State.setCtx_same (State.clearCovers_same
    (State.undefOnChip_same (.refl _ (s.stopWork c)) rfl c) rfl c) rfl c _))))) rfl rings c

theorem abortTail_same (s : State) (c n : Nat) (tree serves : Bool) : Same 4131758547976 s
    (if serves then (if tree then s.tellChildren c tkAbort n else s).servAbort c else if tree then s.tellChildren c tkAbort n else s) := by
  have h1 : Same 4131758547976 s (if tree then s.tellChildren c tkAbort n else s) :=
    ite_same (State.tellChildren_same (.refl _ s) rfl c _ _) (.refl _ s)
  exact ite_same (State.servAbort_same h1 rfl c) h1

theorem rf_showAbort {s : State} (hs : Store.Sorted s.regs) (c n : Nat) :
    (s.showAbort c n).cstate c = stBoundary ∧ (s.showAbort c n).rf (R.CMT_CSTAT_REPLAYABLE c) = 1 := by
  have hstat : A.CMT_CSTAT c ≠ A.CMT_CABORT c := by
    unfold A.CMT_CSTAT A.CMT_CABORT
    omega
  have h0 : Store.Sorted (s.setCtx c { s.ctx c with aborted := some n }).regs := hs
  have h1 := sorted_wf h0 (R.CMT_CSTAT_STATE c) stBoundary
  unfold State.showAbort State.cstate
  refine ⟨(rf_bump_addr _ 1 hstat).trans ?_, (rf_bump_addr _ 1 hstat).trans (rf_wf_self h1 (Nat.le_of_ble_eq_true rfl) 1)⟩
  exact (rf_wf_bits h1 _ (Nat.le_of_ble_eq_true rfl) (.inl (Nat.le_of_ble_eq_true rfl))).trans
    (rf_wf_self h0 (Nat.le_of_ble_eq_true rfl) _)

theorem ctx_showAbort {s : State} (hs : Store.Sorted s.ctxs) (c n : Nat) : ((s.showAbort c n).ctx c).aborted = some n := by
  have h : (s.showAbort c n).ctxs = (s.setCtx c { s.ctx c with aborted := some n }).ctxs :=
    (State.wf_same (State.wf_same (State.wf_same (.refl 8 (s.setCtx c { s.ctx c with aborted := some n })) rfl _ _) rfl _ _) rfl _
      _).ctxs.resolve_left (by decide)
  rw [ctx_of_ctxs h, ctx_setCtx_self hs]

theorem aborted_abortStep {s : State} (hc : s.Canon) (rings : Rings) {c : Nat} (hlt : c < 64) (tree : Bool) :
    s.Aborted (s.abortStep rings c tree) c := by
  have hcan := (State.abandonStep_keeps (.refl s) rings c).canon hc
  obtain ⟨hst, hrep⟩ := rf_showAbort hcan.regs c (s.stepOf c)
  have habo := ctx_showAbort hcan.ctxs c (s.stepOf c)
  have hshow := showAbort_same (s.abandonStep rings c) c (s.stepOf c)
  have hsort : Store.Sorted ((s.abandonStep rings c).showAbort c (s.stepOf c)).regs :=
    sorted_wf (sorted_wf (sorted_wf hcan.regs _ _) _ _) _ _
  have htail := abandonStep_tail s rings c
  have hquiet := fun (f : Fin 4) (n : Fin 26) (k : Fin 3) => quiet_stopWork hc.streams (p := ⟨f, n, c, k⟩) rfl n.isLt hlt k.isLt
  rw [abortStep_eq]
  dsimp only
  generalize (s.abandonStep rings c).showAbort c (s.stepOf c) = u at *
  have hend := abortTail_same u c (s.stepOf c) tree (s.serving c)
  have hsp := fun {l : Loc} (h : l.InCommit) => (Spares.abortTail (s := u) h hlt tree (s.serving c) (s.stepOf c)).rf hsort
  generalize (if s.serving c = true then _ else _ : State) = t at *
  have hin : ∀ {l : Loc}, l.addr = A.CMT_CSTAT c → l.InCommit := fun hl => inCommit hlt (k := 0) (by decide) hl
  have hstr : t.streams = (s.stopWork c).streams := (hend.streams.resolve_left (by decide)).trans
    ((hshow.streams.resolve_left (by decide)).trans (htail.streams.resolve_left (by decide)))
  have hruns : t.seqRuns = (s.stopWork c).seqRuns := (hend.seqRuns.resolve_left (by decide)).trans
    ((hshow.seqRuns.resolve_left (by decide)).trans (htail.seqRuns.resolve_left (by decide)))
  refine ⟨(hsp (hin rfl)).trans hst, (hsp (hin rfl)).trans hrep, ?_, ?_, fun f n k => ?_⟩
  · rw [ctx_of_ctxs (hend.ctxs.resolve_left (by decide)), habo]
  · rw [hruns]
    exact (hquiet 0 0 0).2
  · have h := (hquiet f n k).1
    rw [← st_of_streams hstr] at h
    exact h

/-! ### ROLLBACK and ADOPT (R298, R299) -/

theorem ne_cstep_cstat (c : Nat) : A.CMT_CSTEP c ≠ A.CMT_CSTAT c := by
  rw [CMT_CSTEP_addr, CMT_CSTAT_addr]
  omega

theorem rollbackStep_ends {s : State} (hc : s.Canon) (c : Nat) :
    (s.rollbackStep c).rf (R.CMT_CSTAT_RB c) = 0 ∧
    (s.rollbackStep c).rf (R.CMT_CSTEP_C c) = (s.rf (R.CMT_CSTEP_C c) + 2 ^ 32 - 1) % 2 ^ 32 ∧
    RegionsKept (s.toggleOwn c) (s.rollbackStep c) := by
  have hcan := (State.tellMirrors_keeps (State.lossUnfold_keeps (State.toggleOwn_keeps (.refl s) c) c) c tkMirrorRollback
    (s.rf (R.CMT_CSTEP_C c))).canon hc
  have hreg : (((s.toggleOwn c).lossUnfold c).tellMirrors c tkMirrorRollback (s.rf (R.CMT_CSTEP_C c))).regions = (s.toggleOwn c).regions :=
    (State.tellMirrors_same (State.lossUnfold_same (.refl 833223655432 (s.toggleOwn c)) rfl c) rfl c _ _).regions.resolve_left (by decide)
  unfold State.rollbackStep
  dsimp only
  generalize ((s.toggleOwn c).lossUnfold c).tellMirrors c tkMirrorRollback (s.rf (R.CMT_CSTEP_C c)) = u at *
  have h1 := sorted_wf hcan.regs (R.CMT_CSTEP_C c) (s.rf (R.CMT_CSTEP_C c) + 2 ^ 32 - 1)
  exact ⟨rf_wf_self h1 (Nat.le_of_ble_eq_true rfl) 0,
    (rf_wf_addr _ _ (ne_cstep_cstat c)).trans (rf_wf_self hcan.regs (Nat.le_of_ble_eq_true rfl) _),
    (RegionsKept.of_regions hreg).then_regions rfl⟩

theorem adoptStep_ends {s : State} (hc : s.Canon) {c : Nat} (hlt : c < 64) (n : Nat) :
    (s.adoptStep c n).cstate c = stBoundary ∧ (s.adoptStep c n).rf (R.CMT_CSTEP_C c) = n % 2 ^ 32 ∧
    (s.adoptStep c n).rf (R.CMT_CSTAT_RB c) = 0 ∧ RegionsKept (s.toggleOwn c) (s.adoptStep c n) := by
  have h0 := ((State.toggleOwn_keeps (.refl s) c).canon hc).regs
  have h1 := sorted_wf h0 (R.CMT_CSTAT_STATE c) stBoundary
  have h2 := sorted_wf h1 (R.CMT_CSTEP_C c) n
  have hne := ne_cstep_cstat c
  have hst : ((((s.toggleOwn c).wf (R.CMT_CSTAT_STATE c) stBoundary).wf (R.CMT_CSTEP_C c) n).wf (R.CMT_CSTAT_RB c) 0).cstate c = stBoundary :=
    (rf_wf_bits h2 _ (Nat.le_of_ble_eq_true rfl) (.inl (Nat.le_of_ble_eq_true rfl))).trans
      ((rf_wf_addr _ _ hne.symm).trans (rf_wf_self h0 (Nat.le_of_ble_eq_true rfl) _))
  have hstep := (rf_wf_addr ((((s.toggleOwn c).wf (R.CMT_CSTAT_STATE c) stBoundary).wf (R.CMT_CSTEP_C c) n)) (l := R.CMT_CSTAT_RB c)
    (m := R.CMT_CSTEP_C c) 0 hne).trans (rf_wf_self h1 (Nat.le_of_ble_eq_true rfl) n)
  have hrb := rf_wf_self h2 (l := R.CMT_CSTAT_RB c) (Nat.le_of_ble_eq_true rfl) 0
  have hk : RegionsKept (s.toggleOwn c)
      ((((s.toggleOwn c).wf (R.CMT_CSTAT_STATE c) stBoundary).wf (R.CMT_CSTEP_C c) n).wf (R.CMT_CSTAT_RB c) 0) := .of_regions rfl
  have hsort := sorted_wf h2 (R.CMT_CSTAT_RB c) 0
  unfold State.adoptStep
  dsimp only
  generalize (((s.toggleOwn c).wf (R.CMT_CSTAT_STATE c) stBoundary).wf (R.CMT_CSTEP_C c) n).wf (R.CMT_CSTAT_RB c) 0 = u at *
  have hsp := fun {l : Loc} (h : l.InCommit) =>
    (Spares.ite (c := u.serving c = true) ((Spares.refl l u).swapAtBoundary h hlt) (.refl l u)).rf hsort
  have hreg : (u.swapAtBoundary c).regions = u.regions :=
    (State.swapAtBoundary_same (.refl 3298534892552 u) rfl c).regions.resolve_left (by decide)
  have hin : ∀ {l : Loc}, l.addr = A.CMT_CSTAT c → l.InCommit := fun hl => inCommit hlt (k := 0) (by decide) hl
  exact ⟨(hsp (hin rfl)).trans hst, (hsp (inCommit hlt (k := 4) (by decide) (CMT_CSTEP_addr c))).trans hstep, (hsp (hin rfl)).trans hrb,
    .ite (hk.then_regions hreg) hk⟩

/-! ### STEP_READY (R295, R303) -/

theorem ctxEvent_raised {s : State} (hs : Store.Sorted s.regs) (c : Nat) {bit : Nat} (hb : bit < 4) :
    ((s.ctxEvent c bit).rf (R.HIF_CEVTS_CAUSE c)).testBit bit = true := by
  have hmsg : ∀ (t : State) f v, (t.sendMsg f v).regs = t.regs := fun t f v =>
    (State.sendMsg_same (.refl 9216 t) rfl f v).regs.resolve_left (by decide)
  unfold State.ctxEvent
  dsimp only
  split
  · assumption
  · have hw : ((s.wf (R.HIF_CEVTS_CAUSE c) (s.rf (R.HIF_CEVTS_CAUSE c) ||| 2 ^ bit)).rf (R.HIF_CEVTS_CAUSE c)).testBit bit = true := by
      rw [rf_wf_self hs (Nat.le_of_ble_eq_true rfl)]
      show ((s.rf (R.HIF_CEVTS_CAUSE c) ||| 2 ^ bit) % 2 ^ 4).testBit bit = true
      rw [Nat.testBit_mod_two_pow, Nat.testBit_or, Nat.testBit_two_pow_self]
      simp [hb]
    split
    · rw [rf_of_regs (hmsg _ _ _)]
      exact hw
    · exact hw

theorem subtreeReady_alone {s : State} {c : Nat} (h : (s.ctx c).group = none) : s.subtreeReady c = s := by
  unfold State.subtreeReady
  rw [h]

theorem stepReady_alone {s : State} (hc : s.Canon) {c : Nat} (hlt : c < 64) (h : (s.ctx c).group = none) :
    let t := ((s.wf (R.CMT_CSTAT_STATE c) stReady).ctxEvent c 0).subtreeReady c
    s.SameBut t [.regs, .msgs, .msixPend] ∧ t.cstate c = stReady ∧ (t.rf (R.HIF_CEVTS_CAUSE c)).testBit 0 = true := by
  have hs := sorted_wf hc.regs (R.CMT_CSTAT_STATE c) stReady
  have hst : (s.wf (R.CMT_CSTAT_STATE c) stReady).cstate c = stReady := rf_wf_self hc.regs (Nat.le_of_ble_eq_true rfl) _
  have hsame := State.ctxEvent_same (State.wf_same (.refl 9224 s) rfl (R.CMT_CSTAT_STATE c) stReady) rfl c 0
  have hraised := ctxEvent_raised hs c (bit := 0) (by decide)
  have hkept := ((Spares.refl (R.CMT_CSTAT_STATE c) (s.wf (R.CMT_CSTAT_STATE c) stReady)).ctxEvent
    ((inCommit hlt (k := 0) (l := R.CMT_CSTAT_STATE c) (by decide) rfl).ne_event hlt) 0).rf hs
  dsimp only
  rw [subtreeReady_alone (by rw [ctx_of_ctxs (hsame.ctxs.resolve_left (by decide)) c, h])]
  exact ⟨Same.but hsame rfl, hkept.trans hst, hraised⟩

/-- R294: the argument checks of the step's commands pass. -/
theorem stepArgs_none {w : CmdWord} (hz : lowest (reservedBytes w 36 28) = none) (k : Begun) : stepArgs w k = k := argsThen_none hz k

/-- Settles O30. -/
theorem stepsEnd : Obligations.StepsEnd := by
  refine ⟨fun q s w c hc hcc hz => ⟨fun hr hst hn => ?_, fun rings hr hst hn => ?_, fun hr hst hn hrb hs => ?_, fun hr hst hu => ?_⟩,
    fun c rings s hc hready => ⟨_, if_pos hready, rfl, stepReady_alone hc c.isLt⟩⟩
  all_goals
    have hlt : c < 64 := hcc ▸ ctx_qCtx_lt s q
    have hcan := canon_started hc q.val w
    subst hcc
  · refine ⟨_, congrArg Host.Outcome.next (runCmd_run hr ((stepArgs_none hz _).trans (if_pos ⟨hst, hn⟩))), ran_launchCmd hc hr _, fun i => ?_,
      fun hs => committed_launched hc q w hlt hs⟩
    exact live_launched (f := fun t => t.commitStep (s.qCtx q)) hc q w (regionsKept_commitStep _ _) i
  · refine ⟨_, congrArg Host.Outcome.next (runCmd_run hr ((stepArgs_none hz _).trans (if_pos ⟨hst, hn⟩))), ran_launchCmd hc hr _, ?_⟩
    have hsame := launchCmd_ok_same (M := 68719476744) s q w (fun t => t.abortStep rings (s.qCtx q) (CmdWord.tree w)) rfl
    obtain ⟨h1, h2, h3, h4, h5⟩ := aborted_abortStep hcan rings hlt (CmdWord.tree w)
    have hstat : 0x70000 ≤ A.CMT_CSTAT (s.qCtx q) := commitPage_low (s.qCtx q) 0
    refine ⟨(rf_launched s q w _ hstat).trans h1, (rf_launched s q w _ hstat).trans h2, ?_, ?_, fun f n k => ?_⟩
    · rw [ctx_of_ctxs (hsame.ctxs.resolve_left (by decide)), h3, stepOf_started s q w hlt]
    · rw [hsame.seqRuns.resolve_left (by decide)]
      exact h4
    · rw [strm_of_streams (hsame.streams.resolve_left (by decide))]
      exact ⟨(h5 f n k).cur, (h5 f n k).launches⟩
  · have hif : s.cstate (s.qCtx q) = stBoundary ∧ s.rf (R.CMT_CSTEP_C (s.qCtx q)) = cmdAt w 32 4 ∧ s.flag (R.CMT_CSTAT_RB (s.qCtx q)) ∧
        !s.serving (s.qCtx q) := ⟨hst, hn, hrb, by rw [hs]; rfl⟩
    refine ⟨_, congrArg Host.Outcome.next (runCmd_run hr ((stepArgs_none hz _).trans (if_pos hif))), ran_launchCmd hc hr _, ?_⟩
    obtain ⟨h1, h2, h3⟩ := rollbackStep_ends hcan (s.qCtx q)
    have hstep : (s.started q w).rf (R.CMT_CSTEP_C (s.qCtx q)) = cmdAt w 32 4 := by
      refine ((lowRegs_started s q w).rf ?_).trans hn
      show A.CMT_CSTEP _ < _
      unfold A.CMT_CSTEP Page.commitBase
      omega
    rw [hstep] at h2
    have hrf := fun l => rf_launched s q w (fun t => t.rollbackStep (s.qCtx q)) (l := l)
    exact ⟨(hrf (R.CMT_CSTAT_RB _) (commitPage_low _ 0)).trans h1,
      (hrf (R.CMT_CSTEP_C _) ((commitPage_low _ 4).trans_eq (CMT_CSTEP_addr _).symm)).trans h2, live_launched (f := fun t => t.rollbackStep (s.qCtx q)) hc q w h3⟩
  · refine ⟨_, congrArg Host.Outcome.next (runCmd_run hr ((stepArgs_none hz _).trans (if_pos ⟨hst, hu⟩))), ran_launchCmd hc hr _, ?_⟩
    obtain ⟨h1, h2, h3, h4⟩ := adoptStep_ends hcan hlt (cmdAt w 32 4)
    have hn : cmdAt w 32 4 % 2 ^ 32 = cmdAt w 32 4 := Nat.mod_eq_of_lt (cmdAt_lt w 32 4)
    have hrf := fun l => rf_launched s q w (fun t => t.adoptStep (s.qCtx q) (cmdAt w 32 4)) (l := l)
    exact ⟨(hrf (R.CMT_CSTAT_STATE _) (commitPage_low _ 0)).trans h1,
      ((hrf (R.CMT_CSTEP_C _) ((commitPage_low _ 4).trans_eq (CMT_CSTEP_addr _).symm)).trans h2).trans hn,
      (hrf (R.CMT_CSTAT_RB _) (commitPage_low _ 0)).trans h3, live_launched (f := fun t => t.adoptStep (s.qCtx q) (cmdAt w 32 4)) hc q w h4⟩

end Sys2Proof.Machine


/-! JOIN and LEAVE, and the entry barrier (R325 to R327, R333, R334, R336): O31. -/

namespace Sys2Proof.Machine

/-- The command that its own body stops ends there. -/
theorem runCmd_stops {s : State} {q opc : Nat} {w : CmdWord} (h : s.MayRun q opc w) {body : CmdWord → Nat → State → Begun} {st d : Nat}
    (hb : body w (s.qStart q) s = .stop st d) (hst : st ≠ invalid) : runCmd q opc body s = s.stopCmd q w st d := by
  have hinv : (Begun.stop st d).isInvalid = false := beq_eq_false_iff_ne.mpr hst
  unfold runCmd
  rw [h.head]
  dsimp only
  have h1 : (!(s.queue q).go || CmdWord.opc w != opc || !s.mayStart q) = false := by simp [h.go, h.opc, h.moves]
  rw [h1, h.starts, hb, hinv]
  simp

theorem servingOnly_pos {s : State} {c : Nat} (h : s.serving c = true) (k : Begun) : s.servingOnly c k = k := if_pos h

/-! ### The serving record -/

theorem srv_of_serv {s t : State} (h : t.serv = s.serv) (c : Nat) : t.srv c = s.srv c := by
  unfold State.srv
  rw [h]

theorem srv_setSrv_self {s : State} (h : Store.Sorted s.serv) (c : Nat) (x : ServSt) : (s.setSrv c x).srv c = x := sgetD_sputD_self h _ _ _

theorem srv_launched (s : State) (q : Nat) (w : CmdWord) (f : State → State) (c : Nat) :
    (s.launchCmd q w (thenOk q (s.qStart q) f)).srv c = (f (s.started q w)).srv c :=
  srv_of_serv ((launchCmd_ok_same (M := 68719476744) s q w f rfl).serv.resolve_left (by decide)) c

/-- A field of a serving context's page. -/
def Loc.InServing (l : Loc) : Prop := 0x80000 ≤ l.addr ∧ l.addr < 0xC0000

theorem inServing {c k : Nat} (hc : c < 64) (hk : k < 0x1000) {l : Loc} (hl : l.addr = Page.servingBase c + k) : l.InServing := by
  unfold Loc.InServing
  rw [hl]
  unfold Page.servingBase
  omega

theorem Loc.InServing.ne_event {l : Loc} (h : l.InServing) {c : Nat} (hc : c < 64) : l.addr ≠ A.HIF_CEVTS c := by
  unfold Loc.InServing at h
  unfold A.HIF_CEVTS Page.hostifBase
  omega

theorem Loc.InServing.launched {l : Loc} (h : l.InServing) (s : State) (q : Nat) (w : CmdWord) (f : State → State) :
    (s.launchCmd q w (thenOk q (s.qStart q) f)).rf l = (f (s.started q w)).rf l :=
  rf_launched s q w f (Nat.le_trans (by decide) h.1)

theorem Loc.InServing.started {l : Loc} (h : l.InServing) (s : State) (q : Nat) (w : CmdWord) : (s.started q w).rf l = s.rf l :=
  (lowRegs_started s q w).rf (Nat.lt_of_lt_of_le h.2 (by decide))

/-! ### The closed barrier (R333, R336) -/

/-- R333: the record of a serving context whose barrier enters swap state `st` at time `now`. -/
def ServSt.swapped (x : ServSt) (now st : Nat) : ServSt :=
  { x with closedAt := if st = swPending then none else some (x.closedAt.getD now) }

theorem srv_enterSwap {s : State} (h : Store.Sorted s.serv) (c st : Nat) : (s.enterSwap c st).srv c = (s.srv c).swapped s.now st := by
  have hself := srv_setSrv_self h c ((s.srv c).swapped s.now st)
  have hw : ∀ (t : State), (t.wf (R.SRV_SWAP_STATE c) st).srv c = t.srv c := fun _ => rfl
  have he : ∀ (t : State) e, (({ t with engines := e } : State).ctxEvent c 2).srv c = t.srv c := fun t e =>
    srv_of_serv ((State.ctxEvent_same (.refl 9224 { t with engines := e }) rfl c 2).serv.resolve_left (by decide)) c
  unfold ServSt.swapped at *
  unfold State.enterSwap
  dsimp only
  split
  · rw [he, hw, hself]
  · rw [hw, hself]

theorem Spares.enterSwapServing {l : Loc} {s0 s : State} (hk : Spares l s0 s) (h : l.InServing) {c : Nat} (hc : c < 64) {st : Nat}
    (hl : l.Clear (R.SRV_SWAP_STATE c)) : Spares l s0 (s.enterSwap c st) := by
  have h1 : ∀ x, Spares l s0 ((s.setSrv c x).wf (R.SRV_SWAP_STATE c) st) := fun x =>
    (hk.then_regs (t := s.setSrv c x) rfl).wf (Nat.le_of_ble_eq_true rfl) hl st
  have h2 : ∀ t e, Spares l s0 t → Spares l s0 (({ t with engines := e } : State).ctxEvent c 2) := fun t e h3 =>
    (h3.then_regs (t := { t with engines := e }) rfl).ctxEvent (h.ne_event hc) 2
  unfold State.enterSwap
  dsimp only
  split
  · exact h2 _ _ (h1 _)
  · exact h1 _

theorem swap_enterSwap {s : State} (hs : Store.Sorted s.regs) {c : Nat} (hc : c < 64) {st : Nat} (hst : st < 4) :
    (s.enterSwap c st).swap c = st := by
  have hw : ∀ x, ((s.setSrv c x).wf (R.SRV_SWAP_STATE c) st).swap c = st := fun x =>
    (rf_wf_self (s := s.setSrv c x) hs (l := R.SRV_SWAP_STATE c) (Nat.le_of_ble_eq_true rfl) st).trans (Nat.mod_eq_of_lt hst)
  have hso : ∀ x, Store.Sorted ((s.setSrv c x).wf (R.SRV_SWAP_STATE c) st).regs := fun x => sorted_wf (s := s.setSrv c x) hs _ _
  have hin : (R.SRV_SWAP_STATE c).InServing := inServing hc (k := 0x178) (by decide) rfl
  have he : ∀ (t : State) e, Store.Sorted t.regs → t.swap c = st → (({ t with engines := e } : State).ctxEvent c 2).swap c = st := fun t e h1 h2 =>
    (((Spares.refl (R.SRV_SWAP_STATE c) t).then_regs (t := { t with engines := e }) rfl).ctxEvent (hin.ne_event hc) 2 |>.rf h1).trans h2
  unfold State.enterSwap
  dsimp only
  split
  · exact he _ _ (hso _) (hw _)
  · exact hw _

/-- What the barrier's move at a boundary leaves of the record. -/
theorem srv_swapAtBoundary {s : State} (h : Store.Sorted s.serv) (c : Nat) :
    ((s.swapAtBoundary c).srv c).seqs = (s.srv c).seqs ∧ ((s.swapAtBoundary c).srv c).adm = (s.srv c).adm := by
  unfold State.swapAtBoundary
  split
  · rw [srv_enterSwap h]
    exact ⟨rfl, rfl⟩
  · exact ⟨rfl, rfl⟩

/-! ### LEAVE (R326, R327) -/

theorem slotOf_isSome (seqs : Store SeqSlot) (id : Nat) : (slotOf seqs id).isSome = seqs.any fun e => e.2.seqid == id := by
  unfold slotOf
  rw [Option.isSome_map, Bool.eq_iff_iff]
  simp

theorem srv_leaveNow {s : State} (h : Store.Sorted s.serv) (c id : Nat) :
    (∀ k, slotOf (s.srv c).seqs id = some k →
      ((s.leaveNow c id).srv c).seqs = sdel (s.srv c).seqs k ∧ ((s.leaveNow c id).srv c).adm = (s.srv c).adm) ∧
    (slotOf (s.srv c).seqs id = none →
      ((s.leaveNow c id).srv c).seqs = (s.srv c).seqs ∧ ∀ j ∈ ((s.leaveNow c id).srv c).adm, j.seqid ≠ id) := by
  have hx : ∀ x : ServSt, ((((s.setSrv c x).showServ c).swapAtBoundary c).srv c).seqs = x.seqs ∧
      ((((s.setSrv c x).showServ c).swapAtBoundary c).srv c).adm = x.adm := fun x => by
    have hshow : ((s.setSrv c x).showServ c).serv = (s.setSrv c x).serv :=
      (State.showServ_same (.refl 8 (s.setSrv c x)) rfl c).serv.resolve_left (by decide)
    obtain ⟨h1, h2⟩ := srv_swapAtBoundary (s := (s.setSrv c x).showServ c) (by rw [hshow]; exact sorted_sputD h _ _ _) c
    rw [h1, h2, srv_of_serv hshow, srv_setSrv_self h]
    exact ⟨rfl, rfl⟩
  unfold State.leaveNow
  dsimp only
  refine ⟨fun k hk => ?_, fun hk => ?_⟩
  · rw [hk]
    exact hx _
  · rw [hk]
    obtain ⟨h1, h2⟩ := hx { s.srv c with adm := (s.srv c).adm.filter fun j => j.seqid != id }
    refine ⟨h1, fun j hj => ?_⟩
    have := (List.mem_filter.mp (h2 ▸ hj)).2
    simpa using this

/-! ### SWAP_CLOSE (R333, R334) -/

/-- R334: what SWAP_CLOSE sets before it enters the swap state. -/
def State.closing (s : State) (c : Nat) (drain : Bool) : State :=
  let t := s.setReg (A.SRV_TARGET c) (BitVec.ofNat 32 (s.rf (R.SRV_EPOCH_EPOCH c) + 1))
  (t.wf (R.SRV_SWAP_POLICY c) (if drain then 1 else 0)).setSrv c { t.srv c with accepted := false }

/-- R334: SWAP_CLOSE. -/
def State.closeSwap (s : State) (c : Nat) (drain : Bool) : State := (s.closing c drain).enterSwap c ((s.closing c drain).closeTo c drain)

theorem closeTo_lt (s : State) (c : Nat) (drain : Bool) : s.closeTo c drain < 4 := by
  unfold State.closeTo
  dsimp only
  repeat' split
  all_goals decide

theorem closing_facts {s : State} (hc : s.Canon) {c : Nat} (hlt : c < 64) (drain : Bool) :
    Store.Sorted (s.closing c drain).regs ∧ Store.Sorted (s.closing c drain).serv ∧
    (s.closing c drain).srv c = { s.srv c with accepted := false } ∧ (s.closing c drain).now = s.now ∧
    (s.closing c drain).closeTo c drain = s.closeTo c drain ∧
    (s.closing c drain).rf (R.SRV_TARGET_EPOCH c) = (s.rf (R.SRV_EPOCH_EPOCH c) + 1) % 2 ^ 32 ∧
    (s.closing c drain).rf (R.SRV_EPOCH_EPOCH c) = s.rf (R.SRV_EPOCH_EPOCH c) ∧
    (s.closing c drain).rf (R.SRV_SWAP_POLICY c) = if drain then 1 else 0 := by
  have h1 := sorted_setReg hc.regs (A.SRV_TARGET c) (BitVec.ofNat 32 (s.rf (R.SRV_EPOCH_EPOCH c) + 1))
  have hsrv : (s.closing c drain).srv c = { s.srv c with accepted := false } := srv_setSrv_self (s := _) hc.serv c _
  have hfar : ∀ {l : Loc}, l.addr ≠ A.SRV_TARGET c → l.addr ≠ A.SRV_SWAP c → (s.closing c drain).rf l = s.rf l := fun ht hs =>
    (((Spares.refl _ s).setReg ht _).wf_far (m := R.SRV_SWAP_POLICY c) hs _).rf hc.regs
  have hst : (s.closing c drain).cstate c = s.cstate c := by
    have hin : (R.CMT_CSTAT_STATE c).InCommit := inCommit hlt (k := 0) (by decide) rfl
    exact hfar (hin.ne_serving c _) (hin.ne_serving c _)
  refine ⟨sorted_wf h1 _ _, sorted_sputD hc.serv _ _ _, hsrv, rfl, ?_, ?_, hfar ?_ ?_, ?_⟩
  · unfold State.closeTo State.stepCurrent
    rw [hst, hsrv]
  · have hne : A.SRV_TARGET c ≠ A.SRV_SWAP c := by
      unfold A.SRV_TARGET A.SRV_SWAP
      omega
    refine (rf_wf_addr _ _ (l := R.SRV_SWAP_POLICY c) (m := R.SRV_TARGET_EPOCH c) hne).trans ?_
    show (((s.setReg (A.SRV_TARGET c) _).reg (A.SRV_TARGET c)).extractLsb' 0 32).toNat = _
    rw [reg_setReg_self hc.regs]
    simp
  · show A.SRV_EPOCH c ≠ A.SRV_TARGET c
    unfold A.SRV_EPOCH A.SRV_TARGET
    omega
  · show A.SRV_EPOCH c ≠ A.SRV_SWAP c
    unfold A.SRV_EPOCH A.SRV_SWAP
    omega
  · refine (rf_wf_self h1 (l := R.SRV_SWAP_POLICY c) (Nat.le_of_ble_eq_true rfl) _).trans ?_
    cases drain <;> rfl

/-- R333, R334: what SWAP_CLOSE leaves. -/
structure State.SwapClosed (s t : State) (c : Nat) (drain : Bool) : Prop where
  swap : t.swap c = s.closeTo c drain
  target : t.rf (R.SRV_TARGET_EPOCH c) = (s.rf (R.SRV_EPOCH_EPOCH c) + 1) % 2 ^ 32
  epoch : t.rf (R.SRV_EPOCH_EPOCH c) = s.rf (R.SRV_EPOCH_EPOCH c)
  policy : t.rf (R.SRV_SWAP_POLICY c) = if drain then 1 else 0
  record : t.srv c = ({ s.srv c with accepted := false } : ServSt).swapped s.now (s.closeTo c drain)

theorem swapClosed_closeSwap {s : State} (hc : s.Canon) {c : Nat} (hlt : c < 64) (drain : Bool) :
    s.SwapClosed (s.closeSwap c drain) c drain := by
  obtain ⟨hs, hsv, hrec, hnow, hto, htar, hep, hpol⟩ := closing_facts hc hlt drain
  have hlt4 := closeTo_lt s c drain
  unfold State.closeSwap
  rw [hto]
  generalize s.closing c drain = u at *
  have hsp := fun {l : Loc} (h : l.InServing) (hl : l.Clear (R.SRV_SWAP_STATE c)) =>
    ((Spares.refl l u).enterSwapServing h hlt (st := s.closeTo c drain) hl).rf hs
  refine ⟨swap_enterSwap hs hlt hlt4, (hsp ?_ (.inl ?_)).trans htar, (hsp ?_ (.inl ?_)).trans hep, (hsp ?_ ?_).trans hpol, ?_⟩
  · exact inServing hlt (k := 0x174) (by decide) rfl
  · show A.SRV_TARGET c ≠ A.SRV_SWAP c
    unfold A.SRV_TARGET A.SRV_SWAP
    omega
  · exact inServing hlt (k := 0x170) (by decide) rfl
  · show A.SRV_EPOCH c ≠ A.SRV_SWAP c
    unfold A.SRV_EPOCH A.SRV_SWAP
    omega
  · exact inServing hlt (k := 0x178) (by decide) rfl
  · exact Loc.clear_below rfl
  · rw [srv_enterSwap hsv, hrec, hnow]

/-! ### SWAP_OPEN (R336) -/

/-- R336: what SWAP_OPEN leaves in the registers of the serving context. -/
structure State.SwapOpened (s t : State) (c : Nat) (new : Bool) : Prop where
  swap : t.swap c = swOpen
  epoch : t.rf (R.SRV_EPOCH_EPOCH c) = if new then s.rf (R.SRV_TARGET_EPOCH c) else s.rf (R.SRV_EPOCH_EPOCH c)
  hold : new = true → t.rf (R.SRV_HOLD_US c) = min ((s.now - (s.srv c).closedAt.getD s.now) / 25) (2 ^ 32 - 1)
  closedAt : (t.srv c).closedAt = none

theorem swapOpened_openSwap {s : State} (hc : s.Canon) (c : Nat) (new : Bool) : s.SwapOpened (s.openSwap c new) c new := by
  have hself := srv_setSrv_self hc.serv c { s.srv c with closedAt := none }
  have hep : A.SRV_EPOCH c ≠ A.SRV_SWAP c ∧ A.SRV_EPOCH c ≠ A.SRV_HOLD c ∧ A.SRV_HOLD c ≠ A.SRV_SWAP c := by
    unfold A.SRV_EPOCH A.SRV_SWAP A.SRV_HOLD
    omega
  unfold State.openSwap
  dsimp only
  obtain ⟨u, hu⟩ : ∃ u, u = s.setSrv c { s.srv c with closedAt := none } := ⟨_, rfl⟩
  have hur : u.regs = s.regs := by rw [hu]; rfl
  have hun : u.now = s.now := by rw [hu]; rfl
  have hus : Store.Sorted u.regs := by rw [hur]; exact hc.regs
  rw [← hu] at hself ⊢
  have hsrv : ∀ (t : State), t.serv = u.serv → ((t.wf (R.SRV_SWAP_STATE c) swOpen).srv c).closedAt = none := fun t ht => by
    rw [srv_of_serv (s := u) (t := t.wf (R.SRV_SWAP_STATE c) swOpen) ht, hself]
  cases new with
  | false =>
    refine ⟨rf_wf_self hus (Nat.le_of_ble_eq_true rfl) _, ?_, (fun h => nomatch h), hsrv _ rfl⟩
    exact (rf_wf_addr _ _ (l := R.SRV_SWAP_STATE c) (m := R.SRV_EPOCH_EPOCH c) hep.1).trans (rf_of_regs hur _)
  | true =>
    have h1 := sorted_setReg hus (A.SRV_EPOCH c) (u.reg (A.SRV_TARGET c))
    have h2 := sorted_wf h1 (R.SRV_HOLD_US c) (min ((u.now - (s.srv c).closedAt.getD u.now) / 25) max32)
    refine ⟨rf_wf_self h2 (Nat.le_of_ble_eq_true rfl) _, ?_, fun _ => ?_, hsrv _ rfl⟩
    · refine (rf_wf_addr _ _ (l := R.SRV_SWAP_STATE c) (m := R.SRV_EPOCH_EPOCH c) hep.1).trans
        ((rf_wf_addr _ _ (l := R.SRV_HOLD_US c) (m := R.SRV_EPOCH_EPOCH c) hep.2.1).trans ?_)
      show (((u.setReg (A.SRV_EPOCH c) _).reg (A.SRV_EPOCH c)).extractLsb' 0 32).toNat = s.rf (R.SRV_TARGET_EPOCH c)
      rw [reg_setReg_self hus, reg_of_regs hur]
      rfl
    · refine (rf_wf_addr _ _ (l := R.SRV_SWAP_STATE c) (m := R.SRV_HOLD_US c) hep.2.2).trans
        ((rf_wf_self h1 (l := R.SRV_HOLD_US c) (Nat.le_of_ble_eq_true rfl) _).trans ?_)
      rw [hun]
      show min _ (2 ^ 32 - 1) % 2 ^ 32 = _
      exact Nat.mod_eq_of_lt (by omega)

/-! ### The commands, seen from the state before them -/

theorem swap_launched {s : State} {c : Nat} (hlt : c < 64) (q : Nat) (w : CmdWord) (f : State → State) :
    (s.launchCmd q w (thenOk q (s.qStart q) f)).swap c = (f (s.started q w)).swap c :=
  (inServing hlt (k := 0x178) (l := R.SRV_SWAP_STATE c) (by decide) rfl).launched s q w f

theorem closeTo_started {s : State} {c : Nat} (hlt : c < 64) (q : Nat) (w : CmdWord) (drain : Bool) :
    (s.started q w).closeTo c drain = s.closeTo c drain := by
  have hst : (s.started q w).cstate c = s.cstate c := (lowRegs_started s q w).rf (by
    show A.CMT_CSTAT c < _
    unfold A.CMT_CSTAT Page.commitBase
    omega)
  have hsrv : (s.started q w).srv c = s.srv c := srv_of_serv rfl c
  unfold State.closeTo State.stepCurrent
  rw [hst, hsrv]

theorem swapClosed_launched {s : State} (hc : s.Canon) (q : Nat) (w : CmdWord) {c : Nat} (hlt : c < 64) (drain : Bool) :
    s.SwapClosed (s.launchCmd q w (thenOk q (s.qStart q) fun t => t.closeSwap c drain)) c drain := by
  obtain ⟨h1, h2, h3, h4, h5⟩ := swapClosed_closeSwap (canon_started hc q w) hlt drain
  have hin : ∀ {k : Nat} {l : Loc}, k < 0x1000 → l.addr = Page.servingBase c + k → l.InServing := fun hk hl => inServing hlt hk hl
  have hep : (R.SRV_EPOCH_EPOCH c).InServing := hin (k := 0x170) (by decide) rfl
  have hsrv : (s.started q w).srv c = s.srv c := srv_of_serv rfl c
  have hnow : (s.started q w).now = s.now := rfl
  rw [closeTo_started hlt] at h1
  rw [closeTo_started hlt, hsrv, hnow] at h5
  rw [hep.started] at h2 h3
  exact ⟨(swap_launched hlt q w _).trans h1, ((hin (k := 0x174) (l := R.SRV_TARGET_EPOCH c) (by decide) rfl).launched s q w _).trans h2,
    (hep.launched s q w _).trans h3, ((hin (k := 0x178) (l := R.SRV_SWAP_POLICY c) (by decide) rfl).launched s q w _).trans h4,
    (srv_launched s q w _ c).trans h5⟩

theorem swapOpened_launched {s : State} (hc : s.Canon) (q : Nat) (w : CmdWord) {c : Nat} (hlt : c < 64) (new : Bool) :
    s.SwapOpened (s.launchCmd q w (thenOk q (s.qStart q) fun t => t.openSwap c new)) c new := by
  obtain ⟨h1, h2, h3, h4⟩ := swapOpened_openSwap (canon_started hc q w) c new
  have hin : ∀ {k : Nat} {l : Loc}, k < 0x1000 → l.addr = Page.servingBase c + k → l.InServing := fun hk hl => inServing hlt hk hl
  have hep : (R.SRV_EPOCH_EPOCH c).InServing := hin (k := 0x170) (by decide) rfl
  have htar : (R.SRV_TARGET_EPOCH c).InServing := hin (k := 0x174) (by decide) rfl
  have hsrv : (s.started q w).srv c = s.srv c := srv_of_serv rfl c
  have hnow : (s.started q w).now = s.now := rfl
  rw [hep.started, htar.started] at h2
  rw [hsrv, hnow] at h3
  exact ⟨(swap_launched hlt q w _).trans h1, (hep.launched s q w _).trans h2,
    fun hn => ((hin (k := 0x17c) (l := R.SRV_HOLD_US c) (by decide) rfl).launched s q w _).trans (h3 hn),
    by rw [srv_launched, h4]⟩

theorem openSwap_but (s : State) (q : Nat) (w : CmdWord) (c : Nat) (new : Bool) :
    s.SameBut (s.launchCmd q w (thenOk q (s.qStart q) fun t => t.openSwap c new)) [.regs, .queues, .serv] := by
  have h0 : Same 2267742732296 s (s.started q w) := State.passStart_same (.refl _ s) rfl q _
  have h1 := State.openSwap_same h0 rfl c new
  exact Same.but (h1.trans (launchCmd_ok_same s q w (fun t => t.openSwap c new) rfl)) rfl

theorem swapArgs {w : CmdWord} (h : cmdAt w 32 1 < 2) (hz : lowest (reservedBytes w 33 31) = none) :
    lowest ([(cmdAt w 32 1 / 2 != 0, 32)] ++ reservedBytes w 33 31) = none := by
  rw [lowest_append, hz, Nat.div_eq_of_lt h]
  rfl

theorem execSwapClose_runs {q : Fin 8192} {s : State} {w : CmdWord} (hr : s.MayRun q 0x62 w) (hs : s.serving (s.qCtx q) = true)
    {flag : Bool} (hflag : flag = (cmdAt w 32 1).testBit 0) (h2 : cmdAt w 32 1 < 2) (hz : lowest (reservedBytes w 33 31) = none)
    (h : s.swap (s.qCtx q) = swOpen ∨ (s.swap (s.qCtx q) = swPending ∧ flag = false)) :
    exec (.swapClose q) s = .next (s.launchCmd q w (thenOk q (s.qStart q) fun t => t.closeSwap (s.qCtx q) flag)) := by
  subst hflag
  refine congrArg Host.Outcome.next (runCmd_run hr ((servingOnly_pos hs _).trans ((argsThen_none (swapArgs h2 hz) _).trans (if_pos ?_))))
  exact h.imp_right fun h => ⟨h.1, by rw [h.2]; rfl⟩

theorem execSwapOpen_runs {q : Fin 8192} {s : State} {w : CmdWord} (hr : s.MayRun q 0x64 w) (hs : s.serving (s.qCtx q) = true)
    {new : Bool} (hnew : new = (cmdAt w 32 1).testBit 0) (h2 : cmdAt w 32 1 < 2) (hz : lowest (reservedBytes w 33 31) = none)
    (h : if new then s.swap (s.qCtx q) = swSwapping ∧ (s.srv (s.qCtx q)).layers = [] ∧ (s.srv (s.qCtx q)).failed = []
      else s.swap (s.qCtx q) ≠ swOpen ∧ (s.srv (s.qCtx q)).accepted = false) :
    exec (.swapOpen q) s = .next (s.launchCmd q w (thenOk q (s.qStart q) fun t => t.openSwap (s.qCtx q) new)) := by
  subst hnew
  refine congrArg Host.Outcome.next (runCmd_run hr ((servingOnly_pos hs _).trans ((argsThen_none (swapArgs h2 hz) _).trans ?_)))
  cases hn : (cmdAt w 32 1).testBit 0 with
  | true =>
    rw [hn, if_pos rfl] at h
    obtain ⟨hsw, hlay, hfail⟩ := h
    exact if_pos ⟨rfl, hsw, by rw [hlay]; rfl, by rw [hfail]; rfl⟩
  | false =>
    rw [hn, if_neg (by decide)] at h
    obtain ⟨hsw, hacc⟩ := h
    exact (if_neg fun h => absurd h.1 (by decide)).trans (if_pos ⟨rfl, hsw, by rw [hacc]; rfl⟩)

theorem queue_closeSwap (s : State) (c : Nat) (drain : Bool) (r : Nat) : (s.closeSwap c drain).queue r = s.queue r := by
  unfold State.closeSwap
  rw [queue_of_queues ((State.enterSwap_same (.refl 3298534892552 (s.closing c drain)) rfl c _).queues.resolve_left (by decide))]
  exact queue_of_queues rfl r

/-- Settles O31. The swap state that SWAP_CLOSE enters is `closeTo`: at BOUNDARY the model passes PENDING by where no sequence is
live although the latest table shows one (log 19). -/
theorem joinWaitsLeaveEnds : Obligations.JoinWaitsLeaveEnds := by
  refine ⟨fun q s w c hc hcc hs => ⟨fun hr hz => ⟨fun hf => ?_, fun hf => ?_⟩, fun hr hz hst => ?_, fun hr hz hst hany => ?_⟩,
    fun q s w c flag hc hcc hs hflag h2 hz => ⟨fun hr hsw => ?_, fun hr hf hsw hlay hfail => ?_, fun hr hf hsw hacc => ?_⟩⟩
  all_goals
    have hlt : c < 64 := hcc ▸ ctx_qCtx_lt s q
    subst hcc
  · refine congrArg Host.Outcome.next (runCmd_waits hr ((servingOnly_pos hs _).trans ((argsThen_none hz _).trans ?_)))
    rw [hf]
    rfl
  · refine ⟨_, congrArg Host.Outcome.next (runCmd_stops hr (st := fencedStatus) (d := 0) ((servingOnly_pos hs _).trans
      ((argsThen_none hz _).trans ?_)) (by decide)), rfl⟩
    rw [hf]
    rfl
  · exact congrArg Host.Outcome.next (runCmd_waits hr ((servingOnly_pos hs _).trans ((argsThen_none hz _).trans (if_pos hst))))
  · have hif : ((slotOf (s.srv (s.qCtx q)).seqs (cmdAt w 32 4)).isSome ||
        (s.srv (s.qCtx q)).adm.any fun j => j.seqid == cmdAt w 32 4) = true := by
      rw [slotOf_isSome]
      exact hany
    have hst' : ¬ s.stepCurrent (s.qCtx q) = true := by
      rw [hst]
      decide
    refine ⟨_, congrArg Host.Outcome.next (runCmd_run hr ((servingOnly_pos hs _).trans ((argsThen_none hz _).trans
      ((if_neg hst').trans (if_pos hif))))), ran_launchCmd hc hr _, ?_⟩
    have hsrv : (s.started q w).srv (s.qCtx q) = s.srv (s.qCtx q) := srv_of_serv rfl _
    have h := srv_leaveNow (canon_started hc q w).serv (s.qCtx q) (cmdAt w 32 4)
    rw [hsrv] at h
    rw [srv_launched]
    exact h
  · obtain ⟨h1, h3, h4, h5, h6⟩ := swapClosed_launched hc q w hlt flag
    refine ⟨_, execSwapClose_runs hr hs hflag h2 hz hsw, h1, h3, h4, h5, by rw [h6]; rfl, by rw [h6]; rfl, by rw [h6]; rfl, fun r hne => ?_⟩
    rw [launchCmd_queue_ne s w (thenOk q (s.qStart q) fun t => t.closeSwap (s.qCtx q) flag) hne]
    unfold thenOk
    rw [finishCmd_queue_ne _ _ _ _ hne, queue_closeSwap]
    exact queue_passStart_ne s _ hne
  · obtain ⟨h1, h3, h4, h5⟩ := swapOpened_launched hc q w hlt true
    subst hf
    exact ⟨_, execSwapOpen_runs hr hs hflag h2 hz ⟨hsw, hlay, hfail⟩, openSwap_but s q w _ true, h1, h3, h4 rfl, h5⟩
  · obtain ⟨h1, h3, h4, h5⟩ := swapOpened_launched hc q w hlt false
    subst hf
    exact ⟨_, execSwapOpen_runs hr hs hflag h2 hz ⟨hsw, hacc⟩, openSwap_but s q w _ false, h1, h3, h5⟩

end Sys2Proof.Machine


/-! COL (R258, R272): O32. -/

namespace Sys2Proof.Machine

/-- From `s` to `t` no register changed but for those of furrows: they stand from byte 0x100000 of a field's pages on. -/
def FieldRegs (s t : State) : Prop := ∀ a, a % 0x1000000 < 0x100000 → t.reg a = s.reg a

theorem FieldRegs.rf {s t : State} (h : FieldRegs s t) {l : Loc} (hl : l.addr % 0x1000000 < 0x100000) : t.rf l = s.rf l :=
  rf_congr (h _ hl)

theorem FieldRegs.flag {s t : State} (h : FieldRegs s t) {l : Loc} (hl : l.addr % 0x1000000 < 0x100000) : t.flag l = s.flag l :=
  congrArg (· != 0) (h.rf hl)

theorem granPage_mod (f : Nat) {g : Nat} (hg : g < 512) : A.FLD_GRAN f g % 0x1000000 < 0x100000 := by
  unfold A.FLD_GRAN Page.fieldmemBase Page.fieldBase
  omega

theorem granOf_lt (a : Nat) : granOf a < 512 := by
  unfold granOf
  omega

theorem FieldRegs.owns {s t : State} (h : FieldRegs s t) (c f : Nat) {g : Nat} (hg : g < 512) : t.owns c f g = s.owns c f g := by
  unfold State.owns
  rw [h.flag (l := R.FLD_GRAN_OWNED f g) (granPage_mod f hg), h.rf (l := R.FLD_GRAN_CTX f g) (granPage_mod f hg)]

theorem FieldRegs.inPartition {s t : State} (h : FieldRegs s t) (c a n : Nat) : t.inPartition c a n = s.inPartition c a n := by
  unfold State.inPartition
  have hall := all_congr_mem (l := List.range ((a + n - 1) / granSize - a / granSize + 1)) (p := fun i =>
    t.owns c ((a / granSize + i) / 512) ((a / granSize + i) % 512)) (q := fun i =>
    s.owns c ((a / granSize + i) / 512) ((a / granSize + i) % 512)) fun i _ => h.owns c _ (Nat.mod_lt _ (by decide))
  dsimp only
  rw [hall]

theorem FieldRegs.stackOf {s t : State} (h : FieldRegs s t) (a : Nat) : t.stackOf a = s.stackOf a := by
  have hc : s.rf (R.FLD_GRAN_CTX (fieldOf a) (granOf a)) < 64 := rf_lt s _
  have hm : A.CTX_MEM (s.rf (R.FLD_GRAN_CTX (fieldOf a) (granOf a))) % 0x1000000 < 0x100000 := by
    unfold A.CTX_MEM Page.contextBase
    omega
  unfold State.stackOf
  dsimp only
  rw [h.rf (l := R.FLD_GRAN_CTX (fieldOf a) (granOf a)) (granPage_mod _ (granOf_lt a)),
    h.flag (l := R.FLD_GRAN_OWNED (fieldOf a) (granOf a)) (granPage_mod _ (granOf_lt a)), h.rf (l := R.CTX_MEM_INTLV _) hm]

theorem stackOf_lt (s : State) (a : Nat) : s.stackOf a < 5 := by
  unfold State.stackOf
  dsimp only
  split <;> omega

theorem FieldRegs.wordWaits {s t : State} (h : FieldRegs s t) (hp : t.pwr = s.pwr) (b : Nat) : t.wordWaits b = s.wordWaits b := by
  have hlt := stackOf_lt s b
  have hstat : A.HBM_STAT (fieldOf b) (s.stackOf b) % 0x1000000 < 0x100000 := by
    unfold A.HBM_STAT Page.hbmBase Page.fieldBase
    omega
  have hoff : t.fieldOff (fieldOf b) = s.fieldOff (fieldOf b) := h.flag (l := R.CLK_GATE_FIELD_OFF (fieldOf b)) (by
    show A.CLK_GATE_FIELD _ % _ < _
    unfold A.CLK_GATE_FIELD Page.fieldBase
    omega)
  unfold State.wordWaits State.stackAsleep
  rw [h.stackOf, hoff, hp, h.rf (l := R.HBM_STAT_STATE _ _) hstat,
    h.flag (l := R.FLD_GRAN_CLEARING (fieldOf b) (granOf b)) (granPage_mod _ (granOf_lt b))]

theorem FieldRegs.hbmWaits {s t : State} (h : FieldRegs s t) (hp : t.pwr = s.pwr) (hr : t.regions = s.regions) (a n : Nat) :
    t.hbmWaits a n = s.hbmWaits a n := by
  have hw : ∀ b, t.wordWaits (t.mapAddr b) = s.wordWaits (s.mapAddr b) := fun b => by rw [mapAddr_congr hr, h.wordWaits hp]
  unfold State.hbmWaits
  simp only [hw]

theorem FieldRegs.inWaits {s t : State} (h : FieldRegs s t) (hp : t.pwr = s.pwr) (hr : t.regions = s.regions) (c a n : Nat) :
    t.inWaits c a n = s.inWaits c a n := by
  unfold State.inWaits
  rw [h.inPartition, h.hbmWaits hp hr]

theorem readTables_congr {s t : State} (hr : t.regions = s.regions) (hh : t.hbm = s.hbm) (hb : t.hbmBad = s.hbmBad) (who : Consumer)
    (d : Desc) : (t.readTables who d).1 = (s.readTables who d).1 := by
  unfold State.readTables
  dsimp only
  rw [hbmRead_fst, hbmRead_fst, peekHbm_congr hr hh hb]

/-- R154, R158: what a descriptor's requests wait for does not hang on the furrows' registers. -/
theorem FieldRegs.colStalls {s t : State} (h : FieldRegs s t) (hp : t.pwr = s.pwr) (hr : t.regions = s.regions) (hh : t.hbm = s.hbm)
    (hb : t.hbmBad = s.hbmBad) (c desc : Nat) : t.colStalls c desc = s.colStalls c desc := by
  unfold State.colStalls
  simp only [h.inWaits hp hr, peekHbm_congr hr hh hb, readTables_congr hr hh hb]

/-! ### The hand-over (R258, R272) -/

theorem setEng_frame (s : State) (f : Nat) (e : ColEng) : { s.setEng f e with engines := s.engines } = s := rfl

theorem eng_setEng_self {s : State} (h : Store.Sorted s.engines) (f : Nat) (e : ColEng) : (s.setEng f e).eng f = e := sgetD_sputD_self h _ _ _

theorem handCol_claims {s : State} {f c desc : Nat} {u : ColUser} {o : ColOp} (h : s.claimable f c desc (s.colStep c u) = some o)
    (hd : o.done = false) (bound : Bool) (host : List Byte) : s.handCol f c desc u bound host = s.setOp { o with users := [u] } := by
  unfold State.handCol
  dsimp only
  rw [h]
  dsimp only
  rw [hd]
  rfl

theorem handCol_waits {s : State} {f c desc : Nat} {u : ColUser} (h : s.claimable f c desc (s.colStep c u) = none)
    (hw : (s.eng f).busy ≥ 64 ∨ (s.eng f).waiting ≠ [] ∨ s.colStalls c desc = true) (bound : Bool) (host : List Byte) :
    ∃ spans, s.handCol f c desc u bound host =
      s.setEng f { s.eng f with waiting := (s.eng f).waiting ++ [⟨c, u, desc, bound, host, spans⟩] } := by
  have hif : (decide ((s.eng f).busy ≥ 64) || !(s.eng f).waiting.isEmpty || s.colStalls c desc) = true := by
    simpa [or_assoc] using hw
  unfold State.handCol
  dsimp only
  rw [h]
  dsimp only
  exact ⟨_, if_pos hif⟩

theorem handCol_accepts {s : State} {f c desc : Nat} {u : ColUser} (h : s.claimable f c desc (s.colStep c u) = none)
    (hb : (s.eng f).busy < 64) (hw : (s.eng f).waiting = []) (hs : s.colStalls c desc = false) (bound : Bool) (host : List Byte) :
    s.handCol f c desc u bound host = s.acceptCol f c desc u (s.colStep c u) bound host := by
  have hif : ¬(decide ((s.eng f).busy ≥ 64) || !(s.eng f).waiting.isEmpty || s.colStalls c desc) = true := by
    rw [hw, hs]
    simpa using hb
  unfold State.handCol
  dsimp only
  rw [h]
  dsimp only
  exact if_neg hif

/-! ### The head's departure -/

theorem fieldRegs_advance {s : State} (hc : s.Canon) {i : StreamId} (h : s.NextSound (atOf i)) : FieldRegs s (s.advance (atOf i)) :=
  fun a ha => (issued_advance hc h).regs a fun e => by
    have hn := i.furrow.isLt
    have hf := i.field.isLt
    rw [e] at ha
    unfold A.FUR_ISSUED Page.furrowBase Page.fieldBase at ha
    omega

theorem colCause_none {s : State} {i : StreamId} {w : InstrWord} (h : s.MayCol i w) :
    lowest [(fld w 12 4 != 0 || fld w 56 72 != 0, 2),
      (!s.inPartition (atOf i).c (s.colDesc (atOf i) w) 128 ||
        !s.inPartition (atOf i).c (s.colWord i w).grp (s.colWord i w).tableBytes, 7), (s.afterStep (atOf i), 9)] = none := by
  obtain ⟨_, _, ⟨hr, hr'⟩, hdesc, htab, hopen⟩ := h
  have hdesc' : s.inPartition (atOf i).c (s.colDesc (atOf i) w) 128 = true := hdesc
  have htab' : s.inPartition (atOf i).c (s.colWord i w).grp (s.colWord i w).tableBytes = true := htab
  rw [hr, hr', hdesc', htab', hopen]
  rfl

theorem issueCol_runs {s : State} {i : StreamId} {w : InstrWord} (h : s.MayCol i w) (host : List Byte) :
    issueCol host i w s = (s.advance (atOf i)).handCol i.field i.ctx (s.colDesc (atOf i) w)
      (.stream i.furrow i.strm (if fld w 11 1 = 1 then some (fld w 48 8) else none) true) true host := by
  unfold issueCol
  exact h.head.issue_eq h.ready (colCause_none h) 0 _

/-- Settles O32. -/
theorem collectiveInstructionIssues : Obligations.CollectiveInstructionIssues := by
  intro i body host s w desc user hc hw hm hdesc huser
  subst hw hdesc huser
  have hlt : i.ctx.val < 64 := i.ctx.isLt
  obtain ⟨u, hu⟩ : ∃ u, u = s.advance (atOf i) := ⟨_, rfl⟩
  have hiss : s.Issued u i := hu ▸ issued_advance hc hm.head.next
  have hsame : Same 8598323208 s u := hu ▸ State.advance_same (.refl _ s) rfl (atOf i)
  have hregs : FieldRegs s u := hu ▸ fieldRegs_advance hc hm.head.next
  have heng : u.engines = s.engines := hsame.engines.resolve_left (by decide)
  have hengf : u.eng i.field = s.eng i.field := by
    unfold State.eng
    rw [heng]
  have hstep : u.stepOf i.ctx = s.stepOf i.ctx := hregs.rf (l := R.CMT_CCUR_N i.ctx) (by
    show A.CMT_CCUR i.ctx % _ < _
    unfold A.CMT_CCUR Page.commitBase
    omega)
  have hclaim : u.claimable i.field i.ctx (s.colDesc (atOf i) (tileWord 0x50 body)) (s.stepOf i.ctx) =
      s.claimable i.field i.ctx (s.colDesc (atOf i) (tileWord 0x50 body)) (s.stepOf i.ctx) := by
    unfold State.claimable
    rw [hengf]
  have hstall := hregs.colStalls (hsame.pwr.resolve_left (by decide)) (hsame.regions.resolve_left (by decide))
    (hsame.hbm.resolve_left (by decide)) (hsame.hbmBad.resolve_left (by decide)) i.ctx (s.colDesc (atOf i) (tileWord 0x50 body))
  have hrun := (hm.head.exec_eq (c := .col i body host) rfl).trans (congrArg Host.Outcome.next (issueCol_runs hm host))
  rw [← hu] at hrun
  generalize huser : (ColUser.stream i.furrow i.strm (if fld (tileWord 0x50 body) 11 1 = 1 then some (fld (tileWord 0x50 body) 48 8)
    else none) true) = user at *
  have hcol : u.colStep i.ctx user = s.stepOf i.ctx := by
    rw [← huser]
    exact hstep
  refine ⟨u, _, hrun, hiss, heng, rfl,
    (State.handCol_same (.refl 4204304376842 u) rfl _ _ _ _ _ _).streams.resolve_left (by decide), fun o ho hd => ?_, fun hn hwait => ?_,
    fun hn hb hw hs => ?_⟩
  · exact handCol_claims (by rw [hcol, hclaim, ho]) hd true host
  · obtain ⟨spans, he⟩ := handCol_waits (s := u) (u := user) (by rw [hcol, hclaim, hn]) (by rw [hengf, hstall]; exact hwait) true host
    rw [he]
    refine ⟨setEng_frame u _ _, spans, ?_⟩
    rw [eng_setEng_self (by rw [heng]; exact hc.engines), hengf]
  · rw [handCol_accepts (s := u) (u := user) (by rw [hcol, hclaim, hn]) (by rw [hengf]; exact hb) (by rw [hengf]; exact hw)
      (hstall.trans hs) true host, hcol]

end Sys2Proof.Machine


/-! Ends of collective operations (R154, R262, R272, R281): O33. -/

namespace Sys2Proof.Machine

theorem colOp_ids {s : State} {f c opid : Nat} {o : ColOp} (h : s.colOp? f c opid = some o) : o.ctx = c ∧ o.opid = opid := by
  have := List.find?_some h
  simpa using this

theorem eng_of_engines {s t : State} (h : t.engines = s.engines) (f : Nat) : t.eng f = s.eng f := by
  unfold State.eng
  rw [h]

theorem colOp_of_engines {s t : State} (h : t.engines = s.engines) (f c opid : Nat) : t.colOp? f c opid = s.colOp? f c opid := by
  unfold State.colOp?
  rw [eng_of_engines h]

theorem opNow_self {s : State} {c opid : Nat} {o : ColOp} (h : s.colOp? o.field c opid = some o) : s.opNow o = o := by
  obtain ⟨rfl, rfl⟩ := colOp_ids h
  unfold State.opNow
  rw [h]
  rfl

/-- R262: the engine once operation `o` has ended with status `st`. -/
def ColEng.ended (e : ColEng) (o : ColOp) (st : Nat) : ColEng :=
  { e with
    closed := if e.closed.contains (o.ctx, o.opid) then e.closed else e.closed ++ [(o.ctx, o.opid)]
    ops :=
      if o.users == [ColUser.prefetch] && !false then e.ops.map fun x =>
        if x.ctx == o.ctx && x.opid == o.opid then { o with status := st, done := true, vals := [], stored := [] } else x
      else e.ops.filter fun x => !(x.ctx == o.ctx && x.opid == o.opid) }

theorem mem_closed_ended (e : ColEng) (o : ColOp) (st : Nat) : (o.ctx, o.opid) ∈ (e.ended o st).closed := by
  unfold ColEng.ended
  dsimp only
  split
  · next h => simpa using h
  · simp

theorem find_ops_ended (e : ColEng) {o : ColOp} (st : Nat) (h : o.users ≠ [.prefetch]) :
    (e.ended o st).ops.find? (fun x => x.ctx == o.ctx && x.opid == o.opid) = none := by
  have hu : (o.users == [ColUser.prefetch]) = false := beq_eq_false_iff_ne.mpr h
  unfold ColEng.ended
  dsimp only
  rw [hu]
  refine List.find?_eq_none.mpr fun x hx => ?_
  have := (List.mem_filter.mp hx).2
  rw [Bool.not_eq_eq_eq_not, Bool.not_true] at this
  rw [this]
  decide

/-- R262: an end of operation `o` before the engine's record follows: status, counters and failure. -/
def State.atEnd (s : State) (o : ColOp) (st : Nat) : State :=
  let s := s.putStatus o st
  (if o.counts = {} then s else (s.addTotals o.ctx o.counts).reopenReport o.ctx).noteFail o st

theorem endOp_eq {s : State} {c opid : Nat} {o : ColOp} (h : s.colOp? o.field c opid = some o) (st : Nat) : s.endOp o st false =
    (o.users.foldl (fun s u => s.tellUser o st false u)
      (((s.atEnd o st).setEng o.field (((s.atEnd o st).eng o.field).ended o st)).showOps o.field)).stepProgress o.ctx := by
  unfold State.endOp State.atEnd ColEng.ended
  dsimp only
  rw [opNow_self h]

theorem engines_atEnd (s : State) (o : ColOp) (st : Nat) : (s.atEnd o st).engines = s.engines := by
  have h := State.putStatus_same (.refl 836981850120 s) rfl o st
  unfold State.atEnd
  exact (State.noteFail_same (ite_same h (State.reopenReport_same (State.addTotals_same h rfl o.ctx o.counts) rfl o.ctx)) rfl o
    st).engines.resolve_left (by decide)

/-- R262: what an end leaves in the engine: status, counters, failure and users touch nothing of it. -/
theorem eng_endOp {s : State} (hs : Store.Sorted s.engines) {c opid : Nat} {o : ColOp} (h : s.colOp? o.field c opid = some o) (st : Nat) :
    (s.endOp o st false).eng o.field = (s.eng o.field).ended o st := by
  have htell : ∀ u : State, ((o.users.foldl (fun s x => s.tellUser o st false x) (u.showOps o.field)).stepProgress o.ctx).engines =
      u.engines := fun u =>
    (State.stepProgress_same (foldl_same (fun _ x h => State.tellUser_same h (M := 3104791700488) rfl o st false x)
      (State.showOps_same (.refl _ u) rfl o.field)) rfl o.ctx).engines.resolve_left (by decide)
  have he := engines_atEnd s o st
  rw [endOp_eq h, eng_of_engines (htell _)]
  generalize s.atEnd o st = u at *
  rw [eng_setEng_self (by rw [he]; exact hs), eng_of_engines he]

theorem execEnd_runs {f : Fin 4} {c : Fin 64} {opid : BitVec 32} {s : State} {o : ColOp} (h : s.colOp? f c opid.toNat = some o)
    (hd : o.done = false) (hw : s.endWaits o = false) {e : Instr} {st : Nat}
    (he : (e = .collectiveEnd f c opid ∧ st = o.status ∧ o.complete = true) ∨ (e = .collectiveTimeout f c opid ∧ st = timeoutStatus)) :
    exec e s = .next ((s.endOp o st false).nextWaiting f) := by
  obtain ⟨rfl, rfl, hcomp⟩ | ⟨rfl, rfl⟩ := he
  · show execCollectiveEnd f c opid s = _
    unfold execCollectiveEnd
    rw [h]
    dsimp only
    rw [hd, hcomp, hw]
    rfl
  · show execCollectiveTimeout f c opid s = _
    unfold execCollectiveTimeout
    rw [h]
    dsimp only
    rw [hd, hw]
    rfl

theorem execEnd_waits {f : Fin 4} {c : Fin 64} {opid : BitVec 32} {s : State} {o : ColOp} (h : s.colOp? f c opid.toNat = some o)
    (hw : s.endWaits o = true) {e : Instr} (he : e = .collectiveEnd f c opid ∨ e = .collectiveTimeout f c opid) : exec e s = .next s := by
  obtain rfl | rfl := he
  · show execCollectiveEnd f c opid s = _
    unfold execCollectiveEnd
    rw [h]
    dsimp only
    rw [hw, Bool.or_true]
    rfl
  · show execCollectiveTimeout f c opid s = _
    unfold execCollectiveTimeout
    rw [h]
    dsimp only
    rw [hw, Bool.or_true]
    rfl

/-- Settles O33. -/
theorem collectiveOperationsEnd : Obligations.CollectiveOperationsEnd := by
  intro f c opid s o hc ho hd
  refine ⟨fun hw e he => execEnd_waits ho hw he, fun hw e st he => ⟨_, execEnd_runs ho hd hw he, rfl, fun hwait hf hswap => ?_⟩,
    fun n host hn hcomp howes hbusy hff hfc hst => ⟨_, ?_, rfl⟩⟩
  · obtain ⟨hoc, hoid⟩ := colOp_ids ho
    have heng := eng_endOp hc.engines (hf ▸ ho) st
    rw [hf] at heng
    have hidle : ((s.endOp o st false).eng f).waiting = [] := by
      rw [heng]
      exact hwait
    rw [nextWaiting_idle hidle]
    have hids : (c.val, opid.toNat) = (o.ctx, o.opid) := by rw [hoc, hoid]
    refine ⟨?_, fun hu => ?_⟩
    · rw [heng, hids]
      exact mem_closed_ended _ _ _
    · unfold State.colOp?
      rw [heng, ← hoc, ← hoid]
      exact find_ops_ended _ st hu
  · show execNextPrefetch f c opid host s = _
    unfold execNextPrefetch
    rw [ho]
    dsimp only
    rw [hn]
    dsimp only
    have hb : decide ((s.eng f).busy ≥ 64) = false := decide_eq_false (Nat.not_le.mpr hbusy)
    rw [hd, hcomp, howes, hb, hff, hfc, hst]
    rfl

end Sys2Proof.Machine


/-! COLL, SOW and WRITE packets (R239, R276, R277, R287): O34. -/

namespace Sys2Proof.Machine

/-! ### What leaves the receive buffer -/

theorem consume_same (s : State) (p : Nat) (x : Pkt) (rest : List (Nat × Pkt)) : Same 824633720832 s (s.consume p x rest) :=
  State.consume_same (.refl _ s) rfl p x rest

theorem inbox_consume (s : State) (p : Nat) (x : Pkt) (rest : List (Nat × Pkt)) : (s.consume p x rest).inbox = rest := by
  unfold State.consume
  dsimp only
  split <;> rfl

/-- What a packet's checks look at is the same before and after it has left its receive buffer. -/
structure State.SameEngines (s u : State) : Prop where
  regs : u.regs = s.regs
  engines : u.engines = s.engines
  ctxs : u.ctxs = s.ctxs
  regions : u.regions = s.regions
  fences : u.fences = s.fences

theorem sameEngines_consume (s : State) (p : Nat) (x : Pkt) (rest : List (Nat × Pkt)) : s.SameEngines (s.consume p x rest) := by
  have h := consume_same s p x rest
  exact ⟨h.regs.resolve_left (by decide), h.engines.resolve_left (by decide), h.ctxs.resolve_left (by decide),
    h.regions.resolve_left (by decide), h.fences.resolve_left (by decide)⟩

theorem flag_of_regs {s u : State} (h : u.regs = s.regs) (l : Loc) : u.flag l = s.flag l := congrArg (· != 0) (rf_of_regs h l)

section SameEngines
variable {s u : State} (h : s.SameEngines u)
include h

theorem State.SameEngines.resident (c : Nat) : u.resident c = s.resident c := flag_of_regs h.regs _

theorem State.SameEngines.inMask (c f : Nat) : u.inMask c f = s.inMask c f := congrArg (·.testBit f) (rf_of_regs h.regs _)

theorem State.SameEngines.colOp (f c opid : Nat) : u.colOp? f c opid = s.colOp? f c opid := colOp_of_engines h.engines f c opid

theorem State.SameEngines.eng (f : Nat) : u.eng f = s.eng f := eng_of_engines h.engines f

theorem State.SameEngines.ctx (c : Nat) : u.ctx c = s.ctx c := ctx_of_ctxs h.ctxs c

theorem State.SameEngines.cstate (c : Nat) : u.cstate c = s.cstate c := rf_of_regs h.regs _

theorem State.SameEngines.stepCurrent (c : Nat) : u.stepCurrent c = s.stepCurrent c := by
  unfold State.stepCurrent
  rw [h.cstate]

theorem State.SameEngines.stepNear (c n : Nat) : u.stepNear c n = s.stepNear c n := by
  have hr := rf_of_regs h.regs
  unfold State.stepNear State.stepOf
  rw [hr, hr, hr, hr, flag_of_regs h.regs, h.stepCurrent, h.cstate]

theorem State.SameEngines.earlyFits (f c : Nat) (x : Pkt) : u.earlyFits f c x = s.earlyFits f c x := by
  unfold State.earlyFits State.earlySize
  rw [h.eng, h.ctx]

end SameEngines

/-! ### The checks of a COLL or SOW packet in their order (R276) -/

/-- R276: the packet's operation, if the engine has accepted one of its step. -/
def State.opFor (s : State) (x : Pkt) : Option ColOp := (s.colOp? x.dfld x.dctx x.opid).filter fun o => o.step == x.step

section Checks
variable {s : State} {x : Pkt}

theorem dataPkt_nowhere (h : (s.resident x.dctx && s.inMask x.dctx x.dfld) = false) : s.dataPkt x = some (s.discardPkt x.dfld x 0) := by
  have : (!s.resident x.dctx || !s.inMask x.dctx x.dfld) = true := by
    rw [← Bool.not_and, h]
    rfl
  unfold State.dataPkt
  exact if_pos this

theorem State.opFor_some {o : ColOp} (h : s.colOp? x.dfld x.dctx x.opid = some o) (hs : o.step = x.step) : s.opFor x = some o := by
  unfold State.opFor
  rw [h]
  simp [Option.filter, hs]

theorem State.opFor_none (h : ∀ o, s.colOp? x.dfld x.dctx x.opid = some o → o.step ≠ x.step) : s.opFor x = none := by
  unfold State.opFor
  cases ho : s.colOp? x.dfld x.dctx x.opid with
  | none => rfl
  | some o => simp [Option.filter, h o ho]

/-- R276: the checks after the packet's context and field. -/
def State.dataChecks (s : State) (x : Pkt) : Option State :=
  match s.stepNear x.dctx x.step with
  | none => some (s.discardPkt x.dfld x 3)
  | some now =>
    if x.run ≠ (s.ctx x.dctx).latch.runs.getD x.dfld 0 then some (s.discardPkt x.dfld x 3)
    else if now && (s.eng x.dfld).closed.contains (x.dctx, x.opid) then some (s.discardPkt x.dfld x 4)
    else match if now then s.opFor x else none with
      | some o => some (s.takePkt o x)
      | none =>
        if x.kind == 3 then some (s.discardPkt x.dfld x 6)
        else if s.earlyFits x.dfld x.dctx x then some (s.keepEarly x.dfld x.dctx x)
        else none

theorem dataPkt_here (h1 : s.resident x.dctx = true) (h2 : s.inMask x.dctx x.dfld = true) :
    s.dataPkt x = if (s.opFor x).any fun o => !o.from x then some (s.discardPkt x.dfld x 1) else s.dataChecks x := by
  unfold State.dataPkt
  dsimp only
  rw [h1, h2]
  rfl

theorem dataChecks_far (h : s.stepNear x.dctx x.step = none ∨ x.run ≠ (s.ctx x.dctx).latch.runs.getD x.dfld 0) :
    s.dataChecks x = some (s.discardPkt x.dfld x 3) := by
  unfold State.dataChecks
  cases hn : s.stepNear x.dctx x.step with
  | none => rfl
  | some now => exact if_pos (h.resolve_left (by rw [hn]; exact fun e => nomatch e))

theorem dataChecks_closed (hn : s.stepNear x.dctx x.step = some true) (hr : x.run = (s.ctx x.dctx).latch.runs.getD x.dfld 0)
    (hc : (s.eng x.dfld).closed.contains (x.dctx, x.opid) = true) : s.dataChecks x = some (s.discardPkt x.dfld x 4) := by
  unfold State.dataChecks
  rw [hn]
  exact (if_neg (not_not.mpr hr)).trans (if_pos hc)

theorem dataChecks_taken (hn : s.stepNear x.dctx x.step = some true) (hr : x.run = (s.ctx x.dctx).latch.runs.getD x.dfld 0)
    (hc : (s.eng x.dfld).closed.contains (x.dctx, x.opid) = false) {o : ColOp} (ho : s.opFor x = some o) :
    s.dataChecks x = some (s.takePkt o x) := by
  unfold State.dataChecks
  rw [hn]
  dsimp only
  rw [if_neg (not_not.mpr hr), hc, ho]
  rfl

theorem dataChecks_early {now : Bool} (hn : s.stepNear x.dctx x.step = some now)
    (hr : x.run = (s.ctx x.dctx).latch.runs.getD x.dfld 0)
    (hc : now = true → s.opFor x = none ∧ (s.eng x.dfld).closed.contains (x.dctx, x.opid) = false) (hk : x.kind ≠ 3) :
    s.dataChecks x = if s.earlyFits x.dfld x.dctx x then some (s.keepEarly x.dfld x.dctx x) else none := by
  have hk' : (x.kind == 3) = false := beq_eq_false_iff_ne.mpr hk
  unfold State.dataChecks
  rw [hn]
  dsimp only
  rw [if_neg (not_not.mpr hr), hk']
  cases now with
  | false => rfl
  | true =>
    obtain ⟨ho, hcl⟩ := hc rfl
    rw [ho, hcl]
    rfl

end Checks

/-! ### What the packet's command does -/

/-- R276, R277: the packet `x` of a COLL or SOW command at the front of port `p`'s class. -/
structure State.Offers (s : State) (e : Instr) (p : Fin 12) (vc : Fin 2) (x : Pkt) (rest : List (Nat × Pkt)) : Prop where
  kind : (e = .collPacket p vc ∧ takeInbox p 1 vc s.inbox = some (x, rest) ∧ x.ptype = 2) ∨
    (e = .sowPacket p vc ∧ takeInbox p 0 vc s.inbox = some (x, rest) ∧ x.ptype = 3)

theorem takeData_eq {s : State} {p ty tc vc : Nat} {x : Pkt} {rest : List (Nat × Pkt)}
    (ht : takeInbox p tc vc s.inbox = some (x, rest)) (hty : x.ptype = ty) :
    (s.dataWaits x = true → s.takeData' p ty tc vc = s) ∧
    (s.dataWaits x = false →
      (∀ v, (s.consume p x rest).dataPkt x = some v → s.takeData' p ty tc vc = v.easeEarly x.dfld) ∧
      ((s.consume p x rest).dataPkt x = none → s.takeData' p ty tc vc = s.raiseCond (Page.collengBase x.dfld) 3)) := by
  have hne : decide (x.ptype ≠ ty) = false := decide_eq_false (not_not.mpr hty)
  unfold State.takeData'
  rw [ht]
  dsimp only
  rw [hne, Bool.false_or]
  refine ⟨fun h => if_pos h, fun h => ⟨fun v hv => ?_, fun hv => ?_⟩⟩ <;>
  · rw [h, if_neg (by decide), hv]

theorem State.Offers.exec_eq {s : State} {e : Instr} {p : Fin 12} {vc : Fin 2} {x : Pkt} {rest : List (Nat × Pkt)}
    (h : s.Offers e p vc x rest) :
    (s.dataWaits x = true → exec e s = .next s) ∧
    (s.dataWaits x = false →
      (∀ v, (s.consume p x rest).dataPkt x = some v → exec e s = .next (v.easeEarly x.dfld)) ∧
      ((s.consume p x rest).dataPkt x = none → exec e s = .next (s.raiseCond (Page.collengBase x.dfld) 3))) := by
  obtain ⟨rfl, ht, hty⟩ | ⟨rfl, ht, hty⟩ := h.kind <;>
  · obtain ⟨hw, hr⟩ := takeData_eq ht hty
    exact ⟨fun h => congrArg Host.Outcome.next (hw h), fun h => ⟨fun v hv => congrArg Host.Outcome.next ((hr h).1 v hv),
      fun hv => congrArg Host.Outcome.next ((hr h).2 hv)⟩⟩

theorem rxdrop_discardPkt {s : State} (hs : Store.Sorted s.regs) (f : Nat) (x : Pkt) (k : Nat) :
    (s.discardPkt f x k).rf (R.COL_RXDROP_COUNT f) = satAdd32 (s.rf (R.COL_RXDROP_COUNT f)) 1 := by
  have hb : (s.bump (R.COL_RXDROP_COUNT f) 1).rf (R.COL_RXDROP_COUNT f) = satAdd32 (s.rf (R.COL_RXDROP_COUNT f)) 1 :=
    (rf_bump_self hs (l := R.COL_RXDROP_COUNT f) (Nat.le_of_ble_eq_true rfl) 1).trans (satAdd32_mod _ _)
  have hne : ∀ k, k < 0x800 → k ≠ 0x110 → (R.COL_RXDROP_COUNT f).addr ≠ Page.collengBase f + k := fun k _ hk => by
    show A.COL_RXDROP f ≠ _
    unfold A.COL_RXDROP
    omega
  have h1 : Spares (R.COL_RXDROP_COUNT f) (s.bump (R.COL_RXDROP_COUNT f) 1) ((s.bump (R.COL_RXDROP_COUNT f) 1).raiseSrc (Page.collengBase f) 0) :=
    (Spares.refl _ _).raiseSrc (Loc.noErr_of_page (.inr (by
      show _ ≤ A.COL_RXDROP f
      unfold A.COL_RXDROP
      omega))) 0
  refine (Spares.rf ?_ (sorted_bump hs _ _)).trans hb
  unfold State.discardPkt
  refine h1.ite ?_
  exact ((((((h1.wf_far (hne _ (by decide) (by decide)) _).wf_far (hne _ (by decide) (by decide)) _).wf_far (hne _ (by decide) (by decide)) _).wf_far
    (hne _ (by decide) (by decide)) _).wf_far (hne _ (by decide) (by decide)) _).wf_far (hne _ (by decide) (by decide)) _)

theorem pair_setPair_self {s : State} (h : Store.Sorted s.pairs) (k : Nat) (x : PairSt) : (s.setPair k x).pair k = x := sgetD_sputD_self h _ _ _

theorem cond_raiseCond {s : State} (hc : s.Canon) (page bit : Nat) : ((s.raiseCond page bit).pair (pairKey page bit)).cond = true := by
  unfold State.raiseCond
  split
  · assumption
  · unfold State.condEvent
    dsimp only
    rw [pair_setPair_self ((State.raiseSrc_keeps (.refl s) page bit).canon hc).pairs]

theorem eng_easeEarly (s : State) (f g : Nat) : (s.easeEarly f).eng g = s.eng g :=
  eng_of_engines ((easeEarly_pairs (.refl 8589934592 s) rfl f).engines.resolve_left (by decide)) g

theorem early_keepEarly {s : State} (hs : Store.Sorted s.engines) (f c : Nat) (x : Pkt) :
    ((s.keepEarly f c x).eng f).early = (s.eng f).early ++ [(c, x)] := by
  have hself := eng_setEng_self hs f { s.eng f with early := (s.eng f).early ++ [(c, x)] }
  have hshow : ∀ u : State, (u.showEarly f c).engines = u.engines := fun u =>
    (State.showEarly_same (.refl 8 u) rfl f c).engines.resolve_left (by decide)
  have hrest : ∀ (u : State) a, ((u.freeBytes x.size).2.hbmWrite (.engine c f) a (u.freeBytes x.size).1).engines = u.engines := fun u a =>
    (State.hbmWrite_same (State.freeBytes_same (.refl 836444979210 u) rfl x.size) rfl _ _ _).engines.resolve_left (by decide)
  unfold State.keepEarly
  dsimp only
  split
  · rw [eng_of_engines (hshow _), hself]
  · rw [eng_of_engines (hrest _ _), eng_of_engines (hshow _), hself]

theorem step_of_opFor {s : State} {x : Pkt} {o : ColOp} (h : s.opFor x = some o) :
    s.colOp? x.dfld x.dctx x.opid = some o ∧ o.step = x.step := by
  unfold State.opFor at h
  obtain ⟨h1, h2⟩ := Option.filter_eq_some_iff.mp h
  exact ⟨h1, by simpa using h2⟩

/-! ### WRITE packets (R239, R287) -/

section SameEngines
variable {s u : State} (h : s.SameEngines u)
include h

theorem State.SameEngines.inPartition (c a n : Nat) : u.inPartition c a n = s.inPartition c a n :=
  FieldRegs.inPartition (fun a _ => reg_of_regs h.regs a) c a n

theorem State.SameEngines.writeOk (c a n : Nat) (bound reset : Bool) : u.writeOk c a n bound reset = s.writeOk c a n bound reset := by
  have hw : ∀ a, u.winOf a = s.winOf a := fun a => by
    unfold State.winOf
    rw [h.regions]
  have hb : ∀ b, u.byteWritable c b bound reset = s.byteWritable c b bound reset := fun b => by
    unfold State.byteWritable
    simp only [hw, region_of_regions h.regions, h.cstate]
  unfold State.writeOk
  simp only [hb]

theorem State.SameEngines.otherFenced (f a n : Nat) : u.otherFenced f a n = s.otherFenced f a n := by
  unfold State.otherFenced State.isFenced State.fenceOf
  rw [h.fences]

end SameEngines

/-- R239, R276: what a WRITE packet that has left the receive buffer does. -/
def State.writeTaken (u : State) (x : Pkt) : State :=
  let f := x.dfld
  let c := x.dctx
  let n := x.payload.length
  let en := if u.stepCurrent c then (u.ctx c).latch.writeEn.getD f false else u.flag (R.COL_CTX_WRITE_EN f c)
  if !u.resident c || !u.inMask c f then u.discardPkt f x 0
  else if !en then u.discardPkt f x 1
  else if !u.inPartition c x.addr n || !u.writeOk c x.addr n true true then u.discardPkt f x 2
  else if u.cstate c ≠ stReset ∧ (u.stepNear c x.step).isNone then u.discardPkt f x 3
  else if x.aux / 4 != 0 then u.discardPkt f x 6
  else if u.otherFenced f x.addr n then u
  else u.hbmWrite (.engine c f) x.addr x.payload

theorem execWritePacket_eq {p : Fin 12} {vc : Fin 2} {s : State} {x : Pkt} {rest : List (Nat × Pkt)}
    (ht : takeInbox p 0 vc s.inbox = some (x, rest)) (hty : x.ptype = 1) (hw : s.hbmWaits x.addr x.payload.length = false) :
    exec (.writePacket p vc) s = .next ((s.consume p x rest).writeTaken x) := by
  have hne : ¬(decide (x.ptype ≠ 1) || s.hbmWaits x.addr x.payload.length) = true := by
    rw [hty, hw]
    decide
  show execWritePacket p vc s = _
  unfold execWritePacket
  rw [ht]
  exact if_neg hne

/-- R287: whether the engine takes writes for the packet's context. -/
def State.takesWrites (u : State) (x : Pkt) : Bool :=
  if u.stepCurrent x.dctx then (u.ctx x.dctx).latch.writeEn.getD x.dfld false else u.flag (R.COL_CTX_WRITE_EN x.dfld x.dctx)

section Writes
variable {u : State} {x : Pkt}

theorem writeTaken_nowhere (h : (u.resident x.dctx && u.inMask x.dctx x.dfld) = false) : u.writeTaken x = u.discardPkt x.dfld x 0 :=
  if_pos (by rw [← Bool.not_and, h]; rfl)

theorem writeTaken_off (h1 : u.resident x.dctx = true) (h2 : u.inMask x.dctx x.dfld = true) (h3 : u.takesWrites x = false) :
    u.writeTaken x = u.discardPkt x.dfld x 1 :=
  (if_neg (by rw [h1, h2]; decide)).trans (if_pos (by unfold State.takesWrites at h3; rw [h3]; decide))

/-- R239, R287: a WRITE packet for a context that takes it. -/
theorem writeTaken_here (h1 : u.resident x.dctx = true) (h2 : u.inMask x.dctx x.dfld = true) (h3 : u.takesWrites x = true) :
    u.writeTaken x =
      if !u.inPartition x.dctx x.addr x.payload.length || !u.writeOk x.dctx x.addr x.payload.length true true then u.discardPkt x.dfld x 2
      else if u.cstate x.dctx ≠ stReset ∧ (u.stepNear x.dctx x.step).isNone then u.discardPkt x.dfld x 3
      else if x.aux / 4 != 0 then u.discardPkt x.dfld x 6
      else if u.otherFenced x.dfld x.addr x.payload.length then u
      else u.hbmWrite (.engine x.dctx x.dfld) x.addr x.payload :=
  (if_neg (by rw [h1, h2]; decide)).trans (if_neg (by unfold State.takesWrites at h3; rw [h3]; decide))

end Writes

/-- Settles O34. In RESET a WRITE packet of any step is stored (log 78); the bytes of a packet kept in the early store are free
values (log 77). -/
theorem collectivePacketsArrive : Obligations.CollectivePacketsArrive := by
  refine ⟨fun e p vc ty tc s u x rest hc he ht hty hu => ?_, fun p vc s u x rest n en near hc ht hty hu hn hw hen hnear => ?_⟩
  · have ho : s.Offers e p vc x rest := by
      obtain ⟨rfl, rfl, rfl⟩ | ⟨rfl, rfl, rfl⟩ := he
      · exact ⟨.inl ⟨rfl, ht, hty⟩⟩
      · exact ⟨.inr ⟨rfl, ht, hty⟩⟩
    refine ⟨ho.exec_eq.1, fun hw => ?_⟩
    obtain ⟨htake, hstay⟩ := ho.exec_eq.2 hw
    rw [← hu] at htake hstay
    have he : s.SameEngines u := hu ▸ sameEngines_consume s p x rest
    have hcons : Same 824633720832 s u := hu ▸ consume_same s p x rest
    have hbox : u.inbox = rest := hu ▸ inbox_consume s p x rest
    rw [← he.resident, ← he.inMask, ← he.stepNear, ← he.ctx, ← he.colOp, ← he.eng, ← he.earlyFits]
    refine ⟨fun hno => ?_, fun hres hin => ?_⟩
    · refine ⟨_, htake _ (dataPkt_nowhere hno), rfl, ?_, ?_, ?_⟩
      · exact Same.but (easeEarly_pairs (State.discardPkt_same (hcons.mono (N := 833223655432) rfl) rfl _ _ _) rfl _) rfl
      · rw [(easeEarly_pairs (State.discardPkt_same (.refl 8589934600 u) rfl _ _ _) rfl _).inbox.resolve_left (by decide), hbox]
      · rw [rf_of_regs (easeEarly_regs _ _), rxdrop_discardPkt (he.regs ▸ hc.regs), rf_of_regs he.regs]
    have hpkt := dataPkt_here hres hin
    refine ⟨fun o hop hst hf => ⟨_, htake _ (hpkt.trans (if_pos ?_)), rfl⟩, fun hall => ?_⟩
    · rw [State.opFor_some hop hst, Option.any_some, hf]
      rfl
    have hfrom : ¬(u.opFor x).any (fun o => !o.from x) = true := by
      cases hop : u.opFor x with
      | none => exact Bool.false_ne_true
      | some o =>
        obtain ⟨h1, h2⟩ := step_of_opFor hop
        rw [Option.any_some, hall o h1 h2]
        decide
    rw [if_neg hfrom] at hpkt
    refine ⟨fun hfar => ⟨_, htake _ (hpkt.trans (dataChecks_far hfar)), rfl⟩, fun hrun => ⟨fun hn hcl => ?_, fun o hn hop hst hcl => ?_,
      fun hor hk => ?_⟩⟩
    · exact ⟨_, htake _ (hpkt.trans (dataChecks_closed hn hrun hcl)), rfl⟩
    · exact ⟨_, htake _ (hpkt.trans (dataChecks_taken hn hrun hcl (State.opFor_some hop hst))), rfl⟩
    have hearly : u.dataPkt x = if u.earlyFits x.dfld x.dctx x then some (u.keepEarly x.dfld x.dctx x) else none := by
      obtain hn | ⟨hn, hnone, hcl⟩ := hor
      · exact hpkt.trans (dataChecks_early hn hrun (fun h => nomatch h) hk)
      · exact hpkt.trans (dataChecks_early hn hrun (fun _ => ⟨State.opFor_none hnone, hcl⟩) hk)
    refine ⟨fun hfit => ?_, fun hfit => ?_⟩
    · rw [if_pos hfit] at hearly
      refine ⟨_, htake _ hearly, rfl, ?_, ?_⟩
      · exact Same.but (easeEarly_pairs (State.keepEarly_same (hcons.mono (N := 1935956606986) rfl) rfl _ _ _) rfl _) rfl
      · rw [eng_easeEarly, early_keepEarly (he.engines ▸ hc.engines)]
    · rw [hfit, if_neg (by decide)] at hearly
      exact ⟨_, hstay hearly, Same.but (State.raiseCond_same (.refl 8589934600 s) rfl _ _) rfl, cond_raiseCond hc _ _⟩
  · subst hn hu
    have hrun := execWritePacket_eq ht hty hw
    have h := sameEngines_consume s p x rest
    generalize s.consume p x rest = u at *
    have hen' : u.takesWrites x = en := by
      rw [hen]
      unfold State.takesWrites
      rw [h.stepCurrent, h.ctx, flag_of_regs h.regs]
    rw [← h.cstate, ← h.stepNear] at hnear
    rw [← h.resident, ← h.inMask, ← h.inPartition, ← h.writeOk, ← h.otherFenced, hrun]
    subst hen'
    refine ⟨fun hno => congrArg Host.Outcome.next (writeTaken_nowhere hno), fun hres hin =>
      ⟨fun h0 => congrArg Host.Outcome.next (writeTaken_off hres hin h0), fun h1 hor => ?_, fun h1 hpart hok => ?_⟩⟩
    · rw [writeTaken_here hres hin h1, if_pos]
      obtain h | h := hor <;> rw [h] <;> simp
    · rw [writeTaken_here hres hin h1, hpart, hok, if_neg (by decide)]
      refine ⟨fun hfar => ?_, fun hin' haux hfen => ?_⟩
      · rw [hnear, Bool.or_eq_false_iff] at hfar
        rw [if_pos ⟨beq_eq_false_iff_ne.mp hfar.1, by rw [Option.isNone_iff_eq_none]; simpa using hfar.2⟩]
      · have hnot : ¬(u.cstate x.dctx ≠ stReset ∧ (u.stepNear x.dctx x.step).isNone = true) := fun ⟨ha, hb⟩ => by
          rw [hnear, beq_eq_false_iff_ne.mpr ha, Bool.false_or, ← Option.not_isNone, hb] at hin'
          exact absurd hin' (by decide)
        rw [if_neg hnot, haux, hfen, if_neg (by decide), if_neg (by decide)]
        exact ⟨_, rfl, rfl⟩

end Sys2Proof.Machine


/-! Mirror packets (R276, R279, R280, R308): O35. -/

namespace Sys2Proof.Machine

theorem region_setRegion_self {s : State} (h : Store.Sorted s.regions) (i : Nat) (r : Region) : (s.setRegion i r).region i = r :=
  sgetD_sputD_self h _ _ _

theorem region_setRegion_ne (s : State) {i j : Nat} (r : Region) (h : j ≠ i) : (s.setRegion i r).region j = s.region j :=
  sgetD_sputD_ne s.regions r {} h

theorem sorted_setRegion {s : State} (h : Store.Sorted s.regions) (i : Nat) (r : Region) : Store.Sorted (s.setRegion i r).regions :=
  sorted_sputD h _ _ _

theorem setRegion_frame (s : State) (i : Nat) (r : Region) : { s.setRegion i r with regions := s.regions } = s := rfl

theorem State.SameEngines.region {s u : State} (h : s.SameEngines u) (i : Nat) : u.region i = s.region i := region_of_regions h.regions i

theorem State.SameEngines.mirrorFor {s u : State} (h : s.SameEngines u) (x : Pkt) : u.mirrorFor x = s.mirrorFor x := by
  unfold State.mirrorFor
  rw [h.region, h.resident, h.inMask]

/-- R280: a mirror packet of kind `k` that the port has delivered and that need not wait. -/
theorem mirrorIn_eq {s : State} {p vc : Nat} {x : Pkt} {rest : List (Nat × Pkt)} {k : Nat} (ht : takeInbox p 0 vc s.inbox = some (x, rest))
    (hty : x.ptype = 4) (hk : x.kind = k) (hw : k = 0 → s.hbmWaits (s.mirrorAt x) x.payload.length = false)
    (act : Pkt → State → State) : s.mirrorIn p vc k act = act x (s.consume p x rest) := by
  unfold State.mirrorIn
  rw [ht]
  exact if_pos ⟨hty, hk, hw⟩

/-! ### The implied flip (R308) -/

/-- R308: one region of the implied flip. -/
def State.flipOne (step : Nat) (s : State) (i : Nat) : State :=
  if (s.region i).due step then s.setRegion i ((s.region i).flip step true) else s

/-- R308: a region that is due flips. -/
def Region.flipIfDue (r : Region) (step : Nat) : Region := if r.due step then r.flip step true else r

theorem not_due_flip (r : Region) (step n : Nat) (b : Bool) : (r.flip step b).due n = false := by
  unfold Region.due Region.flip
  simp

theorem flipIfDue_idem (r : Region) (step : Nat) : (r.flipIfDue step).flipIfDue step = r.flipIfDue step := by
  unfold Region.flipIfDue
  split
  · rw [if_neg (by rw [not_due_flip]; decide)]
  · rfl

theorem sorted_flipOne {s : State} (h : Store.Sorted s.regions) (step i : Nat) : Store.Sorted (s.flipOne step i).regions := by
  unfold State.flipOne
  split
  · exact sorted_setRegion h _ _
  · exact h

theorem region_flipOne {s : State} (h : Store.Sorted s.regions) (step i j : Nat) :
    (s.flipOne step i).region j = if j = i then (s.region j).flipIfDue step else s.region j := by
  unfold State.flipOne Region.flipIfDue
  by_cases hj : j = i
  · subst hj
    rw [if_pos rfl]
    split
    · exact region_setRegion_self h _ _
    · rfl
  · rw [if_neg hj]
    split
    · exact region_setRegion_ne s _ hj
    · rfl

theorem region_flips (step : Nat) : ∀ (l : List Nat) {s : State}, Store.Sorted s.regions → ∀ j,
    (l.foldl (State.flipOne step) s).region j = if j ∈ l then (s.region j).flipIfDue step else s.region j
  | [], s, _, j => by simp
  | i :: l, s, h, j => by
    rw [List.foldl_cons, region_flips step l (sorted_flipOne h step i), region_flipOne h]
    by_cases hj : j = i
    · subst hj
      rw [if_pos rfl, if_pos List.mem_cons_self]
      split
      · exact flipIfDue_idem _ _
      · rfl
    · rw [if_neg hj]
      simp [hj]

theorem sorted_flips (step : Nat) : ∀ (l : List Nat) {s : State}, Store.Sorted s.regions →
    Store.Sorted (l.foldl (State.flipOne step) s).regions
  | [], _, h => h
  | i :: l, _, h => sorted_flips step l (sorted_flipOne h step i)

theorem flips_frame (step : Nat) : ∀ (l : List Nat) (s : State), { l.foldl (State.flipOne step) s with regions := s.regions } = s
  | [], _ => rfl
  | i :: l, s => by
    have h := flips_frame step l (s.flipOne step i)
    have h1 : { s.flipOne step i with regions := s.regions } = s := by
      unfold State.flipOne
      split
      · exact setRegion_frame s _ _
      · rfl
    rw [List.foldl_cons]
    generalize l.foldl (State.flipOne step) (s.flipOne step i) = v at *
    exact (congrArg (fun u : State => { u with regions := s.regions }) h).trans h1

theorem flipDue_eq (s : State) (r : Region) (step : Nat) :
    s.flipDue r step = (s.mirrorsFrom r.ctx r.partDev r.partCtx).foldl (State.flipOne step) s := rfl

theorem mem_mirrorsFrom {s : State} {i : Nat} (hv : (s.region i).valid = true) (hm : (s.region i).mirrorRole = true) :
    i ∈ s.mirrorsFrom (s.region i).ctx (s.region i).partDev (s.region i).partCtx := by
  unfold State.region sgetD at *
  cases hg : sget? s.regions i with
  | none =>
    rw [hg] at hv
    exact absurd hv (by decide)
  | some r =>
    rw [hg] at hv hm
    have hv' : r.valid = true := hv
    have hm' : r.mirrorRole = true := hm
    exact List.mem_map.mpr ⟨(i, r), List.mem_filter.mpr ⟨mem_of_sget hg, by simp [hv', hm']⟩, rfl⟩

/-- R276: the region of a mirror packet that passes the checks is a valid mirror region. -/
theorem mirrorFor_none {s : State} {x : Pkt} (h : s.mirrorFor x = none) :
    (s.region x.mRegion).valid = true ∧ (s.region x.mRegion).mirrorRole = true := by
  unfold State.mirrorFor at h
  dsimp only at h
  split at h
  · cases h
  split at h
  · cases h
  split at h
  · cases h
  split at h
  · cases h
  · next hne =>
    simp only [Bool.or_eq_true, not_or, Bool.not_eq_true, Bool.not_eq_false'] at hne
    exact ⟨hne.1.1.1.1, hne.1.1.1.2⟩

/-! ### BEGIN (R280, R308) -/

/-- R280: a region whose pair of step and run is kept anew. -/
def Region.keeps (r : Region) (step run : Nat) : Region :=
  { r with kept := true, kstep := step, run := run, drained := false, flipped := false, applied := 0 }

/-- R308: the previous pair of region `i` flips with this BEGIN of step `step`. -/
def Region.flipsAt (r : Region) (step : Nat) : Bool := r.due r.kstep && step == (r.kstep + 1) % 2 ^ 32

/-- R280, R308: a BEGIN that passes the checks. -/
def State.mirrorBegun (u : State) (i step run : Nat) : State :=
  let v := if (u.region i).flipsAt step then u.flipDue (u.region i) (u.region i).kstep else u
  v.setRegion i ((v.region i).keeps step run)

theorem mirrorBegun_frame (u : State) (i step run : Nat) : { u.mirrorBegun i step run with regions := u.regions } = u := by
  unfold State.mirrorBegun
  dsimp only
  split
  · have h := flips_frame (u.region i).kstep (u.mirrorsFrom (u.region i).ctx (u.region i).partDev (u.region i).partCtx) u
    rw [flipDue_eq]
    generalize List.foldl (State.flipOne (u.region i).kstep) u _ = v at *
    exact h
  · exact setRegion_frame u _ _

/-- R308: what a BEGIN makes of region `j`: its own pair is kept anew, every region of the source that is due flips first. -/
theorem region_mirrorBegun {u : State} (h : Store.Sorted u.regions) {i : Nat} (hv : (u.region i).valid = true)
    (hm : (u.region i).mirrorRole = true) (step run : Nat) :
    ((u.mirrorBegun i step run).region i = (if (u.region i).flipsAt step then (u.region i).flip (u.region i).kstep true
      else u.region i).keeps step run) ∧
    ∀ j, j ≠ i → (u.mirrorBegun i step run).region j =
      if (u.region i).flipsAt step = true ∧ j ∈ u.mirrorsFrom (u.region i).ctx (u.region i).partDev (u.region i).partCtx ∧
        (u.region j).due (u.region i).kstep = true then (u.region j).flip (u.region i).kstep true else u.region j := by
  have hmem := mem_mirrorsFrom hv hm
  have hflips := region_flips (u.region i).kstep (u.mirrorsFrom (u.region i).ctx (u.region i).partDev (u.region i).partCtx) h
  have hsort := sorted_flips (u.region i).kstep (u.mirrorsFrom (u.region i).ctx (u.region i).partDev (u.region i).partCtx) h
  unfold State.mirrorBegun
  dsimp only
  rw [flipDue_eq]
  cases hf : (u.region i).flipsAt step with
  | false =>
    simp only [Bool.false_eq_true, if_false, false_and]
    exact ⟨region_setRegion_self h _ _, fun j hj => region_setRegion_ne u _ hj⟩
  | true =>
    have hdue : (u.region i).due (u.region i).kstep = true := by
      unfold Region.flipsAt at hf
      exact (Bool.and_eq_true _ _ ▸ hf).1
    simp only [if_true, true_and]
    refine ⟨?_, fun j hj => ?_⟩
    · rw [region_setRegion_self hsort, hflips, if_pos hmem, Region.flipIfDue, if_pos hdue]
    · rw [region_setRegion_ne _ _ hj, hflips]
      unfold Region.flipIfDue
      split <;> simp_all

/-! ### The failure of a mirror (R280) -/

theorem failMirror_fails {s : State} (hc : s.Canon) {i : Nat} {r : Region} (hr : r = s.region i) :
    s.SameBut (s.failMirror i) [.regs, .regions, .pairs] ∧ (s.failMirror i).region i = { r with ackFailed := true } ∧
    (∀ j, j ≠ i → (s.failMirror i).region j = s.region j) ∧
    (r.field < 4 → r.ctx < 64 →
      (s.failMirror i).rf (R.COL_MIRFAIL_COUNT r.field) = satAdd32 (s.rf (R.COL_MIRFAIL_COUNT r.field)) 1 ∧
      (s.cstate r.ctx = stRunning → (s.failMirror i).cstate r.ctx = stBlocked)) := by
  subst hr
  have hsame := State.failMirror_same (.refl 9663676424 s) rfl i
  have hreg : (s.failMirror i).regions = (s.setRegion i { s.region i with ackFailed := true }).regions := by
    unfold State.failMirror
    have hb : ∀ u : State, (((u.bump (R.COL_MIRFAIL_COUNT (s.region i).field) 1).raiseFor (Page.collengBase (s.region i).field) 2
        (some (s.region i).ctx)).blockCause (s.region i).ctx 4).regions = u.regions := fun u =>
      (State.blockCause_same (State.raiseFor_same (State.bump_same (.refl 8589934600 u) rfl _ _) rfl _ _ _) rfl _ _).regions.resolve_left
        (by decide)
    exact hb _
  refine ⟨hsame.but rfl, ?_, fun j hj => ?_, fun hf hx => ?_⟩
  · rw [region_of_regions hreg, region_setRegion_self hc.regions]
  · rw [region_of_regions hreg, region_setRegion_ne _ _ hj]
  · have h0 : Store.Sorted (s.setRegion i { s.region i with ackFailed := true }).regs := hc.regs
    have h1 := sorted_bump h0 (R.COL_MIRFAIL_COUNT (s.region i).field) 1
    have h2 := sorted_raiseFor h1 (Page.collengBase (s.region i).field) 2 (some (s.region i).ctx)
    have hne : A.COL_MIRFAIL (s.region i).field ≠ A.CMT_CSTAT (s.region i).ctx := by
      unfold A.COL_MIRFAIL A.CMT_CSTAT Page.collengBase Page.fieldBase Page.commitBase
      omega
    have hin : (R.CMT_CSTAT_STATE (s.region i).ctx).InCommit := inCommit hx (k := 0) (by decide) rfl
    have hcst : ∀ u : State, Store.Sorted u.regs → ((u.bump (R.COL_MIRFAIL_COUNT (s.region i).field) 1).raiseFor
        (Page.collengBase (s.region i).field) 2 (some (s.region i).ctx)).cstate (s.region i).ctx = u.cstate (s.region i).ctx := fun u hu =>
      (((Spares.refl _ u).bump (ne_colleng hin.noNet.2 _ _) 1).raiseFor (noErr_high hin.noNet.2 (collengBase_high _)) 2 _).rf hu
    unfold State.failMirror
    refine ⟨?_, fun hrun => cstate_blockCause h2 _ _ ((hcst _ h0).trans hrun)⟩
    refine (rf_congr (blockCause_reg _ _ _ hne)).trans ((rf_congr (raiseFor_reg _ _ _ _ ?_)).trans ?_)
    · show A.COL_MIRFAIL _ ≠ A.ERR_STAT _ ∧ A.COL_MIRFAIL _ ≠ A.ERR_CNT _ ∧ A.COL_MIRFAIL _ ≠ A.ERR_FIRST _
      unfold A.COL_MIRFAIL A.ERR_STAT A.ERR_CNT A.ERR_FIRST
      omega
    · exact (rf_bump_self h0 (l := R.COL_MIRFAIL_COUNT _) (Nat.le_of_ble_eq_true rfl) 1).trans (satAdd32_mod _ _)

/-- R280: the answer of region `r` to the END `x`. -/
def Region.ackFor (r : Region) (x : Pkt) : Pkt :=
  { ptype := 4, tc := 0, vc := 0, dst := r.partDev, src := 0, dctx := r.partCtx, len := 0, life := 0, opid := 0,
    step := x.step, addr := 0, own := some r.ctx,
    aux := r.partFld + 4 * 3 + 16 * r.partReg + 2 ^ 16 * (r.applied % 2 ^ 24) + 2 ^ 40 * x.run, payload := [] }

/-- Settles O35. A pair of data and END that is not the kept one is stale (log 14). -/
theorem mirrorPacketsAct : Obligations.MirrorPacketsAct := by
  refine ⟨fun p vc s u x rest i r flips hc ht hty hu hi hr hflips => ?_, fun i s r hc hr hv hm hmir hend hack hfail hcur =>
    ⟨_, congrArg Host.Outcome.next (if_pos ?_), failMirror_fails hc hr⟩⟩
  · have he : s.SameEngines u := hu ▸ sameEngines_consume s p x rest
    have hcons : Same 824633720832 s u := hu ▸ consume_same s p x rest
    have hsort : Store.Sorted u.regions := he.regions ▸ hc.regions
    have hfor' := he.mirrorFor x
    have hin := fun {k : Nat} (hk : x.kind = k) (hw : k = 0 → s.hbmWaits (s.mirrorAt x) x.payload.length = false) act =>
      hu ▸ mirrorIn_eq (rest := rest) ht hty hk hw act
    subst hi
    rw [← he.region] at hr
    refine ⟨fun hk hfor => ?_, fun hk hfor _ _ _ _ _ hw => ?_, fun hk hfor _ _ _ => ?_, fun k e hke hk hw cause hcause => ?_,
      fun hk hres hmask hv hm hmir hctx hdev hcur hst hrun hend hcnt => ?_⟩
    · obtain ⟨hv, hm⟩ := mirrorFor_none (hfor'.trans hfor)
      have hrun : exec (.mirrorBegin p vc) s = .next (u.mirrorBegun x.mRegion x.step x.run) := by
        refine congrArg Host.Outcome.next ((hin hk (fun h => absurd h (by decide)) _).trans ?_)
        rw [hfor', hfor]
        rfl
      obtain ⟨hself, hother⟩ := region_mirrorBegun hsort hv hm x.step x.run
      have hfl : (u.region x.mRegion).flipsAt x.step = flips := by
        rw [hflips, hr]
        rfl
      have hmir : ∀ c d e, u.mirrorsFrom c d e = s.mirrorsFrom c d e := fun c d e => by
        unfold State.mirrorsFrom
        rw [he.regions]
      rw [hfl, ← hr] at hself hother
      refine ⟨_, hrun, he.regions ▸ mirrorBegun_frame u _ _ _, ?_⟩
      rw [hself]
      refine ⟨rfl, rfl, rfl, rfl, rfl, rfl, ?_, ?_, fun j hj => ?_⟩
      · cases flips
        · exact (Bool.bne_false _).symm
        · exact (Bool.bne_true _).symm
      · cases flips
        · exact (Bool.or_false _).symm
        · exact (Bool.or_true _).symm
      · rw [hother j hj, hmir, he.region]
    · have hself := region_setRegion_self hsort x.mRegion { r with applied := r.applied + 1, back := false }
      have hat : (u.setRegion x.mRegion { r with applied := r.applied + 1, back := false }).mirrorAt x =
          r.field * 2 ^ 39 + r.copy1 * 4096 + x.addr := by
        unfold State.mirrorAt
        rw [hself]
      refine ⟨_, congrArg Host.Outcome.next ((hin hk (fun _ => hw) _).trans ?_), rfl, ?_⟩
      · rw [hfor', hfor, ← hr, ← hat]
      · have hkept := ((RegionsKept.refl _).hbmWrite (.engine r.ctx r.field) (r.field * 2 ^ 39 + r.copy1 * 4096 + x.addr) x.payload).unsent
          (sorted_setRegion hsort x.mRegion { r with applied := r.applied + 1, back := false }) x.mRegion
        exact (congrArg Region.applied hkept :).trans (congrArg Region.applied hself)
    · have hself := region_setRegion_self hsort x.mRegion { r with drained := r.applied % 2 ^ 24 == x.mCount }
      have hother := fun j (hj : j ≠ x.mRegion) => region_setRegion_ne u { r with drained := r.applied % 2 ^ 24 == x.mCount } hj
      have hsend := fun ack => State.sendPkt_same (.refl 833223655432
        (u.setRegion x.mRegion { r with drained := r.applied % 2 ^ 24 == x.mCount })) rfl r.field ack
      refine ⟨(u.setRegion x.mRegion { r with drained := r.applied % 2 ^ 24 == x.mCount }).sendPkt r.field (r.ackFor x),
        congrArg Host.Outcome.next ((hin hk (fun h => absurd h (by decide)) _).trans ?_), ?_, fun ack hack => ?_, ?_, fun j hj => ?_⟩
      · rw [hfor', hfor, ← hr]
        rfl
      · exact Same.but (State.sendPkt_same (State.setRegion_same (hcons.mono (N := 834297397256) rfl) rfl _ _) rfl _ _) rfl
      · rw [hack]
        rfl
      · rw [region_of_regions ((hsend _).regions.resolve_left (by decide)), hself]
      · rw [region_of_regions ((hsend _).regions.resolve_left (by decide)), hother j hj, he.region]
    · simp only [List.mem_cons, Prod.mk.injEq, List.not_mem_nil, or_false] at hke
      obtain ⟨rfl, rfl⟩ | ⟨rfl, rfl⟩ | ⟨rfl, rfl⟩ := hke <;>
      · refine congrArg Host.Outcome.next ((hin hk hw _).trans ?_)
        rw [hfor', hcause]
    · refine ⟨u.setRegion x.mRegion { r with ackDrained := true }, congrArg Host.Outcome.next ((hin hk (fun h => absurd h (by decide)) _).trans ?_),
        he.regions ▸ setRegion_frame u _ _, region_setRegion_self hsort _ _, fun j hj => (region_setRegion_ne u _ hj).trans (he.region j)⟩
      have hstep : u.stepOf r.ctx = x.step := (rf_of_regs he.regs _).trans hst.symm
      have hrun' : x.run = (u.ctx r.ctx).latch.runs.getD r.field 0 := by rw [he.ctx, hrun]
      dsimp only
      rw [← hr, he.resident, he.inMask, he.stepCurrent, hres, hmask, hcur, hstep, hv, hm, hmir, hend, ← hrun', hctx, hdev, hcnt]
      simp
  · rw [← hr, hv, hm, hmir, hend, hack, hfail, hcur]
    rfl

end Sys2Proof.Machine


/-! Tokens (R296, R303 to R305, R308): O36. -/

namespace Sys2Proof.Machine

/-! ### Operations on regions one by one -/

/-- `h` changes region `i` by `f` and nothing else. -/
structure RegionOp (f : Region → Region) (h : State → Nat → State) : Prop where
  sorted : ∀ {s : State}, Store.Sorted s.regions → ∀ i, Store.Sorted (h s i).regions
  region : ∀ {s : State}, Store.Sorted s.regions → ∀ i j, (h s i).region j = if j = i then f (s.region j) else s.region j
  frame : ∀ (s : State) (i : Nat), { h s i with regions := s.regions } = s

theorem RegionOp.set (f : Region → Region) : RegionOp f fun s i => s.setRegion i (f (s.region i)) where
  sorted hs i := sorted_setRegion hs i _
  region hs i j := by
    split
    · next h =>
      subst h
      exact region_setRegion_self hs _ _
    · next h => exact region_setRegion_ne _ _ h
  frame s i := setRegion_frame s i _

/-- The same for the regions that pass a test. -/
theorem RegionOp.when (p : Region → Bool) (f : Region → Region) :
    RegionOp (fun r => if p r then f r else r) fun s i => if p (s.region i) then s.setRegion i (f (s.region i)) else s where
  sorted hs i := by
    split
    · exact sorted_setRegion hs i _
    · exact hs
  region {s} hs i j := by
    by_cases hj : j = i
    · subst hj
      rw [if_pos rfl]
      split
      · exact region_setRegion_self hs _ _
      · rfl
    · rw [if_neg hj]
      split
      · exact region_setRegion_ne s _ hj
      · rfl
  frame s i := by
    split
    · exact setRegion_frame s i _
    · rfl

theorem RegionOp.foldl_region {f : Region → Region} {h : State → Nat → State} (ho : RegionOp f h) :
    ∀ (l : List Nat), l.Nodup → ∀ {s : State}, Store.Sorted s.regions → ∀ j,
    (l.foldl h s).region j = if j ∈ l then f (s.region j) else s.region j
  | [], _, s, _, j => by simp
  | i :: l, hn, s, hs, j => by
    obtain ⟨hni, hn⟩ := List.nodup_cons.mp hn
    rw [List.foldl_cons, ho.foldl_region l hn (ho.sorted hs i), ho.region hs]
    by_cases hj : j = i
    · subst hj
      rw [if_pos rfl, if_neg hni, if_pos List.mem_cons_self]
    · rw [if_neg hj]
      simp [hj]

theorem RegionOp.foldl_frame {f : Region → Region} {h : State → Nat → State} (ho : RegionOp f h) :
    ∀ (l : List Nat) (s : State), { l.foldl h s with regions := s.regions } = s
  | [], _ => rfl
  | i :: l, s => by
    have h1 := ho.foldl_frame l (h s i)
    have h2 := ho.frame s i
    rw [List.foldl_cons]
    generalize l.foldl h (h s i) = v at *
    exact (congrArg (fun u : State => { u with regions := s.regions }) h1).trans h2

/-- The keys of a sorted store are distinct. -/
theorem nodup_keys {α : Type} {t : Store α} (h : Store.Sorted t) (p : Nat × α → Bool) : ((t.filter p).map Prod.fst).Nodup := by
  refine List.pairwise_map.mpr ((List.Pairwise.filter p h).imp fun hab e => ?_)
  exact absurd hab (by rw [e]; exact Nat.lt_irrefl _)

theorem nodup_mirrorsOf {s : State} (h : Store.Sorted s.regions) (t : Token) : (s.mirrorsOf t).Nodup := nodup_keys h _

/-! ### A token at its port -/

theorem takeToken_eq {s : State} {p vc k : Nat} {x : Pkt} {rest : List (Nat × Pkt)} (ht : takeInbox p 2 vc s.inbox = some (x, rest))
    (hty : x.ptype = 5) (hk : (Token.of x).kind = k ∨ (Token.of x).kind > 4) (act : Token → State → State) :
    (∀ cause, (s.consume p x rest).tokenCause (Token.of x) = some cause →
      s.takeToken p vc k act = (s.consume p x rest).dropToken (Token.of x) cause) ∧
    ((s.consume p x rest).tokenCause (Token.of x) = none → s.takeToken p vc k act = act (Token.of x) (s.consume p x rest)) := by
  have hif : ¬(x.ptype ≠ 5 ∨ ((Token.of x).kind ≠ k ∧ (Token.of x).kind ≤ 4)) := by omega
  unfold State.takeToken
  rw [ht]
  dsimp only
  rw [if_neg hif]
  refine ⟨fun cause hc => ?_, fun hc => ?_⟩ <;> rw [hc]

theorem count_dropToken {s : State} (hs : Store.Sorted s.regs) (t : Token) (k : Nat) :
    (s.dropToken t k).rf R.CMT_TOK_DROP_COUNT = satAdd32 (s.rf R.CMT_TOK_DROP_COUNT) 1 := by
  have hb : (s.bump R.CMT_TOK_DROP_COUNT 1).rf R.CMT_TOK_DROP_COUNT = satAdd32 (s.rf R.CMT_TOK_DROP_COUNT) 1 :=
    (rf_bump_self hs (l := R.CMT_TOK_DROP_COUNT) (Nat.le_of_ble_eq_true rfl) 1).trans (satAdd32_mod _ _)
  have h1 : Spares R.CMT_TOK_DROP_COUNT (s.bump R.CMT_TOK_DROP_COUNT 1) ((s.bump R.CMT_TOK_DROP_COUNT 1).raiseSrc Page.commitBase 0) :=
    (Spares.refl _ _).raiseSrc (Loc.noErr_of_page (.inr (by decide))) 0
  refine (Spares.rf ?_ (sorted_bump hs _ _)).trans hb
  unfold State.dropToken
  refine h1.ite ?_
  exact ((((((h1.wf_far (by decide) _).wf_far (by decide) _).wf_far (by decide) _).wf_far (by decide) _).wf_far (by decide) _).wf_far
    (by decide) _)

/-- R308: a mirror region flips back from the flip of `step`. -/
def Region.flipBack (r : Region) (step : Nat) : Region :=
  { r with
    live := !r.live, mstep := (step + 2 ^ 32 - 1) % 2 ^ 32, back := false
    flipped := r.flipped && r.kstep != step }

/-- Settles O36. -/
theorem tokensAct : Obligations.TokensAct := by
  intro p vc rings s u x rest k hc ht hty hu hk
  have he : s.SameEngines u := hu ▸ sameEngines_consume s p x rest
  have hcons : Same 824633720832 s u := hu ▸ consume_same s p x rest
  have hsort : Store.Sorted u.regions := he.regions ▸ hc.regions
  have hmir : u.mirrorsOf k = s.mirrorsOf k := by
    unfold State.mirrorsOf State.mirrorsFrom
    rw [he.regions]
  have hnd : (s.mirrorsOf k).Nodup := nodup_mirrorsOf hc.regions k
  have htake := fun {n : Nat} (h : k.kind = n ∨ k.kind > 4) act => by
    have := takeToken_eq (k := n) ht hty (hk ▸ h) act
    rw [← hu, ← hk] at this
    exact this
  refine ⟨fun n e cause hne hkind hcause => ⟨u.dropToken k cause, ?_, rfl, ?_, ?_⟩, fun hnone => ?_⟩
  · simp only [List.mem_cons, Prod.mk.injEq, List.not_mem_nil, or_false] at hne
    obtain ⟨rfl, rfl⟩ | ⟨rfl, rfl⟩ | ⟨rfl, rfl⟩ | ⟨rfl, rfl⟩ | ⟨rfl, rfl⟩ := hne <;>
    exact congrArg Host.Outcome.next ((htake hkind _).1 cause hcause)
  · exact Same.but (State.dropToken_same (hcons.mono (N := 833223655432) rfl) rfl k cause) rfl
  · rw [count_dropToken (he.regs ▸ hc.regs), rf_of_regs he.regs]
  have hrun := fun {n : Nat} (h : k.kind = n) act => (htake (.inl h) act).2 hnone
  refine ⟨fun h hh => ?_, fun h hh => ?_, fun h => ⟨_, congrArg Host.Outcome.next (hrun h _), rfl⟩,
    fun h => ⟨_, congrArg Host.Outcome.next (hrun h _), rfl⟩, fun h hall => ?_, fun h hex => ?_, fun h => ?_⟩
  · refine ⟨_, congrArg Host.Outcome.next ((hrun h _).trans (if_pos hh)), he.ctxs ▸ rfl, ?_⟩
    rw [ctx_setCtx_self (he.ctxs ▸ hc.ctxs), he.ctx]
  · exact ⟨_, congrArg Host.Outcome.next ((hrun h _).trans (if_neg (by rw [hh]; decide))), rfl⟩
  · have hop := RegionOp.set fun r => r.flip k.step false
    have hif : ((u.mirrorsOf k).all fun i => (u.region i).drained && (u.region i).kstep == k.step) = true := by
      rw [hmir, List.all_eq_true]
      intro i hi
      rw [he.region, (hall i hi).1, (hall i hi).2]
      simp
    refine ⟨_, congrArg Host.Outcome.next ((hrun h _).trans (if_pos hif)), he.regions ▸ hop.foldl_frame _ u, fun i hi => ?_, fun i hi => ?_⟩
    · rw [hmir, hop.foldl_region _ hnd hsort, if_neg hi, he.region]
    · rw [hmir, hop.foldl_region _ hnd hsort, if_pos hi, he.region]
  · obtain ⟨i, hi, hne⟩ := hex
    have hif : ¬((u.mirrorsOf k).all fun i => (u.region i).drained && (u.region i).kstep == k.step) = true := by
      rw [hmir, List.all_eq_true]
      intro hall
      have := hall i hi
      rw [he.region, Bool.and_eq_true, beq_iff_eq] at this
      obtain h | h := hne
      · exact absurd (h.symm.trans this.1) (by decide)
      · exact h this.2
    exact ⟨_, congrArg Host.Outcome.next ((hrun h _).trans (if_neg hif)), rfl,
      ((State.raiseSrc_same (.refl 8589934600 u) rfl _ _).regions.resolve_left (by decide)).trans he.regions⟩
  · have hop := RegionOp.when (fun r => r.back && r.mstep == k.step) fun r => r.flipBack k.step
    refine ⟨_, congrArg Host.Outcome.next (hrun h _), he.regions ▸ hop.foldl_frame _ u, fun i hi => ?_, fun i hi => ?_⟩
    · rw [hmir]
      refine (hop.foldl_region _ hnd hsort i).trans ?_
      rw [if_neg hi, he.region]
    · rw [hmir]
      refine (hop.foldl_region _ hnd hsort i).trans ?_
      rw [if_pos hi, he.region]
      unfold Region.flipBack
      simp only [Bool.and_eq_true, beq_iff_eq]

end Sys2Proof.Machine


/-! Ports (R222 to R241): what a slot stream leaves of a port's link. -/

namespace Sys2Proof.Machine

theorem sameBut_of_next {c : Instr} {s t : State} (h : exec c s = .next t) : s.SameBut t c.touches := by
  have hf := exec_frame c s
  rwa [h] at hf

/-! ### Ports and their registers -/

theorem port_setPort_self {s : State} (h : Store.Sorted s.ports) (p : Nat) (y : PortSt) : (s.setPort p y).port p = y := sgetD_sputD_self h _ _ _

theorem port_setPort_ne (s : State) {p q : Nat} (y : PortSt) (h : q ≠ p) : (s.setPort p y).port q = s.port q := sgetD_sputD_ne s.ports y {} h

theorem sorted_setPort {s : State} (h : Store.Sorted s.ports) (p : Nat) (y : PortSt) : Store.Sorted (s.setPort p y).ports := sorted_sputD h _ _ _

theorem port_of_ports {s t : State} (h : t.ports = s.ports) (p : Nat) : t.port p = s.port p := by
  unfold State.port
  rw [h]

/-- What of a port the flit layer keeps while slots pass: phase, sequence number, wait, replay buffer, credits. -/
def PortSt.link (y : PortSt) : Nat × Nat × Bool × List RFlit × List Nat := (y.phase, y.rxSeq, y.waiting, y.replay, y.credits)

/-- From `s` to `t` port `p` keeps its state and its link. -/
structure LinkSame (p : Nat) (s t : State) : Prop where
  ports : Store.Sorted s.ports → Store.Sorted t.ports
  spares : Spares (R.MBL_STAT_STATE p) s t
  link : Store.Sorted s.ports → (t.port p).link = (s.port p).link

theorem LinkSame.refl (p : Nat) (s : State) : LinkSame p s s := ⟨id, .refl _ s, fun _ => rfl⟩

theorem LinkSame.trans {p : Nat} {s t u : State} (h : LinkSame p s t) (k : LinkSame p t u) : LinkSame p s u :=
  ⟨fun hs => k.ports (h.ports hs), h.spares.trans k.spares, fun hs => (k.link (h.ports hs)).trans (h.link hs)⟩

theorem LinkSame.setPort {p : Nat} {s0 s : State} (hk : LinkSame p s0 s) {q : Nat} {y : PortSt} (h : y.link = (s.port q).link) :
    LinkSame p s0 (s.setPort q y) := by
  refine hk.trans ⟨fun hs => sorted_setPort hs _ _, .of_regs rfl, fun hs => ?_⟩
  by_cases e : p = q
  · subst e
    rw [port_setPort_self hs, h]
  · rw [port_setPort_ne s y e]

theorem LinkSame.regs {p : Nat} {s0 s t : State} (hk : LinkSame p s0 s) (hp : t.ports = s.ports) (hr : Spares (R.MBL_STAT_STATE p) s t) :
    LinkSame p s0 t :=
  hk.trans ⟨fun hs => by rw [hp]; exact hs, hr, fun _ => by rw [port_of_ports hp]⟩

theorem LinkSame.ite {p : Nat} {s0 s t : State} {c : Prop} [Decidable c] (h : LinkSame p s0 s) (k : LinkSame p s0 t) :
    LinkSame p s0 (if c then s else t) := by
  split
  · exact h
  · exact k

theorem portBase_high (p : Nat) : 0x1000000 ≤ Page.portBase p := by
  unfold Page.portBase Page.fieldBase
  omega

theorem linkUp_congr {p : Nat} {s t : State} (h : LinkSame p s t) (hr : Store.Sorted s.regs) (hp : Store.Sorted s.ports) :
    t.linkUp p = s.linkUp p := by
  have h1 : t.pstate p = s.pstate p := h.spares.rf hr
  have h2 : (t.port p).phase = (s.port p).phase := (congrArg Prod.fst (h.link hp) :)
  unfold State.linkUp State.pphase
  rw [h1, h2]

/-! ### A failed port (R226) -/

/-- R226: a port going down, before its registers show it. -/
def State.unplugged (s : State) (p st : Nat) : State :=
  let s := (s.stopPll (10 + p)).cutThrough p
  let y := s.port p
  let s := ((y.held ++ y.cur.toList ++ y.sCur.toList).filter fun x => x.from_ != p).foldl State.discardOut s
  s.setPort p { rx := y.rx ++ y.last.toList ++ y.sLast.toList, ctl := [], hbNum := y.hbNum, lastSrc := y.lastSrc, wrr := y.wrr, phase := st }

theorem portDown_eq (s : State) (p st : Nat) : s.portDown p st =
    (((s.unplugged p st).wf (R.MBL_STAT_STATE p) st).wf (R.MBL_STAT_WIDTH p) 3).wf (R.MBL_STAT_SECURE p) 0 := rfl

theorem sorted_unplugged {s : State} (h : Store.Sorted s.regs) (p st : Nat) : Store.Sorted (s.unplugged p st).regs := by
  have hreg : (s.unplugged p st).regs = (s.stopPll (10 + p)).regs := by
    have h1 : ∀ (t : State) q y, (t.setPort q y).regs = t.regs := fun _ _ _ => rfl
    have h2 := fun (t : State) l => (foldl_same (l := l) (fun _ x h => State.discardOut_same h rfl x) (.refl 274877906944 t)).regs.resolve_left
      (by decide)
    have h3 : ((s.stopPll (10 + p)).cutThrough p).regs = (s.stopPll (10 + p)).regs :=
      (State.cutThrough_same (.refl 274877906944 (s.stopPll (10 + p))) rfl p).regs.resolve_left (by decide)
    unfold State.unplugged
    exact (h1 _ _ _).trans ((h2 _ _).trans h3)
  rw [hreg]
  unfold State.stopPll State.setPll
  split
  · exact h
  · exact sorted_wf (sorted_wf (sorted_wf h _ _) _ _) _ _

theorem pstate_portDown {s : State} (h : Store.Sorted s.regs) (p : Nat) {st : Nat} (hst : st < 16) : (s.portDown p st).pstate p = st := by
  have h1 := sorted_unplugged h p st
  have h2 := sorted_wf h1 (R.MBL_STAT_STATE p) st
  have h3 := sorted_wf h2 (R.MBL_STAT_WIDTH p) 3
  rw [portDown_eq]
  refine (rf_wf_bits h3 _ (Nat.le_of_ble_eq_true rfl) (.inl (Nat.le_of_ble_eq_true rfl))).trans
    ((rf_wf_bits h2 _ (Nat.le_of_ble_eq_true rfl) (.inl (Nat.le_of_ble_eq_true rfl))).trans ?_)
  exact (rf_wf_self h1 (Nat.le_of_ble_eq_true rfl) st).trans (Nat.mod_eq_of_lt hst)

theorem noErr_stat (p : Nat) : (R.MBL_STAT_STATE p).NoErr (Page.portBase p) := Loc.noErr_of_page (.inr (by
  show _ ≤ A.MBL_STAT p
  unfold A.MBL_STAT
  omega))

theorem pstate_portFail {s : State} (h : Store.Sorted s.regs) (p bit : Nat) : (s.portFail p bit).pstate p = pFailed := by
  have hd := pstate_portDown h p (st := pFailed) (by decide)
  have hs : Store.Sorted (s.portDown p pFailed).regs := by
    rw [portDown_eq]
    exact sorted_wf (sorted_wf (sorted_wf (sorted_unplugged h p _) _ _) _ _) _ _
  unfold State.portFail
  generalize s.portDown p pFailed = u at *
  exact (((Spares.refl (R.MBL_STAT_STATE p) u).raiseSrc (noErr_stat p) bit).rf hs).trans hd

theorem linkUp_of_failed {s : State} {p : Nat} (h : s.pstate p = pFailed) : s.linkUp p = false := by
  unfold State.linkUp State.pphase
  rw [h]
  rfl

/-! ### Slots (R237, R240, R241) -/

theorem LinkSame.releaseLast {p : Nat} {s0 s : State} (hk : LinkSame p s0 s) (abort : Bool) : LinkSame p s0 (s.releaseLast p abort) := by
  unfold State.releaseLast
  dsimp only
  split
  · exact hk.setPort (by rfl)
  · exact (hk.setPort (by rfl)).setPort (by rfl)
  · exact hk

theorem LinkSame.freeRx {p : Nat} {s0 s : State} (hk : LinkSame p s0 s) (buf len : Nat) : LinkSame p s0 (s.freeRx p buf len) := hk.setPort (by rfl)

theorem LinkSame.forwardSlot {p : Nat} {s0 s : State} (hk : LinkSame p s0 s) (o : Nat) (bs : List Byte) :
    LinkSame p s0 (s.forwardSlot p o bs) := hk.setPort (by rfl)

theorem LinkSame.dropPkt {p : Nat} {s0 s : State} (hk : LinkSame p s0 s) (hp : p < 8) (x : Pkt) (k : Nat) : LinkSame p s0 (s.dropPkt p x k) := by
  have hne : ∀ {j : Nat}, j ≠ 0x104 → (R.MBL_STAT_STATE p).addr ≠ Page.portBase p + j := fun hj => by
    show A.MBL_STAT p ≠ _
    unfold A.MBL_STAT
    omega
  have h1 : Spares (R.MBL_STAT_STATE p) s ((s.bump (R.MBL_DROP_CNT_COUNT p) 1).raiseSrc (Page.portBase p) 6) :=
    ((Spares.refl _ s).bump (hne (j := 0x140) (by decide)) 1).raiseSrc (noErr_stat p) 6
  refine hk.regs ((State.dropPkt_same (.refl 8589934600 s) rfl p x k).ports.resolve_left (by decide)) ?_
  unfold State.dropPkt
  rw [if_pos hp]
  refine h1.ite ?_
  exact ((((((h1.wf_far (hne (j := 0x144) (by decide)) _).wf_far (hne (j := 0x144) (by decide)) _).wf_far (hne (j := 0x144) (by decide)) _).wf_far
    (hne (j := 0x144) (by decide)) _).wf_far (hne (j := 0x148) (by decide)) _).wf_far (hne (j := 0x14c) (by decide)) _)

theorem LinkSame.finishAsm {p : Nat} {s0 s : State} (hk : LinkSame p s0 s) : LinkSame p s0 (s.finishAsm p) := by
  have hclear : ∀ {t : State}, LinkSame p s0 t → LinkSame p s0 (t.setPort p { t.port p with asm := [], asmRoute := .unrouted }) := fun h =>
    h.setPort (by rfl)
  unfold State.finishAsm
  dsimp only
  split
  · exact hclear (hk.freeRx _ _)
  · refine LinkSame.ite ?_ (LinkSame.freeRx ?_ _ _) <;> exact (hclear hk).setPort (by rfl)
  · exact (hclear hk).setPort (by rfl)
  · exact (hclear hk).setPort (by rfl)

/-- The port goes on as it was, or is down. -/
def LinkGoes (p : Nat) (s t : State) : Prop := LinkSame p s t ∨ t.linkUp p = false

theorem LinkGoes.then {p : Nat} {s t u : State} (h : LinkGoes p s t) (ht : t.Canon) (k : LinkSame p t u) : LinkGoes p s u :=
  h.elim (fun h => .inl (h.trans k)) fun h => .inr ((linkUp_congr k ht.regs ht.ports).trans h)

theorem linkGoes_headerIn {p : Nat} (hp : p < 8) {s0 s : State} (hk : LinkSame p s0 s) (hr : Store.Sorted s.regs) :
    LinkGoes p s0 (s.headerIn p) := by
  unfold State.headerIn
  dsimp only
  split
  · exact .inr (linkUp_of_failed (pstate_portFail hr p 2))
  left
  exact ((hk.dropPkt hp _ 3).setPort (by rfl)).ite ((hk.setPort (by rfl)).ite hk)

/-- R240: a slot joins the packet that is being received, once what waited is released. -/
def State.slotJoins (s : State) (p : Nat) (bs : List Byte) : State :=
  let s := if (s.port p).asm = [] then s.releaseLast p false else s
  let s := s.setPort p { s.port p with asm := (s.port p).asm ++ bs }
  if (s.port p).asm.length = 32 then s.headerIn p else s

theorem linkGoes_slotJoins {p : Nat} (hp : p < 8) {s : State} (hc : s.Canon) (bs : List Byte) :
    (s.slotJoins p bs).Canon ∧ LinkGoes p s (s.slotJoins p bs) := by
  have h1 : LinkSame p s (if (s.port p).asm = [] then s.releaseLast p false else s) :=
    ((LinkSame.refl p s).releaseLast false).ite (.refl p s)
  have k1 : Keeps s (if (s.port p).asm = [] then s.releaseLast p false else s) :=
    ite_keeps (State.releaseLast_keeps (.refl s) p false) (.refl s)
  unfold State.slotJoins
  dsimp only
  generalize (if (s.port p).asm = [] then s.releaseLast p false else s) = u at *
  have h2 : LinkSame p s (u.setPort p { u.port p with asm := (u.port p).asm ++ bs }) := h1.setPort (by rfl)
  have k2 : Keeps s (u.setPort p { u.port p with asm := (u.port p).asm ++ bs }) := State.setPort_keeps k1 p _
  generalize u.setPort p { u.port p with asm := (u.port p).asm ++ bs } = v at *
  split
  · exact ⟨(State.headerIn_keeps k2 p).canon hc, linkGoes_headerIn hp h2 (k2.canon hc).regs⟩
  · exact ⟨k2.canon hc, .inl h2⟩

/-- R240, R241: what the slot that makes `n` bytes of its packet does once it has joined it. -/
def State.slotEnds (s : State) (p : Nat) (bs : List Byte) (n : Nat) : State :=
  let x := Pkt.parse (s.port p).asm
  let done := n ≥ 32 && n == 32 + 16 * x.len
  let s := match (s.port p).asmRoute with
    | .out o => if n > 32 then s.forwardSlot p o bs else s
    | _ => s
  if done && s.linkUp p then s.finishAsm p else s

theorem linkSame_slotEnds (s : State) (p : Nat) (bs : List Byte) (n : Nat) : LinkSame p s (s.slotEnds p bs n) := by
  have h0 := LinkSame.refl p s
  unfold State.slotEnds
  dsimp only
  cases (s.port p).asmRoute with
  | out o =>
    have h1 : LinkSame p s (if n > 32 then s.forwardSlot p o bs else s) := (h0.forwardSlot o bs).ite h0
    exact h1.finishAsm.ite h1
  | _ => exact h0.finishAsm.ite h0

theorem linkGoes_slotIn {p : Nat} (hp : p < 8) {s : State} (hc : s.Canon) (bs : List Byte) : LinkGoes p s (s.slotIn p bs) := by
  have h0 := LinkSame.refl p s
  unfold State.slotIn
  dsimp only
  split
  · exact .inl h0
  split
  · split
    · exact .inl (h0.releaseLast false)
    · exact .inr (linkUp_of_failed (pstate_portFail hc.regs p 2))
  split
  · left
    exact ((h0.releaseLast false).dropPkt hp _ 3).ite ((h0.releaseLast true).ite ((h0.releaseLast true).setPort (by rfl)))
  · obtain ⟨hcan, hgo⟩ := linkGoes_slotJoins hp hc bs
    exact hgo.then hcan (linkSame_slotEnds (s.slotJoins p bs) p bs _)

theorem slotIn_down {s : State} {p : Nat} (h : s.linkUp p = false) (bs : List Byte) : s.slotIn p bs = s := by
  unfold State.slotIn
  rw [h]
  rfl

theorem linkGoes_slots {p : Nat} (hp : p < 8) : ∀ (l : List (List Byte)) {s : State}, s.Canon → LinkGoes p s (l.foldl (fun s b => s.slotIn p b) s)
  | [], s, _ => .inl (.refl p s)
  | b :: l, s, hc => by
    rw [List.foldl_cons]
    obtain h | h := linkGoes_slotIn hp hc b
    · exact (linkGoes_slots hp l ((State.slotIn_keeps (.refl s) p b).canon hc)).imp h.trans id
    · right
      suffices hl : ∀ l : List (List Byte), ∀ t : State, t.linkUp p = false → (l.foldl (fun s b => s.slotIn p b) t).linkUp p = false from
        hl l _ h
      intro l
      induction l with
      | nil => exact fun _ h => h
      | cons b l ih =>
        intro t ht
        rw [List.foldl_cons, slotIn_down ht]
        exact ih t ht

end Sys2Proof.Machine


/-! Flits received (R228, R230 to R232, R235, R254): O37. -/

namespace Sys2Proof.Machine

/-- Two offsets of one page. -/
theorem ne_page (b : Nat) {i j : Nat} (h : i ≠ j) : b + i ≠ b + j := fun e => h (Nat.add_left_cancel e)

/-! ### The end of a flit slot -/

/-- What a flit slot that has passed leaves alone: the link but for the phase, what is resent, and the NAK that is due. -/
def PortSt.flits (y : PortSt) : Nat × Bool × List RFlit × List Nat × Option Nat × Bool :=
  (y.rxSeq, y.waiting, y.replay, y.credits, y.resend, y.nakDue)

theorem flits_rxSlot (y : PortSt) : y.rxSlot.flits = y.flits := by
  unfold PortSt.rxSlot
  dsimp only
  repeat' split
  all_goals rfl

/-- R254: a KEYON run counts down with the slots, and decryption starts at its end. -/
theorem rxSlot_keyed {y : PortSt} {n : Nat} (h : y.keyRx = some (n + 1)) :
    if n = 0 then y.rxSlot.encRx = true ∧ y.rxSlot.keyRx = none ∧ y.rxSlot.slotRx = 0 ∧ y.rxSlot.asm = y.sAsm
    else y.rxSlot.keyRx = some n := by
  have hk : (if y.encRx then { y with slotRx := y.slotRx + 1 } else y).keyRx = some (n + 1) := by
    split
    · exact h
    · exact h
  have ha : (if y.encRx then { y with slotRx := y.slotRx + 1 } else y).sAsm = y.sAsm := by
    split <;> rfl
  unfold PortSt.rxSlot
  dsimp only
  generalize (if y.encRx then { y with slotRx := y.slotRx + 1 } else y) = z at hk ha ⊢
  rw [← ha]
  cases n with
  | zero =>
    rw [if_pos rfl, hk]
    exact ⟨rfl, rfl, rfl, rfl⟩
  | succ n =>
    rw [if_neg (Nat.succ_ne_zero n), hk]
    rfl

/-- R254: what the end of both KEYON runs changes of a port. -/
theorem port_settleKeys {s : State} (h : Store.Sorted s.ports) (p : Nat) :
    (s.settleKeys p).port p = s.port p ∨ (s.settleKeys p).port p = { s.port p with retrain := false, phase := pActive } := by
  have hw : ∀ (t : State) l v, (t.wf l v).port p = t.port p := fun _ _ _ => rfl
  unfold State.settleKeys
  dsimp only
  split
  · right
    rw [hw, hw, port_setPort_self h]
  · exact .inl rfl

theorem flits_settleKeys {s : State} (h : Store.Sorted s.ports) (p : Nat) : ((s.settleKeys p).port p).flits = (s.port p).flits := by
  obtain e | e := port_settleKeys h p <;> rw [e]
  rfl

/-- R225, R254: a flit slot passes. -/
def State.slotPasses (s : State) (p : Nat) : State := (s.setPort p (s.port p).rxSlot).settleKeys p

theorem flits_slotPasses {s : State} (h : Store.Sorted s.ports) (p : Nat) : ((s.slotPasses p).port p).flits = (s.port p).flits := by
  unfold State.slotPasses
  rw [flits_settleKeys (sorted_setPort h p _), port_setPort_self h, flits_rxSlot]

theorem Spares.setPort {l : Loc} {s t : State} (h : Spares l s t) (p : Nat) (y : PortSt) : Spares l s (t.setPort p y) :=
  h.then_regs rfl

theorem Spares.settleKeys {l : Loc} {s t : State} (h : Spares l s t) {p : Nat} (hl : l.addr ≠ A.MBL_STAT p) :
    Spares l s (t.settleKeys p) := by
  unfold State.settleKeys
  dsimp only
  refine Spares.ite ?_ h
  refine Spares.wf_far ?_ (m := R.MBL_STAT_SECURE p) hl _
  refine Spares.wf_far ?_ (m := R.MBL_STAT_STATE p) hl _
  exact h.setPort p _

theorem spares_slotPasses {l : Loc} {s : State} {p : Nat} (h : l.addr ≠ A.MBL_STAT p) : Spares l s (s.slotPasses p) :=
  ((Spares.refl l s).setPort p _).settleKeys h

/-! ### Arrival (R231) -/

theorem ports_bump (s : State) (l : Loc) (n : Nat) : (s.bump l n).ports = s.ports := rfl

theorem port_flitArrives {s : State} {p : Nat} {x : FlitIn} (h : x.intact = true) (q : Nat) : (s.flitArrives p x).port q = s.port q := by
  unfold State.flitArrives
  dsimp only
  rw [if_pos h]
  exact port_of_ports ((ports_bump _ _ _).trans (ports_bump _ _ _)) q

theorem spares_flitArrives {l : Loc} {s : State} {p : Nat} (x : FlitIn) (h1 : l.addr ≠ A.MBL_FEC_CORR p) (h2 : l.addr ≠ A.MBL_FEC_UNC p) :
    Spares l s (s.flitArrives p x) := by
  have h := ((Spares.refl l s).bump (m := R.MBL_FEC_CORR_COUNT p) h1 x.fecCorr).bump (m := R.MBL_FEC_UNC_COUNT p) h2 x.fecUnc
  unfold State.flitArrives
  dsimp only
  exact h.ite (h.ite (h.setPort p _))

theorem unc_flitArrives {s : State} (hs : Store.Sorted s.regs) (p : Nat) (x : FlitIn) :
    (s.flitArrives p x).rf (R.MBL_FEC_UNC_COUNT p) = satAdd32 (s.rf (R.MBL_FEC_UNC_COUNT p)) x.fecUnc := by
  have hne : A.MBL_FEC_UNC p ≠ A.MBL_FEC_CORR p := by
    unfold A.MBL_FEC_UNC A.MBL_FEC_CORR
    omega
  have h1 := sorted_bump hs (R.MBL_FEC_CORR_COUNT p) x.fecCorr
  have h : ((s.bump (R.MBL_FEC_CORR_COUNT p) x.fecCorr).bump (R.MBL_FEC_UNC_COUNT p) x.fecUnc).rf (R.MBL_FEC_UNC_COUNT p) =
      satAdd32 (s.rf (R.MBL_FEC_UNC_COUNT p)) x.fecUnc := by
    refine (rf_bump_self h1 (l := R.MBL_FEC_UNC_COUNT p) (Nat.le_of_ble_eq_true rfl) _).trans ?_
    rw [rf_bump_addr s _ hne]
    exact satAdd32_mod _ _
  have hset : ∀ (t : State) y, (t.setPort p y).rf (R.MBL_FEC_UNC_COUNT p) = t.rf (R.MBL_FEC_UNC_COUNT p) := fun _ _ => rf_of_regs rfl _
  unfold State.flitArrives
  dsimp only
  repeat' split
  · exact h
  · exact h
  · rw [hset]
    exact h

/-- R231, R232: a flit that is not intact asks for a replay, unless a wait for one runs. -/
def PortSt.asks (y : PortSt) : PortSt := { y with nakDue := y.nakDue || !y.waiting }

theorem port_flitArrives_bad {s : State} (hp : Store.Sorted s.ports) {p : Nat} {x : FlitIn} (h : x.intact = false) :
    (s.flitArrives p x).port p = (s.port p).asks := by
  have hb : ((s.bump (R.MBL_FEC_CORR_COUNT p) x.fecCorr).bump (R.MBL_FEC_UNC_COUNT p) x.fecUnc).ports = s.ports :=
    (ports_bump _ _ _).trans (ports_bump _ _ _)
  unfold State.flitArrives
  generalize (s.bump (R.MBL_FEC_CORR_COUNT p) x.fecCorr).bump (R.MBL_FEC_UNC_COUNT p) x.fecUnc = t at hb ⊢
  have ht : t.port p = s.port p := port_of_ports hb p
  dsimp only
  rw [if_neg (by rw [h]; decide), ht]
  unfold PortSt.asks
  by_cases hw : (s.port p).waiting = true
  · have hn : ((s.port p).nakDue || !(s.port p).waiting) = (s.port p).nakDue := by rw [hw, Bool.not_true, Bool.or_false]
    rw [if_pos hw, ht, hn]
  · have hn : ((s.port p).nakDue || !(s.port p).waiting) = true := by
      rw [Bool.not_eq_true] at hw
      rw [hw, Bool.not_false, Bool.or_true]
    rw [if_neg hw, port_setPort_self (hb ▸ hp), hn]

/-! ### Reception (R231) -/

/-- R228, R231: the flit is counted and its ACK taken. -/
def State.acked (s : State) (p : Nat) (x : FlitIn) : State :=
  (s.flitArrives p x).setPort p (((s.flitArrives p x).port p).takeAck (x.hdr / 2 ^ 14 % 4096))

section Recv
variable {s : State} {p k : Nat} {x : FlitIn} (hl : s.linkUp p = true)
include hl

theorem recvFlit_bad (h : x.intact = false) (take : State → State) : recvFlit p k x take s = (s.flitArrives p x).slotPasses p := by
  unfold recvFlit
  rw [hl, h]
  rfl

theorem recvFlit_late (h : x.intact = true) (hk : x.kind = k) (hn : k = 0 ∧ x.hdr / 4 % 4096 ≠ (s.port p).rxSeq) (take : State → State) :
    recvFlit p k x take s = (s.flitArrives p x).slotPasses p := by
  unfold recvFlit
  rw [hl, h, if_neg (by decide), if_neg (by decide), if_neg (not_not.mpr hk)]
  dsimp only
  rw [port_flitArrives h, if_pos hn]
  unfold State.slotPasses
  rw [port_flitArrives h]

theorem recvFlit_taken (h : x.intact = true) (ht : s.tagFails p x = false) (hk : x.kind = k)
    (hn : k = 0 → x.hdr / 4 % 4096 = (s.port p).rxSeq) (take : State → State) :
    recvFlit p k x take s = if (take (s.acked p x)).linkUp p then (take (s.acked p x)).slotPasses p else take (s.acked p x) := by
  have htag : (s.flitArrives p x).tagFails p x = false := by
    unfold State.tagFails at ht ⊢
    rw [port_flitArrives h]
    exact ht
  unfold recvFlit
  rw [hl, h, if_neg (by decide), if_neg (by decide), if_neg (not_not.mpr hk)]
  dsimp only
  rw [port_flitArrives h, if_neg (fun ⟨h0, h1⟩ => h1 (hn h0)), htag, if_neg (by decide)]
  unfold State.acked State.slotPasses
  rw [port_flitArrives h]

end Recv

section Acked
variable {s : State} (hc : s.Canon) {p : Nat} {x : FlitIn} (h : x.intact = true)
include hc h

omit h in
theorem canon_acked : (s.acked p x).Canon :=
  (State.setPort_keeps (State.flitArrives_keeps (.refl s) p x) p _).canon hc

theorem port_acked : (s.acked p x).port p = (s.port p).takeAck (x.hdr / 2 ^ 14 % 4096) := by
  unfold State.acked
  rw [port_setPort_self ((State.flitArrives_keeps (.refl s) p x).canon hc).ports, port_flitArrives h]

omit hc h in
theorem spares_acked {l : Loc} (h1 : l.addr ≠ A.MBL_FEC_CORR p) (h2 : l.addr ≠ A.MBL_FEC_UNC p) : Spares l s (s.acked p x) :=
  (spares_flitArrives x h1 h2).setPort p _

omit h in
theorem pstate_acked : (s.acked p x).pstate p = s.pstate p := by
  refine (spares_acked (l := R.MBL_STAT_STATE p) (ne_page _ (by decide)) (ne_page _ (by decide))).rf hc.regs

theorem linkUp_acked : (s.acked p x).linkUp p = s.linkUp p := by
  have hp : ((s.acked p x).port p).phase = (s.port p).phase := by
    rw [port_acked hc h]
    rfl
  unfold State.linkUp State.pphase
  rw [pstate_acked hc, hp]

/-- R231, R235: what an accepted DATA flit changes of its port's link. -/
def PortSt.takeData (y : PortSt) (x : FlitIn) : PortSt :=
  { y.takeCredits (x.hdr / 2 ^ 26 % 8) (x.hdr / 2 ^ 29) with rxSeq := (y.rxSeq + 1) % 4096, waiting := false }

omit hc h in
theorem takeData_slots (s : State) (p : Nat) (x : FlitIn) : s.takeData p x = (slotsOf (x.slots (s.port p).encRx) 15).foldl (fun s b => s.slotIn p b)
    ((s.setPort p ((s.port p).takeData x)).bump64 (R.MBL_RX_LO_COUNT p) (R.MBL_RX_HI_COUNT p) 1) := rfl

/-- R231, R235: an accepted DATA flit, where the port stays up. -/
theorem takeData_up (hp8 : p < 8) (hup : ((s.acked p x).takeData p x).linkUp p = true) :
    ((((s.acked p x).takeData p x).port p).rxSeq, (((s.acked p x).takeData p x).port p).waiting,
      (((s.acked p x).takeData p x).port p).replay, (((s.acked p x).takeData p x).port p).credits) =
    (((s.port p).rxSeq + 1) % 4096, false, ((s.port p).takeAck (x.hdr / 2 ^ 14 % 4096)).replay,
      ((s.port p).takeCredits (x.hdr / 2 ^ 26 % 8) (x.hdr / 2 ^ 29)).credits) := by
  have hca := canon_acked (x := x) hc (p := p)
  have hpa := port_acked hc h (p := p)
  rw [takeData_slots] at hup ⊢
  generalize hy : ((s.acked p x).port p).takeData x = y at hup ⊢
  have hk : Keeps (s.acked p x) (((s.acked p x).setPort p y).bump64 (R.MBL_RX_LO_COUNT p) (R.MBL_RX_HI_COUNT p) 1) :=
    State.bump64_keeps (State.setPort_keeps (.refl _) p y) _ _ _
  have hport : (((s.acked p x).setPort p y).bump64 (R.MBL_RX_LO_COUNT p) (R.MBL_RX_HI_COUNT p) 1).port p = y := by
    refine (port_of_ports ((State.bump64_same (.refl 8 _) rfl _ _ 1).ports.resolve_left (by decide)) p).trans ?_
    exact port_setPort_self hca.ports p y
  have hcb := hk.canon hca
  generalize ((s.acked p x).setPort p y).bump64 (R.MBL_RX_LO_COUNT p) (R.MBL_RX_HI_COUNT p) 1 = u at hup hport hcb ⊢
  generalize slotsOf (x.slots ((s.acked p x).port p).encRx) 15 = slots at hup ⊢
  obtain hgo | hgo := linkGoes_slots hp8 slots hcb
  · have hlink := hgo.link hcb.ports
    rw [hport, ← hy, hpa] at hlink
    exact congrArg Prod.snd hlink
  · rw [hgo] at hup
    exact absurd hup (by decide)

end Acked

/-- R224: a port that enters RETRAIN takes no part in its link. -/
theorem enterRetrain_state {s : State} (hc : s.Canon) (p : Nat) :
    (s.enterRetrain p).pstate p = pRetrain ∧ (s.enterRetrain p).linkUp p = false := by
  have hs : ∀ y, Store.Sorted ((s.setPort p y).wf (R.MBL_STAT_STATE p) pRetrain).regs := fun y => sorted_wf hc.regs _ _
  have hst : (s.enterRetrain p).pstate p = pRetrain := by
    unfold State.enterRetrain
    dsimp only
    generalize hu : (s.setPort p _) = u
    have hsu : Store.Sorted u.regs := by
      rw [← hu]
      exact hc.regs
    have h1 := sorted_wf hsu (R.MBL_STAT_STATE p) pRetrain
    have h2 : (u.wf (R.MBL_STAT_STATE p) pRetrain).rf (R.MBL_STAT_STATE p) = pRetrain :=
      (rf_wf_self hsu (Nat.le_of_ble_eq_true rfl) _).trans rfl
    have h3 : ((u.wf (R.MBL_STAT_STATE p) pRetrain).wf (R.MBL_STAT_SECURE p) 0).rf (R.MBL_STAT_STATE p) = pRetrain :=
      (rf_wf_bits h1 _ (Nat.le_of_ble_eq_true rfl) (.inl (Nat.le_of_ble_eq_true rfl))).trans h2
    have h4 := sorted_wf h1 (R.MBL_STAT_SECURE p) 0
    generalize (u.wf (R.MBL_STAT_STATE p) pRetrain).wf (R.MBL_STAT_SECURE p) 0 = v at h3 h4 ⊢
    have hb : (R.MBL_STAT_STATE p).addr ≠ (R.MBL_RETRAIN_CNT_COUNT p).addr := ne_page _ (by decide)
    exact ((((Spares.refl (R.MBL_STAT_STATE p) v).bump hb 1).raiseSrc (noErr_stat p) 1).rf h4).trans h3
  refine ⟨hst, ?_⟩
  have hport : (s.enterRetrain p).port p = ({ s.port p with
      phase := pTrain, retrain := true, encTx := false, encRx := false, keyTx := none, keyRx := none, kex := {}
      nakDue := false, waiting := false, resend := none } : PortSt) := by
    unfold State.enterRetrain
    dsimp only
    generalize ({ s.port p with
      phase := pTrain, retrain := true, encTx := false, encRx := false, keyTx := none, keyRx := none, kex := {}
      nakDue := false, waiting := false, resend := none } : PortSt) = y
    refine (port_of_ports ?_ p).trans (port_setPort_self hc.ports p y)
    exact ((State.raiseSrc_same (State.bump_same (State.wf_same (State.wf_same (.refl 8589934600 _) rfl _ _) rfl _ _) rfl _ _) rfl
      _ _).ports.resolve_left (by decide))
  unfold State.linkUp State.pphase
  rw [hst, hport]
  rfl

/-! ### O37 -/

/-- R232: a flit of the replay buffer was asked for again. -/
def PortSt.asked (y : PortSt) (want n : Nat) : PortSt :=
  { y with replay := y.replay.map fun r => if r.seq == want then { r with asked := n } else r }

section Received
variable {s : State} (hc : s.Canon) {p : Fin 8} {x : FlitIn} (hl : s.linkUp p = true)
include hc hl

theorem idleFlit_taken (h : x.intact = true) (ht : s.tagFails p x = false) (hk : x.kind = 1) :
    recvFlit p 1 x id s = (s.acked p x).slotPasses p := by
  rw [recvFlit_taken hl h ht hk (fun e => absurd e (by decide)), id, linkUp_acked hc h, hl, if_pos rfl]

theorem flits_of_bad {k : Nat} (h : x.intact = false) (take : State → State) :
    ((recvFlit p k x take s).port p).flits = (s.port p).asks.flits ∧
    (recvFlit p k x take s).rf (R.MBL_FEC_UNC_COUNT p) = satAdd32 (s.rf (R.MBL_FEC_UNC_COUNT p)) x.fecUnc := by
  have hca := (State.flitArrives_keeps (.refl s) p x).canon hc
  rw [recvFlit_bad hl h]
  refine ⟨?_, ?_⟩
  · rw [flits_slotPasses hca.ports, port_flitArrives_bad hc.ports h]
  · refine ((spares_slotPasses (l := R.MBL_FEC_UNC_COUNT p) (ne_page _ (by decide))).rf hca.regs).trans (unc_flitArrives hc.regs p x)

omit hc hl in
/-- R232: a NAK for a flit that the replay buffer holds. -/
theorem takeNak_found {t : State} {q : Nat} {y : PortSt} (hy : t.port q = y) {r : RFlit}
    (hr : y.replay.find? (fun r => r.seq == (x.hdr / 2 ^ 14 + 1) % 4096) = some r) :
    t.takeNak q x = if r.asked + 1 > t.rf (R.MBL_CTRL_RETRY_MAX q) ∧ t.pstate q = pActive then
        (t.setPort q (y.asked ((x.hdr / 2 ^ 14 + 1) % 4096) (r.asked + 1))).enterRetrain q
      else t.setPort q { y.asked ((x.hdr / 2 ^ 14 + 1) % 4096) (r.asked + 1) with resend := some ((x.hdr / 2 ^ 14 + 1) % 4096) } := by
  subst hy
  unfold State.takeNak
  dsimp only
  split
  · next hnone => rw [hnone] at hr; exact absurd hr (by simp)
  · next r' hsome =>
    obtain rfl : r' = r := Option.some.inj (hsome.symm.trans hr)
    rfl

theorem nak_taken (h : x.intact = true) (ht : s.tagFails p x = false) (hk : x.kind = 2) {r : RFlit}
    (hr : ((s.port p).takeAck (x.hdr / 2 ^ 14 % 4096)).replay.find? (fun r => r.seq == (x.hdr / 2 ^ 14 + 1) % 4096) = some r) :
    if s.rf (R.MBL_CTRL_RETRY_MAX p) < r.asked + 1 ∧ s.pstate p = pActive then
      (recvFlit p 2 x (fun s => s.takeNak p x) s).pstate p = pRetrain
    else ((recvFlit p 2 x (fun s => s.takeNak p x) s).port p).resend = some ((x.hdr / 2 ^ 14 + 1) % 4096) := by
  have hca := canon_acked (x := x) hc (p := p)
  have hmax : (s.acked p x).rf (R.MBL_CTRL_RETRY_MAX p) = s.rf (R.MBL_CTRL_RETRY_MAX p) := by
    refine (spares_acked (l := R.MBL_CTRL_RETRY_MAX p) (ne_page _ (by decide)) (ne_page _ (by decide))).rf hc.regs
  have hst := pstate_acked (x := x) hc (p := p)
  have hup := linkUp_acked hc h (p := p)
  rw [recvFlit_taken hl h ht hk (fun e => absurd e (by decide))]
  rw [takeNak_found (port_acked hc h) hr, hmax, hst]
  by_cases hif : s.rf (R.MBL_CTRL_RETRY_MAX p) < r.asked + 1 ∧ s.pstate p = pActive
  · rw [if_pos hif, if_pos hif]
    obtain ⟨hre, hdn⟩ := enterRetrain_state (State.setPort_keeps (.refl _) p _ |>.canon hca) p
    rw [hdn, if_neg (by decide)]
    exact hre
  · rw [if_neg hif, if_neg hif]
    generalize hy : ({ ((s.port p).takeAck (x.hdr / 2 ^ 14 % 4096)).asked ((x.hdr / 2 ^ 14 + 1) % 4096) (r.asked + 1) with
      resend := some ((x.hdr / 2 ^ 14 + 1) % 4096) } : PortSt) = y
    have hyr : y.resend = some ((x.hdr / 2 ^ 14 + 1) % 4096) := by rw [← hy]
    split
    · have := congrArg (fun z => z.2.2.2.2.1) (flits_slotPasses (s := (s.acked p x).setPort p y) (sorted_setPort hca.ports p y) p)
      rw [port_setPort_self hca.ports] at this
      exact this.trans hyr
    · rw [port_setPort_self hca.ports]
      exact hyr

theorem keyon_taken (h : x.intact = true) (ht : s.tagFails p x = false) (hk : x.kind = 3) (hkex : s.pphase p = pKex) {n : Nat}
    (hn : x.hdr / 4 % 16 = n) {t : State}
    (hT : t = recvFlit p 3 x (fun s => if s.pphase p = pKex then s.setPort p { s.port p with keyRx := some (x.hdr / 4 % 16 + 1) } else s) s) :
    if n = 0 then (t.port p).encRx = true ∧ (t.port p).keyRx = none ∧ (t.port p).slotRx = 0 ∧ (t.port p).asm = (s.port p).sAsm
    else (t.port p).keyRx = some n := by
  have hca := canon_acked (x := x) hc (p := p)
  have hph : (s.acked p x).pphase p = s.pphase p := by
    unfold State.pphase
    rw [pstate_acked hc, port_acked hc h]
    rfl
  have hup := linkUp_acked hc h (p := p)
  rw [recvFlit_taken hl h ht hk (fun e => absurd e (by decide)), hph, if_pos hkex, hn, port_acked hc h] at hT
  generalize hy : ({ (s.port p).takeAck (x.hdr / 2 ^ 14 % 4096) with keyRx := some (n + 1) } : PortSt) = y at hT
  have hpy : ((s.acked p x).setPort p y).port p = y := port_setPort_self hca.ports p y
  have hup' : ((s.acked p x).setPort p y).linkUp p = true := by
    rw [← hl, ← hup]
    unfold State.linkUp State.pphase
    rw [hpy, port_acked hc h, ← hy]
    rfl
  rw [if_pos hup'] at hT
  have hpass : (t.port p).encRx = y.rxSlot.encRx ∧ (t.port p).keyRx = y.rxSlot.keyRx ∧ (t.port p).slotRx = y.rxSlot.slotRx ∧
      (t.port p).asm = y.rxSlot.asm := by
    have h0 := port_settleKeys (s := ((s.acked p x).setPort p y).setPort p y.rxSlot)
      (sorted_setPort (sorted_setPort hca.ports p y) p _) p
    rw [port_setPort_self (sorted_setPort hca.ports p y)] at h0
    have ht' : t.port p = ((((s.acked p x).setPort p y).setPort p y.rxSlot).settleKeys p).port p := by
      rw [hT]
      unfold State.slotPasses
      rw [hpy]
    rw [ht']
    obtain e | e := h0 <;> rw [e] <;> exact ⟨rfl, rfl, rfl, rfl⟩
  obtain ⟨henc, hkey, hslot, hasm⟩ := hpass
  rw [henc, hkey, hslot, hasm, ← hy]
  exact rxSlot_keyed (by rfl)

end Received

/-- Settles O37 (log 98: a further bad flit while a wait for a replay runs asks for nothing): a flit slot that passes leaves a
port's link alone, and each kind of flit changes what its rule says of it. -/
theorem flitsAreReceived : Obligations.FlitsAreReceived := by
  intro p x s left hc hl rfl
  refine ⟨fun h ht => ⟨fun hk => ?_, fun hk hn => ?_, fun hk hn => ?_, fun hk r hr => ?_, fun hk hkex => ?_⟩, fun h e he => ?_⟩
  · refine ⟨_, rfl, sameBut_of_next (c := .idleFlit p x) rfl, ?_⟩
    have hf := flits_slotPasses (canon_acked (x := x) hc (p := p)).ports p
    rw [idleFlit_taken hc hl h ht hk]
    rw [port_acked hc h] at hf
    unfold PortSt.flits at hf
    simp only [Prod.mk.injEq] at hf
    obtain ⟨hseq, _, hrep, hcred, _⟩ := hf
    exact ⟨hrep, hseq, hcred⟩
  · refine ⟨_, rfl, sameBut_of_next (c := .dataFlit p x) rfl, ?_⟩
    rw [recvFlit_taken hl h ht hk fun _ => hn]
    split_ifs with hup
    · intro _
      have hto := takeData_up hc h p.isLt hup
      have hcan := (State.takeData_keeps (.refl (s.acked p x)) p x).canon (canon_acked hc)
      have hf := flits_slotPasses hcan.ports p
      unfold PortSt.flits at hf
      simp only [Prod.mk.injEq] at hf hto
      obtain ⟨hseq, hwait, hrep, hcred, _⟩ := hf
      obtain ⟨hseq', hwait', hrep', hcred'⟩ := hto
      exact ⟨hseq.trans hseq', hwait.trans hwait', hrep.trans hrep', hcred.trans hcred'⟩
    · exact fun hup' => absurd hup' hup
  · refine ⟨_, rfl, ?_⟩
    rw [recvFlit_late hl h hk ⟨rfl, hn⟩]
    have hf := flits_slotPasses ((State.flitArrives_keeps (.refl s) p x).canon hc).ports p
    rw [port_flitArrives h] at hf
    unfold PortSt.flits at hf
    simp only [Prod.mk.injEq] at hf
    obtain ⟨hseq, _, hrep, hcred, _⟩ := hf
    exact ⟨hseq, hrep, hcred⟩
  · exact ⟨_, rfl, sameBut_of_next (c := .nak p x) rfl, nak_taken hc hl h ht hk hr⟩
  · exact ⟨_, rfl, sameBut_of_next (c := .keyon p x) rfl, keyon_taken hc hl h ht hk hkex rfl rfl⟩
  · have hbad : ∀ (k : Nat) (take : State → State),
        ((recvFlit p k x take s).port p).nakDue = ((s.port p).nakDue || !(s.port p).waiting) ∧
        ((recvFlit p k x take s).port p).rxSeq = (s.port p).rxSeq ∧ ((recvFlit p k x take s).port p).replay = (s.port p).replay ∧
        (recvFlit p k x take s).rf (R.MBL_FEC_UNC_COUNT p) = satAdd32 (s.rf (R.MBL_FEC_UNC_COUNT p)) x.fecUnc := by
      intro k take
      obtain ⟨hf, hu⟩ := flits_of_bad hc hl (k := k) h take
      unfold PortSt.flits PortSt.asks at hf
      simp only [Prod.mk.injEq] at hf
      obtain ⟨hseq, _, hrep, _, _, hnak⟩ := hf
      exact ⟨hnak, hseq, hrep, hu⟩
    simp only [List.mem_cons, List.not_mem_nil, or_false] at he
    rcases he with rfl | rfl | rfl | rfl
    · exact ⟨_, rfl, sameBut_of_next (c := .idleFlit p x) rfl, hbad 1 _⟩
    · exact ⟨_, rfl, sameBut_of_next (c := .dataFlit p x) rfl, hbad 0 _⟩
    · exact ⟨_, rfl, sameBut_of_next (c := .nak p x) rfl, hbad 2 _⟩
    · exact ⟨_, rfl, sameBut_of_next (c := .keyon p x) rfl, hbad 3 _⟩

end Sys2Proof.Machine


/-! Flits sent (R225, R228, R232, R235 to R237, R253, R254): O38. -/

namespace Sys2Proof.Machine

/-! ### Emission (R227 to R229) -/

/-- R227, R229, R254: what a flit that goes out leaves of its port; `w` is the width of the link. -/
def PortSt.sent (y : PortSt) (w hdr : Nat) (body : List Byte) : PortSt :=
  { y with
    lastHdr := hdr, lastBody := body, lastFlit := y.flit hdr body, fec := (rsCut 2 (y.fec ++ y.flit hdr body)).2
    codes := (rsCut 2 (y.fec ++ y.flit hdr body)).1.map (dealt (lanesOf w)), slotTx := if y.encTx then y.slotTx + 1 else y.slotTx }

theorem emit_eq (s : State) (p hdr : Nat) (body : List Byte) :
    s.emit p hdr body = s.setPort p ((s.port p).sent (s.rf (R.MBL_STAT_WIDTH p)) hdr body) := rfl

section Sent
variable {s : State} (h : Store.Sorted s.ports) (p : Nat)
include h

theorem port_emit (hdr : Nat) (body : List Byte) : (s.emit p hdr body).port p = (s.port p).sent (s.rf (R.MBL_STAT_WIDTH p)) hdr body := by
  rw [emit_eq, port_setPort_self h]

/-- R232: a DATA flit is kept for replay under the next sequence number. -/
theorem port_emitData (body : List Byte) (cb cc : Nat) : ∃ w, (s.emitData p body cb cc).port p =
    { (s.port p).sent w (flitHdr 0 (s.port p).txSeq (s.port p).ack cb cc) body with
      txSeq := ((s.port p).txSeq + 1) % 4096
      replay := (s.port p).replay ++ [{ seq := (s.port p).txSeq, cbuf := cb, ccount := cc, body := body }] } := by
  refine ⟨s.rf (R.MBL_STAT_WIDTH p), ?_⟩
  unfold State.emitData
  dsimp only
  rw [port_emit h]
  refine (port_of_ports ((State.bump64_same (.refl 8 _) rfl _ _ 1).ports.resolve_left (by decide)) p).trans ?_
  rw [port_setPort_self]
  · rfl
  · rw [emit_eq]
    exact sorted_setPort h p _

theorem sorted_emitData (body : List Byte) (cb cc : Nat) : Store.Sorted (s.emitData p body cb cc).ports := by
  unfold State.emitData
  dsimp only
  rw [(State.bump64_same (.refl 8 _) rfl _ _ 1).ports.resolve_left (by decide)]
  exact sorted_setPort (sorted_setPort h p _) p _

end Sent

/-! ### What a slot leaves of a replay (R232) -/

theorem resend_beginOwn (y : PortSt) (i : Nat) : (y.beginOwn i).resend = y.resend := by
  unfold PortSt.beginOwn
  split <;> rfl

theorem resend_begin_ (y : PortSt) (i wrr : Nat) : (y.begin_ i wrr).resend = y.resend := by
  unfold PortSt.begin_
  split <;> rfl

theorem resend_grant {y z : PortSt} {wcol wbulk : Nat} {active : Bool} (h : y.grant wcol wbulk active = some z) : z.resend = y.resend := by
  unfold PortSt.grant at h
  split at h
  · obtain ⟨i, _, rfl⟩ := Option.map_eq_some_iff.mp h
    exact resend_beginOwn y i
  split at h
  · obtain rfl := Option.some.inj h
    exact resend_begin_ y _ _
  · obtain rfl := Option.some.inj h
    exact resend_beginOwn y _
  · obtain rfl := Option.some.inj h
    exact resend_begin_ y _ _
  · obtain ⟨e, _, rfl⟩ := Option.map_eq_some_iff.mp h
    exact resend_begin_ y _ _

theorem resend_fillSlots (wcol wbulk : Nat) (active : Bool) : ∀ (n : Nat) (y : PortSt) (acc : List Byte) (fin : Fin_),
    (fillSlots wcol wbulk active n y acc fin).2.2.1.resend = y.resend
  | 0, _, _, _ => rfl
  | n + 1, y, acc, fin => by
    unfold fillSlots
    split
    · rfl
    split
    · dsimp only
      split
      · split
        · rw [resend_fillSlots wcol wbulk active n]
        · rw [resend_fillSlots wcol wbulk active n]
      · split
        · rfl
        · rw [resend_fillSlots wcol wbulk active n]
    · split
      · next z hz => rw [resend_fillSlots wcol wbulk active n, resend_grant hz]
      · rfl

/-- R235, R241: what a packet that has gone out frees. -/
def State.slotDone (s : State) (p : Nat) (e : Bool × Nat × Nat × Nat) : State :=
  let s := if e.1 then s.countAbort p else s
  if e.2.1 < 8 then s.freeRx e.2.1 e.2.2.1 e.2.2.2 else s

theorem ports_countAbort (s : State) (p : Nat) : (s.countAbort p).ports = s.ports :=
  (State.raiseSrc_same (State.bump_same (.refl 8589934600 s) rfl _ 1) rfl _ _).ports.resolve_left (by decide)

theorem resend_slotDone {s : State} (h : Store.Sorted s.ports) (p : Nat) (e : Bool × Nat × Nat × Nat) :
    Store.Sorted (s.slotDone p e).ports ∧ ((s.slotDone p e).port p).resend = (s.port p).resend := by
  have h1 : (if e.1 then s.countAbort p else s).ports = s.ports := by
    split
    · exact ports_countAbort s p
    · rfl
  unfold State.slotDone
  dsimp only
  generalize (if e.1 then s.countAbort p else s) = u at h1 ⊢
  have hu : Store.Sorted u.ports := h1 ▸ h
  rw [← port_of_ports h1 p]
  split
  · refine ⟨sorted_setPort hu _ _, ?_⟩
    unfold State.freeRx
    by_cases hp : p = e.2.1
    · subst hp
      rw [port_setPort_self hu]
    · rw [port_setPort_ne u _ hp]
  · exact ⟨hu, rfl⟩

theorem resend_slotsDone (p : Nat) : ∀ (l : Fin_) {s : State}, Store.Sorted s.ports →
    ((l.foldl (fun s e => s.slotDone p e) s).port p).resend = (s.port p).resend
  | [], _, _ => rfl
  | e :: l, s, h => by
    obtain ⟨hs, hr⟩ := resend_slotDone h p e
    rw [List.foldl_cons, resend_slotsDone p l hs, hr]

theorem resend_newFlit {s : State} (h : Store.Sorted s.ports) (p : Nat) : ((s.newFlit p).port p).resend = (s.port p).resend := by
  have hfill := resend_fillSlots (s.rf R.MBL_ARB_WCOL) (s.rf R.MBL_ARB_WBULK) (s.pphase p == pActive) 64 (s.port p) [] []
  unfold State.newFlit
  dsimp only
  generalize fillSlots (s.rf R.MBL_ARB_WCOL) (s.rf R.MBL_ARB_WBULK) (s.pphase p == pActive) 64 (s.port p) [] [] = r at hfill ⊢
  obtain ⟨body, short, y', fin⟩ := r
  dsimp only
  split
  · rw [port_emit h]
    rfl
  · have hs : ∀ y, Store.Sorted (s.setPort p y).ports := sorted_setPort h p
    refine (resend_slotsDone p fin (sorted_emitData (hs _) p _ _ _)).trans ?_
    obtain ⟨w, hw⟩ := port_emitData (hs _) p _ _ _
    rw [hw, port_setPort_self h]
    exact hfill

/-! ### One slot (R225, R232, R237, R254) -/

section Slot
variable {s : State} (hc : s.Canon) (p : Nat)
include hc

/-- R254: one flit of a KEYON run. -/
theorem sendKeyon_port (n : Nat) {t : State} (ht : t = s.sendKeyon p n) :
    (t.port p).lastHdr = flitHdr 3 n (s.port p).ack 0 0 ∧ (t.port p).replay = (s.port p).replay ∧ (t.port p).resend = (s.port p).resend ∧
    (n ≠ 0 → (t.port p).keyTx = some (n - 1)) ∧
    (n = 0 → (t.port p).keyTx = none ∧ (t.port p).encTx = true ∧ (t.port p).slotTx = 0 ∧ (t.port p).cur = (s.port p).sCur) := by
  have he : Store.Sorted (s.emit p (flitHdr 3 n (s.port p).ack 0 0) idleBody).ports := sorted_setPort hc.ports p _
  have hy := port_emit hc.ports p (flitHdr 3 n (s.port p).ack 0 0) idleBody
  unfold State.sendKeyon at ht
  dsimp only at ht
  generalize s.emit p (flitHdr 3 n (s.port p).ack 0 0) idleBody = u at he hy ht
  by_cases h0 : n = 0
  · rw [if_pos h0] at ht
    subst ht
    have hset := port_settleKeys (s := u.setPort p { u.port p with keyTx := none, encTx := true, slotTx := 0, cur := (u.port p).sCur, sCur := none })
      (sorted_setPort he p _) p
    rw [port_setPort_self he, hy] at hset
    obtain e | e := hset <;> rw [hy, e] <;> exact ⟨rfl, rfl, rfl, fun h => absurd h0 h, fun _ => ⟨rfl, rfl, rfl, rfl⟩⟩
  · rw [if_neg h0] at ht
    subst ht
    rw [port_setPort_self he, hy]
    exact ⟨rfl, rfl, rfl, fun _ => rfl, fun h => absurd h h0⟩

/-- R232: a buffered flit goes out again. -/
theorem resendFlit_port (r : RFlit) {t : State} (ht : t = s.resendFlit p r) :
    (t.port p).lastHdr = flitHdr 0 r.seq (s.port p).ack r.cbuf r.ccount ∧ (t.port p).lastBody = r.body ∧
    (t.port p).replay = (s.port p).replay ∧ t.rf (R.MBL_RETRY_CNT_COUNT p) = satAdd32 (s.rf (R.MBL_RETRY_CNT_COUNT p)) 1 ∧
    (t.port p).resend = (if (s.port p).replay.any (fun k => k.seq == (r.seq + 1) % 4096) then some ((r.seq + 1) % 4096) else none) := by
  unfold State.resendFlit at ht
  dsimp only at ht
  generalize hz : ({ s.port p with
    resend := if (s.port p).replay.any (fun k => k.seq == (r.seq + 1) % 4096) then some ((r.seq + 1) % 4096) else none } : PortSt) = z at ht
  have hy := port_emit (s := s.setPort p z) (sorted_setPort hc.ports p z) p (flitHdr 0 r.seq (s.port p).ack r.cbuf r.ccount) r.body
  have hregs : ((s.setPort p z).emit p (flitHdr 0 r.seq (s.port p).ack r.cbuf r.ccount) r.body).regs = s.regs := rfl
  rw [port_setPort_self hc.ports] at hy
  generalize (s.setPort p z).emit p (flitHdr 0 r.seq (s.port p).ack r.cbuf r.ccount) r.body = u at ht hy hregs
  have hports : t.ports = u.ports := by
    rw [ht]
    exact (State.raiseSrc_same (State.bump_same (State.bump64_same (.refl 8589934600 u) rfl _ _ 1) rfl _ 1) rfl _ _).ports.resolve_left
      (by decide)
  have hretry : t.rf (R.MBL_RETRY_CNT_COUNT p) = satAdd32 (s.rf (R.MBL_RETRY_CNT_COUNT p)) 1 := by
    have hsu : Store.Sorted u.regs := hregs ▸ hc.regs
    have h64 : Spares (R.MBL_RETRY_CNT_COUNT p) u (u.bump64 (R.MBL_TX_LO_COUNT p) (R.MBL_TX_HI_COUNT p) 1) :=
      (Spares.refl _ u).bump64 (ne_page _ (by decide)) (ne_page _ (by decide)) 1
    have hsb : Store.Sorted (u.bump64 (R.MBL_TX_LO_COUNT p) (R.MBL_TX_HI_COUNT p) 1).regs := h64.1 hsu
    have hrb := (h64.rf hsu).trans (rf_of_regs hregs _)
    rw [ht]
    generalize u.bump64 (R.MBL_TX_LO_COUNT p) (R.MBL_TX_HI_COUNT p) 1 = v at hsb hrb ⊢
    have hno : (R.MBL_RETRY_CNT_COUNT p).NoErr (Page.portBase p) := Loc.noErr_of_page (.inr (Nat.add_le_add_left (by decide) _))
    refine (((Spares.refl _ _).raiseSrc hno 0).rf (sorted_bump hsb _ _)).trans ?_
    rw [rf_bump_self hsb (Nat.le_of_ble_eq_true rfl), hrb]
    exact satAdd32_mod _ _
  have hp : t.port p = u.port p := port_of_ports hports p
  rw [hp, hy, ← hz]
  exact ⟨rfl, rfl, rfl, hretry, rfl⟩

/-- R225, R232, R237: nothing is to be resent and no KEYON run starts. -/
theorem sendFresh_port (hn : ((s.port p).keyTx.isSome && (s.port p).cur.isNone && (s.port p).linkTx.all fun x => x.hdr.ptype == 7) = false)
    {t : State} (ht : t = s.sendFresh p) :
    (t.port p).resend = (s.port p).resend ∧
    (2048 ≤ (s.port p).replay.length → (t.port p).lastHdr = flitHdr 1 0 (s.port p).ack 0 0 ∧ (t.port p).replay = (s.port p).replay) ∧
    ((s.port p).replay.length < 2048 → (s.port p).encTx = true → ∀ o rest, (s.port p).old = o :: rest →
      (t.port p).lastBody = o.body ∧ (t.port p).old = rest ∧ (t.port p).txSeq = ((s.port p).txSeq + 1) % 4096 ∧
      (t.port p).replay = (s.port p).replay ++ [{ seq := (s.port p).txSeq, cbuf := o.cbuf, ccount := o.ccount, body := o.body }]) ∧
    ((s.port p).replay.length < 2048 → (s.port p).encTx = false ∨ ((s.port p).old = [] ∧ s.pphase p = pActive) → t = s.newFlit p) := by
  have hidle := port_emit hc.ports p (flitHdr 1 0 (s.port p).ack 0 0) idleBody
  unfold State.sendFresh at ht
  dsimp only at ht
  rw [hn, if_neg (by decide)] at ht
  by_cases hfull : 2048 ≤ (s.port p).replay.length
  · rw [if_pos hfull] at ht
    subst ht
    rw [hidle]
    exact ⟨rfl, fun _ => ⟨rfl, rfl⟩, fun h => absurd hfull (by omega), fun h => absurd hfull (by omega)⟩
  rw [if_neg hfull] at ht
  split at ht
  · next o rest henc hold =>
    subst ht
    obtain ⟨w, hw⟩ := port_emitData (s := s.setPort p { s.port p with old := rest }) (sorted_setPort hc.ports p _) p o.body o.cbuf o.ccount
    rw [hw, port_setPort_self hc.ports]
    refine ⟨rfl, fun h => absurd h hfull, fun _ _ o' rest' h => ?_, fun _ h => ?_⟩
    · obtain ⟨rfl, rfl⟩ := List.cons.inj (hold.symm.trans h)
      exact ⟨rfl, rfl, rfl, rfl⟩
    · rw [henc, hold] at h
      simp at h
  · next henc hold =>
    refine ⟨?_, fun h => absurd h hfull, fun _ _ o rest h => ?_, fun _ h => ?_⟩
    · rw [ht]
      split
      · exact resend_newFlit hc.ports p
      · rw [hidle]
        rfl
    · rw [hold] at h
      exact absurd h (by simp)
    · obtain h | ⟨_, h⟩ := h
      · exact absurd (henc.symm.trans h) (by decide)
      · rw [ht, if_pos h]
  · next henc =>
    refine ⟨?_, fun h => absurd h hfull, fun _ h => absurd (henc.symm.trans h) (by decide), fun _ _ => ht⟩
    rw [ht]
    exact resend_newFlit hc.ports p

end Slot

/-! ### O38 -/

/-- R225, R254: the next flit of a KEYON run, where one has begun. -/
theorem keyonRun_some {k : Option Nat} {n : Nat} (h : k = some n) (hn : n < 15) : k.filter (· < 15) = some n := by
  rw [h]
  exact Option.filter_some_pos (decide_eq_true hn)

theorem keyonRun_none {k : Option Nat} (h : ∀ n, k = some n → 15 ≤ n) : k.filter (· < 15) = none :=
  Option.filter_eq_none_iff.mpr fun n hn => by simpa using h n hn

section Order
variable {s : State} {p : Fin 8} (hl : s.linkUp p = true)
include hl

theorem flitSlot_keyon {n : Nat} (hk : (s.port p).keyTx.filter (· < 15) = some n) : exec (.flitSlotTransmit p) s = .next (s.sendKeyon p n) := by
  show execFlitSlotTransmit p s = _
  unfold execFlitSlotTransmit
  dsimp only
  rw [hl, if_neg (by decide), hk]

variable (hk : (s.port p).keyTx.filter (· < 15) = none)
include hk

theorem flitSlot_nak (hd : (s.port p).nakDue = true) : exec (.flitSlotTransmit p) s =
    .next ((s.setPort p { s.port p with nakDue := false, waiting := true }).emit p (flitHdr 2 0 (s.port p).ack 0 0) idleBody) := by
  show execFlitSlotTransmit p s = _
  unfold execFlitSlotTransmit
  dsimp only
  rw [hl, if_neg (by decide), hk]
  dsimp only
  rw [if_pos hd]

theorem flitSlot_resend (hd : (s.port p).nakDue = false) {r : RFlit} (hr : (s.port p).toResend = some r) :
    exec (.flitSlotTransmit p) s = .next (s.resendFlit p r) := by
  show execFlitSlotTransmit p s = _
  unfold execFlitSlotTransmit
  dsimp only
  rw [hl, if_neg (by decide), hk]
  dsimp only
  rw [if_neg (by rw [hd]; decide), hr]

theorem flitSlot_fresh (hd : (s.port p).nakDue = false) (hr : (s.port p).toResend = none) :
    exec (.flitSlotTransmit p) s = .next ((s.setPort p { s.port p with resend := none }).sendFresh p) := by
  show execFlitSlotTransmit p s = _
  unfold execFlitSlotTransmit
  dsimp only
  rw [hl, if_neg (by decide), hk]
  dsimp only
  rw [if_neg (by rw [hd]; decide), hr]

end Order

section Fresh
variable {s : State} (p : Nat)

theorem port_unasked (hc : s.Canon) : (s.setPort p { s.port p with resend := none }).port p = { s.port p with resend := none } :=
  port_setPort_self hc.ports p _

theorem pphase_unasked (hc : s.Canon) : (s.setPort p { s.port p with resend := none }).pphase p = s.pphase p := by
  have hst : (s.setPort p { s.port p with resend := none }).pstate p = s.pstate p := rfl
  unfold State.pphase
  rw [port_unasked p hc, hst]

end Fresh

/-- R253: the slots at which a direction replaces its key. -/
theorem ratchets {i : Nat} (h0 : i ≠ 0) (h : i % 2 ^ 30 = 0) : (true && i != 0 && i % 2 ^ 30 == 0) = true := by
  rw [Bool.true_and, Bool.and_eq_true, bne_iff_ne, beq_iff_eq]
  exact ⟨h0, h⟩

/-- Settles O38 (log 98; that a NAK goes before a resend is the model's choice): the order of preference of a flit slot, read off
its branches. -/
theorem flitsAreSent : Obligations.FlitsAreSent := by
  refine ⟨fun p s start hc hl hstart => ?_, fun p s hc hl hw => ?_, fun p s i hc hi0 hi => ⟨fun henc hslot => ?_, fun henc hslot => ?_⟩⟩
  · have hcz := (State.setPort_keeps (.refl s) p { s.port p with resend := none }).canon hc
    have hpz := port_unasked p hc
    have hnone : ∀ {n}, (s.port p).keyTx = some n → ¬ n < 15 → (s.port p).keyTx.filter (· < 15) = none := fun h hn =>
      keyonRun_none fun m hm => Nat.not_lt.mp (Option.some.inj (h.symm.trans hm) ▸ hn)
    obtain ⟨t, ht⟩ := exec_completes (.flitSlotTransmit p) s
    refine ⟨t, ht, sameBut_of_next (c := .flitSlotTransmit p) ht, fun n hn hor => ?_, fun hge => ?_⟩
    · have hrun : ∃ u : State, t = u.sendKeyon p n ∧ u.Canon ∧ (u.port p).ack = (s.port p).ack ∧ (u.port p).replay = (s.port p).replay ∧
          (u.port p).sCur = (s.port p).sCur := by
        by_cases hlt : n < 15
        · exact ⟨s, Host.Outcome.next.inj (ht.symm.trans (flitSlot_keyon hl (keyonRun_some hn hlt))), hc, rfl, rfl, rfl⟩
        · obtain hlt' | ⟨hd, hr, hs, rfl⟩ := hor
          · exact absurd hlt' hlt
          refine ⟨s.setPort p { s.port p with resend := none }, ?_, hcz, ?_, ?_, ?_⟩
          · rw [Host.Outcome.next.inj (ht.symm.trans (flitSlot_fresh hl (hnone hn hlt) hd hr))]
            unfold State.sendFresh
            dsimp only
            rw [hpz]
            exact if_pos (hstart.symm.trans hs)
          · rw [hpz]; rfl
          · rw [hpz]
          · rw [hpz]
      obtain ⟨u, hu, hcu, hack, hrep, hcur⟩ := hrun
      obtain ⟨h1, h2, _, h3, h4⟩ := sendKeyon_port hcu p n hu
      rw [hack] at h1
      rw [hrep] at h2
      rw [hcur] at h4
      exact ⟨h1, h2, h3, h4⟩
    have hk := keyonRun_none hge
    refine ⟨fun hd => ?_, fun hd r hr => ?_, fun hd hr hs => ?_⟩
    · obtain rfl := Host.Outcome.next.inj (ht.symm.trans (flitSlot_nak hl hk hd))
      rw [port_emit (sorted_setPort hc.ports p _), port_setPort_self hc.ports]
      exact ⟨rfl, rfl, rfl, rfl, rfl⟩
    · exact resendFlit_port hc p r (Host.Outcome.next.inj (ht.symm.trans (flitSlot_resend hl hk hd hr)))
    · have ht' := Host.Outcome.next.inj (ht.symm.trans (flitSlot_fresh hl hk hd hr))
      have hf := sendFresh_port hcz p (by rw [hpz]; exact hstart.symm.trans hs) ht'
      rw [hpz, pphase_unasked p hc] at hf
      exact hf
  · refine ⟨s.setPort p { s.port p with nakDue := true }, congrArg Host.Outcome.next ?_, rfl, port_setPort_self hc.ports p _,
      fun r hr => port_setPort_ne s _ hr⟩
    exact if_pos (Bool.and_eq_true_iff.mpr ⟨hl, hw⟩)
  · refine ⟨s.setPort p _, ?_, rfl, fun r hr => port_setPort_ne s _ hr, port_setPort_self hc.ports p _⟩
    show execKeyRatchet p true s = _
    unfold execKeyRatchet
    dsimp only
    rw [if_pos rfl, if_pos rfl, if_pos rfl, if_pos rfl, henc, hslot]
    exact if_pos (ratchets hi0 hi)
  · refine ⟨s.setPort p _, ?_, rfl, fun r hr => port_setPort_ne s _ hr, port_setPort_self hc.ports p _⟩
    show execKeyRatchet p false s = _
    unfold execKeyRatchet
    dsimp only
    rw [if_neg Bool.false_ne_true, if_neg Bool.false_ne_true, if_neg Bool.false_ne_true, if_neg Bool.false_ne_true, henc, hslot]
    exact if_pos (ratchets hi0 hi)

end Sys2Proof.Machine


/-! Training of the ports (R220, R222 to R226): O39. -/

namespace Sys2Proof.Machine

/-! ### What a raised source shows (R388) -/

/-- R388: the page of a source that is raised shows it. -/
theorem raiseSrc_raised {s : State} (hs : Store.Sorted s.regs) (page : Nat) {bit : Nat} (hb : bit < 32) :
    ((s.raiseSrc page bit).rf (R.ERR_STAT_STAT page)).testBit bit = true := by
  have hw : ((s.wf (R.ERR_STAT_STAT page) (s.rf (R.ERR_STAT_STAT page) ||| 2 ^ bit)).rf (R.ERR_STAT_STAT page)).testBit bit = true := by
    rw [rf_wf_self hs (Nat.le_of_ble_eq_true rfl)]
    show ((s.rf (R.ERR_STAT_STAT page) ||| 2 ^ bit) % 2 ^ 32).testBit bit = true
    rw [Nat.testBit_mod_two_pow, Nat.testBit_or, Nat.testBit_two_pow_self]
    simp [hb]
  have hsw := sorted_wf hs (R.ERR_STAT_STAT page) (s.rf (R.ERR_STAT_STAT page) ||| 2 ^ bit)
  have hrest : (s.raiseSrc page bit).rf (R.ERR_STAT_STAT page) =
      (s.wf (R.ERR_STAT_STAT page) (s.rf (R.ERR_STAT_STAT page) ||| 2 ^ bit)).rf (R.ERR_STAT_STAT page) := by
    unfold State.raiseSrc
    rw [rf_of_regs (raisePair_regs _ _ _ _)]
    unfold State.errWords
    dsimp only
    generalize s.wf (R.ERR_STAT_STAT page) (s.rf (R.ERR_STAT_STAT page) ||| 2 ^ bit) = u at hsw ⊢
    have h1 : Spares (R.ERR_STAT_STAT page) u (u.bump (R.ERR_CNT_COUNT page) 1) := (Spares.refl _ u).bump (ne_page page (by decide)) 1
    refine Spares.rf ?_ hsw
    exact h1.ite ((h1.wf_far (m := R.ERR_FIRST_BIT page) (ne_page page (by decide)) _).wf_far (m := R.ERR_FIRST_VALID page) (ne_page page (by decide)) _)
  rw [hrest]
  exact hw

/-! ### Phases (R222) -/

theorem ports_wf (s : State) (l : Loc) (v : Nat) : (s.wf l v).ports = s.ports := rfl

theorem port_goPhase {s : State} (h : Store.Sorted s.ports) (p st : Nat) : (s.goPhase p st).port p = { s.port p with phase := st } := by
  unfold State.goPhase
  split
  · exact port_setPort_self h _ _
  · exact port_setPort_self (s := s.wf (R.MBL_STAT_STATE p) st) (by rw [ports_wf]; exact h) _ _

theorem pphase_goPhase {s : State} (hr : Store.Sorted s.regs) (hp : Store.Sorted s.ports) (p : Nat) {st : Nat} (h : st < 16) :
    (s.goPhase p st).pphase p = st := by
  have hport := port_goPhase hp p st
  unfold State.pphase
  rw [hport]
  by_cases hst : (s.goPhase p st).pstate p = pRetrain
  · rw [if_pos hst]
  · rw [if_neg hst]
    unfold State.goPhase at hst ⊢
    split
    · next hif =>
      rw [if_pos hif] at hst
      exact absurd hif.1 hst
    · have hset : ∀ (u : State) y, (u.setPort p y).pstate p = u.pstate p := fun _ _ => rfl
      rw [hset]
      exact (rf_wf_self hr (Nat.le_of_ble_eq_true rfl) st).trans (Nat.mod_eq_of_lt h)

theorem Spares.goPhase {l : Loc} {s0 s : State} (h : Spares l s0 s) {p : Nat} (hl : l.Clear (R.MBL_STAT_STATE p)) (st : Nat) :
    Spares l s0 (s.goPhase p st) := by
  unfold State.goPhase
  exact (h.setPort p _).ite ((h.wf (Nat.le_of_ble_eq_true rfl) hl st).setPort p _)

/-! ### A port that goes down (R226) -/

/-- What a failed port keeps to hand on. -/
def PortSt.got (y : PortSt) : List Pkt × Option Pkt × Option Pkt := (y.rx, y.last, y.sLast)

theorem got_setPort {s : State} (h : Store.Sorted s.ports) (p q : Nat) {y : PortSt} (hy : y.got = (s.port q).got) :
    ((s.setPort q y).port p).got = (s.port p).got := by
  by_cases e : p = q
  · subst e
    rw [port_setPort_self h, hy]
  · rw [port_setPort_ne s y e]

theorem got_cutThrough {s : State} (h : Store.Sorted s.ports) (p q : Nat) :
    Store.Sorted (s.cutThrough p).ports ∧ ((s.cutThrough p).port q).got = (s.port q).got := by
  unfold State.cutThrough
  generalize List.range 8 = l
  induction l generalizing s with
  | nil => exact ⟨h, rfl⟩
  | cons o l ih =>
    rw [List.foldl_cons]
    obtain ⟨hs, hg⟩ := ih (sorted_setPort h o { s.port o with
      held := (s.port o).held.map (OutPkt.cutFrom p), cur := (s.port o).cur.map (OutPkt.cutFrom p)
      sCur := (s.port o).sCur.map (OutPkt.cutFrom p) })
    exact ⟨hs, hg.trans (got_setPort h q o rfl)⟩

theorem port_discardOut_ne (s : State) (x : OutPkt) {p : Nat} (h : p ≠ x.from_) : (s.discardOut x).port p = s.port p := by
  unfold State.discardOut
  dsimp only
  split
  · rfl
  split
  · exact port_setPort_ne s _ h
  split
  · exact (port_setPort_ne _ _ h).trans (port_setPort_ne s _ h)
  · exact port_setPort_ne s _ h

theorem sorted_discardOut {s : State} (hs : Store.Sorted s.ports) (x : OutPkt) : Store.Sorted (s.discardOut x).ports := by
  unfold State.discardOut
  dsimp only
  split
  · exact hs
  split
  · exact sorted_setPort hs _ _
  split
  · exact sorted_setPort (sorted_setPort hs _ _) _ _
  · exact sorted_setPort hs _ _

theorem discardOuts {p : Nat} : ∀ (l : List OutPkt) {s : State}, Store.Sorted s.ports → (∀ x ∈ l, p ≠ x.from_) →
    Store.Sorted (l.foldl State.discardOut s).ports ∧ (l.foldl State.discardOut s).port p = s.port p
  | [], _, hs, _ => ⟨hs, rfl⟩
  | x :: l, s, hs, h => by
    obtain ⟨h1, h2⟩ := discardOuts l (sorted_discardOut hs x) fun y hy => h y (List.mem_cons_of_mem _ hy)
    exact ⟨h1, h2.trans (port_discardOut_ne s x (h x List.mem_cons_self))⟩

theorem ports_stopPll (s : State) (i : Nat) : (s.stopPll i).ports = s.ports := by
  unfold State.stopPll
  split
  · rfl
  · exact (State.setPll_same (.refl 8 s) rfl i 0).ports.resolve_left (by decide)

theorem port_unplugged {s : State} (h : Store.Sorted s.ports) (p st : Nat) :
    ((s.unplugged p st).port p).replay = [] ∧
    ((s.unplugged p st).port p).rx = (s.port p).rx ++ (s.port p).last.toList ++ (s.port p).sLast.toList := by
  have hst : Store.Sorted (s.stopPll (10 + p)).ports := ports_stopPll s _ ▸ h
  obtain ⟨hcs, hcg⟩ := got_cutThrough hst p p
  rw [port_of_ports (ports_stopPll s _)] at hcg
  unfold State.unplugged
  dsimp only
  generalize (s.stopPll (10 + p)).cutThrough p = u at hcs hcg ⊢
  obtain ⟨hds, -⟩ := discardOuts (p := p) (((u.port p).held ++ (u.port p).cur.toList ++ (u.port p).sCur.toList).filter fun x => x.from_ != p) hcs
    fun x hx => Ne.symm (bne_iff_ne.mp (List.mem_filter.mp hx).2)
  rw [port_setPort_self hds]
  simp only [PortSt.got, Prod.mk.injEq] at hcg
  obtain ⟨hrx, hlast, hslast⟩ := hcg
  exact ⟨rfl, by rw [hrx, hlast, hslast]⟩

theorem ports_portFail (s : State) (p bit : Nat) : (s.portFail p bit).ports = (s.unplugged p pFailed).ports := by
  unfold State.portFail
  rw [portDown_eq]
  generalize s.unplugged p pFailed = u
  exact (State.raiseSrc_same (State.wf_same (State.wf_same (State.wf_same (.refl 8589934600 u) rfl _ _) rfl _ _) rfl _ _) rfl _
    _).ports.resolve_left (by decide)

/-- R226: what the registers of a port that fails show. -/
theorem portFail_shown {s : State} (hs : Store.Sorted s.regs) (p : Nat) {bit : Nat} (hb : bit < 32) :
    (s.portFail p bit).pstate p = pFailed ∧ (s.portFail p bit).rf (R.MBL_STAT_WIDTH p) = 3 ∧
    (s.portFail p bit).rf (R.MBL_STAT_SECURE p) = 0 ∧
    ((s.portFail p bit).rf (R.ERR_STAT_STAT (Page.portBase p))).testBit bit = true := by
  have h1 := sorted_unplugged hs p pFailed
  have h2 := sorted_wf h1 (R.MBL_STAT_STATE p) pFailed
  have h3 := sorted_wf h2 (R.MBL_STAT_WIDTH p) 3
  have h4 : Store.Sorted (s.portDown p pFailed).regs := by
    rw [portDown_eq]
    exact sorted_wf h3 _ _
  have hw : (s.portDown p pFailed).rf (R.MBL_STAT_WIDTH p) = 3 := by
    rw [portDown_eq]
    exact (rf_wf_bits h3 _ (Nat.le_of_ble_eq_true rfl) (.inl (Nat.le_of_ble_eq_true rfl))).trans
      (rf_wf_self h2 (Nat.le_of_ble_eq_true rfl) 3)
  have hsec : (s.portDown p pFailed).rf (R.MBL_STAT_SECURE p) = 0 := by
    rw [portDown_eq]
    exact rf_wf_self h3 (Nat.le_of_ble_eq_true rfl) 0
  refine ⟨pstate_portFail hs p bit, ?_, ?_, raiseSrc_raised h4 _ hb⟩
  · exact (((Spares.refl (R.MBL_STAT_WIDTH p) _).raiseSrc (noErr_stat p) bit).rf h4).trans hw
  · exact (((Spares.refl (R.MBL_STAT_SECURE p) _).raiseSrc (noErr_stat p) bit).rf h4).trans hsec

/-! ### A port that retrains (R224) -/

theorem port_enterRetrain {s : State} (hp : Store.Sorted s.ports) (p : Nat) : (s.enterRetrain p).port p = { s.port p with
      phase := pTrain, retrain := true, encTx := false, encRx := false, keyTx := none, keyRx := none, kex := {}
      nakDue := false, waiting := false, resend := none } := by
  unfold State.enterRetrain
  dsimp only
  generalize ({ s.port p with
      phase := pTrain, retrain := true, encTx := false, encRx := false, keyTx := none, keyRx := none, kex := {}
      nakDue := false, waiting := false, resend := none } : PortSt) = y
  refine (port_of_ports ?_ p).trans (port_setPort_self hp p y)
  exact (State.raiseSrc_same (State.bump_same (State.wf_same (State.wf_same (.refl 8589934600 _) rfl _ _) rfl _ _) rfl _ _) rfl
    _ _).ports.resolve_left (by decide)

/-- R224: what the registers of a port that retrains show. -/
theorem enterRetrain_shown {s : State} (hs : Store.Sorted s.regs) (p : Nat) :
    (s.enterRetrain p).rf (R.MBL_STAT_SECURE p) = 0 ∧
    (s.enterRetrain p).rf (R.MBL_RETRAIN_CNT_COUNT p) = satAdd32 (s.rf (R.MBL_RETRAIN_CNT_COUNT p)) 1 := by
  unfold State.enterRetrain
  dsimp only
  generalize hu : s.setPort p _ = u
  have hsu : Store.Sorted u.regs := by
    rw [← hu]
    exact hs
  have hru : u.rf (R.MBL_RETRAIN_CNT_COUNT p) = s.rf (R.MBL_RETRAIN_CNT_COUNT p) := by
    rw [← hu]
    rfl
  have h1 := sorted_wf hsu (R.MBL_STAT_STATE p) pRetrain
  have h2 := sorted_wf h1 (R.MBL_STAT_SECURE p) 0
  have hsec : ((u.wf (R.MBL_STAT_STATE p) pRetrain).wf (R.MBL_STAT_SECURE p) 0).rf (R.MBL_STAT_SECURE p) = 0 :=
    rf_wf_self h1 (Nat.le_of_ble_eq_true rfl) 0
  have hcnt : ((u.wf (R.MBL_STAT_STATE p) pRetrain).wf (R.MBL_STAT_SECURE p) 0).rf (R.MBL_RETRAIN_CNT_COUNT p) =
      u.rf (R.MBL_RETRAIN_CNT_COUNT p) :=
    (((Spares.refl _ u).wf_far (ne_page _ (by decide)) _).wf_far (ne_page _ (by decide)) _).rf hsu
  generalize (u.wf (R.MBL_STAT_STATE p) pRetrain).wf (R.MBL_STAT_SECURE p) 0 = v at h2 hsec hcnt ⊢
  have h3 := sorted_bump h2 (R.MBL_RETRAIN_CNT_COUNT p) 1
  constructor
  · refine ((((Spares.refl (R.MBL_STAT_SECURE p) v).bump (m := R.MBL_RETRAIN_CNT_COUNT p) (ne_page _ (by decide)) 1).raiseSrc (noErr_stat p) 1).rf h2).trans hsec
  · have hno : (R.MBL_RETRAIN_CNT_COUNT p).NoErr (Page.portBase p) := Loc.noErr_of_page (.inr (Nat.add_le_add_left (by decide) _))
    refine (((Spares.refl _ _).raiseSrc hno 1).rf h3).trans ?_
    rw [rf_bump_self h2 (Nat.le_of_ble_eq_true rfl), hcnt, hru]
    exact satAdd32_mod _ _

/-! ### IDENT is entered (R220, R224, R225) -/

theorem chooseWidth_lt {cap pass w g : Nat} (h : chooseWidth cap pass = some (w, g)) : w < 3 ∧ g < 2 ^ w := by
  unfold chooseWidth at h
  obtain ⟨w', hw', he⟩ := List.exists_of_findSome?_eq_some h
  split at he
  · exact absurd he (by simp)
  obtain ⟨g', hg', heq⟩ := Option.map_eq_some_iff.mp he
  obtain ⟨rfl, rfl⟩ := Prod.mk.inj heq
  exact ⟨List.mem_range.mp hw', List.mem_range.mp (List.mem_of_find?_eq_some hg')⟩

/-- R225: what IDENT begins with. -/
def PortSt.identified (y : PortSt) : PortSt :=
  { y with
    oldNext := if y.retrain then y.rxSeq else 0, txSeq := 0, rxSeq := 0, old := if y.retrain then y.allOld else []
    replay := [], sAsm := y.asm, sRoute := y.asmRoute, sLast := y.last, sTail := y.tail, sCur := y.cur, asm := [], asmRoute := .unrouted
    last := none, tail := none, cur := none
    linkTx := y.linkTx.filter fun x => x.hdr.ptype == 7 }

/-- The registers below the fields are not a port's. -/
theorem ne_port_of_low {a : Nat} (h : a < 0x1000000) (p j : Nat) : a ≠ Page.portBase p + j :=
  Nat.ne_of_lt (Nat.lt_of_lt_of_le h (Nat.le_trans (portBase_high p) (Nat.le_add_right _ _)))

theorem identPkt_congr {s t : State} {p : Nat} (hd : t.devId = s.devId) (ho : (t.port p).oldNext = (s.port p).oldNext)
    (h0 : ∀ c, t.rf (R.MBL_RXALLOC_VC0 p c) = s.rf (R.MBL_RXALLOC_VC0 p c)) (h1 : ∀ c, t.rf (R.MBL_RXALLOC_VC1 p c) = s.rf (R.MBL_RXALLOC_VC1 p c))
    (hp : t.rf (R.MBL_PARTNER_DEVID p) = s.rf (R.MBL_PARTNER_DEVID p)) (hl : t.rf R.MBL_LIFE_UNITS = s.rf R.MBL_LIFE_UNITS) :
    identPkt t p = identPkt s p := by
  unfold identPkt
  simp only [hd, ho, h0, h1, hp, hl]

theorem enterIdent_eq (s : State) (p : Nat) : s.enterIdent p =
    ((s.setPort p (s.port p).identified).linkSend p (identPkt (s.setPort p (s.port p).identified) p)).goPhase p pIdent := rfl

theorem enterIdent_port {s : State} (hr : Store.Sorted s.regs) (hp : Store.Sorted s.ports) (p : Nat) :
    (s.enterIdent p).pphase p = pIdent ∧
    ∃ x, (s.enterIdent p).port p = { (s.port p).identified with phase := pIdent, linkTx := (s.port p).identified.linkTx ++ [x] } ∧
      x.hdr = identPkt (s.enterIdent p) p := by
  have h1 : Store.Sorted (s.setPort p (s.port p).identified).ports := sorted_setPort hp p _
  have hport := port_setPort_self hp p (s.port p).identified
  have hregs : (s.setPort p (s.port p).identified).regs = s.regs := rfl
  rw [enterIdent_eq]
  generalize s.setPort p (s.port p).identified = u at h1 hport hregs ⊢
  have hlink : (u.linkSend p (identPkt u p)).port p = { (s.port p).identified with linkTx := (s.port p).identified.linkTx ++
      [{ from_ := 12, hdr := identPkt u p, bytes := (identPkt u p).payload, whole := true, buf := bufOf (identPkt u p) }] } := by
    unfold State.linkSend
    rw [port_setPort_self h1, hport]
  have h2 : Store.Sorted (u.linkSend p (identPkt u p)).ports := sorted_setPort h1 p _
  have hregs2 : (u.linkSend p (identPkt u p)).regs = s.regs := hregs
  have hs2 : Store.Sorted (u.linkSend p (identPkt u p)).regs := hregs2 ▸ hr
  have hgo := port_goPhase h2 p pIdent
  have hspare : ∀ l : Loc, l.Clear (R.MBL_STAT_STATE p) → ((u.linkSend p (identPkt u p)).goPhase p pIdent).rf l = u.rf l := fun l hl =>
    ((Spares.refl l _).goPhase hl pIdent).rf hs2 |>.trans (rf_of_regs (hregs2.trans hregs.symm) l)
  refine ⟨pphase_goPhase hs2 h2 p (by decide), _, by rw [hgo, hlink], ?_⟩
  have hne : ∀ c, A.MBL_RXALLOC p c ≠ A.MBL_STAT p := fun c => by
    unfold A.MBL_RXALLOC A.MBL_STAT
    omega
  refine (identPkt_congr (hspare R.MBL_DEVID_ID (.inl (ne_port_of_low (by decide) p _))) ?_ (fun c => hspare _ (.inl (hne c)))
    (fun c => hspare _ (.inl (hne c))) (hspare _ (.inl (ne_page _ (by decide))))
    (hspare R.MBL_LIFE_UNITS (.inl (ne_port_of_low (by decide) p _)))).symm
  rw [hgo, hlink, hport]

theorem Spares.linkSend {l : Loc} {s0 s : State} (h : Spares l s0 s) (p : Nat) (x : Pkt) : Spares l s0 (s.linkSend p x) := h.setPort p _

theorem Spares.enterIdent {l : Loc} {s : State} {p : Nat} (hl : l.Clear (R.MBL_STAT_STATE p)) : Spares l s (s.enterIdent p) := by
  rw [enterIdent_eq]
  have h1 := (Spares.refl l s).setPort p (s.port p).identified
  generalize s.setPort p (s.port p).identified = u at h1 ⊢
  exact (h1.linkSend p (identPkt u p)).goPhase hl pIdent

/-- R220: the registers of a port whose lanes are aligned. -/
def State.aligned (s : State) (p pass inv w g rev delay : Nat) : State :=
  (((((s.wf (R.MBL_LANES_PASS p) pass).wf (R.MBL_LANES_INV p) inv).wf (R.MBL_STAT_WIDTH p) w).wf (R.MBL_STAT_LGROUP p) g).wf
    (R.MBL_STAT_REVERSED p) rev).wf (R.MBL_LINKDLY_NS p) delay

theorem ports_aligned (s : State) (p pass inv w g rev delay : Nat) : (s.aligned p pass inv w g rev delay).ports = s.ports := by
  unfold State.aligned
  rw [ports_wf, ports_wf, ports_wf, ports_wf, ports_wf, ports_wf]

theorem sorted_aligned {s : State} (h : Store.Sorted s.regs) (p pass inv w g rev delay : Nat) :
    Store.Sorted (s.aligned p pass inv w g rev delay).regs :=
  sorted_wf (sorted_wf (sorted_wf (sorted_wf (sorted_wf (sorted_wf h _ _) _ _) _ _) _ _) _ _) _ _

section Aligned
variable {s : State} (hs : Store.Sorted s.regs) (p pass inv w g rev delay : Nat)
include hs

theorem aligned_lanes :
    (s.aligned p pass inv w g rev delay).rf (R.MBL_LANES_PASS p) = pass % 2 ^ 16 ∧
    (s.aligned p pass inv w g rev delay).rf (R.MBL_LANES_INV p) = inv % 2 ^ 16 ∧
    (s.aligned p pass inv w g rev delay).rf (R.MBL_LINKDLY_NS p) = delay % 2 ^ 16 := by
  have h1 := sorted_wf hs (R.MBL_LANES_PASS p) pass
  have h2 := sorted_wf h1 (R.MBL_LANES_INV p) inv
  have hpass : ((s.wf (R.MBL_LANES_PASS p) pass).wf (R.MBL_LANES_INV p) inv).rf (R.MBL_LANES_PASS p) = pass % 2 ^ 16 :=
    (rf_wf_bits h1 _ (Nat.le_of_ble_eq_true rfl) (.inl (Nat.le_of_ble_eq_true rfl))).trans (rf_wf_self hs (Nat.le_of_ble_eq_true rfl) pass)
  have hinv : ((s.wf (R.MBL_LANES_PASS p) pass).wf (R.MBL_LANES_INV p) inv).rf (R.MBL_LANES_INV p) = inv % 2 ^ 16 :=
    rf_wf_self h1 (Nat.le_of_ble_eq_true rfl) inv
  unfold State.aligned
  generalize (s.wf (R.MBL_LANES_PASS p) pass).wf (R.MBL_LANES_INV p) inv = u at h2 hpass hinv ⊢
  have hsp : ∀ (b : Nat) (k : Nat), Spares ⟨A.MBL_LANES p, b, k⟩ u
      ((((u.wf (R.MBL_STAT_WIDTH p) w).wf (R.MBL_STAT_LGROUP p) g).wf (R.MBL_STAT_REVERSED p) rev).wf (R.MBL_LINKDLY_NS p) delay) := fun b k =>
    ((((Spares.refl _ u).wf_far (m := R.MBL_STAT_WIDTH p) (ne_page _ (by decide)) w).wf_far (m := R.MBL_STAT_LGROUP p) (ne_page _ (by decide))
      g).wf_far (m := R.MBL_STAT_REVERSED p) (ne_page _ (by decide)) rev).wf_far (m := R.MBL_LINKDLY_NS p) (ne_page _ (by decide)) delay
  refine ⟨((hsp 0 16).rf h2).trans hpass, ((hsp 16 16).rf h2).trans hinv, ?_⟩
  exact rf_wf_self (sorted_wf (sorted_wf (sorted_wf h2 _ _) _ _) _ _) (Nat.le_of_ble_eq_true rfl) delay

theorem aligned_stat :
    (s.aligned p pass inv w g rev delay).rf (R.MBL_STAT_WIDTH p) = w % 2 ^ 2 ∧
    (s.aligned p pass inv w g rev delay).rf (R.MBL_STAT_LGROUP p) = g % 2 ^ 2 ∧
    (s.aligned p pass inv w g rev delay).rf (R.MBL_STAT_REVERSED p) = rev % 2 ^ 1 := by
  have h2 := sorted_wf (sorted_wf hs (R.MBL_LANES_PASS p) pass) (R.MBL_LANES_INV p) inv
  unfold State.aligned
  generalize (s.wf (R.MBL_LANES_PASS p) pass).wf (R.MBL_LANES_INV p) inv = u at h2 ⊢
  have h3 := sorted_wf h2 (R.MBL_STAT_WIDTH p) w
  have h4 := sorted_wf h3 (R.MBL_STAT_LGROUP p) g
  have h5 := sorted_wf h4 (R.MBL_STAT_REVERSED p) rev
  have hw : (u.wf (R.MBL_STAT_WIDTH p) w).rf (R.MBL_STAT_WIDTH p) = w % 2 ^ 2 := rf_wf_self h2 (Nat.le_of_ble_eq_true rfl) w
  have hg : ((u.wf (R.MBL_STAT_WIDTH p) w).wf (R.MBL_STAT_LGROUP p) g).rf (R.MBL_STAT_LGROUP p) = g % 2 ^ 2 :=
    rf_wf_self h3 (Nat.le_of_ble_eq_true rfl) g
  have hr : (((u.wf (R.MBL_STAT_WIDTH p) w).wf (R.MBL_STAT_LGROUP p) g).wf (R.MBL_STAT_REVERSED p) rev).rf (R.MBL_STAT_REVERSED p) =
      rev % 2 ^ 1 := rf_wf_self h4 (Nat.le_of_ble_eq_true rfl) rev
  refine ⟨(Spares.rf (((Spares.refl _ _).wf (m := R.MBL_STAT_LGROUP p) (Nat.le_of_ble_eq_true rfl) (Loc.clear_above rfl) g).wf
    (m := R.MBL_STAT_REVERSED p) (Nat.le_of_ble_eq_true rfl) (Loc.clear_above rfl) rev |>.wf_far (m := R.MBL_LINKDLY_NS p) (ne_page _ (by decide)) delay)
      h3).trans hw, (Spares.rf ((Spares.refl _ _).wf (m := R.MBL_STAT_REVERSED p) (Nat.le_of_ble_eq_true rfl) (Loc.clear_above rfl) rev
    |>.wf_far (m := R.MBL_LINKDLY_NS p) (ne_page _ (by decide)) delay) h4).trans hg,
    (Spares.rf ((Spares.refl _ _).wf_far (m := R.MBL_LINKDLY_NS p) (ne_page _ (by decide)) delay) h5).trans hr⟩

end Aligned

/-! ### O39 -/

theorem maxw_lanes {s : State} {p : Nat} (pass inv : BitVec 16) :
    ((s.wf (R.MBL_LANES_PASS p) pass.toNat).wf (R.MBL_LANES_INV p) inv.toNat).rf (R.MBL_CTRL_MAXW p) = s.rf (R.MBL_CTRL_MAXW p) :=
  (rf_wf_addr _ _ (ne_page _ (by decide))).trans (rf_wf_addr _ _ (ne_page _ (by decide)))

section Align
variable {s : State} {p : Fin 8} (hk : s.portClocked p = true) (hph : s.pphase p = pAlign) (pass inv : BitVec 16) (rev : Bool) (delay : BitVec 16)
include hk hph

theorem align_none (h : chooseWidth (s.rf (R.MBL_CTRL_MAXW p)) pass.toNat = none) : exec (.alignComplete p pass inv rev delay) s =
    .next ((s.wf (R.MBL_LANES_PASS p) pass.toNat).wf (R.MBL_LANES_INV p) inv.toNat) := by
  rw [← maxw_lanes pass inv] at h
  show execAlignComplete p pass inv rev delay s = _
  unfold execAlignComplete
  rw [hk, if_neg (by rw [hph]; decide)]
  extract_lets u
  split
  · rfl
  · next hsome => exact absurd (hsome.symm.trans h) (by simp)

theorem align_some {w g : Nat} (h : chooseWidth (s.rf (R.MBL_CTRL_MAXW p)) pass.toNat = some (w, g)) :
    exec (.alignComplete p pass inv rev delay) s =
      .next ((s.aligned p pass.toNat inv.toNat w g (if rev then 1 else 0) delay.toNat).enterIdent p) := by
  rw [← maxw_lanes pass inv] at h
  show execAlignComplete p pass inv rev delay s = _
  unfold execAlignComplete
  rw [hk, if_neg (by rw [hph]; decide)]
  extract_lets u
  split
  · next hnone => exact absurd (h.symm.trans hnone) (by simp)
  · next hsome =>
    obtain ⟨rfl, rfl⟩ := Prod.mk.inj (Option.some.inj (h.symm.trans hsome))
    rfl

end Align

/-- Settles O39: each event of training is one change of phase; what a port shows and keeps is read off its going down, its
retraining and its entering IDENT. -/
theorem portsTrain : Obligations.PortsTrain := by
  refine fun p s hc => ⟨fun hn => ⟨?_, ?_, fun pass inv rev delay => ?_⟩, fun hk hph => ?_, fun hk hph => ?_, fun pass inv rev delay w g hk hph hch => ?_,
    fun pass inv rev delay hk hph hch => ?_, fun hlo hhi => ?_, fun hact => ?_⟩
  · exact congrArg Host.Outcome.next (if_neg (by rw [hn]; simp))
  · exact congrArg Host.Outcome.next (if_neg (by rw [hn]; simp))
  · exact if_pos (by rw [hn]; simp)
  · have he : exec (.detectSignal p) s = .next (s.goPhase p pTrain) := congrArg Host.Outcome.next (if_pos ⟨hph, hk⟩)
    exact ⟨_, he, sameBut_of_next he, pphase_goPhase hc.regs hc.ports p (by decide)⟩
  · have he : exec (.trainComplete p) s = .next (s.goPhase p pAlign) := congrArg Host.Outcome.next (if_pos ⟨hph, hk⟩)
    exact ⟨_, he, sameBut_of_next he, pphase_goPhase hc.regs hc.ports p (by decide)⟩
  · obtain ⟨hw3, hg4⟩ := chooseWidth_lt hch
    have hrun := align_some hk hph pass inv rev delay hch
    obtain ⟨hpass, hinv, hdelay⟩ := aligned_lanes hc.regs p pass.toNat inv.toNat w g (if rev then 1 else 0) delay.toNat
    obtain ⟨hwid, hgrp, hrev⟩ := aligned_stat hc.regs p pass.toNat inv.toNat w g (if rev then 1 else 0) delay.toNat
    have hsv := sorted_aligned hc.regs p pass.toNat inv.toNat w g (if rev then 1 else 0) delay.toNat
    have hpv := ports_aligned s p pass.toNat inv.toNat w g (if rev then 1 else 0) delay.toNat
    generalize s.aligned p pass.toNat inv.toNat w g (if rev then 1 else 0) delay.toNat = v at hrun hpass hinv hdelay hwid hgrp hrev hsv hpv
    obtain ⟨hphase, x, hport, hx⟩ := enterIdent_port hsv (hpv ▸ hc.ports) p
    have hkeep : ∀ l : Loc, l.Clear (R.MBL_STAT_STATE p) → (v.enterIdent p).rf l = v.rf l := fun l hl => (Spares.enterIdent hl).rf hsv
    rw [port_of_ports hpv] at hport
    have hw4 : w % 2 ^ 2 = w := Nat.mod_eq_of_lt (by omega)
    have hg4' : g % 2 ^ 2 = g := Nat.mod_eq_of_lt (by
      have := Nat.pow_le_pow_right (n := 2) (by decide) (Nat.le_of_lt_succ hw3)
      omega)
    refine ⟨_, hrun, sameBut_of_next hrun, hphase, ?_, ?_, ?_, ?_, ?_, ?_, ?_, ?_, ?_, ?_, ?_, x, ?_, hx⟩
    · exact (hkeep _ (Loc.clear_below rfl)).trans (hwid.trans hw4)
    · exact (hkeep _ (Loc.clear_below rfl)).trans (hgrp.trans hg4')
    · exact (hkeep _ (.inl (ne_page _ (by decide)))).trans (hpass.trans (Nat.mod_eq_of_lt pass.isLt))
    · exact (hkeep _ (.inl (ne_page _ (by decide)))).trans (hinv.trans (Nat.mod_eq_of_lt inv.isLt))
    · refine (hkeep _ (Loc.clear_below rfl)).trans (hrev.trans ?_)
      cases rev <;> rfl
    · exact (hkeep _ (.inl (ne_page _ (by decide)))).trans (hdelay.trans (Nat.mod_eq_of_lt delay.isLt))
    all_goals rw [hport]
    all_goals rfl
  · have hrun := align_none hk hph pass inv rev delay hch
    refine ⟨_, hrun, Same.but (State.wf_same (State.wf_same (.refl 8 s) rfl _ _) rfl _ _) rfl, ?_, ?_⟩
    · have hst : ((s.wf (R.MBL_LANES_PASS p) pass.toNat).wf (R.MBL_LANES_INV p) inv.toNat).pstate p = s.pstate p :=
        (rf_wf_addr _ _ (ne_page _ (by decide))).trans (rf_wf_addr _ _ (ne_page _ (by decide)))
      have hpo : ((s.wf (R.MBL_LANES_PASS p) pass.toNat).wf (R.MBL_LANES_INV p) inv.toNat).ports = s.ports := by rw [ports_wf, ports_wf]
      rw [← hph]
      unfold State.pphase
      rw [hst, port_of_ports hpo]
    · exact (rf_wf_bits (sorted_wf hc.regs _ _) _ (Nat.le_of_ble_eq_true rfl) (.inl (Nat.le_of_ble_eq_true rfl))).trans
        ((rf_wf_self hc.regs (Nat.le_of_ble_eq_true rfl) _).trans (Nat.mod_eq_of_lt pass.isLt))
  · have he : exec (.portStateTimeout p) s = .next (s.portFail p 2) := congrArg Host.Outcome.next (if_pos ⟨hlo, hhi⟩)
    obtain ⟨hst, hwid, hsec, herr⟩ := portFail_shown hc.regs p (bit := 2) (by decide)
    obtain ⟨hrep, hrx⟩ := port_unplugged hc.ports p pFailed
    have hp : (s.portFail p 2).port p = (s.unplugged p pFailed).port p := port_of_ports (ports_portFail s p 2) p
    refine ⟨_, he, sameBut_of_next he, hst, hwid, hsec, ?_, ?_, herr⟩
    · rw [hp, hrep]
    · rw [hp, hrx]
  · have he : exec (.laneSignalLoss p) s = .next (s.enterRetrain p) := congrArg Host.Outcome.next (if_pos hact)
    obtain ⟨hst, -⟩ := enterRetrain_state hc p
    obtain ⟨hsec, hcnt⟩ := enterRetrain_shown hc.regs p
    have hport := port_enterRetrain hc.ports p
    refine ⟨_, he, sameBut_of_next he, hst, ?_, ?_, ?_, ?_, hsec, hcnt⟩
    · unfold State.pphase
      rw [if_pos hst, hport]
    all_goals rw [hport]

end Sys2Proof.Machine


/-! IDENT, the key exchange and heartbeats (R223, R250 to R253): O40. -/

namespace Sys2Proof.Machine

theorem regs_setPort (s : State) (p : Nat) (y : PortSt) : (s.setPort p y).regs = s.regs := rfl

/-! ### Bytes -/

theorem leNat_lt : ∀ l : List Byte, leNat l < 256 ^ l.length
  | [] => Nat.one_pos
  | b :: l => by
    have h := leNat_lt l
    have hb := b.isLt
    rw [List.length_cons, Nat.pow_succ]
    show b.toNat + 256 * leNat l < _
    omega

theorem leAt_lt (l : List Byte) (o n : Nat) : leAt l o n < 256 ^ n :=
  Nat.lt_of_lt_of_le (leNat_lt _) (Nat.pow_le_pow_right (by decide) (List.length_take_le n _))

/-! ### Link-local packets (R239) -/

theorem takeCtl_some {s u : State} {p t : Nat} {x : Pkt} (h : s.takeCtl p t = some (x, u)) :
    ∃ r, (s.port p).ctl = x :: r ∧ u = s.setPort p { s.port p with ctl := r } := by
  unfold State.takeCtl at h
  dsimp only at h
  split at h
  · next y r hr =>
    split at h
    · obtain ⟨rfl, rfl⟩ := Prod.mk.inj (Option.some.inj h)
      exact ⟨r, hr, rfl⟩
    · exact absurd h (by simp)
  · exact absurd h (by simp)

/-- From `s` to `t` only what port `p` still has to send on its link changes. -/
structure Queues (p : Nat) (s t : State) : Prop where
  ports : Store.Sorted s.ports → Store.Sorted t.ports
  regs : t.regs = s.regs
  port : Store.Sorted s.ports → ∃ l, t.port p = { s.port p with linkTx := l }

theorem Queues.refl (p : Nat) (s : State) : Queues p s s := ⟨id, rfl, fun _ => ⟨_, rfl⟩⟩

theorem Queues.trans {p : Nat} {s t u : State} (h : Queues p s t) (k : Queues p t u) : Queues p s u := by
  refine ⟨fun hs => k.ports (h.ports hs), k.regs.trans h.regs, fun hs => ?_⟩
  obtain ⟨l, hl⟩ := h.port hs
  obtain ⟨m, hm⟩ := k.port (h.ports hs)
  exact ⟨m, by rw [hm, hl]⟩

theorem Queues.phase {p : Nat} {s t : State} (h : Queues p s t) (hs : Store.Sorted s.ports) : (t.port p).phase = (s.port p).phase := by
  obtain ⟨l, hl⟩ := h.port hs
  rw [hl]

theorem Queues.kex {p : Nat} {s t : State} (h : Queues p s t) (hs : Store.Sorted s.ports) : (t.port p).kex = (s.port p).kex := by
  obtain ⟨l, hl⟩ := h.port hs
  rw [hl]

theorem queues_linkSend (s : State) (p : Nat) (x : Pkt) : Queues p s (s.linkSend p x) :=
  ⟨fun hs => sorted_setPort hs p _, rfl, fun hs => ⟨_, port_setPort_self hs p _⟩⟩

theorem queues_foldl {p : Nat} {α : Type} {f : State → α → State} (hf : ∀ s a, Queues p s (f s a)) :
    ∀ (l : List α) (s : State), Queues p s (l.foldl f s)
  | [], s => .refl p s
  | a :: l, s => (hf s a).trans (queues_foldl hf l (f s a))

theorem queues_kexSend (s : State) (p msg : Nat) (b : List Byte) : Queues p s (s.kexSend p msg b) :=
  queues_foldl (fun s _ => queues_linkSend s p _) _ s

/-! ### A port that fails (R226) -/

theorem Spares.setPll {l : Loc} {s0 s : State} (h : Spares l s0 s) (hl : 0x1000000 ≤ l.addr) {i : Nat} (hi : i < 32) (st : Nat) :
    Spares l s0 (s.setPll i st) := by
  have h1 : l.addr ≠ A.CLK_PLL i := by
    unfold A.CLK_PLL Page.clockBase
    omega
  have h2 : l.addr ≠ A.CLK_FMETER (meterOf i).1 := by
    have : (meterOf i).1 < 40 := by
      unfold meterOf
      split_ifs <;> omega
    unfold A.CLK_FMETER Page.clockBase
    omega
  unfold State.setPll
  exact ((h.wf_far (m := R.CLK_PLL_STATE i) h1 _).wf_far (m := R.CLK_PLL_GOOD i) h1 _).wf_far (m := R.CLK_FMETER_KHZ (meterOf i).1) h2 _

theorem regs_unplugged (s : State) (p st : Nat) : (s.unplugged p st).regs = (s.stopPll (10 + p)).regs := by
  have h1 : ∀ (t : State) q y, (t.setPort q y).regs = t.regs := fun _ _ _ => rfl
  have h2 := fun (t : State) l => (foldl_same (l := l) (fun _ x h => State.discardOut_same h rfl x) (.refl 274877906944 t)).regs.resolve_left
    (by decide)
  have h3 : ((s.stopPll (10 + p)).cutThrough p).regs = (s.stopPll (10 + p)).regs :=
    (State.cutThrough_same (.refl 274877906944 (s.stopPll (10 + p))) rfl p).regs.resolve_left (by decide)
  unfold State.unplugged
  exact (h1 _ _ _).trans ((h2 _ _).trans h3)

/-- R226: a port that fails keeps the registers of its page but for its state and its errors. -/
theorem Spares.portFail {l : Loc} {s : State} {p : Nat} (hp : p < 8) (hl : 0x1000000 ≤ l.addr) (hs : l.addr ≠ A.MBL_STAT p)
    (hn : l.NoErr (Page.portBase p)) (bit : Nat) : Spares l s (s.portFail p bit) := by
  have h1 : Spares l s (s.unplugged p pFailed) := by
    have hpll : Spares l s (s.stopPll (10 + p)) := by
      unfold State.stopPll
      exact (Spares.refl l s).ite ((Spares.refl l s).setPll hl (by omega) 0)
    have hregs := regs_unplugged s p pFailed
    generalize s.unplugged p pFailed = u at hregs ⊢
    exact hpll.then_regs hregs
  unfold State.portFail
  refine Spares.raiseSrc ?_ hn bit
  rw [portDown_eq]
  generalize s.unplugged p pFailed = u at h1 ⊢
  exact ((h1.wf_far (m := R.MBL_STAT_STATE p) hs _).wf_far (m := R.MBL_STAT_WIDTH p) hs _).wf_far (m := R.MBL_STAT_SECURE p) hs _

/-! ### IDENT (R223) -/

/-- R223: the port shows what its partner says of itself. -/
def State.seen (s : State) (p dev port : Nat) : State :=
  ((s.wf (R.MBL_SEEN_DEVID p) dev).wf (R.MBL_SEEN_PORT p) port).wf (R.MBL_SEEN_VALID p) 1

/-- R223: what disagrees in the partner's IDENT. -/
def State.identBad (s : State) (p : Nat) (b : List Byte) : Bool :=
  leAt b 0 3 != s.rf (R.MBL_PARTNER_DEVID p) || leAt b 3 1 != s.rf (R.MBL_PARTNER_PORT p) || leAt b 4 2 != 1 || leAt b 0 3 == s.devId ||
    ((List.range 8).map fun i => leAt b (8 + 2 * i) 2).any (· < 33) ||
    ((List.range 8).map fun i => leAt b (8 + 2 * i) 2).foldl (· + ·) 0 > 32768

/-- R223, R225: an IDENT that agrees gives the credits and takes what the partner has from the old flits. -/
def PortSt.agreed (y : PortSt) (b : List Byte) : PortSt :=
  { y with
    credits := if y.retrain then y.credits else (List.range 8).map fun i => leAt b (8 + 2 * i) 2
    old := y.old.filter fun r => !r.precedes (leAt b 6 2) }

/-- R223: the port enters KEX; the end with the lower device ID is the initiator. -/
def State.kexPhase (s : State) (p dev : Nat) (b : List Byte) : State :=
  ((s.setPort p ((s.port p).agreed b)).wf (R.MBL_STAT_INIT p) (if s.devId < dev then 1 else 0)).goPhase p pKex

/-- R251: the exchange that the end with the lower device ID begins. -/
def kexBegins (first : Prop) [Decidable first] (kex1 : List Byte) : KexSt :=
  { next := if first then 2 else 1, transcript := if first then kexBytes (1 :: kex1) else [] }

def State.toKex (s : State) (p dev : Nat) (b kex1 : List Byte) : State :=
  (s.kexPhase p dev b).setPort p { (s.kexPhase p dev b).port p with kex := kexBegins (s.devId < dev) kex1 }

theorem ident_runs {s u v : State} {p : Fin 8} {x : Pkt} {b : List Byte} (hph : s.pphase p = pIdent)
    (hx : s.takeCtl p 8 = some (x, u)) (hxb : x.payload = b) (hv : u.seen p (leAt b 0 3) (leAt b 3 1) = v) (kex1 : List Byte) :
    exec (.ident p kex1) s = .next (if v.identBad p b then v.portFail p 3
      else if v.devId < leAt b 0 3 then (v.toKex p (leAt b 0 3) b kex1).kexSend p 1 (1 :: kex1)
      else v.toKex p (leAt b 0 3) b kex1) := by
  show execIdent p kex1 s = _
  unfold execIdent
  rw [if_neg (not_not.mpr hph), hx]
  dsimp -zeta only
  extract_lets b' dev port alloc w bad y z init k src l
  have hb : b' = b := hxb
  have hw : w = v := by
    rw [← hv, ← hb]
    rfl
  rw [← hb] at hv ⊢
  rw [← hw]
  clear_value w
  have hk : w.toKex p dev b' kex1 = l := rfl
  have hbad : w.identBad p b' = bad := rfl
  change _ = Host.Outcome.next (if w.identBad p b' = true then _ else if _ then (w.toKex p dev b' kex1).kexSend p 1 (1 :: kex1) else w.toKex p dev b' kex1)
  rw [hbad, hk]
  by_cases hc : bad = true
  · rw [if_pos hc, if_pos hc]
  · rw [if_neg hc, if_neg hc]

section Ident
variable {s : State} (hr : Store.Sorted s.regs) (hp : Store.Sorted s.ports) (p dev port : Nat) (b kex1 : List Byte)
include hr

theorem seen_shown : Store.Sorted (s.seen p dev port).regs ∧ (s.seen p dev port).rf (R.MBL_SEEN_DEVID p) = dev % 2 ^ 24 ∧
    (s.seen p dev port).rf (R.MBL_SEEN_PORT p) = port % 2 ^ 3 ∧ (s.seen p dev port).rf (R.MBL_SEEN_VALID p) = 1 := by
  have h1 := sorted_wf hr (R.MBL_SEEN_DEVID p) dev
  have h2 := sorted_wf h1 (R.MBL_SEEN_PORT p) port
  have hd := rf_wf_self hr (l := R.MBL_SEEN_DEVID p) (Nat.le_of_ble_eq_true rfl) dev
  have hq := rf_wf_self h1 (l := R.MBL_SEEN_PORT p) (Nat.le_of_ble_eq_true rfl) port
  refine ⟨sorted_wf h2 _ _, ?_, ?_, rf_wf_self h2 (Nat.le_of_ble_eq_true rfl) 1⟩
  · exact (Spares.rf (((Spares.refl _ _).wf (m := R.MBL_SEEN_PORT p) (Nat.le_of_ble_eq_true rfl) (Loc.clear_above rfl) port).wf
      (m := R.MBL_SEEN_VALID p) (Nat.le_of_ble_eq_true rfl) (Loc.clear_above rfl) 1) h1).trans hd
  · exact (Spares.rf ((Spares.refl _ _).wf (m := R.MBL_SEEN_VALID p) (Nat.le_of_ble_eq_true rfl) (Loc.clear_above rfl) 1) h2).trans hq

omit hr in
theorem ports_seen (s : State) (p dev port : Nat) : (s.seen p dev port).ports = s.ports := by
  unfold State.seen
  rw [ports_wf, ports_wf, ports_wf]

omit hr in
theorem spares_seen {l : Loc} (h : l.addr ≠ A.MBL_SEEN p) : Spares l s (s.seen p dev port) := by
  unfold State.seen
  exact (((Spares.refl l s).wf_far (m := R.MBL_SEEN_DEVID p) h _).wf_far (m := R.MBL_SEEN_PORT p) h _).wf_far (m := R.MBL_SEEN_VALID p) h _

omit hr in
theorem spares_kexPhase {l : Loc} (hst : l.Clear (R.MBL_STAT_STATE p)) (hin : l.Clear (R.MBL_STAT_INIT p)) :
    Spares l s (s.kexPhase p dev b) := by
  have h1 := ((Spares.refl l s).setPort p ((s.port p).agreed b)).wf (m := R.MBL_STAT_INIT p) (Nat.le_of_ble_eq_true rfl) hin
    (if s.devId < dev then 1 else 0)
  unfold State.kexPhase
  generalize (s.setPort p ((s.port p).agreed b)).wf (R.MBL_STAT_INIT p) (if s.devId < dev then 1 else 0) = u at h1 ⊢
  exact h1.goPhase hst pKex

omit hr in
theorem spares_toKex {l : Loc} (hst : l.Clear (R.MBL_STAT_STATE p)) (hin : l.Clear (R.MBL_STAT_INIT p)) :
    Spares l s (s.toKex p dev b kex1) := (spares_kexPhase p dev b hst hin).setPort p _

theorem sorted_kexPhase : Store.Sorted (s.kexPhase p dev b).regs :=
  (spares_kexPhase (s := s) (l := R.MBL_SEEN_DEVID p) p dev b (.inl (ne_page _ (by decide))) (.inl (ne_page _ (by decide)))).sorted hr

omit hr in
theorem sorted_ports_goPhase {s : State} (h : Store.Sorted s.ports) (p st : Nat) : Store.Sorted (s.goPhase p st).ports := by
  unfold State.goPhase
  split
  · exact sorted_setPort h p _
  · exact sorted_setPort (s := s.wf (R.MBL_STAT_STATE p) st) (by rw [ports_wf]; exact h) p _

include hp in
theorem kexPhase_shown : Store.Sorted (s.kexPhase p dev b).ports ∧ (s.kexPhase p dev b).pphase p = pKex ∧
    (s.kexPhase p dev b).rf (R.MBL_STAT_INIT p) = (if s.devId < dev then 1 else 0) := by
  have h1 : Store.Sorted (s.setPort p ((s.port p).agreed b)).regs := by
    rw [regs_setPort]
    exact hr
  have hin := rf_wf_self h1 (l := R.MBL_STAT_INIT p) (Nat.le_of_ble_eq_true rfl) (if s.devId < dev then 1 else 0)
  have h2 := sorted_wf h1 (R.MBL_STAT_INIT p) (if s.devId < dev then 1 else 0)
  have h3 : Store.Sorted ((s.setPort p ((s.port p).agreed b)).wf (R.MBL_STAT_INIT p) (if s.devId < dev then 1 else 0)).ports := by
    rw [ports_wf]
    exact sorted_setPort hp p _
  unfold State.kexPhase
  generalize (s.setPort p ((s.port p).agreed b)).wf (R.MBL_STAT_INIT p) (if s.devId < dev then 1 else 0) = u at hin h2 h3 ⊢
  refine ⟨sorted_ports_goPhase h3 p _, pphase_goPhase h2 h3 p (by decide), ?_⟩
  rw [((Spares.refl (R.MBL_STAT_INIT p) u).goPhase (p := p) (Loc.clear_below rfl) pKex).rf h2, hin]
  split <;> rfl

omit hr in
theorem pphase_setPort {s : State} (hp : Store.Sorted s.ports) (p : Nat) {y : PortSt} (hy : y.phase = (s.port p).phase) :
    (s.setPort p y).pphase p = s.pphase p := by
  have hst : (s.setPort p y).pstate p = s.pstate p := rf_of_regs (regs_setPort s p y) _
  unfold State.pphase
  rw [hst, port_setPort_self hp, hy]

omit hr in
theorem phase_withKex (y : PortSt) (k : KexSt) : ({ y with kex := k } : PortSt).phase = y.phase := rfl

include hp in
theorem toKex_shown : Store.Sorted (s.toKex p dev b kex1).regs ∧ Store.Sorted (s.toKex p dev b kex1).ports ∧
    (s.toKex p dev b kex1).pphase p = pKex ∧ (s.toKex p dev b kex1).rf (R.MBL_STAT_INIT p) = (if s.devId < dev then 1 else 0) ∧
    ((s.toKex p dev b kex1).port p).kex = kexBegins (s.devId < dev) kex1 := by
  have hsort := sorted_kexPhase hr p dev b
  obtain ⟨hsp, hph, hin⟩ := kexPhase_shown hr hp p dev b
  unfold State.toKex
  generalize s.kexPhase p dev b = v at hsort hsp hph hin ⊢
  refine ⟨?_, sorted_setPort hsp p _, ?_, ?_, ?_⟩
  · rw [regs_setPort]
    exact hsort
  · exact (pphase_setPort hsp p (phase_withKex _ _)).trans hph
  · rw [rf_of_regs (regs_setPort v p _), hin]
  · rw [port_setPort_self hsp]

end Ident

/-! ### The key exchange (R251 to R253) -/

/-- R251, R253: a whole message joins the transcript. -/
def KexSt.joined (k : KexSt) (msg : Nat) (buf reply : List Byte) : KexSt :=
  let tr := k.transcript ++ buf
  let tr' := tr ++ (if msg < 4 then kexBytes reply else [])
  { next := msg + 2, frag := 0, buf := [], transcript := tr', keys := if msg = 1 then kexKeys tr' else if msg = 2 then kexKeys tr else k.keys }

/-- R251, R253: what follows a whole message: the answer, and the end of the exchange. -/
def State.kexAnswers (s : State) (p msg : Nat) (reply : List Byte) : State :=
  let s := if msg < 4 then s.kexSend p (msg + 1) reply else s
  if msg ≥ 3 then s.kexDone p else s

/-- R252: a whole message that does not verify, is not formed, or whose key is not the pinned one. -/
def State.kexBad (s : State) (p : Nat) (ok : Bool) (root key : List Byte) (msg : Nat) (buf : List Byte) : Bool :=
  !ok || !kexFormed s.fuses.roots root msg buf ||
    (s.flag (R.MBL_SECCTRL_PIN p) && decide (msg ≤ 2) && leAt (sha3 key) 0 32 != s.peerHash p)

theorem kex_runs {s u : State} {p : Fin 8} {x : Pkt} (hph : s.pphase p = pKex) (hx : s.takeCtl p 9 = some (x, u)) (ok : Bool)
    (root key reply : List Byte) {msg frag cnt : Nat} (hmsg : x.aux % 256 = msg) (hfrag : x.aux / 256 % 256 = frag)
    (hcnt : x.aux / 65536 % 256 = cnt) {k : KexSt} (hk : (u.port p).kex = k) {buf : List Byte} (hbuf : k.buf ++ x.payload = buf) :
    exec (.kexMessage p ok root key reply) s = .next (
      if msg ≠ k.next ∨ frag ≠ k.frag then u.portFail p 4
      else if frag + 1 < cnt then u.setPort p { u.port p with kex := { k with frag := frag + 1, buf := buf } }
      else if u.kexBad p ok root key msg buf then u.portFail p 4
      else (u.setPort p { u.port p with kex := k.joined msg buf reply }).kexAnswers p msg reply) := by
  subst hmsg hfrag hcnt hk hbuf
  show execKexMessage p ok root key reply s = _
  unfold execKexMessage
  rw [if_neg (not_not.mpr hph), hx]
  dsimp -zeta only
  extract_lets msg frag cnt y buf k bad tr tr' keys w w'
  by_cases h1 : msg ≠ y.kex.next ∨ frag ≠ y.kex.frag
  · rw [if_pos h1, if_pos h1]
  rw [if_neg h1, if_neg h1]
  by_cases h2 : frag + 1 < cnt
  · rw [if_pos h2, if_pos h2]
  rw [if_neg h2, if_neg h2]
  have hbad : u.kexBad p ok root key msg buf = (!ok || !kexFormed u.fuses.roots root msg buf || bad) := rfl
  change _ = Host.Outcome.next (if u.kexBad p ok root key msg buf = true then _ else
    (u.setPort p { y with kex := y.kex.joined msg buf reply }).kexAnswers p msg reply)
  rw [hbad]
  by_cases h3 : (!ok || !kexFormed u.fuses.roots root msg buf || bad) = true
  · rw [if_pos h3, if_pos h3]
  · rw [if_neg h3, if_neg h3]
    rfl

/-- What a finished exchange leaves of a port. -/
theorem kexDone_port {s : State} (h : Store.Sorted s.ports) (p : Nat) : ∃ a b, (s.kexDone p).port p =
    { s.port p with kex := { (s.port p).kex with done := true }, keyTx := some 15, ktx := a, krx := b } :=
  ⟨_, _, port_setPort_self h p _⟩

theorem kexAnswers_kex {s : State} (h : Store.Sorted s.ports) (p msg : Nat) (reply : List Byte) :
    (∃ d, ((s.kexAnswers p msg reply).port p).kex = { (s.port p).kex with done := d } ∧ (d = true ∨ msg < 3)) ∧
    (3 ≤ msg → ((s.kexAnswers p msg reply).port p).keyTx = some 15) := by
  have hsend : Queues p s (if msg < 4 then s.kexSend p (msg + 1) reply else s) := by
    split
    · exact queues_kexSend s p _ _
    · exact .refl p s
  unfold State.kexAnswers
  dsimp only
  generalize (if msg < 4 then s.kexSend p (msg + 1) reply else s) = u at hsend ⊢
  obtain ⟨l, hl⟩ := hsend.port h
  by_cases h3 : msg ≥ 3
  · obtain ⟨a, b, hab⟩ := kexDone_port (hsend.ports h) p
    rw [if_pos h3, hab, hl]
    exact ⟨⟨true, rfl, .inl rfl⟩, fun _ => rfl⟩
  · rw [if_neg h3, hl]
    exact ⟨⟨(s.port p).kex.done, rfl, .inr (by omega)⟩, fun h => absurd h h3⟩

/-! ### Heartbeats (R250) -/

/-- R239, R250: the heartbeat of port `p`, with the number `n`. -/
def State.heartbeat (s : State) (p n : Nat) : Pkt :=
  let flags := (if s.flag R.FCOL_STAT_DEVFATAL then 1 else 0) + (if (List.range 4).any fun f => s.isFenced (.field f) then 2 else 0)
  { ptype := 7, tc := 3, vc := 0, dst := s.rf (R.MBL_SEEN_DEVID p), src := s.devId, dctx := 0, len := 2
    life := s.rf R.MBL_LIFE_UNITS, opid := 0, step := 0, addr := 0, aux := 0
    payload := leBytes 4 n ++ leBytes 1 flags ++ List.replicate 3 0 ++ leBytes 8 s.now ++ List.replicate 16 0 }

theorem heartbeat_number (s : State) (p n : Nat) : (s.heartbeat p n).payload.take 4 = leBytes 4 n := by
  unfold State.heartbeat
  dsimp only
  rw [List.append_assoc, List.append_assoc, List.append_assoc]
  exact List.take_left' (length_leBytes 4 n)

/-- A port that is written touches the ports only. -/
theorem setPort_withPorts (s : State) (p : Nat) (y : PortSt) (l : List (Nat × PortSt)) :
    { s.setPort p y with ports := l } = { s with ports := l } := rfl

theorem linkSend_withPorts (s : State) (p : Nat) (x : Pkt) (l : List (Nat × PortSt)) :
    { s.linkSend p x with ports := l } = { s with ports := l } := setPort_withPorts s p _ l

/-- R239: a packet on its way over this link only. -/
def Pkt.onLink (x : Pkt) : OutPkt := { from_ := 12, hdr := x, bytes := x.payload, whole := true, buf := bufOf x }

theorem port_linkSend {s : State} (h : Store.Sorted s.ports) (p : Nat) (x : Pkt) : (s.linkSend p x).port p = { s.port p with
    linkTx := (s.port p).linkTx ++ [x.onLink] } :=
  port_setPort_self h p _

theorem hbSend_runs {s : State} {p : Fin 8} (h : s.pstate p = pActive) : exec (.hbSend p) s = .next
    ((s.setPort p { s.port p with hbNum := ((s.port p).hbNum + 1) % 2 ^ 32 }).linkSend p (s.heartbeat p (s.port p).hbNum)) :=
  if_neg (not_not.mpr h)

/-! ### O40 -/

section Taken
variable {s : State} (hc : s.Canon) {p : Nat} {r : List Pkt}
include hc

/-- The state once a link-local packet has left its queue. -/
theorem taken_same : (s.setPort p { s.port p with ctl := r }).Canon ∧ (s.setPort p { s.port p with ctl := r }).regs = s.regs ∧
    ((s.setPort p { s.port p with ctl := r }).port p).kex = (s.port p).kex ∧
    ((s.setPort p { s.port p with ctl := r }).port p).ctl = r ∧ (s.setPort p { s.port p with ctl := r }).fuses = s.fuses := by
  have hport := port_setPort_self hc.ports p { s.port p with ctl := r }
  refine ⟨(State.setPort_keeps (.refl s) p _).canon hc, rfl, ?_, ?_, rfl⟩
  · rw [hport]
  · rw [hport]

end Taken

theorem identBad_iff (v : State) (p : Nat) (b : List Byte) : v.identBad p b = true ↔
    leAt b 0 3 ≠ v.rf (R.MBL_PARTNER_DEVID p) ∨ leAt b 3 1 ≠ v.rf (R.MBL_PARTNER_PORT p) ∨ leAt b 4 2 ≠ 1 ∨ leAt b 0 3 = v.devId ∨
      (∃ i, i < 8 ∧ leAt b (8 + 2 * i) 2 < 33) ∨ 32768 < ((List.range 8).map fun i => leAt b (8 + 2 * i) 2).foldl (· + ·) 0 := by
  unfold State.identBad
  simp only [Bool.or_eq_true, bne_iff_ne, beq_iff_eq, List.any_map, List.any_eq_true, List.mem_range, Function.comp_apply, decide_eq_true_eq,
    or_assoc, gt_iff_lt]

theorem kexBad_iff (s : State) (p : Nat) (ok : Bool) (root key : List Byte) (msg : Nat) (buf : List Byte) :
    s.kexBad p ok root key msg buf = true ↔ ok = false ∨ kexFormed s.fuses.roots root msg buf = false ∨
      (s.flag (R.MBL_SECCTRL_PIN p) = true ∧ msg ≤ 2 ∧ leAt (sha3 key) 0 32 ≠ s.peerHash p) := by
  unfold State.kexBad
  simp only [Bool.or_eq_true, Bool.and_eq_true, bne_iff_ne, Bool.not_eq_true', decide_eq_true_eq, or_assoc, and_assoc]

/-- Settles O40 (log 80: the transcript takes the fragments as they travel): what IDENT, a message of the exchange and a heartbeat
do to the port is read off one equation each. -/
theorem keysAreExchanged : Obligations.KeysAreExchanged := by
  refine ⟨fun p s u x hc => ⟨fun kex1 dev hph hx hdev => ?_, fun ok root key reply hph hx => ?_⟩,
    fun p s hc => ⟨fun hact => ?_, fun x u hx => ?_, fun hact hlost => ?_⟩⟩
  · subst hdev
    obtain ⟨r, -, hu⟩ := takeCtl_some hx
    obtain ⟨hcu, hregs, -⟩ := taken_same hc (p := p) (r := r)
    rw [← hu] at hcu hregs
    obtain ⟨hsv, hd, hq, hv1⟩ := seen_shown hcu.regs p (leAt x.payload 0 3) (leAt x.payload 3 1)
    have hpv := ports_seen u p (leAt x.payload 0 3) (leAt x.payload 3 1)
    have hkeep : ∀ l : Loc, l.addr ≠ A.MBL_SEEN p → (u.seen p (leAt x.payload 0 3) (leAt x.payload 3 1)).rf l = s.rf l := fun l hl =>
      ((spares_seen p _ _ hl).rf hcu.regs).trans (rf_of_regs hregs l)
    have hrun := ident_runs hph hx rfl rfl kex1
    generalize u.seen p (leAt x.payload 0 3) (leAt x.payload 3 1) = v at hsv hd hq hv1 hpv hkeep hrun
    have hiff := identBad_iff v p x.payload
    have hself : v.devId = s.devId := hkeep R.MBL_DEVID_ID (ne_port_of_low (by decide) p _)
    rw [hkeep (R.MBL_PARTNER_DEVID p) (ne_page _ (by decide)), hkeep (R.MBL_PARTNER_PORT p) (ne_page _ (by decide)), hself] at hiff
    have hd' : leAt x.payload 0 3 % 2 ^ 24 = leAt x.payload 0 3 := Nat.mod_eq_of_lt (leAt_lt _ 0 3)
    by_cases hbad : v.identBad p x.payload = true
    · rw [if_pos hbad] at hrun
      obtain ⟨hst, -, -, herr⟩ := portFail_shown hsv p (bit := 3) (by decide)
      have hfail : ∀ b k, (v.portFail p 3).rf ⟨A.MBL_SEEN p, b, k⟩ = v.rf ⟨A.MBL_SEEN p, b, k⟩ := fun b k =>
        (Spares.portFail p.isLt (Nat.le_trans (portBase_high p) (Nat.le_add_right _ _)) (ne_page _ (by decide))
          (Loc.noErr_of_page (.inr (Nat.add_le_add_left (by decide) _))) 3).rf hsv
      refine ⟨_, hrun, sameBut_of_next hrun, (hfail 0 24).trans (hd.trans hd'), (hfail 24 3).trans hq, (hfail 31 1).trans hv1,
        fun _ => ⟨hst, herr⟩, fun h1 h2 h3 h4 h5 h6 => ?_⟩
      obtain h | h | h | h | ⟨i, hi, h⟩ | h := hiff.mp hbad
      · exact absurd h1 h
      · exact absurd h2 h
      · exact absurd h3 h
      · exact absurd h h4
      · exact absurd (h5 i hi) (by omega)
      · exact absurd h6 (by omega)
    · rw [if_neg hbad] at hrun
      obtain ⟨hst, hspt, hpht, hini, hkex⟩ := toKex_shown hsv (hpv ▸ hcu.ports) p (leAt x.payload 0 3) x.payload kex1
      have hshow : ∀ b k, (v.toKex p (leAt x.payload 0 3) x.payload kex1).rf ⟨A.MBL_SEEN p, b, k⟩ = v.rf ⟨A.MBL_SEEN p, b, k⟩ := fun b k =>
        (spares_toKex p _ _ _ (.inl (ne_page _ (by decide))) (.inl (ne_page _ (by decide)))).rf hsv
      rw [hself] at hrun hini hkex
      obtain ⟨t, ht, hq'⟩ : ∃ t, exec (.ident p kex1) s = .next t ∧ Queues p (v.toKex p (leAt x.payload 0 3) x.payload kex1) t := by
        refine ⟨_, hrun, ?_⟩
        split
        · exact queues_kexSend _ p _ _
        · exact .refl p _
      generalize v.toKex p (leAt x.payload 0 3) x.payload kex1 = w at hst hspt hpht hini hkex hshow hq'
      have hrf : ∀ l, t.rf l = w.rf l := rf_of_regs hq'.regs
      refine ⟨t, ht, sameBut_of_next ht, ?_, ?_, ?_, fun h => absurd (hiff.mpr h) hbad, fun _ _ _ _ _ _ => ⟨?_, ?_, ?_⟩⟩
      · exact (hrf _).trans ((hshow 0 24).trans (hd.trans hd'))
      · exact (hrf _).trans ((hshow 24 3).trans hq)
      · exact (hrf _).trans ((hshow 31 1).trans hv1)
      · rw [← hpht]
        unfold State.pphase State.pstate
        rw [hrf, hq'.phase hspt]
      · rw [hrf, hini]
      · rw [hq'.kex hspt, hkex]
        rfl
  · obtain ⟨r, -, hu⟩ := takeCtl_some hx
    obtain ⟨hcu, hregs, hkex, -, hfuses⟩ := taken_same hc (p := p) (r := r)
    rw [← hu] at hcu hregs hkex hfuses
    have hrun := kex_runs hph hx ok root key reply rfl rfl rfl hkex rfl
    have hiff := kexBad_iff u p ok root key (x.aux % 256) ((s.port p).kex.buf ++ x.payload)
    have hpeer : u.peerHash p = s.peerHash p := by
      unfold State.peerHash
      simp only [rf_of_regs hregs]
    rw [hfuses, flag_of_regs hregs, hpeer] at hiff
    obtain ⟨hst, -, -, herr⟩ := portFail_shown hcu.regs p (bit := 4) (by decide)
    by_cases hturn : x.aux % 256 ≠ (s.port p).kex.next ∨ x.aux / 256 % 256 ≠ (s.port p).kex.frag
    · rw [if_pos hturn] at hrun
      refine ⟨_, hrun, sameBut_of_next hrun, fun _ => ⟨hst, herr⟩, fun h1 h2 => ?_⟩
      exact absurd hturn (by simp [h1, h2])
    rw [if_neg hturn] at hrun
    by_cases hpart : x.aux / 256 % 256 + 1 < x.aux / 65536 % 256
    · rw [if_pos hpart] at hrun
      refine ⟨_, hrun, sameBut_of_next hrun, ?_, fun _ h2 => ⟨fun _ => ?_, fun h => absurd hpart (by omega)⟩⟩
      · rintro (h | h | ⟨h, -⟩)
        · exact absurd (.inl h) hturn
        · exact absurd (.inr h) hturn
        · exact absurd hpart (by omega)
      · rw [port_setPort_self hcu.ports, h2]
    rw [if_neg hpart] at hrun
    by_cases hbad : u.kexBad p ok root key (x.aux % 256) ((s.port p).kex.buf ++ x.payload) = true
    · rw [if_pos hbad] at hrun
      refine ⟨_, hrun, sameBut_of_next hrun, fun _ => ⟨hst, herr⟩, fun _ _ => ⟨fun h => absurd h hpart, fun _ h1 h2 h3 => ?_⟩⟩
      obtain h | h | ⟨hp, hm, h⟩ := hiff.mp hbad
      · exact absurd (h1.symm.trans h) (by decide)
      · exact absurd (h2.symm.trans h) (by decide)
      · exact absurd (h3 hp hm) h
    · rw [if_neg hbad] at hrun
      refine ⟨_, hrun, sameBut_of_next hrun, ?_, fun _ _ => ⟨fun h => absurd h hpart, fun _ _ _ _ => ?_⟩⟩
      · rintro (h | h | ⟨-, h⟩)
        · exact absurd (.inl h) hturn
        · exact absurd (.inr h) hturn
        · exact absurd (hiff.mpr h) hbad
      · obtain ⟨⟨d, hd, hd'⟩, hkey⟩ := kexAnswers_kex (s := u.setPort p { u.port p with
          kex := (s.port p).kex.joined (x.aux % 256) ((s.port p).kex.buf ++ x.payload) reply }) (sorted_setPort hcu.ports p _) p
            (x.aux % 256) reply
        rw [port_setPort_self hcu.ports] at hd
        rw [hd]
        refine ⟨?_, rfl, rfl, rfl, hd', hkey⟩
        show (s.port p).kex.transcript ++ ((s.port p).kex.buf ++ x.payload) ++ _ = _
        rw [← List.append_assoc]
  · have hport := port_linkSend (sorted_setPort hc.ports p { s.port p with hbNum := ((s.port p).hbNum + 1) % 2 ^ 32 }) p
      (s.heartbeat p (s.port p).hbNum)
    rw [port_setPort_self hc.ports] at hport
    refine ⟨_, (s.heartbeat p (s.port p).hbNum).onLink, hbSend_runs hact, (linkSend_withPorts _ _ _ _).trans (setPort_withPorts _ _ _ _), ?_, ?_, rfl, rfl,
        heartbeat_number s p _, fun r hr => (port_setPort_ne _ _ hr).trans (port_setPort_ne s _ hr)⟩
    · rw [hport]
    · rw [hport]
  · obtain ⟨r, hr, hu⟩ := takeCtl_some hx
    obtain ⟨hcu, -, -, hctl, -⟩ := taken_same hc (p := p) (r := r)
    rw [← hu] at hcu hctl
    have hrun : exec (.hbReceive p) s = .next ((u.wf (R.MBL_HB_RX_NUMBER p) (leAt x.payload 0 4)).wf (R.MBL_STAT_HB_LOST p) 0) := by
      show execHbReceive p s = _
      unfold execHbReceive
      rw [hx]
    have h1 := sorted_wf hcu.regs (R.MBL_HB_RX_NUMBER p) (leAt x.payload 0 4)
    refine ⟨_, hrun, sameBut_of_next hrun, ?_, rf_wf_self h1 (Nat.le_of_ble_eq_true rfl) 0, ?_⟩
    · rw [rf_wf_addr _ _ (ne_page _ (by decide)), rf_wf_self hcu.regs (Nat.le_of_ble_eq_true rfl)]
      exact Nat.mod_eq_of_lt (leAt_lt _ 0 4)
    · have hports : ((u.wf (R.MBL_HB_RX_NUMBER p) (leAt x.payload 0 4)).wf (R.MBL_STAT_HB_LOST p) 0).ports = u.ports := by
        rw [ports_wf, ports_wf]
      rw [port_of_ports hports, hctl, hr, List.drop_one, List.tail_cons]
  · have hrun : exec (.heartbeatLoss p) s = .next ((s.wf (R.MBL_STAT_HB_LOST p) 1).raiseSrc (Page.portBase p) 5) :=
      if_neg (by rw [hact, hlost]; decide)
    have h1 := sorted_wf hc.regs (R.MBL_STAT_HB_LOST p) 1
    refine ⟨_, hrun, Same.but (State.raiseSrc_same (State.wf_same (.refl 8589934600 s) rfl _ _) rfl _ _) rfl, ?_, raiseSrc_raised h1 _ (by decide)⟩
    exact (((Spares.refl (R.MBL_STAT_HB_LOST p) _).raiseSrc (noErr_stat p) 5).rf h1).trans (rf_wf_self hc.regs (Nat.le_of_ble_eq_true rfl) 1)

end Sys2Proof.Machine


/-! Packets are routed, dropped and truncated (R241, R244, R246, R248): O41. -/

namespace Sys2Proof.Machine

/-! ### Drops (R248) -/

section Drop
variable {s : State} (hs : Store.Sorted s.regs) {p : Nat} (hp : p < 8) (x : Pkt) (c : Nat)

/-- R248: a dropped packet is counted and raises its source. -/
def State.dropCounted (s : State) (p : Nat) : State := (s.bump (R.MBL_DROP_CNT_COUNT p) 1).raiseSrc (Page.portBase p) 6

/-- R248: the first drop is kept. -/
def State.dropKept (s : State) (p : Nat) (x : Pkt) (c : Nat) : State :=
  (((((s.wf (R.MBL_DROP_INFO_CAUSE p) c).wf (R.MBL_DROP_INFO_PTYPE p) x.ptype).wf (R.MBL_DROP_INFO_TC p) x.tc).wf
    (R.MBL_DROP_INFO_VALID p) 1).wf (R.MBL_DROP_SRC_SRC p) x.src).wf (R.MBL_DROP_DST_DST p) x.dst

include hp in
theorem dropPkt_eq : s.dropPkt p x c =
    if (s.dropCounted p).flag (R.MBL_DROP_INFO_VALID p) then s.dropCounted p else (s.dropCounted p).dropKept p x c := if_pos hp

theorem port_field_noErr (p : Nat) {l : Loc} {k : Nat} (hl : l.addr = Page.portBase p + k) (hk : 0x28 ≤ k) : l.NoErr (Page.portBase p) :=
  Loc.noErr_of_page (.inr (by omega))

theorem spares_dropCounted {l : Loc} (h : l.addr ≠ A.MBL_DROP_CNT p) (hn : l.NoErr (Page.portBase p)) : Spares l s (s.dropCounted p) :=
  ((Spares.refl l s).bump (m := R.MBL_DROP_CNT_COUNT p) h 1).raiseSrc hn 6

theorem spares_dropKept {l : Loc} (h1 : l.addr ≠ A.MBL_DROP_INFO p) (h2 : l.addr ≠ A.MBL_DROP_SRC p) (h3 : l.addr ≠ A.MBL_DROP_DST p) :
    Spares l s (s.dropKept p x c) := by
  unfold State.dropKept
  exact ((((((Spares.refl l s).wf_far (m := R.MBL_DROP_INFO_CAUSE p) h1 _).wf_far (m := R.MBL_DROP_INFO_PTYPE p) h1 _).wf_far
    (m := R.MBL_DROP_INFO_TC p) h1 _).wf_far (m := R.MBL_DROP_INFO_VALID p) h1 _).wf_far (m := R.MBL_DROP_SRC_SRC p) h2 _).wf_far
    (m := R.MBL_DROP_DST_DST p) h3 _

/-- From `s` to `t` the registers stay in order and a raised bit of a page's errors stays raised. -/
structure KeepsBit (page j : Nat) (s t : State) : Prop where
  sorted : Store.Sorted s.regs → Store.Sorted t.regs
  bit : Store.Sorted s.regs → (s.rf (R.ERR_STAT_STAT page)).testBit j = true → (t.rf (R.ERR_STAT_STAT page)).testBit j = true

theorem Spares.keepsBit {page : Nat} {s t : State} (h : Spares (R.ERR_STAT_STAT page) s t) (j : Nat) : KeepsBit page j s t :=
  ⟨h.sorted, fun hs hb => by rw [h.rf hs]; exact hb⟩

theorem KeepsBit.trans {page j : Nat} {s t u : State} (h : KeepsBit page j s t) (k : KeepsBit page j t u) : KeepsBit page j s u :=
  ⟨fun hs => k.sorted (h.sorted hs), fun hs hb => k.bit (h.sorted hs) (h.bit hs hb)⟩

/-- R388: another source of the page leaves what was raised. -/
theorem keepsBit_raiseSrc (s : State) (page : Nat) {j : Nat} (hj : j < 32) (bit : Nat) : KeepsBit page j s (s.raiseSrc page bit) := by
  refine ⟨fun hs => sorted_raiseSrc hs page bit, fun hs hb => ?_⟩
  have hsw := sorted_wf hs (R.ERR_STAT_STAT page) (s.rf (R.ERR_STAT_STAT page) ||| 2 ^ bit)
  have hw : ((s.wf (R.ERR_STAT_STAT page) (s.rf (R.ERR_STAT_STAT page) ||| 2 ^ bit)).rf (R.ERR_STAT_STAT page)).testBit j = true := by
    rw [rf_wf_self hs (Nat.le_of_ble_eq_true rfl)]
    show ((s.rf (R.ERR_STAT_STAT page) ||| 2 ^ bit) % 2 ^ 32).testBit j = true
    rw [Nat.testBit_mod_two_pow, Nat.testBit_or, hb]
    simp [hj]
  have hrest : (s.raiseSrc page bit).rf (R.ERR_STAT_STAT page) =
      (s.wf (R.ERR_STAT_STAT page) (s.rf (R.ERR_STAT_STAT page) ||| 2 ^ bit)).rf (R.ERR_STAT_STAT page) := by
    unfold State.raiseSrc
    rw [rf_of_regs (raisePair_regs _ _ _ _)]
    unfold State.errWords
    dsimp only
    generalize s.wf (R.ERR_STAT_STAT page) (s.rf (R.ERR_STAT_STAT page) ||| 2 ^ bit) = u at hsw ⊢
    have h1 : Spares (R.ERR_STAT_STAT page) u (u.bump (R.ERR_CNT_COUNT page) 1) := (Spares.refl _ u).bump (ne_page page (by decide)) 1
    refine Spares.rf ?_ hsw
    exact h1.ite ((h1.wf_far (m := R.ERR_FIRST_BIT page) (ne_page page (by decide)) _).wf_far (m := R.ERR_FIRST_VALID page) (ne_page page (by decide)) _)
  rw [hrest]
  exact hw

theorem keepsBit_dropPkt {j : Nat} (hj : j < 32) (s : State) {p : Nat} (hp : p < 8) (x : Pkt) (c : Nat) :
    KeepsBit (Page.portBase p) j s (s.dropPkt p x c) := by
  have h1 : KeepsBit (Page.portBase p) j s (s.dropCounted p) :=
    (((Spares.refl _ s).bump (m := R.MBL_DROP_CNT_COUNT p) (ne_page _ (by decide)) 1).keepsBit j).trans
      (keepsBit_raiseSrc _ _ hj 6)
  have h2 : KeepsBit (Page.portBase p) j (s.dropCounted p) ((s.dropCounted p).dropKept p x c) :=
    (spares_dropKept x c (ne_page _ (by decide)) (ne_page _ (by decide)) (ne_page _ (by decide))).keepsBit j
  rw [dropPkt_eq hp]
  split
  · exact h1
  · exact h1.trans h2

include hp in
/-- A dropped packet leaves the registers that do not count it. -/
theorem spares_dropPkt {l : Loc} (h0 : l.addr ≠ A.MBL_DROP_CNT p) (hn : l.NoErr (Page.portBase p)) (h1 : l.addr ≠ A.MBL_DROP_INFO p)
    (h2 : l.addr ≠ A.MBL_DROP_SRC p) (h3 : l.addr ≠ A.MBL_DROP_DST p) : Spares l s (s.dropPkt p x c) := by
  rw [dropPkt_eq hp]
  exact (spares_dropCounted h0 hn).ite ((spares_dropCounted h0 hn).trans (spares_dropKept x c h1 h2 h3))

include hs in
theorem dropCounted_count : (s.dropCounted p).rf (R.MBL_DROP_CNT_COUNT p) = satAdd32 (s.rf (R.MBL_DROP_CNT_COUNT p)) 1 := by
  refine (((Spares.refl _ _).raiseSrc (port_field_noErr p rfl (by decide)) 6).rf (sorted_bump hs _ _)).trans ?_
  rw [rf_bump_self hs (Nat.le_of_ble_eq_true rfl)]
  exact satAdd32_mod _ _

include hs hp in
theorem dropPkt_count : (s.dropPkt p x c).rf (R.MBL_DROP_CNT_COUNT p) = satAdd32 (s.rf (R.MBL_DROP_CNT_COUNT p)) 1 := by
  have hsort : Store.Sorted (s.dropCounted p).regs := sorted_raiseSrc (sorted_bump hs _ _) _ _
  rw [dropPkt_eq hp]
  split
  · exact dropCounted_count hs
  · exact ((spares_dropKept x c (ne_page _ (by decide)) (ne_page _ (by decide)) (ne_page _ (by decide))).rf hsort).trans (dropCounted_count hs)

include hs hp in
/-- R248: the first drop's cause is kept. -/
theorem dropPkt_cause (hv : s.flag (R.MBL_DROP_INFO_VALID p) = false) (hc : c < 8) : (s.dropPkt p x c).rf (R.MBL_DROP_INFO_CAUSE p) = c := by
  have hsort : Store.Sorted (s.dropCounted p).regs := sorted_raiseSrc (sorted_bump hs _ _) _ _
  have hv' : (s.dropCounted p).flag (R.MBL_DROP_INFO_VALID p) = false := by
    unfold State.flag at hv ⊢
    rw [(spares_dropCounted (ne_page _ (by decide)) (port_field_noErr p rfl (by decide))).rf hs]
    exact hv
  rw [dropPkt_eq hp, if_neg (by rw [hv']; decide)]
  generalize s.dropCounted p = u at hsort ⊢
  have h1 := sorted_wf hsort (R.MBL_DROP_INFO_CAUSE p) c
  unfold State.dropKept
  refine (Spares.rf ?_ h1).trans ((rf_wf_self hsort (Nat.le_of_ble_eq_true rfl) c).trans (Nat.mod_eq_of_lt hc))
  exact (((((Spares.refl _ _).wf (m := R.MBL_DROP_INFO_PTYPE p) (Nat.le_of_ble_eq_true rfl) (Loc.clear_above rfl) _).wf
    (m := R.MBL_DROP_INFO_TC p) (Nat.le_of_ble_eq_true rfl) (Loc.clear_above rfl) _).wf
    (m := R.MBL_DROP_INFO_VALID p) (Nat.le_of_ble_eq_true rfl) (Loc.clear_above rfl) _).wf_far (m := R.MBL_DROP_SRC_SRC p) (ne_page _ (by decide)) _).wf_far
    (m := R.MBL_DROP_DST_DST p) (ne_page _ (by decide)) _

theorem ports_dropPkt (s : State) (p : Nat) (x : Pkt) (c : Nat) : (s.dropPkt p x c).ports = s.ports :=
  (State.dropPkt_same (.refl 8589934600 s) rfl p x c).ports.resolve_left (by decide)

theorem inbox_dropPkt (s : State) (p : Nat) (x : Pkt) (c : Nat) : (s.dropPkt p x c).inbox = s.inbox :=
  (State.dropPkt_same (.refl 8589934600 s) rfl p x c).inbox.resolve_left (by decide)

end Drop

/-! ### Routing (R244) -/

theorem find?_congr_mem {α : Type} {p q : α → Bool} : ∀ {l : List α}, (∀ a ∈ l, p a = q a) → l.find? p = l.find? q
  | [], _ => rfl
  | a :: l, h => by
    rw [List.find?_cons, List.find?_cons, h a List.mem_cons_self, find?_congr_mem fun b hb => h b (List.mem_cons_of_mem _ hb)]

theorem routeOf_congr {s t : State} (hd : t.devId = s.devId) (he : ∀ i < 64, ∀ b k, t.rf ⟨A.MBL_RT_LO i, b, k⟩ = s.rf ⟨A.MBL_RT_LO i, b, k⟩)
    (hh : ∀ i < 64, t.rf (R.MBL_RT_HI_HI i) = s.rf (R.MBL_RT_HI_HI i)) (hp : ∀ o, t.pstate o = s.pstate o) (a : Bool) (x : Pkt) :
    t.routeOf a x = s.routeOf a x := by
  have hentry : ∀ d, t.routeEntry d = s.routeEntry d := fun d => by
    unfold State.routeEntry State.flag R.MBL_RT_LO_VALID R.MBL_RT_LO_LO
    exact find?_congr_mem fun j hj => by rw [he j (List.mem_range.mp hj), he j (List.mem_range.mp hj), hh j (List.mem_range.mp hj)]
  unfold State.routeOf
  rw [hd, hentry]
  split
  · rfl
  split
  · rfl
  split
  · rfl
  · next j hj =>
    have hlt : j < 64 := List.mem_range.mp (List.mem_of_find?_eq_some hj)
    unfold State.flag R.MBL_RT_LO_PORT R.MBL_RT_LO_DATELINE
    dsimp only
    rw [he j hlt, he j hlt, hp]

theorem routeOf_of_regs {s t : State} (h : t.regs = s.regs) (a : Bool) (x : Pkt) : t.routeOf a x = s.routeOf a x :=
  routeOf_congr (rf_of_regs h _) (fun _ _ _ _ => rf_of_regs h _) (fun _ _ => rf_of_regs h _) (fun _ => rf_of_regs h _) a x

theorem lifeUsed_of_regs {s t : State} (h : t.regs = s.regs) (p ns : Nat) : t.lifeUsed p ns = s.lifeUsed p ns := by
  unfold State.lifeUsed
  rw [rf_of_regs h]

/-! ### Ports that take and hand on packets -/

/-- The oldest packet that port `p` has received leaves it. -/
def State.rxTaken (s : State) (p : Nat) (rest : List Pkt) : State := s.setPort p { s.port p with rx := rest }

/-- From `s` to `t` every port keeps what it has received. -/
structure KeepsRx (s t : State) : Prop where
  ports : Store.Sorted s.ports → Store.Sorted t.ports
  rx : Store.Sorted s.ports → ∀ p, (t.port p).rx = (s.port p).rx

theorem KeepsRx.refl (s : State) : KeepsRx s s := ⟨id, fun _ _ => rfl⟩

theorem KeepsRx.trans {s t u : State} (h : KeepsRx s t) (k : KeepsRx t u) : KeepsRx s u :=
  ⟨fun hs => k.ports (h.ports hs), fun hs p => (k.rx (h.ports hs) p).trans (h.rx hs p)⟩

theorem KeepsRx.of_ports {s t : State} (h : t.ports = s.ports) : KeepsRx s t :=
  ⟨fun hs => by rw [h]; exact hs, fun _ p => by rw [port_of_ports h]⟩

theorem KeepsRx.setPort (s : State) (o : Nat) {y : PortSt} (h : y.rx = (s.port o).rx) : KeepsRx s (s.setPort o y) := by
  refine ⟨fun hs => sorted_setPort hs o y, fun hs p => ?_⟩
  by_cases e : p = o
  · subst e
    rw [port_setPort_self hs, h]
  · rw [port_setPort_ne s y e]

theorem keepsRx_freeRx (s : State) (p buf len : Nat) : KeepsRx s (s.freeRx p buf len) := .setPort s p rfl

theorem keepsRx_pushOut (s : State) (o : Nat) (x : OutPkt) : KeepsRx s (s.pushOut o x) := .setPort s o rfl

theorem keepsRx_sendPkt (s : State) (f : Nat) (x : Pkt) : KeepsRx s (s.sendPkt f x) := by
  unfold State.sendPkt
  dsimp only
  split
  · exact .of_ports rfl
  · exact keepsRx_pushOut s _ _
  · exact .of_ports (ports_dropPkt s 8 _ _)

theorem regs_rxTaken (s : State) (p : Nat) (rest : List Pkt) : (s.rxTaken p rest).regs = s.regs := regs_setPort s p _

theorem inbox_setPort (s : State) (p : Nat) (y : PortSt) : (s.setPort p y).inbox = s.inbox := rfl

theorem inbox_rxTaken (s : State) (p : Nat) (rest : List Pkt) : (s.rxTaken p rest).inbox = s.inbox := inbox_setPort s p _

theorem rx_rxTaken {s : State} (h : Store.Sorted s.ports) (p : Nat) (rest : List Pkt) : ((s.rxTaken p rest).port p).rx = rest := by
  unfold State.rxTaken
  rw [port_setPort_self h]

theorem held_rxTaken {s : State} (h : Store.Sorted s.ports) (p : Nat) (rest : List Pkt) (o : Nat) :
    ((s.rxTaken p rest).port o).held = (s.port o).held := by
  unfold State.rxTaken
  by_cases e : o = p
  · subst e
    rw [port_setPort_self h]
  · rw [port_setPort_ne s _ e]

theorem held_pushOut {s : State} (h : Store.Sorted s.ports) (o : Nat) (x : OutPkt) : ((s.pushOut o x).port o).held = (s.port o).held ++ [x] := by
  unfold State.pushOut
  rw [port_setPort_self h]

/-! ### A packet goes on (R244, R246, R248) -/

/-- R244, R246, R248: where the packet `x` goes that has left its place at port `p`. -/
def State.routed (s : State) (p ns : Nat) (x : Pkt) : State :=
  let x' := { x with life := x.life - s.lifeUsed p ns }
  if x.life ≤ s.lifeUsed p ns then (s.dropPkt p x 1).freeRx p (bufOf x) x.len
  else match s.routeOf true x with
    | .deliver => { s with inbox := s.inbox ++ [(p, x')] }
    | .drop c => (s.dropPkt p x c).freeRx p (bufOf x) x.len
    | .out o d => s.pushOut o { from_ := p, hdr := x'.via d, bytes := x.payload, whole := true, buf := bufOf x }

theorem routeHead_whole {s : State} {p : Nat} {x : Pkt} {rest : List Pkt} (hrx : (s.port p).rx = x :: rest) (h10 : x.ptype ≠ 10)
    (ht : x.trunc = false) (ns : Nat) : s.routeHead p ns = (s.rxTaken p rest).routed p ns x := by
  unfold State.routeHead
  extract_lets y
  split
  · next z t hz =>
    obtain ⟨rfl, rfl⟩ := List.cons.inj (hrx.symm.trans hz)
    rw [if_neg (by rw [ht]; simp [h10])]
    rfl
  · next hz => exact absurd (hrx.symm.trans hz) (by simp)

section Routed
variable {s : State} (hr : Store.Sorted s.regs) (hs : Store.Sorted s.ports) (p ns : Nat) (x : Pkt)

theorem keepsRx_routed : KeepsRx s (s.routed p ns x) := by
  have hd : ∀ c, KeepsRx s ((s.dropPkt p x c).freeRx p (bufOf x) x.len) := fun c =>
    (KeepsRx.of_ports (ports_dropPkt s p x c)).trans (keepsRx_freeRx _ _ _ _)
  unfold State.routed
  dsimp only
  split
  · exact hd 1
  split
  · exact .of_ports rfl
  · exact hd _
  · exact keepsRx_pushOut s _ _

theorem routed_spent (h : x.life ≤ s.lifeUsed p ns) : s.routed p ns x = (s.dropPkt p x 1).freeRx p (bufOf x) x.len := if_pos h

theorem routed_goes (h : s.lifeUsed p ns < x.life) : s.routed p ns x = match s.routeOf true x with
    | .deliver => { s with inbox := s.inbox ++ [(p, { x with life := x.life - s.lifeUsed p ns })] }
    | .drop c => (s.dropPkt p x c).freeRx p (bufOf x) x.len
    | .out o d => s.pushOut o
      { from_ := p, hdr := Pkt.via { x with life := x.life - s.lifeUsed p ns } d, bytes := x.payload, whole := true, buf := bufOf x } := by
  unfold State.routed
  dsimp only
  rw [if_neg (Nat.not_le.mpr h)]

include hr in
/-- R248: what is counted of a packet that is dropped on its way. -/
theorem dropped_shown (hp : p < 8) (c : Nat) : ((s.dropPkt p x c).freeRx p (bufOf x) x.len).inbox = s.inbox ∧
    ((s.dropPkt p x c).freeRx p (bufOf x) x.len).rf (R.MBL_DROP_CNT_COUNT p) = satAdd32 (s.rf (R.MBL_DROP_CNT_COUNT p)) 1 ∧
    (s.flag (R.MBL_DROP_INFO_VALID p) = false → c < 8 →
      ((s.dropPkt p x c).freeRx p (bufOf x) x.len).rf (R.MBL_DROP_INFO_CAUSE p) = c) := by
  have hfree : ∀ u : State, (u.freeRx p (bufOf x) x.len).regs = u.regs ∧ (u.freeRx p (bufOf x) x.len).inbox = u.inbox := fun _ => ⟨rfl, rfl⟩
  obtain ⟨hregs, hin⟩ := hfree (s.dropPkt p x c)
  refine ⟨hin.trans (inbox_dropPkt s p x c), (rf_of_regs hregs _).trans (dropPkt_count hr hp x c), fun hv hc =>
    (rf_of_regs hregs _).trans (dropPkt_cause hr hp x c hv hc)⟩

end Routed

/-! ### Truncated packets (R241) -/

theorem abortSlot_runs {s : State} {p : Fin 8} {x : Pkt} {rest : List Pkt} (hrx : (s.port p).rx = x :: rest)
    (h : x.ptype = 10 ∨ x.trunc = true) (ns : Nat) : exec (.abortSlot p ns) s = .next (
      if x.ptype = 10 then (s.countAbort p).rxTaken p rest
      else if x.ptype = 3 ∧ ((s.countAbort p).rxTaken p rest).truncRoute p ns x = .deliver then
        (((s.countAbort p).rxTaken p rest).truncHead p ns x).sowCut x
      else ((s.countAbort p).rxTaken p rest).truncHead p ns x) := by
  show execAbortSlot p ns s = _
  unfold execAbortSlot
  split
  · next hz => exact absurd (hrx.symm.trans hz) (by simp)
  · next z t hz =>
    obtain ⟨rfl, rfl⟩ := List.cons.inj (hrx.symm.trans hz)
    rw [if_neg (by rintro ⟨h1, h2⟩; rw [Bool.not_eq_true'] at h2; simp [h1, h2] at h)]
    generalize s.countAbort p = u
    dsimp only
    by_cases h10 : x.ptype = 10
    · rw [if_pos h10, if_pos h10, State.rxTaken]
    · rw [if_neg h10, if_neg h10, State.rxTaken]

section Trunc
variable {s : State} (p ns : Nat) (x : Pkt)

theorem keepsRx_truncHead : KeepsRx s (s.truncHead p ns x) := by
  have hd : ∀ c, KeepsRx s ((s.dropPkt p x c).freeRx p (bufOf x) x.len) := fun c =>
    (KeepsRx.of_ports (ports_dropPkt s p x c)).trans (keepsRx_freeRx _ _ _ _)
  unfold State.truncHead
  split
  · exact keepsRx_freeRx s _ _ _
  · exact hd _
  · exact keepsRx_pushOut s _ _

theorem keepsRx_foldl {α : Type} {f : State → α → State} (hf : ∀ s a, KeepsRx s (f s a)) : ∀ (l : List α) (s : State), KeepsRx s (l.foldl f s)
  | [], s => .refl s
  | a :: l, s => (hf s a).trans (keepsRx_foldl hf l (f s a))

theorem keepsRx_sowCut (s : State) : KeepsRx s (s.sowCut x) := by
  unfold State.sowCut
  split
  · exact .refl s
  · exact keepsRx_foldl (fun s _ => keepsRx_sendPkt s _ _) _ s

theorem spares_sowCut {l : Loc} {s0 : State} (h : Spares l s0 s) (hl : 0x61000 ≤ l.addr) : Spares l s0 (s.sowCut x) := by
  unfold State.sowCut
  split
  · exact h
  · exact Spares.foldl (fun _ _ h => h.sendPkt_above hl _ _) _ h

end Trunc

/-! ### What an ABORT slot counts (R241) -/

theorem spares_countAbort {l : Loc} {s : State} {p : Nat} (h : l.addr ≠ A.MBL_ABORT_CNT p) (hn : l.NoErr (Page.portBase p)) :
    Spares l s (s.countAbort p) := ((Spares.refl l s).bump (m := R.MBL_ABORT_CNT_COUNT p) h 1).raiseSrc hn 7

theorem countAbort_shown {s : State} (hs : Store.Sorted s.regs) (p : Nat) : Store.Sorted (s.countAbort p).regs ∧
    (s.countAbort p).rf (R.MBL_ABORT_CNT_COUNT p) = satAdd32 (s.rf (R.MBL_ABORT_CNT_COUNT p)) 1 ∧
    ((s.countAbort p).rf (R.ERR_STAT_STAT (Page.portBase p))).testBit 7 = true := by
  have hb := sorted_bump hs (R.MBL_ABORT_CNT_COUNT p) 1
  refine ⟨sorted_raiseSrc hb _ _, ?_, raiseSrc_raised hb _ (by decide)⟩
  refine (((Spares.refl _ _).raiseSrc (port_field_noErr p rfl (by decide)) 7).rf hb).trans ?_
  rw [rf_bump_self hs (Nat.le_of_ble_eq_true rfl)]
  exact satAdd32_mod _ _

/-- A register below the fields is not among a port's errors. -/
theorem noErr_low {l : Loc} (h : l.addr < 0x1000000) (p : Nat) : l.NoErr (Page.portBase p) :=
  Loc.noErr_of_page (.inl (Nat.lt_of_lt_of_le h (portBase_high p)))

/-- The states of the ports are not among a port's errors. -/
theorem noErr_stat_of (o p : Nat) : (R.MBL_STAT_STATE o).NoErr (Page.portBase p) := by
  refine Loc.noErr_of_page ?_
  show A.MBL_STAT o < _ ∨ _ ≤ A.MBL_STAT o
  unfold A.MBL_STAT Page.portBase Page.fieldBase
  omega

theorem rt_low {i : Nat} {s : State} {p : Nat} (hs : Store.Sorted s.regs) (hi : i < 64) (b k : Nat) :
    (s.countAbort p).rf ⟨A.MBL_RT_LO i, b, k⟩ = s.rf ⟨A.MBL_RT_LO i, b, k⟩ ∧ (s.countAbort p).rf (R.MBL_RT_HI_HI i) = s.rf (R.MBL_RT_HI_HI i) := by
  have h1 : A.MBL_RT_LO i < 0x1000000 := by
    unfold A.MBL_RT_LO Page.fabricBase
    omega
  have h2 : A.MBL_RT_HI i < 0x1000000 := by
    unfold A.MBL_RT_HI Page.fabricBase
    omega
  exact ⟨(spares_countAbort (ne_port_of_low h1 p _) (noErr_low h1 p)).rf hs, (spares_countAbort (ne_port_of_low h2 p _) (noErr_low h2 p)).rf hs⟩

section Counted
variable {s : State} (hc : s.Canon) (p : Nat) (ns : Nat) (x : Pkt)
include hc

theorem routeOf_countAbort : (s.countAbort p).routeOf true x = s.routeOf true x := by
  refine routeOf_congr ((spares_countAbort (ne_port_of_low (by decide) p _) (noErr_low (by decide) p)).rf hc.regs)
    (fun i hi b k => (rt_low hc.regs hi b k).1) (fun i hi => (rt_low hc.regs hi 0 0).2) (fun o => ?_) true x
  refine (spares_countAbort ?_ (noErr_stat_of o p)).rf hc.regs
  show A.MBL_STAT o ≠ _
  unfold A.MBL_STAT A.MBL_ABORT_CNT Page.portBase Page.fieldBase
  omega

theorem truncRoute_countAbort (rest : List Pkt) : ((s.countAbort p).rxTaken p rest).truncRoute p ns x = s.truncRoute p ns x := by
  have hregs : ((s.countAbort p).rxTaken p rest).regs = (s.countAbort p).regs := regs_rxTaken _ p rest
  have hlife : (s.countAbort p).lifeUsed p ns = s.lifeUsed p ns := by
    unfold State.lifeUsed
    rw [(spares_countAbort (ne_page _ (by decide)) (port_field_noErr p rfl (by decide))).rf hc.regs]
  unfold State.truncRoute
  rw [lifeUsed_of_regs hregs, hlife, routeOf_of_regs hregs, routeOf_countAbort hc]

theorem lifeUsed_countAbort (rest : List Pkt) : ((s.countAbort p).rxTaken p rest).lifeUsed p ns = s.lifeUsed p ns := by
  rw [lifeUsed_of_regs (regs_rxTaken _ p rest)]
  unfold State.lifeUsed
  rw [(spares_countAbort (ne_page _ (by decide)) (port_field_noErr p rfl (by decide))).rf hc.regs]

end Counted

/-- A register of port `p`'s page, but for what counts drops, is above the fabric's page and spared by what a truncated packet does. -/
theorem spares_truncHead {l : Loc} {s : State} {p : Nat} (hp : p < 8) (ns : Nat) (x : Pkt) (h0 : l.addr ≠ A.MBL_DROP_CNT p)
    (hn : l.NoErr (Page.portBase p)) (h1 : l.addr ≠ A.MBL_DROP_INFO p) (h2 : l.addr ≠ A.MBL_DROP_SRC p) (h3 : l.addr ≠ A.MBL_DROP_DST p) :
    Spares l s (s.truncHead p ns x) := by
  have hfree : ∀ (u : State), Spares l u (u.freeRx p (bufOf x) x.len) := fun u => (Spares.refl l u).setPort p _
  unfold State.truncHead
  split
  · exact hfree s
  · exact (spares_dropPkt hp x _ h0 hn h1 h2 h3).trans (hfree _)
  · exact (Spares.refl l s).setPort _ _

theorem keepsBit_truncHead {j : Nat} (hj : j < 32) {s : State} {p : Nat} (hp : p < 8) (ns : Nat) (x : Pkt) :
    KeepsBit (Page.portBase p) j s (s.truncHead p ns x) := by
  have hset : ∀ (u : State) q y, KeepsBit (Page.portBase p) j u (u.setPort q y) := fun u q y => ((Spares.refl _ u).setPort q y).keepsBit j
  unfold State.truncHead
  split
  · exact hset s _ _
  · exact (keepsBit_dropPkt hj s hp x _).trans (hset _ _ _)
  · exact hset s _ _

theorem inbox_truncHead (s : State) (p ns : Nat) (x : Pkt) : (s.truncHead p ns x).inbox = s.inbox := by
  unfold State.truncHead
  split
  · rfl
  · exact inbox_dropPkt s p x _
  · rfl

theorem count_truncHead {s : State} (hs : Store.Sorted s.regs) {p : Nat} (hp : p < 8) {ns : Nat} {x : Pkt} {c : Nat}
    (h : s.truncRoute p ns x = .drop c) : (s.truncHead p ns x).rf (R.MBL_DROP_CNT_COUNT p) = satAdd32 (s.rf (R.MBL_DROP_CNT_COUNT p)) 1 := by
  obtain ⟨-, hcount, -⟩ := dropped_shown (s := s) hs p x hp c
  unfold State.truncHead
  rw [h]
  exact hcount

/-! ### O41 -/

/-- Settles O41: a whole packet goes where `routed` says; a truncated one is counted and then goes where its route says. -/
theorem packetsAreRouted : Obligations.PacketsAreRouted := by
  intro p ns s x rest hc hrx
  refine ⟨fun hg hx => congrArg Host.Outcome.next (if_pos (by rw [hg, hx]; rfl)), fun h10 ht hg => ?_, fun h => ?_⟩
  · have hrun : exec (.packetRoute p ns) s = .next ((s.rxTaken p rest).routed p ns x) := by
      rw [← routeHead_whole hrx h10 ht]
      exact congrArg Host.Outcome.next (if_neg (by obtain h | h := hg <;> rw [h] <;> simp))
    have hregs : (s.rxTaken p rest).regs = s.regs := regs_rxTaken s p rest
    have hcu : (s.rxTaken p rest).Canon := (State.setPort_keeps (.refl s) p _).canon hc
    have hin : (s.rxTaken p rest).inbox = s.inbox := inbox_rxTaken s p rest
    have hheld := held_rxTaken hc.ports p rest
    have hrest := rx_rxTaken hc.ports p rest
    have hlife := lifeUsed_of_regs hregs p ns
    have hroute := routeOf_of_regs hregs true x
    have hrf := rf_of_regs hregs
    have hflag := fun l => flag_of_regs (l := l) hregs
    generalize s.rxTaken p rest = u at hrun hregs hcu hin hheld hrest hlife hroute hrf hflag
    refine ⟨_, hrun, sameBut_of_next hrun, ((keepsRx_routed p ns x).rx hcu.ports p).trans hrest, fun hlt => ?_, fun hle => ?_⟩
    · rw [routed_goes p ns x (hlife ▸ hlt), hroute, hlife]
      refine ⟨fun hd => ?_, fun o d ho => ?_, fun c hd => ?_⟩
      · rw [hd]
        exact ⟨by rw [← hin], hregs⟩
      · rw [ho]
        exact ⟨hin, hregs, by rw [held_pushOut hcu.ports, hheld]⟩
      · rw [hd]
        obtain ⟨h1, h2, h3⟩ := dropped_shown hcu.regs p x p.isLt c
        rw [hin] at h1
        rw [hrf] at h2
        rw [hflag] at h3
        exact ⟨h1, h2, h3⟩
    · rw [routed_spent p ns x (hlife ▸ hle)]
      obtain ⟨h1, h2, -⟩ := dropped_shown hcu.regs p x p.isLt 1
      rw [hin] at h1
      rw [hrf] at h2
      exact ⟨h1, h2⟩
  · have hrun := abortSlot_runs hrx h ns
    obtain ⟨hsort, hcnt, herr⟩ := countAbort_shown hc.regs p
    have hca : (s.countAbort p).Canon := (State.countAbort_keeps (.refl s) p).canon hc
    have hports := ports_countAbort s p
    have hregs : ((s.countAbort p).rxTaken p rest).regs = (s.countAbort p).regs := regs_rxTaken _ p rest
    have hcu : ((s.countAbort p).rxTaken p rest).Canon := (State.setPort_keeps (.refl _) p _).canon hca
    have hin : ((s.countAbort p).rxTaken p rest).inbox = s.inbox := (inbox_rxTaken _ p rest).trans
      ((State.countAbort_same (.refl 8589934600 s) rfl p).inbox.resolve_left (by decide))
    have hheld : ∀ o, (((s.countAbort p).rxTaken p rest).port o).held = (s.port o).held := fun o => by
      rw [held_rxTaken hca.ports, port_of_ports hports]
    have hrest := rx_rxTaken hca.ports p rest
    have hroute := truncRoute_countAbort hc p ns x rest
    have hlife := lifeUsed_countAbort hc p ns rest
    have hdrop : ((s.countAbort p).rxTaken p rest).rf (R.MBL_DROP_CNT_COUNT p) = s.rf (R.MBL_DROP_CNT_COUNT p) :=
      (rf_of_regs hregs _).trans ((spares_countAbort (ne_page _ (by decide)) (port_field_noErr p rfl (by decide))).rf hc.regs)
    rw [← rf_of_regs hregs] at hcnt herr
    generalize (s.countAbort p).rxTaken p rest = u at hrun hcu hin hheld hrest hroute hlife hdrop hcnt herr
    rw [hroute] at hrun
    have hhigh : ∀ k, 0x61000 ≤ Page.portBase p + k := fun k =>
      Nat.le_trans (by decide : (0x61000 : Nat) ≤ 0x1000000) (Nat.le_trans (portBase_high p) (Nat.le_add_right _ _))
    have hcount := (spares_truncHead (s := u) (l := R.MBL_ABORT_CNT_COUNT p) p.isLt ns x (ne_page _ (by decide)) (port_field_noErr p rfl (by decide))
      (ne_page _ (by decide)) (ne_page _ (by decide)) (ne_page _ (by decide)))
    have hbit := keepsBit_truncHead (j := 7) (by decide) (s := u) p.isLt ns x
    have hkeep := keepsRx_truncHead (s := u) p ns x
    have hdropped : ∀ c, s.truncRoute p ns x = .drop c →
        (u.truncHead p ns x).rf (R.MBL_DROP_CNT_COUNT p) = satAdd32 (s.rf (R.MBL_DROP_CNT_COUNT p)) 1 := fun c hd => by
      rw [count_truncHead hcu.regs p.isLt (hroute.trans hd), hdrop]
    by_cases h10 : x.ptype = 10
    · rw [if_pos h10] at hrun
      exact ⟨_, hrun, sameBut_of_next hrun, hrest, hcnt, herr, fun _ => hin, fun h => absurd h10 h, fun h => absurd h10 h⟩
    rw [if_neg h10] at hrun
    by_cases hcut : x.ptype = 3 ∧ s.truncRoute p ns x = .deliver
    · rw [if_pos hcut] at hrun
      obtain ⟨h3, hdel⟩ := hcut
      have hct : (u.truncHead p ns x).Canon := (State.truncHead_keeps (.refl u) p ns x).canon hcu
      have hsow : ∀ l : Loc, 0x61000 ≤ l.addr → ((u.truncHead p ns x).sowCut x).rf l = (u.truncHead p ns x).rf l := fun l hl =>
        (spares_sowCut x (.refl l _) hl).rf hct.regs
      have hnot : ¬ (x.life ≤ s.lifeUsed p ns ∨ ∃ c, s.routeOf true x = .drop c) := by
        unfold State.truncRoute at hdel
        rintro (hle | ⟨c, hd⟩)
        · rw [if_pos hle] at hdel
          exact absurd hdel (by simp)
        · rw [hd] at hdel
          split at hdel <;> exact absurd hdel (by simp)
      refine ⟨_, hrun, sameBut_of_next hrun, ((hkeep.trans (keepsRx_sowCut x _)).rx hcu.ports p).trans hrest, ?_, ?_,
        fun h => ?_, fun _ hd => absurd hd hnot, fun _ hlt o d ho => ?_⟩
      · exact (hsow (R.MBL_ABORT_CNT_COUNT p) (hhigh _)).trans ((hcount.rf hcu.regs).trans hcnt)
      · rw [hsow (R.ERR_STAT_STAT (Page.portBase p)) (hhigh _)]
        exact hbit.bit hcu.regs herr
      · exact absurd h3 (by obtain h | h := h <;> omega)
      · unfold State.truncRoute at hdel
        rw [if_neg (Nat.not_le.mpr hlt), ho] at hdel
        exact absurd hdel (by simp)
    · rw [if_neg hcut] at hrun
      refine ⟨_, hrun, sameBut_of_next hrun, (hkeep.rx hcu.ports p).trans hrest, (hcount.rf hcu.regs).trans hcnt, hbit.bit hcu.regs herr,
        fun _ => (inbox_truncHead u p ns x).trans hin, fun _ hd => ?_, fun _ hlt o d ho => ?_⟩
      · obtain hle | ⟨c, hd⟩ := hd
        · exact hdropped 1 (if_pos hle)
        · by_cases hle : x.life ≤ s.lifeUsed p ns
          · exact hdropped 1 (if_pos hle)
          · exact hdropped c ((if_neg hle).trans hd)
      · have hout : u.truncRoute p ns x = .out o d := hroute.trans ((if_neg (Nat.not_le.mpr hlt)).trans ho)
        unfold State.truncHead
        rw [hout]
        dsimp only
        rw [held_pushOut hcu.ports, hheld, hlife]

end Sys2Proof.Machine


/-! Register reads (R12, R13, R15, R345, R382, R464): the first half of O43. -/

namespace Sys2Proof.Machine

/-! ### What a read of the bus does -/

/-- R13: what an aligned read of `a` takes: its value, and the latch of its low word, used up. -/
def State.taken (s : State) (u a : Nat) : State :=
  { s with rdata := (s.readValue u a).setWidth 64, rdLatch := sdel s.rdLatch (busKey u a) }

/-- R13: a low word latches its high word. -/
def State.highLatched (s : State) (u a : Nat) : State :=
  if isLow a then { s with rdLatch := sput s.rdLatch (busKey u (a + 4)) (s.view (a + 4)) } else s

section Bus
variable {s : State} {u a : Nat}

theorem busRead_bytes {log : Nat} (h : log ≠ 2 ∨ a % 4 ≠ 0) : s.busRead u a log =
    { s.drawSpan a (2 ^ log) with rdata := BitVec.ofNat 64 (leNat (s.peekBytes u a (2 ^ log))) } := if_pos h

variable (h4 : a % 4 = 0) (hs : s.served a = true) (hu : s.funcEnabled u = true)
include h4 hs hu

theorem busRead_word (hr : s.readable u a = true) :
    s.busRead u a 2 = ((((s.readLatch u a).taken u a).highLatched u a).drawTimed a).clearRc a := by
  unfold State.busRead
  rw [if_neg (by simp [h4]), hs, hu, hr, if_neg (by decide), if_neg (by decide)]
  rfl

theorem busRead_denied (hr : s.readable u a = false) : s.busRead u a 2 = { s.accErr u 0 false 1 a with rdata := 0 } := by
  unfold State.busRead
  rw [if_neg (by simp [h4]), hs, hu, hr, if_neg (by decide), if_pos (by decide)]

end Bus

theorem wordTaken_same (s : State) (u a : Nat) : Same 144 s (s.taken u a) := .of_frame (M := 144) rfl

theorem highLatched_same (s : State) (u a : Nat) : Same 16 s (s.highLatched u a) := by
  unfold State.highLatched
  split
  · exact .of_frame (M := 16) rfl
  · exact .refl 16 s

theorem word_same (s : State) (u a : Nat) : Same 218 s (((((s.readLatch u a).taken u a).highLatched u a).drawTimed a).clearRc a) :=
  State.clearRc_same (State.drawTimed_same ((State.readLatch_same (.refl 218 s) rfl u a).trans ((wordTaken_same _ u a).mono (N := 218) rfl) |>.trans
    ((highLatched_same _ u a).mono (N := 218) rfl)) rfl a) rfl a

/-! ### Values that are free (R83, R171, R173) -/

theorem drawTimed_of_untimed {s : State} {a : Nat} (h : isTimed a = false) : s.drawTimed a = s := by
  unfold State.drawTimed
  rw [h, Bool.and_false, if_neg (by decide)]

theorem drawSpan_of_untimed {s : State} {a : Nat} (n : Nat) (h : ∀ k, k < 3 → isTimed (a / 4 * 4 + 4 * k) = false) : s.drawSpan a n = s := by
  have hall : ∀ l : List Nat, (∀ k ∈ l, k < 3) →
      l.foldl (fun t k => if a / 4 * 4 + 4 * k < a + n then t.drawTimed (a / 4 * 4 + 4 * k) else t) s = s := by
    intro l
    induction l with
    | nil => exact fun _ => rfl
    | cons k l ih =>
      intro hl
      rw [List.foldl_cons, drawTimed_of_untimed (h k (hl k List.mem_cons_self)), ite_self]
      exact ih fun j hj => hl j (List.mem_cons_of_mem k hj)
  exact hall _ fun k hk => List.mem_range.mp hk

/-! ### RC fields (R15) -/

/-- R15: RC fields read once. -/
def rcCleared (l : List FieldRow) (w : Word32) : Word32 := l.foldl (fun w r => insertBits w r.lo r.wid 0) w

theorem wbits_rcCleared_apart {r : FieldRow} : ∀ (l : List FieldRow) (w : Word32), (∀ q ∈ l, q.lo + q.wid ≤ 32 ∧ q.apart r = true) →
    wbits (rcCleared l w) r.lo r.wid = wbits w r.lo r.wid
  | [], _, _ => rfl
  | q :: l, w, h => by
    obtain ⟨hq, hqa⟩ := h q List.mem_cons_self
    have hd : r.lo + r.wid ≤ q.lo ∨ q.lo + q.wid ≤ r.lo := by
      simp only [FieldRow.apart, Bool.or_eq_true, decide_eq_true_eq] at hqa
      exact hqa.symm
    exact (wbits_rcCleared_apart l _ fun x hx => h x (List.mem_cons_of_mem q hx)).trans (wbits_insertBits_apart w 0 hq hd)

theorem wbits_rcCleared_self {r : FieldRow} : ∀ {l : List FieldRow} (w : Word32), RowsApart l → r ∈ l → wbits (rcCleared l w) r.lo r.wid = 0
  | q :: l, w, ⟨hfit, hpair⟩, hmem => by
    obtain ⟨hq, hl⟩ := List.pairwise_cons.mp hpair
    have hfits : ∀ x ∈ l, x.lo + x.wid ≤ 32 := fun x hx => hfit x (List.mem_cons_of_mem q hx)
    obtain rfl | hr := List.mem_cons.mp hmem
    · refine (wbits_rcCleared_apart l _ fun x hx => ⟨hfits x hx, ?_⟩).trans
        ((wbits_insertBits_self w 0 (hfit r List.mem_cons_self)).trans (Nat.zero_mod _))
      rw [FieldRow.apart_comm]
      exact hq x hx
    · exact wbits_rcCleared_self (l := l) _ ⟨hfits, hl⟩ hr

/-- A field of a register lies apart from the other fields that are chosen of it. -/
theorem RowsApart.apart_of_not {l : List FieldRow} (h : RowsApart l) {r : FieldRow} (hr : r ∈ l) {p : FieldRow → Bool} (hp : p r = false) :
    ∀ q ∈ l.filter p, q.lo + q.wid ≤ 32 ∧ q.apart r = true := fun q hq => by
  obtain ⟨hq, hpq⟩ := List.mem_filter.mp hq
  refine ⟨h.1 q hq, ?_⟩
  have hne : q ≠ r := fun e => by
    rw [e, hp] at hpq
    exact absurd hpq (by decide)
  have hsymm : Std.Symm fun r q : FieldRow => r.apart q = true := ⟨fun r q h => (r.apart_comm q).symm.trans h⟩
  exact h.2.forall hq hr hne

theorem clearRc_reg {s : State} (hs : Store.Sorted s.regs) (a : Nat) :
    (∀ r ∈ rowsAt a, wbits ((s.clearRc a).reg a) r.lo r.wid = if r.acc = .rc then 0 else wbits (s.reg a) r.lo r.wid) ∧
    ∀ b, b ≠ a → (s.clearRc a).reg b = s.reg b := by
  have hrows := rowsApart_rowsAt a
  unfold State.clearRc
  dsimp only
  by_cases he : ((rowsAt a).filter fun r => r.acc == .rc).isEmpty = true
  · rw [if_pos he]
    refine ⟨fun r hr => (if_neg fun hrc => ?_).symm, fun _ _ => rfl⟩
    have hnil := List.isEmpty_iff.mp he
    have hmem : r ∈ (rowsAt a).filter fun r => r.acc == .rc := List.mem_filter.mpr ⟨hr, by rw [hrc]; decide⟩
    rw [hnil] at hmem
    exact absurd hmem (by simp)
  · rw [if_neg he]
    refine ⟨fun r hr => ?_, fun b hb => reg_setReg_ne s _ hb⟩
    rw [reg_setReg_self hs]
    by_cases hrc : r.acc = .rc
    · rw [if_pos hrc]
      exact wbits_rcCleared_self _ (hrows.filter _) (List.mem_filter.mpr ⟨hr, by rw [hrc]; decide⟩)
    · rw [if_neg hrc]
      exact wbits_rcCleared_apart _ _ (hrows.apart_of_not hr (beq_false_of_ne hrc))

/-! ### Latches of a window and of the forecast (R382, R464) -/

theorem busKey_add_ne (u a : Nat) : busKey u a ≠ busKey u (a + 4) := by
  unfold busKey
  omega

theorem readLatch_forecast (s : State) (u : Nat) : s.readLatch u A.PWR_FC_MIN = s.latchForecast := if_pos rfl

theorem pageAt_context (c : Fin 64) {o : Nat} (ho : o < 0x1000) : pageAt (Page.contextBase c + o) = some (.context c) := by
  have hc := c.2
  have hi : (Page.contextBase c + o) / 0x1000 = 0xC0 + c := by
    unfold Page.contextBase
    omega
  unfold pageAt
  dsimp only
  rw [hi, if_neg (by omega), if_neg (by omega), if_neg (by omega), if_pos ⟨by omega, by omega⟩, Nat.add_sub_cancel_left]

theorem readLatch_window (s : State) (u : Nat) (c : Fin 64) : s.readLatch u (A.CTX_IF_SEQ c) = s.latchIf u c := by
  have hne : A.CTX_IF_SEQ c ≠ A.PWR_FC_MIN := by
    unfold A.CTX_IF_SEQ A.PWR_FC_MIN Page.contextBase Page.powerBase
    omega
  unfold State.readLatch
  have hp : pageAt (A.CTX_IF_SEQ c) = some (.context c) := pageAt_context c (by decide)
  rw [if_neg hne, hp]
  exact if_pos rfl

theorem readLatch_plain {s : State} {u a : Nat} (hf : a ≠ A.PWR_FC_MIN) (hw : ∀ c, a ≠ A.CTX_IF_SEQ c) : s.readLatch u a = s := by
  unfold State.readLatch
  rw [if_neg hf]
  split
  · exact if_neg (hw _)
  · rfl

theorem readLatch_regs {s : State} {u a : Nat} (hf : a ≠ A.PWR_FC_MIN) : (s.readLatch u a).regs = s.regs := by
  unfold State.readLatch
  rw [if_neg hf]
  split
  · split <;> rfl
  · rfl

/-- Addresses that no latch of a window or of the forecast writes. -/
theorem isLow_plain {a : Nat} (h : isLow a = true) : a ≠ A.PWR_FC_MIN ∧ ∀ c, a ≠ A.CTX_IF_SEQ c := by
  refine ⟨fun e => ?_, fun c e => ?_⟩
  · rw [e] at h
    exact absurd h (by decide)
  · have hlow : a % 0x1000 = 0x114 := by
      rw [e]
      unfold A.CTX_IF_SEQ Page.contextBase
      omega
    unfold isLow at h
    rw [hlow] at h
    revert h
    split <;> decide

section Word
variable {s : State} {u a : Nat}

theorem taken_reg (b : Nat) : (s.taken u a).reg b = s.reg b := rfl

theorem highLatched_reg (b : Nat) : (s.highLatched u a).reg b = s.reg b := by
  unfold State.highLatched
  split <;> rfl

theorem drawTimed_regs : (s.drawTimed a).regs = s.regs := (State.drawTimed_same (.refl 2 s) rfl a).regs.resolve_left (by decide)

/-- The registers before the RC fields are cleared. -/
theorem highLatched_regs : (((s.readLatch u a).taken u a).highLatched u a).regs = (s.readLatch u a).regs :=
  (highLatched_same ((s.readLatch u a).taken u a) u a).regs.resolve_left (by decide)

theorem sorted_latchForecast (hs : Store.Sorted s.regs) : Store.Sorted s.latchForecast.regs := by
  have hall : ∀ (l : List Nat) (t : State), Store.Sorted t.regs →
      Store.Sorted (l.foldl (fun s j => s.setReg (A.PWR_FC j) (s.ceilWord j)) t).regs := by
    intro l
    induction l with
    | nil => exact fun _ ht => ht
    | cons j l ih => exact fun t ht => ih _ (sorted_setReg ht _ _)
  exact hall _ _ (sorted_wf hs _ _)

theorem sorted_readLatch (hs : Store.Sorted s.regs) : Store.Sorted (s.readLatch u a).regs := by
  by_cases hf : a = A.PWR_FC_MIN
  · rw [hf, readLatch_forecast]
    exact sorted_latchForecast hs
  · rw [readLatch_regs hf]
    exact hs

variable (hs : Store.Sorted s.regs)
include hs

theorem word_reg :
    (∀ r ∈ rowsAt a, wbits ((((((s.readLatch u a).taken u a).highLatched u a).drawTimed a).clearRc a).reg a) r.lo r.wid =
      if r.acc = .rc then 0 else wbits ((s.readLatch u a).reg a) r.lo r.wid) ∧
    ∀ b, b ≠ a → (((((s.readLatch u a).taken u a).highLatched u a).drawTimed a).clearRc a).reg b = (s.readLatch u a).reg b := by
  have hr : ((((s.readLatch u a).taken u a).highLatched u a).drawTimed a).regs = (s.readLatch u a).regs := drawTimed_regs.trans highLatched_regs
  have h := clearRc_reg (s := (((s.readLatch u a).taken u a).highLatched u a).drawTimed a) (by rw [hr]; exact sorted_readLatch hs) a
  refine ⟨fun r hm => ?_, fun b hb => (h.2 b hb).trans (reg_of_regs hr b)⟩
  rw [h.1 r hm, reg_of_regs hr]

end Word

/-! ### The forecast (R464) -/

theorem PWR_FC_inj {i j : Nat} (h : i ≠ j) : A.PWR_FC i ≠ A.PWR_FC j := by
  unfold A.PWR_FC
  omega

theorem PWR_FC_ne (j : Nat) : A.PWR_FC j ≠ A.PWR_FC_MIN ∧ A.PWR_FC j ≠ A.PWR_FC_LEFT := by
  unfold A.PWR_FC A.PWR_FC_MIN A.PWR_FC_LEFT
  omega

theorem forecast_fold (w : Nat → Word32) : ∀ (l : List Nat) (t : State), Store.Sorted t.regs → (∀ j, t.ceilWord j = w j) →
    (∀ j ∈ l, (l.foldl (fun s j => s.setReg (A.PWR_FC j) (s.ceilWord j)) t).reg (A.PWR_FC j) = w j) ∧
    ∀ b, (∀ j ∈ l, b ≠ A.PWR_FC j) → (l.foldl (fun s j => s.setReg (A.PWR_FC j) (s.ceilWord j)) t).reg b = t.reg b := by
  intro l
  induction l with
  | nil => exact fun t _ _ => ⟨nofun, fun _ _ => rfl⟩
  | cons i l ih =>
    intro t ht hw
    obtain ⟨hin, hout⟩ := ih (t.setReg (A.PWR_FC i) (t.ceilWord i)) (sorted_setReg ht _ _) hw
    refine ⟨fun j hj => ?_, fun b hb => ?_⟩
    · by_cases hjl : j ∈ l
      · exact hin j hjl
      · obtain rfl := (List.mem_cons.mp hj).resolve_right hjl
        exact (hout _ fun k hk => PWR_FC_inj fun e => hjl (by rw [e]; exact hk)).trans ((reg_setReg_self ht _ _).trans (hw j))
    · exact (hout b fun j hj => hb j (List.mem_cons_of_mem i hj)).trans (reg_setReg_ne t _ (hb i List.mem_cons_self))

theorem latchForecast_shows {s : State} (hs : Store.Sorted s.regs) :
    (∀ j, j < 8 → s.latchForecast.reg (A.PWR_FC j) = s.ceilWord j) ∧ s.latchForecast.rf R.PWR_FC_LEFT_MS = s.minuteLeft ∧
      s.latchForecast.reg A.PWR_FC_MIN = s.reg A.PWR_FC_MIN := by
  obtain ⟨hin, hout⟩ := forecast_fold s.ceilWord (List.range 8) (s.wf R.PWR_FC_LEFT_MS s.minuteLeft) (sorted_wf hs _ _) fun _ => rfl
  refine ⟨fun j hj => hin j (List.mem_range.mpr hj), ?_, ?_⟩
  · have hlt : s.minuteLeft < 2 ^ 16 := by
      unfold State.minuteLeft
      omega
    exact ((rf_congr (hout A.PWR_FC_LEFT fun j _ => (PWR_FC_ne j).2.symm)).trans (rf_wf_self hs (Nat.le_of_ble_eq_true rfl) _)).trans
      (Nat.mod_eq_of_lt hlt)
  · exact (hout A.PWR_FC_MIN fun j _ => (PWR_FC_ne j).1.symm).trans (reg_wf_ne s _ (by decide))

theorem view_fc {s : State} {j : Nat} (hj : j < 8) : s.view (A.PWR_FC j) = s.reg (A.PWR_FC j) := by
  interval_cases j <;> rfl

/-! ### The value, the latches and the registers of a read -/

section Read
variable {s : State} {u a : Nat}

theorem readLatch_rdLatch : (s.readLatch u a).rdLatch = s.rdLatch :=
  (State.readLatch_same (.refl 72 s) rfl u a).rdLatch.resolve_left (by decide)

theorem word_rdata :
    (((((s.readLatch u a).taken u a).highLatched u a).drawTimed a).clearRc a).rdata = ((s.readLatch u a).readValue u a).setWidth 64 := by
  have h1 := (State.clearRc_same (.refl 8 ((((s.readLatch u a).taken u a).highLatched u a).drawTimed a)) rfl a).rdata.resolve_left (by decide)
  have h2 := (State.drawTimed_same (.refl 2 (((s.readLatch u a).taken u a).highLatched u a)) rfl a).rdata.resolve_left (by decide)
  have h3 := (highLatched_same ((s.readLatch u a).taken u a) u a).rdata.resolve_left (by decide)
  exact h1.trans (h2.trans h3)

theorem word_rdLatch :
    (((((s.readLatch u a).taken u a).highLatched u a).drawTimed a).clearRc a).rdLatch = (((s.readLatch u a).taken u a).highLatched u a).rdLatch :=
  ((State.clearRc_same (.refl 8 ((((s.readLatch u a).taken u a).highLatched u a).drawTimed a)) rfl a).rdLatch.resolve_left (by decide)).trans
    ((State.drawTimed_same (.refl 2 (((s.readLatch u a).taken u a).highLatched u a)) rfl a).rdLatch.resolve_left (by decide))

theorem latched_self (hl : Store.Sorted s.rdLatch) :
    sget? (((s.readLatch u a).taken u a).highLatched u a).rdLatch (busKey u a) = none := by
  have hself : sget? ((s.readLatch u a).taken u a).rdLatch (busKey u a) = none := by
    show sget? (sdel (s.readLatch u a).rdLatch (busKey u a)) (busKey u a) = none
    rw [readLatch_rdLatch]
    exact sget_sdel_self hl _
  unfold State.highLatched
  split
  · exact (sget_sput_ne _ _ (busKey_add_ne u a)).trans hself
  · exact hself

theorem latched_high (hlow : isLow a = true) :
    sget? (((s.readLatch u a).taken u a).highLatched u a).rdLatch (busKey u (a + 4)) = some (s.view (a + 4)) := by
  obtain ⟨hf, hw⟩ := isLow_plain hlow
  rw [readLatch_plain hf hw]
  unfold State.highLatched
  rw [if_pos hlow]
  refine (sget_sput_self _ _ _).trans (congrArg some ?_)
  rfl

theorem readValue_latched {w : Word32} (h : sget? s.rdLatch (busKey u a) = some w) : (s.readLatch u a).readValue u a = w := by
  unfold State.readValue
  rw [readLatch_rdLatch, h]

theorem readValue_view (h : sget? s.rdLatch (busKey u a) = none) (hp : ifPlace a = none) : s.readValue u a = s.view a := by
  unfold State.readValue
  rw [h, hp]

theorem readValue_window {c i : Nat} (h : sget? s.rdLatch (busKey u a) = none) (hp : ifPlace a = some (c, i)) :
    s.readValue u a = ((sget? s.ifLatch (u * 64 + c)).getD []).getD i (s.view a) := by
  unfold State.readValue
  rw [h, hp]

end Read

/-! ### The frame of a read that shows no free value -/

theorem word_frame {M : Nat} {s : State} {u a : Nat} (ht : isTimed a = false) (hM : 152 ||| M = M) (hk : Same M s (s.readLatch u a)) :
    Same M s (((((s.readLatch u a).taken u a).highLatched u a).drawTimed a).clearRc a) := by
  have h144 : 144 ||| M = M := by
    rw [← hM, ← Nat.or_assoc]
    rfl
  have h16 : 16 ||| M = M := by
    rw [← hM, ← Nat.or_assoc]
    rfl
  have h8 : 8 ||| M = M := by
    rw [← hM, ← Nat.or_assoc]
    rfl
  rw [drawTimed_of_untimed ht]
  exact State.clearRc_same ((hk.trans ((wordTaken_same _ u a).mono (N := M) h144)).trans ((highLatched_same _ u a).mono (N := M) h16)) h8 a

theorem word_ifLatch {s : State} {u a : Nat} :
    (((((s.readLatch u a).taken u a).highLatched u a).drawTimed a).clearRc a).ifLatch = (s.readLatch u a).ifLatch :=
  (State.clearRc_same (State.drawTimed_same ((highLatched_same ((s.readLatch u a).taken u a) u a).mono (N := 26) rfl) rfl a) rfl
    a).ifLatch.resolve_left (by decide)

theorem isTimed_window (c : Fin 64) : isTimed (A.CTX_IF_SEQ c) = false := by
  have hp : pageAt (A.CTX_IF_SEQ c) = some (.context c) := pageAt_context c (by decide)
  unfold isTimed
  rw [hp]

/-! ### Access errors (R371) -/

/-- R371: what every access error does. -/
def State.accRaised (s : State) : State := (s.bump R.HIF_ACC_CNT_COUNT 1).raiseSrc Page.hostifBase 0

/-- R371: the first access error is kept. -/
def State.accNoted (s : State) (u bar : Nat) (write : Bool) (kind off : Nat) : State :=
  ((((((s.wf R.HIF_ACC_INFO_FUNC u).wf R.HIF_ACC_INFO_BAR bar).wf R.HIF_ACC_INFO_WRITE (if write then 1 else 0)).wf
    R.HIF_ACC_INFO_KIND kind).wf R.HIF_ACC_INFO_VALID 1).wf R.HIF_ACC_ADDR_LO_OFFSET (off % 2 ^ 32)).wf R.HIF_ACC_ADDR_HI_OFFSET (off / 2 ^ 32)

theorem accErr_eq (s : State) (u bar : Nat) (write : Bool) (kind off : Nat) : s.accErr u bar write kind off =
    if s.accRaised.flag R.HIF_ACC_INFO_VALID then s.accRaised else s.accRaised.accNoted u bar write kind off := rfl

theorem noErr_hostif {l : Loc} (h : Page.hostifBase + 0x28 ≤ l.addr) : l.NoErr Page.hostifBase := Loc.noErr_of_page (.inr h)

section Access
variable {s : State}

theorem accRaised_reg {a : Nat} (h : Page.hostifBase + 0x28 ≤ a) (hc : a ≠ A.HIF_ACC_CNT) : s.accRaised.reg a = s.reg a :=
  (raiseSrc_reg _ _ _ (noErr_hostif (l := ⟨a, 0, 32⟩) h)).trans (reg_bump_ne s (l := R.HIF_ACC_CNT_COUNT) 1 hc)

theorem sorted_accRaised (hs : Store.Sorted s.regs) : Store.Sorted s.accRaised.regs := sorted_raiseSrc (sorted_wf hs _ _) _ _

theorem accRaised_count (hs : Store.Sorted s.regs) : s.accRaised.rf R.HIF_ACC_CNT_COUNT = satAdd32 (s.rf R.HIF_ACC_CNT_COUNT) 1 :=
  (((Spares.refl R.HIF_ACC_CNT_COUNT (s.bump R.HIF_ACC_CNT_COUNT 1)).raiseSrc (noErr_hostif (by decide)) 0).rf (sorted_wf hs _ _)).trans
    ((rf_bump_self hs (Nat.le_of_ble_eq_true rfl) 1).trans (satAdd32_mod _ _))

theorem accRaised_valid : s.accRaised.flag R.HIF_ACC_INFO_VALID = s.flag R.HIF_ACC_INFO_VALID :=
  congrArg (· != 0) (rf_congr (accRaised_reg (by decide) (by decide)))

/-- Fields below the address words of an access error. -/
theorem accNoted_addr {l : Loc} (hlo : l.addr ≠ A.HIF_ACC_ADDR_LO) (hhi : l.addr ≠ A.HIF_ACC_ADDR_HI) (t : State) (off : Nat) :
    ((t.wf R.HIF_ACC_ADDR_LO_OFFSET (off % 2 ^ 32)).wf R.HIF_ACC_ADDR_HI_OFFSET (off / 2 ^ 32)).rf l = t.rf l :=
  (rf_wf_addr _ _ hhi).trans (rf_wf_addr _ _ hlo)

theorem accNoted_shows (hs : Store.Sorted s.regs) (u bar kind off : Nat) (write : Bool) :
    (s.accNoted u bar write kind off).rf R.HIF_ACC_INFO_VALID = 1 ∧ (s.accNoted u bar write kind off).rf R.HIF_ACC_INFO_FUNC = u % 2 ^ 6 ∧
      (s.accNoted u bar write kind off).rf R.HIF_ACC_INFO_WRITE = (if write then 1 else 0) ∧
      (s.accNoted u bar write kind off).rf R.HIF_ACC_INFO_KIND = kind % 2 ^ 3 ∧
      (s.accNoted u bar write kind off).rf R.HIF_ACC_ADDR_LO_OFFSET = off % 2 ^ 32 := by
  have h1 := sorted_wf hs R.HIF_ACC_INFO_FUNC u
  have h2 := sorted_wf h1 R.HIF_ACC_INFO_BAR bar
  have h3 := sorted_wf h2 R.HIF_ACC_INFO_WRITE (if write then 1 else 0)
  have h4 := sorted_wf h3 R.HIF_ACC_INFO_KIND kind
  have h5 := sorted_wf h4 R.HIF_ACC_INFO_VALID 1
  have hfit : ∀ lo wid, lo + wid ≤ 32 → (⟨A.HIF_ACC_INFO, lo, wid⟩ : Loc).Fits := fun _ _ h => h
  refine ⟨(accNoted_addr (by decide) (by decide) _ _).trans (rf_wf_self h4 (hfit 31 1 (by decide)) 1), ?_, ?_, ?_, ?_⟩
  · refine (accNoted_addr (by decide) (by decide) _ _).trans ?_
    exact ((Spares.refl R.HIF_ACC_INFO_FUNC (s.wf R.HIF_ACC_INFO_FUNC u)).wf (hfit 6 1 (by decide)) (Loc.clear_above rfl) _ |>.wf
      (hfit 7 1 (by decide)) (Loc.clear_above rfl) _ |>.wf (hfit 8 3 (by decide)) (Loc.clear_above rfl) _ |>.wf (hfit 31 1 (by decide)) (Loc.clear_above rfl) _).rf h1 |>.trans
      (rf_wf_self hs (hfit 0 6 (by decide)) u)
  · refine (accNoted_addr (by decide) (by decide) _ _).trans ?_
    refine (((Spares.refl R.HIF_ACC_INFO_WRITE _).wf (hfit 8 3 (by decide)) (Loc.clear_above rfl) _ |>.wf (hfit 31 1 (by decide)) (Loc.clear_above rfl) _).rf h3).trans
      ((rf_wf_self h2 (hfit 7 1 (by decide)) _).trans ?_)
    cases write <;> rfl
  · refine (accNoted_addr (by decide) (by decide) _ _).trans ?_
    exact (((Spares.refl R.HIF_ACC_INFO_KIND _).wf (hfit 31 1 (by decide)) (Loc.clear_above rfl) _).rf h4).trans
      (rf_wf_self h3 (hfit 8 3 (by decide)) kind)
  · exact (rf_wf_addr _ _ (by decide)).trans ((rf_wf_self h5 (Nat.le_of_ble_eq_true rfl) _).trans (Nat.mod_mod off _))

/-- R371: an access error is kept where none is. -/
theorem accErr_first (hv : s.rf R.HIF_ACC_INFO_VALID = 0) (u bar kind off : Nat) (write : Bool) :
    s.accErr u bar write kind off = s.accRaised.accNoted u bar write kind off := by
  have hf : s.flag R.HIF_ACC_INFO_VALID = false := by
    unfold State.flag
    rw [hv]
    rfl
  rw [accErr_eq, accRaised_valid, hf, if_neg (by decide)]

theorem accErr_count (hs : Store.Sorted s.regs) (u bar kind off : Nat) (write : Bool) :
    (s.accErr u bar write kind off).rf R.HIF_ACC_CNT_COUNT = satAdd32 (s.rf R.HIF_ACC_CNT_COUNT) 1 := by
  rw [accErr_eq, ← accRaised_count hs]
  split
  · rfl
  · exact ((((((((Spares.refl R.HIF_ACC_CNT_COUNT s.accRaised).wf_far (by decide) _).wf_far (by decide) _).wf_far (by decide) _).wf_far
      (by decide) _).wf_far (by decide) _).wf_far (by decide) _).wf_far (by decide) _).rf (sorted_accRaised hs)

/-- R371: of later access errors the count alone is kept. -/
theorem accErr_later (hv : s.rf R.HIF_ACC_INFO_VALID = 1) (u bar kind off : Nat) (write : Bool) :
    s.accErr u bar write kind off = s.accRaised := by
  have hf : s.flag R.HIF_ACC_INFO_VALID = true := by
    unfold State.flag
    rw [hv]
    rfl
  rw [accErr_eq, accRaised_valid, hf, if_pos rfl]

end Access

theorem misaligned_runs {s : State} (u : Fin 64) (a : BitVec 27) (hs : s.served a.toNat = true) (hu : s.funcEnabled u = true) :
    exec (.misalignedWrite u a) s = .next (s.accErr u 0 true 0 a.toNat) := by
  show execMisalignedWrite u a s = _
  unfold execMisalignedWrite
  unfold State.badWrite
  rw [hs, hu]
  rfl

end Sys2Proof.Machine


/-! Register writes (R14 to R16, R18, R245, R497, R499), and O43. -/

namespace Sys2Proof.Machine

/-! ### A plain write (R15, R16) -/

theorem plainWrite_reg {s : State} (hs : Store.Sorted s.regs) (a : Nat) (v : Word32) :
    (s.plainWrite a v).reg a = rowsWrite (rowsAt a) v (s.reg a) ∧ ∀ b, b ≠ a → (s.plainWrite a v).reg b = s.reg b :=
  ⟨reg_setReg_self hs a _, fun _ hb => reg_setReg_ne s _ hb⟩

theorem plainWrite_frame (s : State) (a : Nat) (v : Word32) : { s.plainWrite a v with regs := s.regs } = s := setReg_frame s a _

theorem zeroWrite_zero (s : State) (a : Nat) : s.zeroWrite a 0 = s.setReg a 0 := if_pos rfl

theorem zeroWrite_other (s : State) (a : Nat) {v : Word32} (h : v ≠ 0) : s.zeroWrite a v = s := if_neg h

/-! ### What a write of a register is (R12, R14) -/

/-- A write that is no other command. -/
structure PlainTarget (p : Page) (a : Nat) (v : Word32) : Prop where
  page : pageAt a = some p
  low : stagesLow a = false
  high : stagesHigh a = false
  own : ownWrite p (a % 0x1000) v = false

theorem effect_register {s : State} {u a : Nat} {v : Word32} {p : Page} (h : PlainTarget p a v) : s.effect u a v = s.regWrite p a v := by
  unfold State.effect
  rw [h.page]
  dsimp only
  rw [h.low, h.high, h.own]
  rfl

theorem busWrite_effect {s : State} {u : Fin 64} {a : Nat} (h : s.MayWrite u a) (h4 : a % 4 = 0) (v : Word32) :
    s.busWrite u a v = s.effect u a v := by
  unfold State.busWrite
  rw [if_neg (by simp [h4]), gateWrite_rw h]

theorem registerWrite_runs {s : State} {u : Fin 64} {a : BitVec 27} {v : Word32} {p : Page} (hm : s.MayWrite u a.toNat)
    (hp : pageAt a.toNat = some p) (hwf : (Instr.registerWrite u a v).wf = true) :
    exec (.registerWrite u a v) s = .next (s.regWrite p a.toNat v) := by
  have hok : registerOk a.toNat v = true := hwf
  unfold registerOk at hok
  rw [hp] at hok
  simp only [Bool.and_eq_true, beq_iff_eq, Bool.not_eq_true', Bool.or_eq_false_iff] at hok
  obtain ⟨h4, ⟨hl, hh⟩, ho⟩ := hok
  show execRegisterWrite u a v s = _
  unfold execRegisterWrite
  rw [busWrite_effect hm h4, effect_register ⟨hp, hl, hh, ho⟩]

/-! ### Words of 64-bit quantities (R14) -/

/-- Where a word lies that is staged. -/
theorem stagesLow_place {a : Nat} (h : stagesLow a = true) : a % 4 = 0 ∧ a % 0x1000 < 0xFF8 := by
  unfold stagesLow at h
  have hmod : a % 4 = a % 0x1000 % 4 := (Nat.mod_mod_of_dvd a (by decide)).symm
  have hlt := Nat.mod_lt a (show 0 < 0x1000 by decide)
  generalize a % 0x1000 = o at h hmod hlt
  rw [hmod]
  revert h
  split <;> simp only [Bool.and_eq_true, Bool.or_eq_true, beq_iff_eq, decide_eq_true_eq, Bool.false_eq_true, false_imp_iff] <;> intro h <;> omega

/-- The low word of a quantity lies before its high word, on the same page, and is not its neighbour's. -/
theorem stagesHigh_place {a : Nat} (h : stagesHigh a = true) : a % 4 = 0 ∧ 4 ≤ a ∧ pageAt (a - 4) = pageAt a ∧ stagesLow a = false := by
  unfold stagesHigh at h
  rw [Bool.and_eq_true, decide_eq_true_eq] at h
  obtain ⟨h4, hlow⟩ := h
  obtain ⟨hmod, hlt⟩ := stagesLow_place hlow
  have hpage : pageAt (a - 4) = pageAt a := pageAt_congr (by omega)
  refine ⟨by omega, h4, hpage, ?_⟩
  have hoff : a % 0x1000 = (a - 4) % 0x1000 + 4 := by omega
  unfold stagesLow at hlow ⊢
  rw [← hpage, hoff]
  generalize (a - 4) % 0x1000 = o at hlow hlt
  revert hlow
  split <;> simp only [Bool.and_eq_true, Bool.or_eq_true, beq_iff_eq, decide_eq_true_eq, Bool.false_eq_true, false_imp_iff,
    Bool.and_eq_false_iff, Bool.or_eq_false_iff, decide_eq_false_iff_not, beq_eq_false_iff_ne] <;> intro h <;> omega

theorem effect_low {s : State} {u a : Nat} {v : Word32} (h : stagesLow a = true) : s.effect u a v = s.lowWrite u a v := by
  unfold State.effect
  split
  next hp =>
    unfold stagesLow at h
    rw [hp] at h
    exact (Bool.false_ne_true h).elim
  · exact if_pos h

theorem effect_high {s : State} {u a : Nat} {v : Word32} (h : stagesHigh a = true) : s.effect u a v = s.highWrite u a v := by
  obtain ⟨-, -, hpage, hlow⟩ := stagesHigh_place h
  unfold State.effect
  split
  next hp =>
    unfold stagesHigh at h
    rw [Bool.and_eq_true] at h
    have hl := h.2
    unfold stagesLow at hl
    rw [hpage, hp] at hl
    exact (Bool.false_ne_true hl).elim
  · rw [hlow, h]
    rfl

section Words
variable {s : State} {u : Fin 64} {a : BitVec 27} (v : Word32) (hm : s.MayWrite u a.toNat)
  (hd : ∀ q, pageAt a.toNat ≠ some (.doorbell q)) (hv : ∀ c, pageAt a.toNat ≠ some (.serving c))
include hm hd hv

theorem lowWordWrite_runs (h : stagesLow a.toNat = true) : exec (.lowWordWrite u a v) s = .next (s.stage64 u a.toNat v) := by
  show execLowWordWrite u a v s = _
  unfold execLowWordWrite
  rw [busWrite_effect hm (stagesLow_place h).1, effect_low h]
  unfold State.lowWrite
  split
  next q hq => exact absurd hq (hd q)
  next c hc => exact absurd hc (hv c)
  · rfl

theorem highWordWrite_runs (h : stagesHigh a.toNat = true) (hf : pageAt a.toNat ≠ some .fabric) :
    exec (.highWordWrite u a v) s = .next (s.commit64 u a.toNat v) := by
  show execHighWordWrite u a v s = _
  unfold execHighWordWrite
  rw [busWrite_effect hm (stagesHigh_place h).1, effect_high h]
  unfold State.highWrite
  split
  next hq => exact absurd hq hf
  next q hq => exact absurd hq (hd q)
  next c hc => exact absurd hc (hv c)
  · rfl

end Words

theorem pairReserved_unstage (s : State) (u b a : Nat) (lo hi : Word32) : (s.unstage u b).pairReserved a lo hi = s.pairReserved a lo hi := by
  unfold State.pairReserved
  split <;> rfl

/-- R14, R16: what the write of a high word does. -/
theorem commit64_cases (s : State) (u a : Nat) (v : Word32) : s.commit64 u a v =
    if s.pairReserved a (s.stagedLow u (a - 4)) v then s.unstage u (a - 4)
    else ((s.unstage u (a - 4)).plainWrite (a - 4) (s.stagedLow u (a - 4))).plainWrite a v := by
  unfold State.commit64
  dsimp only
  rw [pairReserved_unstage]

/-- Two registers take their words. -/
theorem plainWrite_pair {s : State} (hs : Store.Sorted s.regs) {a b : Nat} (hab : a ≠ b) (lo v : Word32) :
    ((s.plainWrite b lo).plainWrite a v).reg a = rowsWrite (rowsAt a) v (s.reg a) ∧
      ((s.plainWrite b lo).plainWrite a v).reg b = rowsWrite (rowsAt b) lo (s.reg b) ∧
      ∀ x, x ≠ a → x ≠ b → ((s.plainWrite b lo).plainWrite a v).reg x = s.reg x := by
  obtain ⟨h1, h2⟩ := plainWrite_reg hs b lo
  obtain ⟨h3, h4⟩ := plainWrite_reg (s := s.plainWrite b lo) (sorted_setReg hs _ _) a v
  exact ⟨h3.trans (by rw [h2 a hab]), (h4 b hab.symm).trans h1, fun x ha hb => (h4 x ha).trans (h2 x hb)⟩

/-! ### The mailbox (R497) -/

/-- A byte that is written reads as written, where the written cells are in order. -/
theorem Memory.read_write_cells {unit : Nat} {m : Memory} (h : Store.Sorted m.cells) (a : Nat) (b : Byte) : (m.write unit a b).read unit a = b := by
  unfold Memory.write
  split
  · next hz =>
    have hu : ({ m with cells := sdel m.cells a } : Memory).undef (a / unit) = none := hz.2
    simp [Memory.read, sget_sdel_self h, Memory.unlisted, hu, hz.1]
  · simp [Memory.read]

theorem Memory.sorted_write {unit : Nat} {m : Memory} (h : Store.Sorted m.cells) (a : Nat) (b : Byte) : Store.Sorted (m.write unit a b).cells := by
  unfold Memory.write
  split
  · exact sorted_sdel h a
  · exact sorted_sput h a b

theorem Memory.read_writeN_cells {unit : Nat} (bs : List Byte) : ∀ {m : Memory} (a : Nat), Store.Sorted m.cells →
    ∀ i, i < bs.length → (m.writeN unit a bs).read unit (a + i) = bs.getD i 0 := by
  induction bs with
  | nil => exact fun _ _ i hi => absurd hi (Nat.not_lt_zero i)
  | cons b t ih =>
    intro m a h i hi
    cases i with
    | zero =>
      exact (Memory.read_writeN_out unit t _ (.inl (Nat.lt_succ_self a))).trans (Memory.read_write_cells h a b)
    | succ i =>
      rw [Memory.writeN, show a + (i + 1) = a + 1 + i by omega, ih (a + 1) (Memory.sorted_write h a b) i (Nat.lt_of_succ_lt_succ hi)]
      rfl

theorem leBytes_getD : ∀ (n x j : Nat), j < n → ((leBytes n x).getD j 0).toNat = x / 256 ^ j % 256
  | n + 1, x, 0, _ => by simp [leBytes]
  | n + 1, x, j + 1, h => by
    rw [leBytes, List.getD_cons_succ, leBytes_getD n (x / 256) j (Nat.lt_of_succ_lt_succ h), Nat.div_div_eq_div_mul, pow_succ,
      Nat.mul_comm 256]

theorem mailWrite_reads {s : State} (h : Store.Sorted s.sec.mailbox.cells) (i o : Nat) (v : Word32) {j : Nat} (hj : j < 4) :
    ((s.mailWrite i o v).sec.mailbox.read unit64K (i * 0x1000 + o + j)).toNat = v.toNat / 256 ^ j % 256 := by
  have hr := Memory.read_writeN_cells (unit := unit64K) (leBytes 4 v.toNat) (i * 0x1000 + o) h j (by rw [length_leBytes]; exact hj)
  exact (congrArg BitVec.toNat hr).trans (leBytes_getD 4 _ j hj)

/-! ### Registers with a rule of their own (R15, R18, R372, R499) -/

section Rule
variable {s : State} {p : Page} {a : Nat} (v : Word32)

theorem regWrite_common (hc : p.hasCommon = true) (ho : a % 0x1000 = 0x20) : s.regWrite p a v = s.zeroWrite a v := by
  unfold State.regWrite
  dsimp only
  rw [hc, ho, if_pos (by decide)]
  unfold State.commonWrite
  rw [ho]
  rfl

/-- Past the common layout the page decides. -/
theorem regWrite_past (ho : 0x100 ≤ a % 0x1000) : (p.hasCommon && decide (a % 0x1000 < 0x100)) = false := by
  rw [decide_eq_false (Nat.not_lt.mpr ho), Bool.and_false]

theorem regWrite_plain (ho : 0x100 ≤ a % 0x1000) (hp : p ∈ [Page.steading, .power, .clock, .qm, .mgmt, .fabric])
    (hq : p = .qm → a % 0x1000 ≠ 0x108) : s.regWrite p a v = s.plainWrite a v := by
  unfold State.regWrite
  dsimp only
  rw [regWrite_past ho, if_neg (by decide)]
  simp only [List.mem_cons, List.not_mem_nil, or_false] at hp
  obtain rfl | rfl | rfl | rfl | rfl | rfl := hp
  case inr.inr.inr.inl => exact if_neg (by simpa using hq rfl)
  all_goals rfl

theorem regWrite_collector (ho : a % 0x1000 ∈ [0x110, 0x114, 0x118, 0x12C, 0x134]) : s.regWrite .collector a v = s.zeroWrite a v := by
  unfold State.regWrite
  dsimp only
  generalize a % 0x1000 = o at ho
  simp only [List.mem_cons, List.not_mem_nil, or_false] at ho
  obtain rfl | rfl | rfl | rfl | rfl := ho <;> rfl

theorem regWrite_hang (ho : a % 0x1000 = 0x114) : s.regWrite .hang a v = s.zeroWrite a v := by
  unfold State.regWrite
  dsimp only
  rw [ho]
  rfl

theorem regWrite_refused (ho : a % 0x1000 = 0x108) : s.regWrite .qm a v = s.clearRefused v := by
  unfold State.regWrite
  dsimp only
  rw [ho]
  rfl

theorem regWrite_key (h1 : 0x180 ≤ a % 0x1000) (h2 : a % 0x1000 < 0x1C0) : s.regWrite .security a v =
    { s with sec := { s.sec with keyIn := sputD s.sec.keyIn ((a % 0x1000 - 0x180) / 4) v 0 } } := by
  unfold State.regWrite
  dsimp only
  rw [regWrite_past (Nat.le_trans (by decide) h1), if_neg (by decide)]
  exact if_pos (by simp [h1, h2])

end Rule

/-- R18: a counter that a write of 0 clears. -/
theorem zeroCleared {s : State} (hs : Store.Sorted s.regs) (a : Nat) :
    { s.zeroWrite a 0 with regs := s.regs } = s ∧ (s.zeroWrite a 0).reg a = 0 ∧ ∀ b, b ≠ a → (s.zeroWrite a 0).reg b = s.reg b := by
  rw [zeroWrite_zero]
  exact ⟨setReg_frame s a 0, reg_setReg_self hs a 0, fun b hb => reg_setReg_ne s 0 hb⟩

theorem queue_clearRefused {s : State} (hs : Store.Sorted s.queues) {v : Word32} (hv : v.getLsbD 0 = true) :
    { s.clearRefused v with queues := s.queues } = s ∧
      (s.clearRefused v).queue (s.rf R.QM_QSEL_QUEUE) = { s.queue (s.rf R.QM_QSEL_QUEUE) with refused := false } ∧
      ∀ r, r ≠ s.rf R.QM_QSEL_QUEUE → (s.clearRefused v).queue r = s.queue r := by
  unfold State.clearRefused
  dsimp only
  rw [if_pos hv]
  exact ⟨rfl, queue_setQueue_self hs _ _, fun r hr => queue_setQueue_ne s _ hr⟩

theorem RT_HI_ne (j : Nat) : A.MBL_RT_HI j ≠ A.MBL_RT_LO j := by
  unfold A.MBL_RT_HI A.MBL_RT_LO
  omega

theorem unstage_shows {s t : State} (u b : Nat) (ht : { t with regs := s.regs } = s) :
    { t.unstage u b with regs := s.regs, wrStage := s.wrStage } = s ∧ (t.unstage u b).wrStage = sdel s.wrStage (busKey u b) := by
  have hstage : t.wrStage = s.wrStage := (congrArg State.wrStage ht :)
  have h1 : { t.unstage u b with regs := s.regs, wrStage := s.wrStage } = { t with regs := s.regs, wrStage := s.wrStage } := rfl
  have h2 : (t.unstage u b).wrStage = sdel t.wrStage (busKey u b) := rfl
  refine ⟨h1.trans ?_, by rw [h2, hstage]⟩
  rw [← hstage]
  exact ht

theorem unstaged_shows {s t : State} (u b : Nat) (ht : { t with regs := s.regs } = s.unstage u b) :
    { t with regs := s.regs, wrStage := s.wrStage } = s ∧ t.wrStage = sdel s.wrStage (busKey u b) := by
  have hstage : t.wrStage = (s.unstage u b).wrStage := (congrArg State.wrStage ht :)
  refine ⟨?_, hstage⟩
  have h : { ({ t with regs := s.regs } : State) with wrStage := s.wrStage } = { s.unstage u b with wrStage := s.wrStage } := by rw [ht]
  exact h

theorem plainWrites_frame (s : State) (a b : Nat) (lo v : Word32) : { (s.plainWrite b lo).plainWrite a v with regs := s.regs } = s := by
  have h := plainWrite_frame s b lo
  generalize s.plainWrite b lo = t at h
  exact h

/-- The frame of a word that was staged and of its high word. -/
theorem unstaged_plainWrites (s : State) (u a b : Nat) (lo v : Word32) :
    { ((s.unstage u b).plainWrite b lo).plainWrite a v with regs := s.regs, wrStage := s.wrStage } = s ∧
      (((s.unstage u b).plainWrite b lo).plainWrite a v).wrStage = sdel s.wrStage (busKey u b) := by
  have h := plainWrites_frame (s.unstage u b) a b lo v
  generalize ((s.unstage u b).plainWrite b lo).plainWrite a v = t at h
  exact unstaged_shows u b h

/-- Two registers take their words, and the staged word is used up. -/
theorem plainWrite_pair_unstage {s : State} (hs : Store.Sorted s.regs) (u : Nat) {a b : Nat} (hab : a ≠ b) (lo v : Word32) :
    { ((s.plainWrite b lo).plainWrite a v).unstage u b with regs := s.regs, wrStage := s.wrStage } = s ∧
      (((s.plainWrite b lo).plainWrite a v).unstage u b).wrStage = sdel s.wrStage (busKey u b) ∧
      (((s.plainWrite b lo).plainWrite a v).unstage u b).reg a = rowsWrite (rowsAt a) v (s.reg a) ∧
      (((s.plainWrite b lo).plainWrite a v).unstage u b).reg b = rowsWrite (rowsAt b) lo (s.reg b) ∧
      ∀ x, x ≠ a → x ≠ b → (((s.plainWrite b lo).plainWrite a v).unstage u b).reg x = s.reg x := by
  obtain ⟨hframe, hstage⟩ := unstage_shows u b (plainWrites_frame s a b lo v)
  have hregs : (((s.plainWrite b lo).plainWrite a v).unstage u b).regs = ((s.plainWrite b lo).plainWrite a v).regs := rfl
  obtain ⟨ha, hb, hrest⟩ := plainWrite_pair hs hab lo v
  exact ⟨hframe, hstage, (reg_of_regs hregs a).trans ha, (reg_of_regs hregs b).trans hb, fun x h1 h2 => (reg_of_regs hregs x).trans (hrest x h1 h2)⟩

/-- The latches of a read leave the register that is read. -/
theorem readLatch_reg_self {s : State} (hs : Store.Sorted s.regs) {u a : Nat} : (s.readLatch u a).reg a = s.reg a := by
  by_cases hf : a = A.PWR_FC_MIN
  · obtain ⟨-, -, h⟩ := latchForecast_shows hs
    rw [hf, readLatch_forecast]
    exact h
  · exact reg_of_regs (readLatch_regs hf) a

/-- Settles O43: R13's latches and R15's RC fields are read as they stand before the read, an access out of reach or of another
size follows log 89, and a write goes by its page's rule. -/
theorem readsLatchAndClear : Obligations.ReadsLatchAndClear := by
  unfold Obligations.ReadsLatchAndClear
  refine ⟨fun u a s hc hl hsv hfe => ⟨?_, ?_, ?_, ?_, ?_⟩, fun a v w r hr => wbits_rowsWrite v w (rowsApart_rowsAt a) hr,
    fun u a v s hc hm => ⟨fun p hp hwf => ⟨?_, ?_, ?_, ?_, ?_⟩, ?_, ?_, ?_⟩⟩
  · intro log c hcm hodd
    have hrun : exec c s = .next (s.busRead u a.toNat log) := by
      simp only [List.mem_cons, List.not_mem_nil, or_false] at hcm
      obtain rfl | rfl := hcm <;> rfl
    rw [busRead_bytes (hodd.imp_left fun h e => h (Fin.ext e))] at hrun
    refine ⟨_, hrun, Same.parts ?_, rfl, fun ht => ?_⟩
    · exact (State.drawSpan_same (.refl 130 s) rfl a.toNat (2 ^ log.val)).trans (.of_frame (M := 130) rfl)
    · exact (congrArg State.freeCtr (drawSpan_of_untimed (s := s) (2 ^ log.val) ht) :)
  · intro c hcm h4
    have hrun : exec c s = .next (s.busRead u a.toNat 2) := by
      simp only [List.mem_cons, List.not_mem_nil, or_false] at hcm
      obtain rfl | rfl := hcm <;> rfl
    refine ⟨fun hr => ?_, fun hr => ?_⟩
    · rw [busRead_word h4 hsv hfe hr] at hrun
      obtain ⟨hrows, hother⟩ := word_reg (u := u) (a := a.toNat) hc.regs
      refine ⟨_, hrun, Same.parts (word_same s u a.toNat), fun ht => ?_, fun w hw => ?_, fun hn hf hw => ?_, ?_, fun hlow => ?_, fun r hm => ?_,
        fun hf b hb => ?_⟩
      · exact (word_frame (M := 216) ht rfl (State.readLatch_same (.refl 216 s) rfl u a.toNat)).freeCtr.resolve_left (by decide)
      · rw [word_rdata, readValue_latched hw]
      · rw [word_rdata, readLatch_plain hf hw]
        cases hp : ifPlace a.toNat with
        | none => exact congrArg (BitVec.setWidth 64) (readValue_view hn hp)
        | some ci => exact congrArg (BitVec.setWidth 64) (readValue_window hn hp)
      · rw [word_rdLatch]
        exact latched_self hl
      · rw [word_rdLatch]
        exact latched_high hlow
      · rw [hrows r hm, readLatch_reg_self hc.regs]
      · rw [hother b hb, reg_of_regs (readLatch_regs hf)]
    · rw [hrun, busRead_denied h4 hsv hfe hr]
  · intro hsv' hr
    have hrun : exec (.forecastLatch u) s = .next (s.busRead u A.PWR_FC_MIN 2) := rfl
    rw [busRead_word (by decide) hsv' hfe hr] at hrun
    obtain ⟨hfc, hleft, -⟩ := latchForecast_shows hc.regs
    obtain ⟨-, hother⟩ := word_reg (u := u) (a := A.PWR_FC_MIN) hc.regs
    rw [readLatch_forecast] at hrun hother
    refine ⟨_, hrun, Same.parts ?_, fun j hj => ?_, ?_⟩
    · have hk : Same 152 s (s.readLatch u A.PWR_FC_MIN) := by
        rw [readLatch_forecast]
        exact State.latchForecast_same (.refl 152 s) rfl
      have hf := word_frame (by decide) rfl hk
      rwa [readLatch_forecast] at hf
    · exact (view_fc hj).trans ((hother _ (PWR_FC_ne j).1).trans (hfc j hj))
    · exact (rf_congr (hother _ (by decide))).trans hleft
  · intro c hsv' hr
    have hrun : exec (.interferenceLatch u c) s = .next (s.busRead u (A.CTX_IF_SEQ c) 2) := rfl
    rw [busRead_word (by unfold A.CTX_IF_SEQ Page.contextBase; omega) hsv' hfe hr] at hrun
    have hlatch : (((((s.readLatch u (A.CTX_IF_SEQ c)).taken u (A.CTX_IF_SEQ c)).highLatched u (A.CTX_IF_SEQ c)).drawTimed
        (A.CTX_IF_SEQ c)).clearRc (A.CTX_IF_SEQ c)).ifLatch = (s.latchIf u c).ifLatch :=
      word_ifLatch.trans (by rw [readLatch_window])
    refine ⟨_, hrun, Same.parts ?_, ?_, fun k hk => ?_⟩
    · exact word_frame (isTimed_window c) rfl (State.readLatch_same (.refl 216 s) rfl u _)
    · rw [hlatch]
      exact sget_sput_self _ _ _
    · rw [hlatch]
      exact sget_sput_ne _ _ hk
  · refine ⟨_, misaligned_runs u a hsv hfe, Same.parts (State.accErr_same (.refl (partsMask [.regs, .pairs]) s) rfl _ _ _ _ _), accErr_count hc.regs _ _ _ _ _, fun hv => ?_, fun hv => ?_⟩
    · obtain ⟨h1, h2, h3, h4, h5⟩ := accNoted_shows (sorted_accRaised hc.regs) u 0 0 a.toNat true
      rw [accErr_first hv]
      exact ⟨h1, h2.trans (Nat.mod_eq_of_lt u.2), h3, h4, h5.trans (Nat.mod_eq_of_lt (Nat.lt_trans a.isLt (by decide)))⟩
    · rw [accErr_later hv]
      exact ⟨accRaised_reg (by decide) (by decide), accRaised_reg (by decide) (by decide)⟩
  · intro ho hmem hq
    obtain ⟨h1, h2⟩ := plainWrite_reg hc.regs a.toNat v
    refine ⟨_, registerWrite_runs hm hp hwf, ?_⟩
    rw [regWrite_plain v ho hmem hq]
    exact ⟨plainWrite_frame s _ v, h1, h2⟩
  · intro hz
    have he : s.regWrite p a.toNat v = s.zeroWrite a.toNat v := by
      obtain ⟨hcm, ho⟩ | ⟨rfl, ho⟩ | ⟨rfl, ho⟩ := hz
      · exact regWrite_common v hcm ho
      · exact regWrite_collector v ho
      · exact regWrite_hang v ho
    have hrun := registerWrite_runs hm hp hwf
    rw [he] at hrun
    refine ⟨?_, fun hv => hrun.trans (by rw [zeroWrite_other s _ hv])⟩
    rintro rfl
    exact ⟨_, hrun, zeroCleared hc.regs _⟩
  · rintro rfl ho hv
    refine ⟨_, registerWrite_runs hm hp hwf, ?_⟩
    rw [regWrite_refused v ho]
    exact queue_clearRefused hc.queues hv
  · rintro i rfl hsort
    exact ⟨_, registerWrite_runs hm hp hwf, rfl, rfl, fun j hj => mailWrite_reads hsort i _ v hj⟩
  · rintro rfl h1 h2
    rw [registerWrite_runs hm hp hwf, regWrite_key v h1 h2]
  · intro hlow hd hv
    exact ⟨_, lowWordWrite_runs v hm hd hv hlow, rfl, sget_sput_self _ _ _, fun k hk => sget_sput_ne _ _ hk⟩
  · rintro hhigh hf hd hv lo rfl
    have hrun := highWordWrite_runs v hm hd hv hhigh hf
    have hne : a.toNat ≠ a.toNat - 4 := by
      have := (stagesHigh_place hhigh).2.1
      omega
    rw [commit64_cases] at hrun
    by_cases hres : s.pairReserved a.toNat (s.stagedLow u (a.toNat - 4)) v = true
    · rw [if_pos hres] at hrun
      exact ⟨_, hrun, rfl, rfl, fun _ => rfl, fun h => absurd (hres.symm.trans h) (by decide)⟩
    · rw [if_neg hres] at hrun
      obtain ⟨hframe, hstage⟩ := unstaged_plainWrites s u a.toNat (a.toNat - 4) (s.stagedLow u (a.toNat - 4)) v
      exact ⟨_, hrun, hframe, hstage, fun h => absurd h hres, fun _ => plainWrite_pair (s := s.unstage u (a.toNat - 4)) hc.regs hne _ v⟩
  · intro j hj
    rw [hj] at hm
    have hrun : exec (.routeEntryCommit u j v) s = .next (((s.plainWrite (A.MBL_RT_LO j)
        (s.stagedLow u (A.MBL_RT_LO j))).plainWrite (A.MBL_RT_HI j) v).unstage u (A.MBL_RT_LO j)) := by
      show execRouteEntryCommit u j v s = _
      unfold execRouteEntryCommit
      rw [gateWrite_rw hm]
      unfold State.routeCommit
      rfl
    obtain ⟨hframe, hstage, hhi, hlo, hrest⟩ := plainWrite_pair_unstage hc.regs u (RT_HI_ne j) (s.stagedLow u (A.MBL_RT_LO j)) v
    exact ⟨_, hrun, hframe, hhi, hlo, hstage, hrest⟩

end Sys2Proof.Machine


/-! Port control, the device ID, receive allocations, forced clocks and serving configurations (R222, R224, R234, R243, R339, R481,
R482): O44. -/

namespace Sys2Proof.Machine

/-! ### Words and fields -/

theorem reg_of_word {s t : State} {a : Nat} (h : t.rf ⟨a, 0, 32⟩ = s.rf ⟨a, 0, 32⟩) : t.reg a = s.reg a := by
  have hw : ∀ w : Word32, w.extractLsb' 0 32 = w := fun w => BitVec.extractLsb'_eq_self
  have he := BitVec.eq_of_toNat_eq h
  rwa [hw, hw] at he

/-- The field of a row that takes any value holds what a plain write gives it. -/
theorem rf_plainWrite {s : State} (hs : Store.Sorted s.regs) {a : Nat} (v : Word32) {r : FieldRow} (hr : r ∈ rowsAt a) (hw : r.acc = .rw)
    (hl : r.legal.ok (wbits v r.lo r.wid) = true) : (s.plainWrite a v).rf ⟨a, r.lo, r.wid⟩ = wbits v r.lo r.wid := by
  have h := wbits_rowsWrite v (s.reg a) (rowsApart_rowsAt a) hr
  show wbits ((s.plainWrite a v).reg a) r.lo r.wid = _
  rw [(plainWrite_reg hs a v).1, h]
  unfold FieldRow.after
  rw [hw]
  exact if_pos hl

theorem Spares.plainWrite {l : Loc} {s0 s : State} (h : Spares l s0 s) {a : Nat} (hl : l.addr ≠ a) (v : Word32) : Spares l s0 (s.plainWrite a v) :=
  h.setReg hl _

/-! ### Ports that begin DETECT (R222, R474) -/

/-- A register past the clock page is no PLL's and no meter's. -/
theorem Spares.setPll_past {l : Loc} {s0 s : State} (h : Spares l s0 s) (hl : 0x59000 ≤ l.addr) {i : Nat} (hi : i < 32) (st : Nat) :
    Spares l s0 (s.setPll i st) := by
  have h1 : l.addr ≠ A.CLK_PLL i := by
    unfold A.CLK_PLL Page.clockBase
    omega
  have h2 : l.addr ≠ A.CLK_FMETER (meterOf i).1 := by
    have : (meterOf i).1 < 40 := by
      unfold meterOf
      split_ifs <;> omega
    unfold A.CLK_FMETER Page.clockBase
    omega
  unfold State.setPll
  exact ((h.wf_far (m := R.CLK_PLL_STATE i) h1 _).wf_far (m := R.CLK_PLL_GOOD i) h1 _).wf_far (m := R.CLK_FMETER_KHZ (meterOf i).1) h2 _

theorem Spares.startPll {l : Loc} {s0 s : State} (h : Spares l s0 s) (hl : 0x59000 ≤ l.addr) {i : Nat} (hi : i < 32) : Spares l s0 (s.startPll i) := by
  unfold State.startPll
  exact (h.setPll_past hl hi 1).ite h

theorem Spares.stopPll {l : Loc} {s0 s : State} (h : Spares l s0 s) (hl : 0x59000 ≤ l.addr) {i : Nat} (hi : i < 32) : Spares l s0 (s.stopPll i) := by
  unfold State.stopPll
  exact h.ite (h.setPll_past hl hi 0)

theorem Spares.enterDetect {l : Loc} {s0 s : State} (h : Spares l s0 s) (hl : 0x59000 ≤ l.addr) {p : Nat} (hp : p < 8)
    (hc : l.Clear (R.MBL_STAT_STATE p)) : Spares l s0 (s.enterDetect p) := by
  unfold State.enterDetect
  exact (h.startPll hl (by omega)).goPhase hc pDetect

theorem Spares.tryDetect {l : Loc} {s0 s : State} (h : Spares l s0 s) (hl : 0x59000 ≤ l.addr) {p : Nat} (hp : p < 8)
    (hc : l.Clear (R.MBL_STAT_STATE p)) : Spares l s0 (s.tryDetect p) := by
  unfold State.tryDetect
  exact (h.enterDetect hl hp hc).ite h

/-- A register that is no port's state stays as it is while ports begin DETECT. -/
theorem Spares.tryDetectAll {l : Loc} {s0 s : State} (h : Spares l s0 s) (hl : 0x59000 ≤ l.addr) (hlow : l.addr < 0x1000000) :
    Spares l s0 s.tryDetectAll := by
  unfold State.tryDetectAll
  exact Spares.foldl_mem _ (fun t p hp ht => ht.tryDetect hl (List.mem_range.mp hp) (.inl (ne_port_of_low hlow p _))) h

theorem Spares.portDown {l : Loc} {s0 s : State} (h : Spares l s0 s) {p : Nat} (hp : p < 8) (hl : 0x59000 ≤ l.addr) (hs : l.addr ≠ A.MBL_STAT p)
    (st : Nat) : Spares l s0 (s.portDown p st) := by
  have h1 : Spares l s0 (s.unplugged p st) := by
    have hpll := h.stopPll hl (show 10 + p < 32 by omega)
    have hregs := regs_unplugged s p st
    generalize s.unplugged p st = u at hregs ⊢
    exact hpll.then_regs hregs
  rw [portDown_eq]
  generalize s.unplugged p st = u at h1 ⊢
  exact ((h1.wf_far (m := R.MBL_STAT_STATE p) hs _).wf_far (m := R.MBL_STAT_WIDTH p) hs _).wf_far (m := R.MBL_STAT_SECURE p) hs _

theorem Spares.enterRetrain {l : Loc} {s0 s : State} (h : Spares l s0 s) {p : Nat} (hs : l.addr ≠ A.MBL_STAT p)
    (hr : l.addr ≠ A.MBL_RETRAIN_CNT p) (hn : l.NoErr (Page.portBase p)) : Spares l s0 (s.enterRetrain p) := by
  unfold State.enterRetrain
  dsimp only
  generalize ({ s.port p with
      phase := pTrain, retrain := true, encTx := false, encRx := false, keyTx := none, keyRx := none, kex := {}
      nakDue := false, waiting := false, resend := none } : PortSt) = y
  exact ((((h.setPort p y).wf_far (m := R.MBL_STAT_STATE p) hs _).wf_far (m := R.MBL_STAT_SECURE p) hs _).bump
    (m := R.MBL_RETRAIN_CNT_COUNT p) hr 1).raiseSrc hn 1

/-- The registers of a port lie past the clock page. -/
theorem port_past (p k : Nat) : 0x59000 ≤ Page.portBase p + k :=
  Nat.le_trans (Nat.le_of_ble_eq_true rfl) (Nat.le_trans (portBase_high p) (Nat.le_add_right _ k))

theorem pstate_withPort (s : State) (q : Nat) (y : PortSt) (p : Nat) : (s.setPort q y).pstate p = s.pstate p := rfl

theorem pstate_enterDetect {s : State} (hs : Store.Sorted s.regs) {p : Nat} (hp : p < 8) (h : s.pstate p ≠ pRetrain) :
    (s.enterDetect p).pstate p = pDetect := by
  have hpll := (Spares.refl (R.MBL_STAT_STATE p) s).startPll (i := 10 + p) (port_past p 0x104) (by omega)
  have hst := hpll.rf hs
  have hsort := hpll.sorted hs
  unfold State.enterDetect
  dsimp only
  generalize s.startPll (10 + p) = u at hst hsort
  have hne : ¬(u.pstate p = pRetrain ∧ pDetect ≠ pActive) := fun e => h (hst.symm.trans e.1)
  unfold State.goPhase
  rw [if_neg hne, pstate_withPort]
  exact (rf_wf_self hsort (Nat.le_of_ble_eq_true rfl) pDetect).trans rfl

/-! ### Control of a port (R222, R224) -/

/-- R222, R224: what a write of `MBL_CTRL` does once its fields are written. -/
def State.portCtrl (s : State) (p : Nat) (v : Word32) : State :=
  if v.getLsbD 0 = false ∧ (s.pstate p = pActive ∨ (s.pstate p = pFailed ∧ !s.isFenced (.port p))) then s.portDown p pDisabled
  else if v.getLsbD 3 then
    if s.pstate p = pActive then s.enterRetrain p
    else if s.pstate p = pFailed ∧ !s.portHeld p then s.enterDetect p
    else s.tryDetect p
  else s.tryDetect p

theorem writePortCtrl_eq (s : State) (p : Nat) (v : Word32) : s.writePortCtrl p v = (s.plainWrite (A.MBL_CTRL p) v).portCtrl p v := rfl

theorem ctrl_row : ∀ p : Fin 8, (⟨0x100, 0, 1, 0, 1, .rw, 0, .any⟩ : FieldRow) ∈ rowsAt (A.MBL_CTRL p) := by decide

section Control
variable {s : State} {p : Nat} {v : Word32}

theorem portCtrl_disable (h0 : v.getLsbD 0 = false) (h : s.pstate p = pActive ∨ s.pstate p = pFailed ∧ s.isFenced (.port p) = false) :
    s.portCtrl p v = s.portDown p pDisabled :=
  if_pos ⟨h0, h.imp_right fun h => ⟨h.1, by rw [h.2]; rfl⟩⟩

theorem portCtrl_enabled (h0 : v.getLsbD 0 = true) : s.portCtrl p v =
    if v.getLsbD 3 then
      if s.pstate p = pActive then s.enterRetrain p
      else if s.pstate p = pFailed ∧ !s.portHeld p then s.enterDetect p
      else s.tryDetect p
    else s.tryDetect p :=
  if_neg fun h => absurd (h0.symm.trans h.1) (by decide)

theorem portCtrl_retrain (h0 : v.getLsbD 0 = true) (h3 : v.getLsbD 3 = true) (h : s.pstate p = pActive) : s.portCtrl p v = s.enterRetrain p := by
  rw [portCtrl_enabled h0, if_pos h3, if_pos h]

theorem portCtrl_disabled (h0 : v.getLsbD 0 = true) (h : s.pstate p = pDisabled) : s.portCtrl p v = s.tryDetect p := by
  rw [portCtrl_enabled h0]
  split
  · rw [if_neg (by rw [h]; decide), if_neg (by rw [h]; exact fun e => absurd e.1 (by decide))]
  · rfl

/-- R224, R427, R436: a FAILED port. -/
theorem pstate_portCtrl_failed (hs : Store.Sorted s.regs) (hp : p < 8) (h0 : v.getLsbD 0 = true) (h3 : v.getLsbD 3 = true)
    (h : s.pstate p = pFailed) : (s.portCtrl p v).pstate p = if s.portHeld p then pFailed else pDetect := by
  rw [portCtrl_enabled h0, if_pos h3, if_neg (by rw [h]; decide)]
  by_cases hheld : s.portHeld p = true
  · have hno : ¬(s.pstate p = pFailed ∧ (!s.portHeld p) = true) := fun e => by
      rw [hheld] at e
      exact absurd e.2 (by decide)
    rw [if_neg hno, if_pos hheld]
    unfold State.tryDetect
    rw [if_neg fun e => absurd (h.symm.trans e.1) (by decide)]
    exact h
  · have hyes : s.pstate p = pFailed ∧ (!s.portHeld p) = true := ⟨h, by simpa using hheld⟩
    rw [if_pos hyes, if_neg hheld]
    exact pstate_enterDetect hs hp (by rw [h]; decide)

/-- R222: a DISABLED port whose conditions hold. -/
theorem pstate_tryDetect (hs : Store.Sorted s.regs) (hp : p < 8) (h : s.pstate p = pDisabled) (hm : s.mayDetect p = true) :
    (s.tryDetect p).pstate p = if s.portHeld p then pDisabled else pDetect := by
  unfold State.tryDetect
  by_cases hheld : s.portHeld p = true
  · have hno : ¬(s.pstate p = pDisabled ∧ s.mayDetect p = true ∧ (!s.portHeld p) = true) := fun e => by
      rw [hheld] at e
      exact absurd e.2.2 (by decide)
    rw [if_neg hno, if_pos hheld]
    exact h
  · have hyes : s.pstate p = pDisabled ∧ s.mayDetect p = true ∧ (!s.portHeld p) = true := ⟨h, hm, by simpa using hheld⟩
    rw [if_pos hyes, if_neg hheld]
    exact pstate_enterDetect hs hp (by rw [h]; decide)

/-- Fields that no change of a port's control writes. -/
theorem Spares.portCtrl {l : Loc} {s0 : State} (h : Spares l s0 s) (hp : p < 8) (hl : 0x59000 ≤ l.addr) (hs : l.addr ≠ A.MBL_STAT p)
    (hr : l.addr ≠ A.MBL_RETRAIN_CNT p) (hn : l.NoErr (Page.portBase p)) : Spares l s0 (s.portCtrl p v) := by
  have htry := h.tryDetect hl hp (.inl hs)
  unfold State.portCtrl
  exact (h.portDown hp hl hs _).ite (((h.enterRetrain hs hr hn).ite ((h.enterDetect hl hp (.inl hs)).ite htry)).ite htry)

theorem portCtrl_frame : Same 283467841544 s (s.portCtrl p v) := by
  unfold State.portCtrl
  have htry := State.tryDetect_same (.refl 283467841544 s) rfl p
  exact ite_same (State.portDown_same (.refl _ s) rfl p _) (ite_same (ite_same (State.enterRetrain_same (.refl _ s) rfl p)
    (ite_same (State.enterDetect_same (.refl _ s) rfl p) htry)) htry)

end Control

/-! ### The control word (R222) -/

section Word
variable {s : State} (hs : Store.Sorted s.regs) (p : Fin 8) (v : Word32)
include hs

theorem ctrl_en : (s.plainWrite (A.MBL_CTRL p) v).flag (R.MBL_CTRL_EN p) = v.getLsbD 0 := by
  have h := rf_plainWrite hs v (ctrl_row p) rfl rfl
  unfold State.flag
  refine (congrArg (· != 0) h).trans ?_
  have hb : (wbits v 0 1).testBit 0 = v.getLsbD 0 := by rw [testBit_wbits]; rfl
  have hlt := wbits_lt v 0 1
  show (wbits v 0 1 != 0) = v.getLsbD 0
  rw [← hb]
  generalize wbits v 0 1 = x at hlt
  interval_cases x <;> rfl

end Word

/-- The registers of a port that its control word is not. -/
theorem rf_ctrl (s : State) (p : Nat) (v : Word32) {l : Loc} (h : l.addr ≠ A.MBL_CTRL p) : (s.plainWrite (A.MBL_CTRL p) v).rf l = s.rf l :=
  rf_congr (reg_setReg_ne s _ h)

theorem portHeld_ctrl (s : State) (p : Nat) (a : Nat) (v : Word32) : (s.plainWrite a v).portHeld p = (s.flash.expelled || s.isFenced (.port p)) := rfl

theorem mayDetect_ctrl {s : State} (hs : Store.Sorted s.regs) (p : Fin 8) {v : Word32} (h0 : v.getLsbD 0 = true)
    (hv : s.rf (R.MBL_PARTNER_VALID p) = 1) (hd : s.devId ≠ noDevId)
    (ht : (List.range 4).foldl (fun n k => n + s.rf (R.MBL_RXALLOC_VC0 p k) + s.rf (R.MBL_RXALLOC_VC1 p k)) 0 ≤ 32768) :
    (s.plainWrite (A.MBL_CTRL p) v).mayDetect p = true := by
  have hen := ctrl_en hs p v
  have hval : (s.plainWrite (A.MBL_CTRL p) v).flag (R.MBL_PARTNER_VALID p) = true := by
    unfold State.flag
    rw [rf_ctrl s p v (ne_page _ (by decide)), hv]
    rfl
  have hdev : (s.plainWrite (A.MBL_CTRL p) v).devId = s.devId := rf_ctrl s p v (ne_port_of_low (by decide) p _)
  have hne : ∀ k, A.MBL_RXALLOC p k ≠ A.MBL_CTRL p := fun k => by
    unfold A.MBL_RXALLOC A.MBL_CTRL
    omega
  have h0' : ∀ k, (s.plainWrite (A.MBL_CTRL p) v).rf (R.MBL_RXALLOC_VC0 p k) = s.rf (R.MBL_RXALLOC_VC0 p k) := fun k => rf_ctrl s p v (hne k)
  have h1' : ∀ k, (s.plainWrite (A.MBL_CTRL p) v).rf (R.MBL_RXALLOC_VC1 p k) = s.rf (R.MBL_RXALLOC_VC1 p k) := fun k => rf_ctrl s p v (hne k)
  unfold State.mayDetect
  dsimp only
  rw [hen, hval, hdev, h0]
  simp only [h0', h1']
  simp [hd, ht]

/-! ### Forced clocks (R481, R483) -/

theorem stopMeters_reg (s : State) {x : Nat} (hx : ∀ i, i < 20 → x ≠ A.CLK_FMETER i) : s.stopMeters.reg x = s.reg x := by
  have hall : ∀ (l : List Nat) (t : State), (∀ i ∈ l, i < 9) → (l.foldl (fun s i => if s.clockForced (i + 1) then
      s.wf (R.CLK_FMETER_KHZ (meterOf (i + 1)).1) 0 else s) t).reg x = t.reg x := by
    intro l
    induction l with
    | nil => exact fun _ _ => rfl
    | cons i l ih =>
      intro t hl
      rw [List.foldl_cons, ih _ fun j hj => hl j (List.mem_cons_of_mem i hj)]
      have hm : (meterOf (i + 1)).1 < 20 := by
        have := hl i List.mem_cons_self
        unfold meterOf
        split_ifs <;> omega
      split
      · exact reg_wf_ne t _ (hx _ hm)
      · rfl
  exact hall _ s fun i hi => List.mem_range.mp hi

theorem admitAll_idle {s : State} (h : ∀ f : Fin 4, (s.eng f).waiting = []) : s.admitAll = s := by
  have hall : ∀ l : List Nat, (∀ f ∈ l, f < 4) → l.foldl State.nextWaiting s = s := by
    intro l
    induction l with
    | nil => exact fun _ => rfl
    | cons f l ih =>
      intro hl
      rw [List.foldl_cons, nextWaiting_idle (h ⟨f, hl f List.mem_cons_self⟩)]
      exact ih fun g hg => hl g (List.mem_cons_of_mem f hg)
  exact hall _ fun f hf => List.mem_range.mp hf

theorem clkGate_runs {s : State} {u : Fin 64} {a : BitVec 27} {v : Word32} {pg : Page} (hp : pageAt (a.toNat / 0x1000 * 0x1000) = some pg)
    (hcom : pg.hasCommon = true) (hm : s.MayWrite u (a.toNat / 0x1000 * 0x1000 + 0x28)) : exec (.clkGateWrite u a v) s = .next
      (if s.gateBreaks pg v then s.wf ⟨a.toNat / 0x1000 * 0x1000 + 0x28, 31, 1⟩ 1
        else (s.plainWrite (a.toNat / 0x1000 * 0x1000 + 0x28) v).stopMeters.admitAll) := by
  show execClkGateWrite u a v s = _
  unfold execClkGateWrite
  dsimp only
  rw [gateWrite_rw hm]
  unfold State.clkGate
  rw [hp]
  dsimp only
  rw [hcom]
  rfl

theorem and_not_or_self (w m : Word32) : w &&& ~~~m ||| m = w ||| m := by
  ext i hi
  simp only [BitVec.getElem_or, BitVec.getElem_and, BitVec.getElem_not]
  cases w[i] <;> cases m[i] <;> rfl

/-- R481: the word that shows a refusal. -/
theorem reg_refused {s : State} (hs : Store.Sorted s.regs) (a : Nat) : (s.wf ⟨a, 31, 1⟩ 1).reg a = s.reg a ||| 0x80000000 := by
  exact (reg_setReg_self hs a (insertBits (s.reg a) 31 1 1)).trans (and_not_or_self (s.reg a) 0x80000000)

/-! ### Serving configuration (R339) -/

theorem servingConfig_runs {s : State} {u c : Fin 64} {o : BitVec 12} {v : Word32} (ho : servOffset o.toNat = true)
    (hm : s.MayWrite u (Page.servingBase c + o.toNat)) : exec (.servingConfigWrite u c o v) s = .next (s.servWrite u c o.toNat v) := by
  show execServingConfigWrite u c o v s = _
  unfold execServingConfigWrite
  rw [gateWrite_rw hm, ho]
  rfl

section Serving
variable {s : State} {u c o : Nat} {v : Word32}

theorem servWrite_busy (h : s.servBusy c = true) : s.servWrite u c o v = s.wf (R.SRV_STAT_REFUSED c) 1 := by
  unfold State.servWrite
  dsimp only
  rw [if_pos h]

theorem servWrite_low (h : s.servBusy c = false) (hl : isLow (Page.servingBase c + o) = true) :
    s.servWrite u c o v = { s with wrStage := sput s.wrStage (busKey u (Page.servingBase c + o)) v } := by
  unfold State.servWrite
  dsimp only
  rw [h, if_neg (by decide), if_pos hl]

theorem servWrite_ctrl (h : s.servBusy c = false) (hl : isLow (Page.servingBase c + o) = false) (hh : isLow (Page.servingBase c + o - 4) = false)
    (ho : o = 0x100) (hv : v.getLsbD 0 = false) : s.servWrite u c o v = s.plainWrite (Page.servingBase c + o) v := by
  unfold State.servWrite
  dsimp only
  rw [h, if_neg (by decide), hl, if_neg (by decide), hh, if_neg (by decide), hv]
  rw [if_neg (by simp), if_neg (by omega)]

end Serving

/-! ### What a plain write leaves -/

section Plain
variable (s : State) (a : Nat) (v : Word32)

theorem isFenced_plainWrite (d : Dom) : (s.plainWrite a v).isFenced d = s.isFenced d := rfl

theorem ports_plainWrite : (s.plainWrite a v).ports = s.ports := rfl

theorem eng_plainWrite (f : Nat) : (s.plainWrite a v).eng f = s.eng f := rfl

end Plain

theorem wrStage_wf (l : Loc) (n : Nat) (s : State) : (s.wf l n).wrStage = s.wrStage := rfl

theorem port_portDown (s : State) (p st : Nat) : (s.portDown p st).port p = (s.unplugged p st).port p := by
  rw [portDown_eq]
  generalize s.unplugged p st = u
  exact port_of_ports ((ports_wf _ _ _).trans ((ports_wf _ _ _).trans (ports_wf _ _ _))) p

theorem secure_portDown {s : State} (hs : Store.Sorted s.regs) (p st : Nat) : (s.portDown p st).rf (R.MBL_STAT_SECURE p) = 0 := by
  rw [portDown_eq]
  exact rf_wf_self (sorted_wf (sorted_wf (sorted_unplugged hs p st) _ _) _ _) (Nat.le_of_ble_eq_true rfl) 0

theorem Same.regs_only {s t : State} (h : Same 8 s t) : { t with regs := s.regs } = s := h.frame

/-- Settles O44: each write goes by the branch of its rule that its conditions give. -/
theorem portsAndClocksAreSet : Obligations.PortsAndClocksAreSet := by
  unfold Obligations.PortsAndClocksAreSet
  refine fun u p v s hc => ⟨fun e hm he => ?_, fun hm => ?_, fun k hm => ?_, fun a pg g hp hcom hg hm => ?_, fun c e g he hm => ?_,
    fun c o g ho hg hm => ?_⟩
  · have hrun : exec e s = .next ((s.plainWrite (A.MBL_CTRL p) v).portCtrl p v) := by
      rw [← writePortCtrl_eq, ← gateWrite_rw hm fun s => s.writePortCtrl p v]
      obtain rfl | rfl := he <;> rfl
    have hctrl := (plainWrite_reg hc.regs (A.MBL_CTRL p) v).1
    have hcu : (s.plainWrite (A.MBL_CTRL p) v).Canon := (State.plainWrite_keeps (.refl s) _ v).canon hc
    have hst : (s.plainWrite (A.MBL_CTRL p) v).pstate p = s.pstate p := rf_ctrl s p v (ne_page _ (by decide))
    have hcnt : (s.plainWrite (A.MBL_CTRL p) v).rf (R.MBL_RETRAIN_CNT_COUNT p) = s.rf (R.MBL_RETRAIN_CNT_COUNT p) := rf_ctrl s p v (ne_page _ (by decide))
    have hheld := portHeld_ctrl s p (A.MBL_CTRL p) v
    have hmay := mayDetect_ctrl (v := v) hc.regs p
    have hfence := isFenced_plainWrite s (A.MBL_CTRL p) v (.port p)
    have hport := fun q => port_of_ports (ports_plainWrite s (A.MBL_CTRL p) v) q
    have hframe : Same 8 s (s.plainWrite (A.MBL_CTRL p) v) := State.plainWrite_same (.refl 8 s) rfl _ v
    generalize s.plainWrite (A.MBL_CTRL p) v = t at *
    refine ⟨_, hrun, Same.parts ((hframe.mono (N := partsMask [.regs, .pairs, .ports]) rfl).trans portCtrl_frame), ?_, fun h0 hd hv hdev ht => ?_,
      fun h0 ha => ?_, fun h0 hf hnf => ?_, fun h0 h3 ha => ?_, fun h0 h3 hf => ?_⟩
    · refine (reg_of_word ?_).trans hctrl
      exact ((Spares.refl ⟨A.MBL_CTRL p, 0, 32⟩ t).portCtrl p.2 (port_past p _) (ne_page _ (by decide)) (ne_page _ (by decide))
        (Loc.noErr_of_page (.inr (Nat.add_le_add_left (by decide) _)))).rf hcu.regs
    · rw [portCtrl_disabled h0 (hst.trans hd), pstate_tryDetect hcu.regs p.2 (hst.trans hd) (hmay h0 hv hdev ht), hheld]
    · rw [portCtrl_disable h0 (.inl (hst.trans ha))]
      obtain ⟨hreplay, hrx⟩ := port_unplugged hcu.ports p pDisabled
      have hdown : (t.portDown p pDisabled).port p = (t.unplugged p pDisabled).port p := port_portDown t p pDisabled
      rw [hdown, ← hport]
      exact ⟨pstate_portDown hcu.regs p (by decide), secure_portDown hcu.regs p pDisabled, hrx, hreplay⟩
    · rw [portCtrl_disable h0 (.inr ⟨hst.trans hf, hfence.trans hnf⟩)]
      exact pstate_portDown hcu.regs p (by decide)
    · rw [portCtrl_retrain h0 h3 (hst.trans ha)]
      have hstate := (enterRetrain_state hcu p).1
      have hphase := port_enterRetrain hcu.ports p
      refine ⟨hstate, ?_, ?_, (enterRetrain_shown hcu.regs p).2.trans (by rw [hcnt])⟩
      · unfold State.pphase
        rw [hstate, hphase]
        rfl
      · rw [hphase, ← hport]
    · rw [pstate_portCtrl_failed hcu.regs p.2 h0 h3 (hst.trans hf), hheld]
  · have hrun : exec (.devidWrite u v) s = .next (s.setDevId v) := by
      show execDevidWrite u v s = _
      unfold execDevidWrite
      rw [gateWrite_rw hm]
    refine ⟨_, hrun, Same.parts (State.setDevId_same (.refl (partsMask [.regs, .ports]) s) rfl v), fun hup => ?_, fun hdown => ?_⟩
    · obtain ⟨r, hr, hup⟩ := hup
      unfold State.setDevId
      rw [if_pos (List.any_eq_true.mpr ⟨r, List.mem_range.mpr hr, hup⟩)]
      exact ⟨rf_wf_self hc.regs (Nat.le_of_ble_eq_true rfl) 1, reg_wf_ne s _ (by decide), ports_wf s _ _⟩
    · have hno : ¬(List.range 8).any s.portUp = true := fun h => by
        obtain ⟨r, hr, hup⟩ := List.any_eq_true.mp h
        exact absurd ((hdown r (List.mem_range.mp hr)).symm.trans hup) (by decide)
      unfold State.setDevId
      rw [if_neg hno]
      have hd := (plainWrite_reg hc.regs A.MBL_DEVID v).1
      have hcu : Store.Sorted (s.plainWrite A.MBL_DEVID v).regs := sorted_setReg hc.regs _ _
      generalize s.plainWrite A.MBL_DEVID v = t at hd hcu ⊢
      exact (reg_of_word (((Spares.refl ⟨A.MBL_DEVID, 0, 32⟩ t).tryDetectAll (by decide) (by decide)).rf hcu)).trans hd
  · have hrun : exec (.rxallocWrite u p k v) s = .next (s.setRxalloc p k v) := by
      show execRxallocWrite u p k v s = _
      unfold execRxallocWrite
      rw [gateWrite_rw hm]
    have hne : A.MBL_RXALLOC p k ≠ A.MBL_STAT p := by
      unfold A.MBL_RXALLOC A.MBL_STAT
      omega
    refine ⟨_, hrun, Same.parts (State.setRxalloc_same (.refl (partsMask [.regs, .ports]) s) rfl _ _ v), fun hup => ?_, fun hdown => ?_⟩
    · unfold State.setRxalloc
      rw [if_pos hup]
      exact ⟨rf_wf_self hc.regs (Nat.le_of_ble_eq_true rfl) 1, reg_wf_ne s _ hne, ports_wf s _ _⟩
    · unfold State.setRxalloc
      rw [hdown, if_neg (by decide)]
      have hd := (plainWrite_reg hc.regs (A.MBL_RXALLOC p k) v).1
      have hcu : Store.Sorted (s.plainWrite (A.MBL_RXALLOC p k) v).regs := sorted_setReg hc.regs _ _
      generalize s.plainWrite (A.MBL_RXALLOC p k) v = t at hd hcu ⊢
      have hl : 0x59000 ≤ A.MBL_RXALLOC p k := Nat.le_trans (port_past p 0x120) (Nat.le_add_right _ _)
      exact (reg_of_word (((Spares.refl ⟨A.MBL_RXALLOC p k, 0, 32⟩ t).tryDetect hl p.2 (.inl hne)).rf hcu)).trans hd
  · subst hg
    have hrun := clkGate_runs (v := v) hp hcom hm
    refine ⟨_, hrun, fun hb => ?_, fun hb => ?_⟩
    · rw [if_pos hb]
      exact ⟨wf_frame s _ _, fun x hx => reg_wf_ne s _ hx, reg_refused hc.regs _⟩
    · rw [hb, if_neg (by decide)]
      refine ⟨rfl, fun hw => ?_⟩
      have hidle : ∀ f : Fin 4, ((s.plainWrite (a.toNat / 0x1000 * 0x1000 + 0x28) v).stopMeters.eng f).waiting = [] := fun f => by
        have he : (s.plainWrite (a.toNat / 0x1000 * 0x1000 + 0x28) v).stopMeters.engines = s.engines :=
          ((State.stopMeters_same (State.plainWrite_same (.refl 8 s) rfl _ v) rfl).engines.resolve_left (by decide))
        rw [eng_of_engines he]
        exact hw f
      obtain ⟨hself, hrest⟩ := plainWrite_reg hc.regs (a.toNat / 0x1000 * 0x1000 + 0x28) v
      have hmeter : ∀ i, i < 20 → a.toNat / 0x1000 * 0x1000 + 0x28 ≠ A.CLK_FMETER i := fun i hi => by
        unfold A.CLK_FMETER Page.clockBase
        omega
      rw [admitAll_idle hidle]
      exact ⟨(State.stopMeters_same (State.plainWrite_same (.refl 8 s) rfl _ v) rfl).regs_only, fun x hx hxm => (stopMeters_reg _ hxm).trans (hrest x hx), (stopMeters_reg _ hmeter).trans hself⟩
  · simp only [List.mem_cons, List.not_mem_nil, or_false, Prod.mk.injEq] at he
    obtain ⟨rfl, rfl⟩ | ⟨rfl, rfl⟩ := he
    · have hrun : exec (.clkOutWrite u v) s = .next (s.clkOut v) := by
        show execClkOutWrite u v s = _
        unfold execClkOutWrite
        rw [gateWrite_rw hm]
      obtain ⟨hself, hrest⟩ := plainWrite_reg hc.regs A.CLK_OUT v
      have hmeter : ∀ i, i < 20 → A.CLK_OUT ≠ A.CLK_FMETER i := fun i hi => by
        unfold A.CLK_FMETER A.CLK_OUT
        omega
      exact ⟨_, hrun, (State.stopMeters_same (State.plainWrite_same (.refl 8 s) rfl _ v) rfl).regs_only, fun x hx hxm => (stopMeters_reg _ hxm).trans (hrest x hx),
        (stopMeters_reg _ hmeter).trans hself⟩
    · have hrun : exec (.ifCtrlWrite u c v) s = .next (s.plainWrite (A.CTX_IF_CTRL c) v) := by
        show execIfCtrlWrite u c v s = _
        unfold execIfCtrlWrite
        rw [gateWrite_rw hm]
      obtain ⟨hself, hrest⟩ := plainWrite_reg hc.regs (A.CTX_IF_CTRL c) v
      exact ⟨_, hrun, plainWrite_frame s _ v, fun x hx _ => hrest x hx, hself⟩
  · subst hg
    have hrun := servingConfig_runs (v := v) ho hm
    refine ⟨_, hrun, Same.parts (State.servWrite_same (.refl (partsMask [.regs, .wrStage]) s) rfl _ _ _ _), fun hb => ?_, fun hb hl => ?_, fun hb hl hh h0 hv => ?_⟩
    · rw [servWrite_busy hb]
      exact ⟨rf_wf_self hc.regs (Nat.le_of_ble_eq_true rfl) 1, wrStage_wf _ _ s, fun x hx => reg_wf_ne s _ hx⟩
    · rw [servWrite_low hb hl]
      exact ⟨rfl, sget_sput_self _ _ _⟩
    · rw [servWrite_ctrl hb hl hh h0 hv]
      exact plainWrite_reg hc.regs _ v

end Sys2Proof.Machine


/-! Granules, sheaf shares and the layout of device memory (R157, R158, R161, R168, R170, R175): the first half of O45. -/

namespace Sys2Proof.Machine

/-! ### The field memory page -/

theorem mem_rowsAt {a o : Nat} {p : Page} (hp : pageAt a = some p) (ho : a % 0x1000 = o) {r : FieldRow} (hr : r ∈ p.rows) (hc : r.covers o = true) :
    r ∈ rowsAt a := by
  subst ho
  unfold rowsAt
  rw [hp]
  exact List.mem_filter.mpr ⟨hr, hc⟩

theorem pageAt_fieldmem {f : Nat} (hf : f < 4) {o : Nat} (ho : o < 0x1000) : pageAt (Page.fieldmemBase f + o) = some (.fieldmem f) := by
  have hi : (Page.fieldmemBase f + o) / 0x1000 = 0x1000 * (f + 1) + 0x28 := by
    unfold Page.fieldmemBase Page.fieldBase
    omega
  unfold pageAt
  dsimp only
  rw [hi, if_neg (by omega), if_pos ⟨by omega, by omega⟩]
  have hq : (0x1000 * (f + 1) + 0x28) / 0x1000 - 1 = f := by omega
  have hr : (0x1000 * (f + 1) + 0x28) % 0x1000 = 0x28 := by omega
  rw [hq, hr]
  rfl

theorem mem_rows_fieldmem {f : Nat} {r : FieldRow} (h : r ∈ rows_fieldmem) : r ∈ (Page.fieldmem f).rows := List.mem_append_right rows_common h

theorem covers_gran {r : FieldRow} (ho : r.off = 0x400) (hst : r.stride = 4) (hn : r.count = 480) {g : Nat} (hg : g < 480) :
    r.covers (0x400 + 4 * g) = true := by
  unfold FieldRow.covers
  rw [ho, hst, hn, if_neg (by decide), Nat.add_sub_cancel_left, Nat.mul_mod_right, Nat.mul_div_cancel_left g (by decide)]
  simp [hg]

theorem FLD_GRAN_mod (f : Nat) {g : Nat} (hg : g < 480) : A.FLD_GRAN f g % 0x1000 = 0x400 + 4 * g := by
  unfold A.FLD_GRAN Page.fieldmemBase Page.fieldBase
  omega

theorem pageAt_gran {f : Nat} (hf : f < 4) {g : Nat} (hg : g < 480) : pageAt (A.FLD_GRAN f g) = some (.fieldmem f) := by
  have he : A.FLD_GRAN f g = Page.fieldmemBase f + (0x400 + 4 * g) := Nat.add_assoc _ _ _
  rw [he]
  exact pageAt_fieldmem hf (by omega)

theorem rowsAt_gran {f : Nat} (hf : f < 4) {g : Nat} (hg : g < 480) {r : FieldRow} (hr : r ∈ rows_fieldmem) (ho : r.off = 0x400) (hst : r.stride = 4)
    (hn : r.count = 480) : r ∈ rowsAt (A.FLD_GRAN f g) :=
  mem_rowsAt (pageAt_gran hf hg) (FLD_GRAN_mod f hg) (mem_rows_fieldmem hr) (covers_gran ho hst hn hg)

/-- Bit `i` of a written word. -/
theorem bit_wbits (v : Word32) (i : Nat) : (wbits v i 1 != 0) = v.getLsbD i := by
  have h := testBit_wbits v i 1 0
  have hlt := wbits_lt v i 1
  rw [Nat.add_zero] at h
  have hv : v.getLsbD i = (wbits v i 1).testBit 0 := by rw [h]; rfl
  rw [hv]
  generalize wbits v i 1 = x at hlt
  interval_cases x <;> rfl

/-- R157: the owner that a write of `FLD_GRANg` names. -/
def newOwner (v : Word32) : Option Nat := if v.getLsbD 8 then some (wbits v 0 6) else none

theorem owner_plainWrite {s : State} (hs : Store.Sorted s.regs) {f g : Nat} (hf : f < 4) (hg : g < 480) (v : Word32) :
    (s.plainWrite (A.FLD_GRAN f g) v).owner? f g = newOwner v := by
  have hown : (s.plainWrite (A.FLD_GRAN f g) v).flag (R.FLD_GRAN_OWNED f g) = v.getLsbD 8 := by
    rw [← bit_wbits]
    exact congrArg (· != 0) (rf_plainWrite hs v (rowsAt_gran hf hg (r := ⟨0x400, 4, 480, 8, 1, .rw, 0, .any⟩) (by decide) rfl rfl rfl) rfl rfl)
  have hctx : (s.plainWrite (A.FLD_GRAN f g) v).rf (R.FLD_GRAN_CTX f g) = wbits v 0 6 :=
    rf_plainWrite hs v (rowsAt_gran hf hg (r := ⟨0x400, 4, 480, 0, 6, .rw, 0, .any⟩) (by decide) rfl rfl rfl) rfl rfl
  unfold State.owner? newOwner
  rw [hown, hctx]

/-- The owner of a granule is read from its own register. -/
theorem owner_spares {s t : State} (hs : Store.Sorted s.regs) {f g : Nat} (h1 : Spares (R.FLD_GRAN_OWNED f g) s t) (h2 : Spares (R.FLD_GRAN_CTX f g) s t) :
    t.owner? f g = s.owner? f g := by
  unfold State.owner? State.flag
  rw [h1.rf hs, h2.rf hs]

/-! ### Refusals (R157, R175) -/

theorem memRefused_frame (s : State) (f i : Nat) : Same 8 s (s.memRefused f i) := State.memRefused_same (.refl 8 s) rfl f i

theorem Spares.memRefused {l : Loc} {s0 s : State} (h : Spares l s0 s) {f : Nat} (hl : l.addr ≠ A.FLD_MEM_STAT f) (i : Nat) :
    Spares l s0 (s.memRefused f i) := (h.wf_far (m := R.FLD_MEM_STAT_REFUSED f) hl _).wf_far (m := R.FLD_MEM_STAT_INDEX f) hl _

theorem memRefused_shows {s : State} (hs : Store.Sorted s.regs) (f : Nat) {i : Nat} (hi : i < 1024) :
    (s.memRefused f i).rf (R.FLD_MEM_STAT_REFUSED f) = 1 ∧ (s.memRefused f i).rf (R.FLD_MEM_STAT_INDEX f) = i := by
  have h1 := sorted_wf hs (R.FLD_MEM_STAT_REFUSED f) 1
  exact ⟨(rf_wf_bits h1 _ (Nat.le_of_ble_eq_true rfl) (.inl (Nat.le_of_ble_eq_true rfl))).trans (rf_wf_self hs (Nat.le_of_ble_eq_true rfl) 1),
    (rf_wf_self h1 (Nat.le_of_ble_eq_true rfl) i).trans (Nat.mod_eq_of_lt hi)⟩

theorem stat_ne_gran (f g : Nat) : A.FLD_GRAN f g ≠ A.FLD_MEM_STAT f := by
  unfold A.FLD_GRAN A.FLD_MEM_STAT
  omega

theorem stat_ne_sheaf (f c : Nat) : A.FLD_SHEAF f c ≠ A.FLD_MEM_STAT f := by
  unfold A.FLD_SHEAF A.FLD_MEM_STAT
  omega

/-! ### Assigning granules (R157, R158) -/

/-- R157: a write that may not assign a granule. -/
def State.granRefuses (s : State) (f g : Nat) (new : Option Nat) : Bool :=
  ((s.owner? f g).toList ++ new.toList).any (s.granFixed f) || ((s.owner? f g).isSome && s.granHeld f g)

/-- R158: the granule's contents go. -/
def State.granCleared (s : State) (f g : Nat) : State :=
  { (s.clearGranule f g).wf (R.FLD_GRAN_CLEARING f g) 1 with clearing := s.clearing ++ [granUnit f g] }

theorem granWrite_eq {s : State} {f g : Nat} {v : Word32} (h : s.owner? f g ≠ newOwner v) : s.granWrite f g v =
    if s.granRefuses f g (newOwner v) then s.memRefused f (0x100 + g)
    else if (newOwner v).isSome then (s.plainWrite (A.FLD_GRAN f g) v).granCleared f g else s.plainWrite (A.FLD_GRAN f g) v := by
  unfold State.granWrite
  exact if_neg h

theorem granRefuses_eq_false {s : State} {f g : Nat} {new : Option Nat} (h1 : ∀ c, s.owner? f g = some c ∨ new = some c → s.granFixed f c = false)
    (h2 : s.owner? f g ≠ none → s.granHeld f g = false) : s.granRefuses f g new = false := by
  unfold State.granRefuses
  rw [Bool.or_eq_false_iff]
  refine ⟨List.any_eq_false.mpr fun c hc => ?_, ?_⟩
  · rw [List.mem_append, Option.mem_toList, Option.mem_toList] at hc
    rw [h1 c hc]
    decide
  · cases ho : s.owner? f g with
    | none => rfl
    | some c => exact h2 (by rw [ho]; exact Option.some_ne_none c)

theorem granRefuses_eq_true {s : State} {f g : Nat} {new : Option Nat} (h : (∃ c, (s.owner? f g = some c ∨ new = some c) ∧ s.granFixed f c = true) ∨
    (s.owner? f g ≠ none ∧ s.granHeld f g = true)) : s.granRefuses f g new = true := by
  unfold State.granRefuses
  rw [Bool.or_eq_true]
  obtain ⟨c, hc, hfix⟩ | ⟨ho, hh⟩ := h
  · refine .inl (List.any_eq_true.mpr ⟨c, ?_, hfix⟩)
    rwa [List.mem_append, Option.mem_toList, Option.mem_toList]
  · exact .inr (by rw [hh, Option.isSome_iff_ne_none.mpr ho]; rfl)

theorem clearGranule_hbm (s : State) (f g : Nat) : (s.clearGranule f g).hbm = s.hbm.clearUnits granSize (granUnit f g) (granUnit f g + 1) := by
  have h : (s.bump64 (R.HBM_WR_LO_COUNT f (g % 5)) (R.HBM_WR_HI_COUNT f (g % 5)) (2 ^ 24)).hbm = s.hbm :=
    (State.bump64_same (.refl 8 s) rfl _ _ _).hbm.resolve_left (by decide)
  unfold State.clearGranule
  dsimp only
  rw [h]

/-- Byte `x` lies in unit `u`, or on one side of it. -/
theorem unit_cases (u x : Nat) : (x / granSize = u ∧ u * granSize ≤ x ∧ x < (u + 1) * granSize) ∨
    (x / granSize ≠ u ∧ (x < u * granSize ∨ (u + 1) * granSize ≤ x)) := by
  have hpos : 0 < granSize := by decide
  by_cases h : x / granSize = u
  · refine .inl ⟨h, ?_, ?_⟩
    · rw [← h]
      exact Nat.div_mul_le_self x granSize
    · rw [← h]
      exact Nat.lt_mul_of_div_lt (Nat.lt_succ_self _) hpos
  · refine .inr ⟨h, ?_⟩
    obtain hlt | hgt := Nat.lt_or_gt_of_ne h
    · exact .inl ((Nat.div_lt_iff_lt_mul hpos).mp hlt)
    · exact .inr ((Nat.le_div_iff_mul_le hpos).mp hgt)

/-- A unit that is cleared reads 0. -/
theorem read_cleared (m : Memory) (u x : Nat) : (m.clearUnits granSize u (u + 1)).read granSize x = if x / granSize = u then 0 else m.read granSize x := by
  have hpos : 0 < granSize := by decide
  obtain ⟨hx, h1, h2⟩ | ⟨hx, hout⟩ := unit_cases u x
  · rw [if_pos hx]
    exact Memory.read_clearUnits_in m hpos h1 h2
  · rw [if_neg hx]
    exact Memory.read_clearUnits_out m hpos hout

theorem hbm_wf (s : State) (l : Loc) (v : Nat) : (s.wf l v).hbm = s.hbm := rfl

theorem eng_wf (s : State) (l : Loc) (v f : Nat) : (s.wf l v).eng f = s.eng f := rfl

theorem eng_clearing (s : State) (z : List Nat) (f : Nat) : ({ s with clearing := z } : State).eng f = s.eng f := rfl

theorem sorted_clearing {s : State} (h : Store.Sorted s.regs) (z : List Nat) : Store.Sorted ({ s with clearing := z } : State).regs := h

/-- What a write of a register leaves of a state with other granules being cleared. -/
theorem clearing_wf_frame (s : State) (z : List Nat) (l : Loc) (v : Nat) :
    { State.wf { s with clearing := z } l v with regs := s.regs, clearing := s.clearing } = s := rfl

/-- The granules that are being cleared are told from no register. -/
theorem clearing_frame (u : State) (z : List Nat) : Same 131072 u { u with clearing := z } := .of_frame (M := 131072) rfl

theorem clearing_rf (u : State) (z : List Nat) (l : Loc) : ({ u with clearing := z } : State).rf l = u.rf l := rfl

theorem clearing_owner (u : State) (z : List Nat) (f g : Nat) : ({ u with clearing := z } : State).owner? f g = u.owner? f g := rfl

theorem Spares.clearGranule {l : Loc} {s0 s : State} (h : Spares l s0 s) {f g : Nat} (h1 : l.addr ≠ A.HBM_WR_LO f (g % 5))
    (h2 : l.addr ≠ A.HBM_WR_HI f (g % 5)) : Spares l s0 (s.clearGranule f g) := by
  have hb := h.bump64 (m := R.HBM_WR_LO_COUNT f (g % 5)) (k := R.HBM_WR_HI_COUNT f (g % 5)) h1 h2 (2 ^ 24)
  unfold State.clearGranule
  dsimp only
  generalize s.bump64 _ _ _ = t at hb
  exact hb.then_regs rfl

/-- The registers of granules are not the counters of a stack. -/
theorem gran_ne_counter (f : Nat) {g : Nat} (hg : g < 480) : A.FLD_GRAN f g ≠ A.HBM_WR_LO f (g % 5) ∧ A.FLD_GRAN f g ≠ A.HBM_WR_HI f (g % 5) := by
  unfold A.FLD_GRAN Page.fieldmemBase A.HBM_WR_LO A.HBM_WR_HI Page.hbmBase
  omega

theorem granCleared_shows {s : State} (hs : Store.Sorted s.regs) {f g : Nat} (hg : g < 480) :
    Same 229384 s (s.granCleared f g) ∧ (s.granCleared f g).owner? f g = s.owner? f g ∧
      (s.granCleared f g).rf (R.FLD_GRAN_CLEARING f g) = 1 ∧ (s.granCleared f g).clearing = s.clearing ++ [granUnit f g] ∧
      ∀ x, (s.granCleared f g).hbm.read granSize x = if x / granSize = granUnit f g then 0 else s.hbm.read granSize x := by
  have hsame := State.clearGranule_same (.refl 98312 s) rfl f g
  have hspare : ∀ l : Loc, l.addr = A.FLD_GRAN f g → Spares l s (s.clearGranule f g) := fun l hl => by
    obtain ⟨h1, h2⟩ := gran_ne_counter f hg
    exact (Spares.refl l s).clearGranule (hl ▸ h1) (hl ▸ h2)
  have hhbm := clearGranule_hbm s f g
  unfold State.granCleared
  generalize s.clearGranule f g = t at hsame hspare hhbm
  have ht := (hspare (R.FLD_GRAN_OWNED f g) rfl).sorted hs
  have hw : ∀ l : Loc, l.addr = A.FLD_GRAN f g → l.Clear (R.FLD_GRAN_CLEARING f g) → Spares l s (t.wf (R.FLD_GRAN_CLEARING f g) 1) := fun l hl hc =>
    (hspare l hl).wf (Nat.le_of_ble_eq_true rfl) hc 1
  have hself : (t.wf (R.FLD_GRAN_CLEARING f g) 1).rf (R.FLD_GRAN_CLEARING f g) = 1 := rf_wf_self ht (Nat.le_of_ble_eq_true rfl) 1
  have ho := owner_spares hs (hw (R.FLD_GRAN_OWNED f g) rfl (Loc.clear_above rfl)) (hw (R.FLD_GRAN_CTX f g) rfl (Loc.clear_above rfl))
  have hframe : Same 98312 s (t.wf (R.FLD_GRAN_CLEARING f g) 1) := State.wf_same hsame rfl _ 1
  have hh : (t.wf (R.FLD_GRAN_CLEARING f g) 1).hbm = s.hbm.clearUnits granSize (granUnit f g) (granUnit f g + 1) := (hbm_wf t _ 1).trans hhbm
  generalize t.wf (R.FLD_GRAN_CLEARING f g) 1 = u at hself ho hframe hh
  refine ⟨(hframe.mono (N := 229384) rfl).trans ((clearing_frame u _).mono (N := 229384) rfl), (clearing_owner _ _ _ _).trans ho, (clearing_rf _ _ _).trans hself, rfl,
    fun x => ?_⟩
  have hu : ({ u with clearing := s.clearing ++ [granUnit f g] } : State).hbm = u.hbm := rfl
  rw [hu, hh]
  exact read_cleared s.hbm _ x

/-! ### The end of a clearing (R158) -/

section Done
variable {s : State} {f : Fin 4} {m : Fin 5}

theorem clearDone_asleep (h : s.stackAsleep f m = true) : exec (.granuleClearDone f m) s = .next s := by
  show execGranuleClearDone f m s = _
  unfold execGranuleClearDone
  have hn : s.clearing.find? (fun u => u / 512 == f.val && u % 512 % 5 == m.val && !s.stackAsleep f m) = none := by
    refine List.find?_eq_none.mpr fun x _ => ?_
    rw [h]
    simp
  rw [hn]

/-- R158: a clearing of a granule ends. -/
def State.cleared (s : State) (f x : Nat) : State :=
  (State.wf { s with clearing := s.clearing.erase x } (R.FLD_GRAN_CLEARING f (x % 512)) 0).admitAll

theorem clearDone_runs (h : s.stackAsleep f m = false) {x : Nat} (hx : s.clearing.find? (fun y => y / 512 == f.val && y % 512 % 5 == m.val) = some x) :
    exec (.granuleClearDone f m) s = .next (if (s.clearing.erase x).contains x then { s with clearing := s.clearing.erase x } else s.cleared f x) := by
  show execGranuleClearDone f m s = _
  unfold execGranuleClearDone
  have hn : s.clearing.find? (fun u => u / 512 == f.val && u % 512 % 5 == m.val && !s.stackAsleep f m) = some x := by
    rw [← hx, h]
    exact find?_congr_mem fun y _ => by simp
  rw [hn]
  rfl

theorem clearing_cleared (x : Nat) : (s.cleared f x).clearing = s.clearing.erase x := by
  unfold State.cleared
  exact (State.admitAll_same (.refl 4204304376842 _) rfl).clearing.resolve_left (by decide)

theorem cleared_idle (hs : Store.Sorted s.regs) (h : ∀ k : Fin 4, (s.eng k).waiting = []) (x : Nat) :
    { s.cleared f x with regs := s.regs, clearing := s.clearing } = s ∧ (s.cleared f x).rf (R.FLD_GRAN_CLEARING f (x % 512)) = 0 := by
  have he : s.cleared f x = State.wf { s with clearing := s.clearing.erase x } (R.FLD_GRAN_CLEARING f (x % 512)) 0 :=
    admitAll_idle fun k => by rw [eng_wf, eng_clearing, h]
  rw [he]
  exact ⟨clearing_wf_frame s _ _ 0, rf_wf_self (sorted_clearing hs _) (Nat.le_of_ble_eq_true rfl) 0⟩

end Done

/-! ### Sheaf shares (R170) -/

/-- R170: a share that is refused. -/
def State.shareRefuses (s : State) (f c b n : Nat) : Bool :=
  s.active c || (List.range 64).any fun d => d != c && unitsMeet b n (s.rf (R.FLD_SHEAF_BASE f d)) (s.rf (R.FLD_SHEAF_SIZE f d))

theorem shareWrite_eq {s : State} {f c : Nat} {v : Word32} (h : wbits v 0 10 + wbits v 16 11 ≤ 1024) : s.shareWrite f c v =
    if s.shareRefuses f c (wbits v 0 10) (wbits v 16 11) then s.memRefused f (0x80 + c) else s.plainWrite (A.FLD_SHEAF f c) v := by
  unfold State.shareWrite
  exact if_neg (Nat.not_lt.mpr h)

theorem shareRefuses_false {s : State} {f c b n : Nat} (ha : s.active c = false) (hd : ∀ d, d < 64 → d ≠ c →
    unitsMeet b n (s.rf (R.FLD_SHEAF_BASE f d)) (s.rf (R.FLD_SHEAF_SIZE f d)) = false) : s.shareRefuses f c b n = false := by
  unfold State.shareRefuses
  rw [ha, Bool.false_or]
  refine List.any_eq_false.mpr fun d hm => ?_
  rw [Bool.and_eq_true, bne_iff_ne]
  exact fun h => absurd ((hd d (List.mem_range.mp hm) h.1).symm.trans h.2) (by decide)

theorem shareRefuses_true {s : State} {f c b n : Nat} (h : s.active c = true ∨ (∃ d, d < 64 ∧ d ≠ c ∧
    unitsMeet b n (s.rf (R.FLD_SHEAF_BASE f d)) (s.rf (R.FLD_SHEAF_SIZE f d)) = true)) : s.shareRefuses f c b n = true := by
  unfold State.shareRefuses
  rw [Bool.or_eq_true]
  refine h.imp_right fun ⟨d, hlt, hne, hm⟩ => List.any_eq_true.mpr ⟨d, List.mem_range.mpr hlt, ?_⟩
  rw [Bool.and_eq_true, bne_iff_ne]
  exact ⟨hne, hm⟩

/-! ### Memory that becomes undefined (R161, R168) -/

theorem read_undefined (m : Memory) (u i x : Nat) :
    (m.undefUnits granSize u (u + 1) i).read granSize x = if x / granSize = u then Config.freeByte i x else m.read granSize x := by
  have hbase : (m.undefUnits granSize u (u + 1) i).base = sput (sclear m.base u (u + 1)) u i := by
    unfold Memory.undefUnits
    dsimp only
    rw [Nat.add_sub_cancel_left]
    rfl
  have hcells : (m.undefUnits granSize u (u + 1) i).cells = sclear m.cells (u * granSize) ((u + 1) * granSize) := rfl
  unfold Memory.read Memory.unlisted Memory.undef
  rw [hbase, hcells]
  obtain ⟨hx, h1, h2⟩ | ⟨hx, hout⟩ := unit_cases u x
  · rw [if_pos hx, hx, sget_sclear_in m.cells h1 h2, sget_sput_self]
  · have hne : x / granSize < u ∨ u + 1 ≤ x / granSize := by omega
    rw [if_neg hx, sget_sclear_out m.cells hout, sget_sput_ne _ _ hx, sget_sclear_out m.base hne]

theorem undefGranules_regs (s : State) (f : Nat) (gs : List Nat) : (s.undefGranules f gs).regs = s.regs :=
  (State.undefGranules_same (.refl 98306 s) rfl f gs).regs.resolve_left (by decide)

theorem undefGranules_read (s : State) (f : Nat) (gs : List Nat) (x : Nat) :
    ((∃ g ∈ gs, x / granSize = granUnit f g) → ∃ i, (s.undefGranules f gs).hbm.read granSize x = Config.freeByte i x) ∧
    ((∀ g ∈ gs, x / granSize ≠ granUnit f g) → (s.undefGranules f gs).hbm.read granSize x = s.hbm.read granSize x) := by
  unfold State.undefGranules
  dsimp only
  generalize s.fresh.1 = i
  have hbm0 : s.fresh.2.hbm = s.hbm := rfl
  rw [← hbm0]
  generalize s.fresh.2 = t
  induction gs generalizing t with
  | nil => exact ⟨nofun, fun _ => rfl⟩
  | cons g gs ih =>
    rw [List.foldl_cons]
    obtain ⟨hin, hout⟩ := ih { t with
      hbm := t.hbm.undefUnits granSize (granUnit f g) (granUnit f g + 1) i
      hbmBad := sclear t.hbmBad (granUnit f g * 2 ^ 24) ((granUnit f g + 1) * 2 ^ 24) }
    have hstep := read_undefined t.hbm (granUnit f g) i x
    refine ⟨fun h => ?_, fun h => ?_⟩
    · by_cases hgs : ∃ y ∈ gs, x / granSize = granUnit f y
      · exact hin hgs
      · obtain ⟨y, hy, hxy⟩ := h
        obtain rfl := (List.mem_cons.mp hy).resolve_right fun hm => hgs ⟨y, hm, hxy⟩
        rw [if_pos hxy] at hstep
        exact ⟨i, (hout fun z hz hxz => hgs ⟨z, hz, hxz⟩).trans hstep⟩
    · rw [if_neg (h g List.mem_cons_self)] at hstep
      exact (hout fun z hz => h z (List.mem_cons_of_mem g hz)).trans hstep

/-- R161, R168: the memory of field `f` becomes undefined. -/
def memChanges (old new : Word32) (f : Nat) : Bool := old.getLsbD 0 != new.getLsbD 0 || old.getLsbD (4 + f) != new.getLsbD (4 + f)

theorem granulesOf_congr {s t : State} (h : t.regs = s.regs) (c f : Nat) : t.granulesOf c f = s.granulesOf c f := by
  have ho : ∀ g, t.owns c f g = s.owns c f g := fun g => by
    unfold State.owns
    rw [flag_of_regs h, rf_of_regs h]
  unfold State.granulesOf
  rw [funext ho]

theorem memChanged_read (c : Nat) (old new : Word32) (x : Nat) : ∀ (l : List Nat) (s : State),
    ((∃ f ∈ l, memChanges old new f = true ∧ ∃ g ∈ s.granulesOf c f, x / granSize = granUnit f g) →
      ∃ i, (l.foldl (fun s f => if memChanges old new f then s.undefGranules f (s.granulesOf c f) else s) s).hbm.read granSize x = Config.freeByte i x) ∧
    ((∀ f ∈ l, memChanges old new f = true → ∀ g ∈ s.granulesOf c f, x / granSize ≠ granUnit f g) →
      (l.foldl (fun s f => if memChanges old new f then s.undefGranules f (s.granulesOf c f) else s) s).hbm.read granSize x = s.hbm.read granSize x)
  | [], s => ⟨nofun, fun _ => rfl⟩
  | f :: l, s => by
    rw [List.foldl_cons]
    have hregs : (if memChanges old new f then s.undefGranules f (s.granulesOf c f) else s).regs = s.regs := by
      split
      · exact undefGranules_regs _ _ _
      · rfl
    have hgran := fun k => granulesOf_congr hregs c k
    obtain ⟨hin, hout⟩ := memChanged_read c old new x l (if memChanges old new f then s.undefGranules f (s.granulesOf c f) else s)
    simp only [hgran] at hin hout
    obtain ⟨huin, huout⟩ := undefGranules_read s f (s.granulesOf c f) x
    refine ⟨fun h => ?_, fun h => ?_⟩
    · by_cases hl : ∃ k ∈ l, memChanges old new k = true ∧ ∃ g ∈ s.granulesOf c k, x / granSize = granUnit k g
      · exact hin hl
      · have hno := hout fun k hk hch g hg hx => hl ⟨k, hk, hch, g, hg, hx⟩
        obtain ⟨k, hk, hch, hg⟩ := h
        obtain rfl := (List.mem_cons.mp hk).resolve_right fun hm => hl ⟨k, hm, hch, hg⟩
        rw [if_pos hch] at hno ⊢
        obtain ⟨i, hi⟩ := huin hg
        exact ⟨i, hno.trans hi⟩
    · refine (hout fun k hk => h k (List.mem_cons_of_mem f hk)).trans ?_
      by_cases hch : memChanges old new f = true
      · rw [if_pos hch]
        exact huout (h f List.mem_cons_self hch)
      · rw [if_neg hch]

theorem memChanged_eq (s : State) (c : Nat) (old new : Word32) : s.memChanged c old new =
    (List.range 4).foldl (fun s f => if memChanges old new f then s.undefGranules f (s.granulesOf c f) else s) s := rfl

/-- A granule's unit tells its field and its number. -/
theorem granUnit_inj {f g k h : Nat} (hg : g < 480) (hh : h < 480) (he : granUnit f g = granUnit k h) : f = k ∧ g = h := by
  unfold granUnit at he
  omega

/-- What a change of layout or encryption leaves of a byte of granule `h` of field `k`. -/
theorem memChanged_granule {s : State} {c : Nat} {old new : Word32} {k h x : Nat} (hk : k < 4) (hh : h < 480) (hx : x / granSize = granUnit k h) :
    (s.owns c k h = true → memChanges old new k = true → ∃ i, (s.memChanged c old new).hbm.read granSize x = Config.freeByte i x) ∧
    (s.owns c k h = false ∨ memChanges old new k = false → (s.memChanged c old new).hbm.read granSize x = s.hbm.read granSize x) := by
  obtain ⟨hin, hout⟩ := memChanged_read c old new x (List.range 4) s
  rw [memChanged_eq]
  refine ⟨fun ho hch => hin ⟨k, List.mem_range.mpr hk, hch, h, List.mem_filter.mpr ⟨List.mem_range.mpr hh, ho⟩, hx⟩, fun hno => ?_⟩
  refine hout fun f _ hch g hg hxg => ?_
  obtain ⟨hg, ho⟩ := List.mem_filter.mp hg
  obtain ⟨rfl, rfl⟩ := granUnit_inj hh (List.mem_range.mp hg) (hx.symm.trans hxg)
  obtain h0 | h0 := hno
  · exact absurd (h0.symm.trans ho) (by decide)
  · exact absurd (h0.symm.trans hch) (by decide)

/-- R175: a write of `CTX_MEM` that is refused. -/
def State.memRefuses (s : State) (c : Nat) (v : Word32) : Bool :=
  s.active c || !((List.range 4).all fun f => !v.getLsbD (4 + f) || s.wholeGroups c f) || (v.getLsbD 0 && (sget? s.sec.keys c).isNone)

theorem ctxMemWrite_eq (s : State) (c : Nat) (v : Word32) : s.ctxMemWrite c v =
    if s.memRefuses c v then (List.range 4).foldl (fun s f => s.memRefused f 0x3FF) (s.wf (R.CTX_MEM_REFUSED c) 1)
    else (s.plainWrite (A.CTX_MEM c) v).memChanged c (s.reg (A.CTX_MEM c)) v := rfl

theorem memRefuses_false {s : State} {c : Nat} {v : Word32} (ha : s.active c = false)
    (hg : ∀ k, k < 4 → v.getLsbD (4 + k) = true → s.wholeGroups c k = true) (hk : v.getLsbD 0 = true → sget? s.sec.keys c ≠ none) :
    s.memRefuses c v = false := by
  have hall : ((List.range 4).all fun f => !v.getLsbD (4 + f) || s.wholeGroups c f) = true := by
    refine List.all_eq_true.mpr fun f hf => ?_
    cases hv : v.getLsbD (4 + f)
    · rfl
    · exact hg f (List.mem_range.mp hf) hv
  have hkey : (v.getLsbD 0 && (sget? s.sec.keys c).isNone) = false := by
    cases hv : v.getLsbD 0
    · rfl
    · exact Option.isNone_eq_false_iff.mpr (Option.isSome_iff_ne_none.mpr (hk hv))
  unfold State.memRefuses
  rw [ha, hall, hkey]
  rfl

theorem memRefuses_true {s : State} {c : Nat} {v : Word32} (h : s.active c = true ∨ (v.getLsbD 0 = true ∧ sget? s.sec.keys c = none) ∨
    ∃ k, k < 4 ∧ v.getLsbD (4 + k) = true ∧ s.wholeGroups c k = false) : s.memRefuses c v = true := by
  unfold State.memRefuses
  obtain ha | ⟨hv, hk⟩ | ⟨k, hk, hv, hg⟩ := h
  · rw [ha]
    rfl
  · rw [hv, hk, Bool.or_eq_true]
    exact .inr rfl
  · have hall : ((List.range 4).all fun f => !v.getLsbD (4 + f) || s.wholeGroups c f) = false := by
      refine List.all_eq_false.mpr ⟨k, List.mem_range.mpr hk, ?_⟩
      rw [hv, hg]
      decide
    rw [hall, Bool.or_eq_true, Bool.or_eq_true]
    exact .inl (.inr rfl)

/-- R175: what a refused write of `CTX_MEM` shows. -/
theorem refusedMem_shows {s : State} (hs : Store.Sorted s.regs) (c : Fin 64) :
    Same 8 s ((List.range 4).foldl (fun s f => s.memRefused f 0x3FF) (s.wf (R.CTX_MEM_REFUSED c) 1)) ∧
    ((List.range 4).foldl (fun s f => s.memRefused f 0x3FF) (s.wf (R.CTX_MEM_REFUSED c) 1)).rf (R.CTX_MEM_REFUSED c) = 1 ∧
    ∀ l : Loc, l.addr = A.CTX_MEM c → l.lo + l.wid ≤ 31 →
      ((List.range 4).foldl (fun s f => s.memRefused f 0x3FF) (s.wf (R.CTX_MEM_REFUSED c) 1)).rf l = s.rf l := by
  have hne : ∀ f, A.CTX_MEM c ≠ A.FLD_MEM_STAT f := fun f => by
    have := c.2
    unfold A.CTX_MEM Page.contextBase A.FLD_MEM_STAT Page.fieldmemBase Page.fieldBase
    omega
  have h1 := sorted_wf hs (R.CTX_MEM_REFUSED c) 1
  have hfold : ∀ (l : Loc) (t : State), l.addr = A.CTX_MEM c → Spares l t ((List.range 4).foldl (fun s f => s.memRefused f 0x3FF) t) := fun l t hl =>
    Spares.foldl (fun u f hu => hu.memRefused (by rw [hl]; exact hne f) _) _ (.refl l t)
  refine ⟨foldl_same (fun u f hu => State.memRefused_same hu rfl f _) (State.wf_same (.refl 8 s) rfl _ 1), ?_, fun l hl hw => ?_⟩
  · exact ((hfold _ _ rfl).rf h1).trans (rf_wf_self hs (Nat.le_of_ble_eq_true rfl) 1)
  · exact ((hfold l _ hl).rf h1).trans (rf_wf_bits hs _ (Nat.le_of_ble_eq_true rfl) (.inl hw))

end Sys2Proof.Machine


/-! Reads, merges and scrubbing of device memory, and BAR2 (R162 to R166, R346, R371): O45. -/

namespace Sys2Proof.Machine

/-! ### Codewords -/

/-- What lies within one codeword is one access. -/
theorem codewords_single {a n : Nat} (hn : 0 < n) (h : a % 64 + n ≤ 64) : codewords a n = [(a, n)] := by
  have hdiv : (a + n - 1) / 64 = a / 64 := by omega
  have hlo : max a (a / 64 * 64) = a := by omega
  have hhi : min (a + n) ((a / 64 + 1) * 64) - a = n := by omega
  unfold codewords
  rw [if_neg (Nat.ne_of_gt hn), hdiv, Nat.sub_self]
  simp [hlo, hhi]

/-- The pieces of a range follow one another. -/
def Pieces : Nat → Nat → List (Nat × Nat) → Prop
  | _, n, [] => n = 0
  | a, n, e :: l => e.1 = a ∧ 0 < e.2 ∧ e.2 ≤ n ∧ Pieces (a + e.2) (n - e.2) l

theorem pieces_range (a n q : Nat) : ∀ (k i : Nat), a ≤ (q + i) * 64 ∨ (i = 0 ∧ q = a / 64) → max a ((q + i) * 64) < a + n →
    (a + n - 1) / 64 + 1 = q + i + k →
    Pieces (max a ((q + i) * 64)) (a + n - max a ((q + i) * 64)) ((List.range' i k).map fun i =>
      (max a ((q + i) * 64), min (a + n) ((q + i + 1) * 64) - max a ((q + i) * 64)))
  | 0, i, _, hlt, hk => by
    rw [List.range'_zero, List.map_nil, Pieces]
    omega
  | k + 1, i, hi, hlt, hk => by
    rw [List.range'_succ, List.map_cons, Pieces]
    refine ⟨rfl, by dsimp only; omega, by dsimp only; omega, ?_⟩
    dsimp only
    by_cases hend : a + n ≤ (q + i + 1) * 64
    · obtain rfl : k = 0 := by omega
      rw [List.range'_zero, List.map_nil, Pieces]
      omega
    · have hmax : max a ((q + (i + 1)) * 64) = max a ((q + i) * 64) + (min (a + n) ((q + i + 1) * 64) - max a ((q + i) * 64)) := by omega
      have ih := pieces_range a n q k (i + 1) (.inl (by omega)) (by omega) (by omega)
      rw [hmax] at ih
      have hn : a + n - max a ((q + i) * 64) - (min (a + n) ((q + i + 1) * 64) - max a ((q + i) * 64)) =
        a + n - (max a ((q + i) * 64) + (min (a + n) ((q + i + 1) * 64) - max a ((q + i) * 64))) := by omega
      rw [hn]
      exact ih

theorem pieces_codewords (a n : Nat) : Pieces a n (codewords a n) := by
  unfold codewords
  split
  next h => exact h
  next h =>
    have h1 := pieces_range a n (a / 64) ((a + n - 1) / 64 - a / 64 + 1) 0 (.inr ⟨rfl, rfl⟩) (by omega) (by omega)
    have hmax : max a ((a / 64 + 0) * 64) = a := by omega
    rw [hmax, Nat.add_sub_cancel_left, ← List.range_eq_range'] at h1
    exact h1

/-! ### Windows while words are written (R286) -/

theorem win_spec {i a : Nat} {r : Region} {w : Win} (h : r.win i a = some w) : w.region = i ∧ r.valid = true := by
  unfold Region.win at h
  cases hv : r.valid with
  | false =>
    rw [hv] at h
    exact absurd h (by simp)
  | true =>
    rw [hv, if_neg (by decide)] at h
    refine ⟨?_, rfl⟩
    split at h
    · obtain rfl := Option.some.inj h
      rfl
    · obtain ⟨o, -, rfl⟩ := Option.map_eq_some_iff.mp h
      rfl

/-- The regions but for the mirror packets that they have sent. -/
def regionShape (l : Store Region) : List (Nat × Region) := l.map fun e => (e.1, e.2.unsent)

theorem offIn_congr {r r' : Region} (hf : r'.field = r.field) (hl : r'.len = r.len) (b a : Nat) : r'.offIn b a = r.offIn b a := by
  unfold Region.offIn
  rw [hf, hl]

theorem win_congr {r r' : Region} (hv : r'.valid = r.valid) (hf : r'.field = r.field) (h0 : r'.copy0 = r.copy0) (h1 : r'.copy1 = r.copy1)
    (hl : r'.len = r.len) (i a : Nat) : r'.win i a = r.win i a := by
  unfold Region.win
  rw [hv, h0, h1, offIn_congr hf hl, offIn_congr hf hl]

theorem win_unsent (i : Nat) (r : Region) (a : Nat) : r.unsent.win i a = r.win i a := by
  have h := win_congr (r := r) (r' := r.unsent) (by unfold Region.unsent; rfl) rfl rfl rfl rfl i a
  exact h

/-- The window of an entry that holds an address. -/
def entryWin (a : Nat) (e : Nat × Region) : Option Win := e.2.win e.1 a

theorem entryWin_unsent (a : Nat) (e : Nat × Region) : entryWin a (e.1, e.2.unsent) = entryWin a e := by
  obtain ⟨i, r⟩ := e
  unfold entryWin
  exact win_unsent i r a

theorem winOf_eq (s : State) (a : Nat) : s.winOf a = s.regions.findSome? (entryWin a) := rfl

theorem winOf_shape {s t : State} (h : regionShape t.regions = regionShape s.regions) (a : Nat) : t.winOf a = s.winOf a := by
  have hw : ∀ l : Store Region, (regionShape l).findSome? (entryWin a) = l.findSome? (entryWin a) := fun l => by
    unfold regionShape
    rw [List.findSome?_map]
    have hcomp : (entryWin a ∘ fun e : Nat × Region => (e.1, e.2.unsent)) = entryWin a := funext fun e => by
      rw [Function.comp_apply, entryWin_unsent]
    rw [hcomp]
  rw [winOf_eq, winOf_eq, ← hw t.regions, h, hw]

theorem shape_sput {i : Nat} {r r' : Region} (hu : r'.unsent = r.unsent) : ∀ {l : Store Region}, Store.Sorted l → (i, r) ∈ l →
    regionShape (sput l i r') = regionShape l
  | e :: l, hs, hm => by
    obtain ⟨hlt, hs⟩ := List.pairwise_cons.mp hs
    unfold sput
    obtain rfl | hm := List.mem_cons.mp hm
    · rw [if_neg (Nat.lt_irrefl _), if_pos rfl]
      unfold regionShape
      rw [List.map_cons, List.map_cons, hu]
    · have hji : e.1 < i := hlt _ hm
      rw [if_neg (Nat.not_lt.mpr (Nat.le_of_lt hji)), if_neg (Nat.ne_of_gt hji)]
      exact congrArg (List.cons (e.1, e.2.unsent)) (shape_sput hu hs hm)

theorem sget_of_mem {α : Type} {k : Nat} {a : α} : ∀ {t : Store α}, Store.Sorted t → (k, a) ∈ t → sget? t k = some a
  | e :: t, hs, hm => by
    obtain ⟨hlt, hs⟩ := List.pairwise_cons.mp hs
    unfold sget?
    obtain rfl | hm := List.mem_cons.mp hm
    · rw [if_pos rfl]
    · have hji : e.1 < k := hlt _ hm
      rw [if_neg (Nat.ne_of_lt hji)]
      exact sget_of_mem hs hm

/-- The region whose window holds an address. -/
theorem winOf_region {s : State} (hs : Store.Sorted s.regions) {a : Nat} {w : Win} (h : s.winOf a = some w) :
    (w.region, s.region w.region) ∈ s.regions ∧ (s.region w.region).valid = true := by
  obtain ⟨e, he, hw⟩ := List.exists_of_findSome?_eq_some h
  obtain ⟨hr, hv⟩ := win_spec hw
  have hmem : (w.region, e.2) ∈ s.regions := by rw [hr]; exact he
  have hreg : s.region w.region = e.2 := by
    unfold State.region sgetD
    rw [sget_of_mem hs hmem]
    rfl
  rw [hreg]
  exact ⟨hmem, hv⟩

/-- Two states map addresses alike. -/
structure SameMap (s t : State) : Prop where
  kept : RegionsKept s t
  shape : Store.Sorted s.regions → regionShape t.regions = regionShape s.regions

theorem SameMap.mapAddr {s t : State} (h : SameMap s t) (hs : Store.Sorted s.regions) (a : Nat) : t.mapAddr a = s.mapAddr a := by
  unfold State.mapAddr
  rw [winOf_shape (h.shape hs)]
  split
  · rfl
  next w hw =>
    have hu := h.kept.unsent hs w.region
    have hf : (t.region w.region).field = (s.region w.region).field := (congrArg Region.field hu :)
    have h0 : (t.region w.region).copy0 = (s.region w.region).copy0 := (congrArg Region.copy0 hu :)
    have h1 : (t.region w.region).copy1 = (s.region w.region).copy1 := (congrArg Region.copy1 hu :)
    have hl : (t.region w.region).live = (s.region w.region).live := (congrArg Region.live hu :)
    dsimp only
    unfold Region.copyBase
    rw [hf, h0, h1, hl]

theorem SameMap.refl (s : State) : SameMap s s := ⟨.refl s, fun _ => rfl⟩

theorem SameMap.trans {s t u : State} (h : SameMap s t) (k : SameMap t u) : SameMap s u :=
  ⟨h.kept.trans k.kept, fun hs => (k.shape (h.kept.sorted hs)).trans (h.shape hs)⟩

theorem SameMap.of_regions {s t : State} (h : t.regions = s.regions) : SameMap s t := ⟨.of_regions h, fun _ => by rw [h]⟩

/-- R278: a mirror packet that is sent moves no window. -/
theorem SameMap.setSent {s : State} {a : Nat} {w : Win} (hw : s.winOf a = some w) (n : Nat) (hs : Store.Sorted s.regions) :
    SameMap s (s.setRegion w.region { s.region w.region with sentData := n }) := by
  obtain ⟨hm, hv⟩ := winOf_region hs hw
  have hne : ({ s.region w.region with sentData := n } : Region) ≠ {} := fun e => by
    have hval : (s.region w.region).valid = false := (congrArg Region.valid e :)
    exact absurd (hv.symm.trans hval) (by decide)
  refine ⟨(RegionsKept.refl s).setRegion rfl, fun _ => ?_⟩
  unfold State.setRegion sputD
  rw [if_neg hne]
  exact shape_sput (r := s.region w.region) (r' := { s.region w.region with sentData := n }) rfl hs hm

theorem sendPkt_regions (t : State) (f : Nat) (x : Pkt) : (t.sendPkt f x).regions = t.regions :=
  (State.sendPkt_same (.refl 833223655432 t) rfl f x).regions.resolve_left (by decide)

theorem region_congr {s t : State} (h : t.regions = s.regions) : t.region = s.region := by
  funext i
  exact region_of_regions h i

theorem winOf_congr {s t : State} (h : t.regions = s.regions) (a : Nat) : t.winOf a = s.winOf a := by
  rw [winOf_eq, winOf_eq, h]

theorem setRegion_congr {s t : State} (h : t.regions = s.regions) (i : Nat) (r : Region) : (t.setRegion i r).regions = (s.setRegion i r).regions := by
  unfold State.setRegion
  dsimp only
  rw [h]

theorem SameMap.fallowWritten {s : State} (hs : Store.Sorted s.regions) {a : Nat} {w : Win} (hw : s.winOf a = some w) (n : Nat) :
    SameMap s (s.fallowWritten w a n) := by
  unfold State.fallowWritten
  dsimp only
  split
  · exact .refl s
  · have hv : (if ({ s with coverage := sput s.coverage (a / 4096) () } : State).stepCurrent (s.region w.region).ctx then
        (({ s with coverage := sput s.coverage (a / 4096) () } : State).wf (R.CMT_CSTAT_FWRITTEN (s.region w.region).ctx) 1).wf
          (R.CMT_CSTAT_RB (s.region w.region).ctx) 0 else { s with coverage := sput s.coverage (a / 4096) () }).regions = s.regions := by
      split <;> rfl
    generalize (if ({ s with coverage := sput s.coverage (a / 4096) () } : State).stepCurrent (s.region w.region).ctx then _ else _) = v at hv ⊢
    split
    · have hset := SameMap.setSent hw ((s.region w.region).sentData + 1) hs
      exact hset.trans (.of_regions ((sendPkt_regions _ _ _).trans (setRegion_congr hv _ _)))
    · exact .of_regions hv

theorem fallowWritten_mem (s : State) (w : Win) (a n : Nat) :
    (s.fallowWritten w a n).hbm = s.hbm ∧ (s.fallowWritten w a n).hbmBad = s.hbmBad := by
  have hk := State.fallowWritten_same (.refl 836444880904 s) rfl w a n
  exact ⟨hk.hbm.resolve_left (by decide), hk.hbmBad.resolve_left (by decide)⟩

/-- The counters of a write of `n` bytes in the codeword at physical address `b`. -/
def State.wordCounted (s : State) (b n : Nat) : State :=
  (if n < 64 then s.bump64 (R.HBM_RD_LO_COUNT (fieldOf b) (s.stackOf b)) (R.HBM_RD_HI_COUNT (fieldOf b) (s.stackOf b)) 1 else s).bump64
    (R.HBM_WR_LO_COUNT (fieldOf b) (s.stackOf b)) (R.HBM_WR_HI_COUNT (fieldOf b) (s.stackOf b)) 1

theorem wordCounted_same (s : State) (b n : Nat) : Same 8 s (s.wordCounted b n) := by
  unfold State.wordCounted
  exact State.bump64_same (ite_same (State.bump64_same (.refl 8 s) rfl _ _ _) (.refl 8 s)) rfl _ _ _

/-- R165: a codeword's bytes are stored. -/
def State.wordStored (s : State) (b : Nat) (bs : List Byte) : State :=
  { s with hbm := s.hbm.writeN granSize b bs, hbmBad := sdel s.hbmBad (b / 64) }

theorem wordStored_mem (s : State) (b : Nat) (bs : List Byte) : (s.wordStored b bs).hbm = s.hbm.writeN granSize b bs ∧
    (s.wordStored b bs).hbmBad = sdel s.hbmBad (b / 64) ∧ (s.wordStored b bs).regions = s.regions := ⟨rfl, rfl, rfl⟩

/-- R278, R289: what the window of a stored codeword asks for. -/
def State.windowed (s : State) (a n : Nat) : State :=
  match s.winOf a with
  | some win => if win.fallow then s.fallowWritten win a n else s
  | none => s

theorem writeWord_sound {s : State} {a : Nat} (h : sget? s.hbmBad (s.mapAddr a / 64) = none) (w : Consumer) (bs : List Byte) :
    s.writeWord w a bs = ((s.wordCounted (s.mapAddr a) bs.length).wordStored (s.mapAddr a) bs).windowed a bs.length := by
  have hbad : ∀ t : State, t.hbmBad = s.hbmBad → ((sget? t.hbmBad (s.mapAddr a / 64)).isSome && decide (bs.length < 64)) = false := fun t ht => by
    rw [ht, h]
    rfl
  have hrd : (if bs.length < 64 then s.bump64 (R.HBM_RD_LO_COUNT (fieldOf (s.mapAddr a)) (s.stackOf (s.mapAddr a)))
      (R.HBM_RD_HI_COUNT (fieldOf (s.mapAddr a)) (s.stackOf (s.mapAddr a))) 1 else s).hbmBad = s.hbmBad :=
    (ite_same (State.bump64_same (.refl 8 s) rfl _ _ _) (.refl 8 s)).hbmBad.resolve_left (by decide)
  unfold State.writeWord
  dsimp only
  rw [if_neg (by rw [hbad _ hrd]; decide)]
  rfl

theorem windowed_mem (s : State) (a n : Nat) : (s.windowed a n).hbm = s.hbm ∧ (s.windowed a n).hbmBad = s.hbmBad := by
  unfold State.windowed
  split
  · split
    · exact fallowWritten_mem s _ a n
    · exact ⟨rfl, rfl⟩
  · exact ⟨rfl, rfl⟩

theorem SameMap.windowed {s : State} (hs : Store.Sorted s.regions) (a n : Nat) : SameMap s (s.windowed a n) := by
  unfold State.windowed
  split
  next win hw =>
    split
    · exact .fallowWritten hs hw n
    · exact .refl s
  next => exact .refl s

theorem sget_sdel_none {α : Type} {k j : Nat} : ∀ {t : Store α}, sget? t j = none → sget? (sdel t k) j = none
  | [], _ => rfl
  | e :: t, h => by
    unfold sget? at h
    by_cases hj : e.1 = j
    · rw [if_pos hj] at h
      exact absurd h (Option.some_ne_none _)
    · rw [if_neg hj] at h
      unfold sdel
      split
      · exact h
      · unfold sget?
        rw [if_neg hj]
        exact sget_sdel_none h

/-- R165: what a write in a sound codeword leaves. -/
theorem writeWord_stores {s : State} (hs : Store.Sorted s.regions) {a : Nat} (h : sget? s.hbmBad (s.mapAddr a / 64) = none) (w : Consumer)
    (bs : List Byte) : (s.writeWord w a bs).hbm = s.hbm.writeN granSize (s.mapAddr a) bs ∧
      (∀ j, sget? s.hbmBad j = none → sget? (s.writeWord w a bs).hbmBad j = none) ∧ SameMap s (s.writeWord w a bs) := by
  have hk := wordCounted_same s (s.mapAddr a) bs.length
  have hm : (s.wordCounted (s.mapAddr a) bs.length).hbm = s.hbm := hk.hbm.resolve_left (by decide)
  have hb : (s.wordCounted (s.mapAddr a) bs.length).hbmBad = s.hbmBad := hk.hbmBad.resolve_left (by decide)
  have hr : (s.wordCounted (s.mapAddr a) bs.length).regions = s.regions := hk.regions.resolve_left (by decide)
  rw [writeWord_sound h]
  generalize s.wordCounted (s.mapAddr a) bs.length = u at hm hb hr
  obtain ⟨hst, hsb, hsr⟩ := wordStored_mem u (s.mapAddr a) bs
  have hr' := hsr.trans hr
  obtain ⟨h1, h2⟩ := windowed_mem (u.wordStored (s.mapAddr a) bs) a bs.length
  refine ⟨h1.trans ?_, fun j hj => ?_, SameMap.trans (.of_regions hr') (.windowed (by rw [hr']; exact hs) a _)⟩
  · rw [hst, hm]
  · rw [h2, hsb]
    refine sget_sdel_none ?_
    rw [hb]
    exact hj

theorem writeN_append (unit : Nat) : ∀ (x y : List Byte) (m : Memory) (a : Nat),
    m.writeN unit a (x ++ y) = (m.writeN unit a x).writeN unit (a + x.length) y
  | [], _, _, _ => rfl
  | b :: x, y, m, a => by
    rw [List.cons_append, Memory.writeN, Memory.writeN, writeN_append unit x y, List.length_cons, Nat.add_right_comm, Nat.add_assoc]

/-- R165, R286: pieces written one after the other are one write where the mapping is straight and every codeword sound. -/
theorem writePieces (w : Consumer) (bs : List Byte) (a base : Nat) : ∀ (l : List (Nat × Nat)) (s : State) (k : Nat), Store.Sorted s.regions →
    Pieces (a + k) (bs.length - k) l → k ≤ bs.length →
    (∀ i, i < bs.length → s.mapAddr (a + i) = base + i ∧ sget? s.hbmBad ((base + i) / 64) = none) →
    (l.foldl (fun s e => s.writeWord w e.1 ((bs.drop (e.1 - a)).take e.2)) s).hbm = s.hbm.writeN granSize (base + k) (bs.drop k)
  | [], s, k, _, hp, hk, _ => by
    rw [Pieces] at hp
    rw [List.foldl_nil, List.drop_of_length_le (by omega)]
    rfl
  | e :: l, s, k, hs, hp, hk, hmap => by
    rw [Pieces] at hp
    obtain ⟨he, hpos, hle, hp⟩ := hp
    obtain ⟨hmk, hbk⟩ := hmap k (by omega)
    have hlen : ((bs.drop k).take e.2).length = e.2 := by
      rw [List.length_take, List.length_drop]
      omega
    rw [List.foldl_cons, he, Nat.add_sub_cancel_left]
    obtain ⟨hm, hb, hsame⟩ := writeWord_stores hs (a := a + k) (by rw [hmk]; exact hbk) w ((bs.drop k).take e.2)
    have hn : bs.length - k - e.2 = bs.length - (k + e.2) := by omega
    rw [hn, Nat.add_assoc] at hp
    rw [writePieces w bs a base l _ (k + e.2) (hsame.kept.sorted hs) hp (by omega) fun i hi =>
      ⟨(hsame.mapAddr hs _).trans (hmap i hi).1, hb _ (hmap i hi).2⟩, hm, hmk]
    have hsplit : bs.drop k = (bs.drop k).take e.2 ++ bs.drop (k + e.2) := by
      rw [← List.drop_drop, List.take_append_drop]
    rw [← Nat.add_assoc]
    conv_rhs => rw [hsplit, writeN_append, hlen]

theorem hbmWrite_straight {s : State} (hs : Store.Sorted s.regions) (w : Consumer) (a base : Nat) (bs : List Byte)
    (hmap : ∀ i, i < bs.length → s.mapAddr (a + i) = base + i ∧ sget? s.hbmBad ((base + i) / 64) = none) :
    (s.hbmWrite w a bs).hbm = s.hbm.writeN granSize base bs :=
  writePieces w bs a base (codewords a bs.length) s 0 hs (pieces_codewords a bs.length) (Nat.zero_le _) hmap

end Sys2Proof.Machine


/-! Reads, merges, BAR2 and the scrubber (R158, R162 to R166, R346, R371): O45. -/

namespace Sys2Proof.Machine

/-! ### Registers of a stack that no access changes -/

/-- A register at the offset of `HBM_ODECC_CNT` or `HBM_SCRUB_STAT` in a page of a field. -/
structure Loc.Aside (l : Loc) : Prop where
  high : 0x1000000 ≤ l.addr
  off : l.addr % 0x1000 = 0x118 ∨ l.addr % 0x1000 = 0x134

theorem hbm_mod (f m : Nat) {k : Nat} (hk : k < 0x1000) : (Page.hbmBase f m + k) % 0x1000 = k := by
  unfold Page.hbmBase Page.fieldBase
  omega

theorem Loc.Aside.ne {l : Loc} (h : l.Aside) (f m : Nat) {k : Nat} (hk : k < 0x1000) (h1 : k ≠ 0x118) (h2 : k ≠ 0x134) : l.addr ≠ Page.hbmBase f m + k := by
  have hm := hbm_mod f m hk
  have ho := h.off
  intro e
  rw [e, hm] at ho
  exact ho.elim h1 h2

theorem Loc.Aside.noErr {l : Loc} (h : l.Aside) (f m : Nat) : l.NoErr (Page.hbmBase f m) :=
  ⟨h.ne f m (by decide) (by decide) (by decide), h.ne f m (by decide) (by decide) (by decide), h.ne f m (by decide) (by decide) (by decide)⟩

theorem Loc.Aside.noState {l : Loc} (h : l.Aside) {c : Nat} (hc : c < 64) : l.NoState c := by
  have hh := h.high
  refine .inl ?_
  unfold A.CMT_CSTAT Page.commitBase
  omega

theorem odecc_aside (f m : Nat) : (R.HBM_ODECC_CNT_COUNT f m).Aside :=
  ⟨Nat.le_trans (hbmBase_high f m) (Nat.le_add_right _ _), .inl (hbm_mod f m (by decide))⟩

theorem scrub_aside (f m : Nat) : (R.HBM_SCRUB_STAT_ROW f m).Aside :=
  ⟨Nat.le_trans (hbmBase_high f m) (Nat.le_add_right _ _), .inr (hbm_mod f m (by decide))⟩

section Access
variable {l : Loc} {s0 s : State}

theorem Spares.reportAside (hk : Spares l s0 s) (h : l.Aside) {w : Consumer} (hw : ∀ c, w.ctx? = some c → c < 64) (a : Nat) :
    Spares l s0 (s.reportUe w a) := by
  have hne : ∀ (f m k : Nat), k < 0x1000 → k ≠ 0x118 → k ≠ 0x134 → l.addr ≠ Page.hbmBase f m + k := fun f m k => h.ne f m
  have h1 : Spares l s0 ((s.bump (R.HBM_UE_CNT_COUNT (fieldOf a) (s.stackOf a)) 1).raiseFor
      (Page.hbmBase (fieldOf a) (s.stackOf a)) (if w = .scrub then 2 else 1) w.ctx?) :=
    (hk.bump (hne _ _ _ (by decide) (by decide) (by decide)) 1).raiseFor (h.noErr _ _) _ _
  have hend : ∀ {t : State}, Spares l s0 t → ∀ o : Option Nat, o = w.ctx? → ∀ u, u = (match o with
      | some c => t.blockCause c 1
      | none => t) → Spares l s0 u := fun ht o ho u hu => by
    subst hu
    cases o with
    | none => exact ht
    | some c => exact ht.blockCause (h.noState (hw c ho.symm)) 1
  unfold State.reportUe
  refine hend ?_ w.ctx? rfl _ rfl
  refine h1.ite ?_
  have hlo := fun f m => hne f m 0x120 (by decide) (by decide) (by decide)
  have hhi := fun f m => hne f m 0x124 (by decide) (by decide) (by decide)
  have hin := fun f m => hne f m 0x128 (by decide) (by decide) (by decide)
  have hst := fun f m => hne f m 0x12C (by decide) (by decide) (by decide)
  exact (((((((((h1.wf_far (hlo _ _) _).wf_far (hhi _ _) _).wf_far (hin _ _) _).wf_far (hin _ _) _).wf_far (hin _ _) _).wf_far
    (hin _ _) _).wf_far (hin _ _) _).wf_far (hin _ _) _).wf_far (hin _ _) _).wf_far (hst _ _) _

theorem Spares.readWordAside (hk : Spares l s0 s) (h : l.Aside) {w : Consumer} (hw : ∀ c, w.ctx? = some c → c < 64) (a n : Nat) :
    Spares l s0 (s.readWord w a n).2 := by
  have h1 : Spares l s0 (s.bump64 (R.HBM_RD_LO_COUNT (fieldOf a) (s.stackOf a)) (R.HBM_RD_HI_COUNT (fieldOf a) (s.stackOf a)) 1) :=
    hk.bump64 (h.ne _ _ (by decide) (by decide) (by decide)) (h.ne _ _ (by decide) (by decide) (by decide)) 1
  unfold State.readWord
  dsimp only
  split
  · exact h1.reportAside h hw a
  · exact h1

theorem Spares.corrected (hk : Spares l s0 s) (h : l.Aside) (a : Nat) : Spares l s0 (s.corrected a) := by
  unfold State.corrected
  exact ((hk.bump (m := R.HBM_CE_CNT_COUNT _ _) (h.ne _ _ (by decide) (by decide) (by decide)) 1).raiseSrc (h.noErr _ _) 0).bump64
    (m := R.HBM_WR_LO_COUNT _ _) (k := R.HBM_WR_HI_COUNT _ _) (h.ne _ _ (by decide) (by decide) (by decide)) (h.ne _ _ (by decide) (by decide) (by decide)) 1

end Access

/-! ### What a codeword's codes find (R162, R163) -/

/-- R162: what the controller's code does about what it finds. -/
def State.foundBy (s : State) (a : Nat) (x : Found) : State :=
  match x with
  | .clean => s
  | .one => if (sget? s.hbmBad (a / 64)).isSome then s else s.corrected a
  | .uncorrectable => { s with hbmBad := sput s.hbmBad (a / 64) () }

theorem foundIn_eq (s : State) (a : Nat) (x : Found) (onDie : Bool) : s.foundIn a x onDie =
    (if onDie then s.bump (R.HBM_ODECC_CNT_COUNT (fieldOf a) (s.stackOf a)) 1 else s).foundBy a x := by
  unfold State.foundIn State.foundBy
  cases x <;> rfl

theorem Spares.foundBy {l : Loc} {s0 s : State} (hk : Spares l s0 s) (h : l.Aside) (a : Nat) (x : Found) : Spares l s0 (s.foundBy a x) := by
  unfold State.foundBy
  cases x with
  | clean => exact hk
  | one => exact hk.ite (hk.corrected h a)
  | uncorrectable => exact hk.then_regs rfl

theorem foundIn_frame (s : State) (a : Nat) (x : Found) (onDie : Bool) : Same 8590000136 s (s.foundIn a x onDie) :=
  State.foundIn_same (.refl 8590000136 s) rfl a x onDie

theorem foundBy_bad (s : State) (a : Nat) (x : Found) : (x = .uncorrectable → (s.foundBy a x).hbmBad = sput s.hbmBad (a / 64) ()) ∧
    (x ≠ .uncorrectable → (s.foundBy a x).hbmBad = s.hbmBad) := by
  unfold State.foundBy
  cases x with
  | clean => exact ⟨nofun, fun _ => rfl⟩
  | one =>
    refine ⟨nofun, fun _ => ?_⟩
    dsimp only
    split
    · rfl
    · exact (State.corrected_same (.refl 8589934600 s) rfl a).hbmBad.resolve_left (by decide)
  | uncorrectable => exact ⟨fun _ => rfl, fun h => absurd rfl h⟩

theorem foundIn_bad (s : State) (a : Nat) (x : Found) (onDie : Bool) :
    (x = .uncorrectable → (s.foundIn a x onDie).hbmBad = sput s.hbmBad (a / 64) ()) ∧
    (x ≠ .uncorrectable → (s.foundIn a x onDie).hbmBad = s.hbmBad) := by
  have hb : (if onDie then s.bump (R.HBM_ODECC_CNT_COUNT (fieldOf a) (s.stackOf a)) 1 else s).hbmBad = s.hbmBad :=
    (ite_same (State.bump_same (.refl 8 s) rfl _ _) (.refl 8 s)).hbmBad.resolve_left (by decide)
  rw [foundIn_eq]
  generalize (if onDie then s.bump _ 1 else s) = t at hb ⊢
  rw [← hb]
  exact foundBy_bad t a x

/-- R162: a correction that the stack reports is counted. -/
theorem foundIn_onDie {s : State} (hs : Store.Sorted s.regs) (a : Nat) (x : Found) :
    (s.foundIn a x true).rf (R.HBM_ODECC_CNT_COUNT (fieldOf a) (s.stackOf a)) =
      satAdd32 (s.rf (R.HBM_ODECC_CNT_COUNT (fieldOf a) (s.stackOf a))) 1 := by
  rw [foundIn_eq, if_pos rfl]
  have hb := rf_bump_self hs (l := R.HBM_ODECC_CNT_COUNT (fieldOf a) (s.stackOf a)) (Nat.le_of_ble_eq_true rfl) 1
  have hsort := sorted_bump hs (R.HBM_ODECC_CNT_COUNT (fieldOf a) (s.stackOf a)) 1
  generalize s.bump (R.HBM_ODECC_CNT_COUNT (fieldOf a) (s.stackOf a)) 1 = t at hb hsort
  exact (((Spares.refl _ t).foundBy (odecc_aside _ _) a x).rf hsort).trans (hb.trans (satAdd32_mod _ _))

theorem sorted_foundIn {s : State} (hs : Store.Sorted s.regs) (a : Nat) (x : Found) (onDie : Bool) : Store.Sorted (s.foundIn a x onDie).regs := by
  rw [foundIn_eq]
  refine ((Spares.refl _ _).foundBy (scrub_aside 0 0) a x).sorted ?_
  split
  · exact sorted_bump hs _ _
  · exact hs

theorem Spares.foundIn {l : Loc} {s0 s : State} (hk : Spares l s0 s) (h : l.Aside) (a : Nat) (ho : l.addr ≠ A.HBM_ODECC_CNT (fieldOf a) (s.stackOf a)) (x : Found)
    (onDie : Bool) : Spares l s0 (s.foundIn a x onDie) := by
  rw [foundIn_eq]
  exact ((hk.bump (m := R.HBM_ODECC_CNT_COUNT (fieldOf a) (s.stackOf a)) ho 1).ite hk).foundBy h a x

/-! ### A codeword is read (R154, R158, R164) -/

theorem readerOf_ctx (s : State) (w : Reader) : ∀ c, (s.readerOf w).ctx? = some c → c < 64 := by
  intro c hc
  cases w with
  | stream x => obtain rfl := Option.some.inj hc; exact x.ctx.2
  | fetch x => obtain rfl := Option.some.inj hc; exact x.ctx.2
  | engine d f => obtain rfl := Option.some.inj hc; exact d.2
  | bar2 u => exact (Option.some_ne_none c hc.symm).elim
  | cmd q => obtain rfl := Option.some.inj hc; exact ctx_qCtx_lt s q

theorem Spares.hbmReadAside {l : Loc} {s0 s : State} (hk : Spares l s0 s) (h : l.Aside) {w : Consumer} (hw : ∀ c, w.ctx? = some c → c < 64) (a n : Nat) :
    Spares l s0 (s.hbmRead w a n).2 := by
  unfold State.hbmRead
  suffices hf : ∀ (xs : List (Nat × Nat)) (acc : List Byte × State), Spares l s0 acc.2 →
      Spares l s0 (xs.foldl (fun (acc : List Byte × State) (e : Nat × Nat) =>
        let (bs, s) := acc.2.readWord w (acc.2.mapAddr e.1) e.2
        (acc.1 ++ bs, s)) acc).2 from hf _ _ hk
  intro xs
  induction xs with
  | nil => exact fun _ ha => ha
  | cons x xs ih => exact fun acc ha => ih _ (ha.readWordAside h hw _ _)

/-- R163, R164: the bytes that a codeword delivers. -/
theorem peekHbm_found (s : State) {b : Nat} (hb : b % 64 = 0) (x : Found) (onDie : Bool) :
    (s.foundIn (s.mapAddr b) x onDie).peekHbm b 64 = if x = .uncorrectable then List.replicate 64 0 else s.peekHbm b 64 := by
  have hk := foundIn_frame s (s.mapAddr b) x onDie
  have hr := hk.regions.resolve_left (by decide)
  have hm := hk.hbm.resolve_left (by decide)
  obtain ⟨hbad, hsound⟩ := foundIn_bad s (s.mapAddr b) x onDie
  generalize s.foundIn (s.mapAddr b) x onDie = t at hr hm hbad hsound
  split
  next hx =>
    unfold State.peekHbm
    rw [codewords_single (by decide) (by omega), List.flatMap_cons, List.flatMap_nil, List.append_nil]
    dsimp only
    rw [mapAddr_congr hr, hbad hx, sget_sput_self, if_pos (by rfl)]
  next hx => exact peekHbm_congr hr hm (hsound hx) b 64

section Read
variable {s : State} {w : Reader} {a : BitVec 41} {x : Found} {onDie : Bool}

theorem hbmRead_waits (h : s.hbmWaits (a.toNat / 64 * 64) 64 = true ∨ s.rangeFenced (a.toNat / 64 * 64) 64 = true) :
    exec (.hbmRead w a x onDie) s = .next s := by
  show execHbmRead w a x onDie s = _
  unfold execHbmRead
  dsimp only
  rw [if_pos]
  obtain h | h := h <;> rw [h] <;> simp

theorem hbmRead_runs (hp : populated (a.toNat / 64 * 64) = true) (hw : s.hbmWaits (a.toNat / 64 * 64) 64 = false)
    (hf : s.rangeFenced (a.toNat / 64 * 64) 64 = false) : exec (.hbmRead w a x onDie) s = .next
      { ((s.foundIn (s.mapAddr (a.toNat / 64 * 64)) x onDie).hbmRead (s.readerOf w) (a.toNat / 64 * 64) 64).2 with
        b2data := ((s.foundIn (s.mapAddr (a.toNat / 64 * 64)) x onDie).hbmRead (s.readerOf w) (a.toNat / 64 * 64) 64).1 } := by
  show execHbmRead w a x onDie s = _
  unfold execHbmRead
  dsimp only
  rw [hp, hw, hf, if_neg (by decide)]

end Read

/-! ### Bytes are merged into a codeword (R165) -/

theorem partialWrite_runs {s : State} {w : Reader} {a : BitVec 41} {bs : List Byte} {x : Found} {onDie : Bool} (hb : bs ≠ [])
    (hin : a.toNat % 64 + bs.length ≤ 64) (hp : populated a.toNat = true) (hok : s.writerOk w a.toNat bs.length = true)
    (hw : s.hbmWaits a.toNat bs.length = false) (hf : s.rangeFenced a.toNat bs.length = false) : exec (.hbmPartialWrite w a bs x onDie) s =
      .next ((s.foundIn (s.mapAddr a.toNat) x onDie).writeWord (s.readerOf w) a.toNat bs) := by
  have hpos : 0 < bs.length := List.length_pos_of_ne_nil hb
  have hc := codewords_single hpos hin
  show execHbmPartialWrite w a bs x onDie s = _
  unfold execHbmPartialWrite
  dsimp only
  rw [hc, List.all_cons, List.all_nil, hp, hw, hf, hok, List.isEmpty_eq_false_iff.mpr hb, if_neg (by decide)]
  unfold State.hbmWrite
  rw [hc, List.foldl_cons, List.foldl_nil, Nat.sub_self, List.drop_zero, List.take_length]

/-- R165: a merge into a codeword that cannot be corrected stores nothing. -/
theorem writeWord_lost {s : State} {a : Nat} (h : (sget? s.hbmBad (s.mapAddr a / 64)).isSome = true) (w : Consumer) {bs : List Byte} (hn : bs.length < 64) :
    (s.writeWord w a bs).hbm = s.hbm ∧ (s.writeWord w a bs).hbmBad = s.hbmBad := by
  have hrd := State.bump64_same (.refl 8 s) rfl (R.HBM_RD_LO_COUNT (fieldOf (s.mapAddr a)) (s.stackOf (s.mapAddr a)))
    (R.HBM_RD_HI_COUNT (fieldOf (s.mapAddr a)) (s.stackOf (s.mapAddr a))) 1
  unfold State.writeWord
  dsimp only
  rw [if_pos hn]
  generalize s.bump64 _ _ 1 = t at hrd
  have hb : t.hbmBad = s.hbmBad := hrd.hbmBad.resolve_left (by decide)
  have hm : t.hbm = s.hbm := hrd.hbm.resolve_left (by decide)
  rw [if_pos (by rw [hb, h]; simp [hn]), ← hb, ← hm]
  have hk := State.reportUe_same (.refl 8589934600 t) rfl (.merge w) (s.mapAddr a)
  exact ⟨hk.hbm.resolve_left (by decide), hk.hbmBad.resolve_left (by decide)⟩

theorem read_merged {m : Memory} (h : m.wf granSize) (b : Nat) (bs : List Byte) (y : Nat) : (m.writeN granSize b bs).read granSize y =
    if b ≤ y ∧ y < b + bs.length then bs.getD (y - b) 0 else m.read granSize y := by
  split
  next hy =>
    have hi := Memory.read_writeN_in bs b h (y - b) (by omega)
    rwa [Nat.add_sub_cancel' hy.1] at hi
  next hy => exact Memory.read_writeN_out granSize bs m (by omega)

/-! ### BAR2 (R346, R347, R371) -/

section Bar2
variable {s : State} {u : Fin 64} {off : BitVec 41}

theorem bar2Read_runs {n : Fin 4097} (hs : s.bar2Served u off.toNat n = true) : exec (.bar2Read u off n) s = .next
    (if !s.bar2In u (s.bar2Addr u off.toNat) n then { s.accErr u 1 false 2 off.toNat with b2data := List.replicate n.val 0 }
    else if s.rangeFenced (s.bar2Addr u off.toNat) n then { s with b2data := List.replicate n.val 0 }
    else if s.hbmWaits (s.bar2Addr u off.toNat) n then s
    else { (s.hbmRead (.bar2 u) (s.bar2Addr u off.toNat) n).2 with b2data := (s.hbmRead (.bar2 u) (s.bar2Addr u off.toNat) n).1 }) := by
  show execBar2Read u off n s = _
  unfold execBar2Read
  dsimp only
  rw [hs, if_neg (by decide)]
  split
  · rfl
  split
  · rfl
  split <;> rfl

theorem bar2Write_runs {bs : List Byte} (hs : s.bar2Served u off.toNat bs.length = true) : exec (.bar2Write u off bs) s = .next
    (if !s.bar2In u (s.bar2Addr u off.toNat) bs.length then s.accErr u 1 true 2 off.toNat
    else if s.rangeFenced (s.bar2Addr u off.toNat) bs.length then s
    else if !s.bar2Writable u (s.bar2Addr u off.toNat) bs.length then s.accErr u 1 true 4 off.toNat
    else if s.hbmWaits (s.bar2Addr u off.toNat) bs.length then s
    else s.hbmWrite (.bar2 u) (s.bar2Addr u off.toNat) bs) := by
  show execBar2Write u off bs s = _
  unfold execBar2Write
  dsimp only
  rw [hs, if_neg (by decide)]
  split
  · rfl
  split
  · rfl
  split
  · rfl
  split <;> rfl

end Bar2

/-! ### The scrubber (R158, R166) -/

section Scrub
variable {s : State} {f : Fin 4} {m : Fin 5} {x : Found} {onDie : Bool}

/-- R166: the codeword that the scrubber reads next. -/
def State.scrubPlace (s : State) (f m : Nat) : Nat := s.rowAddr f m (s.rf (R.HBM_SCRUB_STAT_ROW f m)) (sgetD s.scrubAt (5 * f + m) 0)

theorem scrubRead_waits (h : s.stackAsleep f m = true ∨ s.wordWaits (s.scrubPlace f m) = true) : exec (.scrubRead f m x onDie) s = .next s := by
  show execScrubRead f m x onDie s = _
  unfold execScrubRead
  refine if_pos ?_
  obtain h | h := h
  · rw [h]
    simp
  · exact (Bool.or_eq_true _ _).mpr (.inr h)

theorem scrubRead_runs (he : s.rf (R.HBM_SCRUB_CTRL_EN f m) = 1) (ha : s.stackAsleep f m = false) (hw : s.wordWaits (s.scrubPlace f m) = false) :
    exec (.scrubRead f m x onDie) s = .next (((s.foundIn (s.scrubPlace f m) x onDie).readWord .scrub (s.scrubPlace f m) 64).2.scrubNext f m) := by
  have hen : s.flag (R.HBM_SCRUB_CTRL_EN f m) = true := by
    unfold State.flag
    rw [he]
    rfl
  show execScrubRead f m x onDie s = _
  unfold execScrubRead
  refine if_neg ?_
  rw [hen, ha]
  have hw' : s.wordWaits (s.rowAddr f m (s.rf (R.HBM_SCRUB_STAT_ROW f m)) (sgetD s.scrubAt (5 * f + m) 0)) = false := hw
  rw [hw']
  decide

theorem scrubNext_within {t : State} {f m : Nat} (h : sgetD t.scrubAt (5 * f + m) 0 + 1 < 2 ^ 24) :
    sgetD (t.scrubNext f m).scrubAt (5 * f + m) 0 = sgetD t.scrubAt (5 * f + m) 0 + 1 ∧ (t.scrubNext f m).regs = t.regs := by
  unfold State.scrubNext
  dsimp only
  rw [if_pos h]
  refine ⟨?_, rfl⟩
  unfold sgetD
  rw [sget_sput_self]
  rfl

theorem scrubNext_wraps {t : State} (ht : Store.Sorted t.regs) {f m : Nat} (h : 2 ^ 24 ≤ sgetD t.scrubAt (5 * f + m) 0 + 1) :
    (t.scrubNext f m).rf (R.HBM_SCRUB_STAT_ROW f m) =
      if t.rf (R.HBM_SCRUB_STAT_ROW f m) < 95 then t.rf (R.HBM_SCRUB_STAT_ROW f m) + 1 else 0 := by
  have hs : Store.Sorted ({ t with scrubAt := sdel t.scrubAt (5 * f + m) } : State).regs := ht
  unfold State.scrubNext
  dsimp only
  rw [if_neg (Nat.not_lt.mpr h)]
  generalize ({ t with scrubAt := sdel t.scrubAt (5 * f + m) } : State) = u at hs
  split
  next hlt =>
    refine (rf_wf_self hs (Nat.le_of_ble_eq_true rfl) _).trans (Nat.mod_eq_of_lt ?_)
    exact Nat.lt_of_le_of_lt (Nat.succ_le_of_lt hlt) (show 95 < 2 ^ 7 by decide)
  next =>
    have h1 := sorted_wf hs (R.HBM_SCRUB_STAT_ROW f m) 0
    exact (rf_wf_bits h1 _ (Nat.le_of_ble_eq_true rfl) (.inl (Nat.le_of_ble_eq_true rfl))).trans (rf_wf_self hs (Nat.le_of_ble_eq_true rfl) 0)

end Scrub

theorem owns_ctxMem (s : State) (c : Fin 64) (v : Word32) (k h : Nat) : (s.plainWrite (A.CTX_MEM c) v).owns c k h = s.owns c k h := by
  have hne : ∀ l : Loc, l.addr = A.FLD_GRAN k h → l.addr ≠ A.CTX_MEM c := fun l hl => by
    have := c.2
    rw [hl]
    unfold A.FLD_GRAN Page.fieldmemBase Page.fieldBase A.CTX_MEM Page.contextBase
    omega
  have hrf : ∀ l : Loc, l.addr = A.FLD_GRAN k h → (s.plainWrite (A.CTX_MEM c) v).rf l = s.rf l := fun l hl => rf_congr (reg_setReg_ne s _ (hne l hl))
  unfold State.owns State.flag
  rw [hrf _ rfl, hrf _ rfl]

/-- What is delivered changes no register. -/
theorem delivered_same (t : State) (b : List Byte) : Same 256 t { t with b2data := b } := .of_frame (M := 256) rfl

theorem delivered_rf (t : State) (b : List Byte) (l : Loc) : ({ t with b2data := b } : State).rf l = t.rf l := rfl

theorem delivered_bad (t : State) (b : List Byte) : ({ t with b2data := b } : State).hbmBad = t.hbmBad := rfl

theorem scrub_ne_odecc (f m f' m' : Nat) : A.HBM_SCRUB_STAT f m ≠ A.HBM_ODECC_CNT f' m' := fun e => by
  have h1 : A.HBM_SCRUB_STAT f m % 0x1000 = 0x134 := hbm_mod f m (by decide)
  have h2 : A.HBM_ODECC_CNT f' m' % 0x1000 = 0x118 := hbm_mod f' m' (by decide)
  rw [e, h2] at h1
  exact absurd h1 (by decide)

/-- Settles O45: a refusal shows in the page it concerns, memory that is assigned or laid out anew reads as logs 3 and 48 say, and
an access counts and keeps what its codeword's codes find. -/
theorem memoryIsAssignedAndRead : Obligations.MemoryIsAssignedAndRead := by
  unfold Obligations.MemoryIsAssignedAndRead
  refine fun u f v s hc => ⟨fun g new hm hnew hne => ⟨fun hfix hheld => ?_, fun hbad => ?_⟩, fun m => ⟨clearDone_asleep, fun ha x hx => ?_⟩,
    fun c g b n hg hm hb hn hle => ?_, fun c g hg hm => ⟨fun ha hgr hkey => ?_, fun hbad => ?_⟩, fun w a x onDie b hb hp => ⟨?_, fun hw hf => ?_⟩,
    fun w a bs x onDie b hb hne hin hlt hp hok hw hf => ?_, fun off a ha => ⟨fun n hs => ⟨fun hi => ?_, fun hi hf => ?_, fun hi hf => ⟨fun hw => ?_, fun hw => ?_⟩⟩,
      fun bs n hn hs => ⟨fun kind hk => ?_, fun hi hbad => ?_, fun hi hf hok hw => ?_⟩⟩,
    fun m x onDie i hi => ⟨?_, fun he ha hw => ?_⟩⟩
  · have hnew' : new = newOwner v := hnew
    rw [hnew'] at hne hfix ⊢
    have hrun : exec (.granuleWrite u f g v) s = .next (s.granWrite f g v) := by
      show execGranuleWrite u f g v s = _
      unfold execGranuleWrite
      rw [gateWrite_rw hm]
    have hown := owner_plainWrite hc.regs f.2 g.2 v
    have hsort : Store.Sorted (s.plainWrite (A.FLD_GRAN f g) v).regs := sorted_setReg hc.regs _ _
    have hframe := State.plainWrite_same (.refl 8 s) rfl (A.FLD_GRAN f g) v
    rw [granWrite_eq hne, granRefuses_eq_false hfix hheld, if_neg (by decide)] at hrun
    generalize s.plainWrite (A.FLD_GRAN f g) v = t at hrun hown hsort hframe
    have hhbm : t.hbm = s.hbm := hframe.hbm.resolve_left (by decide)
    have hclr : t.clearing = s.clearing := hframe.clearing.resolve_left (by decide)
    cases hn : newOwner v with
    | none =>
      rw [hn, if_neg (by decide)] at hrun
      exact ⟨_, hrun, (hframe.mono (N := partsMask [.regs, .hbm, .hbmBad, .clearing]) rfl).parts, hown.trans hn, fun _ => ⟨hhbm, hclr⟩, fun h => absurd rfl h⟩
    | some c =>
      rw [hn, if_pos (show (some c).isSome = true from rfl)] at hrun
      obtain ⟨hsame, ho, h1, h2, h3⟩ := granCleared_shows hsort (f := f) g.2
      refine ⟨_, hrun, ((hframe.mono (N := partsMask [.regs, .hbm, .hbmBad, .clearing]) rfl).trans hsame).parts, (ho.trans hown).trans hn,
        fun h => absurd h (Option.some_ne_none c), fun _ => ⟨h1, h2.trans (by rw [hclr]), fun x => ?_⟩⟩
      rw [h3 x, hhbm]
  · have hnew' : new = newOwner v := hnew
    rw [hnew'] at hne hbad
    have hrun : exec (.granuleWrite u f g v) s = .next (s.granWrite f g v) := by
      show execGranuleWrite u f g v s = _
      unfold execGranuleWrite
      rw [gateWrite_rw hm]
    rw [granWrite_eq hne, granRefuses_eq_true hbad, if_pos rfl] at hrun
    obtain ⟨h1, h2⟩ := memRefused_shows hc.regs f (i := 0x100 + g) (by omega)
    have hs := fun l (hl : l.addr = A.FLD_GRAN f g) => (Spares.refl l s).memRefused (f := f) (by rw [hl]; exact stat_ne_gran f g) (0x100 + g)
    exact ⟨_, hrun, (memRefused_frame s f _).regs_only, owner_spares hc.regs (hs _ rfl) (hs _ rfl), h1, h2⟩
  · have hrun := clearDone_runs ha hx
    by_cases hdup : x ∈ s.clearing.erase x
    · rw [if_pos (List.contains_iff_mem.mpr hdup)] at hrun
      exact ⟨_, hrun, rfl, fun h => absurd hdup h, fun _ => ⟨rfl, fun h => absurd hdup h⟩⟩
    · rw [if_neg fun h => hdup (List.contains_iff_mem.mp h)] at hrun
      refine ⟨_, hrun, clearing_cleared x, fun _ => rfl, fun hidle => ?_⟩
      obtain ⟨h1, h2⟩ := cleared_idle (f := f) hc.regs hidle x
      exact ⟨h1, fun _ => h2⟩
  · subst hg hb hn
    have hrun : exec (.sheafShareWrite u f c v) s = .next (s.shareWrite f c v) := by
      show execSheafShareWrite u f c v s = _
      unfold execSheafShareWrite
      rw [gateWrite_rw hm]
    rw [shareWrite_eq hle] at hrun
    refine ⟨_, hrun, ?_, fun ha hd => ?_, fun hbad => ?_⟩
    · exact (ite_same (memRefused_frame s f _) (State.plainWrite_same (.refl 8 s) rfl _ v)).regs_only
    · rw [shareRefuses_false ha hd, if_neg (by decide)]
      exact plainWrite_reg hc.regs _ v
    · rw [shareRefuses_true hbad, if_pos rfl]
      obtain ⟨h1, h2⟩ := memRefused_shows hc.regs f (i := 0x80 + c) (by omega)
      exact ⟨reg_of_word (((Spares.refl ⟨A.FLD_SHEAF f c, 0, 32⟩ s).memRefused (stat_ne_sheaf f c) _).rf hc.regs), h1, h2⟩
  · subst hg
    have hrun : exec (.ctxMemWrite u c v) s = .next (s.ctxMemWrite c v) := by
      show execCtxMemWrite u c v s = _
      unfold execCtxMemWrite
      rw [gateWrite_rw hm]
    rw [ctxMemWrite_eq, memRefuses_false ha hgr hkey, if_neg (by decide)] at hrun
    obtain ⟨h1, h2⟩ := plainWrite_reg hc.regs (A.CTX_MEM c) v
    have hframe := State.plainWrite_same (.refl 8 s) rfl (A.CTX_MEM c) v
    have hown := fun k h => owns_ctxMem s c v k h
    generalize s.plainWrite (A.CTX_MEM c) v = t at hrun h1 h2 hframe hown
    have hhbm : t.hbm = s.hbm := hframe.hbm.resolve_left (by decide)
    have hsame := State.memChanged_same (.refl 98306 t) rfl c (s.reg (A.CTX_MEM c)) v
    have hregs : (t.memChanged c (s.reg (A.CTX_MEM c)) v).regs = t.regs := hsame.regs.resolve_left (by decide)
    refine ⟨_, hrun, ((hframe.mono (N := partsMask [.regs, .hbm, .hbmBad, .freeCtr]) rfl).trans (hsame.mono rfl)).parts,
      (reg_of_regs hregs _).trans h1, fun x hx => (reg_of_regs hregs x).trans (h2 x hx), fun k h x hk hh hx => ?_⟩
    obtain ⟨hin, hout⟩ := memChanged_granule (s := t) (c := c) (old := s.reg (A.CTX_MEM c)) (new := v) hk hh hx
    rw [hown, hhbm] at hout
    rw [hown] at hin
    refine ⟨fun ho hch => hin ho ?_, fun hno => hout (hno.imp_right fun ⟨e0, e1⟩ => ?_)⟩
    · exact (Bool.or_eq_true _ _).mpr (hch.imp bne_iff_ne.mpr bne_iff_ne.mpr)
    · unfold memChanges
      rw [e0, e1]
      simp
  · subst hg
    have hrun : exec (.ctxMemWrite u c v) s = .next (s.ctxMemWrite c v) := by
      show execCtxMemWrite u c v s = _
      unfold execCtxMemWrite
      rw [gateWrite_rw hm]
    rw [ctxMemWrite_eq, memRefuses_true hbad, if_pos rfl] at hrun
    obtain ⟨h1, h2, h3⟩ := refusedMem_shows hc.regs c
    exact ⟨_, hrun, h1.regs_only, h2, h3 _ rfl (Nat.le_of_ble_eq_true rfl), h3 _ rfl (Nat.le_of_ble_eq_true rfl)⟩
  · subst hb
    exact hbmRead_waits
  · subst hb
    have hrun := hbmRead_runs (w := w) (x := x) (onDie := onDie) hp hw hf
    have hfound := foundIn_frame s (s.mapAddr (a.toNat / 64 * 64)) x onDie
    obtain ⟨hbad, hsound⟩ := foundIn_bad s (s.mapAddr (a.toNat / 64 * 64)) x onDie
    have hsort := sorted_foundIn hc.regs (s.mapAddr (a.toNat / 64 * 64)) x onDie
    have hcount := foundIn_onDie hc.regs (s.mapAddr (a.toNat / 64 * 64)) x
    have hpeek := peekHbm_found s (b := a.toNat / 64 * 64) (by omega) x onDie
    have hctx := readerOf_ctx s w
    have hread := hbmRead_same (s.foundIn (s.mapAddr (a.toNat / 64 * 64)) x onDie) (s.readerOf w) (a.toNat / 64 * 64) 64
    have hrb : ((s.foundIn (s.mapAddr (a.toNat / 64 * 64)) x onDie).hbmRead (s.readerOf w) (a.toNat / 64 * 64) 64).2.hbmBad =
        (s.foundIn (s.mapAddr (a.toNat / 64 * 64)) x onDie).hbmBad := hread.hbmBad.resolve_left (by decide)
    refine ⟨_, hrun, ?_, fun hdie => ?_, (hbmRead_fst _ _ _ _).trans hpeek, fun hx => ?_, fun hx => ?_⟩
    · exact (((hfound.mono (N := partsMask [.regs, .b2data, .hbmBad, .pairs]) rfl).trans (hread.mono rfl)).trans ((delivered_same _ _).mono rfl)).parts
    · subst hdie
      exact (delivered_rf _ _ _).trans ((((Spares.refl _ _).hbmReadAside (odecc_aside _ _) hctx _ _).rf hsort).trans hcount)
    · rw [delivered_bad, hrb, hbad hx, sget_sput_self]
      rfl
    · rw [delivered_bad, hrb, hsound hx]
  · subst hb
    have hrun := partialWrite_runs (x := x) (onDie := onDie) hne hin hp hok hw hf
    have hfound := foundIn_frame s (s.mapAddr a.toNat) x onDie
    obtain ⟨hbad, hsound⟩ := foundIn_bad s (s.mapAddr a.toNat) x onDie
    have hmap : (s.foundIn (s.mapAddr a.toNat) x onDie).mapAddr a.toNat = s.mapAddr a.toNat := mapAddr_congr (hfound.regions.resolve_left (by decide)) _
    have hm : (s.foundIn (s.mapAddr a.toNat) x onDie).hbm = s.hbm := hfound.hbm.resolve_left (by decide)
    have hr : Store.Sorted (s.foundIn (s.mapAddr a.toNat) x onDie).regions := by
      rw [hfound.regions.resolve_left (by decide)]
      exact hc.regions
    generalize s.foundIn (s.mapAddr a.toNat) x onDie = t at hrun hfound hbad hsound hmap hm hr
    refine ⟨_, hrun, ((hfound.mono (N := partsMask [.regs, .hbm, .hbmBad, .regions, .coverage, .pairs, .ports, .inbox]) rfl).trans
      (State.writeWord_same (.refl _ t) rfl _ _ _)).parts, fun hx hok => ?_, fun hx => ?_⟩
    · obtain ⟨h1, -, -⟩ := writeWord_stores hr (a := a.toNat) (by rw [hmap, hsound hx]; exact hok) (s.readerOf w) bs
      rw [hmap, hm] at h1
      exact ⟨h1, fun y => by rw [h1]; exact read_merged hc.hbm _ bs y⟩
    · have hlost : (sget? t.hbmBad (t.mapAddr a.toNat / 64)).isSome = true := by
        rw [hmap, hbad hx, sget_sput_self]
        rfl
      obtain ⟨h1, h2⟩ := writeWord_lost hlost (s.readerOf w) hlt
      rw [hmap] at hlost
      exact ⟨h1.trans hm, by rw [h2]; exact hlost⟩
  · subst ha
    have hrun := bar2Read_runs (s := s) hs
    rw [hi, if_pos (by decide)] at hrun
    refine ⟨_, hrun, ((State.accErr_same (.refl (partsMask [.regs, .b2data, .pairs]) s) rfl _ _ _ _ _).trans ((delivered_same _ _).mono rfl)).parts, rfl, ?_, fun hv => ?_⟩
    · exact (delivered_rf _ _ _).trans (accErr_count hc.regs _ _ _ _ _)
    · obtain ⟨-, h2, h3, h4, -⟩ := accNoted_shows (sorted_accRaised hc.regs) u 1 2 off.toNat false
      rw [← accErr_first hv] at h2 h3 h4
      exact ⟨(delivered_rf _ _ _).trans h4, (delivered_rf _ _ _).trans h3, (delivered_rf _ _ _).trans (h2.trans (Nat.mod_eq_of_lt u.2))⟩
  · subst ha
    rw [bar2Read_runs hs, hi, hf]
    rfl
  · subst ha
    rw [bar2Read_runs hs, hi, hf, hw]
    rfl
  · subst ha
    have hrun := bar2Read_runs (s := s) hs
    rw [hi, hf, hw] at hrun
    exact ⟨_, hrun, (((hbmRead_same s _ _ _).mono (N := partsMask [.regs, .b2data, .pairs]) rfl).trans ((delivered_same _ _).mono rfl)).parts, hbmRead_fst _ _ _ _⟩
  · subst ha hn
    have hrun := bar2Write_runs (s := s) hs
    have herr : exec (.bar2Write u off bs) s = .next (s.accErr u 1 true kind off.toNat) := by
      obtain ⟨rfl, hi⟩ | ⟨rfl, hi, hf, hok⟩ := hk
      · rw [hrun, hi]
        rfl
      · rw [hrun, hi, hf, hok]
        rfl
    have hk8 : kind % 2 ^ 3 = kind := by
      obtain ⟨rfl, -⟩ | ⟨rfl, -⟩ := hk <;> rfl
    refine ⟨_, herr, (State.accErr_same (.refl (partsMask [.regs, .pairs]) s) rfl _ _ _ _ _).parts, accErr_count hc.regs _ _ _ _ _, fun hv => ?_⟩
    obtain ⟨-, h2, h3, h4, -⟩ := accNoted_shows (sorted_accRaised hc.regs) u 1 kind off.toNat true
    rw [accErr_first hv]
    exact ⟨h4.trans hk8, h3, h2.trans (Nat.mod_eq_of_lt u.2)⟩
  · subst ha hn
    rw [bar2Write_runs hs, hi]
    obtain hf | ⟨hok, hw⟩ := hbad
    · rw [hf]
      rfl
    · rw [hok, hw]
      cases s.rangeFenced (s.bar2Addr u off.toNat) bs.length <;> rfl
  · subst ha hn
    have hrun := bar2Write_runs (s := s) hs
    rw [hi, hf, hok, hw] at hrun
    exact ⟨_, hrun, (State.hbmWrite_same (.refl (partsMask [.regs, .hbm, .hbmBad, .regions, .coverage, .pairs, .ports, .inbox]) s) rfl _ _ _).parts,
      fun base hmap => hbmWrite_straight hc.regions _ _ base bs hmap⟩
  · subst hi
    exact scrubRead_waits
  · subst hi
    have hrun := scrubRead_runs (x := x) (onDie := onDie) he ha hw
    have hfound := foundIn_frame s (s.scrubPlace f m) x onDie
    have hsort := sorted_foundIn hc.regs (s.scrubPlace f m) x onDie
    have hspare := (((Spares.refl (R.HBM_SCRUB_STAT_ROW f m) s).foundIn (scrub_aside f m) (s.scrubPlace f m) (scrub_ne_odecc _ _ _ _) x onDie).readWordAside
      (scrub_aside f m) (w := .scrub) (fun c h => (Option.some_ne_none c h.symm).elim) (s.scrubPlace f m) 64)
    have hread := readWord_same (s.foundIn (s.scrubPlace f m) x onDie) .scrub (s.scrubPlace f m) 64
    generalize ((s.foundIn (s.scrubPlace f m) x onDie).readWord .scrub (s.scrubPlace f m) 64).2 = t at hrun hspare hread
    have hall := (hfound.mono (N := partsMask [.regs, .hbmBad, .scrubAt, .pairs]) rfl).trans (hread.mono rfl)
    have hat : t.scrubAt = s.scrubAt := (hread.scrubAt.resolve_left (by decide)).trans (hfound.scrubAt.resolve_left (by decide))
    refine ⟨_, hrun, (hall.trans (State.scrubNext_same (.refl _ t) rfl f m)).parts, fun hlt => ?_, fun hge => ?_⟩
    · rw [← hat] at hlt ⊢
      obtain ⟨h1, h2⟩ := scrubNext_within hlt
      exact ⟨h1, (rf_of_regs h2 _).trans (hspare.rf hc.regs)⟩
    · rw [← hat] at hge
      rw [scrubNext_wraps (hspare.sorted hc.regs) hge, hspare.rf hc.regs]

end Sys2Proof.Machine


/-! Creating a context while a collective operation of a context that cannot be waits (R258, R375): O46. -/

namespace Sys2Proof.Machine

/-- An operation that waits in field 0's engine, of a "context" whose commit registers would stand at `FLD_GRAN0`. -/
def strayWait : ColWait := ⟨0x7DBE0, .prefetch, 0, true, [], []⟩

/-- Context 2 owns granule 0 of field 0, whose first byte is 1; `strayWait` waits. -/
def strayBind : State :=
  { ((({} : State).wf R.SEC_BOOT_STAGE 5).wf (R.FLD_GRAN_CTX 0 0) 2).wf (R.FLD_GRAN_OWNED 0 0) 1 with
    engines := [(0, { waiting := [strayWait] })]
    pins := { State.reset.pins with held := false, good := true, running := true }
    hbm := ({} : State).hbm.writeN granSize 0 [1] }

theorem canon_strayBind : strayBind.Canon := by
  constructor <;> decide +kernel

theorem mayWrite_strayBind : strayBind.MayWrite 0 (A.CTX_BIND 2) :=
  ⟨by decide +kernel, by decide +kernel, by decide +kernel⟩

/-- The waiting operation is accepted, found INVALID and blocks its "context's" step: the granule changes its owner before the
reset of context 2 clears what it owns. -/
theorem strayBind_keeps_byte :
    (nextState (exec (.contextCreate 0 2 0x80000000) strayBind)).hbm.read granSize 0 = 1 := by decide +kernel

/-- Refutes O46: the reset that a creation makes lets waiting collective operations of other contexts go on first. One of a context
number beyond 63, whose `CMT_CSTAT` would stand at `FLD_GRAN0`, blocks there and so takes granule 0 from context 2: its memory is
not cleared. -/
theorem not_contextsAndRegionsAreSetUp : ¬ Obligations.ContextsAndRegionsAreSetUp := by
  intro h
  obtain ⟨hcreate, -⟩ := (h 0 2 0x80000000 strayBind canon_strayBind).1 mayWrite_strayBind
  obtain ⟨t, ht, _, _, _, _, _, _, _, _, hclear⟩ := hcreate (by decide) (by decide +kernel)
  have hkept := strayBind_keeps_byte
  rw [ht] at hkept
  have hzero : t.hbm.read granSize 0 = 0 := hclear 0 0 0 (by decide) (by decide +kernel) (by decide +kernel)
  have hone : t.hbm.read granSize 0 = 1 := hkept
  exact absurd (hone.symm.trans hzero) (by decide)

end Sys2Proof.Machine


/-! Fewer virtual functions while a collective operation waits whose descriptor lies beyond the device's memory (R344): O51. -/

namespace Sys2Proof.Machine

/-- An operation that waits in field 0's engine; its descriptor's address would be in a field 4. -/
def strayFetch : ColWait := ⟨2, .prefetch, 2 ^ 41 + 5 * 2 ^ 30, false, [], []⟩

/-- Function 1 has context 1, function 2 has the active queue 32. The register page of stack 0 of field 4 would be the page of queue
32, whose word at the place of `HBM_STAT` reads as "up". -/
def strayFunction : State :=
  { (((((({} : State).wf R.SEC_BOOT_STAGE 5).wf (R.CTX_BIND_CLIENT 1) 1).wf (R.CTX_BIND_VALID 1) 1).wf
      (R.HBM_STAT_STATE 4 0) 2).wf (R.QM_QBINDV_FUNC 32) 2).wf (R.QM_QSTAT_STATE 32) qActive with
    vfs := 2
    engines := [(0, { waiting := [strayFetch] })]
    hbmBad := [((2 ^ 41 + 5 * 2 ^ 30) / 64, ())] }

theorem canon_strayFunction : strayFunction.Canon := by
  constructor <;> decide +kernel

/-- The reset of function 1 lets the waiting operation go on: the report of its descriptor's codeword binds queue 32 to another
function, so that the reset of function 2 does not find it. -/
theorem strayFunction_keeps_queue :
    (nextState (exec (.configurationWrite (.numVfs 0)) strayFunction)).qState 32 ≠ qDisabled := by decide +kernel

/-- Refutes O51: with fewer virtual functions those that go are reset one after the other (log 41). The reset of function 1's context
lets a waiting collective operation go on; its descriptor lies beyond the 2^41 bytes of device memory in an uncorrectable codeword,
whose report falls on `QM_QBINDV` of queue 32. That queue was function 2's and is not disabled. -/
theorem not_deviceAndFunctionResets : ¬ Obligations.DeviceAndFunctionResets := by
  intro h
  obtain ⟨-, hlink⟩ := h
  obtain ⟨-, hvfs, -⟩ := hlink strayFunction canon_strayFunction (by decide +kernel)
  obtain ⟨t, ht, _, _, hqueues, _⟩ := hvfs 0
  have hkept := strayFunction_keeps_queue
  rw [ht] at hkept
  exact hkept (hqueues 32 (by decide +kernel) (by decide +kernel))

end Sys2Proof.Machine


/-! LEND, REMAP and RETIRE (R81, R365, R378, R423, R424): O48. -/

namespace Sys2Proof.Machine

/-! ### Entries of the almanac -/

theorem Spares.almanac {l : Loc} {s0 s : State} (hk : Spares l s0 s) (h : l.addr < Page.almanacBase ∨ Page.almanacBase + 0x1000 ≤ l.addr)
    (event page bit : Nat) (who : Option Nat) (detail : List Byte) (m : Meas) :
    Spares l s0 (s.almanac event page bit who detail m) := by
  have hlost : l.addr ≠ A.ALM_LOST := by
    unfold A.ALM_LOST
    omega
  have hlose : Spares l s0 s.almLose := hk.bump (m := R.ALM_LOST_COUNT) hlost 1
  have herr : l.NoErr Page.almanacBase := Loc.noErr_of_page (h.imp id fun h => Nat.le_trans (Nat.add_le_add_left (by decide) _) h)
  unfold State.almanac
  dsimp only
  split
  · exact hlose.then_regs rfl
  · split
    · exact hk.then_regs rfl
    · split
      · exact (hlose.raiseSrc herr 1).then_regs rfl
      · exact hk.then_regs rfl

theorem Spares.furrowEntry {l : Loc} {s0 s : State} (hk : Spares l s0 s) (h : 0x70000 ≤ l.addr) (event f n k : Nat) (m : Meas) :
    Spares l s0 (s.furrowEntry event f n k m) :=
  hk.almanac (Or.inr (Nat.le_trans (by decide) h)) _ _ _ _ _ _

theorem furrowEntry_same {M : Nat} {s0 s : State} (hk : Same M s0 s) (hM : 52785148067848 ||| M = M) (event f n k : Nat) (m : Meas) :
    Same M s0 (s.furrowEntry event f n k m) :=
  State.almanac_same hk hM _ _ _ _ _ _

/-! ### The effect of a command that finishes OK -/

theorem cmd?_ran {s t v : State} {q : Nat} {w : CmdWord} (h : s.Ran t v q w) (hf : s.cmd? q (s.qStart q) = none)
    (hv : v.queues = (s.started q w).queues) : t.cmd? q (s.qStart q) = some (s.recAt q w (some (okStatus, 0))) := by
  unfold State.cmd? at hf ⊢
  rw [(h.done hv).1]
  dsimp only
  rw [List.find?_append, hf, Option.none_or]
  exact List.find?_cons_of_pos (beq_self_eq_true _)

theorem sorted_started {s : State} (h : Store.Sorted s.regs) (q : Nat) (w : CmdWord) : Store.Sorted (s.started q w).regs :=
  sorted_wf h _ _

theorem furMap_page {f n : Nat} (hf : f < 4) (hn : n < 32) : 0x1000000 ≤ A.FUR_MAP f n ∧ A.FUR_MAP f n < 0x5000000 := by
  unfold A.FUR_MAP Page.furrowBase Page.fieldBase
  omega

theorem fldMap_page {f l : Nat} (hf : f < 4) (hl : l < 24) : 0x1000000 ≤ A.FLD_FURMAP f l ∧ A.FLD_FURMAP f l < 0x5000000 := by
  unfold A.FLD_FURMAP Page.fieldBase
  omega

theorem furMap_ne_fldMap {f n l : Nat} (hl : l < 24) : A.FUR_MAP f n ≠ A.FLD_FURMAP f l := by
  unfold A.FUR_MAP A.FLD_FURMAP Page.furrowBase
  omega

theorem furMap_inj {f n m : Nat} (h : n ≠ m) : A.FUR_MAP f n ≠ A.FUR_MAP f m := by
  unfold A.FUR_MAP Page.furrowBase
  omega

/-! ### RETIRE (R81, R423) -/

/-- R81: the logical furrow that physical furrow `n` carried is vacant. -/
def State.vacated (s : State) (f n : Nat) : State :=
  if s.logical f n < 24 then s.wf (R.FLD_FURMAP_VACANT f (s.logical f n)) 1 else s

/-- R81: the furrow is gated and no longer a shadow engine. -/
def State.withdrawn (s : State) (f n : Nat) : State :=
  { s with
    pwr := { s.pwr with awake := sdel s.pwr.awake (furKey f n) }
    shadows := s.shadows.filter fun x => !(x.field == f && x.engine == n) }

theorem retireFurrow_eq (s : State) (f n : Nat) :
    s.retireFurrow f n = (((s.vacated f n).withdrawn f n).wf (R.FUR_MAP_LOGICAL f n) 31).wf (R.FUR_MAP_STATE f n) 2 := rfl

theorem withdrawn_regs (s : State) (f n : Nat) : (s.withdrawn f n).regs = s.regs := rfl

theorem vacated_frame (s : State) (f n : Nat) : { s.vacated f n with regs := s.regs } = s := by
  unfold State.vacated
  split
  · exact wf_frame s _ _
  · rfl

theorem sorted_vacated {s : State} (h : Store.Sorted s.regs) (f n : Nat) : Store.Sorted (s.vacated f n).regs := by
  unfold State.vacated
  split
  · exact sorted_wf h _ _
  · exact h

theorem sorted_withdrawn {s : State} (h : Store.Sorted s.regs) (f n : Nat) : Store.Sorted ((s.vacated f n).withdrawn f n).regs := by
  rw [withdrawn_regs]
  exact sorted_vacated h f n

theorem Spares.vacated {l : Loc} {s0 s : State} (hk : Spares l s0 s) {f n : Nat}
    (hfld : s.logical f n < 24 → l.Clear (R.FLD_FURMAP_VACANT f (s.logical f n))) : Spares l s0 (s.vacated f n) := by
  unfold State.vacated
  split
  · next h => exact hk.wf (Nat.le_of_ble_eq_true rfl) (hfld h) 1
  · exact hk

theorem Spares.retireFurrow {l : Loc} {s0 s : State} (hk : Spares l s0 s) {f n : Nat} (hfur : l.addr ≠ A.FUR_MAP f n)
    (hfld : s.logical f n < 24 → l.Clear (R.FLD_FURMAP_VACANT f (s.logical f n))) : Spares l s0 (s.retireFurrow f n) := by
  rw [retireFurrow_eq]
  exact (((hk.vacated hfld).then_regs (withdrawn_regs _ f n)).wf_far (m := R.FUR_MAP_LOGICAL f n) hfur 31).wf_far
    (m := R.FUR_MAP_STATE f n) hfur 2

theorem rf_pair_low {s : State} (h : Store.Sorted s.regs) {l m : Loc} (hm : m.Fits) (hl : l.Fits) (hlm : l.Clear m) (v w : Nat) :
    ((s.wf l v).wf m w).rf l = v % 2 ^ l.wid :=
  ((Spares.refl l (s.wf l v)).wf hm hlm w).rf (sorted_wf h _ _) |>.trans (rf_wf_self h hl v)

/-- A retired furrow shows 31 as the furrow that it carries, and its state. -/
theorem retireFurrow_shows {s : State} (h : Store.Sorted s.regs) (f n : Nat) :
    (s.retireFurrow f n).logical f n = 31 ∧ (s.retireFurrow f n).rf (R.FUR_MAP_STATE f n) = 2 := by
  rw [retireFurrow_eq]
  exact ⟨rf_pair_low (l := R.FUR_MAP_LOGICAL f n) (m := R.FUR_MAP_STATE f n) (sorted_withdrawn h f n) (Nat.le_of_ble_eq_true rfl)
      (Nat.le_of_ble_eq_true rfl) (Or.inr (Or.inl (Nat.le_of_ble_eq_true rfl))) 31 2,
    rf_wf_self (l := R.FUR_MAP_STATE f n) (sorted_wf (sorted_withdrawn h f n) _ _) (Nat.le_of_ble_eq_true rfl) 2⟩

theorem vacated_vacant {s : State} (h : Store.Sorted s.regs) {f n : Nat} (hlt : s.logical f n < 24) :
    (s.vacated f n).rf (R.FLD_FURMAP_VACANT f (s.logical f n)) = 1 := by
  unfold State.vacated
  rw [if_pos hlt]
  exact rf_wf_self h (Nat.le_of_ble_eq_true rfl) 1

theorem physical_vacant {s : State} {f l : Nat} (h : s.rf (R.FLD_FURMAP_VACANT f l) = 1) : s.physical f l = none := by
  unfold State.physical State.flag
  rw [h]
  rfl

/-- The furrow that it carried is vacant. -/
theorem retireFurrow_vacates {s : State} (h : Store.Sorted s.regs) {f n l : Nat} (hl : s.logical f n = l) (hlt : l < 24) :
    (s.retireFurrow f n).physical f l = none := by
  subst hl
  refine physical_vacant ((Spares.rf ?_ (sorted_vacated h f n)).trans (vacated_vacant h hlt))
  rw [retireFurrow_eq]
  exact ((Spares.of_regs (withdrawn_regs _ f n)).wf_far (m := R.FUR_MAP_LOGICAL f n) (furMap_ne_fldMap hlt).symm 31).wf_far
    (m := R.FUR_MAP_STATE f n) (furMap_ne_fldMap hlt).symm 2

theorem withdrawn_pwr (s : State) (f n : Nat) :
    (s.withdrawn f n).pwr = { s.pwr with awake := sdel s.pwr.awake (furKey f n) } := rfl

theorem withdrawn_shadows (s : State) (f n : Nat) :
    (s.withdrawn f n).shadows = s.shadows.filter fun x => !(x.field == f && x.engine == n) := rfl

theorem wf_pwr (s : State) (l : Loc) (v : Nat) : (s.wf l v).pwr = s.pwr := rfl

theorem wf_shadows (s : State) (l : Loc) (v : Nat) : (s.wf l v).shadows = s.shadows := rfl

theorem retireFurrow_pwr (s : State) (f n : Nat) :
    (s.retireFurrow f n).pwr = { s.pwr with awake := sdel s.pwr.awake (furKey f n) } := by
  rw [retireFurrow_eq, wf_pwr, wf_pwr, withdrawn_pwr, (congrArg State.pwr (vacated_frame s f n) :)]

theorem retireFurrow_shadows (s : State) (f n : Nat) :
    (s.retireFurrow f n).shadows = s.shadows.filter fun x => !(x.field == f && x.engine == n) := by
  rw [retireFurrow_eq, wf_shadows, wf_shadows, withdrawn_shadows, (congrArg State.shadows (vacated_frame s f n) :)]

theorem sorted_retireFurrow {s : State} (h : Store.Sorted s.regs) (f n : Nat) : Store.Sorted (s.retireFurrow f n).regs := by
  rw [retireFurrow_eq]
  exact sorted_wf (sorted_wf (sorted_withdrawn h f n) _ _) _ _

/-- No shadow operation has the retired furrow as its engine. -/
theorem shadow_filtered {l : List ShadowOp} {f n : Nat} {x : ShadowOp}
    (h : x ∈ l.filter fun x => !(x.field == f && x.engine == n)) : x ∈ l ∧ (x.field = f → x.engine ≠ n) := by
  obtain ⟨hm, hx⟩ := List.mem_filter.mp h
  refine ⟨hm, fun hf hn => ?_⟩
  rw [beq_iff_eq.mpr hf, beq_iff_eq.mpr hn] at hx
  cases hx

/-! ### REMAP (R81, R424) -/

/-- R81: the state before the spare is installed. -/
def State.unmapped (s : State) (f l : Nat) : State :=
  match s.physical f l with
  | some old => s.retireFurrow f old
  | none => s

theorem sorted_unmapped {s : State} (h : Store.Sorted s.regs) (f l : Nat) : Store.Sorted (s.unmapped f l).regs := by
  unfold State.unmapped
  split
  · exact sorted_retireFurrow h _ _
  · exact h

theorem unmapped_same (s : State) (f l : Nat) : Same 281475010265096 s (s.unmapped f l) := by
  unfold State.unmapped
  split
  · exact State.retireFurrow_same (.refl _ s) rfl _ _
  · exact .refl _ s

/-- R81: the spare's stores are cleared, and it is no longer a shadow engine. -/
def State.emptied (s : State) (f n : Nat) : State :=
  let s := { s with shadows := s.shadows.filter fun x => !(x.field == f && x.engine == n) }
  let u := furKey f n * 128
  { s.setFur f n {} with
    seedbed := s.seedbed.clearUnits unit64K u (u + 128)
    glean := s.glean.clearUnits gleanUnit u (u + 128) }

theorem installSpare_eq (s : State) (f l n : Nat) :
    s.installSpare f l n = ((((s.emptied f n).wf (R.FUR_MAP_LOGICAL f n) l).wf (R.FUR_MAP_STATE f n) 0).wf
      (R.FLD_FURMAP_PHYS f l) n).wf (R.FLD_FURMAP_VACANT f l) 0 := rfl

theorem emptied_regs (s : State) (f n : Nat) : (s.emptied f n).regs = s.regs := rfl

theorem physical_occupied {s : State} {f l n : Nat} (h1 : s.rf (R.FLD_FURMAP_VACANT f l) = 0) (h2 : s.rf (R.FLD_FURMAP_PHYS f l) = n) :
    s.physical f l = some n := by
  unfold State.physical State.flag
  rw [h1, h2]
  rfl

/-- What the spare shows: it carries `l`, is in service, and the map names it. -/
theorem installSpare_shows {s : State} (h : Store.Sorted s.regs) {f l n : Nat} (hl : l < 24) (hn : n < 32) :
    (s.installSpare f l n).physical f l = some n ∧ (s.installSpare f l n).logical f n = l ∧
      (s.installSpare f l n).rf (R.FUR_MAP_STATE f n) = 0 := by
  rw [installSpare_eq]
  have h0 : Store.Sorted (s.emptied f n).regs := by
    rw [emptied_regs]
    exact h
  generalize s.emptied f n = u at h0 ⊢
  have h1 := sorted_wf h0 (R.FUR_MAP_LOGICAL f n) l
  have h2 := sorted_wf h1 (R.FUR_MAP_STATE f n) 0
  have h3 := sorted_wf h2 (R.FLD_FURMAP_PHYS f l) n
  have hfar := furMap_ne_fldMap (f := f) (n := n) hl
  refine ⟨physical_occupied (rf_wf_self (l := R.FLD_FURMAP_VACANT f l) h3 (Nat.le_of_ble_eq_true rfl) 0) ?_, ?_, ?_⟩
  · exact (rf_pair_low (l := R.FLD_FURMAP_PHYS f l) (m := R.FLD_FURMAP_VACANT f l) h2 (Nat.le_of_ble_eq_true rfl)
      (Nat.le_of_ble_eq_true rfl) (Or.inr (Or.inl (Nat.le_of_ble_eq_true rfl))) n 0).trans (Nat.mod_eq_of_lt hn)
  · exact (((Spares.refl (R.FUR_MAP_LOGICAL f n) _).wf_far (m := R.FLD_FURMAP_PHYS f l) hfar n).wf_far
      (m := R.FLD_FURMAP_VACANT f l) hfar 0).rf h2 |>.trans
      ((rf_pair_low (l := R.FUR_MAP_LOGICAL f n) (m := R.FUR_MAP_STATE f n) h0 (Nat.le_of_ble_eq_true rfl)
        (Nat.le_of_ble_eq_true rfl) (Or.inr (Or.inl (Nat.le_of_ble_eq_true rfl))) l 0).trans
        (Nat.mod_eq_of_lt (Nat.lt_trans hl (Nat.le_of_ble_eq_true rfl))))
  · exact (((Spares.refl (R.FUR_MAP_STATE f n) _).wf_far (m := R.FLD_FURMAP_PHYS f l) hfar n).wf_far
      (m := R.FLD_FURMAP_VACANT f l) hfar 0).rf h2 |>.trans
      (rf_wf_self (l := R.FUR_MAP_STATE f n) h1 (Nat.le_of_ble_eq_true rfl) 0)

theorem emptied_fur {s : State} (h : Store.Sorted s.furrows) (f n : Nat) : (s.emptied f n).fur f n = {} :=
  fur_setFur_self h f n {}

theorem emptied_seedbed (s : State) (f n : Nat) :
    (s.emptied f n).seedbed = s.seedbed.clearUnits unit64K (furKey f n * 128) (furKey f n * 128 + 128) := rfl

theorem emptied_shadows (s : State) (f n : Nat) :
    (s.emptied f n).shadows = s.shadows.filter fun x => !(x.field == f && x.engine == n) := rfl

theorem emptied_pwr (s : State) (f n : Nat) : (s.emptied f n).pwr = s.pwr := rfl

theorem wf_seedbed (s : State) (l : Loc) (v : Nat) : (s.wf l v).seedbed = s.seedbed := rfl

theorem wf_furrows (s : State) (l : Loc) (v : Nat) : (s.wf l v).furrows = s.furrows := rfl

theorem installSpare_fur {s : State} (h : Store.Sorted s.furrows) (f l n : Nat) : (s.installSpare f l n).fur f n = {} := by
  rw [← emptied_fur h f n, installSpare_eq]
  unfold State.fur
  rw [wf_furrows, wf_furrows, wf_furrows, wf_furrows]

theorem installSpare_seedbed (s : State) (f l n : Nat) :
    (s.installSpare f l n).seedbed = s.seedbed.clearUnits unit64K (furKey f n * 128) (furKey f n * 128 + 128) := by
  rw [installSpare_eq, wf_seedbed, wf_seedbed, wf_seedbed, wf_seedbed, emptied_seedbed]

theorem installSpare_shadows (s : State) (f l n : Nat) :
    (s.installSpare f l n).shadows = s.shadows.filter fun x => !(x.field == f && x.engine == n) := by
  rw [installSpare_eq, wf_shadows, wf_shadows, wf_shadows, wf_shadows, emptied_shadows]

theorem installSpare_pwr (s : State) (f l n : Nat) : (s.installSpare f l n).pwr = s.pwr := by
  rw [installSpare_eq, wf_pwr, wf_pwr, wf_pwr, wf_pwr, emptied_pwr]

theorem Spares.installSpare {l : Loc} {s0 s : State} (hk : Spares l s0 s) {f k n : Nat} (h1 : l.addr ≠ A.FUR_MAP f n)
    (h2 : l.addr ≠ A.FLD_FURMAP f k) : Spares l s0 (s.installSpare f k n) := by
  rw [installSpare_eq]
  exact ((((hk.then_regs (emptied_regs s f n)).wf_far (m := R.FUR_MAP_LOGICAL f n) h1 k).wf_far (m := R.FUR_MAP_STATE f n) h1 0).wf_far
    (m := R.FLD_FURMAP_PHYS f k) h2 n).wf_far (m := R.FLD_FURMAP_VACANT f k) h2 0

/-- A seedbed cleared on one furrow. -/
theorem seedbed_cleared (m : Memory) (k : Nat) :
    (∀ x, x < seedSize → (m.clearUnits unit64K (k * 128) (k * 128 + 128)).read unit64K (k * seedSize + x) = 0) ∧
      ∀ j x, j ≠ k → x < seedSize →
        (m.clearUnits unit64K (k * 128) (k * 128 + 128)).read unit64K (j * seedSize + x) = m.read unit64K (j * seedSize + x) := by
  have hsz : seedSize = 128 * unit64K := by decide
  have hpos : 0 < unit64K := by decide
  refine ⟨fun x hx => Memory.read_clearUnits_in m hpos ?_ ?_, fun j x hj hx => Memory.read_clearUnits_out m hpos ?_⟩
  · rw [Nat.mul_assoc, ← hsz]
    exact Nat.le_add_right _ _
  · rw [Nat.add_mul, Nat.mul_assoc, ← hsz]
    exact Nat.add_lt_add_left hx _
  · rw [Nat.add_mul, Nat.mul_assoc, ← hsz]
    rcases Nat.lt_or_gt_of_ne hj with h | h
    · left
      have := Nat.mul_le_mul_right seedSize h
      rw [Nat.succ_mul] at this
      omega
    · right
      have := Nat.mul_le_mul_right seedSize h
      rw [Nat.succ_mul] at this
      omega

/-! ### LEND (R378) -/

/-- What LEND asks of the mask `l` for context `c`. -/
structure State.Lends (s : State) (c l : Nat) : Prop where
  ctx : c < 64
  resident : s.resident c = true
  mask : l < 16
  rest : s.cstate c = stReset ∨ s.cstate c = stBoundary
  added : ∀ g, g < 4 → l.testBit g = true → s.inMask c g = false → s.isFenced (.field g) = false ∧ s.rf (R.PWR_FLD_STATE g) ≠ 3 ∧
    s.harrowing g = false ∧ s.rf (R.FLD_SBQ_SIZE c g) ≠ 0 ∧ s.rf (R.FLD_ACQ_COUNT c g) ≠ 0
  lost : ∀ g, g < 4 → l.testBit g = false → s.inMask c g = true → s.homes c g = false ∧ ∀ e ∈ s.regions,
    ¬ (e.2.valid = true ∧ e.2.mirrorRole = true ∧ e.2.ctx = c ∧ e.2.field = g)

/-- R378: the effect of LEND. -/
def State.lendTo (c l : Nat) (lost : List Nat) (s : State) : State :=
  lost.foldl (fun s f => s.loseField c f) (s.wf (R.CTX_FMASK_MASK c) l)

theorem execLend_of_lends {q : Fin 8192} {s : State} {w : CmdWord} {c l : Nat} (hc : c = cmdAt w 32 1) (hl : l = cmdAt w 33 1)
    (h : s.Lends c l) (hr : s.MayRun q 0x48 w) (hz : lowest (reservedBytes w 34 30) = none) :
    execLend q s = .next (s.launchCmd q w (thenOk q (s.qStart q)
      (State.lendTo c l ((List.range 4).filter fun g => !l.testBit g && s.inMask c g)))) := by
  obtain ⟨h64, hres, h16, hrest, hadd, hlost⟩ := h
  refine congrArg Host.Outcome.next (runCmd_run hr ?_)
  dsimp only
  rw [← hc, ← hl, Nat.mod_eq_of_lt h64, Nat.div_eq_of_lt h64, Nat.div_eq_of_lt h16, hres]
  have hbytes : (reservedBytes w 34 30).any Prod.fst = false := by
    refine List.any_eq_false.mpr fun e he => ?_
    rw [not_of_lowest_none hz e he]
    decide
  have hargs : lowest [((0 != 0 || !true), 32), ((0 != 0 || (reservedBytes w 34 30).any Prod.fst), 33)] = none := by
    rw [hbytes]
    rfl
  rw [argsThen_none hargs, if_neg (by tauto)]
  have hany : ∀ g, g ∈ (List.range 4).filter (fun f => l.testBit f && !s.inMask c f) →
      g < 4 ∧ l.testBit g = true ∧ s.inMask c g = false := fun g hg => by
    obtain ⟨h1, h2⟩ := List.mem_filter.mp hg
    rw [Bool.and_eq_true, Bool.not_eq_true'] at h2
    exact ⟨List.mem_range.mp h1, h2⟩
  have hfree : (((List.range 4).filter fun f => l.testBit f && !s.inMask c f).any fun f =>
      s.isFenced (.field f) || s.rf (R.PWR_FLD_STATE f) == 3 || s.harrowing f) = false := by
    refine List.any_eq_false.mpr fun g hg => ?_
    obtain ⟨h1, h2, h3, -, -⟩ := hadd g (hany g hg).1 (hany g hg).2.1 (hany g hg).2.2
    rw [h1, beq_eq_false_iff_ne.mpr h2, h3]
    decide
  have hquota : (((List.range 4).filter fun f => l.testBit f && !s.inMask c f).any fun f =>
      s.rf (R.FLD_SBQ_SIZE c f) == 0 || s.rf (R.FLD_ACQ_COUNT c f) == 0) = false := by
    refine List.any_eq_false.mpr fun g hg => ?_
    obtain ⟨-, -, -, h4, h5⟩ := hadd g (hany g hg).1 (hany g hg).2.1 (hany g hg).2.2
    rw [beq_eq_false_iff_ne.mpr h4, beq_eq_false_iff_ne.mpr h5]
    decide
  have hkept : (((List.range 4).filter fun f => !l.testBit f && s.inMask c f).any fun f =>
      s.homes c f || s.regions.any fun e => e.2.valid && e.2.mirrorRole && e.2.ctx == c && e.2.field == f) = false := by
    refine List.any_eq_false.mpr fun g hg => ?_
    obtain ⟨h1, h2⟩ := List.mem_filter.mp hg
    rw [Bool.and_eq_true, Bool.not_eq_true'] at h2
    obtain ⟨h3, h4⟩ := hlost g (List.mem_range.mp h1) h2.1 h2.2
    rw [h3, Bool.false_or, Bool.not_eq_true]
    refine List.any_eq_false.mpr fun e he => ?_
    simpa [and_assoc] using h4 e he
  rw [hfree, hquota, hkept]
  rfl

theorem lendTo_started (s : State) (q : Nat) (w : CmdWord) (c l : Nat) (lost : List Nat) :
    State.lendTo c l lost (s.started q w) = lost.foldl (fun s f => s.loseField c f) ((s.started q w).wf (R.CTX_FMASK_MASK c) l) := rfl

/-- With no field lost the context's mask is the one given. -/
theorem lendTo_mask {s : State} (h : Store.Sorted s.regs) {c l : Nat} (hl : l < 16) : (State.lendTo c l [] s).rf (R.CTX_FMASK_MASK c) = l :=
  (rf_wf_self (l := R.CTX_FMASK_MASK c) h (Nat.le_of_ble_eq_true rfl) l).trans (Nat.mod_eq_of_lt hl)

/-! ### The three commands -/

/-- R81, R424: the effect of REMAP. -/
def State.remapTo (f l n : Nat) (m : Meas) (s : State) : State := ((s.unmapped f l).installSpare f l n).furrowEntry 6 f n l m

/-- R81, R423: the effect of RETIRE. -/
def State.retireTo (f n : Nat) (m : Meas) (s : State) : State := (s.retireFurrow f n).furrowEntry 5 f n (s.logical f n) m

theorem execRemap_of_legal {q : Fin 8192} {s : State} {w : CmdWord} {f l n : Nat} (m : Meas) (hf : f = cmdAt w 32 1)
    (hl : l = cmdAt w 33 1) (hn : n = cmdAt w 34 1) (h4 : f < 4) (hfence : s.isFenced (.field f) = false)
    (hh : s.harrowing f = false) (hr : s.MayRun q 0x49 w) (h24 : l < 24) (hs : n = 24 ∨ n = 25)
    (hz : lowest (reservedBytes w 35 29) = none) (hidle : s.fieldIdle f = true) (hst : s.rf (R.FUR_MAP_STATE f n) = 1) :
    execRemap q m s = .next (s.launchCmd q w (thenOk q (s.qStart q) (State.remapTo f l n m))) := by
  refine congrArg Host.Outcome.next (runCmd_run hr ?_)
  dsimp only
  rw [← hf, ← hl, ← hn]
  have hspare : (n != 24 && n != 25) = false := by
    rcases hs with rfl | rfl <;> rfl
  have hargs : lowest ([(decide (f ≥ 4), 32), (decide (l ≥ 24), 33), (n != 24 && n != 25, 34)] ++ reservedBytes w 35 29) = none := by
    rw [lowest_append, hz, decide_eq_false (Nat.not_le.mpr h4), decide_eq_false (Nat.not_le.mpr h24), hspare]
    rfl
  rw [argsThen_none hargs, hfence, hidle, hst, hh]
  rfl

theorem execRetire_of_legal {q : Fin 8192} {s : State} {w : CmdWord} {f n : Nat} (m : Meas) (hf : f = cmdAt w 32 1)
    (hn : n = cmdAt w 33 1) (h4 : f < 4) (hfence : s.isFenced (.field f) = false) (hh : s.harrowing f = false)
    (hr : s.MayRun q 0x4A w) (h26 : n < 26) (hz : lowest (reservedBytes w 34 30) = none) (hret : s.retired f n = false)
    (hidle : s.logical f n ≥ 24 ∨ s.fieldIdle f = true) :
    execRetire q m s = .next (s.launchCmd q w (thenOk q (s.qStart q) (State.retireTo f n m))) := by
  refine congrArg Host.Outcome.next (runCmd_run hr ?_)
  dsimp only
  rw [← hf, ← hn]
  have hbusy : (decide (s.logical f n < 24) && !s.fieldIdle f) = false := by
    rcases hidle with h | h
    · rw [decide_eq_false (Nat.not_lt.mpr h)]
      rfl
    · rw [h, Bool.not_true, Bool.and_false]
  have hargs : lowest ([(decide (f ≥ 4), 32), (decide (n ≥ 26), 33)] ++ reservedBytes w 34 30) = none := by
    rw [lowest_append, hz, decide_eq_false (Nat.not_le.mpr h4), decide_eq_false (Nat.not_le.mpr h26)]
    rfl
  rw [argsThen_none hargs, hfence, hret, hbusy, hh]
  rfl

theorem physical_of_spares {s t : State} {f l : Nat} (h1 : t.rf (R.FLD_FURMAP_VACANT f l) = s.rf (R.FLD_FURMAP_VACANT f l))
    (h2 : t.rf (R.FLD_FURMAP_PHYS f l) = s.rf (R.FLD_FURMAP_PHYS f l)) : t.physical f l = s.physical f l := by
  unfold State.physical State.flag
  rw [h1, h2]

theorem logical_started (s : State) (q : Nat) (w : CmdWord) {f n : Nat} (hf : f < 4) (hn : n < 32) :
    (s.started q w).logical f n = s.logical f n :=
  (lowRegs_started s q w).rf (l := R.FUR_MAP_LOGICAL f n) (furMap_page hf hn).2

/-- What stands after a command whose effect ends with an entry of the almanac. -/
theorem rf_ran_entry {s t u : State} {q : Nat} {w : CmdWord} {event f n k : Nat} {m : Meas}
    (h : s.Ran t (u.furrowEntry event f n k m) q w) (hu : Store.Sorted u.regs) {l : Loc} (hl : 0x70000 ≤ l.addr) : t.rf l = u.rf l :=
  (rf_congr (h.regs l.addr fun x hx => commit_ne_job hl x hx)).trans (((Spares.refl l u).furrowEntry hl event f n k m).rf hu)

theorem parts_ran_entry {s t u : State} {q : Nat} {w : CmdWord} {event f n k : Nat} {m : Meas}
    (h : s.Ran t (u.furrowEntry event f n k m) q w) :
    t.pwr = u.pwr ∧ t.shadows = u.shadows ∧ t.seedbed = u.seedbed ∧ t.furrows = u.furrows := by
  have he := furrowEntry_same (.refl 52785148067848 u) rfl event f n k m
  exact ⟨(h.parts .pwr (by decide)).trans (he.pwr.resolve_left (by decide)),
    (h.parts .shadows (by decide)).trans (he.shadows.resolve_left (by decide)),
    (h.parts .seedbed (by decide)).trans (he.seedbed.resolve_left (by decide)),
    (h.parts .furrows (by decide)).trans (he.furrows.resolve_left (by decide))⟩

theorem fur_of_furrows {s t : State} (h : t.furrows = s.furrows) (f n : Nat) : t.fur f n = s.fur f n := by
  unfold State.fur
  rw [h]

theorem retired_of_state {s : State} {f n : Nat} (h : s.rf (R.FUR_MAP_STATE f n) = 2) : s.retired f n = true := by
  unfold State.retired
  rw [h]
  rfl

theorem unmapped_of_physical {s : State} {f l old : Nat} (h : s.physical f l = some old) : s.unmapped f l = s.retireFurrow f old := by
  unfold State.unmapped
  rw [h]

theorem seedbed_started (s : State) (q : Nat) (w : CmdWord) : (s.started q w).seedbed = s.seedbed := rfl

theorem pwr_started (s : State) (q : Nat) (w : CmdWord) : (s.started q w).pwr = s.pwr := rfl

theorem shadows_started (s : State) (q : Nat) (w : CmdWord) : (s.started q w).shadows = s.shadows := rfl

/-- Settles O48: each command's effect, then what its registers and stores show. -/
theorem lendRemapAndRetire : Obligations.LendRemapAndRetire := by
  intro q m s w f n l hc hf
  refine ⟨fun hr hl h64 hres h16 hz hrest hadd hlost => ?_, fun h4 hfence hh => ⟨fun hr hl hn h24 hs hz hidle hst => ?_,
    fun hr hn h26 hz hret hidle => ?_⟩⟩
  · refine ⟨_, execLend_of_lends hf hl ⟨h64, hres, h16, hrest, hadd, hlost⟩ hr hz, ran_launchCmd hc hr _, fun hkeep => ?_⟩
    have hnone : ((List.range 4).filter fun g => !l.testBit g && s.inMask f g) = [] := by
      refine List.filter_eq_nil_iff.mpr fun g hg => ?_
      rw [Bool.and_eq_true, Bool.not_eq_true']
      exact fun h => Bool.false_ne_true (h.1.symm.trans (hkeep g (List.mem_range.mp hg) h.2))
    rw [hnone, rf_launched s q w _ (l := R.CTX_FMASK_MASK f) (by
      show 0x70000 ≤ A.CTX_FMASK f
      unfold A.CTX_FMASK Page.contextBase
      omega)]
    exact lendTo_mask (sorted_started hc.regs q w) h16
  · have hexec := execRemap_of_legal m hf hl hn h4 hfence hh hr h24 hs hz hidle hst
    have hn32 : n < 32 := by omega
    obtain ⟨u, hu⟩ : ∃ u, u = (s.started q w).unmapped f l := ⟨_, rfl⟩
    have hcan := canon_started hc q w
    have hphys : (s.started q w).physical f l = s.physical f l := physical_started s q w f h24
    have hsu : Store.Sorted u.regs := hu ▸ sorted_unmapped hcan.regs f l
    have hsf : Store.Sorted u.furrows := by
      rw [hu, (unmapped_same (s.started q w) f l).furrows.resolve_left (by decide)]
      exact hcan.furrows
    have hran : s.Ran (s.launchCmd q w (thenOk q (s.qStart q) (State.remapTo f l n m))) ((u.installSpare f l n).furrowEntry 6 f n l m) q w := by
      subst hu
      exact ran_launchCmd hc hr (State.remapTo f l n m)
    have hsi : Store.Sorted (u.installSpare f l n).regs := ((Spares.refl ⟨0, 0, 0⟩ u).installSpare
      (fun h => absurd (furMap_page h4 hn32).1 (h ▸ by decide)) (fun h => absurd (fldMap_page h4 h24).1 (h ▸ by decide))).sorted hsu
    have hqueues : ((u.installSpare f l n).furrowEntry 6 f n l m).queues = (s.started q w).queues := by
      rw [(furrowEntry_same (.refl 52785148067848 (u.installSpare f l n)) rfl 6 f n l m).queues.resolve_left (by decide),
        (State.installSpare_same (.refl 40894472 u) rfl f l n).queues.resolve_left (by decide), hu,
        (unmapped_same (s.started q w) f l).queues.resolve_left (by decide)]
    generalize hts : s.launchCmd q w (thenOk q (s.qStart q) (State.remapTo f l n m)) = t at hran hexec
    obtain ⟨hpwr, hshadows, hseed, hfur⟩ := parts_ran_entry hran
    have hrf : ∀ x : Loc, 0x70000 ≤ x.addr → t.rf x = (u.installSpare f l n).rf x := fun x hx => rf_ran_entry hran hsi hx
    obtain ⟨hp, hlog, hstate⟩ := installSpare_shows hsu h24 hn32 (n := n)
    have hfm : 0x70000 ≤ A.FUR_MAP f n := Nat.le_trans (by decide) (furMap_page h4 hn32).1
    have hfl : 0x70000 ≤ A.FLD_FURMAP f l := Nat.le_trans (by decide) (fldMap_page h4 h24).1
    obtain ⟨hin, hout⟩ := seedbed_cleared u.seedbed (furKey f n)
    have hus : u.seedbed = s.seedbed := by
      rw [hu, (unmapped_same (s.started q w) f l).seedbed.resolve_left (by decide), seedbed_started]
    refine ⟨t, hexec, sameBut_of_next (c := .remap q m) hexec, cmd?_ran hran hr.fresh hqueues,
      (physical_of_spares (hrf (R.FLD_FURMAP_VACANT f l) hfl) (hrf (R.FLD_FURMAP_PHYS f l) hfl)).trans hp,
      (hrf (R.FUR_MAP_LOGICAL f n) hfm).trans hlog, (hrf (R.FUR_MAP_STATE f n) hfm).trans hstate,
      (fur_of_furrows hfur f n).trans (installSpare_fur hsf f l n), fun x hx => ?_, fun k hk x hx => ?_, fun x hx => ?_,
      fun old hold h26 hne => ?_⟩
    · rw [hseed, installSpare_seedbed]
      exact hin x hx
    · rw [hseed, installSpare_seedbed, hout _ x hk hx, hus]
    · rw [hshadows, installSpare_shadows] at hx
      exact (shadow_filtered hx).2
    · have hold32 : old < 32 := Nat.lt_trans h26 (by decide)
      have hur : u = (s.started q w).retireFurrow f old := hu.trans (unmapped_of_physical (hphys.trans hold))
      obtain ⟨h31, h2⟩ := retireFurrow_shows hcan.regs f old
      have hofm : 0x70000 ≤ A.FUR_MAP f old := Nat.le_trans (by decide) (furMap_page h4 hold32).1
      have hsp : ∀ x : Loc, x.addr = A.FUR_MAP f old → (u.installSpare f l n).rf x = u.rf x := fun x hx =>
        ((Spares.refl x u).installSpare (ne_of_eq_of_ne hx (furMap_inj hne)) (ne_of_eq_of_ne hx (furMap_ne_fldMap h24))).rf hsu
      refine ⟨(hrf (R.FUR_MAP_STATE f old) hofm).trans ((hsp _ rfl).trans (hur ▸ h2)),
        (hrf (R.FUR_MAP_LOGICAL f old) hofm).trans ((hsp _ rfl).trans (hur ▸ h31)), ?_⟩
      rw [hpwr, installSpare_pwr, hur, retireFurrow_pwr, pwr_started]
  · have hexec := execRetire_of_legal m hf hn h4 hfence hh hr h26 hz hret hidle
    have hn32 : n < 32 := Nat.lt_trans h26 (by decide)
    have hcan := canon_started hc q w
    have hlog := logical_started s q w h4 hn32
    have hran := ran_launchCmd hc hr (State.retireTo f n m)
    have hqueues : (State.retireTo f n m (s.started q w)).queues = (s.started q w).queues := by
      unfold State.retireTo
      rw [(furrowEntry_same (.refl 52785148067848 ((s.started q w).retireFurrow f n)) rfl 5 f n _ m).queues.resolve_left (by decide),
        (State.retireFurrow_same (.refl 281475010265096 (s.started q w)) rfl f n).queues.resolve_left (by decide)]
    generalize s.launchCmd q w (thenOk q (s.qStart q) (State.retireTo f n m)) = t at hran hexec
    have hcmd := cmd?_ran hran hr.fresh hqueues
    obtain ⟨hpwr, hshadows, -, -⟩ := parts_ran_entry hran
    have hsr := sorted_retireFurrow hcan.regs f n
    have hfm : 0x70000 ≤ A.FUR_MAP f n := Nat.le_trans (by decide) (furMap_page h4 hn32).1
    obtain ⟨h31, h2⟩ := retireFurrow_shows hcan.regs f n
    refine ⟨t, hexec, sameBut_of_next (c := .retire q m) hexec, hcmd, retired_of_state ((rf_ran_entry hran hsr hfm).trans h2),
      (rf_ran_entry hran hsr (l := R.FUR_MAP_LOGICAL f n) hfm).trans h31, fun h24 => ?_, ?_, fun x hx => ?_⟩
    · have hfl : 0x70000 ≤ A.FLD_FURMAP f (s.logical f n) := Nat.le_trans (by decide) (fldMap_page h4 h24).1
      exact (physical_of_spares (rf_ran_entry hran hsr (l := R.FLD_FURMAP_VACANT f _) hfl)
        (rf_ran_entry hran hsr (l := R.FLD_FURMAP_PHYS f _) hfl)).trans (retireFurrow_vacates hcan.regs hlog h24)
    · rw [hpwr, retireFurrow_pwr, pwr_started]
    · rw [hshadows, retireFurrow_shadows, shadows_started] at hx
      exact shadow_filtered hx

end Sys2Proof.Machine


/-! Limits and brakes of power (R455 to R467, R477, R526): O53. -/

namespace Sys2Proof.Machine

/-! ### Events to management change no other register (R517) -/

theorem mgEventOn_reg (s : State) (b kind : Nat) (rest : List Byte) {a : Nat} (h : a ≠ A.STD_MG_EVDROP) :
    (s.mgEventOn b kind rest).reg a = s.reg a := by
  unfold State.mgEventOn
  dsimp only
  split
  · rfl
  · split
    · exact reg_wf_ne (l := R.STD_MG_EVDROP_COUNT) s _ h
    · rfl

theorem mgEvent_reg (s : State) (kind : Nat) (rest : List Byte) {a : Nat} (h : a ≠ A.STD_MG_EVDROP) :
    (s.mgEvent kind rest).reg a = s.reg a :=
  (mgEventOn_reg _ 1 kind rest h).trans (mgEventOn_reg s 0 kind rest h)

theorem noteForecast_reg (s old : State) (edge : Bool) {a : Nat} (h : a ≠ A.STD_MG_EVDROP) : (s.noteForecast old edge).reg a = s.reg a := by
  unfold State.noteForecast
  dsimp only
  split
  · exact mgEvent_reg s _ _ h
  · rfl

theorem notePower_reg (s old : State) (acts : Bool) {a : Nat} (h : a ≠ A.STD_MG_EVDROP) : (s.notePower old acts).reg a = s.reg a := by
  unfold State.notePower
  split
  · exact mgEvent_reg s _ _ h
  · rfl

theorem noteForecast_pwr (s old : State) (edge : Bool) : (s.noteForecast old edge).pwr = s.pwr :=
  (State.noteForecast_same (.refl 1125899906842632 s) rfl old edge).pwr.resolve_left (by decide)

theorem notePower_pwr (s old : State) (acts : Bool) : (s.notePower old acts).pwr = s.pwr :=
  (State.notePower_same (.refl 1125899906842632 s) rfl old acts).pwr.resolve_left (by decide)

theorem noteForecast_now (s old : State) (edge : Bool) : (s.noteForecast old edge).now = s.now :=
  (State.noteForecast_same (.refl 1125899906842632 s) rfl old edge).now.resolve_left (by decide)

theorem power_ne_evdrop {k : Nat} (h : k < 0x1000) : Page.powerBase + k ≠ A.STD_MG_EVDROP := by
  unfold Page.powerBase A.STD_MG_EVDROP Page.mgmtBase
  omega

theorem rf_noteForecast (s old : State) (edge : Bool) {l : Loc} (h : l.addr ≠ A.STD_MG_EVDROP) :
    (s.noteForecast old edge).rf l = s.rf l := rf_congr (noteForecast_reg s old edge h)

theorem rf_notePower (s old : State) (acts : Bool) {l : Loc} (h : l.addr ≠ A.STD_MG_EVDROP) :
    (s.notePower old acts).rf l = s.rf l := rf_congr (notePower_reg s old acts h)

/-! ### A minute boundary (R460, R461, R465) -/

/-- R460: the minutes have moved up. -/
def State.shifted (s : State) : State :=
  { s.wf R.PWR_FC_MIN_MIN (s.rf R.PWR_FC_MIN_MIN + 1) with
    pwr :=
      { s.pwr with
        ceils := s.pwr.ceils.drop 1 ++ [s.ceilTarget none], caps := s.pwr.caps.drop 1 ++ [none], edge := s.pwr.edge + minuteTicks } }

theorem minuteEdge_eq (s : State) : s.minuteEdge = s.shifted.noteForecast s true := rfl

theorem shifted_pwr (s : State) : s.shifted.pwr =
    { s.pwr with
      ceils := s.pwr.ceils.drop 1 ++ [s.ceilTarget none], caps := s.pwr.caps.drop 1 ++ [none], edge := s.pwr.edge + minuteTicks } := rfl

theorem shifted_regs (s : State) : s.shifted.regs = (s.wf R.PWR_FC_MIN_MIN (s.rf R.PWR_FC_MIN_MIN + 1)).regs := rfl

theorem shifted_reg (s : State) {a : Nat} (h : a ≠ A.PWR_FC_MIN) : s.shifted.reg a = s.reg a :=
  (reg_of_regs (shifted_regs s) a).trans (reg_wf_ne (l := R.PWR_FC_MIN_MIN) s _ h)

theorem shifted_now (s : State) : s.shifted.now = s.now := rfl

theorem sorted_shifted {s : State} (h : Store.Sorted s.regs) : Store.Sorted s.shifted.regs := by
  rw [shifted_regs]
  exact sorted_wf h _ _

theorem minuteEdge_pwr (s : State) : s.minuteEdge.pwr =
    { s.pwr with
      ceils := s.pwr.ceils.drop 1 ++ [s.ceilTarget none], caps := s.pwr.caps.drop 1 ++ [none], edge := s.pwr.edge + minuteTicks } := by
  rw [minuteEdge_eq, noteForecast_pwr, shifted_pwr]

theorem minuteEdge_reg (s : State) {a : Nat} (h1 : a ≠ A.PWR_FC_MIN) (h2 : a ≠ A.STD_MG_EVDROP) : s.minuteEdge.reg a = s.reg a := by
  rw [minuteEdge_eq, noteForecast_reg _ _ _ h2, shifted_reg s h1]

theorem minuteEdge_minute {s : State} (h : Store.Sorted s.regs) :
    s.minuteEdge.rf R.PWR_FC_MIN_MIN = (s.rf R.PWR_FC_MIN_MIN + 1) % 2 ^ 32 := by
  rw [minuteEdge_eq, rf_noteForecast _ _ _ (l := R.PWR_FC_MIN_MIN) (power_ne_evdrop (by decide)), rf_of_regs (shifted_regs s)]
  exact rf_wf_self h (l := R.PWR_FC_MIN_MIN) (Nat.le_of_ble_eq_true rfl) _

/-- What a boundary that is due leaves as it is. -/
structure State.SameLimits (s d : State) : Prop where
  reg : ∀ a, a ≠ A.PWR_FC_MIN → a ≠ A.STD_MG_EVDROP → d.reg a = s.reg a
  now : d.now = s.now
  lastAllot : d.pwr.lastAllot = s.pwr.lastAllot
  lastCap : d.pwr.lastCap = s.pwr.lastCap
  aHist : d.pwr.aHist = s.pwr.aHist

theorem dueBoundary_limits (s : State) : s.SameLimits s.dueBoundary := by
  unfold State.dueBoundary
  split
  · exact ⟨fun _ _ _ => rfl, rfl, rfl, rfl, rfl⟩
  · have hp := minuteEdge_pwr s
    refine ⟨fun a h1 h2 => minuteEdge_reg s h1 h2, (noteForecast_now _ _ _).trans (shifted_now s),
      (congrArg PwrSt.lastAllot hp :), (congrArg PwrSt.lastCap hp :), (congrArg PwrSt.aHist hp :)⟩

theorem State.SameLimits.allot {s d : State} (h : s.SameLimits d) : d.allot = s.allot :=
  rf_congr (h.reg A.PWR_ALLOT (by decide) (by decide))

/-! ### Ceilings (R456, R461) -/

/-- R461: the ceilings that follow from the allotment and the caps. -/
def State.ceilings (s : State) : List Nat :=
  (List.range 8).map fun j =>
    let t := s.ceilTarget (s.pwr.caps.getD j none)
    if j ≤ 1 then min (s.pwr.ceils.getD j 320) t else t

theorem recompute_eq (s : State) : s.recompute = s.setCeils s.ceilings := rfl

theorem setCeils_ceils (s : State) (l : List Nat) : (s.setCeils l).pwr.ceils = l := rfl

theorem setCeils_caps (s : State) (l : List Nat) : (s.setCeils l).pwr.caps = s.pwr.caps := rfl

theorem setCeils_edge (s : State) (l : List Nat) : (s.setCeils l).pwr.edge = s.pwr.edge := rfl

theorem setCeils_aHist (s : State) (l : List Nat) : (s.setCeils l).pwr.aHist = s.pwr.aHist := rfl

theorem setCeils_regs (s : State) (l : List Nat) : (s.setCeils l).regs = s.regs := rfl

theorem ceilings_get (s : State) {j : Nat} (h : j < 8) :
    s.ceilings[j]? = some (if j ≤ 1 then min (s.pwr.ceils.getD j 320) (min s.allot ((s.pwr.caps.getD j none).getD 320))
      else min s.allot ((s.pwr.caps.getD j none).getD 320)) := by
  unfold State.ceilings
  rw [List.getElem?_map, List.getElem?_range h]
  rfl

/-! ### The allotment (R455, R465) -/

/-- R455: the allotment of state `d` becomes `a`; its old value is remembered with the changes `h`. -/
def State.allotted (d : State) (mgmt : Bool) (a : Nat) (h : List Change) : State :=
  { d with pwr := { d.pwr with
      aHist := h.filter fun e => d.now ≤ e.at_ + 100 * msTicks, lastAllot := some (d.now, mgmt) } }.wf R.PWR_ALLOT_ALLOT a

theorem allotted_regs (d : State) (mgmt : Bool) (a : Nat) (h : List Change) : (d.allotted mgmt a h).regs = (d.wf R.PWR_ALLOT_ALLOT a).regs := rfl

theorem allotted_pwr (d : State) (mgmt : Bool) (a : Nat) (h : List Change) : (d.allotted mgmt a h).pwr =
    { d.pwr with aHist := h.filter fun e => d.now ≤ e.at_ + 100 * msTicks, lastAllot := some (d.now, mgmt) } := rfl

theorem setAllot_outside (s : State) (mgmt : Bool) {a : Nat} (h : a < 60 ∨ 320 < a) : s.setAllot mgmt a = s := by
  unfold State.setAllot
  rw [if_pos h]

/-- R465: whether the other side has set the allotment in this cycle. -/
def State.allotTie (d : State) (mgmt : Bool) : Bool := d.pwr.lastAllot == some (d.now, !mgmt)

/-- R465: the changes of the allotment that stay remembered. -/
def State.allotChanges (d : State) (mgmt : Bool) (a : Nat) : List Change :=
  if a = d.allot || d.allotTie mgmt then d.pwr.aHist else ⟨d.now, d.allot⟩ :: d.pwr.aHist

theorem setAllot_inside (s : State) (mgmt : Bool) {a : Nat} (h : ¬ (a < 60 ∨ 320 < a)) : s.setAllot mgmt a =
    if s.dueBoundary.allotTie mgmt && s.dueBoundary.allot ≤ a then s.dueBoundary
    else (s.dueBoundary.allotted mgmt a (s.dueBoundary.allotChanges mgmt a)).recompute.noteForecast s.dueBoundary false := by
  unfold State.setAllot
  rw [if_neg h]
  rfl

/-- What an allotment that is taken leaves. -/
structure State.AllotTaken (d t : State) (a : Nat) (h : List Change) : Prop where
  allot : t.allot = a
  reg : ∀ x, x ≠ A.PWR_ALLOT → x ≠ A.STD_MG_EVDROP → t.reg x = d.reg x
  ceils : ∀ j, j < 8 → t.pwr.ceils[j]? = some (if j ≤ 1 then min (d.pwr.ceils.getD j 320) (min a ((d.pwr.caps.getD j none).getD 320))
    else min a ((d.pwr.caps.getD j none).getD 320))
  caps : t.pwr.caps = d.pwr.caps
  edge : t.pwr.edge = d.pwr.edge
  aHist : t.pwr.aHist = h.filter fun e => d.now ≤ e.at_ + 100 * msTicks

theorem allotTaken {d : State} (hc : Store.Sorted d.regs) (mgmt : Bool) {a : Nat} (ha : a < 512) (h : List Change) (old : State) :
    d.AllotTaken ((d.allotted mgmt a h).recompute.noteForecast old false) a h := by
  have hallot : (d.allotted mgmt a h).allot = a :=
    ((rf_of_regs (allotted_regs d mgmt a h) _).trans (rf_wf_self (l := R.PWR_ALLOT_ALLOT) hc (Nat.le_of_ble_eq_true rfl) a)).trans
      (Nat.mod_eq_of_lt ha)
  have hp := noteForecast_pwr (d.allotted mgmt a h).recompute old false
  rw [recompute_eq] at hp ⊢
  have hpwr := allotted_pwr d mgmt a h
  refine ⟨?_, fun x h1 h2 => ?_, fun j hj => ?_, ?_, ?_, ?_⟩
  · exact (rf_noteForecast _ _ _ (l := R.PWR_ALLOT_ALLOT) (by decide)).trans ((rf_of_regs (setCeils_regs _ _) _).trans hallot)
  · rw [noteForecast_reg _ _ _ h2, reg_of_regs (setCeils_regs _ _), reg_of_regs (allotted_regs d mgmt a h)]
    exact reg_wf_ne (l := R.PWR_ALLOT_ALLOT) d _ h1
  · rw [hp, setCeils_ceils, ceilings_get _ hj, hallot, hpwr]
  · rw [hp, setCeils_caps, hpwr]
  · rw [hp, setCeils_edge, hpwr]
  · rw [hp, setCeils_aHist, hpwr]

/-- R465: of two values in one cycle the lower one stays. -/
theorem setAllot_tie {s : State} (hc : s.Canon) {mgmt : Bool} {a : Nat} (h : ¬ (a < 60 ∨ 320 < a))
    (ht : s.pwr.lastAllot = some (s.now, !mgmt)) :
    (s.setAllot mgmt a).allot = min s.allot a ∧ (s.allot ≤ a → s.setAllot mgmt a = s.dueBoundary) := by
  have hd := dueBoundary_limits s
  have htie : s.dueBoundary.allotTie mgmt = true := by
    unfold State.allotTie
    rw [hd.lastAllot, hd.now, ht]
    exact beq_self_eq_true _
  rw [setAllot_inside s mgmt h, htie, Bool.true_and, hd.allot]
  by_cases hle : s.allot ≤ a
  · rw [if_pos (decide_eq_true hle), hd.allot]
    exact ⟨(Nat.min_eq_left hle).symm, fun _ => rfl⟩
  · rw [if_neg (by simpa using hle)]
    exact ⟨(allotTaken ((State.dueBoundary_keeps (.refl s)).canon hc).regs mgmt (by omega) _ _).allot.trans
      (Nat.min_eq_right (by omega)).symm, fun hx => absurd hx hle⟩

theorem setAllot_alone {s : State} (hc : s.Canon) {mgmt : Bool} {a : Nat} (h : ¬ (a < 60 ∨ 320 < a))
    (ht : s.pwr.lastAllot ≠ some (s.now, !mgmt)) :
    s.dueBoundary.AllotTaken (s.setAllot mgmt a) a (if a = s.allot then s.pwr.aHist else ⟨s.now, s.allot⟩ :: s.pwr.aHist) := by
  have hd := dueBoundary_limits s
  have htie : s.dueBoundary.allotTie mgmt = false := by
    unfold State.allotTie
    rw [hd.lastAllot, hd.now]
    exact beq_eq_false_iff_ne.mpr ht
  have hch : s.dueBoundary.allotChanges mgmt a = if a = s.allot then s.pwr.aHist else ⟨s.now, s.allot⟩ :: s.pwr.aHist := by
    unfold State.allotChanges
    rw [htie, hd.allot, hd.now, hd.aHist, Bool.or_false]
    simp only [decide_eq_true_eq]
  rw [setAllot_inside s mgmt h, htie, Bool.false_and, if_neg Bool.false_ne_true, hch]
  exact allotTaken ((State.dueBoundary_keeps (.refl s)).canon hc).regs mgmt (by omega) _ _

theorem change_kept {l : List Change} {n v : Nat} :
    (⟨n, v⟩ : Change) ∈ (⟨n, v⟩ :: l).filter fun e => n ≤ e.at_ + 100 * msTicks :=
  List.mem_filter.mpr ⟨List.mem_cons_self, decide_eq_true (Nat.le_add_right _ _)⟩

/-! ### Plan caps (R462, R465) -/

/-- R462: the cap of minute `j` from now is `c`, its ceiling `t`. -/
def State.capped (d : State) (mgmt : Bool) (m j : Nat) (c : Option Nat) (t : Nat) : State :=
  { d with pwr := { d.pwr with caps := d.pwr.caps.set j c, lastCap := some (d.now, m, mgmt) } }.setCeils (d.pwr.ceils.set j t)

theorem capped_regs (d : State) (mgmt : Bool) (m j : Nat) (c : Option Nat) (t : Nat) : (d.capped mgmt m j c t).regs = d.regs := rfl

theorem capped_caps (d : State) (mgmt : Bool) (m j : Nat) (c : Option Nat) (t : Nat) :
    (d.capped mgmt m j c t).pwr.caps = d.pwr.caps.set j c := rfl

theorem capped_ceils (d : State) (mgmt : Bool) (m j : Nat) (c : Option Nat) (t : Nat) :
    (d.capped mgmt m j c t).pwr.ceils = d.pwr.ceils.set j t := rfl

theorem setCap_outside (s : State) (mgmt : Bool) (m : Nat) {a : Nat} (h : a ≠ 0) (h2 : a < 60 ∨ 320 < a) :
    s.setCap mgmt m a = (none, s) := by
  unfold State.setCap
  rw [if_pos ⟨h, h2⟩]

/-- R462: a write of cap `a` for minute `j` from now is refused. -/
def State.capRefused (d : State) (j a : Nat) : Prop :=
  8 ≤ j ∨ (j ≤ 1 ∧ d.pwr.ceils.getD j 320 < min d.allot (if a = 0 then 320 else a))

/-- R465: the other side has written the minute in this cycle, and no higher a cap. -/
def State.capTie (d : State) (mgmt : Bool) (m j a : Nat) : Prop :=
  d.pwr.lastCap = some (d.now, m, !mgmt) ∧ (d.pwr.caps.getD j none).getD 320 ≤ (if a = 0 then 320 else a)

theorem capValue (a : Nat) : (if a = 0 then none else some a : Option Nat).getD 320 = if a = 0 then 320 else a := by
  split <;> rfl

theorem setCap_cases (s : State) (mgmt : Bool) (m : Nat) {a j : Nat} (h : a = 0 ∨ 60 ≤ a ∧ a ≤ 320)
    (hj : j = (m + 2 ^ 32 - s.dueBoundary.rf R.PWR_FC_MIN_MIN) % 2 ^ 32) :
    (s.dueBoundary.capRefused j a → s.setCap mgmt m a = (some false, s.dueBoundary.wf R.PWR_STAT_REFUSED 1)) ∧
    (¬ s.dueBoundary.capRefused j a → s.dueBoundary.capTie mgmt m j a → s.setCap mgmt m a = (some true, s.dueBoundary)) ∧
    (¬ s.dueBoundary.capRefused j a → ¬ s.dueBoundary.capTie mgmt m j a → s.setCap mgmt m a = (some true,
      (s.dueBoundary.capped mgmt m j (if a = 0 then none else some a) (min s.dueBoundary.allot (if a = 0 then 320 else a))).noteForecast
        s.dueBoundary false)) := by
  have hout : ¬ (a ≠ 0 ∧ (a < 60 ∨ 320 < a)) := by omega
  unfold State.setCap
  rw [if_neg hout]
  generalize s.dueBoundary = d at hj
  dsimp only
  rw [← hj]
  have htarget : d.ceilTarget (if a = 0 then none else some a) = min d.allot (if a = 0 then 320 else a) := by
    unfold State.ceilTarget
    rw [capValue]
  rw [htarget, capValue]
  refine ⟨fun hr => if_pos hr, fun hr ht => ?_, fun hr ht => ?_⟩
  · refine (if_neg hr).trans (if_pos ?_)
    rw [Bool.and_eq_true, beq_iff_eq, decide_eq_true_eq]
    exact ht
  · refine (if_neg hr).trans (if_neg ?_)
    rw [Bool.and_eq_true, beq_iff_eq, decide_eq_true_eq]
    exact ht

/-! ### The grid of minutes (R460, R463) -/

theorem nextEdge_spec (s : State) {a : Nat} (h : a < 60000) :
    s.nextEdge a % minuteTicks = a * msTicks ∧ s.now < s.nextEdge a ∧ s.nextEdge a ≤ s.now + minuteTicks := by
  have hm : minuteTicks = 1500000000 := by decide
  have hk : msTicks = 25000 := by decide
  unfold State.nextEdge
  dsimp only
  rw [hm, hk]
  omega

/-- R463: the old minutes that minute `j` of a grid with boundary `e` overlaps. -/
def State.overlap (d : State) (e j : Nat) : Nat × Nat :=
  if e = d.pwr.edge then (j, j) else if e < d.pwr.edge then (j - 1, j) else (j, j + 1)

/-- R463: the grid of state `d` has boundary `e`. -/
def State.regridded (d : State) (a e : Nat) : State :=
  let ceil := fun j => d.pwr.ceils.getD j d.allot
  let cap := fun j => d.pwr.caps.getD j none
  let pair := fun j => if e = d.pwr.edge then (j, j) else if e < d.pwr.edge then (j - 1, j) else (j, j + 1)
  let ceils := (List.range 8).map fun j => min (ceil (pair j).1) (ceil (pair j).2)
  let caps := (List.range 8).map fun j => leastCap (cap (pair j).1) (cap (pair j).2)
  let t := (d.wf R.PWR_FC_ALIGN_MS a).setCeils ceils
  { t with pwr := { t.pwr with caps := caps, edge := e } }

theorem setAlign_inside (s : State) {a : Nat} (h : a < 60000) : s.setAlign a =
    (s.dueBoundary.regridded a (s.dueBoundary.nextEdge a)).noteForecast s.dueBoundary false := by
  unfold State.setAlign
  rw [if_neg (Nat.not_le.mpr h)]
  rfl

theorem setAlign_outside (s : State) {a : Nat} (h : 60000 ≤ a) : s.setAlign a = s := by
  unfold State.setAlign
  rw [if_pos h]

theorem regridded_regs (d : State) (a e : Nat) : (d.regridded a e).regs = (d.wf R.PWR_FC_ALIGN_MS a).regs := rfl

theorem regridded_edge (d : State) (a e : Nat) : (d.regridded a e).pwr.edge = e := rfl

theorem regridded_ceils (d : State) (a e : Nat) : (d.regridded a e).pwr.ceils = (List.range 8).map fun j =>
    min (d.pwr.ceils.getD (d.overlap e j).1 d.allot) (d.pwr.ceils.getD (d.overlap e j).2 d.allot) := rfl

theorem regridded_caps (d : State) (a e : Nat) : (d.regridded a e).pwr.caps = (List.range 8).map fun j =>
    leastCap (d.pwr.caps.getD (d.overlap e j).1 none) (d.pwr.caps.getD (d.overlap e j).2 none) := rfl

theorem regridded_ceil (d : State) (a e : Nat) {j : Nat} (h : j < 8) : (d.regridded a e).pwr.ceils[j]? =
    some (min (d.pwr.ceils.getD (d.overlap e j).1 d.allot) (d.pwr.ceils.getD (d.overlap e j).2 d.allot)) := by
  rw [regridded_ceils, List.getElem?_map, List.getElem?_range h]
  rfl

theorem leastCap_self (c : Option Nat) : leastCap c c = c := by
  cases c with
  | none => rfl
  | some a => exact congrArg some (Nat.min_self a)

theorem map_range_getD {α : Type} (l : List α) (x : α) : (List.range l.length).map (fun j => l.getD j x) = l := by
  refine List.ext_getElem (by rw [List.length_map, List.length_range]) fun i h1 h2 => ?_
  rw [List.getElem_map, List.getElem_range, List.getD_eq_getElem _ _ h2]

/-- With the boundary where it was nothing changes. -/
theorem regridded_still (d : State) (a : Nat) (hc : d.pwr.ceils.length = 8) (hp : d.pwr.caps.length = 8) :
    (d.regridded a d.pwr.edge).pwr.ceils = d.pwr.ceils ∧ (d.regridded a d.pwr.edge).pwr.caps = d.pwr.caps := by
  have ho : ∀ j, d.overlap d.pwr.edge j = (j, j) := fun j => if_pos rfl
  rw [regridded_ceils, regridded_caps]
  simp only [ho, Nat.min_self, leastCap_self]
  exact ⟨hc ▸ map_range_getD d.pwr.ceils d.allot, hp ▸ map_range_getD d.pwr.caps none⟩

/-! ### Duty (R458, R459, R466, R468) -/

theorem fld_ne {f g : Nat} (h : f ≠ g) : A.PWR_FLD f ≠ A.PWR_FLD g := by
  unfold A.PWR_FLD
  omega

/-- R466: the duty of field `f` alone takes effect. -/
def State.dutyOf (s : State) (f : Nat) : State :=
  if s.fieldAwake f then s.wf (R.PWR_FLD_DUTY f) (s.targetDuty f) else s

theorem dutyOf_pwr (s : State) (f : Nat) : (s.dutyOf f).pwr = s.pwr := by
  unfold State.dutyOf
  split <;> rfl

theorem Spares.dutyOf {l : Loc} {s0 s : State} (hk : Spares l s0 s) {f : Nat} (h : l.Clear (R.PWR_FLD_DUTY f)) :
    Spares l s0 (s.dutyOf f) := by
  unfold State.dutyOf
  split
  · exact hk.wf (Nat.le_of_ble_eq_true rfl) h _
  · exact hk

theorem targetDuty_of_pwr {s t : State} (h : t.pwr = s.pwr) (f : Nat) : t.targetDuty f = s.targetDuty f := by
  unfold State.targetDuty State.tripped
  rw [h]

theorem dutyFold_pwr (l : List Nat) (s : State) : (l.foldl State.dutyOf s).pwr = s.pwr := by
  induction l generalizing s with
  | nil => rfl
  | cons g l ih => exact (ih _).trans (dutyOf_pwr s g)

theorem Spares.dutyFold {l : Loc} {s0 s : State} (hk : Spares l s0 s) {fs : List Nat} (h : ∀ f ∈ fs, l.Clear (R.PWR_FLD_DUTY f)) :
    Spares l s0 (fs.foldl State.dutyOf s) := Spares.foldl_mem fs (fun _ f hf ht => ht.dutyOf (h f hf)) hk

/-- What duty a field of the list shows. -/
theorem dutyFold_shows (f : Nat) : ∀ (fs : List Nat) (s : State), Store.Sorted s.regs → fs.Nodup → f ∈ fs →
    (fs.foldl State.dutyOf s).rf (R.PWR_FLD_DUTY f) =
      if s.fieldAwake f then s.targetDuty f % 32 else s.rf (R.PWR_FLD_DUTY f) := by
  intro fs
  induction fs with
  | nil => exact fun _ _ _ h => nomatch h
  | cons g fs ih =>
    intro s hs hnd hf
    obtain ⟨hg, hfs⟩ := List.nodup_cons.mp hnd
    have hsg : Store.Sorted (s.dutyOf g).regs := ((Spares.refl ⟨0, 0, 0⟩ s).dutyOf (f := g) (Or.inl (by
      show 0 ≠ A.PWR_FLD g
      unfold A.PWR_FLD Page.powerBase
      omega))).sorted hs
    rw [List.foldl_cons]
    by_cases hfg : f = g
    · subst hfg
      have hrest : ((fs.foldl State.dutyOf (s.dutyOf f))).rf (R.PWR_FLD_DUTY f) = (s.dutyOf f).rf (R.PWR_FLD_DUTY f) :=
        ((Spares.refl (R.PWR_FLD_DUTY f) (s.dutyOf f)).dutyFold fun k hk => Or.inl (fld_ne fun h => hg (h ▸ hk))).rf hsg
      rw [hrest]
      unfold State.dutyOf
      split
      · exact rf_wf_self (l := R.PWR_FLD_DUTY f) hs (Nat.le_of_ble_eq_true rfl) _
      · rfl
    · have hin : f ∈ fs := (List.mem_cons.mp hf).resolve_left hfg
      have hawake : (s.dutyOf g).fieldAwake f = s.fieldAwake f :=
        congrArg (· == 2) (((Spares.refl (R.PWR_FLD_STATE f) s).dutyOf (f := g) (Or.inl (fld_ne hfg))).rf hs)
      rw [ih _ hsg hfs hin, hawake, targetDuty_of_pwr (dutyOf_pwr s g),
        ((Spares.refl (R.PWR_FLD_DUTY f) s).dutyOf (f := g) (Or.inl (fld_ne hfg))).rf hs]

/-- R466: duty in every awake field. -/
def State.duties (s : State) : State := (List.range 4).foldl State.dutyOf s

theorem applyDuty_eq (s : State) :
    s.applyDuty = s.duties.wf R.PWR_STAT_LIMIT (bit (s.duties.pwr.braking || s.duties.pwr.pos != 0)) := by
  unfold State.applyDuty State.duties State.dutyOf
  rfl

theorem duties_pwr (s : State) : s.duties.pwr = s.pwr := dutyFold_pwr _ s

theorem applyDuty_pwr (s : State) : s.applyDuty.pwr = s.pwr := by
  rw [applyDuty_eq, wf_pwr, duties_pwr]

theorem sorted_duties {s : State} (h : Store.Sorted s.regs) : Store.Sorted s.duties.regs :=
  ((Spares.refl ⟨0, 0, 0⟩ s).dutyFold fun f _ => Or.inl (by
    show 0 ≠ A.PWR_FLD f
    unfold A.PWR_FLD Page.powerBase
    omega)).sorted h

theorem fld_ne_stat (f : Nat) : A.PWR_FLD f ≠ A.PWR_STAT := by
  unfold A.PWR_FLD A.PWR_STAT Page.powerBase
  omega

/-- Registers that duty does not show in. -/
theorem Spares.applyDuty {l : Loc} {s0 s : State} (hk : Spares l s0 s) (h : ∀ f, f < 4 → l.Clear (R.PWR_FLD_DUTY f))
    (hs : l.Clear R.PWR_STAT_LIMIT) : Spares l s0 s.applyDuty := by
  rw [applyDuty_eq]
  exact (hk.dutyFold fun f hf => h f (List.mem_range.mp hf)).wf (Nat.le_of_ble_eq_true rfl) hs _

theorem applyDuty_duty {s : State} (h : Store.Sorted s.regs) {f : Nat} (hf : f < 4) : s.applyDuty.rf (R.PWR_FLD_DUTY f) =
    if s.fieldAwake f then s.targetDuty f % 32 else s.rf (R.PWR_FLD_DUTY f) := by
  rw [applyDuty_eq]
  exact (((Spares.refl (R.PWR_FLD_DUTY f) s.duties).wf_far (m := R.PWR_STAT_LIMIT) (fld_ne_stat f) _).rf (sorted_duties h)).trans
    (dutyFold_shows f _ s h List.nodup_range (List.mem_range.mpr hf))

theorem applyDuty_limit {s : State} (h : Store.Sorted s.regs) :
    s.applyDuty.rf R.PWR_STAT_LIMIT = if s.pwr.braking = true ∨ s.pwr.pos ≠ 0 then 1 else 0 := by
  rw [applyDuty_eq]
  refine (rf_wf_self (l := R.PWR_STAT_LIMIT) (sorted_duties h) (Nat.le_of_ble_eq_true rfl) _).trans ?_
  rw [duties_pwr]
  by_cases hb : s.pwr.braking = true
  · rw [if_pos (Or.inl hb), hb]
    rfl
  · by_cases hp : s.pwr.pos = 0
    · rw [if_neg (by simp [hb, hp]), Bool.eq_false_iff.mpr hb, hp]
      rfl
    · rw [if_pos (Or.inr hp), Bool.eq_false_iff.mpr hb, bne_iff_ne.mpr hp]
      rfl

theorem targetDuty_mod (s : State) (f : Nat) : s.targetDuty f % 32 =
    if s.tripped f || s.pwr.braking then 0 else (16 - (s.pwr.pos - 24)) % 32 := by
  unfold State.targetDuty
  split <;> rfl

/-! ### The commands -/

theorem allotWrite_runs {u : Fin 64} {v : Word32} {s : State} (h : s.MayWrite u A.PWR_ALLOT) :
    exec (.allotWrite u v) s = .next (s.setAllot false (wbits v 0 9)) := by
  show execAllotWrite u v s = _
  unfold execAllotWrite
  rw [gateWrite_rw h]

theorem planCapWrite_runs {u : Fin 64} {v : Word32} {s : State} (h : s.MayWrite u A.PWR_PLAN_CAP) :
    exec (.planCapWrite u v) s = .next (s.setCap false (s.rf R.PWR_PLAN_MIN_MIN) (wbits v 0 9)).2 := by
  show execPlanCapWrite u v s = _
  unfold execPlanCapWrite
  rw [gateWrite_rw h]
  rfl

theorem fcAlignWrite_runs {u : Fin 64} {v : Word32} {s : State} (h : s.MayWrite u A.PWR_FC_ALIGN) :
    exec (.fcAlignWrite u v) s = .next (s.setAlign (wbits v 0 16)) := by
  show execFcAlignWrite u v s = _
  unfold execFcAlignWrite
  rw [gateWrite_rw h]

/-- What a grid offset that is taken leaves. -/
theorem setAlign_taken {s : State} (hc : s.Canon) {a : Nat} (h : a < 60000) :
    (s.setAlign a).rf R.PWR_FC_ALIGN_MS = a ∧ (s.setAlign a).pwr.edge = s.dueBoundary.nextEdge a ∧
      (s.setAlign a).pwr = (s.dueBoundary.regridded a (s.dueBoundary.nextEdge a)).pwr := by
  rw [setAlign_inside s h]
  refine ⟨?_, ?_, noteForecast_pwr _ _ _⟩
  · rw [rf_noteForecast _ _ _ (l := R.PWR_FC_ALIGN_MS) (by decide), rf_of_regs (regridded_regs _ _ _)]
    exact (rf_wf_self (l := R.PWR_FC_ALIGN_MS) ((State.dueBoundary_keeps (.refl s)).canon hc).regs (Nat.le_of_ble_eq_true rfl) a).trans
      (Nat.mod_eq_of_lt (Nat.lt_trans h (by decide)))
  · rw [noteForecast_pwr]
    rfl

theorem regridded_next (d : State) (a : Nat) {e j : Nat} (hj : j < 8) (h : e < d.pwr.edge) : (d.regridded a e).pwr.ceils[j]? =
    some (min (d.pwr.ceils.getD (j - 1) d.allot) (d.pwr.ceils.getD j d.allot)) := by
  have ho : d.overlap e j = (j - 1, j) := by
    unfold State.overlap
    rw [if_neg (Nat.ne_of_lt h), if_pos h]
  rw [regridded_ceil d a e hj, ho]

theorem regridded_prev (d : State) (a : Nat) {e j : Nat} (hj : j < 8) (h : d.pwr.edge < e) : (d.regridded a e).pwr.ceils[j]? =
    some (min (d.pwr.ceils.getD j d.allot) (d.pwr.ceils.getD (j + 1) d.allot)) := by
  have ho : d.overlap e j = (j, j + 1) := by
    unfold State.overlap
    rw [if_neg (Nat.ne_of_gt h), if_neg (Nat.not_lt.mpr (Nat.le_of_lt h))]
  rw [regridded_ceil d a e hj, ho]

/-- R466: what duty a field shows once the power state `p` takes effect and is noted. -/
theorem duty_noted {s u old : State} (hs : Store.Sorted u.regs) (hf : ∀ f, f < 4 → u.rf (R.PWR_FLD_STATE f) = s.rf (R.PWR_FLD_STATE f))
    (hd : ∀ f, f < 4 → u.rf (R.PWR_FLD_DUTY f) = s.rf (R.PWR_FLD_DUTY f)) {f : Nat} (h4 : f < 4) (acts : Bool) :
    (u.applyDuty.notePower old acts).rf (R.PWR_FLD_DUTY f) = if !s.fieldAwake f then s.rf (R.PWR_FLD_DUTY f)
      else if u.tripped f || u.pwr.braking then 0 else (16 - (u.pwr.pos - 24)) % 32 := by
  have hne : A.PWR_FLD f ≠ A.STD_MG_EVDROP := by
    unfold A.PWR_FLD A.STD_MG_EVDROP Page.powerBase Page.mgmtBase
    omega
  have haw : u.fieldAwake f = s.fieldAwake f := congrArg (· == 2) (hf f h4)
  rw [rf_notePower _ _ _ (l := R.PWR_FLD_DUTY f) hne, applyDuty_duty hs h4, haw, hd f h4, targetDuty_mod]
  cases s.fieldAwake f <;> rfl

theorem limit_noted {u old : State} (hs : Store.Sorted u.regs) (acts : Bool) :
    (u.applyDuty.notePower old acts).rf R.PWR_STAT_LIMIT = if u.pwr.braking = true ∨ u.pwr.pos ≠ 0 then 1 else 0 := by
  rw [rf_notePower _ _ _ (l := R.PWR_STAT_LIMIT) (by decide), applyDuty_limit hs]

theorem pwr_noted (u old : State) (acts : Bool) : (u.applyDuty.notePower old acts).pwr = u.pwr :=
  (notePower_pwr _ _ _).trans (applyDuty_pwr u)

/-- R458: the pin is low. -/
def State.brakeOn (s : State) : State := { s with pwr := { s.pwr with pin := true, pinFor := 0, braking := true, pos := lastPlace } }

/-- R458: the pin is high again. -/
def State.brakeOff (s : State) : State :=
  { s with pwr := { s.pwr with pin := false, pinFor := 0, braking := s.pwr.braking && s.pwr.brake459 } }

/-- R466: the order of means stands at place `pos`. -/
def State.placed (s : State) (pos : Nat) : State := { s with pwr := { s.pwr with pos := pos } }

theorem brakeOn_regs (s : State) : s.brakeOn.regs = s.regs := rfl
theorem brakeOff_regs (s : State) : s.brakeOff.regs = s.regs := rfl
theorem placed_regs (s : State) (pos : Nat) : (s.placed pos).regs = s.regs := rfl

theorem execPwrBrakeAssert_of_pin {s : State} (h : s.pwr.pin = false) (hs : s.pins.standby = true) : execPwrBrakeAssert s =
    .next (if s.pins.held then s.brakeOn else ((s.brakeOn.bump R.PWR_BRAKE_CNT_COUNT 1).applyDuty.notePower s false)) := by
  have hg : (s.pwr.pin || !s.pins.standby) = false := by
    rw [h, hs]
    rfl
  unfold execPwrBrakeAssert
  rw [hg]
  exact (if_neg Bool.false_ne_true).trans (apply_ite Host.Outcome.next _ _ _).symm

theorem execPwrBrakeRelease_of_pin {s : State} (h : s.pwr.pin = true) : execPwrBrakeRelease s =
    .next (if s.pins.held then s.brakeOff else (s.brakeOff.applyDuty.notePower s false)) := by
  unfold execPwrBrakeRelease
  rw [h]
  exact (if_neg Bool.false_ne_true).trans (apply_ite Host.Outcome.next _ _ _).symm

theorem bump_regs_pwr (s : State) (l : Loc) (n : Nat) : (s.bump l n).pwr = s.pwr := rfl

/-- R458: the registers that follow the pin, low. -/
theorem brakeOn_shows {s : State} (hs : Store.Sorted s.regs) :
    let t := (s.brakeOn.bump R.PWR_BRAKE_CNT_COUNT 1).applyDuty.notePower s false
    t.pwr = s.brakeOn.pwr ∧ t.rf R.PWR_BRAKE_CNT_COUNT = satAdd32 (s.rf R.PWR_BRAKE_CNT_COUNT) 1 ∧ t.rf R.PWR_STAT_LIMIT = 1 ∧
      ∀ f, f < 4 → t.rf (R.PWR_FLD_DUTY f) = if s.fieldAwake f then 0 else s.rf (R.PWR_FLD_DUTY f) := by
  have hb : Store.Sorted s.brakeOn.regs := brakeOn_regs s ▸ hs
  have hsp : ∀ l : Loc, l.addr ≠ A.PWR_BRAKE_CNT → Spares l s (s.brakeOn.bump R.PWR_BRAKE_CNT_COUNT 1) := fun l hl =>
    (Spares.of_regs (brakeOn_regs s)).bump (m := R.PWR_BRAKE_CNT_COUNT) hl 1
  have hu : Store.Sorted (s.brakeOn.bump R.PWR_BRAKE_CNT_COUNT 1).regs := (hsp ⟨0, 0, 0⟩ (by decide)).sorted hs
  have hpwr : (s.brakeOn.bump R.PWR_BRAKE_CNT_COUNT 1).pwr = s.brakeOn.pwr := bump_regs_pwr _ _ _
  have hfld : ∀ f, A.PWR_FLD f ≠ A.PWR_BRAKE_CNT := fun f => by
    unfold A.PWR_FLD A.PWR_BRAKE_CNT Page.powerBase
    omega
  have hcnt : (s.brakeOn.bump R.PWR_BRAKE_CNT_COUNT 1).rf R.PWR_BRAKE_CNT_COUNT = satAdd32 (s.rf R.PWR_BRAKE_CNT_COUNT) 1 := by
    rw [← rf_of_regs (brakeOn_regs s) R.PWR_BRAKE_CNT_COUNT]
    exact (rf_bump_self hb (l := R.PWR_BRAKE_CNT_COUNT) (by decide) 1).trans (satAdd32_mod _ _)
  refine ⟨(pwr_noted _ _ _).trans hpwr, ?_, ?_, fun f hf => ?_⟩
  · rw [rf_notePower _ _ _ (l := R.PWR_BRAKE_CNT_COUNT) (by decide)]
    exact (((Spares.refl R.PWR_BRAKE_CNT_COUNT _).applyDuty (fun f _ => Or.inl (hfld f).symm) (Or.inl (by decide))).rf hu).trans hcnt
  · rw [limit_noted hu, hpwr]
    rfl
  · rw [duty_noted (s := s) hu (fun g _ => (hsp (R.PWR_FLD_STATE g) (hfld g)).rf hs) (fun g _ => (hsp (R.PWR_FLD_DUTY g) (hfld g)).rf hs)
      hf, hpwr]
    have htrue : (State.tripped (s.brakeOn.bump R.PWR_BRAKE_CNT_COUNT 1) f || s.brakeOn.pwr.braking) = true := Bool.or_true _
    rw [htrue]
    cases s.fieldAwake f <;> rfl

theorem clockLevelStep_runs {f : Fin 4} {s : State} (ha : s.fieldAwake f = true) (hp : s.pll (2 + f) = 2) :
    exec (.clockLevelStep f) s = .next (s.wf (R.PWR_FLD_LEVEL f)
      (if s.rf (R.PWR_FLD_LEVEL f) < s.targetLevel f then s.rf (R.PWR_FLD_LEVEL f) + 1
        else if s.targetLevel f < s.rf (R.PWR_FLD_LEVEL f) then s.rf (R.PWR_FLD_LEVEL f) - 1 else s.rf (R.PWR_FLD_LEVEL f))) := by
  have hg : (!s.fieldAwake f || s.pll (2 + f) != 2) = false := by
    rw [ha, hp]
    rfl
  show execClockLevelStep f s = _
  unfold execClockLevelStep
  dsimp only
  rw [hg]
  exact if_neg Bool.false_ne_true

theorem targetLevel_le (s : State) (f : Nat) : s.targetLevel f ≤ 32 := by
  unfold State.targetLevel State.powerLevel
  split <;> omega

theorem throttleEval_runs {draw : BitVec 16} {k : Fin 40} {s : State} (h : s.pins.held = false) :
    exec (.throttleEval draw k) s = .next ((s.placed (if s.pwr.braking then s.pwr.pos else if 10 * s.limitE < draw.toNat then
      max s.pwr.pos k else max (s.pwr.pos - 10) (min s.pwr.pos k))).applyDuty.notePower s false) := by
  show execThrottleEval draw k s = _
  unfold execThrottleEval
  rw [h]
  exact if_neg Bool.false_ne_true

/-- Settles O53. That a means before duty 0 is applied under a brake is the model's order of means (log 34); that the pin changes no
register in reset is log 65. -/
theorem powerLimitsAct : Obligations.PowerLimitsAct := by
  refine ⟨fun u v s d a hc hd => ?_, fun s hc => ?_, fun draw k f s l target hc => ?_⟩
  · subst hd
    have hlim := dueBoundary_limits s
    have hcd := (State.dueBoundary_keeps (.refl s)).canon hc
    refine ⟨fun hm ha => ?_, fun hm ha => ?_, fun hm ha => ?_⟩
    · subst ha
      refine ⟨fun hout => (allotWrite_runs hm).trans (congrArg _ (setAllot_outside s false hout)), fun h60 h320 => ?_⟩
      have hin : ¬ (wbits v 0 9 < 60 ∨ 320 < wbits v 0 9) := by omega
      refine ⟨_, allotWrite_runs hm, (State.setAllot_same (.refl (partsMask [.regs, .pwr, .mg]) s) rfl false _).parts,
        setAllot_tie (mgmt := false) hc hin, fun ht => ?_⟩
      obtain ⟨hallot, hreg, hceils, hcaps, hedge, hhist⟩ := setAllot_alone hc hin (mgmt := false) ht
      refine ⟨hallot, hreg, hceils, hcaps, hedge, fun hne => ?_⟩
      rw [hhist, if_neg hne, hlim.now]
      exact change_kept
    · subst ha
      refine ⟨fun h0 hout => (planCapWrite_runs hm).trans (by rw [setCap_outside s false _ h0 hout]), fun hin j hj => ?_⟩
      obtain ⟨hrefused, htied, htaken⟩ := setCap_cases s false _ hin hj
      refine ⟨_, planCapWrite_runs hm, (State.setCap_same (.refl (partsMask [.regs, .pwr, .mg]) s) rfl false _ _).parts, ?_⟩
      rw [← hlim.allot, ← hlim.now, ← hlim.lastCap]
      by_cases hr : s.dueBoundary.capRefused j (wbits v 0 9)
      · rw [hrefused hr]
        refine (if_pos hr).mpr ⟨rfl, rfl, rf_wf_self (l := R.PWR_STAT_REFUSED) hcd.regs (Nat.le_of_ble_eq_true rfl) 1⟩
      · refine (if_neg hr).mpr ?_
        by_cases ht : s.dueBoundary.capTie false (s.rf R.PWR_PLAN_MIN_MIN) j (wbits v 0 9)
        · rw [htied hr ht]
          exact (if_pos ht).mpr rfl
        · rw [htaken hr ht]
          refine (if_neg ht).mpr ⟨?_, ?_, fun x hx => ?_⟩
          · rw [noteForecast_pwr, capped_caps]
          · rw [noteForecast_pwr, capped_ceils]
          · rw [noteForecast_reg _ _ _ hx, reg_of_regs (capped_regs _ _ _ _ _ _)]
    · subst ha
      refine ⟨fun hout => (fcAlignWrite_runs hm).trans (congrArg _ (setAlign_outside s hout)), fun hin => ?_⟩
      obtain ⟨hms, hedge, hpwr⟩ := setAlign_taken hc hin
      obtain ⟨hmod, hlt, hle⟩ := nextEdge_spec s.dueBoundary hin
      rw [hlim.now] at hlt hle
      refine ⟨_, fcAlignWrite_runs hm, (State.setAlign_same (.refl (partsMask [.regs, .pwr, .mg]) s) rfl _).parts, hms,
        hedge ▸ hmod, hedge ▸ hlt, hedge ▸ hle, fun h1 h2 he => ?_, fun he j hj => ?_, fun he j hj => ?_⟩
      · rw [hpwr]
        rw [hedge] at he
        rw [he]
        exact regridded_still _ _ h1 h2
      · rw [hpwr, ← hlim.allot]
        exact regridded_next _ _ hj (hedge ▸ he)
      · rw [hpwr, ← hlim.allot]
        exact regridded_prev _ _ hj (hedge ▸ he)
  · refine ⟨fun hedge => ?_, fun hedge => ?_, fun hst => ?_, fun hpin hst => ?_, fun hpin => ?_⟩
    · have hdue : s.dueBoundary = s.minuteEdge := if_neg (Nat.not_lt.mpr hedge)
      have hp := minuteEdge_pwr s
      refine ⟨_, rfl, (State.dueBoundary_same (.refl (partsMask [.regs, .pwr, .mg]) s) rfl).parts, ?_⟩
      rw [hdue, hp]
      exact ⟨minuteEdge_minute hc.regs, rfl, rfl, rfl⟩
    · exact congrArg Host.Outcome.next (if_pos hedge)
    · exact if_pos (by rw [hst, Bool.not_false, Bool.or_true])
    · have hexec := execPwrBrakeAssert_of_pin hpin hst
      refine ⟨_, hexec, sameBut_of_next (c := .pwrBrakeAssert) hexec, ?_⟩
      obtain ⟨hpwr, hcount, hlimit, hduty⟩ := brakeOn_shows hc.regs
      cases hh : s.pins.held with
      | true =>
        rw [if_pos rfl]
        exact ⟨rfl, fun _ => rfl, fun h => (nomatch h)⟩
      | false =>
        rw [if_neg Bool.false_ne_true]
        exact ⟨hpwr, fun h => (nomatch h), fun _ => ⟨hcount, hlimit, hduty⟩⟩
    · have hexec := execPwrBrakeRelease_of_pin hpin
      refine ⟨_, hexec, sameBut_of_next (c := .pwrBrakeRelease) hexec, ?_⟩
      cases hh : s.pins.held with
      | true =>
        rw [if_pos rfl]
        exact ⟨rfl, fun _ => rfl, fun h => (nomatch h)⟩
      | false =>
        rw [if_neg Bool.false_ne_true]
        refine ⟨pwr_noted _ _ _, fun h => (nomatch h), fun _ f hf => ?_⟩
        rw [pwr_noted]
        exact duty_noted (s := s) (brakeOff_regs s ▸ hc.regs) (fun g _ => rf_of_regs (brakeOff_regs s) _)
          (fun g _ => rf_of_regs (brakeOff_regs s) _) hf false
  · refine ⟨fun hh => ?_, fun ha hp hl ht => ?_⟩
    · have hexec := throttleEval_runs (draw := draw) (k := k) hh
      refine ⟨_, hexec, sameBut_of_next hexec, pwr_noted _ _ _, ?_, ?_⟩
      · rw [pwr_noted]
        exact limit_noted (placed_regs s _ ▸ hc.regs) false
      · rw [pwr_noted]
        exact duty_noted (s := s) (placed_regs s _ ▸ hc.regs) (fun g _ => rf_of_regs (placed_regs s _) _)
          (fun g _ => rf_of_regs (placed_regs s _) _) f.isLt false
    · have htarget : s.targetLevel f = target := ht.symm
      have hle := targetLevel_le s f
      rw [htarget] at hle
      have hexec := clockLevelStep_runs ha hp
      rw [← hl, htarget] at hexec
      have h64 : l < 64 := hl ▸ rf_lt s (R.PWR_FLD_LEVEL f)
      refine ⟨_, hexec, wf_frame s _ _, (rf_wf_self (l := R.PWR_FLD_LEVEL f) hc.regs (Nat.le_of_ble_eq_true rfl) _).trans ?_,
        fun x hx => reg_wf_ne (l := R.PWR_FLD_LEVEL f) s _ hx⟩
      show _ % 64 = _
      by_cases h1 : l < target
      · rw [if_pos h1, if_pos ⟨h1, by omega⟩]
        omega
      · rw [if_neg h1, if_neg (c := l < target ∧ l < 63) (fun h => h1 h.1)]
        split <;> omega

end Sys2Proof.Machine


/-! Power and heat, measured (R449 to R459, R468, R538): O54. -/

namespace Sys2Proof.Machine

/-! ### Conditions (R391) -/

theorem raiseSrc_pwr (s : State) (page bit : Nat) : (s.raiseSrc page bit).pwr = s.pwr :=
  (State.raiseSrc_same (.refl 8589934600 s) rfl page bit).pwr.resolve_left (by decide)

theorem condIs_pwr (s : State) (page b : Nat) (on : Bool) : (s.condIs page b on).pwr = s.pwr := by
  cases on with
  | true => exact (State.raiseCond_same (.refl 8589934600 s) rfl page b).pwr.resolve_left (by decide)
  | false => rfl

theorem condIs_cond {s : State} (hc : s.Canon) (page b : Nat) (on : Bool) :
    ((s.condIs page b on).pair (pairKey page b)).cond = on := by
  cases on with
  | true => exact cond_raiseCond hc page b
  | false => exact congrArg PairSt.cond (pair_setPair_self hc.pairs _ _)

theorem dropCond_regs (s : State) (page b : Nat) : (s.dropCond page b).regs = s.regs := rfl

theorem condEvent_regs (s : State) (page b : Nat) : (s.condEvent page b).regs = (s.raiseSrc page b).regs := rfl

theorem Spares.condIs {l : Loc} {s0 s : State} (hk : Spares l s0 s) {page : Nat} (h : l.NoErr page) (b : Nat) (on : Bool) :
    Spares l s0 (s.condIs page b on) := by
  cases on with
  | true =>
    show Spares l s0 (s.raiseCond page b)
    unfold State.raiseCond
    refine Spares.ite hk ?_
    exact (hk.raiseSrc h b).then_regs (condEvent_regs s page b)
  | false => exact hk.then_regs (dropCond_regs s page b)

theorem KeepsBit.refl (page j : Nat) (s : State) : KeepsBit page j s s := ⟨id, fun _ => id⟩

theorem KeepsBit.then_regs {page j : Nat} {s t u : State} (h : KeepsBit page j s t) (hr : u.regs = t.regs) : KeepsBit page j s u :=
  h.trans (Spares.keepsBit (Spares.of_regs hr) j)

theorem keepsBit_condIs (s : State) (page : Nat) {j : Nat} (hj : j < 32) (b : Nat) (on : Bool) : KeepsBit page j s (s.condIs page b on) := by
  cases on with
  | true =>
    show KeepsBit page j s (s.raiseCond page b)
    unfold State.raiseCond
    split
    · exact .refl page j s
    · exact (keepsBit_raiseSrc s page hj b).then_regs (condEvent_regs s page b)
  | false => exact (KeepsBit.refl page j s).then_regs (dropCond_regs s page b)

/-- A condition that begins raises its source's bit. -/
theorem raiseCond_raised {s : State} (hs : Store.Sorted s.regs) (page : Nat) {b : Nat} (hb : b < 32)
    (h : (s.pair (pairKey page b)).cond = false) : ((s.raiseCond page b).rf (R.ERR_STAT_STAT page)).testBit b = true := by
  unfold State.raiseCond
  rw [h, if_neg Bool.false_ne_true, rf_of_regs (condEvent_regs s page b)]
  exact raiseSrc_raised hs page hb

/-! ### The registers of an interval (R471) -/

/-- R471: voltage, current and power of the input. -/
def State.metered (s : State) (x : PowerIn) : State :=
  ((s.wf R.PWR_IN_V_MV x.mv.toNat).wf R.PWR_IN_I_CA x.ca.toNat).wf R.PWR_IN_P_W x.w.toNat

/-- R471: the shares of the rails; what is left is the conversion loss. -/
def State.railed (s : State) (x : PowerIn) : State :=
  ((((s.wf (R.PWR_RAIL_W 0) x.fields.toNat).wf (R.PWR_RAIL_W 1) x.hbm.toNat).wf (R.PWR_RAIL_W 2) x.links.toNat).wf
    (R.PWR_RAIL_W 3) x.steading.toNat).wf (R.PWR_RAIL_W 4)
      (x.w.toNat - (0 + x.fields.toNat + x.hbm.toNat + x.links.toNat + x.steading.toNat))

/-- R471: the means and their peaks. -/
def State.averaged (s : State) : State :=
  let l := s.pwr.samples
  let s := (s.wf R.PWR_AVG20_W (meanOf l 20)).peak R.PWR_AVG20_PEAK (meanOf l 20)
  (s.wf R.PWR_AVG1S_W (meanOf l 1000)).peak R.PWR_AVG1S_PEAK (meanOf l 1000)

/-- R471: the milliseconds in which a limit applied. -/
def State.timedLimit (s : State) : State := if s.flag R.PWR_STAT_LIMIT then s.bump R.PWR_THR_MS_COUNT 1 else s

theorem showPower_eq (s : State) (x : PowerIn) : s.showPower x =
    (((s.metered x).railed x).averaged.bump64 R.PWR_ENERGY_LO_MJ R.PWR_ENERGY_HI_MJ x.w.toNat).timedLimit := rfl

theorem Spares.averaged {l : Loc} {s0 s : State} (hk : Spares l s0 s) (h1 : l.addr ≠ A.PWR_AVG20) (h2 : l.addr ≠ A.PWR_AVG1S) :
    Spares l s0 s.averaged :=
  (((hk.wf_far (m := R.PWR_AVG20_W) h1 _).peak (m := R.PWR_AVG20_PEAK) h1 _).wf_far (m := R.PWR_AVG1S_W) h2 _).peak
    (m := R.PWR_AVG1S_PEAK) h2 _

theorem Spares.timedLimit {l : Loc} {s0 s : State} (hk : Spares l s0 s) (h : l.addr ≠ A.PWR_THR_MS) : Spares l s0 s.timedLimit :=
  Spares.ite (hk.bump (m := R.PWR_THR_MS_COUNT) h 1) hk

theorem Spares.railed {l : Loc} {s0 s : State} (hk : Spares l s0 s) (h : ∀ i, i < 5 → l.addr ≠ A.PWR_RAIL i) (x : PowerIn) :
    Spares l s0 (s.railed x) :=
  ((((hk.wf_far (m := R.PWR_RAIL_W 0) (h 0 (by decide)) _).wf_far (m := R.PWR_RAIL_W 1) (h 1 (by decide)) _).wf_far
    (m := R.PWR_RAIL_W 2) (h 2 (by decide)) _).wf_far (m := R.PWR_RAIL_W 3) (h 3 (by decide)) _).wf_far
    (m := R.PWR_RAIL_W 4) (h 4 (by decide)) _

theorem Spares.metered {l : Loc} {s0 s : State} (hk : Spares l s0 s) (h1 : l.addr ≠ A.PWR_IN_V) (h2 : l.addr ≠ A.PWR_IN_I)
    (h3 : l.addr ≠ A.PWR_IN_P) (x : PowerIn) : Spares l s0 (s.metered x) :=
  ((hk.wf_far (m := R.PWR_IN_V_MV) h1 _).wf_far (m := R.PWR_IN_I_CA) h2 _).wf_far (m := R.PWR_IN_P_W) h3 _

/-- The registers that the averages, the energy and the limit's time do not show in. -/
theorem Spares.afterRails {l : Loc} {s0 s : State} (hk : Spares l s0 s) (h : l.addr < A.PWR_AVG20 ∨ A.PWR_THR_MS < l.addr) (n : Nat) :
    Spares l s0 (s.averaged.bump64 R.PWR_ENERGY_LO_MJ R.PWR_ENERGY_HI_MJ n).timedLimit := by
  have h' : l.addr < 0x5011c ∨ 0x5012c < l.addr := h
  have hne : ∀ a, 0x5011c ≤ a → a ≤ 0x5012c → l.addr ≠ a := fun a h1 h2 => by omega
  exact ((hk.averaged (hne _ (by decide) (by decide)) (hne _ (by decide) (by decide))).bump64 (m := R.PWR_ENERGY_LO_MJ)
    (k := R.PWR_ENERGY_HI_MJ) (hne _ (by decide) (by decide)) (hne _ (by decide) (by decide)) n).timedLimit (hne _ (by decide) (by decide))

/-- The registers that an interval does not show in. -/
theorem Spares.showPower {l : Loc} {s0 s : State} (hk : Spares l s0 s) (h : l.addr < 0x50110 ∨ 0x50160 < l.addr) (x : PowerIn) :
    Spares l s0 (s.showPower x) := by
  have hne : ∀ a, 0x50110 ≤ a → a ≤ 0x50160 → l.addr ≠ a := fun a h1 h2 => by omega
  rw [showPower_eq]
  refine ((hk.metered (hne _ (by decide) (by decide)) (hne _ (by decide) (by decide)) (hne _ (by decide) (by decide)) x).railed
    (fun i hi => hne _ ?_ ?_) x).afterRails (h.imp (fun h => Nat.lt_trans h (by decide)) fun h => Nat.lt_trans (by decide) h) _
  · unfold A.PWR_RAIL Page.powerBase
    omega
  · unfold A.PWR_RAIL Page.powerBase
    omega

theorem wf_last {s : State} (h : Store.Sorted s.regs) {l : Loc} (hl : l.Fits) {v : Nat} (hv : v < 2 ^ l.wid) : (s.wf l v).rf l = v :=
  (rf_wf_self h hl v).trans (Nat.mod_eq_of_lt hv)

/-- What the input's registers show. -/
theorem metered_shows {s : State} (h : Store.Sorted s.regs) (x : PowerIn) :
    (s.metered x).rf R.PWR_IN_V_MV = x.mv.toNat ∧ (s.metered x).rf R.PWR_IN_I_CA = x.ca.toNat ∧
      (s.metered x).rf R.PWR_IN_P_W = x.w.toNat := by
  have h1 := sorted_wf h R.PWR_IN_V_MV x.mv.toNat
  have h2 := sorted_wf h1 R.PWR_IN_I_CA x.ca.toNat
  refine ⟨?_, ?_, wf_last (l := R.PWR_IN_P_W) h2 (by decide) x.w.isLt⟩
  · exact ((((Spares.refl R.PWR_IN_V_MV _).wf_far (m := R.PWR_IN_I_CA) (by decide) _).wf_far (m := R.PWR_IN_P_W) (by decide) _).rf h1).trans
      (wf_last (l := R.PWR_IN_V_MV) h (by decide) x.mv.isLt)
  · exact (((Spares.refl R.PWR_IN_I_CA _).wf_far (m := R.PWR_IN_P_W) (by decide) _).rf h2).trans
      (wf_last (l := R.PWR_IN_I_CA) h1 (by decide) x.ca.isLt)

theorem railed_shows {s : State} (h : Store.Sorted s.regs) (x : PowerIn) :
    (s.railed x).rf (R.PWR_RAIL_W 0) = x.fields.toNat ∧ (s.railed x).rf (R.PWR_RAIL_W 1) = x.hbm.toNat ∧
      (s.railed x).rf (R.PWR_RAIL_W 2) = x.links.toNat ∧ (s.railed x).rf (R.PWR_RAIL_W 3) = x.steading.toNat ∧
      (s.railed x).rf (R.PWR_RAIL_W 4) = x.w.toNat - (x.fields.toNat + x.hbm.toNat + x.links.toNat + x.steading.toNat) := by
  have h1 := sorted_wf h (R.PWR_RAIL_W 0) x.fields.toNat
  have h2 := sorted_wf h1 (R.PWR_RAIL_W 1) x.hbm.toNat
  have h3 := sorted_wf h2 (R.PWR_RAIL_W 2) x.links.toNat
  have h4 := sorted_wf h3 (R.PWR_RAIL_W 3) x.steading.toNat
  refine ⟨?_, ?_, ?_, ?_, ?_⟩
  · exact (((((Spares.refl (R.PWR_RAIL_W 0) _).wf_far (m := R.PWR_RAIL_W 1) (by decide) _).wf_far (m := R.PWR_RAIL_W 2) (by decide) _).wf_far
      (m := R.PWR_RAIL_W 3) (by decide) _).wf_far (m := R.PWR_RAIL_W 4) (by decide) _).rf h1 |>.trans
      (wf_last (l := R.PWR_RAIL_W 0) h (by decide) x.fields.isLt)
  · exact ((((Spares.refl (R.PWR_RAIL_W 1) _).wf_far (m := R.PWR_RAIL_W 2) (by decide) _).wf_far (m := R.PWR_RAIL_W 3) (by decide) _).wf_far
      (m := R.PWR_RAIL_W 4) (by decide) _).rf h2 |>.trans (wf_last (l := R.PWR_RAIL_W 1) h1 (by decide) x.hbm.isLt)
  · exact (((Spares.refl (R.PWR_RAIL_W 2) _).wf_far (m := R.PWR_RAIL_W 3) (by decide) _).wf_far (m := R.PWR_RAIL_W 4) (by decide) _).rf h3
      |>.trans (wf_last (l := R.PWR_RAIL_W 2) h2 (by decide) x.links.isLt)
  · exact ((Spares.refl (R.PWR_RAIL_W 3) _).wf_far (m := R.PWR_RAIL_W 4) (by decide) _).rf h4 |>.trans
      (wf_last (l := R.PWR_RAIL_W 3) h3 (by decide) x.steading.isLt)
  · refine (wf_last (l := R.PWR_RAIL_W 4) h4 (by decide) (Nat.lt_of_le_of_lt (Nat.sub_le _ _) x.w.isLt)).trans ?_
    rw [Nat.zero_add]

theorem rf64_bump64 {s : State} (hs : Store.Sorted s.regs) {lo hi : Loc} (hlo : lo.wid = 32) (hhi : hi.wid = 32) (h1 : lo.Fits) (h2 : hi.Fits)
    (hne : lo.addr ≠ hi.addr) (n : Nat) : (s.bump64 lo hi n).rf64 lo hi = (s.rf64 lo hi + n) % 2 ^ 64 := by
  have hl : (s.bump64 lo hi n).rf lo = (s.rf64 lo hi + n) % 2 ^ 64 % 2 ^ 32 := by
    refine (((Spares.refl lo _).wf_far (m := hi) hne _).rf (sorted_wf hs _ _)).trans ((rf_wf_self hs h1 _).trans ?_)
    rw [hlo]
    exact Nat.mod_mod _ _
  have hh : (s.bump64 lo hi n).rf hi = (s.rf64 lo hi + n) % 2 ^ 64 / 2 ^ 32 := by
    refine (rf_wf_self (sorted_wf hs _ _) h2 _).trans ?_
    rw [hhi]
    refine Nat.mod_eq_of_lt (Nat.div_lt_of_lt_mul ?_)
    exact Nat.mod_lt _ (by decide)
  unfold State.rf64 at hl hh ⊢
  rw [hl, hh]
  exact Nat.mod_add_div _ _

theorem rf64_congr {s t : State} {lo hi : Loc} (h1 : t.rf lo = s.rf lo) (h2 : t.rf hi = s.rf hi) : t.rf64 lo hi = s.rf64 lo hi := by
  unfold State.rf64
  rw [h1, h2]

theorem energy_averaged {s : State} (hs : Store.Sorted s.regs) (n : Nat) :
    (s.averaged.bump64 R.PWR_ENERGY_LO_MJ R.PWR_ENERGY_HI_MJ n).timedLimit.rf64 R.PWR_ENERGY_LO_MJ R.PWR_ENERGY_HI_MJ =
      (s.rf64 R.PWR_ENERGY_LO_MJ R.PWR_ENERGY_HI_MJ + n) % 2 ^ 64 := by
  have hav : ∀ l : Loc, l.addr ≠ A.PWR_AVG20 → l.addr ≠ A.PWR_AVG1S → Spares l s s.averaged := fun l h1 h2 => (Spares.refl l s).averaged h1 h2
  have hsa : Store.Sorted s.averaged.regs := (hav ⟨0, 0, 0⟩ (by decide) (by decide)).sorted hs
  have hsb : Store.Sorted (s.averaged.bump64 R.PWR_ENERGY_LO_MJ R.PWR_ENERGY_HI_MJ n).regs :=
    ((Spares.refl ⟨0, 0, 0⟩ s.averaged).bump64 (m := R.PWR_ENERGY_LO_MJ) (k := R.PWR_ENERGY_HI_MJ) (by decide) (by decide) n).sorted hsa
  rw [rf64_congr (((Spares.refl R.PWR_ENERGY_LO_MJ _).timedLimit (by decide)).rf hsb) (((Spares.refl R.PWR_ENERGY_HI_MJ _).timedLimit (by decide)).rf hsb),
    rf64_bump64 hsa rfl rfl (by decide) (by decide) (by decide),
    rf64_congr ((hav R.PWR_ENERGY_LO_MJ (by decide) (by decide)).rf hs) ((hav R.PWR_ENERGY_HI_MJ (by decide) (by decide)).rf hs)]

/-- R471: what the registers of an interval show. -/
structure State.Interval (s t : State) (x : PowerIn) : Prop where
  volts : t.rf R.PWR_IN_V_MV = x.mv.toNat
  amperes : t.rf R.PWR_IN_I_CA = x.ca.toNat
  watts : t.rf R.PWR_IN_P_W = x.w.toNat
  fields : t.rf (R.PWR_RAIL_W 0) = x.fields.toNat
  hbm : t.rf (R.PWR_RAIL_W 1) = x.hbm.toNat
  links : t.rf (R.PWR_RAIL_W 2) = x.links.toNat
  steading : t.rf (R.PWR_RAIL_W 3) = x.steading.toNat
  loss : t.rf (R.PWR_RAIL_W 4) = x.w.toNat - (x.fields.toNat + x.hbm.toNat + x.links.toNat + x.steading.toNat)
  energy : t.rf64 R.PWR_ENERGY_LO_MJ R.PWR_ENERGY_HI_MJ = (s.rf64 R.PWR_ENERGY_LO_MJ R.PWR_ENERGY_HI_MJ + x.w.toNat) % 2 ^ 64

theorem showPower_interval {s : State} (hs : Store.Sorted s.regs) (x : PowerIn) : s.Interval (s.showPower x) x := by
  rw [showPower_eq]
  obtain ⟨h1, h2, h3⟩ := metered_shows hs x
  have hsm : Store.Sorted (s.metered x).regs := ((Spares.refl ⟨0, 0, 0⟩ s).metered (by decide) (by decide) (by decide) x).sorted hs
  have hsr : Store.Sorted ((s.metered x).railed x).regs := ((Spares.refl ⟨0, 0, 0⟩ _).railed (fun i _ => by
    show 0 ≠ A.PWR_RAIL i
    unfold A.PWR_RAIL Page.powerBase
    omega) x).sorted hsm
  obtain ⟨r0, r1, r2, r3, r4⟩ := railed_shows hsm x
  have hin : ∀ l : Loc, l.addr < 0x5011c → ((s.metered x).railed x).rf l = (s.metered x).rf l := fun l hl =>
    ((Spares.refl l _).railed (fun i _ => by
      unfold A.PWR_RAIL Page.powerBase
      omega) x).rf hsm
  have hen : ∀ l : Loc, l.addr = A.PWR_ENERGY_LO ∨ l.addr = A.PWR_ENERGY_HI → ((s.metered x).railed x).rf l = s.rf l := fun l hl => by
    have hl' : l.addr = 0x50124 ∨ l.addr = 0x50128 := hl
    have hv : l.addr ≠ 0x50110 ∧ l.addr ≠ 0x50114 ∧ l.addr ≠ 0x50118 := by omega
    exact (((Spares.refl l s).metered hv.1 hv.2.1 hv.2.2 x).railed (fun i _ => by
      unfold A.PWR_RAIL Page.powerBase
      omega) x).rf hs
  generalize (s.metered x).railed x = r at hsr hin hen r0 r1 r2 r3 r4
  have hlow : ∀ l : Loc, l.addr < 0x5011c → _ := fun l hl => ((Spares.refl l r).afterRails (Or.inl hl) x.w.toNat).rf hsr
  have hhigh : ∀ l : Loc, 0x5012c < l.addr → _ := fun l hl => ((Spares.refl l r).afterRails (Or.inr hl) x.w.toNat).rf hsr
  exact ⟨(hlow R.PWR_IN_V_MV (by decide)).trans ((hin _ (by decide)).trans h1), (hlow R.PWR_IN_I_CA (by decide)).trans ((hin _ (by decide)).trans h2),
    (hlow R.PWR_IN_P_W (by decide)).trans ((hin _ (by decide)).trans h3), (hhigh (R.PWR_RAIL_W 0) (by decide)).trans r0,
    (hhigh (R.PWR_RAIL_W 1) (by decide)).trans r1, (hhigh (R.PWR_RAIL_W 2) (by decide)).trans r2,
    (hhigh (R.PWR_RAIL_W 3) (by decide)).trans r3, (hhigh (R.PWR_RAIL_W 4) (by decide)).trans r4, (energy_averaged hsr _).trans (by
      rw [rf64_congr (hen R.PWR_ENERGY_LO_MJ (Or.inl rfl)) (hen R.PWR_ENERGY_HI_MJ (Or.inr rfl))])⟩

/-- The interval's registers stay. -/
theorem State.Interval.after {s t u : State} {x : PowerIn} (h : s.Interval t x) (hs : Store.Sorted t.regs)
    (hk : ∀ l : Loc, 0x50110 ≤ l.addr → (l.addr < 0x50140 ∨ 0x50150 ≤ l.addr) → l.addr < 0x50164 → Spares l t u) : s.Interval u x := by
  obtain ⟨h1, h2, h3, h4, h5, h6, h7, h8, h9⟩ := h
  exact ⟨((hk R.PWR_IN_V_MV (by decide) (by decide) (by decide)).rf hs).trans h1, ((hk R.PWR_IN_I_CA (by decide) (by decide) (by decide)).rf hs).trans h2,
    ((hk R.PWR_IN_P_W (by decide) (by decide) (by decide)).rf hs).trans h3, ((hk (R.PWR_RAIL_W 0) (by decide) (by decide) (by decide)).rf hs).trans h4,
    ((hk (R.PWR_RAIL_W 1) (by decide) (by decide) (by decide)).rf hs).trans h5, ((hk (R.PWR_RAIL_W 2) (by decide) (by decide) (by decide)).rf hs).trans h6,
    ((hk (R.PWR_RAIL_W 3) (by decide) (by decide) (by decide)).rf hs).trans h7, ((hk (R.PWR_RAIL_W 4) (by decide) (by decide) (by decide)).rf hs).trans h8,
    (rf64_congr ((hk R.PWR_ENERGY_LO_MJ (by decide) (by decide) (by decide)).rf hs) ((hk R.PWR_ENERGY_HI_MJ (by decide) (by decide) (by decide)).rf hs)).trans h9⟩

/-! ### The limit E (R456) -/

/-- What E is read from. -/
structure State.SameBounds (s t : State) : Prop where
  reg : ∀ l : Loc, l.addr = A.PWR_ALLOT ∨ l.addr = A.PWR_FC_MIN ∨ (0x30000 ≤ l.addr ∧ l.addr < 0x31000) → t.rf l = s.rf l
  now : t.now = s.now
  pin : t.pwr.pin = s.pwr.pin
  pinFor : t.pwr.pinFor = s.pwr.pinFor
  aHist : t.pwr.aHist = s.pwr.aHist
  cHist : t.pwr.cHist = s.pwr.cHist
  ceils : t.pwr.ceils = s.pwr.ceils

theorem harrow_page {f : Nat} (hf : f < 4) {k : Nat} (hk : k < 0x40) : 0x30000 ≤ Page.almanacBase + 0x400 + k + 64 * f ∧
    Page.almanacBase + 0x400 + k + 64 * f < 0x31000 := by
  unfold Page.almanacBase
  omega

theorem foldl_congr_mem {α β : Type} {f g : β → α → β} {l : List α} (h : ∀ b, ∀ x ∈ l, f b x = g b x) (b : β) :
    l.foldl f b = l.foldl g b := by
  induction l generalizing b with
  | nil => rfl
  | cons x l ih =>
    rw [List.foldl_cons, List.foldl_cons, h b x List.mem_cons_self]
    exact ih (fun b y hy => h b y (List.mem_cons_of_mem x hy)) _

theorem State.SameBounds.harrowCap {s t : State} (h : s.SameBounds t) (a : Nat) : t.harrowCap a = s.harrowCap a := by
  unfold State.harrowCap
  refine foldl_congr_mem (fun b f hf => ?_) a
  have h4 := List.mem_range.mp hf
  have hst : t.rf (R.ALM_HRW_STAT_STATE f) = s.rf (R.ALM_HRW_STAT_STATE f) :=
    h.reg _ (Or.inr (Or.inr (harrow_page h4 (k := 0x18) (by decide))))
  have hal : t.rf (R.ALM_HRW_POWER_ALLOT f) = s.rf (R.ALM_HRW_POWER_ALLOT f) :=
    h.reg _ (Or.inr (Or.inr (harrow_page h4 (k := 0x0c) (by decide))))
  dsimp only
  unfold State.harrowing
  rw [hst, hal]

theorem State.SameBounds.limitE {s t : State} (h : s.SameBounds t) : t.limitE = s.limitE := by
  have hal : t.allot = s.allot := h.reg R.PWR_ALLOT_ALLOT (Or.inl rfl)
  have hmin : t.rf R.PWR_FC_MIN_MIN = s.rf R.PWR_FC_MIN_MIN := h.reg _ (Or.inr (Or.inl rfl))
  unfold State.limitE State.braked State.aStar State.cStar
  rw [h.pin, h.pinFor, h.now, hal, h.aHist, h.harrowCap, h.ceils, h.cHist, hmin]

theorem State.SameBounds.refl (s : State) : s.SameBounds s := ⟨fun _ _ => rfl, rfl, rfl, rfl, rfl, rfl, rfl⟩

theorem State.SameBounds.trans {s t u : State} (h : s.SameBounds t) (k : t.SameBounds u) : s.SameBounds u :=
  ⟨fun l hl => (k.reg l hl).trans (h.reg l hl), k.now.trans h.now, k.pin.trans h.pin, k.pinFor.trans h.pinFor,
    k.aHist.trans h.aHist, k.cHist.trans h.cHist, k.ceils.trans h.ceils⟩

/-- Registers that E is read from stay, and the state of power. -/
theorem sameBounds_of_spares {s t : State} (hs : Store.Sorted s.regs) (hn : t.now = s.now) (hp : t.pwr = s.pwr)
    (h : ∀ l : Loc, l.addr = A.PWR_ALLOT ∨ l.addr = A.PWR_FC_MIN ∨ (0x30000 ≤ l.addr ∧ l.addr < 0x31000) → Spares l s t) : s.SameBounds t :=
  ⟨fun l hl => (h l hl).rf hs, hn, congrArg PwrSt.pin hp, congrArg PwrSt.pinFor hp, congrArg PwrSt.aHist hp, congrArg PwrSt.cHist hp,
    congrArg PwrSt.ceils hp⟩

/-! ### A sample (R449, R454, R457 to R459) -/

/-- R457: the samples and their windows once a millisecond of mean `w` has ended. -/
def State.sampled (s : State) (w : Nat) : PwrSt :=
  { s.pwr with
    samples := ((w, if s.pwr.eTicks = 0 then msTicks * s.limitE else s.pwr.eSum * msTicks / s.pwr.eTicks) :: s.pwr.samples).take 1000
    eSum := 0, eTicks := 0, ms := s.pwr.ms + 1 }

theorem addSample_eq (s : State) (w : Nat) : s.addSample w = { s with pwr := s.sampled w } := rfl

theorem addSample_regs (s : State) (w : Nat) : (s.addSample w).regs = s.regs := rfl

theorem addSample_pwr (s : State) (w : Nat) : (s.addSample w).pwr = s.sampled w := rfl

theorem addSample_now (s : State) (w : Nat) : (s.addSample w).now = s.now := rfl

theorem addSample_bounds (s : State) (w : Nat) : s.SameBounds (s.addSample w) := ⟨fun _ _ => rfl, rfl, rfl, rfl, rfl, rfl, rfl⟩

theorem showPower_same (s : State) (x : PowerIn) : Same 8 s (s.showPower x) := State.showPower_same (.refl 8 s) rfl x

/-- R457: the two windows' sources. -/
def State.windowsRaised (s : State) (one twenty : Bool) : State :=
  let s := if one then s.raiseSrc Page.powerBase 0 else s
  if twenty then s.raiseSrc Page.powerBase 1 else s

theorem execPowerSample_runs {x : PowerIn} {s : State} (h : s.pins.held = false) (p : PwrSt) (hp : p = s.sampled x.w.toNat) :
    exec (.powerSample x) s = .next ((((((s.addSample x.w.toNat).showPower x).windowsRaised (p.breaks 1000 10) (p.breaks 20 11)).brakeAfter
      x.w.toNat (p.breaks 1000 10 || p.breaks 20 11)).condIs Page.powerBase 2
        (decide (x.mv.toNat < 44000) || decide (58000 < x.mv.toNat))).applyDuty.notePower s (p.breaks 1000 10 || p.breaks 20 11)) := by
  have hpw : ((s.addSample x.w.toNat).showPower x).pwr = p := by
    rw [(showPower_same _ x).pwr.resolve_left (by decide), addSample_pwr, hp]
  show execPowerSample x s = _
  unfold execPowerSample
  rw [h]
  dsimp only
  rw [hpw]
  refine (if_neg Bool.false_ne_true).trans ?_
  refine congrArg (fun u : State => Host.Outcome.next (u.applyDuty.notePower s (p.breaks 1000 10 || p.breaks 20 11))) ?_
  rfl

theorem windowsRaised_pwr (s : State) (one twenty : Bool) : (s.windowsRaised one twenty).pwr = s.pwr := by
  cases one <;> cases twenty
  · rfl
  · exact raiseSrc_pwr _ _ _
  · exact raiseSrc_pwr _ _ _
  · exact (raiseSrc_pwr _ _ _).trans (raiseSrc_pwr _ _ _)

theorem Spares.windowsRaised {l : Loc} {s0 s : State} (hk : Spares l s0 s) (h : l.NoErr Page.powerBase) (one twenty : Bool) :
    Spares l s0 (s.windowsRaised one twenty) :=
  have h1 : Spares l s0 (if one then s.raiseSrc Page.powerBase 0 else s) := Spares.ite (hk.raiseSrc h 0) hk
  Spares.ite (h1.raiseSrc h 1) h1

theorem windowsRaised_one {s : State} (hs : Store.Sorted s.regs) (twenty : Bool) :
    ((s.windowsRaised true twenty).rf (R.ERR_STAT_STAT Page.powerBase)).testBit 0 = true := by
  have h0 := raiseSrc_raised hs Page.powerBase (bit := 0) (by decide)
  cases twenty with
  | false => exact h0
  | true => exact (keepsBit_raiseSrc (s.raiseSrc Page.powerBase 0) Page.powerBase (by decide) 1).bit (sorted_raiseSrc hs _ _) h0

theorem windowsRaised_twenty {s : State} (hs : Store.Sorted s.regs) (one : Bool) :
    ((s.windowsRaised one true).rf (R.ERR_STAT_STAT Page.powerBase)).testBit 1 = true := by
  cases one with
  | false => exact raiseSrc_raised hs Page.powerBase (by decide)
  | true => exact raiseSrc_raised (sorted_raiseSrc hs Page.powerBase 0) Page.powerBase (by decide)

theorem brakeAfter_regs (s : State) (w : Nat) (broke : Bool) : (s.brakeAfter w broke).regs = s.regs := rfl

theorem brakeAfter_keeps (s : State) (w : Nat) (broke : Bool) (hc : s.Canon) : (s.brakeAfter w broke).Canon :=
  (State.brakeAfter_keeps (.refl s) w broke).canon hc

theorem brakeAfter_samples (s : State) (w : Nat) (broke : Bool) :
    (s.brakeAfter w broke).pwr.samples = s.pwr.samples ∧ (s.brakeAfter w broke).pwr.ms = s.pwr.ms := ⟨rfl, rfl⟩

theorem brakeAfter_459 (s : State) (w : Nat) (broke : Bool) : (s.brakeAfter w broke).pwr.brake459 =
    ((s.pwr.brake459 || broke) && decide (10 * s.limitE < meanOf s.pwr.samples 20)) := rfl

theorem brakeAfter_braking (s : State) (w : Nat) (broke : Bool) : (s.brakeAfter w broke).pwr.braking =
    ((s.pwr.pin && s.pwr.braking && decide (600 < w)) ||
      ((s.brakeAfter w broke).pwr.brake459 && (s.pwr.braking || broke) && decide (10 * s.limitE < w))) := rfl

theorem brakeAfter_pos (s : State) (w : Nat) (broke : Bool) : (s.brakeAfter w broke).pwr.pos =
    if (s.brakeAfter w broke).pwr.braking then lastPlace else s.pwr.pos := rfl

/-- What power's state `p` shows after a sample with mean `w`; `e` is the limit. -/
structure PwrSt.Sampled (p q : PwrSt) (e w : Nat) (broke : Bool) : Prop where
  samples : q.samples = p.samples
  ms : q.ms = p.ms
  brake459 : q.brake459 = ((p.brake459 || broke) && decide (10 * e < meanOf p.samples 20))
  braking : q.braking = ((p.pin && p.braking && decide (600 < w)) || (q.brake459 && (p.braking || broke) && decide (10 * e < w)))
  pos : q.pos = if q.braking then lastPlace else p.pos

theorem brakeAfter_sampled (s : State) (w : Nat) (broke : Bool) : s.pwr.Sampled (s.brakeAfter w broke).pwr s.limitE w broke :=
  ⟨rfl, rfl, brakeAfter_459 s w broke, brakeAfter_braking s w broke, brakeAfter_pos s w broke⟩

theorem Spares.mgEventOn {l : Loc} {s0 s : State} (hk : Spares l s0 s) (h : l.addr ≠ A.STD_MG_EVDROP) (b kind : Nat) (rest : List Byte) :
    Spares l s0 (s.mgEventOn b kind rest) := by
  unfold State.mgEventOn
  dsimp only
  refine Spares.ite hk (Spares.ite (hk.bump (m := R.STD_MG_EVDROP_COUNT) h 1) (hk.then_regs rfl))

theorem Spares.notePower {l : Loc} {s0 s : State} (hk : Spares l s0 s) (h : l.addr ≠ A.STD_MG_EVDROP) (old : State) (acts : Bool) :
    Spares l s0 (s.notePower old acts) := by
  unfold State.notePower
  exact Spares.ite ((hk.mgEventOn h 0 2 _).mgEventOn h 1 2 _) hk

/-- Duty and the note to management leave what stands beside them in the power page. -/
theorem Spares.noted {l : Loc} {s0 s : State} (hk : Spares l s0 s) (hd : ∀ f, f < 4 → l.Clear (R.PWR_FLD_DUTY f)) (hl : l.Clear R.PWR_STAT_LIMIT)
    (he : l.addr ≠ A.STD_MG_EVDROP) (old : State) (acts : Bool) : Spares l s0 (s.applyDuty.notePower old acts) :=
  (hk.applyDuty hd hl).notePower he old acts

theorem pairs_noted (s old : State) (acts : Bool) : (s.applyDuty.notePower old acts).pairs = s.pairs :=
  (State.notePower_same (State.applyDuty_same (.refl 1125899906842632 s) rfl) rfl old acts).pairs.resolve_left (by decide)

theorem pair_of_pairs {s t : State} (h : t.pairs = s.pairs) (k : Nat) : t.pair k = s.pair k := by
  unfold State.pair
  rw [h]

theorem clear_duty {l : Loc} (h : l.addr < 0x50140 ∨ 0x50150 ≤ l.addr) {f : Nat} (hf : f < 4) : l.Clear (R.PWR_FLD_DUTY f) :=
  Or.inl (show l.addr ≠ A.PWR_FLD f by
    unfold A.PWR_FLD Page.powerBase
    omega)

/-- The error words of the power page stay under duty. -/
theorem noted_stat (s old : State) (acts : Bool) (j : Nat) : KeepsBit Page.powerBase j s (s.applyDuty.notePower old acts) :=
  ((Spares.refl (R.ERR_STAT_STAT Page.powerBase) s).noted (fun _ hf => clear_duty (by decide) hf) (Or.inl (by decide)) (by decide) old acts).keepsBit j

/-- What a sample does from the state `u` that shows its interval. -/
theorem sample_shows {s u old : State} (hc : u.Canon) (x : PowerIn) (hi : s.Interval u x) (w : Nat) (one twenty mv : Bool) :
    let t := (((u.windowsRaised one twenty).brakeAfter w (one || twenty)).condIs Page.powerBase 2 mv).applyDuty.notePower old (one || twenty)
    s.Interval t x ∧ u.pwr.Sampled t.pwr u.limitE w (one || twenty) ∧ (t.pair (pairKey Page.powerBase 2)).cond = mv ∧
      (one = true → (t.rf (R.ERR_STAT_STAT Page.powerBase)).testBit 0 = true) ∧
      (twenty = true → (t.rf (R.ERR_STAT_STAT Page.powerBase)).testBit 1 = true) := by
  have hsw : Store.Sorted (u.windowsRaised one twenty).regs :=
    ((Spares.refl ⟨0, 0, 0⟩ u).windowsRaised (Loc.noErr_of_page (by decide)) one twenty).sorted hc.regs
  have hcw : (u.windowsRaised one twenty).Canon := by
    refine (ite_keeps (State.raiseSrc_keeps ?_ _ _) ?_ : Keeps u _).canon hc <;>
      exact ite_keeps (State.raiseSrc_keeps (.refl u) _ _) (.refl u)
  have hcb := brakeAfter_keeps _ w (one || twenty) hcw
  have hlim : (u.windowsRaised one twenty).limitE = u.limitE :=
    (sameBounds_of_spares hc.regs ((ite_same (State.raiseSrc_same (ite_same (State.raiseSrc_same (.refl 8589934600 u) rfl _ _) (.refl _ u)) rfl _ _)
      (ite_same (State.raiseSrc_same (.refl 8589934600 u) rfl _ _) (.refl _ u)) : Same 8589934600 u (u.windowsRaised one twenty)).now.resolve_left (by decide))
      (windowsRaised_pwr u one twenty) fun l hl => (Spares.refl l u).windowsRaised (Loc.noErr_of_page (by
        have hl' : l.addr = 0x50100 ∨ l.addr = 0x50184 ∨ (0x30000 ≤ l.addr ∧ l.addr < 0x31000) := hl
        show l.addr < 0x50000 ∨ 0x50000 + 0x28 ≤ l.addr
        omega)) one twenty).limitE
  have hsamp := brakeAfter_sampled (u.windowsRaised one twenty) w (one || twenty)
  rw [windowsRaised_pwr, hlim] at hsamp
  have hregs : ((u.windowsRaised one twenty).brakeAfter w (one || twenty)).regs = (u.windowsRaised one twenty).regs := brakeAfter_regs _ _ _
  generalize (u.windowsRaised one twenty).brakeAfter w (one || twenty) = b at hcb hsamp hregs
  have hsp : ∀ l : Loc, 0x50110 ≤ l.addr → (l.addr < 0x50140 ∨ 0x50150 ≤ l.addr) → l.addr < 0x50164 →
      Spares l u ((b.condIs Page.powerBase 2 mv).applyDuty.notePower old (one || twenty)) := fun l h1 h2 h3 => by
    have herr : l.NoErr Page.powerBase := Loc.noErr_of_page (Or.inr (Nat.le_trans (by decide) h1))
    refine (((((Spares.refl l u).windowsRaised herr one twenty).then_regs hregs).condIs herr 2 mv).noted (fun _ hf => clear_duty h2 hf)
      (Or.inl ?_) ?_ old _)
    · show l.addr ≠ 0x50108
      omega
    · show l.addr ≠ 0x5E114
      omega
  have hkb : ∀ j, j < 32 → KeepsBit Page.powerBase j (u.windowsRaised one twenty)
      ((b.condIs Page.powerBase 2 mv).applyDuty.notePower old (one || twenty)) := fun j hj =>
    (((KeepsBit.refl Page.powerBase j _).then_regs hregs).trans (keepsBit_condIs b Page.powerBase hj 2 mv)).trans (noted_stat _ _ _ j)
  refine ⟨hi.after hc.regs hsp, ?_, ?_, fun h => ?_, fun h => ?_⟩
  · rw [pwr_noted, condIs_pwr]
    exact hsamp
  · rw [pair_of_pairs (pairs_noted _ _ _)]
    exact condIs_cond hcb _ _ _
  · subst h
    exact (hkb 0 (by decide)).bit hsw (windowsRaised_one hc.regs twenty)
  · subst h
    exact (hkb 1 (by decide)).bit hsw (windowsRaised_twenty hc.regs one)

/-! ### Heat (R468, R538) -/

theorem isFieldDie_iff {d : Nat} : isFieldDie d = true ↔ d < 4 := decide_eq_true_iff

theorem if_fieldDie {α : Type} (d : Nat) (a b : α) : (if isFieldDie d then a else b) = if d < 4 then a else b := by
  by_cases h : d < 4
  · rw [if_pos h, if_pos (isFieldDie_iff.mpr h)]
  · rw [if_neg h, if_neg fun hx => h (isFieldDie_iff.mp hx)]

theorem showTemp_frame (s : State) (d : Nat) (x : BitVec 8) : { s.showTemp d x with regs := s.regs } = s := by
  unfold State.showTemp
  split <;> exact wf_frame s _ _

theorem showTemp_pwr (s : State) (d : Nat) (x : BitVec 8) : (s.showTemp d x).pwr = s.pwr := (congrArg State.pwr (showTemp_frame s d x) :)

theorem showTemp_pairs (s : State) (d : Nat) (x : BitVec 8) : (s.showTemp d x).pairs = s.pairs := (congrArg State.pairs (showTemp_frame s d x) :)

theorem hbm_high (f m : Nat) : 0x1000000 ≤ A.HBM_STAT f m := by
  unfold A.HBM_STAT Page.hbmBase Page.fieldBase
  omega

/-- A temperature shows in one byte only. -/
theorem Spares.showTemp {l : Loc} {s0 s : State} (hk : Spares l s0 s) (h : l.addr < 0x50140 ∨ 0x50150 ≤ l.addr ∨ l.lo + l.wid ≤ 24)
    (hl : l.addr < 0x1000000) (d : Nat) (x : BitVec 8) : Spares l s0 (s.showTemp d x) := by
  unfold State.showTemp
  by_cases hd : isFieldDie d = true
  · rw [if_pos hd]
    have h4 := isFieldDie_iff.mp hd
    refine hk.wf (Nat.le_of_ble_eq_true rfl) ?_ _
    rcases h with h | h | h
    · exact Or.inl (show l.addr ≠ A.PWR_FLD d by
        unfold A.PWR_FLD Page.powerBase
        omega)
    · exact Or.inl (show l.addr ≠ A.PWR_FLD d by
        unfold A.PWR_FLD Page.powerBase
        omega)
    · exact Or.inr (Or.inl h)
  · rw [if_neg hd]
    exact hk.wf_far (m := R.HBM_STAT_TEMP ((d - 4) / 5) ((d - 4) % 5)) (Nat.ne_of_lt (Nat.lt_of_lt_of_le hl (hbm_high _ _))) _

theorem sorted_showTemp {s : State} (h : Store.Sorted s.regs) (d : Nat) (x : BitVec 8) : Store.Sorted (s.showTemp d x).regs :=
  ((Spares.refl ⟨0, 0, 0⟩ s).showTemp (Or.inl (by decide)) (by decide) d x).sorted h

theorem showTemp_shows {s : State} (h : Store.Sorted s.regs) (d : Nat) (x : BitVec 8) :
    (d < 4 → (s.showTemp d x).rf (R.PWR_FLD_TJ d) = x.toNat) ∧
      (4 ≤ d → (s.showTemp d x).rf (R.HBM_STAT_TEMP ((d - 4) / 5) ((d - 4) % 5)) = x.toNat) := by
  unfold State.showTemp
  refine ⟨fun hd => ?_, fun hd => ?_⟩
  · rw [if_pos (isFieldDie_iff.mpr hd)]
    exact wf_last (l := R.PWR_FLD_TJ d) h (Nat.le_of_ble_eq_true rfl) x.isLt
  · rw [if_neg fun hx => Nat.not_lt.mpr hd (isFieldDie_iff.mp hx)]
    exact wf_last (l := R.HBM_STAT_TEMP _ _) h (Nat.le_of_ble_eq_true rfl) x.isLt

theorem Spares.noteTrip {l : Loc} {s0 s : State} (hk : Spares l s0 s) (h : l.addr ≠ A.STD_TTRIP_CNT) (old : State) :
    Spares l s0 (s.noteTrip old) := Spares.ite (hk.bump (m := R.STD_TTRIP_CNT_COUNT) h 1) hk

theorem noteTrip_count {s : State} (h : Store.Sorted s.regs) (old : State) : (s.noteTrip old).rf R.STD_TTRIP_CNT_COUNT =
    if s.tripPin = true ∧ old.tripPin = false then satAdd32 (s.rf R.STD_TTRIP_CNT_COUNT) 1 else s.rf R.STD_TTRIP_CNT_COUNT := by
  unfold State.noteTrip
  cases s.tripPin <;> cases old.tripPin
  · rfl
  · rfl
  · exact (rf_bump_self h (l := R.STD_TTRIP_CNT_COUNT) (by decide) 1).trans (satAdd32_mod _ _)
  · rfl

theorem noteTrip_pwr (s old : State) : (s.noteTrip old).pwr = s.pwr :=
  (State.noteTrip_same (.refl 8 s) rfl old).pwr.resolve_left (by decide)

theorem tripPin_congr {s t : State} (hp : t.pins = s.pins) (hw : t.pwr = s.pwr) (hr : t.stage = s.stage) : t.tripPin = s.tripPin := by
  unfold State.tripPin
  rw [hp, hw, hr]

theorem stage_of_spares {s t : State} (h : Spares R.SEC_BOOT_STAGE s t) (hs : Store.Sorted s.regs) : t.stage = s.stage := h.rf hs

/-- R538: the analog sensor's side of die `d`. -/
def State.analogAt (s : State) (d : Nat) (on : Bool) : State := { s with pwr := { s.pwr with analog := markDie s.pwr.analog d on } }

theorem analogAt_regs (s : State) (d : Nat) (on : Bool) : (s.analogAt d on).regs = s.regs := rfl

theorem execAnalogTrip_runs {s : State} (h : s.pins.standby = true) (d : Fin 24) (on : Bool) :
    exec (.analogTrip d on) s = .next (((s.analogAt d on).noteTrip s).notePower s false) := by
  show execAnalogTrip d on s = _
  unfold execAnalogTrip
  rw [h]
  exact if_neg Bool.false_ne_true

theorem notePower_pins (s old : State) (acts : Bool) : (s.notePower old acts).pins = s.pins :=
  (State.notePower_same (.refl 1125899906842632 s) rfl old acts).pins.resolve_left (by decide)

theorem noteTrip_pins (s old : State) : (s.noteTrip old).pins = s.pins :=
  (State.noteTrip_same (.refl 8 s) rfl old).pins.resolve_left (by decide)

theorem tripPin_noted {s : State} (h : Store.Sorted s.regs) (old old' : State) : ((s.noteTrip old).notePower old' false).tripPin = s.tripPin :=
  tripPin_congr ((notePower_pins _ _ _).trans (noteTrip_pins _ _)) ((notePower_pwr _ _ _).trans (noteTrip_pwr _ _))
    (stage_of_spares (((Spares.refl R.SEC_BOOT_STAGE s).noteTrip (by decide) old).notePower (by decide) old' false) h)

/-- R468: the dies that have tripped. -/
def State.withTrips (s : State) (trips : Store Unit) : State := { s with pwr := { s.pwr with trips := trips } }

theorem withTrips_regs (s : State) (l : Store Unit) : (s.withTrips l).regs = s.regs := rfl

theorem withTrips_pairs (s : State) (l : Store Unit) : (s.withTrips l).pairs = s.pairs := rfl

theorem withTrips_pwr (s : State) (l : Store Unit) : (s.withTrips l).pwr = { s.pwr with trips := l } := rfl

theorem withTrips_pins (s : State) (l : Store Unit) : (s.withTrips l).pins = s.pins := rfl

theorem execThermalTrip_runs {s : State} (h : s.pins.held = false) {d : Fin 24} {x : BitVec 8} (hx : (if d.val < 4 then 110 else 100) ≤ dieTemp d x) :
    exec (.thermalTrip d x) s = .next (((((s.showTemp d x).withTrips (sput (s.showTemp d x).pwr.trips d ())).applyDuty.raiseCond
      Page.powerBase 5).noteTrip s).notePower s false) := by
  show execThermalTrip d x s = _
  unfold execThermalTrip
  rw [h, if_fieldDie, Bool.false_or, decide_eq_false (Int.not_lt.mpr hx)]
  exact if_neg Bool.false_ne_true

theorem execThermalTripEnd_runs {s : State} (h : s.pins.held = false) {d : Fin 24} {x : BitVec 8} (hx : dieTemp d x ≤ (if d.val < 4 then 100 else 90)) :
    exec (.thermalTripEnd d x) s = .next (((((s.showTemp d x).withTrips (sdel (s.showTemp d x).pwr.trips d)).applyDuty.condIs Page.powerBase 5
      (!(sdel (s.showTemp d x).pwr.trips d).isEmpty)).notePower s false).admitAll) := by
  show execThermalTripEnd d x s = _
  unfold execThermalTripEnd
  rw [h, if_fieldDie, Bool.false_or, decide_eq_false (Int.not_lt.mpr hx)]
  exact if_neg Bool.false_ne_true

theorem withTrips_keeps {s0 s : State} (h : Keeps s0 s) (l : Store Unit) : Keeps s0 (s.withTrips l) := keeps_rec h rfl

theorem pair_noteTrip (s old : State) (k : Nat) : (s.noteTrip old).pair k = s.pair k :=
  pair_of_pairs ((State.noteTrip_same (.refl 8 s) rfl old).pairs.resolve_left (by decide)) k

theorem pair_notePower (s old : State) (acts : Bool) (k : Nat) : (s.notePower old acts).pair k = s.pair k :=
  pair_of_pairs ((State.notePower_same (.refl 1125899906842632 s) rfl old acts).pairs.resolve_left (by decide)) k

theorem pair_applyDuty (s : State) (k : Nat) : s.applyDuty.pair k = s.pair k :=
  pair_of_pairs ((State.applyDuty_same (.refl 8 s) rfl).pairs.resolve_left (by decide)) k

theorem sput_nonempty (l : Store Unit) (d : Nat) : (sput l d ()).isEmpty = false := by
  cases h : sput l d () with
  | nil =>
    have := sget_sput_self l d ()
    rw [h] at this
    cases this
  | cons _ _ => rfl

theorem tripPin_of_trips {s : State} (h1 : s.pins.standby = true) (h2 : s.stage = 5) (h3 : s.pwr.trips.isEmpty = false) : s.tripPin = true := by
  unfold State.tripPin
  rw [h1, h2, h3]
  rfl

theorem tripped_of_sput {s : State} {l : Store Unit} {d : Nat} (h : s.pwr.trips = sput l d ()) : s.tripped d = true := by
  unfold State.tripped
  rw [h, sget_sput_self]
  rfl

theorem raiseCond_pwr (s : State) (page bit : Nat) : (s.raiseCond page bit).pwr = s.pwr := condIs_pwr s page bit true

theorem fieldAwake_showTemp {s : State} (hs : Store.Sorted s.regs) (d : Nat) {f : Nat} (hf : f < 4) (x : BitVec 8) :
    (s.showTemp d x).fieldAwake f = s.fieldAwake f :=
  congrArg (· == 2) (((Spares.refl (R.PWR_FLD_STATE f) s).showTemp (Or.inr (Or.inr (Nat.le_of_ble_eq_true rfl))) (by
    show A.PWR_FLD f < _
    unfold A.PWR_FLD Page.powerBase
    omega) d x).rf hs)

theorem Spares.raiseCond {l : Loc} {s0 s : State} (hk : Spares l s0 s) {page : Nat} (h : l.NoErr page) (b : Nat) :
    Spares l s0 (s.raiseCond page b) := hk.condIs h b true

theorem raiseCond_pins (s : State) (page b : Nat) : (s.raiseCond page b).pins = s.pins :=
  (State.raiseCond_same (.refl 8589934600 s) rfl page b).pins.resolve_left (by decide)

theorem applyDuty_pins (s : State) : s.applyDuty.pins = s.pins :=
  (State.applyDuty_same (.refl 8 s) rfl).pins.resolve_left (by decide)

/-- What a trip of die `d` leaves. -/
theorem trip_shows {s : State} (hc : s.Canon) (d : Nat) (x : BitVec 8) :
    let t := ((((s.showTemp d x).withTrips (sput (s.showTemp d x).pwr.trips d ())).applyDuty.raiseCond Page.powerBase 5).noteTrip s).notePower s false
    t.pwr = { s.pwr with trips := sput s.pwr.trips d () } ∧ (t.pair (pairKey Page.powerBase 5)).cond = true ∧
      (s.fieldAwake d = true → d < 4 → t.rf (R.PWR_FLD_DUTY d) = 0) ∧
      ((s.pair (pairKey Page.powerBase 5)).cond = false → (t.rf (R.ERR_STAT_STAT Page.powerBase)).testBit 5 = true) ∧
      (s.stage = 5 → s.pins.standby = true → t.tripPin = true) := by
  have hxs := sorted_showTemp hc.regs d x
  have hxp := showTemp_pwr s d x
  have hcu := (withTrips_keeps (State.showTemp_keeps (.refl s) d x) (sput (s.showTemp d x).pwr.trips d ())).canon hc
  have hsu : Store.Sorted ((s.showTemp d x).withTrips (sput (s.showTemp d x).pwr.trips d ())).regs := hcu.regs
  have hpw : ((s.showTemp d x).withTrips (sput (s.showTemp d x).pwr.trips d ())).pwr = { s.pwr with trips := sput s.pwr.trips d () } :=
    (withTrips_pwr _ _).trans (by rw [hxp])
  have hpair : ∀ k, ((s.showTemp d x).withTrips (sput (s.showTemp d x).pwr.trips d ())).pair k = s.pair k := fun k =>
    pair_of_pairs ((withTrips_pairs _ _).trans (showTemp_pairs s d x)) k
  have hpins : ((s.showTemp d x).withTrips (sput (s.showTemp d x).pwr.trips d ())).pins = s.pins :=
    (withTrips_pins _ _).trans (congrArg State.pins (showTemp_frame s d x) :)
  have hstage : ((s.showTemp d x).withTrips (sput (s.showTemp d x).pwr.trips d ())).stage = s.stage :=
    stage_of_spares (((Spares.refl R.SEC_BOOT_STAGE s).showTemp (Or.inr (Or.inl (by decide))) (by decide) d x).then_regs (withTrips_regs _ _)) hc.regs
  have hawake : ∀ f, f < 4 → ((s.showTemp d x).withTrips (sput (s.showTemp d x).pwr.trips d ())).fieldAwake f = s.fieldAwake f := fun f hf =>
    (congrArg (· == 2) (rf_of_regs (withTrips_regs _ _) (R.PWR_FLD_STATE f))).trans (fieldAwake_showTemp hc.regs d hf x)
  generalize (s.showTemp d x).withTrips (sput (s.showTemp d x).pwr.trips d ()) = u at hcu hsu hpw hpair hpins hstage hawake
  have hca := (State.applyDuty_keeps (.refl u)).canon hcu
  have hsr : Store.Sorted (u.applyDuty.raiseCond Page.powerBase 5).regs := ((State.raiseCond_keeps (.refl u.applyDuty) _ _).canon hca).regs
  refine ⟨?_, ?_, fun ha hd => ?_, fun hcond => ?_, fun h5 hst => ?_⟩
  · rw [notePower_pwr, noteTrip_pwr, raiseCond_pwr, applyDuty_pwr, hpw]
  · rw [pair_notePower, pair_noteTrip]
    exact cond_raiseCond hca _ _
  · have herr : (R.PWR_FLD_DUTY d).NoErr Page.powerBase := Loc.noErr_of_page (Or.inr (by
      show Page.powerBase + 0x28 ≤ A.PWR_FLD d
      unfold A.PWR_FLD
      omega))
    have hlow : A.PWR_FLD d < 0x50150 := by
      unfold A.PWR_FLD Page.powerBase
      omega
    have hd1 : A.PWR_FLD d ≠ A.STD_TTRIP_CNT := by
      unfold A.STD_TTRIP_CNT Page.steadingBase A.PWR_FLD Page.powerBase
      omega
    have hd2 : A.PWR_FLD d ≠ A.STD_MG_EVDROP := Nat.ne_of_lt (Nat.lt_trans hlow (by decide))
    refine (((((Spares.refl (R.PWR_FLD_DUTY d) u.applyDuty).raiseCond herr 5).noteTrip hd1 s).notePower hd2 s false).rf hca.regs).trans ?_
    rw [applyDuty_duty hsu hd, hawake d hd, ha, if_pos rfl, targetDuty_mod, tripped_of_sput (congrArg PwrSt.trips hpw)]
    rfl
  · have hk : KeepsBit Page.powerBase 5 (u.applyDuty.raiseCond Page.powerBase 5)
        (((u.applyDuty.raiseCond Page.powerBase 5).noteTrip s).notePower s false) :=
      (((Spares.refl (R.ERR_STAT_STAT Page.powerBase) _).noteTrip (by decide) s).notePower (by decide) s false).keepsBit 5
    refine hk.bit hsr (raiseCond_raised hca.regs Page.powerBase (by decide) ?_)
    rw [pair_applyDuty, hpair, hcond]
  · rw [tripPin_noted hsr]
    refine tripPin_of_trips ?_ ?_ ?_
    · rw [raiseCond_pins, applyDuty_pins, hpins, hst]
    · exact (stage_of_spares (((Spares.refl R.SEC_BOOT_STAGE u).applyDuty (fun _ hf => clear_duty (by decide) hf)
        (Or.inl (by decide))).raiseCond (Loc.noErr_of_page (by decide)) 5) hsu).trans (hstage.trans h5)
    · rw [raiseCond_pwr, applyDuty_pwr, hpw]
      exact sput_nonempty _ _

theorem withTrips_same {M : Nat} {s0 s : State} (h : Same M s0 s) (hM : 281474976710656 ||| M = M) (l : Store Unit) :
    Same M s0 (s.withTrips l) := same_u281474976710656 h hM

/-- What the end of a trip of die `d` leaves, before the collective operations that waited are admitted. -/
def State.tripEnded (s : State) (d : Nat) (x : BitVec 8) : State :=
  (((s.showTemp d x).withTrips (sdel (s.showTemp d x).pwr.trips d)).applyDuty.condIs Page.powerBase 5
      (!(sdel (s.showTemp d x).pwr.trips d).isEmpty)).notePower s false

theorem tripEnded_same (s : State) (d : Nat) (x : BitVec 8) : Same (partsMask [.regs, .pairs, .pwr, .mg]) s (s.tripEnded d x) :=
  State.notePower_same (State.condIs_same (State.applyDuty_same (withTrips_same (State.showTemp_same (.refl _ s) rfl d x) rfl _) rfl) rfl _ _ _)
    rfl _ _

theorem tripEnded_pwr (s : State) (d : Nat) (x : BitVec 8) : (s.tripEnded d x).pwr = { s.pwr with trips := sdel s.pwr.trips d } := by
  refine (notePower_pwr _ _ _).trans ((condIs_pwr _ _ _ _).trans ((applyDuty_pwr _).trans ((withTrips_pwr _ _).trans ?_)))
  rw [showTemp_pwr]

theorem tripEnded_pair {s : State} (hc : s.Canon) (d : Nat) (x : BitVec 8) :
    ((s.tripEnded d x).pair (pairKey Page.powerBase 5)).cond = !(sdel s.pwr.trips d).isEmpty := by
  have hcu := (withTrips_keeps (State.showTemp_keeps (.refl s) d x) (sdel (s.showTemp d x).pwr.trips d)).canon hc
  refine (congrArg PairSt.cond (pair_notePower _ _ _ _)).trans
    ((condIs_cond ((State.applyDuty_keeps (.refl _)).canon hcu) Page.powerBase 5 _).trans ?_)
  rw [showTemp_pwr]

theorem admitAll_pwr (s : State) : s.admitAll.pwr = s.pwr :=
  (State.admitAll_same (.refl 4204304376842 s) rfl).pwr.resolve_left (by decide)

/-- The end of a trip of die `d` (R468). -/
theorem tripEnd_shows {s : State} (hc : s.Canon) (hp : s.pins.held = false) {d : Fin 24} {x : BitVec 8}
    (hx : dieTemp d x ≤ (if d.val < 4 then 100 else 90)) :
    ∃ t, exec (.thermalTripEnd d x) s = .next t ∧ t.pwr = { s.pwr with trips := sdel s.pwr.trips d } ∧
      ((∀ f : Fin 4, (s.eng f).waiting = []) → s.SameBut t [.regs, .pairs, .pwr, .mg] ∧
        (t.pair (pairKey Page.powerBase 5)).cond = !t.pwr.trips.isEmpty) := by
  have hex : exec (.thermalTripEnd d x) s = .next (s.tripEnded d x).admitAll := execThermalTripEnd_runs hp hx
  have hsame := tripEnded_same s d x
  have hpwr := tripEnded_pwr s d x
  have hpair := tripEnded_pair hc d x
  generalize s.tripEnded d x = u at hex hsame hpwr hpair
  refine ⟨_, hex, (admitAll_pwr u).trans hpwr, fun hw => ?_⟩
  have hidle : u.admitAll = u := admitAll_idle fun f => by
    rw [eng_of_engines (hsame.engines.resolve_left (by decide))]
    exact hw f
  rw [hidle, hpwr]
  exact ⟨hsame.parts, hpair⟩

/-! ### Thermal control (R468) -/

/-- The registers of the coolant. -/
def State.cooled (s : State) (tin tout : BitVec 8) : State := (s.wf R.PWR_COOL_TIN tin.toNat).wf R.PWR_COOL_TOUT tout.toNat

theorem cooled_pwr (s : State) (tin tout : BitVec 8) : (s.cooled tin tout).pwr = s.pwr := (wf_pwr _ _ _).trans (wf_pwr _ _ _)

theorem Spares.cooled {l : Loc} {s0 s : State} (hk : Spares l s0 s) (h : l.addr ≠ A.PWR_COOL) (tin tout : BitVec 8) :
    Spares l s0 (s.cooled tin tout) := (hk.wf_far (m := R.PWR_COOL_TIN) h _).wf_far (m := R.PWR_COOL_TOUT) h _

theorem cooled_shows {s : State} (h : Store.Sorted s.regs) (tin tout : BitVec 8) :
    (s.cooled tin tout).rf R.PWR_COOL_TIN = tin.toNat ∧ (s.cooled tin tout).rf R.PWR_COOL_TOUT = tout.toNat := by
  have h1 := sorted_wf h R.PWR_COOL_TIN tin.toNat
  refine ⟨?_, wf_last (l := R.PWR_COOL_TOUT) h1 (by decide) tout.isLt⟩
  exact (((Spares.refl R.PWR_COOL_TIN _).wf (m := R.PWR_COOL_TOUT) (by decide) (Or.inr (by decide)) _).rf h1).trans
    (wf_last (l := R.PWR_COOL_TIN) h (by decide) tin.isLt)

/-- R468: the states of the dies once die `d` measures `temp` and control asks for level `lvl`. -/
def PwrSt.controlled (p : PwrSt) (d : Nat) (temp : Int) (lvl : Nat) : PwrSt :=
  let onset : Int := if isFieldDie d then 102 else 92
  let hot := temp ≥ onset
  let above := temp ≥ onset + 3
  let th := if isFieldDie d then if hot then sput p.thermal d (max 8 (min 32 lvl)) else sdel p.thermal d else p.thermal
  { p with hot := markDie p.hot d hot, above := markDie p.above d above, thermal := th }

def State.withPwr (s : State) (p : PwrSt) : State := { s with pwr := p }

theorem withPwr_regs (s : State) (p : PwrSt) : (s.withPwr p).regs = s.regs := rfl

theorem withPwr_pwr (s : State) (p : PwrSt) : (s.withPwr p).pwr = p := rfl

theorem withPwr_keeps {s0 s : State} (h : Keeps s0 s) (p : PwrSt) : Keeps s0 (s.withPwr p) := keeps_rec h rfl

theorem controlled_field {p : PwrSt} {d : Nat} (h : d < 4) (temp : Int) (lvl : Nat) :
    (102 ≤ temp → sget? (p.controlled d temp lvl).thermal d = some (max 8 (min 32 lvl))) ∧
      (temp < 102 → (p.controlled d temp lvl).thermal = sdel p.thermal d) := by
  unfold PwrSt.controlled
  rw [isFieldDie_iff.mpr h]
  refine ⟨fun ht => ?_, fun ht => if_neg (Int.not_le.mpr ht)⟩
  exact (congrArg (sget? · d) (if_pos ht)).trans (sget_sput_self _ _ _)

theorem controlled_stack {p : PwrSt} {d : Nat} (h : 4 ≤ d) (temp : Int) (lvl : Nat) : (p.controlled d temp lvl).thermal = p.thermal :=
  if_neg fun hx => Nat.not_lt.mpr h (isFieldDie_iff.mp hx)

theorem controlled_above (p : PwrSt) (d : Nat) (temp : Int) (lvl : Nat) :
    (p.controlled d temp lvl).above = markDie p.above d (decide ((if d < 4 then 105 else 95) ≤ temp)) := by
  have h : (if isFieldDie d then (102 : Int) else 92) + 3 = if d < 4 then 105 else 95 := by
    rw [if_fieldDie]
    split <;> rfl
  exact congrArg (fun n : Int => markDie p.above d (decide (n ≤ temp))) h

theorem execThermalControl_runs {s : State} (h : s.pins.held = false) (d : Fin 24) (x : BitVec 8) (lvl : Fin 33) (tin tout : BitVec 8) :
    exec (.thermalControl d x lvl tin tout) s = .next (((s.showTemp d x).cooled tin tout).withPwr
      (((s.showTemp d x).cooled tin tout).pwr.controlled d (dieTemp d x) lvl.val)).showAbove := by
  show execThermalControl d x lvl tin tout s = _
  unfold execThermalControl
  rw [h]
  exact if_neg Bool.false_ne_true

theorem Spares.showAbove {l : Loc} {s0 s : State} (hk : Spares l s0 s) (h : l.NoErr Page.powerBase) : Spares l s0 s.showAbove :=
  (hk.condIs h 3 _).condIs h 4 _

theorem showAbove_pwr (s : State) : s.showAbove.pwr = s.pwr := (condIs_pwr _ _ _ _).trans (condIs_pwr _ _ _ _)

theorem pair_setPair_ne (s : State) {j k : Nat} (x : PairSt) (h : j ≠ k) : (s.setPair k x).pair j = s.pair j := sgetD_sputD_ne _ _ _ h

theorem pairs_wf (s : State) (l : Loc) (v : Nat) : (s.wf l v).pairs = s.pairs := (congrArg State.pairs (wf_frame s l v) :)

theorem pair_errWords (s : State) (page bit k : Nat) : (s.errWords page bit).pair k = s.pair k := by
  refine pair_of_pairs ?_ k
  unfold State.errWords State.bump
  dsimp only
  split
  · exact (pairs_wf _ _ _).trans (pairs_wf _ _ _)
  · exact (pairs_wf _ _ _).trans ((pairs_wf _ _ _).trans ((pairs_wf _ _ _).trans (pairs_wf _ _ _)))

theorem pair_raiseSrc_ne (s : State) {page bit j : Nat} (h : j ≠ pairKey page bit) : (s.raiseSrc page bit).pair j = s.pair j := by
  refine Eq.trans ?_ (pair_errWords s page bit j)
  unfold State.raiseSrc State.raisePair
  split
  · rfl
  · exact pair_setPair_ne _ _ h

theorem pair_condIs_ne (s : State) {page b j : Nat} (on : Bool) (h : j ≠ pairKey page b) : (s.condIs page b on).pair j = s.pair j := by
  cases on with
  | true =>
    show (s.raiseCond page b).pair j = _
    unfold State.raiseCond
    split
    · rfl
    · exact (pair_setPair_ne _ _ h).trans (pair_raiseSrc_ne s h)
  | false => exact pair_setPair_ne _ _ h

theorem showAbove_shows {s : State} (hc : s.Canon) :
    (s.showAbove.pair (pairKey Page.powerBase 3)).cond = s.pwr.above.any (fun e => isFieldDie e.1) ∧
      (s.showAbove.pair (pairKey Page.powerBase 4)).cond = s.pwr.above.any (fun e => !isFieldDie e.1) := by
  unfold State.showAbove
  refine ⟨?_, condIs_cond ((State.condIs_keeps (.refl s) _ _ _).canon hc) _ _ _⟩
  rw [pair_condIs_ne _ _ (by decide)]
  exact condIs_cond hc _ _ _

theorem dieTemp_eq (d : Nat) (x : BitVec 8) : dieTemp d x = if d < 4 then x.toInt else (x.toNat : Int) := if_fieldDie d _ _

/-- What thermal control leaves (R468). -/
theorem control_shows {s : State} (hc : s.Canon) (d : Nat) (x : BitVec 8) (lvl : Nat) (tin tout : BitVec 8) (temp : Int) :
    let t := (((s.showTemp d x).cooled tin tout).withPwr (((s.showTemp d x).cooled tin tout).pwr.controlled d temp lvl)).showAbove
    t.pwr = s.pwr.controlled d temp lvl ∧ (d < 4 → t.rf (R.PWR_FLD_TJ d) = x.toNat) ∧
      (4 ≤ d → t.rf (R.HBM_STAT_TEMP ((d - 4) / 5) ((d - 4) % 5)) = x.toNat) ∧
      t.rf R.PWR_COOL_TIN = tin.toNat ∧ t.rf R.PWR_COOL_TOUT = tout.toNat ∧
      (t.pair (pairKey Page.powerBase 3)).cond = t.pwr.above.any (fun e => isFieldDie e.1) ∧
      (t.pair (pairKey Page.powerBase 4)).cond = t.pwr.above.any (fun e => !isFieldDie e.1) := by
  have hs1 := sorted_showTemp hc.regs d x
  have hs2 := sorted_wf (sorted_wf hs1 R.PWR_COOL_TIN tin.toNat) R.PWR_COOL_TOUT tout.toNat
  have hp : ((s.showTemp d x).cooled tin tout).pwr = s.pwr := (cooled_pwr _ _ _).trans (showTemp_pwr _ _ _)
  have hcu : (((s.showTemp d x).cooled tin tout).withPwr (((s.showTemp d x).cooled tin tout).pwr.controlled d temp lvl)).Canon :=
    (withPwr_keeps (State.wf_keeps (State.wf_keeps (State.showTemp_keeps (.refl s) d x) _ _) _ _) _).canon hc
  have hup : (((s.showTemp d x).cooled tin tout).withPwr (((s.showTemp d x).cooled tin tout).pwr.controlled d temp lvl)).pwr =
      s.pwr.controlled d temp lvl := (withPwr_pwr _ _).trans (by rw [hp])
  have hsp : ∀ l : Loc, l.NoErr Page.powerBase → Spares l ((s.showTemp d x).cooled tin tout) (((s.showTemp d x).cooled tin tout).withPwr
      (((s.showTemp d x).cooled tin tout).pwr.controlled d temp lvl)).showAbove := fun l hl =>
    ((Spares.refl l _).then_regs (withPwr_regs _ _)).showAbove hl
  have habove := showAbove_shows hcu
  have htp := (showAbove_pwr (((s.showTemp d x).cooled tin tout).withPwr (((s.showTemp d x).cooled tin tout).pwr.controlled d temp lvl))).trans hup
  rw [hup] at habove
  obtain ⟨hin, hout⟩ := cooled_shows hs1 tin tout
  refine ⟨htp, fun hd => ?_, fun hd => ?_, ?_, ?_, ?_, ?_⟩
  · have hd' : A.PWR_FLD d ≠ A.PWR_COOL := by
      unfold A.PWR_FLD A.PWR_COOL Page.powerBase
      omega
    refine ((hsp _ (Loc.noErr_of_page (Or.inr ?_))).rf hs2).trans ((((Spares.refl (R.PWR_FLD_TJ d) _).cooled hd' tin tout).rf hs1).trans
      ((showTemp_shows hc.regs d x).1 hd))
    show Page.powerBase + 0x28 ≤ A.PWR_FLD d
    unfold A.PWR_FLD
    omega
  · have hhi := hbm_high ((d - 4) / 5) ((d - 4) % 5)
    refine ((hsp _ (Loc.noErr_of_page (Or.inr (Nat.le_trans (by decide) hhi)))).rf hs2).trans
      ((((Spares.refl (R.HBM_STAT_TEMP _ _) _).cooled (Nat.ne_of_gt (Nat.lt_of_lt_of_le (by decide) hhi)) tin tout).rf hs1).trans
      ((showTemp_shows hc.regs d x).2 hd))
  · exact ((hsp _ (Loc.noErr_of_page (by decide))).rf hs2).trans hin
  · exact ((hsp _ (Loc.noErr_of_page (by decide))).rf hs2).trans hout
  · rw [htp]
    exact habove.1
  · rw [htp]
    exact habove.2

/-! ### The statement -/

theorem State.Interval.of_regs {s s' t : State} {x : PowerIn} (h : s.Interval t x) (hr : s'.regs = s.regs) : s'.Interval t x :=
  { h with energy := h.energy.trans (by rw [rf64_congr (rf_of_regs hr _) (rf_of_regs hr _)]) }

theorem addSample_keeps {s0 s : State} (h : Keeps s0 s) (w : Nat) : Keeps s0 (s.addSample w) := keeps_rec h rfl

theorem sampled_of {s : State} {w e : Nat} {p : PwrSt}
    (he : e = if s.pwr.eTicks = 0 then msTicks * s.limitE else s.pwr.eSum * msTicks / s.pwr.eTicks)
    (hp : p = { s.pwr with samples := ((w, e) :: s.pwr.samples).take 1000, eSum := 0, eTicks := 0, ms := s.pwr.ms + 1 }) : p = s.sampled w := by
  subst he
  exact hp

/-- A sample (R449, R457 to R459, R471). -/
theorem powerSample_shows {s : State} (hc : s.Canon) (x : PowerIn) (hh : s.pins.held = false) (p : PwrSt) (hp : p = s.sampled x.w.toNat) :
    ∃ t, exec (.powerSample x) s = .next t ∧ s.SameBut t [.regs, .pairs, .pwr, .mg] ∧ s.Interval t x ∧
      p.Sampled t.pwr s.limitE x.w.toNat (p.breaks 1000 10 || p.breaks 20 11) ∧
      (t.pair (pairKey Page.powerBase 2)).cond = (decide (x.mv.toNat < 44000) || decide (58000 < x.mv.toNat)) ∧
      (p.breaks 1000 10 = true → (t.rf (R.ERR_STAT_STAT Page.powerBase)).testBit 0 = true) ∧
      (p.breaks 20 11 = true → (t.rf (R.ERR_STAT_STAT Page.powerBase)).testBit 1 = true) := by
  have hex := execPowerSample_runs hh p hp
  have hsa : Store.Sorted (s.addSample x.w.toNat).regs := hc.regs
  have hca : (s.addSample x.w.toNat).Canon := (addSample_keeps (.refl s) _).canon hc
  have hcu : ((s.addSample x.w.toNat).showPower x).Canon := (State.showPower_keeps (.refl _) x).canon hca
  have hi : s.Interval ((s.addSample x.w.toNat).showPower x) x := (showPower_interval hsa x).of_regs (addSample_regs s _).symm
  have hpw : ((s.addSample x.w.toNat).showPower x).pwr = p :=
    ((showPower_same _ x).pwr.resolve_left (by decide)).trans ((addSample_pwr s _).trans hp.symm)
  have hlim : ((s.addSample x.w.toNat).showPower x).limitE = s.limitE :=
    ((addSample_bounds s x.w.toNat).trans (sameBounds_of_spares hsa ((showPower_same _ x).now.resolve_left (by decide))
      ((showPower_same _ x).pwr.resolve_left (by decide)) fun l hl => (Spares.refl l _).showPower (by
        have hl' : l.addr = 0x50100 ∨ l.addr = 0x50184 ∨ (0x30000 ≤ l.addr ∧ l.addr < 0x31000) := hl
        omega) x)).limitE
  generalize (s.addSample x.w.toNat).showPower x = u at hex hcu hi hpw hlim
  obtain ⟨h1, h2, h3⟩ := sample_shows (old := s) hcu x hi x.w.toNat (p.breaks 1000 10) (p.breaks 20 11)
    (decide (x.mv.toNat < 44000) || decide (58000 < x.mv.toNat))
  rw [hpw, hlim] at h2
  exact ⟨_, hex, sameBut_of_next hex, h1, h2, h3⟩

/-- What a trip of die `d` leaves (R468). -/
theorem thermalTrip_shows {s : State} (hc : s.Canon) (hp : s.pins.held = false) {d : Fin 24} {x : BitVec 8}
    (hx : (if d.val < 4 then 110 else 100) ≤ dieTemp d x) :
    ∃ t, exec (.thermalTrip d x) s = .next t ∧ s.SameBut t [.regs, .pairs, .pwr, .mg] ∧
      t.pwr = { s.pwr with trips := sput s.pwr.trips d () } ∧ (t.pair (pairKey Page.powerBase 5)).cond = true ∧
      (s.fieldAwake d = true → d.val < 4 → t.rf (R.PWR_FLD_DUTY d) = 0) ∧
      ((s.pair (pairKey Page.powerBase 5)).cond = false → (t.rf (R.ERR_STAT_STAT Page.powerBase)).testBit 5 = true) ∧
      (s.stage = 5 → s.pins.standby = true → t.tripPin = true) :=
  ⟨_, execThermalTrip_runs hp hx, sameBut_of_next (execThermalTrip_runs hp hx), trip_shows hc d x⟩

theorem analogTrip_shows {s : State} (hc : s.Canon) (hp : s.pins.standby = true) (d : Fin 24) (on : Bool) :
    ∃ t, exec (.analogTrip d on) s = .next t ∧ s.SameBut t [.regs, .pwr, .mg] ∧
      t.pwr = { s.pwr with analog := markDie s.pwr.analog d on } ∧ t.rf R.STD_TTRIP_CNT_COUNT =
        if t.tripPin = true ∧ s.tripPin = false then satAdd32 (s.rf R.STD_TTRIP_CNT_COUNT) 1 else s.rf R.STD_TTRIP_CNT_COUNT := by
  have hex := execAnalogTrip_runs hp d on
  have hca : Store.Sorted (s.analogAt d on).regs := hc.regs
  have hsn : Store.Sorted ((s.analogAt d on).noteTrip s).regs := ((Spares.refl ⟨0, 0, 0⟩ _).noteTrip (by decide) s).sorted hca
  refine ⟨_, hex, sameBut_of_next hex, (notePower_pwr _ _ _).trans (noteTrip_pwr _ _), ?_⟩
  rw [tripPin_noted hca, (((Spares.refl R.STD_TTRIP_CNT_COUNT _).notePower (by decide) s false).rf hsn), noteTrip_count hca,
    rf_of_regs (analogAt_regs s d on)]

theorem analogTrip_unpowered {s : State} (h : s.pins.standby = false) (d : Fin 24) (on : Bool) : exec (.analogTrip d on) s = .next s := by
  show execAnalogTrip d on s = _
  unfold execAnalogTrip
  rw [h]
  exact if_pos rfl

theorem thermalTrip_below {s : State} {d : Fin 24} {x : BitVec 8} (h : dieTemp d x < (if d.val < 4 then 110 else 100)) :
    exec (.thermalTrip d x) s = .next s := by
  show execThermalTrip d x s = _
  unfold execThermalTrip
  rw [if_fieldDie, decide_eq_true h, Bool.or_true]
  exact if_pos rfl

theorem thermalTripEnd_above {s : State} {d : Fin 24} {x : BitVec 8} (h : (if d.val < 4 then 100 else 90) < dieTemp d x) :
    exec (.thermalTripEnd d x) s = .next s := by
  show execThermalTripEnd d x s = _
  unfold execThermalTripEnd
  rw [if_fieldDie, decide_eq_true h, Bool.or_true]
  exact if_pos rfl

/-- Settles O54: samples, windows and the brake (logs 33 and 34), the analog sensor, trips and their end, and thermal control (log 35). -/
theorem powerAndHeatAreMeasured : Obligations.PowerAndHeatAreMeasured := by
  intro s hc
  refine ⟨fun x p e broke hh he hp hb => ?_, fun h d on => analogTrip_unpowered h d on, fun h d on => analogTrip_shows hc h d on, fun hh =>
    ⟨fun d x h => thermalTrip_below h, fun d x h => thermalTripEnd_above h, fun d x h => thermalTrip_shows hc hh h,
      fun d x h => tripEnd_shows hc hh h, fun d x lvl tin tout temp ht => ?_⟩⟩
  · have hps := sampled_of he hp
    obtain ⟨t, hex, hsame, hi, hsamp, hcond, h10, h11⟩ := powerSample_shows hc x hh p hps
    rw [← hb] at hsamp
    refine ⟨t, hex, hsame, hsamp.samples, hsamp.ms, hsamp.pos.trans (by rw [hp]), hi.volts, hi.amperes, hi.watts, hi.fields, hi.hbm, hi.links,
      hi.steading, hi.loss, hi.energy, ?_, h10, h11, hsamp.brake459.trans (by rw [hp]), hsamp.braking.trans (by rw [hp])⟩
    rw [hcond]
  · have hex := execThermalControl_runs hh d x lvl tin tout
    obtain ⟨hpw, htj, hst, hin, hout, h3, h4⟩ := control_shows hc d x lvl.val tin tout (dieTemp d x)
    rw [← dieTemp_eq] at ht
    subst ht
    exact ⟨_, hex, sameBut_of_next hex, htj, hst, hin, hout, fun hd => hpw ▸ controlled_field hd _ _, fun hd => hpw ▸ controlled_stack hd _ _,
      hpw ▸ controlled_above _ _ _ _, h3, h4⟩

end Sys2Proof.Machine


/-! Watchdogs and fences (R432 to R439): O57. -/

namespace Sys2Proof.Machine

/-! ### The phases of fences (R435) -/

/-- R435: the entry of domain `d` once its draining has ended. -/
def fencedAt (d : Dom) (e : Dom × FPhase) : Dom × FPhase := if e.1 == d then (d, .fenced) else e

theorem fencedAt_dom (d : Dom) (e : Dom × FPhase) : (fencedAt d e).1 = e.1 := by
  unfold fencedAt
  split
  · next h => exact (eq_of_beq h).symm
  · rfl

theorem find_fencedAt (d e : Dom) (l : List (Dom × FPhase)) :
    (l.map (fencedAt d)).find? (fun x => x.1 == e) = (l.find? fun x => x.1 == e).map (fencedAt d) := by
  rw [List.find?_map]
  congr 2
  funext x
  exact congrArg (· == e) (fencedAt_dom d x)

theorem fenceOf_enterFenced (s : State) (d e : Dom) :
    (s.enterFenced d).fenceOf e = ((s.fences.find? fun x => x.1 == e).map (fencedAt d)).map Prod.snd :=
  congrArg (Option.map Prod.snd) (find_fencedAt d e s.fences)

theorem fenceOf_enterFenced_self {s : State} {d : Dom} {ph : FPhase} (h : s.fenceOf d = some ph) : (s.enterFenced d).fenceOf d = some .fenced := by
  rw [fenceOf_enterFenced]
  unfold State.fenceOf at h
  cases hf : s.fences.find? fun x => x.1 == d with
  | none =>
    rw [hf] at h
    cases h
  | some x =>
    have hx : (x.1 == d) = true := List.find?_some (p := fun x : Dom × FPhase => x.1 == d) hf
    have hd : fencedAt d x = (d, .fenced) := if_pos hx
    rw [Option.map_some, hd]
    rfl

theorem fenceOf_enterFenced_ne (s : State) {d e : Dom} (h : e ≠ d) : (s.enterFenced d).fenceOf e = s.fenceOf e := by
  rw [fenceOf_enterFenced]
  unfold State.fenceOf
  cases hf : s.fences.find? fun x => x.1 == e with
  | none => rfl
  | some x =>
    have hx : x.1 = e := eq_of_beq (List.find?_some (p := fun x : Dom × FPhase => x.1 == e) hf)
    have hd : fencedAt d x = x := if_neg fun hd => h (hx.symm.trans (eq_of_beq hd))
    rw [Option.map_some, hd]

theorem enterFenced_frame (s : State) (d : Dom) : { s.enterFenced d with fences := s.fences } = s := rfl

theorem fenceOf_of_fences {s t : State} (h : t.fences = s.fences) (d : Dom) : t.fenceOf d = s.fenceOf d := by
  unfold State.fenceOf
  rw [h]

/-! ### What a fence abandons of transfers (R436) -/

/-- The transfers of a DMA. -/
def DmaSt.xfers (d : DmaSt) : List Xfer := d.waiting ++ d.handoff ++ d.active.map Prod.snd

theorem DmaSt.feed_xfers (fenced : Nat → Bool) (n : Nat) (d : DmaSt) : ∀ x ∈ (d.feed fenced n).xfers, x ∈ d.xfers := by
  induction n generalizing d with
  | zero => exact fun x h => h
  | succ n ih =>
    intro x h
    unfold DmaSt.feed at h
    split at h
    · next y t e hh _ =>
      have := ih _ x h
      unfold DmaSt.xfers at this ⊢
      rw [hh]
      simp only [List.mem_append, List.mem_cons, List.map_append, List.map_cons, List.map_nil, List.not_mem_nil, or_false] at this ⊢
      tauto
    · exact h

theorem DmaSt.feed_active {fenced : Nat → Bool} {e : Nat} (he : fenced e = true) (n : Nat) (d : DmaSt) (h : ∀ x ∈ d.active, x.1 ≠ e) :
    ∀ x ∈ (d.feed fenced n).active, x.1 ≠ e := by
  induction n generalizing d with
  | zero => exact h
  | succ n ih =>
    unfold DmaSt.feed
    split
    · next y t g _ hg =>
      refine ih _ fun x hx => ?_
      rcases List.mem_append.mp hx with hx | hx
      · exact h x hx
      · rw [List.mem_singleton.mp hx]
        rintro rfl
        have := List.find?_some hg
        rw [he] at this
        simp at this
    · exact h

theorem DmaSt.feed_empty (fenced : Nat → Bool) (n : Nat) (w : List Xfer) (a : List (Nat × Xfer)) :
    DmaSt.feed fenced n ⟨w, [], a⟩ = ⟨w, [], a⟩ := by
  cases n <;> rfl

/-- R436: what is left of a DMA when the transfers that `gone` names are dropped. -/
def DmaSt.without (d : DmaSt) (gone : Option Nat → Xfer → Bool) : DmaSt :=
  { waiting := d.waiting.filter fun x => !gone none x, handoff := d.handoff.filter fun x => !gone none x,
    active := d.active.filter fun e => !gone (some e.1) e.2 }

theorem dmaOf_setDma_self {s : State} (h : Store.Sorted s.dma) (f : Nat) (x : DmaSt) : (s.setDma f x).dmaOf f = x := sgetD_sputD_self h _ _ _

theorem dmaOf_setDma_ne (s : State) {f g : Nat} (x : DmaSt) (h : g ≠ f) : (s.setDma f x).dmaOf g = s.dmaOf g := sgetD_sputD_ne _ _ _ h

theorem dmaOf_of_dma {s t : State} (h : t.dma = s.dma) (f : Nat) : t.dmaOf f = s.dmaOf f := by
  unfold State.dmaOf
  rw [h]

theorem dma_dropXfers {s : State} (h : Store.Sorted s.dma) (f : Nat) (gone : Option Nat → Xfer → Bool) : (s.dropXfers f gone).dmaOf f =
    ((s.dmaOf f).without gone).feed (fun e => s.engineFenced f e) 128 := by
  show ((s.setDma f ((s.dmaOf f).without gone)).feedDma f).dmaOf f = _
  have h1 := dmaOf_setDma_self h f ((s.dmaOf f).without gone)
  have h2 : Store.Sorted (s.setDma f ((s.dmaOf f).without gone)).dma := sorted_sputD h _ _ _
  have h3 : ∀ e, (s.setDma f ((s.dmaOf f).without gone)).engineFenced f e = s.engineFenced f e := fun _ => rfl
  generalize s.setDma f ((s.dmaOf f).without gone) = u at h1 h2 h3
  unfold State.feedDma
  rw [dmaOf_setDma_self h2, h1]
  simp only [h3]

theorem dma_dropXfers_ne (s : State) {f g : Nat} (gone : Option Nat → Xfer → Bool) (h : g ≠ f) : (s.dropXfers f gone).dmaOf g = s.dmaOf g :=
  (dmaOf_setDma_ne _ _ h).trans (dmaOf_setDma_ne _ _ h)

theorem sorted_dropXfers {s : State} (h : Store.Sorted s.dma) (f : Nat) (gone : Option Nat → Xfer → Bool) :
    Store.Sorted (s.dropXfers f gone).dma := sorted_sputD (sorted_sputD h _ _ _) _ _ _

/-- What is left after `gone` transfers are dropped is none of them. -/
theorem xfers_without {gone : Xfer → Bool} {d : DmaSt} : ∀ x ∈ (d.without fun _ x => gone x).xfers, x ∈ d.xfers ∧ gone x = false := by
  intro x hx
  unfold DmaSt.xfers DmaSt.without at *
  simp only [List.mem_append, List.mem_filter, List.mem_map, Bool.not_eq_true'] at hx ⊢
  rcases hx with (⟨h1, h2⟩ | ⟨h1, h2⟩) | ⟨y, ⟨h1, h2⟩, rfl⟩
  · exact ⟨.inl (.inl h1), h2⟩
  · exact ⟨.inl (.inr h1), h2⟩
  · exact ⟨.inr ⟨y, h1, rfl⟩, h2⟩

theorem xfers_dropXfers {s : State} (h : Store.Sorted s.dma) (f : Nat) (gone : Xfer → Bool) :
    ∀ x ∈ ((s.dropXfers f fun _ x => gone x).dmaOf f).xfers, x ∈ (s.dmaOf f).xfers ∧ gone x = false := by
  rw [dma_dropXfers h]
  exact fun x hx => xfers_without x (DmaSt.feed_xfers _ _ _ x hx)

theorem active_dropXfers {s : State} (h : Store.Sorted s.dma) {f e : Nat} (he : s.engineFenced f e = true) :
    ∀ x ∈ ((s.dropXfers f fun g _ => g == some e).dmaOf f).active, x.1 ≠ e := by
  rw [dma_dropXfers h]
  refine DmaSt.feed_active (by exact he) _ _ fun x hx hxe => ?_
  have := (List.mem_filter.mp hx).2
  simp [hxe] at this

theorem dma_dropAll {s : State} (h : Store.Sorted s.dma) (f : Nat) : (s.dropXfers f fun _ _ => true).dmaOf f = {} := by
  rw [dma_dropXfers h]
  have : (s.dmaOf f).without (fun _ _ => true) = {} := by
    unfold DmaSt.without
    simp
  rw [this]
  exact DmaSt.feed_empty _ _ _ _

theorem engines_dropXfers (s : State) (f : Nat) (gone : Option Nat → Xfer → Bool) : (s.dropXfers f gone).engines = s.engines := rfl

/-! ### What a fence abandons of launches (R436) -/

/-- R436: a stream whose launches have ended. -/
def StreamSt.emptied (x : StreamSt) : StreamSt :=
  { x with state := .idle, wait := .none, cur := none, launches := [], buf := [], arrived := none }

/-- The stream that an entry belongs to. -/
def streamAt (k : Nat) : At := ⟨k / 192 / 26, k / 192 % 26, k / 3 % 64, k % 3⟩

theorem streamAt_strmKey {f n c k : Nat} (hn : n < 26) (hc : c < 64) (hk : k < 3) : streamAt (strmKey f n c k) = ⟨f, n, c, k⟩ := by
  unfold streamAt strmKey furKey
  rw [At.mk.injEq]
  refine ⟨?_, ?_, ?_, ?_⟩ <;> omega

theorem sget_emptied (at_ : At → Bool) (t : Store StreamSt) {k : Nat} (h : at_ (streamAt k) = true) :
    sget? (t.map fun e => if at_ (streamAt e.1) then (e.1, e.2.emptied) else e) k = (sget? t k).map StreamSt.emptied := by
  induction t with
  | nil => rfl
  | cons e t ih =>
    rw [List.map_cons]
    obtain ⟨j, a⟩ := e
    by_cases hj : j = k
    · subst hj
      rw [if_pos h]
      simp [sget?]
    · have hk : ∀ b : StreamSt, sget? ((j, b) :: (t.map fun e => if at_ (streamAt e.1) then (e.1, e.2.emptied) else e)) k = _ :=
        fun b => (if_neg hj : (if j = k then some b else _) = _).trans ih
      have ht : sget? ((j, a) :: t) k = sget? t k := if_neg hj
      rw [ht]
      split
      · exact hk _
      · exact hk _

/-- R436: the launches that `at_` and `run` name are gone. -/
def State.launchesGone (s : State) (at_ : At → Bool) (run : SeqRun → Bool) : State :=
  { s with
    seqRuns := s.seqRuns.filter fun r => !run r
    streams := s.streams.map fun e => if at_ (streamAt e.1) then (e.1, e.2.emptied) else e }

theorem abandonCmds_same (s : State) (l : List (Nat × Nat)) : Same 68719476744 s (l.foldl (fun s x => s.abandonCmd x.1 x.2) s) :=
  foldl_same (fun _ x h => State.abandonCmd_same h rfl x.1 x.2) (.refl _ s)

theorem dropLaunches_streams (s : State) (at_ : At → Bool) (run : SeqRun → Bool) :
    (s.dropLaunches at_ run).streams = s.streams.map fun e => if at_ (streamAt e.1) then (e.1, e.2.emptied) else e :=
  ((abandonCmds_same (s.launchesGone at_ run) _).streams.resolve_left (by decide) :)

theorem dropLaunches_runs (s : State) (at_ : At → Bool) (run : SeqRun → Bool) :
    (s.dropLaunches at_ run).seqRuns = s.seqRuns.filter fun r => !run r :=
  ((abandonCmds_same (s.launchesGone at_ run) _).seqRuns.resolve_left (by decide) :)

theorem strm_dropLaunches (s : State) {at_ : At → Bool} (run : SeqRun → Bool) {f n c k : Nat} (hn : n < 26) (hc : c < 64) (hk : k < 3)
    (h : at_ ⟨f, n, c, k⟩ = true) {t : State} (ht : t.streams = (s.dropLaunches at_ run).streams) :
    (t.strm f n c k).cur = none ∧ (t.strm f n c k).launches = [] := by
  unfold State.strm sgetD
  rw [ht, dropLaunches_streams, sget_emptied at_ _ (by rw [streamAt_strmKey hn hc hk]; exact h)]
  cases sget? s.streams (strmKey f n c k) with
  | none => exact ⟨rfl, rfl⟩
  | some x => exact ⟨rfl, rfl⟩

/-! ### What a fence abandons of collective operations (R258, R436) -/

/-- R436: the engine once operation `o` has ended for a fence. -/
def ColEng.dropped (e : ColEng) (o : ColOp) : ColEng :=
  { e with
    closed := if e.closed.contains (o.ctx, o.opid) then e.closed else e.closed ++ [(o.ctx, o.opid)]
    ops := e.ops.filter fun x => !(x.ctx == o.ctx && x.opid == o.opid) }

theorem toldUsers_engines (s : State) (o : ColOp) (st : Nat) (fence : Bool) :
    ((o.users.foldl (fun s u => s.tellUser o st fence u) (s.showOps o.field)).stepProgress o.ctx).engines = s.engines :=
  (State.stepProgress_same (foldl_same (fun _ x h => State.tellUser_same h (M := 3104791700488) rfl o st fence x)
    (State.showOps_same (.refl _ s) rfl o.field)) rfl o.ctx).engines.resolve_left (by decide)

theorem endOp_fence (s : State) (o : ColOp) (st : Nat) : s.endOp o st true =
    ((s.opNow o).users.foldl (fun u x => u.tellUser (s.opNow o) st true x) (((s.atEnd (s.opNow o) st).setEng (s.opNow o).field
      (((s.atEnd (s.opNow o) st).eng (s.opNow o).field).dropped (s.opNow o))).showOps (s.opNow o).field)).stepProgress (s.opNow o).ctx := by
  unfold State.endOp State.atEnd ColEng.dropped
  dsimp only
  generalize s.opNow o = o'
  rw [Bool.not_true, Bool.and_false]
  rfl

theorem engines_setEng_congr {s t : State} (h : t.engines = s.engines) (f : Nat) (x : ColEng) : (t.setEng f x).engines = (s.setEng f x).engines := by
  unfold State.setEng
  rw [h]

theorem engines_endOp_fence (s : State) (o : ColOp) (st : Nat) : (s.endOp o st true).engines =
    (s.setEng (s.opNow o).field ((s.eng (s.opNow o).field).dropped (s.opNow o))).engines := by
  rw [endOp_fence, toldUsers_engines]
  have h := engines_atEnd s (s.opNow o) st
  rw [engines_setEng_congr h, eng_of_engines h]

theorem waiting_endOp_fence {s : State} (hs : Store.Sorted s.engines) (o : ColOp) (st f : Nat) :
    ((s.endOp o st true).eng f).waiting = (s.eng f).waiting := by
  rw [eng_of_engines (engines_endOp_fence s o st)]
  by_cases hf : f = (s.opNow o).field
  · rw [hf, eng_setEng_self hs]
    rfl
  · exact congrArg ColEng.waiting (sgetD_sputD_ne _ _ _ hf)

theorem sorted_endOp_fence {s : State} (hs : Store.Sorted s.engines) (o : ColOp) (st : Nat) : Store.Sorted (s.endOp o st true).engines := by
  rw [engines_endOp_fence]
  exact sorted_sputD hs _ _ _

/-- The record that an operation's entry names has its context, its OPID, and the field of its engine. -/
theorem opNow_fits {s : State} {o : ColOp} (h : ∀ x ∈ (s.eng o.field).ops, x.field = o.field) :
    (s.opNow o).field = o.field ∧ (s.opNow o).ctx = o.ctx ∧ (s.opNow o).opid = o.opid := by
  unfold State.opNow
  cases hx : s.colOp? o.field o.ctx o.opid with
  | none => exact ⟨rfl, rfl, rfl⟩
  | some y => exact ⟨h y (List.mem_of_find?_eq_some hx), colOp_ids hx⟩

theorem ops_endOp_fence {s : State} (hs : Store.Sorted s.engines) {o : ColOp} (h : ∀ x ∈ (s.eng o.field).ops, x.field = o.field) (st : Nat) :
    ((s.endOp o st true).eng o.field).ops = (s.eng o.field).ops.filter fun x => !(x.ctx == o.ctx && x.opid == o.opid) := by
  obtain ⟨h1, h2, h3⟩ := opNow_fits h
  rw [eng_of_engines (engines_endOp_fence s o st), h1, eng_setEng_self hs]
  unfold ColEng.dropped
  rw [h2, h3]

/-- What remains once the operations of a list have ended for a fence. -/
theorem ops_ended {f st : Nat} {l : List ColOp} (hl : ∀ o ∈ l, o.field = f) : ∀ s : State, Store.Sorted s.engines →
    (∀ x ∈ (s.eng f).ops, x.field = f) → ∀ x ∈ ((l.foldl (fun s o => s.endOp o st true) s).eng f).ops, x ∈ (s.eng f).ops ∧ x ∉ l := by
  induction l with
  | nil => exact fun s _ _ x hx => ⟨hx, List.not_mem_nil⟩
  | cons o l ih =>
    intro s hs hf x hx
    have ho := hl o List.mem_cons_self
    have hops := ops_endOp_fence (st := st) hs (o := o) (by rw [ho]; exact hf)
    rw [ho] at hops
    rw [List.foldl_cons] at hx
    obtain ⟨h1, h2⟩ := ih (fun y hy => hl y (List.mem_cons_of_mem o hy)) _ (sorted_endOp_fence hs o st)
      (fun y hy => hf y (List.mem_filter.mp (hops ▸ hy)).1) x hx
    rw [hops] at h1
    obtain ⟨h1, h3⟩ := List.mem_filter.mp h1
    refine ⟨h1, fun hm => ?_⟩
    rcases List.mem_cons.mp hm with rfl | hm
    · simp at h3
    · exact h2 hm

theorem waiting_ended {st : Nat} (f : Nat) (l : List ColOp) : ∀ s : State, Store.Sorted s.engines →
    ((l.foldl (fun s o => s.endOp o st true) s).eng f).waiting = (s.eng f).waiting := by
  induction l with
  | nil => exact fun s _ => rfl
  | cons o l ih =>
    intro s hs
    rw [List.foldl_cons, ih _ (sorted_endOp_fence hs o st), waiting_endOp_fence hs]

/-- R436: the users of what waited in the engine of field `f` for those that `who` names have been told. -/
def State.waitersTold (s : State) (f : Nat) (who : Nat → Bool) : State :=
  let e := s.eng f
  let gone := e.waiting.filter fun w => who w.ctx
  let s := s.setEng f { e with waiting := e.waiting.filter fun w => !who w.ctx }
  gone.foldl (fun s w =>
    match w.user with
    | .cmd q seq => s.abandonCmd q seq
    | .swap q seq => (s.abandonCmd q seq).swapEnded w.ctx q seq timeoutStatus
    | _ => s) s

/-- R436: the commands of the operations `ops` have been told. -/
def State.usersTold (s : State) (ops : List ColOp) : State :=
  (ops.flatMap fun o => o.users).foldl (fun s u =>
    match u with
    | .cmd q seq | .swap q seq => s.abandonCmd q seq
    | _ => s) s

theorem dropOps_eq (s : State) (f : Nat) (who : Nat → Bool) : s.dropOps f who =
    ((((s.eng f).ops.filter fun o => who o.ctx && !o.done).foldl (fun s o => s.endOp o timeoutStatus true)
      ((s.waitersTold f who).usersTold ((s.eng f).ops.filter fun o => who o.ctx && !o.done))).nextWaiting f) := rfl

theorem waitersTold_engines (s : State) (f : Nat) (who : Nat → Bool) : (s.waitersTold f who).engines =
    (s.setEng f { s.eng f with waiting := (s.eng f).waiting.filter fun w => !who w.ctx }).engines := by
  have h : ∀ (l : List ColWait) (u : State), Same 2267742732296 u (l.foldl (fun s w =>
      match w.user with
      | .cmd q seq => s.abandonCmd q seq
      | .swap q seq => (s.abandonCmd q seq).swapEnded w.ctx q seq timeoutStatus
      | _ => s) u) := fun l u => by
    refine foldl_same (fun t w ht => ?_) (.refl _ u)
    cases w.user with
    | cmd q seq => exact State.abandonCmd_same ht rfl q seq
    | swap q seq => exact State.swapEnded_same (State.abandonCmd_same ht rfl q seq) rfl _ _ _ _
    | _ => exact ht
  exact (h _ _).engines.resolve_left (by decide)

theorem usersTold_engines (s : State) (ops : List ColOp) : (s.usersTold ops).engines = s.engines := by
  have h : Same 68719476744 s (s.usersTold ops) := by
    refine foldl_same (fun t u ht => ?_) (.refl _ s)
    cases u with
    | cmd q seq => exact State.abandonCmd_same ht rfl q seq
    | swap q seq => exact State.abandonCmd_same ht rfl q seq
    | _ => exact ht
  exact h.engines.resolve_left (by decide)

/-- R436: a fenced field's engine has nothing waiting, and what it keeps is done. -/
theorem dropOps_all {s : State} (hs : Store.Sorted s.engines) (f : Nat) : ((s.dropOps f fun _ => true).eng f).waiting = [] ∧
    ((∀ o ∈ (s.eng f).ops, o.field = f) → ∀ o ∈ ((s.dropOps f fun _ => true).eng f).ops, o.done = true) := by
  have he : ((s.waitersTold f fun _ => true).usersTold ((s.eng f).ops.filter fun o => true && !o.done)).engines =
      (s.setEng f { s.eng f with waiting := (s.eng f).waiting.filter fun _ => !true }).engines :=
    (usersTold_engines _ _).trans (waitersTold_engines s f _)
  have hse : Store.Sorted ((s.waitersTold f fun _ => true).usersTold ((s.eng f).ops.filter fun o => true && !o.done)).engines := by
    rw [he]
    exact sorted_sputD hs _ _ _
  have heng := (eng_of_engines he f).trans (eng_setEng_self hs f _)
  rw [dropOps_eq]
  generalize (s.waitersTold f fun _ => true).usersTold ((s.eng f).ops.filter fun o => true && !o.done) = u at hse heng
  have hw : ((((s.eng f).ops.filter fun o => true && !o.done).foldl (fun s o => s.endOp o timeoutStatus true) u).eng f).waiting = [] := by
    rw [waiting_ended f _ u hse, heng]
    simp
  rw [nextWaiting_idle hw]
  refine ⟨hw, fun hf o ho => ?_⟩
  have hops : (u.eng f).ops = (s.eng f).ops := by rw [heng]
  obtain ⟨h1, h2⟩ := ops_ended (fun o ho => hf o (List.mem_filter.mp ho).1) u hse (by rw [hops]; exact hf) o ho
  rw [hops] at h1
  by_contra hd
  exact h2 (List.mem_filter.mpr ⟨h1, by simpa using hd⟩)

/-! ### What each domain's fence abandons (R436) -/

theorem abandonDom_fences (s : State) (d : Dom) : (s.abandonDom d).fences = s.fences :=
  (State.abandonDom_same (.refl 4342036931594 s) rfl d).fences.resolve_left (by decide)

theorem abandonStream_xfers {s : State} (h : Store.Sorted s.dma) (f n c k : Nat) :
    ∀ x ∈ ((s.abandonStream f n c k).dmaOf f).xfers, x.is ⟨f, n, c, k⟩ = false := fun x hx =>
  (xfers_dropXfers h f (fun x => x.is ⟨f, n, c, k⟩) x hx).2

theorem abandonCmdsOf_same (s : State) (q : Nat) (l : List QCmd) : Same 68719476744 s (l.foldl (fun s c => s.abandonCmd q c.seq) s) :=
  foldl_same (fun _ x h => State.abandonCmd_same h rfl q x.seq) (.refl _ s)

theorem abandonCopyCmds_same (s : State) (l : List CopyOp) : Same 68719476744 s (l.foldl (fun s x => s.abandonCmd x.queue x.seq) s) :=
  foldl_same (fun _ x h => State.abandonCmd_same h rfl x.queue x.seq) (.refl _ s)

/-- R436: the copies that `keep` names remain. -/
def State.copiesKept (s : State) (keep : CopyOp → Bool) : State := { s with copies := s.copies.filter keep }

theorem abandonQueue_copies (s : State) (q : Nat) : (s.abandonQueue q).copies = s.copies.filter fun x => x.queue != q :=
  ((abandonCmdsOf_same (s.copiesKept fun x => x.queue != q) q _).copies.resolve_left (by decide) :)

theorem dropCopies_copies (s : State) (gone : CopyOp → Bool) : (s.dropCopies gone).copies = s.copies.filter fun x => !gone x :=
  ((abandonCopyCmds_same (s.copiesKept fun x => !gone x) _).copies.resolve_left (by decide) :)

/-- R436: other fields' transfers in the memory of field `f` are dropped. -/
def State.crossDropped (s : State) (f : Nat) : State :=
  (List.range 4).foldl (fun s g => if g = f then s else s.dropXfers g fun e x => e.isSome && x.touches f) s

theorem crossDropped_same (s : State) (f : Nat) : Same 16777216 s (s.crossDropped f) :=
  foldl_same (fun _ g h => ite_same h (State.dropXfers_same h rfl g _)) (.refl _ s)

theorem dma_crossDropped (s : State) (f : Nat) : (s.crossDropped f).dmaOf f = s.dmaOf f := by
  unfold State.crossDropped
  generalize List.range 4 = l
  induction l generalizing s with
  | nil => rfl
  | cons g l ih =>
    rw [List.foldl_cons, ih]
    by_cases h : g = f
    · rw [if_pos h]
    · rw [if_neg h, dma_dropXfers_ne _ _ (Ne.symm h)]

theorem abandonField_eq (s : State) (f : Nat) : s.abandonField f =
    ((((s.dropLaunches (fun p => p.f == f) (fun r => r.field == f)).dropXfers f fun _ _ => true).crossDropped f).dropCopies (·.touches f)).dropOps f
      fun _ => true := rfl

/-- What a fence of field `f` abandons. -/
theorem abandonField_clears {s t : State} (hc : s.Canon) {f : Nat} (ht : t = s.abandonField f) : t.dmaOf f = {} ∧ (t.eng f).waiting = [] ∧
    ((∀ o ∈ (s.eng f).ops, o.field = f) → ∀ o ∈ (t.eng f).ops, o.done = true) ∧ (∀ r ∈ t.seqRuns, r.field ≠ f) ∧
    (∀ x ∈ t.copies, x.touches f = false) ∧
    ∀ (n : Fin 26) (c : Fin 64) (k : Fin 3), (t.strm f n c k).cur = none ∧ (t.strm f n c k).launches = [] := by
  rw [ht, abandonField_eq]
  clear ht
  have hl : Same 68996300808 s (s.dropLaunches (fun p => p.f == f) (fun r => r.field == f)) := State.dropLaunches_same (.refl _ s) rfl _ _
  have hls := dropLaunches_streams s (fun p => p.f == f) (fun r => r.field == f)
  have hlr := dropLaunches_runs s (fun p => p.f == f) (fun r => r.field == f)
  have hst : ∀ (t : State), t.streams = (s.dropLaunches (fun p => p.f == f) (fun r => r.field == f)).streams → ∀ (n : Fin 26) (c : Fin 64) (k : Fin 3),
      (t.strm f n c k).cur = none ∧ (t.strm f n c k).launches = [] := fun t ht n c k =>
    strm_dropLaunches s _ n.isLt c.isLt k.isLt (beq_self_eq_true f) ht
  have hd1 : Store.Sorted (s.dropLaunches (fun p => p.f == f) (fun r => r.field == f)).dma := by
    rw [hl.dma.resolve_left (by decide)]
    exact hc.dma
  have he1 := hl.engines.resolve_left (by decide)
  generalize s.dropLaunches (fun p => p.f == f) (fun r => r.field == f) = a at *
  have hx : Same 16777216 a ((a.dropXfers f fun _ _ => true).crossDropped f) :=
    (State.dropXfers_same (.refl _ a) rfl f _).trans (crossDropped_same _ f)
  have hxd : ((a.dropXfers f fun _ _ => true).crossDropped f).dmaOf f = {} := (dma_crossDropped _ f).trans (dma_dropAll hd1 f)
  generalize (a.dropXfers f fun _ _ => true).crossDropped f = b at hx hxd
  have hcp : Same 206158430216 b (b.dropCopies (·.touches f)) := State.dropCopies_same (.refl _ b) rfl _
  have hcc := dropCopies_copies b (·.touches f)
  generalize b.dropCopies (·.touches f) = u at hcp hcc
  have he : u.engines = s.engines :=
    (hcp.engines.resolve_left (by decide)).trans ((hx.engines.resolve_left (by decide)).trans he1)
  have ho : Same 4204304376842 u (u.dropOps f fun _ => true) := State.dropOps_same (.refl _ u) rfl f _
  obtain ⟨h1, h2⟩ := dropOps_all (s := u) (by rw [he]; exact hc.engines) f
  rw [eng_of_engines he] at h2
  refine ⟨?_, h1, h2, fun r hr => ?_, fun x hx' => ?_, hst _ ?_⟩
  · unfold State.dmaOf at hxd ⊢
    rw [ho.dma.resolve_left (by decide), hcp.dma.resolve_left (by decide)]
    exact hxd
  · rw [ho.seqRuns.resolve_left (by decide), hcp.seqRuns.resolve_left (by decide), hx.seqRuns.resolve_left (by decide), hlr] at hr
    simpa using (List.mem_filter.mp hr).2
  · rw [ho.copies.resolve_left (by decide), hcc] at hx'
    simpa using (List.mem_filter.mp hx').2
  · rw [ho.streams.resolve_left (by decide), hcp.streams.resolve_left (by decide), hx.streams.resolve_left (by decide)]

/-- R436: the transfers and operations of context `c` are dropped in the fields of a list. -/
def State.ctxDropped (s : State) (c : Nat) (l : List Nat) : State :=
  l.foldl (fun s f => (s.dropXfers f fun _ x => x.owner.ctx == c).dropOps f fun d => d == c) s

theorem ctxDropped_same (s : State) (c : Nat) (l : List Nat) : Same 4204321154058 s (s.ctxDropped c l) :=
  foldl_same (fun _ f h => State.dropOps_same (State.dropXfers_same h rfl f _) rfl f _) (.refl _ s)

theorem abandonCtx_eq (s : State) (c : Nat) : s.abandonCtx c =
    (((s.dropLaunches (fun p => p.c == c) (fun r => r.ctx == c)).ctxDropped c (List.range 4)).ctxQueues c).foldl State.abandonQueue
      ((s.dropLaunches (fun p => p.c == c) (fun r => r.ctx == c)).ctxDropped c (List.range 4)) := rfl

/-- One field's transfers of context `c` are dropped; what other fields have stays. -/
theorem dma_ctxDropped (c : Nat) (l : List Nat) : ∀ s : State, Store.Sorted s.dma → ∀ f, (∀ x ∈ ((s.ctxDropped c l).dmaOf f).xfers, x ∈ (s.dmaOf f).xfers) ∧
    (f ∈ l → ∀ x ∈ ((s.ctxDropped c l).dmaOf f).xfers, x.owner.ctx ≠ c) := by
  induction l with
  | nil => exact fun s _ f => ⟨fun x h => h, fun h => absurd h List.not_mem_nil⟩
  | cons g l ih =>
    intro s hs f
    have hd : (((s.dropXfers g fun _ x => x.owner.ctx == c).dropOps g fun d => d == c)).dma = (s.dropXfers g fun _ x => x.owner.ctx == c).dma :=
      (State.dropOps_same (.refl 4204304376842 _) rfl g _).dma.resolve_left (by decide)
    have hdo : ∀ j, (((s.dropXfers g fun _ x => x.owner.ctx == c).dropOps g fun d => d == c)).dmaOf j =
        (s.dropXfers g fun _ x => x.owner.ctx == c).dmaOf j := dmaOf_of_dma hd
    have hone : ∀ x ∈ (((s.dropXfers g fun _ x => x.owner.ctx == c).dropOps g fun d => d == c).dmaOf f).xfers, x ∈ (s.dmaOf f).xfers ∧
        (f = g → x.owner.ctx ≠ c) := fun x hx => by
      rw [hdo] at hx
      by_cases hf : f = g
      · subst hf
        obtain ⟨h1, h2⟩ := xfers_dropXfers hs f (fun x => x.owner.ctx == c) x hx
        exact ⟨h1, fun _ h => by simp [h] at h2⟩
      · rw [dma_dropXfers_ne _ _ hf] at hx
        exact ⟨hx, fun h => absurd h hf⟩
    obtain ⟨h1, h2⟩ := ih ((s.dropXfers g fun _ x => x.owner.ctx == c).dropOps g fun d => d == c)
      (by rw [hd]; exact sorted_dropXfers hs g _) f
    refine ⟨fun x hx => (hone x (h1 x hx)).1, fun hm x hx => ?_⟩
    rcases List.mem_cons.mp hm with rfl | hm
    · exact (hone x (h1 x hx)).2 rfl
    · exact h2 hm x hx

/-- What a fence of context `c` abandons. -/
theorem abandonCtx_clears {s t : State} (hc : s.Canon) {c : Nat} (ht : t = s.abandonCtx c) : (∀ r ∈ t.seqRuns, r.ctx ≠ c) ∧ ∀ f : Fin 4,
    (∀ x ∈ (t.dmaOf f).xfers, x.owner.ctx ≠ c) ∧
    ∀ (n : Fin 26) (k : Fin 3), c < 64 → (t.strm f n c k).cur = none ∧ (t.strm f n c k).launches = [] := by
  rw [ht, abandonCtx_eq]
  clear ht
  have hl : Same 68996300808 s (s.dropLaunches (fun p => p.c == c) (fun r => r.ctx == c)) := State.dropLaunches_same (.refl _ s) rfl _ _
  have hlr := dropLaunches_runs s (fun p => p.c == c) (fun r => r.ctx == c)
  have hst : ∀ (t : State), t.streams = (s.dropLaunches (fun p => p.c == c) (fun r => r.ctx == c)).streams → ∀ (f n : Nat) (k : Fin 3),
      n < 26 → c < 64 → (t.strm f n c k).cur = none ∧ (t.strm f n c k).launches = [] := fun t ht f n k hn hc =>
    strm_dropLaunches s _ hn hc k.isLt (beq_self_eq_true c) ht
  have hd1 : Store.Sorted (s.dropLaunches (fun p => p.c == c) (fun r => r.ctx == c)).dma := by
    rw [hl.dma.resolve_left (by decide)]
    exact hc.dma
  generalize s.dropLaunches (fun p => p.c == c) (fun r => r.ctx == c) = a at *
  have hx := ctxDropped_same a c (List.range 4)
  have hxd := dma_ctxDropped c (List.range 4) a hd1
  generalize a.ctxDropped c (List.range 4) = b at hx hxd
  have hq : Same 206158430216 b ((b.ctxQueues c).foldl State.abandonQueue b) :=
    foldl_same (fun _ q h => State.abandonQueue_same h rfl q) (.refl _ b)
  refine ⟨fun r hr => ?_, fun f => ⟨fun x hx' => ?_, fun n k h64 => hst _ ?_ f n k n.isLt h64⟩⟩
  · rw [hq.seqRuns.resolve_left (by decide), hx.seqRuns.resolve_left (by decide), hlr] at hr
    simpa using (List.mem_filter.mp hr).2
  · refine (hxd f).2 (List.mem_range.mpr f.isLt) x ?_
    unfold State.dmaOf at hx' ⊢
    rw [hq.dma.resolve_left (by decide)] at hx'
    exact hx'
  · rw [hq.streams.resolve_left (by decide), hx.streams.resolve_left (by decide)]

/-- R437: the end of a drain whose time has passed. -/
theorem drainTimeout_runs {s : State} {d : Dom} (h : s.fenceOf d = some .draining) :
    exec (.fenceDrainTimeout d) s = .next ((s.abandonDom d).enterFenced d) ∧ ((s.abandonDom d).enterFenced d).fenceOf d = some .fenced ∧
      ∀ e, e ≠ d → ((s.abandonDom d).enterFenced d).fenceOf e = s.fenceOf e :=
  ⟨if_pos h, fenceOf_enterFenced_self ((fenceOf_of_fences (abandonDom_fences s d) d).trans h),
    fun e he => (fenceOf_enterFenced_ne _ he).trans (fenceOf_of_fences (abandonDom_fences s d) e)⟩

end Sys2Proof.Machine


/-! Watchdogs (R432 to R434, R439): O57. -/

namespace Sys2Proof.Machine

/-! ### Bytes of an entry (R439) -/

theorem leAt_skip {a : List Byte} {m : Nat} (h : a.length = m) (b : List Byte) (k n : Nat) : leAt (a ++ b) (m + k) n = leAt b k n := by
  unfold leAt
  subst h
  rw [List.drop_append, List.drop_eq_nil_of_le (Nat.le_add_right _ _), List.nil_append, Nat.add_sub_cancel_left]

theorem leAt_front (n v : Nat) (b : List Byte) : leAt (leBytes n v ++ b) 0 n = v % 256 ^ n := by
  unfold leAt
  rw [List.drop_zero, List.take_append_of_le_length (Nat.le_of_eq (length_leBytes n v).symm), List.take_of_length_le (Nat.le_of_eq (length_leBytes n v)),
    leNat_leBytes]

/-- R439: what the bytes of an entry say. -/
structure HangSays (b : List Byte) (now : Nat) (h : HangWho) : Prop where
  size : b.length = 32
  time : leAt b 0 8 = now % 2 ^ 64
  kind : leAt b 8 1 = (h.kind + 4 * bit h.ctx.isNone) % 256
  ctx : leAt b 9 1 = h.ctx.getD 0 % 256
  queue : leAt b 12 2 = h.queue % 8192
  unit : leAt b 14 1 = h.unit % 256
  iaddr : leAt b 16 8 = h.iaddr % 2 ^ 64

theorem hangBytes_says (s : State) (h : HangWho) : HangSays (s.hangBytes h) s.now h := by
  unfold State.hangBytes
  simp only [List.append_assoc]
  have l8 (v : Nat) := length_leBytes 8 v
  have l1 (v : Nat) := length_leBytes 1 v
  have l2 (v : Nat) := length_leBytes 2 v
  refine ⟨?_, leAt_front 8 _ _, ?_, ?_, ?_, ?_, ?_⟩
  · simp only [List.length_append, length_leBytes]
  · exact (leAt_skip (l8 _) _ 0 1).trans (leAt_front 1 _ _)
  · exact (leAt_skip (l8 _) _ 1 1).trans ((leAt_skip (l1 _) _ 0 1).trans (leAt_front 1 _ _))
  · refine (leAt_skip (l8 _) _ 4 2).trans ((leAt_skip (l1 _) _ 3 2).trans ((leAt_skip (l1 _) _ 2 2).trans ((leAt_skip (l1 _) _ 1 2).trans
      ((leAt_skip (l1 _) _ 0 2).trans ((leAt_front 2 _ _).trans (Nat.mod_eq_of_lt ?_))))))
    exact Nat.lt_of_lt_of_le (Nat.mod_lt _ (by decide)) (by decide)
  · exact (leAt_skip (l8 _) _ 6 1).trans ((leAt_skip (l1 _) _ 5 1).trans ((leAt_skip (l1 _) _ 4 1).trans ((leAt_skip (l1 _) _ 3 1).trans
      ((leAt_skip (l1 _) _ 2 1).trans ((leAt_skip (l2 _) _ 0 1).trans (leAt_front 1 _ _))))))
  · exact (leAt_skip (l8 _) _ 8 8).trans ((leAt_skip (l1 _) _ 7 8).trans ((leAt_skip (l1 _) _ 6 8).trans ((leAt_skip (l1 _) _ 5 8).trans
      ((leAt_skip (l1 _) _ 4 8).trans ((leAt_skip (l2 _) _ 2 8).trans ((leAt_skip (l1 _) _ 1 8).trans ((leAt_skip (l1 _) _ 0 8).trans
      (leAt_front 8 _ _))))))))

/-! ### One entry of the hang log (R439) -/

/-- R439: the oldest of 16 unread entries is lost. -/
def State.hangLost (s : State) : State :=
  if (s.rf R.STD_HANG_WR_SEQ + 2 ^ 16 - s.rf R.STD_HANG_RD_SEQ) % 2 ^ 16 ≥ 16 then s.bump R.STD_HANG_LOST_COUNT 1 else s

def State.withHang (s : State) (l : Store (List Byte)) : State := { s with hangLog := l }

theorem withHang_regs (s : State) (l : Store (List Byte)) : (s.withHang l).regs = s.regs := rfl

theorem withHang_hang (s : State) (l : Store (List Byte)) : (s.withHang l).hangLog = l := rfl

theorem hangEntry_eq (s : State) (h : HangWho) : s.hangEntry h =
    (s.hangLost.withHang (sput s.hangLost.hangLog (s.rf R.STD_HANG_WR_SEQ % 16) (s.hangBytes h))).wf R.STD_HANG_WR_SEQ (s.rf R.STD_HANG_WR_SEQ + 1) := rfl

theorem Spares.hangLost {l : Loc} {s0 s : State} (hk : Spares l s0 s) (h : l.addr ≠ A.STD_HANG_LOST) : Spares l s0 s.hangLost :=
  Spares.ite (hk.bump (m := R.STD_HANG_LOST_COUNT) h 1) hk

/-- An entry shows in the write and loss counters only. -/
theorem Spares.hangEntry {l : Loc} {s0 s : State} (hk : Spares l s0 s) (h1 : l.addr ≠ A.STD_HANG_LOST) (h2 : l.addr ≠ A.STD_HANG_WR) (x : HangWho) :
    Spares l s0 (s.hangEntry x) := by
  rw [hangEntry_eq]
  exact ((hk.hangLost h1).then_regs (withHang_regs _ _)).wf_far (m := R.STD_HANG_WR_SEQ) h2 _

theorem hangLost_log (s : State) : s.hangLost.hangLog = s.hangLog := by
  unfold State.hangLost
  split <;> rfl

theorem hangLog_wf (s : State) (l : Loc) (v : Nat) : (s.wf l v).hangLog = s.hangLog := rfl

theorem hangEntry_log (s : State) (h : HangWho) :
    (s.hangEntry h).hangLog = sput s.hangLog (s.rf R.STD_HANG_WR_SEQ % 16) (s.hangBytes h) := by
  rw [hangEntry_eq, hangLog_wf, withHang_hang, hangLost_log]

theorem hangEntry_seq {s : State} (hs : Store.Sorted s.regs) (h : HangWho) :
    (s.hangEntry h).rf R.STD_HANG_WR_SEQ = (s.rf R.STD_HANG_WR_SEQ + 1) % 2 ^ 16 := by
  rw [hangEntry_eq]
  exact rf_wf_self (((Spares.refl ⟨0, 0, 0⟩ s).hangLost (by decide)).sorted hs) (by decide) _

theorem hangEntry_fences (s : State) (h : HangWho) : (s.hangEntry h).fences = s.fences :=
  (State.hangEntry_same (.refl 34359738376 s) rfl h).fences.resolve_left (by decide)

/-! ### The cause of a blocked step (R294) -/

theorem block_blockCause {s : State} (h : Store.Sorted s.regs) (c : Nat) {b : Nat} (hb : b < 7) (hr : s.cstate c = stRunning) :
    ((s.blockCause c b).rf (R.CMT_CSTAT_BLOCK c)).testBit b = true := by
  unfold State.blockCause
  rw [if_pos (by rw [hr]; rfl)]
  refine Eq.trans (congrArg (·.testBit b) (((Spares.refl (R.CMT_CSTAT_BLOCK c) _).wf (m := R.CMT_CSTAT_STATE c) (Nat.le_of_ble_eq_true rfl)
    (Or.inr (Or.inr (Nat.le_of_ble_eq_true rfl))) _).rf (sorted_wf h _ _))) ?_
  rw [rf_wf_self h (Nat.le_of_ble_eq_true rfl), Nat.testBit_mod_two_pow, Nat.testBit_or, Nat.testBit_two_pow_self, Bool.or_true, Bool.and_true]
  exact decide_eq_true hb

theorem fences_blockCause (s : State) (c b : Nat) : (s.blockCause c b).fences = s.fences := (congrArg State.fences (blockCause_frame s c b) :)

theorem hang_blockCause (s : State) (c b : Nat) : (s.blockCause c b).hangLog = s.hangLog := (congrArg State.hangLog (blockCause_frame s c b) :)

/-! ### A contained watchdog (R434, R446) -/

theorem raiseFor_raised {s : State} (hs : Store.Sorted s.regs) (page : Nat) {b : Nat} (hb : b < 32) (c : Option Nat) :
    ((s.raiseFor page b c).rf (R.ERR_STAT_STAT page)).testBit b = true := by
  rw [rf_of_regs (raiseFor_regs s page b c)]
  exact raiseSrc_raised hs page hb

theorem raiseFor_now (s : State) (page b : Nat) (c : Option Nat) : (s.raiseFor page b c).now = s.now :=
  (State.raiseFor_same (.refl 8589934600 s) rfl page b c).now.resolve_left (by decide)

theorem raiseFor_fences (s : State) (page b : Nat) (c : Option Nat) : (s.raiseFor page b c).fences = s.fences :=
  (State.raiseFor_same (.refl 8589934600 s) rfl page b c).fences.resolve_left (by decide)

theorem raiseFor_hang (s : State) (page b : Nat) (c : Option Nat) : (s.raiseFor page b c).hangLog = s.hangLog :=
  (State.raiseFor_same (.refl 8589934600 s) rfl page b c).hangLog.resolve_left (by decide)

/-- R434: a watchdog's source is raised and its entry written. -/
structure State.Logged (s t : State) (page b : Nat) (h : HangWho) : Prop where
  sorted : Store.Sorted t.regs
  raised : (t.rf (R.ERR_STAT_STAT page)).testBit b = true
  seq : t.rf R.STD_HANG_WR_SEQ = (s.rf R.STD_HANG_WR_SEQ + 1) % 2 ^ 16
  entry : ∃ e, t.hangLog = sput s.hangLog (s.rf R.STD_HANG_WR_SEQ % 16) e ∧ HangSays e s.now h

/-- An address between the hang log and the commit registers. -/
def NearHang (a : Nat) : Prop := 0x40000 ≤ a ∧ a < 0x80000

/-- The page lies apart from the hang log and the commit registers. -/
def FarPage (page : Nat) : Prop := page + 0x28 ≤ 0x40000 ∨ 0x80000 ≤ page

theorem FarPage.noErr {page : Nat} (h : FarPage page) {l : Loc} (hl : NearHang l.addr) : l.NoErr page :=
  Loc.noErr_of_page (by
    unfold FarPage at h
    unfold NearHang at hl
    omega)

theorem FarPage.stat {page : Nat} (h : FarPage page) {a : Nat} (ha : NearHang a) : (R.ERR_STAT_STAT page).addr ≠ a := by
  show page + 0x10 ≠ a
  unfold FarPage at h
  unfold NearHang at ha
  omega

theorem commit_near {c : Nat} (h : c < 64) : NearHang (A.CMT_CSTAT c) := by
  unfold NearHang A.CMT_CSTAT Page.commitBase
  omega

theorem hang_near : NearHang A.STD_HANG_WR ∧ NearHang A.STD_HANG_LOST := by
  unfold NearHang
  decide

theorem hang_ne_commit (c : Nat) : A.STD_HANG_WR ≠ A.CMT_CSTAT c ∧ A.CMT_CSTAT c ≠ A.STD_HANG_WR ∧ A.CMT_CSTAT c ≠ A.STD_HANG_LOST := by
  unfold A.STD_HANG_LOST A.STD_HANG_WR A.CMT_CSTAT Page.commitBase Page.hangBase
  omega

theorem logged_entry {s : State} (hs : Store.Sorted s.regs) {page b : Nat} (hp : FarPage page) (hb : b < 32) (c : Option Nat) (h : HangWho) :
    s.Logged ((s.raiseFor page b c).hangEntry h) page b h := by
  have hsr := sorted_raiseFor hs page b c
  have hseq : (s.raiseFor page b c).rf R.STD_HANG_WR_SEQ = s.rf R.STD_HANG_WR_SEQ :=
    ((Spares.refl R.STD_HANG_WR_SEQ s).raiseFor (hp.noErr (l := R.STD_HANG_WR_SEQ) hang_near.1) b c).rf hs
  refine ⟨((Spares.refl ⟨0, 0, 0⟩ _).hangEntry (by decide) (by decide) h).sorted hsr, ?_, ?_, (s.raiseFor page b c).hangBytes h, ?_, ?_⟩
  · rw [((Spares.refl (R.ERR_STAT_STAT page) _).hangEntry (hp.stat hang_near.2) (hp.stat hang_near.1) h).rf hsr]
    exact raiseFor_raised hs page hb c
  · rw [hangEntry_seq hsr, hseq]
  · rw [hangEntry_log, raiseFor_hang, hseq]
  · have := hangBytes_says (s.raiseFor page b c) h
    rwa [raiseFor_now] at this

/-- What follows the entry leaves it. -/
theorem State.Logged.after {s t u : State} {page b : Nat} {h : HangWho} (hl : s.Logged t page b h) (hg : u.hangLog = t.hangLog)
    (h1 : Spares (R.ERR_STAT_STAT page) t u) (h2 : Spares R.STD_HANG_WR_SEQ t u) : s.Logged u page b h := by
  refine ⟨h1.sorted hl.sorted, ?_, (h2.rf hl.sorted).trans hl.seq, ?_⟩
  · rw [h1.rf hl.sorted]
    exact hl.raised
  · rw [hg]
    exact hl.entry

theorem State.Logged.blockCause {s t : State} {page b : Nat} {h : HangWho} (hl : s.Logged t page b h) (hp : FarPage page) {c : Nat} (hc : c < 64)
    (k : Nat) : s.Logged (t.blockCause c k) page b h :=
  hl.after (hang_blockCause _ _ _) ((Spares.refl _ t).blockCause (Or.inl (hp.stat (commit_near hc))) k)
    ((Spares.refl R.STD_HANG_WR_SEQ t).blockCause (Or.inl (hang_ne_commit c).1) k)

theorem State.Logged.then_regs {s t u : State} {page b : Nat} {h : HangWho} (hl : s.Logged t page b h) (hg : u.hangLog = t.hangLog)
    (hr : u.regs = t.regs) : s.Logged u page b h := hl.after hg (Spares.of_regs hr) (Spares.of_regs hr)

/-- The state of a context stays under a source and an entry. -/
theorem cstate_entry {s : State} (hs : Store.Sorted s.regs) {page : Nat} (hp : FarPage page) (b : Nat) (w : Option Nat) (h : HangWho) {c : Nat}
    (hc : c < 64) : ((s.raiseFor page b w).hangEntry h).cstate c = s.cstate c :=
  (((Spares.refl (R.CMT_CSTAT_STATE c) s).raiseFor (hp.noErr (l := R.CMT_CSTAT_STATE c) (commit_near hc)) b w).hangEntry (hang_ne_commit c).2.2 (hang_ne_commit c).2.1 h).rf hs

theorem entry_fences (s : State) (page b : Nat) (w : Option Nat) (h : HangWho) : ((s.raiseFor page b w).hangEntry h).fences = s.fences :=
  (hangEntry_fences _ _).trans (raiseFor_fences _ _ _ _)

theorem isFenced_of_fences {s t : State} (h : t.fences = s.fences) (d : Dom) : t.isFenced d = s.isFenced d :=
  congrArg Option.isSome (fenceOf_of_fences h d)

theorem beginFence_regs (s : State) (d : Dom) : (s.beginFence d).regs = s.regs ∧ (s.beginFence d).hangLog = s.hangLog := by
  unfold State.beginFence
  split <;> exact ⟨rfl, rfl⟩

theorem beginFence_fences {s : State} {d : Dom} (h : s.isFenced d = false) : (s.beginFence d).fences = s.fences ++ [(d, .draining)] := by
  unfold State.beginFence
  rw [h]
  rfl

/-- R434, R446: the source, the entry, the fence and the blocked step of a contained watchdog. -/
theorem expire_shows {s : State} (hc : s.Canon) {page b : Nat} (hp : FarPage page) (hb : b < 32) {d : Dom} {fenced : Bool}
    (hd : fenced = false → s.isFenced d = false) {h : HangWho} {c : Nat} (hctx : h.ctx = some c) (hc64 : c < 64) :
    s.Logged (s.expire page b d fenced h) page b h ∧
      (s.expire page b d fenced h).fences = (if fenced then s.fences else s.fences ++ [(d, .draining)]) ∧
      (s.cstate c = stRunning → (s.expire page b d fenced h).cstate c = stBlocked ∧
        ((s.expire page b d fenced h).rf (R.CMT_CSTAT_BLOCK c)).testBit 6 = true) := by
  have he : s.expire page b d fenced h =
      (if fenced then (s.raiseFor page b h.ctx).hangEntry h else ((s.raiseFor page b h.ctx).hangEntry h).beginFence d).blockCause c 6 := by
    unfold State.expire
    dsimp only
    rw [hctx]
  have hlog := logged_entry hc.regs hp hb h.ctx h
  have hst := cstate_entry hc.regs hp b h.ctx h hc64
  have hfe := entry_fences s page b h.ctx h
  rw [he]
  generalize (s.raiseFor page b h.ctx).hangEntry h = u at hlog hst hfe
  have hu : ∀ v : State, v.regs = u.regs → v.hangLog = u.hangLog → s.Logged (v.blockCause c 6) page b h ∧ (s.cstate c = stRunning →
      (v.blockCause c 6).cstate c = stBlocked ∧ ((v.blockCause c 6).rf (R.CMT_CSTAT_BLOCK c)).testBit 6 = true) := fun v hr hg => by
    have hv : Store.Sorted v.regs := by rw [hr]; exact hlog.sorted
    have hcs : v.cstate c = s.cstate c := (rf_of_regs hr _).trans hst
    exact ⟨(hlog.then_regs hg hr).blockCause hp hc64 6, fun hrun => ⟨cstate_blockCause hv c 6 (hcs.trans hrun),
      block_blockCause hv c (by decide) (hcs.trans hrun)⟩⟩
  cases fenced with
  | true =>
    obtain ⟨h1, h2⟩ := hu u rfl rfl
    exact ⟨h1, (fences_blockCause _ _ _).trans hfe, h2⟩
  | false =>
    obtain ⟨h1, h2⟩ := hu (u.beginFence d) (beginFence_regs u d).1 (beginFence_regs u d).2
    refine ⟨h1, (fences_blockCause _ _ _).trans ?_, h2⟩
    exact (beginFence_fences ((isFenced_of_fences hfe d).trans (hd rfl))).trans (congrArg (· ++ [(d, FPhase.draining)]) hfe)

theorem furrow_far (f n : Nat) : FarPage (Page.furrowBase f n) := by
  exact Or.inr (by
    unfold Page.furrowBase Page.fieldBase
    omega)

theorem field_far (f : Nat) : FarPage (Page.fieldBase f) := by
  exact Or.inr (by
    unfold Page.fieldBase
    omega)

theorem mod_of_fin64 (c : Fin 64) : c.val % 256 = c.val := Nat.mod_eq_of_lt (Nat.lt_trans c.isLt (by decide))

/-- STREAM_WATCHDOG (R432 to R434, R439). -/
theorem streamWatchdog_shows {s : State} (hc : s.Canon) (x : StreamId) (hcur : (s.st (atOf x)).cur.isSome = true) (hst : (s.st (atOf x)).state ≠ .halted) :
    ∃ t, exec (.streamWatchdog x) s = .next t ∧ s.SameBut t [.regs, .fences, .pairs, .hangLog] ∧
      t.fences = (if s.streamHeld x.field x.furrow x.ctx x.strm then s.fences
        else s.fences ++ [(.stream x.field x.furrow x.ctx x.strm, .draining)]) ∧
      s.Logged t (Page.furrowBase x.field x.furrow) 2 (s.hangOf 0 (atOf x) (s.st (atOf x)).pc) ∧
      (s.cstate x.ctx = stRunning → t.cstate x.ctx = stBlocked ∧ (t.rf (R.CMT_CSTAT_BLOCK x.ctx)).testBit 6 = true) := by
  have hex : exec (.streamWatchdog x) s = .next (s.expire (Page.furrowBase x.field x.furrow) 2 (.stream x.field x.furrow x.ctx x.strm)
      (s.streamHeld x.field x.furrow x.ctx x.strm) (s.hangOf 0 (atOf x) (s.st (atOf x)).pc)) := by
    refine if_neg fun h => ?_
    rcases Bool.or_eq_true_iff.mp h with h | h
    · exact absurd (Option.isNone_iff_eq_none.mp h) (Option.isSome_iff_ne_none.mp hcur)
    · exact hst (of_decide_eq_true h)
  obtain ⟨h1, h2, h3⟩ := expire_shows hc (furrow_far x.field x.furrow) (b := 2) (by decide) (d := .stream x.field x.furrow x.ctx x.strm)
    (fenced := s.streamHeld x.field x.furrow x.ctx x.strm) (fun h => (Bool.or_eq_false_iff.mp (Bool.or_eq_false_iff.mp h).1).1)
    (h := s.hangOf 0 (atOf x) (s.st (atOf x)).pc) (c := x.ctx.val) rfl x.ctx.isLt
  exact ⟨_, hex, sameBut_of_next hex, h2, h1, h3⟩

theorem ctx_lt_of_engine {s : State} {f : Fin 4} {e : Fin 8} (h : s.engineFenced f e = false) : s.isFenced (.dma f e) = false :=
  (Bool.or_eq_false_iff.mp h).1

/-- DMA_WATCHDOG (R432 to R434, R439). -/
theorem dmaWatchdog_shows {s : State} (hc : s.Canon) {f : Fin 4} {e : Fin 8} {x : Xfer}
    (hx : ((s.dmaOf f).active.find? fun y => y.1 == e.val) = some (e.val, x)) (h64 : x.owner.ctx < 64) :
    ∃ t, exec (.dmaWatchdog f e) s = .next t ∧ s.SameBut t [.regs, .fences, .pairs, .hangLog] ∧
      t.fences = (if s.engineFenced f e then s.fences else s.fences ++ [(.dma f e, .draining)]) ∧
      s.Logged t (Page.fieldBase f) 4 { s.hangOf 2 ⟨f, x.furrow, x.owner.ctx, x.owner.strm⟩ x.pc with unit := e, queue := x.owner.queue } := by
  have hex : exec (.dmaWatchdog f e) s = .next (s.expire (Page.fieldBase f) 4 (.dma f e) (s.engineFenced f e)
      { s.hangOf 2 ⟨f, x.furrow, x.owner.ctx, x.owner.strm⟩ x.pc with unit := e, queue := x.owner.queue }) := by
    show execDmaWatchdog f e s = _
    unfold execDmaWatchdog
    rw [hx]
  obtain ⟨h1, h2, -⟩ := expire_shows hc (field_far f) (b := 4) (by decide) (d := .dma f e) (fenced := s.engineFenced f e) ctx_lt_of_engine
    (h := { s.hangOf 2 ⟨f, x.furrow, x.owner.ctx, x.owner.strm⟩ x.pc with unit := e, queue := x.owner.queue }) (c := x.owner.ctx) rfl h64
  exact ⟨_, hex, sameBut_of_next hex, h2, h1⟩

theorem qm_far : FarPage Page.qmBase := Or.inl (by decide)

theorem port_far (p : Nat) : FarPage (Page.portBase p) := Or.inr (by
  unfold Page.portBase Page.fieldBase
  omega)

/-- A queue's page lies apart from the hang log, the commit registers and the error words of the queue manager. -/
theorem qstat_apart (q : Nat) : (R.QM_QSTAT_STATE q).NoErr Page.qmBase ∧ A.QM_QSTAT q ≠ A.STD_HANG_LOST ∧ A.QM_QSTAT q ≠ A.STD_HANG_WR ∧
    A.ERR_STAT Page.qmBase ≠ A.QM_QSTAT q := by
  have h : 0x80000 ≤ A.QM_QSTAT q := by
    unfold A.QM_QSTAT Page.doorbellBase
    omega
  refine ⟨Loc.noErr_of_page (Or.inr (Nat.le_trans (by decide) h)), ?_, ?_, ?_⟩
  · exact Nat.ne_of_gt (Nat.lt_of_lt_of_le (by decide) h)
  · exact Nat.ne_of_gt (Nat.lt_of_lt_of_le (by decide) h)
  · exact Nat.ne_of_lt (Nat.lt_of_lt_of_le (by decide) h)

theorem qstat_ne_commit (q : Nat) {c : Nat} (hc : c < 64) : A.QM_QSTAT q ≠ A.CMT_CSTAT c := by
  have h := (commit_near hc).2
  unfold A.QM_QSTAT Page.doorbellBase
  omega

theorem fences_wf (s : State) (l : Loc) (v : Nat) : (s.wf l v).fences = s.fences := rfl

/-- R436: the fence of a queue that is not disabled. -/
theorem fenceQueue_shows {s : State} (hs : Store.Sorted s.regs) {q : Nat} (h : s.qState q ≠ qDisabled) (ph : FPhase) :
    (s.fenceQueue q ph).fences = (if s.isFenced (.queue q) then s.fences else s.fences ++ [(.queue q, ph)]) ∧
      (s.fenceQueue q ph).hangLog = s.hangLog ∧ (∀ l : Loc, l.addr ≠ A.QM_QSTAT q → Spares l s (s.fenceQueue q ph)) ∧
      (s.isFenced (.queue q) = false → s.qState q ≠ qError → (s.fenceQueue q ph).qState q = qFenced) := by
  unfold State.fenceQueue
  cases hf : s.isFenced (.queue q) with
  | true =>
    rw [if_pos (Or.inr rfl)]
    exact ⟨rfl, rfl, fun l _ => Spares.refl l s, fun h => (nomatch h)⟩
  | false =>
    rw [if_neg (fun hx => hx.elim h fun hx => (nomatch hx))]
    dsimp only
    generalize hu : ({ s with fences := s.fences ++ [(Dom.queue q, ph)] } : State) = u
    have hr : u.regs = s.regs := by rw [← hu]
    have hf : u.fences = s.fences ++ [(Dom.queue q, ph)] := by rw [← hu]
    have hg : u.hangLog = s.hangLog := by rw [← hu]
    have hq : u.qState q = s.qState q := rf_of_regs hr _
    rw [hq]
    by_cases he : s.qState q = qError
    · rw [if_pos he]
      exact ⟨hf, hg, fun l _ => Spares.of_regs hr, fun _ hx => absurd he hx⟩
    · rw [if_neg he]
      refine ⟨(fences_wf _ _ _).trans hf, hg, fun l hl => ?_, fun _ _ => ?_⟩
      · exact (Spares.of_regs hr).wf_far (m := R.QM_QSTAT_STATE q) hl _
      · exact wf_last (l := R.QM_QSTAT_STATE q) (by rw [hr]; exact hs) (Nat.le_of_ble_eq_true rfl) (by
          show 3 < 2 ^ 2
          decide)

/-- QUEUE_WATCHDOG (R432 to R434, R436, R439). -/
theorem queueWatchdog_shows {s : State} (hc : s.Canon) {q : Fin 8192} (hen : s.flag (R.QM_QCFG_EN q) = true) (hms : s.rf (R.QM_QWD_MS q) ≠ 0)
    (hdis : s.qState q ≠ qDisabled) (hh : s.queueHangs q = true) :
    ∃ t, exec (.queueWatchdog q) s = .next t ∧ s.SameBut t [.regs, .fences, .pairs, .hangLog] ∧
      t.fences = (if s.isFenced (.queue q) then s.fences else s.fences ++ [(.queue q, .draining)]) ∧
      (s.isFenced (.queue q) = false → s.qState q ≠ qError → t.qState q = qFenced) ∧
      s.Logged t Page.qmBase 0 { kind := 1, ctx := some (s.qCtx q), queue := q } := by
  have hex : exec (.queueWatchdog q) s = .next ((((s.raiseFor Page.qmBase 0 (some (s.qCtx q))).hangEntry
      { kind := 1, ctx := some (s.qCtx q), queue := q }).fenceQueue q .draining).blockCause (s.qCtx q) 6) := by
    show execQueueWatchdog q s = _
    unfold execQueueWatchdog
    rw [hen, hh, beq_eq_false_iff_ne.mpr hms]
    exact if_neg Bool.false_ne_true
  obtain ⟨a1, a2, a3, a4⟩ := qstat_apart q
  have hlog := logged_entry hc.regs qm_far (b := 0) (by decide) (some (s.qCtx q)) { kind := 1, ctx := some (s.qCtx q), queue := q }
  have hfe := entry_fences s Page.qmBase 0 (some (s.qCtx q)) { kind := 1, ctx := some (s.qCtx q), queue := q }
  have hqs : ((s.raiseFor Page.qmBase 0 (some (s.qCtx q))).hangEntry { kind := 1, ctx := some (s.qCtx q), queue := q }).qState q = s.qState q :=
    (((Spares.refl (R.QM_QSTAT_STATE q) s).raiseFor a1 0 _).hangEntry a2 a3 _).rf hc.regs
  have h64 := ctx_qCtx_lt s q
  generalize (s.raiseFor Page.qmBase 0 (some (s.qCtx q))).hangEntry { kind := 1, ctx := some (s.qCtx q), queue := q } = u at hex hlog hfe hqs
  obtain ⟨f1, f2, f3, f4⟩ := fenceQueue_shows (s := u) hlog.sorted (q := q) (by rw [hqs]; exact hdis) .draining
  rw [isFenced_of_fences hfe, hfe] at f1
  rw [isFenced_of_fences hfe, hqs] at f4
  have hsf : Store.Sorted (u.fenceQueue q .draining).regs := (f3 ⟨0, 0, 0⟩ (ne_of_lt (by
    show 0 < A.QM_QSTAT q
    unfold A.QM_QSTAT Page.doorbellBase
    omega))).sorted hlog.sorted
  refine ⟨_, hex, sameBut_of_next hex, (fences_blockCause _ _ _).trans f1, fun h1 h2 => ?_, ?_⟩
  · exact (((Spares.refl (R.QM_QSTAT_STATE q) _).blockCause (Or.inl (qstat_ne_commit q h64)) 6).rf hsf).trans (f4 h1 h2)
  · exact (hlog.after f2 (f3 _ a4) (f3 R.STD_HANG_WR_SEQ a3.symm)).blockCause qm_far h64 6

theorem mem_namedOf {l : List (Option Nat)} (h : l ≠ []) (who : Option Nat) : namedOf l who ∈ l ∧ (who ∈ l → namedOf l who = who) := by
  unfold namedOf
  by_cases hw : who ∈ l
  · rw [if_pos (List.contains_iff_mem.mpr hw)]
    exact ⟨hw, fun _ => rfl⟩
  · rw [if_neg (fun hx => hw (List.contains_iff_mem.mp hx))]
    refine ⟨?_, fun h => absurd h hw⟩
    cases l with
    | nil => exact absurd rfl h
    | cons x l => cases x <;> exact List.mem_cons_self

/-- R435, R436: the fence of an ACTIVE port. -/
theorem fencePort_shows {s : State} (hs : Store.Sorted s.regs) {p : Nat} (hp : p < 8) (h : s.pstate p = pActive) :
    (s.fencePort p).fences = (if s.isFenced (.port p) then s.fences else s.fences ++ [(.port p, .fenced)]) ∧
      (s.fencePort p).hangLog = s.hangLog ∧ (∀ l : Loc, 0x59000 ≤ l.addr → l.addr ≠ A.MBL_STAT p → Spares l s (s.fencePort p)) ∧
      (s.isFenced (.port p) = false → (s.fencePort p).pstate p = pFailed) := by
  unfold State.fencePort
  cases hf : s.isFenced (.port p) with
  | true => exact ⟨rfl, rfl, fun l _ _ => Spares.refl l s, fun h => (nomatch h)⟩
  | false =>
    rw [if_neg Bool.false_ne_true]
    dsimp only
    generalize hu : ({ s with fences := s.fences ++ [(Dom.port p, FPhase.fenced)] } : State) = u
    have hr : u.regs = s.regs := by rw [← hu]
    have hf : u.fences = s.fences ++ [(Dom.port p, FPhase.fenced)] := by rw [← hu]
    have hg : u.hangLog = s.hangLog := by rw [← hu]
    have hus : Store.Sorted u.regs := by rw [hr]; exact hs
    have hq : u.pstate p = pActive := (rf_of_regs hr _).trans h
    rw [hq, if_neg (show ¬(pActive = pDisabled ∨ pActive = pFailed) by decide)]
    have hsame := State.portDown_same (.refl 274877906952 u) rfl p pFailed
    exact ⟨(hsame.fences.resolve_left (by decide)).trans hf, (hsame.hangLog.resolve_left (by decide)).trans hg,
      fun l h1 h2 => (Spares.of_regs hr).portDown hp h1 h2 _, fun _ => pstate_portDown hus p (by decide)⟩

theorem stat_port (p : Nat) : 0x59000 ≤ (R.ERR_STAT_STAT (Page.portBase p)).addr ∧ (R.ERR_STAT_STAT (Page.portBase p)).addr ≠ A.MBL_STAT p := by
  show 0x59000 ≤ Page.portBase p + 0x10 ∧ Page.portBase p + 0x10 ≠ A.MBL_STAT p
  unfold A.MBL_STAT Page.portBase Page.fieldBase
  omega

theorem pstate_apart (p : Nat) : (R.MBL_STAT_STATE p).NoErr (Page.portBase p) ∧ A.MBL_STAT p ≠ A.STD_HANG_LOST ∧ A.MBL_STAT p ≠ A.STD_HANG_WR := by
  refine ⟨Loc.noErr_of_page (Or.inr (show Page.portBase p + 0x28 ≤ Page.portBase p + 0x104 by omega)), ?_⟩
  unfold A.MBL_STAT A.STD_HANG_LOST A.STD_HANG_WR Page.hangBase Page.portBase Page.fieldBase
  omega

/-- PORT_WATCHDOG (R432, R434 to R436, R439). -/
theorem portWatchdog_shows {s : State} (hc : s.Canon) {p : Fin 8} (who : Option (Fin 64)) (hact : s.pstate p = pActive) (hst : s.stalled p ≠ []) :
    ∃ t, exec (.portWatchdog p who) s = .next t ∧ s.SameBut t [.regs, .fences, .pairs, .hangLog, .ports] ∧
      t.fences = (if s.isFenced (.port p) then s.fences else s.fences ++ [(.port p, .fenced)]) ∧
      (s.isFenced (.port p) = false → t.pstate p = pFailed) ∧ (t.rf (R.ERR_STAT_STAT (Page.portBase p))).testBit 2 = true ∧
      ∃ b, t.hangLog = sput s.hangLog (s.rf R.STD_HANG_WR_SEQ % 16) b ∧
        HangSays b s.now { kind := 3, ctx := namedOf (s.stalled p) (who.map Fin.val), field := p.val / 2, unit := p } := by
  have hex : exec (.portWatchdog p who) s = .next (((s.raiseFor (Page.portBase p) 2 none).hangEntry
      { kind := 3, ctx := namedOf (s.stalled p) (who.map Fin.val), field := p.val / 2, unit := p }).fencePort p) := by
    refine if_neg fun h => ?_
    rcases Bool.or_eq_true_iff.mp h with h | h
    · exact of_decide_eq_true h hact
    · exact hst (List.isEmpty_iff.mp h)
  obtain ⟨a1, a2, a3⟩ := pstate_apart p
  have hlog := logged_entry hc.regs (port_far p) (b := 2) (by decide) none
    { kind := 3, ctx := namedOf (s.stalled p) (who.map Fin.val), field := p.val / 2, unit := p }
  have hfe := entry_fences s (Page.portBase p) 2 none
    { kind := 3, ctx := namedOf (s.stalled p) (who.map Fin.val), field := p.val / 2, unit := p }
  have hps : ((s.raiseFor (Page.portBase p) 2 none).hangEntry
      { kind := 3, ctx := namedOf (s.stalled p) (who.map Fin.val), field := p.val / 2, unit := p }).pstate p = s.pstate p :=
    (((Spares.refl (R.MBL_STAT_STATE p) s).raiseFor a1 2 none).hangEntry a2 a3 _).rf hc.regs
  generalize (s.raiseFor (Page.portBase p) 2 none).hangEntry
    { kind := 3, ctx := namedOf (s.stalled p) (who.map Fin.val), field := p.val / 2, unit := p } = u at hex hlog hfe hps
  obtain ⟨f1, f2, f3, f4⟩ := fencePort_shows hlog.sorted p.isLt (hps.trans hact)
  rw [isFenced_of_fences hfe, hfe] at f1
  rw [isFenced_of_fences hfe] at f4
  refine ⟨_, hex, sameBut_of_next hex, f1, f4, ?_, ?_⟩
  · rw [(f3 _ (stat_port p).1 (stat_port p).2).rf hlog.sorted]
    exact hlog.raised
  · rw [f2]
    exact hlog.entry

/-! ### The statement -/

theorem not_draining {s : State} {d : Dom} (h : s.fenceOf d ≠ some .draining) :
    exec (.fenceDrained d) s = .next s ∧ exec (.fenceDrainTimeout d) s = .next s := ⟨if_neg fun hx => h hx.1, if_neg h⟩

theorem drained_waits {s : State} {d : Dom} (h : s.outstandingOf d = true) : exec (.fenceDrained d) s = .next s := by
  refine if_neg fun hx => ?_
  rw [h] at hx
  exact absurd hx.2 (by decide)

theorem drained_ends {s : State} {d : Dom} (h : s.fenceOf d = some .draining) (ho : s.outstandingOf d = false) :
    exec (.fenceDrained d) s = .next (s.enterFenced d) := if_pos ⟨h, by rw [ho]; rfl⟩

theorem engineFenced_of_draining {s : State} {f e : Nat} (h : s.fenceOf (.dma f e) = some .draining) : s.engineFenced f e = true := by
  unfold State.engineFenced State.isFenced
  rw [h]
  rfl

theorem abandonDom_field (s : State) (f : Nat) : s.abandonDom (.field f) = s.abandonField f := rfl

theorem abandonDom_ctx (s : State) (c : Nat) : s.abandonDom (.ctx c) = s.abandonCtx c := rfl

/-- Settles O57: the four watchdogs (a port's entry names the context of a stalled packet, log 30), and the ends of drains. -/
theorem watchdogsAndFences : Obligations.WatchdogsAndFences := by
  intro s hc
  refine ⟨fun x hcur hst => ?_, fun q hen hms hdis hh => ?_, fun f e x hx h64 => ?_, fun p who hact hst => ?_, fun d => ⟨not_draining, fun h =>
    ⟨drained_waits, fun ho => ⟨_, drained_ends h ho, enterFenced_frame s d, fenceOf_enterFenced_self h, fun e he => fenceOf_enterFenced_ne s he⟩, ?_⟩⟩⟩
  · obtain ⟨t, hex, hsame, hf, hl, hb⟩ := streamWatchdog_shows hc x hcur hst
    obtain ⟨b, hlog, hsay⟩ := hl.entry
    exact ⟨t, hex, hsame, hf, hl.raised, hl.seq, ⟨b, hlog, hsay.size, hsay.time, hsay.kind, hsay.ctx.trans (mod_of_fin64 x.ctx), hsay.iaddr⟩, hb⟩
  · obtain ⟨t, hex, hsame, hf, hq, hl⟩ := queueWatchdog_shows hc hen hms hdis hh
    obtain ⟨b, hlog, hsay⟩ := hl.entry
    exact ⟨t, hex, hsame, hf, hq, hl.raised, b, hlog, hsay.size, hsay.kind,
      hsay.ctx.trans (Nat.mod_eq_of_lt (Nat.lt_trans (ctx_qCtx_lt s q) (by decide))), hsay.queue.trans (Nat.mod_eq_of_lt q.isLt)⟩
  · obtain ⟨t, hex, hsame, hf, hl⟩ := dmaWatchdog_shows hc hx h64
    obtain ⟨b, hlog, hsay⟩ := hl.entry
    exact ⟨t, hex, hsame, hf, hl.raised, b, hlog, hsay.size, hsay.kind, hsay.ctx.trans (Nat.mod_eq_of_lt (Nat.lt_trans h64 (by decide))), hsay.queue,
      hsay.unit.trans (Nat.mod_eq_of_lt (Nat.lt_trans e.isLt (by decide)))⟩
  · obtain ⟨t, hex, hsame, hf, hp, hr, b, hlog, hsay⟩ := portWatchdog_shows hc who hact hst
    obtain ⟨n1, n2⟩ := mem_namedOf hst (who.map Fin.val)
    refine ⟨t, hex, hsame, hf, hp, hr, b, _, hlog, hsay.size, n1, n2, hsay.kind.trans ?_, fun c h => hsay.ctx.trans ?_,
      hsay.unit.trans (Nat.mod_eq_of_lt (Nat.lt_trans p.isLt (by decide)))⟩
    · dsimp only
      cases namedOf (s.stalled p) (who.map Fin.val) <;> rfl
    · exact congrArg (fun w : Option Nat => w.getD 0 % 256) h
  · obtain ⟨hex, h1, h2⟩ := drainTimeout_runs h
    refine ⟨_, hex, h1, h2, ?_⟩
    cases d with
    | stream f n c k => exact abandonStream_xfers hc.dma f n c k
    | queue q =>
      intro x hx
      have hm : x ∈ s.copies.filter fun x => x.queue != q := abandonQueue_copies s q ▸ hx
      exact bne_iff_ne.mp (List.mem_filter.mp hm).2
    | dma f e => exact active_dropXfers hc.dma (engineFenced_of_draining h)
    | port p => rfl
    | field f =>
      have hcl := abandonField_clears hc (f := f) rfl
      rw [abandonDom_field]
      generalize s.abandonField f = u at hcl ⊢
      exact hcl
    | ctx c =>
      have hcl := abandonCtx_clears hc (c := c) rfl
      rw [abandonDom_ctx]
      generalize s.abandonCtx c = u at hcl ⊢
      exact hcl

end Sys2Proof.Machine


/-! Signed objects by command (R425 to R427, R502 to R506): O50. -/

namespace Sys2Proof.Machine

/-! ### Commands that end as they take effect (R359) -/

theorem find_replaced {l : List QCmd} {seq : Nat} {c x : QCmd} (h : l.find? (fun c => c.seq == seq) = some c) (hx : x.seq = seq) :
    (l.map fun c => if c.seq == x.seq then x else c).find? (fun c => c.seq == seq) = some x := by
  subst hx
  have hmap : ∀ y : QCmd, ((if y.seq == x.seq then x else y).seq == x.seq) = (y.seq == x.seq) := fun y => by
    by_cases hy : (y.seq == x.seq) = true
    · rw [if_pos hy, hy]
      exact beq_self_eq_true _
    · rw [if_neg hy]
  rw [List.find?_map]
  have hcomp : ((fun c : QCmd => c.seq == x.seq) ∘ fun c => if c.seq == x.seq then x else c) = fun c => c.seq == x.seq := funext hmap
  rw [hcomp, h]
  have hc : (c.seq == x.seq) = true := List.find?_some (p := fun c : QCmd => c.seq == x.seq) h
  exact congrArg some (if_pos hc)

theorem cmd?_setCmd {s : State} (h : Store.Sorted s.queues) {q seq : Nat} {c x : QCmd} (hc : s.cmd? q seq = some c) (hx : x.seq = seq) :
    (s.setCmd q x).cmd? q seq = some x := by
  unfold State.cmd? at hc ⊢
  rw [queue_setCmd h]
  exact find_replaced hc hx

theorem cmd?_of_queues {s t : State} (h : t.queues = s.queues) (q seq : Nat) : t.cmd? q seq = s.cmd? q seq := by
  unfold State.cmd?
  rw [queue_of_queues h]

/-- R359: the record of a command that ends. -/
def QCmd.ended (c : QCmd) (st d : Nat) : QCmd := { c with fin := some (st, d), ready := c.step.isNone }

theorem finishCmd_open {s : State} {q seq : Nat} {c : QCmd} (hc : s.cmd? q seq = some c) (hf : c.fin = none) (st d : Nat) :
    s.finishCmd q seq st d = if c.step.isSome ∧ st ≠ okStatus then (s.setCmd q (c.ended st d)).blockCause (s.qCtx q) 3 else s.setCmd q (c.ended st d) := by
  unfold State.finishCmd
  rw [hc]
  dsimp only
  rw [hf]
  rfl

theorem cmd?_finishCmd {s : State} (h : Store.Sorted s.queues) {q seq : Nat} {c : QCmd} (hc : s.cmd? q seq = some c) (hf : c.fin = none) (st d : Nat) :
    (s.finishCmd q seq st d).cmd? q seq = some (c.ended st d) := by
  have hset : (s.setCmd q (c.ended st d)).cmd? q seq = some (c.ended st d) := cmd?_setCmd h hc (show c.seq = seq from cmd?_seq hc)
  rw [finishCmd_open hc hf]
  split
  · rw [cmd?_of_queues ((State.blockCause_same (.refl 8 _) rfl _ _).queues.resolve_left (by decide))]
    exact hset
  · exact hset

theorem Spares.finishCmd {l : Loc} {s0 s : State} (hk : Spares l s0 s) {q : Nat} (h : l.NoState (s.qCtx q)) (seq st d : Nat) :
    Spares l s0 (s.finishCmd q seq st d) := by
  unfold State.finishCmd
  split
  · exact hk
  · split
    · exact hk
    · next c _ _ =>
      dsimp only
      have hset : Spares l s0 (s.setCmd q { c with fin := some (st, d), ready := c.step.isNone }) := hk.then_regs rfl
      split
      · exact hset.blockCause h 3
      · exact hset

theorem recAt_ended (s : State) (q : Nat) (w : CmdWord) (st d : Nat) : (s.recAt q w none).ended st d = s.recAt q w (some (st, d)) := by
  unfold State.recAt recordOf QCmd.ended
  rw [Option.isSome_some, Bool.true_and]

theorem Spares.countJob {l : Loc} {s0 s : State} (hk : Spares l s0 s) {u : Nat} (h : l.addr ≠ A.HIF_JOB_LO u ∧ l.addr ≠ A.HIF_JOB_HI u) :
    Spares l s0 (s.countJob u) := (hk.wf_far (m := R.HIF_JOB_LO_COUNT u) h.1 _).wf_far (m := R.HIF_JOB_HI_COUNT u) h.2 _

/-- What a command leaves whose effect ends with its status. -/
theorem launchCmd_ends {s v : State} (hc : s.Canon) {q opc : Nat} {w : CmdWord} (hr : s.MayRun q opc w) {f : State → State} {st d : Nat}
    (hst : st ≠ invalid) (hf : f (s.started q w) = v.finishCmd q (s.qStart q) st d) (hv : v.queues = (s.started q w).queues) :
    (s.launchCmd q w f).cmd? q (s.qStart q) = some (s.recAt q w (some (st, d))) ∧ Same 68719476744 v (s.launchCmd q w f) ∧
      ∀ l : Loc, (∀ u, u < 64 → l.addr ≠ A.HIF_JOB_LO u ∧ l.addr ≠ A.HIF_JOB_HI u) → l.NoState (v.qCtx q) → Spares l v (s.launchCmd q w f) := by
  have hsv : Store.Sorted v.queues := by
    rw [hv]
    exact sorted_passStart hc.queues q _
  have hopen : v.cmd? q (s.qStart q) = some (s.recAt q w none) := (cmd?_of_queues hv q _).trans (cmd?_started hc.queues hr.fresh)
  have hend := cmd?_finishCmd hsv hopen rfl st d
  rw [recAt_ended] at hend
  have hun : (v.finishCmd q (s.qStart q) st d).unstartInvalid q (s.qStart q) = v.finishCmd q (s.qStart q) st d := by
    unfold State.unstartInvalid
    rw [hend]
    exact if_neg fun h => hst (Option.some.inj h)
  have hsame : Same 68719476744 v (v.finishCmd q (s.qStart q) st d) := State.finishCmd_same (.refl _ v) rfl _ _ _ _
  have hsp : ∀ l : Loc, l.NoState (v.qCtx q) → Spares l v (v.finishCmd q (s.qStart q) st d) := fun l hl => (Spares.refl l v).finishCmd hl _ _ _
  have hl : s.launchCmd q w f = if w.job && !(((v.finishCmd q (s.qStart q) st d).cmd? q (s.qStart q)).any fun c => (c.fin.map Prod.fst) == some invalid)
      then (v.finishCmd q (s.qStart q) st d).countJob ((v.finishCmd q (s.qStart q) st d).qFunc q) else v.finishCmd q (s.qStart q) st d := by
    rw [← hun, ← hf]
    rfl
  rw [hl]
  generalize v.finishCmd q (s.qStart q) st d = u at hend hsame hsp ⊢
  split
  · exact ⟨hend, State.countJob_same hsame rfl _, fun l h1 h2 => (hsp l h2).countJob (h1 _ (qFunc_lt u q))⟩
  · exact ⟨hend, hsame, fun l _ h2 => hsp l h2⟩

/-! ### Reads that meet no lost codeword (R164) -/

/-- A register that counts no read of a stack. -/
def Loc.NoRead (l : Loc) : Prop := l.addr % 0x1000 ≠ 0x140 ∧ l.addr % 0x1000 ≠ 0x144

theorem Loc.NoRead.ne {l : Loc} (h : l.NoRead) (f m : Nat) : l.addr ≠ A.HBM_RD_LO f m ∧ l.addr ≠ A.HBM_RD_HI f m := by
  unfold Loc.NoRead at h
  unfold A.HBM_RD_LO A.HBM_RD_HI Page.hbmBase Page.fieldBase
  omega

/-- What a read leaves that meets no lost codeword: its counters count. -/
structure State.Counted (s t : State) : Prop where
  spares : ∀ l : Loc, l.NoRead → Spares l s t
  same : Same 8 s t

theorem State.Counted.refl (s : State) : s.Counted s := ⟨fun l _ => .refl l s, .refl 8 s⟩

theorem State.Counted.readWord {s t : State} (h : s.Counted t) (w : Consumer) (a n : Nat) (hb : sget? t.hbmBad (a / 64) = none) :
    s.Counted (t.readWord w a n).2 := by
  have hs := State.bump64_same h.same rfl (R.HBM_RD_LO_COUNT (fieldOf a) (t.stackOf a)) (R.HBM_RD_HI_COUNT (fieldOf a) (t.stackOf a)) 1
  have hk := fun (l : Loc) (hl : l.NoRead) => (h.spares l hl).bump64 (m := R.HBM_RD_LO_COUNT (fieldOf a) (t.stackOf a))
    (k := R.HBM_RD_HI_COUNT (fieldOf a) (t.stackOf a)) (hl.ne _ _).1 (hl.ne _ _).2 1
  have hbad : (t.bump64 (R.HBM_RD_LO_COUNT (fieldOf a) (t.stackOf a)) (R.HBM_RD_HI_COUNT (fieldOf a) (t.stackOf a)) 1).hbmBad = t.hbmBad :=
    (State.bump64_same (.refl 8 t) rfl _ _ _).hbmBad.resolve_left (by decide)
  unfold State.readWord
  dsimp only
  generalize t.bump64 (R.HBM_RD_LO_COUNT (fieldOf a) (t.stackOf a)) (R.HBM_RD_HI_COUNT (fieldOf a) (t.stackOf a)) 1 = u at hs hk hbad
  rw [hbad, hb]
  exact ⟨hk, hs⟩

theorem counted_hbmRead {s : State} (w : Consumer) {a n : Nat} (hb : s.readBad a n = false) : s.Counted (s.hbmRead w a n).2 := by
  unfold State.hbmRead
  have hb' : ∀ e ∈ codewords a n, sget? s.hbmBad (s.mapAddr e.1 / 64) = none := fun e he => by
    have := List.any_eq_false.mp hb e he
    simpa using this
  generalize codewords a n = l at hb'
  suffices h : ∀ (l : List (Nat × Nat)) (acc : List Byte × State), s.Counted acc.2 → (∀ e ∈ l, sget? s.hbmBad (s.mapAddr e.1 / 64) = none) →
      s.Counted (l.foldl (fun (acc : List Byte × State) (e : Nat × Nat) =>
        let (bs, s) := acc.2.readWord w (acc.2.mapAddr e.1) e.2
        (acc.1 ++ bs, s)) acc).2 from h l ([], s) (.refl s) hb'
  intro l
  induction l with
  | nil => exact fun acc h _ => h
  | cons e l ih =>
    intro acc h hl
    refine ih _ ?_ fun e' he' => hl e' (List.mem_cons_of_mem e he')
    have hr : acc.2.regions = s.regions := h.same.regions.resolve_left (by decide)
    have hbad : acc.2.hbmBad = s.hbmBad := h.same.hbmBad.resolve_left (by decide)
    exact h.readWord w _ _ (by rw [mapAddr_congr hr, hbad]; exact hl e List.mem_cons_self)

/-! ### The SIGNED command (R504) -/

/-- R504: the state once the object has been read, from host memory if `far`. -/
def State.objectRead (s : State) (q : Nat) (far : Bool) (a n : Nat) : State := if far then s else (s.hbmRead (s.qWho q) a n).2

/-- R504: the checked object acts and its command ends. -/
def State.signedEnds (s : State) (q seq : Nat) (x : Signed) (sigs : List Verified) (flashOk : Bool) (m : Meas) : State :=
  (s.applySigned x sigs true flashOk m).2.finishCmd q seq
    ((s.applySigned x sigs true flashOk m).2.signedStatus q (s.applySigned x sigs true flashOk m).1).1
    ((s.applySigned x sigs true flashOk m).2.signedStatus q (s.applySigned x sigs true flashOk m).1).2

/-- R504: the object is read, acts, and its command ends; it has `n` bytes at `a`. -/
def signedEffect (q seq : Nat) (far : Bool) (a n : Nat) (x : Signed) (sigs : List Verified) (flashOk : Bool) (m : Meas) (s : State) : State :=
  (s.objectRead q far a n).signedEnds q seq x sigs flashOk m

/-- R502: what well-formed objects say. -/
theorem parseSigned_action {o : List Byte} {x : Signed} (h : parseSigned o = some x) :
    leAt o 6 1 = x.action ∧ (x.action = 1 ∨ x.action = 2 ∨ x.action = 3) := by
  unfold parseSigned at h
  dsimp only at h
  split at h
  · next hc =>
    obtain rfl := Option.some.inj h
    refine ⟨rfl, ?_⟩
    simp only [Bool.and_eq_true] at hc
    have hb := hc.1.2
    show leAt o 6 1 = 1 ∨ leAt o 6 1 = 2 ∨ leAt o 6 1 = 3
    unfold bodyOk at hb
    split at hb
    · next h3 => exact .inr (.inr h3)
    · simp only [Bool.and_eq_true, Bool.or_eq_true, beq_iff_eq] at hb
      exact hb.2.1.1.imp id Or.inl
  · cases h

/-- What the command reads: the object lies in the host's memory, or in the context's partition where no read of it fails. -/
structure State.ObjectAt (s : State) (q : Nat) (w : CmdWord) (host : Option (List Byte)) (o : List Byte) (n : Nat) : Prop where
  far : cmdAt w 40 1 = 1 → host.map (fitBytes n) = some o
  near : cmdAt w 40 1 = 0 → s.inPartition (s.qCtx q) (cmdAt w 32 8) n = true ∧ s.rangeFenced (cmdAt w 32 8) n = false ∧
    s.hbmWaits (cmdAt w 32 8) n = false ∧ s.readBad (cmdAt w 32 8) n = false ∧ s.peekHbm (cmdAt w 32 8) n = o

theorem signedBegun_runs {s : State} {act q n : Nat} {w : CmdWord} (seq : Nat) {host : Option (List Byte)} {o : List Byte} {x : Signed}
    (sigs : List Verified) (flashOk : Bool) (m : Meas) (hn : n = cmdAt w 44 4) (hfar : cmdAt w 40 1 ≤ 1)
    (hz : lowest (reservedBytes w 41 3 ++ reservedBytes w 48 16) = none) (h16 : 16 ≤ n) (hlen : n = signedLen o) (hx : parseSigned o = some x)
    (hat : s.ObjectAt q w host o n) (hact : x.action = act) :
    s.signedBegun act q w seq host sigs flashOk m =
      .run fun s => (s.objectRead q ((cmdAt w 40 1).testBit 0) (cmdAt w 32 8) n).signedEnds q seq x sigs flashOk m := by
  have hargs : lowest ([(decide (cmdAt w 40 1 > 1), 40), (decide (n < 16), 44)] ++ reservedBytes w 41 3 ++ reservedBytes w 48 16) = none := by
    rw [List.append_assoc, lowest_append, hz, decide_eq_false (Nat.not_lt.mpr hfar), decide_eq_false (Nat.not_lt.mpr h16)]
    rfl
  have hgot : (leAt o 6 1 != act && decide (1 ≤ leAt o 6 1) && decide (leAt o 6 1 ≤ 3)) = false := by
    rw [(parseSigned_action hx).1, hact, bne_self_eq_false]
    rfl
  have hlen' : ¬ n ≠ signedLen o := fun h => h hlen
  unfold State.signedBegun
  dsimp only
  rw [← hn, argsThen_none hargs]
  have hcase : cmdAt w 40 1 = 0 ∨ cmdAt w 40 1 = 1 := by omega
  rcases hcase with h | h
  · obtain ⟨h1, h2, h3, h4, h5⟩ := hat.near h
    have hb : (cmdAt w 40 1).testBit 0 = false := by rw [h]; rfl
    rw [hb, h1, h2, h3, h4, h5]
    simp only [Bool.not_false, Bool.true_and, Bool.not_true, if_neg Bool.false_ne_true]
    rw [hgot, if_neg Bool.false_ne_true, if_neg hlen', hx]
    rfl
  · have hb : (cmdAt w 40 1).testBit 0 = true := by rw [h]; rfl
    rw [hb, hat.far h]
    simp only [Bool.not_true, Bool.false_and, if_neg Bool.false_ne_true, if_pos]
    rw [hgot, if_neg Bool.false_ne_true, if_neg hlen', hx]
    rfl

/-- The instruction that carries an object of action `a`. -/
def signedInstr (a : Nat) (q : Fin 8192) (host : Option (List Byte)) (sigs : List Verified) (flashOk : Bool) (m : Meas) : Instr :=
  if a = 1 then Instr.expel q host sigs m else if a = 2 then .rejoin q host sigs m else .managerKeys q host sigs flashOk m

/-- R506: only the flash write of MANAGER_KEYS can fail. -/
def signedFlash (a : Nat) (flashOk : Bool) : Bool := if a = 3 then flashOk else true

theorem signed_runs {s : State} {q : Fin 8192} {n : Nat} {w : CmdWord} (hr : s.MayRun q 0x50 w) {host : Option (List Byte)} {o : List Byte} {x : Signed}
    (sigs : List Verified) (flashOk : Bool) (m : Meas) (hn : n = cmdAt w 44 4) (hfar : cmdAt w 40 1 ≤ 1)
    (hz : lowest (reservedBytes w 41 3 ++ reservedBytes w 48 16) = none) (h16 : 16 ≤ n) (hlen : n = signedLen o) (hx : parseSigned o = some x)
    (hat : s.ObjectAt q w host o n) : exec (signedInstr x.action q host sigs flashOk m) s = .next (s.launchCmd q w
      (signedEffect q (s.qStart q) ((cmdAt w 40 1).testBit 0) (cmdAt w 32 8) n x sigs (signedFlash x.action flashOk) m)) := by
  have hrun := fun (act : Nat) (ok : Bool) (ha : x.action = act) =>
    runCmd_run hr (body := fun w seq s => s.signedBegun act q w seq host sigs ok m) (signedBegun_runs (s := s) (act := act) (q := q) (s.qStart q) sigs ok m hn hfar hz h16 hlen hx hat ha)
  unfold signedInstr signedFlash
  rcases (parseSigned_action hx).2 with h | h | h
  · rw [h, if_pos rfl, if_neg (by decide)]
    exact congrArg Host.Outcome.next (hrun 1 true h)
  · rw [h, if_neg (by decide), if_pos rfl, if_neg (by decide)]
    exact congrArg Host.Outcome.next (hrun 2 true h)
  · rw [h, if_neg (by decide), if_neg (by decide), if_pos rfl]
    exact congrArg Host.Outcome.next (hrun 3 flashOk h)

/-! ### The state that an object meets -/

/-- What the start of a command and a sound read leave. -/
structure State.Meets (s u : State) (q : Nat) (w : CmdWord) : Prop where
  queues : u.queues = (s.started q w).queues
  flash : u.flash = s.flash
  fences : u.fences = s.fences
  sorted : Store.Sorted u.regs
  rf : ∀ l : Loc, l.NoRead → l.addr ≠ A.QM_QSTART q → u.rf l = s.rf l

theorem started_regs_ne (s : State) (q : Nat) (w : CmdWord) {l : Loc} (h : l.addr ≠ A.QM_QSTART q) : (s.started q w).rf l = s.rf l :=
  rf_congr (reg_passStart s q _ h)

theorem objectRead_meets {s : State} (hc : s.Canon) {q : Nat} {w : CmdWord} {far : Bool} {a n : Nat} (h : far = false → s.readBad a n = false) :
    s.Meets ((s.started q w).objectRead q far a n) q w := by
  have hs := sorted_started hc.regs q w
  cases far with
  | true => exact ⟨rfl, rfl, rfl, hs, fun l _ hl => started_regs_ne s q w hl⟩
  | false =>
    have hb : (s.started q w).readBad a n = false := (readBad_congr rfl rfl a n).trans (h rfl)
    have hcount := counted_hbmRead ((s.started q w).qWho q) hb
    exact ⟨hcount.same.queues.resolve_left (by decide), hcount.same.flash.resolve_left (by decide), hcount.same.fences.resolve_left (by decide),
      (hcount.spares ⟨0, 0, 0⟩ ⟨by decide, by decide⟩).sorted hs,
      fun l hl hne => ((hcount.spares l hl).rf hs).trans (started_regs_ne s q w hne)⟩

theorem authOk_meets {s u : State} {q : Nat} {w : CmdWord} (h : s.Meets u q w) (x : Signed) (sigs : List Verified) (cmd : Bool) :
    u.authOk x sigs cmd = s.authOk x sigs cmd := by
  have hid : u.rf R.MBL_DEVID_ID = s.rf R.MBL_DEVID_ID := h.rf _ ⟨by decide, by decide⟩ (by
    unfold A.QM_QSTART Page.doorbellBase
    show A.MBL_DEVID ≠ _
    unfold A.MBL_DEVID Page.fabricBase
    omega)
  unfold State.authOk State.signers State.recordCounts
  rw [hid, h.flash]

theorem cstat_offset {c : Nat} (hc : c < 64) (q : Nat) : (R.CMT_CSTAT_STATE c).NoRead ∧ (R.CMT_CSTAT_STATE c).addr ≠ A.QM_QSTART q := by
  unfold Loc.NoRead R.CMT_CSTAT_STATE A.CMT_CSTAT Page.commitBase A.QM_QSTART Page.doorbellBase
  dsimp only
  omega

theorem bindv_offset (q : Nat) : (R.QM_QBINDV_CTX q).NoRead ∧ (R.QM_QBINDV_CTX q).addr ≠ A.QM_QSTART q := by
  unfold Loc.NoRead R.QM_QBINDV_CTX A.QM_QBINDV A.QM_QSTART Page.doorbellBase
  dsimp only
  omega

theorem refused_offset (q : Nat) : R.MBL_QREFUSED_COUNT.NoRead ∧ R.MBL_QREFUSED_COUNT.addr ≠ A.QM_QSTART q := by
  refine ⟨⟨by decide, by decide⟩, ?_⟩
  show 0x6012c ≠ A.QM_QSTART q
  unfold A.QM_QSTART Page.doorbellBase
  omega

theorem refused_apart : (∀ u, u < 64 → R.MBL_QREFUSED_COUNT.addr ≠ A.HIF_JOB_LO u ∧ R.MBL_QREFUSED_COUNT.addr ≠ A.HIF_JOB_HI u) ∧
    ∀ c, R.MBL_QREFUSED_COUNT.NoState c := by
  refine ⟨fun u hu => ?_, fun c => Or.inl ?_⟩
  · show 0x6012c ≠ _ ∧ 0x6012c ≠ _
    unfold A.HIF_JOB_LO A.HIF_JOB_HI Page.hostifBase
    omega
  · show 0x6012c ≠ _
    unfold A.CMT_CSTAT Page.commitBase
    omega

theorem State.Meets.state {s u : State} {q : Nat} {w : CmdWord} (h : s.Meets u q w) : u.cstate (u.qCtx q) = s.cstate (s.qCtx q) := by
  have hq : u.qCtx q = s.qCtx q := h.rf _ (bindv_offset q).1 (bindv_offset q).2
  have hlt := ctx_qCtx_lt s q
  rw [hq]
  exact h.rf _ (cstat_offset hlt q).1 (cstat_offset hlt q).2

theorem signedStatus_valid (s : State) (q : Nat) (e : SignedEnd) : (s.signedStatus q e).1 ≠ invalid := by
  cases e with
  | ok => exact (by decide : okStatus ≠ invalid)
  | auth => exact (by decide : authStatus ≠ invalid)
  | state => exact (by decide : stStatus ≠ invalid)
  | flash => exact (by decide : refusedStatus ≠ invalid)

/-- The object has acted: what its command leaves. -/
theorem signed_leaves {s u v : State} (hc : s.Canon) {q opc : Nat} {w : CmdWord} (hr : s.MayRun q opc w) {f : State → State} {x : Signed}
    {sigs : List Verified} {ok : Bool} {m : Meas} {e : SignedEnd} (hf : f (s.started q w) = u.signedEnds q (s.qStart q) x sigs ok m)
    (hm : s.Meets u q w) (happ : u.applySigned x sigs true ok m = (e, v)) :
    (s.launchCmd q w f).cmd? q (s.qStart q) = some (s.recAt q w (some (v.signedStatus q e))) ∧ (s.launchCmd q w f).flash = v.flash ∧
      (s.launchCmd q w f).fences = v.fences ∧ Spares R.MBL_QREFUSED_COUNT v (s.launchCmd q w f) := by
  have hsame : Same 57462367453192 u (u.applySigned x sigs true ok m).2 := State.applySigned_same (.refl _ u) rfl _ _ _ _ _
  unfold State.signedEnds at hf
  rw [happ] at hsame hf
  obtain ⟨h1, h2, h3⟩ := launchCmd_ends hc hr (signedStatus_valid v q e) hf ((hsame.queues.resolve_left (by decide)).trans hm.queues)
  exact ⟨h1, h2.flash.resolve_left (by decide), h2.fences.resolve_left (by decide), h3 _ refused_apart.1 (refused_apart.2 _)⟩

/-! ### What an object does (R426, R427, R506) -/

theorem applySigned_auth {s : State} {x : Signed} {sigs : List Verified} {cmd : Bool} (h : s.authOk x sigs cmd = false) (ok : Bool) (m : Meas) :
    s.applySigned x sigs cmd ok m = (.auth, s.bump R.MBL_QREFUSED_COUNT 1) := by
  unfold State.applySigned
  rw [h]
  rfl

section
variable {s : State} {x : Signed} {sigs : List Verified} {cmd : Bool} (h : s.authOk x sigs cmd = true) (m : Meas)
include h

theorem applySigned_state (ok : Bool) (ha : x.action = 1 ∧ s.flash.expelled = true ∨ x.action = 2 ∧ s.flash.expelled = false) :
    s.applySigned x sigs cmd ok m = (.state, s) := by
  unfold State.applySigned
  rw [h]
  rcases ha with ⟨h1, h2⟩ | ⟨h1, h2⟩
  · rw [h1, h2]
    rfl
  · rw [h1, h2]
    rfl

theorem applySigned_expels (ok : Bool) (h1 : x.action = 1) (h2 : s.flash.expelled = false) : s.applySigned x sigs cmd ok m =
    (.ok, { (List.range 8).foldl State.fencePort s with
      flash := ((List.range 8).foldl State.fencePort s).flash.putHdr
        { ((List.range 8).foldl State.fencePort s).flash.hdr with expelled := true, qseq := x.seq } }.memberEntry 7 x (s.signers x sigs) m) := by
  unfold State.applySigned
  rw [h, h1, h2]
  rfl

theorem applySigned_returns (ok : Bool) (h1 : x.action = 2) (h2 : s.flash.expelled = true) : s.applySigned x sigs cmd ok m =
    (.ok, { s with flash := s.flash.putHdr { s.flash.hdr with expelled := false, qseq := x.seq } }.memberEntry 8 x (s.signers x sigs) m) := by
  unfold State.applySigned
  rw [h, h1, h2]
  rfl

theorem applySigned_unwritten (h1 : x.action = 3) : s.applySigned x sigs cmd false m = (.flash, s) := by
  unfold State.applySigned
  rw [h, h1]
  rfl

/-- R506: the flash with the keys of an object. -/
def Flash.withKeys (y : Flash) (x : Signed) : Flash :=
  (y.putKeys ((List.range (leAt x.body 16 1)).map fun i => (x.body.drop (32 + keySize * i)).take keySize) (leAt x.body 17 1)).putHdr
    { y.hdr with qseq := x.seq }

theorem applySigned_keys (h1 : x.action = 3) : s.applySigned x sigs cmd true m = (.ok, { s with flash := s.flash.withKeys x }) := by
  unfold State.applySigned
  rw [h, h1]
  rfl

end

theorem isFenced_append (s : State) (d e : Dom) (ph : FPhase) (t : State) (h : t.fences = s.fences ++ [(e, ph)]) :
    t.isFenced d = (s.isFenced d || e == d) := by
  unfold State.isFenced State.fenceOf
  rw [h, List.find?_append]
  cases s.fences.find? fun x => x.1 == d with
  | some y => rfl
  | none =>
    cases hd : e == d <;> simp [hd]

theorem fencePort_fences (s : State) (p : Nat) :
    (s.fencePort p).fences = if s.isFenced (.port p) then s.fences else s.fences ++ [(.port p, .fenced)] := by
  unfold State.fencePort
  cases hf : s.isFenced (.port p) with
  | true => rfl
  | false =>
    rw [if_neg Bool.false_ne_true]
    dsimp only
    generalize hu : ({ s with fences := s.fences ++ [(Dom.port p, FPhase.fenced)] } : State) = u
    have hf : u.fences = s.fences ++ [(Dom.port p, FPhase.fenced)] := by rw [← hu]
    split
    · exact (fences_wf _ _ _).trans hf
    · exact ((State.portDown_same (.refl 274877906952 u) rfl p pFailed).fences.resolve_left (by decide)).trans hf

theorem isFenced_fencePort (s : State) (p : Nat) (d : Dom) : (s.fencePort p).isFenced d = (s.isFenced d || Dom.port p == d) := by
  have h := fencePort_fences s p
  cases hf : s.isFenced (.port p) with
  | true =>
    rw [hf] at h
    rw [isFenced_of_fences (h.trans (if_pos rfl))]
    by_cases hd : (Dom.port p == d) = true
    · rw [← eq_of_beq hd, hf, Bool.true_or]
    · rw [Bool.eq_false_iff.mpr hd, Bool.or_false]
  | false =>
    rw [hf] at h
    exact isFenced_append s d _ _ _ (h.trans (if_neg Bool.false_ne_true))

theorem isFenced_fencePorts (l : List Nat) (d : Dom) : ∀ s : State, (l.foldl State.fencePort s).isFenced d = (s.isFenced d || l.any fun p => Dom.port p == d) := by
  induction l with
  | nil => exact fun s => (Bool.or_false _).symm
  | cons p l ih =>
    intro s
    rw [List.foldl_cons, ih, isFenced_fencePort, List.any_cons, Bool.or_assoc]

theorem fencePorts_same (l : List Nat) (s : State) : Same 279172874248 s (l.foldl State.fencePort s) :=
  foldl_same (fun _ p h => State.fencePort_same h rfl p) (.refl _ s)

theorem memberEntry_parts (s : State) (event : Nat) (x : Signed) (n : Nat) (m : Meas) :
    (s.memberEntry event x n m).flash = s.flash ∧ (s.memberEntry event x n m).fences = s.fences :=
  have h := State.memberEntry_same (.refl 52785148067848 s) rfl event x n m
  ⟨h.flash.resolve_left (by decide), h.fences.resolve_left (by decide)⟩

/-! ### The statement -/

/-- An object that is not authentic (R426). -/
theorem signed_refused {s u t : State} (hc : s.Canon) {q opc : Nat} {w : CmdWord} (hr : s.MayRun q opc w) {f : State → State} {x : Signed}
    {sigs : List Verified} {ok : Bool} {m : Meas} (hf : f (s.started q w) = u.signedEnds q (s.qStart q) x sigs ok m) (hm : s.Meets u q w)
    (ht : t = s.launchCmd q w f) (hauth : s.authOk x sigs true = false) : t.flash = s.flash ∧ t.fences = s.fences ∧
      t.rf R.MBL_QREFUSED_COUNT = satAdd32 (s.rf R.MBL_QREFUSED_COUNT) 1 ∧ t.cmd? q (s.qStart q) = some (s.recAt q w (some (authStatus, 1))) := by
  have hb := State.bump_same (.refl 8 u) rfl R.MBL_QREFUSED_COUNT 1
  obtain ⟨h1, h2, h3, h4⟩ := signed_leaves hc hr hf hm (applySigned_auth ((authOk_meets hm x sigs true).trans hauth) ok m)
  rw [ht]
  refine ⟨h2.trans ((hb.flash.resolve_left (by decide)).trans hm.flash), h3.trans ((hb.fences.resolve_left (by decide)).trans hm.fences), ?_, h1⟩
  rw [h4.rf (sorted_wf hm.sorted _ _), rf_bump_self hm.sorted (l := R.MBL_QREFUSED_COUNT) (by decide),
    hm.rf _ (refused_offset q).1 (refused_offset q).2]
  exact satAdd32_mod _ _

/-- An authentic object acts (R427, R506). -/
theorem signed_acts {s u t : State} (hc : s.Canon) {q opc : Nat} {w : CmdWord} (hr : s.MayRun q opc w) {f : State → State} {x : Signed}
    {sigs : List Verified} {flashOk : Bool} {m : Meas} (hf : f (s.started q w) = u.signedEnds q (s.qStart q) x sigs (signedFlash x.action flashOk) m)
    (hm : s.Meets u q w) (ht : t = s.launchCmd q w f) (hauth : s.authOk x sigs true = true) :
    (x.action = 1 ∧ s.flash.expelled = true ∨ x.action = 2 ∧ s.flash.expelled = false → t.flash = s.flash ∧
      t.fences = s.fences ∧ t.cmd? q (s.qStart q) = some (s.recAt q w (some (stStatus, s.cstate (s.qCtx q))))) ∧
    (x.action = 1 → s.flash.expelled = false → t.flash = s.flash.putHdr { s.flash.hdr with expelled := true, qseq := x.seq } ∧
      (∀ p, p < 8 → t.isFenced (.port p) = true) ∧ t.cmd? q (s.qStart q) = some (s.recAt q w (some (okStatus, 0)))) ∧
    (x.action = 2 → s.flash.expelled = true → t.flash = s.flash.putHdr { s.flash.hdr with expelled := false, qseq := x.seq } ∧
      t.fences = s.fences ∧ t.cmd? q (s.qStart q) = some (s.recAt q w (some (okStatus, 0)))) ∧
    (x.action = 3 → t.fences = s.fences ∧
      (flashOk = false → t.flash = s.flash ∧ t.cmd? q (s.qStart q) = some (s.recAt q w (some (refusedStatus, 0)))) ∧
      (flashOk = true → t.flash = s.flash.withKeys x ∧ t.cmd? q (s.qStart q) = some (s.recAt q w (some (okStatus, 0))))) := by
  have hau := (authOk_meets hm x sigs true).trans hauth
  have hfl := hm.flash
  rw [ht]
  refine ⟨fun ha => ?_, fun ha he => ?_, fun ha he => ?_, fun ha => ?_⟩
  · rw [← hfl] at ha
    obtain ⟨h1, h2, h3, -⟩ := signed_leaves hc hr hf hm (applySigned_state hau m _ ha)
    exact ⟨h2.trans hfl, h3.trans hm.fences, h1.trans (congrArg (fun n => some (s.recAt q w (some (stStatus, n)))) hm.state)⟩
  · rw [← hfl] at he
    obtain ⟨h1, h2, h3, -⟩ := signed_leaves hc hr hf hm (applySigned_expels hau m _ ha he)
    have hsame := fencePorts_same (List.range 8) u
    have hfen := isFenced_fencePorts (List.range 8) (s := u)
    have hpf : ((List.range 8).foldl State.fencePort u).flash = s.flash := (hsame.flash.resolve_left (by decide)).trans hfl
    generalize (List.range 8).foldl State.fencePort u = y at h1 h2 h3 hfen hpf
    refine ⟨?_, fun p hp => ?_, h1⟩
    · rw [h2, (memberEntry_parts _ _ _ _ _).1, hpf]
    · rw [isFenced_of_fences (h3.trans (memberEntry_parts _ _ _ _ _).2)]
      refine (hfen (.port p)).trans ?_
      have hany : ((List.range 8).any fun r => Dom.port r == Dom.port p) = true :=
        List.any_eq_true.mpr ⟨p, List.mem_range.mpr hp, beq_self_eq_true (Dom.port p)⟩
      rw [hany, Bool.or_true]
  · rw [← hfl] at he
    obtain ⟨h1, h2, h3, -⟩ := signed_leaves hc hr hf hm (applySigned_returns hau m _ ha he)
    refine ⟨?_, h3.trans ((memberEntry_parts _ _ _ _ _).2.trans hm.fences), h1⟩
    rw [h2, (memberEntry_parts _ _ _ _ _).1, hfl]
  · rw [show signedFlash x.action flashOk = flashOk from if_pos ha] at hf
    cases flashOk with
    | false =>
      obtain ⟨h1, h2, h3, -⟩ := signed_leaves hc hr hf hm (applySigned_unwritten hau m ha)
      exact ⟨h3.trans hm.fences, fun _ => ⟨h2.trans hfl, h1⟩, fun h => (nomatch h)⟩
    | true =>
      obtain ⟨h1, h2, h3, -⟩ := signed_leaves hc hr hf hm (applySigned_keys hau m ha)
      exact ⟨h3.trans hm.fences, fun h => (nomatch h), fun _ => ⟨h2.trans (congrArg (Flash.withKeys · x) hfl), h1⟩⟩

/-- R506: the manager keys of an object. -/
theorem withKeys_shows (y : Flash) (x : Signed) : (y.withKeys x).keysOther = (y.keys, y.need) ∧ (y.withKeys x).keys.length = leAt x.body 16 1 ∧
    (y.withKeys x).need = leAt x.body 17 1 ∧ (y.withKeys x).qseq = x.seq ∧
    ∀ j, j < leAt x.body 16 1 → (y.withKeys x).keys[j]? = some ((x.body.drop (32 + keySize * j)).take keySize) := by
  have hk : (y.withKeys x).keys = (List.range (leAt x.body 16 1)).map fun i => (x.body.drop (32 + keySize * i)).take keySize := rfl
  refine ⟨rfl, ?_, rfl, rfl, fun j hj => ?_⟩
  · rw [hk, List.length_map, List.length_range]
  · rw [hk, List.getElem?_map, List.getElem?_range hj, Option.map_some]

/-- Settles O50: an object that is not authentic is counted, any other acts (its signatures are those of log 4). -/
theorem signedObjectsAct : Obligations.SignedObjectsAct := by
  intro q host sigs flashOk m s w o x n hc hr hn hfar hz h16 hlen hx hhost hdev i hi
  have hat : s.ObjectAt q w host o n := ⟨hhost, hdev⟩
  have hex := signed_runs hr sigs flashOk m hn hfar hz h16 hlen hx hat
  have hread : (cmdAt w 40 1).testBit 0 = false → s.readBad (cmdAt w 32 8) n = false := fun h => by
    have h0 : cmdAt w 40 1 = 0 := by
      have h01 : cmdAt w 40 1 = 0 ∨ cmdAt w 40 1 = 1 := by omega
      refine h01.resolve_right fun h1 => ?_
      rw [h1] at h
      cases h
    exact (hat.near h0).2.2.2.1
  have hm := objectRead_meets hc (q := q) (w := w) (a := cmdAt w 32 8) (n := n) hread
  obtain rfl : i = signedInstr x.action q host sigs flashOk m := hi
  have hsame := sameBut_of_next hex
  have htouch : (signedInstr x.action q host sigs flashOk m).touches = [.regs, .fences, .pairs, .queues, .ports, .flash, .staged, .heldBack] := by
    unfold signedInstr
    split
    · rfl
    · split <;> rfl
  rw [htouch] at hsame
  refine ⟨_, hex, hsame, fun ha => signed_refused hc hr (f := signedEffect q (s.qStart q) ((cmdAt w 40 1).testBit 0) (cmdAt w 32 8)
    n x sigs (signedFlash x.action flashOk) m) rfl hm rfl ha, fun ha => ?_⟩
  obtain ⟨h1, h2, h3, h4⟩ := signed_acts hc hr (f := signedEffect q (s.qStart q) ((cmdAt w 40 1).testBit 0) (cmdAt w 32 8) n x sigs
    (signedFlash x.action flashOk) m) rfl hm rfl ha
  refine ⟨h1, h2, h3, fun hact => ?_⟩
  obtain ⟨hf, hbad, hgood⟩ := h4 hact
  refine ⟨hf, hbad, fun hok => ?_⟩
  obtain ⟨hfl, hcmd⟩ := hgood hok
  obtain ⟨k1, k2, k3, k4, k5⟩ := withKeys_shows s.flash x
  rw [hfl]
  exact ⟨k1, k2, k3, k4, k5, hcmd⟩

end Sys2Proof.Machine


/-! The almanac and the harrow (R411 to R422, R429, R430): O58. -/

namespace Sys2Proof.Machine

/-! ### Entries in flash (R419, R422) -/

theorem crcBit_lt {c : Nat} (h : c < 2 ^ 32) : crcBit c < 2 ^ 32 := by
  unfold crcBit
  split
  · exact Nat.xor_lt_two_pow (Nat.lt_of_le_of_lt (Nat.div_le_self _ _) h) (by decide)
  · exact Nat.lt_of_le_of_lt (Nat.div_le_self _ _) h

theorem crcByte_lt {c : Nat} (h : c < 2 ^ 32) (b : Byte) : crcByte c b < 2 ^ 32 := by
  unfold crcByte
  have hx : c ^^^ b.toNat < 2 ^ 32 := Nat.xor_lt_two_pow h (Nat.lt_trans b.isLt (by decide))
  generalize List.range 8 = l
  generalize c ^^^ b.toNat = x at hx
  induction l generalizing x with
  | nil => exact hx
  | cons _ l ih => exact ih _ (crcBit_lt hx)

theorem crc32c_lt (l : List Byte) : crc32c l < 2 ^ 32 := by
  unfold crc32c
  refine Nat.xor_lt_two_pow ?_ (by decide)
  have h : (0xFFFFFFFF : Nat) < 2 ^ 32 := by decide
  generalize 0xFFFFFFFF = x at h
  induction l generalizing x with
  | nil => exact h
  | cons b l ih => exact ih _ (crcByte_lt h b)

theorem length_fitBytes (n : Nat) (b : List Byte) : (fitBytes n b).length = n := by
  unfold fitBytes
  rw [List.length_map, List.length_range]

theorem length_entry (e : AlmEntry) (seq cls : Nat) : (e.bytes seq cls).length = 60 := by
  unfold AlmEntry.bytes
  simp only [List.length_append, length_leBytes, length_fitBytes]

/-- R419: what the bytes of an entry say. -/
theorem entry_says (e : AlmEntry) (seq cls : Nat) : leAt (e.bytes seq cls) 0 4 = seq % 2 ^ 32 ∧ leAt (e.bytes seq cls) 16 2 = e.page % 2 ^ 16 ∧
    leAt (e.bytes seq cls) 18 1 = e.bit % 256 ∧ leAt (e.bytes seq cls) 19 1 = e.event % 256 := by
  unfold AlmEntry.bytes
  simp only [List.append_assoc]
  have l4 (v : Nat) := length_leBytes 4 v
  have l8 (v : Nat) := length_leBytes 8 v
  have l2 (v : Nat) := length_leBytes 2 v
  have l1 (v : Nat) := length_leBytes 1 v
  refine ⟨leAt_front 4 _ _, ?_, ?_, ?_⟩
  · exact (leAt_skip (l4 _) _ 12 2).trans ((leAt_skip (l4 _) _ 8 2).trans ((leAt_skip (l8 _) _ 0 2).trans (leAt_front 2 _ _)))
  · exact (leAt_skip (l4 _) _ 14 1).trans ((leAt_skip (l4 _) _ 10 1).trans ((leAt_skip (l8 _) _ 2 1).trans ((leAt_skip (l2 _) _ 0 1).trans
      (leAt_front 1 _ _))))
  · exact (leAt_skip (l4 _) _ 15 1).trans ((leAt_skip (l4 _) _ 11 1).trans ((leAt_skip (l8 _) _ 3 1).trans ((leAt_skip (l2 _) _ 1 1).trans
      ((leAt_skip (l1 _) _ 0 1).trans (leAt_front 1 _ _)))))

theorem leAt_withCrc {b : List Byte} {o n : Nat} (h : o + n ≤ b.length) : leAt (withCrc b) o n = leAt b o n := by
  unfold leAt withCrc
  rw [List.drop_append_of_le_length (by omega), List.take_append_of_le_length (by rw [List.length_drop]; omega)]

/-- R422: an entry closed by its CRC passes the check. -/
theorem withCrc_sound {b : List Byte} (h : b.length = 60) : crcFails (withCrc b) = false := by
  have h1 : leAt (withCrc b) 60 4 = crc32c b := by
    unfold leAt withCrc
    rw [← h, List.drop_left, List.take_of_length_le (Nat.le_of_eq (length_leBytes 4 _)), leNat_leBytes]
    exact Nat.mod_eq_of_lt (crc32c_lt b)
  have h2 : (withCrc b).take 60 = b := by
    unfold withCrc
    rw [← h, List.take_left]
  unfold crcFails
  rw [h1, h2]
  exact bne_self_eq_false _

/-- R417, R419, R421: the flash with the entry `e` written. -/
def State.entryWritten (s : State) (e : AlmEntry) (rest : List AlmEntry) (cls : Nat) : State :=
  let seq := s.flash.heads.getD e.cls 0
  let i := 65536 * e.cls + seq % almCapacity e.cls
  let fl := { s.flash with entries := sput s.flash.entries i (withCrc (e.bytes seq cls)) }
  { s with staged := rest, flash := fl.putHdr { fl.hdr with heads := fl.heads.set e.cls ((seq + 1) % 2 ^ 32) } }

/-- R421: the classification that the entry `e` is written with. -/
def State.entryClass (s : State) (e : AlmEntry) : Nat :=
  let seq := s.flash.heads.getD e.cls 0
  let i := 65536 * e.cls + seq % almCapacity e.cls
  (({ s with flash := { s.flash with entries := sdel s.flash.entries i } } : State).classifyAt [e.bytes seq 0] e.page e.bit).1

theorem flashWrite_runs {s : State} {e : AlmEntry} {rest : List AlmEntry} (h : s.staged = e :: rest) :
    exec (.almanacFlashWrite true) s = .next (s.entryWritten e rest (s.entryClass e)) := by
  show execAlmanacFlashWrite true s = _
  unfold execAlmanacFlashWrite
  rw [h]
  rfl

theorem entryWritten_shows (s : State) (e : AlmEntry) (rest : List AlmEntry) (cls : Nat) :
    s.SameBut (s.entryWritten e rest cls) [.flash, .staged] ∧ (s.entryWritten e rest cls).staged = rest ∧
      (s.entryWritten e rest cls).flash.heads = s.flash.heads.set e.cls ((s.flash.heads.getD e.cls 0 + 1) % 2 ^ 32) ∧
      (s.entryWritten e rest cls).flash.entries = sput s.flash.entries (65536 * e.cls + s.flash.heads.getD e.cls 0 % almCapacity e.cls)
        (withCrc (e.bytes (s.flash.heads.getD e.cls 0) cls)) ∧
      (s.entryWritten e rest cls).flash.body = s.flash.body ∧ (s.entryWritten e rest cls).flash.qseq = s.flash.qseq ∧
      (s.entryWritten e rest cls).flash.hdrOther = s.flash.hdr ∧ (s.entryWritten e rest cls).flash.hdrSide = !s.flash.hdrSide := by
  refine ⟨(Same.of_frame (M := partsMask [.flash, .staged]) rfl).parts, rfl, rfl, rfl, rfl, rfl, rfl, rfl⟩

/-- What a write of the oldest staged entry leaves. -/
theorem flashWrite_shows {s : State} {e : AlmEntry} {rest : List AlmEntry} (h : s.staged = e :: rest) {i : Nat}
    (hi : i = 65536 * e.cls + s.flash.heads.getD e.cls 0 % almCapacity e.cls) : ∃ t, exec (.almanacFlashWrite true) s = .next t ∧
      s.SameBut t [.flash, .staged] ∧ t.staged = rest ∧ t.flash.heads = s.flash.heads.set e.cls ((s.flash.heads.getD e.cls 0 + 1) % 2 ^ 32) ∧
      (∃ b, t.flash.entries = sput s.flash.entries i b ∧ b.length = 64 ∧ crcFails b = false ∧
        leAt b 0 4 = s.flash.heads.getD e.cls 0 % 2 ^ 32 ∧ leAt b 16 2 = e.page % 2 ^ 16 ∧ leAt b 18 1 = e.bit % 256 ∧
        leAt b 19 1 = e.event % 256) ∧ t.flash.body = s.flash.body ∧ t.flash.qseq = s.flash.qseq ∧
      t.flash.hdrOther = s.flash.hdr ∧ t.flash.hdrSide = !s.flash.hdrSide := by
  subst hi
  obtain ⟨h1, h2, h3, h4, h5, h6, h7, h8⟩ := entryWritten_shows s e rest (s.entryClass e)
  obtain ⟨b1, b2, b3, b4⟩ := entry_says e (s.flash.heads.getD e.cls 0) (s.entryClass e)
  have hlen := length_entry e (s.flash.heads.getD e.cls 0) (s.entryClass e)
  refine ⟨_, flashWrite_runs h, h1, h2, h3, ⟨_, h4, ?_, withCrc_sound hlen, ?_, ?_, ?_, ?_⟩, h5, h6, h7, h8⟩
  · unfold withCrc
    rw [List.length_append, hlen, length_leBytes]
  · exact (leAt_withCrc (by rw [hlen]; decide)).trans b1
  · exact (leAt_withCrc (by rw [hlen]; decide)).trans b2
  · exact (leAt_withCrc (by rw [hlen]; decide)).trans b3
  · exact (leAt_withCrc (by rw [hlen]; decide)).trans b4

def State.withStaged (s : State) (l : List AlmEntry) : State := { s with staged := l }

theorem withStaged_same (s : State) (l : List AlmEntry) : Same (partsMask [.staged]) s (s.withStaged l) := Same.of_frame (M := partsMask [.staged]) rfl

theorem withStaged_regs (s : State) (l : List AlmEntry) : (s.withStaged l).regs = s.regs := rfl

theorem withStaged_staged (s : State) (l : List AlmEntry) : (s.withStaged l).staged = l := rfl

theorem flashFail_again {s : State} {e : AlmEntry} {rest : List AlmEntry} (h : s.staged = e :: rest) (ht : e.tried = false) :
    exec (.almanacFlashWrite false) s = .next ((s.raiseSrc Page.almanacBase 0).withStaged ({ e with tried := true } :: rest)) := by
  show execAlmanacFlashWrite false s = _
  unfold execAlmanacFlashWrite
  rw [h]
  dsimp only
  rw [if_neg Bool.false_ne_true, ht, if_neg Bool.false_ne_true]
  rfl

theorem flashFail_lost {s : State} {e : AlmEntry} {rest : List AlmEntry} (h : s.staged = e :: rest) (ht : e.tried = true) :
    exec (.almanacFlashWrite false) s = .next ((s.raiseSrc Page.almanacBase 0).withStaged rest).almLose := by
  show execAlmanacFlashWrite false s = _
  unfold execAlmanacFlashWrite
  rw [h]
  dsimp only
  rw [if_neg Bool.false_ne_true, ht, if_pos rfl]
  rfl

theorem Spares.almLose {l : Loc} {s0 s : State} (hk : Spares l s0 s) (h : l.addr ≠ A.ALM_LOST) : Spares l s0 s.almLose :=
  hk.bump (m := R.ALM_LOST_COUNT) h 1

/-- A write that fails: the entry is tried once more, and then lost (R422). -/
theorem flashFail_shows {s : State} (hc : s.Canon) {e : AlmEntry} {rest : List AlmEntry} (h : s.staged = e :: rest) :
    ∃ t, exec (.almanacFlashWrite false) s = .next t ∧ s.SameBut t [.regs, .pairs, .staged] ∧
      (t.rf (R.ERR_STAT_STAT Page.almanacBase)).testBit 0 = true ∧ (e.tried = false → t.staged = { e with tried := true } :: rest) ∧
      (e.tried = true → t.staged = rest ∧ t.rf R.ALM_LOST_COUNT = satAdd32 (s.rf R.ALM_LOST_COUNT) 1) := by
  have hr : Same (partsMask [.regs, .pairs, .staged]) s (s.raiseSrc Page.almanacBase 0) := State.raiseSrc_same (.refl _ s) rfl _ _
  have hst := hr.trans ((withStaged_same (s.raiseSrc Page.almanacBase 0) rest).mono (N := partsMask [.regs, .pairs, .staged]) rfl)
  have hraised := raiseSrc_raised hc.regs Page.almanacBase (bit := 0) (by decide)
  have hsr : Store.Sorted (s.raiseSrc Page.almanacBase 0).regs := sorted_raiseSrc hc.regs _ _
  have hlost : (s.raiseSrc Page.almanacBase 0).rf R.ALM_LOST_COUNT = s.rf R.ALM_LOST_COUNT :=
    ((Spares.refl R.ALM_LOST_COUNT s).raiseSrc (Loc.noErr_of_page (by decide)) 0).rf hc.regs
  cases ht : e.tried with
  | false =>
    refine ⟨_, flashFail_again h ht, (hr.trans ((withStaged_same _ _).mono (N := partsMask [.regs, .pairs, .staged]) rfl)).parts, ?_,
      fun _ => withStaged_staged _ _, fun h => (nomatch h)⟩
    rw [rf_of_regs (withStaged_regs _ _)]
    exact hraised
  | true =>
    have hex := flashFail_lost h ht
    have hregs := withStaged_regs (s.raiseSrc Page.almanacBase 0) rest
    have hstg := withStaged_staged (s.raiseSrc Page.almanacBase 0) rest
    generalize (s.raiseSrc Page.almanacBase 0).withStaged rest = u at hex hst hregs hstg
    have hsu : Store.Sorted u.regs := by rw [hregs]; exact hsr
    refine ⟨_, hex, (State.almLose_same hst rfl).parts, ?_, fun h => (nomatch h), fun _ => ⟨?_, ?_⟩⟩
    · rw [((Spares.refl (R.ERR_STAT_STAT Page.almanacBase) u).almLose (by decide)).rf hsu, rf_of_regs hregs]
      exact hraised
    · exact ((State.almLose_same (.refl 8 u) rfl).staged.resolve_left (by decide)).trans hstg
    · refine (rf_bump_self hsu (l := R.ALM_LOST_COUNT) (by decide) 1).trans ((satAdd32_mod _ _).trans ?_)
      rw [rf_of_regs hregs, hlost]

/-! ### Reads and queries (R421, R429) -/

/-- R429: the bytes of an entry shown in the read registers. -/
def State.showEntry (s : State) (b : List Byte) : State :=
  (List.range 16).foldl (fun s j => s.setReg (A.ALM_RDATA j) (BitVec.ofNat 32 (leAt b (4 * j) 4))) s

theorem rdata_inj {i j : Nat} (h : A.ALM_RDATA i = A.ALM_RDATA j) : i = j := by
  unfold A.ALM_RDATA at h
  omega

theorem showEntry_frame (l : List Nat) (b : List Byte) : ∀ s : State,
    { l.foldl (fun s j => s.setReg (A.ALM_RDATA j) (BitVec.ofNat 32 (leAt b (4 * j) 4))) s with regs := s.regs } = s := by
  induction l with
  | nil => exact fun s => rfl
  | cons j l ih => exact fun s => congrArg (fun u : State => { u with regs := s.regs }) (ih _)

theorem Spares.showEntry {k : Loc} {s0 s : State} (hk : Spares k s0 s) (h : ∀ j, j < 16 → k.addr ≠ A.ALM_RDATA j) (b : List Byte) :
    Spares k s0 (s.showEntry b) :=
  Spares.foldl_mem _ (fun _ j hj ht => ht.setReg (h j (List.mem_range.mp hj)) _) hk

theorem showEntry_reg_ne (b : List Byte) {j : Nat} (l : List Nat) (hj : j ∉ l) : ∀ s : State,
    (l.foldl (fun s j => s.setReg (A.ALM_RDATA j) (BitVec.ofNat 32 (leAt b (4 * j) 4))) s).reg (A.ALM_RDATA j) = s.reg (A.ALM_RDATA j) := by
  induction l with
  | nil => exact fun s => rfl
  | cons i l ih =>
    intro s
    have h1 : A.ALM_RDATA j ≠ A.ALM_RDATA i := fun h => hj (rdata_inj h ▸ List.mem_cons_self)
    rw [List.foldl_cons, ih fun h => hj (List.mem_cons_of_mem i h)]
    exact reg_setReg_ne _ _ h1

theorem showEntry_reg (b : List Byte) {j : Nat} (l : List Nat) (hj : j ∈ l) (hn : l.Nodup) : ∀ s : State, Store.Sorted s.regs →
    (l.foldl (fun s j => s.setReg (A.ALM_RDATA j) (BitVec.ofNat 32 (leAt b (4 * j) 4))) s).reg (A.ALM_RDATA j) = BitVec.ofNat 32 (leAt b (4 * j) 4) := by
  induction l with
  | nil => exact absurd hj List.not_mem_nil
  | cons i l ih =>
    intro s hs
    obtain ⟨hni, hnl⟩ := List.nodup_cons.mp hn
    rw [List.foldl_cons]
    rcases List.mem_cons.mp hj with rfl | hj
    · rw [showEntry_reg_ne b l hni]
      exact reg_setReg_self hs _ _
    · exact ih hj hnl _ (sorted_setReg hs _ _)

/-- R429: a write of `ALM_RSEL` before the flash answers. -/
def State.selecting (s : State) (a : Nat) (v : Word32) : State := (s.plainWrite a v).startRead

theorem selecting_regs (s : State) (a : Nat) (v : Word32) : (s.selecting a v).regs = (s.plainWrite a v).regs := rfl

theorem selecting_mg (s : State) (a : Nat) (v : Word32) : (s.selecting a v).mg = { s.mg with readAt := some s.now } := rfl

theorem selecting_flash (s : State) (a : Nat) (v : Word32) : (s.selecting a v).flash = s.flash := rfl

theorem selecting_pairs (s : State) (a : Nat) (v : Word32) : (s.selecting a v).pairs = s.pairs := rfl

/-- R422: the flash's answer `b` is checked and shown. -/
def State.answered (s : State) (b : List Byte) : State :=
  ((if crcFails b then s.raiseSrc Page.almanacBase 2 else s).showEntry b).wf R.ALM_RSEL_READY 1

theorem almEntry_congr {s t : State} (h : t.flash = s.flash) (cls index : Nat) (got : Option (List Byte)) : t.almEntry cls index got = s.almEntry cls index got := by
  unfold State.almEntry
  rw [h]

theorem selectEntry_eq (s : State) (v : Word32) (got : Option (List Byte)) :
    s.selectEntry v got = (s.selecting A.ALM_RSEL v).answered ((s.selecting A.ALM_RSEL v).almEntry (wbits v 0 3) (wbits v 8 16) got) := rfl

theorem answered_same (s : State) (b : List Byte) : Same 8589934600 s (s.answered b) :=
  State.wf_same (foldl_same (fun _ _ h => State.setReg_same h rfl _ _) (ite_same (State.raiseSrc_same (.refl _ s) rfl _ _) (.refl _ s))) rfl _ _

theorem answered_pairs {s : State} {b : List Byte} (h : crcFails b = false) : (s.answered b).pairs = s.pairs := by
  have hs : Same 8 s ((s.showEntry b).wf R.ALM_RSEL_READY 1) :=
    State.wf_same (foldl_same (fun _ _ h => State.setReg_same h rfl _ _) (.refl _ s)) rfl _ _
  unfold State.answered
  rw [h, if_neg Bool.false_ne_true]
  exact hs.pairs.resolve_left (by decide)

/-- What the answer of the flash leaves. -/
theorem answered_shows {s : State} (hs : Store.Sorted s.regs) (b : List Byte) : (s.answered b).rf R.ALM_RSEL_READY = 1 ∧
    (∀ j, j < 16 → ((s.answered b).reg (A.ALM_RDATA j)).toNat = leAt b (4 * j) 4) ∧
    (crcFails b = true → ((s.answered b).rf (R.ERR_STAT_STAT Page.almanacBase)).testBit 2 = true) := by
  have hsr : Store.Sorted (if crcFails b then s.raiseSrc Page.almanacBase 2 else s).regs := by
    split
    · exact sorted_raiseSrc hs _ _
    · exact hs
  have hbit : crcFails b = true → ((if crcFails b then s.raiseSrc Page.almanacBase 2 else s).rf (R.ERR_STAT_STAT Page.almanacBase)).testBit 2 = true := fun h => by
    rw [if_pos h]
    exact raiseSrc_raised hs _ (by decide)
  unfold State.answered
  generalize (if crcFails b then s.raiseSrc Page.almanacBase 2 else s) = u at hsr hbit
  have hsh : Store.Sorted (u.showEntry b).regs := ((Spares.refl ⟨0, 0, 0⟩ u).showEntry (fun j _ => by
    show 0 ≠ A.ALM_RDATA j
    unfold A.ALM_RDATA Page.almanacBase
    omega) b).sorted hsr
  refine ⟨wf_last (l := R.ALM_RSEL_READY) hsh (by decide) (by decide), fun j hj => ?_, fun h => ?_⟩
  · have hne : A.ALM_RDATA j ≠ A.ALM_RSEL := by
      unfold A.ALM_RDATA A.ALM_RSEL
      omega
    refine (congrArg BitVec.toNat ((reg_wf_ne (l := R.ALM_RSEL_READY) _ _ hne).trans
      (showEntry_reg b _ (List.mem_range.mpr hj) List.nodup_range u hsr))).trans ?_
    rw [BitVec.toNat_ofNat]
    exact Nat.mod_eq_of_lt (leAt_lt b _ _)
  · have hk : Spares (R.ERR_STAT_STAT Page.almanacBase) u ((u.showEntry b).wf R.ALM_RSEL_READY 1) :=
      ((Spares.refl _ u).showEntry (fun j _ => by
        show Page.almanacBase + 0x10 ≠ A.ALM_RDATA j
        unfold A.ALM_RDATA
        omega) b).wf_far (m := R.ALM_RSEL_READY) (by decide) _
    rw [hk.rf hsr]
    exact hbit h

/-- ALMANAC_READ (R429). -/
theorem almanacRead_shows {s : State} (hc : s.Canon) {u : Fin 64} {v : Word32} {got : Option (List Byte)} {b : List Byte} (hm : s.MayWrite u A.ALM_RSEL)
    (hb : b = s.almEntry (wbits v 0 3) (wbits v 8 16) got) : ∃ t, exec (.almanacRead u v got) s = .next t ∧ s.SameBut t [.regs, .pairs, .mg] ∧
      t.rf R.ALM_RSEL_READY = 1 ∧ t.mg = { s.mg with readAt := some s.now } ∧
      (∀ j, j < 16 → (t.reg (A.ALM_RDATA j)).toNat = leAt b (4 * j) 4) ∧
      (crcFails b = true → (t.rf (R.ERR_STAT_STAT Page.almanacBase)).testBit 2 = true) ∧ (crcFails b = false → t.pairs = s.pairs) := by
  have hex : exec (.almanacRead u v got) s = .next ((s.selecting A.ALM_RSEL v).answered b) := by
    show execAlmanacRead u v got s = _
    unfold execAlmanacRead
    rw [gateWrite_rw hm, selectEntry_eq, almEntry_congr (selecting_flash _ _ _), ← hb]
  have hs : Store.Sorted (s.selecting A.ALM_RSEL v).regs := sorted_setReg hc.regs _ _
  have hmg := selecting_mg s A.ALM_RSEL v
  have hpairs := selecting_pairs s A.ALM_RSEL v
  generalize s.selecting A.ALM_RSEL v = y at hex hs hmg hpairs
  obtain ⟨h1, h2, h3⟩ := answered_shows hs b
  exact ⟨_, hex, sameBut_of_next hex, h1, ((answered_same y b).mg.resolve_left (by decide)).trans hmg, h2, h3,
    fun h => (answered_pairs h).trans hpairs⟩

/-- R421: the classification word `x` is shown. -/
def State.classShown (s : State) (v x : Word32) : State := ((s.plainWrite A.ALM_QSEL v).setReg A.ALM_QRES x).wf R.ALM_QSEL_READY 1

theorem selectClass_eq (s : State) (v : Word32) : s.selectClass v = (s.classShown v (s.classWord (wbits v 0 15) (wbits v 15 5))).startRead := rfl

theorem regsFrame_wf {s t : State} (h : { t with regs := s.regs } = s) (l : Loc) (v : Nat) : { t.wf l v with regs := s.regs } = s :=
  (congrArg (fun u : State => { u with regs := s.regs }) (wf_frame t l v)).trans h

theorem regsFrame_setReg {s t : State} (h : { t with regs := s.regs } = s) (a : Nat) (w : Word32) : { t.setReg a w with regs := s.regs } = s :=
  (congrArg (fun u : State => { u with regs := s.regs }) (setReg_frame t a w)).trans h

theorem classShown_frame (s : State) (v x : Word32) : { s.classShown v x with regs := s.regs } = s :=
  regsFrame_wf (regsFrame_setReg (plainWrite_frame s A.ALM_QSEL v) _ _) _ _

theorem startRead_regs (s : State) : s.startRead.regs = s.regs := rfl

theorem startRead_frame {s t : State} (h : { t with regs := s.regs } = s) : { t.startRead with regs := s.regs, mg := s.mg } = s :=
  congrArg (fun u : State => { u with mg := s.mg }) h

theorem startRead_mg {s t : State} (h : { t with regs := s.regs } = s) : t.startRead.mg = { s.mg with readAt := some s.now } :=
  congrArg (fun u : State => { u.mg with readAt := some u.now }) h

theorem classShown_shows {s : State} (hs : Store.Sorted s.regs) (v x : Word32) :
    (s.classShown v x).rf R.ALM_QSEL_READY = 1 ∧ (s.classShown v x).reg A.ALM_QRES = x := by
  have hsp : Store.Sorted (s.plainWrite A.ALM_QSEL v).regs := sorted_setReg hs _ _
  unfold State.classShown
  generalize s.plainWrite A.ALM_QSEL v = u at hsp
  exact ⟨wf_last (l := R.ALM_QSEL_READY) (sorted_setReg hsp _ _) (by decide) (by decide),
    (reg_wf_ne (l := R.ALM_QSEL_READY) _ _ (by decide)).trans (reg_setReg_self hsp _ _)⟩

/-- ALMANAC_CLASSIFY (R421, R429). -/
theorem almanacClassify_shows {s : State} (hc : s.Canon) {u : Fin 64} {v : Word32} (hm : s.MayWrite u A.ALM_QSEL) :
    ∃ t, exec (.almanacClassify u v) s = .next t ∧ { t with regs := s.regs, mg := s.mg } = s ∧ t.mg = { s.mg with readAt := some s.now } ∧
      t.rf R.ALM_QSEL_READY = 1 ∧ t.reg A.ALM_QRES = s.classWord (wbits v 0 15) (wbits v 15 5) := by
  have hex : exec (.almanacClassify u v) s = .next (s.classShown v (s.classWord (wbits v 0 15) (wbits v 15 5))).startRead := by
    show execAlmanacClassify u v s = _
    unfold execAlmanacClassify
    rw [gateWrite_rw hm, selectClass_eq]
  obtain ⟨h1, h2⟩ := classShown_shows hc.regs v (s.classWord (wbits v 0 15) (wbits v 15 5))
  have hf := classShown_frame s v (s.classWord (wbits v 0 15) (wbits v 15 5))
  generalize s.classShown v (s.classWord (wbits v 0 15) (wbits v 15 5)) = y at hex h1 h2 hf
  exact ⟨_, hex, startRead_frame hf, startRead_mg hf, (rf_of_regs (startRead_regs y) _).trans h1, (reg_of_regs (startRead_regs y) _).trans h2⟩

/-! ### Starting and stopping a harrow run (R412, R416, R430) -/

/-- The registers of a harrow run lie apart. -/
theorem hrw_ne {j k : Nat} (h : j ≠ k) (f : Nat) : Page.almanacBase + j + 64 * f ≠ Page.almanacBase + k + 64 * f := by omega

theorem harrowFields_frame (s : State) (f : Nat) (v : Word32) : { s.harrowFields f v with regs := s.regs } = s := by
  unfold State.harrowFields
  split
  · rfl
  · exact setReg_frame s _ _

theorem Spares.harrowFields {l : Loc} {s0 s : State} (hk : Spares l s0 s) {f : Nat} (h : l.addr ≠ A.ALM_HRW_CTRL f) (v : Word32) :
    Spares l s0 (s.harrowFields f v) := Spares.ite hk (hk.setReg h _)

theorem sorted_harrowFields {s : State} (h : Store.Sorted s.regs) (f : Nat) (v : Word32) : Store.Sorted (s.harrowFields f v).regs := by
  unfold State.harrowFields
  split
  · exact h
  · exact sorted_setReg h _ _

theorem harrowFields_reg (s : State) (f : Nat) (v : Word32) {a : Nat} (h : a ≠ A.ALM_HRW_CTRL f) : (s.harrowFields f v).reg a = s.reg a := by
  unfold State.harrowFields
  split
  · rfl
  · exact reg_setReg_ne s _ h

/-- R412: the counts of a run begin at 0, under the next number. -/
def State.harrowBegun (s : State) (f : Nat) : State :=
  let s := s.setReg (A.ALM_HRW_RUN f) (s.reg (A.ALM_HRW_RUN f) + 1)
  let s := ((s.setReg (A.ALM_HRW_DONE f) 0).setReg (A.ALM_HRW_MIS f) 0).setReg (A.ALM_HRW_FIRST f) 0
  s.setReg (A.ALM_HRW_FIRSTP f) 0

theorem harrowBegun_frame (s : State) (f : Nat) : { s.harrowBegun f with regs := s.regs } = s :=
  regsFrame_setReg (regsFrame_setReg (regsFrame_setReg (regsFrame_setReg (setReg_frame s _ _) _ _) _ _) _ _) _ _

/-- Registers of the almanac page other than a run's counts. -/
theorem Spares.harrowBegun {l : Loc} {s0 s : State} (hk : Spares l s0 s) {f : Nat} (h : l.addr ≠ A.ALM_HRW_RUN f)
    (h1 : l.addr ≠ A.ALM_HRW_DONE f) (h2 : l.addr ≠ A.ALM_HRW_MIS f) (h3 : l.addr ≠ A.ALM_HRW_FIRST f) (h4 : l.addr ≠ A.ALM_HRW_FIRSTP f) :
    Spares l s0 (s.harrowBegun f) := ((((hk.setReg h _).setReg h1 _).setReg h2 _).setReg h3 _).setReg h4 _

theorem harrowBegun_reg {s : State} (h : Store.Sorted s.regs) (f : Nat) : (s.harrowBegun f).reg (A.ALM_HRW_RUN f) = s.reg (A.ALM_HRW_RUN f) + 1 ∧
    (s.harrowBegun f).reg (A.ALM_HRW_DONE f) = 0 ∧ (s.harrowBegun f).reg (A.ALM_HRW_MIS f) = 0 ∧
    (s.harrowBegun f).reg (A.ALM_HRW_FIRST f) = 0 ∧ (s.harrowBegun f).reg (A.ALM_HRW_FIRSTP f) = 0 := by
  have h1 := sorted_setReg h (A.ALM_HRW_RUN f) (s.reg (A.ALM_HRW_RUN f) + 1)
  have h2 := sorted_setReg h1 (A.ALM_HRW_DONE f) 0
  have h3 := sorted_setReg h2 (A.ALM_HRW_MIS f) 0
  have h4 := sorted_setReg h3 (A.ALM_HRW_FIRST f) 0
  unfold State.harrowBegun
  dsimp only
  refine ⟨?_, ?_, ?_, ?_, reg_setReg_self h4 _ _⟩
  · exact (reg_setReg_ne _ _ (hrw_ne (j := 0x41c) (k := 0x42c) (by decide) f)).trans (
      (reg_setReg_ne _ _ (hrw_ne (j := 0x41c) (k := 0x428) (by decide) f)).trans (
      (reg_setReg_ne _ _ (hrw_ne (j := 0x41c) (k := 0x424) (by decide) f)).trans (
      (reg_setReg_ne _ _ (hrw_ne (j := 0x41c) (k := 0x420) (by decide) f)).trans (reg_setReg_self h _ _))))
  · exact (reg_setReg_ne _ _ (hrw_ne (j := 0x420) (k := 0x42c) (by decide) f)).trans (
      (reg_setReg_ne _ _ (hrw_ne (j := 0x420) (k := 0x428) (by decide) f)).trans (
      (reg_setReg_ne _ _ (hrw_ne (j := 0x420) (k := 0x424) (by decide) f)).trans (reg_setReg_self h1 _ _)))
  · exact (reg_setReg_ne _ _ (hrw_ne (j := 0x424) (k := 0x42c) (by decide) f)).trans (
      (reg_setReg_ne _ _ (hrw_ne (j := 0x424) (k := 0x428) (by decide) f)).trans (reg_setReg_self h2 _ _))
  · exact (reg_setReg_ne _ _ (hrw_ne (j := 0x428) (k := 0x42c) (by decide) f)).trans (reg_setReg_self h3 _ _)

theorem harrowBegun_sorted {s : State} (h : Store.Sorted s.regs) (f : Nat) : Store.Sorted (s.harrowBegun f).regs :=
  sorted_setReg (sorted_setReg (sorted_setReg (sorted_setReg (sorted_setReg h _ _) _ _) _ _) _ _) _ _

theorem harrowGo_eq (s : State) (f : Nat) (st : Nat)
    (hst : st = if s.rf (R.ALM_HRW_COND_TLO f) = 0 ∧ s.rf (R.ALM_HRW_COND_THI f) = 0 then 2 else 1) (hs : Store.Sorted s.regs) :
    s.harrowGo f = if s.harrowOk f then (s.harrowBegun f).wf (R.ALM_HRW_STAT_STATE f) st else s.wf (R.ALM_HRW_STAT_STATE f) 5 := by
  have hcond : ∀ l : Loc, l.addr = A.ALM_HRW_COND f →
      ((((s.setReg (A.ALM_HRW_RUN f) (s.reg (A.ALM_HRW_RUN f) + 1)).setReg (A.ALM_HRW_DONE f) 0).setReg (A.ALM_HRW_MIS f) 0).setReg
        (A.ALM_HRW_FIRST f) 0).rf l = s.rf l := fun l hl => by
    have hne : ∀ {k : Nat}, 0x404 ≠ k → l.addr ≠ Page.almanacBase + k + 64 * f := fun hk => ne_of_eq_of_ne hl (hrw_ne hk f)
    exact (((((Spares.refl l s).setReg (hne (k := 0x41c) (by decide)) _).setReg (hne (k := 0x420) (by decide)) _).setReg
      (hne (k := 0x424) (by decide)) _).setReg (hne (k := 0x428) (by decide)) _).rf hs
  unfold State.harrowGo
  dsimp only
  rw [hcond _ rfl, hcond _ rfl, ← hst]
  rfl

theorem harrowGo_frame (s : State) (f : Nat) : { s.harrowGo f with regs := s.regs } = s := by
  unfold State.harrowGo
  split
  · exact regsFrame_wf (regsFrame_setReg (regsFrame_setReg (regsFrame_setReg (regsFrame_setReg (setReg_frame s _ _) _ _) _ _) _ _) _ _) _ _
  · exact wf_frame s _ _

/-- HARROW_GO (R412, R415, R430), from the state whose fields are written. -/
theorem harrowGo_shows {s : State} (hs : Store.Sorted s.regs) (f : Nat) : (s.harrowGo f).rf (R.ALM_HRW_CTRL_FURA f) = s.rf (R.ALM_HRW_CTRL_FURA f) ∧
    (s.harrowOk f = true → (s.harrowGo f).rf (R.ALM_HRW_STAT_STATE f) =
        (if s.rf (R.ALM_HRW_COND_TLO f) = 0 ∧ s.rf (R.ALM_HRW_COND_THI f) = 0 then 2 else 1) ∧
      (s.harrowGo f).reg (A.ALM_HRW_RUN f) = s.reg (A.ALM_HRW_RUN f) + 1 ∧ (s.harrowGo f).reg (A.ALM_HRW_DONE f) = 0 ∧
      (s.harrowGo f).reg (A.ALM_HRW_MIS f) = 0 ∧ (s.harrowGo f).reg (A.ALM_HRW_FIRST f) = 0 ∧ (s.harrowGo f).reg (A.ALM_HRW_FIRSTP f) = 0) ∧
    (s.harrowOk f = false → (s.harrowGo f).rf (R.ALM_HRW_STAT_STATE f) = 5 ∧ (s.harrowGo f).reg (A.ALM_HRW_RUN f) = s.reg (A.ALM_HRW_RUN f)) := by
  have heq := harrowGo_eq s f _ rfl hs
  have hst : ∀ {c : Prop} [Decidable c], (if c then 2 else 1) < 2 ^ 3 := fun {c} _ => by
    split <;> decide
  have hbs := harrowBegun_sorted hs f
  cases hok : s.harrowOk f with
  | true =>
    rw [hok, if_pos rfl] at heq
    obtain ⟨h1, h2, h3, h4, h5⟩ := harrowBegun_reg hs f
    rw [heq]
    refine ⟨?_, fun _ => ⟨wf_last (l := R.ALM_HRW_STAT_STATE f) hbs (Nat.le_of_ble_eq_true rfl) hst, ?_, ?_, ?_, ?_, ?_⟩, fun h => (nomatch h)⟩
    · exact (((Spares.refl (R.ALM_HRW_CTRL_FURA f) s).harrowBegun (hrw_ne (j := 0x400) (k := 0x41c) (by decide) f)
        (hrw_ne (j := 0x400) (k := 0x420) (by decide) f) (hrw_ne (j := 0x400) (k := 0x424) (by decide) f)
        (hrw_ne (j := 0x400) (k := 0x428) (by decide) f) (hrw_ne (j := 0x400) (k := 0x42c) (by decide) f)).wf_far
        (m := R.ALM_HRW_STAT_STATE f) (hrw_ne (j := 0x400) (k := 0x418) (by decide) f) _).rf hs
    · exact (reg_wf_ne _ _ (hrw_ne (j := 0x41c) (k := 0x418) (by decide) f)).trans h1
    · exact (reg_wf_ne _ _ (hrw_ne (j := 0x420) (k := 0x418) (by decide) f)).trans h2
    · exact (reg_wf_ne _ _ (hrw_ne (j := 0x424) (k := 0x418) (by decide) f)).trans h3
    · exact (reg_wf_ne _ _ (hrw_ne (j := 0x428) (k := 0x418) (by decide) f)).trans h4
    · exact (reg_wf_ne _ _ (hrw_ne (j := 0x42c) (k := 0x418) (by decide) f)).trans h5
  | false =>
    rw [hok, if_neg Bool.false_ne_true] at heq
    rw [heq]
    refine ⟨?_, fun h => (nomatch h), fun _ => ⟨wf_last (l := R.ALM_HRW_STAT_STATE f) hs (Nat.le_of_ble_eq_true rfl) (by
      show 5 < 2 ^ 3
      decide), reg_wf_ne _ _ (hrw_ne (j := 0x41c) (k := 0x418) (by decide) f)⟩⟩
    exact ((Spares.refl (R.ALM_HRW_CTRL_FURA f) s).wf_far (m := R.ALM_HRW_STAT_STATE f) (hrw_ne (j := 0x400) (k := 0x418) (by decide) f) _).rf hs

theorem execHarrowGo_shows {s : State} (hc : s.Canon) {u : Fin 64} {f : Fin 4} {v : Word32} (m : Meas) (hm : s.MayWrite u (A.ALM_HRW_CTRL f))
    (h0 : v.getLsbD 0 = true) (h1 : v.getLsbD 1 = false) : ∃ t, exec (.harrowGo u f v m) s = .next t ∧ { t with regs := s.regs } = s ∧
      (s.harrowing f = false → t.rf (R.ALM_HRW_CTRL_FURA f) = (s.harrowFields f v).rf (R.ALM_HRW_CTRL_FURA f)) ∧
      ((s.harrowFields f v).harrowOk f = true → t.rf (R.ALM_HRW_STAT_STATE f) =
          (if s.rf (R.ALM_HRW_COND_TLO f) = 0 ∧ s.rf (R.ALM_HRW_COND_THI f) = 0 then 2 else 1) ∧
        t.reg (A.ALM_HRW_RUN f) = s.reg (A.ALM_HRW_RUN f) + 1 ∧ t.reg (A.ALM_HRW_DONE f) = 0 ∧ t.reg (A.ALM_HRW_MIS f) = 0 ∧
        t.reg (A.ALM_HRW_FIRST f) = 0 ∧ t.reg (A.ALM_HRW_FIRSTP f) = 0) ∧
      ((s.harrowFields f v).harrowOk f = false → t.rf (R.ALM_HRW_STAT_STATE f) = 5 ∧ t.reg (A.ALM_HRW_RUN f) = s.reg (A.ALM_HRW_RUN f)) := by
  have hex : exec (.harrowGo u f v m) s = .next ((s.harrowFields f v).harrowGo f) := by
    show execHarrowGo u f v m s = _
    unfold execHarrowGo State.harrowCtrl
    rw [gateWrite_rw hm]
    dsimp only
    rw [h0, h1, if_neg Bool.false_ne_true, if_pos rfl]
  have hf := harrowFields_frame s f v
  have hs := sorted_harrowFields hc.regs f v
  have hrun := harrowFields_reg s f v (hrw_ne (j := 0x41c) (k := 0x400) (by decide) f)
  have hcond : ∀ l : Loc, l.addr = A.ALM_HRW_COND f → (s.harrowFields f v).rf l = s.rf l := fun l hl =>
    rf_congr (harrowFields_reg s f v (ne_of_eq_of_ne hl (hrw_ne (j := 0x404) (k := 0x400) (by decide) f)))
  have hlo := hcond (R.ALM_HRW_COND_TLO f) rfl
  have hhi := hcond (R.ALM_HRW_COND_THI f) rfl
  generalize s.harrowFields f v = y at hex hf hs hrun hlo hhi ⊢
  obtain ⟨g1, g2, g3⟩ := harrowGo_shows hs f
  rw [hlo, hhi, show y.reg (A.ALM_HRW_RUN f) = s.reg (A.ALM_HRW_RUN f) from hrun] at g2
  rw [show y.reg (A.ALM_HRW_RUN f) = s.reg (A.ALM_HRW_RUN f) from hrun] at g3
  exact ⟨_, hex, (congrArg (fun x : State => { x with regs := s.regs }) (harrowGo_frame y f)).trans hf, fun _ => g1, g2, g3⟩

/-- Registers that the almanac's staging leaves. -/
theorem Spares.almanacNear {l : Loc} {s0 s : State} (hk : Spares l s0 s) (h1 : l.addr ≠ A.ALM_LOST) (h2 : l.NoErr Page.almanacBase)
    (event page bit : Nat) (who : Option Nat) (detail : List Byte) (m : Meas) : Spares l s0 (s.almanac event page bit who detail m) := by
  have hlose := hk.almLose h1
  unfold State.almanac
  dsimp only
  split
  · exact hlose.then_regs rfl
  · split
    · exact hk.then_regs rfl
    · split
      · exact (hlose.raiseSrc h2 1).then_regs rfl
      · exact hk.then_regs rfl

/-- R418: the summary of a run is staged where there is room. -/
theorem staged_summary {s : State} {event : Nat} (he : event ≠ 0) (hen : s.flag R.ALM_CTRL_EN = true) (hroom : s.staged.length < 256)
    (page bit : Nat) (who : Option Nat) (detail : List Byte) (m : Meas) :
    (s.almanac event page bit who detail m).staged.length = s.staged.length + 1 := by
  unfold State.almanac
  dsimp only
  rw [hen, Bool.not_true, if_neg Bool.false_ne_true, if_neg fun h => he h.1, if_neg (Nat.not_le.mpr hroom)]
  exact List.length_append

/-- R416: the bytes of a run's summary. -/
def State.harrowSummary (s : State) (f : Nat) : List Byte :=
  leBytes 4 (s.reg (A.ALM_HRW_RUN f)).toNat ++ leBytes 4 (s.reg (A.ALM_HRW_DONE f)).toNat ++
    leBytes 4 (s.reg (A.ALM_HRW_MIS f)).toNat ++ leBytes 1 (s.rf (R.ALM_HRW_CTRL_FURA f)) ++
    leBytes 1 (s.rf (R.ALM_HRW_CTRL_FURB f)) ++ leBytes 1 (s.rf (R.ALM_HRW_CTRL_FURR f))

theorem endHarrow_eq (s : State) (f st : Nat) (m : Meas) : s.endHarrow f st m =
    (s.wf (R.ALM_HRW_STAT_STATE f) st).almanac 2 (Page.fieldBase f) 0 none ((s.wf (R.ALM_HRW_STAT_STATE f) st).harrowSummary f) m := rfl

/-- The run's registers lie apart from the error words and the loss count of the almanac page. -/
theorem hrw_apart {l : Loc} {j f : Nat} (hj : 0x400 ≤ j) (h : l.addr = Page.almanacBase + j + 64 * f) :
    l.addr ≠ A.ALM_LOST ∧ l.NoErr Page.almanacBase := by
  refine ⟨?_, Loc.noErr_of_page (Or.inr ?_)⟩
  · rw [h]
    unfold A.ALM_LOST
    omega
  · omega

theorem Spares.endHarrow {l : Loc} {s0 s : State} (hk : Spares l s0 s) {f : Nat} (h : l.Clear (R.ALM_HRW_STAT_STATE f)) (h1 : l.addr ≠ A.ALM_LOST)
    (h2 : l.NoErr Page.almanacBase) (st : Nat) (m : Meas) : Spares l s0 (s.endHarrow f st m) := by
  rw [endHarrow_eq]
  exact (hk.wf (Nat.le_of_ble_eq_true rfl) h st).almanacNear h1 h2 _ _ _ _ _ _

theorem endHarrow_state {s : State} (hs : Store.Sorted s.regs) (f : Nat) {st : Nat} (hst : st < 8) (m : Meas) :
    (s.endHarrow f st m).rf (R.ALM_HRW_STAT_STATE f) = st := by
  have hap := hrw_apart (l := R.ALM_HRW_STAT_STATE f) (j := 0x418) (by decide) rfl
  rw [endHarrow_eq]
  exact (((Spares.refl (R.ALM_HRW_STAT_STATE f) _).almanacNear hap.1 hap.2 _ _ _ _ _ _).rf (sorted_wf hs _ _)).trans
    (wf_last (l := R.ALM_HRW_STAT_STATE f) hs (Nat.le_of_ble_eq_true rfl) hst)

theorem flag_wf_ne {s : State} (hs : Store.Sorted s.regs) {l m : Loc} (h : l.addr ≠ m.addr) (v : Nat) : (s.wf m v).flag l = s.flag l :=
  congrArg (· != 0) (((Spares.refl l s).wf_far h v).rf hs)

theorem endHarrow_staged {s : State} (hs : Store.Sorted s.regs) (f st : Nat) (m : Meas) (hen : s.flag R.ALM_CTRL_EN = true)
    (hroom : s.staged.length < 256) : (s.endHarrow f st m).staged.length = s.staged.length + 1 := by
  rw [endHarrow_eq]
  exact staged_summary (s := s.wf (R.ALM_HRW_STAT_STATE f) st) (by decide) ((flag_wf_ne hs (by
    show A.ALM_CTRL ≠ A.ALM_HRW_STAT f
    unfold A.ALM_CTRL A.ALM_HRW_STAT
    omega) _).trans hen) hroom _ _ _ _ _

theorem execHarrowStop_runs {s : State} {u : Fin 64} {f : Fin 4} {v : Word32} (m : Meas) (hm : s.MayWrite u (A.ALM_HRW_CTRL f))
    (h0 : v.getLsbD 0 = false) (h1 : v.getLsbD 1 = true) :
    exec (.harrowStop u f v m) s = .next ((s.stopHarrow f m).harrowFields f v) := by
  show execHarrowStop u f v m s = _
  unfold execHarrowStop State.harrowCtrl
  rw [gateWrite_rw hm]
  dsimp only
  rw [h0, h1, if_neg Bool.false_ne_true, if_pos rfl]
  rfl

/-- HARROW_STOP (R416). -/
theorem harrowStop_shows {s : State} (hc : s.Canon) {u : Fin 64} {f : Fin 4} {v : Word32} (m : Meas) (hm : s.MayWrite u (A.ALM_HRW_CTRL f))
    (h0 : v.getLsbD 0 = false) (h1 : v.getLsbD 1 = true) : ∃ t, exec (.harrowStop u f v m) s = .next t ∧
      s.SameBut t [.regs, .pairs, .staged, .heldBack] ∧ (s.harrowing f = true → t.rf (R.ALM_HRW_STAT_STATE f) = 4 ∧
        (s.flag R.ALM_CTRL_EN = true → s.staged.length < 256 → t.staged.length = s.staged.length + 1)) ∧
      (s.harrowing f = false → t.staged = s.staged ∧ t.pairs = s.pairs) := by
  have hex := execHarrowStop_runs m hm h0 h1
  have hf := harrowFields_frame (s.stopHarrow f m) f v
  have hstg : ((s.stopHarrow f m).harrowFields f v).staged = (s.stopHarrow f m).staged := (congrArg State.staged hf :)
  have hprs : ((s.stopHarrow f m).harrowFields f v).pairs = (s.stopHarrow f m).pairs := (congrArg State.pairs hf :)
  have hsame : Same (partsMask [.regs, .pairs, .staged, .heldBack]) s (s.stopHarrow f m) := State.stopHarrow_same (.refl _ s) rfl _ _
  refine ⟨_, hex, (hsame.trans ((Same.of_regs hf).mono (N := partsMask [.regs, .pairs, .staged, .heldBack]) rfl)).parts, fun h => ?_, fun h => ?_⟩
  · have hstop : s.stopHarrow f m = s.endHarrow f 4 m := if_pos h
    rw [hstop] at hstg ⊢
    have hse : Store.Sorted (s.endHarrow f 4 m).regs := ((State.endHarrow_keeps (.refl s) f 4 m).canon hc).regs
    refine ⟨?_, fun hen hroom => (congrArg List.length hstg).trans (endHarrow_staged hc.regs f 4 m hen hroom)⟩
    exact (((Spares.refl (R.ALM_HRW_STAT_STATE f) _).harrowFields (hrw_ne (j := 0x418) (k := 0x400) (by decide) f) v).rf hse).trans
      (endHarrow_state hc.regs f (by decide) m)
  · have hstop : s.stopHarrow f m = s := if_neg fun hx => by
      rw [h] at hx
      cases hx
    rw [hstop] at hstg hprs ⊢
    exact ⟨hstg, hprs⟩

/-- HARROW_TIMEOUT (R415). -/
theorem harrowTimeout_shows {s : State} (hc : s.Canon) {f : Fin 4} (m : Meas) (h : s.harrowing f = true) (hd : s.rf (R.ALM_HRW_DONE_TILES f) = 0) :
    ∃ t, exec (.harrowTimeout f m) s = .next t ∧ s.SameBut t [.regs, .pairs, .staged, .heldBack] ∧ t.rf (R.ALM_HRW_STAT_STATE f) = 6 := by
  have hex : exec (.harrowTimeout f m) s = .next (s.endHarrow f 6 m) := if_pos (by
    rw [h, hd]
    rfl)
  exact ⟨_, hex, sameBut_of_next hex, endHarrow_state hc.regs f (by decide) m⟩

/-! ### The tiles of a run (R413 to R415) -/

/-- A register of the harrow of field `f`. -/
def Loc.OfHarrow (l : Loc) (f : Nat) : Prop := ∃ j, 0x400 ≤ j ∧ j < 0x440 ∧ l.addr = Page.almanacBase + j + 64 * f

theorem Loc.OfHarrow.low {l : Loc} {f : Nat} (h : l.OfHarrow f) (hf : f < 4) : l.addr < 0x1000000 := by
  obtain ⟨j, -, hj, ha⟩ := h
  rw [ha]
  unfold Page.almanacBase
  omega

theorem Loc.OfHarrow.apart {l : Loc} {f : Nat} (h : l.OfHarrow f) : l.addr ≠ A.ALM_LOST ∧ l.NoErr Page.almanacBase := by
  obtain ⟨j, hj, -, ha⟩ := h
  exact hrw_apart hj ha

theorem furrow_ne_low {l : Loc} (h : l.addr < 0x1000000) (f n k : Nat) : l.addr ≠ Page.furrowBase f n + k := by
  unfold Page.furrowBase Page.fieldBase
  omega

theorem furrow_noErr {l : Loc} (h : l.addr < 0x1000000) (f n : Nat) : l.NoErr (Page.furrowBase f n) := Loc.noErr_of_page (Or.inl (by
  unfold Page.furrowBase Page.fieldBase
  omega))

theorem Spares.firstCheck {l : Loc} {s0 s : State} (hk : Spares l s0 s) {f n : Nat} (h1 : l.addr ≠ A.FUR_CHK_FIRST f n)
    (h2 : l.addr ≠ A.FUR_CHK_STEP f n) (o : DrnOp) (b : Nat) : Spares l s0 (s.firstCheck f n o b) :=
  hk.trans ⟨fun hs => sorted_firstCheck hs _ _ _ _, fun _ => rf_congr (firstCheck_reg s f n o b h1 h2)⟩

theorem Spares.harrowCheck {l : Loc} {s0 s : State} (hk : Spares l s0 s) (h : l.addr < 0x1000000) (f n : Nat) (o : DrnOp) (b : Nat) :
    Spares l s0 (s.harrowCheck f n o b) :=
  (((hk.bump (m := R.FUR_CHK_FAILS_COUNT f n) (furrow_ne_low h f n 0x114) 1).firstCheck (furrow_ne_low h f n 0x118) (furrow_ne_low h f n 0x11c) o
    b).raiseSrc (furrow_noErr h f n) 0)

/-- A tile's drain leaves the registers below the fields' pages. -/
theorem Spares.harrowDrain {l : Loc} {s0 s : State} (hk : Spares l s0 s) (h : l.addr < 0x1000000) (f n t i : Nat) :
    Spares l s0 (s.harrowDrain f n t i).2 := Spares.foldl (fun _ b hu => hu.harrowCheck h f n _ b) _ (hk.then_regs rfl)

/-- R414: a furrow that errs leaves slots of which nothing is known (log 3). -/
def State.undefSlots (s : State) (f n : Nat) (o : MmaOp) : State :=
  let (i, s) := s.fresh
  let fs := s.fur f n
  s.setFur f n (o.slots.foldl (fun x k => x.setSlot k { x.slot k with undef := some i, lev := [], lane := [] }) fs)

theorem undefSlots_regs (s : State) (f n : Nat) (o : MmaOp) : (s.undefSlots f n o).regs = s.regs := rfl

/-- R414: the furrow's passes are run. -/
def State.passesRun (s : State) (f n : Nat) (x : FurrowSt) (fmt : Nat) (thin : Bool) : State := (s.setFur f n x).noteMma f fmt thin

theorem passesRun_regs (s : State) (f n : Nat) (x : FurrowSt) (fmt : Nat) (thin : Bool) : (s.passesRun f n x fmt thin).regs = s.regs := rfl

/-- R414: the product of tile `t`. -/
def State.tileMma (s : State) (f t : Nat) : MmaOp :=
  let fmtA := s.rf (R.ALM_HRW_CTRL_FMTA f)
  let fmtB := s.rf (R.ALM_HRW_CTRL_FMTB f)
  let kb := s.rf (R.ALM_HRW_COND_KB f)
  harrowMma (s.flag (R.ALM_HRW_CTRL_THIN f)) t kb fmtA fmtB

/-- R413, R414: what the passes of tile `t` leave of furrow `n`. -/
def State.tilePasses (s : State) (f n t : Nat) : FurrowSt :=
  let fmtA := s.rf (R.ALM_HRW_CTRL_FMTA f)
  let fmtB := s.rf (R.ALM_HRW_CTRL_FMTB f)
  let kb := s.rf (R.ALM_HRW_COND_KB f)
  let word := hword (s.reg (A.ALM_HRW_RUN f)) (BitVec.ofNat 32 t) (s.reg (A.ALM_HRW_SEED_LO f)) (s.reg (A.ALM_HRW_SEED_HI f))
  let o := harrowMma (s.flag (R.ALM_HRW_CTRL_THIN f)) t kb fmtA fmtB
  let fa := (Fmt.ofCode fmtA).getD .bf16
  let fb := (Fmt.ofCode fmtB).getD .bf16
  harrowPasses o (hblock fa word 0 kb) (hblock fb word 2 kb) (s.fur f n)

theorem harrowRun_eq (s : State) (f n t : Nat) (bad : Bool) : ∃ (o : MmaOp) (x : FurrowSt) (fmt : Nat), (s.harrowRun f n t bad).2 =
    if bad then ((s.passesRun f n x fmt o.thin).harrowDrain f n t o.slot).2.undefSlots f n o
    else ((s.passesRun f n x fmt o.thin).harrowDrain f n t o.slot).2 := by
  refine ⟨s.tileMma f t, s.tilePasses f n t, s.rf (R.ALM_HRW_CTRL_FMTA f), ?_⟩
  cases bad <;> rfl

theorem Spares.harrowRun {l : Loc} {s0 s : State} (hk : Spares l s0 s) (h : l.addr < 0x1000000) (f n t : Nat) (bad : Bool) :
    Spares l s0 (s.harrowRun f n t bad).2 := by
  obtain ⟨o, x, fmt, he⟩ := harrowRun_eq s f n t bad
  have hd := (hk.then_regs (passesRun_regs s f n x fmt o.thin)).harrowDrain h f n t o.slot
  rw [he]
  exact Spares.ite (hd.then_regs (undefSlots_regs _ _ _ _)) hd

theorem harrowRun_staged (s : State) (f n t : Nat) (bad : Bool) : (s.harrowRun f n t bad).2.staged = s.staged :=
  (State.harrowRun_same (.refl 70377338306570 s) rfl f n t bad).staged.resolve_left (by decide)

/-- R414: the first tile that differs is kept. -/
def State.firstKept (s : State) (f t a b attr : Nat) : State :=
  let s := (s.wf (R.ALM_HRW_FIRST_TILE f) t).wf (R.ALM_HRW_FIRSTP_A f) a
  ((s.wf (R.ALM_HRW_FIRSTP_B f) b).wf (R.ALM_HRW_FIRSTP_ATTR f) attr).wf (R.ALM_HRW_FIRSTP_VALID f) 1

/-- R414: a tile that differs is counted, and kept while none is. -/
def State.tileMissed (s : State) (f t a b attr : Nat) : State :=
  let s := s.wf (R.ALM_HRW_MIS_TILES f) (s.rf (R.ALM_HRW_MIS_TILES f) + 1)
  if s.flag (R.ALM_HRW_FIRSTP_VALID f) then s else s.firstKept f t a b attr

/-- R410, R414: a mismatch is reported at the furrows of a list. -/
def State.missReported (s : State) (f t attr : Nat) (m : Meas) (l : List Nat) : State :=
  l.foldl (fun s n => s.harrowMismatch f n t attr m) s

/-- R414: tile `t` is compared; `attr` is the furrow that a difference is attributed to. -/
def State.tileCompared (s : State) (f t a b attr : Nat) (m : Meas) (differs : Bool) : State :=
  if !differs then s.wf (R.ALM_HRW_DONE_TILES f) (t + 1)
  else ((s.wf (R.ALM_HRW_DONE_TILES f) (t + 1)).tileMissed f t a b attr).missReported f t attr m (if attr = 31 then [a, b] else [attr])

theorem compareTile_eq (s : State) (f t : Nat) (m : Meas) (differs eqA eqB : Bool) : s.compareTile f t m differs eqA eqB =
    if t + 1 = (s.tileCompared f t (s.rf (R.ALM_HRW_CTRL_FURA f)) (s.rf (R.ALM_HRW_CTRL_FURB f))
        ((s.wf (R.ALM_HRW_DONE_TILES f) (t + 1)).harrowAttr f eqA eqB) m differs).rf (R.ALM_HRW_TILES_TILES f)
    then (s.tileCompared f t (s.rf (R.ALM_HRW_CTRL_FURA f)) (s.rf (R.ALM_HRW_CTRL_FURB f))
        ((s.wf (R.ALM_HRW_DONE_TILES f) (t + 1)).harrowAttr f eqA eqB) m differs).endHarrow f 3 m
    else s.tileCompared f t (s.rf (R.ALM_HRW_CTRL_FURA f)) (s.rf (R.ALM_HRW_CTRL_FURB f))
        ((s.wf (R.ALM_HRW_DONE_TILES f) (t + 1)).harrowAttr f eqA eqB) m differs := by
  unfold State.compareTile State.tileCompared
  cases differs <;> rfl

theorem Spares.firstKept {l : Loc} {s0 s : State} (hk : Spares l s0 s) {f : Nat} (h1 : l.addr ≠ A.ALM_HRW_FIRST f) (h2 : l.addr ≠ A.ALM_HRW_FIRSTP f)
    (t a b attr : Nat) : Spares l s0 (s.firstKept f t a b attr) :=
  ((((hk.wf_far (m := R.ALM_HRW_FIRST_TILE f) h1 _).wf_far (m := R.ALM_HRW_FIRSTP_A f) h2 _).wf_far (m := R.ALM_HRW_FIRSTP_B f) h2 _).wf_far
    (m := R.ALM_HRW_FIRSTP_ATTR f) h2 _).wf_far (m := R.ALM_HRW_FIRSTP_VALID f) h2 _

theorem Spares.tileMissed {l : Loc} {s0 s : State} (hk : Spares l s0 s) {f : Nat} (h : l.addr ≠ A.ALM_HRW_MIS f) (h1 : l.addr ≠ A.ALM_HRW_FIRST f)
    (h2 : l.addr ≠ A.ALM_HRW_FIRSTP f) (t a b attr : Nat) : Spares l s0 (s.tileMissed f t a b attr) :=
  Spares.ite (hk.wf_far (m := R.ALM_HRW_MIS_TILES f) h _) ((hk.wf_far (m := R.ALM_HRW_MIS_TILES f) h _).firstKept h1 h2 _ _ _ _)

theorem Spares.missReported {l : Loc} {s0 s : State} (hk : Spares l s0 s) {f : Nat} (h : l.OfHarrow f) (hf : f < 4) (t attr : Nat) (m : Meas)
    (xs : List Nat) : Spares l s0 (s.missReported f t attr m xs) :=
  Spares.foldl (fun _ n hu => (hu.raiseSrc (furrow_noErr (h.low hf) f n) 5).almanacNear h.apart.1 h.apart.2 _ _ _ _ _ _) xs hk

/-- A register of the harrow that a comparison leaves. -/
theorem Spares.tileCompared {l : Loc} {s0 s : State} (hk : Spares l s0 s) {f : Nat} (h : l.OfHarrow f) (hf : f < 4) (h0 : l.addr ≠ A.ALM_HRW_DONE f)
    (h1 : l.addr ≠ A.ALM_HRW_MIS f) (h2 : l.addr ≠ A.ALM_HRW_FIRST f) (h3 : l.addr ≠ A.ALM_HRW_FIRSTP f) (t a b attr : Nat) (m : Meas) (differs : Bool) :
    Spares l s0 (s.tileCompared f t a b attr m differs) := by
  have hd := hk.wf_far (m := R.ALM_HRW_DONE_TILES f) h0 (t + 1)
  exact Spares.ite hd ((hd.tileMissed h1 h2 h3 _ _ _ _).missReported h hf _ _ _ _)

/-- What is kept of the first tile that differs. -/
structure State.KeepsFirst (s : State) (f t a b attr : Nat) : Prop where
  tile : s.rf (R.ALM_HRW_FIRST_TILE f) = t
  a : s.rf (R.ALM_HRW_FIRSTP_A f) = a
  b : s.rf (R.ALM_HRW_FIRSTP_B f) = b
  attr : s.rf (R.ALM_HRW_FIRSTP_ATTR f) = attr
  valid : s.rf (R.ALM_HRW_FIRSTP_VALID f) = 1

theorem firstKept_keeps {s : State} (hs : Store.Sorted s.regs) (f : Nat) {t a b attr : Nat} (ht : t < 2 ^ 32) (ha : a < 32) (hb : b < 32)
    (hattr : attr < 32) : (s.firstKept f t a b attr).KeepsFirst f t a b attr := by
  have h1 := sorted_wf hs (R.ALM_HRW_FIRST_TILE f) t
  have h2 := sorted_wf h1 (R.ALM_HRW_FIRSTP_A f) a
  have h3 := sorted_wf h2 (R.ALM_HRW_FIRSTP_B f) b
  have h4 := sorted_wf h3 (R.ALM_HRW_FIRSTP_ATTR f) attr
  have hfar : (R.ALM_HRW_FIRST_TILE f).addr ≠ A.ALM_HRW_FIRSTP f := hrw_ne (j := 0x428) (k := 0x42c) (by decide) f
  have hone : 1 < 2 ^ 1 := by decide
  unfold State.firstKept
  dsimp only
  refine ⟨?_, ?_, ?_, ?_, wf_last (l := R.ALM_HRW_FIRSTP_VALID f) h4 (Nat.le_of_ble_eq_true rfl) hone⟩
  · exact (((((Spares.refl (R.ALM_HRW_FIRST_TILE f) _).wf_far (m := R.ALM_HRW_FIRSTP_A f) hfar _).wf_far (m := R.ALM_HRW_FIRSTP_B f) hfar _).wf_far
      (m := R.ALM_HRW_FIRSTP_ATTR f) hfar _).wf_far (m := R.ALM_HRW_FIRSTP_VALID f) hfar _).rf h1 |>.trans
      (wf_last (l := R.ALM_HRW_FIRST_TILE f) hs (Nat.le_of_ble_eq_true rfl) ht)
  · exact ((((Spares.refl (R.ALM_HRW_FIRSTP_A f) _).wf (m := R.ALM_HRW_FIRSTP_B f) (Nat.le_of_ble_eq_true rfl) (.inr (.inl (Nat.le_of_ble_eq_true rfl)))
      _).wf (m := R.ALM_HRW_FIRSTP_ATTR f) (Nat.le_of_ble_eq_true rfl) (.inr (.inl (Nat.le_of_ble_eq_true rfl))) _).wf
      (m := R.ALM_HRW_FIRSTP_VALID f) (Nat.le_of_ble_eq_true rfl) (.inr (.inl (Nat.le_of_ble_eq_true rfl))) _).rf h2 |>.trans
      (wf_last (l := R.ALM_HRW_FIRSTP_A f) h1 (Nat.le_of_ble_eq_true rfl) ha)
  · exact (((Spares.refl (R.ALM_HRW_FIRSTP_B f) _).wf (m := R.ALM_HRW_FIRSTP_ATTR f) (Nat.le_of_ble_eq_true rfl)
      (.inr (.inl (Nat.le_of_ble_eq_true rfl))) _).wf (m := R.ALM_HRW_FIRSTP_VALID f) (Nat.le_of_ble_eq_true rfl)
      (.inr (.inl (Nat.le_of_ble_eq_true rfl))) _).rf h3 |>.trans (wf_last (l := R.ALM_HRW_FIRSTP_B f) h2 (Nat.le_of_ble_eq_true rfl) hb)
  · exact ((Spares.refl (R.ALM_HRW_FIRSTP_ATTR f) _).wf (m := R.ALM_HRW_FIRSTP_VALID f) (Nat.le_of_ble_eq_true rfl)
      (.inr (.inl (Nat.le_of_ble_eq_true rfl))) _).rf h4 |>.trans (wf_last (l := R.ALM_HRW_FIRSTP_ATTR f) h3 (Nat.le_of_ble_eq_true rfl) hattr)

theorem State.KeepsFirst.mono {s t : State} {f n a b attr : Nat} (h : s.KeepsFirst f n a b attr)
    (hr : ∀ l : Loc, l.addr = A.ALM_HRW_FIRST f ∨ l.addr = A.ALM_HRW_FIRSTP f → t.rf l = s.rf l) : t.KeepsFirst f n a b attr := by
  obtain ⟨h1, h2, h3, h4, h5⟩ := h
  exact ⟨(hr _ (.inl rfl)).trans h1, (hr _ (.inr rfl)).trans h2, (hr _ (.inr rfl)).trans h3, (hr _ (.inr rfl)).trans h4, (hr _ (.inr rfl)).trans h5⟩

theorem harrowAttr_congr {s t : State} {f : Nat} (h : t.reg (A.ALM_HRW_CTRL f) = s.reg (A.ALM_HRW_CTRL f)) (x y : Bool) :
    t.harrowAttr f x y = s.harrowAttr f x y := by
  unfold State.harrowAttr
  rw [rf_congr (l := R.ALM_HRW_CTRL_FURR f) h, rf_congr (l := R.ALM_HRW_CTRL_FURA f) h, rf_congr (l := R.ALM_HRW_CTRL_FURB f) h]

/-- R414: with no referee a difference is attributed to both furrows. -/
theorem harrowAttr_alone {s : State} {f : Nat} (h : s.rf (R.ALM_HRW_CTRL_FURR f) = 31) (x y : Bool) : s.harrowAttr f x y = 31 := if_pos h

theorem harrowAttr_lt (s : State) (f : Nat) (x y : Bool) : s.harrowAttr f x y < 32 := by
  unfold State.harrowAttr
  split
  · decide
  · split
    · exact rf_lt s (R.ALM_HRW_CTRL_FURB f)
    · split
      · exact rf_lt s (R.ALM_HRW_CTRL_FURA f)
      · decide

/-- R414: what the comparison of a tile leaves. -/
theorem tileCompared_shows {s : State} (hs : Store.Sorted s.regs) {f : Nat} (hf : f < 4) {t a b attr : Nat} (ht : t < 2 ^ 32) (ha : a < 32)
    (hb : b < 32) (hattr : attr < 32) (m : Meas) (differs : Bool) :
    (s.tileCompared f t a b attr m differs).rf (R.ALM_HRW_DONE_TILES f) = (t + 1) % 2 ^ 32 ∧
    (differs = false → (s.tileCompared f t a b attr m differs).rf (R.ALM_HRW_MIS_TILES f) = s.rf (R.ALM_HRW_MIS_TILES f)) ∧
    (differs = true → (s.tileCompared f t a b attr m differs).rf (R.ALM_HRW_MIS_TILES f) = (s.rf (R.ALM_HRW_MIS_TILES f) + 1) % 2 ^ 32 ∧
      (s.flag (R.ALM_HRW_FIRSTP_VALID f) = false → (s.tileCompared f t a b attr m differs).KeepsFirst f t a b attr)) := by
  have hs1 := sorted_wf hs (R.ALM_HRW_DONE_TILES f) (t + 1)
  have hdone : (s.wf (R.ALM_HRW_DONE_TILES f) (t + 1)).rf (R.ALM_HRW_DONE_TILES f) = (t + 1) % 2 ^ 32 :=
    rf_wf_self (l := R.ALM_HRW_DONE_TILES f) hs (Nat.le_of_ble_eq_true rfl) _
  have hmis : (s.wf (R.ALM_HRW_DONE_TILES f) (t + 1)).rf (R.ALM_HRW_MIS_TILES f) = s.rf (R.ALM_HRW_MIS_TILES f) :=
    ((Spares.refl (R.ALM_HRW_MIS_TILES f) s).wf_far (m := R.ALM_HRW_DONE_TILES f) (hrw_ne (j := 0x424) (k := 0x420) (by decide) f) _).rf hs
  have hvalid := flag_wf_ne hs (l := R.ALM_HRW_FIRSTP_VALID f) (m := R.ALM_HRW_DONE_TILES f) (hrw_ne (j := 0x42c) (k := 0x420) (by decide) f) (t + 1)
  unfold State.tileCompared
  generalize s.wf (R.ALM_HRW_DONE_TILES f) (t + 1) = u at hs1 hdone hmis hvalid ⊢
  cases differs with
  | false => exact ⟨hdone, fun _ => hmis, fun h => (nomatch h)⟩
  | true =>
    rw [Bool.not_true, if_neg Bool.false_ne_true]
    have hrep : ∀ l : Loc, l.OfHarrow f → Spares l (u.tileMissed f t a b attr)
        ((u.tileMissed f t a b attr).missReported f t attr m (if attr = 31 then [a, b] else [attr])) := fun l hl =>
      (Spares.refl l _).missReported hl hf _ _ _ _
    have hs2 : Store.Sorted (u.tileMissed f t a b attr).regs :=
      ((Spares.refl (R.ALM_HRW_DONE_TILES f) u).tileMissed (hrw_ne (j := 0x420) (k := 0x424) (by decide) f)
        (hrw_ne (j := 0x420) (k := 0x428) (by decide) f) (hrw_ne (j := 0x420) (k := 0x42c) (by decide) f) t a b attr).sorted hs1
    have hs3 := sorted_wf hs1 (R.ALM_HRW_MIS_TILES f) (u.rf (R.ALM_HRW_MIS_TILES f) + 1)
    have hcount := rf_wf_self (l := R.ALM_HRW_MIS_TILES f) hs1 (Nat.le_of_ble_eq_true rfl) (u.rf (R.ALM_HRW_MIS_TILES f) + 1)
    have hvalid2 := flag_wf_ne hs1 (l := R.ALM_HRW_FIRSTP_VALID f) (m := R.ALM_HRW_MIS_TILES f) (hrw_ne (j := 0x42c) (k := 0x424) (by decide) f)
      (u.rf (R.ALM_HRW_MIS_TILES f) + 1)
    refine ⟨?_, fun h => (nomatch h), fun _ => ⟨?_, fun hv => ?_⟩⟩
    · exact ((hrep _ ⟨0x420, by decide, by decide, rfl⟩).rf hs2).trans (((Spares.refl (R.ALM_HRW_DONE_TILES f) u).tileMissed
        (hrw_ne (j := 0x420) (k := 0x424) (by decide) f) (hrw_ne (j := 0x420) (k := 0x428) (by decide) f)
        (hrw_ne (j := 0x420) (k := 0x42c) (by decide) f) t a b attr).rf hs1 |>.trans hdone)
    · refine ((hrep _ ⟨0x424, by decide, by decide, rfl⟩).rf hs2).trans (Eq.trans ?_ (hcount.trans (by rw [hmis]; rfl)))
      exact (Spares.ite (Spares.refl (R.ALM_HRW_MIS_TILES f) _) ((Spares.refl (R.ALM_HRW_MIS_TILES f) _).firstKept
        (hrw_ne (j := 0x424) (k := 0x428) (by decide) f) (hrw_ne (j := 0x424) (k := 0x42c) (by decide) f) _ _ _ _)).rf hs3
    · refine State.KeepsFirst.mono ?_ (fun l hl => (hrep l (hl.elim (fun h => ⟨0x428, by decide, by decide, h⟩)
        (fun h => ⟨0x42c, by decide, by decide, h⟩))).rf hs2)
      unfold State.tileMissed
      dsimp only
      rw [hvalid2, hvalid, hv, if_neg Bool.false_ne_true]
      exact firstKept_keeps hs3 f ht ha hb hattr

/-- A register of the harrow other than the counts is as before a comparison. -/
theorem compareTile_shows {s : State} (hs : Store.Sorted s.regs) {f : Nat} (hf : f < 4) {t : Nat} (ht : t < 2 ^ 32) (m : Meas)
    (differs x y : Bool) (hst : s.rf (R.ALM_HRW_STAT_STATE f) = 2) :
    (s.compareTile f t m differs x y).rf (R.ALM_HRW_DONE_TILES f) = (t + 1) % 2 ^ 32 ∧
    ((s.compareTile f t m differs x y).rf (R.ALM_HRW_STAT_STATE f) = if t + 1 = s.rf (R.ALM_HRW_TILES_TILES f) then 3 else 2) ∧
    (differs = false → (s.compareTile f t m differs x y).rf (R.ALM_HRW_MIS_TILES f) = s.rf (R.ALM_HRW_MIS_TILES f)) ∧
    (differs = true → (s.compareTile f t m differs x y).rf (R.ALM_HRW_MIS_TILES f) = (s.rf (R.ALM_HRW_MIS_TILES f) + 1) % 2 ^ 32 ∧
      (s.flag (R.ALM_HRW_FIRSTP_VALID f) = false → (s.compareTile f t m differs x y).KeepsFirst f t (s.rf (R.ALM_HRW_CTRL_FURA f))
        (s.rf (R.ALM_HRW_CTRL_FURB f)) (s.harrowAttr f x y))) := by
  have hattr : (s.wf (R.ALM_HRW_DONE_TILES f) (t + 1)).harrowAttr f x y = s.harrowAttr f x y :=
    harrowAttr_congr (reg_wf_ne (l := R.ALM_HRW_DONE_TILES f) _ _ (hrw_ne (j := 0x400) (k := 0x420) (by decide) f)) x y
  have hkeep : ∀ l : Loc, l.OfHarrow f → l.addr ≠ A.ALM_HRW_DONE f → l.addr ≠ A.ALM_HRW_MIS f → l.addr ≠ A.ALM_HRW_FIRST f →
      l.addr ≠ A.ALM_HRW_FIRSTP f → Spares l s (s.tileCompared f t (s.rf (R.ALM_HRW_CTRL_FURA f)) (s.rf (R.ALM_HRW_CTRL_FURB f))
        (s.harrowAttr f x y) m differs) := fun l hl h0 h1 h2 h3 => (Spares.refl l s).tileCompared hl hf h0 h1 h2 h3 _ _ _ _ _ _
  have hshow := tileCompared_shows hs hf ht (rf_lt s (R.ALM_HRW_CTRL_FURA f)) (rf_lt s (R.ALM_HRW_CTRL_FURB f)) (harrowAttr_lt s f x y) m differs
  rw [compareTile_eq, hattr]
  have hstate := hkeep (R.ALM_HRW_STAT_STATE f) ⟨0x418, by decide, by decide, rfl⟩ (hrw_ne (j := 0x418) (k := 0x420) (by decide) f)
    (hrw_ne (j := 0x418) (k := 0x424) (by decide) f) (hrw_ne (j := 0x418) (k := 0x428) (by decide) f) (hrw_ne (j := 0x418) (k := 0x42c) (by decide) f)
  have htiles := (hkeep (R.ALM_HRW_TILES_TILES f) ⟨0x408, by decide, by decide, rfl⟩ (hrw_ne (j := 0x408) (k := 0x420) (by decide) f)
    (hrw_ne (j := 0x408) (k := 0x424) (by decide) f) (hrw_ne (j := 0x408) (k := 0x428) (by decide) f)
    (hrw_ne (j := 0x408) (k := 0x42c) (by decide) f)).rf hs
  rw [htiles]
  have hsu := hstate.sorted hs
  have hst2 := (hstate.rf hs).trans hst
  generalize s.tileCompared f t (s.rf (R.ALM_HRW_CTRL_FURA f)) (s.rf (R.ALM_HRW_CTRL_FURB f)) (s.harrowAttr f x y) m differs = u at *
  obtain ⟨g1, g2, g3⟩ := hshow
  by_cases hlast : t + 1 = s.rf (R.ALM_HRW_TILES_TILES f)
  · have hend : ∀ {l : Loc} (j : Nat), 0x400 ≤ j → 0x418 ≠ j → l.addr = Page.almanacBase + j + 64 * f → (u.endHarrow f 3 m).rf l = u.rf l :=
      fun {l} j hj hne ha => ((Spares.refl l u).endHarrow (.inl (ne_of_eq_of_ne ha (hrw_ne hne.symm f))) (hrw_apart hj ha).1 (hrw_apart hj ha).2 _
        _).rf hsu
    rw [if_pos hlast, if_pos hlast]
    refine ⟨(hend (l := R.ALM_HRW_DONE_TILES f) 0x420 (by decide) (by decide) rfl).trans g1, endHarrow_state hsu f (by decide) m,
      fun h => (hend (l := R.ALM_HRW_MIS_TILES f) 0x424 (by decide) (by decide) rfl).trans (g2 h),
      fun h => ⟨(hend (l := R.ALM_HRW_MIS_TILES f) 0x424 (by decide) (by decide) rfl).trans (g3 h).1, fun hv => ((g3 h).2 hv).mono fun l hl =>
        hl.elim (hend 0x428 (by decide) (by decide)) (hend 0x42c (by decide) (by decide))⟩⟩
  · rw [if_neg hlast, if_neg hlast]
    exact ⟨g1, hst2, g2, g3⟩

/-- HARROW_TILE above the band (R415). -/
theorem harrowTile_above {s : State} {f : Fin 4} {m : Meas} (differs eqA eqB : Bool) (hrun : s.harrowing f = true)
    (haw : ∀ n ∈ s.harrowFurrows f, s.awake f n = true) (hband : s.inBand f m = .gt) :
    exec (.harrowTile f m differs eqA eqB) s = .next (s.wf (R.ALM_HRW_STAT_STATE f) 1) := by
  show execHarrowTile f m differs eqA eqB s = _
  unfold execHarrowTile
  rw [hrun, List.all_eq_true.mpr haw, hband]
  rfl

/-- R413, R414: both furrows of a run have computed tile `t`. -/
def State.tilesRun (s : State) (f t a b : Nat) (hit : Nat → Bool) : State := ((s.harrowRun f a t (hit a)).2.harrowRun f b t (hit b)).2

/-- Which furrows err where the results differ. -/
def State.erring (s : State) (f : Nat) (differs eqA eqB : Bool) (n : Nat) : Bool :=
  differs && (s.harrowAttr f eqA eqB == 31 || s.harrowAttr f eqA eqB == n)

/-- HARROW_TILE below the band (R415). -/
theorem harrowTile_below {s : State} {f : Fin 4} {m : Meas} (differs eqA eqB : Bool) (hrun : s.harrowing f = true)
    (haw : ∀ n ∈ s.harrowFurrows f, s.awake f n = true) (hband : s.inBand f m = .lt) :
    exec (.harrowTile f m differs eqA eqB) s = .next ((s.tilesRun f (s.rf (R.ALM_HRW_DONE_TILES f)) (s.rf (R.ALM_HRW_CTRL_FURA f))
      (s.rf (R.ALM_HRW_CTRL_FURB f)) (s.erring f differs eqA eqB)).wf (R.ALM_HRW_STAT_STATE f) 1) := by
  show execHarrowTile f m differs eqA eqB s = _
  unfold execHarrowTile
  rw [hrun, List.all_eq_true.mpr haw, hband]
  rfl

/-- R414: the referee runs tile `t` where the results `ra` and `rb` differ, and the tile is compared. -/
def State.refereed (s : State) (f t r : Nat) (m : Meas) (differs eqA eqB : Bool) (ra rb : TileResult) : State :=
  let (rr, s) := if differs && r != 31 then let (x, s) := s.harrowRun f r t false; (some x, s) else (none, s)
  (s.wf (R.ALM_HRW_STAT_STATE f) 2).compareTile f t m differs (eqA && some ra == rr) (eqB && some rb == rr)

theorem refereed_true {s : State} {f t r : Nat} {m : Meas} {differs : Bool} (h : (differs && r != 31) = true) (eqA eqB : Bool) (ra rb : TileResult) :
    s.refereed f t r m differs eqA eqB ra rb = ((s.harrowRun f r t false).2.wf (R.ALM_HRW_STAT_STATE f) 2).compareTile f t m differs
      (eqA && ra == (s.harrowRun f r t false).1) (eqB && rb == (s.harrowRun f r t false).1) := by
  unfold State.refereed
  rw [h]
  rfl

theorem refereed_false {s : State} {f t r : Nat} {m : Meas} {differs : Bool} (h : (differs && r != 31) = false) (eqA eqB : Bool)
    (ra rb : TileResult) : s.refereed f t r m differs eqA eqB ra rb = (s.wf (R.ALM_HRW_STAT_STATE f) 2).compareTile f t m differs
      (eqA && some ra == none) (eqB && some rb == none) := by
  unfold State.refereed
  rw [h]
  rfl

/-- HARROW_TILE in the band (R413, R414): `u` is the state after the furrows and the referee have run. -/
theorem harrowTile_within {s : State} {f : Fin 4} {m : Meas} (differs eqA eqB : Bool) (hrun : s.harrowing f = true)
    (haw : ∀ n ∈ s.harrowFurrows f, s.awake f n = true) (hband : s.inBand f m = .eq) {done a b r : Nat} {hit : Nat → Bool} {ra rb rr : TileResult}
    (ha : a = s.rf (R.ALM_HRW_CTRL_FURA f)) (hb : b = s.rf (R.ALM_HRW_CTRL_FURB f)) (hr : r = s.rf (R.ALM_HRW_CTRL_FURR f))
    (hdone : done = s.rf (R.ALM_HRW_DONE_TILES f)) (hhit : hit = s.erring f differs eqA eqB)
    (hra : ra = (s.harrowRun f a done (hit a)).1) (hrb : rb = ((s.harrowRun f a done (hit a)).2.harrowRun f b done (hit b)).1)
    (hrr : rr = ((s.tilesRun f done a b hit).harrowRun f r done false).1) : ∃ (u : State) (x y : Bool),
      exec (.harrowTile f m differs eqA eqB) s = .next ((u.wf (R.ALM_HRW_STAT_STATE f) 2).compareTile f done m (differs || ra != rb) x y) ∧
      (u = s.tilesRun f done a b hit ∨ u = ((s.tilesRun f done a b hit).harrowRun f r done false).2) ∧
      ((differs || ra != rb) = true → s.harrowAttr f x y = s.harrowAttr f (eqA && ra == rr) (eqB && rb == rr)) := by
  have hex : exec (.harrowTile f m differs eqA eqB) s =
      .next ((s.tilesRun f done a b hit).refereed f done r m (differs || ra != rb) eqA eqB ra rb) := by
    show execHarrowTile f m differs eqA eqB s = _
    unfold execHarrowTile
    rw [hrun, List.all_eq_true.mpr haw, hband, hra, hrb, ha, hb, hr, hdone, hhit]
    rfl
  cases hcase : (differs || ra != rb) && r != 31 with
  | true =>
    rw [refereed_true hcase] at hex
    exact ⟨_, _, _, hex, .inr rfl, fun _ => hrr ▸ rfl⟩
  | false =>
    rw [refereed_false hcase] at hex
    refine ⟨_, _, _, hex, .inl rfl, fun hd => ?_⟩
    have h31 : s.rf (R.ALM_HRW_CTRL_FURR f) = 31 := by
      rw [hd, Bool.true_and, bne_eq_false_iff_eq, hr] at hcase
      exact hcase
    rw [harrowAttr_alone h31, harrowAttr_alone h31]

/-- The state after the tiles: the registers of the harrow are as before. -/
theorem tilesRun_spares {l : Loc} {s u : State} {f : Nat} (h : l.addr < 0x1000000) {done a b r : Nat} {hit : Nat → Bool}
    (hu : u = s.tilesRun f done a b hit ∨ u = ((s.tilesRun f done a b hit).harrowRun f r done false).2) : Spares l s u := by
  have h2 : Spares l s (s.tilesRun f done a b hit) := ((Spares.refl l s).harrowRun h f a done (hit a)).harrowRun h f b done (hit b)
  cases hu with
  | inl hu => exact hu ▸ h2
  | inr hu => exact hu ▸ h2.harrowRun h f r done false

/-- HARROW_TILE (R413 to R415). -/
theorem harrowTile_shows {s : State} (hc : s.Canon) {f : Fin 4} {m : Meas} {differs eqA eqB : Bool} {a b r done attr : Nat} {hit : Nat → Bool}
    {ra rb rr : TileResult} (hrun : s.harrowing f = true) (haw : ∀ n ∈ s.harrowFurrows f, s.awake f n = true)
    (ha : a = s.rf (R.ALM_HRW_CTRL_FURA f)) (hb : b = s.rf (R.ALM_HRW_CTRL_FURB f)) (hr : r = s.rf (R.ALM_HRW_CTRL_FURR f))
    (hdone : done = s.rf (R.ALM_HRW_DONE_TILES f)) (hhit : hit = s.erring f differs eqA eqB)
    (hra : ra = (s.harrowRun f a done (hit a)).1) (hrb : rb = ((s.harrowRun f a done (hit a)).2.harrowRun f b done (hit b)).1)
    (hrr : rr = ((s.tilesRun f done a b hit).harrowRun f r done false).1)
    (hattr : attr = s.harrowAttr f (eqA && ra == rr) (eqB && rb == rr)) :
    ∃ t, exec (.harrowTile f m differs eqA eqB) s = .next t ∧ s.SameBut t [.freeCtr, .regs, .furrows, .pairs, .staged, .heldBack, .lastMma] ∧
      (s.inBand f m = .gt → t.furrows = s.furrows ∧ t.rf (R.ALM_HRW_STAT_STATE f) = 1) ∧
      (s.inBand f m = .lt → t.rf (R.ALM_HRW_STAT_STATE f) = 1 ∧ t.rf (R.ALM_HRW_DONE_TILES f) = done ∧ t.staged = s.staged) ∧
      (s.inBand f m = .eq → t.rf (R.ALM_HRW_DONE_TILES f) = (done + 1) % 2 ^ 32 ∧
        (t.rf (R.ALM_HRW_STAT_STATE f) = if done + 1 = s.rf (R.ALM_HRW_TILES_TILES f) then 3 else 2) ∧
        (differs = false → ra = rb → t.rf (R.ALM_HRW_MIS_TILES f) = s.rf (R.ALM_HRW_MIS_TILES f)) ∧
        (differs = true ∨ ra ≠ rb → t.rf (R.ALM_HRW_MIS_TILES f) = (s.rf (R.ALM_HRW_MIS_TILES f) + 1) % 2 ^ 32 ∧
          (s.flag (R.ALM_HRW_FIRSTP_VALID f) = false → t.KeepsFirst f done (s.rf (R.ALM_HRW_CTRL_FURA f)) (s.rf (R.ALM_HRW_CTRL_FURB f)) attr))) := by
  have hlow : ∀ {l : Loc} (j : Nat), j < 0x440 → l.addr = Page.almanacBase + j + 64 * f → l.addr < 0x1000000 := fun {l} j hj h => by
    rw [h]
    unfold Page.almanacBase
    omega
  have hone : 1 < 2 ^ 3 := by decide
  have htwo : 2 < 2 ^ 3 := by decide
  cases hband : s.inBand f m with
  | gt =>
    have hex := harrowTile_above differs eqA eqB hrun haw hband
    have hst := wf_last (l := R.ALM_HRW_STAT_STATE f) hc.regs (Nat.le_of_ble_eq_true rfl) hone
    have hfur : (s.wf (R.ALM_HRW_STAT_STATE f) 1).furrows = s.furrows := (congrArg State.furrows (wf_frame s (R.ALM_HRW_STAT_STATE f) 1) :)
    exact ⟨_, hex, sameBut_of_next hex, fun _ => ⟨hfur, hst⟩, fun h => (nomatch h), fun h => (nomatch h)⟩
  | lt =>
    have hex := harrowTile_below differs eqA eqB hrun haw hband
    rw [← ha, ← hb, ← hdone, ← hhit] at hex
    have hsp : ∀ {l : Loc} (j : Nat), j < 0x440 → l.addr = Page.almanacBase + j + 64 * f → Spares l s (s.tilesRun f done a b hit) :=
      fun {l} j hj h => tilesRun_spares (r := r) (hlow j hj h) (.inl rfl)
    have hsu := (hsp (l := R.ALM_HRW_STAT_STATE f) 0x418 (by decide) rfl).sorted hc.regs
    have hd := ((hsp (l := R.ALM_HRW_DONE_TILES f) 0x420 (by decide) rfl).wf_far (m := R.ALM_HRW_STAT_STATE f)
      (hrw_ne (j := 0x420) (k := 0x418) (by decide) f) 1).rf hc.regs
    have hstg : (s.tilesRun f done a b hit).staged = s.staged := (harrowRun_staged _ f b done (hit b)).trans (harrowRun_staged s f a done (hit a))
    refine ⟨_, hex, sameBut_of_next hex, fun h => (nomatch h), fun _ => ⟨wf_last (l := R.ALM_HRW_STAT_STATE f) hsu (Nat.le_of_ble_eq_true rfl) hone,
      hd.trans hdone.symm, ?_⟩, fun h => (nomatch h)⟩
    exact (congrArg State.staged (wf_frame (s.tilesRun f done a b hit) (R.ALM_HRW_STAT_STATE f) 1) :).trans hstg
  | eq =>
    obtain ⟨u, x, y, hex, hu, hxy⟩ := harrowTile_within differs eqA eqB hrun haw hband ha hb hr hdone hhit hra hrb hrr
    have hsp : ∀ {l : Loc} (j : Nat), j < 0x440 → 0x418 ≠ j → l.addr = Page.almanacBase + j + 64 * f →
        (u.wf (R.ALM_HRW_STAT_STATE f) 2).rf l = s.rf l := fun {l} j hj hne h =>
      ((tilesRun_spares (hlow j hj h) hu).wf_far (m := R.ALM_HRW_STAT_STATE f) (ne_of_eq_of_ne h (hrw_ne hne.symm f)) 2).rf hc.regs
    have hsu : Store.Sorted u.regs := (tilesRun_spares (hlow (l := R.ALM_HRW_STAT_STATE f) 0x418 (by decide) rfl) hu).sorted hc.regs
    have hsv := sorted_wf hsu (R.ALM_HRW_STAT_STATE f) 2
    have hst := wf_last (l := R.ALM_HRW_STAT_STATE f) hsu (Nat.le_of_ble_eq_true rfl) htwo
    have hmis := hsp (l := R.ALM_HRW_MIS_TILES f) 0x424 (by decide) (by decide) rfl
    have hvalid : (u.wf (R.ALM_HRW_STAT_STATE f) 2).flag (R.ALM_HRW_FIRSTP_VALID f) = s.flag (R.ALM_HRW_FIRSTP_VALID f) :=
      congrArg (· != 0) (hsp (l := R.ALM_HRW_FIRSTP_VALID f) 0x42c (by decide) (by decide) rfl)
    have hfa := hsp (l := R.ALM_HRW_CTRL_FURA f) 0x400 (by decide) (by decide) rfl
    have hfb := hsp (l := R.ALM_HRW_CTRL_FURB f) 0x400 (by decide) (by decide) rfl
    have hfr := hsp (l := R.ALM_HRW_CTRL_FURR f) 0x400 (by decide) (by decide) rfl
    have hat : (u.wf (R.ALM_HRW_STAT_STATE f) 2).harrowAttr f x y = s.harrowAttr f x y := by
      unfold State.harrowAttr
      rw [hfa, hfb, hfr]
    have ht : done < 2 ^ 32 := hdone ▸ rf_lt s (R.ALM_HRW_DONE_TILES f)
    obtain ⟨g1, g2, g3, g4⟩ := compareTile_shows hsv (f := f) f.isLt ht m (differs || ra != rb) x y hst
    rw [hsp (l := R.ALM_HRW_TILES_TILES f) 0x408 (by decide) (by decide) rfl] at g2
    rw [hmis] at g3 g4
    rw [hvalid, hfa, hfb, hat] at g4
    refine ⟨_, hex, sameBut_of_next hex, fun h => (nomatch h), fun h => (nomatch h), fun _ => ⟨g1, g2, fun h1 h2 => g3 ?_, fun h => ?_⟩⟩
    · rw [h1, h2]
      exact bne_self_eq_false rb
    · have hd : (differs || ra != rb) = true := by
        rw [Bool.or_eq_true, bne_iff_ne]
        exact h
      rw [hxy hd, ← hattr] at g4
      exact g4 hd

/-- Settles O58. READY is 1 in the step that writes ALM_RSEL or ALM_QSEL, and `readAt` is the model's time of that step (log 55); a
harrow tile's drain counts as no DRN and its bytes go to the comparison alone (log 81). -/
theorem almanacAndHarrowAct : Obligations.AlmanacAndHarrowAct := by
  unfold Obligations.AlmanacAndHarrowAct
  intro s hc
  refine ⟨fun e rest i he => ⟨fun hi => flashWrite_shows he hi, flashFail_shows hc he⟩,
    fun u v got b => ⟨fun hm hb => almanacRead_shows hc hm hb, fun hm => almanacClassify_shows hc hm⟩,
    fun u f v m => ⟨execHarrowGo_shows hc m, harrowStop_shows hc m, harrowTimeout_shows hc m, ?_⟩⟩
  intro differs eqA eqB a b r done attr hit ra rb rr hrun haw ha hb hr hdone hhit hra hrb hrr hattr
  obtain ⟨t, hex, hsame, h1, h2, h3⟩ := harrowTile_shows (differs := differs) (eqA := eqA) (eqB := eqB) hc hrun haw ha hb hr hdone hhit hra hrb hrr hattr (m := m)
  refine ⟨t, hex, hsame, h1, h2, fun hb => ?_⟩
  obtain ⟨g1, g2, g3, g4⟩ := h3 hb
  refine ⟨g1, g2, g3, fun hd => ⟨(g4 hd).1, fun hv => ?_⟩⟩
  obtain ⟨k1, k2, k3, k4, k5⟩ := (g4 hd).2 hv
  exact ⟨k1, k2, k3, k4, k5⟩

end Sys2Proof.Machine


/-! A window of a PLL whose count of bad windows is listed twice (R475): O52. -/

namespace Sys2Proof.Machine

/-- The host port's PLL is locking; the table of bad windows, which `State.Canon` does not order, lists it twice. -/
def twiceListed : State := { State.reset.wf (R.CLK_PLL_STATE 0) 1 with clk := { State.reset.clk with bad := [(0, 1), (0, 5)] } }

theorem canon_twiceListed : twiceListed.Canon := by
  constructor <;> decide +kernel

/-- A window out of range leaves the second entry. -/
theorem twiceListed_keeps_count : sgetD (nextState (exec (.pllWindow 0 0 0) twiceListed)).clk.bad 0 0 = 5 := by decide +kernel

/-- Refutes O52: `State.Canon` says nothing of the table of bad windows. In a state that lists a PLL twice there, a window that is not
accepted while the PLL is locking takes the first entry away only, so that the count reads 5 and not 0. The statement asks it of every canonical state; the model's own
updates of the table keep its keys rising. -/
theorem not_bootAndClocksAdvance : ¬ Obligations.BootAndClocksAdvance := by
  intro h
  obtain ⟨-, -, -, -, -, hwindow, -⟩ := h twiceListed canon_twiceListed
  obtain ⟨t, ht, -, -, -, hbad⟩ := hwindow 0 0 0 (by decide +kernel) (by decide +kernel)
  obtain ⟨-, hsame, -⟩ := hbad (by decide +kernel)
  obtain ⟨-, -, hcount⟩ := hsame (by decide +kernel)
  have hkept := twiceListed_keeps_count
  rw [ht] at hkept
  exact absurd (hkept.symm.trans hcount) (by decide +kernel)

end Sys2Proof.Machine


/-! RESET_FIELD in clock fallback, where the table of field resets lists the field twice (R441, R443): O49. -/

namespace Sys2Proof.Machine

/-- RESET_FIELD of field 0. -/
def resetZero : CmdWord := 0x4D

/-- Queue 8191 has RESET_FIELD at its start position and the device is in clock fallback; the table of field resets, which `State.Canon`
does not order, lists field 0 twice though the field is not held. -/
def twiceReset : State :=
  { ((((((((State.reset.wf R.SEC_BOOT_STAGE 5).wf R.CLK_STAT_FALLBACK 1).wf (R.CTX_BIND_VALID 0) 1).wf (R.QM_QCFG_EN 8191) 1).wf
      (R.QM_QSTAT_STATE 8191) qActive).wf (R.QM_QDB_COUNT 8191) 1).wf (R.QM_QBINDV_CLASS 8191) 3).setQueue 8191
      { head := some resetZero, go := true }) with
    pwr := { State.reset.pwr with resets := [(0, (1, 1)), (0, (2, 2))] } }

theorem canon_twiceReset : twiceReset.Canon := by
  constructor <;> decide +kernel

theorem mayRun_twiceReset : twiceReset.MayRun 8191 0x4D resetZero := by
  constructor <;> decide +kernel

/-- The end of the reset takes the first entry away, and the second stands. -/
theorem twiceReset_keeps_entry : sget? (nextState (exec (.resetField 8191 [] {}) twiceReset)).pwr.resets 0 = some (2, 2) := by
  decide +kernel

/-- Refutes O49: in clock fallback the reset of a field ends at once (log 25), and its entry in the table of field resets goes. `State.Canon`
says nothing of that table: in a state that lists the field twice there, the second entry is left. The statement asks it of every canonical
state; the model's own updates of the table keep its keys rising. -/
theorem not_resetCommandsAct : ¬ Obligations.ResetCommandsAct := by
  intro h
  obtain ⟨-, hfield, -⟩ := h 8191 [] {} twiceReset resetZero 0 canon_twiceReset (by decide +kernel) (by decide +kernel) (by decide +kernel)
  obtain ⟨t, ht, -, -, hfall, -⟩ := hfield mayRun_twiceReset (by decide) (by decide +kernel)
  obtain ⟨-, hnone, -⟩ := hfall (by decide +kernel)
  have hkept := twiceReset_keeps_entry
  rw [ht] at hkept
  exact absurd (hkept.symm.trans hnone) (by decide)

end Sys2Proof.Machine


/-! Out-of-band management (R508 to R519): O59. -/

namespace Sys2Proof.Machine

/-! ### A message is received (R509, R510) -/

/-- R510: a message is counted. -/
def State.heard (s : State) : State := s.bump R.STD_MG_RX_CNT_COUNT 1

/-- R509: a message in error is counted. -/
def State.faulted (s : State) : State := s.bump R.STD_MG_ERR_CNT_COUNT 1

theorem heard_frame (s : State) : { s.heard with regs := s.regs } = s := wf_frame s _ _
theorem faulted_frame (s : State) : { s.faulted with regs := s.regs } = s := wf_frame s _ _

theorem Spares.heard {l : Loc} {s0 s : State} (hk : Spares l s0 s) (h : l.addr ≠ A.STD_MG_RX_CNT) : Spares l s0 s.heard :=
  hk.bump (m := R.STD_MG_RX_CNT_COUNT) h 1

theorem Spares.faulted {l : Loc} {s0 s : State} (hk : Spares l s0 s) (h : l.addr ≠ A.STD_MG_ERR_CNT) : Spares l s0 s.faulted :=
  hk.bump (m := R.STD_MG_ERR_CNT_COUNT) h 1

theorem heard_reg (s : State) {a : Nat} (h : a ≠ A.STD_MG_RX_CNT) : s.heard.reg a = s.reg a := reg_wf_ne (l := R.STD_MG_RX_CNT_COUNT) s _ h

theorem heard_rf (s : State) {l : Loc} (h : l.addr ≠ A.STD_MG_RX_CNT) : s.heard.rf l = s.rf l := rf_congr (heard_reg s h)

theorem heard_flag (s : State) {l : Loc} (h : l.addr ≠ A.STD_MG_RX_CNT) : s.heard.flag l = s.flag l := congrArg (· != 0) (heard_rf s h)

theorem heard_stage (s : State) : s.heard.stage = s.stage := heard_rf s (l := R.SEC_BOOT_STAGE) (by decide)

theorem sorted_heard {s : State} (h : Store.Sorted s.regs) : Store.Sorted s.heard.regs := sorted_bump h _ _

theorem sorted_faulted {s : State} (h : Store.Sorted s.regs) : Store.Sorted s.faulted.regs := sorted_bump h _ _

theorem heard_same (s : State) : Same (partsMask [.regs]) s s.heard := State.bump_same (.refl _ s) rfl _ _

theorem heard_parts (s : State) : s.heard.mg = s.mg ∧ s.heard.pwr = s.pwr ∧ s.heard.now = s.now ∧ s.heard.flash = s.flash ∧
    s.heard.fcolLog = s.fcolLog ∧ s.heard.sec = s.sec ∧ s.heard.pins = s.pins ∧ s.heard.fuses = s.fuses ∧ s.heard.fences = s.fences :=
  have h := heard_frame s
  ⟨(congrArg State.mg h :), (congrArg State.pwr h :), (congrArg State.now h :), (congrArg State.flash h :), (congrArg State.fcolLog h :),
    (congrArg State.sec h :), (congrArg State.pins h :), (congrArg State.fuses h :), (congrArg State.fences h :)⟩

theorem canon_heard {s : State} (hc : s.Canon) : s.heard.Canon := (State.bump_keeps (.refl s) _ _).canon hc

theorem heard_count {s : State} (h : Store.Sorted s.regs) : s.heard.rf R.STD_MG_RX_CNT_COUNT = satAdd32 (s.rf R.STD_MG_RX_CNT_COUNT) 1 :=
  (rf_bump_self h (l := R.STD_MG_RX_CNT_COUNT) (by decide) 1).trans (satAdd32_mod _ _)

theorem faulted_count {s : State} (h : Store.Sorted s.regs) :
    s.faulted.rf R.STD_MG_ERR_CNT_COUNT = satAdd32 (s.rf R.STD_MG_ERR_CNT_COUNT) 1 :=
  (rf_bump_self h (l := R.STD_MG_ERR_CNT_COUNT) (by decide) 1).trans (satAdd32_mod _ _)

/-- A message in error is counted both ways. -/
theorem heard_faulted {s : State} (h : Store.Sorted s.regs) :
    s.heard.faulted.rf R.STD_MG_RX_CNT_COUNT = satAdd32 (s.rf R.STD_MG_RX_CNT_COUNT) 1 ∧
      s.heard.faulted.rf R.STD_MG_ERR_CNT_COUNT = satAdd32 (s.rf R.STD_MG_ERR_CNT_COUNT) 1 :=
  ⟨(((Spares.refl R.STD_MG_RX_CNT_COUNT s.heard).faulted (by decide)).rf (sorted_heard h)).trans (heard_count h),
    (faulted_count (sorted_heard h)).trans (by rw [heard_rf s (l := R.STD_MG_ERR_CNT_COUNT) (by decide)])⟩

theorem received_eq {s : State} (h : 2 ≤ s.stage) (k : State → State) : s.received k = k s.heard := if_neg (Nat.not_lt.mpr h)

theorem respond_regs (s : State) (b : List Byte) : (s.respond b).regs = s.regs := rfl
theorem respond_mg (s : State) (b : List Byte) : (s.respond b).mg = { s.mg with resp := b } := rfl
theorem respond_parts (s : State) (b : List Byte) : (s.respond b).pwr = s.pwr ∧ (s.respond b).flash = s.flash ∧ (s.respond b).fences = s.fences :=
  ⟨rfl, rfl, rfl⟩

/-- What is answered to a message with no other effect. -/
theorem replied_same (s : State) (b : List Byte) : Same (partsMask [.regs, .mg]) s (s.heard.respond b) ∧
    Same (partsMask [.regs, .mg]) s (s.heard.faulted.respond b) :=
  have h : Same (partsMask [.regs, .mg]) s s.heard := State.bump_same (.refl _ s) rfl _ _
  ⟨State.respond_same h rfl _, State.respond_same (State.bump_same h rfl _ _) rfl _⟩

/-! ### Vendor requests (R509, R510, R513) -/

/-- R513: what is answered to a request whose effect has been computed. -/
def answerMsg (cmd : Nat) (x : Answer) : State := (if x.1 = 1 then x.2.2.faulted else x.2.2).respond (vendorMsg cmd 1 x.1 x.2.1)

/-- R510, R513: the answer to the request of command `cmd`, once it is received. -/
def vendorAnswer (cmd : Nat) (head : BitVec 32) (also : List Nat) (k : State → Answer) (s : State) : Answer :=
  if s.stage ≠ 5 ∧ s.stage ∉ (if wbits head 0 8 = cmd then also else []) then (ccNotReady, [], s)
  else if head ≠ BitVec.ofNat 32 cmd then (ccInvalid, [], s)
  else k s

/-- A header that names no other command of R514. -/
theorem vendor_message {cmd : Nat} {head : BitVec 32} (hn : wbits head 0 8 = cmd ∨ wbits head 0 8 = 0 ∨ 11 < wbits head 0 8) (s : State)
    (p : List Byte) (also : List Nat) (k : State → Answer) : s.vendor cmd head p also k =
      s.messageOf (9 + p.length) fun s => answerMsg (wbits head 0 8) (vendorAnswer cmd head also k s) := by
  refine if_neg fun ⟨h1, h2⟩ => ?_
  rcases hn with h | h | h
  · exact h1 h
  · rw [h] at h2
    exact absurd h2 (by decide)
  · obtain ⟨i, hi, he⟩ := List.mem_map.mp h2
    have := List.mem_range.mp hi
    omega

section Vendor
variable {s : State} {cmd : Nat} {head : BitVec 32} {p : List Byte} {also : List Nat} (k : State → Answer) (hst : 2 ≤ s.stage)
  (hn : wbits head 0 8 = cmd ∨ wbits head 0 8 = 0 ∨ 11 < wbits head 0 8)
include hst hn

/-- R509: a message that is too long. -/
theorem vendor_long (hl : 131072 < 9 + p.length) : s.vendor cmd head p also k = s.heard.faulted := by
  rw [vendor_message hn]
  unfold State.messageOf
  rw [received_eq hst]
  exact if_pos hl

theorem vendor_short (hl : 9 + p.length ≤ 131072) :
    s.vendor cmd head p also k = answerMsg (wbits head 0 8) (vendorAnswer cmd head also k s.heard) := by
  rw [vendor_message hn]
  unfold State.messageOf
  rw [received_eq hst]
  exact if_neg (Nat.not_lt.mpr hl)

/-- R510: a request that is not formed as its command says. -/
theorem vendor_invalid (hl : 9 + p.length ≤ 131072) (h5 : s.stage = 5) (hh : head ≠ BitVec.ofNat 32 cmd) :
    s.vendor cmd head p also k = s.heard.faulted.respond (vendorMsg (wbits head 0 8) 1 1 []) := by
  have hx : vendorAnswer cmd head also k s.heard = invalidAnswer s.heard :=
    (if_neg fun h => h.1 ((heard_stage s).trans h5)).trans (if_pos hh)
  rw [vendor_short k hst hn hl, hx]
  rfl

/-- R510: a request before its stage. -/
theorem vendor_early (hl : 9 + p.length ≤ 131072) (h5 : s.stage < 5) (ha : ∀ x ∈ also, 5 < x) :
    s.vendor cmd head p also k = s.heard.respond (vendorMsg (wbits head 0 8) 1 3 []) := by
  have hnot : s.heard.stage ∉ (if wbits head 0 8 = cmd then also else []) := fun h => by
    rw [heard_stage s] at h
    split at h
    · exact absurd (ha _ h) (by omega)
    · cases h
  have hx : vendorAnswer cmd head also k s.heard = (3, [], s.heard) := if_pos ⟨by rw [heard_stage s]; omega, hnot⟩
  rw [vendor_short k hst hn hl, hx]
  rfl

end Vendor

theorem wbits_ofNat {cmd : Nat} (h : cmd < 256) : wbits (BitVec.ofNat 32 cmd) 0 8 = cmd := by
  unfold wbits
  rw [BitVec.extractLsb'_toNat, BitVec.toNat_ofNat, Nat.shiftRight_zero, Nat.mod_mod_of_dvd _ (by decide)]
  exact Nat.mod_eq_of_lt h

/-- R514: a request that is formed as its command says, at a stage that takes it. -/
theorem vendor_answers {s : State} {cmd : Nat} {head : BitVec 32} {p : List Byte} {also : List Nat} (k : State → Answer) (hst : 2 ≤ s.stage)
    (hc : cmd < 256) (hh : head = BitVec.ofNat 32 cmd) (hl : 9 + p.length ≤ 131072) (h5 : s.stage = 5 ∨ s.stage ∈ also) :
    s.vendor cmd head p also k = answerMsg cmd (k s.heard) := by
  have hw : wbits head 0 8 = cmd := hh ▸ wbits_ofNat hc
  have hx : vendorAnswer cmd head also k s.heard = k s.heard := by
    unfold vendorAnswer
    rw [hw, if_pos rfl, heard_stage s, if_neg fun h => h5.elim h.1 h.2, if_neg (not_not.mpr hh)]
  rw [vendor_short k hst (.inl hw) hl, hx, hw]

theorem answerMsg_ok (cmd : Nat) {cc : Nat} (h : cc ≠ 1) (out : List Byte) (t : State) :
    answerMsg cmd (cc, out, t) = t.respond (vendorMsg cmd 1 cc out) := by
  unfold answerMsg
  rw [if_neg h]

theorem answerMsg_invalid (cmd : Nat) (t : State) : answerMsg cmd (invalidAnswer t) = t.faulted.respond (vendorMsg cmd 1 1 []) := rfl

/-- The requests of R514, each with its command. -/
theorem vendorRequest_runs {i : Instr} {cmd : Nat} {b : Fin 2} {head : BitVec 32} {p : List Byte} {got : Option (List Byte)} {busy : Bool}
    {sigs : List Verified} {flashOk : Bool} {m : Meas} (s : State)
    (h : (i, cmd) ∈ [(Instr.getStatus head p, 1), (.setAllot head p, 2), (.getForecast head p, 3), (.setPlanCap head p, 4),
      (.setAlign head p, 5), (.readFaultlog head p, 6), (.readAlmanac head p got busy, 7), (.classify head p busy, 8), (.attest head p, 9),
      (.signedObject head p sigs flashOk m, 10), (.subscribe b head p, 11)]) :
    ∃ also k, exec i s = .next (s.vendor cmd head p also k) ∧ (cmd ≠ 1 → ∀ x ∈ also, 5 < x) := by
  simp only [List.mem_cons, Prod.mk.injEq, List.not_mem_nil, or_false] at h
  have hnone : ∀ x ∈ ([] : List Nat), 5 < x := fun x hx => (nomatch hx)
  rcases h with ⟨rfl, rfl⟩ | ⟨rfl, rfl⟩ | ⟨rfl, rfl⟩ | ⟨rfl, rfl⟩ | ⟨rfl, rfl⟩ | ⟨rfl, rfl⟩ | ⟨rfl, rfl⟩ | ⟨rfl, rfl⟩ | ⟨rfl, rfl⟩ |
    ⟨rfl, rfl⟩ | ⟨rfl, rfl⟩
  · exact ⟨_, _, rfl, fun h => absurd rfl h⟩
  · exact ⟨_, _, rfl, fun _ => hnone⟩
  · exact ⟨_, _, rfl, fun _ => hnone⟩
  · exact ⟨_, _, rfl, fun _ => hnone⟩
  · exact ⟨_, _, rfl, fun _ => hnone⟩
  · exact ⟨_, _, rfl, fun _ => hnone⟩
  · exact ⟨_, _, rfl, fun _ => hnone⟩
  · exact ⟨_, _, rfl, fun _ => hnone⟩
  · exact ⟨_, _, rfl, fun _ => by decide⟩
  · exact ⟨_, _, rfl, fun _ => hnone⟩
  · exact ⟨_, _, rfl, fun _ => hnone⟩

/-- R509, R510, R513: what every vendor request is answered that is too long, not formed or too early. -/
theorem vendorRequest_shows {i : Instr} {cmd : Nat} {b : Fin 2} {head : BitVec 32} {p : List Byte} {got : Option (List Byte)} {busy : Bool}
    {sigs : List Verified} {flashOk : Bool} {m : Meas} {s : State} (hc : s.Canon) (hst : 2 ≤ s.stage)
    (h : (i, cmd) ∈ [(Instr.getStatus head p, 1), (.setAllot head p, 2), (.getForecast head p, 3), (.setPlanCap head p, 4),
      (.setAlign head p, 5), (.readFaultlog head p, 6), (.readAlmanac head p got busy, 7), (.classify head p busy, 8), (.attest head p, 9),
      (.signedObject head p sigs flashOk m, 10), (.subscribe b head p, 11)])
    (hn : wbits head 0 8 = cmd ∨ wbits head 0 8 = 0 ∨ 11 < wbits head 0 8) :
    (131072 < 9 + p.length → ∃ t, exec i s = .next t ∧ { t with regs := s.regs } = s ∧
      t.rf R.STD_MG_RX_CNT_COUNT = satAdd32 (s.rf R.STD_MG_RX_CNT_COUNT) 1 ∧
      t.rf R.STD_MG_ERR_CNT_COUNT = satAdd32 (s.rf R.STD_MG_ERR_CNT_COUNT) 1) ∧
    (9 + p.length ≤ 131072 →
      (s.stage = 5 → head ≠ BitVec.ofNat 32 cmd → ∃ t, exec i s = .next t ∧ s.SameBut t [.regs, .mg] ∧
        t.mg = { s.mg with resp := vendorMsg (wbits head 0 8) 1 1 [] } ∧
        t.rf R.STD_MG_RX_CNT_COUNT = satAdd32 (s.rf R.STD_MG_RX_CNT_COUNT) 1 ∧
        t.rf R.STD_MG_ERR_CNT_COUNT = satAdd32 (s.rf R.STD_MG_ERR_CNT_COUNT) 1) ∧
      (s.stage < 5 → cmd ≠ 1 → ∃ t, exec i s = .next t ∧ s.SameBut t [.regs, .mg] ∧
        t.mg = { s.mg with resp := vendorMsg (wbits head 0 8) 1 3 [] })) := by
  obtain ⟨also, k, hex, halso⟩ := vendorRequest_runs s h
  obtain ⟨hrx, herr⟩ := heard_faulted hc.regs
  have hframe : { s.heard.faulted with regs := s.regs } = s :=
    (congrArg (fun x : State => { x with regs := s.regs }) (faulted_frame s.heard)).trans (heard_frame s)
  have hmg : s.heard.faulted.mg = s.mg := (congrArg State.mg hframe :)
  refine ⟨fun hl => ?_, fun hl => ⟨fun h5 hh => ?_, fun h5 h1 => ?_⟩⟩
  · rw [vendor_long k hst hn hl] at hex
    exact ⟨_, hex, hframe, hrx, herr⟩
  · rw [vendor_invalid k hst hn hl h5 hh] at hex
    refine ⟨_, hex, (replied_same s _).2.parts, ?_, (rf_of_regs (respond_regs _ _) _).trans hrx, (rf_of_regs (respond_regs _ _) _).trans herr⟩
    rw [respond_mg, hmg]
  · rw [vendor_early k hst hn hl h5 (halso h1)] at hex
    refine ⟨_, hex, (replied_same s _).1.parts, ?_⟩
    rw [respond_mg, (heard_parts s).1]

/-! ### Status and forecast (R514, R515) -/

/-- A message received changes nothing of what E is read from. -/
theorem heard_bounds (s : State) : s.SameBounds s.heard := by
  obtain ⟨-, hp, hn, -⟩ := heard_parts s
  refine ⟨fun l hl => heard_rf s ?_, hn, (congrArg PwrSt.pin hp :), (congrArg PwrSt.pinFor hp :), (congrArg PwrSt.aHist hp :),
    (congrArg PwrSt.cHist hp :), (congrArg PwrSt.ceils hp :)⟩
  rcases hl with h | h | h
  · exact ne_of_eq_of_ne h (by decide)
  · exact ne_of_eq_of_ne h (by decide)
  · unfold A.STD_MG_RX_CNT Page.mgmtBase
    omega

theorem status_flags : ∀ a b c d e f : Bool, ((bit a + 2 * bit b + 4 * bit c + 8 * bit d + 16 * bit e + 32 * bit f) % 256 ^ 1).testBit 0 = a ∧
    ((bit a + 2 * bit b + 4 * bit c + 8 * bit d + 16 * bit e + 32 * bit f) % 256 ^ 1).testBit 3 = d := by decide

/-- R514: what the status payload says. -/
theorem statusPayload_says (s : State) : s.statusPayload.length = 36 ∧ leAt s.statusPayload 0 4 = s.flash.boots % 2 ^ 32 ∧
    leAt s.statusPayload 4 4 = s.flash.pom % 2 ^ 32 ∧ leAt s.statusPayload 8 1 = s.stage % 2 ^ 8 ∧
    (leAt s.statusPayload 9 1).testBit 0 = s.flag R.FCOL_STAT_STATE ∧ (leAt s.statusPayload 9 1).testBit 3 = s.flash.expelled ∧
    leAt s.statusPayload 12 2 = s.limitE % 2 ^ 16 ∧ leAt s.statusPayload 14 2 = s.rf R.PWR_IN_P_W % 2 ^ 16 := by
  have hskip := fun (n v : Nat) (b : List Byte) (k m : Nat) => leAt_skip (length_leBytes n v) b k m
  unfold State.statusPayload
  dsimp only
  simp only [List.append_assoc]
  refine ⟨?_, leAt_front 4 _ _, ?_, ?_, ?_, ?_, ?_, ?_⟩
  · simp only [List.length_append, length_leBytes]
  · exact (hskip 4 _ _ 0 4).trans (leAt_front 4 _ _)
  · exact (hskip 4 _ _ 4 1).trans ((hskip 4 _ _ 0 1).trans (leAt_front 1 _ _))
  · rw [show leAt _ 9 1 = _ from (hskip 4 _ _ 5 1).trans ((hskip 4 _ _ 1 1).trans ((hskip 1 _ _ 0 1).trans (leAt_front 1 _ _)))]
    exact (status_flags _ _ _ _ _ _).1
  · rw [show leAt _ 9 1 = _ from (hskip 4 _ _ 5 1).trans ((hskip 4 _ _ 1 1).trans ((hskip 1 _ _ 0 1).trans (leAt_front 1 _ _)))]
    exact (status_flags _ _ _ _ _ _).2
  · exact (hskip 4 _ _ 8 2).trans ((hskip 4 _ _ 4 2).trans ((hskip 1 _ _ 3 2).trans ((hskip 1 _ _ 2 2).trans ((hskip 2 _ _ 0 2).trans
      (leAt_front 2 _ _)))))
  · exact (hskip 4 _ _ 10 2).trans ((hskip 4 _ _ 6 2).trans ((hskip 1 _ _ 5 2).trans ((hskip 1 _ _ 4 2).trans ((hskip 2 _ _ 2 2).trans
      ((hskip 2 _ _ 0 2).trans (leAt_front 2 _ _))))))

theorem leAt_words (f : Nat → Nat) : ∀ (l : List Nat) (j : Nat) (h : j < l.length), leAt (l.flatMap fun i => leBytes 4 (f i)) (4 * j) 4 = f l[j] % 256 ^ 4
  | x :: l, 0, _ => leAt_front 4 (f x) _
  | x :: l, j + 1, h => by
    have hk : 4 * (j + 1) = 4 + 4 * j := by omega
    rw [List.flatMap_cons, hk, leAt_skip (length_leBytes 4 (f x))]
    exact leAt_words f l j (Nat.lt_of_succ_lt_succ h)

/-- R515: what the forecast payload says. -/
theorem forecastPayload_says (s : State) : s.forecastPayload.length = 44 ∧ leAt s.forecastPayload 4 4 = s.rf R.PWR_FC_MIN_MIN ∧
    ∀ j, j < 8 → leAt s.forecastPayload (12 + 4 * j) 4 = (s.ceilWord j).toNat := by
  have hskip := fun (n v : Nat) (b : List Byte) (k m : Nat) => leAt_skip (length_leBytes n v) b k m
  unfold State.forecastPayload
  simp only [List.append_assoc]
  refine ⟨?_, ?_, fun j hj => ?_⟩
  · simp only [List.length_append, length_leBytes, List.length_flatMap, List.map_const', List.length_range, List.sum_replicate_nat]
  · exact ((hskip 4 _ _ 0 4).trans (leAt_front 4 _ _)).trans (Nat.mod_eq_of_lt (rf_lt s R.PWR_FC_MIN_MIN))
  · have h12 : ∀ n m : Nat, n + m + 4 * j = n + (m + 4 * j) := fun n m => Nat.add_assoc _ _ _
    rw [show (12 : Nat) = 4 + 8 from rfl, h12, hskip, show (8 : Nat) = 4 + 4 from rfl, h12, hskip, show 4 + 4 * j = 2 + (2 + 4 * j) by omega,
      hskip, hskip, leAt_words (fun j => (s.ceilWord j).toNat) _ j (by rw [List.length_range]; exact hj), List.getElem_range]
    exact Nat.mod_eq_of_lt (s.ceilWord j).isLt

theorem heard_pending (s : State) : s.heard.readPending = s.readPending := by
  obtain ⟨hmg, -, hn, -⟩ := heard_parts s
  unfold State.readPending
  rw [hmg, hn]

section Requests
variable {s : State} {head : BitVec 32} {p : List Byte} (hst : 2 ≤ s.stage) (hl : 9 + p.length ≤ 131072)
include hst hl

/-- GET_STATUS (R514). -/
theorem getStatus_shows (hh : head = 1) (hp : p = []) (h7 : s.stage ≤ 7) : ∃ t pl, exec (.getStatus head p) s = .next t ∧
    s.SameBut t [.regs, .mg] ∧ t.mg = { s.mg with resp := vendorMsg 1 1 0 pl } ∧ t.mg.resp.take 5 = [0x7F, 0, 0, 0xA6, 0xE3] ∧
    pl.length = 36 ∧ leAt pl 0 4 = s.flash.boots % 2 ^ 32 ∧ leAt pl 4 4 = s.flash.pom % 2 ^ 32 ∧ leAt pl 8 1 = s.stage ∧
    (leAt pl 9 1).testBit 0 = s.flag R.FCOL_STAT_STATE ∧ (leAt pl 9 1).testBit 3 = s.flash.expelled ∧
    leAt pl 12 2 = s.limitE % 2 ^ 16 ∧ leAt pl 14 2 = s.rf R.PWR_IN_P_W := by
  have hstage : s.stage = 5 ∨ s.stage ∈ [2, 3, 4, 6, 7] := by
    simp only [List.mem_cons, List.not_mem_nil, or_false]
    omega
  have hex : exec (.getStatus head p) s = .next (s.heard.respond (vendorMsg 1 1 0 s.heard.statusPayload)) := by
    show execGetStatus head p s = _
    unfold execGetStatus
    rw [vendor_answers _ hst (by decide) hh hl hstage, hp]
    rfl
  obtain ⟨hmg, -, -, hfl, -⟩ := heard_parts s
  obtain ⟨h1, h2, h3, h4, h5, h6, h8, h9⟩ := statusPayload_says s.heard
  rw [hfl] at h2 h3 h6
  rw [heard_stage] at h4
  rw [heard_flag s (by decide)] at h5
  rw [(heard_bounds s).limitE] at h8
  rw [heard_rf s (by decide)] at h9
  have hresp := respond_mg s.heard (vendorMsg 1 1 0 s.heard.statusPayload)
  rw [hmg] at hresp
  refine ⟨_, _, hex, (replied_same s _).1.parts, hresp, ?_, h1, h2, h3, h4.trans (Nat.mod_eq_of_lt (by omega)), h5, h6, h8,
    h9.trans (Nat.mod_eq_of_lt (rf_lt s R.PWR_IN_P_W))⟩
  rw [hresp]
  rfl

variable (h5 : s.stage = 5)
include h5

/-- GET_FORECAST (R464, R515). -/
theorem getForecast_shows (hh : head = 3) (hp : p = []) : ∃ t pl, exec (.getForecast head p) s = .next t ∧ s.SameBut t [.regs, .mg] ∧
    t.mg = { s.mg with resp := vendorMsg 3 1 0 pl } ∧ pl.length = 44 ∧ leAt pl 4 4 = s.rf R.PWR_FC_MIN_MIN ∧
    ∀ j, j < 8 → leAt pl (12 + 4 * j) 4 = (s.ceilWord j).toNat := by
  have hex : exec (.getForecast head p) s = .next (s.heard.respond (vendorMsg 3 1 0 s.heard.forecastPayload)) := by
    show execGetForecast head p s = _
    unfold execGetForecast
    rw [vendor_answers _ hst (by decide) hh hl (.inl h5), hp]
    rfl
  obtain ⟨hmg, hpw, -⟩ := heard_parts s
  obtain ⟨g1, g2, g3⟩ := forecastPayload_says s.heard
  rw [heard_rf s (by decide)] at g2
  have hceil : ∀ j, s.heard.ceilWord j = s.ceilWord j := fun j => by
    unfold State.ceilWord
    rw [hpw]
  refine ⟨_, _, hex, (replied_same s _).1.parts, ?_, g1, g2, fun j hj => (g3 j hj).trans (by rw [hceil])⟩
  rw [respond_mg, hmg]

/-- READ_FAULTLOG (R516). -/
theorem readFaultlog_shows {d wr : Nat} (hh : head = 6) (hp : p.length = 2) (hwr : wr = s.rf R.FCOL_LOG_WR_SEQ)
    (hd : d = (wr + 65536 - leAt p 0 2) % 65536) (h8 : d ≤ 8) (hlen : d ≤ s.fcolLog.length) : ∃ t, exec (.readFaultlog head p) s = .next t ∧
      s.SameBut t [.regs, .mg] ∧ t.mg = { s.mg with
        resp := vendorMsg 6 1 0 (leBytes 2 wr ++ leBytes 1 d ++ leBytes 1 0 ++
          (List.range d).flatMap fun i => fitBytes 32 (sgetD s.fcolLog ((leAt p 0 2 + i) % 64) [])) } := by
  obtain ⟨hmg, -, -, -, hlog, -⟩ := heard_parts s
  have hw : s.heard.rf R.FCOL_LOG_WR_SEQ = wr := (heard_rf s (by decide)).trans hwr.symm
  have hwin : s.heard.faultWindow (leAt p 0 2) = (leAt p 0 2, d, false) := by
    unfold State.faultWindow
    rw [hw, hlog]
    dsimp only
    rw [← hd, if_pos hlen, Nat.min_eq_right h8]
  have hex : exec (.readFaultlog head p) s = .next (s.heard.respond (vendorMsg 6 1 0 (leBytes 2 wr ++ leBytes 1 d ++ leBytes 1 0 ++
      (List.range d).flatMap fun i => fitBytes 32 (sgetD s.fcolLog ((leAt p 0 2 + i) % 64) [])))) := by
    show execReadFaultlog head p s = _
    unfold execReadFaultlog
    rw [vendor_answers _ hst (by decide) hh hl (.inl h5)]
    dsimp only
    rw [hwin, hw, hlog, hp]
    rfl
  refine ⟨_, hex, (replied_same s _).1.parts, ?_⟩
  rw [respond_mg, hmg]

end Requests

/-! ### Allotment, plan caps and the grid (R455, R462, R463, R515) -/

/-- A message received changes nothing of what a boundary does to the minutes. -/
theorem heard_dueBoundary {s : State} (hs : Store.Sorted s.regs) : s.heard.dueBoundary.pwr = s.dueBoundary.pwr ∧
    s.heard.dueBoundary.rf R.PWR_FC_MIN_MIN = s.dueBoundary.rf R.PWR_FC_MIN_MIN := by
  obtain ⟨-, hp, hn, -⟩ := heard_parts s
  have hceil : s.heard.ceilTarget none = s.ceilTarget none := by
    unfold State.ceilTarget State.allot
    rw [heard_rf s (l := R.PWR_ALLOT_ALLOT) (by decide)]
  have hmin : s.heard.rf R.PWR_FC_MIN_MIN = s.rf R.PWR_FC_MIN_MIN := heard_rf s (by decide)
  unfold State.dueBoundary
  rw [hn, hp]
  split
  · exact ⟨hp, hmin⟩
  · refine ⟨?_, ?_⟩
    · rw [minuteEdge_pwr, minuteEdge_pwr, hp, hceil]
    · rw [minuteEdge_minute (sorted_heard hs), minuteEdge_minute hs, hmin]

/-- R462, R515: what a plan cap is answered. -/
def State.capAnswer (s : State) (r : Option Bool × State) : Answer :=
  match r with
  | (some true, t) => (ccOk, [], t)
  | (some false, t) => (ccRefused, [], t)
  | (none, _) => invalidAnswer s

theorem heard_allot (s : State) : s.heard.allot = s.allot := heard_rf s (l := R.PWR_ALLOT_ALLOT) (by decide)

theorem respond_rf (s : State) (b : List Byte) (l : Loc) : (s.respond b).rf l = s.rf l := rf_of_regs (respond_regs s b) l

section Requests
variable {s : State} {head : BitVec 32} {p : List Byte} (hc : s.Canon) (hst : 2 ≤ s.stage) (hl : 9 + p.length ≤ 131072) (h5 : s.stage = 5)
include hc hst hl h5

/-- SET_ALLOT (R455, R515). -/
theorem setAllot_shows (hh : head = 2) (hp : p.length = 2) : ∃ t, exec (.setAllot head p) s = .next t ∧ s.SameBut t [.regs, .pwr, .mg] ∧
    if 60 ≤ leAt p 0 2 ∧ leAt p 0 2 ≤ 320 then t.mg.resp = vendorMsg 2 1 0 [] ∧
      t.allot = if s.pwr.lastAllot = some (s.now, false) then min s.allot (leAt p 0 2) else leAt p 0 2
    else t.pwr = s.pwr ∧ t.allot = s.allot ∧ t.mg.resp = vendorMsg 2 1 1 [] := by
  have hrun : exec (.setAllot head p) s = .next (answerMsg 2 (answerIf (p.length == 2 && 60 ≤ leAt p 0 2 && leAt p 0 2 ≤ 320) s.heard
      (ccOk, [], s.heard.setAllot true (leAt p 0 2)))) := by
    show execSetAllot head p s = _
    unfold execSetAllot
    rw [vendor_answers _ hst (by decide) hh hl (.inl h5)]
  obtain ⟨-, hpw, hn, -⟩ := heard_parts s
  by_cases hin : 60 ≤ leAt p 0 2 ∧ leAt p 0 2 ≤ 320
  · have hcond : (p.length == 2 && 60 ≤ leAt p 0 2 && leAt p 0 2 ≤ 320) = true := by simp [hp, hin]
    have hex : exec (.setAllot head p) s = .next ((s.heard.setAllot true (leAt p 0 2)).respond (vendorMsg 2 1 0 [])) := by
      rw [hrun, hcond]
      rfl
    have hok : ¬ (leAt p 0 2 < 60 ∨ 320 < leAt p 0 2) := by omega
    refine ⟨_, hex, sameBut_of_next hex, (if_pos hin).mpr ⟨rfl, (respond_rf _ _ _).trans ?_⟩⟩
    by_cases ht : s.pwr.lastAllot = some (s.now, false)
    · rw [if_pos ht, ← heard_allot s]
      exact (setAllot_tie (canon_heard hc) (mgmt := true) hok (by rw [hpw, hn]; exact ht)).1
    · rw [if_neg ht]
      exact (setAllot_alone (canon_heard hc) (mgmt := true) hok (by rw [hpw, hn]; exact ht)).allot
  · have hcond : (p.length == 2 && 60 ≤ leAt p 0 2 && leAt p 0 2 ≤ 320) = false := by
      rw [Bool.eq_false_iff]
      simp only [ne_eq, Bool.and_eq_true, decide_eq_true_eq]
      exact fun h => hin ⟨h.1.2, h.2⟩
    have hex : exec (.setAllot head p) s = .next (s.heard.faulted.respond (vendorMsg 2 1 1 [])) := by
      rw [hrun, hcond]
      rfl
    refine ⟨_, hex, sameBut_of_next hex, (if_neg hin).mpr ⟨hpw, (respond_rf _ _ _).trans ?_, rfl⟩⟩
    exact ((Spares.refl R.PWR_ALLOT_ALLOT s.heard).faulted (by decide)).rf (sorted_heard hc.regs) |>.trans (heard_allot s)

/-- SET_PLAN_CAP (R462, R465, R515). -/
theorem setPlanCap_shows (hh : head = 4) (hp : p.length = 6) (hin : leAt p 4 2 = 0 ∨ 60 ≤ leAt p 4 2 ∧ leAt p 4 2 ≤ 320) {d : State}
    (hd : d = s.dueBoundary) {j c : Nat} (hj : j = (leAt p 0 4 + 2 ^ 32 - d.rf R.PWR_FC_MIN_MIN) % 2 ^ 32)
    (hcap : c = (if leAt p 4 2 = 0 then 320 else leAt p 4 2)) : ∃ t, exec (.setPlanCap head p) s = .next t ∧ s.SameBut t [.regs, .pwr, .mg] ∧
      if 8 ≤ j ∨ (j ≤ 1 ∧ d.pwr.ceils.getD j 320 < min s.allot c) then t.pwr = d.pwr ∧ t.mg.resp = vendorMsg 4 1 2 []
      else t.mg.resp = vendorMsg 4 1 0 [] ∧
        if s.pwr.lastCap = some (s.now, leAt p 0 4, false) ∧ (d.pwr.caps.getD j none).getD 320 ≤ c then t.pwr = d.pwr
        else t.pwr.ceils = d.pwr.ceils.set j (min s.allot c) ∧
          t.pwr.caps = d.pwr.caps.set j (if leAt p 4 2 = 0 then none else some c) := by
  subst hd
  obtain ⟨hdp, hdm⟩ := heard_dueBoundary hc.regs
  obtain ⟨-, hpw, hn, -⟩ := heard_parts s
  have hlim := dueBoundary_limits s.heard
  have hallot : s.heard.dueBoundary.allot = s.allot := hlim.allot.trans (heard_allot s)
  obtain ⟨hrefused, htied, htaken⟩ := setCap_cases s.heard true (leAt p 0 4) hin (j := j) (by rw [hj, hdm])
  have hrun : exec (.setPlanCap head p) s = .next (answerMsg 4 (s.heard.capAnswer (s.heard.setCap true (leAt p 0 4) (leAt p 4 2)))) := by
    show execSetPlanCap head p s = _
    unfold execSetPlanCap
    rw [vendor_answers _ hst (by decide) hh hl (.inl h5), if_neg (not_not.mpr hp)]
    rfl
  have href : s.heard.dueBoundary.capRefused j (leAt p 4 2) ↔ 8 ≤ j ∨ (j ≤ 1 ∧ s.dueBoundary.pwr.ceils.getD j 320 < min s.allot c) := by
    unfold State.capRefused
    rw [hdp, hallot, ← hcap]
  have htie : s.heard.dueBoundary.capTie true (leAt p 0 4) j (leAt p 4 2) ↔
      s.pwr.lastCap = some (s.now, leAt p 0 4, false) ∧ (s.dueBoundary.pwr.caps.getD j none).getD 320 ≤ c := by
    unfold State.capTie
    rw [hlim.lastCap, hlim.now, hdp, hn, hpw, ← hcap, Bool.not_true]
  by_cases hr : s.heard.dueBoundary.capRefused j (leAt p 4 2)
  · have hex : exec (.setPlanCap head p) s = .next ((s.heard.dueBoundary.wf R.PWR_STAT_REFUSED 1).respond (vendorMsg 4 1 2 [])) := by
      rw [hrun, hrefused hr]
      rfl
    exact ⟨_, hex, sameBut_of_next hex, (if_pos (href.mp hr)).mpr ⟨hdp, rfl⟩⟩
  · by_cases ht : s.heard.dueBoundary.capTie true (leAt p 0 4) j (leAt p 4 2)
    · have hex : exec (.setPlanCap head p) s = .next (s.heard.dueBoundary.respond (vendorMsg 4 1 0 [])) := by
        rw [hrun, htied hr ht]
        rfl
      exact ⟨_, hex, sameBut_of_next hex, (if_neg fun h => hr (href.mpr h)).mpr ⟨rfl, (if_pos (htie.mp ht)).mpr hdp⟩⟩
    · have hex : exec (.setPlanCap head p) s = .next (((s.heard.dueBoundary.capped true (leAt p 0 4) j
          (if leAt p 4 2 = 0 then none else some (leAt p 4 2)) (min s.heard.dueBoundary.allot (if leAt p 4 2 = 0 then 320 else leAt p 4 2))).noteForecast
            s.heard.dueBoundary false).respond (vendorMsg 4 1 0 [])) := by
        rw [hrun, htaken hr ht]
        rfl
      have hval : (if leAt p 4 2 = 0 then none else some c : Option Nat) = if leAt p 4 2 = 0 then none else some (leAt p 4 2) := by
        by_cases h0 : leAt p 4 2 = 0
        · rw [if_pos h0, if_pos h0]
        · rw [if_neg h0, if_neg h0, hcap, if_neg h0]
      refine ⟨_, hex, sameBut_of_next hex, (if_neg fun h => hr (href.mpr h)).mpr ⟨rfl, (if_neg fun h => ht (htie.mpr h)).mpr ?_⟩⟩
      rw [(respond_parts _ _).1, noteForecast_pwr, capped_ceils, capped_caps, hdp, hallot, ← hcap, hval]
      exact ⟨rfl, rfl⟩

/-- SET_ALIGN (R463, R515). -/
theorem setAlign_shows (hh : head = 5) (hp : p.length = 2) (hlt : leAt p 0 2 < 60000) {d : State} (hd : d = s.dueBoundary) :
    ∃ t, exec (.setAlign head p) s = .next t ∧ s.SameBut t [.regs, .pwr, .mg] ∧ t.rf R.PWR_FC_ALIGN_MS = leAt p 0 2 ∧
      t.pwr.edge = d.nextEdge (leAt p 0 2) ∧ t.mg.resp = vendorMsg 5 1 0 [] := by
  subst hd
  have hex : exec (.setAlign head p) s = .next ((s.heard.setAlign (leAt p 0 2)).respond (vendorMsg 5 1 0 [])) := by
    show execSetAlign head p s = _
    unfold execSetAlign
    rw [vendor_answers _ hst (by decide) hh hl (.inl h5), hp, decide_eq_true hlt]
    rfl
  obtain ⟨hms, hedge, -⟩ := setAlign_taken (canon_heard hc) hlt
  have hnext : s.heard.dueBoundary.nextEdge (leAt p 0 2) = s.dueBoundary.nextEdge (leAt p 0 2) := by
    unfold State.nextEdge
    rw [(dueBoundary_limits s.heard).now, (dueBoundary_limits s).now, (heard_parts s).2.2.1]
  exact ⟨_, hex, sameBut_of_next hex, (respond_rf _ _ _).trans hms, hedge.trans hnext, rfl⟩

end Requests

/-! ### The Almanac's reads and attestation (R421, R422, R496, R516) -/

/-- R516: a read that another one in progress holds up. -/
theorem unlessBusy_eq (s : State) (busy : Bool) (k : State → Answer) :
    s.heard.unlessBusy busy k = if busy = true ∧ s.readPending = true then (ccBusy, [], s.heard) else k s.heard.startRead := by
  unfold State.unlessBusy
  simp only [heard_pending, Bool.and_eq_true]

theorem heard_startRead_mg (s : State) : s.heard.startRead.mg = { s.mg with readAt := some s.now } := startRead_mg (heard_frame s)

/-- R422: the source of a read whose CRC fails is raised. -/
def State.readChecked (s : State) (b : List Byte) : State := if crcFails b then s.raiseSrc Page.almanacBase 2 else s

theorem readChecked_mg (s : State) (b : List Byte) : (s.readChecked b).mg = s.mg :=
  (ite_same (State.raiseSrc_same (.refl 8589934600 s) rfl _ _) (.refl _ s) : Same _ s (s.readChecked b)).mg.resolve_left (by decide)

theorem readAlmanac_eq (s : State) (cls index : Nat) (got : Option (List Byte)) :
    s.readAlmanac cls index got = (s.almEntry cls index got, s.readChecked (s.almEntry cls index got)) := rfl

theorem classWord_congr {s t : State} (h : t.flash = s.flash) (hw : t.rf R.ALM_CTRL_WINDOW = s.rf R.ALM_CTRL_WINDOW) (page b : Nat) :
    t.classWord page b = s.classWord page b := by
  unfold State.classWord State.classifyAt
  rw [h, hw]

/-- R496: the report to `req` and its signature. -/
theorem attest_report {s : State} {req : List Byte} (h : leAt req 0 1 ≠ 2) :
    ∃ sig, (s.attest req).1 = s.reportBody (req.drop 4) ++ fitBytes 4627 sig := by
  unfold State.attest
  rw [if_neg h]
  exact ⟨_, rfl⟩

theorem attest_chain {s : State} {req : List Byte} (h : leAt req 0 1 = 2) : s.attest req = (s.chainBytes, s) := by
  unfold State.attest
  rw [if_pos h]

/-- R496: the shape of a report. -/
theorem reportBody_shape (s : State) (nonce : List Byte) : (s.reportBody nonce).length = 384 ∧
    ((s.reportBody nonce).drop 8).take 32 = fitBytes 32 nonce := by
  unfold State.reportBody
  dsimp only
  have hh : ((if s.sec.running.isEmpty then leBytes 64 0 else fitBytes 64 (sha3 (imgSigned s.sec.running)) : List Byte)).length = 64 := by
    split
    · exact length_leBytes _ _
    · exact length_fitBytes _ _
  refine ⟨?_, ?_⟩
  · simp only [List.length_append, length_leBytes, length_fitBytes, hh]
  · simp only [List.append_assoc]
    rw [← List.append_assoc, ← List.append_assoc, ← List.append_assoc, List.drop_left' (by simp only [List.length_append, length_leBytes]),
      List.take_left' (length_fitBytes _ _)]

theorem fitBytes_self {n : Nat} {b : List Byte} (h : b.length = n) : fitBytes n b = b := by
  subst h
  exact map_range_getD b 0

theorem length_vendorMsg (cmd rsp cc : Nat) (b : List Byte) : (vendorMsg cmd rsp cc b).length = 9 + b.length ∧ (vendorMsg cmd rsp cc b).drop 9 = b := by
  have hi : ianaBytes.length = 4 := (List.length_reverse).trans (length_leBytes _ _)
  have hl : (leBytes 1 0x7F ++ ianaBytes ++ leBytes 1 cmd ++ leBytes 1 rsp ++ leBytes 1 cc ++ leBytes 1 0).length = 9 := by
    simp only [List.length_append, length_leBytes, hi]
  unfold vendorMsg
  exact ⟨by rw [List.length_append, hl], List.drop_left' hl⟩

section Requests
variable {s : State} {head : BitVec 32} {p : List Byte} (hst : 2 ≤ s.stage) (hl : 9 + p.length ≤ 131072) (h5 : s.stage = 5)
include hst hl h5

/-- READ_ALMANAC (R422, R516). -/
theorem readAlmanac_shows (got : Option (List Byte)) (busy : Bool) (hh : head = 7) (hp : p.length = 4) (h8 : leAt p 0 1 < 8) (h0 : leAt p 1 1 = 0) :
    ∃ t, exec (.readAlmanac head p got busy) s = .next t ∧ s.SameBut t [.regs, .pairs, .mg] ∧ t.mg =
      if busy = true ∧ s.readPending = true then { s.mg with resp := vendorMsg 7 1 5 [] }
      else { s.mg with readAt := some s.now, resp := vendorMsg 7 1 0 (s.almEntry (leAt p 0 1) (leAt p 2 2) got) } := by
  have hrun : exec (.readAlmanac head p got busy) s = .next (answerMsg 7 (s.heard.unlessBusy busy fun s =>
      (ccOk, s.almEntry (leAt p 0 1) (leAt p 2 2) got, s.readChecked (s.almEntry (leAt p 0 1) (leAt p 2 2) got)))) := by
    show execReadAlmanac head p got busy s = _
    unfold execReadAlmanac
    rw [vendor_answers _ hst (by decide) hh hl (.inl h5), if_neg (by omega)]
    rfl
  rw [unlessBusy_eq] at hrun
  refine ⟨_, hrun, sameBut_of_next hrun, ?_⟩
  by_cases hb : busy = true ∧ s.readPending = true
  · rw [if_pos hb, if_pos hb, answerMsg_ok 7 (by decide), respond_mg, (heard_parts s).1]
    rfl
  · rw [if_neg hb, if_neg hb, answerMsg_ok 7 (by decide), respond_mg, readChecked_mg, heard_startRead_mg,
      almEntry_congr (s := s) (t := s.heard.startRead) (heard_parts s).2.2.2.1]
    rfl

/-- CLASSIFY (R421, R516). -/
theorem classify_shows (busy : Bool) (hh : head = 8) (hp : p.length = 4) (h1 : leAt p 0 2 < 32768) (h2 : leAt p 2 1 < 32) (h3 : leAt p 3 1 = 0) :
    ∃ t, exec (.classify head p busy) s = .next t ∧ s.SameBut t [.regs, .mg] ∧ t.mg =
      if busy = true ∧ s.readPending = true then { s.mg with resp := vendorMsg 8 1 5 [] }
      else { s.mg with readAt := some s.now
                       resp := vendorMsg 8 1 0 (leBytes 4 (s.classWord (leAt p 0 2) (leAt p 2 1)).toNat) } := by
  have hrun : exec (.classify head p busy) s = .next (answerMsg 8 (s.heard.unlessBusy busy fun s =>
      (ccOk, leBytes 4 (s.classWord (leAt p 0 2) (leAt p 2 1)).toNat, s))) := by
    show execClassify head p busy s = _
    unfold execClassify
    rw [vendor_answers _ hst (by decide) hh hl (.inl h5), hp, decide_eq_true h1, decide_eq_true h2, h3]
    rfl
  rw [unlessBusy_eq] at hrun
  refine ⟨_, hrun, sameBut_of_next hrun, ?_⟩
  by_cases hb : busy = true ∧ s.readPending = true
  · rw [if_pos hb, if_pos hb, answerMsg_ok 8 (by decide), respond_mg, (heard_parts s).1]
    rfl
  · have hword : s.heard.startRead.classWord (leAt p 0 2) (leAt p 2 1) = s.classWord (leAt p 0 2) (leAt p 2 1) :=
      classWord_congr (s := s) (t := s.heard.startRead) (heard_parts s).2.2.2.1
        ((rf_of_regs (startRead_regs s.heard) _).trans (heard_rf s (l := R.ALM_CTRL_WINDOW) (by decide))) _ _
    rw [if_neg hb, if_neg hb, answerMsg_ok 8 (by decide), respond_mg, heard_startRead_mg, hword]
    rfl

/-- ATTEST (R496, R514). -/
theorem attest_shows (hh : head = 9) (hp : p.length = 36) (hz : zeroAt p 1 3 = true) : ∃ t, exec (.attest head p) s = .next t ∧
    s.SameBut t [.freeCtr, .regs, .mg] ∧
    (leAt p 0 1 = 1 → t.mg.resp.length = 5020 ∧ (t.mg.resp.drop 17).take 32 = p.drop 4) ∧
    (leAt p 0 1 = 2 → t.mg.resp = vendorMsg 9 1 0 s.chainBytes) ∧
    (leAt p 0 1 ≠ 1 → leAt p 0 1 ≠ 2 → t.mg.resp = vendorMsg 9 1 0 [0xFF, 0xFF, 0xFF, 0xFF]) := by
  have hrun : exec (.attest head p) s = .next (answerMsg 9 (if !attestOk p then (ccOk, doeFail, s.heard)
      else (ccOk, (s.heard.attest p).1, (s.heard.attest p).2))) := by
    show execAttest head p s = _
    unfold execAttest
    rw [vendor_answers _ hst (by decide) hh hl (.inl h5), if_neg (by rw [hz]; simp [hp])]
  have hok : attestOk p = (leAt p 0 1 == 1 || leAt p 0 1 == 2) := by
    unfold attestOk
    rw [hp, hz, Bool.and_true]
    rfl
  refine ⟨_, hrun, sameBut_of_next hrun, fun h => ?_, fun h => ?_, fun h1 h2 => ?_⟩
  · rw [hok, h]
    obtain ⟨sig, hsig⟩ := attest_report (s := s.heard) (req := p) (by rw [h]; decide)
    have hresp : (answerMsg 9 (ccOk, (s.heard.attest p).1, (s.heard.attest p).2)).mg.resp =
        vendorMsg 9 1 0 (s.heard.reportBody (p.drop 4) ++ fitBytes 4627 sig) := by
      rw [answerMsg_ok 9 (by decide), ← hsig]
      rfl
    obtain ⟨hlen, hn⟩ := reportBody_shape s.heard (p.drop 4)
    show (answerMsg 9 (ccOk, (s.heard.attest p).1, (s.heard.attest p).2)).mg.resp.length = 5020 ∧
      ((answerMsg 9 (ccOk, (s.heard.attest p).1, (s.heard.attest p).2)).mg.resp.drop 17).take 32 = p.drop 4
    rw [hresp]
    refine ⟨?_, ?_⟩
    · rw [(length_vendorMsg _ _ _ _).1, List.length_append, hlen, length_fitBytes]
    · have hdrop : ∀ b : List Byte, b.drop 17 = (b.drop 9).drop 8 := fun b => (List.drop_drop (i := 8) (j := 9)).symm
      rw [hdrop, (length_vendorMsg _ _ _ _).2, List.drop_append_of_le_length (by omega),
        List.take_append_of_le_length (by rw [List.length_drop]; omega), hn]
      exact fitBytes_self (by rw [List.length_drop, hp])
  · rw [hok, h]
    show (answerMsg 9 (ccOk, (s.heard.attest p).1, (s.heard.attest p).2)).mg.resp = _
    rw [attest_chain h, answerMsg_ok 9 (by decide)]
    have hch : s.heard.chainBytes = s.chainBytes := by
      unfold State.chainBytes
      rw [(heard_parts s).2.2.2.1]
    rw [hch]
    rfl
  · rw [hok, beq_eq_false_iff_ne.mpr h1, beq_eq_false_iff_ne.mpr h2]
    show (answerMsg 9 (ccOk, doeFail, s.heard)).mg.resp = _
    rw [answerMsg_ok 9 (by decide)]
    rfl

end Requests

/-! ### Signed objects (R426, R505, R516) -/

theorem authOk_heard (s : State) (x : Signed) (sigs : List Verified) (cmd : Bool) : s.heard.authOk x sigs cmd = s.authOk x sigs cmd := by
  unfold State.authOk State.signers State.recordCounts
  rw [heard_rf s (l := R.MBL_DEVID_ID) (by decide), (heard_parts s).2.2.2.1]

/-- R516: what a checked object is answered. -/
def signedAnswer (r : SignedEnd × State) : Answer :=
  match r with
  | (.ok, t) => (ccOk, [], t)
  | (.auth, t) => (ccAuth, [], t)
  | (.state, t) | (.flash, t) => (ccRefused, [], t)

section Requests
variable {s : State} {head : BitVec 32} {p : List Byte} (hst : 2 ≤ s.stage) (hl : 9 + p.length ≤ 131072) (h5 : s.stage = 5) (hh : head = 10)
include hst hl h5 hh

/-- R516: an object that is not well formed. -/
theorem signedObject_invalid (sigs : List Verified) (flashOk : Bool) (m : Meas) (hx : parseSigned p = none) :
    ∃ t, exec (.signedObject head p sigs flashOk m) s = .next t ∧ s.SameBut t [.regs, .mg] ∧ t.mg.resp = vendorMsg 10 1 1 [] := by
  have hex : exec (.signedObject head p sigs flashOk m) s = .next (s.heard.faulted.respond (vendorMsg 10 1 1 [])) := by
    show execSignedObject head p sigs flashOk m s = _
    unfold execSignedObject
    rw [vendor_answers _ hst (by decide) hh hl (.inl h5), hx]
    rfl
  exact ⟨_, hex, (replied_same s _).2.parts, rfl⟩

theorem signedObject_runs (sigs : List Verified) (flashOk : Bool) (m : Meas) {x : Signed} (hx : parseSigned p = some x) :
    exec (.signedObject head p sigs flashOk m) s = .next (answerMsg 10 (signedAnswer (s.heard.applySigned x sigs false flashOk m))) := by
  show execSignedObject head p sigs flashOk m s = _
  unfold execSignedObject
  rw [vendor_answers _ hst (by decide) hh hl (.inl h5), hx]
  rfl

variable (hs : Store.Sorted s.regs)
include hs

/-- SIGNED_OBJECT (R426, R505, R516). -/
theorem signedObject_shows (sigs : List Verified) (flashOk : Bool) (m : Meas) {x : Signed} (hx : parseSigned p = some x) :
    ∃ t, exec (.signedObject head p sigs flashOk m) s = .next t ∧
      s.SameBut t [.regs, .fences, .pairs, .ports, .flash, .staged, .heldBack, .mg] ∧
      (s.authOk x sigs false = false → t.flash = s.flash ∧ t.fences = s.fences ∧ t.mg.resp = vendorMsg 10 1 4 [] ∧
        t.rf R.MBL_QREFUSED_COUNT = satAdd32 (s.rf R.MBL_QREFUSED_COUNT) 1) ∧
      (s.authOk x sigs false = true → x.action = 1 → s.flash.expelled = false →
        t.flash = s.flash.putHdr { s.flash.hdr with expelled := true, qseq := x.seq } ∧ (∀ q, q < 8 → t.isFenced (.port q) = true) ∧
        t.mg.resp = vendorMsg 10 1 0 []) ∧
      (s.authOk x sigs false = true → x.action = 2 → s.flash.expelled = false → t.flash = s.flash ∧ t.mg.resp = vendorMsg 10 1 2 []) := by
  have hex := signedObject_runs hst hl h5 hh sigs flashOk m hx
  obtain ⟨-, -, -, hfl, -, -, -, -, hfen⟩ := heard_parts s
  have hauth := authOk_heard s x sigs false
  refine ⟨_, hex, sameBut_of_next hex, fun ha => ?_, fun ha h1 he => ?_, fun ha h2 he => ?_⟩
  · rw [applySigned_auth (hauth.trans ha)]
    have hb := wf_frame s.heard R.MBL_QREFUSED_COUNT (satAdd32 (s.heard.rf R.MBL_QREFUSED_COUNT) 1)
    refine ⟨hfl, hfen, rfl, (respond_rf (s.heard.bump R.MBL_QREFUSED_COUNT 1) (vendorMsg 10 1 4 []) _).trans ?_⟩
    rw [rf_bump_self (sorted_heard hs) (l := R.MBL_QREFUSED_COUNT) (by decide), heard_rf s (by decide)]
    exact satAdd32_mod _ _
  · rw [applySigned_expels (hauth.trans ha) m flashOk h1 (by rw [hfl]; exact he)]
    have hsame := fencePorts_same (List.range 8) s.heard
    have hports := isFenced_fencePorts (List.range 8) (s := s.heard)
    have hpf : ((List.range 8).foldl State.fencePort s.heard).flash = s.flash := (hsame.flash.resolve_left (by decide)).trans hfl
    generalize (List.range 8).foldl State.fencePort s.heard = y at hports hpf
    refine ⟨?_, fun q hq => ?_, rfl⟩
    · refine (memberEntry_parts _ 7 x (s.heard.signers x sigs) m).1.trans ?_
      rw [hpf]
    · have hany : ((List.range 8).any fun r => Dom.port r == Dom.port q) = true :=
        List.any_eq_true.mpr ⟨q, List.mem_range.mpr hq, beq_self_eq_true (Dom.port q)⟩
      have hport := hports (.port q)
      rw [hany, Bool.or_true] at hport
      refine (isFenced_of_fences (s := y) ?_ _).trans hport
      exact (memberEntry_parts _ 7 x (s.heard.signers x sigs) m).2
  · rw [applySigned_state (hauth.trans ha) m flashOk (.inr ⟨h2, by rw [hfl]; exact he⟩)]
    exact ⟨hfl, rfl⟩

end Requests

/-! ### Subscriptions and events (R517) -/

theorem subscribe_mg (s : State) (b e k : Nat) : (s.subscribe b e k).mg = s.mg := by
  unfold State.subscribe
  split <;> rfl

/-- Two fields of a word are written: they show what they are given, and every other field of the word stays. -/
theorem twoFields {s : State} (hs : Store.Sorted s.regs) {l m i : Loc} {e k : Nat} (hl : l.Fits) (hm : m.Fits)
    (hlm : l.lo + l.wid ≤ m.lo ∨ m.lo + m.wid ≤ l.lo) (he : e < 2 ^ l.wid) (hk : k < 2 ^ m.wid)
    (hil : i.lo + i.wid ≤ l.lo ∨ l.lo + l.wid ≤ i.lo) (him : i.lo + i.wid ≤ m.lo ∨ m.lo + m.wid ≤ i.lo) :
    ((s.wf l e).wf m k).rf l = e ∧ ((s.wf l e).wf m k).rf m = k ∧ ((s.wf l e).wf m k).rf i = s.rf i :=
  ⟨(((Spares.refl l (s.wf l e)).wf hm (.inr hlm) k).rf (sorted_wf hs _ _)).trans (wf_last hs hl he),
    wf_last (sorted_wf hs _ _) hm hk, (((Spares.refl i s).wf hl (.inr hil) e).wf hm (.inr him) k).rf hs⟩

/-- R517: a subscription is the one of its binding only. -/
theorem subscribe_shows {s : State} (hs : Store.Sorted s.regs) (b : Fin 2) {e k : Nat} (he : e < 2 ^ 8) (hk : k < 2 ^ 3) :
    (s.subscribe b e k).subscriber b = (e, k) ∧ (s.subscribe b e k).subscriber (1 - b.val) = s.subscriber (1 - b.val) := by
  have hi := fun i => twoFields hs (l := R.STD_MG_SUB_I3C) (m := R.STD_MG_SUB_KINDS_I3C) (i := i) (by decide) (by decide) (by decide) he hk
  have hp := fun i => twoFields hs (l := R.STD_MG_SUB_PCIE) (m := R.STD_MG_SUB_KINDS_PCIE) (i := i) (by decide) (by decide) (by decide) he hk
  match b with
  | 0 =>
    obtain ⟨h1, h2, h3⟩ := hi R.STD_MG_SUB_PCIE (by decide) (by decide)
    obtain ⟨-, -, h4⟩ := hi R.STD_MG_SUB_KINDS_PCIE (by decide) (by decide)
    exact ⟨Prod.ext h1 h2, Prod.ext h3 h4⟩
  | 1 =>
    obtain ⟨h1, h2, h3⟩ := hp R.STD_MG_SUB_I3C (by decide) (by decide)
    obtain ⟨-, -, h4⟩ := hp R.STD_MG_SUB_KINDS_I3C (by decide) (by decide)
    exact ⟨Prod.ext h1 h2, Prod.ext h3 h4⟩

/-- SUBSCRIBE (R514, R517). -/
theorem subscribes_shows {s : State} (hs : Store.Sorted s.regs) {head : BitVec 32} {p : List Byte} (hst : 2 ≤ s.stage)
    (hl : 9 + p.length ≤ 131072) (h5 : s.stage = 5) (b : Fin 2) (hh : head = 11) (hp : p.length = 2) (h8 : leAt p 1 1 < 8) :
    ∃ t, exec (.subscribe b head p) s = .next t ∧ s.SameBut t [.regs, .mg] ∧ t.mg = { s.mg with resp := vendorMsg 11 1 0 [] } ∧
      t.subscriber b = (leAt p 0 1, if leAt p 0 1 = 0 then 0 else leAt p 1 1) ∧ t.subscriber (1 - b.val) = s.subscriber (1 - b.val) := by
  have hex : exec (.subscribe b head p) s =
      .next ((s.heard.subscribe b (leAt p 0 1) (if leAt p 0 1 = 0 then 0 else leAt p 1 1)).respond (vendorMsg 11 1 0 [])) := by
    show execSubscribe b head p s = _
    unfold execSubscribe
    rw [vendor_answers _ hst (by decide) hh hl (.inl h5), hp, decide_eq_true h8]
    rfl
  have hkinds : (if leAt p 0 1 = 0 then 0 else leAt p 1 1) < 2 ^ 3 := by
    split
    · decide
    · exact h8
  obtain ⟨g1, g2⟩ := subscribe_shows (sorted_heard hs) b (e := leAt p 0 1) (leAt_lt p 0 1) hkinds
  have hheard : s.heard.subscriber (1 - b.val) = s.subscriber (1 - b.val) := by
    unfold State.subscriber
    rw [heard_rf s (by decide), heard_rf s (by decide), heard_rf s (by decide), heard_rf s (by decide)]
  refine ⟨_, hex, sameBut_of_next hex, ?_, g1, g2.trans hheard⟩
  rw [respond_mg, subscribe_mg, (heard_parts s).1]

/-- EVENT_ANSWER (R517). -/
theorem eventAnswer_shows {s : State} (hst : 2 ≤ s.stage) (b : Fin 2) : ∃ t, exec (.eventAnswer b) s = .next t ∧ s.SameBut t [.regs, .mg] ∧
    t.mg = { s.mg with open_ := s.mg.open_.set b (s.mg.open_.getD b 0 - 1) } := by
  have hex : exec (.eventAnswer b) s = .next _ := congrArg Host.Outcome.next (received_eq hst _)
  refine ⟨_, hex, sameBut_of_next hex, ?_⟩
  dsimp only
  rw [(heard_parts s).1]

/-! ### MCTP control and the I3C endpoint (R508, R509) -/

theorem heard_eid (s : State) (b : Nat) : s.heard.eid b = s.eid b := by
  unfold State.eid
  rw [heard_rf s (by decide), heard_rf s (by decide)]

theorem respond_eid (s : State) (l : List Byte) (b : Nat) : (s.respond l).eid b = s.eid b := rfl

/-- R508: a binding takes an EID. -/
def State.withEid (s : State) (b : Fin 2) (e : Byte) : State := s.wf (if b.val = 0 then R.STD_MG_EID_I3C else R.STD_MG_EID_PCIE) e.toNat

theorem withEid_shows {s : State} (hs : Store.Sorted s.regs) (b : Fin 2) (e : Byte) : (s.withEid b e).eid b = e.toNat ∧
    (s.withEid b e).eid (1 - b.val) = s.eid (1 - b.val) ∧ (s.withEid b e).rf R.STD_MG_RX_CNT_COUNT = s.rf R.STD_MG_RX_CNT_COUNT := by
  match b with
  | 0 => exact ⟨wf_last (l := R.STD_MG_EID_I3C) hs (by decide) e.isLt,
      ((Spares.refl R.STD_MG_EID_PCIE s).wf (m := R.STD_MG_EID_I3C) (by decide) (.inr (by decide)) _).rf hs,
      ((Spares.refl R.STD_MG_RX_CNT_COUNT s).wf_far (m := R.STD_MG_EID_I3C) (by decide) _).rf hs⟩
  | 1 => exact ⟨wf_last (l := R.STD_MG_EID_PCIE) hs (by decide) e.isLt,
      ((Spares.refl R.STD_MG_EID_I3C s).wf (m := R.STD_MG_EID_PCIE) (by decide) (.inr (by decide)) _).rf hs,
      ((Spares.refl R.STD_MG_RX_CNT_COUNT s).wf_far (m := R.STD_MG_EID_PCIE) (by decide) _).rf hs⟩

theorem withEid_mg (s : State) (b : Fin 2) (e : Byte) : (s.withEid b e).mg = s.mg := rfl

/-- R508, R509: what the endpoint of binding `b` answers to a control request. -/
def State.controlled (s : State) (b : Fin 2) (r : MctpReq) (t : State) : Prop :=
  match r with
  | .getEid => t.mg = { s.mg with resp := [0, BitVec.ofNat 8 (s.eid b)] } ∧ t.eid b = s.eid b
  | .setEid e =>
    if e = 0 ∨ e = 0xFF then t.eid b = s.eid b ∧ t.mg = { s.mg with resp := [2] } ∧
      t.rf R.STD_MG_ERR_CNT_COUNT = satAdd32 (s.rf R.STD_MG_ERR_CNT_COUNT) 1
    else t.eid b = e.toNat ∧ t.eid (1 - b.val) = s.eid (1 - b.val) ∧ t.mg = { s.mg with resp := [0, e] }
  | .getTypes => t.mg = { s.mg with resp := [0, 3, 0, 1, 0x7F] }
  | .getVersion => t.mg = { s.mg with resp := t.mg.resp } ∧ t.mg.resp.head? = some 0
  | .getVendor sel => t.mg = { s.mg with resp := t.mg.resp } ∧
    (sel = 0 → t.mg.resp.length = 9 ∧ t.mg.resp.take 7 = [0, 0xFF, 1, 0, 0, 0xA6, 0xE3]) ∧ (sel ≠ 0 → t.mg.resp = [2])

/-- The reply to a request in error. -/
theorem badReply {s : State} (hs : Store.Sorted s.regs) (l : List Byte) : (s.heard.faulted.respond l).mg = { s.mg with resp := l } ∧
    (s.heard.faulted.respond l).rf R.STD_MG_RX_CNT_COUNT = satAdd32 (s.rf R.STD_MG_RX_CNT_COUNT) 1 ∧
    (s.heard.faulted.respond l).rf R.STD_MG_ERR_CNT_COUNT = satAdd32 (s.rf R.STD_MG_ERR_CNT_COUNT) 1 ∧
    ∀ b, (s.heard.faulted.respond l).eid b = s.eid b := by
  obtain ⟨hrx, herr⟩ := heard_faulted hs
  refine ⟨?_, (respond_rf _ _ _).trans hrx, (respond_rf _ _ _).trans herr, fun b => ?_⟩
  · rw [respond_mg, (congrArg State.mg (faulted_frame s.heard) :), (heard_parts s).1]
  · have hk : ∀ m : Loc, m.addr ≠ A.STD_MG_ERR_CNT → s.heard.faulted.rf m = s.heard.rf m := fun m hm => ((Spares.refl m s.heard).faulted hm).rf (sorted_heard hs)
    rw [respond_eid, ← heard_eid s]
    unfold State.eid
    rw [hk R.STD_MG_EID_I3C (by decide), hk R.STD_MG_EID_PCIE (by decide)]

theorem setEid_runs {s : State} (hst : 2 ≤ s.stage) (b : Fin 2) (e : Byte) : exec (.mctpControl b (.setEid e)) s = .next
    (if e = 0 ∨ e = 0xFF then s.heard.faulted.respond (leBytes 1 2) else (s.heard.withEid b e).respond (leBytes 1 0 ++ leBytes 1 e.toNat)) :=
  congrArg Host.Outcome.next (received_eq hst _)

theorem getVendor_runs {s : State} (hst : 2 ≤ s.stage) (b : Fin 2) (sel : Byte) : exec (.mctpControl b (.getVendor sel)) s = .next
    (if sel ≠ 0 then s.heard.faulted.respond (leBytes 1 2) else (s.heard.freeBytes 2).2.respond
      (leBytes 1 0 ++ leBytes 1 0xFF ++ leBytes 1 1 ++ ianaBytes ++ (s.heard.freeBytes 2).1)) :=
  congrArg Host.Outcome.next (received_eq hst _)

theorem freeBytes_parts (s : State) (n : Nat) : (s.freeBytes n).1.length = n ∧ (s.freeBytes n).2.mg = s.mg ∧ (s.freeBytes n).2.regs = s.regs ∧
    (s.freeBytes n).2.now = s.now ∧ (s.freeBytes n).2.pwr = s.pwr :=
  ⟨(List.length_map _).trans List.length_range, rfl, rfl, rfl, rfl⟩

/-- MCTP_CONTROL (R508, R509). -/
theorem mctpControl_shows {s : State} (hs : Store.Sorted s.regs) (hst : 2 ≤ s.stage) (b : Fin 2) (r : MctpReq) :
    ∃ t, exec (.mctpControl b r) s = .next t ∧ s.SameBut t [.freeCtr, .regs, .mg] ∧
      t.rf R.STD_MG_RX_CNT_COUNT = satAdd32 (s.rf R.STD_MG_RX_CNT_COUNT) 1 ∧ s.controlled b r t := by
  have hmg := (heard_parts s).1
  have hrx := heard_count hs
  cases r with
  | getEid =>
    have hex : exec (.mctpControl b .getEid) s = .next (s.heard.respond (leBytes 1 0 ++ leBytes 1 (s.heard.eid b))) :=
      congrArg Host.Outcome.next (received_eq hst _)
    refine ⟨_, hex, sameBut_of_next hex, (respond_rf _ _ _).trans hrx, ?_, heard_eid s b⟩
    rw [respond_mg, hmg, heard_eid]
    rfl
  | setEid e =>
    have hex := setEid_runs hst b e
    refine ⟨_, hex, sameBut_of_next hex, ?_⟩
    show _ ∧ (if _ then _ else _)
    by_cases he : e = 0 ∨ e = 0xFF
    · rw [if_pos he, if_pos he]
      obtain ⟨h1, h2, h3, h4⟩ := badReply hs (leBytes 1 2)
      exact ⟨h2, h4 b, h1, h3⟩
    · rw [if_neg he, if_neg he]
      obtain ⟨h1, h2, h3⟩ := withEid_shows (sorted_heard hs) b e
      refine ⟨(respond_rf _ _ _).trans (h3.trans hrx), h1, h2.trans (heard_eid s _), ?_⟩
      have hbyte : leBytes 1 e.toNat = [e] := congrArg (fun x => [x]) ((BitVec.ofNat_toNat 8 e).trans (BitVec.setWidth_eq e))
      rw [respond_mg, withEid_mg, hmg, hbyte]
      rfl
  | getVersion =>
    have hex : exec (.mctpControl b .getVersion) s = .next (s.heard.respond (leBytes 1 0 ++ leBytes 1 1 ++ leBytes 4 0x00F0F3F1)) :=
      congrArg Host.Outcome.next (received_eq hst _)
    refine ⟨_, hex, sameBut_of_next hex, (respond_rf _ _ _).trans hrx, ?_, rfl⟩
    rw [respond_mg, hmg]
  | getTypes =>
    have hex : exec (.mctpControl b .getTypes) s =
        .next (s.heard.respond (leBytes 1 0 ++ leBytes 1 3 ++ leBytes 1 0 ++ leBytes 1 1 ++ leBytes 1 0x7F)) :=
      congrArg Host.Outcome.next (received_eq hst _)
    refine ⟨_, hex, sameBut_of_next hex, (respond_rf _ _ _).trans hrx, ?_⟩
    show _ = _
    rw [respond_mg, hmg]
    rfl
  | getVendor sel =>
    have hex := getVendor_runs hst b sel
    refine ⟨_, hex, sameBut_of_next hex, ?_⟩
    by_cases h : sel = 0
    · rw [if_neg (not_not.mpr h)]
      obtain ⟨hlen, hm, hr, -⟩ := freeBytes_parts s.heard 2
      refine ⟨(respond_rf _ _ _).trans ((rf_of_regs hr _).trans hrx), ?_, fun _ => ⟨?_, rfl⟩, fun hn => absurd h hn⟩
      · rw [respond_mg, hm, hmg]
      · rw [respond_mg]
        exact congrArg (· + 2) (rfl : 7 = 7)
    · rw [if_pos h]
      obtain ⟨h1, h2, -⟩ := badReply hs (leBytes 1 2)
      exact ⟨h2, by rw [h1], fun h0 => absurd h0 h, fun _ => rfl⟩

/-- R509: what DADDR becomes. -/
def State.assigned (s : State) (how : I3cAssign) (a : BitVec 7) : Nat :=
  match how with
  | .entdaa => a.toNat
  | .setdasa st => if st.toNat = 0x30 + s.rf R.STD_STRAP_SLOT_ID then a.toNat else s.rf R.STD_MG_EID_DADDR

/-- DYNAMIC_ADDRESS_ASSIGN (R509, R527). -/
theorem dynamicAddressAssign_shows {s : State} (hs : Store.Sorted s.regs) (hst : 2 ≤ s.stage) (how : I3cAssign) (a : BitVec 7) :
    ∃ t, exec (.dynamicAddressAssign how a) s = .next t ∧ { t with regs := s.regs } = s ∧ t.rf R.STD_MG_EID_DADDR = s.assigned how a := by
  have htake : (s.wf R.STD_MG_EID_DADDR a.toNat).rf R.STD_MG_EID_DADDR = a.toNat := wf_last (l := R.STD_MG_EID_DADDR) hs (by decide) a.isLt
  have hstage : ¬ s.stage < 2 := Nat.not_lt.mpr hst
  cases how with
  | entdaa => exact ⟨_, if_neg hstage, wf_frame s _ _, htake⟩
  | setdasa st =>
    by_cases h : st.toNat = 0x30 + s.rf R.STD_STRAP_SLOT_ID
    · exact ⟨_, (if_neg hstage).trans (if_pos h), wf_frame s _ _, htake.trans (if_pos h).symm⟩
    · exact ⟨_, (if_neg hstage).trans (if_neg h), rfl, (if_neg h).symm⟩

/-! ### PLDM monitoring (R508, R510, R511) -/

theorem State.SameBounds.aStar {s t : State} (h : s.SameBounds t) : t.aStar = s.aStar := by
  have hal : t.allot = s.allot := h.reg R.PWR_ALLOT_ALLOT (Or.inl rfl)
  unfold State.aStar
  rw [h.now, hal, h.aHist, h.harrowCap]

/-- R511: a monitoring command is answered, with `v` for a version that the manual does not state. -/
def State.monitored (u : State) (v : List Byte) (r : PldmReq) : State :=
  let t := u.respond (u.pldm v r)
  match r with
  | .setTid tid => { t with mg := { t.mg with tid := tid.toNat } }
  | _ => t

theorem monitored_resp (u : State) (v : List Byte) (r : PldmReq) : (u.monitored v r).mg.resp = u.pldm v r := by cases r <;> rfl

theorem monitored_mg (u : State) (v : List Byte) (r : PldmReq) :
    { (u.monitored v r).mg with resp := u.mg.resp, tid := u.mg.tid } = u.mg := by cases r <;> rfl

/-- The state that answers a monitoring command. -/
def State.drawn (s : State) : State := (s.heard.freeBytes 8).2

theorem pldm_runs {s : State} (hst : 2 ≤ s.stage) (h5 : s.stage = 5) (r : PldmReq) :
    exec (.pldmMonitor r) s = .next (s.drawn.monitored (s.heard.freeBytes 8).1 r) :=
  congrArg Host.Outcome.next ((received_eq hst _).trans (if_neg (not_not.mpr ((heard_stage s).trans h5))))

theorem drawn_rf (s : State) {l : Loc} (h : l.addr ≠ A.STD_MG_RX_CNT) : s.drawn.rf l = s.rf l :=
  (rf_of_regs (freeBytes_parts s.heard 8).2.2.1 l).trans (heard_rf s h)

theorem drawn_bounds (s : State) : s.SameBounds s.drawn := (heard_bounds s).trans ⟨fun _ _ => rfl, rfl, rfl, rfl, rfl, rfl, rfl⟩

theorem drawn_mg (s : State) : s.drawn.mg = s.mg := (heard_parts s).1

/-- R511: the sensors of the dies. -/
theorem sensor_die (s : State) (f : Fin 4) : s.sensor (BitVec.ofNat 16 (16 + f)).toNat = some (signed8 (s.rf (R.PWR_FLD_TJ f))) := by
  match f with
  | 0 => rfl
  | 1 => rfl
  | 2 => rfl
  | 3 => rfl

/-- PLDM_MONITOR (R508, R510, R511). -/
theorem pldmMonitor_shows {s : State} (hst : 2 ≤ s.stage) (r : PldmReq) : ∃ t, exec (.pldmMonitor r) s = .next t ∧
    s.SameBut t [.freeCtr, .regs, .mg] ∧
    (s.stage ≠ 5 → t.mg = { s.mg with resp := [4] }) ∧
    (s.stage = 5 → { t.mg with resp := s.mg.resp, tid := s.mg.tid } = s.mg ∧
      (∀ tid, r = .setTid tid → t.mg.tid = tid.toNat ∧ t.mg.resp = [0]) ∧
      (r = .getTid → t.mg.resp = [0, BitVec.ofNat 8 s.mg.tid] ∧ t.mg.tid = s.mg.tid) ∧
      (r = .getSensor 3 → t.mg.resp = 0 :: leBytes 4 (s.rf R.PWR_IN_P_W)) ∧
      (r = .getSensor 11 → t.mg.resp = 0 :: leBytes 4 (10 * s.aStar)) ∧
      (r = .getSensor 12 → t.mg.resp = 0 :: leBytes 4 (10 * s.limitE)) ∧
      (∀ f : Fin 4, ∀ x, x = s.rf (R.PWR_FLD_TJ f) → r = .getSensor (BitVec.ofNat 16 (16 + f)) →
        t.mg.resp = 0 :: leBytes 4 (if x < 128 then x else 2 ^ 32 - 256 + x)) ∧
      (∀ ty, r = .getVersion ty → ty = 0 ∨ ty = 2 ∨ ty = 5 → t.mg.resp.length = 14 ∧ t.mg.resp.take 6 = [0, 0, 0, 0, 0, 5]) ∧
      (∀ ty l, r = .getCommands ty → (ty, l) ∈ [((0 : Byte), [1, 2, 3, 4, 5]), (2, [0x11, 0x21, 0x50, 0x51]),
          (5, [0x10, 0x14, 0x1A, 0x1D])] → t.mg.resp = 0 :: commandMask l) ∧
      (r = .getState 1 → t.mg.resp = [0, BitVec.ofNat 8 (s.rf R.FCOL_STAT_DEVFATAL)]) ∧
      (r = .getPdrInfo → t.mg.resp = 0 :: leBytes 4 41)) := by
  by_cases h5 : s.stage = 5
  · have hex := pldm_runs hst h5 r
    have hresp := monitored_resp s.drawn (s.heard.freeBytes 8).1 r
    have hmg := monitored_mg s.drawn (s.heard.freeBytes 8).1 r
    rw [drawn_mg] at hmg
    refine ⟨_, hex, sameBut_of_next hex, fun h => absurd h5 h, fun _ => ⟨hmg, fun tid h => ?_, fun h => ?_, fun h => ?_, fun h => ?_,
      fun h => ?_, fun f x hx h => ?_, fun ty h hty => ?_, fun ty l h hty => ?_, fun h => ?_, fun h => ?_⟩⟩
    · subst h
      exact ⟨rfl, rfl⟩
    · subst h
      rw [hresp]
      refine ⟨?_, (congrArg MgSt.tid (drawn_mg s) : s.drawn.mg.tid = s.mg.tid)⟩
      show [0, BitVec.ofNat 8 s.drawn.mg.tid] = _
      rw [drawn_mg]
    · subst h
      rw [hresp, ← drawn_rf s (l := R.PWR_IN_P_W) (by decide)]
      rfl
    · subst h
      rw [hresp, ← (drawn_bounds s).aStar]
      rfl
    · subst h
      rw [hresp, ← (drawn_bounds s).limitE]
      rfl
    · subst h hx
      rw [hresp, ← drawn_rf s (l := R.PWR_FLD_TJ f) (by
        show A.PWR_FLD f ≠ _
        unfold A.PWR_FLD A.STD_MG_RX_CNT Page.powerBase Page.mgmtBase
        omega)]
      unfold State.pldm
      dsimp only
      rw [sensor_die]
      rfl
    · subst h
      rw [hresp]
      rcases hty with rfl | rfl | rfl
      · exact ⟨rfl, rfl⟩
      · exact ⟨rfl, rfl⟩
      · exact ⟨rfl, rfl⟩
    · subst h
      rw [hresp]
      simp only [List.mem_cons, Prod.mk.injEq, List.not_mem_nil, or_false] at hty
      rcases hty with ⟨rfl, rfl⟩ | ⟨rfl, rfl⟩ | ⟨rfl, rfl⟩
      · rfl
      · rfl
      · rfl
    · subst h
      rw [hresp, ← drawn_rf s (l := R.FCOL_STAT_DEVFATAL) (by decide)]
      rfl
    · subst h
      rw [hresp]
      rfl
  · have hex : exec (.pldmMonitor r) s = .next (s.heard.respond pldmNotReady) :=
      congrArg Host.Outcome.next ((received_eq hst _).trans (if_pos fun h => h5 ((heard_stage s).symm.trans h)))
    refine ⟨_, hex, sameBut_of_next hex, fun _ => ?_, fun h => absurd h h5⟩
    rw [respond_mg, (heard_parts s).1]
    rfl

/-! ### The statement -/

/-- Settles O59: a message is counted, answered and carried out (the fault log's window is log 42's, BUSY log 55's, the codes and
the unstated bytes of MCTP control and PLDM log 43's). -/
theorem managementAnswers : Obligations.ManagementAnswers := by
  intro b head p sigs flashOk m got busy s hc hst
  refine ⟨fun i cmd hi hn => vendorRequest_shows hc hst hi hn, fun hl => ⟨getStatus_shows hst hl, fun h5 d hd => ⟨setAllot_shows hc hst hl h5,
    getForecast_shows hst hl h5, fun hh hp hin j c hj hcap => setPlanCap_shows hc hst hl h5 hh hp hin hd hj hcap,
    fun hh hp hlt => setAlign_shows hc hst hl h5 hh hp hlt hd,
    fun _ _ hh hp hwr hw h8 hlen => readFaultlog_shows hst hl h5 hh hp hwr hw h8 hlen, readAlmanac_shows hst hl h5 got busy,
    classify_shows hst hl h5 busy, attest_shows hst hl h5, fun hh hx => signedObject_invalid hst hl h5 hh sigs flashOk m hx,
    fun x hh hx => signedObject_shows hst hl h5 hh hc.regs sigs flashOk m hx, subscribes_shows hc.regs hst hl h5 b⟩⟩,
    eventAnswer_shows hst b, fun r => ?_, fun how a => ?_, pldmMonitor_shows hst⟩
  · obtain ⟨t, hex, hsame, hrx, hr⟩ := mctpControl_shows hc.regs hst b r
    refine ⟨t, hex, hsame, hrx, ?_⟩
    cases r with
    | getEid => exact hr
    | setEid e => exact hr
    | getVersion => exact hr
    | getTypes => exact hr
    | getVendor sel => exact hr
  · obtain ⟨t, hex, hframe, hd⟩ := dynamicAddressAssign_shows hc.regs hst how a
    refine ⟨t, hex, hframe, ?_⟩
    cases how with
    | setdasa st => exact hd
    | entdaa => exact hd

end Sys2Proof.Machine


/-! Firmware updates: sessions (R491, R497), and those that an agent opens (R512): O60. -/

namespace Sys2Proof.Machine

/-! ### Update sessions (R497) -/

theorem firstCause_lt {l : List (Bool × Nat)} {n : Nat} (h0 : 0 < n) (h : ∀ e ∈ l, e.2 < n) : firstCause l < n := by
  unfold firstCause
  cases hf : l.find? fun e => !e.1 with
  | none => exact h0
  | some e => exact h e (List.mem_of_find?_eq_some hf)

/-- R491: the causes of the checks that an image's header meets are those of the table. -/
theorem headerCause_lt (s : State) (h : List Byte) (sig flashOk : Bool) : firstCause (s.headerChecks h sig ++ [(flashOk, 9)]) < 10 := by
  refine firstCause_lt (by decide) fun e he => ?_
  simp only [State.headerChecks, List.mem_append, List.mem_cons, List.not_mem_nil, or_false] at he
  rcases he with (rfl | rfl | rfl | rfl | rfl | rfl) | rfl <;> exact Nat.le_of_ble_eq_true rfl

/-- R491: the causes of the checks that an image's body meets. -/
theorem bodyCause_lt (s : State) (h : List Byte) (flashOk : Bool) : firstCause (s.bodyChecks h flashOk) < 10 := by
  refine firstCause_lt (by decide) fun e he => ?_
  simp only [State.bodyChecks, List.mem_cons, List.not_mem_nil, or_false] at he
  rcases he with rfl | rfl <;> exact Nat.le_of_ble_eq_true rfl

/-- R507: another field of `SEC_UPD_STAT` is written. -/
theorem upStat_kept {s : State} (hs : Store.Sorted s.regs) {l m : Loc} (hm : m.Fits) (h : l.lo + l.wid ≤ m.lo ∨ m.lo + m.wid ≤ l.lo) (v : Nat) :
    (s.wf m v).rf l = s.rf l := ((Spares.refl l s).wf hm (.inr h) v).rf hs

/-- R497: the state and the cause that a failed session shows. -/
def State.upEnded (s : State) (cause : Nat) : State := (s.wf R.SEC_UPD_STAT_STATE upError).wf R.SEC_UPD_STAT_ERR cause

theorem upEnded_frame (s : State) (c : Nat) : { s.upEnded c with regs := s.regs } = s := regsFrame_wf (wf_frame s _ _) _ _

theorem upFail_eq (s : State) (c : Nat) : s.upFail c = if c ≤ 9 then (s.upEnded c).raiseSrc Page.securityBase 0 else s.upEnded c := rfl

theorem upFail_parts (s : State) (c : Nat) : (s.upFail c).flash = s.flash ∧ (s.upFail c).sec = s.sec ∧ (s.upFail c).mg = s.mg :=
  have h := State.upFail_same (.refl 8589934600 s) rfl c
  ⟨h.flash.resolve_left (by decide), h.sec.resolve_left (by decide), h.mg.resolve_left (by decide)⟩

theorem upd_noErr {l : Loc} (h : l.addr = A.SEC_UPD_STAT) : l.NoErr Page.securityBase :=
  Loc.noErr_of_page (.inr (h ▸ (by decide : Page.securityBase + 0x28 ≤ A.SEC_UPD_STAT)))

/-- R497: a session that fails. -/
theorem upFail_shows {s : State} (hs : Store.Sorted s.regs) {c : Nat} (hc : c < 16) : (s.upFail c).upState = upError ∧
    (s.upFail c).rf R.SEC_UPD_STAT_ERR = c ∧ (s.upFail c).upOwner = s.upOwner ∧ Store.Sorted (s.upFail c).regs := by
  have hs1 := sorted_wf hs R.SEC_UPD_STAT_STATE upError
  have hs2 : Store.Sorted (s.upEnded c).regs := sorted_wf hs1 _ _
  have h1 : (s.upEnded c).upState = upError := (upStat_kept hs1 (by decide) (by decide) c).trans (wf_last hs (by decide) (by decide))
  have h2 : (s.upEnded c).rf R.SEC_UPD_STAT_ERR = c := wf_last hs1 (by decide) hc
  have h3 : (s.upEnded c).upOwner = s.upOwner := (upStat_kept hs1 (by decide) (by decide) c).trans (upStat_kept hs (by decide) (by decide) _)
  rw [upFail_eq]
  generalize s.upEnded c = u at hs2 h1 h2 h3
  split
  · have hk : ∀ l : Loc, l.addr = A.SEC_UPD_STAT → (u.raiseSrc Page.securityBase 0).rf l = u.rf l := fun l hl =>
      ((Spares.refl l u).raiseSrc (upd_noErr hl) 0).rf hs2
    exact ⟨(hk _ rfl).trans h1, (hk _ rfl).trans h2, (hk _ rfl).trans h3, sorted_raiseSrc hs2 _ _⟩
  · exact ⟨h1, h2, h3, hs2⟩

/-! #### BEGIN -/

/-- R497(1): a session of another owner is in progress. -/
theorem updateBegin_foreign {s : State} {owner : Nat} {h : List Byte} {sig ok : Bool} (hu : s.updatable owner = true) (ho : s.upOpen = true)
    (hn : s.upOwner ≠ owner) : s.updateBegin owner h sig ok = s.wf R.SEC_UPD_STAT_ERR 11 := by
  unfold State.updateBegin
  rw [hu, ho, Bool.true_and, bne_iff_ne.mpr hn]
  rfl

/-- R497(1): a session of `owner`. -/
def State.owned (s : State) (owner : Nat) : State := s.wf R.SEC_UPD_STAT_OWNER owner

/-- R497(1): the session begins: the header is held and the one in flash is gone. -/
def State.imageBegun (s : State) (h : List Byte) : State :=
  let s := { s with sec := { s.sec with upHeader := h }, flash := { s.flash with header := none } }
  ((s.wf R.SEC_UPD_STAT_STATE upReceiving).wf R.SEC_UPD_STAT_ERR 0).wf R.SEC_UPD_RCVD_BYTES 0

theorem updateBegin_own {s : State} {owner : Nat} {h : List Byte} {sig ok : Bool} (hu : s.updatable owner = true)
    (ho : s.upOpen = false ∨ s.upOwner = owner) : s.updateBegin owner h sig ok =
      if firstCause (s.headerChecks h sig ++ [(ok, 9)]) ≠ 0 then (s.owned owner).upFail (firstCause (s.headerChecks h sig ++ [(ok, 9)]))
      else (s.owned owner).imageBegun h := by
  have hno : (s.upOpen && s.upOwner != owner) = false := by
    rcases ho with h1 | h1
    · rw [h1, Bool.false_and]
    · rw [bne_eq_false_iff_eq.mpr h1, Bool.and_false]
  unfold State.updateBegin
  rw [hu, hno]
  rfl

theorem imageBegun_parts (s : State) (h : List Byte) : (s.imageBegun h).sec = { s.sec with upHeader := h } ∧
    (s.imageBegun h).flash = { s.flash with header := none } ∧ (s.imageBegun h).mg = s.mg := ⟨rfl, rfl, rfl⟩

theorem owned_parts (s : State) (owner : Nat) : (s.owned owner).sec = s.sec ∧ (s.owned owner).flash = s.flash ∧ (s.owned owner).mg = s.mg :=
  have h := wf_frame s R.SEC_UPD_STAT_OWNER owner
  ⟨(congrArg State.sec h :), (congrArg State.flash h :), (congrArg State.mg h :)⟩

/-- The registers of a session that begins. -/
theorem imageBegun_regs (s : State) (h : List Byte) : (s.imageBegun h).regs =
    (((s.wf R.SEC_UPD_STAT_STATE upReceiving).wf R.SEC_UPD_STAT_ERR 0).wf R.SEC_UPD_RCVD_BYTES 0).regs := rfl

theorem imageBegun_shows {s : State} (hs : Store.Sorted s.regs) (h : List Byte) : (s.imageBegun h).upState = upReceiving ∧
    (s.imageBegun h).rf R.SEC_UPD_STAT_ERR = 0 ∧ (s.imageBegun h).upOwner = s.upOwner ∧ (s.imageBegun h).rf R.SEC_UPD_RCVD_BYTES = 0 := by
  have hs1 := sorted_wf hs R.SEC_UPD_STAT_STATE upReceiving
  have hs2 := sorted_wf hs1 R.SEC_UPD_STAT_ERR 0
  have hr := fun l => rf_of_regs (imageBegun_regs s h) l
  have hfar : ∀ l : Loc, l.addr = A.SEC_UPD_STAT → (((s.wf R.SEC_UPD_STAT_STATE upReceiving).wf R.SEC_UPD_STAT_ERR 0).wf R.SEC_UPD_RCVD_BYTES 0).rf l =
      ((s.wf R.SEC_UPD_STAT_STATE upReceiving).wf R.SEC_UPD_STAT_ERR 0).rf l := fun l hl =>
    ((Spares.refl l _).wf_far (m := R.SEC_UPD_RCVD_BYTES) (ne_of_eq_of_ne hl (by decide)) _).rf hs2
  refine ⟨(hr _).trans ((hfar _ rfl).trans ?_), (hr _).trans ((hfar _ rfl).trans ?_), (hr _).trans ((hfar _ rfl).trans ?_), (hr _).trans ?_⟩
  · exact (upStat_kept hs1 (by decide) (by decide) 0).trans (wf_last hs (by decide) (by decide))
  · exact wf_last hs1 (by decide) (by decide)
  · exact (upStat_kept hs1 (by decide) (by decide) 0).trans (upStat_kept hs (by decide) (by decide) _)
  · exact wf_last hs2 (by decide) (by decide)

/-- R491, R497(1): what BEGIN of `owner` leaves. -/
structure State.Begun (s t : State) (owner : Nat) (h : List Byte) (k : Nat) : Prop where
  owner : t.upOwner = owner
  mg : t.mg = s.mg
  fails : k ≠ 0 → t.upState = upError ∧ t.rf R.SEC_UPD_STAT_ERR = k ∧ t.flash = s.flash
  begins : k = 0 → t.upState = upReceiving ∧ t.rf R.SEC_UPD_STAT_ERR = 0 ∧ t.rf R.SEC_UPD_RCVD_BYTES = 0 ∧ t.sec.upHeader = h ∧
    t.flash = { s.flash with header := none }

theorem updateBegin_shows {s : State} (hs : Store.Sorted s.regs) {owner : Nat} (h2 : owner < 2) {h : List Byte} {sig ok : Bool}
    (hu : s.updatable owner = true) (ho : s.upOpen = false ∨ s.upOwner = owner) :
    s.Begun (s.updateBegin owner h sig ok) owner h (firstCause (s.headerChecks h sig ++ [(ok, 9)])) := by
  rw [updateBegin_own hu ho]
  have hlt := headerCause_lt s h sig ok
  generalize firstCause (s.headerChecks h sig ++ [(ok, 9)]) = k at hlt
  have hso : Store.Sorted (s.owned owner).regs := sorted_wf hs _ _
  have hown : (s.owned owner).upOwner = owner := wf_last hs (by decide) h2
  obtain ⟨hsec, hfl, hmg⟩ := owned_parts s owner
  generalize s.owned owner = u at hso hown hsec hfl hmg
  by_cases h0 : k = 0
  · rw [if_neg (not_not.mpr h0)]
    obtain ⟨p1, p2, p3⟩ := imageBegun_parts u h
    obtain ⟨g1, g2, g3, g4⟩ := imageBegun_shows hso h
    exact ⟨g3.trans hown, p3.trans hmg, fun hn => absurd h0 hn, fun _ => ⟨g1, g2, g4, by rw [p1], by rw [p2, hfl]⟩⟩
  · rw [if_pos h0]
    obtain ⟨p1, p2, p3⟩ := upFail_parts u k
    obtain ⟨g1, g2, g3, -⟩ := upFail_shows hso (c := k) (by omega)
    exact ⟨g3.trans hown, p3.trans hmg, fun _ => ⟨g1, g2, p1.trans hfl⟩, fun h => absurd h h0⟩

/-! #### DATA, FINISH, CANCEL -/

/-- R497(2): a part of the body is being programmed. -/
def State.partTaken (s : State) (off : Nat) (b : List Byte) : State :=
  let got := s.rf R.SEC_UPD_RCVD_BYTES
  let s := { s with flash := { s.flash with body := s.flash.body.writeN hostUnit (bodyOffset off) b } }
  (s.wf R.SEC_UPD_STAT_STATE upBusy).wf R.SEC_UPD_RCVD_BYTES (got + b.length)

/-- R497: an owner's session that takes its command. -/
structure State.Receives (s : State) (owner : Nat) : Prop where
  updatable : s.updatable owner = true
  state : s.upState = upReceiving
  owner : s.upOwner = owner

theorem State.Receives.gate {s : State} {owner : Nat} (h : s.Receives owner) :
    (!s.updatable owner || s.upState != upReceiving || s.upOwner != owner) = false := by
  rw [h.updatable, h.state, h.owner, bne_self_eq_false, bne_self_eq_false]
  rfl

theorem updateData_taken {s : State} {owner off : Nat} {b : List Byte} (hr : s.Receives owner) (ho : off = s.rf R.SEC_UPD_RCVD_BYTES) (hb : b ≠ [])
    (h64 : b.length ≤ 65536) (hlen : s.rf R.SEC_UPD_RCVD_BYTES + b.length ≤ imgBody s.sec.upHeader) : s.updateData owner off b = s.partTaken off b := by
  have hpos : b.length ≠ 0 := fun h => hb (List.length_eq_zero_iff.mp h)
  unfold State.updateData
  rw [hr.gate, if_neg Bool.false_ne_true]
  exact if_neg (by omega)

theorem updateData_refused {s : State} {owner off : Nat} {b : List Byte} (hr : s.Receives owner)
    (h : off ≠ s.rf R.SEC_UPD_RCVD_BYTES ∨ b = [] ∨ imgBody s.sec.upHeader < s.rf R.SEC_UPD_RCVD_BYTES + b.length) :
    s.updateData owner off b = s.upEnded 10 := by
  unfold State.updateData
  rw [hr.gate, if_neg Bool.false_ne_true]
  refine (if_pos ?_).trans rfl
  rcases h with h | h | h
  · exact .inl h
  · exact .inr (.inl (congrArg List.length h))
  · exact .inr (.inr (.inr h))

theorem partTaken_parts (s : State) (off : Nat) (b : List Byte) : (s.partTaken off b).mg = s.mg ∧
    (s.partTaken off b).flash = { s.flash with body := s.flash.body.writeN hostUnit (bodyOffset off) b } ∧
    (s.partTaken off b).regs = ((s.wf R.SEC_UPD_STAT_STATE upBusy).wf R.SEC_UPD_RCVD_BYTES (s.rf R.SEC_UPD_RCVD_BYTES + b.length)).regs :=
  ⟨rfl, rfl, rfl⟩

theorem partTaken_shows {s : State} (hs : Store.Sorted s.regs) (off : Nat) {b : List Byte} (h : s.rf R.SEC_UPD_RCVD_BYTES + b.length < 2 ^ 26) :
    (s.partTaken off b).upState = upBusy ∧ (s.partTaken off b).rf R.SEC_UPD_RCVD_BYTES = s.rf R.SEC_UPD_RCVD_BYTES + b.length := by
  have hs1 := sorted_wf hs R.SEC_UPD_STAT_STATE upBusy
  obtain ⟨-, -, hr⟩ := partTaken_parts s off b
  refine ⟨(rf_of_regs hr _).trans ?_, (rf_of_regs hr _).trans (wf_last hs1 (by decide) h)⟩
  exact (((Spares.refl R.SEC_UPD_STAT_STATE _).wf_far (m := R.SEC_UPD_RCVD_BYTES) (by decide) _).rf hs1).trans (wf_last hs (by decide) (by decide))

/-- R497(3): the image is complete. -/
def State.imageDone (s : State) : State :=
  { s with flash := { s.flash with header := some (s.sec.upHeader.take 8184 ++ imgMarker) } }.wf R.SEC_UPD_STAT_STATE upDone

theorem updateFinish_eq {s : State} {owner : Nat} (hr : s.Receives owner) (ok : Bool) : s.updateFinish owner ok =
    if firstCause (s.bodyChecks s.sec.upHeader ok) ≠ 0 then s.upFail (firstCause (s.bodyChecks s.sec.upHeader ok)) else s.imageDone := by
  unfold State.updateFinish
  rw [hr.gate, if_neg Bool.false_ne_true]
  rfl

theorem imageDone_parts (s : State) : s.imageDone.mg = s.mg ∧ s.imageDone.regs = (s.wf R.SEC_UPD_STAT_STATE upDone).regs ∧
    s.imageDone.flash = { s.flash with header := some (s.sec.upHeader.take 8184 ++ imgMarker) } := ⟨rfl, rfl, rfl⟩

/-- R491, R497(3): what FINISH leaves. -/
structure State.Finished (s t : State) (k : Nat) : Prop where
  owner : t.upOwner = s.upOwner
  mg : t.mg = s.mg
  fails : k ≠ 0 → t.upState = upError ∧ t.rf R.SEC_UPD_STAT_ERR = k ∧ t.flash = s.flash
  done : k = 0 → t.upState = upDone ∧ t.flash = { s.flash with header := some (s.sec.upHeader.take 8184 ++ imgMarker) }

theorem updateFinish_shows {s : State} (hs : Store.Sorted s.regs) {owner : Nat} (hr : s.Receives owner) (ok : Bool) :
    s.Finished (s.updateFinish owner ok) (firstCause (s.bodyChecks s.sec.upHeader ok)) := by
  rw [updateFinish_eq hr]
  have hlt := bodyCause_lt s s.sec.upHeader ok
  generalize firstCause (s.bodyChecks s.sec.upHeader ok) = k at hlt
  by_cases h0 : k = 0
  · rw [if_neg (not_not.mpr h0)]
    obtain ⟨p1, p2, p3⟩ := imageDone_parts s
    exact ⟨(rf_of_regs p2 _).trans (upStat_kept hs (by decide) (by decide) _), p1, fun hn => absurd h0 hn,
      fun _ => ⟨(rf_of_regs p2 _).trans (wf_last hs (by decide) (by decide)), p3⟩⟩
  · rw [if_pos h0]
    obtain ⟨p1, -, p3⟩ := upFail_parts s k
    obtain ⟨g1, g2, g3, -⟩ := upFail_shows hs (c := k) (by omega)
    exact ⟨g3, p3, fun _ => ⟨g1, g2, p1⟩, fun h => absurd h h0⟩

theorem updateCancel_eq (s : State) (owner : Nat) : s.updateCancel owner = if s.upOwner = owner then s.wf R.SEC_UPD_STAT_STATE upIdle else s := by
  unfold State.updateCancel
  by_cases h : s.upOwner = owner
  · rw [if_pos h, bne_eq_false_iff_eq.mpr h]
    rfl
  · rw [if_neg h, bne_iff_ne.mpr h]
    rfl

/-! ### The agent's session (R512) -/

theorem fwRequest_eq {s : State} (hst : 2 ≤ s.stage) (h5 : s.stage = 5) (k : State → List Byte × State) :
    s.fwRequest k = (k s.heard).2.respond (k s.heard).1 := by
  unfold State.fwRequest
  rw [received_eq hst, if_neg (not_not.mpr ((heard_stage s).trans h5))]

theorem heard_upState (s : State) : s.heard.upState = s.upState := heard_rf s (l := R.SEC_UPD_STAT_STATE) (by decide)

theorem heard_upOwner (s : State) : s.heard.upOwner = s.upOwner := heard_rf s (l := R.SEC_UPD_STAT_OWNER) (by decide)

theorem heard_upOpen (s : State) : s.heard.upOpen = s.upOpen := by
  unfold State.upOpen
  rw [heard_upState]

theorem heard_mg (s : State) : s.heard.mg = s.mg := (heard_parts s).1

/-- R512: the message of the device to its agent. -/
def State.toAgent (s : State) (x : List Byte) : Nat × Nat × List Byte := (s.mg.agent, s.mg.agentEid, x)

theorem askPiece_mg (s : State) (off n : Nat) : (s.askPiece off n).mg =
    { s.mg with sent := s.mg.sent ++ [s.toAgent ([5, 0x15] ++ leBytes 4 off ++ leBytes 4 n)], asked := true } := rfl

theorem askPiece_parts (s : State) (off n : Nat) : (s.askPiece off n).regs = s.regs ∧ (s.askPiece off n).flash = s.flash ∧
    (s.askPiece off n).sec = s.sec := ⟨rfl, rfl, rfl⟩

theorem askNext_header {s : State} (h : s.mg.fw = .header) :
    s.askNext = s.askPiece s.mg.buf.length (min s.mg.piece (headerSize - s.mg.buf.length)) := by
  unfold State.askNext
  rw [h]

theorem askNext_body {s : State} (h : s.mg.fw = .body) : s.askNext =
    s.askPiece (headerSize + s.rf R.SEC_UPD_RCVD_BYTES) (min s.mg.piece (imgBody s.sec.upHeader - s.rf R.SEC_UPD_RCVD_BYTES)) := by
  unfold State.askNext
  rw [h]

/-- R512: the code that the device reports. -/
def State.endCode (s : State) : Nat := if s.upState = upDone ∧ s.upOwner = 1 then 0 else 0xB0 + s.rf R.SEC_UPD_STAT_ERR

/-- R512: the session is over. -/
def State.sessionOver (s : State) : State := { s with mg := { s.mg with fw := .done, asked := false } }

theorem reportEnd_eq (s : State) : s.reportEnd = ((s.sessionOver.tellAgent 0x16 (leBytes 1 s.endCode)).tellAgent 0x17
    (leBytes 1 s.endCode)).tellAgent 0x18 (leBytes 1 s.endCode) := by
  unfold State.reportEnd State.endCode
  rfl

theorem tellAgent_mg (s : State) (cmd : Nat) (data : List Byte) : (s.tellAgent cmd data).mg =
    { s.mg with sent := s.mg.sent ++ [s.toAgent (leBytes 1 5 ++ leBytes 1 cmd ++ data)] } := rfl

theorem tellAgent_toAgent (s : State) (cmd : Nat) (data x : List Byte) : (s.tellAgent cmd data).toAgent x = s.toAgent x := rfl

theorem reportEnd_mg {s : State} {c : Nat} (h : s.endCode = c) : s.reportEnd.mg = { s.mg with fw := .done, asked := false, sent := s.mg.sent ++
    [s.toAgent [5, 0x16, BitVec.ofNat 8 c], s.toAgent [5, 0x17, BitVec.ofNat 8 c], s.toAgent [5, 0x18, BitVec.ofNat 8 c]] } := by
  rw [reportEnd_eq, h]
  simp only [tellAgent_mg, tellAgent_toAgent, List.append_assoc]
  rfl

theorem reportEnd_parts (s : State) : s.reportEnd.regs = s.regs ∧ s.reportEnd.flash = s.flash ∧ s.reportEnd.sec = s.sec :=
  have h := State.reportEnd_same (.refl 1125899906842624 s) rfl
  ⟨h.regs.resolve_left (by decide), h.flash.resolve_left (by decide), h.sec.resolve_left (by decide)⟩

theorem headerChecks_congr {s t : State} (h : t.fuses = s.fuses) (x : List Byte) (sig : Bool) : t.headerChecks x sig = s.headerChecks x sig := by
  unfold State.headerChecks
  rw [h]

theorem bodyChecks_congr {s t : State} (h : t.flash = s.flash) (x : List Byte) (ok : Bool) : t.bodyChecks x ok = s.bodyChecks x ok := by
  unfold State.bodyChecks
  rw [h]

/-- R512: UPDATE_COMPONENT of the state that receives it. -/
def State.sessionOffered (s : State) (cls id : BitVec 16) : State :=
  let r : List Byte × State :=
    if s.mg.fw != .learn then (leBytes 1 0x84, s)
    else if cls ≠ componentClass ∨ id ≠ componentId then (leBytes 1 0 ++ leBytes 1 1 ++ leBytes 1 6, s)
    else
      (leBytes 1 0 ++ leBytes 2 0, { s with mg := { s.mg with fw := .header, buf := [] } }.askNext)
  r.2.respond r.1

/-- R512: the session waits for the header. -/
def State.sessionBegun (s : State) : State := { s with mg := { s.mg with fw := .header, buf := [] } }

theorem sessionBegun_mg (s : State) : s.sessionBegun.mg = { s.mg with fw := .header, buf := [] } := rfl

theorem sessionBegun_toAgent (s : State) (x : List Byte) : s.sessionBegun.toAgent x = s.toAgent x := rfl

theorem sessionOffered_taken {s : State} {cls id : BitVec 16} (hl : s.mg.fw = .learn) (hc : cls = 0x000A ∧ id = 0x0001) :
    s.sessionOffered cls id = (s.sessionBegun.askPiece 0 (min s.mg.piece headerSize)).respond [0, 0, 0] := by
  unfold State.sessionOffered
  rw [hl, if_neg (by decide), if_neg (by rw [hc.1, hc.2]; decide)]
  exact congrArg (fun u : State => u.respond [0, 0, 0]) (askNext_header (s := s.sessionBegun) rfl)

theorem sessionOffered_other {s : State} {cls id : BitVec 16} (hl : s.mg.fw = .learn) (hc : ¬ (cls = 0x000A ∧ id = 0x0001)) :
    s.sessionOffered cls id = s.respond [0, 1, 6] := by
  have hother : cls ≠ componentClass ∨ id ≠ componentId := not_and_or.mp hc
  unfold State.sessionOffered
  rw [hl, if_neg (by decide), if_pos hother]
  rfl

theorem sessionOffered_late {s : State} {cls id : BitVec 16} (hl : s.mg.fw ≠ .learn) : s.sessionOffered cls id = s.respond [0x84] := by
  unfold State.sessionOffered
  rw [if_pos (bne_iff_ne.mpr hl)]
  rfl

/-- R512: the session is given up. -/
def State.givenUp (s : State) : State := { s.updateCancel 1 with mg := { s.mg with fw := .idle, buf := [], asked := false } }

theorem givenUp_mg (s : State) : s.givenUp.mg = { s.mg with fw := .idle, buf := [], asked := false } := rfl

theorem givenUp_regs (s : State) : s.givenUp.regs = (s.updateCancel 1).regs := rfl

theorem updateCancel_shows {s : State} (hs : Store.Sorted s.regs) (owner : Nat) :
    (s.updateCancel owner).upState = if s.upOwner = owner then upIdle else s.upState := by
  rw [updateCancel_eq]
  split
  · exact wf_last hs (by decide) (by decide)
  · rfl

section Session
variable {s : State} (hst : 2 ≤ s.stage) (h5 : s.stage = 5)
include hst h5

/-- REQUEST_UPDATE (R512). -/
theorem requestUpdate_shows (b : Fin 2) (src : BitVec 8) (size : BitVec 32) : ∃ t, exec (.requestUpdate b src size) s = .next t ∧
    s.SameBut t [.regs, .mg] ∧
    if s.mg.fw = .idle ∧ s.upOpen = false then
      t.mg = { s.mg with fw := .learn, agent := b, agentEid := src.toNat, piece := max 1 (min size.toNat 4096), resp := [0] }
    else t.mg = { s.mg with resp := [0x81] } := by
  have hrun : exec (.requestUpdate b src size) s = .next _ := congrArg Host.Outcome.next (fwRequest_eq hst h5 _)
  rw [heard_mg, heard_upOpen] at hrun
  refine ⟨_, hrun, sameBut_of_next hrun, ?_⟩
  by_cases h : s.mg.fw = .idle ∧ s.upOpen = false
  · rw [if_pos h, if_neg (by rw [h.1, h.2]; decide), respond_mg]
    rfl
  · have hno : (s.mg.fw != .idle || s.upOpen) = true := by
      rw [Bool.or_eq_true, bne_iff_ne, ← Bool.not_eq_false]
      exact not_and_or.mp h
    rw [if_neg h, if_pos hno, respond_mg, heard_mg]
    rfl

/-- UPDATE_COMPONENT (R512). -/
theorem updateComponent_shows (cls id : BitVec 16) : ∃ t, exec (.updateComponent cls id) s = .next t ∧ s.SameBut t [.regs, .mg] ∧
    (s.mg.fw = .learn → cls = 0x000A ∧ id = 0x0001 → t.mg.fw = .header ∧ t.mg.buf = [] ∧ t.mg.asked = true ∧ t.mg.resp = [0, 0, 0] ∧
      t.mg.sent = s.mg.sent ++ [s.toAgent ([5, 0x15] ++ leBytes 4 0 ++ leBytes 4 (min s.mg.piece headerSize))]) ∧
    (s.mg.fw = .learn → ¬ (cls = 0x000A ∧ id = 0x0001) → t.mg = { s.mg with resp := [0, 1, 6] }) ∧
    (s.mg.fw ≠ .learn → t.mg = { s.mg with resp := [0x84] }) := by
  have hrun : exec (.updateComponent cls id) s = .next (s.heard.sessionOffered cls id) := congrArg Host.Outcome.next (fwRequest_eq hst h5 _)
  refine ⟨_, hrun, sameBut_of_next hrun, fun hl hc => ?_, fun hl hc => ?_, fun hl => ?_⟩
  · rw [sessionOffered_taken (heard_mg s ▸ hl) hc, respond_mg, askPiece_mg, sessionBegun_mg, sessionBegun_toAgent, heard_mg]
    exact ⟨rfl, rfl, rfl, rfl, rfl⟩
  · rw [sessionOffered_other (heard_mg s ▸ hl) hc, respond_mg, heard_mg]
  · rw [sessionOffered_late (heard_mg s ▸ hl), respond_mg, heard_mg]

/-- CANCEL_UPDATE (R497, R512). -/
theorem cancelUpdate_shows (hs : Store.Sorted s.regs) : ∃ t, exec .cancelUpdate s = .next t ∧ s.SameBut t [.regs, .mg] ∧
    (s.mg.fw ≠ .idle → t.mg = { s.mg with fw := .idle, buf := [], asked := false, resp := [0] } ∧
      t.upState = if s.upOwner = 1 then upIdle else s.upState) ∧
    (s.mg.fw = .idle → t.mg = { s.mg with resp := [0x80] } ∧ t.upState = s.upState) := by
  by_cases hi : s.mg.fw = .idle
  · have hex : exec .cancelUpdate s = .next (s.heard.respond [0x80]) := by
      refine congrArg Host.Outcome.next ((fwRequest_eq hst h5 _).trans ?_)
      rw [if_pos (heard_mg s ▸ hi)]
      rfl
    refine ⟨_, hex, sameBut_of_next hex, fun h => absurd hi h, fun _ => ⟨?_, (respond_rf _ _ _).trans (heard_upState s)⟩⟩
    rw [respond_mg, heard_mg]
  · have hex : exec .cancelUpdate s = .next (s.heard.givenUp.respond [0]) := by
      refine congrArg Host.Outcome.next ((fwRequest_eq hst h5 _).trans ?_)
      rw [if_neg (heard_mg s ▸ hi)]
      rfl
    have hu := updateCancel_shows (sorted_heard hs) 1
    refine ⟨_, hex, sameBut_of_next hex, fun _ => ⟨?_, (respond_rf _ _ _).trans ((rf_of_regs (givenUp_regs _) _).trans (hu.trans ?_))⟩,
      fun h => absurd h hi⟩
    · rw [respond_mg, givenUp_mg, heard_mg]
    · rw [heard_upOwner, heard_upState]

/-- ACTIVATE_FIRMWARE (R512). -/
theorem activateFirmware_shows : ∃ t, exec .activateFirmware s = .next t ∧ s.SameBut t [.regs, .mg] ∧
    if s.mg.fw = .done ∧ s.upState = upDone ∧ s.upOwner = 1 then t.mg = { s.mg with fw := .idle, resetDue := true, resp := [0, 0, 0] }
    else t.mg = { s.mg with resp := [0x84] } := by
  have hrun : exec .activateFirmware s = .next _ := congrArg Host.Outcome.next (fwRequest_eq hst h5 _)
  rw [heard_mg, heard_upState, heard_upOwner] at hrun
  refine ⟨_, hrun, sameBut_of_next hrun, ?_⟩
  by_cases h : s.mg.fw = .done ∧ s.upState = upDone ∧ s.upOwner = 1
  · rw [if_pos h, if_pos h, respond_mg]
    rfl
  · rw [if_neg h, if_neg h, respond_mg, heard_mg]
    rfl

end Session

/-! ### The agent's pieces (R509, R512) -/

/-- R512: the piece asked for is here. -/
def State.unasked (s : State) : State := { s with mg := { s.mg with asked := false } }

/-- R512: the header's bytes received. -/
def State.holding (s : State) (h : List Byte) : State := { s with mg := { s.mg with buf := h } }

/-- R512: the session takes the body. -/
def State.bodyNext (s : State) : State := { s with mg := { s.mg with fw := .body } }

/-- A state that a piece reaches: what a received message leaves, but for the session. -/
structure State.Near (s u : State) : Prop where
  regs : u.regs = s.heard.regs
  flash : u.flash = s.flash
  sec : u.sec = s.sec
  fuses : u.fuses = s.fuses

theorem State.Near.rf {s u : State} (h : s.Near u) {l : Loc} (hl : l.addr ≠ A.STD_MG_RX_CNT) : u.rf l = s.rf l :=
  (rf_of_regs h.regs l).trans (heard_rf s hl)

theorem near_unasked (s : State) : s.Near s.heard.unasked :=
  have h := heard_parts s
  ⟨rfl, h.2.2.2.1, h.2.2.2.2.2.1, h.2.2.2.2.2.2.2.1⟩

theorem near_holding {s u : State} (h : s.Near u) (x : List Byte) : s.Near (u.holding x) := ⟨h.regs, h.flash, h.sec, h.fuses⟩

theorem unasked_mg (s : State) : s.heard.unasked.mg = { s.mg with asked := false } := by
  show { s.heard.mg with asked := false } = _
  rw [heard_mg]

theorem holding_mg (s : State) (h : List Byte) : (s.holding h).mg = { s.mg with buf := h } := rfl

theorem bodyNext_mg (s : State) : s.bodyNext.mg = { s.mg with fw := .body } := rfl

theorem bodyNext_parts (s : State) : s.bodyNext.regs = s.regs ∧ s.bodyNext.flash = s.flash ∧ s.bodyNext.sec = s.sec := ⟨rfl, rfl, rfl⟩

theorem beginImage_eq (s : State) (h : List Byte) (sigs : List Verified) (ok : Bool) : s.beginImage h sigs ok =
    if (s.updateBegin 1 h (imgVerifies sigs h) ok).upState = upReceiving ∧ (s.updateBegin 1 h (imgVerifies sigs h) ok).upOwner = 1 then
      (s.updateBegin 1 h (imgVerifies sigs h) ok).bodyNext.askNext
    else (s.updateBegin 1 h (imgVerifies sigs h) ok).reportEnd := rfl

/-- R497, R512: the whole header has been received: the session's BEGIN, and what the device asks or reports. -/
theorem beginImage_shows {s : State} (hs : Store.Sorted s.regs) (hu : s.updatable 1 = true) (ho : s.upOpen = false ∨ s.upOwner = 1)
    (h : List Byte) (sigs : List Verified) (ok : Bool) {k : Nat}
    (hk : k = firstCause (s.headerChecks h (imgVerifies sigs h) ++ [(ok, 9)])) : (s.beginImage h sigs ok).upOwner = 1 ∧
      (k = 0 → (s.beginImage h sigs ok).upState = upReceiving ∧ (s.beginImage h sigs ok).mg.fw = .body ∧
        (s.beginImage h sigs ok).mg.asked = true ∧ (s.beginImage h sigs ok).sec.upHeader = h ∧
        (s.beginImage h sigs ok).flash = { s.flash with header := none } ∧ (s.beginImage h sigs ok).rf R.SEC_UPD_RCVD_BYTES = 0) ∧
      (k ≠ 0 → (s.beginImage h sigs ok).upState = upError ∧ (s.beginImage h sigs ok).rf R.SEC_UPD_STAT_ERR = k ∧
        (s.beginImage h sigs ok).mg.fw = .done ∧ (s.beginImage h sigs ok).mg.asked = false ∧ (s.beginImage h sigs ok).flash = s.flash ∧
        (s.beginImage h sigs ok).mg.sent = s.mg.sent ++ [s.toAgent [5, 0x16, BitVec.ofNat 8 (0xB0 + k)],
          s.toAgent [5, 0x17, BitVec.ofNat 8 (0xB0 + k)], s.toAgent [5, 0x18, BitVec.ofNat 8 (0xB0 + k)]]) := by
  obtain ⟨hown, hmg, hfails, hbegins⟩ := updateBegin_shows (sig := imgVerifies sigs h) (ok := ok) hs (by decide) hu ho (h := h)
  rw [← hk] at hfails hbegins
  rw [beginImage_eq]
  generalize s.updateBegin 1 h (imgVerifies sigs h) ok = v at hown hmg hfails hbegins
  by_cases h0 : k = 0
  · obtain ⟨hst, -, hrc, hhd, hfl⟩ := hbegins h0
    rw [if_pos ⟨hst, hown⟩, askNext_body rfl]
    obtain ⟨br, bf, bs⟩ := bodyNext_parts v
    obtain ⟨ar, af, as⟩ := askPiece_parts v.bodyNext (headerSize + v.bodyNext.rf R.SEC_UPD_RCVD_BYTES)
      (min v.bodyNext.mg.piece (imgBody v.bodyNext.sec.upHeader - v.bodyNext.rf R.SEC_UPD_RCVD_BYTES))
    have hr := ar.trans br
    exact ⟨(rf_of_regs hr _).trans hown, fun _ => ⟨(rf_of_regs hr _).trans hst, rfl, rfl, by rw [as, bs, hhd], by rw [af, bf, hfl],
      (rf_of_regs hr _).trans hrc⟩, fun h => absurd h0 h⟩
  · obtain ⟨hst, herr, hfl⟩ := hfails h0
    have hne : ¬ (v.upState = upReceiving ∧ v.upOwner = 1) := fun h => absurd (hst.symm.trans h.1) (by decide)
    have hcode : v.endCode = 0xB0 + k := by
      unfold State.endCode
      rw [if_neg fun h => absurd (hst.symm.trans h.1) (by decide), herr]
    rw [if_neg hne]
    obtain ⟨rr, rfl', rs⟩ := reportEnd_parts v
    have hto : ∀ x, v.toAgent x = s.toAgent x := fun x => by
      unfold State.toAgent
      rw [hmg]
    refine ⟨(rf_of_regs rr _).trans hown, fun h => absurd h h0, fun _ => ⟨(rf_of_regs rr _).trans hst, (rf_of_regs rr _).trans herr, ?_, ?_,
      rfl'.trans hfl, ?_⟩⟩
    · rw [reportEnd_mg hcode]
    · rw [reportEnd_mg hcode]
    · rw [reportEnd_mg hcode, hmg, hto, hto, hto]

/-- FIRMWARE_DATA_RESPONSE of a piece that is discarded (R509). -/
theorem firmwareData_discards {s : State} (hs : Store.Sorted s.regs) (hst : 2 ≤ s.stage) {d : List Byte} (sigs : List Verified) (ok : Bool)
    (h : 131072 < 5 + d.length ∨ s.mg.asked = false) : ∃ t, exec (.firmwareDataResponse d sigs ok) s = .next t ∧ { t with regs := s.regs } = s ∧
      t.rf R.STD_MG_ERR_CNT_COUNT = satAdd32 (s.rf R.STD_MG_ERR_CNT_COUNT) 1 := by
  have hex : exec (.firmwareDataResponse d sigs ok) s = .next s.heard.faulted := by
    refine congrArg Host.Outcome.next ((received_eq hst _).trans ?_)
    by_cases hl : 131072 < 5 + d.length
    · exact if_pos hl
    · refine (if_neg hl).trans (if_pos ?_)
      rw [heard_mg, h.resolve_left hl]
      rfl
  exact ⟨_, hex, (congrArg (fun x : State => { x with regs := s.regs }) (faulted_frame s.heard)).trans (heard_frame s), (heard_faulted hs).2⟩

/-- R512: what a piece that was asked for does. -/
def State.piece (s : State) (d : List Byte) (sigs : List Verified) (ok : Bool) : State :=
  match s.mg.fw with
  | .header =>
    let h := (s.mg.buf ++ d).take headerSize
    let s := s.holding h
    if h.length < headerSize then s.askNext else s.beginImage h sigs ok
  | .body =>
    let s := s.updateData 1 (s.rf R.SEC_UPD_RCVD_BYTES) (d.take s.mg.piece)
    if s.upState = upError then s.reportEnd else s
  | _ => s

theorem firmwareData_runs {s : State} (hst : 2 ≤ s.stage) (h5 : s.stage = 5) {d : List Byte} (sigs : List Verified) (ok : Bool)
    (hl : 5 + d.length ≤ 131072) (ha : s.mg.asked = true) : exec (.firmwareDataResponse d sigs ok) s = .next (s.heard.unasked.piece d sigs ok) := by
  refine congrArg Host.Outcome.next ((received_eq hst _).trans ((if_neg (Nat.not_lt.mpr hl)).trans ((if_neg ?_).trans ?_)))
  · rw [heard_mg, ha, heard_stage, h5]
    decide
  · rfl

theorem piece_header {s : State} (h : s.mg.fw = .header) (d : List Byte) (sigs : List Verified) (ok : Bool) : s.piece d sigs ok =
    if ((s.mg.buf ++ d).take headerSize).length < headerSize then (s.holding ((s.mg.buf ++ d).take headerSize)).askNext
    else (s.holding ((s.mg.buf ++ d).take headerSize)).beginImage ((s.mg.buf ++ d).take headerSize) sigs ok := by
  unfold State.piece
  rw [h]

theorem piece_body {s : State} (h : s.mg.fw = .body) (d : List Byte) (sigs : List Verified) (ok : Bool) : s.piece d sigs ok =
    if (s.updateData 1 (s.rf R.SEC_UPD_RCVD_BYTES) (d.take s.mg.piece)).upState = upError then
      (s.updateData 1 (s.rf R.SEC_UPD_RCVD_BYTES) (d.take s.mg.piece)).reportEnd
    else s.updateData 1 (s.rf R.SEC_UPD_RCVD_BYTES) (d.take s.mg.piece) := by
  unfold State.piece
  rw [h]

theorem unasked_toAgent (s : State) (x : List Byte) : s.heard.unasked.toAgent x = s.toAgent x := by
  unfold State.toAgent
  rw [unasked_mg]

theorem holding_toAgent (s : State) (h x : List Byte) : (s.holding h).toAgent x = s.toAgent x := rfl

theorem State.Near.updatable {s u : State} (h5 : s.stage = 5) (h : s.Near u) (owner : Nat) : u.updatable owner = true := by
  have hst : u.stage = 5 := (h.rf (l := R.SEC_BOOT_STAGE) (by decide)).trans h5
  unfold State.updatable
  rw [hst]
  rfl

/-- R512: a piece of the header that does not complete it. -/
theorem pieceOfHeader {s : State} {d : List Byte} (sigs : List Verified) (ok : Bool) (hfw : s.mg.fw = .header) {h : List Byte}
    (hh : h = (s.mg.buf ++ d).take headerSize) (hlt : h.length < headerSize) : (s.heard.unasked.piece d sigs ok).mg.buf = h ∧
      (s.heard.unasked.piece d sigs ok).mg.asked = true ∧ (s.heard.unasked.piece d sigs ok).flash = s.flash ∧
      (s.heard.unasked.piece d sigs ok).mg.sent = s.mg.sent ++ [s.toAgent ([5, 0x15] ++ leBytes 4 h.length ++
        leBytes 4 (min s.mg.piece (headerSize - h.length)))] := by
  have hu : s.heard.unasked.mg.fw = .header := by rw [unasked_mg, hfw]
  have hbuf : (s.heard.unasked.mg.buf ++ d).take headerSize = h := by rw [unasked_mg, hh]
  have hn := (near_holding (near_unasked s) h).flash
  rw [piece_header hu, hbuf, if_pos hlt, askNext_header (s := s.heard.unasked.holding h) hu]
  refine ⟨rfl, rfl, hn, ?_⟩
  rw [askPiece_mg, holding_toAgent, unasked_toAgent, holding_mg, unasked_mg]

section Pieces
variable {s : State} (hs : Store.Sorted s.regs) (h5 : s.stage = 5)
include hs h5

/-- R512: the piece that completes the header. -/
theorem headerCompletes {d : List Byte} (sigs : List Verified) (ok : Bool) (hfw : s.mg.fw = .header) {h : List Byte}
    (hh : h = (s.mg.buf ++ d).take headerSize) (hlen : h.length = headerSize) (ho : s.upOpen = false ∨ s.upOwner = 1) {k : Nat}
    (hk : k = firstCause (s.headerChecks h (imgVerifies sigs h) ++ [(ok, 9)])) : (s.heard.unasked.piece d sigs ok).upOwner = 1 ∧
      (k = 0 → (s.heard.unasked.piece d sigs ok).upState = upReceiving ∧ (s.heard.unasked.piece d sigs ok).mg.fw = .body ∧
        (s.heard.unasked.piece d sigs ok).mg.asked = true ∧ (s.heard.unasked.piece d sigs ok).sec.upHeader = h ∧
        (s.heard.unasked.piece d sigs ok).flash = { s.flash with header := none } ∧
        (s.heard.unasked.piece d sigs ok).rf R.SEC_UPD_RCVD_BYTES = 0) ∧
      (k ≠ 0 → (s.heard.unasked.piece d sigs ok).upState = upError ∧ (s.heard.unasked.piece d sigs ok).rf R.SEC_UPD_STAT_ERR = k ∧
        (s.heard.unasked.piece d sigs ok).mg.fw = .done ∧ (s.heard.unasked.piece d sigs ok).mg.asked = false ∧
        (s.heard.unasked.piece d sigs ok).flash = s.flash ∧ (s.heard.unasked.piece d sigs ok).mg.sent = s.mg.sent ++
          [s.toAgent [5, 0x16, BitVec.ofNat 8 (0xB0 + k)], s.toAgent [5, 0x17, BitVec.ofNat 8 (0xB0 + k)],
            s.toAgent [5, 0x18, BitVec.ofNat 8 (0xB0 + k)]]) := by
  have hu : s.heard.unasked.mg.fw = .header := by rw [unasked_mg, hfw]
  have hbuf : (s.heard.unasked.mg.buf ++ d).take headerSize = h := by rw [unasked_mg, hh]
  have hn := near_holding (near_unasked s) h
  have hmg : (s.heard.unasked.holding h).mg = { s.mg with asked := false, buf := h } := by rw [holding_mg, unasked_mg]
  rw [piece_header hu, hbuf, if_neg (by omega)]
  have hto : ∀ x, (s.heard.unasked.holding h).toAgent x = s.toAgent x := fun x => (holding_toAgent _ _ _).trans (unasked_toAgent _ _)
  generalize s.heard.unasked.holding h = v at hn hmg hto
  have hopen : v.upOpen = false ∨ v.upOwner = 1 := by
    have h1 : v.upState = s.upState := hn.rf (l := R.SEC_UPD_STAT_STATE) (by decide)
    have h2 : v.upOwner = s.upOwner := hn.rf (l := R.SEC_UPD_STAT_OWNER) (by decide)
    unfold State.upOpen
    rw [h1, h2]
    exact ho
  have hvs : Store.Sorted v.regs := hn.regs ▸ sorted_heard hs
  have hshow := beginImage_shows hvs (hn.updatable h5 1) hopen h sigs ok (k := k) (by rw [headerChecks_congr hn.fuses]; exact hk)
  rw [hn.flash, hto, hto, hto, hmg] at hshow
  exact hshow

/-- R512: a piece of the body. -/
theorem pieceOfBody {d : List Byte} (sigs : List Verified) (ok : Bool) (hfw : s.mg.fw = .body) (hst : s.upState = upReceiving)
    (ho : s.upOwner = 1) (hd : d ≠ []) (h1 : 1 ≤ s.mg.piece) (h4 : s.mg.piece ≤ 4096) {got : Nat} (hg : got = s.rf R.SEC_UPD_RCVD_BYTES)
    (hlen : got + min s.mg.piece d.length ≤ imgBody s.sec.upHeader) (hbody : imgBody s.sec.upHeader < 2 ^ 26) :
    (s.heard.unasked.piece d sigs ok).upState = upBusy ∧
      (s.heard.unasked.piece d sigs ok).rf R.SEC_UPD_RCVD_BYTES = got + min s.mg.piece d.length ∧
      (s.heard.unasked.piece d sigs ok).mg.asked = false ∧ (s.heard.unasked.piece d sigs ok).flash =
        { s.flash with body := s.flash.body.writeN hostUnit (bodyOffset got) (d.take s.mg.piece) } := by
  have hmg := unasked_mg s
  have hn := near_unasked s
  rw [piece_body (by rw [hmg, hfw])]
  have hlast : s.heard.unasked.mg.piece = s.mg.piece := by rw [hmg]
  have hasked : s.heard.unasked.mg.asked = false := rfl
  generalize s.heard.unasked = v at hmg hn hlast hasked
  have hrc : v.rf R.SEC_UPD_RCVD_BYTES = got := (hn.rf (l := R.SEC_UPD_RCVD_BYTES) (by decide)).trans hg.symm
  have hrec : v.Receives 1 := ⟨hn.updatable h5 1, (hn.rf (l := R.SEC_UPD_STAT_STATE) (by decide)).trans hst,
    (hn.rf (l := R.SEC_UPD_STAT_OWNER) (by decide)).trans ho⟩
  have hvs : Store.Sorted v.regs := hn.regs ▸ sorted_heard hs
  have htake : (d.take s.mg.piece).length = min s.mg.piece d.length := List.length_take
  have hdpos : 0 < d.length := List.length_pos_iff.mpr hd
  have hne : d.take s.mg.piece ≠ [] := fun h => by
    have h0 := congrArg List.length h
    rw [htake, List.length_nil] at h0
    omega
  rw [hlast, hrc]
  have htaken := updateData_taken (off := got) (b := d.take s.mg.piece) hrec hrc.symm hne (by rw [htake]; omega)
    (by rw [htake, hrc, hn.sec]; exact hlen)
  obtain ⟨p1, p2, -⟩ := partTaken_parts v got (d.take s.mg.piece)
  obtain ⟨g1, g2⟩ := partTaken_shows hvs got (b := d.take s.mg.piece) (by rw [htake, hrc]; omega)
  have hnot : ¬ (v.partTaken got (d.take s.mg.piece)).upState = upError := fun h => absurd (g1.symm.trans h) (by decide)
  rw [htaken, if_neg hnot]
  refine ⟨g1, ?_, ?_, ?_⟩
  · rw [g2, hrc, htake]
  · rw [p1, hasked]
  · rw [p2, hn.flash]

end Pieces

/-! ### A part is programmed (R497, R512) -/

/-- R497: the session takes its next command. -/
def State.programmed (s : State) : State := s.wf R.SEC_UPD_STAT_STATE upReceiving

theorem programmed_shows {s : State} (hs : Store.Sorted s.regs) : s.programmed.upState = upReceiving ∧ s.programmed.upOwner = s.upOwner ∧
    s.programmed.rf R.SEC_UPD_RCVD_BYTES = s.rf R.SEC_UPD_RCVD_BYTES ∧ s.programmed.stage = s.stage ∧ Store.Sorted s.programmed.regs :=
  ⟨wf_last hs (by decide) (by decide), upStat_kept hs (by decide) (by decide) _,
    ((Spares.refl R.SEC_UPD_RCVD_BYTES s).wf_far (m := R.SEC_UPD_STAT_STATE) (by decide) _).rf hs,
    ((Spares.refl R.SEC_BOOT_STAGE s).wf_far (m := R.SEC_UPD_STAT_STATE) (by decide) _).rf hs, sorted_wf hs _ _⟩

theorem programmed_frame (s : State) : { s.programmed with regs := s.regs } = s := wf_frame s _ _

theorem flashProgramDone_idle {s : State} (ok : Bool) (h : s.upState ≠ upBusy) : exec (.flashProgramDone ok) s = .next s := if_pos h

theorem flashProgramDone_alone {s : State} {ok : Bool} (h : s.upState = upBusy) (ho : s.programmed.upOwner ≠ 1 ∨ s.programmed.mg.fw ≠ .body) :
    exec (.flashProgramDone ok) s = .next s.programmed := (if_neg (not_not.mpr h)).trans (if_pos ho)

theorem flashProgramDone_last {s : State} {ok : Bool} (h : s.upState = upBusy) (ho : ¬ (s.programmed.upOwner ≠ 1 ∨ s.programmed.mg.fw ≠ .body))
    (hg : s.programmed.rf R.SEC_UPD_RCVD_BYTES = imgBody s.programmed.sec.upHeader) :
    exec (.flashProgramDone ok) s = .next (s.programmed.updateFinish 1 ok).reportEnd :=
  (if_neg (not_not.mpr h)).trans ((if_neg ho).trans (if_pos hg))

theorem flashProgramDone_next {s : State} {ok : Bool} (h : s.upState = upBusy) (ho : ¬ (s.programmed.upOwner ≠ 1 ∨ s.programmed.mg.fw ≠ .body))
    (hg : s.programmed.rf R.SEC_UPD_RCVD_BYTES ≠ imgBody s.programmed.sec.upHeader) :
    exec (.flashProgramDone ok) s = .next s.programmed.askNext :=
  (if_neg (not_not.mpr h)).trans ((if_neg ho).trans (if_neg hg))

/-- FLASH_PROGRAM_DONE (R497, R512). -/
theorem flashProgramDone_shows {s : State} (hs : Store.Sorted s.regs) (h5 : s.stage = 5) (ok : Bool) (hb : s.upState = upBusy) {got k : Nat}
    {h : List Byte} (hg : got = s.rf R.SEC_UPD_RCVD_BYTES) (hh : h = s.sec.upHeader) : ∃ t, exec (.flashProgramDone ok) s = .next t ∧
      s.SameBut t [.regs, .pairs, .flash, .mg] ∧
      (s.upOwner ≠ 1 ∨ s.mg.fw ≠ .body → t.upState = upReceiving ∧ t.mg = s.mg ∧ t.flash = s.flash) ∧
      (s.upOwner = 1 → s.mg.fw = .body →
        (got ≠ imgBody h → t.upState = upReceiving ∧ t.flash = s.flash ∧ t.mg.asked = true ∧ t.mg.sent = s.mg.sent ++
          [s.toAgent ([5, 0x15] ++ leBytes 4 (headerSize + got) ++ leBytes 4 (min s.mg.piece (imgBody h - got)))]) ∧
        (got = imgBody h → k = firstCause (s.bodyChecks h ok) → t.mg.fw = .done ∧ t.mg.asked = false ∧
          (k = 0 → t.upState = upDone ∧ t.flash = { s.flash with header := some (h.take 8184 ++ imgMarker) } ∧
            s.toAgent [5, 0x18, 0] ∈ t.mg.sent) ∧
          (k ≠ 0 → t.upState = upError ∧ t.rf R.SEC_UPD_STAT_ERR = k ∧ t.flash = s.flash))) := by
  obtain ⟨hst, how, hrc, hstage, hsr⟩ := programmed_shows hs
  have hframe := programmed_frame s
  have hmg : s.programmed.mg = s.mg := (congrArg State.mg hframe :)
  have hfl : s.programmed.flash = s.flash := (congrArg State.flash hframe :)
  have hsec : s.programmed.sec = s.sec := (congrArg State.sec hframe :)
  have hto : ∀ x, s.programmed.toAgent x = s.toAgent x := fun x => by
    unfold State.toAgent
    rw [hmg]
  have halone := flashProgramDone_alone (ok := ok) hb
  have hlast := flashProgramDone_last (ok := ok) hb
  have hnext := flashProgramDone_next (ok := ok) hb
  generalize s.programmed = v at *
  rw [how, hmg] at halone hlast hnext
  rw [hrc, ← hg, hsec, ← hh] at hlast hnext
  by_cases ho : s.upOwner ≠ 1 ∨ s.mg.fw ≠ .body
  · have hex := halone ho
    exact ⟨_, hex, sameBut_of_next hex, fun _ => ⟨hst, hmg, hfl⟩, fun h1 h2 => ho.elim (fun h => absurd h1 h) (fun h => absurd h2 h)⟩
  · by_cases hgot : got = imgBody h
    · have hex := hlast ho hgot
      have hrec : v.Receives 1 := by
        refine ⟨?_, hst, how.trans (not_not.mp fun h => ho (.inl h))⟩
        unfold State.updatable
        rw [hstage, h5]
        rfl
      have hfin := updateFinish_shows hsr hrec ok
      rw [hsec, ← hh, bodyChecks_congr hfl] at hfin
      generalize v.updateFinish 1 ok = w at hex hfin
      obtain ⟨hwo, hwm, hwf, hwd⟩ := hfin
      obtain ⟨rr, rf', -⟩ := reportEnd_parts w
      have hwto : ∀ x, w.toAgent x = s.toAgent x := fun x => by
        unfold State.toAgent
        rw [hwm, hmg]
      refine ⟨_, hex, sameBut_of_next hex, fun h => absurd h ho, fun _ _ => ⟨fun h => absurd hgot h, fun _ hk => ⟨?_, ?_, fun h0 => ?_, fun h0 => ?_⟩⟩⟩
      · rw [reportEnd_mg rfl]
      · rw [reportEnd_mg rfl]
      · rw [← hk] at hwd
        obtain ⟨d1, d2⟩ := hwd h0
        have hcode : w.endCode = 0 := by
          unfold State.endCode
          exact if_pos ⟨d1, hwo.trans hrec.owner⟩
        refine ⟨(rf_of_regs rr _).trans d1, ?_, ?_⟩
        · rw [rf', d2, hsec, ← hh, hfl]
        · rw [reportEnd_mg hcode, hwto, hwto, hwto]
          exact List.mem_append_right _ (List.mem_cons_of_mem _ (List.mem_cons_of_mem _ List.mem_cons_self))
      · rw [← hk] at hwf
        obtain ⟨d1, d2, d3⟩ := hwf h0
        exact ⟨(rf_of_regs rr _).trans d1, (rf_of_regs rr _).trans d2, rf'.trans (d3.trans hfl)⟩
    · have hex := hnext ho hgot
      have hfw : v.mg.fw = .body := by rw [hmg]; exact not_not.mp fun h => ho (.inr h)
      rw [askNext_body hfw, hrc, ← hg, hsec, ← hh] at hex
      obtain ⟨ar, af, -⟩ := askPiece_parts v (headerSize + got) (min v.mg.piece (imgBody h - got))
      refine ⟨_, hex, sameBut_of_next hex, fun h => absurd h ho, fun _ _ => ⟨fun _ => ⟨(rf_of_regs ar _).trans hst, af.trans hfl, rfl, ?_⟩,
        fun h => absurd h hgot⟩⟩
      rw [askPiece_mg, hto, hmg]

/-! ### The statement -/

/-- Settles O60: an agent's session goes from its offer to its activation (codes and messages are log 43's, a piece that nothing asked
for is log 55's, a session that is in progress log 36's). -/
theorem firmwareIsUpdatedByPldm : Obligations.FirmwareIsUpdatedByPldm := by
  intro b src size cls id d sigs flashOk s h k got tell hc h5 htell
  have hst : 2 ≤ s.stage := h5 ▸ (by decide)
  subst htell
  refine ⟨requestUpdate_shows hst h5 b src size, updateComponent_shows hst h5 cls id, cancelUpdate_shows hst h5 hc.regs,
    activateFirmware_shows hst h5, fun hl => firmwareData_discards hc.regs hst sigs flashOk (.inl hl), fun hl ha hh hg => ?_,
    fun ha => firmwareData_discards hc.regs hst sigs flashOk (.inr ha), flashProgramDone_idle flashOk,
    fun hb hg hh => ?_⟩
  · have hex := firmwareData_runs hst h5 sigs flashOk hl ha
    exact ⟨_, hex, sameBut_of_next hex, fun hfw hlt => pieceOfHeader sigs flashOk hfw hh hlt,
      fun hfw hlen ho hk => headerCompletes hc.regs h5 sigs flashOk hfw hh hlen ho hk,
      fun hfw hu ho hd h1 h4 hle hb => pieceOfBody hc.regs h5 sigs flashOk hfw hu ho hd h1 h4 hg hle hb⟩
  · exact flashProgramDone_shows hc.regs h5 flashOk hb hg hh

end Sys2Proof.Machine


/-! Keys, updates by registers, fuses, debug tokens, attestation, IDE keys, signed fragments and the test access port (R499 to R504,
R529): O47. -/

namespace Sys2Proof.Machine

/-! ### Memory-encryption keys (R168, R499) -/

/-- R499: a key command is refused with a cause. -/
def State.keyRefused (s : State) (cause : Nat) : State := (s.wf R.SEC_KSTAT_CAUSE cause).wf R.SEC_KSTAT_REFUSED 1

/-- R499: a key command clears `SEC_KEYj`. -/
def State.keyInCleared (s : State) : State := { s with sec := { s.sec with keyIn := [] } }

theorem keyInCleared_parts (s : State) : s.keyInCleared.regs = s.regs ∧ s.keyInCleared.sec = { s.sec with keyIn := [] } ∧
    s.keyInCleared.hbm = s.hbm := ⟨rfl, rfl, rfl⟩

theorem keyInCleared_same (s : State) : Same (partsMask [.sec]) s s.keyInCleared := Same.of_frame (M := partsMask [.sec]) rfl

theorem keyRefused_shows {s : State} (hs : Store.Sorted s.regs) {cause : Nat} (hc : cause < 8) : (s.keyRefused cause).rf R.SEC_KSTAT_REFUSED = 1 ∧
    (s.keyRefused cause).rf R.SEC_KSTAT_CAUSE = cause := by
  have hs1 := sorted_wf hs R.SEC_KSTAT_CAUSE cause
  refine ⟨wf_last hs1 (by decide) (by decide), ?_⟩
  exact (((Spares.refl R.SEC_KSTAT_CAUSE _).wf (m := R.SEC_KSTAT_REFUSED) (by decide) (.inr (by decide)) 1).rf hs1).trans (wf_last hs (by decide) hc)

theorem keyRefused_frame (s : State) (cause : Nat) : { s.keyRefused cause with regs := s.regs } = s := regsFrame_wf (wf_frame s _ _) _ _

/-- R499: the cause with which a key command is refused. -/
def State.keyEnd (s : State) (load clear : Bool) : Nat := if load && clear then 6 else s.keyCause load clear

theorem keyCmd_refused {s : State} {v : Word32} (h : (!v.getLsbD 0 && !v.getLsbD 1) = false) {cause : Nat}
    (hc : s.keyEnd (v.getLsbD 0) (v.getLsbD 1) = cause) (h0 : cause ≠ 0) : s.keyCmd v = (s.keyRefused cause).keyInCleared := by
  unfold State.keyCmd
  dsimp only
  rw [h, if_neg Bool.false_ne_true]
  unfold State.keyEnd at hc
  rw [hc, if_neg h0]
  rfl

theorem keyCmd_done {s : State} {v : Word32} (h : (!v.getLsbD 0 && !v.getLsbD 1) = false)
    (hc : s.keyEnd (v.getLsbD 0) (v.getLsbD 1) = 0) : s.keyCmd v = (s.setKey (v.getLsbD 0)).keyInCleared := by
  unfold State.keyCmd
  dsimp only
  rw [h, if_neg Bool.false_ne_true]
  unfold State.keyEnd at hc
  rw [hc, if_pos rfl]
  rfl

/-- R499: the slot's keys. -/
def State.keysSet (s : State) (load : Bool) : State :=
  let keys := if load then sput s.sec.keys (s.rf R.SEC_KSEL_SLOT) s.keyBytes else sdel s.sec.keys (s.rf R.SEC_KSEL_SLOT)
  { s with sec := { s.sec with keys := keys } }

theorem setKey_eq (s : State) (load : Bool) : s.setKey load = (s.keysSet load).rekeyed (s.rf R.SEC_KSEL_SLOT) := rfl

theorem keysSet_parts (s : State) (load : Bool) : (s.keysSet load).regs = s.regs ∧ (s.keysSet load).hbm = s.hbm ∧ (s.keysSet load).sec = { s.sec with
    keys := if load then sput s.sec.keys (s.rf R.SEC_KSEL_SLOT) s.keyBytes else sdel s.sec.keys (s.rf R.SEC_KSEL_SLOT) } := ⟨rfl, rfl, rfl⟩

theorem rekeyed_parts (s : State) (c : Nat) : (s.rekeyed c).regs = s.regs ∧ (s.rekeyed c).sec = s.sec :=
  have h := State.rekeyed_same (.refl 98306 s) rfl c
  ⟨h.regs.resolve_left (by decide), h.sec.resolve_left (by decide)⟩

theorem rekeyed_off {s : State} {c : Nat} (h : s.flag (R.CTX_MEM_ENC c) = false) : s.rekeyed c = s := by
  unfold State.rekeyed
  rw [h]
  rfl

theorem flag_off {s : State} {l : Loc} (h : s.rf l = 0) : s.flag l = false := by
  unfold State.flag
  rw [h]
  rfl

theorem flag_on {s : State} {l : Loc} (h : s.rf l = 1) : s.flag l = true := by
  unfold State.flag
  rw [h]
  rfl

/-- KEY_LOAD (R168, R499). -/
theorem keyLoad_shows {s : State} (hc : s.Canon) {u : Fin 64} {v : Word32} {c : Nat} (hm : s.MayWrite u A.SEC_KCMD) (hslot : c = s.rf R.SEC_KSEL_SLOT)
    (hv : v.getLsbD 0 = true) : ∃ t, exec (.keyLoad u v) s = .next t ∧ s.SameBut t [.freeCtr, .regs, .hbm, .hbmBad, .sec] ∧
      t.sec.keyIn = [] ∧
      (v.getLsbD 1 = false → s.active c = false → s.keyBytes.take 32 ≠ s.keyBytes.drop 32 →
        (s.rf R.HIF_LINK_IDE = 1 ∨ s.rf R.SEC_CTRL_KEY_NOIDE = 1) → s.rf R.SEC_STAT_DBG = 0 →
          sget? t.sec.keys c = some s.keyBytes ∧ t.regs = s.regs ∧
          (∀ k, k ≠ c → sget? t.sec.keys k = sget? s.sec.keys k) ∧ (s.rf (R.CTX_MEM_ENC c) = 0 → t.hbm = s.hbm)) ∧
      (v.getLsbD 1 = true ∨ s.active c = true → t.sec.keys = s.sec.keys ∧ t.rf R.SEC_KSTAT_REFUSED = 1 ∧
        t.rf R.SEC_KSTAT_CAUSE = if v.getLsbD 1 then 6 else 1) := by
  have hex : exec (.keyLoad u v) s = .next (s.keyCmd v) := congrArg Host.Outcome.next (gateWrite_rw hm _)
  have hsome : (!v.getLsbD 0 && !v.getLsbD 1) = false := by rw [hv]; rfl
  refine ⟨_, hex, (State.keyCmd_same (.refl (partsMask [.freeCtr, .regs, .hbm, .hbmBad, .sec]) s) rfl v).parts, ?_, fun h1 ha hk hide hdbg => ?_,
    fun h => ?_⟩
  · by_cases h0 : s.keyEnd (v.getLsbD 0) (v.getLsbD 1) = 0
    · rw [keyCmd_done hsome h0]
      rfl
    · rw [keyCmd_refused hsome rfl h0]
      rfl
  · have hend : s.keyEnd (v.getLsbD 0) (v.getLsbD 1) = 0 := by
      have hide' : (s.flag R.HIF_LINK_IDE || s.flag R.SEC_CTRL_KEY_NOIDE) = true := by
        rcases hide with h | h
        · rw [flag_on h, Bool.true_or]
        · rw [flag_on h, Bool.or_true]
      unfold State.keyEnd State.keyCause
      dsimp only
      rw [hv, h1, ← hslot, ha, beq_eq_false_iff_ne.mpr hk, Bool.not_true, Bool.false_or, hide', flag_off hdbg]
      rfl
    rw [keyCmd_done hsome hend, hv, setKey_eq, ← hslot]
    obtain ⟨i1, i2, i3⟩ := keyInCleared_parts ((s.keysSet true).rekeyed c)
    obtain ⟨r1, r2⟩ := rekeyed_parts (s.keysSet true) c
    obtain ⟨k1, k2, k3⟩ := keysSet_parts s true
    rw [i2, r2, k3, ← hslot]
    refine ⟨sget_sput_self _ _ _, i1.trans (r1.trans k1), fun k hk => sget_sput_ne _ _ hk, fun henc => ?_⟩
    rw [i3, rekeyed_off (flag_off ((rf_of_regs k1 _).trans henc)), k2]
  · have hend : s.keyEnd (v.getLsbD 0) (v.getLsbD 1) = if v.getLsbD 1 then 6 else 1 := by
      unfold State.keyEnd
      rw [hv, Bool.true_and]
      cases h1 : v.getLsbD 1 with
      | true => rfl
      | false =>
        have ha : s.active c = true := h.resolve_left (by rw [h1]; decide)
        unfold State.keyCause
        dsimp only
        rw [← hslot, ha]
        rfl
    have hlt : (if v.getLsbD 1 then 6 else 1) < 8 ∧ (if v.getLsbD 1 then 6 else 1) ≠ 0 := by
      cases v.getLsbD 1 <;> decide
    rw [keyCmd_refused hsome hend hlt.2]
    generalize (if v.getLsbD 1 then 6 else 1) = cause at hlt
    obtain ⟨i1, i2, -⟩ := keyInCleared_parts (s.keyRefused cause)
    obtain ⟨g1, g2⟩ := keyRefused_shows hc.regs hlt.1
    have hsec : (s.keyRefused cause).sec = s.sec := (congrArg State.sec (keyRefused_frame s cause) :)
    exact ⟨by rw [i2, hsec], (rf_of_regs i1 _).trans g1, (rf_of_regs i1 _).trans g2⟩

/-- KEY_CLEAR (R499). -/
theorem keyClear_shows {s : State} (hc : s.Canon) {u : Fin 64} {v : Word32} {c : Nat} (hm : s.MayWrite u A.SEC_KCMD) (hslot : c = s.rf R.SEC_KSEL_SLOT)
    (hv : v.getLsbD 0 = false) (h1 : v.getLsbD 1 = true) : ∃ t, exec (.keyClear u v) s = .next t ∧ s.SameBut t [.regs, .sec] ∧ t.sec.keyIn = [] ∧
      (s.active c = false → s.rf (R.CTX_MEM_ENC c) = 0 → t.regs = s.regs ∧ t.sec.keys = sdel s.sec.keys c) ∧
      (s.active c = true ∨ s.rf (R.CTX_MEM_ENC c) = 1 → t.sec.keys = s.sec.keys ∧ t.rf R.SEC_KSTAT_REFUSED = 1 ∧
        t.rf R.SEC_KSTAT_CAUSE = if s.active c then 1 else 4) := by
  have hex : exec (.keyClear u v) s = .next (s.keyCmd v) := congrArg Host.Outcome.next (gateWrite_rw hm _)
  have hsome : (!v.getLsbD 0 && !v.getLsbD 1) = false := by rw [hv, h1]; rfl
  have hend : s.keyEnd (v.getLsbD 0) (v.getLsbD 1) = if s.active c then 1 else if s.flag (R.CTX_MEM_ENC c) then 4 else 0 := by
    unfold State.keyEnd State.keyCause
    dsimp only
    rw [hv, h1, ← hslot]
    cases s.active c with
    | true => rfl
    | false =>
      cases s.flag (R.CTX_MEM_ENC c) with
      | true => rfl
      | false => rfl
  by_cases h : s.active c = true ∨ s.flag (R.CTX_MEM_ENC c) = true
  · have hcause : s.keyEnd (v.getLsbD 0) (v.getLsbD 1) = if s.active c then 1 else 4 := by
      rw [hend]
      rcases h with ha | he
      · rw [ha]
        rfl
      · rw [he]
        rfl
    have hlt : (if s.active c then 1 else 4) < 8 ∧ (if s.active c then 1 else 4) ≠ 0 := by
      cases s.active c <;> decide
    rw [keyCmd_refused hsome hcause hlt.2] at hex
    have hno : ¬ (s.active c = false ∧ s.rf (R.CTX_MEM_ENC c) = 0) := fun ⟨ha, he⟩ => by
      rw [ha, flag_off he] at h
      exact h.elim (fun h => nomatch h) (fun h => nomatch h)
    generalize (if s.active c then 1 else 4) = cause at hlt hex
    obtain ⟨i1, i2, -⟩ := keyInCleared_parts (s.keyRefused cause)
    obtain ⟨g1, g2⟩ := keyRefused_shows hc.regs hlt.1
    have hsec : (s.keyRefused cause).sec = s.sec := (congrArg State.sec (keyRefused_frame s cause) :)
    have hsame : Same (partsMask [.regs, .sec]) s (s.keyRefused cause).keyInCleared :=
      (State.wf_same (State.wf_same (.refl _ s) rfl _ _) rfl _ _ : Same (partsMask [.regs, .sec]) s (s.keyRefused cause)).trans
        ((keyInCleared_same _).mono (N := partsMask [.regs, .sec]) rfl)
    exact ⟨_, hex, hsame.parts, rfl, fun ha he => absurd ⟨ha, he⟩ hno,
      fun _ => ⟨by rw [i2, hsec], (rf_of_regs i1 _).trans g1, (rf_of_regs i1 _).trans g2⟩⟩
  · obtain ⟨ha, he⟩ := not_or.mp h
    have hzero : s.keyEnd (v.getLsbD 0) (v.getLsbD 1) = 0 := by rw [hend, if_neg ha, if_neg he]
    obtain ⟨k1, k2, k3⟩ := keysSet_parts s false
    have hoff : (s.keysSet false).flag (R.CTX_MEM_ENC c) = false :=
      (congrArg (· != 0) (rf_of_regs k1 (R.CTX_MEM_ENC c))).trans (Bool.eq_false_iff.mpr he)
    rw [keyCmd_done hsome hzero, hv, setKey_eq, ← hslot, rekeyed_off hoff] at hex
    have hsame : Same (partsMask [.regs, .sec]) s (s.keysSet false).keyInCleared := Same.of_frame (M := partsMask [.regs, .sec]) rfl
    refine ⟨_, hex, hsame.parts, rfl, fun _ _ => ⟨rfl, ?_⟩, fun h1 => ?_⟩
    · rw [hslot]
      rfl
    · rcases h1 with h1 | h1
      · exact absurd h1 ha
      · exact absurd (flag_on h1) he

/-! ### Updates by registers (R497) -/

theorem updCtrl_begin {s : State} {v : Word32} (h : wbits v 0 3 = 1) (sigs : List Verified) (ok : Bool) : s.updCtrl v (some sigs) (some ok) =
    s.updateBegin 0 (s.mailBytes headerSize) (imgVerifies sigs (s.mailBytes headerSize)) ok := by
  unfold State.updCtrl
  rw [h]
  rfl

theorem updCtrl_data {s : State} {v : Word32} (h : wbits v 0 3 = 2) (a : Option (List Verified)) (b : Option Bool) : s.updCtrl v a b =
    s.updateData 0 (s.rf R.SEC_UPD_OFF_OFF) (s.mailBytes (min 65536 (s.rf R.SEC_UPD_LEN_LEN))) := by
  unfold State.updCtrl
  rw [h]
  rfl

theorem updCtrl_finish {s : State} {v : Word32} (h : wbits v 0 3 = 3) (a : Option (List Verified)) (ok : Bool) :
    s.updCtrl v a (some ok) = s.updateFinish 0 ok := by
  unfold State.updCtrl
  rw [h]
  rfl

theorem updCtrl_cancel {s : State} {v : Word32} (h : wbits v 0 3 = 4) (a : Option (List Verified)) (b : Option Bool) :
    s.updCtrl v a b = s.updateCancel 0 := by
  unfold State.updCtrl
  rw [h]
  rfl

theorem length_mailBytes (s : State) (n : Nat) : (s.mailBytes n).length = n := by
  unfold State.mailBytes Memory.readN
  rw [List.length_map, List.length_range]

theorem updatable_host {s : State} (h : s.stage = 5 ∨ s.stage = 6) : s.updatable 0 = true := by
  unfold State.updatable
  rcases h with h | h
  · rw [h]
    rfl
  · rw [h]
    rfl

/-- UPDATE_CANCEL (R497). -/
theorem hostCancel_shows {s : State} (hc : s.Canon) {u : Fin 64} {v : Word32} (hm : s.MayWrite u A.SEC_UPD_CTRL) (hv : wbits v 0 3 = 4) (ho : s.upOwner = 0) : ∃ t, exec (.updateCancel u v) s = .next t ∧
    { t with regs := s.regs } = s ∧ t.upState = upIdle := by
  have hex : exec (.updateCancel u v) s = .next (s.wf R.SEC_UPD_STAT_STATE upIdle) := by
    refine congrArg Host.Outcome.next ((gateWrite_rw hm _).trans ((updCtrl_cancel hv _ _).trans ?_))
    rw [updateCancel_eq, if_pos ho]
  exact ⟨_, hex, wf_frame s _ _, wf_last hc.regs (by decide) (by decide)⟩

section Updates
variable {s : State} (hc : s.Canon) {u : Fin 64} {v : Word32} (hm : s.MayWrite u A.SEC_UPD_CTRL) (hst : s.stage = 5 ∨ s.stage = 6)
include hc hm hst

/-- UPDATE_BEGIN (R491, R497). -/
theorem hostBegin_shows (sigs : List Verified) (ok : Bool) (hv : wbits v 0 3 = 1) {h : List Byte} (hh : h = s.mailBytes 8192) {k : Nat}
    (hk : k = firstCause (s.headerChecks h (imgVerifies sigs h) ++ [(ok, 9)])) : ∃ t, exec (.updateBegin u v sigs ok) s = .next t ∧
      s.SameBut t [.regs, .pairs, .flash, .sec] ∧
      (s.upOpen = true → s.upOwner ≠ 0 → t.rf R.SEC_UPD_STAT_ERR = 11 ∧ t.flash = s.flash ∧ t.sec = s.sec ∧ t.upState = s.upState) ∧
      (s.upOpen = false ∨ s.upOwner = 0 → t.upOwner = 0 ∧
        (k ≠ 0 → t.upState = upError ∧ t.rf R.SEC_UPD_STAT_ERR = k ∧ t.flash = s.flash) ∧
        (k = 0 → t.upState = upReceiving ∧ t.rf R.SEC_UPD_STAT_ERR = 0 ∧ t.rf R.SEC_UPD_RCVD_BYTES = 0 ∧ t.sec.upHeader = h ∧
          t.flash = { s.flash with header := none })) := by
  have hex : exec (.updateBegin u v sigs ok) s = .next (s.updateBegin 0 h (imgVerifies sigs h) ok) := by
    refine congrArg Host.Outcome.next ((gateWrite_rw hm _).trans ((updCtrl_begin hv sigs ok).trans ?_))
    rw [hh]
    rfl
  have hu := updatable_host hst
  refine ⟨_, hex, (State.updateBegin_same (.refl (partsMask [.regs, .pairs, .flash, .sec]) s) rfl 0 h _ ok).parts, fun ho hn => ?_, fun ho => ?_⟩
  · rw [updateBegin_foreign hu ho hn]
    have hf := wf_frame s R.SEC_UPD_STAT_ERR 11
    exact ⟨wf_last hc.regs (by decide) (by decide), (congrArg State.flash hf :), (congrArg State.sec hf :),
      upStat_kept hc.regs (by decide) (by decide) _⟩
  · have hb := updateBegin_shows (sig := imgVerifies sigs h) (ok := ok) hc.regs (by decide) hu ho (h := h)
    rw [← hk] at hb
    exact ⟨hb.owner, hb.fails, hb.begins⟩

variable (hs1 : s.upState = upReceiving) (ho : s.upOwner = 0)
include hs1 ho

/-- UPDATE_DATA (R497). -/
theorem hostData_shows {h b : List Byte} (hh : h = s.sec.upHeader) (hbody : imgBody h ≤ 50323456) (hv : wbits v 0 3 = 2)
    (hb : b = s.mailBytes (min 65536 (s.rf R.SEC_UPD_LEN_LEN))) {got : Nat} (hg : got = s.rf R.SEC_UPD_RCVD_BYTES) :
    ∃ t, exec (.updateData u v) s = .next t ∧ s.SameBut t [.regs, .flash] ∧
      (s.rf R.SEC_UPD_OFF_OFF = got → b ≠ [] → got + b.length ≤ imgBody h → t.upState = upBusy ∧
        t.rf R.SEC_UPD_RCVD_BYTES = got + b.length ∧
        t.flash = { s.flash with body := s.flash.body.writeN hostUnit (bodyOffset got) b }) ∧
      (s.rf R.SEC_UPD_OFF_OFF ≠ got ∨ b = [] ∨ imgBody h < got + b.length → t.upState = upError ∧
        t.rf R.SEC_UPD_STAT_ERR = 10 ∧ t.flash = s.flash) := by
  have hex : exec (.updateData u v) s = .next (s.updateData 0 (s.rf R.SEC_UPD_OFF_OFF) b) := by
    refine congrArg Host.Outcome.next ((gateWrite_rw hm _).trans ((updCtrl_data hv _ _).trans ?_))
    rw [hb]
  have hrec : s.Receives 0 := ⟨updatable_host hst, hs1, ho⟩
  have h64 : b.length ≤ 65536 := by
    rw [hb, length_mailBytes]
    exact Nat.min_le_left _ _
  by_cases hbad : s.rf R.SEC_UPD_OFF_OFF ≠ got ∨ b = [] ∨ imgBody h < got + b.length
  · rw [updateData_refused hrec (hh ▸ hg ▸ hbad)] at hex
    have hsame : Same (partsMask [.regs, .flash]) s (s.upEnded 10) := State.wf_same (State.wf_same (.refl _ s) rfl _ _) rfl _ _
    have hw := sorted_wf hc.regs R.SEC_UPD_STAT_STATE upError
    refine ⟨_, hex, hsame.parts, fun h1 h2 h3 => ?_, fun _ => ⟨?_, ?_, ?_⟩⟩
    · exact absurd hbad (not_or.mpr ⟨not_not.mpr h1, not_or.mpr ⟨h2, Nat.not_lt.mpr h3⟩⟩)
    · exact (upStat_kept hw (by decide) (by decide) 10).trans (wf_last hc.regs (by decide) (by decide))
    · exact wf_last hw (by decide) (by decide)
    · exact (congrArg State.flash (upEnded_frame s 10) :)
  · obtain ⟨h1, h23⟩ := not_or.mp hbad
    obtain ⟨h2, h3⟩ := not_or.mp h23
    have hoff := not_not.mp h1
    rw [hoff, updateData_taken hrec hg h2 h64 (hh ▸ hg ▸ Nat.not_lt.mp h3)] at hex
    obtain ⟨-, p2, -⟩ := partTaken_parts s got b
    obtain ⟨g1, g2⟩ := partTaken_shows hc.regs got (b := b) (by omega)
    have hsame : Same (partsMask [.regs, .flash]) s (s.partTaken got b) :=
      State.wf_same (State.wf_same (Same.of_frame (M := partsMask [.regs, .flash]) rfl) rfl _ _) rfl _ _
    exact ⟨_, hex, hsame.parts, fun _ _ _ => ⟨g1, g2.trans (by rw [hg]), p2⟩, fun h => absurd h hbad⟩

/-- UPDATE_FINISH (R491, R497). -/
theorem hostFinish_shows {h : List Byte} (hh : h = s.sec.upHeader) (hv : wbits v 0 3 = 3) (ok : Bool) {k : Nat}
    (hk : k = firstCause (s.bodyChecks h ok)) : ∃ t, exec (.updateFinish u v ok) s = .next t ∧ s.SameBut t [.regs, .pairs, .flash] ∧
      (k = 0 → t.upState = upDone ∧ t.flash = { s.flash with header := some (h.take 8184 ++ imgMarker) }) ∧
      (k ≠ 0 → t.upState = upError ∧ t.rf R.SEC_UPD_STAT_ERR = k ∧ t.flash = s.flash) := by
  have hex : exec (.updateFinish u v ok) s = .next (s.updateFinish 0 ok) :=
    congrArg Host.Outcome.next ((gateWrite_rw hm _).trans (updCtrl_finish hv _ _))
  have hfin := updateFinish_shows hc.regs ⟨updatable_host hst, hs1, ho⟩ ok (owner := 0)
  rw [← hh, ← hk] at hfin
  refine ⟨_, hex, (State.updateFinish_same (.refl (partsMask [.regs, .pairs, .flash]) s) rfl 0 ok).parts, fun h0 => ?_, hfin.fails⟩
  rw [hh]
  exact hfin.done h0

end Updates

/-! ### Fuses (R488, R494) -/

/-- SVN_COMMIT (R494). -/
theorem svnCommit_shows {s : State} (hc : s.Canon) {u : Fin 64} {v : Word32} (hm : s.MayWrite u A.SEC_CTRL) (h5 : s.stage = 5)
    (hv : v.getLsbD 0 = true) : ∃ t, exec (.svnCommit u v) s = .next t ∧ { t with regs := s.regs } = s ∧ t.rf R.SEC_STAT_BURNING = 1 := by
  have hstage : (s.plainWrite A.SEC_CTRL v).stage = 5 := (((Spares.refl R.SEC_BOOT_STAGE s).plainWrite (by decide) v).rf hc.regs).trans h5
  have hex : exec (.svnCommit u v) s = .next ((s.plainWrite A.SEC_CTRL v).wf R.SEC_STAT_BURNING 1) :=
    congrArg Host.Outcome.next ((gateWrite_rw hm _).trans (if_pos ⟨hv, hstage⟩))
  exact ⟨_, hex, regsFrame_wf (plainWrite_frame s _ _) _ _, wf_last (sorted_setReg hc.regs _ _) (by decide) (by decide)⟩

/-- R488, R494: the image's burns. -/
def State.burned (s : State) : State :=
  { s with fuses := { s.fuses with
      svn := max s.fuses.svn (imgSvn s.sec.running), revoked := s.fuses.revoked ||| imgRevoke s.sec.running } }

theorem burned_parts (s : State) : s.burned.regs = s.regs ∧ s.burned.fuses = { s.fuses with
    svn := max s.fuses.svn (imgSvn s.sec.running), revoked := s.fuses.revoked ||| imgRevoke s.sec.running } := ⟨rfl, rfl⟩

/-- FUSE_BURN_DONE (R494). -/
theorem fuseBurnDone_shows {s : State} (hc : s.Canon) (ok : Bool) (hb : s.rf R.SEC_STAT_BURNING = 1) : ∃ t, exec (.fuseBurnDone ok) s = .next t ∧
    s.SameBut t [.regs, .pairs, .fuses] ∧ t.rf R.SEC_STAT_BURNING = 0 ∧
    (ok = true → t.fuses = { s.fuses with
      svn := max s.fuses.svn (imgSvn s.sec.running), revoked := s.fuses.revoked ||| imgRevoke s.sec.running }) ∧
    (ok = false → t.fuses = s.fuses ∧ (t.rf (R.ERR_STAT_STAT Page.securityBase)).testBit 2 = true) := by
  have hon : ¬ (!s.flag R.SEC_STAT_BURNING) = true := by
    rw [flag_on hb]
    decide
  have hf := wf_frame s R.SEC_STAT_BURNING 0
  have h0 : (s.wf R.SEC_STAT_BURNING 0).rf R.SEC_STAT_BURNING = 0 := wf_last hc.regs (by decide) (by decide)
  have hs := sorted_wf hc.regs R.SEC_STAT_BURNING 0
  cases ok with
  | true =>
    have hex : exec (.fuseBurnDone true) s = .next (s.wf R.SEC_STAT_BURNING 0).burned := if_neg hon
    obtain ⟨p1, p2⟩ := burned_parts (s.wf R.SEC_STAT_BURNING 0)
    refine ⟨_, hex, sameBut_of_next hex, (rf_of_regs p1 _).trans h0, fun _ => ?_, fun h => nomatch h⟩
    rw [p2, (congrArg State.fuses hf :), (congrArg State.sec hf :)]
  | false =>
    have hex : exec (.fuseBurnDone false) s = .next ((s.wf R.SEC_STAT_BURNING 0).raiseSrc Page.securityBase 2) := if_neg hon
    refine ⟨_, hex, sameBut_of_next hex, ?_, fun h => (nomatch h), fun _ => ⟨?_, raiseSrc_raised hs _ (by decide)⟩⟩
    · exact (((Spares.refl R.SEC_STAT_BURNING _).raiseSrc (Loc.noErr_of_page (.inr (by decide))) 2).rf hs).trans h0
    · exact ((State.raiseSrc_same (.refl 8589934600 _) rfl Page.securityBase 2).fuses.resolve_left (by decide)).trans (congrArg State.fuses hf :)

/-! ### Debug tokens (R501) -/

theorem Spares.newNonce {l : Loc} {s0 s : State} (hk : Spares l s0 s) (h : ∀ j, j < 8 → l.addr ≠ A.SEC_DBG_NONCE j) : Spares l s0 s.newNonce := by
  unfold State.newNonce State.showBytes
  dsimp only
  exact Spares.foldl_mem _ (fun _ j hj ht => ht.setReg (h j (List.mem_range.mp hj)) _) (hk.then_regs rfl)

theorem nonce_ne {l : Loc} (h : l.addr < A.SEC_DBG_NONCE 0) (j : Nat) : l.addr ≠ A.SEC_DBG_NONCE j := by
  unfold A.SEC_DBG_NONCE at *
  omega

/-- R501: a token of cause `c` is taken or refused. -/
def State.tokenTried (s : State) (c : Nat) : State :=
  if c ≠ 0 then (s.wf R.SEC_DBG_STAT_CAUSE c).raiseSrc Page.securityBase 1
  else { s.wf R.SEC_DBG_STAT_CAUSE c with sec := { (s.wf R.SEC_DBG_STAT_CAUSE c).sec with keys := [] } }.wf R.SEC_STAT_DBG 1

theorem tryToken_eq (s : State) (sig : Bool) : s.tryToken sig = (s.tokenTried (s.debugCause (s.mailBytes 7323) sig)).newNonce := rfl

theorem debugCause_lt (s : State) (b : List Byte) (sig : Bool) : s.debugCause b sig < 8 := by
  refine firstCause_lt (by decide) fun e he => ?_
  simp only [List.mem_cons, List.not_mem_nil, or_false] at he
  rcases he with rfl | rfl | rfl | rfl | rfl | rfl | rfl <;> exact Nat.le_of_ble_eq_true rfl

theorem newNonce_sec (s : State) : s.newNonce.sec = s.sec := (State.newNonce_same (.refl 10 s) rfl).sec.resolve_left (by decide)

/-- DEBUG_TOKEN (R501). -/
theorem debugToken_shows {s : State} (hc : s.Canon) {u : Fin 64} {v : Word32} {sigs : List Verified} {k : Nat} (hm : s.MayWrite u A.SEC_DBG_CTRL)
    (hv : v.getLsbD 0 = true) (hk : k = s.debugCause (s.mailBytes 7323) (tokenVerifies sigs (s.mailBytes 7323))) :
    ∃ t, exec (.debugToken u v sigs) s = .next t ∧ s.SameBut t [.freeCtr, .regs, .pairs, .sec] ∧
      t.rf R.SEC_DBG_STAT_CAUSE = k ∧ (k = 0 → t.sec = { s.sec with keys := [] } ∧ t.rf R.SEC_STAT_DBG = 1) ∧
      (k ≠ 0 → t.sec = s.sec ∧ t.rf R.SEC_STAT_DBG = s.rf R.SEC_STAT_DBG ∧
        (t.rf (R.ERR_STAT_STAT Page.securityBase)).testBit 1 = true) := by
  have hex : exec (.debugToken u v sigs) s = .next (s.tokenTried k).newNonce := by
    rw [hk, ← tryToken_eq]
    exact congrArg Host.Outcome.next ((gateWrite_rw hm _).trans (if_pos hv))
  have hlt : k < 8 := hk ▸ debugCause_lt s _ _
  have hs := sorted_wf hc.regs R.SEC_DBG_STAT_CAUSE k
  have hf := wf_frame s R.SEC_DBG_STAT_CAUSE k
  have hsec : (s.wf R.SEC_DBG_STAT_CAUSE k).sec = s.sec := (congrArg State.sec hf :)
  have hcause : (s.wf R.SEC_DBG_STAT_CAUSE k).rf R.SEC_DBG_STAT_CAUSE = k := wf_last hc.regs (by decide) hlt
  have hdbg : (s.wf R.SEC_DBG_STAT_CAUSE k).rf R.SEC_STAT_DBG = s.rf R.SEC_STAT_DBG :=
    ((Spares.refl R.SEC_STAT_DBG s).wf_far (m := R.SEC_DBG_STAT_CAUSE) (by decide) _).rf hc.regs
  have hsame := sameBut_of_next hex
  have hn : ∀ {l : Loc}, l.addr < A.SEC_DBG_NONCE 0 → Store.Sorted (s.tokenTried k).regs → (s.tokenTried k).newNonce.rf l = (s.tokenTried k).rf l :=
    fun h hw => ((Spares.refl _ (s.tokenTried k)).newNonce fun j _ => nonce_ne h j).rf hw
  refine ⟨_, hex, hsame, ?_⟩
  rw [newNonce_sec]
  by_cases h0 : k = 0
  · have htried : s.tokenTried k = ({ s.wf R.SEC_DBG_STAT_CAUSE k with sec := { (s.wf R.SEC_DBG_STAT_CAUSE k).sec with keys := [] } }).wf R.SEC_STAT_DBG 1 :=
      if_neg (not_not.mpr h0)
    have hregs : (s.tokenTried k).regs = ((s.wf R.SEC_DBG_STAT_CAUSE k).wf R.SEC_STAT_DBG 1).regs := by rw [htried]; rfl
    have htsec : (s.tokenTried k).sec = { s.sec with keys := [] } := by rw [htried, ← hsec]; rfl
    have hw : Store.Sorted (s.tokenTried k).regs := hregs ▸ sorted_wf hs _ _
    refine ⟨(hn (by decide) hw).trans ((rf_of_regs hregs _).trans ?_), fun _ => ⟨htsec, (hn (by decide) hw).trans ((rf_of_regs hregs _).trans ?_)⟩,
      fun h => absurd h0 h⟩
    · exact (((Spares.refl R.SEC_DBG_STAT_CAUSE _).wf_far (m := R.SEC_STAT_DBG) (by decide) 1).rf hs).trans hcause
    · exact wf_last hs (by decide) (by decide)
  · have htried : s.tokenTried k = (s.wf R.SEC_DBG_STAT_CAUSE k).raiseSrc Page.securityBase 1 := if_pos h0
    rw [htried] at hn ⊢
    have hw := sorted_raiseSrc hs Page.securityBase 1
    have hkeep : ∀ {l : Loc}, Page.securityBase + 0x28 ≤ l.addr → ((s.wf R.SEC_DBG_STAT_CAUSE k).raiseSrc Page.securityBase 1).rf l =
        (s.wf R.SEC_DBG_STAT_CAUSE k).rf l := fun h => ((Spares.refl _ _).raiseSrc (Loc.noErr_of_page (.inr h)) 1).rf hs
    refine ⟨(hn (by decide) hw).trans ((hkeep (by decide)).trans hcause), fun h => absurd h h0, fun _ => ⟨?_, ?_, ?_⟩⟩
    · exact ((State.raiseSrc_same (.refl 8589934600 _) rfl Page.securityBase 1).sec.resolve_left (by decide)).trans hsec
    · exact (hn (by decide) hw).trans ((hkeep (by decide)).trans hdbg)
    · rw [hn (l := R.ERR_STAT_STAT Page.securityBase) (by decide) hw]
      exact raiseSrc_raised hs _ (by decide)

/-! ### The IDE key exchange (R500) -/

/-- R500: a message that fails the exchange. -/
theorem ideFail_shows (s : State) : s.ideFail.sec = { s.sec with ideStage := 0, ideT := [], doe := leBytes 4 0xFFFFFFFF } ∧ s.ideFail.regs = s.regs :=
  ⟨rfl, rfl⟩

/-- R500: the device's answer to the first message. -/
def State.ideFirst (s : State) : List Byte :=
  leBytes 1 2 ++ fitBytes 1568 (Config.crypto 7 (leBytes 8 s.freeCtr) 1568)

theorem ideStart_shows (s : State) (req : List Byte) : ∃ sig, (s.ideStart req).sec =
    { s.sec with ideStage := 2, ideT := req ++ (s.ideFirst ++ fitBytes 4627 sig), doe := s.ideFirst ++ fitBytes 4627 sig } := ⟨_, rfl⟩

theorem length_ideFirst (s : State) : s.ideFirst.length = 1569 ∧ s.ideFirst.head? = some 2 := by
  unfold State.ideFirst
  refine ⟨?_, rfl⟩
  rw [List.length_append, length_leBytes, length_fitBytes]

theorem ideDerive_shows (s : State) (req : List Byte) : (s.ideDerive req).sec = { s.sec with
    ideStage := 3
    ideT := s.sec.ideT ++ req
    ideNew := fitBytes 64 (kmac (kemSecret ((s.sec.ideT.drop 34).take 1568) (req.drop 1)) (sha3 (s.sec.ideT ++ req)) 64 (ascii "EKX-IDE1"))
    doe := [] } := rfl

theorem ideUse_shows (s : State) : s.ideUse.sec = { s.sec with
    ideStage := 4, ideTx := s.sec.ideNew.take 32, ideRx := s.sec.ideNew.drop 32, doe := leBytes 1 4 } ∧
    s.ideUse.regs = (s.wf R.HIF_LINK_IDE 1).regs := ⟨rfl, rfl⟩

section Ide
variable {s : State} (h5 : s.stage = 5) (hup : s.rf R.HIF_LINK_SPEED ≠ 0) {req : List Byte}
include h5 hup

theorem ide_started (h : leAt req 0 1 = 1 ∧ req.length = 33) : execIdeKeyMessage req s = .next (s.ideStart req) := by
  unfold execIdeKeyMessage
  rw [if_neg (by rw [h5]; simpa using hup), if_pos h]

theorem ide_derived (h : leAt req 0 1 = 3 ∧ req.length = 1569 ∧ s.sec.ideStage = 2) : execIdeKeyMessage req s = .next (s.ideDerive req) := by
  unfold execIdeKeyMessage
  rw [if_neg (by rw [h5]; simpa using hup), if_neg (by omega), if_pos h]

theorem ide_used (h : leAt req 0 1 = 4 ∧ req.length = 1 ∧ s.sec.ideStage = 3) : execIdeKeyMessage req s = .next s.ideUse := by
  unfold execIdeKeyMessage
  rw [if_neg (by rw [h5]; simpa using hup), if_neg (by omega), if_neg (by omega), if_pos h]

theorem ide_failed (h : leAt req 0 1 = 0 ∨ leAt req 0 1 = 2 ∨ (leAt req 0 1 = 3 ∧ s.sec.ideStage ≠ 2) ∨
    (leAt req 0 1 = 4 ∧ s.sec.ideStage ≠ 3)) : execIdeKeyMessage req s = .next s.ideFail := by
  unfold execIdeKeyMessage
  rw [if_neg (by rw [h5]; simpa using hup), if_neg (by omega), if_neg (by omega), if_neg (by omega)]

/-- IDE_KEY_MESSAGE (R500). -/
theorem ideKeyMessage_shows (hc : s.Canon) : ∃ t, exec (.ideKeyMessage req) s = .next t ∧ s.SameBut t [.freeCtr, .regs, .sec] ∧
    (leAt req 0 1 = 1 → req.length = 33 → t.sec.ideStage = 2 ∧ t.sec.ideT = req ++ t.sec.doe ∧ t.sec.doe.length = 6196 ∧
      t.sec.doe.head? = some 2 ∧ t.sec.ideTx = s.sec.ideTx ∧ t.sec.ideRx = s.sec.ideRx) ∧
    (leAt req 0 1 = 3 → req.length = 1569 → s.sec.ideStage = 2 → t.sec.ideStage = 3 ∧ t.sec.ideT = s.sec.ideT ++ req ∧
      t.sec.ideNew = fitBytes 64 (kmac (kemSecret ((s.sec.ideT.drop 34).take 1568) (req.drop 1)) (sha3 (s.sec.ideT ++ req)) 64
        (ascii "EKX-IDE1")) ∧ t.sec.ideTx = s.sec.ideTx ∧ t.sec.ideRx = s.sec.ideRx) ∧
    (leAt req 0 1 = 4 → req.length = 1 → s.sec.ideStage = 3 → t.sec.ideStage = 4 ∧ t.sec.ideTx = s.sec.ideNew.take 32 ∧
      t.sec.ideRx = s.sec.ideNew.drop 32 ∧ t.rf R.HIF_LINK_IDE = 1) ∧
    (leAt req 0 1 = 0 ∨ leAt req 0 1 = 2 ∨ (leAt req 0 1 = 3 ∧ s.sec.ideStage ≠ 2) ∨ (leAt req 0 1 = 4 ∧ s.sec.ideStage ≠ 3) →
      t.sec.ideStage = 0 ∧ t.sec.doe = leBytes 4 0xFFFFFFFF ∧ t.sec.ideTx = s.sec.ideTx ∧ t.sec.ideRx = s.sec.ideRx ∧ t.regs = s.regs) := by
  obtain ⟨t, hex⟩ := exec_completes (.ideKeyMessage req) s
  have hnext : ∀ {u : State}, execIdeKeyMessage req s = .next u → t = u := fun h => Host.Outcome.next.inj (hex.symm.trans h)
  refine ⟨t, hex, sameBut_of_next hex, fun h1 hl => ?_, fun h1 hl hst => ?_, fun h1 hl hst => ?_, fun h => ?_⟩
  · obtain ⟨sig, hsec⟩ := ideStart_shows s req
    obtain ⟨f1, f2⟩ := length_ideFirst s
    rw [hnext (ide_started h5 hup ⟨h1, hl⟩), hsec]
    refine ⟨rfl, rfl, ?_, ?_, rfl, rfl⟩
    · rw [List.length_append, f1, length_fitBytes]
    · rw [List.head?_append, f2]
      rfl
  · rw [hnext (ide_derived h5 hup ⟨h1, hl, hst⟩), ideDerive_shows]
    exact ⟨rfl, rfl, rfl, rfl, rfl⟩
  · obtain ⟨u1, u2⟩ := ideUse_shows s
    rw [hnext (ide_used h5 hup ⟨h1, hl, hst⟩), u1]
    exact ⟨rfl, rfl, rfl, (rf_of_regs u2 _).trans (wf_last hc.regs (by decide) (by decide))⟩
  · obtain ⟨u1, u2⟩ := ideFail_shows s
    rw [hnext (ide_failed h5 hup h), u1]
    exact ⟨rfl, rfl, rfl, rfl, u2⟩

end Ide

/-! ### Attestation by the mailbox (R349, R496) -/

theorem doeAnswer_doe (s : State) (b : List Byte) : (s.doeAnswer b).sec.doe = b := rfl

/-- DOE Discovery (R349, log 88). -/
theorem doeDiscovery_shows {s : State} (i : Byte) (h2 : 2 ≤ s.stage) : ∃ t, exec (.doeAttest (.discovery i)) s = .next t ∧
    s.SameBut t [.freeCtr, .sec] ∧
    (i = 0 → t.sec.doe = [1, 0, 0, 1]) ∧ (i = 1 → t.sec.doe = leBytes 3 (Config.doeType 1).toNat ++ [2]) ∧
    (i = 2 → t.sec.doe = leBytes 3 (Config.doeType 2).toNat ++ [0]) := by
  have hex : exec (.doeAttest (.discovery i)) s = .next ((s.discovery i.toNat).2.doeAnswer (s.discovery i.toNat).1) := if_neg (Nat.not_lt.mpr h2)
  refine ⟨_, hex, sameBut_of_next hex, fun h => ?_, fun h => ?_, fun h => ?_⟩
  · rw [doeAnswer_doe, h]
    rfl
  · rw [doeAnswer_doe, h]
    rfl
  · rw [doeAnswer_doe, h]
    rfl

/-- DOE_ATTEST (R496). -/
theorem doeAttest_shows {s : State} (req : List Byte) (h56 : s.stage = 5 ∨ s.stage = 6) : ∃ t, exec (.doeAttest (.attest req)) s = .next t ∧
    s.SameBut t [.freeCtr, .sec] ∧
    (req.length = 36 → zeroAt req 1 3 = true → leAt req 0 1 = 1 → t.sec.doe.length = 5011 ∧ (t.sec.doe.drop 8).take 32 = req.drop 4) ∧
    (req.length = 36 → zeroAt req 1 3 = true → leAt req 0 1 = 2 → t.sec.doe = s.chainBytes) ∧
    (req.length ≠ 36 → t.sec.doe = leBytes 4 0xFFFFFFFF) := by
  have hst : ¬ (s.stage ≠ 5 ∧ s.stage ≠ 6) := by omega
  have hrun : exec (.doeAttest (.attest req)) s = if attestOk req then .next ((s.attest req).2.doeAnswer (s.attest req).1)
      else .next (s.doeAnswer doeFail) := if_neg hst
  obtain ⟨t, hex⟩ := exec_completes (.doeAttest (.attest req)) s
  have hok : req.length = 36 → zeroAt req 1 3 = true → leAt req 0 1 = 1 ∨ leAt req 0 1 = 2 → t = (s.attest req).2.doeAnswer (s.attest req).1 := by
    intro hl hz h12
    have ha : attestOk req = true := by
      unfold attestOk
      rw [hl, hz, Bool.and_true]
      rcases h12 with h | h
      · rw [h]
        rfl
      · rw [h]
        rfl
    rw [ha, if_pos rfl] at hrun
    exact Host.Outcome.next.inj (hex.symm.trans hrun)
  refine ⟨t, hex, sameBut_of_next hex, fun hl hz h1 => ?_, fun hl hz h2 => ?_, fun hl => ?_⟩
  · obtain ⟨sig, hsig⟩ := attest_report (s := s) (req := req) (by rw [h1]; decide)
    obtain ⟨hlen, hn⟩ := reportBody_shape s (req.drop 4)
    rw [hok hl hz (.inl h1), doeAnswer_doe, hsig]
    refine ⟨?_, ?_⟩
    · rw [List.length_append, hlen, length_fitBytes]
    · rw [List.drop_append_of_le_length (by omega), List.take_append_of_le_length (by rw [List.length_drop]; omega), hn]
      exact fitBytes_self (by rw [List.length_drop, hl])
  · rw [hok hl hz (.inr h2), doeAnswer_doe, attest_chain h2]
  · have hno : attestOk req = false := by
      unfold attestOk
      rw [beq_eq_false_iff_ne.mpr hl, Bool.false_and, Bool.false_and]
    rw [hno, if_neg Bool.false_ne_true] at hrun
    rw [Host.Outcome.next.inj (hex.symm.trans hrun)]
    rfl

/-- R350: AER reports. -/
def State.aerOn (s : State) : State := { s with sec := { s.sec with aer := true } }

theorem aerOn_parts (s : State) : s.aerOn.regs = s.regs ∧ s.aerOn.sec = { s.sec with aer := true } := ⟨rfl, rfl⟩

/-- IDE_INTEGRITY_FAILURE (R348, R350). -/
theorem ideIntegrityFailure_shows {s : State} (hc : s.Canon) (h : s.rf R.HIF_LINK_IDE = 1) : ∃ t, exec .ideIntegrityFailure s = .next t ∧
    s.SameBut t [.regs, .pairs, .sec] ∧ t.sec = { s.sec with aer := true } ∧
    (t.rf (R.ERR_STAT_STAT Page.hostifBase)).testBit 1 = true := by
  have hex : exec .ideIntegrityFailure s = .next { s.raiseSrc Page.hostifBase 1 with sec := { s.sec with aer := true } } := if_pos (flag_on h)
  have hregs : ({ s.raiseSrc Page.hostifBase 1 with sec := { s.sec with aer := true } } : State).regs = (s.raiseSrc Page.hostifBase 1).regs := rfl
  refine ⟨_, hex, sameBut_of_next hex, rfl, ?_⟩
  rw [rf_of_regs hregs]
  exact raiseSrc_raised hc.regs _ (by decide)

/-! ### MGMT fragments (R504) -/

/-- R504: the objects being collected. -/
def State.withObjs (s : State) (l : List MgmtObj) : State := { s with sec := { s.sec with objs := l } }

theorem withObjs_parts (s : State) (l : List MgmtObj) : (s.withObjs l).inbox = s.inbox ∧ (s.withObjs l).sec = { s.sec with objs := l } ∧
    (s.withObjs l).regs = s.regs := ⟨rfl, rfl, rfl⟩

/-- R504: the first fragment of an object that nothing has come of yet. -/
theorem takeFragment_first {s : State} {x : Pkt} (hl : x.payload.length ≤ 4096) (hi : x.aux % 256 = 0) (hk : 2 ≤ x.aux / 256 % 256)
    (hnew : ∀ y ∈ s.sec.objs, ¬ (y.src = x.src ∧ y.num = x.aux / 2 ^ 16 % 2 ^ 32)) (sigs : List Verified) (ok : Bool) (m : Meas) :
    s.takeFragment x sigs ok m = if 4 ≤ s.sec.objs.length then s.bump R.MBL_QREFUSED_COUNT 1
      else s.withObjs (s.sec.objs ++ [⟨x.src, x.aux / 2 ^ 16 % 2 ^ 32, x.aux / 256 % 256, 1, x.payload⟩]) := by
  have hmine : ∀ y ∈ s.sec.objs, (y.src == x.src && y.num == x.aux / 2 ^ 16 % 2 ^ 32) = false := fun y hy => by
    rw [Bool.eq_false_iff, ne_eq, Bool.and_eq_true, beq_iff_eq, beq_iff_eq]
    exact hnew y hy
  have hold : (s.sec.objs.find? fun o => o.src == x.src && o.num == x.aux / 2 ^ 16 % 2 ^ 32) = none :=
    List.find?_eq_none.mpr fun y hy => by rw [hmine y hy]; decide
  have hothers : (s.sec.objs.filter fun o => !(o.src == x.src && o.num == x.aux / 2 ^ 16 % 2 ^ 32)) = s.sec.objs :=
    List.filter_eq_self.mpr fun y hy => by rw [hmine y hy]; rfl
  have hfits : (decide (x.payload.length > 4096) || !(x.aux % 256 == 0 && x.aux / 256 % 256 != 0)) = false := by
    rw [hi, decide_eq_false (Nat.not_lt.mpr hl), bne_iff_ne.mpr (by omega)]
    rfl
  have hlast : ¬ x.aux % 256 + 1 = x.aux / 256 % 256 := by omega
  unfold State.takeFragment
  dsimp only
  rw [hold, hothers]
  dsimp only
  rw [hfits, if_neg Bool.false_ne_true, if_neg hlast, hi]
  by_cases h4 : 4 ≤ s.sec.objs.length
  · rw [if_pos h4, if_pos (by simpa using h4)]
  · rw [if_neg h4, if_neg (by simpa using h4)]
    rfl

/-- MGMT_PACKET (R504). -/
theorem mgmtPacket_shows {s : State} (hc : s.Canon) {p : Fin 12} {vc : Fin 2} {sigs : List Verified} {ok : Bool} {m : Meas} {x : Pkt}
    {rest : List (Nat × Pkt)} (hin : takeInbox p 3 vc s.inbox = some (x, rest)) (ht : x.ptype = 6) (hl : x.payload.length ≤ 4096)
    (hi : x.aux % 256 = 0) (hk : 2 ≤ x.aux / 256 % 256) (hnew : ∀ y ∈ s.sec.objs, ¬ (y.src = x.src ∧ y.num = x.aux / 2 ^ 16 % 2 ^ 32)) :
    ∃ t, exec (.mgmtPacket p vc sigs ok m) s = .next t ∧ s.SameBut t [.regs, .pairs, .ports, .inbox, .sec] ∧ t.inbox = rest ∧
      (s.sec.objs.length < 4 → t.sec =
        { s.sec with objs := s.sec.objs ++ [⟨x.src, x.aux / 2 ^ 16 % 2 ^ 32, x.aux / 256 % 256, 1, x.payload⟩] }) ∧
      (4 ≤ s.sec.objs.length → t.sec = s.sec ∧ t.rf R.MBL_QREFUSED_COUNT = satAdd32 (s.rf R.MBL_QREFUSED_COUNT) 1) := by
  have hrun : exec (.mgmtPacket p vc sigs ok m) s = .next ((s.consume p x rest).takeFragment x sigs ok m) := by
    show execMgmtPacket p vc sigs ok m s = _
    unfold execMgmtPacket
    rw [hin]
    exact if_neg (not_not.mpr ht)
  have hcons := consume_same s p x rest
  have hbox := inbox_consume s p x rest
  have hsec : (s.consume p x rest).sec = s.sec := hcons.sec.resolve_left (by decide)
  have hregs : (s.consume p x rest).regs = s.regs := hcons.regs.resolve_left (by decide)
  rw [takeFragment_first hl hi hk (by rw [hsec]; exact hnew), hsec] at hrun
  have hwide : Same (partsMask [.regs, .pairs, .ports, .inbox, .sec]) s (s.consume p x rest) := hcons.mono rfl
  generalize s.consume p x rest = v at *
  by_cases h4 : 4 ≤ s.sec.objs.length
  · rw [if_pos h4] at hrun
    have hf := wf_frame v R.MBL_QREFUSED_COUNT (satAdd32 (v.rf R.MBL_QREFUSED_COUNT) 1)
    refine ⟨_, hrun, (State.bump_same hwide rfl _ _).parts, (congrArg State.inbox hf :).trans hbox, fun h => absurd h4 (by omega),
      fun _ => ⟨(congrArg State.sec hf :).trans hsec, ?_⟩⟩
    rw [rf_bump_self (hregs ▸ hc.regs) (l := R.MBL_QREFUSED_COUNT) (by decide), rf_of_regs hregs]
    exact satAdd32_mod _ _
  · rw [if_neg h4] at hrun
    obtain ⟨w1, w2, -⟩ := withObjs_parts v (s.sec.objs ++ [⟨x.src, x.aux / 2 ^ 16 % 2 ^ 32, x.aux / 256 % 256, 1, x.payload⟩])
    have hput : Same (partsMask [.regs, .pairs, .ports, .inbox, .sec]) v
        (v.withObjs (s.sec.objs ++ [⟨x.src, x.aux / 2 ^ 16 % 2 ^ 32, x.aux / 256 % 256, 1, x.payload⟩])) :=
      Same.of_frame (M := partsMask [.regs, .pairs, .ports, .inbox, .sec]) rfl
    refine ⟨_, hrun, (hwide.trans hput).parts, w1.trans hbox, fun _ => ?_, fun h => absurd h h4⟩
    rw [w2, hsec]

/-- MGMT_REASSEMBLY_TIMEOUT (R504). -/
theorem mgmtReassemblyTimeout_shows {s : State} (hc : s.Canon) {i : Fin 4} {o : MgmtObj} (h : s.sec.objs[i.val]? = some o) :
    ∃ t, exec (.mgmtReassemblyTimeout i) s = .next t ∧ s.SameBut t [.regs, .sec] ∧ t.sec = { s.sec with objs := s.sec.objs.erase o } ∧
      t.rf R.MBL_QREFUSED_COUNT = satAdd32 (s.rf R.MBL_QREFUSED_COUNT) 1 := by
  have hex : exec (.mgmtReassemblyTimeout i) s = .next ((s.withObjs (s.sec.objs.erase o)).bump R.MBL_QREFUSED_COUNT 1) := by
    show execMgmtReassemblyTimeout i s = _
    unfold execMgmtReassemblyTimeout
    rw [h]
    rfl
  obtain ⟨-, w2, w3⟩ := withObjs_parts s (s.sec.objs.erase o)
  have hf := wf_frame (s.withObjs (s.sec.objs.erase o)) R.MBL_QREFUSED_COUNT
    (satAdd32 ((s.withObjs (s.sec.objs.erase o)).rf R.MBL_QREFUSED_COUNT) 1)
  refine ⟨_, hex, sameBut_of_next hex, (congrArg State.sec hf :).trans w2, ?_⟩
  rw [rf_bump_self (w3 ▸ hc.regs) (l := R.MBL_QREFUSED_COUNT) (by decide), rf_of_regs w3]
  exact satAdd32_mod _ _

/-! ### The test access port (R529) -/

theorem tapTrst_shows (s : State) (low : Bool) : ∃ t, exec (.jtagAccess (.trst low)) s = .next t ∧ { t with pins := s.pins } = s ∧
    t.pins.tapReg = .idcode ∧ t.pins.trst = low := ⟨_, rfl, rfl, rfl, rfl⟩

section Tap
variable {s : State} (ht : s.pins.trst = false)
include ht

theorem tapSelect_shows (r : TapReg) : ∃ t, exec (.jtagAccess (.select r)) s = .next t ∧ { t with pins := s.pins } = s ∧
    t.pins.tapReg = if r = .debug ∧ s.rf R.SEC_STAT_DBG = 0 then .bypass else r := by
  have hlow : ¬ s.pins.trst = true := by
    rw [ht]
    decide
  refine ⟨_, if_neg hlow, rfl, ?_⟩
  by_cases h : r = .debug ∧ s.rf R.SEC_STAT_DBG = 0
  · rw [if_pos h]
    exact if_pos (by rw [h.1, flag_off h.2]; rfl)
  · rw [if_neg h]
    refine if_neg fun hx => h ?_
    rw [Bool.and_eq_true, decide_eq_true_eq, Bool.not_eq_true'] at hx
    exact ⟨hx.1, by simpa [State.flag] using hx.2⟩

/-- R529: the register that the bits are shifted through. -/
def State.tapShown (s : State) : TapReg := if s.pins.tapReg = .debug && !s.flag R.SEC_STAT_DBG then .bypass else s.pins.tapReg

omit ht in
theorem tapShown_other {r : TapReg} (h : s.pins.tapReg = r) (hr : r ≠ .debug) : s.tapShown = r := by
  unfold State.tapShown
  rw [h, decide_eq_false hr]
  rfl

theorem tapShift_shows (tdi : List Bool) : ∃ t, exec (.jtagAccess (.shift tdi)) s = .next t ∧ s.SameBut t [.freeCtr, .pins] ∧
    t.pins.tdo.length = tdi.length ∧
    (s.pins.tapReg = .idcode → t.pins.tdo = ((List.range 32).map idcode.getLsbD ++ tdi).take tdi.length) ∧
    (s.pins.tapReg = .bypass → t.pins.tdo = (false :: tdi).take tdi.length) := by
  have hlow : ¬ s.pins.trst = true := by
    rw [ht]
    decide
  have hrun : ∃ i t, exec (.jtagAccess (.shift tdi)) s = .next t ∧ t.pins.tdo = (tapBits s.tapShown i ++ tdi).take tdi.length :=
    ⟨_, _, if_neg hlow, rfl⟩
  obtain ⟨i, t, hex, htdo⟩ := hrun
  refine ⟨t, hex, sameBut_of_next hex, ?_, fun h => ?_, fun h => ?_⟩
  · rw [htdo, List.length_take, List.length_append]
    omega
  · rw [htdo, tapShown_other h (by decide)]
    rfl
  · rw [htdo, tapShown_other h (by decide)]
    rfl

end Tap

/-! ### The statement -/

/-- Settles O47: keys, updates, fuses, tokens, attestation, fragments and the test access port (signatures and digests are log 4's, a
BEGIN of the session's owner log 36's, IDCODE after TRST_N and what is shifted out log 38's, a request of another length log 54's, an
exchange that starts over log 56's, fragments log 32's, the two type codes log 88's). -/
theorem securityCommandsAct : Obligations.SecurityCommandsAct := by
  refine ⟨fun u v s c hc hm hs => ⟨keyLoad_shows hc hm hs, keyClear_shows hc hm hs⟩, fun u v sigs ok s h b k got hc hm hst => ?_,
    fun u v sigs ok s k hc => ⟨svnCommit_shows hc, fuseBurnDone_shows hc ok, debugToken_shows hc⟩, fun req s hc => ?_,
    fun p vc i sigs ok m s x rest o hc => ⟨mgmtPacket_shows hc, mgmtReassemblyTimeout_shows hc⟩, fun low r tdi s => ?_⟩
  · exact ⟨fun hv hh hk => hostBegin_shows hc hm hst sigs ok hv hh hk, fun hs ho hh hb => ⟨fun hv hbytes hg => hostData_shows hc hm hst hs ho hh hb hv hbytes hg,
      fun hv hk => hostFinish_shows hc hm hst hs ho hh hv ok hk⟩, hostCancel_shows hc hm⟩
  · exact ⟨fun h5 hup => ideKeyMessage_shows h5 hup hc, fun i => doeDiscovery_shows i, doeAttest_shows req, ideIntegrityFailure_shows hc⟩
  · exact ⟨tapTrst_shows s low, fun ht => ⟨tapSelect_shows ht r, tapShift_shows ht tdi⟩⟩

end Sys2Proof.Machine


/-! Windows of interference and slowdown, shadow comparisons, injected faults (R381 to R383, R388 to R393, R408 to R410): parts of
O56. -/

namespace Sys2Proof.Machine

/-! ### Several fields written -/

/-- Fields written one after another. -/
def State.writeAll (s : State) (l : List (Loc × Nat)) : State := l.foldl (fun s e => s.wf e.1 e.2) s

theorem writeAll_frame (l : List (Loc × Nat)) {s t : State} (h : { t with regs := s.regs } = s) :
    { t.writeAll l with regs := s.regs } = s := by
  induction l generalizing t with
  | nil => exact h
  | cons e l ih => exact ih (regsFrame_wf h e.1 e.2)

theorem Spares.writeAll {k : Loc} {s0 s : State} {l : List (Loc × Nat)} (hk : Spares k s0 s) (h : ∀ e ∈ l, k.addr ≠ e.1.addr) :
    Spares k s0 (s.writeAll l) := by
  induction l generalizing s with
  | nil => exact hk
  | cons e l ih => exact ih (hk.wf_far (h e List.mem_cons_self) e.2) fun x hx => h x (List.mem_cons_of_mem _ hx)

/-- Fields of different registers: each shows what it is given. -/
theorem writeAll_shows {l : List (Loc × Nat)} (hn : (l.map fun e => e.1.addr).Nodup) (hf : ∀ e ∈ l, e.1.Fits ∧ e.2 < 2 ^ e.1.wid)
    {s : State} (hs : Store.Sorted s.regs) {e : Loc × Nat} (he : e ∈ l) : (s.writeAll l).rf e.1 = e.2 := by
  induction l generalizing s with
  | nil => exact (List.not_mem_nil he).elim
  | cons x l ih =>
    obtain ⟨hx, hn'⟩ := List.nodup_cons.mp (List.map_cons ▸ hn)
    have hsw := sorted_wf hs x.1 x.2
    show ((s.wf x.1 x.2).writeAll l).rf e.1 = e.2
    rcases List.mem_cons.mp he with rfl | he
    · have hfar : ∀ y ∈ l, e.1.addr ≠ y.1.addr := fun y hy h => hx (h ▸ List.mem_map_of_mem (f := fun e => e.1.addr) hy)
      exact ((Spares.writeAll (.refl e.1 _) hfar).rf hsw).trans
        (wf_last hs (hf e List.mem_cons_self).1 (hf e List.mem_cons_self).2)
    · exact ih hn' (fun y hy => hf y (List.mem_cons_of_mem _ hy)) hsw he

/-! ### A window of interference ends (R381, R382) -/

theorem slowdown_lt (a b : Nat) : slowdown a b < 2 ^ 32 := by
  unfold slowdown
  split
  · exact Nat.lt_of_le_of_lt (Nat.min_le_left _ _) (by decide)
  · split <;> decide

/-- R382: what a window of context `c` shows. -/
def windowFields (c : Nat) (w : WinCounts) : List (Loc × Nat) :=
  [(R.CTX_IF_SLOW_S c, slowdown w.active w.blocked), (R.CTX_IF_ACTIVE_TICKS c, w.active), (R.CTX_IF_BLOCKED_TICKS c, w.blocked),
    (R.CTX_IF_BISSUE_TICKS c, w.issue), (R.CTX_IF_BHBM_TICKS c, w.hbm), (R.CTX_IF_BRING_TICKS c, w.ring), (R.CTX_IF_BPORT_TICKS c, w.port)]

theorem windowFields_nodup (c : Nat) (w : WinCounts) : ((windowFields c w).map fun e => e.1.addr).Nodup :=
  (List.Nodup.map (f := fun k => Page.contextBase c + k) (fun _ _ h => Nat.add_left_cancel h)
    (by decide : [0x118, 0x11c, 0x120, 0x124, 0x128, 0x12c, 0x130].Nodup) : _)

theorem windowFields_fit {c : Nat} {w : WinCounts} (h : winCountsOk w = true) (hlt : w.active + w.blocked < 2 ^ 32) :
    ∀ e ∈ windowFields c w, e.1.Fits ∧ e.2 < 2 ^ e.1.wid := by
  unfold winCountsOk at h
  simp only [Bool.and_eq_true, List.all_cons, List.all_nil, decide_eq_true_eq, Bool.and_true] at h
  obtain ⟨⟨h1, h2, h3, h4⟩, -⟩ := h
  have hfit : ∀ l : Loc, l.lo = 0 → l.wid = 32 → ∀ n, n < 2 ^ 32 → l.Fits ∧ n < 2 ^ l.wid := fun l h0 h32 n hn => by
    unfold Loc.Fits
    rw [h0, h32]
    exact ⟨Nat.le_refl 32, hn⟩
  intro e he
  simp only [windowFields, List.mem_cons, List.not_mem_nil, or_false] at he
  rcases he with rfl | rfl | rfl | rfl | rfl | rfl | rfl
  · exact hfit _ rfl rfl _ (slowdown_lt _ _)
  · exact hfit _ rfl rfl _ (by omega)
  · exact hfit _ rfl rfl _ (by omega)
  · exact hfit _ rfl rfl _ (by omega)
  · exact hfit _ rfl rfl _ (by omega)
  · exact hfit _ rfl rfl _ (by omega)
  · exact hfit _ rfl rfl _ (by omega)

/-- INTERFERENCE_WINDOW_END (R382). -/
theorem interferenceWindowEnd_shows {s : State} (hs : Store.Sorted s.regs) {c : Fin 64} {w : WinCounts} (hok : winCountsOk w = true)
    (hr : s.resident c = true) (hw : w.active + w.blocked ≤ 25000 * s.rf (R.CTX_IF_CTRL_WINDOW c)) :
    ∃ t, exec (.interferenceWindowEnd c w) s = .next t ∧ { t with regs := s.regs } = s ∧
      t.rf (R.CTX_IF_SLOW_S c) = slowdown w.active w.blocked ∧ t.rf (R.CTX_IF_ACTIVE_TICKS c) = w.active ∧
      t.rf (R.CTX_IF_BLOCKED_TICKS c) = w.blocked ∧ t.rf (R.CTX_IF_BISSUE_TICKS c) = w.issue ∧
      t.rf (R.CTX_IF_BHBM_TICKS c) = w.hbm ∧ t.rf (R.CTX_IF_BRING_TICKS c) = w.ring ∧
      t.rf (R.CTX_IF_BPORT_TICKS c) = w.port ∧ t.rf (R.CTX_IF_SEQ_SEQ c) = (s.rf (R.CTX_IF_SEQ_SEQ c) + 1) % 2 ^ 32 := by
  have hno : ¬ ((!s.resident c) = true ∨ w.active + w.blocked > 25000 * s.rf (R.CTX_IF_CTRL_WINDOW c)) := by
    rw [hr]
    exact fun h => h.elim (fun h => nomatch h) (fun h => absurd h (Nat.not_lt.mpr hw))
  have hex : exec (.interferenceWindowEnd c w) s = .next ((s.writeAll (windowFields c w)).wf (R.CTX_IF_SEQ_SEQ c)
      ((s.writeAll (windowFields c w)).rf (R.CTX_IF_SEQ_SEQ c) + 1)) := by
    show execInterferenceWindowEnd c w s = _
    unfold execInterferenceWindowEnd
    rw [if_neg (by simpa using hno)]
    rfl
  have hwin : s.rf (R.CTX_IF_CTRL_WINDOW c) < 2 ^ 10 := rf_lt s _
  have hshow : ∀ e ∈ windowFields c w, (s.writeAll (windowFields c w)).rf e.1 = e.2 := fun e he =>
    writeAll_shows (windowFields_nodup c w) (windowFields_fit hok (by omega)) hs he
  have hseq : ∀ e ∈ windowFields c w, (R.CTX_IF_SEQ_SEQ c).addr ≠ e.1.addr := fun e he h => by
    have hm : (R.CTX_IF_SEQ_SEQ c).addr ∈ (windowFields c w).map fun e => e.1.addr := h ▸ List.mem_map_of_mem (f := fun e => e.1.addr) he
    have hlist : Page.contextBase c + 0x114 ∈ [0x118, 0x11c, 0x120, 0x124, 0x128, 0x12c, 0x130].map fun k => Page.contextBase c + k := hm
    obtain ⟨k, hk, heq⟩ := List.mem_map.mp hlist
    rw [Nat.add_left_cancel heq] at hk
    exact absurd hk (by decide)
  have hsorted : Store.Sorted (s.writeAll (windowFields c w)).regs := (Spares.writeAll (.refl (R.CTX_IF_SEQ_SEQ c) s) hseq).sorted hs
  have hold : (s.writeAll (windowFields c w)).rf (R.CTX_IF_SEQ_SEQ c) = s.rf (R.CTX_IF_SEQ_SEQ c) :=
    (Spares.writeAll (.refl (R.CTX_IF_SEQ_SEQ c) s) hseq).rf hs
  have hframe := writeAll_frame (s := s) (windowFields c w) rfl
  have hlast : ∀ e ∈ windowFields c w, ((s.writeAll (windowFields c w)).wf (R.CTX_IF_SEQ_SEQ c)
      ((s.writeAll (windowFields c w)).rf (R.CTX_IF_SEQ_SEQ c) + 1)).rf e.1 = e.2 := fun e he =>
    (((Spares.refl e.1 _).wf_far (m := R.CTX_IF_SEQ_SEQ c) (fun h => hseq e he h.symm) _).rf hsorted).trans (hshow e he)
  have hrest : ((s.writeAll (windowFields c w)).wf (R.CTX_IF_SEQ_SEQ c)
      ((s.writeAll (windowFields c w)).rf (R.CTX_IF_SEQ_SEQ c) + 1)).rf (R.CTX_IF_SEQ_SEQ c) = (s.rf (R.CTX_IF_SEQ_SEQ c) + 1) % 2 ^ 32 := by
    rw [hold]
    exact rf_wf_self (l := R.CTX_IF_SEQ_SEQ c) hsorted (Nat.le_of_ble_eq_true rfl) _
  have hall := regsFrame_wf hframe (R.CTX_IF_SEQ_SEQ c) ((s.writeAll (windowFields c w)).rf (R.CTX_IF_SEQ_SEQ c) + 1)
  generalize (s.writeAll (windowFields c w)).wf (R.CTX_IF_SEQ_SEQ c) ((s.writeAll (windowFields c w)).rf (R.CTX_IF_SEQ_SEQ c) + 1) = t at *
  simp only [windowFields, List.forall_mem_cons] at hlast
  obtain ⟨h1, h2, h3, h4, h5, h6, h7, -⟩ := hlast
  exact ⟨t, hex, hall, h1, h2, h3, h4, h5, h6, h7, hrest⟩

/-! ### The state of the collector (R398, R403) -/

theorem fcolEvt_regs_far {s : State} (b : Nat) : s.fcolEvt b = s ∨ ∃ v, (s.fcolEvt b).regs = (s.wf R.FCOL_EVT_CAUSE v).regs := by
  unfold State.fcolEvt
  dsimp only
  split
  · exact .inl rfl
  · refine .inr ⟨s.rf R.FCOL_EVT_CAUSE ||| 2 ^ b, ?_⟩
    split
    · exact (State.sendMsg_same (.refl 9216 (s.wf R.FCOL_EVT_CAUSE (s.rf R.FCOL_EVT_CAUSE ||| 2 ^ b))) rfl _ _).regs.resolve_left (by decide)
    · rfl

theorem Spares.fcolEvt {l : Loc} {s0 s : State} (hk : Spares l s0 s) (h : l.addr ≠ A.FCOL_EVT) (b : Nat) : Spares l s0 (s.fcolEvt b) := by
  rcases fcolEvt_regs_far (s := s) b with he | ⟨v, he⟩
  · rw [he]
    exact hk
  · exact (hk.wf_far (m := R.FCOL_EVT_CAUSE) h v).then_regs he

/-- R398: the collector becomes active, or the quiet period starts again. -/
theorem collectorStep_active {s : State} (hs : Store.Sorted s.regs) (active : Bool) :
    (s.collectorStep true active).flag R.FCOL_STAT_STATE = true ∧ (s.collectorStep true active).rf R.FCOL_QTIME_TICKS = 0 := by
  unfold State.collectorStep
  rw [Bool.true_or]
  by_cases hi : s.flag R.FCOL_STAT_STATE = true
  · rw [hi]
    exact ⟨(flag_wf_ne hs (l := R.FCOL_STAT_STATE) (m := R.FCOL_QTIME_TICKS) (by decide) 0).trans hi, wf_last (l := R.FCOL_QTIME_TICKS) hs (by decide) (by decide)⟩
  · rw [Bool.not_eq_true] at hi
    rw [hi]
    dsimp only [Bool.not_false, if_true]
    have h1 := sorted_wf hs R.FCOL_STAT_STATE 1
    have h2 := sorted_wf h1 R.FCOL_QTIME_TICKS 0
    constructor
    · have : ((((s.wf R.FCOL_STAT_STATE 1).wf R.FCOL_QTIME_TICKS 0).bump R.FCOL_ENTRIES_COUNT 1).fcolEvt 0).rf R.FCOL_STAT_STATE = 1 :=
        (((((Spares.refl R.FCOL_STAT_STATE _).wf_far (m := R.FCOL_QTIME_TICKS) (by decide) 0).bump (m := R.FCOL_ENTRIES_COUNT) (by decide) 1).fcolEvt
          (by decide) 0).rf h1).trans (wf_last hs (by decide) (by decide))
      exact flag_on this
    · exact ((((Spares.refl R.FCOL_QTIME_TICKS _).bump (m := R.FCOL_ENTRIES_COUNT) (by decide) 1).fcolEvt (by decide) 0).rf h2).trans
        (wf_last h1 (by decide) (by decide))

/-- R398: the quiet period has passed. -/
theorem collectorStep_recovers {s : State} (hs : Store.Sorted s.regs) (hst : s.flag R.FCOL_STAT_STATE = true)
    (hd : s.flag R.FCOL_STAT_DEVFATAL = false) (hq : s.rf R.FCOL_QUIET_MS * msTicks ≤ s.rf R.FCOL_QTIME_TICKS + 1) :
    (s.collectorStep false false).flag R.FCOL_STAT_STATE = false ∧
      (s.collectorStep false false).rf R.FCOL_RECOVERIES_COUNT = satAdd32 (s.rf R.FCOL_RECOVERIES_COUNT) 1 := by
  have h0 := sorted_wf hs R.FCOL_QTIME_TICKS (s.rf R.FCOL_QTIME_TICKS + 1)
  have hquiet : (s.wf R.FCOL_QTIME_TICKS (s.rf R.FCOL_QTIME_TICKS + 1)).rf R.FCOL_QUIET_MS = s.rf R.FCOL_QUIET_MS := rf_wf_addr s _ (by decide)
  unfold State.collectorStep
  rw [hst, hd]
  dsimp only [Bool.not_true, Bool.or_self]
  rw [if_neg (fun h => nomatch h), if_neg (fun h => nomatch h), hquiet, if_pos hq]
  generalize hu : s.wf R.FCOL_QTIME_TICKS (s.rf R.FCOL_QTIME_TICKS + 1) = u at h0
  have h1 := sorted_wf h0 R.FCOL_STAT_STATE 0
  constructor
  · have : (((u.wf R.FCOL_STAT_STATE 0).bump R.FCOL_RECOVERIES_COUNT 1).fcolEvt 2).rf R.FCOL_STAT_STATE = 0 :=
      ((((Spares.refl R.FCOL_STAT_STATE _).bump (m := R.FCOL_RECOVERIES_COUNT) (by decide) 1).fcolEvt (by decide) 2).rf h1).trans
        (wf_last h0 (by decide) (by decide))
    exact flag_off this
  · have hold : (u.wf R.FCOL_STAT_STATE 0).rf R.FCOL_RECOVERIES_COUNT = s.rf R.FCOL_RECOVERIES_COUNT := by
      rw [← hu, rf_wf_addr _ _ (by decide), rf_wf_addr _ _ (by decide)]
    have h2 := sorted_bump h1 R.FCOL_RECOVERIES_COUNT 1
    rw [((Spares.refl R.FCOL_RECOVERIES_COUNT _).fcolEvt (by decide) 2).rf h2, rf_bump_self h1 (by decide), hold]
    exact satAdd32_mod _ 1

/-- R398: the quiet period goes on. -/
theorem collectorStep_counts {s : State} (hs : Store.Sorted s.regs) (hst : s.flag R.FCOL_STAT_STATE = true)
    (hd : s.flag R.FCOL_STAT_DEVFATAL = false) (hq : ¬ s.rf R.FCOL_QUIET_MS * msTicks ≤ s.rf R.FCOL_QTIME_TICKS + 1) :
    (s.collectorStep false false).flag R.FCOL_STAT_STATE = true ∧
      (s.collectorStep false false).rf R.FCOL_QTIME_TICKS = s.rf R.FCOL_QTIME_TICKS + 1 := by
  have hquiet : (s.wf R.FCOL_QTIME_TICKS (s.rf R.FCOL_QTIME_TICKS + 1)).rf R.FCOL_QUIET_MS = s.rf R.FCOL_QUIET_MS := rf_wf_addr s _ (by decide)
  have hms : s.rf R.FCOL_QUIET_MS < 2 ^ 16 := rf_lt s _
  have hlt : s.rf R.FCOL_QTIME_TICKS + 1 < 2 ^ 32 := by
    unfold msTicks at hq
    omega
  unfold State.collectorStep
  rw [hst, hd]
  dsimp only [Bool.not_true, Bool.or_self]
  rw [if_neg (fun h => nomatch h), if_neg (fun h => nomatch h), hquiet, if_neg hq]
  exact ⟨(flag_wf_ne hs (l := R.FCOL_STAT_STATE) (m := R.FCOL_QTIME_TICKS) (by decide) _).trans hst, wf_last (l := R.FCOL_QTIME_TICKS) hs (by decide) hlt⟩

/-- R398: with nothing raised and the collector idle nothing happens. -/
theorem collectorStep_idle {s : State} (h : s.flag R.FCOL_STAT_STATE = false) : s.collectorStep false false = s := by
  unfold State.collectorStep
  rw [h]
  rfl

/-- QUIET_PERIOD_EXPIRY (R398). -/
theorem quietPeriodExpiry_shows {s : State} (hc : s.Canon) (hst : s.flag R.FCOL_STAT_STATE = true) (hd : s.flag R.FCOL_STAT_DEVFATAL = false)
    (hq : s.quiet = true) : ∃ t, exec .quietPeriodExpiry s = .next t ∧ s.SameBut t [.now, .regs, .msgs, .msixPend, .flash, .pwr] ∧
      t.flag R.FCOL_STAT_STATE = false ∧ t.rf R.FCOL_RECOVERIES_COUNT = satAdd32 (s.rf R.FCOL_RECOVERIES_COUNT) 1 ∧
      t.now = s.now + max 1 (s.rf R.FCOL_QUIET_MS * msTicks - s.rf R.FCOL_QTIME_TICKS) := by
  have hms : s.rf R.FCOL_QUIET_MS < 2 ^ 16 := rf_lt s _
  have hqt : s.rf R.FCOL_QTIME_TICKS < 2 ^ 32 := rf_lt s _
  obtain ⟨n, hn⟩ : ∃ n, n = max 1 (s.rf R.FCOL_QUIET_MS * msTicks - s.rf R.FCOL_QTIME_TICKS) := ⟨_, rfl⟩
  have hex : exec .quietPeriodExpiry s =
      .next (((s.wf R.FCOL_QTIME_TICKS (s.rf R.FCOL_QTIME_TICKS + n - 1)).elapse n).collectorStep false false) := by
    show execQuietPeriodExpiry s = _
    unfold execQuietPeriodExpiry
    rw [hst, hd, hq, hn]
    rfl
  have hlt : s.rf R.FCOL_QTIME_TICKS + n - 1 < 2 ^ 32 := by
    unfold msTicks at hn
    omega
  have hsw := sorted_wf hc.regs R.FCOL_QTIME_TICKS (s.rf R.FCOL_QTIME_TICKS + n - 1)
  have hpast : s.rf R.FCOL_QUIET_MS * msTicks ≤ s.rf R.FCOL_QTIME_TICKS + n - 1 + 1 := by omega
  obtain ⟨u, hu⟩ : ∃ u, u = (s.wf R.FCOL_QTIME_TICKS (s.rf R.FCOL_QTIME_TICKS + n - 1)).elapse n := ⟨_, rfl⟩
  have hregs : u.regs = (s.wf R.FCOL_QTIME_TICKS (s.rf R.FCOL_QTIME_TICKS + n - 1)).regs := by rw [hu]; rfl
  have hfar : ∀ l : Loc, l.addr ≠ A.FCOL_QTIME → u.rf l = s.rf l := fun l h => (rf_of_regs hregs l).trans (rf_wf_addr s _ h)
  have hqu : u.rf R.FCOL_QTIME_TICKS = s.rf R.FCOL_QTIME_TICKS + n - 1 := (rf_of_regs hregs _).trans (wf_last hc.regs (by decide) hlt)
  have hflag : ∀ l : Loc, l.addr ≠ A.FCOL_QTIME → u.flag l = s.flag l := fun l h => congrArg (· != 0) (hfar l h)
  obtain ⟨h1, h2⟩ := collectorStep_recovers (s := u) (by rw [hregs]; exact hsw) ((hflag _ (by decide)).trans hst) ((hflag _ (by decide)).trans hd)
    (by rw [hqu, hfar _ (by decide)]; exact hpast)
  have hnow : (u.collectorStep false false).now = u.now :=
    (State.collectorStep_same (.refl 9224 u) rfl false false).now.resolve_left (by decide)
  have hunow : u.now = s.now + n := by rw [hu]; exact congrArg (· + n) (congrArg State.now (wf_frame s R.FCOL_QTIME_TICKS (s.rf R.FCOL_QTIME_TICKS + n - 1)) :)
  refine ⟨_, hex, ?_, ?_, ?_, ?_⟩
  · exact (State.collectorStep_same (State.elapse_same (State.wf_same (.refl (partsMask [.now, .regs, .msgs, .msixPend, .flash, .pwr]) s) rfl _ _) rfl n)
      rfl false false).parts
  · rw [← hu]; exact h1
  · rw [← hu, h2, hfar _ (by decide)]
  · rw [← hu, hnow, hunow, hn]

/-! ### Forced events (R388, R390) -/

theorem rf_errWords_stat {s : State} (hs : Store.Sorted s.regs) (page b : Nat) :
    (s.errWords page b).rf (R.ERR_STAT_STAT page) = (s.rf (R.ERR_STAT_STAT page) ||| 2 ^ b) % 2 ^ 32 := by
  refine Eq.trans ?_ (rf_wf_self (l := R.ERR_STAT_STAT page) hs (Nat.le_of_ble_eq_true rfl) (s.rf (R.ERR_STAT_STAT page) ||| 2 ^ b))
  have hsw := sorted_wf hs (R.ERR_STAT_STAT page) (s.rf (R.ERR_STAT_STAT page) ||| 2 ^ b)
  unfold State.errWords
  dsimp only
  generalize s.wf (R.ERR_STAT_STAT page) (s.rf (R.ERR_STAT_STAT page) ||| 2 ^ b) = u at hsw ⊢
  have h1 : Spares (R.ERR_STAT_STAT page) u (u.bump (R.ERR_CNT_COUNT page) 1) := (Spares.refl _ u).bump (ne_page page (by decide)) 1
  refine Spares.rf (h1.ite ?_) hsw
  exact (h1.wf_far (m := R.ERR_FIRST_BIT page) (ne_page page (by decide)) _).wf_far (m := R.ERR_FIRST_VALID page) (ne_page page (by decide)) _

theorem rf_errWords_first {s : State} (hs : Store.Sorted s.regs) (page b : Nat) :
    (s.errWords page b).rf (R.ERR_FIRST_VALID page) = 1 := by
  have hsb := sorted_bump (sorted_wf hs (R.ERR_STAT_STAT page) (s.rf (R.ERR_STAT_STAT page) ||| 2 ^ b)) (R.ERR_CNT_COUNT page) 1
  unfold State.errWords
  dsimp only
  generalize (s.wf (R.ERR_STAT_STAT page) (s.rf (R.ERR_STAT_STAT page) ||| 2 ^ b)).bump (R.ERR_CNT_COUNT page) 1 = u at hsb ⊢
  split
  next h =>
    have hlt : u.rf (R.ERR_FIRST_VALID page) < 2 ^ 1 := rf_lt u _
    have hne : u.rf (R.ERR_FIRST_VALID page) ≠ 0 := by simpa [State.flag] using h
    omega
  next => exact wf_last (l := R.ERR_FIRST_VALID page) (sorted_wf hsb (R.ERR_FIRST_BIT page) b) (Nat.le_of_ble_eq_true rfl) (Nat.one_lt_two_pow (by decide : (1 : Nat) ≠ 0))

theorem masked_of_spares {s t : State} {page : Nat} (h : t.rf (R.ERR_MASK_MASK page) = s.rf (R.ERR_MASK_MASK page)) (b : Nat) :
    t.masked page b = s.masked page b := by
  unfold State.masked
  rw [h]

theorem Spares.forceSrc {l : Loc} {s0 s : State} (hk : Spares l s0 s) {page : Nat} (h : l.NoErr page) (b : Nat) :
    Spares l s0 (s.forceSrc page b) :=
  hk.trans ⟨fun hs => by
    unfold State.forceSrc
    rw [raisePair_regs]
    exact sorted_errWords hs page b, fun _ => rf_congr (by
    show (s.forceSrc page b).reg l.addr = s.reg l.addr
    unfold State.forceSrc
    rw [reg_of_regs (raisePair_regs _ _ _ _)]
    exact errWords_reg s page b h)⟩

theorem noErr_mask (page : Nat) : (R.ERR_MASK_MASK page).NoErr page :=
  ⟨ne_page page (by decide), ne_page page (by decide), ne_page page (by decide)⟩

theorem pair_forceSrc_ne (s : State) {page b j : Nat} (h : j ≠ pairKey page b) : (s.forceSrc page b).pair j = s.pair j := by
  unfold State.forceSrc State.raisePair
  split
  · exact pair_errWords s page b j
  · rw [pair_setPair_ne _ _ h]
    exact pair_errWords s page b j

theorem errWords_pairs (s : State) (page b : Nat) : (s.errWords page b).pairs = s.pairs := (congrArg State.pairs (errWords_frame s page b) :)

/-- R391: the pair of an unmasked source is raised for two ticks. -/
theorem hold_forceSrc {s : State} (hs : Store.Sorted s.pairs) {page b : Nat} (h : s.masked page b = false) :
    ((s.forceSrc page b).pair (pairKey page b)).hold = 2 := by
  have hm : (s.errWords page b).masked page b = false := by
    rw [masked_of_spares (rf_congr (errWords_reg s page b (noErr_mask page))), h]
  unfold State.forceSrc State.raisePair
  rw [hm, if_neg (fun h => nomatch h)]
  dsimp only
  rw [pair_setPair_self (by rw [errWords_pairs]; exact hs)]

/-- The sources of a page that a written word forces. -/
def forceBit (base : Nat) (v : Word32) (b : Nat) : Bool := v.getLsbD b && (srcAt base b).isSome

/-- The events that a written word forces, for the listed sources. -/
def State.forceBits (s : State) (base : Nat) (v : Word32) (l : List Nat) : State :=
  l.foldl (fun s b => if v.getLsbD b && (srcAt base b).isSome then s.forceSrc base b else s) s

/-- What a written word has forced. -/
structure State.Forced (s t : State) (base : Nat) (v : Word32) (l : List Nat) : Prop where
  stat : ∀ j, j < 32 → (t.rf (R.ERR_STAT_STAT base)).testBit j =
    ((s.rf (R.ERR_STAT_STAT base)).testBit j || (decide (j ∈ l) && forceBit base v j))
  rest : ∀ j, ¬ (j ∈ l ∧ forceBit base v j = true) → t.pair (pairKey base j) = s.pair (pairKey base j)
  held : ∀ j, j ∈ l → forceBit base v j = true → s.masked base j = false → (t.pair (pairKey base j)).hold = 2
  first : (s.rf (R.ERR_FIRST_VALID base) = 1 ∨ ∃ j ∈ l, forceBit base v j = true) → t.rf (R.ERR_FIRST_VALID base) = 1

theorem pairKey_inj {base i j : Nat} (h : pairKey base i = pairKey base j) : i = j := Nat.add_left_cancel h

theorem forceBits_shows {base : Nat} {v : Word32} {l : List Nat} (hl : ∀ j ∈ l, j < 32) {s : State} (hs : Store.Sorted s.regs)
    (hp : Store.Sorted s.pairs) (hn : l.Nodup) : s.Forced (s.forceBits base v l) base v l := by
  induction l generalizing s with
  | nil =>
    exact { stat := fun j _ => by simp [State.forceBits], rest := fun _ _ => rfl, held := fun j hj => (List.not_mem_nil hj).elim,
            first := fun h => h.elim id fun ⟨j, hj, _⟩ => (List.not_mem_nil hj).elim }
  | cons b l ih =>
    obtain ⟨hb, hn'⟩ := List.nodup_cons.mp hn
    have hl' : ∀ j ∈ l, j < 32 := fun j hj => hl j (List.mem_cons_of_mem _ hj)
    by_cases hf : forceBit base v b = true
    · have hstep : s.forceBits base v (b :: l) = (s.forceSrc base b).forceBits base v l := congrArg (fun u : State => u.forceBits base v l) (if_pos hf)
      have hsf := ((Spares.refl (R.ERR_MASK_MASK base) s).forceSrc (noErr_mask base) b).sorted hs
      have hpf : Store.Sorted (s.forceSrc base b).pairs := by
        unfold State.forceSrc State.raisePair
        split
        · rw [errWords_pairs]; exact hp
        · dsimp only [State.setPair]
          rw [errWords_pairs]
          exact sorted_sputD hp _ _ _
      have hmask : ∀ j, (s.forceSrc base b).masked base j = s.masked base j := fun j =>
        masked_of_spares (((Spares.refl _ s).forceSrc (noErr_mask base) b).rf hs) j
      have hstat : (s.forceSrc base b).rf (R.ERR_STAT_STAT base) = (s.rf (R.ERR_STAT_STAT base) ||| 2 ^ b) % 2 ^ 32 := by
        unfold State.forceSrc
        rw [rf_of_regs (raisePair_regs _ _ _ _)]
        exact rf_errWords_stat hs base b
      have hfirst : (s.forceSrc base b).rf (R.ERR_FIRST_VALID base) = 1 := by
        unfold State.forceSrc
        rw [rf_of_regs (raisePair_regs _ _ _ _)]
        exact rf_errWords_first hs base b
      have hi := ih hl' hsf hpf hn'
      rw [hstep]
      exact
        { stat := fun j hj => by
            rw [hi.stat j hj, hstat, Nat.testBit_mod_two_pow, Nat.testBit_or, Nat.testBit_two_pow]
            by_cases hjb : j = b
            · subst hjb
              simp [hj, hb, hf]
            · simp [hj, hjb, Ne.symm hjb]
          rest := fun j hj => by
            have hjb : j ≠ b := fun h => hj ⟨h ▸ List.mem_cons_self, h ▸ hf⟩
            rw [hi.rest j fun h => hj ⟨List.mem_cons_of_mem _ h.1, h.2⟩]
            exact pair_forceSrc_ne s fun h => hjb (pairKey_inj h)
          held := fun j hj hfj hm => by
            rcases List.mem_cons.mp hj with rfl | hj
            · rw [hi.rest j fun h => hb h.1]
              exact hold_forceSrc hp hm
            · exact hi.held j hj hfj ((hmask j).trans hm)
          first := fun _ => hi.first (.inl hfirst) }
    · have hstep : s.forceBits base v (b :: l) = s.forceBits base v l := congrArg (fun u : State => u.forceBits base v l) (if_neg hf)
      have hi := ih hl' hs hp hn'
      rw [hstep]
      exact
        { stat := fun j hj => by
            rw [hi.stat j hj]
            by_cases hjb : j = b
            · subst hjb
              simp [hf]
            · simp [hjb]
          rest := fun j hj => hi.rest j fun h => hj ⟨List.mem_cons_of_mem _ h.1, h.2⟩
          held := fun j hj hfj hm => by
            rcases List.mem_cons.mp hj with rfl | hj
            · exact (hf hfj).elim
            · exact hi.held j hj hfj hm
          first := fun h => hi.first (h.imp_right fun ⟨j, hj, hfj⟩ => by
            rcases List.mem_cons.mp hj with rfl | hj
            · exact (hf hfj).elim
            · exact ⟨j, hj, hfj⟩) }

/-- ERROR_FORCE (R390). -/
theorem errorForce_shows {s : State} (hc : s.Canon) {u : Fin 64} {a : BitVec 27} {v : Word32} {base b : Nat}
    (hbase : base = a.toNat / 0x1000 * 0x1000) (hm : s.MayWrite u (base + 0x18)) (hb : b < 32) :
    ∃ t, exec (.errorForce u a v) s = .next t ∧ s.SameBut t [.regs, .pairs] ∧
      (t.rf (R.ERR_STAT_STAT base)).testBit b =
        ((s.rf (R.ERR_STAT_STAT base)).testBit b || (v.getLsbD b && (srcAt base b).isSome)) ∧
      (v.getLsbD b = true → (srcAt base b).isSome = true → s.masked base b = false →
        (t.pair (pairKey base b)).hold = 2 ∧ t.rf (R.ERR_FIRST_VALID base) = 1) ∧
      (v.getLsbD b = false → t.pair (pairKey base b) = s.pair (pairKey base b)) := by
  subst hbase
  have hex : exec (.errorForce u a v) s = .next (s.forceBits (a.toNat / 0x1000 * 0x1000) v (List.range 32)) :=
    congrArg Host.Outcome.next (gateWrite_rw hm _)
  have hin : b ∈ List.range 32 := List.mem_range.mpr hb
  have h := forceBits_shows (base := a.toNat / 0x1000 * 0x1000) (v := v) (fun j hj => List.mem_range.mp hj) hc.regs hc.pairs List.nodup_range
  refine ⟨_, hex, sameBut_of_next hex, ?_, fun hv hsrc hmask => ?_, fun hv => h.rest b fun hx => ?_⟩
  · rw [h.stat b hb, decide_eq_true hin, Bool.true_and]
    rfl
  · have hf : forceBit (a.toNat / 0x1000 * 0x1000) v b = true := Bool.and_eq_true_iff.mpr ⟨hv, hsrc⟩
    exact ⟨h.held b hin hf hmask, h.first (.inr ⟨b, hin, hf⟩)⟩
  · have := (Bool.and_eq_true_iff.mp hx.2).1
    rw [hv] at this
    cases this

/-- WIRE_TEST (R393). -/
theorem wireTest_shows {s : State} {u : Fin 64} {v : Word32} {page b : Nat} (hgo : v.getLsbD 31 = true) (hm : s.MayWrite u A.FCOL_WTEST)
    (hpage : page = wbits v 0 15 * 0x1000) (hb : b = wbits v 15 5) : ∃ t, exec (.wireTest u v) s = .next t ∧ s.SameBut t [.regs, .pairs] ∧
      ((srcAt page b).isSome = true → t.pairs = sput s.pairs (pairKey page b) { s.pair (pairKey page b) with test := 3 }) ∧
      (srcAt page b = none → t.pairs = s.pairs) := by
  subst hpage hb
  have hex : exec (.wireTest u v) s = .next (s.wireTestWrite v) := congrArg Host.Outcome.next (gateWrite_rw hm _)
  have hw : (s.plainWrite A.FCOL_WTEST v).pairs = s.pairs := (congrArg State.pairs (plainWrite_frame s A.FCOL_WTEST v) :)
  refine ⟨_, hex, sameBut_of_next hex, fun hs => ?_, fun hn => ?_⟩
  · unfold State.wireTestWrite
    dsimp only
    rw [hgo, hs, Bool.and_self, if_pos rfl]
    show sputD (s.plainWrite A.FCOL_WTEST v).pairs _ _ {} = _
    rw [hw, pair_of_pairs hw]
    exact if_neg (by simp)
  · unfold State.wireTestWrite
    dsimp only
    rw [hn, Option.isSome_none, Bool.and_false, if_neg (fun h => nomatch h)]
    exact hw

/-! ### Slowdown (R383) -/

/-- A fold whose steps each make their own fact, and keep those of the others. -/
theorem foldl_makes {α : Type} {step : State → α → State} {Q : State → Prop} {P : α → State → Prop} {l : List α}
    (hstep : ∀ t x, x ∈ l → Q t → Q (step t x) ∧ P x (step t x)) (hkeep : ∀ t x y, x ≠ y → Q t → P x t → P x (step t y)) (hn : l.Nodup)
    {s : State} (hs : Q s) : Q (l.foldl step s) ∧ ∀ x ∈ l, P x (l.foldl step s) := by
  suffices h : ∀ (m : List α) (t : State), (∀ x ∈ m, x ∈ l) → m.Nodup → Q t → Q (m.foldl step t) ∧
      (∀ x, x ∉ m → P x t → P x (m.foldl step t)) ∧ ∀ x ∈ m, P x (m.foldl step t) from
    ⟨(h l s (fun _ h => h) hn hs).1, (h l s (fun _ h => h) hn hs).2.2⟩
  intro m
  induction m with
  | nil => exact fun t _ _ hq => ⟨hq, fun _ _ h => h, fun x hx => (List.not_mem_nil hx).elim⟩
  | cons y m ih =>
    intro t hm hmn hq
    obtain ⟨hy, hmn'⟩ := List.nodup_cons.mp hmn
    obtain ⟨hq1, hp1⟩ := hstep t y (hm y List.mem_cons_self) hq
    obtain ⟨h1, h2, h3⟩ := ih (step t y) (fun x hx => hm x (List.mem_cons_of_mem _ hx)) hmn' hq1
    refine ⟨h1, fun x hx hp => ?_, fun x hx => ?_⟩
    · exact h2 x (fun h => hx (List.mem_cons_of_mem _ h)) (hkeep t x y (fun h => hx (h ▸ List.mem_cons_self)) hq hp)
    · rcases List.mem_cons.mp hx with rfl | hx
      · exact h2 x hy hp1
      · exact h3 x hx

theorem furSlow_lt (a h : Nat) : furSlow a h < 2 ^ 32 := by
  unfold furSlow
  split
  · decide
  · split
    · decide
    · exact Nat.lt_of_le_of_lt (Nat.min_le_left _ _) (by decide)

theorem maxOf_lt {l : List Nat} {b : Nat} (hb : 0 < b) (h : ∀ x ∈ l, x < b) : maxOf l < b := by
  have hf : ∀ (l : List Nat) (a : Nat), a < b → (∀ x ∈ l, x < b) → l.foldl max a < b := by
    intro l
    induction l with
    | nil => exact fun a ha _ => ha
    | cons x l ih => exact fun a ha h => ih _ (max_lt ha (h x List.mem_cons_self)) fun y hy => h y (List.mem_cons_of_mem _ hy)
  exact hf l 0 hb h

theorem portSlow_lt (s : State) (p : Nat) : s.portSlow p < 2 ^ 32 := by
  have hw : s.rf (R.MBL_STAT_WIDTH p) < 2 ^ 2 := rf_lt s _
  unfold State.portSlow
  split
  · have : 2 ^ s.rf (R.MBL_STAT_WIDTH p) ≤ 2 ^ 3 := Nat.pow_le_pow_right (by decide) (by omega)
    omega
  · decide

/-- Fields that the ratios of R383 are not kept in. -/
def Loc.NoRatio (l : Loc) : Prop := l.addr % 0x1000 ≠ 0x154 ∧ l.addr % 0x1000 ≠ 0x480 ∧ l.addr % 0x1000 ≠ 0x484 ∧ l.addr % 0x1000 ≠ 0x134

/-- The ratios of the furrows of field `f`. -/
def furRatios (f : Nat) (l : List (Nat × Nat)) : List (Loc × Nat) :=
  (List.range 26).map fun n => (R.FUR_SLOW_S f n, furSlow (l.getD (26 * f + n) (0, 0)).1 (l.getD (26 * f + n) (0, 0)).2)

theorem furRatios_nodup (f : Nat) (l : List (Nat × Nat)) : ((furRatios f l).map fun e => e.1.addr).Nodup := by
  have h : (furRatios f l).map (fun e => e.1.addr) = (List.range 26).map fun n => A.FUR_SLOW f n := List.map_map
  rw [h]
  refine List.Nodup.map (fun a b hab => ?_) List.nodup_range
  unfold A.FUR_SLOW Page.furrowBase Page.fieldBase at hab
  omega

theorem furRatios_fit (f : Nat) (l : List (Nat × Nat)) : ∀ e ∈ furRatios f l, e.1.Fits ∧ e.2 < 2 ^ e.1.wid := fun e he => by
  obtain ⟨n, _, rfl⟩ := List.mem_map.mp he
  exact ⟨Nat.le_of_ble_eq_true rfl, furSlow_lt _ _⟩

theorem furRatios_addr {f : Nat} {l : List (Nat × Nat)} {e : Loc × Nat} (he : e ∈ furRatios f l) : ∃ n, n < 26 ∧ e.1.addr = A.FUR_SLOW f n := by
  obtain ⟨n, hn, rfl⟩ := List.mem_map.mp he
  exact ⟨n, List.mem_range.mp hn, rfl⟩

/-- R383: the greatest ratio of the furrows in use. -/
def State.furMax (s : State) (f : Nat) (v : Nat → Nat) : Nat := max 0x10000 (maxOf ((List.range 24).filterMap fun k => (s.physical f k).map v))

/-- R383: the greater ratio of the two ports. -/
def State.portMax (s : State) (f : Nat) : Nat := max (s.portSlow (2 * f)) (s.portSlow (2 * f + 1))

theorem slowField_eq (s : State) (f : Nat) (l : List (Nat × Nat)) :
    s.slowField f l = ((s.writeAll (furRatios f l)).wf (R.FLD_SLOW_FUR_S f)
      ((s.writeAll (furRatios f l)).furMax f fun n => (s.writeAll (furRatios f l)).rf (R.FUR_SLOW_S f n))).wf (R.FLD_SLOW_PORT_S f)
      ((s.writeAll (furRatios f l)).portMax f) := by
  have h : s.writeAll (furRatios f l) = (List.range 26).foldl (fun s n =>
      let x := l.getD (26 * f + n) (0, 0)
      s.wf (R.FUR_SLOW_S f n) (furSlow x.1 x.2)) s := List.foldl_map
  rw [h]
  rfl

theorem Spares.slowField {k : Loc} {s0 s : State} (hk : Spares k s0 s) {f : Nat} (h1 : ∀ n, n < 26 → k.addr ≠ A.FUR_SLOW f n)
    (h2 : k.addr ≠ A.FLD_SLOW_FUR f) (h3 : k.addr ≠ A.FLD_SLOW_PORT f) (l : List (Nat × Nat)) : Spares k s0 (s.slowField f l) := by
  rw [slowField_eq]
  refine ((hk.writeAll fun e he => ?_).wf_far (m := R.FLD_SLOW_FUR_S f) h2 _).wf_far (m := R.FLD_SLOW_PORT_S f) h3 _
  obtain ⟨n, hn, ha⟩ := furRatios_addr he
  rw [ha]
  exact h1 n hn

/-- Every field that holds no ratio reads as in `s`. -/
structure State.Ratios (s t : State) : Prop where
  sorted : Store.Sorted t.regs
  rf : ∀ k : Loc, k.NoRatio → t.rf k = s.rf k

theorem State.Ratios.physical {s t : State} (h : s.Ratios t) {f k : Nat} (hk : k < 24) : t.physical f k = s.physical f k := by
  have hno : ∀ m : Loc, m.addr = A.FLD_FURMAP f k → m.NoRatio := fun m hm => by
    unfold Loc.NoRatio
    rw [hm]
    unfold A.FLD_FURMAP Page.fieldBase
    omega
  unfold State.physical
  rw [h.rf (R.FLD_FURMAP_PHYS f k) (hno _ rfl), show t.flag (R.FLD_FURMAP_VACANT f k) = s.flag (R.FLD_FURMAP_VACANT f k) from
    congrArg (· != 0) (h.rf (R.FLD_FURMAP_VACANT f k) (hno _ rfl))]

theorem State.Ratios.furMax {s t : State} (h : s.Ratios t) (f : Nat) (v : Nat → Nat) : t.furMax f v = s.furMax f v := by
  unfold State.furMax
  exact congrArg (fun l => max 0x10000 (maxOf l)) (List.filterMap_congr fun k hk => by rw [h.physical (List.mem_range.mp hk)])

theorem State.Ratios.portMax {s t : State} (h : s.Ratios t) (f : Nat) : t.portMax f = s.portMax f := by
  have hno : ∀ (p : Nat) (m : Loc), m.addr = A.MBL_STAT p → m.NoRatio := fun p m hm => by
    unfold Loc.NoRatio
    rw [hm]
    unfold A.MBL_STAT Page.portBase Page.fieldBase
    omega
  have hp : ∀ p, t.portSlow p = s.portSlow p := fun p => by
    unfold State.portSlow State.pstate
    rw [h.rf (R.MBL_STAT_STATE p) (hno p _ rfl), h.rf (R.MBL_STAT_WIDTH p) (hno p _ rfl)]
  unfold State.portMax
  rw [hp, hp]

/-- What the ratios of field `f` show. -/
structure State.FieldSlow (s t : State) (f : Nat) (l : List (Nat × Nat)) : Prop where
  fur : ∀ n, n < 26 → t.rf (R.FUR_SLOW_S f n) = furSlow (l.getD (26 * f + n) (0, 0)).1 (l.getD (26 * f + n) (0, 0)).2
  greatest : t.rf (R.FLD_SLOW_FUR_S f) = s.furMax f fun n => furSlow (l.getD (26 * f + n) (0, 0)).1 (l.getD (26 * f + n) (0, 0)).2
  port : t.rf (R.FLD_SLOW_PORT_S f) = s.portMax f

theorem furMax_lt {s : State} {f : Nat} {v : Nat → Nat} (hv : ∀ n, v n < 2 ^ 32) : s.furMax f v < 2 ^ 32 := by
  refine max_lt (by decide) (maxOf_lt (by decide) fun x hx => ?_)
  obtain ⟨k, _, hk⟩ := List.mem_filterMap.mp hx
  obtain ⟨n, _, rfl⟩ := Option.map_eq_some_iff.mp hk
  exact hv n

theorem furMax_congr {s : State} {f : Nat} (hp : ∀ k n, k < 24 → s.physical f k = some n → n < 26) {v w : Nat → Nat}
    (h : ∀ n, n < 26 → v n = w n) : s.furMax f v = s.furMax f w := by
  unfold State.furMax
  refine congrArg (fun l => max 0x10000 (maxOf l)) (List.filterMap_congr fun k hk => ?_)
  cases hn : s.physical f k with
  | none => rfl
  | some n => exact congrArg some (h n (hp k n (List.mem_range.mp hk) hn))

theorem slowField_shows {s t : State} (h : s.Ratios t) (f : Nat) (l : List (Nat × Nat)) (hp : ∀ k n, k < 24 → s.physical f k = some n → n < 26) :
    s.Ratios (t.slowField f l) ∧ s.FieldSlow (t.slowField f l) f l := by
  have hne : ∀ n m k, k % 0x1000 ≠ 0x154 → Page.furrowBase f n + 0x154 ≠ Page.fieldBase m + k := fun n m k hk => by
    unfold Page.furrowBase Page.fieldBase
    omega
  have hsp : ∀ k : Loc, k.addr % 0x1000 ≠ 0x154 → k.addr % 0x1000 ≠ 0x480 → k.addr % 0x1000 ≠ 0x484 → Spares k t (t.slowField f l) :=
    fun k h1 h2 h3 => (Spares.refl k t).slowField (fun n _ => by unfold A.FUR_SLOW Page.furrowBase Page.fieldBase; omega)
      (by unfold A.FLD_SLOW_FUR Page.fieldBase; omega) (by unfold A.FLD_SLOW_PORT Page.fieldBase; omega) l
  have hrat : s.Ratios (t.writeAll (furRatios f l)) := by
    have hw : ∀ k : Loc, k.addr % 0x1000 ≠ 0x154 → Spares k t (t.writeAll (furRatios f l)) := fun k hk =>
      (Spares.refl k t).writeAll fun e he => by
        obtain ⟨n, _, ha⟩ := furRatios_addr he
        rw [ha]
        unfold A.FUR_SLOW Page.furrowBase Page.fieldBase
        omega
    exact ⟨(hw ⟨0, 0, 0⟩ (by decide)).sorted h.sorted, fun k hk => ((hw k hk.1).rf h.sorted).trans (h.rf k hk)⟩
  have hfur : ∀ n, n < 26 → (t.writeAll (furRatios f l)).rf (R.FUR_SLOW_S f n) = furSlow (l.getD (26 * f + n) (0, 0)).1 (l.getD (26 * f + n) (0, 0)).2 :=
    fun n hn => writeAll_shows (e := (R.FUR_SLOW_S f n, furSlow (l.getD (26 * f + n) (0, 0)).1 (l.getD (26 * f + n) (0, 0)).2))
      (furRatios_nodup f l) (furRatios_fit f l) h.sorted
      (List.mem_map_of_mem (f := fun n => (R.FUR_SLOW_S f n, furSlow (l.getD (26 * f + n) (0, 0)).1 (l.getD (26 * f + n) (0, 0)).2)) (List.mem_range.mpr hn))
  have hall : s.Ratios (t.slowField f l) :=
    ⟨(hsp ⟨0, 0, 0⟩ (by decide) (by decide) (by decide)).sorted h.sorted, fun k hk => ((hsp k hk.1 hk.2.1 hk.2.2.1).rf h.sorted).trans (h.rf k hk)⟩
  refine ⟨hall, ?_⟩
  rw [slowField_eq]
  generalize t.writeAll (furRatios f l) = u at hrat hfur
  have h1 := sorted_wf hrat.sorted (R.FLD_SLOW_FUR_S f) (u.furMax f fun n => u.rf (R.FUR_SLOW_S f n))
  have hkeep : ∀ n, ((u.wf (R.FLD_SLOW_FUR_S f) (u.furMax f fun n => u.rf (R.FUR_SLOW_S f n))).wf (R.FLD_SLOW_PORT_S f) (u.portMax f)).rf
      (R.FUR_SLOW_S f n) = u.rf (R.FUR_SLOW_S f n) := fun n =>
    (rf_wf_addr _ _ (hne n f 0x484 (by decide))).trans (rf_wf_addr _ _ (hne n f 0x480 (by decide)))
  have hoff : A.FLD_SLOW_PORT f ≠ A.FLD_SLOW_FUR f := fun h => absurd (Nat.add_left_cancel h) (by decide)
  have hmax : ((u.wf (R.FLD_SLOW_FUR_S f) (u.furMax f fun n => u.rf (R.FUR_SLOW_S f n))).wf (R.FLD_SLOW_PORT_S f) (u.portMax f)).rf
      (R.FLD_SLOW_FUR_S f) = s.furMax f fun n => u.rf (R.FUR_SLOW_S f n) := by
    rw [rf_wf_addr (l := R.FLD_SLOW_PORT_S f) (m := R.FLD_SLOW_FUR_S f) _ _ hoff.symm]
    exact (wf_last (l := R.FLD_SLOW_FUR_S f) hrat.sorted (Nat.le_of_ble_eq_true rfl) (furMax_lt fun n => rf_lt u _)).trans (hrat.furMax f _)
  exact
    { fur := fun n hn => (hkeep n).trans (hfur n hn)
      greatest := hmax.trans (furMax_congr hp hfur)
      port := (wf_last (l := R.FLD_SLOW_PORT_S f) h1 (Nat.le_of_ble_eq_true rfl) (max_lt (portSlow_lt _ _) (portSlow_lt _ _))).trans (hrat.portMax f) }

theorem State.FieldSlow.kept {s t u : State} {f : Nat} {l : List (Nat × Nat)} (h : s.FieldSlow t f l)
    (h1 : ∀ n, n < 26 → u.rf (R.FUR_SLOW_S f n) = t.rf (R.FUR_SLOW_S f n)) (h2 : u.rf (R.FLD_SLOW_FUR_S f) = t.rf (R.FLD_SLOW_FUR_S f))
    (h3 : u.rf (R.FLD_SLOW_PORT_S f) = t.rf (R.FLD_SLOW_PORT_S f)) : s.FieldSlow u f l :=
  { fur := fun n hn => (h1 n hn).trans (h.fur n hn)
    greatest := h2.trans h.greatest
    port := h3.trans h.port }

/-- The ratio of context `c`. -/
def State.ctxRatio (s : State) (c : Nat) : Nat := max 0x10000 (maxOf ((List.range 4).map fun f =>
  if s.inMask c f then max (s.rf (R.FLD_SLOW_FUR_S f)) (s.rf (R.FLD_SLOW_PORT_S f)) else 0))

theorem ctxRatio_lt (s : State) (c : Nat) : s.ctxRatio c < 2 ^ 32 := by
  refine max_lt (by decide) (maxOf_lt (by decide) fun x hx => ?_)
  obtain ⟨f, _, rfl⟩ := List.mem_map.mp hx
  split
  · exact max_lt (rf_lt s _) (rf_lt s _)
  · decide

theorem ctxRatio_congr {s t : State} {c : Nat} (h : ∀ k : Loc, k.addr % 0x1000 ≠ 0x134 → t.rf k = s.rf k) : t.ctxRatio c = s.ctxRatio c := by
  have hm : t.rf (R.CTX_FMASK_MASK c) = s.rf (R.CTX_FMASK_MASK c) := h _ (by
    show A.CTX_FMASK c % _ ≠ _
    unfold A.CTX_FMASK Page.contextBase
    omega)
  have hf : ∀ f, t.rf (R.FLD_SLOW_FUR_S f) = s.rf (R.FLD_SLOW_FUR_S f) := fun f => h _ (by
    show A.FLD_SLOW_FUR f % _ ≠ _
    unfold A.FLD_SLOW_FUR Page.fieldBase
    omega)
  have hp : ∀ f, t.rf (R.FLD_SLOW_PORT_S f) = s.rf (R.FLD_SLOW_PORT_S f) := fun f => h _ (by
    show A.FLD_SLOW_PORT f % _ ≠ _
    unfold A.FLD_SLOW_PORT Page.fieldBase
    omega)
  unfold State.ctxRatio State.inMask
  simp only [hm, hf, hp]

/-- The fields of a device, each with its ratios. -/
theorem slowFields_shows {s : State} (hs : Store.Sorted s.regs) (l : List (Nat × Nat))
    (hp : ∀ f k n, f < 4 → k < 24 → s.physical f k = some n → n < 26) :
    s.Ratios ((List.range 4).foldl (fun s f => s.slowField f l) s) ∧
      ∀ f ∈ List.range 4, s.FieldSlow ((List.range 4).foldl (fun s f => s.slowField f l) s) f l := by
  refine foldl_makes (Q := fun t => s.Ratios t) (P := fun f t => s.FieldSlow t f l)
    (fun t f hf ht => slowField_shows ht f l fun k n => hp f k n (List.mem_range.mp hf)) (fun t f g hfg ht hp => ?_) List.nodup_range
    ⟨hs, fun _ _ => rfl⟩
  have hsp : ∀ k : Loc, (∀ n, n < 26 → k.addr ≠ A.FUR_SLOW g n) → k.addr ≠ A.FLD_SLOW_FUR g → k.addr ≠ A.FLD_SLOW_PORT g →
      (t.slowField g l).rf k = t.rf k := fun k h1 h2 h3 => ((Spares.refl k t).slowField h1 h2 h3 l).rf ht.sorted
  refine hp.kept (fun n hn => hsp _ (fun m hm => ?_) ?_ ?_) (hsp _ (fun m hm => ?_) ?_ ?_) (hsp _ (fun m hm => ?_) ?_ ?_)
  all_goals
    dsimp only [R.FUR_SLOW_S, R.FLD_SLOW_FUR_S, R.FLD_SLOW_PORT_S, A.FUR_SLOW, A.FLD_SLOW_FUR, A.FLD_SLOW_PORT, Page.furrowBase, Page.fieldBase]
    omega

/-- SLOWDOWN_WINDOW_END (R383). -/
theorem slowdownWindowEnd_shows {s : State} (hs : Store.Sorted s.regs) (l : List (Nat × Nat))
    (hp : ∀ f k n, f < 4 → k < 24 → s.physical f k = some n → n < 26) :
    ∃ t, exec (.slowdownWindowEnd l) s = .next t ∧ { t with regs := s.regs } = s ∧
      (∀ (f : Fin 4) (n : Fin 26), t.rf (R.FUR_SLOW_S f n) = furSlow (l.getD (26 * f + n) (0, 0)).1 (l.getD (26 * f + n) (0, 0)).2) ∧
      (∀ f : Fin 4, t.rf (R.FLD_SLOW_FUR_S f) = max 0x10000 (maxOf ((List.range 24).filterMap fun k =>
          (s.physical f k).map fun n => t.rf (R.FUR_SLOW_S f n))) ∧
        t.rf (R.FLD_SLOW_PORT_S f) = max (s.portSlow (2 * f)) (s.portSlow (2 * f + 1))) ∧
      ∀ c : Fin 64, t.rf (R.CTX_SLOW_S c) = max 0x10000 (maxOf ((List.range 4).map fun f =>
        if s.inMask c f then max (t.rf (R.FLD_SLOW_FUR_S f)) (t.rf (R.FLD_SLOW_PORT_S f)) else 0)) := by
  obtain ⟨hr, hfield⟩ := slowFields_shows hs l hp
  obtain ⟨u, hu⟩ : ∃ u, u = (List.range 4).foldl (fun s f => s.slowField f l) s := ⟨_, rfl⟩
  have hex : exec (.slowdownWindowEnd l) s = .next ((List.range 64).foldl (fun s c => s.wf (R.CTX_SLOW_S c) (s.ctxRatio c)) u) := by
    rw [hu]
    rfl
  rw [← hu] at hr hfield
  have hslow : ∀ c, A.CTX_SLOW c % 0x1000 = 0x134 := fun c => by
    unfold A.CTX_SLOW Page.contextBase
    omega
  have hctx : (Store.Sorted ((List.range 64).foldl (fun s c => s.wf (R.CTX_SLOW_S c) (s.ctxRatio c)) u).regs ∧
      ∀ k : Loc, k.addr % 0x1000 ≠ 0x134 → ((List.range 64).foldl (fun s c => s.wf (R.CTX_SLOW_S c) (s.ctxRatio c)) u).rf k = u.rf k) ∧
      ∀ c ∈ List.range 64, ((List.range 64).foldl (fun s c => s.wf (R.CTX_SLOW_S c) (s.ctxRatio c)) u).rf (R.CTX_SLOW_S c) = u.ctxRatio c := by
    refine foldl_makes (Q := fun t => Store.Sorted t.regs ∧ ∀ k : Loc, k.addr % 0x1000 ≠ 0x134 → t.rf k = u.rf k)
      (P := fun c t => t.rf (R.CTX_SLOW_S c) = u.ctxRatio c) (fun t c _ ht => ⟨⟨sorted_wf ht.1 _ _, fun k hk => ?_⟩, ?_⟩)
      (fun t c d hcd ht hp => ?_) List.nodup_range ⟨hr.sorted, fun _ _ => rfl⟩
    · rw [rf_wf_addr (l := R.CTX_SLOW_S c) t _ (fun h => hk ((congrArg (· % 0x1000) h).trans (hslow c)))]
      exact ht.2 k hk
    · rw [wf_last (l := R.CTX_SLOW_S c) ht.1 (Nat.le_of_ble_eq_true rfl) (ctxRatio_lt t c)]
      exact ctxRatio_congr ht.2
    · refine (rf_wf_addr (l := R.CTX_SLOW_S d) t _ (fun h => hcd ?_)).trans hp
      dsimp only [R.CTX_SLOW_S] at h
      unfold A.CTX_SLOW Page.contextBase at h
      omega
  have hframe : { (List.range 64).foldl (fun s c => s.wf (R.CTX_SLOW_S c) (s.ctxRatio c)) u with regs := s.regs } = s :=
    (foldl_same (fun _ _ h => State.wf_same h rfl _ _) (hu ▸ foldl_same (fun _ _ h => State.slowField_same h rfl _ _) (.refl 8 s))).regs_only
  obtain ⟨⟨_, hrest⟩, hc⟩ := hctx
  generalize (List.range 64).foldl (fun s c => s.wf (R.CTX_SLOW_S c) (s.ctxRatio c)) u = t at *
  have hfur : ∀ f n, t.rf (R.FUR_SLOW_S f n) = u.rf (R.FUR_SLOW_S f n) := fun f n => hrest _ (by
    show A.FUR_SLOW f n % _ ≠ _
    unfold A.FUR_SLOW Page.furrowBase Page.fieldBase
    omega)
  have hmax : ∀ f, t.rf (R.FLD_SLOW_FUR_S f) = u.rf (R.FLD_SLOW_FUR_S f) := fun f => hrest _ (by
    show A.FLD_SLOW_FUR f % _ ≠ _
    unfold A.FLD_SLOW_FUR Page.fieldBase
    omega)
  have hport : ∀ f, t.rf (R.FLD_SLOW_PORT_S f) = u.rf (R.FLD_SLOW_PORT_S f) := fun f => hrest _ (by
    show A.FLD_SLOW_PORT f % _ ≠ _
    unfold A.FLD_SLOW_PORT Page.fieldBase
    omega)
  refine ⟨t, hex, hframe, fun f n => ?_, fun f => ⟨?_, ?_⟩, fun c => ?_⟩
  · exact (hfur f n).trans ((hfield f (List.mem_range.mpr f.isLt)).fur n n.isLt)
  · refine (hmax f).trans ((hfield f (List.mem_range.mpr f.isLt)).greatest.trans (furMax_congr (fun k n hk => hp f k n f.isLt hk) fun n hn => ?_))
    exact ((hfur f n).trans ((hfield f (List.mem_range.mpr f.isLt)).fur n hn)).symm
  · exact (hport f).trans (hfield f (List.mem_range.mpr f.isLt)).port
  · rw [hc c (List.mem_range.mpr c.isLt)]
    unfold State.ctxRatio State.inMask
    simp only [hmax, hport]
    rw [hr.rf (R.CTX_FMASK_MASK c) (by
      unfold Loc.NoRatio R.CTX_FMASK_MASK A.CTX_FMASK Page.contextBase
      dsimp only
      omega)]

/-! ### Shadow comparisons (R409, R410) -/

theorem repeatSlot_false_other {s : State} {x : ShadowOp} (h : x.opcode ≠ 0x28) (d : Bool) : s.repeatSlot x d = s := if_pos h

/-- R409: the engine's slot after a comparison without a difference. -/
theorem repeatSlot_same_slot {s : State} {x : ShadowOp} (h : x.opcode = 0x28) :
    s.repeatSlot x false = s.setFur x.field x.engine ((s.fur x.field x.engine).setSlot (s.rf (R.FLD_ACQ_BASE x.owner.ctx x.field) + x.slot)
      { (s.fur x.field x.orig).slot (s.rf (R.FLD_ACQ_BASE x.owner.ctx x.field) + x.slot) with shadow := none }) := by
  unfold State.repeatSlot
  rw [if_neg (not_not_intro h)]
  rfl

/-- R410: one of the two furrows of a comparison that differs. -/
def State.crossFailed (s : State) (x : ShadowOp) (m : Meas) (n : Nat) : State :=
  let c := x.owner.ctx
  let det := leBytes 1 x.orig ++ leBytes 1 x.engine ++ leBytes 1 x.slot ++ leBytes 1 x.opcode ++ leBytes 4 x.coord
  ((s.raiseFor (Page.furrowBase x.field n) 5 (some c)).bump (R.FUR_XCHK_CNT_COUNT x.field n) 1).almanac 4
      (Page.furrowBase x.field n) 5 (some c) det m

theorem foldl_two {α β : Type} (f : β → α → β) (x y : α) (b : β) : [x, y].foldl f b = f (f b x) y := rfl

theorem shadowMismatch_eq (s : State) (x : ShadowOp) (m : Meas) :
    s.shadowMismatch x m = (((s.crossFailed x m x.orig).crossFailed x m x.engine).bump (R.FLD_SHADOW_MIS_COUNT x.field) 1).blockCause x.owner.ctx 2 :=
  congrArg (fun t : State => (t.bump (R.FLD_SHADOW_MIS_COUNT x.field) 1).blockCause x.owner.ctx 2)
    (foldl_two (fun s n => s.crossFailed x m n) x.orig x.engine s)

theorem Spares.crossFailed {l : Loc} {s0 s : State} (hk : Spares l s0 s) {x : ShadowOp} {n : Nat} (hl : 0x70000 ≤ l.addr)
    (h : l.NoErr (Page.furrowBase x.field n)) (h1 : l.addr ≠ A.FUR_XCHK_CNT x.field n) (m : Meas) : Spares l s0 (s.crossFailed x m n) := by
  unfold State.crossFailed
  dsimp only
  exact ((hk.raiseFor h 5 _).bump (m := R.FUR_XCHK_CNT_COUNT x.field n) h1 1).almanac (.inr (Nat.le_trans (by decide) hl)) _ _ _ _ _ _

/-- What a furrow of a comparison that differs shows. -/
theorem crossFailed_counts {s : State} (hs : Store.Sorted s.regs) (x : ShadowOp) (m : Meas) (n : Nat) :
    (s.crossFailed x m n).rf (R.FUR_XCHK_CNT_COUNT x.field n) = satAdd32 (s.rf (R.FUR_XCHK_CNT_COUNT x.field n)) 1 ∧
      ((s.crossFailed x m n).rf (R.ERR_STAT_STAT (Page.furrowBase x.field n))).testBit 5 = true := by
  have hsr := sorted_raiseFor hs (Page.furrowBase x.field n) 5 (some x.owner.ctx)
  have hhigh : ∀ k, Page.almanacBase + 0x1000 ≤ Page.furrowBase x.field n + k := fun k => by
    unfold Page.almanacBase Page.furrowBase Page.fieldBase
    omega
  have hno : (R.FUR_XCHK_CNT_COUNT x.field n).NoErr (Page.furrowBase x.field n) :=
    Loc.noErr_of_page (.inr (Nat.add_le_add_left (by decide : 0x28 ≤ 0x158) _))
  have hraised := raiseFor_raised hs (Page.furrowBase x.field n) (b := 5) (by decide) (some x.owner.ctx)
  have hold : (s.raiseFor (Page.furrowBase x.field n) 5 (some x.owner.ctx)).rf (R.FUR_XCHK_CNT_COUNT x.field n) = s.rf (R.FUR_XCHK_CNT_COUNT x.field n) :=
    ((Spares.refl _ s).raiseFor hno 5 _).rf hs
  unfold State.crossFailed
  dsimp only
  generalize s.raiseFor (Page.furrowBase x.field n) 5 (some x.owner.ctx) = u at hsr hraised hold
  constructor
  · rw [((Spares.refl (R.FUR_XCHK_CNT_COUNT x.field n) _).almanac (.inr (hhigh _)) _ _ _ _ _ _).rf (sorted_bump hsr _ _),
      rf_bump_self hsr (Nat.le_of_ble_eq_true rfl), hold]
    exact satAdd32_mod _ 1
  · rw [(((Spares.refl (R.ERR_STAT_STAT (Page.furrowBase x.field n)) u).bump (m := R.FUR_XCHK_CNT_COUNT x.field n)
      (ne_page _ (by decide)) 1).almanac (.inr (hhigh _)) _ _ _ _ _ _).rf hsr]
    exact hraised

/-- R410: a comparison that differs, on two furrows of its field. -/
theorem shadowMismatch_shows {s : State} (hs : Store.Sorted s.regs) {x : ShadowOp} (m : Meas) (hf : x.field < 4) (ho : x.orig < 26) (he : x.engine < 26)
    (hne : x.orig ≠ x.engine) (hctx : x.owner.ctx < 64) :
    (s.shadowMismatch x m).rf (R.FLD_SHADOW_MIS_COUNT x.field) = satAdd32 (s.rf (R.FLD_SHADOW_MIS_COUNT x.field)) 1 ∧
      (∀ n, n = x.orig ∨ n = x.engine → (s.shadowMismatch x m).rf (R.FUR_XCHK_CNT_COUNT x.field n) = satAdd32 (s.rf (R.FUR_XCHK_CNT_COUNT x.field n)) 1 ∧
        ((s.shadowMismatch x m).rf (R.ERR_STAT_STAT (Page.furrowBase x.field n))).testBit 5 = true) ∧
      (s.cstate x.owner.ctx = stRunning → (s.shadowMismatch x m).cstate x.owner.ctx = stBlocked ∧
        ((s.shadowMismatch x m).rf (R.CMT_CSTAT_BLOCK x.owner.ctx)).testBit 2 = true) := by
  have hother : ∀ (n k o : Nat) (l : Loc), n ≠ k → n < 26 → k < 26 → o < 0x1000 → l.addr = Page.furrowBase x.field n + o →
      ∀ t, Spares l t (t.crossFailed x m k) := fun n k o l hnk hn hk ho ha t => by
    refine (Spares.refl l t).crossFailed ?_ (Loc.noErr_of_page ?_) ?_ m
    all_goals
      rw [ha]
      dsimp only [A.FUR_XCHK_CNT, Page.furrowBase, Page.fieldBase]
      omega
  have hfield : ∀ (k o : Nat) (l : Loc), o < 0x100000 → l.addr = Page.fieldBase x.field + o → ∀ t, Spares l t (t.crossFailed x m k) := fun k o l ho ha t => by
    refine (Spares.refl l t).crossFailed ?_ (Loc.noErr_of_page ?_) ?_ m
    all_goals
      rw [ha]
      dsimp only [A.FUR_XCHK_CNT, Page.furrowBase, Page.fieldBase]
      omega
  have hlow : ∀ (k : Nat) (l : Loc), 0x70000 ≤ l.addr → l.addr < 0x1000000 → ∀ t, Spares l t (t.crossFailed x m k) := fun k l h1 h2 t => by
    refine (Spares.refl l t).crossFailed h1 (furrow_noErr h2 _ _) (furrow_ne_low h2 _ _ _) m
  have hc1 : 0x70000 ≤ A.CMT_CSTAT x.owner.ctx ∧ A.CMT_CSTAT x.owner.ctx < 0x1000000 := by
    unfold A.CMT_CSTAT Page.commitBase
    omega
  have h1 := crossFailed_counts hs x m x.orig
  have hs1 := (hlow x.orig ⟨0x70000, 0, 0⟩ (by decide) (by decide) s).sorted hs
  have h1e : (s.crossFailed x m x.orig).rf (R.FUR_XCHK_CNT_COUNT x.field x.engine) = s.rf (R.FUR_XCHK_CNT_COUNT x.field x.engine) :=
    (hother x.engine x.orig 0x158 _ hne.symm he ho (by decide) rfl s).rf hs
  have h1m : (s.crossFailed x m x.orig).rf (R.FLD_SHADOW_MIS_COUNT x.field) = s.rf (R.FLD_SHADOW_MIS_COUNT x.field) :=
    (hfield x.orig 0x48c _ (by decide) rfl s).rf hs
  have h1s : (s.crossFailed x m x.orig).cstate x.owner.ctx = s.cstate x.owner.ctx := (hlow x.orig (R.CMT_CSTAT_STATE x.owner.ctx) hc1.1 hc1.2 s).rf hs
  rw [shadowMismatch_eq]
  generalize s.crossFailed x m x.orig = u at h1 hs1 h1e h1m h1s
  have h2 := crossFailed_counts hs1 x m x.engine
  have hs2 := (hlow x.engine ⟨0x70000, 0, 0⟩ (by decide) (by decide) u).sorted hs1
  have h2o : ∀ (o : Nat) (l : Loc), o < 0x1000 → l.addr = Page.furrowBase x.field x.orig + o → (u.crossFailed x m x.engine).rf l = u.rf l := fun o l h ha =>
    (hother x.orig x.engine o l hne ho he h ha u).rf hs1
  have h2m : (u.crossFailed x m x.engine).rf (R.FLD_SHADOW_MIS_COUNT x.field) = s.rf (R.FLD_SHADOW_MIS_COUNT x.field) :=
    ((hfield x.engine 0x48c _ (by decide) rfl u).rf hs1).trans h1m
  have h2s : (u.crossFailed x m x.engine).cstate x.owner.ctx = s.cstate x.owner.ctx :=
    ((hlow x.engine (R.CMT_CSTAT_STATE x.owner.ctx) hc1.1 hc1.2 u).rf hs1).trans h1s
  have hfur : ∀ n, n = x.orig ∨ n = x.engine →
      (u.crossFailed x m x.engine).rf (R.FUR_XCHK_CNT_COUNT x.field n) = satAdd32 (s.rf (R.FUR_XCHK_CNT_COUNT x.field n)) 1 ∧
        ((u.crossFailed x m x.engine).rf (R.ERR_STAT_STAT (Page.furrowBase x.field n))).testBit 5 = true := fun n hn => by
    rcases hn with rfl | rfl
    · exact ⟨(h2o 0x158 _ (by decide) rfl).trans h1.1, (congrArg (·.testBit 5) (h2o 0x10 _ (by decide) rfl)).trans h1.2⟩
    · exact ⟨h2.1.trans (by rw [h1e]), h2.2⟩
  generalize u.crossFailed x m x.engine = v at hs2 h2m h2s hfur
  have hs3 := sorted_bump hs2 (R.FLD_SHADOW_MIS_COUNT x.field) 1
  have hmis : (v.bump (R.FLD_SHADOW_MIS_COUNT x.field) 1).rf (R.FLD_SHADOW_MIS_COUNT x.field) = satAdd32 (s.rf (R.FLD_SHADOW_MIS_COUNT x.field)) 1 := by
    rw [rf_bump_self hs2 (Nat.le_of_ble_eq_true rfl), h2m]
    exact satAdd32_mod _ 1
  have hhigh : ∀ l : Loc, 0x1000000 ≤ l.addr → l.NoState x.owner.ctx := fun l h => .inl (by omega)
  have hmb : ∀ l : Loc, 0x1000000 ≤ l.addr → l.addr ≠ A.FLD_SHADOW_MIS x.field →
      ((v.bump (R.FLD_SHADOW_MIS_COUNT x.field) 1).blockCause x.owner.ctx 2).rf l = v.rf l := fun l h hne =>
    (((Spares.refl l v).bump (m := R.FLD_SHADOW_MIS_COUNT x.field) hne 1).blockCause (hhigh l h) 2).rf hs2
  refine ⟨?_, fun n hn => ?_, fun hrun => ?_⟩
  · exact (((Spares.refl (R.FLD_SHADOW_MIS_COUNT x.field) _).blockCause (hhigh _ (by
      show 0x1000000 ≤ A.FLD_SHADOW_MIS x.field
      unfold A.FLD_SHADOW_MIS Page.fieldBase
      omega)) 2).rf hs3).trans hmis
  · have hf : ∀ k, k < 0x1000 → 0x1000000 ≤ Page.furrowBase x.field n + k ∧ Page.furrowBase x.field n + k ≠ A.FLD_SHADOW_MIS x.field := fun k hk => by
      unfold A.FLD_SHADOW_MIS Page.furrowBase Page.fieldBase
      omega
    rw [hmb (R.FUR_XCHK_CNT_COUNT x.field n) (hf 0x158 (by decide)).1 (hf 0x158 (by decide)).2,
      hmb (R.ERR_STAT_STAT (Page.furrowBase x.field n)) (hf 0x10 (by decide)).1 (hf 0x10 (by decide)).2]
    exact hfur n hn
  · have hst : (v.bump (R.FLD_SHADOW_MIS_COUNT x.field) 1).cstate x.owner.ctx = stRunning := by
      refine (((Spares.refl (R.CMT_CSTAT_STATE x.owner.ctx) v).bump (m := R.FLD_SHADOW_MIS_COUNT x.field) ?_ 1).rf hs2).trans (h2s.trans hrun)
      show A.CMT_CSTAT x.owner.ctx ≠ A.FLD_SHADOW_MIS x.field
      unfold A.FLD_SHADOW_MIS Page.fieldBase
      omega
    exact ⟨cstate_blockCause hs3 _ _ hst, block_blockCause hs3 _ (by decide) hst⟩

/-- The state whose comparison is gone from the list of those owed. -/
def State.withoutShadow (s : State) (x : ShadowOp) : State := { s with shadows := s.shadows.erase x }

theorem withoutShadow_same (s : State) (x : ShadowOp) : Same (partsMask [.furrows, .shadows]) s (s.withoutShadow x) := Same.of_frame rfl

/-- SHADOW_COMPARE without a difference (R409, log 83). -/
theorem shadowCompare_agrees {s : State} (hc : s.Canon) {f : Fin 4} {i : Nat} (m : Meas) {x : ShadowOp}
    (hx : (s.shadows.filter fun x => x.field == f.val)[i]? = some x) :
    ∃ t, exec (.shadowCompare f i false m) s = .next t ∧ s.SameBut t [.furrows, .shadows] ∧
      t.shadows = s.shadows.erase x ∧ (x.opcode ≠ 0x28 → t.furrows = s.furrows) ∧
      ∀ b, x.opcode = 0x28 → b = s.rf (R.FLD_ACQ_BASE x.owner.ctx f) + x.slot → x.orig < 26 → x.engine < 26 →
        (t.fur f x.engine).slot b = { (s.fur f x.orig).slot b with shadow := none } ∧
        ∀ n : Fin 26, n.val ≠ x.engine → t.fur f n = s.fur f n := by
  have hfield : x.field = f.val := by
    have := (List.mem_filter.mp (List.mem_of_getElem? hx)).2
    simpa using this
  have hex : exec (.shadowCompare f i false m) s = .next ((s.withoutShadow x).repeatSlot x false) := by
    show execShadowCompare f i false m s = _
    unfold execShadowCompare
    rw [hx]
    rfl
  by_cases hop : x.opcode = 0x28
  · rw [repeatSlot_same_slot hop] at hex
    refine ⟨_, hex, ?_, rfl, fun h => (h hop).elim, fun b _ hb ho he => ⟨?_, fun n hn => ?_⟩⟩
    · exact (State.setFur_same (withoutShadow_same s x) rfl _ _ _).parts
    · rw [hb, ← hfield]
      have hset := fur_setFur_self (s := s.withoutShadow x) hc.furrows x.field x.engine
        ((s.fur x.field x.engine).setSlot (s.rf (R.FLD_ACQ_BASE x.owner.ctx x.field) + x.slot)
          { (s.fur x.field x.orig).slot (s.rf (R.FLD_ACQ_BASE x.owner.ctx x.field) + x.slot) with shadow := none })
      exact (congrArg (fun y : FurrowSt => y.slot (s.rf (R.FLD_ACQ_BASE x.owner.ctx x.field) + x.slot)) hset).trans (slot_setSlot_self _ _ _)
    · have hn' := fur_setFur_ne (f := f) (f' := f) (n := ⟨x.engine, he⟩) (n' := n) (s.withoutShadow x)
        ((s.fur x.field x.engine).setSlot (s.rf (R.FLD_ACQ_BASE x.owner.ctx x.field) + x.slot)
          { (s.fur x.field x.orig).slot (s.rf (R.FLD_ACQ_BASE x.owner.ctx x.field) + x.slot) with shadow := none })
        (fun h => hn (congrArg Fin.val (Prod.ext_iff.mp h).2))
      rw [hfield] at hn' ⊢
      exact hn'
  · rw [repeatSlot_false_other hop] at hex
    exact ⟨_, hex, (withoutShadow_same s x).parts, rfl, fun _ => rfl, fun b h => (hop h).elim⟩

/-- SHADOW_COMPARE with a difference (R410). -/
theorem shadowCompare_differs {s : State} (hc : s.Canon) {f : Fin 4} {i : Nat} (m : Meas) {x : ShadowOp}
    (hx : (s.shadows.filter fun x => x.field == f.val)[i]? = some x) (ho : x.orig < 26) (he : x.engine < 26) (hne : x.orig ≠ x.engine)
    (hctx : x.owner.ctx < 64) : ∃ t, exec (.shadowCompare f i true m) s = .next t ∧
      s.SameBut t [.freeCtr, .regs, .furrows, .shadows, .pairs, .staged, .heldBack] ∧ t.shadows = s.shadows.erase x ∧
      t.rf (R.FLD_SHADOW_MIS_COUNT f) = satAdd32 (s.rf (R.FLD_SHADOW_MIS_COUNT f)) 1 ∧
      (∀ n, n = x.orig ∨ n = x.engine → t.rf (R.FUR_XCHK_CNT_COUNT f n) = satAdd32 (s.rf (R.FUR_XCHK_CNT_COUNT f n)) 1 ∧
        (t.rf (R.ERR_STAT_STAT (Page.furrowBase f n))).testBit 5 = true) ∧
      (s.cstate x.owner.ctx = stRunning → t.cstate x.owner.ctx = stBlocked ∧
        (t.rf (R.CMT_CSTAT_BLOCK x.owner.ctx)).testBit 2 = true) := by
  have hfield : x.field = f.val := by
    have := (List.mem_filter.mp (List.mem_of_getElem? hx)).2
    simpa using this
  have hex : exec (.shadowCompare f i true m) s = .next (((s.withoutShadow x).repeatSlot x true).shadowMismatch x m) := by
    show execShadowCompare f i true m s = _
    unfold execShadowCompare
    rw [hx]
    exact congrArg Host.Outcome.next (if_pos rfl)
  have hrep := State.repeatSlot_same (.refl 4194306 (s.withoutShadow x)) rfl x true
  have hregs : ((s.withoutShadow x).repeatSlot x true).regs = s.regs := hrep.regs.resolve_left (by decide)
  have hshadows : ((s.withoutShadow x).repeatSlot x true).shadows = s.shadows.erase x := hrep.shadows.resolve_left (by decide)
  have hkeep := (State.shadowMismatch_same (.refl 52785148067848 ((s.withoutShadow x).repeatSlot x true)) rfl x m).shadows.resolve_left (by decide)
  obtain ⟨h1, h2, h3⟩ := shadowMismatch_shows (s := (s.withoutShadow x).repeatSlot x true) (by rw [hregs]; exact hc.regs) m
    (by rw [hfield]; exact f.isLt) ho he hne hctx
  rw [hfield] at h1 h2
  refine ⟨_, hex, sameBut_of_next hex, hkeep.trans hshadows, ?_, fun n hn => ?_, fun hrun => h3 ?_⟩
  · rw [h1, rf_of_regs hregs]
  · rw [(h2 n hn).1, rf_of_regs hregs]
    exact ⟨rfl, (h2 n hn).2⟩
  · exact (rf_of_regs hregs _).trans hrun

end Sys2Proof.Machine


/-! What fences, raised sources and blocked steps leave of the registers: the rules that a tick of the collector needs (R391 to R397, R435). -/

namespace Sys2Proof.Machine

/-! ### What a fence leaves (R435, R475) -/

/-- The register is neither PLL `i`'s nor a meter's. -/
def Loc.OffPll (l : Loc) (i : Nat) : Prop := l.addr ≠ A.CLK_PLL i ∧ (l.addr < 0x58200 ∨ 0x58300 ≤ l.addr)

/-- Registers outside the PLLs' words and the meters. -/
theorem Loc.offPll_outside {l : Loc} (h : l.addr < 0x58140 ∨ 0x58300 ≤ l.addr) {i : Nat} (hi : i < 18) : l.OffPll i := by
  refine ⟨?_, by omega⟩
  unfold A.CLK_PLL Page.clockBase
  omega

theorem ne_meter {l : Loc} (h : l.addr < 0x58200 ∨ 0x58300 ≤ l.addr) {k : Nat} (hk : k < 40) : l.addr ≠ A.CLK_FMETER k := by
  unfold A.CLK_FMETER Page.clockBase
  omega

theorem meterOf_lt {i : Nat} (h : i < 18) : (meterOf i).1 < 40 := by
  unfold meterOf
  split_ifs <;> omega

theorem Spares.showMeter {l : Loc} {s0 s : State} (hk : Spares l s0 s) (h : l.addr < 0x58200 ∨ 0x58300 ≤ l.addr) {j : Nat} (hj : j < 40)
    (q n : Nat) (on : Bool) : Spares l s0 (s.showMeter j q n on) := hk.wf_far (m := R.CLK_FMETER_KHZ j) (ne_meter h hj) _

theorem Spares.setPll_off {l : Loc} {s0 s : State} (hk : Spares l s0 s) {i : Nat} (h : l.OffPll i) (hi : i < 18) (st : Nat) :
    Spares l s0 (s.setPll i st) :=
  ((hk.wf_far (m := R.CLK_PLL_STATE i) h.1 _).wf_far (m := R.CLK_PLL_GOOD i) h.1 _).wf_far (m := R.CLK_FMETER_KHZ (meterOf i).1)
    (ne_meter h.2 (meterOf_lt hi)) _

theorem Spares.startPll_off {l : Loc} {s0 s : State} (hk : Spares l s0 s) {i : Nat} (h : l.OffPll i) (hi : i < 18) : Spares l s0 (s.startPll i) :=
  (hk.setPll_off h hi 1).ite hk

theorem Spares.stopPll_off {l : Loc} {s0 s : State} (hk : Spares l s0 s) {i : Nat} (h : l.OffPll i) (hi : i < 18) : Spares l s0 (s.stopPll i) :=
  hk.ite (hk.setPll_off h hi 0)

/-- A register other than the port's status stays through `portDown`, where the stop of the port's PLL leaves it. -/
theorem Spares.portDown_off {l : Loc} {s0 s : State} {p : Nat} (hpll : Spares l s0 (s.stopPll (10 + p))) (hs : l.addr ≠ A.MBL_STAT p) (st : Nat) :
    Spares l s0 (s.portDown p st) := by
  have h1 : Spares l s0 (s.unplugged p st) := by
    have hregs := regs_unplugged s p st
    generalize s.unplugged p st = u at hregs ⊢
    exact hpll.then_regs hregs
  rw [portDown_eq]
  generalize s.unplugged p st = u at h1 ⊢
  exact ((h1.wf_far (m := R.MBL_STAT_STATE p) hs _).wf_far (m := R.MBL_STAT_WIDTH p) hs _).wf_far (m := R.MBL_STAT_SECURE p) hs _

/-- R435: a fence's entry. -/
def State.fenceNoted (s : State) (p : Nat) : State := { s with fences := s.fences ++ [(Dom.port p, FPhase.fenced)] }

theorem fenceNoted_regs (s : State) (p : Nat) : (s.fenceNoted p).regs = s.regs := rfl

theorem fencePort_eq (s : State) (p : Nat) : s.fencePort p = if s.isFenced (.port p) then s
    else if (s.fenceNoted p).pstate p = pDisabled ∨ (s.fenceNoted p).pstate p = pFailed then (s.fenceNoted p).wf (R.MBL_STAT_STATE p) pFailed
    else (s.fenceNoted p).portDown p pFailed := rfl

theorem Spares.fencePort {l : Loc} {s0 s : State} (hk : Spares l s0 s) {p : Nat} (hp : p < 8) (h : l.OffPll (10 + p)) (hs : l.addr ≠ A.MBL_STAT p) :
    Spares l s0 (s.fencePort p) := by
  have hn := hk.then_regs (fenceNoted_regs s p)
  rw [fencePort_eq]
  generalize s.fenceNoted p = u at hn
  exact hk.ite (Spares.ite (hn.wf_far (m := R.MBL_STAT_STATE p) hs _) ((hn.stopPll_off h (by omega)).portDown_off hs _))

theorem isFenced_beginFence (s : State) (d : Dom) : (s.beginFence d).isFenced d = true ∧ ∀ e, s.isFenced e = true → (s.beginFence d).isFenced e = true := by
  unfold State.beginFence
  cases h : s.isFenced d with
  | true => exact ⟨h, fun _ he => he⟩
  | false =>
    have hap := fun e => isFenced_append s e d .draining { s with fences := s.fences ++ [(d, .draining)] } rfl
    exact ⟨(hap d).trans (by rw [beq_self_eq_true, Bool.or_true]), fun e he => (hap e).trans (by rw [he, Bool.true_or])⟩

theorem fences_foldl_block (p : State → Nat → Bool) (s : State) : ∀ l : List Nat,
    (l.foldl (fun s c => if p s c then s.blockCause c 5 else s) s).fences = s.fences := by
  intro l
  induction l generalizing s with
  | nil => rfl
  | cons c l ih =>
    rw [List.foldl_cons, ih]
    split
    · exact fences_blockCause s c 5
    · rfl

/-- R435: the fence of a field, which takes no other fence away. -/
theorem isFenced_fenceField (s : State) (f : Nat) : (s.fenceField f).isFenced (.field f) = true ∧
    ∀ e, s.isFenced e = true → (s.fenceField f).isFenced e = true := by
  unfold State.fenceField
  cases h : s.isFenced (.field f) with
  | true => exact ⟨h, fun _ he => he⟩
  | false =>
    rw [if_neg Bool.false_ne_true]
    dsimp only
    obtain ⟨hb1, hb2⟩ := isFenced_beginFence s (.field f)
    have hp : ∀ e, (s.beginFence (.field f)).isFenced e = true →
        (((s.beginFence (.field f)).fencePort (2 * f)).fencePort (2 * f + 1)).isFenced e = true := fun e he => by
      rw [isFenced_fencePort, isFenced_fencePort, he]
      rfl
    have hfold := fun e => isFenced_of_fences (fences_foldl_block (fun s c => s.resident c && s.inMask c f)
      (((s.beginFence (.field f)).fencePort (2 * f)).fencePort (2 * f + 1)) (List.range 64)) e
    exact ⟨(hfold _).trans (hp _ hb1), fun e he => (hfold _).trans (hp _ (hb2 e he))⟩

theorem isFenced_fenceFields (d : Dom) : ∀ (l : List Nat) (s : State), (s.isFenced d = true ∨ ∃ f ∈ l, d = .field f) →
    (l.foldl State.fenceField s).isFenced d = true
  | [], s, h => h.resolve_right fun ⟨_, hf, _⟩ => (nomatch hf)
  | f :: l, s, h => by
    rw [List.foldl_cons]
    refine isFenced_fenceFields d l _ ?_
    rcases h with h | ⟨g, hg, rfl⟩
    · exact .inl ((isFenced_fenceField s f).2 d h)
    · rcases List.mem_cons.mp hg with rfl | hg
      · exact .inl (isFenced_fenceField s g).1
      · exact .inr ⟨g, hg, rfl⟩

/-! ### Registers that the finds of a tick leave -/

/-- The field is none of those that a find changes: no error word, no port's state, no PLL or meter, no commit state and no
`FCOL_STAT`. -/
structure Loc.Calm (l : Loc) : Prop where
  stat : l.addr % 0x1000 ≠ 0x10
  cnt : l.addr % 0x1000 ≠ 0x20
  first : l.addr % 0x1000 ≠ 0x24
  port : l.addr % 0x1000 ≠ 0x104
  clock : l.addr < 0x58140 ∨ 0x58300 ≤ l.addr
  commit : l.addr < 0x70800 ∨ 0x71000 ≤ l.addr
  collector : l.addr ≠ A.FCOL_STAT

/-- The field is one that reports only go up in: an `ERR_STAT`, the block causes of a context, `DEVFATAL`. -/
inductive Loc.Report (l : Loc) : Prop where
  | stat (page : Nat) : page % 0x1000 = 0 → l = R.ERR_STAT_STAT page → l.Report
  | block (c : Nat) : c < 64 → l = R.CMT_CSTAT_BLOCK c → l.Report
  | fatal : l = R.FCOL_STAT_DEVFATAL → l.Report

theorem cstat_range {c : Nat} (h : c < 64) : 0x70800 ≤ A.CMT_CSTAT c ∧ A.CMT_CSTAT c < 0x71000 := by
  unfold A.CMT_CSTAT Page.commitBase
  omega

theorem mbl_stat_mod (p : Nat) : A.MBL_STAT p % 0x1000 = 0x104 := by
  unfold A.MBL_STAT Page.portBase Page.fieldBase
  omega

/-- A register that no report is kept in. -/
theorem Loc.Report.ne {l : Loc} (h : l.Report) {a : Nat} (h1 : a % 0x1000 ≠ 0x10) (h2 : a < 0x70800 ∨ 0x71000 ≤ a) (h3 : a ≠ A.FCOL_STAT) :
    l.addr ≠ a := by
  cases h with
  | stat page hp he =>
    subst he
    show page + 0x10 ≠ a
    omega
  | block c hc he =>
    subst he
    have := cstat_range hc
    show A.CMT_CSTAT c ≠ a
    omega
  | fatal he =>
    subst he
    exact h3.symm

theorem Loc.Report.offPll {l : Loc} (h : l.Report) {i : Nat} (hi : i < 18) : l.OffPll i := by
  refine ⟨h.ne ?_ ?_ ?_, ?_⟩
  · unfold A.CLK_PLL Page.clockBase
    omega
  · unfold A.CLK_PLL Page.clockBase
    omega
  · unfold A.CLK_PLL Page.clockBase A.FCOL_STAT Page.collectorBase
    omega
  · by_contra hr
    have := h.ne (a := l.addr) (by omega) (by omega) (by unfold A.FCOL_STAT Page.collectorBase; omega)
    exact this rfl

theorem Loc.Calm.offPll {l : Loc} (h : l.Calm) {i : Nat} (hi : i < 18) : l.OffPll i := by
  have := h.clock
  refine ⟨?_, by omega⟩
  unfold A.CLK_PLL Page.clockBase
  omega

theorem Loc.Calm.noErr {l : Loc} (h : l.Calm) {page : Nat} (hp : page % 0x1000 = 0) : l.NoErr page := by
  have h1 := h.stat
  have h2 := h.cnt
  have h3 := h.first
  unfold Loc.NoErr A.ERR_STAT A.ERR_CNT A.ERR_FIRST
  omega

theorem Loc.Calm.noState {l : Loc} (h : l.Calm) {c : Nat} (hc : c < 64) : l.NoState c := .inl (by
  have := cstat_range hc
  have := h.commit
  omega)

theorem Loc.Calm.ne_port {l : Loc} (h : l.Calm) (p : Nat) : l.addr ≠ A.MBL_STAT p := fun he => h.port (he ▸ mbl_stat_mod p)

/-- A fence of a port, of a field, of the whole device leaves calm registers. -/
theorem Spares.fencePort_calm {l : Loc} {s0 s : State} (hk : Spares l s0 s) (h : l.Calm) {p : Nat} (hp : p < 8) : Spares l s0 (s.fencePort p) :=
  hk.fencePort hp (h.offPll (by omega)) (h.ne_port p)

theorem fenceField_eq (s : State) (f : Nat) : s.fenceField f = if s.isFenced (.field f) then s
    else (List.range 64).foldl (fun s c => if s.resident c && s.inMask c f then s.blockCause c 5 else s)
      (((s.beginFence (.field f)).fencePort (2 * f)).fencePort (2 * f + 1)) := rfl

theorem Spares.fenceField_calm {l : Loc} {s0 s : State} (hk : Spares l s0 s) (h : l.Calm) {f : Nat} (hf : f < 4) : Spares l s0 (s.fenceField f) := by
  have hb := hk.then_regs (beginFence_regs s (.field f)).1
  rw [fenceField_eq]
  refine hk.ite (Spares.foldl_mem _ (fun _ c hc hu => (hu.blockCause (h.noState (List.mem_range.mp hc)) 5).ite hu) ?_)
  exact (hb.fencePort_calm h (by omega)).fencePort_calm h (by omega)

theorem Spares.fenceAll_calm {l : Loc} {s0 s : State} (hk : Spares l s0 s) (h : l.Calm) : Spares l s0 s.fenceAll :=
  Spares.foldl_mem _ (fun _ _ hp hu => hu.fencePort_calm h (List.mem_range.mp hp))
    (Spares.foldl_mem _ (fun _ _ hf hu => hu.fenceField_calm h (List.mem_range.mp hf)) hk)

theorem sendVector0_regs (s : State) : s.sendVector0.regs = s.regs :=
  (State.sendVector0_same (.refl 9216 s) rfl).regs.resolve_left (by decide)

theorem Spares.deviceFatal_calm {l : Loc} {s0 s : State} (hk : Spares l s0 s) (h : l.Calm) : Spares l s0 s.deviceFatal :=
  hk.ite (((hk.wf_far (m := R.FCOL_STAT_DEVFATAL) h.collector 1).fenceAll_calm h).then_regs (sendVector0_regs _))

/-! ### Reports only go up -/

/-- From `s` to `t` the registers stay in order, and nothing that was reported is taken back. -/
structure Louder (s t : State) : Prop where
  sorted : Store.Sorted s.regs → Store.Sorted t.regs
  bits : Store.Sorted s.regs → ∀ (l : Loc) (j : Nat), l.Report → (s.rf l).testBit j = true → (t.rf l).testBit j = true

theorem Louder.refl (s : State) : Louder s s := ⟨id, fun _ _ _ _ h => h⟩

theorem Louder.trans {s t u : State} (h : Louder s t) (k : Louder t u) : Louder s u :=
  ⟨fun hs => k.sorted (h.sorted hs), fun hs l j hl hb => k.bits (h.sorted hs) l j hl (h.bits hs l j hl hb)⟩

theorem louder_of_spares {s t : State} (h : ∀ l : Loc, l.Report → Spares l s t) : Louder s t :=
  ⟨(h R.FCOL_STAT_DEVFATAL (.fatal rfl)).sorted, fun hs l j hl hb => by rw [(h l hl).rf hs]; exact hb⟩

theorem louder_of_regs {s t : State} (h : t.regs = s.regs) : Louder s t := louder_of_spares fun _ _ => .of_regs h

theorem Louder.ite {s t u : State} {c : Prop} [Decidable c] (h1 : Louder s t) (h2 : Louder s u) : Louder s (if c then t else u) := by
  split
  · exact h1
  · exact h2

theorem Louder.foldl_mem {α : Type} {f : State → α → State} {xs : List α} (hf : ∀ t x, x ∈ xs → Louder t (f t x)) {s0 s : State}
    (h : Louder s0 s) : Louder s0 (xs.foldl f s) := by
  induction xs generalizing s with
  | nil => exact h
  | cons x xs ih => exact ih (fun t y hy => hf t y (List.mem_cons_of_mem _ hy)) (h.trans (hf s x List.mem_cons_self))

/-- A write that sets bits of its field, or of a field of another register. -/
theorem louder_wf_or {s : State} {m : Loc} {v : Nat} (hm : m.Fits) (h : ∀ j, (s.rf m).testBit j = true → v.testBit j = true)
    (hl : ∀ k : Loc, k.Report → k = m ∨ k.Clear m) : Louder s (s.wf m v) := by
  refine ⟨fun hs => sorted_wf hs m v, fun hs l j hr hb => ?_⟩
  rcases hl l hr with rfl | hc
  · have hlt : (s.rf l) < 2 ^ l.wid := rf_lt s l
    have hj : j < l.wid := by
      by_contra hge
      rw [Nat.testBit_lt_two_pow (Nat.lt_of_lt_of_le hlt (Nat.pow_le_pow_right (by decide) (Nat.le_of_not_lt hge)))] at hb
      cases hb
    rw [rf_wf_self hs hm, Nat.testBit_mod_two_pow, h j hb]
    simp [hj]
  · rw [((Spares.refl l s).wf hm hc v).rf hs]
    exact hb

theorem louder_wf {s : State} {m : Loc} (h1 : m.addr % 0x1000 ≠ 0x10) (h2 : m.addr < 0x70800 ∨ 0x71000 ≤ m.addr) (h3 : m.addr ≠ A.FCOL_STAT)
    (v : Nat) : Louder s (s.wf m v) := louder_of_spares fun l hl => (Spares.refl l s).wf_far (hl.ne h1 h2 h3) v

/-- The status word of another page of errors. -/
theorem Loc.Report.stat_or {l : Loc} (h : l.Report) {page : Nat} (hp : page % 0x1000 = 0) : l = R.ERR_STAT_STAT page ∨ l.addr ≠ A.ERR_STAT page := by
  cases h with
  | stat q hq he =>
    subst he
    by_cases hqp : q = page
    · exact .inl (hqp ▸ rfl)
    · refine .inr fun he => hqp (Nat.add_right_cancel he)
  | block c hc he =>
    subst he
    have := cstat_range hc
    refine .inr ?_
    show A.CMT_CSTAT c ≠ page + 0x10
    unfold A.CMT_CSTAT Page.commitBase at *
    omega
  | fatal he =>
    subst he
    refine .inr ?_
    show 0x20108 ≠ page + 0x10
    omega

/-- R388: an event of a source. -/
theorem louder_errWords (s : State) {page : Nat} (hp : page % 0x1000 = 0) (b : Nat) : Louder s (s.errWords page b) := by
  have h1 : Louder s (s.wf (R.ERR_STAT_STAT page) (s.rf (R.ERR_STAT_STAT page) ||| 2 ^ b)) :=
    louder_wf_or (Nat.le_of_ble_eq_true rfl) (fun j hj => by rw [Nat.testBit_or, hj]; rfl) fun l hl => (hl.stat_or hp).imp_right .inl
  have hfar : ∀ (u : State) (m : Loc), (m.addr = page + 0x20 ∨ m.addr = page + 0x24) → ∀ v, Louder u (u.wf m v) := fun u m hm v =>
    louder_of_spares fun l hl => by
      refine (Spares.refl l u).wf_far ?_ v
      cases hl with
      | stat q hq he =>
        subst he
        show q + 0x10 ≠ m.addr
        omega
      | block c hc he =>
        subst he
        show A.CMT_CSTAT c ≠ m.addr
        unfold A.CMT_CSTAT Page.commitBase
        omega
      | fatal he =>
        subst he
        show 0x20108 ≠ m.addr
        omega
  unfold State.errWords
  exact h1.trans ((hfar _ _ (.inl rfl) _).trans ((Louder.refl _).ite ((hfar _ (R.ERR_FIRST_BIT page) (.inr rfl) _).trans (hfar _ (R.ERR_FIRST_VALID page) (.inr rfl) _))))

theorem louder_raisePair (s : State) (page b : Nat) (forced : Bool) : Louder s (s.raisePair page b forced) :=
  louder_of_regs (raisePair_regs s page b forced)

theorem louder_raiseSrc (s : State) {page : Nat} (hp : page % 0x1000 = 0) (b : Nat) : Louder s (s.raiseSrc page b) :=
  (louder_errWords s hp b).trans (louder_raisePair _ page b false)

theorem louder_raiseFor (s : State) {page : Nat} (hp : page % 0x1000 = 0) (b : Nat) (c : Option Nat) : Louder s (s.raiseFor page b c) :=
  (louder_raiseSrc s hp b).trans (louder_of_regs (raiseFor_regs s page b c))

theorem louder_condEvent (s : State) {page : Nat} (hp : page % 0x1000 = 0) (b : Nat) : Louder s (s.condEvent page b) :=
  (louder_raiseSrc s hp b).trans (louder_of_regs rfl)

theorem louder_raiseCond (s : State) {page : Nat} (hp : page % 0x1000 = 0) (b : Nat) : Louder s (s.raiseCond page b) :=
  (Louder.refl s).ite (louder_condEvent s hp b)

/-- R294: a step that is blocked keeps the causes it had. -/
theorem louder_blockCause (s : State) {c : Nat} (hc : c < 64) (b : Nat) : Louder s (s.blockCause c b) := by
  have hr := cstat_range hc
  have hblock : ∀ l : Loc, l.Report → l = R.CMT_CSTAT_BLOCK c ∨ l.Clear (R.CMT_CSTAT_BLOCK c) := fun l hl => by
    cases hl with
    | stat q hq he =>
      subst he
      refine .inr (.inl ?_)
      show q + 0x10 ≠ A.CMT_CSTAT c
      unfold A.CMT_CSTAT Page.commitBase
      omega
    | block d hd he =>
      subst he
      by_cases hdc : d = c
      · exact .inl (hdc ▸ rfl)
      · refine .inr (.inl ?_)
        show A.CMT_CSTAT d ≠ A.CMT_CSTAT c
        unfold A.CMT_CSTAT
        omega
    | fatal he =>
      subst he
      refine .inr (.inl ?_)
      show 0x20108 ≠ A.CMT_CSTAT c
      omega
  have hstate : ∀ l : Loc, l.Report → l.Clear (R.CMT_CSTAT_STATE c) := fun l hl => (hblock l hl).elim
    (fun h => h ▸ .inr (.inr (Nat.le_of_ble_eq_true rfl))) fun h => h.elim .inl fun _ => by
      cases hl with
      | stat q hq he => subst he; refine .inl ?_; show q + 0x10 ≠ A.CMT_CSTAT c; unfold A.CMT_CSTAT Page.commitBase; omega
      | block d hd he => subst he; exact .inr (.inr (Nat.le_of_ble_eq_true rfl))
      | fatal he => subst he; refine .inl ?_; show 0x20108 ≠ A.CMT_CSTAT c; omega
  unfold State.blockCause
  refine Louder.ite (Louder.trans ?_ (louder_of_spares fun l hl => (Spares.refl l _).wf (m := R.CMT_CSTAT_STATE c) (Nat.le_of_ble_eq_true rfl) (hstate l hl) _))
    (Louder.refl s)
  exact louder_wf_or (Nat.le_of_ble_eq_true rfl) (fun j hj => by rw [Nat.testBit_or, hj]; rfl) hblock

theorem louder_fencePort (s : State) {p : Nat} (hp : p < 8) : Louder s (s.fencePort p) := louder_of_spares fun l hl => by
  refine (Spares.refl l s).fencePort hp (hl.offPll (by omega)) (hl.ne ?_ ?_ ?_)
  · rw [mbl_stat_mod]
    decide
  · have := portBase_high p
    unfold A.MBL_STAT
    omega
  · have := portBase_high p
    unfold A.MBL_STAT A.FCOL_STAT Page.collectorBase
    omega

theorem louder_fenceField (s : State) {f : Nat} (hf : f < 4) : Louder s (s.fenceField f) := by
  rw [fenceField_eq]
  refine (Louder.refl s).ite (Louder.foldl_mem (fun t c hc => (louder_blockCause t (List.mem_range.mp hc) 5).ite (Louder.refl t)) ?_)
  exact (louder_of_regs (beginFence_regs s (.field f)).1).trans ((louder_fencePort _ (by omega)).trans (louder_fencePort _ (by omega)))

theorem louder_deviceFatal (s : State) : Louder s s.deviceFatal := by
  have hfatal : Louder s (s.wf R.FCOL_STAT_DEVFATAL 1) := by
    refine louder_wf_or (by decide) (fun j hj => ?_) fun l hl => ?_
    · have hlt : s.rf R.FCOL_STAT_DEVFATAL < 2 ^ 1 := rf_lt s _
      have : s.rf R.FCOL_STAT_DEVFATAL = 0 ∨ s.rf R.FCOL_STAT_DEVFATAL = 1 := by omega
      rcases this with h | h
      · rw [h, Nat.zero_testBit] at hj
        cases hj
      · rw [h] at hj
        exact hj
    · cases hl with
      | stat q hq he => subst he; refine .inr (.inl ?_); show q + 0x10 ≠ 0x20108; omega
      | block c hc he => subst he; have := cstat_range hc; refine .inr (.inl ?_); show A.CMT_CSTAT c ≠ 0x20108; omega
      | fatal he => exact .inl he
  have hall : ∀ t : State, Louder t t.fenceAll := fun t =>
    (Louder.foldl_mem (fun u _ hf => louder_fenceField u (List.mem_range.mp hf)) (Louder.refl t)).trans
      (Louder.foldl_mem (fun u _ hp => louder_fencePort u (List.mem_range.mp hp)) (Louder.refl _))
  exact (Louder.refl s).ite (hfatal.trans ((hall _).trans (louder_of_regs (sendVector0_regs _))))

/-! ### What a tick never takes back -/

/-- The pair of the collector's own WIRE source (R394), the only one whose condition a tick ends. -/
def wireKey : Nat := pairKey Page.collectorBase 0

/-- From `s` to `t` no report, no fence and no condition but the collector's own is taken back. -/
structure Onward (s t : State) : Prop where
  louder : Louder s t
  fenced : ∀ d, s.isFenced d = true → t.isFenced d = true
  pairs : Store.Sorted s.pairs → Store.Sorted t.pairs
  cond : Store.Sorted s.pairs → ∀ k, k ≠ wireKey → (s.pair k).cond = true → (t.pair k).cond = true

theorem Onward.refl (s : State) : Onward s s := ⟨.refl s, fun _ h => h, id, fun _ _ _ h => h⟩

theorem Onward.trans {s t u : State} (h : Onward s t) (k : Onward t u) : Onward s u :=
  ⟨h.louder.trans k.louder, fun d hd => k.fenced d (h.fenced d hd), fun hp => k.pairs (h.pairs hp),
    fun hp j hj hc => k.cond (h.pairs hp) j hj (h.cond hp j hj hc)⟩

theorem Onward.ite {s t u : State} {c : Prop} [Decidable c] (h1 : Onward s t) (h2 : Onward s u) : Onward s (if c then t else u) := by
  split
  · exact h1
  · exact h2

theorem Onward.foldl_mem {α : Type} {f : State → α → State} {xs : List α} (hf : ∀ t x, x ∈ xs → Onward t (f t x)) {s0 s : State}
    (h : Onward s0 s) : Onward s0 (xs.foldl f s) := by
  induction xs generalizing s with
  | nil => exact h
  | cons x xs ih => exact ih (fun t y hy => hf t y (List.mem_cons_of_mem _ hy)) (h.trans (hf s x List.mem_cons_self))

/-- An operation that leaves the pairs and the fences alone. -/
theorem Louder.onward {s t : State} (h : Louder s t) (hp : t.pairs = s.pairs) (hf : t.fences = s.fences) : Onward s t :=
  ⟨h, fun d hd => (isFenced_of_fences hf d).trans hd, fun hs => hp ▸ hs, fun _ k _ hc => by rw [pair_of_pairs hp]; exact hc⟩

/-- An operation that leaves the pairs alone. -/
theorem Louder.onward_fences {s t : State} (h : Louder s t) (hp : t.pairs = s.pairs) (hf : ∀ d, s.isFenced d = true → t.isFenced d = true) : Onward s t :=
  ⟨h, hf, fun hs => hp ▸ hs, fun _ k _ hc => by rw [pair_of_pairs hp]; exact hc⟩

theorem onward_of_eqs {s t : State} (hr : t.regs = s.regs) (hp : t.pairs = s.pairs) (hf : t.fences = s.fences) : Onward s t :=
  (louder_of_regs hr).onward hp hf

/-- A pair that keeps its condition. -/
theorem onward_setPair (s : State) (k : Nat) (x : PairSt) (h : k ≠ wireKey → (s.pair k).cond = true → x.cond = true) : Onward s (s.setPair k x) := by
  refine ⟨louder_of_regs rfl, fun _ hd => hd, fun hs => sorted_sputD hs _ _ _, fun hs j hj hc => ?_⟩
  by_cases hjk : j = k
  · subst hjk
    rw [pair_setPair_self hs]
    exact h hj hc
  · rw [pair_setPair_ne _ _ hjk]
    exact hc

theorem onward_errWords (s : State) {page : Nat} (hp : page % 0x1000 = 0) (b : Nat) : Onward s (s.errWords page b) :=
  (louder_errWords s hp b).onward (errWords_pairs s page b) (congrArg State.fences (errWords_frame s page b) :)

theorem onward_raisePair (s : State) (page b : Nat) (forced : Bool) : Onward s (s.raisePair page b forced) := by
  unfold State.raisePair
  exact (Onward.refl s).ite (onward_setPair s _ _ fun _ h => h)

theorem onward_raiseSrc (s : State) {page : Nat} (hp : page % 0x1000 = 0) (b : Nat) : Onward s (s.raiseSrc page b) :=
  (onward_errWords s hp b).trans (onward_raisePair _ page b false)

theorem onward_raiseFor (s : State) {page : Nat} (hp : page % 0x1000 = 0) (b : Nat) (c : Option Nat) : Onward s (s.raiseFor page b c) := by
  have h := onward_raiseSrc s hp b
  unfold State.raiseFor
  cases c with
  | none => exact h
  | some d => exact h.trans ((Onward.refl _).ite (onward_setPair _ _ _ fun _ h => h))

theorem onward_condEvent (s : State) {page : Nat} (hp : page % 0x1000 = 0) (b : Nat) : Onward s (s.condEvent page b) :=
  (onward_raiseSrc s hp b).trans (onward_setPair _ _ _ fun _ _ => rfl)

theorem onward_raiseCond (s : State) {page : Nat} (hp : page % 0x1000 = 0) (b : Nat) : Onward s (s.raiseCond page b) :=
  (Onward.refl s).ite (onward_condEvent s hp b)

theorem onward_blockCause (s : State) {c : Nat} (hc : c < 64) (b : Nat) : Onward s (s.blockCause c b) :=
  (louder_blockCause s hc b).onward (congrArg State.pairs (blockCause_frame s c b) :) (fences_blockCause s c b)

theorem onward_fencePort (s : State) {p : Nat} (hp : p < 8) : Onward s (s.fencePort p) :=
  (louder_fencePort s hp).onward_fences ((State.fencePort_same (.refl 279172874248 s) rfl p).pairs.resolve_left (by decide))
    fun d hd => by rw [isFenced_fencePort, hd]; rfl

theorem onward_fenceField (s : State) {f : Nat} (hf : f < 4) : Onward s (s.fenceField f) :=
  (louder_fenceField s hf).onward_fences ((State.fenceField_same (.refl 279172874248 s) rfl f).pairs.resolve_left (by decide))
    (isFenced_fenceField s f).2

theorem onward_deviceFatal (s : State) : Onward s s.deviceFatal := by
  refine (louder_deviceFatal s).onward_fences ((State.deviceFatal_same (.refl 279172883464 s) rfl).pairs.resolve_left (by decide)) fun d hd => ?_
  unfold State.deviceFatal
  split
  · exact hd
  · rw [isFenced_of_fences ((State.sendVector0_same (.refl 9216 _) rfl).fences.resolve_left (by decide))]
    unfold State.fenceAll
    rw [isFenced_fencePorts, isFenced_fenceFields d (List.range 4) _ (.inl ((isFenced_of_fences (fences_wf s _ _) d).trans hd))]
    rfl

/-- R397: the device-fatal state. -/
theorem deviceFatal_flag {s : State} (hs : Store.Sorted s.regs) : s.deviceFatal.flag R.FCOL_STAT_DEVFATAL = true := by
  unfold State.deviceFatal
  split
  next h => exact h
  next =>
    have h1 := wf_last (l := R.FCOL_STAT_DEVFATAL) hs (by decide) (v := 1) (by decide)
    have hs1 := sorted_wf hs R.FCOL_STAT_DEVFATAL 1
    generalize s.wf R.FCOL_STAT_DEVFATAL 1 = u at h1 hs1
    have hall : Louder u u.fenceAll :=
      (Louder.foldl_mem (fun v _ hf => louder_fenceField v (List.mem_range.mp hf)) (Louder.refl u)).trans
        (Louder.foldl_mem (fun v _ hp => louder_fencePort v (List.mem_range.mp hp)) (Louder.refl _))
    have hb := hall.bits hs1 R.FCOL_STAT_DEVFATAL 0 (.fatal rfl) (by rw [h1]; rfl)
    rw [← rf_of_regs (sendVector0_regs u.fenceAll)] at hb
    generalize u.fenceAll.sendVector0 = v at hb ⊢
    unfold State.flag
    refine bne_iff_ne.mpr fun h0 => ?_
    rw [h0, Nat.zero_testBit] at hb
    cases hb

end Sys2Proof.Machine


/-! What the package's own codes and checks find in a tick of the collector (R169, R394, R395): part of O56. -/

namespace Sys2Proof.Machine

/-! ### Registers and steps that a find leaves alone -/

/-- The step of context `c` is running or blocked. -/
def State.InStep (s : State) (c : Nat) : Prop := s.cstate c = stRunning ∨ s.cstate c = stBlocked

/-- From `s` to `t` calm registers stay as they were, and a step that was running or blocked still is. -/
structure Apart (s t : State) : Prop where
  spares : ∀ l : Loc, l.Calm → Spares l s t
  step : ∀ c, c < 64 → Store.Sorted s.regs → s.InStep c → t.InStep c

theorem calm_zero : (⟨0, 0, 0⟩ : Loc).Calm := ⟨by decide, by decide, by decide, by decide, by decide, by decide, by decide⟩

theorem Apart.sorted {s t : State} (h : Apart s t) : Store.Sorted s.regs → Store.Sorted t.regs := (h.spares _ calm_zero).sorted

theorem Apart.refl (s : State) : Apart s s := ⟨fun l _ => .refl l s, fun _ _ _ h => h⟩

theorem Apart.trans {s t u : State} (h : Apart s t) (k : Apart t u) : Apart s u :=
  ⟨fun l hl => (h.spares l hl).trans (k.spares l hl), fun c hc hs hp => k.step c hc (h.sorted hs) (h.step c hc hs hp)⟩

theorem Apart.ite {s t u : State} {c : Prop} [Decidable c] (h1 : Apart s t) (h2 : Apart s u) : Apart s (if c then t else u) := by
  split
  · exact h1
  · exact h2

theorem Apart.foldl_mem {α : Type} {f : State → α → State} {xs : List α} (hf : ∀ t x, x ∈ xs → Apart t (f t x)) {s0 s : State}
    (h : Apart s0 s) : Apart s0 (xs.foldl f s) := by
  induction xs generalizing s with
  | nil => exact h
  | cons x xs ih => exact ih (fun t y hy => hf t y (List.mem_cons_of_mem _ hy)) (h.trans (hf s x List.mem_cons_self))

theorem apart_of_spares {s t : State} (h : ∀ l : Loc, l.Calm → Spares l s t) (hst : ∀ c, c < 64 → Spares (R.CMT_CSTAT_STATE c) s t) : Apart s t :=
  ⟨h, fun c hc hs hp => by
    unfold State.InStep State.cstate at *
    rw [(hst c hc).rf hs]
    exact hp⟩

theorem apart_of_regs {s t : State} (h : t.regs = s.regs) : Apart s t := apart_of_spares (fun _ _ => .of_regs h) fun _ _ => .of_regs h

theorem cstat_noErr (c : Nat) (hc : c < 64) {page : Nat} (hp : page % 0x1000 = 0) : (R.CMT_CSTAT_STATE c).NoErr page := by
  unfold Loc.NoErr R.CMT_CSTAT_STATE A.CMT_CSTAT A.ERR_STAT A.ERR_CNT A.ERR_FIRST Page.commitBase
  dsimp only
  omega

theorem apart_raiseSrc (s : State) {page : Nat} (hp : page % 0x1000 = 0) (b : Nat) : Apart s (s.raiseSrc page b) :=
  apart_of_spares (fun l hl => (Spares.refl l s).raiseSrc (hl.noErr hp) b) fun c hc => (Spares.refl _ s).raiseSrc (cstat_noErr c hc hp) b

theorem apart_raiseFor (s : State) {page : Nat} (hp : page % 0x1000 = 0) (b : Nat) (c : Option Nat) : Apart s (s.raiseFor page b c) :=
  (apart_raiseSrc s hp b).trans (apart_of_regs (raiseFor_regs s page b c))

theorem apart_raiseCond (s : State) {page : Nat} (hp : page % 0x1000 = 0) (b : Nat) : Apart s (s.raiseCond page b) :=
  (Apart.refl s).ite ((apart_raiseSrc s hp b).trans (apart_of_regs rfl))

/-- R294: a running or blocked step is blocked by the cause. -/
theorem inStep_blockCause {s : State} (hs : Store.Sorted s.regs) {c : Nat} (h : s.InStep c) {b : Nat} (hb : b < 7) :
    (s.blockCause c b).cstate c = stBlocked ∧ ((s.blockCause c b).rf (R.CMT_CSTAT_BLOCK c)).testBit b = true := by
  rcases h with h | h
  · exact ⟨cstate_blockCause hs c b h, block_blockCause hs c hb h⟩
  · have hw := sorted_wf hs (R.CMT_CSTAT_BLOCK c) (s.rf (R.CMT_CSTAT_BLOCK c) ||| 2 ^ b)
    have hkeep : ∀ (u : State) (hu : Store.Sorted u.regs) v, (u.wf (R.CMT_CSTAT_STATE c) v).rf (R.CMT_CSTAT_BLOCK c) = u.rf (R.CMT_CSTAT_BLOCK c) := fun u hu v =>
      ((Spares.refl (R.CMT_CSTAT_BLOCK c) u).wf (m := R.CMT_CSTAT_STATE c) (Nat.le_of_ble_eq_true rfl) (.inr (.inr (Nat.le_of_ble_eq_true rfl))) v).rf hu
    unfold State.blockCause
    rw [if_pos (by rw [h]; rfl)]
    refine ⟨rf_wf_self hw (Nat.le_of_ble_eq_true rfl) _, ?_⟩
    rw [hkeep _ hw, rf_wf_self hs (Nat.le_of_ble_eq_true rfl), Nat.testBit_mod_two_pow, Nat.testBit_or, Nat.testBit_two_pow_self, Bool.or_true, Bool.and_true]
    exact decide_eq_true hb

theorem apart_blockCause (s : State) {c : Nat} (hc : c < 64) (b : Nat) : Apart s (s.blockCause c b) := by
  refine ⟨fun l hl => (Spares.refl l s).blockCause (hl.noState hc) b, fun d _ hs hp => ?_⟩
  by_cases hdc : d = c
  · subst hdc
    right
    rcases hp with hp | hp
    · exact cstate_blockCause hs d b hp
    · unfold State.blockCause
      rw [if_pos (by rw [hp]; rfl)]
      exact rf_wf_self (sorted_wf hs _ _) (Nat.le_of_ble_eq_true rfl) _
  · have hne : A.CMT_CSTAT d ≠ A.CMT_CSTAT c := by
      unfold A.CMT_CSTAT
      omega
    unfold State.InStep State.cstate at *
    rw [((Spares.refl (R.CMT_CSTAT_STATE d) s).blockCause (.inl hne) b).rf hs]
    exact hp

theorem cstat_offPll {c : Nat} (hc : c < 64) {i : Nat} (hi : i < 18) : (R.CMT_CSTAT_STATE c).OffPll i :=
  Loc.offPll_outside (.inr (Nat.le_trans (by decide) (cstat_range hc).1)) hi

theorem apart_fencePort (s : State) {p : Nat} (hp : p < 8) : Apart s (s.fencePort p) :=
  apart_of_spares (fun l hl => (Spares.refl l s).fencePort_calm hl hp) fun c hc => (Spares.refl _ s).fencePort hp (cstat_offPll hc (by omega))
    (ne_port_of_low (Nat.lt_trans (cstat_range hc).2 (by decide)) p _)

theorem apart_fenceField (s : State) {f : Nat} (hf : f < 4) : Apart s (s.fenceField f) := by
  rw [fenceField_eq]
  refine (Apart.refl s).ite (Apart.foldl_mem (fun t c hc => (apart_blockCause t (List.mem_range.mp hc) 5).ite (Apart.refl t)) ?_)
  exact (apart_of_regs (beginFence_regs s (.field f)).1).trans ((apart_fencePort _ (by omega)).trans (apart_fencePort _ (by omega)))

theorem apart_deviceFatal (s : State) : Apart s s.deviceFatal := by
  have hall : ∀ t : State, Apart t t.fenceAll := fun t =>
    (Apart.foldl_mem (fun u _ hf => apart_fenceField u (List.mem_range.mp hf)) (Apart.refl t)).trans
      (Apart.foldl_mem (fun u _ hp => apart_fencePort u (List.mem_range.mp hp)) (Apart.refl _))
  have hset : Apart s (s.wf R.FCOL_STAT_DEVFATAL 1) := apart_of_spares (fun l hl => (Spares.refl l s).wf_far (m := R.FCOL_STAT_DEVFATAL) hl.collector 1)
    fun c hc => (Spares.refl _ s).wf_far (m := R.FCOL_STAT_DEVFATAL) (by
      have := cstat_range hc
      show A.CMT_CSTAT c ≠ 0x20108
      omega) 1
  exact (Apart.refl s).ite (hset.trans ((hall _).trans (apart_of_regs (sendVector0_regs _))))

/-! ### Bytes and instructions that read 0 -/

/-- From `s` to `t` what reads 0 in the on-chip stores goes on to, and an instruction in a stream's buffer stays there, with the
halves that read 0. -/
structure Blanker (s t : State) : Prop where
  canon : s.Canon → t.Canon
  seed : s.Canon → ∀ a, s.seedbed.read unit64K a = 0 → t.seedbed.read unit64K a = 0
  sheaf : s.Canon → ∀ a, s.sheaf.read unit64K a = 0 → t.sheaf.read unit64K a = 0
  glean : s.Canon → ∀ a, s.glean.read gleanUnit a = 0 → t.glean.read gleanUnit a = 0
  buf : s.Canon → ∀ (k j w : Nat) (b : InstrWord), (sgetD s.streams k {}).buf[j]? = some (some b) →
    ∃ b', (sgetD t.streams k {}).buf[j]? = some (some b') ∧ (halfLost w b = b → halfLost w b' = b')

theorem Blanker.refl (s : State) : Blanker s s := ⟨id, fun _ _ h => h, fun _ _ h => h, fun _ _ h => h, fun _ _ _ _ b h => ⟨b, h, id⟩⟩

theorem Blanker.trans {s t u : State} (h : Blanker s t) (k : Blanker t u) : Blanker s u where
  canon hc := k.canon (h.canon hc)
  seed hc a ha := k.seed (h.canon hc) a (h.seed hc a ha)
  sheaf hc a ha := k.sheaf (h.canon hc) a (h.sheaf hc a ha)
  glean hc a ha := k.glean (h.canon hc) a (h.glean hc a ha)
  buf hc key j w b hb := by
    obtain ⟨b1, h1, w1⟩ := h.buf hc key j w b hb
    obtain ⟨b2, h2, w2⟩ := k.buf (h.canon hc) key j w b1 h1
    exact ⟨b2, h2, fun hw => w2 (w1 hw)⟩

/-- An operation that leaves the on-chip stores and the streams alone. -/
theorem blanker_of_eqs {s t : State} (hc : s.Canon → t.Canon) (h1 : t.seedbed = s.seedbed) (h2 : t.sheaf = s.sheaf) (h3 : t.glean = s.glean)
    (h4 : t.streams = s.streams) : Blanker s t :=
  ⟨hc, fun _ a ha => by rw [h1]; exact ha, fun _ a ha => by rw [h2]; exact ha, fun _ a ha => by rw [h3]; exact ha,
    fun _ k j w b hb => ⟨b, by rw [h4]; exact hb, id⟩⟩

/-- Zeros written: what read 0 still does, and so does what was written. -/
theorem read_writeN_zeros {unit : Nat} {m : Memory} (hm : m.wf unit) (a n : Nat) {x : Nat} (h : m.read unit x = 0 ∨ (a ≤ x ∧ x < a + n)) :
    (m.writeN unit a (List.replicate n 0)).read unit x = 0 := by
  by_cases hx : a ≤ x ∧ x < a + n
  · obtain ⟨i, rfl⟩ := Nat.exists_eq_add_of_le hx.1
    rw [Memory.read_writeN_in _ a hm i (by rw [List.length_replicate]; omega), List.getD_replicate _ (by omega)]
  · rw [Memory.read_writeN_out unit _ m (by rw [List.length_replicate]; omega)]
    exact h.resolve_right hx

theorem readN_zeros {unit : Nat} {m : Memory} {a n : Nat} (h : ∀ i, i < n → m.read unit (a + i) = 0) : m.readN unit a n = List.replicate n 0 := by
  refine List.ext_getElem (by simp [Memory.readN]) fun i h1 h2 => ?_
  simp only [Memory.readN, List.getElem_map, List.getElem_range, List.getElem_replicate]
  exact h i (by simpa using h2)

theorem seedWrite_seedbed (s : State) (f n a : Nat) (bs : List Byte) :
    (s.seedWrite f n a bs).seedbed = s.seedbed.writeN unit64K (furKey f n * seedSize + a) bs := rfl

theorem sheafWrite_sheaf (s : State) (f a : Nat) (bs : List Byte) :
    (s.sheafWrite f a bs).sheaf = s.sheaf.writeN unit64K (f * sheafSize + a) bs := rfl

theorem gleanSet_glean (s : State) (f n e : Nat) (x : Word32 × Word32) : (s.gleanSet f n e x).glean =
    s.glean.writeN gleanUnit (furKey f n * gleanSize + 8 * e) (leBytes 4 x.1.toNat ++ leBytes 4 x.2.toNat) := rfl

theorem seedWrite_rest (s : State) (f n a : Nat) (bs : List Byte) : (s.seedWrite f n a bs).sheaf = s.sheaf ∧
    (s.seedWrite f n a bs).glean = s.glean ∧ (s.seedWrite f n a bs).streams = s.streams := ⟨rfl, rfl, rfl⟩

theorem sheafWrite_rest (s : State) (f a : Nat) (bs : List Byte) : (s.sheafWrite f a bs).seedbed = s.seedbed ∧
    (s.sheafWrite f a bs).glean = s.glean ∧ (s.sheafWrite f a bs).streams = s.streams := ⟨rfl, rfl, rfl⟩

theorem gleanSet_rest (s : State) (f n e : Nat) (x : Word32 × Word32) : (s.gleanSet f n e x).seedbed = s.seedbed ∧
    (s.gleanSet f n e x).sheaf = s.sheaf ∧ (s.gleanSet f n e x).streams = s.streams := ⟨rfl, rfl, rfl⟩

theorem seedWrite_signals (s : State) (f n a : Nat) (bs : List Byte) : (s.seedWrite f n a bs).regs = s.regs ∧
    (s.seedWrite f n a bs).pairs = s.pairs ∧ (s.seedWrite f n a bs).fences = s.fences := ⟨rfl, rfl, rfl⟩

theorem sheafWrite_signals (s : State) (f a : Nat) (bs : List Byte) : (s.sheafWrite f a bs).regs = s.regs ∧
    (s.sheafWrite f a bs).pairs = s.pairs ∧ (s.sheafWrite f a bs).fences = s.fences := ⟨rfl, rfl, rfl⟩

theorem gleanSet_signals (s : State) (f n e : Nat) (x : Word32 × Word32) : (s.gleanSet f n e x).regs = s.regs ∧
    (s.gleanSet f n e x).pairs = s.pairs ∧ (s.gleanSet f n e x).fences = s.fences := ⟨rfl, rfl, rfl⟩

theorem blanker_seedWrite (s : State) (f n w : Nat) : Blanker s (s.seedWrite f n w (List.replicate 8 0)) := by
  have hk := State.seedWrite_keeps (.refl s) f n w (List.replicate 8 0)
  have hm := seedWrite_seedbed s f n w (List.replicate 8 0)
  obtain ⟨h1, h2, h3⟩ := seedWrite_rest s f n w (List.replicate 8 0)
  generalize s.seedWrite f n w (List.replicate 8 0) = t at hk hm h1 h2 h3
  exact { canon := hk.canon, seed := fun hc a ha => (congrArg (fun m : Memory => m.read unit64K a) hm).trans (read_writeN_zeros hc.seedbed _ 8 (.inl ha)), sheaf := fun _ a ha => by rw [h1]; exact ha,
          glean := fun _ a ha => by rw [h2]; exact ha, buf := fun _ k j v b hb => ⟨b, by rw [h3]; exact hb, id⟩ }

theorem blanker_sheafWrite (s : State) (f w : Nat) : Blanker s (s.sheafWrite f w (List.replicate 8 0)) := by
  have hk := State.sheafWrite_keeps (.refl s) f w (List.replicate 8 0)
  have hm := sheafWrite_sheaf s f w (List.replicate 8 0)
  obtain ⟨h1, h2, h3⟩ := sheafWrite_rest s f w (List.replicate 8 0)
  generalize s.sheafWrite f w (List.replicate 8 0) = t at hk hm h1 h2 h3
  exact { canon := hk.canon, seed := fun _ a ha => by rw [h1]; exact ha, sheaf := fun hc a ha => (congrArg (fun m : Memory => m.read unit64K a) hm).trans (read_writeN_zeros hc.sheaf _ 8 (.inl ha)),
          glean := fun _ a ha => by rw [h2]; exact ha, buf := fun _ k j v b hb => ⟨b, by rw [h3]; exact hb, id⟩ }

theorem gleanSet_zero (s : State) (f n w : Nat) :
    (s.gleanSet f n w (0, 0)).glean = s.glean.writeN gleanUnit (furKey f n * gleanSize + 8 * w) (List.replicate 8 0) := by
  have h : leBytes 4 (0#32).toNat ++ leBytes 4 (0#32).toNat = List.replicate 8 (0 : Byte) := by decide
  exact (gleanSet_glean s f n w (0, 0)).trans (congrArg (s.glean.writeN gleanUnit (furKey f n * gleanSize + 8 * w)) h)

theorem blanker_gleanSet (s : State) (f n w : Nat) : Blanker s (s.gleanSet f n w (0, 0)) := by
  have hk := State.gleanSet_keeps (.refl s) f n w (0, 0)
  have hm := gleanSet_zero s f n w
  obtain ⟨h1, h2, h3⟩ := gleanSet_rest s f n w (0, 0)
  generalize s.gleanSet f n w (0, 0) = t at hk hm h1 h2 h3
  exact { canon := hk.canon, seed := fun _ a ha => by rw [h1]; exact ha, sheaf := fun _ a ha => by rw [h2]; exact ha,
          glean := fun hc a ha => (congrArg (fun m : Memory => m.read gleanUnit a) hm).trans (read_writeN_zeros hc.glean _ 8 (.inl ha)), buf := fun _ k j v b hb => ⟨b, by rw [h3]; exact hb, id⟩ }

/-- The bits of the half that is not lost. -/
theorem bit_halfLost (w : Nat) (x : InstrWord) {i : Nat} (hi : i < 128) :
    (halfLost w x).getLsbD i = (decide (64 ≤ i ↔ w % 2 = 0) && x.getLsbD i) := by
  unfold halfLost
  split
  next h =>
    by_cases h64 : 64 ≤ i
    · simp [h, h64, hi, Nat.not_lt.mpr h64]
    · simp [h, h64, Nat.lt_of_not_le h64]
  next h =>
    by_cases h64 : 64 ≤ i
    · simp [h, h64]
    · simp [h, h64, hi, Nat.lt_of_not_le h64]

/-- A half that reads 0 is lost at most once, whichever was lost before. -/
theorem halfLost_comm (w v : Nat) (x : InstrWord) : halfLost w (halfLost v x) = halfLost v (halfLost w x) := by
  refine BitVec.eq_of_getLsbD_eq fun i hi => ?_
  rw [bit_halfLost _ _ hi, bit_halfLost _ _ hi, bit_halfLost _ _ hi, bit_halfLost _ _ hi, Bool.and_left_comm]

theorem halfLost_idem (w : Nat) (x : InstrWord) : halfLost w (halfLost w x) = halfLost w x := by
  refine BitVec.eq_of_getLsbD_eq fun i hi => ?_
  rw [bit_halfLost _ _ hi, bit_halfLost _ _ hi, ← Bool.and_assoc, Bool.and_self]

/-- R110: one half of an instruction in a stream's buffer is lost. -/
def State.halfGone (s : State) (i : StreamId) (w : Nat) (b : InstrWord) : State :=
  let x := s.strm i.field i.furrow i.ctx i.strm
  s.setStrm i.field i.furrow i.ctx i.strm { x with buf := x.buf.set (w / 2) (some (halfLost w b)) }

theorem halfGone_signals (s : State) (i : StreamId) (w : Nat) (b : InstrWord) : (s.halfGone i w b).regs = s.regs ∧
    (s.halfGone i w b).pairs = s.pairs ∧ (s.halfGone i w b).fences = s.fences := ⟨rfl, rfl, rfl⟩

theorem buf_halfGone {s : State} (hc : s.Canon) (i : StreamId) (w : Nat) (b : InstrWord) :
    ((s.halfGone i w b).strm i.field i.furrow i.ctx i.strm).buf = (s.strm i.field i.furrow i.ctx i.strm).buf.set (w / 2) (some (halfLost w b)) :=
  congrArg StreamSt.buf (sgetD_sputD_self hc.streams _ _ _)

theorem blanker_halfGone (s : State) {i : StreamId} {w : Nat} {b : InstrWord}
    (hb : (s.strm i.field i.furrow i.ctx i.strm).buf[w / 2]? = some (some b)) : Blanker s (s.halfGone i w b) where
  canon hc := (State.setStrm_keeps (.refl s) _ _ _ _ _).canon hc
  seed _ _ ha := ha
  sheaf _ _ ha := ha
  glean _ _ ha := ha
  buf hc k j v x hx := by
    by_cases hk : k = strmKey i.field i.furrow i.ctx i.strm
    · subst hk
      have hbuf := buf_halfGone hc i w b
      by_cases hj : j = w / 2
      · subst hj
        obtain rfl : b = x := Option.some.inj (Option.some.inj (hb.symm.trans hx))
        refine ⟨halfLost w b, ?_, fun hv => by rw [halfLost_comm, hv]⟩
        exact (congrArg (·[w / 2]?) hbuf).trans (List.getElem?_set_self (List.getElem?_eq_some_iff.mp hb).1)
      · exact ⟨x, (congrArg (·[j]?) hbuf).trans ((List.getElem?_set_ne (Ne.symm hj)).trans hx), id⟩
    · exact ⟨x, (congrArg (fun y : StreamSt => y.buf[j]?) (sgetD_sputD_ne s.streams _ _ hk)).trans hx, id⟩

/-! ### The reports of a find -/

/-- R169: a lost word is reported against context `c`, whose step it blocks. -/
def State.lostReport (s : State) (page b c : Nat) : State := (s.raiseFor page b (some c)).blockCause c 1

theorem lostReport_shows {s : State} (hs : Store.Sorted s.regs) {page b c : Nat} (hp : page % 0x1000 = 0) (hb : b < 32) (hc : c < 64) :
    ((s.lostReport page b c).rf (R.ERR_STAT_STAT page)).testBit b = true ∧
      (s.InStep c → ((s.lostReport page b c).rf (R.CMT_CSTAT_BLOCK c)).testBit 1 = true) := by
  have hr := sorted_raiseFor hs page b (some c)
  refine ⟨(louder_blockCause _ hc 1).bits hr _ b (.stat page hp rfl) (raiseFor_raised hs page hb (some c)), fun hstep => ?_⟩
  exact (inStep_blockCause hr ((apart_raiseFor s hp b (some c)).step c hc hs hstep) (by decide)).2

/-- What every find keeps. -/
structure Progress (s t : State) : Prop where
  onward : Onward s t
  apart : Apart s t
  blanker : Blanker s t

theorem Progress.refl (s : State) : Progress s s := ⟨.refl s, .refl s, .refl s⟩

theorem Progress.trans {s t u : State} (h : Progress s t) (k : Progress t u) : Progress s u :=
  ⟨h.onward.trans k.onward, h.apart.trans k.apart, h.blanker.trans k.blanker⟩

theorem Progress.ite {s t u : State} {c : Prop} [Decidable c] (h1 : Progress s t) (h2 : Progress s u) : Progress s (if c then t else u) := by
  split
  · exact h1
  · exact h2

/-- An operation of which only the registers, the pairs, the fences, the ports and messages are affected. -/
theorem progress_of_same {s t : State} (ho : Onward s t) (ha : Apart s t) (hk : Keeps s t) (h : Same 287762818056 s t) : Progress s t :=
  ⟨ho, ha, blanker_of_eqs hk.canon (h.seedbed.resolve_left (by decide)) (h.sheaf.resolve_left (by decide)) (h.glean.resolve_left (by decide))
    (h.streams.resolve_left (by decide))⟩

theorem progress_raiseSrc (s : State) {page : Nat} (hp : page % 0x1000 = 0) (b : Nat) : Progress s (s.raiseSrc page b) :=
  progress_of_same (onward_raiseSrc s hp b) (apart_raiseSrc s hp b) (State.raiseSrc_keeps (.refl s) _ _) (State.raiseSrc_same (.refl _ s) rfl _ _)

theorem progress_raiseCond (s : State) {page : Nat} (hp : page % 0x1000 = 0) (b : Nat) : Progress s (s.raiseCond page b) :=
  progress_of_same (onward_raiseCond s hp b) (apart_raiseCond s hp b) (State.raiseCond_keeps (.refl s) _ _) (State.raiseCond_same (.refl _ s) rfl _ _)

theorem progress_fenceField (s : State) {f : Nat} (hf : f < 4) : Progress s (s.fenceField f) :=
  progress_of_same (onward_fenceField s hf) (apart_fenceField s hf) (State.fenceField_keeps (.refl s) f) (State.fenceField_same (.refl _ s) rfl f)

theorem progress_deviceFatal (s : State) : Progress s s.deviceFatal :=
  progress_of_same (onward_deviceFatal s) (apart_deviceFatal s) (State.deviceFatal_keeps (.refl s)) (State.deviceFatal_same (.refl _ s) rfl)

theorem progress_lostReport (s : State) {page : Nat} (hp : page % 0x1000 = 0) (b : Nat) {c : Nat} (hc : c < 64) : Progress s (s.lostReport page b c) :=
  progress_of_same ((onward_raiseFor s hp b (some c)).trans (onward_blockCause _ hc 1)) ((apart_raiseFor s hp b (some c)).trans (apart_blockCause _ hc 1))
    (State.blockCause_keeps (State.raiseFor_keeps (.refl s) _ _ _) _ _) (State.blockCause_same (State.raiseFor_same (.refl _ s) rfl _ _ _) rfl _ _)

theorem progress_zeros {s t : State} (h : t.regs = s.regs ∧ t.pairs = s.pairs ∧ t.fences = s.fences) (hb : Blanker s t) : Progress s t :=
  ⟨onward_of_eqs h.1 h.2.1 h.2.2, apart_of_regs h.1, hb⟩

/-! ### One find -/

theorem wordsLost_one (s : State) (page b c w : Nat) (zero : State → Nat → State) : s.wordsLost page b c [w] zero = (zero s w).lostReport page b c := rfl

theorem wordsLost_nil (s : State) (page b c : Nat) (zero : State → Nat → State) : s.wordsLost page b c [] zero = s := rfl

theorem seedLost_one (s : State) (f n c B Q w : Nat) : s.seedLost f n c [(B, Q)] [w] =
    if B ≤ 8 * w ∧ 8 * w < B + Q then (s.seedWrite f n (8 * w) (List.replicate 8 0)).lostReport (Page.furrowBase f n) 4 c else s := by
  unfold State.seedLost
  by_cases h : B ≤ 8 * w ∧ 8 * w < B + Q
  · rw [if_pos h, List.filter_cons_of_pos (by simpa using h)]
    exact wordsLost_one s _ _ _ _ _
  · rw [if_neg h, List.filter_cons_of_neg (by simpa using h)]
    exact wordsLost_nil s _ _ _ _

theorem sheafLost_one (s : State) (f c B Q w : Nat) : s.sheafLost f c [(B, Q)] [w] =
    if B ≤ 8 * w ∧ 8 * w < B + Q then (s.sheafWrite f (8 * w) (List.replicate 8 0)).lostReport (Page.fieldBase f) 1 c else s := by
  unfold State.sheafLost
  by_cases h : B ≤ 8 * w ∧ 8 * w < B + Q
  · rw [if_pos h, List.filter_cons_of_pos (by simpa using h)]
    exact wordsLost_one s _ _ _ _ _
  · rw [if_neg h, List.filter_cons_of_neg (by simpa using h)]
    exact wordsLost_nil s _ _ _ _

theorem gleanLost_eq (s : State) (f n c w : Nat) : s.gleanLost f n c w =
    if 4096 * s.rf (R.FLD_GLQ_BASE c f) ≤ w ∧ w < 4096 * s.rf (R.FLD_GLQ_BASE c f) + 4096 * s.rf (R.FLD_GLQ_SIZE c f) then
      (s.gleanSet f n w (0, 0)).lostReport (Page.furrowBase f n) 4 c else s := by
  unfold State.gleanLost
  by_cases h : 4096 * s.rf (R.FLD_GLQ_BASE c f) ≤ w ∧ w < 4096 * s.rf (R.FLD_GLQ_BASE c f) + 4096 * s.rf (R.FLD_GLQ_SIZE c f)
  · rw [if_pos h, if_pos (by simpa using h)]
    exact wordsLost_one s _ _ _ _ _
  · rw [if_neg h, if_neg (by simpa using h)]

theorem bufferLost_some {s : State} {i : StreamId} {w : Nat} {b : InstrWord} (h : (s.strm i.field i.furrow i.ctx i.strm).buf[w / 2]? = some (some b)) :
    s.bufferLost i w = (s.halfGone i w b).lostReport (Page.furrowBase i.field i.furrow) 4 i.ctx := by
  unfold State.bufferLost
  rw [h]
  exact wordsLost_one s _ _ _ _ _

theorem bufferLost_none {s : State} {i : StreamId} {w : Nat} (h : ¬ ∃ b, (s.strm i.field i.furrow i.ctx i.strm).buf[w / 2]? = some (some b)) :
    s.bufferLost i w = s := by
  unfold State.bufferLost
  split
  next b hb => exact (h ⟨b, hb⟩).elim
  next => rfl

theorem furrow_mod (f n : Nat) : Page.furrowBase f n % 0x1000 = 0 := by
  unfold Page.furrowBase Page.fieldBase
  omega

theorem field_mod (f : Nat) : Page.fieldBase f % 0x1000 = 0 := by
  unfold Page.fieldBase
  omega

theorem progress_chipFound (s : State) (x : ChipFind) : Progress s (s.chipFound x) := by
  cases x with
  | furrowStore f n => exact progress_raiseSrc s (furrow_mod _ _) 3
  | sheafStore f => exact progress_raiseSrc s (field_mod _) 0
  | ringRetried f => exact progress_raiseSrc s (field_mod _) 2
  | ringFailed f => exact (progress_raiseCond s (field_mod _) 3).trans (progress_fenceField _ f.isLt)
  | steadingStore => exact progress_raiseSrc s rfl 0
  | steadingLost => exact (progress_raiseSrc s rfl 1).trans (progress_deviceFatal _)
  | seedWord f n c w =>
    show Progress s (s.seedLost f n c [(s.seedBase f c, s.seedQuota f c)] [w])
    rw [seedLost_one]
    exact ((progress_zeros (seedWrite_signals s f n (8 * w) (List.replicate 8 0)) (blanker_seedWrite s f n (8 * w))).trans (progress_lostReport _ (furrow_mod _ _) 4 c.isLt)).ite (.refl s)
  | sheafWord f c w =>
    show Progress s (s.sheafLost f c [(s.sheafBase f c, s.sheafShare f c)] [w])
    rw [sheafLost_one]
    exact ((progress_zeros (sheafWrite_signals s f (8 * w) (List.replicate 8 0)) (blanker_sheafWrite s f (8 * w))).trans (progress_lostReport _ (field_mod _) 1 c.isLt)).ite (.refl s)
  | gleanWord f n c w =>
    show Progress s (s.gleanLost f n c w)
    rw [gleanLost_eq]
    exact ((progress_zeros (gleanSet_signals s f n w (0, 0)) (blanker_gleanSet s f n w)).trans (progress_lostReport _ (furrow_mod _ _) 4 c.isLt)).ite (.refl s)
  | bufferWord i w =>
    show Progress s (s.bufferLost i w)
    by_cases h : ∃ b, (s.strm i.field i.furrow i.ctx i.strm).buf[w / 2]? = some (some b)
    · obtain ⟨b, hb⟩ := h
      rw [bufferLost_some hb]
      exact (progress_zeros (halfGone_signals s i w b) (blanker_halfGone s hb)).trans (progress_lostReport _ (furrow_mod _ _) 4 i.ctx.isLt)
    · rw [bufferLost_none h]
      exact .refl s

theorem progress_chipFinds (finds : List ChipFind) (s : State) : Progress s (finds.foldl State.chipFound s) := by
  induction finds generalizing s with
  | nil => exact .refl s
  | cons x xs ih => exact (progress_chipFound s x).trans (ih _)

/-! ### What a find shows -/

/-- R169: a lost word is reported by source `b` of a page, and blocks the step of context `c` that ran in `s`. -/
def State.Reported (s t : State) (page b c : Nat) : Prop :=
  (t.rf (R.ERR_STAT_STAT page)).testBit b = true ∧ (s.cstate c = stRunning → (t.rf (R.CMT_CSTAT_BLOCK c)).testBit 1 = true)

/-- R169, R394, R395: what a find `x` of a tick that began in `s` has brought about in `t`, byte for byte. -/
def FindHolds (s t : State) (x : ChipFind) : Prop :=
  match x with
  | .furrowStore f n => (t.rf (R.ERR_STAT_STAT (Page.furrowBase f n))).testBit 3 = true
  | .sheafStore f => (t.rf (R.ERR_STAT_STAT (Page.fieldBase f))).testBit 0 = true
  | .ringRetried f => (t.rf (R.ERR_STAT_STAT (Page.fieldBase f))).testBit 2 = true
  | .ringFailed f => t.isFenced (.field f) = true ∧ (t.pair (pairKey (Page.fieldBase f) 3)).cond = true
  | .steadingStore => (t.rf (R.ERR_STAT_STAT Page.steadingBase)).testBit 0 = true
  | .steadingLost => t.flag R.FCOL_STAT_DEVFATAL = true
  | .seedWord f n c w => s.seedBase f c ≤ 8 * w → 8 * w < s.seedBase f c + s.seedQuota f c →
    (∀ i, i < 8 → t.seedbed.read unit64K (furKey f n * seedSize + 8 * w + i) = 0) ∧ s.Reported t (Page.furrowBase f n) 4 c
  | .sheafWord f c w => s.sheafBase f c ≤ 8 * w → 8 * w < s.sheafBase f c + s.sheafShare f c →
    (∀ i, i < 8 → t.sheaf.read unit64K (f * sheafSize + 8 * w + i) = 0) ∧ s.Reported t (Page.fieldBase f) 1 c
  | .gleanWord f n c w => 4096 * s.rf (R.FLD_GLQ_BASE c f) ≤ w →
    w < 4096 * s.rf (R.FLD_GLQ_BASE c f) + 4096 * s.rf (R.FLD_GLQ_SIZE c f) →
    (∀ i, i < 8 → t.glean.read gleanUnit (furKey f n * gleanSize + 8 * w + i) = 0) ∧ s.Reported t (Page.furrowBase f n) 4 c
  | .bufferWord i w => ∀ b, (s.strm i.field i.furrow i.ctx i.strm).buf[w / 2]? = some (some b) →
    (∃ b', (t.strm i.field i.furrow i.ctx i.strm).buf[w / 2]? = some (some b') ∧ halfLost w b' = b') ∧
    s.Reported t (Page.furrowBase i.field i.furrow) 4 i.ctx

theorem noErr_field_cond (f : Nat) : pairKey (Page.fieldBase f) 3 ≠ wireKey := by
  unfold wireKey pairKey Page.fieldBase Page.collectorBase
  omega

theorem calm_context {l : Loc} {c k : Nat} (hl : l.addr = Page.contextBase c + k) (h1 : 0x110 ≤ k) (h2 : k < 0x1000) : l.Calm := by
  have hc : A.FCOL_STAT = 0x20108 := rfl
  constructor <;> rw [hl] <;> (try rw [hc]) <;> unfold Page.contextBase <;> omega

theorem calm_fieldmem {l : Loc} {f k : Nat} (hl : l.addr = Page.fieldmemBase f + k) (h1 : 0x110 ≤ k) (h2 : k < 0x1000) : l.Calm := by
  have hc : A.FCOL_STAT = 0x20108 := rfl
  constructor <;> rw [hl] <;> (try rw [hc]) <;> unfold Page.fieldmemBase Page.fieldBase <;> omega

theorem flag_onward {s t : State} (h : Onward s t) (hs : Store.Sorted s.regs) (hf : s.flag R.FCOL_STAT_DEVFATAL = true) : t.flag R.FCOL_STAT_DEVFATAL = true := by
  have hlt : s.rf R.FCOL_STAT_DEVFATAL < 2 ^ 1 := rf_lt s _
  have h0 : s.rf R.FCOL_STAT_DEVFATAL ≠ 0 := bne_iff_ne.mp hf
  have h1 : s.rf R.FCOL_STAT_DEVFATAL = 1 := by omega
  have hb := h.louder.bits hs R.FCOL_STAT_DEVFATAL 0 (.fatal rfl) (by rw [h1]; rfl)
  refine bne_iff_ne.mpr fun hz => ?_
  rw [hz, Nat.zero_testBit] at hb
  cases hb

/-- A word that is lost in `u`, which the tick has reached from `s`; `v` is `u` with the word's zeros. -/
theorem reported_lost {s u v : State} (hc : s.Canon) (hp : Progress s u) (hv : Progress u v) {page b : Nat} {c : Fin 64} (hpage : page % 0x1000 = 0)
    (hb : b < 32) : s.Reported (v.lostReport page b c) page b c := by
  have hcv := hv.blanker.canon (hp.blanker.canon hc)
  obtain ⟨h1, h2⟩ := lostReport_shows hcv.regs hpage hb c.isLt
  exact ⟨h1, fun h => h2 ((hp.trans hv).apart.step c c.isLt hc.regs (.inl h))⟩

/-- A find made in `u`, which the tick has reached from `s`. -/
theorem chipFound_holds {s u : State} (hc : s.Canon) (hp : Progress s u) (x : ChipFind) : FindHolds s (u.chipFound x) x := by
  have hcu := hp.blanker.canon hc
  have hctx : ∀ (c k : Nat) (l : Loc), l.addr = Page.contextBase c + k → 0x110 ≤ k → k < 0x1000 → u.rf l = s.rf l := fun c k l hl h1 h2 =>
    (hp.apart.spares l (calm_context hl h1 h2)).rf hc.regs
  cases x with
  | furrowStore f n => exact raiseSrc_raised hcu.regs _ (by decide)
  | sheafStore f => exact raiseSrc_raised hcu.regs _ (by decide)
  | ringRetried f => exact raiseSrc_raised hcu.regs _ (by decide)
  | ringFailed f =>
    exact ⟨(isFenced_fenceField _ _).1, (onward_fenceField _ f.isLt).cond ((onward_raiseCond u (field_mod _) 3).pairs hcu.pairs) _
      (noErr_field_cond f) (cond_raiseCond hcu _ _)⟩
  | steadingStore => exact raiseSrc_raised hcu.regs _ (by decide)
  | steadingLost => exact deviceFatal_flag (sorted_raiseSrc hcu.regs _ _)
  | seedWord f n c w =>
    intro h1 h2
    have hb : u.seedBase f c = s.seedBase f c := congrArg (65536 * ·) (hctx c (0x140 + 16 * f) _ (Nat.add_assoc _ _ _) (by omega) (by omega))
    have hq : u.seedQuota f c = s.seedQuota f c := congrArg (65536 * ·) (hctx c (0x140 + 16 * f) _ (Nat.add_assoc _ _ _) (by omega) (by omega))
    have he : u.chipFound (.seedWord f n c w) = (u.seedWrite f n (8 * w) (List.replicate 8 0)).lostReport (Page.furrowBase f n) 4 c :=
      (seedLost_one u f n c _ _ w).trans (if_pos (by rw [hb, hq]; exact ⟨h1, h2⟩))
    have hz := progress_zeros (seedWrite_signals u f n (8 * w) (List.replicate 8 0)) (blanker_seedWrite u f n (8 * w))
    have hm := seedWrite_seedbed u f n (8 * w) (List.replicate 8 0)
    have hrep := reported_lost hc hp hz (furrow_mod f n) (b := 4) (c := c) (by decide)
    rw [he]
    generalize u.seedWrite f n (8 * w) (List.replicate 8 0) = v at hz hm hrep ⊢
    refine ⟨fun i hi => (progress_lostReport v (furrow_mod f n) 4 c.isLt).blanker.seed (hz.blanker.canon hcu) _ ?_, hrep⟩
    exact (congrArg (fun m : Memory => m.read unit64K _) hm).trans (read_writeN_zeros hcu.seedbed _ 8 (.inr (by omega)))
  | sheafWord f c w =>
    intro h1 h2
    have hmem : ∀ l : Loc, l.addr = A.FLD_SHEAF f c → u.rf l = s.rf l := fun l hl =>
      (hp.apart.spares l (calm_fieldmem (k := 0x200 + 4 * c) (hl.trans (Nat.add_assoc _ _ _)) (by omega) (by omega))).rf hc.regs
    have hb : u.sheafBase f c = s.sheafBase f c := congrArg (65536 * ·) (hmem _ rfl)
    have hq : u.sheafShare f c = s.sheafShare f c := congrArg (65536 * ·) (hmem _ rfl)
    have he : u.chipFound (.sheafWord f c w) = (u.sheafWrite f (8 * w) (List.replicate 8 0)).lostReport (Page.fieldBase f) 1 c :=
      (sheafLost_one u f c _ _ w).trans (if_pos (by rw [hb, hq]; exact ⟨h1, h2⟩))
    have hz := progress_zeros (sheafWrite_signals u f (8 * w) (List.replicate 8 0)) (blanker_sheafWrite u f (8 * w))
    have hm := sheafWrite_sheaf u f (8 * w) (List.replicate 8 0)
    have hrep := reported_lost hc hp hz (field_mod f) (b := 1) (c := c) (by decide)
    rw [he]
    generalize u.sheafWrite f (8 * w) (List.replicate 8 0) = v at hz hm hrep ⊢
    refine ⟨fun i hi => (progress_lostReport v (field_mod f) 1 c.isLt).blanker.sheaf (hz.blanker.canon hcu) _ ?_, hrep⟩
    exact (congrArg (fun m : Memory => m.read unit64K _) hm).trans (read_writeN_zeros hcu.sheaf _ 8 (.inr (by omega)))
  | gleanWord f n c w =>
    intro h1 h2
    have hb : u.rf (R.FLD_GLQ_BASE c f) = s.rf (R.FLD_GLQ_BASE c f) := hctx c (0x148 + 16 * f) _ (Nat.add_assoc _ _ _) (by omega) (by omega)
    have hq : u.rf (R.FLD_GLQ_SIZE c f) = s.rf (R.FLD_GLQ_SIZE c f) := hctx c (0x148 + 16 * f) _ (Nat.add_assoc _ _ _) (by omega) (by omega)
    have he : u.chipFound (.gleanWord f n c w) = (u.gleanSet f n w (0, 0)).lostReport (Page.furrowBase f n) 4 c :=
      (gleanLost_eq u f n c w).trans (if_pos (by rw [hb, hq]; exact ⟨h1, h2⟩))
    have hz := progress_zeros (gleanSet_signals u f n w (0, 0)) (blanker_gleanSet u f n w)
    have hm := gleanSet_zero u f n w
    have hrep := reported_lost hc hp hz (furrow_mod f n) (b := 4) (c := c) (by decide)
    rw [he]
    generalize u.gleanSet f n w (0, 0) = v at hz hm hrep ⊢
    refine ⟨fun i hi => (progress_lostReport v (furrow_mod f n) 4 c.isLt).blanker.glean (hz.blanker.canon hcu) _ ?_, hrep⟩
    exact (congrArg (fun m : Memory => m.read gleanUnit _) hm).trans (read_writeN_zeros hcu.glean _ 8 (.inr (by omega)))
  | bufferWord i w =>
    intro b0 hb0
    obtain ⟨b, hb, -⟩ := hp.blanker.buf hc _ _ w b0 hb0
    have he : u.chipFound (.bufferWord i w) = (u.halfGone i w b).lostReport (Page.furrowBase i.field i.furrow) 4 i.ctx := bufferLost_some hb
    have hz := progress_zeros (halfGone_signals u i w b) (blanker_halfGone u hb)
    have hrep := reported_lost hc hp hz (furrow_mod i.field i.furrow) (b := 4) (c := i.ctx) (by decide)
    have hbuf : ((u.halfGone i w b).strm i.field i.furrow i.ctx i.strm).buf[w / 2]? = some (some (halfLost w b)) :=
      (congrArg (·[w / 2]?) (buf_halfGone hcu i w b)).trans (List.getElem?_set_self (List.getElem?_eq_some_iff.mp hb).1)
    rw [he]
    generalize u.halfGone i w b = v at hz hrep hbuf ⊢
    obtain ⟨b', hb', hw⟩ := (progress_lostReport v (furrow_mod i.field i.furrow) 4 i.ctx.isLt).blanker.buf (hz.blanker.canon hcu) _ _ w _ hbuf
    exact ⟨⟨b', hb', hw (halfLost_idem w b)⟩, hrep⟩

theorem State.Reported.onward {s u t : State} {page b : Nat} {c : Fin 64} (h : s.Reported u page b c) (hpage : page % 0x1000 = 0) (ho : Onward u t)
    (hs : Store.Sorted u.regs) : s.Reported t page b c :=
  ⟨ho.louder.bits hs _ _ (.stat page hpage rfl) h.1, fun hr => ho.louder.bits hs _ _ (.block c c.isLt rfl) (h.2 hr)⟩

/-- What a find has brought about stays through the rest of the tick. -/
theorem FindHolds.onward {s u t : State} (hu : u.Canon) (ho : Onward u t) (hb : Blanker u t) {x : ChipFind} (h : FindHolds s u x) : FindHolds s t x := by
  cases x with
  | furrowStore f n => exact ho.louder.bits hu.regs _ _ (.stat _ (furrow_mod f n) rfl) h
  | sheafStore f => exact ho.louder.bits hu.regs _ _ (.stat _ (field_mod f) rfl) h
  | ringRetried f => exact ho.louder.bits hu.regs _ _ (.stat _ (field_mod f) rfl) h
  | ringFailed f => exact ⟨ho.fenced _ h.1, ho.cond hu.pairs _ (noErr_field_cond f) h.2⟩
  | steadingStore => exact ho.louder.bits hu.regs _ _ (.stat _ rfl rfl) h
  | steadingLost => exact flag_onward ho hu.regs h
  | seedWord f n c w =>
    intro h1 h2
    obtain ⟨hz, hr⟩ := h h1 h2
    exact ⟨fun i hi => hb.seed hu _ (hz i hi), hr.onward (furrow_mod f n) ho hu.regs⟩
  | sheafWord f c w =>
    intro h1 h2
    obtain ⟨hz, hr⟩ := h h1 h2
    exact ⟨fun i hi => hb.sheaf hu _ (hz i hi), hr.onward (field_mod f) ho hu.regs⟩
  | gleanWord f n c w =>
    intro h1 h2
    obtain ⟨hz, hr⟩ := h h1 h2
    exact ⟨fun i hi => hb.glean hu _ (hz i hi), hr.onward (furrow_mod f n) ho hu.regs⟩
  | bufferWord i w =>
    intro b0 hb0
    obtain ⟨⟨b, hbb, hw⟩, hr⟩ := h b0 hb0
    obtain ⟨b', hb', hw'⟩ := hb.buf hu _ _ w b hbb
    exact ⟨⟨b', hb', hw' hw⟩, hr.onward (furrow_mod i.field i.furrow) ho hu.regs⟩

/-- Every find of a tick, once all are made. -/
theorem chipFinds_hold {s : State} (hc : s.Canon) (finds : List ChipFind) : ∀ x ∈ finds, FindHolds s (finds.foldl State.chipFound s) x := by
  suffices h : ∀ (l : List ChipFind) (u : State), Progress s u → ∀ x ∈ l, FindHolds s (l.foldl State.chipFound u) x from h finds s (.refl s)
  intro l
  induction l with
  | nil => exact fun _ _ _ hx => (List.not_mem_nil hx).elim
  | cons y l ih =>
    intro u hu x hx
    have hy := hu.trans (progress_chipFound u y)
    rcases List.mem_cons.mp hx with rfl | hx
    · have hrest := progress_chipFinds l (u.chipFound x)
      exact (chipFound_holds hc hu x).onward (hy.blanker.canon hc) hrest.onward hrest.blanker
    · exact ih _ hy x hx

end Sys2Proof.Machine


/-! A tick of the collector: the pairs it samples, the entries it writes and the fences it begins (R391 to R404). -/

namespace Sys2Proof.Machine

/-! ### An entry of the fault log (R400 to R402) -/

/-- R400: the bytes of an entry are kept. -/
def State.logNoted (s : State) (bs : List Byte) : State := { s with
    fcolLog := sput s.fcolLog (s.rf R.FCOL_LOG_WR_SEQ % 64) bs
    mg := { s.mg with logWrapped := s.mg.logWrapped || s.rf R.FCOL_LOG_WR_SEQ == 65535 } }

/-- R400, R401: the bytes of an entry are kept, and the number of entries goes up. -/
def State.logKept (s : State) (bs : List Byte) : State := (s.logNoted bs).wf R.FCOL_LOG_WR_SEQ (s.rf R.FCOL_LOG_WR_SEQ + 1)

theorem logNoted_regs (s : State) (bs : List Byte) : (s.logNoted bs).regs = s.regs := rfl

/-- R402: an unread entry has been overwritten. -/
def State.logOverrun (s : State) : State := ((s.bump R.FCOL_LOG_LOST_COUNT 1).raiseSrc Page.collectorBase 1).fcolEvt 3

/-- R402, R418, R517: what follows the entry. -/
def State.logRest (s : State) (page b : Nat) (k : LogKind) (who : Option Nat) (m : Meas) (bs : List Byte) (unread : Nat) : State :=
  let s := if unread ≥ 64 then s.logOverrun else s
  let s := match k with
    | .event => s.almanac 0 page b who [] m
    | .wire => s.almanac 1 page b none [] m
    | .forced | .test => s
  s.mgEvent 1 bs

theorem logEntry_eq (s : State) (page b : Nat) (k : LogKind) (who : Option Nat) (m : Meas) : s.logEntry page b k who m =
    (s.logKept (s.logBytes page b k m)).logRest page b k who m (s.logBytes page b k m) s.logUnread := rfl

/-- The field is in no register that an entry of the fault log changes, beside `FCOL_LOG_WR`. -/
structure Loc.OffLog (l : Loc) : Prop where
  lost : l.addr ≠ A.FCOL_LOG_LOST
  evt : l.addr ≠ A.FCOL_EVT
  err : l.NoErr Page.collectorBase
  almLost : l.addr ≠ A.ALM_LOST
  almErr : l.NoErr Page.almanacBase
  drop : l.addr ≠ A.STD_MG_EVDROP

theorem Spares.mgEvent {l : Loc} {s0 s : State} (hk : Spares l s0 s) (h : l.addr ≠ A.STD_MG_EVDROP) (kind : Nat) (rest : List Byte) :
    Spares l s0 (s.mgEvent kind rest) := (hk.mgEventOn h 0 kind rest).mgEventOn h 1 kind rest

theorem Spares.logOverrun {l : Loc} {s0 s : State} (hk : Spares l s0 s) (h : l.OffLog) : Spares l s0 s.logOverrun :=
  ((hk.bump (m := R.FCOL_LOG_LOST_COUNT) h.lost 1).raiseSrc h.err 1).fcolEvt h.evt 3

theorem Spares.logRest {l : Loc} {s0 s : State} (hk : Spares l s0 s) (h : l.OffLog) (page b : Nat) (k : LogKind) (who : Option Nat) (m : Meas)
    (bs : List Byte) (unread : Nat) : Spares l s0 (s.logRest page b k who m bs unread) := by
  have h1 : Spares l s0 (if unread ≥ 64 then s.logOverrun else s) := (hk.logOverrun h).ite hk
  unfold State.logRest
  dsimp only
  refine Spares.mgEvent ?_ h.drop 1 bs
  cases k with
  | event => exact h1.almanacNear h.almLost h.almErr _ _ _ _ _ _
  | wire => exact h1.almanacNear h.almLost h.almErr _ _ _ _ _ _
  | forced => exact h1
  | test => exact h1

theorem Spares.logKept {l : Loc} {s0 s : State} (hk : Spares l s0 s) (h : l.addr ≠ A.FCOL_LOG_WR) (bs : List Byte) : Spares l s0 (s.logKept bs) :=
  (hk.then_regs (logNoted_regs s bs)).wf_far (m := R.FCOL_LOG_WR_SEQ) h _

theorem Spares.logEntry {l : Loc} {s0 s : State} (hk : Spares l s0 s) (h : l.OffLog) (hw : l.addr ≠ A.FCOL_LOG_WR) (page b : Nat) (k : LogKind)
    (who : Option Nat) (m : Meas) : Spares l s0 (s.logEntry page b k who m) := by
  rw [logEntry_eq]
  exact (hk.logKept hw _).logRest h _ _ _ _ _ _ _

/-- The registers of the collector's page from 0x100 up, but for its events, its losses and its entries. -/
theorem offLog_collector {l : Loc} {k : Nat} (hl : l.addr = Page.collectorBase + k) (h1 : 0x28 ≤ k) (h2 : k < 0x1000) (h3 : k ≠ 0x12c) (h4 : k ≠ 0x11c) :
    l.OffLog := by
  constructor
  · rw [hl]; unfold A.FCOL_LOG_LOST; omega
  · rw [hl]; unfold A.FCOL_EVT; omega
  · exact Loc.noErr_of_page (.inr (by omega))
  · rw [hl]; unfold A.ALM_LOST Page.collectorBase Page.almanacBase; omega
  · exact Loc.noErr_of_page (.inl (by rw [hl]; unfold Page.collectorBase Page.almanacBase; omega))
  · rw [hl]; unfold A.STD_MG_EVDROP Page.collectorBase Page.mgmtBase; omega

theorem offLog_sev {page : Nat} (hp : page % 0x1000 = 0) : (R.ERR_SEV_SEV page).OffLog := by
  constructor
  · show page + 0x1c ≠ 0x2012c; omega
  · show page + 0x1c ≠ 0x2011c; omega
  · unfold Loc.NoErr A.ERR_STAT A.ERR_CNT A.ERR_FIRST R.ERR_SEV_SEV A.ERR_SEV Page.collectorBase; dsimp only; omega
  · show page + 0x1c ≠ 0x30108; omega
  · unfold Loc.NoErr A.ERR_STAT A.ERR_CNT A.ERR_FIRST R.ERR_SEV_SEV A.ERR_SEV Page.almanacBase; dsimp only; omega
  · show page + 0x1c ≠ 0x5e114; omega

theorem logRest_same {M : Nat} {s0 s : State} (hk : Same M s0 s) (hM : 1178685054919688 ||| M = M) (page b : Nat) (k : LogKind) (who : Option Nat) (m : Meas)
    (bs : List Byte) (unread : Nat) : Same M s0 (s.logRest page b k who m bs unread) := by
  have h1 : Same M s0 (if unread ≥ 64 then s.logOverrun else s) :=
    ite_same (State.fcolEvt_same (State.raiseSrc_same (State.bump_same hk (sub_sub (by decide) hM) _ _) (sub_sub (by decide) hM) _ _)
      (sub_sub (by decide) hM) 3) hk
  unfold State.logRest
  dsimp only
  refine State.mgEvent_same ?_ (sub_sub (by decide) hM) 1 bs
  cases k with
  | event => exact State.almanac_same h1 (sub_sub (by decide) hM) _ _ _ _ _ _
  | wire => exact State.almanac_same h1 (sub_sub (by decide) hM) _ _ _ _ _ _
  | forced => exact h1
  | test => exact h1

/-- R401: the number of entries written, and the entry. -/
theorem logEntry_shows {s : State} (hs : Store.Sorted s.regs) (page b : Nat) (k : LogKind) (who : Option Nat) (m : Meas) :
    (s.logEntry page b k who m).rf R.FCOL_LOG_WR_SEQ = (s.rf R.FCOL_LOG_WR_SEQ + 1) % 2 ^ 16 ∧
      (s.logEntry page b k who m).fcolLog = sput s.fcolLog (s.rf R.FCOL_LOG_WR_SEQ % 64) (s.logBytes page b k m) := by
  have hoff : R.FCOL_LOG_WR_SEQ.OffLog := offLog_collector (k := 0x124) rfl (by decide) (by decide) (by decide) (by decide)
  have h1 : (s.logKept (s.logBytes page b k m)).rf R.FCOL_LOG_WR_SEQ = (s.rf R.FCOL_LOG_WR_SEQ + 1) % 2 ^ 16 :=
    rf_wf_self (l := R.FCOL_LOG_WR_SEQ) (s := s.logNoted _) hs (by decide) _
  have h2 : (s.logKept (s.logBytes page b k m)).fcolLog = sput s.fcolLog (s.rf R.FCOL_LOG_WR_SEQ % 64) (s.logBytes page b k m) := rfl
  have hs1 : Store.Sorted (s.logKept (s.logBytes page b k m)).regs := ((Spares.refl ⟨0, 0, 0⟩ s).logKept (by decide) _).sorted hs
  rw [logEntry_eq]
  generalize s.logKept (s.logBytes page b k m) = u at h1 h2 hs1
  exact ⟨(((Spares.refl _ u).logRest hoff _ _ _ _ _ _ _).rf hs1).trans h1,
    ((logRest_same (.refl 1178685054919688 u) rfl _ _ _ _ _ _ _).fcolLog.resolve_left (by decide)).trans h2⟩

/-! ### What the tick's own steps never take back -/

theorem onward_wf (s : State) {m : Loc} (h1 : m.addr % 0x1000 ≠ 0x10) (h2 : m.addr < 0x70800 ∨ 0x71000 ≤ m.addr) (h3 : m.addr ≠ A.FCOL_STAT)
    (v : Nat) : Onward s (s.wf m v) := (louder_wf h1 h2 h3 v).onward (pairs_wf s m v) (fences_wf s m v)

/-- Writes into `FCOL_STAT` beside `DEVFATAL`. -/
theorem onward_wf_stat (s : State) {m : Loc} (hm : m.Fits) (ha : m.addr = A.FCOL_STAT) (hlo : m.lo ≠ 1) (hw : m.wid = 1) (v : Nat) :
    Onward s (s.wf m v) := by
  refine Louder.onward (louder_of_spares fun l hl => (Spares.refl l s).wf hm ?_ v) (pairs_wf s m v) (fences_wf s m v)
  cases hl with
  | stat q hq he => subst he; refine .inl ?_; rw [ha]; show q + 0x10 ≠ 0x20108; omega
  | block c hc he => subst he; have := cstat_range hc; refine .inl ?_; rw [ha]; show A.CMT_CSTAT c ≠ 0x20108; omega
  | fatal he =>
    subst he
    refine .inr ?_
    show 1 + 1 ≤ m.lo ∨ m.lo + m.wid ≤ 1
    omega

theorem onward_fcolEvt (s : State) (b : Nat) : Onward s (s.fcolEvt b) := by
  have hm := State.fcolEvt_same (.refl 9224 s) rfl b
  refine Louder.onward (louder_of_spares fun l hl => (Spares.refl l s).fcolEvt (hl.ne (by decide) (by decide) (by decide)) b)
    (hm.pairs.resolve_left (by decide)) (hm.fences.resolve_left (by decide))

theorem onward_mgEvent (s : State) (kind : Nat) (rest : List Byte) : Onward s (s.mgEvent kind rest) := by
  have hm := State.mgEvent_same (.refl 1125899906842632 s) rfl kind rest
  refine Louder.onward (louder_of_spares fun l hl => (Spares.refl l s).mgEvent (hl.ne (by decide) (by decide) (by decide)) kind rest)
    (hm.pairs.resolve_left (by decide)) (hm.fences.resolve_left (by decide))

theorem onward_almanac (s : State) (event page b : Nat) (who : Option Nat) (detail : List Byte) (m : Meas) :
    Onward s (s.almanac event page b who detail m) := by
  have hlose : Onward s s.almLose := onward_wf s (by decide) (by decide) (by decide) _
  unfold State.almanac
  dsimp only
  split
  · exact hlose.trans (onward_of_eqs rfl rfl rfl)
  · split
    · exact onward_of_eqs rfl rfl rfl
    · split
      · exact (hlose.trans (onward_raiseSrc _ rfl 1)).trans (onward_of_eqs rfl rfl rfl)
      · exact onward_of_eqs rfl rfl rfl

theorem onward_logEntry (s : State) (page b : Nat) (k : LogKind) (who : Option Nat) (m : Meas) : Onward s (s.logEntry page b k who m) := by
  rw [logEntry_eq]
  have hkept : ∀ bs, Onward s (s.logKept bs) := fun bs =>
    (onward_of_eqs (logNoted_regs s bs) rfl rfl).trans (onward_wf _ (by decide) (by decide) (by decide) _)
  refine (hkept (s.logBytes page b k m)).trans ?_
  generalize s.logKept (s.logBytes page b k m) = u
  have h1 : Onward u (if s.logUnread ≥ 64 then u.logOverrun else u) :=
    ((onward_wf u (by decide) (by decide) (by decide) _).trans ((onward_raiseSrc _ rfl 1).trans (onward_fcolEvt _ 3))).ite (.refl u)
  unfold State.logRest
  dsimp only
  refine Onward.trans ?_ (onward_mgEvent _ 1 _)
  cases k with
  | event => exact h1.trans (onward_almanac _ _ _ _ _ _ _)
  | wire => exact h1.trans (onward_almanac _ _ _ _ _ _ _)
  | forced => exact h1
  | test => exact h1

/-- The fields and ports of the map. -/
def Page.Within : Page → Prop
  | .furrow f _ | .field f | .hbm f _ | .colleng f => f < 4
  | .port p => p < 8
  | _ => True

theorem within_fieldPageAt {f i : Nat} (hf : f < 4) {p : Page} (h : fieldPageAt f i = some p) : p.Within := by
  unfold fieldPageAt at h
  split_ifs at h
  all_goals
    obtain rfl := Option.some.inj h
    simp only [Page.Within]
    try omega

theorem within_pageAt {a : Nat} {p : Page} (h : pageAt a = some p) : p.Within := by
  unfold pageAt at h
  dsimp only at h
  split_ifs at h
  · obtain rfl := Option.some.inj h
    trivial
  · exact within_fieldPageAt (by omega) h
  · obtain rfl := Option.some.inj h
    trivial
  · obtain rfl := Option.some.inj h
    trivial
  · obtain rfl := Option.some.inj h
    trivial
  · split at h
    all_goals cases h
    all_goals trivial

/-- R392: the fence under a WIRE. -/
theorem onward_fenceWire (s : State) (page : Nat) : Onward s (s.fenceWire page) := by
  unfold State.fenceWire
  split
  next f n hp => exact onward_fenceField s (within_pageAt hp)
  next f hp => exact onward_fenceField s (within_pageAt hp)
  next f m hp => exact onward_fenceField s (within_pageAt hp)
  next f hp => exact onward_fenceField s (within_pageAt hp)
  next p hp => exact onward_fencePort s (within_pageAt hp)
  next => exact onward_deviceFatal s

theorem Spares.fenceWire {l : Loc} {s0 s : State} (hk : Spares l s0 s) (h : l.Calm) (page : Nat) : Spares l s0 (s.fenceWire page) := by
  unfold State.fenceWire
  split
  next f n hp => exact hk.fenceField_calm h (within_pageAt hp)
  next f hp => exact hk.fenceField_calm h (within_pageAt hp)
  next f m hp => exact hk.fenceField_calm h (within_pageAt hp)
  next f hp => exact hk.fenceField_calm h (within_pageAt hp)
  next p hp => exact hk.fencePort_calm h (within_pageAt hp)
  next => exact hk.deviceFatal_calm h

/-- R392: the domain of a page is fenced: its field, its port, or the whole device. -/
def State.PageFenced (t : State) (page : Nat) : Prop :=
  match pageAt page with
  | some (.furrow f _) | some (.field f) | some (.hbm f _) | some (.colleng f) => t.isFenced (.field f) = true
  | some (.port p) => t.isFenced (.port p) = true
  | _ => t.flag R.FCOL_STAT_DEVFATAL = true

theorem fenceWire_fenced {s : State} (hs : Store.Sorted s.regs) (page : Nat) : (s.fenceWire page).PageFenced page := by
  have hw : s.fenceWire page = match pageAt page with
      | some (.furrow f _) | some (.field f) | some (.hbm f _) | some (.colleng f) => s.fenceField f
      | some (.port p) => s.fencePort p
      | _ => s.deviceFatal := rfl
  unfold State.PageFenced
  generalize s.fenceWire page = t at hw
  split
  next f n hp => rw [hw, hp]; exact (isFenced_fenceField s f).1
  next f hp => rw [hw, hp]; exact (isFenced_fenceField s f).1
  next f m hp => rw [hw, hp]; exact (isFenced_fenceField s f).1
  next f hp => rw [hw, hp]; exact (isFenced_fenceField s f).1
  next p hp =>
    rw [hw, hp]
    exact (isFenced_fencePort s p _).trans (by rw [beq_self_eq_true, Bool.or_true])
  next h1 h2 h3 h4 h5 =>
    split at hw
    next f n hp => exact (h1 f n hp).elim
    next f hp => exact (h2 f hp).elim
    next f m hp => exact (h3 f m hp).elim
    next f hp => exact (h4 f hp).elim
    next p hp => exact (h5 p hp).elim
    next => rw [hw]; exact deviceFatal_flag hs

theorem State.PageFenced.onward {s t : State} {page : Nat} (h : s.PageFenced page) (ho : Onward s t) (hs : Store.Sorted s.regs) : t.PageFenced page := by
  unfold State.PageFenced at *
  split at h
  · exact ho.fenced _ h
  · exact ho.fenced _ h
  · exact ho.fenced _ h
  · exact ho.fenced _ h
  · exact ho.fenced _ h
  · exact flag_onward ho hs h

/-! ### What one pair's sample brings about -/

/-- R392: the first WIRE is kept. -/
def State.wireNoted (s : State) (x : Sampled) : State :=
  let s := s.bump R.FCOL_WIRE_CNT_COUNT 1
  if s.flag R.FCOL_WIRE_INFO_VALID then s
    else (((s.wf R.FCOL_WIRE_INFO_PAGE (x.key / 32)).wf R.FCOL_WIRE_INFO_BIT (x.key % 32)).wf R.FCOL_WIRE_INFO_TEST
      (bit x.test)).wf R.FCOL_WIRE_INFO_VALID 1

theorem wireBegins_eq (s : State) (x : Sampled) (m : Meas) : s.wireBegins x m =
    if x.test then ((s.wireNoted x).errWords Page.collectorBase 0).logEntry (x.key / 32 * 0x1000) (x.key % 32) .test none m
    else (((s.wireNoted x).condEvent Page.collectorBase 0).logEntry (x.key / 32 * 0x1000) (x.key % 32) .wire none m).fenceWire (x.key / 32 * 0x1000) := rfl

theorem onward_wireNoted (s : State) (x : Sampled) : Onward s (s.wireNoted x) := by
  have h1 : Onward s (s.bump R.FCOL_WIRE_CNT_COUNT 1) := onward_wf s (by decide) (by decide) (by decide) _
  have hw : ∀ (u : State) (l : Loc), l.addr = A.FCOL_WIRE_INFO → ∀ v, Onward u (u.wf l v) := fun u l hl v =>
    onward_wf u (by rw [hl]; decide) (by rw [hl]; decide) (by rw [hl]; decide) v
  unfold State.wireNoted
  dsimp only
  generalize s.bump R.FCOL_WIRE_CNT_COUNT 1 = u at h1
  exact h1.ite (h1.trans ((hw _ _ rfl _).trans ((hw _ _ rfl _).trans ((hw _ _ rfl _).trans (hw _ _ rfl _)))))

theorem Spares.wireNoted {l : Loc} {s0 s : State} (hk : Spares l s0 s) (h1 : l.addr ≠ A.FCOL_WIRE_CNT) (h2 : l.addr ≠ A.FCOL_WIRE_INFO) (x : Sampled) :
    Spares l s0 (s.wireNoted x) := by
  have hb := hk.bump (m := R.FCOL_WIRE_CNT_COUNT) h1 1
  exact hb.ite ((((hb.wf_far (m := R.FCOL_WIRE_INFO_PAGE) h2 _).wf_far (m := R.FCOL_WIRE_INFO_BIT) h2 _).wf_far (m := R.FCOL_WIRE_INFO_TEST) h2 _).wf_far
    (m := R.FCOL_WIRE_INFO_VALID) h2 _)

theorem onward_wireBegins (s : State) (x : Sampled) (m : Meas) : Onward s (s.wireBegins x m) := by
  have h1 := onward_wireNoted s x
  rw [wireBegins_eq]
  generalize s.wireNoted x = u at h1
  refine Onward.ite (h1.trans ((onward_errWords u rfl 0).trans (onward_logEntry _ _ _ _ _ _))) ?_
  exact h1.trans ((onward_condEvent u rfl 0).trans ((onward_logEntry _ _ _ _ _ _).trans (onward_fenceWire _ _)))

theorem onward_newEvent (s : State) (x : Sampled) (m : Meas) : Onward s (s.newEvent x m) := by
  have h1 : Onward s (s.bump R.FCOL_EVENTS_COUNT 1) := onward_wf s (by decide) (by decide) (by decide) _
  have h2 := h1.trans (onward_logEntry (s.bump R.FCOL_EVENTS_COUNT 1) (x.key / 32 * 0x1000) (x.key % 32) (if x.forced then .forced else .event) x.who m)
  unfold State.newEvent
  dsimp only
  generalize (s.bump R.FCOL_EVENTS_COUNT 1).logEntry (x.key / 32 * 0x1000) (x.key % 32) (if x.forced then .forced else .event) x.who m = u at h2
  exact Onward.ite (h2.trans ((onward_wf_stat u (m := R.FCOL_STAT_SEVPEND) (by decide) rfl (by decide) rfl 1).trans (onward_fcolEvt _ 1))) h2

theorem onward_applySample (l : List (Nat × Meas)) (s : State) (x : Sampled) : Onward s (s.applySample l x) := by
  unfold State.applySample
  dsimp only
  have h1 := (onward_wireBegins s x (measOf l (x.key / 32))).ite (c := x.wire = true) (.refl s)
  exact (h1.trans (onward_newEvent _ x _)).ite h1

theorem onward_collectorStep (s : State) (fresh active : Bool) : Onward s (s.collectorStep fresh active) := by
  have hq : ∀ (u : State) v, Onward u (u.wf R.FCOL_QTIME_TICKS v) := fun u v => onward_wf u (by decide) (by decide) (by decide) v
  have hst : ∀ (u : State) v, Onward u (u.wf R.FCOL_STAT_STATE v) := fun u v => onward_wf_stat u (by decide) rfl (by decide) rfl v
  have he : ∀ u : State, Onward u (u.bump R.FCOL_ENTRIES_COUNT 1) := fun u => onward_wf u (by decide) (by decide) (by decide) _
  have hr : ∀ u : State, Onward u (u.bump R.FCOL_RECOVERIES_COUNT 1) := fun u => onward_wf u (by decide) (by decide) (by decide) _
  unfold State.collectorStep
  refine Onward.ite (Onward.ite ?_ (.refl s)) (Onward.ite (hq s 0) ?_)
  · exact (hst s 1).trans ((hq _ 0).trans ((he _).trans (onward_fcolEvt _ 0)))
  · dsimp only
    have h1 := hq s (s.rf R.FCOL_QTIME_TICKS + 1)
    generalize s.wf R.FCOL_QTIME_TICKS (s.rf R.FCOL_QTIME_TICKS + 1) = u at h1
    exact Onward.ite (h1.trans ((hst u 0).trans ((hr _).trans (onward_fcolEvt _ 2)))) h1

/-! ### The entry and the counts of one sample -/

/-- R400: the bytes of an entry. -/
theorem logBytes_says (s : State) (page : Nat) {b : Nat} (hb : b < 32) (k : LogKind) (m : Meas) :
    (s.logBytes page b k m).length = 32 ∧ leAt (s.logBytes page b k m) 0 8 = s.now % 2 ^ 64 ∧
      leAt (s.logBytes page b k m) 8 2 = page / 0x1000 % 2 ^ 16 ∧ leAt (s.logBytes page b k m) 10 1 = b + 32 * k.code := by
  have hcode : b + 32 * k.code < 2 ^ (8 * 1) := by
    cases k <;> simp only [LogKind.code] <;> omega
  unfold State.logBytes
  simp only [List.append_assoc]
  refine ⟨by simp only [List.length_append, length_leBytes], leAt_front _ _ _, ?_, ?_⟩
  · exact (leAt_skip (length_leBytes 8 _) _ 0 2).trans (leAt_front 2 _ _)
  · exact (leAt_skip (length_leBytes 8 _) _ 2 1).trans ((leAt_skip (length_leBytes 2 _) _ 0 1).trans ((leAt_front 1 _ _).trans (Nat.mod_eq_of_lt hcode)))

theorem Spares.collectorStep {l : Loc} {s0 s : State} (hk : Spares l s0 s) (h : l.Clear R.FCOL_STAT_STATE) (h1 : l.addr ≠ A.FCOL_QTIME)
    (h2 : l.addr ≠ A.FCOL_ENTRIES) (h3 : l.addr ≠ A.FCOL_RECOVERIES) (h4 : l.addr ≠ A.FCOL_EVT) (fresh active : Bool) :
    Spares l s0 (s.collectorStep fresh active) := by
  have hq := hk.wf_far (m := R.FCOL_QTIME_TICKS) h1
  unfold State.collectorStep
  refine Spares.ite (Spares.ite ?_ hk) (Spares.ite (hq 0) ?_)
  · exact (((hk.wf (m := R.FCOL_STAT_STATE) (by decide) h 1).wf_far (m := R.FCOL_QTIME_TICKS) h1 0).bump (m := R.FCOL_ENTRIES_COUNT) h2 1).fcolEvt h4 0
  · dsimp only
    have h5 := hq (s.rf R.FCOL_QTIME_TICKS + 1)
    generalize s.wf R.FCOL_QTIME_TICKS (s.rf R.FCOL_QTIME_TICKS + 1) = u at h5
    exact Spares.ite (((h5.wf (m := R.FCOL_STAT_STATE) (by decide) h 0).bump (m := R.FCOL_RECOVERIES_COUNT) h3 1).fcolEvt h4 2) h5

/-- The page of a sampled pair. -/
def Sampled.page (x : Sampled) : Nat := x.key / 32 * 0x1000

/-- R400: the kind of the entry that a sample brings about. -/
def Sampled.kind (x : Sampled) : LogKind := if x.wire then (if x.test then .test else .wire) else if x.forced then .forced else .event

theorem Sampled.kind_code (x : Sampled) : x.kind.code = if x.wire then (if x.test then 3 else 1) else if x.forced then 2 else 0 := by
  unfold Sampled.kind
  split
  · split <;> rfl
  · split <;> rfl

/-- R400 to R402: from `s` to `t` one entry for the sample `x`. -/
structure State.OneEntry (s t : State) (x : Sampled) : Prop where
  seq : t.rf R.FCOL_LOG_WR_SEQ = (s.rf R.FCOL_LOG_WR_SEQ + 1) % 2 ^ 16
  entry : ∃ b, t.fcolLog = sput s.fcolLog (s.rf R.FCOL_LOG_WR_SEQ % 64) b ∧ b.length = 32 ∧ leAt b 0 8 = s.now % 2 ^ 64 ∧
    leAt b 8 2 = x.page / 0x1000 % 2 ^ 16 ∧ leAt b 10 1 = x.key % 32 + 32 * x.kind.code

/-- An entry of the log, after steps that leave the log alone and before others that do. -/
theorem oneEntry {s u t : State} {x : Sampled} (hu : Store.Sorted u.regs) (who : Option Nat) (m : Meas) (h1 : u.rf R.FCOL_LOG_WR_SEQ = s.rf R.FCOL_LOG_WR_SEQ)
    (h2 : u.fcolLog = s.fcolLog) (h3 : u.now = s.now)
    (h4 : t.rf R.FCOL_LOG_WR_SEQ = (u.logEntry x.page (x.key % 32) x.kind who m).rf R.FCOL_LOG_WR_SEQ)
    (h5 : t.fcolLog = (u.logEntry x.page (x.key % 32) x.kind who m).fcolLog) : s.OneEntry t x := by
  obtain ⟨g1, g2⟩ := logEntry_shows hu x.page (x.key % 32) x.kind who m
  obtain ⟨b1, b2, b3, b4⟩ := logBytes_says u x.page (Nat.mod_lt x.key (by decide : 0 < 32)) x.kind m
  exact ⟨by rw [h4, g1, h1], _, by rw [h5, g2, h2, h1], b1, by rw [b2, h3], b3, b4⟩

theorem newEvent_eq {x : Sampled} (hw : x.wire = false) (s : State) (m : Meas) : s.newEvent x m =
    if ((s.bump R.FCOL_EVENTS_COUNT 1).logEntry x.page (x.key % 32) x.kind x.who m).severe x.page (x.key % 32) then
      (((s.bump R.FCOL_EVENTS_COUNT 1).logEntry x.page (x.key % 32) x.kind x.who m).wf R.FCOL_STAT_SEVPEND 1).fcolEvt 1
    else (s.bump R.FCOL_EVENTS_COUNT 1).logEntry x.page (x.key % 32) x.kind x.who m := by
  unfold Sampled.kind
  rw [hw, if_neg Bool.false_ne_true]
  rfl

theorem page_mod (x : Sampled) : x.page % 0x1000 = 0 := Nat.mul_mod_left _ _

/-- R398, R400, R403: a new event is counted and logged, and a severe one is pending. -/
theorem newEvent_shows {s : State} (hs : Store.Sorted s.regs) {x : Sampled} (hw : x.wire = false) (m : Meas) (active : Bool) :
    s.OneEntry ((s.newEvent x m).collectorStep true active) x ∧
      ((s.newEvent x m).collectorStep true active).rf R.FCOL_EVENTS_COUNT = satAdd32 (s.rf R.FCOL_EVENTS_COUNT) 1 ∧
      (s.severe x.page (x.key % 32) = true → ((s.newEvent x m).collectorStep true active).rf R.FCOL_STAT_SEVPEND = 1) := by
  have hu := sorted_bump hs R.FCOL_EVENTS_COUNT 1
  have hev : (s.bump R.FCOL_EVENTS_COUNT 1).rf R.FCOL_EVENTS_COUNT = satAdd32 (s.rf R.FCOL_EVENTS_COUNT) 1 := by
    rw [rf_bump_self hs (by decide)]
    exact satAdd32_mod _ 1
  have hseq : (s.bump R.FCOL_EVENTS_COUNT 1).rf R.FCOL_LOG_WR_SEQ = s.rf R.FCOL_LOG_WR_SEQ := rf_wf_addr s _ (by decide)
  have hsame := State.bump_same (.refl 8 s) rfl R.FCOL_EVENTS_COUNT 1
  have hlog := hsame.fcolLog.resolve_left (by decide)
  have hnow := hsame.now.resolve_left (by decide)
  have hsev : (s.bump R.FCOL_EVENTS_COUNT 1).rf (R.ERR_SEV_SEV x.page) = s.rf (R.ERR_SEV_SEV x.page) := rf_wf_addr s _ (by
    have := page_mod x
    show x.page + 0x1c ≠ 0x20118
    omega)
  rw [newEvent_eq hw]
  clear hsame
  generalize s.bump R.FCOL_EVENTS_COUNT 1 = u at hu hev hseq hlog hnow hsev
  have hentry := fun t => oneEntry (t := t) (x := x) hu x.who m hseq hlog hnow
  have hsp : ∀ l : Loc, l.OffLog → l.addr ≠ A.FCOL_LOG_WR → Spares l u (u.logEntry x.page (x.key % 32) x.kind x.who m) := fun l h1 h2 =>
    (Spares.refl l u).logEntry h1 h2 _ _ _ _ _
  have hys := (hsp (R.ERR_SEV_SEV 0) (offLog_sev rfl) (by decide)).sorted hu
  have hyev := (hsp R.FCOL_EVENTS_COUNT (offLog_collector (k := 0x118) rfl (by decide) (by decide) (by decide) (by decide)) (by decide)).rf hu
  have hysev := (hsp (R.ERR_SEV_SEV x.page) (offLog_sev (page_mod x)) (by
    have := page_mod x
    show x.page + 0x1c ≠ 0x20124
    omega)).rf hu
  generalize u.logEntry x.page (x.key % 32) x.kind x.who m = y at hentry hys hyev hysev
  have hsevere : y.severe x.page (x.key % 32) = s.severe x.page (x.key % 32) := by
    unfold State.severe
    rw [hysev, hsev]
  have hz : ∀ l : Loc, l.Clear R.FCOL_STAT_SEVPEND → l.addr ≠ A.FCOL_EVT → Spares l y (if y.severe x.page (x.key % 32) then (y.wf R.FCOL_STAT_SEVPEND 1).fcolEvt 1 else y) :=
    fun l h1 h2 => (((Spares.refl l y).wf (m := R.FCOL_STAT_SEVPEND) (by decide) h1 1).fcolEvt h2 1).ite (.refl l y)
  have hzlog : (if y.severe x.page (x.key % 32) then (y.wf R.FCOL_STAT_SEVPEND 1).fcolEvt 1 else y).fcolLog = y.fcolLog :=
    (ite_same (State.fcolEvt_same (State.wf_same (.refl 9224 y) rfl _ _) rfl 1) (.refl 9224 y)).fcolLog.resolve_left (by decide)
  have hzs := (hz ⟨0, 0, 0⟩ (.inl (by decide)) (by decide)).sorted hys
  have hzsev : s.severe x.page (x.key % 32) = true →
      (if y.severe x.page (x.key % 32) then (y.wf R.FCOL_STAT_SEVPEND 1).fcolEvt 1 else y).rf R.FCOL_STAT_SEVPEND = 1 := fun h => by
    rw [if_pos (hsevere.trans h)]
    exact (((Spares.refl R.FCOL_STAT_SEVPEND _).fcolEvt (by decide) 1).rf (sorted_wf hys _ _)).trans (wf_last hys (by decide) (by decide))
  have hzseq := (hz R.FCOL_LOG_WR_SEQ (.inl (by decide)) (by decide)).rf hys
  have hzev := (hz R.FCOL_EVENTS_COUNT (.inl (by decide)) (by decide)).rf hys
  generalize (if y.severe x.page (x.key % 32) then (y.wf R.FCOL_STAT_SEVPEND 1).fcolEvt 1 else y) = z at hz hzlog hzs hzsev hzseq hzev
  have hend : ∀ l : Loc, l.Clear R.FCOL_STAT_STATE → l.addr ≠ A.FCOL_QTIME → l.addr ≠ A.FCOL_ENTRIES → l.addr ≠ A.FCOL_RECOVERIES → l.addr ≠ A.FCOL_EVT →
      (z.collectorStep true active).rf l = z.rf l := fun l h1 h2 h3 h4 h5 => ((Spares.refl l z).collectorStep h1 h2 h3 h4 h5 true active).rf hzs
  refine ⟨hentry _ ?_ ?_, ?_, fun h => ?_⟩
  · exact (hend R.FCOL_LOG_WR_SEQ (.inl (by decide)) (by decide) (by decide) (by decide) (by decide)).trans hzseq
  · exact ((State.collectorStep_same (.refl 9224 z) rfl true active).fcolLog.resolve_left (by decide)).trans hzlog
  · rw [hend R.FCOL_EVENTS_COUNT (.inl (by decide)) (by decide) (by decide) (by decide) (by decide), hzev, hyev, hev]
  · rw [hend R.FCOL_STAT_SEVPEND (.inr (.inr (by decide))) (by decide) (by decide) (by decide) (by decide)]
    exact hzsev h

theorem calm_seq : R.FCOL_LOG_WR_SEQ.Calm := ⟨by decide, by decide, by decide, by decide, by decide, by decide, by decide⟩

theorem calm_wireCnt : R.FCOL_WIRE_CNT_COUNT.Calm := ⟨by decide, by decide, by decide, by decide, by decide, by decide, by decide⟩

/-- R400, R401: the entry of a WIRE, and what may follow it in the tick. -/
theorem wireEntry {s u : State} {x : Sampled} (hu : Store.Sorted u.regs) (m : Meas) (h1 : u.rf R.FCOL_LOG_WR_SEQ = s.rf R.FCOL_LOG_WR_SEQ)
    (h2 : u.fcolLog = s.fcolLog) (h3 : u.now = s.now) (h4 : u.rf R.FCOL_WIRE_CNT_COUNT = satAdd32 (s.rf R.FCOL_WIRE_CNT_COUNT) 1) {z : State}
    (hz : ∀ l : Loc, l.Calm → Spares l (u.logEntry x.page (x.key % 32) x.kind none m) z)
    (hlog : z.fcolLog = (u.logEntry x.page (x.key % 32) x.kind none m).fcolLog) (active : Bool) :
    s.OneEntry (z.collectorStep true active) x ∧ (z.collectorStep true active).rf R.FCOL_WIRE_CNT_COUNT = satAdd32 (s.rf R.FCOL_WIRE_CNT_COUNT) 1 := by
  have hentry := fun t => oneEntry (t := t) (x := x) hu none m h1 h2 h3
  have hsp : ∀ l : Loc, l.OffLog → l.addr ≠ A.FCOL_LOG_WR → Spares l u (u.logEntry x.page (x.key % 32) x.kind none m) := fun l h1 h2 =>
    (Spares.refl l u).logEntry h1 h2 _ _ _ _ _
  have hys := (hsp (R.ERR_SEV_SEV 0) (offLog_sev rfl) (by decide)).sorted hu
  have hcnt := (hsp R.FCOL_WIRE_CNT_COUNT (offLog_collector (k := 0x134) rfl (by decide) (by decide) (by decide) (by decide)) (by decide)).rf hu
  generalize u.logEntry x.page (x.key % 32) x.kind none m = y at hz hlog hentry hys hcnt
  have hend : ∀ l : Loc, l.Calm → l.addr ≠ A.FCOL_QTIME → l.addr ≠ A.FCOL_ENTRIES → l.addr ≠ A.FCOL_RECOVERIES → l.addr ≠ A.FCOL_EVT →
      (z.collectorStep true active).rf l = y.rf l := fun l h h2 h3 h4 h5 => ((hz l h).collectorStep (.inl h.collector) h2 h3 h4 h5 true active).rf hys
  refine ⟨hentry _ ?_ ?_, ?_⟩
  · exact hend R.FCOL_LOG_WR_SEQ calm_seq (by decide) (by decide) (by decide) (by decide)
  · exact ((State.collectorStep_same (.refl 9224 z) rfl true active).fcolLog.resolve_left (by decide)).trans hlog
  · rw [hend R.FCOL_WIRE_CNT_COUNT calm_wireCnt (by decide) (by decide) (by decide) (by decide), hcnt, h4]

/-- R392, R393: a WIRE that begins is counted and logged; outside a test it fences the domain of its page. -/
theorem wireBegins_shows {s : State} (hs : Store.Sorted s.regs) {x : Sampled} (hw : x.wire = true) (m : Meas) (active : Bool) :
    s.OneEntry ((s.wireBegins x m).collectorStep true active) x ∧
      ((s.wireBegins x m).collectorStep true active).rf R.FCOL_WIRE_CNT_COUNT = satAdd32 (s.rf R.FCOL_WIRE_CNT_COUNT) 1 ∧
      (x.test = true → ((s.wireBegins x m).collectorStep true active).fences = s.fences) ∧
      (x.test = false → ((s.wireBegins x m).collectorStep true active).PageFenced x.page) := by
  have hcnt : (s.wireNoted x).rf R.FCOL_WIRE_CNT_COUNT = satAdd32 (s.rf R.FCOL_WIRE_CNT_COUNT) 1 := by
    have hb : (s.bump R.FCOL_WIRE_CNT_COUNT 1).rf R.FCOL_WIRE_CNT_COUNT = satAdd32 (s.rf R.FCOL_WIRE_CNT_COUNT) 1 := by
      rw [rf_bump_self hs (by decide)]
      exact satAdd32_mod _ 1
    have hsb := sorted_bump hs R.FCOL_WIRE_CNT_COUNT 1
    unfold State.wireNoted
    dsimp only
    generalize s.bump R.FCOL_WIRE_CNT_COUNT 1 = u at hb hsb
    have hk := Spares.refl R.FCOL_WIRE_CNT_COUNT u
    exact ((hk.ite ((((hk.wf_far (m := R.FCOL_WIRE_INFO_PAGE) (by decide) _).wf_far (m := R.FCOL_WIRE_INFO_BIT) (by decide) _).wf_far
      (m := R.FCOL_WIRE_INFO_TEST) (by decide) _).wf_far (m := R.FCOL_WIRE_INFO_VALID) (by decide) _)).rf hsb).trans hb
  have hseq : (s.wireNoted x).rf R.FCOL_LOG_WR_SEQ = s.rf R.FCOL_LOG_WR_SEQ := ((Spares.refl _ s).wireNoted (by decide) (by decide) x).rf hs
  have hns := ((Spares.refl ⟨0, 0, 0⟩ s).wireNoted (by decide) (by decide) x).sorted hs
  have hsame : Same 8 s (s.wireNoted x) := by
    have h1 := State.bump_same (.refl 8 s) rfl R.FCOL_WIRE_CNT_COUNT 1
    exact ite_same h1 (State.wf_same (State.wf_same (State.wf_same (State.wf_same h1 rfl _ _) rfl _ _) rfl _ _) rfl _ _)
  have hlog := hsame.fcolLog.resolve_left (by decide)
  have hnow := hsame.now.resolve_left (by decide)
  have hfen := hsame.fences.resolve_left (by decide)
  rw [wireBegins_eq]
  generalize s.wireNoted x = u at hcnt hseq hns hlog hnow hfen
  have herr : ∀ k, 0x28 ≤ k → ∀ l : Loc, l.addr = Page.collectorBase + k → l.NoErr Page.collectorBase := fun k h l hl => Loc.noErr_of_page (.inr (by omega))
  have herrWords : ∀ l : Loc, l.NoErr Page.collectorBase → (u.errWords Page.collectorBase 0).rf l = u.rf l := fun l h => rf_congr (errWords_reg u _ 0 h)
  have hcond : ∀ l : Loc, l.NoErr Page.collectorBase → (u.condEvent Page.collectorBase 0).rf l = u.rf l := fun l h =>
    ((Spares.refl l u).raiseSrc h 0).rf hns
  cases ht : x.test with
  | true =>
    have hk : x.kind = .test := by unfold Sampled.kind; rw [hw, ht]; rfl
    rw [if_pos rfl, ← hk]
    have hsw := State.errWords_same (.refl 8 u) rfl Page.collectorBase 0
    have hend := wireEntry (s := s) (x := x) (sorted_errWords hns Page.collectorBase 0) m
      ((herrWords _ (herr 0x124 (by decide) _ rfl)).trans hseq) ((hsw.fcolLog.resolve_left (by decide)).trans hlog)
      ((hsw.now.resolve_left (by decide)).trans hnow) ((herrWords _ (herr 0x134 (by decide) _ rfl)).trans hcnt) (fun l _ => .refl l _) rfl active
    have hf := State.collectorStep_same (State.logEntry_same (hsw.mono (N := 1178702234788872) rfl) rfl x.page (x.key % 32) x.kind none m) rfl true active
    exact ⟨hend.1, hend.2, fun _ => (hf.fences.resolve_left (by decide)).trans hfen, fun h => (nomatch h)⟩
  | false =>
    have hk : x.kind = .wire := by unfold Sampled.kind; rw [hw, ht]; rfl
    rw [if_neg Bool.false_ne_true, ← hk]
    have hsw := State.condEvent_same (.refl 8589934600 u) rfl Page.collectorBase 0
    have hy := State.logEntry_same (.refl 1178702234788872 (u.condEvent Page.collectorBase 0)) rfl x.page (x.key % 32) x.kind none m
    have hsu : Store.Sorted (u.condEvent Page.collectorBase 0).regs := sorted_raiseSrc hns _ _
    have hys : Store.Sorted ((u.condEvent Page.collectorBase 0).logEntry x.page (x.key % 32) x.kind none m).regs :=
      ((Spares.refl (R.ERR_SEV_SEV 0) _).logEntry (offLog_sev rfl) (by decide) _ _ _ _ _).sorted hsu
    have hend := wireEntry (s := s) (x := x) hsu m
      ((hcond _ (herr 0x124 (by decide) _ rfl)).trans hseq) ((hsw.fcolLog.resolve_left (by decide)).trans hlog)
      ((hsw.now.resolve_left (by decide)).trans hnow) ((hcond _ (herr 0x134 (by decide) _ rfl)).trans hcnt)
      (z := ((u.condEvent Page.collectorBase 0).logEntry x.page (x.key % 32) x.kind none m).fenceWire x.page)
      (fun l hl => (Spares.refl l _).fenceWire hl x.page)
      ((State.fenceWire_same (.refl 279172883464 _) rfl x.page).fcolLog.resolve_left (by decide)) active
    refine ⟨hend.1, hend.2, fun h => (nomatch h), fun _ => ?_⟩
    have hfenced := fenceWire_fenced hys x.page
    have hfs : Store.Sorted (((u.condEvent Page.collectorBase 0).logEntry x.page (x.key % 32) x.kind none m).fenceWire x.page).regs :=
      ((Spares.refl ⟨0, 0, 0⟩ _).fenceWire calm_zero x.page).sorted hys
    exact hfenced.onward (onward_collectorStep _ true active) hfs

end Sys2Proof.Machine


/-! A tick of the collector, whole (R391 to R404), and O56. -/

namespace Sys2Proof.Machine

/-! ### The pairs that a tick samples (R391 to R393) -/

/-- What the tick makes of pair `k`. -/
def State.sampleOf (d : State) (faulty : List (Nat × Nat)) (k : Nat) : Sampled × PairSt :=
  samplePair k (d.readPair k (faulty.contains (k / 32, k % 32))) (d.pair k)

/-- The state after the pairs are sampled and the tick has passed (R391, R398). -/
def State.ticked (d : State) (faulty : List (Nat × Nat)) : State :=
  let s := (((d.tickKeys faulty).map (d.sampleOf faulty)).foldl (fun s (e : Sampled × PairSt) => s.setPair e.1.key e.2) d).elapse 1
  if s.anyWire then s else s.dropCond Page.collectorBase 0

theorem collectorTick_eq (faulty : List (Nat × Nat)) (l : List (Nat × Meas)) (finds : List ChipFind) {s : State} (h : s.pins.held = false) :
    exec (.collectorTick faulty l finds) s = .next
      ((((((finds.foldl State.chipFound s).tickKeys faulty).map ((finds.foldl State.chipFound s).sampleOf faulty)).map Prod.fst).foldl (State.applySample l)
        ((finds.foldl State.chipFound s).ticked faulty)).collectorStep
          (((((finds.foldl State.chipFound s).tickKeys faulty).map ((finds.foldl State.chipFound s).sampleOf faulty)).map Prod.fst).any fun x => x.fresh || x.wire)
          (((((finds.foldl State.chipFound s).tickKeys faulty).map ((finds.foldl State.chipFound s).sampleOf faulty)).map Prod.fst).any (·.active))) := by
  show execCollectorTick faulty l finds s = _
  unfold execCollectorTick
  rw [h, if_neg Bool.false_ne_true]
  rfl

/-- The keys of the pairs that a tick looks at. -/
def tickStore (d : State) (faulty : List (Nat × Nat)) : Store Unit :=
  faulty.foldl (fun (t : Store Unit) e => if (srcAt (e.1 * 0x1000) e.2).isSome then sput t (e.1 * 32 + e.2) () else t) (d.pairs.map fun e => (e.1, ()))

theorem sorted_tickStore {d : State} (h : Store.Sorted d.pairs) (faulty : List (Nat × Nat)) : Store.Sorted (tickStore d faulty) := by
  have h0 : Store.Sorted (d.pairs.map fun e => (e.1, ())) := sorted_map_snd _ (fun _ => rfl) h
  unfold tickStore
  generalize (d.pairs.map fun e => (e.1, ())) = t at h0
  induction faulty generalizing t with
  | nil => exact h0
  | cons e l ih =>
    refine ih _ ?_
    dsimp only
    split
    · exact sorted_sput h0 _ _
    · exact h0

theorem nodup_tickKeys {d : State} (h : Store.Sorted d.pairs) (faulty : List (Nat × Nat)) : (d.tickKeys faulty).Nodup := by
  have hn := nodup_keys (sorted_tickStore h faulty) fun _ => true
  rw [List.filter_true] at hn
  exact hn

/-- Every pair with a state is looked at. -/
theorem mem_tickKeys {d : State} (h : Store.Sorted d.pairs) (faulty : List (Nat × Nat)) {k : Nat} (hk : k ∈ d.pairs.map Prod.fst) :
    k ∈ d.tickKeys faulty := by
  suffices hg : ∀ (l : List (Nat × Nat)) (t : Store Unit), sget? t k = some () →
      sget? (l.foldl (fun (t : Store Unit) e => if (srcAt (e.1 * 0x1000) e.2).isSome then sput t (e.1 * 32 + e.2) () else t) t) k = some () by
    obtain ⟨e, he, rfl⟩ := List.mem_map.mp hk
    have h0 : sget? (d.pairs.map fun e => (e.1, ())) e.1 = some () :=
      sget_of_mem (sorted_map_snd _ (fun _ => rfl) h) (List.mem_map_of_mem (f := fun e : Nat × PairSt => (e.1, ())) he)
    exact List.mem_map_of_mem (f := Prod.fst) (mem_of_sget (hg faulty _ h0))
  intro l
  induction l with
  | nil => exact fun _ ht => ht
  | cons e l ih =>
    refine fun t ht => ih _ ?_
    dsimp only
    split
    · by_cases hke : k = e.1 * 32 + e.2
      · rw [hke]
        exact sget_sput_self _ _ _
      · rw [sget_sput_ne _ _ hke]
        exact ht
    · exact ht

/-- The pairs after the samples. -/
theorem sampled_pairs {d : State} (hp : Store.Sorted d.pairs) (faulty : List (Nat × Nat)) :
    let u := ((d.tickKeys faulty).map (d.sampleOf faulty)).foldl (fun s (e : Sampled × PairSt) => s.setPair e.1.key e.2) d
    Store.Sorted u.pairs ∧ (∀ k ∈ d.tickKeys faulty, u.pair k = (d.sampleOf faulty k).2) ∧ ∀ k, (u.pair k).cond = (d.pair k).cond := by
  intro u
  have hu : u = (d.tickKeys faulty).foldl (fun s k => s.setPair k (d.sampleOf faulty k).2) d := List.foldl_map
  have hcond : ∀ k, ((d.sampleOf faulty k).2).cond = (d.pair k).cond := fun _ => rfl
  rw [hu]
  clear hu u
  have hmain := foldl_makes (step := fun s k => s.setPair k (d.sampleOf faulty k).2)
    (Q := fun t => Store.Sorted t.pairs ∧ ∀ k, (t.pair k).cond = (d.pair k).cond) (P := fun k t => t.pair k = (d.sampleOf faulty k).2) (l := d.tickKeys faulty)
    (fun t k _ ht => ⟨⟨sorted_sputD ht.1 _ _ _, fun j => by
      by_cases hjk : j = k
      · rw [hjk, pair_setPair_self ht.1]
        exact hcond k
      · rw [pair_setPair_ne _ _ hjk]
        exact ht.2 j⟩, pair_setPair_self ht.1 _ _⟩)
    (fun t j k hjk _ hj => (pair_setPair_ne _ _ hjk).trans hj) (nodup_tickKeys hp faulty) (s := d) ⟨hp, fun _ => rfl⟩
  exact ⟨hmain.1.1, hmain.2, hmain.1.2⟩

/-- A tick's samples change the clock and the pairs (R391 to R393, R398). -/
theorem ticked_same (d : State) (faulty : List (Nat × Nat)) : Same 285881613156356 d (d.ticked faulty) := by
  have h1 := State.elapse_same (foldl_same (f := fun s (e : Sampled × PairSt) => s.setPair e.1.key e.2) (l := (d.tickKeys faulty).map (d.sampleOf faulty))
    (fun _ _ h => State.setPair_same h rfl _ _) (.refl 285881613156356 d)) rfl 1
  exact ite_same h1 (State.dropCond_same h1 rfl _ _)

theorem ticked_keeps (d : State) (faulty : List (Nat × Nat)) : Keeps d (d.ticked faulty) := by
  have h1 := State.elapse_keeps (foldl_keeps (f := fun s (e : Sampled × PairSt) => s.setPair e.1.key e.2) (l := (d.tickKeys faulty).map (d.sampleOf faulty))
    (fun _ _ h => State.setPair_keeps h _ _) (.refl d)) 1
  exact ite_keeps h1 (State.dropCond_keeps h1 _ _)

theorem ticked_regs (d : State) (faulty : List (Nat × Nat)) : (d.ticked faulty).regs = d.regs := (ticked_same d faulty).regs.resolve_left (by decide)

/-- The pairs after the samples, of which the tick may end the collector's own condition. -/
theorem ticked_pair {d : State} (hp : Store.Sorted d.pairs) (faulty : List (Nat × Nat)) :
    Store.Sorted (d.ticked faulty).pairs ∧ (∀ k ∈ d.tickKeys faulty, k ≠ wireKey → (d.ticked faulty).pair k = (d.sampleOf faulty k).2) ∧
      ∀ k, k ≠ wireKey → ((d.ticked faulty).pair k).cond = (d.pair k).cond := by
  obtain ⟨h1, h2, h3⟩ := sampled_pairs hp faulty
  unfold State.ticked
  dsimp only
  generalize ((d.tickKeys faulty).map (d.sampleOf faulty)).foldl (fun s (e : Sampled × PairSt) => s.setPair e.1.key e.2) d = u at h1 h2 h3
  have hpe : (u.elapse 1).pairs = u.pairs := rfl
  have hpk := fun k => pair_of_pairs hpe k
  generalize u.elapse 1 = v at hpe hpk
  split
  · exact ⟨hpe ▸ h1, fun k hk _ => (hpk k).trans (h2 k hk), fun k _ => by rw [hpk, h3]⟩
  · have hne : ∀ k, k ≠ wireKey → (v.dropCond Page.collectorBase 0).pair k = v.pair k := fun k hk => pair_setPair_ne v _ hk
    exact ⟨sorted_sputD (hpe ▸ h1) _ _ _, fun k hk hw => (hne k hw).trans ((hpk k).trans (h2 k hk)), fun k hw => by rw [hne k hw, hpk, h3]⟩

theorem onward_ticked {d : State} (hp : Store.Sorted d.pairs) (faulty : List (Nat × Nat)) : Onward d (d.ticked faulty) := by
  obtain ⟨h1, -, h3⟩ := ticked_pair hp faulty
  exact ⟨louder_of_regs (ticked_regs d faulty), fun e he => (isFenced_of_fences ((ticked_same d faulty).fences.resolve_left (by decide)) e).trans he,
    fun _ => h1, fun _ k hk hc => (h3 k hk).trans hc⟩

/-- R306: the clock. -/
theorem ticked_clock (d : State) (faulty : List (Nat × Nat)) : (d.ticked faulty).now = d.now + 1 ∧ (d.ticked faulty).pwr.eTicks = d.pwr.eTicks + 1 := by
  have hf := foldl_same (f := fun s (e : Sampled × PairSt) => s.setPair e.1.key e.2) (l := (d.tickKeys faulty).map (d.sampleOf faulty))
    (fun _ _ h => State.setPair_same h rfl _ _) (.refl 8589934592 d)
  have hn := hf.now.resolve_left (by decide)
  have hw := hf.pwr.resolve_left (by decide)
  unfold State.ticked
  dsimp only
  generalize ((d.tickKeys faulty).map (d.sampleOf faulty)).foldl (fun s (e : Sampled × PairSt) => s.setPair e.1.key e.2) d = u at hn hw
  have h1 : (u.elapse 1).now = u.now + 1 := rfl
  have h2 : (u.elapse 1).pwr.eTicks = u.pwr.eTicks + 1 := by
    unfold State.elapse PwrSt.pinTicks
    dsimp only
  rw [hn] at h1
  rw [hw] at h2
  generalize u.elapse 1 = v at h1 h2
  split
  · exact ⟨h1, h2⟩
  · have hd := State.dropCond_same (.refl 8589934592 v) rfl Page.collectorBase 0
    exact ⟨(hd.now.resolve_left (by decide)).trans h1, (congrArg PwrSt.eTicks (hd.pwr.resolve_left (by decide))).trans h2⟩

/-! ### What the samples show takes effect (R392, R398) -/

/-- A pair shows a new event or the start of a WIRE, never both. -/
theorem samplePair_one (k : Nat) (r : Reading) (y : PairSt) (h : (samplePair k r y).1.fresh = true) : (samplePair k r y).1.wire = false := by
  unfold samplePair at *
  dsimp only at *
  cases r with
  | raised => simp
  | low => simp at h
  | equal => simp at h

theorem applySample_none (l : List (Nat × Meas)) (s : State) {x : Sampled} (h : (x.fresh || x.wire) = false) : s.applySample l x = s := by
  obtain ⟨h1, h2⟩ := Bool.or_eq_false_iff.mp h
  unfold State.applySample
  rw [h1, h2]
  rfl

/-- Only the samples that show something act. -/
theorem applySamples_filter (l : List (Nat × Meas)) (xs : List Sampled) (s : State) :
    xs.foldl (State.applySample l) s = (xs.filter fun x => x.fresh || x.wire).foldl (State.applySample l) s := by
  induction xs generalizing s with
  | nil => rfl
  | cons x xs ih =>
    rw [List.foldl_cons, ih]
    cases h : (x.fresh || x.wire) with
    | false => rw [applySample_none l s h, List.filter_cons_of_neg (by rw [h]; exact Bool.false_ne_true)]
    | true => rw [List.filter_cons_of_pos (p := fun x : Sampled => x.fresh || x.wire) h, List.foldl_cons]

theorem applySample_fresh (l : List (Nat × Meas)) (s : State) {x : Sampled} (h : x.fresh = true) (hw : x.wire = false) :
    s.applySample l x = s.newEvent x (measOf l (x.key / 32)) := by
  unfold State.applySample
  rw [h, hw]
  rfl

theorem applySample_wire (l : List (Nat × Meas)) (s : State) {x : Sampled} (h : x.fresh = false) (hw : x.wire = true) :
    s.applySample l x = s.wireBegins x (measOf l (x.key / 32)) := by
  unfold State.applySample
  rw [h, hw]
  rfl

/-! ### The whole tick -/

/-- The rest of a tick after its finds, with what it shows. -/
def State.tickRest (d : State) (faulty : List (Nat × Nat)) (l : List (Nat × Meas)) (shown : List Sampled) : State :=
  (shown.foldl (State.applySample l) (d.ticked faulty)).collectorStep (shown.any fun x => x.fresh || x.wire) (shown.any (·.active))

/-- The parts that the samples and the collector's state change. -/
theorem tickRest_same (d : State) (faulty : List (Nat × Nat)) (l : List (Nat × Meas)) (shown : List Sampled) :
    Same 1178981407663112 (d.ticked faulty) (d.tickRest faulty l shown) :=
  State.collectorStep_same (foldl_same (fun _ _ h => State.applySample_same h rfl l _) (.refl _ _)) rfl _ _

theorem onward_tickRest {d : State} (hp : Store.Sorted d.pairs) (faulty : List (Nat × Nat)) (l : List (Nat × Meas)) (shown : List Sampled) :
    Onward d (d.tickRest faulty l shown) :=
  (onward_ticked hp faulty).trans ((Onward.foldl_mem (fun t x _ => onward_applySample l t x) (.refl _)).trans (onward_collectorStep _ _ _))

theorem blanker_tickRest (d : State) (faulty : List (Nat × Nat)) (l : List (Nat × Meas)) (shown : List Sampled) : Blanker d (d.tickRest faulty l shown) := by
  have hk : Keeps d (d.tickRest faulty l shown) :=
    State.collectorStep_keeps (foldl_keeps (fun _ _ h => State.applySample_keeps h l _) (ticked_keeps d faulty)) _ _
  have h1 := ticked_same d faulty
  have h2 := tickRest_same d faulty l shown
  exact blanker_of_eqs hk.canon ((h2.seedbed.resolve_left (by decide)).trans (h1.seedbed.resolve_left (by decide)))
    ((h2.sheaf.resolve_left (by decide)).trans (h1.sheaf.resolve_left (by decide)))
    ((h2.glean.resolve_left (by decide)).trans (h1.glean.resolve_left (by decide)))
    ((h2.streams.resolve_left (by decide)).trans (h1.streams.resolve_left (by decide)))

/-- R398: a tick in which no pair is raised or under a WIRE. -/
theorem tickRest_quiet (d : State) (faulty : List (Nat × Nat)) (l : List (Nat × Meas)) {shown : List Sampled}
    (h : ∀ x ∈ shown, x.fresh = false ∧ x.wire = false ∧ x.active = false) :
    d.tickRest faulty l shown = (d.ticked faulty).collectorStep false false := by
  have h1 : shown.filter (fun x => x.fresh || x.wire) = [] := List.filter_eq_nil_iff.mpr fun x hx => by
    obtain ⟨hf, hw, -⟩ := h x hx
    rw [hf, hw]
    exact Bool.false_ne_true
  have h2 : (shown.any fun x => x.fresh || x.wire) = false := List.any_eq_false.mpr fun x hx => by
    obtain ⟨hf, hw, -⟩ := h x hx
    rw [hf, hw]
    exact Bool.false_ne_true
  have h3 : (shown.any (·.active)) = false := List.any_eq_false.mpr fun x hx => by
    rw [(h x hx).2.2]
    exact Bool.false_ne_true
  unfold State.tickRest
  rw [applySamples_filter, h1, h2, h3]
  rfl

/-- R398, R401: a quiet tick. -/
structure State.QuietTick (d t : State) : Prop where
  log : t.fcolLog = d.fcolLog
  fences : t.fences = d.fences
  held : ∀ k ∈ d.pairs.map Prod.fst, k ≠ pairKey Page.collectorBase 0 → (t.pair k).hold = (d.pair k).hold - 1
  idle : d.flag R.FCOL_STAT_STATE = false → t.regs = d.regs ∧ t.msgs = d.msgs
  counts : d.flag R.FCOL_STAT_STATE = true → d.flag R.FCOL_STAT_DEVFATAL = false →
    if d.rf R.FCOL_QUIET_MS * msTicks ≤ d.rf R.FCOL_QTIME_TICKS + 1 then t.flag R.FCOL_STAT_STATE = false ∧
      t.rf R.FCOL_RECOVERIES_COUNT = satAdd32 (d.rf R.FCOL_RECOVERIES_COUNT) 1
    else t.flag R.FCOL_STAT_STATE = true ∧ t.rf R.FCOL_QTIME_TICKS = d.rf R.FCOL_QTIME_TICKS + 1

theorem quietTick_shows {d : State} (hc : d.Canon) (faulty : List (Nat × Nat)) : d.QuietTick ((d.ticked faulty).collectorStep false false) := by
  have hregs := ticked_regs d faulty
  have hsame := ticked_same d faulty
  have hlog := hsame.fcolLog.resolve_left (by decide)
  have hfen := hsame.fences.resolve_left (by decide)
  have hmsg := hsame.msgs.resolve_left (by decide)
  obtain ⟨-, hpair, -⟩ := ticked_pair hc.pairs faulty
  generalize d.ticked faulty = v at hregs hlog hfen hmsg hpair
  have hs : Store.Sorted v.regs := hregs ▸ hc.regs
  have hrf := rf_of_regs hregs
  have hfl : ∀ r : Loc, v.flag r = d.flag r := fun r => congrArg (· != 0) (hrf r)
  have hstep := State.collectorStep_same (.refl 9224 v) rfl false false
  exact
    { log := (hstep.fcolLog.resolve_left (by decide)).trans hlog
      fences := (hstep.fences.resolve_left (by decide)).trans hfen
      held := fun k hk hw => by
        rw [pair_of_pairs (hstep.pairs.resolve_left (by decide)), hpair k (mem_tickKeys hc.pairs faulty hk) hw]
        rfl
      idle := fun h => by
        rw [collectorStep_idle ((hfl _).trans h)]
        exact ⟨hregs, hmsg⟩
      counts := fun h1 h2 => by
        split
        next hq =>
          have := collectorStep_recovers hs ((hfl _).trans h1) ((hfl _).trans h2) (by rw [hrf, hrf]; exact hq)
          rw [hrf] at this
          exact this
        next hq =>
          have := collectorStep_counts hs ((hfl _).trans h1) ((hfl _).trans h2) (by rw [hrf, hrf]; exact hq)
          rw [hrf] at this
          exact this }

/-- R392, R393, R398, R400: a tick in which one pair alone shows a new event or the start of a WIRE. -/
structure State.EventTick (d t : State) (x : Sampled) : Prop where
  active : t.flag R.FCOL_STAT_STATE = true ∧ t.rf R.FCOL_QTIME_TICKS = 0
  seq : t.rf R.FCOL_LOG_WR_SEQ = (d.rf R.FCOL_LOG_WR_SEQ + 1) % 2 ^ 16
  entry : ∃ b, t.fcolLog = sput d.fcolLog (d.rf R.FCOL_LOG_WR_SEQ % 64) b ∧ b.length = 32 ∧ leAt b 0 8 = (d.now + 1) % 2 ^ 64 ∧
    leAt b 8 2 = x.page / 0x1000 % 2 ^ 16 ∧ leAt b 10 1 = x.key % 32 + 32 * x.kind.code
  event : x.wire = false → t.rf R.FCOL_EVENTS_COUNT = satAdd32 (d.rf R.FCOL_EVENTS_COUNT) 1 ∧
    (d.severe x.page (x.key % 32) = true → t.rf R.FCOL_STAT_SEVPEND = 1)
  wire : x.wire = true → t.rf R.FCOL_WIRE_CNT_COUNT = satAdd32 (d.rf R.FCOL_WIRE_CNT_COUNT) 1 ∧
    (x.test = true → t.fences = d.fences) ∧ (x.test = false → t.PageFenced x.page)

theorem eventTick_shows {d : State} (hc : d.Canon) (faulty : List (Nat × Nat)) (l : List (Nat × Meas)) {x : Sampled}
    (hx : (x.fresh || x.wire) = true) (hone : x.fresh = true → x.wire = false) (active : Bool) :
    d.EventTick (((d.ticked faulty).applySample l x).collectorStep true active) x := by
  have hregs := ticked_regs d faulty
  have hnow := (ticked_clock d faulty).1
  have hsame := ticked_same d faulty
  have hlog := hsame.fcolLog.resolve_left (by decide)
  have hfen := hsame.fences.resolve_left (by decide)
  have hcv := (ticked_keeps d faulty).canon hc
  generalize d.ticked faulty = v at hregs hnow hlog hfen hcv
  have hrf := rf_of_regs hregs
  have hact := collectorStep_active (s := v.applySample l x) ((State.applySample_keeps (.refl v) l x).canon hcv).regs active
  cases hw : x.wire with
  | false =>
    have hf : x.fresh = true := by rw [hw, Bool.or_false] at hx; exact hx
    rw [applySample_fresh l v hf hw] at hact ⊢
    obtain ⟨hentry, hev, hsev⟩ := newEvent_shows hcv.regs hw (measOf l (x.key / 32)) active
    obtain ⟨hseq, b, h1, h2, h3, h4, h5⟩ := hentry
    rw [hrf] at hseq h1 hev
    rw [hlog] at h1
    rw [hnow] at h3
    refine ⟨hact, hseq, ⟨b, h1, h2, h3, h4, h5⟩, fun _ => ⟨hev, fun h => hsev ?_⟩, fun h => (nomatch h.symm.trans hw)⟩
    unfold State.severe
    rw [hrf]
    exact h
  | true =>
    have hf : x.fresh = false := by
      cases h : x.fresh with
      | false => rfl
      | true => exact (nomatch (hone h).symm.trans hw)
    rw [applySample_wire l v hf hw] at hact ⊢
    obtain ⟨hentry, hcnt, htest, hreal⟩ := wireBegins_shows hcv.regs hw (measOf l (x.key / 32)) active
    obtain ⟨hseq, b, h1, h2, h3, h4, h5⟩ := hentry
    rw [hrf] at hseq h1 hcnt
    rw [hlog] at h1
    rw [hnow] at h3
    exact ⟨hact, hseq, ⟨b, h1, h2, h3, h4, h5⟩, fun h => (nomatch h.symm.trans hw), fun _ => ⟨hcnt, fun h => (htest h).trans hfen, hreal⟩⟩

/-- A tick of which one sample alone acts. -/
theorem tickRest_one (d : State) (faulty : List (Nat × Nat)) (l : List (Nat × Meas)) {shown : List Sampled} {x : Sampled}
    (h : shown.filter (fun y => y.fresh || y.wire) = [x]) :
    d.tickRest faulty l shown = ((d.ticked faulty).applySample l x).collectorStep true (shown.any (·.active)) := by
  have hx : x ∈ shown.filter fun y => y.fresh || y.wire := by rw [h]; exact List.mem_singleton_self x
  have hany : (shown.any fun y => y.fresh || y.wire) = true := List.any_eq_true.mpr ⟨x, (List.mem_filter.mp hx).1, (List.mem_filter.mp hx).2⟩
  unfold State.tickRest
  rw [applySamples_filter, h, hany]
  rfl

/-! ### O56 -/

theorem leAt_zeros (i n : Nat) : leAt (List.replicate 8 0) i n = 0 := by
  unfold leAt
  rw [List.drop_replicate, List.take_replicate]
  generalize min n (8 - i) = k
  induction k with
  | zero => rfl
  | succ k ih => rw [List.replicate_succ, leNat, ih]; rfl

theorem seedRead_zeros {t : State} {f n w : Nat} (h : ∀ i, i < 8 → t.seedbed.read unit64K (furKey f n * seedSize + 8 * w + i) = 0) :
    t.seedRead f n (8 * w) 8 = List.replicate 8 0 := readN_zeros h

theorem sheafRead_zeros {t : State} {f w : Nat} (h : ∀ i, i < 8 → t.sheaf.read unit64K (f * sheafSize + 8 * w + i) = 0) :
    t.sheafRead f (8 * w) 8 = List.replicate 8 0 := readN_zeros h

theorem gleanGet_zeros {t : State} {f n w : Nat} (h : ∀ i, i < 8 → t.glean.read gleanUnit (furKey f n * gleanSize + 8 * w + i) = 0) :
    t.gleanGet f n w = (0, 0) := by
  unfold State.gleanGet
  dsimp only
  rw [readN_zeros h, leAt_zeros, leAt_zeros]
  rfl

/-- What the finds of a tick leave for its samples: the calm registers, the clock and the log. -/
theorem chipFinds_rest {s : State} (hc : s.Canon) (finds : List ChipFind) :
    (finds.foldl State.chipFound s).Canon ∧ (∀ l : Loc, l.Calm → (finds.foldl State.chipFound s).rf l = s.rf l) ∧
      (finds.foldl State.chipFound s).now = s.now ∧ (finds.foldl State.chipFound s).pwr = s.pwr ∧
      (finds.foldl State.chipFound s).fcolLog = s.fcolLog := by
  have hp := progress_chipFinds finds s
  have hm := foldl_same (f := State.chipFound) (l := finds) (fun _ x h => State.chipFound_same h rfl x) (.refl 287774876680 s)
  exact ⟨hp.blanker.canon hc, fun l hl => (hp.apart.spares l hl).rf hc.regs, hm.now.resolve_left (by decide), hm.pwr.resolve_left (by decide),
    hm.fcolLog.resolve_left (by decide)⟩

theorem calm_sev {page : Nat} (hp : page % 0x1000 = 0) : (R.ERR_SEV_SEV page).Calm := by
  have ha : (R.ERR_SEV_SEV page).addr = page + 0x1c := rfl
  have hc : A.FCOL_STAT = 0x20108 := rfl
  constructor
  all_goals
    rw [ha]
  · omega
  · omega
  · omega
  · omega
  · omega
  · omega
  · rw [hc]
    omega

theorem calm_events : R.FCOL_EVENTS_COUNT.Calm := ⟨by decide, by decide, by decide, by decide, by decide, by decide, by decide⟩

/-- The parts that a tick changes are those named. -/
theorem tickParts (p : StPart) (h : p ∈ [StPart.now, .regs, .msgs, .msixPend, .sheaf, .seedbed, .glean, .streams, .fences, .pairs, .fcolLog, .ports, .flash,
    .staged, .heldBack, .pwr, .mg]) : p ∈ [StPart.now, .regs, .msgs, .msixPend, .fences, .pairs, .fcolLog, .ports, .flash, .staged, .heldBack, .mg, .pwr,
    .seedbed, .sheaf, .glean, .streams] := by
  revert p
  decide

/-- Settles O56 (R381 to R383, R388 to R404, R408 to R410), a command at a time; for a tick, what its finds bring about lasts to
its end, and its samples act one by one. A found word reads 0 and blocks the step whether or not it is read (log 66), a comparison
leaves the engine's slot as log 83 has it, a test WIRE fences nothing (log 29), and a device held in reset takes no tick (log 58). -/
theorem faultsAreCollected : Obligations.FaultsAreCollected := by
  unfold Obligations.FaultsAreCollected
  intro s hc
  refine ⟨fun faulty l finds hheld => ?_, fun faulty l finds d shown hheld hd hshown => ?_, fun h1 h2 h3 => quietPeriodExpiry_shows hc h1 h2 h3,
    fun u a v base b hbase _ hm hb => errorForce_shows hc hbase hm hb, fun u v page b hgo hm hp hb => wireTest_shows hgo hm hp hb,
    fun c w hok hr hw => interferenceWindowEnd_shows hc.regs hok hr hw, fun l hp => slowdownWindowEnd_shows hc.regs l hp,
    fun f i m x hx => ⟨shadowCompare_agrees hc m hx, fun ho he hne hctx => shadowCompare_differs hc m hx ho he hne hctx⟩⟩
  · exact ⟨{ s with pwr := s.pwr.pinTicks 1 }, if_pos hheld, rfl⟩
  · have hfound := chipFinds_hold hc finds
    have hex := collectorTick_eq faulty l finds hheld
    obtain ⟨hcd, hcalm, hnow, hpwr, hlog⟩ := chipFinds_rest hc finds
    rw [← hd] at hfound hex hcd hcalm hnow hpwr hlog
    have hmap : ((d.tickKeys faulty).map (d.sampleOf faulty)).map Prod.fst = shown := by
      rw [hshown, List.map_map]
      rfl
    rw [hmap] at hex
    have hclock := ticked_clock d faulty
    have hrest := tickRest_same d faulty l shown
    have ho := onward_tickRest hcd.pairs faulty l shown
    have hb := blanker_tickRest d faulty l shown
    refine ⟨d.tickRest faulty l shown, hex, fun p hp => sameBut_of_next hex p fun h => hp (tickParts p h), ?_, ?_, fun x hx => ?_, fun hq => ?_,
      fun x page hone hpage => ?_⟩
    · rw [hrest.now.resolve_left (by decide), hclock.1, hnow]
    · rw [hrest.pwr.resolve_left (by decide), hclock.2, hpwr]
    · have h := (hfound x hx).onward hcd ho hb
      cases x with
      | furrowStore f n => exact h
      | sheafStore f => exact h
      | ringRetried f => exact h
      | ringFailed f => exact h
      | steadingStore => exact h
      | steadingLost => exact h
      | seedWord f n c w => exact fun h1 h2 => ⟨seedRead_zeros (h h1 h2).1, (h h1 h2).2⟩
      | sheafWord f c w => exact fun h1 h2 => ⟨sheafRead_zeros (h h1 h2).1, (h h1 h2).2⟩
      | gleanWord f n c w => exact fun h1 h2 => ⟨gleanGet_zeros (h h1 h2).1, (h h1 h2).2⟩
      | bufferWord i w => exact h
    · have h := quietTick_shows hcd faulty
      rw [← tickRest_quiet d faulty l hq] at h
      exact ⟨h.log.trans hlog, h.fences, h.held, h.idle, h.counts⟩
    · subst hpage
      have hx : x ∈ shown.filter fun y => y.fresh || y.wire := by rw [hone]; exact List.mem_singleton_self x
      have hexcl : x.fresh = true → x.wire = false := by
        have hmem := (List.mem_filter.mp hx).1
        rw [hshown] at hmem
        obtain ⟨k, -, rfl⟩ := List.mem_map.mp hmem
        exact samplePair_one _ _ _
      have h := eventTick_shows hcd faulty l (List.mem_filter.mp hx).2 hexcl (shown.any (·.active))
      rw [← tickRest_one d faulty l hone] at h
      have hsev : d.severe x.page (x.key % 32) = s.severe x.page (x.key % 32) :=
        congrArg (·.testBit (x.key % 32)) (hcalm _ (calm_sev (page_mod x)))
      refine ⟨h.active.1, h.active.2, ?_, ?_, fun hw => ?_, fun hw => ?_⟩
      · rw [← hcalm _ calm_seq]
        exact h.seq
      · obtain ⟨b, h1, h2, h3, h4, h5⟩ := h.entry
        rw [hcalm _ calm_seq, hlog] at h1
        rw [hnow] at h3
        rw [x.kind_code] at h5
        exact ⟨b, h1, h2, h3, h4, h5⟩
      · obtain ⟨h1, h2⟩ := h.event hw
        rw [hcalm _ calm_events] at h1
        exact ⟨h1, fun hs => h2 (hsev.trans hs)⟩
      · obtain ⟨h1, h2, h3⟩ := h.wire hw
        rw [hcalm _ calm_wireCnt] at h1
        exact ⟨h1, h2, h3⟩

end Sys2Proof.Machine


/-! What work on contexts leaves alone: the fields' power registers, and a context that is in RESET (R300, R443, R471): O55. -/

namespace Sys2Proof.Machine

/-- The address is neither in the power page nor that of a context's commit state. -/
def Aside (a : Nat) : Prop := a < 0x50000 ∨ (0x58000 ≤ a ∧ a < 0x70800) ∨ 0x71000 ≤ a

theorem aside_high {a : Nat} (h : 0x71000 ≤ a) : Aside a := .inr (.inr h)

theorem aside_hbm (f m k : Nat) : Aside (Page.hbmBase f m + k) := by
  have h := hbmBase_high f m
  exact aside_high (by omega)

theorem aside_coll (f k : Nat) : Aside (Page.collengBase f + k) := by
  refine aside_high ?_
  unfold Page.collengBase Page.fieldBase
  omega

theorem aside_queue (q k : Nat) : Aside (Page.doorbellBase q + k) := by
  refine aside_high ?_
  unfold Page.doorbellBase
  omega

theorem aside_serving (c k : Nat) : Aside (Page.servingBase c + k) := by
  refine aside_high ?_
  unfold Page.servingBase
  omega

theorem aside_context (c k : Nat) : Aside (Page.contextBase c + k) := by
  refine aside_high ?_
  unfold Page.contextBase
  omega

theorem aside_fabric {k : Nat} (h : k < 0x1000) : Aside (Page.fabricBase + k) := by
  unfold Aside Page.fabricBase
  omega

theorem aside_commit {k : Nat} (h : k < 0x800) : Aside (Page.commitBase + k) := by
  unfold Aside Page.commitBase
  omega

theorem aside_qm {k : Nat} (h : k < 0x1000) : Aside (Page.qmBase + k) := by
  unfold Aside Page.qmBase
  omega

/-- The registers of the power page stand as they did, and a context in RESET is still in RESET. -/
structure Still (s t : State) : Prop where
  sorted : Store.Sorted s.regs → Store.Sorted t.regs
  power : Store.Sorted s.regs → ∀ l : Loc, 0x50000 ≤ l.addr → l.addr < 0x58000 → t.rf l = s.rf l
  reset : Store.Sorted s.regs → ∀ c : Fin 64, s.cstate c = stReset → t.cstate c = stReset

section Steps

variable {s0 s t : State}

theorem Still.refl (s : State) : Still s s := ⟨id, fun _ _ _ _ => rfl, fun _ _ h => h⟩

theorem Still.trans {u : State} (h1 : Still s t) (h2 : Still t u) : Still s u :=
  ⟨fun h => h2.sorted (h1.sorted h), fun h l ha hb => (h2.power (h1.sorted h) l ha hb).trans (h1.power h l ha hb),
    fun h c hr => h2.reset (h1.sorted h) c (h1.reset h c hr)⟩

theorem Still.of_spares (hp : ∀ l : Loc, 0x50000 ≤ l.addr → l.addr < 0x58000 → Spares l s t)
    (hc : ∀ c : Fin 64, Spares (R.CMT_CSTAT_STATE c) s t) : Still s t :=
  ⟨(hc 0).sorted, fun hs l ha hb => (hp l ha hb).rf hs, fun hs c hr => ((hc c).rf hs).trans hr⟩

theorem Still.then_regs (hk : Still s0 s) (h : t.regs = s.regs) : Still s0 t :=
  hk.trans (.of_spares (fun _ _ _ => .of_regs h) fun _ => .of_regs h)

/-- An operation that does not touch the registers. -/
theorem Still.then_same {M : Nat} (hk : Still s0 s) (h : Same M s t) (hM : M.testBit 3 = false) : Still s0 t :=
  hk.then_regs (h.regs.resolve_left (by rw [hM]; exact Bool.false_ne_true))

theorem Still.ite {c : Prop} [Decidable c] (h1 : Still s0 s) (h2 : Still s0 t) : Still s0 (if c then s else t) := by
  split
  · exact h1
  · exact h2

theorem Still.foldl {α : Type} {g : State → α → State} (hg : ∀ t x, Still s0 t → Still s0 (g t x)) :
    ∀ (xs : List α) {t : State}, Still s0 t → Still s0 (xs.foldl g t)
  | [], _, h => h
  | x :: xs, _, h => Still.foldl hg xs (hg _ x h)

theorem cstat_aside {a : Nat} (h : Aside a) (c : Fin 64) : (R.CMT_CSTAT_STATE c).addr ≠ a := by
  have := c.isLt
  unfold Aside at h
  unfold R.CMT_CSTAT_STATE A.CMT_CSTAT Page.commitBase
  dsimp only
  omega

theorem power_aside {l : Loc} (ha : 0x50000 ≤ l.addr) (hb : l.addr < 0x58000) {a : Nat} (h : Aside a) : l.addr ≠ a := by
  unfold Aside at h
  omega

theorem Still.setReg (hk : Still s0 s) {a : Nat} (h : Aside a) (w : Word32) : Still s0 (s.setReg a w) :=
  hk.trans (.of_spares (fun _ ha hb => (Spares.refl _ s).setReg (power_aside ha hb h) w) fun c => (Spares.refl _ s).setReg (cstat_aside h c) w)

theorem Still.wf (hk : Still s0 s) {m : Loc} (h : Aside m.addr) (v : Nat) : Still s0 (s.wf m v) := hk.setReg h _

theorem Still.bump (hk : Still s0 s) {m : Loc} (h : Aside m.addr) (n : Nat) : Still s0 (s.bump m n) := hk.wf h _

theorem Still.bump64 (hk : Still s0 s) {m k : Loc} (hm : Aside m.addr) (h : Aside k.addr) (n : Nat) : Still s0 (s.bump64 m k n) :=
  (hk.wf hm _).wf h _

theorem Still.peak (hk : Still s0 s) {m : Loc} (h : Aside m.addr) (v : Nat) : Still s0 (s.peak m v) := by
  unfold State.peak
  exact (hk.wf h v).ite hk

theorem power_cstat {l : Loc} (hb : l.addr < 0x58000) (c : Nat) : l.addr ≠ A.CMT_CSTAT c := by
  unfold A.CMT_CSTAT Page.commitBase
  omega

/-- A field of a context's commit state beside `STATE`. -/
theorem Still.cstat (hk : Still s0 s) {m : Loc} {c : Nat} (ha : m.addr = A.CMT_CSTAT c) (hm : m.Fits) (hlo : 3 ≤ m.lo) (v : Nat) :
    Still s0 (s.wf m v) :=
  hk.trans (.of_spares (fun _ _ hb => (Spares.refl _ s).wf_far (ha ▸ power_cstat hb c) v) fun _ => (Spares.refl (R.CMT_CSTAT_STATE _) s).wf hm (.inr (.inl ((Nat.zero_add 3).le.trans hlo))) v)

theorem Still.dropCond (hk : Still s0 s) (page bit : Nat) : Still s0 (s.dropCond page bit) := hk.then_regs rfl

theorem Still.raiseFor (hk : Still s0 s) {page : Nat} (h : ∀ k, k < 0x28 → Aside (page + k)) (bit : Nat) (c : Option Nat) :
    Still s0 (s.raiseFor page bit c) :=
  have h1 := h 0x10 (by decide)
  have h2 := h 0x20 (by decide)
  have h3 := h 0x24 (by decide)
  hk.trans (.of_spares (fun l ha hb => (Spares.refl l s).raiseFor
      ⟨power_aside (a := A.ERR_STAT page) ha hb h1, power_aside (a := A.ERR_CNT page) ha hb h2, power_aside (a := A.ERR_FIRST page) ha hb h3⟩ bit c)
    fun x => (Spares.refl (R.CMT_CSTAT_STATE x) s).raiseFor
      ⟨cstat_aside (a := A.ERR_STAT page) h1 x, cstat_aside (a := A.ERR_CNT page) h2 x, cstat_aside (a := A.ERR_FIRST page) h3 x⟩ bit c)

theorem Still.raiseSrc (hk : Still s0 s) {page : Nat} (h : ∀ k, k < 0x28 → Aside (page + k)) (bit : Nat) :
    Still s0 (s.raiseSrc page bit) := hk.raiseFor h bit none

/-- R294, R295: what blocks a step blocks no context in RESET. -/
theorem Still.blockCause (hk : Still s0 s) (c bit : Nat) : Still s0 (s.blockCause c bit) := by
  refine hk.trans ⟨fun hs => ((Spares.refl (R.PWR_FLD_STATE 0) s).blockCause (.inl (power_cstat (by decide) c)) bit).sorted hs,
    fun hs l _ hb => ((Spares.refl l s).blockCause (.inl (power_cstat hb c)) bit).rf hs, fun hs x hr => ?_⟩
  by_cases hx : A.CMT_CSTAT x = A.CMT_CSTAT c
  · have hxc : s.cstate c = stReset := by
      have hcx : c = x := by
        unfold A.CMT_CSTAT at hx
        omega
      rw [hcx]
      exact hr
    unfold State.blockCause
    rw [hxc]
    exact hr
  · exact (((Spares.refl (R.CMT_CSTAT_STATE x) s).blockCause (.inl hx) bit).rf hs).trans hr

theorem Still.ctxEvent (hk : Still s0 s) {c : Nat} (h : c < 64) (bit : Nat) : Still s0 (s.ctxEvent c bit) :=
  have ha : Aside (A.HIF_CEVTS c) := by
    unfold Aside A.HIF_CEVTS Page.hostifBase
    omega
  hk.trans (.of_spares (fun l h1 h2 => (Spares.refl l s).ctxEvent (power_aside h1 h2 ha) bit)
    fun x => (Spares.refl (R.CMT_CSTAT_STATE x) s).ctxEvent (cstat_aside ha x) bit)

/-! ### Packets sent, and device memory -/

theorem Still.dropSent (hk : Still s0 s) (x : Pkt) (cause : Nat) : Still s0 (s.dropPkt 8 x cause) := by
  have h1 : Still s0 ((s.bump R.MBL_LDROP_CNT_COUNT 1).raiseSrc Page.fabricBase 0) :=
    (hk.bump (aside_fabric (by decide)) 1).raiseSrc (fun k hk => aside_fabric (by omega)) 0
  unfold State.dropPkt
  rw [if_neg (by decide)]
  refine h1.ite ?_
  exact ((((h1.wf (aside_fabric (by decide)) _).wf (aside_fabric (by decide)) _).wf (aside_fabric (by decide)) _).wf
    (aside_fabric (by decide)) _).wf (aside_fabric (by decide)) _

theorem Still.sendPkt (hk : Still s0 s) (f : Nat) (x : Pkt) : Still s0 (s.sendPkt f x) := by
  unfold State.sendPkt
  dsimp only
  split
  · exact hk.then_regs rfl
  · exact hk.then_regs rfl
  · exact hk.dropSent _ _

theorem Still.reportUe (hk : Still s0 s) (w : Consumer) (a : Nat) : Still s0 (s.reportUe w a) := by
  have h1 : Still s0 ((s.bump (R.HBM_UE_CNT_COUNT (fieldOf a) (s.stackOf a)) 1).raiseFor
      (Page.hbmBase (fieldOf a) (s.stackOf a)) (if w = .scrub then 2 else 1) w.ctx?) :=
    (hk.bump (aside_hbm _ _ _) 1).raiseFor (fun k _ => aside_hbm _ _ k) _ _
  unfold State.reportUe
  dsimp only
  split
  · refine Still.blockCause (h1.ite ?_) _ _
    exact (((((((((h1.wf (aside_hbm _ _ _) _).wf (aside_hbm _ _ _) _).wf (aside_hbm _ _ _) _).wf (aside_hbm _ _ _) _).wf
      (aside_hbm _ _ _) _).wf (aside_hbm _ _ _) _).wf (aside_hbm _ _ _) _).wf (aside_hbm _ _ _) _).wf (aside_hbm _ _ _) _).wf (aside_hbm _ _ _) _
  · refine h1.ite ?_
    exact (((((((((h1.wf (aside_hbm _ _ _) _).wf (aside_hbm _ _ _) _).wf (aside_hbm _ _ _) _).wf (aside_hbm _ _ _) _).wf
      (aside_hbm _ _ _) _).wf (aside_hbm _ _ _) _).wf (aside_hbm _ _ _) _).wf (aside_hbm _ _ _) _).wf (aside_hbm _ _ _) _).wf (aside_hbm _ _ _) _

theorem Still.readWord (hk : Still s0 s) (w : Consumer) (a n : Nat) : Still s0 (s.readWord w a n).2 := by
  have h1 : Still s0 (s.bump64 (R.HBM_RD_LO_COUNT (fieldOf a) (s.stackOf a)) (R.HBM_RD_HI_COUNT (fieldOf a) (s.stackOf a)) 1) :=
    hk.bump64 (aside_hbm _ _ _) (aside_hbm _ _ _) 1
  unfold State.readWord
  dsimp only
  split
  · exact h1.reportUe w a
  · exact h1

theorem Still.hbmRead (hk : Still s0 s) (w : Consumer) (a n : Nat) : Still s0 (s.hbmRead w a n).2 := by
  unfold State.hbmRead
  suffices hf : ∀ (xs : List (Nat × Nat)) (acc : List Byte × State), Still s0 acc.2 →
      Still s0 (xs.foldl (fun (acc : List Byte × State) (e : Nat × Nat) =>
        let (bs, s) := acc.2.readWord w (acc.2.mapAddr e.1) e.2
        (acc.1 ++ bs, s)) acc).2 from hf _ _ hk
  intro xs
  induction xs with
  | nil => exact fun _ ha => ha
  | cons x xs ih => exact fun acc ha => ih _ (ha.readWord w _ _)

theorem Still.fallowWritten (hk : Still s0 s) (w : Win) (a n : Nat) : Still s0 (s.fallowWritten w a n) := by
  have hc : Still s0 { s with coverage := sput s.coverage (a / 4096) () } := hk.then_regs rfl
  have hm : Still s0 (if State.stepCurrent { s with coverage := sput s.coverage (a / 4096) () } (s.region w.region).ctx then
      (State.wf { s with coverage := sput s.coverage (a / 4096) () } (R.CMT_CSTAT_FWRITTEN (s.region w.region).ctx) 1).wf
        (R.CMT_CSTAT_RB (s.region w.region).ctx) 0 else { s with coverage := sput s.coverage (a / 4096) () }) :=
    ((hc.cstat rfl (Nat.le_of_ble_eq_true rfl) (Nat.le_of_ble_eq_true rfl) 1).cstat rfl (Nat.le_of_ble_eq_true rfl) (Nat.le_of_ble_eq_true rfl) 0).ite hc
  unfold State.fallowWritten
  refine hk.ite ?_
  dsimp only
  split
  · exact (hm.then_same (State.setRegion_same (.refl 1073741824 _) rfl _ _) rfl).sendPkt _ _
  · exact hm

theorem Still.writeWord (hk : Still s0 s) (w : Consumer) (a : Nat) (bs : List Byte) : Still s0 (s.writeWord w a bs) := by
  have h1 : Still s0 (if bs.length < 64 then s.bump64 (R.HBM_RD_LO_COUNT (fieldOf (s.mapAddr a)) (s.stackOf (s.mapAddr a)))
      (R.HBM_RD_HI_COUNT (fieldOf (s.mapAddr a)) (s.stackOf (s.mapAddr a))) 1 else s) :=
    (hk.bump64 (aside_hbm _ _ _) (aside_hbm _ _ _) 1).ite hk
  have h2 := h1.bump64 (m := R.HBM_WR_LO_COUNT (fieldOf (s.mapAddr a)) (s.stackOf (s.mapAddr a)))
    (k := R.HBM_WR_HI_COUNT (fieldOf (s.mapAddr a)) (s.stackOf (s.mapAddr a))) (aside_hbm _ _ _) (aside_hbm _ _ _) 1
  unfold State.writeWord
  refine Still.ite (h1.reportUe _ _) ?_
  generalize State.bump64 _ _ _ _ = u at h2 ⊢
  have h3 : Still s0 { u with hbm := u.hbm.writeN granSize (s.mapAddr a) bs, hbmBad := sdel u.hbmBad (s.mapAddr a / 64) } := h2.then_regs rfl
  dsimp only at h3 ⊢
  generalize State.winOf _ a = win
  cases win with
  | none => exact h3
  | some win => exact (h3.fallowWritten _ _ _).ite h3

theorem Still.hbmWrite (hk : Still s0 s) (w : Consumer) (a : Nat) (bs : List Byte) : Still s0 (s.hbmWrite w a bs) :=
  Still.foldl (fun _ _ h => h.writeWord w _ _) _ hk

/-! ### Commands, and what a finished step makes due -/

theorem Still.finishCmd (hk : Still s0 s) (q seq status detail : Nat) : Still s0 (s.finishCmd q seq status detail) := by
  unfold State.finishCmd
  split
  · exact hk
  · split
    · exact hk
    · have hc : ∀ c, Still s0 (s.setCmd q c) := fun c => hk.then_same (State.setCmd_same (.refl 68719476736 s) rfl q c) rfl
      exact ((hc _).blockCause _ _).ite (hc _)

theorem Still.runWatch (hk : Still s0 s) {c : Nat} (h : c < 64) : Still s0 (s.runWatch c) := by
  have ha := aside_context c
  unfold State.runWatch
  refine Still.ite (Still.ctxEvent (Still.ite ?shown (Still.hbmWrite ?shown _ _ _)) h 1) (Still.ite ?shown (Still.hbmWrite ?shown _ _ _))
  refine Still.then_same ?_ (State.setCtx_same (.refl 536870912 _) rfl _ _) rfl
  refine Still.setReg (Still.wf (Still.wf (Still.wf (Still.wf (Still.wf (Still.setReg (Still.setReg ?flags (ha _) _) (ha _) _) (ha _) _) (ha _) _)
    (ha _) _) (ha _) _) (ha _) _) (ha _) _
  exact ((((((hk.setReg (ha _) _).wf (ha _) _).wf (ha _) _).wf (ha _) _).wf (ha _) _).wf (ha _) _).wf (ha _) _

theorem Still.reportDue (hk : Still s0 s) {c : Nat} (h : c < 64) : Still s0 (s.reportDue c) := by
  unfold State.reportDue
  exact hk.ite (hk.runWatch h)

theorem Still.mirrorEnds (hk : Still s0 s) (c : Nat) (queued : Bool) : Still s0 (s.mirrorEnds c queued) := by
  unfold State.mirrorEnds
  exact hk.ite (Still.foldl (fun _ _ h => Still.ite ((h.then_same (State.setRegion_same (.refl 1073741824 _) rfl _ _) rfl).sendPkt _ _) h) _ hk)

/-- R295(1): only a context that has streams is ready for its step's end, and streams belong to contexts below 64. -/
theorem allStepped_lt {c : Nat} (h : s.allStepped c = true) : c < 64 := by
  unfold State.allStepped at h
  obtain ⟨hne, -⟩ := Bool.and_eq_true_iff.mp h
  obtain ⟨p, hp⟩ := List.exists_mem_of_ne_nil ((s.streamsOf c).filter fun p => (s.st p).gotLaunch) fun h0 => by
    rw [h0] at hne
    exact Bool.false_ne_true hne
  have hmem := (List.mem_filter.mp hp).1
  unfold State.streamsOf at hmem
  obtain ⟨hin, hc⟩ := List.mem_filter.mp hmem
  obtain ⟨e, -, rfl⟩ := List.mem_map.mp hin
  have hc := eq_of_beq hc
  dsimp only at hc
  omega

theorem Still.stepProgress (hk : Still s0 s) (c : Nat) : Still s0 (s.stepProgress c) := by
  unfold State.stepProgress
  by_cases ha : s.allStepped c = true
  · exact hk.ite ((hk.reportDue (allStepped_lt ha)).mirrorEnds c _)
  · rw [if_pos (by rw [eq_false_of_ne_true ha]; rfl)]
    exact hk

end Steps

end Sys2Proof.Machine


/-! What the collective engines do leaves the power registers and a context in RESET alone (R258 to R283): O55. -/

namespace Sys2Proof.Machine

section Engines

variable {s0 s : State}

theorem Still.showOps (hk : Still s0 s) (f : Nat) : Still s0 (s.showOps f) := hk.wf (aside_coll f _) _

theorem Still.setOp (hk : Still s0 s) (o : ColOp) : Still s0 (s.setOp o) := hk.then_regs rfl

theorem Still.failOp (hk : Still s0 s) (o : ColOp) (st : Nat) : Still s0 (s.failOp o st) := by
  unfold State.failOp
  exact (hk.setOp _).ite hk

theorem Still.setEng (hk : Still s0 s) (f : Nat) (e : ColEng) : Still s0 (s.setEng f e) := hk.then_regs rfl

/-! ### Bytes and chunks -/

theorem Still.colRead (hk : Still s0 s) (o : ColOp) (d : Desc) (a n : Nat) : Still s0 (s.colRead o d a n).2.2 := by
  unfold State.colRead
  split
  · split
    · exact hk
    · exact hk.failOp o 10
  · split
    · exact hk.failOp o _
    · exact hk.hbmRead o.who a n

theorem Still.colWrite (hk : Still s0 s) (o : ColOp) (d : Desc) (a : Nat) (b : List Byte) : Still s0 (s.colWrite o d a b) := by
  unfold State.colWrite
  split
  · refine Still.foldl (fun t l h => ?_) _ hk
    split
    · exact h.then_regs rfl
    · exact h.failOp o 10
  · exact (hk.failOp o _).ite (hk.hbmWrite _ _ _)

theorem Still.storeAt (hk : Still s0 s) (o : ColOp) (d : Desc) (e : Nat) (x : List Byte × List Byte) : Still s0 (s.storeAt o d e x) := by
  have h1 := fun (a : Nat) => hk.colWrite o d a x.1
  unfold State.storeAt
  exact ((h1 _).colWrite o d _ x.2).ite (h1 _)

theorem Still.spill (hk : Still s0 s) (o : ColOp) (key : Nat) (v : List Word32) : Still s0 (s.spill o key v) := by
  unfold State.spill
  exact hk.ite ((hk.failOp _ _).ite ((hk.setOp _).hbmWrite _ _ _))

theorem Still.heldVal (hk : Still s0 s) (o : ColOp) (i k j : Nat) (v : List Word32) : Still s0 (s.heldVal o i k j v).2 := by
  unfold State.heldVal
  split
  · exact hk
  · have h1 := fun (a n : Nat) => hk.hbmRead o.who a n
    exact Still.ite ((h1 _ _).failOp o _) (h1 _ _)

theorem Still.sendChunk (hk : Still s0 s) (o : ColOp) (ptype : Nat) (m : Member) (kind node shard e fmt : Nat) (b : List Byte) (trunc : Bool) :
    Still s0 (s.sendChunk o ptype m kind node shard e fmt b trunc) := hk.sendPkt _ _

theorem Still.dataHere (hk : Still s0 s) (o : ColOp) (i e fmt n : Nat) (b : List Byte) : Still s0 (s.dataHere o i e fmt n b) := by
  unfold State.dataHere
  exact Still.foldl (fun _ _ h => h.sendChunk ..) _ ((hk.storeAt ..).setOp _)

theorem Still.rootHere (hk : Still s0 s) (o : ColOp) (i j : Nat) (v : List Word32) : Still s0 (s.rootHere o i j v) := by
  unfold State.rootHere
  exact Still.ite ((hk.setOp _).dataHere ..) (((hk.setOp _).storeAt ..).setOp _)

theorem Still.valueHere (hk : Still s0 s) (o : ColOp) (i k j kind : Nat) (v : List Word32) (raw : List Byte) :
    Still s0 (s.valueHere o i k j kind v raw) := by
  unfold State.valueHere
  exact Still.ite (((hk.setOp _).sendChunk ..).setOp _) (Still.ite ((hk.setOp _).rootHere ..) (hk.setOp _))

theorem Still.tryNode (hk : Still s0 s) (o : ColOp) (i j k : Nat) : Still s0 (s.tryNode o i j k) := by
  unfold State.tryNode
  refine Still.ite hk ?_
  dsimp only
  split
  · exact Still.valueHere (Still.bump64 ((hk.heldVal ..).heldVal ..) (aside_coll _ _) (aside_coll _ _) _) ..
  · exact hk

theorem Still.runChunk (hk : Still s0 s) (o : ColOp) (i j : Nat) : Still s0 (s.runChunk o i j) := by
  have h1 := fun (l : List Nat) => Still.foldl (s0 := s0) (g := fun s k => State.tryNode s o i j k) (fun _ _ h => h.tryNode o i j _) l hk
  unfold State.runChunk
  exact (h1 _).ite (Still.foldl (fun _ _ h => h.spill o _ _) _ (h1 _))

theorem Still.sourceChunk (hk : Still s0 s) (o : ColOp) (host : List Byte) (e n : Nat) : Still s0 (s.sourceChunk o host e n).2 := by
  have hread : ∀ {t : State}, Still s0 t → ∀ (d : Desc) (a m : Nat),
      Still s0 (if (t.colRead o d a m).2.1 then (t.colRead o d a m).2.2.failOp o uncorrected else (t.colRead o d a m).2.2) :=
    fun h d a m => ((h.colRead o d a m).failOp o _).ite (h.colRead o d a m)
  unfold State.sourceChunk
  dsimp only
  split
  · exact hk
  · split
    · exact hread (hread hk _ _ _) _ _ _
    · exact hread hk _ _ _

/-! ### What an accepted operation starts with -/

theorem Still.startReduce (hk : Still s0 s) (o : ColOp) : Still s0 (s.startReduce o) := by
  unfold State.startReduce
  refine Still.foldl (fun t i ht => Still.foldl (fun u j hu => Still.runChunk (Still.foldl (fun w x hw => ?_) _ hu) o i j) _ ht) _ hk
  exact Still.valueHere (((hw.colRead ..).failOp o _).ite (hw.colRead ..)) ..

theorem Still.startGather (hk : Still s0 s) (o : ColOp) : Still s0 (s.startGather o) := by
  unfold State.startGather
  exact hk.ite (Still.foldl (fun _ _ h => Still.dataHere (h.sourceChunk ..) ..) _ hk)

theorem Still.startSow (hk : Still s0 s) (o : ColOp) (host : List Byte) : Still s0 (s.startSow o host) := by
  unfold State.startSow
  exact hk.ite (Still.foldl (fun _ _ h => Still.dataHere (h.sourceChunk ..) ..) _ hk)

/-! ### The packets an operation takes -/

theorem Still.discardPkt (hk : Still s0 s) (f : Nat) (x : Pkt) (cause : Nat) : Still s0 (s.discardPkt f x cause) := by
  have ha := aside_coll f
  have h1 : Still s0 ((s.bump (R.COL_RXDROP_COUNT f) 1).raiseSrc (Page.collengBase f) 0) := (hk.bump (ha _) 1).raiseSrc (fun k _ => ha k) 0
  unfold State.discardPkt
  exact h1.ite ((((((h1.wf (ha _) _).wf (ha _) _).wf (ha _) _).wf (ha _) _).wf (ha _) _).wf (ha _) _)

theorem Still.feedOp (hk : Still s0 s) (o : ColOp) (x : Pkt) : Still s0 (s.feedOp o x) := by
  unfold State.feedOp
  exact Still.ite (hk.dataHere ..) (Still.ite ((hk.setOp _).rootHere ..) ((hk.setOp _).runChunk ..))

theorem Still.takePkt (hk : Still s0 s) (o : ColOp) (x : Pkt) : Still s0 (s.takePkt o x) := by
  unfold State.takePkt
  exact (hk.discardPkt _ _ _).ite ((hk.discardPkt _ _ _).ite ((hk.discardPkt _ _ _).ite (hk.feedOp o x)))

theorem aside_occ (f c : Nat) : Aside (A.COL_EARLY_OCC f c) := by
  refine aside_high ?_
  unfold A.COL_EARLY_OCC Page.collengBase Page.fieldBase
  omega

theorem Still.drainEarly (hk : Still s0 s) (o : ColOp) : Still s0 (s.drainEarly o) := by
  have hshow : ∀ {t : State}, Still s0 t → Still s0 (t.showEarly o.field o.ctx) :=
    fun h => Still.peak (h.wf (aside_occ ..) _) (aside_occ ..) _
  have hfold := fun (e : ColEng) (l : List (Nat × Pkt)) =>
    hshow (Still.foldl (g := fun t x => State.takePkt t (t.opNow o) x.2) (fun _ _ h => h.takePkt _ _) l (hk.setEng o.field e))
  unfold State.drainEarly State.easeEarly
  exact (hfold _ _).ite ((hfold _ _).dropCond _ _)

/-! ### Ends and acceptance -/

theorem Still.swapEnded (hk : Still s0 s) (c q seq st : Nat) : Still s0 (s.swapEnded c q seq st) := by
  unfold State.swapEnded
  dsimp only
  split
  · exact hk
  · unfold State.markLayer
    exact Still.wf ((hk.then_same (State.setSrv_same (.refl 2199023255552 _) rfl _ _) rfl).then_same
      (State.setSrv_same (.refl 2199023255552 _) rfl _ _) rfl) (aside_serving c _) _

theorem Still.tellUser (hk : Still s0 s) (o : ColOp) (st : Nat) (fence : Bool) (u : ColUser) : Still s0 (s.tellUser o st fence u) := by
  cases u with
  | stream _ _ sem _ => exact hk.ite (hk.then_same (State.signal_same (.refl 67108864 _) rfl _ _ _) rfl)
  | cmd q seq => exact hk.finishCmd ..
  | swap q seq => exact (hk.finishCmd ..).swapEnded ..
  | prefetch => exact hk

theorem Still.putStatus (hk : Still s0 s) (o : ColOp) (st : Nat) : Still s0 (s.putStatus o st) := by
  unfold State.putStatus
  exact hk.ite (hk.hbmWrite _ _ _)

theorem Still.noteFail (hk : Still s0 s) (o : ColOp) (st : Nat) : Still s0 (s.noteFail o st) := by
  have ha := aside_coll o.field
  have h1 : Still s0 ((s.bump (R.COL_OPFAIL_CNT_COUNT o.field) 1).raiseFor (Page.collengBase o.field) 1 (some o.ctx)) :=
    (hk.bump (ha _) 1).raiseFor (fun k _ => ha k) 1 _
  have h2 := Still.ite (c := o.bound = true) (h1.blockCause o.ctx 3) h1
  unfold State.noteFail
  exact hk.ite (h2.ite ((((h2.wf (ha _) _).wf (ha _) _).wf (ha _) _).wf (ha _) _))

theorem Still.endOp (hk : Still s0 s) (o : ColOp) (st : Nat) (fence : Bool) : Still s0 (s.endOp o st fence) := by
  have hsum : ∀ {t : State}, Still s0 t → ∀ (c : Nat) (k : Counts), Still s0 (if k = {} then t else (t.addTotals c k).reopenReport c) :=
    fun h c k => h.ite (h.then_same (State.reopenReport_same (State.addTotals_same (.refl 536870912 _) rfl _ _) rfl _) rfl)
  unfold State.endOp
  exact Still.stepProgress (Still.foldl (fun _ _ h => h.tellUser ..) _ (Still.showOps (Still.setEng (Still.noteFail (hsum (hk.putStatus ..) ..) ..) ..) _)) _

theorem Still.endAtOnce (hk : Still s0 s) (o : ColOp) (st : Nat) : Still s0 (s.endAtOnce o st) := by
  unfold State.endAtOnce
  exact (((hk.setEng _ _).showOps _).endOp _ _ _).drainEarly _

theorem Still.acceptCol (hk : Still s0 s) (f c desc : Nat) (u : ColUser) (step : Nat) (bound : Bool) (host : List Byte) :
    Still s0 (s.acceptCol f c desc u step bound host) := by
  have hread : ∀ (p : Bool) (w : Consumer), Still s0 (if p then ([], s) else s.hbmRead w desc 128).2 := fun p w => by
    split
    · exact hk
    · exact hk.hbmRead w desc 128
  have htab : ∀ (p : Bool) {t : State}, Still s0 t → ∀ (w : Consumer) (d : Desc), Still s0 (if p then t.readTables w d else ([], t)).2 :=
    fun p _ ht w d => by
      split
      · exact ht.hbmRead w _ _
      · exact ht
  have h := fun (p q : Bool) (w : Consumer) (d : Desc) => htab q (hread p w) w d
  have hstart : ∀ {t : State}, Still s0 t → ∀ (b r : Bool) (o : ColOp),
      Still s0 (if b then t.failOp o uncorrected else if r then t.failOp o refusedStatus else t) :=
    fun ht b r o => (ht.failOp ..).ite ((ht.failOp ..).ite ht)
  unfold State.acceptCol
  dsimp only
  refine Still.ite (Still.tellUser (Still.noteFail (h ..) ..) ..) (Still.ite (Still.endAtOnce (h ..) ..) (Still.ite ?invalid
    (Still.ite (Still.endAtOnce (h ..) ..) ?starts)))
  case invalid => exact Still.ite (Still.tellUser (Still.noteFail (Still.putStatus (h ..) ..) ..) ..) (Still.endAtOnce (h ..) ..)
  case starts =>
    refine Still.drainEarly (Still.ite (Still.startReduce ?_ _) (Still.ite (Still.startSow ?_ ..) (Still.startGather ?_ _))) _ <;>
      exact hstart (Still.showOps (Still.setEng (h ..) ..) _) ..

theorem Still.admitCols (f : Nat) : ∀ (n : Nat) {s : State}, Still s0 s → Still s0 (State.admitCols f n s)
  | 0, _, hk => hk
  | n + 1, s, hk => by
    unfold State.admitCols
    dsimp only
    split
    · exact Still.ite (Still.admitCols f n ((hk.setEng _ _).acceptCol ..)) hk
    · exact hk

theorem Still.nextWaiting (hk : Still s0 s) (f : Nat) : Still s0 (s.nextWaiting f) := hk.admitCols f _

end Engines

end Sys2Proof.Machine


/-! What the loss of a field's regions changes (R297, R300, R436 to R444): O55. -/

namespace Sys2Proof.Machine

section Losses

variable {s0 s : State}

/-! ### Serving contexts -/

theorem Still.setSrv (hk : Still s0 s) (c : Nat) (x : ServSt) : Still s0 (s.setSrv c x) := hk.then_regs rfl

theorem Still.enterSwap (hk : Still s0 s) {c : Nat} (h : c < 64) (st : Nat) : Still s0 (s.enterSwap c st) := by
  have h1 := fun x => (hk.setSrv c x).wf (m := R.SRV_SWAP_STATE c) (aside_serving c _) st
  unfold State.enterSwap
  exact Still.ite (Still.ctxEvent ((h1 _).then_same (same_u1099511627776 (.refl 1099511627776 _) rfl) rfl) h 2) (h1 _)

theorem Still.swapAtBoundary (hk : Still s0 s) {c : Nat} (h : c < 64) : Still s0 (s.swapAtBoundary c) := by
  unfold State.swapAtBoundary
  exact (hk.enterSwap h _).ite hk

theorem Still.showServ (hk : Still s0 s) (c : Nat) : Still s0 (s.showServ c) := by
  have hpool : ∀ i, Aside (A.SRV_POOL_FREE c i) := fun i => aside_high (by unfold A.SRV_POOL_FREE Page.servingBase; omega)
  unfold State.showServ
  exact Still.wf (Still.wf (Still.foldl (fun _ i h => h.wf (hpool i) _) _ hk) (aside_serving c _) _) (aside_serving c _) _

theorem Still.servAbort (hk : Still s0 s) {c : Nat} (h : c < 64) : Still s0 (s.servAbort c) := by
  unfold State.servAbort
  refine Still.swapAtBoundary (Still.showServ ?_ c) h
  split
  · exact hk.setSrv c _
  · exact hk

theorem Still.servLose (hk : Still s0 s) {c : Nat} (h : c < 64) (f : Nat) : Still s0 (s.servLose c f) := by
  have h1 := fun x n => (hk.setSrv c x).bump (m := R.SRV_LOST_CNT_COUNT c) (aside_serving c _) n
  unfold State.servLose
  exact Still.ite ((h1 _ _).wf (aside_serving c _) _) (Still.ite (((h1 _ _).showServ c).swapAtBoundary h) ((h1 _ _).showServ c))

/-! ### Commands that an abort ends -/

theorem Still.setQueue (hk : Still s0 s) (q : Nat) (y : QueueSt) : Still s0 (s.setQueue q y) := hk.then_regs rfl

theorem Still.queueError (hk : Still s0 s) (q cause : Nat) : Still s0 (s.queueError q cause) := by
  have h1 := ((hk.wf (m := R.QM_QSTAT_STATE q) (aside_queue q _) qError).wf (m := R.QM_QSTAT_CAUSE q) (aside_queue q _) cause).raiseFor
    (page := Page.qmBase) (fun k hk => aside_qm (by omega)) 0
  unfold State.queueError
  exact hk.ite ((h1 _).ite (((h1 _).wf (aside_qm (by decide)) _).wf (aside_qm (by decide)) _))

theorem Still.sendMsg (hk : Still s0 s) (f v : Nat) : Still s0 (s.sendMsg f v) := hk.then_same (State.sendMsg_same (.refl 9216 _) rfl f v) rfl

theorem Still.writeCpl (hk : Still s0 s) (q : Nat) (ok : Bool) : Still s0 (s.writeCpl q ok) := by
  unfold State.writeCpl
  split
  · exact hk
  · have h1 := fun y => (hk.setQueue q y).wf (m := R.QM_QDONE_COUNT q) (aside_queue q _)
    have h2 : ∀ {t : State}, Still s0 t → ∀ (p : Bool) (w : Consumer) (g a : Nat) (b : List Byte),
        Still s0 (if p then t.hbmWrite w a b else t.hostWrite g a b) := fun h p w g a b => (h.hbmWrite w a b).ite (h.then_regs rfl)
    exact Still.ite (Still.ite (Still.sendMsg (h2 (h1 _ _) ..) ..) (h2 (h1 _ _) ..)) ((h1 _ _).queueError q 3)

theorem Still.flushFuel (q : Nat) : ∀ (n : Nat) {s : State}, Still s0 s → Still s0 (s.flushFuel q n)
  | 0, _, hk => hk
  | n + 1, _, hk => by
    unfold State.flushFuel
    exact Still.ite (Still.flushFuel q n (hk.writeCpl q true)) hk

theorem Still.passDead (q : Nat) : ∀ (n : Nat) {s : State}, Still s0 s → Still s0 (s.passDead q n)
  | 0, _, hk => hk
  | n + 1, _, hk => by
    unfold State.passDead
    dsimp only
    split
    · exact hk.ite (Still.passDead q n (((hk.setQueue q _).setQueue q _).wf (aside_queue q _) _))
    · exact hk

theorem Still.abortQueue (hk : Still s0 s) (rings : Rings) (n q : Nat) : Still s0 (s.abortQueue rings n q) := by
  have h1 := fun y m => Still.passDead q m (hk.setQueue q y)
  unfold State.abortQueue State.flushQueue
  exact Still.ite (Still.flushFuel q _ (h1 _ _)) (h1 _ _)

theorem Still.abortCmds (hk : Still s0 s) (rings : Rings) (c : Nat) : Still s0 (s.abortCmds rings c) := by
  unfold State.abortCmds
  exact Still.foldl (fun _ _ h => h.abortQueue rings _ _) _ (hk.then_regs rfl)

/-! ### The abandoned step and the lost regions -/

/-- What stops of a context: its launches, transfers and collective operations, before the engines go on. -/
def State.workDropped (s : State) (c : Nat) : State :=
  let keep := fun (l : List Xfer) => l.filter fun x => x.owner.ctx != c
  { s with
    furrows := s.furrows.map fun e => (e.1, e.2.abandon c (s.stepOf c))
    seqRuns := s.seqRuns.filter fun r => r.ctx != c
    shadows := s.shadows.filter fun x => x.owner.ctx != c
    barriers := s.barriers.filter fun e =>
      !(if e.1 < 2 ^ 20 then e.1 / 16 % 64 == c else e.1 % 2 ^ 20 / 16 % 64 == c)
    dma := s.dma.map fun e =>
      (e.1,
        { waiting := keep e.2.waiting, handoff := keep e.2.handoff,
          active := e.2.active.filter fun x => x.2.owner.ctx != c })
    engines := s.engines.map fun e =>
      (e.1,
        { e.2 with
          ops := e.2.ops.filter fun o => o.ctx != c
          waiting := e.2.waiting.filter fun w => w.ctx != c }) }

theorem workDropped_parts (s : State) (c : Nat) : (s.workDropped c).regs = s.regs ∧ (s.workDropped c).fences = s.fences := ⟨rfl, rfl⟩

theorem stopWork_eq (s : State) (c : Nat) : s.stopWork c =
    (List.range 4).foldl (fun s f => ((s.feedDma f).showOps f).nextWaiting f) (((s.streamsOf c).foldl State.idleStream s).workDropped c) := rfl

theorem Still.stopWork (hk : Still s0 s) (c : Nat) : Still s0 (s.stopWork c) := by
  rw [stopWork_eq]
  refine Still.foldl (fun t f ht => ?_) _ (Still.then_regs (Still.foldl (fun t p ht => ?_) _ hk) (workDropped_parts _ c).1)
  · exact ((ht.then_same (State.feedDma_same (.refl 16777216 t) rfl f) rfl).showOps f).nextWaiting f
  · exact ht.then_same (State.idleStream_same (.refl 4303355904 t) rfl p) rfl

theorem Still.abandonStep (hk : Still s0 s) (rings : Rings) (c : Nat) : Still s0 (s.abandonStep rings c) := by
  have h1 := ((hk.stopWork c).then_same (State.undefOnChip_same (.refl 6815746 _) rfl c) rfl).then_same
    (State.clearCovers_same (.refl 2147483648 _) rfl c) rfl
  have h2 := fun x => h1.then_same (State.setCtx_same (.refl 536870912 _) rfl c x) rfl
  unfold State.abandonStep
  refine Still.abortCmds ?_ rings c
  refine Still.cstat (c := c) (Still.cstat (c := c) (Still.cstat (c := c) (Still.cstat (c := c) (h2 _) rfl ?_ ?_ _) rfl ?_ ?_ _) rfl ?_ ?_ _) rfl ?_ ?_ _ <;>
    exact Nat.le_of_ble_eq_true rfl

theorem Still.foldl_mem {α : Type} {g : State → α → State} :
    ∀ (xs : List α) {t : State}, (∀ t x, x ∈ xs → Still s0 t → Still s0 (g t x)) → Still s0 t → Still s0 (xs.foldl g t)
  | [], _, _, h => h
  | x :: xs, _, hg, h => Still.foldl_mem xs (fun t y hy => hg t y (List.mem_cons_of_mem _ hy)) (hg _ x List.mem_cons_self h)

/-- A context that enters RESET. -/
theorem Still.toReset (hk : Still s0 s) (c : Fin 64) : Still s0 (s.wf (R.CMT_CSTAT_STATE c) stReset) := by
  refine hk.trans ⟨fun hs => sorted_wf hs _ _, fun hs l _ hb => ((Spares.refl l s).wf_far (power_cstat hb c) _).rf hs, fun hs x hr => ?_⟩
  by_cases hx : x = c
  · rw [hx]
    exact rf_wf_self hs (Nat.le_of_ble_eq_true rfl) _
  · refine (((Spares.refl (R.CMT_CSTAT_STATE x) s).wf_far (m := R.CMT_CSTAT_STATE c) (fun h => hx (Fin.ext ?_)) _).rf hs).trans hr
    have h : A.CMT_CSTAT x = A.CMT_CSTAT c := h
    unfold A.CMT_CSTAT at h
    omega

/-- The context after its step has been abandoned, before it enters RESET. -/
def State.regionGone (s : State) (rings : Rings) (c : Nat) : State :=
  let s :=
    if s.stepCurrent c then
      let n := s.stepOf c
      let s := s.abandonStep rings c
      (s.setCtx c { s.ctx c with aborted := some n }).wf (R.CMT_CSTAT_REPLAYABLE c) 1
    else s.clearCovers c
  if s.serving c then s.servAbort c else s

theorem loseRegion_eq (s : State) (rings : Rings) (c : Nat) : s.loseRegion rings c =
    (((s.regionGone rings c).wf (R.CMT_CSTAT_STATE c) stReset).wf (R.CMT_CSTAT_RB c) 0).raiseFor Page.commitBase 2 (some c) := rfl

theorem Still.regionGone (hk : Still s0 s) (rings : Rings) (c : Fin 64) : Still s0 (s.regionGone rings c) := by
  have h1 := fun x => (hk.abandonStep rings c).then_same (State.setCtx_same (.refl 536870912 _) rfl c x) rfl
  have h2 := hk.then_same (State.clearCovers_same (.refl 2147483648 s) rfl c) rfl
  have h3 := fun x => ((h1 x).cstat (m := R.CMT_CSTAT_REPLAYABLE c) rfl (Nat.le_of_ble_eq_true rfl) (Nat.le_of_ble_eq_true rfl) 1).ite
    (c := s.stepCurrent c = true) h2
  unfold State.regionGone
  exact Still.ite ((h3 _).servAbort c.isLt) (h3 _)

/-- What follows once the context is in RESET. -/
theorem Still.regionNoted (hk : Still s0 s) (c : Nat) : Still s0 ((s.wf (R.CMT_CSTAT_RB c) 0).raiseFor Page.commitBase 2 (some c)) :=
  (hk.cstat (c := c) rfl (Nat.le_of_ble_eq_true rfl) (Nat.le_of_ble_eq_true rfl) 0).raiseFor (fun k _ => aside_commit (by omega)) 2 _

theorem Still.loseRegion (hk : Still s0 s) (rings : Rings) (c : Fin 64) : Still s0 (s.loseRegion rings c) := by
  rw [loseRegion_eq]
  exact ((hk.regionGone rings c).toReset c).regionNoted c

/-- R300: a context that loses a region is in RESET. -/
theorem cstate_loseRegion (hs : Store.Sorted s.regs) (rings : Rings) (c : Fin 64) : (s.loseRegion rings c).cstate c = stReset := by
  rw [loseRegion_eq]
  have h1 := ((Still.refl s).regionGone rings c).sorted hs
  exact ((Still.refl _).regionNoted c).reset (sorted_wf h1 _ _) c (rf_wf_self h1 (Nat.le_of_ble_eq_true rfl) _)

theorem regions_lost (rings : Rings) : ∀ (l : List Nat) {s : State}, (∀ c ∈ l, c < 64) → Store.Sorted s.regs →
    Still s (l.foldl (fun s c => s.loseRegion rings c) s) ∧ ∀ c : Fin 64, c.val ∈ l → (l.foldl (fun s c => s.loseRegion rings c) s).cstate c = stReset
  | [], s, _, _ => ⟨.refl s, fun _ h => nomatch h⟩
  | c :: l, s, hl, hs => by
    have h1 : Still s (s.loseRegion rings c) := (Still.refl s).loseRegion rings ⟨c, hl c List.mem_cons_self⟩
    obtain ⟨h2, h3⟩ := regions_lost rings l (fun d hd => hl d (List.mem_cons_of_mem _ hd)) (h1.sorted hs)
    refine ⟨h1.trans h2, fun d hd => ?_⟩
    rcases List.mem_cons.mp hd with rfl | hd
    · exact h2.reset (h1.sorted hs) d (cstate_loseRegion hs rings d)
    · exact h3 d hd

theorem Still.loseMirrors (hk : Still s0 s) (f : Nat) : Still s0 (s.loseMirrors f) := by
  unfold State.loseMirrors
  exact Still.foldl (fun _ _ h => Still.ite ((h.then_same (State.setRegion_same (.refl 1073741824 _) rfl _ _) rfl).raiseFor
    (fun k _ => aside_commit (by omega)) 2 _) h) _ hk

theorem Still.releaseField (hk : Still s0 s) (f : Nat) : Still s0 (s.releaseField f) := by
  unfold State.releaseField
  exact Still.foldl (fun _ c h => (h.cstat (c := c) rfl (Nat.le_of_ble_eq_true rfl) (Nat.le_of_ble_eq_true rfl) _).ite h) _ (hk.then_regs rfl)

/-! ### The end of a field's reset -/

/-- R443(3), R444: the regions and the serving pools that the field held are lost. -/
def State.fieldLost (s : State) (rings : Rings) (f : Nat) : State :=
  let own := (List.range 64).filter fun c => s.ownIn c f
  let s := (own.foldl (fun s c => s.loseRegion rings c) s).loseMirrors f
  (List.range 64).foldl (fun s c => if s.serving c then s.servLose c f else s) s

/-- R443(4): the command that reset the field has ended. -/
def State.resetEnded (s : State) (f : Nat) : State :=
  match sget? s.pwr.resets f with
  | some (q, seq) => { s with pwr := { s.pwr with resets := sdel s.pwr.resets f } }.finishCmd q seq okStatus 0
  | none => s

theorem endReset_eq (s : State) (rings : Rings) (f : Nat) (up : Bool) :
    s.endReset rings f up = (if up then (s.fieldLost rings f).releaseField f else s.fieldLost rings f).resetEnded f := rfl

theorem fieldLost_still (hs : Store.Sorted s.regs) (rings : Rings) (f : Nat) :
    Still s (s.fieldLost rings f) ∧ ∀ c : Fin 64, s.ownIn c f = true → (s.fieldLost rings f).cstate c = stReset := by
  obtain ⟨h1, h2⟩ := regions_lost rings ((List.range 64).filter fun c => s.ownIn c f) (s := s)
    (fun c hc => List.mem_range.mp (List.mem_filter.mp hc).1) hs
  have h3 : ∀ {t : State}, Still t ((List.range 64).foldl (fun s c => if s.serving c then s.servLose c f else s) (t.loseMirrors f)) :=
    fun {t} => Still.foldl_mem _ (fun u c hc hu => (hu.servLose (List.mem_range.mp hc) f).ite hu) ((Still.refl t).loseMirrors f)
  unfold State.fieldLost
  exact ⟨h1.trans h3, fun c hc => h3.reset (h1.sorted hs) c (h2 c (List.mem_filter.mpr ⟨List.mem_range.mpr c.isLt, hc⟩))⟩

theorem fieldLost_pwr (s : State) (rings : Rings) (f : Nat) : (s.fieldLost rings f).pwr = s.pwr := by
  have h : Same 4346506487306 s (s.fieldLost rings f) := by
    unfold State.fieldLost
    exact foldl_same (fun _ _ h => ite_same (State.servLose_same h rfl _ _) h)
      (State.loseMirrors_same (foldl_same (fun _ _ h => State.loseRegion_same h rfl rings _) (.refl _ s)) rfl f)
  exact h.pwr.resolve_left (by decide)

theorem resetEnded_still (hk : Still s0 s) (f : Nat) : Still s0 (s.resetEnded f) := by
  unfold State.resetEnded
  split
  · refine Still.finishCmd ?_ ..
    exact hk.then_regs rfl
  · exact hk

/-! ### The fences of fields -/

/-- The fences of the fields are as they were. -/
def SameFences (s t : State) : Prop := ∀ f : Nat, t.isFenced (.field f) = s.isFenced (.field f)

theorem SameFences.then_same {M : Nat} (hk : SameFences s0 s) {t : State} (h : Same M s t) (hM : M.testBit 32 = false) : SameFences s0 t :=
  fun f => (isFenced_of_fences (h.fences.resolve_left (by rw [hM]; exact Bool.false_ne_true)) _).trans (hk f)

theorem isFenced_endFence_ne (s : State) {d e : Dom} (h : e ≠ d) : (s.endFence d).isFenced e = s.isFenced e := by
  have hf : (s.fences.filter fun x => x.1 != d).find? (fun x => x.1 == e) = s.fences.find? fun x => x.1 == e := by
    rw [List.find?_filter]
    refine congrArg (fun p => List.find? p s.fences) (funext fun x => ?_)
    by_cases hx : x.1 = e
    · simp [hx, h]
    · simp [hx]
  show (((s.fences.filter fun x => x.1 != d).find? fun x => x.1 == e).map Prod.snd).isSome = _
  rw [hf]
  rfl

theorem SameFences.foldl {α : Type} {g : State → α → State} (hg : ∀ t x, SameFences s0 t → SameFences s0 (g t x)) :
    ∀ (xs : List α) {t : State}, SameFences s0 t → SameFences s0 (xs.foldl g t)
  | [], _, h => h
  | x :: xs, _, h => SameFences.foldl hg xs (hg _ x h)

theorem SameFences.idleStream (hk : SameFences s0 s) (p : At) : SameFences s0 (s.idleStream p) := fun f => by
  unfold State.idleStream
  refine (isFenced_endFence_ne _ Dom.noConfusion).trans ?_
  exact hk.then_same (State.setSt_same (.refl 8388608 s) rfl p _) rfl f

theorem SameFences.stopWork (hk : SameFences s0 s) (c : Nat) : SameFences s0 (s.stopWork c) := by
  rw [stopWork_eq]
  refine SameFences.foldl (fun t f ht => ?_) _ fun f => (isFenced_of_fences (workDropped_parts _ c).2 _).trans ?_
  · exact ht.then_same (State.nextWaiting_same (State.showOps_same (State.feedDma_same (.refl 4204321154058 t) rfl f) rfl f) rfl f) rfl
  · exact SameFences.foldl (fun _ p ht => ht.idleStream p) _ hk f

theorem SameFences.ite {c : Prop} [Decidable c] {t : State} (h1 : SameFences s0 s) (h2 : SameFences s0 t) : SameFences s0 (if c then s else t) := by
  split
  · exact h1
  · exact h2

theorem SameFences.abandonStep (hk : SameFences s0 s) (rings : Rings) (c : Nat) : SameFences s0 (s.abandonStep rings c) := by
  unfold State.abandonStep
  refine (hk.stopWork c).then_same (M := 1043147105802) ?_ rfl
  exact State.abortCmds_same (State.wf_same (State.wf_same (State.wf_same (State.wf_same (State.setCtx_same (State.clearCovers_same
    (State.undefOnChip_same (.refl _ _) rfl c) rfl c) rfl c _) rfl _ _) rfl _ _) rfl _ _) rfl _ _) rfl rings c

theorem SameFences.loseRegion (hk : SameFences s0 s) (rings : Rings) (c : Nat) : SameFences s0 (s.loseRegion rings c) := by
  have h1 : ∀ x, SameFences s0 (((s.abandonStep rings c).setCtx c x).wf (R.CMT_CSTAT_REPLAYABLE c) 1) := fun x =>
    (hk.abandonStep rings c).then_same (State.wf_same (State.setCtx_same (.refl 536870920 _) rfl c x) rfl _ _) rfl
  have h2 := fun x => (h1 x).ite (c := s.stepCurrent c = true) (hk.then_same (State.clearCovers_same (.refl 2147483648 s) rfl c) rfl)
  have h3 : SameFences s0 (s.regionGone rings c) := by
    unfold State.regionGone
    exact SameFences.ite ((h2 _).then_same (State.servAbort_same (.refl 3298534892552 _) rfl c) rfl) (h2 _)
  rw [loseRegion_eq]
  exact h3.then_same (State.raiseFor_same (State.wf_same (State.wf_same (.refl 8589934600 _) rfl _ _) rfl _ _) rfl _ _ _) rfl

theorem SameFences.fieldLost (hk : SameFences s0 s) (rings : Rings) (f : Nat) : SameFences s0 (s.fieldLost rings f) := by
  unfold State.fieldLost
  refine SameFences.foldl (fun _ c h => (h.then_same (State.servLose_same (.refl 3298534892552 _) rfl c f) rfl).ite h) _ ?_
  exact (SameFences.foldl (fun _ c h => h.loseRegion rings c) _ hk).then_same (State.loseMirrors_same (.refl 9663676424 _) rfl f) rfl

theorem resetEnded_fences (s : State) (f : Nat) : SameFences s (s.resetEnded f) := by
  have h : Same 281543696187400 s (s.resetEnded f) := by
    unfold State.resetEnded
    split
    · exact State.finishCmd_same (same_u281474976710656 (.refl _ s) rfl) rfl _ _ _ _
    · exact .refl _ s
  exact SameFences.then_same (fun _ => rfl) h rfl

/-- R443(4): the field's reset has no command left to end. -/
theorem resetEnded_resets (h : Store.Sorted s.pwr.resets) (f : Nat) : sget? (s.resetEnded f).pwr.resets f = none := by
  unfold State.resetEnded
  split
  · next q seq hg =>
    have hp := (State.finishCmd_same (s := { s with pwr := { s.pwr with resets := sdel s.pwr.resets f } }) (.refl 68719476744 _) rfl
      q seq okStatus 0).pwr.resolve_left (by decide)
    rw [hp]
    exact sget_sdel_self h f
  · next hg => exact hg

theorem isFenced_releaseField (s : State) (f : Nat) : (s.releaseField f).isFenced (.field f) = false := by
  have h : Same 8 (s.endFence (.field f)) (s.releaseField f) := by
    unfold State.releaseField
    exact foldl_same (fun _ _ h => ite_same (State.wf_same h rfl _ _) h) (.refl _ _)
  exact (isFenced_of_fences (h.fences.resolve_left (by decide)) _).trans (isFenced_endFence s _)

theorem releaseField_pwr (s : State) (f : Nat) : (s.releaseField f).pwr = s.pwr :=
  (State.releaseField_same (.refl 4294967304 s) rfl f).pwr.resolve_left (by decide)

/-- R300, R443: every context with a region in the field is in RESET when the field's reset has ended. -/
theorem endReset_reset (hs : Store.Sorted s.regs) (rings : Rings) (f : Nat) (up : Bool) (c : Fin 64) (hc : s.ownIn c f = true) :
    (s.endReset rings f up).cstate c = stReset := by
  obtain ⟨h1, h2⟩ := fieldLost_still hs rings f
  have h3 := Still.ite (c := up = true) ((Still.refl (s.fieldLost rings f)).releaseField f) (.refl _)
  rw [endReset_eq]
  exact (resetEnded_still h3 f).reset (h1.sorted hs) c (h2 c hc)

theorem endReset_still (hs : Store.Sorted s.regs) (rings : Rings) (f : Nat) (up : Bool) : Still s (s.endReset rings f up) := by
  obtain ⟨h1, -⟩ := fieldLost_still hs rings f
  rw [endReset_eq]
  exact resetEnded_still (Still.ite (h1.releaseField f) h1) f

/-- R443(4): the field's fence is over. -/
theorem endReset_released (hr : Store.Sorted s.pwr.resets) (rings : Rings) (f : Nat) :
    (s.endReset rings f true).isFenced (.field f) = false ∧ sget? (s.endReset rings f true).pwr.resets f = none := by
  have hp : ((s.fieldLost rings f).releaseField f).pwr = s.pwr := (releaseField_pwr _ f).trans (fieldLost_pwr s rings f)
  rw [endReset_eq, if_pos rfl]
  exact ⟨(resetEnded_fences _ f f).trans (isFenced_releaseField _ f), resetEnded_resets (by rw [hp]; exact hr) f⟩

/-- Log 25: the fence of a field that cannot come up stays. -/
theorem endReset_fence (rings : Rings) (f : Nat) : (s.endReset rings f false).isFenced (.field f) = s.isFenced (.field f) := by
  rw [endReset_eq, if_neg Bool.false_ne_true]
  exact (resetEnded_fences _ f f).trans (SameFences.fieldLost (s0 := s) (fun _ => rfl) rings f f)

end Losses

end Sys2Proof.Machine


/-! Arrays, furrows and fields sleep and wake (R154, R300, R443, R451, R452, R474, R475, R481): O55. -/

namespace Sys2Proof.Machine

/-! ### A field's PLLs -/

theorem pll_ne {i j : Nat} (h : i ≠ j) : A.CLK_PLL i ≠ A.CLK_PLL j := by
  unfold A.CLK_PLL
  omega

/-- The words of other PLLs. -/
theorem Loc.offPll_other {l : Loc} {i j : Nat} (h : l.addr = A.CLK_PLL i) (hi : i < 18) (hij : i ≠ j) : l.OffPll j := by
  refine ⟨ne_of_eq_of_ne h (pll_ne hij), .inl ?_⟩
  rw [h]
  unfold A.CLK_PLL Page.clockBase
  omega

/-- R475: the state that a PLL is put in. -/
theorem pll_setPll {s : State} (hs : Store.Sorted s.regs) {i : Nat} (hi : i < 18) {st : Nat} (hst : st < 2 ^ 2) : (s.setPll i st).pll i = st := by
  have h1 := sorted_wf hs (R.CLK_PLL_STATE i) st
  have hne := ne_meter (l := R.CLK_PLL_STATE i) (Loc.offPll_other (l := R.CLK_PLL_STATE i) rfl hi (Nat.succ_ne_self i).symm).2 (meterOf_lt hi)
  exact (((Spares.refl (R.CLK_PLL_STATE i) _).wf (m := R.CLK_PLL_GOOD i) (Nat.le_of_ble_eq_true rfl) (.inr (.inl (Nat.le_of_ble_eq_true rfl)))
    0).wf_far (m := R.CLK_FMETER_KHZ (meterOf i).1) hne 0).rf h1 |>.trans (wf_last (l := R.CLK_PLL_STATE i) hs (Nat.le_of_ble_eq_true rfl) hst)

theorem pll_startPll {s : State} (hs : Store.Sorted s.regs) {i : Nat} (hi : i < 18) (h : s.pll i = 0) : (s.startPll i).pll i = 1 := by
  unfold State.startPll
  rw [if_pos h]
  exact pll_setPll hs hi (by decide)

theorem pll_stopPll {s : State} (hs : Store.Sorted s.regs) {i : Nat} (hi : i < 18) : (s.stopPll i).pll i = if s.pll i = 3 then 3 else 0 := by
  unfold State.stopPll
  by_cases h : s.pll i = 3
  · rw [if_pos h, if_pos h]
    exact h
  · rw [if_neg h, if_neg h]
    exact pll_setPll hs hi (by decide)

/-! ### A field's stacks -/

theorem hbmStat_ne (f : Nat) {m k : Nat} (h : m ≠ k) : A.HBM_STAT f m ≠ A.HBM_STAT f k := by
  unfold A.HBM_STAT Page.hbmBase
  omega

theorem low_ne_hbmStat {a : Nat} (h : a < 0x1000000) (f m : Nat) : a ≠ A.HBM_STAT f m := by
  have := hbmBase_high f m
  unfold A.HBM_STAT
  omega

/-- The state `v` of every stack of a field. -/
def State.stacks (s : State) (f v : Nat) : State := (List.range 5).foldl (fun s m => s.wf (R.HBM_STAT_STATE f m) v) s

theorem stacks_spares {l : Loc} {s0 s : State} (hk : Spares l s0 s) (h : l.addr < 0x1000000) (f v : Nat) : Spares l s0 (s.stacks f v) :=
  Spares.foldl (fun _ m hu => hu.wf_far (m := R.HBM_STAT_STATE f m) (low_ne_hbmStat h f m) v) _ hk

theorem stacks_shown {s : State} (hs : Store.Sorted s.regs) (f : Nat) {v : Nat} (hv : v < 2 ^ 2) (m : Fin 5) :
    (s.stacks f v).rf (R.HBM_STAT_STATE f m) = v := by
  suffices h : ∀ (xs : List Nat) (u : State), Store.Sorted u.regs → m.val ∈ xs →
      (xs.foldl (fun s m => s.wf (R.HBM_STAT_STATE f m) v) u).rf (R.HBM_STAT_STATE f m) = v from
    h _ s hs (List.mem_range.mpr m.isLt)
  intro xs
  induction xs with
  | nil => exact fun _ _ h => nomatch h
  | cons x xs ih =>
    intro u hu hm
    by_cases hx : m.val ∈ xs
    · exact ih _ (sorted_wf hu _ _) hx
    · have hmx : m.val = x := (List.mem_cons.mp hm).resolve_right hx
      subst hmx
      have hrest := Spares.foldl_mem (l := R.HBM_STAT_STATE f m) (f := fun s k => State.wf s (R.HBM_STAT_STATE f k) v) xs
        (fun t k hk ht => ht.wf_far (m := R.HBM_STAT_STATE f k) (hbmStat_ne f fun he => hx (he ▸ hk)) v)
        (Spares.refl _ (u.wf (R.HBM_STAT_STATE f m) v))
      exact (hrest.rf (sorted_wf hu _ _)).trans (wf_last (l := R.HBM_STAT_STATE f m) hu (Nat.le_of_ble_eq_true rfl) hv)

theorem stacks_same (s : State) (f v : Nat) : Same 8 s (s.stacks f v) := foldl_same (fun _ _ h => State.wf_same h rfl _ _) (.refl 8 s)

/-! ### Arrays and furrows (R451, R452) -/

theorem furrow_sleeps {s : State} (f : Fin 4) (n : Fin 26) (h0 : s.flag R.PWR_SLEEP_AWAKE = false) (ha : s.awake f n = true)
    (hi : s.furrowIdle f n = true) : exec (.furrowSleep f n) s = .next { s with pwr := { s.pwr with awake := sdel s.pwr.awake (furKey f n) } } :=
  if_neg (by rw [h0, ha, hi]; exact Bool.false_ne_true)

theorem array_sleeps {s : State} (f : Fin 4) (n : Fin 26) (j : Fin 4) (hm : ∀ o ∈ (s.fur f n).mmas, o.mask.testBit j = false)
    (hv : ∀ o ∈ (s.fur f n).vops, o.unit ≠ 4 + j.val) :
    exec (.arraySleep f n j) s = .next { s with pwr := { s.pwr with gated := sput s.pwr.gated (furKey f n * 4 + j) () } } := by
  refine if_neg ?_
  rw [List.any_eq_false.mpr fun o ho => by rw [hm o ho]; exact Bool.false_ne_true,
    List.any_eq_false.mpr fun o ho => by rw [beq_eq_false_iff_ne.mpr (hv o ho)]; exact Bool.false_ne_true]
  exact Bool.false_ne_true

theorem furrow_wakes {s : State} (f : Fin 4) (n : Fin 26) (ha : s.fieldAwake f = true) (hr : s.retired f n = false)
    (hg : s.flag (R.CLK_GATE_FURROW_OFF f n) = false) (ho : s.fieldOff f = false) :
    exec (.furrowWake f n) s = .next { s with pwr := { s.pwr with awake := sput s.pwr.awake (furKey f n) () } } := by
  have hoff : s.furrowOff f n = false := by
    unfold State.furrowOff
    rw [hr, hg]
    rfl
  exact if_neg (by rw [ha, hoff, ho]; exact Bool.false_ne_true)

/-! ### A field goes to sleep (R451, R475) -/

/-- The field asleep, its PLLs stopped, before its stacks refresh themselves. -/
def State.pllsStopped (s : State) (f : Nat) : State := ((s.wf (R.PWR_FLD_STATE f) 0).stopPll (2 + f)).stopPll (6 + f)

theorem field_sleeps_to {s : State} (f : Fin 4) (h0 : s.flag R.PWR_SLEEP_AWAKE = false) (ha : s.fieldAwake f = true) (hq : s.fieldQuiet f = true) :
    exec (.fieldSleep f) s = .next ((s.pllsStopped f).stacks f 3) :=
  if_neg (by rw [h0, ha, hq]; exact Bool.false_ne_true)

/-- A field's power register lies in the power page. -/
theorem fld_below (f : Fin 4) : A.PWR_FLD f < 0x58000 := by
  have := f.isLt
  unfold A.PWR_FLD Page.powerBase
  omega

theorem pll_low {i : Nat} (h : i < 18) : A.CLK_PLL i < 0x1000000 := by
  unfold A.CLK_PLL Page.clockBase
  omega

theorem pll_ne_fld {i : Nat} (f : Fin 4) : A.CLK_PLL i ≠ A.PWR_FLD f := by
  have := f.isLt
  unfold A.CLK_PLL A.PWR_FLD Page.clockBase Page.powerBase
  omega

theorem fld_offPll (f : Fin 4) {i : Nat} (hi : i < 18) : (R.PWR_FLD_STATE f).OffPll i := Loc.offPll_outside (.inl (Nat.lt_trans (fld_below f) (by decide))) hi

theorem pllsStopped_same (s : State) (f : Nat) : Same 8 s (s.pllsStopped f) :=
  State.stopPll_same (State.stopPll_same (State.wf_same (.refl 8 s) rfl _ _) rfl _) rfl _

/-- R451, R475: the field's power state and PLLs as it falls asleep. -/
theorem pllsStopped_shows {s : State} (hs : Store.Sorted s.regs) (f : Fin 4) : Store.Sorted (s.pllsStopped f).regs ∧
    (s.pllsStopped f).rf (R.PWR_FLD_STATE f) = 0 ∧ (s.pllsStopped f).pll (2 + f) = (if s.pll (2 + f) = 3 then 3 else 0) ∧
    (s.pllsStopped f).pll (6 + f) = if s.pll (6 + f) = 3 then 3 else 0 := by
  have hf := f.isLt
  have h1 := sorted_wf hs (R.PWR_FLD_STATE f) 0
  have hpll : ∀ i, (s.wf (R.PWR_FLD_STATE f) 0).pll i = s.pll i := fun i =>
    ((Spares.refl (R.CLK_PLL_STATE i) s).wf_far (m := R.PWR_FLD_STATE f) (pll_ne_fld f) 0).rf hs
  have h2 := ((Spares.refl (R.PWR_FLD_STATE f) (s.wf (R.PWR_FLD_STATE f) 0)).stopPll_off (fld_offPll f (i := 2 + f) (by omega)) (by omega))
  have hoff : (R.CLK_PLL_STATE (6 + f)).OffPll (2 + f) := Loc.offPll_other (i := 6 + f) rfl (by omega) (by omega)
  have hoff' : (R.CLK_PLL_STATE (2 + f)).OffPll (6 + f) := Loc.offPll_other (i := 2 + f) rfl (by omega) (by omega)
  have h3 := h2.stopPll_off (fld_offPll f (i := 6 + f) (by omega)) (by omega)
  refine ⟨h3.sorted h1, ?_, ?_, ?_⟩
  · exact (h3.rf h1).trans (wf_last (l := R.PWR_FLD_STATE f) hs (Nat.le_of_ble_eq_true rfl) (Nat.le_of_ble_eq_true rfl))
  · refine (((Spares.refl (R.CLK_PLL_STATE (2 + f)) _).stopPll_off hoff' (by omega)).rf (h2.sorted h1)).trans ?_
    refine (pll_stopPll h1 (by omega)).trans ?_
    rw [hpll]
  · refine (pll_stopPll (h2.sorted h1) (by omega)).trans ?_
    have h6 : ((s.wf (R.PWR_FLD_STATE f) 0).stopPll (2 + f)).pll (6 + f) = s.pll (6 + f) :=
      (((Spares.refl (R.CLK_PLL_STATE (6 + f)) _).stopPll_off hoff (by omega)).rf h1).trans (hpll _)
    rw [h6]

/-- R451, R475: FIELD_SLEEP. -/
theorem field_sleeps {s : State} (hs : Store.Sorted s.regs) (f : Fin 4) (h0 : s.flag R.PWR_SLEEP_AWAKE = false) (ha : s.fieldAwake f = true)
    (hq : s.fieldQuiet f = true) : ∃ t, exec (.fieldSleep f) s = .next t ∧ s.SameBut t [.regs] ∧ t.rf (R.PWR_FLD_STATE f) = 0 ∧
      (t.pll (2 + f) = if s.pll (2 + f) = 3 then 3 else 0) ∧ (t.pll (6 + f) = if s.pll (6 + f) = 3 then 3 else 0) ∧
      ∀ m : Fin 5, t.rf (R.HBM_STAT_STATE f m) = 3 := by
  have hf := f.isLt
  obtain ⟨h1, hst, h2, h6⟩ := pllsStopped_shows hs f
  have hsame : Same (partsMask [.regs]) s ((s.pllsStopped f).stacks f 3) := (pllsStopped_same s f).trans (stacks_same _ f 3)
  have hfar : ∀ l : Loc, l.addr < 0x1000000 → ((s.pllsStopped f).stacks f 3).rf l = (s.pllsStopped f).rf l := fun l hl =>
    (stacks_spares (.refl l _) hl f 3).rf h1
  refine ⟨_, field_sleeps_to f h0 ha hq, hsame.parts, ?_, ?_, ?_, fun m => stacks_shown h1 f (by decide) m⟩
  · exact (hfar (R.PWR_FLD_STATE f) (Nat.lt_trans (fld_below f) (by decide))).trans hst
  · exact (hfar (R.CLK_PLL_STATE (2 + f)) (pll_low (by omega))).trans h2
  · exact (hfar (R.CLK_PLL_STATE (6 + f)) (pll_low (by omega))).trans h6

/-! ### A field starts to wake (R452, R474) -/

/-- The field waking, its PLLs started, before its stacks train. -/
def State.pllsStarted (s : State) (f : Nat) : State := ((s.wf (R.PWR_FLD_STATE f) 1).startPll (2 + f)).startPll (6 + f)

theorem pllsStarted_shows {s : State} (hs : Store.Sorted s.regs) (f : Fin 4) : Store.Sorted (s.pllsStarted f).regs ∧
    (s.pllsStarted f).rf (R.PWR_FLD_STATE f) = 1 ∧ (s.pll (2 + f) = 0 → (s.pllsStarted f).pll (2 + f) = 1) ∧
    (s.pll (6 + f) = 0 → (s.pllsStarted f).pll (6 + f) = 1) := by
  have hf := f.isLt
  have h1 := sorted_wf hs (R.PWR_FLD_STATE f) 1
  have hpll : ∀ i, (s.wf (R.PWR_FLD_STATE f) 1).pll i = s.pll i := fun i =>
    ((Spares.refl (R.CLK_PLL_STATE i) s).wf_far (m := R.PWR_FLD_STATE f) (pll_ne_fld f) 1).rf hs
  have h2 := ((Spares.refl (R.PWR_FLD_STATE f) (s.wf (R.PWR_FLD_STATE f) 1)).startPll_off (fld_offPll f (i := 2 + f) (by omega)) (by omega))
  have hoff : (R.CLK_PLL_STATE (6 + f)).OffPll (2 + f) := Loc.offPll_other (i := 6 + f) rfl (by omega) (by omega)
  have hoff' : (R.CLK_PLL_STATE (2 + f)).OffPll (6 + f) := Loc.offPll_other (i := 2 + f) rfl (by omega) (by omega)
  have h3 := h2.startPll_off (fld_offPll f (i := 6 + f) (by omega)) (by omega)
  refine ⟨h3.sorted h1, ?_, fun h0 => ?_, fun h0 => ?_⟩
  · exact (h3.rf h1).trans (wf_last (l := R.PWR_FLD_STATE f) hs (Nat.le_of_ble_eq_true rfl) (Nat.le_of_ble_eq_true rfl))
  · exact (((Spares.refl (R.CLK_PLL_STATE (2 + f)) _).startPll_off hoff' (by omega)).rf (h2.sorted h1)).trans
      (pll_startPll h1 (by omega) ((hpll _).trans h0))
  · refine pll_startPll (h2.sorted h1) (by omega) ?_
    exact (((Spares.refl (R.CLK_PLL_STATE (6 + f)) _).startPll_off hoff (by omega)).rf h1).trans ((hpll _).trans h0)

theorem pllsStarted_same (s : State) (f : Nat) : Same 8 s (s.pllsStarted f) :=
  State.startPll_same (State.startPll_same (State.wf_same (.refl 8 s) rfl _ _) rfl _) rfl _

section Wake

variable {s : State} {f : Fin 4} (hoff : s.fieldOff f = false) (hst5 : s.stage = 5)

include hoff hst5

/-- A request that may wake the field. -/
theorem fieldWake_admitted (failing : List (Fin 5)) (rings : Rings) : exec (.fieldWake f failing rings) s =
    if s.rf (R.PWR_FLD_STATE f) = 0 then (if s.flag R.CLK_STAT_AO_REF then .next ((s.pllsStarted f).stacks f 1) else .next s)
    else if s.rf (R.PWR_FLD_STATE f) ≠ 2 ∧ s.pll (2 + f) = 2 ∧ s.pll (6 + f) = 2 then
      .next (((if s.rf (R.PWR_FLD_STATE f) = 3 then s.endReset rings f true else s).fieldUp f failing).admitAll)
    else .next (s.failReset rings f) :=
  if_neg (by rw [hoff, hst5]; decide)

/-- R452, R474: FIELD_WAKE of a sleeping field. -/
theorem field_starts (hs : Store.Sorted s.regs) (failing : List (Fin 5)) (rings : Rings) (h0 : s.rf (R.PWR_FLD_STATE f) = 0)
    (ha : s.flag R.CLK_STAT_AO_REF = true) : ∃ t, exec (.fieldWake f failing rings) s = .next t ∧
      s.SameBut t [.regs] ∧ t.rf (R.PWR_FLD_STATE f) = 1 ∧ (s.pll (2 + f) = 0 → t.pll (2 + f) = 1) ∧
      (s.pll (6 + f) = 0 → t.pll (6 + f) = 1) ∧ ∀ m : Fin 5, t.rf (R.HBM_STAT_STATE f m) = 1 := by
  have hf := f.isLt
  obtain ⟨h1, hst, h2, h6⟩ := pllsStarted_shows hs f
  have hsame : Same (partsMask [.regs]) s ((s.pllsStarted f).stacks f 1) := (pllsStarted_same s f).trans (stacks_same _ f 1)
  have hfar : ∀ l : Loc, l.addr < 0x1000000 → ((s.pllsStarted f).stacks f 1).rf l = (s.pllsStarted f).rf l := fun l hl =>
    (stacks_spares (.refl l _) hl f 1).rf h1
  refine ⟨(s.pllsStarted f).stacks f 1, ?_, hsame.parts, ?_, fun h => ?_, fun h => ?_, fun m => stacks_shown h1 f (by decide) m⟩
  · rw [fieldWake_admitted hoff hst5, if_pos h0, if_pos ha]
  · exact (hfar (R.PWR_FLD_STATE f) (Nat.lt_trans (fld_below f) (by decide))).trans hst
  · exact (hfar (R.CLK_PLL_STATE (2 + f)) (pll_low (by omega))).trans (h2 h)
  · exact (hfar (R.CLK_PLL_STATE (6 + f)) (pll_low (by omega))).trans (h6 h)

end Wake

/-! ### A field that is up (R154, R173, R452) -/

/-- What a stack's training gives. -/
def State.stackUp (failing : List (Fin 5)) (f : Nat) (s : State) (m : Nat) : State :=
  if failing.any fun x => x.val == m then
    ((s.wf (R.HBM_STAT_STATE f m) 1).raiseSrc (Page.hbmBase f m) 3).fenceField f
  else s.wf (R.HBM_STAT_STATE f m) 2

/-- The field awake at level 8, before its stacks train. -/
def State.levelUp (s : State) (f : Nat) : State := ((s.wf (R.PWR_FLD_STATE f) 2).wf (R.PWR_FLD_LEVEL f) 8).applyDuty

theorem fieldUp_eq (s : State) (f : Nat) (failing : List (Fin 5)) :
    s.fieldUp f failing = (List.range 5).foldl (State.stackUp failing f) (s.levelUp f) := rfl

theorem any_failing (failing : List (Fin 5)) (m : Fin 5) : (failing.any fun x => x.val == m.val) = decide (m ∈ failing) := by
  rw [Bool.eq_iff_iff, List.any_eq_true, decide_eq_true_iff]
  exact ⟨fun ⟨x, hx, he⟩ => Fin.ext (eq_of_beq he) ▸ hx, fun h => ⟨m, h, beq_self_eq_true _⟩⟩

/-- A register that the fences of a field and its ports leave. -/
theorem Spares.fenceField_off {l : Loc} {s0 s : State} (hk : Spares l s0 s) (hpll : ∀ p, p < 8 → l.OffPll (10 + p))
    (hport : ∀ p, l.addr ≠ A.MBL_STAT p) (hst : ∀ c, c < 64 → l.NoState c) {f : Nat} (hf : f < 4) : Spares l s0 (s.fenceField f) := by
  have hb := hk.then_regs (beginFence_regs s (.field f)).1
  rw [fenceField_eq]
  refine hk.ite (Spares.foldl_mem _ (fun _ c hc hu => (hu.blockCause (hst c (List.mem_range.mp hc)) 5).ite hu) ?_)
  exact (hb.fencePort (by omega) (hpll _ (by omega)) (hport _)).fencePort (by omega) (hpll _ (by omega)) (hport _)

theorem hbmStat_high (f m : Nat) : 0x1000000 ≤ A.HBM_STAT f m := Nat.le_trans (hbmBase_high f m) (Nat.le_add_right _ _)

/-- The state of a stack stays through a fence of its field. -/
theorem Spares.stack_fence {f m : Nat} (hf : f < 4) (hm : m < 5) {s0 s : State} (hk : Spares (R.HBM_STAT_STATE f m) s0 s) :
    Spares (R.HBM_STAT_STATE f m) s0 (s.fenceField f) := by
  have hh : 0x1000000 ≤ (R.HBM_STAT_STATE f m).addr := hbmStat_high f m
  refine hk.fenceField_off (fun p hp => Loc.offPll_outside (by omega) (by omega)) (fun p => ?_) (fun c hc => .inl ?_) hf
  · show A.HBM_STAT f m ≠ A.MBL_STAT p
    unfold A.HBM_STAT A.MBL_STAT Page.hbmBase Page.portBase Page.fieldBase
    omega
  · have := (cstat_range hc).2
    omega

theorem hbmStat_noErr (f m k : Nat) : (R.HBM_STAT_STATE f m).NoErr (Page.hbmBase f k) := by
  refine Loc.noErr_of_page ?_
  show A.HBM_STAT f m < _ ∨ _ ≤ A.HBM_STAT f m
  unfold A.HBM_STAT Page.hbmBase
  omega

section Stacks

variable {f : Fin 4} (failing : List (Fin 5))

/-- The training of another stack. -/
theorem stackUp_other {s0 s : State} {m k : Nat} (hm : m < 5) (h : m ≠ k) (hs : Spares (R.HBM_STAT_STATE f m) s0 s) :
    Spares (R.HBM_STAT_STATE f m) s0 (s.stackUp failing f k) := by
  have hw := fun v => hs.wf_far (m := R.HBM_STAT_STATE f k) (hbmStat_ne f h) v
  unfold State.stackUp
  exact Spares.ite (((hw 1).raiseSrc (hbmStat_noErr f m k) 3).stack_fence f.isLt hm) (hw 2)

theorem stackUp_calm {l : Loc} {s0 s : State} (hk : Spares l s0 s) (h : l.Calm) (hl : l.addr < 0x1000000) (k : Nat) :
    Spares l s0 (s.stackUp failing f k) := by
  have hw := fun v => hk.wf_far (m := R.HBM_STAT_STATE f k) (low_ne_hbmStat hl f k) v
  unfold State.stackUp
  exact Spares.ite (((hw 1).raiseSrc (noErr_high hl (hbmBase_high f k)) 3).fenceField_calm h f.isLt) (hw 2)

theorem stackUp_sorted {s : State} (hs : Store.Sorted s.regs) (k : Nat) : Store.Sorted (s.stackUp failing f k).regs :=
  (stackUp_calm failing (.refl R.PWR_SLEEP_AWAKE s) ⟨by decide, by decide, by decide, by decide, by decide, by decide, by decide⟩ (by decide) k).sorted hs

/-- The stack's own training. -/
theorem stackUp_state {s : State} (hs : Store.Sorted s.regs) (m : Fin 5) :
    (s.stackUp failing f m).rf (R.HBM_STAT_STATE f m) = if m ∈ failing then 1 else 2 := by
  unfold State.stackUp
  rw [any_failing]
  by_cases h : m ∈ failing
  · rw [decide_eq_true h, if_pos rfl, if_pos h]
    exact ((((Spares.refl _ (s.wf (R.HBM_STAT_STATE f m) 1)).raiseSrc (hbmStat_noErr f m m) 3).stack_fence f.isLt m.isLt).rf
      (sorted_wf hs _ _)).trans (wf_last (l := R.HBM_STAT_STATE f m) hs (Nat.le_of_ble_eq_true rfl) (Nat.le_of_ble_eq_true rfl))
  · rw [decide_eq_false h, if_neg Bool.false_ne_true, if_neg h]
    exact wf_last (l := R.HBM_STAT_STATE f m) hs (Nat.le_of_ble_eq_true rfl) (Nat.le_of_ble_eq_true rfl)

theorem hbmBase_page (g m : Nat) : Page.hbmBase g m % 0x1000 = 0 := by
  unfold Page.hbmBase Page.fieldBase
  omega

theorem louder_stackUp (s : State) (k : Nat) : Louder s (s.stackUp failing f k) := by
  have hw : ∀ v, Louder s (s.wf (R.HBM_STAT_STATE f k) v) := fun v => by
    have hh := hbmStat_high f k
    have hp := hbmBase_page f k
    refine louder_wf ?_ (.inr ?_) (fun he => ?_) v
    · show (Page.hbmBase f k + 0x104) % 0x1000 ≠ 0x10
      omega
    · show 0x71000 ≤ A.HBM_STAT f k
      omega
    · have : A.HBM_STAT f k = A.FCOL_STAT := he
      unfold A.FCOL_STAT Page.collectorBase at this
      omega
  unfold State.stackUp
  exact Louder.ite ((hw 1).trans ((louder_raiseSrc _ (hbmBase_page f k) 3).trans (louder_fenceField _ f.isLt))) (hw 2)

/-- R154, R173: a stack that fails its training is reported, and its field fenced. -/
theorem stackUp_fails {s : State} (hs : Store.Sorted s.regs) {m : Fin 5} (h : m ∈ failing) :
    (s.stackUp failing f m).isFenced (.field f) = true ∧ ((s.stackUp failing f m).rf (R.ERR_STAT_STAT (Page.hbmBase f m))).testBit 3 = true := by
  unfold State.stackUp
  rw [any_failing, decide_eq_true h, if_pos rfl]
  have h1 := sorted_wf hs (R.HBM_STAT_STATE f m) 1
  exact ⟨(isFenced_fenceField _ f).1, (louder_fenceField _ f.isLt).bits (sorted_raiseSrc h1 _ _) _ 3 (.stat _ (hbmBase_page f m) rfl)
    (raiseSrc_raised h1 _ (by decide))⟩

theorem stackUp_fences (s : State) (k : Nat) : (∀ e, s.isFenced e = true → (s.stackUp failing f k).isFenced e = true) ∧
    (failing = [] → (s.stackUp failing f k).fences = s.fences) := by
  have hw : ∀ v, (s.wf (R.HBM_STAT_STATE f k) v).fences = s.fences := fun v => fences_wf s _ v
  unfold State.stackUp
  refine ⟨fun e he => ?_, fun h => ?_⟩
  · split
    · refine (isFenced_fenceField _ f).2 e ((isFenced_of_fences ((raiseFor_fences _ _ _ none).trans (hw 1)) e).trans he)
    · exact (isFenced_of_fences (hw 2) e).trans he
  · rw [h]
    exact hw 2

/-! ### All stacks of a field -/

theorem stacksUp_calm {l : Loc} (h : l.Calm) (hl : l.addr < 0x1000000) (xs : List Nat) (s : State) :
    Spares l s (xs.foldl (State.stackUp failing f) s) := Spares.foldl (fun _ k hu => stackUp_calm failing hu h hl k) xs (.refl l s)

theorem stacksUp_state (m : Fin 5) : ∀ (xs : List Nat) {s : State}, Store.Sorted s.regs → m.val ∈ xs →
    (xs.foldl (State.stackUp failing f) s).rf (R.HBM_STAT_STATE f m) = if m ∈ failing then 1 else 2
  | [], _, _, h => nomatch h
  | x :: xs, s, hs, hm => by
    by_cases hx : m.val ∈ xs
    · exact stacksUp_state m xs (stackUp_sorted failing hs x) hx
    · have hmx : m.val = x := (List.mem_cons.mp hm).resolve_right hx
      subst hmx
      have hrest := Spares.foldl_mem (l := R.HBM_STAT_STATE f m) (f := State.stackUp failing f) xs
        (fun t k hk ht => stackUp_other failing m.isLt (fun he => hx (he ▸ hk)) ht) (Spares.refl _ (s.stackUp failing f m))
      exact (hrest.rf (stackUp_sorted failing hs m)).trans (stackUp_state failing hs m)

theorem stacksUp_fails {m : Fin 5} (h : m ∈ failing) : ∀ (xs : List Nat) {s : State}, Store.Sorted s.regs →
    (m.val ∈ xs ∨ s.isFenced (.field f) = true ∧ (s.rf (R.ERR_STAT_STAT (Page.hbmBase f m))).testBit 3 = true) →
    (xs.foldl (State.stackUp failing f) s).isFenced (.field f) = true ∧
      ((xs.foldl (State.stackUp failing f) s).rf (R.ERR_STAT_STAT (Page.hbmBase f m))).testBit 3 = true
  | [], _, _, hm => hm.resolve_left fun hn => nomatch hn
  | x :: xs, s, hs, hm => by
    refine stacksUp_fails h xs (stackUp_sorted failing hs x) ?_
    rcases hm with hm | ⟨hf, hb⟩
    · rcases List.mem_cons.mp hm with rfl | hm
      · exact .inr (stackUp_fails failing hs h)
      · exact .inl hm
    · exact .inr ⟨(stackUp_fences failing s x).1 _ hf, (louder_stackUp failing s x).bits hs _ 3 (.stat _ (hbmBase_page f m) rfl) hb⟩

theorem stacksUp_fences (h : failing = []) : ∀ (xs : List Nat) (s : State), (xs.foldl (State.stackUp failing f) s).fences = s.fences
  | [], _ => rfl
  | x :: xs, s => (stacksUp_fences h xs _).trans ((stackUp_fences failing s x).2 h)

end Stacks

theorem fld_calm (f : Fin 4) {l : Loc} (h : l.addr = A.PWR_FLD f) : l.Calm := by
  have := f.isLt
  unfold A.PWR_FLD Page.powerBase at h
  refine ⟨?_, ?_, ?_, ?_, ?_, ?_, ?_⟩ <;> try omega
  unfold A.FCOL_STAT Page.collectorBase
  omega

/-- R452: the field is awake, at level 8. -/
theorem levelUp_shows {s : State} (hs : Store.Sorted s.regs) (f : Fin 4) : Store.Sorted (s.levelUp f).regs ∧
    (s.levelUp f).rf (R.PWR_FLD_STATE f) = 2 ∧ (s.levelUp f).rf (R.PWR_FLD_LEVEL f) = 8 ∧ (s.levelUp f).fences = s.fences := by
  have h1 := sorted_wf hs (R.PWR_FLD_STATE f) 2
  have h2 := sorted_wf h1 (R.PWR_FLD_LEVEL f) 8
  have hduty : ∀ l : Loc, l.addr = A.PWR_FLD f → l.lo + l.wid ≤ 16 →
      Spares l ((s.wf (R.PWR_FLD_STATE f) 2).wf (R.PWR_FLD_LEVEL f) 8) (s.levelUp f) := fun l ha hw =>
    (Spares.refl l _).applyDuty (fun _ _ => .inr (.inl hw)) (.inl (ne_of_eq_of_ne ha (fld_ne_stat f)))
  have hst := hduty (R.PWR_FLD_STATE f) rfl (Nat.le_of_ble_eq_true rfl)
  have hlv := hduty (R.PWR_FLD_LEVEL f) rfl (Nat.le_of_ble_eq_true rfl)
  refine ⟨hst.sorted h2, ?_, ?_, ?_⟩
  · refine (hst.rf h2).trans ((((Spares.refl (R.PWR_FLD_STATE f) _).wf (m := R.PWR_FLD_LEVEL f) (Nat.le_of_ble_eq_true rfl)
      (.inr (.inl (Nat.le_of_ble_eq_true rfl))) 8).rf h1).trans ?_)
    exact wf_last (l := R.PWR_FLD_STATE f) hs (Nat.le_of_ble_eq_true rfl) (Nat.le_of_ble_eq_true rfl)
  · exact (hlv.rf h2).trans (wf_last (l := R.PWR_FLD_LEVEL f) h1 (Nat.le_of_ble_eq_true rfl) (Nat.le_of_ble_eq_true rfl))
  · have h : Same 8 s (s.levelUp f) := State.applyDuty_same (State.wf_same (State.wf_same (.refl 8 s) rfl _ _) rfl _ _) rfl
    exact h.fences.resolve_left (by decide)

/-- R154, R173, R452: the field whose PLLs are LOCKED comes up. -/
theorem fieldUp_shows {s : State} (hs : Store.Sorted s.regs) (f : Fin 4) (failing : List (Fin 5)) :
    s.SameBut (s.fieldUp f failing) [.regs, .fences, .pairs, .ports] ∧ (s.fieldUp f failing).fieldAwake f = true ∧
    (s.fieldUp f failing).rf (R.PWR_FLD_LEVEL f) = 8 ∧
    (∀ m : Fin 5, (s.fieldUp f failing).rf (R.HBM_STAT_STATE f m) = if m ∈ failing then 1 else 2) ∧
    (failing = [] → (s.fieldUp f failing).fences = s.fences) ∧
    ∀ m ∈ failing, (s.fieldUp f failing).isFenced (.field f) = true ∧
      ((s.fieldUp f failing).rf (R.ERR_STAT_STAT (Page.hbmBase f m))).testBit 3 = true := by
  obtain ⟨h1, hst, hlv, hfn⟩ := levelUp_shows hs f
  have hsame : Same (partsMask [.regs, .fences, .pairs, .ports]) s (s.fieldUp f failing) := State.fieldUp_same (.refl _ s) rfl f failing
  have hlow := Nat.lt_trans (fld_below f) (show 0x58000 < 0x1000000 by decide)
  refine ⟨hsame.parts, ?_, ?_, fun m => ?_, fun h => ?_, fun m h => ?_⟩
  · unfold State.fieldAwake
    rw [fieldUp_eq, (stacksUp_calm failing (l := R.PWR_FLD_STATE f) (fld_calm f rfl) hlow _ _).rf h1, hst]
    rfl
  · rw [fieldUp_eq, (stacksUp_calm failing (l := R.PWR_FLD_LEVEL f) (fld_calm f rfl) hlow _ _).rf h1, hlv]
  · rw [fieldUp_eq]
    exact stacksUp_state failing m _ h1 (List.mem_range.mpr m.isLt)
  · rw [fieldUp_eq, stacksUp_fences failing h, hfn]
  · rw [fieldUp_eq]
    exact stacksUp_fails failing h _ h1 (.inl (List.mem_range.mpr m.isLt))

section Wake

variable {s : State} {f : Fin 4} (hoff : s.fieldOff f = false) (hst5 : s.stage = 5)

include hoff hst5

theorem field_comes_up (hs : Store.Sorted s.regs) (failing : List (Fin 5)) (rings : Rings) (h1 : s.rf (R.PWR_FLD_STATE f) = 1)
    (hl : s.pll (2 + f) = 2) (hh : s.pll (6 + f) = 2) : ∃ t, exec (.fieldWake f failing rings) s = .next t ∧
      t = (s.fieldUp f failing).admitAll ∧ ((∀ k : Fin 4, (s.eng k).waiting = []) →
      s.SameBut t [.regs, .fences, .pairs, .ports] ∧ t.fieldAwake f = true ∧ t.rf (R.PWR_FLD_LEVEL f) = 8 ∧
      (∀ m : Fin 5, t.rf (R.HBM_STAT_STATE f m) = if m ∈ failing then 1 else 2) ∧
      (failing = [] → t.fences = s.fences) ∧
      ∀ m ∈ failing, t.isFenced (.field f) = true ∧ (t.rf (R.ERR_STAT_STAT (Page.hbmBase f m))).testBit 3 = true) := by
  refine ⟨(s.fieldUp f failing).admitAll, ?_, rfl, fun hw => ?_⟩
  · rw [fieldWake_admitted hoff hst5, if_neg (by rw [h1]; decide), if_pos ⟨by rw [h1]; decide, hl, hh⟩, if_neg (by rw [h1]; decide)]
  · have heng : (s.fieldUp f failing).engines = s.engines :=
      (State.fieldUp_same (.refl 287762808840 s) rfl f failing).engines.resolve_left (by decide)
    have hidle : (s.fieldUp f failing).admitAll = s.fieldUp f failing := admitAll_idle fun k => by
      unfold State.eng
      rw [heng]
      exact hw k
    rw [hidle]
    exact fieldUp_shows hs f failing

/-- R443, R474: a field held in reset whose PLLs are LOCKED. -/
theorem held_comes_up (hs : Store.Sorted s.regs) (hr : Store.Sorted s.pwr.resets) (failing : List (Fin 5)) (rings : Rings)
    (hheld : s.rf (R.PWR_FLD_STATE f) = 3) (hl : s.pll (2 + f) = 2) (hh : s.pll (6 + f) = 2) :
    ∃ v t, exec (.fieldWake f failing rings) s = .next t ∧ v = s.endReset rings f true ∧ t = (v.fieldUp f failing).admitAll ∧
      v.isFenced (.field f) = false ∧ sget? v.pwr.resets f = none ∧ ∀ c : Fin 64, s.ownIn c f = true → v.cstate c = stReset := by
  obtain ⟨h1, h2⟩ := endReset_released hr rings f
  refine ⟨_, _, ?_, rfl, rfl, h1, h2, fun c hc => endReset_reset hs rings f true c hc⟩
  rw [fieldWake_admitted hoff hst5, if_neg (by rw [hheld]; decide), if_pos ⟨by rw [hheld]; decide, hl, hh⟩, if_pos hheld]

/-- R443, R475: a field held in reset a PLL of which is LOST ends asleep and fenced (log 25). -/
theorem held_fails (hs : Store.Sorted s.regs) (failing : List (Fin 5)) (rings : Rings) (hheld : s.rf (R.PWR_FLD_STATE f) = 3)
    (hl : s.pll (2 + f) = 3 ∨ s.pll (6 + f) = 3) : ∃ t, exec (.fieldWake f failing rings) s = .next t ∧
      t = (s.wf (R.PWR_FLD_STATE f) 0).endReset rings f false ∧ t.rf (R.PWR_FLD_STATE f) = 0 ∧
      t.isFenced (.field f) = s.isFenced (.field f) ∧ ∀ c : Fin 64, s.ownIn c f = true → t.cstate c = stReset := by
  have hw := sorted_wf hs (R.PWR_FLD_STATE f) 0
  have hown : (s.wf (R.PWR_FLD_STATE f) 0).ownIn = s.ownIn := funext fun c => funext fun g => by
    unfold State.ownIn
    rw [show (s.wf (R.PWR_FLD_STATE f) 0).regions = s.regions from (congrArg State.regions (wf_frame s (R.PWR_FLD_STATE f) 0) :)]
  refine ⟨_, ?_, rfl, ?_, ?_, fun c hc => endReset_reset hw rings f false c (hown ▸ hc)⟩
  · rw [fieldWake_admitted hoff hst5, if_neg (by rw [hheld]; decide), if_neg (by omega)]
    unfold State.failReset
    rw [if_pos ⟨by unfold State.heldInReset; rw [hheld]; rfl, hl⟩]
  · have hpage : 0x50000 ≤ A.PWR_FLD f := by
      unfold A.PWR_FLD Page.powerBase
      omega
    exact ((endReset_still hw rings f false).power hw _ hpage (fld_below f)).trans
      (wf_last (l := R.PWR_FLD_STATE f) hs (Nat.le_of_ble_eq_true rfl) (Nat.le_of_ble_eq_true rfl))
  · exact (endReset_fence rings f).trans (isFenced_of_fences (fences_wf s _ 0) _)

/-- R443, R475: a held field waits while its PLLs start. -/
theorem held_waits (failing : List (Fin 5)) (rings : Rings) (hheld : s.rf (R.PWR_FLD_STATE f) = 3) (hl : s.pll (2 + f) < 2)
    (hh : s.pll (6 + f) ≠ 3) : exec (.fieldWake f failing rings) s = .next s := by
  rw [fieldWake_admitted hoff hst5, if_neg (by rw [hheld]; decide), if_neg (by omega)]
  unfold State.failReset
  rw [if_neg fun h => h.2.elim (fun h => by omega) hh]

end Wake

/-- Settles O55: each clause is one case of the command. While a field's reset ends, the work of contexts touches neither the
power page nor a context in RESET (`endReset_still`), since only a context below 64 has streams and raises events; a held field
that cannot come up ends asleep and fenced (log 25). -/
theorem sleepAndWake : Obligations.SleepAndWake := by
  unfold Obligations.SleepAndWake
  intro f n j failing rings s hc hr
  have hs := hc.regs
  refine ⟨fun hm hv => ⟨_, array_sleeps f n j hm hv, rfl, rfl⟩, fun h0 ha hi => ⟨_, furrow_sleeps f n h0 ha hi, rfl, rfl, fun h => ?_⟩,
    fun h => ⟨if_pos (by rw [h]; rfl), if_pos (by rw [h]; rfl)⟩, fun h0 ha hq => field_sleeps hs f h0 ha hq,
    fun ha hret hg ho => ⟨_, furrow_wakes f n ha hret hg ho, rfl, ?_, rfl⟩, fun h => if_pos (by rw [h]; rfl), fun hoff hst5 => ⟨?_, ?_, fun hheld => ?_⟩⟩
  · exact congrArg Option.isSome (sget_sdel_self h _)
  · exact congrArg Option.isSome (sget_sput_self _ _ _)
  · exact fun h0 ha => field_starts hoff hst5 hs failing rings h0 ha
  · exact fun h1 hl hh => field_comes_up hoff hst5 hs failing rings h1 hl hh
  · have h3 : s.rf (R.PWR_FLD_STATE f) = 3 := eq_of_beq hheld
    exact ⟨fun hl hh => held_comes_up hoff hst5 hs hr failing rings h3 hl hh, fun hl => held_fails hoff hst5 hs failing rings h3 hl,
      fun hl hh => held_waits hoff hst5 failing rings h3 hl hh⟩

end Sys2Proof.Machine
